-- ==== Sys2Proof/Word.lean ====
section
/-!
DEFINITION. Word.lean: the word types, and the plainest moves between numbers, bytes and bit lists.
-/
namespace Sys2Proof

/-- One byte of a packet, a frame or a record. -/
abbrev Byte := BitVec 8

/-- One word of the register fabric (R37). -/
abbrev Word := BitVec 32

/-- The number whose bits `hi` down to `lo` of `v` are. -/
def bits (v hi lo : Nat) : Nat := (v >>> lo) % 2 ^ (hi + 1 - lo)

/-- Bit `i` of `v`. -/
def bitAt (v i : Nat) : Bool := v.testBit i

/-- 1 for true and 0 for false. -/
def bit (b : Bool) : Nat := if b then 1 else 0

/-- The two's-complement reading of the low `w` bits of `v`. -/
def toSigned (w v : Nat) : Int :=
  let m := v % 2 ^ w
  if m < 2 ^ (w - 1) then (m : Int) else (m : Int) - (2 ^ w : Nat)

/-- The low `w` bits of an integer, in two's complement. -/
def ofSigned (w : Nat) (i : Int) : Nat := (i % ((2 ^ w : Nat) : Int)).toNat

/-- An integer wrapped to a signed counter of `w` bits. -/
def wrapSigned (w : Nat) (i : Int) : Int := toSigned w (ofSigned w i)

/-- The `n` bytes of a number, least significant first (R359). -/
def leBytes : Nat → Nat → List Byte
  | 0, _ => []
  | n + 1, v => BitVec.ofNat 8 v :: leBytes n (v / 256)

/-- The number that bytes spell, least significant first (R359). -/
def leNat : List Byte → Nat
  | [] => 0
  | b :: l => b.toNat + 256 * leNat l

/-- The number that bytes spell, most significant first. -/
def beNat (l : List Byte) : Nat := leNat l.reverse

/-- The `n` bytes of a number, most significant first. -/
def beBytes (n v : Nat) : List Byte := (leBytes n v).reverse

/-- `n` zero bytes (the zN of the command reference). -/
def zeros (n : Nat) : List Byte := List.replicate n 0

/-- Bytes `o` to `o + n - 1` of a list. -/
def slice (l : List Byte) (o n : Nat) : List Byte := (l.drop o).take n

/-- A little-endian field of `n` bytes at offset `o`. -/
def leAt (l : List Byte) (o n : Nat) : Nat := leNat (slice l o n)

/-- The bytes `l` with those from offset `o` on replaced by `d`. -/
def patch (l : List Byte) (o : Nat) (d : List Byte) : List Byte := l.take o ++ d ++ l.drop (o + d.length)

/-- Replaces entry `i` of a list. -/
def setAt {α : Type} : List α → Nat → α → List α
  | [], _, _ => []
  | _ :: l, 0, a => a :: l
  | b :: l, i + 1, a => b :: setAt l i a

/-- Applies `f` to entry `i` of a list. -/
def updAt {α : Type} : List α → Nat → (α → α) → List α
  | [], _, _ => []
  | b :: l, 0, f => f b :: l
  | b :: l, i + 1, f => b :: updAt l i f

/-- A sum cut at a saturating counter's top. -/
def satAdd (top a b : Nat) : Nat := min top (a + b)

/-- An integer cut to a range. -/
def clampI (lo hi v : Int) : Int := max lo (min hi v)

end Sys2Proof
end

