-- ==== Sys2Proof/Syntax.lean ====
section
/-!
DEFINITION. Syntax.lean: the commands and events the block takes, and the operands they carry. An operand is what the
outside (a host, a field node, a ring neighbour, the plant at a ball) supplies with the event; what the spec makes the module
compute is never an operand.
-/
namespace Sys2Proof

/-- Who makes a register access through the fabric (R37): a host command of a session record, the service port (R595), a
function or real-time service on a core, the control engine, or the supervisor SPI port. -/
inductive Src where
  | host (record : Nat)
  | service
  | core
  | engine
  | supervisor
deriving DecidableEq, Repr

/-- The header fields of a host packet that decide how it is taken (R359): the datagram's source, SESSION, SEQUENCE, the TAG
word (CLASS in bits 15:13, the tag in bits 8:0), and RETRY. -/
structure Hdr where
  ip : Nat
  port : Nat
  session : Nat
  seq : Nat
  tagw : Nat
  retry : Bool
deriving DecidableEq, Repr

/-- The pattern of a valid encoder edge (R41, R43). -/
inductive Edge where
  | aLeads
  | bLeads
  | both
deriving DecidableEq, Repr

/-- An edge on the lines of an encoder (R40, R42): its pattern, whether its channel is B, and for how many samples of 10 ns the new
level has been stable. -/
structure LineEdge where
  pat : Edge
  chB : Bool
  samples : Nat
deriving DecidableEq, Repr

/-- A pulse on the Z line of a lane, whose level has been stable for so many samples of 10 ns (R42, R69). -/
structure ZPulse where
  lane : Nat
  samples : Nat
deriving DecidableEq, Repr

/-- An edge on MAINS_SYNC (R70): its direction, and for how many ns the new level has been stable. -/
structure SyncEdge where
  falling : Bool
  stable : Nat
deriving DecidableEq, Repr

/-- The consumer of a word of DRAM (R25); for the reconstruction engine the stack and the byte that the word lies at. -/
inductive MemUser where
  | reconEngine (stack addr : Nat)
  | ledgerParcel (pid : Nat)
  | ledgerLot (index : Nat)
  | coreData (core : Nat)
  | coreCode (core : Nat)
  | bulkRead (record tag : Nat)
deriving DecidableEq, Repr

/-- A read that finds wrong bits, with their number (R23): of a 64-bit word of DRAM for a consumer, or of a 1,024-byte codeword of
NAND in firmware bank 0 or 1 or in a matrix bank. -/
inductive MemErr where
  | word (errors : Nat) (user : MemUser)
  | firmware (errors bank : Nat)
  | matrix (errors : Nat)
deriving DecidableEq, Repr

/-- What one sense channel, or one sensing guard of a burst, measures in a step (R79, R95): its converter's codes before the dwell
with their times, its 1,024 codes of the dwell, and the levels of its output monitor in 0.1 % of range with their times.
Times are in ns from the step's strobe. -/
structure ChSense where
  ch : Nat
  settle : List (Nat × Int)
  dwell : List Int
  monitor : List (Nat × Nat)
deriving DecidableEq, Repr

/-- What the front-end dies measure in a 40 µs step (R95): when the dwell begins, the channels, the 1,024 codes of the drive monitor,
the times at which the drive stage is at its current limit (R84) and at which a guard's buffer is out of compliance (R85), and
the dies whose strobe was out of its slot or whose link repeated a transfer (AFT_STAT). Times are in ns from the strobe. -/
structure StepSense where
  dwellAt : Nat
  channels : List ChSense
  drive : List Int
  limited : List Nat
  guards : List (Nat × Nat)
  syncErr : List Nat
  linkErr : List Nat
deriving DecidableEq, Repr

/-- What one channel measures in one step of a calibration sweep (R110): its range code, the reference (0 open input, 1 capacitor, 2
resistor), which of the 64 steps averaged it is, the 1,024 codes of its converter and of the drive monitor, and whether the step's
strobe was out of its slot and the transfer of its result was repeated (AFT_STAT). -/
structure CalStep where
  ch : Nat
  code : Nat
  ref : Nat
  step : Nat
  sense : List Int
  drive : List Int
  syncErr : Bool := false
  linkErr : Bool := false
deriving DecidableEq, Repr

/-- What the conversion of a temperature sensor finds (R578, R656): its reading in 0.01 °C, and what tells an open or short one: of a
remote diode its voltage in µV, of a thermistor its resistance in mΩ. An on-die diode has no such test. -/
structure TempSense where
  reading : Int
  level : Nat
deriving DecidableEq, Repr

/-- What a valve channel's converters measured over the period that ends at its reload. -/
structure CoilMeas where
  /-- Coil current at the reload, in mA. -/
  current : Nat
  /-- Mean current of the period that ended, in mA. -/
  mean : Nat
deriving DecidableEq, Repr

/-- What a blower channel measured over the period that ends at its reload. -/
structure FanMeas where
  /-- Mean current of the period, in mA. -/
  mean : Nat
  /-- Peak current of the period, in mA. -/
  peak : Nat
deriving DecidableEq, Repr

/-- What the FA die delivers at the end of a field measurement (R302 to R309, R316, R317). -/
structure FieldMeas where
  /-- Positive window of a DC measurement, or the in-phase component of a sine one, in nV; of a loop input the current in nA,
  of a voltage input the voltage in µV. -/
  pos : Int
  /-- Negative window, in nV. -/
  neg : Int
  /-- Excitation current as calibrated against the FA reference resistor, in ppm of the current that AFF_ICFG.EXC names; of an
  insulation measurement the current, in pA. -/
  cur : Nat
  /-- Voltage across the force lead of a 4-wire input, in nV. -/
  lead : Int
  /-- The larger of the two halves' differences between source and sink current, in nA. -/
  leak : Nat
  /-- Highest voltage across the force loop, between the Tn and TRETg balls, while monitored, in nV. -/
  force : Nat
  /-- Of a loop or voltage input: the converter reached its full scale, whose level the spec does not give. -/
  fullScale : Bool
deriving DecidableEq, Repr

/-- A CAN or CAN FD frame on a field bus (R475). -/
structure CanFrame where
  ext : Bool
  fd : Bool
  remote : Bool
  brs : Bool
  esi : Bool
  id : Nat
  dlc : Nat
  data : List Byte
deriving DecidableEq, Repr

/-- What followed an error until its error delimiter ended, or a sent frame until an overload delimiter ended (R489, fault confinement of
ISO 11898-1): the errors found in the error or overload frame, each with its code and its bit there; how often a run of dominant bits
after the flag counted; and whether a dominant bit was seen while a passive error flag was sent. -/
structure AfterError where
  errors : List (Nat × Nat) := []
  runs : Nat := 0
  dominant : Bool := false
deriving DecidableEq, Repr

/-- The bit of a receiver's error, and how often a dominant bit after its own error or overload flag counted. -/
structure ErrorBit where
  pos : Nat
  runs : Nat := 0
deriving DecidableEq, Repr

/-- How a transmit attempt ended (R488): with success, with the arbitration lost, or with an error of R489. -/
inductive TxEnd where
  | success (after : AfterError)
  | lostArbitration (bitpos : Nat)
  | error (code field bitpos : Nat) (after : AfterError)
deriving DecidableEq, Repr

/-- Why a frame or datagram is not served (R356, R360, R361). -/
inductive Discard where
  /-- A frame or datagram of R356 that is not served for another reason than its checksums. -/
  | transport
  /-- An IPv4 datagram, of which a checksum may fail (R356). -/
  | checksum (datagram : List Byte)
  /-- A UDP payload, whose form may fail R360. -/
  | form (payload : List Byte)
  /-- A packet of a session that is not open, or from another source, or failing the sequence check. -/
  | packet (ip port session seq : Nat)
deriving DecidableEq, Repr

/-- The signal balls, by the rows of R634. -/
inductive Ball where
  | electrode (n : Nat)
  | guard (b : Nat)
  | resistive (n : Nat)
  | groupReturn (g : Nat)
  | groupSense (g : Nat)
  | loop (n : Nat)
  | voltage (n : Nat)
  | diode (n : Nat)
  | ntc (n : Nat)
  | encoder (lane : Nat)
  | mainsSync
  | fieldTx (bus path : Nat)
  | fieldRx (bus path : Nat)
  | rgmii (port : Nat)
  | management (port : Nat)
  | phyReset (port : Nat)
  | ringTx (path : Nat)
  | ringRx (path : Nat)
  | head
  | refsel
  | oscillator
  | resetN
  | supervisorIn
  | supMiso
  | svcTx
  | svcRx
  | tdo
  | test (n : Nat)
  | valve (n : Nat)
  | fan (n : Nat)
  | tach (n : Nat)
  | holdup
deriving DecidableEq, Repr

/-- How many digital balls a row of R634 has, which the boundary-scan chain covers (R596): A, B and Z of an encoder, the twelve signals of an
RGMII port, MDC and MDIO, and SUP_CS_N, SUP_SCK and SUP_MOSI; none of an analogue, power or LVDS ball or of the test port itself. -/
def Ball.pins : Ball → Nat
  | .encoder n => if n < 16 then 3 else 0
  | .fieldTx b p | .fieldRx b p => if b < 4 ∧ p < 2 then 1 else 0
  | .rgmii p => if p < 2 then 12 else 0
  | .management p => if p < 2 then 2 else 0
  | .phyReset p => if p < 2 then 1 else 0
  | .supervisorIn => 3
  | .test n | .tach n => if n < 8 then 1 else 0
  | .mainsSync | .head | .refsel | .resetN | .supMiso | .svcTx | .svcRx => 1
  | _ => 0

/-- What another client asks of the pools in the arbiter cycle in which a command's completion is reserved (R558, R563): an event record
of the control engine, an event of the ring bound for the host, or an event of the firmware, each with its code and its data, or a
Ledger request of a node of a field bus. -/
inductive Rival where
  | engine (code : Nat) (data : List Byte)
  | request (bus node : Nat) (data : List Byte)
  | ring (code : Nat) (data : List Byte)
  | firmware (code : Nat) (data : List Byte)
deriving DecidableEq, Repr

/-- How many bytes of data an event has after its count (R445): none for a code that the module never sends. -/
def eventLength (code : Nat) : Option Nat :=
  [4, 4, 4, 4, 4, 4, 4, 4, 4, 0, 8, 8, 4, 4, 4, 4, 2, 2, 2, 2, 4, 8, 0, 4, 4, 4, 4, 4, 4, 4, 4][code]?

/-- Whether an event is one that its client raises, with the data of its code (R445, R558): the control engine LOOP_SRCBAD and LOOP_PLAUS,
the ring MEMBER_LOST and CLUSTER_DISAGREE, and the firmware the others. A Ledger request has 16 bytes from a node of a bus (R193, R497). -/
def Rival.listed : Rival → Bool
  | .engine code d => decide ((code = 14 ∨ code = 15) ∧ eventLength code = some d.length)
  | .request bus node d => decide (bus < 4 ∧ 1 ≤ node ∧ node ≤ 62 ∧ d.length = 16)
  | .ring code d => decide ((code = 26 ∨ code = 27) ∧ eventLength code = some d.length)
  | .firmware code d => decide (code ∉ [14, 15, 26, 27] ∧ eventLength code = some d.length)

/-- An enumeration frame (R526 to R529), by what it carries, since the spec gives it no layout: the address that its receiver
takes, the head's wall time at its receipt, for each module after the head that it has passed whether that module's HEAD ball is low, and
whether the ring has already formed. Beside them its bytes as they came, with their CRC-32, whether they came in on RL-DN, and whether the
HEAD ball of a module that does not forward the frame, a second head, is low too. -/
structure EnumFrame where
  next : Nat
  wall : Nat
  entries : List Bool
  formed : Bool
  bytes : List Byte
  onDown : Bool := false
  otherHead : Bool := false
deriving DecidableEq, Repr

/-- A ring cycle frame (R530 to R536): its bytes with their CRC-32, and the addresses whose modules wrote their slots on this pass (R533,
R548). -/
structure RingFrame where
  bytes : List Byte
  written : List Nat
deriving DecidableEq, Repr


/-- The commands and events of the block: one constructor for each row of the opcode table, in the order of the table. -/
inductive Instr where
  /-- REGISTER_WRITE (R449). -/
  | registerWrite (src : Src) (addr : Nat) (word : Word)
  /-- POWER_ON_RESET (R609). -/
  | powerOnReset (mv : Nat)
  /-- RAIL_FAULT (R602). -/
  | railFault (rail : Nat)
  /-- PLL_UNLOCK (R602). -/
  | pllUnlock (pll : Nat)
  /-- RESET_N_ASSERT (R609). -/
  | resetNAssert
  /-- MODULE_WATCHDOG_EXPIRY (R610). -/
  | moduleWatchdogExpiry
  /-- COMMAND_RESET (R406). -/
  | commandReset
  /-- CLUSTER_RESET (R545). -/
  | clusterReset
  /-- CORES_START (R346). -/
  | coresStart
  /-- CC_WATCHDOG_EXPIRY (R32). -/
  | ccWatchdogExpiry (core : Nat)
  /-- RT_WATCHDOG_EXPIRY (R33). -/
  | rtWatchdogExpiry (rt1 : Bool)
  /-- MEMORY_READ_ERROR (R24). -/
  | memoryReadError (e : MemErr)
  /-- ENCODER_EDGE (R40). -/
  | encoderEdge (lane : Nat) (edge : LineEdge)
  /-- ENCODER_OPEN_LINE (R65). -/
  | encoderOpenLine (lane : Nat)
  /-- ENCODER_INDEX (R69): the level of Z has been stable for so many samples of 10 ns (R42). -/
  | encoderIndex (z : ZPulse)
  /-- LANE_STALL (R64). -/
  | laneStall (lane : Nat)
  /-- SUBST_STROKE (R66). -/
  | substStroke (lane : Nat)
  /-- ENC_RATE_UPDATE (R66). -/
  | encRateUpdate
  /-- ENC_LOST_TIMEOUT (R67). -/
  | encLostTimeout (lane : Nat)
  /-- ENC_SNAP (R48). -/
  | encSnap (src : Src) (word : Word)
  /-- ALARM_ARM (R56). -/
  | alarmArm (src : Src) (slot : Nat) (word : Word)
  /-- ALARM_SERVICE (R55). -/
  | alarmService
  /-- ALARM_FALLBACK (R59). -/
  | alarmFallback (slot : Nat)
  /-- MAINS_EDGE (R70). -/
  | mainsEdge (edge : SyncEdge)
  /-- MAINS_EDGE_SELECT (R70). -/
  | mainsEdgeSelect (src : Src) (word : Word)
  /-- MAINS_LOST (R72). -/
  | mainsLost
  /-- MAINS_FREERUN_TICK (R72). -/
  | mainsFreerunTick
  /-- BURST_START (R89). -/
  | burstStart
  /-- BURST_STEP (R99). -/
  | burstStep (r : StepSense)
  /-- FRAME_START (R101). -/
  | frameStart
  /-- EXCITATION_STEP (R95). -/
  | excitationStep (r : StepSense)
  /-- FRAME_CLOSE (R113). -/
  | frameClose (t0 : Int) (t1 : Int)
  /-- FRAME_RECORD_PUBLISH (R115). -/
  | frameRecordPublish
  /-- TOMO_SINGLE (R101). -/
  | tomoSingle (src : Src) (word : Word)
  /-- TOMO_RUN_CLEAR (R102). -/
  | tomoRunClear (src : Src) (word : Word)
  /-- AFT_RTDATA_WRITE (R120). -/
  | aftRtdataWrite (src : Src) (die : Nat) (word : Word)
  /-- CALIBRATION_SWEEP_END (R110). -/
  | calibrationSweepEnd (meas : List CalStep) (temps : Int × Int)
  /-- RECON_DISPATCH (R140). -/
  | reconDispatch
  /-- RECON_PUBLISH (R166). -/
  | reconPublish
  /-- RECON_DEADLINE (R143). -/
  | reconDeadline
  /-- REC_RUN_CLEAR (R146). -/
  | recRunClear (src : Src) (word : Word)
  /-- MATRIX_COPY_DONE (R129). -/
  | matrixCopyDone
  /-- CAPTURE_AVERAGED (R153). -/
  | captureAveraged
  /-- ROLLING_STATE_SAVE (R164). -/
  | rollingStateSave
  /-- LEDGER_RETIRE_TICK (R175): the tick brings nothing with it. -/
  | ledgerRetireTick (tick : Unit)
  /-- LEDGER_CHECKPOINT (R202). -/
  | ledgerCheckpoint
  /-- LOCK_LEASE_EXPIRY (R188). -/
  | lockLeaseExpiry (record : Nat)
  /-- PLANNER_RUN (R195). -/
  | plannerRun
  /-- FIELD_READ_LOT_WORD (R194). -/
  | fieldReadLotWord (bus : Nat) (node : Nat) (data : List Byte)
  /-- FIELD_WRITE_USER_WORD (R194). -/
  | fieldWriteUserWord (bus : Nat) (node : Nat) (data : List Byte)
  /-- FIELD_ADD_MASS (R194). -/
  | fieldAddMass (bus : Nat) (node : Nat) (data : List Byte)
  /-- FIELD_ADD_SAMPLE (R194). -/
  | fieldAddSample (bus : Nat) (node : Nat) (data : List Byte)
  /-- FIELD_SET_SAMPLE_LANE (R194). -/
  | fieldSetSampleLane (bus : Nat) (node : Nat) (data : List Byte)
  /-- FIELD_SET_SAMPLE_PID (R194). -/
  | fieldSetSamplePid (bus : Nat) (node : Nat) (data : List Byte)
  /-- GROUP_LATCH (R214). -/
  | groupLatch (g : Nat)
  /-- STROKE_TRIGGER (R207). -/
  | strokeTrigger (g : Nat)
  /-- SLOT_COMPUTE (R215). -/
  | slotCompute
  /-- GROUP_OUTPUT (R216). -/
  | groupOutput (g : Nat)
  /-- INJECTION_START (R237). -/
  | injectionStart (src : Src) (inj : Nat) (word : Word)
  /-- INJECTION_STOP (R239). -/
  | injectionStop (src : Src) (inj : Nat) (word : Word)
  /-- TRACE_ARM (R242). -/
  | traceArm (src : Src) (word : Word)
  /-- TRACE_FORCE (R242). -/
  | traceForce (src : Src) (word : Word)
  /-- TRACE_STOP (R242). -/
  | traceStop (src : Src) (word : Word)
  /-- FTABLE_DATA_WRITE (R236). -/
  | ftableDataWrite (src : Src) (word : Word)
  /-- LOOP_LOAD_UPDATE (R246). -/
  | loopLoadUpdate
  /-- VALVE_BANK_PERIOD (R248). -/
  | valveBankPeriod (bank : Nat)
  /-- VALVE_RELOAD (R257). -/
  | valveReload (ch : Nat) (m : CoilMeas)
  /-- BOOST_END (R259). -/
  | boostEnd (ch : Nat) (current : Nat)
  /-- VALVE_CMD_ON (R253). -/
  | valveCmdOn (src : Src) (ch : Nat) (word : Word)
  /-- VALVE_CLEAR_FAULT (R274). -/
  | valveClearFault (src : Src) (ch : Nat) (word : Word)
  /-- CLOSING_AVERAGE_END (R266). -/
  | closingAverageEnd (ch : Nat) (volts : Nat)
  /-- CLOSING_WINDOW_END (R267). -/
  | closingWindowEnd (ch : Nat)
  /-- COIL_MODEL_TICK (R268). -/
  | coilModelTick
  /-- COIL_RES_MEASURE (R269). -/
  | coilResMeasure (ch : Nat) (volts : Nat) (current : Nat)
  /-- VALVE_SHORT_TRIP (R271). -/
  | valveShortTrip (ch : Nat) (leg : Nat) (current : Nat)
  /-- VCOIL_FAULT (R275). -/
  | vcoilFault (bank : Nat) (volts : Nat)
  /-- VCOIL_RETURN (R275). -/
  | vcoilReturn (bank : Nat) (volts : Nat)
  /-- VALVE_ENABLE_CLEAR (R276). -/
  | valveEnableClear (src : Src) (word : Word)
  /-- VALVE_ENABLE_SET (R276). -/
  | valveEnableSet (src : Src) (word : Word)
  /-- FAN_RELOAD (R282). -/
  | fanReload (ch : Nat) (m : FanMeas)
  /-- TACH_EDGE (R287). -/
  | tachEdge (ch : Nat)
  /-- STRETCH_END (R286). -/
  | stretchEnd (ch : Nat)
  /-- FAN_SHORT_TRIP (R288). -/
  | fanShortTrip (ch : Nat) (current : Nat)
  /-- FAN_OVERCUR_TIMEOUT (R288). -/
  | fanOvercurTimeout (ch : Nat) (current : Nat)
  /-- FAN_CLEAR_FAULT (R289). -/
  | fanClearFault (src : Src) (ch : Nat) (word : Word)
  /-- FAN_FREQ_CHANGE (R291). -/
  | fanFreqChange (src : Src) (word : Word)
  /-- SCAN_CYCLE_START (R311). -/
  | scanCycleStart
  /-- FIELD_POLARITY_REVERSE (R303). -/
  | fieldPolarityReverse (k : Nat)
  /-- FIELD_MEASUREMENT_END (R320). -/
  | fieldMeasurementEnd (k : Nat) (m : FieldMeas)
  /-- LOOP_OVERCURRENT (R308). -/
  | loopOvercurrent (input : Nat)
  /-- RECOVERY_DUE (R319). -/
  | recoveryDue (input : Nat)
  /-- SINE_PASS_REQUEST (R315). -/
  | sinePassRequest (src : Src) (word : Word)
  /-- AFF_RUN_CLEAR (R311). -/
  | affRunClear (src : Src) (word : Word)
  /-- MODE_REQUEST (R332). -/
  | modeRequest (src : Src) (word : Word)
  /-- MODE_TRANSITION (R334). -/
  | modeTransition
  /-- CALIBRATION_END (R346). -/
  | calibrationEnd
  /-- CALIBRATION_TIMEOUT (R347). -/
  | calibrationTimeout
  /-- HOLD_ENTRY (R337). -/
  | holdEntry (cause : Nat)
  /-- ARP_REQUEST (R355). -/
  | arpRequest (ip : Nat) (mac : Nat)
  /-- ICMP_ECHO (R355). -/
  | icmpEcho (ip : Nat) (data : List Byte)
  /-- DATAGRAM_DISCARD (R356). -/
  | datagramDiscard (d : Discard)
  /-- ARP_REFRESH (R357). -/
  | arpRefresh
  /-- IP_APPLY (R358). -/
  | ipApply (src : Src) (word : Word)
  /-- IP_SAVE (R358). -/
  | ipSave (src : Src) (word : Word)
  /-- OPEN_CONTROL (R365). -/
  | openControl (h : Hdr) (p : List Byte)
  /-- PROVE (R366). -/
  | prove (h : Hdr) (p : List Byte)
  /-- OPEN_OBSERVER (R369). -/
  | openObserver (h : Hdr) (p : List Byte)
  /-- CLOSE (R373). -/
  | close (h : Hdr) (p : List Byte)
  /-- PING (R372). -/
  | ping (h : Hdr) (p : List Byte)
  /-- REVOKE (R389). -/
  | revoke (h : Hdr) (p : List Byte)
  /-- EVMASK (R394). -/
  | evmask (h : Hdr) (p : List Byte)
  /-- PENDING_SESSION_EXPIRY (R365). -/
  | pendingSessionExpiry (record : Nat)
  /-- SESSION_IDLE_EXPIRY (R372). -/
  | sessionIdleExpiry (record : Nat)
  /-- KEY_LOCKOUT_END (R374). -/
  | keyLockoutEnd (slot : Nat)
  /-- KEY_DATA_WRITE (R375). -/
  | keyDataWrite (src : Src) (word : Word)
  /-- KEY_LOAD (R375). -/
  | keyLoad (src : Src) (word : Word)
  /-- KEY_ERASE (R375). -/
  | keyErase (src : Src) (word : Word)
  /-- KEY_BUFFER_TIMEOUT (R376). -/
  | keyBufferTimeout
  /-- HELD_COMPLETION_EXPIRY (R382). -/
  | heldCompletionExpiry (record : Nat) (tag : Nat)
  /-- BULKDATA (R390). -/
  | bulkdata (h : Hdr) (offset : Nat) (last : Bool) (data : List Byte)
  /-- BULKWIN (R391). -/
  | bulkwin (h : Hdr) (acked : Nat) (limit : Nat)
  /-- BULK_RESEND_TIMEOUT (R391). -/
  | bulkResendTimeout (record : Nat) (tag : Nat)
  /-- BULK_TIMEOUT (R392). -/
  | bulkTimeout (record : Nat) (tag : Nat)
  /-- GET_INFO (R405). -/
  | getInfo (h : Hdr) (p : List Byte)
  /-- MODE_REQ (R405). -/
  | modeReq (h : Hdr) (p : List Byte)
  /-- RESET (R406). -/
  | reset (h : Hdr) (p : List Byte)
  /-- READ (R408). -/
  | read (h : Hdr) (p : List Byte)
  /-- WRITE (R408). -/
  | write (h : Hdr) (p : List Byte)
  /-- READ_BLOCK (R409). -/
  | readBlock (h : Hdr) (p : List Byte) (rivals : List Rival)
  /-- WRITE_BLOCK (R409). -/
  | writeBlock (h : Hdr) (p : List Byte)
  /-- READ_LIST (R409). -/
  | readList (h : Hdr) (p : List Byte)
  /-- SNAPSHOT (R411). -/
  | snapshot (h : Hdr) (p : List Byte)
  /-- TIME_SET (R412). -/
  | timeSet (h : Hdr) (p : List Byte)
  /-- ALARM_SET (R413). -/
  | alarmSet (h : Hdr) (p : List Byte)
  /-- ALARM_CLEAR (R413). -/
  | alarmClear (h : Hdr) (p : List Byte)
  /-- GEOM_LOAD (R414). -/
  | geomLoad (h : Hdr) (p : List Byte)
  /-- GEOM_READ (R414). -/
  | geomRead (h : Hdr) (p : List Byte)
  /-- CAL_SWEEP (R414). -/
  | calSweep (h : Hdr) (p : List Byte)
  /-- CAL_LOAD (R414). -/
  | calLoad (h : Hdr) (p : List Byte)
  /-- CAL_READ (R414). -/
  | calRead (h : Hdr) (p : List Byte)
  /-- RANGE_SAVE (R415). -/
  | rangeSave (h : Hdr) (p : List Byte)
  /-- RANGE_READ (R415). -/
  | rangeRead (h : Hdr) (p : List Byte)
  /-- FRAME_READ (R404). -/
  | frameRead (h : Hdr) (p : List Byte)
  /-- MAT_LOAD (R417). -/
  | matLoad (h : Hdr) (p : List Byte)
  /-- MAT_INFO (R416). -/
  | matInfo (h : Hdr) (p : List Byte)
  /-- MODEL_LOAD (R418). -/
  | modelLoad (h : Hdr) (p : List Byte)
  /-- MODEL_READ (R416). -/
  | modelRead (h : Hdr) (p : List Byte)
  /-- REF_LOAD (R418). -/
  | refLoad (h : Hdr) (p : List Byte)
  /-- REF_READ (R416). -/
  | refRead (h : Hdr) (p : List Byte)
  /-- CAPTURE_START (R419). -/
  | captureStart (h : Hdr) (p : List Byte)
  /-- CAPTURE_END (R419). -/
  | captureEnd (h : Hdr) (p : List Byte)
  /-- ANCHOR (R160). -/
  | anchor (h : Hdr) (p : List Byte)
  /-- MAP_SUMMARY (R416). -/
  | mapSummary (h : Hdr) (p : List Byte)
  /-- MAP_READ (R421). -/
  | mapRead (h : Hdr) (p : List Byte)
  /-- LOT_OPEN (R177). -/
  | lotOpen (h : Hdr) (p : List Byte)
  /-- LOT_CLOSE (R177). -/
  | lotClose (h : Hdr) (p : List Byte)
  /-- LOT_READ (R422). -/
  | lotRead (h : Hdr) (p : List Byte)
  /-- LOT_WRITE (R423). -/
  | lotWrite (h : Hdr) (p : List Byte)
  /-- PARCEL_READ (R422). -/
  | parcelRead (h : Hdr) (p : List Byte)
  /-- PARCEL_WRITE (R424). -/
  | parcelWrite (h : Hdr) (p : List Byte)
  /-- LOCK (R425). -/
  | lock (h : Hdr) (p : List Byte)
  /-- UNLOCK (R425). -/
  | unlock (h : Hdr) (p : List Byte)
  /-- PARCEL_DUMP (R426). -/
  | parcelDump (h : Hdr) (p : List Byte)
  /-- ARCH_READ (R427). -/
  | archRead (h : Hdr) (p : List Byte)
  /-- PLAN_STATUS (R428). -/
  | planStatus (h : Hdr) (p : List Byte)
  /-- TRACE_INFO (R429). -/
  | traceInfo (h : Hdr) (p : List Byte)
  /-- TRACE_READ (R430). -/
  | traceRead (h : Hdr) (p : List Byte)
  /-- FTABLE_LOAD (R431). -/
  | ftableLoad (h : Hdr) (p : List Byte)
  /-- FTABLE_READ (R431). -/
  | ftableRead (h : Hdr) (p : List Byte)
  /-- DRIVE_STATUS (R433). -/
  | driveStatus (h : Hdr) (p : List Byte)
  /-- FAULT_CLEAR (R433). -/
  | faultClear (h : Hdr) (p : List Byte)
  /-- INPUT_READ (R435). -/
  | inputRead (h : Hdr) (p : List Byte)
  /-- LIN_LOAD (R326). -/
  | linLoad (h : Hdr) (p : List Byte)
  /-- LIN_READ (R434). -/
  | linRead (h : Hdr) (p : List Byte)
  /-- SINE_PASS (R435). -/
  | sinePass (h : Hdr) (p : List Byte)
  /-- AER_BIN (R436). -/
  | aerBin (h : Hdr) (p : List Byte)
  /-- AER_STATUS (R436). -/
  | aerStatus (h : Hdr) (p : List Byte)
  /-- BUS_STATUS (R438). -/
  | busStatus (h : Hdr) (p : List Byte)
  /-- BUS_RECOVER (R491). -/
  | busRecover (h : Hdr) (p : List Byte)
  /-- OBJ_WRITE (R481). -/
  | objWrite (h : Hdr) (p : List Byte)
  /-- VERDICT (R511). -/
  | verdict (h : Hdr) (p : List Byte)
  /-- SHUFFLE_NOW (R518). -/
  | shuffleNow (h : Hdr) (p : List Byte)
  /-- PATH_STATUS (R439). -/
  | pathStatus (h : Hdr) (p : List Byte)
  /-- CLUSTER_STATUS (R440). -/
  | clusterStatus (h : Hdr) (p : List Byte)
  /-- REJOIN (R550). -/
  | rejoin (h : Hdr) (p : List Byte)
  /-- TEMP_READ (R441). -/
  | tempRead (h : Hdr) (p : List Byte)
  /-- THROTTLE_ACK (R441). -/
  | throttleAck (h : Hdr) (p : List Byte)
  /-- FW_LOAD (R443). -/
  | fwLoad (h : Hdr) (p : List Byte)
  /-- BANK_STATE (R442). -/
  | bankState (h : Hdr) (p : List Byte)
  /-- BANK_SELECT (R443). -/
  | bankSelect (h : Hdr) (p : List Byte)
  /-- POOL_STATUS (R443). -/
  | poolStatus (h : Hdr) (p : List Byte)
  /-- SAFE_STATUS (R444). -/
  | safeStatus (h : Hdr) (p : List Byte)
  /-- PARITY_SCRUB (R461). -/
  | parityScrub (upset : List Nat)
  /-- SPI_WRITE (R473). -/
  | spiWrite (mosi : List Byte) (cut : Bool) (gap : Nat)
  /-- SPI_READ (R473). -/
  | spiRead (mosi : List Byte) (cut : Bool) (gap : Nat)
  /-- SAFE_HEARTBEAT (R469). -/
  | safeHeartbeat (word : Word)
  /-- SAFE_HOLD_REQUEST (R468). -/
  | safeHoldRequest (word : Word)
  /-- HEARTBEAT_LAPSE (R469). -/
  | heartbeatLapse
  /-- SAFE_ALIVE_TICK (R468). -/
  | safeAliveTick
  /-- BUS_ENABLE (R479). -/
  | busEnable (src : Src) (bus : Nat) (word : Word)
  /-- BUS_INTEGRATED (R479). -/
  | busIntegrated (bus : Nat)
  /-- BUS_DISABLE (R479). -/
  | busDisable (src : Src) (bus : Nat) (word : Word)
  /-- BUS_CYCLE_START (R482). -/
  | busCycleStart (bus : Nat)
  /-- WINDOW_OPEN (R483). -/
  | windowOpen (bus : Nat) (w : Nat)
  /-- TX_ATTEMPT_START (R484). -/
  | txAttemptStart (bus : Nat)
  /-- TX_ATTEMPT_END (R488). -/
  | txAttemptEnd (bus : Nat) (o : TxEnd)
  /-- CAN_FRAME_RECEIVED (R495). -/
  | canFrameReceived (bus : Nat) (f : CanFrame)
  /-- BUS_RECOVERY_DONE (R491). -/
  | busRecoveryDone (bus : Nat)
  /-- BUS_RECOVER_WRITE (R491). -/
  | busRecoverWrite (src : Src) (bus : Nat) (word : Word)
  /-- RX_STALE_TIMEOUT (R496). -/
  | rxStaleTimeout (obj : Nat)
  /-- LEDGER_RESPONSE_SEND (R498). -/
  | ledgerResponseSend (bus : Nat)
  /-- LEDGER_REPLY_WINDOW_END (R498). -/
  | ledgerReplyWindowEnd (bus : Nat) (node : Nat)
  /-- PATH_IMAGE_SAVE (R507). -/
  | pathImageSave (link : Nat)
  /-- SWITCHOVER_START (R513). -/
  | switchoverStart (link : Nat)
  /-- SWITCHOVER_GAP_END (R514). -/
  | switchoverGapEnd (link : Nat)
  /-- SWITCHOVER_DONE (R521). -/
  | switchoverDone (link : Nat)
  /-- SHUFFLE_DUE (R518). -/
  | shuffleDue (link : Nat)
  /-- TAKEBACK_DUE (R520). -/
  | takebackDue (link : Nat)
  /-- ENUM_FRAME_SEND (R528). -/
  | enumFrameSend
  /-- ENUM_FRAME_RECEIVE (R528). -/
  | enumFrameReceive (f : EnumFrame)
  /-- CLUSTER_FORMED (R528). -/
  | clusterFormed
  /-- RING_CYCLE_START (R530). -/
  | ringCycleStart
  /-- RING_FRAME_RECEIVE (R536). -/
  | ringFrameReceive (f : RingFrame)
  /-- RING_FRAME_RETURN (R534). -/
  | ringFrameReturn (f : RingFrame)
  /-- MEMBER_LOST (R548). -/
  | memberLost (a : Nat)
  /-- SELF_LOST (R549). -/
  | selfLost
  /-- RELAY_VERDICT_GO (R553). -/
  | relayVerdictGo (src : Src) (word : Word)
  /-- REPLY_AGE_EXPIRY (R568). -/
  | replyAgeExpiry (record : Nat)
  /-- THERMAL_DEMAND (R579). -/
  | thermalDemand (src : Src) (word : Word)
  /-- THERMAL_WATCHDOG_DEMAND (R579). -/
  | thermalWatchdogDemand
  /-- THROTTLE_EVENT_DEMAND (R579). -/
  | throttleEventDemand
  /-- CONVERSION_END (R580). -/
  | conversionEnd (temps : List TempSense)
  /-- GRACE_EXPIRY (R586). -/
  | graceExpiry
  /-- SVC_READ (R593): the levels of SVC_RX at the receiver's samples, 16 to a bit, the last one now. -/
  | svcRead (line : List Bool)
  /-- SVC_WRITE (R595), as SVC_READ. -/
  | svcWrite (line : List Bool)
  /-- SVC_TIMEOUT (R594). -/
  | svcTimeout
  /-- SVC_FRAMING_ERROR (R591). -/
  | svcFramingError
  /-- BYPASS (R596). -/
  | bypass
  /-- IDCODE (R596). -/
  | idcode
  /-- SAMPLE_PRELOAD (R596): the pins whose cell is loaded high; every other cell of the chain is loaded low. -/
  | samplePreload (cells : List (Ball × Nat))
  /-- EXTEST (R597). -/
  | extest
  /-- CLAMP (R597). -/
  | clamp
  /-- JTAG_TEST_RESET (R597). -/
  | jtagTestReset (low : Bool)
  /-- REFERENCE_LOSS (R608). -/
  | referenceLoss
  /-- CLOCK_MEASURE (R624). -/
  | clockMeasure (src : Src) (word : Word)
  /-- CLOCK_MEASURE_DONE (R624). -/
  | clockMeasureDone (freq : Nat)
  /-- COMMIT_READBACK_DONE (R614). -/
  | commitReadbackDone (ok : Bool)
  /-- POWER_LOSS (R621). -/
  | powerLoss (mv : Nat)
  /-- POWER_LOSS_CONFIRM (R621). -/
  | powerLossConfirm (mv : Nat)
  /-- STATE_SAVE_SEALED (R621). -/
  | stateSaveSealed
  /-- HOLDUP_EMPTY (R622). -/
  | holdupEmpty
  /-- CHARGE_END (R620). -/
  | chargeEnd (mv : Nat)
  /-- HOLDUP_ESTIMATE_TICK (R618). -/
  | holdupEstimateTick (mv : Nat) (ua : Nat)
  /-- HOLDUP_COMPARE (R620). -/
  | holdupCompare
  /-- RESET_N_RELEASE (R346). -/
  | resetNRelease
  /-- ARP_REPLY (R357). -/
  | arpReply (ip : Nat) (mac : Nat)
  /-- CORE_RESTART_COMPLETE (R338). -/
  | coreRestartComplete (core : Nat)
  /-- RECEIVER_ERROR (R489). -/
  | receiverError (bus : Nat) (code : Nat) (field : Nat) (bit : ErrorBit)
  /-- BAD_OPCODE_COMMAND (R384). -/
  | badOpcodeCommand (h : Hdr) (op : Nat) (p : List Byte)
  /-- PLL_UNLOCK_SHORT (R624). -/
  | pllUnlockShort (pll : Nat)
  /-- VIN_BELOW_STOP (R600). -/
  | vinBelowStop (mv : Nat)
deriving DecidableEq, Repr

end Sys2Proof
end

