-- ==== Sys2Proof/Machine/RegMap.lean ====
section
/-!
DEFINITION. Machine/RegMap.lean: every register of every unit as the spec's register tables give it: where it stands, how
often it repeats, which bits are read only, readable and writable, cleared by a read, actions or kept, and what it holds after
power-on reset (R12, R13, R34; the table of each unit is named beside its rows). Generated once from the spec's tables and
from nothing else.
-/
namespace Sys2Proof.Machine

/-- One register of a table, repeated over `dims` (count and stride, the outer one first). `noThree` lists the low bits of the
two-bit fields for which the table says that a write of 0b11 leaves the field unchanged (R451). `resets` is a list of
(first index the value no longer holds for, value); `step` is added times the index. `restored` are the bits whose reset is
"Restored" (the value given here is that of a module with nothing saved). -/
structure RegRow where
  name : String
  base : Nat
  dims : List (Nat × Nat)
  ro : Nat
  rw : Nat
  rc : Nat
  wo : Nat
  kp : Nat
  noThree : List Nat
  mask : Bool
  resets : List (Nat × Nat)
  step : Nat
  restored : Nat
deriving DecidableEq, Repr

/-- A field of a register: the register's address and the field's bits. -/
structure RF where
  reg : Nat
  hi : Nat
  lo : Nat
deriving DecidableEq, Repr

/-- Rows of the SYS registers (R39/R353). -/
def rowsSYS_0 : List RegRow :=
  [⟨"SYS_ID", 0x0, [], 0xFFFFF0FF, 0x0, 0x0, 0x0, 0x0, [], false, [(1, 0x72561001)], 0x0, 0x0⟩,
   ⟨"SYS_DIEREV", 0x4, [], 0xFFFFFFFF, 0x0, 0x0, 0x0, 0x0, [], false, [(1, 0x11111111)], 0x0, 0x0⟩,
   ⟨"SYS_FWVER", 0x8, [], 0x80FFFFFF, 0x0, 0x0, 0x0, 0x0, [], false, [(1, 0x0)], 0x0, 0x0⟩,
   ⟨"SYS_CORESTAT", 0xC, [], 0x3F, 0x0, 0xFFFF3F00, 0x0, 0x0, [], false, [(1, 0x0)], 0x0, 0x0⟩,
   ⟨"SYS_MEMERR", 0x10, [], 0x0, 0x0, 0xFFFFFFFF, 0x0, 0x0, [], false, [(1, 0x0)], 0x0, 0x0⟩,
   ⟨"SYS_MODE", 0x100, [], 0xFFF8, 0x0, 0x0, 0x0, 0x0, [], false, [(1, 0x0)], 0x0, 0x0⟩,
   ⟨"SYS_MODEREQ", 0x104, [], 0x0, 0xF, 0x0, 0x8000, 0x7FF0, [], true, [(1, 0x2)], 0x0, 0x0⟩,
   ⟨"SYS_HOLDCAUSE", 0x108, [], 0x1FF, 0x0, 0x0, 0x0, 0x0, [], false, [(1, 0x0)], 0x0, 0x0⟩,
   ⟨"SYS_MODESTAT", 0x10C, [], 0x0, 0x0, 0xF, 0x0, 0x0, [], false, [(1, 0x0)], 0x0, 0x0⟩,
   ⟨"SYS_REFUSE", 0x110, [], 0xFF, 0x0, 0x0, 0x0, 0x0, [], false, [(1, 0x0)], 0x0, 0x0⟩,
   ⟨"SYS_CALSTAT", 0x114, [], 0x83FF, 0x0, 0x0, 0x0, 0x0, [], false, [(1, 0x0)], 0x0, 0x0⟩,
   ⟨"SYS_CALTIME", 0x118, [], 0xFFFF, 0x0, 0x0, 0x0, 0x0, [], false, [(1, 0x0)], 0x0, 0x0⟩]

/-- Rows of the SYS registers (R39/R353). -/
def rowsSYS_1 : List RegRow :=
  [⟨"SYS_CALCTL", 0x11C, [], 0x0, 0x8000, 0x0, 0x0, 0x7FFF, [], true, [(1, 0x0)], 0x0, 0x0⟩,
   ⟨"SYS_HOLDCFG", 0x120, [], 0x0, 0xE000, 0x0, 0x0, 0x1FFF, [], true, [(1, 0x8000)], 0x0, 0x0⟩,
   ⟨"SYS_FLOWCHK", 0x124, [], 0x7F, 0x0, 0x0, 0x0, 0x0, [], false, [(1, 0xF)], 0x0, 0x0⟩,
   ⟨"SYS_MODECNT", 0x128, [], 0x0, 0x0, 0xFFFFFFFF, 0x0, 0x0, [], false, [(1, 0x0)], 0x0, 0x0⟩,
   ⟨"SYS_HOLDCNT", 0x12C, [], 0x0, 0x0, 0xFFFFFFFF, 0x0, 0x0, [], false, [(1, 0x0)], 0x0, 0x0⟩]

/-- All rows of the SYS registers (R39/R353). -/
def rowsSYS : List RegRow := rowsSYS_0 ++ rowsSYS_1

/-- Rows of the PWR registers (R623). -/
def rowsPWR_0 : List RegRow :=
  [⟨"PWR_STAT", 0x10000, [], 0xF800, 0x0, 0x1E, 0x0, 0x0, [], false, [(1, 0x0)], 0x0, 0x0⟩,
   ⟨"PWR_HUCTL", 0x10004, [], 0x0, 0x81FF, 0x0, 0x0, 0x7E00, [], true, [(1, 0x80C8)], 0x0, 0x81FF⟩,
   ⟨"PWR_HUCAP", 0x10008, [], 0x0, 0xFFFF, 0x0, 0x0, 0x0, [], true, [(1, 0x1D6)], 0x0, 0xFFFF⟩,
   ⟨"PWR_PFTHR", 0x1000C, [], 0x0, 0xFFFF, 0x0, 0x0, 0x0, [], true, [(1, 0x2F8)], 0x0, 0xFFFF⟩,
   ⟨"PWR_VIN", 0x10010, [], 0xFFFF, 0x0, 0x0, 0x0, 0x0, [], false, [(1, 0x0)], 0x0, 0x0⟩,
   ⟨"PWR_HUV", 0x10014, [], 0xFFFF, 0x0, 0x0, 0x0, 0x0, [], false, [(1, 0x0)], 0x0, 0x0⟩,
   ⟨"PWR_HUQ", 0x10018, [], 0xFFFF, 0x0, 0x0, 0x0, 0x0, [], false, [(1, 0x0)], 0x0, 0x0⟩,
   ⟨"PWR_HUE", 0x1001C, [], 0xFFFFFFFF, 0x0, 0x0, 0x0, 0x0, [], false, [(1, 0x0)], 0x0, 0x0⟩,
   ⟨"PWR_HUGOV", 0x10020, [], 0x3FFFF, 0x0, 0x0, 0x0, 0x0, [], false, [(1, 0x10000)], 0x0, 0x0⟩,
   ⟨"PWR_SAVEREQ", 0x10024, [], 0xFFFFFFFF, 0x0, 0x0, 0x0, 0x0, [], false, [(1, 0x7080190)], 0x0, 0x0⟩,
   ⟨"PWR_HUCMEAS", 0x10028, [], 0xFFFF, 0x0, 0x0, 0x0, 0x0, [], false, [(1, 0x0)], 0x0, 0x0⟩,
   ⟨"PWR_LASTSAVE", 0x1002C, [], 0xFFFFFF00, 0x0, 0x0, 0x0, 0x0, [], false, [(1, 0x0)], 0x0, 0x0⟩]

/-- Rows of the PWR registers (R623). -/
def rowsPWR_1 : List RegRow :=
  [⟨"PWR_RSTCAUSE", 0x10030, [], 0xFFFF, 0x0, 0x0, 0x0, 0x0, [], false, [(1, 0x1)], 0x0, 0x0⟩,
   ⟨"PWR_MWDT", 0x10034, [], 0x0, 0xFFFF, 0x0, 0x0, 0x0, [], true, [(1, 0x3E8)], 0x0, 0xFFFF⟩,
   ⟨"PWR_RAILSTAT", 0x10038, [], 0xFF, 0x0, 0x0, 0x0, 0x0, [], false, [(1, 0xFF)], 0x0, 0x0⟩,
   ⟨"PWR_MISCNT", 0x1003C, [], 0x0, 0x0, 0xFFFFFFFF, 0x0, 0x0, [], false, [(1, 0x0)], 0x0, 0x0⟩,
   ⟨"PWR_DOMSTAT", 0x10040, [(5, 0x4)], 0xFFFFFFFF, 0x0, 0x0, 0x0, 0x0, [], false, [(4, 0x0), (5, 0xFC000)], 0x0, 0x0⟩]

/-- All rows of the PWR registers (R623). -/
def rowsPWR : List RegRow := rowsPWR_0 ++ rowsPWR_1

/-- Rows of the CLK registers (R624). -/
def rowsCLK : List RegRow :=
  [⟨"CLK_STAT", 0x20000, [], 0xFF00, 0x0, 0x7, 0x0, 0x0, [], false, [(1, 0x3F00)], 0x0, 0x0⟩,
   ⟨"CLK_RUNL", 0x20004, [], 0xFFFFFFFF, 0x0, 0x0, 0x0, 0x0, [], false, [(1, 0x0)], 0x0, 0x0⟩,
   ⟨"CLK_RUNH", 0x20008, [], 0xFFFFFFFF, 0x0, 0x0, 0x0, 0x0, [], false, [(1, 0x0)], 0x0, 0x0⟩,
   ⟨"CLK_MEASSEL", 0x2000C, [], 0x0, 0x3F, 0x0, 0x8000, 0x7FC0, [], true, [(1, 0x0)], 0x0, 0x0⟩,
   ⟨"CLK_MEAS", 0x20010, [], 0xFFFFFF, 0x0, 0x0, 0x0, 0x0, [], false, [(1, 0x0)], 0x0, 0x0⟩,
   ⟨"CLK_LOSSCNT", 0x20014, [], 0x0, 0x0, 0xFFFFFFFF, 0x0, 0x0, [], false, [(1, 0x0)], 0x0, 0x0⟩]

/-- Rows of the THM registers (R598). -/
def rowsTHM_0 : List RegRow :=
  [⟨"THM_CTL", 0x30000, [], 0x0, 0x0, 0x0, 0x8000, 0x7FFF, [], true, [(1, 0x0)], 0x0, 0x0⟩,
   ⟨"THM_STAT", 0x30004, [], 0xF000, 0x0, 0x1F, 0x0, 0x0, [], false, [(1, 0x0)], 0x0, 0x0⟩,
   ⟨"THM_WDPER", 0x30008, [], 0x0, 0xFFFF, 0x0, 0x0, 0x0, [], true, [(1, 0xA)], 0x0, 0x0⟩,
   ⟨"THM_GRACE", 0x3000C, [], 0x0, 0xFFFF, 0x0, 0x0, 0x0, [], true, [(1, 0xA)], 0x0, 0x0⟩,
   ⟨"THM_SENSEN", 0x30010, [], 0x0, 0xFFFF, 0x0, 0x0, 0x0, [], true, [(1, 0xFF)], 0x0, 0x0⟩,
   ⟨"THM_DEMCNT", 0x30014, [], 0xFFFFFFFF, 0x0, 0x0, 0x0, 0x0, [], false, [(1, 0x0)], 0x0, 0x0⟩,
   ⟨"THM_FPSAVE", 0x30018, [], 0xFFFF, 0x0, 0x0, 0x0, 0x0, [], false, [(1, 0x0)], 0x0, 0x0⟩,
   ⟨"THM_DROPCNT", 0x3001C, [], 0x0, 0x0, 0xFFFFFFFF, 0x0, 0x0, [], false, [(1, 0x0)], 0x0, 0x0⟩,
   ⟨"THM_TEMP", 0x30040, [(16, 0x4)], 0xFFFF, 0x0, 0x0, 0x0, 0x0, [], false, [(16, 0x8000)], 0x0, 0x0⟩,
   ⟨"THM_DIETHR", 0x30100, [(3, 0x10)], 0x0, 0xFFFF, 0x0, 0x0, 0x0, [], true, [(1, 0x44C), (2, 0x488), (3, 0x4BA)], 0x0, 0x0⟩,
   ⟨"THM_EXTTHR", 0x30104, [(3, 0x10)], 0x0, 0xFFFF, 0x0, 0x0, 0x0, [], true, [(1, 0x2BC), (2, 0x320), (3, 0x384)], 0x0, 0x0⟩,
   ⟨"THM_RED", 0x30108, [(3, 0x10)], 0x0, 0xFFFF, 0x0, 0x0, 0x0, [14], true, [(1, 0x4C35), (2, 0x8004), (3, 0x0)], 0x0, 0x0⟩]

/-- Rows of the THM registers (R598). -/
def rowsTHM_1 : List RegRow :=
  [⟨"THM_FLR", 0x3010C, [(3, 0x10)], 0x0, 0xFFFF, 0x0, 0x0, 0x0, [], true, [(1, 0x1388), (2, 0x1F40), (3, 0x2710)], 0x0, 0x0⟩]

/-- All rows of the THM registers (R598). -/
def rowsTHM : List RegRow := rowsTHM_0 ++ rowsTHM_1

/-- Rows of the CMD registers (R396). -/
def rowsCMD_0 : List RegRow :=
  [⟨"CMD_CTL", 0x40000, [], 0x0, 0x8000, 0x0, 0x0, 0x7FFF, [], true, [(1, 0x8000)], 0x0, 0x0⟩,
   ⟨"CMD_STAT", 0x40004, [], 0x0, 0x0, 0x1F, 0x0, 0x0, [], false, [(1, 0x0)], 0x0, 0x0⟩,
   ⟨"CMD_IP", 0x40008, [], 0xFFFFFFFF, 0x0, 0x0, 0x0, 0x0, [], false, [(1, 0xC0A83848)], 0x0, 0xFFFFFFFF⟩,
   ⟨"CMD_GW", 0x4000C, [], 0xFFFFFFFF, 0x0, 0x0, 0x0, 0x0, [], false, [(1, 0x0)], 0x0, 0xFFFFFFFF⟩,
   ⟨"CMD_PFX", 0x40010, [], 0x3F, 0x0, 0x0, 0x0, 0x0, [], false, [(1, 0x18)], 0x0, 0x3F⟩,
   ⟨"CMD_STGIPL", 0x40014, [], 0x0, 0xFFFF, 0x0, 0x0, 0x0, [], true, [(1, 0x3848)], 0x0, 0x0⟩,
   ⟨"CMD_STGIPH", 0x40018, [], 0x0, 0xFFFF, 0x0, 0x0, 0x0, [], true, [(1, 0xC0A8)], 0x0, 0x0⟩,
   ⟨"CMD_STGGWL", 0x4001C, [], 0x0, 0xFFFF, 0x0, 0x0, 0x0, [], true, [(1, 0x0)], 0x0, 0x0⟩,
   ⟨"CMD_STGGWH", 0x40020, [], 0x0, 0xFFFF, 0x0, 0x0, 0x0, [], true, [(1, 0x0)], 0x0, 0x0⟩,
   ⟨"CMD_STGPFX", 0x40024, [], 0x0, 0x3F, 0x0, 0x0, 0xFFC0, [], true, [(1, 0x18)], 0x0, 0x0⟩,
   ⟨"CMD_IPCTL", 0x40028, [], 0x0, 0x0, 0x0, 0xC000, 0x3FFF, [], true, [(1, 0x0)], 0x0, 0x0⟩,
   ⟨"CMD_MACL", 0x4002C, [], 0xFFFFFFFF, 0x0, 0x0, 0x0, 0x0, [], false, [(1, 0x0)], 0x0, 0x0⟩]

/-- Rows of the CMD registers (R396). -/
def rowsCMD_1 : List RegRow :=
  [⟨"CMD_MACH", 0x40030, [], 0xFFFF, 0x0, 0x0, 0x0, 0x0, [], false, [(1, 0x0)], 0x0, 0x0⟩,
   ⟨"CMD_IDLET", 0x40034, [], 0x0, 0xFFFF, 0x0, 0x0, 0x0, [], true, [(1, 0xA)], 0x0, 0x0⟩,
   ⟨"CMD_GRANTC", 0x40038, [], 0x0, 0x3FF, 0x0, 0x0, 0xFC00, [], true, [(1, 0x80)], 0x0, 0x0⟩,
   ⟨"CMD_GRANTO", 0x4003C, [], 0x0, 0x3FF, 0x0, 0x0, 0xFC00, [], true, [(1, 0x20)], 0x0, 0x0⟩,
   ⟨"CMD_BULKTO", 0x40040, [], 0x0, 0xFFFF, 0x0, 0x0, 0x0, [], true, [(1, 0x3E8)], 0x0, 0x0⟩,
   ⟨"CMD_INFLIGHT", 0x40044, [], 0x3FF, 0x0, 0x0, 0x0, 0x0, [], false, [(1, 0x0)], 0x0, 0x0⟩,
   ⟨"CMD_RXCNT", 0x40048, [], 0xFFFFFFFF, 0x0, 0x0, 0x0, 0x0, [], false, [(1, 0x0)], 0x0, 0x0⟩,
   ⟨"CMD_DROPCNT", 0x4004C, [], 0x0, 0x0, 0xFFFFFFFF, 0x0, 0x0, [], false, [(1, 0x0)], 0x0, 0x0⟩,
   ⟨"CMD_SEQCNT", 0x40050, [], 0x0, 0x0, 0xFFFFFFFF, 0x0, 0x0, [], false, [(1, 0x0)], 0x0, 0x0⟩,
   ⟨"CMD_BUSYCNT", 0x40054, [], 0x0, 0x0, 0xFFFFFFFF, 0x0, 0x0, [], false, [(1, 0x0)], 0x0, 0x0⟩,
   ⟨"CMD_LATECNT", 0x40058, [], 0x0, 0x0, 0xFFFFFFFF, 0x0, 0x0, [], false, [(1, 0x0)], 0x0, 0x0⟩,
   ⟨"CMD_SSTATE", 0x40100, [(4, 0x20)], 0xFFFFFFFF, 0x0, 0x0, 0x0, 0x0, [], false, [(4, 0x0)], 0x0, 0x0⟩]

/-- Rows of the CMD registers (R396). -/
def rowsCMD_2 : List RegRow :=
  [⟨"CMD_SADDR", 0x40104, [(4, 0x20)], 0xFFFFFFFF, 0x0, 0x0, 0x0, 0x0, [], false, [(4, 0x0)], 0x0, 0x0⟩,
   ⟨"CMD_SPORT", 0x40108, [(4, 0x20)], 0xFFFF, 0x0, 0x0, 0x0, 0x0, [], false, [(4, 0x0)], 0x0, 0x0⟩,
   ⟨"CMD_SGRANT", 0x4010C, [(4, 0x20)], 0x3FF, 0x0, 0x0, 0x0, 0x0, [], false, [(4, 0x0)], 0x0, 0x0⟩,
   ⟨"CMD_SRXSEQ", 0x40110, [(4, 0x20)], 0xFFFFFFFF, 0x0, 0x0, 0x0, 0x0, [], false, [(4, 0x0)], 0x0, 0x0⟩,
   ⟨"CMD_STXSEQ", 0x40114, [(4, 0x20)], 0xFFFFFFFF, 0x0, 0x0, 0x0, 0x0, [], false, [(4, 0x0)], 0x0, 0x0⟩,
   ⟨"CMD_SEVMASKL", 0x40118, [(4, 0x20)], 0xFFFFFFFF, 0x0, 0x0, 0x0, 0x0, [], false, [(4, 0x0)], 0x0, 0x0⟩,
   ⟨"CMD_SEVMASKH", 0x4011C, [(4, 0x20)], 0xFFFFFFFF, 0x0, 0x0, 0x0, 0x0, [], false, [(4, 0x0)], 0x0, 0x0⟩]

/-- All rows of the CMD registers (R396). -/
def rowsCMD : List RegRow := rowsCMD_0 ++ rowsCMD_1 ++ rowsCMD_2

/-- Rows of the NET registers (R523). -/
def rowsNET_0 : List RegRow :=
  [⟨"NET_STAT", 0x50000, [], 0x0, 0x0, 0x3F, 0x0, 0x0, [], false, [(1, 0x0)], 0x0, 0x0⟩,
   ⟨"NET_DEALER", 0x50004, [], 0x0, 0xC07F, 0x0, 0x0, 0x3F80, [14], true, [(1, 0x1)], 0x0, 0x0⟩,
   ⟨"NET_LCTL", 0x50100, [(6, 0x40)], 0x0, 0xE000, 0x0, 0x0, 0x1FFF, [], true, [(6, 0x6000)], 0x0, 0xE000⟩,
   ⟨"NET_SHPER", 0x50104, [(6, 0x40)], 0x0, 0xFFFF, 0x0, 0x0, 0x0, [], true, [(6, 0x18)], 0x0, 0x0⟩,
   ⟨"NET_TBK", 0x50108, [(6, 0x40)], 0x0, 0xFFFF, 0x0, 0x0, 0x0, [], true, [(6, 0x258)], 0x0, 0x0⟩,
   ⟨"NET_TALONENT", 0x5010C, [(6, 0x40)], 0x0, 0xFF, 0x0, 0x0, 0xFF00, [], true, [(1, 0x20), (5, 0x8), (6, 0x10)], 0x0, 0x0⟩,
   ⟨"NET_LSTAT", 0x50110, [(6, 0x40)], 0xFFC0, 0x0, 0x1, 0x0, 0x0, [], false, [(6, 0x0)], 0x0, 0x0⟩,
   ⟨"NET_VNUM", 0x50114, [(6, 0x40)], 0xFFFFFFFF, 0x0, 0x0, 0x0, 0x0, [], false, [(6, 0x0)], 0x0, 0x0⟩,
   ⟨"NET_SWCNT", 0x50118, [(6, 0x40)], 0xFFFFFFFF, 0x0, 0x0, 0x0, 0x0, [], false, [(6, 0x0)], 0x0, 0x0⟩,
   ⟨"NET_LASTGAP", 0x5011C, [(6, 0x40)], 0xFFFFFFFF, 0x0, 0x0, 0x0, 0x0, [], false, [(6, 0x0)], 0x0, 0x0⟩,
   ⟨"NET_MAXGAP", 0x50120, [(6, 0x40)], 0x0, 0x0, 0xFFFFFFFF, 0x0, 0x0, [], false, [(6, 0x0)], 0x0, 0x0⟩,
   ⟨"NET_LOSTCNT", 0x50124, [(6, 0x40)], 0x0, 0x0, 0xFFFFFFFF, 0x0, 0x0, [], false, [(6, 0x0)], 0x0, 0x0⟩]

/-- Rows of the NET registers (R523). -/
def rowsNET_1 : List RegRow :=
  [⟨"NET_SAVEAGE", 0x50128, [(6, 0x40)], 0xFFFF, 0x0, 0x0, 0x0, 0x0, [], false, [(6, 0xFFFF)], 0x0, 0x0⟩,
   ⟨"NET_SHNEXT", 0x5012C, [(6, 0x40)], 0xFFFFFFFF, 0x0, 0x0, 0x0, 0x0, [], false, [(6, 0x0)], 0x0, 0x0⟩,
   ⟨"NET_TALONUSE", 0x50130, [(6, 0x40)], 0xFFFF, 0x0, 0xFFFF0000, 0x0, 0x0, [], false, [(6, 0x0)], 0x0, 0x0⟩,
   ⟨"NET_LRSV", 0x50134, [(6, 0x40), (3, 0x4)], 0x0, 0x0, 0x0, 0x0, 0x0, [], false, [(18, 0x0)], 0x0, 0x0⟩]

/-- All rows of the NET registers (R523). -/
def rowsNET : List RegRow := rowsNET_0 ++ rowsNET_1

/-- Rows of the FLD registers (R502). -/
def rowsFLD_0 : List RegRow :=
  [⟨"FLD_STAT", 0x60000, [], 0x0, 0x0, 0xFF1F, 0x0, 0x0, [], false, [(1, 0x0)], 0x0, 0x0⟩,
   ⟨"FLD_LRWIN", 0x60004, [], 0x0, 0xFFFF, 0x0, 0x0, 0x0, [], true, [(1, 0xC8)], 0x0, 0x0⟩,
   ⟨"FLD_BCTL", 0x60100, [(4, 0x80)], 0x0, 0x8000, 0x0, 0x4000, 0x3FFF, [], true, [(4, 0x0)], 0x0, 0x0⟩,
   ⟨"FLD_NBT0", 0x60104, [(4, 0x80)], 0x0, 0xFFFF, 0x0, 0x0, 0x0, [], true, [(4, 0x3E01)], 0x0, 0x0⟩,
   ⟨"FLD_NBT1", 0x60108, [(4, 0x80)], 0x0, 0xFFFF, 0x0, 0x0, 0x0, [], true, [(4, 0xF0F)], 0x0, 0x0⟩,
   ⟨"FLD_DBT0", 0x6010C, [(4, 0x80)], 0x0, 0xFFFF, 0x0, 0x0, 0x0, [], true, [(4, 0x1C00)], 0x0, 0x0⟩,
   ⟨"FLD_DBT1", 0x60110, [(4, 0x80)], 0x0, 0xFFFF, 0x0, 0x0, 0x0, [], true, [(4, 0x909)], 0x0, 0x0⟩,
   ⟨"FLD_TDC", 0x60114, [(4, 0x80)], 0x0, 0x807F, 0x0, 0x0, 0x7F80, [], true, [(4, 0x801E)], 0x0, 0x0⟩,
   ⟨"FLD_CYC", 0x60118, [(4, 0x80)], 0x0, 0xFFFF, 0x0, 0x0, 0x0, [], true, [(4, 0x3E8)], 0x0, 0x0⟩,
   ⟨"FLD_CPH", 0x6011C, [(4, 0x80)], 0x0, 0xFFFF, 0x0, 0x0, 0x0, [], true, [(4, 0x0)], 0x0, 0x0⟩,
   ⟨"FLD_LEDG", 0x60120, [(4, 0x80)], 0x0, 0x8780, 0x0, 0x0, 0x787F, [], true, [(4, 0x700)], 0x0, 0x0⟩,
   ⟨"FLD_BSTAT", 0x60124, [(4, 0x80)], 0xF07F, 0x0, 0x0, 0x0, 0x0, [], false, [(4, 0xC000)], 0x0, 0x0⟩]

/-- Rows of the FLD registers (R502). -/
def rowsFLD_1 : List RegRow :=
  [⟨"FLD_BECNT", 0x60128, [(4, 0x80)], 0x1FF00FF, 0x0, 0x0, 0x0, 0x0, [], false, [(4, 0x0)], 0x0, 0x0⟩,
   ⟨"FLD_BLERR", 0x6012C, [(4, 0x80)], 0xFF0001FF, 0x0, 0x0, 0x0, 0x0, [], false, [(4, 0x0)], 0x0, 0x0⟩,
   ⟨"FLD_OKCNT", 0x60130, [(4, 0x80)], 0xFFFFFFFF, 0x0, 0x0, 0x0, 0x0, [], false, [(4, 0x0)], 0x0, 0x0⟩,
   ⟨"FLD_FAILCNT", 0x60134, [(4, 0x80)], 0xFFFFFFFF, 0x0, 0x0, 0x0, 0x0, [], false, [(4, 0x0)], 0x0, 0x0⟩,
   ⟨"FLD_RXCNT", 0x60138, [(4, 0x80)], 0xFFFFFFFF, 0x0, 0x0, 0x0, 0x0, [], false, [(4, 0x0)], 0x0, 0x0⟩,
   ⟨"FLD_RXDROP", 0x6013C, [(4, 0x80)], 0x0, 0x0, 0xFFFFFFFF, 0x0, 0x0, [], false, [(4, 0x0)], 0x0, 0x0⟩,
   ⟨"FLD_LRFAIL", 0x60140, [(4, 0x80)], 0x0, 0x0, 0xFFFFFFFF, 0x0, 0x0, [], false, [(4, 0x0)], 0x0, 0x0⟩,
   ⟨"FLD_WOFF", 0x60800, [(4, 0x100), (32, 0x8)], 0x0, 0xFFFF, 0x0, 0x0, 0x0, [], true, [(128, 0x0)], 0x0, 0x0⟩,
   ⟨"FLD_WLEN", 0x60804, [(4, 0x100), (32, 0x8)], 0x0, 0xFFFF, 0x0, 0x0, 0x0, [], true, [(128, 0x0)], 0x0, 0x0⟩,
   ⟨"FLD_TXCFG", 0x61000, [(256, 0x20)], 0x0, 0xFFFF, 0x0, 0x0, 0x0, [14], true, [(256, 0x0)], 0x0, 0x0⟩,
   ⟨"FLD_TXIDL", 0x61004, [(256, 0x20)], 0x0, 0xFFFF, 0x0, 0x0, 0x0, [], true, [(256, 0x0)], 0x0, 0x0⟩,
   ⟨"FLD_TXIDH", 0x61008, [(256, 0x20)], 0x0, 0x1FFF, 0x0, 0x0, 0xE000, [], true, [(256, 0x0)], 0x0, 0x0⟩]

/-- Rows of the FLD registers (R502). -/
def rowsFLD_2 : List RegRow :=
  [⟨"FLD_TXOPT", 0x6100C, [(256, 0x20)], 0x0, 0xF800, 0x0, 0x0, 0x7FF, [], true, [(256, 0x0)], 0x0, 0x0⟩,
   ⟨"FLD_TXHVAL", 0x61010, [(256, 0x20)], 0x0, 0xFFFF, 0x0, 0x0, 0x0, [], true, [(256, 0x0)], 0x0, 0x0⟩,
   ⟨"FLD_TXSTAT", 0x61014, [(256, 0x20)], 0xFFFF01FF, 0x0, 0x0, 0x0, 0x0, [], false, [(256, 0x0)], 0x0, 0x0⟩,
   ⟨"FLD_TXTWC", 0x61018, [(256, 0x20)], 0xFFFF, 0x0, 0x0, 0x0, 0x0, [], false, [(256, 0x0)], 0x0, 0x0⟩,
   ⟨"FLD_RXCFG", 0x63000, [(256, 0x20)], 0x0, 0xBEFF, 0x0, 0x0, 0x4100, [], true, [(256, 0x600)], 0x0, 0x0⟩,
   ⟨"FLD_RXIDL", 0x63004, [(256, 0x20)], 0x0, 0xFFFF, 0x0, 0x0, 0x0, [], true, [(256, 0x0)], 0x0, 0x0⟩,
   ⟨"FLD_RXIDH", 0x63008, [(256, 0x20)], 0x0, 0x1FFF, 0x0, 0x0, 0xE000, [], true, [(256, 0x0)], 0x0, 0x0⟩,
   ⟨"FLD_RXMSKL", 0x6300C, [(256, 0x20)], 0x0, 0xFFFF, 0x0, 0x0, 0x0, [], true, [(256, 0xFFFF)], 0x0, 0x0⟩,
   ⟨"FLD_RXMSKH", 0x63010, [(256, 0x20)], 0x0, 0x1FFF, 0x0, 0x0, 0xE000, [], true, [(256, 0x1FFF)], 0x0, 0x0⟩,
   ⟨"FLD_RXSTAT", 0x63014, [(256, 0x20)], 0xFFFF0000, 0x0, 0x0, 0x0, 0x0, [], false, [(256, 0x80000000)], 0x0, 0x0⟩,
   ⟨"FLD_RXRID", 0x63018, [(256, 0x20)], 0x1FFFFFFF, 0x0, 0x0, 0x0, 0x0, [], false, [(256, 0x0)], 0x0, 0x0⟩,
   ⟨"FLD_TXDATA", 0x68000, [(256, 0x40), (16, 0x4)], 0xFFFFFFFF, 0x0, 0x0, 0x0, 0x0, [], false, [(4096, 0x0)], 0x0, 0x0⟩]

/-- Rows of the FLD registers (R502). -/
def rowsFLD_3 : List RegRow :=
  [⟨"FLD_RXDATA", 0x6C000, [(256, 0x40), (16, 0x4)], 0xFFFFFFFF, 0x0, 0x0, 0x0, 0x0, [], false, [(4096, 0x0)], 0x0, 0x0⟩,
   ⟨"FLD_RXRSV", 0x6301C, [(256, 0x20)], 0x0, 0x0, 0x0, 0x0, 0x0, [], false, [(256, 0x0)], 0x0, 0x0⟩,
   ⟨"FLD_TXRSV", 0x6101C, [(256, 0x20)], 0x0, 0x0, 0x0, 0x0, 0x0, [], false, [(256, 0x0)], 0x0, 0x0⟩]

/-- All rows of the FLD registers (R502). -/
def rowsFLD : List RegRow := rowsFLD_0 ++ rowsFLD_1 ++ rowsFLD_2 ++ rowsFLD_3

/-- Rows of the RNG registers (R555). -/
def rowsRNG_0 : List RegRow :=
  [⟨"RNG_CTL", 0x70000, [], 0x0, 0xFF00, 0x0, 0x0, 0xFF, [], true, [(1, 0x0)], 0x0, 0xFF00⟩,
   ⟨"RNG_STAT", 0x70004, [], 0xCFC0, 0x0, 0x1E, 0x0, 0x0, [], false, [(1, 0x8000)], 0x0, 0x0⟩,
   ⟨"RNG_ENUMT", 0x70008, [], 0x0, 0xFFFF, 0x0, 0x0, 0x0, [], true, [(1, 0x14)], 0x0, 0x0⟩,
   ⟨"RNG_LOSTN", 0x7000C, [], 0x0, 0xFF, 0x0, 0x0, 0xFF00, [], true, [(1, 0x4)], 0x0, 0x0⟩,
   ⟨"RNG_CYCNT", 0x70010, [], 0xFFFFFFFF, 0x0, 0x0, 0x0, 0x0, [], false, [(1, 0x0)], 0x0, 0x0⟩,
   ⟨"RNG_CHASH", 0x70014, [], 0xFFFFFFFF, 0x0, 0x0, 0x0, 0x0, [], false, [(1, 0x0)], 0x0, 0x0⟩,
   ⟨"RNG_TOFS", 0x70018, [], 0xFFFFFFFF, 0x0, 0x0, 0x0, 0x0, [], false, [(1, 0x0)], 0x0, 0x0⟩,
   ⟨"RNG_HOPDLY", 0x7001C, [], 0xFFFFFFFF, 0x0, 0x0, 0x0, 0x0, [], false, [(1, 0x0)], 0x0, 0x0⟩,
   ⟨"RNG_PRESENT", 0x70020, [], 0xFFFF, 0x0, 0x0, 0x0, 0x0, [], false, [(1, 0x0)], 0x0, 0x0⟩,
   ⟨"RNG_TSEQ", 0x70024, [], 0xFFFF, 0x0, 0x0, 0x0, 0x0, [], false, [(1, 0x0)], 0x0, 0x0⟩,
   ⟨"RNG_ERRCNT", 0x70028, [], 0x0, 0x0, 0xFFFFFFFF, 0x0, 0x0, [], false, [(1, 0x0)], 0x0, 0x0⟩,
   ⟨"RNG_FPER", 0x7002C, [], 0xFFFF, 0x0, 0x0, 0x0, 0x0, [], false, [(1, 0x0)], 0x0, 0x0⟩]

/-- Rows of the RNG registers (R555). -/
def rowsRNG_1 : List RegRow :=
  [⟨"RNG_MSTAT", 0x70040, [(8, 0x4)], 0xFC0F, 0x0, 0x0, 0x0, 0x0, [], false, [(8, 0x0)], 0x0, 0x0⟩,
   ⟨"RNG_MHASH", 0x70060, [(8, 0x4)], 0xFFFFFFFF, 0x0, 0x0, 0x0, 0x0, [], false, [(8, 0x0)], 0x0, 0x0⟩,
   ⟨"RNG_RVCTL", 0x70080, [], 0x0, 0x7F80, 0x0, 0x8000, 0x7F, [], true, [(1, 0x0)], 0x0, 0x0⟩,
   ⟨"RNG_RVNUML", 0x70084, [], 0x0, 0xFFFF, 0x0, 0x0, 0x0, [], true, [(1, 0x0)], 0x0, 0x0⟩,
   ⟨"RNG_RVNUMH", 0x70088, [], 0x0, 0xFFFF, 0x0, 0x0, 0x0, [], true, [(1, 0x0)], 0x0, 0x0⟩,
   ⟨"RNG_BOUND", 0x700A0, [(16, 0x4)], 0x0, 0xFFFF, 0x0, 0x0, 0x0, [], true, [(16, 0x0)], 0x0, 0xFFFF⟩,
   ⟨"RNG_CLEADL", 0x71000, [(128, 0x10)], 0xFFFFFFFF, 0x0, 0x0, 0x0, 0x0, [], false, [(128, 0x0)], 0x0, 0x0⟩,
   ⟨"RNG_CLEADH", 0x71004, [(128, 0x10)], 0xFFFFFFFF, 0x0, 0x0, 0x0, 0x0, [], false, [(128, 0x0)], 0x0, 0x0⟩,
   ⟨"RNG_CSPEED", 0x71008, [(128, 0x10)], 0xFFFFFFFF, 0x0, 0x0, 0x0, 0x0, [], false, [(128, 0xFFFF0000)], 0x0, 0x0⟩,
   ⟨"RNG_CMAP", 0x7100C, [(128, 0x10)], 0xFFFFFFFF, 0x0, 0x0, 0x0, 0x0, [], false, [(128, 0x8000FFFF)], 0x0, 0x0⟩]

/-- All rows of the RNG registers (R555). -/
def rowsRNG : List RegRow := rowsRNG_0 ++ rowsRNG_1

/-- Rows of the TOMO registers (R119). -/
def rowsTOMO_0 : List RegRow :=
  [⟨"TOMO_CTL", 0x80000, [], 0x0, 0xEF00, 0x0, 0x1000, 0xFF, [], true, [(1, 0x6300)], 0x0, 0x0⟩,
   ⟨"TOMO_STAT", 0x80004, [], 0xFF00, 0x0, 0xDF, 0x0, 0x0, [], false, [(1, 0x2F00)], 0x0, 0x0⟩,
   ⟨"TOMO_FPER", 0x80008, [], 0x0, 0xFFFF, 0x0, 0x0, 0x0, [], true, [(1, 0x7D0)], 0x0, 0x0⟩,
   ⟨"TOMO_FPHASE", 0x8000C, [], 0x0, 0xFFFF, 0x0, 0x0, 0x0, [], true, [(1, 0x0)], 0x0, 0x0⟩,
   ⟨"TOMO_FSEQL", 0x80010, [], 0xFFFFFFFF, 0x0, 0x0, 0x0, 0x0, [], false, [(1, 0x0)], 0x0, 0x0⟩,
   ⟨"TOMO_FSEQH", 0x80014, [], 0xFFFFFFFF, 0x0, 0x0, 0x0, 0x0, [], false, [(1, 0x0)], 0x0, 0x0⟩,
   ⟨"TOMO_TFREQ", 0x80018, [(4, 0x4)], 0x0, 0xFFFF, 0x0, 0x0, 0x0, [], true, [(1, 0x7D), (2, 0x1F4), (3, 0x7D0), (4, 0x1F40)], 0x0, 0x0⟩,
   ⟨"TOMO_TAMP", 0x80028, [(4, 0x4)], 0x0, 0xFFFF, 0x0, 0x0, 0x0, [], true, [(4, 0x9C4)], 0x0, 0x0⟩,
   ⟨"TOMO_GEOMID", 0x80038, [], 0xFFFFFFFF, 0x0, 0x0, 0x0, 0x0, [], false, [(1, 0x0)], 0x0, 0x0⟩,
   ⟨"TOMO_NPAIR", 0x8003C, [], 0xFFFF, 0x0, 0x0, 0x0, 0x0, [], false, [(1, 0x0)], 0x0, 0x0⟩,
   ⟨"TOMO_RECIPTOL", 0x80040, [], 0x0, 0xFFFF, 0x0, 0x0, 0x0, [], true, [(1, 0xC8)], 0x0, 0x0⟩,
   ⟨"TOMO_BANKENL", 0x80044, [], 0x0, 0xFFFF, 0x0, 0x0, 0x0, [], true, [(1, 0xFFFF)], 0x0, 0x0⟩]

/-- Rows of the TOMO registers (R119). -/
def rowsTOMO_1 : List RegRow :=
  [⟨"TOMO_BANKENH", 0x80048, [], 0x0, 0xFFFF, 0x0, 0x0, 0x0, [], true, [(1, 0xFFFF)], 0x0, 0x0⟩,
   ⟨"TOMO_OVLCNT", 0x80050, [], 0x0, 0x0, 0xFFFFFFFF, 0x0, 0x0, [], false, [(1, 0x0)], 0x0, 0x0⟩,
   ⟨"TOMO_DRVOVLCNT", 0x80054, [], 0x0, 0x0, 0xFFFFFFFF, 0x0, 0x0, [], false, [(1, 0x0)], 0x0, 0x0⟩,
   ⟨"TOMO_RECIPCNT", 0x80058, [], 0x0, 0x0, 0xFFFFFFFF, 0x0, 0x0, [], false, [(1, 0x0)], 0x0, 0x0⟩,
   ⟨"TOMO_STARTERRCNT", 0x8005C, [], 0x0, 0x0, 0xFFFFFFFF, 0x0, 0x0, [], false, [(1, 0x0)], 0x0, 0x0⟩,
   ⟨"TOMO_LASTREC", 0x80060, [], 0x3F, 0x0, 0x0, 0x0, 0x0, [], false, [(1, 0x0)], 0x0, 0x0⟩,
   ⟨"TOMO_RINGBASE", 0x80064, [], 0xFFFFFFFF, 0x0, 0x0, 0x0, 0x0, [], false, [(1, 0x0)], 0x0, 0x0⟩,
   ⟨"TOMO_STEP", 0x80400, [(256, 0x4)], 0x0, 0xC0FF, 0x0, 0x0, 0x3F00, [], true, [(256, 0x8000)], 0x1, 0x0⟩]

/-- All rows of the TOMO registers (R119). -/
def rowsTOMO : List RegRow := rowsTOMO_0 ++ rowsTOMO_1

/-- Rows of the AFT registers (R119). -/
def rowsAFT : List RegRow :=
  [⟨"AFT_ID", 0x90000, [(2, 0x8000)], 0x1, 0x0, 0x0, 0x0, 0x0, [], false, [(1, 0x0), (2, 0x1)], 0x0, 0x0⟩,
   ⟨"AFT_CTL", 0x90004, [(2, 0x8000)], 0x0, 0xFF00, 0x0, 0x0, 0xFF, [], true, [(2, 0x0)], 0x0, 0x0⟩,
   ⟨"AFT_STAT", 0x90008, [(2, 0x8000)], 0x0, 0x0, 0xC000, 0x0, 0x0, [], false, [(2, 0x0)], 0x0, 0x0⟩,
   ⟨"AFT_TEMP", 0x9000C, [(2, 0x8000)], 0xFFFF, 0x0, 0x0, 0x0, 0x0, [], false, [(2, 0x0)], 0x0, 0x0⟩,
   ⟨"AFT_RTIDX", 0x90010, [(2, 0x8000)], 0x0, 0xFF8F, 0x0, 0x0, 0x70, [], true, [(2, 0x0)], 0x0, 0x0⟩,
   ⟨"AFT_RTDATA", 0x90014, [(2, 0x8000)], 0x0, 0xFFFF, 0x0, 0x0, 0x0, [], true, [(2, 0x0)], 0x0, 0x0⟩,
   ⟨"AFT_EFAULT", 0x90020, [(2, 0x8000), (8, 0x4)], 0x0, 0xFFFF, 0x0, 0x0, 0x0, [], true, [(16, 0x0)], 0x0, 0x0⟩,
   ⟨"AFT_GSTAT", 0x90040, [(2, 0x8000)], 0x0, 0x0, 0xFFFF, 0x0, 0x0, [], false, [(2, 0x0)], 0x0, 0x0⟩,
   ⟨"AFT_LINKCNT", 0x90044, [(2, 0x8000)], 0x0, 0x0, 0xFFFFFFFF, 0x0, 0x0, [], false, [(2, 0x0)], 0x0, 0x0⟩]

/-- Rows of the AFF registers (R329). -/
def rowsAFF_0 : List RegRow :=
  [⟨"AFF_CTL", 0xA0000, [], 0x0, 0xA000, 0x0, 0x4000, 0x1FFF, [], true, [(1, 0x2000)], 0x0, 0x0⟩,
   ⟨"AFF_STAT", 0xA0004, [], 0x8000, 0x0, 0x3E, 0x0, 0x0, [], false, [(1, 0x0)], 0x0, 0x0⟩,
   ⟨"AFF_SCANPER", 0xA0008, [], 0x0, 0xFFFF, 0x0, 0x0, 0x0, [], true, [(1, 0x0)], 0x0, 0x0⟩,
   ⟨"AFF_SCANCNT", 0xA000C, [], 0xFFFFFFFF, 0x0, 0x0, 0x0, 0x0, [], false, [(1, 0x0)], 0x0, 0x0⟩,
   ⟨"AFF_SCANTIME", 0xA0010, [], 0xFFFF, 0x0, 0xFFFF0000, 0x0, 0x0, [], false, [(1, 0x0)], 0x0, 0x0⟩,
   ⟨"AFF_SHORTR", 0xA0014, [], 0x0, 0xFFFF, 0x0, 0x0, 0x0, [], true, [(1, 0x14)], 0x0, 0x0⟩,
   ⟨"AFF_LEAKTHR", 0xA0018, [], 0x0, 0xFFFF, 0x0, 0x0, 0x0, [], true, [(1, 0x14)], 0x0, 0x0⟩,
   ⟨"AFF_LEAKMIN", 0xA001C, [], 0x0, 0xFFFF, 0x0, 0x0, 0x0, [], true, [(1, 0x64)], 0x0, 0x0⟩,
   ⟨"AFF_RETRY", 0xA0020, [], 0x0, 0xFFFF, 0x0, 0x0, 0x0, [], true, [(1, 0xA)], 0x0, 0x0⟩,
   ⟨"AFF_FLTMAP", 0xA0024, [(7, 0x4)], 0xFFFFFFFF, 0x0, 0x0, 0x0, 0x0, [], false, [(7, 0x0)], 0x0, 0x0⟩,
   ⟨"AFF_NOTCHF", 0xA0040, [], 0xFFFF, 0x0, 0x0, 0x0, 0x0, [], false, [(1, 0x1388)], 0x0, 0x0⟩,
   ⟨"AFF_TABLOADL", 0xA0048, [], 0xFFFFFFFF, 0x0, 0x0, 0x0, 0x0, [], false, [(1, 0x0)], 0x0, 0x0⟩]

/-- Rows of the AFF registers (R329). -/
def rowsAFF_1 : List RegRow :=
  [⟨"AFF_TABLOADH", 0xA004C, [], 0xFFFFFFFF, 0x0, 0x0, 0x0, 0x0, [], false, [(1, 0x0)], 0x0, 0x0⟩,
   ⟨"AFF_GRET", 0xA0100, [(16, 0x4)], 0x8000FFFF, 0x0, 0x0, 0x0, 0x0, [], false, [(16, 0x0)], 0x0, 0x8000FFFF⟩,
   ⟨"AFF_ICFG", 0xA1000, [(224, 0x20)], 0x0, 0xFF80, 0x0, 0x0, 0x7F, [], true, [(224, 0x1100)], 0x0, 0x0⟩,
   ⟨"AFF_ILIN", 0xA1004, [(224, 0x20)], 0x0, 0xBFFF, 0x0, 0x0, 0x4000, [], true, [(224, 0x0)], 0x0, 0x0⟩,
   ⟨"AFF_ILEAD", 0xA1008, [(224, 0x20)], 0x0, 0xFFFF, 0x0, 0x0, 0x0, [], true, [(224, 0x0)], 0x0, 0xFFFF⟩,
   ⟨"AFF_ILEADK", 0xA100C, [(224, 0x20)], 0x0, 0xFFFF, 0x0, 0x0, 0x0, [], true, [(224, 0x1000)], 0x0, 0x0⟩,
   ⟨"AFF_IRES", 0xA1010, [(224, 0x20)], 0xFFFFFFFF, 0x0, 0x0, 0x0, 0x0, [], false, [(216, 0xA00FFFF), (224, 0xA008000)], 0x0, 0x0⟩,
   ⟨"AFF_IINS", 0xA1014, [(224, 0x20)], 0xFFFF, 0x0, 0x0, 0x0, 0x0, [], false, [(224, 0x0)], 0x0, 0xFFFF⟩,
   ⟨"AFF_IRAW", 0xA1018, [(224, 0x20)], 0xFFFFFFFF, 0x0, 0x0, 0x0, 0x0, [], false, [(224, 0x0)], 0x0, 0x0⟩,
   ⟨"AFF_IRSV", 0xA101C, [(224, 0x20)], 0x0, 0x0, 0x0, 0x0, 0x0, [], false, [(224, 0x0)], 0x0, 0x0⟩]

/-- All rows of the AFF registers (R329). -/
def rowsAFF : List RegRow := rowsAFF_0 ++ rowsAFF_1

/-- Rows of the REC registers (R169). -/
def rowsREC_0 : List RegRow :=
  [⟨"REC_CTL", 0xB0000, [], 0x0, 0xC0FF, 0x0, 0x0, 0x3F00, [], true, [(1, 0x40A8)], 0x0, 0x0⟩,
   ⟨"REC_STAT", 0xB0004, [], 0xF000, 0x0, 0xFE, 0x0, 0x0, [], false, [(1, 0x0)], 0x0, 0x0⟩,
   ⟨"REC_NITEREFF", 0xB0008, [], 0x1F1F, 0x0, 0x0, 0x0, 0x0, [], false, [(1, 0x1008)], 0x0, 0x0⟩,
   ⟨"REC_ALPHA", 0xB000C, [], 0x0, 0xFFFF, 0x0, 0x0, 0x0, [], true, [(1, 0xE666)], 0x0, 0x0⟩,
   ⟨"REC_LAMBDA", 0xB0010, [], 0x0, 0xFFFF, 0x0, 0x0, 0x0, [], true, [(1, 0x148)], 0x0, 0x0⟩,
   ⟨"REC_WEIGHT", 0xB0014, [], 0x0, 0xFFFF, 0x0, 0x0, 0x0, [], true, [(1, 0xC080)], 0x0, 0x0⟩,
   ⟨"REC_MISSMAX", 0xB0018, [], 0x0, 0xFFFF, 0x0, 0x0, 0x0, [], true, [(1, 0x260)], 0x0, 0x0⟩,
   ⟨"REC_SPANMIN", 0xB001C, [], 0x0, 0xFFFF, 0x0, 0x0, 0x0, [], true, [(1, 0x1000)], 0x0, 0x0⟩,
   ⟨"REC_BLTC", 0xB0020, [], 0x0, 0xFFFF, 0x0, 0x0, 0x0, [], true, [(1, 0x100)], 0x0, 0x0⟩,
   ⟨"REC_REFAVG", 0xB0024, [], 0x0, 0xFFFF, 0x0, 0x0, 0x0, [], true, [(1, 0x40)], 0x0, 0x0⟩,
   ⟨"REC_MSEQL", 0xB0028, [], 0xFFFFFFFF, 0x0, 0x0, 0x0, 0x0, [], false, [(1, 0x0)], 0x0, 0x0⟩,
   ⟨"REC_MSEQH", 0xB002C, [], 0xFFFFFFFF, 0x0, 0x0, 0x0, 0x0, [], false, [(1, 0x0)], 0x0, 0x0⟩]

/-- Rows of the REC registers (R169). -/
def rowsREC_1 : List RegRow :=
  [⟨"REC_LASTMAP", 0xB0030, [], 0xF, 0x0, 0x0, 0x0, 0x0, [], false, [(1, 0x0)], 0x0, 0x0⟩,
   ⟨"REC_MAPBASE", 0xB0034, [], 0xFFFFFFFF, 0x0, 0x0, 0x0, 0x0, [], false, [(1, 0x0)], 0x0, 0x0⟩,
   ⟨"REC_JBASE", 0xB0038, [], 0xFFFFFFFF, 0x0, 0x0, 0x0, 0x0, [], false, [(1, 0x0)], 0x0, 0x0⟩,
   ⟨"REC_MATID", 0xB003C, [], 0xFFFFFFFF, 0x0, 0x0, 0x0, 0x0, [], false, [(1, 0x0)], 0x0, 0x0⟩,
   ⟨"REC_REFID", 0xB0040, [], 0xFFFFFFFF, 0x0, 0x0, 0x0, 0x0, [], false, [(1, 0x0)], 0x0, 0x0⟩,
   ⟨"REC_NVOX", 0xB0044, [], 0x1FFFF, 0x0, 0x0, 0x0, 0x0, [], false, [(1, 0x0)], 0x0, 0x0⟩,
   ⟨"REC_MATERR", 0xB0048, [], 0xFF, 0x0, 0x0, 0x0, 0x0, [], false, [(1, 0x0)], 0x0, 0x0⟩,
   ⟨"REC_OVRCNT", 0xB004C, [], 0x0, 0x0, 0xFFFFFFFF, 0x0, 0x0, [], false, [(1, 0x0)], 0x0, 0x0⟩,
   ⟨"REC_SKIPCNT", 0xB0050, [], 0x0, 0x0, 0xFFFFFFFF, 0x0, 0x0, [], false, [(1, 0x0)], 0x0, 0x0⟩,
   ⟨"REC_SATCNT", 0xB0054, [], 0x0, 0x0, 0xFFFFFFFF, 0x0, 0x0, [], false, [(1, 0x0)], 0x0, 0x0⟩,
   ⟨"REC_FTIME", 0xB0058, [], 0xFFFF, 0x0, 0xFFFF0000, 0x0, 0x0, [], false, [(1, 0x0)], 0x0, 0x0⟩,
   ⟨"REC_ITIME", 0xB005C, [], 0xFFFF, 0x0, 0x0, 0x0, 0x0, [], false, [(1, 0x0)], 0x0, 0x0⟩]

/-- Rows of the REC registers (R169). -/
def rowsREC_2 : List RegRow :=
  [⟨"REC_ANCHU", 0xB0060, [], 0x0, 0xFFFF, 0x0, 0x0, 0x0, [], true, [(1, 0x96)], 0x0, 0x0⟩,
   ⟨"REC_DRIFTR", 0xB0064, [], 0x0, 0xFFFF, 0x0, 0x0, 0x0, [], true, [(1, 0x28)], 0x0, 0x0⟩,
   ⟨"REC_DRIFTT", 0xB0068, [], 0x0, 0xFFFF, 0x0, 0x0, 0x0, [], true, [(1, 0x14)], 0x0, 0x0⟩,
   ⟨"REC_DRIFTB", 0xB006C, [], 0x0, 0xFFFF, 0x0, 0x0, 0x0, [], true, [(1, 0x3E8)], 0x0, 0x0⟩,
   ⟨"REC_DRIFTMAX", 0xB0070, [], 0x0, 0xFFFF, 0x0, 0x0, 0x0, [], true, [(1, 0x1F4)], 0x0, 0x0⟩,
   ⟨"REC_DRIFTPU", 0xB0074, [], 0x0, 0xFFFF, 0x0, 0x0, 0x0, [], true, [(1, 0x64)], 0x0, 0x0⟩,
   ⟨"REC_ANCHGAIN", 0xB0078, [], 0x0, 0xFF, 0x0, 0x0, 0xFF00, [], true, [(1, 0x80)], 0x0, 0x0⟩,
   ⟨"REC_ANCHMAX", 0xB007C, [], 0x0, 0xFFFF, 0x0, 0x0, 0x0, [], true, [(1, 0x7D0)], 0x0, 0x0⟩,
   ⟨"REC_BASERES", 0xB0080, [], 0xFFFF, 0x0, 0x0, 0x0, 0x0, [], false, [(1, 0x0)], 0x0, 0x0⟩,
   ⟨"REC_MTLOADL", 0xB0088, [], 0xFFFFFFFF, 0x0, 0x0, 0x0, 0x0, [], false, [(1, 0x0)], 0x0, 0x0⟩,
   ⟨"REC_MTLOADH", 0xB008C, [], 0xFFFFFFFF, 0x0, 0x0, 0x0, 0x0, [], false, [(1, 0x0)], 0x0, 0x0⟩,
   ⟨"REC_LCROP", 0xB0100, [(16, 0x10)], 0x0, 0x3F, 0x0, 0x0, 0xFFC0, [], true, [(16, 0x0)], 0x0, 0x0⟩]

/-- Rows of the REC registers (R169). -/
def rowsREC_3 : List RegRow :=
  [⟨"REC_LOFFS", 0xB0104, [(16, 0x10)], 0x0, 0xFFFF, 0x0, 0x0, 0x0, [], true, [(16, 0x0)], 0x0, 0xFFFF⟩,
   ⟨"REC_LBOUND", 0xB0108, [(16, 0x10)], 0xFFFF, 0x0, 0x0, 0x0, 0x0, [], false, [(16, 0xFFFF)], 0x0, 0x0⟩,
   ⟨"REC_LSTAT", 0xB010C, [(16, 0x10)], 0xC000, 0x0, 0x1, 0x0, 0x0, [], false, [(16, 0x8000)], 0x0, 0x0⟩]

/-- All rows of the REC registers (R169). -/
def rowsREC : List RegRow := rowsREC_0 ++ rowsREC_1 ++ rowsREC_2 ++ rowsREC_3

/-- Rows of the PCL registers (R203). -/
def rowsPCL_0 : List RegRow :=
  [⟨"PCL_CTL", 0xC0000, [], 0x0, 0xF8FF, 0x0, 0x0, 0x700, [], true, [(1, 0x832)], 0x0, 0x0⟩,
   ⟨"PCL_STAT", 0xC0004, [], 0xC000, 0x0, 0x7F, 0x0, 0x0, [], false, [(1, 0x0)], 0x0, 0x0⟩,
   ⟨"PCL_LIVE", 0xC0008, [], 0x1FFFF, 0x0, 0x0, 0x0, 0x0, [], false, [(1, 0x0)], 0x0, 0x0⟩,
   ⟨"PCL_LOTS", 0xC000C, [], 0x1FFF, 0x0, 0x0, 0x0, 0x0, [], false, [(1, 0x0)], 0x0, 0x0⟩,
   ⟨"PCL_INTERVAL", 0xC0010, [], 0x0, 0xFFFF, 0x0, 0x0, 0x0, [], true, [(1, 0x7D0)], 0x0, 0x0⟩,
   ⟨"PCL_LEASE", 0xC0014, [], 0x0, 0xFFFF, 0x0, 0x0, 0x0, [], true, [(1, 0x64)], 0x0, 0x0⟩,
   ⟨"PCL_MAPAGE", 0xC0018, [], 0x0, 0xFFFF, 0x0, 0x0, 0x0, [], true, [(1, 0x7D0)], 0x0, 0x0⟩,
   ⟨"PCL_KGAIN", 0xC001C, [], 0x0, 0xFF, 0x0, 0x0, 0xFF00, [], true, [(1, 0x10)], 0x0, 0x0⟩,
   ⟨"PCL_VMEAN", 0xC0020, [], 0x0, 0xFFFF, 0x0, 0x0, 0x0, [], true, [(1, 0x0)], 0x0, 0x0⟩,
   ⟨"PCL_VSLEW", 0xC0024, [], 0x0, 0xFFFF, 0x0, 0x0, 0x0, [], true, [(1, 0x5)], 0x0, 0x0⟩,
   ⟨"PCL_CKPT", 0xC0028, [], 0x0, 0xFFFF, 0x0, 0x0, 0x0, [], true, [(1, 0x3C)], 0x0, 0x0⟩,
   ⟨"PCL_BUSYCNT", 0xC002C, [], 0x0, 0x0, 0xFFFFFFFF, 0x0, 0x0, [], false, [(1, 0x0)], 0x0, 0x0⟩]

/-- Rows of the PCL registers (R203). -/
def rowsPCL_1 : List RegRow :=
  [⟨"PCL_GAPCNT", 0xC0030, [], 0x0, 0x0, 0xFFFFFFFF, 0x0, 0x0, [], false, [(1, 0x0)], 0x0, 0x0⟩,
   ⟨"PCL_FULLCNT", 0xC0034, [], 0x0, 0x0, 0xFFFFFFFF, 0x0, 0x0, [], false, [(1, 0x0)], 0x0, 0x0⟩,
   ⟨"PCL_WAITMAX", 0xC0038, [], 0x0, 0x0, 0xFFFF, 0x0, 0x0, [], false, [(1, 0x0)], 0x0, 0x0⟩,
   ⟨"PCL_ARCHHEAD", 0xC003C, [], 0xFFFFFFFF, 0x0, 0x0, 0x0, 0x0, [], false, [(1, 0x0)], 0x0, 0xFFFFFFFF⟩,
   ⟨"PCL_ARCHCNT", 0xC0040, [], 0xFFFFFFFF, 0x0, 0x0, 0x0, 0x0, [], false, [(1, 0x0)], 0x0, 0xFFFFFFFF⟩,
   ⟨"PCL_PIDNEXT", 0xC0044, [], 0xFFFFFFFF, 0x0, 0x0, 0x0, 0x0, [], false, [(1, 0x1)], 0x0, 0xFFFFFFFF⟩,
   ⟨"PCL_TBLBASE", 0xC0048, [], 0xFFFFFFFF, 0x0, 0x0, 0x0, 0x0, [], false, [(1, 0x0)], 0x0, 0x0⟩,
   ⟨"PCL_LOTBASE", 0xC004C, [], 0xFFFFFFFF, 0x0, 0x0, 0x0, 0x0, [], false, [(1, 0x0)], 0x0, 0x0⟩,
   ⟨"PCL_LLEN", 0xC0100, [(16, 0x40)], 0x0, 0xFFFF, 0x0, 0x0, 0x0, [], true, [(16, 0x0)], 0x0, 0x0⟩,
   ⟨"PCL_LLOT", 0xC0104, [(16, 0x40)], 0x0, 0xFFFF, 0x0, 0x0, 0x0, [], true, [(16, 0xFFFF)], 0x0, 0x0⟩,
   ⟨"PCL_LSLOT", 0xC0108, [(16, 0x40)], 0x0, 0x807F, 0x0, 0x0, 0x7F80, [], true, [(16, 0x0)], 0x0, 0x0⟩,
   ⟨"PCL_TARGET", 0xC010C, [(16, 0x40)], 0x0, 0xFFFF, 0x0, 0x0, 0x0, [], true, [(16, 0x578)], 0x0, 0x0⟩]

/-- Rows of the PCL registers (R203). -/
def rowsPCL_2 : List RegRow :=
  [⟨"PCL_MEQ", 0xC0110, [(16, 0x40)], 0x0, 0xFFFF, 0x0, 0x0, 0x0, [], true, [(16, 0x258)], 0x0, 0x0⟩,
   ⟨"PCL_KDRY", 0xC0114, [(16, 0x40)], 0x0, 0xFFFF, 0x0, 0x0, 0x0, [], true, [(16, 0x4B0)], 0x0, 0x0⟩,
   ⟨"PCL_VMIN", 0xC0118, [(16, 0x40)], 0x0, 0xFFFF, 0x0, 0x0, 0x0, [], true, [(16, 0xC8)], 0x0, 0x0⟩,
   ⟨"PCL_VMAX", 0xC011C, [(16, 0x40)], 0x0, 0xFFFF, 0x0, 0x0, 0x0, [], true, [(16, 0x4B0)], 0x0, 0x0⟩,
   ⟨"PCL_VSET", 0xC0120, [(16, 0x40)], 0xFFFF, 0x0, 0x0, 0x0, 0x0, [], false, [(16, 0x0)], 0x0, 0x0⟩,
   ⟨"PCL_LSTAT", 0xC0124, [(16, 0x40)], 0x807F, 0x0, 0x0, 0x0, 0x0, [], false, [(16, 0x8068)], 0x0, 0x0⟩,
   ⟨"PCL_LEADPID", 0xC0128, [(16, 0x40)], 0xFFFFFFFF, 0x0, 0x0, 0x0, 0x0, [], false, [(16, 0x0)], 0x0, 0x0⟩,
   ⟨"PCL_LPRED", 0xC012C, [(16, 0x40)], 0xFFFF, 0x0, 0x0, 0x0, 0x0, [], false, [(16, 0xFFFF)], 0x0, 0x0⟩,
   ⟨"PCL_LNLIVE", 0xC0130, [(16, 0x40)], 0xFFFF, 0x0, 0x0, 0x0, 0x0, [], false, [(16, 0x0)], 0x0, 0x0⟩]

/-- All rows of the PCL registers (R203). -/
def rowsPCL : List RegRow := rowsPCL_0 ++ rowsPCL_1 ++ rowsPCL_2

/-- Rows of the LOOP registers (R246). -/
def rowsLOOP_0 : List RegRow :=
  [⟨"LOOP_ECTL", 0xD0000, [], 0x0, 0x8000, 0x0, 0x0, 0x7FFF, [], true, [(1, 0x0)], 0x0, 0x0⟩,
   ⟨"LOOP_ESTAT", 0xD0004, [], 0x8000, 0x0, 0xF, 0x0, 0x0, [], false, [(1, 0x0)], 0x0, 0x0⟩,
   ⟨"LOOP_LOAD", 0xD0008, [], 0xFFFF, 0x0, 0xFFFF0000, 0x0, 0x0, [], false, [(1, 0x0)], 0x0, 0x0⟩,
   ⟨"LOOP_OVRCNT", 0xD000C, [], 0x0, 0x0, 0xFFFFFFFF, 0x0, 0x0, [], false, [(1, 0x0)], 0x0, 0x0⟩,
   ⟨"LOOP_FTIDX", 0xD0010, [], 0x0, 0xBFFF, 0x0, 0x0, 0x4000, [], true, [(1, 0x0)], 0x0, 0x0⟩,
   ⟨"LOOP_FTDATA", 0xD0014, [], 0x0, 0xFFFF, 0x0, 0x0, 0x0, [], true, [(1, 0x0)], 0x0, 0x0⟩,
   ⟨"LOOP_TRCBASE", 0xD0018, [], 0xFFFFFFFF, 0x0, 0x0, 0x0, 0x0, [], false, [(1, 0x0)], 0x0, 0x0⟩,
   ⟨"LOOP_PGCTL", 0xD0100, [(8, 0x20)], 0x0, 0xCFFF, 0x0, 0x0, 0x3000, [], true, [(8, 0x80)], 0x0, 0x0⟩,
   ⟨"LOOP_PGPER", 0xD0104, [(8, 0x20)], 0x0, 0xFFFF, 0x0, 0x0, 0x0, [], true, [(8, 0x400A)], 0x0, 0x0⟩,
   ⟨"LOOP_PGPH", 0xD0108, [(8, 0x20)], 0x0, 0xFFFF, 0x0, 0x0, 0x0, [], true, [(8, 0x0)], 0x0, 0x0⟩,
   ⟨"LOOP_PGODLY", 0xD010C, [(8, 0x20)], 0x0, 0xFFFF, 0x0, 0x0, 0x0, [], true, [(8, 0x32)], 0x0, 0x0⟩,
   ⟨"LOOP_PGSTAT", 0xD0110, [(8, 0x20)], 0xFF01, 0x0, 0x6, 0x0, 0x0, [], false, [(8, 0x0)], 0x0, 0x0⟩]

/-- Rows of the LOOP registers (R246). -/
def rowsLOOP_1 : List RegRow :=
  [⟨"LOOP_PGOVR", 0xD0114, [(8, 0x20)], 0x0, 0x0, 0xFFFFFFFF, 0x0, 0x0, [], false, [(8, 0x0)], 0x0, 0x0⟩,
   ⟨"LOOP_PGTSKIP", 0xD0118, [(8, 0x20)], 0x0, 0x0, 0xFFFFFFFF, 0x0, 0x0, [], false, [(8, 0x0)], 0x0, 0x0⟩,
   ⟨"LOOP_INJCTL", 0xD0200, [(4, 0x10)], 0x0, 0xFFFF, 0x0, 0x0, 0x0, [13, 11], true, [(4, 0x380)], 0x0, 0x0⟩,
   ⟨"LOOP_INJAMP", 0xD0204, [(4, 0x10)], 0x0, 0xFFFF, 0x0, 0x0, 0x0, [], true, [(4, 0x0)], 0x0, 0x0⟩,
   ⟨"LOOP_INJLEN", 0xD0208, [(4, 0x10)], 0x0, 0xFFFF, 0x0, 0x0, 0x0, [], true, [(4, 0x1)], 0x0, 0x0⟩,
   ⟨"LOOP_INJCNT", 0xD020C, [(4, 0x10)], 0x0, 0xFFFF, 0x0, 0x0, 0x0, [], true, [(4, 0x0)], 0x0, 0x0⟩,
   ⟨"LOOP_TRCCTL", 0xD0300, [], 0x0, 0xBF80, 0x0, 0x4000, 0x7F, [], true, [(1, 0x0)], 0x0, 0x0⟩,
   ⟨"LOOP_TRCSTAT", 0xD0304, [], 0xE000, 0x0, 0x0, 0x0, 0x0, [], false, [(1, 0x0)], 0x0, 0x0⟩,
   ⟨"LOOP_TRGSRC", 0xD0308, [], 0x0, 0xFFFF, 0x0, 0x0, 0x0, [], true, [(1, 0x0)], 0x0, 0x0⟩,
   ⟨"LOOP_TRGLVL", 0xD030C, [], 0x0, 0xFFFF, 0x0, 0x0, 0x0, [], true, [(1, 0x0)], 0x0, 0x0⟩,
   ⟨"LOOP_TRCSEL", 0xD0310, [(8, 0x4)], 0x0, 0xF07F, 0x0, 0x0, 0xF80, [], true, [(8, 0xF000)], 0x0, 0x0⟩,
   ⟨"LOOP_TRCTRIG", 0xD0330, [(8, 0x4)], 0xFFFF, 0x0, 0x0, 0x0, 0x0, [], false, [(8, 0x0)], 0x0, 0x0⟩]

/-- Rows of the LOOP registers (R246). -/
def rowsLOOP_2 : List RegRow :=
  [⟨"LOOP_TRCWR", 0xD0350, [(8, 0x4)], 0xFFFF, 0x0, 0x0, 0x0, 0x0, [], false, [(8, 0x0)], 0x0, 0x0⟩,
   ⟨"LOOP_CTL", 0xD1000, [(128, 0x80)], 0x0, 0xFF80, 0x0, 0x0, 0x7F, [14], true, [(128, 0x0)], 0x0, 0x0⟩,
   ⟨"LOOP_SRC", 0xD1004, [(128, 0x80)], 0x0, 0xFFFF, 0x0, 0x0, 0x0, [], true, [(128, 0x0)], 0x0, 0x0⟩,
   ⟨"LOOP_DST", 0xD1008, [(128, 0x80)], 0x0, 0xFFFF, 0x0, 0x0, 0x0, [], true, [(128, 0x0)], 0x0, 0x0⟩,
   ⟨"LOOP_FFSRC", 0xD100C, [(128, 0x80)], 0x0, 0xFFFF, 0x0, 0x0, 0x0, [], true, [(128, 0x0)], 0x0, 0x0⟩,
   ⟨"LOOP_SP", 0xD1010, [(128, 0x80)], 0x0, 0xFFFF, 0x0, 0x0, 0x0, [], true, [(128, 0x0)], 0x0, 0x0⟩,
   ⟨"LOOP_MAN", 0xD1014, [(128, 0x80)], 0x0, 0xFFFF, 0x0, 0x0, 0x0, [], true, [(128, 0x0)], 0x0, 0x0⟩,
   ⟨"LOOP_OMIN", 0xD1018, [(128, 0x80)], 0x0, 0xFFFF, 0x0, 0x0, 0x0, [], true, [(128, 0x0)], 0x0, 0x0⟩,
   ⟨"LOOP_OMAX", 0xD101C, [(128, 0x80)], 0x0, 0xFFFF, 0x0, 0x0, 0x0, [], true, [(128, 0x0)], 0x0, 0x0⟩,
   ⟨"LOOP_KP", 0xD1020, [(128, 0x80)], 0x0, 0xFFFF, 0x0, 0x0, 0x0, [], true, [(128, 0x0)], 0x0, 0x0⟩,
   ⟨"LOOP_KI", 0xD1024, [(128, 0x80)], 0x0, 0xFFFF, 0x0, 0x0, 0x0, [], true, [(128, 0x0)], 0x0, 0x0⟩,
   ⟨"LOOP_KD", 0xD1028, [(128, 0x80)], 0x0, 0xFFFF, 0x0, 0x0, 0x0, [], true, [(128, 0x0)], 0x0, 0x0⟩]

/-- Rows of the LOOP registers (R246). -/
def rowsLOOP_3 : List RegRow :=
  [⟨"LOOP_TF", 0xD102C, [(128, 0x80)], 0x0, 0xFFFF, 0x0, 0x0, 0x0, [], true, [(128, 0x0)], 0x0, 0x0⟩,
   ⟨"LOOP_SPW", 0xD1030, [(128, 0x80)], 0x0, 0xFFFF, 0x0, 0x0, 0x0, [], true, [(128, 0x3C00)], 0x0, 0x0⟩,
   ⟨"LOOP_KFF", 0xD1034, [(128, 0x80)], 0x0, 0xFFFF, 0x0, 0x0, 0x0, [], true, [(128, 0x0)], 0x0, 0x0⟩,
   ⟨"LOOP_FT", 0xD1038, [(128, 0x80)], 0x0, 0xFF00, 0x0, 0x0, 0xFF, [], true, [(128, 0x0)], 0x0, 0x0⟩,
   ⟨"LOOP_MKM", 0xD103C, [(128, 0x80)], 0x0, 0xFFFF, 0x0, 0x0, 0x0, [], true, [(128, 0x0)], 0x0, 0x0⟩,
   ⟨"LOOP_MTM", 0xD1040, [(128, 0x80)], 0x0, 0xFFFF, 0x0, 0x0, 0x0, [], true, [(128, 0x0)], 0x0, 0x0⟩,
   ⟨"LOOP_MCFG", 0xD1044, [(128, 0x80)], 0x0, 0xFFFF, 0x0, 0x0, 0x0, [], true, [(128, 0xA00)], 0x0, 0x0⟩,
   ⟨"LOOP_MTHR", 0xD1048, [(128, 0x80)], 0x0, 0xFFFF, 0x0, 0x0, 0x0, [], true, [(128, 0x7C00)], 0x0, 0x0⟩,
   ⟨"LOOP_STAT", 0xD104C, [(128, 0x80)], 0xFF82, 0x0, 0x7D, 0x0, 0x0, [], false, [(128, 0x0)], 0x0, 0x0⟩,
   ⟨"LOOP_OVRCNTS", 0xD1050, [(128, 0x80)], 0x0, 0x0, 0xFFFFFFFF, 0x0, 0x0, [], false, [(128, 0x0)], 0x0, 0x0⟩,
   ⟨"LOOP_Y", 0xD1054, [(128, 0x80)], 0xFFFF, 0x0, 0x0, 0x0, 0x0, [], false, [(128, 0x0)], 0x0, 0x0⟩,
   ⟨"LOOP_OUT", 0xD1058, [(128, 0x80)], 0xFFFF, 0x0, 0x0, 0x0, 0x0, [], false, [(128, 0x0)], 0x0, 0x0⟩]

/-- Rows of the LOOP registers (R246). -/
def rowsLOOP_4 : List RegRow :=
  [⟨"LOOP_RES", 0xD105C, [(128, 0x80)], 0xFFFF, 0x0, 0x0, 0x0, 0x0, [], false, [(128, 0x0)], 0x0, 0x0⟩,
   ⟨"LOOP_SRSV", 0xD1060, [(128, 0x80), (8, 0x4)], 0x0, 0x0, 0x0, 0x0, 0x0, [], false, [(1024, 0x0)], 0x0, 0x0⟩]

/-- All rows of the LOOP registers (R246). -/
def rowsLOOP : List RegRow := rowsLOOP_0 ++ rowsLOOP_1 ++ rowsLOOP_2 ++ rowsLOOP_3 ++ rowsLOOP_4

/-- Rows of the VDRV registers (R278). -/
def rowsVDRV_0 : List RegRow :=
  [⟨"VDRV_CTL", 0xE0000, [], 0x0, 0x8000, 0x0, 0x0, 0x7FFF, [], true, [(1, 0x0)], 0x0, 0x0⟩,
   ⟨"VDRV_STAT", 0xE0004, [], 0x0, 0x0, 0xFF, 0x0, 0x0, [], false, [(1, 0x0)], 0x0, 0x0⟩,
   ⟨"VDRV_FLTMAP", 0xE0008, [], 0xFFFFFFFF, 0x0, 0x0, 0x0, 0x0, [], false, [(1, 0x0)], 0x0, 0x0⟩,
   ⟨"VDRV_DEFERCNT", 0xE000C, [], 0x0, 0x0, 0xFFFFFFFF, 0x0, 0x0, [], false, [(1, 0x0)], 0x0, 0x0⟩,
   ⟨"VDRV_VCOIL", 0xE0010, [(4, 0x4)], 0x3FFFF, 0x0, 0x0, 0x0, 0x0, [], false, [(4, 0x0)], 0x0, 0x0⟩,
   ⟨"VDRV_PAIR", 0xE0020, [], 0x0, 0xFFFF, 0x0, 0x0, 0x0, [], true, [(1, 0x0)], 0x0, 0x0⟩,
   ⟨"VDRV_TAMB", 0xE0024, [], 0x0, 0x80FF, 0x0, 0x0, 0x7F00, [], true, [(1, 0x0)], 0x0, 0x0⟩,
   ⟨"VDRV_TAMBV", 0xE0028, [], 0xFFFF, 0x0, 0x0, 0x0, 0x0, [], false, [(1, 0x0)], 0x0, 0x0⟩,
   ⟨"VDRV_PSTART", 0xE002C, [], 0xFFFFFFFF, 0x0, 0x0, 0x0, 0x0, [], false, [(1, 0x0)], 0x0, 0x0⟩,
   ⟨"VDRV_PROF", 0xE0100, [(32, 0x80)], 0x0, 0xFC00, 0x0, 0x0, 0x3FF, [], true, [(32, 0x400)], 0x0, 0x0⟩,
   ⟨"VDRV_BOOST", 0xE0104, [(32, 0x80)], 0x0, 0xFFFF, 0x0, 0x0, 0x0, [], true, [(32, 0x9C4)], 0x0, 0x0⟩,
   ⟨"VDRV_BOOSTT", 0xE0108, [(32, 0x80)], 0x0, 0xFFFF, 0x0, 0x0, 0x0, [], true, [(32, 0x0)], 0x0, 0x0⟩]

/-- Rows of the VDRV registers (R278). -/
def rowsVDRV_1 : List RegRow :=
  [⟨"VDRV_HOLDI", 0xE010C, [(32, 0x80)], 0x0, 0xFFFF, 0x0, 0x0, 0x0, [], true, [(32, 0x1F4)], 0x0, 0x0⟩,
   ⟨"VDRV_SET", 0xE0110, [(32, 0x80)], 0x0, 0xFFFF, 0x0, 0x0, 0x0, [], true, [(32, 0x0)], 0x0, 0x0⟩,
   ⟨"VDRV_CMD", 0xE0114, [(32, 0x80)], 0x0, 0x8000, 0x0, 0x4000, 0x3FFF, [], true, [(32, 0x0)], 0x0, 0x0⟩,
   ⟨"VDRV_DITH", 0xE0118, [(32, 0x80)], 0x0, 0xFF80, 0x0, 0x0, 0x7F, [], true, [(32, 0x0)], 0x0, 0x0⟩,
   ⟨"VDRV_DFREQ", 0xE011C, [(32, 0x80)], 0x0, 0xFFFF, 0x0, 0x0, 0x0, [], true, [(32, 0x64)], 0x0, 0x0⟩,
   ⟨"VDRV_TLIM", 0xE0120, [(32, 0x80)], 0x0, 0xFF, 0x0, 0x0, 0xFF00, [], true, [(32, 0x9B)], 0x0, 0x0⟩,
   ⟨"VDRV_ILHOT", 0xE0124, [(32, 0x80)], 0x0, 0xFFFF, 0x0, 0x0, 0x0, [], true, [(32, 0x1F4)], 0x0, 0x0⟩,
   ⟨"VDRV_RCOLD", 0xE0128, [(32, 0x80)], 0x0, 0xFFFF, 0x0, 0x0, 0x0, [], true, [(32, 0x0)], 0x0, 0x0⟩,
   ⟨"VDRV_THR", 0xE012C, [(32, 0x80)], 0x0, 0xFFFF, 0x0, 0x0, 0x0, [], true, [(32, 0x1414)], 0x0, 0x0⟩,
   ⟨"VDRV_THC", 0xE0130, [(32, 0x80)], 0x0, 0xFFFF, 0x0, 0x0, 0x0, [], true, [(32, 0x3232)], 0x0, 0x0⟩,
   ⟨"VDRV_CDCFG", 0xE0134, [(32, 0x80)], 0x0, 0xFFFF, 0x0, 0x0, 0x0, [], true, [(32, 0x140A)], 0x0, 0x0⟩,
   ⟨"VDRV_CSTAT", 0xE0138, [(32, 0x80)], 0xF800, 0x0, 0x7E, 0x0, 0x0, [], false, [(32, 0x0)], 0x0, 0x0⟩]

/-- Rows of the VDRV registers (R278). -/
def rowsVDRV_2 : List RegRow :=
  [⟨"VDRV_MEAS", 0xE013C, [(32, 0x80)], 0xFFFFFFFF, 0x0, 0x0, 0x0, 0x0, [], false, [(32, 0x0)], 0x0, 0x0⟩,
   ⟨"VDRV_FAULT", 0xE0140, [(32, 0x80)], 0x1FF, 0x0, 0x0, 0x0, 0x0, [], false, [(32, 0x0)], 0x0, 0x0⟩,
   ⟨"VDRV_CLOSET", 0xE0144, [(32, 0x80)], 0xFFFF, 0x0, 0x0, 0x0, 0x0, [], false, [(32, 0xFFFF)], 0x0, 0x0⟩,
   ⟨"VDRV_TW", 0xE0148, [(32, 0x80)], 0xFFFFFFFF, 0x0, 0x0, 0x0, 0x0, [], false, [(32, 0x0)], 0x0, 0x0⟩,
   ⟨"VDRV_RMEAS", 0xE014C, [(32, 0x80)], 0xFFFF, 0x0, 0x0, 0x0, 0x0, [], false, [(32, 0x0)], 0x0, 0x0⟩,
   ⟨"VDRV_RESTCNT", 0xE0150, [(32, 0x80)], 0x0, 0x0, 0xFFFFFFFF, 0x0, 0x0, [], false, [(32, 0x0)], 0x0, 0x0⟩,
   ⟨"VDRV_HOLDV", 0xE0154, [(32, 0x80)], 0x0, 0xFFFF, 0x0, 0x0, 0x0, [], true, [(32, 0x0)], 0x0, 0x0⟩,
   ⟨"VDRV_CRSV", 0xE0158, [(32, 0x80), (10, 0x4)], 0x0, 0x0, 0x0, 0x0, 0x0, [], false, [(320, 0x0)], 0x0, 0x0⟩]

/-- All rows of the VDRV registers (R278). -/
def rowsVDRV : List RegRow := rowsVDRV_0 ++ rowsVDRV_1 ++ rowsVDRV_2

/-- Rows of the FAN registers (R295). -/
def rowsFAN_0 : List RegRow :=
  [⟨"FAN_CTL", 0xF0000, [], 0x0, 0x8000, 0x0, 0x0, 0x7FFF, [], true, [(1, 0x0)], 0x0, 0x0⟩,
   ⟨"FAN_STAT", 0xF0004, [], 0x0, 0x0, 0xFE, 0x0, 0x0, [], false, [(1, 0x0)], 0x0, 0x0⟩,
   ⟨"FAN_FREQ", 0xF0008, [], 0x0, 0x3F, 0x0, 0x0, 0xFFC0, [], true, [(1, 0x1E)], 0x0, 0x0⟩,
   ⟨"FAN_FLTMAP", 0xF000C, [], 0xFF, 0x0, 0x0, 0x0, 0x0, [], false, [(1, 0x0)], 0x0, 0x0⟩,
   ⟨"FAN_DEFERCNT", 0xF0010, [], 0x0, 0x0, 0xFFFFFFFF, 0x0, 0x0, [], false, [(1, 0x0)], 0x0, 0x0⟩,
   ⟨"FAN_COOL", 0xF0014, [], 0x0, 0x8007, 0x0, 0x0, 0x7FF8, [], true, [(1, 0x8000)], 0x0, 0x0⟩,
   ⟨"FAN_COOLFLR", 0xF0018, [], 0xFFFF, 0x0, 0x0, 0x0, 0x0, [], false, [(1, 0x0)], 0x0, 0x0⟩,
   ⟨"FAN_CHCTL", 0xF0100, [(8, 0x80)], 0x0, 0x6CFF, 0x0, 0x0, 0x9300, [], true, [(8, 0x4408)], 0x0, 0x0⟩,
   ⟨"FAN_SET", 0xF0104, [(8, 0x80)], 0x0, 0xFFFF, 0x0, 0x0, 0x0, [], true, [(8, 0x0)], 0x0, 0x0⟩,
   ⟨"FAN_RAMP", 0xF0108, [(8, 0x80)], 0x0, 0xFFFF, 0x0, 0x0, 0x0, [], true, [(8, 0x64)], 0x0, 0x0⟩,
   ⟨"FAN_TACH", 0xF010C, [(8, 0x80)], 0x0, 0xFFFF, 0x0, 0x0, 0x0, [], true, [(8, 0x140A)], 0x0, 0x0⟩,
   ⟨"FAN_SKIPLO", 0xF0110, [(8, 0x80), (4, 0x8)], 0x0, 0xFFFF, 0x0, 0x0, 0x0, [], true, [(32, 0xFFFF)], 0x0, 0x0⟩]

/-- Rows of the FAN registers (R295). -/
def rowsFAN_1 : List RegRow :=
  [⟨"FAN_SKIPHI", 0xF0114, [(8, 0x80), (4, 0x8)], 0x0, 0xFFFF, 0x0, 0x0, 0x0, [], true, [(32, 0x0)], 0x0, 0x0⟩,
   ⟨"FAN_STALLCFG", 0xF0130, [(8, 0x80)], 0x0, 0xFFFF, 0x0, 0x0, 0x0, [], true, [(8, 0x1435)], 0x0, 0x0⟩,
   ⟨"FAN_CMD", 0xF0134, [(8, 0x80)], 0x0, 0x0, 0x0, 0x8000, 0x7FFF, [], true, [(8, 0x0)], 0x0, 0x0⟩,
   ⟨"FAN_HOLDV", 0xF0138, [(8, 0x80)], 0x0, 0xBFFF, 0x0, 0x0, 0x4000, [], true, [(8, 0x0)], 0x0, 0x0⟩,
   ⟨"FAN_CSTAT", 0xF013C, [(8, 0x80)], 0xF000, 0x0, 0x6, 0x0, 0x0, [], false, [(8, 0x0)], 0x0, 0x0⟩,
   ⟨"FAN_APPLIED", 0xF0140, [(8, 0x80)], 0xFFFFFFFF, 0x0, 0x0, 0x0, 0x0, [], false, [(8, 0x0)], 0x0, 0x0⟩,
   ⟨"FAN_SPEED", 0xF0144, [(8, 0x80)], 0xFFFF, 0x0, 0x0, 0x0, 0x0, [], false, [(8, 0x0)], 0x0, 0x0⟩,
   ⟨"FAN_MEAS", 0xF0148, [(8, 0x80)], 0xFFFFFFFF, 0x0, 0x0, 0x0, 0x0, [], false, [(8, 0x0)], 0x0, 0x0⟩,
   ⟨"FAN_FAULT", 0xF014C, [(8, 0x80)], 0xFF, 0x0, 0x0, 0x0, 0x0, [], false, [(8, 0x0)], 0x0, 0x0⟩,
   ⟨"FAN_STRETCH", 0xF0150, [(8, 0x80)], 0xFFFF, 0x0, 0x0, 0x0, 0x0, [], false, [(8, 0x0)], 0x0, 0x0⟩,
   ⟨"FAN_MISSCNT", 0xF0154, [(8, 0x80)], 0x0, 0x0, 0xFFFFFFFF, 0x0, 0x0, [], false, [(8, 0x0)], 0x0, 0x0⟩,
   ⟨"FAN_CRSV", 0xF0158, [(8, 0x80), (10, 0x4)], 0x0, 0x0, 0x0, 0x0, 0x0, [], false, [(80, 0x0)], 0x0, 0x0⟩]

/-- All rows of the FAN registers (R295). -/
def rowsFAN : List RegRow := rowsFAN_0 ++ rowsFAN_1

/-- Rows of the ENC registers (R77). -/
def rowsENC_0 : List RegRow :=
  [⟨"ENC_POSL", 0x100000, [(16, 0x40)], 0xFFFFFFFF, 0x0, 0x0, 0x0, 0x0, [], false, [(16, 0x0)], 0x0, 0x0⟩,
   ⟨"ENC_POSH", 0x100004, [(16, 0x40)], 0xFFFF, 0x0, 0x0, 0x0, 0x0, [], false, [(16, 0x0)], 0x0, 0x0⟩,
   ⟨"ENC_LEADL", 0x100008, [(16, 0x40)], 0xFFFFFFFF, 0x0, 0x0, 0x0, 0x0, [], false, [(16, 0x0)], 0x0, 0x0⟩,
   ⟨"ENC_LEADH", 0x10000C, [(16, 0x40)], 0xFFFF, 0x0, 0x0, 0x0, 0x0, [], false, [(16, 0x0)], 0x0, 0x0⟩,
   ⟨"ENC_LCTL", 0x100010, [(16, 0x40)], 0x0, 0xFFFF, 0x0, 0x0, 0x0, [], true, [(16, 0x4214)], 0x0, 0x0⟩,
   ⟨"ENC_SPR", 0x100014, [(16, 0x40)], 0x0, 0xFFFF, 0x0, 0x0, 0x0, [], true, [(16, 0x0)], 0x0, 0x0⟩,
   ⟨"ENC_CALI", 0x100018, [(16, 0x40)], 0x0, 0xFFFF, 0x0, 0x0, 0x0, [], true, [(16, 0x0)], 0x0, 0x0⟩,
   ⟨"ENC_CALF", 0x10001C, [(16, 0x40)], 0x0, 0xFFFF, 0x0, 0x0, 0x0, [], true, [(16, 0x0)], 0x0, 0x0⟩,
   ⟨"ENC_STALLT", 0x100020, [(16, 0x40)], 0x0, 0xFFFF, 0x0, 0x0, 0x0, [], true, [(16, 0x7D0)], 0x0, 0x0⟩,
   ⟨"ENC_REVLIM", 0x100024, [(16, 0x40)], 0x0, 0xFFFF, 0x0, 0x0, 0x0, [], true, [(16, 0x100)], 0x0, 0x0⟩,
   ⟨"ENC_LSTAT", 0x100028, [(16, 0x40)], 0xF000, 0x0, 0x7C, 0x0, 0x0, [], false, [(16, 0x0)], 0x0, 0x0⟩,
   ⟨"ENC_ZPOSL", 0x10002C, [(16, 0x40)], 0xFFFFFFFF, 0x0, 0x0, 0x0, 0x0, [], false, [(16, 0x0)], 0x0, 0x0⟩]

/-- Rows of the ENC registers (R77). -/
def rowsENC_1 : List RegRow :=
  [⟨"ENC_REVCNT", 0x100030, [(16, 0x40)], 0x0, 0x0, 0xFFFFFFFF, 0x0, 0x0, [], false, [(16, 0x0)], 0x0, 0x0⟩,
   ⟨"ENC_RATE", 0x100034, [(16, 0x40)], 0xFFFFFFFF, 0x0, 0x0, 0x0, 0x0, [], false, [(16, 0x0)], 0x0, 0x0⟩,
   ⟨"ENC_SUBSTMAX", 0x100038, [(16, 0x40)], 0x0, 0xFFFF, 0x0, 0x0, 0x0, [], true, [(16, 0xA)], 0x0, 0x0⟩,
   ⟨"ENC_ANGLE", 0x10003C, [(16, 0x40)], 0x3FF, 0x0, 0x0, 0x0, 0x0, [], false, [(16, 0x0)], 0x0, 0x0⟩,
   ⟨"ENC_MCNTL", 0x100400, [], 0xFFFFFFFF, 0x0, 0x0, 0x0, 0x0, [], false, [(1, 0x0)], 0x0, 0x0⟩,
   ⟨"ENC_MCNTH", 0x100404, [], 0xFFFF, 0x0, 0x0, 0x0, 0x0, [], false, [(1, 0x0)], 0x0, 0x0⟩,
   ⟨"ENC_MPER", 0x100408, [], 0xFFFFFFFF, 0x0, 0x0, 0x0, 0x0, [], false, [(1, 0x1E8480)], 0x0, 0x0⟩,
   ⟨"ENC_MCTL", 0x10040C, [], 0x0, 0x80FF, 0x0, 0x0, 0x7F00, [], true, [(1, 0x14)], 0x0, 0x0⟩,
   ⟨"ENC_MSTAT", 0x100410, [], 0x4000, 0x0, 0x8001, 0x0, 0x0, [], false, [(1, 0x0)], 0x0, 0x0⟩,
   ⟨"ENC_WTL", 0x100420, [], 0xFFFFFFFF, 0x0, 0x0, 0x0, 0x0, [], false, [(1, 0x0)], 0x0, 0x0⟩,
   ⟨"ENC_WTH", 0x100424, [], 0xFFFFFFFF, 0x0, 0x0, 0x0, 0x0, [], false, [(1, 0x0)], 0x0, 0x0⟩,
   ⟨"ENC_SNAPCTL", 0x100430, [], 0x0, 0x0, 0x0, 0x1, 0xFFFE, [], true, [(1, 0x0)], 0x0, 0x0⟩]

/-- Rows of the ENC registers (R77). -/
def rowsENC_2 : List RegRow :=
  [⟨"ENC_SNAPWTL", 0x100434, [], 0xFFFFFFFF, 0x0, 0x0, 0x0, 0x0, [], false, [(1, 0x0)], 0x0, 0x0⟩,
   ⟨"ENC_SNAPWTH", 0x100438, [], 0xFFFFFFFF, 0x0, 0x0, 0x0, 0x0, [], false, [(1, 0x0)], 0x0, 0x0⟩,
   ⟨"ENC_SNAPSEQ", 0x10043C, [], 0xFFFFFFFF, 0x0, 0x0, 0x0, 0x0, [], false, [(1, 0x0)], 0x0, 0x0⟩,
   ⟨"ENC_SNAPL", 0x100440, [(16, 0x10)], 0xFFFFFFFF, 0x0, 0x0, 0x0, 0x0, [], false, [(16, 0x0)], 0x0, 0x0⟩,
   ⟨"ENC_SNAPH", 0x100444, [(16, 0x10)], 0xFFFF, 0x0, 0x0, 0x0, 0x0, [], false, [(16, 0x0)], 0x0, 0x0⟩,
   ⟨"ENC_SNAPLDL", 0x100448, [(16, 0x10)], 0xFFFFFFFF, 0x0, 0x0, 0x0, 0x0, [], false, [(16, 0x0)], 0x0, 0x0⟩,
   ⟨"ENC_SNAPLDH", 0x10044C, [(16, 0x10)], 0xFFFF, 0x0, 0x0, 0x0, 0x0, [], false, [(16, 0x0)], 0x0, 0x0⟩,
   ⟨"ENC_SNAPML", 0x100540, [], 0xFFFFFFFF, 0x0, 0x0, 0x0, 0x0, [], false, [(1, 0x0)], 0x0, 0x0⟩,
   ⟨"ENC_SNAPMH", 0x100544, [], 0xFFFF, 0x0, 0x0, 0x0, 0x0, [], false, [(1, 0x0)], 0x0, 0x0⟩,
   ⟨"ENC_AFIRED", 0x100580, [(16, 0x4)], 0x0, 0x0, 0xFFFFFFFF, 0x0, 0x0, [], false, [(16, 0x0)], 0x0, 0x0⟩,
   ⟨"ENC_ACMP0", 0x101000, [(512, 0x10)], 0x0, 0xFFFF, 0x0, 0x0, 0x0, [], true, [(512, 0x0)], 0x0, 0x0⟩,
   ⟨"ENC_ACMP1", 0x101004, [(512, 0x10)], 0x0, 0xFFFF, 0x0, 0x0, 0x0, [], true, [(512, 0x0)], 0x0, 0x0⟩]

/-- Rows of the ENC registers (R77). -/
def rowsENC_3 : List RegRow :=
  [⟨"ENC_ACMP2", 0x101008, [(512, 0x10)], 0x0, 0xFFFF, 0x0, 0x0, 0x0, [], true, [(512, 0x0)], 0x0, 0x0⟩,
   ⟨"ENC_ACTL", 0x10100C, [(512, 0x10)], 0x0, 0x9FFF, 0x0, 0x0, 0x6000, [], true, [(512, 0x0)], 0x0, 0x0⟩,
   ⟨"ENC_ASTAT", 0x103000, [(512, 0x4)], 0x0, 0x0, 0x7, 0x0, 0x0, [], false, [(512, 0x0)], 0x0, 0x0⟩]

/-- All rows of the ENC registers (R77). -/
def rowsENC : List RegRow := rowsENC_0 ++ rowsENC_1 ++ rowsENC_2 ++ rowsENC_3

/-- Rows of the POOL registers (R577). -/
def rowsPOOL_0 : List RegRow :=
  [⟨"POOL_STAT", 0x110000, [], 0x8000, 0x0, 0x3F, 0x0, 0x0, [], false, [(1, 0x8000)], 0x0, 0x0⟩,
   ⟨"POOL_KFREE", 0x110004, [], 0xFFFF, 0x0, 0xFFFF0000, 0x0, 0x0, [], false, [(1, 0x20002000)], 0x0, 0x0⟩,
   ⟨"POOL_TFREE", 0x110008, [], 0xFFFF, 0x0, 0xFFFF0000, 0x0, 0x0, [], false, [(1, 0x800080)], 0x0, 0x0⟩,
   ⟨"POOL_NOBUFCNT", 0x11000C, [], 0xFFFFFFFF, 0x0, 0x0, 0x0, 0x0, [], false, [(1, 0x0)], 0x0, 0x0⟩,
   ⟨"POOL_EVDROPCNT", 0x110010, [], 0x0, 0x0, 0xFFFFFFFF, 0x0, 0x0, [], false, [(1, 0x0)], 0x0, 0x0⟩,
   ⟨"POOL_AGECNT", 0x110014, [], 0x0, 0x0, 0xFFFFFFFF, 0x0, 0x0, [], false, [(1, 0x0)], 0x0, 0x0⟩,
   ⟨"POOL_CONTEST", 0x110018, [], 0x1F1F1F, 0x0, 0x0, 0x0, 0x0, [], false, [(1, 0x0)], 0x0, 0x0⟩,
   ⟨"POOL_CONTCNT", 0x11001C, [], 0x0, 0x0, 0xFFFFFFFF, 0x0, 0x0, [], false, [(1, 0x0)], 0x0, 0x0⟩,
   ⟨"POOL_QSTAT", 0x110020, [], 0x1F, 0x0, 0x1F0000, 0x0, 0x0, [], false, [(1, 0x0)], 0x0, 0x0⟩,
   ⟨"POOL_PRIV", 0x110040, [(5, 0x4)], 0x0, 0xFFF, 0x0, 0x0, 0xF000, [], true, [(1, 0x40), (2, 0x100), (3, 0x40), (4, 0x200), (5, 0x100)], 0x0, 0x0⟩,
   ⟨"POOL_TENT", 0x110060, [(5, 0x4)], 0x0, 0xFF, 0x0, 0x0, 0xFF00, [], true, [(1, 0x10), (2, 0x10), (3, 0x8), (4, 0x0), (5, 0x8)], 0x0, 0x0⟩,
   ⟨"POOL_USE", 0x110080, [(5, 0x4)], 0xFFFF, 0x0, 0xFFFF0000, 0x0, 0x0, [], false, [(5, 0x0)], 0x0, 0x0⟩]

/-- Rows of the POOL registers (R577). -/
def rowsPOOL_1 : List RegRow :=
  [⟨"POOL_TUSE", 0x1100A0, [(5, 0x4)], 0xFF, 0x0, 0x0, 0x0, 0x0, [], false, [(5, 0x0)], 0x0, 0x0⟩]

/-- All rows of the POOL registers (R577). -/
def rowsPOOL : List RegRow := rowsPOOL_0 ++ rowsPOOL_1

/-- Rows of the SEC registers (R397). -/
def rowsSEC : List RegRow :=
  [⟨"SEC_STAT", 0x120000, [], 0xC000, 0x0, 0x3, 0x0, 0x0, [], false, [(1, 0x8000)], 0x0, 0x8000⟩,
   ⟨"SEC_KEYIDX", 0x120004, [], 0x0, 0x807F, 0x0, 0x0, 0x7F80, [], true, [(1, 0x0)], 0x0, 0x0⟩,
   ⟨"SEC_KEYDATA", 0x120008, [], 0x0, 0x0, 0x0, 0xFFFF, 0x0, [], true, [(1, 0x0)], 0x0, 0x0⟩,
   ⟨"SEC_KEYCMD", 0x12000C, [], 0x0, 0x0, 0x0, 0xC000, 0x3FFF, [], true, [(1, 0x0)], 0x0, 0x0⟩,
   ⟨"SEC_LOCKT", 0x120010, [], 0x0, 0xFFFF, 0x0, 0x0, 0x0, [], true, [(1, 0x3C)], 0x0, 0x0⟩,
   ⟨"SEC_FAILCNT", 0x120014, [], 0x0, 0x0, 0xFFFFFFFF, 0x0, 0x0, [], false, [(1, 0x0)], 0x0, 0x0⟩,
   ⟨"SEC_SLOT", 0x120100, [(8, 0x4)], 0x0, 0xC000, 0x0, 0x0, 0x3FFF, [], true, [(8, 0x0)], 0x0, 0xC000⟩,
   ⟨"SEC_SLOTSTAT", 0x120120, [(8, 0x4)], 0xFFFFC00F, 0x0, 0x0, 0x0, 0x0, [], false, [(8, 0x0)], 0x0, 0xFFFF8000⟩]

/-- Rows of the SVC registers (R599). -/
def rowsSVC : List RegRow :=
  [⟨"SVC_CTL", 0x130000, [], 0x0, 0x8000, 0x0, 0x0, 0x7FFF, [], true, [(1, 0x8000)], 0x0, 0x0⟩,
   ⟨"SVC_BAUD", 0x130004, [], 0x0, 0xFFFF, 0x0, 0x0, 0x0, [], true, [(1, 0x341)], 0x0, 0x0⟩,
   ⟨"SVC_STAT", 0x130008, [], 0x8000, 0x0, 0xF, 0x0, 0x0, [], false, [(1, 0x0)], 0x0, 0x0⟩,
   ⟨"SVC_RXCNT", 0x13000C, [], 0xFFFFFFFF, 0x0, 0x0, 0x0, 0x0, [], false, [(1, 0x0)], 0x0, 0x0⟩,
   ⟨"SVC_ERRCNT", 0x130010, [], 0x0, 0x0, 0xFFFFFFFF, 0x0, 0x0, [], false, [(1, 0x0)], 0x0, 0x0⟩]

/-- Rows of the SAFE registers (R468). -/
def rowsSAFE_0 : List RegRow :=
  [⟨"SAFE_ID", 0x140000, [], 0xFFFF00FF, 0x0, 0x0, 0x0, 0x0, [], false, [(1, 0x725600A5)], 0x0, 0x0⟩,
   ⟨"SAFE_CTL", 0x140004, [], 0x0, 0xC000, 0x0, 0x0, 0x3FFF, [], true, [(1, 0x0)], 0x0, 0x0⟩,
   ⟨"SAFE_HBPER", 0x140008, [], 0x0, 0xFFFF, 0x0, 0x0, 0x0, [], true, [(1, 0x64)], 0x0, 0x0⟩,
   ⟨"SAFE_HB", 0x14000C, [], 0x0, 0xFFFF, 0x0, 0x0, 0x0, [], true, [(1, 0x0)], 0x0, 0x0⟩,
   ⟨"SAFE_HBCNT", 0x140010, [], 0xFFFFFFFF, 0x0, 0x0, 0x0, 0x0, [], false, [(1, 0x0)], 0x0, 0x0⟩,
   ⟨"SAFE_ALIVE", 0x140014, [], 0xFFFF, 0x0, 0x0, 0x0, 0x0, [], false, [(1, 0x0)], 0x0, 0x0⟩,
   ⟨"SAFE_STATE", 0x140018, [], 0xFF00, 0x0, 0x0, 0x0, 0x0, [], false, [(1, 0x0)], 0x0, 0x0⟩,
   ⟨"SAFE_STAT", 0x14001C, [], 0x0, 0x0, 0xF, 0x0, 0x0, [], false, [(1, 0x0)], 0x0, 0x0⟩,
   ⟨"SAFE_PARITY", 0x140020, [], 0x0, 0x0, 0x3FFFFF, 0x0, 0x0, [], false, [(1, 0x0)], 0x0, 0x0⟩,
   ⟨"SAFE_VDFLT", 0x140024, [], 0xFFFFFFFF, 0x0, 0x0, 0x0, 0x0, [], false, [(1, 0x0)], 0x0, 0x0⟩,
   ⟨"SAFE_FANFLT", 0x140028, [], 0xFF, 0x0, 0x0, 0x0, 0x0, [], false, [(1, 0x0)], 0x0, 0x0⟩,
   ⟨"SAFE_SPIERRCNT", 0x14002C, [], 0x0, 0x0, 0xFFFF, 0x0, 0x0, [], false, [(1, 0x0)], 0x0, 0x0⟩]

/-- Rows of the SAFE registers (R468). -/
def rowsSAFE_1 : List RegRow :=
  [⟨"SAFE_RSV", 0x140030, [(4, 0x4)], 0x0, 0x0, 0x0, 0x0, 0x0, [], false, [(4, 0x0)], 0x0, 0x0⟩]

/-- All rows of the SAFE registers (R468). -/
def rowsSAFE : List RegRow := rowsSAFE_0 ++ rowsSAFE_1

/-- Rows of the BOOT registers (R470). -/
def rowsBOOT : List RegRow :=
  [⟨"BOOT_BANKS", 0x150000, [], 0xFFC00000, 0x0, 0x0, 0x0, 0x0, [], false, [(1, 0x10000000)], 0x0, 0x0⟩,
   ⟨"BOOT_JOURNAL", 0x150004, [], 0xFFE0, 0x0, 0x0, 0x0, 0x0, [], false, [(1, 0x0)], 0x0, 0x0⟩,
   ⟨"BOOT_FWVER0", 0x150008, [], 0xFFFFFF, 0x0, 0x0, 0x0, 0x0, [], false, [(1, 0x0)], 0x0, 0x0⟩,
   ⟨"BOOT_FWVER1", 0x15000C, [], 0xFFFFFF, 0x0, 0x0, 0x0, 0x0, [], false, [(1, 0x0)], 0x0, 0x0⟩,
   ⟨"BOOT_MATID0", 0x150010, [], 0xFFFFFFFF, 0x0, 0x0, 0x0, 0x0, [], false, [(1, 0x0)], 0x0, 0x0⟩,
   ⟨"BOOT_MATID1", 0x150014, [], 0xFFFFFFFF, 0x0, 0x0, 0x0, 0x0, [], false, [(1, 0x0)], 0x0, 0x0⟩,
   ⟨"BOOT_SEL", 0x150018, [], 0x0, 0x0, 0x0, 0xC000, 0x3FFF, [], true, [(1, 0x0)], 0x0, 0x0⟩,
   ⟨"BOOT_LAST", 0x15001C, [], 0xFFFF00FF, 0x0, 0x0, 0x0, 0x0, [], false, [(1, 0x0)], 0x0, 0x0⟩,
   ⟨"BOOT_RSV", 0x150020, [(8, 0x4)], 0x0, 0x0, 0x0, 0x0, 0x0, [], false, [(8, 0x0)], 0x0, 0x0⟩]

/-- The rows of the unit that owns window `u` (R34). -/
def unitRows : Nat → List RegRow
  | 0 => rowsSYS
  | 1 => rowsPWR
  | 2 => rowsCLK
  | 3 => rowsTHM
  | 4 => rowsCMD
  | 5 => rowsNET
  | 6 => rowsFLD
  | 7 => rowsRNG
  | 8 => rowsTOMO
  | 9 => rowsAFT
  | 10 => rowsAFF
  | 11 => rowsREC
  | 12 => rowsPCL
  | 13 => rowsLOOP
  | 14 => rowsVDRV
  | 15 => rowsFAN
  | 16 => rowsENC
  | 17 => rowsPOOL
  | 18 => rowsSEC
  | 19 => rowsSVC
  | 20 => rowsSAFE
  | 21 => rowsBOOT
  | _ => []

/-! ### SYS: addresses and fields (R39/R353) -/

/-- SYS_ID. -/
def R.SYS_ID : Nat := 0x0
/-- SYS_ID.PART. -/
def F.SYS_ID_PART : RF := ⟨R.SYS_ID, 31, 16⟩
/-- SYS_ID.GRADE. -/
def F.SYS_ID_GRADE : RF := ⟨R.SYS_ID, 15, 12⟩
/-- SYS_ID.CXSTEP. -/
def F.SYS_ID_CXSTEP : RF := ⟨R.SYS_ID, 7, 0⟩
/-- SYS_DIEREV. -/
def R.SYS_DIEREV : Nat := 0x4
/-- SYS_DIEREV.NVSTEP. -/
def F.SYS_DIEREV_NVSTEP : RF := ⟨R.SYS_DIEREV, 31, 28⟩
/-- SYS_DIEREV.M1STEP. -/
def F.SYS_DIEREV_M1STEP : RF := ⟨R.SYS_DIEREV, 27, 24⟩
/-- SYS_DIEREV.M0STEP. -/
def F.SYS_DIEREV_M0STEP : RF := ⟨R.SYS_DIEREV, 23, 20⟩
/-- SYS_DIEREV.PDSTEP. -/
def F.SYS_DIEREV_PDSTEP : RF := ⟨R.SYS_DIEREV, 19, 16⟩
/-- SYS_DIEREV.FASTEP. -/
def F.SYS_DIEREV_FASTEP : RF := ⟨R.SYS_DIEREV, 15, 12⟩
/-- SYS_DIEREV.TA1STEP. -/
def F.SYS_DIEREV_TA1STEP : RF := ⟨R.SYS_DIEREV, 11, 8⟩
/-- SYS_DIEREV.TA0STEP. -/
def F.SYS_DIEREV_TA0STEP : RF := ⟨R.SYS_DIEREV, 7, 4⟩
/-- SYS_DIEREV.PKGSTEP. -/
def F.SYS_DIEREV_PKGSTEP : RF := ⟨R.SYS_DIEREV, 3, 0⟩
/-- SYS_FWVER. -/
def R.SYS_FWVER : Nat := 0x8
/-- SYS_FWVER.BANK. -/
def F.SYS_FWVER_BANK : RF := ⟨R.SYS_FWVER, 31, 31⟩
/-- SYS_FWVER.MAJOR. -/
def F.SYS_FWVER_MAJOR : RF := ⟨R.SYS_FWVER, 23, 16⟩
/-- SYS_FWVER.MINOR. -/
def F.SYS_FWVER_MINOR : RF := ⟨R.SYS_FWVER, 15, 8⟩
/-- SYS_FWVER.BUILD. -/
def F.SYS_FWVER_BUILD : RF := ⟨R.SYS_FWVER, 7, 0⟩
/-- SYS_CORESTAT. -/
def R.SYS_CORESTAT : Nat := 0xC
/-- SYS_CORESTAT.RESTARTS. -/
def F.SYS_CORESTAT_RESTARTS : RF := ⟨R.SYS_CORESTAT, 31, 16⟩
/-- SYS_CORESTAT.WDEXP. -/
def F.SYS_CORESTAT_WDEXP : RF := ⟨R.SYS_CORESTAT, 13, 8⟩
/-- SYS_CORESTAT.CORE_UP. -/
def F.SYS_CORESTAT_CORE_UP : RF := ⟨R.SYS_CORESTAT, 5, 0⟩
/-- SYS_MEMERR. -/
def R.SYS_MEMERR : Nat := 0x10
/-- SYS_MEMERR.CORR. -/
def F.SYS_MEMERR_CORR : RF := ⟨R.SYS_MEMERR, 31, 16⟩
/-- SYS_MEMERR.UNCORR. -/
def F.SYS_MEMERR_UNCORR : RF := ⟨R.SYS_MEMERR, 15, 8⟩
/-- SYS_MEMERR.LASTSRC. -/
def F.SYS_MEMERR_LASTSRC : RF := ⟨R.SYS_MEMERR, 7, 0⟩
/-- SYS_MODE. -/
def R.SYS_MODE : Nat := 0x100
/-- SYS_MODE.CUR. -/
def F.SYS_MODE_CUR : RF := ⟨R.SYS_MODE, 15, 12⟩
/-- SYS_MODE.HFROM. -/
def F.SYS_MODE_HFROM : RF := ⟨R.SYS_MODE, 11, 8⟩
/-- SYS_MODE.TARGET. -/
def F.SYS_MODE_TARGET : RF := ⟨R.SYS_MODE, 7, 4⟩
/-- SYS_MODE.BUSY. -/
def F.SYS_MODE_BUSY : RF := ⟨R.SYS_MODE, 3, 3⟩
/-- SYS_MODEREQ. -/
def R.SYS_MODEREQ : Nat := 0x104
/-- SYS_MODEREQ.GO. -/
def F.SYS_MODEREQ_GO : RF := ⟨R.SYS_MODEREQ, 15, 15⟩
/-- SYS_MODEREQ.TARGET. -/
def F.SYS_MODEREQ_TARGET : RF := ⟨R.SYS_MODEREQ, 3, 0⟩
/-- SYS_HOLDCAUSE. -/
def R.SYS_HOLDCAUSE : Nat := 0x108
/-- SYS_HOLDCAUSE.CAUSE. -/
def F.SYS_HOLDCAUSE_CAUSE : RF := ⟨R.SYS_HOLDCAUSE, 8, 0⟩
/-- SYS_MODESTAT. -/
def R.SYS_MODESTAT : Nat := 0x10C
/-- SYS_MODESTAT.CALDONE. -/
def F.SYS_MODESTAT_CALDONE : RF := ⟨R.SYS_MODESTAT, 3, 3⟩
/-- SYS_MODESTAT.PREEMPT. -/
def F.SYS_MODESTAT_PREEMPT : RF := ⟨R.SYS_MODESTAT, 2, 2⟩
/-- SYS_MODESTAT.HOLDIN. -/
def F.SYS_MODESTAT_HOLDIN : RF := ⟨R.SYS_MODESTAT, 1, 1⟩
/-- SYS_MODESTAT.REFUSED. -/
def F.SYS_MODESTAT_REFUSED : RF := ⟨R.SYS_MODESTAT, 0, 0⟩
/-- SYS_REFUSE. -/
def R.SYS_REFUSE : Nat := 0x110
/-- SYS_REFUSE.CODE. -/
def F.SYS_REFUSE_CODE : RF := ⟨R.SYS_REFUSE, 7, 0⟩
/-- SYS_CALSTAT. -/
def R.SYS_CALSTAT : Nat := 0x114
/-- SYS_CALSTAT.TIMEOUT. -/
def F.SYS_CALSTAT_TIMEOUT : RF := ⟨R.SYS_CALSTAT, 15, 15⟩
/-- SYS_CALSTAT.LEDGER. -/
def F.SYS_CALSTAT_LEDGER : RF := ⟨R.SYS_CALSTAT, 9, 9⟩
/-- SYS_CALSTAT.ROLL. -/
def F.SYS_CALSTAT_ROLL : RF := ⟨R.SYS_CALSTAT, 8, 8⟩
/-- SYS_CALSTAT.SINE. -/
def F.SYS_CALSTAT_SINE : RF := ⟨R.SYS_CALSTAT, 7, 7⟩
/-- SYS_CALSTAT.LIN. -/
def F.SYS_CALSTAT_LIN : RF := ⟨R.SYS_CALSTAT, 6, 6⟩
/-- SYS_CALSTAT.MODELS. -/
def F.SYS_CALSTAT_MODELS : RF := ⟨R.SYS_CALSTAT, 5, 5⟩
/-- SYS_CALSTAT.REF. -/
def F.SYS_CALSTAT_REF : RF := ⟨R.SYS_CALSTAT, 4, 4⟩
/-- SYS_CALSTAT.MATRIX. -/
def F.SYS_CALSTAT_MATRIX : RF := ⟨R.SYS_CALSTAT, 3, 3⟩
/-- SYS_CALSTAT.SWEEP. -/
def F.SYS_CALSTAT_SWEEP : RF := ⟨R.SYS_CALSTAT, 2, 2⟩
/-- SYS_CALSTAT.CALTAB. -/
def F.SYS_CALSTAT_CALTAB : RF := ⟨R.SYS_CALSTAT, 1, 1⟩
/-- SYS_CALSTAT.GEOM. -/
def F.SYS_CALSTAT_GEOM : RF := ⟨R.SYS_CALSTAT, 0, 0⟩
/-- SYS_CALTIME. -/
def R.SYS_CALTIME : Nat := 0x118
/-- SYS_CALTIME.T. -/
def F.SYS_CALTIME_T : RF := ⟨R.SYS_CALTIME, 15, 0⟩
/-- SYS_CALCTL. -/
def R.SYS_CALCTL : Nat := 0x11C
/-- SYS_CALCTL.STAY. -/
def F.SYS_CALCTL_STAY : RF := ⟨R.SYS_CALCTL, 15, 15⟩
/-- SYS_HOLDCFG. -/
def R.SYS_HOLDCFG : Nat := 0x120
/-- SYS_HOLDCFG.ENCLOST. -/
def F.SYS_HOLDCFG_ENCLOST : RF := ⟨R.SYS_HOLDCFG, 15, 15⟩
/-- SYS_HOLDCFG.OVRRUN. -/
def F.SYS_HOLDCFG_OVRRUN : RF := ⟨R.SYS_HOLDCFG, 14, 14⟩
/-- SYS_HOLDCFG.MAINS. -/
def F.SYS_HOLDCFG_MAINS : RF := ⟨R.SYS_HOLDCFG, 13, 13⟩
/-- SYS_FLOWCHK. -/
def R.SYS_FLOWCHK : Nat := 0x124
/-- SYS_FLOWCHK.CLUSTER. -/
def F.SYS_FLOWCHK_CLUSTER : RF := ⟨R.SYS_FLOWCHK, 6, 6⟩
/-- SYS_FLOWCHK.THERMAL. -/
def F.SYS_FLOWCHK_THERMAL : RF := ⟨R.SYS_FLOWCHK, 5, 5⟩
/-- SYS_FLOWCHK.PLAN. -/
def F.SYS_FLOWCHK_PLAN : RF := ⟨R.SYS_FLOWCHK, 4, 4⟩
/-- SYS_FLOWCHK.NOLANE. -/
def F.SYS_FLOWCHK_NOLANE : RF := ⟨R.SYS_FLOWCHK, 3, 3⟩
/-- SYS_FLOWCHK.GEOM. -/
def F.SYS_FLOWCHK_GEOM : RF := ⟨R.SYS_FLOWCHK, 2, 2⟩
/-- SYS_FLOWCHK.REF. -/
def F.SYS_FLOWCHK_REF : RF := ⟨R.SYS_FLOWCHK, 1, 1⟩
/-- SYS_FLOWCHK.MAT. -/
def F.SYS_FLOWCHK_MAT : RF := ⟨R.SYS_FLOWCHK, 0, 0⟩
/-- SYS_MODECNT. -/
def R.SYS_MODECNT : Nat := 0x128
/-- SYS_MODECNT.CNT. -/
def F.SYS_MODECNT_CNT : RF := ⟨R.SYS_MODECNT, 31, 0⟩
/-- SYS_HOLDCNT. -/
def R.SYS_HOLDCNT : Nat := 0x12C
/-- SYS_HOLDCNT.CNT. -/
def F.SYS_HOLDCNT_CNT : RF := ⟨R.SYS_HOLDCNT, 31, 0⟩

/-! ### PWR: addresses and fields (R623) -/

/-- PWR_STAT. -/
def R.PWR_STAT : Nat := 0x10000
/-- PWR_STAT.HUREADY. -/
def F.PWR_STAT_HUREADY : RF := ⟨R.PWR_STAT, 15, 15⟩
/-- PWR_STAT.HURED. -/
def F.PWR_STAT_HURED : RF := ⟨R.PWR_STAT, 14, 14⟩
/-- PWR_STAT.HUSTATE. -/
def F.PWR_STAT_HUSTATE : RF := ⟨R.PWR_STAT, 13, 12⟩
/-- PWR_STAT.QBASED. -/
def F.PWR_STAT_QBASED : RF := ⟨R.PWR_STAT, 11, 11⟩
/-- PWR_STAT.MISMATCH. -/
def F.PWR_STAT_MISMATCH : RF := ⟨R.PWR_STAT, 4, 4⟩
/-- PWR_STAT.REBASE. -/
def F.PWR_STAT_REBASE : RF := ⟨R.PWR_STAT, 3, 3⟩
/-- PWR_STAT.VGOV. -/
def F.PWR_STAT_VGOV : RF := ⟨R.PWR_STAT, 2, 2⟩
/-- PWR_STAT.PFDIP. -/
def F.PWR_STAT_PFDIP : RF := ⟨R.PWR_STAT, 1, 1⟩
/-- PWR_HUCTL. -/
def R.PWR_HUCTL : Nat := 0x10004
/-- PWR_HUCTL.EN. -/
def F.PWR_HUCTL_EN : RF := ⟨R.PWR_HUCTL, 15, 15⟩
/-- PWR_HUCTL.ICHG. -/
def F.PWR_HUCTL_ICHG : RF := ⟨R.PWR_HUCTL, 8, 0⟩
/-- PWR_HUCAP. -/
def R.PWR_HUCAP : Nat := 0x10008
/-- PWR_HUCAP.CAP. -/
def F.PWR_HUCAP_CAP : RF := ⟨R.PWR_HUCAP, 15, 0⟩
/-- PWR_PFTHR. -/
def R.PWR_PFTHR : Nat := 0x1000C
/-- PWR_PFTHR.THR. -/
def F.PWR_PFTHR_THR : RF := ⟨R.PWR_PFTHR, 15, 0⟩
/-- PWR_VIN. -/
def R.PWR_VIN : Nat := 0x10010
/-- PWR_VIN.V. -/
def F.PWR_VIN_V : RF := ⟨R.PWR_VIN, 15, 0⟩
/-- PWR_HUV. -/
def R.PWR_HUV : Nat := 0x10014
/-- PWR_HUV.V. -/
def F.PWR_HUV_V : RF := ⟨R.PWR_HUV, 15, 0⟩
/-- PWR_HUQ. -/
def R.PWR_HUQ : Nat := 0x10018
/-- PWR_HUQ.Q. -/
def F.PWR_HUQ_Q : RF := ⟨R.PWR_HUQ, 15, 0⟩
/-- PWR_HUE. -/
def R.PWR_HUE : Nat := 0x1001C
/-- PWR_HUE.EQ. -/
def F.PWR_HUE_EQ : RF := ⟨R.PWR_HUE, 31, 16⟩
/-- PWR_HUE.EV. -/
def F.PWR_HUE_EV : RF := ⟨R.PWR_HUE, 15, 0⟩
/-- PWR_HUGOV. -/
def R.PWR_HUGOV : Nat := 0x10020
/-- PWR_HUGOV.SRC. -/
def F.PWR_HUGOV_SRC : RF := ⟨R.PWR_HUGOV, 17, 16⟩
/-- PWR_HUGOV.E. -/
def F.PWR_HUGOV_E : RF := ⟨R.PWR_HUGOV, 15, 0⟩
/-- PWR_SAVEREQ. -/
def R.PWR_SAVEREQ : Nat := 0x10024
/-- PWR_SAVEREQ.FULL. -/
def F.PWR_SAVEREQ_FULL : RF := ⟨R.PWR_SAVEREQ, 31, 16⟩
/-- PWR_SAVEREQ.RED. -/
def F.PWR_SAVEREQ_RED : RF := ⟨R.PWR_SAVEREQ, 15, 0⟩
/-- PWR_HUCMEAS. -/
def R.PWR_HUCMEAS : Nat := 0x10028
/-- PWR_HUCMEAS.C. -/
def F.PWR_HUCMEAS_C : RF := ⟨R.PWR_HUCMEAS, 15, 0⟩
/-- PWR_LASTSAVE. -/
def R.PWR_LASTSAVE : Nat := 0x1002C
/-- PWR_LASTSAVE.T. -/
def F.PWR_LASTSAVE_T : RF := ⟨R.PWR_LASTSAVE, 31, 16⟩
/-- PWR_LASTSAVE.OUT. -/
def F.PWR_LASTSAVE_OUT : RF := ⟨R.PWR_LASTSAVE, 15, 8⟩
/-- PWR_RSTCAUSE. -/
def R.PWR_RSTCAUSE : Nat := 0x10030
/-- PWR_RSTCAUSE.RAIL. -/
def F.PWR_RSTCAUSE_RAIL : RF := ⟨R.PWR_RSTCAUSE, 15, 8⟩
/-- PWR_RSTCAUSE.CAUSE. -/
def F.PWR_RSTCAUSE_CAUSE : RF := ⟨R.PWR_RSTCAUSE, 7, 0⟩
/-- PWR_MWDT. -/
def R.PWR_MWDT : Nat := 0x10034
/-- PWR_MWDT.T. -/
def F.PWR_MWDT_T : RF := ⟨R.PWR_MWDT, 15, 0⟩
/-- PWR_RAILSTAT. -/
def R.PWR_RAILSTAT : Nat := 0x10038
/-- PWR_RAILSTAT.OK. -/
def F.PWR_RAILSTAT_OK : RF := ⟨R.PWR_RAILSTAT, 7, 0⟩
/-- PWR_MISCNT. -/
def R.PWR_MISCNT : Nat := 0x1003C
/-- PWR_MISCNT.CNT. -/
def F.PWR_MISCNT_CNT : RF := ⟨R.PWR_MISCNT, 31, 0⟩
/-- PWR_DOMSTAT. -/
def R.PWR_DOMSTAT (i : Nat) : Nat := 0x10040 + i * 0x4
/-- PWR_DOMSTAT.ON. -/
def F.PWR_DOMSTAT_ON (i : Nat) : RF := ⟨R.PWR_DOMSTAT i, 31, 0⟩

/-! ### CLK: addresses and fields (R624) -/

/-- CLK_STAT. -/
def R.CLK_STAT : Nat := 0x20000
/-- CLK_STAT.REFSEL. -/
def F.CLK_STAT_REFSEL : RF := ⟨R.CLK_STAT, 15, 15⟩
/-- CLK_STAT.REFLOST. -/
def F.CLK_STAT_REFLOST : RF := ⟨R.CLK_STAT, 14, 14⟩
/-- CLK_STAT.LOCK. -/
def F.CLK_STAT_LOCK : RF := ⟨R.CLK_STAT, 13, 8⟩
/-- CLK_STAT.MEASDONE. -/
def F.CLK_STAT_MEASDONE : RF := ⟨R.CLK_STAT, 2, 2⟩
/-- CLK_STAT.UNLOCK. -/
def F.CLK_STAT_UNLOCK : RF := ⟨R.CLK_STAT, 1, 1⟩
/-- CLK_STAT.REFLOSS. -/
def F.CLK_STAT_REFLOSS : RF := ⟨R.CLK_STAT, 0, 0⟩
/-- CLK_RUNL. -/
def R.CLK_RUNL : Nat := 0x20004
/-- CLK_RUNL.RUN. -/
def F.CLK_RUNL_RUN : RF := ⟨R.CLK_RUNL, 31, 0⟩
/-- CLK_RUNH. -/
def R.CLK_RUNH : Nat := 0x20008
/-- CLK_RUNH.RUN. -/
def F.CLK_RUNH_RUN : RF := ⟨R.CLK_RUNH, 31, 0⟩
/-- CLK_MEASSEL. -/
def R.CLK_MEASSEL : Nat := 0x2000C
/-- CLK_MEASSEL.GO. -/
def F.CLK_MEASSEL_GO : RF := ⟨R.CLK_MEASSEL, 15, 15⟩
/-- CLK_MEASSEL.DOM. -/
def F.CLK_MEASSEL_DOM : RF := ⟨R.CLK_MEASSEL, 5, 0⟩
/-- CLK_MEAS. -/
def R.CLK_MEAS : Nat := 0x20010
/-- CLK_MEAS.FREQ. -/
def F.CLK_MEAS_FREQ : RF := ⟨R.CLK_MEAS, 23, 0⟩
/-- CLK_LOSSCNT. -/
def R.CLK_LOSSCNT : Nat := 0x20014
/-- CLK_LOSSCNT.CNT. -/
def F.CLK_LOSSCNT_CNT : RF := ⟨R.CLK_LOSSCNT, 31, 0⟩

/-! ### THM: addresses and fields (R598) -/

/-- THM_CTL. -/
def R.THM_CTL : Nat := 0x30000
/-- THM_CTL.DEMAND. -/
def F.THM_CTL_DEMAND : RF := ⟨R.THM_CTL, 15, 15⟩
/-- THM_STAT. -/
def R.THM_STAT : Nat := 0x30004
/-- THM_STAT.LEVEL. -/
def F.THM_STAT_LEVEL : RF := ⟨R.THM_STAT, 15, 14⟩
/-- THM_STAT.ASKED. -/
def F.THM_STAT_ASKED : RF := ⟨R.THM_STAT, 13, 13⟩
/-- THM_STAT.ENFORCED. -/
def F.THM_STAT_ENFORCED : RF := ⟨R.THM_STAT, 12, 12⟩
/-- THM_STAT.CRIT. -/
def F.THM_STAT_CRIT : RF := ⟨R.THM_STAT, 4, 4⟩
/-- THM_STAT.SENSF. -/
def F.THM_STAT_SENSF : RF := ⟨R.THM_STAT, 3, 3⟩
/-- THM_STAT.RISE. -/
def F.THM_STAT_RISE : RF := ⟨R.THM_STAT, 2, 2⟩
/-- THM_STAT.FALL. -/
def F.THM_STAT_FALL : RF := ⟨R.THM_STAT, 1, 1⟩
/-- THM_STAT.DONE. -/
def F.THM_STAT_DONE : RF := ⟨R.THM_STAT, 0, 0⟩
/-- THM_WDPER. -/
def R.THM_WDPER : Nat := 0x30008
/-- THM_WDPER.PER. -/
def F.THM_WDPER_PER : RF := ⟨R.THM_WDPER, 15, 0⟩
/-- THM_GRACE. -/
def R.THM_GRACE : Nat := 0x3000C
/-- THM_GRACE.T. -/
def F.THM_GRACE_T : RF := ⟨R.THM_GRACE, 15, 0⟩
/-- THM_SENSEN. -/
def R.THM_SENSEN : Nat := 0x30010
/-- THM_SENSEN.EN. -/
def F.THM_SENSEN_EN : RF := ⟨R.THM_SENSEN, 15, 0⟩
/-- THM_DEMCNT. -/
def R.THM_DEMCNT : Nat := 0x30014
/-- THM_DEMCNT.CNT. -/
def F.THM_DEMCNT_CNT : RF := ⟨R.THM_DEMCNT, 31, 0⟩
/-- THM_FPSAVE. -/
def R.THM_FPSAVE : Nat := 0x30018
/-- THM_FPSAVE.FPER. -/
def F.THM_FPSAVE_FPER : RF := ⟨R.THM_FPSAVE, 15, 0⟩
/-- THM_DROPCNT. -/
def R.THM_DROPCNT : Nat := 0x3001C
/-- THM_DROPCNT.CNT. -/
def F.THM_DROPCNT_CNT : RF := ⟨R.THM_DROPCNT, 31, 0⟩
/-- THM_TEMP. -/
def R.THM_TEMP (i : Nat) : Nat := 0x30040 + i * 0x4
/-- THM_TEMP.T. -/
def F.THM_TEMP_T (i : Nat) : RF := ⟨R.THM_TEMP i, 15, 0⟩
/-- THM_DIETHR. -/
def R.THM_DIETHR (i : Nat) : Nat := 0x30100 + i * 0x10
/-- THM_DIETHR.THR. -/
def F.THM_DIETHR_THR (i : Nat) : RF := ⟨R.THM_DIETHR i, 15, 0⟩
/-- THM_EXTTHR. -/
def R.THM_EXTTHR (i : Nat) : Nat := 0x30104 + i * 0x10
/-- THM_EXTTHR.THR. -/
def F.THM_EXTTHR_THR (i : Nat) : RF := ⟨R.THM_EXTTHR i, 15, 0⟩
/-- THM_RED. -/
def R.THM_RED (i : Nat) : Nat := 0x30108 + i * 0x10
/-- THM_RED.KIND. -/
def F.THM_RED_KIND (i : Nat) : RF := ⟨R.THM_RED i, 15, 14⟩
/-- THM_RED.VALUE. -/
def F.THM_RED_VALUE (i : Nat) : RF := ⟨R.THM_RED i, 13, 0⟩
/-- THM_FLR. -/
def R.THM_FLR (i : Nat) : Nat := 0x3010C + i * 0x10
/-- THM_FLR.FLOOR. -/
def F.THM_FLR_FLOOR (i : Nat) : RF := ⟨R.THM_FLR i, 15, 0⟩

/-! ### CMD: addresses and fields (R396) -/

/-- CMD_CTL. -/
def R.CMD_CTL : Nat := 0x40000
/-- CMD_CTL.ECHO. -/
def F.CMD_CTL_ECHO : RF := ⟨R.CMD_CTL, 15, 15⟩
/-- CMD_STAT. -/
def R.CMD_STAT : Nat := 0x40004
/-- CMD_STAT.LATE. -/
def F.CMD_STAT_LATE : RF := ⟨R.CMD_STAT, 4, 4⟩
/-- CMD_STAT.BUSYSENT. -/
def F.CMD_STAT_BUSYSENT : RF := ⟨R.CMD_STAT, 3, 3⟩
/-- CMD_STAT.SRCX. -/
def F.CMD_STAT_SRCX : RF := ⟨R.CMD_STAT, 2, 2⟩
/-- CMD_STAT.SEQX. -/
def F.CMD_STAT_SEQX : RF := ⟨R.CMD_STAT, 1, 1⟩
/-- CMD_STAT.DROP. -/
def F.CMD_STAT_DROP : RF := ⟨R.CMD_STAT, 0, 0⟩
/-- CMD_IP. -/
def R.CMD_IP : Nat := 0x40008
/-- CMD_IP.IP. -/
def F.CMD_IP_IP : RF := ⟨R.CMD_IP, 31, 0⟩
/-- CMD_GW. -/
def R.CMD_GW : Nat := 0x4000C
/-- CMD_GW.GW. -/
def F.CMD_GW_GW : RF := ⟨R.CMD_GW, 31, 0⟩
/-- CMD_PFX. -/
def R.CMD_PFX : Nat := 0x40010
/-- CMD_PFX.PFX. -/
def F.CMD_PFX_PFX : RF := ⟨R.CMD_PFX, 5, 0⟩
/-- CMD_STGIPL. -/
def R.CMD_STGIPL : Nat := 0x40014
/-- CMD_STGIPL.IP. -/
def F.CMD_STGIPL_IP : RF := ⟨R.CMD_STGIPL, 15, 0⟩
/-- CMD_STGIPH. -/
def R.CMD_STGIPH : Nat := 0x40018
/-- CMD_STGIPH.IP. -/
def F.CMD_STGIPH_IP : RF := ⟨R.CMD_STGIPH, 15, 0⟩
/-- CMD_STGGWL. -/
def R.CMD_STGGWL : Nat := 0x4001C
/-- CMD_STGGWL.GW. -/
def F.CMD_STGGWL_GW : RF := ⟨R.CMD_STGGWL, 15, 0⟩
/-- CMD_STGGWH. -/
def R.CMD_STGGWH : Nat := 0x40020
/-- CMD_STGGWH.GW. -/
def F.CMD_STGGWH_GW : RF := ⟨R.CMD_STGGWH, 15, 0⟩
/-- CMD_STGPFX. -/
def R.CMD_STGPFX : Nat := 0x40024
/-- CMD_STGPFX.PFX. -/
def F.CMD_STGPFX_PFX : RF := ⟨R.CMD_STGPFX, 5, 0⟩
/-- CMD_IPCTL. -/
def R.CMD_IPCTL : Nat := 0x40028
/-- CMD_IPCTL.APPLY. -/
def F.CMD_IPCTL_APPLY : RF := ⟨R.CMD_IPCTL, 15, 15⟩
/-- CMD_IPCTL.SAVE. -/
def F.CMD_IPCTL_SAVE : RF := ⟨R.CMD_IPCTL, 14, 14⟩
/-- CMD_MACL. -/
def R.CMD_MACL : Nat := 0x4002C
/-- CMD_MACL.MAC. -/
def F.CMD_MACL_MAC : RF := ⟨R.CMD_MACL, 31, 0⟩
/-- CMD_MACH. -/
def R.CMD_MACH : Nat := 0x40030
/-- CMD_MACH.MAC. -/
def F.CMD_MACH_MAC : RF := ⟨R.CMD_MACH, 15, 0⟩
/-- CMD_IDLET. -/
def R.CMD_IDLET : Nat := 0x40034
/-- CMD_IDLET.T. -/
def F.CMD_IDLET_T : RF := ⟨R.CMD_IDLET, 15, 0⟩
/-- CMD_GRANTC. -/
def R.CMD_GRANTC : Nat := 0x40038
/-- CMD_GRANTC.GRANT. -/
def F.CMD_GRANTC_GRANT : RF := ⟨R.CMD_GRANTC, 9, 0⟩
/-- CMD_GRANTO. -/
def R.CMD_GRANTO : Nat := 0x4003C
/-- CMD_GRANTO.GRANT. -/
def F.CMD_GRANTO_GRANT : RF := ⟨R.CMD_GRANTO, 9, 0⟩
/-- CMD_BULKTO. -/
def R.CMD_BULKTO : Nat := 0x40040
/-- CMD_BULKTO.T. -/
def F.CMD_BULKTO_T : RF := ⟨R.CMD_BULKTO, 15, 0⟩
/-- CMD_INFLIGHT. -/
def R.CMD_INFLIGHT : Nat := 0x40044
/-- CMD_INFLIGHT.N. -/
def F.CMD_INFLIGHT_N : RF := ⟨R.CMD_INFLIGHT, 9, 0⟩
/-- CMD_RXCNT. -/
def R.CMD_RXCNT : Nat := 0x40048
/-- CMD_RXCNT.CNT. -/
def F.CMD_RXCNT_CNT : RF := ⟨R.CMD_RXCNT, 31, 0⟩
/-- CMD_DROPCNT. -/
def R.CMD_DROPCNT : Nat := 0x4004C
/-- CMD_DROPCNT.CNT. -/
def F.CMD_DROPCNT_CNT : RF := ⟨R.CMD_DROPCNT, 31, 0⟩
/-- CMD_SEQCNT. -/
def R.CMD_SEQCNT : Nat := 0x40050
/-- CMD_SEQCNT.CNT. -/
def F.CMD_SEQCNT_CNT : RF := ⟨R.CMD_SEQCNT, 31, 0⟩
/-- CMD_BUSYCNT. -/
def R.CMD_BUSYCNT : Nat := 0x40054
/-- CMD_BUSYCNT.CNT. -/
def F.CMD_BUSYCNT_CNT : RF := ⟨R.CMD_BUSYCNT, 31, 0⟩
/-- CMD_LATECNT. -/
def R.CMD_LATECNT : Nat := 0x40058
/-- CMD_LATECNT.CNT. -/
def F.CMD_LATECNT_CNT : RF := ⟨R.CMD_LATECNT, 31, 0⟩
/-- CMD_SSTATE. -/
def R.CMD_SSTATE (i : Nat) : Nat := 0x40100 + i * 0x20
/-- CMD_SSTATE.SID. -/
def F.CMD_SSTATE_SID (i : Nat) : RF := ⟨R.CMD_SSTATE i, 31, 16⟩
/-- CMD_SSTATE.STATE. -/
def F.CMD_SSTATE_STATE (i : Nat) : RF := ⟨R.CMD_SSTATE i, 15, 14⟩
/-- CMD_SSTATE.TYPE. -/
def F.CMD_SSTATE_TYPE (i : Nat) : RF := ⟨R.CMD_SSTATE i, 13, 13⟩
/-- CMD_SSTATE.SLOT. -/
def F.CMD_SSTATE_SLOT (i : Nat) : RF := ⟨R.CMD_SSTATE i, 12, 10⟩
/-- CMD_SSTATE.OUT. -/
def F.CMD_SSTATE_OUT (i : Nat) : RF := ⟨R.CMD_SSTATE i, 9, 0⟩
/-- CMD_SADDR. -/
def R.CMD_SADDR (i : Nat) : Nat := 0x40104 + i * 0x20
/-- CMD_SADDR.IP. -/
def F.CMD_SADDR_IP (i : Nat) : RF := ⟨R.CMD_SADDR i, 31, 0⟩
/-- CMD_SPORT. -/
def R.CMD_SPORT (i : Nat) : Nat := 0x40108 + i * 0x20
/-- CMD_SPORT.PORT. -/
def F.CMD_SPORT_PORT (i : Nat) : RF := ⟨R.CMD_SPORT i, 15, 0⟩
/-- CMD_SGRANT. -/
def R.CMD_SGRANT (i : Nat) : Nat := 0x4010C + i * 0x20
/-- CMD_SGRANT.GRANT. -/
def F.CMD_SGRANT_GRANT (i : Nat) : RF := ⟨R.CMD_SGRANT i, 9, 0⟩
/-- CMD_SRXSEQ. -/
def R.CMD_SRXSEQ (i : Nat) : Nat := 0x40110 + i * 0x20
/-- CMD_SRXSEQ.H. -/
def F.CMD_SRXSEQ_H (i : Nat) : RF := ⟨R.CMD_SRXSEQ i, 31, 0⟩
/-- CMD_STXSEQ. -/
def R.CMD_STXSEQ (i : Nat) : Nat := 0x40114 + i * 0x20
/-- CMD_STXSEQ.SEQ. -/
def F.CMD_STXSEQ_SEQ (i : Nat) : RF := ⟨R.CMD_STXSEQ i, 31, 0⟩
/-- CMD_SEVMASKL. -/
def R.CMD_SEVMASKL (i : Nat) : Nat := 0x40118 + i * 0x20
/-- CMD_SEVMASKL.MASK. -/
def F.CMD_SEVMASKL_MASK (i : Nat) : RF := ⟨R.CMD_SEVMASKL i, 31, 0⟩
/-- CMD_SEVMASKH. -/
def R.CMD_SEVMASKH (i : Nat) : Nat := 0x4011C + i * 0x20
/-- CMD_SEVMASKH.MASK. -/
def F.CMD_SEVMASKH_MASK (i : Nat) : RF := ⟨R.CMD_SEVMASKH i, 31, 0⟩

/-! ### NET: addresses and fields (R523) -/

/-- NET_STAT. -/
def R.NET_STAT : Nat := 0x50000
/-- NET_STAT.TALONX. -/
def F.NET_STAT_TALONX : RF := ⟨R.NET_STAT, 5, 5⟩
/-- NET_STAT.NOPATH. -/
def F.NET_STAT_NOPATH : RF := ⟨R.NET_STAT, 4, 4⟩
/-- NET_STAT.VHELD. -/
def F.NET_STAT_VHELD : RF := ⟨R.NET_STAT, 3, 3⟩
/-- NET_STAT.VSTALE. -/
def F.NET_STAT_VSTALE : RF := ⟨R.NET_STAT, 2, 2⟩
/-- NET_STAT.SHSKIP. -/
def F.NET_STAT_SHSKIP : RF := ⟨R.NET_STAT, 1, 1⟩
/-- NET_STAT.SWITCH. -/
def F.NET_STAT_SWITCH : RF := ⟨R.NET_STAT, 0, 0⟩
/-- NET_DEALER. -/
def R.NET_DEALER : Nat := 0x50004
/-- NET_DEALER.KIND. -/
def F.NET_DEALER_KIND : RF := ⟨R.NET_DEALER, 15, 14⟩
/-- NET_DEALER.SLOT. -/
def F.NET_DEALER_SLOT : RF := ⟨R.NET_DEALER, 6, 4⟩
/-- NET_DEALER.ADDR. -/
def F.NET_DEALER_ADDR : RF := ⟨R.NET_DEALER, 3, 0⟩
/-- NET_LCTL. -/
def R.NET_LCTL (i : Nat) : Nat := 0x50100 + i * 0x40
/-- NET_LCTL.PREF. -/
def F.NET_LCTL_PREF (i : Nat) : RF := ⟨R.NET_LCTL i, 15, 15⟩
/-- NET_LCTL.SHEN. -/
def F.NET_LCTL_SHEN (i : Nat) : RF := ⟨R.NET_LCTL i, 14, 14⟩
/-- NET_LCTL.TBEN. -/
def F.NET_LCTL_TBEN (i : Nat) : RF := ⟨R.NET_LCTL i, 13, 13⟩
/-- NET_SHPER. -/
def R.NET_SHPER (i : Nat) : Nat := 0x50104 + i * 0x40
/-- NET_SHPER.H. -/
def F.NET_SHPER_H (i : Nat) : RF := ⟨R.NET_SHPER i, 15, 0⟩
/-- NET_TBK. -/
def R.NET_TBK (i : Nat) : Nat := 0x50108 + i * 0x40
/-- NET_TBK.T. -/
def F.NET_TBK_T (i : Nat) : RF := ⟨R.NET_TBK i, 15, 0⟩
/-- NET_TALONENT. -/
def R.NET_TALONENT (i : Nat) : Nat := 0x5010C + i * 0x40
/-- NET_TALONENT.N. -/
def F.NET_TALONENT_N (i : Nat) : RF := ⟨R.NET_TALONENT i, 7, 0⟩
/-- NET_LSTAT. -/
def R.NET_LSTAT (i : Nat) : Nat := 0x50110 + i * 0x40
/-- NET_LSTAT.ACTIVE. -/
def F.NET_LSTAT_ACTIVE (i : Nat) : RF := ⟨R.NET_LSTAT i, 15, 15⟩
/-- NET_LSTAT.SWITCHING. -/
def F.NET_LSTAT_SWITCHING (i : Nat) : RF := ⟨R.NET_LSTAT i, 14, 14⟩
/-- NET_LSTAT.STBY. -/
def F.NET_LSTAT_STBY (i : Nat) : RF := ⟨R.NET_LSTAT i, 13, 12⟩
/-- NET_LSTAT.VA. -/
def F.NET_LSTAT_VA (i : Nat) : RF := ⟨R.NET_LSTAT i, 11, 10⟩
/-- NET_LSTAT.VB. -/
def F.NET_LSTAT_VB (i : Nat) : RF := ⟨R.NET_LSTAT i, 9, 8⟩
/-- NET_LSTAT.NOPATH. -/
def F.NET_LSTAT_NOPATH (i : Nat) : RF := ⟨R.NET_LSTAT i, 7, 7⟩
/-- NET_LSTAT.HELD. -/
def F.NET_LSTAT_HELD (i : Nat) : RF := ⟨R.NET_LSTAT i, 6, 6⟩
/-- NET_LSTAT.SHSKIP. -/
def F.NET_LSTAT_SHSKIP (i : Nat) : RF := ⟨R.NET_LSTAT i, 0, 0⟩
/-- NET_VNUM. -/
def R.NET_VNUM (i : Nat) : Nat := 0x50114 + i * 0x40
/-- NET_VNUM.NUM. -/
def F.NET_VNUM_NUM (i : Nat) : RF := ⟨R.NET_VNUM i, 31, 0⟩
/-- NET_SWCNT. -/
def R.NET_SWCNT (i : Nat) : Nat := 0x50118 + i * 0x40
/-- NET_SWCNT.CNT. -/
def F.NET_SWCNT_CNT (i : Nat) : RF := ⟨R.NET_SWCNT i, 31, 0⟩
/-- NET_LASTGAP. -/
def R.NET_LASTGAP (i : Nat) : Nat := 0x5011C + i * 0x40
/-- NET_LASTGAP.GAP. -/
def F.NET_LASTGAP_GAP (i : Nat) : RF := ⟨R.NET_LASTGAP i, 31, 0⟩
/-- NET_MAXGAP. -/
def R.NET_MAXGAP (i : Nat) : Nat := 0x50120 + i * 0x40
/-- NET_MAXGAP.GAP. -/
def F.NET_MAXGAP_GAP (i : Nat) : RF := ⟨R.NET_MAXGAP i, 31, 0⟩
/-- NET_LOSTCNT. -/
def R.NET_LOSTCNT (i : Nat) : Nat := 0x50124 + i * 0x40
/-- NET_LOSTCNT.CNT. -/
def F.NET_LOSTCNT_CNT (i : Nat) : RF := ⟨R.NET_LOSTCNT i, 31, 0⟩
/-- NET_SAVEAGE. -/
def R.NET_SAVEAGE (i : Nat) : Nat := 0x50128 + i * 0x40
/-- NET_SAVEAGE.MS. -/
def F.NET_SAVEAGE_MS (i : Nat) : RF := ⟨R.NET_SAVEAGE i, 15, 0⟩
/-- NET_SHNEXT. -/
def R.NET_SHNEXT (i : Nat) : Nat := 0x5012C + i * 0x40
/-- NET_SHNEXT.S. -/
def F.NET_SHNEXT_S (i : Nat) : RF := ⟨R.NET_SHNEXT i, 31, 0⟩
/-- NET_TALONUSE. -/
def R.NET_TALONUSE (i : Nat) : Nat := 0x50130 + i * 0x40
/-- NET_TALONUSE.PEAK. -/
def F.NET_TALONUSE_PEAK (i : Nat) : RF := ⟨R.NET_TALONUSE i, 31, 16⟩
/-- NET_TALONUSE.NOW. -/
def F.NET_TALONUSE_NOW (i : Nat) : RF := ⟨R.NET_TALONUSE i, 15, 0⟩
/-- NET_LRSV. -/
def R.NET_LRSV (i j : Nat) : Nat := 0x50134 + i * 0x40 + j * 0x4

/-! ### FLD: addresses and fields (R502) -/

/-- FLD_STAT. -/
def R.FLD_STAT : Nat := 0x60000
/-- FLD_STAT.BUSOFF. -/
def F.FLD_STAT_BUSOFF : RF := ⟨R.FLD_STAT, 15, 12⟩
/-- FLD_STAT.PASSIVE. -/
def F.FLD_STAT_PASSIVE : RF := ⟨R.FLD_STAT, 11, 8⟩
/-- FLD_STAT.LRFAIL. -/
def F.FLD_STAT_LRFAIL : RF := ⟨R.FLD_STAT, 4, 4⟩
/-- FLD_STAT.STALE. -/
def F.FLD_STAT_STALE : RF := ⟨R.FLD_STAT, 3, 3⟩
/-- FLD_STAT.NOROOM. -/
def F.FLD_STAT_NOROOM : RF := ⟨R.FLD_STAT, 2, 2⟩
/-- FLD_STAT.FAIL. -/
def F.FLD_STAT_FAIL : RF := ⟨R.FLD_STAT, 1, 1⟩
/-- FLD_STAT.CFGREJ. -/
def F.FLD_STAT_CFGREJ : RF := ⟨R.FLD_STAT, 0, 0⟩
/-- FLD_LRWIN. -/
def R.FLD_LRWIN : Nat := 0x60004
/-- FLD_LRWIN.WIN. -/
def F.FLD_LRWIN_WIN : RF := ⟨R.FLD_LRWIN, 15, 0⟩
/-- FLD_BCTL. -/
def R.FLD_BCTL (i : Nat) : Nat := 0x60100 + i * 0x80
/-- FLD_BCTL.EN. -/
def F.FLD_BCTL_EN (i : Nat) : RF := ⟨R.FLD_BCTL i, 15, 15⟩
/-- FLD_BCTL.RECOVER. -/
def F.FLD_BCTL_RECOVER (i : Nat) : RF := ⟨R.FLD_BCTL i, 14, 14⟩
/-- FLD_NBT0. -/
def R.FLD_NBT0 (i : Nat) : Nat := 0x60104 + i * 0x80
/-- FLD_NBT0.TSEG1. -/
def F.FLD_NBT0_TSEG1 (i : Nat) : RF := ⟨R.FLD_NBT0 i, 15, 8⟩
/-- FLD_NBT0.BRP. -/
def F.FLD_NBT0_BRP (i : Nat) : RF := ⟨R.FLD_NBT0 i, 7, 0⟩
/-- FLD_NBT1. -/
def R.FLD_NBT1 (i : Nat) : Nat := 0x60108 + i * 0x80
/-- FLD_NBT1.SJW. -/
def F.FLD_NBT1_SJW (i : Nat) : RF := ⟨R.FLD_NBT1 i, 15, 8⟩
/-- FLD_NBT1.TSEG2. -/
def F.FLD_NBT1_TSEG2 (i : Nat) : RF := ⟨R.FLD_NBT1 i, 7, 0⟩
/-- FLD_DBT0. -/
def R.FLD_DBT0 (i : Nat) : Nat := 0x6010C + i * 0x80
/-- FLD_DBT0.TSEG1. -/
def F.FLD_DBT0_TSEG1 (i : Nat) : RF := ⟨R.FLD_DBT0 i, 15, 8⟩
/-- FLD_DBT0.BRP. -/
def F.FLD_DBT0_BRP (i : Nat) : RF := ⟨R.FLD_DBT0 i, 7, 0⟩
/-- FLD_DBT1. -/
def R.FLD_DBT1 (i : Nat) : Nat := 0x60110 + i * 0x80
/-- FLD_DBT1.SJW. -/
def F.FLD_DBT1_SJW (i : Nat) : RF := ⟨R.FLD_DBT1 i, 15, 8⟩
/-- FLD_DBT1.TSEG2. -/
def F.FLD_DBT1_TSEG2 (i : Nat) : RF := ⟨R.FLD_DBT1 i, 7, 0⟩
/-- FLD_TDC. -/
def R.FLD_TDC (i : Nat) : Nat := 0x60114 + i * 0x80
/-- FLD_TDC.EN. -/
def F.FLD_TDC_EN (i : Nat) : RF := ⟨R.FLD_TDC i, 15, 15⟩
/-- FLD_TDC.TDCO. -/
def F.FLD_TDC_TDCO (i : Nat) : RF := ⟨R.FLD_TDC i, 6, 0⟩
/-- FLD_CYC. -/
def R.FLD_CYC (i : Nat) : Nat := 0x60118 + i * 0x80
/-- FLD_CYC.CYC. -/
def F.FLD_CYC_CYC (i : Nat) : RF := ⟨R.FLD_CYC i, 15, 0⟩
/-- FLD_CPH. -/
def R.FLD_CPH (i : Nat) : Nat := 0x6011C + i * 0x80
/-- FLD_CPH.PH. -/
def F.FLD_CPH_PH (i : Nat) : RF := ⟨R.FLD_CPH i, 15, 0⟩
/-- FLD_LEDG. -/
def R.FLD_LEDG (i : Nat) : Nat := 0x60120 + i * 0x80
/-- FLD_LEDG.EN. -/
def F.FLD_LEDG_EN (i : Nat) : RF := ⟨R.FLD_LEDG i, 15, 15⟩
/-- FLD_LEDG.BASE. -/
def F.FLD_LEDG_BASE (i : Nat) : RF := ⟨R.FLD_LEDG i, 10, 7⟩
/-- FLD_BSTAT. -/
def R.FLD_BSTAT (i : Nat) : Nat := 0x60124 + i * 0x80
/-- FLD_BSTAT.STATE. -/
def F.FLD_BSTAT_STATE (i : Nat) : RF := ⟨R.FLD_BSTAT i, 15, 14⟩
/-- FLD_BSTAT.RECOVERING. -/
def F.FLD_BSTAT_RECOVERING (i : Nat) : RF := ⟨R.FLD_BSTAT i, 13, 13⟩
/-- FLD_BSTAT.PATH. -/
def F.FLD_BSTAT_PATH (i : Nat) : RF := ⟨R.FLD_BSTAT i, 12, 12⟩
/-- FLD_BSTAT.TDCV. -/
def F.FLD_BSTAT_TDCV (i : Nat) : RF := ⟨R.FLD_BSTAT i, 6, 0⟩
/-- FLD_BECNT. -/
def R.FLD_BECNT (i : Nat) : Nat := 0x60128 + i * 0x80
/-- FLD_BECNT.TEC. -/
def F.FLD_BECNT_TEC (i : Nat) : RF := ⟨R.FLD_BECNT i, 24, 16⟩
/-- FLD_BECNT.REC. -/
def F.FLD_BECNT_REC (i : Nat) : RF := ⟨R.FLD_BECNT i, 7, 0⟩
/-- FLD_BLERR. -/
def R.FLD_BLERR (i : Nat) : Nat := 0x6012C + i * 0x80
/-- FLD_BLERR.CODE. -/
def F.FLD_BLERR_CODE (i : Nat) : RF := ⟨R.FLD_BLERR i, 31, 28⟩
/-- FLD_BLERR.TX. -/
def F.FLD_BLERR_TX (i : Nat) : RF := ⟨R.FLD_BLERR i, 27, 27⟩
/-- FLD_BLERR.FIELD. -/
def F.FLD_BLERR_FIELD (i : Nat) : RF := ⟨R.FLD_BLERR i, 26, 24⟩
/-- FLD_BLERR.BITPOS. -/
def F.FLD_BLERR_BITPOS (i : Nat) : RF := ⟨R.FLD_BLERR i, 8, 0⟩
/-- FLD_OKCNT. -/
def R.FLD_OKCNT (i : Nat) : Nat := 0x60130 + i * 0x80
/-- FLD_OKCNT.CNT. -/
def F.FLD_OKCNT_CNT (i : Nat) : RF := ⟨R.FLD_OKCNT i, 31, 0⟩
/-- FLD_FAILCNT. -/
def R.FLD_FAILCNT (i : Nat) : Nat := 0x60134 + i * 0x80
/-- FLD_FAILCNT.CNT. -/
def F.FLD_FAILCNT_CNT (i : Nat) : RF := ⟨R.FLD_FAILCNT i, 31, 0⟩
/-- FLD_RXCNT. -/
def R.FLD_RXCNT (i : Nat) : Nat := 0x60138 + i * 0x80
/-- FLD_RXCNT.CNT. -/
def F.FLD_RXCNT_CNT (i : Nat) : RF := ⟨R.FLD_RXCNT i, 31, 0⟩
/-- FLD_RXDROP. -/
def R.FLD_RXDROP (i : Nat) : Nat := 0x6013C + i * 0x80
/-- FLD_RXDROP.CNT. -/
def F.FLD_RXDROP_CNT (i : Nat) : RF := ⟨R.FLD_RXDROP i, 31, 0⟩
/-- FLD_LRFAIL. -/
def R.FLD_LRFAIL (i : Nat) : Nat := 0x60140 + i * 0x80
/-- FLD_LRFAIL.CNT. -/
def F.FLD_LRFAIL_CNT (i : Nat) : RF := ⟨R.FLD_LRFAIL i, 31, 0⟩
/-- FLD_WOFF. -/
def R.FLD_WOFF (i j : Nat) : Nat := 0x60800 + i * 0x100 + j * 0x8
/-- FLD_WOFF.OFF. -/
def F.FLD_WOFF_OFF (i j : Nat) : RF := ⟨R.FLD_WOFF i j, 15, 0⟩
/-- FLD_WLEN. -/
def R.FLD_WLEN (i j : Nat) : Nat := 0x60804 + i * 0x100 + j * 0x8
/-- FLD_WLEN.LEN. -/
def F.FLD_WLEN_LEN (i j : Nat) : RF := ⟨R.FLD_WLEN i j, 15, 0⟩
/-- FLD_TXCFG. -/
def R.FLD_TXCFG (i : Nat) : Nat := 0x61000 + i * 0x20
/-- FLD_TXCFG.MODE. -/
def F.FLD_TXCFG_MODE (i : Nat) : RF := ⟨R.FLD_TXCFG i, 15, 14⟩
/-- FLD_TXCFG.BUS. -/
def F.FLD_TXCFG_BUS (i : Nat) : RF := ⟨R.FLD_TXCFG i, 13, 12⟩
/-- FLD_TXCFG.WIN. -/
def F.FLD_TXCFG_WIN (i : Nat) : RF := ⟨R.FLD_TXCFG i, 11, 7⟩
/-- FLD_TXCFG.FDF. -/
def F.FLD_TXCFG_FDF (i : Nat) : RF := ⟨R.FLD_TXCFG i, 6, 6⟩
/-- FLD_TXCFG.BRS. -/
def F.FLD_TXCFG_BRS (i : Nat) : RF := ⟨R.FLD_TXCFG i, 5, 5⟩
/-- FLD_TXCFG.XID. -/
def F.FLD_TXCFG_XID (i : Nat) : RF := ⟨R.FLD_TXCFG i, 4, 4⟩
/-- FLD_TXCFG.DLC. -/
def F.FLD_TXCFG_DLC (i : Nat) : RF := ⟨R.FLD_TXCFG i, 3, 0⟩
/-- FLD_TXIDL. -/
def R.FLD_TXIDL (i : Nat) : Nat := 0x61004 + i * 0x20
/-- FLD_TXIDL.ID. -/
def F.FLD_TXIDL_ID (i : Nat) : RF := ⟨R.FLD_TXIDL i, 15, 0⟩
/-- FLD_TXIDH. -/
def R.FLD_TXIDH (i : Nat) : Nat := 0x61008 + i * 0x20
/-- FLD_TXIDH.ID. -/
def F.FLD_TXIDH_ID (i : Nat) : RF := ⟨R.FLD_TXIDH i, 12, 0⟩
/-- FLD_TXOPT. -/
def R.FLD_TXOPT (i : Nat) : Nat := 0x6100C + i * 0x20
/-- FLD_TXOPT.HEN. -/
def F.FLD_TXOPT_HEN (i : Nat) : RF := ⟨R.FLD_TXOPT i, 15, 15⟩
/-- FLD_TXOPT.DIV. -/
def F.FLD_TXOPT_DIV (i : Nat) : RF := ⟨R.FLD_TXOPT i, 14, 11⟩
/-- FLD_TXHVAL. -/
def R.FLD_TXHVAL (i : Nat) : Nat := 0x61010 + i * 0x20
/-- FLD_TXHVAL.HVAL. -/
def F.FLD_TXHVAL_HVAL (i : Nat) : RF := ⟨R.FLD_TXHVAL i, 15, 0⟩
/-- FLD_TXSTAT. -/
def R.FLD_TXSTAT (i : Nat) : Nat := 0x61014 + i * 0x20
/-- FLD_TXSTAT.OUT. -/
def F.FLD_TXSTAT_OUT (i : Nat) : RF := ⟨R.FLD_TXSTAT i, 31, 28⟩
/-- FLD_TXSTAT.PEND. -/
def F.FLD_TXSTAT_PEND (i : Nat) : RF := ⟨R.FLD_TXSTAT i, 27, 27⟩
/-- FLD_TXSTAT.FIELD. -/
def F.FLD_TXSTAT_FIELD (i : Nat) : RF := ⟨R.FLD_TXSTAT i, 26, 24⟩
/-- FLD_TXSTAT.ATT. -/
def F.FLD_TXSTAT_ATT (i : Nat) : RF := ⟨R.FLD_TXSTAT i, 23, 16⟩
/-- FLD_TXSTAT.BITPOS. -/
def F.FLD_TXSTAT_BITPOS (i : Nat) : RF := ⟨R.FLD_TXSTAT i, 8, 0⟩
/-- FLD_TXTWC. -/
def R.FLD_TXTWC (i : Nat) : Nat := 0x61018 + i * 0x20
/-- FLD_TXTWC.TWC. -/
def F.FLD_TXTWC_TWC (i : Nat) : RF := ⟨R.FLD_TXTWC i, 15, 0⟩
/-- FLD_RXCFG. -/
def R.FLD_RXCFG (i : Nat) : Nat := 0x63000 + i * 0x20
/-- FLD_RXCFG.EN. -/
def F.FLD_RXCFG_EN (i : Nat) : RF := ⟨R.FLD_RXCFG i, 15, 15⟩
/-- FLD_RXCFG.BUS. -/
def F.FLD_RXCFG_BUS (i : Nat) : RF := ⟨R.FLD_RXCFG i, 13, 12⟩
/-- FLD_RXCFG.XID. -/
def F.FLD_RXCFG_XID (i : Nat) : RF := ⟨R.FLD_RXCFG i, 11, 11⟩
/-- FLD_RXCFG.FDOK. -/
def F.FLD_RXCFG_FDOK (i : Nat) : RF := ⟨R.FLD_RXCFG i, 10, 10⟩
/-- FLD_RXCFG.CLOK. -/
def F.FLD_RXCFG_CLOK (i : Nat) : RF := ⟨R.FLD_RXCFG i, 9, 9⟩
/-- FLD_RXCFG.STALE. -/
def F.FLD_RXCFG_STALE (i : Nat) : RF := ⟨R.FLD_RXCFG i, 7, 0⟩
/-- FLD_RXIDL. -/
def R.FLD_RXIDL (i : Nat) : Nat := 0x63004 + i * 0x20
/-- FLD_RXIDL.ID. -/
def F.FLD_RXIDL_ID (i : Nat) : RF := ⟨R.FLD_RXIDL i, 15, 0⟩
/-- FLD_RXIDH. -/
def R.FLD_RXIDH (i : Nat) : Nat := 0x63008 + i * 0x20
/-- FLD_RXIDH.ID. -/
def F.FLD_RXIDH_ID (i : Nat) : RF := ⟨R.FLD_RXIDH i, 12, 0⟩
/-- FLD_RXMSKL. -/
def R.FLD_RXMSKL (i : Nat) : Nat := 0x6300C + i * 0x20
/-- FLD_RXMSKL.M. -/
def F.FLD_RXMSKL_M (i : Nat) : RF := ⟨R.FLD_RXMSKL i, 15, 0⟩
/-- FLD_RXMSKH. -/
def R.FLD_RXMSKH (i : Nat) : Nat := 0x63010 + i * 0x20
/-- FLD_RXMSKH.M. -/
def F.FLD_RXMSKH_M (i : Nat) : RF := ⟨R.FLD_RXMSKH i, 12, 0⟩
/-- FLD_RXSTAT. -/
def R.FLD_RXSTAT (i : Nat) : Nat := 0x63014 + i * 0x20
/-- FLD_RXSTAT.STALE. -/
def F.FLD_RXSTAT_STALE (i : Nat) : RF := ⟨R.FLD_RXSTAT i, 31, 31⟩
/-- FLD_RXSTAT.FDF. -/
def F.FLD_RXSTAT_FDF (i : Nat) : RF := ⟨R.FLD_RXSTAT i, 30, 30⟩
/-- FLD_RXSTAT.BRS. -/
def F.FLD_RXSTAT_BRS (i : Nat) : RF := ⟨R.FLD_RXSTAT i, 29, 29⟩
/-- FLD_RXSTAT.ESI. -/
def F.FLD_RXSTAT_ESI (i : Nat) : RF := ⟨R.FLD_RXSTAT i, 28, 28⟩
/-- FLD_RXSTAT.DLC. -/
def F.FLD_RXSTAT_DLC (i : Nat) : RF := ⟨R.FLD_RXSTAT i, 27, 24⟩
/-- FLD_RXSTAT.SEQ. -/
def F.FLD_RXSTAT_SEQ (i : Nat) : RF := ⟨R.FLD_RXSTAT i, 23, 16⟩
/-- FLD_RXRID. -/
def R.FLD_RXRID (i : Nat) : Nat := 0x63018 + i * 0x20
/-- FLD_RXRID.ID. -/
def F.FLD_RXRID_ID (i : Nat) : RF := ⟨R.FLD_RXRID i, 28, 0⟩
/-- FLD_TXDATA. -/
def R.FLD_TXDATA (i j : Nat) : Nat := 0x68000 + i * 0x40 + j * 0x4
/-- FLD_TXDATA.DATA. -/
def F.FLD_TXDATA_DATA (i j : Nat) : RF := ⟨R.FLD_TXDATA i j, 31, 0⟩
/-- FLD_RXDATA. -/
def R.FLD_RXDATA (i j : Nat) : Nat := 0x6C000 + i * 0x40 + j * 0x4
/-- FLD_RXDATA.DATA. -/
def F.FLD_RXDATA_DATA (i j : Nat) : RF := ⟨R.FLD_RXDATA i j, 31, 0⟩
/-- FLD_RXRSV. -/
def R.FLD_RXRSV (i : Nat) : Nat := 0x6301C + i * 0x20
/-- FLD_TXRSV. -/
def R.FLD_TXRSV (i : Nat) : Nat := 0x6101C + i * 0x20

/-! ### RNG: addresses and fields (R555) -/

/-- RNG_CTL. -/
def R.RNG_CTL : Nat := 0x70000
/-- RNG_CTL.RING. -/
def F.RNG_CTL_RING : RF := ⟨R.RNG_CTL, 15, 15⟩
/-- RNG_CTL.CLEVEL. -/
def F.RNG_CTL_CLEVEL : RF := ⟨R.RNG_CTL, 14, 14⟩
/-- RNG_CTL.LOSTHOLD. -/
def F.RNG_CTL_LOSTHOLD : RF := ⟨R.RNG_CTL, 13, 13⟩
/-- RNG_CTL.WRAP. -/
def F.RNG_CTL_WRAP : RF := ⟨R.RNG_CTL, 12, 12⟩
/-- RNG_CTL.EXPECT. -/
def F.RNG_CTL_EXPECT : RF := ⟨R.RNG_CTL, 11, 8⟩
/-- RNG_STAT. -/
def R.RNG_STAT : Nat := 0x70004
/-- RNG_STAT.HEAD. -/
def F.RNG_STAT_HEAD : RF := ⟨R.RNG_STAT, 15, 15⟩
/-- RNG_STAT.FORMED. -/
def F.RNG_STAT_FORMED : RF := ⟨R.RNG_STAT, 14, 14⟩
/-- RNG_STAT.ADDR. -/
def F.RNG_STAT_ADDR : RF := ⟨R.RNG_STAT, 11, 8⟩
/-- RNG_STAT.SELFLOST. -/
def F.RNG_STAT_SELFLOST : RF := ⟨R.RNG_STAT, 7, 7⟩
/-- RNG_STAT.TIMEX. -/
def F.RNG_STAT_TIMEX : RF := ⟨R.RNG_STAT, 6, 6⟩
/-- RNG_STAT.RELAYREJ. -/
def F.RNG_STAT_RELAYREJ : RF := ⟨R.RNG_STAT, 4, 4⟩
/-- RNG_STAT.CRCERR. -/
def F.RNG_STAT_CRCERR : RF := ⟨R.RNG_STAT, 3, 3⟩
/-- RNG_STAT.DISAGREE. -/
def F.RNG_STAT_DISAGREE : RF := ⟨R.RNG_STAT, 2, 2⟩
/-- RNG_STAT.MEMLOST. -/
def F.RNG_STAT_MEMLOST : RF := ⟨R.RNG_STAT, 1, 1⟩
/-- RNG_ENUMT. -/
def R.RNG_ENUMT : Nat := 0x70008
/-- RNG_ENUMT.T. -/
def F.RNG_ENUMT_T : RF := ⟨R.RNG_ENUMT, 15, 0⟩
/-- RNG_LOSTN. -/
def R.RNG_LOSTN : Nat := 0x7000C
/-- RNG_LOSTN.N. -/
def F.RNG_LOSTN_N : RF := ⟨R.RNG_LOSTN, 7, 0⟩
/-- RNG_CYCNT. -/
def R.RNG_CYCNT : Nat := 0x70010
/-- RNG_CYCNT.CYCLE. -/
def F.RNG_CYCNT_CYCLE : RF := ⟨R.RNG_CYCNT, 31, 0⟩
/-- RNG_CHASH. -/
def R.RNG_CHASH : Nat := 0x70014
/-- RNG_CHASH.HASH. -/
def F.RNG_CHASH_HASH : RF := ⟨R.RNG_CHASH, 31, 0⟩
/-- RNG_TOFS. -/
def R.RNG_TOFS : Nat := 0x70018
/-- RNG_TOFS.OFS. -/
def F.RNG_TOFS_OFS : RF := ⟨R.RNG_TOFS, 31, 0⟩
/-- RNG_HOPDLY. -/
def R.RNG_HOPDLY : Nat := 0x7001C
/-- RNG_HOPDLY.UP. -/
def F.RNG_HOPDLY_UP : RF := ⟨R.RNG_HOPDLY, 31, 16⟩
/-- RNG_HOPDLY.DN. -/
def F.RNG_HOPDLY_DN : RF := ⟨R.RNG_HOPDLY, 15, 0⟩
/-- RNG_PRESENT. -/
def R.RNG_PRESENT : Nat := 0x70020
/-- RNG_PRESENT.JOINED. -/
def F.RNG_PRESENT_JOINED : RF := ⟨R.RNG_PRESENT, 15, 8⟩
/-- RNG_PRESENT.PRESENT. -/
def F.RNG_PRESENT_PRESENT : RF := ⟨R.RNG_PRESENT, 7, 0⟩
/-- RNG_TSEQ. -/
def R.RNG_TSEQ : Nat := 0x70024
/-- RNG_TSEQ.TSEQ. -/
def F.RNG_TSEQ_TSEQ : RF := ⟨R.RNG_TSEQ, 15, 0⟩
/-- RNG_ERRCNT. -/
def R.RNG_ERRCNT : Nat := 0x70028
/-- RNG_ERRCNT.CNT. -/
def F.RNG_ERRCNT_CNT : RF := ⟨R.RNG_ERRCNT, 31, 0⟩
/-- RNG_FPER. -/
def R.RNG_FPER : Nat := 0x7002C
/-- RNG_FPER.FPER. -/
def F.RNG_FPER_FPER : RF := ⟨R.RNG_FPER, 15, 0⟩
/-- RNG_MSTAT. -/
def R.RNG_MSTAT (i : Nat) : Nat := 0x70040 + i * 0x4
/-- RNG_MSTAT.STATE. -/
def F.RNG_MSTAT_STATE (i : Nat) : RF := ⟨R.RNG_MSTAT i, 15, 14⟩
/-- RNG_MSTAT.MODE. -/
def F.RNG_MSTAT_MODE (i : Nat) : RF := ⟨R.RNG_MSTAT i, 13, 10⟩
/-- RNG_MSTAT.DISAGREE. -/
def F.RNG_MSTAT_DISAGREE (i : Nat) : RF := ⟨R.RNG_MSTAT i, 3, 0⟩
/-- RNG_MHASH. -/
def R.RNG_MHASH (i : Nat) : Nat := 0x70060 + i * 0x4
/-- RNG_MHASH.HASH. -/
def F.RNG_MHASH_HASH (i : Nat) : RF := ⟨R.RNG_MHASH i, 31, 0⟩
/-- RNG_RVCTL. -/
def R.RNG_RVCTL : Nat := 0x70080
/-- RNG_RVCTL.GO. -/
def F.RNG_RVCTL_GO : RF := ⟨R.RNG_RVCTL, 15, 15⟩
/-- RNG_RVCTL.ADDR. -/
def F.RNG_RVCTL_ADDR : RF := ⟨R.RNG_RVCTL, 14, 12⟩
/-- RNG_RVCTL.LINK. -/
def F.RNG_RVCTL_LINK : RF := ⟨R.RNG_RVCTL, 11, 9⟩
/-- RNG_RVCTL.PATH. -/
def F.RNG_RVCTL_PATH : RF := ⟨R.RNG_RVCTL, 8, 8⟩
/-- RNG_RVCTL.FAILED. -/
def F.RNG_RVCTL_FAILED : RF := ⟨R.RNG_RVCTL, 7, 7⟩
/-- RNG_RVNUML. -/
def R.RNG_RVNUML : Nat := 0x70084
/-- RNG_RVNUML.NUM. -/
def F.RNG_RVNUML_NUM : RF := ⟨R.RNG_RVNUML, 15, 0⟩
/-- RNG_RVNUMH. -/
def R.RNG_RVNUMH : Nat := 0x70088
/-- RNG_RVNUMH.NUM. -/
def F.RNG_RVNUMH_NUM : RF := ⟨R.RNG_RVNUMH, 15, 0⟩
/-- RNG_BOUND. -/
def R.RNG_BOUND (i : Nat) : Nat := 0x700A0 + i * 0x4
/-- RNG_BOUND.BND. -/
def F.RNG_BOUND_BND (i : Nat) : RF := ⟨R.RNG_BOUND i, 15, 0⟩
/-- RNG_CLEADL. -/
def R.RNG_CLEADL (i : Nat) : Nat := 0x71000 + i * 0x10
/-- RNG_CLEADL.LEAD. -/
def F.RNG_CLEADL_LEAD (i : Nat) : RF := ⟨R.RNG_CLEADL i, 31, 0⟩
/-- RNG_CLEADH. -/
def R.RNG_CLEADH (i : Nat) : Nat := 0x71004 + i * 0x10
/-- RNG_CLEADH.FLAGS. -/
def F.RNG_CLEADH_FLAGS (i : Nat) : RF := ⟨R.RNG_CLEADH i, 31, 16⟩
/-- RNG_CLEADH.LEAD. -/
def F.RNG_CLEADH_LEAD (i : Nat) : RF := ⟨R.RNG_CLEADH i, 15, 0⟩
/-- RNG_CSPEED. -/
def R.RNG_CSPEED (i : Nat) : Nat := 0x71008 + i * 0x10
/-- RNG_CSPEED.MMEAN. -/
def F.RNG_CSPEED_MMEAN (i : Nat) : RF := ⟨R.RNG_CSPEED i, 31, 16⟩
/-- RNG_CSPEED.VSET. -/
def F.RNG_CSPEED_VSET (i : Nat) : RF := ⟨R.RNG_CSPEED i, 15, 0⟩
/-- RNG_CMAP. -/
def R.RNG_CMAP (i : Nat) : Nat := 0x7100C + i * 0x10
/-- RNG_CMAP.TMEAN. -/
def F.RNG_CMAP_TMEAN (i : Nat) : RF := ⟨R.RNG_CMAP i, 31, 16⟩
/-- RNG_CMAP.BOUND. -/
def F.RNG_CMAP_BOUND (i : Nat) : RF := ⟨R.RNG_CMAP i, 15, 0⟩

/-! ### TOMO: addresses and fields (R119) -/

/-- TOMO_CTL. -/
def R.TOMO_CTL : Nat := 0x80000
/-- TOMO_CTL.RUN. -/
def F.TOMO_CTL_RUN : RF := ⟨R.TOMO_CTL, 15, 15⟩
/-- TOMO_CTL.BLEN. -/
def F.TOMO_CTL_BLEN : RF := ⟨R.TOMO_CTL, 14, 14⟩
/-- TOMO_CTL.AUTORNG. -/
def F.TOMO_CTL_AUTORNG : RF := ⟨R.TOMO_CTL, 13, 13⟩
/-- TOMO_CTL.SINGLE. -/
def F.TOMO_CTL_SINGLE : RF := ⟨R.TOMO_CTL, 12, 12⟩
/-- TOMO_CTL.EFCNT. -/
def F.TOMO_CTL_EFCNT : RF := ⟨R.TOMO_CTL, 11, 8⟩
/-- TOMO_STAT. -/
def R.TOMO_STAT : Nat := 0x80004
/-- TOMO_STAT.RUNNING. -/
def F.TOMO_STAT_RUNNING : RF := ⟨R.TOMO_STAT, 15, 15⟩
/-- TOMO_STAT.BURST. -/
def F.TOMO_STAT_BURST : RF := ⟨R.TOMO_STAT, 14, 14⟩
/-- TOMO_STAT.PLANOK. -/
def F.TOMO_STAT_PLANOK : RF := ⟨R.TOMO_STAT, 13, 13⟩
/-- TOMO_STAT.GEOMOK. -/
def F.TOMO_STAT_GEOMOK : RF := ⟨R.TOMO_STAT, 12, 12⟩
/-- TOMO_STAT.CALSTALE. -/
def F.TOMO_STAT_CALSTALE : RF := ⟨R.TOMO_STAT, 11, 8⟩
/-- TOMO_STAT.ABANDON. -/
def F.TOMO_STAT_ABANDON : RF := ⟨R.TOMO_STAT, 7, 7⟩
/-- TOMO_STAT.STARTERR. -/
def F.TOMO_STAT_STARTERR : RF := ⟨R.TOMO_STAT, 6, 6⟩
/-- TOMO_STAT.DRVOVL. -/
def F.TOMO_STAT_DRVOVL : RF := ⟨R.TOMO_STAT, 4, 4⟩
/-- TOMO_STAT.EFAULT. -/
def F.TOMO_STAT_EFAULT : RF := ⟨R.TOMO_STAT, 3, 3⟩
/-- TOMO_STAT.OVL. -/
def F.TOMO_STAT_OVL : RF := ⟨R.TOMO_STAT, 2, 2⟩
/-- TOMO_STAT.RECIPX. -/
def F.TOMO_STAT_RECIPX : RF := ⟨R.TOMO_STAT, 1, 1⟩
/-- TOMO_STAT.RNGCHG. -/
def F.TOMO_STAT_RNGCHG : RF := ⟨R.TOMO_STAT, 0, 0⟩
/-- TOMO_FPER. -/
def R.TOMO_FPER : Nat := 0x80008
/-- TOMO_FPER.FPER. -/
def F.TOMO_FPER_FPER : RF := ⟨R.TOMO_FPER, 15, 0⟩
/-- TOMO_FPHASE. -/
def R.TOMO_FPHASE : Nat := 0x8000C
/-- TOMO_FPHASE.FPHASE. -/
def F.TOMO_FPHASE_FPHASE : RF := ⟨R.TOMO_FPHASE, 15, 0⟩
/-- TOMO_FSEQL. -/
def R.TOMO_FSEQL : Nat := 0x80010
/-- TOMO_FSEQL.FSEQ. -/
def F.TOMO_FSEQL_FSEQ : RF := ⟨R.TOMO_FSEQL, 31, 0⟩
/-- TOMO_FSEQH. -/
def R.TOMO_FSEQH : Nat := 0x80014
/-- TOMO_FSEQH.FSEQ. -/
def F.TOMO_FSEQH_FSEQ : RF := ⟨R.TOMO_FSEQH, 31, 0⟩
/-- TOMO_TFREQ. -/
def R.TOMO_TFREQ (i : Nat) : Nat := 0x80018 + i * 0x4
/-- TOMO_TFREQ.FREQ. -/
def F.TOMO_TFREQ_FREQ (i : Nat) : RF := ⟨R.TOMO_TFREQ i, 15, 0⟩
/-- TOMO_TAMP. -/
def R.TOMO_TAMP (i : Nat) : Nat := 0x80028 + i * 0x4
/-- TOMO_TAMP.AMP. -/
def F.TOMO_TAMP_AMP (i : Nat) : RF := ⟨R.TOMO_TAMP i, 15, 0⟩
/-- TOMO_GEOMID. -/
def R.TOMO_GEOMID : Nat := 0x80038
/-- TOMO_GEOMID.GEOMID. -/
def F.TOMO_GEOMID_GEOMID : RF := ⟨R.TOMO_GEOMID, 31, 0⟩
/-- TOMO_NPAIR. -/
def R.TOMO_NPAIR : Nat := 0x8003C
/-- TOMO_NPAIR.NPAIR. -/
def F.TOMO_NPAIR_NPAIR : RF := ⟨R.TOMO_NPAIR, 15, 0⟩
/-- TOMO_RECIPTOL. -/
def R.TOMO_RECIPTOL : Nat := 0x80040
/-- TOMO_RECIPTOL.TOL. -/
def F.TOMO_RECIPTOL_TOL : RF := ⟨R.TOMO_RECIPTOL, 15, 0⟩
/-- TOMO_BANKENL. -/
def R.TOMO_BANKENL : Nat := 0x80044
/-- TOMO_BANKENL.EN. -/
def F.TOMO_BANKENL_EN : RF := ⟨R.TOMO_BANKENL, 15, 0⟩
/-- TOMO_BANKENH. -/
def R.TOMO_BANKENH : Nat := 0x80048
/-- TOMO_BANKENH.EN. -/
def F.TOMO_BANKENH_EN : RF := ⟨R.TOMO_BANKENH, 15, 0⟩
/-- TOMO_OVLCNT. -/
def R.TOMO_OVLCNT : Nat := 0x80050
/-- TOMO_OVLCNT.CNT. -/
def F.TOMO_OVLCNT_CNT : RF := ⟨R.TOMO_OVLCNT, 31, 0⟩
/-- TOMO_DRVOVLCNT. -/
def R.TOMO_DRVOVLCNT : Nat := 0x80054
/-- TOMO_DRVOVLCNT.CNT. -/
def F.TOMO_DRVOVLCNT_CNT : RF := ⟨R.TOMO_DRVOVLCNT, 31, 0⟩
/-- TOMO_RECIPCNT. -/
def R.TOMO_RECIPCNT : Nat := 0x80058
/-- TOMO_RECIPCNT.CNT. -/
def F.TOMO_RECIPCNT_CNT : RF := ⟨R.TOMO_RECIPCNT, 31, 0⟩
/-- TOMO_STARTERRCNT. -/
def R.TOMO_STARTERRCNT : Nat := 0x8005C
/-- TOMO_STARTERRCNT.CNT. -/
def F.TOMO_STARTERRCNT_CNT : RF := ⟨R.TOMO_STARTERRCNT, 31, 0⟩
/-- TOMO_LASTREC. -/
def R.TOMO_LASTREC : Nat := 0x80060
/-- TOMO_LASTREC.SLOT. -/
def F.TOMO_LASTREC_SLOT : RF := ⟨R.TOMO_LASTREC, 5, 0⟩
/-- TOMO_RINGBASE. -/
def R.TOMO_RINGBASE : Nat := 0x80064
/-- TOMO_RINGBASE.BASE. -/
def F.TOMO_RINGBASE_BASE : RF := ⟨R.TOMO_RINGBASE, 31, 0⟩
/-- TOMO_STEP. -/
def R.TOMO_STEP (i : Nat) : Nat := 0x80400 + i * 0x4
/-- TOMO_STEP.DRVEN. -/
def F.TOMO_STEP_DRVEN (i : Nat) : RF := ⟨R.TOMO_STEP i, 15, 15⟩
/-- TOMO_STEP.GMODE. -/
def F.TOMO_STEP_GMODE (i : Nat) : RF := ⟨R.TOMO_STEP i, 14, 14⟩
/-- TOMO_STEP.DRV. -/
def F.TOMO_STEP_DRV (i : Nat) : RF := ⟨R.TOMO_STEP i, 7, 0⟩

/-! ### AFT: addresses and fields (R119) -/

/-- AFT_ID. -/
def R.AFT_ID (i : Nat) : Nat := 0x90000 + i * 0x8000
/-- AFT_ID.DIE. -/
def F.AFT_ID_DIE (i : Nat) : RF := ⟨R.AFT_ID i, 0, 0⟩
/-- AFT_CTL. -/
def R.AFT_CTL (i : Nat) : Nat := 0x90004 + i * 0x8000
/-- AFT_CTL.CALEN. -/
def F.AFT_CTL_CALEN (i : Nat) : RF := ⟨R.AFT_CTL i, 15, 15⟩
/-- AFT_CTL.CALREF. -/
def F.AFT_CTL_CALREF (i : Nat) : RF := ⟨R.AFT_CTL i, 14, 12⟩
/-- AFT_CTL.CALBANK. -/
def F.AFT_CTL_CALBANK (i : Nat) : RF := ⟨R.AFT_CTL i, 11, 8⟩
/-- AFT_STAT. -/
def R.AFT_STAT (i : Nat) : Nat := 0x90008 + i * 0x8000
/-- AFT_STAT.SYNCERR. -/
def F.AFT_STAT_SYNCERR (i : Nat) : RF := ⟨R.AFT_STAT i, 15, 15⟩
/-- AFT_STAT.LINKERR. -/
def F.AFT_STAT_LINKERR (i : Nat) : RF := ⟨R.AFT_STAT i, 14, 14⟩
/-- AFT_TEMP. -/
def R.AFT_TEMP (i : Nat) : Nat := 0x9000C + i * 0x8000
/-- AFT_TEMP.TEMP. -/
def F.AFT_TEMP_TEMP (i : Nat) : RF := ⟨R.AFT_TEMP i, 15, 0⟩
/-- AFT_RTIDX. -/
def R.AFT_RTIDX (i : Nat) : Nat := 0x90010 + i * 0x8000
/-- AFT_RTIDX.STEP. -/
def F.AFT_RTIDX_STEP (i : Nat) : RF := ⟨R.AFT_RTIDX i, 15, 8⟩
/-- AFT_RTIDX.AINC. -/
def F.AFT_RTIDX_AINC (i : Nat) : RF := ⟨R.AFT_RTIDX i, 7, 7⟩
/-- AFT_RTIDX.GROUP. -/
def F.AFT_RTIDX_GROUP (i : Nat) : RF := ⟨R.AFT_RTIDX i, 3, 0⟩
/-- AFT_RTDATA. -/
def R.AFT_RTDATA (i : Nat) : Nat := 0x90014 + i * 0x8000
/-- AFT_RTDATA.CODES. -/
def F.AFT_RTDATA_CODES (i : Nat) : RF := ⟨R.AFT_RTDATA i, 15, 0⟩
/-- AFT_EFAULT. -/
def R.AFT_EFAULT (i j : Nat) : Nat := 0x90020 + i * 0x8000 + j * 0x4
/-- AFT_EFAULT.FAULT. -/
def F.AFT_EFAULT_FAULT (i j : Nat) : RF := ⟨R.AFT_EFAULT i j, 15, 0⟩
/-- AFT_GSTAT. -/
def R.AFT_GSTAT (i : Nat) : Nat := 0x90040 + i * 0x8000
/-- AFT_GSTAT.GCOMP. -/
def F.AFT_GSTAT_GCOMP (i : Nat) : RF := ⟨R.AFT_GSTAT i, 15, 0⟩
/-- AFT_LINKCNT. -/
def R.AFT_LINKCNT (i : Nat) : Nat := 0x90044 + i * 0x8000
/-- AFT_LINKCNT.CNT. -/
def F.AFT_LINKCNT_CNT (i : Nat) : RF := ⟨R.AFT_LINKCNT i, 31, 0⟩

/-! ### AFF: addresses and fields (R329) -/

/-- AFF_CTL. -/
def R.AFF_CTL : Nat := 0xA0000
/-- AFF_CTL.RUN. -/
def F.AFF_CTL_RUN : RF := ⟨R.AFF_CTL, 15, 15⟩
/-- AFF_CTL.SINESWEEP. -/
def F.AFF_CTL_SINESWEEP : RF := ⟨R.AFF_CTL, 14, 14⟩
/-- AFF_CTL.RECOV. -/
def F.AFF_CTL_RECOV : RF := ⟨R.AFF_CTL, 13, 13⟩
/-- AFF_STAT. -/
def R.AFF_STAT : Nat := 0xA0004
/-- AFF_STAT.SINE. -/
def F.AFF_STAT_SINE : RF := ⟨R.AFF_STAT, 15, 15⟩
/-- AFF_STAT.SINEINC. -/
def F.AFF_STAT_SINEINC : RF := ⟨R.AFF_STAT, 5, 5⟩
/-- AFF_STAT.CFGREJ. -/
def F.AFF_STAT_CFGREJ : RF := ⟨R.AFF_STAT, 4, 4⟩
/-- AFF_STAT.NOTCHX. -/
def F.AFF_STAT_NOTCHX : RF := ⟨R.AFF_STAT, 3, 3⟩
/-- AFF_STAT.FAULT. -/
def F.AFF_STAT_FAULT : RF := ⟨R.AFF_STAT, 2, 2⟩
/-- AFF_STAT.SCANDONE. -/
def F.AFF_STAT_SCANDONE : RF := ⟨R.AFF_STAT, 1, 1⟩
/-- AFF_SCANPER. -/
def R.AFF_SCANPER : Nat := 0xA0008
/-- AFF_SCANPER.PER. -/
def F.AFF_SCANPER_PER : RF := ⟨R.AFF_SCANPER, 15, 0⟩
/-- AFF_SCANCNT. -/
def R.AFF_SCANCNT : Nat := 0xA000C
/-- AFF_SCANCNT.CNT. -/
def F.AFF_SCANCNT_CNT : RF := ⟨R.AFF_SCANCNT, 31, 0⟩
/-- AFF_SCANTIME. -/
def R.AFF_SCANTIME : Nat := 0xA0010
/-- AFF_SCANTIME.PEAK. -/
def F.AFF_SCANTIME_PEAK : RF := ⟨R.AFF_SCANTIME, 31, 16⟩
/-- AFF_SCANTIME.LAST. -/
def F.AFF_SCANTIME_LAST : RF := ⟨R.AFF_SCANTIME, 15, 0⟩
/-- AFF_SHORTR. -/
def R.AFF_SHORTR : Nat := 0xA0014
/-- AFF_SHORTR.R. -/
def F.AFF_SHORTR_R : RF := ⟨R.AFF_SHORTR, 15, 0⟩
/-- AFF_LEAKTHR. -/
def R.AFF_LEAKTHR : Nat := 0xA0018
/-- AFF_LEAKTHR.THR. -/
def F.AFF_LEAKTHR_THR : RF := ⟨R.AFF_LEAKTHR, 15, 0⟩
/-- AFF_LEAKMIN. -/
def R.AFF_LEAKMIN : Nat := 0xA001C
/-- AFF_LEAKMIN.MIN. -/
def F.AFF_LEAKMIN_MIN : RF := ⟨R.AFF_LEAKMIN, 15, 0⟩
/-- AFF_RETRY. -/
def R.AFF_RETRY : Nat := 0xA0020
/-- AFF_RETRY.T. -/
def F.AFF_RETRY_T : RF := ⟨R.AFF_RETRY, 15, 0⟩
/-- AFF_FLTMAP. -/
def R.AFF_FLTMAP (i : Nat) : Nat := 0xA0024 + i * 0x4
/-- AFF_FLTMAP.FAULTED. -/
def F.AFF_FLTMAP_FAULTED (i : Nat) : RF := ⟨R.AFF_FLTMAP i, 31, 0⟩
/-- AFF_NOTCHF. -/
def R.AFF_NOTCHF : Nat := 0xA0040
/-- AFF_NOTCHF.F. -/
def F.AFF_NOTCHF_F : RF := ⟨R.AFF_NOTCHF, 15, 0⟩
/-- AFF_TABLOADL. -/
def R.AFF_TABLOADL : Nat := 0xA0048
/-- AFF_TABLOADL.LOADED. -/
def F.AFF_TABLOADL_LOADED : RF := ⟨R.AFF_TABLOADL, 31, 0⟩
/-- AFF_TABLOADH. -/
def R.AFF_TABLOADH : Nat := 0xA004C
/-- AFF_TABLOADH.LOADED. -/
def F.AFF_TABLOADH_LOADED : RF := ⟨R.AFF_TABLOADH, 31, 0⟩
/-- AFF_GRET. -/
def R.AFF_GRET (i : Nat) : Nat := 0xA0100 + i * 0x4
/-- AFF_GRET.VALID. -/
def F.AFF_GRET_VALID (i : Nat) : RF := ⟨R.AFF_GRET i, 31, 31⟩
/-- AFF_GRET.R. -/
def F.AFF_GRET_R (i : Nat) : RF := ⟨R.AFF_GRET i, 15, 0⟩
/-- AFF_ICFG. -/
def R.AFF_ICFG (i : Nat) : Nat := 0xA1000 + i * 0x20
/-- AFF_ICFG.EN. -/
def F.AFF_ICFG_EN (i : Nat) : RF := ⟨R.AFF_ICFG i, 15, 15⟩
/-- AFF_ICFG.WIRE. -/
def F.AFF_ICFG_WIRE (i : Nat) : RF := ⟨R.AFF_ICFG i, 14, 13⟩
/-- AFF_ICFG.EXC. -/
def F.AFF_ICFG_EXC (i : Nat) : RF := ⟨R.AFF_ICFG i, 12, 11⟩
/-- AFF_ICFG.SETTLE. -/
def F.AFF_ICFG_SETTLE (i : Nat) : RF := ⟨R.AFF_ICFG i, 10, 8⟩
/-- AFF_ICFG.LFIX. -/
def F.AFF_ICFG_LFIX (i : Nat) : RF := ⟨R.AFF_ICFG i, 7, 7⟩
/-- AFF_ILIN. -/
def R.AFF_ILIN (i : Nat) : Nat := 0xA1004 + i * 0x20
/-- AFF_ILIN.LEN. -/
def F.AFF_ILIN_LEN (i : Nat) : RF := ⟨R.AFF_ILIN i, 15, 15⟩
/-- AFF_ILIN.TABLE. -/
def F.AFF_ILIN_TABLE (i : Nat) : RF := ⟨R.AFF_ILIN i, 13, 8⟩
/-- AFF_ILIN.PARTNER. -/
def F.AFF_ILIN_PARTNER (i : Nat) : RF := ⟨R.AFF_ILIN i, 7, 0⟩
/-- AFF_ILEAD. -/
def R.AFF_ILEAD (i : Nat) : Nat := 0xA1008 + i * 0x20
/-- AFF_ILEAD.R. -/
def F.AFF_ILEAD_R (i : Nat) : RF := ⟨R.AFF_ILEAD i, 15, 0⟩
/-- AFF_ILEADK. -/
def R.AFF_ILEADK (i : Nat) : Nat := 0xA100C + i * 0x20
/-- AFF_ILEADK.K. -/
def F.AFF_ILEADK_K (i : Nat) : RF := ⟨R.AFF_ILEADK i, 15, 0⟩
/-- AFF_IRES. -/
def R.AFF_IRES (i : Nat) : Nat := 0xA1010 + i * 0x20
/-- AFF_IRES.FAULT. -/
def F.AFF_IRES_FAULT (i : Nat) : RF := ⟨R.AFF_IRES i, 31, 24⟩
/-- AFF_IRES.SINE. -/
def F.AFF_IRES_SINE (i : Nat) : RF := ⟨R.AFF_IRES i, 23, 23⟩
/-- AFF_IRES.NOTCHX. -/
def F.AFF_IRES_NOTCHX (i : Nat) : RF := ⟨R.AFF_IRES i, 22, 22⟩
/-- AFF_IRES.CLAMP. -/
def F.AFF_IRES_CLAMP (i : Nat) : RF := ⟨R.AFF_IRES i, 21, 21⟩
/-- AFF_IRES.LEADX. -/
def F.AFF_IRES_LEADX (i : Nat) : RF := ⟨R.AFF_IRES i, 20, 20⟩
/-- AFF_IRES.SEQ. -/
def F.AFF_IRES_SEQ (i : Nat) : RF := ⟨R.AFF_IRES i, 19, 16⟩
/-- AFF_IRES.RES. -/
def F.AFF_IRES_RES (i : Nat) : RF := ⟨R.AFF_IRES i, 15, 0⟩
/-- AFF_IINS. -/
def R.AFF_IINS (i : Nat) : Nat := 0xA1014 + i * 0x20
/-- AFF_IINS.R. -/
def F.AFF_IINS_R (i : Nat) : RF := ⟨R.AFF_IINS i, 15, 0⟩
/-- AFF_IRAW. -/
def R.AFF_IRAW (i : Nat) : Nat := 0xA1018 + i * 0x20
/-- AFF_IRAW.RAW. -/
def F.AFF_IRAW_RAW (i : Nat) : RF := ⟨R.AFF_IRAW i, 31, 0⟩
/-- AFF_IRSV. -/
def R.AFF_IRSV (i : Nat) : Nat := 0xA101C + i * 0x20

/-! ### REC: addresses and fields (R169) -/

/-- REC_CTL. -/
def R.REC_CTL : Nat := 0xB0000
/-- REC_CTL.RUN. -/
def F.REC_CTL_RUN : RF := ⟨R.REC_CTL, 15, 15⟩
/-- REC_CTL.WARM. -/
def F.REC_CTL_WARM : RF := ⟨R.REC_CTL, 14, 14⟩
/-- REC_CTL.OVRLIM. -/
def F.REC_CTL_OVRLIM : RF := ⟨R.REC_CTL, 7, 5⟩
/-- REC_CTL.NITER. -/
def F.REC_CTL_NITER : RF := ⟨R.REC_CTL, 4, 0⟩
/-- REC_STAT. -/
def R.REC_STAT : Nat := 0xB0004
/-- REC_STAT.BUSY. -/
def F.REC_STAT_BUSY : RF := ⟨R.REC_STAT, 15, 15⟩
/-- REC_STAT.MATOK. -/
def F.REC_STAT_MATOK : RF := ⟨R.REC_STAT, 14, 14⟩
/-- REC_STAT.REFOK. -/
def F.REC_STAT_REFOK : RF := ⟨R.REC_STAT, 13, 13⟩
/-- REC_STAT.BUDGETX. -/
def F.REC_STAT_BUDGETX : RF := ⟨R.REC_STAT, 12, 12⟩
/-- REC_STAT.DRIFTX. -/
def F.REC_STAT_DRIFTX : RF := ⟨R.REC_STAT, 7, 7⟩
/-- REC_STAT.BASEX. -/
def F.REC_STAT_BASEX : RF := ⟨R.REC_STAT, 6, 6⟩
/-- REC_STAT.SAT. -/
def F.REC_STAT_SAT : RF := ⟨R.REC_STAT, 5, 5⟩
/-- REC_STAT.SKIP. -/
def F.REC_STAT_SKIP : RF := ⟨R.REC_STAT, 4, 4⟩
/-- REC_STAT.OVERRUN. -/
def F.REC_STAT_OVERRUN : RF := ⟨R.REC_STAT, 3, 3⟩
/-- REC_STAT.ANCHOR. -/
def F.REC_STAT_ANCHOR : RF := ⟨R.REC_STAT, 2, 2⟩
/-- REC_STAT.PUB. -/
def F.REC_STAT_PUB : RF := ⟨R.REC_STAT, 1, 1⟩
/-- REC_NITEREFF. -/
def R.REC_NITEREFF : Nat := 0xB0008
/-- REC_NITEREFF.THMCAP. -/
def F.REC_NITEREFF_THMCAP : RF := ⟨R.REC_NITEREFF, 12, 8⟩
/-- REC_NITEREFF.NITEREFF. -/
def F.REC_NITEREFF_NITEREFF : RF := ⟨R.REC_NITEREFF, 4, 0⟩
/-- REC_ALPHA. -/
def R.REC_ALPHA : Nat := 0xB000C
/-- REC_ALPHA.ALPHA. -/
def F.REC_ALPHA_ALPHA : RF := ⟨R.REC_ALPHA, 15, 0⟩
/-- REC_LAMBDA. -/
def R.REC_LAMBDA : Nat := 0xB0010
/-- REC_LAMBDA.LAMBDA. -/
def F.REC_LAMBDA_LAMBDA : RF := ⟨R.REC_LAMBDA, 15, 0⟩
/-- REC_WEIGHT. -/
def R.REC_WEIGHT : Nat := 0xB0014
/-- REC_WEIGHT.WSINGLE. -/
def F.REC_WEIGHT_WSINGLE : RF := ⟨R.REC_WEIGHT, 15, 8⟩
/-- REC_WEIGHT.WRECIP. -/
def F.REC_WEIGHT_WRECIP : RF := ⟨R.REC_WEIGHT, 7, 0⟩
/-- REC_MISSMAX. -/
def R.REC_MISSMAX : Nat := 0xB0018
/-- REC_MISSMAX.MAX. -/
def F.REC_MISSMAX_MAX : RF := ⟨R.REC_MISSMAX, 15, 0⟩
/-- REC_SPANMIN. -/
def R.REC_SPANMIN : Nat := 0xB001C
/-- REC_SPANMIN.SPAN. -/
def F.REC_SPANMIN_SPAN : RF := ⟨R.REC_SPANMIN, 15, 0⟩
/-- REC_BLTC. -/
def R.REC_BLTC : Nat := 0xB0020
/-- REC_BLTC.TC. -/
def F.REC_BLTC_TC : RF := ⟨R.REC_BLTC, 15, 0⟩
/-- REC_REFAVG. -/
def R.REC_REFAVG : Nat := 0xB0024
/-- REC_REFAVG.AVG. -/
def F.REC_REFAVG_AVG : RF := ⟨R.REC_REFAVG, 15, 0⟩
/-- REC_MSEQL. -/
def R.REC_MSEQL : Nat := 0xB0028
/-- REC_MSEQL.MSEQ. -/
def F.REC_MSEQL_MSEQ : RF := ⟨R.REC_MSEQL, 31, 0⟩
/-- REC_MSEQH. -/
def R.REC_MSEQH : Nat := 0xB002C
/-- REC_MSEQH.MSEQ. -/
def F.REC_MSEQH_MSEQ : RF := ⟨R.REC_MSEQH, 31, 0⟩
/-- REC_LASTMAP. -/
def R.REC_LASTMAP : Nat := 0xB0030
/-- REC_LASTMAP.SLOT. -/
def F.REC_LASTMAP_SLOT : RF := ⟨R.REC_LASTMAP, 3, 0⟩
/-- REC_MAPBASE. -/
def R.REC_MAPBASE : Nat := 0xB0034
/-- REC_MAPBASE.BASE. -/
def F.REC_MAPBASE_BASE : RF := ⟨R.REC_MAPBASE, 31, 0⟩
/-- REC_JBASE. -/
def R.REC_JBASE : Nat := 0xB0038
/-- REC_JBASE.BASE. -/
def F.REC_JBASE_BASE : RF := ⟨R.REC_JBASE, 31, 0⟩
/-- REC_MATID. -/
def R.REC_MATID : Nat := 0xB003C
/-- REC_MATID.MATID. -/
def F.REC_MATID_MATID : RF := ⟨R.REC_MATID, 31, 0⟩
/-- REC_REFID. -/
def R.REC_REFID : Nat := 0xB0040
/-- REC_REFID.REFID. -/
def F.REC_REFID_REFID : RF := ⟨R.REC_REFID, 31, 0⟩
/-- REC_NVOX. -/
def R.REC_NVOX : Nat := 0xB0044
/-- REC_NVOX.N. -/
def F.REC_NVOX_N : RF := ⟨R.REC_NVOX, 16, 0⟩
/-- REC_MATERR. -/
def R.REC_MATERR : Nat := 0xB0048
/-- REC_MATERR.CAUSE. -/
def F.REC_MATERR_CAUSE : RF := ⟨R.REC_MATERR, 7, 0⟩
/-- REC_OVRCNT. -/
def R.REC_OVRCNT : Nat := 0xB004C
/-- REC_OVRCNT.CNT. -/
def F.REC_OVRCNT_CNT : RF := ⟨R.REC_OVRCNT, 31, 0⟩
/-- REC_SKIPCNT. -/
def R.REC_SKIPCNT : Nat := 0xB0050
/-- REC_SKIPCNT.CNT. -/
def F.REC_SKIPCNT_CNT : RF := ⟨R.REC_SKIPCNT, 31, 0⟩
/-- REC_SATCNT. -/
def R.REC_SATCNT : Nat := 0xB0054
/-- REC_SATCNT.CNT. -/
def F.REC_SATCNT_CNT : RF := ⟨R.REC_SATCNT, 31, 0⟩
/-- REC_FTIME. -/
def R.REC_FTIME : Nat := 0xB0058
/-- REC_FTIME.PEAK. -/
def F.REC_FTIME_PEAK : RF := ⟨R.REC_FTIME, 31, 16⟩
/-- REC_FTIME.LAST. -/
def F.REC_FTIME_LAST : RF := ⟨R.REC_FTIME, 15, 0⟩
/-- REC_ITIME. -/
def R.REC_ITIME : Nat := 0xB005C
/-- REC_ITIME.LAST. -/
def F.REC_ITIME_LAST : RF := ⟨R.REC_ITIME, 15, 0⟩
/-- REC_ANCHU. -/
def R.REC_ANCHU : Nat := 0xB0060
/-- REC_ANCHU.U. -/
def F.REC_ANCHU_U : RF := ⟨R.REC_ANCHU, 15, 0⟩
/-- REC_DRIFTR. -/
def R.REC_DRIFTR : Nat := 0xB0064
/-- REC_DRIFTR.R. -/
def F.REC_DRIFTR_R : RF := ⟨R.REC_DRIFTR, 15, 0⟩
/-- REC_DRIFTT. -/
def R.REC_DRIFTT : Nat := 0xB0068
/-- REC_DRIFTT.T. -/
def F.REC_DRIFTT_T : RF := ⟨R.REC_DRIFTT, 15, 0⟩
/-- REC_DRIFTB. -/
def R.REC_DRIFTB : Nat := 0xB006C
/-- REC_DRIFTB.B. -/
def F.REC_DRIFTB_B : RF := ⟨R.REC_DRIFTB, 15, 0⟩
/-- REC_DRIFTMAX. -/
def R.REC_DRIFTMAX : Nat := 0xB0070
/-- REC_DRIFTMAX.MAX. -/
def F.REC_DRIFTMAX_MAX : RF := ⟨R.REC_DRIFTMAX, 15, 0⟩
/-- REC_DRIFTPU. -/
def R.REC_DRIFTPU : Nat := 0xB0074
/-- REC_DRIFTPU.PU. -/
def F.REC_DRIFTPU_PU : RF := ⟨R.REC_DRIFTPU, 15, 0⟩
/-- REC_ANCHGAIN. -/
def R.REC_ANCHGAIN : Nat := 0xB0078
/-- REC_ANCHGAIN.GAIN. -/
def F.REC_ANCHGAIN_GAIN : RF := ⟨R.REC_ANCHGAIN, 7, 0⟩
/-- REC_ANCHMAX. -/
def R.REC_ANCHMAX : Nat := 0xB007C
/-- REC_ANCHMAX.MAX. -/
def F.REC_ANCHMAX_MAX : RF := ⟨R.REC_ANCHMAX, 15, 0⟩
/-- REC_BASERES. -/
def R.REC_BASERES : Nat := 0xB0080
/-- REC_BASERES.RES. -/
def F.REC_BASERES_RES : RF := ⟨R.REC_BASERES, 15, 0⟩
/-- REC_MTLOADL. -/
def R.REC_MTLOADL : Nat := 0xB0088
/-- REC_MTLOADL.LOADED. -/
def F.REC_MTLOADL_LOADED : RF := ⟨R.REC_MTLOADL, 31, 0⟩
/-- REC_MTLOADH. -/
def R.REC_MTLOADH : Nat := 0xB008C
/-- REC_MTLOADH.LOADED. -/
def F.REC_MTLOADH_LOADED : RF := ⟨R.REC_MTLOADH, 31, 0⟩
/-- REC_LCROP. -/
def R.REC_LCROP (i : Nat) : Nat := 0xB0100 + i * 0x10
/-- REC_LCROP.TABLE. -/
def F.REC_LCROP_TABLE (i : Nat) : RF := ⟨R.REC_LCROP i, 5, 0⟩
/-- REC_LOFFS. -/
def R.REC_LOFFS (i : Nat) : Nat := 0xB0104 + i * 0x10
/-- REC_LOFFS.OFFS. -/
def F.REC_LOFFS_OFFS (i : Nat) : RF := ⟨R.REC_LOFFS i, 15, 0⟩
/-- REC_LBOUND. -/
def R.REC_LBOUND (i : Nat) : Nat := 0xB0108 + i * 0x10
/-- REC_LBOUND.BOUND. -/
def F.REC_LBOUND_BOUND (i : Nat) : RF := ⟨R.REC_LBOUND i, 15, 0⟩
/-- REC_LSTAT. -/
def R.REC_LSTAT (i : Nat) : Nat := 0xB010C + i * 0x10
/-- REC_LSTAT.UNANCH. -/
def F.REC_LSTAT_UNANCH (i : Nat) : RF := ⟨R.REC_LSTAT i, 15, 15⟩
/-- REC_LSTAT.DRIFT. -/
def F.REC_LSTAT_DRIFT (i : Nat) : RF := ⟨R.REC_LSTAT i, 14, 14⟩
/-- REC_LSTAT.DRIFTX. -/
def F.REC_LSTAT_DRIFTX (i : Nat) : RF := ⟨R.REC_LSTAT i, 0, 0⟩

/-! ### PCL: addresses and fields (R203) -/

/-- PCL_CTL. -/
def R.PCL_CTL : Nat := 0xC0000
/-- PCL_CTL.RUN. -/
def F.PCL_CTL_RUN : RF := ⟨R.PCL_CTL, 15, 15⟩
/-- PCL_CTL.PLAN. -/
def F.PCL_CTL_PLAN : RF := ⟨R.PCL_CTL, 14, 14⟩
/-- PCL_CTL.UNANCHUSE. -/
def F.PCL_CTL_UNANCHUSE : RF := ⟨R.PCL_CTL, 13, 13⟩
/-- PCL_CTL.DRIFTUSE. -/
def F.PCL_CTL_DRIFTUSE : RF := ⟨R.PCL_CTL, 12, 12⟩
/-- PCL_CTL.KLEARN. -/
def F.PCL_CTL_KLEARN : RF := ⟨R.PCL_CTL, 11, 11⟩
/-- PCL_CTL.PCYC. -/
def F.PCL_CTL_PCYC : RF := ⟨R.PCL_CTL, 7, 0⟩
/-- PCL_STAT. -/
def R.PCL_STAT : Nat := 0xC0004
/-- PCL_STAT.FULL. -/
def F.PCL_STAT_FULL : RF := ⟨R.PCL_STAT, 15, 15⟩
/-- PCL_STAT.PLANNING. -/
def F.PCL_STAT_PLANNING : RF := ⟨R.PCL_STAT, 14, 14⟩
/-- PCL_STAT.ARCHERR. -/
def F.PCL_STAT_ARCHERR : RF := ⟨R.PCL_STAT, 6, 6⟩
/-- PCL_STAT.RESTORED. -/
def F.PCL_STAT_RESTORED : RF := ⟨R.PCL_STAT, 5, 5⟩
/-- PCL_STAT.MERGE. -/
def F.PCL_STAT_MERGE : RF := ⟨R.PCL_STAT, 4, 4⟩
/-- PCL_STAT.GAP. -/
def F.PCL_STAT_GAP : RF := ⟨R.PCL_STAT, 3, 3⟩
/-- PCL_STAT.DISP. -/
def F.PCL_STAT_DISP : RF := ⟨R.PCL_STAT, 2, 2⟩
/-- PCL_STAT.LOCKWAIT. -/
def F.PCL_STAT_LOCKWAIT : RF := ⟨R.PCL_STAT, 1, 1⟩
/-- PCL_STAT.BUSYSENT. -/
def F.PCL_STAT_BUSYSENT : RF := ⟨R.PCL_STAT, 0, 0⟩
/-- PCL_LIVE. -/
def R.PCL_LIVE : Nat := 0xC0008
/-- PCL_LIVE.LIVE. -/
def F.PCL_LIVE_LIVE : RF := ⟨R.PCL_LIVE, 16, 0⟩
/-- PCL_LOTS. -/
def R.PCL_LOTS : Nat := 0xC000C
/-- PCL_LOTS.LOTS. -/
def F.PCL_LOTS_LOTS : RF := ⟨R.PCL_LOTS, 12, 0⟩
/-- PCL_INTERVAL. -/
def R.PCL_INTERVAL : Nat := 0xC0010
/-- PCL_INTERVAL.INT. -/
def F.PCL_INTERVAL_INT : RF := ⟨R.PCL_INTERVAL, 15, 0⟩
/-- PCL_LEASE. -/
def R.PCL_LEASE : Nat := 0xC0014
/-- PCL_LEASE.LEASE. -/
def F.PCL_LEASE_LEASE : RF := ⟨R.PCL_LEASE, 15, 0⟩
/-- PCL_MAPAGE. -/
def R.PCL_MAPAGE : Nat := 0xC0018
/-- PCL_MAPAGE.AGE. -/
def F.PCL_MAPAGE_AGE : RF := ⟨R.PCL_MAPAGE, 15, 0⟩
/-- PCL_KGAIN. -/
def R.PCL_KGAIN : Nat := 0xC001C
/-- PCL_KGAIN.GAIN. -/
def F.PCL_KGAIN_GAIN : RF := ⟨R.PCL_KGAIN, 7, 0⟩
/-- PCL_VMEAN. -/
def R.PCL_VMEAN : Nat := 0xC0020
/-- PCL_VMEAN.VMEAN. -/
def F.PCL_VMEAN_VMEAN : RF := ⟨R.PCL_VMEAN, 15, 0⟩
/-- PCL_VSLEW. -/
def R.PCL_VSLEW : Nat := 0xC0024
/-- PCL_VSLEW.SLEW. -/
def F.PCL_VSLEW_SLEW : RF := ⟨R.PCL_VSLEW, 15, 0⟩
/-- PCL_CKPT. -/
def R.PCL_CKPT : Nat := 0xC0028
/-- PCL_CKPT.CKPT. -/
def F.PCL_CKPT_CKPT : RF := ⟨R.PCL_CKPT, 15, 0⟩
/-- PCL_BUSYCNT. -/
def R.PCL_BUSYCNT : Nat := 0xC002C
/-- PCL_BUSYCNT.CNT. -/
def F.PCL_BUSYCNT_CNT : RF := ⟨R.PCL_BUSYCNT, 31, 0⟩
/-- PCL_GAPCNT. -/
def R.PCL_GAPCNT : Nat := 0xC0030
/-- PCL_GAPCNT.CNT. -/
def F.PCL_GAPCNT_CNT : RF := ⟨R.PCL_GAPCNT, 31, 0⟩
/-- PCL_FULLCNT. -/
def R.PCL_FULLCNT : Nat := 0xC0034
/-- PCL_FULLCNT.CNT. -/
def F.PCL_FULLCNT_CNT : RF := ⟨R.PCL_FULLCNT, 31, 0⟩
/-- PCL_WAITMAX. -/
def R.PCL_WAITMAX : Nat := 0xC0038
/-- PCL_WAITMAX.PEAK. -/
def F.PCL_WAITMAX_PEAK : RF := ⟨R.PCL_WAITMAX, 15, 0⟩
/-- PCL_ARCHHEAD. -/
def R.PCL_ARCHHEAD : Nat := 0xC003C
/-- PCL_ARCHHEAD.HEAD. -/
def F.PCL_ARCHHEAD_HEAD : RF := ⟨R.PCL_ARCHHEAD, 31, 0⟩
/-- PCL_ARCHCNT. -/
def R.PCL_ARCHCNT : Nat := 0xC0040
/-- PCL_ARCHCNT.CNT. -/
def F.PCL_ARCHCNT_CNT : RF := ⟨R.PCL_ARCHCNT, 31, 0⟩
/-- PCL_PIDNEXT. -/
def R.PCL_PIDNEXT : Nat := 0xC0044
/-- PCL_PIDNEXT.PID. -/
def F.PCL_PIDNEXT_PID : RF := ⟨R.PCL_PIDNEXT, 31, 0⟩
/-- PCL_TBLBASE. -/
def R.PCL_TBLBASE : Nat := 0xC0048
/-- PCL_TBLBASE.BASE. -/
def F.PCL_TBLBASE_BASE : RF := ⟨R.PCL_TBLBASE, 31, 0⟩
/-- PCL_LOTBASE. -/
def R.PCL_LOTBASE : Nat := 0xC004C
/-- PCL_LOTBASE.BASE. -/
def F.PCL_LOTBASE_BASE : RF := ⟨R.PCL_LOTBASE, 31, 0⟩
/-- PCL_LLEN. -/
def R.PCL_LLEN (i : Nat) : Nat := 0xC0100 + i * 0x40
/-- PCL_LLEN.LLEN. -/
def F.PCL_LLEN_LLEN (i : Nat) : RF := ⟨R.PCL_LLEN i, 15, 0⟩
/-- PCL_LLOT. -/
def R.PCL_LLOT (i : Nat) : Nat := 0xC0104 + i * 0x40
/-- PCL_LLOT.LOT. -/
def F.PCL_LLOT_LOT (i : Nat) : RF := ⟨R.PCL_LLOT i, 15, 0⟩
/-- PCL_LSLOT. -/
def R.PCL_LSLOT (i : Nat) : Nat := 0xC0108 + i * 0x40
/-- PCL_LSLOT.PLANE. -/
def F.PCL_LSLOT_PLANE (i : Nat) : RF := ⟨R.PCL_LSLOT i, 15, 15⟩
/-- PCL_LSLOT.SLOT. -/
def F.PCL_LSLOT_SLOT (i : Nat) : RF := ⟨R.PCL_LSLOT i, 6, 0⟩
/-- PCL_TARGET. -/
def R.PCL_TARGET (i : Nat) : Nat := 0xC010C + i * 0x40
/-- PCL_TARGET.TGT. -/
def F.PCL_TARGET_TGT (i : Nat) : RF := ⟨R.PCL_TARGET i, 15, 0⟩
/-- PCL_MEQ. -/
def R.PCL_MEQ (i : Nat) : Nat := 0xC0110 + i * 0x40
/-- PCL_MEQ.MEQ. -/
def F.PCL_MEQ_MEQ (i : Nat) : RF := ⟨R.PCL_MEQ i, 15, 0⟩
/-- PCL_KDRY. -/
def R.PCL_KDRY (i : Nat) : Nat := 0xC0114 + i * 0x40
/-- PCL_KDRY.K. -/
def F.PCL_KDRY_K (i : Nat) : RF := ⟨R.PCL_KDRY i, 15, 0⟩
/-- PCL_VMIN. -/
def R.PCL_VMIN (i : Nat) : Nat := 0xC0118 + i * 0x40
/-- PCL_VMIN.VMIN. -/
def F.PCL_VMIN_VMIN (i : Nat) : RF := ⟨R.PCL_VMIN i, 15, 0⟩
/-- PCL_VMAX. -/
def R.PCL_VMAX (i : Nat) : Nat := 0xC011C + i * 0x40
/-- PCL_VMAX.VMAX. -/
def F.PCL_VMAX_VMAX (i : Nat) : RF := ⟨R.PCL_VMAX i, 15, 0⟩
/-- PCL_VSET. -/
def R.PCL_VSET (i : Nat) : Nat := 0xC0120 + i * 0x40
/-- PCL_VSET.VSET. -/
def F.PCL_VSET_VSET (i : Nat) : RF := ⟨R.PCL_VSET i, 15, 0⟩
/-- PCL_LSTAT. -/
def R.PCL_LSTAT (i : Nat) : Nat := 0xC0124 + i * 0x40
/-- PCL_LSTAT.HELD. -/
def F.PCL_LSTAT_HELD (i : Nat) : RF := ⟨R.PCL_LSTAT i, 15, 15⟩
/-- PCL_LSTAT.NOPLAN. -/
def F.PCL_LSTAT_NOPLAN (i : Nat) : RF := ⟨R.PCL_LSTAT i, 6, 6⟩
/-- PCL_LSTAT.NOCAL. -/
def F.PCL_LSTAT_NOCAL (i : Nat) : RF := ⟨R.PCL_LSTAT i, 5, 5⟩
/-- PCL_LSTAT.MOTION. -/
def F.PCL_LSTAT_MOTION (i : Nat) : RF := ⟨R.PCL_LSTAT i, 4, 4⟩
/-- PCL_LSTAT.NOMAP. -/
def F.PCL_LSTAT_NOMAP (i : Nat) : RF := ⟨R.PCL_LSTAT i, 3, 3⟩
/-- PCL_LSTAT.UNANCH. -/
def F.PCL_LSTAT_UNANCH (i : Nat) : RF := ⟨R.PCL_LSTAT i, 2, 2⟩
/-- PCL_LSTAT.DRIFT. -/
def F.PCL_LSTAT_DRIFT (i : Nat) : RF := ⟨R.PCL_LSTAT i, 1, 1⟩
/-- PCL_LSTAT.NOK. -/
def F.PCL_LSTAT_NOK (i : Nat) : RF := ⟨R.PCL_LSTAT i, 0, 0⟩
/-- PCL_LEADPID. -/
def R.PCL_LEADPID (i : Nat) : Nat := 0xC0128 + i * 0x40
/-- PCL_LEADPID.PID. -/
def F.PCL_LEADPID_PID (i : Nat) : RF := ⟨R.PCL_LEADPID i, 31, 0⟩
/-- PCL_LPRED. -/
def R.PCL_LPRED (i : Nat) : Nat := 0xC012C + i * 0x40
/-- PCL_LPRED.PRED. -/
def F.PCL_LPRED_PRED (i : Nat) : RF := ⟨R.PCL_LPRED i, 15, 0⟩
/-- PCL_LNLIVE. -/
def R.PCL_LNLIVE (i : Nat) : Nat := 0xC0130 + i * 0x40
/-- PCL_LNLIVE.NLIVE. -/
def F.PCL_LNLIVE_NLIVE (i : Nat) : RF := ⟨R.PCL_LNLIVE i, 15, 0⟩

/-! ### LOOP: addresses and fields (R246) -/

/-- LOOP_ECTL. -/
def R.LOOP_ECTL : Nat := 0xD0000
/-- LOOP_ECTL.RUN. -/
def F.LOOP_ECTL_RUN : RF := ⟨R.LOOP_ECTL, 15, 15⟩
/-- LOOP_ESTAT. -/
def R.LOOP_ESTAT : Nat := 0xD0004
/-- LOOP_ESTAT.BUSY. -/
def F.LOOP_ESTAT_BUSY : RF := ⟨R.LOOP_ESTAT, 15, 15⟩
/-- LOOP_ESTAT.TRCDONE. -/
def F.LOOP_ESTAT_TRCDONE : RF := ⟨R.LOOP_ESTAT, 3, 3⟩
/-- LOOP_ESTAT.PLAUS. -/
def F.LOOP_ESTAT_PLAUS : RF := ⟨R.LOOP_ESTAT, 2, 2⟩
/-- LOOP_ESTAT.SRCBAD. -/
def F.LOOP_ESTAT_SRCBAD : RF := ⟨R.LOOP_ESTAT, 1, 1⟩
/-- LOOP_ESTAT.OVERRUN. -/
def F.LOOP_ESTAT_OVERRUN : RF := ⟨R.LOOP_ESTAT, 0, 0⟩
/-- LOOP_LOAD. -/
def R.LOOP_LOAD : Nat := 0xD0008
/-- LOOP_LOAD.PEAK. -/
def F.LOOP_LOAD_PEAK : RF := ⟨R.LOOP_LOAD, 31, 16⟩
/-- LOOP_LOAD.LAST. -/
def F.LOOP_LOAD_LAST : RF := ⟨R.LOOP_LOAD, 15, 0⟩
/-- LOOP_OVRCNT. -/
def R.LOOP_OVRCNT : Nat := 0xD000C
/-- LOOP_OVRCNT.CNT. -/
def F.LOOP_OVRCNT_CNT : RF := ⟨R.LOOP_OVRCNT, 31, 0⟩
/-- LOOP_FTIDX. -/
def R.LOOP_FTIDX : Nat := 0xD0010
/-- LOOP_FTIDX.AINC. -/
def F.LOOP_FTIDX_AINC : RF := ⟨R.LOOP_FTIDX, 15, 15⟩
/-- LOOP_FTIDX.TABLE. -/
def F.LOOP_FTIDX_TABLE : RF := ⟨R.LOOP_FTIDX, 13, 10⟩
/-- LOOP_FTIDX.ENTRY. -/
def F.LOOP_FTIDX_ENTRY : RF := ⟨R.LOOP_FTIDX, 9, 0⟩
/-- LOOP_FTDATA. -/
def R.LOOP_FTDATA : Nat := 0xD0014
/-- LOOP_FTDATA.VALUE. -/
def F.LOOP_FTDATA_VALUE : RF := ⟨R.LOOP_FTDATA, 15, 0⟩
/-- LOOP_TRCBASE. -/
def R.LOOP_TRCBASE : Nat := 0xD0018
/-- LOOP_TRCBASE.BASE. -/
def F.LOOP_TRCBASE_BASE : RF := ⟨R.LOOP_TRCBASE, 31, 0⟩
/-- LOOP_PGCTL. -/
def R.LOOP_PGCTL (i : Nat) : Nat := 0xD0100 + i * 0x20
/-- LOOP_PGCTL.EN. -/
def F.LOOP_PGCTL_EN (i : Nat) : RF := ⟨R.LOOP_PGCTL i, 15, 15⟩
/-- LOOP_PGCTL.TRIG. -/
def F.LOOP_PGCTL_TRIG (i : Nat) : RF := ⟨R.LOOP_PGCTL i, 14, 14⟩
/-- LOOP_PGCTL.LANE. -/
def F.LOOP_PGCTL_LANE (i : Nat) : RF := ⟨R.LOOP_PGCTL i, 11, 8⟩
/-- LOOP_PGCTL.OPHASE. -/
def F.LOOP_PGCTL_OPHASE (i : Nat) : RF := ⟨R.LOOP_PGCTL i, 7, 0⟩
/-- LOOP_PGPER. -/
def R.LOOP_PGPER (i : Nat) : Nat := 0xD0104 + i * 0x20
/-- LOOP_PGPER.UNIT. -/
def F.LOOP_PGPER_UNIT (i : Nat) : RF := ⟨R.LOOP_PGPER i, 15, 14⟩
/-- LOOP_PGPER.COUNT. -/
def F.LOOP_PGPER_COUNT (i : Nat) : RF := ⟨R.LOOP_PGPER i, 13, 0⟩
/-- LOOP_PGPH. -/
def R.LOOP_PGPH (i : Nat) : Nat := 0xD0108 + i * 0x20
/-- LOOP_PGPH.PHASE. -/
def F.LOOP_PGPH_PHASE (i : Nat) : RF := ⟨R.LOOP_PGPH i, 15, 0⟩
/-- LOOP_PGODLY. -/
def R.LOOP_PGODLY (i : Nat) : Nat := 0xD010C + i * 0x20
/-- LOOP_PGODLY.ODLY. -/
def F.LOOP_PGODLY_ODLY (i : Nat) : RF := ⟨R.LOOP_PGODLY i, 15, 0⟩
/-- LOOP_PGSTAT. -/
def R.LOOP_PGSTAT (i : Nat) : Nat := 0xD0110 + i * 0x20
/-- LOOP_PGSTAT.NSLOT. -/
def F.LOOP_PGSTAT_NSLOT (i : Nat) : RF := ⟨R.LOOP_PGSTAT i, 15, 8⟩
/-- LOOP_PGSTAT.TSKIP. -/
def F.LOOP_PGSTAT_TSKIP (i : Nat) : RF := ⟨R.LOOP_PGSTAT i, 2, 2⟩
/-- LOOP_PGSTAT.OVR. -/
def F.LOOP_PGSTAT_OVR (i : Nat) : RF := ⟨R.LOOP_PGSTAT i, 1, 1⟩
/-- LOOP_PGSTAT.ACTIVE. -/
def F.LOOP_PGSTAT_ACTIVE (i : Nat) : RF := ⟨R.LOOP_PGSTAT i, 0, 0⟩
/-- LOOP_PGOVR. -/
def R.LOOP_PGOVR (i : Nat) : Nat := 0xD0114 + i * 0x20
/-- LOOP_PGOVR.CNT. -/
def F.LOOP_PGOVR_CNT (i : Nat) : RF := ⟨R.LOOP_PGOVR i, 31, 0⟩
/-- LOOP_PGTSKIP. -/
def R.LOOP_PGTSKIP (i : Nat) : Nat := 0xD0118 + i * 0x20
/-- LOOP_PGTSKIP.CNT. -/
def F.LOOP_PGTSKIP_CNT (i : Nat) : RF := ⟨R.LOOP_PGTSKIP i, 31, 0⟩
/-- LOOP_INJCTL. -/
def R.LOOP_INJCTL (i : Nat) : Nat := 0xD0200 + i * 0x10
/-- LOOP_INJCTL.EN. -/
def F.LOOP_INJCTL_EN (i : Nat) : RF := ⟨R.LOOP_INJCTL i, 15, 15⟩
/-- LOOP_INJCTL.TYPE. -/
def F.LOOP_INJCTL_TYPE (i : Nat) : RF := ⟨R.LOOP_INJCTL i, 14, 13⟩
/-- LOOP_INJCTL.NODE. -/
def F.LOOP_INJCTL_NODE (i : Nat) : RF := ⟨R.LOOP_INJCTL i, 12, 11⟩
/-- LOOP_INJCTL.PRBSN. -/
def F.LOOP_INJCTL_PRBSN (i : Nat) : RF := ⟨R.LOOP_INJCTL i, 10, 7⟩
/-- LOOP_INJCTL.SLOT. -/
def F.LOOP_INJCTL_SLOT (i : Nat) : RF := ⟨R.LOOP_INJCTL i, 6, 0⟩
/-- LOOP_INJAMP. -/
def R.LOOP_INJAMP (i : Nat) : Nat := 0xD0204 + i * 0x10
/-- LOOP_INJAMP.AMP. -/
def F.LOOP_INJAMP_AMP (i : Nat) : RF := ⟨R.LOOP_INJAMP i, 15, 0⟩
/-- LOOP_INJLEN. -/
def R.LOOP_INJLEN (i : Nat) : Nat := 0xD0208 + i * 0x10
/-- LOOP_INJLEN.LEN. -/
def F.LOOP_INJLEN_LEN (i : Nat) : RF := ⟨R.LOOP_INJLEN i, 15, 0⟩
/-- LOOP_INJCNT. -/
def R.LOOP_INJCNT (i : Nat) : Nat := 0xD020C + i * 0x10
/-- LOOP_INJCNT.CNT. -/
def F.LOOP_INJCNT_CNT (i : Nat) : RF := ⟨R.LOOP_INJCNT i, 15, 0⟩
/-- LOOP_TRCCTL. -/
def R.LOOP_TRCCTL : Nat := 0xD0300
/-- LOOP_TRCCTL.ARM. -/
def F.LOOP_TRCCTL_ARM : RF := ⟨R.LOOP_TRCCTL, 15, 15⟩
/-- LOOP_TRCCTL.FORCE. -/
def F.LOOP_TRCCTL_FORCE : RF := ⟨R.LOOP_TRCCTL, 14, 14⟩
/-- LOOP_TRCCTL.START. -/
def F.LOOP_TRCCTL_START : RF := ⟨R.LOOP_TRCCTL, 13, 11⟩
/-- LOOP_TRCCTL.PRE. -/
def F.LOOP_TRCCTL_PRE : RF := ⟨R.LOOP_TRCCTL, 10, 7⟩
/-- LOOP_TRCSTAT. -/
def R.LOOP_TRCSTAT : Nat := 0xD0304
/-- LOOP_TRCSTAT.ARMED. -/
def F.LOOP_TRCSTAT_ARMED : RF := ⟨R.LOOP_TRCSTAT, 15, 15⟩
/-- LOOP_TRCSTAT.TRIGGERED. -/
def F.LOOP_TRCSTAT_TRIGGERED : RF := ⟨R.LOOP_TRCSTAT, 14, 14⟩
/-- LOOP_TRCSTAT.DONE. -/
def F.LOOP_TRCSTAT_DONE : RF := ⟨R.LOOP_TRCSTAT, 13, 13⟩
/-- LOOP_TRGSRC. -/
def R.LOOP_TRGSRC : Nat := 0xD0308
/-- LOOP_TRGSRC.EDGE. -/
def F.LOOP_TRGSRC_EDGE : RF := ⟨R.LOOP_TRGSRC, 15, 15⟩
/-- LOOP_TRGSRC.NODE. -/
def F.LOOP_TRGSRC_NODE : RF := ⟨R.LOOP_TRGSRC, 14, 11⟩
/-- LOOP_TRGSRC.EVT. -/
def F.LOOP_TRGSRC_EVT : RF := ⟨R.LOOP_TRGSRC, 10, 7⟩
/-- LOOP_TRGSRC.SLOT. -/
def F.LOOP_TRGSRC_SLOT : RF := ⟨R.LOOP_TRGSRC, 6, 0⟩
/-- LOOP_TRGLVL. -/
def R.LOOP_TRGLVL : Nat := 0xD030C
/-- LOOP_TRGLVL.LEVEL. -/
def F.LOOP_TRGLVL_LEVEL : RF := ⟨R.LOOP_TRGLVL, 15, 0⟩
/-- LOOP_TRCSEL. -/
def R.LOOP_TRCSEL (i : Nat) : Nat := 0xD0310 + i * 0x4
/-- LOOP_TRCSEL.NODE. -/
def F.LOOP_TRCSEL_NODE (i : Nat) : RF := ⟨R.LOOP_TRCSEL i, 15, 12⟩
/-- LOOP_TRCSEL.SLOT. -/
def F.LOOP_TRCSEL_SLOT (i : Nat) : RF := ⟨R.LOOP_TRCSEL i, 6, 0⟩
/-- LOOP_TRCTRIG. -/
def R.LOOP_TRCTRIG (i : Nat) : Nat := 0xD0330 + i * 0x4
/-- LOOP_TRCTRIG.ENTRY. -/
def F.LOOP_TRCTRIG_ENTRY (i : Nat) : RF := ⟨R.LOOP_TRCTRIG i, 15, 0⟩
/-- LOOP_TRCWR. -/
def R.LOOP_TRCWR (i : Nat) : Nat := 0xD0350 + i * 0x4
/-- LOOP_TRCWR.ENTRY. -/
def F.LOOP_TRCWR_ENTRY (i : Nat) : RF := ⟨R.LOOP_TRCWR i, 15, 0⟩
/-- LOOP_CTL. -/
def R.LOOP_CTL (i : Nat) : Nat := 0xD1000 + i * 0x80
/-- LOOP_CTL.MODE. -/
def F.LOOP_CTL_MODE (i : Nat) : RF := ⟨R.LOOP_CTL i, 15, 14⟩
/-- LOOP_CTL.GROUP. -/
def F.LOOP_CTL_GROUP (i : Nat) : RF := ⟨R.LOOP_CTL i, 13, 11⟩
/-- LOOP_CTL.SIGNED. -/
def F.LOOP_CTL_SIGNED (i : Nat) : RF := ⟨R.LOOP_CTL i, 10, 10⟩
/-- LOOP_CTL.PLEN. -/
def F.LOOP_CTL_PLEN (i : Nat) : RF := ⟨R.LOOP_CTL i, 9, 9⟩
/-- LOOP_CTL.FTEN. -/
def F.LOOP_CTL_FTEN (i : Nat) : RF := ⟨R.LOOP_CTL i, 8, 8⟩
/-- LOOP_CTL.FFEN. -/
def F.LOOP_CTL_FFEN (i : Nat) : RF := ⟨R.LOOP_CTL i, 7, 7⟩
/-- LOOP_SRC. -/
def R.LOOP_SRC (i : Nat) : Nat := 0xD1004 + i * 0x80
/-- LOOP_SRC.CLASS. -/
def F.LOOP_SRC_CLASS (i : Nat) : RF := ⟨R.LOOP_SRC i, 15, 12⟩
/-- LOOP_SRC.INDEX. -/
def F.LOOP_SRC_INDEX (i : Nat) : RF := ⟨R.LOOP_SRC i, 11, 0⟩
/-- LOOP_DST. -/
def R.LOOP_DST (i : Nat) : Nat := 0xD1008 + i * 0x80
/-- LOOP_DST.CLASS. -/
def F.LOOP_DST_CLASS (i : Nat) : RF := ⟨R.LOOP_DST i, 15, 12⟩
/-- LOOP_DST.INDEX. -/
def F.LOOP_DST_INDEX (i : Nat) : RF := ⟨R.LOOP_DST i, 11, 0⟩
/-- LOOP_FFSRC. -/
def R.LOOP_FFSRC (i : Nat) : Nat := 0xD100C + i * 0x80
/-- LOOP_FFSRC.CLASS. -/
def F.LOOP_FFSRC_CLASS (i : Nat) : RF := ⟨R.LOOP_FFSRC i, 15, 12⟩
/-- LOOP_FFSRC.INDEX. -/
def F.LOOP_FFSRC_INDEX (i : Nat) : RF := ⟨R.LOOP_FFSRC i, 11, 0⟩
/-- LOOP_SP. -/
def R.LOOP_SP (i : Nat) : Nat := 0xD1010 + i * 0x80
/-- LOOP_SP.SP. -/
def F.LOOP_SP_SP (i : Nat) : RF := ⟨R.LOOP_SP i, 15, 0⟩
/-- LOOP_MAN. -/
def R.LOOP_MAN (i : Nat) : Nat := 0xD1014 + i * 0x80
/-- LOOP_MAN.MAN. -/
def F.LOOP_MAN_MAN (i : Nat) : RF := ⟨R.LOOP_MAN i, 15, 0⟩
/-- LOOP_OMIN. -/
def R.LOOP_OMIN (i : Nat) : Nat := 0xD1018 + i * 0x80
/-- LOOP_OMIN.OMIN. -/
def F.LOOP_OMIN_OMIN (i : Nat) : RF := ⟨R.LOOP_OMIN i, 15, 0⟩
/-- LOOP_OMAX. -/
def R.LOOP_OMAX (i : Nat) : Nat := 0xD101C + i * 0x80
/-- LOOP_OMAX.OMAX. -/
def F.LOOP_OMAX_OMAX (i : Nat) : RF := ⟨R.LOOP_OMAX i, 15, 0⟩
/-- LOOP_KP. -/
def R.LOOP_KP (i : Nat) : Nat := 0xD1020 + i * 0x80
/-- LOOP_KP.KP. -/
def F.LOOP_KP_KP (i : Nat) : RF := ⟨R.LOOP_KP i, 15, 0⟩
/-- LOOP_KI. -/
def R.LOOP_KI (i : Nat) : Nat := 0xD1024 + i * 0x80
/-- LOOP_KI.KI. -/
def F.LOOP_KI_KI (i : Nat) : RF := ⟨R.LOOP_KI i, 15, 0⟩
/-- LOOP_KD. -/
def R.LOOP_KD (i : Nat) : Nat := 0xD1028 + i * 0x80
/-- LOOP_KD.KD. -/
def F.LOOP_KD_KD (i : Nat) : RF := ⟨R.LOOP_KD i, 15, 0⟩
/-- LOOP_TF. -/
def R.LOOP_TF (i : Nat) : Nat := 0xD102C + i * 0x80
/-- LOOP_TF.TF. -/
def F.LOOP_TF_TF (i : Nat) : RF := ⟨R.LOOP_TF i, 15, 0⟩
/-- LOOP_SPW. -/
def R.LOOP_SPW (i : Nat) : Nat := 0xD1030 + i * 0x80
/-- LOOP_SPW.SPW. -/
def F.LOOP_SPW_SPW (i : Nat) : RF := ⟨R.LOOP_SPW i, 15, 0⟩
/-- LOOP_KFF. -/
def R.LOOP_KFF (i : Nat) : Nat := 0xD1034 + i * 0x80
/-- LOOP_KFF.KFF. -/
def F.LOOP_KFF_KFF (i : Nat) : RF := ⟨R.LOOP_KFF i, 15, 0⟩
/-- LOOP_FT. -/
def R.LOOP_FT (i : Nat) : Nat := 0xD1038 + i * 0x80
/-- LOOP_FT.TABLE. -/
def F.LOOP_FT_TABLE (i : Nat) : RF := ⟨R.LOOP_FT i, 15, 12⟩
/-- LOOP_FT.LANE. -/
def F.LOOP_FT_LANE (i : Nat) : RF := ⟨R.LOOP_FT i, 11, 8⟩
/-- LOOP_MKM. -/
def R.LOOP_MKM (i : Nat) : Nat := 0xD103C + i * 0x80
/-- LOOP_MKM.KM. -/
def F.LOOP_MKM_KM (i : Nat) : RF := ⟨R.LOOP_MKM i, 15, 0⟩
/-- LOOP_MTM. -/
def R.LOOP_MTM (i : Nat) : Nat := 0xD1040 + i * 0x80
/-- LOOP_MTM.TM. -/
def F.LOOP_MTM_TM (i : Nat) : RF := ⟨R.LOOP_MTM i, 15, 0⟩
/-- LOOP_MCFG. -/
def R.LOOP_MCFG (i : Nat) : Nat := 0xD1044 + i * 0x80
/-- LOOP_MCFG.DWELL. -/
def F.LOOP_MCFG_DWELL (i : Nat) : RF := ⟨R.LOOP_MCFG i, 15, 8⟩
/-- LOOP_MCFG.DEAD. -/
def F.LOOP_MCFG_DEAD (i : Nat) : RF := ⟨R.LOOP_MCFG i, 7, 0⟩
/-- LOOP_MTHR. -/
def R.LOOP_MTHR (i : Nat) : Nat := 0xD1048 + i * 0x80
/-- LOOP_MTHR.THR. -/
def F.LOOP_MTHR_THR (i : Nat) : RF := ⟨R.LOOP_MTHR i, 15, 0⟩
/-- LOOP_STAT. -/
def R.LOOP_STAT (i : Nat) : Nat := 0xD104C + i * 0x80
/-- LOOP_STAT.MODEIN. -/
def F.LOOP_STAT_MODEIN (i : Nat) : RF := ⟨R.LOOP_STAT i, 15, 14⟩
/-- LOOP_STAT.PEND. -/
def F.LOOP_STAT_PEND (i : Nat) : RF := ⟨R.LOOP_STAT i, 13, 10⟩
/-- LOOP_STAT.TRACK. -/
def F.LOOP_STAT_TRACK (i : Nat) : RF := ⟨R.LOOP_STAT i, 9, 9⟩
/-- LOOP_STAT.SATHI. -/
def F.LOOP_STAT_SATHI (i : Nat) : RF := ⟨R.LOOP_STAT i, 8, 8⟩
/-- LOOP_STAT.SATLO. -/
def F.LOOP_STAT_SATLO (i : Nat) : RF := ⟨R.LOOP_STAT i, 7, 7⟩
/-- LOOP_STAT.COEFX. -/
def F.LOOP_STAT_COEFX (i : Nat) : RF := ⟨R.LOOP_STAT i, 6, 6⟩
/-- LOOP_STAT.CFGREJ. -/
def F.LOOP_STAT_CFGREJ (i : Nat) : RF := ⟨R.LOOP_STAT i, 5, 5⟩
/-- LOOP_STAT.SRCBAD. -/
def F.LOOP_STAT_SRCBAD (i : Nat) : RF := ⟨R.LOOP_STAT i, 4, 4⟩
/-- LOOP_STAT.PLAUS. -/
def F.LOOP_STAT_PLAUS (i : Nat) : RF := ⟨R.LOOP_STAT i, 3, 3⟩
/-- LOOP_STAT.OVERRUN. -/
def F.LOOP_STAT_OVERRUN (i : Nat) : RF := ⟨R.LOOP_STAT i, 2, 2⟩
/-- LOOP_STAT.INJ. -/
def F.LOOP_STAT_INJ (i : Nat) : RF := ⟨R.LOOP_STAT i, 1, 1⟩
/-- LOOP_STAT.NUMX. -/
def F.LOOP_STAT_NUMX (i : Nat) : RF := ⟨R.LOOP_STAT i, 0, 0⟩
/-- LOOP_OVRCNTS. -/
def R.LOOP_OVRCNTS (i : Nat) : Nat := 0xD1050 + i * 0x80
/-- LOOP_OVRCNTS.CNT. -/
def F.LOOP_OVRCNTS_CNT (i : Nat) : RF := ⟨R.LOOP_OVRCNTS i, 31, 0⟩
/-- LOOP_Y. -/
def R.LOOP_Y (i : Nat) : Nat := 0xD1054 + i * 0x80
/-- LOOP_Y.Y. -/
def F.LOOP_Y_Y (i : Nat) : RF := ⟨R.LOOP_Y i, 15, 0⟩
/-- LOOP_OUT. -/
def R.LOOP_OUT (i : Nat) : Nat := 0xD1058 + i * 0x80
/-- LOOP_OUT.OUT. -/
def F.LOOP_OUT_OUT (i : Nat) : RF := ⟨R.LOOP_OUT i, 15, 0⟩
/-- LOOP_RES. -/
def R.LOOP_RES (i : Nat) : Nat := 0xD105C + i * 0x80
/-- LOOP_RES.RES. -/
def F.LOOP_RES_RES (i : Nat) : RF := ⟨R.LOOP_RES i, 15, 0⟩
/-- LOOP_SRSV. -/
def R.LOOP_SRSV (i j : Nat) : Nat := 0xD1060 + i * 0x80 + j * 0x4

/-! ### VDRV: addresses and fields (R278) -/

/-- VDRV_CTL. -/
def R.VDRV_CTL : Nat := 0xE0000
/-- VDRV_CTL.EN. -/
def F.VDRV_CTL_EN : RF := ⟨R.VDRV_CTL, 15, 15⟩
/-- VDRV_STAT. -/
def R.VDRV_STAT : Nat := 0xE0004
/-- VDRV_STAT.DEFER. -/
def F.VDRV_STAT_DEFER : RF := ⟨R.VDRV_STAT, 7, 7⟩
/-- VDRV_STAT.CFGREJ. -/
def F.VDRV_STAT_CFGREJ : RF := ⟨R.VDRV_STAT, 6, 6⟩
/-- VDRV_STAT.SUPPLY. -/
def F.VDRV_STAT_SUPPLY : RF := ⟨R.VDRV_STAT, 5, 5⟩
/-- VDRV_STAT.THLIM. -/
def F.VDRV_STAT_THLIM : RF := ⟨R.VDRV_STAT, 4, 4⟩
/-- VDRV_STAT.CDMISS. -/
def F.VDRV_STAT_CDMISS : RF := ⟨R.VDRV_STAT, 3, 3⟩
/-- VDRV_STAT.OPEN. -/
def F.VDRV_STAT_OPEN : RF := ⟨R.VDRV_STAT, 2, 2⟩
/-- VDRV_STAT.SHORT. -/
def F.VDRV_STAT_SHORT : RF := ⟨R.VDRV_STAT, 1, 1⟩
/-- VDRV_STAT.COILHOT. -/
def F.VDRV_STAT_COILHOT : RF := ⟨R.VDRV_STAT, 0, 0⟩
/-- VDRV_FLTMAP. -/
def R.VDRV_FLTMAP : Nat := 0xE0008
/-- VDRV_FLTMAP.FAULTED. -/
def F.VDRV_FLTMAP_FAULTED : RF := ⟨R.VDRV_FLTMAP, 31, 0⟩
/-- VDRV_DEFERCNT. -/
def R.VDRV_DEFERCNT : Nat := 0xE000C
/-- VDRV_DEFERCNT.CNT. -/
def F.VDRV_DEFERCNT_CNT : RF := ⟨R.VDRV_DEFERCNT, 31, 0⟩
/-- VDRV_VCOIL. -/
def R.VDRV_VCOIL (i : Nat) : Nat := 0xE0010 + i * 0x4
/-- VDRV_VCOIL.OV. -/
def F.VDRV_VCOIL_OV (i : Nat) : RF := ⟨R.VDRV_VCOIL i, 17, 17⟩
/-- VDRV_VCOIL.UV. -/
def F.VDRV_VCOIL_UV (i : Nat) : RF := ⟨R.VDRV_VCOIL i, 16, 16⟩
/-- VDRV_VCOIL.V. -/
def F.VDRV_VCOIL_V (i : Nat) : RF := ⟨R.VDRV_VCOIL i, 15, 0⟩
/-- VDRV_PAIR. -/
def R.VDRV_PAIR : Nat := 0xE0020
/-- VDRV_PAIR.PAIR. -/
def F.VDRV_PAIR_PAIR : RF := ⟨R.VDRV_PAIR, 15, 0⟩
/-- VDRV_TAMB. -/
def R.VDRV_TAMB : Nat := 0xE0024
/-- VDRV_TAMB.SRC. -/
def F.VDRV_TAMB_SRC : RF := ⟨R.VDRV_TAMB, 15, 15⟩
/-- VDRV_TAMB.INDEX. -/
def F.VDRV_TAMB_INDEX : RF := ⟨R.VDRV_TAMB, 7, 0⟩
/-- VDRV_TAMBV. -/
def R.VDRV_TAMBV : Nat := 0xE0028
/-- VDRV_TAMBV.TA. -/
def F.VDRV_TAMBV_TA : RF := ⟨R.VDRV_TAMBV, 15, 0⟩
/-- VDRV_PSTART. -/
def R.VDRV_PSTART : Nat := 0xE002C
/-- VDRV_PSTART.WT. -/
def F.VDRV_PSTART_WT : RF := ⟨R.VDRV_PSTART, 31, 0⟩
/-- VDRV_PROF. -/
def R.VDRV_PROF (i : Nat) : Nat := 0xE0100 + i * 0x80
/-- VDRV_PROF.TYPE. -/
def F.VDRV_PROF_TYPE (i : Nat) : RF := ⟨R.VDRV_PROF i, 15, 14⟩
/-- VDRV_PROF.SETON. -/
def F.VDRV_PROF_SETON (i : Nat) : RF := ⟨R.VDRV_PROF i, 13, 13⟩
/-- VDRV_PROF.PBOOST. -/
def F.VDRV_PROF_PBOOST (i : Nat) : RF := ⟨R.VDRV_PROF i, 12, 12⟩
/-- VDRV_PROF.CDEN. -/
def F.VDRV_PROF_CDEN (i : Nat) : RF := ⟨R.VDRV_PROF i, 11, 11⟩
/-- VDRV_PROF.OLEN. -/
def F.VDRV_PROF_OLEN (i : Nat) : RF := ⟨R.VDRV_PROF i, 10, 10⟩
/-- VDRV_BOOST. -/
def R.VDRV_BOOST (i : Nat) : Nat := 0xE0104 + i * 0x80
/-- VDRV_BOOST.I. -/
def F.VDRV_BOOST_I (i : Nat) : RF := ⟨R.VDRV_BOOST i, 15, 0⟩
/-- VDRV_BOOSTT. -/
def R.VDRV_BOOSTT (i : Nat) : Nat := 0xE0108 + i * 0x80
/-- VDRV_BOOSTT.T. -/
def F.VDRV_BOOSTT_T (i : Nat) : RF := ⟨R.VDRV_BOOSTT i, 15, 0⟩
/-- VDRV_HOLDI. -/
def R.VDRV_HOLDI (i : Nat) : Nat := 0xE010C + i * 0x80
/-- VDRV_HOLDI.I. -/
def F.VDRV_HOLDI_I (i : Nat) : RF := ⟨R.VDRV_HOLDI i, 15, 0⟩
/-- VDRV_SET. -/
def R.VDRV_SET (i : Nat) : Nat := 0xE0110 + i * 0x80
/-- VDRV_SET.SET. -/
def F.VDRV_SET_SET (i : Nat) : RF := ⟨R.VDRV_SET i, 15, 0⟩
/-- VDRV_CMD. -/
def R.VDRV_CMD (i : Nat) : Nat := 0xE0114 + i * 0x80
/-- VDRV_CMD.ON. -/
def F.VDRV_CMD_ON (i : Nat) : RF := ⟨R.VDRV_CMD i, 15, 15⟩
/-- VDRV_CMD.CLRF. -/
def F.VDRV_CMD_CLRF (i : Nat) : RF := ⟨R.VDRV_CMD i, 14, 14⟩
/-- VDRV_DITH. -/
def R.VDRV_DITH (i : Nat) : Nat := 0xE0118 + i * 0x80
/-- VDRV_DITH.AMP. -/
def F.VDRV_DITH_AMP (i : Nat) : RF := ⟨R.VDRV_DITH i, 15, 8⟩
/-- VDRV_DITH.WAVE. -/
def F.VDRV_DITH_WAVE (i : Nat) : RF := ⟨R.VDRV_DITH i, 7, 7⟩
/-- VDRV_DFREQ. -/
def R.VDRV_DFREQ (i : Nat) : Nat := 0xE011C + i * 0x80
/-- VDRV_DFREQ.F. -/
def F.VDRV_DFREQ_F (i : Nat) : RF := ⟨R.VDRV_DFREQ i, 15, 0⟩
/-- VDRV_TLIM. -/
def R.VDRV_TLIM (i : Nat) : Nat := 0xE0120 + i * 0x80
/-- VDRV_TLIM.TLIM. -/
def F.VDRV_TLIM_TLIM (i : Nat) : RF := ⟨R.VDRV_TLIM i, 7, 0⟩
/-- VDRV_ILHOT. -/
def R.VDRV_ILHOT (i : Nat) : Nat := 0xE0124 + i * 0x80
/-- VDRV_ILHOT.I. -/
def F.VDRV_ILHOT_I (i : Nat) : RF := ⟨R.VDRV_ILHOT i, 15, 0⟩
/-- VDRV_RCOLD. -/
def R.VDRV_RCOLD (i : Nat) : Nat := 0xE0128 + i * 0x80
/-- VDRV_RCOLD.RC. -/
def F.VDRV_RCOLD_RC (i : Nat) : RF := ⟨R.VDRV_RCOLD i, 15, 0⟩
/-- VDRV_THR. -/
def R.VDRV_THR (i : Nat) : Nat := 0xE012C + i * 0x80
/-- VDRV_THR.RWB. -/
def F.VDRV_THR_RWB (i : Nat) : RF := ⟨R.VDRV_THR i, 15, 8⟩
/-- VDRV_THR.RBA. -/
def F.VDRV_THR_RBA (i : Nat) : RF := ⟨R.VDRV_THR i, 7, 0⟩
/-- VDRV_THC. -/
def R.VDRV_THC (i : Nat) : Nat := 0xE0130 + i * 0x80
/-- VDRV_THC.CW. -/
def F.VDRV_THC_CW (i : Nat) : RF := ⟨R.VDRV_THC i, 15, 8⟩
/-- VDRV_THC.CB. -/
def F.VDRV_THC_CB (i : Nat) : RF := ⟨R.VDRV_THC i, 7, 0⟩
/-- VDRV_CDCFG. -/
def R.VDRV_CDCFG (i : Nat) : Nat := 0xE0134 + i * 0x80
/-- VDRV_CDCFG.WIN. -/
def F.VDRV_CDCFG_WIN (i : Nat) : RF := ⟨R.VDRV_CDCFG i, 15, 8⟩
/-- VDRV_CDCFG.THR. -/
def F.VDRV_CDCFG_THR (i : Nat) : RF := ⟨R.VDRV_CDCFG i, 7, 0⟩
/-- VDRV_CSTAT. -/
def R.VDRV_CSTAT (i : Nat) : Nat := 0xE0138 + i * 0x80
/-- VDRV_CSTAT.PHASE. -/
def F.VDRV_CSTAT_PHASE (i : Nat) : RF := ⟨R.VDRV_CSTAT i, 15, 13⟩
/-- VDRV_CSTAT.THLIM. -/
def F.VDRV_CSTAT_THLIM (i : Nat) : RF := ⟨R.VDRV_CSTAT i, 12, 12⟩
/-- VDRV_CSTAT.PAIRED. -/
def F.VDRV_CSTAT_PAIRED (i : Nat) : RF := ⟨R.VDRV_CSTAT i, 11, 11⟩
/-- VDRV_CSTAT.SUPPLY. -/
def F.VDRV_CSTAT_SUPPLY (i : Nat) : RF := ⟨R.VDRV_CSTAT i, 6, 6⟩
/-- VDRV_CSTAT.CDABORT. -/
def F.VDRV_CSTAT_CDABORT (i : Nat) : RF := ⟨R.VDRV_CSTAT i, 5, 5⟩
/-- VDRV_CSTAT.CDMISS. -/
def F.VDRV_CSTAT_CDMISS (i : Nat) : RF := ⟨R.VDRV_CSTAT i, 4, 4⟩
/-- VDRV_CSTAT.CLOSED. -/
def F.VDRV_CSTAT_CLOSED (i : Nat) : RF := ⟨R.VDRV_CSTAT i, 3, 3⟩
/-- VDRV_CSTAT.RESTART. -/
def F.VDRV_CSTAT_RESTART (i : Nat) : RF := ⟨R.VDRV_CSTAT i, 2, 2⟩
/-- VDRV_CSTAT.DEFER. -/
def F.VDRV_CSTAT_DEFER (i : Nat) : RF := ⟨R.VDRV_CSTAT i, 1, 1⟩
/-- VDRV_MEAS. -/
def R.VDRV_MEAS (i : Nat) : Nat := 0xE013C + i * 0x80
/-- VDRV_MEAS.DUTY. -/
def F.VDRV_MEAS_DUTY (i : Nat) : RF := ⟨R.VDRV_MEAS i, 31, 16⟩
/-- VDRV_MEAS.I. -/
def F.VDRV_MEAS_I (i : Nat) : RF := ⟨R.VDRV_MEAS i, 15, 0⟩
/-- VDRV_FAULT. -/
def R.VDRV_FAULT (i : Nat) : Nat := 0xE0140 + i * 0x80
/-- VDRV_FAULT.LEG. -/
def F.VDRV_FAULT_LEG (i : Nat) : RF := ⟨R.VDRV_FAULT i, 8, 8⟩
/-- VDRV_FAULT.CODE. -/
def F.VDRV_FAULT_CODE (i : Nat) : RF := ⟨R.VDRV_FAULT i, 7, 0⟩
/-- VDRV_CLOSET. -/
def R.VDRV_CLOSET (i : Nat) : Nat := 0xE0144 + i * 0x80
/-- VDRV_CLOSET.T. -/
def F.VDRV_CLOSET_T (i : Nat) : RF := ⟨R.VDRV_CLOSET i, 15, 0⟩
/-- VDRV_TW. -/
def R.VDRV_TW (i : Nat) : Nat := 0xE0148 + i * 0x80
/-- VDRV_TW.TB. -/
def F.VDRV_TW_TB (i : Nat) : RF := ⟨R.VDRV_TW i, 31, 16⟩
/-- VDRV_TW.TW. -/
def F.VDRV_TW_TW (i : Nat) : RF := ⟨R.VDRV_TW i, 15, 0⟩
/-- VDRV_RMEAS. -/
def R.VDRV_RMEAS (i : Nat) : Nat := 0xE014C + i * 0x80
/-- VDRV_RMEAS.R. -/
def F.VDRV_RMEAS_R (i : Nat) : RF := ⟨R.VDRV_RMEAS i, 15, 0⟩
/-- VDRV_RESTCNT. -/
def R.VDRV_RESTCNT (i : Nat) : Nat := 0xE0150 + i * 0x80
/-- VDRV_RESTCNT.CNT. -/
def F.VDRV_RESTCNT_CNT (i : Nat) : RF := ⟨R.VDRV_RESTCNT i, 31, 0⟩
/-- VDRV_HOLDV. -/
def R.VDRV_HOLDV (i : Nat) : Nat := 0xE0154 + i * 0x80
/-- VDRV_HOLDV.HEN. -/
def F.VDRV_HOLDV_HEN (i : Nat) : RF := ⟨R.VDRV_HOLDV i, 15, 15⟩
/-- VDRV_HOLDV.HON. -/
def F.VDRV_HOLDV_HON (i : Nat) : RF := ⟨R.VDRV_HOLDV i, 14, 14⟩
/-- VDRV_HOLDV.HSET. -/
def F.VDRV_HOLDV_HSET (i : Nat) : RF := ⟨R.VDRV_HOLDV i, 13, 0⟩
/-- VDRV_CRSV. -/
def R.VDRV_CRSV (i j : Nat) : Nat := 0xE0158 + i * 0x80 + j * 0x4

/-! ### FAN: addresses and fields (R295) -/

/-- FAN_CTL. -/
def R.FAN_CTL : Nat := 0xF0000
/-- FAN_CTL.EN. -/
def F.FAN_CTL_EN : RF := ⟨R.FAN_CTL, 15, 15⟩
/-- FAN_STAT. -/
def R.FAN_STAT : Nat := 0xF0004
/-- FAN_STAT.DEFER. -/
def F.FAN_STAT_DEFER : RF := ⟨R.FAN_STAT, 7, 7⟩
/-- FAN_STAT.NOTACH. -/
def F.FAN_STAT_NOTACH : RF := ⟨R.FAN_STAT, 6, 6⟩
/-- FAN_STAT.STALL. -/
def F.FAN_STAT_STALL : RF := ⟨R.FAN_STAT, 5, 5⟩
/-- FAN_STAT.OPEN. -/
def F.FAN_STAT_OPEN : RF := ⟨R.FAN_STAT, 4, 4⟩
/-- FAN_STAT.OVERLOAD. -/
def F.FAN_STAT_OVERLOAD : RF := ⟨R.FAN_STAT, 3, 3⟩
/-- FAN_STAT.OVERCUR. -/
def F.FAN_STAT_OVERCUR : RF := ⟨R.FAN_STAT, 2, 2⟩
/-- FAN_STAT.SHORT. -/
def F.FAN_STAT_SHORT : RF := ⟨R.FAN_STAT, 1, 1⟩
/-- FAN_FREQ. -/
def R.FAN_FREQ : Nat := 0xF0008
/-- FAN_FREQ.F. -/
def F.FAN_FREQ_F : RF := ⟨R.FAN_FREQ, 5, 0⟩
/-- FAN_FLTMAP. -/
def R.FAN_FLTMAP : Nat := 0xF000C
/-- FAN_FLTMAP.FAULTED. -/
def F.FAN_FLTMAP_FAULTED : RF := ⟨R.FAN_FLTMAP, 7, 0⟩
/-- FAN_DEFERCNT. -/
def R.FAN_DEFERCNT : Nat := 0xF0010
/-- FAN_DEFERCNT.CNT. -/
def F.FAN_DEFERCNT_CNT : RF := ⟨R.FAN_DEFERCNT, 31, 0⟩
/-- FAN_COOL. -/
def R.FAN_COOL : Nat := 0xF0014
/-- FAN_COOL.EN. -/
def F.FAN_COOL_EN : RF := ⟨R.FAN_COOL, 15, 15⟩
/-- FAN_COOL.CH. -/
def F.FAN_COOL_CH : RF := ⟨R.FAN_COOL, 2, 0⟩
/-- FAN_COOLFLR. -/
def R.FAN_COOLFLR : Nat := 0xF0018
/-- FAN_COOLFLR.FLOOR. -/
def F.FAN_COOLFLR_FLOOR : RF := ⟨R.FAN_COOLFLR, 15, 0⟩
/-- FAN_CHCTL. -/
def R.FAN_CHCTL (i : Nat) : Nat := 0xF0100 + i * 0x80
/-- FAN_CHCTL.OLEN. -/
def F.FAN_CHCTL_OLEN (i : Nat) : RF := ⟨R.FAN_CHCTL i, 14, 14⟩
/-- FAN_CHCTL.STACT. -/
def F.FAN_CHCTL_STACT (i : Nat) : RF := ⟨R.FAN_CHCTL i, 13, 13⟩
/-- FAN_CHCTL.PPR. -/
def F.FAN_CHCTL_PPR (i : Nat) : RF := ⟨R.FAN_CHCTL i, 11, 10⟩
/-- FAN_CHCTL.TACHN. -/
def F.FAN_CHCTL_TACHN (i : Nat) : RF := ⟨R.FAN_CHCTL i, 7, 0⟩
/-- FAN_SET. -/
def R.FAN_SET (i : Nat) : Nat := 0xF0104 + i * 0x80
/-- FAN_SET.SET. -/
def F.FAN_SET_SET (i : Nat) : RF := ⟨R.FAN_SET i, 15, 0⟩
/-- FAN_RAMP. -/
def R.FAN_RAMP (i : Nat) : Nat := 0xF0108 + i * 0x80
/-- FAN_RAMP.RATE. -/
def F.FAN_RAMP_RATE (i : Nat) : RF := ⟨R.FAN_RAMP i, 15, 0⟩
/-- FAN_TACH. -/
def R.FAN_TACH (i : Nat) : Nat := 0xF010C + i * 0x80
/-- FAN_TACH.STRMAX. -/
def F.FAN_TACH_STRMAX (i : Nat) : RF := ⟨R.FAN_TACH i, 15, 8⟩
/-- FAN_TACH.FILT. -/
def F.FAN_TACH_FILT (i : Nat) : RF := ⟨R.FAN_TACH i, 7, 0⟩
/-- FAN_SKIPLO. -/
def R.FAN_SKIPLO (i j : Nat) : Nat := 0xF0110 + i * 0x80 + j * 0x8
/-- FAN_SKIPLO.LO. -/
def F.FAN_SKIPLO_LO (i j : Nat) : RF := ⟨R.FAN_SKIPLO i j, 15, 0⟩
/-- FAN_SKIPHI. -/
def R.FAN_SKIPHI (i j : Nat) : Nat := 0xF0114 + i * 0x80 + j * 0x8
/-- FAN_SKIPHI.HI. -/
def F.FAN_SKIPHI_HI (i j : Nat) : RF := ⟨R.FAN_SKIPHI i j, 15, 0⟩
/-- FAN_STALLCFG. -/
def R.FAN_STALLCFG (i : Nat) : Nat := 0xF0130 + i * 0x80
/-- FAN_STALLCFG.MINDUTY. -/
def F.FAN_STALLCFG_MINDUTY (i : Nat) : RF := ⟨R.FAN_STALLCFG i, 15, 8⟩
/-- FAN_STALLCFG.MISS. -/
def F.FAN_STALLCFG_MISS (i : Nat) : RF := ⟨R.FAN_STALLCFG i, 7, 4⟩
/-- FAN_STALLCFG.SPINUP. -/
def F.FAN_STALLCFG_SPINUP (i : Nat) : RF := ⟨R.FAN_STALLCFG i, 3, 0⟩
/-- FAN_CMD. -/
def R.FAN_CMD (i : Nat) : Nat := 0xF0134 + i * 0x80
/-- FAN_CMD.CLRF. -/
def F.FAN_CMD_CLRF (i : Nat) : RF := ⟨R.FAN_CMD i, 15, 15⟩
/-- FAN_HOLDV. -/
def R.FAN_HOLDV (i : Nat) : Nat := 0xF0138 + i * 0x80
/-- FAN_HOLDV.HEN. -/
def F.FAN_HOLDV_HEN (i : Nat) : RF := ⟨R.FAN_HOLDV i, 15, 15⟩
/-- FAN_HOLDV.HSET. -/
def F.FAN_HOLDV_HSET (i : Nat) : RF := ⟨R.FAN_HOLDV i, 13, 0⟩
/-- FAN_CSTAT. -/
def R.FAN_CSTAT (i : Nat) : Nat := 0xF013C + i * 0x80
/-- FAN_CSTAT.RAMPING. -/
def F.FAN_CSTAT_RAMPING (i : Nat) : RF := ⟨R.FAN_CSTAT i, 15, 15⟩
/-- FAN_CSTAT.INSKIP. -/
def F.FAN_CSTAT_INSKIP (i : Nat) : RF := ⟨R.FAN_CSTAT i, 14, 14⟩
/-- FAN_CSTAT.FLOORED. -/
def F.FAN_CSTAT_FLOORED (i : Nat) : RF := ⟨R.FAN_CSTAT i, 13, 13⟩
/-- FAN_CSTAT.STALLED. -/
def F.FAN_CSTAT_STALLED (i : Nat) : RF := ⟨R.FAN_CSTAT i, 12, 12⟩
/-- FAN_CSTAT.NOTACH. -/
def F.FAN_CSTAT_NOTACH (i : Nat) : RF := ⟨R.FAN_CSTAT i, 2, 2⟩
/-- FAN_CSTAT.DEFER. -/
def F.FAN_CSTAT_DEFER (i : Nat) : RF := ⟨R.FAN_CSTAT i, 1, 1⟩
/-- FAN_APPLIED. -/
def R.FAN_APPLIED (i : Nat) : Nat := 0xF0140 + i * 0x80
/-- FAN_APPLIED.TARGET. -/
def F.FAN_APPLIED_TARGET (i : Nat) : RF := ⟨R.FAN_APPLIED i, 31, 16⟩
/-- FAN_APPLIED.DUTY. -/
def F.FAN_APPLIED_DUTY (i : Nat) : RF := ⟨R.FAN_APPLIED i, 15, 0⟩
/-- FAN_SPEED. -/
def R.FAN_SPEED (i : Nat) : Nat := 0xF0144 + i * 0x80
/-- FAN_SPEED.RPM. -/
def F.FAN_SPEED_RPM (i : Nat) : RF := ⟨R.FAN_SPEED i, 15, 0⟩
/-- FAN_MEAS. -/
def R.FAN_MEAS (i : Nat) : Nat := 0xF0148 + i * 0x80
/-- FAN_MEAS.PEAK. -/
def F.FAN_MEAS_PEAK (i : Nat) : RF := ⟨R.FAN_MEAS i, 31, 16⟩
/-- FAN_MEAS.I. -/
def F.FAN_MEAS_I (i : Nat) : RF := ⟨R.FAN_MEAS i, 15, 0⟩
/-- FAN_FAULT. -/
def R.FAN_FAULT (i : Nat) : Nat := 0xF014C + i * 0x80
/-- FAN_FAULT.CODE. -/
def F.FAN_FAULT_CODE (i : Nat) : RF := ⟨R.FAN_FAULT i, 7, 0⟩
/-- FAN_STRETCH. -/
def R.FAN_STRETCH (i : Nat) : Nat := 0xF0150 + i * 0x80
/-- FAN_STRETCH.T. -/
def F.FAN_STRETCH_T (i : Nat) : RF := ⟨R.FAN_STRETCH i, 15, 0⟩
/-- FAN_MISSCNT. -/
def R.FAN_MISSCNT (i : Nat) : Nat := 0xF0154 + i * 0x80
/-- FAN_MISSCNT.CNT. -/
def F.FAN_MISSCNT_CNT (i : Nat) : RF := ⟨R.FAN_MISSCNT i, 31, 0⟩
/-- FAN_CRSV. -/
def R.FAN_CRSV (i j : Nat) : Nat := 0xF0158 + i * 0x80 + j * 0x4

/-! ### ENC: addresses and fields (R77) -/

/-- ENC_POSL. -/
def R.ENC_POSL (i : Nat) : Nat := 0x100000 + i * 0x40
/-- ENC_POSL.POS. -/
def F.ENC_POSL_POS (i : Nat) : RF := ⟨R.ENC_POSL i, 31, 0⟩
/-- ENC_POSH. -/
def R.ENC_POSH (i : Nat) : Nat := 0x100004 + i * 0x40
/-- ENC_POSH.POS. -/
def F.ENC_POSH_POS (i : Nat) : RF := ⟨R.ENC_POSH i, 15, 0⟩
/-- ENC_LEADL. -/
def R.ENC_LEADL (i : Nat) : Nat := 0x100008 + i * 0x40
/-- ENC_LEADL.LEAD. -/
def F.ENC_LEADL_LEAD (i : Nat) : RF := ⟨R.ENC_LEADL i, 31, 0⟩
/-- ENC_LEADH. -/
def R.ENC_LEADH (i : Nat) : Nat := 0x10000C + i * 0x40
/-- ENC_LEADH.LEAD. -/
def F.ENC_LEADH_LEAD (i : Nat) : RF := ⟨R.ENC_LEADH i, 15, 0⟩
/-- ENC_LCTL. -/
def R.ENC_LCTL (i : Nat) : Nat := 0x100010 + i * 0x40
/-- ENC_LCTL.RUN. -/
def F.ENC_LCTL_RUN (i : Nat) : RF := ⟨R.ENC_LCTL i, 15, 15⟩
/-- ENC_LCTL.SUBST. -/
def F.ENC_LCTL_SUBST (i : Nat) : RF := ⟨R.ENC_LCTL i, 14, 14⟩
/-- ENC_LCTL.DIR. -/
def F.ENC_LCTL_DIR (i : Nat) : RF := ⟨R.ENC_LCTL i, 13, 13⟩
/-- ENC_LCTL.ZEN. -/
def F.ENC_LCTL_ZEN (i : Nat) : RF := ⟨R.ENC_LCTL i, 12, 12⟩
/-- ENC_LCTL.ZTOL. -/
def F.ENC_LCTL_ZTOL (i : Nat) : RF := ⟨R.ENC_LCTL i, 11, 8⟩
/-- ENC_LCTL.FILT. -/
def F.ENC_LCTL_FILT (i : Nat) : RF := ⟨R.ENC_LCTL i, 7, 0⟩
/-- ENC_SPR. -/
def R.ENC_SPR (i : Nat) : Nat := 0x100014 + i * 0x40
/-- ENC_SPR.SPR. -/
def F.ENC_SPR_SPR (i : Nat) : RF := ⟨R.ENC_SPR i, 15, 0⟩
/-- ENC_CALI. -/
def R.ENC_CALI (i : Nat) : Nat := 0x100018 + i * 0x40
/-- ENC_CALI.CALI. -/
def F.ENC_CALI_CALI (i : Nat) : RF := ⟨R.ENC_CALI i, 15, 0⟩
/-- ENC_CALF. -/
def R.ENC_CALF (i : Nat) : Nat := 0x10001C + i * 0x40
/-- ENC_CALF.CALF. -/
def F.ENC_CALF_CALF (i : Nat) : RF := ⟨R.ENC_CALF i, 15, 0⟩
/-- ENC_STALLT. -/
def R.ENC_STALLT (i : Nat) : Nat := 0x100020 + i * 0x40
/-- ENC_STALLT.STALLT. -/
def F.ENC_STALLT_STALLT (i : Nat) : RF := ⟨R.ENC_STALLT i, 15, 0⟩
/-- ENC_REVLIM. -/
def R.ENC_REVLIM (i : Nat) : Nat := 0x100024 + i * 0x40
/-- ENC_REVLIM.REVLIM. -/
def F.ENC_REVLIM_REVLIM (i : Nat) : RF := ⟨R.ENC_REVLIM i, 15, 0⟩
/-- ENC_LSTAT. -/
def R.ENC_LSTAT (i : Nat) : Nat := 0x100028 + i * 0x40
/-- ENC_LSTAT.LOST. -/
def F.ENC_LSTAT_LOST (i : Nat) : RF := ⟨R.ENC_LSTAT i, 15, 15⟩
/-- ENC_LSTAT.ESTIM. -/
def F.ENC_LSTAT_ESTIM (i : Nat) : RF := ⟨R.ENC_LSTAT i, 14, 14⟩
/-- ENC_LSTAT.STALLED. -/
def F.ENC_LSTAT_STALLED (i : Nat) : RF := ⟨R.ENC_LSTAT i, 13, 13⟩
/-- ENC_LSTAT.REVERSE. -/
def F.ENC_LSTAT_REVERSE (i : Nat) : RF := ⟨R.ENC_LSTAT i, 12, 12⟩
/-- ENC_LSTAT.REVX. -/
def F.ENC_LSTAT_REVX (i : Nat) : RF := ⟨R.ENC_LSTAT i, 6, 6⟩
/-- ENC_LSTAT.ZERR. -/
def F.ENC_LSTAT_ZERR (i : Nat) : RF := ⟨R.ENC_LSTAT i, 5, 5⟩
/-- ENC_LSTAT.QERR. -/
def F.ENC_LSTAT_QERR (i : Nat) : RF := ⟨R.ENC_LSTAT i, 4, 4⟩
/-- ENC_LSTAT.OPEN. -/
def F.ENC_LSTAT_OPEN (i : Nat) : RF := ⟨R.ENC_LSTAT i, 3, 3⟩
/-- ENC_LSTAT.RESYNC. -/
def F.ENC_LSTAT_RESYNC (i : Nat) : RF := ⟨R.ENC_LSTAT i, 2, 2⟩
/-- ENC_ZPOSL. -/
def R.ENC_ZPOSL (i : Nat) : Nat := 0x10002C + i * 0x40
/-- ENC_ZPOSL.ZPOS. -/
def F.ENC_ZPOSL_ZPOS (i : Nat) : RF := ⟨R.ENC_ZPOSL i, 31, 0⟩
/-- ENC_REVCNT. -/
def R.ENC_REVCNT (i : Nat) : Nat := 0x100030 + i * 0x40
/-- ENC_REVCNT.REVCNT. -/
def F.ENC_REVCNT_REVCNT (i : Nat) : RF := ⟨R.ENC_REVCNT i, 31, 0⟩
/-- ENC_RATE. -/
def R.ENC_RATE (i : Nat) : Nat := 0x100034 + i * 0x40
/-- ENC_RATE.RATE. -/
def F.ENC_RATE_RATE (i : Nat) : RF := ⟨R.ENC_RATE i, 31, 0⟩
/-- ENC_SUBSTMAX. -/
def R.ENC_SUBSTMAX (i : Nat) : Nat := 0x100038 + i * 0x40
/-- ENC_SUBSTMAX.SUBSTMAX. -/
def F.ENC_SUBSTMAX_SUBSTMAX (i : Nat) : RF := ⟨R.ENC_SUBSTMAX i, 15, 0⟩
/-- ENC_ANGLE. -/
def R.ENC_ANGLE (i : Nat) : Nat := 0x10003C + i * 0x40
/-- ENC_ANGLE.ANGLE. -/
def F.ENC_ANGLE_ANGLE (i : Nat) : RF := ⟨R.ENC_ANGLE i, 9, 0⟩
/-- ENC_MCNTL. -/
def R.ENC_MCNTL : Nat := 0x100400
/-- ENC_MCNTL.MCNT. -/
def F.ENC_MCNTL_MCNT : RF := ⟨R.ENC_MCNTL, 31, 0⟩
/-- ENC_MCNTH. -/
def R.ENC_MCNTH : Nat := 0x100404
/-- ENC_MCNTH.MCNT. -/
def F.ENC_MCNTH_MCNT : RF := ⟨R.ENC_MCNTH, 15, 0⟩
/-- ENC_MPER. -/
def R.ENC_MPER : Nat := 0x100408
/-- ENC_MPER.MPER. -/
def F.ENC_MPER_MPER : RF := ⟨R.ENC_MPER, 31, 0⟩
/-- ENC_MCTL. -/
def R.ENC_MCTL : Nat := 0x10040C
/-- ENC_MCTL.EDGE. -/
def F.ENC_MCTL_EDGE : RF := ⟨R.ENC_MCTL, 15, 15⟩
/-- ENC_MCTL.FILT. -/
def F.ENC_MCTL_FILT : RF := ⟨R.ENC_MCTL, 7, 0⟩
/-- ENC_MSTAT. -/
def R.ENC_MSTAT : Nat := 0x100410
/-- ENC_MSTAT.MLOST. -/
def F.ENC_MSTAT_MLOST : RF := ⟨R.ENC_MSTAT, 15, 15⟩
/-- ENC_MSTAT.FREERUN. -/
def F.ENC_MSTAT_FREERUN : RF := ⟨R.ENC_MSTAT, 14, 14⟩
/-- ENC_MSTAT.RANGE. -/
def F.ENC_MSTAT_RANGE : RF := ⟨R.ENC_MSTAT, 0, 0⟩
/-- ENC_WTL. -/
def R.ENC_WTL : Nat := 0x100420
/-- ENC_WTL.WT. -/
def F.ENC_WTL_WT : RF := ⟨R.ENC_WTL, 31, 0⟩
/-- ENC_WTH. -/
def R.ENC_WTH : Nat := 0x100424
/-- ENC_WTH.WT. -/
def F.ENC_WTH_WT : RF := ⟨R.ENC_WTH, 31, 0⟩
/-- ENC_SNAPCTL. -/
def R.ENC_SNAPCTL : Nat := 0x100430
/-- ENC_SNAPCTL.SNAP. -/
def F.ENC_SNAPCTL_SNAP : RF := ⟨R.ENC_SNAPCTL, 0, 0⟩
/-- ENC_SNAPWTL. -/
def R.ENC_SNAPWTL : Nat := 0x100434
/-- ENC_SNAPWTL.WT. -/
def F.ENC_SNAPWTL_WT : RF := ⟨R.ENC_SNAPWTL, 31, 0⟩
/-- ENC_SNAPWTH. -/
def R.ENC_SNAPWTH : Nat := 0x100438
/-- ENC_SNAPWTH.WT. -/
def F.ENC_SNAPWTH_WT : RF := ⟨R.ENC_SNAPWTH, 31, 0⟩
/-- ENC_SNAPSEQ. -/
def R.ENC_SNAPSEQ : Nat := 0x10043C
/-- ENC_SNAPSEQ.SEQ. -/
def F.ENC_SNAPSEQ_SEQ : RF := ⟨R.ENC_SNAPSEQ, 31, 0⟩
/-- ENC_SNAPL. -/
def R.ENC_SNAPL (i : Nat) : Nat := 0x100440 + i * 0x10
/-- ENC_SNAPL.POS. -/
def F.ENC_SNAPL_POS (i : Nat) : RF := ⟨R.ENC_SNAPL i, 31, 0⟩
/-- ENC_SNAPH. -/
def R.ENC_SNAPH (i : Nat) : Nat := 0x100444 + i * 0x10
/-- ENC_SNAPH.POS. -/
def F.ENC_SNAPH_POS (i : Nat) : RF := ⟨R.ENC_SNAPH i, 15, 0⟩
/-- ENC_SNAPLDL. -/
def R.ENC_SNAPLDL (i : Nat) : Nat := 0x100448 + i * 0x10
/-- ENC_SNAPLDL.LEAD. -/
def F.ENC_SNAPLDL_LEAD (i : Nat) : RF := ⟨R.ENC_SNAPLDL i, 31, 0⟩
/-- ENC_SNAPLDH. -/
def R.ENC_SNAPLDH (i : Nat) : Nat := 0x10044C + i * 0x10
/-- ENC_SNAPLDH.LEAD. -/
def F.ENC_SNAPLDH_LEAD (i : Nat) : RF := ⟨R.ENC_SNAPLDH i, 15, 0⟩
/-- ENC_SNAPML. -/
def R.ENC_SNAPML : Nat := 0x100540
/-- ENC_SNAPML.MCNT. -/
def F.ENC_SNAPML_MCNT : RF := ⟨R.ENC_SNAPML, 31, 0⟩
/-- ENC_SNAPMH. -/
def R.ENC_SNAPMH : Nat := 0x100544
/-- ENC_SNAPMH.MCNT. -/
def F.ENC_SNAPMH_MCNT : RF := ⟨R.ENC_SNAPMH, 15, 0⟩
/-- ENC_AFIRED. -/
def R.ENC_AFIRED (i : Nat) : Nat := 0x100580 + i * 0x4
/-- ENC_AFIRED.FIRED. -/
def F.ENC_AFIRED_FIRED (i : Nat) : RF := ⟨R.ENC_AFIRED i, 31, 0⟩
/-- ENC_ACMP0. -/
def R.ENC_ACMP0 (i : Nat) : Nat := 0x101000 + i * 0x10
/-- ENC_ACMP0.CMP. -/
def F.ENC_ACMP0_CMP (i : Nat) : RF := ⟨R.ENC_ACMP0 i, 15, 0⟩
/-- ENC_ACMP1. -/
def R.ENC_ACMP1 (i : Nat) : Nat := 0x101004 + i * 0x10
/-- ENC_ACMP1.CMP. -/
def F.ENC_ACMP1_CMP (i : Nat) : RF := ⟨R.ENC_ACMP1 i, 15, 0⟩
/-- ENC_ACMP2. -/
def R.ENC_ACMP2 (i : Nat) : Nat := 0x101008 + i * 0x10
/-- ENC_ACMP2.CMP. -/
def F.ENC_ACMP2_CMP (i : Nat) : RF := ⟨R.ENC_ACMP2 i, 15, 0⟩
/-- ENC_ACTL. -/
def R.ENC_ACTL (i : Nat) : Nat := 0x10100C + i * 0x10
/-- ENC_ACTL.ARM. -/
def F.ENC_ACTL_ARM (i : Nat) : RF := ⟨R.ENC_ACTL i, 15, 15⟩
/-- ENC_ACTL.SRC. -/
def F.ENC_ACTL_SRC (i : Nat) : RF := ⟨R.ENC_ACTL i, 12, 8⟩
/-- ENC_ACTL.FB. -/
def F.ENC_ACTL_FB (i : Nat) : RF := ⟨R.ENC_ACTL i, 7, 0⟩
/-- ENC_ASTAT. -/
def R.ENC_ASTAT (i : Nat) : Nat := 0x103000 + i * 0x4
/-- ENC_ASTAT.FB. -/
def F.ENC_ASTAT_FB (i : Nat) : RF := ⟨R.ENC_ASTAT i, 2, 2⟩
/-- ENC_ASTAT.LATE. -/
def F.ENC_ASTAT_LATE (i : Nat) : RF := ⟨R.ENC_ASTAT i, 1, 1⟩
/-- ENC_ASTAT.FIRED. -/
def F.ENC_ASTAT_FIRED (i : Nat) : RF := ⟨R.ENC_ASTAT i, 0, 0⟩

/-! ### POOL: addresses and fields (R577) -/

/-- POOL_STAT. -/
def R.POOL_STAT : Nat := 0x110000
/-- POOL_STAT.QUIET. -/
def F.POOL_STAT_QUIET : RF := ⟨R.POOL_STAT, 15, 15⟩
/-- POOL_STAT.CFGREJ. -/
def F.POOL_STAT_CFGREJ : RF := ⟨R.POOL_STAT, 5, 5⟩
/-- POOL_STAT.NOBUF. -/
def F.POOL_STAT_NOBUF : RF := ⟨R.POOL_STAT, 4, 4⟩
/-- POOL_STAT.TALON. -/
def F.POOL_STAT_TALON : RF := ⟨R.POOL_STAT, 3, 3⟩
/-- POOL_STAT.EVDROP. -/
def F.POOL_STAT_EVDROP : RF := ⟨R.POOL_STAT, 2, 2⟩
/-- POOL_STAT.AGED. -/
def F.POOL_STAT_AGED : RF := ⟨R.POOL_STAT, 1, 1⟩
/-- POOL_STAT.FULL. -/
def F.POOL_STAT_FULL : RF := ⟨R.POOL_STAT, 0, 0⟩
/-- POOL_KFREE. -/
def R.POOL_KFREE : Nat := 0x110004
/-- POOL_KFREE.LOW. -/
def F.POOL_KFREE_LOW : RF := ⟨R.POOL_KFREE, 31, 16⟩
/-- POOL_KFREE.FREE. -/
def F.POOL_KFREE_FREE : RF := ⟨R.POOL_KFREE, 15, 0⟩
/-- POOL_TFREE. -/
def R.POOL_TFREE : Nat := 0x110008
/-- POOL_TFREE.LOW. -/
def F.POOL_TFREE_LOW : RF := ⟨R.POOL_TFREE, 31, 16⟩
/-- POOL_TFREE.FREE. -/
def F.POOL_TFREE_FREE : RF := ⟨R.POOL_TFREE, 15, 0⟩
/-- POOL_NOBUFCNT. -/
def R.POOL_NOBUFCNT : Nat := 0x11000C
/-- POOL_NOBUFCNT.CNT. -/
def F.POOL_NOBUFCNT_CNT : RF := ⟨R.POOL_NOBUFCNT, 31, 0⟩
/-- POOL_EVDROPCNT. -/
def R.POOL_EVDROPCNT : Nat := 0x110010
/-- POOL_EVDROPCNT.CNT. -/
def F.POOL_EVDROPCNT_CNT : RF := ⟨R.POOL_EVDROPCNT, 31, 0⟩
/-- POOL_AGECNT. -/
def R.POOL_AGECNT : Nat := 0x110014
/-- POOL_AGECNT.CNT. -/
def F.POOL_AGECNT_CNT : RF := ⟨R.POOL_AGECNT, 31, 0⟩
/-- POOL_CONTEST. -/
def R.POOL_CONTEST : Nat := 0x110018
/-- POOL_CONTEST.REFUSED. -/
def F.POOL_CONTEST_REFUSED : RF := ⟨R.POOL_CONTEST, 20, 16⟩
/-- POOL_CONTEST.TALON. -/
def F.POOL_CONTEST_TALON : RF := ⟨R.POOL_CONTEST, 12, 8⟩
/-- POOL_CONTEST.WON. -/
def F.POOL_CONTEST_WON : RF := ⟨R.POOL_CONTEST, 4, 0⟩
/-- POOL_CONTCNT. -/
def R.POOL_CONTCNT : Nat := 0x11001C
/-- POOL_CONTCNT.CNT. -/
def F.POOL_CONTCNT_CNT : RF := ⟨R.POOL_CONTCNT, 31, 0⟩
/-- POOL_QSTAT. -/
def R.POOL_QSTAT : Nat := 0x110020
/-- POOL_QSTAT.FULLSEEN. -/
def F.POOL_QSTAT_FULLSEEN : RF := ⟨R.POOL_QSTAT, 20, 16⟩
/-- POOL_QSTAT.FULL. -/
def F.POOL_QSTAT_FULL : RF := ⟨R.POOL_QSTAT, 4, 0⟩
/-- POOL_PRIV. -/
def R.POOL_PRIV (i : Nat) : Nat := 0x110040 + i * 0x4
/-- POOL_PRIV.SIZE. -/
def F.POOL_PRIV_SIZE (i : Nat) : RF := ⟨R.POOL_PRIV i, 11, 0⟩
/-- POOL_TENT. -/
def R.POOL_TENT (i : Nat) : Nat := 0x110060 + i * 0x4
/-- POOL_TENT.N. -/
def F.POOL_TENT_N (i : Nat) : RF := ⟨R.POOL_TENT i, 7, 0⟩
/-- POOL_USE. -/
def R.POOL_USE (i : Nat) : Nat := 0x110080 + i * 0x4
/-- POOL_USE.PEAK. -/
def F.POOL_USE_PEAK (i : Nat) : RF := ⟨R.POOL_USE i, 31, 16⟩
/-- POOL_USE.NOW. -/
def F.POOL_USE_NOW (i : Nat) : RF := ⟨R.POOL_USE i, 15, 0⟩
/-- POOL_TUSE. -/
def R.POOL_TUSE (i : Nat) : Nat := 0x1100A0 + i * 0x4
/-- POOL_TUSE.NOW. -/
def F.POOL_TUSE_NOW (i : Nat) : RF := ⟨R.POOL_TUSE i, 7, 0⟩

/-! ### SEC: addresses and fields (R397) -/

/-- SEC_STAT. -/
def R.SEC_STAT : Nat := 0x120000
/-- SEC_STAT.BLANK. -/
def F.SEC_STAT_BLANK : RF := ⟨R.SEC_STAT, 15, 15⟩
/-- SEC_STAT.KEYBUF. -/
def F.SEC_STAT_KEYBUF : RF := ⟨R.SEC_STAT, 14, 14⟩
/-- SEC_STAT.LOADED. -/
def F.SEC_STAT_LOADED : RF := ⟨R.SEC_STAT, 1, 1⟩
/-- SEC_STAT.AUTHFAIL. -/
def F.SEC_STAT_AUTHFAIL : RF := ⟨R.SEC_STAT, 0, 0⟩
/-- SEC_KEYIDX. -/
def R.SEC_KEYIDX : Nat := 0x120004
/-- SEC_KEYIDX.AINC. -/
def F.SEC_KEYIDX_AINC : RF := ⟨R.SEC_KEYIDX, 15, 15⟩
/-- SEC_KEYIDX.SLOT. -/
def F.SEC_KEYIDX_SLOT : RF := ⟨R.SEC_KEYIDX, 6, 4⟩
/-- SEC_KEYIDX.WORD. -/
def F.SEC_KEYIDX_WORD : RF := ⟨R.SEC_KEYIDX, 3, 0⟩
/-- SEC_KEYDATA. -/
def R.SEC_KEYDATA : Nat := 0x120008
/-- SEC_KEYDATA.DATA. -/
def F.SEC_KEYDATA_DATA : RF := ⟨R.SEC_KEYDATA, 15, 0⟩
/-- SEC_KEYCMD. -/
def R.SEC_KEYCMD : Nat := 0x12000C
/-- SEC_KEYCMD.LOAD. -/
def F.SEC_KEYCMD_LOAD : RF := ⟨R.SEC_KEYCMD, 15, 15⟩
/-- SEC_KEYCMD.ERASE. -/
def F.SEC_KEYCMD_ERASE : RF := ⟨R.SEC_KEYCMD, 14, 14⟩
/-- SEC_LOCKT. -/
def R.SEC_LOCKT : Nat := 0x120010
/-- SEC_LOCKT.T. -/
def F.SEC_LOCKT_T : RF := ⟨R.SEC_LOCKT, 15, 0⟩
/-- SEC_FAILCNT. -/
def R.SEC_FAILCNT : Nat := 0x120014
/-- SEC_FAILCNT.CNT. -/
def F.SEC_FAILCNT_CNT : RF := ⟨R.SEC_FAILCNT, 31, 0⟩
/-- SEC_SLOT. -/
def R.SEC_SLOT (i : Nat) : Nat := 0x120100 + i * 0x4
/-- SEC_SLOT.CONTROL. -/
def F.SEC_SLOT_CONTROL (i : Nat) : RF := ⟨R.SEC_SLOT i, 15, 15⟩
/-- SEC_SLOT.KEYADMIN. -/
def F.SEC_SLOT_KEYADMIN (i : Nat) : RF := ⟨R.SEC_SLOT i, 14, 14⟩
/-- SEC_SLOTSTAT. -/
def R.SEC_SLOTSTAT (i : Nat) : Nat := 0x120120 + i * 0x4
/-- SEC_SLOTSTAT.KCV. -/
def F.SEC_SLOTSTAT_KCV (i : Nat) : RF := ⟨R.SEC_SLOTSTAT i, 31, 16⟩
/-- SEC_SLOTSTAT.LOADED. -/
def F.SEC_SLOTSTAT_LOADED (i : Nat) : RF := ⟨R.SEC_SLOTSTAT i, 15, 15⟩
/-- SEC_SLOTSTAT.LOCKED. -/
def F.SEC_SLOTSTAT_LOCKED (i : Nat) : RF := ⟨R.SEC_SLOTSTAT i, 14, 14⟩
/-- SEC_SLOTSTAT.FAILS. -/
def F.SEC_SLOTSTAT_FAILS (i : Nat) : RF := ⟨R.SEC_SLOTSTAT i, 3, 0⟩

/-! ### SVC: addresses and fields (R599) -/

/-- SVC_CTL. -/
def R.SVC_CTL : Nat := 0x130000
/-- SVC_CTL.EN. -/
def F.SVC_CTL_EN : RF := ⟨R.SVC_CTL, 15, 15⟩
/-- SVC_BAUD. -/
def R.SVC_BAUD : Nat := 0x130004
/-- SVC_BAUD.DIV. -/
def F.SVC_BAUD_DIV : RF := ⟨R.SVC_BAUD, 15, 0⟩
/-- SVC_STAT. -/
def R.SVC_STAT : Nat := 0x130008
/-- SVC_STAT.BUSY. -/
def F.SVC_STAT_BUSY : RF := ⟨R.SVC_STAT, 15, 15⟩
/-- SVC_STAT.OVERLAP. -/
def F.SVC_STAT_OVERLAP : RF := ⟨R.SVC_STAT, 3, 3⟩
/-- SVC_STAT.TIMEOUT. -/
def F.SVC_STAT_TIMEOUT : RF := ⟨R.SVC_STAT, 2, 2⟩
/-- SVC_STAT.CRCERR. -/
def F.SVC_STAT_CRCERR : RF := ⟨R.SVC_STAT, 1, 1⟩
/-- SVC_STAT.FRAMERR. -/
def F.SVC_STAT_FRAMERR : RF := ⟨R.SVC_STAT, 0, 0⟩
/-- SVC_RXCNT. -/
def R.SVC_RXCNT : Nat := 0x13000C
/-- SVC_RXCNT.CNT. -/
def F.SVC_RXCNT_CNT : RF := ⟨R.SVC_RXCNT, 31, 0⟩
/-- SVC_ERRCNT. -/
def R.SVC_ERRCNT : Nat := 0x130010
/-- SVC_ERRCNT.CNT. -/
def F.SVC_ERRCNT_CNT : RF := ⟨R.SVC_ERRCNT, 31, 0⟩

/-! ### SAFE: addresses and fields (R468) -/

/-- SAFE_ID. -/
def R.SAFE_ID : Nat := 0x140000
/-- SAFE_ID.PART. -/
def F.SAFE_ID_PART : RF := ⟨R.SAFE_ID, 31, 16⟩
/-- SAFE_ID.SIG. -/
def F.SAFE_ID_SIG : RF := ⟨R.SAFE_ID, 7, 0⟩
/-- SAFE_CTL. -/
def R.SAFE_CTL : Nat := 0x140004
/-- SAFE_CTL.HOLDREQ. -/
def F.SAFE_CTL_HOLDREQ : RF := ⟨R.SAFE_CTL, 15, 15⟩
/-- SAFE_CTL.HBEN. -/
def F.SAFE_CTL_HBEN : RF := ⟨R.SAFE_CTL, 14, 14⟩
/-- SAFE_HBPER. -/
def R.SAFE_HBPER : Nat := 0x140008
/-- SAFE_HBPER.PER. -/
def F.SAFE_HBPER_PER : RF := ⟨R.SAFE_HBPER, 15, 0⟩
/-- SAFE_HB. -/
def R.SAFE_HB : Nat := 0x14000C
/-- SAFE_HB.VALUE. -/
def F.SAFE_HB_VALUE : RF := ⟨R.SAFE_HB, 15, 0⟩
/-- SAFE_HBCNT. -/
def R.SAFE_HBCNT : Nat := 0x140010
/-- SAFE_HBCNT.CNT. -/
def F.SAFE_HBCNT_CNT : RF := ⟨R.SAFE_HBCNT, 31, 0⟩
/-- SAFE_ALIVE. -/
def R.SAFE_ALIVE : Nat := 0x140014
/-- SAFE_ALIVE.ALIVE. -/
def F.SAFE_ALIVE_ALIVE : RF := ⟨R.SAFE_ALIVE, 15, 0⟩
/-- SAFE_STATE. -/
def R.SAFE_STATE : Nat := 0x140018
/-- SAFE_STATE.MODE. -/
def F.SAFE_STATE_MODE : RF := ⟨R.SAFE_STATE, 15, 12⟩
/-- SAFE_STATE.THR. -/
def F.SAFE_STATE_THR : RF := ⟨R.SAFE_STATE, 11, 10⟩
/-- SAFE_STATE.SUPER. -/
def F.SAFE_STATE_SUPER : RF := ⟨R.SAFE_STATE, 9, 9⟩
/-- SAFE_STATE.LAPSED. -/
def F.SAFE_STATE_LAPSED : RF := ⟨R.SAFE_STATE, 8, 8⟩
/-- SAFE_STAT. -/
def R.SAFE_STAT : Nat := 0x14001C
/-- SAFE_STAT.SPIERR. -/
def F.SAFE_STAT_SPIERR : RF := ⟨R.SAFE_STAT, 3, 3⟩
/-- SAFE_STAT.LAPSE. -/
def F.SAFE_STAT_LAPSE : RF := ⟨R.SAFE_STAT, 2, 2⟩
/-- SAFE_STAT.PARITY. -/
def F.SAFE_STAT_PARITY : RF := ⟨R.SAFE_STAT, 1, 1⟩
/-- SAFE_STAT.HOLDIN. -/
def F.SAFE_STAT_HOLDIN : RF := ⟨R.SAFE_STAT, 0, 0⟩
/-- SAFE_PARITY. -/
def R.SAFE_PARITY : Nat := 0x140020
/-- SAFE_PARITY.UNIT. -/
def F.SAFE_PARITY_UNIT : RF := ⟨R.SAFE_PARITY, 21, 0⟩
/-- SAFE_VDFLT. -/
def R.SAFE_VDFLT : Nat := 0x140024
/-- SAFE_VDFLT.FAULTED. -/
def F.SAFE_VDFLT_FAULTED : RF := ⟨R.SAFE_VDFLT, 31, 0⟩
/-- SAFE_FANFLT. -/
def R.SAFE_FANFLT : Nat := 0x140028
/-- SAFE_FANFLT.FAULTED. -/
def F.SAFE_FANFLT_FAULTED : RF := ⟨R.SAFE_FANFLT, 7, 0⟩
/-- SAFE_SPIERRCNT. -/
def R.SAFE_SPIERRCNT : Nat := 0x14002C
/-- SAFE_SPIERRCNT.CNT. -/
def F.SAFE_SPIERRCNT_CNT : RF := ⟨R.SAFE_SPIERRCNT, 15, 0⟩
/-- SAFE_RSV. -/
def R.SAFE_RSV (i : Nat) : Nat := 0x140030 + i * 0x4

/-! ### BOOT: addresses and fields (R470) -/

/-- BOOT_BANKS. -/
def R.BOOT_BANKS : Nat := 0x150000
/-- BOOT_BANKS.FWBANK. -/
def F.BOOT_BANKS_FWBANK : RF := ⟨R.BOOT_BANKS, 31, 31⟩
/-- BOOT_BANKS.MATBANK. -/
def F.BOOT_BANKS_MATBANK : RF := ⟨R.BOOT_BANKS, 30, 30⟩
/-- BOOT_BANKS.FW0. -/
def F.BOOT_BANKS_FW0 : RF := ⟨R.BOOT_BANKS, 29, 28⟩
/-- BOOT_BANKS.FW1. -/
def F.BOOT_BANKS_FW1 : RF := ⟨R.BOOT_BANKS, 27, 26⟩
/-- BOOT_BANKS.MAT0. -/
def F.BOOT_BANKS_MAT0 : RF := ⟨R.BOOT_BANKS, 25, 24⟩
/-- BOOT_BANKS.MAT1. -/
def F.BOOT_BANKS_MAT1 : RF := ⟨R.BOOT_BANKS, 23, 22⟩
/-- BOOT_JOURNAL. -/
def R.BOOT_JOURNAL : Nat := 0x150004
/-- BOOT_JOURNAL.STEP. -/
def F.BOOT_JOURNAL_STEP : RF := ⟨R.BOOT_JOURNAL, 15, 8⟩
/-- BOOT_JOURNAL.KIND. -/
def F.BOOT_JOURNAL_KIND : RF := ⟨R.BOOT_JOURNAL, 7, 6⟩
/-- BOOT_JOURNAL.BANK. -/
def F.BOOT_JOURNAL_BANK : RF := ⟨R.BOOT_JOURNAL, 5, 5⟩
/-- BOOT_FWVER0. -/
def R.BOOT_FWVER0 : Nat := 0x150008
/-- BOOT_FWVER0.VER. -/
def F.BOOT_FWVER0_VER : RF := ⟨R.BOOT_FWVER0, 23, 0⟩
/-- BOOT_FWVER1. -/
def R.BOOT_FWVER1 : Nat := 0x15000C
/-- BOOT_FWVER1.VER. -/
def F.BOOT_FWVER1_VER : RF := ⟨R.BOOT_FWVER1, 23, 0⟩
/-- BOOT_MATID0. -/
def R.BOOT_MATID0 : Nat := 0x150010
/-- BOOT_MATID0.MATID. -/
def F.BOOT_MATID0_MATID : RF := ⟨R.BOOT_MATID0, 31, 0⟩
/-- BOOT_MATID1. -/
def R.BOOT_MATID1 : Nat := 0x150014
/-- BOOT_MATID1.MATID. -/
def F.BOOT_MATID1_MATID : RF := ⟨R.BOOT_MATID1, 31, 0⟩
/-- BOOT_SEL. -/
def R.BOOT_SEL : Nat := 0x150018
/-- BOOT_SEL.SELFW. -/
def F.BOOT_SEL_SELFW : RF := ⟨R.BOOT_SEL, 15, 15⟩
/-- BOOT_SEL.SELMAT. -/
def F.BOOT_SEL_SELMAT : RF := ⟨R.BOOT_SEL, 14, 14⟩
/-- BOOT_LAST. -/
def R.BOOT_LAST : Nat := 0x15001C
/-- BOOT_LAST.COUNT. -/
def F.BOOT_LAST_COUNT : RF := ⟨R.BOOT_LAST, 31, 16⟩
/-- BOOT_LAST.CAUSE. -/
def F.BOOT_LAST_CAUSE : RF := ⟨R.BOOT_LAST, 7, 0⟩
/-- BOOT_RSV. -/
def R.BOOT_RSV (i : Nat) : Nat := 0x150020 + i * 0x4

end Sys2Proof.Machine
end

