-- ==== Sys2Proof/Config.lean ====
section
/-!
DEFINITION. Config.lean: what the spec leaves open, as constants with no body. Nothing in Lean can evaluate one or prove a
value of it, so what is proved holds whatever the hardware gives (assumption log 1).
-/
namespace Sys2Proof.Config

/-- The `n`-th free value: a number the spec does not state. The counter `free` of the state says how many were drawn. -/
opaque freeValue : Nat → Nat

/-- The natural logarithm of R198, R200 and R323 where it has no real value: of 0, of a negative number, of an infinity or a NaN.
Elsewhere it is that of `F32.ln`. -/
opaque lnF32 : BitVec 32 → BitVec 32

/-- The exponential of R196 of an infinity or a NaN. Elsewhere it is that of `F32.exp`. -/
opaque expF32 : BitVec 32 → BitVec 32

/-- A value the spec does not state, as a function of the integer it would be computed from (a result outside its format). -/
opaque freeOf : Int → Nat

/-- Whether a quotient `n / d` that is not whole is held as the next integer above it, and not as the one below, where the spec
states a real quantity held as an integer and no rounding; and so for the binary32 value held for a real quantity. -/
opaque roundUp : Int → Int → Bool

/-- The integer that stands for a quotient by 0. -/
opaque overZero : Int → Int

/-- The integer that an infinity or a NaN is held as. -/
opaque roundF32 : BitVec 32 → Int

/-- Coefficient `k` of the fixed three-term window of R92, at any common scale: the spec gives the width of its main lobe and the
height of its side lobes and no coefficients. -/
opaque windowTerm : Nat → Int

/-- The units of a demodulated result's I and Q in one step of the converter's code (R92, R95): the spec states no scale. -/
opaque phasorScale : Nat

/-- The magnitude of a demodulated result at full scale of its range, in the units of I and Q (R82, R87). -/
opaque fullScale : Nat

/-- The units of a raw ratio in one (R108, R109): the spec names its least significant bit and states no scale. -/
opaque rawScale : Nat

/-- The nominal magnitude of the raw ratio of reference `r` on range code `g` at a frequency in kHz (R111). -/
opaque refNominal : Nat → Nat → Nat → Nat

/-- The gain that a sweep makes from the mean raw ratios of the three references, on a range code at a frequency in kHz (R110): the
spec states no reference values and no formula. -/
opaque sweepGain : Nat → Nat → List (Int × Int) → Int × Int

/-- Whether the integrator supplies the VRG balls of port `p` with 3.3 V, else 2.5 V (R635). -/
opaque vrg33 : Nat → Bool

/-- Any other value the spec leaves open, by the name of the place that draws it and the numbers it depends on. -/
opaque freeAt : String → List Nat → Nat

end Sys2Proof.Config
end

