-- ==== Sys2Proof/Machine/State.lean ====
section
/-!
DEFINITION. Machine/State.lean: everything the spec gives the module, as plain data. What a register shows is kept in the
register file; each unit's own structure holds what no register shows.
-/
namespace Sys2Proof.Machine

/-- Why the machine stops. Each case is one that R576 calls undefined, with no effect among its choices. -/
inductive Fault where
  /-- A write selected a KP bit with a value other than the one it reads (R454, R576). Raised by every masked write. Safe:
  nothing is claimed of what follows. -/
  | keepBitChanged
  /-- A host wrote ENC_ACMP or ENC_ACTL of alarm slots 0 to 63 (R60, R576). Safe. -/
  | alarmSlotOwned
  /-- POOL_PRIV or POOL_TENT was written while POOL_STAT.QUIET is 0 (R572, R576). Safe. -/
  | poolNotQuiet
  /-- A ring of more than one module whose HEAD balls are not one low and the rest high (R526, R576). Safe. -/
  | ringTwoHeads
  /-- A ring of more than eight modules (R525, R576). Safe. -/
  | ringTooLong
  /-- An enumeration frame, which goes downstream, came in on RL-DN: ring ports are not cabled RL-DN to RL-UP (R525, R576). Safe. -/
  | ringMiscabled
  /-- SUP_CS_N was high for less than 200 ns between two transactions (R473, R576). Safe. -/
  | spiGap
  /-- A ball was taken beyond its absolute maximum rating (R642, R643, R576). Raised by the commands that bring a ball's voltage. Safe. -/
  | ratingExceeded
deriving DecidableEq, Repr

/-- Why a command has no meaning. -/
inductive Refusal where
  /-- The command is not modelled yet. Raised by an arm of `exec`. Safe: nothing is claimed of it. -/
  | notModelled (mnemonic : String)
deriving DecidableEq, Repr

/-! ### Packets and outputs -/

/-- A working copy in a path domain (R504): the frame sequence counter of a session record, a next-hop ARP entry, a receive filter
register, the place of a field bus in its transmit schedule, and the cycle that a ring counts. -/
inductive CopyKey where
  | txSeq (i : Nat)
  | hop (ip : Nat)
  | filter (a : Nat)
  | schedule
  | cycle
deriving DecidableEq, Repr

/-- An image of working copies; what it does not list stands as the master state holds it. -/
abbrev Copies := List (CopyKey × Nat)

/-- A packet the module sends (R359). `ip` and `port` are the recorded address, `hop` the next-hop entry in force (R357), `wt` the
wall time with which the module stamps it (R2, assumption log 78). -/
structure Pkt where
  ip : Nat
  port : Nat
  hop : Option Nat
  kind : Nat
  session : Nat
  seq : Nat
  tagw : Nat
  opcode : Nat
  status : Nat
  payload : List Byte
  wt : Nat := 0
deriving DecidableEq, Repr

/-- What leaves the module at its links and balls, oldest first. -/
inductive Out where
  /-- A packet, and the IPv4 datagram that carries it (R357). -/
  | packet (p : Pkt) (datagram : List Byte)
  | arpReply (ip mac : Nat)
  | arpAnnounce (ip : Nat)
  | arpRequest (ip : Nat)
  | icmpReply (ip : Nat) (data : List Byte)
  | canStart (bus path : Nat) (f : CanFrame)
  | ring (path : Nat) (bytes : List Byte)
  /-- An enumeration frame: the next address, the wall time and the HEAD balls of the modules passed. -/
  | enumFrame (next wall : Nat) (heads : List Bool)
  | spi (bytes : List Byte)
  | uart (bytes : List Byte)
  /-- SVC_TX goes high before its answer is whole (R599). -/
  | uartCut
  | jtag (instruction : Nat) (bits : Nat)
  /-- The management of port `port`'s PHY: Mbit/s, full duplex, internal clock delays (R635). -/
  | phySetup (port mbit : Nat) (full delays : Bool)
deriving DecidableEq, Repr

/-- Buffers a holder took (R560): `src` is 0 for the client's private pool, 1 for the Kitty, 2 for the Talon, 3 for the Talon in
recovery (R522). -/
structure BufRef where
  client : Nat
  src : Nat
  n : Nat
deriving DecidableEq, Repr

/-! ### Command protocol: the CMD and SEC units -/

/-- A frame waiting in a session's reply queue (R567 level 3). -/
structure QFrame where
  pkt : Pkt
  since : Nat
  bufs : Option BufRef
  event : Bool
  /-- For a completion: the end of its class bound (R385). -/
  deadline : Option Nat
  /-- For a completion: the TAG word of its command, which is outstanding until the frame leaves (R379). -/
  tag : Option Nat := none
deriving DecidableEq, Repr

/-- A held completion (R382). -/
structure Held where
  tag : Nat
  pkt : Pkt
  since : Nat
  bufs : Option BufRef
deriving DecidableEq, Repr

/-- An outstanding tag (R379): the command that carries it, whether its ACK has left, whether its function has started it, its
buffers, and its place in the order of acceptance (R30). -/
structure OutTag where
  tagw : Nat
  opcode : Nat
  acked : Bool
  started : Bool
  body : List Byte
  recvAt : Nat
  intake : Option BufRef
  reserve : Option BufRef
  order : Nat := 0
  /-- The command has finished and its completion waits to leave (R379). -/
  done : Bool := false
  /-- Time in which its transfer waited for the host, which its bound does not count (R385). -/
  waited : Nat := 0
deriving DecidableEq, Repr

/-- A bulk transfer (R390 to R393). For a transfer out `data` is what is sent; for one into the module, what was received in
order. `object` is the opcode's own operand (a table, a bank). -/
structure Bulk where
  tagw : Nat
  opcode : Nat
  out : Bool
  len : Nat
  data : List Byte
  /-- ACKED of the receiver. -/
  acked : Nat
  /-- LIMIT of the receiver. -/
  limit : Nat
  /-- Next offset to send. -/
  next : Nat
  /-- Packets received in order since the last BULKWIN. -/
  run : Nat
  /-- When the wait for the host began (R392). -/
  waitSince : Option Nat
  /-- When LIMIT was reached without advancing (R391). -/
  limitSince : Option Nat
  /-- The ring slot's sequence number a transfer out of a ring reads (R404). -/
  ringSeq : Nat
  /-- For a transfer into the module: data received beyond a gap, by offset (R391). -/
  ahead : List (Nat × List Byte) := []
deriving DecidableEq, Repr

/-- The three states of a session record (R363). -/
inductive SessState where
  | free
  | pending
  | opened
deriving DecidableEq, Repr

/-- A session record (R363 to R373). -/
structure Session where
  st : SessState := .free
  sid : Nat := 0
  observer : Bool := false
  slot : Nat := 0
  /-- The KEYADMIN right the session opened with (R375). -/
  keyAdmin : Bool := false
  ip : Nat := 0
  port : Nat := 0
  hop : Option Nat := none
  grant : Nat := 0
  h : Nat := 0
  /-- The sequence number given last, and the one of the packet that left last (CMD_STXSEQ). -/
  txSeq : Nat := 0
  sent : Nat := 0
  evMask : Nat := 0
  evCount : Nat := 0
  challenge : List Byte := []
  pendingSince : Nat := 0
  lastTaken : Nat := 0
  tags : List OutTag := []
  held : List Held := []
  queue : List QFrame := []
  bulk : List Bulk := []
deriving DecidableEq, Repr

/-- A key slot's key and failures (R374). The rights and the flags are in SEC_SLOT and SEC_SLOTSTAT. -/
structure KeySlot where
  key : Option (List Byte) := none
  fails : List Nat := []
  lockedUntil : Option Nat := none
deriving DecidableEq, Repr

/-- A command of session 0x0000 that waits for its core. -/
structure EarlyCmd where
  ip : Nat
  port : Nat
  tagw : Nat
  opcode : Nat
  body : List Byte
  recvAt : Nat
  intake : Option BufRef
  reserve : Option BufRef
  order : Nat := 0
deriving DecidableEq, Repr

/-- The session layer and the key store. -/
structure CmdS where
  sessions : List Session := List.replicate 4 {}
  nextSid : Nat := 1
  slots : List KeySlot := List.replicate 8 {}
  keyBuf : List (Nat × Nat) := []
  keyBufBy : Option Nat := none
  keyBufAt : Nat := 0
  /-- When the command reset that RESET arranged is due (R406). -/
  resetAt : Option Nat := none
  /-- When the next hops were last resolved, and the entries held: address and MAC (R357). -/
  arpAt : Nat := 0
  arp : List (Nat × Nat) := []
  /-- Commands of session 0x0000 that wait for their core. -/
  early : List EarlyCmd := []
  /-- Frames of session 0x0000, and of sessions that have closed since, that wait for the port (R380, R383). -/
  outq : List QFrame := []
  /-- Commands accepted so far (R30). -/
  accepted : Nat := 0
  /-- Commands of closed sessions that run on: the place of each in the order of acceptance, and the buffers of its datagram (R373, R562). -/
  orphans : List (Nat × BufRef) := []
deriving DecidableEq, Repr

/-! ### POOL -/

/-- A cluster event that waits in the ring's queue for room in its session's reply queue (R567 levels 3 and 4, R569): the record and ID
of the session, the event's code, its payload with its count, and the buffer it holds. -/
structure RingWait where
  session : Nat
  sid : Nat
  code : Nat
  payload : List Byte
  buf : BufRef
deriving DecidableEq, Repr

/-- The pools beside their registers (R556): what each client holds, the sizes and entitlements in force, and the lowest counts of
POOL_STATUS. -/
structure PoolS where
  privUsed : List Nat := [0, 0, 0, 0, 0]
  kittyUsed : List Nat := [0, 0, 0, 0, 0]
  talonUsed : List Nat := [0, 0, 0, 0, 0]
  /-- Talon buffers lent to recovery, by link (R522). -/
  recovery : List Nat := [0, 0, 0, 0, 0, 0]
  priv : List Nat := [0x40, 0x100, 0x40, 0x200, 0x100]
  tent : List Nat := [0x10, 0x10, 0x08, 0x00, 0x08]
  statKLow : Nat := 8192
  statTLow : Nat := 128
  /-- The requests that reached the Kitty in the arbiter cycle `cycle`, oldest first (R563): the client, and how each was settled (0 from
  the Kitty, 8 from the Talon, 16 refused); and whether that cycle was counted as a contest. -/
  reqs : List (Nat × Nat) := []
  cycle : Nat := 0
  contest : Bool := false
  /-- Cluster events that wait in the ring's queue (R567 level 4). -/
  ringWaits : List RingWait := []
deriving DecidableEq, Repr

/-! ### ENC -/

/-- What a lane holds beside its registers. -/
structure EncLane where
  /-- Position latched at the last forward Z pulse (R69). -/
  index : Option Int := none
  lastStroke : Nat := 0
  runSince : Nat := 0
  /-- Strokes since power-on, and the counts at which quadrature errors came (R65). -/
  strokes : Nat := 0
  qerrAt : List Nat := []
  zForward : Nat := 0
  zSeen : Bool := false
  zFails : Nat := 0
  lostAt : Option Nat := none
  substAt : Nat := 0
  /-- Strokes substituted since `substAt`. -/
  substN : Nat := 0
  /-- Consecutive valid strokes and their sum while the 64-stroke test of R68 runs. -/
  resyncRun : Nat := 0
  resyncSum : Int := 0
  fwdSecond : Nat := 0
  lostRaised : Bool := false
  /-- When the last valid edge of A came, and of B (R42). -/
  edgeA : Option Nat := none
  edgeB : Option Nat := none
  /-- The lead position exceeds the position by more than ENC_REVLIM (R63). -/
  revx : Bool := false
deriving DecidableEq, Repr

/-- The ENC unit. -/
structure EncS where
  lanes : List EncLane := List.replicate 16 {}
  /-- Armed alarm slots: slot, elapsed time of arming, FB taken at arming (R59). -/
  armed : List (Nat × Nat × Nat) := []
  /-- Slots fired and not yet serviced by RT1, with the 10 ns sample in which each fired: by sample, then by slot (R55). -/
  fired : List (Nat × Nat) := []
  rateAt : Nat := 0
  /-- Elapsed time of the last counted event of MAINS_SYNC, or of the release of the reset. -/
  mainsLast : Nat := 0
  mainsAny : Bool := false
  mainsRealPrev : Bool := false
  mainsRestart : Bool := false
  /-- Elapsed time of the last free-run increment, and of the next one. -/
  freeLast : Nat := 0
  freeNext : Nat := 0
deriving DecidableEq, Repr

/-! ### TOMO and AFT -/

/-- The settings latched for a frame (R89). -/
structure Plan where
  freq : List Nat := []
  amp : List Nat := []
  bankEn : Nat := 0
  recipTol : Nat := 0
  efCnt : Nat := 0
  burst : Bool := false
  /-- Banks that produce results in this frame (R81, R104). -/
  producing : List Nat := []
  since : Nat := 0
deriving DecidableEq, Repr

/-- One sense channel's result of a step: its I and Q of the four tones (R92), whether it is overloaded under R83, and whether its
magnitude stayed below 8 % of full scale at every tone (R87). -/
structure ChRes where
  ch : Nat
  ovl : Bool
  low : Bool
  iq : List (Int × Int)
deriving DecidableEq, Repr

/-- What the front-end dies return for a step (R95): the channels' results, the drive-monitor phasor of each tone, whether the drive
stage reached its current limit in the dwell (R84), the guards that lost compliance in it (R85), and the dies whose strobe
was out of its slot or whose link repeated a transfer (AFT_STAT). -/
structure StepResult where
  results : List ChRes
  drive : List (Int × Int)
  driveOvl : Bool
  guards : List Nat
  syncErr : List Nat
  linkErr : List Nat
deriving DecidableEq, Repr

/-- One step of a frame as it ran (R96): the electrode driven, the guard mode, the range words read, the results. -/
structure StepRun where
  k : Nat
  drv : Option Nat
  gmode : Bool
  /-- The range words of the step that are not 0, by 16 × die + group. -/
  codes : List (Nat × Nat)
  r : StepResult
deriving DecidableEq, Repr

/-- The values the ENC unit latches at the start strobe (R76). -/
structure Stamp where
  wall : Nat := 0
  mains : Nat := 0
  pos : List Int := []
  lead : List Int := []
  flags : List Nat := []
deriving DecidableEq, Repr

/-- A burst or frame in progress (R95 to R103). -/
structure Frame where
  plan : Plan := {}
  burst : Bool := false
  /-- The burst step or frame step that runs next. -/
  step : Nat := 0
  /-- Elapsed time of the strobe of step 0 of the burst or of the frame (R95, R100). -/
  began : Nat := 0
  /-- The aligned instant of wall time that a burst leads to (R99); 0 once wall time is stepped. -/
  wallAt : Nat := 0
  burstRuns : List StepResult := []
  runs : List StepRun := []
  stamp : Stamp := {}
  fseq : Nat := 0
  single : Bool := false
  /-- The electrodes that are faulted in this frame (R86). -/
  faulted : List Nat := []
deriving DecidableEq, Repr

/-- One pair of a frame record: (loss, capacitance) of each tone and the flags of R116. -/
structure PairRec where
  vals : List (Int × Int) := []
  flags : Nat := 0
deriving DecidableEq, Repr

/-- A frame record (R116). -/
structure FrameRec where
  /-- The first byte of its slot in DRAM (R115). -/
  place : Nat := 0
  fflags : Nat := 0
  fseq : Nat := 0
  stamp : Stamp := {}
  plan : Plan := {}
  geomId : Nat := 0
  nmiss : Nat := 0
  nrecip : Nat := 0
  novl : Nat := 0
  temp0 : Int := 0
  temp1 : Int := 0
  wtClose : Nat := 0
  /-- Elapsed time of the frame's close. -/
  closedAt : Nat := 0
  pairs : List PairRec := []
  base : List PairRec := []
deriving DecidableEq, Repr

/-- A calibration sweep (R110): its start, which may be still to come (R346), and the frequencies of the four tones, in kHz, once they
are latched at it. -/
structure Sweep where
  since : Nat := 0
  freq : Option (List Nat) := none
deriving DecidableEq, Repr

/-- The tomography front end beside its registers. -/
structure TomoS where
  frame : Option Frame := none
  single : Bool := false
  prevPlan : Option Plan := none
  /-- The frequencies of the four tones at the last plan latch (R94), in kHz. -/
  latched : Option (List Nat) := none
  /-- Range words that are not 0, by 4096 × die + 16 × step + group. -/
  ranges : List (Nat × Nat) := []
  /-- (step, channel) whose code changed at the last frame close (R87). -/
  rngChanged : List (Nat × Nat) := []
  /-- (step × 256 + channel, consecutive low frames) (R87). -/
  lowRuns : List (Nat × Nat) := []
  /-- (electrode, consecutive frames with a drive overload) (R86). -/
  driveRuns : List (Nat × Nat) := []
  geom : Option (List Byte) := none
  cal : Option (List Byte) := none
  calNext : Option (List Byte) := none
  /-- The record of the frame that closed, not yet in its slot. -/
  closed : Option FrameRec := none
  nextSlot : Nat := 0
  ring : List (Nat × FrameRec) := []
  sweep : Option Sweep := none
deriving DecidableEq, Repr

/-! ### PCL -/

/-- An explicit record lock (R188): of a lot or of a parcel, held by a session record until a time. -/
structure RecLock where
  parcel : Bool
  key : Nat
  holder : Nat
  expires : Nat
deriving DecidableEq, Repr

/-- A lock that a field request holds on a record while its operation is applied (R189): the bus and the node, when it was taken and
when it ends, and the record before and after the operation, which a contest in the same arbiter cycle undoes (R190). -/
structure FieldLock where
  parcel : Bool
  key : Nat
  bus : Nat
  node : Nat
  since : Nat
  expires : Nat
  before : List Byte
  after : List Byte
  /-- The first ten bytes of the request, which its response repeats (R193). -/
  req : List Byte := []
deriving DecidableEq, Repr

/-- A lane of the Ledger: where the count of R50 starts, the count, and the factor and interval that fixed the origin. -/
structure LaneLedger where
  origin : Int := 0
  k : Nat := 0
  factor : Nat := 0
  interval : Nat := 0
  cutting : Bool := false
  /-- The lane's last planned speed in mm/s, binary32 (R198). -/
  speed : Word := 0
deriving DecidableEq, Repr

/-- A set of the Ledger's tables as it stands in NV (R202). -/
structure LedgerSet where
  parcels : List (List Byte)
  lots : List (Nat × List Byte)
  /-- Lots whose record is marked as damaged (R25). -/
  lotsDamaged : List Nat
  /-- Of each lot with retired parcels: the sum and the count of their MLAST, which MDIS of its record is made of (R181). -/
  mdis : List (Nat × Nat × Nat)
  /-- Each lane's origin and count k. -/
  lanes : List (Int × Nat)
  leads : List Int
deriving DecidableEq, Repr

/-- The Ledger and the Residence Planner beside their registers. Parcel records are 128 bytes (R179), lot records 256 (R181). -/
structure PclS where
  parcels : List (List Byte) := []
  lots : List (Nat × List Byte) := []
  /-- Lots whose record is marked as damaged (R25); the record itself has no place for the mark. -/
  lotsDamaged : List Nat := []
  locks : List RecLock := []
  fieldLocks : List FieldLock := []
  /-- The records that host commands took, with the elapsed time: parcel or lot, its key, when (R188, R190). -/
  hostTook : List (Bool × Nat × Nat) := []
  lanes : List LaneLedger := List.replicate 16 {}
  ckptAt : Nat := 0
  mapsSince : Nat := 0
  runs : Nat := 0
  /-- Of each lot with retired parcels: the sum and the count of their MLAST (MDIS of R181). -/
  mdis : List (Nat × Nat × Nat) := []
  /-- The latest map the planner can use (R195): when it was published, and the parcels it sighted. -/
  planMap : Option (Nat × List Nat) := none
deriving DecidableEq, Repr

/-! ### SYS -/

/-- A transition in progress (R334): its target, whether it is a release, the command it serves and how far it got. -/
structure ModeJob where
  target : Nat
  release : Bool
  serves : Option (Nat × Nat)
  step : Nat
deriving DecidableEq, Repr

/-- A mode request that waits for RT1 (R29, R334): its target, whether a control session makes it, and the command it serves. -/
structure ModeAsk where
  target : Nat
  ctl : Bool
  serves : Option (Nat × Nat)
deriving DecidableEq, Repr

/-- A calibration sequence (R346): when CALIBRATE was entered, whether it restores the Ledger, and what still runs. -/
structure CalJob where
  since : Nat
  cold : Bool
  sweep : Bool
  sine : Bool
  matrix : Bool
  stat : Nat
  /-- The matrix bank in force at its entry, which it copies (R128, R352). -/
  bank : Nat := 0
deriving DecidableEq, Repr

/-- The SYS unit beside its registers. -/
structure SysS where
  job : Option ModeJob := none
  /-- Requests that came while RT1 was down, in their order. -/
  asks : List ModeAsk := []
  cal : Option CalJob := none
  /-- The sequence of this CALIBRATE has ended. -/
  calEnded : Bool := false
  causes : List Nat := []
  flowSince : Nat := 0
  /-- Each MODE_REQ for HOLD that HOLD_ENTRY completes: record and tag word. -/
  holdServes : List (Nat × Nat) := []
  /-- MODE_HOLD is owed once RT1 runs again (R338). -/
  holdEventOwed : Bool := false
  /-- Start-up has reached step 4 of R346 since the last reset, and step 6. -/
  started : Bool := false
  restored : Bool := false
  coldStart : Bool := true
  /-- What the start-up of the CALIBRATE since the cold reset restored of the Ledger: the set with the lead positions that served it, or
  that there was no complete set (R202, R339). -/
  coldSet : Option (Option (LedgerSet × List Int)) := none
deriving DecidableEq, Repr

/-! ### REC -/

/-- A complex binary32 value. -/
structure Cplx where
  re : Word := 0x3F800000
  im : Word := 0
deriving DecidableEq, Repr

/-- The settings latched at a dispatch (R138). -/
structure RecLatch where
  niter : Nat := 8
  alpha : Nat := 0
  lambda : Nat := 0
  wsingle : Nat := 0
  wrecip : Nat := 0
  spanMin : Nat := 0
  missMax : Nat := 0
  warm : Bool := false
  crop : List Nat := []
  offs : List Int := []
  /-- REC_CTL.OVRLIM. -/
  ovrLim : Nat := 0
  /-- Each lane's model table, none where it is empty (R138, R151). -/
  models : List (Option (List Byte)) := []
deriving DecidableEq, Repr

/-- The frame in the engine's hand (R140). -/
structure Hand where
  frame : FrameRec := {}
  latch : RecLatch := {}
  mode : Nat := 0
  /-- SYS_MODE.HFROM at dispatch (R182). -/
  hfrom : Nat := 0
  /-- Elapsed time of the frame's close (R143). -/
  closedAt : Nat := 0
  /-- Elapsed time of its dispatch (R137, R140). -/
  dispatchedAt : Nat := 0
  kappa : List Cplx := []
  basex : Bool := false
  baseRes : Nat := 0
  warmStart : Bool := false
  /-- A poisoned word reached the engine while RT0 was down: RT0 drops the frame when it runs again (R25, R29). -/
  poisoned : Bool := false
  /-- A new mode or a power loss ended the frame while RT0 was down: RT0 drops it when it runs again (R29, R142). -/
  stopped : Bool := false
  /-- The eight right-hand sides, tone × 2 + component, of every pair (R132). -/
  rhs : List (List Word) := []
deriving DecidableEq, Repr

/-- One voxel of a map (R167). -/
structure Vox where
  eps : List (Nat × Nat) := []
  moist : Nat := 0xFFFF
  temp : Nat := 0x8000
  dens : Nat := 0xFFFF
  flags : Nat := 0
deriving DecidableEq, Repr

/-- One lane summary of a map (R167). -/
structure LaneSum where
  nvox : Nat := 0
  mmean : Nat := 0xFFFF
  mmin : Nat := 0xFFFF
  mmax : Nat := 0xFFFF
  tmean : Nat := 0x8000
  dmean : Nat := 0xFFFF
  bound : Nat := 0xFFFF
  offset : Nat := 0
  lflag : Nat := 0
  table : Nat := 0
deriving DecidableEq, Repr

/-- A map (R167), with where it lies in DRAM (R166), the solved values that warm-start the next (R137), the stamp flags of its frame
and HFROM at its dispatch. -/
structure MapRec where
  mflags : Nat := 0
  mseq : Nat := 0
  /-- The copy of MSEQ that is written last. -/
  mseqEnd : Nat := 0
  /-- The first byte of its slot in DRAM. -/
  place : Nat := 0
  hfrom : Nat := 0
  fseq : Nat := 0
  wt : Nat := 0
  wtpub : Nat := 0
  matId : Nat := 0
  refId : Nat := 0
  niter : Nat := 0
  mode : Nat := 0
  alpha : Nat := 0
  lambda : Nat := 0
  leads : List Int := []
  temp0 : Int := 0
  temp1 : Int := 0
  baseRes : Nat := 0
  lanes : List LaneSum := []
  vox : List Vox := []
  x : List (List Int) := []
  stampFlags : List Nat := []
  pubAt : Nat := 0
deriving DecidableEq, Repr

/-- A lane's anchor (R160): when, at which die temperatures, and the bound it starts from (R161, R164). -/
structure Anchor where
  since : Nat
  t0 : Int
  t1 : Int
  /-- The bound it starts from after a restore (R164); `none`: REC_ANCHU. -/
  base : Option Nat
deriving DecidableEq, Repr

/-- A reference capture (R153). -/
structure Capture where
  full : Bool := false
  refId : Nat := 0
  epsf : List Nat := []
  mref : Nat := 0
  tref : Nat := 0
  /-- TOMO_FSEQ at its start: frames after that one are averaged (R419). -/
  after : Nat := 0
  left : Nat := 0
  taken : Nat := 0
  /-- Frames averaged that had a burst. -/
  baseTaken : Nat := 0
  /-- Per pair: frames used, and the sums of (loss, capacitance) of each tone. -/
  sums : List (Nat × List (Int × Int)) := []
  baseSums : List (List (Int × Int)) := []
  plan : Plan := {}
  temp0 : Int := 0
  temp1 : Int := 0
  done : Bool := false
deriving DecidableEq, Repr

/-- The rolling state as it stands in NV (R164). -/
structure RollState where
  /-- The number of the reference in force when it was saved: an anchor belongs to the reference it was taken under (R163). -/
  refNo : Nat
  base : List Cplx
  offs : List Nat
  anchors : List (Option Anchor)
  bounds : List Nat
deriving DecidableEq, Repr

/-- The reconstruction engine beside its registers. -/
structure RecS where
  /-- The matrix file in DRAM (R125). -/
  mat : Option (List Byte) := none
  /-- Matrix blocks to copy again from NV before the next dispatch (R131). -/
  reload : List Nat := []
  ref : Option (List Byte) := none
  /-- The number of the reference in force among those committed. -/
  refNo : Nat := 0
  refNext : Option (List Byte) := none
  refFullCapture : Bool := false
  /-- Model tables that are not empty. -/
  models : List (Nat × List Byte) := []
  /-- The frame record passed by the front end and not yet dispatched or skipped. -/
  waiting : Option FrameRec := none
  hand : Option Hand := none
  ring : List (Nat × MapRec) := []
  nextSlot : Nat := 0
  last : Option MapRec := none
  coldLeft : Nat := 0
  forceCold : Bool := true
  drops : Nat := 0
  /-- The baseline terms of R155, by bank × 4 + tone. -/
  base : List Cplx := List.replicate 128 {}
  anchors : List (Option Anchor) := List.replicate 16 none
  capture : Option Capture := none
  rollAt : Nat := 0
deriving DecidableEq, Repr

/-! ### VDRV -/

/-- A closing search (R266): when the switch opened, averages seen, the last average and the last slope. -/
structure Closing where
  since : Nat
  k : Nat := 0
  avg : Nat := 0
  slope : Int := 0
deriving DecidableEq, Repr

/-- What a valve channel did in the period that runs, as its reload set it (R258, R269, R273). -/
structure ValveRan where
  phase : Nat := 0
  duty : Nat := 0
  target : Nat := 0
  amp : Nat := 0
  /-- The switch waited for the current to fall (R260). -/
  wait : Bool := false
deriving DecidableEq, Repr

/-- A valve channel beside its registers (R247 to R276). -/
structure ValveCh where
  /-- Active setpoint (R257). -/
  active : Nat := 0
  /-- D as taken at the last reload (R252). -/
  demand : Bool := false
  /-- A command of R253 waits for the reload. -/
  cmd : Bool := false
  /-- The next reload with D = 1 starts from boost (R251, R274 to R276). -/
  restart : Bool := false
  /-- Boost current, boost time and hold current as latched at the last command. -/
  boost : Nat := 0
  holdI : Nat := 0
  /-- As VDRV_CSTAT.PHASE. -/
  phase : Nat := 0
  /-- Periods of boost left. -/
  left : Nat := 0
  /-- Highest current seen in this boost phase, in mA. -/
  peak : Nat := 0
  /-- The switch stays off until the current has fallen to the target (R260). -/
  waitFall : Bool := false
  /-- Dither phase in 1/20,000 of a cycle. -/
  dither : Nat := 0
  target : Nat := 0
  duty : Nat := 0
  /-- Consecutive periods at 97 % with the current below half the target. -/
  openRun : Nat := 0
  /-- Consecutive periods with the current within 5 % of the target. -/
  steady : Nat := 0
  /-- Since when the channel is in hold or in its proportional phase. -/
  since : Nat := 0
  reloadAt : Option Nat := none
  ran : ValveRan := {}
  /-- The 10 ns cycle of the latest write of SET, ON or SETON, what SET, ON, SETON and `cmd` were before it, how many writes and commands
  it brought, and whether one is a command of R253 (R257). -/
  cycle : Option Nat := none
  wasSet : Nat := 0
  wasOn : Bool := false
  wasSeton : Bool := false
  wasCmd : Bool := false
  writes : Nat := 0
  cmdNew : Bool := false
  /-- A pair's comparator trip that may yet become PSHORT: leg, fault code and instant (R272). -/
  trip : Option (Nat × Nat × Nat) := none
  search : Option Closing := none
  /-- Winding and body of the coil model, in °C (R268). -/
  tw : ℚ := 0
  tb : ℚ := 0
deriving DecidableEq, Repr

/-- The valve drive. -/
structure ValveS where
  chs : List ValveCh := List.replicate 32 {}
  /-- Start of the first bank period, and of the latest one of each bank (R248). -/
  anchor : Option Nat := none
  banks : List (Option Nat) := List.replicate 4 none
  tickAt : Nat := 0
deriving DecidableEq, Repr

/-! ### FAN -/

/-- A blower channel beside its registers (R279 to R294). -/
structure FanCh where
  /-- Direction of the applied duty's change at the last reload. -/
  dir : Int := 0
  onStart : Nat := 0
  /-- On-time of this period in ns, without a stretch. -/
  onLen : Nat := 0
  reloadAt : Option Nat := none
  /-- When the next period starts. -/
  nextAt : Option Nat := none
  lastEdge : Option Nat := none
  /-- The last accepted edge of this on-time. -/
  pairEdge : Option Nat := none
  pairSeen : Bool := false
  measuring : Bool := false
  periodNo : Nat := 0
  stretchDone : Bool := false
  /-- On-time that the next period is shortened by, in ns (R286). -/
  owed : Nat := 0
  misses : Nat := 0
  /-- Since when the stall test's grace time counts (R288). -/
  graceAt : Nat := 0
  /-- Mean current in mA and length in ns of the latest periods, newest first. -/
  means : List (Nat × Nat) := []
  openRun : Nat := 0
  /-- The 10 ns cycle of the latest write of FAN_SET, what it held before, and how many writes the cycle brought (R281). -/
  cycle : Option Nat := none
  wasSet : Nat := 0
  writes : Nat := 0
deriving DecidableEq, Repr

/-- The blower drive: its channels and the period in force, in cycles of 10 ns. -/
structure FanS where
  chs : List FanCh := List.replicate 8 {}
  period : Nat := 0
deriving DecidableEq, Repr

/-! ### AFF -/

/-- The settings a field measurement takes at its make (R327). -/
structure FieldLatch where
  wire : Nat
  /-- AFF_ICFG.LFIX. -/
  fix : Bool
  settle : Nat
  lin : Bool
  table : Option (List Byte)
  partner : Nat
  lead : Nat
  leadK : Nat
  shortR : Nat
  leakThr : Nat
  leakMin : Nat
  /-- AFF_ICFG.EXC. -/
  exc : Nat
deriving DecidableEq, Repr

/-- A measurement in progress on a converter (R303, R307, R316): 0 DC, 1 return lead, 2 insulation, 3 element by sine, 4 current
loop, 5 voltage. -/
structure FieldJob where
  kind : Nat
  input : Nat
  recovery : Bool := false
  /-- When its break was. -/
  since : Nat
  latch : Option FieldLatch := none
  /-- The windows' lengths in µs, taken as each starts. -/
  p1 : Option Nat := none
  p2 : Option Nat := none
  reversed : Option Nat := none
  notchx : Bool := false
  /-- The insulation measured before it was too low. -/
  leak : Bool := false
  /-- Its input was disabled, became a sense lead or lost its group meanwhile: nothing is published (R312, R328). -/
  void : Bool := false
deriving DecidableEq, Repr

/-- A converter: its measurement, the inputs it has still to visit in this cycle, and in a sine pass the group it is in, whether
that group's return lead was dealt with, and the inputs whose element it measured, with the lead that R301 writes for each. -/
structure FieldConv where
  job : Option FieldJob := none
  rest : List Nat := []
  group : Option Nat := none
  retDone : Bool := false
  sined : List (Nat × Option Nat) := []
deriving DecidableEq, Repr

/-- A faulted resistive input in recovery (R319): when its last recovery began, whether the next is due, and whether the last
found no fault. -/
structure FieldRecov where
  input : Nat
  since : Option Nat
  due : Bool
  clean : Bool
deriving DecidableEq, Repr

/-- The field front end beside its registers. -/
structure AffS where
  convs : List FieldConv := List.replicate 8 {}
  cycle : Option Nat := none
  lastStart : Option Nat := none
  sineReq : Bool := false
  sine : Bool := false
  sineCut : Bool := false
  /-- The sine pass of the calibration sequence was cut short (R348). -/
  sineShort : Bool := false
  recov : List FieldRecov := []
  /-- Loop inputs whose shunt R308 opened. -/
  shuntOpen : List Nat := []
  /-- Linearisation tables that are not empty. -/
  lins : List (Nat × List Byte) := []
  /-- The inputs whose RES is signed, by the settings of the measurement that wrote it (R322, R325): at reset the voltage inputs. -/
  signedRes : List Nat := [216, 217, 218, 219, 220, 221, 222, 223]
deriving DecidableEq, Repr

/-- An aeration bin (R436, R437). -/
structure AerBin where
  en : Bool := false
  first : Nat := 0
  nodes : Nat := 1
  ambient : Nat := 0
  fan : Nat := 0
  dton : Int := 0
  dtoff : Int := 0
  run : Nat := 0
  shortest : Nat := 0
  state : Nat := 0
  since : Nat := 0
  valid : Nat := 0
  high : Int := 0
  amb : Int := 0
  /-- Nanoseconds run in all. -/
  ran : Nat := 0
  /-- The state held when the fan object was last written; the next cycle in STORE writes it again (R437). -/
  owed : Bool := false
deriving DecidableEq, Repr

/-! ### FLD -/

/-- A message accepted into a window (R483): its object, its frame as latched, its window, the window's end, and its worst-case time
in 0.1 µs. It stands in the one buffer that its bus's fixed pool holds for its object (R487). -/
structure TxMsg where
  obj : Nat
  frame : CanFrame
  win : Nat
  ends : Nat
  twc : Nat
deriving DecidableEq, Repr

/-- A Ledger response whose reply window is open (R498), in the buffer of its request (R558). -/
structure Reply where
  node : Nat
  frame : CanFrame
  ends : Nat
  buf : Option BufRef
deriving DecidableEq, Repr

/-- A field bus beside its registers. -/
structure FldBus where
  /-- Waiting for 11 recessive bits since EN was set (R479). -/
  waiting : Option Nat := none
  /-- Recovering from bus-off since (R491). -/
  recover : Option Nat := none
  /-- Wall time of the start of the cycle that runs, its elapsed time, its number and its length in ns. -/
  cycleW : Option Nat := none
  cycleAt : Nat := 0
  cycleN : Nat := 0
  cycleLen : Nat := 0
  /-- FLD_CYC and FLD_CPH as taken at the cycle's start, in 10 µs: they set the next start (R501). -/
  cyc : Nat := 100
  cph : Nat := 0
  /-- Offset and length of each window in 10 µs, as taken at the cycle's start, and the windows that have opened. -/
  wins : List (Nat × Nat) := []
  opened : List Nat := []
  queue : List TxMsg := []
  sending : Option TxMsg := none
  /-- Elapsed time of the SOF of the attempt in progress. -/
  sofAt : Nat := 0
  replies : List Reply := []
  replySending : Option Reply := none
deriving DecidableEq, Repr

/-- The field buses, and when each receive object last took a frame since its EN was set. -/
structure FldS where
  buses : List FldBus := List.replicate 4 {}
  rxLast : List (Nat × Nat) := []
deriving DecidableEq, Repr

/-! ### LOOP -/

/-- What a slot takes at one latch and computes from it (R214, R216, R231). -/
structure LoopSample where
  /-- Latched and not yet computed. -/
  waiting : Bool := false
  /-- The output computed and not yet issued. -/
  output : Option Nat := none
  y : Nat := 0
  yOk : Bool := true
  f : Nat := 0
  fOk : Bool := true
  tab : Int := 0
  sp : Nat := 0
  man : Nat := 0
  plen : Bool := false
  ffen : Bool := false
  /-- Injections at the setpoint, the error and the output. -/
  inj : List Word := [0, 0, 0]
  /-- The group that latched, the start of its period, its output instant and its h in ns. -/
  grp : Nat := 0
  began : Nat := 0
  outAt : Nat := 0
  h : Nat := 0
deriving DecidableEq, Repr

/-- A loop slot beside its registers. Binary32 values are held as their words, 16-bit values as numbers. -/
structure LoopSlot extends LoopSample where
  /-- The working copy of the coefficient registers, in the order of R232. -/
  coef : List Nat := [0, 0, 0, 0, 0x3C00, 0, 0, 0, 0, 0, 0, 0x0A00, 0x7C00]
  /-- Coefficient registers with a write pending, by their place in that order, earliest first. -/
  pending : List Nat := []
  /-- Leaves automatic at its group's next latch (R243). -/
  holdPending : Bool := false
  /-- Samples of earlier periods whose outputs are not yet issued, oldest first (R206, R216). -/
  older : List LoopSample := []
  /-- The next automatic sample is the first (R225), and whether it follows off. -/
  first : Bool := false
  fromOff : Bool := false
  yprev : Word := 0
  d : Word := 0
  i : Word := 0
  /-- The model: PLEN of the last sample, an initialisation owed, ym, c, the past outputs (newest first) and the DWELL count. -/
  plenWas : Bool := false
  initDue : Bool := false
  ym : Word := 0
  c : Word := 0
  ubuf : List Word := []
  dwell : Nat := 0
deriving DecidableEq, Repr

/-- A period group beside its registers. -/
structure LoopGroup where
  /-- Starts periods (LOOP_PGSTAT.ACTIVE). -/
  active : Bool := false
  /-- Period and phase in force in 10 µs (R234). -/
  p : Nat := 1000
  ph : Nat := 0
  /-- The last wall-time instant of phase 0, in 10 µs; none once wall time is stepped (R206). -/
  latchW : Option Nat := none
  /-- Start and output instant of the period in progress, and of earlier periods whose outputs are not yet issued. -/
  began : Nat := 0
  outAt : Option Nat := none
  older : List (Nat × Nat) := []
  /-- Length of the period in ns for h of R220. -/
  h : Nat := 0
  /-- Of a stroke group: the N in force, the next trigger's lead position, the wall time and the instant of the last trigger that
  started a period, and the wall time of EN. -/
  n : Nat := 1
  next : Int := 0
  last : Option Nat := none
  lastT : Nat := 0
  enAt : Nat := 0
  /-- Lead positions at the previous latch. -/
  leads : Option (List Int) := none
  /-- Starts of the periods in progress in which a slot overran (R218). -/
  ovr : List Nat := []
  /-- A stroke group issues no output until its next latch (R243). -/
  mute : Bool := false
deriving DecidableEq, Repr

/-- A running injection generator (R237, R238). -/
structure LoopGen where
  typ : Nat
  node : Nat
  n : Nat
  slot : Nat
  k : Nat := 0
  sr : Nat
  cnt : Nat := 0
deriving DecidableEq, Repr

/-- A trace channel: samples left after the trigger, and whether it has stopped (R242). -/
structure LoopTrc where
  left : Option Nat := none
  stopped : Bool := false
deriving DecidableEq, Repr

/-- The control engine beside its registers. -/
structure LoopS where
  slots : List LoopSlot := List.replicate 128 {}
  groups : List LoopGroup := List.replicate 8 {}
  gens : List (Option LoopGen) := List.replicate 4 none
  busyUntil : Nat := 0
  /-- Busy time of the datapath in ns, by whole seconds from the release of reset, which came at `loadAt`; `loadN` of them have
  ended and are shown (LOOP_LOAD). -/
  busy : List (Nat × Nat) := []
  loadAt : Nat := 0
  loadN : Nat := 0
  /-- Friction and cogging entries that are not 0, by 1,024 × table + entry. -/
  ft : List (Nat × Nat) := []
  trc : List LoopTrc := List.replicate 8 {}
  /-- The trace rings' samples, by 65,536 × channel + entry. -/
  rings : List (Nat × Word) := []
  /-- Samples in the traces' staging, each in a buffer of its own, oldest first: keyed as in `rings` (R567 level 1). -/
  staged : List (Nat × Word) := []
  /-- The trigger node's value at its last sample. -/
  trgPrev : Option Word := none
deriving DecidableEq, Repr

/-! ### NET -/

/-- A save in progress (R507): when it completes, what it captured, how many entries the change log held as it began, and whether
the log has overflowed since. -/
structure PathSave where
  doneAt : Nat
  image : Copies
  mark : Nat
  lost : Bool
deriving DecidableEq, Repr

/-- A link of the path redundancy beside its registers. -/
structure NetLink where
  /-- A switch-over is owed: a ring's waits for its cycle boundary (R514). -/
  want : Bool := false
  /-- A switch-over's gap is open: nothing is sent or received (R513). -/
  gap : Bool := false
  /-- The frozen queue is being sent: from the end of the gap until it is empty (R521, R522). -/
  flush : Bool := false
  /-- When the switch-over started. -/
  since : Nat := 0
  /-- From when an attempt may start on the new path of a field bus (R513 step 4). -/
  clearAt : Nat := 0
  /-- When each path's healthy run started (R519). -/
  healthyA : Option Nat := none
  healthyB : Option Nat := none
  /-- The held verdict of each path: whether it is failed (R512). -/
  heldA : Option Bool := none
  heldB : Option Bool := none
  lastSwitch : Option Nat := none
  /-- The Shuffle count's start and what it held then, in ns, and when a skipped Shuffle is tried again (R518). -/
  shufAt : Nat := 0
  shufFrom : Nat := 0
  shufRetry : Option Nat := none
  /-- When the last save completed, the second of wall time of the last one that began, and the slot of the last image (R507). -/
  saveAt : Option Nat := none
  saveSec : Option Nat := none
  saveSlot : Nat := 0
  /-- The working copies of the active path, the two image slots, the save in progress, and the change log with its overflow. -/
  work : Copies := []
  images : List (Option Copies) := [none, none]
  saving : Option PathSave := none
  log : Copies := []
  lost : Bool := false
  /-- Verdicts accepted while RT1 was down, that it applies when it runs: path and failed (R29, assumption log 72). -/
  owed : List (Nat × Bool) := []
  /-- NET_TALONENT as taken at the switch-over's start (R524). -/
  ent : Nat := 0
  /-- The length of the gap that has ended, in cycles of 8 ns, until it is recorded (R513). -/
  gapLen : Nat := 0
deriving DecidableEq, Repr

/-- What the module drives at a host port's PHY (R635): the level of RST_N, whether the PHY is set up, and the level of its VRG balls
in mV as read when the domain was powered. -/
structure PhyPort where
  rstN : Bool := false
  setUp : Bool := false
  vrgMv : Option Nat := none
deriving DecidableEq, Repr

/-- The six links, and the ports NA and NB. -/
structure NetS where
  links : List NetLink := List.replicate 6 {}
  ports : List PhyPort := List.replicate 2 {}
deriving DecidableEq, Repr

/-! ### RNG -/

/-- What the head holds of one address (R539 to R550): its latest slot, whether a valid one came in the last cycle, the cycles
missed, the cycles in a row in which hash, firmware and transition sequence differed. -/
structure RingPeer where
  slot : List Byte := []
  fresh : Bool := false
  missed : Nat := 0
  hashRun : Nat := 0
  fwRun : Nat := 0
  tseqRun : Nat := 0
deriving DecidableEq, Repr

/-- A rejoin under way at the head (R550): the address, the command it serves, the step last sent in a frame (0 none yet), and whether a
frame with that step has come back. -/
structure Rejoin where
  a : Nat
  serves : Nat × Nat
  step : Nat := 0
  seen : Bool := false
deriving DecidableEq, Repr

/-- The ring beside its registers. -/
structure RngS where
  /-- Addresses in the cluster. -/
  n : Nat := 1
  /-- RING, WRAP and EXPECT as taken at the entry to ENUMERATE (R555). -/
  ring : Bool := false
  wrap : Bool := false
  expect : Nat := 1
  /-- Since when the ring is being formed. -/
  forming : Option Nat := none
  enumAt : Option Nat := none
  /-- The enumeration frame came back with every member (R528). -/
  complete : Bool := false
  /-- A ring of more than one module has formed. -/
  joined : Bool := false
  /-- The address was taken on a ring that had already formed, and no REJOIN came (R529). -/
  late : Bool := false
  /-- A step of a rejoin has reached this module, which is lost (R550). -/
  rejoining : Bool := false
  peers : List RingPeer := List.replicate 8 {}
  /-- The number of the cycle that runs, and whether its frame has come back or was taken. -/
  cycle : Option Nat := none
  taken : Bool := false
  /-- ORDER of the next cycle frame, with the target of a carried transition and the command it serves (R542). -/
  orders : Nat := 0
  target : Nat := 0
  serves : Option (Nat × Nat) := none
  /-- Cycles missed in a row by this member (R549). -/
  missed : Nat := 0
  /-- A cycle frame is out (R534). -/
  out : Bool := false
  states : List Nat := List.replicate 8 0
  relay : Option (List Byte) := none
  /-- The last relayed verdict sent (R554). -/
  relaySent : List Byte := []
  /-- The ring's queue (R567 level 4), and how many of its entries a switch-over froze and has not sent yet (R521). -/
  queue : List (List Byte × BufRef) := []
  frozen : Nat := 0
  rejoin : Option Rejoin := none
  /-- Cause CLUSTER stands (R544, R549). -/
  holds : Bool := false
  /-- When a cluster reset is due (R545). -/
  resetAt : Option Nat := none
  /-- CLEVEL and LOSTHOLD as taken at the cycle. -/
  clevel : Bool := false
  lostHold : Bool := false
deriving DecidableEq, Repr

/-! ### THM, SVC, the test port, SAFE -/

/-- A reduction enforced (R587): its level, kind and value, and for a frame period whether TOMO_FPER was saved and written for it. -/
structure ThmCut where
  level : Nat
  kind : Nat
  value : Nat
  saved : Bool := false
deriving DecidableEq, Repr

/-- An open ask (R585): its level, kind, value, and when it was sent. -/
structure ThmAsk where
  level : Nat
  kind : Nat
  value : Nat
  since : Nat
deriving DecidableEq, Repr

/-- The thermal supervisor beside its registers. -/
structure ThmS where
  /-- When the conversion that runs began, and the TEMP_READ commands it serves. -/
  conv : Option Nat := none
  reads : List (Nat × Nat) := []
  lastDemand : Nat := 0
  /-- Demands that joined the conversion that runs: each counts for the level rules (R580). -/
  joined : Nat := 0
  /-- Demands made while RT1 was down, which RT1 makes when it runs again (R29). -/
  owed : Nat := 0
  /-- When the demands of the throttle events are due, one for each event (R579). -/
  eventDue : List Nat := []
  /-- The levels that each of the last conversions in a row exceeded, as bits, the last first (R582). -/
  rises : List Nat := []
  falls : Nat := 0
  ask : Option ThmAsk := none
  /-- Reductions enforced, in the order of their enforcement (R587). -/
  enforced : List ThmCut := []
  /-- FPREQ of this module's slot (R531). -/
  fpreq : Nat := 0
deriving DecidableEq, Repr

/-- The receiver of the service port (R590, R591): the number of the last sample since the start bit was detected, `none` on a line between
bytes; the data bits sampled; whether start detection is armed; and the high samples in a row of a line between bytes. -/
structure UartRx where
  n : Option Nat := none
  bits : List Bool := []
  armed : Bool := true
  idle : Nat := 16
deriving DecidableEq, Repr

/-- The service port beside its registers: until when an answer is being sent, the DIV in force (R592), the receiver, and the request under
way with the time of its last byte (R593, R594). -/
structure SvcS where
  answering : Option Nat := none
  div : Nat := 833
  rx : UartRx := {}
  req : List Byte := []
  lastAt : Nat := 0
deriving DecidableEq, Repr

/-- The test port (R596): whether TRST_N holds it in reset, the instruction in force (0 BYPASS, 1 IDCODE, 2 SAMPLE/PRELOAD,
3 EXTEST, 4 CLAMP), the boundary register as the pins whose cell is high, and whether it drives the balls. -/
structure JtagS where
  held : Bool := true
  ir : Nat := 1
  cells : List (Ball × Nat) := []
  drives : Bool := false
deriving DecidableEq, Repr

/-- The SAFE unit beside its registers: when the heartbeat count started (R469). -/
structure SafeS where
  hbAt : Nat := 0
deriving DecidableEq, Repr

/-! ### NV -/

/-- What stands in one bank of the firmware or matrix pair (R613): 0 empty, 1 complete, 2 incomplete (R470). -/
structure NvBank where
  state : Nat := 0
  data : List Byte := []
deriving DecidableEq, Repr

/-- What a commit writes (R614). A reference says whether a full capture made it (R163). -/
inductive CommitObj where
  | firmware
  | matrix
  | selectFirmware
  | selectMatrix
  | geometry
  | calibration
  | ranges (words : List (Nat × Nat))
  | model (table : Nat)
  | linearisation (table : Nat)
  | reference (full : Bool)
  /-- A key slot: its key and its rights together, at a LOAD or ERASE or at a write of SEC_SLOT (R375, R397). -/
  | keySlot (slot : Nat) (key : Option (List Byte)) (rights : Word) (load : Bool)
  | registers (words : List (Nat × Word))
deriving DecidableEq, Repr

/-- A commit in progress (R614): the object, the bank it writes, its data, how far its data is (3 while it arrives, 4 with all of it
in hand), and the command it serves. -/
structure Commit where
  obj : CommitObj
  bank : Nat
  data : List Byte
  step : Nat
  serves : Option (Nat × Nat)
  reply : List Byte
  /-- What the bank held before a matrix commit: a file that is refused writes nothing (R127). -/
  prior : NvBank := {}
  /-- When it opened, when its data was all there, and the last journal step that BOOT_JOURNAL or BANK_STATE showed of it. -/
  openedAt : Nat := 0
  dataAt : Nat := 0
  shown : Nat := 1
deriving DecidableEq, Repr

/-- What stands in one bank of the table, reference or state pair (R613): its state as in `NvBank`, and its content. -/
structure BankOf (α : Type) where
  state : Nat
  data : α
deriving DecidableEq, Repr

/-- The content of a table bank (R613): saved registers by address, tables, and keys; slot rights stand among the registers. -/
structure TableSet where
  regs : List (Nat × Word) := []
  geom : Option (List Byte) := none
  cal : Option (List Byte) := none
  ranges : Option (List (Nat × Nat)) := none
  models : List (Nat × List Byte) := []
  lins : List (Nat × List Byte) := []
  keys : List (Option (List Byte)) := List.replicate 8 none
deriving DecidableEq, Repr

/-- The content of a reference bank (R613): the file, whether a full capture made it, and its number among the references committed,
which tells it from one committed before it under the same REFID (R163). -/
structure RefSet where
  file : Option (List Byte) := none
  full : Bool := false
  no : Nat := 0
deriving DecidableEq, Repr

/-- The content of a state bank (R613). -/
structure StateSet where
  roll : Option RollState := none
  ledger : Option LedgerSet := none
  /-- Lead positions of the last sealed power-loss save (R202). -/
  lossLeads : Option (List Int) := none
  /-- AFF_GRET, AFF_ILEAD and AFF_IINS of the last state save, by address. -/
  affRegs : List (Nat × Word) := []
deriving DecidableEq, Repr

/-- A record of the journal (R614): OPEN with the object, its bank and its length in bytes, SEAL, and SWITCH. -/
inductive JournalRec where
  | opened (obj : CommitObj) (bank length : Nat)
  | sealed (obj : CommitObj) (bank : Nat)
  | switched (obj : CommitObj) (bank : Nat)
deriving DecidableEq, Repr

/-- The NV store (R613): the journal, five pairs of banks and the archive. The bank states are what the journal's OPEN and SEAL records
leave, a `…Sel` the bank that the last durable SWITCH record of the kind names (R614 to R616). The spare blocks replace worn ones, of
which no command tells. -/
structure NvS where
  fw : List NvBank := [{ state := 1 }, {}]
  fwSel : Nat := 0
  /-- Firmware banks of which a read has failed since the last reset (R25, R616). -/
  fwBad : List Nat := []
  mat : List NvBank := [{}, {}]
  matSel : Nat := 0
  tab : List (BankOf TableSet) := [⟨0, {}⟩, ⟨0, {}⟩]
  tabSel : Nat := 0
  ref : List (BankOf RefSet) := [⟨0, {}⟩, ⟨0, {}⟩]
  refSel : Nat := 0
  state : List (BankOf StateSet) := [⟨0, {}⟩, ⟨0, {}⟩]
  /-- The state bank that holds the last complete set. -/
  stateSel : Nat := 0
  archive : List (Nat × List Byte) := []
  /-- The journal's durable records, latest first. -/
  journal : List JournalRec := []
  commit : Option Commit := none
  /-- Register commits asked for while another commit runs. -/
  queued : List Commit := []
deriving DecidableEq, Repr

/-- A power loss under way (R621): since when, whether it was confirmed, the set chosen (0 none, 1 full, 2 reduced), and whether
the save is over. -/
structure PowerLoss where
  since : Nat
  confirmed : Bool
  set : Nat
  done : Bool
deriving DecidableEq, Repr

/-- The PWR and CLK units beside their registers, and the module's straps and balls. -/
structure PwrS where
  loss : Option PowerLoss := none
  /-- Charge counter in nC (R618), and the charge in nC counted since the present charge began, at a voltage in mV. -/
  q : Nat := 0
  counted : Nat := 0
  chargeFromMv : Nat := 0
  rebasePending : Bool := false
  /-- HOLDUP_MISMATCH has been raised since the last re-base (R620). -/
  misRaised : Bool := false
  /-- The outcome and length in ms that PWR_LASTSAVE takes at the next start. -/
  saveOut : Nat := 0
  saveMs : Nat := 0
  /-- When the estimates were last updated (R618). -/
  estAt : Nat := 0
  /-- When the estimates are compared next: every 100 ms, also across resets that leave VBUS up (R620). -/
  cmpDue : Nat := 100000000
  /-- When SAFE_ALIVE last advanced (R610). -/
  aliveAt : Nat := 0
  resetNLow : Bool := false
  /-- The module has stopped for lack of supply (R600, R622). -/
  stopped : Bool := false
  headLow : Bool := true
  /-- Lanes whose A, B and Z balls are tied to GND (R640): they see no edge and no open line. -/
  encTied : List Nat := []
  refHigh : Bool := false
  measuring : Option Nat := none
  /-- Elapsed time at which each domain that is on was switched on. -/
  domAt : List (Nat × Nat) := []
deriving DecidableEq, Repr

/-! ### Balls (R634) -/

/-- The states of R634's column "In reset or domain off". -/
inductive BallRest where
  | clamped
  | open
  | shuntClosed
  | megohmToGround
  | input
  | high
  | low
  | highImpedance
  | transmitterOff
  | receiverTerminated
  | switchOpen
  | running
  | chargerOff
deriving DecidableEq, Repr

/-! ### Everything -/

/-- The units' own data: what no register shows. -/
structure Units where
  elapsed : Nat := 0
  wall : Nat := 0
  /-- Nanoseconds that wall time is still to be slewed by (R74, R412). -/
  slew : Int := 0
  /-- Elapsed time of the last nanosecond of a slew. -/
  slewAt : Nat := 0
  /-- How many free values were drawn (the model's own field, assumption log 1). -/
  free : Nat := 0
  out : List Out := []
  cmd : CmdS := {}
  pool : PoolS := {}
  enc : EncS := {}
  tomo : TomoS := {}
  reco : RecS := {}
  pcl : PclS := {}
  sys : SysS := {}
  vdrv : ValveS := {}
  fan : FanS := {}
  fld : FldS := {}
  loop : LoopS := {}
  aff : AffS := {}
  aer : List AerBin := List.replicate 16 {}
  net : NetS := {}
  rng : RngS := {}
  thm : ThmS := {}
  svc : SvcS := {}
  jtag : JtagS := {}
  safe : SafeS := {}
  nv : NvS := {}
  pwr : PwrS := {}
deriving DecidableEq, Repr

/-- The register file: the registers that do not hold their reset value, by rising address (`Regs` in Machine/Ops.lean keeps the
form). -/
abbrev Regs := List (Nat × Word)

/-- The block apart from its queue: the register file and the units' own data. -/
structure Block where
  regs : Regs := []
  /-- Registers whose word no longer matches its hidden parity bit (R460). -/
  upset : List Nat := []
  u : Units := {}
deriving DecidableEq, Repr

/-- The module: the block, and the commands and events that wait, first in, first out. -/
structure State where
  dev : Block
  pending : List Instr
deriving DecidableEq, Repr

/-- The module right after power-on reset (R13, R609): every register at the reset value of its table, nothing saved, nothing
stored, no command waiting. -/
def State.reset : State := { dev := {}, pending := [] }

end Sys2Proof.Machine
end

