-- ==== Sys2Proof/Machine/Ops.lean ====
section
/-!
DEFINITION. Machine/Ops.lean: the named operations everything else is built from. First the register file, which keeps one
canonical form; then the programs in which meanings are written: a meaning is a sequence of reads of the whole block and of
two kinds of update, one register or the units' own data, so that what a step can do to the register file is said once, in
`Upd.apply`, and not per meaning.
-/
namespace Sys2Proof.Machine

/-! ### The register file -/

/-- The index of address `a` within a row's repetitions, if it is one of the row's registers. -/
def RegRow.index? (r : RegRow) (a : Nat) : Option Nat :=
  if a < r.base then none
  else
    let d := a - r.base
    match r.dims with
    | [] => if d = 0 then some 0 else none
    | [(n, s)] => if d % s = 0 ∧ d / s < n then some (d / s) else none
    | (n, s) :: (m, t) :: _ =>
      let q := d % s
      if d / s < n ∧ q % t = 0 ∧ q / t < m then some (d / s * m + q / t) else none

/-- The bits of a row that hold something: every bit that is neither reserved, nor an action, nor a write mask. -/
def RegRow.impl (r : RegRow) : Nat := r.ro ||| r.rw ||| r.rc

/-- The first value of a list of (bound, value) whose bound lies above `i`. -/
def pickReset : List (Nat × Nat) → Nat → Nat
  | [], _ => 0
  | (n, v) :: l, i => if i < n then v else pickReset l i

/-- What register `i` of a row holds after power-on reset (R13). -/
def RegRow.reset (r : RegRow) (i : Nat) : Nat := pickReset r.resets i + i * r.step

/-- The row of a list that holds address `a`, and the index there. -/
def findRow : List RegRow → Nat → Option (RegRow × Nat)
  | [], _ => none
  | r :: l, a =>
    match r.index? a with
    | some i => some (r, i)
    | none => findRow l a

/-- The row of address `a` and the index there (R34); `none` where no chapter defines a register (R35). -/
def rowOf (a : Nat) : Option (RegRow × Nat) := findRow (unitRows (a / 0x10000)) a

/-- What the register at `a` holds after power-on reset. -/
def regReset (a : Nat) : Word :=
  match rowOf a with
  | some (r, i) => BitVec.ofNat 32 (r.reset i)
  | none => 0

/-- The bits of the register at `a` that hold something. -/
def regImpl (a : Nat) : Word :=
  match rowOf a with
  | some (r, _) => BitVec.ofNat 32 r.impl
  | none => 0

/-- The value listed for an address. -/
def Regs.find? : Regs → Nat → Option Word
  | [], _ => none
  | (b, v) :: l, a => if a = b then some v else Regs.find? l a

/-- What register `a` holds. -/
def Regs.get (l : Regs) (a : Nat) : Word := (Regs.find? l a).getD (regReset a)

/-- Lists value `w` for address `a`, keeping the addresses rising. -/
def Regs.put : Regs → Nat → Word → Regs
  | [], a, w => [(a, w)]
  | (b, v) :: l, a, w =>
    if a < b then (a, w) :: (b, v) :: l
    else if a = b then (a, w) :: l
    else (b, v) :: Regs.put l a w

/-- Takes address `a` off the list. -/
def Regs.drop : Regs → Nat → Regs
  | [], _ => []
  | (b, v) :: l, a => if a = b then l else (b, v) :: Regs.drop l a

/-- `w` with the bits that hold nothing as they stand after reset (R453). -/
def regFit (a : Nat) (w : Word) : Word := (w &&& regImpl a) ||| (regReset a &&& ~~~(regImpl a))

/-- Stores `w` in register `a`: reserved bits stay as they are, an address without a register takes nothing, and a register that
holds its reset value is not listed. -/
def Regs.set (l : Regs) (a : Nat) (w : Word) : Regs :=
  match rowOf a with
  | none => l
  | some _ => if regFit a w = regReset a then l.drop a else l.put a (regFit a w)

/-- Whether the addresses of a list lie above `b` and rise. -/
def Regs.rising : Nat → Regs → Bool
  | _, [] => true
  | b, (a, _) :: l => decide (b ≤ a) && Regs.rising (a + 1) l

/-- The canonical form: addresses rise, each is a register's, its reserved bits are as after reset, and its value is not its
reset value. -/
def Regs.wf (l : Regs) : Bool :=
  Regs.rising 0 l && l.all fun (a, w) => (rowOf a).isSome && decide (regFit a w = w) && decide (w ≠ regReset a)

/-! ### Programs -/

/-- One update of the block. -/
inductive Upd where
  | reg (a : Nat) (w : Word)
  | units (f : Units → Units)
  | parity (f : List Nat → List Nat)

/-- The block with register `a` stored, and its parity computed in the same cycle (R460). -/
def Block.setReg (b : Block) (a : Nat) (w : Word) : Block := { b with regs := b.regs.set a w, upset := b.upset.filter (· ≠ a) }

/-- What an update does. -/
def Upd.apply : Upd → Block → Block
  | .reg a w, b => b.setReg a w
  | .units f, b => { b with u := f b.u }
  | .parity f, b => { b with upset := f b.upset }

/-- A meaning: reads of the block and updates in order, to an end or to a fault. -/
inductive Prog where
  | done
  | stop (f : Fault)
  | upd (u : Upd) (k : Prog)
  | read (k : Block → Prog)

/-- Runs a meaning on a block. -/
def Prog.run : Prog → Block → Except Fault Block
  | .done, b => .ok b
  | .stop f, _ => .error f
  | .upd u k, b => k.run (u.apply b)
  | .read k, b => (k b).run b

/-- The programs that answer an `α`, written with `do`. -/
abbrev Op := Cont Prog

/-- Runs an operation on a block. -/
def runOp (m : Op Unit) (b : Block) : Except Fault Block := Prog.run (m fun _ => Prog.done) b

/-- The whole block. -/
def blockOp : Op Block := fun k => Prog.read k

/-- Stops with a fault. -/
def stopOp {α : Type} (f : Fault) : Op α := fun _ => Prog.stop f

/-- An operation that a ball's voltage brings: beyond the ball's rating nothing is stated of what follows (R643). -/
def rated (most v : Nat) (m : Op Unit) : Op Unit := if most < v then stopOp .ratingExceeded else m

/-- Register `a` as it is held, without any effect of reading it (the firmware's view of R455). -/
def rd (a : Nat) : Op Word := fun k => Prog.read fun b => k (b.regs.get a)

/-- Stores a whole register, as the unit that owns it does. -/
def wr (a : Nat) (w : Word) : Op Unit := fun k => Prog.upd (.reg a w) (k ())

/-- The units' own data. -/
def units : Op Units := fun k => Prog.read fun b => k b.u

/-- Changes the units' own data. -/
def modU (f : Units → Units) : Op Unit := fun k => Prog.upd (.units f) (k ())

/-- Changes which registers' parity does not match. -/
def modUpset (f : List Nat → List Nat) : Op Unit := fun k => Prog.upd (.parity f) (k ())

/-- Runs an operation for each entry of a list. -/
def each {α : Type} (f : α → Op Unit) : List α → Op Unit
  | [] => pure ()
  | a :: l => do f a; each f l

/-- Runs an operation when a condition holds. -/
def onlyIf (c : Bool) (m : Op Unit) : Op Unit := if c then m else pure ()

/-! ### Fields -/

/-- The value of a field in a register's word. -/
def RF.of (f : RF) (w : Word) : Nat := bits w.toNat f.hi f.lo

/-- The word with a field set to the low bits of `v`. -/
def RF.put (f : RF) (w : Word) (v : Nat) : Word :=
  let m := (2 ^ (f.hi + 1 - f.lo) - 1) <<< f.lo
  BitVec.ofNat 32 ((w.toNat &&& (0xFFFFFFFF ^^^ m)) ||| ((v <<< f.lo) &&& m))

/-- Reads a field. -/
def gf (f : RF) : Op Nat := do let w ← rd f.reg; pure (f.of w)

/-- Reads a one-bit field. -/
def bf (f : RF) : Op Bool := do let v ← gf f; pure (v != 0)

/-- Writes a field, as the unit that owns it does. -/
def sf (f : RF) (v : Nat) : Op Unit := do let w ← rd f.reg; wr f.reg (f.put w v)

/-- Writes a one-bit field. -/
def sb (f : RF) (v : Bool) : Op Unit := sf f (bit v)

/-- Counts in a saturating field. -/
def cntSat (f : RF) (n : Nat) : Op Unit := do
  let v ← gf f
  sf f (satAdd (2 ^ (f.hi + 1 - f.lo) - 1) v n)

/-- Counts in a wrapping field. -/
def cntWrap (f : RF) (n : Nat) : Op Unit := do let v ← gf f; sf f (v + n)

/-- Sets or clears bit `i` of a register. -/
def sbit (a i : Nat) (v : Bool) : Op Unit := sb ⟨a, i, i⟩ v

/-- Bit `i` of a register. -/
def gbit (a i : Nat) : Op Bool := bf ⟨a, i, i⟩

/-- A 64-bit value held in two registers. -/
def rd64 (lo hi : Nat) : Op Nat := do let l ← rd lo; let h ← rd hi; pure (h.toNat * 2 ^ 32 + l.toNat)

/-- Stores a value in two registers. -/
def wr64 (lo hi v : Nat) : Op Unit := do wr lo (BitVec.ofNat 32 v); wr hi (BitVec.ofNat 32 (v / 2 ^ 32))

/-- A value from 0 up in a register. -/
def wrN (a v : Nat) : Op Unit := wr a (BitVec.ofNat 32 v)

/-! ### Time and free values -/

/-- The time since power-on in ns, counted on the 250 MHz clock and never stepped (R59, R73). -/
def now : Op Nat := do let u ← units; pure u.elapsed

/-- Wall time in ns (R73). -/
def wallTime : Op Nat := do let u ← units; pure u.wall

/-- The next free value (assumption log 1). -/
def free : Op Nat := do
  let u ← units
  modU fun u => { u with free := u.free + 1 }
  pure (Config.freeValue u.free)

/-- Puts something on a link or a ball. -/
def emit (o : Out) : Op Unit := modU fun u => { u with out := u.out ++ [o] }

/-! ### Power domains (R603) -/

/-- The register and bit that show domain `d`. -/
def domField (d : Nat) : RF := ⟨R.PWR_DOMSTAT (d / 32), d % 32, d % 32⟩

/-- Whether domain `d` is on. -/
def domainOn (d : Nat) : Op Bool := bf (domField d)

/-- Whether the supply is gone: a power loss stands, or the module has stopped (R600, R621). -/
def supplyGone (u : Units) : Bool := u.pwr.stopped || (match u.pwr.loss with | none => false | some l => l.confirmed)

/-- The PHY of port `p` follows its domain (R635): held in reset while it is off; powered, its VRG level is read, the reset is
released, and MDC and MDIO set it to 1000 Mbit/s, full duplex, with internal clock delays. -/
def phyFollow (p : Nat) (on : Bool) : Op Unit := do
  modU fun u => { u with net := { u.net with ports := updAt u.net.ports p fun x =>
    if on then { rstN := true, setUp := true, vrgMv := some (if Config.vrg33 p then 3300 else 2500) } else { x with rstN := false, setUp := false } } }
  onlyIf on (emit (.phySetup p 1000 true true))

/-- Domain `d` switches on or off (R604); from step 3 of R621 on, none switches on. -/
def domainSwitch (d : Nat) (want : Bool) : Op Unit := do
  let u ← units
  let was ← domainOn d
  let on := want && !supplyGone u
  sb (domField d) on
  onlyIf (on != was) (modU fun v =>
    { v with pwr := { v.pwr with domAt := (if on then [(d, u.elapsed)] else []) ++ v.pwr.domAt.filter (fun x => x.1 ≠ d) } })
  onlyIf (on != was && (d == 128 || d == 129)) (phyFollow (d - 128) on)

/-- How long domain `d` has been on, in ns: `none` while it is off. -/
def domainOnFor (d : Nat) : Op (Option Nat) := do
  let u ← units
  let on ← domainOn d
  pure (if on then some (u.elapsed - ((u.pwr.domAt.find? (fun x => x.1 = d)).map (·.2)).getD 0) else none)

/-! ### Cores (R39) -/

/-- Whether core `k` runs its firmware: 0 to 3 CC0 to CC3, 4 RT0, 5 RT1. -/
def coreUp (k : Nat) : Op Bool := gbit R.SYS_CORESTAT k

/-- The work of core `k`: done while the core runs, else it waits (R29, assumption log 72). -/
def onCore (k : Nat) (m : Op Unit) : Op Unit := do
  let up ← coreUp k
  onlyIf up m

/-! ### Modes (R330) -/

/-- The codes of the modes. -/
def modeEnumerate : Nat := 0
def modeCalibrate : Nat := 1
def modeIdle : Nat := 2
def modeBatch : Nat := 3
def modeFlow : Nat := 4
def modeStore : Nat := 5
def modeService : Nat := 6
def modeHold : Nat := 7

/-- SYS_MODE.CUR. -/
def curMode : Op Nat := gf F.SYS_MODE_CUR

/-- The mode whose rules hold: CUR, or in HOLD the mode HOLD was entered from (R340, R341). -/
def baseMode : Op Nat := do
  let c ← curMode
  if c = modeHold then gf F.SYS_MODE_HFROM else pure c

/-- A HOLD cause asserts (R335): it waits for RT1 until HOLD_ENTRY takes it. -/
def assertCause (c : Nat) : Op Unit :=
  modU fun u => { u with sys := { u.sys with causes := if c ∈ u.sys.causes then u.sys.causes else u.sys.causes ++ [c] } }

/-! ### The banks of NV (R613, R616) -/

/-- Changes the NV store. -/
def modNv (f : NvS → NvS) : Op Unit := modU fun u => { u with nv := f u.nv }

/-- The content of the table bank in force. -/
def NvS.tables (n : NvS) : TableSet := (n.tab.getD n.tabSel ⟨0, {}⟩).data

/-- The reference in NV: the content of the reference bank in force. -/
def NvS.reference (n : NvS) : RefSet := (n.ref.getD n.refSel ⟨0, {}⟩).data

/-- The last complete set of saved state. -/
def NvS.saved (n : NvS) : StateSet := (n.state.getD n.stateSel ⟨0, {}⟩).data

/-- A table bank is sealed with its content. -/
def NvS.sealTables (n : NvS) (b : Nat) (x : TableSet) : NvS := { n with tab := updAt n.tab b fun _ => ⟨1, x⟩ }

/-- A reference bank is sealed with its content. -/
def NvS.sealReference (n : NvS) (b : Nat) (x : RefSet) : NvS := { n with ref := updAt n.ref b fun _ => ⟨1, x⟩ }

/-- A state save is under way: the bank that does not hold the last complete set is incomplete (R616). -/
def NvS.openState (n : NvS) : NvS := { n with state := updAt n.state (1 - n.stateSel) fun _ => ⟨2, n.saved⟩ }

/-- A state save or checkpoint, sealed (R616): the bank that does not hold the last complete set takes the set, and holds it from then
on. What the save leaves as it is comes from the last set. -/
def NvS.save (n : NvS) (f : StateSet → StateSet) : NvS :=
  { n with state := updAt n.state (1 - n.stateSel) fun _ => ⟨1, f n.saved⟩, stateSel := 1 - n.stateSel }

/-- A state save or checkpoint. While a power loss stands confirmed, the save of R621 is the only one (DEDUCED, assumption log 32). -/
def stateSave (f : StateSet → StateSet) : Op Unit := do
  let u ← units
  onlyIf (!(u.pwr.loss.any fun l => l.confirmed)) (modNv fun n => n.save f)

/-- Lead positions of a power-loss save serve no further restore (R202). -/
def leadsDrop : Op Unit :=
  modNv fun n => { n with state := updAt n.state n.stateSel fun b => ⟨b.state, { b.data with lossLeads := none }⟩ }

end Sys2Proof.Machine
end

