-- ==== Sys2Proof/Machine/Flags.lean ====
section
/-!
DEFINITION. Machine/Flags.lean: the arithmetic of the fixed formats and of IEEE 754 binary32 and binary16, with its rounding to
nearest even, its comparisons and its special values (R124, R222: assumption log 4), and the CRC-32 and CRC-8 of the files
and ports.
-/
namespace Sys2Proof.Machine

/-! ### binary32 -/

/-- A binary32 value taken apart: a NaN, an infinity, or ± m × 2^e. -/
inductive FVal where
  | nan
  | inf (neg : Bool)
  | fin (neg : Bool) (m : Nat) (e : Int)

/-- The value of a binary32 word. -/
def F32.val (w : Word) : FVal :=
  let n := w.toNat
  let s := n.testBit 31
  let ex := bits n 30 23
  let f := n % 2 ^ 23
  if ex = 255 then (if f = 0 then .inf s else .nan)
  else if ex = 0 then .fin s f (-149)
  else .fin s (f + 2 ^ 23) ((ex : Int) - 150)

/-- The quiet NaN. -/
def F32.nan : Word := 0x7FC00000

/-- Zero, one and the infinities. -/
def F32.zero : Word := 0
def F32.one : Word := 0x3F800000
def F32.inf (neg : Bool) : Word := if neg then 0xFF800000 else 0x7F800000

/-- The binary32 nearest to ± m × 2^e, ties to even; `sticky` says that the true value lies just above `m`. -/
def F32.round (neg : Bool) (m : Nat) (e : Int) (sticky : Bool) : Word :=
  let sg := if neg then 2 ^ 31 else 0
  if m = 0 then BitVec.ofNat 32 sg
  else
    let len : Int := Nat.log2 m + 1
    let s : Int := max (len - 24) (-149 - e)
    let q : Nat :=
      if s ≤ 0 then m <<< (-s).toNat
      else
        let k := s.toNat
        let q := m >>> k
        let r := m % 2 ^ k
        let half := 2 ^ (k - 1)
        if r > half ∨ (r = half ∧ (sticky = true ∨ q % 2 = 1)) then q + 1 else q
    let ee := e + s
    if q < 2 ^ 23 then BitVec.ofNat 32 (sg + q)
    else
      let b := (ee + 150).toNat * 2 ^ 23 + (q - 2 ^ 23)
      if b ≥ 255 * 2 ^ 23 then BitVec.ofNat 32 (sg + 255 * 2 ^ 23) else BitVec.ofNat 32 (sg + b)

/-- The binary32 nearest to i × 2^e. -/
def F32.ofScaled (i : Int) (e : Int) : Word := F32.round (decide (i < 0)) i.natAbs e false

/-- The binary32 nearest to an integer. -/
def F32.ofInt (i : Int) : Word := F32.ofScaled i 0

/-- The binary32 nearest to a quotient. -/
def F32.ofRat (n : Int) (d : Nat) : Word :=
  let q := (n.natAbs <<< 64) / d
  F32.round (decide (n < 0)) q (-64) (decide ((n.natAbs <<< 64) % d ≠ 0))

/-- The exact integer and exponent of a finite value. -/
def signedOf (neg : Bool) (m : Nat) : Int := if neg then -(m : Int) else m

/-- Negation. -/
def F32.neg (a : Word) : Word := a ^^^ 0x80000000

/-- Magnitude. -/
def F32.abs (a : Word) : Word := a &&& 0x7FFFFFFF

/-- Sum, rounded once. -/
def F32.add (a b : Word) : Word :=
  match F32.val a, F32.val b with
  | .nan, _ => F32.nan
  | _, .nan => F32.nan
  | .inf s, .inf t => if s = t then F32.inf s else F32.nan
  | .inf s, _ => F32.inf s
  | _, .inf t => F32.inf t
  | .fin s m e, .fin t n f =>
    let g := min e f
    let x := signedOf s (m <<< (e - g).toNat) + signedOf t (n <<< (f - g).toNat)
    if x = 0 then (if s && t then 0x80000000 else 0) else F32.ofScaled x g

/-- Difference, rounded once. -/
def F32.sub (a b : Word) : Word := F32.add a (F32.neg b)

/-- Product, rounded once. -/
def F32.mul (a b : Word) : Word :=
  match F32.val a, F32.val b with
  | .nan, _ => F32.nan
  | _, .nan => F32.nan
  | .inf s, .inf t => F32.inf (s != t)
  | .inf s, .fin t n _ => if n = 0 then F32.nan else F32.inf (s != t)
  | .fin s m _, .inf t => if m = 0 then F32.nan else F32.inf (s != t)
  | .fin s m e, .fin t n f => F32.round (s != t) (m * n) (e + f) false

/-- Quotient, rounded once. -/
def F32.div (a b : Word) : Word :=
  match F32.val a, F32.val b with
  | .nan, _ => F32.nan
  | _, .nan => F32.nan
  | .inf _, .inf _ => F32.nan
  | .inf s, .fin t _ _ => F32.inf (s != t)
  | .fin s _ _, .inf t => if s != t then 0x80000000 else 0
  | .fin s m e, .fin t n f =>
    if n = 0 then (if m = 0 then F32.nan else F32.inf (s != t))
    else F32.round (s != t) ((m <<< 60) / n) (e - f - 60) (decide ((m <<< 60) % n ≠ 0))

/-- The integer square root, one bit of the result at a time from bit `k` down. -/
def isqrtBits (n : Nat) : Nat → Nat → Nat
  | 0, r => r
  | k + 1, r =>
    let c := r + 2 ^ k
    isqrtBits n k (if c * c ≤ n then c else r)

/-- Square root, rounded once. -/
def F32.sqrt (a : Word) : Word :=
  match F32.val a with
  | .nan => F32.nan
  | .inf s => if s then F32.nan else F32.inf false
  | .fin s m e =>
    if m = 0 then a
    else if s then F32.nan
    else
      let k : Nat := if (e % 2 = 0) then 60 else 61
      let x := m <<< k
      let r := isqrtBits x 45 0
      F32.round false r ((e - k) / 2) (decide (r * r ≠ x))

/-- Order: `a < b` on numbers, false where either is a NaN. -/
def F32.lt (a b : Word) : Bool :=
  match F32.val a, F32.val b with
  | .nan, _ => false
  | _, .nan => false
  | .inf s, .inf t => s && !t
  | .inf s, _ => s
  | _, .inf t => !t
  | .fin s m e, .fin t n f =>
    let g := min e f
    decide (signedOf s (m <<< (e - g).toNat) < signedOf t (n <<< (f - g).toNat))

/-- Equality of numbers. -/
def F32.eqv (a b : Word) : Bool :=
  match F32.val a, F32.val b with
  | .nan, _ => false
  | _, .nan => false
  | _, _ => !(F32.lt a b) && !(F32.lt b a)

/-- `a ≤ b` on numbers. -/
def F32.le (a b : Word) : Bool := F32.lt a b || F32.eqv a b

/-- Whether a word is a NaN. -/
def F32.isNan (a : Word) : Bool := match F32.val a with | .nan => true | _ => false

/-- Whether a word is a NaN or an infinity. -/
def F32.special (a : Word) : Bool := match F32.val a with | .fin _ _ _ => false | _ => true

/-- A value limited to a range. -/
def F32.clamp (lo hi v : Word) : Word := if F32.lt v lo then lo else if F32.lt hi v then hi else v

/-- The quotient `n / d` rounded to the nearest integer, ties to even; `d` is not 0. -/
def roundHalfEven (n : Int) (d : Nat) : Int :=
  let q := n / (d : Int)
  let r := n % (d : Int)
  if 2 * r > d ∨ (2 * r = d ∧ q % 2 = 1) then q + 1 else q

/-- The nearest integer to a number, ties to even (0 for a NaN or an infinity, which callers treat first). -/
def F32.toIntNear (a : Word) : Int :=
  match F32.val a with
  | .fin s m e =>
    if 0 ≤ e then signedOf s (m <<< e.toNat)
    else roundHalfEven (signedOf s m) (2 ^ (-e).toNat)
  | _ => 0

/-- The largest integer at or below a number. -/
def F32.floor (a : Word) : Int :=
  match F32.val a with
  | .fin s m e => if 0 ≤ e then signedOf s (m <<< e.toNat) else signedOf s m / ((2 ^ (-e).toNat : Nat) : Int)
  | _ => 0

/-- The exact value of a finite number (0 for a NaN or an infinity). -/
def F32.rat (a : Word) : ℚ :=
  match F32.val a with
  | .fin s m e => if 0 ≤ e then (signedOf s (m <<< e.toNat) : ℚ) else (signedOf s m : ℚ) / ((2 ^ (-e).toNat : Nat) : ℚ)
  | _ => 0

/-- The integer a quotient is held as, where the spec states no rounding: itself when it is whole, else the one below or the one
above it, freely (assumption log 1). -/
def quot (n d : Int) : Int :=
  if d = 0 then Config.overZero n else if n % d = 0 then n / d else n / d + bit (Config.roundUp n d)

/-- The integer a real quantity is held as, where the spec states no rounding. -/
def roundRat (q : ℚ) : Int := quot q.num q.den

/-- The integer a binary32 quantity is held as, where the spec states no rounding. -/
def roundF (w : Word) : Int := if F32.special w then Config.roundF32 w else roundRat (F32.rat w)

/-- The integer nearest to a quotient; a tie is free, since the spec states no rule for it. -/
def nearest (n : Int) (d : Nat) : Int :=
  let q := n / (d : Int)
  let r := n % (d : Int)
  if 2 * r < d then q else if (d : Int) < 2 * r then q + 1 else q + bit (Config.roundUp n d)

/-- The integer nearest to a real quantity; a tie is free. -/
def nearestRat (q : ℚ) : Int := nearest q.num q.den

/-- The integer nearest to a binary32 quantity; a tie is free. -/
def roundNear (w : Word) : Int := if F32.special w then Config.roundF32 w else nearestRat (F32.rat w)

/-- A power of two with a signed exponent. -/
def pow2 (e : Int) : ℚ := if 0 ≤ e then ((2 ^ e.toNat : Nat) : ℚ) else 1 / ((2 ^ (-e).toNat : Nat) : ℚ)

/-! ### Functions of a real number that the spec names and whose rounding it does not state -/

/-- The next binary32 above or below a finite value. -/
def F32.next (w : Word) (up : Bool) : Word :=
  if F32.abs w = 0 then (if up then 0x00000001 else 0x80000001)
  else if up = w.getLsbD 31 then w - 1 else w + 1

/-- The binary32 held for a real quantity that lies within 1 part in 2^80 of `q`: the value itself where that is a binary32,
else one of its two neighbours, freely (assumption log 1). -/
def F32.near (q : ℚ) : Word :=
  let g := F32.round (decide (q < 0)) ((q.num.natAbs <<< 320) / q.den) (-320) (decide ((q.num.natAbs <<< 320) % q.den ≠ 0))
  if F32.special g then (if Config.roundUp q.num q.den then g else F32.next g (g.getLsbD 31))
  else
    let e := F32.rat g
    if (if e < q then q - e else e - q) * pow2 80 ≤ (if q < 0 then -q else q) then g
    else if Config.roundUp q.num q.den = decide (e < q) then F32.next g (decide (e < q)) else g

/-- The sum of the odd powers z^(2i+1) / (2i+1) of a fixed-point number of 128 binary places, from place `i` on, `n` terms. -/
def atanhSum (z2 : Nat) : Nat → Nat → Nat → Nat
  | 0, _, _ => 0
  | n + 1, i, zp => zp / (2 * i + 1) + atanhSum z2 n (i + 1) (zp * z2 / 2 ^ 128)

/-- The inverse hyperbolic tangent of `a / b`, at most 1/3, in fixed point. -/
def atanhFix (a b : Nat) : Nat :=
  let z := a * 2 ^ 128 / b
  atanhSum (z * z / 2 ^ 128) 42 0 z

/-- The natural logarithm (R198, R200, R323). -/
def F32.ln (w : Word) : Word :=
  match F32.val w with
  | .fin false m e =>
    if m = 0 then Config.lnF32 w
    else
      let k := Nat.log2 m
      let x : Int := 2 * atanhFix (m - 2 ^ k) (m + 2 ^ k) + (e + k) * (2 * atanhFix 1 3 : Nat)
      F32.near ((x : ℚ) / pow2 128)
  | _ => Config.lnF32 w

/-- The terms r^i / i! of the exponential in fixed point, from term `i` on, `n` terms. -/
def expSum (r : Int) : Nat → Nat → Int → Int
  | 0, _, _ => 0
  | n + 1, i, t => t + expSum r n (i + 1) (t * r / ((i : Int) + 1) / 2 ^ 400)

/-- A fixed-point number squared `n` times. -/
def squares : Nat → Int → Int
  | 0, x => x
  | n + 1, x => squares n (x * x / 2 ^ 400)

/-- The exponential (R196). -/
def F32.exp (w : Word) : Word :=
  if F32.special w then Config.expF32 w
  else
    let q := max (-128) (min 128 (F32.rat w))
    let r : Int := q.num * 2 ^ 392 / q.den
    F32.near ((squares 8 (expSum r 60 0 (2 ^ 400)) : ℚ) / pow2 400)

/-- π in fixed point with 192 binary places. -/
def piFix : Nat := 0x3243F6A8885A308D313198A2E03707344A4093822299F31D0

/-- The terms of the sine in fixed point of 192 places: `t` is the term of power `2i + 1`. -/
def sinSum (x2 : Int) : Nat → Nat → Int → Int
  | 0, _, _ => 0
  | n + 1, i, t => t + sinSum x2 n (i + 1) (-(t * x2 / 2 ^ 192 / ((2 * i + 2) * (2 * i + 3) : Nat)))

/-- The sine of a quarter cycle's part `a / b`, in fixed point of 192 places. -/
def sinQuarter (a b : Nat) : Int :=
  let x : Int := piFix * a / (2 * b)
  sinSum (x * x / 2 ^ 192) 24 0 x

/-- The sine of the phase `a / b` of a cycle, in fixed point of 192 places. -/
def sinFix (a b : Nat) : Int :=
  let r := 4 * (a % b) % b
  match 4 * (a % b) / b with
  | 0 => sinQuarter r b
  | 1 => sinQuarter (b - r) b
  | 2 => -sinQuarter r b
  | _ => -sinQuarter (b - r) b

/-- The cosine of the phase `a / b` of a cycle, in fixed point of 192 places. -/
def cosFix (a b : Nat) : Int := sinFix (4 * a + b) (4 * b)

/-- The sine of the phase `a / b` of a cycle (R237, R261). -/
def F32.sin (a b : Nat) : Word :=
  let v := sinFix a b
  if v = 0 then 0 else F32.near ((v : ℚ) / pow2 192)

/-! ### binary16 -/

/-- The binary32 of a binary16 (exact). -/
def F16.toF32 (h : Nat) : Word :=
  let s := h.testBit 15
  let ex := bits h 14 10
  let f := h % 1024
  if ex = 31 then (if f = 0 then F32.inf s else F32.nan)
  else if ex = 0 then F32.round s f (-24) false
  else F32.round s (f + 1024) ((ex : Int) - 25) false

/-- The binary16 nearest to a binary32, ties to even. -/
def F16.ofF32 (w : Word) : Nat :=
  match F32.val w with
  | .nan => 0x7E00
  | .inf s => bit s * 2 ^ 15 + 0x7C00
  | .fin s m e =>
    let sg := bit s * 2 ^ 15
    if m = 0 then sg
    else
      let len : Int := Nat.log2 m + 1
      let t : Int := max (len - 11) (-24 - e)
      let q : Nat := if t ≤ 0 then m <<< (-t).toNat else (roundHalfEven (m : Int) (2 ^ t.toNat)).toNat
      if q < 1024 then sg + q
      else
        let b := (e + t + 25).toNat * 1024 + (q - 1024)
        if b ≥ 31 * 1024 then sg + 0x7C00 else sg + b

/-! ### Complex values -/

def Cplx.one : Cplx := {}
def Cplx.add (a b : Cplx) : Cplx := ⟨F32.add a.re b.re, F32.add a.im b.im⟩
def Cplx.sub (a b : Cplx) : Cplx := ⟨F32.sub a.re b.re, F32.sub a.im b.im⟩
def Cplx.scale (k : Word) (a : Cplx) : Cplx := ⟨F32.mul k a.re, F32.mul k a.im⟩
def Cplx.mul (a b : Cplx) : Cplx :=
  ⟨F32.sub (F32.mul a.re b.re) (F32.mul a.im b.im), F32.add (F32.mul a.re b.im) (F32.mul a.im b.re)⟩
/-- |a|². -/
def Cplx.norm2 (a : Cplx) : Word := F32.add (F32.mul a.re a.re) (F32.mul a.im a.im)
def Cplx.div (a b : Cplx) : Cplx :=
  let n := Cplx.mul a ⟨b.re, F32.neg b.im⟩
  let d := Cplx.norm2 b
  ⟨F32.div n.re d, F32.div n.im d⟩

/-! ### Check codes -/

/-- One bit of the reflected CRC-32 of IEEE 802.3. -/
def crc32Bit (c : Nat) : Nat := if c % 2 = 1 then (c / 2) ^^^ 0xEDB88320 else c / 2

/-- One byte of it. -/
def crc32Byte (c : Nat) (b : Byte) : Nat :=
  let x := c ^^^ b.toNat
  crc32Bit (crc32Bit (crc32Bit (crc32Bit (crc32Bit (crc32Bit (crc32Bit (crc32Bit x)))))))

/-- The CRC-32 with the IEEE 802.3 polynomial (R105). -/
def crc32 (l : List Byte) : Nat := (l.foldl crc32Byte 0xFFFFFFFF) ^^^ 0xFFFFFFFF

/-- One bit of the CRC-8 with polynomial x⁸ + x² + x + 1. -/
def crc8Bit (c : Nat) : Nat := if c ≥ 128 then (c * 2 % 256) ^^^ 0x07 else c * 2

/-- The CRC-8 of R472. -/
def crc8 (l : List Byte) : Nat :=
  l.foldl (fun c b =>
    let x := c ^^^ b.toNat
    crc8Bit (crc8Bit (crc8Bit (crc8Bit (crc8Bit (crc8Bit (crc8Bit (crc8Bit x)))))))) 0

/-- Whether the last four bytes of a frame are the CRC-32 of the bytes before them (R531, R533). -/
def frameGood (l : List Byte) : Bool := crc32 (l.take (l.length - 4)) == leAt l (l.length - 4) 4

/-- Whether the CRC-32 stored at offset `o` of a file matches the file with that field at 0. -/
def crcOkAt (l : List Byte) (o : Nat) : Bool := crc32 (patch l o (zeros 4)) == leAt l o 4

end Sys2Proof.Machine

namespace Sys2Proof

/-- Whether an enumeration frame passes its check. -/
def EnumFrame.crcOk (f : EnumFrame) : Bool := Machine.frameGood f.bytes

/-- Whether a ring cycle frame passes its check. -/
def RingFrame.crcOk (f : RingFrame) : Bool := Machine.frameGood f.bytes

end Sys2Proof
end

