-- ==== Sys2Proof/Machine/Operands.lean ====
section
/-!
DEFINITION. Machine/Operands.lean: the operand forms of the commands: the fields of a host command's TAG word and payload
(R359, R398, R402), the statuses and event codes (R445, R447), and the table of opcodes with their classes, observer marks,
lengths and functions (R28, R384 and the tables of the command reference).
-/
namespace Sys2Proof.Machine

/-! ### Status codes (R447) -/
namespace St
def ok : Nat := 0x0000
def busyTag : Nat := 0x0001
def busyCredit : Nat := 0x0002
def busyBulk : Nat := 0x0003
def busyIntake : Nat := 0x0004
def busyNobuf : Nat := 0x0005
def badOpcode : Nat := 0x0010
def badClass : Nat := 0x0011
def badLength : Nat := 0x0012
def denied : Nat := 0x0013
def revoked : Nat := 0x0014
def revokeLate : Nat := 0x0015
def revokeNotag : Nat := 0x0016
def bulkTimeout : Nat := 0x0017
def noSession : Nat := 0x0020
def noCredit : Nat := 0x0021
def keyEmpty : Nat := 0x0022
def noRight : Nat := 0x0023
def authFail : Nat := 0x0024
def authLockout : Nat := 0x0025
def badParam : Nat := 0x0030
def modeWrong : Nat := 0x0031
def addrUnmapped : Nat := 0x0032
def domainOff : Nat := 0x0033
def addrAlign : Nat := 0x0034
def memFault : Nat := 0x0035
def coreRestart : Nat := 0x0036
def noData : Nat := 0x0037
def dataGone : Nat := 0x0038
def actionBusy : Nat := 0x0039
def commitBusy : Nat := 0x003A
def modeDenied : Nat := 0x0040
def modeBusy : Nat := 0x0041
def modePrecond : Nat := 0x0042
def holdCause : Nat := 0x0043
def clusterMember : Nat := 0x0044
def modePreempt : Nat := 0x0045
def geomFormat : Nat := 0x0050
def geomCrc : Nat := 0x0051
def geomAsym : Nat := 0x0052
def geomPairs : Nat := 0x0053
def tomoRunning : Nat := 0x0054
def calFormat : Nat := 0x0055
def calCrc : Nat := 0x0056
def matFormat : Nat := 0x0060
def matCrc : Nat := 0x0061
def matSize : Nat := 0x0062
def modelFormat : Nat := 0x0063
def modelCrc : Nat := 0x0064
def modelValue : Nat := 0x0065
def refFormat : Nat := 0x0066
def refCrc : Nat := 0x0067
def anchorNoparcel : Nat := 0x0068
def anchorUnfit : Nat := 0x0069
def anchorOutlier : Nat := 0x006A
def capturePending : Nat := 0x006B
def captureNone : Nat := 0x006C
def locked : Nat := 0x0070
def norec : Nat := 0x0071
def lotFull : Nat := 0x0072
def notHolder : Nat := 0x0073
def linFormat : Nat := 0x0080
def linCrc : Nat := 0x0081
def linValue : Nat := 0x0082
def fbNotbusoff : Nat := 0x0090
def fbObj : Nat := 0x0091
def notDealer : Nat := 0x0092
def memberAbsent : Nat := 0x0093
def thrNoask : Nat := 0x0094
def fwFormat : Nat := 0x00A0
def fwCrc : Nat := 0x00A1
def bankEmpty : Nat := 0x00A2

/-- Every code a completion can carry but OK. -/
def failures : List Nat :=
  [busyTag, busyCredit, busyBulk, busyIntake, busyNobuf, badOpcode, badClass, badLength, denied, revoked, revokeLate, revokeNotag, bulkTimeout] ++
  [noSession, noCredit, keyEmpty, noRight, authFail, authLockout, badParam, modeWrong, addrUnmapped, domainOff, addrAlign, memFault, coreRestart] ++
  [noData, dataGone, actionBusy, commitBusy, modeDenied, modeBusy, modePrecond, holdCause, clusterMember, modePreempt, geomFormat, geomCrc] ++
  [geomAsym, geomPairs, tomoRunning, calFormat, calCrc, matFormat, matCrc, matSize, modelFormat, modelCrc, modelValue, refFormat, refCrc] ++
  [anchorNoparcel, anchorUnfit, anchorOutlier, capturePending, captureNone, locked, norec, lotFull, notHolder, linFormat, linCrc, linValue] ++
  [fbNotbusoff, fbObj, notDealer, memberAbsent, thrNoask, fwFormat, fwCrc, bankEmpty]
end St

/-! ### Event codes (R445) -/
namespace Ev
def modeChange : Nat := 0
def modeHold : Nat := 1
def calDone : Nat := 2
def sessionEnd : Nat := 3
def coreRestart : Nat := 4
def encStall : Nat := 5
def encReverse : Nat := 6
def encLost : Nat := 7
def encLostTimeout : Nat := 8
def mainsLost : Nat := 9
def recOverrun : Nat := 10
def recOverrunRun : Nat := 11
def refDrift : Nat := 12
def refCaptured : Nat := 13
def loopSrcbad : Nat := 14
def loopPlaus : Nat := 15
def vdrvFault : Nat := 16
def fanFault : Nat := 17
def fanStall : Nat := 18
def affFault : Nat := 19
def cfgParity : Nat := 20
def throttleAsk : Nat := 21
def holdupMismatch : Nat := 22
def memUncorr : Nat := 23
def pathSwitch : Nat := 24
def fbBusoff : Nat := 25
def memberLost : Nat := 26
def clusterDisagree : Nat := 27
def sweepDone : Nat := 28
def sineDone : Nat := 29
def commitDone : Nat := 30
end Ev

/-! The pool clients of R558. -/
namespace Client
def engine : Nat := 0
def fieldBus : Nat := 1
def ring : Nat := 2
def host : Nat := 3
def firmware : Nat := 4
end Client

/-! The classes of R359. -/
namespace Cls
def a : Nat := 0
def b : Nat := 1
def c : Nat := 2
def d : Nat := 3
end Cls

/-- The tag of a TAG word. -/
def tagOf (tagw : Nat) : Nat := tagw % 512

/-- The class of a TAG word. -/
def classOf (tagw : Nat) : Nat := bits tagw 15 13

/-- Who may send an opcode: any session, control sessions only, a pending session (PROVE), or nobody's session
(SESSION 0x0000). -/
inductive Obs where
  | yes
  | no
  | pending
  | outside
deriving DecidableEq, Repr

/-- What the tables of the command reference say of an opcode: class, observer mark, the payload length of its row (without its
repeated item) and the longest completion payload. -/
structure OpInfo where
  cls : Nat
  obs : Obs
  len : Nat
  reply : Nat
deriving DecidableEq, Repr

/-- A class D request of `n` bytes after its 8-byte head, with no completion payload (R402). -/
def bulkInfo (o : Obs) (n : Nat) : OpInfo := ⟨Cls.d, o, 8 + n, 0⟩

/-- The opcodes (R405 to R444); `none` for one that no table defines. -/
def opInfo : Nat → Option OpInfo
  | 0x0001 => some ⟨Cls.b, .yes, 0, 28⟩
  | 0x0002 => some ⟨Cls.b, .no, 4, 4⟩
  | 0x0003 => some ⟨Cls.b, .no, 4, 0⟩
  | 0x0101 => some ⟨Cls.b, .outside, 4, 20⟩
  | 0x0102 => some ⟨Cls.b, .pending, 16, 4⟩
  | 0x0103 => some ⟨Cls.b, .outside, 4, 6⟩
  | 0x0104 => some ⟨Cls.b, .yes, 0, 0⟩
  | 0x0105 => some ⟨Cls.a, .yes, 0, 0⟩
  | 0x0106 => some ⟨Cls.a, .yes, 2, 0⟩
  | 0x0107 => some ⟨Cls.a, .yes, 8, 0⟩
  | 0x0201 => some ⟨Cls.a, .yes, 4, 4⟩
  | 0x0202 => some ⟨Cls.a, .no, 8, 0⟩
  | 0x0203 => some ⟨Cls.a, .yes, 8, 256⟩
  | 0x0204 => some ⟨Cls.a, .no, 8, 4⟩
  | 0x0205 => some ⟨Cls.a, .yes, 4, 256⟩
  | 0x0301 => some ⟨Cls.b, .yes, 0, 280⟩
  | 0x0302 => some ⟨Cls.b, .no, 8, 16⟩
  | 0x0303 => some ⟨Cls.b, .no, 12, 0⟩
  | 0x0304 => some ⟨Cls.b, .no, 4, 0⟩
  | 0x0401 => some (bulkInfo .no 0)
  | 0x0402 => some (bulkInfo .yes 0)
  | 0x0403 => some ⟨Cls.b, .no, 0, 0⟩
  | 0x0404 => some (bulkInfo .no 0)
  | 0x0405 => some (bulkInfo .yes 0)
  | 0x0406 => some ⟨Cls.c, .no, 0, 0⟩
  | 0x0407 => some (bulkInfo .yes 0)
  | 0x0408 => some (bulkInfo .yes 8)
  | 0x0501 => some (bulkInfo .no 0)
  | 0x0502 => some ⟨Cls.b, .yes, 0, 52⟩
  | 0x0503 => some ⟨Cls.c, .no, 516, 0⟩
  | 0x0504 => some ⟨Cls.b, .yes, 4, 512⟩
  | 0x0505 => some (bulkInfo .no 0)
  | 0x0506 => some (bulkInfo .yes 0)
  | 0x0507 => some ⟨Cls.b, .no, 20, 0⟩
  | 0x0508 => some ⟨Cls.c, .no, 0, 8⟩
  | 0x0509 => some ⟨Cls.c, .no, 24, 12⟩
  | 0x050A => some ⟨Cls.c, .yes, 8, 1024⟩
  | 0x050B => some (bulkInfo .yes 20)
  | 0x0601 => some ⟨Cls.b, .no, 104, 4⟩
  | 0x0602 => some ⟨Cls.b, .no, 4, 0⟩
  | 0x0603 => some ⟨Cls.b, .yes, 4, 256⟩
  | 0x0604 => some ⟨Cls.b, .no, 8, 0⟩
  | 0x0605 => some ⟨Cls.b, .yes, 4, 128⟩
  | 0x0606 => some ⟨Cls.b, .no, 12, 0⟩
  | 0x0607 => some ⟨Cls.b, .no, 8, 4⟩
  | 0x0608 => some ⟨Cls.b, .no, 8, 0⟩
  | 0x0609 => some (bulkInfo .yes 8)
  | 0x060A => some (bulkInfo .yes 8)
  | 0x0701 => some ⟨Cls.c, .yes, 0, 200⟩
  | 0x0801 => some ⟨Cls.b, .yes, 0, 36⟩
  | 0x0802 => some (bulkInfo .yes 8)
  | 0x0803 => some ⟨Cls.b, .no, 1028, 0⟩
  | 0x0804 => some ⟨Cls.b, .yes, 4, 1024⟩
  | 0x0901 => some ⟨Cls.c, .yes, 0, 640⟩
  | 0x0902 => some ⟨Cls.b, .no, 8, 0⟩
  | 0x0A01 => some ⟨Cls.c, .yes, 4, 1344⟩
  | 0x0A02 => some ⟨Cls.c, .no, 132, 0⟩
  | 0x0A03 => some ⟨Cls.b, .yes, 4, 128⟩
  | 0x0A04 => some ⟨Cls.b, .no, 0, 0⟩
  | 0x0B01 => some ⟨Cls.b, .no, 16, 0⟩
  | 0x0B02 => some ⟨Cls.c, .yes, 0, 128⟩
  | 0x0C01 => some ⟨Cls.c, .yes, 0, 64⟩
  | 0x0C02 => some ⟨Cls.b, .no, 4, 0⟩
  | 0x0C03 => some ⟨Cls.b, .no, 4, 0⟩
  | 0x0D01 => some ⟨Cls.b, .no, 8, 0⟩
  | 0x0D02 => some ⟨Cls.b, .no, 4, 0⟩
  | 0x0D03 => some ⟨Cls.c, .yes, 0, 72⟩
  | 0x0E01 => some ⟨Cls.c, .yes, 0, 100⟩
  | 0x0E02 => some ⟨Cls.b, .no, 4, 0⟩
  | 0x0F01 => some ⟨Cls.c, .yes, 0, 36⟩
  | 0x0F02 => some ⟨Cls.b, .no, 4, 0⟩
  | 0x1001 => some (bulkInfo .no 0)
  | 0x1002 => some ⟨Cls.b, .yes, 0, 28⟩
  | 0x1003 => some ⟨Cls.b, .no, 4, 0⟩
  | 0x1004 => some ⟨Cls.c, .yes, 0, 12⟩
  | 0x1101 => some ⟨Cls.c, .yes, 0, 8⟩
  | _ => none

/-- Whether an opcode allows the length of payload `p` (R384): the length of its row, and for the rows with a repeated item the
length that the count in the payload states (assumption log 8). -/
def lengthOk (op : Nat) (p : List Byte) : Bool :=
  match opInfo op with
  | none => true
  | some i =>
    if op = 0x0204 then decide (p.length = 8 + 4 * leAt p 4 2)
    else if op = 0x0205 then decide (p.length = 4 + 4 * leAt p 0 2)
    else if op = 0x0604 then decide (p.length = 8 + leAt p 4 2)
    else if op = 0x0C03 then decide (p.length = 4 + leAt p 2 1)
    else decide (p.length = i.len)

/-- The command core that runs a function (R28): 0 to 3 for CC0 to CC3. -/
def coreOf (fn : Nat) : Nat :=
  if fn ∈ [0x03, 0x08, 0x09, 0x0C, 0x0D, 0x0E, 0x0F] then 3
  else if fn ∈ [0x04, 0x05, 0x0A] then 1
  else if fn ∈ [0x06, 0x07, 0x0B] then 2
  else 0

/-- Buffers that `b` bytes take (R557). -/
def bufsOf (b : Nat) : Nat := (b + 255) / 256

/-- Buffers of a host frame with a payload of `n` bytes: 42 bytes to the end of the UDP header and 16 of R359 (R557). -/
def frameBufs (n : Nat) : Nat := bufsOf (42 + 16 + n)

end Sys2Proof.Machine
end

