-- ==== Sys2Proof/Machine/FieldJob.lean ====
section
/-!
DEFINITION. Machine/FieldJob.lean: what a field measurement takes on its way (R305, R306, R327): the settings at its make, and the
mains period at the start of each window. No command marks those instants, so the values are taken just before anything can
change them, from the registers as they stood then.
-/
namespace Sys2Proof.Machine

/-- Changes the field front end's data. -/
def modAff (f : AffS → AffS) : Op Unit := modU fun u => { u with aff := f u.aff }

/-- The field front end's data. -/
def affS : Op AffS := do let u ← units; pure u.aff

/-- Changes converter `k`. -/
def modConv (k : Nat) (f : FieldConv → FieldConv) : Op Unit := modAff fun a => { a with convs := updAt a.convs k f }

/-- Converter `k`. -/
def getConv (k : Nat) : Op FieldConv := do let a ← affS; pure (a.convs.getD k {})

/-- The linearisation table `t`, if it is not empty. -/
def linAt (a : AffS) (t : Nat) : Option (List Byte) := (a.lins.find? (fun x => x.1 = t)).map (·.2)

/-- The settings of input `i` as they stand (R327). -/
def fieldLatch (i : Nat) : Op FieldLatch := do
  let a ← affS
  let wire ← gf (F.AFF_ICFG_WIRE i)
  let fix ← bf (F.AFF_ICFG_LFIX i)
  let settle ← gf (F.AFF_ICFG_SETTLE i)
  let exc ← gf (F.AFF_ICFG_EXC i)
  let lin ← bf (F.AFF_ILIN_LEN i)
  let t ← gf (F.AFF_ILIN_TABLE i)
  let partner ← gf (F.AFF_ILIN_PARTNER i)
  let lead ← gf (F.AFF_ILEAD_R i)
  let k ← gf (F.AFF_ILEADK_K i)
  let sr ← gf F.AFF_SHORTR_R
  let lt ← gf F.AFF_LEAKTHR_THR
  let lm ← gf F.AFF_LEAKMIN_MIN
  pure ⟨wire, fix, settle, lin, linAt a t, partner, lead, k, sr, lt, lm, exc⟩

/-- The settle time of a latch in ns. -/
def FieldLatch.s (l : FieldLatch) : Nat := (l.settle + 1) * 500000

/-- The window of R305 in µs, and whether it had to be limited. -/
def fieldWindow : Op (Nat × Bool) := do
  let p ← rd R.ENC_MPER
  let us := (nearest p.toNat 100).toNat
  pure (max 15380 (min 22220 us), decide (us < 15380 ∨ 22220 < us))

/-- The windows of a measurement that have started by now take their period (R305); a window in progress notes free-running
(R306). -/
def fieldWindows (j : FieldJob) (l : FieldLatch) : Op FieldJob := do
  let t ← now
  let w ← fieldWindow
  let free ← bf F.ENC_MSTAT_FREERUN
  let start1 := j.since + 50000 + l.s
  let j1 := if j.p1.isNone ∧ start1 ≤ t then { j with p1 := some w.1, notchx := j.notchx || w.2 } else j
  let in2 : Bool := match j1.reversed with | some r => decide (r + l.s ≤ t) | none => false
  let j2 := if j1.p2.isNone ∧ in2 = true then { j1 with p2 := some w.1, notchx := j1.notchx || w.2 } else j1
  let running : Bool := (j2.p1.isSome && j2.reversed.isNone) || j2.p2.isSome
  pure { j2 with notchx := j2.notchx || (running && free) }

/-- The measurement of converter `k` takes what its instants call for: at its make also the shunt of a loop input closes (R308). -/
def fieldLatchOne (k : Nat) : Op Unit := do
  let t ← now
  let c ← getConv k
  match c.job with
  | none => pure ()
  | some j =>
    if t < j.since + 50000 then pure ()
    else do
      onlyIf (j.latch.isNone && j.kind == 4) (modAff fun a => { a with shuntOpen := a.shuntOpen.filter (· ≠ j.input) })
      let l ← match j.latch with | some l => pure l | none => fieldLatch j.input
      let j1 ← fieldWindows { j with latch := some l } l
      modConv k fun c => { c with job := some j1 }

/-- Every measurement takes what its instants call for, before a register changes that it would have taken. -/
def fieldLatchDue : Op Unit := each fieldLatchOne (List.range 8)

end Sys2Proof.Machine
end

