-- ==== Sys2Proof/Machine/Copies.lean ====
section
/-!
DEFINITION. Machine/Copies.lean: the working copies of a path domain and their saved images (R504, R507, R508): what a link writes
to them, what a save captures, and what a restart of the standby loads.
-/
namespace Sys2Proof.Machine

/-- Entries of a change log (R507). -/
def changeLogSize : Nat := 1024

/-- A set of working copies with copy `k` at `v`. -/
def copySet (c : Copies) (x : CopyKey × Nat) : Copies := x :: c.filter (fun y => y.1 ≠ x.1)

/-- Link `k` at time `t`: a save whose time has passed is complete, so its slot holds the image and the change log holds what was
written since it began (R507). -/
def linkSettle (t : Nat) (k : NetLink) : NetLink :=
  match k.saving with
  | none => k
  | some s =>
    if s.doneAt ≤ t then
      { k with saving := none, images := setAt k.images (1 - k.saveSlot) (some s.image), saveSlot := 1 - k.saveSlot, saveAt := some s.doneAt, log := k.log.drop s.mark, lost := s.lost }
    else k

/-- A write of a working copy: from the first save since the reset on it is entered in the change log too, which overflows when it is
full (R507). -/
def copyPut (x : CopyKey × Nat) (k : NetLink) : NetLink :=
  let k := { k with work := copySet k.work x }
  if k.saving.isNone && k.saveAt.isNone then k
  else if k.log.length < changeLogSize then { k with log := k.log ++ [x] }
  else { k with lost := true, saving := k.saving.map fun s => { s with lost := true } }

/-- A save begins: the image is captured, and its slot is complete `ns` later (R507). -/
def saveBegin (t ns sec : Nat) (k : NetLink) : NetLink :=
  { k with saveSec := some sec, saving := some ⟨t + ns, k.work, k.log.length, false⟩ }

/-- The working copies that a restart loads: the last completed image with the change log applied, or those of the master state
when the log has overflowed or no image is complete; a save in progress is abandoned (R508, assumption log 94). An image from before
the last reset is kept and not used (R612). -/
def copyRestore (master : Copies) (k : NetLink) : NetLink :=
  { k with saving := none, work := (match k.images.getD k.saveSlot none with | none => master | some i => if k.lost ∨ k.saveAt = none then master else k.log.foldl copySet i) }

/-- Link `l` beside its registers. -/
def getLink (l : Nat) : Op NetLink := do
  let u ← units
  pure (linkSettle u.elapsed (u.net.links.getD l {}))

/-- Changes link `l`. -/
def modLink (l : Nat) (f : NetLink → NetLink) : Op Unit :=
  modU fun u => { u with net := { u.net with links := updAt u.net.links l fun k => f (linkSettle u.elapsed k) } }

/-- Working copy `x` of link `l` is written. -/
def copyWrite (l : Nat) (x : CopyKey) (v : Nat) : Op Unit := modLink l (copyPut (x, v))

/-- What the master state of link `l` holds for working copy `x` (R504). -/
def masterCopy (l : Nat) (x : CopyKey) : Op Nat := do
  let u ← units
  match x with
  | .txSeq i => pure (u.cmd.sessions.getD i {}).txSeq
  | .hop ip => pure (((u.cmd.arp.find? fun y => y.1 = ip).map (·.2)).getD 0)
  | .filter a => do
    let w ← rd a
    pure w.toNat
  | .schedule => pure (u.fld.buses.getD (l - 1) {}).opened.length
  | .cycle => do
    let w ← rd R.RNG_CYCNT
    pure w.toNat

/-- The listed working copies of link `l` as the master state holds them. -/
def masterCopies (l : Nat) : List CopyKey → Op Copies
  | [] => pure []
  | x :: r => do
    let v ← masterCopy l x
    let c ← masterCopies l r
    pure ((x, v) :: c)

end Sys2Proof.Machine
end

