-- ==== Sys2Proof/Machine/Packet.lean ====
section
/-!
DEFINITION. Machine/Packet.lean: the bytes of a host packet: the 16-byte header of R359, laid out and parsed, and the IPv4 and UDP
headers with their checksums (R356, R357).
-/
namespace Sys2Proof.Machine

/-- The UDP port of the module (R355, R357). -/
def udpPort : Nat := 30471

/-- The 16-byte header of R359: `kind` holds bits 7:0 of byte 1, `len` the payload's length. -/
def headerBytes (kind session seq tagw opcode len status : Nat) : List Byte :=
  leBytes 1 1 ++ leBytes 1 kind ++ leBytes 2 session ++ leBytes 4 seq ++ leBytes 2 tagw ++ leBytes 2 opcode ++ leBytes 2 len ++ leBytes 2 status

/-- The fields of a packet that the host sent, by the header of R359. -/
structure HostHead where
  kind : Nat
  retry : Bool
  last : Bool
  session : Nat
  seq : Nat
  tagw : Nat
  opcode : Nat
deriving DecidableEq, Repr

/-- The header of a UDP payload, where it passes the tests of its form (R360): at least 16 bytes, VERSION 0x01, a KIND that a host
sends, and a LENGTH that is the payload's. -/
def hostHead (d : List Byte) : Option HostHead :=
  let k := leAt d 1 1 % 16
  if d.length < 16 ∨ leAt d 0 1 ≠ 1 ∨ ¬ (k = 1 ∨ k = 4 ∨ k = 5) ∨ leAt d 12 2 + 16 ≠ d.length then none
  else some ⟨k, bitAt (leAt d 1 1) 4, bitAt (leAt d 1 1) 5, leAt d 2 2, leAt d 4 4, leAt d 8 2, leAt d 10 2⟩

/-- The sum of a list's 16-bit words, most significant byte first; a last odd byte counts as the upper one. -/
def wordSum : List Byte → Nat
  | [] => 0
  | [a] => a.toNat * 256
  | a :: b :: l => a.toNat * 256 + b.toNat + wordSum l

/-- A sum of 16-bit words with its carries added in: the one's complement sum of the Internet protocols. -/
def foldSum (s : Nat) : Nat :=
  let a := s / 65536 + s % 65536
  a / 65536 + a % 65536

/-- The 20-byte IPv4 header of a UDP datagram of `n` bytes from `src` to `dst`. Its type of service, identification, do-not-fragment
bit and time to live are free (assumption log 97). -/
def ipv4Header (src dst n : Nat) : List Byte :=
  let f := Config.freeAt "IPv4 header" [src, dst, n]
  let a := [0x45, BitVec.ofNat 8 f] ++ beBytes 2 (20 + n) ++ beBytes 2 (f / 2 ^ 8) ++ beBytes 2 (f / 2 ^ 24 % 2 * 0x4000) ++ [BitVec.ofNat 8 (f / 2 ^ 25), 17]
  let b := beBytes 4 src ++ beBytes 4 dst
  a ++ beBytes 2 (0xFFFF - foldSum (wordSum (a ++ b))) ++ b

/-- The words beside a UDP segment of `n` bytes that its checksum covers: the addresses, the protocol and the length. -/
def udpPseudo (src dst n : Nat) : List Byte := beBytes 4 src ++ beBytes 4 dst ++ [0, 17] ++ beBytes 2 n

/-- A UDP segment with its checksum; one that comes out as 0 is sent as 0xFFFF (assumption log 97). -/
def udpSegment (src dst sport dport : Nat) (d : List Byte) : List Byte :=
  let n := 8 + d.length
  let h := beBytes 2 sport ++ beBytes 2 dport ++ beBytes 2 n
  let c := 0xFFFF - foldSum (wordSum (udpPseudo src dst n ++ h ++ [0, 0] ++ d))
  h ++ beBytes 2 (if c = 0 then 0xFFFF else c) ++ d

/-- The UDP payload of a packet that the module sends (R359). -/
def Pkt.data (p : Pkt) : List Byte := headerBytes p.kind p.session p.seq p.tagw p.opcode p.payload.length p.status ++ p.payload

/-- The IPv4 datagram of a packet sent from address `own` (R357). -/
def Pkt.datagram (p : Pkt) (own : Nat) : List Byte :=
  ipv4Header own p.ip (8 + p.data.length) ++ udpSegment own p.ip udpPort p.port p.data

/-- Whether a datagram's IPv4 header checksum and its UDP checksum, where that is not 0, are right (R356). -/
def checksumsOk (d : List Byte) : Bool :=
  let src := beNat (slice d 12 4)
  let dst := beNat (slice d 16 4)
  let seg := d.drop 20
  foldSum (wordSum (d.take 20)) == 0xFFFF && (beNat (slice seg 6 2) == 0 || foldSum (wordSum (udpPseudo src dst seg.length ++ seg)) == 0xFFFF)

end Sys2Proof.Machine
end

