-- ==== Sys2Proof/Machine/Link.lean ====
section
/-!
DEFINITION. Machine/Link.lean: what every unit sends: buffers from the pools (R556 to R566), packets to sessions with their
sequence numbers and reply queues (R357, R362, R567, R568), events (R394, R445) and completions (R382, R383).
-/
namespace Sys2Proof.Machine

/-! ### Pools -/

/-- A level of R567 is at its limit. -/
def levelFull (level : Nat) : Op Unit := do
  sbit R.POOL_QSTAT (level - 1) true
  sbit R.POOL_QSTAT (15 + level) true
  sb F.POOL_STAT_FULL true

/-- A level of R567 is below its limit again. -/
def levelFree (level : Nat) : Op Unit := sbit R.POOL_QSTAT (level - 1) false

/-- The staging of traces or captures reaches its limit, and is below it again at once (R567 level 1, R569, R570). -/
def stagingFull : Op Unit := do
  levelFull 1
  levelFree 1

/-- The link whose recovery lends to a client: the host link's or the ring's (R522). -/
def clientLink (c : Nat) : Option Nat := if c = Client.host then some 0 else if c = Client.ring then some 5 else none

/-- Buffers that a client holds from every pool, with those that recovery lent its link (R577). -/
def poolHeld (p : PoolS) (c : Nat) : Nat :=
  p.privUsed.getD c 0 + p.kittyUsed.getD c 0 + p.talonUsed.getD c 0 + ((clientLink c).map fun l => p.recovery.getD l 0).getD 0

/-- The client's holding changed: NOW and PEAK of POOL_USE. -/
def poolUse (c : Nat) : Op Unit := do
  let u ← units
  let n := poolHeld u.pool c
  let peak ← gf (F.POOL_USE_PEAK c)
  onlyIf (decide (c < 5)) do
    sf (F.POOL_USE_NOW c) n
    sf (F.POOL_USE_PEAK c) (max peak n)
    sf (F.POOL_TUSE_NOW c) (u.pool.talonUsed.getD c 0)

/-- The free Kitty buffers become `n`. -/
def kittyFree (n : Nat) : Op Unit := do
  let low ← gf F.POOL_KFREE_LOW
  sf F.POOL_KFREE_FREE n
  sf F.POOL_KFREE_LOW (min low n)
  modU fun u => { u with pool := { u.pool with statKLow := min u.pool.statKLow n } }

/-- The free Talon buffers become `n`. -/
def talonFree (n : Nat) : Op Unit := do
  let low ← gf F.POOL_TFREE_LOW
  sf F.POOL_TFREE_FREE n
  sf F.POOL_TFREE_LOW (min low n)
  modU fun u => { u with pool := { u.pool with statTLow := min u.pool.statTLow n } }

/-- Buffers leave a client's private pool. -/
def takePriv (c k : Nat) : Op (Option BufRef) := do
  modU fun u => { u with pool := { u.pool with privUsed := updAt u.pool.privUsed c (· + k) } }
  poolUse c
  pure (some ⟨c, 0, k⟩)

/-- Buffers leave the Kitty. -/
def takeKitty (c k : Nat) : Op (Option BufRef) := do
  let f ← gf F.POOL_KFREE_FREE
  kittyFree (f - k)
  modU fun u => { u with pool := { u.pool with kittyUsed := updAt u.pool.kittyUsed c (· + k) } }
  poolUse c
  pure (some ⟨c, 1, k⟩)

/-- Buffers leave the Talon. -/
def takeTalon (c k : Nat) : Op (Option BufRef) := do
  let f ← gf F.POOL_TFREE_FREE
  talonFree (f - k)
  modU fun u => { u with pool := { u.pool with talonUsed := updAt u.pool.talonUsed c (· + k) } }
  poolUse c
  sb F.POOL_STAT_TALON true
  pure (some ⟨c, 2, k⟩)

/-- A request is refused (R565). -/
def poolRefuse : Op (Option BufRef) := do
  cntWrap F.POOL_NOBUFCNT_CNT 1
  sb F.POOL_STAT_NOBUF true
  pure none

/-- Whether a client's private pool holds `k` free buffers. -/
def privHolds (u : Units) (c k : Nat) : Bool := decide (u.pool.privUsed.getD c 0 + k ≤ u.pool.priv.getD c 0)

/-- The requests that have reached the Kitty in the arbiter cycle of now, 5 ns long (R559). -/
def cycleReqs (u : Units) : List (Nat × Nat) := if u.pool.cycle = u.elapsed / 5 then u.pool.reqs else []

/-- A request of client `c` that reached the Kitty is settled (R563): `how` is 0 from the Kitty, 8 from the Talon, 16 refused. Where
requests of several clients came in the cycle and the Kitty did not serve them all, POOL_CONTEST shows who won and who lost, and the
cycle counts as one contest. -/
def kittySettled (c how : Nat) : Op Unit := do
  let u ← units
  let l := cycleReqs u ++ [(c, how)]
  let counted := u.pool.contest && decide (u.pool.cycle = u.elapsed / 5)
  let hit := l.any (fun x => x.1 != c) && l.any (fun x => x.2 != 0)
  modU fun u => { u with pool := { u.pool with reqs := l, cycle := u.elapsed / 5, contest := counted || hit } }
  onlyIf hit (wrN R.POOL_CONTEST (l.foldl (fun w x => w ||| 2 ^ (x.1 + x.2)) 0))
  onlyIf (hit && !counted) (cntSat F.POOL_CONTCNT_CNT 1)

/-- A request for `k` buffers under the ordinary rules (R559, R563, R564). `many` says that requests of other clients that the Kitty cannot
serve beside it reach it in the cycle; so does a request of another client that has come before it in the cycle. A request that finds
the Kitty short then loses a contest, and is served from the Talon within the client's entitlement; else it is refused. -/
def poolSettle (many : Bool) (c k : Nat) : Op (Option BufRef) := do
  let u ← units
  if privHolds u c k then takePriv c k
  else do
    let f ← gf F.POOL_KFREE_FREE
    let t ← gf F.POOL_TFREE_FREE
    let rivals := many || (cycleReqs u).any fun x => x.1 != c
    if k ≤ f then do
      kittySettled c 0
      takeKitty c k
    else if rivals = true ∧ u.pool.talonUsed.getD c 0 + k ≤ u.pool.tent.getD c 0 ∧ k ≤ t then do
      kittySettled c 8
      takeTalon c k
    else do
      kittySettled c 16
      poolRefuse

/-- The recovery buffers of link `l` become `n` (NET_TALONUSE). -/
def recoverySet (l n : Nat) : Op Unit := do
  let peak ← gf (F.NET_TALONUSE_PEAK l)
  modU fun u => { u with pool := { u.pool with recovery := setAt u.pool.recovery l n } }
  sf (F.NET_TALONUSE_NOW l) n
  sf (F.NET_TALONUSE_PEAK l) (max peak n)

/-- A request of a link that sends its frozen queue: the Talon up to the link's entitlement, and past it the ordinary rules
(R522). -/
def poolRecover (many : Bool) (l c k : Nat) : Op (Option BufRef) := do
  let u ← units
  let f ← gf F.POOL_TFREE_FREE
  let held := u.pool.recovery.getD l 0
  if held + k ≤ (u.net.links.getD l {}).ent ∧ k ≤ f then do
    talonFree (f - k)
    recoverySet l (held + k)
    poolUse c
    pure (some ⟨c, 3, k⟩)
  else do
    sb F.NET_STAT_TALONX true
    poolSettle many c k

/-- A request for `k` buffers of client `c`; `many` as for `poolSettle`. -/
def poolBeside (many : Bool) (c k : Nat) : Op (Option BufRef) := do
  let u ← units
  match clientLink c with
  | none => poolSettle many c k
  | some l => if (u.net.links.getD l {}).flush then poolRecover many l c k else poolSettle many c k

/-- A request for `k` buffers of client `c` of which no request beside it is known (assumption log 16). -/
def poolTake (c k : Nat) : Op (Option BufRef) := poolBeside false c k

/-- Buffers return to the pool they were taken from (R560). -/
def poolGive : Option BufRef → Op Unit
  | none => pure ()
  | some ⟨c, src, k⟩ => do
    if src = 0 then
      modU fun u => { u with pool := { u.pool with privUsed := updAt u.pool.privUsed c (· - k) } }
    else if src = 1 then
      let f ← gf F.POOL_KFREE_FREE
      kittyFree (f + k)
      modU fun u => { u with pool := { u.pool with kittyUsed := updAt u.pool.kittyUsed c (· - k) } }
    else if src = 3 then
      let f ← gf F.POOL_TFREE_FREE
      let u ← units
      let l := (clientLink c).getD 0
      talonFree (f + k)
      recoverySet l (u.pool.recovery.getD l 0 - k)
    else
      let f ← gf F.POOL_TFREE_FREE
      talonFree (f + k)
      modU fun u => { u with pool := { u.pool with talonUsed := updAt u.pool.talonUsed c (· - k) } }
    poolUse c

/-! ### Sessions -/

/-- Session record `i`. -/
def getSess (i : Nat) : Op Session := do let u ← units; pure (u.cmd.sessions.getD i {})

/-- Changes session record `i`. -/
def modSess (i : Nat) (f : Session → Session) : Op Unit :=
  modU fun u => { u with cmd := { u.cmd with sessions := updAt u.cmd.sessions i f } }

/-- The frame sequence counter of session record `i` takes `n`, with its working copy (R362, R504). -/
def seqSet (i n : Nat) : Op Unit := do
  modSess i fun s => { s with txSeq := n }
  copyWrite 0 (.txSeq i) n

/-- The next packet of session record `i` takes its sequence number (R362). -/
def seqNext (i : Nat) : Op Unit := do
  let s ← getSess i
  seqSet i ((s.txSeq + 1) % 2 ^ 32)

/-- The numbers of the four session records. -/
def sessIdx : List Nat := [0, 1, 2, 3]

/-- The record that holds session ID `sid`, pending or open. -/
def findSess (l : List Session) (sid : Nat) : Option Nat :=
  sessIdx.find? fun i => decide ((l.getD i {}).st ≠ .free ∧ (l.getD i {}).sid = sid)

/-- Outstanding tags of all sessions (R379). -/
def inflight (u : Units) : Nat := (u.cmd.sessions.map fun s => s.tags.length).foldl (· + ·) 0

/-- The next hop of an address: itself within the prefix in force, else the gateway; `none` where there is none (R357). -/
def nextHop (ip : Nat) : Op (Option Nat) := do
  let own ← rd R.CMD_IP
  let gw ← rd R.CMD_GW
  let pfx ← gf F.CMD_PFX_PFX
  let d := 2 ^ (32 - pfx)
  if own.toNat / d = ip / d then pure (some ip)
  else if gw = 0 then pure none
  else pure (some gw.toNat)

/-- Whether the active host port sends: its domain is on, no switch-over holds it up, and the plant supply stands (R505, R513,
R621). -/
def portUp : Op Bool := do
  let u ← units
  let p ← gf (F.NET_LSTAT_ACTIVE 0)
  let on ← domainOn (128 + p)
  let l := u.net.links.getD 0 {}
  let dark : Bool := match u.pwr.loss with
    | none => false
    | some x => x.confirmed
  pure (on && !l.want && !l.gap && !l.flush && !dark)

/-- Whether a frame to an address can leave on the active host port now (R357, R513, R568). -/
def canSend (ip : Nat) : Op Bool := do
  let hop ← nextHop ip
  let up ← portUp
  pure (hop.isSome && up)

/-- A completion that leaves after its bound counts as late (R387). -/
def lateCheck (deadline : Option Nat) : Op Unit := do
  let t ← now
  match deadline with
  | none => pure ()
  | some d => onlyIf (decide (d < t)) do
    cntSat F.CMD_LATECNT_CNT 1
    sb F.CMD_STAT_LATE true

/-- A packet leaves on the active host port (R357), and its record's last sequence sent follows (CMD_STXSEQ). -/
def emitPkt (p : Pkt) : Op Unit := do
  let own ← rd R.CMD_IP
  modU fun u => { u with cmd := { u.cmd with sessions := u.cmd.sessions.map fun s => if s.st ≠ .free ∧ s.sid = p.session then { s with sent := p.seq } else s } }
  emit (.packet p (p.datagram own.toNat))

/-- Buffers that recovery lent return as soon as their frame is sent or their command is taken (R522); others stay with their holder. -/
def recoveryBack (b : Option BufRef) : Op (Option BufRef) := do
  let lent : Bool := match b with
    | none => false
    | some x => x.src == 3
  onlyIf lent (poolGive b)
  pure (if lent then none else b)

/-- The completion of tag word `tagw` has left: the tag is free again and a copy is held (R379, R382). -/
def completionSent (i tagw : Nat) (p : Pkt) : Op Unit := do
  let s ← getSess i
  match s.tags.find? (fun t => tagOf t.tagw = tagOf tagw) with
  | none => pure ()
  | some t => do
    let tm ← now
    let r ← recoveryBack t.reserve
    modSess i fun s => { s with tags := s.tags.filter (fun x => tagOf x.tagw ≠ tagOf tagw), held := s.held ++ [⟨tagOf tagw, p, tm, r⟩] }

/-- What follows from a packet that has left: where it is the completion of RESET, the command reset 10 ms later (R406). -/
def resetFollows (p : Pkt) : Op Unit := do
  let t ← now
  onlyIf (p.kind == 3 && p.opcode == 0x0003 && p.status == 0) (modU fun u => { u with cmd := { u.cmd with resetAt := some (u.cmd.resetAt.getD (t + 10000000)) } })

/-- Sends a packet with stamp `w` to session record `i`, or queues it while the port cannot send (R2, R567 level 3). `tag` is the TAG
word of the command that a completion answers. -/
def sendStamped (w i kind tagw opcode status : Nat) (payload : List Byte) (bufs : Option BufRef) (event : Bool)
    (deadline tag : Option Nat) : Op Unit := do
  seqNext i
  let s ← getSess i
  let p : Pkt := ⟨s.ip, s.port, s.hop, kind, s.sid, s.txSeq, tagw, opcode, status, payload, w⟩
  let ok ← canSend s.ip
  if ok && s.queue.isEmpty then do
    emitPkt p
    lateCheck deadline
    poolGive bufs
    match tag with
    | none => pure ()
    | some x => do
      completionSent i x p
      resetFollows p
  else do
    let t ← now
    modSess i fun s => { s with queue := s.queue ++ [⟨p, t, bufs, event, deadline, tag⟩] }

/-- As `sendStamped`, with the wall time of now. -/
def sendSess (i kind tagw opcode status : Nat) (payload : List Byte) (bufs : Option BufRef) (event : Bool)
    (deadline tag : Option Nat) : Op Unit := do
  let w ← wallTime
  sendStamped (w % 2 ^ 64) i kind tagw opcode status payload bufs event deadline tag

/-- The reply queues: those of the session records, and at 4 the frames of session 0x0000 and of closed sessions. -/
def queueIdx : List Nat := [0, 1, 2, 3, 4]

/-- Reply queue `i`. -/
def replyQueue (i : Nat) : Op (List QFrame) := do
  let u ← units
  pure (if i < 4 then (u.cmd.sessions.getD i {}).queue else u.cmd.outq)

/-- The reply queue whose first frame could leave and entered first. -/
def firstQueued : List Nat → Op (Option (Nat × QFrame))
  | [] => pure none
  | i :: l => do
    let qs ← replyQueue i
    let best ← firstQueued l
    match qs with
    | [] => pure best
    | q :: _ => do
      let hop ← nextHop q.pkt.ip
      match best with
      | none => pure (if hop.isSome then some (i, q) else none)
      | some b => pure (if hop.isSome ∧ q.since ≤ b.2.since then some (i, q) else best)

/-- Sends up to `n` queued frames, in the order in which they entered their queues (R521, R567). -/
def drainQueues : Nat → Op Unit
  | 0 => pure ()
  | n + 1 => do
    let b ← firstQueued queueIdx
    match b with
    | none => pure ()
    | some (i, q) => do
      let hop ← nextHop q.pkt.ip
      let p := { q.pkt with hop := hop }
      if i < 4 then modSess i fun s => { s with queue := s.queue.tail }
      else modU fun u => { u with cmd := { u.cmd with outq := u.cmd.outq.tail } }
      emitPkt p
      lateCheck q.deadline
      poolGive q.bufs
      match q.tag with
      | none => pure ()
      | some x => completionSent i x p
      resetFollows p
      drainQueues n

/-- Events that wait in session record `i`'s reply queue. -/
def eventsWaiting (s : Session) : Nat := (s.queue.filter (·.event)).length

/-- The event of a session leaves, or waits in its reply queue in its buffer; the 64th that waits puts level 3 at its limit (R567). -/
def eventSend (i code : Nat) (payload : List Byte) (b : BufRef) : Op Unit := do
  sendSess i 6 0 code 0 payload (some b) true none none
  let s ← getSess i
  onlyIf (decide (64 ≤ eventsWaiting s)) (levelFull 3)

/-- Entries in the ring's queue of the direction in use: relays, but for those a switch-over froze, and waiting events (R567 level 4). -/
def ringLevel (u : Units) : Nat := u.rng.queue.length - u.rng.frozen + u.pool.ringWaits.length

/-- POOL_QSTAT follows the ring's queues, one per direction, of 32 entries each. -/
def ringLevelShow : Op Unit := do
  let u ← units
  let was ← gbit R.POOL_QSTAT 3
  let full := decide (32 ≤ ringLevel u ∨ 32 ≤ u.rng.frozen)
  onlyIf (full && !was) (levelFull 4)
  onlyIf (!full && was) (levelFree 4)

/-- A cluster event passes from the ring's queue to its session's reply queue in the buffer it holds (R569); one whose session has closed
is dropped, and one whose session's queue is full waits on. -/
def ringPass (x : RingWait) : Op Unit := do
  let s ← getSess x.session
  if s.st = .opened ∧ s.sid = x.sid then
    (if 64 ≤ eventsWaiting s then modU fun u => { u with pool := { u.pool with ringWaits := u.pool.ringWaits ++ [x] } }
     else eventSend x.session x.code x.payload x.buf)
  else poolGive (some x.buf)

/-- The events that wait in the ring's queue pass on while their sessions have room. -/
def ringPassAll : Op Unit := do
  let u ← units
  onlyIf (!u.pool.ringWaits.isEmpty) do
    modU fun u => { u with pool := { u.pool with ringWaits := [] } }
    each ringPass u.pool.ringWaits
    ringLevelShow

/-- Level 3 is below its limit again where no session's queue holds 64 events, and the ring's events pass on. -/
def eventRoom : Op Unit := do
  let u ← units
  onlyIf (u.cmd.sessions.all fun s => decide (eventsWaiting s < 64)) (levelFree 3)
  ringPassAll

/-- Sends every queued frame that can leave. -/
def drainAll : Op Unit := do
  let u ← units
  drainQueues (u.cmd.outq.length + (u.cmd.sessions.map fun s => s.queue.length).sum)
  eventRoom

/-- Buffers of the host ACK staging (R556). -/
def ackStaging : Nat := 64

/-- Whether the ACK staging holds a buffer for one more: each ACK that waits for the port is in one (R556, R561). -/
def ackRoom : Op Bool := do
  let u ← units
  let n (l : List QFrame) : Nat := (l.filter fun q => q.pkt.kind == 2).length
  pure (decide ((u.cmd.sessions.map fun s => n s.queue).sum + n u.cmd.outq < ackStaging))

/-- The ACK of a command (R380). The spec does not say what becomes of one that finds its staging full: it is not sent (DESIGN CHOICE,
assumption log 106). -/
def sendAck (i tagw opcode status : Nat) : Op Unit := do
  let ok ← ackRoom
  onlyIf ok (sendSess i 2 tagw opcode status [] none false none none)

/-- An event is not sent to some session (R566). -/
def eventDrop : Op Unit := do
  cntSat F.POOL_EVDROPCNT_CNT 1
  sb F.POOL_STAT_EVDROP true

/-- Raises an event for one session record, whose buffer `ask` takes from the pools: the record's count advances, and the event is sent
unless the record's queue holds 64 events or no buffer is free (R394, R566, R567). A cluster event for such a record waits in the ring's
queue, and with that queue at its limit no cluster event is sent. Answers whether it was sent, waits, or was not wanted. -/
def raiseTo (ask : Op (Option BufRef)) (client code : Nat) (data : List Byte) (i : Nat) : Op Bool := do
  let s ← getSess i
  if s.st = .opened && bitAt s.evMask code then do
    modSess i fun s => { s with evCount := (s.evCount + 1) % 2 ^ 32 }
    let u ← units
    let s ← getSess i
    let full := decide (64 ≤ eventsWaiting s)
    let p := leBytes 4 s.evCount ++ data
    if (if client = Client.ring then decide (32 ≤ ringLevel u) else full) then pure false
    else do
      let b ← ask
      match b with
      | none => pure false
      | some b => do
        if full then do
          modU fun u => { u with pool := { u.pool with ringWaits := u.pool.ringWaits ++ [⟨i, s.sid, code, p, b⟩] } }
          ringLevelShow
        else eventSend i code p b
        pure true
  else pure true

/-- Raises an event (R394, R445) for every session whose mask selects it. An event that is not sent counts once. -/
def raiseBy (ask : Op (Option BufRef)) (client code : Nat) (data : List Byte) : Op Unit := do
  let a ← raiseTo ask client code data 0
  let b ← raiseTo ask client code data 1
  let c ← raiseTo ask client code data 2
  let d ← raiseTo ask client code data 3
  if a && b && c && d then pure () else eventDrop

/-- Raises an event whose buffers a client's request takes. -/
def raiseFrom (client code : Nat) (data : List Byte) : Op Unit := raiseBy (poolTake client 1) client code data

/-- An event of a unit that the cores serve (R558 client 4). -/
def raise (code : Nat) (data : List Byte) : Op Unit := raiseFrom Client.firmware code data

/-- A demand for a conversion (R579, R580): RT1 starts one, or it joins the one that runs and counts beside it; while RT1 is down it waits
(R29). -/
def thermalDemand : Op Unit := do
  let t ← now
  let up ← coreUp 5
  if up then modU fun u => { u with thm := { u.thm with conv := some (u.thm.conv.getD t), joined := if u.thm.conv.isSome then u.thm.joined + 1 else 0, lastDemand := t, owed := 0 } }
  else modU fun u => { u with thm := { u.thm with owed := u.thm.owed + 1 } }

/-- Whether an opcode moves bulk data into the module. -/
def bulkInward (op : Nat) : Bool := op == 0x0401 || op == 0x0404 || op == 0x0501 || op == 0x0505 || op == 0x1001

/-- The end of the class bound of an accepted command (R385). Class D counts its length at 80 MB/s, twice where it commits what it
receives, and not the time in which it waited for the host. -/
def tagBound (t : OutTag) : Option Nat :=
  let cls := classOf t.tagw
  if cls = 0 then some (t.recvAt + 250000)
  else if cls = 1 then some (t.recvAt + 2000000)
  else if cls = 2 then some (t.recvAt + 25000000)
  else if cls = 3 then some (t.recvAt + 2000000 + leAt t.body 4 4 * 25 * (if bulkInward t.opcode then 2 else 1) / 2 + t.waited)
  else none

/-- The record that stands for the commands of closed sessions: the place of such a command in the order of acceptance names it. -/
def orphanRec : Nat := 5

/-- A command of a closed session has run to its end (R373): the buffers of its datagram return (R562). -/
def orphanEnd (i n : Nat) : Op Unit := do
  let u ← units
  onlyIf (i == orphanRec) do
    each (fun (x : Nat × BufRef) => poolGive (some x.2)) (u.cmd.orphans.filter fun x => x.1 = n)
    modU fun u => { u with cmd := { u.cmd with orphans := u.cmd.orphans.filter fun x => x.1 ≠ n } }

/-- Completes the outstanding command with tag word `tagw` of session record `i` (R383): its completion is sent, or waits in the queue
with the tag outstanding (R379). A session that is no longer open gets nothing (R373). -/
def completeTag (i tagw status : Nat) (payload : List Byte) : Op Unit := do
  orphanEnd i tagw
  let s ← getSess i
  match s.tags.find? (fun t => tagOf t.tagw = tagOf tagw ∧ t.done = false) with
  | none => pure ()
  | some t => do
    modSess i fun s => { s with tags := s.tags.map fun x => if tagOf x.tagw = tagOf tagw then { x with done := true, intake := none } else x }
    poolGive t.intake
    sendSess i 3 t.tagw t.opcode status payload none false (tagBound t) (some t.tagw)

/-- Completes a command that a step served, if there is one. -/
def completeOpt (o : Option (Nat × Nat)) (status : Nat) (payload : List Byte) : Op Unit :=
  match o with
  | none => pure ()
  | some (i, tagw) => completeTag i tagw status payload

/-- Releases the buffers of a list of held completions. -/
def giveHeld (l : List Held) : Op Unit := each (fun h => poolGive h.bufs) l

/-- Closes session record `i` (R373): commands not started are removed, bulk transfers stop, explicit locks and held completions are
released, the key buffer it wrote is cleared (R376), and the record is free with its grant. What was sent before waits on for the
port, in the buffers that hold it (R372, R383). `runsOn` tells the commands that have started and run to their end: each keeps the buffers
of its datagram until then (R562). -/
def closeSess (runsOn : OutTag → Bool) (i : Nat) : Op Unit := do
  let s ← getSess i
  giveHeld s.held
  each (fun (t : OutTag) => do onlyIf (!runsOn t) (poolGive t.intake); onlyIf (!t.done) (poolGive t.reserve)) s.tags
  modU fun u => { u with cmd := { u.cmd with orphans := u.cmd.orphans ++ (s.tags.filter runsOn).filterMap fun t => t.intake.map fun b => (t.order, b) } }
  let mine (q : QFrame) : Option BufRef := match q.tag with
    | none => q.bufs
    | some x => (s.tags.find? fun t => t.done && t.tagw == x).bind (·.reserve)
  modU fun u => { u with cmd := { u.cmd with outq := u.cmd.outq ++ s.queue.map fun q => { q with bufs := mine q, tag := none } } }
  modU fun u => { u with pcl := { u.pcl with locks := u.pcl.locks.filter (fun l => l.holder ≠ i) } }
  let u ← units
  if u.cmd.keyBufBy = some i then do
    modU fun u => { u with cmd := { u.cmd with keyBuf := [], keyBufBy := none } }
    sb F.SEC_STAT_KEYBUF false
  else pure ()
  modSess i fun _ => {}
  copyWrite 0 (.txSeq i) 0

end Sys2Proof.Machine
end

