-- ==== Sys2Proof/Machine/Records.lean ====
section
/-!
DEFINITION. Machine/Records.lean: the Ledger's records: their fields (R179, R181), the marks that lane faults and memory faults
leave (R186), the faces of a parcel (R174), retirement, learning and the archive (R175, R200, R201), and the locks (R188).
-/
namespace Sys2Proof.Machine

/-- A field of a record: its offset and size in bytes. -/
structure BF where
  o : Nat
  n : Nat

/-- Reads a record's field. -/
def BF.of (f : BF) (r : List Byte) : Nat := leAt r f.o f.n

/-- Reads a record's signed field. -/
def BF.int (f : BF) (r : List Byte) : Int := toSigned (8 * f.n) (leAt r f.o f.n)

/-- A record with a field set. -/
def BF.put (f : BF) (r : List Byte) (v : Nat) : List Byte := patch r f.o (leBytes f.n v)

/-- A record with a signed field set. -/
def BF.putI (f : BF) (r : List Byte) (v : Int) : List Byte := f.put r (ofSigned (8 * f.n) v)

/-! Fields of a parcel record (R179). -/
namespace Pf
def pid : BF := ⟨0x00, 4⟩
def lane : BF := ⟨0x04, 1⟩
def state : BF := ⟨0x05, 1⟩
def flags : BF := ⟨0x06, 2⟩
def lo : BF := ⟨0x08, 8⟩
def hi : BF := ⟨0x10, 8⟩
def wtin : BF := ⟨0x18, 8⟩
def lot : BF := ⟨0x20, 2⟩
def table : BF := ⟨0x22, 1⟩
def gcause : BF := ⟨0x23, 1⟩
def nsight : BF := ⟨0x24, 4⟩
def gaps : BF := ⟨0x28, 2⟩
def mlast : BF := ⟨0x2A, 2⟩
def tlast : BF := ⟨0x2C, 2⟩
def dlast : BF := ⟨0x2E, 2⟩
def offs : BF := ⟨0x30, 2⟩
def pred : BF := ⟨0x32, 2⟩
def sample : BF := ⟨0x34, 2⟩
def snode : BF := ⟨0x36, 1⟩
def dwell : BF := ⟨0x38, 4⟩
def wseq : BF := ⟨0x3C, 4⟩
def cpM (c : Nat) : BF := ⟨0x40 + 8 * c, 2⟩
def cpT (c : Nat) : BF := ⟨0x42 + 8 * c, 2⟩
def cpN (c : Nat) : BF := ⟨0x44 + 8 * c, 2⟩
def cpF (c : Nat) : BF := ⟨0x46 + 8 * c, 2⟩
end Pf

/-! Fields of a lot record (R181). -/
namespace Lf
def lotid : BF := ⟨0x00, 4⟩
def state : BF := ⟨0x04, 1⟩
def table : BF := ⟨0x05, 1⟩
def crop : BF := ⟨0x06, 2⟩
def wtopen : BF := ⟨0x08, 8⟩
def wtclose : BF := ⟨0x10, 8⟩
def massin : BF := ⟨0x78, 4⟩
def massout : BF := ⟨0x7C, 4⟩
def smean : BF := ⟨0x80, 2⟩
def scount : BF := ⟨0x82, 2⟩
def nparcel : BF := ⟨0x84, 4⟩
def nlive : BF := ⟨0x88, 4⟩
def mdis : BF := ⟨0x8C, 2⟩
def wseq : BF := ⟨0x90, 4⟩
def snode : BF := ⟨0x94, 1⟩
end Lf

/-- The bits of PFLAGS (R179). -/
def pfGap : Nat := 0x001
def pfDisplaced : Nat := 0x002
def pfEstim : Nat := 0x004
def pfDrift : Nat := 0x008
def pfUnanchored : Nat := 0x010
def pfExtrap : Nat := 0x020
def pfDamaged : Nat := 0x040
def pfNomap : Nat := 0x080
def pfMerged : Nat := 0x100
def pfMixed : Nat := 0x200
def pfRestored : Nat := 0x400

/-- A parcel record with WSEQ advanced, as every write to it does. -/
def parcelTouch (r : List Byte) : List Byte := Pf.wseq.put r (Pf.wseq.of r + 1)

/-- A lot record with WSEQ advanced. -/
def lotTouch (r : List Byte) : List Byte := Lf.wseq.put r (Lf.wseq.of r + 1)

/-- A parcel with PFLAGS bits set. -/
def parcelMark (m : Nat) (r : List Byte) : List Byte := parcelTouch (Pf.flags.put r (Pf.flags.of r ||| m))

/-- Whether a record is filling or live. -/
def parcelActive (r : List Byte) : Bool := Pf.state.of r == 1 || Pf.state.of r == 2

/-- A value held in `w` unsigned bits, free where it lies outside them (the spec states no result there). -/
def fitU (w : Nat) (v : Int) : Nat := if 0 ≤ v ∧ v < ((2 ^ w : Nat) : Int) then v.toNat else Config.freeOf v % 2 ^ w

/-- A value held in `w` signed bits, free where it lies outside them. -/
def fitS (w : Nat) (v : Int) : Nat :=
  if -((2 ^ (w - 1) : Nat) : Int) ≤ v ∧ v < ((2 ^ (w - 1) : Nat) : Int) then ofSigned w v else Config.freeOf v % 2 ^ w

/-- Changes the Ledger's data. -/
def modPcl (f : PclS → PclS) : Op Unit := modU fun u => { u with pcl := f u.pcl }

/-- The parcel records. -/
def parcels : Op (List (List Byte)) := do let u ← units; pure u.pcl.parcels

/-- Changes the parcels that a test selects. -/
def modParcels (sel : List Byte → Bool) (f : List Byte → List Byte) : Op Unit :=
  modPcl fun p => { p with parcels := p.parcels.map fun r => if sel r then f r else r }

/-- Changes lot record `i`. -/
def modLot (i : Nat) (f : List Byte → List Byte) : Op Unit :=
  modPcl fun p => { p with lots := p.lots.map fun x => if x.1 = i then (x.1, f x.2) else x }

/-- The lot record at index `i`, when its slot is in use. -/
def lotAt (i : Nat) : Op (Option (List Byte)) := do
  let u ← units
  pure ((u.pcl.lots.find? (fun x => x.1 = i)).map (·.2))

/-- Every filling and live parcel of a lane carries marks (R186). -/
def markLane (lane m : Nat) : Op Unit :=
  modParcels (fun r => parcelActive r && Pf.lane.of r == lane) (parcelMark m)

/-- PCL_LIVE, PCL_LOTS, PCL_STAT.FULL and PCL_LNLIVE as the tables stand. -/
def ledgerCounts : Op Unit := do
  let u ← units
  let act := u.pcl.parcels.filter parcelActive
  sf F.PCL_LIVE_LIVE act.length
  sf F.PCL_LOTS_LOTS u.pcl.lots.length
  sb F.PCL_STAT_FULL (decide (65536 ≤ u.pcl.parcels.length))
  each (fun n => sf (F.PCL_LNLIVE_NLIVE n) (act.filter (fun r => Pf.lane.of r == n)).length) (List.range 16)

/-- Lane `n`'s position and lead position (R44, R46). -/
def posOf (n : Nat) : Op Int := do
  let l ← rd (R.ENC_POSL n)
  let h ← rd (R.ENC_POSH n)
  pure (toSigned 48 (h.toNat * 2 ^ 32 + l.toNat))

/-- The lead position of lane `n`. -/
def leadOf (n : Nat) : Op Int := do
  let l ← rd (R.ENC_LEADL n)
  let h ← rd (R.ENC_LEADH n)
  pure (toSigned 48 (h.toNat * 2 ^ 32 + l.toNat))

/-- Lane `n`'s calibration factor in 1/65,536 µm per stroke (R49). -/
def factorOf (n : Nat) : Op Nat := do
  let i ← gf (F.ENC_CALI_CALI n)
  let f ← gf (F.ENC_CALF_CALF n)
  pure (i * 65536 + f)

/-- Lane `n`'s length from inlet to discharge, in 1/65,536 µm. -/
def laneLen (n : Nat) : Op Int := do let l ← gf (F.PCL_LLEN_LLEN n); pure ((l : Int) * 1000 * 65536)

/-- The depth of a parcel's lower face at lead position `p` with factor `f`, in 1/65,536 µm (R174). -/
def lowerFace (r : List Byte) (p : Int) (f : Nat) : Int := (p - Pf.lo.int r) * f

/-- The depth of its upper face: 0 while it is filling. -/
def upperFace (r : List Byte) (p : Int) (f : Nat) : Int := if Pf.state.of r = 1 then 0 else (p - Pf.hi.int r) * f

/-- Twice the depth of its centre. -/
def centre2 (r : List Byte) (p : Int) (f : Nat) : Int := lowerFace r p f + upperFace r p f

/-- The checkpoint segment that holds a parcel's centre (R180), if it lies within the lane's length. -/
def segmentOf (r : List Byte) (p : Int) (f : Nat) (len : Int) : Option Nat :=
  if len ≤ 0 then none
  else
    let c := centre2 r p f * 4 / len
    if 0 ≤ c ∧ c < 8 then some c.toNat else none

/-! ### Archive (R201) -/

/-- Appends one entry to the archive ring; an entry whose NAND write fails is written to the next one. How many writes in a row fail
is free at every entry (assumption log 1). -/
def archivePut (e : List Byte) : Op Unit := do
  let u ← units
  let h ← rd R.PCL_ARCHHEAD
  let f ← free
  let skip := f % 15625000
  let slot := (h.toNat + skip) % 15625000
  let arch := (slot, e) :: u.nv.archive.filter (fun x => x.1 ≠ slot)
  modU fun u => { u with nv := { u.nv with archive := arch } }
  wrN R.PCL_ARCHHEAD ((slot + 1) % 15625000)
  cntSat ⟨R.PCL_ARCHCNT, 31, 0⟩ 1
  if 0 < skip then sb F.PCL_STAT_ARCHERR true else pure ()

/-- The two archive entries of a freed lot record. -/
def lotEntries (r : List Byte) : List Byte × List Byte :=
  let a := r.take 128
  let b := (r.drop 128).take 128
  (patch (patch a 4 [BitVec.ofNat 8 (Lf.table.of r)]) 5 [0x10],
   patch (patch b 0x15 [b.getD 5 0]) 5 [0x11])

/-- A closed lot whose last live parcel retired is archived and its slot freed (R177). -/
def lotSettle (i : Nat) : Op Unit := do
  let l ← lotAt i
  match l with
  | none => pure ()
  | some r =>
    if Lf.state.of r = 2 ∧ Lf.nlive.of r = 0 then do
      let e := lotEntries (Lf.state.put r 0)
      archivePut e.1
      archivePut e.2
      modPcl fun p => { p with lots := p.lots.filter (fun x => x.1 ≠ i), mdis := p.mdis.filter (fun x => x.1 ≠ i), lotsDamaged := p.lotsDamaged.filter (fun x => x ≠ i) }
    else pure ()

/-- The checkpoints of a record that learning may use (R200): sighted and above MEQ. -/
def learnPoints (r : List Byte) (meq : Nat) : List Nat :=
  (List.range 8).filter fun c => decide (0 < (Pf.cpN c).of r ∧ meq < (Pf.cpM c).of r)

/-- KDRY learning at a retirement (R200). -/
def kdryLearn (r : List Byte) : Op Unit := do
  let n := Pf.lane.of r
  let on ← bf F.PCL_CTL_KLEARN
  let meq ← gf (F.PCL_MEQ_MEQ n)
  let len ← gf (F.PCL_LLEN_LLEN n)
  let int ← gf F.PCL_INTERVAL_INT
  let gain ← gf F.PCL_KGAIN_GAIN
  let k ← gf (F.PCL_KDRY_K n)
  let bad := pfGap ||| pfDisplaced ||| pfEstim ||| pfDamaged ||| pfMerged ||| pfRestored
  let pts := learnPoints r meq
  if on ∧ Pf.flags.of r &&& bad = 0 ∧ 2 ≤ pts.length then
    let c1 := pts.headD 0
    let c2 := pts.getLastD 0
    let m := fun (c : Nat) => F32.ofInt (((Pf.cpM c).of r : Int) - meq)
    let mm := F32.ofRat (max 100 int) 100
    let dt := F32.div (F32.div (F32.mul (F32.mul (F32.ofInt ((c2 : Int) - c1)) (F32.ofRat len 8)) (F32.ofInt (Pf.dwell.of r)))
      (F32.add (F32.ofInt len) mm)) (F32.ofInt 3600000)
    let kobs := F32.div (F32.ln (F32.div (m c1) (m c2))) dt
    let k0 := F32.ofRat k 1000
    let k1 := F32.add k0 (F32.mul (F32.ofRat gain 256) (F32.sub kobs k0))
    sf (F.PCL_KDRY_K n) (fitU 16 (roundF (F32.mul k1 (F32.ofInt 1000))))
  else pure ()

/-- A record leaves the table: its lot's counts follow, and it is archived (R175, R191). -/
def parcelArchive (r : List Byte) : Op Unit := do
  archivePut r
  modPcl fun p => { p with parcels := p.parcels.filter (fun x => Pf.pid.of x ≠ Pf.pid.of r) }

/-- Whether a lock stands on a record now. -/
def lockHeld (u : Units) (parcel : Bool) (key : Nat) : Option RecLock :=
  u.pcl.locks.find? fun l => l.parcel = parcel ∧ l.key = key

/-- The lock that a field request holds on a record now (R189). -/
def fieldHeld (u : Units) (parcel : Bool) (key : Nat) : Option FieldLock :=
  u.pcl.fieldLocks.find? fun l => l.parcel = parcel ∧ l.key = key ∧ u.elapsed ≤ l.expires

/-- Whether anyone holds a lock on a record now. -/
def recordHeld (u : Units) (parcel : Bool) (key : Nat) : Bool := (lockHeld u parcel key).isSome || (fieldHeld u parcel key).isSome

/-- One parcel retires (R175, R191, R200). MDIS takes the parcels that retire while their lot is in its slot (R181). -/
def parcelRetire (r : List Byte) : Op Unit := do
  let w ← wallTime
  let fl := Pf.flags.of r ||| (if Pf.nsight.of r = 0 then pfNomap else 0)
  let r1 := parcelTouch (Pf.dwell.put (Pf.flags.put (Pf.state.put r 3) fl) ((w - Pf.wtin.of r) / 1000000))
  kdryLearn r1
  modParcels (fun x => Pf.pid.of x == Pf.pid.of r) (fun _ => r1)
  let li := Pf.lot.of r
  let ml := Pf.mlast.of r
  let u ← units
  let old := ((u.pcl.mdis.find? (fun x => x.1 = li)).map (·.2)).getD (0, 0)
  let new := if ml = 0xFFFF then old else (old.1 + ml, old.2 + 1)
  modPcl fun p => { p with mdis := (if p.lots.any (fun x => x.1 = li) then [(li, new)] else []) ++ p.mdis.filter (fun x => x.1 ≠ li) }
  modLot li fun l =>
    let l := Lf.nlive.put l (Lf.nlive.of l - 1)
    lotTouch (if new.2 = 0 then l else Lf.mdis.put l (fitU 16 (quot new.1 new.2)))
  onlyIf (!recordHeld u true (Pf.pid.of r)) (parcelArchive r1)
  lotSettle li

/-- The live parcels of a lane that have reached its length (R175). -/
def retireLane (n : Nat) : Op Unit := do
  let run ← bf F.PCL_CTL_RUN
  let p ← leadOf n
  let f ← factorOf n
  let len ← laneLen n
  let rs ← parcels
  if run then
    each parcelRetire (rs.filter fun r => Pf.state.of r == 2 && Pf.lane.of r == n && decide (len ≤ upperFace r p f))
  else pure ()

/-- The retirement test of every lane. -/
def retireAll : Op Unit := do
  each retireLane (List.range 16)
  ledgerCounts

end Sys2Proof.Machine
end

