-- ==== Sys2Proof/Machine/Enc.lean ====
section
/-!
DEFINITION. Machine/Enc.lean: the ENC unit (R40 to R77): lane counters, lost encoders and their recovery, position alarms, the
mains-cycle counter, snapshots and frame stamps.
-/
namespace Sys2Proof.Machine

/-- What lane `n` holds beside its registers. -/
def getLane (n : Nat) : Op EncLane := do let u ← units; pure (u.enc.lanes.getD n {})

/-- Changes lane `n`. -/
def modLane (n : Nat) (f : EncLane → EncLane) : Op Unit :=
  modU fun u => { u with enc := { u.enc with lanes := updAt u.enc.lanes n f } }

/-- Changes the ENC unit's data. -/
def modEnc (f : EncS → EncS) : Op Unit := modU fun u => { u with enc := f u.enc }

/-- Stores a 48-bit counter in its two registers. -/
def wr48 (lo hi : Nat) (v : Int) : Op Unit := wr64 lo hi (ofSigned 48 v)

/-- The mains-cycle counter (R70). -/
def mainsOf : Op Nat := rd64 R.ENC_MCNTL R.ENC_MCNTH

/-- The value an alarm slot compares with its source SRC (R53). -/
def alarmSource (src : Nat) : Op Int :=
  if src < 16 then leadOf src
  else do
    let m ← mainsOf
    pure (toSigned 48 m)

/-- The compare value of slot `a` (R53). -/
def alarmCompare (a : Nat) : Op Int := do
  let x ← gf (F.ENC_ACMP0_CMP a)
  let y ← gf (F.ENC_ACMP1_CMP a)
  let z ← gf (F.ENC_ACMP2_CMP a)
  pure (toSigned 48 (x + y * 2 ^ 16 + z * 2 ^ 32))

/-- Puts a fired slot and its sample among the others: by sample, then by slot (R55). -/
def firedPut : List (Nat × Nat) → Nat × Nat → List (Nat × Nat)
  | [], x => [x]
  | y :: l, x => if x.2 < y.2 ∨ (x.2 = y.2 ∧ x.1 < y.1) then x :: y :: l else y :: firedPut l x

/-- Slot `a` fires (R54): its bits are set, ARM clears, and its event goes to RT1 with the sample it fired in, which for a slot armed too
late is the next one (R56). -/
def alarmFire (a : Nat) (late fb : Bool) : Op Unit := do
  let t ← now
  sb (F.ENC_ASTAT_FIRED a) true
  onlyIf late (sb (F.ENC_ASTAT_LATE a) true)
  onlyIf fb (sb (F.ENC_ASTAT_FB a) true)
  sbit (R.ENC_AFIRED (a / 32)) (a % 32) true
  sb (F.ENC_ACTL_ARM a) false
  modEnc fun e => { e with armed := e.armed.filter (fun x => x.1 ≠ a), fired := firedPut e.fired (a, t / 10 + bit late) }

/-- Compares one armed slot with its source, as every sample does (R53, R58). -/
def alarmCheck (a : Nat) (late : Bool) : Op Unit := do
  let armed ← bf (F.ENC_ACTL_ARM a)
  let src ← gf (F.ENC_ACTL_SRC a)
  let v ← alarmSource src
  let c ← alarmCompare a
  onlyIf (armed && decide (c ≤ v)) (alarmFire a late false)

/-- Compares every armed slot of a source, in ascending slot number (R55). -/
def alarmChecks (src : Nat) : Op Unit := do
  let u ← units
  each (fun (x : Nat × Nat × Nat) => do
    let s ← gf (F.ENC_ACTL_SRC x.1)
    onlyIf (s == src) (alarmCheck x.1 false)) u.enc.armed

/-- Puts a slot among the armed ones, by ascending number. -/
def armedPut : List (Nat × Nat × Nat) → Nat × Nat × Nat → List (Nat × Nat × Nat)
  | [], x => [x]
  | y :: l, x => if x.1 < y.1 then x :: y :: l else if x.1 = y.1 then x :: l else y :: armedPut l x

/-- A write of ENC_ACTL of slot `a` takes effect: a SRC of 17 to 31 leaves the register unchanged (R57); arming takes FB and
the time, and compares at once (R56, R59). R56 lets a slot armed at or below its lane's lead fire in the next sample, R62 no alarm while
the position is below the lead: the model follows R56 there. Its bits are set in the step that arms it (DESIGN CHOICE, assumption log
101). -/
def alarmControl (a : Nat) (new : Word) : Op Unit := do
  let old ← bf (F.ENC_ACTL_ARM a)
  let src := (F.ENC_ACTL_SRC a).of new
  let arm := (F.ENC_ACTL_ARM a).of new != 0
  let t ← now
  if 17 ≤ src then pure ()
  else do
    wr (R.ENC_ACTL a) new
    if arm && !old then do
      modEnc fun e => { e with armed := armedPut e.armed (a, t, (F.ENC_ACTL_FB a).of new) }
      alarmCheck a true
    else if arm then alarmCheck a false
    else modEnc fun e => { e with armed := e.armed.filter (fun x => x.1 ≠ a) }

/-! ### Lane motion -/

/-- A lane fault event of lane `n`. -/
def laneEvent (code n : Nat) : Op Unit := raise code [BitVec.ofNat 8 n, 0, 0, 0]

/-- The reverse limit of lane `n` is watched (R63): the fault comes when the lead position comes to exceed the position by more
than ENC_REVLIM, by travel or by a write of ENC_REVLIM. -/
def revCheck (n : Nat) : Op Unit := do
  let p ← posOf n
  let lead ← leadOf n
  let lim ← gf (F.ENC_REVLIM_REVLIM n)
  let l ← getLane n
  let past := decide ((lim : Int) < lead - p)
  onlyIf (past != l.revx) (modLane n fun l => { l with revx := past })
  onlyIf (past && !l.revx) do
    sb (F.ENC_LSTAT_REVX n) true
    laneEvent Ev.encReverse n
    markLane n pfDisplaced
    sb F.PCL_STAT_DISP true

/-- Lane `n`'s position becomes `p` (R44, R46, R62, R63): the lead position follows upwards, and the reverse limit is watched. -/
def lanePlace (n : Nat) (p : Int) : Op Unit := do
  let lead ← leadOf n
  let p := wrapSigned 48 p
  wr48 (R.ENC_POSL n) (R.ENC_POSH n) p
  if lead < p then do
    wr48 (R.ENC_LEADL n) (R.ENC_LEADH n) p
    sb (F.ENC_LSTAT_REVERSE n) false
    alarmChecks n
  else sb (F.ENC_LSTAT_REVERSE n) (decide (p < lead))
  revCheck n

/-- Substitution starts or ends with LOST and SUBST (R66). -/
def substSet (n : Nat) (on : Bool) : Op Unit := do
  let t ← now
  sb (F.ENC_LSTAT_ESTIM n) on
  onlyIf on (modLane n fun l => { l with substAt := t, substN := 0 })

/-- Lane `n`'s encoder is lost (R65): LOST, the event ENC_LOST, the parcels' ESTIM (R186), and substitution if SUBST is 1. -/
def laneLose (n : Nat) : Op Unit := do
  let lost ← bf (F.ENC_LSTAT_LOST n)
  let subst ← bf (F.ENC_LCTL_SUBST n)
  let t ← now
  if lost then pure ()
  else do
    sb (F.ENC_LSTAT_LOST n) true
    modLane n fun l => { l with lostAt := some t, resyncRun := 0, resyncSum := 0, lostRaised := false }
    onlyIf subst (substSet n true)
    laneEvent Ev.encLost n
    markLane n pfEstim

/-- A quadrature error (R43, R65). Of "8 within 1,000 strokes" the model takes errors exactly 1,000 strokes apart as outside the
span (DESIGN CHOICE, assumption log 80). -/
def laneQerr (n : Nat) : Op Unit := do
  sb (F.ENC_LSTAT_QERR n) true
  modLane n fun l =>
    { l with qerrAt := l.strokes :: l.qerrAt.filter (fun x => l.strokes - x < 1000), resyncRun := 0, resyncSum := 0 }
  let l ← getLane n
  onlyIf (decide (8 ≤ l.qerrAt.length)) (laneLose n)

/-- A lost lane recovers (R68); the history of R65 goes on: errors and failed index checks before it still count. -/
def laneResync (n : Nat) : Op Unit := do
  let l ← getLane n
  let p ← posOf n
  let t ← now
  sb (F.ENC_LSTAT_LOST n) false
  sb (F.ENC_LSTAT_ESTIM n) false
  sb (F.ENC_LSTAT_RESYNC n) true
  sb (F.ENC_LSTAT_STALLED n) false
  modLane n fun l =>
    { l with lostAt := none, lostRaised := false, resyncRun := 0, resyncSum := 0, lastStroke := t }
  lanePlace n (p + l.resyncSum)

/-- A valid stroke of lane `n`, forward or in reverse (R40, R41, R62, R68). A reverse stroke of the 64-stroke test is added to the
position and not counted in ENC_REVCNT, the forward strokes between two Z pulses take in those of a lost lane, and the strokes of a lost
lane are none that the stall test of R64 or the ENC_RATE of R66 counts (DESIGN CHOICE, assumption log 80). -/
def laneStroke (n : Nat) (fwd : Bool) : Op Unit := do
  let lost ← bf (F.ENC_LSTAT_LOST n)
  let t ← now
  let d : Int := if fwd then 1 else -1
  modLane n fun l => { l with strokes := l.strokes + 1, zForward := l.zForward + (if fwd then 1 else 0) }
  if lost then do
    modLane n fun l => { l with resyncRun := l.resyncRun + 1, resyncSum := l.resyncSum + d }
    let l ← getLane n
    onlyIf (decide (64 ≤ l.resyncRun)) (laneResync n)
  else do
    let p ← posOf n
    modLane n fun l =>
      { l with lastStroke := t, fwdSecond := l.fwdSecond + (if fwd then 1 else 0) }
    sb (F.ENC_LSTAT_STALLED n) false
    onlyIf (!fwd) (cntSat (F.ENC_REVCNT_REVCNT n) 1)
    lanePlace n (p + d)

/-- Whether the balls of lane `n` bring edges and open lines: it is one of the 16 lanes, and its balls are not tied to GND (R640). -/
def laneWired (n : Nat) : Op Bool := do
  let u ← units
  pure (decide (n < 16 ∧ n ∉ u.pwr.encTied))

/-- A valid edge of channel B or A of a lane comes at `t` (R42). -/
def EncLane.edge (l : EncLane) (chB : Bool) (t : Nat) : EncLane :=
  if chB then { l with edgeB := some t } else { l with edgeA := some t }

/-- Whether a valid edge of channel B or A of lane `n` is counted (R42): one that follows the last valid edge of the other channel by
less than FILT × 10 ns + 20 ns is counted or not, freely. -/
def edgeCounted (n : Nat) (chB : Bool) (filt : Nat) : Op Bool := do
  let l ← getLane n
  let t ← now
  modLane n fun l => l.edge chB t
  if (if chB then l.edgeA else l.edgeB).any fun s => decide (t < s + filt * 10 + 20) then do
    let f ← free
    pure (f % 2 == 0)
  else pure true

/-- ENCODER_EDGE: an edge of A or B of lane `n` (R40 to R43). It is valid when its level was stable for FILT samples. -/
def opEncoderEdge (n : Nat) (e : Edge) (chB : Bool) (samples : Nat) : Op Unit := do
  let dir ← bf (F.ENC_LCTL_DIR n)
  let filt ← gf (F.ENC_LCTL_FILT n)
  let ok ← laneWired n
  if ok = false ∨ samples < filt then pure ()
  else
    match e with
    | .both => do
      let t ← now
      modLane n fun l => (l.edge false t).edge true t
      laneQerr n
    | .aLeads => do
      let ok ← edgeCounted n chB filt
      onlyIf ok (laneStroke n (!dir))
    | .bLeads => do
      let ok ← edgeCounted n chB filt
      onlyIf ok (laneStroke n dir)

/-- ENCODER_OPEN_LINE: FA reports an open line of A, B or Z (R65), which it does after 1 ms of low current while RUN is 1 (R648). -/
def opEncoderOpenLine (n : Nat) : Op Unit := do
  let ok ← laneWired n
  let run ← bf (F.ENC_LCTL_RUN n)
  let l ← getLane n
  let t ← now
  onlyIf (ok && run && decide (l.runSince + 1000000 ≤ t)) do
    sb (F.ENC_LSTAT_OPEN n) true
    modLane n fun l => { l with resyncRun := 0, resyncSum := 0 }
    laneLose n

/-- The index check and latch of a valid forward Z pulse (R65, R69). The check goes on while the lane is lost (DESIGN CHOICE,
assumption log 80). -/
def laneIndex (n : Nat) : Op Unit := do
    let zen ← bf (F.ENC_LCTL_ZEN n)
    let tol ← gf (F.ENC_LCTL_ZTOL n)
    let spr ← gf (F.ENC_SPR_SPR n)
    let p ← posOf n
    let l ← getLane n
    let diff := ((l.zForward : Int) - spr).natAbs
    let failed := zen && l.zSeen && decide (spr ≠ 0) && decide (tol < diff)
    modLane n fun l =>
      { l with index := some p, zSeen := true, zForward := 0, zFails := if failed then l.zFails + 1 else 0 }
    wrN (R.ENC_ZPOSL n) (ofSigned 32 p)
    onlyIf failed (sb (F.ENC_LSTAT_ZERR n) true)
    let l ← getLane n
    onlyIf (decide (3 ≤ l.zFails)) (laneLose n)

/-- ENCODER_INDEX: a forward Z pulse (R69), valid when its level was stable for FILT samples (R42). -/
def opEncoderIndex (n samples : Nat) : Op Unit := do
  let filt ← gf (F.ENC_LCTL_FILT n)
  let ok ← laneWired n
  onlyIf (ok && decide (filt ≤ samples)) (laneIndex n)

/-- LANE_STALL: lane `n` with RUN = 1 has counted no stroke for ENC_STALLT ms (R64). Neither the substituted strokes of R66 nor those of
the 64-stroke test of R68 count (DESIGN CHOICE, assumption log 80). -/
def opLaneStall (n : Nat) : Op Unit := do
  let run ← bf (F.ENC_LCTL_RUN n)
  let stalled ← bf (F.ENC_LSTAT_STALLED n)
  let ms ← gf (F.ENC_STALLT_STALLT n)
  let l ← getLane n
  let t ← now
  onlyIf (decide (n < 16) && run && !stalled && decide (ms ≠ 0) && decide (max l.lastStroke l.runSince + ms * 1000000 ≤ t)) do
    sb (F.ENC_LSTAT_STALLED n) true
    laneEvent Ev.encStall n

/-- SUBST_STROKE: the substituted position of a lost lane advances one stroke at the held rate (R66). It is no stroke of the stall test
(DESIGN CHOICE, assumption log 80). -/
def opSubstStroke (n : Nat) : Op Unit := do
  let est ← bf (F.ENC_LSTAT_ESTIM n)
  let lost ← bf (F.ENC_LSTAT_LOST n)
  let rate ← gf (F.ENC_RATE_RATE n)
  let l ← getLane n
  let t ← now
  let p ← posOf n
  onlyIf (decide (n < 16) && est && lost && decide ((l.substN + 1) * 16000000000 ≤ (t - l.substAt) * rate)) do
    modLane n fun l => { l with substN := l.substN + 1 }
    lanePlace n (p + 1)

/-- One lane's ENC_RATE at the end of a second (R66): the forward strokes of that second in which the lane was not lost (DESIGN CHOICE,
assumption log 80). -/
def laneRate (n : Nat) : Op Unit := do
  let lost ← bf (F.ENC_LSTAT_LOST n)
  let l ← getLane n
  onlyIf (!lost) (sf (F.ENC_RATE_RATE n) (min (16 * l.fwdSecond) 0xFFFFFFFF))
  modLane n fun l => { l with fwdSecond := 0 }

/-- ENC_RATE_UPDATE: a full second has passed (R66). -/
def opEncRateUpdate : Op Unit := do
  let u ← units
  let t ← now
  onlyIf (decide (u.enc.rateAt + 1000000000 ≤ t)) do
    modEnc fun e => { e with rateAt := t }
    each laneRate (List.range 16)

/-- ENC_LOST_TIMEOUT: lane `n` has stayed lost for ENC_SUBSTMAX s of FLOW (R67, R335). -/
def opEncLostTimeout (n : Nat) : Op Unit := do
  let cur ← curMode
  let lim ← gf (F.ENC_SUBSTMAX_SUBSTMAX n)
  let cfg ← bf F.SYS_HOLDCFG_ENCLOST
  let l ← getLane n
  let u ← units
  let t ← now
  match l.lostAt with
  | none => pure ()
  | some s =>
    onlyIf (decide (n < 16) && cur == modeFlow && !l.lostRaised && decide (max s u.sys.flowSince + lim * 1000000000 ≤ t)) do
      modLane n fun l => { l with lostRaised := true }
      laneEvent Ev.encLostTimeout n
      onlyIf cfg (assertCause 2)

/-! ### Alarms by time -/

/-- ALARM_FALLBACK: slot `a` has not fired FB × 100 ms after it was armed (R59). -/
def opAlarmFallback (a : Nat) : Op Unit := do
  let u ← units
  let t ← now
  match u.enc.armed.find? (fun x => x.1 = a) with
  | none => pure ()
  | some (_, since, fb) => onlyIf (decide (fb ≠ 0) && decide (since + fb * 100000000 ≤ t)) (alarmFire a false true)

/-! ### Mains cycles -/

/-- The mains-cycle counter takes a value. -/
def mainsPut (m : Nat) : Op Unit := do
  wr64 R.ENC_MCNTL R.ENC_MCNTH (m % 2 ^ 48)
  alarmChecks 16

/-- The period between the last two counted edges is `ns` (R71). It is held in whole units of 10 ns, rounded down and cut to the
register (DESIGN CHOICE, assumption log 81). -/
def mainsPeriod (ns : Nat) : Op Unit := do
  wrN R.ENC_MPER (min (ns / 10) 0xFFFFFFFF)
  onlyIf (decide (ns < 15380000 ∨ 22220000 < ns)) (sb F.ENC_MSTAT_RANGE true)

/-- MAINS_EDGE: an edge of MAINS_SYNC, stable for `stable` ns; it counts once that is FILT × 10 µs (R70 to R72). An
edge exactly half a period after a free-run increment does not replace it (DESIGN CHOICE, assumption log 81). -/
def opMainsEdge (falling : Bool) (stable : Nat) : Op Unit := do
  fieldLatchDue
  let filt ← gf F.ENC_MCTL_FILT
  let pol ← bf F.ENC_MCTL_EDGE
  let fr ← bf F.ENC_MSTAT_FREERUN
  let per ← gf F.ENC_MPER_MPER
  let m ← mainsOf
  let u ← units
  let t ← now
  let e := u.enc
  if falling ≠ pol ∨ stable < filt * 10000 then pure ()
  else if !e.mainsRestart ∧ e.mainsAny ∧ t < e.mainsLast + 13850000 then pure ()
  else do
    onlyIf (!fr && !e.mainsRestart && e.mainsRealPrev) (mainsPeriod (t - e.mainsLast))
    sb F.ENC_MSTAT_FREERUN false
    modEnc fun e => { e with mainsLast := t, mainsAny := true, mainsRealPrev := true, mainsRestart := false }
    onlyIf (!(fr && decide (t < e.freeLast + per * 5))) (mainsPut (m + 1))

/-- MAINS_LOST: no valid edge within 1.5 × ENC_MPER of the last counted edge (R72, R335). The half period in which an edge takes the
place of this first increment runs from the instant of the detection (DESIGN CHOICE, assumption log 81). -/
def opMainsLost : Op Unit := do
  fieldLatchDue
  let fr ← bf F.ENC_MSTAT_FREERUN
  let per ← gf F.ENC_MPER_MPER
  let cfg ← bf F.SYS_HOLDCFG_MAINS
  let cur ← curMode
  let m ← mainsOf
  let u ← units
  let t ← now
  onlyIf (!fr && decide (u.enc.mainsLast + per * 15 ≤ t)) do
    sb F.ENC_MSTAT_MLOST true
    sb F.ENC_MSTAT_FREERUN true
    modEnc fun e => { e with freeLast := t, freeNext := e.mainsLast + per * 20, mainsRealPrev := false }
    mainsPut (m + 1)
    raise Ev.mainsLost []
    onlyIf (cfg && (cur == modeBatch || cur == modeStore)) (assertCause 8)

/-- MAINS_FREERUN_TICK: a whole multiple of ENC_MPER has passed (R72). -/
def opMainsFreerunTick : Op Unit := do
  fieldLatchDue
  let fr ← bf F.ENC_MSTAT_FREERUN
  let per ← gf F.ENC_MPER_MPER
  let m ← mainsOf
  let u ← units
  let t ← now
  onlyIf (fr && decide (u.enc.freeNext ≤ t)) do
    modEnc fun e => { e with freeLast := e.freeNext, freeNext := e.freeNext + per * 10 }
    mainsPut (m + 1)

/-! ### Snapshots and stamps -/

/-- One lane's part of a snapshot. -/
def snapLane (n : Nat) : Op Unit := do
  let p ← posOf n
  let l ← leadOf n
  wr48 (R.ENC_SNAPL n) (R.ENC_SNAPH n) p
  wr48 (R.ENC_SNAPLDL n) (R.ENC_SNAPLDH n) l

/-- A snapshot (R48). -/
def encSnapshot : Op Unit := do
  let m ← mainsOf
  let w ← wallTime
  each snapLane (List.range 16)
  wr64 R.ENC_SNAPML R.ENC_SNAPMH m
  wr64 R.ENC_SNAPWTL R.ENC_SNAPWTH w
  cntWrap F.ENC_SNAPSEQ_SEQ 1

/-- The stamp latched at a frame's start strobe (R76): positions, lead positions, ESTIM + 2 × STALLED + 4 × LOST, mains cycles
and wall time. -/
def encStamp : Op Stamp := do
  let b ← blockOp
  let s48 (lo hi : Nat) : Int := toSigned 48 ((b.regs.get hi).toNat * 2 ^ 32 + (b.regs.get lo).toNat)
  let flag (n : Nat) : Nat :=
    let w := b.regs.get (R.ENC_LSTAT n)
    (F.ENC_LSTAT_ESTIM n).of w + 2 * (F.ENC_LSTAT_STALLED n).of w + 4 * (F.ENC_LSTAT_LOST n).of w
  let m ← mainsOf
  pure { wall := b.u.wall, mains := m, pos := (List.range 16).map (fun n => s48 (R.ENC_POSL n) (R.ENC_POSH n)),
         lead := (List.range 16).map (fun n => s48 (R.ENC_LEADL n) (R.ENC_LEADH n)), flags := (List.range 16).map flag }

/-! ### Register accesses -/

/-- Roll angle of lane `n` (R69). -/
def angleOf (n : Nat) : Op Nat := do
  let spr ← gf (F.ENC_SPR_SPR n)
  let p ← posOf n
  let l ← getLane n
  match l.index with
  | none => pure 0
  | some z => if spr = 0 then pure 0 else pure (1024 * ((p - z) % (spr : Int)).toNat / spr)

/-- A write of ENC_LCTL of lane `n`: RUN starts the stall test (R64), SUBST starts or stops substitution of a lost lane. -/
def laneControl (n : Nat) (new : Word) : Op Unit := do
  let run ← bf (F.ENC_LCTL_RUN n)
  let sub ← bf (F.ENC_LCTL_SUBST n)
  let lost ← bf (F.ENC_LSTAT_LOST n)
  let t ← now
  wr (R.ENC_LCTL n) new
  let run' := (F.ENC_LCTL_RUN n).of new != 0
  let sub' := (F.ENC_LCTL_SUBST n).of new != 0
  onlyIf (run' && !run) (modLane n fun l => { l with runSince := t })
  onlyIf (lost && (sub != sub')) (substSet n sub')

/-- Whether a source is a host command, whose writes R60 speaks of. -/
def srcHost : Src → Bool
  | .host _ => true
  | _ => false

/-- Register writes of the ENC unit: `base` names the register, `i` its index, `new` its value after the write, `acts` the
action bits written 1. A compare value or a source written to an armed slot fires it at once (R58), also while the position is below
the lead (DESIGN CHOICE, assumption log 101). -/
def encWrite (src : Src) (base i : Nat) (a : Nat) (new acts : Word) : Op Unit :=
  if base = R.ENC_LCTL 0 then laneControl i new
  else if base = R.ENC_REVLIM 0 then do
    wr a new
    revCheck i
  else if base = R.ENC_SNAPCTL then onlyIf (acts.toNat.testBit 0) encSnapshot
  else if base = R.ENC_MCTL then do
    let old ← bf F.ENC_MCTL_EDGE
    wr a new
    onlyIf (old != (F.ENC_MCTL_EDGE.of new != 0)) (modEnc fun e => { e with mainsRestart := true })
  else if base = R.ENC_ACTL 0 then
    (if srcHost src && decide (i < 64) then stopOp .alarmSlotOwned else alarmControl i new)
  else if base = R.ENC_ACMP0 0 ∨ base = R.ENC_ACMP1 0 ∨ base = R.ENC_ACMP2 0 then
    (if srcHost src && decide (i < 64) then stopOp .alarmSlotOwned
     else do
       wr a new
       alarmCheck i false)
  else wr a new

/-- Registers of the ENC unit that show a running value: wall time and the roll angle. -/
def encRead (base i a : Nat) : Op Word :=
  if base = R.ENC_WTL then do let w ← wallTime; pure (BitVec.ofNat 32 w)
  else if base = R.ENC_WTH then do let w ← wallTime; pure (BitVec.ofNat 32 (w / 2 ^ 32))
  else if base = R.ENC_ANGLE 0 then do let v ← angleOf i; pure (BitVec.ofNat 32 v)
  else rd a

end Sys2Proof.Machine
end

