-- ==== Sys2Proof/Machine/Tomo.lean ====
section
/-!
DEFINITION. Machine/Tomo.lean: the tomography front end (R78 to R120): the tone plan, bursts and frames step by step, the frame
close with calibration, reciprocity merge, autoranging and electrode faults, the geometry and calibration tables, the calibration
sweep, and the TOMO and AFT registers.
-/
namespace Sys2Proof.Machine

/-- Changes the front end's data. -/
def modTomo (f : TomoS → TomoS) : Op Unit := modU fun u => { u with tomo := f u.tomo }

/-- The front end's data. -/
def tomoS : Op TomoS := do let u ← units; pure u.tomo

/-! ### Tone plan -/

/-- The distance of two numbers. -/
def gap (a b : Nat) : Nat := max a b - min a b

/-- Whether a tone plan is valid (R90): frequencies in kHz, amplitudes in mV. -/
def planValid (freq amp : List Nat) : Bool :=
  let en := (freq.zip amp).zipIdx.filter fun x => decide (x.1.2 ≠ 0)
  let sum := amp.foldl (· + ·) 0
  decide (en ≠ []) && amp.all (fun a => decide (a ≤ 10000)) && decide (sum ≤ 10000) &&
    en.all (fun x => decide (50 ≤ x.1.1 ∧ x.1.1 ≤ 8000)) &&
    en.all (fun x => en.all fun y =>
      decide (x.2 = y.2) || decide (120 ≤ gap x.1.1 y.1.1 ∧ 120 ≤ gap x.1.1 (2 * y.1.1) ∧ 120 ≤ gap x.1.1 (3 * y.1.1)))

/-- The plan registers' frequencies and amplitudes. -/
def planRegs : Op (List Nat × List Nat) := do
  let b ← blockOp
  pure ((List.range 4).map (fun t => (F.TOMO_TFREQ_FREQ t).of (b.regs.get (R.TOMO_TFREQ t))),
        (List.range 4).map (fun t => (F.TOMO_TAMP_AMP t).of (b.regs.get (R.TOMO_TAMP t))))

/-- TOMO_BANKEN as one number. -/
def bankEnable : Op Nat := do
  let l ← gf F.TOMO_BANKENL_EN
  let h ← gf F.TOMO_BANKENH_EN
  pure (l + h * 65536)

/-- Whether the mode permits tomography (R101, R341). -/
def tomoAllowed : Op Bool := do
  let m ← baseMode
  let u ← units
  let stay ← bf F.SYS_CALCTL_STAY
  let a ← gf F.RNG_STAT_ADDR
  let own := !(u.rng.joined && !u.rng.late && a != 1)
  pure (m == 2 || m == 3 || m == 4 || m == 6 || (m == 1 && u.sys.calEnded && stay && own))

/-- The frame period in 10 µs: at the head of a ring the cluster's, where it is longer (R99, R541). -/
def framePeriod : Op Nat := do
  let p ← gf F.TOMO_FPER_FPER
  let c ← gf F.RNG_FPER_FPER
  let u ← units
  let a ← gf F.RNG_STAT_ADDR
  pure (if u.rng.joined && a == 1 then max p c else p)

/-- The module's own frame period in 10 µs: TOMO_FPER, and at least the minimum (R100). -/
def ownPeriod : Op Nat := do
  let p ← gf F.TOMO_FPER_FPER
  let blen ← bf F.TOMO_CTL_BLEN
  pure (max p (if blen then 1152 else 1024))

/-- Whether the clock tick at a wall time holds an aligned instant (R99, R100). -/
def alignedInstant (w : Nat) (blen : Bool) : Op Bool := do
  let p ← framePeriod
  let ph ← gf F.TOMO_FPHASE_FPHASE
  let p := max p (if blen then 1152 else 1024)
  pure (decide (w % 10000 < 4 ∧ (w / 10000) % p = ph % p))

/-- Electrodes with their AFT_EFAULT bit set (R86). -/
def faultedElectrodes : Op (List Nat) := do
  let b ← blockOp
  pure ((List.range 256).filter fun e => bitAt (b.regs.get (R.AFT_EFAULT (e / 128) (e % 128 / 16))).toNat (e % 16))

/-- Staleness of each tone with a calibration table against a plan (R94), bit 0 for tone 0. -/
def calStale (cal : Option (List Byte)) (freq : List Nat) : Nat :=
  match cal with
  | none => 0xF
  | some c => ((List.range 4).map fun t => if leAt c (4 + 2 * t) 2 = freq.getD t 0 then 0 else 2 ^ t).foldl (· + ·) 0

/-- The plan latch (R89, R104): banks enabled anew are powered, banks disabled switch off, and the settings are taken. -/
def planLatch (burst : Bool) : Op Plan := do
  let p ← planRegs
  let en ← bankEnable
  let tol ← gf F.TOMO_RECIPTOL_TOL
  let ef ← gf F.TOMO_CTL_EFCNT
  let t ← now
  each (fun b => domainSwitch b (bitAt en b)) (List.range 32)
  let b ← blockOp
  let on (k : Nat) : Bool :=
    bitAt en k && bitAt (b.regs.get (R.PWR_DOMSTAT 0)).toNat k &&
      decide (((b.u.pwr.domAt.find? (fun x => x.1 = k)).map (·.2)).getD 0 + 2000000 ≤ t)
  let s ← tomoS
  sf F.TOMO_STAT_CALSTALE (calStale s.cal p.1)
  modTomo fun s => { s with latched := some p.1 }
  pure { freq := p.1, amp := p.2, bankEn := en, recipTol := tol, efCnt := ef, burst := burst,
         producing := (List.range 32).filter on, since := t }

/-- A start is refused (R91, R101). -/
def startRefuse : Op Unit := do
  sb F.TOMO_STAT_STARTERR true
  cntSat F.TOMO_STARTERRCNT_CNT 1

/-- Whether a start is asked for in a mode that permits tomography (R101). -/
def startWanted : Op Bool := do
  let run ← bf F.TOMO_CTL_RUN
  let ok ← tomoAllowed
  let s ← tomoS
  pure ((run || s.single) && ok)

/-- Whether a start that is asked for is granted (R101): a valid plan and a geometry, and no calibration sweep, which runs only while
no frame or burst is in progress (R110). -/
def startGranted (p : Plan) : Op Bool := do
  let geom ← bf F.TOMO_STAT_GEOMOK
  let s ← tomoS
  pure (planValid p.freq p.amp && geom && s.sweep.isNone)

/-! ### Demodulation (R92) -/

/-- The cosine and the sine of a tone's reference at sample `n` of the dwell. Its phase accumulator was reset 14 µs before sample 0,
the same in every step. -/
def toneAt (freq n : Nat) : Int × Int :=
  let a := freq * (14000 * 40960 + n * 1000000)
  (cosFix a 40960000000, sinFix a 40960000000)

/-- Whether three coefficients give a window with the lobes of R92: no main lobe of less than three steps of 40 kHz either side (its
third coefficient is not 0), and beyond it, at every 64th part of a step, at least 67 dB below the response at the tone. The response
`x` steps from the tone is x · sin(πx) / π times the sum. The factor of 67 dB is 2,238.8; the 2,243 here leaves room for what lies
between two of the points (assumption log 82). -/
def windowOk (b : List Int) : Bool :=
  let c (k : Nat) : ℚ := (b.getD k 0 : ℚ)
  decide (0 < b.getD 0 0 ∧ b.getD 2 0 ≠ 0) && (List.range 32577).all fun j =>
    let x : ℚ := ((j + 192 : Nat) : ℚ) / 64
    decide (2243 * 10000 * x * |(sinFix (j % 64) 128 : ℚ) * (c 0 / (x * x) + c 1 / (x * x - 1) + c 2 / (x * x - 4))| ≤ 31415 * 2 ^ 192 * c 0)

/-- The coefficients of the window: any with the lobes of R92. Where the constants of Config have others, those of the three-term
window whose side lobes are least (PRESUMED, assumption log 82). -/
def windowTerms : List Int :=
  let b := (List.range 3).map Config.windowTerm
  if windowOk b then b else [42323, -49755, 7922]

/-- The window at sample `n`: a sum of three cosine terms. -/
def windowAt (n : Nat) : Int := ((List.range 3).map fun k => windowTerms.getD k 0 * cosFix (k * n) 1024).foldl (· + ·) 0

/-- A tone's demodulator: its windowed reference, and the sums of the windowed squares and cross products from which the 2 × 2
correction removes the tone's negative-frequency image. Both follow from the latched frequency. -/
structure Demod where
  ref : List (Int × Int)
  cc : Int
  cs : Int
  ss : Int

/-- The demodulator of a tone at a latched frequency in kHz. -/
def demodOf (freq : Nat) : Demod :=
  let l := (List.range 1024).map fun n => (windowAt n, toneAt freq n)
  let sum (f : Int → Int × Int → Int) : Int := l.foldl (fun a x => a + f x.1 x.2) 0
  { ref := l.map fun x => (x.1 * x.2.1, x.1 * x.2.2), cc := sum fun w x => w * x.1 * x.1, cs := sum fun w x => w * x.1 * x.2,
    ss := sum fun w x => w * x.2 * x.2 }

/-- The phasor of a dwell: the windowed samples correlated with the reference, then corrected. Its in-phase part goes with the cosine
and its quadrature part leads it by a quarter cycle. The spec states no scale and no rounding (assumption log 82). -/
def Demod.phasor (d : Demod) (codes : List Int) : Int × Int :=
  let c := (d.ref.zip codes).foldl (fun (a : Int × Int) x => (a.1 + x.1.1 * x.2, a.2 + x.1.2 * x.2)) (0, 0)
  let k := 2 ^ 192 * (Config.phasorScale : Int)
  let det := d.cc * d.ss - d.cs * d.cs
  (quot ((c.1 * d.ss - c.2 * d.cs) * k) det, quot ((c.1 * d.cs - c.2 * d.cc) * k) det)

/-- Whether a channel is overloaded in a step (R83): an end code of its converter, or more than 105 % on its output monitor, between
10.4 µs and the end of the dwell, which lasts 25 µs. -/
def chOverload (dwellAt : Nat) (c : ChSense) : Bool :=
  let endCode (x : Int) : Bool := decide (x = 8191 ∨ x = -8192)
  c.dwell.any endCode || c.settle.any (fun x => decide (10400 ≤ x.1) && endCode x.2) ||
    c.monitor.any fun x => decide (10400 ≤ x.1 ∧ x.1 ≤ dwellAt + 25000 ∧ 1050 < x.2)

/-- Whether a result's magnitude lies below 8 % of full scale at every tone (R87). -/
def lowSignal (iq : List (Int × Int)) : Bool :=
  iq.all fun x => decide (10000 * (x.1.natAbs * x.1.natAbs + x.2.natAbs * x.2.natAbs) < 64 * (Config.fullScale * Config.fullScale))

/-- What a step returns (R79, R82 to R85, R92): a result of every channel that gives one. A channel that the operand does not list
had no current in the step (assumption log 3). -/
def stepResult (freq : List Nat) (gives : List Nat) (x : StepSense) : StepResult :=
  let ds := (List.range 4).map fun t => demodOf (freq.getD t 0)
  let phasors (codes : List Int) : List (Int × Int) := ds.map fun d => d.phasor codes
  let inDwell (t : Nat) : Bool := decide (x.dwellAt ≤ t ∧ t ≤ x.dwellAt + 25000)
  { results := gives.map fun ch =>
      let c := (x.channels.find? fun c => c.ch = ch).getD ⟨ch, [], [], []⟩
      let iq := phasors c.dwell
      { ch := ch, ovl := chOverload x.dwellAt c, low := lowSignal iq, iq := iq }
    drive := phasors x.drive, driveOvl := x.limited.any inDwell, guards := (x.guards.filter fun g => inDwell g.2).map (·.1)
    syncErr := x.syncErr, linkErr := x.linkErr }

/-! ### Bursts and frames -/

/-- Whether the next step of a burst or frame is due: its slot of 40 µs has come (R95). -/
def stepDue (f : Frame) : Op Bool := do
  let t ← now
  pure (decide (f.began + f.step * 40000 ≤ t))

/-- BURST_START: 1.28 ms before an aligned instant with BLEN = 1 (R89, R99); RT0 arms the sequencer (R29). -/
def opBurstStart : Op Unit := onCore 4 do
  let w ← wallTime
  let blen ← bf F.TOMO_CTL_BLEN
  let al ← alignedInstant (w + 1280000) true
  let want ← startWanted
  let s ← tomoS
  let fs ← faultedElectrodes
  let t ← now
  onlyIf (blen && al && want && s.frame.isNone) do
    let p ← planLatch true
    let go ← startGranted p
    if go then do
      modTomo fun s => { s with frame := some { plan := p, burst := true, began := t, wallAt := (w + 1280000) / 10000 * 10000, faulted := fs, single := s.single } }
      sb F.TOMO_STAT_RUNNING true
      sb F.TOMO_STAT_BURST true
    else startRefuse

/-- `n` transfers of the link to die `d` failed their check and were repeated (R120). -/
def linkNote (d n : Nat) : Op Unit := onlyIf (decide (0 < n)) do
  sb (F.AFT_STAT_LINKERR d) true
  cntSat (F.AFT_LINKCNT_CNT d) n

/-- The link to die `d` carries an AFT register access or a calibration load (R19). How many of its transfers it repeats no command
says: a free value (assumption log 109). -/
def linkCarries (d : Nat) : Op Unit := do
  let n ← free
  linkNote d n

/-- What a step's results tell the AFT registers (R85, R120). -/
def stepFlags (r : StepResult) : Op Unit := do
  each (fun g => onlyIf (decide (g < 32)) (sbit (R.AFT_GSTAT (g / 16)) (g % 16) true)) r.guards
  each (fun d => onlyIf (decide (d < 2)) (sb (F.AFT_STAT_SYNCERR d) true)) r.syncErr
  each (fun d => onlyIf (decide (d < 2)) (linkNote d 1)) r.linkErr

/-- What a step's results count (R83, R84): overloaded channel results and a drive overload. TOMO_OVLCNT, STAT.OVL and ANYOVL count
the results overloaded under R83, those of a burst's guards too, and not results that R84, R85 or SYNCERR treat as
overloaded (assumption log 83). -/
def stepCounts (driven : Bool) (r : StepResult) : Op Unit := do
  let n := (r.results.filter (·.ovl)).length
  onlyIf (decide (0 < n)) do
    cntSat F.TOMO_OVLCNT_CNT n
    sb F.TOMO_STAT_OVL true
  onlyIf (driven && r.driveOvl) do
    cntSat F.TOMO_DRVOVLCNT_CNT 1
    sb F.TOMO_STAT_DRVOVL true

/-- What burst step `g` returns: guard Gg is driven, unless it is clamped as its bank gives no results (R81), and G(g − 1) and G(g + 1)
sense where their banks give results. -/
def burstResult (f : Frame) (x : StepSense) : StepResult :=
  stepResult f.plan.freq ([(f.step + 31) % 32, (f.step + 1) % 32].filter fun h => decide (h ∈ f.plan.producing)) x

/-- BURST_STEP: the next of the 32 steps of the baseline burst. -/
def opBurstStep (x : StepSense) : Op Unit := do
  let s ← tomoS
  match s.frame with
  | none => pure ()
  | some f => do
    let due ← stepDue f
    onlyIf (f.burst && decide (f.step < 32) && due) do
      let r := burstResult f x
      stepFlags r
      stepCounts (decide (f.step ∈ f.plan.producing)) r
      modTomo fun s => { s with frame := some { f with step := f.step + 1, burstRuns := f.burstRuns ++ [r] } }

/-- A frame starts with plan `p` at the aligned instant `instant` (R76, R99): the stamp, the frame sequence number, step 0. The stamp's wall
time is that instant, the same in every module whose frame starts at it (R546; assumption log 110). -/
def frameBegin (instant : Nat) (p : Plan) (runs : List StepResult) (fs : List Nat) (single : Bool) : Op Unit := do
  let st ← encStamp
  let t ← now
  let q ← rd64 R.TOMO_FSEQL R.TOMO_FSEQH
  let q := (q + 1) % 2 ^ 64
  wr64 R.TOMO_FSEQL R.TOMO_FSEQH q
  sb F.TOMO_STAT_RUNNING true
  sb F.TOMO_STAT_BURST false
  modTomo fun s =>
    { s with single := s.single && !single, frame := some { plan := p, burst := false, step := 0, began := t, burstRuns := runs, stamp := { st with wall := instant }, fseq := q, single := single, faulted := fs } }

/-- FRAME_START: an aligned instant (R99, R101). With BLEN = 1 the plan was latched at the start of the burst, and the frame starts
once the burst's 1.28 ms are over and the aligned instant that it led to has come; after a step of wall time the burst's time alone
counts. RT0 arms the sequencer (R29). -/
def opFrameStart : Op Unit := onCore 4 do
  let w ← wallTime
  let blen ← bf F.TOMO_CTL_BLEN
  let want ← startWanted
  let fs ← faultedElectrodes
  let s ← tomoS
  match s.frame with
  | some f => do
    let due ← stepDue f
    onlyIf (f.burst && decide (f.step = 32 ∧ f.wallAt ≤ w) && due) (frameBegin (if f.wallAt = 0 then w else f.wallAt) f.plan f.burstRuns f.faulted f.single)
  | none => do
    let al ← alignedInstant w false
    onlyIf (al && !blen && want) do
      let p ← planLatch false
      let go ← startGranted p
      if go then frameBegin (w / 10000 * 10000) p [] fs s.single else startRefuse

/-- The range words of step `k` that are not 0, by 16 × die + group (R82). -/
def stepCodes (ranges : List (Nat × Nat)) (k : Nat) : List (Nat × Nat) :=
  (ranges.filter fun x => x.1 % 4096 / 16 = k).map fun x => (x.1 / 4096 * 16 + x.1 % 16, x.2)

/-- What a frame step that drives `drv` returns: the electrodes of the banks that give results, but for the driven one, whose converter
is at the drive monitor (R79, R81, R95). -/
def frameResult (f : Frame) (drv : Option Nat) (x : StepSense) : StepResult :=
  stepResult f.plan.freq ((f.plan.producing.flatMap fun b => (List.range 8).map (8 * b + ·)).filter fun c => decide (drv ≠ some c)) x

/-- EXCITATION_STEP: the next of the 256 steps of a frame, with the table entry and the range codes as they stand (R95 to
R98); an electrode that is faulted or whose bank produces nothing is not driven (R81, R86): so too one of a bank powered for less than 2 ms at the plan
latch, and the faults are those that stood when the burst or frame began, whatever the host clears meanwhile (DESIGN CHOICE, assumption
log 83). -/
def opExcitationStep (x : StepSense) : Op Unit := do
  let s ← tomoS
  match s.frame with
  | none => pure ()
  | some f => do
    let due ← stepDue f
    onlyIf (!f.burst && decide (f.step < 256) && due) do
      let en ← bf (F.TOMO_STEP_DRVEN f.step)
      let gm ← bf (F.TOMO_STEP_GMODE f.step)
      let e ← gf (F.TOMO_STEP_DRV f.step)
      let drv := if en && decide (e / 8 ∈ f.plan.producing) && decide (e ∉ f.faulted) then some e else none
      let r := frameResult f drv x
      stepFlags r
      stepCounts drv.isSome r
      let run : StepRun := ⟨f.step, drv, gm, stepCodes s.ranges f.step, r⟩
      modTomo fun s => { s with frame := some { f with step := f.step + 1, runs := f.runs ++ [run] } }

/-! ### Calibrated values -/

/-- The range code of channel `c` in a step. -/
def codeOf (codes : List (Nat × Nat)) (c : Nat) : Nat :=
  let w := ((codes.find? (fun x => x.1 = c / 8)).map (·.2)).getD 0
  bits w (2 * (c % 8) + 1) (2 * (c % 8))

/-- Entry (c, g, t) of the calibration table in force (R109): gain and offset, in phase and in quadrature. Without a table the
spec gives no entries: they are free (assumption log 1). -/
def calEntry (cal : Option (List Byte)) (c g t : Nat) : (Int × Int) × (Int × Int) :=
  let o := 0x40 + ((c * 4 + g) * 4 + t) * 16
  let f (k : Nat) : Int :=
    match cal with
    | some b => toSigned 32 (leAt b (o + 4 * k) 4)
    | none => toSigned 32 (Config.freeAt "calibration entry" [c, g, t, k])
  ((f 0, f 1), (f 2, f 3))

/-- A signed 32-bit result; free where the value lies outside the format. -/
def fit32 (v : Int) : Int := toSigned 32 (fitS 32 v)

/-- The raw value of R108: the complex ratio of a sense phasor to a drive phasor, in units of its least significant bit. -/
def rawRatio (sense drive : Int × Int) : Int × Int :=
  let n := drive.1 * drive.1 + drive.2 * drive.2
  let k : Int := Config.rawScale
  (quot ((sense.1 * drive.1 + sense.2 * drive.2) * k) n, quot ((sense.2 * drive.1 - sense.1 * drive.2) * k) n)

/-- The calibrated value of R108 of a sense phasor and a drive phasor: loss and capacitance in 1/4,096 fF, each the nearest (the
worked example of the chapter stores 1,690,009.6 as 1,690,010: assumption log 84). -/
def calibrate (e : (Int × Int) × (Int × Int)) (sense drive : Int × Int) : Int × Int :=
  let raw := rawRatio sense drive
  let d := (raw.1 - e.2.1, raw.2 - e.2.2)
  let g := e.1
  (fit32 (nearest (g.1 * d.1 - g.2 * d.2) (2 ^ 30)), fit32 (nearest (g.1 * d.2 + g.2 * d.1) (2 ^ 30)))

/-- A baseline value: R109 gives guards no calibration entries, so its scale is free (assumption log 1). -/
def baseValue (sense drive : Int × Int) : Int × Int :=
  let raw := rawRatio sense drive
  let k := [ofSigned 64 raw.1, ofSigned 64 raw.2]
  (toSigned 32 (Config.freeAt "baseline loss" k), toSigned 32 (Config.freeAt "baseline capacitance" k))

/-- The result of channel `c` in a step. -/
def resultOf (r : StepResult) (c : Nat) : Option ChRes := r.results.find? fun x => x.ch = c

/-- Whether a result is treated as overloaded (R83 to R85, SYNCERR of R120, which takes in every result of the step). -/
def overloaded (r : StepResult) (x : ChRes) (guard : Nat) : Bool :=
  x.ovl || r.driveOvl || decide (guard ∈ r.guards) || decide (r.syncErr ≠ [])

/-- One direction of a pair: not measured, overloaded, or measured with its values. -/
inductive Dir where
  | absent
  | ovl
  | valid (v : List (Int × Int))
deriving DecidableEq, Repr

/-- The last step of a frame that drove electrode `e` (R97). -/
def lastRun (runs : List StepRun) (e : Nat) : Option StepRun := runs.reverse.find? fun s => s.drv = some e

/-- The direction that drives `i` and senses `j` (R80, R81, R86, R97, R108, R113). -/
def direction (f : Frame) (cal : Option (List Byte)) (i j : Nat) : Dir :=
  match lastRun f.runs i with
  | none => .absent
  | some s =>
    if j / 8 ∉ f.plan.producing ∨ j ∈ f.faulted ∨ (s.gmode = true ∧ i / 8 = j / 8) then .absent
    else
      match resultOf s.r j with
      | none => .absent
      | some x =>
        if overloaded s.r x (j / 8) then .ovl
        else .valid ((List.range 4).map fun t =>
          calibrate (calEntry cal j (codeOf s.codes j) t) (x.iq.getD t (0, 0)) (s.r.drive.getD t (0, 0)))

/-- Whether two components differ by more than TOMO_RECIPTOL × 0.01 % of the larger magnitude (R114): the larger absolute value of the
two directions' same component (DESIGN CHOICE, assumption log 83). -/
def beyond (tol : Nat) (a b : Int) : Bool :=
  decide ((tol : Int) * (max a.natAbs b.natAbs : Nat) < ((a - b).natAbs : Int) * 10000)

/-- The mean of two values (R113): the spec states no rounding. The two are the directions' calibrated values as R108 stores them, each
already rounded to its 32 bits, so the mean is that of the rounded values (DEDUCED, assumption log 84). -/
def meanOf (a b : Int) : Int := quot (a + b) 2

/-- The merge of two directions (R113, R114): values, FWD, REV, RECIPX. -/
def mergePair (p : Plan) (fw rv : Dir) : List (Int × Int) × Nat :=
  match fw, rv with
  | .valid a, .valid b =>
    let d := (a.zip b).any fun x => beyond p.recipTol x.1.1 x.2.1 || beyond p.recipTol x.1.2 x.2.2
    ((a.zip b).map (fun x => (meanOf x.1.1 x.2.1, meanOf x.1.2 x.2.2)), 3 + 4 * bit d)
  | .valid a, _ => (a, 1)
  | _, .valid b => (b, 2)
  | _, _ => (List.replicate 4 (0, 0), 0)

/-! ### Geometry (R105 to R107) -/

/-- The ring of electrode `n`, 0xFF for none. -/
def geomRing (g : List Byte) (n : Nat) : Nat := leAt g (0x90 + 16 * n) 1

/-- The four neighbour entries of ring `r`. -/
def geomNbr (g : List Byte) (r : Nat) : List Nat := (List.range 4).map fun k => leAt g (0x10 + 4 * r + k) 1

/-- Whether ring `a` lists ring `b`. -/
def ringLists (g : List Byte) (a b : Nat) : Bool := decide (b ∈ geomNbr g a)

/-- The kept pair set, in order (R107). -/
def geomPairs (g : List Byte) : List (Nat × Nat) :=
  let rings := (List.range 256).map (geomRing g)
  (List.range 256).flatMap fun i =>
    let a := rings.getD i 0xFF
    if a = 0xFF then []
    else
      let near := a :: (geomNbr g a).filter (· ≠ 0xFF)
      ((List.range 256).filter fun j => decide (i < j) && (let b := rings.getD j 0xFF; decide (b ≠ 0xFF ∧ b ∈ near))).map fun j => (i, j)

/-- The check of a geometry table (R106), without the test of the running state. -/
def geomCheck (g : List Byte) : Nat :=
  let n := leAt g 2 2
  let named (x : Nat) : Bool := decide (x = 0xFF ∨ x < n)
  let rings := List.range 32
  if g.length ≠ 4240 ∨ leAt g 0 2 ≠ 1 ∨ n = 0 ∨ 32 < n ∨
      !((List.range 256).all fun e => named (geomRing g e)) ∨ !(rings.all fun r => (geomNbr g r).all named) then St.geomFormat
  else if !crcOkAt g 8 then St.geomCrc
  else if rings.any fun a => (geomNbr g a).any fun b => decide (b ≠ 0xFF) && (decide (a = b) || !ringLists g b a) then St.geomAsym
  else if 12160 < (geomPairs g).length then St.geomPairs
  else St.ok

/-- A geometry table comes into force. -/
def geomApply (g : List Byte) : Op Unit := do
  modTomo fun s => { s with geom := some g }
  wrN R.TOMO_GEOMID (leAt g 4 4)
  sf F.TOMO_NPAIR_NPAIR (geomPairs g).length
  sb F.TOMO_STAT_GEOMOK true

/-- The check of a calibration table (R109). -/
def calCheck (c : List Byte) : Nat :=
  if c.length ≠ 65600 ∨ leAt c 0 2 ≠ 1 then St.calFormat
  else if !crcOkAt c 0x18 then St.calCrc
  else St.ok

/-! ### Frame close -/

/-- Merges every kept pair of a frame (R113, R114) with the flags of R116. -/
def mergePairs (f : Frame) (cal : Option (List Byte)) (chg : List (Nat × Nat)) (pairs : List (Nat × Nat)) : List PairRec × Nat :=
  let one (ij : Nat × Nat) : PairRec × Nat :=
    let fw := direction f cal ij.1 ij.2
    let rv := direction f cal ij.2 ij.1
    let m := mergePair f.plan fw rv
    let used (i j : Nat) : Bool :=
      match lastRun f.runs i with
      | none => false
      | some s => decide ((s.k, j) ∈ chg)
    let off := decide (ij.1 / 8 ∉ f.plan.producing ∨ ij.2 / 8 ∉ f.plan.producing)
    let ef := decide (ij.1 ∈ f.faulted ∨ ij.2 ∈ f.faulted)
    let fl := m.2 + 8 * bit (used ij.1 ij.2 || used ij.2 ij.1) + 16 * bit off + 32 * bit ef
    ({ vals := m.1, flags := fl }, bit (fw == .ovl) + bit (rv == .ovl))
  let all := pairs.map one
  (all.map (·.1), (all.map (·.2)).foldl (· + ·) 0)

/-- One direction of a guard pair: guard `g` driven in burst step `g`, guard `h` sensing. A guard whose bank gives no results is clamped
and not driven (R81). That takes in the guard of a bank powered for less than 2 ms at the plan latch, and the result of a sensing guard
that lost compliance is overloaded as those of its bank's electrodes are (R85, R104; both DESIGN CHOICE, assumption log 83). -/
def guardDirection (p : Plan) (runs : List StepResult) (g h : Nat) : Dir :=
  match (if g ∈ p.producing then runs[g]? else none) with
  | none => .absent
  | some r =>
    match resultOf r h with
    | none => .absent
    | some x =>
      if overloaded r x h then .ovl
      else .valid ((List.range 4).map fun t => baseValue (x.iq.getD t (0, 0)) (r.drive.getD t (0, 0)))

/-- Merges the 32 guard pairs of a burst. A guard pair beyond the tolerance is flagged and not counted in TOMO_RECIPCNT, NRECIP or
STAT.RECIPX (DESIGN CHOICE, assumption log 83). -/
def mergeBase (p : Plan) (runs : List StepResult) : List PairRec :=
  if runs = [] then []
  else
    (List.range 32).map fun g =>
      let h := (g + 1) % 32
      let m := mergePair p (guardDirection p runs g h) (guardDirection p runs h g)
      { vals := m.1, flags := m.2 }

/-- The 2-bit code of channel `c` in a range word list, replaced. -/
def codePut (ranges : List (Nat × Nat)) (k c v : Nat) : List (Nat × Nat) :=
  let key := c / 128 * 4096 + k * 16 + c % 128 / 8
  let w := ((ranges.find? (fun x => x.1 = key)).map (·.2)).getD 0
  let sh := 2 * (c % 8)
  let w' := (w &&& (0xFFFF ^^^ (3 <<< sh))) ||| (v <<< sh)
  let rest := ranges.filter fun x => x.1 ≠ key
  if w' = 0 then rest else (rest.filter fun x => x.1 < key) ++ [(key, w')] ++ rest.filter fun x => key < x.1

/-- The running autorange of R87: range table, low-signal runs, and the codes changed. -/
structure RangeAcc where
  ranges : List (Nat × Nat)
  runs : List (Nat × Nat)
  changed : List (Nat × Nat)

/-- One channel result's effect on the range table. The count of low frames starts again after a code has moved (assumption log 83). -/
def autorangeOne (k : Nat) (codes : List (Nat × Nat)) (old : List (Nat × Nat)) (a : RangeAcc) (x : ChRes) : RangeAcc :=
  let key : Nat := k * 256 + x.ch
  let c : Nat := codeOf codes x.ch
  let n : Nat := ((old.find? (fun y => y.1 = key)).map (·.2)).getD 0
  if x.ovl then
    (if c = 0 then a else { a with ranges := codePut a.ranges k x.ch (c - 1), changed := (k, x.ch) :: a.changed })
  else if x.low then
    (if 16 ≤ n + 1 ∧ c < 3 then { a with ranges := codePut a.ranges k x.ch (c + 1), changed := (k, x.ch) :: a.changed }
     else { a with runs := (key, min 16 (n + 1)) :: a.runs })
  else a

/-- The autorange update at a frame close (R87, R88), from the codes in the table then. -/
def autorange (f : Frame) (s : TomoS) : RangeAcc :=
  f.runs.foldl (fun a run => run.r.results.foldl (autorangeOne run.k (stepCodes s.ranges run.k) s.lowRuns) a) ⟨s.ranges, [], []⟩

/-- Frames in a row in which each electrode's steps overloaded the drive (R86). Of an electrode driven in several steps of a frame, one
that meets R84 is enough (DESIGN CHOICE, assumption log 83). -/
def driveRunsNext (f : Frame) (old : List (Nat × Nat)) : List (Nat × Nat) :=
  ((List.range 256).filter fun e => f.runs.any fun s => s.drv == some e && s.r.driveOvl).map fun e =>
    (e, ((old.find? (fun x => x.1 = e)).map (·.2)).getD 0 + 1)

/-- An electrode is faulted (R86). -/
def electrodeFault (e : Nat) : Op Unit := do
  sbit (R.AFT_EFAULT (e / 128) (e % 128 / 16)) (e % 16) true
  sb F.TOMO_STAT_EFAULT true

/-- Whether some lane's flags of a stamp say that its position was substituted. -/
def anyEstim (st : Stamp) : Bool := st.flags.any fun x => x % 2 = 1

/-- FFLAGS of R116. PLANCHG and BANKCHG of the first frame are 0, and the previous frame is the last that closed; ANYOVL and
ANYDRVOVL look at the 256 steps of the frame and not at its burst (assumption log 83). -/
def frameFlags (f : Frame) (prev : Option Plan) (stale : Nat) : Nat :=
  let chg (g : Plan → Bool) : Nat := bit (match prev with | none => false | some p => g p)
  let off := ((List.range 4).map fun t => if f.plan.amp.getD t 0 = 0 then 2 ^ t else 0).foldl (· + ·) 0
  chg (fun p => decide (p.freq ≠ f.plan.freq ∨ p.amp ≠ f.plan.amp)) + 2 * bit (f.burstRuns = []) +
    4 * bit (f.runs.any fun s => s.r.results.any (·.ovl)) + 8 * bit (f.runs.any fun s => s.drv.isSome && s.r.driveOvl) +
    16 * bit (anyEstim f.stamp) + 32 * chg (fun p => decide (p.bankEn ≠ f.plan.bankEn)) + 256 * stale + 4096 * off

/-- FRAME_CLOSE: 10.24 ms after the start strobe, after step 255 (R86, R87, R100, R108, R112 to R114), with the die temperatures in
0.01 °C. The closing frame is calibrated with the table in force during it, and a new table takes effect after it (assumption
log 83). RT0 does the work (R29). -/
def opFrameClose (t0 t1 : Int) : Op Unit := onCore 4 do
  let s ← tomoS
  let w ← wallTime
  let t ← now
  let auto ← bf F.TOMO_CTL_AUTORNG
  match s.frame with
  | none => pure ()
  | some f => do
    let due ← stepDue f
    onlyIf (!f.burst && decide (f.step = 256) && due) do
      let pairs := match s.geom with | none => [] | some g => geomPairs g
      let m := mergePairs f s.cal s.rngChanged pairs
      let nrec := (m.1.filter fun p => bitAt p.flags 2).length
      let rec0 : FrameRec :=
        { fflags := frameFlags f s.prevPlan (calStale s.cal f.plan.freq), fseq := f.fseq, stamp := f.stamp, plan := f.plan,
          geomId := match s.geom with | none => 0 | some g => leAt g 4 4,
          nmiss := (m.1.filter fun p => decide (p.flags % 4 = 0)).length, nrecip := nrec, novl := m.2,
          temp0 := t0, temp1 := t1, wtClose := w, closedAt := t, pairs := m.1, base := mergeBase f.plan f.burstRuns }
      let ar := if auto then autorange f s else ⟨s.ranges, [], []⟩
      let dr := driveRunsNext f s.driveRuns
      let newF := (dr.filter fun x => decide (f.plan.efCnt ≠ 0 ∧ f.plan.efCnt ≤ x.2)).map (·.1)
      sf (F.AFT_TEMP_TEMP 0) (ofSigned 16 t0)
      sf (F.AFT_TEMP_TEMP 1) (ofSigned 16 t1)
      onlyIf (decide (0 < nrec)) do
        cntSat F.TOMO_RECIPCNT_CNT nrec
        sb F.TOMO_STAT_RECIPX true
      onlyIf (decide (ar.changed ≠ [])) (sb F.TOMO_STAT_RNGCHG true)
      each electrodeFault newF
      onlyIf (s.calNext.isSome || decide (ar.changed ≠ [])) (each linkCarries [0, 1])
      let cal := match s.calNext with | some c => some c | none => s.cal
      sf F.TOMO_STAT_CALSTALE (calStale cal f.plan.freq)
      sb F.TOMO_STAT_RUNNING false
      modTomo fun s =>
        { s with frame := none, prevPlan := some f.plan, ranges := ar.ranges, lowRuns := ar.runs, rngChanged := ar.changed, driveRuns := dr, cal := cal, calNext := none, closed := some rec0 }

/-- A frame or burst in progress is abandoned (R103). -/
def frameAbandon : Op Unit := do
  let s ← tomoS
  onlyIf s.frame.isSome do
    modTomo fun s => { s with frame := none }
    sb F.TOMO_STAT_ABANDON true
    sb F.TOMO_STAT_RUNNING false
    sb F.TOMO_STAT_BURST false

/-- A frame or burst in progress is abandoned where the mode, with SYS_CALCTL.STAY in CALIBRATE, does not permit tomography (R103,
R341). -/
def frameModeCheck : Op Unit := do
  let ok ← tomoAllowed
  onlyIf (!ok) frameAbandon

/-- A frame or burst is abandoned when an electrode bank it was latched with has lost power (R103). -/
def frameBanksCheck : Op Unit := do
  let s ← tomoS
  let dom ← rd (R.PWR_DOMSTAT 0)
  match s.frame with
  | none => pure ()
  | some f => onlyIf ((List.range 32).any fun b => bitAt f.plan.bankEn b && !bitAt dom.toNat b) frameAbandon

/-- TOMO_STAT.CALSTALE for the table in force (R94, R112): with the tones latched last, and before any latch with the plan registers
(assumption log 83). -/
def calStaleShow : Op Unit := do
  let s ← tomoS
  let p ← planRegs
  sf F.TOMO_STAT_CALSTALE (calStale s.cal (s.latched.getD p.1))

/-! ### The record as bytes (R116) -/

/-- The eight bytes of a signed value. -/
def le64 (i : Int) : List Byte := leBytes 8 (ofSigned 64 i)

/-- The 32 bytes of a pair entry. -/
def pairBytes (p : PairRec) : List Byte :=
  (List.range 4).flatMap fun t =>
    let v := p.vals.getD t (0, 0)
    leBytes 4 (ofSigned 32 v.1) ++ leBytes 4 (ofSigned 32 v.2)

/-- A list padded with zeros to `n` bytes. -/
def padTo (n : Nat) (l : List Byte) : List Byte := l ++ zeros (n - l.length)

/-- A frame record as it stands in DRAM. -/
def frameBytes (r : FrameRec) : List Byte :=
  padTo 0x200 (leBytes 4 1 ++ leBytes 4 r.fflags ++ leBytes 8 r.fseq ++ leBytes 8 r.stamp.wall ++ le64 (toSigned 48 r.stamp.mains) ++
    (List.range 16).flatMap (fun n => le64 (r.stamp.pos.getD n 0)) ++ (List.range 16).flatMap (fun n => le64 (r.stamp.lead.getD n 0)) ++
    (List.range 16).flatMap (fun n => leBytes 2 (r.stamp.flags.getD n 0)) ++
    (List.range 4).flatMap (fun t => leBytes 4 (r.plan.freq.getD t 0 + r.plan.amp.getD t 0 * 65536)) ++
    leBytes 4 r.geomId ++ leBytes 2 r.pairs.length ++ leBytes 2 r.nmiss ++ leBytes 2 r.nrecip ++ leBytes 2 r.novl ++
    leBytes 2 (ofSigned 16 r.temp0) ++ leBytes 2 (ofSigned 16 r.temp1) ++ leBytes 8 r.wtClose) ++
  padTo (12160 * 32 + 0) (r.pairs.flatMap pairBytes) ++
  padTo (0x62180 - 0x5F200) (r.pairs.map fun p => BitVec.ofNat 8 p.flags) ++
  padTo 0x400 (r.base.flatMap pairBytes) ++ leBytes 8 r.fseq

/-! ### Calibration sweep (R110, R111) -/

/-- The instant of a sweep's start has come: the four tones are latched (R110). Called before what could change the plan registers. -/
def sweepLatchDue : Op Unit := do
  let t ← now
  let s ← tomoS
  let p ← planRegs
  match s.sweep with
  | none => pure ()
  | some w => onlyIf (decide (w.since ≤ t) && w.freq.isNone) (modTomo fun s => { s with sweep := some { w with freq := some p.1 } })

/-- A sweep starts `delay` ns from now. -/
def sweepStart (delay : Nat) : Op Unit := do
  let t ← now
  modTomo fun s => { s with sweep := some { since := t + delay } }
  sweepLatchDue

/-- The mean of 64 values, where the spec states no rounding. -/
def mean64 (l : List (Int × Int)) : Int × Int :=
  (quot (l.foldl (fun a x => a + x.1) 0) 64, quot (l.foldl (fun a x => a + x.2) 0) 64)

/-- One measurement of a sweep's step, demodulated: channel, code, reference, which of the 64 steps, and the raw ratios of the four
tones. -/
structure CalRaw where
  ch : Nat
  code : Nat
  ref : Nat
  step : Nat
  raw : List (Int × Int)

/-- A sweep's steps demodulated with the tones latched at its start (R92, R108, R110). -/
def sweepRaw (freq : List Nat) (meas : List CalStep) : List CalRaw :=
  let ds := (List.range 4).map fun t => demodOf (freq.getD t 0)
  meas.map fun m => ⟨m.ch, m.code, m.ref, m.step, ds.map fun d => rawRatio (d.phasor m.sense) (d.phasor m.drive)⟩

/-- The response of channel `c` on code `g` to reference `r` at tone `t`: the mean of its 64 steps. A step that the operand does not
list had no current (assumption log 3). -/
def response (raws : List CalRaw) (c g r t : Nat) : Int × Int :=
  let mine := raws.filter fun x => decide (x.ch = c ∧ x.code = g ∧ x.ref = r)
  mean64 ((List.range 64).map fun n => ((mine.find? fun x => x.step = n).map fun x => x.raw.getD t (0, 0)).getD (0, 0))

/-- Whether a response lies outside ±20 % of a nominal magnitude (R111). -/
def outside20 (v : Int × Int) (n : Nat) : Bool :=
  let m := v.1.natAbs * v.1.natAbs + v.2.natAbs * v.2.natAbs
  decide (100 * m < 64 * (n * n) ∨ 144 * (n * n) < 100 * m)

/-- The channels of the powered banks whose response to a reference is outside its limits (R111). -/
def sweepFaults (freq : List Nat) (powered : Nat → Bool) (raws : List CalRaw) : List Nat :=
  (List.range 256).filter fun c => powered (c / 8) &&
    (List.range 4).any fun g => (List.range 3).any fun r => (List.range 4).any fun t =>
      outside20 (response raws c g r t) (Config.refNominal r g (freq.getD t 0))

/-- The 256 bytes of a channel's entries: on each code and tone the gain that the references give, and as offset the raw ratio with
the input open (R108 to R110). -/
def sweepEntries (freq : List Nat) (raws : List CalRaw) (c : Nat) : List Byte :=
  (List.range 16).flatMap fun k =>
    let l := (List.range 3).map fun r => response raws c (k / 4) r (k % 4)
    let g := Config.sweepGain (k / 4) (freq.getD (k % 4) 0) l
    let o := l.getD 0 (0, 0)
    [g.1, g.2, o.1, o.2].flatMap fun v => leBytes 4 (ofSigned 32 v)

/-- The table a sweep makes (R109, R111): a channel that failed, or whose bank is off, keeps its entries. -/
def sweepTable (old : Option (List Byte)) (entries : Nat → List Byte) (kept : Nat → Bool) (freq : List Nat) (t0 t1 : Nat) (w : Nat) :
    List Byte :=
  let keep (c : Nat) : List Byte :=
    match old with
    | some o => slice o (0x40 + c * 256) 256
    | none => (List.range 64).flatMap fun k => leBytes 4 (Config.freeAt "calibration entry" [c, k / 16, k / 4 % 4, k % 4])
  let body := (List.range 256).flatMap fun c => if kept c then keep c else entries c
  let head := leBytes 2 1 ++ zeros 2 ++ (List.range 4).flatMap (fun t => leBytes 2 (freq.getD t 0)) ++ leBytes 2 t0 ++ leBytes 2 t1 ++
    leBytes 8 w ++ zeros 4 ++ zeros 36
  let all := head ++ body
  patch all 0x18 (leBytes 4 (crc32 all))

/-- What a sweep's steps tell the AFT registers of die `d` (R120): a strobe out of its slot, and repeated transfers. R120 treats the
results of a step whose strobe was late as overloaded, and the sweep's rules give an overloaded result no effect (assumption log 109). -/
def sweepLink (meas : List CalStep) (d : Nat) : Op Unit := do
  let mine := meas.filter fun m => m.ch / 128 = d
  onlyIf (mine.any (·.syncErr)) (sb (F.AFT_STAT_SYNCERR d) true)
  linkNote d (mine.filter (·.linkErr)).length

/-- CALIBRATION_SWEEP_END: 491.52 ms after its start a sweep ends with what it measured and the die temperatures in 0.01 °C; channels
outside limits are faulted, and its table takes effect at the next frame close (R110 to R112). -/
def opCalibrationSweepEnd (meas : List CalStep) (t0 t1 : Int) : Op Unit := do
  sweepLatchDue
  let s ← tomoS
  let t ← now
  let w ← wallTime
  let dom ← rd (R.PWR_DOMSTAT 0)
  let powered (b : Nat) : Bool := bitAt dom.toNat b
  match s.sweep with
  | none => pure ()
  | some sw =>
    onlyIf (decide (sw.since + 491520000 ≤ t)) do
      let freq := sw.freq.getD []
      let raws := sweepRaw freq meas
      let fs := sweepFaults freq powered raws
      let kept (c : Nat) : Bool := !powered (c / 8) || decide (c ∈ fs)
      modTomo fun s =>
        { s with sweep := none, calNext := some (sweepTable s.cal (sweepEntries freq raws) kept freq (ofSigned 16 t0) (ofSigned 16 t1) w) }
      each electrodeFault fs
      each (sweepLink meas) [0, 1]
      raise Ev.sweepDone (leBytes 2 fs.length ++ zeros 2)
      let u ← units
      match u.sys.cal with
      | none => pure ()
      | some j =>
        modU fun u => { u with sys := { u.sys with cal := some { j with sweep := false, stat := j.stat ||| (if fs = [] then 0 else 4) } } }

/-! ### Register accesses -/

/-- TOMO register writes: RUN and SINGLE of TOMO_CTL act (R101, R102). One write that sets both while RUN is 0 leaves a request for a
single frame pending (assumption log 83). -/
def tomoWrite (base a : Nat) (new acts : Word) : Op Unit := do
  sweepLatchDue
  if base = R.TOMO_CTL then do
    let run ← bf F.TOMO_CTL_RUN
    let s ← tomoS
    wr a new
    let run' := F.TOMO_CTL_RUN.of new != 0
    onlyIf (!run && acts.toNat.testBit 12) (modTomo fun s => { s with single := true })
    onlyIf (run && !run' && (match s.frame with | some f => f.burst | none => false)) do
      modTomo fun s => { s with frame := none }
      sb F.TOMO_STAT_RUNNING false
      sb F.TOMO_STAT_BURST false
  else wr a new

/-- TOMO register reads: PLANOK shows the plan registers at every moment (R91). -/
def tomoRead (base a : Nat) : Op Word :=
  if base = R.TOMO_STAT then do
    let w ← rd a
    let p ← planRegs
    pure (F.TOMO_STAT_PLANOK.put w (bit (planValid p.1 p.2)))
  else rd a

/-- The key of the range-table word that AFT_RTIDX of a die names. -/
def rangeKey (die : Nat) : Op Nat := do
  let k ← gf (F.AFT_RTIDX_STEP die)
  let g ← gf (F.AFT_RTIDX_GROUP die)
  pure (die * 4096 + k * 16 + g)

/-- A range-table word. -/
def rangeWord (ranges : List (Nat × Nat)) (key : Nat) : Nat := ((ranges.find? (fun x => x.1 = key)).map (·.2)).getD 0

/-- A range table with one word stored. -/
def rangePut (ranges : List (Nat × Nat)) (key w : Nat) : List (Nat × Nat) :=
  let rest := ranges.filter fun x => x.1 ≠ key
  if w = 0 then rest else (rest.filter fun x => x.1 < key) ++ [(key, w)] ++ rest.filter fun x => key < x.1

/-- AFT register writes (R86, R88, R120). A host write of 1 to a bit of AFT_EFAULT that is 0 leaves it 0, since only the module sets
one (DEDUCED, assumption log 83). With AINC, GROUP 15 of STEP 0xFF goes on at GROUP 0 of STEP 0 (DESIGN CHOICE, assumption log 83). -/
def aftWrite (base i a : Nat) (new : Word) : Op Unit :=
  if base = R.AFT_RTDATA 0 then do
    let key ← rangeKey i
    let inc ← bf (F.AFT_RTIDX_AINC i)
    let g ← gf (F.AFT_RTIDX_GROUP i)
    let k ← gf (F.AFT_RTIDX_STEP i)
    modTomo fun s => { s with ranges := rangePut s.ranges key (new.toNat % 65536) }
    onlyIf inc do
      sf (F.AFT_RTIDX_GROUP i) (g + 1)
      onlyIf (g == 15) (sf (F.AFT_RTIDX_STEP i) (k + 1))
  else if base = R.AFT_CTL 0 then do
    let m ← baseMode
    let run ← bf F.TOMO_STAT_RUNNING
    onlyIf ((m == 1 || m == 6) && !run) (wr a new)
  else if base = R.AFT_EFAULT 0 0 then do
    let old ← rd a
    wr a (old &&& new)
  else wr a new

/-- AFT register reads: AFT_RTDATA shows the word that AFT_RTIDX names. The link carries the access before the die gives the value
(R120; assumption log 109). A write reads the register first, so its transfers are these too. -/
def aftRead (base i a : Nat) : Op Word := do
  linkCarries (a % 0x10000 / 0x8000)
  if base = R.AFT_RTDATA 0 then do
    let key ← rangeKey i
    let s ← tomoS
    pure (BitVec.ofNat 32 (rangeWord s.ranges key))
  else rd a

end Sys2Proof.Machine
end

