-- ==== Sys2Proof/Machine/Recon.lean ====
section
/-!
DEFINITION. Machine/Recon.lean: volumetric reconstruction (R121 to R169): matrix and reference files, the rolling reference and its
bounds, the solver, the moisture models, maps, and the REC registers. The arithmetic that R124 puts in binary32 follows the
formulas from left to right, rounding to nearest even (assumption log 4); a quantity whose rounding no rule states is rounded by
a free function of its exact value.
-/
namespace Sys2Proof.Machine

/-- Changes the engine's data. -/
def modRec (f : RecS → RecS) : Op Unit := modU fun u => { u with reco := f u.reco }

/-- The engine's data. -/
def recS : Op RecS := do let u ← units; pure u.reco

/-! ### Matrix file (R125, R126) -/
namespace Mat
def id (m : List Byte) : Nat := leAt m 4 4
def geom (m : List Byte) : Nat := leAt m 8 4
def pairs (m : List Byte) : Nat := leAt m 0xC 4
def vox (m : List Byte) : Nat := leAt m 0x10 4
def exp (m : List Byte) : Int := toSigned 32 (leAt m 0x14 4)
def sig (m : List Byte) : Word := BitVec.ofNat 32 (leAt m 0x18 4)
def lane (m : List Byte) (v : Nat) : Nat := leAt m (0x1000 + 16 * v) 1
def leftOut (m : List Byte) (v : Nat) : Bool := bitAt (leAt m (0x1001 + 16 * v) 1) 0
def depth (m : List Byte) (v : Nat) : Int := toSigned 32 (leAt m (0x1004 + 16 * v) 4)
def vol (m : List Byte) (v : Nat) : Nat := leAt m (0x1008 + 16 * v) 4

/-- M rounded up to a multiple of 64. -/
def rows (m : List Byte) : Nat := (pairs m + 63) / 64 * 64

/-- The entry of pair `p` against voxel `v`. -/
def entry (m : List Byte) (p v : Nat) : Int :=
  let b := v / 32 * (rows m / 64) + p / 64
  toSigned 16 (leAt m (0x1000 + 16 * vox m + 4096 * b + ((p % 64) * 32 + v % 32) * 2) 2)

/-- The length of the whole file. -/
def len (m : List Byte) : Nat := 0x1000 + 16 * vox m + 2 * rows m * vox m

/-- The first stage of R417, on the first 4,096 bytes of a file of `l` bytes: MAT_FORMAT or MAT_SIZE, else OK. -/
def headCheck (m : List Byte) (l : Nat) : Nat :=
  if leAt m 0 4 ≠ 1 ∨ id m = 0 then St.matFormat
  else if vox m % 512 ≠ 0 ∨ vox m < 512 ∨ 65536 < vox m ∨ len m ≠ l then St.matSize
  else St.ok

/-- HCRC matches. -/
def headOk (m : List Byte) : Bool := crc32 (patch (m.take 0x1000) 0x1C (zeros 4)) == leAt m 0x1C 4

/-- DCRC matches. -/
def dataOk (m : List Byte) : Bool := crc32 (m.drop 0x1000) == leAt m 0x20 4
end Mat

/-- Where block `b` lies in DRAM (R130): its stack and its first byte there, for REC_JBASE. -/
def blockPlace (jbase b : Nat) : Nat × Nat := (b % 2, jbase * 4096 + b / 2 * 4096)

/-- The block of a matrix of `n` blocks that holds a byte of a stack (R130). -/
def blockOf (jbase n stack addr : Nat) : Option Nat :=
  let b := 2 * ((addr - jbase * 4096) / 4096) + stack
  if b < n ∧ (blockPlace jbase b).2 ≤ addr ∧ (blockPlace jbase b).1 = stack then some b else none

/-! ### Reference file (R152) -/
namespace Ref
def id (r : List Byte) : Nat := leAt r 4 4
def geom (r : List Byte) : Nat := leAt r 8 4
def pairs (r : List Byte) : Nat := leAt r 0xC 2
def freq (r : List Byte) (t : Nat) : Nat := leAt r (0x10 + 4 * t) 2
def epsf (r : List Byte) (t : Nat) : Nat := leAt r (0x20 + 2 * t) 2
def temp (r : List Byte) (die : Nat) : Int := toSigned 16 (leAt r (0x2C + 2 * die) 2)
/-- (loss, capacitance) of tone `t` in the 32-byte entry at `o`. -/
def pairAt (r : List Byte) (o t : Nat) : Int × Int := (toSigned 32 (leAt r (o + 8 * t) 4), toSigned 32 (leAt r (o + 8 * t + 4) 4))
def base (r : List Byte) (g t : Nat) : Int × Int := pairAt r (0x100 + 32 * g) t
def tcGain (r : List Byte) (u : Nat) : Int := toSigned 32 (leAt r (0x500 + 8 * u) 4)
def tcPhase (r : List Byte) (u : Nat) : Int := toSigned 32 (leAt r (0x504 + 8 * u) 4)
def empty (r : List Byte) (p t : Nat) : Int × Int := pairAt r (0x600 + 32 * p) t
def full (r : List Byte) (p t : Nat) : Int × Int := pairAt r (0x5F600 + 32 * p) t
/-- The capacitance span of R132. -/
def span (r : List Byte) (p t : Nat) : Int := (full r p t).2 - (empty r p t).2
/-- The length of a reference file. -/
def len : Nat := 779776
/-- The checks of a reference file. -/
def check (r : List Byte) : Nat :=
  if r.length ≠ len ∨ leAt r 0 4 ≠ 1 ∨ id r = 0 then St.refFormat
  else if !crcOkAt r 0x30 then St.refCrc
  else St.ok
end Ref

/-! ### Moisture model tables (R148, R151) -/
namespace Model
def crop (m : List Byte) : Nat := leAt m 2 2
def word (m : List Byte) (o : Nat) : Word := BitVec.ofNat 32 (leAt m o 4)
def weights (m : List Byte) (o : Nat) : List Word := (List.range 8).map fun k => word m (o + 4 * k)
def coeffs (m : List Byte) (o : Nat) : List Word := (List.range 15).map fun k => word m (o + 4 * k)

/-- The checks of a model table (R151, R418): FORMAT, CRC, and that no weight and no coefficient is a NaN or an infinity. A table
of FORMAT 0 needs a valid CRC only. -/
def check (m : List Byte) : Nat :=
  if leAt m 0 2 ≠ 0 ∧ leAt m 0 2 ≠ 1 then St.modelFormat
  else if !crcOkAt m 0x1FC then St.modelCrc
  else if leAt m 0 2 = 0 then St.ok
  else if (weights m 0x20 ++ weights m 0x40 ++ weights m 0x60 ++ coeffs m 0x80 ++ coeffs m 0xC0 ++ coeffs m 0x100).any F32.special then
    St.modelValue
  else St.ok

/-- The exponents of the fifteen terms, in the order they are stored. -/
def terms : List (Nat × Nat) :=
  [(0, 0), (1, 0), (0, 1), (2, 0), (1, 1), (0, 2), (3, 0), (2, 1), (1, 2), (0, 3), (4, 0), (3, 1), (2, 2), (1, 3), (0, 4)]

/-- A binary32 power by repeated multiplication. -/
def fpow (a : Word) : Nat → Word
  | 0 => F32.one
  | n + 1 => F32.mul (fpow a n) a

/-- P(a, b) of R148. -/
def poly (c : List Word) (a b : Word) : Word :=
  (c.zip terms).foldl (fun s x => F32.add s (F32.mul (F32.mul x.1 (fpow a x.2.1)) (fpow b x.2.2))) F32.zero

/-- A dot product. -/
def dot (w i : List Word) : Word := (w.zip i).foldl (fun s x => F32.add s (F32.mul x.1 x.2)) F32.zero
end Model

/-- The model table `t`, if it is not empty. -/
def modelAt (s : RecS) (t : Nat) : Option (List Byte) := (s.models.find? (fun x => x.1 = t)).map (·.2)

/-- Stores model table `t` (an empty one is taken out) and shows it in REC_MTLOADL and REC_MTLOADH. -/
def modelStore (t : Nat) (m : List Byte) : Op Unit := do
  let on := decide (leAt m 0 2 ≠ 0)
  modRec fun s => { s with models := (if on then [(t, m)] else []) ++ s.models.filter (fun x => x.1 ≠ t) }
  sbit (if t < 32 then R.REC_MTLOADL else R.REC_MTLOADH) (t % 32) on

/-! ### Settings -/

/-- NITEREFF (R139). -/
def niterEff : Op Nat := do
  let n ← gf F.REC_CTL_NITER
  let cap ← gf F.REC_NITEREFF_THMCAP
  pure (min (max 1 (min 16 n)) cap)

/-- REC_NITEREFF and BUDGETX follow TOMO_FPER, the iterations and the matrix (R139 to R141). -/
def recBudget : Op Unit := do
  let n ← niterEff
  let s ← recS
  let p ← ownPeriod
  let period := p * 10000
  sf F.REC_NITEREFF_NITEREFF n
  match s.mat with
  | none => sb F.REC_STAT_BUDGETX false
  | some m =>
    let t : ℚ := 500000 + n * (4 * (Mat.rows m : ℚ) * Mat.vox m / (147456 / 100) + 40000) + (Mat.vox m : ℚ) * 1000 / 64
    sb F.REC_STAT_BUDGETX (decide ((period : ℚ) < t))

/-- Whether the reference in force fits the matrix (R154). -/
def refFits : Op Unit := do
  let s ← recS
  let ok ← bf F.REC_STAT_MATOK
  sb F.REC_STAT_REFOK (match s.mat, s.ref with
    | some m, some r => ok && decide (Ref.geom r = Mat.geom m ∧ Ref.pairs r = Mat.pairs m)
    | _, _ => false)

/-! ### Drift bound (R160 to R164) -/

/-- The anchor of lane `n`. -/
def anchorOf (n : Nat) : Op (Option Anchor) := do let s ← recS; pure ((s.anchors.getD n none))

/-- Lane `n` has no anchor. -/
def laneUnanchor (n : Nat) : Op Unit := do
  modRec fun s => { s with anchors := setAt s.anchors n none }
  sf (F.REC_LBOUND_BOUND n) 0xFFFF
  sb (F.REC_LSTAT_UNANCH n) true
  sb (F.REC_LSTAT_DRIFT n) false

/-- Lane `n` is anchored now at die temperatures `t0` and `t1`, with bound `base` or REC_ANCHU (R160, R163, R164). -/
def laneAnchor (n : Nat) (t0 t1 : Int) (base : Option Nat) : Op Unit := do
  let t ← now
  let u ← gf F.REC_ANCHU_U
  sf (F.REC_LBOUND_BOUND n) (min 0xFFFE (base.getD u))
  modRec fun s => { s with anchors := setAt s.anchors n (some ⟨t, t0, t1, base⟩) }
  sb (F.REC_LSTAT_UNANCH n) false

/-- B of R161 for an anchor, in 0.001 % w.b., at die temperatures `t0` and `t1` in 0.01 °C. -/
def boundOf (a : Anchor) (t0 t1 : Int) : Op ℚ := do
  let u ← gf F.REC_ANCHU_U
  let r ← gf F.REC_DRIFTR_R
  let k ← gf F.REC_DRIFTT_T
  let b ← gf F.REC_DRIFTB_B
  let e ← gf F.REC_BASERES_RES
  let t ← now
  let dT := max (t0 - a.t0).natAbs (t1 - a.t1).natAbs
  pure ((a.base.getD u : ℚ) + r * ((t - a.since : Nat) : ℚ) / 3600000000000 + k * (dT : ℚ) / 100 + b * (e : ℚ) / 1000)

/-- The value of REC_LBOUND for a bound. -/
def boundShown (b : ℚ) : Nat := if 0xFFFE ≤ b then 0xFFFE else (roundRat b).toNat % 0xFFFF

/-- Lane `n`'s bound at a publication (R161 to R163). -/
def laneBound (t0 t1 : Int) (n : Nat) : Op Unit := do
  let a ← anchorOf n
  match a with
  | none => laneUnanchor n
  | some a => do
    let b ← boundOf a t0 t1
    let mx ← gf F.REC_DRIFTMAX_MAX
    let was ← bf (F.REC_LSTAT_DRIFT n)
    let isOver := decide ((mx : ℚ) < b)
    sf (F.REC_LBOUND_BOUND n) (boundShown b)
    sb (F.REC_LSTAT_DRIFT n) isOver
    onlyIf (isOver && !was) do
      sb (F.REC_LSTAT_DRIFTX n) true
      sb F.REC_STAT_DRIFTX true
      raise Ev.refDrift ([BitVec.ofNat 8 n, 0] ++ leBytes 2 (boundShown b))

/-- The rolling state as it stands (R164). -/
def rollNow : Op RollState := do
  let s ← recS
  let b ← blockOp
  let lanes := List.range 16
  pure ⟨s.refNo, s.base, lanes.map (fun n => (F.REC_LOFFS_OFFS n).of (b.regs.get (R.REC_LOFFS n))), s.anchors,
    lanes.map (fun n => (F.REC_LBOUND_BOUND n).of (b.regs.get (R.REC_LBOUND n)))⟩

/-- The rolling state goes to NV (R164). -/
def rollSave : Op Unit := do
  let st ← rollNow
  let t ← now
  stateSave fun x => { x with roll := some st }
  modRec fun s => { s with rollAt := t }

/-- One lane of the rolling state comes back (R164); an anchor of another reference than the one in force is none (R163). -/
def laneRestore (st : RollState) (n : Nat) : Op Unit := do
  let pu ← gf F.REC_DRIFTPU_PU
  let s ← recS
  sf (F.REC_LOFFS_OFFS n) (st.offs.getD n 0)
  match (if st.refNo = s.refNo then st.anchors.getD n none else none) with
  | none => laneUnanchor n
  | some a => laneAnchor n a.t0 a.t1 (some (st.bounds.getD n 0 + pu))

/-- The anchors of a full capture that was committed and not yet in force before a reset: its reference is in force now, and the
saved rolling state is of one before it (R163). -/
def fullRestore : Op Unit := do
  let u ← units
  let r := u.nv.reference
  match r.file with
  | none => pure ()
  | some d => onlyIf (r.full && decide (r.no = u.reco.refNo) && decide (u.nv.saved.roll.map (·.refNo) ≠ some r.no)) do
    each (fun n => laneAnchor n (Ref.temp d 0) (Ref.temp d 1) none) (List.range 16)
    rollSave

/-- The rolling state comes back from NV; answers whether there was one (R164). -/
def rollRestore : Op Bool := do
  let u ← units
  match u.nv.saved.roll with
  | none => pure ()
  | some st => do
    modRec fun s => { s with base := st.base }
    each (laneRestore st) (List.range 16)
  fullRestore
  pure u.nv.saved.roll.isSome

/-- ROLLING_STATE_SAVE: 10 min after the last save, and not before its restore (R164). -/
def opRollingStateSave : Op Unit := do
  let s ← recS
  let t ← now
  let u ← units
  onlyIf (u.sys.restored && decide (s.rollAt + 600000000000 ≤ t)) rollSave

/-! ### References in force -/

/-- A committed reference takes effect whole (R154), with what it does to the anchors (R163). -/
def refActivate : Op Unit := do
  let s ← recS
  let u ← units
  match s.refNext with
  | none => pure ()
  | some r => do
    modRec fun s => { s with ref := some r, refNo := u.nv.reference.no, refNext := none, refFullCapture := false, forceCold := true }
    wrN R.REC_REFID (Ref.id r)
    if s.refFullCapture then do
      each (fun n => laneAnchor n (Ref.temp r 0) (Ref.temp r 1) none) (List.range 16)
      rollSave
    else each laneUnanchor (List.range 16)
    refFits

/-! ### Rolling reference (R155 to R157) -/

/-- The temperature term of a die and tone. -/
def tempTerm (r : List Byte) (die t : Nat) (temp : Int) : Cplx :=
  let dT := F32.ofRat (temp - Ref.temp r die) 100
  let part (k : Int) : Word := F32.mul (F32.ofRat k 1000000) dT
  ⟨F32.add F32.one (part (Ref.tcGain r (die * 4 + t))), part (Ref.tcPhase r (die * 4 + t))⟩

/-- The phasor of a (loss, capacitance) pair. -/
def phasor (v : Int × Int) : Cplx := ⟨F32.ofInt v.1, F32.ofInt v.2⟩

/-- The bounds of R156: 0.95, 1.05, tan 3°, cos 3°, sin 3° in binary32. -/
def magLow : Word := F32.ofRat 95 100
def magHigh : Word := F32.ofRat 105 100
def tan3 : Word := F32.ofRat 524077792830 10000000000000
def cos3 : Word := F32.ofRat 9986295347545 10000000000000
def sin3 : Word := F32.ofRat 523359562429 10000000000000

/-- A baseline term limited to 5 % in magnitude and 3° in phase, and whether it was (R156). -/
def limitTerm (z : Cplx) : Cplx × Bool :=
  let mag := F32.sqrt (Cplx.norm2 z)
  let mag' := F32.clamp magLow magHigh mag
  let offMag := F32.lt mag magLow || F32.lt magHigh mag
  let offPh := F32.le z.re F32.zero || F32.lt (F32.mul tan3 z.re) (F32.abs z.im)
  if offPh then (⟨F32.mul mag' cos3, F32.mul mag' (if F32.lt z.im F32.zero then F32.neg sin3 else sin3)⟩, true)
  else if offMag then (Cplx.scale (F32.div mag' mag) z, true)
  else (z, false)

/-- The principal square root of a complex value. -/
def Cplx.sqrt (z : Cplx) : Cplx :=
  let r := F32.sqrt (Cplx.norm2 z)
  let half := F32.ofRat 1 2
  let im := F32.sqrt (F32.mul half (F32.sub r z.re))
  ⟨F32.sqrt (F32.mul half (F32.add r z.re)), if F32.lt z.im F32.zero then F32.neg im else im⟩

/-- The baseline pair `g` of a frame, tone `t`. -/
def frameBase (f : FrameRec) (g t : Nat) : Int × Int := (f.base.getD g {}).vals.getD t (0, 0)

/-- One baseline term after a frame (R155, R156). The filter moves by 1 / REC_BLTC of the difference, it goes on from the limited value,
and a guard pair that a burst left without a valid direction enters with the values 0 its record holds (DESIGN CHOICE, assumption log
103). -/
def baseTerm (r : List Byte) (f : FrameRec) (tc : Nat) (old : Cplx) (b t : Nat) : Cplx × Bool :=
  if f.base = [] then (old, false)
  else
    let one (g : Nat) : Cplx := Cplx.div (phasor (frameBase f g t)) (phasor (Ref.base r g t))
    let mean := Cplx.scale (F32.ofRat 1 2) (Cplx.add (one ((b + 31) % 32)) (one b))
    let die := b / 16
    let m := Cplx.div mean (tempTerm r die t (if die = 0 then f.temp0 else f.temp1))
    limitTerm (Cplx.add old (Cplx.scale (F32.ofRat 1 (max 1 tc)) (Cplx.sub m old)))

/-- The factor k of R132 for banks `a` and `b`. -/
def kFactor (kappa : List Cplx) (a b t : Nat) : Cplx := Cplx.sqrt (Cplx.mul (kappa.getD (a * 4 + t) {}) (kappa.getD (b * 4 + t) {}))

/-- The baseline residual of R157 in 0.001 %. For the pair between two banks κ is the geometric mean of theirs, as in R132 (DESIGN
CHOICE, assumption log 103). -/
def baseResidual (r : List Byte) (f : FrameRec) (kappa : List Cplx) : Nat :=
  let tones := (List.range 4).filter fun t => decide (f.plan.amp.getD t 0 ≠ 0)
  let cells := (List.range 32).flatMap fun g => tones.map fun t => (g, t)
  let sum := cells.foldl (fun s x =>
    let q := Cplx.div (phasor (frameBase f x.1 x.2)) (Cplx.mul (kFactor kappa x.1 ((x.1 + 1) % 32) x.2) (phasor (Ref.base r x.1 x.2)))
    F32.add s (Cplx.norm2 (Cplx.sub q {}))) F32.zero
  fitU 16 (roundF (F32.mul (F32.sqrt (F32.div sum (F32.ofInt cells.length))) (F32.ofInt 100000)))

/-! ### Dispatch (R132, R133, R138, R142) -/

/-- The weight of pair `p` of a frame (R133). -/
def pairWeight (l : RecLatch) (r : Option (List Byte)) (f : FrameRec) (p : Nat) : ℚ :=
  let fl := (f.pairs.getD p {}).flags
  let narrow : Bool := match r with
    | none => false
    | some r => (List.range 4).any fun t => decide (f.plan.amp.getD t 0 ≠ 0 ∧ Ref.span r p t < (l.spanMin : Int))
  if fl % 4 = 0 ∨ bitAt fl 4 ∨ bitAt fl 5 ∨ narrow then 0
  else
    let a : ℚ := if fl % 4 = 3 then 1 else (l.wsingle : ℚ) / 256
    let b : ℚ := if bitAt fl 2 then (l.wrecip : ℚ) / 256 else 1
    min a b

/-- The settings latched at a dispatch (R138). -/
def recLatch : Op RecLatch := do
  let b ← blockOp
  let g (f : RF) : Nat := f.of (b.regs.get f.reg)
  let n ← niterEff
  let lanes := List.range 16
  pure { niter := n, alpha := g F.REC_ALPHA_ALPHA, lambda := g F.REC_LAMBDA_LAMBDA, wsingle := g F.REC_WEIGHT_WSINGLE,
         wrecip := g F.REC_WEIGHT_WRECIP, spanMin := g F.REC_SPANMIN_SPAN, missMax := g F.REC_MISSMAX_MAX,
         warm := g F.REC_CTL_WARM != 0, crop := lanes.map (fun n => g (F.REC_LCROP_TABLE n)),
         offs := lanes.map (fun n => toSigned 16 (g (F.REC_LOFFS_OFFS n))), ovrLim := g F.REC_CTL_OVRLIM,
         models := lanes.map fun n => modelAt b.u.reco (g (F.REC_LCROP_TABLE n)) }

/-- The cause for which a frame is skipped (R142): 0 for none. `may` says whether the mode dispatches at all (R341); a frame that meets
a mode that does not is skipped as with RUN 0 (DEDUCED, assumption log 96), and where several rows of R142 apply the first of the
table gives the cause (DESIGN CHOICE, assumption log 96). -/
def skipCause (may : Bool) (b : Block) (l : RecLatch) (f : FrameRec) : Nat :=
  let on (x : RF) : Bool := x.of (b.regs.get x.reg) != 0
  if !may || !on F.REC_CTL_RUN then 0x10
  else if !on F.REC_STAT_MATOK || !on F.REC_STAT_REFOK then 0x11
  else
    match b.u.reco.mat, b.u.reco.ref with
    | some m, some r =>
      if f.geomId ≠ Mat.geom m then 0x12
      else if (List.range 4).any fun t => decide (Ref.freq r t < gap (f.plan.freq.getD t 0) (Ref.freq r t) * 1000) then 0x13
      else if l.missMax < ((List.range f.pairs.length).filter fun p => decide (pairWeight l (some r) f p = 0)).length then 0x14
      else 0
    | _, _ => 0x11

/-- Matrix blocks that gave a poisoned word are copied again from NV (R131). REFOK falls with MATOK, since no reference then fits a
matrix (DEDUCED, assumption log 96). -/
def matReload : Op Unit := do
  let u ← units
  if u.reco.reload = [] then pure ()
  else
    if u.nv.mat.any fun bank => bank.state == 1 && u.reco.mat == some bank.data then modRec fun s => { s with reload := [] }
    else do
      modRec fun s => { s with reload := [] }
      sb F.REC_STAT_MATOK false
      sb F.REC_STAT_REFOK false
      sf F.REC_MATERR_CAUSE 5

/-- The right-hand side of pair `p`, tone `t`, component `c` (0 capacitance, 1 loss), by R132. -/
def rhs (r : List Byte) (f : FrameRec) (kappa : List Cplx) (pairs : List (Nat × Nat)) (t c p : Nat) : Word :=
  let ij := pairs.getD p (0, 0)
  let k := kFactor kappa (ij.1 / 8) (ij.2 / 8) t
  let m := Cplx.div (phasor ((f.pairs.getD p {}).vals.getD t (0, 0))) k
  let e := Ref.empty r p t
  F32.div (F32.sub (if c = 0 then m.im else m.re) (F32.ofInt (if c = 0 then e.2 else e.1))) (F32.ofInt (Ref.span r p t))

/-- A frame is dispatched: the settings are latched, κ, the residual and the right-hand sides are formed (R132, R137, R138, R155 to
R157). A cold start begins the run of 16 COLD maps here, also where its frame is dropped later (DESIGN CHOICE, assumption
log 96), and a frame without a burst leaves REC_BASERES as it is (DESIGN CHOICE, assumption log 103). REC_BASERES and the filtered baseline
terms stay as this dispatch set them also where the frame is dropped later (R157 against R142; DESIGN CHOICE, assumption log 103). -/
def recTake (f : FrameRec) (l : RecLatch) : Op Unit := do
  let s ← recS
  let t ← now
  let mode ← curMode
  let hf ← gf F.SYS_MODE_HFROM
  let g ← tomoS
  let tc ← gf F.REC_BLTC_TC
  let r := s.ref.getD []
  let cells := (List.range 32).flatMap fun b => (List.range 4).map fun k => (b, k)
  let terms := cells.map fun x => baseTerm r f tc (s.base.getD (x.1 * 4 + x.2) {}) x.1 x.2
  let base := terms.map (·.1)
  let kappa := (cells.zip base).map fun x =>
    Cplx.mul (tempTerm r (x.1.1 / 16) x.1.2 (if x.1.1 < 16 then f.temp0 else f.temp1)) x.2
  let basex := terms.any (·.2)
  let res0 ← gf F.REC_BASERES_RES
  let res := if f.base = [] then res0 else baseResidual r f kappa
  let warm := l.warm && !s.forceCold && (match s.last, s.mat with
    | some mp, some m => decide (mp.matId = Mat.id m ∧ mp.refId = Ref.id r ∧ t ≤ mp.pubAt + 1000000000)
    | _, _ => false)
  let pairs := match g.geom with | none => [] | some g => geomPairs g
  let ys := (List.range 8).map fun q => (List.range (Mat.pairs (s.mat.getD []))).map (rhs r f kappa pairs (q / 2) (q % 2))
  sf F.REC_BASERES_RES res
  sb F.REC_STAT_BUSY true
  modRec fun s =>
    { s with base := base, forceCold := false, coldLeft := if warm then s.coldLeft else 16, hand := some { frame := f, latch := l, mode := mode, hfrom := hf, closedAt := f.closedAt, dispatchedAt := t, kappa := kappa, basex := basex, baseRes := res, warmStart := warm, rhs := ys } }

/-! ### Solver (R121 to R123, R134 to R136) -/

/-- A 40-bit accumulator takes a product; the flag keeps that one saturated (R122). -/
def mac (a : Int × Bool) (v : Int) : Int × Bool :=
  let s := a.1 + v
  let c := clampI (-(2 ^ 39)) (2 ^ 39 - 1) s
  (c, a.2 || decide (c ≠ s))

/-- J x for pair `p`: the sixteen tiles' partial sums, added (R123). -/
def forward (m : List Byte) (x : List Int) (p : Nat) : Int × Bool :=
  let w := Mat.vox m / 16
  ((List.range 16).map fun k => (List.range w).foldl (fun a i => mac a (Mat.entry m p (k * w + i) * x.getD (k * w + i) 0)) (0, false)).foldl
    (fun a b => (a.1 + b.1, a.2 || b.2)) (0, false)

/-- Jᵀ r for voxel `v`. -/
def backward (m : List Byte) (r : List Int) (v : Nat) : Int × Bool :=
  (List.range (Mat.pairs m)).foldl (fun a p => mac a (Mat.entry m p v * r.getD p 0)) (0, false)

/-- The exponent that brings the largest residual into 16 bits (R136): the smallest that does. -/
def residualExp (rs : List ℚ) : Int :=
  let mx := rs.foldl (fun a x => max a |x|) 0
  if mx = 0 then 0
  else
    let e0 : Int := (Nat.log2 mx.num.natAbs : Int) - Nat.log2 mx.den - 16
    (((List.range 5).map fun (k : Nat) => e0 + (k : Int)).find? fun e => decide (mx ≤ 32767 * pow2 e)).getD (e0 + 5)

/-- One iteration of R135 for one right-hand side: `y` the right-hand sides, `w` the weights, `a` and `lam` the step and the
regularisation. -/
def iterate (m : List Byte) (y w : List ℚ) (a lam : ℚ) (s : List Int × Bool) : List Int × Bool :=
  let ps := List.range (Mat.pairs m)
  let jx := ps.map (forward m s.1)
  let rs := ps.map fun p => w.getD p 0 * (y.getD p 0 - (jx.getD p (0, false)).1 * pow2 (Mat.exp m - 12))
  let e := residualExp rs
  let rq := rs.map fun r => clampI (-32768) 32767 (roundRat (r / pow2 e))
  let bk := (List.range (Mat.vox m)).map (backward m rq)
  let x := ((s.1.zip bk)).map fun z =>
    let v : ℚ := (z.1 : ℚ) / 4096
    clampI (-2048) 8192 (roundRat ((v + a * ((z.2.1 : ℚ) * pow2 (Mat.exp m + e) - lam * v)) * 4096))
  (x, s.2 || jx.any (·.2) || bk.any (·.2))

/-- `n` iterations. -/
def iterateN (m : List Byte) (y w : List ℚ) (a lam : ℚ) : Nat → List Int × Bool → List Int × Bool
  | 0, s => s
  | n + 1, s => iterateN m y w a lam n (iterate m y w a lam s)

/-- The eight solved vectors of a frame (tone × 2 + component), and whether an accumulator saturated. -/
def solve (m r : List Byte) (h : Hand) (start : List (List Int)) : List (List Int) × Bool :=
  let w := (List.range (Mat.pairs m)).map (pairWeight h.latch (some r) h.frame)
  let sig := F32.rat (Mat.sig m)
  let a : ℚ := (h.latch.alpha : ℚ) / 65536 * 2 / sig
  let lam : ℚ := (h.latch.lambda : ℚ) / 65536 * sig
  let zero := List.replicate (Mat.vox m) (0 : Int)
  let out := (List.range 8).map fun q =>
    if h.frame.plan.amp.getD (q / 2) 0 = 0 then (zero, false)
    else
      let y := (List.range (Mat.pairs m)).map fun p => F32.rat ((h.rhs.getD q []).getD p 0)
      iterateN m y w a lam h.latch.niter (if h.warmStart then start.getD q zero else zero, false)
  (out.map (·.1), out.any (·.2))

/-! ### Models and lane summaries (R147 to R150, R167) -/

/-- A value held in 0.001 of 0 to 65.535, and whether it was clamped. -/
def epsHeld (v : Word) : Nat × Bool :=
  let c := F32.clamp F32.zero (F32.ofRat 65535 1000) v
  (fitU 16 (roundF (F32.mul c (F32.ofInt 1000))), decide (c ≠ v))

/-- The derived values of a voxel: moisture, temperature, density as binary32, with EXTRAP and CLAMP. -/
def modelEval (t : List Byte) (inputs : List Word) (offs : Int) : Word × Word × Word × Bool × Bool :=
  let s := Model.dot (Model.weights t 0x20) inputs
  let tau := Model.dot (Model.weights t 0x40) inputs
  let d := Model.dot (Model.weights t 0x60) inputs
  let temp := Model.poly (Model.coeffs t 0x80) tau s
  let moist := F32.add (Model.poly (Model.coeffs t 0xC0) s temp) (F32.ofRat offs 1000)
  let dens := Model.poly (Model.coeffs t 0x100) d moist
  let out (v : Word) (k : Nat) : Bool := F32.lt v (Model.word t (0x140 + 8 * k)) || F32.lt (Model.word t (0x144 + 8 * k)) v
  let m' := F32.clamp F32.zero (F32.ofInt 60) moist
  let t' := F32.clamp (F32.ofInt (-40)) (F32.ofInt 120) temp
  let d' := F32.clamp F32.zero (F32.ofInt 1500) dens
  (m', t', d', out s 0 || out tau 1 || out d 2, decide (m' ≠ moist ∨ t' ≠ temp ∨ d' ≠ dens))

/-- A voxel with what its lane mean needs: the record, and the derived values in binary32 where there are any. -/
structure VoxOut where
  vox : Vox
  derived : Option (Word × Word × Word)

/-- Voxel `v` of a map (R147 to R150): `dr` and `un` are the lanes in drift and unanchored. -/
def voxelOut (m r : List Byte) (h : Hand) (x : List (List Int)) (sat : Bool) (dr un : List Nat) (v : Nat) : VoxOut :=
  let lane := Mat.lane m v
  let eps (q : Nat) : Word :=
    if h.frame.plan.amp.getD (q / 2) 0 = 0 then F32.zero
    else
      let f := F32.sub (F32.ofRat (Ref.epsf r (q / 2)) 1000) F32.one
      let p := F32.mul (F32.ofRat ((x.getD q []).getD v 0) 4096) f
      if q % 2 = 0 then F32.add F32.one p else p
  let held := (List.range 8).map fun q => epsHeld (eps q)
  let es := (List.range 4).map fun t => ((held.getD (2 * t) (0, false)).1, (held.getD (2 * t + 1) (0, false)).1)
  let ecl := held.any (·.2)
  let common := 8 * bit (decide (lane ∈ dr)) + 16 * bit (decide (lane ∈ un)) + 32 * bit sat
  match h.latch.models.getD lane none with
  | none => ⟨{ eps := es, flags := 2 * bit ecl + 4 + common }, none⟩
  | some t =>
    let o := modelEval t ((List.range 8).map eps) (h.latch.offs.getD lane 0)
    let hold (k : Nat) (w : Word) : Int := roundF (F32.mul w (F32.ofInt k))
    ⟨{ eps := es, moist := fitU 16 (hold 100 o.1), temp := fitS 16 (hold 100 o.2.1), dens := fitU 16 (hold 10 o.2.2.1),
       flags := bit o.2.2.2.1 + 2 * bit (ecl || o.2.2.2.2) + common },
     some (o.1, o.2.1, o.2.2.1)⟩

/-- A volume-weighted mean in binary32 (R124), over voxels in ascending order: the sum of volume × value, divided by the sum of the
volumes. -/
def volMean (l : List (Nat × Word)) : Word :=
  F32.div (l.foldl (fun a x => F32.add a (F32.mul (F32.ofInt x.1) x.2)) F32.zero) (l.foldl (fun a x => F32.add a (F32.ofInt x.1)) F32.zero)

/-- Lane `n`'s summary. -/
def laneSummary (m : List Byte) (h : Hand) (vs : List (VoxOut × Nat)) (bound : Nat) (dr un : List Nat) (n : Nat) : LaneSum :=
  let mine := vs.filter fun x => decide (Mat.lane m x.2 = n) && x.1.derived.isSome
  let mean := mine.filter fun x => !Mat.leftOut m x.2
  let avg (g : Word × Word × Word → Word) (k : Int) : Int :=
    roundF (F32.mul (volMean (mean.map fun x => (Mat.vol m x.2, g (x.1.derived.getD (0, 0, 0))))) (F32.ofInt k))
  let ms := mine.map fun x => x.1.vox.moist
  let tab := h.latch.crop.getD n 0
  let fl := bit (decide (n ∈ dr)) + 2 * bit (decide (n ∈ un)) + 4 * bit (h.latch.models.getD n none).isNone
  { nvox := mine.length,
    mmean := if mean = [] then 0xFFFF else fitU 16 (avg (·.1) 100),
    mmin := match ms with | [] => 0xFFFF | a :: l => l.foldl min a,
    mmax := match ms with | [] => 0xFFFF | a :: l => l.foldl max a,
    tmean := if mean = [] then 0x8000 else fitS 16 (avg (·.2.1) 100),
    dmean := if mean = [] then 0xFFFF else fitU 16 (avg (·.2.2) 10),
    bound := bound, offset := ofSigned 16 (h.latch.offs.getD n 0), lflag := fl, table := tab }

/-- Where slot `k` of the map ring lies in DRAM (R166), for REC_MAPBASE. -/
def mapPlace (mapbase k : Nat) : Nat := mapbase * 4096 + k * 2097152

/-- The map of the frame in hand, from the registers as they stand after the bounds of this publication, for slot `k`. -/
def mapOf (b : Block) (h : Hand) (mseq k : Nat) : MapRec :=
  let s := b.u.reco
  let m := s.mat.getD []
  let r := s.ref.getD []
  let x := solve m r h (match s.last with | none => [] | some p => p.x)
  let lanes := List.range 16
  let on (f : RF) : Bool := f.of (b.regs.get f.reg) != 0
  let dr := lanes.filter fun n => on (F.REC_LSTAT_DRIFT n)
  let un := lanes.filter fun n => on (F.REC_LSTAT_UNANCH n)
  let vs := (List.range (Mat.vox m)).map fun v => (voxelOut m r h x.1 x.2 dr un v, v)
  let ff := h.frame.fflags
  { mflags := bit (decide (0 < s.coldLeft)) + 2 * bit (bitAt ff 1) + 4 * bit h.basex + 8 * bit x.2 + 16 * bit (decide (bits ff 11 8 ≠ 0)) +
      32 * bit (bitAt ff 0) + 64 * bit (decide (dr ≠ [])) + 128 * bit (decide (un ≠ [])),
    mseq := mseq, mseqEnd := mseq, place := mapPlace (F.REC_MAPBASE_BASE.of (b.regs.get R.REC_MAPBASE)) k, hfrom := h.hfrom, fseq := h.frame.fseq, wt := h.frame.stamp.wall, wtpub := b.u.wall, matId := Mat.id m, refId := Ref.id r,
    niter := h.latch.niter, mode := h.mode, alpha := h.latch.alpha, lambda := h.latch.lambda, leads := h.frame.stamp.lead,
    temp0 := h.frame.temp0, temp1 := h.frame.temp1, baseRes := h.baseRes,
    lanes := lanes.map fun n => laneSummary m h vs ((F.REC_LBOUND_BOUND n).of (b.regs.get (R.REC_LBOUND n))) dr un n,
    vox := vs.map (fun z => z.1.vox), x := x.1, stampFlags := h.frame.stamp.flags, pubAt := b.u.elapsed }

/-- REC_FTIME of a frame that ends now (R169). -/
def frameTime (closedAt : Nat) : Op Unit := do
  let t ← now
  let us := min 0xFFFF ((t - closedAt) / 1000)
  let peak ← gf F.REC_FTIME_PEAK
  sf F.REC_FTIME_LAST us
  sf F.REC_FTIME_PEAK (max peak us)

/-- The frame in hand is published as a map (R142, R161 to R163, R166): the bounds, the map, its slot. Answers the map. -/
def recPublish : Op (Option MapRec) := do
  let s ← recS
  match s.hand with
  | none => pure none
  | some h => do
    each (laneBound h.frame.temp0 h.frame.temp1) (List.range 16)
    let q ← rd64 R.REC_MSEQL R.REC_MSEQH
    let q := (q + 1) % 2 ^ 64
    wr64 R.REC_MSEQL R.REC_MSEQH q
    let b ← blockOp
    let slot := s.nextSlot
    let mp := mapOf b h q slot
    onlyIf h.basex (sb F.REC_STAT_BASEX true)
    onlyIf (bitAt mp.mflags 3) do
      sb F.REC_STAT_SAT true
      cntSat F.REC_SATCNT_CNT 1
    sf F.REC_LASTMAP_SLOT slot
    sb F.REC_STAT_PUB true
    sb F.REC_STAT_BUSY false
    frameTime h.closedAt
    let it ← free
    sf F.REC_ITIME_LAST it
    modRec fun s =>
      { s with hand := none, last := some mp, nextSlot := (slot + 1) % 16, ring := (slot, mp) :: s.ring.filter (fun x => x.1 ≠ slot), coldLeft := s.coldLeft - 1, drops := 0 }
    pure (some mp)

/-- The mode FLOW with SYS_HOLDCFG.OVRRUN makes an overrun run a HOLD cause (R335). -/
def overrunCause : Op Unit := do
  let m ← curMode
  let c ← bf F.SYS_HOLDCFG_OVRRUN
  onlyIf (m == modeFlow && c) (assertCause 7)

/-- A frame is dropped (R142, R145): `poison` for a poisoned word, else the deadline; `lim` is OVRLIM as it was latched (R138). -/
def recDrop (f : FrameRec) (poison : Bool) (lim : Nat) : Op Unit := do
  cntSat F.REC_OVRCNT_CNT 1
  cntSat F.THM_DROPCNT_CNT 1
  sb F.REC_STAT_OVERRUN true
  sb F.REC_STAT_BUSY false
  frameTime f.closedAt
  onlyIf (!poison) (raise Ev.recOverrun (leBytes 8 f.fseq))
  modRec fun s => { s with hand := none, drops := s.drops + 1 }
  let s ← recS
  onlyIf (decide (lim ≠ 0 ∧ lim ≤ s.drops)) do
    modRec fun s => { s with drops := 0 }
    raise Ev.recOverrunRun (leBytes 8 f.fseq)
    thermalDemand
    overrunCause

/-- A frame is skipped (R142). It is no drop, and it does not break a run of consecutive drops either (DESIGN CHOICE, assumption log
96). -/
def recSkip (cause : Nat) : Op Unit := do
  cntSat F.REC_SKIPCNT_CNT 1
  onlyIf (cause != 0x10) (sb F.REC_STAT_SKIP true)

/-! ### Captures (R153, R419) -/

/-- One frame's share of a capture. PLAN, TEMP0 and TEMP1 are those of the last frame averaged (DESIGN CHOICE, assumption log 96). -/
def captureAdd (c : Capture) (l : RecLatch) (r : Option (List Byte)) (f : FrameRec) : Capture :=
  let add (a b : List (Int × Int)) : List (Int × Int) := (List.range 4).map fun t =>
    ((a.getD t (0, 0)).1 + (b.getD t (0, 0)).1, (a.getD t (0, 0)).2 + (b.getD t (0, 0)).2)
  { c with
    left := c.left - 1, taken := c.taken + 1, baseTaken := c.baseTaken + bit (f.base ≠ []), plan := f.plan, temp0 := f.temp0, temp1 := f.temp1,
    sums := (List.range f.pairs.length).map fun p =>
      let o := c.sums.getD p (0, [])
      if pairWeight l r f p = 1 then (o.1 + 1, add o.2 (f.pairs.getD p {}).vals) else o,
    baseSums := if f.base = [] then c.baseSums else (List.range 32).map fun g => add (c.baseSums.getD g []) (f.base.getD g {}).vals }

/-- A frame record reaches a capture under way, in CALIBRATE or SERVICE only (R153), from the next frame after its command (R419). In
SERVICE it goes through the captures' staging (R567 level 1); whether it fills that the spec does not say, and the average does not
depend on it (assumption log 111). -/
def captureFrame (f : FrameRec) : Op Unit := do
  let s ← recS
  let m ← curMode
  match s.capture with
  | none => pure ()
  | some c =>
    onlyIf (decide (0 < c.left ∧ c.after < f.fseq) && (m == modeCalibrate || m == modeService)) do
      let l ← recLatch
      modRec fun s => { s with capture := some (captureAdd c l s.ref f) }
      onlyIf (m == modeService) do
        let k ← free
        onlyIf (k % 2 == 1) stagingFull

/-- CAPTURE_AVERAGED: the frames of a capture are averaged, and REF_CAPTURED is raised (R153, R419). -/
def opCaptureAveraged : Op Unit := do
  let s ← recS
  match s.capture with
  | none => pure ()
  | some c =>
    onlyIf (decide (c.left = 0) && !c.done) do
      modRec fun s => { s with capture := some { c with done := true } }
      raise Ev.refCaptured ([if c.full then 1 else 0, 0] ++ leBytes 2 c.taken)

/-- The 32 bytes of averaged pair values: the spec states no rounding. -/
def meanBytes (n : Nat) (v : List (Int × Int)) : List Byte :=
  (List.range 4).flatMap fun t =>
    leBytes 4 (fitS 32 (quot (v.getD t (0, 0)).1 n)) ++ leBytes 4 (fitS 32 (quot (v.getD t (0, 0)).2 n))

/-- The reference that a capture makes from the one in force or from zeros (R153, R419), and the pairs it left unchanged. B0 is the mean
over the frames that had a burst (DEDUCED, assumption log 96). -/
def captureRef (c : Capture) (old : Option (List Byte)) (geomId : Nat) : List Byte × Nat :=
  let r0 := old.getD (zeros Ref.len)
  let p0 := if c.full then 0x5F600 else 0x600
  let r1 := patch r0 0 (leBytes 4 1 ++ leBytes 4 c.refId ++ leBytes 4 geomId ++ leBytes 2 c.sums.length ++ zeros 2 ++
    (List.range 4).flatMap fun t => leBytes 4 (c.plan.freq.getD t 0 + c.plan.amp.getD t 0 * 65536))
  let r2 := if c.full then patch r1 0x20 ((List.range 4).flatMap (fun t => leBytes 2 (c.epsf.getD t 0)) ++ leBytes 2 c.mref ++ leBytes 2 c.tref) else r1
  let r3 := patch r2 0x2C (leBytes 2 (ofSigned 16 c.temp0) ++ leBytes 2 (ofSigned 16 c.temp1))
  let r4 := if c.baseSums = [] then r3 else patch r3 0x100 (c.baseSums.flatMap (meanBytes c.baseTaken))
  let r5 := patch r4 p0 ((List.range c.sums.length).flatMap fun p =>
    let x := c.sums.getD p (0, [])
    if x.1 = 0 then slice r4 (p0 + 32 * p) 32 else meanBytes x.1 x.2)
  let r6 := patch r5 0x30 (zeros 4)
  (patch r6 0x30 (leBytes 4 (crc32 r6)), (c.sums.filter fun x => x.1 = 0).length)

/-- A capture under way is abandoned by a mode change (R419). -/
def captureAbandon : Op Unit := modRec fun s => { s with capture := none }

/-! ### Matrix copy (R128, R129) -/

/-- No matrix is in DRAM: REC_MATID and REC_NVOX show none, and MATOK, REFOK and BUDGETX follow (R129, R141, R169). -/
def matNone : Op Unit := do
  modRec fun s => { s with mat := none, reload := [] }
  sb F.REC_STAT_MATOK false
  wrN R.REC_MATID 0
  sf F.REC_NVOX_N 0
  refFits
  recBudget

/-- The copy of matrix bank `k` ends: refused with the cause in REC_MATERR, or in DRAM. Answers whether it holds. Where several
checks of R129 fail together the cause is the first of unreadable, GEOMID, M and DCRC (DESIGN CHOICE, assumption log 96). -/
def matCopy (k : Nat) : Op Bool := do
  let u ← units
  let gid ← rd R.TOMO_GEOMID
  let np ← gf F.TOMO_NPAIR_NPAIR
  let bank := u.nv.mat.getD k {}
  let m := bank.data
  let err := if bank.state ≠ 1 then 4
    else if Mat.geom m ≠ gid.toNat then 1
    else if Mat.pairs m ≠ np then 2
    else if !Mat.dataOk m then 3
    else 0
  if err = 0 then do
    modRec fun s => { s with mat := some m, reload := [] }
    sb F.REC_STAT_MATOK true
    wrN R.REC_MATID (Mat.id m)
    sf F.REC_NVOX_N (Mat.vox m)
    refFits
    recBudget
    pure true
  else do
    sf F.REC_MATERR_CAUSE err
    matNone
    pure false

/-- MATRIX_COPY_DONE: the copy that CALIBRATE started ends (R128, R129, R346). -/
def opMatrixCopyDone : Op Unit := do
  let u ← units
  match u.sys.cal with
  | none => pure ()
  | some j =>
    onlyIf j.matrix do
      let ok ← matCopy j.bank
      let refok ← bf F.REC_STAT_REFOK
      let st := j.stat ||| (if ok then 0 else 8) ||| (if refok then 0 else 16)
      modU fun u => { u with sys := { u.sys with cal := some { j with matrix := false, stat := st } } }

/-! ### Maps as bytes (R167) -/

/-- A lane summary's 32 bytes. -/
def laneBytes (l : LaneSum) : List Byte :=
  padTo 32 (leBytes 4 l.nvox ++ leBytes 2 l.mmean ++ leBytes 2 l.mmin ++ leBytes 2 l.mmax ++ leBytes 2 l.tmean ++ leBytes 2 l.dmean ++
    leBytes 2 l.bound ++ leBytes 2 l.offset ++ leBytes 2 l.lflag ++ leBytes 1 l.table)

/-- Bytes 0x000 to 0x3FF of a map. -/
def mapHead (p : MapRec) : List Byte :=
  padTo 0x200 (leBytes 4 1 ++ leBytes 4 p.mflags ++ leBytes 8 p.mseq ++ leBytes 8 p.fseq ++ leBytes 8 p.wt ++ leBytes 8 p.wtpub ++
    leBytes 4 p.matId ++ leBytes 4 p.refId ++ leBytes 4 p.vox.length ++ leBytes 1 p.niter ++ leBytes 1 p.mode ++ zeros 2 ++
    leBytes 2 p.alpha ++ leBytes 2 p.lambda ++ zeros 4 ++ (List.range 16).flatMap (fun n => le64 (p.leads.getD n 0)) ++
    leBytes 2 (ofSigned 16 p.temp0) ++ leBytes 2 (ofSigned 16 p.temp1) ++ leBytes 2 p.baseRes) ++
  p.lanes.flatMap laneBytes

/-- The fields of a voxel record in their order (R167): EPSR and EPSI of each tone, then MOIST, TEMP, DENS and VFLAG. -/
def voxAll (v : Vox) : List Nat :=
  (List.range 4).flatMap (fun t => [(v.eps.getD t (0, 0)).1, (v.eps.getD t (0, 0)).2]) ++ [v.moist, v.temp, v.dens, v.flags]

/-- A map as it stands in its slot (R167): header and lane summaries, the voxel records from 0x1000, and MSEQEND after them. -/
def mapBytes (p : MapRec) : List Byte :=
  padTo 0x1000 (mapHead p) ++ p.vox.flatMap (fun v => (voxAll v).flatMap (leBytes 2)) ++ leBytes 8 p.mseqEnd

/-- The mask bit of each field of a voxel record, in the record's order (R421): EPSR and EPSI of each tone, MOIST, TEMP, DENS, VFLAG. -/
def voxBits : List Nat := [0, 4, 1, 5, 2, 6, 3, 7, 8, 9, 10, 11]

/-- The fields of a voxel that a mask selects (R421), packed in the order of the record. -/
def voxFields (mask : Nat) (v : Vox) : List Byte :=
  (((voxAll v).zip voxBits).filter fun x => bitAt mask x.2).flatMap fun x => leBytes 2 x.1

/-! ### Register accesses -/

/-- REC register writes. -/
def recWrite (base a : Nat) (new : Word) : Op Unit := do
  wr a new
  onlyIf (base == R.REC_CTL) recBudget

/-- TOMO register writes with what they change in the frame budget: FPER, and BLEN for its minimum (R141). -/
def frontWrite (base a : Nat) (new acts : Word) : Op Unit := do
  tomoWrite base a new acts
  onlyIf (base == R.TOMO_FPER || base == R.TOMO_CTL) recBudget

end Sys2Proof.Machine
end

