-- ==== Sys2Proof/Machine/Ledger.lean ====
section
/-!
DEFINITION. Machine/Ledger.lean: the Parcel Ledger and the Residence Planner (R170 to R203): cuts, sightings, gaps, locks, field
requests, planning, checkpoints and their restore.
-/
namespace Sys2Proof.Machine

/-- The Ledger's data. -/
def pclS : Op PclS := do let u ← units; pure u.pcl

/-- Changes the Ledger's lane `n`. -/
def modLedgerLane (n : Nat) (f : LaneLedger → LaneLedger) : Op Unit := modPcl fun p => { p with lanes := updAt p.lanes n f }

/-- PCL_INTERVAL as it acts (R172, R203). -/
def intervalOf : Op Nat := do let i ← gf F.PCL_INTERVAL_INT; pure (max 100 i)

/-- Whether parcels are cut in lane `n` now (R170). -/
def laneCuts (n : Nat) : Op Bool := do
  let run ← bf F.PCL_CTL_RUN
  let f ← factorOf n
  let len ← gf (F.PCL_LLEN_LLEN n)
  let m ← baseMode
  pure (run && decide (f ≠ 0) && decide (len ≠ 0) && m == modeFlow)

/-- The first lead position at which boundary `k` from `origin` is reached (R50): `itv` in 10 µm, `f` in 1/65,536 µm. -/
def boundaryAt (origin : Int) (k itv f : Nat) : Int := origin + ((k * itv * 655360 + f - 1) / f : Nat)

/-- Arms lane `n`'s alarm slot at `p`, in the order of R58; a firing of its old boundary that RT1 has not served is done with. -/
def laneArm (n : Nat) (p : Int) : Op Unit := do
  let w := ofSigned 48 p
  let ctl ← rd (R.ENC_ACTL n)
  alarmControl n ((F.ENC_ACTL_ARM n).put ctl 0)
  modEnc fun e => { e with fired := e.fired.filter (fun x => x.1 ≠ n) }
  sf (F.ENC_ACMP0_CMP n) w
  sf (F.ENC_ACMP1_CMP n) (w / 2 ^ 16)
  sf (F.ENC_ACMP2_CMP n) (w / 2 ^ 32)
  alarmControl n ((F.ENC_ACTL_ARM n).put ((F.ENC_ACTL_SRC n).put ((F.ENC_ACTL_FB n).put ctl 0) n) 1)

/-- A new parcel record (R171, R178, R179). -/
def parcelNew (pid lane : Nat) (p : Int) (w lot flags : Nat) : List Byte :=
  let r := leBytes 4 pid ++ leBytes 1 lane ++ leBytes 1 1 ++ leBytes 2 flags ++ le64 p ++ zeros 8 ++ leBytes 8 w ++ leBytes 2 lot ++
    zeros 2 ++ zeros 4 ++ zeros 2 ++ leBytes 2 0xFFFF ++ leBytes 2 0x8000 ++ leBytes 2 0xFFFF ++ zeros 2 ++ leBytes 2 0xFFFF ++
    leBytes 2 0xFFFF ++ zeros 2 ++ zeros 8
  r ++ (List.range 8).flatMap fun _ => leBytes 2 0xFFFF ++ leBytes 2 0x8000 ++ zeros 4

/-- Opens a parcel in lane `n` at `p` with its lot (R171, R178, R186). The spec does not say from which WSEQ a record starts. -/
def parcelOpen (n : Nat) (p : Int) : Op Unit := do
  let nx ← rd R.PCL_PIDNEXT
  let pid := if nx = 0 then 1 else nx.toNat
  let l ← gf (F.PCL_LLOT_LOT n)
  let lr ← lotAt l
  let isOpen := match lr with | some r => Lf.state.of r == 1 | none => false
  let est ← bf (F.ENC_LSTAT_ESTIM n)
  let w ← wallTime
  wrN R.PCL_PIDNEXT (if (pid + 1) % 2 ^ 32 = 0 then 1 else pid + 1)
  let r := parcelNew pid n p w (if isOpen then l else 0xFFFF) (if est then pfEstim else 0)
  let c ← free
  modPcl fun q => { q with parcels := q.parcels ++ [Pf.wseq.put r c] }
  onlyIf isOpen (modLot l fun r => lotTouch (Lf.nlive.put (Lf.nparcel.put r (Lf.nparcel.of r + 1)) (Lf.nlive.of r + 1)))

/-- Whether a record is lane `n`'s filling parcel. -/
def fillingIn (n : Nat) (r : List Byte) : Bool := Pf.state.of r == 1 && Pf.lane.of r == n

/-- The next boundary of lane `n` is computed and armed from the factor and interval of this cut (R50, R51, R172). -/
def laneNext (n : Nat) (p : Int) (f itv : Nat) (entry : Bool) : Op Unit := do
  let s ← pclS
  let l := s.lanes.getD n {}
  let anew := entry || decide (l.factor ≠ f) || decide (l.interval ≠ itv)
  let origin := if anew then p else l.origin
  let k := if anew then 0 else l.k + 1
  modLedgerLane n fun l => { l with origin := origin, k := k, factor := f, interval := itv, cutting := true }
  laneArm n (boundaryAt origin (k + 1) itv f)

/-- Closes lane `n`'s filling parcel at `p` (R171); one closed by an entry cut and longer than 1.5 intervals is merged (R173). -/
def parcelClose (n : Nat) (p : Int) (f itv : Nat) (entry : Bool) : Op Unit := do
  let rs ← parcels
  let long (r : List Byte) : Bool := entry && decide ((itv : Int) * 655360 * 3 < (p - Pf.lo.int r) * f * 2)
  onlyIf ((rs.filter (fillingIn n)).any long) (sb F.PCL_STAT_MERGE true)
  modParcels (fillingIn n) fun r =>
    parcelTouch (Pf.state.put (Pf.hi.putI (if long r then Pf.flags.put r (Pf.flags.of r ||| pfMerged) else r) p) 2)

/-- A cut of lane `n` at lead position `p` (R50, R51, R171 to R176). -/
def cutLane (n : Nat) (p : Int) (entry : Bool) : Op Unit := do
  let f ← factorOf n
  let itv ← intervalOf
  let rs ← parcels
  if 65536 ≤ rs.length then do
    modParcels (fillingIn n) (parcelMark pfMerged)
    sb F.PCL_STAT_MERGE true
    cntSat F.PCL_FULLCNT_CNT 1
  else do
    parcelClose n p f itv entry
    parcelOpen n p
  laneNext n p f itv entry
  retireLane n
  ledgerCounts

/-- The cut of lane `n` when its alarm slot fired: at the boundary the slot was armed with, which the lead position has reached
(R50, R60, R61). -/
def alarmCut (n : Nat) : Op Unit := do
  let ok ← laneCuts n
  let p ← alarmCompare n
  let lead ← leadOf n
  if ok then onlyIf (decide (p ≤ lead)) (cutLane n p false) else modLedgerLane n fun l => { l with cutting := false }

/-- The entry cut of FLOW (R173). -/
def entryCut (n : Nat) : Op Unit := do
  let ok ← laneCuts n
  let p ← leadOf n
  onlyIf ok (cutLane n p true)

/-- A lane that may be cut and is not being cut starts with a cut of its own (assumption log 24), once its counter is not below its
lead position (R62). -/
def lateCut (n : Nat) : Op Unit := do
  let ok ← laneCuts n
  let s ← pclS
  let p ← posOf n
  let lead ← leadOf n
  if ok then onlyIf (!(s.lanes.getD n {}).cutting && decide (lead ≤ p)) (entryCut n)
  else modLedgerLane n fun l => { l with cutting := false }

/-- ALARM_SERVICE: RT1 services the fired slots by the sample they fired in, ascending within one (R55). -/
def opAlarmService : Op Unit := onCore 5 do
  let u ← units
  modEnc fun e => { e with fired := [] }
  each (fun (x : Nat × Nat) => onlyIf (decide (x.1 < 16)) (alarmCut x.1)) u.enc.fired

/-- Records that were retired under a lock and are free of it go to the archive (R191). -/
def retiredSettle : Op Unit := do
  let u ← units
  let l := u.pcl.parcels.filter fun r => Pf.state.of r == 3 && !recordHeld u true (Pf.pid.of r)
  onlyIf (decide (l ≠ [])) do
    each parcelArchive l
    ledgerCounts

/-- The locks of field operations that are over end, and what they held back is settled (R189, R191). -/
def fieldLocksEnd : Op Unit := do
  let u ← units
  onlyIf (u.pcl.fieldLocks.any fun l => decide (l.expires < u.elapsed)) do
    modPcl fun q => { q with fieldLocks := q.fieldLocks.filter fun l => decide (u.elapsed ≤ l.expires) }
    retiredSettle

/-- A session record closes (R373) and what its locks held back is settled. -/
def sessionClose (runsOn : OutTag → Bool) (i : Nat) : Op Unit := do
  closeSess runsOn i
  retiredSettle

/-- LEDGER_RETIRE_TICK: at least every 100 ms (R175): lanes that became eligible are cut, and parcels that reached the
discharge retire. -/
def opLedgerRetireTick : Op Unit := do
  each lateCut (List.range 16)
  retireAll
  retiredSettle

/-! ### Sightings (R182 to R184) -/

/-- The depth of voxel `v` below the inlet, in 1/65,536 µm (R174). -/
def voxDepth (m : List Byte) (len : Int) (v : Nat) : Int := len - Mat.depth m v * 65536

/-- The voxels of lane `n` between a parcel's faces at lead position `p`, with derived values and not left out (R183). -/
def voxelsOf (m : List Byte) (derived : Nat → Bool) (n : Nat) (r : List Byte) (p : Int) (f : Nat) (len : Int) : List Nat :=
  (List.range (Mat.vox m)).filter fun v =>
    decide (Mat.lane m v = n) && derived v && !Mat.leftOut m v &&
      decide (upperFace r p f ≤ voxDepth m len v ∧ voxDepth m len v < lowerFace r p f)

/-- A running mean with one more value (R180): the spec states no rounding. -/
def runningMean (old : Int) (n : Nat) (x : Int) : Int := quot (old * n + x) (n + 1)

/-- Folds a sighting into checkpoint `c` (R180, R184). -/
def checkpointFold (c m : Nat) (t : Int) (fl : Nat) (r : List Byte) : List Byte :=
  let n := (Pf.cpN c).of r
  let m' := if n = 0 then (m : Int) else runningMean ((Pf.cpM c).of r) n m
  let t' := if n = 0 then t else runningMean ((Pf.cpT c).int r) n t
  let r := (Pf.cpM c).put r (fitU 16 m')
  let r := (Pf.cpT c).put r (fitS 16 t')
  let r := (Pf.cpN c).put r (min 0xFFFF (n + 1))
  (Pf.cpF c).put r ((Pf.cpF c).of r ||| fl)

/-- What one map does to one parcel it sights (R183, R184); `vs` are the voxels, `lotTable` its lot's TABLE. -/
def sightParcel (m : List Byte) (mp : MapRec) (hold : Bool) (p : Int) (f : Nat) (len : Int) (lotTable : Option Nat) (vs : List Nat)
    (r : List Byte) : List Byte :=
  let n := Pf.lane.of r
  let ls := mp.lanes.getD n {}
  let x (v : Nat) : Vox := mp.vox.getD v {}
  let vol : Int := (vs.map fun v => (Mat.vol m v : Int)).foldl (· + ·) 0
  let avg (g : Vox → Int) : Int := quot ((vs.map fun v => (Mat.vol m v : Int) * g (x v)).foldl (· + ·) 0) vol
  let ml := fitU 16 (avg fun v => v.moist)
  let tl := fitS 16 (avg fun v => toSigned 16 v.temp)
  let dl := fitU 16 (avg fun v => v.dens)
  let ex := vs.any fun v => bitAt (x v).flags 0
  let dr := bitAt ls.lflag 0
  let un := bitAt ls.lflag 1
  let es := bitAt (mp.stampFlags.getD n 0) 0
  let mix := match lotTable with | some t => decide (t ≠ ls.table) | none => false
  let pf := (if ex then pfExtrap else 0) + (if dr then pfDrift else 0) + (if un then pfUnanchored else 0) + (if es then pfEstim else 0) +
    (if mix then pfMixed else 0)
  let cf := 2 * bit es + 4 * bit ex + 8 * bit dr + 16 * bit (bitAt mp.mflags 0) + 32 * bit hold
  let r := Pf.mlast.put r ml
  let r := Pf.tlast.put r tl
  let r := Pf.dlast.put r dl
  let r := Pf.table.put r ls.table
  let r := Pf.offs.put r ls.offset
  let r := match segmentOf r p f len with
    | some c => checkpointFold c ml (toSigned 16 tl) cf r
    | none => r
  let r := Pf.nsight.put r (satAdd 0xFFFFFFFF (Pf.nsight.of r) 1)
  parcelTouch (Pf.flags.put r (Pf.flags.of r ||| pf))

/-- Whether a map or a frame of a mode, with HFROM `h`, counts for the Ledger: FLOW, or HOLD entered from FLOW (R182, R185). -/
def ledgerMode (mode h : Nat) : Bool := mode == modeFlow || (mode == modeHold && h == modeFlow)

/-- The TABLE of lot `i`. -/
def lotTableOf (i : Nat) : Op (Option Nat) := do
  let l ← lotAt i
  pure (l.map Lf.table.of)

/-- One parcel meets a published map. -/
def sightOne (mp : MapRec) (hold : Bool) (r : List Byte) : Op Unit := do
  let s ← recS
  let n := Pf.lane.of r
  let f ← factorOf n
  let len ← laneLen n
  let p := mp.leads.getD n 0
  let m := s.mat.getD []
  let vs := voxelsOf m (fun v => !bitAt (mp.vox.getD v {}).flags 2) n r p f len
  let lt ← lotTableOf (Pf.lot.of r)
  onlyIf (decide (vs ≠ [])) do
    modParcels (fun x => Pf.pid.of x == Pf.pid.of r) (sightParcel m mp hold p f len lt vs)
    modPcl fun q => { q with planMap := q.planMap.map fun z => (z.1, z.2 ++ [Pf.pid.of r]) }

/-- A published map reaches the Ledger: sightings, the retirement test, and the planner's latest usable map (R175, R182, R195). -/
def ledgerMap (mp : MapRec) : Op Unit := do
  let ok := ledgerMode mp.mode mp.hfrom
  let run ← bf F.PCL_CTL_RUN
  let t ← now
  let usable := mp.mode == modeFlow && !bitAt mp.mflags 0
  modPcl fun q => { q with mapsSince := q.mapsSince + 1, planMap := if usable then some (t, []) else q.planMap }
  let keep ← pclS
  let rs ← parcels
  onlyIf (ok && run) (each (sightOne mp (mp.mode == modeHold)) (rs.filter parcelActive))
  onlyIf (!usable) (modPcl fun q => { q with planMap := keep.planMap })
  retireAll

/-! ### Gaps (R185) -/

/-- A gap mark on a parcel. -/
def gapMark (cause : Nat) (p : Int) (f : Nat) (len : Int) (r : List Byte) : List Byte :=
  let r := Pf.flags.put r (Pf.flags.of r ||| pfGap)
  let r := Pf.gaps.put r (satAdd 0xFFFF (Pf.gaps.of r) 1)
  let r := Pf.gcause.put r cause
  let r := match segmentOf r p f len with
    | some c => (Pf.cpF c).put r ((Pf.cpF c).of r ||| 1)
    | none => r
  parcelTouch r

/-- A frame that reached no map, as the Ledger gets it (R144): its record, the cause, the mode and HFROM, and which lanes have a model
table, all of its dispatch where it was dispatched. -/
structure LostFrame where
  frame : FrameRec
  cause : Nat
  mode : Nat
  hfrom : Nat
  models : List Bool

/-- A frame dropped in hand. -/
def lostHand (h : Hand) (cause : Nat) : LostFrame := ⟨h.frame, cause, h.mode, h.hfrom, h.latch.models.map (·.isSome)⟩

/-- A frame lost before its dispatch, with the settings as they stand. -/
def lostNow (fr : FrameRec) (cause : Nat) : Op LostFrame := do
  let l ← recLatch
  let m ← curMode
  let h ← gf F.SYS_MODE_HFROM
  pure ⟨fr, cause, m, h, l.models.map (·.isSome)⟩

/-- Whether a dropped or skipped frame would have sighted a parcel, and its mark. -/
def gapOne (x : LostFrame) (r : List Byte) : Op Bool := do
  let s ← recS
  let n := Pf.lane.of r
  let f ← factorOf n
  let len ← laneLen n
  let p := x.frame.stamp.lead.getD n 0
  let m := s.mat.getD []
  let hit := decide (voxelsOf m (fun _ => x.models.getD n false) n r p f len ≠ [])
  onlyIf hit (modParcels (fun y => Pf.pid.of y == Pf.pid.of r) (gapMark x.cause p f len))
  pure hit

/-- Marks the gaps of a list of parcels; answers whether there was one. -/
def gapEach (x : LostFrame) : List (List Byte) → Op Bool
  | [] => pure false
  | r :: l => do
    let a ← gapOne x r
    let b ← gapEach x l
    pure (a || b)

/-- A dropped or skipped frame reaches the Ledger (R144, R185). -/
def ledgerGap (x : LostFrame) : Op Unit := do
  let ok := ledgerMode x.mode x.hfrom
  let run ← bf F.PCL_CTL_RUN
  let rs ← parcels
  onlyIf (ok && run) do
    let hit ← gapEach x (rs.filter parcelActive)
    onlyIf hit do
      cntSat F.PCL_GAPCNT_CNT 1
      sb F.PCL_STAT_GAP true

/-! ### The frames' fate (R142 to R146) -/

/-- A waiting frame is dispatched or skipped (R140, R142, R341). A committed reference takes effect here, also where this frame is then
skipped (DESIGN CHOICE, assumption log 96). -/
def dispatchFrame (fr : FrameRec) : Op Unit := do
  let run ← bf F.REC_CTL_RUN
  let may ← tomoAllowed
  onlyIf (run && may) do
    matReload
    refActivate
  let l ← recLatch
  let b ← blockOp
  let c := skipCause may b l fr
  modRec fun s => { s with waiting := none }
  if c = 0 then recTake fr l
  else do
    recSkip c
    let x ← lostNow fr c
    ledgerGap x

/-- RECON_DISPATCH: the engine takes the waiting frame (R140), by RT0 (R29). -/
def opReconDispatch : Op Unit := onCore 4 do
  let s ← recS
  match s.waiting, s.hand with
  | some fr, none => dispatchFrame fr
  | _, _ => pure ()

/-- Whether the deadline of the frame in hand has come (R143): the close of the next frame, or its own close and a frame period
(R100). -/
def deadlineCome (h : Hand) : Op Bool := do
  let u ← units
  let per ← ownPeriod
  pure (decide (h.closedAt + per * 10000 ≤ u.elapsed) || u.reco.waiting.isSome || u.tomo.closed.isSome)

/-- RECON_PUBLISH: the map of the frame in hand is complete before its deadline (R142, R166). -/
def opReconPublish : Op Unit := do
  let s ← recS
  match s.hand with
  | none => pure ()
  | some h => do
    let late ← deadlineCome h
    onlyIf (!late && !h.poisoned && !h.stopped) do
      let mp ← recPublish
      match mp with
      | none => pure ()
      | some mp => ledgerMap mp

/-- The frame in hand is dropped, and the engine starts on the next record if there is one (R142, R143). -/
def handDrop (poison : Bool) : Op Unit := do
  let s ← recS
  match s.hand with
  | none => pure ()
  | some h => do
    recDrop h.frame poison h.latch.ovrLim
    ledgerGap (lostHand h (if poison then 2 else 1))
    match s.waiting with
    | none => pure ()
    | some fr => dispatchFrame fr

/-- The engine's frame ends without a map, by a new mode or a power loss (R142): RT0 accounts for it, at once or when it runs again
(R29, assumption log 72). -/
def handStop : Op Unit := do
  let up ← coreUp 4
  if up then handDrop false
  else modRec fun s => { s with hand := s.hand.map fun h => { h with stopped := true } }

/-- RECON_DEADLINE: the deadline of the frame in hand comes (R143); RT0 accounts for the drop (R29). -/
def opReconDeadline : Op Unit := onCore 4 do
  let u ← units
  match u.reco.hand with
  | none => pure ()
  | some h => do
    let late ← deadlineCome h
    onlyIf late (handDrop false)

/-- FRAME_RECORD_PUBLISH: the record of the frame that closed is complete in its slot and passes to reconstruction (R115,
R142), by RT0, which merges it (R29). -/
def opFrameRecordPublish : Op Unit := onCore 4 do
  let s ← tomoS
  match s.closed with
  | none => pure ()
  | some fr0 => do
    let slot := s.nextSlot
    let base ← gf F.TOMO_RINGBASE_BASE
    let fr := { fr0 with place := base * 4096 + slot * 524288 }
    sf F.TOMO_LASTREC_SLOT slot
    modTomo fun s => { s with closed := none, nextSlot := (slot + 1) % 64, ring := (slot, fr) :: s.ring.filter (fun x => x.1 ≠ slot) }
    captureFrame fr
    let q ← recS
    match q.waiting with
    | none => modRec fun s => { s with waiting := some fr }
    | some old => do
      let lim ← gf F.REC_CTL_OVRLIM
      recDrop old false lim
      let x ← lostNow old 1
      ledgerGap x
      sb F.REC_STAT_BUSY q.hand.isSome
      modRec fun s => { s with hand := q.hand, waiting := some fr }

/-! ### Residence Planner (R195 to R199) -/

/-- PRED of a parcel in binary32 (R196), in 0.01 % w.b. -/
def predOf (r : List Byte) (p : Int) (f len meq kdry rate : Nat) : Word :=
  let rem := F32.sub (F32.ofInt len) (F32.ofRat (centre2 r p f) 131072000)
  let ml := Pf.mlast.of r
  let v := F32.mul (F32.mul (F32.ofRat rate 16) (F32.ofRat f 65536)) (F32.ofRat 36 10)
  let k := F32.ofRat kdry 1000
  if F32.le rem F32.zero ∨ ml ≤ meq then F32.ofInt ml
  else if F32.eqv v F32.zero then F32.ofInt meq
  else F32.add (F32.ofInt meq) (F32.mul (F32.ofInt ((ml : Int) - meq))
    (F32.exp (F32.div (F32.mul (F32.neg k) rem) v)))

/-- Whether the planner predicts a parcel (R186, R196). -/
def plannable (r : List Byte) : Bool := Pf.state.of r == 2 && decide (0 < Pf.nsight.of r) && !bitAt (Pf.flags.of r) 6

/-- A parcel takes its PRED. -/
def predictOne (r : List Byte) : Op Unit := do
  let n := Pf.lane.of r
  let p ← leadOf n
  let f ← factorOf n
  let len ← gf (F.PCL_LLEN_LLEN n)
  let meq ← gf (F.PCL_MEQ_MEQ n)
  let k ← gf (F.PCL_KDRY_K n)
  let rate ← gf (F.ENC_RATE_RATE n)
  modParcels (fun x => Pf.pid.of x == Pf.pid.of r) fun x =>
    parcelTouch (Pf.pred.put x (fitU 16 (roundF (predOf x p f len meq k rate))))

/-- The lead parcel of lane `n`: the deepest that the usable map sighted (R195). -/
def leadParcel (n : Nat) : Op (Option (List Byte)) := do
  let s ← pclS
  let t ← now
  let age ← gf F.PCL_MAPAGE_AGE
  pure (match s.planMap with
    | none => none
    | some (since, pids) =>
      if t ≤ since + age * 1000000 then
        (s.parcels.filter fun r => parcelActive r && Pf.lane.of r == n && !bitAt (Pf.flags.of r) 6 && decide (Pf.pid.of r ∈ pids)).foldl
          (fun a r => match a with
            | none => some r
            | some b => if Pf.lo.int r < Pf.lo.int b then some r else a) none
      else none)

/-- Why lane `n` is held (R197), shown in PCL_LSTAT; answers whether it is. -/
def laneHeld (n : Nat) (lead : Option (List Byte)) : Op Bool := do
  let plane ← bf (F.PCL_LSLOT_PLANE n)
  let f ← factorOf n
  let len ← gf (F.PCL_LLEN_LLEN n)
  let st ← bf (F.ENC_LSTAT_STALLED n)
  let lost ← bf (F.ENC_LSTAT_LOST n)
  let un ← bf (F.REC_LSTAT_UNANCH n)
  let dr ← bf (F.REC_LSTAT_DRIFT n)
  let uu ← bf F.PCL_CTL_UNANCHUSE
  let du ← bf F.PCL_CTL_DRIFTUSE
  let k ← gf (F.PCL_KDRY_K n)
  let tg ← gf (F.PCL_TARGET_TGT n)
  let meq ← gf (F.PCL_MEQ_MEQ n)
  let v := 64 * bit (!plane) + 32 * bit (decide (f = 0 ∨ len = 0)) + 16 * bit (st || lost) + 8 * bit lead.isNone + 4 * bit (un && !uu) +
    2 * bit (dr && !du) + bit (decide (k = 0 ∨ tg ≤ meq))
  wrN (R.PCL_LSTAT n) (v + (if v = 0 then 0 else 0x8000))
  pure (decide (v ≠ 0))

/-- The speed that lane `n`'s lead parcel needs, in mm/s (R198). -/
def speedNeeded (n : Nat) (r : List Byte) : Op Word := do
  let p ← leadOf n
  let f ← factorOf n
  let len ← gf (F.PCL_LLEN_LLEN n)
  let meq ← gf (F.PCL_MEQ_MEQ n)
  let k ← gf (F.PCL_KDRY_K n)
  let tg ← gf (F.PCL_TARGET_TGT n)
  let vmax ← gf (F.PCL_VMAX_VMAX n)
  let rem := F32.sub (F32.ofInt len) (F32.ofRat (centre2 r p f) 131072000)
  let ml := Pf.mlast.of r
  let need := if ml ≤ tg then F32.mul (F32.ofRat vmax 100) (F32.ofInt 3600)
    else F32.div (F32.mul rem (F32.ofRat k 1000))
      (F32.ln (F32.div (F32.ofInt ((ml : Int) - meq)) (F32.ofInt ((tg : Int) - meq))))
  pure (F32.div need (F32.ofInt 3600))

/-- What a planner run finds of a lane: planned (PLANE), held, the speed it needs. -/
structure LanePlan where
  n : Nat
  plane : Bool
  held : Bool
  need : Word

/-- The findings of one lane, with its lead parcel shown. -/
def planLane (n : Nat) : Op LanePlan := do
  let lead ← leadParcel n
  let held ← laneHeld n lead
  let plane ← bf (F.PCL_LSLOT_PLANE n)
  wrN (R.PCL_LEADPID n) (match lead with | some r => Pf.pid.of r | none => 0)
  sf (F.PCL_LPRED_PRED n) (match lead with | some r => Pf.pred.of r | none => 0xFFFF)
  match lead with
  | some r =>
    if held then pure ⟨n, plane, true, 0⟩
    else do
      let v ← speedNeeded n r
      pure ⟨n, plane, false, v⟩
  | none => pure ⟨n, plane, held, 0⟩

/-- The findings of all lanes, ascending. -/
def planLanes : List Nat → Op (List LanePlan)
  | [] => pure []
  | n :: l => do
    let a ← planLane n
    let b ← planLanes l
    pure (a :: b)

/-- The planned lanes of other members in a joined cluster under CLEVEL, and the sum of their speeds in mm/s (R547). -/
def clusterPlanned (g : RngS) (own : Nat) (b : Block) : Nat × Word :=
  let cs := (List.range 128).filter fun c =>
    decide (c / 16 + 1 ≠ own ∧ g.states.getD (c / 16) 0 = 1) &&
      (let w := (b.regs.get (R.RNG_CLEADH c)).toNat; bitAt w 19 && bitAt w 21)
  (cs.length, cs.foldl (fun s c => F32.add s (F32.ofRat ((F.RNG_CSPEED_VSET c).of (b.regs.get (R.RNG_CSPEED c))) 100)) F32.zero)

/-- What other members add to the factor of R198: nothing outside a cluster under CLEVEL (R547). -/
def clusterShare : Op (Nat × Word) := do
  let b ← blockOp
  let own ← gf F.RNG_STAT_ADDR
  pure (if b.u.rng.joined ∧ b.u.rng.clevel = true then clusterPlanned b.u.rng own b else (0, F32.zero))

/-- The common factor of R198 and R547 for a mean speed in 0.01 mm/s and the other members' planned lanes and speeds. -/
def planFactor (lanes : List LaneLedger) (ps : List LanePlan) (vmean : Nat) (others : Nat × Word) : Word :=
  let planned := ps.filter (·.plane)
  let fixed := (planned.filter (·.held)).foldl (fun s x => F32.add s (lanes.getD x.n {}).speed) others.2
  let needSum := (planned.filter (fun x => !x.held)).foldl (fun s x => F32.add s x.need) F32.zero
  F32.div (F32.sub (F32.mul (F32.ofRat vmean 100) (F32.ofInt (planned.length + others.1))) fixed) needSum

/-- One lane's speed and setpoint (R198, R199); RUN follows a setpoint other than zero (R64). -/
def planWrite (k : Option Word) (x : LanePlan) : Op Unit := do
  let s ← pclS
  let slew ← gf F.PCL_VSLEW_SLEW
  let vmin ← gf (F.PCL_VMIN_VMIN x.n)
  let vmax ← gf (F.PCL_VMAX_VMAX x.n)
  let slot ← gf (F.PCL_LSLOT_SLOT x.n)
  let f ← factorOf x.n
  let old := (s.lanes.getD x.n {}).speed
  let v0 := match k with | some k => F32.mul x.need k | none => x.need
  let d := F32.ofRat slew 100
  let v1 := F32.clamp (F32.sub old d) (F32.add old d) v0
  let v := F32.clamp (F32.ofRat vmin 100) (F32.ofRat vmax 100) v1
  let sp := fitU 16 (roundF (F32.mul (F32.div (F32.mul v (F32.ofInt 1000)) (F32.ofRat f 65536)) (F32.ofInt 16)))
  onlyIf (!x.held) do
    modLedgerLane x.n fun l => { l with speed := v }
    sf (F.PCL_VSET_VSET x.n) (fitU 16 (roundF (F32.mul v (F32.ofInt 100))))
    sf (F.LOOP_SP_SP slot) sp
    let ctl ← rd (R.ENC_LCTL x.n)
    onlyIf (decide (sp ≠ 0)) (laneControl x.n ((F.ENC_LCTL_RUN x.n).put ctl 1))

/-- A planner run (R195 to R199). -/
def plannerRun : Op Unit := do
  let rs ← parcels
  each predictOne (rs.filter plannable)
  let ps ← planLanes (List.range 16)
  let cur ← curMode
  let plan ← bf F.PCL_CTL_PLAN
  let vmean ← gf F.PCL_VMEAN_VMEAN
  let s ← pclS
  let writes := cur == modeFlow && plan
  let others ← clusterShare
  let k := if vmean = 0 then none else some (planFactor s.lanes ps vmean others)
  onlyIf writes (each (planWrite k) ps)
  sb F.PCL_STAT_PLANNING (writes && ps.any fun x => !x.held)
  modPcl fun q => { q with mapsSince := 0, runs := q.runs + 1 }

/-- PLANNER_RUN: PCYC maps were published since the last run (R195). -/
def opPlannerRun : Op Unit := do
  let s ← pclS
  let c ← gf F.PCL_CTL_PCYC
  onlyIf (decide (max 1 c ≤ s.mapsSince)) plannerRun

/-! ### Checkpoints (R202) -/

/-- The lead positions of all lanes. -/
def leads : Op (List Int) := do
  let b ← blockOp
  pure ((List.range 16).map fun n => toSigned 48 ((b.regs.get (R.ENC_LEADH n)).toNat * 2 ^ 32 + (b.regs.get (R.ENC_LEADL n)).toNat))

/-- The set of the Ledger's tables as it stands (R202). -/
def ledgerNow : Op LedgerSet := do
  let s ← pclS
  let l ← leads
  pure ⟨s.parcels, s.lots, s.lotsDamaged, s.mdis, s.lanes.map fun x => (x.origin, x.k), l⟩

/-- LEDGER_CHECKPOINT: PCL_CKPT s after the last one, and not while a restore is due (R202). -/
def opLedgerCheckpoint : Op Unit := do
  let s ← pclS
  let c ← gf F.PCL_CKPT_CKPT
  let t ← now
  let u ← units
  onlyIf (!u.sys.coldStart && decide (s.ckptAt + max 1 c * 1000000000 ≤ t)) do
    let x ← ledgerNow
    stateSave fun y => { y with ledger := some x, lossLeads := none }
    modPcl fun q => { q with ckptAt := t }

/-- A restored parcel, with its lane's latest lead position subtracted (R202). -/
def parcelRebase (ls : List Int) (r : List Byte) : List Byte :=
  let d := ls.getD (Pf.lane.of r) 0
  let r := Pf.lo.putI r (Pf.lo.int r - d)
  let r := if Pf.state.of r = 1 then r else Pf.hi.putI r (Pf.hi.int r - d)
  parcelMark pfRestored r

/-- Lane `n` of a restored set, with its latest lead position subtracted; the factor and the interval are those in force. -/
def laneRebase (st : LedgerSet) (ls : List Int) (n : Nat) : Op Unit := do
  let f ← factorOf n
  let itv ← intervalOf
  let o := st.lanes.getD n (0, 0)
  modLedgerLane n fun _ => { origin := o.1 - ls.getD n 0, k := o.2, factor := f, interval := itv }

/-- The Ledger takes a set of tables with the lead positions that its faces are rebased by, or starts empty where there is none (R202);
answers whether there was one. The planner's runs are counted on (R428). -/
def ledgerLoad (x : Option (LedgerSet × List Int)) : Op Bool :=
  match x with
  | none => do
    modPcl fun q => { ckptAt := q.ckptAt, runs := q.runs }
    ledgerCounts
    pure false
  | some (st, ls) => do
    modPcl fun q =>
      { ckptAt := q.ckptAt, runs := q.runs, parcels := st.parcels.map (parcelRebase ls), lots := st.lots, lotsDamaged := st.lotsDamaged, mdis := st.mdis }
    each (laneRebase st ls) (List.range 16)
    sb F.PCL_STAT_RESTORED true
    ledgerCounts
    pure true

/-- The Ledger's restore after a cold reset (R202); answers whether there was a complete set. The lead positions of a power-loss save
serve this one restore, which is kept for a start-up that begins again (R339). -/
def ledgerRestore : Op Bool := do
  let u ← units
  let x := u.nv.saved.ledger.map fun st => (st, u.nv.saved.lossLeads.getD st.leads)
  modU fun u => { u with sys := { u.sys with coldSet := some x } }
  onlyIf x.isSome leadsDrop
  ledgerLoad x

/-! ### Locks (R187 to R191) -/

/-- Whether a record is locked by a session record other than `i`. -/
def lockedFor (i : Nat) (parcel : Bool) (key : Nat) : Op Bool := do
  let u ← units
  pure (match lockHeld u parcel key with | some l => decide (l.holder ≠ i) | none => false)

/-- LOCK_LEASE_EXPIRY: the lease of the lock at place `k` of the lock table has passed (R188, R191). -/
def opLockLeaseExpiry (k : Nat) : Op Unit := do
  let s ← pclS
  let t ← now
  match s.locks[k]? with
  | none => pure ()
  | some l =>
    onlyIf (decide (l.expires ≤ t)) do
      modPcl fun q => { q with locks := q.locks.filter fun x => x ≠ l }
      retiredSettle

/-! ### Field requests (R193, R194) -/
namespace Fs
def done : Nat := 0
def busy : Nat := 1
def norec : Nat := 2
def denied : Nat := 3
def range : Nat := 4
def noparcel : Nat := 5
end Fs

/-- The parcel of a lane whose faces hold the discharge plane at lead position `p`, among some records. -/
def atDischarge (rs : List (List Byte)) (n : Nat) (p : Int) (f : Nat) (len : Int) : Option (List Byte) :=
  rs.find? fun r => Pf.lane.of r == n && decide (upperFace r p f ≤ len ∧ len < lowerFace r p f)

/-- The cycle of the 200 MHz lock arbiter at an elapsed time (R190). -/
def arbiterCycle (t : Nat) : Nat := t / 5

/-- A record of the tables as it stands. -/
def recordNow (u : Units) (parcel : Bool) (key : Nat) : Option (List Byte) :=
  if parcel then u.pcl.parcels.find? fun r => Pf.pid.of r == key
  else (u.pcl.lots.find? fun x => x.1 = key).map (·.2)

/-- Whether a field operation was applied in the present arbiter cycle: a contest with it in this cycle is not settled yet (R190). -/
def fieldContested (u : Units) (l : FieldLock) : Bool := arbiterCycle l.since == arbiterCycle u.elapsed

/-- A record without the field operation that changed `before` into `after`: the bytes it wrote stand as before, and WSEQ counts one
write less; what the Ledger changed since stays (R190). -/
def fieldUndo (wseq : BF) (before after r : List Byte) : List Byte :=
  if before = after then r
  else wseq.put (r.mapIdx fun i b => if before[i]? = after[i]? then b else before.getD i b) (wseq.of r + 0xFFFFFFFF)

/-- A field request is answered BUSY (R190). -/
def fieldBusy : Op (Nat × Nat) := do
  cntSat F.PCL_BUSYCNT_CNT 1
  sb F.PCL_STAT_BUSYSENT true
  pure (Fs.busy, 0)

/-- The response to the field request `req` of `node`, the last of them that says it was done, becomes BUSY. -/
def replyBusy (node : Nat) (req : List Byte) (l : List Reply) : List Reply :=
  let mine := fun (r : Reply) => r.node == node && r.frame.data.take 10 == req && leAt r.frame.data 14 1 == Fs.done
  let i := (List.range l.length).reverse.find? fun i => (l[i]?).any mine
  l.mapIdx fun j r => if i = some j then { r with frame := { r.frame with data := patch (patch r.frame.data 10 (zeros 4)) 14 (leBytes 1 Fs.busy) } } else r

/-- A field operation of this arbiter cycle loses its contest: it is not applied, and its response is BUSY (R190). -/
def fieldLoses (l : FieldLock) : Op Unit := do
  modPcl fun q =>
    { q with
      parcels := q.parcels.map fun r => if l.parcel ∧ Pf.pid.of r = l.key then fieldUndo Pf.wseq l.before l.after r else r
      lots := q.lots.map fun x => if ¬l.parcel ∧ x.1 = l.key then (x.1, fieldUndo Lf.wseq l.before l.after x.2) else x
      fieldLocks := q.fieldLocks.filter fun x => x ≠ l }
  modU fun u => { u with fld := { u.fld with buses := updAt u.fld.buses l.bus fun c => { c with replies := replyBusy l.node l.req c.replies } } }
  let _ ← fieldBusy

/-- A host command reaches a record (R190): it wins a contest within one arbiter cycle; where a field request holds the lock longer,
the command waits until that operation is complete, and then takes the lock. The command's step stands for its wait (assumption log
48), and the field request's lock stands until its end, so that another field request before it is answered BUSY. -/
def hostWait (parcel : Bool) (key : Nat) : Op Unit := do
  let u ← units
  let peak ← gf F.PCL_WAITMAX_PEAK
  modPcl fun q => { q with hostTook := (parcel, key, u.elapsed) :: q.hostTook.filter fun x => arbiterCycle x.2.2 == arbiterCycle u.elapsed }
  match fieldHeld u parcel key with
  | none => pure ()
  | some l =>
    if fieldContested u l then fieldLoses l
    else onlyIf (decide (u.elapsed < l.expires)) do
      sb F.PCL_STAT_LOCKWAIT true
      sf F.PCL_WAITMAX_PEAK (max peak (fitU 16 (quot ((l.expires - u.elapsed : Nat) : Int) 1000)))

/-- Whether a field request meets a held lock (R190): an explicit lock, another field request's, or a host command's of this arbiter
cycle. -/
def recordBusy (u : Units) (parcel : Bool) (key : Nat) : Bool :=
  recordHeld u parcel key || u.pcl.hostTook.any fun x => x.1 == parcel && x.2.1 == key && arbiterCycle x.2.2 == arbiterCycle u.elapsed

/-- A field request of bus `bus` reaches a record; answers whether it may take the lock. Between requests of one arbiter cycle the
lower bus number wins (R190). -/
def fieldMay (bus : Nat) (parcel : Bool) (key : Nat) : Op Bool := do
  let u ← units
  match fieldHeld u parcel key with
  | some l => onlyIf (fieldContested u l && decide (bus < l.bus)) (fieldLoses l)
  | none => pure ()
  let v ← units
  pure (!recordBusy v parcel key)

/-- A field request takes a record's lock for its one operation, of at most 200 µs (R189); the spec does not say how long, and the
model keeps it at least for the arbiter cycle of its start (DESIGN CHOICE, assumption log 48). -/
def fieldTake (snode : Nat) (parcel : Bool) (key : Nat) (before after : List Byte) : Op Unit := do
  let u ← units
  let f ← free
  modPcl fun q =>
    { q with fieldLocks := q.fieldLocks.filter (fun l => u.elapsed ≤ l.expires) ++ [⟨parcel, key, snode / 64, snode % 64, u.elapsed, max (u.elapsed + f % 200001) (arbiterCycle u.elapsed * 5 + 4), before, after, []⟩] }

/-- A field write to lot `i` applied by `f` (R194): status and value. -/
def fieldLot (i v snode : Nat) (f : List Byte → List Byte) : Op (Nat × Nat) := do
  let may ← fieldMay (snode / 64) false i
  let l ← lotAt i
  if may = false then fieldBusy
  else
    match l with
    | none => pure (Fs.denied, v)
    | some r =>
      if Lf.state.of r = 1 then do
        let r' := lotTouch (Lf.snode.put (f r) snode)
        fieldTake snode false i r r'
        modLot i fun _ => r'
        pure (Fs.done, v)
      else pure (Fs.denied, v)

/-- SAMPLE of a parcel set by a field node. -/
def fieldSample (r0 : List Byte) (v snode : Nat) : Op (Nat × Nat) := do
  let may ← fieldMay (snode / 64) true (Pf.pid.of r0)
  let u ← units
  let r := (recordNow u true (Pf.pid.of r0)).getD r0
  if may = false then fieldBusy
  else do
    let r' := parcelTouch (Pf.snode.put (Pf.sample.put r v) snode)
    fieldTake snode true (Pf.pid.of r) r r'
    modParcels (fun x => Pf.pid.of x == Pf.pid.of r) fun _ => r'
    pure (Fs.done, v)

/-- One field operation: its status and VALUE. -/
def fieldOp (bus op node index pid field v : Nat) : Op (Nat × Nat) := do
  let u ← units
  let snode := bus * 64 + node % 64
  if op = 1 then
    (if 4096 ≤ index ∨ 64 ≤ field then pure (Fs.range, v)
     else do
       let may ← fieldMay bus false index
       let l ← lotAt index
       if may = false then fieldBusy
       else
         match l with
         | none => pure (Fs.norec, v)
         | some r => do
           fieldTake snode false index r r
           pure (Fs.done, leAt r (4 * field) 4))
  else if op = 2 then
    (if 4096 ≤ index ∨ 26 ≤ field then pure (Fs.range, v)
     else fieldLot index v snode fun r => patch r (0x98 + 4 * field) (leBytes 4 v))
  else if op = 3 then
    (if 4096 ≤ index ∨ 2 ≤ field then pure (Fs.range, v)
     else
       let m := if field = 0 then Lf.massin else Lf.massout
       fieldLot index v snode fun r => m.put r (fitU 32 ((m.of r : Int) + v)))
  else if op = 4 then
    (if 4096 ≤ index ∨ field ≠ 0 then pure (Fs.range, v)
     else fieldLot index v snode fun r =>
       let n := Lf.scount.of r
       Lf.scount.put (Lf.smean.put r (fitU 16 (runningMean (Lf.smean.of r) n (v % 65536 : Nat)))) (satAdd 0xFFFF n 1))
  else if op = 5 then
    (if 16 ≤ index ∨ field ≠ 0 then pure (Fs.range, v)
     else do
       let p ← leadOf index
       let f ← factorOf index
       let len ← laneLen index
       match atDischarge (u.pcl.parcels.filter fun r => Pf.state.of r == 2) index p f len with
       | none => pure (Fs.noparcel, v)
       | some r => fieldSample r v snode)
  else if op = 6 then
    (if field ≠ 0 then pure (Fs.range, v)
     else
       match u.pcl.parcels.find? fun r => parcelActive r && Pf.pid.of r == pid with
       | none => pure (Fs.norec, v)
       | some r => fieldSample r v snode)
  else pure (Fs.range, v)

/-- A Ledger field request of 16 bytes received on a bus: the response's 16 bytes (R193). -/
def fieldRequest (bus : Nat) (d : List Byte) : Op (List Byte) := do
  let a ← fieldOp bus (leAt d 0 1) (leAt d 1 1) (leAt d 2 2) (leAt d 4 4) (leAt d 8 1) (leAt d 10 4)
  modPcl fun q => { q with fieldLocks := q.fieldLocks.map fun l => if l.req = [] then { l with req := padTo 10 (d.take 10) } else l }
  pure (padTo 10 (d.take 10) ++ leBytes 4 a.2 ++ leBytes 1 a.1 ++ zeros 1)

end Sys2Proof.Machine
end

