-- ==== Sys2Proof/Machine/Valve.lean ====
section
/-!
DEFINITION. Machine/Valve.lean: the valve and solenoid drive (R247 to R278, R661): reloads and profiles, closing detection, the
coil model and resistance measurement, faults, supplies, pairs and hold values.
-/
namespace Sys2Proof.Machine

/-- What valve channel `n` holds beside its registers. -/
def getVch (n : Nat) : Op ValveCh := do let u ← units; pure (u.vdrv.chs.getD n {})

/-- Changes valve channel `n`. -/
def modVch (n : Nat) (f : ValveCh → ValveCh) : Op Unit :=
  modU fun u => { u with vdrv := { u.vdrv with chs := updAt u.vdrv.chs n f } }

/-- Changes the valve drive's data. -/
def modVdrv (f : ValveS → ValveS) : Op Unit := modU fun u => { u with vdrv := f u.vdrv }

/-- The power domain of valve channel `n` (R603). -/
def vgate (n : Nat) : Nat := 88 + n

/-- Whether channels `n` and its partner form a pair (R249). -/
def paired (n : Nat) : Op Bool := gbit R.VDRV_PAIR (n / 2)

/-- The channel whose registers govern channel `n`. -/
def governs (n : Nat) : Op Nat := do let p ← paired n; pure (if p then n - n % 2 else n)

/-- A channel's phase changes (VDRV_CSTAT.PHASE): the odd channel of a pair shows the even one's (R661). -/
def valvePhase (n ph : Nat) : Op Unit := do
  let p ← paired n
  modVch n fun c => { c with phase := ph }
  sf (F.VDRV_CSTAT_PHASE n) ph
  onlyIf (p && n % 2 == 0) (sf (F.VDRV_CSTAT_PHASE (n + 1)) ph)

/-- The switch of channel `n` opens and stays open: a running profile decays (R265). -/
def valveOpen (n : Nat) : Op Unit := do
  let c ← getVch n
  onlyIf (1 ≤ c.phase && c.phase ≤ 4) (valvePhase n 5)
  modVch n fun c => { c with duty := 0, target := 0, waitFall := false, openRun := 0, steady := 0, left := 0, ran := {} }

/-- Channel `n` latches fault `code` (R271 to R274, R270, R446). A channel that holds a fault latches no other. -/
def valveFault (n code leg : Nat) : Op Unit := do
  let held ← gf (F.VDRV_FAULT_CODE n)
  if held ≠ 0 then pure ()
  else do
    sf (F.VDRV_FAULT_CODE n) code
    sf (F.VDRV_FAULT_LEG n) leg
    sbit R.VDRV_FLTMAP n true
    if code ≤ 3 then sb F.VDRV_STAT_SHORT true
    else if code = 4 then sb F.VDRV_STAT_OPEN true
    else sb F.VDRV_STAT_COILHOT true
    valveOpen n
    valvePhase n 6
    raise Ev.vdrvFault [BitVec.ofNat 8 n, BitVec.ofNat 8 code]

/-- The regulated duty of a period in 0.01 %: the spec gives no regulator, so it is free, either 0 or between the lowest and the
highest duty of R248 (assumption log 1). -/
def regulatedDuty : Op Nat := do
  let v ← free
  let k := v % 9602
  pure (if k = 0 then 0 else k + 99)

/-- The limits of R249: continuous and boost current in mA. -/
def contLimit (pair : Bool) : Nat := if pair then 5000 else 2500
def boostLimit (pair : Bool) : Nat := if pair then 8000 else 4000

/-- The unit triangle of R261 at phase `k` / 20,000. -/
def triangle (k : Nat) : ℚ :=
  if k ≤ 5000 then (k : ℚ) / 5000
  else if k ≤ 15000 then 2 - (k : ℚ) / 5000
  else (k : ℚ) / 5000 - 4

/-- The dithered target of R261 in mA. -/
def propTarget (n : Nat) (set ph lim : Nat) : Op Nat := do
  let a ← gf (F.VDRV_DITH_AMP n)
  let wave ← bf (F.VDRV_DITH_WAVE n)
  let w : ℚ := if wave then triangle ph else F32.rat (F32.sin ph 20000)
  let amp := min 200 a
  let t : ℚ := (set : ℚ) * (1 + (amp : ℚ) / 1000 * w)
  let t : ℚ := if t < 0 then 0 else if (lim : ℚ) < t then lim else t
  pure (roundRat t).toNat

/-- The dither phase advances at a reload (R262). -/
def ditherAdvance (n : Nat) : Op Unit := do
  let f ← gf (F.VDRV_DFREQ_F n)
  modVch n fun c => { c with dither := (c.dither + max 50 (min 400 f)) % 20000 }

/-- The current target of the phase that channel `n` is in, limited while THLIM is set (R259, R261, R270). -/
def phaseTarget (n : Nat) : Op Nat := do
  let p ← paired n
  let c ← getVch n
  let hot ← bf (F.VDRV_CSTAT_THLIM n)
  let ilhot ← gf (F.VDRV_ILHOT_I n)
  let t ← if c.phase = 3 then propTarget n (min c.active (contLimit p)) c.dither (contLimit p)
    else pure (if c.phase = 1 then c.boost else min c.holdI (contLimit p))
  pure (if hot then min t ilhot else t)

/-- The boost phase of channel `n` ends (R259, R260, R273): OPEN where its current never reached half the boost target, else hold
or the proportional phase, with the switch off until the current has fallen to the target. -/
def boostOver (n current : Nat) : Op Unit := do
  let t ← now
  let c ← getVch n
  let typ ← gf (F.VDRV_PROF_TYPE n)
  let olen ← bf (F.VDRV_PROF_OLEN n)
  if olen ∧ 2 * max c.peak current < c.boost then valveFault n 4 0
  else do
    valvePhase n (if typ = 2 then 3 else 2)
    modVch n fun c => { c with left := 0, since := t }
    let tg ← phaseTarget n
    modVch n fun c => { c with target := tg, duty := 0, waitFall := decide (tg < current) }

/-- Channel `n` starts its profile from boost at this reload (R254, R259, R261, R264, R270). -/
def valveStart (n : Nat) (command : Bool) : Op Unit := do
  let t ← now
  let p ← paired n
  let c ← getVch n
  let typ ← gf (F.VDRV_PROF_TYPE n)
  let pboost ← bf (F.VDRV_PROF_PBOOST n)
  let hot ← bf (F.VDRV_CSTAT_THLIM n)
  let bi ← gf (F.VDRV_BOOST_I n)
  let bt ← gf (F.VDRV_BOOSTT_T n)
  let hi ← gf (F.VDRV_HOLDI_I n)
  onlyIf (command && 1 ≤ c.phase && c.phase ≤ 3) do
    sb (F.VDRV_CSTAT_RESTART n) true
    cntSat (F.VDRV_RESTCNT_CNT n) 1
  if typ = 3 then valvePhase n 4
  else do
    let periods := if hot || (typ = 2 && !pboost) then 0 else 2 * min 10000 bt
    modVch n fun c => { c with boost := min bi (boostLimit p), holdI := hi, left := periods, peak := 0, dither := 0, waitFall := false, since := t }
    valvePhase n (if 0 < periods then 1 else if typ = 2 then 3 else 2)

/-- Channel `n` switches off at this reload (R256, R265), and the closing search starts where R266 asks for it. -/
def valveRelease (n : Nat) : Op Unit := do
  let t ← now
  let c ← getVch n
  let cden ← bf (F.VDRV_PROF_CDEN n)
  let typ ← gf (F.VDRV_PROF_TYPE n)
  onlyIf (1 ≤ c.phase && c.phase ≤ 4) do
    valveOpen n
    onlyIf (cden && (c.phase == 2 || c.phase == 3) && typ != 3 && decide (c.since + 20000000 ≤ t))
      (modVch n fun c => { c with search := some ⟨t, 0, 0, 0⟩ })

/-- The width of the closing window in ns (R266). -/
def closingWindow (n : Nat) : Op Nat := do
  let w ← gf (F.VDRV_CDCFG_WIN n)
  pure (max 1 w * 500000)

/-- A command that takes effect within the closing window ends the search (R267). -/
def closingAbort (n : Nat) : Op Unit := do
  let t ← now
  let c ← getVch n
  let w ← closingWindow n
  match c.search with
  | none => pure ()
  | some s => do
    onlyIf (decide (t ≤ s.since + w)) (sb (F.VDRV_CSTAT_CDABORT n) true)
    onlyIf (decide (t ≤ s.since + w)) (modVch n fun c => { c with search := none })

/-- A running period of channel `n`: regulation and the phase's progress (R258 to R264). The dither advances once regulation to the
proportional target has begun (R262). -/
def valvePeriod (n : Nat) (m : CoilMeas) : Op Unit := do
  let c ← getVch n
  if c.phase = 4 then
    let d := if c.active = 0 then 0 else max 100 (min 9700 c.active)
    modVch n fun c => { c with duty := d }
  else do
    let tg ← phaseTarget n
    let wait := c.waitFall && decide (tg < m.current)
    let d ← if wait then pure 0 else regulatedDuty
    modVch n fun c => { c with target := tg, duty := d, waitFall := wait }
    onlyIf (c.phase == 3 && !wait) (ditherAdvance n)

/-- The period that ended counts towards OPEN (R273) and towards a resistance measurement (R269). -/
def valveCount (n : Nat) (m : CoilMeas) : Op Unit := do
  let c ← getVch n
  let typ ← gf (F.VDRV_PROF_TYPE n)
  let olen ← bf (F.VDRV_PROF_OLEN n)
  let r := c.ran
  let low := decide (1 ≤ r.phase ∧ r.phase ≤ 3 ∧ r.duty = 9700 ∧ 2 * m.mean < r.target)
  let near := decide ((r.phase = 2 ∨ r.phase = 3) ∧ r.amp = 0 ∧ 20 * m.mean ≤ 21 * r.target ∧ 19 * r.target ≤ 20 * m.mean) && !r.wait
  let run := if low then c.openRun + 1 else 0
  modVch n fun c => { c with openRun := run, steady := if near then c.steady + 1 else 0 }
  onlyIf (olen && (typ == 1 || typ == 2) && decide (64 ≤ run)) (valveFault n 4 0)

/-- What the period that begins will have run with. -/
def valveRecord (n : Nat) : Op Unit := do
  let amp ← gf (F.VDRV_DITH_AMP n)
  modVch n fun c => { c with ran := ⟨c.phase, c.duty, c.target, amp, c.waitFall⟩ }

/-- Writes and commands that landed in the cycle of a reload wait for the next one (R257). -/
def valveDefer (n k : Nat) : Op Unit :=
  onlyIf (decide (0 < k)) do
    cntSat F.VDRV_DEFERCNT_CNT k
    sb F.VDRV_STAT_DEFER true
    sb (F.VDRV_CSTAT_DEFER n) true

/-- A reload of a channel that governs itself (R257). In the cycle of the reload, a rise of D that a write of SET, ON or SETON makes waits
for the next one. -/
def valveReload (n : Nat) (m : CoilMeas) : Op Unit := do
  let t ← now
  let c ← getVch n
  let p ← paired n
  let setNow ← gf (F.VDRV_SET_SET n)
  let seton ← bf (F.VDRV_PROF_SETON n)
  let onNow ← bf (F.VDRV_CMD_ON n)
  let typ ← gf (F.VDRV_PROF_TYPE n)
  let en ← bf F.VDRV_CTL_EN
  let uv ← bf (F.VDRV_VCOIL_UV (n / 8))
  let ov ← bf (F.VDRV_VCOIL_OV (n / 8))
  let hot ← bf (F.VDRV_CSTAT_THLIM n)
  let late := c.cycle == some (t / 10)
  let set := if late then c.wasSet else setNow
  let cmd := if late then c.wasCmd else c.cmd
  let was : Bool := !late || (if c.wasSeton then set != 0 else c.wasOn)
  let d : Bool := (if seton then set != 0 else onNow) && was
  onlyIf late (valveDefer n c.writes)
  sf (F.VDRV_MEAS_DUTY n) c.ran.duty
  sf (F.VDRV_MEAS_I n) (fitU 16 m.mean)
  onlyIf p (sf (F.VDRV_MEAS_DUTY (n + 1)) c.ran.duty)
  modVch n fun c => { c with reloadAt := some t, active := set, demand := d, cmd := late && c.cmdNew, restart := false, peak := max c.peak m.current }
  valveCount n m
  let fault ← gf (F.VDRV_FAULT_CODE n)
  if fault ≠ 0 ∨ c.trip.isSome = true then pure ()
  else if !en || uv || ov then do
    valveOpen n
    onlyIf (m.current == 0 && (c.phase == 5)) (valvePhase n 0)
  else if !d || typ = 0 then do
    valveRelease n
    onlyIf (m.current == 0 && (c.phase == 5)) (valvePhase n 0)
  else do
    let rise := !c.demand
    if rise || (cmd && typ != 3) || c.restart then do
      closingAbort n
      valveStart n (cmd || rise)
      valvePeriod n m
    else if c.phase = 1 then do
      modVch n fun c => { c with left := c.left - 1 }
      if c.left ≤ 1 ∨ hot then do
        boostOver n m.current
        let c ← getVch n
        onlyIf (c.phase != 6 && !c.waitFall) (valvePeriod n m)
      else valvePeriod n m
    else if 2 ≤ c.phase ∧ c.phase ≤ 4 then valvePeriod n m
    else do
      closingAbort n
      valveStart n false
      valvePeriod n m
  valveRecord n

/-- The reload of the odd leg of a pair: it shows its own current and the even channel's duty (R661). -/
def oddReload (n : Nat) (m : CoilMeas) : Op Unit := do
  sf (F.VDRV_MEAS_I n) (fitU 16 m.mean)
  let t ← now
  modVch n fun c => { c with reloadAt := some t }

/-- VALVE_RELOAD: at its reload instant of the bank period that runs, once in each period, while its domain is on. -/
def opValveReload (n : Nat) (m : CoilMeas) : Op Unit := do
  let t ← now
  let u ← units
  let c ← getVch n
  let g ← governs n
  let on ← domainOn (vgate n)
  match u.vdrv.banks.getD (n / 8) none with
  | none => pure ()
  | some s =>
    let due := s + (g % 8) * 6250
    let fresh : Bool := match c.reloadAt with | none => true | some r => decide (r < due)
    onlyIf (decide (n < 32) && on && decide (due ≤ t) && fresh) (if g = n then valveReload n m else oddReload n m)

/-- VALVE_BANK_PERIOD: the first period of all four banks starts at a multiple of 50,000 ns of wall time, and then one every 5,000
cycles; the command starts bank `b`'s latest period of that grid (R248). -/
def opValveBankPeriod (b : Nat) : Op Unit := do
  let t ← now
  let w ← wallTime
  let u ← units
  let a : Option Nat := u.vdrv.anchor.or (if w % 50000 < 4 then some t else none)
  match a with
  | none => pure ()
  | some a =>
    let start := t - (t - a) % 50000
    let due : Bool := match u.vdrv.banks.getD b none with | none => true | some s => decide (s < start)
    onlyIf (due && decide (b < 4)) do
      modVdrv fun v => { v with anchor := some a, banks := setAt v.banks b (some start) }
      wrN R.VDRV_PSTART (w - (t - a) % 50000)

/-- BOOST_END: the boost periods of the channel are over (R259). The odd leg of a pair has none of its own (R249). -/
def opBoostEnd (n current : Nat) : Op Unit := do
  let t ← now
  let c ← getVch n
  let g ← governs n
  match c.reloadAt with
  | none => pure ()
  | some r => onlyIf (g == n && c.phase == 1 && decide (r + c.left * 50000 ≤ t)) (boostOver n current)

/-! ### Closing detection (R266, R267) -/

/-- CLOSING_AVERAGE_END: the next 20 µs average of the channel's VD voltage, in mV. -/
def opClosingAverageEnd (n volts : Nat) : Op Unit := rated 70000 volts do
  let t ← now
  let c ← getVch n
  let w ← closingWindow n
  let thr ← gf (F.VDRV_CDCFG_THR n)
  match c.search with
  | none => pure ()
  | some s =>
    let k := s.k + 1
    let slope : Int := (volts : Int) - s.avg
    let found : Bool := decide (13 ≤ k ∧ ((max 1 thr * 100 : Nat) : Int) < |slope - s.slope|)
    if t < s.since + k * 20000 ∨ w < k * 20000 then pure ()
    else if found then do
      sf (F.VDRV_CLOSET_T n) (if k * 20 < 65536 then k * 20 else Config.freeOf (k * 20 : Nat) % 65536)
      sb (F.VDRV_CSTAT_CLOSED n) true
      modVch n fun c => { c with search := none }
    else modVch n fun c => { c with search := some ⟨s.since, k, volts, slope⟩ }

/-- CLOSING_WINDOW_END: the window ends without a closing. -/
def opClosingWindowEnd (n : Nat) : Op Unit := do
  let t ← now
  let c ← getVch n
  let w ← closingWindow n
  match c.search with
  | none => pure ()
  | some s => onlyIf (decide (s.since + w ≤ t)) do
    sf (F.VDRV_CLOSET_T n) 0xFFFF
    sb (F.VDRV_CSTAT_CDMISS n) true
    sb F.VDRV_STAT_CDMISS true
    modVch n fun c => { c with search := none }

/-! ### Coil model (R268 to R270) -/

/-- The ambient in 0.1 °C (R268): the named input's RES as a signed value unless its fault code says a fault or no result (R312), else
the PD die temperature. -/
def coilAmbient : Op Int := do
  let src ← bf F.VDRV_TAMB_SRC
  let i ← gf F.VDRV_TAMB_INDEX
  let fault ← gf (F.AFF_IRES_FAULT i)
  let res ← gf (F.AFF_IRES_RES i)
  let die ← gf (F.THM_TEMP_T 4)
  let inputOk := src && decide (i < 192) && fault == 0
  if inputOk then pure (nearest (toSigned 16 res) 10)
  else if die = 0x8000 then do let v ← free; pure (toSigned 16 v)
  else pure (nearest (toSigned 16 die) 10)

/-- VDRV_TW shows the nodes of channel `n`. -/
def coilShow (n : Nat) : Op Unit := do
  let c ← getVch n
  wr (R.VDRV_TW n) (BitVec.ofNat 32 (fitS 16 (roundRat (c.tb * 10)) * 65536 + fitS 16 (roundRat (c.tw * 10))))

/-- Both nodes start at the ambient (R268). -/
def coilStart (n : Nat) : Op Unit := do
  let ta ← coilAmbient
  modVch n fun c => { c with tw := (ta : ℚ) / 10, tb := (ta : ℚ) / 10 }
  coilShow n

/-- At power-up every channel's nodes start at the ambient (R268). -/
def coilsStart : Op Unit := do
  let ta ← coilAmbient
  each (fun n => do
    modVch n fun c => { c with tw := (ta : ℚ) / 10, tb := (ta : ℚ) / 10 }
    coilShow n) (List.range 32)

/-- Thermal limiting and COILHOT as the winding stands (R270); a channel whose domain is off reports nothing (R251). -/
def coilLimits (n : Nat) : Op Unit := do
  let on ← domainOn (vgate n)
  let c ← getVch n
  let lim ← gf (F.VDRV_TLIM_TLIM n)
  let hot ← bf (F.VDRV_CSTAT_THLIM n)
  let l : ℚ := lim
  if on = false then pure ()
  else if l ≤ c.tw then do
    sb (F.VDRV_CSTAT_THLIM n) true
    onlyIf (!hot) (sb F.VDRV_STAT_THLIM true)
    onlyIf (decide (l + 15 ≤ c.tw)) (valveFault n 5 0)
  else onlyIf (decide (c.tw ≤ l - 5)) (sb (F.VDRV_CSTAT_THLIM n) false)

/-- One 1 ms step of channel `n`'s model at ambient `ta` in °C. -/
def coilStep (ta : ℚ) (n : Nat) : Op Unit := do
  let g ← governs n
  let rc ← gf (F.VDRV_RCOLD_RC n)
  let i ← gf (F.VDRV_MEAS_I n)
  let on ← domainOn (vgate n)
  let rwb ← gf (F.VDRV_THR_RWB n)
  let rba ← gf (F.VDRV_THR_RBA n)
  let cw ← gf (F.VDRV_THC_CW n)
  let cb ← gf (F.VDRV_THC_CB n)
  onlyIf (g == n && rc != 0) do
    let cold : ℚ := (rc : ℚ) / 100
    let im : ℚ := if on then (i : ℚ) / 1000 else 0
    let rwb : ℚ := (max 1 rwb : Nat) / 10
    let rba : ℚ := (max 1 rba : Nat) / 2
    let cw : ℚ := (max 1 cw : Nat) / 10
    let cb : ℚ := (max 1 cb : Nat)
    modVch n fun c =>
      let p := im * im * (cold * (1 + 393 / 100000 * (c.tw - 20)))
      let tw := c.tw + 1 / 1000 / cw * (p - (c.tw - c.tb) / rwb)
      { c with tw := tw, tb := c.tb + 1 / 1000 / cb * ((tw - c.tb) / rwb - (c.tb - ta) / rba) }
    coilShow n
    coilLimits n

/-- COIL_MODEL_TICK: every 1 ms. -/
def opCoilModelTick : Op Unit := do
  let t ← now
  let u ← units
  onlyIf (decide (u.vdrv.tickAt + 1000000 ≤ t)) do
    let ta ← coilAmbient
    modVdrv fun v => { v with tickAt := t }
    sf F.VDRV_TAMBV_TA (ofSigned 16 ta)
    each (coilStep ((ta : ℚ) / 10)) (List.range 32)

/-- COIL_RES_MEASURE: after 64 steady periods, from the mean coil voltage in mV and the mean current in mA (R269). -/
def opCoilResMeasure (n volts current : Nat) : Op Unit := do
  let c ← getVch n
  let rc ← gf (F.VDRV_RCOLD_RC n)
  onlyIf ((c.phase == 2 || c.phase == 3) && decide (64 ≤ c.steady) && decide (0 < current)) do
    sf (F.VDRV_RMEAS_R n) (fitU 16 (nearest ((volts : Int) * 100) current))
    modVch n fun c => { c with steady := 0 }
    onlyIf (rc != 0) do
      let r : ℚ := (volts : ℚ) / current
      modVch n fun c => { c with tw := 20 + (r / ((rc : ℚ) / 100) - 1) / (393 / 100000) }
      coilShow n
      coilLimits n

/-! ### Faults and supplies -/

/-- VALVE_SHORT_TRIP: the current of a leg, in mA, passes a comparator of it while the switch conducts: the fast one at 12,000 mA, or the
normal one at 6,000 mA from 2 µs after the turn-on (R271). A pair opens at once, and a trip of its other leg within 1 µs makes the
fault PSHORT (R272). -/
def opValveShortTrip (n leg current : Nat) : Op Unit := do
  let t ← now
  let g ← governs n
  let p ← paired n
  let on ← domainOn (vgate g)
  let c ← getVch g
  let since := t - c.reloadAt.getD t
  let code : Nat := if 12000 ≤ current then 2 else if 6000 ≤ current ∧ 2000 ≤ since then 1 else 0
  onlyIf (on && decide (n < 32) && code != 0) do
    match c.trip with
    | some (l, _, s) => onlyIf (p && l != leg % 2 && decide (t ≤ s + 1000)) do
        modVch g fun c => { c with trip := none }
        valveFault g 3 0
    | none => onlyIf (decide (1 ≤ c.phase ∧ c.phase ≤ 4 ∧ since < c.duty * 5)) (if p then do
          valveOpen g
          modVch g fun c => { c with trip := some (leg % 2, code, t) }
        else valveFault g code 0)

/-- A pair's trip that no other leg joined within 1 µs is the fault of its leg (R272). -/
def valveTripsEnd : Op Unit := do
  let t ← now
  let u ← units
  let over' (c : ValveCh) : Bool := match c.trip with | some (_, _, s) => decide (s + 1000 < t) | none => false
  each (fun n => do
    let c ← getVch n
    match c.trip with
    | some (l, k, _) => do
      modVch n fun c => { c with trip := none }
      valveFault n k l
    | none => pure ()) ((List.range 32).filter fun n => over' (u.vdrv.chs.getD n {}))

/-- Every channel of a list switches off at once. -/
def valvesOff (l : List Nat) : Op Unit := each valveOpen l

/-- The channels of bank `b`. -/
def bankChans (b : Nat) : List Nat := (List.range 8).map (· + 8 * b)

/-- Channel `n` starts from boost at its next reload, where its D is 1 then (R251, R274 to R276). -/
def valveRearm (n : Nat) : Op Unit := modVch n fun c => { c with restart := true }

/-- Channel `n`'s D as the registers stand (R252). -/
def liveDemand (n : Nat) : Op Bool := do
  let seton ← bf (F.VDRV_PROF_SETON n)
  let on ← bf (F.VDRV_CMD_ON n)
  let c ← getVch n
  pure (if seton then c.active != 0 else on)

/-- VCOIL_FAULT: the supply of bank `b`, in 10 mV, leaves its range (R275). -/
def opVcoilFault (b v : Nat) : Op Unit := rated 7000 v <|
  onlyIf (decide (b < 4) && decide (v < 600 ∨ 6600 < v)) do
    sf (F.VDRV_VCOIL_V b) (fitU 16 v)
    sb (F.VDRV_VCOIL_UV b) (decide (v < 600))
    sb (F.VDRV_VCOIL_OV b) (decide (6600 < v))
    sb F.VDRV_STAT_SUPPLY true
    each (fun n => do
      let g ← governs n
      let d ← liveDemand n
      onlyIf (g == n && d) (sb (F.VDRV_CSTAT_SUPPLY n) true)) (bankChans b)
    valvesOff (bankChans b)

/-- VCOIL_RETURN: the supply is back between 6.5 V and 65.0 V (R275). -/
def opVcoilReturn (b v : Nat) : Op Unit := rated 7000 v do
  let uv ← bf (F.VDRV_VCOIL_UV b)
  let ov ← bf (F.VDRV_VCOIL_OV b)
  onlyIf (decide (b < 4) && (uv || ov) && decide (650 ≤ v ∧ v ≤ 6500)) do
    sf (F.VDRV_VCOIL_V b) v
    sb (F.VDRV_VCOIL_UV b) false
    sb (F.VDRV_VCOIL_OV b) false
    each valveRearm (bankChans b)

/-- The domain of channel `n` switched on, or off, when it reports no fault (R251). -/
def valveDomain (n : Nat) (on : Bool) : Op Unit := do
  let held ← gf (F.VDRV_FAULT_CODE n)
  sbit R.VDRV_FLTMAP n (on && held != 0)
  if on then valveRearm n
  else do
    let ph ← gf (F.VDRV_CSTAT_PHASE n)
    let g ← governs n
    modVch n fun c => { c with duty := 0, target := 0, left := 0, waitFall := false, search := none, steady := 0, openRun := 0, ran := {}, trip := none }
    onlyIf (ph != 6 && g == n) (valvePhase n 0)

/-! ### Writes -/

/-- Before SET, ON or SETON of channel `n` changes: its values before this 10 ns cycle are kept for a reload in it (R257). `k` is how many
writes and commands this one counts as, `cmd` whether it is a command of R253. Where the reload of this cycle is past, they are
deferred now. -/
def valveNote (n k : Nat) (cmd : Bool) : Op Unit := do
  let t ← now
  let g ← governs n
  let c ← getVch n
  let set ← gf (F.VDRV_SET_SET n)
  let on ← bf (F.VDRV_CMD_ON n)
  let seton ← bf (F.VDRV_PROF_SETON n)
  let past : Bool := match c.reloadAt with | none => false | some r => decide (r / 10 = t / 10)
  onlyIf (g == n) do
    if past then valveDefer n k
    else if c.cycle = some (t / 10) then modVch n fun c => { c with writes := c.writes + k, cmdNew := c.cmdNew || cmd }
    else modVch n fun c => { c with cycle := some (t / 10), wasSet := set, wasOn := on, wasSeton := seton, wasCmd := c.cmd, writes := k, cmdNew := cmd }

/-- The setpoint buffer of channel `n` takes a value (R209 class 0x1). -/
def valveSet (n v : Nat) : Op Unit := do
  valveNote n 1 false
  sf (F.VDRV_SET_SET n) v

/-- The latched fault of channel `n` clears (R274). -/
def valveClear (n : Nat) : Op Unit := do
  let held ← gf (F.VDRV_FAULT_CODE n)
  onlyIf (held != 0) do
    sf (F.VDRV_FAULT_CODE n) 0
    sf (F.VDRV_FAULT_LEG n) 0
    sbit R.VDRV_FLTMAP n false
    let i ← gf (F.VDRV_MEAS_I n)
    valvePhase n (if i = 0 then 0 else 5)
    valveRearm n

/-- VDRV_CTL.EN as it is now written (R276). -/
def valveEnable (was isNow : Bool) : Op Unit := do
  onlyIf (was && !isNow) (valvesOff (List.range 32))
  onlyIf (!was && isNow) (each valveRearm (List.range 32))

/-- The pair bits a write of VDRV_PAIR may change (R250), from bit `p` down. -/
def pairBits (old new : Nat) : Nat → Op Nat
  | 0 => pure 0
  | p + 1 => do
    let r ← pairBits old new p
    let a ← gf (F.VDRV_PROF_TYPE (2 * p))
    let b ← gf (F.VDRV_PROF_TYPE (2 * p + 1))
    let ch := old.testBit p != new.testBit p
    let ok := a == 0 && b == 0
    onlyIf (ch && !ok) (sb F.VDRV_STAT_CFGREJ true)
    pure (r + bit (if ch && !ok then old.testBit p else new.testBit p) * 2 ^ p)

/-- A channel goes on with the profile that channel `c` runs, until the reload that switches it off. -/
def ValveCh.runs (x c : ValveCh) : ValveCh :=
  { x with phase := c.phase, boost := c.boost, holdI := c.holdI, left := c.left, waitFall := c.waitFall, target := c.target, duty := c.duty, since := c.since, ran := c.ran }

/-- What becomes of a leg's current at a pair's forming or dissolving (R256): channel `n` takes it over from channel `m`, whose profile
still runs or whose current still decays. -/
def legTakes (n m : Nat) : Op Unit := do
  let c ← getVch m
  let i ← gf (F.VDRV_MEAS_I n)
  let j ← gf (F.VDRV_MEAS_I m)
  if 1 ≤ c.phase ∧ c.phase ≤ 4 then do
    modVch n fun x => x.runs c
    valvePhase n c.phase
  else valvePhase n (if c.phase = 5 ∨ (c.phase = 6 ∧ (i ≠ 0 ∨ j ≠ 0)) then 5 else 0)

/-- Pair `p` is formed or dissolved: PAIRED, and the odd channel's registers of R661. At the forming the even channel takes over what the
odd one still runs or lets decay, where it has none itself, and a closing search on the odd channel ends; when the pair is dissolved, the
odd channel's coil model starts at the ambient, and its leg goes on as the pair did. -/
def pairShow (v p : Nat) : Op Unit := do
  let on := v.testBit p
  sb (F.VDRV_CSTAT_PAIRED (2 * p)) on
  if on then do
    let c ← getVch (2 * p)
    onlyIf (c.phase == 0) (legTakes (2 * p) (2 * p + 1))
    let c ← getVch (2 * p)
    let duty ← gf (F.VDRV_MEAS_DUTY (2 * p))
    modVch (2 * p + 1) fun x => { x with search := none, cmd := false, restart := false, steady := 0, openRun := 0, phase := 0, left := 0, duty := 0, target := 0, waitFall := false, ran := {} }
    sf (F.VDRV_MEAS_DUTY (2 * p + 1)) duty
    wr (R.VDRV_CSTAT (2 * p + 1)) 0
    sf (F.VDRV_CSTAT_PHASE (2 * p + 1)) c.phase
    wr (R.VDRV_TW (2 * p + 1)) 0
    wr (R.VDRV_RMEAS (2 * p + 1)) 0
    wr (R.VDRV_RESTCNT (2 * p + 1)) 0
    sf (F.VDRV_CLOSET_T (2 * p + 1)) 0xFFFF
  else do
    let rc ← gf (F.VDRV_RCOLD_RC (2 * p + 1))
    let held ← gf (F.VDRV_FAULT_CODE (2 * p + 1))
    if held ≠ 0 then valvePhase (2 * p + 1) 6 else legTakes (2 * p + 1) (2 * p)
    onlyIf (rc != 0) (coilStart (2 * p + 1))
  sb (F.VDRV_CSTAT_PAIRED (2 * p + 1)) on

/-- D of channel `n` with SETON as given, as a reload would take it from the registers (R252, R257). -/
def demandWith (n : Nat) (seton : Bool) : Op Bool := do
  let set ← gf (F.VDRV_SET_SET n)
  let on ← bf (F.VDRV_CMD_ON n)
  pure (if seton then set != 0 else on)

/-- A write of VDRV_PROF takes effect, and one of SETON that makes D rise is a command of R253 (R257): a write of a TYPE other than off, the present one too, is refused while D is 1 or current flows or decays (R256); the
odd channel of a pair only stores it (R249). -/
def valveProfile (n a : Nat) (new raw : Word) : Op Unit := do
  let old ← gf (F.VDRV_PROF_TYPE n)
  let d ← liveDemand n
  let c ← getVch n
  let g ← governs n
  let i ← gf (F.VDRV_MEAS_I n)
  let typ := (F.VDRV_PROF_TYPE n).of new
  let refuse : Bool := g == n && (F.VDRV_PROF_TYPE n).of (BitVec.ofNat 32 (raw.toNat / 65536)) != 0 && typ != 0 && (d || decide (1 ≤ c.phase ∧ c.phase ≤ 5) || (c.phase == 6 && i != 0))
  onlyIf refuse (sb F.VDRV_STAT_CFGREJ true)
  let was ← bf (F.VDRV_PROF_SETON n)
  let seton := (F.VDRV_PROF_SETON n).of new != 0
  let d0 ← demandWith n was
  let d1 ← demandWith n seton
  let held ← gf (F.VDRV_FAULT_CODE n)
  onlyIf (was != seton) (valveNote n (bit (!d0 && d1 && held == 0)) false)
  wr a (if refuse then (F.VDRV_PROF_TYPE n).put new old else new)

/-- A write of VDRV_CMD that selects ON: with ON = 1 it is a command of R253, or makes D rise for the next reload. -/
def valveCommand (n a : Nat) (new : Word) : Op Unit := do
  let seton ← bf (F.VDRV_PROF_SETON n)
  let typ ← gf (F.VDRV_PROF_TYPE n)
  let held ← gf (F.VDRV_FAULT_CODE n)
  let was ← bf (F.VDRV_CMD_ON n)
  let g ← governs n
  let on := (F.VDRV_CMD_ON n).of new != 0
  let cmd := on && !seton && (typ == 1 || typ == 2) && held == 0 && g == n
  valveNote n (bit (cmd || (on && !was && !seton && held == 0))) cmd
  wr a new
  onlyIf cmd (modVch n fun c => { c with cmd := true })

/-- A write of a VDRV control register takes effect: `new` is its word after the write, `raw` the word written. -/
def vdrvWrite (base i a : Nat) (new acts raw : Word) : Op Unit :=
  if base = R.VDRV_CTL then do
    let was ← bf F.VDRV_CTL_EN
    wr a new
    valveEnable was (F.VDRV_CTL_EN.of new != 0)
  else if base = R.VDRV_PAIR then do
    let old ← rd a
    let v ← pairBits old.toNat new.toNat 16
    wrN a v
    each (pairShow v) ((List.range 16).filter fun p => old.toNat.testBit p != v.testBit p)
  else if base = R.VDRV_PROF 0 then valveProfile i a new raw
  else if base = R.VDRV_SET 0 then do
    valveNote i 1 false
    wr a new
  else if base = R.VDRV_CMD 0 then do
    let g ← governs i
    onlyIf (acts.toNat.testBit 14 && g == i) (valveClear i)
    if raw.toNat.testBit 31 then valveCommand i a new else wr a new
  else if base = R.VDRV_RCOLD 0 then do
    let g ← governs i
    wr a new
    onlyIf (g == i) do
      coilStart i
      coilLimits i
  else wr a new

/-- The hold value of channel `n` is applied (R277, R342), as a write of SET and, where it makes D rise by ON, a command of R253; that of
the odd leg of a pair has no effect (R249). -/
def valveHold (n : Nat) : Op Unit := do
  let en ← bf (F.VDRV_HOLDV_HEN n)
  let on ← bf (F.VDRV_HOLDV_HON n)
  let s ← gf (F.VDRV_HOLDV_HSET n)
  let g ← governs n
  let seton ← bf (F.VDRV_PROF_SETON n)
  let was ← bf (F.VDRV_CMD_ON n)
  let held ← gf (F.VDRV_FAULT_CODE n)
  onlyIf (en && g == n) do
    valveNote n (1 + bit (on && !was && !seton && held == 0)) false
    sb (F.VDRV_CMD_ON n) on
    sf (F.VDRV_SET_SET n) s

/-- The valve drive after a reset of its die: no period runs, every channel is off. -/
def valveReset : Op Unit := modVdrv fun _ => {}

end Sys2Proof.Machine
end

