-- ==== Sys2Proof/Machine/Fan.lean ====
section
/-!
DEFINITION. Machine/Fan.lean: the blower drive (R279 to R295): period starts and ramps, tach pairs and stretches, stall and
current faults, and hold values.
-/
namespace Sys2Proof.Machine

/-- What blower channel `n` holds beside its registers. -/
def getFch (n : Nat) : Op FanCh := do let u ← units; pure (u.fan.chs.getD n {})

/-- Changes blower channel `n`. -/
def modFch (n : Nat) (f : FanCh → FanCh) : Op Unit :=
  modU fun u => { u with fan := { u.fan with chs := updAt u.fan.chs n f } }

/-- The power domain of blower channel `n` (R603). -/
def bgate (n : Nat) : Nat := 120 + n

/-- Blower channel `n` is off with applied duty 0 (R289, R292). -/
def fanOff (n : Nat) : Op Unit := do
  let target ← gf (F.FAN_APPLIED_TARGET n)
  sf (F.FAN_APPLIED_DUTY n) 0
  sf (F.FAN_SPEED_RPM n) 0
  sb (F.FAN_CSTAT_RAMPING n) (target != 0)
  sb (F.FAN_CSTAT_INSKIP n) false
  modFch n fun c => { c with onLen := 0, owed := 0, dir := 0, pairEdge := none }

/-- Blower channel `n` latches fault `code` (R288, R289); a channel that holds a fault latches no other. -/
def fanFault (n code : Nat) : Op Unit := do
  let held ← gf (F.FAN_FAULT_CODE n)
  if held ≠ 0 then pure ()
  else do
    sf (F.FAN_FAULT_CODE n) code
    sbit R.FAN_FLTMAP n true
    sbit R.FAN_STAT code true
    fanOff n
    raise Ev.fanFault [BitVec.ofNat 8 n, BitVec.ofNat 8 code]

/-! ### Skip bands (R283) -/

/-- The enabled skip bands of channel `n`. -/
def fanBands (n : Nat) : Nat → Op (List (Nat × Nat))
  | 0 => pure []
  | k + 1 => do
    let l ← fanBands n k
    let lo ← gf (F.FAN_SKIPLO_LO n k)
    let hi ← gf (F.FAN_SKIPHI_HI n k)
    pure (if lo < hi then l ++ [(lo, hi)] else l)

/-- A band widened by the bands that overlap it, `k` times over. -/
def bandWiden (l : List (Nat × Nat)) : Nat → Nat × Nat → Nat × Nat
  | 0, b => b
  | k + 1, b => bandWiden l k (l.foldl (fun b c => if c.1 < b.2 ∧ b.1 < c.2 then (min b.1 c.1, max b.2 c.2) else b) b)

/-- The united band that holds a duty strictly inside. -/
def bandOf (l : List (Nat × Nat)) (x : Nat) : Option (Nat × Nat) :=
  (l.find? fun b => b.1 < x ∧ x < b.2).map (bandWiden l 4)

/-- The effective target of R282. -/
def fanTarget (l : List (Nat × Nat)) (applied : Nat) (dir : Int) (t : Nat) : Nat :=
  match bandOf l applied with
  | some b =>
    if 0 < dir then b.2
    else if dir < 0 then b.1
    else if b.2 - applied ≤ applied - b.1 then b.2 else b.1
  | none =>
    match bandOf l t with
    | some b => if applied ≤ b.1 then b.1 else b.2
    | none => t

/-- `a` moved towards `t` by at most `rate`, or at once for rate 0. -/
def rampTo (a t rate : Nat) : Nat := if rate = 0 then t else if a ≤ t then min t (a + rate) else max t (a - rate)

/-! ### The end of a period -/

/-- Whether the period that channel `n` is in measures: TACHN counted it as one at its start, and is not 0 now (R286, R287). -/
def fanMeasures (n : Nat) : Op Bool := do
  let c ← getFch n
  let tn ← gf (F.FAN_CHCTL_TACHN n)
  pure (c.measuring && tn != 0)

/-- The switch of a stretched on-time opens at `e` (R286). An applied duty of 0 has no on-time to stretch. -/
def fanStretchClose (n e : Nat) : Op Unit := do
  let c ← getFch n
  let ms ← fanMeasures n
  let a ← gf (F.FAN_APPLIED_DUTY n)
  let fin := c.onStart + c.onLen
  onlyIf (a != 0 && ms && !c.stretchDone && decide (fin < e)) do
    sf (F.FAN_STRETCH_T n) (fitU 16 (nearest ((e : Int) - fin) 1000))
    modFch n fun c => { c with owed := e - fin, stretchDone := true }

/-- The latest end of a stretch of the on-time that runs (R286), but for the end of the period. -/
def fanStretchLimit (n : Nat) : Op Nat := do
  let c ← getFch n
  let ms ← gf (F.FAN_TACH_STRMAX n)
  pure (c.onStart + c.onLen + ms * 1000000)

/-- Whether the switch of channel `n` is on: in its on-time, stretched while a measuring period waits for its pair (R280, R286). -/
def fanIsOn (n : Nat) : Op Bool := do
  let t ← now
  let c ← getFch n
  let on ← domainOn (bgate n)
  let a ← gf (F.FAN_APPLIED_DUTY n)
  let lim ← fanStretchLimit n
  let ms ← fanMeasures n
  pure (on && a != 0 && (decide (t ≤ c.onStart + c.onLen) || (ms && !c.pairSeen && !c.stretchDone && decide (t ≤ lim))))

/-- Whether the stall test runs (R288). -/
def stallRuns (n : Nat) : Op Bool := do
  let t ← now
  let c ← getFch n
  let tn ← gf (F.FAN_CHCTL_TACHN n)
  let a ← gf (F.FAN_APPLIED_DUTY n)
  let md ← gf (F.FAN_STALLCFG_MINDUTY n)
  let su ← gf (F.FAN_STALLCFG_SPINUP n)
  pure (tn != 0 && decide (md * 100 ≤ a) && decide (c.graceAt + su * 1000000000 ≤ t))

/-- A measuring period ended without a pair (R287, R288, R290). -/
def fanMiss (n : Nat) : Op Unit := do
  let runs ← stallRuns n
  let stact ← bf (F.FAN_CHCTL_STACT n)
  let lim ← gf (F.FAN_STALLCFG_MISS n)
  let st ← bf (F.FAN_CSTAT_STALLED n)
  sb (F.FAN_CSTAT_NOTACH n) true
  sb F.FAN_STAT_NOTACH true
  cntSat (F.FAN_MISSCNT_CNT n) 1
  modFch n fun c => { c with misses := if runs then c.misses + 1 else 0 }
  let c ← getFch n
  onlyIf (runs && decide (max 1 lim ≤ c.misses)) do
    if !stact then fanFault n 5
    else onlyIf (!st) do
      sb F.FAN_STAT_STALL true
      sb (F.FAN_CSTAT_STALLED n) true
      sf (F.FAN_SPEED_RPM n) 0
      raise Ev.fanStall [BitVec.ofNat 8 n, 0]

/-- Current times time over the last `left` ns, in mA ns; before the recorded periods the channel carried none. -/
def currentSum : Nat → List (Nat × Nat) → Nat
  | _, [] => 0
  | left, x :: l => x.1 * min left x.2 + currentSum (left - x.2) l

/-- The currents of the period of `dur` ns that ended: FAN_MEAS, OVERLOAD over the last second, and OPEN over the on-time as the
stretch and its compensation left it (R286, R288). -/
def fanCurrents (n dur : Nat) (m : FanMeas) : Op Unit := do
  let c ← getFch n
  let a ← gf (F.FAN_APPLIED_DUTY n)
  let olen ← bf (F.FAN_CHCTL_OLEN n)
  let means := ((m.mean, dur) :: c.means).take 64
  let openNow : Bool := decide (1000 ≤ a ∧ m.mean * dur < 20 * min dur (c.onLen + c.owed))
  let run : Nat := if openNow then c.openRun + 1 else 0
  wr (R.FAN_MEAS n) (BitVec.ofNat 32 (fitU 16 m.peak * 65536 + fitU 16 m.mean))
  modFch n fun c => { c with means := means, openRun := run }
  onlyIf (decide (3300 * 1000000000 < currentSum 1000000000 means)) (fanFault n 3)
  onlyIf (olen && decide (8 ≤ run)) (fanFault n 4)

/-! ### The start of a period -/

/-- Writes of FAN_SET that landed in the cycle of a reload wait for the next one (R281). -/
def fanDefer (n k : Nat) : Op Unit :=
  onlyIf (decide (0 < k)) do
    cntSat F.FAN_DEFERCNT_CNT k
    sb F.FAN_STAT_DEFER true
    sb (F.FAN_CSTAT_DEFER n) true

/-- The ramp of R282 at a reload, and the on-time of the period that starts at `start` (R280, R281, R286). -/
def fanRamp (n start : Nat) : Op Unit := do
  let t ← now
  let u ← units
  let c ← getFch n
  let en ← bf F.FAN_CTL_EN
  let fault ← gf (F.FAN_FAULT_CODE n)
  let setNow ← gf (F.FAN_SET_SET n)
  let a ← gf (F.FAN_APPLIED_DUTY n)
  let rate ← gf (F.FAN_RAMP_RATE n)
  let bands ← fanBands n 4
  let cool ← bf F.FAN_COOL_EN
  let cch ← gf F.FAN_COOL_CH
  let floor ← gf F.FAN_COOLFLR_FLOOR
  let tn ← gf (F.FAN_CHCTL_TACHN n)
  let late := c.cycle == some (t / 10)
  let target := min 10000 (if late then c.wasSet else setNow)
  let cooled : Bool := cool && cch == n && decide (target < floor)
  let eff := fanTarget bands a c.dir (if cooled then floor else target)
  let run := en && fault == 0
  let a' := if run then rampTo a eff rate else 0
  let len := a' * u.fan.period / 10000 * 10
  let no := c.periodNo + 1
  onlyIf late (fanDefer n c.writes)
  wr (R.FAN_APPLIED n) (BitVec.ofNat 32 (eff * 65536 + a'))
  sb (F.FAN_CSTAT_RAMPING n) (a' != eff)
  sb (F.FAN_CSTAT_INSKIP n) (bandOf bands a').isSome
  sb (F.FAN_CSTAT_FLOORED n) cooled
  onlyIf (a' == 0) (sf (F.FAN_SPEED_RPM n) 0)
  modFch n fun c => { c with dir := (a' : Int) - a, onStart := start, onLen := len - c.owed, owed := 0, pairEdge := none, pairSeen := false, stretchDone := false, periodNo := no, measuring := tn != 0 && no % tn == 0, graceAt := if a = 0 ∧ a' ≠ 0 then t else c.graceAt }

/-- The reload of channel `n`: the period that ends at `start`, if one ran, is settled, and the next starts (R281, R282). Every Nth
period is a measuring one, whatever its duty (R286, R287). -/
def fanPeriod (n start : Nat) (ran : Bool) (m : FanMeas) : Op Unit := do
  let c ← getFch n
  let lim ← fanStretchLimit n
  let ms ← fanMeasures n
  onlyIf (!c.pairSeen) (fanStretchClose n (min start lim))
  onlyIf (ms && !c.pairSeen) (fanMiss n)
  fanCurrents n (if ran then start - c.onStart else 0) m
  fanRamp n start

/-- FAN_RELOAD: at the start of the channel's period, P cycles after the last. Channel 0's takes FAN_FREQ and places the others (R280,
R291). -/
def opFanReload (n : Nat) (m : FanMeas) : Op Unit := do
  let t ← now
  let c ← getFch n
  let on ← domainOn (bgate n)
  let f ← gf F.FAN_FREQ_F
  let start := c.nextAt.getD t
  let due : Bool := match c.nextAt with | none => n == 0 | some x => decide (x ≤ t)
  onlyIf (due && decide (n < 8)) do
    if n = 0 then do
      let p := 100000000 / max 20 (min 60 f)
      modU fun u => { u with fan := { u.fan with period := p } }
      each (fun k => modFch k fun c => { c with nextAt := some (start + k * (p / 8) * 10) }) (List.range 8)
      modFch 0 fun c => { c with nextAt := some (start + p * 10) }
    else modFch n fun c => { c with nextAt := none }
    modFch n fun c => { c with reloadAt := some t }
    onlyIf on (fanPeriod n start c.reloadAt.isSome m)

/-! ### Tach (R285 to R287) -/

/-- TACH_EDGE: a falling edge on FNn_TACH (R285, R287). A pair of a measuring period ends the run of misses. -/
def opTachEdge (n : Nat) : Op Unit := do
  let t ← now
  let c ← getFch n
  let inOn ← fanIsOn n
  let ms ← fanMeasures n
  let filt ← gf (F.FAN_TACH_FILT n)
  let ppr ← gf (F.FAN_CHCTL_PPR n)
  let spaced : Bool := match c.lastEdge with | none => true | some e => decide (e + filt * 10000 ≤ t)
  onlyIf (inOn && spaced && decide (c.onStart + 2000000 ≤ t)) do
    modFch n fun c => { c with lastEdge := some t, pairEdge := some t }
    match c.pairEdge with
    | none => pure ()
    | some e => do
      let r : Int := if t - e = 0 then (Config.freeOf 0 : Int) else nearest 60000000000 ((ppr + 1) * (t - e))
      sf (F.FAN_SPEED_RPM n) (fitU 16 r)
      sb (F.FAN_CSTAT_STALLED n) false
      onlyIf (!c.pairSeen) (fanStretchClose n t)
      modFch n fun c => { c with pairSeen := true, misses := if ms then 0 else c.misses }

/-- STRETCH_END: the stretch limit ends a measuring period's on-time (R286). -/
def opStretchEnd (n : Nat) : Op Unit := do
  let t ← now
  let c ← getFch n
  let lim ← fanStretchLimit n
  onlyIf (!c.pairSeen && decide (lim ≤ t)) (fanStretchClose n lim)

/-! ### Faults, enable and writes -/

/-- FAN_SHORT_TRIP: the current reaches 12,000 mA (R288). -/
def opFanShortTrip (n current : Nat) : Op Unit := do
  let on ← domainOn (bgate n)
  onlyIf (on && decide (n < 8) && decide (12000 ≤ current)) (fanFault n 1)

/-- FAN_OVERCUR_TIMEOUT: the current was limited at 6,000 mA for more than 20 ms of the on-time that runs (R288). -/
def opFanOvercurTimeout (n current : Nat) : Op Unit := do
  let t ← now
  let c ← getFch n
  let on ← fanIsOn n
  onlyIf (on && decide (n < 8) && decide (6000 ≤ current ∧ c.onStart + 20000000 < t)) (fanFault n 2)

/-- The latched fault of channel `n` clears (R289). -/
def fanClear (n : Nat) : Op Unit := do
  let t ← now
  let held ← gf (F.FAN_FAULT_CODE n)
  onlyIf (held != 0) do
    sf (F.FAN_FAULT_CODE n) 0
    sbit R.FAN_FLTMAP n false
    modFch n fun c => { c with graceAt := t, misses := 0, openRun := 0 }

/-- FAN_CTL.EN as it is now written (R292). -/
def fanEnable (was isNow : Bool) : Op Unit := do
  let t ← now
  onlyIf (was && !isNow) (each fanOff (List.range 8))
  onlyIf (!was && isNow) (each (fun n => modFch n fun c => { c with graceAt := t }) (List.range 8))

/-- Before FAN_SET of channel `n` changes, by `k` writes: its value before this 10 ns cycle is kept for a reload in it; where that reload is
past, the writes are deferred now (R281). -/
def fanNote (n k : Nat) : Op Unit := do
  let t ← now
  let c ← getFch n
  let set ← gf (F.FAN_SET_SET n)
  let past : Bool := match c.reloadAt with | none => false | some r => decide (r / 10 = t / 10)
  if past then fanDefer n k
  else if c.cycle = some (t / 10) then modFch n fun c => { c with writes := c.writes + k }
  else modFch n fun c => { c with cycle := some (t / 10), wasSet := set, writes := k }

/-- The setpoint of channel `n` takes a value (R209 class 0x2). -/
def fanSet (n v : Nat) : Op Unit := do
  fanNote n 1
  sf (F.FAN_SET_SET n) v

/-- A write of a FAN control register takes effect. -/
def fanWrite (base i a : Nat) (new acts : Word) : Op Unit :=
  if base = R.FAN_CTL then do
    let was ← bf F.FAN_CTL_EN
    wr a new
    fanEnable was (F.FAN_CTL_EN.of new != 0)
  else if base = R.FAN_SET 0 then do
    fanNote i 1
    wr a new
  else if base = R.FAN_CMD 0 then do
    wr a new
    onlyIf (acts.toNat.testBit 15) (fanClear i)
  else wr a new

/-- The hold value of channel `n` is applied (R293, R342). -/
def fanHold (n : Nat) : Op Unit := do
  let en ← bf (F.FAN_HOLDV_HEN n)
  let s ← gf (F.FAN_HOLDV_HSET n)
  onlyIf en (fanSet n s)

/-- The domain of channel `n` switched on, or off, when it carries no current and reports no fault (R251, R279). -/
def fanDomain (n : Nat) (on : Bool) : Op Unit := do
  let held ← gf (F.FAN_FAULT_CODE n)
  sbit R.FAN_FLTMAP n (on && held != 0)
  onlyIf (!on) do
    fanOff n
    modFch n fun c => { c with means := [], openRun := 0, measuring := false }

/-- The blower drive after a reset of its die. -/
def fanReset : Op Unit := modU fun u => { u with fan := {} }

end Sys2Proof.Machine
end

