-- ==== Sys2Proof/Machine/Bus.lean ====
section
/-!
DEFINITION. Machine/Bus.lean: the field buses (R475 to R502): controllers and fault confinement, transmit objects and windows,
attempts and their outcomes, receive objects, and Ledger requests.
-/
namespace Sys2Proof.Machine

/-- Bus `b` beside its registers. -/
def getBus (b : Nat) : Op FldBus := do let u ← units; pure (u.fld.buses.getD b {})

/-- Changes bus `b`. -/
def modBus (b : Nat) (f : FldBus → FldBus) : Op Unit :=
  modU fun u => { u with fld := { u.fld with buses := updAt u.fld.buses b f } }

/-- The states of FLD_BSTAT.STATE. -/
def busActive : Nat := 0
def busPassive : Nat := 1
def busBusOff : Nat := 2
def busDisabled : Nat := 3

/-- The data length that ISO 11898-1 assigns to a DLC (R480). -/
def dlcLen (fd : Bool) (dlc : Nat) : Nat :=
  if dlc ≤ 8 then dlc else if fd then [12, 16, 20, 24, 32, 48, 64].getD (dlc - 9) 64 else 8

/-! The outcomes of R489. -/
namespace Tx
def done : Nat := 1
def arbLost : Nat := 2
def bitErr : Nat := 3
def stuffErr : Nat := 4
def ackErr : Nat := 6
def noRoom : Nat := 8
def busOff : Nat := 9
def pathSw : Nat := 10
def disabled : Nat := 11
end Tx

/-! ### Bit timing (R477, R478, R485) -/

/-- Nominal and data bit times of bus `b` in 12.5 ns. -/
def bitTimes (b : Nat) : Op (Nat × Nat) := do
  let nb ← gf (F.FLD_NBT0_BRP b)
  let n1 ← gf (F.FLD_NBT0_TSEG1 b)
  let n2 ← gf (F.FLD_NBT1_TSEG2 b)
  let db ← gf (F.FLD_DBT0_BRP b)
  let d1 ← gf (F.FLD_DBT0_TSEG1 b)
  let d2 ← gf (F.FLD_DBT1_TSEG2 b)
  pure ((nb + 1) * (n1 + n2 + 3), (db + 1) * (d1 + d2 + 3))

/-- Whether the timing set of bus `b` is valid (R478). -/
def timingValid (b : Nat) : Op Bool := do
  let t ← bitTimes b
  let n1 ← gf (F.FLD_NBT0_TSEG1 b)
  let n2 ← gf (F.FLD_NBT1_TSEG2 b)
  let ns ← gf (F.FLD_NBT1_SJW b)
  let d1 ← gf (F.FLD_DBT0_TSEG1 b)
  let d2 ← gf (F.FLD_DBT1_TSEG2 b)
  let ds ← gf (F.FLD_DBT1_SJW b)
  pure (decide (80 ≤ t.1 ∧ t.2 ≤ t.1 ∧ 16 ≤ t.2 ∧ ns ≤ n1 ∧ ns ≤ n2 ∧ ds ≤ d1 ∧ ds ≤ d2))

/-- The worst-case time of a message in 12.5 ns (R485), with the frame forms of ISO 11898-1: bits up to the rate switch, bits
after it, the most stuff bits, the fixed stuff bits of an FD check field (the first stands in for a stuff bit after the last data bit),
and 34 nominal bit times. With BRS the rate switches at the sample points of BRS and of the CRC delimiter, which together last one bit at
each rate. -/
def worstTime (tn td : Nat) (fd brs ext : Bool) (n : Nat) : Nat :=
  if fd then
    let arb := if ext then 36 else 17
    let body := 5 + 8 * n
    let stA := (arb - 2) / 4
    let stAll := (arb + body - 2) / 4
    let check := if n ≤ 16 then 27 else 32
    (arb + stA + 9 + 34) * tn + (body + (stAll - stA) + check + 1) * (if brs then td else tn)
  else
    let stuffable := (if ext then 54 else 34) + 8 * n
    (stuffable + 10 + (stuffable - 1) / 4 + 34) * tn

/-- FLD_TXTWC of object `o` is computed anew (R485). -/
def txWorst (o : Nat) : Op Unit := do
  let b ← gf (F.FLD_TXCFG_BUS o)
  let fd ← bf (F.FLD_TXCFG_FDF o)
  let brs ← bf (F.FLD_TXCFG_BRS o)
  let ext ← bf (F.FLD_TXCFG_XID o)
  let dlc ← gf (F.FLD_TXCFG_DLC o)
  let t ← bitTimes b
  sf (F.FLD_TXTWC_TWC o) (fitU 16 (quot (worstTime t.1 t.2 fd brs ext (dlcLen fd dlc)) 8))

/-- FLD_TXTWC of every object of bus `b`. -/
def txWorstAll (b : Nat) : Op Unit :=
  each (fun o => do let c ← gf (F.FLD_TXCFG_BUS o); onlyIf (c == b) (txWorst o)) (List.range 256)

/-! ### The bits of a frame (R489, ISO 11898-1) -/

/-- The low `n` bits of a value, the highest first. -/
def bitsOf : Nat → Nat → List Bool
  | 0, _ => []
  | n + 1, v => v.testBit n :: bitsOf n v

/-- Bits of one field of R489 with their places, from place `k` on. -/
def placed (field : Nat) : Nat → List Bool → List ((Nat × Nat) × Bool)
  | _, [] => []
  | k, x :: l => ((field, k), x) :: placed field (k + 1) l

/-- CRC-15 of ISO 11898-1 over the bits of a classical frame. -/
def crc15 (l : List Bool) : Nat :=
  l.foldl (fun c x => (c * 2 % 2 ^ 15) ^^^ (if c.testBit 14 != x then 0x4599 else 0)) 0

/-- The bits of a frame that are stuffed as they come, with their places: up to the last data bit, and for a classical frame its CRC. -/
def stuffable (f : CanFrame) : List ((Nat × Nat) × Bool) :=
  let arb := false :: (if f.ext then bitsOf 11 (f.id / 2 ^ 18) ++ [true, true] ++ bitsOf 18 f.id ++ [false] else bitsOf 11 f.id ++ [false, false])
  let ctl := (if f.fd then [true, false, f.brs, f.esi] else if f.ext then [false, false] else [false]) ++ bitsOf 4 f.dlc
  let head := arb ++ ctl ++ f.data.flatMap fun x => bitsOf 8 x.toNat
  placed 0 0 arb ++ placed 1 0 ctl ++ placed 2 0 (f.data.flatMap fun x => bitsOf 8 x.toNat) ++
    (if f.fd then [] else placed 3 0 (bitsOf 15 (crc15 head)))

/-- The places in the order in which they are sent, a stuff bit with the place of the frame bit that it stands before: `run` bits of value
`v` stand before the list, and `after` is the place that follows it. -/
def stuffed (after : Nat × Nat) : Bool → Nat → List ((Nat × Nat) × Bool) → List (Nat × Nat)
  | _, _, [] => []
  | v, run, (p, x) :: l =>
    let n := if x = v then run + 1 else 1
    if n = 5 then
      (match l with
      | [] => if after.1 = 3 ∧ after.2 = 0 then [p] else [p, after]
      | (q, _) :: _ => p :: q :: stuffed after (!x) 1 l)
    else p :: stuffed after x n l

/-- The check field of an FD frame: a fixed stuff bit before it and after every fourth bit, with the place of the bit that follows. -/
def fixedStuffed (n : Nat) : List (Nat × Nat) := (List.range n).flatMap fun k => if k % 4 = 0 then [(3, k), (3, k)] else [(3, k)]

/-- The places of a frame's bits as they are sent, from SOF to the last bit of EOF. -/
def framePlaces (f : CanFrame) : List (Nat × Nat) :=
  let n := if f.fd then (if f.data.length ≤ 16 then 21 else 25) else 15
  stuffed (3, if f.fd then 0 else 15) true 0 (stuffable f) ++ (if f.fd then fixedStuffed n else []) ++ [(3, n), (4, 0), (4, 1)] ++
    (List.range 7).map fun k => (5, k)

/-- Nominal and data bit times of bus `b`, each as the part before its sample point and the part after it, in 12.5 ns. -/
def phaseTimes (b : Nat) : Op ((Nat × Nat) × (Nat × Nat)) := do
  let t ← bitTimes b
  let nb ← gf (F.FLD_NBT0_BRP b)
  let n2 ← gf (F.FLD_NBT1_TSEG2 b)
  let db ← gf (F.FLD_DBT0_BRP b)
  let d2 ← gf (F.FLD_DBT1_TSEG2 b)
  pure ((t.1 - (nb + 1) * (n2 + 1), (nb + 1) * (n2 + 1)), (t.2 - (db + 1) * (d2 + 1), (db + 1) * (d2 + 1)))

/-- A frame's bits as they are sent, each with its time in 12.5 ns: with BRS the data rate holds from the sample point of BRS to that of
the CRC delimiter. -/
def frameTimes (f : CanFrame) (q : (Nat × Nat) × (Nat × Nat)) : List ((Nat × Nat) × Nat) :=
  let delim := if f.data.length ≤ 16 then 21 else 25
  (framePlaces f).map fun p =>
    (p, if (f.fd && f.brs) = false ∨ p.1 = 0 ∨ 4 ≤ p.1 ∨ (p.1 = 1 ∧ p.2 < 2) then q.1.1 + q.1.2
      else if p.1 = 1 ∧ p.2 = 2 then q.1.1 + q.2.2
      else if p.1 = 3 ∧ p.2 = delim then q.2.1 + q.1.2
      else q.2.1 + q.2.2)

/-- The place of the bit that is sent `dt` half nanoseconds after SOF. -/
def sentPlace : List ((Nat × Nat) × Nat) → Nat → Nat × Nat
  | [], _ => (5, 6)
  | (p, d) :: l, dt => if dt < 25 * d then p else sentPlace l (dt - 25 * d)

/-! ### Object data (R481) -/

/-- The 64 data bytes of words from `w`. -/
def objBytes (o : Nat) : Nat → Op (List Byte)
  | 0 => pure []
  | k + 1 => do
    let l ← objBytes o k
    let w ← rd (R.FLD_TXDATA o k)
    pure (l ++ leBytes 4 w.toNat)

/-- Stores 64 bytes in an object's data words. -/
def objStore (o : Nat) (d : List Byte) : Op Unit :=
  each (fun k => wrN (R.FLD_TXDATA o k) (leAt d (4 * k) 4)) (List.range 16)

/-- Writes the first bytes of an object's data: PEND is set when a byte changes, or always where `force` says so (R481, R500). -/
def objPut (o : Nat) (d : List Byte) (force : Bool) : Op Unit := do
  let old ← objBytes o 16
  let new := patch old 0 d
  objStore o new
  onlyIf (force || new != old) (sb (F.FLD_TXSTAT_PEND o) true)

/-- A 16-bit value goes to bytes 0 and 1 (R209 class 0x3, R437). -/
def objSet (o v : Nat) : Op Unit := onlyIf (decide (o < 256)) (objPut o (leBytes 2 v) false)

/-- The hold value of object `o` is applied (R500). -/
def objHold (o : Nat) : Op Unit := do
  let en ← bf (F.FLD_TXOPT_HEN o)
  let v ← gf (F.FLD_TXHVAL_HVAL o)
  onlyIf en (objPut o (leBytes 2 v) true)

/-! ### Receive objects (R494 to R496) -/

/-- Whether receive object `o` is stale (R496). -/
def rxStale (o : Nat) : Op Bool := do
  let t ← now
  let u ← units
  let en ← bf (F.FLD_RXCFG_EN o)
  let b ← gf (F.FLD_RXCFG_BUS o)
  let lim ← gf (F.FLD_RXCFG_STALE o)
  let st ← gf (F.FLD_BSTAT_STATE b)
  let late : Bool := match u.fld.rxLast.find? (fun x => x.1 = o) with
    | none => true
    | some x => decide (x.2 + lim * 10000000 ≤ t)
  pure (!en || decide (busBusOff ≤ st) || (lim != 0 && late))

/-- FLD_RXSTAT.STALE of object `o` as it stands; an object that becomes stale sets FLD_STAT.STALE. -/
def rxShow (o : Nat) : Op Unit := do
  let was ← bf (F.FLD_RXSTAT_STALE o)
  let s ← rxStale o
  sb (F.FLD_RXSTAT_STALE o) s
  onlyIf (s && !was) (sb F.FLD_STAT_STALE true)

/-- The receive objects of bus `b`. -/
def rxShowBus (b : Nat) : Op Unit :=
  each (fun o => do let c ← gf (F.FLD_RXCFG_BUS o); onlyIf (c == b) (rxShow o)) (List.range 256)

/-- Whether receive object `o` takes a frame of bus `b` (R494). -/
def rxMatch (b : Nat) (f : CanFrame) (o : Nat) : Op Bool := do
  let en ← bf (F.FLD_RXCFG_EN o)
  let bus ← gf (F.FLD_RXCFG_BUS o)
  let xid ← bf (F.FLD_RXCFG_XID o)
  let fdok ← bf (F.FLD_RXCFG_FDOK o)
  let clok ← bf (F.FLD_RXCFG_CLOK o)
  let il ← gf (F.FLD_RXIDL_ID o)
  let ih ← gf (F.FLD_RXIDH_ID o)
  let ml ← gf (F.FLD_RXMSKL_M o)
  let mh ← gf (F.FLD_RXMSKH_M o)
  let m := if xid then mh * 65536 + ml else ml % 2048
  let i := ih * 65536 + il
  pure (en && bus == b && xid == f.ext && decide (f.id &&& m = i &&& m) && (if f.fd then fdok else clok))

/-- The lowest-numbered object of a list that takes a frame. -/
def rxFind (b : Nat) (f : CanFrame) : List Nat → Op (Option Nat)
  | [] => pure none
  | o :: l => do
    let m ← rxMatch b f o
    if m then pure (some o) else rxFind b f l

/-- Object `o` takes a frame (R495). -/
def rxTake (o : Nat) (f : CanFrame) : Op Unit := do
  let t ← now
  let q ← gf (F.FLD_RXSTAT_SEQ o)
  let d := padTo 64 (f.data.take 64)
  each (fun k => wrN (R.FLD_RXDATA o k) (leAt d (4 * k) 4)) (List.range 16)
  sb (F.FLD_RXSTAT_FDF o) f.fd
  sb (F.FLD_RXSTAT_BRS o) f.brs
  sb (F.FLD_RXSTAT_ESI o) f.esi
  sf (F.FLD_RXSTAT_DLC o) f.dlc
  sf (F.FLD_RXSTAT_SEQ o) (q + 1)
  sf (F.FLD_RXRID_ID o) f.id
  modU fun u => { u with fld := { u.fld with rxLast := (o, t) :: u.fld.rxLast.filter (fun x => x.1 ≠ o) } }
  rxShow o

/-! ### Outcomes (R488, R489) -/

/-- The outcome of a message of bus `b`: FLD_TXSTAT, the counter, and PEND where its data was never sent. -/
def txOutcome (b : Nat) (m : TxMsg) (code field pos : Nat) (tried repend : Bool) : Op Unit := do
  let o := m.obj
  let a ← gf (F.FLD_TXSTAT_ATT o)
  sf (F.FLD_TXSTAT_OUT o) code
  sf (F.FLD_TXSTAT_FIELD o) field
  sf (F.FLD_TXSTAT_BITPOS o) pos
  onlyIf tried (sf (F.FLD_TXSTAT_ATT o) (a + 1))
  onlyIf repend (sb (F.FLD_TXSTAT_PEND o) true)
  if code = Tx.done then cntWrap (F.FLD_OKCNT_CNT b) 1 else cntWrap (F.FLD_FAILCNT_CNT b) 1
  onlyIf (tried && code != Tx.done) (sb F.FLD_STAT_FAIL true)
  onlyIf (code == Tx.noRoom) (sb F.FLD_STAT_NOROOM true)

/-- Ledger response `r` of bus `b` is not sent (R498). -/
def replyFail (b : Nat) (r : Reply) : Op Unit := do
  cntSat (F.FLD_LRFAIL_CNT b) 1
  sb F.FLD_STAT_LRFAIL true
  poolGive r.buf

/-- An attempt with response `r` fails (R488). -/
def replyAttemptFail (b : Nat) (r : Reply) : Op Unit := do
  cntWrap (F.FLD_FAILCNT_CNT b) 1
  sb F.FLD_STAT_FAIL true
  replyFail b r

/-- Every message not yet attempted and every reply window of bus `b` ends with an outcome (R479, R490, R516). -/
def busEnd (b code : Nat) : Op Unit := do
  let c ← getBus b
  modBus b fun c => { c with queue := [], replies := [] }
  each (fun m => txOutcome b m code 0 0 false true) c.queue
  each (replyFail b) c.replies

/-- The place of a frame's bit that is sent at a moment: a message of which no error is known is on its way through its frame; an error
frame may run already, of which the table of operations tells only at its end, and then the place is in FIELD 6 (assumption log 98). -/
def attemptPlace (b : Nat) (fr : CanFrame) : Op (Nat × Nat) := do
  let t ← now
  let c ← getBus b
  let q ← phaseTimes b
  let f ← free
  pure (if f % 2 = 0 then sentPlace (frameTimes fr q) ((t - c.sofAt) * 2) else (6, f / 2 % 512))

/-- Whether an attempt that has come to a place has passed its FDF-to-res transition: the res bit is the second of the control field of
an FD frame. -/
def resPassed (field pos : Nat) : Bool := decide (2 ≤ field ∨ (field = 1 ∧ 1 ≤ pos))

/-- The delay of the module's own edge, measured at the FDF-to-res transition of an FD frame while FLD_TDC.EN is set (R479): the spec gives
the plant's delay no value. `reached` says whether the attempt came to that transition. -/
def busDelay (b : Nat) (fd reached : Bool) : Op Unit := do
  let en ← bf (F.FLD_TDC_EN b)
  if en && fd && reached then do
    let v ← free
    sf (F.FLD_BSTAT_TDCV b) (v % 128)
  else pure ()

/-- The transition in an attempt that is cut at a place: where an error frame may run, the place of its error is not known, and neither
is whether the attempt came to it. -/
def cutDelay (b : Nat) (f : CanFrame) (x : Nat × Nat) : Op Unit := do
  let v ← (if x.1 = 6 then free else pure 0)
  busDelay b f.fd (resPassed x.1 x.2 && v % 2 == 0)

/-- The attempt in progress on bus `b` ends with an outcome, at the bit that is sent (R479, R489, R513). -/
def busEndSending (b code : Nat) (repend : Bool) : Op Unit := do
  let c ← getBus b
  modBus b fun c => { c with sending := none, replySending := none }
  match c.sending with
  | none => pure ()
  | some m => do
    let x ← attemptPlace b m.frame
    cutDelay b m.frame x
    txOutcome b m code x.1 x.2 true repend
  match c.replySending with
  | none => pure ()
  | some r => do
    let x ← attemptPlace b r.frame
    cutDelay b r.frame x
    replyAttemptFail b r

/-! ### Fault confinement (R490, R491) -/

/-- Bus `b` enters bus-off (R490). -/
def busGoOff (b : Nat) : Op Unit := do
  sf (F.FLD_BSTAT_STATE b) busBusOff
  sbit R.FLD_STAT (12 + b) true
  busEnd b Tx.busOff
  rxShowBus b
  raise Ev.fbBusoff [BitVec.ofNat 8 b, 0, 0, 0]

/-- The state that the error counters of bus `b` call for. -/
def busSettle (b tec rec' : Nat) : Op Unit := do
  let st ← gf (F.FLD_BSTAT_STATE b)
  sf (F.FLD_BECNT_TEC b) (min tec 511)
  sf (F.FLD_BECNT_REC b) (min rec' 255)
  if busBusOff ≤ st then pure ()
  else if 255 < tec then busGoOff b
  else if 127 < tec ∨ 127 < rec' then do
    sf (F.FLD_BSTAT_STATE b) busPassive
    onlyIf (st == busActive) (sbit R.FLD_STAT (8 + b) true)
  else sf (F.FLD_BSTAT_STATE b) busActive

/-- The controller of bus `b` is error-active with both counters 0 (R479, R491). -/
def busUp (b : Nat) : Op Unit := do
  modBus b fun c => { c with waiting := none, recover := none }
  sb (F.FLD_BSTAT_RECOVERING b) false
  sf (F.FLD_BECNT_TEC b) 0
  sf (F.FLD_BECNT_REC b) 0
  sf (F.FLD_BSTAT_STATE b) busActive
  rxShowBus b

/-- RECOVER on bus `b`: answers whether the bus was in bus-off (R491). -/
def busRecover (b : Nat) : Op Bool := do
  let st ← gf (F.FLD_BSTAT_STATE b)
  let t ← now
  let c ← getBus b
  onlyIf (st == busBusOff && c.recover.isNone) do
    modBus b fun c => { c with recover := some t }
    sb (F.FLD_BSTAT_RECOVERING b) true
  pure (st == busBusOff)

/-- The path domain of field bus `b` that is active (R505, R603). -/
def busDomain (b : Nat) : Op Nat := do let p ← gf (F.NET_LSTAT_ACTIVE (b + 1)); pure (130 + 2 * b + p)

/-- FLD_BCTL.EN of bus `b` is set with a valid timing set (R479). -/
def busStart (b : Nat) : Op Unit := do
  let t ← now
  let d ← busDomain b
  domainSwitch d true
  modBus b fun c => { c with waiting := some t, recover := none }
  sb (F.FLD_BCTL_EN b) true

/-- FLD_BCTL.EN of bus `b` is cleared (R479). -/
def busStop (b : Nat) : Op Unit := do
  let d ← busDomain b
  sb (F.FLD_BCTL_EN b) false
  domainSwitch d false
  busEndSending b Tx.disabled true
  busEnd b Tx.disabled
  modBus b fun c => { c with waiting := none, recover := none }
  sb (F.FLD_BSTAT_RECOVERING b) false
  sf (F.FLD_BECNT_TEC b) 0
  sf (F.FLD_BECNT_REC b) 0
  sf (F.FLD_BSTAT_STATE b) busDisabled
  rxShowBus b

/-- `k` recessive sequences of 11 nominal bits on bus `b`, in ns. -/
def recessive (b k : Nat) : Op Nat := do let t ← bitTimes b; pure (k * 11 * t.1 * 25 / 2)

/-- Whether bus `b` is in a switch-over's gap, when its controller samples no path (R513). -/
def busGap (b : Nat) : Op Bool := do let u ← units; pure (u.net.links.getD (b + 1) {}).gap

/-- A gap of `n` ns ends on bus `b` at `t`: the count of 11 recessive bits starts anew (R479), and the occurrences that bus-off waits for
were seen only outside the gap (R491). -/
def busGapEnd (b t n : Nat) : Op Unit :=
  modBus b fun c => { c with waiting := c.waiting.map fun _ => t, recover := c.recover.map fun s => min t (s + n) }

/-- BUS_INTEGRATED: the controller that waits has seen 11 consecutive recessive bits (R479). -/
def opBusIntegrated (b : Nat) : Op Unit := do
  let t ← now
  let c ← getBus b
  let d ← recessive b 1
  let g ← busGap b
  match c.waiting with
  | none => pure ()
  | some s => onlyIf (!g && decide (s + d ≤ t)) (busUp b)

/-- BUS_RECOVERY_DONE: 128 occurrences of 11 consecutive recessive bits were seen (R491). -/
def opBusRecoveryDone (b : Nat) : Op Unit := do
  let t ← now
  let c ← getBus b
  let d ← recessive b 128
  let g ← busGap b
  match c.recover with
  | none => pure ()
  | some s => onlyIf (!g && decide (s + d ≤ t)) (busUp b)

/-- RECEIVER_ERROR: the controller detects an error as receiver (R489). A receiver adds 8 for a bit error in its own error or overload
flag, else 1, and 8 for each dominant bit or run of them after its flag that counts, as ISO 11898-1 has it; code 0 is such bits alone,
after an overload flag, which are no error. -/
def opReceiverError (b code field : Nat) (bit : ErrorBit) : Op Unit := do
  let st ← gf (F.FLD_BSTAT_STATE b)
  let tec ← gf (F.FLD_BECNT_TEC b)
  let r ← gf (F.FLD_BECNT_REC b)
  let g ← busGap b
  onlyIf (decide (b < 4 ∧ st ≤ busPassive) && !g) do
    onlyIf (code != 0) (wr (R.FLD_BLERR b) (BitVec.ofNat 32 (code % 16 * 2 ^ 28 + field % 8 * 2 ^ 24 + bit.pos % 512)))
    busSettle b tec (r + (if code = 0 then 0 else if field = 6 ∧ code = Tx.bitErr then 8 else 1) + 8 * bit.runs)

/-- The receive error counter after a frame received without error, as ISO 11898-1 has it: from above 127 it falls to a value
between 119 and 127 that the standard leaves open. -/
def recAfter (r : Nat) : Op Nat :=
  if 127 < r then do
    let v ← free
    pure (119 + v % 9)
  else pure (r - 1)

/-! ### Cycles and windows (R482 to R486) -/

/-- The cycle of bus `b` in 10 µs. -/
def busCycle (b : Nat) : Op Nat := do let c ← gf (F.FLD_CYC_CYC b); pure (max 100 c)

/-- Offset and length of windows below `k`. -/
def busWindows (b : Nat) : Nat → Op (List (Nat × Nat))
  | 0 => pure []
  | k + 1 => do
    let l ← busWindows b k
    let o ← gf (F.FLD_WOFF_OFF b k)
    let n ← gf (F.FLD_WLEN_LEN b k)
    pure (l ++ [(o, n)])

/-- Whether a cycle starts in the 10 µs numbered `k`: by the period and phase that the running cycle took at its start, and for the
first by the registers (R482, R501). -/
def cycleDue (c : FldBus) (cyc ph k : Nat) : Bool :=
  match c.cycleW with
  | none => decide (k % cyc = ph % cyc)
  | some k0 => decide (k ≠ k0 ∧ k % c.cyc = c.cph % c.cyc)

/-- BUS_CYCLE_START: at the wall time of R482; the period, the phase and the windows are taken (R501), and the cycle lasts to the next
start that they give. The windows run in hardware, whether or not RT1 runs (R31, R338). -/
def opBusCycleStart (b : Nat) : Op Unit := do
  let t ← now
  let w ← wallTime
  let cyc ← busCycle b
  let ph ← gf (F.FLD_CPH_PH b)
  let c ← getBus b
  let k := w / 10000
  onlyIf (decide (b < 4 ∧ w % 10000 < 4) && cycleDue c cyc ph k) do
    let ws ← busWindows b 32
    modBus b fun c => { c with cycleW := some k, cycleAt := t, cycleN := (k - ph % cyc) / cyc, cycleLen := cyc - (k + cyc - ph % cyc) % cyc, cyc := cyc, cph := ph, wins := ws, opened := [] }
    copyWrite (b + 1) .schedule 0

/-- Ledger responses that a bus holds, the one being sent among them. -/
def repliesHeld (c : FldBus) : Nat := c.replies.length + c.replySending.toList.length

/-- Whether the field transmit queue of bus `b` is at its limit (R567 level 2): a message of every transmit object of the bus, and a response
to each of the 62 nodes, what is being sent among them: it holds its buffer until its outcome (R569). -/
def busQueueFull (x : Block) (b : Nat) : Bool :=
  let c := x.u.fld.buses.getD b {}
  let objs := (List.range 256).filter fun o => (F.FLD_TXCFG_BUS o).of (x.regs.get (R.FLD_TXCFG o)) == b && (F.FLD_TXCFG_MODE o).of (x.regs.get (R.FLD_TXCFG o)) != 0
  decide (62 ≤ repliesHeld c) && objs.all fun o => (c.sending.toList ++ c.queue).any fun m => m.obj == o

/-- POOL_QSTAT follows the field transmit queues, as a message or a response enters one and at each cycle of the module's clock. -/
def busLevelShow : Op Unit := do
  let x ← blockOp
  let was ← gbit R.POOL_QSTAT 1
  onlyIf (was || x.u.fld.buses.any fun c => decide (62 ≤ repliesHeld c)) do
    let full := (List.range 4).any (busQueueFull x)
    onlyIf (full && !was) (levelFull 2)
    onlyIf (!full && was) (levelFree 2)

/-- A frame's place in arbitration: the lower wins. -/
def arbKey (f : CanFrame) : Nat := if f.ext then f.id / 2 ^ 18 * 2 ^ 20 + 2 ^ 19 + f.id % 2 ^ 18 else f.id % 2 ^ 11 * 2 ^ 20

/-- Puts a message into the queue in the order in which it would win arbitration (R484). -/
def txInsert : List TxMsg → TxMsg → List TxMsg
  | [], m => [m]
  | x :: l, m => if arbKey m.frame < arbKey x.frame then m :: x :: l else x :: txInsert l m

/-- The frame of object `o` as it stands (R483). -/
def objFrame (o : Nat) : Op CanFrame := do
  let fd ← bf (F.FLD_TXCFG_FDF o)
  let brs ← bf (F.FLD_TXCFG_BRS o)
  let ext ← bf (F.FLD_TXCFG_XID o)
  let dlc ← gf (F.FLD_TXCFG_DLC o)
  let il ← gf (F.FLD_TXIDL_ID o)
  let ih ← gf (F.FLD_TXIDH_ID o)
  let d ← objBytes o 16
  pure { ext := ext, fd := fd, remote := false, brs := fd && brs, esi := false, id := if ext then ih * 65536 + il else il % 2048, dlc := dlc, data := d.take (dlcLen fd dlc) }

/-- Object `o` at the opening of window `w` of bus `b` (R483, R490). -/
def objDue (b w ends o : Nat) : Op Unit := do
  let c ← getBus b
  let mode ← gf (F.FLD_TXCFG_MODE o)
  let bus ← gf (F.FLD_TXCFG_BUS o)
  let win ← gf (F.FLD_TXCFG_WIN o)
  let div ← gf (F.FLD_TXOPT_DIV o)
  let pend ← bf (F.FLD_TXSTAT_PEND o)
  let st ← gf (F.FLD_BSTAT_STATE b)
  let twc ← gf (F.FLD_TXTWC_TWC o)
  let due := mode != 0 && bus == b && win == w && c.cycleN % (div + 1) == 0 && (mode == 1 || pend)
  onlyIf due do
    let f ← objFrame o
    if st = busBusOff then txOutcome b ⟨o, f, w, ends, twc⟩ Tx.busOff 0 0 false false
    else onlyIf (decide (st ≤ busPassive)) do
      sb (F.FLD_TXSTAT_PEND o) false
      modBus b fun c => { c with queue := txInsert c.queue ⟨o, f, w, ends, twc⟩ }

/-- WINDOW_OPEN: window `w` of the cycle that runs opens, once, before it ends (R482). -/
def opWindowOpen (b w : Nat) : Op Unit := do
  let t ← now
  let c ← getBus b
  let x := c.wins.getD w (0, 0)
  onlyIf (decide (b < 4 ∧ c.cycleW ≠ none ∧ x.2 ≠ 0 ∧ x.1 < c.cycleLen ∧ w ∉ c.opened ∧ c.cycleAt + x.1 * 10000 ≤ t ∧ t < c.cycleAt + min (x.1 + x.2) c.cycleLen * 10000)) do
    modBus b fun c => { c with opened := w :: c.opened }
    copyWrite (b + 1) .schedule (c.opened.length + 1)
    each (objDue b w (c.cycleAt + min (x.1 + x.2) c.cycleLen * 10000)) (List.range 256)
    busLevelShow

/-! ### Attempts (R484, R488) -/

/-- Whether a message of a queue can no longer start: the first message of its window no longer fits what the window has left. -/
def tooLate (t : Nat) (q : List TxMsg) (m : TxMsg) : Bool :=
  match q.find? (fun x => x.win = m.win ∧ x.ends = m.ends) with
  | none => false
  | some x => decide (x.ends < t + x.twc * 100)

/-- When the next message of a window no longer fits, every remaining message of that window takes NOROOM at once (R484). -/
def noRoomSweep (b : Nat) : Op Unit := do
  let t ← now
  let c ← getBus b
  let late := c.queue.filter (tooLate t c.queue)
  onlyIf (!late.isEmpty) do
    modBus b fun x => { x with queue := c.queue.filter (fun m => !tooLate t c.queue m) }
    each (fun m => txOutcome b m Tx.noRoom 0 0 false false) late

/-- Whether bus `b` can start an attempt: its controller is on the bus, no attempt runs, and its link is neither in a
switch-over gap nor within the first 11 bits after one (R513). -/
def busFree (b : Nat) : Op Bool := do
  let u ← units
  let c ← getBus b
  let st ← gf (F.FLD_BSTAT_STATE b)
  let t ← now
  let l := u.net.links.getD (b + 1) {}
  pure (decide (b < 4 ∧ st ≤ busPassive ∧ l.clearAt ≤ t) && c.sending.isNone && c.replySending.isNone && !l.gap)

/-- The module's SOF on bus `b`. -/
def busSof (b : Nat) (f : CanFrame) : Op Unit := do
  let p ← gf (F.FLD_BSTAT_PATH b)
  emit (.canStart b p f)

/-- TX_ATTEMPT_START: at a bus idle, the winning message is attempted, unless a Ledger response goes first (R484, R498). -/
def opTxAttemptStart (b : Nat) : Op Unit := do
  let t ← now
  let ok ← busFree b
  let c ← getBus b
  onlyIf (ok && c.replies.isEmpty) do
    noRoomSweep b
    let c ← getBus b
    let st ← gf (F.FLD_BSTAT_STATE b)
    match c.queue with
    | [] => pure ()
    | m :: l => do
      let f := { m.frame with esi := st == busPassive }
      modBus b fun c => { c with queue := l, sending := some { m with frame := f }, sofAt := t }
      busSof b f

/-- Whether ISO 11898-1 excepts a transmitter's error from the count: a missing ACK in error-passive without a dominant bit in the
passive flag, and a stuff error before the RTR bit, where a recessive stuff bit was sent and read dominant. -/
def txExcepted (passive ext : Bool) (code field pos : Nat) (after : AfterError) : Bool :=
  (code == Tx.ackErr && passive && !after.dominant) || (code == Tx.stuffErr && field == 0 && decide (pos ≤ if ext then 32 else 12))

/-- What an error or overload frame adds to the transmit error counter: 8 for each error in it and each run of dominant bits. -/
def afterCount (a : AfterError) : Nat := 8 * (a.errors.length + a.runs)

/-- The effect of an attempt's end on the error counters and FLD_BLERR (R489, ISO 11898-1): a success takes 1 off, an error adds 8 but
for the exceptions, and so does each further error and each run of dominant bits in the error or overload frame that follows. -/
def txCounters (b : Nat) (ext : Bool) (o : TxEnd) : Op Unit := do
  let st ← gf (F.FLD_BSTAT_STATE b)
  let tec ← gf (F.FLD_BECNT_TEC b)
  let r ← gf (F.FLD_BECNT_REC b)
  match o with
  | .success after => do
    match after.errors.getLast? with
    | none => pure ()
    | some e => wr (R.FLD_BLERR b) (BitVec.ofNat 32 (e.1 % 16 * 2 ^ 28 + 2 ^ 27 + 6 * 2 ^ 24 + e.2 % 512))
    busSettle b (tec - 1 + afterCount after) r
  | .lostArbitration _ => pure ()
  | .error code field pos after => do
    let x := match after.errors.getLast? with
      | none => (code, field, pos)
      | some e => (e.1, 6, e.2)
    wr (R.FLD_BLERR b) (BitVec.ofNat 32 (x.1 % 16 * 2 ^ 28 + 2 ^ 27 + x.2.1 % 8 * 2 ^ 24 + x.2.2 % 512))
    busSettle b (tec + (if txExcepted (st == busPassive) ext code field pos after then 0 else 8) + afterCount after) r

/-- Code, field and bit position of an attempt's end. -/
def txParts : TxEnd → Nat × Nat × Nat
  | .success _ => (Tx.done, 0, 0)
  | .lostArbitration p => (Tx.arbLost, 0, p)
  | .error c f p _ => (c, f, p)

/-- Whether an attempt reached its FDF-to-res transition. -/
def resReached : TxEnd → Bool
  | .success _ => true
  | .lostArbitration _ => false
  | .error _ field pos _ => resPassed field pos

/-- TX_ATTEMPT_END: the attempt of bus `b` ends (R488). -/
def opTxAttemptEnd (b : Nat) (o : TxEnd) : Op Unit := do
  let c ← getBus b
  match c.replySending with
  | some r => do
    modBus b fun c => { c with replySending := none }
    busDelay b r.frame.fd (resReached o)
    if (txParts o).1 = Tx.done then do
      cntWrap (F.FLD_OKCNT_CNT b) 1
      poolGive r.buf
    else replyAttemptFail b r
    txCounters b r.frame.ext o
  | none =>
    match c.sending with
    | none => pure ()
    | some m => do
      modBus b fun c => { c with sending := none }
      busDelay b m.frame.fd (resReached o)
      txOutcome b m (txParts o).1 (if (txParts o).1 = Tx.done then 5 else (txParts o).2.1) (if (txParts o).1 = Tx.done then 6 else (txParts o).2.2) true false
      txCounters b m.frame.ext o

/-! ### Ledger requests (R497, R498) -/

/-- Whether a response to `node` waits or is being sent on a bus: the queue holds one per node (R567). -/
def replyWaits (c : FldBus) (node : Nat) : Bool := c.replies.any (fun r => r.node == node) || c.replySending.any fun r => r.node == node

/-- A Ledger request from `node` on bus `b`, with its 16 bytes: `ask` takes a buffer for it, or it is not taken (R558, R565), and neither is
one of a node whose last response still waits (R567, assumption log 106); then the answer, which stays in that buffer, and its reply
window. -/
def busRequest (ask : Op (Option BufRef)) (b node : Nat) (d : List Byte) : Op Unit := do
  let c ← getBus b
  let buf ← (if replyWaits c node then pure none else ask)
  if buf.isNone then cntSat (F.FLD_RXDROP_CNT b) 1
  else do
  let t ← now
  let win ← gf F.FLD_LRWIN_WIN
  let base ← gf (F.FLD_LEDG_BASE b)
  let resp ← if leAt d 1 1 = node then fieldRequest b d
    else pure (padTo 10 (d.take 10) ++ leBytes 4 (leAt d 10 4) ++ leBytes 1 Fs.range ++ zeros 1)
  let f : CanFrame := { ext := false, fd := true, remote := false, brs := true, esi := false, id := base * 128 + 64 + node, dlc := 10, data := resp }
  modBus b fun c => { c with replies := c.replies ++ [⟨node, f, t + max 1 win * 10000, buf⟩] }
  busLevelShow

/-- LEDGER_RESPONSE_SEND: the module's one attempt with the oldest response, ahead of any window message (R498). -/
def opLedgerResponseSend (b : Nat) : Op Unit := do
  let ok ← busFree b
  let t ← now
  let c ← getBus b
  let st ← gf (F.FLD_BSTAT_STATE b)
  match c.replies with
  | [] => pure ()
  | r :: l => onlyIf (ok && decide (t < r.ends)) do
    let f := { r.frame with esi := st == busPassive }
    modBus b fun c => { c with replies := l, replySending := some { r with frame := f } }
    busSof b f

/-- LEDGER_REPLY_WINDOW_END: the response to a node that has not started by the end of its window is not sent (R498). -/
def opLedgerReplyWindowEnd (b node : Nat) : Op Unit := do
  let t ← now
  let c ← getBus b
  let over' := c.replies.filter fun r => r.node = node ∧ r.ends ≤ t
  modBus b fun c => { c with replies := c.replies.filter fun r => ¬ (r.node = node ∧ r.ends ≤ t) }
  each (replyFail b) over'

/-- A frame received without error (R494, R495, R497); `ask` takes the buffer of a Ledger request. -/
def canTake (ask : Op (Option BufRef)) (b : Nat) (f : CanFrame) : Op Unit := do
  let st ← gf (F.FLD_BSTAT_STATE b)
  let tec ← gf (F.FLD_BECNT_TEC b)
  let r ← gf (F.FLD_BECNT_REC b)
  let en ← bf (F.FLD_LEDG_EN b)
  let base ← gf (F.FLD_LEDG_BASE b)
  let gap ← busGap b
  onlyIf (decide (b < 4 ∧ st ≤ busPassive) && gap) (cntSat (F.NET_LOSTCNT_CNT (b + 1)) 1)
  onlyIf (decide (b < 4 ∧ st ≤ busPassive) && !gap) do
    let r' ← recAfter r
    busSettle b tec r'
    cntWrap (F.FLD_RXCNT_CNT b) 1
    if f.remote then cntSat (F.FLD_RXDROP_CNT b) 1
    else if en ∧ f.ext = false ∧ base * 128 < f.id ∧ f.id ≤ base * 128 + 62 then
      (if f.fd ∧ f.data.length = 16 then busRequest ask b (f.id - base * 128) f.data else cntSat (F.FLD_RXDROP_CNT b) 1)
    else do
      let o ← rxFind b f (List.range 256)
      match o with
      | none => cntSat (F.FLD_RXDROP_CNT b) 1
      | some o => rxTake o f

/-- CAN_FRAME_RECEIVED: a frame received without error. -/
def opCanFrameReceived (b : Nat) (f : CanFrame) : Op Unit := canTake (poolTake Client.fieldBus 1) b f

/-- A Ledger request that bus `b` receives from `node` as a frame of its Ledger identifier (R193). -/
def requestTake (ask : Op (Option BufRef)) (b node : Nat) (d : List Byte) : Op Unit := do
  let en ← bf (F.FLD_LEDG_EN b)
  let base ← gf (F.FLD_LEDG_BASE b)
  onlyIf (en && decide (1 ≤ node ∧ node ≤ 62 ∧ d.length = 16))
    (canTake ask b { ext := false, fd := true, remote := false, brs := true, esi := false, id := base * 128 + node, dlc := 10, data := d })

/-- A field request of one of the six operations of R194. -/
def opFieldRequest (op b node : Nat) (d : List Byte) : Op Unit :=
  onlyIf (decide (leAt d 0 1 = op)) (requestTake (poolTake Client.fieldBus 1) b node d)

/-- RX_STALE_TIMEOUT: the stale time of object `o` has passed (R496). -/
def opRxStaleTimeout (o : Nat) : Op Unit := onlyIf (decide (o < 256)) (rxShow o)

/-! ### Writes -/

/-- A receive filter register is written: each bus's engine has its copy (R504). -/
def filterCopy (a : Nat) (new : Word) : Op Unit := each (fun l => copyWrite l (.filter a) new.toNat) [1, 2, 3, 4]

/-- A write of an FLD control register takes effect: `new` is its word after the write. -/
def fldWrite (base i a : Nat) (new acts : Word) : Op Unit := do
  let en ← bf (F.FLD_BCTL_EN i)
  let old ← rd a
  if base = R.FLD_BCTL 0 then do
    let on := (F.FLD_BCTL_EN i).of new != 0
    let ok ← timingValid i
    if on && !en then (if ok then busStart i else sb F.FLD_STAT_CFGREJ true)
    else if !on && en then busStop i
    else pure ()
    onlyIf (acts.toNat.testBit 14) (do let _ ← busRecover i; pure ())
  else if base = R.FLD_NBT0 0 ∨ base = R.FLD_NBT1 0 ∨ base = R.FLD_DBT0 0 ∨ base = R.FLD_DBT1 0 ∨ base = R.FLD_TDC 0 then
    (if en then sb F.FLD_STAT_CFGREJ true
     else do
       wr a new
       txWorstAll i)
  else if base = R.FLD_TXCFG 0 then do
    wr a (if (F.FLD_TXCFG_MODE i).of new = 3 then (F.FLD_TXCFG_MODE i).put new ((F.FLD_TXCFG_MODE i).of old) else new)
    txWorst i
  else if base = R.FLD_RXCFG 0 then do
    wr a new
    onlyIf ((F.FLD_RXCFG_EN i).of old == 0 && (F.FLD_RXCFG_EN i).of new != 0)
      (modU fun u => { u with fld := { u.fld with rxLast := u.fld.rxLast.filter (fun x => x.1 ≠ i) } })
    rxShow i
    filterCopy a new
  else if base = R.FLD_RXIDL 0 ∨ base = R.FLD_RXIDH 0 ∨ base = R.FLD_RXMSKL 0 ∨ base = R.FLD_RXMSKH 0 then do
    wr a new
    filterCopy a new
  else wr a new

end Sys2Proof.Machine
end

