-- ==== Sys2Proof/Machine/Field.lean ====
section
/-!
DEFINITION. Machine/Field.lean: the field front end (R296 to R329): groups, measurements and their results, linearisation, scan
cycles, sine passes and recovery; and the aeration bins that each scan cycle evaluates (R436, R437).
-/
namespace Sys2Proof.Machine

/-! ### Inputs (R296 to R299) -/

/-- The input group of input `i`. -/
def groupOf (i : Nat) : Nat := if i < 192 then i / 12 else if i < 216 then 16 + (i - 192) / 4 else 22 + (i - 216) / 4

/-- The inputs of group `g`. -/
def groupInputs (g : Nat) : List Nat :=
  if g < 16 then (List.range 12).map (· + 12 * g)
  else if g < 22 then (List.range 4).map (· + (192 + 4 * (g - 16)))
  else (List.range 4).map (· + (216 + 4 * (g - 22)))

/-- The inputs of converter `k` in the order of a cycle (R297, R310). -/
def convInputs (k : Nat) : List Nat := (List.range 24).map (· + 24 * k) ++ (List.range 3).map (· + (192 + 3 * k)) ++ [216 + k]

/-- Whether input `i` is the sense lead of a 4-wire pair (R299). -/
def isSense (i : Nat) : Op Bool := do
  let w ← gf (F.AFF_ICFG_WIRE (i - 1))
  pure (decide (i < 192 ∧ i % 2 = 1) && w == 2)

/-- Whether input `i` is measurable (R310). -/
def measurable (i : Nat) : Op Bool := do
  let en ← bf (F.AFF_ICFG_EN i)
  let s ← isSense i
  let on ← domainOn (32 + groupOf i)
  pure (en && !s && on)

/-- Whether input `i` is measurable at a break now: its make comes at least 10 ms after its group's power-up (R328). -/
def turnOk (i : Nat) : Op Bool := do
  let m ← measurable i
  let d ← domainOnFor (32 + groupOf i)
  pure (m && (match d with | none => false | some d => decide (10000000 ≤ d + 50000)))

/-- Whether the result of a measurement is signed (R322). -/
def resSigned (i : Nat) (lin : Bool) (t : Option (List Byte)) : Bool :=
  if lin then (match t with | some t => leAt t 5 1 == 1 | none => false) else decide (216 ≤ i)

/-- The no-value code (R322). -/
def noValue (s : Bool) : Nat := if s then 0x8000 else 0xFFFF

/-- Whether FLTMAP shows a fault code (R312). -/
def fltShown (c : Nat) : Bool := decide ((1 ≤ c ∧ c ≤ 9) ∨ c = 0xC ∨ c = 0xD)

/-- Input `i`'s fault code becomes `c`, in AFF_IRES and AFF_FLTMAP. -/
def inputCode (i c : Nat) : Op Unit := do
  sf (F.AFF_IRES_FAULT i) c
  sbit (R.AFF_FLTMAP (i / 32)) (i % 32) (fltShown c)

/-- Input `i` enters a state without a result: OFF, SENSE or NORESULT (R312, R313). As a sense lead its own AFF_ILIN has no effect
(R299). -/
def inputState (i c : Nat) : Op Unit := do
  let l ← fieldLatch i
  inputCode i c
  sf (F.AFF_IRES_RES i) (noValue (c != 0xB && resSigned i l.lin l.table))
  let void (c : FieldConv) : FieldConv := { c with job := c.job.map fun j => if j.input = i ∧ j.kind ≠ 1 then { j with void := true } else j }
  modAff fun a => { a with recov := a.recov.filter (fun r => r.input ≠ i), convs := if c = 0xA ∨ c = 0xB then a.convs.map void else a.convs }

/-- The state of input `i` follows its enable, its neighbour's wiring and its group (R299, R312). -/
def inputFollow (i : Nat) : Op Unit := do
  let cur ← gf (F.AFF_IRES_FAULT i)
  let en ← bf (F.AFF_ICFG_EN i)
  let s ← isSense i
  let on ← domainOn (32 + groupOf i)
  let want : Nat := if s && on then 0xB else if !en || !on then 0xA else if cur = 0xA ∨ cur = 0xB then 0xC else cur
  onlyIf (want != cur) (inputState i want)

/-! ### Linearisation (R323 to R326) -/

/-- Word `o` of a table. -/
def linWord (t : List Byte) (o : Nat) : Word := BitVec.ofNat 32 (leAt t o 4)

/-- The checks of R326; the status is OK where the table is accepted. -/
def linCheck (t : List Byte) : Nat :=
  if leAt t 0 2 = 0 then (if crcOkAt t 0x7C then St.ok else St.linCrc)
  else if leAt t 0 2 ≠ 1 ∨ (leAt t 2 1 ≠ 1 ∧ leAt t 2 1 ≠ 2) ∨ 1 < leAt t 3 1 ∨ 1 < leAt t 4 1 then St.linFormat
  else if !crcOkAt t 0x7C then St.linCrc
  else if (List.range 21).any fun k => F32.special (linWord t (8 + 4 * k)) then St.linValue
  else St.ok

/-- Stores table `n` (an empty one is taken out), shown in AFF_TABLOADL and AFF_TABLOADH. -/
def linStore (n : Nat) (t : List Byte) : Op Unit := do
  fieldLatchDue
  let on := decide (leAt t 0 2 ≠ 0)
  modAff fun a => { a with lins := (if on then [(n, t)] else []) ++ a.lins.filter (fun x => x.1 ≠ n) }
  sbit (if n < 32 then R.AFF_TABLOADL else R.AFF_TABLOADH) (n % 32) on

/-- The output of a table for a raw value `x` and a partner value `b`, before it is limited (R323, R324): a NaN at any step makes it
a NaN, and the logarithm of a negative number is one. -/
def linEval (t : List Byte) (x b : Word) : Word :=
  let x0 := linWord t 8
  let q := F32.div x x0
  let u := if leAt t 3 1 = 0 then F32.div (F32.sub x x0) (linWord t 0xC)
    else if F32.isNan q || F32.lt q F32.zero then F32.nan else F32.ln q
  let c := (List.range 15).map fun k => linWord t (0x20 + 4 * k)
  let y := if leAt t 2 1 = 2 then Model.poly c u b
    else ((List.range 8).map fun k => F32.mul (c.getD k 0) (Model.fpow u k)).foldl F32.add F32.zero
  if leAt t 4 1 = 0 then y else F32.sub (F32.div F32.one y) (F32.ofRat 27315 100)

/-- RES of input `i`, whose 16 bits are `r`, as a number: signed where the measurement that wrote it made it so (R321, R322). -/
def resValue (i r : Nat) : Op Int := do
  let a ← affS
  pure (if i ∈ a.signedRes then toSigned 16 r else (r : Int))

/-- The linearised result of raw value `x`: fault code, CLAMP, and RES, which saturates as R321 says (R323 to R325). The partner's RES counts as signed
where the measurement that wrote it made it so. -/
def linResult (l : FieldLatch) (x : Word) : Op (Nat × Bool × Nat) := do
  match l.table with
  | none => pure (9, false, 0)
  | some t => do
    let two := decide (leAt t 2 1 = 2)
    let pf ← gf (F.AFF_IRES_FAULT l.partner)
    let pres ← gf (F.AFF_IRES_RES l.partner)
    let ps ← resValue l.partner pres
    if two && (decide (224 ≤ l.partner) || pf != 0) then pure (8, false, 0)
    else
      let b := F32.ofRat ps 100
      let bc := F32.clamp (linWord t 0x10) (linWord t 0x14) b
      let y := linEval t x (if two then bc else F32.zero)
      if F32.isNan y then pure (0xD, false, 0)
      else
        let yc := F32.clamp (linWord t 0x18) (linWord t 0x1C) y
        let clamp := yc != y || (two && bc != b)
        let p := F32.mul yc (F32.ofInt 100)
        let v : Int := if p = F32.inf false then 0x10000 else if p = F32.inf true then -0x10000 else roundNear p
        pure (0, clamp, if leAt t 5 1 = 1 then ofSigned 16 (clampI (-32767) 32767 v) else (clampI 0 0xFFFE v).toNat)

/-! ### Results (R312, R320, R321) -/

/-- RES without a table (R321): the raw value scaled and saturated. -/
def plainRes (i : Nat) (raw : Int) : Nat :=
  if i < 192 then (clampI 0 0xFFFE (quot raw 100)).toNat
  else if i < 216 then (clampI 0 0xFFFE (quot raw 1000)).toNat
  else ofSigned 16 (clampI (-32767) 32767 (quot raw 1000))

/-- The raw value in Ω, mA or V (R323). -/
def rawValue (i : Nat) (raw : Int) : Word := if i < 192 then F32.ofRat raw 1000 else F32.ofRat raw 1000000

/-- AFF_IRAW's word of a raw value (R320): `sat` is the saturation of OPEN and OVERRANGE. -/
def rawWord (i : Nat) (raw : Int) (sat : Bool) : Word :=
  if i < 192 then (if sat then 0xFFFFFFFF else BitVec.ofNat 32 (clampI 0 0xFFFFFFFF raw).toNat)
  else if sat then (if raw < 0 then 0x80000000 else 0x7FFFFFFF)
  else BitVec.ofNat 32 (ofSigned 32 (clampI (-0x80000000) 0x7FFFFFFF raw))

/-- A measurement of input `i` is published (R320): its code, flags and result in one step, and the signs of a new fault. -/
def publish (i : Nat) (l : FieldLatch) (code : Nat) (sine notchx leadx : Bool) (raw : Int) : Op Unit := do
  let old ← gf (F.AFF_IRES_FAULT i)
  let q ← gf (F.AFF_IRES_SEQ i)
  let en ← bf (F.AFF_ICFG_EN i)
  let nv := noValue (resSigned i l.lin l.table)
  let r ← if code ≠ 0 then pure (code, false, nv)
    else if l.lin then do
      let x ← linResult l (rawValue i raw)
      pure (if x.1 = 0 then x else (x.1, x.2.1, nv))
    else pure (0, false, plainRes i raw)
  onlyIf en do
    wr (R.AFF_IRAW i) (rawWord i raw (code == 1 || code == 4))
    inputCode i r.1
    sb (F.AFF_IRES_SINE i) sine
    sb (F.AFF_IRES_NOTCHX i) notchx
    sb (F.AFF_IRES_CLAMP i) r.2.1
    sb (F.AFF_IRES_LEADX i) leadx
    sf (F.AFF_IRES_SEQ i) (q + 1)
    sf (F.AFF_IRES_RES i) r.2.2
    modAff fun a => { a with signedRes := (if resSigned i l.lin l.table then [i] else []) ++ a.signedRes.filter (· ≠ i) }
    onlyIf notchx (sb F.AFF_STAT_NOTCHX true)
    onlyIf (r.1 != 0) (sb F.AFF_STAT_FAULT true)
    onlyIf (r.1 != 0 && old == 0) (raise Ev.affFault [BitVec.ofNat 8 i, BitVec.ofNat 8 r.1])

/-- The excitation current in 10⁻⁶ nA: what EXC names, as calibrated (R302, R304). -/
def excAmps (m : FieldMeas) (l : FieldLatch) : Nat := [10000, 50000, 200000, 1000000].getD l.exc 10000 * m.cur

/-- A resistance in mΩ: `v` nV over `d` times the excitation current (R304, R317). -/
def ohms (m : FieldMeas) (l : FieldLatch) (v : Int) (d : Nat) : Int := nearest (v * 1000000000) (d * excAmps m l)

/-- The fault of a resistive measurement (R302, R312), the lowest code of those found (assumption log 40): the force loop at its
compliance of 3.0 V, a short, a leak, a voltage beyond the converter's 2.5 V. -/
def resistFault (m : FieldMeas) (l : FieldLatch) (loop : Int) (leak : Bool) : Nat :=
  if 3000000000 ≤ m.force then 1
  else if loop < (l.shortR : Int) * 100 then 2
  else if leak then 3
  else if 2500000000 < |m.pos| ∨ 2500000000 < |m.neg| then 4
  else 0

/-- The element resistance of a loop resistance in mΩ (R300): what is left, and LEADX. -/
def element (l : FieldLatch) (loop : Int) : Int × Bool :=
  let r := if l.wire = 2 then loop else loop - l.lead
  (max 0 r, decide (l.wire ≠ 2 ∧ r < 0))

/-- Notes in the recovery list that input `i` was measured in recovery (`rec'`), or with DC and code `c` (R319). -/
def recovNote (i c : Nat) (rec' : Bool) : Op Unit := do
  let f : FieldRecov → FieldRecov := fun r => if r.input = i then { r with clean := rec' && c == 0 } else r
  let isFault := decide (1 ≤ c ∧ c ≤ 3)
  modAff fun a =>
    let l := a.recov.map f
    if rec' then { a with recov := l }
    else if !isFault then { a with recov := l.filter (fun r => r.input ≠ i) }
    else if l.any (fun r => r.input = i) then { a with recov := l }
    else { a with recov := l ++ [⟨i, none, true, false⟩] }

/-! ### The end of a measurement -/

/-- A DC measurement of a resistive input ends (R303, R304). -/
def dcEnd (j : FieldJob) (l : FieldLatch) (m : FieldMeas) : Op Unit := do
  let loop := ohms m l (m.pos - m.neg) 2
  let leak := decide (l.leakThr * excAmps m l < m.leak * 1000000000)
  let code := resistFault m l loop leak
  let e := element l loop
  publish j.input l code false j.notchx e.2 e.1
  recovNote j.input code false

/-- The return lead of a group was measured (R317 measurement 1). -/
def retEnd (j : FieldJob) (l : FieldLatch) (m : FieldMeas) : Op Unit := do
  let g := groupOf j.input
  sf (F.AFF_GRET_R g) (clampI 0 0xFFFF (ohms m l m.pos 1)).toNat
  sb (F.AFF_GRET_VALID g) true

/-- The insulation of an input was measured (R317 measurement 2): 1.0 V over the current, in 10 kΩ. Answers whether it is below
AFF_LEAKMIN. -/
def insEnd (j : FieldJob) (l : FieldLatch) (m : FieldMeas) : Op Bool := do
  let v : Nat := if m.cur * 0xFFFF ≤ 100000000 then 0xFFFF else (clampI 0 0xFFFF (quot 100000000 m.cur)).toNat
  sf (F.AFF_IINS_R j.input) v
  pure (decide (100000000 < l.leakMin * m.cur))

/-- The lead that R301 writes for an input while its LFIX is 0, by the settings of its make (R327), the group's return lead and its own
force lead. -/
def leadWritten (l : FieldLatch) (r force : Nat) : Option Nat :=
  if l.wire = 1 then some (fitU 16 (quot ((l.leadK * r : Nat) : Int) 4096))
  else if l.wire = 2 then some force
  else none

/-- The fault code that a measurement with code `code` of raw value `raw` leaves, that of its table included (R312, R323 to R325). -/
def tableCode (i : Nat) (l : FieldLatch) (code : Nat) (raw : Int) : Op Nat :=
  if code = 0 ∧ l.lin then do
    let x ← linResult l (rawValue i raw)
    pure x.1
  else pure code

/-- An element was measured with sine drive (R317 measurement 3, R319). With RECOV = 1 the OPEN, SHORT or LEAK of an earlier
measurement stands until a DC measurement is free of faults, also where a sine pass finds none (R314); a fault that the sine pass
finds is written (R312). Only a recovery that finds none of the three sends the input back to DC. -/
def elementEnd (k : Nat) (j : FieldJob) (l : FieldLatch) (m : FieldMeas) : Op Unit := do
  let loop := ohms m l m.pos 1
  let code := resistFault m l loop j.leak
  let e := element l loop
  let old ← gf (F.AFF_IRES_FAULT j.input)
  let rec' ← bf F.AFF_CTL_RECOV
  let found ← tableCode j.input l code e.1
  if j.recovery || (rec' && decide (1 ≤ old ∧ old ≤ 3) && found == 0) then do
    let q ← gf (F.AFF_IRES_SEQ j.input)
    wr (R.AFF_IRAW j.input) (rawWord j.input e.1 (code == 1 || code == 4))
    inputCode j.input (if 1 ≤ code ∧ code ≤ 3 then code else old)
    sb (F.AFF_IRES_SINE j.input) true
    sb (F.AFF_IRES_NOTCHX j.input) j.notchx
    sb (F.AFF_IRES_LEADX j.input) e.2
    onlyIf j.notchx (sb F.AFF_STAT_NOTCHX true)
    onlyIf (decide (1 ≤ code ∧ code ≤ 3)) (sb F.AFF_STAT_FAULT true)
    sf (F.AFF_IRES_SEQ j.input) (q + 1)
    onlyIf j.recovery (recovNote j.input (if 1 ≤ code ∧ code ≤ 3 then code else 0) true)
  else do
    publish j.input l code true j.notchx e.2 e.1
    recovNote j.input code false
  onlyIf (!j.recovery) do
    let r ← gf (F.AFF_GRET_R (groupOf j.input))
    let v := leadWritten l r (clampI 0 0xFFFF (ohms m l m.lead 1)).toNat
    modConv k fun c => { c with sined := c.sined ++ [(j.input, v)] }

/-- A loop or voltage measurement ends (R307 to R309). -/
def plainEnd (j : FieldJob) (l : FieldLatch) (m : FieldMeas) : Op Unit := do
  let a ← affS
  let code : Nat :=
    if j.kind = 5 then (if m.fullScale ∨ 10500000 < |m.pos| then 4 else 0)
    else if j.input ∈ a.shuntOpen ∨ 30000000 < m.pos then 7
    else if 21000000 < m.pos then 6
    else if l.wire = 0 ∧ m.pos < 3600000 then 5
    else if m.fullScale then 4
    else 0
  publish j.input l code false j.notchx false m.pos

/-! ### Turns -/

/-- A sine pass leaves a group: the module writes the leads (R301). -/
def groupDone (k : Nat) : Op Unit := do
  let c ← getConv k
  modConv k fun c => { c with group := none, sined := [], retDone := false }
  match c.group with
  | none => pure ()
  | some _ => do
    fieldLatchDue
    each (fun (x : Nat × Option Nat) =>
      match x.2 with
      | none => pure ()
      | some v => do
        let fix ← bf (F.AFF_ICFG_LFIX x.1)
        onlyIf (!fix) (sf (F.AFF_ILEAD_R x.1) v)) c.sined

/-- The lowest input of a list that can carry the return-lead measurement (R317). -/
def retInput : List Nat → Op (Option Nat)
  | [] => pure none
  | i :: l => do
    let ok ← turnOk i
    let w ← gf (F.AFF_ICFG_WIRE i)
    if ok && (w == 1 || w == 2) then pure (some i) else retInput l

/-- Whether input `i` is in recovery, and whether its turn is one (R319): `none` where it is measured in DC. -/
def recoveryTurn (i : Nat) : Op (Option Bool) := do
  let t ← now
  let on ← bf F.AFF_CTL_RECOV
  let s ← gf F.AFF_RETRY_T
  let a ← affS
  match a.recov.find? (fun r => r.input = i) with
  | none => pure none
  | some r =>
    if !on || r.clean then pure none
    else pure (some (r.due || (match r.since with | none => true | some x => decide (x + max 1 s * 1000000000 ≤ t))))

/-- Starts a measurement of converter `k`: the break is now. -/
def jobStart (k kind i : Nat) (recovery leak : Bool) (rest : List Nat) : Op Unit := do
  let t ← now
  modConv k fun c => { c with job := some { kind := kind, input := i, recovery := recovery, since := t, leak := leak }, rest := rest }

/-- The next measurement of converter `k` among the inputs it has still to visit (R310, R317, R319). -/
def turn (k : Nat) : List Nat → Op Unit
  | [] => do
    groupDone k
    modConv k fun c => { c with job := none, rest := [] }
  | i :: l => do
    let a ← affS
    let c ← getConv k
    let g := groupOf i
    onlyIf (c.group != some g) (groupDone k)
    modConv k fun c => { c with group := some g }
    let c ← getConv k
    let ret ← if a.sine && decide (i < 192) && !c.retDone then do
        modConv k fun c => { c with retDone := true }
        let j ← retInput (groupInputs g)
        onlyIf j.isNone (sb (F.AFF_GRET_VALID g) false)
        pure j
      else pure none
    match ret with
    | some j => jobStart k 1 j false false (i :: l)
    | none => do
      let ok ← turnOk i
      let rt ← recoveryTurn i
      if !ok then turn k l
      else if 216 ≤ i then jobStart k 5 i false false l
      else if 192 ≤ i then jobStart k 4 i false false l
      else if a.sine then jobStart k 2 i false false l
      else
        match rt with
        | none => jobStart k 0 i false false l
        | some false => turn k l
        | some true => do
          let t ← now
          modAff fun a => { a with recov := a.recov.map fun r => if r.input = i then { r with since := some t, due := false } else r }
          jobStart k 2 i true false l

/-! ### Aeration (R436, R437) -/

/-- Number and highest result of the inputs of a list that have no fault. -/
def binHigh : List Nat → Op (Nat × Int)
  | [] => pure (0, 0)
  | i :: l => do
    let f ← gf (F.AFF_IRES_FAULT i)
    let r ← gf (F.AFF_IRES_RES i)
    let x ← binHigh l
    let v ← resValue i r
    pure (if f ≠ 0 then x else if x.1 = 0 then (1, v) else (x.1 + 1, max x.2 v))

/-- Bin `b` is evaluated at the end of a scan cycle; `wr'` says whether the fan object may be written. -/
def binEval (wr' : Bool) (n : Nat) : Op Unit := do
  let t ← now
  let u ← units
  let b := u.aer.getD n {}
  let x ← binHigh ((List.range b.nodes).map (· + b.first))
  let af ← gf (F.AFF_IRES_FAULT b.ambient)
  let ar ← gf (F.AFF_IRES_RES b.ambient)
  let amb ← resValue b.ambient ar
  let ranOn := if b.state = 2 then b.ran + (t - b.since) else b.ran
  let st : Nat :=
    if af ≠ 0 ∨ x.1 = 0 then 3
    else if b.state = 2 then (if b.since + b.shortest * 60000000000 ≤ t ∧ x.2 - amb ≤ b.dtoff then 1 else 2)
    else if b.dton ≤ x.2 - amb then 2
    else 1
  let b' := { b with state := st, valid := x.1, high := x.2, amb := amb, owed := b.owed && !wr', ran := if st = 2 ∧ b.state = 2 then b.ran else ranOn, since := if st = 2 ∧ b.state ≠ 2 then t else b.since }
  onlyIf b.en do
    modU fun u => { u with aer := setAt u.aer n b' }
    onlyIf (wr' && (st == 1 || st == 2) && (b.owed || st != b.state)) (objSet b.fan (if st = 2 then b.run else 0))

/-- The evaluation of every bin at the end of a scan cycle. -/
def aerEval : Op Unit := do
  let m ← curMode
  let bm ← baseMode
  onlyIf (bm == modeStore) (each (binEval (m == modeStore)) (List.range 16))

/-! ### Cycles (R310, R311) -/

/-- AFF_GRET, AFF_ILEAD and AFF_IINS as they stand, which a state save writes. -/
def affNow : Op (List (Nat × Word)) := do
  let b ← blockOp
  let l := (List.range 16).map (fun g => (R.AFF_GRET g, b.regs.get (R.AFF_GRET g)))
    ++ (List.range 192).map (fun i => (R.AFF_ILEAD i, b.regs.get (R.AFF_ILEAD i)))
    ++ (List.range 192).map (fun i => (R.AFF_IINS i, b.regs.get (R.AFF_IINS i)))
  pure l

/-- AFF_GRET, AFF_ILEAD and AFF_IINS are saved to NV (R329). -/
def affSave : Op Unit := do
  let l ← affNow
  stateSave fun x => { x with affRegs := l }

/-- A sine pass ends (R318, R329, R435). -/
def sineEnd (cut : Bool) : Op Unit := do
  modAff fun a => { a with sine := false, sineReq := false, sineCut := false, sineShort := cut }
  sb F.AFF_STAT_SINE false
  sb F.AFF_STAT_SINEINC cut
  affSave
  raise Ev.sineDone [BitVec.ofNat 8 (bit cut), 0, 0, 0]

/-- When no converter has a measurement left, the cycle ends and is counted (R310). -/
def cycleCheck : Op Unit := do
  let t ← now
  let a ← affS
  match a.cycle with
  | none => pure ()
  | some s =>
    if a.convs.any (fun c => c.job.isSome) then pure ()
    else do
      let ms := min 0xFFFF (quot ((t - s : Nat) : Int) 1000000).toNat
      let peak ← gf F.AFF_SCANTIME_PEAK
      modAff fun a => { a with cycle := none }
      cntWrap F.AFF_SCANCNT_CNT 1
      sb F.AFF_STAT_SCANDONE true
      sf F.AFF_SCANTIME_LAST ms
      sf F.AFF_SCANTIME_PEAK (max peak ms)
      onlyIf a.sine (sineEnd a.sineCut)
      aerEval

/-- Converter `k` goes on to its next measurement. -/
def convNext (k : Nat) : Op Unit := do
  let c ← getConv k
  turn k c.rest
  cycleCheck

/-- Whether some input of a list is measurable. -/
def anyMeasurable : List Nat → Op Bool
  | [] => pure false
  | i :: l => do
    let m ← measurable i
    let r ← anyMeasurable l
    pure (m || r)

/-- SCAN_CYCLE_START: R311's instant, or with RUN at 0 a sine pass that was asked for, while some input is measurable; every converter
starts (R310). -/
def opScanCycleStart : Op Unit := do
  let t ← now
  let a ← affS
  let m ← baseMode
  let run ← bf F.AFF_CTL_RUN
  let per ← gf F.AFF_SCANPER_PER
  let spaced : Bool := match a.lastStart with | none => true | some s => decide (s + per * 100000000 ≤ t)
  let any ← anyMeasurable (List.range 224)
  let may := (if run then spaced && decide (2 ≤ m) else false) || (a.sineReq && decide (1 ≤ m) && (spaced || !run))
  onlyIf (may && any && a.cycle.isNone) do
    modAff fun a => { a with cycle := some t, sine := a.sineReq, sineReq := false, sineCut := false, lastStart := some t }
    onlyIf a.sineReq (sb F.AFF_STAT_SINE true)
    each (fun k => turn k (convInputs k)) (List.range 8)
    cycleCheck

/-- FIELD_POLARITY_REVERSE: at the end of the positive window of a DC measurement (R303 step 6). -/
def opFieldPolarityReverse (k : Nat) : Op Unit := do
  let t ← now
  fieldLatchDue
  let c ← getConv k
  match c.job with
  | none => pure ()
  | some j =>
    match j.latch, j.p1 with
    | some l, some p =>
      onlyIf (j.kind == 0 && j.reversed.isNone && decide (j.since + 50000 + l.s + p * 1000 ≤ t))
        (do
          sf F.AFF_NOTCHF_F (fitU 16 (quot 100000000 p))
          modConv k fun c => { c with job := some { j with reversed := some t } })
    | _, _ => pure ()

/-- The end of a measurement's last window, where it is known. -/
def jobEnd (j : FieldJob) : Option Nat :=
  match j.latch, j.p1 with
  | some l, some p =>
    if j.kind = 0 then
      (match j.reversed, j.p2 with
       | some r, some p2 => some (r + l.s + p2 * 1000)
       | _, _ => none)
    else if j.kind ≤ 3 then some (j.since + 50000 + l.s + 2 * p * 1000)
    else some (j.since + 50000 + l.s + p * 1000)
  | _, _ => none

/-- FIELD_MEASUREMENT_END: the measurement of converter `k` ends, its results are written, and the next one's break follows
(R303 step 9, R320). -/
def opFieldMeasurementEnd (k : Nat) (m : FieldMeas) : Op Unit := do
  let t ← now
  fieldLatchDue
  let c ← getConv k
  match c.job with
  | none => pure ()
  | some j =>
    match jobEnd j, j.latch with
    | some e, some l =>
      onlyIf (decide (e ≤ t ∧ (m.cur ≠ 0 ∨ j.kind = 2 ∨ 4 ≤ j.kind))) do
        let p := (match j.p2 with | some p => some p | none => j.p1).getD 20000
        sf F.AFF_NOTCHF_F (fitU 16 (quot 100000000 p))
        if j.void then convNext k
        else if j.kind = 0 then do dcEnd j l m; convNext k
        else if j.kind = 1 then do retEnd j l m; convNext k
        else if j.kind = 2 then do
          let low ← insEnd j l m
          jobStart k 3 j.input j.recovery low c.rest
        else if j.kind = 3 then do elementEnd k j l m; convNext k
        else do plainEnd j l m; convNext k
    | _, _ => pure ()

/-- LOOP_OVERCURRENT: the shunt opens, until the input's next make, and OVERCUR is latched (R308). -/
def opLoopOvercurrent (i : Nat) : Op Unit := do
  fieldLatchDue
  let on ← domainOn (32 + groupOf i)
  let old ← gf (F.AFF_IRES_FAULT i)
  let l ← fieldLatch i
  onlyIf (decide (192 ≤ i ∧ i < 216) && on) (modAff fun a => { a with shuntOpen := i :: a.shuntOpen.filter (· ≠ i) })
  onlyIf (decide (192 ≤ i ∧ i < 216) && on && old != 0xA) do
    inputCode i 7
    sf (F.AFF_IRES_RES i) (noValue (resSigned i l.lin l.table))
    sb F.AFF_STAT_FAULT true
    onlyIf (old == 0) (raise Ev.affFault [BitVec.ofNat 8 i, 7])

/-- RECOVERY_DUE: the recovery interval of a faulted input has passed; its next turn is a recovery (R319). -/
def opRecoveryDue (i : Nat) : Op Unit := do
  let t ← now
  let s ← gf F.AFF_RETRY_T
  modAff fun a => { a with recov := a.recov.map fun r => if r.input = i ∧ (match r.since with | none => true | some x => decide (x + max 1 s * 1000000000 ≤ t)) = true then { r with due := true } else r }

/-! ### Sine passes, power and writes -/

/-- A sine pass is asked for: answers false where one runs or is asked for already (R315). -/
def sineRequest : Op Bool := do
  let a ← affS
  onlyIf (!a.sine && !a.sineReq) (modAff fun a => { a with sineReq := true })
  pure (!a.sine && !a.sineReq)

/-- The sine measurement of converter `k` is abandoned and its input is measured in DC (R318). -/
def sineDrop (k : Nat) : Op Unit := do
  let c ← getConv k
  match c.job with
  | none => pure ()
  | some j => onlyIf (decide (1 ≤ j.kind ∧ j.kind ≤ 3) && !j.recovery) (turn k (if j.kind = 1 then c.rest else j.input :: c.rest))

/-- A sine pass is cut short by a change of mode, or by a group of it powering off (R318). -/
def sineCut : Op Unit := do
  let a ← affS
  onlyIf (a.sine || a.sineReq) do
    modAff fun a => { a with convs := a.convs.map fun c => { c with sined := [] } }
    sineEnd true
    each sineDrop (List.range 8)
    cycleCheck

/-- Group `g` powers off (R318, R328); a shunt that had opened is closed while its domain is off (R634). -/
def groupOff (g : Nat) : Op Unit := do
  let a ← affS
  domainSwitch (32 + g) false
  each inputFollow (groupInputs g)
  let inPass (c : FieldConv) : Bool := (c.job.any fun j => groupOf j.input == g) || c.rest.any (fun i => groupOf i == g)
  onlyIf (a.sine && decide (g < 16) && a.convs.any inPass) sineCut
  each (fun k => do
    let c ← getConv k
    match c.job with
    | none => pure ()
    | some j => onlyIf (groupOf j.input == g) (convNext k)) (List.range 8)
  modAff fun a => { a with shuntOpen := a.shuntOpen.filter fun i => groupOf i ≠ g }

/-- Whether some input of a list is enabled; a sense lead's EN has no effect (R299). -/
def anyEnabled : List Nat → Op Bool
  | [] => pure false
  | i :: l => do
    let e ← bf (F.AFF_ICFG_EN i)
    let s ← isSense i
    let r ← anyEnabled l
    pure ((e && !s) || r)

/-- The groups' power follows the mode and the enables (R340). -/
def fieldPower : Op Unit := do
  let m ← baseMode
  each (fun g => do
    let on ← domainOn (32 + g)
    let en ← anyEnabled (groupInputs g)
    let want := en && m != 0
    onlyIf (want && !on) (domainSwitch (32 + g) true)
    onlyIf (!want && on) (groupOff g)
    each inputFollow (groupInputs g)) (List.range 24)

/-- The groups that mode `m` powers switch on (step 2 of R334). -/
def fieldPowerOn (m : Nat) : Op Unit :=
  each (fun g => do
    let on ← domainOn (32 + g)
    let en ← anyEnabled (groupInputs g)
    onlyIf (en && m != 0 && !on) (domainSwitch (32 + g) true)
    each inputFollow (groupInputs g)) (List.range 24)

/-- A write of an AFF control register takes effect: WIRE stays where R299 refuses it. -/
def affWrite (base i a : Nat) (new acts raw : Word) : Op Unit := do
  fieldLatchDue
  let old ← rd a
  if base = R.AFF_CTL then do
    wr a new
    let m ← curMode
    onlyIf (acts.toNat.testBit 14 && m == 6) (do let _ ← sineRequest; pure ())
  else if base = R.AFF_ICFG 0 then do
    let w := (F.AFF_ICFG_WIRE i).of new
    let sel := raw.toNat / 65536 &&& 0x6000 != 0
    let bad := sel && (w == 3 || (w == 2 && decide (i % 2 = 1)))
    onlyIf bad (sb F.AFF_STAT_CFGREJ true)
    wr a (if bad then (F.AFF_ICFG_WIRE i).put new ((F.AFF_ICFG_WIRE i).of old) else new)
    inputFollow i
    onlyIf (decide (i < 192)) (inputFollow (i + 1 - 2 * (i % 2)))
    fieldPower
  else if (base = R.AFF_ILEAD 0 ∨ base = R.AFF_ILEADK 0) ∧ 192 ≤ i then pure ()
  else wr a new

/-- What a read of an AFF register shows: the lead registers of loop and voltage inputs read 0 (R329). -/
def affRead (base i a : Nat) : Op Word := do
  let w ← rd a
  pure (if (base = R.AFF_ILEAD 0 ∨ base = R.AFF_ILEADK 0 ∨ base = R.AFF_IINS 0) ∧ 192 ≤ i then 0 else w)

end Sys2Proof.Machine
end

