-- ==== Sys2Proof/Machine/Loop.lean ====
section
/-!
DEFINITION. Machine/Loop.lean: the control engine (R204 to R246, R343, R344, R660): groups and their periods, latches, the law
and its transfers, cascades, the plausibility model, injection, traces, and the rules of HOLD.
-/
namespace Sys2Proof.Machine

/-- The control engine's data. -/
def loopS : Op LoopS := do let u ← units; pure u.loop

/-- Changes the control engine's data. -/
def modLoop (f : LoopS → LoopS) : Op Unit := modU fun u => { u with loop := f u.loop }

/-- Slot `n`. -/
def getSlot (n : Nat) : Op LoopSlot := do let l ← loopS; pure (l.slots.getD n {})

/-- Changes slot `n`. -/
def modSlot (n : Nat) (f : LoopSlot → LoopSlot) : Op Unit := modLoop fun l => { l with slots := updAt l.slots n f }

/-- Group `g`. -/
def getGroup (g : Nat) : Op LoopGroup := do let l ← loopS; pure (l.groups.getD g {})

/-- Changes group `g`. -/
def modGroup (g : Nat) (f : LoopGroup → LoopGroup) : Op Unit := modLoop fun l => { l with groups := updAt l.groups g f }

/-- The values of LOOP_CTL.MODE. -/
def slotOff : Nat := 0
def slotManual : Nat := 1
def slotAuto : Nat := 2

/-- A 16-bit value of slot `n` as a number (R213). -/
def slotInt (signed : Bool) (v : Nat) : Int := if signed then toSigned 16 v else ((v % 65536 : Nat) : Int)

/-- A number held as a slot's 16-bit value; the limits of R220 keep it in range. -/
def slotRaw (v : Int) : Nat := ofSigned 16 v

/-- Slots in the order of R217. -/
def slotIdx : List Nat := List.range 128

/-! ### Coefficients (R222, R232) -/

/-- The coefficient registers of slot `n`, in the order of R232. -/
def coefRegs (n : Nat) : List Nat :=
  [R.LOOP_KP n, R.LOOP_KI n, R.LOOP_KD n, R.LOOP_TF n, R.LOOP_SPW n, R.LOOP_KFF n, R.LOOP_OMIN n, R.LOOP_OMAX n, R.LOOP_FT n,
   R.LOOP_MKM n, R.LOOP_MTM n, R.LOOP_MCFG n, R.LOOP_MTHR n]

/-- Whether coefficient `k` is a binary16 value. -/
def coefFloat (k : Nat) : Bool := decide (k ≤ 5 ∨ k = 9 ∨ k = 10 ∨ k = 12)

/-- Whether a binary16 value is a NaN or an infinity. -/
def f16Special (v : Nat) : Bool := decide (bits v 14 10 = 31)

/-- Coefficient `k` of a working copy as a binary32 value: a NaN or an infinity acts as 0. -/
def LoopSlot.co (s : LoopSlot) (k : Nat) : Word := let v := s.coef.getD k 0; if f16Special v then 0 else F16.toF32 v

/-- Coefficient `k` as raw bits. -/
def LoopSlot.raw (s : LoopSlot) (k : Nat) : Nat := s.coef.getD k 0

/-- Slot `n` takes coefficient `k` into its working copy; `tells` says whether a NaN or an infinity sets COEFX (R222). A new dead time
taken with PLEN at 0 waits for PLEN to change to 1 (R229). -/
def coefEnter (tells : Bool) (n k : Nat) : Op Unit := do
  let s ← getSlot n
  let w ← rd ((coefRegs n).getD k 0)
  let v := w.toNat % 65536
  let plen ← bf (F.LOOP_CTL_PLEN n)
  onlyIf (tells && coefFloat k && f16Special v) (sb (F.LOOP_STAT_COEFX n) true)
  let newDead := decide (k = 11 ∧ v % 256 ≠ s.raw 11 % 256)
  modSlot n fun s => { s with coef := setAt s.coef k v, pending := s.pending.filter (· ≠ k), initDue := s.initDue || (newDead && plen), plenWas := s.plenWas && !(newDead && !plen) }
  let s ← getSlot n
  sf (F.LOOP_STAT_PEND n) s.pending.length

/-- Slot `n` takes coefficient `k` as it was written. -/
def coefTake (n k : Nat) : Op Unit := coefEnter true n k

/-- Every pending coefficient of slot `n` takes effect (R232: MODE is off). -/
def coefFlush (n : Nat) : Op Unit := do
  let s ← getSlot n
  each (coefTake n) s.pending

/-- A write to coefficient `k` of slot `n` is pending, keeping its place if one is already. -/
def coefPend (n k : Nat) : Op Unit := do
  modSlot n fun s => { s with pending := if k ∈ s.pending then s.pending else s.pending ++ [k] }
  let s ← getSlot n
  sf (F.LOOP_STAT_PEND n) s.pending.length
  let m ← gf (F.LOOP_CTL_MODE n)
  onlyIf (m == slotOff) (coefFlush n)

/-! ### Sources (R209, R211) -/

/-- Whether a class and index name a source. -/
def srcValid (c i : Nat) : Bool := decide (i < [1, 224, 16, 32, 8, 256, 128, 32].getD c 0)

/-- Whether a class and index name a destination. -/
def dstValid (c i : Nat) : Bool := decide (i < [1, 32, 8, 256, 128].getD c 0)

/-- Lane speed since the previous latch (R209 class 0x2), in 1/16 stroke/s. -/
def laneSpeed (g lane : Nat) : Op Nat := do
  let gr ← getGroup g
  let p ← leadOf lane
  match gr.leads with
  | none => do
    let v ← free
    pure (v % 65536)
  | some l =>
    if gr.h = 0 then do
      let v ← free
      pure (v % 65536)
    else pure (clampI 0 0xFFFF (quot ((p - l.getD lane 0) * 16000000000) gr.h)).toNat

/-- A field of the latest map (R209 class 0x7, R211). -/
def mapSource (i : Nat) : Op (Nat × Bool) := do
  let t ← now
  let s ← recS
  match s.last with
  | none => pure (0xFFFF, false)
  | some m =>
    let l := m.lanes.getD (i % 16) {}
    let fresh := decide (t ≤ m.pubAt + 2000000000)
    pure (if i < 16 then (l.mmean, fresh && l.mmean != 0xFFFF) else (l.tmean, fresh && l.tmean != 0x8000))

/-- A source's value and whether it is valid, at a latch of group `g`. -/
def source (g c i : Nat) : Op (Nat × Bool) := do
  if c = 1 then do
    let v ← gf (F.AFF_IRES_RES i)
    let f ← gf (F.AFF_IRES_FAULT i)
    pure (v, f == 0)
  else if c = 2 then do
    let v ← laneSpeed g i
    let lost ← bf (F.ENC_LSTAT_LOST i)
    let sub ← bf (F.ENC_LCTL_SUBST i)
    pure (v, !(lost && !sub))
  else if c = 3 then do
    let v ← gf (F.VDRV_MEAS_I i)
    let q ← governs i
    let f ← gf (F.VDRV_FAULT_CODE q)
    pure (v, f == 0)
  else if c = 4 then do
    let v ← gf (F.FAN_SPEED_RPM i)
    let f ← gf (F.FAN_FAULT_CODE i)
    pure (v, f == 0)
  else if c = 5 then do
    let w ← rd (R.FLD_RXDATA i 0)
    let s ← rxStale i
    pure (w.toNat % 65536, !s)
  else if c = 6 then do
    let v ← gf (F.LOOP_OUT_OUT i)
    let m ← gf (F.LOOP_STAT_MODEIN i)
    pure (v, m != slotOff)
  else if c = 7 then mapSource i
  else pure (0, true)

/-! ### Traces (R240 to R242) -/

/-- The words of a slot's sample by node code: SP, Y, E, P, I, D, FF, U, OUT, YM, RES, INJ. A node the sample does not compute is
free (assumption log 1). -/
def nodeAt (ns : List (Option Word)) (k : Nat) : Op Word :=
  match ns.getD k none with
  | some w => pure w
  | none => do
    let v ← free
    pure (BitVec.ofNat 32 v)

/-- Whether traces record now. -/
def trcArmed : Op Bool := bf F.LOOP_TRCSTAT_ARMED

/-- After the trigger, the capture is done when every channel has stopped; a channel that is switched off counts as stopped. -/
def trcDone : Op Unit := do
  let l ← loopS
  let b ← blockOp
  let armed ← trcArmed
  let seen ← bf F.LOOP_TRCSTAT_TRIGGERED
  let still (c : Nat) : Bool := (l.trc.getD c {}).stopped || decide (12 ≤ (F.LOOP_TRCSEL_NODE c).of (b.regs.get (R.LOOP_TRCSEL c)))
  onlyIf (armed && seen && (List.range 8).all still) do
    sb F.LOOP_ESTAT_TRCDONE true
    sb F.LOOP_TRCSTAT_DONE true
    sb F.LOOP_TRCSTAT_ARMED false

/-- The trigger occurs: each channel has 65,536 − PRE × 4,096 samples to go. -/
def trcTrigger : Op Unit := do
  let armed ← trcArmed
  let seen ← bf F.LOOP_TRCSTAT_TRIGGERED
  let pre ← gf F.LOOP_TRCCTL_PRE
  onlyIf (armed && !seen) do
    sb F.LOOP_TRCSTAT_TRIGGERED true
    each (fun c => do
      let w ← gf (F.LOOP_TRCWR_ENTRY c)
      sf (F.LOOP_TRCTRIG_ENTRY c) w) (List.range 8)
    modLoop fun l => { l with trc := l.trc.map fun c => { c with left := some (65536 - min pre 14 * 4096) } }
    trcDone

/-- A ring with one entry stored. -/
def ringPut (rings : List (Nat × Word)) (x : Nat × Word) : List (Nat × Word) := x :: rings.filter fun y => y.1 ≠ x.1

/-- The traces' staging takes a sample (R557, R567 level 1): samples of it have moved into their rings since the last one came, and where
all 64 buffers still hold one the oldest is overwritten in its own and reaches no ring. How many have moved the spec does not say: a
free value (assumption log 111). -/
def trcStage (x : Nat × Word) : Op Unit := do
  let k ← free
  modLoop fun l => { l with rings := (l.staged.take k).foldl ringPut l.rings, staged := l.staged.drop k }
  modLoop fun l => { l with staged := l.staged.drop (l.staged.length - 63) ++ [x] }
  let l ← loopS
  onlyIf (decide (64 ≤ l.staged.length)) stagingFull

/-- One channel records a word. -/
def trcPut (c : Nat) (w : Word) : Op Unit := do
  let e ← gf (F.LOOP_TRCWR_ENTRY c)
  let l ← loopS
  let t := l.trc.getD c {}
  let left := t.left.map (· - 1)
  trcStage (c * 65536 + e, w)
  modLoop fun l => { l with trc := setAt l.trc c { left := left, stopped := left == some 0 } }
  sf (F.LOOP_TRCWR_ENTRY c) ((e + 1) % 65536)

/-- Every channel that records slot `n` takes its node. -/
def trcSample (n : Nat) (ns : List (Option Word)) : Op Unit := do
  let armed ← trcArmed
  onlyIf armed do
    each (fun c => do
      let node ← gf (F.LOOP_TRCSEL_NODE c)
      let slot ← gf (F.LOOP_TRCSEL_SLOT c)
      let l ← loopS
      onlyIf (slot == n && decide (node < 12) && !(l.trc.getD c {}).stopped) (do let w ← nodeAt ns node; trcPut c w)) (List.range 8)
    trcDone

/-- The trigger of START 0b001: the node crosses the level in the direction of EDGE. -/
def trcCross (n : Nat) (ns : List (Option Word)) : Op Unit := do
  let armed ← trcArmed
  let start ← gf F.LOOP_TRCCTL_START
  let slot ← gf F.LOOP_TRGSRC_SLOT
  let node ← gf F.LOOP_TRGSRC_NODE
  let fall ← bf F.LOOP_TRGSRC_EDGE
  let lv ← gf F.LOOP_TRGLVL_LEVEL
  let l ← loopS
  onlyIf (armed && start == 1 && slot == n && decide (node < 12)) do
    let w ← nodeAt ns node
    let lvl := F16.toF32 lv
    let cross : Bool := match l.trgPrev with
      | none => false
      | some p => if fall then F32.lt lvl p && F32.le w lvl else F32.lt p lvl && F32.le lvl w
    modLoop fun l => { l with trgPrev := some w }
    onlyIf cross trcTrigger

/-- The trigger of START 0b110: bit `k` of EVT on slot `n` (0 OVERRUN, 1 PLAUS, 2 mode change, 3 SRCBAD). -/
def trcEvent (n k : Nat) : Op Unit := do
  let start ← gf F.LOOP_TRCCTL_START
  let slot ← gf F.LOOP_TRGSRC_SLOT
  let evt ← gf F.LOOP_TRGSRC_EVT
  onlyIf (start == 6 && slot == n && bitAt evt k) trcTrigger

/-- TRC ARM is set: the channels record afresh. -/
def trcArm : Op Unit := do
  sb F.LOOP_TRCSTAT_ARMED true
  sb F.LOOP_TRCSTAT_TRIGGERED false
  sb F.LOOP_TRCSTAT_DONE false
  modLoop fun l => { l with trc := List.replicate 8 {}, trgPrev := none }

/-! ### Injection (R237 to R239) -/

/-- The stages that feed back in a shift register of `n` stages (R238). -/
def prbsTaps (n : Nat) : List Nat :=
  [[7, 6], [8, 6, 5, 4], [9, 5], [10, 7], [11, 9], [12, 6, 4, 1], [13, 4, 3, 1], [14, 5, 3, 1], [15, 14]].getD (n - 7) [7, 6]

/-- One shift of a register whose stage k is bit k − 1. -/
def prbsShift (n sr : Nat) : Nat :=
  let fb := (prbsTaps n).foldl (fun x k => x != sr.testBit (k - 1)) false
  (sr * 2 + bit fb) % 2 ^ n

/-- The value of generator `i` at this latch, and the generator after it. -/
def genValue (i : Nat) (g : LoopGen) : Op (Word × LoopGen) := do
  let a ← gf (F.LOOP_INJAMP_AMP i)
  let len ← gf (F.LOOP_INJLEN_LEN i)
  let amp := F32.ofInt (toSigned 16 a)
  if g.typ = 0 then
    let adv := decide (0 < g.k ∧ max 1 len ≤ g.cnt + 1)
    let sr := if adv then prbsShift g.n g.sr else g.sr
    let cnt := if g.k = 0 ∨ adv = true then 0 else g.cnt + 1
    pure (if sr.testBit (g.n - 1) then amp else F32.neg amp, { g with k := g.k + 1, sr := sr, cnt := cnt })
  else if g.typ = 1 then pure (F32.mul amp (F32.sin g.k (max 4 len)), { g with k := g.k + 1 })
  else pure (amp, { g with k := g.k + 1 })

/-- Generator `i` at a latch of group `g`: its value is added at its node, and it stops when its count runs out. -/
def genLatch (g i : Nat) : Op Unit := do
  let l ← loopS
  match l.gens.getD i none with
  | none => pure ()
  | some x => do
    let sg ← gf (F.LOOP_CTL_GROUP x.slot)
    let start ← gf F.LOOP_TRCCTL_START
    onlyIf (sg == g) do
      let v ← genValue i x
      let cnt ← gf (F.LOOP_INJCNT_CNT i)
      onlyIf (x.k == 0 && start == i + 2) trcTrigger
      modSlot x.slot fun s => { s with inj := setAt s.inj x.node (F32.add (s.inj.getD x.node 0) v.1) }
      sb (F.LOOP_STAT_INJ x.slot) true
      let fin := decide (cnt ≠ 0 ∧ cnt ≤ v.2.k)
      modLoop fun l => { l with gens := setAt l.gens i (if fin then none else some v.2) }
      onlyIf fin (sb (F.LOOP_INJCTL_EN i) false)

/-! ### Mode of a slot (R223 to R225, R243) -/

/-- A slot leaves automatic for manual (R224): LOOP_MAN takes `v`, and so do its samples that are not yet computed. -/
def slotToManual (n v : Nat) : Op Unit := do
  let was ← gf (F.LOOP_STAT_MODEIN n)
  sf (F.LOOP_MAN_MAN n) v
  sf (F.LOOP_CTL_MODE n) slotManual
  sf (F.LOOP_STAT_MODEIN n) slotManual
  sb (F.LOOP_STAT_TRACK n) false
  modSlot n fun s => { s with first := false, man := v % 65536, older := s.older.map fun x => { x with man := v % 65536 } }
  onlyIf (was != slotManual) (trcEvent n 2)

/-- The hold value that the destination of slot `n` declares, else LOOP_OUT (R243, R342). -/
def slotHoldValue (n : Nat) : Op Nat := do
  let c ← gf (F.LOOP_DST_CLASS n)
  let i ← gf (F.LOOP_DST_INDEX n)
  let out ← gf (F.LOOP_OUT_OUT n)
  let ve ← bf (F.VDRV_HOLDV_HEN i)
  let vs ← gf (F.VDRV_HOLDV_HSET i)
  let fe ← bf (F.FAN_HOLDV_HEN i)
  let fs ← gf (F.FAN_HOLDV_HSET i)
  let te ← bf (F.FLD_TXOPT_HEN i)
  let ts ← gf (F.FLD_TXHVAL_HVAL i)
  pure (if c = 1 ∧ ve then vs else if c = 2 ∧ fe then fs else if c = 3 ∧ te then ts else out)

/-- Slot `n` takes its hold value at the entry to HOLD, at the latch after it or when the mode is left (R243): in manual, and off where
the host has written that meanwhile. -/
def slotHold (n : Nat) : Op Unit := do
  let v ← slotHoldValue n
  let m ← gf (F.LOOP_CTL_MODE n)
  slotToManual n v
  onlyIf (m == slotOff) (sf (F.LOOP_CTL_MODE n) slotOff)
  modSlot n fun s => { s with holdPending := false }

/-- The mode of slot `n` at a latch (R223, R243). A slot that is off has no sample to compute or issue. Of a slot that is to leave
automatic, a MODE that the host wrote off stands (DEDUCED, assumption log 89). -/
def slotMode (n : Nat) : Op Unit := do
  let s ← getSlot n
  let was ← gf (F.LOOP_STAT_MODEIN n)
  let m ← gf (F.LOOP_CTL_MODE n)
  let out ← gf (F.LOOP_OUT_OUT n)
  modSlot n fun s => { s with holdPending := false }
  if s.holdPending ∧ m ≠ slotOff then slotHold n
  else if m = was then pure ()
  else do
    onlyIf (was == slotAuto && m == slotManual) (sf (F.LOOP_MAN_MAN n) out)
    onlyIf (m == slotAuto) (modSlot n fun s => { s with first := true, fromOff := was == slotOff })
    onlyIf (m != slotAuto) (sb (F.LOOP_STAT_TRACK n) false)
    onlyIf (m == slotOff) (do
      sb (F.LOOP_STAT_SATHI n) false
      sb (F.LOOP_STAT_SATLO n) false)
    onlyIf (m == slotOff) (modSlot n fun s => { s with waiting := false, output := none, older := [] })
    sf (F.LOOP_STAT_MODEIN n) m
    trcEvent n 2

/-- Whether the engine acts in mode `m` as in HOLD (R243, R343, R344). -/
def holdsLoop (m : Nat) : Bool := decide (m ≤ 2 ∨ m = modeHold)

/-- Whether the engine acts as in HOLD now. -/
def loopHeld : Op Bool := do let m ← curMode; pure (holdsLoop m)

/-- The engine's entry to HOLD, IDLE, ENUMERATE or CALIBRATE (R243, R343, R344). -/
def loopHold : Op Unit := do
  let run ← bf F.LOOP_ECTL_RUN
  each (fun g => do
    let en ← bf (F.LOOP_PGCTL_EN g)
    let strokes ← bf (F.LOOP_PGCTL_TRIG g)
    onlyIf (run && en && strokes) (modGroup g fun x => { x with mute := true })) (List.range 8)
  each (fun n => do
    let m ← gf (F.LOOP_CTL_MODE n)
    let mi ← gf (F.LOOP_STAT_MODEIN n)
    let g ← gf (F.LOOP_CTL_GROUP n)
    let en ← bf (F.LOOP_PGCTL_EN g)
    onlyIf (m == slotAuto || mi == slotAuto) (do
      if run && en then modSlot n fun s => { s with holdPending := true }
      else slotHold n)) slotIdx

/-! ### The law (R220, R660) -/

/-- Binary32 of the group's h in s. -/
def hOf (ns : Nat) : Word := F32.ofRat (ns : Int) 1000000000

/-- The sample of slot `s` for the period of group `g` that began at `b`. -/
def LoopSlot.sampleOf (s : LoopSlot) (g b : Nat) : Option LoopSample :=
  (s.toLoopSample :: s.older).find? fun x => decide (x.grp = g ∧ x.began = b)

/-- The output of the period of group `g` that began at `b` of an outer slot of slot `n` with a lower number: slot `n`'s setpoint,
else LOOP_SP as latched (R226). -/
def slotSetpoint (n g b : Nat) : List Nat → Op (Option Nat)
  | [] => pure none
  | o :: l => do
    let r ← slotSetpoint n g b l
    let c ← gf (F.LOOP_DST_CLASS o)
    let i ← gf (F.LOOP_DST_INDEX o)
    let s ← getSlot o
    pure (match r with
      | some v => some v
      | none => if c = 4 ∧ i = n ∧ o < n then (s.sampleOf g b).bind (·.output) else none)

/-- The terms of a sample of R220 that do not touch the integrator: s, e, p, d and ff. -/
structure Terms where
  s : Word
  e : Word
  p : Word
  d : Word
  ff : Word

/-- The terms of a sample. -/
def lawTerms (sl : LoopSlot) (sp y f h : Word) : Terms :=
  let s := F32.add sp (sl.inj.getD 0 0)
  let ie := sl.inj.getD 1 0
  let e := F32.add (F32.sub s y) ie
  let ep := F32.add (F32.sub (F32.mul (sl.co 4) s) y) ie
  let p := F32.mul (sl.co 0) ep
  let a := F32.div (sl.co 3) (F32.add (sl.co 3) h)
  let dd := F32.div (F32.mul (F32.mul (sl.co 2) (F32.sub F32.one a)) (F32.sub y sl.yprev)) h
  let d := if sl.first then F32.zero else F32.sub (F32.mul a sl.d) dd
  let ff := F32.add (F32.mul (sl.co 5) f) (F32.ofInt sl.tab)
  ⟨s, e, p, d, ff⟩

/-- p + i + d + ff. -/
def Terms.sum (t : Terms) (i : Word) : Word := F32.add (F32.add (F32.add t.p i) t.d) t.ff

/-- The limits of a slot; OMAX below OMIN acts as OMIN (R222). -/
def slotLimits (signed : Bool) (s : LoopSlot) : Int × Int :=
  let lo := slotInt signed (s.raw 6)
  (lo, max lo (slotInt signed (s.raw 7)))

/-- The output of `u` within the limits, and which limit clamped it (R220, R221): 0 none, 1 OMAX, 2 OMIN. -/
def slotClamp (lim : Int × Int) (u : Word) : Nat × Nat :=
  let lo := F32.ofInt lim.1
  let hi := F32.ofInt lim.2
  (slotRaw (F32.toIntNear (F32.clamp lo hi u)), if F32.lt hi u then 1 else if F32.lt u lo then 2 else 0)

/-- SATHI and SATLO of slot `n`. -/
def slotSat (n k : Nat) : Op Unit := do
  sb (F.LOOP_STAT_SATHI n) (k == 1)
  sb (F.LOOP_STAT_SATLO n) (k == 2)

/-- The model's next ym (R229). -/
def modelNext (s : LoopSlot) (h : Word) : Word :=
  let tm := s.co 10
  let ub := s.ubuf.getD (s.raw 11 % 256) 0
  F32.add s.ym (F32.mul (F32.div h (F32.add tm h)) (F32.sub (F32.add (F32.mul (s.co 9) ub) s.c) s.ym))

/-- A sample takes note of PLEN without running the model (R229): an initialisation that its change to 1 makes due stays due. -/
def LoopSlot.plenNote (s : LoopSlot) : LoopSlot := { s with initDue := s.initDue || (s.plen && !s.plenWas), plenWas := s.plen }

/-- The model of slot `n` advances at the end of a sample with output `out` (R229); an initialisation takes the sample's own
values. Answers ym and the residual, where PLEN is 1. -/
def modelStep (n : Nat) (y out h : Word) : Op (Option (Word × Word)) := do
  let s ← getSlot n
  let ini := s.plen && (s.initDue || !s.plenWas)
  let dead := s.raw 11 % 256
  let ym := if ini then y else modelNext s h
  let res := F32.sub y ym
  let c := if ini then F32.sub y (F32.mul (s.co 9) out) else s.c
  let ub := if ini then List.replicate (dead + 1) out else (out :: s.ubuf).take (dead + 1)
  modSlot n fun s => { s with plenWas := s.plen, initDue := s.initDue && !s.plen }
  onlyIf s.plen do
    modSlot n fun s => { s with ym := ym, c := c, ubuf := ub, dwell := if ini then 0 else s.dwell }
    sf (F.LOOP_RES_RES n) (F16.ofF32 res)
  pure (if s.plen then some (ym, res) else none)

/-- The words of a sample by node. -/
def nodes (sp y e p i d ff u out : Option Word) (m : Option (Word × Word)) (inj : List Word) : List (Option Word) :=
  [sp, y, e, p, i, d, ff, u, out, m.map (·.1), m.map (·.2), some (F32.add (F32.add (inj.getD 0 0) (inj.getD 1 0)) (inj.getD 2 0))]

/-- A sample of slot `n` in manual (R223): LOOP_MAN with its injection, within the limits. -/
def manualSample (n : Nat) : Op Unit := do
  let s ← getSlot n
  let signed ← bf (F.LOOP_CTL_SIGNED n)
  let outer ← slotSetpoint n s.grp s.began slotIdx
  let old ← gf (F.LOOP_OUT_OUT n)
  let y := F32.ofInt (slotInt signed s.y)
  let u := F32.add (F32.ofInt (slotInt signed s.man)) (s.inj.getD 2 0)
  let sp := F32.add (F32.ofInt (slotInt signed (outer.getD s.sp))) (s.inj.getD 0 0)
  let e := F32.add (F32.sub sp y) (s.inj.getD 1 0)
  let c := slotClamp (slotLimits signed s) u
  let out := if F32.isNan u then old else c.1
  let outF := F32.ofInt (slotInt signed out)
  slotSat n c.2
  let m ← modelStep n y outF (hOf s.h)
  modSlot n fun s => { s with output := some out, waiting := false, yprev := y, dwell := 0 }
  let ns := nodes (some sp) (some y) (some e) none none none none (some u) (some outF) m s.inj
  trcCross n ns
  trcSample n ns

/-- Inner slot of slot `n`, if it is an outer one. -/
def innerOf (n : Nat) : Op (Option Nat) := do
  let c ← gf (F.LOOP_DST_CLASS n)
  let i ← gf (F.LOOP_DST_INDEX n)
  pure (if c = 4 then some i else none)

/-- Cascade state of slot `n` (R227, R228): its inner slot is clamped at OMAX, at OMIN, and the feedback to track where the inner
slot is in manual or off. -/
def cascade (n : Nat) : Op (Bool × Bool × Option Word) := do
  let o ← innerOf n
  match o with
  | none => pure (false, false, none)
  | some i => do
    let hi ← bf (F.LOOP_STAT_SATHI i)
    let lo ← bf (F.LOOP_STAT_SATLO i)
    let m ← gf (F.LOOP_STAT_MODEIN i)
    let y ← gf (F.LOOP_Y_Y i)
    let sg ← bf (F.LOOP_CTL_SIGNED i)
    pure (hi, lo, if m = slotAuto then none else some (F32.ofInt (slotInt sg y)))

/-- The sample of slot `n` just computed issues its present LOOP_MAN in place of the law's output, and the model holds that output. -/
def manualOutput (n : Nat) : Op Unit := do
  let s ← getSlot n
  let signed ← bf (F.LOOP_CTL_SIGNED n)
  let c := slotClamp (slotLimits signed s) (F32.add (F32.ofInt (slotInt signed s.man)) (s.inj.getD 2 0))
  slotSat n c.2
  modSlot n fun s => { s with output := some c.1, dwell := 0, ubuf := if s.plen then (F32.ofInt (slotInt signed c.1) :: s.ubuf.drop 1) else s.ubuf }

/-- A plausibility fault (R230): the slot goes to manual at its present output. -/
def plausFault (n : Nat) (res : Word) : Op Unit := do
  let out ← gf (F.LOOP_OUT_OUT n)
  sb (F.LOOP_STAT_PLAUS n) true
  sb F.LOOP_ESTAT_PLAUS true
  slotToManual n out
  trcEvent n 1
  raiseFrom Client.engine Ev.loopPlaus ([BitVec.ofNat 8 n, 0] ++ leBytes 2 (F16.ofF32 res))
  manualOutput n

/-- A sample of slot `n` in automatic (R220, R225, R228, R230, R660). -/
def autoSample (n : Nat) : Op Unit := do
  let s ← getSlot n
  let h := hOf s.h
  let signed ← bf (F.LOOP_CTL_SIGNED n)
  let old ← gf (F.LOOP_OUT_OUT n)
  let outer ← slotSetpoint n s.grp s.began slotIdx
  let cas ← cascade n
  let y := F32.ofInt (slotInt signed s.y)
  let sp := F32.ofInt (slotInt signed (outer.getD s.sp))
  let f := if s.ffen && s.fOk then F32.ofInt (slotInt signed s.f) else F32.zero
  let lim := slotLimits signed s
  let ki := s.co 1
  let tm := lawTerms s sp y f h
  let rest := F32.add (F32.add tm.p tm.d) tm.ff
  let last := F32.ofInt (slotInt signed (if s.fromOff then s.man else old))
  let v := tm.sum s.i
  let ke := F32.mul ki tm.e
  let up := F32.lt F32.zero ke
  let dn := F32.lt ke F32.zero
  let stop := (F32.lt (F32.ofInt lim.2) v && up) || (F32.lt v (F32.ofInt lim.1) && dn) || (cas.1 && up) || (cas.2.1 && dn)
  let i := match cas.2.2 with
    | some yi => F32.sub yi rest
    | none => if s.first then F32.sub last rest else if stop then s.i else F32.add s.i (F32.mul (F32.mul ki h) tm.e)
  let u := F32.add (tm.sum i) (s.inj.getD 2 0)
  let ini := s.plen && (s.initDue || s.first || !s.plenWas)
  let ymBad := s.plen && !ini && F32.isNan (modelNext s h)
  let bad := F32.isNan u || F32.isNan tm.p || F32.isNan i || F32.isNan tm.d || F32.isNan tm.ff || ymBad
  sb (F.LOOP_STAT_TRACK n) cas.2.2.isSome
  if bad then do
    sb (F.LOOP_STAT_NUMX n) true
    modSlot n fun s => { s.plenNote with output := some old, waiting := false }
    let outF := F32.ofInt (slotInt signed old)
    let ns := nodes (some tm.s) (some y) (some tm.e) (some tm.p) (some i) (some tm.d) (some tm.ff) (some u) (some outF) none s.inj
    trcCross n ns
    trcSample n ns
  else do
    let c := slotClamp lim u
    let outF := F32.ofInt (slotInt signed c.1)
    slotSat n c.2
    modSlot n fun s => { s with output := some c.1, waiting := false, i := i, d := tm.d, yprev := y, initDue := s.initDue || s.first, first := false }
    let m ← modelStep n y outF h
    match m with
    | none => pure ()
    | some (_, res) => do
      let over' := F32.lt (s.co 12) (F32.abs res)
      modSlot n fun s => { s with dwell := if over' then s.dwell + 1 else 0 }
      let s ← getSlot n
      onlyIf (over' && decide (max 1 (s.raw 11 / 256) ≤ s.dwell)) (plausFault n res)
    let s' ← getSlot n
    let out := F32.ofInt (slotInt signed (s'.output.getD old))
    let ns := nodes (some tm.s) (some y) (some tm.e) (some tm.p) (some i) (some tm.d) (some tm.ff) (some u) (some out) m s.inj
    trcCross n ns
    trcSample n ns

/-- An invalid source at a sample (R212). -/
def srcBad (n : Nat) (feedback : Bool) : Op Unit := do
  let out ← gf (F.LOOP_OUT_OUT n)
  sb (F.LOOP_STAT_SRCBAD n) true
  sb F.LOOP_ESTAT_SRCBAD true
  onlyIf feedback do
    slotToManual n out
    raiseFrom Client.engine Ev.loopSrcbad [BitVec.ofNat 8 n, 0, 0, 0]
  trcEvent n 3

/-- What the sources that slot `n` latched do to it where it is in automatic (R212). -/
def slotSources (n : Nat) : Op Unit := do
  let m ← gf (F.LOOP_STAT_MODEIN n)
  let s ← getSlot n
  onlyIf (m == slotAuto && !s.yOk) (srcBad n true)
  onlyIf (m == slotAuto && s.yOk && s.ffen && !s.fOk) (srcBad n false)

/-- The computation of slot `n` (R215). -/
def slotSample (n : Nat) : Op Unit := do
  slotSources n
  let m ← gf (F.LOOP_STAT_MODEIN n)
  if m = slotAuto then autoSample n else manualSample n

/-- Runs `m` on sample `k` of slot `n`: 0 is the present one, then the older ones. -/
def atSample (n k : Nat) (m : Op Unit) : Op Unit := do
  if k = 0 then m
  else do
    let s ← getSlot n
    modSlot n fun x => { x with toLoopSample := s.older.getD (k - 1) {}, older := setAt x.older (k - 1) s.toLoopSample }
    m
    modSlot n fun x => { x with toLoopSample := x.older.getD (k - 1) {}, older := setAt x.older (k - 1) x.toLoopSample }

/-- Slot `n` overruns (R218); what it latched of its sources stands (R212). -/
def slotOverrun (n : Nat) : Op Unit := do
  let s ← getSlot n
  let gr ← getGroup s.grp
  let signed ← bf (F.LOOP_CTL_SIGNED n)
  sb (F.LOOP_STAT_OVERRUN n) true
  sb F.LOOP_ESTAT_OVERRUN true
  sb (F.LOOP_PGSTAT_OVR s.grp) true
  cntSat (F.LOOP_OVRCNTS_CNT n) 1
  cntSat F.LOOP_OVRCNT_CNT 1
  onlyIf (decide (s.began ∉ gr.ovr)) do
    cntSat (F.LOOP_PGOVR_CNT s.grp) 1
    modGroup s.grp fun x => { x with ovr := s.began :: x.ovr }
  modSlot n fun x => { x.plenNote with waiting := false, output := none, yprev := F32.ofInt (slotInt signed s.y) }
  trcEvent n 0
  slotSources n
  trcSample n (List.replicate 12 (some F32.nan))

/-! ### The datapath (R215 to R218) -/

/-- The waiting samples: output instant, group, slot and place among the slot's samples. -/
def waitingSlots : List Nat → Op (List (Nat × Nat × Nat × Nat))
  | [] => pure []
  | n :: l => do
    let r ← waitingSlots l
    let s ← getSlot n
    let xs := (s.toLoopSample :: s.older).zipIdx.filter fun x => x.1.waiting
    pure (xs.map (fun x => (x.1.outAt, x.1.grp, n, x.2)) ++ r)

/-- Whether an entry comes before another in the order of R217. -/
def before (x y : Nat × Nat × Nat × Nat) : Bool :=
  decide (x.1 < y.1 ∨ (x.1 = y.1 ∧ (x.2.1 < y.2.1 ∨ (x.2.1 = y.2.1 ∧ x.2.2.1 < y.2.2.1))))

/-- The first entry in the order of R217. -/
def firstSlot : List (Nat × Nat × Nat × Nat) → Option (Nat × Nat × Nat × Nat)
  | [] => none
  | x :: l => match firstSlot l with
    | none => some x
    | some y => if before y x then some y else some x

/-- The datapath's busy time in second `k` from the release of reset, in ns. -/
def LoopS.busyIn (l : LoopS) (k : Nat) : Nat := ((l.busy.find? fun x => x.1 = k).map (·.2)).getD 0

/-- The busy times with `d` ns more in second `k`. -/
def LoopS.busyPut (l : LoopS) (k d : Nat) : List (Nat × Nat) :=
  (if d = 0 then [] else [(k, l.busyIn k + d)]) ++ l.busy.filter fun x => d = 0 ∨ x.1 ≠ k

/-- The busy times with `d` ns more from time `t` on, each part in its own second. -/
def LoopS.busyFrom (l : LoopS) (t d : Nat) : List (Nat × Nat) :=
  let k := (t - l.loadAt) / 1000000000
  let room := min d ((k + 1) * 1000000000 - (t - l.loadAt))
  { l with busy := l.busyPut k room }.busyPut (k + 1) (d - room)

/-- SLOT_COMPUTE: the engine, free, overruns the slots that cannot finish before their output instant, and computes the next in 48
engine cycles (R215, R217, R218). -/
def opSlotCompute : Op Unit := do
  let t ← now
  let l ← loopS
  let ws ← waitingSlots slotIdx
  onlyIf (decide (l.busyUntil ≤ t)) do
    each (fun (x : Nat × Nat × Nat × Nat) => atSample x.2.2.1 x.2.2.2 (slotOverrun x.2.2.1)) (ws.filter fun x => x.1 ≤ t + 240)
    match firstSlot (ws.filter fun x => t + 240 < x.1) with
    | none => pure ()
    | some x => do
      modLoop fun l => { l with busyUntil := t + 240, busy := l.busyFrom t 240 }
      atSample x.2.2.1 x.2.2.2 (slotSample x.2.2.1)

/-- A destination takes an output (R209, R216, R243). -/
def destWrite (n v : Nat) : Op Unit := do
  let c ← gf (F.LOOP_DST_CLASS n)
  let i ← gf (F.LOOP_DST_INDEX n)
  let held ← loopHeld
  if c = 4 then sf (F.LOOP_SP_SP i) v
  else if held then pure ()
  else if c = 1 then valveSet i v
  else if c = 2 then fanSet i v
  else if c = 3 then objSet i v
  else pure ()

/-- The place of the sample of slot `s` for the period of group `g` that began at `b`, while it waits or its output does. -/
def LoopSlot.openAt (s : LoopSlot) (g b : Nat) : Option Nat :=
  (s.toLoopSample :: s.older).findIdx? fun x => decide (x.grp = g ∧ x.began = b) && (x.waiting || x.output.isSome)

/-- The slot without its sample of the period of group `g` that began at `b`. -/
def LoopSlot.dropSample (s : LoopSlot) (g b : Nat) : LoopSlot :=
  { s with output := if s.grp = g ∧ s.began = b then none else s.output, older := s.older.filter fun x => !decide (x.grp = g ∧ x.began = b) }

/-- The outputs of the period of group `g` that began at `b` are issued (R216): none with RUN at 0 (R245), and none of a stroke
group that has not latched since the entry to HOLD (R243). -/
def groupIssue (g b : Nat) : Op Unit := do
  let run ← bf F.LOOP_ECTL_RUN
  each (fun n => do
    let s ← getSlot n
    match s.openAt g b with
    | some k => onlyIf ((s.toLoopSample :: s.older).getD k {}).waiting (atSample n k (slotOverrun n))
    | none => pure ()) slotIdx
  let gr ← getGroup g
  modGroup g fun x => { x with outAt := if x.began = b then none else x.outAt, older := x.older.filter (fun p => p.1 ≠ b), ovr := x.ovr.filter (· ≠ b) }
  each (fun n => do
    let s ← getSlot n
    modSlot n fun s => s.dropSample g b
    match (s.sampleOf g b).bind (·.output) with
    | some v => onlyIf (run && !gr.mute) (do
        sf (F.LOOP_OUT_OUT n) v
        destWrite n v)
    | none => pure ()) slotIdx

/-- The outputs of every period of group `g` whose output instant has come are issued. -/
def groupDue (g : Nat) : Op Unit := do
  let t ← now
  let gr ← getGroup g
  each (fun (x : Nat × Nat) => onlyIf (decide (x.2 ≤ t)) (groupIssue g x.1)) (gr.older ++ (gr.outAt.map fun o => (gr.began, o)).toList)

/-- GROUP_OUTPUT: an output instant of group `g`. -/
def opGroupOutput (g : Nat) : Op Unit := groupDue g

/-- The engine leaves HOLD, IDLE, ENUMERATE or CALIBRATE (R244, R343, R344): a slot that had yet to go to manual does, and at its
groups' next output instants every slot writes the LOOP_MAN of its sample, whatever mode computed it. -/
def loopRelease : Op Unit := do
  each (fun g => modGroup g fun x => { x with mute := false }) (List.range 8)
  each (fun n => do
    let s ← getSlot n
    onlyIf s.holdPending (slotHold n)
    let m ← gf (F.LOOP_STAT_MODEIN n)
    onlyIf (m == slotManual) (each (fun k =>
      onlyIf ((s.toLoopSample :: s.older).getD k {}).output.isSome (atSample n k (manualOutput n))) (List.range (s.older.length + 1))))
    slotIdx

/-- Wall time is stepped (R74): a wall-time group starts its next period at the next aligned instant (R206). -/
def wallStep (v : Nat) : Op Unit := do
  modU fun u => { u with wall := v, slew := 0, tomo := { u.tomo with frame := u.tomo.frame.map fun f => { f with wallAt := 0 } } }
  modLoop fun l => { l with groups := l.groups.map fun g => { g with latchW := none } }

/-! ### Latches (R214) -/

/-- Slot `n` latches at phase 0 of group `g`. -/
def slotLatch (g n : Nat) : Op Unit := do
  let t ← now
  let gr ← getGroup g
  let m ← gf (F.LOOP_STAT_MODEIN n)
  onlyIf (m != slotOff) do
    let s ← getSlot n
    match s.pending with
    | k :: _ => coefTake n k
    | [] => pure ()
    let s ← getSlot n
    let l ← loopS
    let c ← gf (F.LOOP_SRC_CLASS n)
    let i ← gf (F.LOOP_SRC_INDEX n)
    let fc ← gf (F.LOOP_FFSRC_CLASS n)
    let fi ← gf (F.LOOP_FFSRC_INDEX n)
    let y ← source g c i
    let f ← source g fc fi
    let sp ← gf (F.LOOP_SP_SP n)
    let man ← gf (F.LOOP_MAN_MAN n)
    let plen ← bf (F.LOOP_CTL_PLEN n)
    let ften ← bf (F.LOOP_CTL_FTEN n)
    let ffen ← bf (F.LOOP_CTL_FFEN n)
    let ang ← angleOf (bits (s.raw 8) 11 8)
    let e := ((l.ft.find? (fun x => x.1 = s.raw 8 / 4096 * 1024 + ang)).map (·.2)).getD 0
    sf (F.LOOP_Y_Y n) y.1
    modSlot n fun s => { s with waiting := true, output := none, y := y.1, yOk := y.2, f := f.1, fOk := f.2, sp := sp, man := man, plen := plen, ffen := ffen, tab := if ften then toSigned 16 e else 0, grp := g, began := t, outAt := gr.outAt.getD t, h := gr.h }

/-- Group `g` latches: the generators advance and every slot samples, by the modes of this latch. `h` is the period in ns, `out` the
output instant. A period whose output instant is still to come completes (R206, R216). -/
def groupStart (g h out : Nat) : Op Unit := do
  let t ← now
  groupDue g
  modGroup g fun x => { x with older := x.older ++ (x.outAt.map fun o => (x.began, o)).toList, h := h, began := t, outAt := some out, active := true, mute := false }
  sb (F.LOOP_PGSTAT_ACTIVE g) true
  let b ← blockOp
  let mine := slotIdx.filter fun n => (F.LOOP_CTL_GROUP n).of (b.regs.get (R.LOOP_CTL n)) == g
  each (fun n => do
    modSlot n fun s => { s with inj := [0, 0, 0], older := if s.waiting || s.output.isSome then s.older ++ [s.toLoopSample] else s.older }
    sb (F.LOOP_STAT_INJ n) false
    slotMode n) mine
  each (genLatch g) [0, 1, 2, 3]
  each (slotLatch g) mine
  let b ← blockOp
  let leads := (List.range 16).map fun n => toSigned 48 ((b.regs.get (R.ENC_LEADH n)).toNat * 2 ^ 32 + (b.regs.get (R.ENC_LEADL n)).toNat)
  modGroup g fun x => { x with leads := some leads }

/-- The period of LOOP_PGPER: in 10 µs for a wall-time group within its bounds (R205), in strokes for a stroke group. -/
def groupPeriod (g : Nat) (strokes : Bool) : Op Nat := do
  let unit ← gf (F.LOOP_PGPER_UNIT g)
  let n ← gf (F.LOOP_PGPER_COUNT g)
  let n := max 1 n
  pure (if strokes then n * [1, 16, 256, 1].getD unit 1 else max 10 (min 1000000 (n * [1, 100, 10000, 1].getD unit 1)))

/-- GROUP_LATCH: phase 0 of a wall-time group (R206, R234). -/
def opGroupLatch (g : Nat) : Op Unit := do
  let t ← now
  let w ← wallTime
  let run ← bf F.LOOP_ECTL_RUN
  let en ← bf (F.LOOP_PGCTL_EN g)
  let strokes ← bf (F.LOOP_PGCTL_TRIG g)
  let op ← gf (F.LOOP_PGCTL_OPHASE g)
  let p ← groupPeriod g false
  let ph ← gf (F.LOOP_PGPH_PHASE g)
  let gr ← getGroup g
  let p0 := if gr.active then gr.p else p
  let ph0 := if gr.active then gr.ph else ph
  let k := w / 10000
  let due := decide (w % 10000 < 4 ∧ k % p0 = ph0 % p0 ∧ gr.latchW ≠ some k ∧ g < 8)
  onlyIf (due && !strokes) do
    if en && run then do
      modGroup g fun x => { x with p := p, ph := ph, latchW := some k }
      groupStart g (p * 10000) (t + p * 2000 * max 1 op / 256 * 5)
    else do
      modGroup g fun x => { x with active := false }
      sb (F.LOOP_PGSTAT_ACTIVE g) false

/-- STROKE_TRIGGER: a stroke group's lane reaches the next trigger position (R207). -/
def opStrokeTrigger (g : Nat) : Op Unit := do
  let t ← now
  let w ← wallTime
  let run ← bf F.LOOP_ECTL_RUN
  let en ← bf (F.LOOP_PGCTL_EN g)
  let strokes ← bf (F.LOOP_PGCTL_TRIG g)
  let lane ← gf (F.LOOP_PGCTL_LANE g)
  let odly ← gf (F.LOOP_PGODLY_ODLY g)
  let n ← groupPeriod g true
  let gr ← getGroup g
  let p ← leadOf lane
  let gap := max 1 odly * 1000
  let soon := gr.last.isSome && decide (t < gr.lastT + gap)
  onlyIf (strokes && gr.active && decide (gr.next ≤ p ∧ g < 8)) do
    if !en then do
      modGroup g fun x => { x with active := false }
      sb (F.LOOP_PGSTAT_ACTIVE g) false
    else if !run then modGroup g fun x => { x with next := x.next + x.n }
    else if soon then do
      modGroup g fun x => { x with next := x.next + x.n }
      sb (F.LOOP_PGSTAT_TSKIP g) true
      cntSat (F.LOOP_PGTSKIP_CNT g) 1
    else do
      modGroup g fun x => { x with n := n, next := x.next + n, last := some w, lastT := t }
      groupStart g (min 10000000000 (w - gr.last.getD gr.enAt)) (t + gap)

/-- The share of a second that `ns` are, in 0.01 %: the spec states no rounding. -/
def loadShare (ns : Nat) : Nat := min ((quot (ns : Int) 100000).toNat) 0xFFFF

/-- LOOP_LOAD_UPDATE: a whole second of the engine's clock, counted from the release of reset, has ended (LOOP_LOAD). -/
def opLoopLoadUpdate : Op Unit := do
  let t ← now
  let l ← loopS
  let peak ← gf F.LOOP_LOAD_PEAK
  let k := (t - l.loadAt) / 1000000000
  onlyIf (decide (l.loadN < k)) do
    modLoop fun l => { l with loadN := k, busy := l.busy.filter fun x => k ≤ x.1 }
    sf F.LOOP_LOAD_LAST (loadShare (l.busyIn (k - 1)))
    sf F.LOOP_LOAD_PEAK ((l.busy.filter fun x => x.1 < k).foldl (fun a x => max a (loadShare x.2)) peak)

/-! ### Writes -/

/-- Whether the chain of destinations of class 0x4 from slot `k` comes back to slot `n` (R210). -/
def chainHits (n : Nat) : Nat → Nat → Op Bool
  | 0, _ => pure false
  | fuel + 1, k =>
    if k = n then pure true
    else do
      let o ← innerOf k
      match o with
      | none => pure false
      | some i => chainHits n fuel i

/-- A write of a slot's source or destination (R209, R210). -/
def slotRoute (n a : Nat) (new : Word) (dest : Bool) : Op Unit := do
  let mode ← gf (F.LOOP_CTL_MODE n)
  let c := bits new.toNat 15 12
  let i := bits new.toNat 11 0
  let loops ← if dest && c == 4 then chainHits n 129 i else pure false
  let ok := mode == slotOff && (if dest then dstValid c i else srcValid c i) && !loops
  if ok then wr a new else sb (F.LOOP_STAT_CFGREJ n) true

/-- A write of LOOP_CTL (R231, R243, R343, R344); `raw` is the word written. -/
def slotControl (n a : Nat) (new raw : Word) : Op Unit := do
  let old ← rd a
  let held ← loopHeld
  let om := (F.LOOP_CTL_MODE n).of old
  let nm := (F.LOOP_CTL_MODE n).of new
  let mask := BitVec.ofNat 32 (raw.toNat / 65536)
  let refuse := om != slotOff && ((F.LOOP_CTL_GROUP n).of mask != 0 || (F.LOOP_CTL_SIGNED n).of mask != 0)
  onlyIf refuse (sb (F.LOOP_STAT_CFGREJ n) true)
  let w := if refuse then (F.LOOP_CTL_SIGNED n).put ((F.LOOP_CTL_GROUP n).put new ((F.LOOP_CTL_GROUP n).of old)) ((F.LOOP_CTL_SIGNED n).of old) else new
  let w := if nm = 3 ∨ (held = true ∧ nm = slotAuto) then (F.LOOP_CTL_MODE n).put w om else w
  wr a w
  let mi ← gf (F.LOOP_STAT_MODEIN n)
  onlyIf (mi == slotOff && ((F.LOOP_CTL_PLEN n).of w == 0 || (F.LOOP_CTL_PLEN n).of old == 0)) (modSlot n fun s => { s with plenWas := false })
  onlyIf ((F.LOOP_CTL_MODE n).of w == slotOff) (coefFlush n)

/-- A write of LOOP_PGCTL (R207, R208, R234). The last trigger that started a period stays the group's previous trigger when EN is set
again (R207), and the lane speed goes on from the latch before (R209). -/
def groupControl (g a : Nat) (new : Word) : Op Unit := do
  let w ← wallTime
  let old ← rd a
  let en := (F.LOOP_PGCTL_EN g).of old != 0
  let v := if en then (F.LOOP_PGCTL_LANE g).put ((F.LOOP_PGCTL_TRIG g).put new ((F.LOOP_PGCTL_TRIG g).of old)) ((F.LOOP_PGCTL_LANE g).of old) else new
  wr a v
  onlyIf ((F.LOOP_PGCTL_TRIG g).of v != (F.LOOP_PGCTL_TRIG g).of old) (modGroup g fun x => { x with active := false })
  onlyIf (!en && (F.LOOP_PGCTL_EN g).of v != 0 && (F.LOOP_PGCTL_TRIG g).of v != 0) do
    let p ← leadOf ((F.LOOP_PGCTL_LANE g).of v)
    let n ← groupPeriod g true
    modGroup g fun x => { x with active := true, n := n, next := p + n, enAt := w, leads := if x.last.isNone then none else x.leads }
    sb (F.LOOP_PGSTAT_ACTIVE g) true

/-- A write of LOOP_INJCTL (R237, R239). -/
def injControl (i a : Nat) (new : Word) : Op Unit := do
  let old ← rd a
  let t := (F.LOOP_INJCTL_TYPE i).of new
  let nd := (F.LOOP_INJCTL_NODE i).of new
  let w := if t = 3 then (F.LOOP_INJCTL_TYPE i).put new ((F.LOOP_INJCTL_TYPE i).of old) else new
  let w := if nd = 3 then (F.LOOP_INJCTL_NODE i).put w ((F.LOOP_INJCTL_NODE i).of old) else w
  wr a w
  let n := max 7 (min 15 ((F.LOOP_INJCTL_PRBSN i).of w))
  let was := (F.LOOP_INJCTL_EN i).of old != 0
  let on := (F.LOOP_INJCTL_EN i).of w != 0
  let gen : LoopGen := { typ := (F.LOOP_INJCTL_TYPE i).of w, node := (F.LOOP_INJCTL_NODE i).of w, n := n, slot := (F.LOOP_INJCTL_SLOT i).of w, sr := 2 ^ n - 1 }
  onlyIf (on && !was) (modLoop fun l => { l with gens := setAt l.gens i (some gen) })
  onlyIf (!on && was) (modLoop fun l => { l with gens := setAt l.gens i none })

/-- A write of LOOP_TRCCTL (R242). -/
def trcControl (a : Nat) (new acts : Word) : Op Unit := do
  let old ← bf F.LOOP_TRCCTL_ARM
  wr a new
  let on := F.LOOP_TRCCTL_ARM.of new != 0
  let start := F.LOOP_TRCCTL_START.of new
  onlyIf (on && !old) trcArm
  onlyIf (!on) (sb F.LOOP_TRCSTAT_ARMED false)
  onlyIf (acts.toNat.testBit 14 && (start == 0 || start == 7)) trcTrigger

/-- Entry `k` of a friction and cogging table takes a value. -/
def ftPut (k v : Nat) : Op Unit :=
  modLoop fun l => { l with ft := (if v = 0 then [] else [(k, v)]) ++ l.ft.filter (fun x => x.1 ≠ k) }

/-- A write of LOOP_FTDATA (R236). -/
def ftWrite (new : Word) : Op Unit := do
  let t ← gf F.LOOP_FTIDX_TABLE
  let e ← gf F.LOOP_FTIDX_ENTRY
  let inc ← bf F.LOOP_FTIDX_AINC
  ftPut (t * 1024 + e) (new.toNat % 65536)
  onlyIf inc do
    sf F.LOOP_FTIDX_ENTRY (e + 1)
    onlyIf (e == 1023) (sf F.LOOP_FTIDX_TABLE (t + 1))

/-- A write of a LOOP control register takes effect. -/
def loopWrite (base i a : Nat) (new acts raw : Word) : Op Unit :=
  if base = R.LOOP_CTL 0 then slotControl i a new raw
  else if base = R.LOOP_SRC 0 ∨ base = R.LOOP_FFSRC 0 then slotRoute i a new false
  else if base = R.LOOP_DST 0 then slotRoute i a new true
  else if base ∈ coefRegs 0 then do
    wr a new
    coefPend i ((coefRegs 0).idxOf base)
  else if base = R.LOOP_PGCTL 0 then groupControl i a new
  else if base = R.LOOP_PGPER 0 then onlyIf ((F.LOOP_PGPER_UNIT i).of new != 3) (wr a new)
  else if base = R.LOOP_INJCTL 0 then injControl i a new
  else if base = R.LOOP_TRCCTL then trcControl a new acts
  else if base = R.LOOP_FTDATA then ftWrite new
  else if base = R.LOOP_TRCSEL 0 then do
    wr a new
    trcDone
  else wr a new

/-- What a read of a LOOP register shows: BUSY, NSLOT, ACTIVE (a group whose EN or whose RUN is 0 starts no period, R208, R245), and the entry that LOOP_FTIDX names. -/
def loopRead (base i a : Nat) : Op Word := do
  let w ← rd a
  let t ← now
  let l ← loopS
  let b ← blockOp
  if base = R.LOOP_ESTAT then pure (F.LOOP_ESTAT_BUSY.put w (bit (decide (t < l.busyUntil))))
  else if base = R.LOOP_PGSTAT 0 then
    let on := slotIdx.filter fun n =>
      (F.LOOP_CTL_GROUP n).of (b.regs.get (R.LOOP_CTL n)) == i && (F.LOOP_STAT_MODEIN n).of (b.regs.get (R.LOOP_STAT n)) != 0
    let going := (F.LOOP_PGCTL_EN i).of (b.regs.get (R.LOOP_PGCTL i)) != 0 && F.LOOP_ECTL_RUN.of (b.regs.get R.LOOP_ECTL) != 0
    let w := if going then w else (F.LOOP_PGSTAT_ACTIVE i).put w 0
    pure ((F.LOOP_PGSTAT_NSLOT i).put w on.length)
  else if base = R.LOOP_FTDATA then do
    let tb ← gf F.LOOP_FTIDX_TABLE
    let e ← gf F.LOOP_FTIDX_ENTRY
    pure (BitVec.ofNat 32 (((l.ft.find? (fun x => x.1 = tb * 1024 + e)).map (·.2)).getD 0))
  else pure w

/-- A repair takes LOOP_CTL of slot `n` to MODE off (R462): the slot writes nothing from then on. -/
def slotRepairOff (n : Nat) : Op Unit := do
  let was ← gf (F.LOOP_STAT_MODEIN n)
  sf (F.LOOP_STAT_MODEIN n) slotOff
  sb (F.LOOP_STAT_TRACK n) false
  sb (F.LOOP_STAT_SATHI n) false
  sb (F.LOOP_STAT_SATLO n) false
  modSlot n fun s => { s with holdPending := false, waiting := false, output := none, older := [], plenWas := false }
  onlyIf (was != slotOff) (trcEvent n 2)
  coefFlush n

/-- The control engine after a reset: its data as at power-on (R343, R609). -/
def loopReset : Op Unit := do
  let t ← now
  modLoop fun _ => { loadAt := t }

end Sys2Proof.Machine
end

