-- ==== Sys2Proof/Machine/Net.lean ====
section
/-!
DEFINITION. Machine/Net.lean: path redundancy (R503 to R524): verdicts, switch-overs, the Shuffle, takeback, and the saves of
the path images.
-/
namespace Sys2Proof.Machine

/-- The power domains of path `p` of link `l` (R503, R603). -/
def pathDomains (l p : Nat) : List Nat :=
  if l = 0 then [128 + p] else if l ≤ 4 then [130 + 2 * (l - 1) + p] else [138 + 2 * p, 139 + 2 * p]

/-- Switches the domains of a path. -/
def pathPower (l p : Nat) (on : Bool) : Op Unit := each (fun d => domainSwitch d on) (pathDomains l p)

/-- Whether this module acts as the head (R526): the module with its HEAD ball low, and a cluster of one (R527). -/
def isHead : Op Bool := do
  let u ← units
  pure (!u.rng.ring || u.pwr.headLow)

/-- Whether this module is in a ring that another module heads: the head alone orders the ring's switch-overs (R551). -/
def ringFollower : Op Bool := do
  let u ← units
  let h ← isHead
  pure (u.rng.joined && !h)

/-- Whether link `l` is in use, so that its active path is powered (R505). -/
def linkUsed (l : Nat) : Op Bool := do
  let u ← units
  if l = 0 then pure u.sys.started
  else if l ≤ 4 then bf (F.FLD_BCTL_EN (l - 1))
  else pure (u.rng.ring && (u.rng.joined || u.rng.forming.isSome))

/-- The codes of NET_LSTAT.VA and VB. -/
def vNone : Nat := 0
def vHealthy : Nat := 1
def vFailed : Nat := 2

/-- The recorded verdict of path `p` of link `l`. -/
def pathVerdict (l p : Nat) : Op Nat := if p = 0 then gf (F.NET_LSTAT_VA l) else gf (F.NET_LSTAT_VB l)

/-- Records a verdict on path `p` of link `l`. -/
def recordVerdict (l p v : Nat) : Op Unit := if p = 0 then sf (F.NET_LSTAT_VA l) v else sf (F.NET_LSTAT_VB l) v

/-- A switch-over of link `l` is in progress or owed (R512, R517). -/
def linkBusy (l : Nat) : Op Bool := do
  let u ← units
  let k ← getLink l
  let s ← bf (F.NET_LSTAT_SWITCHING l)
  pure (s || k.want || (l == 5 && bitAt u.rng.orders 3))

/-- A switch-over of link `l` is to start (R513); a ring's is first ordered by the head (R551). -/
def wantSwitch (l : Nat) : Op Unit := do
  let u ← units
  if l = 5 ∧ u.rng.joined then modU fun u => { u with rng := { u.rng with orders := u.rng.orders ||| 8 } }
  else modLink l fun k => { k with want := true }

/-- The healthy run of path `p` of link `l` starts, goes on or ends (R519). -/
def healthyRun (l p : Nat) (failed : Bool) : Op Unit := do
  let t ← now
  let nx (o : Option Nat) : Option Nat := if failed then none else some (o.getD t)
  if p = 0 then modLink l fun k => { k with healthyA := nx k.healthyA }
  else modLink l fun k => { k with healthyB := nx k.healthyB }

/-- A verdict on path `p` of link `l` acts (R511). -/
def verdictActs (l p : Nat) (failed : Bool) : Op Unit := do
  let a ← gf (F.NET_LSTAT_ACTIVE l)
  let other ← pathVerdict l (1 - a)
  if failed then
    (if p = a then
      (if other = vFailed then do
        sb (F.NET_LSTAT_NOPATH l) true
        sb F.NET_STAT_NOPATH true
       else wantSwitch l)
     else pure ())
  else sb (F.NET_LSTAT_NOPATH l) false

/-- NET_LSTAT.HELD of link `l`. -/
def heldShow (l : Nat) : Op Unit := do
  let k ← getLink l
  sb (F.NET_LSTAT_HELD l) (k.heldA.isSome || k.heldB.isSome)

/-- A verdict accepted while link `l` is switching is held (R512). -/
def verdictHold (l p : Nat) (failed : Bool) : Op Unit := do
  let k ← getLink l
  let old := if p = 0 then k.heldA else k.heldB
  onlyIf old.isSome (sb F.NET_STAT_VHELD true)
  if p = 0 then modLink l fun k => { k with heldA := some failed } else modLink l fun k => { k with heldB := some failed }
  heldShow l

/-- Whether verdict number `n` is greater than `h`, counted modulo 2^32 as in R361. -/
def laterThan (n h : Nat) : Bool :=
  let d := (n + 2 ^ 32 - h % 2 ^ 32) % 2 ^ 32
  decide (1 ≤ d ∧ d ≤ 65536)

/-- An accepted verdict is applied (R511, R512). -/
def verdictApply (l p : Nat) (failed : Bool) : Op Unit := do
  let busy ← linkBusy l
  if busy then verdictHold l p failed else verdictActs l p failed

/-- An accepted verdict is applied by RT1, or waits for it (R29). -/
def verdictGive (l p : Nat) (failed : Bool) : Op Unit := do
  let up ← coreUp 5
  if up then verdictApply l p failed else modLink l fun k => { k with owed := k.owed ++ [(p, failed)] }

/-- RT1 runs again: it applies what waits, in the order of acceptance. -/
def verdictsOwed : Op Unit := each (fun l => do
  let k ← getLink l
  onlyIf (!k.owed.isEmpty) do
    modLink l fun k => { k with owed := [] }
    each (fun x => verdictApply l x.1 x.2) k.owed) (List.range 6)

/-- A verdict from the Dealer (R511, R512). -/
def verdictTake (l p : Nat) (failed : Bool) (num : Nat) : Op Unit := do
  let h ← rd (R.NET_VNUM l)
  if laterThan num h.toNat then do
    wrN (R.NET_VNUM l) num
    recordVerdict l p (if failed then vFailed else vHealthy)
    healthyRun l p failed
    verdictGive l p failed
  else sb F.NET_STAT_VSTALE true

/-- SWITCHOVER_START: steps 1 to 4 of R513: the old path stops, the standby is powered and its working copies are restored (R508).
The ring starts at a cycle
boundary (R514), with its queue frozen; the domains of a ring that is not in use stay off (R527). -/
def switchStart (l : Nat) : Op Unit := do
  let t ← now
  let a ← gf (F.NET_LSTAT_ACTIVE l)
  let ent ← gf (F.NET_TALONENT_N l)
  sb (F.NET_LSTAT_SWITCHING l) true
  sf (F.NET_LSTAT_STBY l) 1
  let k ← getLink l
  let m ← masterCopies l (k.work.map (·.1))
  let used ← linkUsed l
  modLink l fun k => { copyRestore m k with want := false, gap := true, since := t, ent := ent }
  onlyIf (used || l != 5) (pathPower l (1 - a) true)
  onlyIf (l == 5) (modU fun u => { u with rng := { u.rng with frozen := u.rng.queue.length } })
  onlyIf (decide (1 ≤ l ∧ l ≤ 4)) (busEndSending (l - 1) Tx.pathSw false)

/-- Whether link `l`'s owed switch-over may start now: the ring's at the next cycle boundary after it was ordered (R514, R551). -/
def switchReady (l : Nat) : Op Bool := do
  let k ← getLink l
  let s ← bf (F.NET_LSTAT_SWITCHING l)
  let w ← wallTime
  let t ← now
  pure (decide (l < 6) && k.want && !s && (l != 5 || decide (w % 500000 < 4 ∧ k.since + 1000 ≤ t)))

/-- SWITCHOVER_START. -/
def opSwitchoverStart (l : Nat) : Op Unit := do
  let ok ← switchReady l
  onlyIf ok (switchStart l)

/-- The longest gap of link `l` in ns (R514): 96,000 cycles, 2 bit times and 400 µs, or 62,500 cycles of 8 ns. -/
def gapBound (l : Nat) : Op Nat := do
  if l = 0 then pure 768000
  else if l ≤ 4 then do
    let t ← bitTimes (l - 1)
    pure (2 * t.1 * 25 / 2 + 400000)
  else pure 500000

/-- SWITCHOVER_GAP_END: the new path takes traffic, at the latest at the bound of R514, and is powered on while its link is in use (R505);
the host link announces itself. -/
def opSwitchoverGapEnd (l : Nat) : Op Unit := do
  let t ← now
  let k ← getLink l
  let a ← gf (F.NET_LSTAT_ACTIVE l)
  let bound ← gapBound l
  let used ← linkUsed l
  onlyIf (decide (l < 6) && k.gap) do
    let g := min (t - k.since) bound / 8
    sf (F.NET_LSTAT_ACTIVE l) (1 - a)
    sf (F.NET_LSTAT_STBY l) 2
    onlyIf (!used) (pathPower l (1 - a) false)
    let n ← (if 1 ≤ l ∧ l ≤ 4 then recessive (l - 1) 1 else pure 0)
    modLink l fun k => { k with gap := false, flush := true, clearAt := t + n, gapLen := g }
    onlyIf (decide (1 ≤ l ∧ l ≤ 4)) do
      sf (F.FLD_BSTAT_PATH (l - 1)) (1 - a)
      busGapEnd (l - 1) t (t - k.since)
    if l = 0 then do
      let ip ← rd R.CMD_IP
      emit (.arpAnnounce ip.toNat)
    else pure ()

/-- A verdict that was held on path `p` of link `l` acts, or is held again while the first of two has started a switch-over. -/
def heldOne (l p : Nat) (o : Option Bool) : Op Unit :=
  match o with
  | none => pure ()
  | some f => verdictGive l p f

/-- The held verdicts of link `l` act (R512). -/
def heldAct (l : Nat) : Op Unit := do
  let k ← getLink l
  modLink l fun k => { k with heldA := none, heldB := none }
  heldShow l
  heldOne l 0 k.heldA
  heldOne l 1 k.heldB

/-- SWITCHOVER_DONE: the frozen queue was sent, the gap is recorded, the old domain switches off, and a held verdict acts (R513, R521). -/
def opSwitchoverDone (l : Nat) : Op Unit := do
  let t ← now
  let k ← getLink l
  let a ← gf (F.NET_LSTAT_ACTIVE l)
  let used ← linkUsed l
  let max' ← rd (R.NET_MAXGAP l)
  let u ← units
  onlyIf (decide (l < 6) && k.flush && (l != 5 || u.rng.frozen == 0)) do
    onlyIf (l == 0) drainAll
    wrN (R.NET_LASTGAP l) k.gapLen
    wrN (R.NET_MAXGAP l) (max k.gapLen max'.toNat)
    modLink l fun k => { k with flush := false, lastSwitch := some t, shufAt := t, shufFrom := 0, shufRetry := none }
    pathPower l (1 - a) false
    onlyIf (!used) (pathPower l a false)
    sb (F.NET_LSTAT_SWITCHING l) false
    sf (F.NET_LSTAT_STBY l) 0
    cntWrap (F.NET_SWCNT_CNT l) 1
    sb F.NET_STAT_SWITCH true
    raise Ev.pathSwitch [BitVec.ofNat 8 l, BitVec.ofNat 8 a, 0, 0]
    heldAct l

/-! ### Shuffle and takeback (R518, R520) -/

/-- A Shuffle of link `l` is made or skipped (R518); a member's of the ring is skipped, for only the head can order one (R551, assumption
log 99). -/
def shuffle (l : Nat) : Op Unit := do
  let t ← now
  let a ← gf (F.NET_LSTAT_ACTIVE l)
  let v ← pathVerdict l (1 - a)
  let busy ← linkBusy l
  let follows ← ringFollower
  if v = vFailed ∨ busy = true ∨ (l = 5 ∧ follows = true) then do
    sb (F.NET_LSTAT_SHSKIP l) true
    sb F.NET_STAT_SHSKIP true
    modLink l fun k => { k with shufRetry := some (t + 3600000000000) }
  else wantSwitch l

/-- The time of link `l`'s next Shuffle (R518). -/
def shuffleAt (l : Nat) : Op Nat := do
  let k ← getLink l
  let h ← gf (F.NET_SHPER_H l)
  pure (k.shufRetry.getD (k.shufAt + max 1 h * 3600000000000 - k.shufFrom))

/-- SHUFFLE_DUE. -/
def opShuffleDue (l : Nat) : Op Unit := do
  let t ← now
  let d ← shuffleAt l
  let en ← bf (F.NET_LCTL_SHEN l)
  onlyIf (decide (l < 6 ∧ d ≤ t) && en) (shuffle l)

/-- TAKEBACK_DUE (R520). -/
def opTakebackDue (l : Nat) : Op Unit := do
  let t ← now
  let k ← getLink l
  let en ← bf (F.NET_LCTL_TBEN l)
  let p ← gf (F.NET_LCTL_PREF l)
  let a ← gf (F.NET_LSTAT_ACTIVE l)
  let n ← gf (F.NET_TBK_T l)
  let busy ← linkBusy l
  let follows ← ringFollower
  match if p = 0 then k.healthyA else k.healthyB with
  | none => pure ()
  | some h =>
    onlyIf (decide (l < 6 ∧ p ≠ a ∧ max h (k.lastSwitch.getD 0) + max 1 n * 1000000000 ≤ t) && en && !busy && k.heldA.isNone && k.heldB.isNone && !(l == 5 && follows))
      (wantSwitch l)

/-- PATH_IMAGE_SAVE: once a second at l × 100 ms a save into the other image slot begins; it takes at most 20 µs (R507). -/
def opPathImageSave (l : Nat) : Op Unit := do
  let t ← now
  let w ← wallTime
  let k ← getLink l
  let used ← linkUsed l
  let sec := (w + 1000000000 - l * 100000000) / 1000000000
  onlyIf (decide (l < 6 ∧ l * 100000000 ≤ w ∧ k.saveSec ≠ some sec) && used && !k.gap && k.saving.isNone) do
    let f ← free
    modLink l (saveBegin t (f % 20001) sec)

/-- A link's state after a reset: the preferred path, no verdict, no held verdict (R506, R518). -/
def linkReset (l : Nat) : Op Unit := do
  let t ← now
  let p ← gf (F.NET_LCTL_PREF l)
  modLink l fun _ => { shufAt := t, shufFrom := l * 600000000000 }
  sf (F.NET_LSTAT_ACTIVE l) p
  onlyIf (decide (1 ≤ l ∧ l ≤ 4)) (sf (F.FLD_BSTAT_PATH (l - 1)) p)

/-! ### Register accesses (R523, R524) -/

/-- The value of NET_SAVEAGE or NET_SHNEXT of link `i`; other registers as held. -/
def netRead (base i a : Nat) : Op Word := do
  let t ← now
  let k ← getLink i
  let w ← rd a
  if base = R.NET_SAVEAGE 0 then
    pure (BitVec.ofNat 32 (match k.saveAt with | none => 0xFFFF | some s => min 0xFFFF ((t - s) / 1000000)))
  else if base = R.NET_SHNEXT 0 then do
    let en ← bf (F.NET_LCTL_SHEN i)
    let d ← shuffleAt i
    pure (if en then BitVec.ofNat 32 (min 0xFFFFFFFF ((d - t) / 1000000000)) else 0xFFFFFFFF)
  else pure w

end Sys2Proof.Machine
end

