-- ==== Sys2Proof/Machine/Nv.lean ====
section
/-!
DEFINITION. Machine/Nv.lean: the NV store (R613 to R616): journaled commits, what their end puts in force, and what BOOT shows.
-/
namespace Sys2Proof.Machine

/-- Whether `a` is one of `n` registers that stand `s` apart from `b` on. -/
def isRepeat (a b s n : Nat) : Bool := decide (b ≤ a ∧ (a - b) % s = 0 ∧ (a - b) / s < n)

/-- The kinds of a commit (R470): none, firmware, matrix, other. -/
def kindOf : CommitObj → Nat
  | .firmware => 1
  | .selectFirmware => 1
  | .matrix => 2
  | .selectMatrix => 2
  | _ => 3

/-- Version of a firmware image (its header's place is not in the spec; assumption log 31): 0 when there is none. -/
def imageVersion (l : List Byte) : Nat := if l = [] then 0 else Config.freeAt "firmware version" [l.length, crc32 l] % 2 ^ 24

/-- MATID of a matrix file (R125); 0 when there is none. -/
def imageMatId (l : List Byte) : Nat := if l = [] then 0 else Mat.id l

/-- The BOOT registers follow the banks (R470). -/
def bootShow : Op Unit := do
  let u ← units
  let fw (b : Nat) : NvBank := u.nv.fw.getD b {}
  let mt (b : Nat) : NvBank := u.nv.mat.getD b {}
  sf F.BOOT_BANKS_FWBANK u.nv.fwSel
  sf F.BOOT_BANKS_MATBANK u.nv.matSel
  sf F.BOOT_BANKS_FW0 (fw 0).state
  sf F.BOOT_BANKS_FW1 (fw 1).state
  sf F.BOOT_BANKS_MAT0 (mt 0).state
  sf F.BOOT_BANKS_MAT1 (mt 1).state
  sf F.BOOT_FWVER0_VER (imageVersion (fw 0).data)
  sf F.BOOT_FWVER1_VER (imageVersion (fw 1).data)
  sf F.BOOT_MATID0_MATID (imageMatId (mt 0).data)
  sf F.BOOT_MATID1_MATID (imageMatId (mt 1).data)

/-- BOOT_JOURNAL follows the commit in progress, or stands at 0 with none. -/
def journalShow : Op Unit := do
  let u ← units
  match u.nv.commit with
  | none => wr R.BOOT_JOURNAL 0
  | some c => do
    sf F.BOOT_JOURNAL_STEP c.shown
    sf F.BOOT_JOURNAL_KIND (kindOf c.obj)
    sf F.BOOT_JOURNAL_BANK c.bank

/-- The areas of NV (R613), but for the spare, which is what they leave. -/
inductive NvArea where
  | journal
  | firmware
  | matrix
  | reference
  | tables
  | state
  | archive
deriving DecidableEq, Repr

/-- The size of an area in bytes (R613): of one bank, where it is a pair of them. -/
def NvArea.bytes : NvArea → Nat
  | .journal => 4 * 2 ^ 20
  | .firmware => 64 * 2 ^ 20
  | .matrix => 1536 * 2 ^ 20
  | .reference => 2 ^ 20
  | .tables => 16 * 2 ^ 20
  | .state => 32 * 2 ^ 20
  | .archive => 2000000000

/-- The area whose bank a commit writes. -/
def areaOf : CommitObj → NvArea
  | .firmware => .firmware
  | .selectFirmware => .firmware
  | .matrix => .matrix
  | .selectMatrix => .matrix
  | .reference _ => .reference
  | _ => .tables

/-- A record becomes durable in the journal (R614). -/
def journalPut (r : JournalRec) (n : NvS) : NvS := { n with journal := r :: n.journal }

/-- The first and the last journal step that a commit can be at by time `t` (R614). Erasing takes up to 1 ns a byte of the target;
programming goes on while data arrives and takes up to 6.25 ns a byte; the read-back follows, and then the SEAL and the SWITCH record,
which COMMIT_READBACK_DONE finds durable. Step 1 is where it stands as it opens. -/
def journalSpan (c : Commit) (t : Nat) : Nat × Nat :=
  let n := (areaOf c.obj).bytes
  let erased := c.openedAt + n
  (if t ≤ erased then 1 else if c.step = 4 ∧ max erased c.dataAt + 7 * n < t then 4 else 3,
    if t = c.openedAt then 1 else if c.step = 4 then 6 else c.step)

/-- Saves registers. -/
def saveRegs (n : TableSet) : List (Nat × Word) → TableSet
  | [] => n
  | (a, w) :: l => saveRegs { n with regs := (a, w) :: n.regs.filter (fun x => x.1 ≠ a) } l

/-- What a table of 0x0000 FORMAT does to a list of tables: its slot empties. -/
def putTable (l : List (Nat × List Byte)) (t : Nat) (d : List Byte) : List (Nat × List Byte) :=
  (if leAt d 0 2 = 0 then [] else [(t, d)]) ++ l.filter (fun x => x.1 ≠ t)

/-- The SEAL record is durable (step 5 of R614): the bank written is complete, and the previous one is still in force. -/
def commitSeal (c : Commit) (n : NvS) : NvS :=
  journalPut (.sealed c.obj c.bank) (match c.obj with
  | .firmware => { n with fw := updAt n.fw c.bank fun _ => ⟨1, c.data⟩ }
  | .matrix => { n with mat := updAt n.mat c.bank fun _ => ⟨1, c.data⟩ }
  | .geometry => n.sealTables c.bank { n.tables with geom := some c.data }
  | .calibration => n.sealTables c.bank { n.tables with cal := some c.data }
  | .ranges w => n.sealTables c.bank { n.tables with ranges := some w }
  | .model t => n.sealTables c.bank { n.tables with models := putTable n.tables.models t c.data }
  | .linearisation t => n.sealTables c.bank { n.tables with lins := putTable n.tables.lins t c.data }
  | .reference full => n.sealReference c.bank ⟨some c.data, full, n.reference.no + 1⟩
  | .keySlot k key w _ => n.sealTables c.bank { saveRegs n.tables [(R.SEC_SLOT k, w)] with keys := setAt n.tables.keys k key }
  | .registers w => n.sealTables c.bank (saveRegs n.tables w)
  | .selectFirmware => n
  | .selectMatrix => n)

/-- The journal step of the commit in progress that is shown now: one that R614's times allow, and none below one shown before; the
moment of each step is free within them (assumption log 105). From step 5 on the SEAL record is durable. 0 with no commit. -/
def journalStep : Op Nat := do
  let u ← units
  let t ← now
  match u.nv.commit with
  | none => pure 0
  | some c => do
    let lo := max c.shown (journalSpan c t).1
    let f ← free
    let k := lo + f % (max lo (journalSpan c t).2 + 1 - lo)
    modNv fun n => { n with commit := n.commit.map fun c => { c with shown := k } }
    onlyIf (decide (c.step = 4 ∧ c.shown < 5 ∧ 5 ≤ k)) do
      modNv (commitSeal c)
      bootShow
    journalShow
    pure k

/-- The bank a commit writes: the one not in force (R614). -/
def targetBank (n : NvS) : CommitObj → Nat
  | .firmware => 1 - n.fwSel
  | .selectFirmware => 1 - n.fwSel
  | .matrix => 1 - n.matSel
  | .selectMatrix => 1 - n.matSel
  | .reference _ => 1 - n.refSel
  | _ => 1 - n.tabSel

/-- The target of a commit becomes incomplete at its OPEN record: a table or reference bank takes a copy of the bank in force, in which
one object is then replaced. -/
def openBank (n : NvS) (o : CommitObj) (b : Nat) : NvS :=
  match o with
  | .firmware => { n with fw := updAt n.fw b fun _ => { state := 2 } }
  | .matrix => { n with mat := updAt n.mat b fun _ => { state := 2 } }
  | .selectFirmware => n
  | .selectMatrix => n
  | .reference _ => { n with ref := updAt n.ref b fun _ => ⟨2, n.reference⟩ }
  | _ => { n with tab := updAt n.tab b fun _ => ⟨2, n.tables⟩ }

/-- A commit of `len` bytes starts (R614): `step` is 3 while its data still arrives, 4 with its data in hand. -/
def commitOpen (step : Nat) (o : CommitObj) (len : Nat) (data : List Byte) (serves : Option (Nat × Nat)) (reply : List Byte) : Op Unit := do
  let t ← now
  modNv fun n =>
    let b := targetBank n o
    let p : NvBank := match o with
      | .matrix => n.mat.getD b {}
      | _ => {}
    { journalPut (.opened o b len) (openBank n o b) with commit := some { obj := o, bank := b, data := data, step := step, serves := serves, reply := reply, prior := p, openedAt := t, dataAt := t } }
  bootShow
  journalShow

/-- A commit whose data stands ready starts. -/
def commitStart (o : CommitObj) (data : List Byte) (serves : Option (Nat × Nat)) (reply : List Byte) : Op Unit :=
  commitOpen 4 o data.length data serves reply

/-- The data of the commit in progress has arrived and passed its checks: the read-back is next. -/
def commitData (data : List Byte) : Op Unit := do
  let t ← now
  modNv fun n => { n with commit := n.commit.map fun c => { c with data := data, step := 4, dataAt := t } }

/-- The module's own registers are committed (R358, R397, R524, R555, R623); the commit waits for one that runs. -/
def commitRegs (l : List (Nat × Word)) : Op Unit := do
  let u ← units
  if u.nv.commit.isNone then commitStart (.registers l) [] none []
  else modNv fun n => { n with queued := n.queued ++ [{ obj := .registers l, bank := 0, data := [], step := 0, serves := none, reply := [] }] }

/-- A key slot and its rights as they stand are committed together (R375, R397); the commit waits for one that runs. -/
def commitKey (k : Nat) (key : Option (List Byte)) (load : Bool) : Op Unit := do
  let u ← units
  let w ← rd (R.SEC_SLOT k)
  if u.nv.commit.isNone then commitStart (.keySlot k key w load) [] none []
  else modNv fun n => { n with queued := n.queued ++ [{ obj := .keySlot k key w load, bank := 0, data := [], step := 0, serves := none, reply := [] }] }

/-- The registers at the addresses of a list, with what they hold. -/
def regsNow (l : List Nat) : Op (List (Nat × Word)) := do
  let b ← blockOp
  pure (l.map fun a => (a, b.regs.get a))

/-- Commits the registers at the addresses of a list as they stand. -/
def commitAddrs (l : List Nat) : Op Unit := do
  let r ← regsNow l
  commitRegs r

/-- The value of register `a` last saved to NV, or its value with nothing saved (R13, R462, R623). -/
def savedReg (n : NvS) (a : Nat) : Word := ((n.tables.regs.find? (fun x => x.1 = a)).map (·.2)).getD (regReset a)

/-- A saved register in force (R623). -/
def pwrInForce (f : RF) : Op Nat := do let u ← units; pure (f.of (savedReg u.nv f.reg))

/-- The effect of a new store capacitance (R620). -/
def capApply (old new : Nat) : Op Unit := do
  let st ← gf F.PWR_STAT_HUSTATE
  let v ← gf F.PWR_HUV_V
  onlyIf (old != new) do
    if st = 1 then do
      modU fun u => { u with pwr := { u.pwr with q := new * (v - 1000) * 100, rebasePending := false, misRaised := false } }
      sb F.PWR_STAT_REBASE true
    else modU fun u => { u with pwr := { u.pwr with rebasePending := true } }

/-- The effect of PWR_HUCTL.EN (R617, R623): the charger stops, or starts a charge. -/
def enApply (old new : Nat) : Op Unit := do
  let v ← gf F.PWR_HUV_V
  onlyIf (old != new) do
    sf F.PWR_STAT_HUSTATE (if new = 0 then 3 else 0)
    modU fun u => { u with pwr := { u.pwr with counted := 0, chargeFromMv := v * 10 } }

/-- The statuses a failed read-back may give (step 4 of R614): the CRC status of the object; no rule names one for an object
without a CRC status of its own, so any listed failure may come (R447, assumption log 27). -/
def readbackCodes : CommitObj → List Nat
  | .firmware => [St.fwCrc]
  | .matrix => [St.matCrc]
  | .geometry => [St.geomCrc]
  | .calibration => [St.calCrc]
  | .model _ => [St.modelCrc]
  | .linearisation _ => [St.linCrc]
  | .reference _ => [St.refCrc]
  | _ => St.failures

/-- The SWITCH record is durable (step 6 of R614): the bank written is in force. -/
def commitSelect (c : Commit) (n : NvS) : NvS :=
  journalPut (.switched c.obj c.bank) (match c.obj with
  | .firmware => { n with fwSel := c.bank }
  | .selectFirmware => { n with fwSel := c.bank }
  | .matrix => { n with matSel := c.bank }
  | .selectMatrix => { n with matSel := c.bank }
  | .reference _ => { n with refSel := c.bank }
  | _ => { n with tabSel := c.bank })

/-- The bank written comes into force, and is sealed first unless it is (steps 5 and 6 of R614). -/
def commitSwitch (c : Commit) (n : NvS) : NvS := commitSelect c (if c.shown < 5 then commitSeal c n else n)

/-- What the end of a commit does outside NV: the geometry, tables, references and registers that take effect (R112, R151, R154,
R326, R414, R623). -/
def commitEffect (c : Commit) : Op Unit := do
  match c.obj with
  | .geometry => geomApply c.data
  | .calibration => modTomo fun s => { s with calNext := some c.data }
  | .model t => modelStore t c.data
  | .linearisation t => linStore t c.data
  | .reference full => modRec fun s => { s with refNext := some c.data, refFullCapture := full }
  | .keySlot _ _ _ load => onlyIf load (sb F.SEC_STAT_LOADED true)
  | _ => pure ()

/-- A commit ends with a status: COMMIT_DONE, the completion, and the next register commit that waits. -/
def commitFinish (c : Commit) (status : Nat) : Op Unit := do
  modNv fun n => { n with commit := none }
  bootShow
  journalShow
  raise Ev.commitDone (leBytes 1 (kindOf c.obj) ++ leBytes 1 c.bank ++ leBytes 2 status)
  completeOpt c.serves status (if status = 0 then c.reply else [])
  let u ← units
  match u.nv.queued with
  | [] => pure ()
  | q :: l => do
    modNv fun n => { n with queued := l }
    commitStart q.obj q.data q.serves q.reply

/-- The commit in progress, if the command with tag word `tagw` of record `i` asked for it. -/
def commitOf (u : Units) (i tagw : Nat) : Option Commit :=
  u.nv.commit.filter fun c => match c.serves with
    | none => false
    | some x => x.1 == i && tagOf x.2 == tagOf tagw

/-- A matrix file is refused before its read-back: its bank stands as before (R127), and the commit ends. -/
def commitRefuse (c : Commit) (status : Nat) : Op Unit := do
  onlyIf (c.obj == .matrix) (modNv fun n => { n with mat := updAt n.mat c.bank fun _ => c.prior })
  commitFinish c status

/-- The matching commit ends well: SEAL, SWITCH, and the effects. -/
def commitOk (c : Commit) : Op Unit := do
  let u ← units
  let cap0 := F.PWR_HUCAP_CAP.of (savedReg u.nv R.PWR_HUCAP)
  let en0 := F.PWR_HUCTL_EN.of (savedReg u.nv R.PWR_HUCTL)
  modNv (commitSwitch c)
  let u ← units
  commitEffect c
  capApply cap0 (F.PWR_HUCAP_CAP.of (savedReg u.nv R.PWR_HUCAP))
  enApply en0 (F.PWR_HUCTL_EN.of (savedReg u.nv R.PWR_HUCTL))
  commitFinish c St.ok

/-- COMMIT_READBACK_DONE: the data written were read back and their CRC matched, or not (steps 4 to 6 of R614). The data of a bank that is
sealed have matched. -/
def opCommitReadbackDone (ok : Bool) : Op Unit := do
  let u ← units
  match u.nv.commit with
  | none => pure ()
  | some c =>
    if c.step ≠ 4 then pure ()
    else if ok then commitOk c
    else onlyIf (decide (c.shown < 5)) do
      let f ← free
      let l := readbackCodes c.obj
      commitFinish c (l.getD (f % l.length) St.memFault)

/-- A reset, a power loss or a revoke cuts a commit: the previous bank stays in force, and the target is as the step reached left it
(R615). -/
def commitCut : Op Unit := do
  let _ ← journalStep
  modNv fun n => { n with commit := none }
  bootShow
  journalShow

/-- BANK_SELECT and the write of BOOT_SEL it makes: only the OPEN and the SWITCH record (R443, R614). -/
def bankSelect (o : CommitObj) (serves : Option (Nat × Nat)) : Op Unit := do
  let u ← units
  let c : Commit := { obj := o, bank := targetBank u.nv o, data := [], step := 6, serves := serves, reply := [] }
  modNv fun n => commitSelect c (journalPut (.opened o c.bank 0) n)
  commitFinish c St.ok

/-- The registers with saved values take them at start-up (R358, R524, R555, R612). -/
def restoreRegs : Op Unit := do
  let u ← units
  each (fun (x : Nat × Word) => wr x.1 x.2) u.nv.tables.regs

end Sys2Proof.Machine
end

