-- ==== Sys2Proof/Machine/Thermal.lean ====
section
/-!
DEFINITION. Machine/Thermal.lean: demands, conversions, throttle levels, asks and enforcement (R578 to R589).
-/
namespace Sys2Proof.Machine

/-- Changes the thermal supervisor. -/
def modThm (f : ThmS → ThmS) : Op Unit := modU fun u => { u with thm := f u.thm }

/-- Whether this module is a cluster member other than the head (R587). -/
def clusterMember : Op Bool := do
  let u ← units
  let a ← gf F.RNG_STAT_ADDR
  pure (u.rng.ring && decide (2 ≤ a))

/-- THM_STAT.ENFORCED and ASKED follow. -/
def thermalShow : Op Unit := do
  let u ← units
  sb F.THM_STAT_ENFORCED (u.thm.enforced != [])
  sb F.THM_STAT_ASKED u.thm.ask.isSome

/-- A throttle event: the supervisor makes a demand 2 ms after each (R579, R584). -/
def throttleEvent : Op Unit := do
  let t ← now
  modThm fun s => { s with eventDue := s.eventDue ++ [t + 2000000] }

/-- Writes TOMO_FPER for a frame-rate reduction where it lies below, and the first time saves what it held (R587). -/
def enforceFrame (x : ThmCut) : Op Unit := do
  let p ← gf F.TOMO_FPER_FPER
  onlyIf (decide (p < x.value)) do
    onlyIf (!x.saved) (sf F.THM_FPSAVE_FPER p)
    modThm fun s => { s with enforced := s.enforced.map fun y => if y.level = x.level then { y with saved := true } else y }
    sf F.TOMO_FPER_FPER x.value
    recBudget

/-- A reduction is enforced (R586, R587): kind 1 frame rate, kind 2 iteration cap. -/
def enforce (level kind value : Nat) : Op Unit := do
  let member ← clusterMember
  onlyIf (kind != 0) do
    modThm fun s => { s with enforced := s.enforced ++ [{ level := level, kind := kind, value := value }], ask := s.ask.filter (fun a => a.level ≠ level) }
    if kind = 1 then (if member then modThm fun s => { s with fpreq := value } else enforceFrame { level := level, kind := kind, value := value })
    else sf F.REC_NITEREFF_THMCAP value
    thermalShow
    throttleEvent
    recBudget

/-- Whether the host has met a reduction (R586); one of KIND none asks nothing. -/
def reductionMet (kind value : Nat) : Op Bool := do
  let p ← gf F.TOMO_FPER_FPER
  let n ← gf F.REC_CTL_NITER
  pure (if kind = 1 then decide (value ≤ p) else if kind = 2 then decide (n ≤ value) else true)

/-- The highest entry of the enforced caps. -/
def capLeft (l : List ThmCut) : Nat :=
  ((l.filter fun x => x.kind = 2).foldl (fun b x => if b.1 ≤ x.level then (x.level, x.value) else b) (0, 16)).2

/-- The reduction of a level is lifted (R588). -/
def lift (x : ThmCut) : Op Unit := do
  modThm fun s => { s with enforced := s.enforced.filter (fun y => y.level ≠ x.level) }
  if x.kind = 1 then do
    let p ← gf F.TOMO_FPER_FPER
    let sv ← gf F.THM_FPSAVE_FPER
    onlyIf (decide (p = x.value) && x.saved) (sf F.TOMO_FPER_FPER sv)
    modThm fun s => { s with fpreq := 0 }
  else do
    let u ← units
    sf F.REC_NITEREFF_THMCAP (capLeft u.thm.enforced)
  thermalShow
  recBudget

/-- FAN_COOLFLR takes THM_FLR of a level, or 0 at T0 (R584). -/
def floorFollow (level : Nat) : Op Unit := do
  let fl ← gf (F.THM_FLR_FLOOR (level - 1))
  sf F.FAN_COOLFLR_FLOOR (if level = 0 then 0 else fl)

/-- The level changes: FAN_COOLFLR, SAFE_STATE.THR and SYS_FLOWCHK follow it (R584, R589). -/
def levelSet (old new : Nat) : Op Unit := do
  sf F.THM_STAT_LEVEL new
  sf F.SAFE_STATE_THR new
  floorFollow new
  sb F.SYS_FLOWCHK_THERMAL (new == 3)
  throttleEvent
  onlyIf (decide (new = 3 ∧ old ≠ 3)) (assertCause 3)

/-- The reduction of level `k` is enforced unless it is. -/
def enforceLevel (k : Nat) : Op Unit := do
  let u ← units
  let kind ← gf (F.THM_RED_KIND (k - 1))
  let v ← gf (F.THM_RED_VALUE (k - 1))
  onlyIf (decide (1 ≤ k ∧ k ≤ 2) && !(u.thm.enforced.any fun x => x.level = k)) (enforce k kind v)

/-- The level rises (R582 to R585, R589). A rise to T3 enforces nothing, and leaves an ask that is open as it is. -/
def levelRise (old new : Nat) : Op Unit := do
  let kind ← gf (F.THM_RED_KIND (new - 1))
  let v ← gf (F.THM_RED_VALUE (new - 1))
  let g ← gf F.THM_GRACE_T
  let t ← now
  levelSet old new
  sb F.THM_STAT_RISE true
  onlyIf (decide (new ≤ 2)) (each enforceLevel ((List.range new).drop 1))
  onlyIf (decide (new ≤ 2) && kind != 0) do
    raise Ev.throttleAsk (leBytes 1 new ++ leBytes 1 kind ++ leBytes 2 v ++ leBytes 2 g ++ zeros 2)
    modThm fun s => { s with ask := some ⟨new, kind, v, t⟩ }
    thermalShow
    onlyIf (g == 0) (enforce new kind v)

/-- The level falls by one (R582, R586, R588). -/
def levelFall (old : Nat) : Op Unit := do
  levelSet old (old - 1)
  sb F.THM_STAT_FALL true
  modThm fun s => { s with ask := s.ask.filter (fun a => a.level ≤ old - 1) }
  thermalShow
  let u ← units
  each lift (u.thm.enforced.filter fun x => old - 1 < x.level)

/-- Sensor `s` as the conversion left it: `none` while disabled or faulted. -/
def sensorValue (s : Nat) : Op (Option Int) := do
  let v ← gf (F.THM_TEMP_T s)
  pure (if v = 0x8000 then none else some (toSigned 16 v))

/-- Threshold of level `k` for sensor `s` in 0.01 °C: a die's above 122.0 °C acts as 122.0 °C (R657). -/
def threshold (k s : Nat) : Op Int := do
  let d ← gf (F.THM_DIETHR_THR (k - 1))
  let e ← gf (F.THM_EXTTHR_THR (k - 1))
  pure (if s < 8 then min 12200 (toSigned 16 d * 10) else toSigned 16 e * 10)

/-- Whether some sensor of a list reads above level `k`'s threshold. -/
def exceeds (k : Nat) : List Nat → Op Bool
  | [] => pure false
  | s :: l => do
    let v ← sensorValue s
    let t ← threshold k s
    let r ← exceeds k l
    pure (r || match v with | none => false | some x => decide (t < x))

/-- Whether every sensor of a list reads below level `k`'s threshold less 3 K. -/
def allBelow (k : Nat) : List Nat → Op Bool
  | [] => pure true
  | s :: l => do
    let v ← sensorValue s
    let t ← threshold k s
    let r ← allBelow k l
    pure (r && match v with | none => true | some x => decide (x < t - 300))

/-- Whether a die of a list reads 125.00 °C or above. -/
def dieCritical : List Nat → Op Bool
  | [] => pure false
  | s :: l => do
    let v ← sensorValue s
    let r ← dieCritical l
    pure (r || match v with | none => false | some x => decide (12500 ≤ x))

/-- The levels that this conversion exceeded, as bits. -/
def exceededMask : Op Nat := do
  let a ← exceeds 1 (List.range 16)
  let b ← exceeds 2 (List.range 16)
  let c ← exceeds 3 (List.range 16)
  pure (2 * bit a + 4 * bit b + 8 * bit c)

/-- The highest level above `k` of a mask; 0 where there is none. -/
def topAbove (k m : Nat) : Nat := ([3, 2, 1].find? fun i => decide (k < i) && bitAt m i).getD 0

/-- What one demand of the conversion that ends counts under R582 and R583. Only a fall restarts a count that its own conversion has raised.
Where a rise and a fall are both due, it is the rise (DESIGN CHOICE, assumption log 107). -/
def levelRules : Op Unit := do
  let k ← gf F.THM_STAT_LEVEL
  let crit ← dieCritical (List.range 8)
  let m ← exceededMask
  let below ← allBelow k (List.range 16)
  onlyIf crit (sb F.THM_STAT_CRIT true)
  modThm fun s => { s with rises := if topAbove k m = 0 then [] else (m :: s.rises).take 3, falls := if 0 < k ∧ below = true then s.falls + 1 else 0 }
  let u ← units
  let top := if u.thm.rises.length = 3 then topAbove k (u.thm.rises.foldl (· &&& ·) 14) else 0
  if crit then onlyIf (k != 3) (levelRise k 3)
  else if top ≠ 0 then levelRise k top
  else onlyIf (decide (3 ≤ u.thm.falls)) do
    modThm fun s => { s with falls := 0 }
    levelFall k

/-- The frame-rate reduction that stands is written again where TOMO_FPER lies below, and an ask that the host met closes (R586,
R587). -/
def demandChecks : Op Unit := do
  let u ← units
  let member ← clusterMember
  each (fun (x : ThmCut) => onlyIf (x.kind == 1 && !member) (enforceFrame x)) u.thm.enforced
  match u.thm.ask with
  | none => pure ()
  | some a => do
    let met ← reductionMet a.kind a.value
    onlyIf met do
      modThm fun s => { s with ask := none }
      thermalShow

/-- An open ask takes THM_RED of its level as it now stands: a change takes effect at the next conversion (R598). -/
def askFollow : Op Unit := do
  let u ← units
  match u.thm.ask with
  | none => pure ()
  | some a => do
    let kind ← gf (F.THM_RED_KIND (a.level - 1))
    let v ← gf (F.THM_RED_VALUE (a.level - 1))
    modThm fun s => { s with ask := some { a with kind := kind, value := v } }

/-- THM_SENSEN is written: a sensor that it does not enable reads 0x8000 (R578). -/
def sensorsOff (en : Nat) : Op Unit := each (fun s => onlyIf (!bitAt en s) (sf (F.THM_TEMP_T s) 0x8000)) (List.range 16)

/-- What sensor `s` reads: nothing where a remote diode's voltage lies outside 0.2 V to 0.9 V, or a thermistor has less than 50 Ω or more
than 2 MΩ: it is open or short (R581, R656). -/
def sensorReads (temps : List TempSense) (s : Nat) : Option Int :=
  (temps[s]?).bind fun x =>
    let good := if s < 8 then true
      else if s < 12 then decide (200000 ≤ x.level ∧ x.level ≤ 900000)
      else decide (50000 ≤ x.level ∧ x.level ≤ 2000000000)
    if good then some x.reading else none

/-- Stores the readings of a conversion (R578, R580, R581). -/
def storeTemps (temps : List TempSense) (en : Nat) : Op Unit :=
  each (fun s =>
    let v := sensorReads temps s
    if bitAt en s then do
      sf (F.THM_TEMP_T s) (match v with | none => 0x8000 | some x => ofSigned 16 (clampI (-32767) 32767 x))
      onlyIf v.isNone (sb F.THM_STAT_SENSF true)
    else sf (F.THM_TEMP_T s) 0x8000) (List.range 16)

/-- The completion of TEMP_READ (R441). -/
def tempReply : Op (List Byte) := do
  let b ← blockOp
  let k ← gf F.THM_STAT_LEVEL
  pure ((List.range 16).flatMap (fun s => leBytes 2 ((F.THM_TEMP_T s).of (b.regs.get (R.THM_TEMP s)))) ++ leBytes 1 k ++ zeros 3)

/-- CONVERSION_END: the readings are written in one cycle, the level rules apply once for each demand that it answers, and a changed floor
takes effect (R580 to R589, R598). -/
def opConversionEnd (temps : List TempSense) : Op Unit := do
  let u ← units
  let en ← gf F.THM_SENSEN_EN
  onlyIf u.thm.conv.isSome do
    modThm fun s => { s with conv := none, joined := 0, reads := [] }
    storeTemps temps en
    cntWrap F.THM_DEMCNT_CNT 1
    sb F.THM_STAT_DONE true
    askFollow
    demandChecks
    each (fun _ => levelRules) (List.range (u.thm.joined + 1))
    let k ← gf F.THM_STAT_LEVEL
    floorFollow k
    let r ← tempReply
    each (fun (x : Nat × Nat) => completeTag x.1 x.2 St.ok r) u.thm.reads

/-- THERMAL_WATCHDOG_DEMAND: THM_WDPER after the start of the previous demand (R579). -/
def opThermalWatchdogDemand : Op Unit := do
  let t ← now
  let u ← units
  let p ← gf F.THM_WDPER_PER
  let up ← coreUp 5
  onlyIf (up && decide (u.thm.lastDemand + max 1 p * 100000000 ≤ t)) thermalDemand

/-- THROTTLE_EVENT_DEMAND: 2 ms after a throttle event (R579). -/
def opThrottleEventDemand : Op Unit := do
  let t ← now
  let u ← units
  let up ← coreUp 5
  match u.thm.eventDue with
  | [] => pure ()
  | d :: l => onlyIf (up && decide (d ≤ t)) do
    modThm fun s => { s with eventDue := l }
    thermalDemand

/-- GRACE_EXPIRY: THM_GRACE after the ask, a reduction that the host has not met is enforced; an ask that is met closes at the next demand
(R586). -/
def opGraceExpiry : Op Unit := do
  let t ← now
  let u ← units
  let g ← gf F.THM_GRACE_T
  match u.thm.ask with
  | none => pure ()
  | some a => onlyIf (decide (a.since + g * 1000000000 ≤ t)) do
    let met ← reductionMet a.kind a.value
    onlyIf (!met) (enforce a.level a.kind a.value)

/-- THROTTLE_ACK (R441): the asked reduction is enforced at once; answers whether there was such an ask. -/
def throttleAck (level : Nat) : Op Bool := do
  let u ← units
  match u.thm.ask with
  | none => pure false
  | some a =>
    if a.level = level then do
      enforce a.level a.kind a.value
      pure true
    else pure false

end Sys2Proof.Machine
end

