-- ==== Sys2Proof/Machine/Modes.lean ====
section
/-!
DEFINITION. Machine/Modes.lean: the SYS unit: mode requests and transitions, HOLD, the calibration sequence, and what each mode
powers (R330 to R353).
-/
namespace Sys2Proof.Machine

/-- Changes the SYS unit. -/
def modSys (f : SysS → SysS) : Op Unit := modU fun u => { u with sys := f u.sys }

/-! ### SYS_FLOWCHK -/

/-- Whether some lane has a factor and a length (R353). -/
def anyLane : List Nat → Op Bool
  | [] => pure false
  | n :: l => do
    let f ← factorOf n
    let len ← gf (F.PCL_LLEN_LLEN n)
    let r ← anyLane l
    pure (r || decide (f ≠ 0 ∧ len ≠ 0))

/-- SYS_FLOWCHK as it stands (R353). -/
def flowCheck : Op Nat := do
  let cl ← bf F.SYS_FLOWCHK_CLUSTER
  let lv ← gf F.THM_STAT_LEVEL
  let p ← planRegs
  let lane ← anyLane (List.range 16)
  let g ← bf F.TOMO_STAT_GEOMOK
  let r ← bf F.REC_STAT_REFOK
  let m ← bf F.REC_STAT_MATOK
  pure (64 * bit cl + 32 * bit (lv == 3) + 16 * bit (!planValid p.1 p.2) + 8 * bit (!lane) + 4 * bit (!g) + 2 * bit (!r) + bit (!m))

/-! ### Power in each mode (R340) -/

/-- Whether a mode powers banks and tiles. -/
def banksOn (m : Nat) : Bool := !(m == 0 || m == 5)

/-- Whether a mode powers the valve gate drivers. -/
def valvesOn (m : Nat) : Bool := !(m == 0 || m == 1)

/-- What NV last saved for a register whose reset is "Restored". -/
def savedValue (u : Units) (a : Nat) : Word :=
  match u.nv.saved.affRegs.find? (fun x => x.1 = a) with
  | some x => x.2
  | none =>
    if isRepeat a (R.REC_LOFFS 0) (R.REC_LOFFS 1 - R.REC_LOFFS 0) 16 then
      match u.nv.saved.roll with
      | some s => BitVec.ofNat 32 (s.offs.getD ((a - R.REC_LOFFS 0) / (R.REC_LOFFS 1 - R.REC_LOFFS 0)) 0)
      | none => regReset a
    else savedReg u.nv a

/-- The value a register takes at a repair: its power-on value, or the value last saved to NV (R462). -/
def repairValue (u : Units) (r : RegRow) (a : Nat) : Word :=
  let m := BitVec.ofNat 32 r.restored
  (savedValue u a &&& m) ||| (regReset a &&& ~~~m)

/-- What tells of a repair in unit `n`, but for SAFE's own HOLDREQ (R462). -/
def repairTell (n : Nat) : Op Unit := do
  sbit R.SAFE_PARITY n true
  sb F.SAFE_STAT_PARITY true
  raise Ev.cfgParity [BitVec.ofNat 8 n, 0, 0, 0]
  onlyIf (n == 0xD || n == 0xE || n == 0xF || n == 0x10) (assertCause 6)

/-- The domain of a register that stands in a VGATE or BGATE domain (R603). -/
def regDomain (r : RegRow) (a : Nat) : Option Nat :=
  match a / 0x10000, r.dims with
  | 0xE, (32, s) :: _ => some (88 + (a - r.base) / s)
  | 0xF, (8, s) :: _ => some (120 + (a - r.base) / s)
  | _, _ => none

/-- The VGATE or BGATE domain of the register at an address. -/
def addrDomain (a : Nat) : Option Nat := (rowOf a).bind fun x => regDomain x.1 a

/-- The registers of VGATE or BGATE domain `d` go into their copy at its switch-off, where a mismatch is repaired, and come back at
its switch-on with parity afresh (R461, R605); a mismatch of the copy is repaired before, since none is carried into fresh parity. -/
def copyParity (d : Nat) (on : Bool) : Op Unit := do
  let b ← blockOp
  each (fun a => match rowOf a with
    | none => pure ()
    | some (r, _) => do
      wr a (repairValue b.u r a)
      repairTell (a / 0x10000)) (b.upset.filter fun a => addrDomain a = some d)
  onlyIf on (modUpset fun l => l.filter fun a => addrDomain a ≠ some d)

/-- Switches valve channel `n` with its domain. -/
def valvePower (on : Bool) (n : Nat) : Op Unit := do
  let was ← domainOn (88 + n)
  domainSwitch (88 + n) on
  let is ← domainOn (88 + n)
  onlyIf (is != was) do
    valveDomain n is
    copyParity (88 + n) is

/-- Switches blower channel `n` with its domain. -/
def fanPower (on : Bool) (n : Nat) : Op Unit := do
  let was ← domainOn (120 + n)
  domainSwitch (120 + n) on
  let is ← domainOn (120 + n)
  onlyIf (is != was) do
    fanDomain n is
    copyParity (120 + n) is

/-- The banks' power: an enabled bank in a mode that powers banks. -/
def bankPower (m : Nat) : Op Unit := do
  let en ← bankEnable
  each (fun b => domainSwitch b (banksOn m && bitAt en b)) (List.range 32)
  frameBanksCheck

/-- The domains that mode `m` powers switch on (step 2 of R334). -/
def modePowerOn (m : Nat) : Op Unit := do
  let en ← bankEnable
  each (fun b => onlyIf (banksOn m && bitAt en b) (domainSwitch b true)) (List.range 32)
  onlyIf (banksOn m) (each (fun d => domainSwitch d true) ((List.range 32).map (· + 56)))
  onlyIf (valvesOn m) (each (valvePower true) (List.range 32))
  each (fanPower true) (List.range 8)
  fieldPowerOn m

/-- The domains that mode `m` powers are on, and the others switch off (step 4 of R334). -/
def modePower (m : Nat) : Op Unit := do
  bankPower m
  each (fun d => domainSwitch d (banksOn m)) ((List.range 32).map (· + 56))
  each (valvePower (valvesOn m)) (List.range 32)
  each (fanPower true) (List.range 8)
  fieldPower

/-- Frames, sweeps and reconstructions that the new mode does not permit end (R103, R110, R142). -/
def modeStops (m : Nat) : Op Unit := do
  let s ← tomoS
  let r ← recS
  frameModeCheck
  onlyIf (!(m == modeCalibrate || m == modeService) && s.sweep.isSome) (modTomo fun s => { s with sweep := none })
  onlyIf (!banksOn m && r.hand.isSome) handStop

/-! ### Hold values (R342) -/

/-- The hold values of valve channels, then blower channels, then field-bus objects (R337 step 3). -/
def holdValues : Op Unit := do
  each valveHold (List.range 32)
  each fanHold (List.range 8)
  each objHold (List.range 256)

/-! ### The calibration sequence (R346 to R349) -/

/-- Stores each table of a list that passes its check; answers whether one failed. -/
def storeChecked (check : List Byte → Nat) (store : Nat → List Byte → Op Unit) : List (Nat × List Byte) → Op Bool
  | [] => pure false
  | x :: l => do
    onlyIf (check x.2 == St.ok) (store x.1 x.2)
    let r ← storeChecked check store l
    pure (check x.2 != St.ok || r)

/-- A saved table, where there is one and it passes its check. -/
def checkedTable (check : List Byte → Nat) (t : Option (List Byte)) : Option (List Byte) := t.filter fun d => check d == St.ok

/-- Restores the tables of the table bank. A reference committed and not yet in force waits for its dispatch (R154): geometry, calibration and ranges, models, linearisation (R346 step 6). A table that
fails the check of its own chapter leaves the one already held (R106, R151, R326). Answers the bits of SYS_CALSTAT. -/
def restoreTables : Op Nat := do
  let u ← units
  let g := checkedTable geomCheck u.nv.tables.geom
  match g with
  | none => pure ()
  | some g => geomApply g
  let c := checkedTable calCheck u.nv.tables.cal
  match c with
  | none => pure ()
  | some c => do
    modTomo fun s => { s with cal := some c }
    calStaleShow
  onlyIf (c.isSome || u.nv.tables.ranges.isSome) (each linkCarries [0, 1])
  match u.nv.tables.ranges with
  | none => pure ()
  | some r => modTomo fun s => { s with ranges := r }
  match u.reco.refNext, u.nv.reference.file with
  | none, some r => do
    modRec fun s => { s with ref := some r, refNo := u.nv.reference.no }
    wrN R.REC_REFID (Ref.id r)
  | _, _ => pure ()
  let m ← storeChecked Model.check modelStore u.nv.tables.models
  let l ← storeChecked linCheck linStore u.nv.tables.lins
  fieldLatchDue
  each (fun (x : Nat × Word) => wr x.1 x.2) u.nv.saved.affRegs
  pure (bit g.isNone + 2 * bit c.isNone + 32 * bit m + 64 * bit l)

/-- Entry into CALIBRATE: steps 5 to 7 of R346, with R349 where a command makes it from mode `frm`: then it restores no Ledger tables,
also where an earlier CALIBRATE since the cold reset did not. The start-up's CALIBRATE that a release from HOLD restarts restores the same
set again (R339; DESIGN CHOICE, assumption log 104). The sweep starts 2 ms after its banks are powered. -/
def calStart (frm : Nat) : Op Unit := do
  let t ← now
  let u ← units
  let commanded := frm == modeIdle || frm == modeService
  let again := if frm == modeHold then u.sys.coldSet else none
  let cold := (u.sys.coldStart || again.isSome) && !commanded
  onlyIf commanded rollSave
  let tab ← restoreTables
  let roll ← rollRestore
  let led ← (if cold then (match again with | some x => ledgerLoad x | none => ledgerRestore) else pure true)
  let stat := tab + 256 * bit (!roll) + 512 * bit (!led)
  modAff fun a => { a with sineShort := false }
  modSys fun s => { s with coldStart := false, coldSet := if commanded then none else s.coldSet, restored := true, calEnded := false, cal := some ⟨t, cold, true, true, true, stat, u.nv.matSel⟩ }
  sweepStart 2000000
  let _ ← sineRequest

/-! ### Transitions -/

/-- The delay in ns of a hop that the plant cabled, as measured: 0.5 µs of forwarding and the cable, up to 0.6 µs at 15 m (R528, R659). -/
def hopDelay (x : Nat) : Nat := 500 + x % 101

/-- The ring at the entry to ENUMERATE (R527, R528, R555): with RING = 0 the module is a cluster of one with address 1, and its
transition to CALIBRATE follows; with RING = 1 both ring paths are powered, the hops are measured, and the ring is to form. -/
def ringEnter : Op Unit := do
  let t ← now
  let u ← units
  let ring ← bf F.RNG_CTL_RING
  let wrap ← bf F.RNG_CTL_WRAP
  let e ← gf F.RNG_CTL_EXPECT
  let fresh : RngS := { ring := ring, wrap := wrap, expect := min 8 (max 1 e) }
  each (fun (x : List Byte × BufRef) => poolGive (some x.2)) u.rng.queue
  wr R.RNG_PRESENT 0
  each (fun a => do wr (R.RNG_MSTAT a) 0; wr (R.RNG_MHASH a) 0) (List.range 8)
  sb F.RNG_STAT_SELFLOST false
  if ring then do
    modU fun u => { u with rng := { fresh with forming := some t } }
    sb F.RNG_STAT_FORMED false
    sf F.RNG_STAT_ADDR (bit u.pwr.headLow)
    pathPower 5 0 true
    pathPower 5 1 true
    let up ← free
    let dn ← free
    sf F.RNG_HOPDLY_UP (hopDelay up)
    sf F.RNG_HOPDLY_DN (hopDelay dn)
  else do
    modU fun u => { u with rng := { fresh with states := setAt fresh.states 0 1 } }
    pathPower 5 0 false
    pathPower 5 1 false
    cntWrap F.RNG_TSEQ_TSEQ 1
    sb F.RNG_STAT_FORMED true
    sf F.RNG_STAT_ADDR 1
    sf F.SYS_MODE_TARGET modeCalibrate
    sb F.SYS_MODE_BUSY true
    modSys fun s => { s with job := some ⟨modeCalibrate, false, none, 1⟩ }

/-- SAFE_STATE.MODE follows SYS_MODE.CUR (R468). -/
def modeShow (m : Nat) : Op Unit := do
  sf F.SYS_MODE_CUR m
  sf F.SAFE_STATE_MODE m

/-- Entry actions of mode `m` reached from `frm` (R173, R342 to R346). -/
def entryActions (m frm : Nat) : Op Unit := do
  let t ← now
  if m = modeIdle then do
    loopHold
    holdValues
  else if m = modeCalibrate then do
    loopHold
    calStart frm
  else if m = modeEnumerate then do
    loopHold
    let fan ← bf F.FAN_CTL_EN
    sb F.FAN_CTL_EN true
    fanEnable fan true
    ringEnter
  else if m = modeFlow then do
    modSys fun s => { s with flowSince := t }
    modEnc fun e => { e with lanes := e.lanes.map fun l => { l with lostRaised := false } }
    onlyIf (frm != modeHold) (each entryCut (List.range 16))
  else pure ()

/-- The completion of MODE_REQ: CUR, HFROM, SYS_FLOWCHK (R405). -/
def modeReply : Op (List Byte) := do
  let c ← curMode
  let h ← gf F.SYS_MODE_HFROM
  let f ← flowCheck
  pure (leBytes 1 c ++ leBytes 1 h ++ leBytes 2 f)

/-- A MODE_REQ, if one asked, completes. -/
def modeComplete (serves : Option (Nat × Nat)) (status : Nat) : Op Unit := do
  let r ← modeReply
  completeOpt serves status r

/-- Steps 2 to 5 of R334, in their order: what mode `m` powers, the new code with the completion that the transition serves, what it
does not power, and the entry actions. The table of operations makes them one step (95_what_each_step_holds.md). -/
def modeEnter (m : Nat) (serves : Option (Nat × Nat)) : Op Unit := do
  let old ← curMode
  modePowerOn m
  modSys fun s => { s with job := none, cal := none, calEnded := false }
  sf F.SYS_MODE_TARGET m
  sb F.SYS_MODE_BUSY false
  onlyIf (m != modeCalibrate) captureAbandon
  modeShow m
  raise Ev.modeChange [BitVec.ofNat 8 m, BitVec.ofNat 8 old, 0, 0]
  thermalDemand
  cntSat F.SYS_MODECNT_CNT 1
  modU fun u => { u with aer := u.aer.map fun b => { b with owed := old == modeHold && m == modeStore } }
  modeComplete serves St.ok
  sineCut
  modePower m
  modeStops m
  onlyIf (holdsLoop old) loopRelease
  entryActions m old

/-- The persisting causes of R335 that stand: THERMAL, CLUSTER, SUPER. -/
def persisting : Op Nat := do
  let lv ← gf F.THM_STAT_LEVEL
  let u ← units
  let sup ← bf F.SAFE_STATE_SUPER
  pure (8 * bit (lv == 3) + 16 * bit u.rng.holds + 32 * bit sup)

/-- SYS_REFUSE's codes (R353). -/
def refDenied : Nat := 1
def refBusy : Nat := 2
def refPrecond : Nat := 3
def refHoldCause : Nat := 4
def refMember : Nat := 5

/-- The condition that R332 sets for entering mode `m` from IDLE: 0 where it holds. -/
def entryCondition (m : Nat) : Op Nat := do
  let fr ← bf F.ENC_MSTAT_FREERUN
  let fc ← flowCheck
  pure (if (m = modeBatch ∧ fr = true) ∨ (m = modeFlow ∧ fc ≠ 0) then refPrecond else 0)

/-- The refusal of a release to `m` from HOLD (R339): 0 where it is accepted. -/
def releaseCheck (m : Nat) : Op Nat := do
  let hf ← gf F.SYS_MODE_HFROM
  let p ← persisting
  let c ← entryCondition m
  pure (if ¬ (m = modeIdle ∨ m = modeService ∨ m = hf) then refDenied
    else if p ≠ 0 then refHoldCause
    else if m = hf then c else 0)

/-- The table of R332: the refusal of a transition from `frm` to `m`, 0 where it is accepted, with whether the calibration sequence has
ended and the refusal `c` by the entry condition of `m`. -/
def tableRefusal (frm m : Nat) (ctl ended : Bool) (c : Nat) : Nat :=
  if m = modeHold then 0
  else if frm = modeEnumerate then refDenied
  else if frm = modeCalibrate then (if m ≠ modeIdle then refDenied else if ended then 0 else refBusy)
  else if frm = modeIdle then (if m = modeCalibrate ∨ m = modeBatch ∨ m = modeFlow ∨ m = modeStore ∨ (m = modeService ∧ ctl = true) then c else refDenied)
  else if frm = modeService then (if m = modeIdle ∨ m = modeCalibrate then 0 else refDenied)
  else if m = modeIdle then 0 else refDenied

/-- The refusal of a transition from `frm` to `m` (R332): 0 where it is accepted. `ctl` says whether a control session commands it,
which SERVICE asks for. -/
def tableCheck (frm m : Nat) (ctl : Bool) : Op Nat := do
  let u ← units
  let c ← entryCondition m
  pure (tableRefusal frm m ctl u.sys.calEnded c)

/-- The refusal of a transition or release to `m` by the conditions of R332 and R339. -/
def modeCheck (m : Nat) (ctl : Bool) : Op Nat := do
  let c ← curMode
  if c = modeHold then releaseCheck m else tableCheck c m ctl

/-! ### The members' conditions (R542) -/

/-- Byte `o` of a slot. -/
def slotAt (s : List Byte) (o n : Nat) : Nat := leAt s o n

/-- The refusal by one member, judged from its slot: the conditions of R332 for its CUR, and for a release those of R339, with
any PERSIST bit (R544). A slot does not show the member's HFROM or ENC_MSTAT.FREERUN. -/
def memberCheck (m : Nat) (release ctl : Bool) (s : List Byte) : Nat :=
  let cur := slotAt s 1 1
  let c := if m = modeFlow ∧ slotAt s 6 2 ≠ 0 then refPrecond else 0
  if bitAt (slotAt s 2 1) 0 then refBusy
  else if slotAt s 3 1 ≠ 0 ∧ (release = true ∨ cur = modeHold) then refHoldCause
  else if cur = modeHold then c
  else tableRefusal cur m ctl (bitAt (slotAt s 2 1) 1) c

/-- The refusal of the first member, in address order, that refuses. -/
def membersCheck (m : Nat) (release ctl : Bool) (g : RngS) : Nat :=
  ((List.range 7).map fun k => if g.states.getD (k + 1) 0 = 1 then memberCheck m release ctl (g.peers.getD (k + 1) {}).slot else 0).foldl
    (fun a b => if a ≠ 0 then a else b) 0

/-! ### Requests (R332, R333, R339, R542) -/

/-- A request is refused (R332, R353). -/
def modeRefuse (code target : Nat) (serves : Option (Nat × Nat)) : Op Unit := do
  sb F.SYS_MODESTAT_REFUSED true
  sf F.SYS_REFUSE_CODE code
  onlyIf (decide (code ≠ refBusy ∧ code ≠ refMember)) (sf F.SYS_MODE_TARGET target)
  modeComplete serves (0x3F + code)

/-- Whether a request comes from a control session (R332, R363). -/
def fromControl (src : Src) : Op Bool := do
  let u ← units
  pure (match src with
    | .host i => (u.cmd.sessions.getD i {}).st == .opened && !(u.cmd.sessions.getD i {}).observer
    | _ => false)

/-- Why a request for mode `m` is refused: 0 where it is accepted. -/
def requestCheck (m : Nat) (ctl : Bool) : Op Nat := do
  let u ← units
  let member ← clusterMember
  let busy ← bf F.SYS_MODE_BUSY
  let cur ← curMode
  let c ← modeCheck m ctl
  pure (if member then refMember
    else if m = modeHold ∧ cur ≠ modeHold then 0
    else if busy ∨ bitAt u.rng.orders 1 then refBusy
    else if c ≠ 0 then c
    else if u.rng.joined then membersCheck m (cur == modeHold) ctl u.rng else 0)

/-- RT1 takes a request for mode `m` (step 1 of R334); `ctl` says whether a control session makes it. A release that is accepted clears
SYS_HOLDCAUSE (R339). A cluster of one takes the next transition sequence as it starts (R527, R542). -/
def modeTake (m : Nat) (ctl : Bool) (serves : Option (Nat × Nat)) : Op Unit := do
  let u ← units
  let code ← requestCheck m ctl
  let cur ← curMode
  if code ≠ 0 then modeRefuse code m serves
  else if m = modeHold then do
    assertCause 0
    modSys fun s => { s with holdServes := s.holdServes ++ serves.toList }
  else do
    sf F.SYS_MODE_TARGET m
    onlyIf (cur == modeHold) (wr R.SYS_HOLDCAUSE 0)
    if u.rng.joined then
      modU fun u => { u with rng := { u.rng with orders := u.rng.orders ||| 2, target := m, serves := serves } }
    else do
      cntWrap F.RNG_TSEQ_TSEQ 1
      sb F.SYS_MODE_BUSY true
      modSys fun s => { s with job := some ⟨m, cur == modeHold, serves, 1⟩ }

/-- A request for mode `m` from `src`, by a write of SYS_MODEREQ or by MODE_REQ: RT1 takes it, at once or when it runs again (R29). -/
def modeAsk (m : Nat) (src : Src) (serves : Option (Nat × Nat)) : Op Unit := do
  let ctl ← fromControl src
  let up ← coreUp 5
  if up then modeTake m ctl serves
  else modSys fun s => { s with asks := s.asks ++ [⟨m, ctl, serves⟩] }

/-- RT1 runs again and takes the requests that waited. -/
def asksTake : Op Unit := do
  let u ← units
  modSys fun s => { s with asks := [] }
  each (fun (a : ModeAsk) => modeTake a.target a.ctl a.serves) u.sys.asks

/-- MODE_TRANSITION: RT1 carries out the accepted transition (R334). -/
def opModeTransition : Op Unit := do
  let u ← units
  let up ← coreUp 5
  match u.sys.job with
  | none => pure ()
  | some j =>
    onlyIf up do
      let cur ← curMode
      let c ← (if cur = modeEnumerate ∧ j.target = modeCalibrate then pure 0 else modeCheck j.target true)
      if c ≠ 0 then do
        modSys fun s => { s with job := none }
        sb F.SYS_MODE_BUSY false
        modeRefuse c j.target j.serves
      else do
        modeEnter j.target j.serves

/-! ### HOLD (R335 to R338) -/

/-- Steps 1 to 3 of R337 for the causes in a mask; `tell` says whether MODE_HOLD is raised now. A HOLD entered in CALIBRATE drops the copy
of the matrix under way, and the matrix held before it and REC_STAT.MATOK stay (DESIGN CHOICE, assumption log 96). -/
def holdEnter (mask : Nat) (tell : Bool) : Op Unit := do
  let cur ← curMode
  let old ← gf F.SYS_HOLDCAUSE_CAUSE
  let u ← units
  modSys fun s => { s with holdServes := [] }
  match u.sys.job with
  | none => pure ()
  | some j => do
    modSys fun s => { s with job := none }
    sb F.SYS_MODE_BUSY false
    sb F.SYS_MODESTAT_PREEMPT true
    modeComplete j.serves St.modePreempt
  onlyIf (bitAt u.rng.orders 1) do
    modU fun u => { u with rng := { u.rng with orders := u.rng.orders - 2, serves := none } }
    sb F.SYS_MODESTAT_PREEMPT true
    modeComplete u.rng.serves St.modePreempt
  if cur = modeHold then sf F.SYS_HOLDCAUSE_CAUSE (old ||| mask)
  else do
    modSys fun s => { s with cal := none }
    captureAbandon
    sf F.SYS_MODE_HFROM cur
    modeShow modeHold
    sf F.SYS_HOLDCAUSE_CAUSE mask
    sb F.SYS_MODESTAT_HOLDIN true
    sb F.SAFE_STAT_HOLDIN true
    cntSat F.SYS_HOLDCNT_CNT 1
    onlyIf tell (raise Ev.modeHold (leBytes 2 mask ++ leBytes 1 cur ++ zeros 1))
    onlyIf (!tell) (modSys fun s => { s with holdEventOwed := true })
    loopHold
    holdValues
  each (fun (x : Nat × Nat) => modeComplete (some x) St.ok) u.sys.holdServes

/-- HOLD_ENTRY: cause `c` reaches RT1 (R337). -/
def opHoldEntry (c : Nat) : Op Unit := do
  let u ← units
  let up ← coreUp 5
  onlyIf (up && decide (c ∈ u.sys.causes)) do
    modSys fun s => { s with causes := s.causes.filter (· ≠ c) }
    holdEnter (2 ^ c) true

/-! ### The end of the sequence -/

/-- The sequence ends (R346 step 11). -/
def calEnd (j : CalJob) (stat : Nat) : Op Unit := do
  let t ← now
  let stay ← bf F.SYS_CALCTL_STAY
  let u ← units
  let ms := min 0xFFFF (quot ((t - j.since : Nat) : Int) 1000000).toNat
  wrN R.SYS_CALSTAT stat
  sf F.SYS_CALTIME_T ms
  sb F.SYS_MODESTAT_CALDONE true
  raise Ev.calDone (leBytes 2 stat ++ leBytes 2 ms)
  modSys fun s => { s with cal := none, calEnded := true }
  onlyIf (!stay && (!u.rng.joined || u.rng.late)) do
    onlyIf (!u.rng.joined) (cntWrap F.RNG_TSEQ_TSEQ 1)
    modeEnter modeIdle none

/-- Whether the sine pass of the sequence has ended, or has nothing to measure. -/
def sineOver : Op Bool := do
  let a ← affS
  let any ← anyEnabled (List.range 192)
  pure (!a.sine && (!a.sineReq || !any))

/-- CALIBRATION_END: the sweep, the sine pass and the matrix copy have ended (R346, R348). -/
def opCalibrationEnd : Op Unit := do
  let u ← units
  let m ← curMode
  let over' ← sineOver
  match u.sys.cal with
  | none => pure ()
  | some j => onlyIf (m == modeCalibrate && over' && !j.sweep && !j.matrix) do
    modAff fun a => { a with sineReq := false }
    calEnd j (j.stat ||| 128 * bit u.aff.sineShort)

/-- CALIBRATION_TIMEOUT: 30 s after entry the steps not complete are abandoned (R347). -/
def opCalibrationTimeout : Op Unit := do
  let u ← units
  let t ← now
  let m ← curMode
  let over' ← sineOver
  match u.sys.cal with
  | none => pure ()
  | some j => onlyIf (m == modeCalibrate && decide (j.since + 30000000000 ≤ t) && (!over' || j.sweep || j.matrix)) do
    onlyIf j.sweep (modTomo fun s => { s with sweep := none })
    onlyIf j.matrix matNone
    onlyIf (!over') sineCut
    calEnd j (j.stat ||| 0x8000 ||| 4 * bit j.sweep ||| 8 * bit j.matrix ||| 128 * bit (!over' || u.aff.sineShort))

/-! ### Core watchdogs (R32, R33, R338) -/

/-- Core `k` stops and restarts: WDEXP, CORE_UP and the count (R32, R39). -/
def coreDown (k : Nat) : Op Unit := do
  sbit R.SYS_CORESTAT (8 + k) true
  sbit R.SYS_CORESTAT k false
  cntSat F.SYS_CORESTAT_RESTARTS 1
  raise Ev.coreRestart [BitVec.ofNat 8 k, 0, 0, 0]

/-- RT_WATCHDOG_EXPIRY: the module enters HOLD and the core restarts; for RT1 the hold sequencer makes the entry (R33, R338). -/
def opRtWatchdogExpiry (rt1 : Bool) : Op Unit := do
  let up ← coreUp (if rt1 then 5 else 4)
  onlyIf up do
    coreDown (if rt1 then 5 else 4)
    if rt1 then holdEnter 2 false else assertCause 1

end Sys2Proof.Machine
end

