-- ==== Sys2Proof/Machine/Ring.lean ====
section
/-!
DEFINITION. Machine/Ring.lean: cluster operation (R525 to R555): forming, the ring cycle, the lane table, disagreements, loss and
rejoin, and relayed verdicts.
-/
namespace Sys2Proof.Machine

/-- Changes the ring's data. -/
def modRng (f : RngS → RngS) : Op Unit := modU fun u => { u with rng := f u.rng }

/-- The ring's data. -/
def ringS : Op RngS := do let u ← units; pure u.rng

/-- The state codes of R531. -/
def rsAbsent : Nat := 0
def rsMember : Nat := 1
def rsLost : Nat := 2

/-- Bits of ORDER (R531). -/
def orderHold : Nat := 0
def orderTransition : Nat := 1
def orderReset : Nat := 2
def orderPath : Nat := 3

/-- Own ring address. -/
def ownAddr : Op Nat := gf F.RNG_STAT_ADDR

/-- Whether the ring's active path carries frames (R513, R552). -/
def ringUp : Op Bool := do
  let k ← getLink 5
  pure (!k.want && !k.gap)

/-- The delay of the hop that the active direction sends on (R528, R552). -/
def ownHop : Op Nat := do
  let p ← gf (F.NET_LSTAT_ACTIVE 5)
  if p = 0 then gf F.RNG_HOPDLY_DN else gf F.RNG_HOPDLY_UP

/-- RNG_CYCNT takes the number of a cycle, with its working copy (R504, R530). -/
def cycleShow (n : Nat) : Op Unit := do
  wrN R.RNG_CYCNT n
  copyWrite 5 .cycle (n % 2 ^ 32)

/-- Sends ring bytes on the active path. -/
def ringEmit (bytes : List Byte) : Op Unit := do
  let p ← gf (F.NET_LSTAT_ACTIVE 5)
  emit (.ring p bytes)

/-! ### The configuration hash (R538) -/

/-- The registers of the hash, as 16-bit values. -/
def hashWords (b : Block) : List Nat :=
  let g (f : RF) : Nat := f.of (b.regs.get f.reg)
  [g F.TOMO_FPER_FPER, g F.TOMO_FPHASE_FPHASE, g F.TOMO_CTL_BLEN] ++ (List.range 4).map (fun i => g (F.TOMO_TFREQ_FREQ i))
    ++ (List.range 4).map (fun i => g (F.TOMO_TAMP_AMP i))
    ++ [g F.REC_CTL_NITER, g F.PCL_INTERVAL_INT, g F.PCL_VMEAN_VMEAN, bits (b.regs.get R.RNG_CTL).toNat 15 12]

/-- The CRC field of each model table, 0 for an empty one (R151). -/
def hashTables (s : RecS) : List Nat :=
  (List.range 64).map fun t => match modelAt s t with | none => 0 | some m => leAt m 0x1FC 4

/-- The configuration hash. -/
def configHash : Op Nat := do
  let b ← blockOp
  pure (crc32 ((hashWords b).flatMap (leBytes 2) ++ (hashTables b.u.reco).flatMap (leBytes 4)))

/-! ### Slots (R531) -/

/-- Whether electrode `e` is named in RNG_BOUND. -/
def isBoundary (b : Block) (e : Nat) : Bool := bitAt (b.regs.get (R.RNG_BOUND (e / 16))).toNat (e % 16)

/-- The electrode that step `k` of the step table drives. -/
def stepDrives (b : Block) (k : Nat) : Option Nat :=
  let w := b.regs.get (R.TOMO_STEP k)
  if (F.TOMO_STEP_DRVEN k).of w = 1 then some ((F.TOMO_STEP_DRV k).of w) else none

/-- Thirty-two bytes from a test of each step. -/
def stepBits (p : Nat → Bool) : List Byte :=
  (List.range 32).map fun j => BitVec.ofNat 8 (((List.range 8).map fun i => if p (8 * j + i) then 2 ^ i else 0).sum)

/-- Lane `n`'s 24 bytes of a slot. -/
def slotLane (b : Block) (n : Nat) : List Byte :=
  let g (f : RF) : Nat := f.of (b.regs.get f.reg)
  let lead := toSigned 48 ((b.regs.get (R.ENC_LEADH n)).toNat * 2 ^ 32 + (b.regs.get (R.ENC_LEADL n)).toNat)
  let sm : LaneSum := match b.u.reco.last with | none => {} | some m => m.lanes.getD n {}
  leBytes 8 (ofSigned 64 lead) ++ leBytes 2 (bits (b.regs.get (R.ENC_LSTAT n)).toNat 15 12) ++ leBytes 2 (g (F.PCL_VSET_VSET n))
    ++ leBytes 2 sm.mmean ++ leBytes 2 sm.tmean ++ leBytes 2 sm.bound
    ++ leBytes 2 (g (F.PCL_LSLOT_PLANE n) + 2 * g (F.PCL_LSTAT_HELD n)) ++ zeros 4

/-- The first 24 bytes of the own slot. -/
def slotHead (b : Block) (a flow hash : Nat) : List Byte :=
  let g (f : RF) : Nat := f.of (b.regs.get f.reg)
  let flags := g F.SYS_MODE_BUSY + 2 * bit b.u.sys.calEnded + 4 * g F.RNG_STAT_SELFLOST + 8 * g F.RNG_STAT_TIMEX
  let persist := bit (g F.THM_STAT_LEVEL == 3) + 2 * g F.SAFE_STATE_SUPER
  leBytes 1 a ++ leBytes 1 (g F.SYS_MODE_CUR) ++ leBytes 1 flags ++ leBytes 1 persist ++ leBytes 2 (g F.RNG_TSEQ_TSEQ) ++ leBytes 2 flow
    ++ leBytes 4 hash ++ leBytes 4 ((b.regs.get R.SYS_FWVER).toNat % 2 ^ 24) ++ leBytes 4 (b.regs.get R.RNG_TOFS).toNat
    ++ leBytes 2 b.u.thm.fpreq ++ zeros 2

/-- The ring's events pass on at a cycle while their sessions have room (R569), and the waiting relay goes into the ring's queue, if the queue has room and the pools have a buffer for it (R553, R565, R567). -/
def relayQueue : Op Unit := do
  ringPassAll
  let u ← units
  let g ← ringS
  match g.relay with
  | none => pure ()
  | some r => onlyIf (decide (ringLevel u < 32)) do
    let bf ← poolTake Client.ring 1
    match bf with
    | none => pure ()
    | some x => do
      modRng fun g => { g with relay := none, queue := g.queue ++ [(r, x)] }
      ringLevelShow

/-- What the slot carries as RELAY: the oldest entry of the ring's queue, whose buffer returns as it leaves (R521, R560). -/
def relayTake : Op (List Byte) := do
  relayQueue
  let g ← ringS
  match g.queue with
  | [] => pure (zeros 8)
  | (r, x) :: l => do
    modRng fun g => { g with queue := l, frozen := g.frozen - 1, relaySent := r }
    poolGive (some x)
    ringLevelShow
    pure r

/-- The own slot as it stands: 512 bytes. -/
def ownSlot : Op (List Byte) := do
  let a ← ownAddr
  let flow ← flowCheck
  let hash ← rd R.RNG_CHASH
  let relay ← relayTake
  let b ← blockOp
  let drv (k : Nat) : Bool := (stepDrives b k).isSome
  let bdrv (k : Nat) : Bool := match stepDrives b k with | none => false | some e => isBoundary b e
  pure (slotHead b a flow hash.toNat ++ relay ++ stepBits bdrv ++ stepBits drv ++ (List.range 16).flatMap (slotLane b) ++ zeros 32)

/-! ### Frames (R531) -/

/-- Slot of address `a` in a frame. -/
def slotIn (f : List Byte) (a : Nat) : List Byte := slice f (0x40 + 512 * (a - 1)) 512

/-- A frame with its CRC-32 computed. -/
def frameSeal (l : List Byte) : List Byte := l ++ leBytes 4 (crc32 l)

/-- STATES as the frame carries it. -/
def statesCode (l : List Nat) : Nat := ((List.range 8).map fun i => l.getD i 0 * 4 ^ i).sum

/-- The state of address `a` in a frame. -/
def stateIn (f : List Byte) (a : Nat) : Nat := leAt f 0x20 2 / 4 ^ (a - 1) % 4

/-! ### What a frame's slots tell every module (R534, R535, R540, R553) -/

/-- One entry of the cluster lane table, whole (R535). -/
def laneEntry (c st : Nat) (e : List Byte) : Op Unit := do
  let lead := leAt e 0 6
  let ls := leAt e 8 2
  let pl := leAt e 18 2
  let flags := bit (bitAt ls 2) + 2 * bit (bitAt ls 1) + 4 * bit (bitAt ls 3) + 8 * bit (bitAt pl 0) + 16 * bit (bitAt pl 1)
    + 32 * bit (st == rsMember)
  wrN (R.RNG_CLEADL c) (lead % 2 ^ 32)
  wrN (R.RNG_CLEADH c) (flags * 65536 + lead / 2 ^ 32)
  wrN (R.RNG_CSPEED c) (leAt e 12 2 * 65536 + leAt e 10 2)
  wrN (R.RNG_CMAP c) (leAt e 14 2 * 65536 + leAt e 16 2)

/-- The lanes of address `a` in the cluster lane table. -/
def laneTable (a st : Nat) (slot : List Byte) : Op Unit :=
  each (fun n => laneEntry (16 * (a - 1) + n) st (slice slot (96 + 24 * n) 24)) (List.range 16)

/-- A relayed verdict in the slot of address `a` (R553). -/
def relayApply (a : Nat) (slot : List Byte) : Op Unit := do
  let r := slice slot 24 8
  let ctl := leAt r 0 2
  let own ← ownAddr
  let head ← isHead
  let kind ← gf F.NET_DEALER_KIND
  let da' ← gf F.NET_DEALER_ADDR
  let da := if 1 ≤ da' ∧ da' ≤ 8 then da' else 1
  let link := min 5 ((F.RNG_RVCTL_LINK).of (BitVec.ofNat 32 ctl))
  let dest := (F.RNG_RVCTL_ADDR).of (BitVec.ofNat 32 ctl) + 1
  onlyIf (bitAt ctl 15 && dest == own && kind == 2 && da == a && (link != 5 || head || own == 1))
    (verdictTake link ((F.RNG_RVCTL_PATH).of (BitVec.ofNat 32 ctl)) (bitAt ctl 7) (leAt r 4 4))

/-- What is kept of address `a` after a slot of it came (R539, R544): runs of cycles in which its hash, firmware and transition
sequence differ from the head's. -/
def peerTake (hash fw tseq : Nat) (slot : List Byte) (p : RingPeer) : RingPeer :=
  let run (eq : Bool) (k : Nat) : Nat := if eq then 0 else min 2 (k + 1)
  { p with slot := slot, fresh := true, missed := 0, hashRun := run (leAt slot 8 4 == hash) p.hashRun, fwRun := run (leAt slot 12 4 == fw) p.fwRun, tseqRun := run (leAt slot 4 2 == tseq) p.tseqRun }

/-- Changes what is kept of address `a`. -/
def modPeer (a : Nat) (f : RingPeer → RingPeer) : Op Unit := modRng fun g => { g with peers := updAt g.peers (a - 1) f }

/-- Whether two sets of steps meet. -/
def setsMeet (x y : List Byte) : Bool := (List.zipWith (fun (p q : Byte) => decide (p &&& q ≠ 0)) x y).any (fun b => b)

/-- Whether the slots of two neighbours clash at their boundary (R539). -/
def slotsClash (x y : List Byte) : Bool :=
  setsMeet (slice x 32 32) (slice y 64 32) || setsMeet (slice x 64 32) (slice y 32 32)

/-- The neighbours of address `a` in a cluster of `n` (R539). -/
def neighbours (a n : Nat) (wrap : Bool) : List Nat :=
  ((if 1 < a then [a - 1] else if wrap then [n] else []) ++ (if a < n then [a + 1] else if wrap then [1] else [])).filter (· ≠ a)

/-- Whether address `a` clashes with a neighbour in state member. -/
def clashes (g : RngS) (a : Nat) : Bool :=
  (neighbours a g.n g.wrap).any fun b =>
    g.states.getD (b - 1) 0 == rsMember && slotsClash ((g.peers.getD (a - 1) {}).slot) ((g.peers.getD (b - 1) {}).slot)

/-- Disagreement bits 0 and 1 of address `a` (R539). -/
def settingsDiffer (g : RngS) (a : Nat) : Nat :=
  let p := g.peers.getD (a - 1) {}
  bit (p.hashRun == 2 || clashes g a) + 2 * bit (p.fwRun == 2)

/-- SYS_FLOWCHK.CLUSTER follows the members' bits 0 and 1 (R540). -/
def clusterFlow : Op Unit := do
  let g ← ringS
  sb F.SYS_FLOWCHK_CLUSTER ((List.range 8).any fun i => g.states.getD i 0 == rsMember && settingsDiffer g (i + 1) != 0)

/-- RNG_PRESENT.JOINED follows the states. -/
def joinedShow : Op Unit := do
  let g ← ringS
  sf F.RNG_PRESENT_JOINED (((List.range 8).map fun i => if g.states.getD i 0 = rsMember then 2 ^ i else 0).sum)

/-- Whether every module in state member reports HOLD with transition sequence `tseq`, this one too (R544). -/
def allHold (g : RngS) (tseq : Nat) : Bool :=
  (List.range 8).all fun i =>
    let s := (g.peers.getD i {}).slot
    g.states.getD i 0 != rsMember || (leAt s 1 1 == modeHold && leAt s 4 2 == tseq)

/-- Cause CLUSTER asserts and stands (R544, R548, R549). -/
def clusterHold : Op Unit := do
  modRng fun g => { g with holds := true }
  assertCause 4

/-- Cause CLUSTER stands no more. -/
def clusterAgree : Op Unit := modRng fun g => { g with holds := false }

/-! ### Forming (R528, R529) -/

/-- ENUM_FRAME_SEND: the head sends an enumeration frame every 500 µs, while the ring forms and after it, so that a module powered later
takes its address (R528, R529, assumption log 100); none in the ring's gap (R513). -/
def opEnumFrameSend : Op Unit := do
  let t ← now
  let w ← wallTime
  let g ← ringS
  let head ← isHead
  let m ← curMode
  let k ← getLink 5
  onlyIf (head && !k.gap && ((m == modeEnumerate && g.forming.isSome) || g.joined) && (match g.enumAt with | none => true | some x => decide (x + 500000 ≤ t))) do
    modRng fun g => { g with enumAt := some t }
    emit (.enumFrame 2 w [])

/-- The standby ring path is off on a formed ring (R505, R528); during a switch-over of the ring both paths stay as it has them (R513). -/
def ringRest : Op Unit := do
  let p ← gf (F.NET_LSTAT_ACTIVE 5)
  let k ← getLink 5
  onlyIf (!k.gap && !k.flush) (pathPower 5 (1 - p) false)

/-- The enumeration frame comes back to the head with the modules it passed. -/
def enumReturn (f : EnumFrame) : Op Unit := do
  if f.entries.any (fun b => b) then stopOp .ringTwoHeads
  else if 7 < f.entries.length then stopOp .ringTooLong
  else modRng fun g => { g with n := f.entries.length + 1, complete := decide (g.expect ≤ f.entries.length + 1) }

/-- Another module takes its address and the head's wall time, and forwards the frame; on a ring that has formed it goes on by
itself (R529). -/
def enumTake (f : EnumFrame) : Op Unit := do
  let low ← units
  if f.entries.any (fun b => b) then stopOp .ringTwoHeads
  else if 8 < f.next then stopOp .ringTooLong
  else do
    sf F.RNG_STAT_ADDR f.next
    wallStep f.wall
    emit (.enumFrame (f.next + 1) f.wall (f.entries ++ [low.pwr.headLow]))
    onlyIf f.formed do
      modRng fun g => { g with late := true, joined := true, forming := none }
      ringRest
      sf F.SYS_MODE_TARGET modeCalibrate
      sb F.SYS_MODE_BUSY true
      modSys fun s => { s with job := some ⟨modeCalibrate, false, none, 1⟩ }

/-- The frame comes back to the head of a ring that has formed: addresses that it did not count are lost (R529). -/
def enumLater (f : EnumFrame) : Op Unit := do
  if f.entries.any (fun b => b) then stopOp .ringTwoHeads
  else if 7 < f.entries.length then stopOp .ringTooLong
  else do
    let g ← ringS
    let new := (List.range 8).filter fun i => decide (g.n ≤ i ∧ i ≤ f.entries.length)
    modRng fun g => { g with n := max g.n (f.entries.length + 1), states := new.foldl (fun l i => setAt l i rsLost) g.states }
    each (fun i => sf (F.RNG_MSTAT_STATE i) rsLost) new

/-- A module of a ring that has formed forwards the frame. -/
def enumPass (f : EnumFrame) : Op Unit := do
  let u ← units
  if f.entries.any (fun b => b) then stopOp .ringTwoHeads
  else if 8 < f.next then stopOp .ringTooLong
  else emit (.enumFrame (f.next + 1) f.wall (f.entries ++ [u.pwr.headLow]))

/-- Whether a frame that arrives falls in the ring's gap: it is discarded and counted (R515). -/
def ringLost : Op Bool := do
  let k ← getLink 5
  onlyIf k.gap (cntSat (F.NET_LOSTCNT_CNT 5) 1)
  pure k.gap

/-- ENUM_FRAME_RECEIVE (R526, R528, R529): in the ring's gap it is lost (R515), and one that fails its CRC goes on unchanged (R533). The
frame goes downstream, from RL-DN to RL-UP, while the ring forms; where it comes in on RL-DN the ring is not cabled so (R525). A second
head does not forward the frame of the first (R526). -/
def opEnumFrameReceive (f : EnumFrame) : Op Unit := do
  let g ← ringS
  let head ← isHead
  let m ← curMode
  let forms := m == modeEnumerate && g.forming.isSome
  onlyIf (forms || g.joined)
    (do
      let gone ← ringLost
      if gone then pure ()
      else if f.crcOk = false then do
        onlyIf (!head) (ringEmit f.bytes)
        cntSat F.RNG_ERRCNT_CNT 1
        sb F.RNG_STAT_CRCERR true
      else if f.otherHead then stopOp .ringTwoHeads
      else if f.onDown && !f.formed then stopOp .ringMiscabled
      else if forms then (if head then enumReturn f else enumTake f)
      else if head then enumLater f
      else enumPass f)

/-- CLUSTER_FORMED: the frame came back complete, or RNG_ENUMT has passed; the transition to CALIBRATE follows (R528). -/
def opClusterFormed : Op Unit := do
  let t ← now
  let g ← ringS
  let head ← isHead
  let m ← curMode
  let et ← gf F.RNG_ENUMT_T
  let p ← gf (F.NET_LSTAT_ACTIVE 5)
  match g.forming with
  | none => pure ()
  | some s =>
    onlyIf (head && m == modeEnumerate && (g.complete || decide (s + max 1 et * 100000000 ≤ t))) do
      modRng fun g => { g with forming := none, joined := decide (1 < g.n), states := (List.range 8).map fun i => if i < g.n then rsMember else rsAbsent }
      sb F.RNG_STAT_FORMED true
      joinedShow
      each (fun i => onlyIf (decide (i < g.n)) (sf (F.RNG_MSTAT_STATE i) rsMember)) (List.range 8)
      ringRest
      sf F.SYS_MODE_TARGET modeCalibrate
      if 1 < g.n then modRng fun g => { g with orders := g.orders ||| 2, target := modeCalibrate, serves := none }
      else do
        pathPower 5 p false
        cntWrap F.RNG_TSEQ_TSEQ 1
        sb F.SYS_MODE_BUSY true
        modSys fun s => { s with job := some ⟨modeCalibrate, false, none, 1⟩ }

/-! ### The ring cycle (R530 to R534) -/

/-- A carried transition starts (R542). One out of HOLD that the conditions of R339 permit clears SYS_HOLDCAUSE; else the transition is
refused when it is to be made, and the causes stand. -/
def carriedStart (target : Nat) (serves : Option (Nat × Nat)) : Op Unit := do
  let cur ← curMode
  let c ← releaseCheck target
  sf F.SYS_MODE_TARGET target
  sb F.SYS_MODE_BUSY true
  onlyIf (cur == modeHold && c == 0) (wr R.SYS_HOLDCAUSE 0)
  modSys fun s => { s with job := some ⟨target, cur == modeHold, serves, 1⟩ }

/-- RNG_FPER: the larger of the head's own TOMO_FPER and every FPREQ of a member (R541). -/
def clusterPeriod : Op Nat := do
  let g ← ringS
  let p ← gf F.TOMO_FPER_FPER
  let v := (List.range 7).foldl (fun m i => if g.states.getD (i + 1) 0 = rsMember then max m (leAt (g.peers.getD (i + 1) {}).slot 20 2) else m) p
  sf F.RNG_FPER_FPER v
  pure v

/-- The step of a rejoin that the head writes into a slot (assumption log 70): 0 none, 1 clear cause CLUSTER and release to IDLE, 2 clear it and
make the transition to the head's CUR, 3 clear it and be in HOLD, 4 clear it in the mode that holds. -/
def rejoinCode (cur slotCur : Nat) : Nat :=
  if cur = modeHold then 3 else if slotCur = modeHold then 1 else if slotCur = modeIdle ∧ cur ≠ modeIdle then 2 else 4

/-- A slot as the head sends it on: the latest one, with the step of a rejoin under way. -/
def slotOut (g : RngS) (cur a : Nat) : List Byte :=
  let s := (g.peers.getD (a - 1) {}).slot
  let s := if s.length = 512 then s else zeros 512
  match g.rejoin with
  | none => patch s 480 [0]
  | some r => patch s 480 [BitVec.ofNat 8 (if r.a = a then rejoinCode cur (leAt s 1 1) else 0)]

/-- The head sends the cycle frame with its orders. -/
def frameSend (n : Nat) : Op Unit := do
  let g ← ringS
  let w ← wallTime
  let hop ← ownHop
  let t0 ← gf F.RNG_TSEQ_TSEQ
  let cur ← curMode
  let fper ← clusterPeriod
  let hash ← rd R.RNG_CHASH
  let fw ← rd R.SYS_FWVER
  let slot ← ownSlot
  let tr := bitAt g.orders orderTransition
  let tseq := if tr then (t0 + 1) % 65536 else t0
  let slots := (List.range g.n).flatMap fun i => if i = 0 then slot else slotOut g cur (i + 1)
  modPeer 1 (peerTake (leAt slot 8 4) (leAt slot 12 4) (leAt slot 4 2) slot)
  ringEmit (frameSeal (leBytes 2 1 ++ leBytes 1 g.n ++ leBytes 1 g.orders ++ leBytes 4 n ++ leBytes 8 w ++ leBytes 4 hop ++ leBytes 2 tseq
    ++ leBytes 1 (if tr then g.target else 0) ++ leBytes 1 cur ++ leBytes 4 hash.toNat ++ leBytes 4 (fw.toNat % 2 ^ 24)
    ++ leBytes 2 (statesCode g.states) ++ leBytes 2 fper ++ zeros 28 ++ slots))
  modRng fun g => { g with out := true, orders := 0, serves := none, rejoin := g.rejoin.map fun r =>
    let c := rejoinCode cur (leAt (g.peers.getD (r.a - 1) {}).slot 1 1)
    { r with step := c, seen := r.seen && r.step == c } }
  sf F.RNG_TSEQ_TSEQ tseq
  onlyIf tr (carriedStart g.target g.serves)
  onlyIf (bitAt g.orders orderPath) do
    let t ← now
    modLink 5 fun k => { k with want := true, since := t }

/-- A cycle whose frame did not come back: every slot was missed (R548). -/
def frameMissed : Op Unit := do
  modRng fun g => { g with out := false, peers := g.peers.mapIdx fun i p => if i = 0 then p else { p with fresh := false, missed := p.missed + 1 } }
  sf F.RNG_PRESENT_PRESENT 1

/-- A cluster of one keeps its own entry and applies its own relay (R527). -/
def cycleAlone : Op Unit := do
  let slot ← ownSlot
  modPeer 1 (peerTake (leAt slot 8 4) (leAt slot 12 4) (leAt slot 4 2) slot)
  sf F.RNG_PRESENT_PRESENT 1
  joinedShow
  sf (F.RNG_MSTAT_STATE 0) rsMember
  sf (F.RNG_MSTAT_MODE 0) (leAt slot 1 1)
  wrN (R.RNG_MHASH 0) (leAt slot 8 4)
  laneTable 1 rsMember slot
  relayApply 1 slot
  let _ ← clusterPeriod

/-- RING_CYCLE_START: cycle n starts at wall time n × 500,000 ns (R530); the ring cycle is a service of RT1 (R29). -/
def opRingCycleStart : Op Unit := onCore 5 do
  let w ← wallTime
  let g ← ringS
  let head ← isHead
  let up ← ringUp
  let formed ← bf F.RNG_STAT_FORMED
  let n := w / 500000
  let cl ← bf F.RNG_CTL_CLEVEL
  let lh ← bf F.RNG_CTL_LOSTHOLD
  onlyIf ((formed || g.joined) && decide (w % 500000 < 4 ∧ g.cycle ≠ some n)) do
    let hash ← configHash
    wrN R.RNG_CHASH hash
    modRng fun g => { g with cycle := some n, clevel := cl, lostHold := lh }
    if !g.joined then do
      cycleShow n
      cycleAlone
    else if head then do
      cycleShow n
      onlyIf g.out frameMissed
      if up then frameSend n else relayQueue
    else if up then modRng fun g => { g with missed := if g.taken then 0 else g.missed + 1, taken := false }
    else do
      cycleShow n
      relayQueue
      modRng fun g => { g with taken := true }

/-! ### A cycle frame at a member (R530, R533, R536, R542, R544, R549) -/

/-- The offset to the head, and what follows it: a step in ENUMERATE, else a slew, but none while self-lost (R536, R537, R549). -/
def offsetTake (wt delay : Nat) : Op Unit := do
  let w ← wallTime
  let m ← curMode
  let ofs : Int := (w : Int) - ((wt + delay : Nat) : Int)
  wrN R.RNG_TOFS (ofSigned 32 (clampI (-2147483648) 2147483647 ofs))
  sb F.RNG_STAT_TIMEX (decide (2000 < ofs.natAbs))
  let sl ← bf F.RNG_STAT_SELFLOST
  if m = modeEnumerate then wallStep (wt + delay)
  else onlyIf (!sl) (modU fun u => { u with slew := -ofs })

/-- The module becomes self-lost: cause CLUSTER, and its wall time runs free (R549). -/
def selfLose : Op Unit := do
  sb F.RNG_STAT_SELFLOST true
  clusterHold
  modRng fun g => { g with rejoining := false }
  modU fun u => { u with slew := 0 }

/-- The step of a rejoin in the own slot of a lost module (R550). -/
def rejoinStep (code cur : Nat) : Op Unit := do
  let m ← curMode
  let busy ← bf F.SYS_MODE_BUSY
  modRng fun g => { g with rejoining := true }
  clusterAgree
  if code = 1 ∧ m = modeHold ∧ busy = false then carriedStart modeIdle none
  else if code = 2 ∧ m = modeIdle ∧ busy = false then carriedStart cur none
  else if code = 3 ∧ m ≠ modeHold then assertCause 0
  else pure ()

/-- A module that the frame marks lost (R549, R550). -/
def lostTake (code cur : Nat) : Op Unit := do
  let g ← ringS
  let sl ← bf F.RNG_STAT_SELFLOST
  onlyIf (!g.late && !sl) selfLose
  onlyIf (code != 0) (rejoinStep code cur)

/-- A module that the frame marks a member: it is rejoined if it was lost and the steps of a REJOIN have reached it (R550). -/
def memberTake (tseq : Nat) : Op Unit := do
  let g ← ringS
  let sl ← bf F.RNG_STAT_SELFLOST
  onlyIf ((g.late || sl) && g.rejoining) do
    modRng fun g => { g with late := false, rejoining := false }
    sb F.RNG_STAT_SELFLOST false
    sf F.RNG_TSEQ_TSEQ tseq
    clusterAgree

/-- The orders of a frame at a member (R541, R542, R544, R545); a lost module takes none. -/
def ordersTake (f : List Byte) : Op Unit := do
  let o := leAt f 3 1
  let tseq := leAt f 0x14 2
  let t ← now
  let g ← ringS
  sf F.TOMO_FPER_FPER (leAt f 0x22 2)
  recBudget
  sf F.RNG_FPER_FPER (leAt f 0x22 2)
  onlyIf (g.holds && leAt f 0x17 1 == modeHold && allHold g tseq) clusterAgree
  onlyIf (bitAt o orderHold) clusterHold
  onlyIf (bitAt o orderTransition) do
    clusterAgree
    sf F.RNG_TSEQ_TSEQ tseq
    carriedStart (leAt f 0x16 1) none
  onlyIf (bitAt o orderReset) (modRng fun g => { g with resetAt := some (t + 10000000) })

/-- The slots of a frame at a member: kept, shown and applied. -/
def slotsTake (f : List Byte) (a : Nat) : Op Unit := do
  let s := slotIn f a
  let g ← ringS
  onlyIf (decide (leAt s 0 1 = a ∧ a ≤ g.n)) do
    modPeer a (peerTake (leAt f 0x18 4) (leAt f 0x1C 4) (leAt f 0x14 2) s)
    laneTable a (g.states.getD (a - 1) 0) s
    sbit R.RNG_PRESENT (a - 1) true
    relayApply a s

/-- A valid cycle frame at an addressed module. -/
def frameTake (f : List Byte) (a : Nat) : Op Unit := do
  let cur := leAt f 0x17 1
  let hop ← ownHop
  let res ← free
  let t ← now
  let g0 ← ringS
  onlyIf g0.forming.isSome ringRest
  modRng fun g => { g with taken := true, missed := 0, forming := none, joined := true, n := leAt f 2 1, states := (List.range 8).map fun i => stateIn f (i + 1) }
  cycleShow (leAt f 4 4)
  offsetTake (leAt f 8 8) (leAt f 0x10 4)
  let slot ← ownSlot
  let code := leAt (slotIn f a) 480 1
  let body := patch (patch (f.take (f.length - 4)) (0x40 + 512 * (a - 1)) slot) 0x10 (leBytes 4 (leAt f 0x10 4 + res % 501 + hop))
  ringEmit (frameSeal body)
  sf F.RNG_PRESENT_PRESENT 0
  each (slotsTake body) [1, 2, 3, 4, 5, 6, 7, 8]
  joinedShow
  clusterFlow
  if stateIn f a = rsMember then do
    memberTake (leAt f 0x14 2)
    let g ← ringS
    let sl ← bf F.RNG_STAT_SELFLOST
    onlyIf (!g.late && !sl) (ordersTake f)
  else onlyIf (stateIn f a == rsLost) (lostTake code cur)
  onlyIf (bitAt (leAt f 3 1) orderPath) (modLink 5 fun k => { k with want := true, since := t })

/-- RING_FRAME_RECEIVE: a cycle frame reaches a module that is not the head. While RT1 is down it is forwarded as it came (R29,
assumption log 72). -/
def opRingFrameReceive (f : RingFrame) : Op Unit := do
  let g ← ringS
  let head ← isHead
  let a ← ownAddr
  let rt1 ← coreUp 5
  onlyIf (g.ring && !head && decide (2 ≤ a)) do
    let gone ← ringLost
    if gone then pure ()
    else if rt1 = false then ringEmit f.bytes
    else if f.crcOk then frameTake f.bytes a
    else do
      ringEmit f.bytes
      cntSat F.RNG_ERRCNT_CNT 1
      sb F.RNG_STAT_CRCERR true

/-! ### The frame's return to the head (R534, R537, R539, R540, R543, R544) -/

/-- Whether the head finds a mode disagreement with a member (R544). -/
def modeDiffers (cur : Nat) (busy : Bool) (tseq : Nat) (p : RingPeer) : Bool :=
  p.tseqRun == 2 || (leAt p.slot 4 2 == tseq && !busy && !bitAt (leAt p.slot 2 1) 0 && leAt p.slot 1 1 != cur)

/-- The slot of address `a` in a returned frame, or its miss. -/
def returnOne (f : RingFrame) (a : Nat) : Op Unit := do
  let g ← ringS
  let own ← rd R.RNG_CHASH
  let fw ← rd R.SYS_FWVER
  let tseq ← gf F.RNG_TSEQ_TSEQ
  let s := slotIn f.bytes a
  onlyIf (decide (a ≤ g.n)) do
    if a = 1 ∨ a ∈ f.written then do
      modPeer a (peerTake own.toNat (fw.toNat % 2 ^ 24) tseq s)
      sbit R.RNG_PRESENT (a - 1) true
      laneTable a (g.states.getD (a - 1) 0) s
      sf (F.RNG_MSTAT_MODE (a - 1)) (leAt s 1 1)
      wrN (R.RNG_MHASH (a - 1)) (leAt s 8 4)
      relayApply a s
    else modPeer a fun p => { p with fresh := false, missed := p.missed + 1 }

/-- The disagreements of member `a`: what is new raises CLUSTER_DISAGREE, and one of mode holds the cluster. -/
def disagreeOne (a : Nat) : Op Unit := do
  let g ← ringS
  let cur ← curMode
  let busy ← bf F.SYS_MODE_BUSY
  let tseq ← gf F.RNG_TSEQ_TSEQ
  let old ← gf (F.RNG_MSTAT_DISAGREE (a - 1))
  let p := g.peers.getD (a - 1) {}
  if 2 ≤ a ∧ g.states.getD (a - 1) 0 = rsMember then do
    let time := bitAt (leAt p.slot 2 1) 3
    let mode := modeDiffers cur busy tseq p
    let v := settingsDiffer g a + 4 * bit time + 8 * bit mode
    sf (F.RNG_MSTAT_DISAGREE (a - 1)) v
    onlyIf (v != 0) (sb F.RNG_STAT_DISAGREE true)
    onlyIf ((time && !bitAt old 2) || (mode && !bitAt old 3))
      (raiseFrom Client.ring Ev.clusterDisagree [BitVec.ofNat 8 a, BitVec.ofNat 8 v, 0, 0])
    onlyIf mode do
      clusterHold
      modRng fun g => { g with orders := g.orders ||| 1 }
  else sf (F.RNG_MSTAT_DISAGREE (a - 1)) (if a = 1 then settingsDiffer g 1 else 0)

/-- The head commands CALIBRATE to IDLE once every member reports CALDONE (R543). -/
def calDoneAll : Op Unit := do
  let g ← ringS
  let u ← units
  let cur ← curMode
  let stay ← bf F.SYS_CALCTL_STAY
  let busy ← bf F.SYS_MODE_BUSY
  let all := (List.range 7).all fun i =>
    let s := (g.peers.getD (i + 1) {}).slot
    g.states.getD (i + 1) 0 != rsMember || (leAt s 1 1 == modeCalibrate && bitAt (leAt s 2 1) 1)
  onlyIf (cur == modeCalibrate && u.sys.calEnded && !stay && !busy && all && !bitAt g.orders orderTransition) do
    sf F.SYS_MODE_TARGET modeIdle
    modRng fun g => { g with orders := g.orders ||| 2, target := modeIdle, serves := none }

/-- A rejoin ends: the command completes (R550). -/
def rejoinEnd (r : Rejoin) (status : Nat) : Op Unit := do
  modRng fun g => { g with rejoin := none, states := if status = 0 then setAt g.states (r.a - 1) rsMember else g.states }
  onlyIf (status == 0) do
    sf (F.RNG_MSTAT_STATE (r.a - 1)) rsMember
    modPeer r.a fun p => { p with tseqRun := 0 }
  joinedShow
  completeTag r.serves.1 r.serves.2 status []

/-- The refusal that a member's slot shows for the next step of its rejoin to mode `cur`: 0 where none. -/
def rejoinRefusal (cur : Nat) (s : List Byte) : Nat :=
  let m := leAt s 1 1
  if cur = modeHold then 0
  else if m = modeHold then (if leAt s 3 1 ≠ 0 then St.holdCause else 0)
  else if m = modeIdle then (if cur = modeFlow ∧ leAt s 6 2 ≠ 0 then St.modePrecond else 0)
  else if m = modeEnumerate ∨ m = modeCalibrate then St.modeBusy
  else St.modePrecond

/-- A rejoin goes on with the slot that came (R550): it succeeds once a frame has carried the step to the member and the member is in the
head's mode, waits while the member is in a transition, and ends with the refusal of a step that the member has not made though a frame
with it came back before (assumption log 66). -/
def rejoinGo : Op Unit := do
  let g ← ringS
  let cur ← curMode
  match g.rejoin with
  | none => pure ()
  | some r => do
    let p := g.peers.getD (r.a - 1) {}
    let s := p.slot
    if (!p.fresh || r.step == 0 || bitAt (leAt s 2 1) 0) = true then pure ()
    else if leAt s 1 1 = cur then rejoinEnd r St.ok
    else if rejoinRefusal cur s ≠ 0 then rejoinEnd r (rejoinRefusal cur s)
    else if r.step = rejoinCode cur (leAt s 1 1) ∧ r.seen = true then rejoinEnd r (if leAt s 1 1 = modeHold then St.holdCause else St.modePrecond)
    else modRng fun g => { g with rejoin := some { r with seen := true } }

/-- REJOIN of address `a` by the command `serves` (R550): the status of a command that completes at once, `none` where the
rejoin goes on. -/
def rejoinAsk (a : Nat) (serves : Nat × Nat) : Op (Option Nat) := do
  let g ← ringS
  let u ← units
  let own ← ownAddr
  let cur ← curMode
  let hash ← rd R.RNG_CHASH
  let fw ← rd R.SYS_FWVER
  let p := g.peers.getD (a - 1) {}
  let ofs := toSigned 32 (leAt p.slot 16 4)
  if (u.rng.ring && decide (own ≠ 1)) = true then pure (some St.clusterMember)
  else if g.joined = false ∨ p.fresh = false then pure (some St.memberAbsent)
  else if leAt p.slot 8 4 ≠ hash.toNat ∨ leAt p.slot 12 4 ≠ fw.toNat % 2 ^ 24 ∨ 2000 < ofs.natAbs then pure (some St.modePrecond)
  else if cur = modeEnumerate ∨ cur = modeCalibrate ∨ g.rejoin.isSome = true then pure (some St.modeBusy)
  else if g.states.getD (a - 1) 0 = rsMember ∧ bitAt (leAt p.slot 2 1) 2 = false then pure (some St.ok)
  else do
    modRng fun g => { g with rejoin := some { a := a, serves := serves }, states := setAt g.states (a - 1) rsLost }
    sf (F.RNG_MSTAT_STATE (a - 1)) rsLost
    joinedShow
    pure none

/-- The head evaluates a returned frame. -/
def frameEvaluate (f : RingFrame) : Op Unit := do
  sf F.RNG_PRESENT_PRESENT 0
  each (returnOne f) [1, 2, 3, 4, 5, 6, 7, 8]
  each disagreeOne [1, 2, 3, 4, 5, 6, 7, 8]
  clusterFlow
  let g ← ringS
  let cur ← curMode
  let tseq ← gf F.RNG_TSEQ_TSEQ
  onlyIf (g.holds && cur == modeHold && allHold g tseq) clusterAgree
  let _ ← clusterPeriod
  calDoneAll
  rejoinGo

/-- RING_FRAME_RETURN: the cycle frame is back at the head; while RT1 is down it is not evaluated (R29). In the ring's gap it is lost
(R515). -/
def opRingFrameReturn (f : RingFrame) : Op Unit := do
  let g ← ringS
  let head ← isHead
  onlyIf (g.joined && head) do
    let gone ← ringLost
    onlyIf (!gone && g.out) (onCore 5 (if f.crcOk then do
      modRng fun g => { g with out := false }
      frameEvaluate f
    else do
      cntSat F.RNG_ERRCNT_CNT 1
      sb F.RNG_STAT_CRCERR true))

/-! ### Loss (R548, R549) -/

/-- MEMBER_LOST: no valid slot of member `a` for RNG_LOSTN cycles in a row (R548), found by RT1 (R29). -/
def opMemberLost (a : Nat) : Op Unit := onCore 5 do
  let g ← ringS
  let head ← isHead
  let n ← gf F.RNG_LOSTN_N
  let p := g.peers.getD (a - 1) {}
  onlyIf (head && g.joined && decide (2 ≤ a ∧ a ≤ 8 ∧ g.states.getD (a - 1) 0 = rsMember ∧ max 2 n ≤ p.missed)) do
    modRng fun g => { g with states := setAt g.states (a - 1) rsLost }
    sf (F.RNG_MSTAT_STATE (a - 1)) rsLost
    sf (F.RNG_MSTAT_DISAGREE (a - 1)) 0
    joinedShow
    sb F.RNG_STAT_MEMLOST true
    raiseFrom Client.ring Ev.memberLost [BitVec.ofNat 8 a, 0, 0, 0]
    each (fun k => sbit (R.RNG_CLEADH (16 * (a - 1) + k)) 21 false) (List.range 16)
    clusterFlow
    onlyIf g.lostHold do
      clusterHold
      modRng fun g => { g with orders := g.orders ||| 1 }

/-- SELF_LOST: no valid cycle frame for RNG_LOSTN cycles in a row (R549), found by RT1 (R29). -/
def opSelfLost : Op Unit := onCore 5 do
  let g ← ringS
  let head ← isHead
  let n ← gf F.RNG_LOSTN_N
  let sl ← bf F.RNG_STAT_SELFLOST
  onlyIf (g.ring && g.joined && !head && !g.late && !sl && decide (max 2 n ≤ g.missed)) selfLose

/-! ### RNG registers (R553, R555) -/

/-- A relay is published: it replaces one that waits (R553). -/
def relayPublish : Op Unit := do
  let g ← ringS
  let ctl ← rd R.RNG_RVCTL
  let lo ← gf F.RNG_RVNUML_NUM
  let hi ← gf F.RNG_RVNUMH_NUM
  onlyIf g.relay.isSome (sb F.RNG_STAT_RELAYREJ true)
  modRng fun g => { g with relay := some (leBytes 2 (32768 + ctl.toNat % 32768) ++ zeros 2 ++ leBytes 4 (lo + 65536 * hi)) }

/-- A write of an RNG register: RNG_CTL and RNG_BOUND are committed to NV, GO publishes the relay. -/
def ringWrite (base a : Nat) (new acts : Word) : Op Unit := do
  wr a new
  if base = R.RNG_CTL ∨ base = R.RNG_BOUND 0 then commitAddrs [a]
  else if base = R.RNG_RVCTL then onlyIf ((F.RNG_RVCTL_GO).of acts == 1) relayPublish
  else pure ()

end Sys2Proof.Machine
end

