-- ==== Sys2Proof/Machine/Power.lean ====
section
/-!
DEFINITION. Machine/Power.lean: resets and start-up (R346, R609 to R612, R616), clocks (R606 to R608, R624), the hold-up store and
power loss (R617 to R623), and the module watchdog (R610).
-/
namespace Sys2Proof.Machine

/-- Changes the PWR unit's data. -/
def modPwr (f : PwrS → PwrS) : Op Unit := modU fun u => { u with pwr := f u.pwr }

/-! ### Resets (R611, R612) -/

/-- Causes of R609. -/
def rcPower : Nat := 1
def rcRail : Nat := 2
def rcPll : Nat := 3
def rcResetN : Nat := 4
def rcWatchdog : Nat := 5
def rcCommand : Nat := 6
def rcCluster : Nat := 7
def rcSave : Nat := 8

/-- All bits of a register. -/
def allBits : Nat := 0xFFFFFFFF

/-- The bits of register `a` that a cold reset keeps: the archive's head and count and the next parcel ID, which NV holds, and
the starts counted since power-on. -/
def keepCold (powerOn : Bool) (a : Nat) : Nat :=
  if a = R.PCL_ARCHHEAD ∨ a = R.PCL_ARCHCNT ∨ a = R.PCL_PIDNEXT then allBits
  else if a = R.BOOT_LAST ∧ powerOn = false then 0xFFFF0000
  else 0

/-- The bits of register `a` that a warm reset keeps (R612). -/
def keepWarm (a : Nat) : Nat :=
  if keepCold false a ≠ 0 then keepCold false a
  else if 0x100000 ≤ a ∧ a < 0x100400 then allBits
  else if a = R.ENC_MCNTL ∨ a = R.ENC_MCNTH ∨ a = R.ENC_MCTL then allBits
  else if isRepeat a (R.FAN_SET 0) 0x80 8 ∨ isRepeat a (R.FAN_HOLDV 0) 0x80 8 then allBits
  else if isRepeat a (R.VDRV_HOLDV 0) 0x80 32 then allBits
  else if isRepeat a (R.FLD_TXOPT 0) 0x20 256 then 0x8000
  else if isRepeat a (R.FLD_TXHVAL 0) 0x20 256 then allBits
  else 0

/-- Whether register `a` stands in a VGATE or BGATE domain that a reset switches off, with a parity that does not match: it is repaired
as it enters its copy (R461, R605). -/
def copyRepairs (b : Block) (a : Nat) : Bool :=
  b.upset.contains a && (addrDomain a).any fun d => bitAt (b.regs.get (R.PWR_DOMSTAT (d / 32))).toNat (d % 32)

/-- Every register takes its reset value but for the bits kept; the parity of a register that is kept whole stays as it is, unless the
reset repairs it. -/
def resetRegs (keep : Nat → Nat) : Op Unit := do
  let b ← blockOp
  let kept (a : Nat) : Nat := if copyRepairs b a then 0 else keep a
  each (fun (x : Nat × Word) =>
    wr x.1 ((x.2 &&& BitVec.ofNat 32 (kept x.1)) ||| (regReset x.1 &&& ~~~(BitVec.ofNat 32 (kept x.1))))) b.regs
  modUpset fun _ => b.upset.filter (fun a => kept a = allBits)

/-- The PWR unit's data after a reset at elapsed time `old`, which is `t` from then on; `vbus` says whether VBUS stayed up. -/
def resetPwr (vbus : Bool) (old t mv : Nat) (p : PwrS) : PwrS :=
  { q := if vbus then p.q else 0, chargeFromMv := mv, rebasePending := vbus && p.rebasePending, estAt := t, misRaised := vbus && p.misRaised, cmpDue := t + (if vbus then p.cmpDue - old else 100000000), aliveAt := t, resetNLow := p.resetNLow, headLow := p.headLow, encTied := p.encTied, refHigh := p.refHigh }

/-- NV after a reset: a commit in progress is cut (R615), and its target stays as the step reached left it. -/
def resetNv (n : NvS) : NvS := { n with commit := none, queued := [], fwBad := [] }

/-- The units after a cold reset: time and counters from 0, DRAM lost; the planner's runs are counted from power-on (R428). -/
def coldUnits (powerOn vbus : Bool) (mv : Nat) (u : Units) : Units :=
  { pcl := { runs := if powerOn then 0 else u.pcl.runs }, free := u.free, out := u.out, nv := resetNv u.nv, pwr := resetPwr vbus u.elapsed 0 mv u.pwr, jtag := u.jtag }

/-- The units after a warm reset at elapsed time `t`: wall time, the counters and the lanes go on, and DRAM keeps its contents
(R612). -/
def warmUnits (t mv : Nat) (u : Units) : Units :=
  { elapsed := u.elapsed, wall := u.wall, free := u.free, out := u.out, nv := resetNv u.nv, pwr := resetPwr true t t mv u.pwr, jtag := u.jtag, enc := { u.enc with armed := [], fired := [] }, pcl := { u.pcl with locks := [], ckptAt := t, mapsSince := 0, planMap := none }, tomo := { ring := u.tomo.ring }, reco := { ring := u.reco.ring, rollAt := t }, loop := { loadAt := t, rings := u.loop.rings }, vdrv := { tickAt := t }, thm := { lastDemand := t }, aer := u.aer, net := { links := u.net.links.map fun l => { images := l.images } }, cmd := { arpAt := t, nextSid := u.cmd.nextSid }, sys := { coldStart := u.sys.coldStart } }

/-- What every reset ends with: its cause, the outcome of the last save, and what the banks hold. -/
def resetShow (cause arg out ms : Nat) (based : Bool) : Op Unit := do
  sf F.PWR_RSTCAUSE_CAUSE cause
  sf F.PWR_RSTCAUSE_RAIL arg
  sf F.PWR_LASTSAVE_OUT out
  sf F.PWR_LASTSAVE_T ms
  sb F.PWR_STAT_QBASED based
  let u ← units
  sb F.RNG_STAT_HEAD u.pwr.headLow
  sb F.CLK_STAT_REFSEL u.pwr.refHigh
  bootShow
  ledgerCounts

/-- A cold reset (R609). -/
def resetCold (cause arg : Nat) (powerOn vbus : Bool) : Op Unit := do
  let _ ← journalStep
  let u ← units
  let based ← bf F.PWR_STAT_QBASED
  let v ← gf F.PWR_HUV_V
  resetRegs (keepCold powerOn)
  modU (coldUnits powerOn vbus (v * 10))
  resetShow cause arg u.pwr.saveOut u.pwr.saveMs (based && vbus)

/-- The mains cycles after a warm reset that ended a free run with the period `per` in 10 ns: the loss test of R72 counts on from the last
increment, which is no edge, so no cycle is counted twice (DESIGN CHOICE, assumption log 81). -/
def mainsAfter (per : Nat) (e : EncS) : EncS :=
  { e with mainsLast := e.freeNext - per * 10, mainsAny := false, mainsRealPrev := false }

/-- A warm reset (R609). -/
def resetWarm (cause : Nat) : Op Unit := do
  let _ ← journalStep
  let u ← units
  let fr ← bf F.ENC_MSTAT_FREERUN
  let per ← gf F.ENC_MPER_MPER
  let based ← bf F.PWR_STAT_QBASED
  let v ← gf F.PWR_HUV_V
  resetRegs keepWarm
  modU (warmUnits u.elapsed (v * 10))
  onlyIf fr (modEnc (mainsAfter per))
  resetShow cause 0 0 0 based

/-- POWER_ON_RESET: VIN, in mV, rises past 7.8 V, or returns after a state save (R600, R609, R621). While a power loss stands, VBUS is
up: a save that runs goes on (R622), and after it a VIN of PWR_PFTHR + 0.5 V or more resets the module. -/
def opPowerOnReset (mv : Nat) : Op Unit := rated 70000 mv do
  let u ← units
  let thr ← pwrInForce F.PWR_PFTHR_THR
  let lost : Option PowerLoss := if u.pwr.stopped then none else u.pwr.loss.filter (·.confirmed)
  match lost with
  | none => onlyIf (decide (7800 < mv)) (resetCold rcPower 0 true false)
  | some l => onlyIf (l.done && decide (thr * 10 + 500 ≤ mv)) (resetCold rcSave 0 true true)

/-- RAIL_FAULT: a rail stayed outside its window for 10 µs (R602). -/
def opRailFault (rail : Nat) : Op Unit := onlyIf (decide (rail < 8)) (resetCold rcRail rail true (rail != 0))

/-- PLL_UNLOCK: a PLL stayed out of lock for 10 µs (R602). -/
def opPllUnlock (pll : Nat) : Op Unit := onlyIf (decide (pll < 6)) (resetCold rcPll pll true true)

/-- PLL_UNLOCK_SHORT: a PLL left lock for less than 10 µs (R624). -/
def opPllUnlockShort (pll : Nat) : Op Unit := onlyIf (decide (pll < 6)) (sb F.CLK_STAT_UNLOCK true)

/-- RESET_N_ASSERT: RESET_N is low for 10 µs or more (R609). The restore that follows takes the lead positions of its set (R202). -/
def opResetNAssert : Op Unit := do
  resetCold rcResetN 0 false true
  leadsDrop
  modPwr fun p => { p with resetNLow := true }
  modU fun u => { u with jtag := { u.jtag with drives := u.jtag.ir == 3 || u.jtag.ir == 4 } }

/-- RESET_N_RELEASE: start-up begins from BOOT (R346). -/
def opResetNRelease : Op Unit := do
  let t ← now
  modPwr fun p => { p with resetNLow := false }
  modU fun u => { u with jtag := { u.jtag with drives := false }, enc := { u.enc with mainsLast := t }, loop := { u.loop with loadAt := t } }

/-- MODULE_WATCHDOG_EXPIRY: SAFE_ALIVE did not advance for PWR_MWDT ms (R610). -/
def opModuleWatchdogExpiry : Op Unit := do
  let t ← now
  let u ← units
  let n ← pwrInForce F.PWR_MWDT_T
  onlyIf (u.sys.started && decide (u.pwr.aliveAt + max 200 n * 1000000 ≤ t)) (resetWarm rcWatchdog)

/-- COMMAND_RESET: 10 ms after the completion of RESET left (R406). -/
def opCommandReset : Op Unit := do
  let t ← now
  let u ← units
  match u.cmd.resetAt with
  | none => pure ()
  | some d => onlyIf (decide (d ≤ t)) (resetWarm rcCommand)

/-- CLUSTER_RESET: 10 ms after a frame with ORDER.RESET (R545). -/
def opClusterReset : Op Unit := do
  let t ← now
  let u ← units
  match u.rng.resetAt with
  | none => pure ()
  | some d => onlyIf (decide (d ≤ t)) (resetWarm rcCluster)

/-! ### Start-up (R346, R616) -/

/-- Whether BOOT can start firmware bank `b`: it is complete, and no read of it has failed (R25, R616). -/
def bankStarts (n : NvS) (b : Nat) : Bool := (n.fw.getD b {}).state == 1 && !n.fwBad.contains b

/-- The firmware bank that BOOT starts: the one in force when it can, else the other when that can. -/
def bootBank (n : NvS) : Option Nat :=
  if bankStarts n n.fwSel then some n.fwSel
  else if bankStarts n (1 - n.fwSel) then some (1 - n.fwSel)
  else none

/-- A key's check value, shown with LOADED (R375); the key slots come back from NV. -/
def keyShow (k : Nat) (kcv : Nat) (on : Bool) : Op Unit := do
  sf (F.SEC_SLOTSTAT_KCV k) kcv
  sb (F.SEC_SLOTSTAT_LOADED k) on

/-- Where the DRAM rings and tables stand: the spec gives no addresses. -/
def baseShow : Op Unit :=
  each (fun a => do let f ← free; wrN a (f % 2 ^ 32))
    [R.TOMO_RINGBASE, R.REC_MAPBASE, R.REC_JBASE, R.PCL_TBLBASE, R.PCL_LOTBASE, R.LOOP_TRCBASE]

/-- CORES_START: steps 3 and 4 of R346: the image of the bank that BOOT started runs on the six cores, saved registers return,
the links start on their preferred paths, the host port answers and the ring is enumerated. `kcv` is the check value of a key. -/
def coresStart (kcv : List Byte → Nat) : Op Unit := do
  let u ← units
  let t ← now
  cntSat F.BOOT_LAST_COUNT 1
  match bootBank u.nv with
  | none => pure ()
  | some bk => do
    sf F.SYS_CORESTAT_CORE_UP 0x3F
    sf F.SYS_FWVER_BANK u.nv.fwSel
    wrN R.SYS_FWVER (imageVersion (u.nv.fw.getD bk {}).data + 2 ^ 31 * u.nv.fwSel)
    sf F.BOOT_LAST_CAUSE (bit (bk != u.nv.fwSel))
    bootShow
    restoreRegs
    baseShow
    modU fun u => { u with cmd := { u.cmd with slots := u.nv.tables.keys.map (fun k => { key := k }), arpAt := t }, pwr := { u.pwr with aliveAt := t }, sys := { u.sys with started := true } }
    each (fun (x : Option (List Byte) × Nat) => keyShow x.2 (match x.1 with | none => 0 | some key => kcv key) x.1.isSome) u.nv.tables.keys.zipIdx
    sb F.SEC_STAT_BLANK (u.nv.tables.keys.all Option.isNone)
    let en ← pwrInForce F.PWR_HUCTL_EN
    onlyIf (en == 0) (sf F.PWR_STAT_HUSTATE 3)
    each linkReset (List.range 6)
    coilsStart
    let p ← gf (F.NET_LSTAT_ACTIVE 0)
    pathPower 0 p true
    modePower modeEnumerate
    entryActions modeEnumerate modeEnumerate

/-- Whether the six cores may start: nothing runs, and no reset, power loss or stop holds the module. -/
def startReady (u : Units) : Bool :=
  !u.sys.started && !u.pwr.resetNLow && !u.pwr.stopped && (match u.pwr.loss with | none => true | some l => !l.confirmed)

/-! ### The module watchdog and SAFE_ALIVE (R468, R610) -/

/-- SAFE_ALIVE_TICK: RT1 increments SAFE_ALIVE every 10 ms. -/
def opSafeAliveTick : Op Unit := do
  let t ← now
  let u ← units
  let up ← coreUp 5
  onlyIf (up && decide (u.pwr.aliveAt + 10000000 ≤ t)) do
    cntWrap F.SAFE_ALIVE_ALIVE 1
    modPwr fun p => { p with aliveAt := t }

/-! ### Clocks (R606 to R608, R624) -/

/-- Whether some domain of a list is on. -/
def anyOn : List Nat → Op Bool
  | [] => pure false
  | d :: l => do
    let a ← domainOn d
    let b ← anyOn l
    pure (a || b)

/-- The field input groups that converter `k` serves (R297). -/
def convGroups (k : Nat) : List Nat := ((convInputs k).map groupOf).eraseDups

/-- Whether clock domain `d` runs (R607). -/
def clockRuns (d : Nat) : Op Bool :=
  if 7 ≤ d ∧ d ≤ 22 then domainOn (56 + (d - 7))
  else if d = 39 ∨ d = 41 then anyOn (List.range 16)
  else if d = 40 ∨ d = 42 then anyOn ((List.range 16).map (· + 16))
  else if 43 ≤ d ∧ d ≤ 50 then anyOn ((convGroups (d - 43)).map (· + 32))
  else if d = 54 ∨ d = 55 then domainOn (128 + (d - 54))
  else if 56 ≤ d ∧ d ≤ 59 then bf (F.FLD_BCTL_EN (d - 56))
  else if d = 60 then domainOn 138
  else if d = 61 then domainOn 140
  else pure (decide (d < 64))

/-- The clock domains of a list that run, as bits from the list's first on. -/
def clockBits : List Nat → Op Nat
  | [] => pure 0
  | d :: l => do
    let r ← clockRuns d
    let n ← clockBits l
    pure (bit r + 2 * n)

/-- REFERENCE_LOSS (R608): the module stays on the internal oscillator until the next reset. -/
def opReferenceLoss : Op Unit := do
  let was ← bf F.CLK_STAT_REFLOST
  onlyIf (!was) do
    sb F.CLK_STAT_REFLOST true
    sb F.CLK_STAT_REFLOSS true
    cntSat F.CLK_LOSSCNT_CNT 1

/-- A write of CLK_MEASSEL: GO starts a measurement over 1 ms. -/
def clkWrite (base a : Nat) (new acts : Word) : Op Unit := do
  let t ← now
  wr a new
  onlyIf (base == R.CLK_MEASSEL && F.CLK_MEASSEL_GO.of acts == 1) (modPwr fun p => { p with measuring := some t })

/-- The frequency of a clock domain in kHz (R607). -/
def clockKhz (d : Nat) : Nat :=
  if d = 0 then 25000
  else if d ≤ 6 then 1500000
  else if d ≤ 22 then 1000000
  else if d = 23 then 400000
  else if d ≤ 25 then 200000
  else if d = 26 then 100000
  else if d = 27 then 250000
  else if d = 28 then 100000
  else if d ≤ 30 then 3200000
  else if d ≤ 32 then 800000
  else if d ≤ 34 then 400000
  else if d ≤ 38 then 1000000
  else if d ≤ 40 then 40960
  else if d ≤ 42 then 163840
  else if d ≤ 50 then 5120
  else if d ≤ 52 then 100000
  else if d ≤ 55 then 125000
  else if d ≤ 61 then 80000
  else if d = 62 then 96000
  else 500

/-- The PLL that a clock domain comes from; none for the two that come from the reference itself (R607). -/
def clockPll (d : Nat) : Option Nat :=
  if d = 0 ∨ 63 ≤ d then none
  else if d ≤ 6 ∨ d = 23 ∨ (35 ≤ d ∧ d ≤ 38) then some 0
  else if d ≤ 22 then some 1
  else if 29 ≤ d ∧ d ≤ 34 then some 2
  else if 39 ≤ d ∧ d ≤ 50 then some 3
  else if 53 ≤ d then some 4
  else some 5

/-- What a measurement of domain `d` can show of a count `freq` (R607, R624): the domain's frequency, with the last count either way, and
with the 1.5 % of the internal oscillator while the module runs from it. A domain whose PLL is not locked has no stated
frequency (DEDUCED, assumption log 112). -/
def clockCount (d freq : Nat) : Op Nat := do
  let lost ← bf F.CLK_STAT_REFLOST
  let lock ← gf F.CLK_STAT_LOCK
  let tol := 1 + (if lost then clockKhz d * 15 / 1000 else 0)
  let free := match clockPll d with
    | none => false
    | some p => !bitAt lock p
  pure (if free then freq else max (clockKhz d - tol) (min (clockKhz d + tol) freq))

/-- CLOCK_MEASURE_DONE: 1 ms after GO, with the frequency in kHz that was counted (R624). -/
def opClockMeasureDone (freq : Nat) : Op Unit := do
  let t ← now
  let u ← units
  let dom ← gf F.CLK_MEASSEL_DOM
  let runs ← clockRuns dom
  let n ← clockCount dom freq
  match u.pwr.measuring with
  | none => pure ()
  | some s => onlyIf (decide (s + 1000000 ≤ t)) do
    modPwr fun p => { p with measuring := none }
    sf F.CLK_MEAS_FREQ (if runs then n else 0)
    sb F.CLK_STAT_MEASDONE true

/-! ### The hold-up store (R617 to R620) -/

/-- The voltage estimate in mJ of a capacitance in 10 µF at a voltage in mV (R618). -/
def voltEnergy (cap mv : Nat) : Nat :=
  if mv < 10000 then 0 else fitU 16 (quot ((cap : Int) * ((mv : Int) * mv - 100000000)) 200000000)

/-- The charge estimate in mJ of a charge in nC in that capacitance (R618). -/
def chargeEnergy (cap q : Nat) : Nat := fitU 16 (quot (200000 * (cap : Int) * q + (q : Int) * q) (20000000000 * (cap : Int)))

/-- The governing estimate and its source (R619). -/
def governing (q mv ev eq tie : Nat) : Nat × Nat :=
  if q = 0 ∧ 10500 ≤ mv then (ev, 2) else if ev < eq then (ev, 1) else if eq < ev then (eq, 0) else (ev, tie % 2)

/-- The estimates as they stand (R618, R619). -/
def estimates (mv : Nat) : Op Unit := do
  let u ← units
  let cap ← pwrInForce F.PWR_HUCAP_CAP
  let full ← gf F.PWR_SAVEREQ_FULL
  let red ← gf F.PWR_SAVEREQ_RED
  let tie ← free
  let ev := voltEnergy cap mv
  let eq := chargeEnergy cap u.pwr.q
  let hq := fitU 16 (quot u.pwr.q 10000)
  let g := governing hq mv ev eq tie
  sf F.PWR_HUV_V (fitU 16 (quot mv 10))
  sf F.PWR_HUQ_Q hq
  sf F.PWR_HUE_EV ev
  sf F.PWR_HUE_EQ eq
  sf F.PWR_HUGOV_E g.1
  sf F.PWR_HUGOV_SRC g.2
  onlyIf (g.2 == 2) (sb F.PWR_STAT_VGOV true)
  sb F.PWR_STAT_HUREADY (decide (full ≤ g.1))
  sb F.PWR_STAT_HURED (decide (red ≤ g.1))

/-- The charge counter over one tick of 1 ms (R618): a charge runs at PWR_HUCTL.ICHG, `ichg` mA (R617), a discharge draws `ua` µA.
The counter is unknown until it is based; the charge of a charge under way is counted beside it (R620). -/
def chargeCount (based : Bool) (st mv ichg ua : Nat) (p : PwrS) : PwrS :=
  let q (n : Nat) : Nat := if based then n else p.q
  if mv < 10000 then p
  else if st = 0 then { p with q := q (p.q + ichg * 1000), counted := p.counted + ichg * 1000 }
  else if st = 2 then { p with q := q (p.q - ua) }
  else p

/-- HOLDUP_ESTIMATE_TICK: every 1 ms, with the store's voltage in mV and the current in µA that is drawn from it (R618). The charger
is off while RESET_N is low (R634). -/
def opHoldupEstimateTick (mv ua : Nat) : Op Unit := rated 40000 mv do
  let t ← now
  let u ← units
  let st ← gf F.PWR_STAT_HUSTATE
  let based ← bf F.PWR_STAT_QBASED
  let ichg ← pwrInForce F.PWR_HUCTL_ICHG
  onlyIf (decide (u.pwr.estAt + 1000000 ≤ t)) do
    modPwr fun p => { (if p.resetNLow then p else chargeCount based st mv ichg ua p) with estAt := t }
    estimates mv

/-- Whether a state save runs: from the confirmation of a power loss that chose a set to its seal (R621). -/
def PwrS.saving (p : PwrS) : Bool := p.loss.any fun l => l.confirmed && !l.done && l.set != 0

/-- HOLDUP_COMPARE: every 100 ms, but while a state save runs (R620). -/
def opHoldupCompare : Op Unit := do
  let t ← now
  let u ← units
  let based ← bf F.PWR_STAT_QBASED
  let ev ← gf F.PWR_HUE_EV
  let eq ← gf F.PWR_HUE_EQ
  onlyIf (based && !u.pwr.saving && decide (u.pwr.cmpDue ≤ t)) do
    modPwr fun p => { p with cmpDue := p.cmpDue + 100000000 * ((t - p.cmpDue) / 100000000 + 1) }
    onlyIf (decide (15 * max ev eq < 100 * (max ev eq - min ev eq))) do
      sb F.PWR_STAT_MISMATCH true
      cntSat F.PWR_MISCNT_CNT 1
      onlyIf (!u.pwr.misRaised) (raise Ev.holdupMismatch [])
      modPwr fun p => { p with rebasePending := true, misRaised := true }

/-- CHARGE_END: charging ends at the store voltage in mV at which it is held, 36.0 V ± 0.2 V (R617, R618, R620). -/
def opChargeEnd (mv : Nat) : Op Unit := do
  let u ← units
  let st ← gf F.PWR_STAT_HUSTATE
  let based ← bf F.PWR_STAT_QBASED
  let cap ← pwrInForce F.PWR_HUCAP_CAP
  let en ← pwrInForce F.PWR_HUCTL_EN
  let rise := mv - u.pwr.chargeFromMv
  onlyIf (st == 0 && en == 1 && !u.pwr.resetNLow && decide (35800 ≤ mv ∧ mv ≤ 36200)) do
    sf F.PWR_STAT_HUSTATE 1
    onlyIf (!based) do
      modPwr fun p => { p with q := cap * 260000 }
      sb F.PWR_STAT_QBASED true
    onlyIf u.pwr.rebasePending do
      modPwr fun p => { p with q := cap * (mv - 10000) * 10, rebasePending := false, misRaised := false }
      sb F.PWR_STAT_REBASE true
    onlyIf (decide (5000 ≤ rise)) (sf F.PWR_HUCMEAS_C (fitU 16 (quot u.pwr.counted (rise * 10))))

/-! ### Power loss (R621, R622) -/

/-- POWER_LOSS: VIN, in mV, falls below PWR_PFTHR. -/
def opPowerLoss (mv : Nat) : Op Unit := do
  let t ← now
  let u ← units
  let thr ← pwrInForce F.PWR_PFTHR_THR
  onlyIf (u.pwr.loss.isNone && decide (mv < thr * 10)) do
    modPwr fun p => { p with loss := some ⟨t, false, 0, false⟩ }

/-- Steps 2 and 3 of R621: the set is chosen, the commit stops, and every domain but 142 to 147 switches off. -/
def lossConfirm (l : PowerLoss) : Op Unit := do
  let u ← units
  let en ← pwrInForce F.PWR_HUCTL_EN
  let full ← bf F.PWR_STAT_HUREADY
  let red ← bf F.PWR_STAT_HURED
  let save := en == 1 && u.sys.started
  let set := if save then (if full then 1 else if red then 2 else 0) else 0
  onlyIf (en == 1) (sf F.PWR_STAT_HUSTATE 2)
  commitCut
  modNv fun n => { n with queued := [] }
  frameAbandon
  onlyIf (set != 0) (modNv NvS.openState)
  onlyIf u.reco.hand.isSome handStop
  modPwr fun p => { p with loss := some { l with confirmed := true, set := set, done := set == 0 }, saveOut := if save then (if set = 0 then 3 else 4) else 5, saveMs := 0 }
  each (valvePower false) (List.range 32)
  each (fanPower false) (List.range 8)
  each (fun g => do
    let on ← domainOn (32 + g)
    onlyIf on (groupOff g)) (List.range 24)
  each (fun d => domainSwitch d false) (List.range 142)
  fieldPower

/-- POWER_LOSS_CONFIRM: 20 µs later, with VIN in mV. -/
def opPowerLossConfirm (mv : Nat) : Op Unit := do
  let t ← now
  let u ← units
  let thr ← pwrInForce F.PWR_PFTHR_THR
  match u.pwr.loss with
  | none => pure ()
  | some l =>
    if l.confirmed = true ∨ t < l.since + 20000 then pure ()
    else do
      if thr * 10 ≤ mv then do
        sb F.PWR_STAT_PFDIP true
        modPwr fun p => { p with loss := none }
      else lossConfirm l

/-- How long the save has taken, in ms. -/
def saveTime (t since : Nat) : Nat := min 0xFFFF (quot ((t - since : Nat) : Int) 1000000).toNat

/-- What the save writes (R202, R621): the rolling state, the field results and the lead positions, and for the full set the
Ledger's tables; a rolling state or a Ledger that start-up has not restored yet stays as NV holds it. -/
def saveWrite (set : Nat) : Op Unit := do
  let u ← units
  let l ← ledgerNow
  let r ← rollNow
  let a ← affNow
  let live := !u.sys.coldStart
  modNv fun n => n.save fun x =>
    { roll := if u.sys.restored then some r else x.roll, affRegs := a, ledger := if live && set == 1 then some l else x.ledger,
      lossLeads := if live then some l.leads else x.lossLeads }

/-- STATE_SAVE_SEALED: the set is sealed with its outcome. -/
def opStateSaveSealed : Op Unit := do
  let t ← now
  let u ← units
  match u.pwr.loss with
  | none => pure ()
  | some l => onlyIf (l.confirmed && !l.done && l.set != 0) do
    saveWrite l.set
    modPwr fun p => { p with loss := some { l with done := true }, saveOut := l.set, saveMs := saveTime t l.since }

/-- The module stops for lack of supply. -/
def moduleStop : Op Unit := do
  let t ← now
  each (fun d => domainSwitch d false) (List.range 148)
  sb F.PWR_STAT_QBASED false
  modPwr fun p =>
    { p with q := 0, stopped := true, saveMs := (match p.loss with | none => p.saveMs | some l => if l.done then p.saveMs else saveTime t l.since) }

/-- HOLDUP_EMPTY: the store reaches its empty level in a power loss (R621, R622). -/
def opHoldupEmpty : Op Unit := do
  let u ← units
  match u.pwr.loss with
  | none => pure ()
  | some l => onlyIf l.confirmed moduleStop

/-- VIN_BELOW_STOP: with the store disabled VIN, in mV, falls below 7.0 V (R600). -/
def opVinBelowStop (mv : Nat) : Op Unit := do
  let en ← pwrInForce F.PWR_HUCTL_EN
  onlyIf (en == 0 && decide (mv < 7000)) moduleStop

/-- A write of a PWR register that is committed (R623). -/
def pwrWrite (a : Nat) (new : Word) : Op Unit := do
  wr a new
  commitAddrs [a]

end Sys2Proof.Machine
end

