-- ==== Sys2Proof/Machine/Session.lean ====
section
/-!
DEFINITION. Machine/Session.lean: the host link and the session records (R354 to R373): address resolution, discards, openings and
closings, and the key store (R374 to R378), with the writes of the CMD and SEC units (R396, R397).
-/
namespace Sys2Proof.Machine

/-- Changes the command layer. -/
def modCmd (f : CmdS → CmdS) : Op Unit := modU fun u => { u with cmd := f u.cmd }

/-! ### The host link (R354 to R358) -/

/-- A datagram or frame is discarded (R356, R360). -/
def dropFrame : Op Unit := do
  cntSat F.CMD_DROPCNT_CNT 1
  sb F.CMD_STAT_DROP true

/-- Whether the active host port is powered (R505). -/
def portPowered : Op Bool := do
  let p ← gf (F.NET_LSTAT_ACTIVE 0)
  domainOn (128 + p)

/-- Runs `m` on a frame from the wire: in a switch-over gap it is lost and counted (R515). -/
def received (m : Op Unit) : Op Unit := do
  let on ← portPowered
  let k ← getLink 0
  if k.gap then cntSat (F.NET_LOSTCNT_CNT 0) 1 else onlyIf on m

/-- The next hops of the sessions, one of each (R357). -/
def hopsOf (l : List Session) : List Nat := (l.filterMap fun s => if s.st = .free then none else s.hop).eraseDups

/-- ARP_REQUEST: one for the module's own address is answered (R355). -/
def opArpRequest (ip mac : Nat) : Op Unit := received do
  let own ← rd R.CMD_IP
  let up ← portUp
  onlyIf (up && own.toNat == ip) (emit (.arpReply ip mac))

/-- ICMP_ECHO: an echo request to the module's address, from `ip` (R355); one with more data makes a frame longer than 1,518
bytes (R356). -/
def opIcmpEcho (ip : Nat) (data : List Byte) : Op Unit := received do
  let en ← bf F.CMD_CTL_ECHO
  let ok ← canSend ip
  if 1472 < data.length then dropFrame else onlyIf (en && ok) (emit (.icmpReply ip data))

/-- Resolves the next hop of an address (R357): a request is sent where there is one. -/
def resolve (ip : Nat) : Op (Option Nat) := do
  let hop ← nextHop ip
  let up ← portUp
  match hop with
  | none => pure ()
  | some h => onlyIf up (emit (.arpRequest h))
  pure hop

/-- ARP_REFRESH: every 60 s the next hops are resolved again (R357). -/
def opArpRefresh : Op Unit := do
  let t ← now
  let u ← units
  let up ← portUp
  onlyIf (decide (u.cmd.arpAt + 60000000000 ≤ t)) do
    modCmd fun c => { c with arpAt := t }
    onlyIf up (each (fun h => emit (.arpRequest h)) (hopsOf u.cmd.sessions))

/-- ARP_REPLY: the answer to a resolution takes the place of the entry held (R357). -/
def opArpReply (ip mac : Nat) : Op Unit := received do
  let u ← units
  onlyIf (decide (ip ∈ hopsOf u.cmd.sessions)) do
    modCmd fun c => { c with arp := (ip, mac) :: c.arp.filter (fun x => x.1 ≠ ip) }
    copyWrite 0 (.hop ip) mac

/-- The check of R361: a host sequence number against H. -/
def seqOk (h seq : Nat) : Bool := laterThan seq h

/-- A packet that names session record `i`, by the tests of R360 that follow its session ID: the source, then the sequence
number. Answers whether it is taken (R361, R372). -/
def packetTaken (i ip port seq : Nat) : Op Bool := do
  let s ← getSess i
  let t ← now
  if s.ip ≠ ip ∨ s.port ≠ port then do
    dropFrame
    sb F.CMD_STAT_SRCX true
    pure false
  else if s.st = .pending then pure true
  else if seqOk s.h seq then do
    modSess i fun s => { s with h := seq % 2 ^ 32, lastTaken := t }
    pure true
  else do
    dropFrame
    cntSat F.CMD_SEQCNT_CNT 1
    sb F.CMD_STAT_SEQX true
    pure false

/-- DATAGRAM_DISCARD: what R356, R360 and R361 discard. -/
def opDatagramDiscard (d : Discard) : Op Unit := received do
  match d with
  | .transport => dropFrame
  | .checksum d => onlyIf (!checksumsOk d) dropFrame
  | .form d => onlyIf (hostHead d).isNone dropFrame
  | .packet ip port sid seq => do
    let u ← units
    match findSess u.cmd.sessions sid with
    | none => dropFrame
    | some i => do
      let s := u.cmd.sessions.getD i {}
      onlyIf (s.ip != ip || s.port != port || (s.st == .opened && !seqOk s.h seq)) do
        let _ ← packetTaken i ip port seq

/-- A write of CMD_IPCTL: APPLY takes the staged values together, SAVE commits the values in force (R358). -/
def ipWrite (acts : Word) : Op Unit := do
  onlyIf (F.CMD_IPCTL_APPLY.of acts == 1) do
    let il ← gf F.CMD_STGIPL_IP
    let ih ← gf F.CMD_STGIPH_IP
    let gl ← gf F.CMD_STGGWL_GW
    let gh ← gf F.CMD_STGGWH_GW
    let p ← gf F.CMD_STGPFX_PFX
    wrN R.CMD_IP (ih * 65536 + il)
    wrN R.CMD_GW (gh * 65536 + gl)
    sf F.CMD_PFX_PFX (min 30 p)
    each (fun i => do
      let s ← getSess i
      onlyIf (s.st != .free) do
        let hop ← resolve s.ip
        modSess i fun s => { s with hop := hop }) sessIdx
    let up ← portUp
    onlyIf up drainAll
  onlyIf (F.CMD_IPCTL_SAVE.of acts == 1) (commitAddrs [R.CMD_IP, R.CMD_GW, R.CMD_PFX])

/-- A write of a CMD register. -/
def cmdWrite (base a : Nat) (new acts : Word) : Op Unit := do
  wr a new
  onlyIf (base == R.CMD_IPCTL) (ipWrite acts)

/-! ### Records (R363 to R373) -/

/-- Nobody: a session record that does not exist. -/
def nobody : Nat × Nat := (4, 0)

/-- Whom the steps under way serve: record and tag word of the commands that complete when one ends. -/
def servedBy (u : Units) : List (Nat × Nat) :=
  (u.sys.job.bind (·.serves)).toList ++ u.sys.asks.flatMap (·.serves.toList) ++ u.sys.holdServes ++ (u.nv.commit.bind (·.serves)).toList ++ u.thm.reads ++ u.rng.serves.toList ++
    (u.rng.rejoin.map (·.serves)).toList

/-- The steps under way serve whom `f` names in place of each command, or nobody. -/
def mapServes (f : Nat × Nat → Option (Nat × Nat)) : Op Unit :=
  modU fun u => { u with sys := { u.sys with job := u.sys.job.map (fun j => { j with serves := j.serves.bind f }), asks := u.sys.asks.map (fun a => { a with serves := a.serves.bind f }), holdServes := u.sys.holdServes.filterMap f }, nv := { u.nv with commit := u.nv.commit.map (fun c => { c with serves := c.serves.bind f }) }, thm := { u.thm with reads := u.thm.reads.filterMap f }, rng := { u.rng with serves := u.rng.serves.bind f, rejoin := u.rng.rejoin.map (fun r => { r with serves := (f r.serves).getD nobody }) } }

/-- Whoever a step served and is gone is served no more: what a restart completes (R32). -/
def dropServes (gone : Nat × Nat → Bool) : Op Unit := mapServes fun x => if gone x then none else some x

/-- A commit that still takes its data from a bulk transfer ends where the transfer stops, and the previous bank stays in force
(R373, R403, R615). -/
def commitStarve (gone : Nat × Nat → Bool) : Op Unit := do
  let u ← units
  match u.nv.commit with
  | none => pure ()
  | some c =>
    onlyIf (c.step == 3 && (match c.serves with | none => false | some x => gone x)) (commitFinish { c with serves := none } St.revoked)

/-- Session record `i` closes (R373). What a step under way serves for it runs to its end, where its completion is discarded and the
buffers of its datagram return (R562). -/
def closeRecord (i : Nat) : Op Unit := do
  commitStarve fun x => x.1 == i
  let u ← units
  let s ← getSess i
  let served := (servedBy u).filter fun x => x.1 == i
  let runsOn (t : OutTag) : Bool := !t.done && served.any fun x => tagOf x.2 == tagOf t.tagw
  mapServes fun x => if x.1 = i then ((s.tags.find? fun t => runsOn t && tagOf t.tagw == tagOf x.2).map fun t => (orphanRec, t.order)) else some x
  sessionClose runsOn i
  eventRoom

/-- The first record that is free (R363). -/
def freeRecord (l : List Session) : Option Nat := sessIdx.find? fun i => decide ((l.getD i {}).st = .free)

/-- The next session ID from `n` on: not 0x0000 and not in use (R364). -/
def nextId (l : List Session) : Nat → Nat → Nat
  | 0, n => n % 65536
  | k + 1, n =>
    if n % 65536 = 0 ∨ (findSess l (n % 65536)).isSome = true then nextId l k (n + 1) else n % 65536

/-- The grant of an opening (R371): 0 where no tag is left. -/
def grantOf (l : List Session) (want : Nat) : Nat :=
  min (max 1 want) (512 - ((l.filter fun s => s.st ≠ .free).map (·.grant)).sum)

/-- A record is taken for a host (R363 to R371): the record and its session ID. -/
def takeRecord (i ip port grant : Nat) (s : Session) : Op Nat := do
  let u ← units
  let t ← now
  let sid := nextId u.cmd.sessions 5 u.cmd.nextSid
  modCmd fun c => { c with nextSid := (sid + 1) % 65536 }
  let hop ← resolve ip
  modSess i fun _ => { s with sid := sid, ip := ip, port := port, hop := hop, grant := grant, pendingSince := t, lastTaken := t }
  copyWrite 0 (.txSeq i) s.txSeq
  pure sid

/-- PENDING_SESSION_EXPIRY: 1 s after the opening a record still pending is freed (R365). -/
def opPendingSessionExpiry (i : Nat) : Op Unit := do
  let t ← now
  let s ← getSess i
  onlyIf (s.st == .pending && decide (s.pendingSince + 1000000000 ≤ t)) (closeRecord i)

/-- SESSION_IDLE_EXPIRY: no packet for CMD_IDLET s; SESSION_END goes to the session that closes, whatever its mask, and to each
session that asked for it (R372, R394). -/
def opSessionIdleExpiry (i : Nat) : Op Unit := do
  let t ← now
  let s ← getSess i
  let n ← gf F.CMD_IDLET_T
  onlyIf (s.st == .opened && decide (s.lastTaken + max 1 n * 1000000000 ≤ t)) do
    modSess i fun s => { s with evMask := s.evMask ||| 8 }
    raise Ev.sessionEnd (leBytes 2 s.sid ++ zeros 2)
    closeRecord i

/-- HELD_COMPLETION_EXPIRY: 100 ms after a completion was sent its copy is released (R382). -/
def opHeldCompletionExpiry (i tag : Nat) : Op Unit := do
  let t ← now
  let s ← getSess i
  let old (h : Held) : Bool := decide (h.tag = tag ∧ h.since + 100000000 ≤ t)
  giveHeld (s.held.filter old)
  modSess i fun s => { s with held := s.held.filter fun h => !old h }

/-- REPLY_AGE_EXPIRY: frames that have waited 100 ms in a reply queue are discarded (R568), with the tags of completions among them,
and so are the frames of session 0x0000. -/
def opReplyAgeExpiry (i : Nat) : Op Unit := do
  let t ← now
  let s ← getSess i
  let u ← units
  let old (q : QFrame) : Bool := decide (q.since + 100000000 ≤ t)
  let gone := s.queue.filter old ++ u.cmd.outq.filter old
  onlyIf (!gone.isEmpty) do
    each (fun (q : QFrame) => poolGive q.bufs) gone
    each (fun (o : OutTag) => poolGive o.reserve) (s.tags.filter fun o => gone.any fun q => q.tag == some o.tagw)
    modSess i fun s => { s with queue := s.queue.filter (fun q => !old q), tags := s.tags.filter fun o => !(gone.any fun q => q.tag == some o.tagw) }
    modCmd fun c => { c with outq := c.outq.filter fun q => !old q }
    cntSat F.POOL_AGECNT_CNT gone.length
    sb F.POOL_STAT_AGED true
    eventRoom

/-! ### Keys (R374 to R378) -/

/-- Changes key slot `k`. -/
def modKeySlot (k : Nat) (f : KeySlot → KeySlot) : Op Unit := modCmd fun c => { c with slots := updAt c.slots k f }

/-- Failures of a slot within the last 60 s (R374). -/
def failsOf (t : Nat) (k : KeySlot) : List Nat := k.fails.filter fun x => t < x + 60000000000

/-- A proof failed on slot `k` (R374). -/
def proofFails (k : Nat) : Op Unit := do
  let t ← now
  let n ← gf F.SEC_LOCKT_T
  modKeySlot k fun s => { s with fails := failsOf t s ++ [t] }
  cntSat F.SEC_FAILCNT_CNT 1
  sb F.SEC_STAT_AUTHFAIL true
  let u ← units
  onlyIf (decide (8 ≤ (u.cmd.slots.getD k {}).fails.length)) do
    modKeySlot k fun s => { s with lockedUntil := some (t + max 1 n * 1000000000) }
    sb (F.SEC_SLOTSTAT_LOCKED k) true

/-- KEY_LOCKOUT_END: SEC_LOCKT s after slot `k` was locked out (R374). -/
def opKeyLockoutEnd (k : Nat) : Op Unit := do
  let t ← now
  let u ← units
  match (u.cmd.slots.getD k {}).lockedUntil with
  | none => pure ()
  | some e => onlyIf (decide (k < 8 ∧ e ≤ t)) do
    modKeySlot k fun s => { s with lockedUntil := none }
    sb (F.SEC_SLOTSTAT_LOCKED k) false

/-- The key buffer is cleared (R376). -/
def keyBufClear : Op Unit := do
  modCmd fun c => { c with keyBuf := [], keyBufBy := none }
  sb F.SEC_STAT_KEYBUF false

/-- KEY_BUFFER_TIMEOUT: 10 s after the last write of the key buffer (R376). -/
def opKeyBufferTimeout : Op Unit := do
  let t ← now
  let u ← units
  let held ← bf F.SEC_STAT_KEYBUF
  onlyIf (held && decide (u.cmd.keyBufAt + 10000000000 ≤ t)) keyBufClear

/-- Whether a write to the key store is allowed: in SERVICE, from a session opened on a slot with KEYADMIN (R376). -/
def keyAllowed (src : Src) : Op Bool := do
  let u ← units
  let cur ← curMode
  let may : Bool := match src with
    | .host i => (u.cmd.sessions.getD i {}).st == .opened && (u.cmd.sessions.getD i {}).keyAdmin
    | _ => false
  pure (cur == modeService && may)

/-- The key that the buffer holds: word `w` holds bytes 2w and 2w + 1 (R375); a word never written is 0. -/
def bufferKey (b : List (Nat × Nat)) : List Byte :=
  (List.range 16).flatMap fun w => leBytes 2 (((b.find? (fun x => x.1 = w)).map (·.2)).getD 0)

/-- Slot `k` takes a key, or none, and what goes with it (R375, R377). -/
def keySet (k : Nat) (key : Option (List Byte)) : Op Unit := do
  modKeySlot k fun s => { s with key := key }
  keyShow k ((key.map kcvOf).getD 0) key.isSome
  keyBufClear
  let u ← units
  sb F.SEC_STAT_BLANK (u.cmd.slots.all fun s => s.key.isNone)
  commitKey k key true

/-- A write of SEC_KEYDATA: the bits its mask selects go to word WORD of the buffer (R375). -/
def keyData (i : Option Nat) (raw : Word) : Op Unit := do
  let t ← now
  let u ← units
  let w ← gf F.SEC_KEYIDX_WORD
  let inc ← bf F.SEC_KEYIDX_AINC
  let m := raw.toNat / 65536
  let old := ((u.cmd.keyBuf.find? (fun x => x.1 = w)).map (·.2)).getD 0
  let v := (old &&& (0xFFFF ^^^ m)) ||| (raw.toNat &&& m)
  modCmd fun c => { c with keyBuf := (w, v) :: c.keyBuf.filter (fun x => x.1 ≠ w), keyBufBy := i, keyBufAt := t }
  sb F.SEC_STAT_KEYBUF true
  onlyIf inc (sf F.SEC_KEYIDX_WORD (w + 1))

/-- The record a source stands for. -/
def recordOf : Src → Option Nat
  | .host i => some i
  | _ => none

/-- A write of a SEC register that R376 allows; `raw` is the word as written, with its mask. -/
def secWrite (src : Src) (base a : Nat) (new acts raw : Word) : Op Unit := do
  let k ← gf F.SEC_KEYIDX_SLOT
  let u ← units
  if base = R.SEC_KEYDATA then keyData (recordOf src) raw
  else if base = R.SEC_KEYCMD then do
    onlyIf (F.SEC_KEYCMD_LOAD.of acts == 1) (keySet k (some (bufferKey u.cmd.keyBuf)))
    onlyIf (F.SEC_KEYCMD_ERASE.of acts == 1) (keySet k none)
  else do
    wr a new
    let s := (a - R.SEC_SLOT 0) / 4
    onlyIf (base == R.SEC_SLOT 0) (commitKey s (u.cmd.slots.getD s {}).key false)

/-- Whether R376 guards the register of a row. -/
def keyGuarded (base : Nat) : Bool :=
  base == R.SEC_KEYIDX || base == R.SEC_KEYDATA || base == R.SEC_KEYCMD || base == R.SEC_SLOT 0

/-! ### Register reads -/

/-- The value of a CMD or SEC register that shows the session layer; other registers as held. -/
def cmdRead (base i a : Nat) : Op Word := do
  let u ← units
  let t ← now
  let w ← rd a
  let s := u.cmd.sessions.getD i {}
  let stw := match s.st with | .free => 0 | .pending => 1 | .opened => 2
  let n : Nat :=
    if base = R.CMD_INFLIGHT then inflight u
    else if base = R.CMD_SSTATE 0 then s.sid * 65536 + stw * 16384 + bit s.observer * 8192 + s.slot % 8 * 1024 + min 1023 s.tags.length
    else if base = R.CMD_SADDR 0 then s.ip
    else if base = R.CMD_SPORT 0 then s.port
    else if base = R.CMD_SGRANT 0 then s.grant
    else if base = R.CMD_SRXSEQ 0 then s.h
    else if base = R.CMD_STXSEQ 0 then s.sent
    else if base = R.CMD_SEVMASKL 0 then s.evMask % 2 ^ 32
    else if base = R.CMD_SEVMASKH 0 then s.evMask / 2 ^ 32
    else if base = R.SEC_SLOTSTAT 0 then w.toNat - w.toNat % 16 + min 15 (failsOf t (u.cmd.slots.getD i {})).length
    else w.toNat
  pure (BitVec.ofNat 32 n)

end Sys2Proof.Machine
end

