-- ==== Sys2Proof/Machine/Uart.lean ====
section
/-!
DEFINITION. Machine/Uart.lean: the receiver of the service port (R590, R591): what it makes of the samples of its line.
-/
namespace Sys2Proof.Machine

/-- What a sample brings: nothing, a start bit, a byte, or a stop bit that is low. A start bit tells whether the line was idle for a bit time
before it (R592). -/
inductive RxEvent where
  | nothing
  | start (idle : Bool)
  | byte (b : Byte)
  | framing
deriving DecidableEq, Repr

/-- The byte of eight data bits, the least significant first. -/
def bitsByte (l : List Bool) : Byte := BitVec.ofNat 8 (l.foldr (fun b a => bit b + 2 * a) 0)

/-- A start bit is detected: its sample is sample 0. -/
def rxStart (idle : Nat) : UartRx × RxEvent := ({ n := some 0, bits := [], armed := true, idle := 0 }, .start (decide (16 ≤ idle)))

/-- One sample of the line (R590, R591). A data bit and the stop bit are taken at their sample 8, and from sample 9 of a stop bit on a low
sample starts the next byte. After a stop bit sampled low, the first high sample arms start detection. -/
def rxStep (r : UartRx) (level : Bool) : UartRx × RxEvent :=
  match r.n with
  | none =>
    if level then ({ r with armed := true, idle := r.idle + 1 }, .nothing)
    else if r.armed then rxStart r.idle
    else ({ r with idle := 0 }, .nothing)
  | some k =>
    if k + 1 < 152 then ({ r with n := some (k + 1), bits := if k + 1 < 16 ∨ (k + 1) % 16 ≠ 8 then r.bits else r.bits ++ [level] }, .nothing)
    else if k + 1 = 152 then (if level then ({ r with n := some 152, bits := [] }, .byte (bitsByte r.bits)) else ({ n := none, bits := [], armed := false, idle := 0 }, .framing))
    else if !level then rxStart 0
    else ({ r with n := if k + 1 < 159 then some (k + 1) else none }, .nothing)

/-- The samples of a stretch of line: the receiver after them, and what they bring, each with the number of samples that follow it. -/
def rxRun (r : UartRx) : List Bool → UartRx × List (RxEvent × Nat)
  | [] => (r, [])
  | x :: l =>
    let a := rxStep r x
    let b := rxRun a.1 l
    (b.1, if a.2 = .nothing then b.2 else (a.2, l.length) :: b.2)

/-- The length of a request by its OP: 7 bytes of a read, 11 of a write (R593). -/
def requestLen (op : Nat) : Nat := if op = 1 then 7 else 11

end Sys2Proof.Machine
end

