-- ==== Sys2Proof/Machine/Fabric.lean ====
section
/-!
DEFINITION. Machine/Fabric.lean: the register fabric (R35 to R38, R448 to R458): every read and write of a register, the pool
registers (R573, R574, R577), the SAFE unit (R463 to R469), configuration parity (R460 to R463), and the supervisor SPI port
(R471 to R474).
-/
namespace Sys2Proof.Machine

/-! ### Addresses -/

/-- Whether an address lies in SAFE or BOOT. -/
def privileged (a : Nat) : Bool := decide (0x140000 ≤ a ∧ a < 0x160000)

/-- The register an address reaches: SAFE and BOOT decode bits 5:2 and no more of their windows (R464). -/
def aliasOf (a : Nat) : Nat := if privileged a then a / 0x10000 * 0x10000 + a % 0x40 else a

/-- Whether a register's domain is on (R36). -/
def regPowered (r : RegRow) (a : Nat) : Op Bool :=
  match regDomain r a with
  | none => pure true
  | some d => domainOn d

/-! ### POOL (R573, R574, R577) -/

/-- Whether a tag is that of a register command at work. -/
def registerTag (t : OutTag) : Bool := t.started && t.opcode / 256 == 2

/-- POOL_STAT.QUIET (R573). -/
def poolQuiet : Op Bool := do
  let u ← units
  let b ← blockOp
  let buses := (List.range 4).any fun i => (F.FLD_BCTL_EN i).of (b.regs.get (R.FLD_BCTL i)) != 0
  let ring ← anyOn [138, 139, 140, 141]
  pure (!buses && !ring && u.cmd.outq.isEmpty && u.cmd.sessions.all fun s => s.bulk.isEmpty && s.queue.isEmpty && s.tags.all registerTag)

/-- The pools take the sizes and entitlements of their registers while QUIET is 1 (R574). -/
def poolSync : Op Unit := do
  let q ← poolQuiet
  onlyIf q do
    let b ← blockOp
    modU fun u => { u with pool := { u.pool with priv := (List.range 5).map (fun k => (F.POOL_PRIV_SIZE k).of (b.regs.get (R.POOL_PRIV k))), tent := (List.range 5).map (fun k => (F.POOL_TENT_N k).of (b.regs.get (R.POOL_TENT k))) } }

/-- A write of POOL_PRIV or POOL_TENT: undefined while QUIET is 0 (R572, R576). -/
def poolWrite (base a : Nat) (new : Word) : Op Unit := do
  let q ← poolQuiet
  let b ← blockOp
  let sizes := (List.range 5).map fun k => if R.POOL_PRIV k = a then (F.POOL_PRIV_SIZE k).of new else (F.POOL_PRIV_SIZE k).of (b.regs.get (R.POOL_PRIV k))
  if q = false then stopOp .poolNotQuiet
  else if base = R.POOL_PRIV 0 ∧ 1182 < sizes.sum then sb F.POOL_STAT_CFGREJ true
  else do
    wr a new
    poolSync

/-! ### SAFE (R467 to R469) -/

/-- SAFE_STATE.SUPER follows HOLDREQ and LAPSED, and its rise asserts cause SUPER, which enters HOLD even where the request is gone by
then (R335). -/
def safeSuper : Op Unit := do
  let r ← bf F.SAFE_CTL_HOLDREQ
  let l ← bf F.SAFE_STATE_LAPSED
  let was ← bf F.SAFE_STATE_SUPER
  let on := r || l
  sb F.SAFE_STATE_SUPER on
  onlyIf (on && !was) (assertCause 5)

/-- A write of the supervisor to a SAFE control register. -/
def safeWrite (base a : Nat) (new : Word) : Op Unit := do
  let t ← now
  let en ← bf F.SAFE_CTL_HBEN
  wr a new
  if base = R.SAFE_CTL then do
    onlyIf (!en && F.SAFE_CTL_HBEN.of new == 1) (modU fun u => { u with safe := { hbAt := t } })
    safeSuper
  else onlyIf (base == R.SAFE_HB) do
    cntWrap F.SAFE_HBCNT_CNT 1
    modU fun u => { u with safe := { hbAt := t } }
    sb F.SAFE_STATE_LAPSED false
    safeSuper

/-- HEARTBEAT_LAPSE: SAFE_HBPER ms without a heartbeat (R469). -/
def opHeartbeatLapse : Op Unit := do
  let t ← now
  let u ← units
  let en ← bf F.SAFE_CTL_HBEN
  let l ← bf F.SAFE_STATE_LAPSED
  let per ← gf F.SAFE_HBPER_PER
  onlyIf (en && !l && decide (u.safe.hbAt + max 1 per * 1000000 ≤ t)) do
    sb F.SAFE_STATE_LAPSED true
    sb F.SAFE_STAT_LAPSE true
    safeSuper

/-! ### Reads -/

/-- What register `i` of row `r`, at `a`, shows: registers that show a running value or another unit's data are computed. -/
def regView (r : RegRow) (i a : Nat) : Op Word := do
  let w ← rd a
  let t ← now
  let u ← units
  match a / 0x10000 with
  | 0x0 =>
    if r.base = R.SYS_FLOWCHK then do
      let f ← flowCheck
      pure (BitVec.ofNat 32 f)
    else pure w
  | 0x1 =>
    if r.base = R.PWR_VIN then do
      let f ← free
      pure (BitVec.ofNat 32 (f % 65536))
    else pure w
  | 0x2 =>
    if r.base = R.CLK_RUNL then do
      let n ← clockBits (List.range 32)
      pure (BitVec.ofNat 32 n)
    else if r.base = R.CLK_RUNH then do
      let n ← clockBits ((List.range 32).map (· + 32))
      pure (BitVec.ofNat 32 n)
    else pure w
  | 0x4 => cmdRead r.base i a
  | 0x5 => netRead r.base i a
  | 0x8 => tomoRead r.base a
  | 0x9 => aftRead r.base i a
  | 0xA => affRead r.base i a
  | 0xD => loopRead r.base i a
  | 0xE =>
    if r.base = R.VDRV_VCOIL 0 then do
      let f ← free
      pure ((F.VDRV_VCOIL_V i).put w (if (F.VDRV_VCOIL_UV i).of w = 1 then f % 650 else if (F.VDRV_VCOIL_OV i).of w = 1 then 6501 + f % 59035 else 600 + f % 6001))
    else pure w
  | 0x10 => encRead r.base i a
  | 0x11 =>
    if r.base = R.POOL_STAT then do
      let q ← poolQuiet
      poolSync
      pure (F.POOL_STAT_QUIET.put w (bit q))
    else pure w
  | 0x12 => cmdRead r.base i a
  | 0x13 =>
    pure (if r.base = R.SVC_STAT then F.SVC_STAT_BUSY.put w (bit (decide (t < u.svc.answering.getD 0))) else w)
  | 0x14 => if r.base = R.SAFE_VDFLT then rd R.VDRV_FLTMAP else if r.base = R.SAFE_FANFLT then rd R.FAN_FLTMAP else pure w
  | 0x15 => do
    if r.base = R.BOOT_JOURNAL then do
      let _ ← journalStep
      rd a
    else pure w
  | _ => pure w

/-- The RC fields of register `a` take their reset values (R12, R456). -/
def rcClear (r : RegRow) (a : Nat) : Op Unit := do
  let w ← rd a
  let rc := BitVec.ofNat 32 r.rc
  onlyIf (r.rc != 0) (wr a ((w &&& ~~~rc) ||| (regReset a &&& rc)))

/-- A read through the fabric: its status and value. `clears` says whether it clears RC fields (R455). -/
def fabricRead (clears : Bool) (addr : Nat) : Op (Nat × Word) := do
  let a := aliasOf addr
  match rowOf a with
  | none => pure (if privileged addr then St.ok else St.addrUnmapped, 0)
  | some (r, i) => do
    let on ← regPowered r a
    if on then do
      let w ← regView r i a
      onlyIf clears (rcClear r a)
      pure (St.ok, w)
    else pure (St.domainOff, 0)

/-! ### Writes -/

/-- The word of a register after a masked write: bits of RW fields that the mask selects change, and a field of which the table
says so keeps its value where the write would make it 0b11 (R449, R451). -/
def mergeWord (r : RegRow) (old word : Word) : Word :=
  let sel := BitVec.ofNat 32 (word.toNat / 65536 &&& r.rw)
  let n := (old &&& ~~~sel) ||| (word &&& sel)
  r.noThree.foldl (fun n lo =>
    if bits n.toNat (lo + 1) lo = 3 then (RF.mk 0 (lo + 1) lo).put n (bits old.toNat (lo + 1) lo) else n) n

/-- SVC_CTL.EN is 0: the receiver drops what it was receiving, and SVC_TX goes high (R599). -/
def svcOff : Op Unit := do
  let t ← now
  let u ← units
  onlyIf (decide (t < u.svc.answering.getD 0)) (emit .uartCut)
  modU fun u => { u with svc := { div := u.svc.div } }

/-- What a write of SYS_CALCTL, SYS_MODEREQ, THM_CTL, THM_SENSEN, SVC_CTL or NET_LCTL starts, beside its fields. -/
def miscWrite (src : Src) (base a : Nat) (new acts : Word) : Op Unit := do
  wr a new
  onlyIf (base == R.SYS_CALCTL) frameModeCheck
  onlyIf (base == R.SYS_MODEREQ && F.SYS_MODEREQ_GO.of acts == 1) (modeAsk (F.SYS_MODEREQ_TARGET.of new) src none)
  onlyIf (base == R.THM_CTL && F.THM_CTL_DEMAND.of acts == 1) thermalDemand
  onlyIf (base == R.NET_LCTL 0) (commitAddrs [a])
  onlyIf (base == R.THM_SENSEN) (sensorsOff (F.THM_SENSEN_EN.of new))
  onlyIf (base == R.SVC_CTL && F.SVC_CTL_EN.of new == 0) svcOff

/-- Whether a PWR register is committed at each write (R623). -/
def pwrCommitted (base : Nat) : Bool :=
  base == R.PWR_HUCTL || base == R.PWR_HUCAP || base == R.PWR_PFTHR || base == R.PWR_MWDT

/-- A write reaches its unit: `new` is the register's word after it, `acts` the action bits written 1, `raw` the word written. -/
def unitWrite (src : Src) (base i a : Nat) (new acts raw : Word) : Op Unit :=
  match a / 0x10000 with
  | 0x1 => if pwrCommitted base then pwrWrite a new else wr a new
  | 0x2 => clkWrite base a new acts
  | 0x4 => cmdWrite base a new acts
  | 0x6 => fldWrite base i a new acts
  | 0x7 => ringWrite base a new acts
  | 0x8 => frontWrite base a new acts
  | 0x9 => aftWrite base i a new
  | 0xA => affWrite base i a new acts raw
  | 0xB => recWrite base a new
  | 0xD => loopWrite base i a new acts raw
  | 0xE => vdrvWrite base i a new acts raw
  | 0xF => fanWrite base i a new acts
  | 0x10 => encWrite src base i a new acts
  | 0x11 => poolWrite base a new
  | 0x12 => secWrite src base a new acts raw
  | 0x14 => safeWrite base a new
  | _ => miscWrite src base a new acts

/-- A write of a control register (R448 to R454): nothing for a mask of 0, undefined where a selected KP bit changes. -/
def maskedWrite (src : Src) (r : RegRow) (i a : Nat) (word : Word) : Op Unit := do
  let old ← regView r i a
  let m := word.toNat / 65536
  if m = 0 then pure ()
  else if (word.toNat ^^^ old.toNat) &&& m &&& r.kp ≠ 0 then stopOp .keepBitChanged
  else do
    modUpset fun l => l.filter (· ≠ a)
    unitWrite src r.base i a (mergeWord r old word) (BitVec.ofNat 32 (word.toNat &&& m &&& r.wo)) word

/-- Whether a source may write an address of SAFE or BOOT at all: the supervisor, in SAFE (R467). -/
def mayWritePrivileged (src : Src) (addr : Nat) : Bool := src == .supervisor && addr / 0x10000 == 0x14

/-- A write through the fabric: its status (R35, R36, R376, R450, R465, R467). -/
def fabricWrite (src : Src) (addr : Nat) (word : Word) : Op Nat := do
  let a := aliasOf addr
  if privileged addr && !mayWritePrivileged src addr then pure St.denied
  else
    match rowOf a with
    | none => pure (if privileged addr then St.ok else St.addrUnmapped)
    | some (r, i) => do
      let on ← regPowered r a
      let may ← keyAllowed src
      if !on then pure St.domainOff
      else if keyGuarded r.base && !may then pure St.denied
      else do
        onlyIf r.mask (maskedWrite src r i a word)
        pure St.ok

/-- A write through the fabric whose status nobody waits for. -/
def opWrite (src : Src) (addr : Nat) (word : Word) : Op Unit := do
  let _ ← fabricWrite src addr word

/-! ### Configuration parity (R460 to R463, R605) -/

/-- A coefficient register of slot `n` is repaired: the slot takes its reset value, which for LOOP_MTHR does not set COEFX (R222), and
goes to manual at its present output, whatever its mode (R224, R462). -/
def repairCoef (n k a : Nat) (v : Word) : Op Unit := do
  wr a v
  coefEnter (k != 12) n k
  let out ← gf (F.LOOP_OUT_OUT n)
  slotToManual n out

/-- The registers whose repair the unit follows as it follows a write of the same value. -/
def repairFollows : List Nat :=
  [R.ENC_LCTL 0, R.ENC_REVLIM 0, R.ENC_MCTL, R.ENC_ACTL 0, R.ENC_ACMP0 0, R.ENC_ACMP1 0, R.ENC_ACMP2 0, R.VDRV_CTL, R.VDRV_PROF 0, R.VDRV_RCOLD 0,
   R.FAN_CTL, R.LOOP_INJCTL 0, R.LOOP_TRCCTL, R.TOMO_CTL, R.TOMO_FPER, R.FLD_BCTL 0, R.FLD_TXCFG 0, R.FLD_RXCFG 0, R.AFF_CTL, R.AFF_ICFG 0,
   R.REC_CTL, R.SYS_CALCTL]

/-- The unit follows the repair of register `i` of row `r`, which takes `v`. -/
def repairUnit (r : RegRow) (i a : Nat) (v : Word) : Op Unit := do
  onlyIf (a / 0x10000 == 0xA) fieldLatchDue
  onlyIf (a / 0x10000 == 8) sweepLatchDue
  onlyIf (r.base == R.VDRV_SET 0 || r.base == R.VDRV_CMD 0) (valveNote i 0 false)
  onlyIf (r.base == R.FAN_SET 0) (fanNote i 0)
  if r.base ∈ coefRegs 0 then repairCoef i ((coefRegs 0).idxOf r.base) a v
  else if r.base = R.ENC_CALI 0 ∨ r.base = R.ENC_CALF 0 then do
    wr (R.ENC_CALI i) 0
    wr (R.ENC_CALF i) 0
  else if r.base ∈ repairFollows then unitWrite .engine r.base i a v 0 0
  else if r.base = R.VDRV_PAIR then do
    let old ← rd a
    wr a v
    each (pairShow v.toNat) ((List.range 16).filter fun p => old.toNat.testBit p != v.toNat.testBit p)
  else pure ()
  wr a v
  onlyIf (r.base == R.LOOP_CTL 0) (slotRepairOff i)
  onlyIf (r.base == R.THM_SENSEN) (sensorsOff (F.THM_SENSEN_EN.of v))
  onlyIf (a / 0x10000 == 6) (each txWorstAll (List.range 4))

/-- A mismatch of register `a`, with its row and index, is found and repaired (R462, R463, R605). -/
def repairRow (r : RegRow) (i a : Nat) : Op Unit := do
  let u ← units
  let n := a / 0x10000
  repairUnit r i a (repairValue u r a)
  repairTell n
  onlyIf (n == 0x14) do
    sb F.SAFE_CTL_HOLDREQ true
    safeSuper

/-- Whether an address is a control register's (R448): it holds a hidden parity bit. -/
def isControl (a : Nat) : Bool :=
  match rowOf a with
  | none => false
  | some (r, _) => r.mask

/-- A mismatch of one control register; other addresses hold no parity bit (R460). -/
def parityRepair (a : Nat) : Op Unit :=
  match rowOf a with
  | none => pure ()
  | some (r, i) => onlyIf r.mask (repairRow r i a)

/-- PARITY_SCRUB: the scrubber checks every control register and repairs those whose parity does not match; a write since the
error has mended it, whoever wrote (R460, R461). `upset` are the registers in which a bit changes after their check: the next pass
finds them (assumption log 71). -/
def opParityScrub (upset : List Nat) : Op Unit := do
  let b ← blockOp
  each parityRepair b.upset
  modUpset fun _ => upset.filter isControl

/-! ### The supervisor SPI port (R471 to R474) -/

/-- A transaction failed (R473). -/
def spiFail : Op Unit := do
  sb F.SAFE_STAT_SPIERR true
  cntSat F.SAFE_SPIERRCNT_CNT 1

/-- A write transaction: the access is made after byte 5, when the check byte and the command pass. -/
def spiWriteXfer (mosi : List Byte) (cut : Bool) : Op Unit := do
  let c := (mosi.getD 0 0).toNat
  let w := BitVec.ofNat 32 (beNat (slice mosi 1 4))
  let ok := !cut && mosi.length == 7 && crc8 (mosi.take 5) == (mosi.getD 5 0).toNat && bits c 6 6 == 0 && bits c 1 0 == 0
  if ok then opWrite .supervisor (0x140000 + bits c 5 0) w else spiFail
  emit (.spi ((zeros 6 ++ [if ok then 0xA5 else 0x5A]).take mosi.length))

/-- A read transaction: the register is taken, and its RC fields clear, at the end of byte 1. -/
def spiReadXfer (mosi : List Byte) (cut : Bool) : Op Unit := do
  let c := mosi.getD 0 0
  if 2 ≤ mosi.length then do
    let v ← fabricRead true (0x140000 + bits c.toNat 5 2 * 4)
    let d := beBytes 4 v.2.toNat
    emit (.spi ((zeros 2 ++ d ++ [BitVec.ofNat 8 (crc8 (c :: d))]).take mosi.length))
  else emit (.spi ((zeros 2).take mosi.length))
  onlyIf (cut || mosi.length != 7) spiFail

/-- A transaction: the bytes on SUP_MOSI, whether SUP_CS_N rose before the 56th cycle, and how long it was high before, in ns
(less than 200 is undefined, R576). -/
def opSpi (mosi : List Byte) (cut : Bool) (gap : Nat) : Op Unit :=
  if gap < 200 then stopOp .spiGap
  else if (mosi.getD 0 0).toNat.testBit 7 then spiWriteXfer mosi cut else spiReadXfer mosi cut

/-! ### The service port (R590 to R595) -/

/-- A request of the service port is discarded (R594). -/
def svcDiscard (f : RF) : Op Unit := do
  sb f true
  cntSat F.SVC_ERRCNT_CNT 1

/-- The answer of the service port leaves: eight bytes of ten bits, at the rate in force (R590, R592, R593); with EN 0 SVC_TX stays high
(R599). -/
def svcAnswer (status : Nat) (w : Word) : Op Unit := do
  let t ← now
  let u ← units
  let en ← bf F.SVC_CTL_EN
  let d := leBytes 2 status ++ leBytes 4 w.toNat
  onlyIf en do
    emit (.uart ([0xA5] ++ d ++ [BitVec.ofNat 8 (crc8 d)]))
    cntWrap F.SVC_RXCNT_CNT 1
    modU fun v => { v with svc := { v.svc with answering := some (t + 80 * max 32 u.svc.div * 1000 / 96) } }

/-- A write of the service port: only in SERVICE, and not in SAFE or BOOT (R595). -/
def svcStore (a : Nat) (w : Word) : Op Unit := do
  let cur ← curMode
  if a % 4 ≠ 0 then svcAnswer St.addrAlign 0
  else if cur ≠ modeService then svcAnswer St.denied 0
  else do
    let st ← fabricWrite .service a w
    svcAnswer st 0

/-- A read of the service port, by the view that does not clear (R595). -/
def svcLoad (a : Nat) : Op Unit := do
  if a % 4 ≠ 0 then svcAnswer St.addrAlign 0
  else do
    let v ← fabricRead false a
    svcAnswer v.1 v.2

/-- Changes the service port. -/
def modSvc (f : SvcS → SvcS) : Op Unit := modU fun u => { u with svc := f u.svc }

/-- A request of the service port has arrived at `t`, whole, or with an OP that is none (R593, R594). -/
def svcWhole (t : Nat) (req : List Byte) : Op Unit := do
  let u ← units
  let op := (req.getD 1 0).toNat
  let n := requestLen op
  let a := leAt req 2 4
  let good := (op == 1 || op == 2) && crc8 (slice req 1 (n - 2)) == (req.getD (n - 1) 0).toNat
  modSvc fun s => { s with req := [] }
  if t < u.svc.answering.getD 0 then svcDiscard F.SVC_STAT_OVERLAP
  else if good = false then svcDiscard F.SVC_STAT_CRCERR
  else if op = 1 then svcLoad a
  else svcStore a (BitVec.ofNat 32 (leAt req 6 4))

/-- The request under way is discarded: its next byte came, or failed to come, more than 1 ms after the last (R594). -/
def svcLate (t : Nat) : Op Unit := do
  let u ← units
  onlyIf (!u.svc.req.isEmpty && decide (u.svc.lastAt + 1000000 < t)) do
    modSvc fun s => { s with req := [] }
    svcDiscard F.SVC_STAT_TIMEOUT

/-- A byte is received at `t`: a request begins with 0x5A, and ends with the byte that its OP makes the last. -/
def svcByte (t : Nat) (x : Byte) : Op Unit := do
  svcLate t
  let u ← units
  let req := u.svc.req ++ [x]
  let op := (req.getD 1 0).toNat
  onlyIf (req.getD 0 0 == 0x5A) do
    modSvc fun s => { s with req := req, lastAt := t }
    onlyIf (decide (req.length = requestLen op) || (decide (req.length = 2) && op != 1 && op != 2)) (svcWhole t req)

/-- What a sample brought, at `t`: at a start bit after an idle bit time, a DIV written before comes into force (R592). -/
def svcEvent (t : Nat) : RxEvent → Op Unit
  | .nothing => pure ()
  | .start idle => onlyIf idle do
    let d ← gf F.SVC_BAUD_DIV
    modSvc fun s => { s with div := d }
  | .byte x => svcByte t x
  | .framing => sb F.SVC_STAT_FRAMERR true

/-- A stretch of the line of SVC_RX, which ends now, reaches the receiver (R590): sixteen samples to a bit at DIV / 16 cycles of 96 MHz each.
With EN 0 the receiver ignores it (R599). -/
def opSvcLine (line : List Bool) : Op Unit := do
  let t ← now
  let u ← units
  let en ← bf F.SVC_CTL_EN
  let r := rxRun u.svc.rx line
  onlyIf en do
    modSvc fun s => { s with rx := r.1 }
    each (fun (x : RxEvent × Nat) => do
      let v ← units
      let on ← bf F.SVC_CTL_EN
      onlyIf on (svcEvent (t - x.2 * max 32 v.svc.div * 1000 / 1536) x.1)) r.2

/-- SVC_TIMEOUT: two bytes of a request come more than 1 ms apart (R594). -/
def opSvcTimeout : Op Unit := do
  let t ← now
  let en ← bf F.SVC_CTL_EN
  onlyIf en (svcLate t)

/-- SVC_FRAMING_ERROR: the stop bit that is due is sampled low (R591). -/
def opSvcFramingError : Op Unit := do
  let u ← units
  onlyIf (decide (u.svc.rx.n = some 151)) (opSvcLine [false])

/-! ### The test port (R596, R597) -/

/-- Changes the test port. -/
def modJtag (f : JtagS → JtagS) : Op Unit := modU fun u => { u with jtag := f u.jtag }

/-- An instruction of the test port: EXTEST and CLAMP act as BYPASS unless RESET_N is low; `out` is what TDO gives. -/
def jtagLoad (ir out : Nat) : Op Unit := do
  let u ← units
  onlyIf (!u.jtag.held) do
    modJtag fun j => { j with ir := ir, drives := u.pwr.resetNLow && (ir == 3 || ir == 4) }
    emit (.jtag (if u.pwr.resetNLow || ir ≤ 2 then ir else 0) out)

/-- BYPASS: a register of one bit that captures 0. -/
def opBypass : Op Unit := jtagLoad 0 0

/-- IDCODE. -/
def opIdcode : Op Unit := jtagLoad 1 0x17256A4D

/-- SAMPLE/PRELOAD: the balls' levels, which the model does not hold, are sampled, and the boundary register is loaded. -/
def opSamplePreload (cells : List (Ball × Nat)) : Op Unit := do
  let u ← units
  let f ← free
  jtagLoad 2 f
  onlyIf (!u.jtag.held) (modJtag fun j => { j with cells := cells })

/-- Every pin of the boundary-scan chain. -/
def scanPins : List (Ball × Nat) :=
  let two := List.range 2
  let balls : List Ball := (List.range 16).map Ball.encoder ++ (List.range 4).flatMap (fun b => two.flatMap fun p => [.fieldTx b p, .fieldRx b p])
    ++ two.flatMap (fun p => [.rgmii p, .management p, .phyReset p]) ++ (List.range 8).flatMap (fun n => [.test n, .tach n])
    ++ [.mainsSync, .head, .refsel, .resetN, .supervisorIn, .supMiso, .svcTx, .svcRx]
  balls.flatMap fun x => (List.range x.pins).map fun k => (x, k)

/-- EXTEST: what the balls give at capture is the plant's. The command carries no data: whether a scan under EXTEST shifts new data through the
boundary register, and which, is free (assumption log 108). -/
def opExtest : Op Unit := do
  let u ← units
  let f ← free
  let g ← free
  let low := u.pwr.resetNLow
  jtagLoad 3 (if low then f else 0)
  onlyIf (!u.jtag.held && low && g % 2 == 1)
    (modJtag fun j => { j with cells := (scanPins.zipIdx.filter fun x => (g / 2).testBit x.2).map (·.1) })

/-- CLAMP: the balls hold the boundary register, and the bypass register is selected. -/
def opClamp : Op Unit := jtagLoad 4 0

/-- JTAG_TEST_RESET: TRST_N is low, and IDCODE is selected, or high. -/
def opJtagTestReset (low : Bool) : Op Unit :=
  modJtag fun j => if low then { j with held := true, ir := 1, drives := false } else { j with held := false }

end Sys2Proof.Machine
end

