-- ==== Sys2Proof/Machine/Command.lean ====
section
/-!
DEFINITION. Machine/Command.lean: what every command of the command reference is built from: its answer, the checks of its
payload (R398, R402), its acknowledgement (R380), and bulk transfers (R390 to R393, R403).
-/
namespace Sys2Proof.Machine

/-- The answer of a command: its status and completion payload; `none` when it has completed already or completes later. -/
abbrev CmdReply := Option (Nat × List Byte)

/-- A completion with a status and a payload. -/
def answer (status : Nat) (p : List Byte) : Op CmdReply := pure (some (status, p))

/-- A completion without payload (R399). -/
def failure (status : Nat) : Op CmdReply := pure (some (status, []))

/-- The payload of a completion whose command did not run, or was ended: that of the rows which send theirs with every status (R399,
R405, R408). A register not read stands as 0. -/
def idlePayload (op : Nat) (p : List Byte) : Op (List Byte) :=
  let words (n : Nat) : List Byte := if n ≤ 64 then zeros (4 * n) else []
  if op = 0x0002 then modeReply
  else if op = 0x0203 then pure (words (leAt p 4 2))
  else if op = 0x0204 then pure (zeros 4)
  else if op = 0x0205 then pure (words (leAt p 0 2))
  else pure []

/-- An outstanding command completes with a status of R384, R387, R389 or R25 in place of its function's answer. -/
def endWith (i status : Nat) (t : OutTag) : Op Unit := do
  let r ← idlePayload t.opcode t.body
  completeTag i t.tagw status r

/-- The command completes later, or has completed. -/
def later : Op CmdReply := pure none

/-- Whether `n` bytes from offset `o` are 0 (zN of the command reference). -/
def zeroAt (p : List Byte) (o n : Nat) : Bool := (slice p o n).all (· == 0)

/-- Free bytes. -/
def freeBytes : Nat → Op (List Byte)
  | 0 => pure []
  | n + 1 => do
    let f ← free
    let l ← freeBytes n
    pure (BitVec.ofNat 8 f :: l)

/-! ### Tags (R379, R380) -/

/-- The outstanding command of a tag. -/
def tagIn (s : Session) (tagw : Nat) : Option OutTag := s.tags.find? fun t => tagOf t.tagw == tagOf tagw

/-- Changes the outstanding command of a tag. -/
def modTag (i tagw : Nat) (f : OutTag → OutTag) : Op Unit :=
  modSess i fun s => { s with tags := s.tags.map fun t => if tagOf t.tagw = tagOf tagw then f t else t }

/-- The ACK of a command that has not completed leaves, once. -/
def ackOnce (i tagw : Nat) : Op Unit := do
  let s ← getSess i
  match tagIn s tagw with
  | none => pure ()
  | some t => onlyIf (!t.acked) do
    modTag i tagw fun t => { t with acked := true }
    sendAck i t.tagw t.opcode St.ok

/-! ### Bulk transfers (R390 to R393) -/

/-- Data bytes of a full bulk packet. -/
def bulkUnit : Nat := 1448

/-- The window of a transfer: 64 packets. -/
def bulkWindow : Nat := 64 * bulkUnit

/-- The bulk transfer of a tag. -/
def bulkOf (s : Session) (tagw : Nat) : Option Bulk := s.bulk.find? fun b => tagOf b.tagw == tagOf tagw

/-- Changes the bulk transfer of a tag. -/
def modBulk (i tagw : Nat) (f : Bulk → Bulk) : Op Unit :=
  modSess i fun s => { s with bulk := s.bulk.map fun b => if tagOf b.tagw = tagOf tagw then f b else b }

/-- A transfer's wait for the host is over: its time does not count in the command's bound (R385, R392). -/
def bulkResume (i tagw : Nat) : Op Unit := do
  let t ← now
  let s ← getSess i
  match (bulkOf s tagw).bind (·.waitSince) with
  | none => pure ()
  | some x => do
    modTag i tagw fun o => { o with waited := o.waited + (t - x) }
    modBulk i tagw fun b => { b with waitSince := none }

/-- A bulk transfer ends: its command completes, and a commit that took its data ends with it (R403). -/
def bulkEnd (i tagw status : Nat) : Op Unit := do
  bulkResume i tagw
  modSess i fun s => { s with bulk := s.bulk.filter fun b => tagOf b.tagw ≠ tagOf tagw }
  let u ← units
  match commitOf u i tagw with
  | some c => commitFinish c status
  | none => completeTag i tagw status []

/-- A packet of a bulk transfer leaves; where a switch-over is owed or sends its frozen queue it waits its turn, and in the gap, or
without a way to its host, it is lost (R516, R521): data moves through staging frames that belong to no pool (R561). -/
def bulkSend (i kind tagw opcode : Nat) (payload : List Byte) : Op Unit := do
  seqNext i
  let u ← units
  let s ← getSess i
  let ok ← canSend s.ip
  let hop ← nextHop s.ip
  let w ← wallTime
  let t ← now
  let k := u.net.links.getD 0 {}
  let p : Pkt := ⟨s.ip, s.port, s.hop, kind, s.sid, s.txSeq, tagw, opcode, 0, payload, w % 2 ^ 64⟩
  if ok && s.queue.isEmpty then emitPkt p
  else onlyIf (hop.isSome && !k.gap && !supplyGone u && (k.want || k.flush || !s.queue.isEmpty)) do
    (modSess i fun s => { s with queue := s.queue ++ [⟨p, t, none, false, none, none⟩] })

/-- Whether a transfer out of the module stands at its LIMIT: its next packet would pass it, or all below it is sent (R391). -/
def bulkAtLimit (b : Bulk) : Bool := decide (b.limit < min b.len (b.next + bulkUnit) ∨ b.limit ≤ min b.len b.next)

/-- The data packets of a transfer that wait for the port: each is in one of the transfer's two staging frames (R561). -/
def bulkStaged (s : Session) (tagw : Nat) : Nat := (s.queue.filter fun q => q.pkt.kind % 32 == 4 && tagOf q.pkt.tagw == tagOf tagw).length

/-- Whether a transfer out of the module can build its next packet: it is below LIMIT, and one of its two staging frames is free. -/
def bulkReady (s : Session) (b : Bulk) : Bool := decide (b.next < b.len ∧ bulkStaged s b.tagw < 2) && !bulkAtLimit b

/-- Sends up to `n` packets of a transfer out of the module, below its LIMIT, while one of its staging frames is free. -/
def bulkPackets (i tagw : Nat) : Nat → Op Unit
  | 0 => pure ()
  | n + 1 => do
    let s ← getSess i
    match bulkOf s tagw with
    | none => pure ()
    | some b =>
      if bulkReady s b then do
        let d := slice b.data b.next bulkUnit
        let last := decide (b.len ≤ b.next + bulkUnit)
        modBulk i tagw fun b => { b with next := b.next + bulkUnit }
        bulkSend i (4 + bit last * 32) b.tagw b.opcode (leBytes 4 b.next ++ zeros 4 ++ d)
        bulkPackets i tagw n
      else pure ()

/-- Whether the record that a transfer reads is still in its ring (R404). -/
def bulkStands (u : Units) (b : Bulk) : Bool :=
  if b.opcode = 0x0408 then u.tomo.ring.any fun x => x.2.fseq == b.ringSeq
  else if b.opcode = 0x050B then u.reco.ring.any fun x => x.2.mseq == b.ringSeq
  else true

/-- A transfer out of the module goes on: it sends what LIMIT allows, and where it then stands at LIMIT it waits for the host (R391,
R392). -/
def bulkPump (i tagw : Nat) : Op Unit := do
  let t ← now
  let u ← units
  let s ← getSess i
  match bulkOf s tagw with
  | none => pure ()
  | some b =>
    if b.next < b.len ∧ bulkStands u b = false then bulkEnd i tagw St.dataGone
    else do
      bulkPackets i tagw (b.len / bulkUnit + 1)
      modBulk i tagw fun b => if bulkAtLimit b then { b with limitSince := some (b.limitSince.getD t), waitSince := some (b.waitSince.getD t) } else b

/-- A transfer that can build its next packet goes on. -/
def bulkGo (x : Nat × Bulk) : Op Unit := do
  let s ← getSess x.1
  onlyIf (x.2.out && bulkReady s x.2) (bulkPump x.1 x.2.tagw)

/-- Every transfer that waited for its staging frames goes on when the port has sent them. -/
def bulkGoAll : Op Unit := do
  let u ← units
  each bulkGo (u.cmd.sessions.zipIdx.flatMap fun x => x.1.bulk.map fun b => (x.2, b))

/-- A transfer out of the module starts: ACCEPT, then its data (R390). -/
def bulkOut (i tagw op : Nat) (data : List Byte) (seq : Nat) : Op CmdReply := do
  ackOnce i tagw
  modSess i fun s => { s with bulk := s.bulk ++ [{ tagw := tagw, opcode := op, out := true, len := data.length, data := data, acked := 0, limit := bulkWindow, next := 0, run := 0, waitSince := none, limitSince := none, ringSeq := seq }] }
  bulkPump i tagw
  later

/-- A transfer into the module starts. -/
def bulkIn (i tagw op len : Nat) : Op CmdReply := do
  let t ← now
  ackOnce i tagw
  modSess i fun s => { s with bulk := s.bulk ++ [{ tagw := tagw, opcode := op, out := false, len := len, data := [], acked := 0, limit := bulkWindow, next := 0, run := 0, waitSince := some t, limitSince := none, ringSeq := 0 }] }
  later

/-- The head of a class D request: DIR, three zeros, L (R402). -/
def headOk (p : List Byte) (out : Bool) : Bool := leAt p 0 1 == bit out && zeroAt p 1 3 && decide (1 ≤ leAt p 4 4)

/-- L of a class D request. -/
def headLen (p : List Byte) : Nat := leAt p 4 4

/-- A commit opcode that takes its data in bulk is accepted, unless another commit runs (R403). -/
def bulkCommit (i tagw op len : Nat) (o : CommitObj) : Op CmdReply := do
  let u ← units
  if u.nv.commit.isSome then failure St.commitBusy
  else do
    commitOpen 3 o len [] (some (i, tagw)) []
    bulkIn i tagw op len

/-- A commit opcode whose data came with its request commits it, unless another commit runs (R403). -/
def commitNow (i tagw : Nat) (o : CommitObj) (data reply : List Byte) : Op CmdReply := do
  let u ← units
  if u.nv.commit.isSome then failure St.commitBusy
  else do
    commitStart o data (some (i, tagw)) reply
    later

end Sys2Proof.Machine
end

