-- ==== Sys2Proof/Machine/CmdBase.lean ====
section
/-!
DEFINITION. Machine/CmdBase.lean: the System, Session, Register access and Timebase functions (R405 to R413), with revoke (R388,
R389).
-/
namespace Sys2Proof.Machine

/-! ### System, 0x00 (R405, R406) -/

/-- GET_INFO. -/
def runGetInfo : Op CmdReply := do
  let id ← rd R.SYS_ID
  let dr ← rd R.SYS_DIEREV
  let fw ← rd R.SYS_FWVER
  let a ← gf F.RNG_STAT_ADDR
  let m ← curMode
  let ip ← rd R.CMD_IP
  let ml ← rd R.CMD_MACL
  let mh ← gf F.CMD_MACH_MAC
  answer St.ok (leBytes 4 id.toNat ++ leBytes 4 dr.toNat ++ leBytes 4 fw.toNat ++ leBytes 1 a ++ leBytes 1 m ++ zeros 2 ++
    beBytes 4 ip.toNat ++ beBytes 2 mh ++ beBytes 4 ml.toNat ++ zeros 2)

/-- MODE_REQ: as a write of GO and TARGET; it completes where the request is refused, carried out or preempted. -/
def runModeReq (i tagw : Nat) (p : List Byte) : Op CmdReply :=
  if 7 < leAt p 0 1 ∨ zeroAt p 1 3 = false then do
    let r ← modeReply
    answer St.badParam r
  else do
    sf F.SYS_MODEREQ_TARGET (leAt p 0 1)
    modeAsk (leAt p 0 1) (.host i) (some (i, tagw))
    later

/-- RESET: the command reset comes 10 ms after its completion has left (`resetFollows`); the head of a cluster orders it for every member
(R406, R545). -/
def runReset (p : List Byte) : Op CmdReply := do
  let u ← units
  let head ← isHead
  if leAt p 0 4 ≠ 0x7256 then failure St.badParam
  else do
    onlyIf (u.rng.joined && head) (modU fun u => { u with rng := { u.rng with orders := u.rng.orders ||| 4 } })
    answer St.ok []

/-! ### Session, 0x01 (R365 to R378, R407) -/

/-- Why slot `k` does not open a control session (R367); `none` where it does. `blank` is the state of R377 on slot 0. -/
def slotRefuses (u : Units) (t k : Nat) (control blank : Bool) : Option Nat :=
  let s := u.cmd.slots.getD k {}
  if s.key.isNone && !blank then some St.keyEmpty
  else if !control && !blank then some St.noRight
  else if (match s.lockedUntil with | none => false | some e => decide (t < e)) then some St.authLockout
  else none

/-- OPEN_CONTROL from a host's address: its answer goes to session 0x0000 (R365 to R367, R371, R377). -/
def runOpenControl (ip port : Nat) (p : List Byte) : Op (Nat × List Byte) := do
  let t ← now
  let u ← units
  let k := leAt p 0 1
  let bl ← bf F.SEC_STAT_BLANK
  let ctl ← bf (F.SEC_SLOT_CONTROL k)
  let adm ← bf (F.SEC_SLOT_KEYADMIN k)
  let want ← gf F.CMD_GRANTC_GRANT
  let blank := bl && k == 0
  let g := grantOf u.cmd.sessions want
  if 7 < k ∨ zeroAt p 1 3 = false then pure (St.badParam, [])
  else
    match slotRefuses u t k ctl blank, freeRecord u.cmd.sessions with
    | some st, _ => pure (st, [])
    | none, none => pure (St.noSession, [])
    | none, some i =>
      if g = 0 then pure (St.noCredit, [])
      else do
        let c ← freeBytes 16
        let sid ← takeRecord i ip port g { st := .pending, slot := k, keyAdmin := blank || adm, challenge := c }
        pure (St.ok, leBytes 2 sid ++ zeros 2 ++ c)

/-- OPEN_OBSERVER (R369). -/
def runOpenObserver (ip port : Nat) (p : List Byte) : Op (Nat × List Byte) := do
  let u ← units
  let want ← gf F.CMD_GRANTO_GRANT
  let idle ← gf F.CMD_IDLET_T
  let g := grantOf u.cmd.sessions want
  match freeRecord u.cmd.sessions with
  | none => pure (St.noSession, [])
  | some i =>
    if g = 0 then pure (St.noCredit, [])
    else do
      let sid ← takeRecord i ip port g { st := .opened, observer := true, h := leAt p 0 4 }
      pure (St.ok, leBytes 2 sid ++ leBytes 2 g ++ leBytes 2 idle)

/-- The key that a proof of slot `k` is made with: the slot's, or zeros while every slot is empty (R366, R377). -/
def proofKey (u : Units) (blank : Bool) (k : Nat) : Option (List Byte) :=
  match (u.cmd.slots.getD k {}).key with
  | some key => some key
  | none => if blank ∧ k = 0 then some (zeros 32) else none

/-- PROVE of a pending record (R365, R366, R374). -/
def runProve (i tagw : Nat) (p : List Byte) : Op CmdReply := do
  let t ← now
  let u ← units
  let s ← getSess i
  let blank ← bf F.SEC_STAT_BLANK
  let idle ← gf F.CMD_IDLET_T
  let ok : Bool := match proofKey u blank s.slot with
    | none => false
    | some key => p == proofOf key s.challenge s.sid s.slot s.ip s.port
  if ok then do
    modSess i fun s => { s with st := .opened, lastTaken := t, challenge := [] }
    answer St.ok (leBytes 2 s.grant ++ leBytes 2 idle)
  else do
    proofFails s.slot
    completeTag i tagw St.authFail []
    closeRecord i
    later

/-- CLOSE: its completion is sent before the session closes (R373, R407). -/
def runClose (i tagw : Nat) : Op CmdReply := do
  completeTag i tagw St.ok []
  closeRecord i
  later

/-- PING: its packet has reset the idle time (R372). -/
def runPing : Op CmdReply := answer St.ok []

/-- EVMASK (R394). -/
def runEvmask (i : Nat) (p : List Byte) : Op CmdReply := do
  modSess i fun s => { s with evMask := leAt p 0 8 }
  answer St.ok []

/-- Stops a started command at its stop point, if it has one ahead: a bulk transfer, a commit at its journal step, or a query that
waits for its data (R389, R403). Answers whether it did. -/
def stopTarget (i : Nat) (t : OutTag) : Op Bool := do
  let u ← units
  let s ← getSess i
  if (bulkOf s t.tagw).isSome then do
    bulkEnd i t.tagw St.revoked
    pure true
  else
    match commitOf u i t.tagw with
    | some c => do
      let _ ← journalStep
      commitFinish c St.revoked
      pure true
    | none =>
      if t.opcode = 0x0F01 then do
        modU fun u => { u with thm := { u.thm with reads := u.thm.reads.filter fun x => !(x.1 == i && tagOf x.2 == tagOf t.tagw) } }
        endWith i St.revoked t
        pure true
      else pure false

/-- REVOKE (R388, R389): the target's completion leaves before its own. -/
def runRevoke (i : Nat) (p : List Byte) : Op CmdReply := do
  let s ← getSess i
  let v := leAt p 0 2
  if 512 ≤ v then failure St.badParam
  else
    match tagIn s v with
    | none => failure (if s.held.any fun h => h.tag == v then St.revokeLate else St.revokeNotag)
    | some t =>
      if t.done = true then failure St.revokeLate
      else if t.started = false then do
        endWith i St.revoked t
        answer St.ok []
      else do
        let ok ← stopTarget i t
        failure (if ok then St.ok else St.revokeLate)

/-! ### Register access, 0x02 (R408, R409) -/

/-- READ. -/
def runRead (p : List Byte) : Op CmdReply := do
  let a := leAt p 0 4
  if a % 4 ≠ 0 then failure St.addrAlign
  else do
    let v ← fabricRead true a
    answer v.1 (if v.1 = St.ok then leBytes 4 v.2.toNat else [])

/-- WRITE. -/
def runWrite (i : Nat) (p : List Byte) : Op CmdReply := do
  let a := leAt p 0 4
  if a % 4 ≠ 0 then failure St.addrAlign
  else do
    let st ← fabricWrite (.host i) a (BitVec.ofNat 32 (leAt p 4 4))
    failure st

/-- Reads made one at a time: the first failure's status, and every word, 0 for a read that fails (R409). -/
def readEach : List Nat → Op (Nat × List Byte)
  | [] => pure (St.ok, [])
  | a :: l => do
    let v ← fabricRead true a
    let r ← readEach l
    pure (if v.1 = St.ok then r.1 else v.1, leBytes 4 v.2.toNat ++ r.2)

/-- The addresses of a block. -/
def blockAddrs (a n : Nat) : List Nat := (List.range n).map fun k => a + 4 * k

/-- READ_BLOCK. -/
def runReadBlock (p : List Byte) : Op CmdReply := do
  let a := leAt p 0 4
  let n := leAt p 4 2
  if n = 0 ∨ 64 < n ∨ zeroAt p 6 2 = false then do
    let r ← idlePayload 0x0203 p
    answer St.badParam r
  else if a % 4 ≠ 0 then answer St.addrAlign (zeros (4 * n))
  else do
    let r ← readEach (blockAddrs a n)
    answer r.1 r.2

/-- READ_LIST. -/
def runReadList (p : List Byte) : Op CmdReply := do
  let n := leAt p 0 2
  let l := (List.range n).map fun k => leAt p (4 + 4 * k) 4
  if n = 0 ∨ 64 < n ∨ zeroAt p 2 2 = false then do
    let r ← idlePayload 0x0205 p
    answer St.badParam r
  else if l.any (fun a => a % 4 ≠ 0) then answer St.addrAlign (zeros (4 * n))
  else do
    let r ← readEach l
    answer r.1 r.2

/-- Writes made one at a time, up to the first failure: its status, and how many words were written (R409). -/
def writeEach (src : Src) : List (Nat × Word) → Op (Nat × Nat)
  | [] => pure (St.ok, 0)
  | x :: l => do
    let st ← fabricWrite src x.1 x.2
    if st = St.ok then do
      let r ← writeEach src l
      pure (r.1, r.2 + 1)
    else pure (st, 0)

/-- WRITE_BLOCK. -/
def runWriteBlock (i : Nat) (p : List Byte) : Op CmdReply := do
  let a := leAt p 0 4
  let n := leAt p 4 2
  if n = 0 ∨ 64 < n ∨ zeroAt p 6 2 = false then answer St.badParam (zeros 4)
  else if a % 4 ≠ 0 then answer St.addrAlign (zeros 4)
  else do
    let r ← writeEach (.host i) ((blockAddrs a n).zipIdx.map fun x => (x.1, BitVec.ofNat 32 (leAt p (8 + 4 * x.2) 4)))
    answer r.1 (leBytes 2 r.2 ++ zeros 2)

/-! ### Timebase, 0x03 (R410 to R413) -/

/-- A latched 48-bit value as eight bytes. -/
def signed48 (lo hi : Nat) : Op (List Byte) := do
  let v ← rd64 lo hi
  pure (leBytes 8 (ofSigned 64 (toSigned 48 v)))

/-- The latched lanes of a snapshot. -/
def snapLanes : List Nat → Op (List Byte)
  | [] => pure []
  | n :: l => do
    let a ← signed48 (R.ENC_SNAPL n) (R.ENC_SNAPH n)
    let b ← signed48 (R.ENC_SNAPLDL n) (R.ENC_SNAPLDH n)
    let r ← snapLanes l
    pure (a ++ b ++ r)

/-- SNAPSHOT with up to `n` tries: the latched values count where ENC_SNAPSEQ is the same before and after their reads (R48, R411). -/
def snapshotTry : Nat → Op CmdReply
  | 0 => failure St.dataGone
  | n + 1 => do
    opWrite .core R.ENC_SNAPCTL 0x00010001
    let q ← rd R.ENC_SNAPSEQ
    let w ← rd64 R.ENC_SNAPWTL R.ENC_SNAPWTH
    let m ← rd64 R.ENC_SNAPML R.ENC_SNAPMH
    let l ← snapLanes (List.range 16)
    let q' ← rd R.ENC_SNAPSEQ
    if q = q' then answer St.ok (leBytes 4 q.toNat ++ zeros 4 ++ leBytes 8 w ++ leBytes 8 m ++ l) else snapshotTry n

/-- SNAPSHOT (R411): DATA_GONE when the check fails three times in a row. -/
def runSnapshot : Op CmdReply := snapshotTry 3

/-- TIME_SET: a step in ENUMERATE, IDLE and SERVICE, else a slew (R74, R412). -/
def runTimeSet (p : List Byte) : Op CmdReply := do
  let u ← units
  let member ← clusterMember
  let cur ← curMode
  let v := leAt p 0 8
  let d : Int := (v : Int) - u.wall
  let step := cur == modeEnumerate || cur == modeIdle || cur == modeService
  if member then failure St.clusterMember
  else do
    if step then wallStep v else modU fun u => { u with slew := d }
    answer St.ok (leBytes 1 (bit (!step)) ++ zeros 7 ++ leBytes 8 (ofSigned 64 d))

/-- A masked write of the low bits that a mask selects. -/
def maskWord (mask data : Nat) : Word := BitVec.ofNat 32 (mask * 65536 + data % 65536)

/-- ALARM_SET: ARM cleared, the compare value, SRC and FB, and then ARM (R58, R413). -/
def runAlarmSet (p : List Byte) : Op CmdReply := do
  let n := leAt p 0 2
  let src := leAt p 2 1
  let fb := leAt p 3 1
  let c := leAt p 4 6
  if n < 64 ∨ 511 < n ∨ 16 < src then failure St.badParam
  else do
    opWrite .core (R.ENC_ACTL n) (maskWord 0x8000 0)
    opWrite .core (R.ENC_ACMP0 n) (maskWord 0xFFFF c)
    opWrite .core (R.ENC_ACMP1 n) (maskWord 0xFFFF (c / 2 ^ 16))
    opWrite .core (R.ENC_ACMP2 n) (maskWord 0xFFFF (c / 2 ^ 32))
    opWrite .core (R.ENC_ACTL n) (maskWord 0x1FFF (src * 256 + fb))
    opWrite .core (R.ENC_ACTL n) (maskWord 0x8000 0x8000)
    answer St.ok []

/-- ALARM_CLEAR (R413). -/
def runAlarmClear (p : List Byte) : Op CmdReply := do
  let n := leAt p 0 2
  if n < 64 ∨ 511 < n ∨ zeroAt p 2 2 = false then failure St.badParam
  else do
    opWrite .core (R.ENC_ACTL n) (maskWord 0x8000 0)
    answer St.ok []

end Sys2Proof.Machine
end

