-- ==== Sys2Proof/Machine/CmdFront.lean ====
section
/-!
DEFINITION. Machine/CmdFront.lean: the Tomography, Reconstruction, Ledger and Residence Planner functions (R414 to R428). Each
`run` checks the payload, then the mode, then a commit under way, then the conditions of the opcode's row (R398).
-/
namespace Sys2Proof.Machine

/-! ### Tomography, 0x04 (R414, R415) -/

/-- TOMO_RUNNING of R106: RUN is 1, or a frame is in progress; a burst is not a frame. -/
def tomoRunning : Op Bool := do
  let u ← units
  let run ← bf F.TOMO_CTL_RUN
  pure (run || (match u.tomo.frame with | some f => !f.burst | none => false))

/-- GEOM_LOAD: its data are checked when they have arrived. -/
def runGeomLoad (i tagw : Nat) (p : List Byte) : Op CmdReply := do
  let busy ← tomoRunning
  let u ← units
  if headOk p false = false ∨ headLen p ≠ 4240 then failure St.badParam
  else if u.nv.commit.isSome then failure St.commitBusy
  else if busy then failure St.tomoRunning
  else bulkCommit i tagw 0x0401 4240 .geometry

/-- A D-out opcode that sends an object, or has none. -/
def sendObject (i tagw op len : Nat) (p : List Byte) (o : Option (List Byte)) : Op CmdReply :=
  if headOk p true = false ∨ headLen p ≠ len then failure St.badParam
  else
    match o with
    | none => failure St.noData
    | some d => bulkOut i tagw op (padTo len (d.take len)) 0

/-- GEOM_READ: the table in force. -/
def runGeomRead (i tagw : Nat) (p : List Byte) : Op CmdReply := do
  let u ← units
  sendObject i tagw 0x0402 4240 p u.tomo.geom

/-- CAL_SWEEP (R110). -/
def runCalSweep : Op CmdReply := do
  let u ← units
  let m ← curMode
  if m ≠ modeCalibrate ∧ m ≠ modeService then failure St.modeWrong
  else if u.tomo.frame.isSome then failure St.tomoRunning
  else if u.tomo.sweep.isSome then failure St.actionBusy
  else do
    sweepStart 0
    answer St.ok []

/-- CAL_LOAD. -/
def runCalLoad (i tagw : Nat) (p : List Byte) : Op CmdReply :=
  if headOk p false = false ∨ headLen p ≠ 65600 then failure St.badParam
  else bulkCommit i tagw 0x0404 65600 .calibration

/-- CAL_READ. -/
def runCalRead (i tagw : Nat) (p : List Byte) : Op CmdReply := do
  let u ← units
  sendObject i tagw 0x0405 65600 p u.tomo.cal

/-- RANGE_SAVE: both dies' range tables as they stand. -/
def runRangeSave (i tagw : Nat) : Op CmdReply := do
  let u ← units
  commitNow i tagw (.ranges u.tomo.ranges) [] []

/-- The bytes of both range tables: TA0's and then TA1's, step by step (R415). -/
def rangeBytes (ranges : List (Nat × Nat)) : List Byte := (List.range 8192).flatMap fun k => leBytes 2 (rangeWord ranges k)

/-- RANGE_READ. -/
def runRangeRead (i tagw : Nat) (p : List Byte) : Op CmdReply := do
  let u ← units
  sendObject i tagw 0x0407 16384 p (some (rangeBytes u.tomo.ranges))

/-- The frame record of sequence number `q`, the latest published for 0 (R404). -/
def frameAt (u : Units) (q : Nat) : Option FrameRec :=
  if q = 0 then u.tomo.ring.head?.map (·.2) else (u.tomo.ring.find? fun x => x.2.fseq == q).map (·.2)

/-- FRAME_READ. -/
def runFrameRead (i tagw : Nat) (p : List Byte) : Op CmdReply := do
  let u ← units
  if headOk p true = false ∨ headLen p ≠ 402824 then failure St.badParam
  else
    match frameAt u (leAt p 8 8) with
    | none => failure St.noData
    | some f => bulkOut i tagw 0x0408 (frameBytes f) f.fseq

/-! ### Reconstruction, 0x05 (R416 to R421) -/

/-- MAT_LOAD: the file's length is its own. -/
def runMatLoad (i tagw : Nat) (p : List Byte) : Op CmdReply :=
  if headOk p false = false then failure St.badParam
  else bulkCommit i tagw 0x0501 (headLen p) .matrix

/-- The four identifying words of a matrix file, zeros for none. -/
def matWords (m : Option (List Byte)) : List Byte :=
  match m with
  | none => zeros 16
  | some m => leBytes 4 (Mat.id m) ++ leBytes 4 (Mat.geom m) ++ leBytes 4 (Mat.pairs m) ++ leBytes 4 (Mat.vox m)

/-- The file of a complete bank. -/
def bankFile (b : NvBank) : Option (List Byte) := if b.state = 1 then some b.data else none

/-- MAT_INFO. -/
def runMatInfo : Op CmdReply := do
  let u ← units
  let s := u.nv.matSel
  let a := u.nv.mat.getD s {}
  let o := u.nv.mat.getD (1 - s) {}
  answer St.ok (matWords u.reco.mat ++ matWords (bankFile a) ++ matWords (bankFile o) ++ leBytes 1 s ++ leBytes 1 o.state ++ zeros 2)

/-- MODEL_LOAD (R151, R418). -/
def runModelLoad (i tagw : Nat) (p : List Byte) : Op CmdReply := do
  let u ← units
  let d := slice p 4 512
  if 63 < leAt p 0 1 ∨ zeroAt p 1 3 = false then failure St.badParam
  else if u.nv.commit.isSome then failure St.commitBusy
  else if Model.check d ≠ St.ok then failure (Model.check d)
  else commitNow i tagw (.model (leAt p 0 1)) d []

/-- A table of 512 or 128 bytes; of an empty one only FORMAT is known. -/
def tableBytes (n : Nat) (t : Option (List Byte)) : Op (List Byte) :=
  match t with
  | some d => pure d
  | none => do
    let l ← freeBytes (n - 2)
    pure (zeros 2 ++ l)

/-- MODEL_READ. -/
def runModelRead (p : List Byte) : Op CmdReply := do
  let u ← units
  if 63 < leAt p 0 1 ∨ zeroAt p 1 3 = false then failure St.badParam
  else do
    let d ← tableBytes 512 (modelAt u.reco (leAt p 0 1))
    answer St.ok d

/-- REF_LOAD. -/
def runRefLoad (i tagw : Nat) (p : List Byte) : Op CmdReply :=
  if headOk p false = false ∨ headLen p ≠ Ref.len then failure St.badParam
  else bulkCommit i tagw 0x0505 Ref.len (.reference false)

/-- REF_READ. -/
def runRefRead (i tagw : Nat) (p : List Byte) : Op CmdReply := do
  let u ← units
  sendObject i tagw 0x0506 Ref.len p u.reco.ref

/-- CAPTURE_START (R153, R419). -/
def runCaptureStart (p : List Byte) : Op CmdReply := do
  let s ← recS
  let m ← curMode
  let n ← gf F.REC_REFAVG_AVG
  let q ← rd64 R.TOMO_FSEQL R.TOMO_FSEQH
  let k := leAt p 0 1
  let averaging : Bool := match s.capture with
    | none => false
    | some c => !c.done
  if 1 < k ∨ zeroAt p 1 3 = false ∨ leAt p 4 4 = 0 ∨ (k = 0 ∧ zeroAt p 8 12 = false) then failure St.badParam
  else if m ≠ modeCalibrate ∧ m ≠ modeService then failure St.modeWrong
  else if averaging then failure St.actionBusy
  else do
    let c : Capture := { full := k == 1, refId := leAt p 4 4, epsf := (List.range 4).map fun t => leAt p (8 + 2 * t) 2, mref := leAt p 16 2, tref := leAt p 18 2, after := q, left := max 1 n }
    modRec fun s => { s with capture := some c }
    answer St.ok []

/-- CAPTURE_END (R419): the reference captured is committed. A pair without a frame keeps its entry of the reference in force now
(R153; DESIGN CHOICE, assumption log 96). -/
def runCaptureEnd (i tagw : Nat) : Op CmdReply := do
  let u ← units
  let g ← rd R.TOMO_GEOMID
  if u.nv.commit.isSome then failure St.commitBusy
  else
    match u.reco.capture with
    | none => failure St.captureNone
    | some c =>
      if c.done = false then failure St.capturePending
      else do
        let r := captureRef c u.reco.ref g.toNat
        modRec fun s => { s with capture := none }
        commitNow i tagw (.reference c.full) r.1 (leBytes 4 c.refId ++ leBytes 2 c.taken ++ leBytes 2 r.2)

/-- The parcel that held the discharge plane of lane `n` at lead position `p`: among the records held, then in the archive, latest
first (R158). -/
def anchorParcel (u : Units) (n : Nat) (p : Int) (f : Nat) (len : Int) : Option (List Byte) :=
  match atDischarge u.pcl.parcels n p f len with
  | some r => some r
  | none => atDischarge ((u.nv.archive.map (·.2)).filter fun r => Pf.state.of r == 3) n p f len

/-- An accepted anchor (R160, R164). -/
def anchorTake (n lab pred : Nat) (pid : Nat) : Op CmdReply := do
  let gain ← gf F.REC_ANCHGAIN_GAIN
  let old ← gf (F.REC_LOFFS_OFFS n)
  let a0 ← gf (F.AFT_TEMP_TEMP 0)
  let a1 ← gf (F.AFT_TEMP_TEMP 1)
  let t0 := toSigned 16 a0
  let t1 := toSigned 16 a1
  let new := fitS 16 (toSigned 16 old + quot ((gain : Int) * ((lab : Int) - pred) * 10) 256)
  sf (F.REC_LOFFS_OFFS n) new
  laneAnchor n t0 t1 none
  sb F.REC_STAT_ANCHOR true
  rollSave
  let t ← now
  let b ← boundOf ⟨t, t0, t1, none⟩ t0 t1
  answer St.ok (leBytes 4 pid ++ leBytes 2 pred ++ leBytes 2 new ++ leBytes 2 (boundShown b) ++ zeros 2)

/-- ANCHOR (R158 to R160). A parcel that no map sighted predicts nothing: its moisture is free. -/
def runAnchor (p : List Byte) : Op CmdReply := do
  let u ← units
  let n := leAt p 0 1
  let pos := toSigned 64 (leAt p 8 8)
  let lab := leAt p 16 2
  let f ← factorOf n
  let len ← laneLen n
  let tab ← gf (F.REC_LCROP_TABLE n)
  let mx ← gf F.REC_ANCHMAX_MAX
  let fr ← free
  if 15 < n ∨ zeroAt p 1 7 = false ∨ zeroAt p 18 6 = false then failure St.badParam
  else
    match anchorParcel u n pos f len with
    | none => failure St.anchorNoparcel
    | some r =>
      let pred := if Pf.mlast.of r = 0xFFFF then fr % 65536 else Pf.mlast.of r
      if Pf.flags.of r &&& (pfGap ||| pfDisplaced) ≠ 0 ∨ (modelAt u.reco tab).isNone = true then failure St.anchorUnfit
      else if mx < ((lab : Int) - pred).natAbs * 10 then failure St.anchorOutlier
      else anchorTake n lab pred (Pf.pid.of r)

/-- The map of sequence number `q`, the latest published for 0 (R404). -/
def mapAt (u : Units) (q : Nat) : Option MapRec :=
  if q = 0 then u.reco.ring.head?.map (·.2) else (u.reco.ring.find? fun x => x.2.mseq == q).map (·.2)

/-- MAP_SUMMARY. -/
def runMapSummary (p : List Byte) : Op CmdReply := do
  let u ← units
  match mapAt u (leAt p 0 8) with
  | none => failure St.noData
  | some m => answer St.ok (mapHead m)

/-- The bits set in a field mask. -/
def maskBits (m : Nat) : Nat := ((List.range 12).filter fun k => bitAt m k).length

/-- MAP_READ (R421). The range of voxels is tested against the map that is read. -/
def runMapRead (i tagw : Nat) (p : List Byte) : Op CmdReply := do
  let u ← units
  let mask := leAt p 16 2
  let first := leAt p 20 4
  let count := leAt p 24 4
  if headOk p true = false ∨ zeroAt p 18 2 = false ∨ mask = 0 ∨ 4096 ≤ mask ∨ count = 0 ∨ headLen p ≠ 1024 + count * 2 * maskBits mask then
    failure St.badParam
  else
    match mapAt u (leAt p 8 8) with
    | none => failure St.noData
    | some m =>
      if m.vox.length < first + count then failure St.badParam
      else bulkOut i tagw 0x050B (mapHead m ++ ((m.vox.drop first).take count).flatMap (voxFields mask)) m.mseq

/-! ### Ledger, 0x06 (R422 to R427) -/

/-- A lot index and two zeros, as most lot commands carry. -/
def lotIndexOk (p : List Byte) : Bool := decide (leAt p 0 2 < 4096) && zeroAt p 2 2

/-- The lowest free lot slot. -/
def freeLot (u : Units) : Option Nat := (List.range 4096).find? fun k => u.pcl.lots.all fun x => x.1 != k

/-- LOT_OPEN. The means of an empty lot are free, and so is the WSEQ a record starts from. Parcels that a host put into the free slot
are the lot's from now on, and NLIVE counts them (R181). -/
def runLotOpen (p : List Byte) : Op CmdReply := do
  let u ← units
  let w ← wallTime
  if 63 < leAt p 4 1 ∨ zeroAt p 5 1 = false then failure St.badParam
  else
    match freeLot u with
    | none => failure St.lotFull
    | some k => do
      let a ← free
      let b ← free
      let live := (u.pcl.parcels.filter fun x => parcelActive x && Pf.lot.of x == k).length
      let r := leBytes 4 (leAt p 0 4) ++ leBytes 1 1 ++ leBytes 1 (leAt p 4 1) ++ leBytes 2 (leAt p 6 2) ++ leBytes 8 w ++ zeros 8 ++
        slice p 8 96 ++ zeros 8 ++ leBytes 2 a ++ zeros 2 ++ zeros 4 ++ leBytes 4 live ++ leBytes 2 b ++ zeros 2 ++ zeros 112
      let c ← free
      modPcl fun q => { q with lots := q.lots ++ [(k, Lf.wseq.put r c)] }
      ledgerCounts
      answer St.ok (leBytes 2 k ++ zeros 2)

/-- A command on lot record `k` for session record `i`: NOREC where the slot is not in use, LOCKED where another session holds it
(R190). -/
def withLot (i k : Nat) (f : List Byte → Op CmdReply) : Op CmdReply := do
  let l ← lotAt k
  let locked ← lockedFor i false k
  match l with
  | none => failure St.norec
  | some _ => if locked then failure St.locked else do
    hostWait false k
    let r ← lotAt k
    match r with
    | none => failure St.norec
    | some r => f r

/-- LOT_CLOSE (R177). -/
def runLotClose (i : Nat) (p : List Byte) : Op CmdReply :=
  if lotIndexOk p = false then failure St.badParam
  else do
    let k := leAt p 0 2
    let w ← wallTime
    let l ← lotAt k
    let isOpen : Bool := match l with
      | none => false
      | some r => Lf.state.of r == 1
    if isOpen = false then failure St.norec
    else withLot i k fun _ => do
      modLot k fun r => lotTouch (Lf.wtclose.put (Lf.state.put r 2) w)
      lotSettle k
      ledgerCounts
      answer St.ok []

/-- LOT_READ. The record has no place for the mark of a damaged lot (R25, R181), so the host reads it as the status MEM_FAULT (DESIGN
CHOICE, assumption log 79). -/
def runLotRead (i : Nat) (p : List Byte) : Op CmdReply :=
  if lotIndexOk p = false then failure St.badParam
  else withLot i (leAt p 0 2) fun r => do
    let u ← units
    if leAt p 0 2 ∈ u.pcl.lotsDamaged then failure St.memFault else answer St.ok r

/-- The bytes of a lot record that a host may write (R423). -/
def lotWritable (o : Nat) : Bool := decide (o < 4 ∨ (5 ≤ o ∧ o < 8) ∨ (0x18 ≤ o ∧ o < 0x78) ∨ (0x98 ≤ o ∧ o < 0x100))

/-- LOT_WRITE (R192, R423). -/
def runLotWrite (i : Nat) (p : List Byte) : Op CmdReply :=
  let o := leAt p 2 2
  let n := leAt p 4 2
  if 4096 ≤ leAt p 0 2 ∨ n = 0 ∨ 256 < n ∨ zeroAt p 6 2 = false ∨ ((List.range n).all fun j => lotWritable (o + j)) = false then
    failure St.badParam
  else withLot i (leAt p 0 2) fun _ => do
    modLot (leAt p 0 2) fun r => lotTouch (patch r o (slice p 8 n))
    answer St.ok []

/-- The filling or live parcel `pid`. -/
def parcelAt (u : Units) (pid : Nat) : Option (List Byte) := u.pcl.parcels.find? fun r => parcelActive r && Pf.pid.of r == pid

/-- A command on parcel `pid` for session record `i` (R190, R191). -/
def withParcel (i pid : Nat) (f : List Byte → Op CmdReply) : Op CmdReply := do
  let u ← units
  let locked ← lockedFor i true pid
  match parcelAt u pid with
  | none => failure St.norec
  | some _ => if locked then failure St.locked else do
    hostWait true pid
    let v ← units
    match parcelAt v pid with
    | none => failure St.norec
    | some r => f r

/-- PARCEL_READ. -/
def runParcelRead (i : Nat) (p : List Byte) : Op CmdReply := withParcel i (leAt p 0 4) fun r => answer St.ok r

/-- A parcel moves from one lot to another: their live parcels are counted (R181, R192). -/
def lotMove (old new : Nat) : Op Unit := do
  modLot old fun l => lotTouch (Lf.nlive.put l (Lf.nlive.of l - 1))
  modLot new fun l => lotTouch (Lf.nlive.put l (Lf.nlive.of l + 1))
  lotSettle old

/-- PARCEL_WRITE (R192, R424). -/
def runParcelWrite (i : Nat) (p : List Byte) : Op CmdReply :=
  let pid := leAt p 0 4
  let sel := leAt p 4 1
  let lot := leAt p 6 2
  let smp := leAt p 8 2
  if 3 < sel ∨ zeroAt p 5 1 = false ∨ zeroAt p 10 2 = false ∨ (bitAt sel 0 = true ∧ 4096 ≤ lot ∧ lot ≠ 0xFFFF) then failure St.badParam
  else withParcel i pid fun r => do
    let set (x : List Byte) : List Byte :=
      let x := if bitAt sel 0 then Pf.lot.put x lot else x
      if bitAt sel 1 then Pf.snode.put (Pf.sample.put x smp) 0xFF else x
    onlyIf (decide (sel ≠ 0)) (modParcels (fun x => Pf.pid.of x == pid) fun x => parcelTouch (set x))
    onlyIf (bitAt sel 0 && decide (Pf.lot.of r ≠ lot)) (lotMove (Pf.lot.of r) lot)
    ledgerCounts
    answer St.ok []

/-- The kind, zeros and key of LOCK and UNLOCK. -/
def lockOk (p : List Byte) : Bool :=
  decide (leAt p 0 1 < 2) && zeroAt p 1 3 && decide (leAt p 0 1 = 1 ∨ leAt p 4 4 < 4096)

/-- LOCK (R188, R425). -/
def runLock (i : Nat) (p : List Byte) : Op CmdReply := do
  let parcel := leAt p 0 1 == 1
  let key := leAt p 4 4
  let lease ← gf F.PCL_LEASE_LEASE
  let t ← now
  let take (_ : List Byte) : Op CmdReply := do
    modPcl fun q => { q with locks := (q.locks.filter fun l => !(l.parcel == parcel && l.key == key)) ++ [⟨parcel, key, i, t + max 1 lease * 1000000⟩] }
    answer St.ok (leBytes 2 (max 1 lease) ++ zeros 2)
  if lockOk p = false then failure St.badParam
  else if parcel then withParcel i key take
  else withLot i key take

/-- UNLOCK (R191, R425). -/
def runUnlock (i : Nat) (p : List Byte) : Op CmdReply := do
  let parcel := leAt p 0 1 == 1
  let key := leAt p 4 4
  let u ← units
  let mine : Bool := match lockHeld u parcel key with
    | none => false
    | some l => l.holder == i
  if lockOk p = false then failure St.badParam
  else if mine = false then failure St.notHolder
  else do
    modPcl fun q => { q with locks := q.locks.filter fun l => !(l.parcel == parcel && l.key == key) }
    retiredSettle
    ledgerCounts
    answer St.ok []

/-- Inserts a record by its opening cut, the deepest first. -/
def depthInsert (r : List Byte) : List (List Byte) → List (List Byte)
  | [] => [r]
  | x :: l => if Pf.lo.int r < Pf.lo.int x then r :: x :: l else x :: depthInsert r l

/-- The filling and live parcels of a lane, deepest first. -/
def laneParcels (u : Units) (n : Nat) : List (List Byte) :=
  (u.pcl.parcels.filter fun r => parcelActive r && Pf.lane.of r == n).foldl (fun l r => depthInsert r l) []

/-- PARCEL_DUMP (R426). -/
def runParcelDump (i tagw : Nat) (p : List Byte) : Op CmdReply := do
  let u ← units
  let n := leAt p 8 1
  let c := leAt p 12 4
  if headOk p true = false ∨ 15 < n ∨ zeroAt p 9 3 = false ∨ c = 0 ∨ 65536 < c ∨ headLen p ≠ 128 * c then failure St.badParam
  else bulkOut i tagw 0x0609 (padTo (128 * c) ((laneParcels u n).take c).flatten) 0

/-- Entry `e` of the archive (R427). -/
def archEntry (u : Units) (e : Nat) : List Byte := ((u.nv.archive.find? fun x => x.1 == e).map (·.2)).getD (zeros 128)

/-- ARCH_READ (R427). -/
def runArchRead (i tagw : Nat) (p : List Byte) : Op CmdReply := do
  let u ← units
  let a := leAt p 8 4
  let c := leAt p 12 4
  if headOk p true = false ∨ 15624999 < a ∨ c = 0 ∨ 15625000 < c ∨ headLen p ≠ 128 * c then failure St.badParam
  else bulkOut i tagw 0x060A ((List.range c).flatMap fun k => archEntry u ((a + k) % 15625000)) 0

/-! ### Residence Planner, 0x07 (R428) -/

/-- The lane entries of PLAN_STATUS. -/
def planLaneBytes (b : Block) (n : Nat) : List Byte :=
  let w (a : Nat) : Nat := (b.regs.get a).toNat
  leBytes 2 (w (R.PCL_LSTAT n)) ++ leBytes 2 (w (R.PCL_VSET n)) ++ leBytes 2 (w (R.PCL_LPRED n)) ++ leBytes 2 (w (R.PCL_LNLIVE n)) ++
    leBytes 4 (w (R.PCL_LEADPID n))

/-- PLAN_STATUS. -/
def runPlanStatus : Op CmdReply := do
  let b ← blockOp
  answer St.ok (leBytes 4 b.u.pcl.runs ++ zeros 4 ++ (List.range 16).flatMap (planLaneBytes b))

end Sys2Proof.Machine
end

