-- ==== Sys2Proof/Machine/CmdUnits.lean ====
section
/-!
DEFINITION. Machine/CmdUnits.lean: the Control, Drive, Field inputs, Aeration, Field bus, Paths, Cluster, Thermal, Storage and
Service functions (R429 to R444).
-/
namespace Sys2Proof.Machine

/-- The bytes of registers read in order. -/
def regBytes (b : Block) (n : Nat) (a : Nat) : List Byte := leBytes n (b.regs.get a).toNat

/-! ### Control, 0x08 (R429 to R431) -/

/-- TRACE_INFO. -/
def runTraceInfo : Op CmdReply := do
  let b ← blockOp
  answer St.ok (regBytes b 2 R.LOOP_TRCSTAT ++ zeros 2 ++
    (List.range 8).flatMap fun c => regBytes b 2 (R.LOOP_TRCTRIG c) ++ regBytes b 2 (R.LOOP_TRCWR c))

/-- Entry `e` of trace channel `c`, from the staging while it is still there: a recorded sample stays readable (R242). What was never
recorded is free. -/
def traceEntry (l : LoopS) (c e : Nat) : Word :=
  (((l.staged.reverse ++ l.rings).find? fun x => x.1 == c * 65536 + e).map (·.2)).getD (BitVec.ofNat 32 (Config.freeAt "trace entry never recorded" [c, e]))

/-- TRACE_READ (R242, R430). -/
def runTraceRead (i tagw : Nat) (p : List Byte) : Op CmdReply := do
  let l ← loopS
  let c := leAt p 8 1
  let a := leAt p 10 2
  let n := leAt p 12 4
  if headOk p true = false ∨ 7 < c ∨ zeroAt p 9 1 = false ∨ n = 0 ∨ 65536 < n ∨ headLen p ≠ 4 * n then failure St.badParam
  else bulkOut i tagw 0x0802 ((List.range n).flatMap fun k => leBytes 4 (traceEntry l c ((a + k) % 65536)).toNat) 0

/-- A table, a half and two zeros. -/
def halfOk (p : List Byte) : Bool := decide (leAt p 0 1 < 16) && decide (leAt p 1 1 < 2) && zeroAt p 2 2

/-- FTABLE_LOAD: each entry is written through LOOP_FTIDX and LOOP_FTDATA (R236, R431). -/
def runFtableLoad (p : List Byte) : Op CmdReply :=
  if halfOk p = false then failure St.badParam
  else do
    each (fun k => do
      sf F.LOOP_FTIDX_TABLE (leAt p 0 1)
      sf F.LOOP_FTIDX_ENTRY (512 * leAt p 1 1 + k)
      ftWrite (BitVec.ofNat 32 (leAt p (4 + 2 * k) 2))) (List.range 512)
    answer St.ok []

/-- A friction and cogging entry. -/
def ftEntry (l : LoopS) (k : Nat) : Nat := ((l.ft.find? fun x => x.1 == k).map (·.2)).getD 0

/-- FTABLE_READ. -/
def runFtableRead (p : List Byte) : Op CmdReply := do
  let l ← loopS
  if halfOk p = false then failure St.badParam
  else answer St.ok ((List.range 512).flatMap fun k => leBytes 2 (ftEntry l (leAt p 0 1 * 1024 + 512 * leAt p 1 1 + k)))

/-! ### Drive, 0x09 (R432, R433) -/

/-- A register's value through the fabric, 0 while its domain is off (R36); CSTAT is read with its RC fields. -/
def driveReg (clears : Bool) (a : Nat) : Op Nat := do
  let v ← fabricRead clears a
  pure v.2.toNat

/-- A valve entry. -/
def valveEntry (n : Nat) : Op (List Byte) := do
  let st ← driveReg true (R.VDRV_CSTAT n)
  let ft ← driveReg false (R.VDRV_FAULT n)
  let ms ← driveReg false (R.VDRV_MEAS n)
  let tw ← driveReg false (R.VDRV_TW n)
  let cl ← driveReg false (R.VDRV_CLOSET n)
  let rm ← driveReg false (R.VDRV_RMEAS n)
  pure (leBytes 2 st ++ leBytes 1 ft ++ leBytes 1 (bit (bitAt ft 8)) ++ leBytes 2 ms ++ leBytes 2 (ms / 65536) ++ leBytes 2 tw ++
    leBytes 2 (tw / 65536) ++ leBytes 2 cl ++ leBytes 2 rm)

/-- A blower entry. -/
def fanEntry (n : Nat) : Op (List Byte) := do
  let st ← driveReg true (R.FAN_CSTAT n)
  let ft ← driveReg false (R.FAN_FAULT n)
  let ap ← driveReg false (R.FAN_APPLIED n)
  let sp ← driveReg false (R.FAN_SPEED n)
  let ms ← driveReg false (R.FAN_MEAS n)
  let sr ← driveReg false (R.FAN_STRETCH n)
  pure (leBytes 2 st ++ leBytes 1 ft ++ zeros 1 ++ leBytes 2 ap ++ leBytes 2 (ap / 65536) ++ leBytes 2 sp ++ leBytes 2 ms ++
    leBytes 2 (ms / 65536) ++ leBytes 2 sr)

/-- Entries in order. -/
def gather (f : Nat → Op (List Byte)) : List Nat → Op (List Byte)
  | [] => pure []
  | n :: l => do
    let a ← f n
    let r ← gather f l
    pure (a ++ r)

/-- DRIVE_STATUS. -/
def runDriveStatus : Op CmdReply := do
  let v ← gather valveEntry (List.range 32)
  let f ← gather fanEntry (List.range 8)
  answer St.ok (v ++ f)

/-- FAULT_CLEAR: CLRF of each selected channel, valves first (R274, R289, R433). -/
def runFaultClear (p : List Byte) : Op CmdReply :=
  if zeroAt p 5 3 = false then failure St.badParam
  else do
    each (fun n => onlyIf (bitAt (leAt p 0 4) n)
      (opWrite .core (R.VDRV_CMD n) (let m := (F.VDRV_CMD_CLRF n).put 0 1; m ||| (m <<< 16)))) (List.range 32)
    each (fun n => onlyIf (bitAt (leAt p 4 1) n)
      (opWrite .core (R.FAN_CMD n) (let m := (F.FAN_CMD_CLRF n).put 0 1; m ||| (m <<< 16)))) (List.range 8)
    answer St.ok []

/-! ### Field inputs, 0x0A (R434, R435) -/

/-- The entry of a field input. -/
def inputEntry (n : Nat) : Op (List Byte) := do
  let a ← driveReg false (R.AFF_IRES n)
  let b ← driveReg false (R.AFF_IRAW n)
  let c ← driveReg false (R.AFF_IINS n)
  let d ← driveReg false (R.AFF_ILEAD n)
  pure (leBytes 4 a ++ leBytes 4 b ++ leBytes 2 c ++ leBytes 2 d)

/-- INPUT_READ. -/
def runInputRead (p : List Byte) : Op CmdReply :=
  let a := leAt p 0 1
  let n := leAt p 1 1
  if 223 < a ∨ n = 0 ∨ 112 < n ∨ zeroAt p 2 2 = false ∨ 224 < a + n then failure St.badParam
  else do
    let l ← gather inputEntry ((List.range n).map (· + a))
    answer St.ok l

/-- LIN_LOAD (R326). -/
def runLinLoad (i tagw : Nat) (p : List Byte) : Op CmdReply := do
  let u ← units
  let d := slice p 4 128
  if 63 < leAt p 0 1 ∨ zeroAt p 1 3 = false then failure St.badParam
  else if u.nv.commit.isSome then failure St.commitBusy
  else if linCheck d ≠ St.ok then failure (linCheck d)
  else commitNow i tagw (.linearisation (leAt p 0 1)) d []

/-- LIN_READ. -/
def runLinRead (p : List Byte) : Op CmdReply := do
  let u ← units
  if 63 < leAt p 0 1 ∨ zeroAt p 1 3 = false then failure St.badParam
  else do
    let d ← tableBytes 128 (linAt u.aff (leAt p 0 1))
    answer St.ok d

/-- SINE_PASS (R315, R435). -/
def runSinePass : Op CmdReply := do
  let m ← curMode
  if m ≠ modeService then failure St.modeWrong
  else do
    let ok ← sineRequest
    failure (if ok then St.ok else St.actionBusy)

/-! ### Aeration, 0x0B (R436, R437) -/

/-- The data length of transmit object `o`. -/
def objLen (o : Nat) : Op Nat := do
  let fd ← bf (F.FLD_TXCFG_FDF o)
  let d ← gf (F.FLD_TXCFG_DLC o)
  pure (dlcLen fd d)

/-- AER_BIN. -/
def runAerBin (p : List Byte) : Op CmdReply := do
  let n := leAt p 0 1
  let en := bitAt (leAt p 1 1) 0
  let first := leAt p 2 1
  let nodes := leAt p 3 1
  let amb := leAt p 4 1
  let o := leAt p 6 2
  let on := toSigned 16 (leAt p 8 2)
  let off := toSigned 16 (leAt p 10 2)
  let len ← objLen o
  if 15 < n ∨ 1 < leAt p 1 1 ∨ 191 < first ∨ nodes = 0 ∨ 32 < nodes ∨ 223 < amb ∨ zeroAt p 5 1 = false ∨ 192 < first + nodes ∨ on ≤ off then
    failure St.badParam
  else if 255 < o ∨ len < 2 then failure St.fbObj
  else do
    let t ← now
    modU fun u => { u with aer := updAt u.aer n fun b =>
      { b with ran := if b.state = 2 ∧ en = false then b.ran + (t - b.since) else b.ran, en := en, first := first, nodes := nodes, ambient := amb, fan := o, dton := on, dtoff := off, run := leAt p 12 2, shortest := leAt p 14 2, state := if en then (if b.en then b.state else 1) else 0 } }
    answer St.ok []

/-- The entry of an aeration bin: with no valid node there is no highest temperature to state. -/
def aerEntry (n : Nat) : Op (List Byte) := do
  let u ← units
  let b := u.aer.getD n {}
  let fr ← free
  let ns := if b.state = 2 then b.ran + (u.elapsed - b.since) else b.ran
  pure (leBytes 1 b.state ++ leBytes 1 b.valid ++ leBytes 2 (if b.valid = 0 then fr else ofSigned 16 b.high) ++ leBytes 2 (ofSigned 16 b.amb) ++
    leBytes 2 (min 0xFFFF (ns / 60000000000)))

/-- AER_STATUS. -/
def runAerStatus : Op CmdReply := do
  let l ← gather aerEntry (List.range 16)
  answer St.ok l

/-! ### Field bus, 0x0C (R438) -/

/-- The entry of a field bus. -/
def busEntry (n : Nat) : Op (List Byte) := do
  let b ← blockOp
  let st ← gf (F.FLD_BSTAT_STATE n)
  let pa ← gf (F.NET_LSTAT_ACTIVE (n + 1))
  let tec ← gf (F.FLD_BECNT_TEC n)
  let re ← gf (F.FLD_BECNT_REC n)
  pure (leBytes 1 st ++ leBytes 1 pa ++ leBytes 1 (min 255 tec) ++ leBytes 1 re ++ regBytes b 4 (R.FLD_OKCNT n) ++
    regBytes b 4 (R.FLD_FAILCNT n) ++ regBytes b 4 (R.FLD_RXCNT n))

/-- BUS_STATUS. -/
def runBusStatus : Op CmdReply := do
  let l ← gather busEntry (List.range 4)
  answer St.ok l

/-- BUS_RECOVER (R491). -/
def runBusRecover (p : List Byte) : Op CmdReply :=
  if 3 < leAt p 0 1 ∨ zeroAt p 1 3 = false then failure St.badParam
  else do
    let ok ← busRecover (leAt p 0 1)
    failure (if ok then St.ok else St.fbNotbusoff)

/-- OBJ_WRITE (R481). -/
def runObjWrite (p : List Byte) : Op CmdReply := do
  let o := leAt p 0 2
  let n := leAt p 2 1
  let len ← objLen o
  if 64 < n ∨ zeroAt p 3 1 = false then failure St.badParam
  else if 255 < o then failure St.fbObj
  else if len < n then failure St.badParam
  else do
    objPut o (slice p 4 n) false
    answer St.ok []

/-! ### Paths, 0x0D (R439) -/

/-- Whether session record `i` is the Dealer's (R509). -/
def isDealer (i : Nat) : Op Bool := do
  let s ← getSess i
  let k ← gf F.NET_DEALER_KIND
  let sl ← gf F.NET_DEALER_SLOT
  pure (k == 1 && s.st == .opened && !s.observer && s.slot == sl)

/-- VERDICT (R510, R511). -/
def runVerdict (i : Nat) (p : List Byte) : Op CmdReply := do
  let l := leAt p 0 1
  let ok ← isDealer i
  let head ← isHead
  if 5 < l ∨ 1 < leAt p 1 1 ∨ 1 < leAt p 2 1 ∨ zeroAt p 3 1 = false then failure St.badParam
  else if ok = false ∨ (l = 5 ∧ head = false) then failure St.notDealer
  else do
    verdictTake l (leAt p 1 1) (leAt p 2 1 == 1) (leAt p 4 4)
    answer St.ok []

/-- SHUFFLE_NOW (R518, R439). -/
def runShuffleNow (p : List Byte) : Op CmdReply := do
  let l := leAt p 0 1
  let busy ← linkBusy l
  if 5 < l ∨ zeroAt p 1 3 = false then failure St.badParam
  else if busy then failure St.actionBusy
  else do
    shuffle l
    answer St.ok []

/-- The entry of a link. -/
def linkEntry (l : Nat) : Op (List Byte) := do
  let b ← blockOp
  let a ← gf (F.NET_LSTAT_ACTIVE l)
  let s ← gf (F.NET_LSTAT_STBY l)
  let va ← gf (F.NET_LSTAT_VA l)
  let vb ← gf (F.NET_LSTAT_VB l)
  pure (leBytes 1 a ++ leBytes 1 s ++ leBytes 1 va ++ leBytes 1 vb ++ regBytes b 4 (R.NET_SWCNT l) ++ regBytes b 4 (R.NET_LASTGAP l))

/-- PATH_STATUS. -/
def runPathStatus : Op CmdReply := do
  let l ← gather linkEntry (List.range 6)
  answer St.ok l

/-! ### Cluster, 0x0E (R440) -/

/-- The entry of ring address `n + 1`: what its last slot said (R531); the module's own is its own. The head
finds the disagreements; a member shows those of its own view of the slots, but for the mode's. -/
def memberEntry (n : Nat) : Op (List Byte) := do
  let b ← blockOp
  let own ← gf F.RNG_STAT_ADDR
  let cur ← curMode
  let dis ← gf (F.RNG_MSTAT_DISAGREE n)
  let g := b.u.rng
  let st := g.states.getD n 0
  let s := (g.peers.getD n {}).slot
  let x : Nat × Nat × Nat :=
    if n + 1 = own then (cur, (b.regs.get R.RNG_CHASH).toNat, (b.regs.get R.SYS_FWVER).toNat) else (leAt s 1 1, leAt s 8 4, leAt s 12 4)
  let d := if own = 1 then dis else if st = rsMember then settingsDiffer g (n + 1) + 4 * bit (bitAt (leAt s 2 1) 3) else 0
  pure (leBytes 1 (n + 1) ++ leBytes 1 st ++ leBytes 1 x.1 ++ leBytes 1 d ++ leBytes 4 x.2.1 ++ leBytes 4 (x.2.2 % 2 ^ 24))

/-- CLUSTER_STATUS. -/
def runClusterStatus : Op CmdReply := do
  let own ← gf F.RNG_STAT_ADDR
  let pr ← gf F.RNG_PRESENT_PRESENT
  let l ← gather memberEntry (List.range 8)
  answer St.ok (leBytes 1 own ++ leBytes 1 ((List.range 8).filter fun k => bitAt pr k).length ++ zeros 2 ++ l)

/-- REJOIN (R550). -/
def runRejoin (i tagw : Nat) (p : List Byte) : Op CmdReply :=
  let a := leAt p 0 1
  if a < 2 ∨ 8 < a ∨ zeroAt p 1 3 = false then failure St.badParam
  else do
    let r ← rejoinAsk a (i, tagw)
    match r with
    | none => later
    | some st => failure st

/-! ### Thermal, 0x0F (R441) -/

/-- TEMP_READ: it completes at the end of the conversion that it starts or joins (R579, R580). -/
def runTempRead (i tagw : Nat) : Op CmdReply := do
  modU fun u => { u with thm := { u.thm with reads := u.thm.reads ++ [(i, tagw)] } }
  thermalDemand
  later

/-- THROTTLE_ACK. -/
def runThrottleAck (p : List Byte) : Op CmdReply :=
  let k := leAt p 0 1
  if k = 0 ∨ 3 < k ∨ zeroAt p 1 3 = false then failure St.badParam
  else do
    let ok ← throttleAck k
    failure (if ok then St.ok else St.thrNoask)

/-! ### Storage, 0x10 (R442, R443) -/

/-- FW_LOAD. -/
def runFwLoad (i tagw : Nat) (p : List Byte) : Op CmdReply :=
  let l := headLen p
  if headOk p false = false ∨ l % 4096 ≠ 0 ∨ l < 1048576 ∨ 67108864 < l then failure St.badParam
  else bulkCommit i tagw 0x1001 l .firmware

/-- Twelve bytes on a pair of banks. -/
def pairBytes2 (sel : Nat) (banks : List NvBank) (version : List Byte → Nat) : List Byte :=
  let o := banks.getD (1 - sel) {}
  leBytes 1 sel ++ leBytes 1 o.state ++ zeros 2 ++ leBytes 4 (version (banks.getD sel {}).data) ++ leBytes 4 (version o.data)

/-- BANK_STATE. -/
def runBankState : Op CmdReply := do
  let k ← journalStep
  let u ← units
  answer St.ok (pairBytes2 u.nv.fwSel u.nv.fw imageVersion ++ pairBytes2 u.nv.matSel u.nv.mat imageMatId ++ leBytes 1 ((u.nv.commit.map fun c => kindOf c.obj).getD 0) ++
    leBytes 1 k ++ zeros 2)

/-- BANK_SELECT (R443, R614). -/
def runBankSelect (i tagw : Nat) (p : List Byte) : Op CmdReply := do
  let u ← units
  let k := leAt p 0 1
  let o : NvBank := if k = 1 then u.nv.fw.getD (1 - u.nv.fwSel) {} else u.nv.mat.getD (1 - u.nv.matSel) {}
  if k = 0 ∨ 2 < k ∨ zeroAt p 1 3 = false then failure St.badParam
  else if u.nv.commit.isSome then failure St.commitBusy
  else if o.state ≠ 1 then failure St.bankEmpty
  else do
    bankSelect (if k = 1 then .selectFirmware else .selectMatrix) (some (i, tagw))
    later

/-- POOL_STATUS: the lowest counts start again (R443). -/
def runPoolStatus : Op CmdReply := do
  let u ← units
  let k ← gf F.POOL_KFREE_FREE
  let t ← gf F.POOL_TFREE_FREE
  let n ← rd R.POOL_NOBUFCNT
  modU fun u => { u with pool := { u.pool with statKLow := k, statTLow := t } }
  answer St.ok (leBytes 2 k ++ leBytes 2 (min k u.pool.statKLow) ++ leBytes 2 t ++ leBytes 2 (min t u.pool.statTLow) ++ leBytes 4 n.toNat)

/-! ### Service, 0x11 (R444) -/

/-- SAFE_STATUS. -/
def runSafeStatus : Op CmdReply := do
  let n ← rd R.SAFE_HBCNT
  let h ← gf F.SAFE_CTL_HOLDREQ
  let l ← gf F.SAFE_STATE_LAPSED
  answer St.ok (leBytes 4 n.toNat ++ leBytes 1 h ++ leBytes 1 l ++ zeros 2)

end Sys2Proof.Machine
end

