-- ==== Sys2Proof/Machine/Bulk.lean ====
section
/-!
DEFINITION. Machine/Bulk.lean: the packets of bulk transfers (R390 to R393): data into the module with its checks and commits
(R403, R414, R417, R418, R443), windows from the host, and the two timeouts.
-/
namespace Sys2Proof.Machine

/-- The status of a firmware image's checks (R442): the spec does not give the image's layout, so the outcome is free. -/
def firmwareCheck (d : List Byte) : Nat :=
  match Config.freeAt "firmware image check" [d.length, crc32 d] % 3 with
  | 0 => St.ok
  | 1 => St.fwFormat
  | _ => St.fwCrc

/-- The check of whole data that arrived for opcode `op`. -/
def dataCheck (op : Nat) (d : List Byte) : Op Nat :=
  match op with
  | 0x0401 => do
    let busy ← tomoRunning
    pure (if geomCheck d = St.ok ∧ busy = true then St.tomoRunning else geomCheck d)
  | 0x0404 => pure (calCheck d)
  | 0x0501 => pure (if Mat.headCheck d d.length ≠ St.ok then Mat.headCheck d d.length else if Mat.headOk d && Mat.dataOk d then St.ok else St.matCrc)
  | 0x0505 => pure (Ref.check d)
  | _ => pure (firmwareCheck d)

/-- The data of a transfer are refused: it ends, and so does its commit. -/
def bulkRefuse (i tagw status : Nat) : Op Unit := do
  bulkResume i tagw
  modSess i fun s => { s with bulk := s.bulk.filter fun b => tagOf b.tagw ≠ tagOf tagw }
  let u ← units
  match commitOf u i tagw with
  | some c => commitRefuse c status
  | none => completeTag i tagw status []

/-- All data of a transfer have arrived: checked, they pass to the read-back of the commit (R393). -/
def bulkArrived (i tagw op : Nat) (d : List Byte) : Op Unit := do
  let st ← dataCheck op d
  if st = St.ok then do
    bulkResume i tagw
    modSess i fun s => { s with bulk := s.bulk.filter fun b => tagOf b.tagw ≠ tagOf tagw }
    commitData d
  else bulkRefuse i tagw st

/-- BULKWIN: ACKED, and a LIMIT of one window more (R391). -/
def bulkWin (i tagw : Nat) : Op Unit := do
  modBulk i tagw fun b => { b with limit := b.acked + bulkWindow, run := 0 }
  let s ← getSess i
  match bulkOf s tagw with
  | none => pure ()
  | some b => bulkSend i 5 b.tagw b.opcode (leBytes 4 b.acked ++ leBytes 4 b.limit ++ zeros 4)

/-- Whether a BULKDATA packet has the form of R390. -/
def bulkForm (len offset : Nat) (last : Bool) (n : Nat) : Bool :=
  decide (offset % bulkUnit = 0) &&
    (if offset + bulkUnit < len then decide (n = bulkUnit) && !last else decide (offset + n = len) && last)

/-- Data from offset `n` on with what was received ahead of it, as far as it goes without a gap (R391). -/
def bulkJoin (ahead : List (Nat × List Byte)) : Nat → Nat → List Byte
  | 0, _ => []
  | k + 1, n =>
    match ahead.find? fun x => x.1 = n with
    | none => []
    | some x => x.2 ++ bulkJoin ahead k (n + x.2.length)

/-- A packet of a transfer into the module comes before the one it follows: it is kept, and the gap is told; a duplicate of one that is
kept already is ignored (R391). -/
def bulkKeep (i : Nat) (b : Bulk) (offset : Nat) (data : List Byte) : Op Unit :=
  if b.ahead.any (fun x => x.1 = offset) then pure ()
  else do
    let t ← now
    bulkResume i b.tagw
    modBulk i b.tagw fun b => { b with waitSince := some t, ahead := b.ahead ++ [(offset, data)] }
    bulkWin i b.tagw

/-- The data of a transfer into the module, in order, with those received beyond a gap that they close. After every 16 packets, the one
that ends the data among them, a BULKWIN leaves (R391); the count starts again at each BULKWIN (DESIGN CHOICE, assumption log 104). -/
def bulkTake (i : Nat) (b : Bulk) (data : List Byte) : Op Unit := do
  let t ← now
  let more := bulkJoin b.ahead b.ahead.length (b.acked + data.length)
  let d := b.data ++ data ++ more
  let n := b.acked + data.length + more.length
  let run := b.run + 1 + (b.ahead.filter fun x => decide (b.acked ≤ x.1 ∧ x.1 < n)).length
  bulkResume i b.tagw
  modBulk i b.tagw fun b => { b with data := d, acked := n, run := run, waitSince := some t, ahead := b.ahead.filter fun x => decide (n ≤ x.1) }
  onlyIf (decide (16 ≤ run)) (bulkWin i b.tagw)
  let first := b.opcode == 0x0501 && decide (b.acked < 4096 ∧ 4096 ≤ n)
  if first && Mat.headCheck (d.take 4096) b.len != St.ok then bulkRefuse i b.tagw (Mat.headCheck (d.take 4096) b.len)
  else onlyIf (decide (b.len ≤ n)) (bulkArrived i b.tagw b.opcode d)

/-- A transfer of a tag in a direction. -/
def bulkDir (s : Session) (tagw : Nat) (out : Bool) : Option Bulk := (bulkOf s tagw).filter fun b => b.out == out

/-- A bulk packet that names session record `i`, by the tests of R360 and R361: one of a record not yet open is discarded. Answers
whether it is taken. -/
def packetOpen (i : Nat) (h : Hdr) : Op Bool := do
  let s ← getSess i
  let ok ← packetTaken i h.ip h.port h.seq
  onlyIf (ok && s.st == .pending) dropFrame
  pure (ok && s.st != .pending)

/-- BULKDATA (R390, R391): for a tag with no transfer it is discarded once it is taken (R360). -/
def opBulkdata (h : Hdr) (offset : Nat) (last : Bool) (data : List Byte) : Op Unit := received do
  let u ← units
  match findSess u.cmd.sessions h.session with
  | none => dropFrame
  | some i => do
    let ok ← packetOpen i h
    onlyIf ok
      (match bulkDir (u.cmd.sessions.getD i {}) h.tagw false with
      | none => dropFrame
      | some b =>
        if bulkForm b.len offset last data.length = false ∨ b.limit ≤ offset ∨ offset < b.acked then pure ()
        else if b.acked < offset then bulkKeep i b offset data
        else bulkTake i b data)

/-- A BULKWIN of the host that has a buffer. -/
def bulkwinTake (h : Hdr) (acked limit : Nat) : Op Unit := do
  let u ← units
  match findSess u.cmd.sessions h.session with
  | none => dropFrame
  | some i => do
    let ok ← packetOpen i h
    onlyIf ok
      (match bulkDir (u.cmd.sessions.getD i {}) h.tagw true with
      | none => dropFrame
      | some b => do
        let a := max b.acked (min acked b.len)
        let l := max b.limit limit
        onlyIf (decide (b.limit < l)) (bulkResume i b.tagw)
        modBulk i b.tagw fun b => { b with acked := a, limit := l, limitSince := if b.limit < l then none else b.limitSince }
        if b.len ≤ a then bulkEnd i b.tagw St.ok else bulkPump i b.tagw)

/-- BULKWIN from the host (R391, R393): a datagram that takes its buffer like any other (R558), and is discarded without one (R565). -/
def opBulkwin (h : Hdr) (acked limit : Nat) : Op Unit := received do
  let b ← poolTake Client.host (frameBufs 12)
  if b.isNone then dropFrame
  else do
    bulkwinTake h acked limit
    poolGive b

/-- BULK_RESEND_TIMEOUT: LIMIT has not advanced for 2 ms: sending starts again from ACKED (R391). -/
def opBulkResendTimeout (i tag : Nat) : Op Unit := do
  let t ← now
  let s ← getSess i
  match bulkDir s tag true with
  | none => pure ()
  | some b =>
    let due : Bool := match b.limitSince with
      | none => false
      | some x => decide (x + 2000000 ≤ t)
    onlyIf due do
      modBulk i tag fun b => { b with next := b.acked / bulkUnit * bulkUnit, limitSince := none }
      bulkPump i tag

/-- BULK_TIMEOUT: the module has waited CMD_BULKTO ms for the host (R392). -/
def opBulkTimeout (i tag : Nat) : Op Unit := do
  let t ← now
  let n ← gf F.CMD_BULKTO_T
  let s ← getSess i
  match bulkOf s tag with
  | none => pure ()
  | some b =>
    let due : Bool := match b.waitSince with
      | none => false
      | some x => decide (x + max 1 n * 1000000 ≤ t)
    onlyIf due (bulkEnd i tag St.bulkTimeout)

end Sys2Proof.Machine
end

