-- ==== Sys2Proof/Machine/Intake.lean ====
section
/-!
DEFINITION. Machine/Intake.lean: what happens to a command packet (R359 to R362, R379 to R384): its buffer, the tests of its
session, BUSY, retries, the checks before its function, and its function, now or once its core runs; the last-buffer contest
(R563); and the cores' restarts (R25, R32).
-/
namespace Sys2Proof.Machine

/-! ### Functions (R28) -/

/-- The command of session record `i` with tag word `tagw`: opcode `op`, payload `p`. -/
def runCommand (i tagw op : Nat) (p : List Byte) : Op CmdReply :=
  match op with
  | 0x0001 => runGetInfo
  | 0x0002 => runModeReq i tagw p
  | 0x0003 => runReset p
  | 0x0102 => runProve i tagw p
  | 0x0104 => runClose i tagw
  | 0x0105 => runPing
  | 0x0106 => runRevoke i p
  | 0x0107 => runEvmask i p
  | 0x0201 => runRead p
  | 0x0202 => runWrite i p
  | 0x0203 => runReadBlock p
  | 0x0204 => runWriteBlock i p
  | 0x0205 => runReadList p
  | 0x0301 => runSnapshot
  | 0x0302 => runTimeSet p
  | 0x0303 => runAlarmSet p
  | 0x0304 => runAlarmClear p
  | 0x0401 => runGeomLoad i tagw p
  | 0x0402 => runGeomRead i tagw p
  | 0x0403 => runCalSweep
  | 0x0404 => runCalLoad i tagw p
  | 0x0405 => runCalRead i tagw p
  | 0x0406 => runRangeSave i tagw
  | 0x0407 => runRangeRead i tagw p
  | 0x0408 => runFrameRead i tagw p
  | 0x0501 => runMatLoad i tagw p
  | 0x0502 => runMatInfo
  | 0x0503 => runModelLoad i tagw p
  | 0x0504 => runModelRead p
  | 0x0505 => runRefLoad i tagw p
  | 0x0506 => runRefRead i tagw p
  | 0x0507 => runCaptureStart p
  | 0x0508 => runCaptureEnd i tagw
  | 0x0509 => runAnchor p
  | 0x050A => runMapSummary p
  | 0x050B => runMapRead i tagw p
  | 0x0601 => runLotOpen p
  | 0x0602 => runLotClose i p
  | 0x0603 => runLotRead i p
  | 0x0604 => runLotWrite i p
  | 0x0605 => runParcelRead i p
  | 0x0606 => runParcelWrite i p
  | 0x0607 => runLock i p
  | 0x0608 => runUnlock i p
  | 0x0609 => runParcelDump i tagw p
  | 0x060A => runArchRead i tagw p
  | 0x0701 => runPlanStatus
  | 0x0801 => runTraceInfo
  | 0x0802 => runTraceRead i tagw p
  | 0x0803 => runFtableLoad p
  | 0x0804 => runFtableRead p
  | 0x0901 => runDriveStatus
  | 0x0902 => runFaultClear p
  | 0x0A01 => runInputRead p
  | 0x0A02 => runLinLoad i tagw p
  | 0x0A03 => runLinRead p
  | 0x0A04 => runSinePass
  | 0x0B01 => runAerBin p
  | 0x0B02 => runAerStatus
  | 0x0C01 => runBusStatus
  | 0x0C02 => runBusRecover p
  | 0x0C03 => runObjWrite p
  | 0x0D01 => runVerdict i p
  | 0x0D02 => runShuffleNow p
  | 0x0D03 => runPathStatus
  | 0x0E01 => runClusterStatus
  | 0x0E02 => runRejoin i tagw p
  | 0x0F01 => runTempRead i tagw
  | 0x0F02 => runThrottleAck p
  | 0x1001 => runFwLoad i tagw p
  | 0x1002 => runBankState
  | 0x1003 => runBankSelect i tagw p
  | 0x1004 => runPoolStatus
  | 0x1101 => runSafeStatus
  | _ => failure St.badOpcode

/-- The status with which an accepted command completes at once, before its function (R384); `none` where its function starts. -/
def preCheck (s : Session) (tagw op : Nat) (p : List Byte) : Option Nat :=
  match opInfo op with
  | none => some St.badOpcode
  | some f =>
    if classOf tagw ≠ f.cls then some St.badClass
    else if lengthOk op p = false then some St.badLength
    else if f.obs = .outside ∨ (f.obs = .pending ∧ s.st ≠ .pending) ∨ (s.observer = true ∧ f.obs ≠ .yes) then some St.denied
    else none

/-! ### Queues of commands not yet started (R381, R567) -/

/-- Commands that a function holds and has not started. -/
def intakeCount (u : Units) (fn : Nat) : Nat :=
  (u.cmd.sessions.map fun s => (s.tags.filter fun t => !t.started && !t.done && t.opcode / 256 == fn).length).sum + (if fn = 1 then u.cmd.early.length else 0)

/-- Whether a function's queue is at its limit. -/
def intakeFull (u : Units) (fn : Nat) : Bool := decide (32 ≤ intakeCount u fn)

/-- POOL_QSTAT shows whether any function's queue is at its limit. -/
def intakeShow (fn : Nat) : Op Unit := do
  let u ← units
  if intakeFull u fn then levelFull 5
  else onlyIf ((List.range 18).all fun f => !intakeFull u f) (levelFree 5)

/-! ### The last-buffer contest (R563) -/

/-- The client that asks. -/
def rivalClient : Rival → Nat
  | .engine _ _ => Client.engine
  | .request _ _ _ => Client.fieldBus
  | .ring _ _ => Client.ring
  | .firmware _ _ => Client.firmware

/-- The sessions for which an event asks for a buffer: open, with its bit in the mask, and with room in their queue, or in the ring's for
an event of the ring (R567). -/
def eventNeed (u : Units) (ring : Bool) (code : Nat) : Nat :=
  (u.cmd.sessions.filter fun s =>
    s.st == .opened && bitAt s.evMask code && decide (if ring then ringLevel u < 32 else eventsWaiting s < 64)).length

/-- Whether bus `b` asks for a buffer for a request of `node`: it takes requests and frames, and no response to the node waits. -/
def requestAsks (x : Block) (b node : Nat) (d : List Byte) : Bool :=
  let f (r : RF) : Nat := r.of (x.regs.get r.reg)
  decide (b < 4 ∧ 1 ≤ node ∧ node ≤ 62 ∧ d.length = 16 ∧ f (F.FLD_LEDG_EN b) = 1 ∧ f (F.FLD_BSTAT_STATE b) ≤ busPassive) &&
    !(x.u.net.links.getD (b + 1) {}).gap && !replyWaits (x.u.fld.buses.getD b {}) node

/-- The buffers that it asks for, by what stands at the start of the cycle: none for a code that the module never sends (R445). -/
def rivalNeed (x : Block) (r : Rival) : Nat :=
  match r with
  | .engine code _ | .firmware code _ => if r.listed then eventNeed x.u false code else 0
  | .ring code _ => if r.listed then eventNeed x.u true code else 0
  | .request b node d => bit (requestAsks x b node d)

/-- Whether the link of client `c` takes `k` buffers from its recovery, so that they do not reach the Kitty (R522). -/
def recovers (x : Block) (c k : Nat) : Bool :=
  match clientLink c with
  | none => false
  | some l =>
    let n := x.u.net.links.getD l {}
    n.flush && decide (x.u.pool.recovery.getD l 0 + k ≤ n.ent ∧ k ≤ F.POOL_TFREE_FREE.of (x.regs.get R.POOL_TFREE))

/-- What client `c` asks of the Kitty in a cycle of `n` buffers: what neither its recovery nor its private pool holds. -/
def kittyNeed (x : Block) (c n : Nat) : Nat :=
  if recovers x c n then 0 else n - (x.u.pool.priv.getD c 0 - x.u.pool.privUsed.getD c 0)

/-- The request of another client is served or refused, and what it asks for follows (R563, R565). -/
def rivalRuns (many : Bool) (r : Rival) : Op Unit :=
  match r with
  | .engine code d => onlyIf r.listed (raiseBy (poolBeside many Client.engine 1) Client.engine code d)
  | .request b node d => requestTake (poolBeside many Client.fieldBus 1) b node d
  | .ring code d => onlyIf r.listed (raiseBy (poolBeside many Client.ring 1) Client.ring code d)
  | .firmware code d => onlyIf r.listed (raiseBy (poolBeside many Client.firmware 1) Client.firmware code d)

/-- The requests of a client. -/
def rivalsOf (l : List Rival) (c : Nat) : List Rival := l.filter fun x => rivalClient x == c

/-- The reservation of a command's completion, with the requests of other clients in its arbiter cycle, in the clients' order (R558, R562,
R563). -/
def reserveWith (k : Nat) (l : List Rival) : Op (Option BufRef) := do
  let x ← blockOp
  let f ← gf F.POOL_KFREE_FREE
  let host := if recovers x Client.host k || privHolds x.u Client.host k then 0 else k
  let needs := host :: [Client.engine, Client.fieldBus, Client.ring, Client.firmware].map fun c =>
    kittyNeed x c ((rivalsOf l c).map (rivalNeed x)).sum
  let many := decide (f < needs.sum) && decide (1 < (needs.filter (0 < ·)).length)
  each (rivalRuns many) (rivalsOf l Client.engine ++ rivalsOf l Client.fieldBus ++ rivalsOf l Client.ring)
  let r ← poolBeside many Client.host k
  each (rivalRuns many) (rivalsOf l Client.firmware)
  pure r

/-! ### Starting and ending -/

/-- The command of a tag starts: its function runs (R30), and its ACK or its completion leaves (R380). One that has started or was
revoked meanwhile (R389) does not. -/
def startTag (i tagw : Nat) : Op Unit := do
  let s ← getSess i
  match tagIn s tagw with
  | none => pure ()
  | some t => onlyIf (!t.started && !t.done) do
    let b ← recoveryBack t.intake
    modTag i tagw fun t => { t with started := true, intake := b }
    let r ← runCommand i t.tagw t.opcode t.body
    match r with
    | some x => completeTag i t.tagw x.1 x.2
    | none => ackOnce i t.tagw

/-- An outstanding command ends before its end: a transfer stops, and whatever it waited for is served no more (R25, R32). -/
def endTag (i status : Nat) (t : OutTag) : Op Unit := do
  let s ← getSess i
  if (bulkOf s t.tagw).isSome then bulkEnd i t.tagw status
  else do
    dropServes fun x => x.1 == i && tagOf x.2 == tagOf t.tagw
    endWith i status t

/-- A BUSY answer (R381). -/
def busy (i tagw op status : Nat) (b : BufRef) : Op Unit := do
  cntSat F.CMD_BUSYCNT_CNT 1
  sb F.CMD_STAT_BUSYSENT true
  sendAck i tagw op status
  poolGive (some b)

/-- Whether an opcode is of class D. -/
def isBulk (op : Nat) : Bool :=
  match opInfo op with
  | none => false
  | some f => f.cls == Cls.d

/-- The first BUSY cause that holds before a buffer is asked for (R381). -/
def busyCause (u : Units) (s : Session) (op : Nat) : Option Nat :=
  if s.grant ≤ s.tags.length then some St.busyCredit
  else if isBulk op && s.tags.any fun t => !t.done && isBulk t.opcode && bulkInward t.opcode == bulkInward op then some St.busyBulk
  else if intakeFull u (op / 256) then some St.busyIntake
  else none

/-- The place of the next command in the order of acceptance (R30). -/
def acceptNext : Op Nat := do
  let u ← units
  modCmd fun c => { c with accepted := c.accepted + 1 }
  pure u.cmd.accepted

/-- A command is taken as new (R381, R384): BUSY, or accepted, with the completion of R384 or its function. -/
def commandNew (i tagw op : Nat) (p : List Byte) (b : BufRef) (rivals : List Rival) : Op Unit := do
  let u ← units
  let s ← getSess i
  let t ← now
  match busyCause u s op with
  | some st => busy i tagw op st b
  | none => do
    let k := frameBufs (match opInfo op with | none => 0 | some f => f.reply)
    let r ← reserveWith k rivals
    match r with
    | none => busy i tagw op St.busyNobuf b
    | some r => do
      let n ← acceptNext
      let o : OutTag := { tagw := tagw, opcode := op, acked := false, started := false, body := p, recvAt := t, intake := some b, reserve := some r, order := n }
      modSess i fun s => { s with tags := s.tags ++ [o] }
      let up ← coreUp (coreOf (op / 256))
      match preCheck s tagw op p with
      | some st => endWith i st o
      | none =>
        if up then startTag i tagw
        else do
          ackOnce i tagw
          intakeShow (op / 256)

/-- A command of session record `i` is taken (R382). -/
def commandTaken (i op : Nat) (h : Hdr) (p : List Byte) (b : BufRef) (rivals : List Rival) : Op Unit := do
  let s ← getSess i
  let tagw := classOf h.tagw * 8192 + tagOf h.tagw
  match tagIn s tagw, s.held.find? fun x => x.tag == tagOf tagw with
  | some t, _ =>
    if h.retry then do
      sendAck i t.tagw t.opcode St.ok
      poolGive (some b)
    else busy i tagw op St.busyTag b
  | none, some x =>
    if h.retry then do
      sendStamped x.pkt.wt i 3 x.pkt.tagw x.pkt.opcode x.pkt.status x.pkt.payload none false none none
      poolGive (some b)
    else do
      poolGive x.bufs
      modSess i fun s => { s with held := s.held.filter fun x => x.tag ≠ tagOf tagw }
      commandNew i tagw op p b rivals
  | none, none => commandNew i tagw op p b rivals

/-! ### Session 0x0000 (R365, R369, R384) -/

/-- A packet to an address outside any session: SESSION 0x0000 and a SEQUENCE that no rule states. While the port cannot send it, it
waits (R380, R383), an ACK in the ACK staging (assumption log 106). -/
def outsideSend (ip port kind tagw op status : Nat) (payload : List Byte) (bufs : Option BufRef) (deadline : Option Nat) : Op Unit := do
  let ok ← canSend ip
  let hop ← nextHop ip
  let q ← free
  let w ← wallTime
  let t ← now
  let u ← units
  let room ← ackRoom
  let p : Pkt := ⟨ip, port, hop, kind, 0, q % 2 ^ 32, tagw, op, status, payload, w % 2 ^ 64⟩
  if kind == 2 && !room then pure ()
  else if ok && u.cmd.outq.isEmpty then do
    emitPkt p
    lateCheck deadline
    poolGive bufs
  else modCmd fun c => { c with outq := c.outq ++ [⟨p, t, bufs, false, deadline, none⟩] }

/-- An opening runs, and its completion leaves (R365, R369, R387). -/
def outsideRun (e : EarlyCmd) : Op Unit := do
  let b ← recoveryBack e.intake
  let r ← (if e.opcode = 0x0101 then runOpenControl e.ip e.port e.body else runOpenObserver e.ip e.port e.body : Op (Nat × List Byte))
  poolGive b
  outsideSend e.ip e.port 3 e.tagw e.opcode r.1 r.2 e.reserve (some (e.recvAt + 2000000))

/-- A command outside any session: an opening, or a packet that names no session (R360). -/
def outsideCommand (h : Hdr) (op : Nat) (p : List Byte) (b : BufRef) : Op Unit := do
  let tagw := classOf h.tagw * 8192 + tagOf h.tagw
  let t ← now
  let u ← units
  if op ≠ 0x0101 ∧ op ≠ 0x0103 then do
    dropFrame
    poolGive (some b)
  else do
    cntWrap F.CMD_RXCNT_CNT 1
    let refuse (st : Nat) : Op Unit := do
      cntSat F.CMD_BUSYCNT_CNT 1
      sb F.CMD_STAT_BUSYSENT true
      outsideSend h.ip h.port 2 tagw op st [] none none
      poolGive (some b)
    if intakeFull u 1 then refuse St.busyIntake
    else do
      let k := frameBufs (match opInfo op with | none => 0 | some f => f.reply)
      let r ← poolTake Client.host k
      match r with
      | none => refuse St.busyNobuf
      | some r => do
        let n ← acceptNext
        let e : EarlyCmd := { ip := h.ip, port := h.port, tagw := tagw, opcode := op, body := p, recvAt := t, intake := some b, reserve := some r, order := n }
        let up ← coreUp 0
        if classOf tagw ≠ Cls.b ∨ lengthOk op p = false then do
          outsideSend h.ip h.port 3 tagw op (if classOf tagw ≠ Cls.b then St.badClass else St.badLength) [] (some r) (some (t + 2000000))
          poolGive (some b)
        else if up then outsideRun e
        else do
          modCmd fun c => { c with early := c.early ++ [e] }
          outsideSend h.ip h.port 2 tagw op St.ok [] none none
          intakeShow 1

/-! ### Packets -/

/-- A command packet arrives, with what other clients ask of the pools in the cycle of its reservation (R360 to R362, R565). -/
def commandArrives (h : Hdr) (op : Nat) (p : List Byte) (rivals : List Rival) : Op Unit := received do
  let b ← poolTake Client.host (frameBufs p.length)
  let u ← units
  match b with
  | none => dropFrame
  | some b =>
    if h.session = 0 then outsideCommand h op p b
    else
      match findSess u.cmd.sessions h.session with
      | none => do
        dropFrame
        poolGive (some b)
      | some i => do
        let pending := (u.cmd.sessions.getD i {}).st == .pending
        let ok ← packetTaken i h.ip h.port h.seq
        if ok = false then poolGive (some b)
        else if pending && op != 0x0102 then do
          dropFrame
          poolGive (some b)
        else do
          onlyIf pending (modSess i fun s => { s with h := h.seq % 2 ^ 32 })
          cntWrap F.CMD_RXCNT_CNT 1
          commandTaken i op h p b rivals

/-- A command packet with nothing else in its arbiter cycle. -/
def hostCommand (h : Hdr) (op : Nat) (p : List Byte) : Op Unit := commandArrives h op p []

/-! ### Core restarts (R25, R32, R338) -/

/-- The outstanding commands of a core's functions, with their session records. -/
def tagsOf (u : Units) (k : Nat) (only : OutTag → Bool) : List (Nat × OutTag) :=
  u.cmd.sessions.zipIdx.flatMap fun x => (x.1.tags.filter fun t => !t.done && coreOf (t.opcode / 256) == k && only t).map fun t => (x.2, t)

/-- CC_WATCHDOG_EXPIRY: command core `k` restarts, and its outstanding commands complete with CORE_RESTART (R32). -/
def opCcWatchdogExpiry (k : Nat) : Op Unit := do
  let up ← coreUp k
  let u ← units
  onlyIf (up && decide (k < 4)) do
    coreDown k
    each (fun (x : Nat × OutTag) => endTag x.1 St.coreRestart x.2) (tagsOf u k fun _ => true)

/-- What a core still has to start, with its place in the order of acceptance. -/
abbrev Waiting := Nat × Op Unit

/-- Inserts what waits by its place. -/
def waitInsert (w : Waiting) : List Waiting → List Waiting
  | [] => [w]
  | x :: l => if w.1 < x.1 then w :: x :: l else x :: waitInsert w l

/-- What a core has to start, in the order of acceptance (R30). -/
def waiting (u : Units) (k : Nat) : List Waiting :=
  let tags : List Waiting := (tagsOf u k fun t => !t.started).map fun x => (x.2.order, startTag x.1 x.2.tagw)
  let early : List Waiting := if k = 0 then u.cmd.early.map fun e => (e.order, outsideRun e) else []
  (early ++ tags).foldl (fun l w => waitInsert w l) []

/-- A core that runs starts what waited for it. -/
def startWaiting (k : Nat) : Op Unit := do
  let u ← units
  onlyIf (k == 0) (modCmd fun c => { c with early := [] })
  each (fun (w : Waiting) => w.2) (waiting u k)
  levelFree 5
  each intakeShow (List.range 18)

/-- CORE_RESTART_COMPLETE: core `k` runs again; RT1 raises the MODE_HOLD it owes (R338). -/
def opCoreRestartComplete (k : Nat) : Op Unit := do
  let up ← coreUp k
  let u ← units
  onlyIf (!up && decide (k < 6) && u.sys.started) do
    sbit R.SYS_CORESTAT k true
    onlyIf (decide (k < 4)) (startWaiting k)
    onlyIf (k == 5) verdictsOwed
    onlyIf (k == 5) (each (fun _ => thermalDemand) (List.range u.thm.owed))
    onlyIf (k == 4 && (u.reco.hand.any fun h => h.poisoned || h.stopped)) (handDrop (u.reco.hand.any fun h => h.poisoned))
    onlyIf (k == 5 && u.sys.holdEventOwed) do
      let c ← rd R.SYS_HOLDCAUSE
      let h ← gf F.SYS_MODE_HFROM
      modSys fun s => { s with holdEventOwed := false }
      raise Ev.modeHold (leBytes 2 c.toNat ++ leBytes 1 h ++ zeros 1)
    onlyIf (k == 5) asksTake

/-- CORES_START (R346): the six cores run, and what waited for them starts. -/
def opCoresStart : Op Unit := do
  let u ← units
  onlyIf (startReady u) do
    coresStart kcvOf
    let v ← units
    onlyIf v.sys.started (each startWaiting (List.range 4))

/-! ### Memory read errors (R24, R25) -/

/-- A poisoned word is delivered to a consumer. -/
def poisoned (src : Nat) : Op Unit := do
  cntSat F.SYS_MEMERR_UNCORR 1
  sf F.SYS_MEMERR_LASTSRC src
  raise Ev.memUncorr [BitVec.ofNat 8 src, 0, 0, 0]

/-- The matrix in DRAM is lost: no frame is reconstructed until the next CALIBRATE (R131). -/
def matLost (cause : Nat) : Op Unit := do
  modRec fun s => { s with reload := [] }
  sb F.REC_STAT_MATOK false
  sb F.REC_STAT_REFOK false
  sf F.REC_MATERR_CAUSE cause

/-- A read-back of the commit in progress does not match. -/
def readbackFails (o : CommitObj) : Op Unit := do
  let u ← units
  let back : Bool := match u.nv.commit with
    | none => false
    | some c => c.step == 4 && c.obj == o
  onlyIf back (opCommitReadbackDone false)

/-- A NAND read of firmware bank `b` fails (R25): before the cores start, BOOT takes the other bank (R616); in a commit the
read-back does not match. -/
def firmwareFails (b : Nat) : Op Unit := do
  let u ← units
  onlyIf (!u.sys.started) (modNv fun n => { n with fwBad := if b ∈ n.fwBad then n.fwBad else n.fwBad ++ [b] })
  onlyIf (match u.nv.commit with | none => false | some c => c.bank == b) (readbackFails .firmware)

/-- A NAND read of a matrix fails (R25): in a commit the read-back does not match, the copy of CALIBRATE finds the bank unreadable
(R129), and a block reload fails (R131). -/
def matrixFails : Op Unit := do
  let u ← units
  readbackFails .matrix
  match u.sys.cal with
  | none => pure ()
  | some j => onlyIf j.matrix do
    sf F.REC_MATERR_CAUSE 4
    matNone
    modSys fun s => { s with cal := some { j with matrix := false, stat := j.stat ||| 24 } }
  onlyIf (!u.reco.reload.isEmpty) (matLost 5)

/-- The command that a core runs: of several that have started and not ended, the one accepted first (DESIGN CHOICE, assumption log
102). -/
def currentTag (u : Units) (k : Nat) : Option (Nat × OutTag) :=
  (tagsOf u k fun t => t.started).foldl (fun a x => match a with
    | none => some x
    | some b => if x.2.order < b.2.order then some x else some b) none

/-- The command that core `k` runs ends with MEM_FAULT (R25). -/
def coreFault (k : Nat) : Op Unit := do
  let u ← units
  match currentTag u k with
  | none => pure ()
  | some x => endTag x.1 St.memFault x.2

/-- A poisoned word reaches its consumer (R25). A command core that met it in code ends its command and restarts. -/
def poisonedWord : MemUser → Op Unit
  | .reconEngine stack addr => do
    poisoned 1
    let s ← recS
    let base ← gf F.REC_JBASE_BASE
    let m := s.mat.getD []
    match (if s.hand.isSome then blockOf base (Mat.vox m / 32 * (Mat.rows m / 64)) stack addr else none) with
    | none => pure ()
    | some b => modRec fun s => { s with reload := s.reload ++ [b] }
    let up ← coreUp 4
    if up then handDrop true
    else modRec fun s => { s with hand := s.hand.map fun h => { h with poisoned := true } }
  | .ledgerParcel pid => do
    poisoned 2
    modParcels (fun r => Pf.state.of r != 0 && Pf.pid.of r == pid) (parcelMark pfDamaged)
  | .ledgerLot k => do
    poisoned 2
    modPcl fun s => { s with lotsDamaged := if s.lots.any (fun x => x.1 == k) && !s.lotsDamaged.contains k then s.lotsDamaged ++ [k] else s.lotsDamaged }
  | .coreData k => do
    poisoned 3
    coreFault k
  | .coreCode k => do
    poisoned 3
    coreFault k
    if k < 4 then opCcWatchdogExpiry k
    else opRtWatchdogExpiry (k == 5)
  | .bulkRead i tag => do
    poisoned 4
    let s ← getSess i
    onlyIf (bulkDir s tag true).isSome (bulkEnd i tag St.memFault)

/-- The outcome of a read of a 64-bit word with `n` wrong bits (R23): 0 nothing seen, 1 corrected, 2 poisoned. The code tells one
from two; of three and more the spec says nothing, and the outcome is free (assumption log 79). -/
def wordOutcome (n : Nat) : Op Nat :=
  if n < 3 then pure n
  else do
    let f ← free
    pure (f % 3)

/-- A NAND read of a codeword with `n` wrong bits: up to 40 are corrected and counted (R23, R24), more fail the read. A
corrected codeword counts once, however many of its bits were wrong (DESIGN CHOICE, assumption log 102). -/
def codewordRead (n : Nat) (fails : Op Unit) : Op Unit :=
  if n = 0 then pure ()
  else if n ≤ 40 then cntSat F.SYS_MEMERR_CORR 1
  else do
    poisoned 5
    fails

/-- MEMORY_READ_ERROR: a corrected word is counted; a poisoned one reaches its consumer (R23 to R25). -/
def opMemoryReadError : MemErr → Op Unit
  | .word n c => do
    let o ← wordOutcome n
    onlyIf (o == 1) (cntSat F.SYS_MEMERR_CORR 1)
    onlyIf (o == 2) (poisonedWord c)
  | .firmware n b => codewordRead n (firmwareFails b)
  | .matrix n => codewordRead n matrixFails

end Sys2Proof.Machine
end

