-- ==== Sys2Proof/Machine/Run.lean ====
section
/-!
DEFINITION. Machine/Run.lean: how a command's operation runs on the module: not at all without supply or in a held reset.
-/
namespace Sys2Proof.Machine

/-- One tick of the 250 MHz clock while no command waits (R606, assumption log 2): 4 ns pass; a slew under way moves wall time by
at most 1 ns in each 10 µs, a rate of up to 100 ppm, and at no tick that holds a multiple of 10 µs of wall time (R74); the pools take their registers while they are quiet (R574); a field-bus message that no longer fits its window takes NOROOM (R484); the record locks of field operations that are over end (R191); a pair's trip that stayed alone becomes its fault (R272); a bulk transfer whose staging frames have left goes on (R561); and
POOL_QSTAT shows the field transmit queues (R567). -/
def opTick : Op Unit := do
  let u ← units
  onlyIf (!u.pwr.stopped) do
    modU fun u => { u with elapsed := u.elapsed + 4, wall := u.wall + 4 }
    onlyIf (decide (u.slew ≠ 0 ∧ u.slewAt + 10000 ≤ u.elapsed + 4 ∧ 4 ≤ u.wall % 10000 ∧ u.wall % 10000 < 9000)) do
      let f ← free
      let d : Int := if f % 2 = 0 then 0 else if 0 < u.slew then 1 else -1
      modU fun u => { u with wall := ((u.wall : Int) + d).toNat, slew := u.slew - d, slewAt := u.elapsed }
    poolSync
    each noRoomSweep (List.range 4)
    fieldLocksEnd
    valveTripsEnd
    bulkGoAll
    busLevelShow

/-- The module after an operation, with its queue as it was. -/
def onBoard (m : Op Unit) (s : State) : Host.Outcome State Fault Refusal :=
  match runOp m s.dev with
  | .ok b => .next { s with dev := b }
  | .error f => .fault f

/-- As `onBoard`; a module that has stopped for lack of supply does nothing (R600, R622). -/
def onDev (m : Op Unit) (s : State) : Host.Outcome State Fault Refusal := if s.dev.u.pwr.stopped then .next s else onBoard m s

/-- As `onDev`; nothing happens while RESET_N holds the module in reset (R609). -/
def onLive (m : Op Unit) (s : State) : Host.Outcome State Fault Refusal := if s.dev.u.pwr.resetNLow then .next s else onDev m s

end Sys2Proof.Machine
end

