-- ==== Sys2Proof/Machine/ExecColumn.lean ====
section
/-!
DEFINITION. Machine/ExecColumn.lean: the meanings of the commands of the column: encoders, alarms, frames, maps, the Ledger and the field requests to it.
-/
namespace Sys2Proof.Machine

/-- ENCODER_EDGE (R40). -/
def execEncoderEdge (lane : Nat) (edge : LineEdge) (s : State) : Host.Outcome State Fault Refusal := onLive (opEncoderEdge lane edge.pat edge.chB edge.samples) s

/-- ENCODER_OPEN_LINE (R65). -/
def execEncoderOpenLine (lane : Nat) (s : State) : Host.Outcome State Fault Refusal := onLive (opEncoderOpenLine lane) s

/-- ENCODER_INDEX (R69). -/
def execEncoderIndex (z : ZPulse) (s : State) : Host.Outcome State Fault Refusal := onLive (opEncoderIndex z.lane z.samples) s

/-- LANE_STALL (R64). -/
def execLaneStall (lane : Nat) (s : State) : Host.Outcome State Fault Refusal := onLive (opLaneStall lane) s

/-- SUBST_STROKE (R66). -/
def execSubstStroke (lane : Nat) (s : State) : Host.Outcome State Fault Refusal := onLive (opSubstStroke lane) s

/-- ENC_RATE_UPDATE (R66). -/
def execEncRateUpdate (s : State) : Host.Outcome State Fault Refusal := onLive (opEncRateUpdate) s

/-- ENC_LOST_TIMEOUT (R67). -/
def execEncLostTimeout (lane : Nat) (s : State) : Host.Outcome State Fault Refusal := onLive (opEncLostTimeout lane) s

/-- ALARM_SERVICE (R55). -/
def execAlarmService (s : State) : Host.Outcome State Fault Refusal := onLive (opAlarmService) s

/-- ALARM_FALLBACK (R59). -/
def execAlarmFallback (slot : Nat) (s : State) : Host.Outcome State Fault Refusal := onLive (opAlarmFallback slot) s

/-- MAINS_EDGE (R70). -/
def execMainsEdge (edge : SyncEdge) (s : State) : Host.Outcome State Fault Refusal := onLive (opMainsEdge edge.falling edge.stable) s

/-- MAINS_LOST (R72). -/
def execMainsLost (s : State) : Host.Outcome State Fault Refusal := onLive (opMainsLost) s

/-- MAINS_FREERUN_TICK (R72). -/
def execMainsFreerunTick (s : State) : Host.Outcome State Fault Refusal := onLive (opMainsFreerunTick) s

/-- BURST_START (R89). -/
def execBurstStart (s : State) : Host.Outcome State Fault Refusal := onLive (opBurstStart) s

/-- BURST_STEP (R99). -/
def execBurstStep (r : StepSense) (s : State) : Host.Outcome State Fault Refusal := onLive (opBurstStep r) s

/-- FRAME_START (R101). -/
def execFrameStart (s : State) : Host.Outcome State Fault Refusal := onLive (opFrameStart) s

/-- EXCITATION_STEP (R95). -/
def execExcitationStep (r : StepSense) (s : State) : Host.Outcome State Fault Refusal := onLive (opExcitationStep r) s

/-- FRAME_CLOSE (R113). -/
def execFrameClose (t0 : Int) (t1 : Int) (s : State) : Host.Outcome State Fault Refusal := onLive (opFrameClose t0 t1) s

/-- FRAME_RECORD_PUBLISH (R115). -/
def execFrameRecordPublish (s : State) : Host.Outcome State Fault Refusal := onLive (opFrameRecordPublish) s

/-- CALIBRATION_SWEEP_END (R110). -/
def execCalibrationSweepEnd (meas : List CalStep) (temps : Int × Int) (s : State) : Host.Outcome State Fault Refusal := onLive (opCalibrationSweepEnd meas temps.1 temps.2) s

/-- RECON_DISPATCH (R140). -/
def execReconDispatch (s : State) : Host.Outcome State Fault Refusal := onLive (opReconDispatch) s

/-- RECON_PUBLISH (R166). -/
def execReconPublish (s : State) : Host.Outcome State Fault Refusal := onLive (opReconPublish) s

/-- RECON_DEADLINE (R143). -/
def execReconDeadline (s : State) : Host.Outcome State Fault Refusal := onLive (opReconDeadline) s

/-- MATRIX_COPY_DONE (R129). -/
def execMatrixCopyDone (s : State) : Host.Outcome State Fault Refusal := onLive (opMatrixCopyDone) s

/-- CAPTURE_AVERAGED (R153). -/
def execCaptureAveraged (s : State) : Host.Outcome State Fault Refusal := onLive (opCaptureAveraged) s

/-- ROLLING_STATE_SAVE (R164). -/
def execRollingStateSave (s : State) : Host.Outcome State Fault Refusal := onLive (opRollingStateSave) s

/-- LEDGER_RETIRE_TICK (R175). -/
def execLedgerRetireTick (_ : Unit) (s : State) : Host.Outcome State Fault Refusal := onLive (opLedgerRetireTick) s

/-- LEDGER_CHECKPOINT (R202). -/
def execLedgerCheckpoint (s : State) : Host.Outcome State Fault Refusal := onLive (opLedgerCheckpoint) s

/-- LOCK_LEASE_EXPIRY (R188). -/
def execLockLeaseExpiry (record : Nat) (s : State) : Host.Outcome State Fault Refusal := onLive (opLockLeaseExpiry record) s

/-- PLANNER_RUN (R195). -/
def execPlannerRun (s : State) : Host.Outcome State Fault Refusal := onLive (opPlannerRun) s

/-- FIELD_READ_LOT_WORD (R194). -/
def execFieldReadLotWord (bus : Nat) (node : Nat) (data : List Byte) (s : State) : Host.Outcome State Fault Refusal := onLive (opFieldRequest 1 bus node data) s

/-- FIELD_WRITE_USER_WORD (R194). -/
def execFieldWriteUserWord (bus : Nat) (node : Nat) (data : List Byte) (s : State) : Host.Outcome State Fault Refusal := onLive (opFieldRequest 2 bus node data) s

/-- FIELD_ADD_MASS (R194). -/
def execFieldAddMass (bus : Nat) (node : Nat) (data : List Byte) (s : State) : Host.Outcome State Fault Refusal := onLive (opFieldRequest 3 bus node data) s

/-- FIELD_ADD_SAMPLE (R194). -/
def execFieldAddSample (bus : Nat) (node : Nat) (data : List Byte) (s : State) : Host.Outcome State Fault Refusal := onLive (opFieldRequest 4 bus node data) s

/-- FIELD_SET_SAMPLE_LANE (R194). -/
def execFieldSetSampleLane (bus : Nat) (node : Nat) (data : List Byte) (s : State) : Host.Outcome State Fault Refusal := onLive (opFieldRequest 5 bus node data) s

/-- FIELD_SET_SAMPLE_PID (R194). -/
def execFieldSetSamplePid (bus : Nat) (node : Nat) (data : List Byte) (s : State) : Host.Outcome State Fault Refusal := onLive (opFieldRequest 6 bus node data) s

end Sys2Proof.Machine
end

