-- ==== Sys2Proof/Machine/ExecHost.lean ====
section
/-!
DEFINITION. Machine/ExecHost.lean: the meanings of the commands of the host's packets: commands and bulk transfers.
-/
namespace Sys2Proof.Machine

/-- OPEN_CONTROL (R365). -/
def execOpenControl (h : Hdr) (p : List Byte) (s : State) : Host.Outcome State Fault Refusal := onLive (hostCommand h 0x0101 p) s

/-- PROVE (R366). -/
def execProve (h : Hdr) (p : List Byte) (s : State) : Host.Outcome State Fault Refusal := onLive (hostCommand h 0x0102 p) s

/-- OPEN_OBSERVER (R369). -/
def execOpenObserver (h : Hdr) (p : List Byte) (s : State) : Host.Outcome State Fault Refusal := onLive (hostCommand h 0x0103 p) s

/-- CLOSE (R373). -/
def execClose (h : Hdr) (p : List Byte) (s : State) : Host.Outcome State Fault Refusal := onLive (hostCommand h 0x0104 p) s

/-- PING (R372). -/
def execPing (h : Hdr) (p : List Byte) (s : State) : Host.Outcome State Fault Refusal := onLive (hostCommand h 0x0105 p) s

/-- REVOKE (R389). -/
def execRevoke (h : Hdr) (p : List Byte) (s : State) : Host.Outcome State Fault Refusal := onLive (hostCommand h 0x0106 p) s

/-- EVMASK (R394). -/
def execEvmask (h : Hdr) (p : List Byte) (s : State) : Host.Outcome State Fault Refusal := onLive (hostCommand h 0x0107 p) s

/-- BULKDATA (R390). -/
def execBulkdata (h : Hdr) (offset : Nat) (last : Bool) (data : List Byte) (s : State) : Host.Outcome State Fault Refusal := onLive (opBulkdata h offset last data) s

/-- BULKWIN (R391). -/
def execBulkwin (h : Hdr) (acked : Nat) (limit : Nat) (s : State) : Host.Outcome State Fault Refusal := onLive (opBulkwin h acked limit) s

/-- GET_INFO (R405). -/
def execGetInfo (h : Hdr) (p : List Byte) (s : State) : Host.Outcome State Fault Refusal := onLive (hostCommand h 0x0001 p) s

/-- MODE_REQ (R405). -/
def execModeReq (h : Hdr) (p : List Byte) (s : State) : Host.Outcome State Fault Refusal := onLive (hostCommand h 0x0002 p) s

/-- RESET (R406). -/
def execReset (h : Hdr) (p : List Byte) (s : State) : Host.Outcome State Fault Refusal := onLive (hostCommand h 0x0003 p) s

/-- READ (R408). -/
def execRead (h : Hdr) (p : List Byte) (s : State) : Host.Outcome State Fault Refusal := onLive (hostCommand h 0x0201 p) s

/-- WRITE (R408). -/
def execWrite (h : Hdr) (p : List Byte) (s : State) : Host.Outcome State Fault Refusal := onLive (hostCommand h 0x0202 p) s

/-- READ_BLOCK (R409). -/
def execReadBlock (h : Hdr) (p : List Byte) (rivals : List Rival) (s : State) : Host.Outcome State Fault Refusal := onLive (commandArrives h 0x0203 p rivals) s

/-- WRITE_BLOCK (R409). -/
def execWriteBlock (h : Hdr) (p : List Byte) (s : State) : Host.Outcome State Fault Refusal := onLive (hostCommand h 0x0204 p) s

/-- READ_LIST (R409). -/
def execReadList (h : Hdr) (p : List Byte) (s : State) : Host.Outcome State Fault Refusal := onLive (hostCommand h 0x0205 p) s

/-- SNAPSHOT (R411). -/
def execSnapshot (h : Hdr) (p : List Byte) (s : State) : Host.Outcome State Fault Refusal := onLive (hostCommand h 0x0301 p) s

/-- TIME_SET (R412). -/
def execTimeSet (h : Hdr) (p : List Byte) (s : State) : Host.Outcome State Fault Refusal := onLive (hostCommand h 0x0302 p) s

/-- ALARM_SET (R413). -/
def execAlarmSet (h : Hdr) (p : List Byte) (s : State) : Host.Outcome State Fault Refusal := onLive (hostCommand h 0x0303 p) s

/-- ALARM_CLEAR (R413). -/
def execAlarmClear (h : Hdr) (p : List Byte) (s : State) : Host.Outcome State Fault Refusal := onLive (hostCommand h 0x0304 p) s

/-- GEOM_LOAD (R414). -/
def execGeomLoad (h : Hdr) (p : List Byte) (s : State) : Host.Outcome State Fault Refusal := onLive (hostCommand h 0x0401 p) s

/-- GEOM_READ (R414). -/
def execGeomRead (h : Hdr) (p : List Byte) (s : State) : Host.Outcome State Fault Refusal := onLive (hostCommand h 0x0402 p) s

/-- CAL_SWEEP (R414). -/
def execCalSweep (h : Hdr) (p : List Byte) (s : State) : Host.Outcome State Fault Refusal := onLive (hostCommand h 0x0403 p) s

/-- CAL_LOAD (R414). -/
def execCalLoad (h : Hdr) (p : List Byte) (s : State) : Host.Outcome State Fault Refusal := onLive (hostCommand h 0x0404 p) s

/-- CAL_READ (R414). -/
def execCalRead (h : Hdr) (p : List Byte) (s : State) : Host.Outcome State Fault Refusal := onLive (hostCommand h 0x0405 p) s

/-- RANGE_SAVE (R415). -/
def execRangeSave (h : Hdr) (p : List Byte) (s : State) : Host.Outcome State Fault Refusal := onLive (hostCommand h 0x0406 p) s

/-- RANGE_READ (R415). -/
def execRangeRead (h : Hdr) (p : List Byte) (s : State) : Host.Outcome State Fault Refusal := onLive (hostCommand h 0x0407 p) s

/-- FRAME_READ (R404). -/
def execFrameRead (h : Hdr) (p : List Byte) (s : State) : Host.Outcome State Fault Refusal := onLive (hostCommand h 0x0408 p) s

/-- MAT_LOAD (R417). -/
def execMatLoad (h : Hdr) (p : List Byte) (s : State) : Host.Outcome State Fault Refusal := onLive (hostCommand h 0x0501 p) s

/-- MAT_INFO (R416). -/
def execMatInfo (h : Hdr) (p : List Byte) (s : State) : Host.Outcome State Fault Refusal := onLive (hostCommand h 0x0502 p) s

/-- MODEL_LOAD (R418). -/
def execModelLoad (h : Hdr) (p : List Byte) (s : State) : Host.Outcome State Fault Refusal := onLive (hostCommand h 0x0503 p) s

/-- MODEL_READ (R416). -/
def execModelRead (h : Hdr) (p : List Byte) (s : State) : Host.Outcome State Fault Refusal := onLive (hostCommand h 0x0504 p) s

/-- REF_LOAD (R418). -/
def execRefLoad (h : Hdr) (p : List Byte) (s : State) : Host.Outcome State Fault Refusal := onLive (hostCommand h 0x0505 p) s

/-- REF_READ (R416). -/
def execRefRead (h : Hdr) (p : List Byte) (s : State) : Host.Outcome State Fault Refusal := onLive (hostCommand h 0x0506 p) s

/-- CAPTURE_START (R419). -/
def execCaptureStart (h : Hdr) (p : List Byte) (s : State) : Host.Outcome State Fault Refusal := onLive (hostCommand h 0x0507 p) s

/-- CAPTURE_END (R419). -/
def execCaptureEnd (h : Hdr) (p : List Byte) (s : State) : Host.Outcome State Fault Refusal := onLive (hostCommand h 0x0508 p) s

/-- ANCHOR (R160). -/
def execAnchor (h : Hdr) (p : List Byte) (s : State) : Host.Outcome State Fault Refusal := onLive (hostCommand h 0x0509 p) s

/-- MAP_SUMMARY (R416). -/
def execMapSummary (h : Hdr) (p : List Byte) (s : State) : Host.Outcome State Fault Refusal := onLive (hostCommand h 0x050A p) s

/-- MAP_READ (R421). -/
def execMapRead (h : Hdr) (p : List Byte) (s : State) : Host.Outcome State Fault Refusal := onLive (hostCommand h 0x050B p) s

/-- LOT_OPEN (R177). -/
def execLotOpen (h : Hdr) (p : List Byte) (s : State) : Host.Outcome State Fault Refusal := onLive (hostCommand h 0x0601 p) s

/-- LOT_CLOSE (R177). -/
def execLotClose (h : Hdr) (p : List Byte) (s : State) : Host.Outcome State Fault Refusal := onLive (hostCommand h 0x0602 p) s

/-- LOT_READ (R422). -/
def execLotRead (h : Hdr) (p : List Byte) (s : State) : Host.Outcome State Fault Refusal := onLive (hostCommand h 0x0603 p) s

/-- LOT_WRITE (R423). -/
def execLotWrite (h : Hdr) (p : List Byte) (s : State) : Host.Outcome State Fault Refusal := onLive (hostCommand h 0x0604 p) s

/-- PARCEL_READ (R422). -/
def execParcelRead (h : Hdr) (p : List Byte) (s : State) : Host.Outcome State Fault Refusal := onLive (hostCommand h 0x0605 p) s

/-- PARCEL_WRITE (R424). -/
def execParcelWrite (h : Hdr) (p : List Byte) (s : State) : Host.Outcome State Fault Refusal := onLive (hostCommand h 0x0606 p) s

/-- LOCK (R425). -/
def execLock (h : Hdr) (p : List Byte) (s : State) : Host.Outcome State Fault Refusal := onLive (hostCommand h 0x0607 p) s

/-- UNLOCK (R425). -/
def execUnlock (h : Hdr) (p : List Byte) (s : State) : Host.Outcome State Fault Refusal := onLive (hostCommand h 0x0608 p) s

/-- PARCEL_DUMP (R426). -/
def execParcelDump (h : Hdr) (p : List Byte) (s : State) : Host.Outcome State Fault Refusal := onLive (hostCommand h 0x0609 p) s

/-- ARCH_READ (R427). -/
def execArchRead (h : Hdr) (p : List Byte) (s : State) : Host.Outcome State Fault Refusal := onLive (hostCommand h 0x060A p) s

/-- PLAN_STATUS (R428). -/
def execPlanStatus (h : Hdr) (p : List Byte) (s : State) : Host.Outcome State Fault Refusal := onLive (hostCommand h 0x0701 p) s

/-- TRACE_INFO (R429). -/
def execTraceInfo (h : Hdr) (p : List Byte) (s : State) : Host.Outcome State Fault Refusal := onLive (hostCommand h 0x0801 p) s

/-- TRACE_READ (R430). -/
def execTraceRead (h : Hdr) (p : List Byte) (s : State) : Host.Outcome State Fault Refusal := onLive (hostCommand h 0x0802 p) s

/-- FTABLE_LOAD (R431). -/
def execFtableLoad (h : Hdr) (p : List Byte) (s : State) : Host.Outcome State Fault Refusal := onLive (hostCommand h 0x0803 p) s

/-- FTABLE_READ (R431). -/
def execFtableRead (h : Hdr) (p : List Byte) (s : State) : Host.Outcome State Fault Refusal := onLive (hostCommand h 0x0804 p) s

/-- DRIVE_STATUS (R433). -/
def execDriveStatus (h : Hdr) (p : List Byte) (s : State) : Host.Outcome State Fault Refusal := onLive (hostCommand h 0x0901 p) s

/-- FAULT_CLEAR (R433). -/
def execFaultClear (h : Hdr) (p : List Byte) (s : State) : Host.Outcome State Fault Refusal := onLive (hostCommand h 0x0902 p) s

/-- INPUT_READ (R435). -/
def execInputRead (h : Hdr) (p : List Byte) (s : State) : Host.Outcome State Fault Refusal := onLive (hostCommand h 0x0A01 p) s

/-- LIN_LOAD (R326). -/
def execLinLoad (h : Hdr) (p : List Byte) (s : State) : Host.Outcome State Fault Refusal := onLive (hostCommand h 0x0A02 p) s

/-- LIN_READ (R434). -/
def execLinRead (h : Hdr) (p : List Byte) (s : State) : Host.Outcome State Fault Refusal := onLive (hostCommand h 0x0A03 p) s

/-- SINE_PASS (R435). -/
def execSinePass (h : Hdr) (p : List Byte) (s : State) : Host.Outcome State Fault Refusal := onLive (hostCommand h 0x0A04 p) s

/-- AER_BIN (R436). -/
def execAerBin (h : Hdr) (p : List Byte) (s : State) : Host.Outcome State Fault Refusal := onLive (hostCommand h 0x0B01 p) s

/-- AER_STATUS (R436). -/
def execAerStatus (h : Hdr) (p : List Byte) (s : State) : Host.Outcome State Fault Refusal := onLive (hostCommand h 0x0B02 p) s

/-- BUS_STATUS (R438). -/
def execBusStatus (h : Hdr) (p : List Byte) (s : State) : Host.Outcome State Fault Refusal := onLive (hostCommand h 0x0C01 p) s

/-- BUS_RECOVER (R491). -/
def execBusRecover (h : Hdr) (p : List Byte) (s : State) : Host.Outcome State Fault Refusal := onLive (hostCommand h 0x0C02 p) s

/-- OBJ_WRITE (R481). -/
def execObjWrite (h : Hdr) (p : List Byte) (s : State) : Host.Outcome State Fault Refusal := onLive (hostCommand h 0x0C03 p) s

/-- VERDICT (R511). -/
def execVerdict (h : Hdr) (p : List Byte) (s : State) : Host.Outcome State Fault Refusal := onLive (hostCommand h 0x0D01 p) s

/-- SHUFFLE_NOW (R518). -/
def execShuffleNow (h : Hdr) (p : List Byte) (s : State) : Host.Outcome State Fault Refusal := onLive (hostCommand h 0x0D02 p) s

/-- PATH_STATUS (R439). -/
def execPathStatus (h : Hdr) (p : List Byte) (s : State) : Host.Outcome State Fault Refusal := onLive (hostCommand h 0x0D03 p) s

/-- CLUSTER_STATUS (R440). -/
def execClusterStatus (h : Hdr) (p : List Byte) (s : State) : Host.Outcome State Fault Refusal := onLive (hostCommand h 0x0E01 p) s

/-- REJOIN (R550). -/
def execRejoin (h : Hdr) (p : List Byte) (s : State) : Host.Outcome State Fault Refusal := onLive (hostCommand h 0x0E02 p) s

/-- TEMP_READ (R441). -/
def execTempRead (h : Hdr) (p : List Byte) (s : State) : Host.Outcome State Fault Refusal := onLive (hostCommand h 0x0F01 p) s

/-- THROTTLE_ACK (R441). -/
def execThrottleAck (h : Hdr) (p : List Byte) (s : State) : Host.Outcome State Fault Refusal := onLive (hostCommand h 0x0F02 p) s

/-- FW_LOAD (R443). -/
def execFwLoad (h : Hdr) (p : List Byte) (s : State) : Host.Outcome State Fault Refusal := onLive (hostCommand h 0x1001 p) s

/-- BANK_STATE (R442). -/
def execBankState (h : Hdr) (p : List Byte) (s : State) : Host.Outcome State Fault Refusal := onLive (hostCommand h 0x1002 p) s

/-- BANK_SELECT (R443). -/
def execBankSelect (h : Hdr) (p : List Byte) (s : State) : Host.Outcome State Fault Refusal := onLive (hostCommand h 0x1003 p) s

/-- POOL_STATUS (R443). -/
def execPoolStatus (h : Hdr) (p : List Byte) (s : State) : Host.Outcome State Fault Refusal := onLive (hostCommand h 0x1004 p) s

/-- SAFE_STATUS (R444). -/
def execSafeStatus (h : Hdr) (p : List Byte) (s : State) : Host.Outcome State Fault Refusal := onLive (hostCommand h 0x1101 p) s

/-- BAD_OPCODE_COMMAND (R384). -/
def execBadOpcodeCommand (h : Hdr) (op : Nat) (p : List Byte) (s : State) : Host.Outcome State Fault Refusal := onLive (hostCommand h op p) s

end Sys2Proof.Machine
end

