-- ==== Sys2Proof/Machine/ExecLinks.lean ====
section
/-!
DEFINITION. Machine/ExecLinks.lean: the meanings of the commands of modes, sessions, the field buses, paths, the ring, thermal supervision and the service port.
-/
namespace Sys2Proof.Machine

/-- MODE_TRANSITION (R334). -/
def execModeTransition (s : State) : Host.Outcome State Fault Refusal := onLive (opModeTransition) s

/-- CALIBRATION_END (R346). -/
def execCalibrationEnd (s : State) : Host.Outcome State Fault Refusal := onLive (opCalibrationEnd) s

/-- CALIBRATION_TIMEOUT (R347). -/
def execCalibrationTimeout (s : State) : Host.Outcome State Fault Refusal := onLive (opCalibrationTimeout) s

/-- HOLD_ENTRY (R337). -/
def execHoldEntry (cause : Nat) (s : State) : Host.Outcome State Fault Refusal := onLive (opHoldEntry cause) s

/-- ARP_REQUEST (R355). -/
def execArpRequest (ip : Nat) (mac : Nat) (s : State) : Host.Outcome State Fault Refusal := onLive (opArpRequest ip mac) s

/-- ICMP_ECHO (R355). -/
def execIcmpEcho (ip : Nat) (data : List Byte) (s : State) : Host.Outcome State Fault Refusal := onLive (opIcmpEcho ip data) s

/-- DATAGRAM_DISCARD (R356). -/
def execDatagramDiscard (d : Discard) (s : State) : Host.Outcome State Fault Refusal := onLive (opDatagramDiscard d) s

/-- ARP_REFRESH (R357). -/
def execArpRefresh (s : State) : Host.Outcome State Fault Refusal := onLive (opArpRefresh) s

/-- PENDING_SESSION_EXPIRY (R365). -/
def execPendingSessionExpiry (record : Nat) (s : State) : Host.Outcome State Fault Refusal := onLive (opPendingSessionExpiry record) s

/-- SESSION_IDLE_EXPIRY (R372). -/
def execSessionIdleExpiry (record : Nat) (s : State) : Host.Outcome State Fault Refusal := onLive (opSessionIdleExpiry record) s

/-- KEY_LOCKOUT_END (R374). -/
def execKeyLockoutEnd (slot : Nat) (s : State) : Host.Outcome State Fault Refusal := onLive (opKeyLockoutEnd slot) s

/-- KEY_BUFFER_TIMEOUT (R376). -/
def execKeyBufferTimeout (s : State) : Host.Outcome State Fault Refusal := onLive (opKeyBufferTimeout) s

/-- HELD_COMPLETION_EXPIRY (R382). -/
def execHeldCompletionExpiry (record : Nat) (tag : Nat) (s : State) : Host.Outcome State Fault Refusal := onLive (opHeldCompletionExpiry record tag) s

/-- BULK_RESEND_TIMEOUT (R391). -/
def execBulkResendTimeout (record : Nat) (tag : Nat) (s : State) : Host.Outcome State Fault Refusal := onLive (opBulkResendTimeout record tag) s

/-- BULK_TIMEOUT (R392). -/
def execBulkTimeout (record : Nat) (tag : Nat) (s : State) : Host.Outcome State Fault Refusal := onLive (opBulkTimeout record tag) s

/-- SPI_WRITE (R473). -/
def execSpiWrite (mosi : List Byte) (cut : Bool) (gap : Nat) (s : State) : Host.Outcome State Fault Refusal := onLive (opSpi mosi cut gap) s

/-- SPI_READ (R473). -/
def execSpiRead (mosi : List Byte) (cut : Bool) (gap : Nat) (s : State) : Host.Outcome State Fault Refusal := onLive (opSpi mosi cut gap) s

/-- BUS_INTEGRATED (R479). -/
def execBusIntegrated (bus : Nat) (s : State) : Host.Outcome State Fault Refusal := onLive (opBusIntegrated bus) s

/-- BUS_CYCLE_START (R482). -/
def execBusCycleStart (bus : Nat) (s : State) : Host.Outcome State Fault Refusal := onLive (opBusCycleStart bus) s

/-- WINDOW_OPEN (R483). -/
def execWindowOpen (bus : Nat) (w : Nat) (s : State) : Host.Outcome State Fault Refusal := onLive (opWindowOpen bus w) s

/-- TX_ATTEMPT_START (R484). -/
def execTxAttemptStart (bus : Nat) (s : State) : Host.Outcome State Fault Refusal := onLive (opTxAttemptStart bus) s

/-- TX_ATTEMPT_END (R488). -/
def execTxAttemptEnd (bus : Nat) (o : TxEnd) (s : State) : Host.Outcome State Fault Refusal := onLive (opTxAttemptEnd bus o) s

/-- CAN_FRAME_RECEIVED (R495). -/
def execCanFrameReceived (bus : Nat) (f : CanFrame) (s : State) : Host.Outcome State Fault Refusal := onLive (opCanFrameReceived bus f) s

/-- BUS_RECOVERY_DONE (R491). -/
def execBusRecoveryDone (bus : Nat) (s : State) : Host.Outcome State Fault Refusal := onLive (opBusRecoveryDone bus) s

/-- RX_STALE_TIMEOUT (R496). -/
def execRxStaleTimeout (obj : Nat) (s : State) : Host.Outcome State Fault Refusal := onLive (opRxStaleTimeout obj) s

/-- LEDGER_RESPONSE_SEND (R498). -/
def execLedgerResponseSend (bus : Nat) (s : State) : Host.Outcome State Fault Refusal := onLive (opLedgerResponseSend bus) s

/-- LEDGER_REPLY_WINDOW_END (R498). -/
def execLedgerReplyWindowEnd (bus : Nat) (node : Nat) (s : State) : Host.Outcome State Fault Refusal := onLive (opLedgerReplyWindowEnd bus node) s

/-- PATH_IMAGE_SAVE (R507). -/
def execPathImageSave (link : Nat) (s : State) : Host.Outcome State Fault Refusal := onLive (opPathImageSave link) s

/-- SWITCHOVER_START (R513). -/
def execSwitchoverStart (link : Nat) (s : State) : Host.Outcome State Fault Refusal := onLive (opSwitchoverStart link) s

/-- SWITCHOVER_GAP_END (R514). -/
def execSwitchoverGapEnd (link : Nat) (s : State) : Host.Outcome State Fault Refusal := onLive (opSwitchoverGapEnd link) s

/-- SWITCHOVER_DONE (R521). -/
def execSwitchoverDone (link : Nat) (s : State) : Host.Outcome State Fault Refusal := onLive (opSwitchoverDone link) s

/-- SHUFFLE_DUE (R518). -/
def execShuffleDue (link : Nat) (s : State) : Host.Outcome State Fault Refusal := onLive (opShuffleDue link) s

/-- TAKEBACK_DUE (R520). -/
def execTakebackDue (link : Nat) (s : State) : Host.Outcome State Fault Refusal := onLive (opTakebackDue link) s

/-- ENUM_FRAME_SEND (R528). -/
def execEnumFrameSend (s : State) : Host.Outcome State Fault Refusal := onLive (opEnumFrameSend) s

/-- ENUM_FRAME_RECEIVE (R528). -/
def execEnumFrameReceive (f : EnumFrame) (s : State) : Host.Outcome State Fault Refusal := onLive (opEnumFrameReceive f) s

/-- CLUSTER_FORMED (R528). -/
def execClusterFormed (s : State) : Host.Outcome State Fault Refusal := onLive (opClusterFormed) s

/-- RING_CYCLE_START (R530). -/
def execRingCycleStart (s : State) : Host.Outcome State Fault Refusal := onLive (opRingCycleStart) s

/-- RING_FRAME_RECEIVE (R536). -/
def execRingFrameReceive (f : RingFrame) (s : State) : Host.Outcome State Fault Refusal := onLive (opRingFrameReceive f) s

/-- RING_FRAME_RETURN (R534). -/
def execRingFrameReturn (f : RingFrame) (s : State) : Host.Outcome State Fault Refusal := onLive (opRingFrameReturn f) s

/-- MEMBER_LOST (R548). -/
def execMemberLost (a : Nat) (s : State) : Host.Outcome State Fault Refusal := onLive (opMemberLost a) s

/-- SELF_LOST (R549). -/
def execSelfLost (s : State) : Host.Outcome State Fault Refusal := onLive (opSelfLost) s

/-- REPLY_AGE_EXPIRY (R568). -/
def execReplyAgeExpiry (record : Nat) (s : State) : Host.Outcome State Fault Refusal := onLive (opReplyAgeExpiry record) s

/-- THERMAL_WATCHDOG_DEMAND (R579). -/
def execThermalWatchdogDemand (s : State) : Host.Outcome State Fault Refusal := onLive (opThermalWatchdogDemand) s

/-- THROTTLE_EVENT_DEMAND (R579). -/
def execThrottleEventDemand (s : State) : Host.Outcome State Fault Refusal := onLive (opThrottleEventDemand) s

/-- CONVERSION_END (R580). -/
def execConversionEnd (temps : List TempSense) (s : State) : Host.Outcome State Fault Refusal := onLive (opConversionEnd temps) s

/-- GRACE_EXPIRY (R586). -/
def execGraceExpiry (s : State) : Host.Outcome State Fault Refusal := onLive (opGraceExpiry) s

/-- SVC_READ (R593). -/
def execSvcRead (line : List Bool) (s : State) : Host.Outcome State Fault Refusal := onLive (opSvcLine line) s

/-- SVC_WRITE (R595). -/
def execSvcWrite (line : List Bool) (s : State) : Host.Outcome State Fault Refusal := onLive (opSvcLine line) s

/-- SVC_TIMEOUT (R594). -/
def execSvcTimeout (s : State) : Host.Outcome State Fault Refusal := onLive (opSvcTimeout) s

/-- SVC_FRAMING_ERROR (R591). -/
def execSvcFramingError (s : State) : Host.Outcome State Fault Refusal := onLive (opSvcFramingError) s

/-- ARP_REPLY (R357). -/
def execArpReply (ip : Nat) (mac : Nat) (s : State) : Host.Outcome State Fault Refusal := onLive (opArpReply ip mac) s

/-- RECEIVER_ERROR (R489). -/
def execReceiverError (bus : Nat) (code : Nat) (field : Nat) (bit : ErrorBit) (s : State) : Host.Outcome State Fault Refusal := onLive (opReceiverError bus code field bit) s

end Sys2Proof.Machine
end

