-- ==== Sys2Proof/Machine/ExecModule.lean ====
section
/-!
DEFINITION. Machine/ExecModule.lean: the meanings of the commands of resets, cores, memory, supply, clocks, NV and the test port.
-/
namespace Sys2Proof.Machine

/-- POWER_ON_RESET (R609). -/
def execPowerOnReset (mv : Nat) (s : State) : Host.Outcome State Fault Refusal := onBoard (opPowerOnReset mv) s

/-- RAIL_FAULT (R602). -/
def execRailFault (rail : Nat) (s : State) : Host.Outcome State Fault Refusal := onDev (opRailFault rail) s

/-- PLL_UNLOCK (R602). -/
def execPllUnlock (pll : Nat) (s : State) : Host.Outcome State Fault Refusal := onDev (opPllUnlock pll) s

/-- RESET_N_ASSERT (R609). -/
def execResetNAssert (s : State) : Host.Outcome State Fault Refusal := onDev (opResetNAssert) s

/-- MODULE_WATCHDOG_EXPIRY (R610). -/
def execModuleWatchdogExpiry (s : State) : Host.Outcome State Fault Refusal := onLive (opModuleWatchdogExpiry) s

/-- COMMAND_RESET (R406). -/
def execCommandReset (s : State) : Host.Outcome State Fault Refusal := onLive (opCommandReset) s

/-- CLUSTER_RESET (R545). -/
def execClusterReset (s : State) : Host.Outcome State Fault Refusal := onLive (opClusterReset) s

/-- CORES_START (R346). -/
def execCoresStart (s : State) : Host.Outcome State Fault Refusal := onLive (opCoresStart) s

/-- CC_WATCHDOG_EXPIRY (R32). -/
def execCcWatchdogExpiry (core : Nat) (s : State) : Host.Outcome State Fault Refusal := onLive (opCcWatchdogExpiry core) s

/-- RT_WATCHDOG_EXPIRY (R33). -/
def execRtWatchdogExpiry (rt1 : Bool) (s : State) : Host.Outcome State Fault Refusal := onLive (opRtWatchdogExpiry rt1) s

/-- MEMORY_READ_ERROR (R24). -/
def execMemoryReadError (e : MemErr) (s : State) : Host.Outcome State Fault Refusal := onLive (opMemoryReadError e) s

/-- PARITY_SCRUB (R461). -/
def execParityScrub (upset : List Nat) (s : State) : Host.Outcome State Fault Refusal := onLive (opParityScrub upset) s

/-- HEARTBEAT_LAPSE (R469). -/
def execHeartbeatLapse (s : State) : Host.Outcome State Fault Refusal := onLive (opHeartbeatLapse) s

/-- SAFE_ALIVE_TICK (R468). -/
def execSafeAliveTick (s : State) : Host.Outcome State Fault Refusal := onLive (opSafeAliveTick) s

/-- BYPASS (R596). -/
def execBypass (s : State) : Host.Outcome State Fault Refusal := onDev (opBypass) s

/-- IDCODE (R596). -/
def execIdcode (s : State) : Host.Outcome State Fault Refusal := onDev (opIdcode) s

/-- SAMPLE_PRELOAD (R596). -/
def execSamplePreload (cells : List (Ball × Nat)) (s : State) : Host.Outcome State Fault Refusal := onDev (opSamplePreload cells) s

/-- EXTEST (R597). -/
def execExtest (s : State) : Host.Outcome State Fault Refusal := onDev (opExtest) s

/-- CLAMP (R597). -/
def execClamp (s : State) : Host.Outcome State Fault Refusal := onDev (opClamp) s

/-- JTAG_TEST_RESET (R597). -/
def execJtagTestReset (low : Bool) (s : State) : Host.Outcome State Fault Refusal := onDev (opJtagTestReset low) s

/-- REFERENCE_LOSS (R608). -/
def execReferenceLoss (s : State) : Host.Outcome State Fault Refusal := onDev (opReferenceLoss) s

/-- CLOCK_MEASURE_DONE (R624). -/
def execClockMeasureDone (freq : Nat) (s : State) : Host.Outcome State Fault Refusal := onLive (opClockMeasureDone freq) s

/-- COMMIT_READBACK_DONE (R614). -/
def execCommitReadbackDone (ok : Bool) (s : State) : Host.Outcome State Fault Refusal := onLive (opCommitReadbackDone ok) s

/-- POWER_LOSS (R621). -/
def execPowerLoss (mv : Nat) (s : State) : Host.Outcome State Fault Refusal := onDev (opPowerLoss mv) s

/-- POWER_LOSS_CONFIRM (R621). -/
def execPowerLossConfirm (mv : Nat) (s : State) : Host.Outcome State Fault Refusal := onDev (opPowerLossConfirm mv) s

/-- STATE_SAVE_SEALED (R621). -/
def execStateSaveSealed (s : State) : Host.Outcome State Fault Refusal := onLive (opStateSaveSealed) s

/-- HOLDUP_EMPTY (R622). -/
def execHoldupEmpty (s : State) : Host.Outcome State Fault Refusal := onDev (opHoldupEmpty) s

/-- CHARGE_END (R620). -/
def execChargeEnd (mv : Nat) (s : State) : Host.Outcome State Fault Refusal := onDev (opChargeEnd mv) s

/-- HOLDUP_ESTIMATE_TICK (R618). -/
def execHoldupEstimateTick (mv : Nat) (ua : Nat) (s : State) : Host.Outcome State Fault Refusal := onDev (opHoldupEstimateTick mv ua) s

/-- HOLDUP_COMPARE (R620). -/
def execHoldupCompare (s : State) : Host.Outcome State Fault Refusal := onDev (opHoldupCompare) s

/-- RESET_N_RELEASE (R346). -/
def execResetNRelease (s : State) : Host.Outcome State Fault Refusal := onDev (opResetNRelease) s

/-- CORE_RESTART_COMPLETE (R338). -/
def execCoreRestartComplete (core : Nat) (s : State) : Host.Outcome State Fault Refusal := onLive (opCoreRestartComplete core) s

/-- PLL_UNLOCK_SHORT (R624). -/
def execPllUnlockShort (pll : Nat) (s : State) : Host.Outcome State Fault Refusal := onDev (opPllUnlockShort pll) s

/-- VIN_BELOW_STOP (R600). -/
def execVinBelowStop (mv : Nat) (s : State) : Host.Outcome State Fault Refusal := onDev (opVinBelowStop mv) s

end Sys2Proof.Machine
end

