-- ==== Sys2Proof/Machine/ExecOutputs.lean ====
section
/-!
DEFINITION. Machine/ExecOutputs.lean: the meanings of the commands of the control engine, valves, blowers and field inputs at their instants.
-/
namespace Sys2Proof.Machine

/-- GROUP_LATCH (R214). -/
def execGroupLatch (g : Nat) (s : State) : Host.Outcome State Fault Refusal := onLive (opGroupLatch g) s

/-- STROKE_TRIGGER (R207). -/
def execStrokeTrigger (g : Nat) (s : State) : Host.Outcome State Fault Refusal := onLive (opStrokeTrigger g) s

/-- SLOT_COMPUTE (R215). -/
def execSlotCompute (s : State) : Host.Outcome State Fault Refusal := onLive (opSlotCompute) s

/-- GROUP_OUTPUT (R216). -/
def execGroupOutput (g : Nat) (s : State) : Host.Outcome State Fault Refusal := onLive (opGroupOutput g) s

/-- LOOP_LOAD_UPDATE (R246). -/
def execLoopLoadUpdate (s : State) : Host.Outcome State Fault Refusal := onLive (opLoopLoadUpdate) s

/-- VALVE_BANK_PERIOD (R248). -/
def execValveBankPeriod (bank : Nat) (s : State) : Host.Outcome State Fault Refusal := onLive (opValveBankPeriod bank) s

/-- VALVE_RELOAD (R257). -/
def execValveReload (ch : Nat) (m : CoilMeas) (s : State) : Host.Outcome State Fault Refusal := onLive (opValveReload ch m) s

/-- BOOST_END (R259). -/
def execBoostEnd (ch : Nat) (current : Nat) (s : State) : Host.Outcome State Fault Refusal := onLive (opBoostEnd ch current) s

/-- CLOSING_AVERAGE_END (R266). -/
def execClosingAverageEnd (ch : Nat) (volts : Nat) (s : State) : Host.Outcome State Fault Refusal := onLive (opClosingAverageEnd ch volts) s

/-- CLOSING_WINDOW_END (R267). -/
def execClosingWindowEnd (ch : Nat) (s : State) : Host.Outcome State Fault Refusal := onLive (opClosingWindowEnd ch) s

/-- COIL_MODEL_TICK (R268). -/
def execCoilModelTick (s : State) : Host.Outcome State Fault Refusal := onLive (opCoilModelTick) s

/-- COIL_RES_MEASURE (R269). -/
def execCoilResMeasure (ch : Nat) (volts : Nat) (current : Nat) (s : State) : Host.Outcome State Fault Refusal := onLive (opCoilResMeasure ch volts current) s

/-- VALVE_SHORT_TRIP (R271). -/
def execValveShortTrip (ch : Nat) (leg : Nat) (current : Nat) (s : State) : Host.Outcome State Fault Refusal := onLive (opValveShortTrip ch leg current) s

/-- VCOIL_FAULT (R275). -/
def execVcoilFault (bank : Nat) (volts : Nat) (s : State) : Host.Outcome State Fault Refusal := onLive (opVcoilFault bank volts) s

/-- VCOIL_RETURN (R275). -/
def execVcoilReturn (bank : Nat) (volts : Nat) (s : State) : Host.Outcome State Fault Refusal := onLive (opVcoilReturn bank volts) s

/-- FAN_RELOAD (R282). -/
def execFanReload (ch : Nat) (m : FanMeas) (s : State) : Host.Outcome State Fault Refusal := onLive (opFanReload ch m) s

/-- TACH_EDGE (R287). -/
def execTachEdge (ch : Nat) (s : State) : Host.Outcome State Fault Refusal := onLive (opTachEdge ch) s

/-- STRETCH_END (R286). -/
def execStretchEnd (ch : Nat) (s : State) : Host.Outcome State Fault Refusal := onLive (opStretchEnd ch) s

/-- FAN_SHORT_TRIP (R288). -/
def execFanShortTrip (ch : Nat) (current : Nat) (s : State) : Host.Outcome State Fault Refusal := onLive (opFanShortTrip ch current) s

/-- FAN_OVERCUR_TIMEOUT (R288). -/
def execFanOvercurTimeout (ch : Nat) (current : Nat) (s : State) : Host.Outcome State Fault Refusal := onLive (opFanOvercurTimeout ch current) s

/-- SCAN_CYCLE_START (R311). -/
def execScanCycleStart (s : State) : Host.Outcome State Fault Refusal := onLive (opScanCycleStart) s

/-- FIELD_POLARITY_REVERSE (R303). -/
def execFieldPolarityReverse (k : Nat) (s : State) : Host.Outcome State Fault Refusal := onLive (opFieldPolarityReverse k) s

/-- FIELD_MEASUREMENT_END (R320). -/
def execFieldMeasurementEnd (k : Nat) (m : FieldMeas) (s : State) : Host.Outcome State Fault Refusal := onLive (opFieldMeasurementEnd k m) s

/-- LOOP_OVERCURRENT (R308). -/
def execLoopOvercurrent (input : Nat) (s : State) : Host.Outcome State Fault Refusal := onLive (opLoopOvercurrent input) s

/-- RECOVERY_DUE (R319). -/
def execRecoveryDue (input : Nat) (s : State) : Host.Outcome State Fault Refusal := onLive (opRecoveryDue input) s

end Sys2Proof.Machine
end

