-- ==== Sys2Proof/Machine/ExecWrites.lean ====
section
/-!
DEFINITION. Machine/ExecWrites.lean: the meanings of the commands of register writes, those with a row of their own and all others.
-/
namespace Sys2Proof.Machine

/-- REGISTER_WRITE (R449). -/
def execRegisterWrite (src : Src) (addr : Nat) (word : Word) (s : State) : Host.Outcome State Fault Refusal := onLive (opWrite src addr word) s

/-- ENC_SNAP (R48). -/
def execEncSnap (src : Src) (word : Word) (s : State) : Host.Outcome State Fault Refusal := onLive (opWrite src R.ENC_SNAPCTL word) s

/-- ALARM_ARM (R56). -/
def execAlarmArm (src : Src) (slot : Nat) (word : Word) (s : State) : Host.Outcome State Fault Refusal := onLive (onlyIf (decide (slot < 512)) (opWrite src (R.ENC_ACTL slot) word)) s

/-- MAINS_EDGE_SELECT (R70). -/
def execMainsEdgeSelect (src : Src) (word : Word) (s : State) : Host.Outcome State Fault Refusal := onLive (opWrite src R.ENC_MCTL word) s

/-- TOMO_SINGLE (R101). -/
def execTomoSingle (src : Src) (word : Word) (s : State) : Host.Outcome State Fault Refusal := onLive (opWrite src R.TOMO_CTL word) s

/-- TOMO_RUN_CLEAR (R102). -/
def execTomoRunClear (src : Src) (word : Word) (s : State) : Host.Outcome State Fault Refusal := onLive (opWrite src R.TOMO_CTL word) s

/-- AFT_RTDATA_WRITE (R120). -/
def execAftRtdataWrite (src : Src) (die : Nat) (word : Word) (s : State) : Host.Outcome State Fault Refusal := onLive (onlyIf (decide (die < 2)) (opWrite src (R.AFT_RTDATA die) word)) s

/-- REC_RUN_CLEAR (R146). -/
def execRecRunClear (src : Src) (word : Word) (s : State) : Host.Outcome State Fault Refusal := onLive (opWrite src R.REC_CTL word) s

/-- INJECTION_START (R237). -/
def execInjectionStart (src : Src) (i : Nat) (word : Word) (s : State) : Host.Outcome State Fault Refusal := onLive (onlyIf (decide (i < 4)) (opWrite src (R.LOOP_INJCTL i) word)) s

/-- INJECTION_STOP (R239). -/
def execInjectionStop (src : Src) (i : Nat) (word : Word) (s : State) : Host.Outcome State Fault Refusal := onLive (onlyIf (decide (i < 4)) (opWrite src (R.LOOP_INJCTL i) word)) s

/-- TRACE_ARM (R242). -/
def execTraceArm (src : Src) (word : Word) (s : State) : Host.Outcome State Fault Refusal := onLive (opWrite src R.LOOP_TRCCTL word) s

/-- TRACE_FORCE (R242). -/
def execTraceForce (src : Src) (word : Word) (s : State) : Host.Outcome State Fault Refusal := onLive (opWrite src R.LOOP_TRCCTL word) s

/-- TRACE_STOP (R242). -/
def execTraceStop (src : Src) (word : Word) (s : State) : Host.Outcome State Fault Refusal := onLive (opWrite src R.LOOP_TRCCTL word) s

/-- FTABLE_DATA_WRITE (R236). -/
def execFtableDataWrite (src : Src) (word : Word) (s : State) : Host.Outcome State Fault Refusal := onLive (opWrite src R.LOOP_FTDATA word) s

/-- VALVE_CMD_ON (R253). -/
def execValveCmdOn (src : Src) (ch : Nat) (word : Word) (s : State) : Host.Outcome State Fault Refusal := onLive (onlyIf (decide (ch < 32)) (opWrite src (R.VDRV_CMD ch) word)) s

/-- VALVE_CLEAR_FAULT (R274). -/
def execValveClearFault (src : Src) (ch : Nat) (word : Word) (s : State) : Host.Outcome State Fault Refusal := onLive (onlyIf (decide (ch < 32)) (opWrite src (R.VDRV_CMD ch) word)) s

/-- VALVE_ENABLE_CLEAR (R276). -/
def execValveEnableClear (src : Src) (word : Word) (s : State) : Host.Outcome State Fault Refusal := onLive (opWrite src R.VDRV_CTL word) s

/-- VALVE_ENABLE_SET (R276). -/
def execValveEnableSet (src : Src) (word : Word) (s : State) : Host.Outcome State Fault Refusal := onLive (opWrite src R.VDRV_CTL word) s

/-- FAN_CLEAR_FAULT (R289). -/
def execFanClearFault (src : Src) (ch : Nat) (word : Word) (s : State) : Host.Outcome State Fault Refusal := onLive (onlyIf (decide (ch < 8)) (opWrite src (R.FAN_CMD ch) word)) s

/-- FAN_FREQ_CHANGE (R291). -/
def execFanFreqChange (src : Src) (word : Word) (s : State) : Host.Outcome State Fault Refusal := onLive (opWrite src R.FAN_FREQ word) s

/-- SINE_PASS_REQUEST (R315). -/
def execSinePassRequest (src : Src) (word : Word) (s : State) : Host.Outcome State Fault Refusal := onLive (opWrite src R.AFF_CTL word) s

/-- AFF_RUN_CLEAR (R311). -/
def execAffRunClear (src : Src) (word : Word) (s : State) : Host.Outcome State Fault Refusal := onLive (opWrite src R.AFF_CTL word) s

/-- MODE_REQUEST (R332). -/
def execModeRequest (src : Src) (word : Word) (s : State) : Host.Outcome State Fault Refusal := onLive (opWrite src R.SYS_MODEREQ word) s

/-- IP_APPLY (R358). -/
def execIpApply (src : Src) (word : Word) (s : State) : Host.Outcome State Fault Refusal := onLive (opWrite src R.CMD_IPCTL word) s

/-- IP_SAVE (R358). -/
def execIpSave (src : Src) (word : Word) (s : State) : Host.Outcome State Fault Refusal := onLive (opWrite src R.CMD_IPCTL word) s

/-- KEY_DATA_WRITE (R375). -/
def execKeyDataWrite (src : Src) (word : Word) (s : State) : Host.Outcome State Fault Refusal := onLive (opWrite src R.SEC_KEYDATA word) s

/-- KEY_LOAD (R375). -/
def execKeyLoad (src : Src) (word : Word) (s : State) : Host.Outcome State Fault Refusal := onLive (opWrite src R.SEC_KEYCMD word) s

/-- KEY_ERASE (R375). -/
def execKeyErase (src : Src) (word : Word) (s : State) : Host.Outcome State Fault Refusal := onLive (opWrite src R.SEC_KEYCMD word) s

/-- SAFE_HEARTBEAT (R469). -/
def execSafeHeartbeat (word : Word) (s : State) : Host.Outcome State Fault Refusal := onLive (opWrite .supervisor R.SAFE_HB word) s

/-- SAFE_HOLD_REQUEST (R468). -/
def execSafeHoldRequest (word : Word) (s : State) : Host.Outcome State Fault Refusal := onLive (opWrite .supervisor R.SAFE_CTL word) s

/-- BUS_ENABLE (R479). -/
def execBusEnable (src : Src) (bus : Nat) (word : Word) (s : State) : Host.Outcome State Fault Refusal := onLive (onlyIf (decide (bus < 4)) (opWrite src (R.FLD_BCTL bus) word)) s

/-- BUS_DISABLE (R479). -/
def execBusDisable (src : Src) (bus : Nat) (word : Word) (s : State) : Host.Outcome State Fault Refusal := onLive (onlyIf (decide (bus < 4)) (opWrite src (R.FLD_BCTL bus) word)) s

/-- BUS_RECOVER_WRITE (R491). -/
def execBusRecoverWrite (src : Src) (bus : Nat) (word : Word) (s : State) : Host.Outcome State Fault Refusal := onLive (onlyIf (decide (bus < 4)) (opWrite src (R.FLD_BCTL bus) word)) s

/-- RELAY_VERDICT_GO (R553). -/
def execRelayVerdictGo (src : Src) (word : Word) (s : State) : Host.Outcome State Fault Refusal := onLive (opWrite src R.RNG_RVCTL word) s

/-- THERMAL_DEMAND (R579). -/
def execThermalDemand (src : Src) (word : Word) (s : State) : Host.Outcome State Fault Refusal := onLive (opWrite src R.THM_CTL word) s

/-- CLOCK_MEASURE (R624). -/
def execClockMeasure (src : Src) (word : Word) (s : State) : Host.Outcome State Fault Refusal := onLive (opWrite src R.CLK_MEASSEL word) s

end Sys2Proof.Machine
end

