-- ==== Sys2Proof/Machine/Dispatch.lean ====
section
/-!
DEFINITION. Machine/Dispatch.lean: one arm for each command, in the order of the opcode table.
-/
namespace Sys2Proof.Machine

/-- The effect of a command on everything but the queue. -/
def exec (i : Instr) (s : State) : Host.Outcome State Fault Refusal :=
  match i with
  | .registerWrite src addr word => Sys2Proof.Machine.execRegisterWrite src addr word s
  | .powerOnReset mv => Sys2Proof.Machine.execPowerOnReset mv s
  | .railFault rail => Sys2Proof.Machine.execRailFault rail s
  | .pllUnlock pll => Sys2Proof.Machine.execPllUnlock pll s
  | .resetNAssert => Sys2Proof.Machine.execResetNAssert s
  | .moduleWatchdogExpiry => Sys2Proof.Machine.execModuleWatchdogExpiry s
  | .commandReset => Sys2Proof.Machine.execCommandReset s
  | .clusterReset => Sys2Proof.Machine.execClusterReset s
  | .coresStart => Sys2Proof.Machine.execCoresStart s
  | .ccWatchdogExpiry core => Sys2Proof.Machine.execCcWatchdogExpiry core s
  | .rtWatchdogExpiry rt1 => Sys2Proof.Machine.execRtWatchdogExpiry rt1 s
  | .memoryReadError e => Sys2Proof.Machine.execMemoryReadError e s
  | .encoderEdge lane edge => Sys2Proof.Machine.execEncoderEdge lane edge s
  | .encoderOpenLine lane => Sys2Proof.Machine.execEncoderOpenLine lane s
  | .encoderIndex z => Sys2Proof.Machine.execEncoderIndex z s
  | .laneStall lane => Sys2Proof.Machine.execLaneStall lane s
  | .substStroke lane => Sys2Proof.Machine.execSubstStroke lane s
  | .encRateUpdate => Sys2Proof.Machine.execEncRateUpdate s
  | .encLostTimeout lane => Sys2Proof.Machine.execEncLostTimeout lane s
  | .encSnap src word => Sys2Proof.Machine.execEncSnap src word s
  | .alarmArm src slot word => Sys2Proof.Machine.execAlarmArm src slot word s
  | .alarmService => Sys2Proof.Machine.execAlarmService s
  | .alarmFallback slot => Sys2Proof.Machine.execAlarmFallback slot s
  | .mainsEdge edge => Sys2Proof.Machine.execMainsEdge edge s
  | .mainsEdgeSelect src word => Sys2Proof.Machine.execMainsEdgeSelect src word s
  | .mainsLost => Sys2Proof.Machine.execMainsLost s
  | .mainsFreerunTick => Sys2Proof.Machine.execMainsFreerunTick s
  | .burstStart => Sys2Proof.Machine.execBurstStart s
  | .burstStep r => Sys2Proof.Machine.execBurstStep r s
  | .frameStart => Sys2Proof.Machine.execFrameStart s
  | .excitationStep r => Sys2Proof.Machine.execExcitationStep r s
  | .frameClose t0 t1 => Sys2Proof.Machine.execFrameClose t0 t1 s
  | .frameRecordPublish => Sys2Proof.Machine.execFrameRecordPublish s
  | .tomoSingle src word => Sys2Proof.Machine.execTomoSingle src word s
  | .tomoRunClear src word => Sys2Proof.Machine.execTomoRunClear src word s
  | .aftRtdataWrite src die word => Sys2Proof.Machine.execAftRtdataWrite src die word s
  | .calibrationSweepEnd meas temps => Sys2Proof.Machine.execCalibrationSweepEnd meas temps s
  | .reconDispatch => Sys2Proof.Machine.execReconDispatch s
  | .reconPublish => Sys2Proof.Machine.execReconPublish s
  | .reconDeadline => Sys2Proof.Machine.execReconDeadline s
  | .recRunClear src word => Sys2Proof.Machine.execRecRunClear src word s
  | .matrixCopyDone => Sys2Proof.Machine.execMatrixCopyDone s
  | .captureAveraged => Sys2Proof.Machine.execCaptureAveraged s
  | .rollingStateSave => Sys2Proof.Machine.execRollingStateSave s
  | .ledgerRetireTick tick => Sys2Proof.Machine.execLedgerRetireTick tick s
  | .ledgerCheckpoint => Sys2Proof.Machine.execLedgerCheckpoint s
  | .lockLeaseExpiry record => Sys2Proof.Machine.execLockLeaseExpiry record s
  | .plannerRun => Sys2Proof.Machine.execPlannerRun s
  | .fieldReadLotWord bus node data => Sys2Proof.Machine.execFieldReadLotWord bus node data s
  | .fieldWriteUserWord bus node data => Sys2Proof.Machine.execFieldWriteUserWord bus node data s
  | .fieldAddMass bus node data => Sys2Proof.Machine.execFieldAddMass bus node data s
  | .fieldAddSample bus node data => Sys2Proof.Machine.execFieldAddSample bus node data s
  | .fieldSetSampleLane bus node data => Sys2Proof.Machine.execFieldSetSampleLane bus node data s
  | .fieldSetSamplePid bus node data => Sys2Proof.Machine.execFieldSetSamplePid bus node data s
  | .groupLatch g => Sys2Proof.Machine.execGroupLatch g s
  | .strokeTrigger g => Sys2Proof.Machine.execStrokeTrigger g s
  | .slotCompute => Sys2Proof.Machine.execSlotCompute s
  | .groupOutput g => Sys2Proof.Machine.execGroupOutput g s
  | .injectionStart src inj word => Sys2Proof.Machine.execInjectionStart src inj word s
  | .injectionStop src inj word => Sys2Proof.Machine.execInjectionStop src inj word s
  | .traceArm src word => Sys2Proof.Machine.execTraceArm src word s
  | .traceForce src word => Sys2Proof.Machine.execTraceForce src word s
  | .traceStop src word => Sys2Proof.Machine.execTraceStop src word s
  | .ftableDataWrite src word => Sys2Proof.Machine.execFtableDataWrite src word s
  | .loopLoadUpdate => Sys2Proof.Machine.execLoopLoadUpdate s
  | .valveBankPeriod bank => Sys2Proof.Machine.execValveBankPeriod bank s
  | .valveReload ch m => Sys2Proof.Machine.execValveReload ch m s
  | .boostEnd ch current => Sys2Proof.Machine.execBoostEnd ch current s
  | .valveCmdOn src ch word => Sys2Proof.Machine.execValveCmdOn src ch word s
  | .valveClearFault src ch word => Sys2Proof.Machine.execValveClearFault src ch word s
  | .closingAverageEnd ch volts => Sys2Proof.Machine.execClosingAverageEnd ch volts s
  | .closingWindowEnd ch => Sys2Proof.Machine.execClosingWindowEnd ch s
  | .coilModelTick => Sys2Proof.Machine.execCoilModelTick s
  | .coilResMeasure ch volts current => Sys2Proof.Machine.execCoilResMeasure ch volts current s
  | .valveShortTrip ch leg current => Sys2Proof.Machine.execValveShortTrip ch leg current s
  | .vcoilFault bank volts => Sys2Proof.Machine.execVcoilFault bank volts s
  | .vcoilReturn bank volts => Sys2Proof.Machine.execVcoilReturn bank volts s
  | .valveEnableClear src word => Sys2Proof.Machine.execValveEnableClear src word s
  | .valveEnableSet src word => Sys2Proof.Machine.execValveEnableSet src word s
  | .fanReload ch m => Sys2Proof.Machine.execFanReload ch m s
  | .tachEdge ch => Sys2Proof.Machine.execTachEdge ch s
  | .stretchEnd ch => Sys2Proof.Machine.execStretchEnd ch s
  | .fanShortTrip ch current => Sys2Proof.Machine.execFanShortTrip ch current s
  | .fanOvercurTimeout ch current => Sys2Proof.Machine.execFanOvercurTimeout ch current s
  | .fanClearFault src ch word => Sys2Proof.Machine.execFanClearFault src ch word s
  | .fanFreqChange src word => Sys2Proof.Machine.execFanFreqChange src word s
  | .scanCycleStart => Sys2Proof.Machine.execScanCycleStart s
  | .fieldPolarityReverse k => Sys2Proof.Machine.execFieldPolarityReverse k s
  | .fieldMeasurementEnd k m => Sys2Proof.Machine.execFieldMeasurementEnd k m s
  | .loopOvercurrent input => Sys2Proof.Machine.execLoopOvercurrent input s
  | .recoveryDue input => Sys2Proof.Machine.execRecoveryDue input s
  | .sinePassRequest src word => Sys2Proof.Machine.execSinePassRequest src word s
  | .affRunClear src word => Sys2Proof.Machine.execAffRunClear src word s
  | .modeRequest src word => Sys2Proof.Machine.execModeRequest src word s
  | .modeTransition => Sys2Proof.Machine.execModeTransition s
  | .calibrationEnd => Sys2Proof.Machine.execCalibrationEnd s
  | .calibrationTimeout => Sys2Proof.Machine.execCalibrationTimeout s
  | .holdEntry cause => Sys2Proof.Machine.execHoldEntry cause s
  | .arpRequest ip mac => Sys2Proof.Machine.execArpRequest ip mac s
  | .icmpEcho ip data => Sys2Proof.Machine.execIcmpEcho ip data s
  | .datagramDiscard d => Sys2Proof.Machine.execDatagramDiscard d s
  | .arpRefresh => Sys2Proof.Machine.execArpRefresh s
  | .ipApply src word => Sys2Proof.Machine.execIpApply src word s
  | .ipSave src word => Sys2Proof.Machine.execIpSave src word s
  | .openControl h p => Sys2Proof.Machine.execOpenControl h p s
  | .prove h p => Sys2Proof.Machine.execProve h p s
  | .openObserver h p => Sys2Proof.Machine.execOpenObserver h p s
  | .close h p => Sys2Proof.Machine.execClose h p s
  | .ping h p => Sys2Proof.Machine.execPing h p s
  | .revoke h p => Sys2Proof.Machine.execRevoke h p s
  | .evmask h p => Sys2Proof.Machine.execEvmask h p s
  | .pendingSessionExpiry record => Sys2Proof.Machine.execPendingSessionExpiry record s
  | .sessionIdleExpiry record => Sys2Proof.Machine.execSessionIdleExpiry record s
  | .keyLockoutEnd slot => Sys2Proof.Machine.execKeyLockoutEnd slot s
  | .keyDataWrite src word => Sys2Proof.Machine.execKeyDataWrite src word s
  | .keyLoad src word => Sys2Proof.Machine.execKeyLoad src word s
  | .keyErase src word => Sys2Proof.Machine.execKeyErase src word s
  | .keyBufferTimeout => Sys2Proof.Machine.execKeyBufferTimeout s
  | .heldCompletionExpiry record tag => Sys2Proof.Machine.execHeldCompletionExpiry record tag s
  | .bulkdata h offset last data => Sys2Proof.Machine.execBulkdata h offset last data s
  | .bulkwin h acked limit => Sys2Proof.Machine.execBulkwin h acked limit s
  | .bulkResendTimeout record tag => Sys2Proof.Machine.execBulkResendTimeout record tag s
  | .bulkTimeout record tag => Sys2Proof.Machine.execBulkTimeout record tag s
  | .getInfo h p => Sys2Proof.Machine.execGetInfo h p s
  | .modeReq h p => Sys2Proof.Machine.execModeReq h p s
  | .reset h p => Sys2Proof.Machine.execReset h p s
  | .read h p => Sys2Proof.Machine.execRead h p s
  | .write h p => Sys2Proof.Machine.execWrite h p s
  | .readBlock h p rivals => Sys2Proof.Machine.execReadBlock h p rivals s
  | .writeBlock h p => Sys2Proof.Machine.execWriteBlock h p s
  | .readList h p => Sys2Proof.Machine.execReadList h p s
  | .snapshot h p => Sys2Proof.Machine.execSnapshot h p s
  | .timeSet h p => Sys2Proof.Machine.execTimeSet h p s
  | .alarmSet h p => Sys2Proof.Machine.execAlarmSet h p s
  | .alarmClear h p => Sys2Proof.Machine.execAlarmClear h p s
  | .geomLoad h p => Sys2Proof.Machine.execGeomLoad h p s
  | .geomRead h p => Sys2Proof.Machine.execGeomRead h p s
  | .calSweep h p => Sys2Proof.Machine.execCalSweep h p s
  | .calLoad h p => Sys2Proof.Machine.execCalLoad h p s
  | .calRead h p => Sys2Proof.Machine.execCalRead h p s
  | .rangeSave h p => Sys2Proof.Machine.execRangeSave h p s
  | .rangeRead h p => Sys2Proof.Machine.execRangeRead h p s
  | .frameRead h p => Sys2Proof.Machine.execFrameRead h p s
  | .matLoad h p => Sys2Proof.Machine.execMatLoad h p s
  | .matInfo h p => Sys2Proof.Machine.execMatInfo h p s
  | .modelLoad h p => Sys2Proof.Machine.execModelLoad h p s
  | .modelRead h p => Sys2Proof.Machine.execModelRead h p s
  | .refLoad h p => Sys2Proof.Machine.execRefLoad h p s
  | .refRead h p => Sys2Proof.Machine.execRefRead h p s
  | .captureStart h p => Sys2Proof.Machine.execCaptureStart h p s
  | .captureEnd h p => Sys2Proof.Machine.execCaptureEnd h p s
  | .anchor h p => Sys2Proof.Machine.execAnchor h p s
  | .mapSummary h p => Sys2Proof.Machine.execMapSummary h p s
  | .mapRead h p => Sys2Proof.Machine.execMapRead h p s
  | .lotOpen h p => Sys2Proof.Machine.execLotOpen h p s
  | .lotClose h p => Sys2Proof.Machine.execLotClose h p s
  | .lotRead h p => Sys2Proof.Machine.execLotRead h p s
  | .lotWrite h p => Sys2Proof.Machine.execLotWrite h p s
  | .parcelRead h p => Sys2Proof.Machine.execParcelRead h p s
  | .parcelWrite h p => Sys2Proof.Machine.execParcelWrite h p s
  | .lock h p => Sys2Proof.Machine.execLock h p s
  | .unlock h p => Sys2Proof.Machine.execUnlock h p s
  | .parcelDump h p => Sys2Proof.Machine.execParcelDump h p s
  | .archRead h p => Sys2Proof.Machine.execArchRead h p s
  | .planStatus h p => Sys2Proof.Machine.execPlanStatus h p s
  | .traceInfo h p => Sys2Proof.Machine.execTraceInfo h p s
  | .traceRead h p => Sys2Proof.Machine.execTraceRead h p s
  | .ftableLoad h p => Sys2Proof.Machine.execFtableLoad h p s
  | .ftableRead h p => Sys2Proof.Machine.execFtableRead h p s
  | .driveStatus h p => Sys2Proof.Machine.execDriveStatus h p s
  | .faultClear h p => Sys2Proof.Machine.execFaultClear h p s
  | .inputRead h p => Sys2Proof.Machine.execInputRead h p s
  | .linLoad h p => Sys2Proof.Machine.execLinLoad h p s
  | .linRead h p => Sys2Proof.Machine.execLinRead h p s
  | .sinePass h p => Sys2Proof.Machine.execSinePass h p s
  | .aerBin h p => Sys2Proof.Machine.execAerBin h p s
  | .aerStatus h p => Sys2Proof.Machine.execAerStatus h p s
  | .busStatus h p => Sys2Proof.Machine.execBusStatus h p s
  | .busRecover h p => Sys2Proof.Machine.execBusRecover h p s
  | .objWrite h p => Sys2Proof.Machine.execObjWrite h p s
  | .verdict h p => Sys2Proof.Machine.execVerdict h p s
  | .shuffleNow h p => Sys2Proof.Machine.execShuffleNow h p s
  | .pathStatus h p => Sys2Proof.Machine.execPathStatus h p s
  | .clusterStatus h p => Sys2Proof.Machine.execClusterStatus h p s
  | .rejoin h p => Sys2Proof.Machine.execRejoin h p s
  | .tempRead h p => Sys2Proof.Machine.execTempRead h p s
  | .throttleAck h p => Sys2Proof.Machine.execThrottleAck h p s
  | .fwLoad h p => Sys2Proof.Machine.execFwLoad h p s
  | .bankState h p => Sys2Proof.Machine.execBankState h p s
  | .bankSelect h p => Sys2Proof.Machine.execBankSelect h p s
  | .poolStatus h p => Sys2Proof.Machine.execPoolStatus h p s
  | .safeStatus h p => Sys2Proof.Machine.execSafeStatus h p s
  | .parityScrub upset => Sys2Proof.Machine.execParityScrub upset s
  | .spiWrite mosi cut gap => Sys2Proof.Machine.execSpiWrite mosi cut gap s
  | .spiRead mosi cut gap => Sys2Proof.Machine.execSpiRead mosi cut gap s
  | .safeHeartbeat word => Sys2Proof.Machine.execSafeHeartbeat word s
  | .safeHoldRequest word => Sys2Proof.Machine.execSafeHoldRequest word s
  | .heartbeatLapse => Sys2Proof.Machine.execHeartbeatLapse s
  | .safeAliveTick => Sys2Proof.Machine.execSafeAliveTick s
  | .busEnable src bus word => Sys2Proof.Machine.execBusEnable src bus word s
  | .busIntegrated bus => Sys2Proof.Machine.execBusIntegrated bus s
  | .busDisable src bus word => Sys2Proof.Machine.execBusDisable src bus word s
  | .busCycleStart bus => Sys2Proof.Machine.execBusCycleStart bus s
  | .windowOpen bus w => Sys2Proof.Machine.execWindowOpen bus w s
  | .txAttemptStart bus => Sys2Proof.Machine.execTxAttemptStart bus s
  | .txAttemptEnd bus o => Sys2Proof.Machine.execTxAttemptEnd bus o s
  | .canFrameReceived bus f => Sys2Proof.Machine.execCanFrameReceived bus f s
  | .busRecoveryDone bus => Sys2Proof.Machine.execBusRecoveryDone bus s
  | .busRecoverWrite src bus word => Sys2Proof.Machine.execBusRecoverWrite src bus word s
  | .rxStaleTimeout obj => Sys2Proof.Machine.execRxStaleTimeout obj s
  | .ledgerResponseSend bus => Sys2Proof.Machine.execLedgerResponseSend bus s
  | .ledgerReplyWindowEnd bus node => Sys2Proof.Machine.execLedgerReplyWindowEnd bus node s
  | .pathImageSave link => Sys2Proof.Machine.execPathImageSave link s
  | .switchoverStart link => Sys2Proof.Machine.execSwitchoverStart link s
  | .switchoverGapEnd link => Sys2Proof.Machine.execSwitchoverGapEnd link s
  | .switchoverDone link => Sys2Proof.Machine.execSwitchoverDone link s
  | .shuffleDue link => Sys2Proof.Machine.execShuffleDue link s
  | .takebackDue link => Sys2Proof.Machine.execTakebackDue link s
  | .enumFrameSend => Sys2Proof.Machine.execEnumFrameSend s
  | .enumFrameReceive f => Sys2Proof.Machine.execEnumFrameReceive f s
  | .clusterFormed => Sys2Proof.Machine.execClusterFormed s
  | .ringCycleStart => Sys2Proof.Machine.execRingCycleStart s
  | .ringFrameReceive f => Sys2Proof.Machine.execRingFrameReceive f s
  | .ringFrameReturn f => Sys2Proof.Machine.execRingFrameReturn f s
  | .memberLost a => Sys2Proof.Machine.execMemberLost a s
  | .selfLost => Sys2Proof.Machine.execSelfLost s
  | .relayVerdictGo src word => Sys2Proof.Machine.execRelayVerdictGo src word s
  | .replyAgeExpiry record => Sys2Proof.Machine.execReplyAgeExpiry record s
  | .thermalDemand src word => Sys2Proof.Machine.execThermalDemand src word s
  | .thermalWatchdogDemand => Sys2Proof.Machine.execThermalWatchdogDemand s
  | .throttleEventDemand => Sys2Proof.Machine.execThrottleEventDemand s
  | .conversionEnd temps => Sys2Proof.Machine.execConversionEnd temps s
  | .graceExpiry => Sys2Proof.Machine.execGraceExpiry s
  | .svcRead req => Sys2Proof.Machine.execSvcRead req s
  | .svcWrite req => Sys2Proof.Machine.execSvcWrite req s
  | .svcTimeout => Sys2Proof.Machine.execSvcTimeout s
  | .svcFramingError => Sys2Proof.Machine.execSvcFramingError s
  | .bypass => Sys2Proof.Machine.execBypass s
  | .idcode => Sys2Proof.Machine.execIdcode s
  | .samplePreload cells => Sys2Proof.Machine.execSamplePreload cells s
  | .extest => Sys2Proof.Machine.execExtest s
  | .clamp => Sys2Proof.Machine.execClamp s
  | .jtagTestReset low => Sys2Proof.Machine.execJtagTestReset low s
  | .referenceLoss => Sys2Proof.Machine.execReferenceLoss s
  | .clockMeasure src word => Sys2Proof.Machine.execClockMeasure src word s
  | .clockMeasureDone freq => Sys2Proof.Machine.execClockMeasureDone freq s
  | .commitReadbackDone ok => Sys2Proof.Machine.execCommitReadbackDone ok s
  | .powerLoss mv => Sys2Proof.Machine.execPowerLoss mv s
  | .powerLossConfirm mv => Sys2Proof.Machine.execPowerLossConfirm mv s
  | .stateSaveSealed => Sys2Proof.Machine.execStateSaveSealed s
  | .holdupEmpty => Sys2Proof.Machine.execHoldupEmpty s
  | .chargeEnd mv => Sys2Proof.Machine.execChargeEnd mv s
  | .holdupEstimateTick mv ua => Sys2Proof.Machine.execHoldupEstimateTick mv ua s
  | .holdupCompare => Sys2Proof.Machine.execHoldupCompare s
  | .resetNRelease => Sys2Proof.Machine.execResetNRelease s
  | .arpReply ip mac => Sys2Proof.Machine.execArpReply ip mac s
  | .coreRestartComplete core => Sys2Proof.Machine.execCoreRestartComplete core s
  | .receiverError bus code field bit => Sys2Proof.Machine.execReceiverError bus code field bit s
  | .badOpcodeCommand h op p => Sys2Proof.Machine.execBadOpcodeCommand h op p s
  | .pllUnlockShort pll => Sys2Proof.Machine.execPllUnlockShort pll s
  | .vinBelowStop mv => Sys2Proof.Machine.execVinBelowStop mv s

end Sys2Proof.Machine
end

