-- ==== Sys2Proof/Machine/Step.lean ====
section
/-!
DEFINITION. Machine/Step.lean: one step: the command at the front of the queue, or a tick of the 250 MHz clock.
-/
namespace Sys2Proof.Machine

/-- One step: the command at the front acts with the rest of the queue; with none waiting, one tick of the 250 MHz clock passes
(R606, assumption log 2). -/
def step (s : State) : Host.Outcome State Fault Refusal :=
  match s.pending with
  | c :: l => exec c { s with pending := l }
  | [] => onBoard opTick s

/-- The state with the command that a word spells in front: no row of the opcode table has bits, so no word spells one. -/
def State.withFetchWord (s : State) (nbits w : Nat) : State :=
  match decodeTableWord nbits w with
  | some c => { s with pending := c :: s.pending }
  | none => s

end Sys2Proof.Machine
end

