-- ==== Sys2Proof/Machine/Balls.lean ====
section
/-!
DEFINITION. Machine/Balls.lean: the state that each signal ball holds in reset or while its domain is off (R634).
-/
namespace Sys2Proof.Machine

/-- The state a ball holds in reset or while its domain is off. -/
def restOf : Ball → BallRest
  | .electrode _ => .clamped
  | .guard _ => .clamped
  | .resistive _ => .open
  | .groupReturn _ => .open
  | .groupSense _ => .open
  | .loop _ => .shuntClosed
  | .voltage _ => .megohmToGround
  | .diode _ => .open
  | .ntc _ => .open
  | .encoder _ => .input
  | .mainsSync => .input
  | .fieldTx _ _ => .high
  | .fieldRx _ _ => .input
  | .rgmii _ => .highImpedance
  | .management _ => .highImpedance
  | .phyReset _ => .low
  | .ringTx _ => .transmitterOff
  | .ringRx _ => .receiverTerminated
  | .head => .input
  | .refsel => .input
  | .oscillator => .running
  | .resetN => .input
  | .supervisorIn => .input
  | .supMiso => .highImpedance
  | .svcTx => .high
  | .svcRx => .input
  | .tdo => .highImpedance
  | .test _ => .input
  | .valve _ => .switchOpen
  | .fan _ => .switchOpen
  | .tach _ => .input
  | .holdup => .chargerOff

/-- The power domain that serves a ball (R603). -/
def ballDomain : Ball → Nat
  | .electrode n => n / 8
  | .guard b => b
  | .resistive n => 32 + groupOf n
  | .groupReturn g => 32 + g
  | .groupSense g => 32 + g
  | .loop n => 32 + groupOf (192 + n)
  | .voltage n => 32 + groupOf (216 + n)
  | .fieldTx b p => 130 + 2 * b + p
  | .fieldRx b p => 130 + 2 * b + p
  | .rgmii p => 128 + p
  | .management p => 128 + p
  | .phyReset p => 128 + p
  | .ringTx p => 138 + 2 * p
  | .ringRx p => 139 + 2 * p
  | .supervisorIn => 143
  | .supMiso => 143
  | .valve n => 88 + n
  | .fan n => 120 + n
  | .holdup => 145
  | _ => 142

/-- Where a ball stands in its state of R634: `none` while the module runs and the ball's domain is on, when its unit drives it, and while
EXTEST or CLAMP drives it from its cell (R597). -/
def ballRest (x : Ball) : Op (Option BallRest) := do
  let u ← units
  let on ← domainOn (ballDomain x)
  pure (if u.jtag.drives && x.pins != 0 then none else if u.pwr.resetNLow || u.pwr.stopped || !on then some (restOf x) else none)

end Sys2Proof.Machine
end

