-- ==== Sys2Proof/Safety.lean ====
section
/-!
DEFINITION. Safety.lean: the words that claims are stated in: what a state shows, when the module acts on what reaches it, what it
means that a command completes, and which steps are safe.
-/
namespace Sys2Proof.Machine

/-- What register `a` holds. -/
def State.reg (s : State) (a : Nat) : Word := s.dev.regs.get a

/-- What a register field holds. -/
def State.fld (s : State) (f : RF) : Nat := f.of (s.reg f.reg)

/-- The module has supply and is not held in reset (R600, R609). -/
abbrev Live (s : State) : Prop := s.dev.u.pwr.stopped = false ∧ s.dev.u.pwr.resetNLow = false

/-- The module has supply; RESET_N may hold it in reset. -/
abbrev Supplied (s : State) : Prop := s.dev.u.pwr.stopped = false

/-- The register file is in its canonical form: every step keeps it so. -/
abbrev Canon (s : State) : Prop := s.dev.regs.wf = true

/-- Command `c` completes from `s`: a next state with the same queue, of which `Q` holds. -/
def Does (c : Instr) (s : State) (Q : State → Prop) : Prop := ∃ t, exec c s = .next t ∧ t.pending = s.pending ∧ Q t

/-- Command `c` stops from `s` with fault `f`. -/
def Stops (c : Instr) (s : State) (f : Fault) : Prop := exec c s = .fault f

/-- A step is safe when it ends in a next state. -/
def SafeStep (s : State) : Prop := ∃ t, step s = .next t

/-- Whether an address lies in one of the windows `ws` (R34). -/
def inWindows (ws : List Nat) (a : Nat) : Prop := a / 0x10000 ∈ ws

/-- Every register outside the windows `ws` is unchanged. -/
def RegsKept (ws : List Nat) (s t : State) : Prop := ∀ a, ¬ inWindows ws a → t.reg a = s.reg a

/-- Every register but those of `l` is unchanged. -/
def OnlyRegs (l : List Nat) (s t : State) : Prop := ∀ a, a ∉ l → t.reg a = s.reg a

/-- A signed 48-bit counter that two registers hold. -/
def State.s48 (s : State) (lo hi : Nat) : Int := toSigned 48 ((s.reg hi).toNat * 2 ^ 32 + (s.reg lo).toNat)

/-- A number that two registers hold. -/
def State.n64 (s : State) (lo hi : Nat) : Nat := (s.reg hi).toNat * 2 ^ 32 + (s.reg lo).toNat

/-- Lane `n`'s position counter (R44). -/
def State.pos (s : State) (n : Nat) : Int := s.s48 (R.ENC_POSL n) (R.ENC_POSH n)

/-- Lane `n`'s lead position (R46). -/
def State.lead (s : State) (n : Nat) : Int := s.s48 (R.ENC_LEADL n) (R.ENC_LEADH n)

/-- Lane `n` beside its registers. -/
def State.lane (s : State) (n : Nat) : EncLane := s.dev.u.enc.lanes.getD n {}

/-- An edge of channel B or A of lane `n` whose level was stable for `m` samples is valid, and far enough from the last valid edge of
the other channel to be counted (R42). -/
abbrev EdgeCounts (s : State) (n : Nat) (chB : Bool) (m : Nat) : Prop :=
  s.fld (F.ENC_LCTL_FILT n) ≤ m ∧
    ∀ x ∈ (if chB then (s.lane n).edgeA else (s.lane n).edgeB), x + s.fld (F.ENC_LCTL_FILT n) * 10 + 20 ≤ s.dev.u.elapsed

/-- The mains-cycle counter (R70). -/
def State.mains (s : State) : Nat := s.n64 R.ENC_MCNTL R.ENC_MCNTH

/-- SYS_MODE.CUR (R330). -/
def State.mode (s : State) : Nat := s.fld F.SYS_MODE_CUR

/-- Session record `i`. -/
def State.sess (s : State) (i : Nat) : Session := s.dev.u.cmd.sessions.getD i {}

/-- Whether domain `d` is on (R603). -/
abbrev State.powered (s : State) (d : Nat) : Prop := s.fld (domField d) = 1

/-- The mode whose rules hold: in HOLD, the mode HOLD was entered from (R341). -/
def State.base (s : State) : Nat := if s.mode = modeHold then s.fld F.SYS_MODE_HFROM else s.mode

/-- The frequencies of the plan registers, in kHz (R89). -/
def State.planFreq (s : State) : List Nat := (List.range 4).map fun t => s.fld (F.TOMO_TFREQ_FREQ t)

/-- The amplitudes of the plan registers, in mV (R89). -/
def State.planAmp (s : State) : List Nat := (List.range 4).map fun t => s.fld (F.TOMO_TAMP_AMP t)

/-- Frames are wanted: RUN or a single frame, in a mode that permits tomography, (R101). -/
abbrev FramesWanted (s : State) : Prop :=
  (s.fld F.TOMO_CTL_RUN = 1 ∨ s.dev.u.tomo.single = true) ∧ s.base ∈ [2, 3, 4, 6]

/-- The frame period in 10 µs: TOMO_FPER, and at least the minimum (R100). -/
def State.framePeriod (s : State) : Nat := max (s.fld F.TOMO_FPER_FPER) (if s.fld F.TOMO_CTL_BLEN = 1 then 1152 else 1024)

/-- The clock tick at wall time `w` holds an aligned instant of a module that leads no ring, for frames of at least `least` × 10 µs (R99). -/
abbrev Aligned (s : State) (least w : Nat) : Prop :=
  s.dev.u.rng.joined = false ∧ w % 10000 < 4 ∧
    (w / 10000) % max (s.fld F.TOMO_FPER_FPER) least = s.fld F.TOMO_FPHASE_FPHASE % max (s.fld F.TOMO_FPER_FPER) least

/-- Lane `n`'s calibration factor, in 1/65,536 µm a stroke (R49). -/
def State.factor (s : State) (n : Nat) : Nat := s.fld (F.ENC_CALI_CALI n) * 65536 + s.fld (F.ENC_CALF_CALF n)

/-- Whether mode `m` powers domain `d`, as the enables stand (R340): enabled banks, field groups with an enabled input, tiles with their
SRAM, valve and blower gates. -/
def State.modePowers (s : State) (m d : Nat) : Bool :=
  if d < 32 then decide (m ∈ [1, 2, 3, 4, 6]) && bitAt (s.fld F.TOMO_BANKENL_EN + s.fld F.TOMO_BANKENH_EN * 65536) d
  else if d < 56 then decide (m ≠ 0) && (groupInputs (d - 32)).any fun i => s.fld (F.AFF_ICFG_EN i) == 1
  else if d < 88 then decide (m ∈ [1, 2, 3, 4, 6])
  else if d < 120 then decide (m ∈ [2, 3, 4, 5, 6])
  else true

/-- Every domain that R340 gives a mode is on or off in `t` as mode `m` has it, by the enables of `s`. -/
abbrev ModePowered (s t : State) (m : Nat) : Prop := ∀ d ∈ List.range 128, t.powered d ↔ s.modePowers m d = true

/-- Lane `n` is cut: PCL_CTL.RUN, a factor, a length, and FLOW (R170). -/
abbrev Cuts (s : State) (n : Nat) : Prop :=
  s.fld F.PCL_CTL_RUN = 1 ∧ s.factor n ≠ 0 ∧ s.fld (F.PCL_LLEN_LLEN n) ≠ 0 ∧ s.base = modeFlow

/-- The position that alarm slot `a` compares with (R53). -/
def State.compareAt (s : State) (a : Nat) : Int :=
  toSigned 48 (s.fld (F.ENC_ACMP0_CMP a) + s.fld (F.ENC_ACMP1_CMP a) * 2 ^ 16 + s.fld (F.ENC_ACMP2_CMP a) * 2 ^ 32)

/-- Field bus `b` beside its registers. -/
def State.bus (s : State) (b : Nat) : FldBus := s.dev.u.fld.buses.getD b {}

/-- The lot record at index `i`. -/
def State.lot (s : State) (i : Nat) : Option (List Byte) := (s.dev.u.pcl.lots.find? fun x => x.1 = i).map (·.2)

/-- Bus `b` takes a Ledger request of operation `op` from `node` (R193, R497). -/
abbrev RequestHeard (s : State) (b op node : Nat) (d : List Byte) : Prop :=
  s.fld (F.FLD_LEDG_EN b) = 1 ∧ b < 4 ∧ s.fld (F.FLD_BSTAT_STATE b) ≤ 1 ∧ 1 ≤ node ∧ node ≤ 62 ∧ d.length = 16 ∧
    leAt d 0 1 = op ∧ leAt d 1 1 = node ∧ (s.dev.u.net.links.getD (b + 1) {}).gap = false ∧ privHolds s.dev.u Client.fieldBus 1 = true ∧
    replyWaits (s.bus b) node = false ∧ (s.bus b).replies.length < 61

/-- The response of R193 with a status and a VALUE waits on bus `b` for its reply window (R498). -/
def Responds (s t : State) (b node : Nat) (d : List Byte) (status value : Nat) : Prop :=
  (t.bus b).replies.length = (s.bus b).replies.length + 1 ∧
  (t.bus b).replies.getLast?.map (fun r => (r.node, r.frame, r.ends)) = some (node, ⟨false, true, false, true, false, s.fld (F.FLD_LEDG_BASE b) * 128 + 64 + node, 10,
    d.take 10 ++ leBytes 4 value ++ leBytes 1 status ++ zeros 1⟩, s.dev.u.elapsed + max 1 (s.fld F.FLD_LRWIN_WIN) * 10000)

/-- The samples of bytes on the service line, each sixteen times a bit: a low start bit, eight data bits with the least significant first, and
a high stop bit (R590). -/
def uartLine (l : List Byte) : List Bool :=
  l.flatMap fun x => List.replicate 16 false ++ (List.range 8).flatMap (fun k => List.replicate 16 (x.toNat.testBit k)) ++ List.replicate 16 true

/-- The receiver of the service port waits for a request on a line that has been idle for `k` samples. -/
abbrev SvcIdle (s : State) (k : Nat) : Prop := s.dev.u.svc.rx = { idle := k } ∧ s.dev.u.svc.req = []

/-- The bit time, in cycles of 96 MHz, at which the service port runs from a start bit on that ends `k` idle samples (R590, R592). -/
def State.svcRate (s : State) (k : Nat) : Nat := max 32 (if 16 ≤ k then s.fld F.SVC_BAUD_DIV else s.dev.u.svc.div)

/-- When the receiver has a byte of whose line the last sample comes now: seven samples after its stop bit was sampled. -/
def State.svcByteAt (s : State) (k : Nat) : Nat := s.dev.u.elapsed - 7 * s.svcRate k * 1000 / 1536

/-- The service port is enabled and idle for `k` samples, its last answer has left, and bytes that follow each other at its rate are no more
than 1 ms apart (R594). -/
abbrev SvcReady (s : State) (k : Nat) : Prop :=
  s.fld F.SVC_CTL_EN = 1 ∧ SvcIdle s k ∧ s.dev.u.svc.answering.getD 0 ≤ s.svcByteAt k ∧ s.svcRate k ≤ 9600

/-- Loop slot `n` beside its registers. -/
def State.slot (s : State) (n : Nat) : LoopSlot := s.dev.u.loop.slots.getD n {}

/-- Period group `g` beside its registers. -/
def State.group (s : State) (g : Nat) : LoopGroup := s.dev.u.loop.groups.getD g {}

/-- The control engine holds its 128 slots, eight groups and four generators. -/
abbrev LoopWhole (s : State) : Prop :=
  s.dev.u.loop.slots.length = 128 ∧ s.dev.u.loop.groups.length = 8 ∧ s.dev.u.loop.gens.length = 4

/-- The period of wall-time group `g` in 10 µs (R205, R206). -/
def State.groupPer (s : State) (g : Nat) : Nat :=
  max 10 (min 1000000 (max 1 (s.fld (F.LOOP_PGPER_COUNT g)) * [1, 100, 10000, 1].getD (s.fld (F.LOOP_PGPER_UNIT g)) 1))

/-- The period of stroke group `g` in strokes (R207). -/
def State.groupStrokes (s : State) (g : Nat) : Nat :=
  max 1 (s.fld (F.LOOP_PGPER_COUNT g)) * [1, 16, 256, 1].getD (s.fld (F.LOOP_PGPER_UNIT g)) 1

/-- Valve channel `n` beside its registers. -/
def State.vch (s : State) (n : Nat) : ValveCh := s.dev.u.vdrv.chs.getD n {}

/-- Valve channel `n` stands for itself, in no pair (R249), and the drive holds its 32 channels. -/
abbrev Unpaired (s : State) (n : Nat) : Prop :=
  n < 32 ∧ bitAt (s.reg R.VDRV_PAIR).toNat (n / 2) = false ∧ s.dev.u.vdrv.chs.length = 32

/-- Channel `n` is the even channel of a formed pair, whose registers govern both legs (R249). -/
abbrev PairHead (s : State) (n : Nat) : Prop :=
  n < 32 ∧ n % 2 = 0 ∧ bitAt (s.reg R.VDRV_PAIR).toNat (n / 2) = true ∧ s.dev.u.vdrv.chs.length = 32

/-- Channel `n` is the odd channel of a formed pair (R249, R661). -/
abbrev PairTail (s : State) (n : Nat) : Prop :=
  n < 32 ∧ n % 2 = 1 ∧ bitAt (s.reg R.VDRV_PAIR).toNat (n / 2) = true ∧ s.dev.u.vdrv.chs.length = 32

/-- Blower channel `n` beside its registers. -/
def State.fch (s : State) (n : Nat) : FanCh := s.dev.u.fan.chs.getD n {}

/-- Converter `k` of the field front end. -/
def State.conv (s : State) (k : Nat) : FieldConv := s.dev.u.aff.convs.getD k {}

/-- Command core 0 to 3, RT0 (4) or RT1 (5) runs its firmware (R39). -/
abbrev CoreUp (s : State) (k : Nat) : Prop := bitAt (s.reg R.SYS_CORESTAT).toNat k = true

/-- The module takes its own mode requests: it is in no cluster of more than one, and no transition waits (R332, R542). -/
abbrev ModeFree (s : State) : Prop :=
  s.dev.u.rng.ring = false ∧ s.dev.u.rng.joined = false ∧ bitAt s.dev.u.rng.orders 1 = false ∧ s.fld F.SYS_MODE_BUSY = 0

/-- The tag word of a packet: its class and its tag (R359). -/
def tagWord (h : Hdr) : Nat := classOf h.tagw * 8192 + tagOf h.tagw

/-- The host link carries frames both ways: its active port is on, and no switch-over and no confirmed loss of supply stands in
the way (R505, R513, R621). -/
abbrev HostLinkUp (s : State) : Prop :=
  s.powered (128 + s.fld (F.NET_LSTAT_ACTIVE 0)) ∧ (s.dev.u.net.links.getD 0 {}).want = false ∧
    (s.dev.u.net.links.getD 0 {}).gap = false ∧ (s.dev.u.net.links.getD 0 {}).flush = false ∧ s.dev.u.pwr.loss = none

/-- Address `ip` has a next hop: itself within the prefix in force, else the gateway (R357). -/
abbrev HasHop (s : State) (ip : Nat) : Prop :=
  (s.reg R.CMD_IP).toNat / 2 ^ (32 - s.fld F.CMD_PFX_PFX) = ip / 2 ^ (32 - s.fld F.CMD_PFX_PFX) ∨ s.reg R.CMD_GW ≠ 0

/-- Packet `h` names open session record `i`, from its address and port, with a sequence number later than H (R360, R361); what
goes to the session leaves at once. -/
abbrev Named (s : State) (i : Nat) (h : Hdr) : Prop :=
  h.session ≠ 0 ∧ findSess s.dev.u.cmd.sessions h.session = some i ∧ (s.sess i).st = .opened ∧ (s.sess i).ip = h.ip ∧
    (s.sess i).port = h.port ∧ laterThan h.seq (s.sess i).h = true ∧ (s.sess i).queue = [] ∧ HasHop s h.ip

/-- The tag of `h` is outstanding in no command and no transfer of session record `i`, and no completion of it is held (R379, R382). -/
abbrev TagFree (s : State) (i : Nat) (h : Hdr) : Prop :=
  tagIn (s.sess i) (tagWord h) = none ∧ bulkOf (s.sess i) (tagWord h) = none ∧ ∀ x ∈ (s.sess i).held, x.tag ≠ tagOf h.tagw

/-- The host's private pool holds the buffers of a command packet of `n` bytes and of its reply of `k` (R362, R558). -/
abbrev HostBufs (s : State) (n k : Nat) : Prop :=
  s.dev.u.pool.privUsed.length = 5 ∧ s.dev.u.pool.privUsed.getD 3 0 + frameBufs n + frameBufs k ≤ s.dev.u.pool.priv.getD 3 0

/-- Command packet `h` with opcode `op` and payload `p` is taken as new for session record `i` (R360 to R362, R379 to R382): the
link is up, the session takes the packet, the tag is free, and credit, intake and buffers are there. -/
abbrev Heard (s : State) (i op : Nat) (h : Hdr) (p : List Byte) : Prop :=
  Live s ∧ Canon s ∧ HostLinkUp s ∧ Named s i h ∧ TagFree s i h ∧
    HostBufs s p.length (match opInfo op with | none => 0 | some f => f.reply) ∧
    busyCause s.dev.u (s.sess i) op = none

/-- As `Heard`, for a command that its session may send, in its class and length, and whose core runs (R384, R28): its function
runs now. -/
abbrev Ready (s : State) (i op : Nat) (h : Hdr) (p : List Byte) : Prop :=
  Heard s i op h p ∧ CoreUp s (coreOf (op / 256)) ∧ preCheck (s.sess i) (tagWord h) op p = none

/-- The opcode, header and payload of the packet that a row of the opcode table stands for; `none` for a row that is none. -/
def packetOf (c : Instr) : Option (Nat × Hdr × List Byte) :=
  match c with
  | .openControl h p => some (0x0101, h, p)
  | .prove h p => some (0x0102, h, p)
  | .openObserver h p => some (0x0103, h, p)
  | .close h p => some (0x0104, h, p)
  | .ping h p => some (0x0105, h, p)
  | .revoke h p => some (0x0106, h, p)
  | .evmask h p => some (0x0107, h, p)
  | .getInfo h p => some (0x0001, h, p)
  | .modeReq h p => some (0x0002, h, p)
  | .reset h p => some (0x0003, h, p)
  | .read h p => some (0x0201, h, p)
  | .write h p => some (0x0202, h, p)
  | .readBlock h p _ => some (0x0203, h, p)
  | .writeBlock h p => some (0x0204, h, p)
  | .readList h p => some (0x0205, h, p)
  | .snapshot h p => some (0x0301, h, p)
  | .timeSet h p => some (0x0302, h, p)
  | .alarmSet h p => some (0x0303, h, p)
  | .alarmClear h p => some (0x0304, h, p)
  | .geomLoad h p => some (0x0401, h, p)
  | .geomRead h p => some (0x0402, h, p)
  | .calSweep h p => some (0x0403, h, p)
  | .calLoad h p => some (0x0404, h, p)
  | .calRead h p => some (0x0405, h, p)
  | .rangeSave h p => some (0x0406, h, p)
  | .rangeRead h p => some (0x0407, h, p)
  | .frameRead h p => some (0x0408, h, p)
  | .matLoad h p => some (0x0501, h, p)
  | .matInfo h p => some (0x0502, h, p)
  | .modelLoad h p => some (0x0503, h, p)
  | .modelRead h p => some (0x0504, h, p)
  | .refLoad h p => some (0x0505, h, p)
  | .refRead h p => some (0x0506, h, p)
  | .captureStart h p => some (0x0507, h, p)
  | .captureEnd h p => some (0x0508, h, p)
  | .anchor h p => some (0x0509, h, p)
  | .mapSummary h p => some (0x050A, h, p)
  | .mapRead h p => some (0x050B, h, p)
  | .lotOpen h p => some (0x0601, h, p)
  | .lotClose h p => some (0x0602, h, p)
  | .lotRead h p => some (0x0603, h, p)
  | .lotWrite h p => some (0x0604, h, p)
  | .parcelRead h p => some (0x0605, h, p)
  | .parcelWrite h p => some (0x0606, h, p)
  | .lock h p => some (0x0607, h, p)
  | .unlock h p => some (0x0608, h, p)
  | .parcelDump h p => some (0x0609, h, p)
  | .archRead h p => some (0x060A, h, p)
  | .planStatus h p => some (0x0701, h, p)
  | .traceInfo h p => some (0x0801, h, p)
  | .traceRead h p => some (0x0802, h, p)
  | .ftableLoad h p => some (0x0803, h, p)
  | .ftableRead h p => some (0x0804, h, p)
  | .driveStatus h p => some (0x0901, h, p)
  | .faultClear h p => some (0x0902, h, p)
  | .inputRead h p => some (0x0A01, h, p)
  | .linLoad h p => some (0x0A02, h, p)
  | .linRead h p => some (0x0A03, h, p)
  | .sinePass h p => some (0x0A04, h, p)
  | .aerBin h p => some (0x0B01, h, p)
  | .aerStatus h p => some (0x0B02, h, p)
  | .busStatus h p => some (0x0C01, h, p)
  | .busRecover h p => some (0x0C02, h, p)
  | .objWrite h p => some (0x0C03, h, p)
  | .verdict h p => some (0x0D01, h, p)
  | .shuffleNow h p => some (0x0D02, h, p)
  | .pathStatus h p => some (0x0D03, h, p)
  | .clusterStatus h p => some (0x0E01, h, p)
  | .rejoin h p => some (0x0E02, h, p)
  | .tempRead h p => some (0x0F01, h, p)
  | .throttleAck h p => some (0x0F02, h, p)
  | .fwLoad h p => some (0x1001, h, p)
  | .bankState h p => some (0x1002, h, p)
  | .bankSelect h p => some (0x1003, h, p)
  | .poolStatus h p => some (0x1004, h, p)
  | .safeStatus h p => some (0x1101, h, p)
  | .badOpcodeCommand h op p => some (op, h, p)
  | _ => none

/-- What taking a packet of session record `i` leaves: H and the idle time follow it, and CMD_RXCNT counts it (R361, R372). -/
abbrev PacketCounted (s t : State) (i : Nat) (h : Hdr) : Prop :=
  (t.sess i).h = h.seq % 2 ^ 32 ∧ (t.sess i).lastTaken = s.dev.u.elapsed ∧
    t.fld F.CMD_RXCNT_CNT = (s.fld F.CMD_RXCNT_CNT + 1) % 2 ^ 32

/-- A packet of a kind, with a status and payload, left as the answer to command `h`. -/
abbrev Sent (s t : State) (op : Nat) (h : Hdr) (kind status : Nat) (payload : List Byte) : Prop :=
  ((t.dev.u.out.drop s.dev.u.out.length).any fun o => match o with
    | .packet x _ => decide (x.ip = h.ip ∧ x.port = h.port ∧ x.kind = kind ∧ x.session = h.session ∧ x.tagw = tagWord h ∧ x.opcode = op ∧
        x.status = status ∧ x.payload = payload)
    | _ => false) = true

/-- Command `h` of session record `i` has completed (R383): the completion left, a copy of it is held, and its tag is free. -/
abbrev Answered (s t : State) (i op : Nat) (h : Hdr) (status : Nat) (payload : List Byte) : Prop :=
  PacketCounted s t i h ∧ Sent s t op h 3 status payload ∧ tagIn (t.sess i) (tagWord h) = none ∧
    ∃ x ∈ (t.sess i).held, x.tag = tagOf h.tagw ∧ x.pkt.opcode = op ∧ x.pkt.status = status ∧ x.pkt.payload = payload

/-- Command `h` of session record `i` runs on (R380): its ACK left, and its tag is outstanding. -/
abbrev Started (s t : State) (i op : Nat) (h : Hdr) : Prop :=
  PacketCounted s t i h ∧ Sent s t op h 2 St.ok [] ∧
    ∃ x ∈ (t.sess i).tags, tagOf x.tagw = tagOf h.tagw ∧ x.opcode = op ∧ x.acked = true ∧ x.started = true

/-- A link's data but for its working copies, their images and its change log (R504, R507), which follow what it carries. -/
def linkBare (k : NetLink) : NetLink :=
  { k with work := [], images := [], saving := none, saveAt := none, saveSlot := 0, log := [], lost := false }

/-- The links are as they were but for their working copies. -/
abbrev SameLinks (s t : State) : Prop := t.dev.u.net.links.map linkBare = s.dev.u.net.links.map linkBare

/-- A command that only tells changes the command layer, the pools, the working copies of its sequence numbers and what left:
registers of CMD, POOL and, for recovery buffers, NET (R522), and none of another unit. -/
def TellsOnly (s t : State) : Prop :=
  RegsKept [4, 5, 0x11] s t ∧ SameLinks s t ∧
    t.dev.u = { s.dev.u with cmd := t.dev.u.cmd, pool := t.dev.u.pool, out := t.dev.u.out, free := t.dev.u.free, net := { s.dev.u.net with links := t.dev.u.net.links } }

/-- Register `a` shows what it holds, and a read changes nothing of it: it stands in the thermal, field-bus, ring, reconstruction or
ledger window and has no RC field. -/
abbrev Plain (a : Nat) : Prop := (rowOf a).any (fun x => x.1.rc == 0) = true ∧ a / 0x10000 ∈ [3, 6, 7, 0xB, 0xC]

/-- A write of word `w` to `a` is one that the thermal, ring, reconstruction or ledger unit stores in a control register: the register has
no action bit and no field that refuses a value, and the write keeps the KP bits that it selects (R448, R451, R454). -/
def State.stores (s : State) (a w : Nat) : Bool :=
  [3, 7, 0xB, 0xC].contains (a / 0x10000) && (rowOf a).any fun x => x.1.mask && x.1.wo == 0 && x.1.noThree.isEmpty && (w ^^^ (s.reg a).toNat) &&& (w / 65536) &&& x.1.kp == 0

/-- Bit `j` of control register `a` after a write of word `w`: the mask selects it, or it stays (R449). -/
def State.storedBit (s : State) (a w j : Nat) : Bool :=
  if bitAt (w / 65536) j && bitAt (((rowOf a).map (·.1.rw)).getD 0) j then bitAt w j else bitAt (s.reg a).toNat j

/-- Whether `src` is a session opened with the KEYADMIN right (R375, R376). -/
def State.keyAdmin (s : State) : Src → Bool
  | .host i => (s.sess i).st == .opened && (s.sess i).keyAdmin
  | _ => false

/-- The object commit `o` with data `d` runs for command `h` of session record `i`: it opens, at step 1 of R614, and `step` is the one
that it goes on to with the data that it has (3 while they arrive, 4 with all in hand). -/
abbrev Commits (t : State) (i : Nat) (h : Hdr) (o : CommitObj) (step : Nat) (d : List Byte) : Prop :=
  t.dev.u.nv.commit.map (fun c => (c.obj, c.step, c.data, c.serves)) = some (o, step, d, some (i, tagWord h)) ∧
    t.fld F.BOOT_JOURNAL_STEP = 1 ∧ t.fld F.BOOT_JOURNAL_KIND = kindOf o

/-- A transfer into the module of `len` bytes stands ready for command `h` of session record `i` (R390). -/
abbrev TakesBulk (s t : State) (i op : Nat) (h : Hdr) (len : Nat) : Prop :=
  bulkOf (t.sess i) (tagWord h) = some { tagw := tagWord h, opcode := op, out := false, len := len, data := [], acked := 0, limit := 92672, next := 0, run := 0, waitSince := some s.dev.u.elapsed, limitSince := none, ringSeq := 0 }

/-- A transfer of data `d` out of the module runs for command `h` of session record `i`, and as much of it as the first window
allows has left (R390, R391). -/
abbrev SendsBulk (t : State) (i op : Nat) (h : Hdr) (d : List Byte) : Prop :=
  (bulkOf (t.sess i) (tagWord h)).map (fun b => (b.opcode, b.out, b.len, b.data, b.acked, b.limit, decide (min b.len 92672 ≤ b.next))) =
    some (op, true, d.length, d, 0, 92672, true)

/-- The nominal and the data bit time of bus `b`, in periods of the 80 MHz clock (R477). -/
def State.nomBit (s : State) (b : Nat) : Nat := (s.fld (F.FLD_NBT0_BRP b) + 1) * (s.fld (F.FLD_NBT0_TSEG1 b) + s.fld (F.FLD_NBT1_TSEG2 b) + 3)
def State.dataBit (s : State) (b : Nat) : Nat := (s.fld (F.FLD_DBT0_BRP b) + 1) * (s.fld (F.FLD_DBT0_TSEG1 b) + s.fld (F.FLD_DBT1_TSEG2 b) + 3)

/-- The timing set of bus `b` is valid (R478). -/
abbrev TimingValid (s : State) (b : Nat) : Prop :=
  80 ≤ s.nomBit b ∧ s.dataBit b ≤ s.nomBit b ∧ 16 ≤ s.dataBit b ∧ s.fld (F.FLD_NBT1_SJW b) ≤ s.fld (F.FLD_NBT0_TSEG1 b) ∧
    s.fld (F.FLD_NBT1_SJW b) ≤ s.fld (F.FLD_NBT1_TSEG2 b) ∧ s.fld (F.FLD_DBT1_SJW b) ≤ s.fld (F.FLD_DBT0_TSEG1 b) ∧
    s.fld (F.FLD_DBT1_SJW b) ≤ s.fld (F.FLD_DBT1_TSEG2 b)

/-- Bus `b` is up, with nothing of the module's own on it (R484, R513): it is error-active or error-passive, no attempt runs, and
its link is not switching. -/
abbrev BusIdle (s : State) (b : Nat) : Prop :=
  b < 4 ∧ s.fld (F.FLD_BSTAT_STATE b) ≤ 1 ∧ (s.bus b).sending = none ∧ (s.bus b).replySending = none ∧
    (s.dev.u.net.links.getD (b + 1) {}).gap = false ∧ (s.dev.u.net.links.getD (b + 1) {}).clearAt ≤ s.dev.u.elapsed ∧
    s.dev.u.fld.buses.length = 4

/-- Receive object `o` takes frame `f` of bus `b` (R494). -/
abbrev Takes (s : State) (b : Nat) (f : CanFrame) (o : Nat) : Prop :=
  s.fld (F.FLD_RXCFG_EN o) = 1 ∧ s.fld (F.FLD_RXCFG_BUS o) = b ∧ (s.fld (F.FLD_RXCFG_XID o) = 1 ↔ f.ext = true) ∧
    (let m := if f.ext then s.fld (F.FLD_RXMSKH_M o) * 65536 + s.fld (F.FLD_RXMSKL_M o) else s.fld (F.FLD_RXMSKL_M o) % 2048
     f.id &&& m = (s.fld (F.FLD_RXIDH_ID o) * 65536 + s.fld (F.FLD_RXIDL_ID o)) &&& m) ∧
    (if f.fd then s.fld (F.FLD_RXCFG_FDOK o) = 1 else s.fld (F.FLD_RXCFG_CLOK o) = 1)

/-- The 64 data bytes of transmit object `o` (R481). -/
def State.txData (s : State) (o : Nat) : List Byte := (List.range 16).flatMap fun k => leBytes 4 (s.reg (R.FLD_TXDATA o k)).toNat

/-- The 64 data bytes of receive object `o` (R495). -/
def State.rxData (s : State) (o : Nat) : List Byte := (List.range 16).flatMap fun k => leBytes 4 (s.reg (R.FLD_RXDATA o k)).toNat

/-- The module is the head of a ring of more than one, or another module of it (R526, R527). -/
abbrev RingHead (s : State) : Prop := s.dev.u.rng.ring = true ∧ s.dev.u.pwr.headLow = true
abbrev RingMember (s : State) : Prop := s.dev.u.rng.ring = true ∧ s.dev.u.pwr.headLow = false

/-- The ring's active path carries frames (R513, R552). -/
abbrev RingUp (s : State) : Prop :=
  (s.dev.u.net.links.getD 5 {}).want = false ∧ (s.dev.u.net.links.getD 5 {}).gap = false

/-- Every register of the windows `ws` holds its reset value (R612). -/
def RegsReset (ws : List Nat) (t : State) : Prop := ∀ a, inWindows ws a → t.reg a = regReset a

/-- The registers that a cold reset leaves at another value than their reset value: what shows its cause, the outcome of the last save,
the straps, the firmware and matrix banks, the starts since power-on, and what stands in NV. -/
def coldShown : List Nat :=
  [R.PWR_RSTCAUSE, R.PWR_LASTSAVE, R.PWR_STAT, R.RNG_STAT, R.CLK_STAT, R.BOOT_BANKS, R.BOOT_FWVER0, R.BOOT_FWVER1, R.BOOT_MATID0, R.BOOT_MATID1,
    R.BOOT_LAST, R.PCL_ARCHHEAD, R.PCL_ARCHCNT, R.PCL_PIDNEXT]

/-- The registers that a warm reset keeps whole outside the lanes of ENC (R612): the mains counter and its control, the hold and
set values of the blowers, the hold values of the valves, and the hold values of the field buses. -/
def warmWhole : List Nat :=
  [R.ENC_MCNTL, R.ENC_MCNTH, R.ENC_MCTL] ++ (List.range 8).map R.FAN_SET ++ (List.range 8).map R.FAN_HOLDV ++ (List.range 32).map R.VDRV_HOLDV ++
    (List.range 256).map R.FLD_TXHVAL

/-- The registers that a warm reset keeps in part, or that show the Ledger's tables, which stay. -/
def warmPart : List Nat :=
  [R.ENC_MSTAT, R.PCL_STAT, R.PCL_LIVE, R.PCL_LOTS] ++ (List.range 16).map R.PCL_LNLIVE ++ (List.range 256).map R.FLD_TXOPT

/-- What a warm reset leaves: the lanes of ENC and `warmWhole` as they were, and every other register at its reset value but for
`coldShown` and `warmPart`. -/
abbrev WarmRegs (s t : State) : Prop :=
  (∀ a, 0x100000 ≤ a → a < 0x100400 → t.reg a = s.reg a) ∧ (∀ a ∈ warmWhole, t.reg a = s.reg a) ∧
    ∀ a, a ∉ coldShown ++ warmWhole ++ warmPart → (a < 0x100000 ∨ 0x100400 ≤ a) → t.reg a = regReset a

/-- What a saved register holds in NV, which is what is in force (R623). -/
def State.inForce (s : State) (f : RF) : Nat := f.of (savedReg s.dev.u.nv f.reg)

/-- No power-loss sequence runs (R621). -/
abbrev NoLoss (s : State) : Prop := s.dev.u.pwr.loss = none

/-- NV after a reset (R612, R615): the commit in progress and those that wait are gone, and the target of the one is as before, or complete
where its SEAL record was durable. -/
def CutNv (n m : NvS) : Prop := m = resetNv n ∨ ∃ c, n.commit = some c ∧ c.step = 4 ∧ c.shown < 5 ∧ m = resetNv (commitSeal c n)

/-- The commit in progress, if any, writes a bank that is not in force (R614). -/
abbrev TargetIdle (n : NvS) : Prop := (n.commit.all fun c => c.bank == targetBank n c.obj) = true

/-- The commands that may stop, each on a use that R576 leaves undefined: a bit to be kept that a write changes, a host alarm slot
that a register write touches, a pool written while it is not quiet, a ring that its own enumeration rules out, an SPI frame too
soon after the last. Registers, the ports that write them, and a core's waiting commands lead there; nothing else does. -/
def mayStop : Instr → Bool
  | .registerWrite _ _ _ => true
  | .coresStart => true
  | .powerOnReset _ => true
  | .closingAverageEnd _ _ => true
  | .vcoilFault _ _ => true
  | .vcoilReturn _ _ => true
  | .holdupEstimateTick _ _ => true
  | .encSnap _ _ => true
  | .alarmArm _ _ _ => true
  | .mainsEdgeSelect _ _ => true
  | .tomoSingle _ _ => true
  | .tomoRunClear _ _ => true
  | .aftRtdataWrite _ _ _ => true
  | .recRunClear _ _ => true
  | .injectionStart _ _ _ => true
  | .injectionStop _ _ _ => true
  | .traceArm _ _ => true
  | .traceForce _ _ => true
  | .traceStop _ _ => true
  | .ftableDataWrite _ _ => true
  | .valveCmdOn _ _ _ => true
  | .valveClearFault _ _ _ => true
  | .valveEnableClear _ _ => true
  | .valveEnableSet _ _ => true
  | .fanClearFault _ _ _ => true
  | .fanFreqChange _ _ => true
  | .sinePassRequest _ _ => true
  | .affRunClear _ _ => true
  | .modeRequest _ _ => true
  | .ipApply _ _ => true
  | .ipSave _ _ => true
  | .keyDataWrite _ _ => true
  | .keyLoad _ _ => true
  | .keyErase _ _ => true
  | .write _ _ => true
  | .writeBlock _ _ => true
  | .snapshot _ _ => true
  | .alarmSet _ _ => true
  | .alarmClear _ _ => true
  | .faultClear _ _ => true
  | .parityScrub _ => true
  | .spiWrite _ _ _ => true
  | .spiRead _ _ _ => true
  | .safeHeartbeat _ => true
  | .safeHoldRequest _ => true
  | .busEnable _ _ _ => true
  | .busDisable _ _ _ => true
  | .busRecoverWrite _ _ _ => true
  | .enumFrameReceive _ => true
  | .relayVerdictGo _ _ => true
  | .thermalDemand _ _ => true
  | .svcRead _ => true
  | .svcWrite _ => true
  | .clockMeasure _ _ => true
  | .coreRestartComplete _ => true
  | .badOpcodeCommand _ _ _ => true
  | _ => false

/-- The banks of the tables, the references and the saved state are pairs, and each kind names one of its two (R613). -/
abbrev NvWhole (s : State) : Prop :=
  s.dev.u.nv.tab.length = 2 ∧ s.dev.u.nv.ref.length = 2 ∧ s.dev.u.nv.state.length = 2 ∧ s.dev.u.nv.tabSel ≤ 1 ∧ s.dev.u.nv.refSel ≤ 1 ∧ s.dev.u.nv.stateSel ≤ 1

/-- SYS_ID holds the identity it has after reset, and no register list saved in NV, or on its way there, names it. -/
def IdentityHeld (s : State) : Prop :=
  s.reg R.SYS_ID = regReset R.SYS_ID ∧ (∀ x ∈ s.dev.u.nv.tables.regs ++ s.dev.u.nv.saved.affRegs, x.1 ≠ R.SYS_ID) ∧
    ∀ c ∈ s.dev.u.nv.commit.toList ++ s.dev.u.nv.queued, ∀ w, c.obj = .registers w → ∀ x ∈ w, x.1 ≠ R.SYS_ID

end Sys2Proof.Machine
end

