-- ==== Sys2Proof/WellFormed.lean ====
section
/-!
DEFINITION. WellFormed.lean: which operands a command can carry. The outside supplies them, so each bound is the range of what it
names: a lane, a slot, a channel, a bus, a field of a packet or of a frame. A command outside them is none of the table's; the
meanings still answer for it (assumption log 12).
-/
namespace Sys2Proof

/-- A number below a bound. -/
def below (n top : Nat) : Bool := decide (n < top)

/-- A host source is one of the four session records (R363). -/
def Src.wf : Src → Bool
  | .host r => below r 4
  | .service => true
  | .core => true
  | .engine => true
  | .supervisor => true

/-- The fields of a packet's header fit their widths (R359); class 4 to 7 and bits 12:9 are not ruled out, since R384 and R360
answer for them. -/
def Hdr.wf (h : Hdr) : Bool :=
  below h.ip (2 ^ 32) && below h.port 65536 && below h.session 65536 && below h.seq (2 ^ 32) && below h.tagw 65536

/-- A payload fits a datagram (R359). -/
def payloadOk (p : List Byte) : Bool := decide (p.length ≤ 1456)

/-- The consumer of a word exists (R25). -/
def MemUser.wf : MemUser → Bool
  | .reconEngine stack _ => below stack 2
  | .ledgerParcel pid => below pid (2 ^ 32)
  | .ledgerLot k => below k 4096
  | .coreData k => below k 6
  | .coreCode k => below k 6
  | .bulkRead r tag => below r 4 && below tag 512

/-- A word has 64 bits and their check bits, a codeword 8,192 and theirs; some are wrong (R23). -/
def MemErr.wf : MemErr → Bool
  | .word n c => decide (1 ≤ n) && below n 73 && c.wf
  | .firmware n b => decide (1 ≤ n) && below b 2
  | .matrix n => decide (1 ≤ n)

/-- The codes of a dwell: 1,024 of a 14-bit converter (R78, R95). -/
def dwellWf (l : List Int) : Bool := decide (l.length = 1024) && l.all fun x => decide (-8192 ≤ x ∧ x ≤ 8191)

/-- One channel of the 256 and what it measured. -/
def ChSense.wf (c : ChSense) : Bool :=
  below c.ch 256 && dwellWf c.dwell && c.settle.all fun x => decide (-8192 ≤ x.2 ∧ x.2 ≤ 8191)

/-- Each of a list stands in it once. -/
def distinct (l : List Nat) : Bool := l.all fun x => l.count x == 1

/-- A step: the dwell begins at the first sample at or after 14.4 µs; channels, guards and dies that exist (R95). -/
def StepSense.wf (r : StepSense) : Bool :=
  decide (14400 ≤ r.dwellAt ∧ r.dwellAt ≤ 14425) && r.channels.all ChSense.wf && distinct (r.channels.map (·.ch)) && dwellWf r.drive && r.guards.all (fun x => below x.1 32) &&
    r.syncErr.all (below · 2) && r.linkErr.all (below · 2)

/-- One step of a sweep: a channel, a code and a reference that exist (R110). -/
def CalStep.wf (c : CalStep) : Bool := below c.ch 256 && below c.code 4 && below c.ref 3 && below c.step 64 && dwellWf c.sense && dwellWf c.drive

/-- A frame's identifier, length code and data agree (R475, R480). -/
def CanFrame.wf (f : CanFrame) : Bool :=
  below f.id (if f.ext then 2 ^ 29 else 2 ^ 11) && below f.dlc 16 && decide (f.data.length ≤ if f.fd then 64 else 8)

/-- The bits that the longest frame has in each field of R489, the error frame's in the width of BITPOS. -/
def fieldBits (field : Nat) : Nat := [33, 8, 512, 26, 2, 7, 512, 3].getD field 0

/-- Where a stuff error can be found (ISO 11898-1): from the sixth bit on, as far as a frame is stuffed; of a classical frame the last
place is the CRC delimiter, which follows the last stuffed bit. -/
def stuffPlace (field pos : Nat) : Bool := (field == 0 && decide (5 ≤ pos)) || field == 1 || field == 2 || (field == 3 && decide (pos ≤ 15))

/-- Where a form error can be found (ISO 11898-1, R475): at the res bit of an FD frame, in its CRC field with the fixed stuff bits and the
delimiter, of a classical frame at the CRC delimiter, at the ACK delimiter, in EOF, and in the delimiter of an error or overload frame. -/
def formPlace (field pos : Nat) : Bool := (field == 1 && pos == 1) || field == 3 || (field == 4 && pos == 1) || field == 5 || field == 6

/-- The codes of R489 that a place can carry for a transmitter before its error frame: a missing ACK at the ACK slot only, a bit error
outside arbitration and the ACK slot, and no CRC error. -/
def txErrorPlace (code field pos : Nat) : Bool :=
  below field 6 && below pos (fieldBits field) &&
    ((code == 6 && field == 4 && pos == 0) || (code == 4 && stuffPlace field pos) || (code == 5 && formPlace field pos) ||
      (code == 3 && field != 0 && !(field == 4 && pos == 0)))

/-- Those for a receiver: a CRC error at the ACK delimiter only, a bit error in its own error or overload flag only, and no missing ACK;
of the last bit of EOF a receiver makes an overload frame. Code 0 is no error: only dominant bits after its flag, which count. -/
def rxErrorPlace (code field pos : Nat) : Bool :=
  below field 8 && below pos (fieldBits field) &&
    ((code == 0 && field == 6) || (code == 4 && stuffPlace field pos) || (code == 5 && formPlace field pos && !(field == 5 && pos == 6)) ||
      (code == 7 && field == 4 && pos == 1) || (code == 3 && field == 6))

/-- The errors of an error or overload frame are bit errors of the flag and form errors of the delimiter. -/
def AfterError.wf (a : AfterError) : Bool := a.errors.all fun x => (x.1 == 3 || x.1 == 5) && below x.2 512

/-- The places of an attempt's end (R489). -/
def TxEnd.wf : TxEnd → Bool
  | .success after => after.wf
  | .lostArbitration pos => below pos (fieldBits 0)
  | .error code field pos after => txErrorPlace code field pos && after.wf

/-- A discarded packet's fields fit their widths (R359). -/
def Discard.wf : Discard → Bool
  | .transport => true
  | .checksum d => decide (d.length ≤ 1500)
  | .form d => decide (d.length ≤ 1472)
  | .packet ip port sid seq => below ip (2 ^ 32) && below port 65536 && below sid 65536 && below seq (2 ^ 32)

/-- An enumeration frame's wall time fits 64 bits (R528). -/
def EnumFrame.wf (f : EnumFrame) : Bool := below f.wall (2 ^ 64)

/-- The addresses that wrote a ring frame are ring addresses (R525); the frame fits the staging of one (R556). -/
def RingFrame.wf (f : RingFrame) : Bool := (f.written.all fun a => decide (1 ≤ a ∧ a ≤ 8)) && decide (f.bytes.length ≤ 17 * 256)

/-- Whether a command's operands are in their ranges. -/
def Instr.wf : Instr → Bool
  | .registerWrite src _ _ => src.wf
  | .powerOnReset mv => decide (mv ≤ 70000)
  | .railFault rail => below rail 8
  | .pllUnlock pll => below pll 6
  | .resetNAssert => true
  | .moduleWatchdogExpiry => true
  | .commandReset => true
  | .clusterReset => true
  | .coresStart => true
  | .ccWatchdogExpiry core => below core 4
  | .rtWatchdogExpiry _ => true
  | .memoryReadError e => e.wf
  | .encoderEdge lane _ => below lane 16
  | .encoderOpenLine lane => below lane 16
  | .encoderIndex z => below z.lane 16
  | .laneStall lane => below lane 16
  | .substStroke lane => below lane 16
  | .encRateUpdate => true
  | .encLostTimeout lane => below lane 16
  | .encSnap src _ => src.wf
  | .alarmArm src slot _ => src.wf && below slot 512
  | .alarmService => true
  | .alarmFallback slot => below slot 512
  | .mainsEdge _ => true
  | .mainsEdgeSelect src _ => src.wf
  | .mainsLost => true
  | .mainsFreerunTick => true
  | .burstStart => true
  | .burstStep r => r.wf
  | .frameStart => true
  | .excitationStep r => r.wf
  | .frameClose _ _ => true
  | .frameRecordPublish => true
  | .tomoSingle src _ => src.wf
  | .tomoRunClear src _ => src.wf
  | .aftRtdataWrite src die _ => src.wf && below die 2
  | .calibrationSweepEnd meas _ => meas.all CalStep.wf
  | .reconDispatch => true
  | .reconPublish => true
  | .reconDeadline => true
  | .recRunClear src _ => src.wf
  | .matrixCopyDone => true
  | .captureAveraged => true
  | .rollingStateSave => true
  | .ledgerRetireTick _ => true
  | .ledgerCheckpoint => true
  | .lockLeaseExpiry _ => true
  | .plannerRun => true
  | .fieldReadLotWord bus node data => below bus 4 && decide (1 ≤ node ∧ node ≤ 62) && decide (data.length = 16)
  | .fieldWriteUserWord bus node data => below bus 4 && decide (1 ≤ node ∧ node ≤ 62) && decide (data.length = 16)
  | .fieldAddMass bus node data => below bus 4 && decide (1 ≤ node ∧ node ≤ 62) && decide (data.length = 16)
  | .fieldAddSample bus node data => below bus 4 && decide (1 ≤ node ∧ node ≤ 62) && decide (data.length = 16)
  | .fieldSetSampleLane bus node data => below bus 4 && decide (1 ≤ node ∧ node ≤ 62) && decide (data.length = 16)
  | .fieldSetSamplePid bus node data => below bus 4 && decide (1 ≤ node ∧ node ≤ 62) && decide (data.length = 16)
  | .groupLatch g => below g 8
  | .strokeTrigger g => below g 8
  | .slotCompute => true
  | .groupOutput g => below g 8
  | .injectionStart src inj _ => src.wf && below inj 4
  | .injectionStop src inj _ => src.wf && below inj 4
  | .traceArm src _ => src.wf
  | .traceForce src _ => src.wf
  | .traceStop src _ => src.wf
  | .ftableDataWrite src _ => src.wf
  | .loopLoadUpdate => true
  | .valveBankPeriod bank => below bank 4
  | .valveReload ch _ => below ch 32
  | .boostEnd ch _ => below ch 32
  | .valveCmdOn src ch _ => src.wf && below ch 32
  | .valveClearFault src ch _ => src.wf && below ch 32
  | .closingAverageEnd ch volts => below ch 32 && decide (volts ≤ 70000)
  | .closingWindowEnd ch => below ch 32
  | .coilModelTick => true
  | .coilResMeasure ch _ _ => below ch 32
  | .valveShortTrip ch leg _ => below ch 32 && below leg 2
  | .vcoilFault bank volts => below bank 4 && decide (volts ≤ 7000)
  | .vcoilReturn bank volts => below bank 4 && decide (volts ≤ 7000)
  | .valveEnableClear src _ => src.wf
  | .valveEnableSet src _ => src.wf
  | .fanReload ch _ => below ch 8
  | .tachEdge ch => below ch 8
  | .stretchEnd ch => below ch 8
  | .fanShortTrip ch _ => below ch 8
  | .fanOvercurTimeout ch _ => below ch 8
  | .fanClearFault src ch _ => src.wf && below ch 8
  | .fanFreqChange src _ => src.wf
  | .scanCycleStart => true
  | .fieldPolarityReverse k => below k 8
  | .fieldMeasurementEnd k _ => below k 8
  | .loopOvercurrent input => below input 224
  | .recoveryDue input => below input 224
  | .sinePassRequest src _ => src.wf
  | .affRunClear src _ => src.wf
  | .modeRequest src _ => src.wf
  | .modeTransition => true
  | .calibrationEnd => true
  | .calibrationTimeout => true
  | .holdEntry cause => below cause 16
  | .arpRequest ip mac => below ip (2 ^ 32) && below mac (2 ^ 48)
  | .icmpEcho ip _ => below ip (2 ^ 32)
  | .datagramDiscard d => d.wf
  | .arpRefresh => true
  | .ipApply src _ => src.wf
  | .ipSave src _ => src.wf
  | .openControl h p => h.wf && payloadOk p
  | .prove h p => h.wf && payloadOk p
  | .openObserver h p => h.wf && payloadOk p
  | .close h p => h.wf && payloadOk p
  | .ping h p => h.wf && payloadOk p
  | .revoke h p => h.wf && payloadOk p
  | .evmask h p => h.wf && payloadOk p
  | .pendingSessionExpiry record => below record 4
  | .sessionIdleExpiry record => below record 4
  | .keyLockoutEnd slot => below slot 8
  | .keyDataWrite src _ => src.wf
  | .keyLoad src _ => src.wf
  | .keyErase src _ => src.wf
  | .keyBufferTimeout => true
  | .heldCompletionExpiry record tag => below record 4 && below tag 512
  | .bulkdata h _ _ data => h.wf && payloadOk data
  | .bulkwin h _ _ => h.wf
  | .bulkResendTimeout record tag => below record 4 && below tag 512
  | .bulkTimeout record tag => below record 4 && below tag 512
  | .getInfo h p => h.wf && payloadOk p
  | .modeReq h p => h.wf && payloadOk p
  | .reset h p => h.wf && payloadOk p
  | .read h p => h.wf && payloadOk p
  | .write h p => h.wf && payloadOk p
  | .readBlock h p rivals => h.wf && payloadOk p && rivals.all Rival.listed
  | .writeBlock h p => h.wf && payloadOk p
  | .readList h p => h.wf && payloadOk p
  | .snapshot h p => h.wf && payloadOk p
  | .timeSet h p => h.wf && payloadOk p
  | .alarmSet h p => h.wf && payloadOk p
  | .alarmClear h p => h.wf && payloadOk p
  | .geomLoad h p => h.wf && payloadOk p
  | .geomRead h p => h.wf && payloadOk p
  | .calSweep h p => h.wf && payloadOk p
  | .calLoad h p => h.wf && payloadOk p
  | .calRead h p => h.wf && payloadOk p
  | .rangeSave h p => h.wf && payloadOk p
  | .rangeRead h p => h.wf && payloadOk p
  | .frameRead h p => h.wf && payloadOk p
  | .matLoad h p => h.wf && payloadOk p
  | .matInfo h p => h.wf && payloadOk p
  | .modelLoad h p => h.wf && payloadOk p
  | .modelRead h p => h.wf && payloadOk p
  | .refLoad h p => h.wf && payloadOk p
  | .refRead h p => h.wf && payloadOk p
  | .captureStart h p => h.wf && payloadOk p
  | .captureEnd h p => h.wf && payloadOk p
  | .anchor h p => h.wf && payloadOk p
  | .mapSummary h p => h.wf && payloadOk p
  | .mapRead h p => h.wf && payloadOk p
  | .lotOpen h p => h.wf && payloadOk p
  | .lotClose h p => h.wf && payloadOk p
  | .lotRead h p => h.wf && payloadOk p
  | .lotWrite h p => h.wf && payloadOk p
  | .parcelRead h p => h.wf && payloadOk p
  | .parcelWrite h p => h.wf && payloadOk p
  | .lock h p => h.wf && payloadOk p
  | .unlock h p => h.wf && payloadOk p
  | .parcelDump h p => h.wf && payloadOk p
  | .archRead h p => h.wf && payloadOk p
  | .planStatus h p => h.wf && payloadOk p
  | .traceInfo h p => h.wf && payloadOk p
  | .traceRead h p => h.wf && payloadOk p
  | .ftableLoad h p => h.wf && payloadOk p
  | .ftableRead h p => h.wf && payloadOk p
  | .driveStatus h p => h.wf && payloadOk p
  | .faultClear h p => h.wf && payloadOk p
  | .inputRead h p => h.wf && payloadOk p
  | .linLoad h p => h.wf && payloadOk p
  | .linRead h p => h.wf && payloadOk p
  | .sinePass h p => h.wf && payloadOk p
  | .aerBin h p => h.wf && payloadOk p
  | .aerStatus h p => h.wf && payloadOk p
  | .busStatus h p => h.wf && payloadOk p
  | .busRecover h p => h.wf && payloadOk p
  | .objWrite h p => h.wf && payloadOk p
  | .verdict h p => h.wf && payloadOk p
  | .shuffleNow h p => h.wf && payloadOk p
  | .pathStatus h p => h.wf && payloadOk p
  | .clusterStatus h p => h.wf && payloadOk p
  | .rejoin h p => h.wf && payloadOk p
  | .tempRead h p => h.wf && payloadOk p
  | .throttleAck h p => h.wf && payloadOk p
  | .fwLoad h p => h.wf && payloadOk p
  | .bankState h p => h.wf && payloadOk p
  | .bankSelect h p => h.wf && payloadOk p
  | .poolStatus h p => h.wf && payloadOk p
  | .safeStatus h p => h.wf && payloadOk p
  | .parityScrub upset => upset.all (fun a => below a (2 ^ 21) && a % 4 == 0)
  | .spiWrite _ _ _ => true
  | .spiRead _ _ _ => true
  | .safeHeartbeat _ => true
  | .safeHoldRequest _ => true
  | .heartbeatLapse => true
  | .safeAliveTick => true
  | .busEnable src bus _ => src.wf && below bus 4
  | .busIntegrated bus => below bus 4
  | .busDisable src bus _ => src.wf && below bus 4
  | .busCycleStart bus => below bus 4
  | .windowOpen bus w => below bus 4 && below w 32
  | .txAttemptStart bus => below bus 4
  | .txAttemptEnd bus o => below bus 4 && o.wf
  | .canFrameReceived bus f => below bus 4 && f.wf
  | .busRecoveryDone bus => below bus 4
  | .busRecoverWrite src bus _ => src.wf && below bus 4
  | .rxStaleTimeout obj => below obj 256
  | .ledgerResponseSend bus => below bus 4
  | .ledgerReplyWindowEnd bus node => below bus 4 && decide (1 ≤ node ∧ node ≤ 62)
  | .pathImageSave link => below link 6
  | .switchoverStart link => below link 6
  | .switchoverGapEnd link => below link 6
  | .switchoverDone link => below link 6
  | .shuffleDue link => below link 6
  | .takebackDue link => below link 6
  | .enumFrameSend => true
  | .enumFrameReceive f => f.wf
  | .clusterFormed => true
  | .ringCycleStart => true
  | .ringFrameReceive f => f.wf
  | .ringFrameReturn f => f.wf
  | .memberLost a => decide (1 ≤ a ∧ a ≤ 8)
  | .selfLost => true
  | .relayVerdictGo src _ => src.wf
  | .replyAgeExpiry record => below record 4
  | .thermalDemand src _ => src.wf
  | .thermalWatchdogDemand => true
  | .throttleEventDemand => true
  | .conversionEnd temps => decide (temps.length = 16)
  | .graceExpiry => true
  | .svcRead _ => true
  | .svcWrite _ => true
  | .svcTimeout => true
  | .svcFramingError => true
  | .bypass => true
  | .idcode => true
  | .samplePreload cells => cells.all fun x => decide (x.2 < x.1.pins)
  | .extest => true
  | .clamp => true
  | .jtagTestReset _ => true
  | .referenceLoss => true
  | .clockMeasure src _ => src.wf
  | .clockMeasureDone _ => true
  | .commitReadbackDone _ => true
  | .powerLoss _ => true
  | .powerLossConfirm _ => true
  | .stateSaveSealed => true
  | .holdupEmpty => true
  | .chargeEnd _ => true
  | .holdupEstimateTick mv _ => decide (mv ≤ 40000)
  | .holdupCompare => true
  | .resetNRelease => true
  | .arpReply ip mac => below ip (2 ^ 32) && below mac (2 ^ 48)
  | .coreRestartComplete core => below core 6
  | .receiverError bus code field bit => below bus 4 && rxErrorPlace code field bit.pos
  | .badOpcodeCommand h op p => h.wf && below op 65536 && payloadOk p
  | .pllUnlockShort pll => below pll 6
  | .vinBelowStop _ => true

end Sys2Proof
end

