-- ==== Sys2Proof/Certificates/Slice0/Obligations.lean ====
section
/-!
DEFINITION. Certificates/Slice0/Obligations.lean: what the model is held to, in the words of Safety.lean. Each statement is a
conjunction of clauses; each clause says of one command, for every state and operands that meet its hypotheses, that it completes
and what its next state holds.
-/
open Sys2Proof Sys2Proof.Machine

/-- A step runs the command at the front of the queue. Whenever commands wait, one step is the front command's effect on the
  state with the rest of the queue. (opcode table). -/
def Obligations.StepRunsTheFrontCommand : Prop :=
  ∀ (c : Instr) (l : List Instr) (s : State), s.pending = c :: l → step s = exec c { s with pending := l }

/-- With no command waiting, one step is one tick of the 250 MHz clock. The model's choice (assumption log 2): with an empty
  queue, elapsed and wall time advance by 4 ns; while no slew runs and no field operation's lock and no wait for a pair's
  second trip ends, nothing else of the units but the pools' sizes changes, and no register. (R606, assumption log 2). -/
def Obligations.IdleStepIsOneTick : Prop :=
  ∀ (s : State), s.pending = [] → Supplied s → s.dev.u.slew = 0 → (∀ l ∈ s.dev.u.pcl.fieldLocks, s.dev.u.elapsed + 4 ≤ l.expires) → (∀ c ∈ s.dev.u.vdrv.chs, c.trip.all (fun x => decide (s.dev.u.elapsed + 4 ≤ x.2.2 + 1000)) = true) →
    ∃ t, step s = .next t ∧ t.pending = [] ∧ t.dev.u.elapsed = s.dev.u.elapsed + 4 ∧ t.dev.u.wall = s.dev.u.wall + 4 ∧ t.dev.regs = s.dev.regs ∧
      t.dev.u = { s.dev.u with elapsed := t.dev.u.elapsed, wall := t.dev.u.wall, pool := t.dev.u.pool }

/-- No word spells a command, so placing a word changes nothing. No row of the opcode table has bits: every word decodes to
  none, and withFetchWord leaves the state as it is. (opcode table). -/
def Obligations.NoWordSpellsACommand : Prop :=
  ∀ (nbits w : Nat), decodeTableWord nbits w = none ∧ ∀ (s : State), s.withFetchWord nbits w = s

/-- After reset the registers are in canonical form and nothing waits. The register list of the reset state is in its
  canonical form, and its queue is empty. (INVENTORY State). -/
def Obligations.ResetIsCanonical : Prop :=
  Canon State.reset ∧ State.reset.pending = []

/-- Every step keeps the registers in canonical form. From every state whose register list is in its canonical form, a step
  that answers a next state leaves it so. (R35, R449). -/
def Obligations.RegistersStayCanonical : Prop :=
  ∀ (s t : State), Canon s → step s = .next t → Canon t

/-- A lane counts strokes, quadrature errors, lost encoders and index pulses. On a supplied module out of reset: a valid edge
  of a lane that is not lost moves the position counter by one stroke in the sense of A, B and DIR, and the lead position
  follows upwards only, and an armed slot of that lane fires on the counted edge that brings the lead to its compare value,
  and stays armed before it; an edge of both lines sets QERR and counts no stroke; a stroke of a lost lane moves nothing
  before 64 of them; an open line of a lane with RUN = 1 sets OPEN and LOST, and with RUN = 0 nothing; a forward Z pulse
  latches the position that ENC_ZPOSL shows; an edge that comes less than FILT samples after the last edge of either line, or
  whose own level was not stable so long, changes nothing (what lies between the two is free, assumption log 93); a
  substituted stroke advances a lost lane by one; a lane whose balls are tied low sees no edge, no open line and no Z pulse
  (R640). An open line counts after 1 ms of RUN = 1 (R648). Completion (a next state with its own effect, for every state and
  operands that meet the conditions) is stated of: encoderEdge, encoderOpenLine, encoderIndex, substStroke. (R40, R41, R42,
  R43, R44, R46, R53, R62, R65, R66, R69, R640). -/
def Obligations.EncoderCounting : Prop :=
  (∀ (s : State) (n : Nat) (e : Edge) (fwd : Bool) (c : Bool) (m : Nat), Live s → Canon s → n < 16 → s.fld (F.ENC_LSTAT_LOST n) = 0 → e ≠ .both → ((fwd = true ↔ (e = .aLeads ↔ s.fld (F.ENC_LCTL_DIR n) = 0))) → EdgeCounts s n c m → n ∉ s.dev.u.pwr.encTied →
    Does (.encoderEdge n ⟨e, c, m⟩) s fun t => t.pos n = wrapSigned 48 (s.pos n + if fwd then 1 else -1) ∧ t.lead n = (if s.lead n < t.pos n then t.pos n else s.lead n) ∧ t.fld (F.ENC_LSTAT_STALLED n) = 0 ∧ t.fld (F.ENC_LSTAT_REVERSE n) = if t.pos n < t.lead n then 1 else 0) ∧
  (∀ (s : State) (n a m : Nat) (e : Edge) (c : Bool), Live s → Canon s → n < 16 → s.fld (F.ENC_LSTAT_LOST n) = 0 → e ≠ .both → (e = .aLeads ↔ s.fld (F.ENC_LCTL_DIR n) = 0) → EdgeCounts s n c m → n ∉ s.dev.u.pwr.encTied → s.lead n = s.pos n → s.pos n + 1 < 2 ^ 47 → a < 512 → (∃ x ∈ s.dev.u.enc.armed, x.1 = a) → s.fld (F.ENC_ACTL_ARM a) = 1 → s.fld (F.ENC_ACTL_SRC a) = n → s.compareAt a = s.pos n + 1 →
    Does (.encoderEdge n ⟨e, c, m⟩) s fun t => t.lead n = s.compareAt a ∧ t.fld (F.ENC_ACTL_ARM a) = 0 ∧ t.fld (F.ENC_ASTAT_FIRED a) = 1 ∧ t.fld (F.ENC_ASTAT_LATE a) = s.fld (F.ENC_ASTAT_LATE a) ∧ t.fld (F.ENC_ASTAT_FB a) = s.fld (F.ENC_ASTAT_FB a) ∧ bitAt (t.reg (R.ENC_AFIRED (a / 32))).toNat (a % 32) = true ∧ (a, s.dev.u.elapsed / 10) ∈ t.dev.u.enc.fired) ∧
  (∀ (s : State) (n a m : Nat) (e : Edge) (c : Bool), Live s → Canon s → n < 16 → s.fld (F.ENC_LSTAT_LOST n) = 0 → e ≠ .both → (e = .aLeads ↔ s.fld (F.ENC_LCTL_DIR n) = 0) → EdgeCounts s n c m → n ∉ s.dev.u.pwr.encTied → s.lead n = s.pos n → s.pos n + 1 < 2 ^ 47 → a < 512 → (∃ x ∈ s.dev.u.enc.armed, x.1 = a) → s.fld (F.ENC_ACTL_ARM a) = 1 → s.fld (F.ENC_ACTL_SRC a) = n → s.pos n + 1 < s.compareAt a →
    Does (.encoderEdge n ⟨e, c, m⟩) s fun t => t.lead n = s.pos n + 1 ∧ t.fld (F.ENC_ACTL_ARM a) = 1 ∧ t.fld (F.ENC_ASTAT_FIRED a) = s.fld (F.ENC_ASTAT_FIRED a)) ∧
  (∀ (s : State) (n : Nat) (c : Bool) (m : Nat), Live s → Canon s → n < 16 → s.fld (F.ENC_LCTL_FILT n) ≤ m → n ∉ s.dev.u.pwr.encTied →
    Does (.encoderEdge n ⟨.both, c, m⟩) s fun t => t.fld (F.ENC_LSTAT_QERR n) = 1 ∧ t.pos n = s.pos n ∧ t.lead n = s.lead n) ∧
  (∀ (s : State) (n : Nat) (e : Edge) (c : Bool) (m : Nat), Live s → Canon s → n < 16 → s.fld (F.ENC_LSTAT_LOST n) = 1 → e ≠ .both → (s.dev.u.enc.lanes.getD n {}).resyncRun < 63 → EdgeCounts s n c m →
    Does (.encoderEdge n ⟨e, c, m⟩) s fun t => t.pos n = s.pos n ∧ t.lead n = s.lead n ∧ t.fld (F.ENC_LSTAT_LOST n) = 1) ∧
  (∀ (s : State) (n : Nat), Live s → Canon s → n < 16 → n ∉ s.dev.u.pwr.encTied → s.fld (F.ENC_LCTL_RUN n) = 1 → (s.lane n).runSince + 1000000 ≤ s.dev.u.elapsed →
    Does (.encoderOpenLine n) s fun t => t.fld (F.ENC_LSTAT_OPEN n) = 1 ∧ t.fld (F.ENC_LSTAT_LOST n) = 1 ∧ t.pos n = s.pos n ∧ t.lead n = s.lead n ∧ (s.fld (F.ENC_LSTAT_LOST n) = 0 → s.fld (F.ENC_LCTL_SUBST n) = 1 → t.fld (F.ENC_LSTAT_ESTIM n) = 1)) ∧
  (∀ (s : State) (n : Nat) (m : Nat), Live s → Canon s → n < 16 → s.fld (F.ENC_LCTL_FILT n) ≤ m → n ∉ s.dev.u.pwr.encTied →
    Does (.encoderIndex ⟨n, m⟩) s fun t => (t.reg (R.ENC_ZPOSL n)).toNat = ofSigned 32 (s.pos n) ∧ t.pos n = s.pos n) ∧
  (∀ (s : State) (n : Nat), Live s → Canon s → n < 16 → s.fld (F.ENC_LSTAT_ESTIM n) = 1 → s.fld (F.ENC_LSTAT_LOST n) = 1 → ((s.dev.u.enc.lanes.getD n {}).substN + 1) * 16000000000 ≤ (s.dev.u.elapsed - (s.dev.u.enc.lanes.getD n {}).substAt) * s.fld (F.ENC_RATE_RATE n) →
    Does (.substStroke n) s fun t => t.pos n = wrapSigned 48 (s.pos n + 1) ∧ t.lead n = (if s.lead n < t.pos n then t.pos n else s.lead n)) ∧
  (∀ (s : State) (n : Nat) (e : Edge) (c : Bool) (m : Nat), Live s → m < s.fld (F.ENC_LCTL_FILT n) →
    Does (.encoderEdge n ⟨e, c, m⟩) s fun t => t = s) ∧
  (∀ (s : State) (n m : Nat) (e : Edge) (c : Bool), Live s → n ∈ s.dev.u.pwr.encTied →
    Does (.encoderEdge n ⟨e, c, m⟩) s fun t => t = s) ∧
  (∀ (s : State) (n : Nat), Live s → n ∈ s.dev.u.pwr.encTied →
    Does (.encoderOpenLine n) s fun t => t = s) ∧
  (∀ (s : State) (n m : Nat), Live s → n ∈ s.dev.u.pwr.encTied →
    Does (.encoderIndex ⟨n, m⟩) s fun t => t = s) ∧
  (∀ (s : State) (n : Nat), Live s → s.fld (F.ENC_LCTL_RUN n) = 0 →
    Does (.encoderOpenLine n) s fun t => t = s) ∧
  (∀ (s : State) (n : Nat), Live s → s.dev.u.elapsed < (s.lane n).runSince + 1000000 →
    Does (.encoderOpenLine n) s fun t => t = s)

/-- Stalls, rates and the lost timeout of a lane. A lane with RUN = 1 and no stroke for ENC_STALLT ms sets STALLED, and its
  counters stay; each full second ENC_RATE of a lane that is not lost takes 16 times its forward strokes, and a lost lane
  keeps it; a lane lost for ENC_SUBSTMAX s of FLOW raises its event once, in every open session whose mask takes it, a second
  expiry of the same loss changes nothing, and it asserts a HOLD cause where SYS_HOLDCFG.ENCLOST is 1. Completion (a next
  state with its own effect, for every state and operands that meet the conditions) is stated of: laneStall, encRateUpdate,
  encLostTimeout. (R64, R66, R67, R335, R394). -/
def Obligations.EncoderWatch : Prop :=
  (∀ (s : State) (n : Nat), Live s → Canon s → n < 16 → s.fld (F.ENC_LCTL_RUN n) = 1 → s.fld (F.ENC_LSTAT_STALLED n) = 0 → s.fld (F.ENC_STALLT_STALLT n) ≠ 0 → max (s.dev.u.enc.lanes.getD n {}).lastStroke (s.dev.u.enc.lanes.getD n {}).runSince + s.fld (F.ENC_STALLT_STALLT n) * 1000000 ≤ s.dev.u.elapsed →
    Does (.laneStall n) s fun t => t.fld (F.ENC_LSTAT_STALLED n) = 1 ∧ t.pos n = s.pos n ∧ t.lead n = s.lead n) ∧
  (∀ (s : State) (n : Nat), Live s → Canon s → n < 16 → s.dev.u.enc.rateAt + 1000000000 ≤ s.dev.u.elapsed →
    Does .encRateUpdate s fun t => t.fld (F.ENC_RATE_RATE n) = (if s.fld (F.ENC_LSTAT_LOST n) = 0 then min (16 * (s.dev.u.enc.lanes.getD n {}).fwdSecond) 0xFFFFFFFF else s.fld (F.ENC_RATE_RATE n)) ∧ t.dev.u.enc.rateAt = s.dev.u.elapsed) ∧
  (∀ (s : State) (n since : Nat), Live s → Canon s → n < 16 → s.mode = modeFlow → (s.dev.u.enc.lanes.getD n {}).lostAt = some since → (s.dev.u.enc.lanes.getD n {}).lostRaised = false → max since s.dev.u.sys.flowSince + s.fld (F.ENC_SUBSTMAX_SUBSTMAX n) * 1000000000 ≤ s.dev.u.elapsed →
    Does (.encLostTimeout n) s fun t => (t.dev.u.enc.lanes.getD n {}).lostRaised = true ∧ (s.fld F.SYS_HOLDCFG_ENCLOST = 1 → 2 ∈ t.dev.u.sys.causes) ∧ t.pos n = s.pos n ∧ (∀ i ∈ List.range 4, (s.sess i).st = .opened → bitAt (s.sess i).evMask 8 = true → (t.sess i).evCount = ((s.sess i).evCount + 1) % 2 ^ 32)) ∧
  (∀ (s : State) (n : Nat), Live s → (s.dev.u.enc.lanes.getD n {}).lostRaised = true →
    Does (.encLostTimeout n) s fun t => t = s)

/-- Position alarms are armed, fire once, fall back and are serviced; a snapshot latches every counter. Arming a slot whose
  source has reached its compare value fires it at once with LATE, and its ARM reads 0; otherwise it stays armed; SRC 16
  compares with the mains-cycle counter in the same way; a slot with FB not 0 fires on its fallback FB × 100 ms after arming;
  each fired slot is kept with its sample of 100 MHz, and RT1 services the fired slots and none is left; SNAP latches
  positions, lead positions, the mains count and wall time, and advances ENC_SNAPSEQ; a write that changes EDGE restarts the
  period measurement. The arming and the fallback of a slot whose lane's counter is below its lead are stated too: R62 lets no
  alarm occur there, and that the slot fires all the same is the model's choice (DESIGN CHOICE, assumption log 101). An arming
  at or below the source fires in the next sample of 100 MHz. Completion (a next state with its own effect, for every state
  and operands that meet the conditions) is stated of: alarmArm, alarmFallback, alarmService, encSnap, mainsEdgeSelect. (R48,
  R53, R54, R55, R56, R59, R62, R70). -/
def Obligations.AlarmsAndSnapshot : Prop :=
  (∀ (s : State) (src : Src) (a : Nat), Live s → Canon s → 64 ≤ a → a < 512 → s.fld (F.ENC_ACTL_ARM a) = 0 → s.fld (F.ENC_ACTL_SRC a) < 16 → toSigned 48 (s.fld (F.ENC_ACMP0_CMP a) + s.fld (F.ENC_ACMP1_CMP a) * 2 ^ 16 + s.fld (F.ENC_ACMP2_CMP a) * 2 ^ 32) ≤ s.lead (s.fld (F.ENC_ACTL_SRC a)) →
    Does (.alarmArm src a 0x80008000) s fun t => t.fld (F.ENC_ACTL_ARM a) = 0 ∧ t.fld (F.ENC_ASTAT_FIRED a) = 1 ∧ t.fld (F.ENC_ASTAT_LATE a) = 1 ∧ bitAt (t.reg (R.ENC_AFIRED (a / 32))).toNat (a % 32) = true ∧ (a, s.dev.u.elapsed / 10 + 1) ∈ t.dev.u.enc.fired) ∧
  (∀ (s : State) (src : Src) (a : Nat), Live s → Canon s → 64 ≤ a → a < 512 → s.fld (F.ENC_ACTL_ARM a) = 0 → s.fld (F.ENC_ACTL_SRC a) < 16 → s.lead (s.fld (F.ENC_ACTL_SRC a)) < toSigned 48 (s.fld (F.ENC_ACMP0_CMP a) + s.fld (F.ENC_ACMP1_CMP a) * 2 ^ 16 + s.fld (F.ENC_ACMP2_CMP a) * 2 ^ 32) →
    Does (.alarmArm src a 0x80008000) s fun t => t.fld (F.ENC_ACTL_ARM a) = 1 ∧ t.fld (F.ENC_ASTAT_FIRED a) = s.fld (F.ENC_ASTAT_FIRED a) ∧ (a, s.dev.u.elapsed, s.fld (F.ENC_ACTL_FB a)) ∈ t.dev.u.enc.armed ∧ OnlyRegs [R.ENC_ACTL a] s t) ∧
  (∀ (s : State) (a since fb : Nat), Live s → Canon s → a < 512 → s.dev.u.enc.armed.find? (fun x => x.1 = a) = some (a, since, fb) → fb ≠ 0 → since + fb * 100000000 ≤ s.dev.u.elapsed →
    Does (.alarmFallback a) s fun t => t.fld (F.ENC_ACTL_ARM a) = 0 ∧ t.fld (F.ENC_ASTAT_FIRED a) = 1 ∧ t.fld (F.ENC_ASTAT_FB a) = 1 ∧ t.fld (F.ENC_ASTAT_LATE a) = s.fld (F.ENC_ASTAT_LATE a) ∧ (a, s.dev.u.elapsed / 10) ∈ t.dev.u.enc.fired) ∧
  (∀ (s : State), Live s → (∀ a ∈ s.dev.u.enc.fired, 16 ≤ a.1) → CoreUp s 5 →
    Does .alarmService s fun t => t.dev.u.enc.fired = [] ∧ OnlyRegs [] s t) ∧
  (∀ (s : State) (src : Src) (n : Nat), Live s → Canon s → n < 16 →
    Does (.encSnap src 0x00010001) s fun t => t.s48 (R.ENC_SNAPL n) (R.ENC_SNAPH n) = s.pos n ∧ t.s48 (R.ENC_SNAPLDL n) (R.ENC_SNAPLDH n) = s.lead n ∧ t.n64 R.ENC_SNAPML R.ENC_SNAPMH = s.mains ∧ t.n64 R.ENC_SNAPWTL R.ENC_SNAPWTH = s.dev.u.wall % 2 ^ 64 ∧ t.fld F.ENC_SNAPSEQ_SEQ = (s.fld F.ENC_SNAPSEQ_SEQ + 1) % 2 ^ 32 ∧ t.dev.u = s.dev.u) ∧
  (∀ (s : State) (src : Src) (w : Word), Live s → Canon s → (w = 0x80008000 ∨ w = 0x80000000) →
    Does (.mainsEdgeSelect src w) s fun t => t.fld F.ENC_MCTL_EDGE = (if w = 0x80008000 then 1 else 0) ∧ t.fld F.ENC_MCTL_FILT = s.fld F.ENC_MCTL_FILT ∧ (s.fld F.ENC_MCTL_EDGE ≠ t.fld F.ENC_MCTL_EDGE → t.dev.u.enc.mainsRestart = true) ∧ OnlyRegs [R.ENC_MCTL] s t) ∧
  (∀ (s : State) (src : Src) (a : Nat), Live s → Canon s → 64 ≤ a → a < 512 → s.fld (F.ENC_ACTL_ARM a) = 0 → s.fld (F.ENC_ACTL_SRC a) = 16 → s.compareAt a ≤ toSigned 48 s.mains →
    Does (.alarmArm src a 0x80008000) s fun t => t.fld (F.ENC_ACTL_ARM a) = 0 ∧ t.fld (F.ENC_ASTAT_FIRED a) = 1 ∧ t.fld (F.ENC_ASTAT_LATE a) = 1 ∧ (a, s.dev.u.elapsed / 10 + 1) ∈ t.dev.u.enc.fired) ∧
  (∀ (s : State) (src : Src) (a : Nat), Live s → Canon s → 64 ≤ a → a < 512 → s.fld (F.ENC_ACTL_ARM a) = 0 → s.fld (F.ENC_ACTL_SRC a) = 16 → toSigned 48 s.mains < s.compareAt a →
    Does (.alarmArm src a 0x80008000) s fun t => t.fld (F.ENC_ACTL_ARM a) = 1 ∧ t.fld (F.ENC_ASTAT_FIRED a) = s.fld (F.ENC_ASTAT_FIRED a) ∧ (a, s.dev.u.elapsed, s.fld (F.ENC_ACTL_FB a)) ∈ t.dev.u.enc.armed ∧ OnlyRegs [R.ENC_ACTL a] s t)

/-- The mains-cycle counter counts edges, and runs free when they stop. A valid edge of the selected polarity, 13.85 ms or
  more after the last counted one and with no free run, advances the counter by one and clears FREERUN; 1.5 periods without an
  edge set MLOST and FREERUN and advance the counter by one; while FREERUN is 1 each whole period advances it by one. A valid
  edge during the free run ends it: within half a period of the last increment it replaces that one, and later it counts as
  usual. An armed slot of SRC 16 fires on the counted edge that reaches its compare value. The model's choice (assumption log
  81): ENC_MPER is rounded down and stops at its largest value, and the half period runs from the last increment. Completion
  (a next state with its own effect, for every state and operands that meet the conditions) is stated of: mainsEdge,
  mainsLost, mainsFreerunTick. (R53, R70, R71, R72). -/
def Obligations.MainsCounting : Prop :=
  (∀ (s : State) (falling : Bool) (m : Nat), Live s → Canon s → ((falling = true ↔ s.fld F.ENC_MCTL_EDGE = 1)) → s.fld F.ENC_MSTAT_FREERUN = 0 → s.dev.u.enc.mainsLast + 13850000 ≤ s.dev.u.elapsed → s.fld F.ENC_MCTL_FILT * 10000 ≤ m →
    Does (.mainsEdge ⟨falling, m⟩) s fun t => t.mains = (s.mains + 1) % 2 ^ 48 ∧ t.dev.u.enc.mainsLast = s.dev.u.elapsed ∧ t.fld F.ENC_MSTAT_FREERUN = 0 ∧ (s.dev.u.enc.mainsRestart = false → s.dev.u.enc.mainsRealPrev = true → t.fld F.ENC_MPER_MPER = min ((s.dev.u.elapsed - s.dev.u.enc.mainsLast) / 10) 0xFFFFFFFF) ∧ ((s.dev.u.enc.mainsRestart = true ∨ s.dev.u.enc.mainsRealPrev = false) → t.fld F.ENC_MPER_MPER = s.fld F.ENC_MPER_MPER)) ∧
  (∀ (s : State), Live s → Canon s → s.fld F.ENC_MSTAT_FREERUN = 0 → s.dev.u.enc.mainsLast + s.fld F.ENC_MPER_MPER * 15 ≤ s.dev.u.elapsed →
    Does .mainsLost s fun t => t.mains = (s.mains + 1) % 2 ^ 48 ∧ t.fld F.ENC_MSTAT_MLOST = 1 ∧ t.fld F.ENC_MSTAT_FREERUN = 1 ∧ t.fld F.ENC_MPER_MPER = s.fld F.ENC_MPER_MPER) ∧
  (∀ (s : State), Live s → Canon s → s.fld F.ENC_MSTAT_FREERUN = 1 → s.dev.u.enc.freeNext ≤ s.dev.u.elapsed →
    Does .mainsFreerunTick s fun t => t.mains = (s.mains + 1) % 2 ^ 48 ∧ t.fld F.ENC_MSTAT_FREERUN = 1 ∧ t.dev.u.enc.freeNext = s.dev.u.enc.freeNext + s.fld F.ENC_MPER_MPER * 10) ∧
  (∀ (s : State) (falling : Bool) (m : Nat), Live s → Canon s → (falling = true ↔ s.fld F.ENC_MCTL_EDGE = 1) → s.fld F.ENC_MSTAT_FREERUN = 1 → s.dev.u.enc.mainsLast + 13850000 ≤ s.dev.u.elapsed → s.fld F.ENC_MCTL_FILT * 10000 ≤ m → s.dev.u.elapsed < s.dev.u.enc.freeLast + s.fld F.ENC_MPER_MPER * 5 →
    Does (.mainsEdge ⟨falling, m⟩) s fun t => t.mains = s.mains ∧ t.fld F.ENC_MSTAT_FREERUN = 0 ∧ t.dev.u.enc.mainsLast = s.dev.u.elapsed ∧ t.fld F.ENC_MPER_MPER = s.fld F.ENC_MPER_MPER) ∧
  (∀ (s : State) (falling : Bool) (m : Nat), Live s → Canon s → (falling = true ↔ s.fld F.ENC_MCTL_EDGE = 1) → s.fld F.ENC_MSTAT_FREERUN = 1 → s.dev.u.enc.mainsLast + 13850000 ≤ s.dev.u.elapsed → s.fld F.ENC_MCTL_FILT * 10000 ≤ m → s.dev.u.enc.freeLast + s.fld F.ENC_MPER_MPER * 5 ≤ s.dev.u.elapsed →
    Does (.mainsEdge ⟨falling, m⟩) s fun t => t.mains = (s.mains + 1) % 2 ^ 48 ∧ t.fld F.ENC_MSTAT_FREERUN = 0 ∧ t.dev.u.enc.mainsLast = s.dev.u.elapsed ∧ t.fld F.ENC_MPER_MPER = s.fld F.ENC_MPER_MPER) ∧
  (∀ (s : State) (falling : Bool) (m a : Nat), Live s → Canon s → (falling = true ↔ s.fld F.ENC_MCTL_EDGE = 1) → s.fld F.ENC_MSTAT_FREERUN = 0 → s.dev.u.enc.mainsLast + 13850000 ≤ s.dev.u.elapsed → s.fld F.ENC_MCTL_FILT * 10000 ≤ m → a < 512 → (∃ x ∈ s.dev.u.enc.armed, x.1 = a) → s.fld (F.ENC_ACTL_ARM a) = 1 → s.fld (F.ENC_ACTL_SRC a) = 16 → s.mains + 1 < 2 ^ 47 → s.compareAt a = s.mains + 1 →
    Does (.mainsEdge ⟨falling, m⟩) s fun t => t.fld (F.ENC_ACTL_ARM a) = 0 ∧ t.fld (F.ENC_ASTAT_FIRED a) = 1 ∧ (a, s.dev.u.elapsed / 10) ∈ t.dev.u.enc.fired)

/-- Bursts and frames start at aligned instants, with the plan latched and the stamp taken. Where frames are wanted and the
  wall time is an aligned instant, FRAME_START without a baseline burst latches the plan registers, starts step 0, advances
  FSEQ and takes the stamp of wall time, mains count, positions and lead positions; with an invalid plan, no geometry or a
  sweep in progress it starts nothing and counts a start error. With BLEN = 1 the burst starts 1.28 ms before the instant, and
  the frame that follows its 32 steps, once the instant has come that the burst led to, uses the plan latched with it. The
  model's reading (DEDUCED from R110, which R101 does not repeat): a start during the calibration sweep is refused with
  STARTERR. The wall time of the stamp is the aligned instant itself (DEDUCED, assumption log 110). Completion (a next state
  with its own effect, for every state and operands that meet the conditions) is stated of: frameStart, burstStart. (R76, R89,
  R91, R99, R101, R110, R546). -/
def Obligations.FramesStart : Prop :=
  (∀ (s : State), Live s → Canon s → FramesWanted s → s.fld F.TOMO_CTL_BLEN = 0 → Aligned s 1024 s.dev.u.wall → s.dev.u.tomo.frame = none → planValid s.planFreq s.planAmp = true → s.fld F.TOMO_STAT_GEOMOK = 1 → s.dev.u.tomo.sweep = none → CoreUp s 4 →
    Does .frameStart s fun t => (t.dev.u.tomo.frame.map fun f => (f.burst, f.step, f.fseq, f.plan.freq, f.plan.amp)) = some (false, 0, (s.n64 R.TOMO_FSEQL R.TOMO_FSEQH + 1) % 2 ^ 64, s.planFreq, s.planAmp) ∧ (t.dev.u.tomo.frame.map fun f => (f.stamp.wall, f.stamp.mains, f.stamp.pos, f.stamp.lead)) = some (s.dev.u.wall / 10000 * 10000, s.mains, (List.range 16).map s.pos, (List.range 16).map s.lead) ∧ t.n64 R.TOMO_FSEQL R.TOMO_FSEQH = (s.n64 R.TOMO_FSEQL R.TOMO_FSEQH + 1) % 2 ^ 64 ∧ t.fld F.TOMO_STAT_RUNNING = 1 ∧ t.fld F.TOMO_STAT_BURST = 0) ∧
  (∀ (s : State), Live s → Canon s → FramesWanted s → s.fld F.TOMO_CTL_BLEN = 0 → Aligned s 1024 s.dev.u.wall → s.dev.u.tomo.frame = none → (planValid s.planFreq s.planAmp = false ∨ s.fld F.TOMO_STAT_GEOMOK = 0 ∨ s.dev.u.tomo.sweep ≠ none) → CoreUp s 4 →
    Does .frameStart s fun t => t.dev.u.tomo.frame = none ∧ t.fld F.TOMO_STAT_STARTERR = 1 ∧ t.fld F.TOMO_STARTERRCNT_CNT = min (s.fld F.TOMO_STARTERRCNT_CNT + 1) 0xFFFFFFFF ∧ t.n64 R.TOMO_FSEQL R.TOMO_FSEQH = s.n64 R.TOMO_FSEQL R.TOMO_FSEQH) ∧
  (∀ (s : State) (f : Frame), Live s → Canon s → s.dev.u.tomo.frame = some f → f.burst = true → f.step = 32 → f.wallAt ≤ s.dev.u.wall → f.began + f.step * 40000 ≤ s.dev.u.elapsed → CoreUp s 4 →
    Does .frameStart s fun t => (t.dev.u.tomo.frame.map fun g => (g.burst, g.step, g.fseq, g.plan, g.burstRuns)) = some (false, 0, (s.n64 R.TOMO_FSEQL R.TOMO_FSEQH + 1) % 2 ^ 64, f.plan, f.burstRuns) ∧ t.fld F.TOMO_STAT_RUNNING = 1 ∧ t.fld F.TOMO_STAT_BURST = 0) ∧
  (∀ (s : State), Live s → Canon s → FramesWanted s → s.fld F.TOMO_CTL_BLEN = 1 → Aligned s 1152 (s.dev.u.wall + 1280000) → s.dev.u.tomo.frame = none → planValid s.planFreq s.planAmp = true → s.fld F.TOMO_STAT_GEOMOK = 1 → s.dev.u.tomo.sweep = none → CoreUp s 4 →
    Does .burstStart s fun t => (t.dev.u.tomo.frame.map fun f => (f.burst, f.step, f.plan.freq, f.plan.amp, f.began, f.wallAt)) = some (true, 0, s.planFreq, s.planAmp, s.dev.u.elapsed, (s.dev.u.wall + 1280000) / 10000 * 10000) ∧ t.fld F.TOMO_STAT_RUNNING = 1 ∧ t.fld F.TOMO_STAT_BURST = 1 ∧ t.n64 R.TOMO_FSEQL R.TOMO_FSEQH = s.n64 R.TOMO_FSEQL R.TOMO_FSEQH)

/-- Steps run in order, a frame closes after step 255, and its record reaches the ring. From its slot of 40 µs on, each
  BURST_STEP and EXCITATION_STEP advances its frame by one step and keeps the results demodulated from what was measured; a
  step drives the electrode of its table entry where DRVEN is 1, the bank produces results and the electrode is not faulted;
  FRAME_CLOSE makes the record, shows the die temperatures and clears RUNNING; FRAME_RECORD_PUBLISH stores it in the next slot
  of the ring of 64 and passes it to reconstruction. The model's choice (assumption log 83): a bank powered for less than 2 ms
  is not driven, the list of faulted electrodes is that of the start of the burst, and TOMO_OVLCNT counts only the results of
  R83. Completion (a next state with its own effect, for every state and operands that meet the conditions) is stated of:
  burstStep, excitationStep, frameClose, frameRecordPublish. (R81, R83, R86, R95, R96, R97, R104, R112, R115, R116, R119). -/
def Obligations.FramesRun : Prop :=
  (∀ (s : State) (x : StepSense) (f : Frame), Live s → Canon s → s.dev.u.tomo.frame = some f → f.burst = true → f.step < 32 → f.began + f.step * 40000 ≤ s.dev.u.elapsed →
    Does (.burstStep x) s fun t => t.dev.u.tomo.frame = some { f with step := f.step + 1, burstRuns := f.burstRuns ++ [burstResult f x] } ∧ t.fld F.TOMO_OVLCNT_CNT = min (s.fld F.TOMO_OVLCNT_CNT + ((burstResult f x).results.filter (·.ovl)).length) 0xFFFFFFFF ∧ (f.step ∈ f.plan.producing → (burstResult f x).driveOvl = true → t.fld F.TOMO_STAT_DRVOVL = 1)) ∧
  (∀ (s : State) (x : StepSense) (f : Frame), Live s → Canon s → s.dev.u.tomo.frame = some f → f.burst = true → f.step < 32 → f.began + f.step * 40000 ≤ s.dev.u.elapsed → f.step ∉ f.plan.producing →
    Does (.burstStep x) s fun t => t.dev.u.tomo.frame = some { f with step := f.step + 1, burstRuns := f.burstRuns ++ [burstResult f x] } ∧ t.fld F.TOMO_DRVOVLCNT_CNT = s.fld F.TOMO_DRVOVLCNT_CNT ∧ t.fld F.TOMO_STAT_DRVOVL = s.fld F.TOMO_STAT_DRVOVL) ∧
  (∀ (s : State) (x : StepSense) (f : Frame) (e : Nat) (drv : Option Nat), Live s → Canon s → s.dev.u.tomo.frame = some f → f.burst = false → f.step < 256 → e = s.fld (F.TOMO_STEP_DRV f.step) → drv = (if s.fld (F.TOMO_STEP_DRVEN f.step) = 1 ∧ e / 8 ∈ f.plan.producing ∧ e ∉ f.faulted then some e else none) → f.began + f.step * 40000 ≤ s.dev.u.elapsed →
    Does (.excitationStep x) s fun t => (t.dev.u.tomo.frame.map fun g => (g.step, g.runs.length, g.plan, g.stamp)) = some (f.step + 1, f.runs.length + 1, f.plan, f.stamp) ∧ ((t.dev.u.tomo.frame.bind fun g => g.runs.getLast?).map fun x => (x.k, x.drv, x.r)) = some (f.step, drv, frameResult f drv x) ∧ t.fld F.TOMO_OVLCNT_CNT = min (s.fld F.TOMO_OVLCNT_CNT + ((frameResult f drv x).results.filter (·.ovl)).length) 0xFFFFFFFF) ∧
  (∀ (s : State) (f : Frame) (t0 t1 : Int), Live s → Canon s → s.dev.u.tomo.frame = some f → f.burst = false → f.step = 256 → f.began + f.step * 40000 ≤ s.dev.u.elapsed → CoreUp s 4 →
    Does (.frameClose t0 t1) s fun t => t.dev.u.tomo.frame = none ∧ (t.dev.u.tomo.closed.map fun c => (c.fseq, c.stamp, c.plan, c.temp0, c.temp1, c.wtClose)) = some (f.fseq, f.stamp, f.plan, t0, t1, s.dev.u.wall) ∧ t.fld F.TOMO_STAT_RUNNING = 0 ∧ t.fld (F.AFT_TEMP_TEMP 0) = ofSigned 16 t0 ∧ t.fld (F.AFT_TEMP_TEMP 1) = ofSigned 16 t1 ∧ (s.dev.u.tomo.calNext.isSome = true → t.dev.u.tomo.cal = s.dev.u.tomo.calNext ∧ t.dev.u.tomo.calNext = none)) ∧
  (∀ (s : State) (fr : FrameRec), Live s → Canon s → s.dev.u.tomo.closed = some fr → s.dev.u.reco.waiting = none → s.dev.u.tomo.nextSlot < 64 → CoreUp s 4 →
    Does .frameRecordPublish s fun t => t.dev.u.tomo.ring.find? (fun x => x.1 = s.dev.u.tomo.nextSlot) = some (s.dev.u.tomo.nextSlot, { fr with place := s.fld F.TOMO_RINGBASE_BASE * 4096 + s.dev.u.tomo.nextSlot * 524288 }) ∧ t.fld F.TOMO_LASTREC_SLOT = s.dev.u.tomo.nextSlot ∧ t.dev.u.tomo.nextSlot = (s.dev.u.tomo.nextSlot + 1) % 64 ∧ t.dev.u.tomo.closed = none ∧ t.dev.u.reco.waiting = some { fr with place := s.fld F.TOMO_RINGBASE_BASE * 4096 + s.dev.u.tomo.nextSlot * 524288 })

/-- TOMO_CTL, the range table and the calibration sweep. SINGLE asks for one frame while RUN is 0; RUN written 0 stops a burst
  before its frame starts; AFT_RTDATA stores the range word that AFT_RTIDX names, and with AINC the index advances; a sweep
  that has run for 491.52 ms ends: its table waits for the next frame close, channels outside limits are faulted electrodes,
  and SWEEP_DONE is raised: every open session whose mask takes it counts one more event (stated where no electrode is
  faulted, since ELEC_FAULT is counted too). The model's choice (assumption log 82, 83): the sweep's list of faulted
  electrodes follows from the raw results by the free reference values and magnitudes. How many of its transfers the link
  repeats is free (assumption log 109). Completion (a next state with its own effect, for every state and operands that meet
  the conditions) is stated of: tomoSingle, tomoRunClear, aftRtdataWrite, calibrationSweepEnd. (R87, R88, R101, R102, R110,
  R111, R120). -/
def Obligations.FrontEndWrites : Prop :=
  (∀ (s : State) (src : Src), Live s → Canon s → s.fld F.TOMO_CTL_RUN = 0 → (∀ w ∈ s.dev.u.tomo.sweep, w.freq.isSome = true) →
    Does (.tomoSingle src 0x10001000) s fun t => t.dev.u = { s.dev.u with tomo := { s.dev.u.tomo with single := true } } ∧ F.REC_STAT_BUDGETX.put (t.reg R.REC_STAT) 0 = F.REC_STAT_BUDGETX.put (s.reg R.REC_STAT) 0 ∧ OnlyRegs [R.REC_NITEREFF, R.REC_STAT] s t) ∧
  (∀ (s : State) (src : Src), Live s → Canon s →
    Does (.tomoRunClear src 0x80000000) s fun t => t.fld F.TOMO_CTL_RUN = 0 ∧ t.fld F.TOMO_CTL_BLEN = s.fld F.TOMO_CTL_BLEN ∧ t.dev.u.tomo.frame = (if s.fld F.TOMO_CTL_RUN = 1 ∧ (s.dev.u.tomo.frame.map (·.burst)) = some true then none else s.dev.u.tomo.frame) ∧ F.REC_STAT_BUDGETX.put (t.reg R.REC_STAT) 0 = F.REC_STAT_BUDGETX.put (s.reg R.REC_STAT) 0 ∧ OnlyRegs [R.TOMO_CTL, R.TOMO_STAT, R.REC_NITEREFF, R.REC_STAT] s t) ∧
  (∀ (s : State) (src : Src) (die : Nat) (w : Word), Live s → Canon s → die < 2 → w.toNat / 65536 = 0xFFFF →
    Does (.aftRtdataWrite src die w) s fun t => rangeWord t.dev.u.tomo.ranges (die * 4096 + s.fld (F.AFT_RTIDX_STEP die) * 16 + s.fld (F.AFT_RTIDX_GROUP die)) = w.toNat % 65536 ∧ t.fld (F.AFT_RTIDX_STEP die) * 16 + t.fld (F.AFT_RTIDX_GROUP die) = (if s.fld (F.AFT_RTIDX_AINC die) = 1 then (s.fld (F.AFT_RTIDX_STEP die) * 16 + s.fld (F.AFT_RTIDX_GROUP die) + 1) % 4096 else s.fld (F.AFT_RTIDX_STEP die) * 16 + s.fld (F.AFT_RTIDX_GROUP die)) ∧ s.fld (F.AFT_LINKCNT_CNT die) ≤ t.fld (F.AFT_LINKCNT_CNT die) ∧ (s.fld (F.AFT_LINKCNT_CNT die) < t.fld (F.AFT_LINKCNT_CNT die) → t.fld (F.AFT_STAT_LINKERR die) = 1) ∧ (F.AFT_STAT_LINKERR die).put (t.reg (R.AFT_STAT die)) 0 = (F.AFT_STAT_LINKERR die).put (s.reg (R.AFT_STAT die)) 0 ∧ OnlyRegs [R.AFT_RTIDX die, R.AFT_STAT die, R.AFT_LINKCNT die] s t) ∧
  (∀ (s : State) (meas : List CalStep) (t0 t1 : Int) (w : Sweep) (freq faulted : List Nat), Live s → Canon s → s.dev.u.tomo.sweep = some w → w.freq = some freq → w.since + 491520000 ≤ s.dev.u.elapsed → faulted = sweepFaults freq (fun b => bitAt (s.reg (R.PWR_DOMSTAT 0)).toNat b) (sweepRaw freq meas) →
    Does (.calibrationSweepEnd meas (t0, t1)) s fun t => t.dev.u.tomo.sweep = none ∧ t.dev.u.tomo.calNext.isSome = true ∧ t.dev.u.tomo.cal = s.dev.u.tomo.cal ∧ (∀ e ∈ faulted, bitAt (t.reg (R.AFT_EFAULT (e / 128) (e % 128 / 16))).toNat (e % 16) = true) ∧ (faulted ≠ [] → t.fld F.TOMO_STAT_EFAULT = 1) ∧ (faulted = [] → ∀ i ∈ List.range 4, (s.sess i).st = .opened → bitAt (s.sess i).evMask Ev.sweepDone = true → (t.sess i).evCount = ((s.sess i).evCount + 1) % 2 ^ 32))

/-- A frame is dispatched, skipped, published, or dropped at its deadline. RECON_DISPATCH with RUN = 1, a matrix and a
  reference in force that fit the frame takes the waiting frame and latches the settings; with RUN = 0, and in a mode that
  does not dispatch (assumption log 96), the frame is skipped and counted; RECON_PUBLISH before the deadline advances MSEQ and
  stores the map in the next of 16 slots of 2,097,152 bytes; RECON_DEADLINE drops the frame in hand and counts an overrun.
  Completion (a next state with its own effect, for every state and operands that meet the conditions) is stated of:
  reconDispatch, reconPublish, reconDeadline. (R137, R138, R140, R142, R143, R166). -/
def Obligations.ReconstructionRuns : Prop :=
  (∀ (s : State) (fr : FrameRec) (m rf : List Byte), Live s → Canon s → s.dev.u.reco.waiting = some fr → s.dev.u.reco.hand = none → s.dev.u.reco.reload = [] → s.dev.u.reco.refNext = none → s.fld F.REC_CTL_RUN = 1 → s.fld F.REC_STAT_MATOK = 1 → s.fld F.REC_STAT_REFOK = 1 → s.dev.u.reco.mat = some m → s.dev.u.reco.ref = some rf → fr.geomId = Mat.geom m → (∀ k ∈ List.range 4, fr.plan.freq.getD k 0 = Ref.freq rf k) → fr.pairs.length ≤ s.fld F.REC_MISSMAX_MAX → CoreUp s 4 → s.base ∈ [2, 3, 4, 6] →
    Does .reconDispatch s fun t => (t.dev.u.reco.hand.map fun h => (h.frame, h.mode, h.closedAt, h.dispatchedAt)) = some (fr, s.mode, fr.closedAt, s.dev.u.elapsed) ∧ (t.dev.u.reco.hand.map fun h => (h.latch.alpha, h.latch.lambda, h.latch.missMax)) = some (s.fld F.REC_ALPHA_ALPHA, s.fld F.REC_LAMBDA_LAMBDA, s.fld F.REC_MISSMAX_MAX) ∧ t.dev.u.reco.waiting = none ∧ t.fld F.REC_STAT_BUSY = 1 ∧ t.fld F.REC_SKIPCNT_CNT = s.fld F.REC_SKIPCNT_CNT) ∧
  (∀ (s : State) (fr : FrameRec), Live s → Canon s → s.dev.u.reco.waiting = some fr → s.dev.u.reco.hand = none → s.fld F.REC_CTL_RUN = 0 → CoreUp s 4 →
    Does .reconDispatch s fun t => t.dev.u.reco.hand = none ∧ t.dev.u.reco.waiting = none ∧ t.fld F.REC_SKIPCNT_CNT = min (s.fld F.REC_SKIPCNT_CNT + 1) 0xFFFFFFFF ∧ t.fld F.REC_STAT_SKIP = s.fld F.REC_STAT_SKIP ∧ t.fld F.REC_STAT_BUSY = s.fld F.REC_STAT_BUSY) ∧
  (∀ (s : State) (fr : FrameRec), Live s → Canon s → s.dev.u.reco.waiting = some fr → s.dev.u.reco.hand = none → s.base ∈ [0, 1, 5] → s.fld F.SYS_CALCTL_STAY = 0 → CoreUp s 4 →
    Does .reconDispatch s fun t => t.dev.u.reco.hand = none ∧ t.dev.u.reco.waiting = none ∧ t.fld F.REC_SKIPCNT_CNT = min (s.fld F.REC_SKIPCNT_CNT + 1) 0xFFFFFFFF ∧ t.fld F.REC_STAT_BUSY = s.fld F.REC_STAT_BUSY) ∧
  (∀ (s : State) (h : Hand), Live s → Canon s → s.dev.u.reco.hand = some h → s.dev.u.reco.waiting = none → s.dev.u.reco.nextSlot < 16 → s.dev.u.elapsed < h.closedAt + s.framePeriod * 10000 → s.dev.u.tomo.closed = none → h.poisoned = false → h.stopped = false →
    Does .reconPublish s fun t => t.dev.u.reco.hand = none ∧ t.fld F.REC_LASTMAP_SLOT = s.dev.u.reco.nextSlot ∧ t.dev.u.reco.nextSlot = (s.dev.u.reco.nextSlot + 1) % 16 ∧ t.fld F.REC_STAT_PUB = 1 ∧ t.fld F.REC_STAT_BUSY = 0 ∧ t.n64 R.REC_MSEQL R.REC_MSEQH = (s.n64 R.REC_MSEQL R.REC_MSEQH + 1) % 2 ^ 64 ∧ (t.dev.u.reco.last.map fun p => (p.mseq, p.mseqEnd, p.place, p.fseq, p.wt, p.wtpub)) = some ((s.n64 R.REC_MSEQL R.REC_MSEQH + 1) % 2 ^ 64, (s.n64 R.REC_MSEQL R.REC_MSEQH + 1) % 2 ^ 64, s.fld F.REC_MAPBASE_BASE * 4096 + s.dev.u.reco.nextSlot * 2097152, h.frame.fseq, h.frame.stamp.wall, s.dev.u.wall) ∧ (t.dev.u.reco.ring.find? fun x => x.1 = s.dev.u.reco.nextSlot).map (·.2) = t.dev.u.reco.last) ∧
  (∀ (s : State) (h : Hand), Live s → Canon s → s.dev.u.reco.hand = some h → s.dev.u.reco.waiting = none → h.closedAt + s.framePeriod * 10000 ≤ s.dev.u.elapsed → CoreUp s 4 →
    Does .reconDeadline s fun t => t.dev.u.reco.hand = none ∧ t.fld F.REC_OVRCNT_CNT = min (s.fld F.REC_OVRCNT_CNT + 1) 0xFFFFFFFF ∧ t.fld F.REC_STAT_OVERRUN = 1 ∧ t.fld F.REC_STAT_BUSY = 0 ∧ t.dev.u.reco.last = s.dev.u.reco.last ∧ t.n64 R.REC_MSEQL R.REC_MSEQH = s.n64 R.REC_MSEQL R.REC_MSEQH)

/-- RUN, the matrix copy, captures and the rolling state. RUN written 0 leaves the frame in hand and the other settings; the
  matrix copy of CALIBRATE brings the bank that was in force at its entry, complete and fit for the geometry, into force, and
  refuses an empty bank with cause 4; the frames of a complete capture are averaged once; the rolling state goes 10 min after
  its last save to the bank of the state pair that is not in force, and that bank comes into force. The model's choice
  (assumption log 87): the saved state tells its reference by a number that each activation advances. A reference of an empty
  bank leaves REFOK 0 (R154, R169). Completion (a next state with its own effect, for every state and operands that meet the
  conditions) is stated of: recRunClear, matrixCopyDone, captureAveraged, rollingStateSave. (R128, R129, R153, R154, R164,
  R168, R169). -/
def Obligations.ReconstructionKeeps : Prop :=
  (∀ (s : State) (src : Src), Live s → Canon s →
    Does (.recRunClear src 0x80000000) s fun t => t.fld F.REC_CTL_RUN = 0 ∧ t.fld F.REC_CTL_WARM = s.fld F.REC_CTL_WARM ∧ t.fld F.REC_CTL_OVRLIM = s.fld F.REC_CTL_OVRLIM ∧ t.fld F.REC_CTL_NITER = s.fld F.REC_CTL_NITER ∧ t.dev.u = s.dev.u ∧ OnlyRegs [R.REC_CTL, R.REC_STAT, R.REC_NITEREFF] s t) ∧
  (∀ (s : State) (j : CalJob) (m : List Byte), Live s → Canon s → s.dev.u.sys.cal = some j → j.matrix = true → s.dev.u.nv.mat.getD j.bank {} = { state := 1, data := m } → Mat.geom m = (s.reg R.TOMO_GEOMID).toNat → Mat.pairs m = s.fld F.TOMO_NPAIR_NPAIR → Mat.dataOk m = true →
    Does .matrixCopyDone s fun t => t.dev.u.reco.mat = some m ∧ t.dev.u.reco.reload = [] ∧ t.fld F.REC_STAT_MATOK = 1 ∧ (t.reg R.REC_MATID).toNat = Mat.id m ∧ (t.dev.u.sys.cal.map (·.matrix)) = some false) ∧
  (∀ (s : State) (j : CalJob), Live s → Canon s → s.dev.u.sys.cal = some j → j.matrix = true → (s.dev.u.nv.mat.getD j.bank {}).state ≠ 1 →
    Does .matrixCopyDone s fun t => t.dev.u.reco.mat = none ∧ t.fld F.REC_STAT_MATOK = 0 ∧ t.fld F.REC_STAT_REFOK = 0 ∧ t.fld F.REC_MATERR_CAUSE = 4 ∧ (t.reg R.REC_MATID).toNat = 0 ∧ (t.dev.u.sys.cal.map (·.matrix)) = some false) ∧
  (∀ (s : State) (c : Capture), Live s → Canon s → s.dev.u.reco.capture = some c → c.left = 0 → c.done = false →
    Does .captureAveraged s fun t => t.dev.u.reco.capture = some { c with done := true } ∧ t.dev.u.reco.ref = s.dev.u.reco.ref ∧ RegsKept [4, 5, 0x11] s t) ∧
  (∀ (s : State), Live s → Canon s → NvWhole s → s.dev.u.sys.restored = true → s.dev.u.reco.rollAt + 600000000000 ≤ s.dev.u.elapsed → NoLoss s →
    Does .rollingStateSave s fun t => t.dev.u.nv.saved = { s.dev.u.nv.saved with roll := t.dev.u.nv.saved.roll } ∧ t.dev.u.nv.stateSel = 1 - s.dev.u.nv.stateSel ∧ t.dev.u.nv.saved.roll = some ⟨s.dev.u.reco.refNo, s.dev.u.reco.base, (List.range 16).map (fun n => s.fld (F.REC_LOFFS_OFFS n)), s.dev.u.reco.anchors, (List.range 16).map (fun n => s.fld (F.REC_LBOUND_BOUND n))⟩ ∧ t.dev.u.reco.rollAt = s.dev.u.elapsed ∧ OnlyRegs [] s t)

/-- A fired lane slot cuts a parcel, and parcels that reach the discharge retire. When the alarm slot of a lane that is cut
  fired and its compare position is reached, ALARM_SERVICE opens a parcel there with the next PID, and closes the one that was
  filling with HI at that position; at a retirement tick no live parcel of any lane stands past its lane's discharge; a
  checkpoint stores the tables with the lead positions; a lock whose lease has passed is released; a planner run counts and
  starts the count of maps again; without PLAN, or outside FLOW, it writes no speed; with PLAN = 1 in FLOW, the one planned
  lane, whose lead parcel stands in a fresh map at or below its target, asks for PCL_VMAX, and within PCL_VSLEW, PCL_VMIN and
  PCL_VMAX of it PCL_VSET and the setpoint of the lane's slot are written, and the other lanes keep theirs. The mark of
  damaged lots among the saved words is the model's choice (assumption log 79). The order in which the planner's formulas are
  evaluated in binary32, and the rounding of PCL_VSET and of the setpoint, are read from the print of R198 and R199 (DEDUCED,
  assumption log 4 and 50). Completion (a next state with its own effect, for every state and operands that meet the
  conditions) is stated of: alarmService, ledgerRetireTick, ledgerCheckpoint, lockLeaseExpiry, plannerRun. (R50, R64, R171,
  R175, R178, R188, R195, R198, R199, R202). -/
def Obligations.LedgerCuts : Prop :=
  (∀ (s : State) (n pid k : Nat) (p : Int), Live s → Canon s → n < 16 → s.dev.u.enc.fired = [(n, k)] → Cuts s n → p = s.compareAt n → s.dev.u.pcl.parcels.length < 65536 → pid = (if s.reg R.PCL_PIDNEXT = 0 then 1 else (s.reg R.PCL_PIDNEXT).toNat) → (∀ x ∈ s.dev.u.pcl.parcels, Pf.pid.of x ≠ pid) → CoreUp s 5 → p ≤ s.lead n →
    Does .alarmService s fun t => (t.dev.u.pcl.parcels.filter (fillingIn n)).map (fun x => (Pf.pid.of x, Pf.lo.int x, Pf.wtin.of x)) = [(pid, p, s.dev.u.wall % 2 ^ 64)] ∧ (t.reg R.PCL_PIDNEXT).toNat = (if pid + 1 = 2 ^ 32 then 1 else pid + 1)) ∧
  (∀ (s : State) (n k : Nat) (p : Int) (r : List Byte), Live s → Canon s → n < 16 → s.dev.u.enc.fired = [(n, k)] → Cuts s n → p = s.compareAt n → s.dev.u.pcl.parcels.length < 65536 → CoreUp s 5 → p ≤ s.lead n → r ∈ s.dev.u.pcl.parcels → fillingIn n r = true → r.length = 128 → Pf.lo.int r < p → (s.lead n - p) * s.factor n < (s.fld (F.PCL_LLEN_LLEN n) : Int) * 65536000 → (∀ x ∈ s.dev.u.pcl.parcels, Pf.pid.of x = Pf.pid.of r → x = r) → Pf.pid.of r ≠ (if s.reg R.PCL_PIDNEXT = 0 then 1 else (s.reg R.PCL_PIDNEXT).toNat) →
    Does .alarmService s fun t => ∃ y ∈ t.dev.u.pcl.parcels, Pf.pid.of y = Pf.pid.of r ∧ Pf.hi.int y = p ∧ Pf.lo.int y = Pf.lo.int r ∧ Pf.state.of y = 2) ∧
  (∀ (s : State), Live s → Canon s → s.fld F.PCL_CTL_RUN = 1 →
    Does (.ledgerRetireTick ()) s fun t => (∀ x ∈ t.dev.u.pcl.parcels, Pf.state.of x = 2 → Pf.lane.of x < 16 → (s.lead (Pf.lane.of x) - Pf.hi.int x) * s.factor (Pf.lane.of x) < (s.fld (F.PCL_LLEN_LLEN (Pf.lane.of x)) : Int) * 65536000)) ∧
  (∀ (s : State), Live s → Canon s → NvWhole s → s.dev.u.sys.coldStart = false → s.dev.u.pcl.ckptAt + max 1 (s.fld F.PCL_CKPT_CKPT) * 1000000000 ≤ s.dev.u.elapsed → NoLoss s →
    Does .ledgerCheckpoint s fun t => t.dev.u.nv.stateSel = 1 - s.dev.u.nv.stateSel ∧ t.dev.u.nv.saved.roll = s.dev.u.nv.saved.roll ∧ t.dev.u.nv.saved.lossLeads = none ∧ t.dev.u.nv.saved.ledger = some ⟨s.dev.u.pcl.parcels, s.dev.u.pcl.lots, s.dev.u.pcl.lotsDamaged, s.dev.u.pcl.mdis, s.dev.u.pcl.lanes.map fun x => (x.origin, x.k), (List.range 16).map s.lead⟩ ∧ t.dev.u.pcl.ckptAt = s.dev.u.elapsed ∧ t.dev.u.pcl.parcels = s.dev.u.pcl.parcels ∧ OnlyRegs [] s t) ∧
  (∀ (s : State) (k : Nat) (l : RecLock), Live s → Canon s → s.dev.u.pcl.locks[k]? = some l → l.expires ≤ s.dev.u.elapsed →
    Does (.lockLeaseExpiry k) s fun t => t.dev.u.pcl.locks = s.dev.u.pcl.locks.filter (fun x => x ≠ l) ∧ l ∉ t.dev.u.pcl.locks) ∧
  (∀ (s : State), Live s → Canon s → max 1 (s.fld F.PCL_CTL_PCYC) ≤ s.dev.u.pcl.mapsSince →
    Does .plannerRun s fun t => t.dev.u.pcl.mapsSince = 0 ∧ t.dev.u.pcl.runs = s.dev.u.pcl.runs + 1 ∧ (s.fld F.PCL_CTL_PLAN = 0 ∨ s.mode ≠ modeFlow → t.fld F.PCL_STAT_PLANNING = 0 ∧ (∀ n ∈ List.range 16, t.fld (F.PCL_VSET_VSET n) = s.fld (F.PCL_VSET_VSET n)) ∧ RegsKept [0xC] s t)) ∧
  (∀ (s : State) (since n sp : Nat) (pids : List Nat) (r : List Byte) (v : Word), Live s → Canon s → max 1 (s.fld F.PCL_CTL_PCYC) ≤ s.dev.u.pcl.mapsSince → s.mode = modeFlow → s.fld F.PCL_CTL_PLAN = 1 → s.fld F.PCL_VMEAN_VMEAN = 0 → s.dev.u.pcl.planMap = some (since, pids) → s.dev.u.elapsed ≤ since + s.fld F.PCL_MAPAGE_AGE * 1000000 → n < 16 → s.fld (F.PCL_LSLOT_PLANE n) = 1 → (∀ j ∈ List.range 16, j ≠ n → s.fld (F.PCL_LSLOT_PLANE j) = 0) → s.dev.u.pcl.parcels = [r] → r.length = 128 → parcelActive r = true → Pf.lane.of r = n → bitAt (Pf.flags.of r) 6 = false → Pf.pid.of r ∈ pids → s.factor n ≠ 0 → s.fld (F.PCL_LLEN_LLEN n) ≠ 0 → s.fld (F.ENC_LSTAT_STALLED n) = 0 → s.fld (F.ENC_LSTAT_LOST n) = 0 → s.fld (F.REC_LSTAT_UNANCH n) = 0 → s.fld (F.REC_LSTAT_DRIFT n) = 0 → s.fld (F.PCL_KDRY_K n) ≠ 0 → s.fld (F.PCL_MEQ_MEQ n) < s.fld (F.PCL_TARGET_TGT n) → Pf.mlast.of r ≤ s.fld (F.PCL_TARGET_TGT n) → v = F32.clamp (F32.ofRat (s.fld (F.PCL_VMIN_VMIN n)) 100) (F32.ofRat (s.fld (F.PCL_VMAX_VMAX n)) 100) (F32.clamp (F32.sub (s.dev.u.pcl.lanes.getD n {}).speed (F32.ofRat (s.fld F.PCL_VSLEW_SLEW) 100)) (F32.add (s.dev.u.pcl.lanes.getD n {}).speed (F32.ofRat (s.fld F.PCL_VSLEW_SLEW) 100)) (F32.div (F32.mul (F32.ofRat (s.fld (F.PCL_VMAX_VMAX n)) 100) (F32.ofInt 3600)) (F32.ofInt 3600))) → sp = fitU 16 (roundF (F32.mul (F32.div (F32.mul v (F32.ofInt 1000)) (F32.ofRat (s.factor n) 65536)) (F32.ofInt 16))) →
    Does .plannerRun s fun t => t.fld (F.PCL_VSET_VSET n) = fitU 16 (roundF (F32.mul v (F32.ofInt 100))) ∧ t.fld (F.LOOP_SP_SP (s.fld (F.PCL_LSLOT_SLOT n))) = sp ∧ (sp ≠ 0 → t.fld (F.ENC_LCTL_RUN n) = 1) ∧ (t.dev.u.pcl.lanes.getD n {}).speed = v ∧ (t.reg (R.PCL_LSTAT n)).toNat = 0 ∧ (t.reg (R.PCL_LEADPID n)).toNat = Pf.pid.of r ∧ t.fld F.PCL_STAT_PLANNING = 1 ∧ ∀ j ∈ List.range 16, j ≠ n → t.fld (F.PCL_VSET_VSET j) = s.fld (F.PCL_VSET_VSET j))

/-- The six Ledger operations of field nodes. A node's request is answered with its own bytes, a status and a VALUE within the
  reply window: READ answers a word of a lot; WRITE, ADD MASS and ADD SAMPLE change an open lot and record the node; SET
  SAMPLE changes the parcel at the discharge of a lane, or the active parcel of a PID. FLD_RXCNT counts the request, and no
  register outside the NET, FLD and POOL windows changes. Completion (a next state with its own effect, for every state and
  operands that meet the conditions) is stated of: fieldReadLotWord, fieldWriteUserWord, fieldAddMass, fieldAddSample,
  fieldSetSampleLane, fieldSetSamplePid. (R193, R194, R497, R498). -/
def Obligations.FieldRequests : Prop :=
  (∀ (s : State) (bus node idx fi v : Nat) (d lr : List Byte), Live s → Canon s → RequestHeard s bus 1 node d → s.dev.u.fld.buses.length = 4 → s.fld (F.FLD_BECNT_TEC bus) ≤ 255 → leAt d 2 2 = idx → leAt d 8 1 = fi → leAt d 10 4 = v → s.lot idx = some lr → lr.length = 256 → recordBusy s.dev.u false idx = false → idx < 4096 → fi < 64 →
    Does (.fieldReadLotWord bus node d) s fun t => t.fld (F.FLD_RXCNT_CNT bus) = (s.fld (F.FLD_RXCNT_CNT bus) + 1) % 2 ^ 32 ∧ RegsKept [5, 6, 0x11] s t ∧ Responds s t bus node d 0 (leAt lr (4 * fi) 4) ∧ t.dev.u.pcl.lots = s.dev.u.pcl.lots) ∧
  (∀ (s : State) (bus node idx fi v : Nat) (d lr : List Byte), Live s → Canon s → RequestHeard s bus 2 node d → s.dev.u.fld.buses.length = 4 → s.fld (F.FLD_BECNT_TEC bus) ≤ 255 → leAt d 2 2 = idx → leAt d 8 1 = fi → leAt d 10 4 = v → s.lot idx = some lr → lr.length = 256 → recordBusy s.dev.u false idx = false → idx < 4096 → fi < 26 → Lf.state.of lr = 1 →
    Does (.fieldWriteUserWord bus node d) s fun t => t.fld (F.FLD_RXCNT_CNT bus) = (s.fld (F.FLD_RXCNT_CNT bus) + 1) % 2 ^ 32 ∧ RegsKept [5, 6, 0x11] s t ∧ Responds s t bus node d 0 v ∧ (t.lot idx).map (fun x => (leAt x (0x98 + 4 * fi) 4, Lf.snode.of x, Lf.wseq.of x)) = some (v, bus * 64 + node, (Lf.wseq.of lr + 1) % 2 ^ 32)) ∧
  (∀ (s : State) (bus node idx fi v : Nat) (d lr : List Byte), Live s → Canon s → RequestHeard s bus 3 node d → s.dev.u.fld.buses.length = 4 → s.fld (F.FLD_BECNT_TEC bus) ≤ 255 → leAt d 2 2 = idx → leAt d 8 1 = fi → leAt d 10 4 = v → s.lot idx = some lr → lr.length = 256 → recordBusy s.dev.u false idx = false → idx < 4096 → fi = 0 → Lf.state.of lr = 1 → Lf.massin.of lr + v < 2 ^ 32 →
    Does (.fieldAddMass bus node d) s fun t => t.fld (F.FLD_RXCNT_CNT bus) = (s.fld (F.FLD_RXCNT_CNT bus) + 1) % 2 ^ 32 ∧ RegsKept [5, 6, 0x11] s t ∧ Responds s t bus node d 0 v ∧ (t.lot idx).map (fun x => (Lf.massin.of x, Lf.massout.of x, Lf.snode.of x)) = some (Lf.massin.of lr + v, Lf.massout.of lr, bus * 64 + node)) ∧
  (∀ (s : State) (bus node idx fi v : Nat) (d lr : List Byte), Live s → Canon s → RequestHeard s bus 4 node d → s.dev.u.fld.buses.length = 4 → s.fld (F.FLD_BECNT_TEC bus) ≤ 255 → leAt d 2 2 = idx → leAt d 8 1 = fi → leAt d 10 4 = v → s.lot idx = some lr → lr.length = 256 → recordBusy s.dev.u false idx = false → idx < 4096 → fi = 0 → Lf.state.of lr = 1 →
    Does (.fieldAddSample bus node d) s fun t => t.fld (F.FLD_RXCNT_CNT bus) = (s.fld (F.FLD_RXCNT_CNT bus) + 1) % 2 ^ 32 ∧ RegsKept [5, 6, 0x11] s t ∧ Responds s t bus node d 0 v ∧ (t.lot idx).map (fun x => (Lf.scount.of x, Lf.massin.of x, Lf.snode.of x)) = some (min 0xFFFF (Lf.scount.of lr + 1), Lf.massin.of lr, bus * 64 + node)) ∧
  (∀ (s : State) (bus node idx pid fi v : Nat) (d pr : List Byte), Live s → Canon s → RequestHeard s bus 5 node d → s.dev.u.fld.buses.length = 4 → s.fld (F.FLD_BECNT_TEC bus) ≤ 255 → leAt d 2 2 = idx → leAt d 8 1 = fi → leAt d 10 4 = v → idx < 16 → fi = 0 → (∀ x ∈ s.dev.u.pcl.parcels, x.length = 128) → atDischarge (s.dev.u.pcl.parcels.filter fun x => Pf.state.of x == 2) idx (s.lead idx) (s.factor idx) ((s.fld (F.PCL_LLEN_LLEN idx) : Int) * 1000 * 65536) = some pr → recordBusy s.dev.u true (Pf.pid.of pr) = false →
    Does (.fieldSetSampleLane bus node d) s fun t => t.fld (F.FLD_RXCNT_CNT bus) = (s.fld (F.FLD_RXCNT_CNT bus) + 1) % 2 ^ 32 ∧ RegsKept [5, 6, 0x11] s t ∧ Responds s t bus node d 0 v ∧ t.dev.u.pcl.parcels.map Pf.pid.of = s.dev.u.pcl.parcels.map Pf.pid.of ∧ ∀ x ∈ t.dev.u.pcl.parcels, Pf.pid.of x = Pf.pid.of pr → Pf.sample.of x = v % 65536 ∧ Pf.snode.of x = bus * 64 + node) ∧
  (∀ (s : State) (bus node idx pid fi v : Nat) (d pr : List Byte), Live s → Canon s → RequestHeard s bus 6 node d → s.dev.u.fld.buses.length = 4 → s.fld (F.FLD_BECNT_TEC bus) ≤ 255 → leAt d 2 2 = idx → leAt d 8 1 = fi → leAt d 10 4 = v → fi = 0 → leAt d 4 4 = pid → (∀ x ∈ s.dev.u.pcl.parcels, x.length = 128) → (s.dev.u.pcl.parcels.find? fun x => parcelActive x && Pf.pid.of x == pid) = some pr → recordBusy s.dev.u true pid = false →
    Does (.fieldSetSamplePid bus node d) s fun t => t.fld (F.FLD_RXCNT_CNT bus) = (s.fld (F.FLD_RXCNT_CNT bus) + 1) % 2 ^ 32 ∧ RegsKept [5, 6, 0x11] s t ∧ Responds s t bus node d 0 v ∧ t.dev.u.pcl.parcels.map Pf.pid.of = s.dev.u.pcl.parcels.map Pf.pid.of ∧ ∀ x ∈ t.dev.u.pcl.parcels, Pf.pid.of x = Pf.pid.of pr → Pf.sample.of x = v % 65536 ∧ Pf.snode.of x = bus * 64 + node)

/-- Wall-time and stroke groups latch, the engine computes, and outputs are issued. At phase 0 an enabled wall-time group
  starts a period with its period, phase and output instant, and its slots in manual sample; without EN or RUN it becomes
  inactive; a later latch of an active group, with no output instant left, starts the next period in the same way. A stroke
  group starts a period at its trigger position, or counts a skipped trigger that came within ODLY of the last that started
  one; a later trigger outside ODLY starts the next period, with h since that trigger. The free engine computes the slot that
  waits in 48 cycles, a manual slot gives LOOP_MAN within its limits, and a slot that could not finish overruns. At its output
  instant a group writes its slots' outputs; with RUN at 0, or in a stroke group that has not latched since the entry to HOLD,
  it writes none. A latch before the output instant of the period in progress leaves that period's samples to complete. The
  model's choice: periods that overlap and the strict finish before the output instant (assumption log 88), and the stroke
  group that issues nothing from the entry to HOLD to its next latch (assumption log 89). Completion (a next state with its
  own effect, for every state and operands that meet the conditions) is stated of: groupLatch, strokeTrigger, slotCompute,
  groupOutput. (R206, R207, R215, R216, R217, R218, R223, R234, R243, R245). -/
def Obligations.LoopPeriods : Prop :=
  (∀ (s : State) (g n : Nat), Live s → Canon s → LoopWhole s → g < 8 → s.fld (F.LOOP_PGCTL_EN g) = 1 → s.fld F.LOOP_ECTL_RUN = 1 → s.fld (F.LOOP_PGCTL_TRIG g) = 0 → (s.group g).active = false → (s.group g).outAt = none → s.dev.u.wall % 10000 < 4 → s.dev.u.wall / 10000 % s.groupPer g = s.fld (F.LOOP_PGPH_PHASE g) % s.groupPer g → (s.group g).latchW ≠ some (s.dev.u.wall / 10000) → n < 128 → s.fld (F.LOOP_CTL_GROUP n) = g → s.fld (F.LOOP_CTL_MODE n) = 1 → (s.slot n).holdPending = false → (s.group g).older = [] →
    Does (.groupLatch g) s fun t => (t.group g).active = true ∧ (t.group g).p = s.groupPer g ∧ (t.group g).ph = s.fld (F.LOOP_PGPH_PHASE g) ∧ (t.group g).latchW = some (s.dev.u.wall / 10000) ∧ (t.group g).h = s.groupPer g * 10000 ∧ (t.group g).outAt = some (s.dev.u.elapsed + s.groupPer g * 2000 * max 1 (s.fld (F.LOOP_PGCTL_OPHASE g)) / 256 * 5) ∧ t.fld (F.LOOP_PGSTAT_ACTIVE g) = 1 ∧ t.fld (F.LOOP_STAT_MODEIN n) = 1 ∧ (t.slot n).waiting = true ∧ (t.slot n).sp = s.fld (F.LOOP_SP_SP n) ∧ (t.slot n).man = s.fld (F.LOOP_MAN_MAN n) ∧ (t.slot n).y = t.fld (F.LOOP_Y_Y n) ∧ (t.slot n).grp = g ∧ (t.slot n).began = s.dev.u.elapsed ∧ some (t.slot n).outAt = (t.group g).outAt ∧ (t.slot n).h = (t.group g).h) ∧
  (∀ (s : State) (g : Nat), Live s → Canon s → LoopWhole s → g < 8 → (s.fld (F.LOOP_PGCTL_EN g) = 0 ∨ s.fld F.LOOP_ECTL_RUN = 0) → s.fld (F.LOOP_PGCTL_TRIG g) = 0 → (s.group g).active = true → s.dev.u.wall % 10000 < 4 → s.dev.u.wall / 10000 % (s.group g).p = (s.group g).ph % (s.group g).p → (s.group g).latchW ≠ some (s.dev.u.wall / 10000) →
    Does (.groupLatch g) s fun t => (t.group g).active = false ∧ t.fld (F.LOOP_PGSTAT_ACTIVE g) = 0 ∧ t.dev.u.loop.slots = s.dev.u.loop.slots ∧ OnlyRegs [R.LOOP_PGSTAT g] s t) ∧
  (∀ (s : State) (g : Nat), Live s → Canon s → LoopWhole s → g < 8 → s.fld (F.LOOP_PGCTL_EN g) = 1 → s.fld F.LOOP_ECTL_RUN = 1 → s.fld (F.LOOP_PGCTL_TRIG g) = 1 → (s.group g).active = true → (s.group g).next ≤ s.lead (s.fld (F.LOOP_PGCTL_LANE g)) → (s.group g).last = none →
    Does (.strokeTrigger g) s fun t => (t.group g).next = (s.group g).next + s.groupStrokes g ∧ (t.group g).n = s.groupStrokes g ∧ (t.group g).last = some s.dev.u.wall ∧ (t.group g).lastT = s.dev.u.elapsed ∧ (t.group g).outAt = some (s.dev.u.elapsed + max 1 (s.fld (F.LOOP_PGODLY_ODLY g)) * 1000) ∧ t.fld (F.LOOP_PGSTAT_ACTIVE g) = 1) ∧
  (∀ (s : State) (g w : Nat), Live s → Canon s → LoopWhole s → g < 8 → s.fld (F.LOOP_PGCTL_EN g) = 1 → s.fld F.LOOP_ECTL_RUN = 1 → s.fld (F.LOOP_PGCTL_TRIG g) = 1 → (s.group g).active = true → (s.group g).next ≤ s.lead (s.fld (F.LOOP_PGCTL_LANE g)) → (s.group g).last = some w → s.dev.u.elapsed < (s.group g).lastT + max 1 (s.fld (F.LOOP_PGODLY_ODLY g)) * 1000 →
    Does (.strokeTrigger g) s fun t => (t.group g).next = (s.group g).next + (s.group g).n ∧ (t.group g).last = some w ∧ t.fld (F.LOOP_PGSTAT_TSKIP g) = 1 ∧ t.fld (F.LOOP_PGTSKIP_CNT g) = min (s.fld (F.LOOP_PGTSKIP_CNT g) + 1) 0xFFFFFFFF ∧ t.dev.u.loop.slots = s.dev.u.loop.slots ∧ OnlyRegs [R.LOOP_PGSTAT g, R.LOOP_PGTSKIP g] s t) ∧
  (∀ (s : State) (n o lo hi : Nat), Live s → Canon s → LoopWhole s → n < 128 → s.dev.u.loop.busyUntil ≤ s.dev.u.elapsed → (s.slot n).waiting = true → (∀ m ∈ List.range 128, m ≠ n → (s.slot m).waiting = false) → (∀ m ∈ List.range 128, (s.slot m).older = []) → (s.slot n).outAt = o → s.dev.u.elapsed + 240 < o → s.fld (F.LOOP_STAT_MODEIN n) = 1 → s.fld (F.LOOP_CTL_SIGNED n) = 0 → (s.slot n).inj = [0, 0, 0] → (s.slot n).raw 6 = lo → (s.slot n).raw 7 = hi → lo ≤ hi → hi < 65536 → (s.slot n).man < 65536 →
    Does .slotCompute s fun t => (t.slot n).output = some (max lo (min hi (s.slot n).man)) ∧ (t.slot n).waiting = false ∧ t.dev.u.loop.busyUntil = s.dev.u.elapsed + 240 ∧ t.dev.u.loop.busy = s.dev.u.loop.busyFrom s.dev.u.elapsed 240 ∧ t.fld (F.LOOP_STAT_SATHI n) = (if hi < (s.slot n).man then 1 else 0)) ∧
  (∀ (s : State) (n o : Nat), Live s → Canon s → LoopWhole s → n < 128 → s.dev.u.loop.busyUntil ≤ s.dev.u.elapsed → (s.slot n).waiting = true → (∀ m ∈ List.range 128, m ≠ n → (s.slot m).waiting = false) → (∀ m ∈ List.range 128, (s.slot m).older = []) → (s.slot n).outAt = o → s.dev.u.elapsed + 240 < o →
    Does .slotCompute s fun t => (t.slot n).output.isSome = true ∧ t.dev.u.loop.busyUntil = s.dev.u.elapsed + 240 ∧ t.fld (F.LOOP_OUT_OUT n) = s.fld (F.LOOP_OUT_OUT n)) ∧
  (∀ (s : State) (n o : Nat), Live s → Canon s → LoopWhole s → n < 128 → s.dev.u.loop.busyUntil ≤ s.dev.u.elapsed → (s.slot n).waiting = true → (∀ m ∈ List.range 128, m ≠ n → (s.slot m).waiting = false) → (∀ m ∈ List.range 128, (s.slot m).older = []) → (s.slot n).outAt = o → o ≤ s.dev.u.elapsed + 240 →
    Does .slotCompute s fun t => (t.slot n).output = none ∧ (t.slot n).waiting = false ∧ t.fld (F.LOOP_STAT_OVERRUN n) = 1 ∧ t.fld F.LOOP_ESTAT_OVERRUN = 1 ∧ t.fld (F.LOOP_OVRCNTS_CNT n) = min (s.fld (F.LOOP_OVRCNTS_CNT n) + 1) 0xFFFFFFFF ∧ t.fld F.LOOP_OVRCNT_CNT = min (s.fld F.LOOP_OVRCNT_CNT + 1) 0xFFFFFFFF ∧ t.dev.u.loop.busyUntil = s.dev.u.loop.busyUntil) ∧
  (∀ (s : State) (g n o v : Nat), Live s → Canon s → LoopWhole s → g < 8 → (s.group g).outAt = some o → o ≤ s.dev.u.elapsed → n < 128 → (s.slot n).output = some v → v < 65536 → (s.slot n).waiting = false → (s.group g).older = [] → (s.slot n).older = [] → (s.slot n).grp = g → (s.slot n).began = (s.group g).began → s.fld F.LOOP_ECTL_RUN = 1 → (s.group g).mute = false →
    Does (.groupOutput g) s fun t => (t.group g).outAt = none ∧ t.fld (F.LOOP_OUT_OUT n) = v ∧ (t.slot n).output = none) ∧
  (∀ (s : State) (g o : Nat), Live s → Canon s → LoopWhole s → g < 8 → (s.group g).outAt = some o → o ≤ s.dev.u.elapsed → (s.group g).older = [] → (∀ m ∈ List.range 128, (s.slot m).waiting = false) → (∀ m ∈ List.range 128, (s.slot m).older = []) → (s.fld F.LOOP_ECTL_RUN = 0 ∨ (s.group g).mute = true) →
    Does (.groupOutput g) s fun t => (t.group g).outAt = none ∧ OnlyRegs [] s t ∧ ∀ n ∈ List.range 128, (s.slot n).grp = g → (s.slot n).began = (s.group g).began → (t.slot n).output = none) ∧
  (∀ (s : State) (g n o : Nat), Live s → Canon s → LoopWhole s → g < 8 → s.fld (F.LOOP_PGCTL_EN g) = 1 → s.fld F.LOOP_ECTL_RUN = 1 → s.fld (F.LOOP_PGCTL_TRIG g) = 0 → (s.group g).active = true → s.dev.u.wall % 10000 < 4 → s.dev.u.wall / 10000 % (s.group g).p = (s.group g).ph % (s.group g).p → (s.group g).latchW ≠ some (s.dev.u.wall / 10000) → n < 128 → s.fld (F.LOOP_CTL_GROUP n) = g → s.fld (F.LOOP_CTL_MODE n) = 1 → (s.slot n).holdPending = false → (s.group g).older = [] → (s.group g).outAt = some o → s.dev.u.elapsed < o → (s.slot n).older = [] → (s.slot n).output.isSome = true →
    Does (.groupLatch g) s fun t => (t.group g).older = [((s.group g).began, o)] ∧ (t.group g).began = s.dev.u.elapsed ∧ (t.slot n).older.map (fun x => (x.output, x.grp, x.began, x.outAt)) = [((s.slot n).output, (s.slot n).grp, (s.slot n).began, (s.slot n).outAt)] ∧ (t.slot n).waiting = true ∧ t.fld (F.LOOP_OUT_OUT n) = s.fld (F.LOOP_OUT_OUT n)) ∧
  (∀ (s : State) (g n : Nat), Live s → Canon s → LoopWhole s → g < 8 → s.fld (F.LOOP_PGCTL_EN g) = 1 → s.fld F.LOOP_ECTL_RUN = 1 → s.fld (F.LOOP_PGCTL_TRIG g) = 0 → (s.group g).active = true → (s.group g).outAt = none → s.dev.u.wall % 10000 < 4 → s.dev.u.wall / 10000 % (s.group g).p = (s.group g).ph % (s.group g).p → (s.group g).latchW ≠ some (s.dev.u.wall / 10000) → n < 128 → s.fld (F.LOOP_CTL_GROUP n) = g → s.fld (F.LOOP_CTL_MODE n) = 1 → (s.slot n).holdPending = false → (s.group g).older = [] →
    Does (.groupLatch g) s fun t => (t.group g).active = true ∧ (t.group g).p = s.groupPer g ∧ (t.group g).ph = s.fld (F.LOOP_PGPH_PHASE g) ∧ (t.group g).latchW = some (s.dev.u.wall / 10000) ∧ (t.group g).h = s.groupPer g * 10000 ∧ (t.group g).outAt = some (s.dev.u.elapsed + s.groupPer g * 2000 * max 1 (s.fld (F.LOOP_PGCTL_OPHASE g)) / 256 * 5) ∧ t.fld (F.LOOP_PGSTAT_ACTIVE g) = 1 ∧ t.fld (F.LOOP_STAT_MODEIN n) = 1 ∧ (t.slot n).waiting = true ∧ (t.slot n).sp = s.fld (F.LOOP_SP_SP n) ∧ (t.slot n).man = s.fld (F.LOOP_MAN_MAN n) ∧ (t.slot n).y = t.fld (F.LOOP_Y_Y n) ∧ (t.slot n).grp = g ∧ (t.slot n).began = s.dev.u.elapsed ∧ some (t.slot n).outAt = (t.group g).outAt ∧ (t.slot n).h = (t.group g).h ∧ (t.group g).older = []) ∧
  (∀ (s : State) (g w : Nat), Live s → Canon s → LoopWhole s → g < 8 → s.fld (F.LOOP_PGCTL_EN g) = 1 → s.fld F.LOOP_ECTL_RUN = 1 → s.fld (F.LOOP_PGCTL_TRIG g) = 1 → (s.group g).active = true → (s.group g).next ≤ s.lead (s.fld (F.LOOP_PGCTL_LANE g)) → (s.group g).last = some w → (s.group g).lastT + max 1 (s.fld (F.LOOP_PGODLY_ODLY g)) * 1000 ≤ s.dev.u.elapsed → (s.group g).outAt = none → (s.group g).older = [] →
    Does (.strokeTrigger g) s fun t => (t.group g).next = (s.group g).next + s.groupStrokes g ∧ (t.group g).n = s.groupStrokes g ∧ (t.group g).last = some s.dev.u.wall ∧ (t.group g).lastT = s.dev.u.elapsed ∧ (t.group g).h = min 10000000000 (s.dev.u.wall - w) ∧ (t.group g).outAt = some (s.dev.u.elapsed + max 1 (s.fld (F.LOOP_PGODLY_ODLY g)) * 1000) ∧ (t.group g).older = [] ∧ (t.group g).mute = false ∧ t.fld (F.LOOP_PGSTAT_TSKIP g) = s.fld (F.LOOP_PGSTAT_TSKIP g) ∧ t.fld (F.LOOP_PGTSKIP_CNT g) = s.fld (F.LOOP_PGTSKIP_CNT g))

/-- Injection, trace, friction table and load. Setting EN of an injection starts its generator from its registers and clearing
  it stops it; arming a trace clears TRIGGERED and DONE, a force with START = 0 triggers an armed trace once and marks where
  every channel stands, and clearing ARM stops recording; LOOP_FTDATA stores the entry that LOOP_FTIDX names, and the index
  advances with AINC; each whole second, counted from the release of reset, LOOP_LOAD takes the share of that second that the
  engine computed, however late the command comes, and before its end the command changes nothing. Completion (a next state
  with its own effect, for every state and operands that meet the conditions) is stated of: injectionStart, injectionStop,
  traceArm, traceForce, traceStop, ftableDataWrite, loopLoadUpdate. (R236, R237, R239, R240, R241, R242, R246). -/
def Obligations.LoopControls : Prop :=
  (∀ (s : State) (src : Src) (i : Nat), Live s → Canon s → LoopWhole s → i < 4 → s.fld (F.LOOP_INJCTL_EN i) = 0 → s.fld (F.LOOP_INJCTL_TYPE i) ≠ 3 → s.fld (F.LOOP_INJCTL_NODE i) ≠ 3 →
    Does (.injectionStart src i 0x80008000) s fun t => (t.dev.u.loop.gens.getD i none).map (fun x => (x.typ, x.node, x.slot, x.k)) = some (s.fld (F.LOOP_INJCTL_TYPE i), s.fld (F.LOOP_INJCTL_NODE i), s.fld (F.LOOP_INJCTL_SLOT i), 0) ∧ t.fld (F.LOOP_INJCTL_EN i) = 1 ∧ t.dev.u.loop.slots = s.dev.u.loop.slots ∧ OnlyRegs [R.LOOP_INJCTL i] s t) ∧
  (∀ (s : State) (src : Src) (i : Nat), Live s → Canon s → LoopWhole s → i < 4 → s.fld (F.LOOP_INJCTL_EN i) = 1 → s.fld (F.LOOP_INJCTL_TYPE i) ≠ 3 → s.fld (F.LOOP_INJCTL_NODE i) ≠ 3 →
    Does (.injectionStop src i 0x80000000) s fun t => t.dev.u.loop.gens.getD i none = none ∧ t.fld (F.LOOP_INJCTL_EN i) = 0 ∧ t.fld (F.LOOP_INJCTL_SLOT i) = s.fld (F.LOOP_INJCTL_SLOT i) ∧ OnlyRegs [R.LOOP_INJCTL i] s t) ∧
  (∀ (s : State) (src : Src), Live s → Canon s → s.fld F.LOOP_TRCCTL_ARM = 0 →
    Does (.traceArm src 0x80008000) s fun t => t.fld F.LOOP_TRCSTAT_ARMED = 1 ∧ t.fld F.LOOP_TRCSTAT_TRIGGERED = 0 ∧ t.fld F.LOOP_TRCSTAT_DONE = 0 ∧ t.fld F.LOOP_TRCCTL_ARM = 1 ∧ t.dev.u.loop.trc.length = 8 ∧ OnlyRegs [R.LOOP_TRCCTL, R.LOOP_TRCSTAT] s t) ∧
  (∀ (s : State) (src : Src) (c : Nat), Live s → Canon s → c < 8 → s.fld F.LOOP_TRCCTL_ARM = 1 → s.fld F.LOOP_TRCCTL_START = 0 → s.fld F.LOOP_TRCSTAT_ARMED = 1 → s.fld F.LOOP_TRCSTAT_TRIGGERED = 0 →
    Does (.traceForce src 0x40004000) s fun t => t.fld F.LOOP_TRCSTAT_TRIGGERED = 1 ∧ t.fld (F.LOOP_TRCTRIG_ENTRY c) = s.fld (F.LOOP_TRCWR_ENTRY c) ∧ t.dev.u.loop.trc.all (fun x => x.left == some (65536 - min (s.fld F.LOOP_TRCCTL_PRE) 14 * 4096)) = true ∧ t.dev.u.loop.rings = s.dev.u.loop.rings) ∧
  (∀ (s : State) (src : Src), Live s → Canon s →
    Does (.traceStop src 0x80000000) s fun t => t.fld F.LOOP_TRCCTL_ARM = 0 ∧ t.fld F.LOOP_TRCSTAT_ARMED = 0 ∧ t.fld F.LOOP_TRCSTAT_TRIGGERED = s.fld F.LOOP_TRCSTAT_TRIGGERED ∧ t.dev.u = s.dev.u ∧ OnlyRegs [R.LOOP_TRCCTL, R.LOOP_TRCSTAT] s t) ∧
  (∀ (s : State) (src : Src) (w : Word), Live s → Canon s → w.toNat / 65536 = 0xFFFF →
    Does (.ftableDataWrite src w) s fun t => ((t.dev.u.loop.ft.find? fun x => x.1 = (s.fld F.LOOP_FTIDX_TABLE * 1024 + s.fld F.LOOP_FTIDX_ENTRY)).map (·.2)).getD 0 = w.toNat % 65536 ∧ (∀ k ∈ s.dev.u.loop.ft, k.1 ≠ (s.fld F.LOOP_FTIDX_TABLE * 1024 + s.fld F.LOOP_FTIDX_ENTRY) → k ∈ t.dev.u.loop.ft) ∧ t.fld F.LOOP_FTIDX_TABLE * 1024 + t.fld F.LOOP_FTIDX_ENTRY = (if s.fld F.LOOP_FTIDX_AINC = 1 then ((s.fld F.LOOP_FTIDX_TABLE * 1024 + s.fld F.LOOP_FTIDX_ENTRY) + 1) % 16384 else (s.fld F.LOOP_FTIDX_TABLE * 1024 + s.fld F.LOOP_FTIDX_ENTRY)) ∧ OnlyRegs [R.LOOP_FTIDX] s t) ∧
  (∀ (s : State) (k : Nat), Live s → Canon s → s.dev.u.loop.loadN = k → s.dev.u.loop.loadAt + (k + 1) * 1000000000 ≤ s.dev.u.elapsed → s.dev.u.elapsed < s.dev.u.loop.loadAt + (k + 2) * 1000000000 → (∀ x ∈ s.dev.u.loop.busy, k ≤ x.1 ∧ x.2 % 100000 = 0) →
    Does .loopLoadUpdate s fun t => t.fld F.LOOP_LOAD_LAST = min (s.dev.u.loop.busyIn k / 100000) 0xFFFF ∧ t.dev.u.loop.loadN = k + 1 ∧ t.dev.u.loop.loadAt = s.dev.u.loop.loadAt ∧ (∀ j, k < j → t.dev.u.loop.busyIn j = s.dev.u.loop.busyIn j) ∧ OnlyRegs [R.LOOP_LOAD] s t) ∧
  (∀ (s : State) (k d : Nat), Live s → Canon s → s.dev.u.loop.loadN = k → s.dev.u.loop.loadAt + (k + 1) * 1000000000 ≤ s.dev.u.elapsed → s.dev.u.elapsed < s.dev.u.loop.loadAt + (k + 2) * 1000000000 → s.dev.u.loop.busy = [(k, d * 100000)] →
    Does .loopLoadUpdate s fun t => t.fld F.LOOP_LOAD_PEAK = max (s.fld F.LOOP_LOAD_PEAK) (min d 0xFFFF) ∧ t.dev.u.loop.busy = []) ∧
  (∀ (s : State), Live s → s.dev.u.elapsed < s.dev.u.loop.loadAt + (s.dev.u.loop.loadN + 1) * 1000000000 →
    Does .loopLoadUpdate s fun t => t = s)

/-- Bank periods, profiles and reloads of a valve channel. The bank periods of all four banks start every 50,000 ns from one
  first start, and VDRV_PSTART shows the wall time of the latest. At each reload, the first or a later one, an unpaired
  channel, or the even channel of a pair for both legs, takes its setpoint and D, and shows the period's current; D rising
  with a switching profile starts boost with the latched times and currents; D falling opens the switch, and the current
  decays. The boost ends in hold or the proportional phase, or latches OPEN where the current never reached half the target.
  ON = 1 commands a profile. Writes of the setpoint and commands that landed in the cycle of the reload wait for the next and
  are counted. A pair boosts with up to 8,000 mA and holds with up to 5,000 mA, both channels show its phase and duty, the odd
  channel shows the current of its own leg, and a command of the odd channel has no effect. A bank command that comes late
  goes on in the grid (DEDUCED, assumption log 90), and a write is in the reload's cycle where both instants have the same
  whole number of 10 ns (DEDUCED, assumption log 58). Completion (a next state with its own effect, for every state and
  operands that meet the conditions) is stated of: valveBankPeriod, valveReload, boostEnd, valveCmdOn. (R248, R249, R252,
  R253, R256, R257, R259, R260, R273, R661). -/
def Obligations.ValveReloads : Prop :=
  (∀ (s : State) (k a st : Nat), Live s → Canon s → k < 4 → s.dev.u.vdrv.banks.length = 4 → (s.dev.u.vdrv.anchor = some a ∨ (s.dev.u.vdrv.anchor = none ∧ s.dev.u.wall % 50000 < 4 ∧ a = s.dev.u.elapsed)) → st = s.dev.u.elapsed - (s.dev.u.elapsed - a) % 50000 → (s.dev.u.vdrv.banks.getD k none).all (fun x => decide (x < st)) = true →
    Does (.valveBankPeriod k) s fun t => t.dev.u.vdrv.anchor = some a ∧ t.dev.u.vdrv.banks.getD k none = some st ∧ (t.reg R.VDRV_PSTART).toNat = (s.dev.u.wall - (s.dev.u.elapsed - a) % 50000) % 2 ^ 32 ∧ t.dev.u.vdrv.chs = s.dev.u.vdrv.chs ∧ OnlyRegs [R.VDRV_PSTART] s t) ∧
  (∀ (s : State) (n st : Nat) (m : CoilMeas), Live s → Canon s → Unpaired s n → s.powered (88 + n) → s.dev.u.vdrv.banks.getD (n / 8) none = some st → st + n % 8 * 6250 ≤ s.dev.u.elapsed → (∀ r ∈ (s.vch n).reloadAt, r < st + n % 8 * 6250) → s.fld (F.VDRV_FAULT_CODE n) = 0 → s.fld F.VDRV_CTL_EN = 1 → s.fld (F.VDRV_VCOIL_UV (n / 8)) = 0 → s.fld (F.VDRV_VCOIL_OV (n / 8)) = 0 → m.mean < 65536 → s.fld (F.VDRV_PROF_TYPE n) = 1 → s.fld (F.VDRV_PROF_SETON n) = 0 → s.fld (F.VDRV_CMD_ON n) = 1 → (s.vch n).demand = false → s.fld (F.VDRV_CSTAT_THLIM n) = 0 → 0 < s.fld (F.VDRV_BOOSTT_T n) → (s.vch n).cycle ≠ some (s.dev.u.elapsed / 10) → (s.vch n).trip = none → (s.vch n).openRun < 63 →
    Does (.valveReload n m) s fun t => t.fld (F.VDRV_CSTAT_PHASE n) = 1 ∧ t.fld (F.VDRV_MEAS_I n) = m.mean ∧ (t.vch n).demand = true ∧ (t.vch n).active = s.fld (F.VDRV_SET_SET n) ∧ (t.vch n).left = 2 * min 10000 (s.fld (F.VDRV_BOOSTT_T n)) ∧ (t.vch n).boost = min (s.fld (F.VDRV_BOOST_I n)) 4000 ∧ (t.vch n).target = min (s.fld (F.VDRV_BOOST_I n)) 4000 ∧ (t.vch n).reloadAt = some s.dev.u.elapsed ∧ t.fld (F.VDRV_MEAS_DUTY n) = (s.vch n).ran.duty % 65536) ∧
  (∀ (s : State) (n st : Nat) (m : CoilMeas), Live s → Canon s → Unpaired s n → s.powered (88 + n) → s.dev.u.vdrv.banks.getD (n / 8) none = some st → st + n % 8 * 6250 ≤ s.dev.u.elapsed → (∀ r ∈ (s.vch n).reloadAt, r < st + n % 8 * 6250) → s.fld (F.VDRV_FAULT_CODE n) = 0 → s.fld F.VDRV_CTL_EN = 1 → s.fld (F.VDRV_VCOIL_UV (n / 8)) = 0 → s.fld (F.VDRV_VCOIL_OV (n / 8)) = 0 → m.mean < 65536 → s.fld (F.VDRV_PROF_SETON n) = 0 → s.fld (F.VDRV_CMD_ON n) = 0 → 1 ≤ (s.vch n).phase → (s.vch n).phase ≤ 4 → (s.vch n).cycle ≠ some (s.dev.u.elapsed / 10) → (s.vch n).trip = none → (s.vch n).openRun < 63 →
    Does (.valveReload n m) s fun t => t.fld (F.VDRV_CSTAT_PHASE n) = 5 ∧ t.fld (F.VDRV_MEAS_I n) = m.mean ∧ (t.vch n).demand = false ∧ (t.vch n).duty = 0 ∧ (t.vch n).target = 0) ∧
  (∀ (s : State) (n st : Nat) (m : CoilMeas), Live s → Canon s → Unpaired s n → s.powered (88 + n) → s.dev.u.vdrv.banks.getD (n / 8) none = some st → st + n % 8 * 6250 ≤ s.dev.u.elapsed → (∀ r ∈ (s.vch n).reloadAt, r < st + n % 8 * 6250) → s.fld (F.VDRV_FAULT_CODE n) = 0 → (s.vch n).trip = none → (s.vch n).openRun < 63 → (s.vch n).cycle = some (s.dev.u.elapsed / 10) → 0 < (s.vch n).writes →
    Does (.valveReload n m) s fun t => (t.vch n).active = (s.vch n).wasSet ∧ (t.vch n).cmd = (s.vch n).cmdNew ∧ t.fld F.VDRV_DEFERCNT_CNT = min (s.fld F.VDRV_DEFERCNT_CNT + (s.vch n).writes) 0xFFFFFFFF ∧ t.fld F.VDRV_STAT_DEFER = 1 ∧ t.fld (F.VDRV_CSTAT_DEFER n) = 1 ∧ t.fld (F.VDRV_SET_SET n) = s.fld (F.VDRV_SET_SET n)) ∧
  (∀ (s : State) (n cur rl : Nat), Live s → Canon s → Unpaired s n → (s.vch n).phase = 1 → (s.vch n).reloadAt = some rl → rl + (s.vch n).left * 50000 ≤ s.dev.u.elapsed → (s.fld (F.VDRV_PROF_OLEN n) = 0 ∨ (s.vch n).boost ≤ 2 * max (s.vch n).peak cur) →
    Does (.boostEnd n cur) s fun t => t.fld (F.VDRV_CSTAT_PHASE n) = (if s.fld (F.VDRV_PROF_TYPE n) = 2 then 3 else 2) ∧ (t.vch n).left = 0 ∧ (t.vch n).duty = 0 ∧ (t.vch n).since = s.dev.u.elapsed ∧ ((t.vch n).waitFall = true ↔ (t.vch n).target < cur) ∧ t.fld (F.VDRV_FAULT_CODE n) = s.fld (F.VDRV_FAULT_CODE n)) ∧
  (∀ (s : State) (n cur rl : Nat), Live s → Canon s → Unpaired s n → (s.vch n).phase = 1 → (s.vch n).reloadAt = some rl → rl + (s.vch n).left * 50000 ≤ s.dev.u.elapsed → s.fld (F.VDRV_PROF_OLEN n) = 1 → 2 * max (s.vch n).peak cur < (s.vch n).boost → s.fld (F.VDRV_FAULT_CODE n) = 0 →
    Does (.boostEnd n cur) s fun t => t.fld (F.VDRV_FAULT_CODE n) = 4 ∧ t.fld (F.VDRV_CSTAT_PHASE n) = 6 ∧ bitAt (t.reg R.VDRV_FLTMAP).toNat n = true ∧ t.fld F.VDRV_STAT_OPEN = 1 ∧ (t.vch n).duty = 0) ∧
  (∀ (s : State) (src : Src) (n : Nat), Live s → Canon s → Unpaired s n → s.powered (88 + n) → s.fld (F.VDRV_PROF_SETON n) = 0 → (s.fld (F.VDRV_PROF_TYPE n) = 1 ∨ s.fld (F.VDRV_PROF_TYPE n) = 2) → s.fld (F.VDRV_FAULT_CODE n) = 0 →
    Does (.valveCmdOn src n 0x80008000) s fun t => t.fld (F.VDRV_CMD_ON n) = 1 ∧ (t.vch n).cmd = true ∧ (t.vch n).phase = (s.vch n).phase ∧ OnlyRegs [R.VDRV_CMD n, R.VDRV_DEFERCNT, R.VDRV_STAT, R.VDRV_CSTAT n] s t) ∧
  (∀ (s : State) (n st : Nat) (m : CoilMeas), Live s → Canon s → PairHead s n → s.powered (88 + n) → s.dev.u.vdrv.banks.getD (n / 8) none = some st → st + n % 8 * 6250 ≤ s.dev.u.elapsed → (∀ r ∈ (s.vch n).reloadAt, r < st + n % 8 * 6250) → s.fld (F.VDRV_FAULT_CODE n) = 0 → s.fld F.VDRV_CTL_EN = 1 → s.fld (F.VDRV_VCOIL_UV (n / 8)) = 0 → s.fld (F.VDRV_VCOIL_OV (n / 8)) = 0 → m.mean < 65536 → s.fld (F.VDRV_PROF_TYPE n) = 1 → s.fld (F.VDRV_PROF_SETON n) = 0 → s.fld (F.VDRV_CMD_ON n) = 1 → (s.vch n).demand = false → s.fld (F.VDRV_CSTAT_THLIM n) = 0 → 0 < s.fld (F.VDRV_BOOSTT_T n) → (s.vch n).cycle ≠ some (s.dev.u.elapsed / 10) → (s.vch n).trip = none → (s.vch n).openRun < 63 →
    Does (.valveReload n m) s fun t => t.fld (F.VDRV_CSTAT_PHASE n) = 1 ∧ t.fld (F.VDRV_CSTAT_PHASE (n + 1)) = 1 ∧ t.fld (F.VDRV_MEAS_I n) = m.mean ∧ t.fld (F.VDRV_MEAS_I (n + 1)) = s.fld (F.VDRV_MEAS_I (n + 1)) ∧ (t.vch n).demand = true ∧ (t.vch n).active = s.fld (F.VDRV_SET_SET n) ∧ (t.vch n).left = 2 * min 10000 (s.fld (F.VDRV_BOOSTT_T n)) ∧ (t.vch n).boost = min (s.fld (F.VDRV_BOOST_I n)) 8000 ∧ (t.vch n).target = min (s.fld (F.VDRV_BOOST_I n)) 8000 ∧ (t.vch n).reloadAt = some s.dev.u.elapsed ∧ t.fld (F.VDRV_MEAS_DUTY n) = (s.vch n).ran.duty % 65536 ∧ t.fld (F.VDRV_MEAS_DUTY (n + 1)) = (s.vch n).ran.duty % 65536) ∧
  (∀ (s : State) (n st : Nat) (m : CoilMeas), Live s → Canon s → PairHead s n → s.powered (88 + n) → s.dev.u.vdrv.banks.getD (n / 8) none = some st → st + n % 8 * 6250 ≤ s.dev.u.elapsed → (∀ r ∈ (s.vch n).reloadAt, r < st + n % 8 * 6250) → s.fld (F.VDRV_FAULT_CODE n) = 0 → s.fld F.VDRV_CTL_EN = 1 → s.fld (F.VDRV_VCOIL_UV (n / 8)) = 0 → s.fld (F.VDRV_VCOIL_OV (n / 8)) = 0 → m.mean < 65536 → s.fld (F.VDRV_PROF_SETON n) = 0 → s.fld (F.VDRV_CMD_ON n) = 0 → 1 ≤ (s.vch n).phase → (s.vch n).phase ≤ 4 → (s.vch n).cycle ≠ some (s.dev.u.elapsed / 10) → (s.vch n).trip = none → (s.vch n).openRun < 63 →
    Does (.valveReload n m) s fun t => t.fld (F.VDRV_CSTAT_PHASE n) = 5 ∧ t.fld (F.VDRV_CSTAT_PHASE (n + 1)) = 5 ∧ t.fld (F.VDRV_MEAS_I n) = m.mean ∧ (t.vch n).demand = false ∧ (t.vch n).duty = 0 ∧ (t.vch n).target = 0) ∧
  (∀ (s : State) (n st : Nat) (m : CoilMeas), Live s → Canon s → PairTail s n → s.powered (88 + n) → s.dev.u.vdrv.banks.getD (n / 8) none = some st → st + (n - 1) % 8 * 6250 ≤ s.dev.u.elapsed → (∀ r ∈ (s.vch n).reloadAt, r < st + (n - 1) % 8 * 6250) → m.mean < 65536 →
    Does (.valveReload n m) s fun t => t.fld (F.VDRV_MEAS_I n) = m.mean ∧ t.fld (F.VDRV_MEAS_DUTY n) = s.fld (F.VDRV_MEAS_DUTY n) ∧ t.vch n = { s.vch n with reloadAt := some s.dev.u.elapsed } ∧ (∀ j ∈ List.range 32, j ≠ n → t.vch j = s.vch j) ∧ OnlyRegs [R.VDRV_MEAS n] s t) ∧
  (∀ (s : State) (n cur rl : Nat), Live s → Canon s → PairHead s n → (s.vch n).phase = 1 → (s.vch n).reloadAt = some rl → rl + (s.vch n).left * 50000 ≤ s.dev.u.elapsed → (s.fld (F.VDRV_PROF_OLEN n) = 0 ∨ (s.vch n).boost ≤ 2 * max (s.vch n).peak cur) →
    Does (.boostEnd n cur) s fun t => t.fld (F.VDRV_CSTAT_PHASE n) = (if s.fld (F.VDRV_PROF_TYPE n) = 2 then 3 else 2) ∧ t.fld (F.VDRV_CSTAT_PHASE (n + 1)) = t.fld (F.VDRV_CSTAT_PHASE n) ∧ (t.vch n).left = 0 ∧ (t.vch n).duty = 0 ∧ (t.vch n).since = s.dev.u.elapsed ∧ (s.fld (F.VDRV_PROF_TYPE n) = 1 → s.fld (F.VDRV_CSTAT_THLIM n) = 0 → (t.vch n).target = min (s.vch n).holdI 5000) ∧ ((t.vch n).waitFall = true ↔ (t.vch n).target < cur) ∧ OnlyRegs [R.VDRV_CSTAT n, R.VDRV_CSTAT (n + 1)] s t) ∧
  (∀ (s : State) (n cur rl : Nat), Live s → Canon s → PairHead s n → (s.vch n).phase = 1 → (s.vch n).reloadAt = some rl → rl + (s.vch n).left * 50000 ≤ s.dev.u.elapsed → s.fld (F.VDRV_PROF_OLEN n) = 1 → 2 * max (s.vch n).peak cur < (s.vch n).boost → s.fld (F.VDRV_FAULT_CODE n) = 0 →
    Does (.boostEnd n cur) s fun t => t.fld (F.VDRV_FAULT_CODE n) = 4 ∧ t.fld (F.VDRV_CSTAT_PHASE n) = 6 ∧ t.fld (F.VDRV_CSTAT_PHASE (n + 1)) = 6 ∧ t.fld (F.VDRV_FAULT_CODE (n + 1)) = s.fld (F.VDRV_FAULT_CODE (n + 1)) ∧ bitAt (t.reg R.VDRV_FLTMAP).toNat n = true ∧ t.fld F.VDRV_STAT_OPEN = 1 ∧ (t.vch n).duty = 0) ∧
  (∀ (s : State) (n cur : Nat), Live s → PairTail s n →
    Does (.boostEnd n cur) s fun t => t = s) ∧
  (∀ (s : State) (src : Src) (n : Nat), Live s → Canon s → PairTail s n → s.powered (88 + n) →
    Does (.valveCmdOn src n 0x80008000) s fun t => t.fld (F.VDRV_CMD_ON n) = 1 ∧ t.dev.u = s.dev.u ∧ OnlyRegs [R.VDRV_CMD n] s t)

/-- Closing detection and the coil model. Each 20 µs average of a closing search gives a slope; the first change beyond the
  threshold, from the 13th on, gives the closing time and CLOSED; a window that ends without one shows 0xFFFF and CDMISS. Each
  1 ms the two nodes of the coil model take one step of the model's equations, and a steady channel's measured resistance
  shows in VDRV_RMEAS. The exact rational arithmetic of the coil model and of the averages is the model's choice (assumption
  log 57). The even channel of a pair has the model, the measurement and the closing detection of its one coil, and the odd
  channel none. Completion (a next state with its own effect, for every state and operands that meet the conditions) is stated
  of: closingAverageEnd, closingWindowEnd, coilModelTick, coilResMeasure. (R266, R267, R268, R269, R643, R661). -/
def Obligations.ValveDetection : Prop :=
  (∀ (s : State) (n v : Nat) (x : Closing), Live s → Canon s → Unpaired s n → (s.vch n).search = some x → x.since + (x.k + 1) * 20000 ≤ s.dev.u.elapsed → (x.k + 1) * 20000 ≤ max 1 (s.fld (F.VDRV_CDCFG_WIN n)) * 500000 → 12 ≤ x.k → (max 1 (s.fld (F.VDRV_CDCFG_THR n)) * 100 : Nat) < |(v : Int) - x.avg - x.slope| → (x.k + 1) * 20 < 65536 → v ≤ 70000 →
    Does (.closingAverageEnd n v) s fun t => t.fld (F.VDRV_CLOSET_T n) = (x.k + 1) * 20 ∧ t.fld (F.VDRV_CSTAT_CLOSED n) = 1 ∧ (t.vch n).search = none ∧ OnlyRegs [R.VDRV_CLOSET n, R.VDRV_CSTAT n] s t) ∧
  (∀ (s : State) (n v : Nat) (x : Closing), Live s → Canon s → Unpaired s n → (s.vch n).search = some x → x.since + (x.k + 1) * 20000 ≤ s.dev.u.elapsed → (x.k + 1) * 20000 ≤ max 1 (s.fld (F.VDRV_CDCFG_WIN n)) * 500000 → x.k < 12 → v ≤ 70000 →
    Does (.closingAverageEnd n v) s fun t => (t.vch n).search = some ⟨x.since, x.k + 1, v, (v : Int) - x.avg⟩ ∧ OnlyRegs [] s t) ∧
  (∀ (s : State) (n : Nat) (x : Closing), Live s → Canon s → Unpaired s n → (s.vch n).search = some x → x.since + max 1 (s.fld (F.VDRV_CDCFG_WIN n)) * 500000 ≤ s.dev.u.elapsed →
    Does (.closingWindowEnd n) s fun t => t.fld (F.VDRV_CLOSET_T n) = 0xFFFF ∧ t.fld (F.VDRV_CSTAT_CDMISS n) = 1 ∧ t.fld F.VDRV_STAT_CDMISS = 1 ∧ (t.vch n).search = none) ∧
  (∀ (s : State) (n : Nat) (ta : Int) (c : ValveCh) (p i : ℚ), Live s → Canon s → Unpaired s n → s.dev.u.vdrv.tickAt + 1000000 ≤ s.dev.u.elapsed → s.fld F.VDRV_TAMB_SRC = 0 → s.fld (F.THM_TEMP_T 4) ≠ 0x8000 → toSigned 16 (s.fld (F.THM_TEMP_T 4)) = ta * 10 → s.fld (F.VDRV_RCOLD_RC n) ≠ 0 → c = s.vch n → i = (if s.powered (88 + n) then (s.fld (F.VDRV_MEAS_I n) : ℚ) / 1000 else 0) → p = i * i * ((s.fld (F.VDRV_RCOLD_RC n) : ℚ) / 100 * (1 + 393 / 100000 * (c.tw - 20))) →
    Does .coilModelTick s fun t => t.dev.u.vdrv.tickAt = s.dev.u.elapsed ∧ t.fld F.VDRV_TAMBV_TA = ofSigned 16 ta ∧ (t.vch n).tw = c.tw + 1 / 1000 / ((max 1 (s.fld (F.VDRV_THC_CW n)) : Nat) / 10) * (p - (c.tw - c.tb) / ((max 1 (s.fld (F.VDRV_THR_RWB n)) : Nat) / 10)) ∧ (t.vch n).tb = c.tb + 1 / 1000 / (max 1 (s.fld (F.VDRV_THC_CB n)) : Nat) * (((t.vch n).tw - c.tb) / ((max 1 (s.fld (F.VDRV_THR_RWB n)) : Nat) / 10) - (c.tb - (ta : ℚ) / 10) / ((max 1 (s.fld (F.VDRV_THR_RBA n)) : Nat) / 2))) ∧
  (∀ (s : State) (n v i q : Nat), Live s → Canon s → Unpaired s n → ((s.vch n).phase = 2 ∨ (s.vch n).phase = 3) → 64 ≤ (s.vch n).steady → 0 < i → v * 100 = q * i → q < 65536 → s.fld (F.VDRV_RCOLD_RC n) ≠ 0 →
    Does (.coilResMeasure n v i) s fun t => t.fld (F.VDRV_RMEAS_R n) = q ∧ (t.vch n).steady = 0 ∧ (t.vch n).tw = 20 + ((v : ℚ) / i / ((s.fld (F.VDRV_RCOLD_RC n) : ℚ) / 100) - 1) / (393 / 100000) ∧ (t.vch n).tb = (s.vch n).tb) ∧
  (∀ (s : State) (n v : Nat) (x : Closing), Live s → Canon s → PairHead s n → (s.vch n).search = some x → x.since + (x.k + 1) * 20000 ≤ s.dev.u.elapsed → (x.k + 1) * 20000 ≤ max 1 (s.fld (F.VDRV_CDCFG_WIN n)) * 500000 → 12 ≤ x.k → (max 1 (s.fld (F.VDRV_CDCFG_THR n)) * 100 : Nat) < |(v : Int) - x.avg - x.slope| → (x.k + 1) * 20 < 65536 → v ≤ 70000 →
    Does (.closingAverageEnd n v) s fun t => t.fld (F.VDRV_CLOSET_T n) = (x.k + 1) * 20 ∧ t.fld (F.VDRV_CSTAT_CLOSED n) = 1 ∧ (t.vch n).search = none ∧ OnlyRegs [R.VDRV_CLOSET n, R.VDRV_CSTAT n] s t) ∧
  (∀ (s : State) (n : Nat) (ta : Int) (c : ValveCh) (p i : ℚ), Live s → Canon s → PairHead s n → s.dev.u.vdrv.tickAt + 1000000 ≤ s.dev.u.elapsed → s.fld F.VDRV_TAMB_SRC = 0 → s.fld (F.THM_TEMP_T 4) ≠ 0x8000 → toSigned 16 (s.fld (F.THM_TEMP_T 4)) = ta * 10 → s.fld (F.VDRV_RCOLD_RC n) ≠ 0 → c = s.vch n → i = (if s.powered (88 + n) then (s.fld (F.VDRV_MEAS_I n) : ℚ) / 1000 else 0) → p = i * i * ((s.fld (F.VDRV_RCOLD_RC n) : ℚ) / 100 * (1 + 393 / 100000 * (c.tw - 20))) →
    Does .coilModelTick s fun t => (t.vch n).tw = c.tw + 1 / 1000 / ((max 1 (s.fld (F.VDRV_THC_CW n)) : Nat) / 10) * (p - (c.tw - c.tb) / ((max 1 (s.fld (F.VDRV_THR_RWB n)) : Nat) / 10)) ∧ (t.vch n).tb = c.tb + 1 / 1000 / (max 1 (s.fld (F.VDRV_THC_CB n)) : Nat) * (((t.vch n).tw - c.tb) / ((max 1 (s.fld (F.VDRV_THR_RWB n)) : Nat) / 10) - (c.tb - (ta : ℚ) / 10) / ((max 1 (s.fld (F.VDRV_THR_RBA n)) : Nat) / 2)) ∧ t.vch (n + 1) = s.vch (n + 1) ∧ t.reg (R.VDRV_TW (n + 1)) = s.reg (R.VDRV_TW (n + 1))) ∧
  (∀ (s : State) (n v i q : Nat), Live s → Canon s → PairHead s n → ((s.vch n).phase = 2 ∨ (s.vch n).phase = 3) → 64 ≤ (s.vch n).steady → 0 < i → v * 100 = q * i → q < 65536 → s.fld (F.VDRV_RCOLD_RC n) ≠ 0 →
    Does (.coilResMeasure n v i) s fun t => t.fld (F.VDRV_RMEAS_R n) = q ∧ (t.vch n).steady = 0 ∧ (t.vch n).tw = 20 + ((v : ℚ) / i / ((s.fld (F.VDRV_RCOLD_RC n) : ℚ) / 100) - 1) / (393 / 100000) ∧ (t.vch n).tb = (s.vch n).tb ∧ t.vch (n + 1) = s.vch (n + 1) ∧ t.fld (F.VDRV_RMEAS_R (n + 1)) = s.fld (F.VDRV_RMEAS_R (n + 1)))

/-- Shorts, supplies, enable and fault clearing of the valve drive. A current of 12,000 mA in a conducting channel latches
  FASTSHORT, and one of 6,000 mA outside the 2 µs blanking SHORT; the switch opens and the phase shows as faulted. A pair
  opens at the trip of one leg, and the trip of the other within 1 µs latches PSHORT; the write of CLRF clears a latched
  fault; a coil supply out of range switches its whole bank off, and its return starts the bank's channels from boost at their
  next reloads; EN cleared switches every channel off, and EN set starts them from boost. That a first trip keeps its code for
  1 µs is the model's choice (assumption log 90). A cleared fault of a pair shows in the phase of both channels. A supply
  above 70 V is a fault of the model (R643, assumption log 75). Completion (a next state with its own effect, for every state
  and operands that meet the conditions) is stated of: valveShortTrip, valveClearFault, vcoilFault, vcoilReturn,
  valveEnableClear, valveEnableSet. (R249, R265, R271, R272, R274, R275, R276, R643, R661). -/
def Obligations.ValveFaults : Prop :=
  (∀ (s : State) (n leg i code rl : Nat), Live s → Canon s → Unpaired s n → s.powered (88 + n) → 1 ≤ (s.vch n).phase → (s.vch n).phase ≤ 4 → (s.vch n).reloadAt = some rl → s.dev.u.elapsed - rl < (s.vch n).duty * 5 → ((12000 ≤ i ∧ code = 2) ∨ (6000 ≤ i ∧ i < 12000 ∧ rl + 2000 ≤ s.dev.u.elapsed ∧ code = 1)) → (s.vch n).trip = none → s.fld (F.VDRV_FAULT_CODE n) = 0 →
    Does (.valveShortTrip n leg i) s fun t => t.fld (F.VDRV_FAULT_CODE n) = code ∧ t.fld (F.VDRV_FAULT_LEG n) = 0 ∧ bitAt (t.reg R.VDRV_FLTMAP).toNat n = true ∧ t.fld F.VDRV_STAT_SHORT = 1 ∧ t.fld (F.VDRV_CSTAT_PHASE n) = 6 ∧ (t.vch n).duty = 0) ∧
  (∀ (s : State) (n leg i rl : Nat), Live s → Canon s → i < 12000 → (s.vch n).reloadAt = some rl → s.dev.u.elapsed < rl + 2000 → bitAt (s.reg R.VDRV_PAIR).toNat (n / 2) = false →
    Does (.valveShortTrip n leg i) s fun t => OnlyRegs [] s t ∧ t.dev.u = s.dev.u) ∧
  (∀ (s : State) (n leg i rl : Nat), Live s → Canon s → n < 32 → n % 2 = 0 → bitAt (s.reg R.VDRV_PAIR).toNat (n / 2) = true → s.dev.u.vdrv.chs.length = 32 → s.powered (88 + n) → 1 ≤ (s.vch n).phase → (s.vch n).phase ≤ 4 → (s.vch n).reloadAt = some rl → s.dev.u.elapsed - rl < (s.vch n).duty * 5 → 12000 ≤ i → leg < 2 → (s.vch n).trip = none →
    Does (.valveShortTrip n leg i) s fun t => (t.vch n).trip = some (leg, 2, s.dev.u.elapsed) ∧ (t.vch n).duty = 0 ∧ t.fld (F.VDRV_CSTAT_PHASE n) = 5 ∧ t.fld (F.VDRV_CSTAT_PHASE (n + 1)) = 5 ∧ t.fld (F.VDRV_FAULT_CODE n) = s.fld (F.VDRV_FAULT_CODE n)) ∧
  (∀ (s : State) (n leg i l k st : Nat), Live s → Canon s → n < 32 → n % 2 = 0 → bitAt (s.reg R.VDRV_PAIR).toNat (n / 2) = true → s.dev.u.vdrv.chs.length = 32 → s.powered (88 + n) → (s.vch n).trip = some (l, k, st) → l ≠ leg → leg < 2 → s.dev.u.elapsed ≤ st + 1000 → 12000 ≤ i → s.fld (F.VDRV_FAULT_CODE n) = 0 →
    Does (.valveShortTrip n leg i) s fun t => t.fld (F.VDRV_FAULT_CODE n) = 3 ∧ t.fld (F.VDRV_FAULT_LEG n) = 0 ∧ bitAt (t.reg R.VDRV_FLTMAP).toNat n = true ∧ t.fld F.VDRV_STAT_SHORT = 1 ∧ t.fld (F.VDRV_FAULT_CODE (n + 1)) = s.fld (F.VDRV_FAULT_CODE (n + 1)) ∧ (t.vch n).trip = none) ∧
  (∀ (s : State) (src : Src) (n : Nat), Live s → Canon s → Unpaired s n → s.powered (88 + n) → s.fld (F.VDRV_FAULT_CODE n) ≠ 0 →
    Does (.valveClearFault src n 0x40004000) s fun t => t.fld (F.VDRV_FAULT_CODE n) = 0 ∧ bitAt (t.reg R.VDRV_FLTMAP).toNat n = false ∧ (t.vch n).restart = true ∧ t.fld (F.VDRV_CSTAT_PHASE n) = (if s.fld (F.VDRV_MEAS_I n) = 0 then 0 else 5) ∧ t.fld (F.VDRV_CMD_ON n) = s.fld (F.VDRV_CMD_ON n)) ∧
  (∀ (s : State) (k v : Nat), Live s → Canon s → k < 4 → v < 600 → s.dev.u.vdrv.chs.length = 32 →
    Does (.vcoilFault k v) s fun t => t.fld (F.VDRV_VCOIL_V k) = v ∧ t.fld (F.VDRV_VCOIL_UV k) = 1 ∧ t.fld (F.VDRV_VCOIL_OV k) = 0 ∧ t.fld F.VDRV_STAT_SUPPLY = 1 ∧ ∀ j ∈ List.range 8, (t.vch (8 * k + j)).duty = 0 ∧ (t.vch (8 * k + j)).target = 0 ∧ (bitAt (s.reg R.VDRV_PAIR).toNat ((8 * k + j) / 2) = false → s.fld (F.VDRV_PROF_SETON (8 * k + j)) = 0 → s.fld (F.VDRV_CMD_ON (8 * k + j)) = 1 → t.fld (F.VDRV_CSTAT_SUPPLY (8 * k + j)) = 1)) ∧
  (∀ (s : State) (k v : Nat), Live s → Canon s → k < 4 → 650 ≤ v → v ≤ 6500 → s.dev.u.vdrv.chs.length = 32 → (s.fld (F.VDRV_VCOIL_UV k) = 1 ∨ s.fld (F.VDRV_VCOIL_OV k) = 1) →
    Does (.vcoilReturn k v) s fun t => t.fld (F.VDRV_VCOIL_V k) = v ∧ t.fld (F.VDRV_VCOIL_UV k) = 0 ∧ t.fld (F.VDRV_VCOIL_OV k) = 0 ∧ (∀ j ∈ List.range 8, (t.vch (8 * k + j)).restart = true) ∧ OnlyRegs [R.VDRV_VCOIL k] s t) ∧
  (∀ (s : State) (src : Src), Live s → Canon s → s.fld F.VDRV_CTL_EN = 1 → s.dev.u.vdrv.chs.length = 32 →
    Does (.valveEnableClear src 0x80000000) s fun t => t.fld F.VDRV_CTL_EN = 0 ∧ ∀ n ∈ List.range 32, (t.vch n).duty = 0 ∧ (t.vch n).target = 0 ∧ (1 ≤ (s.vch n).phase → (s.vch n).phase ≤ 4 → (t.vch n).phase = 5)) ∧
  (∀ (s : State) (src : Src), Live s → Canon s → s.fld F.VDRV_CTL_EN = 0 → s.dev.u.vdrv.chs.length = 32 →
    Does (.valveEnableSet src 0x80008000) s fun t => t.fld F.VDRV_CTL_EN = 1 ∧ (∀ n ∈ List.range 32, (t.vch n).restart = true) ∧ OnlyRegs [R.VDRV_CTL] s t) ∧
  (∀ (s : State) (k v : Nat), Live s → 7000 < v →
    Stops (.vcoilFault k v) s .ratingExceeded) ∧
  (∀ (s : State) (src : Src) (n : Nat), Live s → Canon s → PairHead s n → s.powered (88 + n) → s.fld (F.VDRV_FAULT_CODE n) ≠ 0 →
    Does (.valveClearFault src n 0x40004000) s fun t => t.fld (F.VDRV_FAULT_CODE n) = 0 ∧ bitAt (t.reg R.VDRV_FLTMAP).toNat n = false ∧ (t.vch n).restart = true ∧ t.fld (F.VDRV_CSTAT_PHASE n) = (if s.fld (F.VDRV_MEAS_I n) = 0 then 0 else 5) ∧ t.fld (F.VDRV_CSTAT_PHASE (n + 1)) = t.fld (F.VDRV_CSTAT_PHASE n) ∧ t.fld (F.VDRV_CMD_ON n) = s.fld (F.VDRV_CMD_ON n))

/-- Blower periods, ramps and tach pairs. Channel 0's period start takes FAN_FREQ and places the other channels an eighth of a
  period apart; in any period of any channel the applied duty ramps towards its target by at most the rate; a new frequency
  waits for that start, and a write of FAN_SET in the cycle of the reload waits for the next one and is counted. A tach edge
  counts FILT x 10 µs or more after the last; two of one on-time give the speed, to the nearest, and in a measuring period end
  the count of misses, and the stretch of a measuring period ends at its limit. The next period runs from the instant at which
  the last was due, so a reload that comes late moves none (DEDUCED, assumption log 91), and a write is in the reload's cycle
  where both instants have the same whole number of 10 ns (DEDUCED, assumption log 58). Completion (a next state with its own
  effect, for every state and operands that meet the conditions) is stated of: fanFreqChange, fanReload, tachEdge, stretchEnd.
  (R280, R281, R282, R285, R286, R287, R291). -/
def Obligations.BlowerPeriods : Prop :=
  (∀ (s : State) (src : Src) (f : Nat), Live s → Canon s → f < 64 →
    Does (.fanFreqChange src (BitVec.ofNat 32 (0x003F0000 + f))) s fun t => t.fld F.FAN_FREQ_F = f ∧ t.dev.u = s.dev.u ∧ OnlyRegs [R.FAN_FREQ] s t) ∧
  (∀ (s : State) (m : FanMeas) (p k st : Nat), Live s → Canon s → s.dev.u.fan.chs.length = 8 → st = (s.fch 0).nextAt.getD s.dev.u.elapsed → st ≤ s.dev.u.elapsed → p = 100000000 / max 20 (min 60 (s.fld F.FAN_FREQ_F)) → 1 ≤ k → k < 8 →
    Does (.fanReload 0 m) s fun t => t.dev.u.fan.period = p ∧ (t.fch 0).nextAt = some (st + p * 10) ∧ (t.fch k).nextAt = some (st + k * (p / 8) * 10) ∧ (t.fch 0).reloadAt = some s.dev.u.elapsed) ∧
  (∀ (s : State) (n : Nat) (m : FanMeas), Live s → Canon s → s.dev.u.fan.chs.length = 8 → n < 8 → s.powered (120 + n) → (n = 0 ∨ (s.fch n).nextAt ≠ none) → (∀ x ∈ (s.fch n).nextAt, x ≤ s.dev.u.elapsed) → s.fld F.FAN_CTL_EN = 1 → s.fld (F.FAN_FAULT_CODE n) = 0 → ((s.fch n).measuring = false ∨ (s.fch n).pairSeen = true) → (∀ x ∈ (s.fch n).means, x.1 ≤ 3300) → m.mean ≤ 3300 → (s.fch n).cycle ≠ some (s.dev.u.elapsed / 10) → s.fld (F.FAN_CHCTL_OLEN n) = 0 → s.fld F.FAN_COOL_EN = 0 → (∀ j ∈ List.range 4, s.fld (F.FAN_SKIPHI_HI n j) ≤ s.fld (F.FAN_SKIPLO_LO n j)) → m.peak < 65536 →
    Does (.fanReload n m) s fun t => t.fld (F.FAN_APPLIED_DUTY n) = rampTo (s.fld (F.FAN_APPLIED_DUTY n)) (min 10000 (s.fld (F.FAN_SET_SET n))) (s.fld (F.FAN_RAMP_RATE n)) ∧ t.fld (F.FAN_APPLIED_TARGET n) = min 10000 (s.fld (F.FAN_SET_SET n)) ∧ t.fld (F.FAN_CSTAT_RAMPING n) = (if t.fld (F.FAN_APPLIED_DUTY n) = t.fld (F.FAN_APPLIED_TARGET n) then 0 else 1) ∧ (t.fch n).periodNo = (s.fch n).periodNo + 1 ∧ (t.fch n).reloadAt = some s.dev.u.elapsed ∧ (t.fch n).onStart = (s.fch n).nextAt.getD s.dev.u.elapsed ∧ (n ≠ 0 → (t.fch n).nextAt = none) ∧ (t.reg (R.FAN_MEAS n)).toNat = m.peak * 65536 + m.mean ∧ t.fld (F.FAN_FAULT_CODE n) = 0) ∧
  (∀ (s : State) (n : Nat) (m : FanMeas), Live s → Canon s → s.dev.u.fan.chs.length = 8 → n < 8 → s.powered (120 + n) → (n = 0 ∨ (s.fch n).nextAt ≠ none) → (∀ x ∈ (s.fch n).nextAt, x ≤ s.dev.u.elapsed) → s.fld F.FAN_CTL_EN = 1 → s.fld (F.FAN_FAULT_CODE n) = 0 → ((s.fch n).measuring = false ∨ (s.fch n).pairSeen = true) → (∀ x ∈ (s.fch n).means, x.1 ≤ 3300) → m.mean ≤ 3300 → (s.fch n).cycle = some (s.dev.u.elapsed / 10) → 0 < (s.fch n).writes → s.fld (F.FAN_CHCTL_OLEN n) = 0 → s.fld F.FAN_COOL_EN = 0 → (∀ j ∈ List.range 4, s.fld (F.FAN_SKIPHI_HI n j) ≤ s.fld (F.FAN_SKIPLO_LO n j)) → m.peak < 65536 →
    Does (.fanReload n m) s fun t => t.fld (F.FAN_APPLIED_TARGET n) = min 10000 (s.fch n).wasSet % 65536 ∧ t.fld (F.FAN_CSTAT_DEFER n) = 1 ∧ t.fld F.FAN_STAT_DEFER = 1 ∧ t.fld F.FAN_DEFERCNT_CNT = min (s.fld F.FAN_DEFERCNT_CNT + (s.fch n).writes) 0xFFFFFFFF ∧ t.fld (F.FAN_SET_SET n) = s.fld (F.FAN_SET_SET n)) ∧
  (∀ (s : State) (n : Nat), Live s → Canon s → s.dev.u.fan.chs.length = 8 → n < 8 → s.powered (120 + n) → s.fld (F.FAN_APPLIED_DUTY n) ≠ 0 → s.dev.u.elapsed ≤ (s.fch n).onStart + (s.fch n).onLen → (s.fch n).onStart + 2000000 ≤ s.dev.u.elapsed → (∀ x ∈ (s.fch n).lastEdge, x + s.fld (F.FAN_TACH_FILT n) * 10000 ≤ s.dev.u.elapsed) → (s.fch n).pairEdge = none →
    Does (.tachEdge n) s fun t => (t.fch n).pairEdge = some s.dev.u.elapsed ∧ (t.fch n).lastEdge = some s.dev.u.elapsed ∧ OnlyRegs [] s t) ∧
  (∀ (s : State) (n e q d : Nat), Live s → Canon s → s.dev.u.fan.chs.length = 8 → n < 8 → s.powered (120 + n) → s.fld (F.FAN_APPLIED_DUTY n) ≠ 0 → s.dev.u.elapsed ≤ (s.fch n).onStart + (s.fch n).onLen → (s.fch n).onStart + 2000000 ≤ s.dev.u.elapsed → (∀ x ∈ (s.fch n).lastEdge, x + s.fld (F.FAN_TACH_FILT n) * 10000 ≤ s.dev.u.elapsed) → (s.fch n).pairEdge = some e → d = (s.fld (F.FAN_CHCTL_PPR n) + 1) * (s.dev.u.elapsed - e) → 2 * q * d < 120000000000 + d → 120000000000 < (2 * q + 1) * d → q < 65536 →
    Does (.tachEdge n) s fun t => t.fld (F.FAN_SPEED_RPM n) = q ∧ t.fld (F.FAN_CSTAT_STALLED n) = 0 ∧ (t.fch n).pairSeen = true ∧ (t.fch n).misses = (if (s.fch n).measuring = true then 0 else (s.fch n).misses)) ∧
  (∀ (s : State) (n lim : Nat), Live s → Canon s → s.dev.u.fan.chs.length = 8 → n < 8 → (s.fch n).pairSeen = false → (s.fch n).measuring = true → (s.fch n).stretchDone = false → s.fld (F.FAN_APPLIED_DUTY n) ≠ 0 → lim = s.fld (F.FAN_TACH_STRMAX n) → 1 ≤ lim → lim ≤ 65 → (s.fch n).onStart + (s.fch n).onLen + lim * 1000000 ≤ s.dev.u.elapsed →
    Does (.stretchEnd n) s fun t => t.fld (F.FAN_STRETCH_T n) = lim * 1000 ∧ (t.fch n).owed = lim * 1000000 ∧ (t.fch n).stretchDone = true ∧ OnlyRegs [R.FAN_STRETCH n] s t)

/-- Blower faults and their clearing. A blower current of 12,000 mA latches SHORT and one limited for more than 20 ms of an
  on-time latches OVERCUR; a faulted channel has applied duty 0; CLRF clears a latched fault and starts the stall test's grace
  time. Completion (a next state with its own effect, for every state and operands that meet the conditions) is stated of:
  fanShortTrip, fanOvercurTimeout, fanClearFault. (R288, R289). -/
def Obligations.BlowerFaults : Prop :=
  (∀ (s : State) (n i : Nat), Live s → Canon s → s.dev.u.fan.chs.length = 8 → n < 8 → s.powered (120 + n) → s.fld (F.FAN_FAULT_CODE n) = 0 → 12000 ≤ i →
    Does (.fanShortTrip n i) s fun t => t.fld (F.FAN_FAULT_CODE n) = 1 ∧ bitAt (t.reg R.FAN_FLTMAP).toNat n = true ∧ bitAt (t.reg R.FAN_STAT).toNat 1 = true ∧ t.fld (F.FAN_APPLIED_DUTY n) = 0 ∧ t.fld (F.FAN_SPEED_RPM n) = 0 ∧ (t.fch n).onLen = 0) ∧
  (∀ (s : State) (n i : Nat), Live s → Canon s → s.dev.u.fan.chs.length = 8 → n < 8 → s.powered (120 + n) → s.fld (F.FAN_FAULT_CODE n) = 0 → 6000 ≤ i → s.fld (F.FAN_APPLIED_DUTY n) ≠ 0 → (s.fch n).onStart + 20000000 < s.dev.u.elapsed → s.dev.u.elapsed ≤ (s.fch n).onStart + (s.fch n).onLen →
    Does (.fanOvercurTimeout n i) s fun t => t.fld (F.FAN_FAULT_CODE n) = 2 ∧ bitAt (t.reg R.FAN_FLTMAP).toNat n = true ∧ bitAt (t.reg R.FAN_STAT).toNat 2 = true ∧ t.fld (F.FAN_APPLIED_DUTY n) = 0 ∧ t.fld (F.FAN_SPEED_RPM n) = 0 ∧ (t.fch n).onLen = 0) ∧
  (∀ (s : State) (src : Src) (n : Nat), Live s → Canon s → s.dev.u.fan.chs.length = 8 → n < 8 → s.powered (120 + n) → s.fld (F.FAN_FAULT_CODE n) ≠ 0 →
    Does (.fanClearFault src n 0x80008000) s fun t => t.fld (F.FAN_FAULT_CODE n) = 0 ∧ bitAt (t.reg R.FAN_FLTMAP).toNat n = false ∧ (t.fch n).graceAt = s.dev.u.elapsed ∧ (t.fch n).misses = 0 ∧ t.fld (F.FAN_APPLIED_DUTY n) = s.fld (F.FAN_APPLIED_DUTY n))

/-- Field measurements reverse, end and publish. The excitation reverses at the end of the positive window of a DC
  measurement, and AFF_NOTCHF shows the line frequency that the window followed; at its end a resistive measurement without a
  fault publishes code 0, its loop resistance less the lead as raw value, and the scaled result; a force loop at 3.0 V
  publishes OPEN; a voltage measurement publishes its voltage; every publication advances SEQ. An overcurrent of a powered
  loop input opens its shunt and shows code 7 with no value. The model's choice: the lowest fault code found stands
  (assumption log 40), and the current and the limits are those of assumption log 92. Completion (a next state with its own
  effect, for every state and operands that meet the conditions) is stated of: fieldPolarityReverse, fieldMeasurementEnd,
  loopOvercurrent. (R300, R302, R303, R304, R308, R309, R312, R320, R321, R322). -/
def Obligations.FieldMeasurements : Prop :=
  (∀ (s : State) (k p : Nat) (j : FieldJob) (l : FieldLatch), Live s → Canon s → s.dev.u.aff.convs.length = 8 → k < 8 → (s.conv k).job = some j → j.kind = 0 → j.latch = some l → j.p1 = some p → j.reversed = none → j.since + 50000 + (l.settle + 1) * 500000 + p * 1000 ≤ s.dev.u.elapsed →
    Does (.fieldPolarityReverse k) s fun t => ((t.conv k).job.map fun x => (x.reversed, x.input, x.since, x.p1)) = some (some s.dev.u.elapsed, j.input, j.since, some p) ∧ (p ≠ 0 → 100000000 % p = 0 → 100000000 / p < 65536 → t.fld F.AFF_NOTCHF_F = 100000000 / p) ∧ OnlyRegs [R.AFF_NOTCHF] s t) ∧
  (∀ (s : State) (k i p1 p2 rv q lead amp : Nat) (m : FieldMeas) (j : FieldJob) (l : FieldLatch), Live s → Canon s → s.dev.u.aff.convs.length = 8 → k < 8 → i < 192 → (s.conv k).job = some j → j.kind = 0 → j.input = i → j.latch = some l → j.p1 = some p1 → j.reversed = some rv → j.p2 = some p2 → p2 ≠ 0 → rv + (l.settle + 1) * 500000 + p2 * 1000 ≤ s.dev.u.elapsed → l.wire ≠ 2 → l.lin = false → l.lead = lead → s.fld (F.AFF_ICFG_EN i) = 1 → 0 < m.cur → j.void = false → amp = [10000, 50000, 200000, 1000000].getD l.exc 10000 * m.cur → m.force < 3000000000 → m.pos ≤ 2500000000 → -2500000000 ≤ m.pos → m.neg ≤ 2500000000 → -2500000000 ≤ m.neg → (m.pos - m.neg) * 1000000000 = ((q * 100 + lead : Nat) : Int) * (2 * amp) → l.shortR * 100 ≤ q * 100 + lead → m.leak * 1000000000 ≤ l.leakThr * amp → q ≤ 0xFFFE → l.exc < 4 →
    Does (.fieldMeasurementEnd k m) s fun t => t.fld (F.AFF_IRES_FAULT i) = 0 ∧ t.fld (F.AFF_IRES_RES i) = q ∧ (t.reg (R.AFF_IRAW i)).toNat = q * 100 ∧ t.fld (F.AFF_IRES_SEQ i) = (s.fld (F.AFF_IRES_SEQ i) + 1) % 16 ∧ t.fld (F.AFF_IRES_SINE i) = 0 ∧ t.fld (F.AFF_IRES_LEADX i) = 0 ∧ bitAt (t.reg (R.AFF_FLTMAP (i / 32))).toNat (i % 32) = false) ∧
  (∀ (s : State) (k i p1 p2 rv : Nat) (m : FieldMeas) (j : FieldJob) (l : FieldLatch), Live s → Canon s → s.dev.u.aff.convs.length = 8 → k < 8 → i < 192 → (s.conv k).job = some j → j.kind = 0 → j.input = i → j.latch = some l → j.p1 = some p1 → j.reversed = some rv → j.p2 = some p2 → p2 ≠ 0 → rv + (l.settle + 1) * 500000 + p2 * 1000 ≤ s.dev.u.elapsed → s.fld (F.AFF_ICFG_EN i) = 1 → 0 < m.cur → j.void = false → 3000000000 ≤ m.force →
    Does (.fieldMeasurementEnd k m) s fun t => t.fld (F.AFF_IRES_FAULT i) = 1 ∧ t.fld (F.AFF_IRES_RES i) = noValue (resSigned i l.lin l.table) ∧ t.reg (R.AFF_IRAW i) = 0xFFFFFFFF ∧ t.fld (F.AFF_IRES_SEQ i) = (s.fld (F.AFF_IRES_SEQ i) + 1) % 16 ∧ t.fld F.AFF_STAT_FAULT = 1 ∧ bitAt (t.reg (R.AFF_FLTMAP (i / 32))).toNat (i % 32) = true) ∧
  (∀ (s : State) (k i p : Nat) (q : Int) (m : FieldMeas) (j : FieldJob) (l : FieldLatch), Live s → Canon s → s.dev.u.aff.convs.length = 8 → k < 8 → 216 ≤ i → i < 224 → (s.conv k).job = some j → j.kind = 5 → j.input = i → j.latch = some l → j.p1 = some p → p ≠ 0 → j.p2 = none → j.since + 50000 + (l.settle + 1) * 500000 + p * 1000 ≤ s.dev.u.elapsed → l.lin = false → s.fld (F.AFF_ICFG_EN i) = 1 → j.void = false → m.fullScale = false → m.pos = q * 1000 → -10500 ≤ q → q ≤ 10500 →
    Does (.fieldMeasurementEnd k m) s fun t => t.fld (F.AFF_IRES_FAULT i) = 0 ∧ t.fld (F.AFF_IRES_RES i) = ofSigned 16 q ∧ (t.reg (R.AFF_IRAW i)).toNat = ofSigned 32 (q * 1000) ∧ t.fld (F.AFF_IRES_SEQ i) = (s.fld (F.AFF_IRES_SEQ i) + 1) % 16) ∧
  (∀ (s : State) (i : Nat), Live s → Canon s → 192 ≤ i → i < 216 → s.powered (32 + groupOf i) → s.fld (F.AFF_IRES_FAULT i) ≠ 0xA → s.fld (F.AFF_ILIN_LEN i) = 0 →
    Does (.loopOvercurrent i) s fun t => t.fld (F.AFF_IRES_FAULT i) = 7 ∧ t.fld (F.AFF_IRES_RES i) = 0xFFFF ∧ i ∈ t.dev.u.aff.shuntOpen ∧ t.fld F.AFF_STAT_FAULT = 1 ∧ bitAt (t.reg (R.AFF_FLTMAP (i / 32))).toNat (i % 32) = true)

/-- Scan cycles, sine passes and recovery of the field inputs. With RUN = 1 and no cycle in progress, a cycle starts, the
  first at once and a later one when AFF_SCANPER has passed since the last start, and not before; a measurable input is
  measured; RUN written 0 lets the cycle finish; SINESWEEP in SERVICE asks for one sine pass; an input whose recovery interval
  has passed takes its next turn as a recovery. Completion (a next state with its own effect, for every state and operands
  that meet the conditions) is stated of: scanCycleStart, sinePassRequest, affRunClear, recoveryDue. (R310, R311, R315, R319). -/
def Obligations.FieldScans : Prop :=
  (∀ (s : State), Live s → Canon s → s.dev.u.aff.convs.length = 8 → s.dev.u.aff.cycle = none → s.dev.u.aff.lastStart = none → s.fld F.AFF_CTL_RUN = 1 → 2 ≤ s.base → s.fld (F.AFF_ICFG_EN 216) = 1 → s.powered 54 → ((s.dev.u.pwr.domAt.find? fun x => x.1 = 54).map (·.2)).getD 0 + 10000000 ≤ s.dev.u.elapsed →
    Does .scanCycleStart s fun t => t.dev.u.aff.cycle = some s.dev.u.elapsed ∧ t.dev.u.aff.lastStart = some s.dev.u.elapsed ∧ t.dev.u.aff.sine = s.dev.u.aff.sineReq ∧ t.dev.u.aff.sineReq = false ∧ ((t.conv 0).job.map (·.since)) = some s.dev.u.elapsed) ∧
  (∀ (s : State) (src : Src), Live s → Canon s → s.mode = 6 → s.dev.u.aff.sine = false →
    Does (.sinePassRequest src 0x40004000) s fun t => t.dev.u.aff.sineReq = true ∧ t.dev.u.aff.cycle = s.dev.u.aff.cycle ∧ t.fld F.AFF_CTL_RUN = s.fld F.AFF_CTL_RUN ∧ OnlyRegs [R.AFF_CTL] s t) ∧
  (∀ (s : State) (src : Src), Live s → Canon s →
    Does (.affRunClear src 0x80000000) s fun t => t.fld F.AFF_CTL_RUN = 0 ∧ t.fld F.AFF_CTL_RECOV = s.fld F.AFF_CTL_RECOV ∧ t.dev.u.aff.cycle = s.dev.u.aff.cycle ∧ OnlyRegs [R.AFF_CTL] s t) ∧
  (∀ (s : State) (i : Nat), Live s → Canon s → (∀ x ∈ s.dev.u.aff.recov, x.input = i → (x.since.getD 0) + max 1 (s.fld F.AFF_RETRY_T) * 1000000000 ≤ s.dev.u.elapsed) →
    Does (.recoveryDue i) s fun t => (∀ x ∈ t.dev.u.aff.recov, x.input = i → x.due = true) ∧ t.dev.u.aff.recov.map (·.input) = s.dev.u.aff.recov.map (·.input) ∧ OnlyRegs [] s t) ∧
  (∀ (s : State) (k : Nat), Live s → Canon s → s.dev.u.aff.convs.length = 8 → s.dev.u.aff.cycle = none → s.dev.u.aff.lastStart = some k → s.fld F.AFF_CTL_RUN = 1 → 2 ≤ s.base → s.fld (F.AFF_ICFG_EN 216) = 1 → s.powered 54 → ((s.dev.u.pwr.domAt.find? fun x => x.1 = 54).map (·.2)).getD 0 + 10000000 ≤ s.dev.u.elapsed → k + s.fld F.AFF_SCANPER_PER * 100000000 ≤ s.dev.u.elapsed →
    Does .scanCycleStart s fun t => t.dev.u.aff.cycle = some s.dev.u.elapsed ∧ t.dev.u.aff.lastStart = some s.dev.u.elapsed ∧ t.dev.u.aff.sine = s.dev.u.aff.sineReq ∧ t.dev.u.aff.sineReq = false ∧ ((t.conv 0).job.map (·.since)) = some s.dev.u.elapsed) ∧
  (∀ (s : State) (k : Nat), Live s → s.fld F.AFF_CTL_RUN = 1 → s.dev.u.aff.lastStart = some k → s.dev.u.elapsed < k + s.fld F.AFF_SCANPER_PER * 100000000 →
    Does .scanCycleStart s fun t => t = s)

/-- Mode requests are accepted, refused and carried out. A write of GO with a target that R332 permits from the mode in force
  shows TARGET and BUSY, counts in RNG_TSEQ on a module without a ring (assumption log 100) and waits for RT1; SERVICE from
  IDLE is refused where no control session asks; one that R332 denies sets REFUSED with code 1 and TARGET, and the mode
  stands; a request for HOLD asserts its cause. MODE_TRANSITION enters the mode: CUR, TARGET, BUSY = 0, SAFE_STATE.MODE,
  MODECNT. Entries to IDLE, BATCH, FLOW, CALIBRATE, STORE and SERVICE and the release from HOLD are each stated, with the
  power domains that the mode switches on and off (R340); FLOW asks for its conditions, CALIBRATE starts the sequence, with
  the sweep 2 ms after its banks are powered, and restores the Ledger only from the start-up: by command it restores none,
  also where none was restored since the cold reset (DESIGN CHOICE, assumption log 104). What is asked while RT1 is down waits
  for it (DEDUCED, assumption log 72). What TARGET shows after a refusal is the model's choice (assumption log 62). Completion
  (a next state with its own effect, for every state and operands that meet the conditions) is stated of: modeRequest,
  modeTransition. (R29, R330, R331, R332, R334, R339, R340, R346, R349, R353, R468). -/
def Obligations.ModeRequests : Prop :=
  (∀ (s : State) (src : Src) (m : Nat), Live s → Canon s → ModeFree s → ((s.mode ∈ [3, 4, 5, 6] ∧ m = 2) ∨ (s.mode = 2 ∧ m ∈ [1, 5, 6]) ∨ (s.mode = 6 ∧ m = 1)) → (s.mode = 2 → m = 6 → ∃ i ∈ List.range 4, src = .host i ∧ (s.sess i).st = .opened ∧ (s.sess i).observer = false) → CoreUp s 5 →
    Does (.modeRequest src (BitVec.ofNat 32 (0x800F8000 + m))) s fun t => t.fld F.SYS_MODE_TARGET = m ∧ t.fld F.SYS_MODE_BUSY = 1 ∧ t.mode = s.mode ∧ t.dev.u.sys.job = some ⟨m, false, none, 1⟩ ∧ t.fld F.RNG_TSEQ_TSEQ = (s.fld F.RNG_TSEQ_TSEQ + 1) % 2 ^ 16 ∧ OnlyRegs [R.SYS_MODEREQ, R.SYS_MODE, R.RNG_TSEQ] s t) ∧
  (∀ (s : State) (src : Src) (m : Nat), Live s → Canon s → ModeFree s → ((s.mode ∈ [3, 4, 5] ∧ m ∈ [0, 1, 3, 4, 5, 6]) ∨ (s.mode = 0 ∧ m ∈ [1, 2, 3])) → CoreUp s 5 →
    Does (.modeRequest src (BitVec.ofNat 32 (0x800F8000 + m))) s fun t => t.fld F.SYS_MODESTAT_REFUSED = 1 ∧ t.fld F.SYS_REFUSE_CODE = 1 ∧ t.fld F.SYS_MODE_TARGET = m ∧ t.fld F.SYS_MODE_BUSY = 0 ∧ t.mode = s.mode ∧ t.dev.u = s.dev.u ∧ OnlyRegs [R.SYS_MODEREQ, R.SYS_MODE, R.SYS_MODESTAT, R.SYS_REFUSE] s t) ∧
  (∀ (s : State) (src : Src), Live s → Canon s → s.dev.u.rng.ring = false → s.mode ≠ 7 → CoreUp s 5 →
    Does (.modeRequest src 0x800F8007) s fun t => 0 ∈ t.dev.u.sys.causes ∧ t.mode = s.mode ∧ t.dev.u.sys.job = s.dev.u.sys.job ∧ OnlyRegs [R.SYS_MODEREQ] s t) ∧
  (∀ (s : State) (src : Src), Live s → Canon s → ModeFree s → s.mode = 2 → (src = .core ∨ src = .service ∨ src = .engine ∨ src = .supervisor) → CoreUp s 5 →
    Does (.modeRequest src 0x800F8006) s fun t => t.fld F.SYS_MODESTAT_REFUSED = 1 ∧ t.fld F.SYS_REFUSE_CODE = 1 ∧ t.fld F.SYS_MODE_BUSY = 0 ∧ t.mode = 2 ∧ t.dev.u = s.dev.u) ∧
  (∀ (s : State) (j : ModeJob), Live s → Canon s → CoreUp s 5 → s.dev.u.sys.job = some j → j.target = 2 → s.mode ∈ [3, 4, 5, 6] →
    Does .modeTransition s fun t => t.mode = 2 ∧ t.fld F.SYS_MODE_TARGET = 2 ∧ t.fld F.SYS_MODE_BUSY = 0 ∧ t.fld F.SAFE_STATE_MODE = 2 ∧ t.dev.u.sys.job = none ∧ t.fld F.SYS_MODECNT_CNT = min (s.fld F.SYS_MODECNT_CNT + 1) 0xFFFFFFFF ∧ t.fld F.TOMO_CTL_RUN = s.fld F.TOMO_CTL_RUN) ∧
  (∀ (s : State) (j : ModeJob) (m : Nat), Live s → Canon s → NoLoss s → CoreUp s 5 → s.dev.u.sys.job = some j → j.target = m → ((s.mode = 2 ∧ m ∈ [3, 5, 6]) ∨ (s.mode ∈ [3, 4, 5, 6] ∧ m = 2)) → (m = 3 → s.fld F.ENC_MSTAT_FREERUN = 0) →
    Does .modeTransition s fun t => t.mode = m ∧ t.fld F.SYS_MODE_TARGET = m ∧ t.fld F.SYS_MODE_BUSY = 0 ∧ t.fld F.SAFE_STATE_MODE = m ∧ t.dev.u.sys.job = none ∧ t.fld F.SYS_MODECNT_CNT = min (s.fld F.SYS_MODECNT_CNT + 1) 0xFFFFFFFF ∧ ModePowered s t m) ∧
  (∀ (s : State) (j : ModeJob) (m n : Nat), Live s → Canon s → NoLoss s → CoreUp s 5 → s.dev.u.sys.job = some j → j.target = m → s.mode = 2 → m = 4 → planValid s.planFreq s.planAmp = true → s.fld F.TOMO_STAT_GEOMOK = 1 → s.fld F.REC_STAT_REFOK = 1 → s.fld F.REC_STAT_MATOK = 1 → s.fld F.SYS_FLOWCHK_CLUSTER = 0 → s.fld F.THM_STAT_LEVEL ≠ 3 → n < 16 → s.factor n ≠ 0 → s.fld (F.PCL_LLEN_LLEN n) ≠ 0 →
    Does .modeTransition s fun t => t.mode = m ∧ t.fld F.SYS_MODE_TARGET = m ∧ t.fld F.SYS_MODE_BUSY = 0 ∧ t.fld F.SAFE_STATE_MODE = m ∧ t.dev.u.sys.job = none ∧ t.fld F.SYS_MODECNT_CNT = min (s.fld F.SYS_MODECNT_CNT + 1) 0xFFFFFFFF ∧ ModePowered s t m ∧ t.dev.u.sys.flowSince = s.dev.u.elapsed) ∧
  (∀ (s : State) (j : ModeJob) (m : Nat), Live s → Canon s → NoLoss s → CoreUp s 5 → s.dev.u.sys.job = some j → j.target = m → m = 1 → s.mode ∈ [0, 2, 6] → s.dev.u.nv.saved.affRegs = [] →
    Does .modeTransition s fun t => t.mode = m ∧ t.fld F.SYS_MODE_TARGET = m ∧ t.fld F.SYS_MODE_BUSY = 0 ∧ t.fld F.SAFE_STATE_MODE = m ∧ t.dev.u.sys.job = none ∧ t.fld F.SYS_MODECNT_CNT = min (s.fld F.SYS_MODECNT_CNT + 1) 0xFFFFFFFF ∧ ModePowered s t m ∧ t.dev.u.sys.cal.isSome = true ∧ t.dev.u.sys.coldStart = false ∧ (t.dev.u.tomo.sweep.map (·.since)) = some (s.dev.u.elapsed + 2000000) ∧ (s.mode ≠ 0 → t.dev.u.pcl.parcels = s.dev.u.pcl.parcels)) ∧
  (∀ (s : State) (j : ModeJob) (m : Nat), Live s → Canon s → NoLoss s → CoreUp s 5 → s.dev.u.sys.job = some j → j.target = m → s.mode = 7 → (m = 2 ∨ m = 6 ∨ (m = s.fld F.SYS_MODE_HFROM ∧ m ∈ [3, 5])) → (m = 3 → s.fld F.ENC_MSTAT_FREERUN = 0) → s.fld F.THM_STAT_LEVEL ≠ 3 → s.dev.u.rng.holds = false → s.fld F.SAFE_STATE_SUPER = 0 →
    Does .modeTransition s fun t => t.mode = m ∧ t.fld F.SYS_MODE_TARGET = m ∧ t.fld F.SYS_MODE_BUSY = 0 ∧ t.fld F.SAFE_STATE_MODE = m ∧ t.dev.u.sys.job = none ∧ t.fld F.SYS_MODECNT_CNT = min (s.fld F.SYS_MODECNT_CNT + 1) 0xFFFFFFFF ∧ ModePowered s t m) ∧
  (∀ (s : State) (src : Src) (m : Nat), Live s → Canon s → m < 8 → ¬ CoreUp s 5 →
    Does (.modeRequest src (BitVec.ofNat 32 (0x800F8000 + m))) s fun t => (t.dev.u.sys.asks.map fun a => (a.target, a.serves)) = (s.dev.u.sys.asks.map fun a => (a.target, a.serves)) ++ [(m, none)] ∧ t.mode = s.mode ∧ t.dev.u.sys.job = s.dev.u.sys.job ∧ t.dev.u.sys.causes = s.dev.u.sys.causes ∧ OnlyRegs [R.SYS_MODEREQ] s t)

/-- HOLD entry and the end of the calibration sequence. A cause that reaches RT1 enters HOLD from the mode in force, with
  HFROM, the cause, HOLDIN and the count; in HOLD a further cause only adds its bit. The calibration sequence ends when sweep,
  sine pass and matrix copy are over, or 30 s after entry with TIMEOUT: CALSTAT, CALTIME and CALDONE, and without STAY the
  module goes to IDLE. The rounding of SYS_CALTIME is the model's choice (assumption log 62). SYS_CALSTAT.SINE shows a pass
  that was cut, whatever the host has read of AFF_STAT. Completion (a next state with its own effect, for every state and
  operands that meet the conditions) is stated of: holdEntry, calibrationEnd, calibrationTimeout. (R335, R337, R346, R347,
  R348). -/
def Obligations.HoldAndCalibration : Prop :=
  (∀ (s : State) (c : Nat), Live s → Canon s → CoreUp s 5 → c < 9 → c ∈ s.dev.u.sys.causes → s.mode ≠ 7 → s.dev.u.sys.job = none → bitAt s.dev.u.rng.orders 1 = false →
    Does (.holdEntry c) s fun t => t.mode = 7 ∧ t.fld F.SYS_MODE_HFROM = s.mode ∧ t.fld F.SYS_HOLDCAUSE_CAUSE = 2 ^ c ∧ t.fld F.SYS_MODESTAT_HOLDIN = 1 ∧ t.fld F.SAFE_STATE_MODE = 7 ∧ t.fld F.SYS_HOLDCNT_CNT = min (s.fld F.SYS_HOLDCNT_CNT + 1) 0xFFFFFFFF ∧ c ∉ t.dev.u.sys.causes) ∧
  (∀ (s : State) (c : Nat), Live s → Canon s → CoreUp s 5 → c < 9 → c ∈ s.dev.u.sys.causes → s.mode = 7 → s.dev.u.sys.job = none → bitAt s.dev.u.rng.orders 1 = false → s.dev.u.sys.holdServes = [] →
    Does (.holdEntry c) s fun t => t.mode = 7 ∧ t.fld F.SYS_HOLDCAUSE_CAUSE = (s.fld F.SYS_HOLDCAUSE_CAUSE ||| 2 ^ c) ∧ t.fld F.SYS_MODE_HFROM = s.fld F.SYS_MODE_HFROM ∧ OnlyRegs [R.SYS_HOLDCAUSE] s t) ∧
  (∀ (s : State) (j : CalJob), Live s → Canon s → s.mode = 1 → s.dev.u.sys.cal = some j → s.dev.u.aff.sine = false → s.dev.u.aff.sineReq = false → j.sweep = false → j.matrix = false → j.stat < 0x400 → s.fld F.SYS_CALCTL_STAY = 1 →
    Does .calibrationEnd s fun t => t.mode = 1 ∧ (t.reg R.SYS_CALSTAT).toNat = (j.stat ||| 128 * bit s.dev.u.aff.sineShort) ∧ t.fld F.SYS_CALTIME_T = min 0xFFFF (quot ((s.dev.u.elapsed - j.since : Nat) : Int) 1000000).toNat ∧ t.fld F.SYS_MODESTAT_CALDONE = 1 ∧ t.dev.u.sys.cal = none ∧ t.dev.u.sys.calEnded = true) ∧
  (∀ (s : State) (j : CalJob), Live s → Canon s → s.mode = 1 → s.dev.u.sys.cal = some j → s.dev.u.aff.sine = false → s.dev.u.aff.sineReq = false → j.sweep = false → j.matrix = false → j.stat < 0x400 → s.fld F.SYS_CALCTL_STAY = 0 → s.dev.u.rng.joined = false →
    Does .calibrationEnd s fun t => t.mode = 2 ∧ t.fld F.SYS_MODE_TARGET = 2 ∧ t.fld F.SYS_MODE_BUSY = 0 ∧ (t.reg R.SYS_CALSTAT).toNat = (j.stat ||| 128 * bit s.dev.u.aff.sineShort) ∧ t.fld F.SYS_MODESTAT_CALDONE = 1 ∧ t.dev.u.sys.cal = none) ∧
  (∀ (s : State) (j : CalJob), Live s → Canon s → s.mode = 1 → s.dev.u.sys.cal = some j → s.dev.u.aff.sine = false → s.dev.u.aff.sineReq = false → j.sweep = true → j.matrix = false → j.stat < 0x400 → s.fld F.SYS_CALCTL_STAY = 1 → j.since + 30000000000 ≤ s.dev.u.elapsed →
    Does .calibrationTimeout s fun t => t.mode = 1 ∧ t.fld F.SYS_CALSTAT_TIMEOUT = 1 ∧ t.fld F.SYS_CALSTAT_SWEEP = 1 ∧ t.dev.u.tomo.sweep = none ∧ t.fld F.SYS_MODESTAT_CALDONE = 1 ∧ t.dev.u.sys.cal = none ∧ t.dev.u.sys.calEnded = true)

/-- Thermal demands, conversions and enforced reductions. A demand starts a conversion or joins the one that runs, where it
  counts for itself, and waits while RT1 is down, counted (assumption log 72); the watchdog and each throttle event demand one
  when they are due. A conversion's end writes every enabled sensor's reading, 0x8000 with SENSF for one whose voltage or
  resistance R656 calls open or short, counts it and shows DONE; a die at 125 °C sets CRIT and level 3, which asserts its HOLD
  cause. After the grace time a reduction that the host has not met is enforced. Completion (a next state with its own effect,
  for every state and operands that meet the conditions) is stated of: thermalDemand, thermalWatchdogDemand,
  throttleEventDemand, conversionEnd, graceExpiry. (R578, R579, R580, R581, R583, R586, R587, R598, R656). -/
def Obligations.ThermalDemands : Prop :=
  (∀ (s : State) (src : Src), Live s → Canon s → CoreUp s 5 →
    Does (.thermalDemand src 0x80008000) s fun t => t.dev.u.thm.conv = some (s.dev.u.thm.conv.getD s.dev.u.elapsed) ∧ t.dev.u.thm.joined = (if s.dev.u.thm.conv.isSome then s.dev.u.thm.joined + 1 else 0) ∧ t.dev.u.thm.lastDemand = s.dev.u.elapsed ∧ OnlyRegs [R.THM_CTL] s t) ∧
  (∀ (s : State) (src : Src), Live s → Canon s → ¬ CoreUp s 5 →
    Does (.thermalDemand src 0x80008000) s fun t => t.dev.u.thm = { s.dev.u.thm with owed := s.dev.u.thm.owed + 1 } ∧ OnlyRegs [R.THM_CTL] s t) ∧
  (∀ (s : State), Live s → Canon s → CoreUp s 5 → s.dev.u.thm.lastDemand + max 1 (s.fld F.THM_WDPER_PER) * 100000000 ≤ s.dev.u.elapsed →
    Does .thermalWatchdogDemand s fun t => t.dev.u.thm.conv = some (s.dev.u.thm.conv.getD s.dev.u.elapsed) ∧ t.dev.u.thm.lastDemand = s.dev.u.elapsed ∧ OnlyRegs [] s t) ∧
  (∀ (s : State) (d : Nat) (l : List Nat), Live s → Canon s → CoreUp s 5 → s.dev.u.thm.eventDue = d :: l → d ≤ s.dev.u.elapsed →
    Does .throttleEventDemand s fun t => t.dev.u.thm.eventDue = l ∧ t.dev.u.thm.conv = some (s.dev.u.thm.conv.getD s.dev.u.elapsed) ∧ t.dev.u.thm.joined = (if s.dev.u.thm.conv.isSome then s.dev.u.thm.joined + 1 else 0) ∧ OnlyRegs [] s t) ∧
  (∀ (s : State) (temps : List TempSense) (x : TempSense) (k : Nat) (good : Bool), Live s → Canon s → s.dev.u.thm.conv.isSome = true → k < 16 → temps[k]? = some x → -32767 ≤ x.reading → x.reading ≤ 32767 → good = decide (k < 8 ∨ (k < 12 ∧ 200000 ≤ x.level ∧ x.level ≤ 900000) ∨ (12 ≤ k ∧ 50000 ≤ x.level ∧ x.level ≤ 2000000000)) →
    Does (.conversionEnd temps) s fun t => t.fld (F.THM_TEMP_T k) = (if bitAt (s.fld F.THM_SENSEN_EN) k && good then ofSigned 16 x.reading else 0x8000) ∧ (bitAt (s.fld F.THM_SENSEN_EN) k = true → good = false → t.fld F.THM_STAT_SENSF = 1) ∧ t.dev.u.thm.conv = none ∧ t.fld F.THM_DEMCNT_CNT = (s.fld F.THM_DEMCNT_CNT + 1) % 2 ^ 32 ∧ t.fld F.THM_STAT_DONE = 1) ∧
  (∀ (s : State) (temps : List TempSense) (x : TempSense) (k : Nat), Live s → Canon s → s.dev.u.thm.conv.isSome = true → k < 8 → bitAt (s.fld F.THM_SENSEN_EN) k = true → temps[k]? = some x → 12500 ≤ x.reading → s.fld F.THM_STAT_LEVEL ≠ 3 →
    Does (.conversionEnd temps) s fun t => t.fld F.THM_STAT_CRIT = 1 ∧ t.fld F.THM_STAT_LEVEL = 3 ∧ t.fld F.SAFE_STATE_THR = 3 ∧ 3 ∈ t.dev.u.sys.causes ∧ t.fld F.THM_STAT_RISE = 1) ∧
  (∀ (s : State) (a : ThmAsk), Live s → Canon s → s.dev.u.thm.ask = some a → a.kind = 2 → a.since + s.fld F.THM_GRACE_T * 1000000000 ≤ s.dev.u.elapsed → a.value < s.fld F.REC_CTL_NITER →
    Does .graceExpiry s fun t => { level := a.level, kind := 2, value := a.value } ∈ t.dev.u.thm.enforced ∧ t.dev.u.thm.ask = none ∧ t.fld F.REC_NITEREFF_THMCAP = a.value ∧ t.fld F.THM_STAT_ENFORCED = 1 ∧ t.fld F.THM_STAT_ASKED = 0) ∧
  (∀ (s : State) (temps : List TempSense) (a : ThmAsk) (v : Nat), Live s → Canon s → s.dev.u.thm.conv.isSome = true → s.dev.u.thm.ask = some a → (a.level = 1 ∨ a.level = 2) → s.fld F.THM_SENSEN_EN = 0 → s.fld F.THM_STAT_LEVEL = a.level → s.dev.u.thm.falls + s.dev.u.thm.joined < 2 → s.fld (F.THM_RED_KIND (a.level - 1)) = 2 → s.fld (F.THM_RED_VALUE (a.level - 1)) = v → v < s.fld F.REC_CTL_NITER →
    Does (.conversionEnd temps) s fun t => t.dev.u.thm.ask = some { a with kind := 2, value := v } ∧ t.fld F.THM_STAT_LEVEL = a.level)

/-- How a command packet is taken or turned away. A command whose credit, tag or class D place is taken is answered BUSY and
  takes no tag; one of an unknown opcode, of the wrong class or length, or that its session may not send completes at once
  with the status of R384; a retry of a completed command has its completion sent again; a packet of an unknown session or
  with an old sequence number is discarded and counted. What a class whose core is down does is the model's choice (assumption
  log 69). Completion (a next state with its own effect, for every state and operands that meet the conditions) is stated of:
  badOpcodeCommand. (R360, R361, R362, R379, R380, R381, R382, R383, R384). -/
def Obligations.CommandTaking : Prop :=
  (∀ (s : State) (c : Instr) (i op : Nat) (h : Hdr) (p : List Byte), packetOf c = some (op, h, p) → Live s → Canon s → HostLinkUp s → Named s i h → TagFree s i h → HostBufs s p.length (match opInfo op with | none => 0 | some f => f.reply) → (s.sess i).grant ≤ (s.sess i).tags.length →
    Does c s fun t => PacketCounted s t i h ∧ Sent s t op h 2 St.busyCredit [] ∧ (t.sess i).tags = (s.sess i).tags ∧ (t.sess i).held = (s.sess i).held ∧ t.fld F.CMD_BUSYCNT_CNT = min (s.fld F.CMD_BUSYCNT_CNT + 1) 0xFFFFFFFF ∧ t.fld F.CMD_STAT_BUSYSENT = 1 ∧ TellsOnly s t) ∧
  (∀ (s : State) (c : Instr) (i op : Nat) (h : Hdr) (p : List Byte) (x : OutTag), packetOf c = some (op, h, p) → Live s → Canon s → HostLinkUp s → Named s i h → HostBufs s p.length (match opInfo op with | none => 0 | some f => f.reply) → tagIn (s.sess i) (tagWord h) = some x → h.retry = false →
    Does c s fun t => PacketCounted s t i h ∧ Sent s t op h 2 St.busyTag [] ∧ (t.sess i).tags = (s.sess i).tags ∧ (t.sess i).held = (s.sess i).held ∧ t.fld F.CMD_BUSYCNT_CNT = min (s.fld F.CMD_BUSYCNT_CNT + 1) 0xFFFFFFFF ∧ t.fld F.CMD_STAT_BUSYSENT = 1 ∧ TellsOnly s t) ∧
  (∀ (s : State) (c : Instr) (i op : Nat) (h : Hdr) (p : List Byte) (x : OutTag), packetOf c = some (op, h, p) → Live s → Canon s → HostLinkUp s → Named s i h → TagFree s i h → HostBufs s p.length (match opInfo op with | none => 0 | some f => f.reply) → (s.sess i).tags.length < (s.sess i).grant → op ∈ [0x0401, 0x0404, 0x0501, 0x0505, 0x1001] → x ∈ (s.sess i).tags → x.opcode ∈ [0x0401, 0x0404, 0x0501, 0x0505, 0x1001] → x.done = false →
    Does c s fun t => PacketCounted s t i h ∧ Sent s t op h 2 St.busyBulk [] ∧ (t.sess i).tags = (s.sess i).tags ∧ (t.sess i).held = (s.sess i).held ∧ t.fld F.CMD_BUSYCNT_CNT = min (s.fld F.CMD_BUSYCNT_CNT + 1) 0xFFFFFFFF ∧ t.fld F.CMD_STAT_BUSYSENT = 1 ∧ TellsOnly s t) ∧
  (∀ (s : State) (c : Instr) (i op : Nat) (h : Hdr) (p : List Byte) (x : Held), packetOf c = some (op, h, p) → Live s → Canon s → HostLinkUp s → Named s i h → HostBufs s p.length (match opInfo op with | none => 0 | some f => f.reply) → tagIn (s.sess i) (tagWord h) = none → (s.sess i).held.find? (fun x => x.tag == tagOf (tagWord h)) = some x → h.retry = true → x.pkt.tagw = tagWord h → x.pkt.opcode = op →
    Does c s fun t => PacketCounted s t i h ∧ Sent s t op h 3 x.pkt.status x.pkt.payload ∧ (t.sess i).held = (s.sess i).held ∧ (t.sess i).tags = (s.sess i).tags ∧ TellsOnly s t) ∧
  (∀ (s : State) (c : Instr) (i op : Nat) (h : Hdr) (p : List Byte) (f : OpInfo), packetOf c = some (op, h, p) → Heard s i op h p → opInfo op = some f → classOf h.tagw ≠ f.cls →
    Does c s fun t => Answered s t i op h St.badClass [] ∧ TellsOnly s t) ∧
  (∀ (s : State) (c : Instr) (i op : Nat) (h : Hdr) (p : List Byte) (f : OpInfo), packetOf c = some (op, h, p) → Heard s i op h p → opInfo op = some f → classOf h.tagw = f.cls → lengthOk op p = false →
    Does c s fun t => Answered s t i op h St.badLength [] ∧ TellsOnly s t) ∧
  (∀ (s : State) (c : Instr) (i op : Nat) (h : Hdr) (p : List Byte) (f : OpInfo), packetOf c = some (op, h, p) → Heard s i op h p → opInfo op = some f → classOf h.tagw = f.cls → lengthOk op p = true → (s.sess i).observer = true → f.obs = .no →
    Does c s fun t => Answered s t i op h St.denied [] ∧ TellsOnly s t) ∧
  (∀ (s : State) (i : Nat) (h : Hdr) (p : List Byte) (op : Nat), Heard s i op h p → opInfo op = none →
    Does (.badOpcodeCommand h op p) s fun t => Answered s t i op h St.badOpcode [] ∧ TellsOnly s t) ∧
  (∀ (s : State) (c : Instr) (i op : Nat) (h : Hdr) (p : List Byte), packetOf c = some (op, h, p) → Heard s i op h p → ¬ CoreUp s (coreOf (op / 256)) → preCheck (s.sess i) (tagWord h) op p = none →
    Does c s fun t => PacketCounted s t i h ∧ Sent s t op h 2 St.ok [] ∧ (t.sess i).tags.length = (s.sess i).tags.length + 1 ∧ (t.sess i).tags.getLast?.map (fun x => (tagOf x.tagw, x.opcode, x.acked, x.started, x.body, x.recvAt)) = some (tagOf h.tagw, op, true, false, p, s.dev.u.elapsed) ∧ TellsOnly s t) ∧
  (∀ (s : State) (c : Instr) (i op : Nat) (h : Hdr) (p : List Byte), packetOf c = some (op, h, p) → Live s → Canon s → HostLinkUp s → HostBufs s p.length (match opInfo op with | none => 0 | some f => f.reply) → h.session ≠ 0 → findSess s.dev.u.cmd.sessions h.session = none →
    Does c s fun t => t.fld F.CMD_DROPCNT_CNT = min (s.fld F.CMD_DROPCNT_CNT + 1) 0xFFFFFFFF ∧ t.fld F.CMD_STAT_DROP = 1 ∧ t.dev.u.cmd = s.dev.u.cmd ∧ TellsOnly s t) ∧
  (∀ (s : State) (c : Instr) (i op : Nat) (h : Hdr) (p : List Byte), packetOf c = some (op, h, p) → Live s → Canon s → HostLinkUp s → HostBufs s p.length (match opInfo op with | none => 0 | some f => f.reply) → h.session ≠ 0 → findSess s.dev.u.cmd.sessions h.session = some i → (s.sess i).st = .opened → (s.sess i).ip = h.ip → (s.sess i).port = h.port → laterThan h.seq (s.sess i).h = false →
    Does c s fun t => t.fld F.CMD_SEQCNT_CNT = min (s.fld F.CMD_SEQCNT_CNT + 1) 0xFFFFFFFF ∧ t.fld F.CMD_STAT_SEQX = 1 ∧ t.fld F.CMD_DROPCNT_CNT = min (s.fld F.CMD_DROPCNT_CNT + 1) 0xFFFFFFFF ∧ t.fld F.CMD_STAT_DROP = 1 ∧ t.dev.u.cmd = s.dev.u.cmd ∧ TellsOnly s t) ∧
  (∀ (s : State) (c : Instr) (i op : Nat) (h : Hdr) (p : List Byte), packetOf c = some (op, h, p) → Live s → Canon s → HostLinkUp s → HostBufs s p.length (match opInfo op with | none => 0 | some f => f.reply) → h.session ≠ 0 → findSess s.dev.u.cmd.sessions h.session = some i → (s.sess i).st ≠ .free → ((s.sess i).ip ≠ h.ip ∨ (s.sess i).port ≠ h.port) →
    Does c s fun t => t.fld F.CMD_STAT_SRCX = 1 ∧ t.fld F.CMD_DROPCNT_CNT = min (s.fld F.CMD_DROPCNT_CNT + 1) 0xFFFFFFFF ∧ t.fld F.CMD_STAT_DROP = 1 ∧ t.dev.u.cmd = s.dev.u.cmd ∧ TellsOnly s t)

/-- GET_INFO, MODE_REQ and RESET. GET_INFO completes with the identity, the address, the mode and the host link's addresses;
  MODE_REQ asks as a write of SYS_MODEREQ and completes later, or MODE_DENIED, and with a TARGET that is none BAD_PARAM, CUR,
  HFROM and FLOWCHK beside the status; RESET with its key completes OK and the command reset is due 10 ms later. Completion (a
  next state with its own effect, for every state and operands that meet the conditions) is stated of: getInfo, modeReq,
  reset. (R332, R384, R405, R406). -/
def Obligations.SystemCommands : Prop :=
  (∀ (s : State) (i : Nat) (h : Hdr) (p : List Byte), Ready s i 0x0001 h p →
    Does (.getInfo h p) s fun t => Answered s t i 0x0001 h St.ok (leBytes 4 (s.reg R.SYS_ID).toNat ++ leBytes 4 (s.reg R.SYS_DIEREV).toNat ++ leBytes 4 (s.reg R.SYS_FWVER).toNat ++ leBytes 1 (s.fld F.RNG_STAT_ADDR) ++ leBytes 1 s.mode ++ zeros 2 ++ beBytes 4 (s.reg R.CMD_IP).toNat ++ beBytes 2 (s.fld F.CMD_MACH_MAC) ++ beBytes 4 (s.reg R.CMD_MACL).toNat ++ zeros 2) ∧ TellsOnly s t) ∧
  (∀ (s : State) (i : Nat) (h : Hdr) (p : List Byte) (m : Nat), Ready s i 0x0002 h p → ModeFree s → p = [BitVec.ofNat 8 m, 0, 0, 0] → ((s.mode ∈ [3, 4, 5, 6] ∧ m = 2) ∨ (s.mode = 2 ∧ m ∈ [1, 5, 6]) ∨ (s.mode = 6 ∧ m = 1)) →
    Does (.modeReq h p) s fun t => Started s t i 0x0002 h ∧ t.fld F.SYS_MODE_TARGET = m ∧ t.fld F.SYS_MODE_BUSY = 1 ∧ t.mode = s.mode ∧ t.dev.u.sys.job = some ⟨m, false, some (i, tagWord h), 1⟩) ∧
  (∀ (s : State) (i : Nat) (h : Hdr) (p : List Byte) (m : Nat), Ready s i 0x0002 h p → ModeFree s → p = [BitVec.ofNat 8 m, 0, 0, 0] → s.mode ∈ [3, 4, 5] → m ∈ [0, 1, 3, 4, 5, 6] →
    Does (.modeReq h p) s fun t => (∃ w ∈ List.range 128, Answered s t i 0x0002 h St.modeDenied (leBytes 1 s.mode ++ leBytes 1 (s.fld F.SYS_MODE_HFROM) ++ leBytes 2 w)) ∧ t.mode = s.mode ∧ t.dev.u.sys = s.dev.u.sys ∧ t.fld F.SYS_MODE_BUSY = 0 ∧ t.fld F.SYS_REFUSE_CODE = 1) ∧
  (∀ (s : State) (i : Nat) (h : Hdr) (p : List Byte), Ready s i 0x0002 h p → 8 ≤ leAt p 0 1 →
    Does (.modeReq h p) s fun t => (∃ w ∈ List.range 128, Answered s t i 0x0002 h St.badParam (leBytes 1 s.mode ++ leBytes 1 (s.fld F.SYS_MODE_HFROM) ++ leBytes 2 w)) ∧ TellsOnly s t) ∧
  (∀ (s : State) (i : Nat) (h : Hdr) (p : List Byte), Ready s i 0x0003 h p → leAt p 0 4 = 0x7256 → s.dev.u.rng.joined = false →
    Does (.reset h p) s fun t => Answered s t i 0x0003 h St.ok [] ∧ t.dev.u.cmd.resetAt = some (s.dev.u.cmd.resetAt.getD (s.dev.u.elapsed + 10000000)) ∧ TellsOnly s t) ∧
  (∀ (s : State) (i : Nat) (h : Hdr) (p : List Byte), Ready s i 0x0003 h p → leAt p 0 4 ≠ 0x7256 →
    Does (.reset h p) s fun t => Answered s t i 0x0003 h St.badParam [] ∧ t.dev.u.cmd.resetAt = s.dev.u.cmd.resetAt ∧ TellsOnly s t)

/-- Sessions are opened, proved and refused. OPEN_CONTROL for a slot with a key and the CONTROL right takes the first free
  record as pending and answers, outside any session, its ID and challenge; an empty slot is KEY_EMPTY; PROVE with the code of
  the slot's key opens the record and answers its grant, any other payload is AUTH_FAIL and frees it; OPEN_OBSERVER opens at
  once. The order of the conditions of OPEN_CONTROL is the model's choice (assumption log 68). Completion (a next state with
  its own effect, for every state and operands that meet the conditions) is stated of: openControl, openObserver, prove.
  (R363, R365, R366, R367, R369, R371, R374). -/
def Obligations.Openings : Prop :=
  (∀ (s : State) (i k : Nat) (h : Hdr) (p : List Byte), Live s → Canon s → HostLinkUp s → HasHop s h.ip → h.session = 0 → classOf h.tagw = Cls.b → p.length = 4 → CoreUp s 0 → intakeFull s.dev.u 1 = false → s.dev.u.cmd.outq = [] → i < 4 → s.dev.u.cmd.sessions.length = 4 → (s.sess i).st = .free → (∀ j ∈ List.range i, (s.sess j).st ≠ .free) → ((s.dev.u.cmd.sessions.filter fun x => x.st ≠ .free).map (·.grant)).sum < 512 → HostBufs s 4 20 → p = [BitVec.ofNat 8 k, 0, 0, 0] → k < 8 → (s.dev.u.cmd.slots.getD k {}).key.isSome = true → (s.dev.u.cmd.slots.getD k {}).lockedUntil = none → s.fld (F.SEC_SLOT_CONTROL k) = 1 → s.fld F.SEC_STAT_BLANK = 0 →
    Does (.openControl h p) s fun t => (t.sess i).st = .pending ∧ (t.sess i).ip = h.ip ∧ (t.sess i).port = h.port ∧ (t.sess i).slot = k ∧ (t.sess i).pendingSince = s.dev.u.elapsed ∧ (t.sess i).sid ≠ 0 ∧ findSess s.dev.u.cmd.sessions (t.sess i).sid = none ∧ (t.sess i).challenge.length = 16 ∧ ((t.sess i).keyAdmin = true ↔ s.fld (F.SEC_SLOT_KEYADMIN k) = 1) ∧ 1 ≤ (t.sess i).grant ∧ (t.sess i).grant ≤ max 1 (s.fld F.CMD_GRANTC_GRANT) ∧ Sent s t 0x0101 h 3 St.ok (leBytes 2 (t.sess i).sid ++ zeros 2 ++ (t.sess i).challenge)) ∧
  (∀ (s : State) (k : Nat) (h : Hdr) (p : List Byte), Live s → Canon s → HostLinkUp s → HasHop s h.ip → h.session = 0 → classOf h.tagw = Cls.b → p.length = 4 → CoreUp s 0 → intakeFull s.dev.u 1 = false → s.dev.u.cmd.outq = [] → HostBufs s 4 20 → p = [BitVec.ofNat 8 k, 0, 0, 0] → k < 8 → (s.dev.u.cmd.slots.getD k {}).key = none → s.fld F.SEC_STAT_BLANK = 0 →
    Does (.openControl h p) s fun t => Sent s t 0x0101 h 3 St.keyEmpty [] ∧ t.dev.u.cmd = { s.dev.u.cmd with accepted := t.dev.u.cmd.accepted } ∧ TellsOnly s t) ∧
  (∀ (s : State) (i : Nat) (h : Hdr) (p : List Byte), Live s → Canon s → HostLinkUp s → HasHop s h.ip → h.session = 0 → classOf h.tagw = Cls.b → p.length = 4 → CoreUp s 0 → intakeFull s.dev.u 1 = false → s.dev.u.cmd.outq = [] → i < 4 → s.dev.u.cmd.sessions.length = 4 → (s.sess i).st = .free → (∀ j ∈ List.range i, (s.sess j).st ≠ .free) → ((s.dev.u.cmd.sessions.filter fun x => x.st ≠ .free).map (·.grant)).sum < 512 → HostBufs s 4 6 →
    Does (.openObserver h p) s fun t => (t.sess i).st = .opened ∧ (t.sess i).observer = true ∧ (t.sess i).ip = h.ip ∧ (t.sess i).port = h.port ∧ (t.sess i).h = leAt p 0 4 ∧ (t.sess i).sid ≠ 0 ∧ findSess s.dev.u.cmd.sessions (t.sess i).sid = none ∧ 1 ≤ (t.sess i).grant ∧ (t.sess i).grant ≤ max 1 (s.fld F.CMD_GRANTO_GRANT) ∧ Sent s t 0x0103 h 3 St.ok (leBytes 2 (t.sess i).sid ++ leBytes 2 (t.sess i).grant ++ leBytes 2 (s.fld F.CMD_IDLET_T)) ∧ TellsOnly s t) ∧
  (∀ (s : State) (h : Hdr) (p : List Byte), Live s → Canon s → HostLinkUp s → HasHop s h.ip → h.session = 0 → classOf h.tagw = Cls.b → p.length = 4 → CoreUp s 0 → intakeFull s.dev.u 1 = false → s.dev.u.cmd.outq = [] → HostBufs s 4 6 → (∀ j ∈ List.range 4, (s.sess j).st ≠ .free) →
    Does (.openObserver h p) s fun t => Sent s t 0x0103 h 3 St.noSession [] ∧ t.dev.u.cmd = { s.dev.u.cmd with accepted := t.dev.u.cmd.accepted } ∧ TellsOnly s t) ∧
  (∀ (s : State) (i : Nat) (h : Hdr) (p : List Byte) (key : List Byte), Live s → Canon s → HostLinkUp s → h.session ≠ 0 → findSess s.dev.u.cmd.sessions h.session = some i → (s.sess i).st = .pending → (s.sess i).ip = h.ip → (s.sess i).port = h.port → (s.sess i).queue = [] → HasHop s h.ip → TagFree s i h → HostBufs s p.length 4 → busyCause s.dev.u (s.sess i) 0x0102 = none → CoreUp s 0 → preCheck (s.sess i) (tagWord h) 0x0102 p = none → (s.dev.u.cmd.slots.getD (s.sess i).slot {}).key = some key → p = proofOf key (s.sess i).challenge (s.sess i).sid (s.sess i).slot (s.sess i).ip (s.sess i).port →
    Does (.prove h p) s fun t => (t.sess i).st = .opened ∧ (t.sess i).h = h.seq % 2 ^ 32 ∧ (t.sess i).lastTaken = s.dev.u.elapsed ∧ (t.sess i).sid = h.session ∧ Sent s t 0x0102 h 3 St.ok (leBytes 2 (s.sess i).grant ++ leBytes 2 (s.fld F.CMD_IDLET_T)) ∧ TellsOnly s t) ∧
  (∀ (s : State) (i : Nat) (h : Hdr) (p : List Byte) (key : List Byte), Live s → Canon s → HostLinkUp s → h.session ≠ 0 → findSess s.dev.u.cmd.sessions h.session = some i → (s.sess i).st = .pending → (s.sess i).ip = h.ip → (s.sess i).port = h.port → (s.sess i).queue = [] → HasHop s h.ip → TagFree s i h → HostBufs s p.length 4 → busyCause s.dev.u (s.sess i) 0x0102 = none → CoreUp s 0 → preCheck (s.sess i) (tagWord h) 0x0102 p = none → (s.dev.u.cmd.slots.getD (s.sess i).slot {}).key = some key → p ≠ proofOf key (s.sess i).challenge (s.sess i).sid (s.sess i).slot (s.sess i).ip (s.sess i).port → s.dev.u.cmd.keyBufBy ≠ some i → (failsOf s.dev.u.elapsed (s.dev.u.cmd.slots.getD (s.sess i).slot {})).length < 7 → s.dev.u.nv.commit = none →
    Does (.prove h p) s fun t => t.sess i = {} ∧ Sent s t 0x0102 h 3 St.authFail [] ∧ t.fld F.SEC_FAILCNT_CNT = min (s.fld F.SEC_FAILCNT_CNT + 1) 0xFFFFFFFF ∧ t.fld F.SEC_STAT_AUTHFAIL = 1 ∧ (t.dev.u.cmd.slots.getD (s.sess i).slot {}).fails = failsOf s.dev.u.elapsed (s.dev.u.cmd.slots.getD (s.sess i).slot {}) ++ [s.dev.u.elapsed] ∧ (t.dev.u.cmd.slots.getD (s.sess i).slot {}).lockedUntil = (s.dev.u.cmd.slots.getD (s.sess i).slot {}).lockedUntil) ∧
  (∀ (s : State) (i : Nat) (h : Hdr) (p : List Byte) (key : List Byte), Live s → Canon s → HostLinkUp s → h.session ≠ 0 → findSess s.dev.u.cmd.sessions h.session = some i → (s.sess i).st = .pending → (s.sess i).ip = h.ip → (s.sess i).port = h.port → (s.sess i).queue = [] → HasHop s h.ip → TagFree s i h → HostBufs s p.length 4 → busyCause s.dev.u (s.sess i) 0x0102 = none → CoreUp s 0 → preCheck (s.sess i) (tagWord h) 0x0102 p = none → (s.dev.u.cmd.slots.getD (s.sess i).slot {}).key = some key → p ≠ proofOf key (s.sess i).challenge (s.sess i).sid (s.sess i).slot (s.sess i).ip (s.sess i).port → s.dev.u.cmd.slots.length = 8 → (s.sess i).slot < 8 → 7 ≤ (failsOf s.dev.u.elapsed (s.dev.u.cmd.slots.getD (s.sess i).slot {})).length →
    Does (.prove h p) s fun t => t.sess i = {} ∧ Sent s t 0x0102 h 3 St.authFail [] ∧ (t.dev.u.cmd.slots.getD (s.sess i).slot {}).lockedUntil = some (s.dev.u.elapsed + max 1 (s.fld F.SEC_LOCKT_T) * 1000000000) ∧ t.fld (F.SEC_SLOTSTAT_LOCKED (s.sess i).slot) = 1)

/-- CLOSE, PING, REVOKE and EVMASK, and the ends of sessions. CLOSE completes and frees its record with its locks; PING and
  EVMASK complete OK, EVMASK with the mask in force; REVOKE ends a command that has not started, and answers REVOKE_LATE or
  REVOKE_NOTAG where there is none to end. A pending record is freed after 1 s, an open one after CMD_IDLET s without a
  packet. A frame that has waited 100 ms is discarded, and POOL_AGECNT counts it with POOL_STAT.AGED. Completion (a next state
  with its own effect, for every state and operands that meet the conditions) is stated of: close, ping, evmask,
  pendingSessionExpiry, sessionIdleExpiry, heldCompletionExpiry, replyAgeExpiry, revoke. (R365, R372, R373, R382, R388, R389,
  R394, R407, R568, R577). -/
def Obligations.SessionCommands : Prop :=
  (∀ (s : State) (i : Nat) (h : Hdr) (p : List Byte), Ready s i 0x0104 h p → s.dev.u.cmd.keyBufBy ≠ some i → s.dev.u.nv.commit = none →
    Does (.close h p) s fun t => t.sess i = {} ∧ Sent s t 0x0104 h 3 St.ok [] ∧ t.dev.u.pcl.locks = s.dev.u.pcl.locks.filter (fun l => l.holder ≠ i) ∧ t.fld F.CMD_RXCNT_CNT = (s.fld F.CMD_RXCNT_CNT + 1) % 2 ^ 32) ∧
  (∀ (s : State) (i : Nat) (h : Hdr) (p : List Byte), Ready s i 0x0105 h p →
    Does (.ping h p) s fun t => Answered s t i 0x0105 h St.ok [] ∧ TellsOnly s t) ∧
  (∀ (s : State) (i : Nat) (h : Hdr) (p : List Byte), Ready s i 0x0107 h p →
    Does (.evmask h p) s fun t => Answered s t i 0x0107 h St.ok [] ∧ (t.sess i).evMask = leAt p 0 8 ∧ TellsOnly s t) ∧
  (∀ (s : State) (i : Nat) (h : Hdr) (p : List Byte) (x : OutTag), Ready s i 0x0106 h p → tagIn (s.sess i) (leAt p 0 2) = some x → leAt p 0 2 < 512 → tagOf h.tagw ≠ leAt p 0 2 → x.started = false → x.done = false →
    Does (.revoke h p) s fun t => Answered s t i 0x0106 h St.ok [] ∧ tagIn (t.sess i) (leAt p 0 2) = none ∧ (∃ y ∈ (t.sess i).held, y.tag = leAt p 0 2 ∧ y.pkt.status = St.revoked ∧ y.pkt.opcode = x.opcode) ∧ TellsOnly s t) ∧
  (∀ (s : State) (i : Nat) (h : Hdr) (p : List Byte) (x : OutTag), Ready s i 0x0106 h p → tagIn (s.sess i) (leAt p 0 2) = some x → leAt p 0 2 < 512 → tagOf h.tagw ≠ leAt p 0 2 → x.done = true →
    Does (.revoke h p) s fun t => Answered s t i 0x0106 h St.revokeLate [] ∧ tagIn (t.sess i) (leAt p 0 2) = some x ∧ TellsOnly s t) ∧
  (∀ (s : State) (i : Nat) (h : Hdr) (p : List Byte) (x : Held), Ready s i 0x0106 h p → tagIn (s.sess i) (leAt p 0 2) = none → leAt p 0 2 < 512 → tagOf h.tagw ≠ leAt p 0 2 → x ∈ (s.sess i).held → x.tag = leAt p 0 2 →
    Does (.revoke h p) s fun t => Answered s t i 0x0106 h St.revokeLate [] ∧ TellsOnly s t) ∧
  (∀ (s : State) (i : Nat) (h : Hdr) (p : List Byte), Ready s i 0x0106 h p → tagIn (s.sess i) (leAt p 0 2) = none → leAt p 0 2 < 512 → tagOf h.tagw ≠ leAt p 0 2 → (∀ x ∈ (s.sess i).held, x.tag ≠ leAt p 0 2) →
    Does (.revoke h p) s fun t => Answered s t i 0x0106 h St.revokeNotag [] ∧ TellsOnly s t) ∧
  (∀ (s : State) (i : Nat), Live s → Canon s → i < 4 → s.dev.u.cmd.sessions.length = 4 → s.dev.u.cmd.keyBufBy ≠ some i → s.dev.u.nv.commit = none → (s.sess i).st = .pending → (s.sess i).pendingSince + 1000000000 ≤ s.dev.u.elapsed →
    Does (.pendingSessionExpiry i) s fun t => t.sess i = {} ∧ t.dev.u.pcl.locks = s.dev.u.pcl.locks.filter (fun l => l.holder ≠ i)) ∧
  (∀ (s : State) (i : Nat), Live s → Canon s → i < 4 → s.dev.u.cmd.sessions.length = 4 → s.dev.u.cmd.keyBufBy ≠ some i → s.dev.u.nv.commit = none → (s.sess i).st = .opened → (s.sess i).lastTaken + max 1 (s.fld F.CMD_IDLET_T) * 1000000000 ≤ s.dev.u.elapsed →
    Does (.sessionIdleExpiry i) s fun t => t.sess i = {} ∧ t.dev.u.pcl.locks = s.dev.u.pcl.locks.filter (fun l => l.holder ≠ i)) ∧
  (∀ (s : State) (i tag : Nat), Live s → Canon s → i < 4 → s.dev.u.cmd.sessions.length = 4 →
    Does (.heldCompletionExpiry i tag) s fun t => (t.sess i).held = (s.sess i).held.filter (fun x => ¬ (x.tag = tag ∧ x.since + 100000000 ≤ s.dev.u.elapsed)) ∧ (t.sess i).tags = (s.sess i).tags ∧ RegsKept [5, 0x11] s t) ∧
  (∀ (s : State) (i : Nat), Live s → Canon s → i < 4 → s.dev.u.cmd.sessions.length = 4 → (∃ q ∈ (s.sess i).queue, q.since + 100000000 ≤ s.dev.u.elapsed) →
    Does (.replyAgeExpiry i) s fun t => (t.sess i).queue = (s.sess i).queue.filter (fun q => s.dev.u.elapsed < q.since + 100000000) ∧ t.fld F.POOL_AGECNT_CNT = min (s.fld F.POOL_AGECNT_CNT + (((s.sess i).queue ++ s.dev.u.cmd.outq).filter (fun q => q.since + 100000000 ≤ s.dev.u.elapsed)).length) 0xFFFFFFFF ∧ t.dev.u.cmd.outq = s.dev.u.cmd.outq.filter (fun q => s.dev.u.elapsed < q.since + 100000000) ∧ t.fld F.POOL_STAT_AGED = 1 ∧ RegsKept [5, 0x11] s t)

/-- Register reads and writes of the host, one and many. READ gives the word of a mapped register, ADDR_UNMAPPED or ADDR_ALIGN
  otherwise, and clears its RC fields; WRITE and WRITE_BLOCK change the bits that the mask selects in the control registers of
  the thermal, ring, reconstruction and ledger units, and a write that changes a selected KP bit is a fault; a block or a list
  is read one word at a time, a failed word as 0 with its status; WRITE_BLOCK stops at the first failure with the count
  written. A channel register whose power domain is off takes nothing, reads 0, and answers DOMAIN_OFF. Completion (a next
  state with its own effect, for every state and operands that meet the conditions) is stated of: read, write, readBlock,
  readList, writeBlock. (R35, R36, R386, R408, R409, R448, R449, R454, R455). -/
def Obligations.RegisterCommands : Prop :=
  (∀ (s : State) (i : Nat) (h : Hdr) (p : List Byte), Ready s i 0x0201 h p → Plain (leAt p 0 4) →
    Does (.read h p) s fun t => Answered s t i 0x0201 h St.ok (leBytes 4 (s.reg (leAt p 0 4)).toNat) ∧ TellsOnly s t) ∧
  (∀ (s : State) (i : Nat) (h : Hdr) (p : List Byte) (a k : Nat) (x : RegRow), Ready s i 0x0201 h p → leAt p 0 4 = a → rowOf a = some (x, k) → a / 0x10000 ∈ [3, 6, 7, 0xB, 0xC] →
    Does (.read h p) s fun t => Answered s t i 0x0201 h St.ok (leBytes 4 (s.reg a).toNat) ∧ ∀ j ∈ List.range 32, bitAt (t.reg a).toNat j = (if bitAt x.rc j then bitAt (regReset a).toNat j else bitAt (s.reg a).toNat j)) ∧
  (∀ (s : State) (i : Nat) (h : Hdr) (p : List Byte), Ready s i 0x0201 h p → leAt p 0 4 % 4 = 0 → leAt p 0 4 / 0x10000 ≠ 0x14 → leAt p 0 4 / 0x10000 ≠ 0x15 → rowOf (leAt p 0 4) = none →
    Does (.read h p) s fun t => Answered s t i 0x0201 h St.addrUnmapped [] ∧ TellsOnly s t) ∧
  (∀ (s : State) (i : Nat) (h : Hdr) (p : List Byte), Ready s i 0x0201 h p → leAt p 0 4 % 4 ≠ 0 →
    Does (.read h p) s fun t => Answered s t i 0x0201 h St.addrAlign [] ∧ TellsOnly s t) ∧
  (∀ (s : State) (i : Nat) (h : Hdr) (p : List Byte) (a k : Nat) (x : RegRow) (w : Word), Ready s i 0x0202 h p → p = leBytes 4 a ++ leBytes 4 w.toNat → rowOf a = some (x, k) → x.mask = true → x.kp = 0 → x.noThree = [] → a / 0x10000 = 0xC → w.toNat / 65536 ≠ 0 →
    Does (.write h p) s fun t => Answered s t i 0x0202 h St.ok [] ∧ ∀ j ∈ List.range 32, bitAt (t.reg a).toNat j = (if bitAt (w.toNat / 65536) j ∧ bitAt x.rw j then bitAt w.toNat j else bitAt (s.reg a).toNat j)) ∧
  (∀ (s : State) (i : Nat) (h : Hdr) (p : List Byte), Ready s i 0x0202 h p → leAt p 0 4 % 4 = 0 → leAt p 0 4 / 0x10000 ≠ 0x14 → leAt p 0 4 / 0x10000 ≠ 0x15 → rowOf (leAt p 0 4) = none →
    Does (.write h p) s fun t => Answered s t i 0x0202 h St.addrUnmapped [] ∧ TellsOnly s t) ∧
  (∀ (s : State) (i : Nat) (h : Hdr) (p : List Byte), Ready s i 0x0202 h p → leAt p 0 4 % 4 = 0 → (leAt p 0 4 / 0x10000 = 0x14 ∨ leAt p 0 4 / 0x10000 = 0x15) →
    Does (.write h p) s fun t => Answered s t i 0x0202 h St.denied [] ∧ TellsOnly s t) ∧
  (∀ (s : State) (i : Nat) (h : Hdr) (p : List Byte) (n : Nat), Ready s i 0x0203 h p → leAt p 4 2 = n → 1 ≤ n → n ≤ 64 → leAt p 6 2 = 0 → (∀ j ∈ List.range n, Plain (leAt p 0 4 + 4 * j)) →
    Does (.readBlock h p []) s fun t => Answered s t i 0x0203 h St.ok ((List.range n).flatMap fun j => leBytes 4 (s.reg (leAt p 0 4 + 4 * j)).toNat) ∧ TellsOnly s t) ∧
  (∀ (s : State) (i : Nat) (h : Hdr) (p : List Byte), Ready s i 0x0203 h p → (leAt p 4 2 = 0 ∨ 64 < leAt p 4 2) →
    Does (.readBlock h p []) s fun t => Answered s t i 0x0203 h St.badParam [] ∧ TellsOnly s t) ∧
  (∀ (s : State) (i : Nat) (h : Hdr) (p : List Byte) (n : Nat), Ready s i 0x0205 h p → leAt p 0 2 = n → 1 ≤ n → n ≤ 64 → leAt p 2 2 = 0 → (∀ j ∈ List.range n, Plain (leAt p (4 + 4 * j) 4)) →
    Does (.readList h p) s fun t => Answered s t i 0x0205 h St.ok ((List.range n).flatMap fun j => leBytes 4 (s.reg (leAt p (4 + 4 * j) 4)).toNat) ∧ TellsOnly s t) ∧
  (∀ (s : State) (i : Nat) (h : Hdr) (p : List Byte) (v : List Nat), Ready s i 0x0204 h p → p = leBytes 4 (R.RNG_BOUND 0) ++ leBytes 2 16 ++ zeros 2 ++ (List.range 16).flatMap (fun j => leBytes 4 (0xFFFF0000 + (v.getD j 0) % 65536)) →
    Does (.writeBlock h p) s fun t => Answered s t i 0x0204 h St.ok (leBytes 2 16 ++ zeros 2) ∧ ∀ j ∈ List.range 16, (t.reg (R.RNG_BOUND j)).toNat % 65536 = v.getD j 0 % 65536) ∧
  (∀ (s : State) (i : Nat) (h : Hdr) (p : List Byte), Ready s i 0x0204 h p → p = leBytes 4 0x160000 ++ leBytes 2 2 ++ zeros 2 ++ zeros 8 →
    Does (.writeBlock h p) s fun t => Answered s t i 0x0204 h St.addrUnmapped (zeros 4) ∧ TellsOnly s t) ∧
  (∀ (s : State) (src : Src) (a k d : Nat) (x : RegRow) (w : Word), Live s → rowOf a = some (x, k) → regDomain x a = some d → ¬ s.powered d →
    Does (.registerWrite src a w) s fun t => t = s) ∧
  (∀ (s : State) (i : Nat) (h : Hdr) (p : List Byte) (k d : Nat) (x : RegRow), Ready s i 0x0201 h p → leAt p 0 4 % 4 = 0 → rowOf (leAt p 0 4) = some (x, k) → regDomain x (leAt p 0 4) = some d → ¬ s.powered d →
    Does (.read h p) s fun t => Answered s t i 0x0201 h St.domainOff [] ∧ TellsOnly s t) ∧
  (∀ (s : State) (i : Nat) (h : Hdr) (p : List Byte) (k d : Nat) (x : RegRow), Ready s i 0x0203 h p → leAt p 4 2 = 1 → leAt p 6 2 = 0 → leAt p 0 4 % 4 = 0 → rowOf (leAt p 0 4) = some (x, k) → regDomain x (leAt p 0 4) = some d → ¬ s.powered d →
    Does (.readBlock h p []) s fun t => Answered s t i 0x0203 h St.domainOff (leBytes 4 0) ∧ TellsOnly s t) ∧
  (∀ (s : State) (i : Nat) (h : Hdr) (p : List Byte) (k d : Nat) (x : RegRow), Ready s i 0x0202 h p → leAt p 0 4 % 4 = 0 → rowOf (leAt p 0 4) = some (x, k) → regDomain x (leAt p 0 4) = some d → ¬ s.powered d →
    Does (.write h p) s fun t => Answered s t i 0x0202 h St.domainOff [] ∧ TellsOnly s t) ∧
  (∀ (s : State) (i : Nat) (h : Hdr) (p : List Byte), Ready s i 0x0202 h p → s.stores (leAt p 0 4) (leAt p 4 4) = true →
    Does (.write h p) s fun t => Answered s t i 0x0202 h St.ok [] ∧ (∀ j ∈ List.range 32, bitAt (t.reg (leAt p 0 4)).toNat j = s.storedBit (leAt p 0 4) (leAt p 4 4) j) ∧ RegsKept [leAt p 0 4 / 0x10000, 4, 5, 0x11] s t) ∧
  (∀ (s : State) (i : Nat) (h : Hdr) (p : List Byte) (k : Nat) (x : RegRow), Ready s i 0x0202 h p → rowOf (leAt p 0 4) = some (x, k) → x.mask = true → leAt p 0 4 / 0x10000 ∈ [3, 7, 0xB, 0xC] → (leAt p 4 4 ^^^ (s.reg (leAt p 0 4)).toNat) &&& (leAt p 4 4 / 65536) &&& x.kp ≠ 0 →
    Stops (.write h p) s .keepBitChanged) ∧
  (∀ (s : State) (i n : Nat) (h : Hdr) (p : List Byte), Ready s i 0x0204 h p → leAt p 4 2 = n → 1 ≤ n → n ≤ 64 → leAt p 6 2 = 0 → leAt p 0 4 % 4 = 0 → (∀ j ∈ List.range n, s.stores (leAt p 0 4 + 4 * j) (leAt p (8 + 4 * j) 4) = true) →
    Does (.writeBlock h p) s fun t => Answered s t i 0x0204 h St.ok (leBytes 2 n ++ zeros 2) ∧ (∀ j ∈ List.range n, ∀ k ∈ List.range 32, bitAt (t.reg (leAt p 0 4 + 4 * j)).toNat k = s.storedBit (leAt p 0 4 + 4 * j) (leAt p (8 + 4 * j) 4) k)) ∧
  (∀ (s : State) (i m n : Nat) (h : Hdr) (p : List Byte), Ready s i 0x0204 h p → leAt p 4 2 = n → m < n → n ≤ 64 → leAt p 6 2 = 0 → leAt p 0 4 % 4 = 0 → (∀ j ∈ List.range m, s.stores (leAt p 0 4 + 4 * j) (leAt p (8 + 4 * j) 4) = true) → rowOf (leAt p 0 4 + 4 * m) = none → (leAt p 0 4 + 4 * m) / 0x10000 ≠ 0x14 → (leAt p 0 4 + 4 * m) / 0x10000 ≠ 0x15 →
    Does (.writeBlock h p) s fun t => Answered s t i 0x0204 h St.addrUnmapped (leBytes 2 m ++ zeros 2) ∧ (∀ j ∈ List.range m, ∀ k ∈ List.range 32, bitAt (t.reg (leAt p 0 4 + 4 * j)).toNat k = s.storedBit (leAt p 0 4 + 4 * j) (leAt p (8 + 4 * j) 4) k) ∧ ∀ j ∈ List.range n, m < j → (rowOf (leAt p 0 4 + 4 * j)).any (fun x => x.1.mask) = true → (leAt p 0 4 + 4 * j) / 0x10000 ∉ [4, 5, 0x11] → t.reg (leAt p 0 4 + 4 * j) = s.reg (leAt p 0 4 + 4 * j))

/-- SNAPSHOT, TIME_SET, ALARM_SET and ALARM_CLEAR. SNAPSHOT latches and answers wall time, the mains count and each lane's
  position and lead; TIME_SET steps wall time in ENUMERATE, IDLE and SERVICE and slews it elsewhere, by the difference it
  answers; ALARM_SET gives a slot its compare value, lane and fallback and arms it; ALARM_CLEAR disarms it; a slot below 64 is
  BAD_PARAM. Completion (a next state with its own effect, for every state and operands that meet the conditions) is stated
  of: snapshot, timeSet, alarmSet, alarmClear. (R48, R58, R60, R74, R410, R411, R412, R413). -/
def Obligations.TimebaseCommands : Prop :=
  (∀ (s : State) (i : Nat) (h : Hdr) (p : List Byte), Ready s i 0x0301 h p →
    Does (.snapshot h p) s fun t => Answered s t i 0x0301 h St.ok (leBytes 4 ((s.fld F.ENC_SNAPSEQ_SEQ + 1) % 2 ^ 32) ++ zeros 4 ++ leBytes 8 s.dev.u.wall ++ leBytes 8 s.mains ++ (List.range 16).flatMap fun n => leBytes 8 (ofSigned 64 (s.pos n)) ++ leBytes 8 (ofSigned 64 (s.lead n))) ∧ (∀ n ∈ List.range 16, t.s48 (R.ENC_SNAPL n) (R.ENC_SNAPH n) = s.pos n)) ∧
  (∀ (s : State) (i : Nat) (h : Hdr) (p : List Byte), Ready s i 0x0302 h p → s.dev.u.rng.ring = false → s.dev.u.rng.joined = false → s.mode ∈ [0, 2, 6] →
    Does (.timeSet h p) s fun t => Answered s t i 0x0302 h St.ok (zeros 8 ++ leBytes 8 (ofSigned 64 ((leAt p 0 8 : Int) - s.dev.u.wall))) ∧ t.dev.u.wall = leAt p 0 8 ∧ t.dev.u.slew = 0 ∧ RegsKept [4, 5, 0x11] s t) ∧
  (∀ (s : State) (i : Nat) (h : Hdr) (p : List Byte), Ready s i 0x0302 h p → s.dev.u.rng.ring = false → s.dev.u.rng.joined = false → s.mode ∉ [0, 2, 6] →
    Does (.timeSet h p) s fun t => Answered s t i 0x0302 h St.ok (leBytes 1 1 ++ zeros 7 ++ leBytes 8 (ofSigned 64 ((leAt p 0 8 : Int) - s.dev.u.wall))) ∧ t.dev.u.wall = s.dev.u.wall ∧ t.dev.u.slew = (leAt p 0 8 : Int) - s.dev.u.wall ∧ RegsKept [4, 5, 0x11] s t) ∧
  (∀ (s : State) (i : Nat) (h : Hdr) (p : List Byte) (n src fb : Nat) (v : Int), Ready s i 0x0303 h p → p = leBytes 2 n ++ leBytes 1 src ++ leBytes 1 fb ++ leBytes 8 (ofSigned 64 v) → 64 ≤ n → n < 512 → s.fld (F.ENC_ACTL_SRC n) ≤ 16 → fb < 256 → -(2 ^ 47) ≤ v → v < 2 ^ 47 → ((src < 16 ∧ s.lead src < v) ∨ (src = 16 ∧ (s.mains : Int) < v)) →
    Does (.alarmSet h p) s fun t => Answered s t i 0x0303 h St.ok [] ∧ t.compareAt n = v ∧ t.fld (F.ENC_ACTL_ARM n) = 1 ∧ t.fld (F.ENC_ACTL_SRC n) = src ∧ t.fld (F.ENC_ACTL_FB n) = fb ∧ (n, s.dev.u.elapsed, fb) ∈ t.dev.u.enc.armed) ∧
  (∀ (s : State) (i : Nat) (h : Hdr) (p : List Byte), Ready s i 0x0303 h p → leAt p 0 2 < 64 →
    Does (.alarmSet h p) s fun t => Answered s t i 0x0303 h St.badParam [] ∧ TellsOnly s t) ∧
  (∀ (s : State) (i : Nat) (h : Hdr) (p : List Byte) (n : Nat), Ready s i 0x0304 h p → p = leBytes 2 n ++ zeros 2 → 64 ≤ n → n < 512 → s.fld (F.ENC_ACTL_SRC n) ≤ 16 →
    Does (.alarmClear h p) s fun t => Answered s t i 0x0304 h St.ok [] ∧ t.fld (F.ENC_ACTL_ARM n) = 0 ∧ t.compareAt n = s.compareAt n ∧ ∀ x ∈ t.dev.u.enc.armed, x.1 ≠ n)

/-- The Tomography function. GEOM_LOAD and CAL_LOAD take their data in bulk into a commit, GEOM_LOAD not while tomography
  runs; GEOM_READ, CAL_READ, RANGE_READ and FRAME_READ send the table or record, NO_DATA without one; CAL_SWEEP starts a sweep
  in CALIBRATE and SERVICE; RANGE_SAVE commits the range tables as they stand. Completion (a next state with its own effect,
  for every state and operands that meet the conditions) is stated of: geomLoad, calLoad, geomRead, calRead, calSweep,
  rangeSave, rangeRead, frameRead. (R104, R390, R398, R403, R404, R414, R415). -/
def Obligations.TomographyCommands : Prop :=
  (∀ (s : State) (i : Nat) (h : Hdr) (p : List Byte), Ready s i 0x0401 h p → p = zeros 4 ++ leBytes 4 4240 → s.dev.u.nv.commit = none → s.fld F.TOMO_CTL_RUN = 0 → s.dev.u.tomo.frame = none →
    Does (.geomLoad h p) s fun t => (Started s t i 0x0401 h ∧ TakesBulk s t i 0x0401 h 4240 ∧ Commits t i h .geometry 3 []) ∧ t.dev.u.tomo = s.dev.u.tomo) ∧
  (∀ (s : State) (i : Nat) (h : Hdr) (p : List Byte), Ready s i 0x0401 h p → p = zeros 4 ++ leBytes 4 4240 → s.dev.u.nv.commit = none → s.fld F.TOMO_CTL_RUN = 1 →
    Does (.geomLoad h p) s fun t => Answered s t i 0x0401 h St.tomoRunning [] ∧ TellsOnly s t) ∧
  (∀ (s : State) (i : Nat) (h : Hdr) (p : List Byte), Ready s i 0x0404 h p → p = zeros 4 ++ leBytes 4 65600 → s.dev.u.nv.commit = none →
    Does (.calLoad h p) s fun t => (Started s t i 0x0404 h ∧ TakesBulk s t i 0x0404 h 65600 ∧ Commits t i h .calibration 3 []) ∧ t.dev.u.tomo = s.dev.u.tomo) ∧
  (∀ (s : State) (i : Nat) (h : Hdr) (p : List Byte), Ready s i 0x0404 h p → p = zeros 4 ++ leBytes 4 65600 → s.dev.u.nv.commit.isSome = true →
    Does (.calLoad h p) s fun t => Answered s t i 0x0404 h St.commitBusy [] ∧ TellsOnly s t) ∧
  (∀ (s : State) (i : Nat) (h : Hdr) (p : List Byte) (d : List Byte), Ready s i 0x0402 h p → p = [1, 0, 0, 0] ++ leBytes 4 4240 → s.dev.u.tomo.geom = some d → d.length = 4240 →
    Does (.geomRead h p) s fun t => Started s t i 0x0402 h ∧ SendsBulk t i 0x0402 h d ∧ RegsKept [4, 5, 0x11] s t) ∧
  (∀ (s : State) (i : Nat) (h : Hdr) (p : List Byte), Ready s i 0x0402 h p → p = [1, 0, 0, 0] ++ leBytes 4 4240 → s.dev.u.tomo.geom = none →
    Does (.geomRead h p) s fun t => Answered s t i 0x0402 h St.noData [] ∧ TellsOnly s t) ∧
  (∀ (s : State) (i : Nat) (h : Hdr) (p : List Byte) (d : List Byte), Ready s i 0x0405 h p → p = [1, 0, 0, 0] ++ leBytes 4 65600 → s.dev.u.tomo.cal = some d → d.length = 65600 →
    Does (.calRead h p) s fun t => Started s t i 0x0405 h ∧ SendsBulk t i 0x0405 h d ∧ RegsKept [4, 5, 0x11] s t) ∧
  (∀ (s : State) (i : Nat) (h : Hdr) (p : List Byte), Ready s i 0x0405 h p → p = [1, 0, 0, 0] ++ leBytes 4 65600 → s.dev.u.tomo.cal = none →
    Does (.calRead h p) s fun t => Answered s t i 0x0405 h St.noData [] ∧ TellsOnly s t) ∧
  (∀ (s : State) (i : Nat) (h : Hdr) (p : List Byte), Ready s i 0x0403 h p → s.mode ∈ [1, 6] → s.dev.u.tomo.frame = none → s.dev.u.tomo.sweep = none →
    Does (.calSweep h p) s fun t => Answered s t i 0x0403 h St.ok [] ∧ t.dev.u.tomo = { s.dev.u.tomo with sweep := some ⟨s.dev.u.elapsed, s.planFreq⟩ } ∧ RegsKept [4, 5, 0x11] s t) ∧
  (∀ (s : State) (i : Nat) (h : Hdr) (p : List Byte), Ready s i 0x0403 h p → s.mode ∉ [1, 6] →
    Does (.calSweep h p) s fun t => Answered s t i 0x0403 h St.modeWrong [] ∧ TellsOnly s t) ∧
  (∀ (s : State) (i : Nat) (h : Hdr) (p : List Byte), Ready s i 0x0406 h p → s.dev.u.nv.commit = none →
    Does (.rangeSave h p) s fun t => Started s t i 0x0406 h ∧ Commits t i h (.ranges s.dev.u.tomo.ranges) 4 []) ∧
  (∀ (s : State) (i : Nat) (h : Hdr) (p : List Byte), Ready s i 0x0407 h p → p = [1, 0, 0, 0] ++ leBytes 4 16384 →
    Does (.rangeRead h p) s fun t => Started s t i 0x0407 h ∧ SendsBulk t i 0x0407 h ((List.range 8192).flatMap fun k => leBytes 2 (rangeWord s.dev.u.tomo.ranges k)) ∧ RegsKept [4, 5, 0x11] s t) ∧
  (∀ (s : State) (i : Nat) (h : Hdr) (p : List Byte) (q : Nat) (x : Nat × FrameRec), Ready s i 0x0408 h p → p = [1, 0, 0, 0] ++ leBytes 4 402824 ++ leBytes 8 q → x ∈ s.dev.u.tomo.ring → q ≠ 0 → q < 2 ^ 64 → x.2.fseq = q → (∀ y ∈ s.dev.u.tomo.ring, y.2.fseq = q → y = x) →
    Does (.frameRead h p) s fun t => Started s t i 0x0408 h ∧ SendsBulk t i 0x0408 h (frameBytes x.2) ∧ RegsKept [4, 5, 0x11] s t) ∧
  (∀ (s : State) (i : Nat) (h : Hdr) (p : List Byte) (q : Nat), Ready s i 0x0408 h p → p = [1, 0, 0, 0] ++ leBytes 4 402824 ++ leBytes 8 q → q ≠ 0 → q < 2 ^ 64 → (∀ y ∈ s.dev.u.tomo.ring, y.2.fseq ≠ q) →
    Does (.frameRead h p) s fun t => Answered s t i 0x0408 h St.noData [] ∧ TellsOnly s t)

/-- The Reconstruction function. MAT_LOAD and REF_LOAD take their data in bulk into a commit; MODEL_LOAD commits a table that
  passes its checks, or completes with the check's status; MAT_INFO, MODEL_READ, REF_READ, MAP_SUMMARY and MAP_READ answer
  what is held; a capture starts in CALIBRATE and SERVICE from the next frame, and its end commits the reference; ANCHOR moves
  the lane's offset towards the laboratory. That REC_LBOUND shows REC_ANCHU in the anchor's own step is the model's reading
  (DEDUCED, assumption log 87). Completion (a next state with its own effect, for every state and operands that meet the
  conditions) is stated of: matLoad, matInfo, modelLoad, modelRead, refLoad, refRead, captureStart, captureEnd, anchor,
  mapSummary, mapRead. (R138, R153, R158, R160, R163, R404, R416, R417, R418, R419, R421). -/
def Obligations.ReconstructionCommands : Prop :=
  (∀ (s : State) (i : Nat) (h : Hdr) (p : List Byte) (len : Nat), Ready s i 0x0501 h p → p = zeros 4 ++ leBytes 4 len → 1 ≤ len → len < 2 ^ 32 → s.dev.u.nv.commit = none →
    Does (.matLoad h p) s fun t => (Started s t i 0x0501 h ∧ TakesBulk s t i 0x0501 h len ∧ Commits t i h .matrix 3 [])) ∧
  (∀ (s : State) (i : Nat) (h : Hdr) (p : List Byte), Ready s i 0x0502 h p →
    Does (.matInfo h p) s fun t => Answered s t i 0x0502 h St.ok (matWords s.dev.u.reco.mat ++ matWords (bankFile (s.dev.u.nv.mat.getD s.dev.u.nv.matSel {})) ++ matWords (bankFile (s.dev.u.nv.mat.getD (1 - s.dev.u.nv.matSel) {})) ++ leBytes 1 s.dev.u.nv.matSel ++ leBytes 1 (s.dev.u.nv.mat.getD (1 - s.dev.u.nv.matSel) {}).state ++ zeros 2) ∧ TellsOnly s t) ∧
  (∀ (s : State) (i : Nat) (h : Hdr) (p : List Byte) (k : Nat) (d : List Byte), Ready s i 0x0503 h p → p = [BitVec.ofNat 8 k, 0, 0, 0] ++ d → k < 64 → d.length = 512 → s.dev.u.nv.commit = none → Model.check d = St.ok →
    Does (.modelLoad h p) s fun t => Started s t i 0x0503 h ∧ Commits t i h (.model k) 4 d) ∧
  (∀ (s : State) (i : Nat) (h : Hdr) (p : List Byte) (k : Nat) (d : List Byte), Ready s i 0x0503 h p → p = [BitVec.ofNat 8 k, 0, 0, 0] ++ d → k < 64 → d.length = 512 → s.dev.u.nv.commit = none → Model.check d ≠ St.ok →
    Does (.modelLoad h p) s fun t => Answered s t i 0x0503 h (Model.check d) [] ∧ TellsOnly s t) ∧
  (∀ (s : State) (i : Nat) (h : Hdr) (p : List Byte) (k : Nat) (d : List Byte), Ready s i 0x0504 h p → p = [BitVec.ofNat 8 k, 0, 0, 0] → k < 64 → modelAt s.dev.u.reco k = some d →
    Does (.modelRead h p) s fun t => Answered s t i 0x0504 h St.ok d ∧ TellsOnly s t) ∧
  (∀ (s : State) (i : Nat) (h : Hdr) (p : List Byte), Ready s i 0x0505 h p → p = zeros 4 ++ leBytes 4 779776 → s.dev.u.nv.commit = none →
    Does (.refLoad h p) s fun t => (Started s t i 0x0505 h ∧ TakesBulk s t i 0x0505 h 779776 ∧ Commits t i h (.reference false) 3 [])) ∧
  (∀ (s : State) (i : Nat) (h : Hdr) (p : List Byte) (d : List Byte), Ready s i 0x0506 h p → p = [1, 0, 0, 0] ++ leBytes 4 779776 → s.dev.u.reco.ref = some d → d.length = 779776 →
    Does (.refRead h p) s fun t => Started s t i 0x0506 h ∧ SendsBulk t i 0x0506 h d ∧ RegsKept [4, 5, 0x11] s t) ∧
  (∀ (s : State) (i : Nat) (h : Hdr) (p : List Byte), Ready s i 0x0506 h p → p = [1, 0, 0, 0] ++ leBytes 4 779776 → s.dev.u.reco.ref = none →
    Does (.refRead h p) s fun t => Answered s t i 0x0506 h St.noData [] ∧ TellsOnly s t) ∧
  (∀ (s : State) (i : Nat) (h : Hdr) (p : List Byte) (k id mr tr : Nat) (eps : List Byte), Ready s i 0x0507 h p → p = BitVec.ofNat 8 k :: zeros 3 ++ leBytes 4 id ++ eps ++ leBytes 2 mr ++ leBytes 2 tr → k ≤ 1 → 1 ≤ id → id < 2 ^ 32 → mr < 65536 → tr < 65536 → eps.length = 8 → (k = 0 → eps = zeros 8 ∧ mr = 0 ∧ tr = 0) → s.mode ∈ [1, 6] → (s.dev.u.reco.capture.map (·.done)).getD true = true →
    Does (.captureStart h p) s fun t => Answered s t i 0x0507 h St.ok [] ∧ t.dev.u.reco.capture = some { full := k == 1, refId := id, epsf := (List.range 4).map fun j => leAt eps (2 * j) 2, mref := mr, tref := tr, after := s.n64 R.TOMO_FSEQL R.TOMO_FSEQH, left := max 1 (s.fld F.REC_REFAVG_AVG) } ∧ RegsKept [4, 5, 0x11] s t) ∧
  (∀ (s : State) (i : Nat) (h : Hdr) (p : List Byte) (k id mr tr : Nat) (eps : List Byte), Ready s i 0x0507 h p → p = BitVec.ofNat 8 k :: zeros 3 ++ leBytes 4 id ++ eps ++ leBytes 2 mr ++ leBytes 2 tr → k = 1 → 1 ≤ id → id < 2 ^ 32 → mr < 65536 → tr < 65536 → eps.length = 8 → s.mode ∉ [1, 6] →
    Does (.captureStart h p) s fun t => Answered s t i 0x0507 h St.modeWrong [] ∧ TellsOnly s t) ∧
  (∀ (s : State) (i : Nat) (h : Hdr) (p : List Byte) (c : Capture), Ready s i 0x0508 h p → s.dev.u.nv.commit = none → s.dev.u.reco.capture = some c → c.done = true →
    Does (.captureEnd h p) s fun t => Started s t i 0x0508 h ∧ Commits t i h (.reference c.full) 4 (captureRef c s.dev.u.reco.ref (s.reg R.TOMO_GEOMID).toNat).1 ∧ t.dev.u.reco.capture = none) ∧
  (∀ (s : State) (i : Nat) (h : Hdr) (p : List Byte), Ready s i 0x0508 h p → s.dev.u.nv.commit = none → s.dev.u.reco.capture = none →
    Does (.captureEnd h p) s fun t => Answered s t i 0x0508 h St.captureNone [] ∧ TellsOnly s t) ∧
  (∀ (s : State) (i : Nat) (h : Hdr) (p : List Byte), Ready s i 0x0508 h p → s.dev.u.nv.commit = none → s.dev.u.reco.capture.map (·.done) = some false →
    Does (.captureEnd h p) s fun t => Answered s t i 0x0508 h St.capturePending [] ∧ TellsOnly s t) ∧
  (∀ (s : State) (i : Nat) (h : Hdr) (p : List Byte) (n lab old new : Nat) (pos : Int) (x : List Byte) (d : Int), Ready s i 0x0509 h p → p = BitVec.ofNat 8 n :: zeros 7 ++ leBytes 8 (ofSigned 64 pos) ++ leBytes 2 lab ++ zeros 6 → n < 16 → lab < 65536 → -(2 ^ 63) ≤ pos → pos < 2 ^ 63 → anchorParcel s.dev.u n pos (s.factor n) ((s.fld (F.PCL_LLEN_LLEN n) : Int) * 65536000) = some x → Pf.mlast.of x ≠ 0xFFFF → Pf.flags.of x &&& (pfGap ||| pfDisplaced) = 0 → (modelAt s.dev.u.reco (s.fld (F.REC_LCROP_TABLE n))).isSome = true → ((lab : Int) - Pf.mlast.of x).natAbs * 10 ≤ s.fld F.REC_ANCHMAX_MAX → old = s.fld (F.REC_LOFFS_OFFS n) → (s.fld F.REC_ANCHGAIN_GAIN : Int) * ((lab : Int) - Pf.mlast.of x) * 10 = 256 * d → -32768 ≤ toSigned 16 old + d → toSigned 16 old + d ≤ 32767 → new = ofSigned 16 (toSigned 16 old + d) → s.dev.u.reco.anchors.length = 16 →
    Does (.anchor h p) s fun t => PacketCounted s t i h ∧ t.fld (F.REC_LOFFS_OFFS n) = new ∧ t.fld (F.REC_LBOUND_BOUND n) = s.fld F.REC_ANCHU_U ∧ t.fld F.REC_STAT_ANCHOR = 1 ∧ t.dev.u.reco.anchors.getD n none = some ⟨s.dev.u.elapsed, toSigned 16 (s.fld (F.AFT_TEMP_TEMP 0)), toSigned 16 (s.fld (F.AFT_TEMP_TEMP 1)), none⟩ ∧ (∃ y ∈ (t.sess i).held, y.tag = tagOf h.tagw ∧ y.pkt.opcode = 0x0509 ∧ y.pkt.status = St.ok ∧ y.pkt.payload.take 8 = leBytes 4 (Pf.pid.of x) ++ leBytes 2 (Pf.mlast.of x) ++ leBytes 2 new) ∧ tagIn (t.sess i) (tagWord h) = none) ∧
  (∀ (s : State) (i : Nat) (h : Hdr) (p : List Byte) (n lab : Nat) (pos : Int), Ready s i 0x0509 h p → p = BitVec.ofNat 8 n :: zeros 7 ++ leBytes 8 (ofSigned 64 pos) ++ leBytes 2 lab ++ zeros 6 → n < 16 → lab < 65536 → -(2 ^ 63) ≤ pos → pos < 2 ^ 63 → anchorParcel s.dev.u n pos (s.factor n) ((s.fld (F.PCL_LLEN_LLEN n) : Int) * 65536000) = none →
    Does (.anchor h p) s fun t => Answered s t i 0x0509 h St.anchorNoparcel [] ∧ TellsOnly s t) ∧
  (∀ (s : State) (i : Nat) (h : Hdr) (p : List Byte) (n lab : Nat) (pos : Int) (x : List Byte), Ready s i 0x0509 h p → p = BitVec.ofNat 8 n :: zeros 7 ++ leBytes 8 (ofSigned 64 pos) ++ leBytes 2 lab ++ zeros 6 → n < 16 → lab < 65536 → -(2 ^ 63) ≤ pos → pos < 2 ^ 63 → anchorParcel s.dev.u n pos (s.factor n) ((s.fld (F.PCL_LLEN_LLEN n) : Int) * 65536000) = some x → Pf.mlast.of x ≠ 0xFFFF → Pf.flags.of x &&& (pfGap ||| pfDisplaced) = 0 → (modelAt s.dev.u.reco (s.fld (F.REC_LCROP_TABLE n))).isSome = true → s.fld F.REC_ANCHMAX_MAX < ((lab : Int) - Pf.mlast.of x).natAbs * 10 →
    Does (.anchor h p) s fun t => Answered s t i 0x0509 h St.anchorOutlier [] ∧ TellsOnly s t) ∧
  (∀ (s : State) (i : Nat) (h : Hdr) (p : List Byte) (q k : Nat) (m : MapRec), Ready s i 0x050A h p → p = leBytes 8 q → q < 2 ^ 64 → q ≠ 0 → s.dev.u.reco.ring.find? (fun x => x.2.mseq == q) = some (k, m) →
    Does (.mapSummary h p) s fun t => Answered s t i 0x050A h St.ok (mapHead m) ∧ TellsOnly s t) ∧
  (∀ (s : State) (i : Nat) (h : Hdr) (p : List Byte) (q : Nat), Ready s i 0x050A h p → p = leBytes 8 q → q < 2 ^ 64 → q ≠ 0 → (∀ x ∈ s.dev.u.reco.ring, x.2.mseq ≠ q) →
    Does (.mapSummary h p) s fun t => Answered s t i 0x050A h St.noData [] ∧ TellsOnly s t) ∧
  (∀ (s : State) (i : Nat) (h : Hdr) (p : List Byte) (q k f c mask : Nat) (m : MapRec), Ready s i 0x050B h p → p = [1, 0, 0, 0] ++ leBytes 4 (1024 + c * 2 * maskBits mask) ++ leBytes 8 q ++ leBytes 2 mask ++ zeros 2 ++ leBytes 4 f ++ leBytes 4 c → q < 2 ^ 64 → q ≠ 0 → 1 ≤ mask → mask < 4096 → 1 ≤ c → f + c ≤ m.vox.length → m.vox.length ≤ 8192 → s.dev.u.reco.ring.find? (fun x => x.2.mseq == q) = some (k, m) →
    Does (.mapRead h p) s fun t => Started s t i 0x050B h ∧ SendsBulk t i 0x050B h (mapHead m ++ ((m.vox.drop f).take c).flatMap (voxFields mask)) ∧ RegsKept [4, 5, 0x11] s t)

/-- The Ledger function. LOT_OPEN makes a lot in the lowest free slot; LOT_CLOSE, LOT_READ and LOT_WRITE act on a lot,
  PARCEL_READ and PARCEL_WRITE on a parcel: NOREC where there is none, LOCKED where another session holds its lock. LOCK takes
  or renews a lease, UNLOCK ends it or is NOT_HOLDER. PARCEL_DUMP and ARCH_READ send records. Completion (a next state with
  its own effect, for every state and operands that meet the conditions) is stated of: lotOpen, lotClose, lotRead, lotWrite,
  parcelRead, parcelWrite, lock, unlock, parcelDump, archRead. (R177, R188, R190, R192, R422, R423, R424, R425, R426, R427). -/
def Obligations.LedgerCommands : Prop :=
  (∀ (s : State) (i : Nat) (h : Hdr) (p : List Byte) (id tab crop k : Nat) (x : List Byte), Ready s i 0x0601 h p → p = leBytes 4 id ++ [BitVec.ofNat 8 tab, 0] ++ leBytes 2 crop ++ x → tab < 64 → id < 2 ^ 32 → crop < 65536 → x.length = 96 → k < 4096 → (∀ y ∈ s.dev.u.pcl.lots, y.1 ≠ k) → (∀ j ∈ List.range k, ∃ y ∈ s.dev.u.pcl.lots, y.1 = j) →
    Does (.lotOpen h p) s fun t => Answered s t i 0x0601 h St.ok (leBytes 2 k ++ zeros 2) ∧ (t.lot k).map (fun z => (Lf.lotid.of z, Lf.state.of z, Lf.table.of z, Lf.crop.of z, Lf.wtopen.of z, Lf.massin.of z, Lf.nlive.of z, slice z 0x18 96)) = some (id, 1, tab, crop, s.dev.u.wall % 2 ^ 64, 0, 0, x)) ∧
  (∀ (s : State) (i : Nat) (h : Hdr) (p : List Byte) (k : Nat) (lr : List Byte), Ready s i 0x0602 h p → p = leBytes 2 k ++ zeros 2 → k < 4096 → s.dev.u.pcl.fieldLocks = [] → (s.dev.u.pcl.lots.find? fun x => x.1 = k) = some (k, lr) → (∀ l ∈ lockHeld s.dev.u false k, l.holder = i) → Lf.state.of lr = 1 → Lf.nlive.of lr ≠ 0 → lr.length = 256 →
    Does (.lotClose h p) s fun t => Answered s t i 0x0602 h St.ok [] ∧ (t.lot k).map (fun z => (Lf.state.of z, Lf.wtclose.of z, Lf.nlive.of z)) = some (2, s.dev.u.wall % 2 ^ 64, Lf.nlive.of lr)) ∧
  (∀ (s : State) (i : Nat) (h : Hdr) (p : List Byte) (k : Nat) (lr : List Byte), Ready s i 0x0602 h p → p = leBytes 2 k ++ zeros 2 → k < 4096 → s.dev.u.pcl.fieldLocks = [] → (s.dev.u.pcl.lots.find? fun x => x.1 = k) = some (k, lr) → Lf.state.of lr ≠ 1 →
    Does (.lotClose h p) s fun t => Answered s t i 0x0602 h St.norec [] ∧ TellsOnly s t) ∧
  (∀ (s : State) (i : Nat) (h : Hdr) (p : List Byte) (k : Nat) (lr : List Byte), Ready s i 0x0603 h p → p = leBytes 2 k ++ zeros 2 → k < 4096 → s.dev.u.pcl.fieldLocks = [] → (s.dev.u.pcl.lots.find? fun x => x.1 = k) = some (k, lr) → (∀ l ∈ lockHeld s.dev.u false k, l.holder = i) →
    Does (.lotRead h p) s fun t => Answered s t i 0x0603 h St.ok lr ∧ t.dev.u.pcl = { s.dev.u.pcl with hostTook := t.dev.u.pcl.hostTook } ∧ TellsOnly { s with dev := { s.dev with u := { s.dev.u with pcl := t.dev.u.pcl } } } t) ∧
  (∀ (s : State) (i : Nat) (h : Hdr) (p : List Byte) (k : Nat) (lr : List Byte), Ready s i 0x0603 h p → p = leBytes 2 k ++ zeros 2 → k < 4096 → s.dev.u.pcl.fieldLocks = [] → (s.dev.u.pcl.lots.find? fun x => x.1 = k) = some (k, lr) → (∃ l ∈ lockHeld s.dev.u false k, l.holder ≠ i) →
    Does (.lotRead h p) s fun t => Answered s t i 0x0603 h St.locked [] ∧ TellsOnly s t) ∧
  (∀ (s : State) (i : Nat) (h : Hdr) (p : List Byte) (k : Nat), Ready s i 0x0603 h p → p = leBytes 2 k ++ zeros 2 → k < 4096 → (s.dev.u.pcl.lots.find? fun x => x.1 = k) = none →
    Does (.lotRead h p) s fun t => Answered s t i 0x0603 h St.norec [] ∧ TellsOnly s t) ∧
  (∀ (s : State) (i : Nat) (h : Hdr) (p : List Byte) (k o n : Nat) (lr d : List Byte), Ready s i 0x0604 h p → p = leBytes 2 k ++ leBytes 2 o ++ leBytes 2 n ++ zeros 2 ++ d → k < 4096 → s.dev.u.pcl.fieldLocks = [] → (s.dev.u.pcl.lots.find? fun x => x.1 = k) = some (k, lr) → 1 ≤ n → n ≤ 256 → d.length = n → o < 256 → lr.length = 256 → (∀ l ∈ lockHeld s.dev.u false k, l.holder = i) → (∀ j ∈ List.range n, o + j < 4 ∨ (5 ≤ o + j ∧ o + j < 8) ∨ (0x18 ≤ o + j ∧ o + j < 0x78) ∨ (0x98 ≤ o + j ∧ o + j < 0x100)) →
    Does (.lotWrite h p) s fun t => Answered s t i 0x0604 h St.ok [] ∧ t.lot k = some (lotTouch (patch lr o d)) ∧ RegsKept [4, 5, 0x11] s t) ∧
  (∀ (s : State) (i : Nat) (h : Hdr) (p : List Byte) (k o n : Nat) (lr d : List Byte), Ready s i 0x0604 h p → p = leBytes 2 k ++ leBytes 2 o ++ leBytes 2 n ++ zeros 2 ++ d → k < 4096 → s.dev.u.pcl.fieldLocks = [] → (s.dev.u.pcl.lots.find? fun x => x.1 = k) = some (k, lr) → 1 ≤ n → n ≤ 256 → d.length = n → o < 65536 → (∃ j ∈ List.range n, o + j = 4 ∨ (8 ≤ o + j ∧ o + j < 0x18) ∨ (0x78 ≤ o + j ∧ o + j < 0x98) ∨ 0x100 ≤ o + j) →
    Does (.lotWrite h p) s fun t => Answered s t i 0x0604 h St.badParam [] ∧ TellsOnly s t) ∧
  (∀ (s : State) (i : Nat) (h : Hdr) (p : List Byte) (pid : Nat) (x : List Byte), Ready s i 0x0605 h p → p = leBytes 4 pid → pid < 2 ^ 32 → s.dev.u.pcl.fieldLocks = [] → parcelAt s.dev.u pid = some x → (∀ l ∈ lockHeld s.dev.u true pid, l.holder = i) →
    Does (.parcelRead h p) s fun t => Answered s t i 0x0605 h St.ok x ∧ t.dev.u.pcl = { s.dev.u.pcl with hostTook := t.dev.u.pcl.hostTook } ∧ TellsOnly { s with dev := { s.dev with u := { s.dev.u with pcl := t.dev.u.pcl } } } t) ∧
  (∀ (s : State) (i : Nat) (h : Hdr) (p : List Byte) (pid : Nat), Ready s i 0x0605 h p → p = leBytes 4 pid → pid < 2 ^ 32 → parcelAt s.dev.u pid = none →
    Does (.parcelRead h p) s fun t => Answered s t i 0x0605 h St.norec [] ∧ TellsOnly s t) ∧
  (∀ (s : State) (i : Nat) (h : Hdr) (p : List Byte) (pid v : Nat) (x : List Byte), Ready s i 0x0606 h p → p = leBytes 4 pid ++ [2, 0] ++ zeros 2 ++ leBytes 2 v ++ zeros 2 → v < 65536 → pid < 2 ^ 32 → s.dev.u.pcl.fieldLocks = [] → parcelAt s.dev.u pid = some x → (∀ l ∈ lockHeld s.dev.u true pid, l.holder = i) →
    Does (.parcelWrite h p) s fun t => Answered s t i 0x0606 h St.ok [] ∧ t.dev.u.pcl.parcels = s.dev.u.pcl.parcels.map (fun y => if Pf.pid.of y = pid then parcelTouch (Pf.snode.put (Pf.sample.put y v) 0xFF) else y)) ∧
  (∀ (s : State) (i : Nat) (h : Hdr) (p : List Byte) (pid v : Nat) (x : List Byte), Ready s i 0x0606 h p → p = leBytes 4 pid ++ [1, 0] ++ leBytes 2 v ++ zeros 4 → v < 4096 → Pf.lot.of x = v → pid < 2 ^ 32 → s.dev.u.pcl.fieldLocks = [] → parcelAt s.dev.u pid = some x → (∀ l ∈ lockHeld s.dev.u true pid, l.holder = i) →
    Does (.parcelWrite h p) s fun t => Answered s t i 0x0606 h St.ok [] ∧ t.dev.u.pcl.parcels = s.dev.u.pcl.parcels.map (fun y => if Pf.pid.of y = pid then parcelTouch (Pf.lot.put y v) else y)) ∧
  (∀ (s : State) (i : Nat) (h : Hdr) (p : List Byte) (pid : Nat) (x : List Byte), Ready s i 0x0607 h p → p = [1] ++ zeros 3 ++ leBytes 4 pid → pid < 2 ^ 32 → s.dev.u.pcl.fieldLocks = [] → parcelAt s.dev.u pid = some x → (∀ l ∈ lockHeld s.dev.u true pid, l.holder = i) →
    Does (.lock h p) s fun t => Answered s t i 0x0607 h St.ok (leBytes 2 (max 1 (s.fld F.PCL_LEASE_LEASE)) ++ zeros 2) ∧ t.dev.u.pcl = { s.dev.u.pcl with hostTook := t.dev.u.pcl.hostTook, locks := s.dev.u.pcl.locks.filter (fun l => ¬ (l.parcel = true ∧ l.key = pid)) ++ [⟨true, pid, i, s.dev.u.elapsed + max 1 (s.fld F.PCL_LEASE_LEASE) * 1000000⟩] } ∧ RegsKept [4, 5, 0x11] s t) ∧
  (∀ (s : State) (i : Nat) (h : Hdr) (p : List Byte) (pid : Nat) (x : List Byte), Ready s i 0x0607 h p → p = [1] ++ zeros 3 ++ leBytes 4 pid → pid < 2 ^ 32 → s.dev.u.pcl.fieldLocks = [] → parcelAt s.dev.u pid = some x → (∃ l ∈ lockHeld s.dev.u true pid, l.holder ≠ i) →
    Does (.lock h p) s fun t => Answered s t i 0x0607 h St.locked [] ∧ TellsOnly s t) ∧
  (∀ (s : State) (i : Nat) (h : Hdr) (p : List Byte) (pid : Nat) (x : List Byte), Ready s i 0x0608 h p → p = [1] ++ zeros 3 ++ leBytes 4 pid → pid < 2 ^ 32 → s.dev.u.pcl.fieldLocks = [] → parcelAt s.dev.u pid = some x → (∃ l ∈ lockHeld s.dev.u true pid, l.holder = i) →
    Does (.unlock h p) s fun t => Answered s t i 0x0608 h St.ok [] ∧ lockHeld t.dev.u true pid = none) ∧
  (∀ (s : State) (i : Nat) (h : Hdr) (p : List Byte) (pid : Nat), Ready s i 0x0608 h p → p = [1] ++ zeros 3 ++ leBytes 4 pid → pid < 2 ^ 32 → (∀ l ∈ lockHeld s.dev.u true pid, l.holder ≠ i) →
    Does (.unlock h p) s fun t => Answered s t i 0x0608 h St.notHolder [] ∧ TellsOnly s t) ∧
  (∀ (s : State) (i : Nat) (h : Hdr) (p : List Byte) (n c : Nat), Ready s i 0x0609 h p → p = [1, 0, 0, 0] ++ leBytes 4 (128 * c) ++ [BitVec.ofNat 8 n, 0, 0, 0] ++ leBytes 4 c → n < 16 → 1 ≤ c → c ≤ 65536 →
    Does (.parcelDump h p) s fun t => Started s t i 0x0609 h ∧ SendsBulk t i 0x0609 h (padTo (128 * c) ((laneParcels s.dev.u n).take c).flatten) ∧ RegsKept [4, 5, 0x11] s t) ∧
  (∀ (s : State) (i : Nat) (h : Hdr) (p : List Byte) (a c : Nat), Ready s i 0x060A h p → p = [1, 0, 0, 0] ++ leBytes 4 (128 * c) ++ leBytes 4 a ++ leBytes 4 c → a < 15625000 → 1 ≤ c → c ≤ 15625000 →
    Does (.archRead h p) s fun t => Started s t i 0x060A h ∧ SendsBulk t i 0x060A h ((List.range c).flatMap fun k => archEntry s.dev.u ((a + k) % 15625000)) ∧ RegsKept [4, 5, 0x11] s t)

/-- The Residence Planner and Control functions. PLAN_STATUS answers the count of planner runs and the sixteen lane entries,
  TRACE_INFO the trace state; TRACE_READ sends trace samples; FTABLE_LOAD stores 512 entries of a friction and cogging table
  half, which FTABLE_READ answers; other table numbers are BAD_PARAM. Completion (a next state with its own effect, for every
  state and operands that meet the conditions) is stated of: planStatus, traceInfo, traceRead, ftableLoad, ftableRead. (R236,
  R242, R428, R429, R430, R431). -/
def Obligations.PlannerAndControlCommands : Prop :=
  (∀ (s : State) (i : Nat) (h : Hdr) (p : List Byte), Ready s i 0x0701 h p →
    Does (.planStatus h p) s fun t => Answered s t i 0x0701 h St.ok (leBytes 4 s.dev.u.pcl.runs ++ zeros 4 ++ (List.range 16).flatMap fun n => leBytes 2 (s.reg (R.PCL_LSTAT n)).toNat ++ leBytes 2 (s.reg (R.PCL_VSET n)).toNat ++ leBytes 2 (s.reg (R.PCL_LPRED n)).toNat ++ leBytes 2 (s.reg (R.PCL_LNLIVE n)).toNat ++ leBytes 4 (s.reg (R.PCL_LEADPID n)).toNat) ∧ TellsOnly s t) ∧
  (∀ (s : State) (i : Nat) (h : Hdr) (p : List Byte), Ready s i 0x0801 h p →
    Does (.traceInfo h p) s fun t => Answered s t i 0x0801 h St.ok (leBytes 2 (s.reg (R.LOOP_TRCSTAT)).toNat ++ zeros 2 ++ (List.range 8).flatMap fun c => leBytes 2 (s.reg (R.LOOP_TRCTRIG c)).toNat ++ leBytes 2 (s.reg (R.LOOP_TRCWR c)).toNat) ∧ TellsOnly s t) ∧
  (∀ (s : State) (i : Nat) (h : Hdr) (p : List Byte) (c e n : Nat), Ready s i 0x0802 h p → p = [1, 0, 0, 0] ++ leBytes 4 (4 * n) ++ [BitVec.ofNat 8 c, 0] ++ leBytes 2 e ++ leBytes 4 n → c < 8 → e < 65536 → 1 ≤ n → n ≤ 65536 →
    Does (.traceRead h p) s fun t => Started s t i 0x0802 h ∧ SendsBulk t i 0x0802 h ((List.range n).flatMap fun k => leBytes 4 (traceEntry s.dev.u.loop c ((e + k) % 65536)).toNat) ∧ RegsKept [4, 5, 0x11] s t) ∧
  (∀ (s : State) (i : Nat) (h : Hdr) (p : List Byte) (k hf e : Nat) (d : List Byte), Ready s i 0x0803 h p → p = [BitVec.ofNat 8 k, BitVec.ofNat 8 hf, 0, 0] ++ d → k < 16 → hf < 2 → d.length = 1024 → e < 512 →
    Does (.ftableLoad h p) s fun t => Answered s t i 0x0803 h St.ok [] ∧ ftEntry t.dev.u.loop (k * 1024 + 512 * hf + e) = leAt d (2 * e) 2) ∧
  (∀ (s : State) (i : Nat) (h : Hdr) (p : List Byte), Ready s i 0x0803 h p → (16 ≤ leAt p 0 1 ∨ 2 ≤ leAt p 1 1) →
    Does (.ftableLoad h p) s fun t => Answered s t i 0x0803 h St.badParam [] ∧ TellsOnly s t) ∧
  (∀ (s : State) (i : Nat) (h : Hdr) (p : List Byte) (k hf : Nat), Ready s i 0x0804 h p → p = [BitVec.ofNat 8 k, BitVec.ofNat 8 hf, 0, 0] → k < 16 → hf < 2 →
    Does (.ftableRead h p) s fun t => Answered s t i 0x0804 h St.ok ((List.range 512).flatMap fun e => leBytes 2 (ftEntry s.dev.u.loop (k * 1024 + 512 * hf + e))) ∧ TellsOnly s t)

/-- The Drive and Field inputs functions. DRIVE_STATUS answers the 32 valve and eight blower entries, zeros for a channel
  whose domain is off, and clears the RC bits of CSTAT; FAULT_CLEAR clears the latched faults of the channels selected;
  INPUT_READ answers result, raw value, insulation and lead of each input; LIN_LOAD commits a table that passes its checks;
  SINE_PASS asks for a pass in SERVICE only. Completion (a next state with its own effect, for every state and operands that
  meet the conditions) is stated of: driveStatus, faultClear, inputRead, linLoad, linRead, sinePass. (R36, R274, R289, R315,
  R326, R432, R433, R434, R435). -/
def Obligations.DriveAndInputCommands : Prop :=
  (∀ (s : State) (i : Nat) (h : Hdr) (p : List Byte), Ready s i 0x0901 h p →
    Does (.driveStatus h p) s fun t => Answered s t i 0x0901 h St.ok (((List.range 32).flatMap fun n => (if s.fld (domField (88 + n)) = 1 then leBytes 2 (s.reg (R.VDRV_CSTAT n)).toNat else zeros 2) ++ (if s.fld (domField (88 + n)) = 1 then leBytes 1 (s.fld (F.VDRV_FAULT_CODE n)) ++ leBytes 1 (s.fld (F.VDRV_FAULT_LEG n)) else zeros 2) ++ (if s.fld (domField (88 + n)) = 1 then leBytes 2 (s.reg (R.VDRV_MEAS n)).toNat else zeros 2) ++ (if s.fld (domField (88 + n)) = 1 then leBytes 2 ((s.reg (R.VDRV_MEAS n)).toNat / 65536) else zeros 2) ++ (if s.fld (domField (88 + n)) = 1 then leBytes 2 (s.reg (R.VDRV_TW n)).toNat else zeros 2) ++ (if s.fld (domField (88 + n)) = 1 then leBytes 2 ((s.reg (R.VDRV_TW n)).toNat / 65536) else zeros 2) ++ (if s.fld (domField (88 + n)) = 1 then leBytes 2 (s.reg (R.VDRV_CLOSET n)).toNat else zeros 2) ++ (if s.fld (domField (88 + n)) = 1 then leBytes 2 (s.reg (R.VDRV_RMEAS n)).toNat else zeros 2)) ++ (List.range 8).flatMap fun n => (if s.fld (domField (120 + n)) = 1 then leBytes 2 (s.reg (R.FAN_CSTAT n)).toNat else zeros 2) ++ (if s.fld (domField (120 + n)) = 1 then leBytes 1 (s.reg (R.FAN_FAULT n)).toNat else zeros 1) ++ zeros 1 ++ (if s.fld (domField (120 + n)) = 1 then leBytes 2 (s.reg (R.FAN_APPLIED n)).toNat else zeros 2) ++ (if s.fld (domField (120 + n)) = 1 then leBytes 2 ((s.reg (R.FAN_APPLIED n)).toNat / 65536) else zeros 2) ++ (if s.fld (domField (120 + n)) = 1 then leBytes 2 (s.reg (R.FAN_SPEED n)).toNat else zeros 2) ++ (if s.fld (domField (120 + n)) = 1 then leBytes 2 (s.reg (R.FAN_MEAS n)).toNat else zeros 2) ++ (if s.fld (domField (120 + n)) = 1 then leBytes 2 ((s.reg (R.FAN_MEAS n)).toNat / 65536) else zeros 2) ++ (if s.fld (domField (120 + n)) = 1 then leBytes 2 (s.reg (R.FAN_STRETCH n)).toNat else zeros 2)) ∧ RegsKept [4, 5, 0xE, 0xF, 0x11] s t ∧ t.dev.u.vdrv = s.dev.u.vdrv ∧ t.dev.u.fan = s.dev.u.fan) ∧
  (∀ (s : State) (i : Nat) (h : Hdr) (p : List Byte) (vm fm n k : Nat), Ready s i 0x0902 h p → p = leBytes 4 vm ++ leBytes 1 fm ++ zeros 3 → vm < 2 ^ 32 → fm < 256 → n < 32 → k < 8 → bitAt vm n = true → s.powered (88 + n) → Unpaired s n → bitAt fm k = true → s.powered (120 + k) →
    Does (.faultClear h p) s fun t => Answered s t i 0x0902 h St.ok [] ∧ t.fld (F.VDRV_FAULT_CODE n) = 0 ∧ t.fld (F.FAN_FAULT_CODE k) = 0 ∧ bitAt (t.reg R.FAN_FLTMAP).toNat k = (if s.fld (F.FAN_FAULT_CODE k) = 0 then bitAt (s.reg R.FAN_FLTMAP).toNat k else false) ∧ (∀ j ∈ List.range 8, bitAt fm j = false → t.fld (F.FAN_FAULT_CODE j) = s.fld (F.FAN_FAULT_CODE j))) ∧
  (∀ (s : State) (i : Nat) (h : Hdr) (p : List Byte) (a n : Nat), Ready s i 0x0A01 h p → p = [BitVec.ofNat 8 a, BitVec.ofNat 8 n, 0, 0] → 1 ≤ n → n ≤ 112 → a + n ≤ 224 →
    Does (.inputRead h p) s fun t => Answered s t i 0x0A01 h St.ok ((List.range n).flatMap fun k => leBytes 4 (s.reg (R.AFF_IRES (a + k))).toNat ++ leBytes 4 (s.reg (R.AFF_IRAW (a + k))).toNat ++ (if a + k < 192 then leBytes 2 (s.reg (R.AFF_IINS (a + k))).toNat ++ leBytes 2 (s.reg (R.AFF_ILEAD (a + k))).toNat else zeros 4)) ∧ TellsOnly s t) ∧
  (∀ (s : State) (i : Nat) (h : Hdr) (p : List Byte) (a n : Nat), Ready s i 0x0A01 h p → p = [BitVec.ofNat 8 a, BitVec.ofNat 8 n, 0, 0] → a < 256 → n < 256 → (n = 0 ∨ 112 < n ∨ 224 < a + n) →
    Does (.inputRead h p) s fun t => Answered s t i 0x0A01 h St.badParam [] ∧ TellsOnly s t) ∧
  (∀ (s : State) (i : Nat) (h : Hdr) (p : List Byte) (k : Nat) (d : List Byte), Ready s i 0x0A02 h p → p = [BitVec.ofNat 8 k, 0, 0, 0] ++ d → k < 64 → d.length = 128 → s.dev.u.nv.commit = none → linCheck d = St.ok →
    Does (.linLoad h p) s fun t => Started s t i 0x0A02 h ∧ Commits t i h (.linearisation k) 4 d) ∧
  (∀ (s : State) (i : Nat) (h : Hdr) (p : List Byte) (k : Nat) (d : List Byte), Ready s i 0x0A02 h p → p = [BitVec.ofNat 8 k, 0, 0, 0] ++ d → k < 64 → d.length = 128 → s.dev.u.nv.commit = none → linCheck d ≠ St.ok →
    Does (.linLoad h p) s fun t => Answered s t i 0x0A02 h (linCheck d) [] ∧ TellsOnly s t) ∧
  (∀ (s : State) (i : Nat) (h : Hdr) (p : List Byte) (k : Nat) (d : List Byte), Ready s i 0x0A03 h p → p = [BitVec.ofNat 8 k, 0, 0, 0] → k < 64 → linAt s.dev.u.aff k = some d →
    Does (.linRead h p) s fun t => Answered s t i 0x0A03 h St.ok d ∧ TellsOnly s t) ∧
  (∀ (s : State) (i : Nat) (h : Hdr) (p : List Byte), Ready s i 0x0A04 h p → s.mode = 6 → s.dev.u.aff.sine = false → s.dev.u.aff.sineReq = false →
    Does (.sinePass h p) s fun t => Answered s t i 0x0A04 h St.ok [] ∧ t.dev.u.aff = { s.dev.u.aff with sineReq := true } ∧ RegsKept [4, 5, 0x11] s t) ∧
  (∀ (s : State) (i : Nat) (h : Hdr) (p : List Byte), Ready s i 0x0A04 h p → s.mode = 6 → (s.dev.u.aff.sine = true ∨ s.dev.u.aff.sineReq = true) →
    Does (.sinePass h p) s fun t => Answered s t i 0x0A04 h St.actionBusy [] ∧ TellsOnly s t) ∧
  (∀ (s : State) (i : Nat) (h : Hdr) (p : List Byte), Ready s i 0x0A04 h p → s.mode ≠ 6 →
    Does (.sinePass h p) s fun t => Answered s t i 0x0A04 h St.modeWrong [] ∧ TellsOnly s t)

/-- The Aeration and Field bus functions. AER_BIN sets a bin's cable, fan object and thresholds and enables it, FB_OBJ for no
  object; AER_STATUS and BUS_STATUS answer the entries; BUS_RECOVER starts the recovery of a bus that is off, or is
  FB_NOTBUSOFF; OBJ_WRITE writes an object's first bytes and marks it pending when one changes. Completion (a next state with
  its own effect, for every state and operands that meet the conditions) is stated of: aerBin, aerStatus, busStatus,
  busRecover, objWrite. (R436, R437, R438, R481, R491). -/
def Obligations.AerationAndBusCommands : Prop :=
  (∀ (s : State) (i : Nat) (h : Hdr) (p : List Byte) (n en f c am o v m : Nat) (on off : Int), Ready s i 0x0B01 h p → p = [BitVec.ofNat 8 n, BitVec.ofNat 8 en, BitVec.ofNat 8 f, BitVec.ofNat 8 c, BitVec.ofNat 8 am, 0] ++ leBytes 2 o ++ leBytes 2 (ofSigned 16 on) ++ leBytes 2 (ofSigned 16 off) ++ leBytes 2 v ++ leBytes 2 m → n < 16 → en ≤ 1 → 1 ≤ c → c ≤ 32 → f + c ≤ 192 → am < 224 → v < 65536 → m < 65536 → -32768 ≤ off → off < on → on < 32768 → o < 256 → 2 ≤ dlcLen (s.fld (F.FLD_TXCFG_FDF o) = 1) (s.fld (F.FLD_TXCFG_DLC o)) → s.dev.u.aer.length = 16 →
    Does (.aerBin h p) s fun t => Answered s t i 0x0B01 h St.ok [] ∧ t.dev.u.aer = setAt s.dev.u.aer n { s.dev.u.aer.getD n {} with en := en == 1, first := f, nodes := c, ambient := am, fan := o, dton := on, dtoff := off, run := v, shortest := m, state := if en = 1 then (if (s.dev.u.aer.getD n {}).en then (s.dev.u.aer.getD n {}).state else 1) else 0 } ∧ RegsKept [4, 5, 0x11] s t) ∧
  (∀ (s : State) (i : Nat) (h : Hdr) (p : List Byte) (n en f c am o v m : Nat) (on off : Int), Ready s i 0x0B01 h p → p = [BitVec.ofNat 8 n, BitVec.ofNat 8 en, BitVec.ofNat 8 f, BitVec.ofNat 8 c, BitVec.ofNat 8 am, 0] ++ leBytes 2 o ++ leBytes 2 (ofSigned 16 on) ++ leBytes 2 (ofSigned 16 off) ++ leBytes 2 v ++ leBytes 2 m → n < 16 → en ≤ 1 → 1 ≤ c → c ≤ 32 → f + c ≤ 192 → am < 224 → v < 65536 → m < 65536 → -32768 ≤ off → off < on → on < 32768 → 256 ≤ o → o < 65536 →
    Does (.aerBin h p) s fun t => Answered s t i 0x0B01 h St.fbObj [] ∧ TellsOnly s t) ∧
  (∀ (s : State) (i : Nat) (h : Hdr) (p : List Byte), Ready s i 0x0B01 h p → (leAt p 0 1 ≥ 16 ∨ 192 < leAt p 2 1 + leAt p 3 1 ∨ toSigned 16 (leAt p 8 2) ≤ toSigned 16 (leAt p 10 2)) →
    Does (.aerBin h p) s fun t => Answered s t i 0x0B01 h St.badParam [] ∧ TellsOnly s t) ∧
  (∀ (s : State) (i : Nat) (h : Hdr) (p : List Byte), Ready s i 0x0B02 h p → s.dev.u.aer.length = 16 → (∀ z ∈ s.dev.u.aer, z.valid ≠ 0) →
    Does (.aerStatus h p) s fun t => Answered s t i 0x0B02 h St.ok (s.dev.u.aer.flatMap fun z => leBytes 1 z.state ++ leBytes 1 z.valid ++ leBytes 2 (ofSigned 16 z.high) ++ leBytes 2 (ofSigned 16 z.amb) ++ leBytes 2 (min 0xFFFF ((if z.state = 2 then z.ran + (s.dev.u.elapsed - z.since) else z.ran) / 60000000000))) ∧ TellsOnly s t) ∧
  (∀ (s : State) (i : Nat) (h : Hdr) (p : List Byte), Ready s i 0x0C01 h p →
    Does (.busStatus h p) s fun t => Answered s t i 0x0C01 h St.ok ((List.range 4).flatMap fun n => leBytes 1 (s.fld (F.FLD_BSTAT_STATE n)) ++ leBytes 1 (s.fld (F.NET_LSTAT_ACTIVE (n + 1))) ++ leBytes 1 (min 255 (s.fld (F.FLD_BECNT_TEC n))) ++ leBytes 1 (s.fld (F.FLD_BECNT_REC n)) ++ leBytes 4 (s.reg (R.FLD_OKCNT n)).toNat ++ leBytes 4 (s.reg (R.FLD_FAILCNT n)).toNat ++ leBytes 4 (s.reg (R.FLD_RXCNT n)).toNat) ∧ TellsOnly s t) ∧
  (∀ (s : State) (i : Nat) (h : Hdr) (p : List Byte) (n : Nat), Ready s i 0x0C02 h p → p = [BitVec.ofNat 8 n, 0, 0, 0] → n < 4 → s.fld (F.FLD_BSTAT_STATE n) = 2 → (s.bus n).recover = none → s.dev.u.fld.buses.length = 4 →
    Does (.busRecover h p) s fun t => Answered s t i 0x0C02 h St.ok [] ∧ (t.bus n).recover = some s.dev.u.elapsed ∧ t.fld (F.FLD_BSTAT_RECOVERING n) = 1 ∧ t.fld (F.FLD_BSTAT_STATE n) = 2) ∧
  (∀ (s : State) (i : Nat) (h : Hdr) (p : List Byte) (n : Nat), Ready s i 0x0C02 h p → p = [BitVec.ofNat 8 n, 0, 0, 0] → n < 4 → s.fld (F.FLD_BSTAT_STATE n) ≠ 2 →
    Does (.busRecover h p) s fun t => Answered s t i 0x0C02 h St.fbNotbusoff [] ∧ TellsOnly s t) ∧
  (∀ (s : State) (i : Nat) (h : Hdr) (p : List Byte) (o n : Nat) (d : List Byte), Ready s i 0x0C03 h p → p = leBytes 2 o ++ [BitVec.ofNat 8 n, 0] ++ d → o < 256 → n ≤ 64 → d.length = n → n ≤ dlcLen (s.fld (F.FLD_TXCFG_FDF o) = 1) (s.fld (F.FLD_TXCFG_DLC o)) →
    Does (.objWrite h p) s fun t => Answered s t i 0x0C03 h St.ok [] ∧ ((List.range 16).flatMap fun k => leBytes 4 (t.reg (R.FLD_TXDATA o k)).toNat) = d ++ ((List.range 16).flatMap fun k => leBytes 4 (s.reg (R.FLD_TXDATA o k)).toNat).drop n ∧ (((List.range 16).flatMap fun k => leBytes 4 (t.reg (R.FLD_TXDATA o k)).toNat) ≠ ((List.range 16).flatMap fun k => leBytes 4 (s.reg (R.FLD_TXDATA o k)).toNat) → t.fld (F.FLD_TXSTAT_PEND o) = 1) ∧ (((List.range 16).flatMap fun k => leBytes 4 (t.reg (R.FLD_TXDATA o k)).toNat) = ((List.range 16).flatMap fun k => leBytes 4 (s.reg (R.FLD_TXDATA o k)).toNat) → t.fld (F.FLD_TXSTAT_PEND o) = s.fld (F.FLD_TXSTAT_PEND o))) ∧
  (∀ (s : State) (i : Nat) (h : Hdr) (p : List Byte) (o n : Nat) (d : List Byte), Ready s i 0x0C03 h p → p = leBytes 2 o ++ [BitVec.ofNat 8 n, 0] ++ d → o < 256 → n ≤ 64 → d.length = n → dlcLen (s.fld (F.FLD_TXCFG_FDF o) = 1) (s.fld (F.FLD_TXCFG_DLC o)) < n →
    Does (.objWrite h p) s fun t => Answered s t i 0x0C03 h St.badParam [] ∧ TellsOnly s t) ∧
  (∀ (s : State) (i : Nat) (h : Hdr) (p : List Byte) (o n : Nat) (d : List Byte), Ready s i 0x0C03 h p → p = leBytes 2 o ++ [BitVec.ofNat 8 n, 0] ++ d → 256 ≤ o → o < 65536 → n ≤ 64 → d.length = n →
    Does (.objWrite h p) s fun t => Answered s t i 0x0C03 h St.fbObj [] ∧ TellsOnly s t)

/-- The Paths function: verdicts, the Shuffle and the path state. A verdict is taken only from the Dealer, and only with a
  number later than the last: it is recorded, and a failed one on the active path asks for a switch-over, shows NOPATH where
  the standby failed too, and is held while the link switches. SHUFFLE_NOW asks for a switch-over, is skipped for a failed
  standby, and is ACTION_BUSY while the link switches. A verdict accepted while RT1 is down waits for it (assumption log 72).
  Completion (a next state with its own effect, for every state and operands that meet the conditions) is stated of: verdict,
  pathStatus, shuffleNow. (R29, R439, R509, R510, R511, R512, R518). -/
def Obligations.PathCommands : Prop :=
  (∀ (s : State) (i : Nat) (h : Hdr) (p : List Byte) (l a f n : Nat), Ready s i 0x0D01 h p → p = [BitVec.ofNat 8 l, BitVec.ofNat 8 a, BitVec.ofNat 8 f, 0] ++ leBytes 4 n → l < 5 → a ≤ 1 → f ≤ 1 → n < 2 ^ 32 → s.fld F.NET_DEALER_KIND = 1 → s.fld F.NET_DEALER_SLOT = (s.sess i).slot → (s.sess i).observer = false → s.dev.u.net.links.length = 6 → s.fld (F.NET_LSTAT_SWITCHING l) = 0 → (s.dev.u.net.links.getD l {}).want = false → laterThan n (s.reg (R.NET_VNUM l)).toNat = true → f = 1 → a = s.fld (F.NET_LSTAT_ACTIVE l) → (if s.fld (F.NET_LSTAT_ACTIVE l) = 0 then s.fld (F.NET_LSTAT_VB l) else s.fld (F.NET_LSTAT_VA l)) ≠ 2 → CoreUp s 5 →
    Does (.verdict h p) s fun t => PacketCounted s t i h ∧ (∃ x ∈ (t.sess i).held, x.tag = tagOf h.tagw ∧ x.pkt.opcode = 0x0D01 ∧ x.pkt.status = St.ok) ∧ tagIn (t.sess i) (tagWord h) = none ∧ (if a = 0 then t.fld (F.NET_LSTAT_VA l) else t.fld (F.NET_LSTAT_VB l)) = 1 + f ∧ (t.reg (R.NET_VNUM l)).toNat = n ∧ (t.dev.u.net.links.getD l {}).want = true) ∧
  (∀ (s : State) (i : Nat) (h : Hdr) (p : List Byte) (l a f n : Nat), Ready s i 0x0D01 h p → p = [BitVec.ofNat 8 l, BitVec.ofNat 8 a, BitVec.ofNat 8 f, 0] ++ leBytes 4 n → l < 5 → a ≤ 1 → f ≤ 1 → n < 2 ^ 32 → s.fld F.NET_DEALER_KIND = 1 → s.fld F.NET_DEALER_SLOT = (s.sess i).slot → (s.sess i).observer = false → s.dev.u.net.links.length = 6 → s.fld (F.NET_LSTAT_SWITCHING l) = 0 → (s.dev.u.net.links.getD l {}).want = false → laterThan n (s.reg (R.NET_VNUM l)).toNat = true → f = 1 → a = s.fld (F.NET_LSTAT_ACTIVE l) → (if s.fld (F.NET_LSTAT_ACTIVE l) = 0 then s.fld (F.NET_LSTAT_VB l) else s.fld (F.NET_LSTAT_VA l)) = 2 → CoreUp s 5 →
    Does (.verdict h p) s fun t => PacketCounted s t i h ∧ (∃ x ∈ (t.sess i).held, x.tag = tagOf h.tagw ∧ x.pkt.opcode = 0x0D01 ∧ x.pkt.status = St.ok) ∧ tagIn (t.sess i) (tagWord h) = none ∧ (if a = 0 then t.fld (F.NET_LSTAT_VA l) else t.fld (F.NET_LSTAT_VB l)) = 1 + f ∧ (t.reg (R.NET_VNUM l)).toNat = n ∧ t.fld (F.NET_LSTAT_NOPATH l) = 1 ∧ t.fld F.NET_STAT_NOPATH = 1 ∧ (t.dev.u.net.links.getD l {}).want = false) ∧
  (∀ (s : State) (i : Nat) (h : Hdr) (p : List Byte) (l a f n : Nat), Ready s i 0x0D01 h p → p = [BitVec.ofNat 8 l, BitVec.ofNat 8 a, BitVec.ofNat 8 f, 0] ++ leBytes 4 n → l < 5 → a ≤ 1 → f ≤ 1 → n < 2 ^ 32 → s.fld F.NET_DEALER_KIND = 1 → s.fld F.NET_DEALER_SLOT = (s.sess i).slot → (s.sess i).observer = false → s.dev.u.net.links.length = 6 → s.fld (F.NET_LSTAT_SWITCHING l) = 0 → (s.dev.u.net.links.getD l {}).want = false → laterThan n (s.reg (R.NET_VNUM l)).toNat = true → f = 0 → CoreUp s 5 →
    Does (.verdict h p) s fun t => Answered s t i 0x0D01 h St.ok [] ∧ (if a = 0 then t.fld (F.NET_LSTAT_VA l) else t.fld (F.NET_LSTAT_VB l)) = 1 + f ∧ (t.reg (R.NET_VNUM l)).toNat = n ∧ t.fld (F.NET_LSTAT_NOPATH l) = 0 ∧ (t.dev.u.net.links.getD l {}).want = false ∧ (if a = 0 then (t.dev.u.net.links.getD l {}).healthyA = some ((s.dev.u.net.links.getD l {}).healthyA.getD s.dev.u.elapsed) else (t.dev.u.net.links.getD l {}).healthyB = some ((s.dev.u.net.links.getD l {}).healthyB.getD s.dev.u.elapsed))) ∧
  (∀ (s : State) (i : Nat) (h : Hdr) (p : List Byte) (l a f n : Nat), Ready s i 0x0D01 h p → p = [BitVec.ofNat 8 l, BitVec.ofNat 8 a, BitVec.ofNat 8 f, 0] ++ leBytes 4 n → l < 5 → a ≤ 1 → f ≤ 1 → n < 2 ^ 32 → s.fld F.NET_DEALER_KIND = 1 → s.fld F.NET_DEALER_SLOT = (s.sess i).slot → (s.sess i).observer = false → s.dev.u.net.links.length = 6 → laterThan n (s.reg (R.NET_VNUM l)).toNat = true → l ≠ 0 → s.fld (F.NET_LSTAT_SWITCHING l) = 1 → CoreUp s 5 →
    Does (.verdict h p) s fun t => Answered s t i 0x0D01 h St.ok [] ∧ (if a = 0 then t.fld (F.NET_LSTAT_VA l) else t.fld (F.NET_LSTAT_VB l)) = 1 + f ∧ (t.reg (R.NET_VNUM l)).toNat = n ∧ t.fld (F.NET_LSTAT_HELD l) = 1 ∧ (if a = 0 then (t.dev.u.net.links.getD l {}).heldA = some (f == 1) else (t.dev.u.net.links.getD l {}).heldB = some (f == 1)) ∧ t.fld (F.NET_LSTAT_NOPATH l) = s.fld (F.NET_LSTAT_NOPATH l)) ∧
  (∀ (s : State) (i : Nat) (h : Hdr) (p : List Byte) (l a f n : Nat), Ready s i 0x0D01 h p → p = [BitVec.ofNat 8 l, BitVec.ofNat 8 a, BitVec.ofNat 8 f, 0] ++ leBytes 4 n → l < 5 → a ≤ 1 → f ≤ 1 → n < 2 ^ 32 → s.fld F.NET_DEALER_KIND = 1 → s.fld F.NET_DEALER_SLOT = (s.sess i).slot → (s.sess i).observer = false → s.dev.u.net.links.length = 6 → laterThan n (s.reg (R.NET_VNUM l)).toNat = true → ¬ CoreUp s 5 →
    Does (.verdict h p) s fun t => Answered s t i 0x0D01 h St.ok [] ∧ (if a = 0 then t.fld (F.NET_LSTAT_VA l) else t.fld (F.NET_LSTAT_VB l)) = 1 + f ∧ (t.reg (R.NET_VNUM l)).toNat = n ∧ (t.dev.u.net.links.getD l {}).owed = (s.dev.u.net.links.getD l {}).owed ++ [(a, f == 1)] ∧ (t.dev.u.net.links.getD l {}).want = (s.dev.u.net.links.getD l {}).want ∧ t.fld (F.NET_LSTAT_NOPATH l) = s.fld (F.NET_LSTAT_NOPATH l)) ∧
  (∀ (s : State) (i : Nat) (h : Hdr) (p : List Byte) (l a f n : Nat), Ready s i 0x0D01 h p → p = [BitVec.ofNat 8 l, BitVec.ofNat 8 a, BitVec.ofNat 8 f, 0] ++ leBytes 4 n → l < 5 → a ≤ 1 → f ≤ 1 → n < 2 ^ 32 → s.fld F.NET_DEALER_KIND = 1 → s.fld F.NET_DEALER_SLOT = (s.sess i).slot → (s.sess i).observer = false → s.dev.u.net.links.length = 6 → laterThan n (s.reg (R.NET_VNUM l)).toNat = false →
    Does (.verdict h p) s fun t => Answered s t i 0x0D01 h St.ok [] ∧ t.fld F.NET_STAT_VSTALE = 1 ∧ t.reg (R.NET_VNUM l) = s.reg (R.NET_VNUM l) ∧ SameLinks s t ∧ t.dev.u.net.ports = s.dev.u.net.ports ∧ ∀ k ∈ List.range 6, t.reg (R.NET_LSTAT k) = s.reg (R.NET_LSTAT k)) ∧
  (∀ (s : State) (i : Nat) (h : Hdr) (p : List Byte) (l a f n : Nat), Ready s i 0x0D01 h p → p = [BitVec.ofNat 8 l, BitVec.ofNat 8 a, BitVec.ofNat 8 f, 0] ++ leBytes 4 n → l < 6 → a ≤ 1 → f ≤ 1 → n < 2 ^ 32 → (s.fld F.NET_DEALER_KIND ≠ 1 ∨ s.fld F.NET_DEALER_SLOT ≠ (s.sess i).slot) →
    Does (.verdict h p) s fun t => Answered s t i 0x0D01 h St.notDealer [] ∧ TellsOnly s t) ∧
  (∀ (s : State) (i : Nat) (h : Hdr) (p : List Byte) (l : Nat), Ready s i 0x0D02 h p → p = [BitVec.ofNat 8 l, 0, 0, 0] → l < 5 → s.dev.u.net.links.length = 6 → s.fld (F.NET_LSTAT_SWITCHING l) = 0 → (s.dev.u.net.links.getD l {}).want = false → (if s.fld (F.NET_LSTAT_ACTIVE l) = 0 then s.fld (F.NET_LSTAT_VB l) else s.fld (F.NET_LSTAT_VA l)) ≠ 2 →
    Does (.shuffleNow h p) s fun t => PacketCounted s t i h ∧ (∃ x ∈ (t.sess i).held, x.tag = tagOf h.tagw ∧ x.pkt.opcode = 0x0D02 ∧ x.pkt.status = St.ok) ∧ tagIn (t.sess i) (tagWord h) = none ∧ (t.dev.u.net.links.getD l {}).want = true ∧ t.fld (F.NET_LSTAT_SHSKIP l) = s.fld (F.NET_LSTAT_SHSKIP l)) ∧
  (∀ (s : State) (i : Nat) (h : Hdr) (p : List Byte) (l : Nat), Ready s i 0x0D02 h p → p = [BitVec.ofNat 8 l, 0, 0, 0] → l < 5 → s.dev.u.net.links.length = 6 → s.fld (F.NET_LSTAT_SWITCHING l) = 0 → (s.dev.u.net.links.getD l {}).want = false → (if s.fld (F.NET_LSTAT_ACTIVE l) = 0 then s.fld (F.NET_LSTAT_VB l) else s.fld (F.NET_LSTAT_VA l)) = 2 →
    Does (.shuffleNow h p) s fun t => Answered s t i 0x0D02 h St.ok [] ∧ (t.dev.u.net.links.getD l {}).want = false ∧ t.fld (F.NET_LSTAT_SHSKIP l) = 1 ∧ t.fld F.NET_STAT_SHSKIP = 1) ∧
  (∀ (s : State) (i : Nat) (h : Hdr) (p : List Byte) (l : Nat), Ready s i 0x0D02 h p → p = [BitVec.ofNat 8 l, 0, 0, 0] → l < 6 → s.fld (F.NET_LSTAT_SWITCHING l) = 1 →
    Does (.shuffleNow h p) s fun t => Answered s t i 0x0D02 h St.actionBusy [] ∧ TellsOnly s t) ∧
  (∀ (s : State) (i : Nat) (h : Hdr) (p : List Byte), Ready s i 0x0D03 h p →
    Does (.pathStatus h p) s fun t => Answered s t i 0x0D03 h St.ok ((List.range 6).flatMap fun l => leBytes 1 (s.fld (F.NET_LSTAT_ACTIVE l)) ++ leBytes 1 (s.fld (F.NET_LSTAT_STBY l)) ++ leBytes 1 (s.fld (F.NET_LSTAT_VA l)) ++ leBytes 1 (s.fld (F.NET_LSTAT_VB l)) ++ leBytes 4 (s.reg (R.NET_SWCNT l)).toNat ++ leBytes 4 (s.reg (R.NET_LASTGAP l)).toNat) ∧ TellsOnly s t)

/-- The Cluster and Thermal functions. CLUSTER_STATUS answers the eight entries; REJOIN is turned away with CLUSTER_MEMBER at
  a member and MEMBER_ABSENT without a fresh slot, and else its first step waits for the next cycle; TEMP_READ waits for the
  conversion it starts or joins; THROTTLE_ACK enforces the reduction asked for, or is THR_NOASK. Completion (a next state with
  its own effect, for every state and operands that meet the conditions) is stated of: clusterStatus, rejoin, tempRead,
  throttleAck. (R440, R441, R550, R580, R586, R587). -/
def Obligations.ClusterAndThermalCommands : Prop :=
  (∀ (s : State) (i : Nat) (h : Hdr) (p : List Byte), Ready s i 0x0E01 h p → s.fld F.RNG_STAT_ADDR = 1 →
    Does (.clusterStatus h p) s fun t => Answered s t i 0x0E01 h St.ok (leBytes 1 (s.fld F.RNG_STAT_ADDR) ++ leBytes 1 ((List.range 8).filter fun k => bitAt (s.fld F.RNG_PRESENT_PRESENT) k).length ++ zeros 2 ++ (List.range 8).flatMap fun n => leBytes 1 (n + 1) ++ leBytes 1 (s.dev.u.rng.states.getD n 0) ++ leBytes 1 (if n + 1 = s.fld F.RNG_STAT_ADDR then s.mode else leAt (s.dev.u.rng.peers.getD n {}).slot 1 1) ++ leBytes 1 (s.fld (F.RNG_MSTAT_DISAGREE n)) ++ leBytes 4 (if n + 1 = s.fld F.RNG_STAT_ADDR then (s.reg R.RNG_CHASH).toNat else leAt (s.dev.u.rng.peers.getD n {}).slot 8 4) ++ leBytes 4 (if n + 1 = s.fld F.RNG_STAT_ADDR then (s.reg R.SYS_FWVER).toNat % 2 ^ 24 else leAt (s.dev.u.rng.peers.getD n {}).slot 12 4 % 2 ^ 24)) ∧ TellsOnly s t) ∧
  (∀ (s : State) (i : Nat) (h : Hdr) (p : List Byte), Ready s i 0x0E01 h p → s.fld F.RNG_STAT_ADDR ≠ 1 →
    Does (.clusterStatus h p) s fun t => Answered s t i 0x0E01 h St.ok (leBytes 1 (s.fld F.RNG_STAT_ADDR) ++ leBytes 1 ((List.range 8).filter fun k => bitAt (s.fld F.RNG_PRESENT_PRESENT) k).length ++ zeros 2 ++ (List.range 8).flatMap fun n => leBytes 1 (n + 1) ++ leBytes 1 (s.dev.u.rng.states.getD n 0) ++ leBytes 1 (if n + 1 = s.fld F.RNG_STAT_ADDR then s.mode else leAt (s.dev.u.rng.peers.getD n {}).slot 1 1) ++ leBytes 1 (if s.dev.u.rng.states.getD n 0 = 1 then settingsDiffer s.dev.u.rng (n + 1) + (if bitAt (leAt (s.dev.u.rng.peers.getD n {}).slot 2 1) 3 then 4 else 0) else 0) ++ leBytes 4 (if n + 1 = s.fld F.RNG_STAT_ADDR then (s.reg R.RNG_CHASH).toNat else leAt (s.dev.u.rng.peers.getD n {}).slot 8 4) ++ leBytes 4 (if n + 1 = s.fld F.RNG_STAT_ADDR then (s.reg R.SYS_FWVER).toNat % 2 ^ 24 else leAt (s.dev.u.rng.peers.getD n {}).slot 12 4 % 2 ^ 24)) ∧ TellsOnly s t) ∧
  (∀ (s : State) (i : Nat) (h : Hdr) (p : List Byte) (a : Nat), Ready s i 0x0E02 h p → p = [BitVec.ofNat 8 a, 0, 0, 0] → 2 ≤ a → a ≤ 8 → s.dev.u.rng.ring = true → s.fld F.RNG_STAT_ADDR ≠ 1 →
    Does (.rejoin h p) s fun t => Answered s t i 0x0E02 h St.clusterMember [] ∧ TellsOnly s t) ∧
  (∀ (s : State) (i : Nat) (h : Hdr) (p : List Byte) (a : Nat), Ready s i 0x0E02 h p → p = [BitVec.ofNat 8 a, 0, 0, 0] → 2 ≤ a → a ≤ 8 → (s.dev.u.rng.ring = false ∨ s.fld F.RNG_STAT_ADDR = 1) → (s.dev.u.rng.joined = false ∨ (s.dev.u.rng.peers.getD (a - 1) {}).fresh = false) →
    Does (.rejoin h p) s fun t => Answered s t i 0x0E02 h St.memberAbsent [] ∧ TellsOnly s t) ∧
  (∀ (s : State) (i : Nat) (h : Hdr) (p : List Byte) (a : Nat), Ready s i 0x0E02 h p → p = [BitVec.ofNat 8 a, 0, 0, 0] → 2 ≤ a → a ≤ 8 → a ≤ s.dev.u.rng.n → s.fld F.RNG_STAT_ADDR = 1 → s.dev.u.rng.joined = true → (s.dev.u.rng.peers.getD (a - 1) {}).fresh = true → leAt (s.dev.u.rng.peers.getD (a - 1) {}).slot 8 4 = (s.reg R.RNG_CHASH).toNat → leAt (s.dev.u.rng.peers.getD (a - 1) {}).slot 12 4 = (s.reg R.SYS_FWVER).toNat % 2 ^ 24 → (toSigned 32 (leAt (s.dev.u.rng.peers.getD (a - 1) {}).slot 16 4)).natAbs ≤ 2000 → s.mode ≠ 0 → s.mode ≠ 1 → s.dev.u.rng.rejoin = none → (s.dev.u.rng.states.getD (a - 1) 0 ≠ 1 ∨ bitAt (leAt (s.dev.u.rng.peers.getD (a - 1) {}).slot 2 1) 2 = true) →
    Does (.rejoin h p) s fun t => Started s t i 0x0E02 h ∧ t.dev.u.rng = { s.dev.u.rng with rejoin := some { a := a, serves := (i, tagWord h) }, states := setAt s.dev.u.rng.states (a - 1) 2 } ∧ t.fld (F.RNG_MSTAT_STATE (a - 1)) = 2 ∧ RegsKept [4, 5, 7, 0x11] s t) ∧
  (∀ (s : State) (i : Nat) (h : Hdr) (p : List Byte), Ready s i 0x0F01 h p →
    Does (.tempRead h p) s fun t => Started s t i 0x0F01 h ∧ t.dev.u.thm = { s.dev.u.thm with reads := s.dev.u.thm.reads ++ [(i, tagWord h)], conv := some (s.dev.u.thm.conv.getD s.dev.u.elapsed), joined := if s.dev.u.thm.conv.isSome then s.dev.u.thm.joined + 1 else 0, lastDemand := s.dev.u.elapsed, owed := 0 } ∧ RegsKept [4, 5, 0x11] s t) ∧
  (∀ (s : State) (i : Nat) (h : Hdr) (p : List Byte) (k : Nat) (a : ThmAsk), Ready s i 0x0F02 h p → p = [BitVec.ofNat 8 k, 0, 0, 0] → s.dev.u.thm.ask = some a → a.level = k → 1 ≤ k → k ≤ 2 → a.kind = 2 →
    Does (.throttleAck h p) s fun t => Answered s t i 0x0F02 h St.ok [] ∧ t.dev.u.thm.enforced = s.dev.u.thm.enforced ++ [{ level := k, kind := 2, value := a.value }] ∧ t.dev.u.thm.ask = none ∧ t.fld F.REC_NITEREFF_THMCAP = a.value % 32 ∧ t.fld F.THM_STAT_ASKED = 0 ∧ t.fld F.THM_STAT_ENFORCED = 1) ∧
  (∀ (s : State) (i : Nat) (h : Hdr) (p : List Byte) (k : Nat), Ready s i 0x0F02 h p → p = [BitVec.ofNat 8 k, 0, 0, 0] → 1 ≤ k → k ≤ 3 → (∀ a ∈ s.dev.u.thm.ask, a.level ≠ k) →
    Does (.throttleAck h p) s fun t => Answered s t i 0x0F02 h St.thrNoask [] ∧ TellsOnly s t)

/-- The Storage and Service functions. FW_LOAD takes an image of a permitted length in bulk into a commit, else BAD_PARAM;
  BANK_STATE, POOL_STATUS and SAFE_STATUS answer their entries, BANK_STATE of a commit that runs a step that the times of R614
  allow (assumption log 105), and from step 5 on of a sealed bank, POOL_STATUS starting its lowest counts again; BANK_SELECT
  puts the other complete bank in force, or is BANK_EMPTY, or COMMIT_BUSY while a commit runs. Completion (a next state with
  its own effect, for every state and operands that meet the conditions) is stated of: fwLoad, bankState, bankSelect,
  poolStatus, safeStatus. (R403, R442, R443, R444, R614). -/
def Obligations.StorageAndServiceCommands : Prop :=
  (∀ (s : State) (i : Nat) (h : Hdr) (p : List Byte) (len : Nat), Ready s i 0x1001 h p → p = zeros 4 ++ leBytes 4 len → len % 4096 = 0 → 1048576 ≤ len → len ≤ 67108864 → s.dev.u.nv.commit = none →
    Does (.fwLoad h p) s fun t => (Started s t i 0x1001 h ∧ TakesBulk s t i 0x1001 h len ∧ Commits t i h .firmware 3 [])) ∧
  (∀ (s : State) (i : Nat) (h : Hdr) (p : List Byte) (len : Nat), Ready s i 0x1001 h p → p = zeros 4 ++ leBytes 4 len → len < 2 ^ 32 → (len % 4096 ≠ 0 ∨ len < 1048576 ∨ 67108864 < len) →
    Does (.fwLoad h p) s fun t => Answered s t i 0x1001 h St.badParam [] ∧ TellsOnly s t) ∧
  (∀ (s : State) (i : Nat) (h : Hdr) (p : List Byte), Ready s i 0x1002 h p → s.dev.u.nv.commit = none →
    Does (.bankState h p) s fun t => Answered s t i 0x1002 h St.ok ((leBytes 1 s.dev.u.nv.fwSel ++ leBytes 1 (s.dev.u.nv.fw.getD (1 - s.dev.u.nv.fwSel) {}).state ++ zeros 2 ++ leBytes 4 (imageVersion (s.dev.u.nv.fw.getD s.dev.u.nv.fwSel {}).data) ++ leBytes 4 (imageVersion (s.dev.u.nv.fw.getD (1 - s.dev.u.nv.fwSel) {}).data)) ++ (leBytes 1 s.dev.u.nv.matSel ++ leBytes 1 (s.dev.u.nv.mat.getD (1 - s.dev.u.nv.matSel) {}).state ++ zeros 2 ++ leBytes 4 (imageMatId (s.dev.u.nv.mat.getD s.dev.u.nv.matSel {}).data) ++ leBytes 4 (imageMatId (s.dev.u.nv.mat.getD (1 - s.dev.u.nv.matSel) {}).data)) ++ zeros 2 ++ zeros 2) ∧ TellsOnly s t) ∧
  (∀ (s : State) (i : Nat) (h : Hdr) (p : List Byte) (c : Commit) (lo hi : Nat), Ready s i 0x1002 h p → s.dev.u.nv.commit = some c → c.shown ≤ 6 → c.step ≤ 4 → lo = max c.shown (journalSpan c s.dev.u.elapsed).1 → hi = max lo (journalSpan c s.dev.u.elapsed).2 →
    Does (.bankState h p) s fun t => lo ≤ t.fld F.BOOT_JOURNAL_STEP ∧ t.fld F.BOOT_JOURNAL_STEP ≤ hi ∧ Answered s t i 0x1002 h St.ok ((leBytes 1 t.dev.u.nv.fwSel ++ leBytes 1 (t.dev.u.nv.fw.getD (1 - t.dev.u.nv.fwSel) {}).state ++ zeros 2 ++ leBytes 4 (imageVersion (t.dev.u.nv.fw.getD t.dev.u.nv.fwSel {}).data) ++ leBytes 4 (imageVersion (t.dev.u.nv.fw.getD (1 - t.dev.u.nv.fwSel) {}).data)) ++ (leBytes 1 t.dev.u.nv.matSel ++ leBytes 1 (t.dev.u.nv.mat.getD (1 - t.dev.u.nv.matSel) {}).state ++ zeros 2 ++ leBytes 4 (imageMatId (t.dev.u.nv.mat.getD t.dev.u.nv.matSel {}).data) ++ leBytes 4 (imageMatId (t.dev.u.nv.mat.getD (1 - t.dev.u.nv.matSel) {}).data)) ++ (leBytes 1 (kindOf c.obj) ++ leBytes 1 (t.fld F.BOOT_JOURNAL_STEP)) ++ zeros 2) ∧ t.dev.u.nv = (if c.step = 4 ∧ c.shown < 5 ∧ 5 ≤ t.fld F.BOOT_JOURNAL_STEP then commitSeal c { s.dev.u.nv with commit := some { c with shown := t.fld F.BOOT_JOURNAL_STEP } } else { s.dev.u.nv with commit := some { c with shown := t.fld F.BOOT_JOURNAL_STEP } }) ∧ RegsKept [4, 5, 0x11, 0x15] s t) ∧
  (∀ (s : State) (i : Nat) (h : Hdr) (p : List Byte), Ready s i 0x1003 h p → p = [2, 0, 0, 0] → s.dev.u.nv.commit = none → s.dev.u.nv.queued = [] → (s.dev.u.nv.mat.getD (1 - s.dev.u.nv.matSel) {}).state = 1 →
    Does (.bankSelect h p) s fun t => Answered s t i 0x1003 h St.ok [] ∧ t.dev.u.nv.matSel = 1 - s.dev.u.nv.matSel ∧ t.dev.u.nv.mat = s.dev.u.nv.mat ∧ t.fld F.BOOT_BANKS_MATBANK = (1 - s.dev.u.nv.matSel) % 2 ∧ t.dev.u.nv.commit = none ∧ t.dev.u.reco = s.dev.u.reco) ∧
  (∀ (s : State) (i : Nat) (h : Hdr) (p : List Byte), Ready s i 0x1003 h p → p = [1, 0, 0, 0] → s.dev.u.nv.commit = none → s.dev.u.nv.queued = [] → (s.dev.u.nv.fw.getD (1 - s.dev.u.nv.fwSel) {}).state = 1 →
    Does (.bankSelect h p) s fun t => Answered s t i 0x1003 h St.ok [] ∧ t.dev.u.nv.fwSel = 1 - s.dev.u.nv.fwSel ∧ t.fld F.BOOT_BANKS_FWBANK = (1 - s.dev.u.nv.fwSel) % 2 ∧ t.reg R.SYS_FWVER = s.reg R.SYS_FWVER) ∧
  (∀ (s : State) (i : Nat) (h : Hdr) (p : List Byte), Ready s i 0x1003 h p → p = [2, 0, 0, 0] → s.dev.u.nv.commit = none → (s.dev.u.nv.mat.getD (1 - s.dev.u.nv.matSel) {}).state ≠ 1 →
    Does (.bankSelect h p) s fun t => Answered s t i 0x1003 h St.bankEmpty [] ∧ TellsOnly s t) ∧
  (∀ (s : State) (i : Nat) (h : Hdr) (p : List Byte), Ready s i 0x1004 h p →
    Does (.poolStatus h p) s fun t => Answered s t i 0x1004 h St.ok (leBytes 2 (s.fld F.POOL_KFREE_FREE) ++ leBytes 2 (min (s.fld F.POOL_KFREE_FREE) s.dev.u.pool.statKLow) ++ leBytes 2 (s.fld F.POOL_TFREE_FREE) ++ leBytes 2 (min (s.fld F.POOL_TFREE_FREE) s.dev.u.pool.statTLow) ++ leBytes 4 (s.reg (R.POOL_NOBUFCNT)).toNat) ∧ t.dev.u.pool.statKLow = s.fld F.POOL_KFREE_FREE ∧ t.dev.u.pool.statTLow = s.fld F.POOL_TFREE_FREE ∧ TellsOnly s t) ∧
  (∀ (s : State) (i : Nat) (h : Hdr) (p : List Byte), Ready s i 0x1101 h p →
    Does (.safeStatus h p) s fun t => Answered s t i 0x1101 h St.ok (leBytes 4 (s.reg (R.SAFE_HBCNT)).toNat ++ leBytes 1 (s.fld F.SAFE_CTL_HOLDREQ) ++ leBytes 1 (s.fld F.SAFE_STATE_LAPSED) ++ zeros 2) ∧ TellsOnly s t)

/-- What the host link answers by itself, and its addresses. An ARP request for the module's own address is answered and any
  other is not; an ICMP echo is answered while ECHO is 1; what the transport or the packet form refuses is dropped and
  counted; every 60 s the next hops in use are asked for again, and an answer is kept; the 16-byte header of R359 read back
  from a packet gives the fields laid out, and a datagram that fails its form gives none; each datagram the module forms
  carries its packet under right checksums; APPLY takes the staged addresses in force together, SAVE commits them. The IPv4
  and UDP headers and checksums are presumed (assumption log 97). Completion (a next state with its own effect, for every
  state and operands that meet the conditions) is stated of: arpRequest, icmpEcho, datagramDiscard, arpRefresh, arpReply,
  ipApply, ipSave. (R355, R356, R357, R358, R359, R360). -/
def Obligations.LinkFrames : Prop :=
  (∀ (s : State) (ip mac : Nat), Live s → Canon s → HostLinkUp s → (s.reg R.CMD_IP).toNat = ip →
    Does (.arpRequest ip mac) s fun t => t.dev.u.out = s.dev.u.out ++ [.arpReply ip mac] ∧ OnlyRegs [] s t ∧ t.dev.u.cmd = s.dev.u.cmd) ∧
  (∀ (s : State) (ip mac : Nat), Live s → Canon s → HostLinkUp s → (s.reg R.CMD_IP).toNat ≠ ip →
    Does (.arpRequest ip mac) s fun t => t.dev = s.dev) ∧
  (∀ (s : State) (ip : Nat) (d : List Byte), Live s → Canon s → HostLinkUp s → HasHop s ip → s.fld F.CMD_CTL_ECHO = 1 → d.length ≤ 1472 →
    Does (.icmpEcho ip d) s fun t => t.dev.u.out = s.dev.u.out ++ [.icmpReply ip d] ∧ OnlyRegs [] s t ∧ t.dev.u.cmd = s.dev.u.cmd) ∧
  (∀ (s : State) (ip : Nat) (d : List Byte), Live s → Canon s → HostLinkUp s → s.fld F.CMD_CTL_ECHO = 0 → d.length ≤ 1472 →
    Does (.icmpEcho ip d) s fun t => t.dev = s.dev) ∧
  (∀ (s : State) (x : Discard) (d : List Byte), Live s → Canon s → HostLinkUp s → (x = .transport ∨ (x = .checksum d ∧ checksumsOk d = false) ∨ (x = .form d ∧ hostHead d = none)) →
    Does (.datagramDiscard x) s fun t => t.fld F.CMD_DROPCNT_CNT = min (s.fld F.CMD_DROPCNT_CNT + 1) 0xFFFFFFFF ∧ t.fld F.CMD_STAT_DROP = 1 ∧ t.dev.u = s.dev.u ∧ OnlyRegs [R.CMD_DROPCNT, R.CMD_STAT] s t) ∧
  (∀ (s : State) (ip port sid seq : Nat), Live s → Canon s → HostLinkUp s → findSess s.dev.u.cmd.sessions sid = none →
    Does (.datagramDiscard (.packet ip port sid seq)) s fun t => t.fld F.CMD_DROPCNT_CNT = min (s.fld F.CMD_DROPCNT_CNT + 1) 0xFFFFFFFF ∧ t.fld F.CMD_STAT_DROP = 1 ∧ t.dev.u = s.dev.u ∧ OnlyRegs [R.CMD_DROPCNT, R.CMD_STAT] s t) ∧
  (∀ (s : State), Live s → Canon s → HostLinkUp s → s.dev.u.cmd.arpAt + 60000000000 ≤ s.dev.u.elapsed →
    Does .arpRefresh s fun t => t.dev.u.cmd.arpAt = s.dev.u.elapsed ∧ t.dev.u.out = s.dev.u.out ++ (hopsOf s.dev.u.cmd.sessions).map .arpRequest ∧ OnlyRegs [] s t) ∧
  (∀ (s : State) (ip mac : Nat), Live s → Canon s → HostLinkUp s → ip ∈ hopsOf s.dev.u.cmd.sessions →
    Does (.arpReply ip mac) s fun t => t.dev.u.cmd.arp = (ip, mac) :: s.dev.u.cmd.arp.filter (fun x => x.1 ≠ ip) ∧ OnlyRegs [] s t) ∧
  (∀ (s : State) (src : Src), Live s → Canon s → HostLinkUp s →
    Does (.ipApply src 0x80008000) s fun t => (t.reg R.CMD_IP).toNat = s.fld F.CMD_STGIPH_IP * 65536 + s.fld F.CMD_STGIPL_IP ∧ (t.reg R.CMD_GW).toNat = s.fld F.CMD_STGGWH_GW * 65536 + s.fld F.CMD_STGGWL_GW ∧ t.fld F.CMD_PFX_PFX = min 30 (s.fld F.CMD_STGPFX_PFX) ∧ t.dev.u.nv = s.dev.u.nv) ∧
  (∀ (s : State) (src : Src), Live s → Canon s → s.dev.u.nv.commit = none →
    Does (.ipSave src 0x40004000) s fun t => t.dev.u.nv.commit.map (fun c => (c.obj, c.step)) = some (.registers [(R.CMD_IP, s.reg R.CMD_IP), (R.CMD_GW, s.reg R.CMD_GW), (R.CMD_PFX, s.reg R.CMD_PFX)], 4) ∧ t.reg R.CMD_IP = s.reg R.CMD_IP ∧ t.fld F.BOOT_JOURNAL_STEP = 1 ∧ t.fld F.BOOT_JOURNAL_KIND = 3) ∧
  (∀ (k sid seq tagw op : Nat) (r l : Bool) (p : List Byte), k = 1 ∨ k = 4 ∨ k = 5 → sid < 2 ^ 16 → seq < 2 ^ 32 → tagw < 2 ^ 16 → op < 2 ^ 16 → p.length ≤ 1456 →
    hostHead (headerBytes (k + 16 * bit r + 32 * bit l) sid seq tagw op p.length 0 ++ p) = some ⟨k, r, l, sid, seq, tagw, op⟩) ∧
  (∀ (d : List Byte), d.length < 16 ∨ leAt d 0 1 ≠ 1 ∨ leAt d 1 1 % 16 ∉ [1, 4, 5] ∨ leAt d 12 2 + 16 ≠ d.length → hostHead d = none) ∧
  (∀ (p : Pkt) (own : Nat), p.payload.length ≤ 1456 →
    checksumsOk (p.datagram own) = true ∧ (p.datagram own).drop 28 = p.data ∧ p.data.drop 16 = p.payload ∧ leAt p.data 0 1 = 1 ∧ leAt p.data 1 1 = p.kind % 256 ∧ leAt p.data 2 2 = p.session % 2 ^ 16 ∧ leAt p.data 4 4 = p.seq % 2 ^ 32 ∧ leAt p.data 8 2 = p.tagw % 2 ^ 16 ∧ leAt p.data 10 2 = p.opcode % 2 ^ 16 ∧ leAt p.data 12 2 = p.payload.length ∧ leAt p.data 14 2 = p.status % 2 ^ 16 ∧
      beNat (slice (p.datagram own) 12 4) = own % 2 ^ 32 ∧ beNat (slice (p.datagram own) 16 4) = p.ip % 2 ^ 32 ∧ beNat (slice (p.datagram own) 20 2) = udpPort ∧ beNat (slice (p.datagram own) 22 2) = p.port % 2 ^ 16 ∧ beNat (slice (p.datagram own) 2 2) = (p.datagram own).length)

/-- The key store: the buffer, LOAD, ERASE and lockouts. In SERVICE, a session with the KEYADMIN right writes the key buffer
  word by word; LOAD gives the slot the buffer's key and shows its check value in KCV, with LOADED set, ERASE empties the
  slot; both clear the buffer and commit the slot. Anyone else changes nothing, in SERVICE or outside it, and the host's WRITE
  is DENIED. The buffer is cleared 10 s after its last write, and a lockout ends at its time. A word of the buffer that was
  not written is 0 by the model's reading (assumption log 19). Completion (a next state with its own effect, for every state
  and operands that meet the conditions) is stated of: keyDataWrite, keyLoad, keyErase, keyBufferTimeout, keyLockoutEnd.
  (R374, R375, R376, R377, R378). -/
def Obligations.KeyStore : Prop :=
  (∀ (s : State) (i v w : Nat), Live s → Canon s → s.mode = 6 → (s.sess i).st = .opened → (s.sess i).keyAdmin = true → v < 65536 → w = s.fld F.SEC_KEYIDX_WORD → s.fld F.SEC_KEYIDX_AINC = 0 →
    Does (.keyDataWrite (.host i) (BitVec.ofNat 32 (0xFFFF0000 + v))) s fun t => t.dev.u.cmd.keyBuf = (w, v) :: s.dev.u.cmd.keyBuf.filter (fun x => x.1 ≠ w) ∧ t.dev.u.cmd.keyBufBy = some i ∧ t.dev.u.cmd.keyBufAt = s.dev.u.elapsed ∧ t.fld F.SEC_STAT_KEYBUF = 1 ∧ t.fld F.SEC_KEYIDX_WORD = w ∧ OnlyRegs [R.SEC_STAT] s t) ∧
  (∀ (s : State) (i v w : Nat), Live s → Canon s → s.mode = 6 → (s.sess i).st = .opened → (s.sess i).keyAdmin = true → v < 65536 → w = s.fld F.SEC_KEYIDX_WORD → s.fld F.SEC_KEYIDX_AINC = 1 → w < 15 →
    Does (.keyDataWrite (.host i) (BitVec.ofNat 32 (0xFFFF0000 + v))) s fun t => t.dev.u.cmd.keyBuf = (w, v) :: s.dev.u.cmd.keyBuf.filter (fun x => x.1 ≠ w) ∧ t.fld F.SEC_KEYIDX_WORD = w + 1) ∧
  (∀ (s : State) (src : Src) (w : Word), Live s → Canon s → (s.mode ≠ 6 ∨ s.keyAdmin src = false) →
    Does (.keyDataWrite src w) s fun t => t.dev = s.dev) ∧
  (∀ (s : State) (src : Src) (w : Word), Live s → Canon s → (s.mode ≠ 6 ∨ s.keyAdmin src = false) →
    Does (.keyLoad src w) s fun t => t.dev = s.dev) ∧
  (∀ (s : State) (src : Src) (w : Word), Live s → Canon s → (s.mode ≠ 6 ∨ s.keyAdmin src = false) →
    Does (.keyErase src w) s fun t => t.dev = s.dev) ∧
  (∀ (s : State) (i k : Nat), Live s → Canon s → s.mode = 6 → (s.sess i).st = .opened → (s.sess i).keyAdmin = true → k = s.fld F.SEC_KEYIDX_SLOT → k < 8 → s.dev.u.cmd.slots.length = 8 → s.dev.u.nv.commit = none →
    Does (.keyLoad (.host i) 0x80008000) s fun t => (t.dev.u.cmd.slots.getD k {}).key = some (bufferKey s.dev.u.cmd.keyBuf) ∧ t.dev.u.cmd.keyBuf = [] ∧ t.fld F.SEC_STAT_KEYBUF = 0 ∧ t.fld F.SEC_STAT_BLANK = 0 ∧ t.fld (F.SEC_SLOTSTAT_KCV k) = kcvOf (bufferKey s.dev.u.cmd.keyBuf) ∧ t.fld (F.SEC_SLOTSTAT_LOADED k) = 1 ∧ t.dev.u.nv.commit.map (·.obj) = some (.keySlot k (some (bufferKey s.dev.u.cmd.keyBuf)) (s.reg (R.SEC_SLOT k)) true)) ∧
  (∀ (s : State) (i k : Nat), Live s → Canon s → s.mode = 6 → (s.sess i).st = .opened → (s.sess i).keyAdmin = true → k = s.fld F.SEC_KEYIDX_SLOT → k < 8 → s.dev.u.cmd.slots.length = 8 → s.dev.u.nv.commit = none →
    Does (.keyErase (.host i) 0x40004000) s fun t => (t.dev.u.cmd.slots.getD k {}).key = none ∧ t.dev.u.cmd.keyBuf = [] ∧ t.fld F.SEC_STAT_KEYBUF = 0 ∧ (∀ j ∈ List.range 8, j ≠ k → t.dev.u.cmd.slots.getD j {} = s.dev.u.cmd.slots.getD j {}) ∧ t.dev.u.nv.commit.map (·.obj) = some (.keySlot k none (s.reg (R.SEC_SLOT k)) true)) ∧
  (∀ (s : State), Live s → Canon s → s.fld F.SEC_STAT_KEYBUF = 1 → s.dev.u.cmd.keyBufAt + 10000000000 ≤ s.dev.u.elapsed →
    Does .keyBufferTimeout s fun t => t.dev.u.cmd = { s.dev.u.cmd with keyBuf := [], keyBufBy := none } ∧ t.fld F.SEC_STAT_KEYBUF = 0 ∧ OnlyRegs [R.SEC_STAT] s t) ∧
  (∀ (s : State) (k e : Nat), Live s → Canon s → k < 8 → (s.dev.u.cmd.slots.getD k {}).lockedUntil = some e → e ≤ s.dev.u.elapsed →
    Does (.keyLockoutEnd k) s fun t => (t.dev.u.cmd.slots.getD k {}) = { s.dev.u.cmd.slots.getD k {} with lockedUntil := none } ∧ t.fld (F.SEC_SLOTSTAT_LOCKED k) = 0 ∧ OnlyRegs [R.SEC_SLOTSTAT k] s t) ∧
  (∀ (s : State) (i k : Nat) (h : Hdr) (p : List Byte), Ready s i 0x0202 h p → k < 8 → leAt p 0 4 ∈ [R.SEC_KEYIDX, R.SEC_KEYDATA, R.SEC_KEYCMD, R.SEC_SLOT k] → (s.mode ≠ 6 ∨ (s.sess i).keyAdmin = false) →
    Does (.write h p) s fun t => Answered s t i 0x0202 h St.denied [] ∧ TellsOnly s t)

/-- Bulk data into and out of the module. A packet in order advances ACKED by its data, and every sixteenth is answered with a
  window; one past ACKED and below LIMIT is kept until the gap closes, and is answered with BULKWIN, and one before ACKED is
  not; a last packet whose data fail the opcode's checks ends the command with the check's status. The host's BULKWIN moves
  ACKED and LIMIT, and ACKED of all the data completes the command. No LIMIT for 2 ms sends again from ACKED; no host for
  CMD_BULKTO ends it with BULK_TIMEOUT. That the count of 16 starts again at a BULKWIN sent for a gap, and that packets which
  a closed gap joins count, is the model's choice (DESIGN CHOICE, assumption log 104). Completion (a next state with its own
  effect, for every state and operands that meet the conditions) is stated of: bulkdata, bulkwin, bulkResendTimeout,
  bulkTimeout. (R390, R391, R392, R393, R403). -/
def Obligations.BulkTransfers : Prop :=
  (∀ (s : State) (i : Nat) (h : Hdr) (x : Bulk) (d : List Byte), Live s → Canon s → HostLinkUp s → Named s i h → bulkOf (s.sess i) h.tagw = some x → x.out = false → x.opcode ≠ 0x0501 → d.length = 1448 → x.acked % 1448 = 0 → x.acked + 1448 < x.len → x.acked < x.limit → x.run < 15 → x.ahead = [] →
    Does (.bulkdata h x.acked false d) s fun t => bulkOf (t.sess i) h.tagw = some { x with data := x.data ++ d, acked := x.acked + 1448, run := x.run + 1, waitSince := some s.dev.u.elapsed } ∧ (t.sess i).h = h.seq % 2 ^ 32 ∧ (t.sess i).lastTaken = s.dev.u.elapsed ∧ OnlyRegs [] s t) ∧
  (∀ (s : State) (i : Nat) (h : Hdr) (x : Bulk) (d : List Byte), Live s → Canon s → HostLinkUp s → Named s i h → bulkOf (s.sess i) h.tagw = some x → x.out = false → x.opcode ≠ 0x0501 → d.length = 1448 → x.acked % 1448 = 0 → x.acked + 1448 < x.len → x.acked < x.limit → 15 ≤ x.run → x.ahead = [] →
    Does (.bulkdata h x.acked false d) s fun t => bulkOf (t.sess i) h.tagw = some { x with data := x.data ++ d, acked := x.acked + 1448, run := 0, limit := x.acked + 1448 + 92672, waitSince := some s.dev.u.elapsed } ∧ (t.sess i).h = h.seq % 2 ^ 32 ∧ (t.sess i).lastTaken = s.dev.u.elapsed ∧ t.dev.u.out.length = s.dev.u.out.length + 1) ∧
  (∀ (s : State) (i : Nat) (h : Hdr) (x : Bulk) (o : Nat) (last : Bool) (d : List Byte), Live s → Canon s → HostLinkUp s → Named s i h → bulkOf (s.sess i) h.tagw = some x → x.out = false → o < x.acked →
    Does (.bulkdata h o last d) s fun t => bulkOf (t.sess i) h.tagw = some x ∧ t.dev.u.out = s.dev.u.out ∧ (t.sess i).h = h.seq % 2 ^ 32 ∧ (t.sess i).lastTaken = s.dev.u.elapsed) ∧
  (∀ (s : State) (i : Nat) (h : Hdr) (x : Bulk) (o : Nat) (d : List Byte), Live s → Canon s → HostLinkUp s → Named s i h → bulkOf (s.sess i) h.tagw = some x → x.out = false → x.acked < o → o < x.limit → o % 1448 = 0 → o + 1448 < x.len → d.length = 1448 →
    Does (.bulkdata h o false d) s fun t => bulkOf (t.sess i) h.tagw = some { x with limit := x.acked + 92672, run := 0, waitSince := some s.dev.u.elapsed, ahead := if x.ahead.any (fun z => z.1 = o) then x.ahead else x.ahead ++ [(o, d)] } ∧ (t.sess i).h = h.seq % 2 ^ 32 ∧ (t.sess i).lastTaken = s.dev.u.elapsed ∧ t.dev.u.out.length = s.dev.u.out.length + 1) ∧
  (∀ (s : State) (i : Nat) (h : Hdr) (x : Bulk) (d e : List Byte), Live s → Canon s → HostLinkUp s → Named s i h → bulkOf (s.sess i) h.tagw = some x → x.out = false → x.opcode ≠ 0x0501 → d.length = 1448 → e.length = 1448 → x.acked % 1448 = 0 → x.acked + 2896 < x.len → x.acked < x.limit → x.run < 14 → x.ahead = [(x.acked + 1448, e)] →
    Does (.bulkdata h x.acked false d) s fun t => bulkOf (t.sess i) h.tagw = some { x with data := x.data ++ d ++ e, acked := x.acked + 2896, run := x.run + 2, waitSince := some s.dev.u.elapsed, ahead := [] } ∧ (t.sess i).h = h.seq % 2 ^ 32) ∧
  (∀ (s : State) (i : Nat) (h : Hdr) (x : Bulk) (c : Commit) (d : List Byte), Live s → Canon s → HostLinkUp s → Named s i h → bulkOf (s.sess i) h.tagw = some x → x.out = false → x.opcode = 0x0404 → x.acked % 1448 = 0 → x.len ≤ x.acked + 1448 → d.length + x.acked = x.len → x.acked < x.limit → calCheck (x.data ++ d) ≠ St.ok → s.dev.u.nv.commit = some c → c.serves = some (i, h.tagw) → c.obj = .calibration → (∃ z ∈ (s.sess i).tags, tagOf z.tagw = tagOf h.tagw ∧ z.done = false) → x.ahead = [] →
    Does (.bulkdata h x.acked true d) s fun t => bulkOf (t.sess i) h.tagw = none ∧ tagIn (t.sess i) h.tagw = none ∧ (∃ y ∈ (t.sess i).held, y.tag = tagOf h.tagw ∧ y.pkt.status = calCheck (x.data ++ d)) ∧ t.dev.u.tomo = s.dev.u.tomo ∧ t.dev.u.nv.tabSel = s.dev.u.nv.tabSel ∧ (t.sess i).h = h.seq % 2 ^ 32 ∧ (t.sess i).lastTaken = s.dev.u.elapsed) ∧
  (∀ (s : State) (i : Nat) (h : Hdr) (x : Bulk) (c : Commit) (d : List Byte), Live s → Canon s → HostLinkUp s → Named s i h → bulkOf (s.sess i) h.tagw = some x → x.out = false → x.opcode = 0x0404 → x.acked % 1448 = 0 → x.len ≤ x.acked + 1448 → d.length + x.acked = x.len → x.acked < x.limit → calCheck (x.data ++ d) = St.ok → s.dev.u.nv.commit = some c → x.ahead = [] →
    Does (.bulkdata h x.acked true d) s fun t => bulkOf (t.sess i) h.tagw = none ∧ t.dev.u.nv.commit = some { c with data := x.data ++ d, step := 4, dataAt := s.dev.u.elapsed } ∧ t.fld F.BOOT_JOURNAL_STEP = s.fld F.BOOT_JOURNAL_STEP ∧ t.dev.u.tomo = s.dev.u.tomo ∧ (t.sess i).h = h.seq % 2 ^ 32 ∧ (t.sess i).lastTaken = s.dev.u.elapsed) ∧
  (∀ (s : State) (i : Nat) (h : Hdr) (x : Bulk) (a l : Nat), Live s → Canon s → HostLinkUp s → Named s i h → bulkOf (s.sess i) h.tagw = some x → x.out = true → x.opcode = 0x0405 → x.acked ≤ a → a < x.len → x.len ≤ x.next →
    Does (.bulkwin h a l) s fun t => (bulkOf (t.sess i) h.tagw).map (fun y => (y.acked, y.limit, y.next)) = some (a, max x.limit l, x.next) ∧ t.dev.u.out = s.dev.u.out ∧ (t.sess i).h = h.seq % 2 ^ 32 ∧ (t.sess i).lastTaken = s.dev.u.elapsed) ∧
  (∀ (s : State) (i : Nat) (h : Hdr) (x : Bulk) (a l : Nat) (z : OutTag), Live s → Canon s → HostLinkUp s → Named s i h → bulkOf (s.sess i) h.tagw = some x → x.out = true → x.len ≤ a → s.dev.u.nv.commit = none → z ∈ (s.sess i).tags → tagOf z.tagw = tagOf h.tagw → z.done = false →
    Does (.bulkwin h a l) s fun t => bulkOf (t.sess i) h.tagw = none ∧ tagIn (t.sess i) h.tagw = none ∧ (∃ y ∈ (t.sess i).held, y.tag = tagOf h.tagw ∧ y.pkt.status = St.ok ∧ y.pkt.kind = 3 ∧ y.pkt.payload = []) ∧ (t.sess i).h = h.seq % 2 ^ 32 ∧ (t.sess i).lastTaken = s.dev.u.elapsed) ∧
  (∀ (s : State) (i tag since : Nat) (x : Bulk), Live s → Canon s → HostLinkUp s → i < 4 → bulkOf (s.sess i) tag = some x → x.out = true → x.opcode = 0x0405 → x.limitSince = some since → since + 2000000 ≤ s.dev.u.elapsed → x.acked < x.len → x.len ≤ x.limit →
    Does (.bulkResendTimeout i tag) s fun t => (bulkOf (t.sess i) tag).map (fun y => (y.acked, y.limit, decide (y.len ≤ y.next), y.limitSince)) = some (x.acked, x.limit, true, if x.len = x.limit then some s.dev.u.elapsed else none) ∧ (HasHop s (s.sess i).ip → t.dev.u.out.length = s.dev.u.out.length + (x.len - x.acked / 1448 * 1448 + 1447) / 1448) ∧ OnlyRegs [] s t) ∧
  (∀ (s : State) (i tag since : Nat) (x : Bulk), Live s → Canon s → HostLinkUp s → i < 4 → bulkOf (s.sess i) tag = some x → x.out = true → x.opcode = 0x0405 → x.limitSince = some since → since + 2000000 ≤ s.dev.u.elapsed → x.acked % 1448 = 0 → x.limit % 1448 = 0 → x.acked < x.limit → x.limit < x.len →
    Does (.bulkResendTimeout i tag) s fun t => (bulkOf (t.sess i) tag).map (fun y => (y.acked, y.limit, y.next, y.limitSince)) = some (x.acked, x.limit, x.limit, some s.dev.u.elapsed) ∧ (HasHop s (s.sess i).ip → t.dev.u.out.length = s.dev.u.out.length + (x.limit - x.acked) / 1448) ∧ OnlyRegs [] s t) ∧
  (∀ (s : State) (i tag since : Nat) (x : Bulk) (z : OutTag), Live s → Canon s → i < 4 → bulkOf (s.sess i) tag = some x → x.waitSince = some since → since + max 1 (s.fld F.CMD_BULKTO_T) * 1000000 ≤ s.dev.u.elapsed → s.dev.u.nv.commit = none → z ∈ (s.sess i).tags → tagOf z.tagw = tagOf tag → z.done = false → HostLinkUp s → (s.sess i).queue = [] → HasHop s (s.sess i).ip →
    Does (.bulkTimeout i tag) s fun t => bulkOf (t.sess i) tag = none ∧ tagIn (t.sess i) tag = none ∧ (∃ y ∈ (t.sess i).held, y.tag = tagOf tag ∧ y.pkt.status = St.bulkTimeout ∧ y.pkt.kind = 3))

/-- A field bus is enabled, integrated, recovered and disabled. EN set with a valid timing set powers the active path and
  waits for 11 recessive bits, after which the controller is error-active with both counters 0; an invalid set is rejected.
  From bus-off, RECOVER and then 128 × 11 recessive bits do the same. Clearing EN disables the bus and ends what it had to
  send. A cycle starts at its wall time, by the registers at first and then by the period and phase that the running cycle
  took, and takes the windows. In the gap of a switch-over, in which no path is sampled, neither count of recessive bits ends.
  Completion (a next state with its own effect, for every state and operands that meet the conditions) is stated of:
  busEnable, busDisable, busIntegrated, busRecoveryDone, busRecoverWrite, busCycleStart. (R477, R478, R479, R482, R490, R491,
  R501). -/
def Obligations.BusControl : Prop :=
  (∀ (s : State) (n : Nat) (src : Src), Live s → Canon s → s.dev.u.fld.buses.length = 4 → n < 4 → TimingValid s n → s.fld (F.FLD_BCTL_EN n) = 0 → NoLoss s →
    Does (.busEnable src n 0x80008000) s fun t => t.fld (F.FLD_BCTL_EN n) = 1 ∧ (t.bus n).waiting = some s.dev.u.elapsed ∧ t.powered (130 + 2 * n + s.fld (F.NET_LSTAT_ACTIVE (n + 1))) ∧ t.fld (F.FLD_BSTAT_STATE n) = s.fld (F.FLD_BSTAT_STATE n) ∧ t.reg R.FLD_STAT = s.reg R.FLD_STAT) ∧
  (∀ (s : State) (n : Nat) (src : Src), Live s → Canon s → n < 4 → ¬ TimingValid s n → s.fld (F.FLD_BCTL_EN n) = 0 →
    Does (.busEnable src n 0x80008000) s fun t => t.fld (F.FLD_BCTL_EN n) = 0 ∧ t.fld F.FLD_STAT_CFGREJ = 1 ∧ t.dev.u = s.dev.u ∧ OnlyRegs [R.FLD_STAT] s t) ∧
  (∀ (s : State) (n : Nat) (src : Src), Live s → Canon s → s.dev.u.fld.buses.length = 4 → n < 4 → s.fld (F.FLD_BCTL_EN n) = 1 → (s.bus n).sending = none → (s.bus n).replySending = none →
    Does (.busDisable src n 0x80000000) s fun t => t.fld (F.FLD_BCTL_EN n) = 0 ∧ t.fld (F.FLD_BSTAT_STATE n) = 3 ∧ t.fld (F.FLD_BECNT_TEC n) = 0 ∧ t.fld (F.FLD_BECNT_REC n) = 0 ∧ (t.bus n).queue = [] ∧ (t.bus n).replies = [] ∧ (t.bus n).waiting = none ∧ t.fld (F.FLD_FAILCNT_CNT n) = (s.fld (F.FLD_FAILCNT_CNT n) + (s.bus n).queue.length) % 2 ^ 32 ∧ ¬ t.powered (130 + 2 * n + s.fld (F.NET_LSTAT_ACTIVE (n + 1)))) ∧
  (∀ (s : State) (n : Nat) (since : Nat), Live s → Canon s → s.dev.u.fld.buses.length = 4 → n < 4 → (s.bus n).waiting = some since → since + 11 * s.nomBit n * 25 / 2 ≤ s.dev.u.elapsed → (s.dev.u.net.links.getD (n + 1) {}).gap = false →
    Does (.busIntegrated n) s fun t => t.fld (F.FLD_BSTAT_STATE n) = 0 ∧ t.fld (F.FLD_BECNT_TEC n) = 0 ∧ t.fld (F.FLD_BECNT_REC n) = 0 ∧ (t.bus n).waiting = none ∧ (t.bus n).recover = none) ∧
  (∀ (s : State) (n : Nat), Live s → (s.dev.u.net.links.getD (n + 1) {}).gap = true →
    Does (.busIntegrated n) s fun t => t = s) ∧
  (∀ (s : State) (n : Nat) (since : Nat), Live s → Canon s → s.dev.u.fld.buses.length = 4 → n < 4 → (s.bus n).recover = some since → since + 128 * 11 * s.nomBit n * 25 / 2 ≤ s.dev.u.elapsed → (s.dev.u.net.links.getD (n + 1) {}).gap = false →
    Does (.busRecoveryDone n) s fun t => t.fld (F.FLD_BSTAT_STATE n) = 0 ∧ t.fld (F.FLD_BECNT_TEC n) = 0 ∧ t.fld (F.FLD_BECNT_REC n) = 0 ∧ (t.bus n).waiting = none ∧ (t.bus n).recover = none ∧ t.fld (F.FLD_BSTAT_RECOVERING n) = 0) ∧
  (∀ (s : State) (n : Nat), Live s → (s.dev.u.net.links.getD (n + 1) {}).gap = true →
    Does (.busRecoveryDone n) s fun t => t = s) ∧
  (∀ (s : State) (n : Nat) (src : Src), Live s → Canon s → s.dev.u.fld.buses.length = 4 → n < 4 → s.fld (F.FLD_BSTAT_STATE n) = 2 → (s.bus n).recover = none →
    Does (.busRecoverWrite src n 0x40004000) s fun t => (t.bus n).recover = some s.dev.u.elapsed ∧ t.fld (F.FLD_BSTAT_RECOVERING n) = 1 ∧ t.fld (F.FLD_BSTAT_STATE n) = 2 ∧ OnlyRegs [R.FLD_BSTAT n] s t) ∧
  (∀ (s : State) (n : Nat) (k : Nat), Live s → Canon s → s.dev.u.fld.buses.length = 4 → n < 4 → k = s.dev.u.wall / 10000 → s.dev.u.wall % 10000 < 4 → k % max 100 (s.fld (F.FLD_CYC_CYC n)) = s.fld (F.FLD_CPH_PH n) % max 100 (s.fld (F.FLD_CYC_CYC n)) → (s.bus n).cycleW = none →
    Does (.busCycleStart n) s fun t => (t.bus n).cycleW = some k ∧ (t.bus n).cycleAt = s.dev.u.elapsed ∧ (t.bus n).cycleLen = max 100 (s.fld (F.FLD_CYC_CYC n)) ∧ (t.bus n).wins = (List.range 32).map (fun w => (s.fld (F.FLD_WOFF_OFF n w), s.fld (F.FLD_WLEN_LEN n w))) ∧ (t.bus n).opened = [] ∧ OnlyRegs [] s t) ∧
  (∀ (s : State) (n : Nat) (k k0 : Nat), Live s → Canon s → s.dev.u.fld.buses.length = 4 → n < 4 → k = s.dev.u.wall / 10000 → s.dev.u.wall % 10000 < 4 → (s.bus n).cycleW = some k0 → k ≠ k0 → k % (s.bus n).cyc = (s.bus n).cph % (s.bus n).cyc →
    Does (.busCycleStart n) s fun t => (t.bus n).cycleW = some k ∧ (t.bus n).cycleAt = s.dev.u.elapsed ∧ (t.bus n).cycleLen = max 100 (s.fld (F.FLD_CYC_CYC n)) - (k + max 100 (s.fld (F.FLD_CYC_CYC n)) - s.fld (F.FLD_CPH_PH n) % max 100 (s.fld (F.FLD_CYC_CYC n))) % max 100 (s.fld (F.FLD_CYC_CYC n)) ∧ (t.bus n).cyc = max 100 (s.fld (F.FLD_CYC_CYC n)) ∧ (t.bus n).cph = s.fld (F.FLD_CPH_PH n) ∧ (t.bus n).wins = (List.range 32).map (fun w => (s.fld (F.FLD_WOFF_OFF n w), s.fld (F.FLD_WLEN_LEN n w))) ∧ (t.bus n).opened = [] ∧ OnlyRegs [] s t)

/-- Windows open, attempts start and end. When a window opens, each object of its bus, window and cycle takes its data into
  the queue; at a bus idle the head of the queue is attempted, unless it no longer fits its window: NOROOM. The end of an
  attempt writes the object's outcome, counts it, and moves the error counters; an error adds 8 but for what ISO 11898-1
  excepts, and 8 for each further error of its error frame (assumption log 35), and past 255 takes the bus off. Completion (a
  next state with its own effect, for every state and operands that meet the conditions) is stated of: windowOpen,
  txAttemptStart, txAttemptEnd. (R481, R482, R483, R484, R487, R488, R489, R490). -/
def Obligations.BusTransmits : Prop :=
  (∀ (s : State) (n : Nat) (w o : Nat), Live s → Canon s → s.dev.u.fld.buses.length = 4 → n < 4 → w < 32 → w ∉ (s.bus n).opened → (s.bus n).cycleW ≠ none → ((s.bus n).wins.getD w (0, 0)).2 ≠ 0 → ((s.bus n).wins.getD w (0, 0)).1 < (s.bus n).cycleLen → (s.bus n).cycleAt + ((s.bus n).wins.getD w (0, 0)).1 * 10000 ≤ s.dev.u.elapsed → s.dev.u.elapsed < (s.bus n).cycleAt + min (((s.bus n).wins.getD w (0, 0)).1 + ((s.bus n).wins.getD w (0, 0)).2) (s.bus n).cycleLen * 10000 → o < 256 → (∀ q ∈ List.range 256, q ≠ o → s.fld (F.FLD_TXCFG_MODE q) = 0) → s.fld (F.FLD_TXCFG_MODE o) = 1 → s.fld (F.FLD_TXCFG_BUS o) = n → s.fld (F.FLD_TXCFG_WIN o) = w → s.fld (F.FLD_TXOPT_DIV o) = 0 → s.fld (F.FLD_BSTAT_STATE n) ≤ 1 → s.fld (F.FLD_TXCFG_FDF o) = 0 → s.fld (F.FLD_TXCFG_XID o) = 0 → s.fld (F.FLD_TXCFG_DLC o) = 8 → (s.bus n).queue = [] →
    Does (.windowOpen n w) s fun t => (t.bus n).queue.map (fun m => (m.obj, m.frame, m.ends, m.twc)) = [(o, ⟨false, false, false, false, false, s.fld (F.FLD_TXIDL_ID o) % 2048, 8, (s.txData o).take 8⟩, (s.bus n).cycleAt + min (((s.bus n).wins.getD w (0, 0)).1 + ((s.bus n).wins.getD w (0, 0)).2) (s.bus n).cycleLen * 10000, s.fld (F.FLD_TXTWC_TWC o))] ∧ t.fld (F.FLD_TXSTAT_PEND o) = 0 ∧ w ∈ (t.bus n).opened) ∧
  (∀ (s : State) (n : Nat) (m : TxMsg) (l : List TxMsg), Live s → Canon s → BusIdle s n → (s.bus n).replies = [] → (s.bus n).queue = m :: l → s.dev.u.elapsed + m.twc * 100 ≤ m.ends → (∀ y ∈ l, s.dev.u.elapsed + y.twc * 100 ≤ y.ends) →
    Does (.txAttemptStart n) s fun t => (t.bus n).queue = l ∧ (t.bus n).sending = some { m with frame := { m.frame with esi := s.fld (F.FLD_BSTAT_STATE n) == 1 } } ∧ t.dev.u.out = s.dev.u.out ++ [.canStart n (s.fld (F.FLD_BSTAT_PATH n)) { m.frame with esi := s.fld (F.FLD_BSTAT_STATE n) == 1 }] ∧ OnlyRegs [] s t) ∧
  (∀ (s : State) (n : Nat) (m : TxMsg), Live s → Canon s → BusIdle s n → (s.bus n).replies = [] → (s.bus n).queue = [m] → m.ends < s.dev.u.elapsed + m.twc * 100 → m.obj < 256 →
    Does (.txAttemptStart n) s fun t => (t.bus n).queue = [] ∧ (t.bus n).sending = none ∧ t.dev.u.out = s.dev.u.out ∧ t.fld (F.FLD_TXSTAT_OUT m.obj) = 8 ∧ t.fld (F.FLD_TXSTAT_ATT m.obj) = s.fld (F.FLD_TXSTAT_ATT m.obj) ∧ t.fld F.FLD_STAT_NOROOM = 1 ∧ t.fld (F.FLD_FAILCNT_CNT n) = (s.fld (F.FLD_FAILCNT_CNT n) + 1) % 2 ^ 32) ∧
  (∀ (s : State) (n : Nat) (m q : TxMsg), Live s → Canon s → BusIdle s n → (s.bus n).replies = [] → (s.bus n).queue = [m, q] → m.ends < s.dev.u.elapsed + m.twc * 100 → m.obj < 256 → q.win ≠ m.win → q.obj ≠ m.obj → s.dev.u.elapsed + q.twc * 100 ≤ q.ends →
    Does (.txAttemptStart n) s fun t => (t.bus n).queue = [] ∧ (t.bus n).sending.map (fun x => (x.obj, x.win, x.ends)) = some (q.obj, q.win, q.ends) ∧ t.fld (F.FLD_TXSTAT_OUT m.obj) = 8 ∧ t.fld F.FLD_STAT_NOROOM = 1 ∧ t.dev.u.out.length = s.dev.u.out.length + 1) ∧
  (∀ (s : State) (n : Nat) (m : TxMsg), Live s → Canon s → n < 4 → s.dev.u.fld.buses.length = 4 → s.fld (F.FLD_BSTAT_STATE n) ≤ 1 → (s.bus n).replySending = none → (s.bus n).sending = some m → m.obj < 256 → s.fld (F.FLD_TDC_EN n) = 0 → s.fld (F.FLD_BECNT_TEC n) ≤ 128 → s.fld (F.FLD_BECNT_REC n) ≤ 127 →
    Does (.txAttemptEnd n (.success {})) s fun t => t.fld (F.FLD_TXSTAT_OUT m.obj) = 1 ∧ t.fld (F.FLD_TXSTAT_FIELD m.obj) = 5 ∧ t.fld (F.FLD_TXSTAT_BITPOS m.obj) = 6 ∧ t.fld (F.FLD_TXSTAT_ATT m.obj) = (s.fld (F.FLD_TXSTAT_ATT m.obj) + 1) % 256 ∧ (t.bus n).sending = none ∧ t.fld (F.FLD_OKCNT_CNT n) = (s.fld (F.FLD_OKCNT_CNT n) + 1) % 2 ^ 32 ∧ t.fld (F.FLD_FAILCNT_CNT n) = s.fld (F.FLD_FAILCNT_CNT n) ∧ t.fld (F.FLD_BECNT_TEC n) = s.fld (F.FLD_BECNT_TEC n) - 1 ∧ t.fld (F.FLD_BSTAT_STATE n) = 0) ∧
  (∀ (s : State) (n : Nat) (m : TxMsg) (p : Nat), Live s → Canon s → n < 4 → s.dev.u.fld.buses.length = 4 → s.fld (F.FLD_BSTAT_STATE n) ≤ 1 → (s.bus n).replySending = none → (s.bus n).sending = some m → m.obj < 256 → s.fld (F.FLD_TDC_EN n) = 0 → p < 33 →
    Does (.txAttemptEnd n (.lostArbitration p)) s fun t => t.fld (F.FLD_TXSTAT_OUT m.obj) = 2 ∧ t.fld (F.FLD_TXSTAT_BITPOS m.obj) = p ∧ t.fld (F.FLD_TXSTAT_ATT m.obj) = (s.fld (F.FLD_TXSTAT_ATT m.obj) + 1) % 256 ∧ (t.bus n).sending = none ∧ t.fld (F.FLD_FAILCNT_CNT n) = (s.fld (F.FLD_FAILCNT_CNT n) + 1) % 2 ^ 32 ∧ t.fld F.FLD_STAT_FAIL = 1 ∧ t.reg (R.FLD_BECNT n) = s.reg (R.FLD_BECNT n)) ∧
  (∀ (s : State) (n : Nat) (m : TxMsg) (c f p : Nat), Live s → Canon s → n < 4 → s.dev.u.fld.buses.length = 4 → s.fld (F.FLD_BSTAT_STATE n) ≤ 1 → (s.bus n).replySending = none → (s.bus n).sending = some m → m.obj < 256 → s.fld (F.FLD_TDC_EN n) = 0 → txErrorPlace c f p = true → (c = 4 → f = 0 → (if m.frame.ext then 32 else 12) < p) → (c = 6 → s.fld (F.FLD_BSTAT_STATE n) = 0) → s.fld (F.FLD_BECNT_TEC n) ≤ 247 →
    Does (.txAttemptEnd n (.error c f p {})) s fun t => t.fld (F.FLD_TXSTAT_OUT m.obj) = c ∧ t.fld (F.FLD_TXSTAT_FIELD m.obj) = f ∧ t.fld (F.FLD_TXSTAT_BITPOS m.obj) = p ∧ t.fld (F.FLD_TXSTAT_ATT m.obj) = (s.fld (F.FLD_TXSTAT_ATT m.obj) + 1) % 256 ∧ (t.bus n).sending = none ∧ t.fld (F.FLD_BLERR_CODE n) = c ∧ t.fld (F.FLD_BLERR_TX n) = 1 ∧ t.fld (F.FLD_BLERR_FIELD n) = f ∧ t.fld (F.FLD_BLERR_BITPOS n) = p ∧ t.fld F.FLD_STAT_FAIL = 1 ∧ t.fld (F.FLD_BECNT_TEC n) = min 511 (s.fld (F.FLD_BECNT_TEC n) + 8) ∧ t.fld (F.FLD_BSTAT_STATE n) = (if 127 < s.fld (F.FLD_BECNT_TEC n) + 8 ∨ 127 < s.fld (F.FLD_BECNT_REC n) then 1 else 0)) ∧
  (∀ (s : State) (n : Nat) (m : TxMsg) (c f p : Nat), Live s → Canon s → n < 4 → s.dev.u.fld.buses.length = 4 → s.fld (F.FLD_BSTAT_STATE n) ≤ 1 → (s.bus n).replySending = none → (s.bus n).sending = some m → m.obj < 256 → s.fld (F.FLD_TDC_EN n) = 0 → txErrorPlace c f p = true → (c = 4 → f = 0 → (if m.frame.ext then 32 else 12) < p) → (c = 6 → s.fld (F.FLD_BSTAT_STATE n) = 0) → 248 ≤ s.fld (F.FLD_BECNT_TEC n) →
    Does (.txAttemptEnd n (.error c f p {})) s fun t => t.fld (F.FLD_TXSTAT_OUT m.obj) = c ∧ t.fld (F.FLD_TXSTAT_FIELD m.obj) = f ∧ t.fld (F.FLD_TXSTAT_BITPOS m.obj) = p ∧ t.fld (F.FLD_TXSTAT_ATT m.obj) = (s.fld (F.FLD_TXSTAT_ATT m.obj) + 1) % 256 ∧ (t.bus n).sending = none ∧ t.fld (F.FLD_BLERR_CODE n) = c ∧ t.fld (F.FLD_BLERR_TX n) = 1 ∧ t.fld (F.FLD_BLERR_FIELD n) = f ∧ t.fld (F.FLD_BLERR_BITPOS n) = p ∧ t.fld F.FLD_STAT_FAIL = 1 ∧ t.fld (F.FLD_BECNT_TEC n) = min 511 (s.fld (F.FLD_BECNT_TEC n) + 8) ∧ t.fld (F.FLD_BSTAT_STATE n) = 2 ∧ bitAt (t.reg R.FLD_STAT).toNat (12 + n) = true ∧ (t.bus n).queue = [] ∧ (t.bus n).replies = []) ∧
  (∀ (s : State) (n : Nat) (m : TxMsg) (c f p : Nat), Live s → Canon s → n < 4 → s.dev.u.fld.buses.length = 4 → s.fld (F.FLD_BSTAT_STATE n) ≤ 1 → (s.bus n).replySending = none → (s.bus n).sending = some m → m.obj < 256 → s.fld (F.FLD_TDC_EN n) = 0 → txErrorPlace c f p = true → ((c = 4 ∧ f = 0 ∧ p ≤ 12) ∨ (c = 6 ∧ s.fld (F.FLD_BSTAT_STATE n) = 1)) → s.fld (F.FLD_BECNT_TEC n) ≤ 255 →
    Does (.txAttemptEnd n (.error c f p {})) s fun t => t.fld (F.FLD_TXSTAT_OUT m.obj) = c ∧ t.fld (F.FLD_TXSTAT_FIELD m.obj) = f ∧ t.fld (F.FLD_TXSTAT_BITPOS m.obj) = p ∧ (t.bus n).sending = none ∧ t.fld (F.FLD_BLERR_CODE n) = c ∧ t.fld F.FLD_STAT_FAIL = 1 ∧ t.reg (R.FLD_BECNT n) = s.reg (R.FLD_BECNT n) ∧ (t.bus n).queue = (s.bus n).queue) ∧
  (∀ (s : State) (n : Nat) (m : TxMsg) (c f p c2 p2 k : Nat), Live s → Canon s → n < 4 → s.dev.u.fld.buses.length = 4 → s.fld (F.FLD_BSTAT_STATE n) ≤ 1 → (s.bus n).replySending = none → (s.bus n).sending = some m → m.obj < 256 → s.fld (F.FLD_TDC_EN n) = 0 → txErrorPlace c f p = true → c ≠ 4 → c ≠ 6 → (c2 = 3 ∨ c2 = 5) → p2 < 512 →
    Does (.txAttemptEnd n (.error c f p ⟨[(c2, p2)], k, false⟩)) s fun t => t.fld (F.FLD_TXSTAT_OUT m.obj) = c ∧ t.fld (F.FLD_TXSTAT_FIELD m.obj) = f ∧ t.fld (F.FLD_TXSTAT_BITPOS m.obj) = p ∧ t.fld (F.FLD_BLERR_CODE n) = c2 ∧ t.fld (F.FLD_BLERR_TX n) = 1 ∧ t.fld (F.FLD_BLERR_FIELD n) = 6 ∧ t.fld (F.FLD_BLERR_BITPOS n) = p2 ∧ t.fld (F.FLD_BECNT_TEC n) = min 511 (s.fld (F.FLD_BECNT_TEC n) + 8 + 8 * (1 + k)))

/-- Frames received, stale objects and Ledger responses. A frame received without error is counted and goes to the
  lowest-numbered object that takes it, or is dropped and counted; a Ledger request of a node opens its reply window. An
  object that takes nothing for its time is stale. A Ledger response goes ahead of window messages, once, or fails at the end
  of its window. An error as receiver is recorded and counted by ISO 11898-1 (assumption log 35). In the gap of a switch-over
  no error is seen. Dominant bits after an overload flag add 8 to the receive counter without an error record. Completion (a
  next state with its own effect, for every state and operands that meet the conditions) is stated of: canFrameReceived,
  rxStaleTimeout, ledgerResponseSend, ledgerReplyWindowEnd, receiverError. (R489, R494, R495, R496, R497, R498). -/
def Obligations.BusReceives : Prop :=
  (∀ (s : State) (n : Nat) (f : CanFrame) (o : Nat), Live s → Canon s → n < 4 → s.dev.u.fld.buses.length = 4 → s.fld (F.FLD_BSTAT_STATE n) ≤ 1 → (s.dev.u.net.links.getD (n + 1) {}).gap = false → f.remote = false → (s.fld (F.FLD_LEDG_EN n) = 0 ∨ f.ext = true) → s.fld (F.FLD_BECNT_TEC n) ≤ 255 → o < 256 → Takes s n f o → (∀ q ∈ List.range o, ¬ Takes s n f q) → f.id < 2 ^ 29 → f.dlc < 16 → f.data.length ≤ 64 →
    Does (.canFrameReceived n f) s fun t => t.fld (F.FLD_RXCNT_CNT n) = (s.fld (F.FLD_RXCNT_CNT n) + 1) % 2 ^ 32 ∧ t.rxData o = f.data ++ zeros (64 - f.data.length) ∧ t.fld (F.FLD_RXSTAT_SEQ o) = (s.fld (F.FLD_RXSTAT_SEQ o) + 1) % 256 ∧ t.fld (F.FLD_RXSTAT_DLC o) = f.dlc ∧ (t.fld (F.FLD_RXSTAT_FDF o) = 1 ↔ f.fd = true) ∧ (t.fld (F.FLD_RXSTAT_BRS o) = 1 ↔ f.brs = true) ∧ (t.fld (F.FLD_RXSTAT_ESI o) = 1 ↔ f.esi = true) ∧ t.fld (F.FLD_RXRID_ID o) = f.id ∧ t.fld (F.FLD_RXDROP_CNT n) = s.fld (F.FLD_RXDROP_CNT n) ∧ (s.fld (F.FLD_RXCFG_STALE o) ≠ 0 → t.fld (F.FLD_RXSTAT_STALE o) = 0)) ∧
  (∀ (s : State) (n : Nat) (f : CanFrame), Live s → Canon s → n < 4 → s.dev.u.fld.buses.length = 4 → s.fld (F.FLD_BSTAT_STATE n) ≤ 1 → (s.dev.u.net.links.getD (n + 1) {}).gap = false → f.remote = false → (s.fld (F.FLD_LEDG_EN n) = 0 ∨ f.ext = true) → s.fld (F.FLD_BECNT_TEC n) ≤ 255 → (∀ q ∈ List.range 256, ¬ Takes s n f q) →
    Does (.canFrameReceived n f) s fun t => t.fld (F.FLD_RXCNT_CNT n) = (s.fld (F.FLD_RXCNT_CNT n) + 1) % 2 ^ 32 ∧ t.fld (F.FLD_RXDROP_CNT n) = min 0xFFFFFFFF (s.fld (F.FLD_RXDROP_CNT n) + 1) ∧ (∀ q ∈ List.range 256, t.rxData q = s.rxData q)) ∧
  (∀ (s : State) (n : Nat) (f : CanFrame) (k : Nat), Live s → Canon s → n < 4 → s.dev.u.fld.buses.length = 4 → s.fld (F.FLD_BSTAT_STATE n) ≤ 1 → (s.dev.u.net.links.getD (n + 1) {}).gap = false → s.fld (F.FLD_LEDG_EN n) = 1 → f.remote = false → f.ext = false → f.fd = true → f.data.length = 16 → 1 ≤ k → k ≤ 62 → f.id = s.fld (F.FLD_LEDG_BASE n) * 128 + k → s.fld (F.FLD_BECNT_TEC n) ≤ 255 → leAt f.data 1 1 ≠ k →
    Does (.canFrameReceived n f) s fun t => t.fld (F.FLD_RXCNT_CNT n) = (s.fld (F.FLD_RXCNT_CNT n) + 1) % 2 ^ 32 ∧ Responds s t n k f.data Fs.range (leAt f.data 10 4) ∧ t.dev.u.pcl = s.dev.u.pcl) ∧
  (∀ (s : State) (o last : Nat), Live s → Canon s → o < 256 → s.dev.u.fld.rxLast.find? (fun x => x.1 = o) = some (o, last) → s.fld (F.FLD_RXCFG_STALE o) ≠ 0 → last + s.fld (F.FLD_RXCFG_STALE o) * 10000000 ≤ s.dev.u.elapsed → s.fld (F.FLD_RXSTAT_STALE o) = 0 →
    Does (.rxStaleTimeout o) s fun t => t.fld (F.FLD_RXSTAT_STALE o) = 1 ∧ t.fld F.FLD_STAT_STALE = 1 ∧ t.fld (F.FLD_RXSTAT_SEQ o) = s.fld (F.FLD_RXSTAT_SEQ o) ∧ t.dev.u = s.dev.u ∧ OnlyRegs [R.FLD_RXSTAT o, R.FLD_STAT] s t) ∧
  (∀ (s : State) (n : Nat) (x : Reply) (l : List Reply), Live s → Canon s → BusIdle s n → (s.bus n).replies = x :: l → s.dev.u.elapsed < x.ends →
    Does (.ledgerResponseSend n) s fun t => (t.bus n).replies = l ∧ (t.bus n).replySending = some { x with frame := { x.frame with esi := s.fld (F.FLD_BSTAT_STATE n) == 1 } } ∧ (t.bus n).queue = (s.bus n).queue ∧ t.dev.u.out = s.dev.u.out ++ [.canStart n (s.fld (F.FLD_BSTAT_PATH n)) { x.frame with esi := s.fld (F.FLD_BSTAT_STATE n) == 1 }] ∧ OnlyRegs [] s t) ∧
  (∀ (s : State) (n : Nat), Live s → Canon s → BusIdle s n → (s.bus n).replies ≠ [] →
    Does (.txAttemptStart n) s fun t => t.dev = s.dev) ∧
  (∀ (s : State) (n : Nat) (x : Reply), Live s → Canon s → n < 4 → s.dev.u.fld.buses.length = 4 → (s.bus n).replies = [x] → x.ends ≤ s.dev.u.elapsed →
    Does (.ledgerReplyWindowEnd n x.node) s fun t => (t.bus n).replies = [] ∧ t.fld (F.FLD_LRFAIL_CNT n) = min 0xFFFFFFFF (s.fld (F.FLD_LRFAIL_CNT n) + 1) ∧ t.fld F.FLD_STAT_LRFAIL = 1 ∧ t.fld (F.FLD_OKCNT_CNT n) = s.fld (F.FLD_OKCNT_CNT n) ∧ RegsKept [5, 6, 0x11] s t) ∧
  (∀ (s : State) (n : Nat) (c f p k : Nat), Live s → Canon s → n < 4 → s.fld (F.FLD_BSTAT_STATE n) ≤ 1 → rxErrorPlace c f p = true → s.fld (F.FLD_BECNT_TEC n) ≤ 255 → (s.dev.u.net.links.getD (n + 1) {}).gap = false → c ≠ 0 →
    Does (.receiverError n c f ⟨p, k⟩) s fun t => t.fld (F.FLD_BLERR_CODE n) = c ∧ t.fld (F.FLD_BLERR_TX n) = 0 ∧ t.fld (F.FLD_BLERR_FIELD n) = f ∧ t.fld (F.FLD_BLERR_BITPOS n) = p ∧ t.fld (F.FLD_BECNT_REC n) = min 255 (s.fld (F.FLD_BECNT_REC n) + (if f = 6 ∧ c = 3 then 8 else 1) + 8 * k) ∧ t.fld (F.FLD_BECNT_TEC n) = s.fld (F.FLD_BECNT_TEC n) ∧ t.dev.u = s.dev.u) ∧
  (∀ (s : State) (n c f : Nat) (e : ErrorBit), Live s → (s.dev.u.net.links.getD (n + 1) {}).gap = true →
    Does (.receiverError n c f e) s fun t => t = s) ∧
  (∀ (s : State) (n p k : Nat), Live s → Canon s → n < 4 → s.fld (F.FLD_BSTAT_STATE n) ≤ 1 → s.fld (F.FLD_BECNT_TEC n) ≤ 255 → (s.dev.u.net.links.getD (n + 1) {}).gap = false →
    Does (.receiverError n 0 6 ⟨p, k⟩) s fun t => t.reg (R.FLD_BLERR n) = s.reg (R.FLD_BLERR n) ∧ t.fld (F.FLD_BECNT_REC n) = min 255 (s.fld (F.FLD_BECNT_REC n) + 8 * k) ∧ t.fld (F.FLD_BECNT_TEC n) = s.fld (F.FLD_BECNT_TEC n) ∧ t.dev.u = s.dev.u)

/-- Switch-overs, the Shuffle, takeback and the path images. A switch-over that is owed starts: SWITCHING and RESTARTING show,
  the standby is powered and the gap opens. At its end the standby is the active path. When it is done LASTGAP and MAXGAP take
  the gap in 8 ns cycles, at most the bound of R514, the old path switches off, the count advances, PATH_SWITCH is raised and
  a held verdict acts. A Shuffle and a takeback that are due ask for one. The standby restarts with the last completed image
  and the change log, and with the master state's copies after an overflow; a save captures the working copies and completes
  within 20 µs. Port domains take their PHYs out of reset, set up, and back. The order of held verdicts, the time of a save,
  what a path without a completed image starts from and the level of the PHY balls are the model's choice (assumption log 63,
  94, 95). Completion (a next state with its own effect, for every state and operands that meet the conditions) is stated of:
  switchoverStart, switchoverGapEnd, switchoverDone, shuffleDue, takebackDue, pathImageSave. (R507, R508, R512, R513, R514,
  R518, R520, R635). -/
def Obligations.SwitchOvers : Prop :=
  (∀ (s : State) (l : Nat) (p : Nat), Live s → Canon s → l < 6 → l < 5 → s.dev.u.net.links.length = 6 → (s.dev.u.net.links.getD l {}).want = true → s.fld (F.NET_LSTAT_SWITCHING l) = 0 → p = 1 - s.fld (F.NET_LSTAT_ACTIVE l) → NoLoss s →
    Does (.switchoverStart l) s fun t => t.fld (F.NET_LSTAT_SWITCHING l) = 1 ∧ t.fld (F.NET_LSTAT_STBY l) = 1 ∧ t.fld (F.NET_LSTAT_ACTIVE l) = s.fld (F.NET_LSTAT_ACTIVE l) ∧ (t.dev.u.net.links.getD l {}).gap = true ∧ (t.dev.u.net.links.getD l {}).want = false ∧ (t.dev.u.net.links.getD l {}).since = s.dev.u.elapsed ∧ t.powered (if l = 0 then 128 + p else if l ≤ 4 then 130 + 2 * (l - 1) + p else 138 + 2 * p)) ∧
  (∀ (s : State) (l : Nat) (i : Copies), Live s → Canon s → l < 5 → s.dev.u.net.links.length = 6 → (s.dev.u.net.links.getD l {}).want = true → s.fld (F.NET_LSTAT_SWITCHING l) = 0 → (∀ x ∈ (s.dev.u.net.links.getD l {}).saving, s.dev.u.elapsed < x.doneAt) → (s.dev.u.net.links.getD l {}).images.getD (s.dev.u.net.links.getD l {}).saveSlot none = some i → (s.dev.u.net.links.getD l {}).lost = false → (s.dev.u.net.links.getD l {}).saveAt ≠ none →
    Does (.switchoverStart l) s fun t => (t.dev.u.net.links.getD l {}).work = (s.dev.u.net.links.getD l {}).log.foldl copySet i ∧ (t.dev.u.net.links.getD l {}).saving = none ∧ (t.dev.u.net.links.getD l {}).images = (s.dev.u.net.links.getD l {}).images ∧ (t.dev.u.net.links.getD l {}).log = (s.dev.u.net.links.getD l {}).log) ∧
  (∀ (s : State) (l i : Nat) (x : Nat), Live s → Canon s → l < 5 → s.dev.u.net.links.length = 6 → (s.dev.u.net.links.getD l {}).want = true → s.fld (F.NET_LSTAT_SWITCHING l) = 0 → l = 0 → (s.dev.u.net.links.getD l {}).saving = none → (s.dev.u.net.links.getD l {}).lost = true → (s.dev.u.net.links.getD l {}).work = [(.txSeq i, x)] →
    Does (.switchoverStart l) s fun t => (t.dev.u.net.links.getD l {}).work = [(.txSeq i, (s.sess i).txSeq)] ∧ (t.dev.u.net.links.getD l {}).images = (s.dev.u.net.links.getD l {}).images) ∧
  (∀ (s : State) (l p : Nat), Live s → Canon s → l < 5 → s.dev.u.net.links.length = 6 → (s.dev.u.net.links.getD l {}).want = true → s.fld (F.NET_LSTAT_SWITCHING l) = 0 → NoLoss s → l = 0 → p = 1 - s.fld (F.NET_LSTAT_ACTIVE l) → ¬ s.powered (128 + p) → s.dev.u.net.ports.length = 2 →
    Does (.switchoverStart l) s fun t => (t.dev.u.net.ports.getD p {}).rstN = true ∧ (t.dev.u.net.ports.getD p {}).setUp = true ∧ (t.dev.u.net.ports.getD p {}).vrgMv.isSome = true ∧ t.dev.u.net.ports.getD (1 - p) {} = s.dev.u.net.ports.getD (1 - p) {} ∧ t.dev.u.out = s.dev.u.out ++ [.phySetup p 1000 true true]) ∧
  (∀ (s : State) (l : Nat) (n : Nat) (m : TxMsg), Live s → Canon s → l = n + 1 → n < 4 → s.dev.u.fld.buses.length = 4 → s.dev.u.net.links.length = 6 → (s.dev.u.net.links.getD l {}).want = true → s.fld (F.NET_LSTAT_SWITCHING l) = 0 → (s.bus n).sending = some m → m.obj < 256 →
    Does (.switchoverStart l) s fun t => (t.bus n).sending = none ∧ t.fld (F.FLD_TXSTAT_OUT m.obj) = 10 ∧ t.fld (F.FLD_TXSTAT_PEND m.obj) = s.fld (F.FLD_TXSTAT_PEND m.obj) ∧ t.reg (R.FLD_BECNT n) = s.reg (R.FLD_BECNT n) ∧ (t.bus n).queue = (s.bus n).queue) ∧
  (∀ (s : State) (l : Nat) (g : Nat), Live s → Canon s → l < 6 → s.dev.u.net.links.length = 6 → (s.dev.u.net.links.getD l {}).gap = true → g = min (s.dev.u.elapsed - (s.dev.u.net.links.getD l {}).since) (if l = 0 then 768000 else if l ≤ 4 then 2 * s.nomBit (l - 1) * 25 / 2 + 400000 else 500000) / 8 → g < 2 ^ 32 →
    Does (.switchoverGapEnd l) s fun t => t.fld (F.NET_LSTAT_ACTIVE l) = 1 - s.fld (F.NET_LSTAT_ACTIVE l) ∧ t.fld (F.NET_LSTAT_STBY l) = 2 ∧ t.fld (F.NET_LSTAT_SWITCHING l) = s.fld (F.NET_LSTAT_SWITCHING l) ∧ (t.dev.u.net.links.getD l {}).gapLen = g ∧ t.reg (R.NET_LASTGAP l) = s.reg (R.NET_LASTGAP l) ∧ t.reg (R.NET_MAXGAP l) = s.reg (R.NET_MAXGAP l) ∧ (t.dev.u.net.links.getD l {}).gap = false ∧ (t.dev.u.net.links.getD l {}).flush = true ∧ (l = 0 → t.dev.u.out = s.dev.u.out ++ [.arpAnnounce (s.reg R.CMD_IP).toNat])) ∧
  (∀ (s : State) (l : Nat), Live s → Canon s → 1 ≤ l → l ≤ 4 → s.dev.u.net.links.length = 6 → (s.dev.u.net.links.getD l {}).gap = true → s.fld (F.FLD_BCTL_EN (l - 1)) = 0 →
    Does (.switchoverGapEnd l) s fun t => t.fld (F.NET_LSTAT_ACTIVE l) = 1 - s.fld (F.NET_LSTAT_ACTIVE l) ∧ ¬ t.powered (130 + 2 * (l - 1) + (1 - s.fld (F.NET_LSTAT_ACTIVE l)))) ∧
  (∀ (s : State), Live s → Canon s → s.dev.u.net.links.length = 6 → (s.dev.u.net.links.getD 5 {}).want = true → s.fld (F.NET_LSTAT_SWITCHING 5) = 0 → s.dev.u.wall % 500000 < 4 → (s.dev.u.net.links.getD 5 {}).since + 1000 ≤ s.dev.u.elapsed →
    Does (.switchoverStart 5) s fun t => (t.dev.u.net.links.getD 5 {}).gap = true ∧ t.dev.u.rng.frozen = s.dev.u.rng.queue.length ∧ t.dev.u.rng.queue = s.dev.u.rng.queue) ∧
  (∀ (s : State), Live s → Canon s → (s.dev.u.net.links.getD 5 {}).flush = true → s.dev.u.rng.frozen ≠ 0 →
    Does (.switchoverDone 5) s fun t => t.dev = s.dev) ∧
  (∀ (s : State) (l : Nat), Live s → Canon s → l < 6 → 1 ≤ l → l ≤ 4 → s.dev.u.net.links.length = 6 → (s.dev.u.net.links.getD l {}).flush = true → (s.dev.u.net.links.getD l {}).heldA = none → (s.dev.u.net.links.getD l {}).heldB = none → s.fld (F.FLD_BCTL_EN (l - 1)) = 1 →
    Does (.switchoverDone l) s fun t => t.fld (F.NET_LSTAT_SWITCHING l) = 0 ∧ t.fld (F.NET_LSTAT_STBY l) = 0 ∧ t.fld (F.NET_LSTAT_ACTIVE l) = s.fld (F.NET_LSTAT_ACTIVE l) ∧ t.fld (F.NET_SWCNT_CNT l) = (s.fld (F.NET_SWCNT_CNT l) + 1) % 2 ^ 32 ∧ ((s.dev.u.net.links.getD l {}).gapLen < 2 ^ 32 → (t.reg (R.NET_LASTGAP l)).toNat = (s.dev.u.net.links.getD l {}).gapLen ∧ (t.reg (R.NET_MAXGAP l)).toNat = max (s.dev.u.net.links.getD l {}).gapLen (s.reg (R.NET_MAXGAP l)).toNat) ∧ t.fld F.NET_STAT_SWITCH = 1 ∧ (t.dev.u.net.links.getD l {}).flush = false ∧ (t.dev.u.net.links.getD l {}).lastSwitch = some s.dev.u.elapsed ∧ ¬ t.powered (130 + 2 * (l - 1) + (1 - s.fld (F.NET_LSTAT_ACTIVE l)))) ∧
  (∀ (s : State) (l p : Nat), Live s → Canon s → l = 0 → s.dev.u.net.links.length = 6 → (s.dev.u.net.links.getD l {}).flush = true → (s.dev.u.net.links.getD l {}).heldA = none → (s.dev.u.net.links.getD l {}).heldB = none → s.dev.u.sys.started = true → p = 1 - s.fld (F.NET_LSTAT_ACTIVE l) → s.powered (128 + p) → s.dev.u.net.ports.length = 2 →
    Does (.switchoverDone l) s fun t => ¬ t.powered (128 + p) ∧ (t.dev.u.net.ports.getD p {}).rstN = false ∧ t.dev.u.net.ports.getD (1 - p) {} = s.dev.u.net.ports.getD (1 - p) {} ∧ t.fld (F.NET_LSTAT_SWITCHING l) = 0 ∧ ((s.dev.u.net.links.getD l {}).gapLen < 2 ^ 32 → (t.reg (R.NET_LASTGAP l)).toNat = (s.dev.u.net.links.getD l {}).gapLen) ∧ t.fld F.NET_STAT_SWITCH = 1 ∧ (t.dev.u.net.links.getD l {}).flush = false) ∧
  (∀ (s : State) (l : Nat), Live s → Canon s → l < 6 → 1 ≤ l → l ≤ 4 → s.dev.u.net.links.length = 6 → (s.dev.u.net.links.getD l {}).flush = true → (s.dev.u.net.links.getD l {}).heldA = some true → (s.dev.u.net.links.getD l {}).heldB = none → (s.dev.u.net.links.getD l {}).want = false → s.fld (F.NET_LSTAT_ACTIVE l) = 0 → s.fld (F.NET_LSTAT_VB l) ≠ 2 → CoreUp s 5 →
    Does (.switchoverDone l) s fun t => (t.dev.u.net.links.getD l {}).want = true ∧ (t.dev.u.net.links.getD l {}).heldA = none ∧ t.fld (F.NET_LSTAT_HELD l) = 0) ∧
  (∀ (s : State) (l : Nat), Live s → Canon s → l < 6 → l < 5 → s.dev.u.net.links.length = 6 → s.fld (F.NET_LSTAT_SWITCHING l) = 0 → (s.dev.u.net.links.getD l {}).want = false → s.fld (F.NET_LCTL_SHEN l) = 1 → (s.dev.u.net.links.getD l {}).shufRetry = none → (s.dev.u.net.links.getD l {}).shufAt + max 1 (s.fld (F.NET_SHPER_H l)) * 3600000000000 ≤ s.dev.u.elapsed + (s.dev.u.net.links.getD l {}).shufFrom → (if s.fld (F.NET_LSTAT_ACTIVE l) = 0 then s.fld (F.NET_LSTAT_VB l) else s.fld (F.NET_LSTAT_VA l)) ≠ 2 →
    Does (.shuffleDue l) s fun t => (t.dev.u.net.links.getD l {}).want = true ∧ OnlyRegs [] s t) ∧
  (∀ (s : State) (l : Nat), Live s → Canon s → l < 6 → l < 5 → s.dev.u.net.links.length = 6 → s.fld (F.NET_LSTAT_SWITCHING l) = 0 → (s.dev.u.net.links.getD l {}).want = false → s.fld (F.NET_LCTL_SHEN l) = 1 → (s.dev.u.net.links.getD l {}).shufRetry = none → (s.dev.u.net.links.getD l {}).shufAt + max 1 (s.fld (F.NET_SHPER_H l)) * 3600000000000 ≤ s.dev.u.elapsed + (s.dev.u.net.links.getD l {}).shufFrom → (if s.fld (F.NET_LSTAT_ACTIVE l) = 0 then s.fld (F.NET_LSTAT_VB l) else s.fld (F.NET_LSTAT_VA l)) = 2 →
    Does (.shuffleDue l) s fun t => (t.dev.u.net.links.getD l {}).want = false ∧ t.fld (F.NET_LSTAT_SHSKIP l) = 1 ∧ t.fld F.NET_STAT_SHSKIP = 1 ∧ (t.dev.u.net.links.getD l {}).shufRetry = some (s.dev.u.elapsed + 3600000000000)) ∧
  (∀ (s : State) (l : Nat) (e : Nat), Live s → Canon s → l < 6 → l < 5 → s.dev.u.net.links.length = 6 → s.fld (F.NET_LSTAT_SWITCHING l) = 0 → (s.dev.u.net.links.getD l {}).want = false → s.fld (F.NET_LCTL_TBEN l) = 1 → s.fld (F.NET_LCTL_PREF l) ≠ s.fld (F.NET_LSTAT_ACTIVE l) → (if s.fld (F.NET_LCTL_PREF l) = 0 then (s.dev.u.net.links.getD l {}).healthyA else (s.dev.u.net.links.getD l {}).healthyB) = some e → (s.dev.u.net.links.getD l {}).heldA = none → (s.dev.u.net.links.getD l {}).heldB = none → max e ((s.dev.u.net.links.getD l {}).lastSwitch.getD 0) + max 1 (s.fld (F.NET_TBK_T l)) * 1000000000 ≤ s.dev.u.elapsed →
    Does (.takebackDue l) s fun t => (t.dev.u.net.links.getD l {}).want = true ∧ OnlyRegs [] s t) ∧
  (∀ (s : State) (l : Nat) (x : Nat), Live s → Canon s → l < 6 → 1 ≤ l → l ≤ 4 → s.dev.u.net.links.length = 6 → s.fld (F.FLD_BCTL_EN (l - 1)) = 1 → (s.dev.u.net.links.getD l {}).gap = false → l * 100000000 ≤ s.dev.u.wall → x = (s.dev.u.wall + 1000000000 - l * 100000000) / 1000000000 → (s.dev.u.net.links.getD l {}).saveSec ≠ some x → (s.dev.u.net.links.getD l {}).saving = none →
    Does (.pathImageSave l) s fun t => (t.dev.u.net.links.getD l {}).saving.map (fun y => (y.image, y.mark, y.lost)) = some ((s.dev.u.net.links.getD l {}).work, (s.dev.u.net.links.getD l {}).log.length, false) ∧ (∀ y ∈ (t.dev.u.net.links.getD l {}).saving, s.dev.u.elapsed ≤ y.doneAt ∧ y.doneAt ≤ s.dev.u.elapsed + 20000) ∧ (t.dev.u.net.links.getD l {}).saveSec = some x ∧ (t.dev.u.net.links.getD l {}).saveAt = (s.dev.u.net.links.getD l {}).saveAt ∧ (t.dev.u.net.links.getD l {}).saveSlot = (s.dev.u.net.links.getD l {}).saveSlot ∧ (t.dev.u.net.links.getD l {}).images = (s.dev.u.net.links.getD l {}).images ∧ OnlyRegs [] s t) ∧
  (∀ (s : State) (l : Nat) (x : Nat) (y : PathSave), Live s → Canon s → l < 6 → 1 ≤ l → l ≤ 4 → s.dev.u.net.links.length = 6 → s.fld (F.FLD_BCTL_EN (l - 1)) = 1 → (s.dev.u.net.links.getD l {}).gap = false → l * 100000000 ≤ s.dev.u.wall → x = (s.dev.u.wall + 1000000000 - l * 100000000) / 1000000000 → (s.dev.u.net.links.getD l {}).saveSec ≠ some x → (s.dev.u.net.links.getD l {}).saving = some y → y.doneAt ≤ s.dev.u.elapsed → (s.dev.u.net.links.getD l {}).images.length = 2 → (s.dev.u.net.links.getD l {}).saveSlot ≤ 1 →
    Does (.pathImageSave l) s fun t => (t.dev.u.net.links.getD l {}).images.getD (1 - (s.dev.u.net.links.getD l {}).saveSlot) none = some y.image ∧ (t.dev.u.net.links.getD l {}).images.getD (s.dev.u.net.links.getD l {}).saveSlot none = (s.dev.u.net.links.getD l {}).images.getD (s.dev.u.net.links.getD l {}).saveSlot none ∧ (t.dev.u.net.links.getD l {}).saveSlot = 1 - (s.dev.u.net.links.getD l {}).saveSlot ∧ (t.dev.u.net.links.getD l {}).saveAt = some y.doneAt ∧ (t.dev.u.net.links.getD l {}).log = (s.dev.u.net.links.getD l {}).log.drop y.mark ∧ (t.dev.u.net.links.getD l {}).lost = y.lost ∧ (t.dev.u.net.links.getD l {}).saving.isSome = true ∧ OnlyRegs [] s t) ∧
  (∀ (s : State) (l i : Nat) (x : Nat), Live s → Canon s → l < 5 → s.dev.u.net.links.length = 6 → (s.dev.u.net.links.getD l {}).want = true → s.fld (F.NET_LSTAT_SWITCHING l) = 0 → l = 0 → (s.dev.u.net.links.getD l {}).saving = none → (s.dev.u.net.links.getD l {}).saveAt = none → (s.dev.u.net.links.getD l {}).work = [(.txSeq i, x)] →
    Does (.switchoverStart l) s fun t => (t.dev.u.net.links.getD l {}).work = [(.txSeq i, (s.sess i).txSeq)] ∧ (t.dev.u.net.links.getD l {}).images = (s.dev.u.net.links.getD l {}).images)

/-- Enumeration: the head's frames, the addresses taken, and what a ring may not be. While the ring forms the head sends an
  enumeration frame every 500 µs. Another module takes its address from it, steps its wall time to the head's and forwards it;
  a frame whose check fails is counted, and a member forwards it unchanged; in the gap of a switch-over a frame is lost and
  counted, and none is sent. A frame that shows a second head, at a member or at the head, one that returns with more than
  seven members, and one that came in on the wrong port of a ring that forms, are cases that the spec leaves undefined (R576).
  On a ring that has formed the head goes on sending them, a member passes them on, and a module that the head does not count
  comes back as lost (assumption log 100). On forming RNG_STAT.FORMED is set and every member present is in state member.
  Completion (a next state with its own effect, for every state and operands that meet the conditions) is stated of:
  enumFrameSend, enumFrameReceive, clusterFormed. (R526, R528, R529, R533, R576). -/
def Obligations.RingForming : Prop :=
  (∀ (s : State), Live s → Canon s → s.mode = 0 → s.dev.u.rng.forming.isSome = true → RingHead s → (s.dev.u.net.links.getD 5 {}).gap = false → (∀ x ∈ s.dev.u.rng.enumAt, x + 500000 ≤ s.dev.u.elapsed) →
    Does .enumFrameSend s fun t => t.dev.u.out = s.dev.u.out ++ [.enumFrame 2 s.dev.u.wall []] ∧ t.dev.u.rng = { s.dev.u.rng with enumAt := some s.dev.u.elapsed } ∧ OnlyRegs [] s t) ∧
  (∀ (s : State) (x : Nat), Live s → Canon s → RingHead s → s.dev.u.rng.enumAt = some x → s.dev.u.elapsed < x + 500000 →
    Does .enumFrameSend s fun t => t.dev = s.dev) ∧
  (∀ (s : State) (x : Nat), Live s → Canon s → RingHead s → s.dev.u.rng.joined = true → s.dev.u.rng.enumAt = some x → x + 500000 ≤ s.dev.u.elapsed → (s.dev.u.net.links.getD 5 {}).gap = false →
    Does .enumFrameSend s fun t => t.dev.u.rng = { s.dev.u.rng with enumAt := some s.dev.u.elapsed } ∧ t.dev.u.out = s.dev.u.out ++ [.enumFrame 2 s.dev.u.wall []] ∧ OnlyRegs [] s t) ∧
  (∀ (s : State) (f : EnumFrame) (a : Nat), Live s → Canon s → s.mode ≠ 0 → s.dev.u.rng.joined = true → RingHead s → f.crcOk = true → (∀ x ∈ f.entries, x = false) → f.entries.length ≤ 7 → s.dev.u.rng.states.length = 8 → s.dev.u.rng.n < a → a ≤ f.entries.length + 1 → (s.dev.u.net.links.getD 5 {}).gap = false → (f.onDown = false ∨ f.formed = true) →
    Does (.enumFrameReceive f) s fun t => t.dev.u.rng.n = f.entries.length + 1 ∧ t.dev.u.rng.states.getD (a - 1) 0 = 2 ∧ t.fld (F.RNG_MSTAT_STATE (a - 1)) = 2) ∧
  (∀ (s : State) (f : EnumFrame), Live s → Canon s → s.mode ≠ 0 → s.dev.u.rng.joined = true → RingMember s → f.crcOk = true → f.next ≤ 8 → (s.dev.u.net.links.getD 5 {}).gap = false → (f.onDown = false ∨ f.formed = true) → (∀ x ∈ f.entries, x = false) →
    Does (.enumFrameReceive f) s fun t => t.dev.u = { s.dev.u with out := s.dev.u.out ++ [.enumFrame (f.next + 1) f.wall (f.entries ++ [false])] } ∧ OnlyRegs [] s t) ∧
  (∀ (s : State) (f : EnumFrame), Live s → Canon s → s.mode = 0 → s.dev.u.rng.forming.isSome = true → RingMember s → f.crcOk = true → f.formed = false → f.next ≤ 8 → (s.dev.u.net.links.getD 5 {}).gap = false → (f.onDown = false ∨ f.formed = true) → (∀ x ∈ f.entries, x = false) →
    Does (.enumFrameReceive f) s fun t => t.fld F.RNG_STAT_ADDR = f.next ∧ t.dev.u.wall = f.wall ∧ t.dev.u.slew = 0 ∧ t.dev.u.out = s.dev.u.out ++ [.enumFrame (f.next + 1) f.wall (f.entries ++ [false])] ∧ OnlyRegs [R.RNG_STAT] s t) ∧
  (∀ (s : State) (f : EnumFrame), Live s → Canon s → s.mode = 0 → s.dev.u.rng.forming.isSome = true → RingMember s → f.crcOk = true → f.formed = true → f.next ≤ 8 → (s.dev.u.net.links.getD 5 {}).gap = false → (f.onDown = false ∨ f.formed = true) → (∀ x ∈ f.entries, x = false) →
    Does (.enumFrameReceive f) s fun t => t.fld F.RNG_STAT_ADDR = f.next ∧ t.dev.u.wall = f.wall ∧ t.dev.u.rng.late = true ∧ t.dev.u.rng.forming = none ∧ t.fld F.SYS_MODE_TARGET = 1 ∧ t.fld F.SYS_MODE_BUSY = 1 ∧ t.dev.u.sys.job = some ⟨1, false, none, 1⟩) ∧
  (∀ (s : State) (f : EnumFrame), Live s → Canon s → ((s.mode = 0 ∧ s.dev.u.rng.forming.isSome = true) ∨ s.dev.u.rng.joined = true) → f.crcOk = false → (s.dev.u.net.links.getD 5 {}).gap = false → RingMember s →
    Does (.enumFrameReceive f) s fun t => t.fld F.RNG_ERRCNT_CNT = min (s.fld F.RNG_ERRCNT_CNT + 1) 0xFFFFFFFF ∧ t.fld F.RNG_STAT_CRCERR = 1 ∧ t.dev.u = { s.dev.u with out := s.dev.u.out ++ [.ring (s.fld (F.NET_LSTAT_ACTIVE 5)) f.bytes] } ∧ OnlyRegs [R.RNG_ERRCNT, R.RNG_STAT] s t) ∧
  (∀ (s : State) (f : EnumFrame), Live s → Canon s → ((s.mode = 0 ∧ s.dev.u.rng.forming.isSome = true) ∨ s.dev.u.rng.joined = true) → f.crcOk = false → (s.dev.u.net.links.getD 5 {}).gap = false → RingHead s →
    Does (.enumFrameReceive f) s fun t => t.fld F.RNG_ERRCNT_CNT = min (s.fld F.RNG_ERRCNT_CNT + 1) 0xFFFFFFFF ∧ t.fld F.RNG_STAT_CRCERR = 1 ∧ t.dev.u = s.dev.u ∧ OnlyRegs [R.RNG_ERRCNT, R.RNG_STAT] s t) ∧
  (∀ (s : State) (f : EnumFrame), Live s → Canon s → ((s.mode = 0 ∧ s.dev.u.rng.forming.isSome = true) ∨ s.dev.u.rng.joined = true) → (s.dev.u.net.links.getD 5 {}).gap = true →
    Does (.enumFrameReceive f) s fun t => t.dev.u = s.dev.u ∧ t.fld (F.NET_LOSTCNT_CNT 5) = min (s.fld (F.NET_LOSTCNT_CNT 5) + 1) 0xFFFFFFFF ∧ OnlyRegs [R.NET_LOSTCNT 5] s t) ∧
  (∀ (s : State) (f : EnumFrame), Live s → Canon s → ((s.mode = 0 ∧ s.dev.u.rng.forming.isSome = true) ∨ s.dev.u.rng.joined = true) → f.crcOk = true → (s.dev.u.net.links.getD 5 {}).gap = false → RingMember s → (f.onDown = false ∨ f.formed = true) → (∃ x ∈ f.entries, x = true) →
    Stops (.enumFrameReceive f) s .ringTwoHeads) ∧
  (∀ (s : State) (f : EnumFrame), Live s → Canon s → ((s.mode = 0 ∧ s.dev.u.rng.forming.isSome = true) ∨ s.dev.u.rng.joined = true) → f.crcOk = true → (s.dev.u.net.links.getD 5 {}).gap = false → f.onDown = true → f.formed = false →
    Stops (.enumFrameReceive f) s .ringMiscabled) ∧
  (∀ (s : State) (f : EnumFrame), Live s → Canon s → s.mode = 0 → s.dev.u.rng.forming.isSome = true → RingHead s → f.crcOk = true → (∀ x ∈ f.entries, x = false) → f.entries.length ≤ 7 → (s.dev.u.net.links.getD 5 {}).gap = false → (f.onDown = false ∨ f.formed = true) →
    Does (.enumFrameReceive f) s fun t => t.dev.u.rng = { s.dev.u.rng with n := f.entries.length + 1, complete := decide (s.dev.u.rng.expect ≤ f.entries.length + 1) } ∧ OnlyRegs [] s t) ∧
  (∀ (s : State) (f : EnumFrame), Live s → Canon s → s.mode = 0 → s.dev.u.rng.forming.isSome = true → RingHead s → f.crcOk = true → (∃ x ∈ f.entries, x = true) → (s.dev.u.net.links.getD 5 {}).gap = false → (f.onDown = false ∨ f.formed = true) →
    Stops (.enumFrameReceive f) s .ringTwoHeads) ∧
  (∀ (s : State) (f : EnumFrame), Live s → Canon s → s.mode = 0 → s.dev.u.rng.forming.isSome = true → RingHead s → f.crcOk = true → (∀ x ∈ f.entries, x = false) → 8 ≤ f.entries.length → (s.dev.u.net.links.getD 5 {}).gap = false → (f.onDown = false ∨ f.formed = true) →
    Stops (.enumFrameReceive f) s .ringTooLong) ∧
  (∀ (s : State) (x : Nat), Live s → Canon s → s.mode = 0 → s.dev.u.rng.forming = some x → RingHead s → s.dev.u.rng.complete = true → 2 ≤ s.dev.u.rng.n → s.dev.u.rng.n ≤ 8 →
    Does .clusterFormed s fun t => t.fld F.RNG_STAT_FORMED = 1 ∧ t.fld F.RNG_PRESENT_JOINED = 2 ^ s.dev.u.rng.n - 1 ∧ (∀ i ∈ List.range s.dev.u.rng.n, t.fld (F.RNG_MSTAT_STATE i) = 1) ∧ t.dev.u.rng.joined = true ∧ t.dev.u.rng.forming = none ∧ t.dev.u.rng.orders = (s.dev.u.rng.orders ||| 2) ∧ t.dev.u.rng.target = 1 ∧ t.fld F.SYS_MODE_TARGET = 1 ∧ ¬ t.powered (138 + 2 * (1 - s.fld (F.NET_LSTAT_ACTIVE 5)))) ∧
  (∀ (s : State) (x : Nat), Live s → Canon s → s.mode = 0 → s.dev.u.rng.forming = some x → RingHead s → s.dev.u.rng.n = 1 → x + max 1 (s.fld F.RNG_ENUMT_T) * 100000000 ≤ s.dev.u.elapsed →
    Does .clusterFormed s fun t => t.fld F.RNG_STAT_FORMED = 1 ∧ t.fld F.RNG_PRESENT_JOINED = 1 ∧ t.dev.u.rng.joined = false ∧ t.dev.u.rng.forming = none ∧ t.fld F.SYS_MODE_TARGET = 1 ∧ t.fld F.SYS_MODE_BUSY = 1 ∧ t.dev.u.sys.job = some ⟨1, false, none, 1⟩)

/-- Ring cycles: the head's frame, the member's pass, and the frame's return. At wall time n × 500,000 ns a cluster of one
  shows CYCNT and its own entry; the head sends its frame, with its orders, and counts a carried transition in TSEQ; a member
  counts a cycle without a frame as missed. A frame that fails its check is forwarded unchanged by a member, not used, and
  counted; while RT1 is down a member forwards what comes (assumption log 72). A valid one gives the member CYCNT, its offset,
  FPER and the orders; an order to HOLD asserts cause CLUSTER. In the gap of a switch-over a frame that comes or returns is
  lost and counted. Back at the head, the slots that came show in RNG_PRESENT. Completion (a next state with its own effect,
  for every state and operands that meet the conditions) is stated of: ringCycleStart, ringFrameReceive, ringFrameReturn.
  (R530, R533, R534, R536, R541, R542, R544). -/
def Obligations.RingCycles : Prop :=
  (∀ (s : State) (n : Nat), Live s → Canon s → s.dev.u.wall % 500000 < 4 → n = s.dev.u.wall / 500000 → n < 2 ^ 32 → s.dev.u.rng.cycle ≠ some n → s.dev.u.rng.joined = false → s.fld F.RNG_STAT_FORMED = 1 → s.dev.u.rng.peers.length = 8 → CoreUp s 5 →
    Does .ringCycleStart s fun t => (t.reg R.RNG_CYCNT).toNat = n ∧ t.fld F.RNG_PRESENT_PRESENT = 1 ∧ t.fld (F.RNG_MSTAT_STATE 0) = 1 ∧ t.fld (F.RNG_MSTAT_MODE 0) = s.mode ∧ t.reg (R.RNG_MHASH 0) = t.reg R.RNG_CHASH ∧ t.dev.u.rng.cycle = some n ∧ t.dev.u.out = s.dev.u.out) ∧
  (∀ (s : State) (n p : Nat), Live s → Canon s → s.dev.u.wall % 500000 < 4 → n = s.dev.u.wall / 500000 → n < 2 ^ 32 → s.dev.u.rng.cycle ≠ some n → s.dev.u.rng.joined = true → RingHead s → RingUp s → s.dev.u.rng.out = false → s.dev.u.rng.states.length = 8 → s.dev.u.rng.peers.length = 8 → 2 ≤ s.dev.u.rng.n → s.dev.u.rng.n ≤ 8 → bitAt s.dev.u.rng.orders 1 = false → bitAt s.dev.u.rng.orders 3 = false → s.fld (F.NET_LSTAT_ACTIVE 5) = p → CoreUp s 5 → (∀ r ∈ s.dev.u.rng.relay, r.length = 8) → (∀ x ∈ s.dev.u.rng.queue, x.1.length = 8) →
    Does .ringCycleStart s fun t => (t.reg R.RNG_CYCNT).toNat = n ∧ t.dev.u.rng.out = true ∧ t.dev.u.rng.orders = 0 ∧ t.fld F.RNG_TSEQ_TSEQ = s.fld F.RNG_TSEQ_TSEQ ∧ (t.dev.u.out.any fun x => match x with | .ring q l => decide (q = p ∧ l.length = 68 + 512 * s.dev.u.rng.n ∧ leAt l 3 1 = s.dev.u.rng.orders % 256 ∧ leAt l 4 4 = n ∧ leAt l 0x14 2 = s.fld F.RNG_TSEQ_TSEQ ∧ leAt l 0x17 1 = s.mode) | _ => false) = true) ∧
  (∀ (s : State) (n : Nat), Live s → Canon s → s.dev.u.wall % 500000 < 4 → n = s.dev.u.wall / 500000 → n < 2 ^ 32 → s.dev.u.rng.cycle ≠ some n → s.dev.u.rng.joined = true → RingHead s → RingUp s → s.dev.u.rng.out = false → s.dev.u.rng.states.length = 8 → s.dev.u.rng.peers.length = 8 → 2 ≤ s.dev.u.rng.n → s.dev.u.rng.n ≤ 8 → bitAt s.dev.u.rng.orders 1 = true → bitAt s.dev.u.rng.orders 3 = false → s.dev.u.rng.target < 8 → CoreUp s 5 →
    Does .ringCycleStart s fun t => t.fld F.RNG_TSEQ_TSEQ = (s.fld F.RNG_TSEQ_TSEQ + 1) % 65536 ∧ t.fld F.SYS_MODE_TARGET = s.dev.u.rng.target ∧ t.fld F.SYS_MODE_BUSY = 1 ∧ t.dev.u.sys.job = some ⟨s.dev.u.rng.target, s.mode == 7, s.dev.u.rng.serves, 1⟩ ∧ t.dev.u.rng.orders = 0) ∧
  (∀ (s : State) (n : Nat), Live s → Canon s → s.dev.u.wall % 500000 < 4 → n = s.dev.u.wall / 500000 → n < 2 ^ 32 → s.dev.u.rng.cycle ≠ some n → s.dev.u.rng.joined = true → RingMember s → RingUp s → s.dev.u.rng.taken = false → CoreUp s 5 →
    Does .ringCycleStart s fun t => t.dev.u.rng.missed = s.dev.u.rng.missed + 1 ∧ t.dev.u.out = s.dev.u.out ∧ OnlyRegs [R.RNG_CHASH] s t) ∧
  (∀ (s : State) (f : RingFrame), Live s → Canon s → RingMember s → RingUp s → 2 ≤ s.fld F.RNG_STAT_ADDR → f.crcOk = false → CoreUp s 5 →
    Does (.ringFrameReceive f) s fun t => t.dev.u = { s.dev.u with out := s.dev.u.out ++ [.ring (s.fld (F.NET_LSTAT_ACTIVE 5)) f.bytes] } ∧ t.fld F.RNG_ERRCNT_CNT = min (s.fld F.RNG_ERRCNT_CNT + 1) 0xFFFFFFFF ∧ t.fld F.RNG_STAT_CRCERR = 1 ∧ OnlyRegs [R.RNG_ERRCNT, R.RNG_STAT] s t) ∧
  (∀ (s : State) (f : RingFrame), Live s → Canon s → RingMember s → RingUp s → 2 ≤ s.fld F.RNG_STAT_ADDR → ¬ CoreUp s 5 →
    Does (.ringFrameReceive f) s fun t => t.dev.u = { s.dev.u with out := s.dev.u.out ++ [.ring (s.fld (F.NET_LSTAT_ACTIVE 5)) f.bytes] } ∧ OnlyRegs [] s t) ∧
  (∀ (s : State) (f : RingFrame) (o : Int), Live s → Canon s → RingMember s → RingUp s → 2 ≤ s.fld F.RNG_STAT_ADDR → f.crcOk = true → s.fld F.RNG_STAT_ADDR ≤ leAt f.bytes 2 1 → leAt f.bytes 2 1 ≤ 8 → f.bytes.length = 68 + 512 * leAt f.bytes 2 1 → stateIn f.bytes (s.fld F.RNG_STAT_ADDR) = 1 → s.dev.u.rng.late = false → s.fld F.RNG_STAT_SELFLOST = 0 → s.dev.u.rng.forming = none → bitAt (leAt f.bytes 3 1) 3 = false → leAt f.bytes 3 1 = 0 → s.mode ≠ 0 → o = (s.dev.u.wall : Int) - (leAt f.bytes 8 8 + leAt f.bytes 0x10 4 : Nat) → o.natAbs < 2 ^ 31 → CoreUp s 5 →
    Does (.ringFrameReceive f) s fun t => (t.reg R.RNG_CYCNT).toNat = leAt f.bytes 4 4 ∧ toSigned 32 (t.reg R.RNG_TOFS).toNat = o ∧ (t.fld F.RNG_STAT_TIMEX = 1 ↔ 2000 < o.natAbs) ∧ t.dev.u.slew = -o ∧ t.dev.u.wall = s.dev.u.wall ∧ t.fld F.RNG_FPER_FPER = leAt f.bytes 0x22 2 ∧ t.fld F.TOMO_FPER_FPER = leAt f.bytes 0x22 2 ∧ t.fld F.RNG_TSEQ_TSEQ = s.fld F.RNG_TSEQ_TSEQ ∧ t.dev.u.rng.missed = 0 ∧ t.dev.u.rng.taken = true) ∧
  (∀ (s : State) (f : RingFrame), Live s → Canon s → RingMember s → RingUp s → 2 ≤ s.fld F.RNG_STAT_ADDR → f.crcOk = true → s.fld F.RNG_STAT_ADDR ≤ leAt f.bytes 2 1 → leAt f.bytes 2 1 ≤ 8 → f.bytes.length = 68 + 512 * leAt f.bytes 2 1 → stateIn f.bytes (s.fld F.RNG_STAT_ADDR) = 1 → s.dev.u.rng.late = false → s.fld F.RNG_STAT_SELFLOST = 0 → s.dev.u.rng.forming = none → bitAt (leAt f.bytes 3 1) 3 = false → s.mode = 0 → CoreUp s 5 →
    Does (.ringFrameReceive f) s fun t => t.dev.u.wall = leAt f.bytes 8 8 + leAt f.bytes 0x10 4 ∧ t.dev.u.slew = 0) ∧
  (∀ (s : State) (f : RingFrame), Live s → Canon s → RingMember s → RingUp s → 2 ≤ s.fld F.RNG_STAT_ADDR → f.crcOk = true → s.fld F.RNG_STAT_ADDR ≤ leAt f.bytes 2 1 → leAt f.bytes 2 1 ≤ 8 → f.bytes.length = 68 + 512 * leAt f.bytes 2 1 → stateIn f.bytes (s.fld F.RNG_STAT_ADDR) = 1 → s.dev.u.rng.late = false → s.fld F.RNG_STAT_SELFLOST = 0 → s.dev.u.rng.forming = none → bitAt (leAt f.bytes 3 1) 3 = false → leAt f.bytes 3 1 = 1 → CoreUp s 5 →
    Does (.ringFrameReceive f) s fun t => 4 ∈ t.dev.u.sys.causes ∧ t.dev.u.rng.holds = true ∧ t.mode = s.mode) ∧
  (∀ (s : State) (f : RingFrame), Live s → Canon s → RingMember s → RingUp s → 2 ≤ s.fld F.RNG_STAT_ADDR → f.crcOk = true → s.fld F.RNG_STAT_ADDR ≤ leAt f.bytes 2 1 → leAt f.bytes 2 1 ≤ 8 → f.bytes.length = 68 + 512 * leAt f.bytes 2 1 → stateIn f.bytes (s.fld F.RNG_STAT_ADDR) = 1 → s.dev.u.rng.late = false → s.fld F.RNG_STAT_SELFLOST = 0 → s.dev.u.rng.forming = none → bitAt (leAt f.bytes 3 1) 3 = false → leAt f.bytes 3 1 = 2 → leAt f.bytes 0x14 2 ≠ s.fld F.RNG_TSEQ_TSEQ → leAt f.bytes 0x16 1 < 8 → CoreUp s 5 →
    Does (.ringFrameReceive f) s fun t => t.fld F.RNG_TSEQ_TSEQ = leAt f.bytes 0x14 2 ∧ t.fld F.SYS_MODE_TARGET = leAt f.bytes 0x16 1 ∧ t.fld F.SYS_MODE_BUSY = 1 ∧ t.dev.u.sys.job = some ⟨leAt f.bytes 0x16 1, s.mode == 7, none, 1⟩) ∧
  (∀ (s : State) (f : RingFrame), Live s → Canon s → RingMember s → RingUp s → 2 ≤ s.fld F.RNG_STAT_ADDR → f.crcOk = true → s.fld F.RNG_STAT_ADDR ≤ leAt f.bytes 2 1 → leAt f.bytes 2 1 ≤ 8 → f.bytes.length = 68 + 512 * leAt f.bytes 2 1 → stateIn f.bytes (s.fld F.RNG_STAT_ADDR) = 1 → s.dev.u.rng.late = false → s.fld F.RNG_STAT_SELFLOST = 0 → s.dev.u.rng.forming = none → bitAt (leAt f.bytes 3 1) 3 = false → leAt f.bytes 3 1 = 4 → CoreUp s 5 →
    Does (.ringFrameReceive f) s fun t => t.dev.u.rng.resetAt = some (s.dev.u.elapsed + 10000000)) ∧
  (∀ (s : State) (f : RingFrame), Live s → Canon s → RingHead s → s.dev.u.rng.joined = true → s.dev.u.rng.out = true → f.crcOk = false → CoreUp s 5 → (s.dev.u.net.links.getD 5 {}).gap = false →
    Does (.ringFrameReturn f) s fun t => t.dev.u = s.dev.u ∧ t.fld F.RNG_ERRCNT_CNT = min (s.fld F.RNG_ERRCNT_CNT + 1) 0xFFFFFFFF ∧ t.fld F.RNG_STAT_CRCERR = 1 ∧ OnlyRegs [R.RNG_ERRCNT, R.RNG_STAT] s t) ∧
  (∀ (s : State) (f : RingFrame) (a : Nat), Live s → Canon s → RingHead s → s.dev.u.rng.joined = true → s.dev.u.rng.out = true → f.crcOk = true → s.dev.u.rng.peers.length = 8 → s.dev.u.rng.states.length = 8 → s.dev.u.rng.n ≤ 8 → 1 ≤ a → a ≤ s.dev.u.rng.n → CoreUp s 5 → (s.dev.u.net.links.getD 5 {}).gap = false →
    Does (.ringFrameReturn f) s fun t => t.dev.u.rng.out = false ∧ (bitAt (t.fld F.RNG_PRESENT_PRESENT) (a - 1) = true ↔ a = 1 ∨ a ∈ f.written) ∧ (a ∈ f.written → (t.reg (R.RNG_MHASH (a - 1))).toNat = leAt (slotIn f.bytes a) 8 4 ∧ t.fld (F.RNG_MSTAT_MODE (a - 1)) = leAt (slotIn f.bytes a) 1 1 % 16 ∧ (t.dev.u.rng.peers.getD (a - 1) {}).missed = 0) ∧ (a ≠ 1 → a ∉ f.written → (t.dev.u.rng.peers.getD (a - 1) {}).missed = (s.dev.u.rng.peers.getD (a - 1) {}).missed + 1)) ∧
  (∀ (s : State) (f : RingFrame), Live s → Canon s → RingHead s → s.dev.u.rng.joined = true → (s.dev.u.net.links.getD 5 {}).gap = true →
    Does (.ringFrameReturn f) s fun t => t.dev.u = s.dev.u ∧ t.fld (F.NET_LOSTCNT_CNT 5) = min (s.fld (F.NET_LOSTCNT_CNT 5) + 1) 0xFFFFFFFF ∧ OnlyRegs [R.NET_LOSTCNT 5] s t) ∧
  (∀ (s : State) (f : RingFrame), Live s → Canon s → RingMember s → (s.dev.u.net.links.getD 5 {}).gap = true → 2 ≤ s.fld F.RNG_STAT_ADDR →
    Does (.ringFrameReceive f) s fun t => t.dev.u = s.dev.u ∧ t.fld (F.NET_LOSTCNT_CNT 5) = min (s.fld (F.NET_LOSTCNT_CNT 5) + 1) 0xFFFFFFFF ∧ OnlyRegs [R.NET_LOSTCNT 5] s t)

/-- A member or the module itself is lost; a relayed verdict is published. A member whose slot the head misses RNG_LOSTN times
  in a row is marked lost: MEMLOST is set, its lanes are no longer VALID, and MEMBER_LOST is raised; with LOSTHOLD the head
  holds with cause CLUSTER. A module that misses RNG_LOSTN cycle frames in a row is self-lost and holds, and its wall time
  runs free. GO in RNG_RVCTL publishes the relay with its number, and replaces one that waits, with RELAYREJ. While RT1 is
  down neither happens (R29; DEDUCED, assumption log 72). Completion (a next state with its own effect, for every state and
  operands that meet the conditions) is stated of: memberLost, selfLost, relayVerdictGo. (R29, R548, R549, R553). -/
def Obligations.RingLosses : Prop :=
  (∀ (s : State) (a : Nat), Live s → Canon s → RingHead s → s.dev.u.rng.joined = true → s.dev.u.rng.states.length = 8 → s.dev.u.rng.peers.length = 8 → 2 ≤ a → a ≤ 8 → s.dev.u.rng.states.getD (a - 1) 0 = 1 → max 2 (s.fld F.RNG_LOSTN_N) ≤ (s.dev.u.rng.peers.getD (a - 1) {}).missed → s.dev.u.rng.lostHold = false → CoreUp s 5 →
    Does (.memberLost a) s fun t => t.fld (F.RNG_MSTAT_STATE (a - 1)) = 2 ∧ t.fld (F.RNG_MSTAT_DISAGREE (a - 1)) = 0 ∧ t.dev.u.rng = { s.dev.u.rng with states := setAt s.dev.u.rng.states (a - 1) 2 } ∧ bitAt (t.fld F.RNG_PRESENT_JOINED) (a - 1) = false ∧ t.fld F.RNG_STAT_MEMLOST = 1 ∧ (∀ k ∈ List.range 16, bitAt (t.reg (R.RNG_CLEADH (16 * (a - 1) + k))).toNat 21 = false) ∧ t.dev.u.sys = s.dev.u.sys) ∧
  (∀ (s : State) (a : Nat), Live s → Canon s → RingHead s → s.dev.u.rng.joined = true → s.dev.u.rng.states.length = 8 → s.dev.u.rng.peers.length = 8 → 2 ≤ a → a ≤ 8 → s.dev.u.rng.states.getD (a - 1) 0 = 1 → max 2 (s.fld F.RNG_LOSTN_N) ≤ (s.dev.u.rng.peers.getD (a - 1) {}).missed → s.dev.u.rng.lostHold = true → CoreUp s 5 →
    Does (.memberLost a) s fun t => t.fld (F.RNG_MSTAT_STATE (a - 1)) = 2 ∧ 4 ∈ t.dev.u.sys.causes ∧ t.dev.u.rng.holds = true ∧ bitAt t.dev.u.rng.orders 0 = true) ∧
  (∀ (s : State), Live s → Canon s → RingMember s → s.dev.u.rng.joined = true → s.dev.u.rng.late = false → s.fld F.RNG_STAT_SELFLOST = 0 → max 2 (s.fld F.RNG_LOSTN_N) ≤ s.dev.u.rng.missed → CoreUp s 5 →
    Does .selfLost s fun t => t.fld F.RNG_STAT_SELFLOST = 1 ∧ 4 ∈ t.dev.u.sys.causes ∧ t.dev.u.rng = { s.dev.u.rng with holds := true, rejoining := false } ∧ t.dev.u.slew = 0 ∧ OnlyRegs [R.RNG_STAT] s t) ∧
  (∀ (s : State) (src : Src) (v : Nat), Live s → Canon s → v < 256 → s.dev.u.rng.relay = none →
    Does (.relayVerdictGo src (BitVec.ofNat 32 (0xFF808000 + 128 * v))) s fun t => t.dev.u.rng = { s.dev.u.rng with relay := some (leBytes 2 (32768 + 128 * v + (s.reg R.RNG_RVCTL).toNat % 128) ++ zeros 2 ++ leBytes 4 (s.fld F.RNG_RVNUML_NUM + 65536 * s.fld F.RNG_RVNUMH_NUM)) } ∧ t.fld F.RNG_STAT_RELAYREJ = s.fld F.RNG_STAT_RELAYREJ ∧ OnlyRegs [R.RNG_RVCTL] s t) ∧
  (∀ (s : State) (src : Src) (v : Nat) (x : List Byte), Live s → Canon s → v < 256 → s.dev.u.rng.relay = some x →
    Does (.relayVerdictGo src (BitVec.ofNat 32 (0xFF808000 + 128 * v))) s fun t => t.dev.u.rng.relay = some (leBytes 2 (32768 + 128 * v + (s.reg R.RNG_RVCTL).toNat % 128) ++ zeros 2 ++ leBytes 4 (s.fld F.RNG_RVNUML_NUM + 65536 * s.fld F.RNG_RVNUMH_NUM)) ∧ t.fld F.RNG_STAT_RELAYREJ = 1) ∧
  (∀ (s : State) (a : Nat), Live s → ¬ CoreUp s 5 →
    Does (.memberLost a) s fun t => t = s) ∧
  (∀ (s : State), Live s → ¬ CoreUp s 5 →
    Does .selfLost s fun t => t = s)

/-- Resets. A power-on reset, a rail fault, an unlocked PLL and RESET_N reset cold: every register but those of coldShown
  takes its reset value, elapsed time is 0, and PWR_RSTCAUSE shows the cause with the rail or PLL; the charge counter stays
  but at a first power-on and a fault of rail 0, VBUS. The module watchdog, RESET and a cluster's RESET reset warm: elapsed
  and wall time, the lanes and the hold values go on, and every other register but those of coldShown and warmPart takes its
  reset value. While RESET_N is low a register write does nothing; its release ends that. A PLL out of lock for less than 10
  µs only sets UNLOCK. What a reset keeps of data that R612 does not name is the model's reading (assumption log 25). A supply
  above 70 V is a fault of the model (R643, assumption log 75). A commit that is cut leaves the banks of the step it had
  reached (R615); which step that is within the times of R614 is free (assumption log 105). Completion (a next state with its
  own effect, for every state and operands that meet the conditions) is stated of: powerOnReset, railFault, pllUnlock,
  resetNAssert, resetNRelease, moduleWatchdogExpiry, commandReset, clusterReset, pllUnlockShort. (R406, R545, R600, R602,
  R609, R610, R612, R618, R621, R624, R643). -/
def Obligations.Resets : Prop :=
  (∀ (s : State) (mv : Nat), Canon s → (s.dev.u.pwr.stopped = true ∨ NoLoss s) → 7800 < mv → mv ≤ 70000 →
    Does (.powerOnReset mv) s fun t => t.fld F.PWR_RSTCAUSE_CAUSE = 1 ∧ t.fld F.PWR_RSTCAUSE_RAIL = 0 ∧ t.fld F.PWR_STAT_QBASED = 0 ∧ (∀ a, a ∉ coldShown → t.reg a = regReset a) ∧ t.dev.u.elapsed = 0 ∧ t.dev.u.wall = 0 ∧ t.dev.u.pwr.q = 0 ∧ t.dev.u.pwr.stopped = false ∧ t.dev.u.cmd = {} ∧ t.dev.u.enc = {} ∧ t.dev.u.pcl = {} ∧ t.dev.u.sys = {} ∧ CutNv s.dev.u.nv t.dev.u.nv ∧ t.dev.u.out = s.dev.u.out) ∧
  (∀ (s : State) (mv : Nat) (l : PowerLoss), Supplied s → Canon s → s.dev.u.pwr.loss = some l → l.confirmed = true → l.done = true → s.inForce F.PWR_PFTHR_THR * 10 + 500 ≤ mv → s.dev.u.pwr.saveOut < 256 → s.dev.u.pwr.saveMs < 65536 → mv ≤ 70000 →
    Does (.powerOnReset mv) s fun t => t.fld F.PWR_RSTCAUSE_CAUSE = 8 ∧ t.fld F.PWR_LASTSAVE_OUT = s.dev.u.pwr.saveOut ∧ t.fld F.PWR_LASTSAVE_T = s.dev.u.pwr.saveMs ∧ t.fld F.PWR_STAT_QBASED = s.fld F.PWR_STAT_QBASED ∧ t.dev.u.pwr.q = s.dev.u.pwr.q ∧ t.dev.u.pwr.loss = none ∧ (∀ a, a ∉ coldShown → t.reg a = regReset a) ∧ t.dev.u.elapsed = 0 ∧ t.dev.u.wall = 0 ∧ CutNv s.dev.u.nv t.dev.u.nv) ∧
  (∀ (s : State) (mv : Nat) (l : PowerLoss), Supplied s → s.dev.u.pwr.loss = some l → l.confirmed = true → (l.done = false ∨ mv < s.inForce F.PWR_PFTHR_THR * 10 + 500) → mv ≤ 70000 →
    Does (.powerOnReset mv) s fun t => t = s) ∧
  (∀ (s : State) (mv : Nat), (s.dev.u.pwr.stopped = true ∨ NoLoss s) → mv ≤ 7800 →
    Does (.powerOnReset mv) s fun t => t = s) ∧
  (∀ (s : State) (rail : Nat), Supplied s → Canon s → rail < 8 →
    Does (.railFault rail) s fun t => t.fld F.PWR_RSTCAUSE_CAUSE = 2 ∧ t.fld F.PWR_RSTCAUSE_RAIL = rail ∧ t.dev.u.wall = 0 ∧ CutNv s.dev.u.nv t.dev.u.nv ∧ (∀ a, a ∉ coldShown → t.reg a = regReset a) ∧ t.dev.u.elapsed = 0 ∧ t.dev.u.pwr.q = (if rail = 0 then 0 else s.dev.u.pwr.q) ∧ t.fld F.PWR_STAT_QBASED = (if rail = 0 then 0 else s.fld F.PWR_STAT_QBASED)) ∧
  (∀ (s : State) (pll : Nat), Supplied s → Canon s → pll < 6 →
    Does (.pllUnlock pll) s fun t => t.fld F.PWR_RSTCAUSE_CAUSE = 3 ∧ t.fld F.PWR_RSTCAUSE_RAIL = pll ∧ t.dev.u.wall = 0 ∧ CutNv s.dev.u.nv t.dev.u.nv ∧ t.fld F.PWR_STAT_QBASED = s.fld F.PWR_STAT_QBASED ∧ (∀ a, a ∉ coldShown → t.reg a = regReset a) ∧ t.dev.u.elapsed = 0 ∧ t.dev.u.pwr.q = s.dev.u.pwr.q) ∧
  (∀ (s : State), Supplied s → Canon s →
    Does .resetNAssert s fun t => t.fld F.PWR_RSTCAUSE_CAUSE = 4 ∧ (∀ a, a ∉ coldShown → t.reg a = regReset a) ∧ t.dev.u.elapsed = 0 ∧ t.dev.u.pwr.resetNLow = true ∧ t.dev.u.pwr.q = s.dev.u.pwr.q ∧ t.fld F.BOOT_LAST_COUNT = s.fld F.BOOT_LAST_COUNT) ∧
  (∀ (s : State) (src : Src) (a : Nat) (w : Word), Supplied s → s.dev.u.pwr.resetNLow = true →
    Does (.registerWrite src a w) s fun t => t = s) ∧
  (∀ (s : State), Supplied s →
    Does .resetNRelease s fun t => t.dev.regs = s.dev.regs ∧ t.dev.u = { s.dev.u with pwr := { s.dev.u.pwr with resetNLow := false }, jtag := { s.dev.u.jtag with drives := false }, enc := { s.dev.u.enc with mainsLast := s.dev.u.elapsed }, loop := { s.dev.u.loop with loadAt := s.dev.u.elapsed } }) ∧
  (∀ (s : State), Live s → Canon s → s.dev.u.sys.started = true → s.dev.u.pwr.aliveAt + max 200 (s.inForce F.PWR_MWDT_T) * 1000000 ≤ s.dev.u.elapsed →
    Does .moduleWatchdogExpiry s fun t => t.fld F.PWR_RSTCAUSE_CAUSE = 5 ∧ WarmRegs s t ∧ t.dev.u.elapsed = s.dev.u.elapsed ∧ t.dev.u.wall = s.dev.u.wall ∧ t.dev.u.enc.lanes = s.dev.u.enc.lanes ∧ t.dev.u.pwr.q = s.dev.u.pwr.q ∧ CutNv s.dev.u.nv t.dev.u.nv) ∧
  (∀ (s : State), Live s → (s.dev.u.sys.started = false ∨ s.dev.u.elapsed < s.dev.u.pwr.aliveAt + max 200 (s.inForce F.PWR_MWDT_T) * 1000000) →
    Does .moduleWatchdogExpiry s fun t => t = s) ∧
  (∀ (s : State) (d : Nat), Live s → Canon s → s.dev.u.cmd.resetAt = some d → d ≤ s.dev.u.elapsed →
    Does .commandReset s fun t => t.fld F.PWR_RSTCAUSE_CAUSE = 6 ∧ WarmRegs s t ∧ t.dev.u.elapsed = s.dev.u.elapsed ∧ t.dev.u.wall = s.dev.u.wall ∧ t.dev.u.cmd.resetAt = none) ∧
  (∀ (s : State) (d : Nat), Live s → Canon s → s.dev.u.rng.resetAt = some d → d ≤ s.dev.u.elapsed →
    Does .clusterReset s fun t => t.fld F.PWR_RSTCAUSE_CAUSE = 7 ∧ WarmRegs s t ∧ t.dev.u.elapsed = s.dev.u.elapsed ∧ t.dev.u.wall = s.dev.u.wall ∧ t.dev.u.rng.resetAt = none) ∧
  (∀ (s : State) (pll : Nat), Supplied s → Canon s → pll < 6 →
    Does (.pllUnlockShort pll) s fun t => t.fld F.CLK_STAT_UNLOCK = 1 ∧ t.dev.u = s.dev.u ∧ OnlyRegs [R.CLK_STAT] s t) ∧
  (∀ (s : State) (mv : Nat), 70000 < mv →
    Stops (.powerOnReset mv) s .ratingExceeded)

/-- Cores, memory errors and configuration parity. CORES_START runs the six cores with the firmware bank in force, and sets up
  the PHY of the active host port; an expired watchdog stops its core alone, counts the restart and completes the core's
  commands with CORE_RESTART; one of RT0 asserts a HOLD cause, and one of RT1 enters HOLD; a core runs again after its
  restart, and RT1 applies the verdicts and makes the demands that waited for it, and RT0 drops a frame that a poisoned word
  reached (assumption log 72). A corrected word is counted; a poisoned one is counted with its source, and a damaged parcel is
  marked. A register whose parity does not match takes its power-on value, and SAFE shows its unit; an upset that comes after
  the check stands until the next one or a write (assumption log 71). Which registers NV may restore at CORES_START is a
  premise of the first clause. How a lot is marked (assumption log 79) and the step that sets up the PHY (assumption log 95)
  are the model's choice. A NAND codeword of 1 to 40 wrong bits adds one to SYS_MEMERR.CORR (DESIGN CHOICE, assumption log
  102). Completion (a next state with its own effect, for every state and operands that meet the conditions) is stated of:
  coresStart, ccWatchdogExpiry, rtWatchdogExpiry, coreRestartComplete, memoryReadError, parityScrub. (R23, R24, R25, R32, R33,
  R39, R338, R346, R460, R461, R462). -/
def Obligations.CoresAndMemory : Prop :=
  (∀ (s : State), Live s → Canon s → NoLoss s → s.dev.u.sys.started = false → s.dev.u.nv.fwSel ≤ 1 → (s.dev.u.nv.fw.getD s.dev.u.nv.fwSel {}).state = 1 → (∀ x ∈ s.dev.u.nv.tables.regs, x.1 / 0x10000 ≠ 0 ∧ x.1 / 0x10000 ≠ 0x15) → (∀ x ∈ s.dev.u.cmd.sessions, x.tags = []) → s.dev.u.cmd.early = [] → s.dev.u.nv.fwSel ∉ s.dev.u.nv.fwBad → s.dev.u.net.ports = [{}, {}] → ¬ s.powered 128 → ¬ s.powered 129 →
    Does .coresStart s fun t => t.fld F.SYS_CORESTAT_CORE_UP = 63 ∧ t.fld F.SYS_FWVER_BANK = s.dev.u.nv.fwSel ∧ t.fld F.BOOT_LAST_CAUSE = 0 ∧ t.dev.u.sys.started = true ∧ t.mode = s.mode ∧ t.dev.u.elapsed = s.dev.u.elapsed ∧ (∀ p ∈ List.range 2, (t.dev.u.net.ports.getD p {}).rstN = decide (p = t.fld (F.NET_LSTAT_ACTIVE 0))) ∧ (t.dev.u.net.ports.getD (t.fld (F.NET_LSTAT_ACTIVE 0)) {}).setUp = true) ∧
  (∀ (s : State) (k : Nat), Live s → Canon s → k < 4 → CoreUp s k → (∀ x ∈ s.dev.u.cmd.sessions, ∀ y ∈ x.tags, coreOf (y.opcode / 256) ≠ k) →
    Does (.ccWatchdogExpiry k) s fun t => ¬ CoreUp t k ∧ bitAt (t.reg R.SYS_CORESTAT).toNat (8 + k) = true ∧ t.fld F.SYS_CORESTAT_RESTARTS = min (s.fld F.SYS_CORESTAT_RESTARTS + 1) 65535 ∧ (∀ j ∈ List.range 6, j ≠ k → (CoreUp t j ↔ CoreUp s j)) ∧ RegsKept [0, 4, 5, 0x11] s t ∧ (∀ a, a / 0x10000 = 0 → a ≠ R.SYS_CORESTAT → t.reg a = s.reg a) ∧ SameLinks s t ∧ t.dev.u = { s.dev.u with cmd := t.dev.u.cmd, pool := t.dev.u.pool, out := t.dev.u.out, free := t.dev.u.free, net := { s.dev.u.net with links := t.dev.u.net.links } }) ∧
  (∀ (s : State) (k i : Nat) (x : OutTag), Live s → Canon s → k < 4 → CoreUp s k → s.dev.u.cmd.sessions.length = 4 → i < 4 → (s.sess i).tags = [x] → x.done = false → coreOf (x.opcode / 256) = k → bulkOf (s.sess i) x.tagw = none → (∀ j ∈ List.range 4, j ≠ i → ∀ y ∈ (s.sess j).tags, coreOf (y.opcode / 256) ≠ k) → HostLinkUp s → (s.sess i).queue = [] → HasHop s (s.sess i).ip →
    Does (.ccWatchdogExpiry k) s fun t => ¬ CoreUp t k ∧ (t.sess i).tags = [] ∧ ∃ y ∈ (t.sess i).held, y.tag = tagOf x.tagw ∧ y.pkt.opcode = x.opcode ∧ y.pkt.status = St.coreRestart) ∧
  (∀ (s : State), Live s → Canon s → CoreUp s 4 →
    Does (.rtWatchdogExpiry false) s fun t => ¬ CoreUp t 4 ∧ bitAt (t.reg R.SYS_CORESTAT).toNat 12 = true ∧ 1 ∈ t.dev.u.sys.causes ∧ t.mode = s.mode ∧ RegsKept [0, 4, 5, 0x11] s t) ∧
  (∀ (s : State), Live s → Canon s → CoreUp s 5 →
    Does (.rtWatchdogExpiry true) s fun t => ¬ CoreUp t 5 ∧ bitAt (t.reg R.SYS_CORESTAT).toNat 13 = true ∧ t.mode = 7 ∧ bitAt (t.fld F.SYS_HOLDCAUSE_CAUSE) 1 = true ∧ (s.mode ≠ 7 → t.fld F.SYS_MODE_HFROM = s.mode ∧ t.dev.u.sys.holdEventOwed = true)) ∧
  (∀ (s : State) (k : Nat), Live s → Canon s → 4 ≤ k → k ≤ 5 → ¬ CoreUp s k → s.dev.u.sys.started = true → s.dev.u.sys.holdEventOwed = false → (∀ x ∈ s.dev.u.net.links, x.owed = []) → s.dev.u.thm.owed = 0 → (∀ h ∈ s.dev.u.reco.hand, h.poisoned = false) →
    Does (.coreRestartComplete k) s fun t => CoreUp t k ∧ (∀ j ∈ List.range 32, j ≠ k → bitAt (t.reg R.SYS_CORESTAT).toNat j = bitAt (s.reg R.SYS_CORESTAT).toNat j) ∧ t.dev.u = s.dev.u ∧ OnlyRegs [R.SYS_CORESTAT] s t) ∧
  (∀ (s : State) (k : Nat), Live s → Canon s → ¬ CoreUp s 5 → s.dev.u.sys.started = true → s.dev.u.sys.holdEventOwed = false → (∀ x ∈ s.dev.u.net.links, x.owed = []) → s.dev.u.thm.owed = k + 1 →
    Does (.coreRestartComplete 5) s fun t => CoreUp t 5 ∧ t.dev.u.thm = { s.dev.u.thm with conv := some (s.dev.u.thm.conv.getD s.dev.u.elapsed), joined := if s.dev.u.thm.conv.isSome then s.dev.u.thm.joined + k + 1 else k, lastDemand := s.dev.u.elapsed, owed := 0 }) ∧
  (∀ (s : State) (h : Hand), Live s → Canon s → ¬ CoreUp s 4 → s.dev.u.sys.started = true → s.dev.u.reco.hand = some h → h.poisoned = true → s.dev.u.reco.waiting = none →
    Does (.coreRestartComplete 4) s fun t => CoreUp t 4 ∧ t.dev.u.reco.hand = none ∧ t.fld F.REC_STAT_BUSY = 0 ∧ t.dev.u.reco.last = s.dev.u.reco.last) ∧
  (∀ (s : State) (l a : Nat), Live s → Canon s → ¬ CoreUp s 5 → s.dev.u.sys.started = true → s.dev.u.sys.holdEventOwed = false → s.dev.u.net.links.length = 6 → l < 5 → (s.dev.u.net.links.getD l {}).owed = [(a, true)] → a = s.fld (F.NET_LSTAT_ACTIVE l) → a ≤ 1 → s.fld (F.NET_LSTAT_SWITCHING l) = 0 → (s.dev.u.net.links.getD l {}).want = false → (if a = 0 then s.fld (F.NET_LSTAT_VB l) else s.fld (F.NET_LSTAT_VA l)) ≠ 2 →
    Does (.coreRestartComplete 5) s fun t => CoreUp t 5 ∧ (t.dev.u.net.links.getD l {}).want = true ∧ (t.dev.u.net.links.getD l {}).owed = []) ∧
  (∀ (s : State) (k : Nat), Live s → Canon s → k < 4 → ¬ CoreUp s k → s.dev.u.sys.started = true → (∀ x ∈ s.dev.u.cmd.sessions, x.tags = []) → s.dev.u.cmd.early = [] →
    Does (.coreRestartComplete k) s fun t => CoreUp t k ∧ (∀ j ∈ List.range 32, j ≠ k → bitAt (t.reg R.SYS_CORESTAT).toNat j = bitAt (s.reg R.SYS_CORESTAT).toNat j) ∧ RegsKept [0, 0x11] s t) ∧
  (∀ (s : State) (n : Nat) (c : MemUser) (e : MemErr), Live s → Canon s → (e = .word 1 c ∨ (1 ≤ n ∧ n ≤ 40 ∧ (e = .matrix n ∨ e = .firmware n 0 ∨ e = .firmware n 1))) →
    Does (.memoryReadError e) s fun t => t.fld F.SYS_MEMERR_CORR = min (s.fld F.SYS_MEMERR_CORR + 1) 65535 ∧ t.fld F.SYS_MEMERR_UNCORR = s.fld F.SYS_MEMERR_UNCORR ∧ t.dev.u = s.dev.u ∧ OnlyRegs [R.SYS_MEMERR] s t) ∧
  (∀ (s : State) (i : Nat), Live s → Canon s →
    Does (.memoryReadError (.word 2 (.ledgerLot i))) s fun t => t.fld F.SYS_MEMERR_UNCORR = min (s.fld F.SYS_MEMERR_UNCORR + 1) 255 ∧ t.fld F.SYS_MEMERR_LASTSRC = 2 ∧ t.dev.u.pcl = { s.dev.u.pcl with lotsDamaged := t.dev.u.pcl.lotsDamaged } ∧ (i ∈ t.dev.u.pcl.lotsDamaged ↔ i ∈ s.dev.u.pcl.lotsDamaged ∨ (s.lot i).isSome = true) ∧ RegsKept [0, 4, 5, 0x11] s t) ∧
  (∀ (s : State) (pid : Nat), Live s → Canon s →
    Does (.memoryReadError (.word 2 (.ledgerParcel pid))) s fun t => t.fld F.SYS_MEMERR_UNCORR = min (s.fld F.SYS_MEMERR_UNCORR + 1) 255 ∧ t.fld F.SYS_MEMERR_LASTSRC = 2 ∧ t.dev.u.pcl = { s.dev.u.pcl with parcels := s.dev.u.pcl.parcels.map fun r => if Pf.state.of r != 0 && Pf.pid.of r == pid then parcelMark pfDamaged r else r } ∧ RegsKept [0, 4, 5, 0x11] s t) ∧
  (∀ (s : State), Live s → s.dev.upset = [] →
    Does (.parityScrub []) s fun t => t = s) ∧
  (∀ (s : State) (l : List Nat), Live s → s.dev.upset = [] →
    Does (.parityScrub l) s fun t => t.dev = { s.dev with upset := l.filter isControl }) ∧
  (∀ (s : State) (a k : Nat) (x : RegRow), Live s → Canon s → rowOf a = some (x, k) → x.mask = true → x.restored = 0 → (a / 0x10000 = 3 ∨ a / 0x10000 = 0xC) → s.dev.upset = [a] →
    Does (.parityScrub []) s fun t => t.reg a = regReset a ∧ t.dev.upset = [] ∧ bitAt (t.reg R.SAFE_PARITY).toNat (a / 0x10000) = true ∧ t.fld F.SAFE_STAT_PARITY = 1 ∧ (∀ b, b / 0x10000 = a / 0x10000 → b ≠ a → t.reg b = s.reg b) ∧ RegsKept [a / 0x10000, 4, 5, 0x11, 0x14] s t ∧ SameLinks s t ∧ t.dev.u = { s.dev.u with cmd := t.dev.u.cmd, pool := t.dev.u.pool, out := t.dev.u.out, free := t.dev.u.free, net := { s.dev.u.net with links := t.dev.u.net.links } })

/-- Register writes, the supervisor port and SAFE. A masked write changes the RW bits that its mask selects and no other, and
  mends the register's parity; a register without a MASK field, an address without a register, and SAFE and BOOT for all but
  the supervisor take nothing; a changed KP bit, a host's alarm slot and a pool that is not quiet are the undefined cases of
  R576. A transaction of the supervisor writes or shows a SAFE register with its check byte; one cut short is counted, and one
  less than 200 ns after the last is undefined. A heartbeat clears LAPSED, a lapse sets it, and SUPER and its HOLD cause
  follow HOLDREQ and LAPSED. RT1 counts SAFE_ALIVE. The bytes of a transaction cut short are the model's reading (assumption
  log 20). Completion (a next state with its own effect, for every state and operands that meet the conditions) is stated of:
  registerWrite, spiWrite, spiRead, safeHeartbeat, safeHoldRequest, heartbeatLapse, safeAliveTick. (R35, R60, R449, R450,
  R454, R467, R468, R469, R472, R473, R572, R576). -/
def Obligations.WritesAndSupervisor : Prop :=
  (∀ (s : State) (src : Src) (a k : Nat) (x : RegRow) (w : Word), Live s → Canon s → rowOf a = some (x, k) → x.mask = true → x.noThree = [] → (a / 0x10000 = 0xC ∨ a / 0x10000 = 0x13) → (w.toNat ^^^ (s.reg a).toNat) &&& (w.toNat / 65536) &&& x.kp = 0 →
    Does (.registerWrite src a w) s fun t => (∀ j ∈ List.range 32, bitAt (t.reg a).toNat j = (if bitAt (w.toNat / 65536) j ∧ bitAt x.rw j then bitAt w.toNat j else bitAt (s.reg a).toNat j)) ∧ t.dev.u = s.dev.u ∧ a ∉ t.dev.upset ∧ OnlyRegs [a] s t) ∧
  (∀ (s : State) (src : Src) (a k : Nat) (x : RegRow) (w : Word), Live s → Canon s → rowOf a = some (x, k) → x.mask = true → (a / 0x10000 = 0xC ∨ a / 0x10000 = 0x13) → (w.toNat ^^^ (s.reg a).toNat) &&& (w.toNat / 65536) &&& x.kp ≠ 0 →
    Stops (.registerWrite src a w) s .keepBitChanged) ∧
  (∀ (s : State) (src : Src) (a k : Nat) (x : RegRow) (w : Word), Live s → rowOf a = some (x, k) → x.mask = false → a / 0x10000 ≠ 0x14 → a / 0x10000 ≠ 0x15 →
    Does (.registerWrite src a w) s fun t => t = s) ∧
  (∀ (s : State) (src : Src) (a : Nat) (w : Word), Live s → rowOf a = none → a / 0x10000 ≠ 0x14 → a / 0x10000 ≠ 0x15 →
    Does (.registerWrite src a w) s fun t => t = s) ∧
  (∀ (s : State) (src : Src) (a : Nat) (w : Word), Live s → src ≠ .supervisor → (a / 0x10000 = 0x14 ∨ a / 0x10000 = 0x15) →
    Does (.registerWrite src a w) s fun t => t = s) ∧
  (∀ (s : State) (i a : Nat) (w : Word), Live s → Canon s → a < 64 → w.toNat / 65536 ≠ 0 → (w.toNat ^^^ (s.reg (R.ENC_ACTL a)).toNat) &&& (w.toNat / 65536) &&& 0x6000 = 0 →
    Stops (.alarmArm (.host i) a w) s .alarmSlotOwned) ∧
  (∀ (s : State) (src : Src) (k b : Nat) (w : Word), Live s → Canon s → k < 5 → b < 4 → s.fld (F.FLD_BCTL_EN b) = 1 → w.toNat / 65536 ≠ 0 → (w.toNat ^^^ (s.reg (R.POOL_PRIV k)).toNat) &&& (w.toNat / 65536) &&& 0xF000 = 0 →
    Stops (.registerWrite src (R.POOL_PRIV k) w) s .poolNotQuiet) ∧
  (∀ (s : State) (mosi : List Byte) (gap : Nat) (w : Word), Live s → Canon s → 200 ≤ gap → mosi = [0x88] ++ beBytes 4 w.toNat ++ [BitVec.ofNat 8 (crc8 ([0x88] ++ beBytes 4 w.toNat)), 0] →
    Does (.spiWrite mosi false gap) s fun t => (∀ j ∈ List.range 16, bitAt (t.fld F.SAFE_HBPER_PER) j = (if bitAt (w.toNat / 65536) j then bitAt w.toNat j else bitAt (s.fld F.SAFE_HBPER_PER) j)) ∧ t.dev.u = { s.dev.u with out := s.dev.u.out ++ [.spi [0, 0, 0, 0, 0, 0, 0xA5]] } ∧ OnlyRegs [R.SAFE_HBPER] s t) ∧
  (∀ (s : State) (mosi : List Byte) (gap : Nat), Live s → Canon s → 200 ≤ gap → 128 ≤ (mosi.getD 0 0).toNat → mosi.length ≤ 6 →
    Does (.spiWrite mosi true gap) s fun t => t.fld F.SAFE_STAT_SPIERR = 1 ∧ t.fld F.SAFE_SPIERRCNT_CNT = min (s.fld F.SAFE_SPIERRCNT_CNT + 1) 65535 ∧ t.dev.u = { s.dev.u with out := s.dev.u.out ++ [.spi (zeros mosi.length)] } ∧ OnlyRegs [R.SAFE_STAT, R.SAFE_SPIERRCNT] s t) ∧
  (∀ (s : State) (mosi : List Byte) (gap : Nat), Live s → Canon s → 200 ≤ gap → mosi.length = 7 → mosi.getD 0 0 = 0x18 →
    Does (.spiRead mosi false gap) s fun t => t.dev.regs = s.dev.regs ∧ t.dev.u = { s.dev.u with out := s.dev.u.out ++ [.spi (zeros 2 ++ beBytes 4 (s.reg R.SAFE_STATE).toNat ++ [BitVec.ofNat 8 (crc8 ([0x18] ++ beBytes 4 (s.reg R.SAFE_STATE).toNat))])] }) ∧
  (∀ (s : State) (mosi : List Byte) (cut : Bool) (gap : Nat), Live s → gap < 200 →
    Stops (.spiWrite mosi cut gap) s .spiGap ∧ Stops (.spiRead mosi cut gap) s .spiGap) ∧
  (∀ (s : State) (w : Word), Live s → Canon s → w.toNat / 65536 ≠ 0 →
    Does (.safeHeartbeat w) s fun t => t.fld F.SAFE_HBCNT_CNT = (s.fld F.SAFE_HBCNT_CNT + 1) % 2 ^ 32 ∧ t.dev.u.safe.hbAt = s.dev.u.elapsed ∧ t.fld F.SAFE_STATE_LAPSED = 0 ∧ t.fld F.SAFE_STATE_SUPER = s.fld F.SAFE_CTL_HOLDREQ ∧ (s.fld F.SAFE_STATE_SUPER = 1 ∨ s.fld F.SAFE_CTL_HOLDREQ = 0 → t.dev.u.sys = s.dev.u.sys) ∧ OnlyRegs [R.SAFE_HB, R.SAFE_HBCNT, R.SAFE_STATE] s t) ∧
  (∀ (s : State), Live s → Canon s →
    Does (.safeHoldRequest 0x80008000) s fun t => t.fld F.SAFE_CTL_HOLDREQ = 1 ∧ t.fld F.SAFE_CTL_HBEN = s.fld F.SAFE_CTL_HBEN ∧ t.fld F.SAFE_STATE_SUPER = 1 ∧ (s.fld F.SAFE_STATE_SUPER = 0 → 5 ∈ t.dev.u.sys.causes) ∧ OnlyRegs [R.SAFE_CTL, R.SAFE_STATE] s t) ∧
  (∀ (s : State), Live s → Canon s → s.fld F.SAFE_STATE_LAPSED = 0 →
    Does (.safeHoldRequest 0x80000000) s fun t => t.fld F.SAFE_CTL_HOLDREQ = 0 ∧ t.fld F.SAFE_STATE_SUPER = 0 ∧ t.dev.u.sys = s.dev.u.sys ∧ OnlyRegs [R.SAFE_CTL, R.SAFE_STATE] s t) ∧
  (∀ (s : State), Live s → Canon s → s.fld F.SAFE_CTL_HBEN = 1 → s.fld F.SAFE_STATE_LAPSED = 0 → s.dev.u.safe.hbAt + max 1 (s.fld F.SAFE_HBPER_PER) * 1000000 ≤ s.dev.u.elapsed →
    Does .heartbeatLapse s fun t => t.fld F.SAFE_STATE_LAPSED = 1 ∧ t.fld F.SAFE_STAT_LAPSE = 1 ∧ t.fld F.SAFE_STATE_SUPER = 1 ∧ (s.fld F.SAFE_STATE_SUPER = 0 → 5 ∈ t.dev.u.sys.causes) ∧ t.mode = s.mode ∧ OnlyRegs [R.SAFE_STATE, R.SAFE_STAT] s t) ∧
  (∀ (s : State), Live s → Canon s → CoreUp s 5 → s.dev.u.pwr.aliveAt + 10000000 ≤ s.dev.u.elapsed →
    Does .safeAliveTick s fun t => t.fld F.SAFE_ALIVE_ALIVE = (s.fld F.SAFE_ALIVE_ALIVE + 1) % 65536 ∧ t.dev.u = { s.dev.u with pwr := { s.dev.u.pwr with aliveAt := s.dev.u.elapsed } } ∧ OnlyRegs [R.SAFE_ALIVE] s t)

/-- The service port and the test port. The receiver takes the line sample by sample: a start bit, 16 samples a bit, bytes and
  a stop bit. A whole request is answered at the rate in force with its status and word and counted: a read shows a register
  without clearing it, or 0 and DOMAIN_OFF where its domain is off, and a write acts only in SERVICE, else DENIED; a wrong
  check byte, a byte more than 1 ms after the last one or a request that comes before the last answer has left discards the
  request and counts it; EN = 0 ends the receiver and cuts the answer; a stop bit sampled low sets FRAMERR, and start
  detection waits for the line to go high. While TRST_N is high each instruction of the test port is selected, IDCODE gives
  the identity, and EXTEST and CLAMP drive the balls only while RESET_N is low; TRST_N low selects IDCODE. What the boundary
  register captures is open (assumption log 21). What is captured under EXTEST, and the bits of the service port's line as
  operands, are the model's choice (assumption log 108). Completion (a next state with its own effect, for every state and
  operands that meet the conditions) is stated of: svcRead, svcWrite, svcTimeout, registerWrite, svcFramingError, bypass,
  idcode, samplePreload, extest, clamp, jtagTestReset. (R35, R36, R449, R590, R591, R592, R593, R594, R595, R596, R597, R599). -/
def Obligations.ServiceAndTestPorts : Prop :=
  (∀ (s : State) (i : Nat) (a : Nat), Live s → Canon s → SvcReady s i → Plain a → a % 4 = 0 →
    Does (.svcRead (uartLine ([0x5A, 1] ++ leBytes 4 a ++ [BitVec.ofNat 8 (crc8 ([1] ++ leBytes 4 a))]))) s fun t => t.dev.u.out = s.dev.u.out ++ [.uart ([0xA5] ++ (leBytes 2 St.ok ++ leBytes 4 (s.reg a).toNat) ++ [BitVec.ofNat 8 (crc8 (leBytes 2 St.ok ++ leBytes 4 (s.reg a).toNat))])] ∧ t.fld F.SVC_RXCNT_CNT = (s.fld F.SVC_RXCNT_CNT + 1) % 2 ^ 32 ∧ t.dev.u.svc.answering = some (s.dev.u.elapsed + 80 * s.svcRate i * 1000 / 96) ∧ OnlyRegs [R.SVC_RXCNT] s t) ∧
  (∀ (s : State) (i : Nat) (a : Nat) (w : Word), Live s → Canon s → SvcReady s i → a < 2 ^ 32 → a % 4 = 0 → s.mode ≠ 6 →
    Does (.svcWrite (uartLine ([0x5A, 2] ++ leBytes 4 a ++ leBytes 4 w.toNat ++ [BitVec.ofNat 8 (crc8 ([2] ++ leBytes 4 a ++ leBytes 4 w.toNat))]))) s fun t => t.dev.u.out = s.dev.u.out ++ [.uart ([0xA5] ++ (leBytes 2 St.denied ++ leBytes 4 0) ++ [BitVec.ofNat 8 (crc8 (leBytes 2 St.denied ++ leBytes 4 0))])] ∧ t.fld F.SVC_RXCNT_CNT = (s.fld F.SVC_RXCNT_CNT + 1) % 2 ^ 32 ∧ OnlyRegs [R.SVC_RXCNT] s t) ∧
  (∀ (s : State) (i : Nat) (a k : Nat) (x : RegRow) (w : Word), Live s → Canon s → SvcReady s i → s.mode = 6 → rowOf a = some (x, k) → x.mask = true → x.noThree = [] → x.kp = 0 → a / 0x10000 = 0xC → a % 4 = 0 →
    Does (.svcWrite (uartLine ([0x5A, 2] ++ leBytes 4 a ++ leBytes 4 w.toNat ++ [BitVec.ofNat 8 (crc8 ([2] ++ leBytes 4 a ++ leBytes 4 w.toNat))]))) s fun t => (∀ j ∈ List.range 32, bitAt (t.reg a).toNat j = (if bitAt (w.toNat / 65536) j ∧ bitAt x.rw j then bitAt w.toNat j else bitAt (s.reg a).toNat j)) ∧ t.dev.u.out = s.dev.u.out ++ [.uart ([0xA5] ++ (leBytes 2 St.ok ++ leBytes 4 0) ++ [BitVec.ofNat 8 (crc8 (leBytes 2 St.ok ++ leBytes 4 0))])] ∧ t.fld F.SVC_RXCNT_CNT = (s.fld F.SVC_RXCNT_CNT + 1) % 2 ^ 32 ∧ OnlyRegs [a, R.SVC_RXCNT] s t) ∧
  (∀ (s : State) (i : Nat) (a : Nat) (c : Byte), Live s → Canon s → SvcReady s i → c.toNat ≠ crc8 ([1] ++ leBytes 4 a) →
    Does (.svcRead (uartLine ([0x5A, 1] ++ leBytes 4 a ++ [c]))) s fun t => t.fld F.SVC_STAT_CRCERR = 1 ∧ t.fld F.SVC_ERRCNT_CNT = min (s.fld F.SVC_ERRCNT_CNT + 1) 0xFFFFFFFF ∧ t.dev.u = { s.dev.u with svc := t.dev.u.svc } ∧ t.dev.u.svc.req = [] ∧ t.dev.u.svc.answering = s.dev.u.svc.answering ∧ OnlyRegs [R.SVC_STAT, R.SVC_ERRCNT] s t) ∧
  (∀ (s : State), Live s → Canon s → s.fld F.SVC_CTL_EN = 1 → s.dev.u.svc.req ≠ [] → s.dev.u.svc.lastAt + 1000000 < s.dev.u.elapsed →
    Does .svcTimeout s fun t => t.fld F.SVC_STAT_TIMEOUT = 1 ∧ t.fld F.SVC_ERRCNT_CNT = min (s.fld F.SVC_ERRCNT_CNT + 1) 0xFFFFFFFF ∧ t.dev.u = { s.dev.u with svc := { s.dev.u.svc with req := [] } } ∧ OnlyRegs [R.SVC_STAT, R.SVC_ERRCNT] s t) ∧
  (∀ (s : State), Live s → (s.fld F.SVC_CTL_EN = 0 ∨ s.dev.u.svc.req = [] ∨ s.dev.u.elapsed ≤ s.dev.u.svc.lastAt + 1000000) →
    Does .svcTimeout s fun t => t = s) ∧
  (∀ (s : State) (i : Nat) (x : Byte), Live s → Canon s → s.fld F.SVC_CTL_EN = 1 → s.dev.u.svc.rx = { idle := i } → s.dev.u.svc.req ≠ [] → x ≠ 0x5A → s.dev.u.svc.lastAt + 1000000 < s.svcByteAt i →
    Does (.svcRead (uartLine [x])) s fun t => t.fld F.SVC_STAT_TIMEOUT = 1 ∧ t.fld F.SVC_ERRCNT_CNT = min (s.fld F.SVC_ERRCNT_CNT + 1) 0xFFFFFFFF ∧ t.dev.u = { s.dev.u with svc := { s.dev.u.svc with rx := { idle := 0 }, req := [], div := if 16 ≤ i then s.fld F.SVC_BAUD_DIV else s.dev.u.svc.div } } ∧ OnlyRegs [R.SVC_STAT, R.SVC_ERRCNT] s t) ∧
  (∀ (s : State) (i a : Nat), Live s → Canon s → s.fld F.SVC_CTL_EN = 1 → SvcIdle s i → s.svcRate i ≤ 9600 → s.svcByteAt i < s.dev.u.svc.answering.getD 0 →
    Does (.svcRead (uartLine ([0x5A, 1] ++ leBytes 4 a ++ [BitVec.ofNat 8 (crc8 ([1] ++ leBytes 4 a))]))) s fun t => t.fld F.SVC_STAT_OVERLAP = 1 ∧ t.fld F.SVC_ERRCNT_CNT = min (s.fld F.SVC_ERRCNT_CNT + 1) 0xFFFFFFFF ∧ t.dev.u.out = s.dev.u.out ∧ t.dev.u.svc.answering = s.dev.u.svc.answering ∧ OnlyRegs [R.SVC_STAT, R.SVC_ERRCNT] s t) ∧
  (∀ (s : State) (l : List Bool), Live s → s.fld F.SVC_CTL_EN = 0 →
    Does (.svcRead l) s fun t => t = s) ∧
  (∀ (s : State) (src : Src), Live s → Canon s →
    Does (.registerWrite src R.SVC_CTL 0x80000000) s fun t => t.fld F.SVC_CTL_EN = 0 ∧ t.dev.u.svc = { div := s.dev.u.svc.div } ∧ t.dev.u.out = s.dev.u.out ++ (if s.dev.u.elapsed < s.dev.u.svc.answering.getD 0 then [.uartCut] else []) ∧ OnlyRegs [R.SVC_CTL] s t) ∧
  (∀ (s : State), Live s → Canon s → s.fld F.SVC_CTL_EN = 1 → s.dev.u.svc.rx.n = some 151 →
    Does .svcFramingError s fun t => t.fld F.SVC_STAT_FRAMERR = 1 ∧ t.dev.u = { s.dev.u with svc := { s.dev.u.svc with rx := { armed := false, idle := 0 } } } ∧ OnlyRegs [R.SVC_STAT] s t) ∧
  (∀ (s : State), Live s → (s.fld F.SVC_CTL_EN = 0 ∨ s.dev.u.svc.rx.n ≠ some 151) →
    Does .svcFramingError s fun t => t = s) ∧
  (∀ (s : State), Supplied s → s.dev.u.jtag.held = false →
    Does .bypass s fun t => t.dev.regs = s.dev.regs ∧ t.dev.u = { s.dev.u with jtag := { s.dev.u.jtag with ir := 0, drives := false }, out := s.dev.u.out ++ [.jtag 0 0] }) ∧
  (∀ (s : State), Supplied s → s.dev.u.jtag.held = false →
    Does .idcode s fun t => t.dev.regs = s.dev.regs ∧ t.dev.u = { s.dev.u with jtag := { s.dev.u.jtag with ir := 1, drives := false }, out := s.dev.u.out ++ [.jtag 1 0x17256A4D] }) ∧
  (∀ (s : State) (cells : List (Ball × Nat)), Supplied s → s.dev.u.jtag.held = false →
    Does (.samplePreload cells) s fun t => t.dev.regs = s.dev.regs ∧ t.dev.u.jtag = { s.dev.u.jtag with ir := 2, drives := false, cells := cells } ∧ ∃ f, t.dev.u.out = s.dev.u.out ++ [.jtag 2 f]) ∧
  (∀ (s : State), Supplied s → s.dev.u.jtag.held = false →
    Does .extest s fun t => t.dev.regs = s.dev.regs ∧ t.dev.u.jtag = { s.dev.u.jtag with ir := 3, drives := s.dev.u.pwr.resetNLow, cells := t.dev.u.jtag.cells } ∧ (s.dev.u.pwr.resetNLow = false → t.dev.u.jtag.cells = s.dev.u.jtag.cells) ∧ ∃ f, t.dev.u.out = s.dev.u.out ++ [.jtag (if s.dev.u.pwr.resetNLow then 3 else 0) f]) ∧
  (∀ (s : State), Supplied s → s.dev.u.jtag.held = false →
    Does .clamp s fun t => t.dev.regs = s.dev.regs ∧ t.dev.u = { s.dev.u with jtag := { s.dev.u.jtag with ir := 4, drives := s.dev.u.pwr.resetNLow }, out := s.dev.u.out ++ [.jtag (if s.dev.u.pwr.resetNLow then 4 else 0) 0] }) ∧
  (∀ (s : State) (low : Bool), Supplied s →
    Does (.jtagTestReset low) s fun t => t.dev.regs = s.dev.regs ∧ t.dev.u = { s.dev.u with jtag := if low then { s.dev.u.jtag with held := true, ir := 1, drives := false } else { s.dev.u.jtag with held := false } }) ∧
  (∀ (s : State) (i : Nat) (a k d : Nat) (x : RegRow), Live s → Canon s → SvcReady s i → a % 4 = 0 → rowOf a = some (x, k) → regDomain x a = some d → ¬ s.powered d →
    Does (.svcRead (uartLine ([0x5A, 1] ++ leBytes 4 a ++ [BitVec.ofNat 8 (crc8 ([1] ++ leBytes 4 a))]))) s fun t => t.dev.u.out = s.dev.u.out ++ [.uart ([0xA5] ++ (leBytes 2 St.domainOff ++ leBytes 4 0) ++ [BitVec.ofNat 8 (crc8 (leBytes 2 St.domainOff ++ leBytes 4 0))])] ∧ t.fld F.SVC_RXCNT_CNT = (s.fld F.SVC_RXCNT_CNT + 1) % 2 ^ 32 ∧ OnlyRegs [R.SVC_RXCNT] s t)

/-- Clocks, commits, the hold-up store and the loss of supply. A lost reference is shown and counted once; a measurement takes
  the frequency of its clock after 1 ms; the end of a read-back puts a commit in force, or leaves the old contents. VIN below
  PWR_PFTHR starts a power loss, which 20 µs later is a dip or switches every domain below 142 off; the seal ends the save;
  the empty store, or VIN below 7.0 V with the store off, stops the module. Charge is counted every 1 ms while it is known and
  the charger is not held, compared every 100 ms from the start of the supply, and based at the end of a charge, at 36.0 V.
  What a cut save leaves is the model's reading (assumption log 32). What the journal shows within the times of R614 is free
  (assumption log 105). What a clock measurement shows within the bounds of R607 is as counted (DEDUCED, assumption log 112),
  and the SEAL record may be durable before the end of the read-back (DESIGN CHOICE, assumption log 26). Completion (a next
  state with its own effect, for every state and operands that meet the conditions) is stated of: referenceLoss, clockMeasure,
  clockMeasureDone, commitReadbackDone, powerLoss, powerLossConfirm, stateSaveSealed, holdupEmpty, vinBelowStop, chargeEnd,
  holdupEstimateTick, holdupCompare. (R600, R604, R608, R614, R615, R617, R618, R620, R621, R622, R623, R624). -/
def Obligations.SupplyAndStore : Prop :=
  (∀ (s : State), Supplied s → Canon s → s.fld F.CLK_STAT_REFLOST = 0 →
    Does .referenceLoss s fun t => t.fld F.CLK_STAT_REFLOST = 1 ∧ t.fld F.CLK_STAT_REFLOSS = 1 ∧ t.fld F.CLK_LOSSCNT_CNT = min (s.fld F.CLK_LOSSCNT_CNT + 1) 0xFFFFFFFF ∧ t.dev.u = s.dev.u ∧ OnlyRegs [R.CLK_STAT, R.CLK_LOSSCNT] s t) ∧
  (∀ (s : State) (src : Src) (d : Nat), Live s → Canon s → d < 64 →
    Does (.clockMeasure src (BitVec.ofNat 32 (0x803F8000 + d))) s fun t => t.fld F.CLK_MEASSEL_DOM = d ∧ t.dev.u = { s.dev.u with pwr := { s.dev.u.pwr with measuring := some s.dev.u.elapsed } } ∧ OnlyRegs [R.CLK_MEASSEL] s t) ∧
  (∀ (s : State) (x f d n : Nat), Live s → Canon s → s.dev.u.pwr.measuring = some x → x + 1000000 ≤ s.dev.u.elapsed → s.fld F.CLK_MEASSEL_DOM = d → (d, n) ∈ [(0, 25000), (1, 1500000), (6, 1500000), (23, 400000), (24, 200000), (25, 200000), (26, 100000), (27, 250000), (28, 100000), (29, 3200000), (30, 3200000), (31, 800000), (32, 800000), (33, 400000), (34, 400000), (35, 1000000), (38, 1000000), (51, 100000), (52, 100000), (53, 125000), (62, 96000), (63, 500)] → s.fld F.CLK_STAT_REFLOST = 0 → s.fld F.CLK_STAT_LOCK = 63 →
    Does (.clockMeasureDone f) s fun t => t.fld F.CLK_MEAS_FREQ = max (n - 1) (min (n + 1) f) ∧ t.fld F.CLK_STAT_MEASDONE = 1 ∧ t.dev.u = { s.dev.u with pwr := { s.dev.u.pwr with measuring := none } } ∧ OnlyRegs [R.CLK_MEAS, R.CLK_STAT] s t) ∧
  (∀ (s : State) (x f d : Nat), Live s → Canon s → s.dev.u.pwr.measuring = some x → x + 1000000 ≤ s.dev.u.elapsed → s.fld F.CLK_MEASSEL_DOM = 56 + d → d < 4 → s.fld (F.FLD_BCTL_EN d) = 0 →
    Does (.clockMeasureDone f) s fun t => t.fld F.CLK_MEAS_FREQ = 0 ∧ t.fld F.CLK_STAT_MEASDONE = 1) ∧
  (∀ (s : State) (c : Commit) (a : Nat) (w : Word), Live s → Canon s → s.dev.u.nv.commit = some c → c.step = 4 → c.obj = .registers [(a, w)] → s.dev.u.nv.queued = [] → NvWhole s → c.bank ≤ 1 → c.shown < 5 →
    Does (.commitReadbackDone true) s fun t => t.dev.u.nv.commit = none ∧ savedReg t.dev.u.nv a = w ∧ (∀ b, b ≠ a → savedReg t.dev.u.nv b = savedReg s.dev.u.nv b) ∧ t.dev.u.nv.tabSel = c.bank ∧ t.reg R.BOOT_JOURNAL = 0) ∧
  (∀ (s : State) (c : Commit), Live s → Canon s → s.dev.u.nv.commit = some c → c.step = 4 → c.obj = .firmware → s.dev.u.nv.queued = [] → s.dev.u.nv.fw.length = 2 → c.bank < 2 →
    Does (.commitReadbackDone true) s fun t => t.dev.u.nv.commit = none ∧ t.dev.u.nv.fwSel = c.bank ∧ t.dev.u.nv.fw.getD c.bank {} = (if c.shown < 5 then ⟨1, c.data⟩ else s.dev.u.nv.fw.getD c.bank {}) ∧ t.dev.u.nv.fw.getD (1 - c.bank) {} = s.dev.u.nv.fw.getD (1 - c.bank) {} ∧ t.fld F.BOOT_BANKS_FWBANK = c.bank ∧ t.reg R.BOOT_JOURNAL = 0) ∧
  (∀ (s : State) (c : Commit), Live s → Canon s → s.dev.u.nv.commit = some c → c.step = 4 → s.dev.u.nv.queued = [] → c.shown < 5 →
    Does (.commitReadbackDone false) s fun t => t.dev.u.nv = { s.dev.u.nv with commit := none } ∧ t.reg R.BOOT_JOURNAL = 0) ∧
  (∀ (s : State) (mv : Nat), Supplied s → NoLoss s → mv < s.inForce F.PWR_PFTHR_THR * 10 →
    Does (.powerLoss mv) s fun t => t.dev.regs = s.dev.regs ∧ t.dev.u = { s.dev.u with pwr := { s.dev.u.pwr with loss := some ⟨s.dev.u.elapsed, false, 0, false⟩ } }) ∧
  (∀ (s : State) (mv : Nat) (l : PowerLoss), Supplied s → Canon s → s.dev.u.pwr.loss = some l → l.confirmed = false → l.since + 20000 ≤ s.dev.u.elapsed → s.inForce F.PWR_PFTHR_THR * 10 ≤ mv →
    Does (.powerLossConfirm mv) s fun t => t.fld F.PWR_STAT_PFDIP = 1 ∧ t.dev.u = { s.dev.u with pwr := { s.dev.u.pwr with loss := none } } ∧ OnlyRegs [R.PWR_STAT] s t) ∧
  (∀ (s : State) (mv : Nat) (l : PowerLoss), Supplied s → Canon s → s.dev.u.pwr.loss = some l → l.confirmed = false → l.since + 20000 ≤ s.dev.u.elapsed → mv < s.inForce F.PWR_PFTHR_THR * 10 → s.inForce F.PWR_HUCTL_EN = 1 → s.dev.u.sys.started = true → TargetIdle s.dev.u.nv →
    Does (.powerLossConfirm mv) s fun t => (∀ d ∈ List.range 142, ¬ t.powered d) ∧ t.dev.u.pwr.loss = some { l with confirmed := true, set := (if s.fld F.PWR_STAT_HUREADY = 1 then 1 else if s.fld F.PWR_STAT_HURED = 1 then 2 else 0), done := decide (s.fld F.PWR_STAT_HUREADY = 0 ∧ s.fld F.PWR_STAT_HURED = 0) } ∧ t.fld F.PWR_STAT_HUSTATE = 2 ∧ t.dev.u.nv.commit = none ∧ t.dev.u.nv.queued = [] ∧ t.dev.u.nv.saved = s.dev.u.nv.saved ∧ t.dev.u.nv.tables = s.dev.u.nv.tables ∧ t.dev.u.nv.reference = s.dev.u.nv.reference) ∧
  (∀ (s : State) (l : PowerLoss), Live s → Canon s → NvWhole s → s.dev.u.pwr.loss = some l → l.confirmed = true → l.done = false → (l.set = 1 ∨ l.set = 2) →
    Does .stateSaveSealed s fun t => t.dev.u.pwr.loss = some { l with done := true } ∧ t.dev.u.pwr.saveOut = l.set ∧ (s.dev.u.sys.coldStart = false → t.dev.u.nv.saved.lossLeads = some ((List.range 16).map s.lead)) ∧ (s.dev.u.sys.coldStart = false → l.set = 1 → t.dev.u.nv.saved.ledger = some ⟨s.dev.u.pcl.parcels, s.dev.u.pcl.lots, s.dev.u.pcl.lotsDamaged, s.dev.u.pcl.mdis, s.dev.u.pcl.lanes.map fun x => (x.origin, x.k), (List.range 16).map s.lead⟩) ∧ (l.set = 2 → t.dev.u.nv.saved.ledger = s.dev.u.nv.saved.ledger)) ∧
  (∀ (s : State) (l : PowerLoss), Supplied s → Canon s → s.dev.u.pwr.loss = some l → l.confirmed = true →
    Does .holdupEmpty s fun t => t.dev.u.pwr.stopped = true ∧ t.dev.u.pwr.q = 0 ∧ t.fld F.PWR_STAT_QBASED = 0 ∧ (∀ d ∈ List.range 148, ¬ t.powered d) ∧ RegsKept [1] s t) ∧
  (∀ (s : State) (mv : Nat), Supplied s → Canon s → s.inForce F.PWR_HUCTL_EN = 0 → mv < 7000 →
    Does (.vinBelowStop mv) s fun t => t.dev.u.pwr.stopped = true ∧ t.dev.u.pwr.q = 0 ∧ t.fld F.PWR_STAT_QBASED = 0 ∧ (∀ d ∈ List.range 148, ¬ t.powered d) ∧ RegsKept [1] s t) ∧
  (∀ (s : State) (mv : Nat), Supplied s → (s.inForce F.PWR_HUCTL_EN = 1 ∨ 7000 ≤ mv) →
    Does (.vinBelowStop mv) s fun t => t = s) ∧
  (∀ (s : State) (mv : Nat), Supplied s → Canon s → s.fld F.PWR_STAT_HUSTATE = 0 → s.inForce F.PWR_HUCTL_EN = 1 → s.dev.u.pwr.rebasePending = false → mv < s.dev.u.pwr.chargeFromMv + 5000 → s.dev.u.pwr.resetNLow = false → 35800 ≤ mv → mv ≤ 36200 →
    Does (.chargeEnd mv) s fun t => t.fld F.PWR_STAT_HUSTATE = 1 ∧ t.fld F.PWR_STAT_QBASED = 1 ∧ t.dev.u = { s.dev.u with pwr := { s.dev.u.pwr with q := if s.fld F.PWR_STAT_QBASED = 0 then s.inForce F.PWR_HUCAP_CAP * 260000 else s.dev.u.pwr.q } } ∧ OnlyRegs [R.PWR_STAT] s t) ∧
  (∀ (s : State) (mv : Nat), Supplied s → Canon s → s.fld F.PWR_STAT_HUSTATE = 0 → s.inForce F.PWR_HUCTL_EN = 1 → s.dev.u.pwr.rebasePending = true → s.dev.u.pwr.resetNLow = false → 35800 ≤ mv → mv ≤ 36200 →
    Does (.chargeEnd mv) s fun t => t.fld F.PWR_STAT_REBASE = 1 ∧ t.dev.u.pwr.q = s.inForce F.PWR_HUCAP_CAP * (mv - 10000) * 10 ∧ t.dev.u.pwr.rebasePending = false ∧ t.dev.u.pwr.misRaised = false) ∧
  (∀ (s : State) (v ua : Nat), Supplied s → Canon s → s.dev.u.pwr.resetNLow = false → s.fld F.PWR_STAT_QBASED = 1 → s.dev.u.pwr.estAt + 1000000 ≤ s.dev.u.elapsed → v ≤ 4000 →
    Does (.holdupEstimateTick (v * 10) ua) s fun t => t.fld F.PWR_HUV_V = v ∧ t.dev.u.pwr.estAt = s.dev.u.elapsed ∧ t.dev.u.pwr.q = (if v < 1000 then s.dev.u.pwr.q else if s.fld F.PWR_STAT_HUSTATE = 0 then s.dev.u.pwr.q + s.inForce F.PWR_HUCTL_ICHG * 1000 else if s.fld F.PWR_STAT_HUSTATE = 2 then s.dev.u.pwr.q - ua else s.dev.u.pwr.q) ∧ (v < 1000 → t.fld F.PWR_HUE_EV = 0) ∧ (t.fld F.PWR_STAT_HUREADY = 1 ↔ t.fld F.PWR_SAVEREQ_FULL ≤ t.fld F.PWR_HUGOV_E) ∧ (t.fld F.PWR_STAT_HURED = 1 ↔ t.fld F.PWR_SAVEREQ_RED ≤ t.fld F.PWR_HUGOV_E) ∧ RegsKept [1] s t) ∧
  (∀ (s : State), Supplied s → Canon s → s.fld F.PWR_STAT_QBASED = 1 → NoLoss s → s.dev.u.pwr.cmpDue ≤ s.dev.u.elapsed ∧ s.dev.u.elapsed < s.dev.u.pwr.cmpDue + 100000000 → 15 * max (s.fld F.PWR_HUE_EV) (s.fld F.PWR_HUE_EQ) < 100 * (max (s.fld F.PWR_HUE_EV) (s.fld F.PWR_HUE_EQ) - min (s.fld F.PWR_HUE_EV) (s.fld F.PWR_HUE_EQ)) →
    Does .holdupCompare s fun t => t.fld F.PWR_STAT_MISMATCH = 1 ∧ t.fld F.PWR_MISCNT_CNT = min (s.fld F.PWR_MISCNT_CNT + 1) 0xFFFFFFFF ∧ t.dev.u.pwr = { s.dev.u.pwr with cmpDue := s.dev.u.pwr.cmpDue + 100000000, rebasePending := true, misRaised := true } ∧ (s.dev.u.pwr.misRaised = true → t.dev.u.cmd = s.dev.u.cmd ∧ t.dev.u.out = s.dev.u.out) ∧ RegsKept [1, 4, 5, 0x11] s t) ∧
  (∀ (s : State), Supplied s → s.fld F.PWR_STAT_QBASED = 1 → NoLoss s → s.dev.u.pwr.cmpDue ≤ s.dev.u.elapsed ∧ s.dev.u.elapsed < s.dev.u.pwr.cmpDue + 100000000 → 100 * (max (s.fld F.PWR_HUE_EV) (s.fld F.PWR_HUE_EQ) - min (s.fld F.PWR_HUE_EV) (s.fld F.PWR_HUE_EQ)) ≤ 15 * max (s.fld F.PWR_HUE_EV) (s.fld F.PWR_HUE_EQ) →
    Does .holdupCompare s fun t => t.dev.regs = s.dev.regs ∧ t.dev.u = { s.dev.u with pwr := { s.dev.u.pwr with cmpDue := s.dev.u.pwr.cmpDue + 100000000 } }) ∧
  (∀ (s : State) (v ua : Nat), Supplied s → Canon s → s.dev.u.pwr.estAt + 1000000 ≤ s.dev.u.elapsed → v ≤ 4000 → (s.dev.u.pwr.resetNLow = true ∨ s.fld F.PWR_STAT_QBASED = 0) →
    Does (.holdupEstimateTick (v * 10) ua) s fun t => t.fld F.PWR_HUV_V = v ∧ t.dev.u.pwr.estAt = s.dev.u.elapsed ∧ t.dev.u.pwr.q = s.dev.u.pwr.q ∧ (s.dev.u.pwr.q = 0 → t.fld F.PWR_HUQ_Q = 0) ∧ (s.dev.u.pwr.resetNLow = true → t.dev.u.pwr.counted = s.dev.u.pwr.counted) ∧ RegsKept [1] s t) ∧
  (∀ (s : State) (mv : Nat), Supplied s → (s.dev.u.pwr.resetNLow = true ∨ mv < 35800 ∨ 36200 < mv ∨ s.fld F.PWR_STAT_HUSTATE ≠ 0) →
    Does (.chargeEnd mv) s fun t => t = s) ∧
  (∀ (s : State) (c : Commit) (ok : Bool), Live s → s.dev.u.nv.commit = some c → (c.step ≠ 4 ∨ (5 ≤ c.shown ∧ ok = false)) →
    Does (.commitReadbackDone ok) s fun t => t = s) ∧
  (∀ (s : State) (mv ua : Nat), Supplied s → 40000 < mv →
    Stops (.holdupEstimateTick mv ua) s .ratingExceeded)

/-- A write of a SRC value from 17 to 31 leaves ENC_ACTL unchanged. For every slot that the source may write, every mask and
  every register contents: where SRC after the write would read 17 to 31, the write changes nothing, ENC_ACTL included. (R57). -/
def Obligations.AlarmSourceOutOfRange : Prop :=
  (∀ (s : State) (src : Src) (a : Nat) (w : Word), Live s → Canon s → a < 512 → (64 ≤ a ∨ srcHost src = false) → (w.toNat ^^^ (s.reg (R.ENC_ACTL a)).toNat) &&& (w.toNat / 65536) &&& 0x6000 = 0 → 17 ≤ bits ((w.toNat &&& (w.toNat / 65536)) ||| ((s.reg (R.ENC_ACTL a)).toNat &&& (0xFFFF ^^^ (w.toNat / 65536)))) 12 8 →
    Does (.registerWrite src (R.ENC_ACTL a) w) s fun t => t = s) ∧
  (∀ (s : State) (src : Src) (a : Nat) (w : Word), Live s → Canon s → a < 512 → (64 ≤ a ∨ srcHost src = false) → (w.toNat ^^^ (s.reg (R.ENC_ACTL a)).toNat) &&& (w.toNat / 65536) &&& 0x6000 = 0 → 17 ≤ bits ((w.toNat &&& (w.toNat / 65536)) ||| ((s.reg (R.ENC_ACTL a)).toNat &&& (0xFFFF ^^^ (w.toNat / 65536)))) 12 8 →
    Does (.alarmArm src a w) s fun t => t = s)

/-- A write to VDRV_PAIR that would change bit p while either channel of pair p has a TYPE other than off leaves that bit
  unchanged and sets VDRV_STAT.CFGREJ. For every source, mask and register contents; every other selected bit takes the value
  written, and nothing outside the valve window changes. (R250). -/
def Obligations.PairChangeRefused : Prop :=
  (∀ (s : State) (src : Src) (w : Word) (p : Nat), Live s → Canon s → p < 16 → bitAt (w.toNat / 65536) p = true → bitAt w.toNat p ≠ bitAt (s.reg R.VDRV_PAIR).toNat p → (s.fld (F.VDRV_PROF_TYPE (2 * p)) ≠ 0 ∨ s.fld (F.VDRV_PROF_TYPE (2 * p + 1)) ≠ 0) →
    Does (.registerWrite src R.VDRV_PAIR w) s fun t => bitAt (t.reg R.VDRV_PAIR).toNat p = bitAt (s.reg R.VDRV_PAIR).toNat p ∧ t.fld F.VDRV_STAT_CFGREJ = 1 ∧ (∀ q ∈ List.range 16, bitAt (t.reg R.VDRV_PAIR).toNat q = (if bitAt (w.toNat / 65536) q = true ∧ s.fld (F.VDRV_PROF_TYPE (2 * q)) = 0 ∧ s.fld (F.VDRV_PROF_TYPE (2 * q + 1)) = 0 then bitAt w.toNat q else bitAt (s.reg R.VDRV_PAIR).toNat q)) ∧ t.dev.u = s.dev.u ∧ RegsKept [0xE] s t)
end

