-- ==== Sys2Proof/Laws/Prog.lean ====
section
/-!
SUPPORT. Laws/Prog.lean: how operations run. `Gives` says what an operation answers and leaves from a given block; `Keeps` says
that it never breaks a property of the block. Both are closed under every way operations are put together, so a law of an
operation is proved from the laws of its parts, without unfolding them.
-/
namespace Sys2Proof.Machine

/-! ### Running -/

@[simp] theorem run_done (b : Block) : Prog.done.run b = .ok b := rfl
@[simp] theorem run_stop (f : Fault) (b : Block) : (Prog.stop f).run b = .error f := rfl
@[simp] theorem run_upd (u : Upd) (k : Prog) (b : Block) : (Prog.upd u k).run b = k.run (u.apply b) := rfl
@[simp] theorem run_read (k : Block → Prog) (b : Block) : (Prog.read k).run b = (k b).run b := rfl

/-! ### What an operation gives -/

/-- From `b` the operation answers `a`, leaves `b'`, and goes on. -/
def Gives {α : Type} (m : Op α) (b : Block) (a : α) (b' : Block) : Prop := ∀ k : α → Prog, Prog.run (m k) b = Prog.run (k a) b'

theorem gives_pure {α : Type} (a : α) (b : Block) : Gives (pure a) b a b := fun _ => rfl

theorem gives_bind {α β : Type} {m : Op α} {f : α → Op β} {b b' b'' : Block} {a : α} {c : β}
    (h : Gives m b a b') (g : Gives (f a) b' c b'') : Gives (m >>= f) b c b'' :=
  fun k => (h fun x => f x k).trans (g k)

theorem gives_block (b : Block) : Gives blockOp b b b := fun _ => rfl
theorem gives_units (b : Block) : Gives units b b.u b := fun _ => rfl
theorem gives_rd (a : Nat) (b : Block) : Gives (rd a) b (b.regs.get a) b := fun _ => rfl
theorem gives_wr (a : Nat) (w : Word) (b : Block) : Gives (wr a w) b () (b.setReg a w) := fun _ => rfl
theorem gives_modUpset (f : List Nat → List Nat) (b : Block) : Gives (modUpset f) b () { b with upset := f b.upset } := fun _ => rfl
theorem gives_modU (f : Units → Units) (b : Block) : Gives (modU f) b () { b with u := f b.u } := fun _ => rfl
theorem gives_gf (f : RF) (b : Block) : Gives (gf f) b (f.of (b.regs.get f.reg)) b := fun _ => rfl
theorem gives_bf (f : RF) (b : Block) : Gives (bf f) b (f.of (b.regs.get f.reg) != 0) b := fun _ => rfl
theorem gives_sf (f : RF) (v : Nat) (b : Block) :
    Gives (sf f v) b () (b.setReg f.reg (f.put (b.regs.get f.reg) v)) := fun _ => rfl
theorem gives_now (b : Block) : Gives now b b.u.elapsed b := fun _ => rfl
theorem gives_wall (b : Block) : Gives wallTime b b.u.wall b := fun _ => rfl
theorem gives_free (b : Block) :
    Gives free b (Config.freeValue b.u.free) { b with u := { b.u with free := b.u.free + 1 } } := fun _ => rfl
theorem gives_emit (o : Out) (b : Block) : Gives (emit o) b () { b with u := { b.u with out := b.u.out ++ [o] } } := fun _ => rfl

theorem gives_onlyIf_true {c : Bool} {m : Op Unit} {b b' : Block} (hc : c = true) (h : Gives m b () b') :
    Gives (onlyIf c m) b () b' := by subst hc; exact h

theorem gives_onlyIf_false {c : Bool} {m : Op Unit} {b : Block} (hc : c = false) : Gives (onlyIf c m) b () b := by
  subst hc; exact gives_pure () b

theorem gives_ite_pos {α : Type} {c : Prop} [Decidable c] {m n : Op α} {b b' : Block} {a : α} (hc : c) (h : Gives m b a b') :
    Gives (if c then m else n) b a b' := by rw [if_pos hc]; exact h

theorem gives_ite_neg {α : Type} {c : Prop} [Decidable c] {m n : Op α} {b b' : Block} {a : α} (hc : ¬c) (h : Gives n b a b') :
    Gives (if c then m else n) b a b' := by rw [if_neg hc]; exact h

theorem gives_each_nil {α : Type} (f : α → Op Unit) (b : Block) : Gives (each f []) b () b := gives_pure () b

theorem gives_each_cons {α : Type} {f : α → Op Unit} {x : α} {l : List α} {b b' b'' : Block} (h : Gives (f x) b () b')
    (g : Gives (each f l) b' () b'') : Gives (each f (x :: l)) b () b'' := gives_bind h g

/-- Running a whole operation. -/
theorem runOp_gives {m : Op Unit} {b b' : Block} (h : Gives m b () b') : runOp m b = .ok b' := h fun _ => Prog.done

/-! ### What an operation never does -/

/-- From every block with `P` the operation goes on with some answer at a block with `P`; only where `S` holds may it stop with a
fault instead. -/
def Keeps {α : Type} (S : Prop) (P : Block → Prop) (m : Op α) : Prop :=
  ∀ b, P b → (∃ a b', P b' ∧ Gives m b a b') ∨ (S ∧ ∃ f : Fault, ∀ k : α → Prog, Prog.run (m k) b = .error f)

variable {S : Prop} {P : Block → Prop}

theorem keeps_gives {α : Type} {m : Op α} (h : ∀ b, P b → ∃ a b', P b' ∧ Gives m b a b') : Keeps S P m :=
  fun b hb => .inl (h b hb)

theorem keeps_pure {α : Type} (a : α) : Keeps S P (pure a) := keeps_gives fun b hb => ⟨a, b, hb, gives_pure a b⟩

theorem keeps_bind {α β : Type} {m : Op α} {f : α → Op β} (h : Keeps S P m) (g : ∀ a, Keeps S P (f a)) :
    Keeps S P (m >>= f) := by
  intro b hb
  rcases h b hb with ⟨a, b', hb', hm⟩ | ⟨hs, e, he⟩
  · rcases g a b' hb' with ⟨c, b'', hb'', hf⟩ | ⟨hs, e, he⟩
    · exact .inl ⟨c, b'', hb'', gives_bind hm hf⟩
    · exact .inr ⟨hs, e, fun k => (hm fun x => f x k).trans (he k)⟩
  · exact .inr ⟨hs, e, fun k => he fun x => f x k⟩

theorem keeps_stop {α : Type} (hs : S) (f : Fault) : Keeps S P (stopOp f : Op α) := fun _ _ => .inr ⟨hs, f, fun _ => rfl⟩
theorem keeps_block : Keeps S P blockOp := keeps_gives fun b hb => ⟨b, b, hb, gives_block b⟩
theorem keeps_units : Keeps S P units := keeps_gives fun b hb => ⟨b.u, b, hb, gives_units b⟩
theorem keeps_rd (a : Nat) : Keeps S P (rd a) := keeps_gives fun b hb => ⟨_, b, hb, gives_rd a b⟩
theorem keeps_gf (f : RF) : Keeps S P (gf f) := keeps_gives fun b hb => ⟨_, b, hb, gives_gf f b⟩
theorem keeps_bf (f : RF) : Keeps S P (bf f) := keeps_gives fun b hb => ⟨_, b, hb, gives_bf f b⟩
theorem keeps_gbit (a i : Nat) : Keeps S P (gbit a i) := keeps_bf _
theorem keeps_now : Keeps S P now := keeps_gives fun b hb => ⟨_, b, hb, gives_now b⟩
theorem keeps_wall : Keeps S P wallTime := keeps_gives fun b hb => ⟨_, b, hb, gives_wall b⟩

theorem keeps_wr {a : Nat} {w : Word} (h : ∀ b, P b → P (b.setReg a w)) : Keeps S P (wr a w) :=
  keeps_gives fun b hb => ⟨(), _, h b hb, gives_wr a w b⟩

theorem keeps_sf {f : RF} {v : Nat} (h : ∀ b w, P b → P (b.setReg f.reg w)) : Keeps S P (sf f v) :=
  keeps_gives fun b hb => ⟨(), _, h b _ hb, gives_sf f v b⟩

theorem keeps_modUpset {f : List Nat → List Nat} (h : ∀ b, P b → P { b with upset := f b.upset }) : Keeps S P (modUpset f) :=
  keeps_gives fun b hb => ⟨(), _, h b hb, gives_modUpset f b⟩

theorem keeps_modU {f : Units → Units} (h : ∀ b, P b → P { b with u := f b.u }) : Keeps S P (modU f) :=
  keeps_gives fun b hb => ⟨(), _, h b hb, gives_modU f b⟩

theorem keeps_onlyIf {c : Bool} {m : Op Unit} (h : c = true → Keeps S P m) : Keeps S P (onlyIf c m) := by
  cases c
  · exact keeps_pure ()
  · exact h rfl

theorem keeps_ite {α : Type} {c : Prop} [Decidable c] {m n : Op α} (h : c → Keeps S P m) (g : ¬c → Keeps S P n) :
    Keeps S P (if c then m else n) := by
  split
  · exact h ‹_›
  · exact g ‹_›

theorem keeps_each {α : Type} {f : α → Op Unit} : ∀ {l : List α}, (∀ x ∈ l, Keeps S P (f x)) → Keeps S P (each f l)
  | [], _ => keeps_pure ()
  | x :: _, h => keeps_bind (h x (by simp)) fun _ => keeps_each fun y hy => h y (by simp [hy])

/-- What a whole operation leaves. -/
theorem keeps_run {m : Op Unit} (h : Keeps S P m) {b b' : Block} (hb : P b) (hr : runOp m b = .ok b') : P b' := by
  rcases h b hb with ⟨a, c, hc, hg⟩ | ⟨_, e, he⟩
  · have := runOp_gives (b' := c) hg
    rw [hr] at this
    cases this
    exact hc
  · have := he fun _ => Prog.done
    unfold runOp at hr
    rw [hr] at this
    cases this

/-- An operation that never stops ends at some block, with what it keeps. -/
theorem keeps_total {m : Op Unit} (h : Keeps False P m) {b : Block} (hb : P b) : ∃ b', runOp m b = .ok b' ∧ P b' := by
  rcases h b hb with ⟨a, c, hc, hg⟩ | ⟨hf, _⟩
  · exact ⟨c, runOp_gives hg, hc⟩
  · exact hf.elim

/-- What an operation keeps does not depend on where it may stop. -/
theorem keeps_mono {α : Type} {T : Prop} {m : Op α} (h : Keeps S P m) (hs : S → T) : Keeps T P m := fun b hb =>
  (h b hb).imp id fun x => ⟨hs x.1, x.2⟩

/-- A property that an operation keeps from each of its blocks on. -/
theorem keeps_imp {α : Type} {R : Block → Block → Prop} {m : Op α} (h : ∀ b, Keeps S (R b) m) (hr : ∀ b, R b b)
    (hp : ∀ b b', P b → R b b' → P b') : Keeps S P m := fun b hb =>
  (h b b (hr b)).imp (fun ⟨a, b', hb', hg⟩ => ⟨a, b', hp b b' hb hb', hg⟩) id

end Sys2Proof.Machine
end

