-- ==== Sys2Proof/Laws/Frame.lean ====
section
/-!
SUPPORT. Laws/Frame.lean: frames. `Spares ws keep` relates two blocks that differ at most in registers of the windows `ws` and in
unit data that `keep` does not show.
-/
namespace Sys2Proof.Machine

/-- The window of an address (R34). -/
def window (a : Nat) : Nat := a / 0x10000

/-- `b'` agrees with `b` on every register outside the windows `ws` and on what `keep` shows of the units' data. -/
def Spares {β : Type} (ws : List Nat) (keep : Units → β) (b b' : Block) : Prop :=
  (∀ a, window a ∉ ws → b'.regs.get a = b.regs.get a) ∧ keep b'.u = keep b.u

variable {α β : Type} {ws : List Nat} {keep : Units → β}

theorem frame_refl (b : Block) : Spares ws keep b b := ⟨fun _ _ => rfl, rfl⟩

theorem frame_trans {a b c : Block} (h : Spares ws keep a b) (g : Spares ws keep b c) : Spares ws keep a c :=
  ⟨fun x hx => (g.1 x hx).trans (h.1 x hx), g.2.trans h.2⟩

/-! ### Registers after a store -/

theorem find_put (l : Regs) (a : Nat) (w : Word) : (l.put a w).find? a = some w := by
  induction l with
  | nil => simp [Regs.put, Regs.find?]
  | cons x l ih =>
    obtain ⟨c, v⟩ := x
    simp only [Regs.put]
    split
    · simp [Regs.find?]
    · split
      · simp [Regs.find?]
      · rename_i h
        simp [Regs.find?, h, ih]

theorem find_put_ne (l : Regs) {a c : Nat} (w : Word) (h : c ≠ a) : (l.put a w).find? c = l.find? c := by
  induction l with
  | nil => simp [Regs.put, Regs.find?, h]
  | cons x l ih =>
    obtain ⟨d, v⟩ := x
    simp only [Regs.put]
    split
    · simp [Regs.find?, h]
    · split
      · rename_i e
        subst e
        simp [Regs.find?, h]
      · simp [Regs.find?, ih]

theorem find_drop_ne (l : Regs) {a c : Nat} (h : c ≠ a) : (l.drop a).find? c = l.find? c := by
  induction l with
  | nil => rfl
  | cons x l ih =>
    obtain ⟨d, v⟩ := x
    simp only [Regs.drop]
    split
    · rename_i e
      subst e
      simp [Regs.find?, h]
    · simp [Regs.find?, ih]

/-- A store leaves every other register alone. -/
theorem get_set_ne (l : Regs) {a c : Nat} (w : Word) (h : c ≠ a) : (l.set a w).get c = l.get c := by
  unfold Regs.set
  split
  · rfl
  · split <;> simp [Regs.get, find_put_ne, find_drop_ne, h]

/-! ### Operations that keep a frame -/

variable {S : Prop} {b0 : Block}

theorem frame_wr {a : Nat} {w : Word} (h : window a ∈ ws) : Keeps S (Spares ws keep b0) (wr a w) :=
  keeps_wr fun b hb => ⟨fun x hx => (get_set_ne b.regs w (fun e => hx (by rw [e]; exact h))).trans (hb.1 x hx), hb.2⟩

theorem frame_wrN {a v : Nat} (h : window a ∈ ws) : Keeps S (Spares ws keep b0) (wrN a v) := frame_wr h

theorem frame_sf {f : RF} {v : Nat} (h : window f.reg ∈ ws) : Keeps S (Spares ws keep b0) (sf f v) :=
  keeps_sf fun b w hb => ⟨fun x hx => (get_set_ne b.regs w (fun e => hx (by rw [e]; exact h))).trans (hb.1 x hx), hb.2⟩

theorem frame_modU {f : Units → Units} (h : ∀ u, keep (f u) = keep u) : Keeps S (Spares ws keep b0) (modU f) :=
  keeps_modU fun b hb => ⟨hb.1, (h b.u).trans hb.2⟩

theorem frame_sb {f : RF} {v : Bool} (h : window f.reg ∈ ws) : Keeps S (Spares ws keep b0) (sb f v) := frame_sf h

theorem frame_cntSat {f : RF} {n : Nat} (h : window f.reg ∈ ws) : Keeps S (Spares ws keep b0) (cntSat f n) :=
  keeps_bind (keeps_gf f) fun _ => frame_sf h

theorem frame_cntWrap {f : RF} {n : Nat} (h : window f.reg ∈ ws) : Keeps S (Spares ws keep b0) (cntWrap f n) :=
  keeps_bind (keeps_gf f) fun _ => frame_sf h

theorem frame_sbit {a i : Nat} {v : Bool} (h : window a ∈ ws) : Keeps S (Spares ws keep b0) (sbit a i v) := frame_sb h

theorem frame_emit {o : Out} (h : ∀ u l, keep { u with out := l } = keep u) : Keeps S (Spares ws keep b0) (emit o) :=
  frame_modU fun u => h u _

end Sys2Proof.Machine
end

