-- ==== Sys2Proof/Laws/Link.lean ====
section
/-!
SUPPORT. Laws/Link.lean: what sending does to the rest of the module. Buffers, packets, events and completions change registers of
the CMD, NET and POOL windows, the session layer, the links' working copies, the pools and what has left the module, and nothing else; and they never stop.
-/
namespace Sys2Proof.Machine

/-- The windows of CMD, NET and POOL. -/
def linkWindows : List Nat := [0x4, 0x5, 0x11]

/-- The units' data without what sending may change. -/
def linkKeep (u : Units) : Units := { u with cmd := {}, pool := {}, out := [], net := { u.net with links := [] } }

variable {S : Prop} {b0 : Block}

/-- The frame of everything in this file. -/
abbrev LinkFrame (b0 : Block) : Block → Prop := Spares linkWindows linkKeep b0

/-! ### Buffers -/

theorem link_poolUse (c : Nat) : Keeps S (LinkFrame b0) (poolUse c) := by
  unfold poolUse
  refine keeps_bind keeps_units fun u => keeps_bind (keeps_gf _) fun peak => keeps_onlyIf fun hc => ?_
  have hc : c < 5 := by simpa using hc
  refine keeps_bind (frame_sf ?_) fun _ => keeps_bind (frame_sf ?_) fun _ => frame_sf ?_ <;>
    (interval_cases c <;> decide)

theorem link_kittyFree (n : Nat) : Keeps S (LinkFrame b0) (kittyFree n) := by
  unfold kittyFree
  repeat' first
    | with_reducible first
      | exact keeps_units
      | exact keeps_gf _
      | exact keeps_bf _
      | exact keeps_rd _
      | exact keeps_now
      | exact keeps_pure _
      | refine frame_sf ?_
      | refine frame_sb ?_
      | refine frame_cntSat ?_
      | refine frame_cntWrap ?_
      | refine frame_modU ?_
      | refine frame_emit ?_
      | apply keeps_bind
      | apply keeps_onlyIf
      | apply keeps_ite
      | intro _
    | decide
    | rfl
    | split
    | dsimp only

theorem link_talonFree (n : Nat) : Keeps S (LinkFrame b0) (talonFree n) := by
  unfold talonFree
  repeat' first
    | with_reducible first
      | exact keeps_units
      | exact keeps_gf _
      | exact keeps_bf _
      | exact keeps_rd _
      | exact keeps_now
      | exact keeps_pure _
      | refine frame_sf ?_
      | refine frame_sb ?_
      | refine frame_cntSat ?_
      | refine frame_cntWrap ?_
      | refine frame_modU ?_
      | refine frame_emit ?_
      | apply keeps_bind
      | apply keeps_onlyIf
      | apply keeps_ite
      | intro _
    | decide
    | rfl
    | split
    | dsimp only

theorem link_takePriv (c k : Nat) : Keeps S (LinkFrame b0) (takePriv c k) := by
  unfold takePriv
  repeat' first
    | with_reducible first
      | exact keeps_units
      | exact keeps_gf _
      | exact keeps_bf _
      | exact keeps_rd _
      | exact keeps_now
      | exact keeps_pure _
      | refine frame_sf ?_
      | refine frame_sb ?_
      | refine frame_cntSat ?_
      | refine frame_cntWrap ?_
      | refine frame_modU ?_
      | refine frame_emit ?_
      | exact link_poolUse _
      | apply keeps_bind
      | apply keeps_onlyIf
      | apply keeps_ite
      | intro _
    | decide
    | rfl
    | split
    | dsimp only

theorem link_takeKitty (c k : Nat) : Keeps S (LinkFrame b0) (takeKitty c k) := by
  unfold takeKitty
  repeat' first
    | with_reducible first
      | exact keeps_units
      | exact keeps_gf _
      | exact keeps_bf _
      | exact keeps_rd _
      | exact keeps_now
      | exact keeps_pure _
      | refine frame_sf ?_
      | refine frame_sb ?_
      | refine frame_cntSat ?_
      | refine frame_cntWrap ?_
      | refine frame_modU ?_
      | refine frame_emit ?_
      | exact link_poolUse _
      | exact link_kittyFree _
      | apply keeps_bind
      | apply keeps_onlyIf
      | apply keeps_ite
      | intro _
    | decide
    | rfl
    | split
    | dsimp only

theorem link_takeTalon (c k : Nat) : Keeps S (LinkFrame b0) (takeTalon c k) := by
  unfold takeTalon
  repeat' first
    | with_reducible first
      | exact keeps_units
      | exact keeps_gf _
      | exact keeps_bf _
      | exact keeps_rd _
      | exact keeps_now
      | exact keeps_pure _
      | refine frame_sf ?_
      | refine frame_sb ?_
      | refine frame_cntSat ?_
      | refine frame_cntWrap ?_
      | refine frame_modU ?_
      | refine frame_emit ?_
      | exact link_poolUse _
      | exact link_talonFree _
      | apply keeps_bind
      | apply keeps_onlyIf
      | apply keeps_ite
      | intro _
    | decide
    | rfl
    | split
    | dsimp only

theorem link_poolRefuse : Keeps S (LinkFrame b0) (poolRefuse) := by
  unfold poolRefuse
  repeat' first
    | with_reducible first
      | exact keeps_units
      | exact keeps_gf _
      | exact keeps_bf _
      | exact keeps_rd _
      | exact keeps_now
      | exact keeps_pure _
      | refine frame_sf ?_
      | refine frame_sb ?_
      | refine frame_cntSat ?_
      | refine frame_cntWrap ?_
      | refine frame_modU ?_
      | refine frame_emit ?_
      | apply keeps_bind
      | apply keeps_onlyIf
      | apply keeps_ite
      | intro _
    | decide
    | rfl
    | split
    | dsimp only

theorem link_kittySettled (c how : Nat) : Keeps S (LinkFrame b0) (kittySettled c how) := by
  unfold kittySettled
  repeat' first
    | with_reducible first
      | exact keeps_units
      | exact keeps_gf _
      | exact keeps_bf _
      | exact keeps_rd _
      | exact keeps_now
      | exact keeps_pure _
      | refine frame_sf ?_
      | refine frame_sb ?_
      | refine frame_sbit ?_
      | refine frame_wrN ?_
      | refine frame_cntSat ?_
      | refine frame_cntWrap ?_
      | refine frame_modU ?_
      | refine frame_emit ?_
      | apply keeps_bind
      | apply keeps_onlyIf
      | apply keeps_ite
      | intro _
    | decide
    | rfl
    | split
    | dsimp only

theorem link_poolSettle (many : Bool) (c k : Nat) : Keeps S (LinkFrame b0) (poolSettle many c k) := by
  unfold poolSettle
  repeat' first
    | with_reducible first
      | exact keeps_units
      | exact keeps_gf _
      | exact keeps_bf _
      | exact keeps_rd _
      | exact keeps_now
      | exact keeps_pure _
      | refine frame_sf ?_
      | refine frame_sb ?_
      | refine frame_sbit ?_
      | refine frame_wrN ?_
      | refine frame_cntSat ?_
      | refine frame_cntWrap ?_
      | refine frame_modU ?_
      | refine frame_emit ?_
      | exact link_takePriv _ _
      | exact link_takeKitty _ _
      | exact link_takeTalon _ _
      | exact link_kittySettled _ _
      | exact link_poolRefuse
      | apply keeps_bind
      | apply keeps_onlyIf
      | apply keeps_ite
      | intro _
    | decide
    | rfl
    | split
    | dsimp only

theorem clientLink_le {c l : Nat} (h : clientLink c = some l) : l = 0 ∨ l = 5 := by
  unfold clientLink at h
  split at h
  · exact .inl (by simpa using h.symm)
  · split at h
    · exact .inr (by simpa using h.symm)
    · cases h

theorem link_recoverySet {l n : Nat} (h : l = 0 ∨ l = 5) : Keeps S (LinkFrame b0) (recoverySet l n) := by
  unfold recoverySet
  rcases h with rfl | rfl <;>
    exact keeps_bind (keeps_gf _) fun _ => keeps_bind (frame_modU fun _ => rfl) fun _ =>
      keeps_bind (frame_sf (by decide)) fun _ => frame_sf (by decide)

theorem link_poolRecover {l : Nat} (h : l = 0 ∨ l = 5) (many : Bool) (c k : Nat) : Keeps S (LinkFrame b0) (poolRecover many l c k) := by
  unfold poolRecover
  repeat' first
    | with_reducible first
      | exact keeps_units
      | exact keeps_gf _
      | exact keeps_bf _
      | exact keeps_rd _
      | exact keeps_now
      | exact keeps_pure _
      | refine frame_sf ?_
      | refine frame_sb ?_
      | refine frame_cntSat ?_
      | refine frame_cntWrap ?_
      | refine frame_modU ?_
      | refine frame_emit ?_
      | exact link_talonFree _
      | exact link_recoverySet h
      | exact link_poolUse _
      | exact link_poolSettle _ _ _
      | apply keeps_bind
      | apply keeps_onlyIf
      | apply keeps_ite
      | intro _
    | decide
    | rfl
    | split
    | dsimp only

theorem link_poolBeside (many : Bool) (c k : Nat) : Keeps S (LinkFrame b0) (poolBeside many c k) := by
  unfold poolBeside
  refine keeps_bind keeps_units fun u => ?_
  split
  · exact link_poolSettle _ _ _
  · rename_i l h
    exact keeps_ite (fun _ => link_poolRecover (clientLink_le h) _ _ _) fun _ => link_poolSettle _ _ _

theorem link_poolTake (c k : Nat) : Keeps S (LinkFrame b0) (poolTake c k) := link_poolBeside _ _ _

theorem clientLink_getD (c : Nat) : (clientLink c).getD 0 = 0 ∨ (clientLink c).getD 0 = 5 := by
  cases h : clientLink c with
  | none => exact .inl rfl
  | some l => exact clientLink_le h

theorem link_poolGive (r : Option BufRef) : Keeps S (LinkFrame b0) (poolGive r) := by
  unfold poolGive
  repeat' first
    | with_reducible first
      | exact keeps_units
      | exact keeps_gf _
      | exact keeps_bf _
      | exact keeps_rd _
      | exact keeps_now
      | exact keeps_pure _
      | refine frame_sf ?_
      | refine frame_sb ?_
      | refine frame_cntSat ?_
      | refine frame_cntWrap ?_
      | refine frame_modU ?_
      | refine frame_emit ?_
      | exact link_kittyFree _
      | exact link_talonFree _
      | exact link_recoverySet (clientLink_getD _)
      | exact link_poolUse _
      | apply keeps_bind
      | apply keeps_onlyIf
      | apply keeps_ite
      | intro _
    | decide
    | rfl
    | split
    | dsimp only

/-! ### Packets -/

theorem link_modSess (i : Nat) (f : Session → Session) : Keeps S (LinkFrame b0) (modSess i f) := by
  unfold modSess
  repeat' first
    | with_reducible first
      | exact keeps_units
      | exact keeps_gf _
      | exact keeps_bf _
      | exact keeps_rd _
      | exact keeps_now
      | exact keeps_pure _
      | refine frame_sf ?_
      | refine frame_sb ?_
      | refine frame_cntSat ?_
      | refine frame_cntWrap ?_
      | refine frame_modU ?_
      | refine frame_emit ?_
      | apply keeps_bind
      | apply keeps_onlyIf
      | apply keeps_ite
      | intro _
    | decide
    | rfl
    | split
    | dsimp only

theorem link_getSess (i : Nat) : Keeps S (LinkFrame b0) (getSess i) := by
  unfold getSess
  repeat' first
    | with_reducible first
      | exact keeps_units
      | exact keeps_gf _
      | exact keeps_bf _
      | exact keeps_rd _
      | exact keeps_now
      | exact keeps_pure _
      | refine frame_sf ?_
      | refine frame_sb ?_
      | refine frame_cntSat ?_
      | refine frame_cntWrap ?_
      | refine frame_modU ?_
      | refine frame_emit ?_
      | apply keeps_bind
      | apply keeps_onlyIf
      | apply keeps_ite
      | intro _
    | decide
    | rfl
    | split
    | dsimp only

theorem link_nextHop (ip : Nat) : Keeps S (LinkFrame b0) (nextHop ip) := by
  unfold nextHop
  repeat' first
    | with_reducible first
      | exact keeps_units
      | exact keeps_gf _
      | exact keeps_bf _
      | exact keeps_rd _
      | exact keeps_now
      | exact keeps_pure _
      | refine frame_sf ?_
      | refine frame_sb ?_
      | refine frame_cntSat ?_
      | refine frame_cntWrap ?_
      | refine frame_modU ?_
      | refine frame_emit ?_
      | apply keeps_bind
      | apply keeps_onlyIf
      | apply keeps_ite
      | intro _
    | decide
    | rfl
    | split
    | dsimp only

theorem link_portUp : Keeps S (LinkFrame b0) (portUp) := by
  unfold portUp domainOn
  repeat' first
    | with_reducible first
      | exact keeps_units
      | exact keeps_gf _
      | exact keeps_bf _
      | exact keeps_rd _
      | exact keeps_now
      | exact keeps_pure _
      | refine frame_sf ?_
      | refine frame_sb ?_
      | refine frame_cntSat ?_
      | refine frame_cntWrap ?_
      | refine frame_modU ?_
      | refine frame_emit ?_
      | apply keeps_bind
      | apply keeps_onlyIf
      | apply keeps_ite
      | intro _
    | decide
    | rfl
    | split
    | dsimp only

theorem link_canSend (ip : Nat) : Keeps S (LinkFrame b0) (canSend ip) := by
  unfold canSend
  repeat' first
    | with_reducible first
      | exact keeps_units
      | exact keeps_gf _
      | exact keeps_bf _
      | exact keeps_rd _
      | exact keeps_now
      | exact keeps_pure _
      | refine frame_sf ?_
      | refine frame_sb ?_
      | refine frame_cntSat ?_
      | refine frame_cntWrap ?_
      | refine frame_modU ?_
      | refine frame_emit ?_
      | exact link_nextHop _
      | exact link_portUp
      | apply keeps_bind
      | apply keeps_onlyIf
      | apply keeps_ite
      | intro _
    | decide
    | rfl
    | split
    | dsimp only

theorem link_lateCheck (d : Option Nat) : Keeps S (LinkFrame b0) (lateCheck d) := by
  unfold lateCheck
  repeat' first
    | with_reducible first
      | exact keeps_units
      | exact keeps_gf _
      | exact keeps_bf _
      | exact keeps_rd _
      | exact keeps_now
      | exact keeps_pure _
      | refine frame_sf ?_
      | refine frame_sb ?_
      | refine frame_cntSat ?_
      | refine frame_cntWrap ?_
      | refine frame_modU ?_
      | refine frame_emit ?_
      | apply keeps_bind
      | apply keeps_onlyIf
      | apply keeps_ite
      | intro _
    | decide
    | rfl
    | split
    | dsimp only

theorem link_seqNext (i : Nat) : Keeps S (LinkFrame b0) (seqNext i) := by
  unfold seqNext seqSet copyWrite modLink
  refine keeps_bind (link_getSess _) fun s => keeps_bind (link_modSess _ _) fun _ => frame_modU ?_
  intro _
  rfl

theorem link_emitPkt (p : Pkt) : Keeps S (LinkFrame b0) (emitPkt p) := by
  unfold emitPkt
  repeat' first
    | with_reducible first
      | exact keeps_units
      | exact keeps_gf _
      | exact keeps_bf _
      | exact keeps_rd _
      | exact keeps_now
      | exact keeps_wall
      | exact keeps_pure _
      | refine frame_sf ?_
      | refine frame_sb ?_
      | refine frame_cntSat ?_
      | refine frame_cntWrap ?_
      | refine frame_modU ?_
      | refine frame_emit ?_
      | exact link_modSess _ _
      | exact link_getSess _
      | exact link_canSend _
      | exact link_seqNext _
      | exact link_lateCheck _
      | exact link_poolGive _
      | apply keeps_bind
      | apply keeps_onlyIf
      | apply keeps_ite
      | intro _
    | decide
    | rfl
    | split
    | dsimp only

theorem link_recoveryBack (b : Option BufRef) : Keeps S (LinkFrame b0) (recoveryBack b) := by
  unfold recoveryBack
  repeat' first
    | with_reducible first
      | exact keeps_units
      | exact keeps_gf _
      | exact keeps_bf _
      | exact keeps_rd _
      | exact keeps_now
      | exact keeps_wall
      | exact keeps_pure _
      | refine frame_sf ?_
      | refine frame_sb ?_
      | refine frame_cntSat ?_
      | refine frame_cntWrap ?_
      | refine frame_modU ?_
      | refine frame_emit ?_
      | exact link_modSess _ _
      | exact link_getSess _
      | exact link_canSend _
      | exact link_seqNext _
      | exact link_lateCheck _
      | exact link_poolGive _
      | apply keeps_bind
      | apply keeps_onlyIf
      | apply keeps_ite
      | intro _
    | decide
    | rfl
    | split
    | dsimp only

theorem link_completionSent (i tagw : Nat) (p : Pkt) : Keeps S (LinkFrame b0) (completionSent i tagw p) := by
  unfold completionSent
  repeat' first
    | with_reducible first
      | exact keeps_units
      | exact keeps_gf _
      | exact keeps_bf _
      | exact keeps_rd _
      | exact keeps_now
      | exact keeps_wall
      | exact keeps_pure _
      | refine frame_sf ?_
      | refine frame_sb ?_
      | refine frame_cntSat ?_
      | refine frame_cntWrap ?_
      | refine frame_modU ?_
      | refine frame_emit ?_
      | exact link_modSess _ _
      | exact link_getSess _
      | exact link_canSend _
      | exact link_seqNext _
      | exact link_lateCheck _
      | exact link_poolGive _
      | exact link_recoveryBack _
      | apply keeps_bind
      | apply keeps_onlyIf
      | apply keeps_ite
      | intro _
    | decide
    | rfl
    | split
    | dsimp only

theorem link_resetFollows (p : Pkt) : Keeps S (LinkFrame b0) (resetFollows p) := by
  unfold resetFollows
  repeat' first
    | with_reducible first
      | exact keeps_units
      | exact keeps_gf _
      | exact keeps_bf _
      | exact keeps_rd _
      | exact keeps_now
      | exact keeps_wall
      | exact keeps_pure _
      | refine frame_sf ?_
      | refine frame_sb ?_
      | refine frame_cntSat ?_
      | refine frame_cntWrap ?_
      | refine frame_modU ?_
      | refine frame_emit ?_
      | exact link_modSess _ _
      | exact link_getSess _
      | exact link_canSend _
      | exact link_seqNext _
      | exact link_lateCheck _
      | exact link_poolGive _
      | apply keeps_bind
      | apply keeps_onlyIf
      | apply keeps_ite
      | intro _
    | decide
    | rfl
    | split
    | dsimp only

theorem link_sendStamped (w i kind tagw opcode status : Nat) (p : List Byte) (r : Option BufRef) (e : Bool) (d x : Option Nat) : Keeps S (LinkFrame b0) (sendStamped w i kind tagw opcode status p r e d x) := by
  unfold sendStamped
  repeat' first
    | with_reducible first
      | exact keeps_units
      | exact keeps_gf _
      | exact keeps_bf _
      | exact keeps_rd _
      | exact keeps_now
      | exact keeps_wall
      | exact keeps_pure _
      | refine frame_sf ?_
      | refine frame_sb ?_
      | refine frame_cntSat ?_
      | refine frame_cntWrap ?_
      | refine frame_modU ?_
      | refine frame_emit ?_
      | exact link_modSess _ _
      | exact link_getSess _
      | exact link_canSend _
      | exact link_seqNext _
      | exact link_lateCheck _
      | exact link_poolGive _
      | exact link_emitPkt _
      | exact link_completionSent _ _ _
      | exact link_resetFollows _
      | apply keeps_bind
      | apply keeps_onlyIf
      | apply keeps_ite
      | intro _
    | decide
    | rfl
    | split
    | dsimp only

theorem link_sendSess (i kind tagw opcode status : Nat) (p : List Byte) (r : Option BufRef) (e : Bool) (d x : Option Nat) : Keeps S (LinkFrame b0) (sendSess i kind tagw opcode status p r e d x) := by
  unfold sendSess
  repeat' first
    | with_reducible first
      | exact keeps_units
      | exact keeps_gf _
      | exact keeps_bf _
      | exact keeps_rd _
      | exact keeps_now
      | exact keeps_wall
      | exact keeps_pure _
      | refine frame_sf ?_
      | refine frame_sb ?_
      | refine frame_cntSat ?_
      | refine frame_cntWrap ?_
      | refine frame_modU ?_
      | refine frame_emit ?_
      | exact link_modSess _ _
      | exact link_getSess _
      | exact link_canSend _
      | exact link_seqNext _
      | exact link_lateCheck _
      | exact link_poolGive _
      | exact link_sendStamped _ _ _ _ _ _ _ _ _ _ _
      | apply keeps_bind
      | apply keeps_onlyIf
      | apply keeps_ite
      | intro _
    | decide
    | rfl
    | split
    | dsimp only

theorem link_ackRoom : Keeps S (LinkFrame b0) ackRoom := by
  unfold ackRoom
  repeat' first
    | with_reducible first
      | exact keeps_units
      | exact keeps_gf _
      | exact keeps_bf _
      | exact keeps_rd _
      | exact keeps_now
      | exact keeps_pure _
      | refine frame_sf ?_
      | refine frame_sb ?_
      | refine frame_sbit ?_
      | refine frame_wrN ?_
      | refine frame_cntSat ?_
      | refine frame_cntWrap ?_
      | refine frame_modU ?_
      | refine frame_emit ?_
      | apply keeps_bind
      | apply keeps_onlyIf
      | apply keeps_ite
      | intro _
    | decide
    | rfl
    | split
    | dsimp only

theorem link_sendAck (i tagw opcode status : Nat) : Keeps S (LinkFrame b0) (sendAck i tagw opcode status) := by
  unfold sendAck
  repeat' first
    | with_reducible first
      | exact keeps_units
      | exact keeps_gf _
      | exact keeps_bf _
      | exact keeps_rd _
      | exact keeps_now
      | exact keeps_pure _
      | refine frame_sf ?_
      | refine frame_sb ?_
      | refine frame_sbit ?_
      | refine frame_wrN ?_
      | refine frame_cntSat ?_
      | refine frame_cntWrap ?_
      | refine frame_modU ?_
      | refine frame_emit ?_
      | exact link_ackRoom
      | exact link_sendSess _ _ _ _ _ _ _ _ _ _
      | apply keeps_bind
      | apply keeps_onlyIf
      | apply keeps_ite
      | intro _
    | decide
    | rfl
    | split
    | dsimp only

theorem link_levelFull (n : Nat) : Keeps S (LinkFrame b0) (levelFull n) := by
  unfold levelFull
  exact keeps_bind (frame_sbit (by decide)) fun _ => keeps_bind (frame_sbit (by decide)) fun _ => frame_sb (by decide)

theorem link_levelFree (n : Nat) : Keeps S (LinkFrame b0) (levelFree n) := frame_sbit (by decide)

theorem link_eventDrop : Keeps S (LinkFrame b0) (eventDrop) := by
  unfold eventDrop
  repeat' first
    | with_reducible first
      | exact keeps_units
      | exact keeps_gf _
      | exact keeps_bf _
      | exact keeps_rd _
      | exact keeps_now
      | exact keeps_pure _
      | refine frame_sf ?_
      | refine frame_sb ?_
      | refine frame_cntSat ?_
      | refine frame_cntWrap ?_
      | refine frame_modU ?_
      | refine frame_emit ?_
      | apply keeps_bind
      | apply keeps_onlyIf
      | apply keeps_ite
      | intro _
    | decide
    | rfl
    | split
    | dsimp only

theorem link_eventSend (i code : Nat) (p : List Byte) (x : BufRef) : Keeps S (LinkFrame b0) (eventSend i code p x) := by
  unfold eventSend
  repeat' first
    | with_reducible first
      | exact keeps_units
      | exact keeps_gf _
      | exact keeps_bf _
      | exact keeps_rd _
      | exact keeps_now
      | exact keeps_pure _
      | refine frame_sf ?_
      | refine frame_sb ?_
      | refine frame_sbit ?_
      | refine frame_wrN ?_
      | refine frame_cntSat ?_
      | refine frame_cntWrap ?_
      | refine frame_modU ?_
      | refine frame_emit ?_
      | exact link_sendSess _ _ _ _ _ _ _ _ _ _
      | exact link_getSess _
      | exact link_levelFull _
      | apply keeps_bind
      | apply keeps_onlyIf
      | apply keeps_ite
      | intro _
    | decide
    | rfl
    | split
    | dsimp only

theorem link_ringLevelShow : Keeps S (LinkFrame b0) ringLevelShow := by
  unfold ringLevelShow
  repeat' first
    | with_reducible first
      | exact keeps_units
      | exact keeps_gf _
      | exact keeps_bf _
      | exact keeps_rd _
      | exact keeps_now
      | exact keeps_pure _
      | refine frame_sf ?_
      | refine frame_sb ?_
      | refine frame_sbit ?_
      | refine frame_wrN ?_
      | refine frame_cntSat ?_
      | refine frame_cntWrap ?_
      | refine frame_modU ?_
      | refine frame_emit ?_
      | exact keeps_gbit _ _
      | exact link_levelFull _
      | exact link_levelFree _
      | apply keeps_bind
      | apply keeps_onlyIf
      | apply keeps_ite
      | intro _
    | decide
    | rfl
    | split
    | dsimp only

theorem link_raiseTo {ask : Op (Option BufRef)} (h : Keeps S (LinkFrame b0) ask) (client code : Nat) (data : List Byte) (i : Nat) :
    Keeps S (LinkFrame b0) (raiseTo ask client code data i) := by
  unfold raiseTo
  repeat' first
    | with_reducible first
      | exact keeps_units
      | exact keeps_gf _
      | exact keeps_bf _
      | exact keeps_rd _
      | exact keeps_now
      | exact keeps_pure _
      | refine frame_sf ?_
      | refine frame_sb ?_
      | refine frame_sbit ?_
      | refine frame_wrN ?_
      | refine frame_cntSat ?_
      | refine frame_cntWrap ?_
      | refine frame_modU ?_
      | refine frame_emit ?_
      | exact h
      | exact link_modSess _ _
      | exact link_getSess _
      | exact link_ringLevelShow
      | exact link_eventSend _ _ _ _
      | apply keeps_bind
      | apply keeps_onlyIf
      | apply keeps_ite
      | intro _
    | decide
    | rfl
    | split
    | dsimp only

theorem link_raiseBy {ask : Op (Option BufRef)} (h : Keeps S (LinkFrame b0) ask) (client code : Nat) (data : List Byte) :
    Keeps S (LinkFrame b0) (raiseBy ask client code data) := by
  unfold raiseBy
  repeat' first
    | with_reducible first
      | exact keeps_units
      | exact keeps_gf _
      | exact keeps_bf _
      | exact keeps_rd _
      | exact keeps_now
      | exact keeps_pure _
      | refine frame_sf ?_
      | refine frame_sb ?_
      | refine frame_sbit ?_
      | refine frame_wrN ?_
      | refine frame_cntSat ?_
      | refine frame_cntWrap ?_
      | refine frame_modU ?_
      | refine frame_emit ?_
      | exact link_raiseTo h _ _ _ _
      | exact link_eventDrop
      | apply keeps_bind
      | apply keeps_onlyIf
      | apply keeps_ite
      | intro _
    | decide
    | rfl
    | split
    | dsimp only

theorem link_raiseFrom (client code : Nat) (data : List Byte) : Keeps S (LinkFrame b0) (raiseFrom client code data) :=
  link_raiseBy (link_poolTake _ _) _ _ _

theorem link_raise (code : Nat) (data : List Byte) : Keeps S (LinkFrame b0) (raise code data) := link_raiseFrom _ _ _

/-! ### Completions -/

theorem link_orphanEnd (i n : Nat) : Keeps S (LinkFrame b0) (orphanEnd i n) := by
  unfold orphanEnd
  repeat' first
    | with_reducible first
      | exact keeps_units
      | exact keeps_gf _
      | exact keeps_bf _
      | exact keeps_rd _
      | exact keeps_now
      | exact keeps_pure _
      | refine frame_sf ?_
      | refine frame_sb ?_
      | refine frame_sbit ?_
      | refine frame_wrN ?_
      | refine frame_cntSat ?_
      | refine frame_cntWrap ?_
      | refine frame_modU ?_
      | refine frame_emit ?_
      | exact keeps_each fun _ _ => link_poolGive _
      | apply keeps_bind
      | apply keeps_onlyIf
      | apply keeps_ite
      | intro _
    | decide
    | rfl
    | split
    | dsimp only

theorem link_completeTag (i tagw status : Nat) (p : List Byte) : Keeps S (LinkFrame b0) (completeTag i tagw status p) := by
  unfold completeTag
  repeat' first
    | with_reducible first
      | exact link_orphanEnd _ _
      | exact keeps_units
      | exact keeps_gf _
      | exact keeps_bf _
      | exact keeps_rd _
      | exact keeps_now
      | exact keeps_pure _
      | refine frame_sf ?_
      | refine frame_sb ?_
      | refine frame_cntSat ?_
      | refine frame_cntWrap ?_
      | refine frame_modU ?_
      | refine frame_emit ?_
      | exact link_modSess _ _
      | exact link_getSess _
      | exact link_poolGive _
      | exact link_sendSess _ _ _ _ _ _ _ _ _ _
      | apply keeps_bind
      | apply keeps_onlyIf
      | apply keeps_ite
      | intro _
    | decide
    | rfl
    | split
    | dsimp only

theorem link_completeOpt (o : Option (Nat × Nat)) (status : Nat) (p : List Byte) : Keeps S (LinkFrame b0) (completeOpt o status p) := by
  unfold completeOpt
  repeat' first
    | with_reducible first
      | exact keeps_units
      | exact keeps_gf _
      | exact keeps_bf _
      | exact keeps_rd _
      | exact keeps_now
      | exact keeps_pure _
      | refine frame_sf ?_
      | refine frame_sb ?_
      | refine frame_cntSat ?_
      | refine frame_cntWrap ?_
      | refine frame_modU ?_
      | refine frame_emit ?_
      | exact link_completeTag _ _ _ _
      | apply keeps_bind
      | apply keeps_onlyIf
      | apply keeps_ite
      | intro _
    | decide
    | rfl
    | split
    | dsimp only

/-- Sending never stops, and changes nothing outside its frame: for any operation of this file. -/
theorem link_total {m : Op Unit} (h : ∀ b, Keeps False (LinkFrame b) m) (b : Block) :
    ∃ b', runOp m b = .ok b' ∧ LinkFrame b b' := keeps_total (h b) (frame_refl b)

end Sys2Proof.Machine
end

