-- ==== Sys2Proof/Laws/Packet.lean ====
section
/-!
SUPPORT. Laws/Packet.lean: bytes laid out and read back, and the sums of 16-bit words under the checksums of R356.
-/
namespace Sys2Proof

/-! ### Bytes of a number -/

@[simp] theorem leBytes_length (n v : Nat) : (leBytes n v).length = n := by
  induction n generalizing v with
  | zero => rfl
  | succ n ih => simp [leBytes, ih]

@[simp] theorem beBytes_length (n v : Nat) : (beBytes n v).length = n := by simp [beBytes]

theorem leNat_leBytes (n v : Nat) : leNat (leBytes n v) = v % 256 ^ n := by
  induction n generalizing v with
  | zero => simp [leBytes, leNat, Nat.mod_one]
  | succ n ih =>
    have h := Nat.mod_mul (a := 256) (b := 256 ^ n) (x := v)
    simp only [leBytes, leNat, ih, BitVec.toNat_ofNat, Nat.pow_succ, Nat.mul_comm (256 ^ n) 256, h]

theorem beNat_beBytes (n v : Nat) : beNat (beBytes n v) = v % 256 ^ n := by simp [beNat, beBytes, leNat_leBytes]

/-! ### Fields inside a longer list -/

theorem slice_append (a b : List Byte) (o n : Nat) (h : a.length = o) : slice (a ++ b) o n = b.take n := by
  subst h
  simp [slice]

/-- A field laid out after `o` bytes reads back there. -/
theorem leAt_append (a c : List Byte) (o n v : Nat) (h : a.length = o) : leAt (a ++ (leBytes n v ++ c)) o n = v % 256 ^ n := by
  rw [leAt, slice_append a _ o n h, List.take_append_of_le_length (by simp), List.take_of_length_le (by simp), leNat_leBytes]

/-- A field that lies in the front part reads the same there. -/
theorem leAt_front (a b : List Byte) (o n : Nat) (h : o + n ≤ a.length) : leAt (a ++ b) o n = leAt a o n := by
  simp only [leAt, slice]
  rw [List.drop_append_of_le_length (by omega), List.take_append_of_le_length (by simp; omega)]

end Sys2Proof

namespace Sys2Proof.Machine

@[simp] theorem headerBytes_length (kind session seq tagw opcode len status : Nat) :
    (headerBytes kind session seq tagw opcode len status).length = 16 := by simp [headerBytes]

@[simp] theorem data_length (p : Pkt) : p.data.length = 16 + p.payload.length := by simp [Pkt.data]

@[simp] theorem ipv4Header_length (src dst n : Nat) : (ipv4Header src dst n).length = 20 := by simp [ipv4Header]

@[simp] theorem udpSegment_length (src dst sport dport : Nat) (d : List Byte) : (udpSegment src dst sport dport d).length = 8 + d.length := by
  simp [udpSegment]; omega

/-- The bytes before an even place and those after it sum apart. -/
theorem wordSum_append (a b : List Byte) (h : a.length % 2 = 0) : wordSum (a ++ b) = wordSum a + wordSum b := by
  induction a using wordSum.induct with
  | case1 => simp [wordSum]
  | case2 x => simp at h
  | case3 x y l ih =>
    have := ih (by simp at h; omega)
    simp [wordSum, this]; omega

theorem wordSum_le (l : List Byte) : wordSum l ≤ 65535 * ((l.length + 1) / 2) := by
  induction l using wordSum.induct with
  | case1 => simp [wordSum]
  | case2 x => have := x.isLt; simp [wordSum]; omega
  | case3 x y l ih =>
    have hx := x.isLt
    have hy := y.isLt
    simp only [wordSum, List.length_cons]
    omega

/-- A folded sum is congruent to the sum modulo 65,535, and it is 0 only for 0. -/
theorem foldSum_spec (s : Nat) (h : s < 2 ^ 32) : foldSum s ≤ 65535 ∧ foldSum s % 65535 = s % 65535 ∧ (foldSum s = 0 ↔ s = 0) := by
  simp only [foldSum]
  omega

end Sys2Proof.Machine
end

