-- ==== Sys2Proof/Laws/Ring.lean ====
section
/-!
SUPPORT. Laws/Ring.lean: a frame of the ring that was sealed with its CRC-32 passes its check (R533).
-/
namespace Sys2Proof.Machine

theorem crc32Bit_lt {c : Nat} (h : c < 2 ^ 32) : crc32Bit c < 2 ^ 32 := by
  unfold crc32Bit
  split
  · exact Nat.xor_lt_two_pow (by omega) (by omega)
  · omega

theorem crc32Byte_lt {c : Nat} (b : Byte) (h : c < 2 ^ 32) : crc32Byte c b < 2 ^ 32 := by
  have hx : c ^^^ b.toNat < 2 ^ 32 := Nat.xor_lt_two_pow h (lt_trans b.isLt (by decide))
  simp only [crc32Byte]
  exact crc32Bit_lt (crc32Bit_lt (crc32Bit_lt (crc32Bit_lt (crc32Bit_lt (crc32Bit_lt (crc32Bit_lt (crc32Bit_lt hx)))))))

theorem crc32_lt (l : List Byte) : crc32 l < 2 ^ 32 := by
  have h : ∀ (l : List Byte) (c : Nat), c < 2 ^ 32 → l.foldl crc32Byte c < 2 ^ 32 := by
    intro l
    induction l with
    | nil => exact fun c hc => hc
    | cons x l ih => exact fun c hc => ih _ (crc32Byte_lt x hc)
  exact Nat.xor_lt_two_pow (h l _ (by decide)) (by decide)

/-- A sealed frame is good. -/
theorem frameGood_seal (l : List Byte) : frameGood (frameSeal l) = true := by
  have h : leAt (l ++ (leBytes 4 (crc32 l) ++ [])) l.length 4 = crc32 l % 256 ^ 4 := leAt_append l [] l.length 4 _ rfl
  rw [List.append_nil, Nat.mod_eq_of_lt (by simpa using crc32_lt l)] at h
  simp [frameGood, frameSeal, h]

end Sys2Proof.Machine
end

