-- ==== Sys2Proof/Laws/State.lean ====
section
/-!
SUPPORT. Laws/State.lean: what each named update does to each part of the block, what the register file's operations keep and give
back, and how a command's operation becomes the module's next state. Later proofs cite these and unfold no record update.
-/
namespace Sys2Proof.Machine

/-! ### One update of the block -/

@[simp] theorem apply_reg_regs (a : Nat) (w : Word) (b : Block) : ((Upd.reg a w).apply b).regs = b.regs.set a w := rfl
@[simp] theorem apply_reg_u (a : Nat) (w : Word) (b : Block) : ((Upd.reg a w).apply b).u = b.u := rfl
@[simp] theorem setReg_regs (a : Nat) (w : Word) (b : Block) : (b.setReg a w).regs = b.regs.set a w := rfl
@[simp] theorem setReg_u (a : Nat) (w : Word) (b : Block) : (b.setReg a w).u = b.u := rfl
@[simp] theorem setReg_upset (a : Nat) (w : Word) (b : Block) : (b.setReg a w).upset = b.upset.filter (· ≠ a) := rfl
@[simp] theorem apply_reg_upset (a : Nat) (w : Word) (b : Block) : ((Upd.reg a w).apply b).upset = b.upset.filter (· ≠ a) := rfl
@[simp] theorem apply_parity_regs (f : List Nat → List Nat) (b : Block) : ((Upd.parity f).apply b).regs = b.regs := rfl
@[simp] theorem apply_parity_u (f : List Nat → List Nat) (b : Block) : ((Upd.parity f).apply b).u = b.u := rfl
@[simp] theorem apply_parity_upset (f : List Nat → List Nat) (b : Block) : ((Upd.parity f).apply b).upset = f b.upset := rfl
@[simp] theorem apply_units_upset (f : Units → Units) (b : Block) : ((Upd.units f).apply b).upset = b.upset := rfl
@[simp] theorem apply_units_regs (f : Units → Units) (b : Block) : ((Upd.units f).apply b).regs = b.regs := rfl
@[simp] theorem apply_units_u (f : Units → Units) (b : Block) : ((Upd.units f).apply b).u = f b.u := rfl

/-! ### The state after reset -/

@[simp] theorem reset_pending : State.reset.pending = [] := rfl
@[simp] theorem reset_regs : State.reset.dev.regs = [] := rfl
@[simp] theorem reset_upset : State.reset.dev.upset = [] := rfl
@[simp] theorem reset_u : State.reset.dev.u = {} := rfl

/-! ### The journal (R613, R614) and the ratings (R643) -/

@[simp] theorem journalPut_journal (r : JournalRec) (n : NvS) : (journalPut r n).journal = r :: n.journal := rfl
@[simp] theorem journalPut_commit (r : JournalRec) (n : NvS) : (journalPut r n).commit = n.commit := rfl
@[simp] theorem journalPut_queued (r : JournalRec) (n : NvS) : (journalPut r n).queued = n.queued := rfl
@[simp] theorem journalPut_fw (r : JournalRec) (n : NvS) : (journalPut r n).fw = n.fw := rfl
@[simp] theorem journalPut_mat (r : JournalRec) (n : NvS) : (journalPut r n).mat = n.mat := rfl
@[simp] theorem journalPut_tab (r : JournalRec) (n : NvS) : (journalPut r n).tab = n.tab := rfl
@[simp] theorem journalPut_ref (r : JournalRec) (n : NvS) : (journalPut r n).ref = n.ref := rfl
@[simp] theorem journalPut_state (r : JournalRec) (n : NvS) : (journalPut r n).state = n.state := rfl
@[simp] theorem journalPut_fwSel (r : JournalRec) (n : NvS) : (journalPut r n).fwSel = n.fwSel := rfl
@[simp] theorem journalPut_matSel (r : JournalRec) (n : NvS) : (journalPut r n).matSel = n.matSel := rfl
@[simp] theorem journalPut_tabSel (r : JournalRec) (n : NvS) : (journalPut r n).tabSel = n.tabSel := rfl
@[simp] theorem journalPut_refSel (r : JournalRec) (n : NvS) : (journalPut r n).refSel = n.refSel := rfl
@[simp] theorem journalPut_stateSel (r : JournalRec) (n : NvS) : (journalPut r n).stateSel = n.stateSel := rfl
@[simp] theorem journalPut_archive (r : JournalRec) (n : NvS) : (journalPut r n).archive = n.archive := rfl

/-- A voltage within its rating is followed as the operation says. -/
theorem rated_within {most v : Nat} (h : v ≤ most) (m : Op Unit) : rated most v m = m := if_neg (Nat.not_lt.mpr h)

/-- A voltage beyond its rating stops. -/
theorem rated_beyond {most v : Nat} (h : most < v) (m : Op Unit) : rated most v m = stopOp .ratingExceeded := if_pos h

/-! ### Named updates of the units' data -/

/-- The block with its units' data replaced. -/
def Block.withU (b : Block) (u : Units) : Block := { b with u := u }

@[simp] theorem withU_regs (b : Block) (u : Units) : (b.withU u).regs = b.regs := rfl
@[simp] theorem withU_upset (b : Block) (u : Units) : (b.withU u).upset = b.upset := rfl
@[simp] theorem withU_u (b : Block) (u : Units) : (b.withU u).u = u := rfl
@[simp] theorem withU_withU (b : Block) (u v : Units) : (b.withU u).withU v = b.withU v := rfl
@[simp] theorem withU_same (b : Block) : b.withU b.u = b := rfl

variable (b : Block)

theorem gives_modPwr (f : PwrS → PwrS) : Gives (modPwr f) b () (b.withU { b.u with pwr := f b.u.pwr }) := fun _ => rfl
theorem gives_modSys (f : SysS → SysS) : Gives (modSys f) b () (b.withU { b.u with sys := f b.u.sys }) := fun _ => rfl
theorem gives_modNv (f : NvS → NvS) : Gives (modNv f) b () (b.withU { b.u with nv := f b.u.nv }) := fun _ => rfl
theorem gives_modCmd (f : CmdS → CmdS) : Gives (modCmd f) b () (b.withU { b.u with cmd := f b.u.cmd }) := fun _ => rfl
theorem gives_modEnc (f : EncS → EncS) : Gives (modEnc f) b () (b.withU { b.u with enc := f b.u.enc }) := fun _ => rfl
theorem gives_modTomo (f : TomoS → TomoS) : Gives (modTomo f) b () (b.withU { b.u with tomo := f b.u.tomo }) := fun _ => rfl
theorem gives_modRec (f : RecS → RecS) : Gives (modRec f) b () (b.withU { b.u with reco := f b.u.reco }) := fun _ => rfl
theorem gives_modPcl (f : PclS → PclS) : Gives (modPcl f) b () (b.withU { b.u with pcl := f b.u.pcl }) := fun _ => rfl
theorem gives_modLoop (f : LoopS → LoopS) : Gives (modLoop f) b () (b.withU { b.u with loop := f b.u.loop }) := fun _ => rfl
theorem gives_modAff (f : AffS → AffS) : Gives (modAff f) b () (b.withU { b.u with aff := f b.u.aff }) := fun _ => rfl
theorem gives_modVdrv (f : ValveS → ValveS) : Gives (modVdrv f) b () (b.withU { b.u with vdrv := f b.u.vdrv }) := fun _ => rfl
theorem gives_modRng (f : RngS → RngS) : Gives (modRng f) b () (b.withU { b.u with rng := f b.u.rng }) := fun _ => rfl
theorem gives_modThm (f : ThmS → ThmS) : Gives (modThm f) b () (b.withU { b.u with thm := f b.u.thm }) := fun _ => rfl
theorem gives_modJtag (f : JtagS → JtagS) : Gives (modJtag f) b () (b.withU { b.u with jtag := f b.u.jtag }) := fun _ => rfl

theorem gives_modLane (n : Nat) (f : EncLane → EncLane) :
    Gives (modLane n f) b () (b.withU { b.u with enc := { b.u.enc with lanes := updAt b.u.enc.lanes n f } }) := fun _ => rfl
theorem gives_modSess (i : Nat) (f : Session → Session) :
    Gives (modSess i f) b () (b.withU { b.u with cmd := { b.u.cmd with sessions := updAt b.u.cmd.sessions i f } }) := fun _ => rfl
theorem gives_modVch (n : Nat) (f : ValveCh → ValveCh) :
    Gives (modVch n f) b () (b.withU { b.u with vdrv := { b.u.vdrv with chs := updAt b.u.vdrv.chs n f } }) := fun _ => rfl
theorem gives_modFch (n : Nat) (f : FanCh → FanCh) :
    Gives (modFch n f) b () (b.withU { b.u with fan := { b.u.fan with chs := updAt b.u.fan.chs n f } }) := fun _ => rfl
theorem gives_modBus (n : Nat) (f : FldBus → FldBus) :
    Gives (modBus n f) b () (b.withU { b.u with fld := { b.u.fld with buses := updAt b.u.fld.buses n f } }) := fun _ => rfl
theorem gives_modLink (l : Nat) (f : NetLink → NetLink) :
    Gives (modLink l f) b () (b.withU { b.u with net := { b.u.net with links := updAt b.u.net.links l fun k => f (linkSettle b.u.elapsed k) } }) := fun _ => rfl
theorem gives_modSlot (n : Nat) (f : LoopSlot → LoopSlot) :
    Gives (modSlot n f) b () (b.withU { b.u with loop := { b.u.loop with slots := updAt b.u.loop.slots n f } }) := fun _ => rfl
theorem gives_modGroup (g : Nat) (f : LoopGroup → LoopGroup) :
    Gives (modGroup g f) b () (b.withU { b.u with loop := { b.u.loop with groups := updAt b.u.loop.groups g f } }) := fun _ => rfl
theorem gives_modConv (k : Nat) (f : FieldConv → FieldConv) :
    Gives (modConv k f) b () (b.withU { b.u with aff := { b.u.aff with convs := updAt b.u.aff.convs k f } }) := fun _ => rfl

theorem gives_getLane (n : Nat) : Gives (getLane n) b (b.u.enc.lanes.getD n {}) b := fun _ => rfl
theorem gives_getSess (i : Nat) : Gives (getSess i) b (b.u.cmd.sessions.getD i {}) b := fun _ => rfl
theorem gives_getVch (n : Nat) : Gives (getVch n) b (b.u.vdrv.chs.getD n {}) b := fun _ => rfl
theorem gives_getFch (n : Nat) : Gives (getFch n) b (b.u.fan.chs.getD n {}) b := fun _ => rfl
theorem gives_getBus (n : Nat) : Gives (getBus n) b (b.u.fld.buses.getD n {}) b := fun _ => rfl
theorem gives_getLink (l : Nat) : Gives (getLink l) b (linkSettle b.u.elapsed (b.u.net.links.getD l {})) b := fun _ => rfl
theorem gives_getSlot (n : Nat) : Gives (getSlot n) b (b.u.loop.slots.getD n {}) b := fun _ => rfl
theorem gives_getGroup (g : Nat) : Gives (getGroup g) b (b.u.loop.groups.getD g {}) b := fun _ => rfl
theorem gives_getConv (k : Nat) : Gives (getConv k) b (b.u.aff.convs.getD k {}) b := fun _ => rfl

/-! ### Lists of like things -/

@[simp] theorem updAt_length {α : Type} (l : List α) (i : Nat) (f : α → α) : (updAt l i f).length = l.length := by
  induction l generalizing i with
  | nil => rfl
  | cons a l ih => cases i <;> simp [updAt, ih]

@[simp] theorem setAt_length {α : Type} (l : List α) (i : Nat) (a : α) : (setAt l i a).length = l.length := by
  induction l generalizing i with
  | nil => rfl
  | cons b l ih => cases i <;> simp [setAt, ih]

theorem updAt_getD_same {α : Type} (l : List α) (i : Nat) (f : α → α) (d : α) (h : i < l.length) :
    (updAt l i f).getD i d = f (l.getD i d) := by
  induction l generalizing i with
  | nil => simp at h
  | cons a l ih =>
    cases i with
    | zero => rfl
    | succ i => simpa [updAt] using ih i (by simpa using h)

theorem updAt_getD_ne {α : Type} (l : List α) {i j : Nat} (f : α → α) (d : α) (h : j ≠ i) :
    (updAt l i f).getD j d = l.getD j d := by
  induction l generalizing i j with
  | nil => rfl
  | cons a l ih =>
    cases i <;> cases j
    · exact absurd rfl h
    · rfl
    · rfl
    · rename_i i j
      simpa [updAt] using ih (i := i) (j := j) (fun e => h (by rw [e]))

/-! ### The register file -/

theorem rising_put {n a : Nat} (l : Regs) (w : Word) (h : Regs.rising n l = true) (ha : n ≤ a) : Regs.rising n (l.put a w) = true := by
  induction l generalizing n with
  | nil => simp [Regs.put, Regs.rising, ha]
  | cons x l ih =>
    obtain ⟨c, v⟩ := x
    simp only [Regs.rising, Bool.and_eq_true, decide_eq_true_eq] at h
    simp only [Regs.put]
    split
    · rename_i hc
      simp [Regs.rising, ha, h.2, Nat.succ_le_of_lt hc]
    · split
      · rename_i e
        subst e
        simp [Regs.rising, h.2, ha]
      · simp [Regs.rising, h.1, ih h.2 (by omega)]

theorem rising_mono {n m : Nat} (l : Regs) (h : Regs.rising n l = true) (hm : m ≤ n) : Regs.rising m l = true := by
  cases l with
  | nil => rfl
  | cons x l =>
    simp only [Regs.rising, Bool.and_eq_true, decide_eq_true_eq] at h ⊢
    exact ⟨by omega, h.2⟩

theorem rising_drop {n : Nat} (l : Regs) (a : Nat) (h : Regs.rising n l = true) : Regs.rising n (l.drop a) = true := by
  induction l generalizing n with
  | nil => rfl
  | cons x l ih =>
    obtain ⟨c, v⟩ := x
    simp only [Regs.rising, Bool.and_eq_true, decide_eq_true_eq] at h
    simp only [Regs.drop]
    split
    · exact rising_mono l h.2 (by omega)
    · simp [Regs.rising, h.1, ih h.2]

theorem find_below {n a : Nat} (l : Regs) (h : Regs.rising n l = true) (ha : a < n) : l.find? a = none := by
  induction l generalizing n with
  | nil => rfl
  | cons x l ih =>
    obtain ⟨c, v⟩ := x
    simp only [Regs.rising, Bool.and_eq_true, decide_eq_true_eq] at h
    have hc : a ≠ c := by omega
    simp [Regs.find?, hc, ih h.2 (by omega)]

theorem find_drop {n : Nat} (l : Regs) (a : Nat) (h : Regs.rising n l = true) : (l.drop a).find? a = none := by
  induction l generalizing n with
  | nil => rfl
  | cons x l ih =>
    obtain ⟨c, v⟩ := x
    simp only [Regs.rising, Bool.and_eq_true, decide_eq_true_eq] at h
    simp only [Regs.drop]
    split
    · rename_i e
      exact find_below l h.2 (by omega)
    · rename_i e
      simp [Regs.find?, e, ih h.2]

theorem mem_put (l : Regs) {a : Nat} {w : Word} {x : Nat × Word} (h : x ∈ l.put a w) : x = (a, w) ∨ x ∈ l := by
  induction l with
  | nil => simpa [Regs.put] using h
  | cons y l ih =>
    obtain ⟨c, v⟩ := y
    simp only [Regs.put] at h
    split at h
    · simpa using h
    · split at h
      · rcases List.mem_cons.1 h with h | h
        · exact .inl h
        · exact .inr (List.mem_cons_of_mem _ h)
      · rcases List.mem_cons.1 h with h | h
        · exact .inr (by simp [h])
        · exact (ih h).imp id fun h => List.mem_cons_of_mem _ h

theorem mem_drop (l : Regs) {a : Nat} {x : Nat × Word} (h : x ∈ l.drop a) : x ∈ l := by
  induction l with
  | nil => simp [Regs.drop] at h
  | cons y l ih =>
    obtain ⟨c, v⟩ := y
    simp only [Regs.drop] at h
    split at h
    · exact List.mem_cons_of_mem _ h
    · rcases List.mem_cons.1 h with h | h
      · simp [h]
      · exact List.mem_cons_of_mem _ (ih h)

/-- Fitting a word twice changes nothing more. -/
theorem regFit_regFit (a : Nat) (w : Word) : regFit a (regFit a w) = regFit a w := by
  unfold regFit
  ext i
  simp only [BitVec.getElem_or, BitVec.getElem_and, BitVec.getElem_not]
  cases w[i] <;> cases (regImpl a)[i] <;> cases (regReset a)[i] <;> rfl

/-- Every store keeps the register file's canonical form. -/
theorem wf_set (l : Regs) (a : Nat) (w : Word) (h : l.wf = true) : (l.set a w).wf = true := by
  simp only [Regs.wf, Bool.and_eq_true, List.all_eq_true] at h
  unfold Regs.set
  split
  · simpa [Regs.wf] using h
  · rename_i x hx
    split
    · simp only [Regs.wf, Bool.and_eq_true, List.all_eq_true]
      exact ⟨rising_drop l a h.1, fun y hy => h.2 y (mem_drop l hy)⟩
    · rename_i hn
      simp only [Regs.wf, Bool.and_eq_true, List.all_eq_true]
      refine ⟨rising_put l _ h.1 (Nat.zero_le a), fun y hy => ?_⟩
      rcases mem_put l hy with rfl | hy
      · simp [hx, regFit_regFit, hn]
      · exact h.2 y hy

/-- A register reads as the word stored in it, fitted to its bits. -/
theorem get_set_same (l : Regs) {a : Nat} (w : Word) (h : l.wf = true) (ha : (rowOf a).isSome = true) :
    (l.set a w).get a = regFit a w := by
  simp only [Regs.wf, Bool.and_eq_true] at h
  unfold Regs.set
  split
  · rename_i e
    simp [e] at ha
  · split
    · rename_i e
      simp [Regs.get, find_drop l a h.1, e]
    · simp [Regs.get, find_put]

/-! ### From an operation to the next state -/

theorem onBoard_gives {m : Op Unit} {s : State} {b : Block} (h : Gives m s.dev () b) : onBoard m s = .next { s with dev := b } := by
  unfold onBoard
  rw [runOp_gives h]

theorem onDev_gives {m : Op Unit} {s : State} {b : Block} (hs : s.dev.u.pwr.stopped = false) (h : Gives m s.dev () b) :
    onDev m s = .next { s with dev := b } := by
  unfold onDev
  rw [hs]
  exact onBoard_gives h

theorem onLive_gives {m : Op Unit} {s : State} {b : Block} (hs : s.dev.u.pwr.stopped = false) (hr : s.dev.u.pwr.resetNLow = false)
    (h : Gives m s.dev () b) : onLive m s = .next { s with dev := b } := by
  unfold onLive
  rw [hr]
  exact onDev_gives hs h

/-- An operation never touches the queue. -/
theorem onBoard_pending {m : Op Unit} {s t : State} (h : onBoard m s = .next t) : t.pending = s.pending := by
  unfold onBoard at h
  split at h
  · cases h
    rfl
  · cases h

theorem onDev_pending {m : Op Unit} {s t : State} (h : onDev m s = .next t) : t.pending = s.pending := by
  unfold onDev at h
  split at h
  · cases h
    rfl
  · exact onBoard_pending h

theorem onLive_pending {m : Op Unit} {s t : State} (h : onLive m s = .next t) : t.pending = s.pending := by
  unfold onLive at h
  split at h
  · cases h
    rfl
  · exact onDev_pending h

end Sys2Proof.Machine
end

