-- ==== Sys2Proof/Laws/Uart.lean ====
section
/-!
SUPPORT. Laws/Uart.lean: the receiver of the service port (R590) takes exactly the bytes that a line carries.
-/
namespace Sys2Proof.Machine

/-- A stretch of line, and what follows it. -/
theorem rxRun_append (r : UartRx) (l m : List Bool) :
    rxRun r (l ++ m) = ((rxRun (rxRun r l).1 m).1, (rxRun r l).2.map (fun x => (x.1, x.2 + m.length)) ++ (rxRun (rxRun r l).1 m).2) := by
  induction l generalizing r with
  | nil => simp [rxRun]
  | cons x l ih =>
    simp only [List.cons_append, rxRun, ih, List.length_append]
    split <;> simp

theorem rxRun_start (k : Nat) :
    rxRun { idle := k } (List.replicate 16 false) = ({ n := some 15, idle := 0 }, [(.start (decide (16 ≤ k)), 15)]) := rfl

theorem rxRun_bit {j : Nat} (h : j < 8) (x : Bool) (b : List Bool) :
    rxRun { n := some (16 * j + 15), bits := b, idle := 0 } (List.replicate 16 x) = ({ n := some (16 * (j + 1) + 15), bits := b ++ [x], idle := 0 }, []) := by
  interval_cases j <;> rfl

theorem rxRun_stop (b : List Bool) :
    rxRun { n := some (16 * (7 + 1) + 15), bits := b, idle := 0 } (List.replicate 16 true) = ({ idle := 0 }, [(.byte (bitsByte b), 7)]) := rfl

theorem bitsByte_testBit (x : Byte) : bitsByte ((List.range 8).map fun k => x.toNat.testBit k) = x := by
  revert x; decide

/-- One byte: its start bit, and the byte. -/
theorem rxRun_byte (x : Byte) (k : Nat) :
    rxRun { idle := k } (uartLine [x]) = ({ idle := 0 }, [(.start (decide (16 ≤ k)), 159), (.byte x, 7)]) := by
  have h := bitsByte_testBit x
  simp only [List.range, List.range.loop, List.map_cons, List.map_nil] at h
  simp only [uartLine, List.range, List.range.loop, List.flatMap_cons, List.flatMap_nil, List.append_nil, List.append_assoc, rxRun_append, rxRun_start,
    rxRun_bit (j := 0) (by decide), rxRun_bit (j := 1) (by decide), rxRun_bit (j := 2) (by decide), rxRun_bit (j := 3) (by decide),
    rxRun_bit (j := 4) (by decide), rxRun_bit (j := 5) (by decide), rxRun_bit (j := 6) (by decide), rxRun_bit (j := 7) (by decide), rxRun_stop]
  simp [h, -Nat.testBit_zero]

/-- A byte and what follows it. -/
theorem rxRun_cons (x : Byte) (l : List Byte) (k : Nat) :
    rxRun { idle := k } (uartLine (x :: l)) = ((rxRun { idle := 0 } (uartLine l)).1,
      (.start (decide (16 ≤ k)), 159 + (uartLine l).length) :: (.byte x, 7 + (uartLine l).length) :: (rxRun { idle := 0 } (uartLine l)).2) := by
  have e : uartLine (x :: l) = uartLine [x] ++ uartLine l := by simp only [uartLine, List.flatMap_cons, List.flatMap_nil, List.append_nil]
  rw [e, rxRun_append, rxRun_byte]
  rfl

end Sys2Proof.Machine
end

