-- ==== Sys2Proof/Tests/Slice0.lean ====
section
/-!
SUPPORT. Tests/Slice0.lean: tests: ill-formed commands that WellFormed refuses, no word that decodes, and for each clause of the
obligations with hypotheses a state and operands that meet them together.
-/
namespace Sys2Proof.Machine

set_option Elab.async false

/-- A state with a register field set. -/
def State.setF (s : State) (f : RF) (v : Nat) : State := { s with dev := { s.dev with regs := s.dev.regs.set f.reg (f.put (s.dev.regs.get f.reg) v) } }

/-- A state with a register set. -/
def State.setR (s : State) (a : Nat) (w : Word) : State := { s with dev := { s.dev with regs := s.dev.regs.set a w } }

/-- A state with the units' data changed. -/
def State.setU (s : State) (f : Units → Units) : State := { s with dev := { s.dev with u := f s.dev.u } }

/-- A state at an elapsed time. -/
def State.setT (s : State) (t : Nat) : State := s.setU fun u => { u with elapsed := t }

/-- Numbers that a test takes at will. -/
def someNum (k : Nat) : Nat := 7919 * k + 12345

/-- A state whose host port carries frames, with every core up, four closed sessions and empty pools. -/
def linked (s : State) : State :=
  let s := (((s.setR R.CMD_IP 0xC0A80064).setF F.CMD_PFX_PFX 24).setF (domField (128 + s.fld (F.NET_LSTAT_ACTIVE 0))) 1).setR R.SYS_CORESTAT 0x3F
  s.setU fun u => { u with net := { u.net with links := setAt u.net.links 0 {} }, pwr := { u.pwr with loss := none }, pool := {}, cmd := { u.cmd with early := [], sessions := [{}, {}, {}, {}] } }

/-- A packet header of session 77 with class word `c`. -/
def someHdr (c : Nat) : Hdr := ⟨0xC0A80003, 5001, 77, 905, c + 9, false⟩

/-- As `linked`, with session record 1 as given and fit for `someHdr`. -/
def hostState (s : State) (z : Session) : State :=
  (linked s).setU fun u => { u with cmd := { u.cmd with sessions := setAt u.cmd.sessions 1 { z with ip := 0xC0A80003, port := 5001, hop := some 0xC0A80003, grant := 8, h := 900, txSeq := 7 } } }

theorem zeros_add (n m k : Nat) (h : n + m = k) : zeros n ++ zeros m = zeros k := by
  subst h
  simp [zeros]

theorem zeros_length (n : Nat) : (zeros n).length = n := by simp [zeros]

/-! ### Checks that pass: bytes after which the CRC register is 0, and zeros after them -/

theorem crc_zeros (n : Nat) : (zeros n).foldl crc32Byte 0 = 0 := by
  induction n with
  | zero => rfl
  | succ n ih =>
    have h : zeros (n + 1) = 0 :: zeros n := rfl
    rw [h, List.foldl_cons]
    exact ih

theorem crc_head (l : List Byte) (n : Nat) (h : l.foldl crc32Byte 0xFFFFFFFF = 0) : crc32 (l ++ zeros n) = 0xFFFFFFFF := by
  unfold crc32
  rw [List.foldl_append, h, crc_zeros]
  decide

theorem patch_field (l : List Byte) (n m : Nat) (c : List Byte) (h : c.length = 4) :
    patch (l ++ zeros n ++ c ++ zeros m) (l.length + n) (zeros 4) = l ++ zeros (n + 4 + m) := by
  have e1 : (l ++ zeros n ++ c ++ zeros m).take (l.length + n) = l ++ zeros n := by
    rw [List.append_assoc (l ++ zeros n)]
    exact List.take_left' (by simp [zeros])
  have e2 : (l ++ zeros n ++ c ++ zeros m).drop (l.length + n + (zeros 4).length) = zeros m :=
    List.drop_left' (by simp [zeros, h]; omega)
  unfold patch
  rw [e1, e2, List.append_assoc, List.append_assoc, zeros_add 4 m (4 + m) rfl, zeros_add n (4 + m) (n + 4 + m) (by omega)]

theorem leAt_field (l : List Byte) (n m : Nat) (c : List Byte) (h : c.length = 4) :
    leAt (l ++ zeros n ++ c ++ zeros m) (l.length + n) 4 = leNat c := by
  have e : (l ++ zeros n ++ c ++ zeros m).drop (l.length + n) = c ++ zeros m := by
    rw [List.append_assoc (l ++ zeros n)]
    exact List.drop_left' (by simp [zeros])
  unfold leAt slice
  rw [e, List.take_left' h]

theorem crc_met (l : List Byte) (n m o : Nat) (ho : l.length + n = o) (h : l.foldl crc32Byte 0xFFFFFFFF = 0) :
    crcOkAt (l ++ zeros n ++ [0xFF, 0xFF, 0xFF, 0xFF] ++ zeros m) o = true := by
  subst ho
  unfold crcOkAt
  rw [patch_field l n m _ rfl, leAt_field l n m _ rfl, crc_head l _ h]
  decide

theorem model_check_met : Model.check ([0, 0, 0, 0, 0xE3, 0x20, 0xBB, 0xDE] ++ zeros 500 ++ [0xFF, 0xFF, 0xFF, 0xFF]) = St.ok := by
  have h := crc_met [0, 0, 0, 0, 0xE3, 0x20, 0xBB, 0xDE] 500 0 0x1FC (by decide) (by decide +kernel)
  rw [show zeros 0 = [] from rfl, List.append_nil] at h
  have f : leAt ([0, 0, 0, 0, 0xE3, 0x20, 0xBB, 0xDE] ++ zeros 500 ++ [0xFF, 0xFF, 0xFF, 0xFF]) 0 2 = 0 := rfl
  unfold Model.check
  rw [h, f]
  decide

theorem cal_check_met :
    calCheck ([1, 0, 0, 0, 0x86, 0x47, 0x07, 0x66] ++ zeros 16 ++ [0xFF, 0xFF, 0xFF, 0xFF] ++ zeros 65132 ++ zeros 440) = St.ok := by
  have e (l : List Byte) : l ++ zeros 65132 ++ zeros 440 = l ++ zeros 65572 := by
    rw [List.append_assoc, zeros_add 65132 440 65572 (by decide)]
  rw [e]
  have h := crc_met [1, 0, 0, 0, 0x86, 0x47, 0x07, 0x66] 16 65572 0x18 (by decide) (by decide +kernel)
  have f : leAt ([1, 0, 0, 0, 0x86, 0x47, 0x07, 0x66] ++ zeros 16 ++ [0xFF, 0xFF, 0xFF, 0xFF] ++ zeros 65572) 0 2 = 1 := rfl
  have n : ([1, 0, 0, 0, 0x86, 0x47, 0x07, 0x66] ++ zeros 16 ++ [0xFF, 0xFF, 0xFF, 0xFF] ++ zeros 65572 : List Byte).length = 65600 := by
    rw [List.length_append, List.length_append, List.length_append, zeros_length, zeros_length]
    decide
  unfold calCheck
  rw [h, f, n]
  decide

/-! ### Ill-formed commands: one term for each check of WellFormed -/

/-- Operands that pass every check. -/
def okHdr : Hdr := ⟨1, 1, 1, 1, 1, false⟩
def okDwell : List Int := List.replicate 1024 0
def okStep : StepSense := ⟨14400, [], okDwell, [], [], [], []⟩
def okCal : CalStep := { ch := 1, code := 2, ref := 1, step := 3, sense := okDwell, drive := okDwell }
def okFrame : CanFrame := ⟨false, false, false, false, false, 1, 0, []⟩

theorem test_ill_formed_1 :
    ([(.registerWrite (.host 4) (1) (0)),
      (.railFault (8)),
      (.pllUnlock (6)),
      (.ccWatchdogExpiry (4)),
      (.memoryReadError (.word 1 (.ledgerParcel (2 ^ 32)))),
      (.memoryReadError (.word 1 (.ledgerLot 4096))),
      (.memoryReadError (.word 1 (.coreData 6))),
      (.memoryReadError (.word 1 (.coreCode 6))),
      (.memoryReadError (.word 1 (.bulkRead 4 0))),
      (.memoryReadError (.word 1 (.bulkRead 0 512))),
      (.memoryReadError (.word 1 (.reconEngine 2 0))),
      (.memoryReadError (.word 0 (.reconEngine 0 0))),
      (.memoryReadError (.word 73 (.reconEngine 0 0))),
      (.memoryReadError (.firmware 41 2)),
      (.memoryReadError (.firmware 0 1)),
      (.memoryReadError (.matrix 0)),
      (.encoderEdge 16 ⟨.both, false, 0⟩),
      (.encoderOpenLine (16))] : List Instr).all (fun i => !i.wf) = true := by
  decide +kernel

theorem test_ill_formed_2 :
    ([(.encoderIndex ⟨16, 0⟩),
      (.laneStall (16)),
      (.substStroke (16)),
      (.encLostTimeout (16)),
      (.encSnap (.host 4) (0)),
      (.alarmArm (.host 4) (1) (0)),
      (.alarmArm (.core) (512) (0)),
      (.alarmFallback (512)),
      (.mainsEdgeSelect (.host 4) (0)),
      (.burstStep ({ okStep with channels := [⟨256, [], okDwell, []⟩] })),
      (.burstStep ({ okStep with channels := [⟨1, [], [], []⟩] })),
      (.burstStep ({ okStep with channels := [⟨1, [(0, 8192)], okDwell, []⟩] })),
      (.burstStep ({ okStep with dwellAt := 14399 })),
      (.burstStep ({ okStep with drive := [] }))] : List Instr).all (fun i => !i.wf) = true := by
  decide +kernel

theorem test_ill_formed_3 :
    ([(.burstStep ({ okStep with guards := [(32, 0)] })),
      (.burstStep ({ okStep with syncErr := [2] })),
      (.burstStep ({ okStep with linkErr := [2] })),
      (.excitationStep ({ okStep with channels := [⟨256, [], okDwell, []⟩] })),
      (.excitationStep ({ okStep with channels := [⟨1, [], [], []⟩] })),
      (.excitationStep ({ okStep with channels := [⟨1, [(0, 8192)], okDwell, []⟩] })),
      (.excitationStep ({ okStep with dwellAt := 14399 })),
      (.excitationStep ({ okStep with drive := [] })),
      (.excitationStep ({ okStep with guards := [(32, 0)] })),
      (.excitationStep ({ okStep with syncErr := [2] })),
      (.excitationStep ({ okStep with linkErr := [2] })),
      (.tomoSingle (.host 4) (0)),
      (.tomoRunClear (.host 4) (0)),
      (.aftRtdataWrite (.host 4) (1) (0))] : List Instr).all (fun i => !i.wf) = true := by
  decide +kernel

theorem test_ill_formed_4 :
    ([(.aftRtdataWrite (.core) (2) (0)),
      (.calibrationSweepEnd [{ okCal with ch := 256 }] (0, 0)),
      (.calibrationSweepEnd [{ okCal with code := 4 }] (0, 0)),
      (.calibrationSweepEnd [{ okCal with ref := 3 }] (0, 0)),
      (.calibrationSweepEnd [{ okCal with step := 64 }] (0, 0)),
      (.calibrationSweepEnd [{ okCal with sense := [] }] (0, 0)),
      (.calibrationSweepEnd [{ okCal with drive := [] }] (0, 0)),
      (.recRunClear (.host 4) (0)),
      (.fieldReadLotWord (4) (1) (zeros 16)),
      (.fieldReadLotWord (1) (0) (zeros 16)),
      (.fieldReadLotWord (1) (63) (zeros 16)),
      (.fieldReadLotWord (1) (1) (zeros 15)),
      (.fieldWriteUserWord (4) (1) (zeros 16)),
      (.fieldWriteUserWord (1) (0) (zeros 16)),
      (.fieldWriteUserWord (1) (63) (zeros 16)),
      (.fieldWriteUserWord (1) (1) (zeros 15)),
      (.fieldAddMass (4) (1) (zeros 16))] : List Instr).all (fun i => !i.wf) = true := by
  decide +kernel

theorem test_ill_formed_5 :
    ([(.fieldAddMass (1) (0) (zeros 16)),
      (.fieldAddMass (1) (63) (zeros 16)),
      (.fieldAddMass (1) (1) (zeros 15)),
      (.fieldAddSample (4) (1) (zeros 16)),
      (.fieldAddSample (1) (0) (zeros 16)),
      (.fieldAddSample (1) (63) (zeros 16)),
      (.fieldAddSample (1) (1) (zeros 15)),
      (.fieldSetSampleLane (4) (1) (zeros 16)),
      (.fieldSetSampleLane (1) (0) (zeros 16)),
      (.fieldSetSampleLane (1) (63) (zeros 16)),
      (.fieldSetSampleLane (1) (1) (zeros 15)),
      (.fieldSetSamplePid (4) (1) (zeros 16))] : List Instr).all (fun i => !i.wf) = true := by
  decide +kernel

theorem test_ill_formed_6 :
    ([(.fieldSetSamplePid (1) (0) (zeros 16)),
      (.fieldSetSamplePid (1) (63) (zeros 16)),
      (.fieldSetSamplePid (1) (1) (zeros 15)),
      (.groupLatch (8)),
      (.strokeTrigger (8)),
      (.groupOutput (8)),
      (.injectionStart (.host 4) (1) (0)),
      (.injectionStart (.core) (4) (0)),
      (.injectionStop (.host 4) (1) (0)),
      (.injectionStop (.core) (4) (0)),
      (.traceArm (.host 4) (0)),
      (.traceForce (.host 4) (0))] : List Instr).all (fun i => !i.wf) = true := by
  decide +kernel

theorem test_ill_formed_7 :
    ([(.traceStop (.host 4) (0)),
      (.ftableDataWrite (.host 4) (0)),
      (.valveBankPeriod (4)),
      (.valveReload (32) (⟨0, 0⟩)),
      (.boostEnd (32) (1)),
      (.valveCmdOn (.host 4) (1) (0)),
      (.valveCmdOn (.core) (32) (0)),
      (.valveClearFault (.host 4) (1) (0)),
      (.valveClearFault (.core) (32) (0)),
      (.closingAverageEnd (32) (1)),
      (.closingWindowEnd (32)),
      (.coilResMeasure (32) (1) (1))] : List Instr).all (fun i => !i.wf) = true := by
  decide +kernel

theorem test_ill_formed_8 :
    ([(.valveShortTrip (32) (1) (1)),
      (.valveShortTrip (1) (2) (1)),
      (.vcoilFault (4) (1)),
      (.vcoilReturn (4) (1)),
      (.valveEnableClear (.host 4) (0)),
      (.valveEnableSet (.host 4) (0)),
      (.fanReload (8) (⟨0, 0⟩)),
      (.tachEdge (8)),
      (.stretchEnd (8)),
      (.fanShortTrip (8) (1)),
      (.fanOvercurTimeout (8) (1))] : List Instr).all (fun i => !i.wf) = true := by
  decide +kernel

theorem test_ill_formed_9 :
    ([(.fanClearFault (.host 4) (1) (0)),
      (.fanClearFault (.core) (8) (0)),
      (.fanFreqChange (.host 4) (0)),
      (.fieldPolarityReverse (8)),
      (.fieldMeasurementEnd (8) (⟨0, 0, 0, 0, 0, 0, false⟩)),
      (.loopOvercurrent (224)),
      (.recoveryDue (224)),
      (.sinePassRequest (.host 4) (0)),
      (.affRunClear (.host 4) (0)),
      (.modeRequest (.host 4) (0)),
      (.holdEntry (16)),
      (.arpRequest (2 ^ 32) (1))] : List Instr).all (fun i => !i.wf) = true := by
  decide +kernel

theorem test_ill_formed_10 :
    ([(.arpRequest (1) (2 ^ 48)),
      (.icmpEcho (2 ^ 32) ([])),
      (.datagramDiscard (.packet (2 ^ 32) 0 0 0)),
      (.datagramDiscard (.packet 0 65536 0 0)),
      (.datagramDiscard (.packet 0 0 65536 0)),
      (.datagramDiscard (.packet 0 0 0 (2 ^ 32))),
      (.ipApply (.host 4) (0)),
      (.ipSave (.host 4) (0)),
      (.openControl (⟨2 ^ 32, 1, 1, 1, 1, false⟩) ([])),
      (.openControl (okHdr) (zeros 1457)),
      (.prove (⟨2 ^ 32, 1, 1, 1, 1, false⟩) ([])),
      (.prove (okHdr) (zeros 1457))] : List Instr).all (fun i => !i.wf) = true := by
  decide +kernel

theorem test_ill_formed_11 :
    ([(.openObserver (⟨2 ^ 32, 1, 1, 1, 1, false⟩) ([])),
      (.openObserver (okHdr) (zeros 1457)),
      (.close (⟨2 ^ 32, 1, 1, 1, 1, false⟩) ([])),
      (.close (okHdr) (zeros 1457)),
      (.ping (⟨2 ^ 32, 1, 1, 1, 1, false⟩) ([])),
      (.ping (⟨1, 65536, 1, 1, 1, false⟩) ([])),
      (.ping (⟨1, 1, 65536, 1, 1, false⟩) ([])),
      (.ping (⟨1, 1, 1, 2 ^ 32, 1, false⟩) ([])),
      (.ping (⟨1, 1, 1, 1, 65536, false⟩) ([])),
      (.ping (okHdr) (zeros 1457)),
      (.revoke (⟨2 ^ 32, 1, 1, 1, 1, false⟩) ([])),
      (.revoke (okHdr) (zeros 1457))] : List Instr).all (fun i => !i.wf) = true := by
  decide +kernel

theorem test_ill_formed_12 :
    ([(.evmask (⟨2 ^ 32, 1, 1, 1, 1, false⟩) ([])),
      (.evmask (okHdr) (zeros 1457)),
      (.pendingSessionExpiry (4)),
      (.sessionIdleExpiry (4)),
      (.keyLockoutEnd (8)),
      (.keyDataWrite (.host 4) (0)),
      (.keyLoad (.host 4) (0)),
      (.keyErase (.host 4) (0)),
      (.heldCompletionExpiry (4) (1)),
      (.heldCompletionExpiry (1) (512)),
      (.bulkdata (⟨2 ^ 32, 1, 1, 1, 1, false⟩) (1) (true) ([])),
      (.bulkdata (okHdr) (1) (true) (zeros 1457))] : List Instr).all (fun i => !i.wf) = true := by
  decide +kernel

theorem test_ill_formed_13 :
    ([(.bulkwin (⟨2 ^ 32, 1, 1, 1, 1, false⟩) (1) (1)),
      (.bulkResendTimeout (4) (1)),
      (.bulkResendTimeout (1) (512)),
      (.bulkTimeout (4) (1)),
      (.bulkTimeout (1) (512)),
      (.getInfo (⟨2 ^ 32, 1, 1, 1, 1, false⟩) ([])),
      (.getInfo (okHdr) (zeros 1457)),
      (.modeReq (⟨2 ^ 32, 1, 1, 1, 1, false⟩) ([])),
      (.modeReq (okHdr) (zeros 1457)),
      (.reset (⟨2 ^ 32, 1, 1, 1, 1, false⟩) ([])),
      (.reset (okHdr) (zeros 1457)),
      (.read (⟨2 ^ 32, 1, 1, 1, 1, false⟩) ([]))] : List Instr).all (fun i => !i.wf) = true := by
  decide +kernel

theorem test_ill_formed_14 :
    ([(.read (okHdr) (zeros 1457)),
      (.write (⟨2 ^ 32, 1, 1, 1, 1, false⟩) ([])),
      (.write (okHdr) (zeros 1457)),
      (.readBlock (⟨2 ^ 32, 1, 1, 1, 1, false⟩) ([]) ([])),
      (.readBlock (okHdr) (zeros 1457) ([])),
      (.readBlock (okHdr) ([]) ([.request 4 1 (zeros 16)])),
      (.writeBlock (⟨2 ^ 32, 1, 1, 1, 1, false⟩) ([])),
      (.writeBlock (okHdr) (zeros 1457)),
      (.readList (⟨2 ^ 32, 1, 1, 1, 1, false⟩) ([])),
      (.readList (okHdr) (zeros 1457)),
      (.snapshot (⟨2 ^ 32, 1, 1, 1, 1, false⟩) ([])),
      (.snapshot (okHdr) (zeros 1457))] : List Instr).all (fun i => !i.wf) = true := by
  decide +kernel

theorem test_ill_formed_15 :
    ([(.timeSet (⟨2 ^ 32, 1, 1, 1, 1, false⟩) ([])),
      (.timeSet (okHdr) (zeros 1457)),
      (.alarmSet (⟨2 ^ 32, 1, 1, 1, 1, false⟩) ([])),
      (.alarmSet (okHdr) (zeros 1457)),
      (.alarmClear (⟨2 ^ 32, 1, 1, 1, 1, false⟩) ([])),
      (.alarmClear (okHdr) (zeros 1457)),
      (.geomLoad (⟨2 ^ 32, 1, 1, 1, 1, false⟩) ([])),
      (.geomLoad (okHdr) (zeros 1457)),
      (.geomRead (⟨2 ^ 32, 1, 1, 1, 1, false⟩) ([])),
      (.geomRead (okHdr) (zeros 1457)),
      (.calSweep (⟨2 ^ 32, 1, 1, 1, 1, false⟩) ([])),
      (.calSweep (okHdr) (zeros 1457))] : List Instr).all (fun i => !i.wf) = true := by
  decide +kernel

theorem test_ill_formed_16 :
    ([(.calLoad (⟨2 ^ 32, 1, 1, 1, 1, false⟩) ([])),
      (.calLoad (okHdr) (zeros 1457)),
      (.calRead (⟨2 ^ 32, 1, 1, 1, 1, false⟩) ([])),
      (.calRead (okHdr) (zeros 1457)),
      (.rangeSave (⟨2 ^ 32, 1, 1, 1, 1, false⟩) ([])),
      (.rangeSave (okHdr) (zeros 1457)),
      (.rangeRead (⟨2 ^ 32, 1, 1, 1, 1, false⟩) ([])),
      (.rangeRead (okHdr) (zeros 1457)),
      (.frameRead (⟨2 ^ 32, 1, 1, 1, 1, false⟩) ([])),
      (.frameRead (okHdr) (zeros 1457)),
      (.matLoad (⟨2 ^ 32, 1, 1, 1, 1, false⟩) ([])),
      (.matLoad (okHdr) (zeros 1457))] : List Instr).all (fun i => !i.wf) = true := by
  decide +kernel

theorem test_ill_formed_17 :
    ([(.matInfo (⟨2 ^ 32, 1, 1, 1, 1, false⟩) ([])),
      (.matInfo (okHdr) (zeros 1457)),
      (.modelLoad (⟨2 ^ 32, 1, 1, 1, 1, false⟩) ([])),
      (.modelLoad (okHdr) (zeros 1457)),
      (.modelRead (⟨2 ^ 32, 1, 1, 1, 1, false⟩) ([])),
      (.modelRead (okHdr) (zeros 1457)),
      (.refLoad (⟨2 ^ 32, 1, 1, 1, 1, false⟩) ([])),
      (.refLoad (okHdr) (zeros 1457)),
      (.refRead (⟨2 ^ 32, 1, 1, 1, 1, false⟩) ([])),
      (.refRead (okHdr) (zeros 1457)),
      (.captureStart (⟨2 ^ 32, 1, 1, 1, 1, false⟩) ([])),
      (.captureStart (okHdr) (zeros 1457))] : List Instr).all (fun i => !i.wf) = true := by
  decide +kernel

theorem test_ill_formed_18 :
    ([(.captureEnd (⟨2 ^ 32, 1, 1, 1, 1, false⟩) ([])),
      (.captureEnd (okHdr) (zeros 1457)),
      (.anchor (⟨2 ^ 32, 1, 1, 1, 1, false⟩) ([])),
      (.anchor (okHdr) (zeros 1457)),
      (.mapSummary (⟨2 ^ 32, 1, 1, 1, 1, false⟩) ([])),
      (.mapSummary (okHdr) (zeros 1457)),
      (.mapRead (⟨2 ^ 32, 1, 1, 1, 1, false⟩) ([])),
      (.mapRead (okHdr) (zeros 1457)),
      (.lotOpen (⟨2 ^ 32, 1, 1, 1, 1, false⟩) ([])),
      (.lotOpen (okHdr) (zeros 1457)),
      (.lotClose (⟨2 ^ 32, 1, 1, 1, 1, false⟩) ([])),
      (.lotClose (okHdr) (zeros 1457))] : List Instr).all (fun i => !i.wf) = true := by
  decide +kernel

theorem test_ill_formed_19 :
    ([(.lotRead (⟨2 ^ 32, 1, 1, 1, 1, false⟩) ([])),
      (.lotRead (okHdr) (zeros 1457)),
      (.lotWrite (⟨2 ^ 32, 1, 1, 1, 1, false⟩) ([])),
      (.lotWrite (okHdr) (zeros 1457)),
      (.parcelRead (⟨2 ^ 32, 1, 1, 1, 1, false⟩) ([])),
      (.parcelRead (okHdr) (zeros 1457)),
      (.parcelWrite (⟨2 ^ 32, 1, 1, 1, 1, false⟩) ([])),
      (.parcelWrite (okHdr) (zeros 1457)),
      (.lock (⟨2 ^ 32, 1, 1, 1, 1, false⟩) ([])),
      (.lock (okHdr) (zeros 1457)),
      (.unlock (⟨2 ^ 32, 1, 1, 1, 1, false⟩) ([])),
      (.unlock (okHdr) (zeros 1457))] : List Instr).all (fun i => !i.wf) = true := by
  decide +kernel

theorem test_ill_formed_20 :
    ([(.parcelDump (⟨2 ^ 32, 1, 1, 1, 1, false⟩) ([])),
      (.parcelDump (okHdr) (zeros 1457)),
      (.archRead (⟨2 ^ 32, 1, 1, 1, 1, false⟩) ([])),
      (.archRead (okHdr) (zeros 1457)),
      (.planStatus (⟨2 ^ 32, 1, 1, 1, 1, false⟩) ([])),
      (.planStatus (okHdr) (zeros 1457)),
      (.traceInfo (⟨2 ^ 32, 1, 1, 1, 1, false⟩) ([])),
      (.traceInfo (okHdr) (zeros 1457)),
      (.traceRead (⟨2 ^ 32, 1, 1, 1, 1, false⟩) ([])),
      (.traceRead (okHdr) (zeros 1457)),
      (.ftableLoad (⟨2 ^ 32, 1, 1, 1, 1, false⟩) ([])),
      (.ftableLoad (okHdr) (zeros 1457))] : List Instr).all (fun i => !i.wf) = true := by
  decide +kernel

theorem test_ill_formed_21 :
    ([(.ftableRead (⟨2 ^ 32, 1, 1, 1, 1, false⟩) ([])),
      (.ftableRead (okHdr) (zeros 1457)),
      (.driveStatus (⟨2 ^ 32, 1, 1, 1, 1, false⟩) ([])),
      (.driveStatus (okHdr) (zeros 1457)),
      (.faultClear (⟨2 ^ 32, 1, 1, 1, 1, false⟩) ([])),
      (.faultClear (okHdr) (zeros 1457)),
      (.inputRead (⟨2 ^ 32, 1, 1, 1, 1, false⟩) ([])),
      (.inputRead (okHdr) (zeros 1457)),
      (.linLoad (⟨2 ^ 32, 1, 1, 1, 1, false⟩) ([])),
      (.linLoad (okHdr) (zeros 1457)),
      (.linRead (⟨2 ^ 32, 1, 1, 1, 1, false⟩) ([])),
      (.linRead (okHdr) (zeros 1457))] : List Instr).all (fun i => !i.wf) = true := by
  decide +kernel

theorem test_ill_formed_22 :
    ([(.sinePass (⟨2 ^ 32, 1, 1, 1, 1, false⟩) ([])),
      (.sinePass (okHdr) (zeros 1457)),
      (.aerBin (⟨2 ^ 32, 1, 1, 1, 1, false⟩) ([])),
      (.aerBin (okHdr) (zeros 1457)),
      (.aerStatus (⟨2 ^ 32, 1, 1, 1, 1, false⟩) ([])),
      (.aerStatus (okHdr) (zeros 1457)),
      (.busStatus (⟨2 ^ 32, 1, 1, 1, 1, false⟩) ([])),
      (.busStatus (okHdr) (zeros 1457)),
      (.busRecover (⟨2 ^ 32, 1, 1, 1, 1, false⟩) ([])),
      (.busRecover (okHdr) (zeros 1457)),
      (.objWrite (⟨2 ^ 32, 1, 1, 1, 1, false⟩) ([])),
      (.objWrite (okHdr) (zeros 1457))] : List Instr).all (fun i => !i.wf) = true := by
  decide +kernel

theorem test_ill_formed_23 :
    ([(.verdict (⟨2 ^ 32, 1, 1, 1, 1, false⟩) ([])),
      (.verdict (okHdr) (zeros 1457)),
      (.shuffleNow (⟨2 ^ 32, 1, 1, 1, 1, false⟩) ([])),
      (.shuffleNow (okHdr) (zeros 1457)),
      (.pathStatus (⟨2 ^ 32, 1, 1, 1, 1, false⟩) ([])),
      (.pathStatus (okHdr) (zeros 1457)),
      (.clusterStatus (⟨2 ^ 32, 1, 1, 1, 1, false⟩) ([])),
      (.clusterStatus (okHdr) (zeros 1457)),
      (.rejoin (⟨2 ^ 32, 1, 1, 1, 1, false⟩) ([])),
      (.rejoin (okHdr) (zeros 1457)),
      (.tempRead (⟨2 ^ 32, 1, 1, 1, 1, false⟩) ([])),
      (.tempRead (okHdr) (zeros 1457))] : List Instr).all (fun i => !i.wf) = true := by
  decide +kernel

theorem test_ill_formed_24 :
    ([(.throttleAck (⟨2 ^ 32, 1, 1, 1, 1, false⟩) ([])),
      (.throttleAck (okHdr) (zeros 1457)),
      (.fwLoad (⟨2 ^ 32, 1, 1, 1, 1, false⟩) ([])),
      (.fwLoad (okHdr) (zeros 1457)),
      (.bankState (⟨2 ^ 32, 1, 1, 1, 1, false⟩) ([])),
      (.bankState (okHdr) (zeros 1457)),
      (.bankSelect (⟨2 ^ 32, 1, 1, 1, 1, false⟩) ([])),
      (.bankSelect (okHdr) (zeros 1457)),
      (.poolStatus (⟨2 ^ 32, 1, 1, 1, 1, false⟩) ([])),
      (.poolStatus (okHdr) (zeros 1457)),
      (.safeStatus (⟨2 ^ 32, 1, 1, 1, 1, false⟩) ([])),
      (.safeStatus (okHdr) (zeros 1457))] : List Instr).all (fun i => !i.wf) = true := by
  decide +kernel

theorem test_ill_formed_25 :
    ([(.parityScrub ([2 ^ 21])),
      (.parityScrub ([2])),
      (.busEnable (.host 4) (1) (0)),
      (.busEnable (.core) (4) (0)),
      (.busIntegrated (4)),
      (.busDisable (.host 4) (1) (0)),
      (.busDisable (.core) (4) (0)),
      (.busCycleStart (4)),
      (.windowOpen (4) (1)),
      (.windowOpen (1) (32)),
      (.txAttemptStart (4)),
      (.txAttemptEnd (4) (.success {}))] : List Instr).all (fun i => !i.wf) = true := by
  decide +kernel

theorem test_ill_formed_26 :
    ([(.txAttemptEnd (1) (.lostArbitration 512)),
      (.txAttemptEnd (1) (.lostArbitration 33)),
      (.txAttemptEnd (1) (.error 3 0 0 {})),
      (.txAttemptEnd (1) (.error 7 4 1 {})),
      (.txAttemptEnd (1) (.error 5 6 0 {})),
      (.txAttemptEnd (1) (.error 6 4 1 {})),
      (.txAttemptEnd (1) (.error 3 4 0 {})),
      (.txAttemptEnd (1) (.error 4 1 8 {})),
      (.txAttemptEnd (1) (.error 3 1 7 ⟨[(4, 0)], 0, false⟩)),
      (.canFrameReceived (4) (okFrame)),
      (.canFrameReceived (1) ({ okFrame with id := 2 ^ 11 })),
      (.canFrameReceived (1) ({ okFrame with ext := true, id := 2 ^ 29 })),
      (.canFrameReceived (1) ({ okFrame with dlc := 16 })),
      (.canFrameReceived (1) ({ okFrame with data := zeros 9 })),
      (.canFrameReceived (1) ({ okFrame with fd := true, data := zeros 65 })),
      (.busRecoveryDone (4)),
      (.busRecoverWrite (.host 4) (1) (0))] : List Instr).all (fun i => !i.wf) = true := by
  decide +kernel

theorem test_ill_formed_27 :
    ([(.busRecoverWrite (.core) (4) (0)),
      (.rxStaleTimeout (256)),
      (.ledgerResponseSend (4)),
      (.ledgerReplyWindowEnd (4) (1)),
      (.ledgerReplyWindowEnd (1) (0)),
      (.ledgerReplyWindowEnd (1) (63)),
      (.pathImageSave (6)),
      (.switchoverStart (6)),
      (.switchoverGapEnd (6)),
      (.switchoverDone (6)),
      (.shuffleDue (6)),
      (.takebackDue (6))] : List Instr).all (fun i => !i.wf) = true := by
  decide +kernel

theorem test_ill_formed_28 :
    ([(.enumFrameReceive ({ next := 2, wall := 2 ^ 64, entries := [], formed := false, bytes := [] })),
      (.ringFrameReceive (⟨[], [0]⟩)),
      (.ringFrameReceive (⟨[], [9]⟩)),
      (.ringFrameReturn (⟨[], [0]⟩)),
      (.ringFrameReturn (⟨[], [9]⟩)),
      (.memberLost (0)),
      (.memberLost (9)),
      (.relayVerdictGo (.host 4) (0)),
      (.replyAgeExpiry (4)),
      (.thermalDemand (.host 4) (0)),
      (.conversionEnd ([])),
      (.clockMeasure (.host 4) (0))] : List Instr).all (fun i => !i.wf) = true := by
  decide +kernel

theorem test_ill_formed_29 :
    ([(.arpReply (2 ^ 32) (1)),
      (.arpReply (1) (2 ^ 48)),
      (.coreRestartComplete (6)),
      (.receiverError (4) (4) (1) ⟨1, 0⟩),
      (.receiverError (1) (3) (1) ⟨1, 0⟩),
      (.receiverError (1) (6) (4) ⟨0, 0⟩),
      (.receiverError (1) (7) (4) ⟨0, 0⟩),
      (.receiverError (1) (4) (8) ⟨1, 0⟩),
      (.receiverError (1) (4) (1) ⟨8, 0⟩),
      (.badOpcodeCommand (⟨2 ^ 32, 1, 1, 1, 1, false⟩) (1) ([])),
      (.badOpcodeCommand (okHdr) (65536) ([])),
      (.badOpcodeCommand (okHdr) (1) (zeros 1457)),
      (.pllUnlockShort (6))] : List Instr).all (fun i => !i.wf) = true := by
  decide +kernel

theorem test_well_formed_1 :
    ([(.registerWrite (.core) (1) (0)),
      (.powerOnReset (24000)),
      (.railFault (1)),
      (.pllUnlock (1)),
      (.resetNAssert),
      (.moduleWatchdogExpiry),
      (.commandReset),
      (.clusterReset),
      (.coresStart),
      (.ccWatchdogExpiry (1)),
      (.rtWatchdogExpiry (true)),
      (.memoryReadError (.word 2 (.reconEngine 0 0))),
      (.encoderEdge 1 ⟨.both, false, 0⟩),
      (.encoderOpenLine (1)),
      (.encoderIndex ⟨1, 0⟩),
      (.laneStall (1)),
      (.substStroke (1)),
      (.encRateUpdate),
      (.encLostTimeout (1)),
      (.encSnap (.core) (0)),
      (.alarmArm (.core) (1) (0)),
      (.alarmService),
      (.alarmFallback (1)),
      (.mainsEdge ⟨true, 0⟩),
      (.mainsEdgeSelect (.core) (0)),
      (.mainsLost),
      (.mainsFreerunTick),
      (.burstStart),
      (.burstStep (okStep)),
      (.frameStart)] : List Instr).all Instr.wf = true := by
  decide +kernel

theorem test_well_formed_2 :
    ([(.excitationStep (okStep)),
      (.frameClose (0) (0)),
      (.frameRecordPublish),
      (.tomoSingle (.core) (0)),
      (.tomoRunClear (.core) (0)),
      (.aftRtdataWrite (.core) (1) (0)),
      (.calibrationSweepEnd [okCal] (0, 0)),
      (.reconDispatch),
      (.reconPublish),
      (.reconDeadline),
      (.recRunClear (.core) (0)),
      (.matrixCopyDone),
      (.captureAveraged),
      (.rollingStateSave),
      .ledgerRetireTick (),
      (.ledgerCheckpoint),
      (.lockLeaseExpiry (1)),
      (.plannerRun),
      (.fieldReadLotWord (1) (1) (zeros 16)),
      (.fieldWriteUserWord (1) (1) (zeros 16)),
      (.fieldAddMass (1) (1) (zeros 16)),
      (.fieldAddSample (1) (1) (zeros 16)),
      (.fieldSetSampleLane (1) (1) (zeros 16)),
      (.fieldSetSamplePid (1) (1) (zeros 16)),
      (.groupLatch (1)),
      (.strokeTrigger (1)),
      (.slotCompute),
      (.groupOutput (1)),
      (.injectionStart (.core) (1) (0)),
      (.injectionStop (.core) (1) (0))] : List Instr).all Instr.wf = true := by
  decide +kernel

theorem test_well_formed_3 :
    ([(.traceArm (.core) (0)),
      (.traceForce (.core) (0)),
      (.traceStop (.core) (0)),
      (.ftableDataWrite (.core) (0)),
      (.loopLoadUpdate),
      (.valveBankPeriod (1)),
      (.valveReload (1) (⟨0, 0⟩)),
      (.boostEnd (1) (1)),
      (.valveCmdOn (.core) (1) (0)),
      (.valveClearFault (.core) (1) (0)),
      (.closingAverageEnd (1) (1)),
      (.closingWindowEnd (1)),
      (.coilModelTick),
      (.coilResMeasure (1) (1) (1)),
      (.valveShortTrip (1) (1) (12000)),
      (.vcoilFault (1) (1)),
      (.vcoilReturn (1) (1)),
      (.valveEnableClear (.core) (0)),
      (.valveEnableSet (.core) (0)),
      (.fanReload (1) (⟨0, 0⟩)),
      (.tachEdge (1)),
      (.stretchEnd (1)),
      (.fanShortTrip (1) (1)),
      (.fanOvercurTimeout (1) (1)),
      (.fanClearFault (.core) (1) (0)),
      (.fanFreqChange (.core) (0)),
      (.scanCycleStart),
      (.fieldPolarityReverse (1)),
      (.fieldMeasurementEnd (1) (⟨0, 0, 0, 0, 0, 0, false⟩)),
      (.loopOvercurrent (1))] : List Instr).all Instr.wf = true := by
  decide +kernel

theorem test_well_formed_4 :
    ([(.recoveryDue (1)),
      (.sinePassRequest (.core) (0)),
      (.affRunClear (.core) (0)),
      (.modeRequest (.core) (0)),
      (.modeTransition),
      (.calibrationEnd),
      (.calibrationTimeout),
      (.holdEntry (1)),
      (.arpRequest (1) (1)),
      (.icmpEcho (1) ([])),
      (.datagramDiscard (.transport)),
      (.arpRefresh),
      (.ipApply (.core) (0)),
      (.ipSave (.core) (0)),
      (.openControl (okHdr) ([])),
      (.prove (okHdr) ([])),
      (.openObserver (okHdr) ([])),
      (.close (okHdr) ([])),
      (.ping (okHdr) ([])),
      (.revoke (okHdr) ([])),
      (.evmask (okHdr) ([])),
      (.pendingSessionExpiry (1)),
      (.sessionIdleExpiry (1)),
      (.keyLockoutEnd (1)),
      (.keyDataWrite (.core) (0)),
      (.keyLoad (.core) (0)),
      (.keyErase (.core) (0)),
      (.keyBufferTimeout),
      (.heldCompletionExpiry (1) (1)),
      (.bulkdata (okHdr) (1) (true) ([]))] : List Instr).all Instr.wf = true := by
  decide +kernel

theorem test_well_formed_5 :
    ([(.bulkwin (okHdr) (1) (1)),
      (.bulkResendTimeout (1) (1)),
      (.bulkTimeout (1) (1)),
      (.getInfo (okHdr) ([])),
      (.modeReq (okHdr) ([])),
      (.reset (okHdr) ([])),
      (.read (okHdr) ([])),
      (.write (okHdr) ([])),
      (.readBlock (okHdr) ([]) ([])),
      (.writeBlock (okHdr) ([])),
      (.readList (okHdr) ([])),
      (.snapshot (okHdr) ([])),
      (.timeSet (okHdr) ([])),
      (.alarmSet (okHdr) ([])),
      (.alarmClear (okHdr) ([])),
      (.geomLoad (okHdr) ([])),
      (.geomRead (okHdr) ([])),
      (.calSweep (okHdr) ([])),
      (.calLoad (okHdr) ([])),
      (.calRead (okHdr) ([])),
      (.rangeSave (okHdr) ([])),
      (.rangeRead (okHdr) ([])),
      (.frameRead (okHdr) ([])),
      (.matLoad (okHdr) ([])),
      (.matInfo (okHdr) ([])),
      (.modelLoad (okHdr) ([])),
      (.modelRead (okHdr) ([])),
      (.refLoad (okHdr) ([])),
      (.refRead (okHdr) ([])),
      (.captureStart (okHdr) ([]))] : List Instr).all Instr.wf = true := by
  decide +kernel

theorem test_well_formed_6 :
    ([(.captureEnd (okHdr) ([])),
      (.anchor (okHdr) ([])),
      (.mapSummary (okHdr) ([])),
      (.mapRead (okHdr) ([])),
      (.lotOpen (okHdr) ([])),
      (.lotClose (okHdr) ([])),
      (.lotRead (okHdr) ([])),
      (.lotWrite (okHdr) ([])),
      (.parcelRead (okHdr) ([])),
      (.parcelWrite (okHdr) ([])),
      (.lock (okHdr) ([])),
      (.unlock (okHdr) ([])),
      (.parcelDump (okHdr) ([])),
      (.archRead (okHdr) ([])),
      (.planStatus (okHdr) ([])),
      (.traceInfo (okHdr) ([])),
      (.traceRead (okHdr) ([])),
      (.ftableLoad (okHdr) ([])),
      (.ftableRead (okHdr) ([])),
      (.driveStatus (okHdr) ([])),
      (.faultClear (okHdr) ([])),
      (.inputRead (okHdr) ([])),
      (.linLoad (okHdr) ([])),
      (.linRead (okHdr) ([])),
      (.sinePass (okHdr) ([])),
      (.aerBin (okHdr) ([])),
      (.aerStatus (okHdr) ([])),
      (.busStatus (okHdr) ([])),
      (.busRecover (okHdr) ([])),
      (.objWrite (okHdr) ([]))] : List Instr).all Instr.wf = true := by
  decide +kernel

theorem test_well_formed_7 :
    ([(.verdict (okHdr) ([])),
      (.shuffleNow (okHdr) ([])),
      (.pathStatus (okHdr) ([])),
      (.clusterStatus (okHdr) ([])),
      (.rejoin (okHdr) ([])),
      (.tempRead (okHdr) ([])),
      (.throttleAck (okHdr) ([])),
      (.fwLoad (okHdr) ([])),
      (.bankState (okHdr) ([])),
      (.bankSelect (okHdr) ([])),
      (.poolStatus (okHdr) ([])),
      (.safeStatus (okHdr) ([])),
      (.parityScrub ([])),
      (.spiWrite ([]) (true) (1)),
      (.spiRead ([]) (true) (1)),
      (.safeHeartbeat (0)),
      (.safeHoldRequest (0)),
      (.heartbeatLapse),
      (.safeAliveTick),
      (.busEnable (.core) (1) (0)),
      (.busIntegrated (1)),
      (.busDisable (.core) (1) (0)),
      (.busCycleStart (1)),
      (.windowOpen (1) (1)),
      (.txAttemptStart (1)),
      (.txAttemptEnd (1) (.success {})),
      (.canFrameReceived (1) (okFrame)),
      (.busRecoveryDone (1)),
      (.busRecoverWrite (.core) (1) (0)),
      (.rxStaleTimeout (1))] : List Instr).all Instr.wf = true := by
  decide +kernel

theorem test_well_formed_8 :
    ([(.ledgerResponseSend (1)),
      (.ledgerReplyWindowEnd (1) (1)),
      (.pathImageSave (1)),
      (.switchoverStart (1)),
      (.switchoverGapEnd (1)),
      (.switchoverDone (1)),
      (.shuffleDue (1)),
      (.takebackDue (1)),
      (.enumFrameSend),
      (.enumFrameReceive ({ next := 2, wall := 0, entries := [], formed := false, bytes := [] })),
      (.clusterFormed),
      (.ringCycleStart),
      (.ringFrameReceive (⟨[], []⟩)),
      (.ringFrameReturn (⟨[], []⟩)),
      (.memberLost (1)),
      (.selfLost),
      (.relayVerdictGo (.core) (0)),
      (.replyAgeExpiry (1)),
      (.thermalDemand (.core) (0)),
      (.thermalWatchdogDemand),
      (.throttleEventDemand),
      (.conversionEnd (List.replicate 16 ⟨2500, 600000⟩)),
      (.graceExpiry),
      (.svcRead ([])),
      (.svcWrite ([])),
      (.svcTimeout),
      (.svcFramingError),
      (.bypass),
      (.idcode),
      (.samplePreload ([]))] : List Instr).all Instr.wf = true := by
  decide +kernel

theorem test_well_formed_9 :
    ([(.extest),
      (.clamp),
      (.jtagTestReset (true)),
      (.referenceLoss),
      (.clockMeasure (.core) (0)),
      (.clockMeasureDone (1)),
      (.commitReadbackDone (true)),
      (.powerLoss (1)),
      (.powerLossConfirm (1)),
      (.stateSaveSealed),
      (.holdupEmpty),
      (.chargeEnd (1)),
      (.holdupEstimateTick (1) (1)),
      (.holdupCompare),
      (.resetNRelease),
      (.arpReply (1) (1)),
      (.coreRestartComplete (1)),
      (.receiverError (1) (4) (1) ⟨1, 0⟩),
      (.receiverError (1) (7) (4) ⟨1, 0⟩),
      (.receiverError (1) (3) (6) ⟨5, 2⟩),
      (.txAttemptEnd (1) (.error 6 4 0 ⟨[(3, 2), (5, 6)], 1, true⟩)),
      (.txAttemptEnd (1) (.lostArbitration 32)),
      (.badOpcodeCommand (okHdr) (1) ([])),
      (.pllUnlockShort (1)),
      (.vinBelowStop (1))] : List Instr).all Instr.wf = true := by
  decide +kernel

/-- No word spells a command. -/
theorem test_no_word : decodeTableWord 32 0x8001 = none := rfl

/-! ### Hypotheses that are met -/

/-- The hypotheses of clause `encStroke` hold together. -/
theorem test_met_encStroke :
    let b := State.reset
    let n := 9
    let s := b.setF (F.ENC_LSTAT_LOST n) 0
    let e : Edge := if 0 = 0 then .aLeads else .bLeads
    let fwd := decide (e = .aLeads ↔ s.fld (F.ENC_LCTL_DIR n) = 0)
    let c := true
    let m := 9
    let s := (s.setF (F.ENC_LCTL_FILT n) 3).setT 100
    let s := s.setU fun u => { u with enc := { u.enc with lanes := updAt u.enc.lanes n fun l => { l with edgeA := some 50, edgeB := some 50 } } }
    Live s ∧ Canon s ∧ n < 16 ∧ s.fld (F.ENC_LSTAT_LOST n) = 0 ∧ e ≠ .both ∧ ((fwd = true ↔ (e = .aLeads ↔ s.fld (F.ENC_LCTL_DIR n) = 0))) ∧ EdgeCounts s n c m ∧ n ∉ s.dev.u.pwr.encTied := by
  decide +kernel

/-- The hypotheses of clause `encAlarm` hold together. -/
theorem test_met_encAlarm :
    let b := State.reset
    let n := 9
    let s := b.setF (F.ENC_LSTAT_LOST n) 0
    let c := true
    let m := 9
    let s := (s.setF (F.ENC_LCTL_FILT n) 3).setT 100
    let s := s.setU fun u => { u with enc := { u.enc with lanes := updAt u.enc.lanes n fun l => { l with edgeA := some 50, edgeB := some 50 } } }
    let e : Edge := .bLeads
    let s := s.setF (F.ENC_LCTL_DIR n) 1
    let a := 300
    let s := (((s.setF (F.ENC_ACTL_ARM a) 1).setF (F.ENC_ACTL_SRC a) n).setF (F.ENC_ACMP0_CMP a) 1).setU fun u => { u with enc := { u.enc with armed := [(7, 1, 0), (a, 2, 0)] } }
    Live s ∧ Canon s ∧ n < 16 ∧ s.fld (F.ENC_LSTAT_LOST n) = 0 ∧ e ≠ .both ∧ (e = .aLeads ↔ s.fld (F.ENC_LCTL_DIR n) = 0) ∧ EdgeCounts s n c m ∧ n ∉ s.dev.u.pwr.encTied ∧ s.lead n = s.pos n ∧ s.pos n + 1 < 2 ^ 47 ∧ a < 512 ∧ (∃ x ∈ s.dev.u.enc.armed, x.1 = a) ∧ s.fld (F.ENC_ACTL_ARM a) = 1 ∧ s.fld (F.ENC_ACTL_SRC a) = n ∧ s.compareAt a = s.pos n + 1 := by
  decide +kernel

/-- The hypotheses of clause `encAlarmAhead` hold together. -/
theorem test_met_encAlarmAhead :
    let b := State.reset
    let n := 9
    let s := b.setF (F.ENC_LSTAT_LOST n) 0
    let c := true
    let m := 9
    let s := (s.setF (F.ENC_LCTL_FILT n) 3).setT 100
    let s := s.setU fun u => { u with enc := { u.enc with lanes := updAt u.enc.lanes n fun l => { l with edgeA := some 50, edgeB := some 50 } } }
    let e : Edge := .bLeads
    let s := s.setF (F.ENC_LCTL_DIR n) 1
    let a := 300
    let s := (((s.setF (F.ENC_ACTL_ARM a) 1).setF (F.ENC_ACTL_SRC a) n).setF (F.ENC_ACMP0_CMP a) 2).setU fun u => { u with enc := { u.enc with armed := [(7, 1, 0), (a, 2, 0)] } }
    Live s ∧ Canon s ∧ n < 16 ∧ s.fld (F.ENC_LSTAT_LOST n) = 0 ∧ e ≠ .both ∧ (e = .aLeads ↔ s.fld (F.ENC_LCTL_DIR n) = 0) ∧ EdgeCounts s n c m ∧ n ∉ s.dev.u.pwr.encTied ∧ s.lead n = s.pos n ∧ s.pos n + 1 < 2 ^ 47 ∧ a < 512 ∧ (∃ x ∈ s.dev.u.enc.armed, x.1 = a) ∧ s.fld (F.ENC_ACTL_ARM a) = 1 ∧ s.fld (F.ENC_ACTL_SRC a) = n ∧ s.pos n + 1 < s.compareAt a := by
  decide +kernel

/-- The hypotheses of clause `encBoth` hold together. -/
theorem test_met_encBoth :
    let b := State.reset
    let n := 9
    let s := b
    let c := true
    let m := s.fld (F.ENC_LCTL_FILT n)
    Live s ∧ Canon s ∧ n < 16 ∧ s.fld (F.ENC_LCTL_FILT n) ≤ m ∧ n ∉ s.dev.u.pwr.encTied := by
  decide +kernel

/-- The hypotheses of clause `encLostStroke` hold together. -/
theorem test_met_encLostStroke :
    let b := State.reset
    let n := 9
    let s := b.setF (F.ENC_LSTAT_LOST n) 1
    let e : Edge := if 0 = 0 then .aLeads else .bLeads
    let c := false
    let m := 0
    let s := (s.setF (F.ENC_LCTL_FILT n) 0).setU fun u => { u with enc := { u.enc with lanes := updAt u.enc.lanes n fun l => { l with edgeA := none, edgeB := none } } }
    Live s ∧ Canon s ∧ n < 16 ∧ s.fld (F.ENC_LSTAT_LOST n) = 1 ∧ e ≠ .both ∧ (s.dev.u.enc.lanes.getD n {}).resyncRun < 63 ∧ EdgeCounts s n c m := by
  decide +kernel

/-- The hypotheses of clause `encOpen` hold together. -/
theorem test_met_encOpen :
    let b := State.reset
    let n := 9
    let s := (b.setT 5000000).setF (F.ENC_LCTL_RUN n) 1
    Live s ∧ Canon s ∧ n < 16 ∧ n ∉ s.dev.u.pwr.encTied ∧ s.fld (F.ENC_LCTL_RUN n) = 1 ∧ (s.lane n).runSince + 1000000 ≤ s.dev.u.elapsed := by
  decide +kernel

/-- The hypotheses of clause `encOpenOff` hold together. -/
theorem test_met_encOpenOff :
    let b := State.reset
    let n := 15
    let s := b
    Live s ∧ s.fld (F.ENC_LCTL_RUN n) = 0 := by
  decide +kernel

/-- The hypotheses of clause `encOpenSoon` hold together. -/
theorem test_met_encOpenSoon :
    let n := 3
    let s := (State.reset.setT 7).setF (F.ENC_LCTL_RUN n) 1
    Live s ∧ s.dev.u.elapsed < (s.lane n).runSince + 1000000 := by
  decide +kernel

/-- The hypotheses of clause `lostTimeoutOnce` hold together. -/
theorem test_met_lostTimeoutOnce :
    let n := 11
    let s := State.reset.setU fun u => { u with enc := { u.enc with lanes := updAt u.enc.lanes n fun l => { l with lostAt := some 4, lostRaised := true } } }
    Live s ∧ (s.dev.u.enc.lanes.getD n {}).lostRaised = true := by
  decide +kernel

/-- The hypotheses of clause `encIndex` hold together. -/
theorem test_met_encIndex :
    let b := State.reset
    let n := 9
    let s := b
    let m := s.fld (F.ENC_LCTL_FILT n)
    Live s ∧ Canon s ∧ n < 16 ∧ s.fld (F.ENC_LCTL_FILT n) ≤ m ∧ n ∉ s.dev.u.pwr.encTied := by
  decide +kernel

/-- The hypotheses of clause `encTied` hold together. -/
theorem test_met_encTied :
    let b := State.reset
    let n := 3
    let s := b.setU fun u => { u with pwr := { u.pwr with encTied := [3] } }
    let e : Edge := .aLeads
    let c := true
    let m := 900
    Live s ∧ n ∈ s.dev.u.pwr.encTied := by
  decide +kernel

/-- The hypotheses of clause `encTiedOpen` hold together. -/
theorem test_met_encTiedOpen :
    let b := State.reset
    let n := 0
    let s := b.setU fun u => { u with pwr := { u.pwr with encTied := [3, 0] } }
    Live s ∧ n ∈ s.dev.u.pwr.encTied := by
  decide +kernel

/-- The hypotheses of clause `encTiedIndex` hold together. -/
theorem test_met_encTiedIndex :
    let b := State.reset
    let n := 15
    let s := b.setU fun u => { u with pwr := { u.pwr with encTied := [15] } }
    Live s ∧ n ∈ s.dev.u.pwr.encTied := by
  decide +kernel

/-- The hypotheses of clause `encSubst` hold together. -/
theorem test_met_encSubst :
    let b := State.reset
    let n := 9
    let s := ((((b.setF (F.ENC_LSTAT_LOST n) 1).setF (F.ENC_LSTAT_ESTIM n) 1).setF (F.ENC_RATE_RATE n) 16000).setT 2000000000).setU fun u => { u with enc := { u.enc with lanes := updAt u.enc.lanes n fun l => { l with substN := 0, substAt := u.elapsed - 1500000000 } } }
    Live s ∧ Canon s ∧ n < 16 ∧ s.fld (F.ENC_LSTAT_ESTIM n) = 1 ∧ s.fld (F.ENC_LSTAT_LOST n) = 1 ∧ ((s.dev.u.enc.lanes.getD n {}).substN + 1) * 16000000000 ≤ (s.dev.u.elapsed - (s.dev.u.enc.lanes.getD n {}).substAt) * s.fld (F.ENC_RATE_RATE n) := by
  decide +kernel

/-- The hypotheses of clause `encShort` hold together. -/
theorem test_met_encShort :
    let b := State.reset
    let n := 9
    let m := 4
    let c := true
    let e : Edge := .aLeads
    let s := b.setF (F.ENC_LCTL_FILT n) (m + 1)
    Live s ∧ m < s.fld (F.ENC_LCTL_FILT n) := by
  decide +kernel

/-- The hypotheses of clause `laneStall` hold together. -/
theorem test_met_laneStall :
    let b := State.reset
    let n := 9
    let s := (((b.setF (F.ENC_LCTL_RUN n) 1).setF (F.ENC_LSTAT_STALLED n) 0).setF (F.ENC_STALLT_STALLT n) 5).setT 100000000000
    Live s ∧ Canon s ∧ n < 16 ∧ s.fld (F.ENC_LCTL_RUN n) = 1 ∧ s.fld (F.ENC_LSTAT_STALLED n) = 0 ∧ s.fld (F.ENC_STALLT_STALLT n) ≠ 0 ∧ max (s.dev.u.enc.lanes.getD n {}).lastStroke (s.dev.u.enc.lanes.getD n {}).runSince + s.fld (F.ENC_STALLT_STALLT n) * 1000000 ≤ s.dev.u.elapsed := by
  decide +kernel

/-- The hypotheses of clause `rateUpdate` hold together. -/
theorem test_met_rateUpdate :
    let b := State.reset
    let n := 9
    let s := (b.setF (F.ENC_LSTAT_LOST n) (0)).setT 100000000000
    Live s ∧ Canon s ∧ n < 16 ∧ s.dev.u.enc.rateAt + 1000000000 ≤ s.dev.u.elapsed := by
  decide +kernel

/-- The hypotheses of clause `lostTimeout` hold together. -/
theorem test_met_lostTimeout :
    let b := State.reset
    let n := 9
    let since := 5
    let s := (((b.setF F.SYS_MODE_CUR 4).setF (F.ENC_SUBSTMAX_SUBSTMAX n) 3).setT 100000000000).setU fun u => { u with sys := { u.sys with flowSince := 7 }, enc := { u.enc with lanes := updAt u.enc.lanes n fun l => { l with lostAt := some 5, lostRaised := false } } }
    Live s ∧ Canon s ∧ n < 16 ∧ s.mode = modeFlow ∧ (s.dev.u.enc.lanes.getD n {}).lostAt = some since ∧ (s.dev.u.enc.lanes.getD n {}).lostRaised = false ∧ max since s.dev.u.sys.flowSince + s.fld (F.ENC_SUBSTMAX_SUBSTMAX n) * 1000000000 ≤ s.dev.u.elapsed := by
  decide +kernel

/-- The hypotheses of clause `alarmLate` hold together. -/
theorem test_met_alarmLate :
    let b := State.reset
    let a := 64 + 249
    let s := (((b.setF (F.ENC_ACTL_ARM a) 0).setF (F.ENC_ACTL_SRC a) (8)).setF (F.ENC_ACMP2_CMP a) 0xFFF0)
    Live s ∧ Canon s ∧ 64 ≤ a ∧ a < 512 ∧ s.fld (F.ENC_ACTL_ARM a) = 0 ∧ s.fld (F.ENC_ACTL_SRC a) < 16 ∧ toSigned 48 (s.fld (F.ENC_ACMP0_CMP a) + s.fld (F.ENC_ACMP1_CMP a) * 2 ^ 16 + s.fld (F.ENC_ACMP2_CMP a) * 2 ^ 32) ≤ s.lead (s.fld (F.ENC_ACTL_SRC a)) := by
  decide +kernel

/-- The hypotheses of clause `alarmArmed` hold together. -/
theorem test_met_alarmArmed :
    let b := State.reset
    let a := 64 + 249
    let s := (((b.setF (F.ENC_ACTL_ARM a) 0).setF (F.ENC_ACTL_SRC a) (8)).setF (F.ENC_ACMP2_CMP a) 0x7FF0)
    Live s ∧ Canon s ∧ 64 ≤ a ∧ a < 512 ∧ s.fld (F.ENC_ACTL_ARM a) = 0 ∧ s.fld (F.ENC_ACTL_SRC a) < 16 ∧ s.lead (s.fld (F.ENC_ACTL_SRC a)) < toSigned 48 (s.fld (F.ENC_ACMP0_CMP a) + s.fld (F.ENC_ACMP1_CMP a) * 2 ^ 16 + s.fld (F.ENC_ACMP2_CMP a) * 2 ^ 32) := by
  decide +kernel

/-- The hypotheses of clause `alarmMainsLate` hold together. -/
theorem test_met_alarmMainsLate :
    let b := State.reset
    let src : Src := .core
    let a := 70
    let s := (b.setR R.ENC_MCNTL 500).setF (F.ENC_ACTL_SRC a) 16
    let s := s.setF (F.ENC_ACMP0_CMP a) 500
    Live s ∧ Canon s ∧ 64 ≤ a ∧ a < 512 ∧ s.fld (F.ENC_ACTL_ARM a) = 0 ∧ s.fld (F.ENC_ACTL_SRC a) = 16 ∧ s.compareAt a ≤ toSigned 48 s.mains := by
  decide +kernel

/-- The hypotheses of clause `alarmMainsArmed` hold together. -/
theorem test_met_alarmMainsArmed :
    let b := State.reset
    let src : Src := .core
    let a := 70
    let s := (b.setR R.ENC_MCNTL 500).setF (F.ENC_ACTL_SRC a) 16
    let s := s.setF (F.ENC_ACMP0_CMP a) 501
    Live s ∧ Canon s ∧ 64 ≤ a ∧ a < 512 ∧ s.fld (F.ENC_ACTL_ARM a) = 0 ∧ s.fld (F.ENC_ACTL_SRC a) = 16 ∧ toSigned 48 s.mains < s.compareAt a := by
  decide +kernel

/-- The hypotheses of clause `alarmFallback` hold together. -/
theorem test_met_alarmFallback :
    let b := State.reset
    let a := 57
    let fb := 1 + 14
    let since := 3
    let s := (b.setT 100000000000).setU fun u => { u with enc := { u.enc with armed := [(a, since, fb)] } }
    Live s ∧ Canon s ∧ a < 512 ∧ s.dev.u.enc.armed.find? (fun x => x.1 = a) = some (a, since, fb) ∧ fb ≠ 0 ∧ since + fb * 100000000 ≤ s.dev.u.elapsed := by
  decide +kernel

/-- The hypotheses of clause `alarmService` hold together. -/
theorem test_met_alarmService :
    let b := State.reset
    let s := b.setU fun u => { u with enc := { u.enc with fired := [(16 + 345, 5), (30, 7), (17, 8)] } }
    let s := s.setR R.SYS_CORESTAT (0x3F : Word)
    Live s ∧ (∀ a ∈ s.dev.u.enc.fired, 16 ≤ a.1) ∧ CoreUp s 5 := by
  decide +kernel

/-- The hypotheses of clause `encSnap` hold together. -/
theorem test_met_encSnap :
    let b := State.reset
    let n := 9
    let s := b
    Live s ∧ Canon s ∧ n < 16 := by
  decide +kernel

/-- The hypotheses of clause `mainsSelect` hold together. -/
theorem test_met_mainsSelect :
    let b := State.reset
    let w : Word := if 1 = 0 then 0x80008000 else 0x80000000
    let s := b
    Live s ∧ Canon s ∧ (w = 0x80008000 ∨ w = 0x80000000) := by
  decide +kernel

/-- The hypotheses of clause `mainsEdge` hold together. -/
theorem test_met_mainsEdge :
    let b := State.reset
    let s := ((b.setF F.ENC_MSTAT_FREERUN 0).setT 30000000000).setU fun u => { u with enc := { u.enc with mainsLast := u.elapsed - 20000000, mainsRealPrev := 0 == 0, mainsRestart := 3 == 0 } }
    let falling := s.fld F.ENC_MCTL_EDGE == 1
    let s := s.setF F.ENC_MCTL_FILT 50
    let m := 500000
    Live s ∧ Canon s ∧ ((falling = true ↔ s.fld F.ENC_MCTL_EDGE = 1)) ∧ s.fld F.ENC_MSTAT_FREERUN = 0 ∧ s.dev.u.enc.mainsLast + 13850000 ≤ s.dev.u.elapsed ∧ s.fld F.ENC_MCTL_FILT * 10000 ≤ m := by
  decide +kernel

/-- The hypotheses of clause `mainsReplaces` hold together. -/
theorem test_met_mainsReplaces :
    let b := State.reset
    let s := ((b.setF F.ENC_MSTAT_FREERUN 0).setT 30000000000).setU fun u => { u with enc := { u.enc with mainsLast := u.elapsed - 20000000, mainsRealPrev := 0 == 0, mainsRestart := 3 == 0 } }
    let falling := s.fld F.ENC_MCTL_EDGE == 1
    let s := s.setF F.ENC_MCTL_FILT 50
    let m := 500000
    let s := (s.setF F.ENC_MSTAT_FREERUN 1).setU fun u => { u with enc := { u.enc with freeLast := 29990000000 } }
    let s := s.setF F.ENC_MPER_MPER 2000001
    Live s ∧ Canon s ∧ (falling = true ↔ s.fld F.ENC_MCTL_EDGE = 1) ∧ s.fld F.ENC_MSTAT_FREERUN = 1 ∧ s.dev.u.enc.mainsLast + 13850000 ≤ s.dev.u.elapsed ∧ s.fld F.ENC_MCTL_FILT * 10000 ≤ m ∧ s.dev.u.elapsed < s.dev.u.enc.freeLast + s.fld F.ENC_MPER_MPER * 5 := by
  decide +kernel

/-- The hypotheses of clause `mainsReturns` hold together. -/
theorem test_met_mainsReturns :
    let b := State.reset
    let s := ((b.setF F.ENC_MSTAT_FREERUN 0).setT 30000000000).setU fun u => { u with enc := { u.enc with mainsLast := u.elapsed - 20000000, mainsRealPrev := 0 == 0, mainsRestart := 3 == 0 } }
    let falling := s.fld F.ENC_MCTL_EDGE == 1
    let s := s.setF F.ENC_MCTL_FILT 50
    let m := 500000
    let s := (s.setF F.ENC_MSTAT_FREERUN 1).setU fun u => { u with enc := { u.enc with freeLast := 29990000000 } }
    let s := s.setF F.ENC_MPER_MPER 2000000
    Live s ∧ Canon s ∧ (falling = true ↔ s.fld F.ENC_MCTL_EDGE = 1) ∧ s.fld F.ENC_MSTAT_FREERUN = 1 ∧ s.dev.u.enc.mainsLast + 13850000 ≤ s.dev.u.elapsed ∧ s.fld F.ENC_MCTL_FILT * 10000 ≤ m ∧ s.dev.u.enc.freeLast + s.fld F.ENC_MPER_MPER * 5 ≤ s.dev.u.elapsed := by
  decide +kernel

/-- The hypotheses of clause `mainsAlarm` hold together. -/
theorem test_met_mainsAlarm :
    let b := State.reset
    let s := ((b.setF F.ENC_MSTAT_FREERUN 0).setT 30000000000).setU fun u => { u with enc := { u.enc with mainsLast := u.elapsed - 20000000, mainsRealPrev := 0 == 0, mainsRestart := 3 == 0 } }
    let falling := s.fld F.ENC_MCTL_EDGE == 1
    let s := s.setF F.ENC_MCTL_FILT 50
    let m := 500000
    let a := 511
    let s := s.setR R.ENC_MCNTL 40
    let s := (((s.setF (F.ENC_ACTL_ARM a) 1).setF (F.ENC_ACTL_SRC a) 16).setF (F.ENC_ACMP0_CMP a) 41).setU fun u => { u with enc := { u.enc with armed := [(a, 2, 0)] } }
    Live s ∧ Canon s ∧ (falling = true ↔ s.fld F.ENC_MCTL_EDGE = 1) ∧ s.fld F.ENC_MSTAT_FREERUN = 0 ∧ s.dev.u.enc.mainsLast + 13850000 ≤ s.dev.u.elapsed ∧ s.fld F.ENC_MCTL_FILT * 10000 ≤ m ∧ a < 512 ∧ (∃ x ∈ s.dev.u.enc.armed, x.1 = a) ∧ s.fld (F.ENC_ACTL_ARM a) = 1 ∧ s.fld (F.ENC_ACTL_SRC a) = 16 ∧ s.mains + 1 < 2 ^ 47 ∧ s.compareAt a = s.mains + 1 := by
  decide +kernel

/-- The hypotheses of clause `mainsLost` hold together. -/
theorem test_met_mainsLost :
    let b := State.reset
    let s := (b.setF F.ENC_MSTAT_FREERUN 0).setT 100000000000
    Live s ∧ Canon s ∧ s.fld F.ENC_MSTAT_FREERUN = 0 ∧ s.dev.u.enc.mainsLast + s.fld F.ENC_MPER_MPER * 15 ≤ s.dev.u.elapsed := by
  decide +kernel

/-- The hypotheses of clause `mainsFree` hold together. -/
theorem test_met_mainsFree :
    let b := State.reset
    let s := (b.setF F.ENC_MSTAT_FREERUN 1).setT 100000000000
    Live s ∧ Canon s ∧ s.fld F.ENC_MSTAT_FREERUN = 1 ∧ s.dev.u.enc.freeNext ≤ s.dev.u.elapsed := by
  decide +kernel

/-- The hypotheses of clause `frameStart` hold together. -/
theorem test_met_frameStart :
    let b := State.reset
    let s := (((b.setF (F.TOMO_TFREQ_FREQ 0) 200).setF (F.TOMO_TAMP_AMP 0) (100 + 102)).setF (F.TOMO_TAMP_AMP 1) 0).setF (F.TOMO_TAMP_AMP 2) 0
    let s := s.setF (F.TOMO_TAMP_AMP 3) 0
    let s := ((s.setF F.SYS_MODE_CUR (2 + 0)).setF F.TOMO_FPHASE_FPHASE 0).setF F.TOMO_STAT_GEOMOK 1
    let s := if 0 = 0 then s.setF F.TOMO_CTL_RUN 1 else s.setU fun u => { u with tomo := { u.tomo with single := true } }
    let s := s.setU fun u => { u with tomo := { u.tomo with frame := none, sweep := none }, rng := { u.rng with joined := false } }
    let s := s.setF F.TOMO_CTL_BLEN 0
    let s := s.setU fun u => { u with wall := max (s.fld F.TOMO_FPER_FPER) 1024 * 10000 * 7 }
    let s := s.setR R.SYS_CORESTAT (0x3F : Word)
    Live s ∧ Canon s ∧ FramesWanted s ∧ s.fld F.TOMO_CTL_BLEN = 0 ∧ Aligned s 1024 s.dev.u.wall ∧ s.dev.u.tomo.frame = none ∧ planValid s.planFreq s.planAmp = true ∧ s.fld F.TOMO_STAT_GEOMOK = 1 ∧ s.dev.u.tomo.sweep = none ∧ CoreUp s 4 := by
  decide +kernel

/-- The hypotheses of clause `frameRefused` hold together. -/
theorem test_met_frameRefused :
    let b := State.reset
    let s := (((b.setF (F.TOMO_TFREQ_FREQ 0) 200).setF (F.TOMO_TAMP_AMP 0) (100 + 102)).setF (F.TOMO_TAMP_AMP 1) 0).setF (F.TOMO_TAMP_AMP 2) 0
    let s := s.setF (F.TOMO_TAMP_AMP 3) 0
    let s := ((s.setF F.SYS_MODE_CUR (2 + 0)).setF F.TOMO_FPHASE_FPHASE 0).setF F.TOMO_STAT_GEOMOK 1
    let s := if 0 = 0 then s.setF F.TOMO_CTL_RUN 1 else s.setU fun u => { u with tomo := { u.tomo with single := true } }
    let s := s.setU fun u => { u with tomo := { u.tomo with frame := none, sweep := none }, rng := { u.rng with joined := false } }
    let s := s.setF F.TOMO_CTL_BLEN 0
    let s := if 1 = 0 then s.setF F.TOMO_STAT_GEOMOK 0 else s.setF (F.TOMO_TAMP_AMP 0) 0
    let s := s.setU fun u => { u with wall := max (s.fld F.TOMO_FPER_FPER) 1024 * 10000 * 7 }
    let s := s.setR R.SYS_CORESTAT (0x3F : Word)
    Live s ∧ Canon s ∧ FramesWanted s ∧ s.fld F.TOMO_CTL_BLEN = 0 ∧ Aligned s 1024 s.dev.u.wall ∧ s.dev.u.tomo.frame = none ∧ (planValid s.planFreq s.planAmp = false ∨ s.fld F.TOMO_STAT_GEOMOK = 0 ∨ s.dev.u.tomo.sweep ≠ none) ∧ CoreUp s 4 := by
  decide +kernel

/-- The hypotheses of clause `frameAfterBurst` hold together. -/
theorem test_met_frameAfterBurst :
    let b := State.reset
    let s := b.setF F.TOMO_FPHASE_FPHASE 0
    let f : Frame := { burst := true, step := 32, fseq := 67, wallAt := 80640000, single := 1 == 0 }
    let s := s.setU fun u => { u with wall := max (s.fld F.TOMO_FPER_FPER) 1152 * 10000 * 7, elapsed := 1280000, tomo := { u.tomo with frame := some f }, rng := { u.rng with joined := false } }
    let s := s.setR R.SYS_CORESTAT (0x3F : Word)
    Live s ∧ Canon s ∧ s.dev.u.tomo.frame = some f ∧ f.burst = true ∧ f.step = 32 ∧ f.wallAt ≤ s.dev.u.wall ∧ f.began + f.step * 40000 ≤ s.dev.u.elapsed ∧ CoreUp s 4 := by
  decide +kernel

/-- The hypotheses of clause `burstStart` hold together. -/
theorem test_met_burstStart :
    let b := State.reset
    let s := (((b.setF (F.TOMO_TFREQ_FREQ 0) 200).setF (F.TOMO_TAMP_AMP 0) (100 + 102)).setF (F.TOMO_TAMP_AMP 1) 0).setF (F.TOMO_TAMP_AMP 2) 0
    let s := s.setF (F.TOMO_TAMP_AMP 3) 0
    let s := ((s.setF F.SYS_MODE_CUR (2 + 0)).setF F.TOMO_FPHASE_FPHASE 0).setF F.TOMO_STAT_GEOMOK 1
    let s := if 0 = 0 then s.setF F.TOMO_CTL_RUN 1 else s.setU fun u => { u with tomo := { u.tomo with single := true } }
    let s := s.setU fun u => { u with tomo := { u.tomo with frame := none, sweep := none }, rng := { u.rng with joined := false } }
    let s := s.setF F.TOMO_CTL_BLEN 1
    let s := s.setU fun u => { u with wall := max (s.fld F.TOMO_FPER_FPER) 1152 * 10000 * 7 - 1280000 }
    let s := s.setR R.SYS_CORESTAT (0x3F : Word)
    Live s ∧ Canon s ∧ FramesWanted s ∧ s.fld F.TOMO_CTL_BLEN = 1 ∧ Aligned s 1152 (s.dev.u.wall + 1280000) ∧ s.dev.u.tomo.frame = none ∧ planValid s.planFreq s.planAmp = true ∧ s.fld F.TOMO_STAT_GEOMOK = 1 ∧ s.dev.u.tomo.sweep = none ∧ CoreUp s 4 := by
  decide +kernel

/-- The hypotheses of clause `burstStep` hold together. -/
theorem test_met_burstStep :
    let b := State.reset
    let f : Frame := { burst := true, step := 19 }
    let s := b.setU fun u => { u with elapsed := 100000000, tomo := { u.tomo with frame := some f } }
    Live s ∧ Canon s ∧ s.dev.u.tomo.frame = some f ∧ f.burst = true ∧ f.step < 32 ∧ f.began + f.step * 40000 ≤ s.dev.u.elapsed := by
  decide +kernel

/-- The hypotheses of clause `burstClamped` hold together. -/
theorem test_met_burstClamped :
    let b := State.reset
    let f : Frame := { burst := true, step := 19 }
    let s := b.setU fun u => { u with elapsed := 100000000, tomo := { u.tomo with frame := some f } }
    Live s ∧ Canon s ∧ s.dev.u.tomo.frame = some f ∧ f.burst = true ∧ f.step < 32 ∧ f.began + f.step * 40000 ≤ s.dev.u.elapsed ∧ f.step ∉ f.plan.producing := by
  decide +kernel

/-- The hypotheses of clause `excitationStep` hold together. -/
theorem test_met_excitationStep :
    let b := State.reset
    let f : Frame := { burst := false, step := 211, plan := { producing := List.range 20 } }
    let s := b.setU fun u => { u with elapsed := 100000000, tomo := { u.tomo with frame := some f } }
    let s := if 0 = 0 then s.setF (F.TOMO_STEP_DRVEN f.step) 1 else s
    let e := s.fld (F.TOMO_STEP_DRV f.step)
    let drv := if s.fld (F.TOMO_STEP_DRVEN f.step) = 1 ∧ e / 8 ∈ f.plan.producing ∧ e ∉ f.faulted then some e else none
    Live s ∧ Canon s ∧ s.dev.u.tomo.frame = some f ∧ f.burst = false ∧ f.step < 256 ∧ e = s.fld (F.TOMO_STEP_DRV f.step) ∧ drv = (if s.fld (F.TOMO_STEP_DRVEN f.step) = 1 ∧ e / 8 ∈ f.plan.producing ∧ e ∉ f.faulted then some e else none) ∧ f.began + f.step * 40000 ≤ s.dev.u.elapsed := by
  decide +kernel

/-- The hypotheses of clause `frameClose` hold together. -/
theorem test_met_frameClose :
    let b := State.reset
    let f : Frame := { burst := false, step := 256, fseq := 183, runs := [{ k := 3, drv := some 5, gmode := false, codes := [], r := { results := [{ ch := 9, ovl := true, low := false, iq := [(4, 4)] }], drive := [(9, 9)], driveOvl := true, guards := [], syncErr := [], linkErr := [] } }], plan := { producing := [0, 1], efCnt := 1 } }
    let s := b.setU fun u => { u with elapsed := 100000000, tomo := { u.tomo with frame := some f } }
    let s := s.setR R.SYS_CORESTAT (0x3F : Word)
    Live s ∧ Canon s ∧ s.dev.u.tomo.frame = some f ∧ f.burst = false ∧ f.step = 256 ∧ f.began + f.step * 40000 ≤ s.dev.u.elapsed ∧ CoreUp s 4 := by
  decide +kernel

/-- The hypotheses of clause `recordPublish` hold together. -/
theorem test_met_recordPublish :
    let b := State.reset
    let fr : FrameRec := { fseq := 7, pairs := [{ vals := [(1, 2)], flags := 3 }] }
    let s := b.setU fun u => { u with tomo := { u.tomo with closed := some fr, nextSlot := 40 }, reco := { u.reco with waiting := none } }
    let s := s.setR R.SYS_CORESTAT (0x3F : Word)
    Live s ∧ Canon s ∧ s.dev.u.tomo.closed = some fr ∧ s.dev.u.reco.waiting = none ∧ s.dev.u.tomo.nextSlot < 64 ∧ CoreUp s 4 := by
  decide +kernel

/-- The hypotheses of clause `tomoSingle` hold together. -/
theorem test_met_tomoSingle :
    let b := State.reset
    let s := b.setF F.TOMO_CTL_RUN 0
    Live s ∧ Canon s ∧ s.fld F.TOMO_CTL_RUN = 0 ∧ (∀ w ∈ s.dev.u.tomo.sweep, w.freq.isSome = true) := by
  decide +kernel

/-- The hypotheses of clause `tomoRunClear` hold together. -/
theorem test_met_tomoRunClear :
    let b := State.reset
    let s := b.setU fun u => { u with tomo := { u.tomo with frame := some { burst := 0 == 0 } } }
    Live s ∧ Canon s := by
  decide +kernel

/-- The hypotheses of clause `rtdataWrite` hold together. -/
theorem test_met_rtdataWrite :
    let b := State.reset
    let die := 1
    let w : Word := BitVec.ofNat 32 (0xFFFF0000 + 20264)
    let s := (b.setF (F.AFT_RTIDX_GROUP die) (if 1 = 0 then 15 else 36102)).setF (F.AFT_RTIDX_STEP die) (if 2 = 0 then 255 else 51940)
    Live s ∧ Canon s ∧ die < 2 ∧ w.toNat / 65536 = 0xFFFF := by
  decide +kernel

/-- The hypotheses of clause `sweepEnd` hold together. -/
theorem test_met_sweepEnd :
    let b := State.reset
    let w : Sweep := ⟨5, some [200, 500, 900, 1300]⟩
    let freq := [200, 500, 900, 1300]
    let meas : List CalStep := []
    let s := (b.setT 100000000000).setU fun u => { u with tomo := { u.tomo with sweep := some w } }
    let faulted := sweepFaults freq (fun b => bitAt (s.reg (R.PWR_DOMSTAT 0)).toNat b) (sweepRaw freq meas)
    Live s ∧ Canon s ∧ s.dev.u.tomo.sweep = some w ∧ w.freq = some freq ∧ w.since + 491520000 ≤ s.dev.u.elapsed ∧ faulted = sweepFaults freq (fun b => bitAt (s.reg (R.PWR_DOMSTAT 0)).toNat b) (sweepRaw freq meas) := by
  decide +kernel

/-- The hypotheses of clause `reconTake` hold together. -/
theorem test_met_reconTake :
    let b := State.reset
    let m : List Byte := []
    let rf : List Byte := []
    let fr : FrameRec := { fseq := 68, closedAt := 183, pairs := if 0 = 0 then [] else [{ vals := [(1, 2)], flags := 3 }] }
    let s := (((b.setF F.REC_CTL_RUN 1).setF F.REC_STAT_MATOK 1).setF F.REC_STAT_REFOK 1).setF F.REC_MISSMAX_MAX 50
    let s := s.setU fun u => { u with reco := { u.reco with waiting := some fr, hand := none, reload := [], refNext := none, mat := some m, ref := some rf } }
    let s := s.setR R.SYS_CORESTAT (0x3F : Word)
    let s := s.setF F.SYS_MODE_CUR 3
    Live s ∧ Canon s ∧ s.dev.u.reco.waiting = some fr ∧ s.dev.u.reco.hand = none ∧ s.dev.u.reco.reload = [] ∧ s.dev.u.reco.refNext = none ∧ s.fld F.REC_CTL_RUN = 1 ∧ s.fld F.REC_STAT_MATOK = 1 ∧ s.fld F.REC_STAT_REFOK = 1 ∧ s.dev.u.reco.mat = some m ∧ s.dev.u.reco.ref = some rf ∧ fr.geomId = Mat.geom m ∧ (∀ k ∈ List.range 4, fr.plan.freq.getD k 0 = Ref.freq rf k) ∧ fr.pairs.length ≤ s.fld F.REC_MISSMAX_MAX ∧ CoreUp s 4 ∧ s.base ∈ [2, 3, 4, 6] := by
  decide +kernel

/-- The hypotheses of clause `reconSkip` hold together. -/
theorem test_met_reconSkip :
    let b := State.reset
    let fr : FrameRec := { fseq := 68 }
    let s := b.setF F.REC_CTL_RUN 0
    let s := s.setU fun u => { u with reco := { u.reco with waiting := some fr, hand := none } }
    let s := s.setR R.SYS_CORESTAT (0x3F : Word)
    Live s ∧ Canon s ∧ s.dev.u.reco.waiting = some fr ∧ s.dev.u.reco.hand = none ∧ s.fld F.REC_CTL_RUN = 0 ∧ CoreUp s 4 := by
  decide +kernel

/-- The hypotheses of clause `reconMode` hold together. -/
theorem test_met_reconMode :
    let b := State.reset
    let fr : FrameRec := { fseq := 68 }
    let s := b.setF F.REC_CTL_RUN 0
    let s := s.setU fun u => { u with reco := { u.reco with waiting := some fr, hand := none } }
    let s := s.setR R.SYS_CORESTAT (0x3F : Word)
    let s := (s.setF F.SYS_MODE_CUR 5).setF F.SYS_CALCTL_STAY 0
    let s := s.setF F.REC_CTL_RUN 1
    Live s ∧ Canon s ∧ s.dev.u.reco.waiting = some fr ∧ s.dev.u.reco.hand = none ∧ s.base ∈ [0, 1, 5] ∧ s.fld F.SYS_CALCTL_STAY = 0 ∧ CoreUp s 4 := by
  decide +kernel

/-- The hypotheses of clause `reconPublish` hold together. -/
theorem test_met_reconPublish :
    let b := State.reset
    let h : Hand := { frame := { fseq := 68, stamp := { wall := 54 } }, closedAt := 99999000000, mode := 4 }
    let s := ((b.setF F.TOMO_FPER_FPER 4000).setT 100000000000).setU fun u => { u with reco := { u.reco with hand := some h, waiting := none, mat := none, nextSlot := 7 } }
    Live s ∧ Canon s ∧ s.dev.u.reco.hand = some h ∧ s.dev.u.reco.waiting = none ∧ s.dev.u.reco.nextSlot < 16 ∧ s.dev.u.elapsed < h.closedAt + s.framePeriod * 10000 ∧ s.dev.u.tomo.closed = none ∧ h.poisoned = false ∧ h.stopped = false := by
  decide +kernel

/-- The hypotheses of clause `reconDeadline` hold together. -/
theorem test_met_reconDeadline :
    let b := State.reset
    let h : Hand := { frame := { fseq := 68 }, closedAt := 5, mode := 4 }
    let s := (b.setT 100000000000).setU fun u => { u with reco := { u.reco with hand := some h, waiting := none, mat := none } }
    let s := s.setR R.SYS_CORESTAT (0x3F : Word)
    Live s ∧ Canon s ∧ s.dev.u.reco.hand = some h ∧ s.dev.u.reco.waiting = none ∧ h.closedAt + s.framePeriod * 10000 ≤ s.dev.u.elapsed ∧ CoreUp s 4 := by
  decide +kernel

/-- The hypotheses of clause `recRunClear` hold together. -/
theorem test_met_recRunClear :
    let b := State.reset
    let s := b
    Live s ∧ Canon s := by
  decide +kernel

/-- The hypotheses of clause `matrixTaken` hold together. -/
theorem test_met_matrixTaken :
    let b := State.reset
    let j : CalJob := { since := 0, cold := true, sweep := true, sine := false, matrix := true, stat := 0 }
    let m : List Byte := patch (zeros 0x40) 4 [7, 0, 0, 0]
    let s := (b.setR R.TOMO_GEOMID 0).setF F.TOMO_NPAIR_NPAIR 0
    let s := s.setU fun u => { u with sys := { u.sys with cal := some j }, nv := { u.nv with mat := [{ state := 1, data := m }, {}], matSel := 0 } }
    Live s ∧ Canon s ∧ s.dev.u.sys.cal = some j ∧ j.matrix = true ∧ s.dev.u.nv.mat.getD j.bank {} = { state := 1, data := m } ∧ Mat.geom m = (s.reg R.TOMO_GEOMID).toNat ∧ Mat.pairs m = s.fld F.TOMO_NPAIR_NPAIR ∧ Mat.dataOk m = true := by
  decide +kernel

/-- The hypotheses of clause `matrixEmpty` hold together. -/
theorem test_met_matrixEmpty :
    let b := State.reset
    let j : CalJob := { since := 0, cold := true, sweep := true, sine := false, matrix := true, stat := 0 }
    let s := b.setU fun u => { u with sys := { u.sys with cal := some j }, nv := { u.nv with mat := [{}, {}] } }
    Live s ∧ Canon s ∧ s.dev.u.sys.cal = some j ∧ j.matrix = true ∧ (s.dev.u.nv.mat.getD j.bank {}).state ≠ 1 := by
  decide +kernel

/-- The hypotheses of clause `captureAveraged` hold together. -/
theorem test_met_captureAveraged :
    let b := State.reset
    let c : Capture := { left := 0, taken := 4 }
    let s := b.setU fun u => { u with reco := { u.reco with capture := some c } }
    Live s ∧ Canon s ∧ s.dev.u.reco.capture = some c ∧ c.left = 0 ∧ c.done = false := by
  decide +kernel

/-- The hypotheses of clause `rollSave` hold together. -/
theorem test_met_rollSave :
    let b := State.reset
    let s := (b.setT 700000000000).setU fun u => { u with sys := { u.sys with restored := true }, reco := { u.reco with rollAt := 20264 } }
    Live s ∧ Canon s ∧ NvWhole s ∧ s.dev.u.sys.restored = true ∧ s.dev.u.reco.rollAt + 600000000000 ≤ s.dev.u.elapsed ∧ NoLoss s := by
  decide +kernel

/-- The hypotheses of clause `laneCut` hold together. -/
theorem test_met_laneCut :
    let b := State.reset
    let n := 9
    let k := 3
    let s := (((((b.setF F.PCL_CTL_RUN 1).setF (F.ENC_CALI_CALI n) 50).setF (F.PCL_LLEN_LLEN n) 3000).setF F.SYS_MODE_CUR 4).setF (F.ENC_ACMP0_CMP n) (264)).setR (R.ENC_LEADL n) (70264 : Word)
    let s := s.setU fun u => { u with enc := { u.enc with fired := [(n, k)] }, pcl := { u.pcl with parcels := u.pcl.parcels ++ [parcelNew 77777777 n 5 1 0xFFFF 0] } }
    let p := s.compareAt n
    let pid := (if s.reg R.PCL_PIDNEXT = 0 then 1 else (s.reg R.PCL_PIDNEXT).toNat)
    let s := s.setR R.SYS_CORESTAT (0x3F : Word)
    Live s ∧ Canon s ∧ n < 16 ∧ s.dev.u.enc.fired = [(n, k)] ∧ Cuts s n ∧ p = s.compareAt n ∧ s.dev.u.pcl.parcels.length < 65536 ∧ pid = (if s.reg R.PCL_PIDNEXT = 0 then 1 else (s.reg R.PCL_PIDNEXT).toNat) ∧ (∀ x ∈ s.dev.u.pcl.parcels, Pf.pid.of x ≠ pid) ∧ CoreUp s 5 ∧ p ≤ s.lead n := by
  decide +kernel

/-- The hypotheses of clause `laneCloses` hold together. -/
theorem test_met_laneCloses :
    let b := State.reset
    let n := 9
    let k := 3
    let s := (((((b.setF F.PCL_CTL_RUN 1).setF (F.ENC_CALI_CALI n) 50).setF (F.PCL_LLEN_LLEN n) 3000).setF F.SYS_MODE_CUR 4).setF (F.ENC_ACMP0_CMP n) (264)).setR (R.ENC_LEADL n) (20264 : Word)
    let s := s.setU fun u => { u with enc := { u.enc with fired := [(n, k)] }, pcl := { u.pcl with parcels := u.pcl.parcels ++ [parcelNew 77777777 n 5 1 0xFFFF 0] } }
    let p := s.compareAt n
    let s := s.setR R.SYS_CORESTAT (0x3F : Word)
    let r := parcelNew 77777777 n 5 1 0xFFFF 0
    Live s ∧ Canon s ∧ n < 16 ∧ s.dev.u.enc.fired = [(n, k)] ∧ Cuts s n ∧ p = s.compareAt n ∧ s.dev.u.pcl.parcels.length < 65536 ∧ CoreUp s 5 ∧ p ≤ s.lead n ∧ r ∈ s.dev.u.pcl.parcels ∧ fillingIn n r = true ∧ r.length = 128 ∧ Pf.lo.int r < p ∧ (s.lead n - p) * s.factor n < (s.fld (F.PCL_LLEN_LLEN n) : Int) * 65536000 ∧ (∀ x ∈ s.dev.u.pcl.parcels, Pf.pid.of x = Pf.pid.of r → x = r) ∧ Pf.pid.of r ≠ (if s.reg R.PCL_PIDNEXT = 0 then 1 else (s.reg R.PCL_PIDNEXT).toNat) := by
  decide +kernel

/-- The hypotheses of clause `retireTick` hold together. -/
theorem test_met_retireTick :
    let b := State.reset
    let s := b.setF F.PCL_CTL_RUN 1
    let s := s.setU fun u => { u with pcl := { u.pcl with parcels := u.pcl.parcels ++ (List.range 5).map fun k => Pf.state.put (parcelNew (777 + k) k (-(1000000 + (20264 : Nat))) 1 0xFFFF 0) 2 } }
    Live s ∧ Canon s ∧ s.fld F.PCL_CTL_RUN = 1 := by
  decide +kernel

/-- The hypotheses of clause `checkpoint` hold together. -/
theorem test_met_checkpoint :
    let b := State.reset
    let s := (b.setT 700000000000).setU fun u => { u with sys := { u.sys with coldStart := false }, pcl := { u.pcl with ckptAt := 20264 } }
    let s := s.setF F.PCL_CKPT_CKPT (43)
    Live s ∧ Canon s ∧ NvWhole s ∧ s.dev.u.sys.coldStart = false ∧ s.dev.u.pcl.ckptAt + max 1 (s.fld F.PCL_CKPT_CKPT) * 1000000000 ≤ s.dev.u.elapsed ∧ NoLoss s := by
  decide +kernel

/-- The hypotheses of clause `leaseExpiry` hold together. -/
theorem test_met_leaseExpiry :
    let b := State.reset
    let k := 1
    let l : RecLock := ⟨k == 0, 5 + k, 1, 100⟩
    let s := (b.setT 700000000000).setU fun u => { u with pcl := { u.pcl with locks := [⟨true, 5, 1, 100⟩, ⟨false, 6, 1, 100⟩] } }
    Live s ∧ Canon s ∧ s.dev.u.pcl.locks[k]? = some l ∧ l.expires ≤ s.dev.u.elapsed := by
  decide +kernel

/-- The hypotheses of clause `plannerRun` hold together. -/
theorem test_met_plannerRun :
    let b := State.reset
    let s := b.setU fun u => { u with pcl := { u.pcl with mapsSince := 300 } }
    Live s ∧ Canon s ∧ max 1 (s.fld F.PCL_CTL_PCYC) ≤ s.dev.u.pcl.mapsSince := by
  decide +kernel

/-- The hypotheses of clause `plannerWrites` hold together. -/
theorem test_met_plannerWrites :
    let b := State.reset
    let n := 7
    let since := 10
    let pids := [5, 77]
    let r : List Byte := Pf.state.put (Pf.mlast.put (parcelNew 77 n 5 1 0xFFFF 0) 900) 2
    let s := ((((((((b.setF F.SYS_MODE_CUR 4).setF F.PCL_CTL_PLAN 1).setF F.PCL_VMEAN_VMEAN 0).setF F.PCL_MAPAGE_AGE 9).setF (F.PCL_LSLOT_PLANE n) 1).setF (F.PCL_LSLOT_SLOT n) 33).setF (F.ENC_CALI_CALI n) 50).setF (F.PCL_LLEN_LLEN n) 3000)
    let s := ((((((s.setF (F.PCL_KDRY_K n) 4).setF (F.PCL_MEQ_MEQ n) 700).setF (F.PCL_TARGET_TGT n) 900).setF (F.PCL_VMIN_VMIN n) 1).setF (F.PCL_VMAX_VMAX n) 250).setF F.PCL_VSLEW_SLEW 40).setF (F.REC_LSTAT_UNANCH n) 0
    let s := (List.range 16).foldl (fun s j => if j = n then s else s.setF (F.PCL_LSLOT_PLANE j) 0) s
    let s := s.setU fun u => { u with elapsed := 12, pcl := { u.pcl with mapsSince := 300, planMap := some (since, pids), parcels := [r] } }
    let v : Word := F32.clamp (F32.ofRat (s.fld (F.PCL_VMIN_VMIN n)) 100) (F32.ofRat (s.fld (F.PCL_VMAX_VMAX n)) 100) (F32.clamp (F32.sub (s.dev.u.pcl.lanes.getD n {}).speed (F32.ofRat (s.fld F.PCL_VSLEW_SLEW) 100)) (F32.add (s.dev.u.pcl.lanes.getD n {}).speed (F32.ofRat (s.fld F.PCL_VSLEW_SLEW) 100)) (F32.div (F32.mul (F32.ofRat (s.fld (F.PCL_VMAX_VMAX n)) 100) (F32.ofInt 3600)) (F32.ofInt 3600)))
    let sp := fitU 16 (roundF (F32.mul (F32.div (F32.mul v (F32.ofInt 1000)) (F32.ofRat (s.factor n) 65536)) (F32.ofInt 16)))
    Live s ∧ Canon s ∧ max 1 (s.fld F.PCL_CTL_PCYC) ≤ s.dev.u.pcl.mapsSince ∧ s.mode = modeFlow ∧ s.fld F.PCL_CTL_PLAN = 1 ∧ s.fld F.PCL_VMEAN_VMEAN = 0 ∧ s.dev.u.pcl.planMap = some (since, pids) ∧ s.dev.u.elapsed ≤ since + s.fld F.PCL_MAPAGE_AGE * 1000000 ∧ n < 16 ∧ s.fld (F.PCL_LSLOT_PLANE n) = 1 ∧ (∀ j ∈ List.range 16, j ≠ n → s.fld (F.PCL_LSLOT_PLANE j) = 0) ∧ s.dev.u.pcl.parcels = [r] ∧ r.length = 128 ∧ parcelActive r = true ∧ Pf.lane.of r = n ∧ bitAt (Pf.flags.of r) 6 = false ∧ Pf.pid.of r ∈ pids ∧ s.factor n ≠ 0 ∧ s.fld (F.PCL_LLEN_LLEN n) ≠ 0 ∧ s.fld (F.ENC_LSTAT_STALLED n) = 0 ∧ s.fld (F.ENC_LSTAT_LOST n) = 0 ∧ s.fld (F.REC_LSTAT_UNANCH n) = 0 ∧ s.fld (F.REC_LSTAT_DRIFT n) = 0 ∧ s.fld (F.PCL_KDRY_K n) ≠ 0 ∧ s.fld (F.PCL_MEQ_MEQ n) < s.fld (F.PCL_TARGET_TGT n) ∧ Pf.mlast.of r ≤ s.fld (F.PCL_TARGET_TGT n) ∧ v = F32.clamp (F32.ofRat (s.fld (F.PCL_VMIN_VMIN n)) 100) (F32.ofRat (s.fld (F.PCL_VMAX_VMAX n)) 100) (F32.clamp (F32.sub (s.dev.u.pcl.lanes.getD n {}).speed (F32.ofRat (s.fld F.PCL_VSLEW_SLEW) 100)) (F32.add (s.dev.u.pcl.lanes.getD n {}).speed (F32.ofRat (s.fld F.PCL_VSLEW_SLEW) 100)) (F32.div (F32.mul (F32.ofRat (s.fld (F.PCL_VMAX_VMAX n)) 100) (F32.ofInt 3600)) (F32.ofInt 3600))) ∧ sp = fitU 16 (roundF (F32.mul (F32.div (F32.mul v (F32.ofInt 1000)) (F32.ofRat (s.factor n) 65536)) (F32.ofInt 16))) := by
  and_intros <;> first | with_reducible rfl | decide +kernel

/-- The hypotheses of clause `fieldRead` hold together. -/
theorem test_met_fieldRead :
    let b := State.reset
    let bus := 1
    let node := 1 + 52
    let idx := 3607
    let pid := 70000 + 3
    let v := 36102
    let fi := 53
    let d : List Byte := leBytes 1 1 ++ leBytes 1 node ++ leBytes 2 idx ++ leBytes 4 pid ++ leBytes 1 fi ++ zeros 1 ++ leBytes 4 v ++ zeros 2
    let s := (b.setF (F.FLD_LEDG_EN bus) 1).setF (F.FLD_BSTAT_STATE bus) (0)
    let lr : List Byte := Lf.massin.put (Lf.state.put (BitVec.ofNat 8 (75697) :: (List.range 255).map fun k => BitVec.ofNat 8 (k * 83616)) 1) (91535)
    let s := s.setU fun u => { u with fld := { u.fld with buses := if u.fld.buses.length = 4 then u.fld.buses else List.replicate 4 {} }, pcl := { u.pcl with lots := (idx, lr) :: u.pcl.lots, locks := [], fieldLocks := [] } }
    let s := s.setF (F.FLD_BECNT_TEC bus) 17
    Live s ∧ Canon s ∧ RequestHeard s bus 1 node d ∧ s.dev.u.fld.buses.length = 4 ∧ s.fld (F.FLD_BECNT_TEC bus) ≤ 255 ∧ leAt d 2 2 = idx ∧ leAt d 8 1 = fi ∧ leAt d 10 4 = v ∧ s.lot idx = some lr ∧ lr.length = 256 ∧ recordBusy s.dev.u false idx = false ∧ idx < 4096 ∧ fi < 64 := by
  decide +kernel

/-- The hypotheses of clause `fieldWrite` hold together. -/
theorem test_met_fieldWrite :
    let b := State.reset
    let bus := 1
    let node := 1 + 52
    let idx := 3607
    let pid := 70000 + 3
    let v := 36102
    let fi := 3
    let d : List Byte := leBytes 1 2 ++ leBytes 1 node ++ leBytes 2 idx ++ leBytes 4 pid ++ leBytes 1 fi ++ zeros 1 ++ leBytes 4 v ++ zeros 2
    let s := (b.setF (F.FLD_LEDG_EN bus) 1).setF (F.FLD_BSTAT_STATE bus) (0)
    let lr : List Byte := Lf.massin.put (Lf.state.put (BitVec.ofNat 8 (75697) :: (List.range 255).map fun k => BitVec.ofNat 8 (k * 83616)) 1) (91535)
    let s := s.setU fun u => { u with fld := { u.fld with buses := if u.fld.buses.length = 4 then u.fld.buses else List.replicate 4 {} }, pcl := { u.pcl with lots := (idx, lr) :: u.pcl.lots, locks := [], fieldLocks := [] } }
    let s := s.setF (F.FLD_BECNT_TEC bus) 17
    Live s ∧ Canon s ∧ RequestHeard s bus 2 node d ∧ s.dev.u.fld.buses.length = 4 ∧ s.fld (F.FLD_BECNT_TEC bus) ≤ 255 ∧ leAt d 2 2 = idx ∧ leAt d 8 1 = fi ∧ leAt d 10 4 = v ∧ s.lot idx = some lr ∧ lr.length = 256 ∧ recordBusy s.dev.u false idx = false ∧ idx < 4096 ∧ fi < 26 ∧ Lf.state.of lr = 1 := by
  decide +kernel

/-- The hypotheses of clause `fieldMass` hold together. -/
theorem test_met_fieldMass :
    let b := State.reset
    let bus := 1
    let node := 1 + 52
    let idx := 3607
    let pid := 70000 + 3
    let v := 36102
    let fi := 0
    let d : List Byte := leBytes 1 3 ++ leBytes 1 node ++ leBytes 2 idx ++ leBytes 4 pid ++ leBytes 1 fi ++ zeros 1 ++ leBytes 4 v ++ zeros 2
    let s := (b.setF (F.FLD_LEDG_EN bus) 1).setF (F.FLD_BSTAT_STATE bus) (0)
    let lr : List Byte := Lf.massin.put (Lf.state.put (BitVec.ofNat 8 (75697) :: (List.range 255).map fun k => BitVec.ofNat 8 (k * 83616)) 1) (91535)
    let s := s.setU fun u => { u with fld := { u.fld with buses := if u.fld.buses.length = 4 then u.fld.buses else List.replicate 4 {} }, pcl := { u.pcl with lots := (idx, lr) :: u.pcl.lots, locks := [], fieldLocks := [] } }
    let s := s.setF (F.FLD_BECNT_TEC bus) 17
    Live s ∧ Canon s ∧ RequestHeard s bus 3 node d ∧ s.dev.u.fld.buses.length = 4 ∧ s.fld (F.FLD_BECNT_TEC bus) ≤ 255 ∧ leAt d 2 2 = idx ∧ leAt d 8 1 = fi ∧ leAt d 10 4 = v ∧ s.lot idx = some lr ∧ lr.length = 256 ∧ recordBusy s.dev.u false idx = false ∧ idx < 4096 ∧ fi = 0 ∧ Lf.state.of lr = 1 ∧ Lf.massin.of lr + v < 2 ^ 32 := by
  decide +kernel

/-- The hypotheses of clause `fieldSample` hold together. -/
theorem test_met_fieldSample :
    let b := State.reset
    let bus := 1
    let node := 1 + 52
    let idx := 3607
    let pid := 70000 + 3
    let v := 36102
    let fi := 0
    let d : List Byte := leBytes 1 4 ++ leBytes 1 node ++ leBytes 2 idx ++ leBytes 4 pid ++ leBytes 1 fi ++ zeros 1 ++ leBytes 4 v ++ zeros 2
    let s := (b.setF (F.FLD_LEDG_EN bus) 1).setF (F.FLD_BSTAT_STATE bus) (0)
    let lr : List Byte := Lf.massin.put (Lf.state.put (BitVec.ofNat 8 (75697) :: (List.range 255).map fun k => BitVec.ofNat 8 (k * 83616)) 1) (91535)
    let s := s.setU fun u => { u with fld := { u.fld with buses := if u.fld.buses.length = 4 then u.fld.buses else List.replicate 4 {} }, pcl := { u.pcl with lots := (idx, lr) :: u.pcl.lots, locks := [], fieldLocks := [] } }
    let s := s.setF (F.FLD_BECNT_TEC bus) 17
    Live s ∧ Canon s ∧ RequestHeard s bus 4 node d ∧ s.dev.u.fld.buses.length = 4 ∧ s.fld (F.FLD_BECNT_TEC bus) ≤ 255 ∧ leAt d 2 2 = idx ∧ leAt d 8 1 = fi ∧ leAt d 10 4 = v ∧ s.lot idx = some lr ∧ lr.length = 256 ∧ recordBusy s.dev.u false idx = false ∧ idx < 4096 ∧ fi = 0 ∧ Lf.state.of lr = 1 := by
  decide +kernel

/-- The hypotheses of clause `fieldLane` hold together. -/
theorem test_met_fieldLane :
    let b := State.reset
    let bus := 1
    let node := 1 + 52
    let idx := 3607
    let pid := 70000 + 3
    let v := 36102
    let fi := 0
    let d : List Byte := leBytes 1 5 ++ leBytes 1 node ++ leBytes 2 idx ++ leBytes 4 pid ++ leBytes 1 fi ++ zeros 1 ++ leBytes 4 v ++ zeros 2
    let s := (b.setF (F.FLD_LEDG_EN bus) 1).setF (F.FLD_BSTAT_STATE bus) (0)
    let idx := idx % 16
    let d := patch d 2 (leBytes 2 idx)
    let s := ((s.setF (F.ENC_CALI_CALI idx) 1000).setF (F.ENC_CALF_CALF idx) 0).setF (F.PCL_LLEN_LLEN idx) 1000
    let pr := Pf.state.put (Pf.hi.putI (parcelNew pid idx (s.lead idx - 1500) 1 0xFFFF 0) (s.lead idx - 500)) 2
    let s := s.setU fun u => { u with pcl := { u.pcl with parcels := [pr], locks := [], fieldLocks := [] }, fld := { u.fld with buses := List.replicate 4 {} } }
    let s := s.setF (F.FLD_BECNT_TEC bus) 17
    Live s ∧ Canon s ∧ RequestHeard s bus 5 node d ∧ s.dev.u.fld.buses.length = 4 ∧ s.fld (F.FLD_BECNT_TEC bus) ≤ 255 ∧ leAt d 2 2 = idx ∧ leAt d 8 1 = fi ∧ leAt d 10 4 = v ∧ idx < 16 ∧ fi = 0 ∧ (∀ x ∈ s.dev.u.pcl.parcels, x.length = 128) ∧ atDischarge (s.dev.u.pcl.parcels.filter fun x => Pf.state.of x == 2) idx (s.lead idx) (s.factor idx) ((s.fld (F.PCL_LLEN_LLEN idx) : Int) * 1000 * 65536) = some pr ∧ recordBusy s.dev.u true (Pf.pid.of pr) = false := by
  decide +kernel

/-- The hypotheses of clause `fieldPid` hold together. -/
theorem test_met_fieldPid :
    let b := State.reset
    let bus := 1
    let node := 1 + 52
    let idx := 3607
    let pid := 70000 + 3
    let v := 36102
    let fi := 0
    let d : List Byte := leBytes 1 6 ++ leBytes 1 node ++ leBytes 2 idx ++ leBytes 4 pid ++ leBytes 1 fi ++ zeros 1 ++ leBytes 4 v ++ zeros 2
    let s := (b.setF (F.FLD_LEDG_EN bus) 1).setF (F.FLD_BSTAT_STATE bus) (0)
    let pr := parcelNew pid 3 5 1 0xFFFF 0
    let s := s.setU fun u => { u with pcl := { u.pcl with parcels := [pr], locks := [], fieldLocks := [] }, fld := { u.fld with buses := List.replicate 4 {} } }
    let s := s.setF (F.FLD_BECNT_TEC bus) 17
    Live s ∧ Canon s ∧ RequestHeard s bus 6 node d ∧ s.dev.u.fld.buses.length = 4 ∧ s.fld (F.FLD_BECNT_TEC bus) ≤ 255 ∧ leAt d 2 2 = idx ∧ leAt d 8 1 = fi ∧ leAt d 10 4 = v ∧ fi = 0 ∧ leAt d 4 4 = pid ∧ (∀ x ∈ s.dev.u.pcl.parcels, x.length = 128) ∧ (s.dev.u.pcl.parcels.find? fun x => parcelActive x && Pf.pid.of x == pid) = some pr ∧ recordBusy s.dev.u true pid = false := by
  decide +kernel

/-- The hypotheses of IdleStepIsOneTick hold together. -/
theorem test_met_idleStep :
    let s := State.reset.setU fun u => { u with vdrv := { u.vdrv with chs := updAt u.vdrv.chs 2 fun c => { c with trip := some (1, 2, u.elapsed) } } }
    s.pending = [] ∧ Supplied s ∧ s.dev.u.slew = 0 ∧ (∀ l ∈ s.dev.u.pcl.fieldLocks, s.dev.u.elapsed + 4 ≤ l.expires) ∧ (∀ c ∈ s.dev.u.vdrv.chs, c.trip.all (fun x => decide (s.dev.u.elapsed + 4 ≤ x.2.2 + 1000)) = true) := by
  decide +kernel

/-- The hypotheses of clause `groupLatch` hold together. -/
theorem test_met_groupLatch :
    let b := State.reset
    let g := 1
    let n := 40
    let s := (((((b.setF (F.LOOP_PGCTL_EN g) 1).setF F.LOOP_ECTL_RUN 1).setF (F.LOOP_PGCTL_TRIG g) 0).setF (F.LOOP_CTL_GROUP n) g).setF (F.LOOP_CTL_MODE n) 1).setF (F.LOOP_PGPH_PHASE g) 0
    let s := s.setU fun u => { u with loop := { u.loop with slots := (u.loop.slots ++ List.replicate 128 ({} : LoopSlot)).take 128, groups := (u.loop.groups ++ List.replicate 8 ({} : LoopGroup)).take 8, gens := (u.loop.gens ++ List.replicate 4 none).take 4 } }
    let s := s.setU fun u => { u with wall := s.groupPer g * 70000 + 3, loop := { u.loop with groups := updAt u.loop.groups g fun x => { x with active := false, outAt := none, latchW := none }, slots := updAt u.loop.slots n fun x => { x with holdPending := false } } }
    Live s ∧ Canon s ∧ LoopWhole s ∧ g < 8 ∧ s.fld (F.LOOP_PGCTL_EN g) = 1 ∧ s.fld F.LOOP_ECTL_RUN = 1 ∧ s.fld (F.LOOP_PGCTL_TRIG g) = 0 ∧ (s.group g).active = false ∧ (s.group g).outAt = none ∧ s.dev.u.wall % 10000 < 4 ∧ s.dev.u.wall / 10000 % s.groupPer g = s.fld (F.LOOP_PGPH_PHASE g) % s.groupPer g ∧ (s.group g).latchW ≠ some (s.dev.u.wall / 10000) ∧ n < 128 ∧ s.fld (F.LOOP_CTL_GROUP n) = g ∧ s.fld (F.LOOP_CTL_MODE n) = 1 ∧ (s.slot n).holdPending = false ∧ (s.group g).older = [] := by
  decide +kernel

/-- The hypotheses of clause `groupLatchLater` hold together. -/
theorem test_met_groupLatchLater :
    let b := State.reset
    let g := 1
    let n := 40
    let s := (((((b.setF (F.LOOP_PGCTL_EN g) 1).setF F.LOOP_ECTL_RUN 1).setF (F.LOOP_PGCTL_TRIG g) 0).setF (F.LOOP_CTL_GROUP n) g).setF (F.LOOP_CTL_MODE n) 1).setF (F.LOOP_PGPH_PHASE g) 0
    let s := s.setU fun u => { u with loop := { u.loop with slots := (u.loop.slots ++ List.replicate 128 ({} : LoopSlot)).take 128, groups := (u.loop.groups ++ List.replicate 8 ({} : LoopGroup)).take 8, gens := (u.loop.gens ++ List.replicate 4 none).take 4 } }
    let s := s.setU fun u => { u with wall := s.groupPer g * 70000 + 3, loop := { u.loop with groups := updAt u.loop.groups g fun x => { x with active := false, outAt := none, latchW := none }, slots := updAt u.loop.slots n fun x => { x with holdPending := false } } }
    let s := s.setU fun u => { u with loop := { u.loop with groups := updAt u.loop.groups g fun x => { x with active := true, p := 100, ph := 7, outAt := none }}, wall := 10000 * 1207 + 3 }
    Live s ∧ Canon s ∧ LoopWhole s ∧ g < 8 ∧ s.fld (F.LOOP_PGCTL_EN g) = 1 ∧ s.fld F.LOOP_ECTL_RUN = 1 ∧ s.fld (F.LOOP_PGCTL_TRIG g) = 0 ∧ (s.group g).active = true ∧ (s.group g).outAt = none ∧ s.dev.u.wall % 10000 < 4 ∧ s.dev.u.wall / 10000 % (s.group g).p = (s.group g).ph % (s.group g).p ∧ (s.group g).latchW ≠ some (s.dev.u.wall / 10000) ∧ n < 128 ∧ s.fld (F.LOOP_CTL_GROUP n) = g ∧ s.fld (F.LOOP_CTL_MODE n) = 1 ∧ (s.slot n).holdPending = false ∧ (s.group g).older = [] := by
  decide +kernel

/-- The hypotheses of clause `groupIdle` hold together. -/
theorem test_met_groupIdle :
    let b := State.reset
    let g := 1
    let s := (b.setF (F.LOOP_PGCTL_EN g) 0).setF (F.LOOP_PGCTL_TRIG g) 0
    let s := s.setU fun u => { u with loop := { u.loop with slots := (u.loop.slots ++ List.replicate 128 ({} : LoopSlot)).take 128, groups := (u.loop.groups ++ List.replicate 8 ({} : LoopGroup)).take 8, gens := (u.loop.gens ++ List.replicate 4 none).take 4 } }
    let s := s.setU fun u => { u with wall := 1000 * 70000 + 3, loop := { u.loop with groups := updAt u.loop.groups g fun x => { x with active := true, p := 1000, ph := 0, latchW := none } } }
    Live s ∧ Canon s ∧ LoopWhole s ∧ g < 8 ∧ (s.fld (F.LOOP_PGCTL_EN g) = 0 ∨ s.fld F.LOOP_ECTL_RUN = 0) ∧ s.fld (F.LOOP_PGCTL_TRIG g) = 0 ∧ (s.group g).active = true ∧ s.dev.u.wall % 10000 < 4 ∧ s.dev.u.wall / 10000 % (s.group g).p = (s.group g).ph % (s.group g).p ∧ (s.group g).latchW ≠ some (s.dev.u.wall / 10000) := by
  decide +kernel

/-- The hypotheses of clause `strokeTrigger` hold together. -/
theorem test_met_strokeTrigger :
    let b := State.reset
    let g := 1
    let s := ((b.setF (F.LOOP_PGCTL_EN g) 1).setF F.LOOP_ECTL_RUN 1).setF (F.LOOP_PGCTL_TRIG g) 1
    let s := s.setU fun u => { u with loop := { u.loop with slots := (u.loop.slots ++ List.replicate 128 ({} : LoopSlot)).take 128, groups := (u.loop.groups ++ List.replicate 8 ({} : LoopGroup)).take 8, gens := (u.loop.gens ++ List.replicate 4 none).take 4 } }
    let s := s.setU fun u => { u with loop := { u.loop with groups := updAt u.loop.groups g fun x => { x with active := true, next := s.lead (s.fld (F.LOOP_PGCTL_LANE g)) - (2 : Nat), last := none } } }
    Live s ∧ Canon s ∧ LoopWhole s ∧ g < 8 ∧ s.fld (F.LOOP_PGCTL_EN g) = 1 ∧ s.fld F.LOOP_ECTL_RUN = 1 ∧ s.fld (F.LOOP_PGCTL_TRIG g) = 1 ∧ (s.group g).active = true ∧ (s.group g).next ≤ s.lead (s.fld (F.LOOP_PGCTL_LANE g)) ∧ (s.group g).last = none := by
  decide +kernel

/-- The hypotheses of clause `strokeSkip` hold together. -/
theorem test_met_strokeSkip :
    let b := State.reset
    let g := 1
    let s := ((b.setF (F.LOOP_PGCTL_EN g) 1).setF F.LOOP_ECTL_RUN 1).setF (F.LOOP_PGCTL_TRIG g) 1
    let s := s.setU fun u => { u with loop := { u.loop with slots := (u.loop.slots ++ List.replicate 128 ({} : LoopSlot)).take 128, groups := (u.loop.groups ++ List.replicate 8 ({} : LoopGroup)).take 8, gens := (u.loop.gens ++ List.replicate 4 none).take 4 } }
    let w := s.dev.u.wall + 65
    let s := s.setU fun u => { u with loop := { u.loop with groups := updAt u.loop.groups g fun x => { x with active := true, next := s.lead (s.fld (F.LOOP_PGCTL_LANE g)) - (2 : Nat), last := some w, lastT := s.dev.u.elapsed - 999 } } }
    Live s ∧ Canon s ∧ LoopWhole s ∧ g < 8 ∧ s.fld (F.LOOP_PGCTL_EN g) = 1 ∧ s.fld F.LOOP_ECTL_RUN = 1 ∧ s.fld (F.LOOP_PGCTL_TRIG g) = 1 ∧ (s.group g).active = true ∧ (s.group g).next ≤ s.lead (s.fld (F.LOOP_PGCTL_LANE g)) ∧ (s.group g).last = some w ∧ s.dev.u.elapsed < (s.group g).lastT + max 1 (s.fld (F.LOOP_PGODLY_ODLY g)) * 1000 := by
  decide +kernel

/-- The hypotheses of clause `strokeLater` hold together. -/
theorem test_met_strokeLater :
    let b := State.reset
    let g := 1
    let s := ((b.setF (F.LOOP_PGCTL_EN g) 1).setF F.LOOP_ECTL_RUN 1).setF (F.LOOP_PGCTL_TRIG g) 1
    let s := s.setU fun u => { u with loop := { u.loop with slots := (u.loop.slots ++ List.replicate 128 ({} : LoopSlot)).take 128, groups := (u.loop.groups ++ List.replicate 8 ({} : LoopGroup)).take 8, gens := (u.loop.gens ++ List.replicate 4 none).take 4 } }
    let s := s.setU fun u => { u with loop := { u.loop with groups := updAt u.loop.groups g fun x => { x with active := true, next := s.lead (s.fld (F.LOOP_PGCTL_LANE g)) - (2 : Nat), last := none } } }
    let w := 5
    let s := s.setU fun u => { u with elapsed := 90000000, wall := 70000000, loop := { u.loop with groups := updAt u.loop.groups g fun x => { x with last := some w, lastT := 90000000 - max 1 (s.fld (F.LOOP_PGODLY_ODLY g)) * 1000, outAt := none, older := [] } } }
    Live s ∧ Canon s ∧ LoopWhole s ∧ g < 8 ∧ s.fld (F.LOOP_PGCTL_EN g) = 1 ∧ s.fld F.LOOP_ECTL_RUN = 1 ∧ s.fld (F.LOOP_PGCTL_TRIG g) = 1 ∧ (s.group g).active = true ∧ (s.group g).next ≤ s.lead (s.fld (F.LOOP_PGCTL_LANE g)) ∧ (s.group g).last = some w ∧ (s.group g).lastT + max 1 (s.fld (F.LOOP_PGODLY_ODLY g)) * 1000 ≤ s.dev.u.elapsed ∧ (s.group g).outAt = none ∧ (s.group g).older = [] := by
  decide +kernel

/-- The hypotheses of clause `slotManual` hold together. -/
theorem test_met_slotManual :
    let b := State.reset
    let n := 40
    let lo := 28183
    let hi := lo + 6102
    let o := 1000000000244
    let s := ((b.setF (F.LOOP_STAT_MODEIN n) 1).setF (F.LOOP_CTL_SIGNED n) 0)
    let s := s.setT (1000000000000 - 1)
    let s := s.setU fun u => { u with loop := { u.loop with slots := (u.loop.slots ++ List.replicate 128 ({} : LoopSlot)).take 128, groups := (u.loop.groups ++ List.replicate 8 ({} : LoopGroup)).take 8, gens := (u.loop.gens ++ List.replicate 4 none).take 4 } }
    let s := s.setU fun u => { u with loop := { u.loop with busyUntil := 0, slots := (u.loop.slots.map fun x => { x with waiting := false }) } }
    let s := s.setU fun u => { u with loop := { u.loop with slots := updAt u.loop.slots n fun x => { x with waiting := true, outAt := o, grp := 1, man := 44021 , inj := [0, 0, 0], coef := [0, 0, 0, 0, 0x3C00, 0, lo, hi, 0, 0, 0, 0x0A00, 0x7C00] } } }
    Live s ∧ Canon s ∧ LoopWhole s ∧ n < 128 ∧ s.dev.u.loop.busyUntil ≤ s.dev.u.elapsed ∧ (s.slot n).waiting = true ∧ (∀ m ∈ List.range 128, m ≠ n → (s.slot m).waiting = false) ∧ (∀ m ∈ List.range 128, (s.slot m).older = []) ∧ (s.slot n).outAt = o ∧ s.dev.u.elapsed + 240 < o ∧ s.fld (F.LOOP_STAT_MODEIN n) = 1 ∧ s.fld (F.LOOP_CTL_SIGNED n) = 0 ∧ (s.slot n).inj = [0, 0, 0] ∧ (s.slot n).raw 6 = lo ∧ (s.slot n).raw 7 = hi ∧ lo ≤ hi ∧ hi < 65536 ∧ (s.slot n).man < 65536 := by
  decide +kernel

/-- The hypotheses of clause `slotAny` hold together. -/
theorem test_met_slotAny :
    let b := State.reset
    let n := 40
    let o := 1000000000244
    let s := b.setF (F.LOOP_STAT_MODEIN n) 2
    let s := s.setT (1000000000000 - 1)
    let s := s.setU fun u => { u with loop := { u.loop with slots := (u.loop.slots ++ List.replicate 128 ({} : LoopSlot)).take 128, groups := (u.loop.groups ++ List.replicate 8 ({} : LoopGroup)).take 8, gens := (u.loop.gens ++ List.replicate 4 none).take 4 } }
    let s := s.setU fun u => { u with loop := { u.loop with busyUntil := 0, slots := (u.loop.slots.map fun x => { x with waiting := false }) } }
    let s := s.setU fun u => { u with loop := { u.loop with slots := updAt u.loop.slots n fun x => { x with waiting := true, outAt := o, grp := 1 , yOk := 1 == 0, coef := [0x3C00, 0x3800, 0, 0x3800, 0x3C00, 0, 0, 500 + 2778, 0, 0, 0, 0x0A00, 0x7C00], y := 10161, sp := 18080 } } }
    Live s ∧ Canon s ∧ LoopWhole s ∧ n < 128 ∧ s.dev.u.loop.busyUntil ≤ s.dev.u.elapsed ∧ (s.slot n).waiting = true ∧ (∀ m ∈ List.range 128, m ≠ n → (s.slot m).waiting = false) ∧ (∀ m ∈ List.range 128, (s.slot m).older = []) ∧ (s.slot n).outAt = o ∧ s.dev.u.elapsed + 240 < o := by
  decide +kernel

/-- The hypotheses of clause `slotOverrun` hold together. -/
theorem test_met_slotOverrun :
    let b := State.reset
    let n := 40
    let o := 1000000000240
    let s := b.setF (F.LOOP_STAT_MODEIN n) 2
    let s := s.setT 1000000000000
    let s := s.setU fun u => { u with loop := { u.loop with slots := (u.loop.slots ++ List.replicate 128 ({} : LoopSlot)).take 128, groups := (u.loop.groups ++ List.replicate 8 ({} : LoopGroup)).take 8, gens := (u.loop.gens ++ List.replicate 4 none).take 4 } }
    let s := s.setU fun u => { u with loop := { u.loop with busyUntil := 0, slots := (u.loop.slots.map fun x => { x with waiting := false }) } }
    let s := s.setU fun u => { u with loop := { u.loop with slots := updAt u.loop.slots n fun x => { x with waiting := true, outAt := o, grp := 1  } } }
    Live s ∧ Canon s ∧ LoopWhole s ∧ n < 128 ∧ s.dev.u.loop.busyUntil ≤ s.dev.u.elapsed ∧ (s.slot n).waiting = true ∧ (∀ m ∈ List.range 128, m ≠ n → (s.slot m).waiting = false) ∧ (∀ m ∈ List.range 128, (s.slot m).older = []) ∧ (s.slot n).outAt = o ∧ o ≤ s.dev.u.elapsed + 240 := by
  decide +kernel

/-- The hypotheses of clause `groupOutput` hold together. -/
theorem test_met_groupOutput :
    let b := State.reset
    let g := 1
    let n := 40
    let v := 28183
    let o := 100
    let s := b.setF F.LOOP_ECTL_RUN 1
    let s := s.setT 1000000
    let s := s.setU fun u => { u with loop := { u.loop with slots := (u.loop.slots ++ List.replicate 128 ({} : LoopSlot)).take 128, groups := (u.loop.groups ++ List.replicate 8 ({} : LoopGroup)).take 8, gens := (u.loop.gens ++ List.replicate 4 none).take 4 } }
    let s := s.setU fun u => { u with loop := { u.loop with groups := updAt u.loop.groups g fun x => { x with outAt := some o, began := 60 }, slots := updAt u.loop.slots n fun x => { x with waiting := false, output := some v, grp := g, began := 60 } } }
    Live s ∧ Canon s ∧ LoopWhole s ∧ g < 8 ∧ (s.group g).outAt = some o ∧ o ≤ s.dev.u.elapsed ∧ n < 128 ∧ (s.slot n).output = some v ∧ v < 65536 ∧ (s.slot n).waiting = false ∧ (s.group g).older = [] ∧ (s.slot n).older = [] ∧ (s.slot n).grp = g ∧ (s.slot n).began = (s.group g).began ∧ s.fld F.LOOP_ECTL_RUN = 1 ∧ (s.group g).mute = false := by
  decide +kernel

/-- The hypotheses of clause `groupMute` hold together. -/
theorem test_met_groupMute :
    let b := State.reset
    let g := 1
    let o := 100
    let s := b.setT 1000000
    let s := s.setU fun u => { u with loop := { u.loop with slots := (u.loop.slots ++ List.replicate 128 ({} : LoopSlot)).take 128, groups := (u.loop.groups ++ List.replicate 8 ({} : LoopGroup)).take 8, gens := (u.loop.gens ++ List.replicate 4 none).take 4 } }
    let s := s.setU fun u => { u with loop := { u.loop with groups := updAt u.loop.groups g fun x => { x with outAt := some o, began := 60, mute := true }, slots := updAt u.loop.slots 40 fun x => { x with output := some 7, grp := g, began := 60 } } }
    Live s ∧ Canon s ∧ LoopWhole s ∧ g < 8 ∧ (s.group g).outAt = some o ∧ o ≤ s.dev.u.elapsed ∧ (s.group g).older = [] ∧ (∀ m ∈ List.range 128, (s.slot m).waiting = false) ∧ (∀ m ∈ List.range 128, (s.slot m).older = []) ∧ (s.fld F.LOOP_ECTL_RUN = 0 ∨ (s.group g).mute = true) := by
  decide +kernel

/-- The hypotheses of clause `groupOverlap` hold together. -/
theorem test_met_groupOverlap :
    let b := State.reset
    let g := 1
    let n := 40
    let o := 2000000
    let s := ((((b.setF (F.LOOP_PGCTL_EN g) 1).setF F.LOOP_ECTL_RUN 1).setF (F.LOOP_PGCTL_TRIG g) 0).setF (F.LOOP_CTL_GROUP n) g).setF (F.LOOP_CTL_MODE n) 1
    let s := s.setT 1000000
    let s := s.setU fun u => { u with loop := { u.loop with slots := (u.loop.slots ++ List.replicate 128 ({} : LoopSlot)).take 128, groups := (u.loop.groups ++ List.replicate 8 ({} : LoopGroup)).take 8, gens := (u.loop.gens ++ List.replicate 4 none).take 4 } }
    let s := s.setU fun u => { u with wall := 1000 * 70000 + 3, loop := { u.loop with groups := updAt u.loop.groups g fun x => { x with active := true, p := 1000, ph := 0, latchW := none, outAt := some o, began := 60 }, slots := updAt u.loop.slots n fun x => { x with holdPending := false, output := some 7, grp := g, began := 60, outAt := o } } }
    Live s ∧ Canon s ∧ LoopWhole s ∧ g < 8 ∧ s.fld (F.LOOP_PGCTL_EN g) = 1 ∧ s.fld F.LOOP_ECTL_RUN = 1 ∧ s.fld (F.LOOP_PGCTL_TRIG g) = 0 ∧ (s.group g).active = true ∧ s.dev.u.wall % 10000 < 4 ∧ s.dev.u.wall / 10000 % (s.group g).p = (s.group g).ph % (s.group g).p ∧ (s.group g).latchW ≠ some (s.dev.u.wall / 10000) ∧ n < 128 ∧ s.fld (F.LOOP_CTL_GROUP n) = g ∧ s.fld (F.LOOP_CTL_MODE n) = 1 ∧ (s.slot n).holdPending = false ∧ (s.group g).older = [] ∧ (s.group g).outAt = some o ∧ s.dev.u.elapsed < o ∧ (s.slot n).older = [] ∧ (s.slot n).output.isSome = true := by
  decide +kernel

/-- The hypotheses of clause `injStart` hold together. -/
theorem test_met_injStart :
    let b := State.reset
    let i := 1
    let s := ((b.setF (F.LOOP_INJCTL_EN i) 0).setF (F.LOOP_INJCTL_TYPE i) (2)).setF (F.LOOP_INJCTL_NODE i) (1)
    let s := s.setU fun u => { u with loop := { u.loop with slots := (u.loop.slots ++ List.replicate 128 ({} : LoopSlot)).take 128, groups := (u.loop.groups ++ List.replicate 8 ({} : LoopGroup)).take 8, gens := (u.loop.gens ++ List.replicate 4 none).take 4 } }
    Live s ∧ Canon s ∧ LoopWhole s ∧ i < 4 ∧ s.fld (F.LOOP_INJCTL_EN i) = 0 ∧ s.fld (F.LOOP_INJCTL_TYPE i) ≠ 3 ∧ s.fld (F.LOOP_INJCTL_NODE i) ≠ 3 := by
  decide +kernel

/-- The hypotheses of clause `injStop` hold together. -/
theorem test_met_injStop :
    let b := State.reset
    let i := 1
    let s := ((b.setF (F.LOOP_INJCTL_EN i) 1).setF (F.LOOP_INJCTL_TYPE i) (2)).setF (F.LOOP_INJCTL_NODE i) (1)
    let s := s.setU fun u => { u with loop := { u.loop with slots := (u.loop.slots ++ List.replicate 128 ({} : LoopSlot)).take 128, groups := (u.loop.groups ++ List.replicate 8 ({} : LoopGroup)).take 8, gens := (u.loop.gens ++ List.replicate 4 none).take 4 } }
    Live s ∧ Canon s ∧ LoopWhole s ∧ i < 4 ∧ s.fld (F.LOOP_INJCTL_EN i) = 1 ∧ s.fld (F.LOOP_INJCTL_TYPE i) ≠ 3 ∧ s.fld (F.LOOP_INJCTL_NODE i) ≠ 3 := by
  decide +kernel

/-- The hypotheses of clause `trcArm` hold together. -/
theorem test_met_trcArm :
    let b := State.reset
    let s := b.setF F.LOOP_TRCCTL_ARM 0
    Live s ∧ Canon s ∧ s.fld F.LOOP_TRCCTL_ARM = 0 := by
  decide +kernel

/-- The hypotheses of clause `trcForce` hold together. -/
theorem test_met_trcForce :
    let b := State.reset
    let c := 1
    let s := (((b.setF F.LOOP_TRCCTL_ARM 1).setF F.LOOP_TRCCTL_START 0).setF F.LOOP_TRCSTAT_ARMED 1).setF F.LOOP_TRCSTAT_TRIGGERED 0
    Live s ∧ Canon s ∧ c < 8 ∧ s.fld F.LOOP_TRCCTL_ARM = 1 ∧ s.fld F.LOOP_TRCCTL_START = 0 ∧ s.fld F.LOOP_TRCSTAT_ARMED = 1 ∧ s.fld F.LOOP_TRCSTAT_TRIGGERED = 0 := by
  decide +kernel

/-- The hypotheses of clause `trcStop` hold together. -/
theorem test_met_trcStop :
    let b := State.reset
    let s := b
    Live s ∧ Canon s := by
  decide +kernel

/-- The hypotheses of clause `ftData` hold together. -/
theorem test_met_ftData :
    let b := State.reset
    let w : Word := BitVec.ofNat 32 (0xFFFF0000 + 20264 * (1))
    let s := (b.setF F.LOOP_FTIDX_ENTRY (if 1 = 0 then 1023 else 36102)).setF F.LOOP_FTIDX_AINC (51940)
    Live s ∧ Canon s ∧ w.toNat / 65536 = 0xFFFF := by
  decide +kernel

/-- The hypotheses of clause `loadUpdate` hold together. -/
theorem test_met_loadUpdate :
    let b := State.reset
    let k := 998
    let s := (b.setT 1000000000000).setU fun u => { u with loop := { u.loop with busy := [(998, 8264 * 100000), (999, 300000)], loadAt := 7, loadN := 998 } }
    Live s ∧ Canon s ∧ s.dev.u.loop.loadN = k ∧ s.dev.u.loop.loadAt + (k + 1) * 1000000000 ≤ s.dev.u.elapsed ∧ s.dev.u.elapsed < s.dev.u.loop.loadAt + (k + 2) * 1000000000 ∧ (∀ x ∈ s.dev.u.loop.busy, k ≤ x.1 ∧ x.2 % 100000 = 0) := by
  decide +kernel

/-- The hypotheses of clause `loadPeak` hold together. -/
theorem test_met_loadPeak :
    let b := State.reset
    let k := 0
    let d := 77
    let s := (b.setT 1000000007).setU fun u => { u with loop := { u.loop with busy := [(0, 7700000)], loadAt := 7 } }
    Live s ∧ Canon s ∧ s.dev.u.loop.loadN = k ∧ s.dev.u.loop.loadAt + (k + 1) * 1000000000 ≤ s.dev.u.elapsed ∧ s.dev.u.elapsed < s.dev.u.loop.loadAt + (k + 2) * 1000000000 ∧ s.dev.u.loop.busy = [(k, d * 100000)] := by
  decide +kernel

/-- The hypotheses of clause `loadEarly` hold together. -/
theorem test_met_loadEarly :
    let b := State.reset
    let s := (b.setT 1000000006).setU fun u => { u with loop := { u.loop with loadAt := 7 } }
    Live s ∧ s.dev.u.elapsed < s.dev.u.loop.loadAt + (s.dev.u.loop.loadN + 1) * 1000000000 := by
  decide +kernel

/-- The hypotheses of clause `bankPeriod` hold together. -/
theorem test_met_bankPeriod :
    let b := State.reset
    let k := 1
    let a := 40
    let st := 100040
    let s := (b.setT (100000 + 62)).setU fun u => { u with vdrv := { u.vdrv with anchor := some a, banks := List.replicate 4 (some 50040) } }
    Live s ∧ Canon s ∧ k < 4 ∧ s.dev.u.vdrv.banks.length = 4 ∧ (s.dev.u.vdrv.anchor = some a ∨ (s.dev.u.vdrv.anchor = none ∧ s.dev.u.wall % 50000 < 4 ∧ a = s.dev.u.elapsed)) ∧ st = s.dev.u.elapsed - (s.dev.u.elapsed - a) % 50000 ∧ (s.dev.u.vdrv.banks.getD k none).all (fun x => decide (x < st)) = true := by
  decide +kernel

/-- The hypotheses of clause `reloadStart` hold together. -/
theorem test_met_reloadStart :
    let b := State.reset
    let n := 25
    let m : CoilMeas := ⟨2264, 1183⟩
    let st := 99
    let s := ((((b.setF (F.VDRV_FAULT_CODE n) 0).setF F.VDRV_CTL_EN 1).setF (F.VDRV_VCOIL_UV (n / 8)) 0).setF (F.VDRV_VCOIL_OV (n / 8)) 0).setT 1000000000
    let s := s.setR R.VDRV_PAIR (s.reg R.VDRV_PAIR &&& ~~~(1#32 <<< (n / 2)))
    let s := s.setU fun u => { u with vdrv := { u.vdrv with chs := (u.vdrv.chs ++ List.replicate 32 ({} : ValveCh)).take 32, banks := (u.vdrv.banks ++ List.replicate 4 none).take 4 } }
    let s := s.setF (domField (88 + n)) 1
    let s := s.setU fun u => { u with vdrv := { u.vdrv with banks := List.replicate 4 (some st) } }
    let s := ((((s.setF (F.VDRV_PROF_TYPE n) 1).setF (F.VDRV_PROF_SETON n) 0).setF (F.VDRV_CMD_ON n) 1).setF (F.VDRV_CSTAT_THLIM n) 0).setF (F.VDRV_BOOSTT_T n) (1 + 36102)
    let s := s.setU fun u => { u with vdrv := { u.vdrv with chs := updAt u.vdrv.chs n fun c => { c with demand := false, reloadAt := some 6348 } } }
    Live s ∧ Canon s ∧ Unpaired s n ∧ s.powered (88 + n) ∧ s.dev.u.vdrv.banks.getD (n / 8) none = some st ∧ st + n % 8 * 6250 ≤ s.dev.u.elapsed ∧ (∀ r ∈ (s.vch n).reloadAt, r < st + n % 8 * 6250) ∧ s.fld (F.VDRV_FAULT_CODE n) = 0 ∧ s.fld F.VDRV_CTL_EN = 1 ∧ s.fld (F.VDRV_VCOIL_UV (n / 8)) = 0 ∧ s.fld (F.VDRV_VCOIL_OV (n / 8)) = 0 ∧ m.mean < 65536 ∧ s.fld (F.VDRV_PROF_TYPE n) = 1 ∧ s.fld (F.VDRV_PROF_SETON n) = 0 ∧ s.fld (F.VDRV_CMD_ON n) = 1 ∧ (s.vch n).demand = false ∧ s.fld (F.VDRV_CSTAT_THLIM n) = 0 ∧ 0 < s.fld (F.VDRV_BOOSTT_T n) ∧ (s.vch n).cycle ≠ some (s.dev.u.elapsed / 10) ∧ (s.vch n).trip = none ∧ (s.vch n).openRun < 63 := by
  decide +kernel

/-- The hypotheses of clause `reloadPair` hold together. -/
theorem test_met_reloadPair :
    let b := State.reset
    let n := 24
    let m : CoilMeas := ⟨2264, 1183⟩
    let st := 99
    let s := ((((b.setF (F.VDRV_FAULT_CODE n) 0).setF F.VDRV_CTL_EN 1).setF (F.VDRV_VCOIL_UV (n / 8)) 0).setF (F.VDRV_VCOIL_OV (n / 8)) 0).setT 1000000000
    let s := s.setR R.VDRV_PAIR (s.reg R.VDRV_PAIR ||| (1#32 <<< (n / 2)))
    let s := s.setU fun u => { u with vdrv := { u.vdrv with chs := (u.vdrv.chs ++ List.replicate 32 ({} : ValveCh)).take 32, banks := (u.vdrv.banks ++ List.replicate 4 none).take 4 } }
    let s := s.setF (domField (88 + n)) 1
    let s := s.setU fun u => { u with vdrv := { u.vdrv with banks := List.replicate 4 (some st) } }
    let s := ((((s.setF (F.VDRV_PROF_TYPE n) 1).setF (F.VDRV_PROF_SETON n) 0).setF (F.VDRV_CMD_ON n) 1).setF (F.VDRV_CSTAT_THLIM n) 0).setF (F.VDRV_BOOSTT_T n) (1 + 36102)
    let s := s.setU fun u => { u with vdrv := { u.vdrv with chs := updAt u.vdrv.chs n fun c => { c with demand := false, reloadAt := some 98 } } }
    Live s ∧ Canon s ∧ PairHead s n ∧ s.powered (88 + n) ∧ s.dev.u.vdrv.banks.getD (n / 8) none = some st ∧ st + n % 8 * 6250 ≤ s.dev.u.elapsed ∧ (∀ r ∈ (s.vch n).reloadAt, r < st + n % 8 * 6250) ∧ s.fld (F.VDRV_FAULT_CODE n) = 0 ∧ s.fld F.VDRV_CTL_EN = 1 ∧ s.fld (F.VDRV_VCOIL_UV (n / 8)) = 0 ∧ s.fld (F.VDRV_VCOIL_OV (n / 8)) = 0 ∧ m.mean < 65536 ∧ s.fld (F.VDRV_PROF_TYPE n) = 1 ∧ s.fld (F.VDRV_PROF_SETON n) = 0 ∧ s.fld (F.VDRV_CMD_ON n) = 1 ∧ (s.vch n).demand = false ∧ s.fld (F.VDRV_CSTAT_THLIM n) = 0 ∧ 0 < s.fld (F.VDRV_BOOSTT_T n) ∧ (s.vch n).cycle ≠ some (s.dev.u.elapsed / 10) ∧ (s.vch n).trip = none ∧ (s.vch n).openRun < 63 := by
  decide +kernel

/-- The hypotheses of clause `reloadRelease` hold together. -/
theorem test_met_reloadRelease :
    let b := State.reset
    let n := 25
    let m : CoilMeas := ⟨2264, 1183⟩
    let st := 99
    let s := ((((b.setF (F.VDRV_FAULT_CODE n) 0).setF F.VDRV_CTL_EN 1).setF (F.VDRV_VCOIL_UV (n / 8)) 0).setF (F.VDRV_VCOIL_OV (n / 8)) 0).setT 1000000000
    let s := s.setR R.VDRV_PAIR (s.reg R.VDRV_PAIR &&& ~~~(1#32 <<< (n / 2)))
    let s := s.setU fun u => { u with vdrv := { u.vdrv with chs := (u.vdrv.chs ++ List.replicate 32 ({} : ValveCh)).take 32, banks := (u.vdrv.banks ++ List.replicate 4 none).take 4 } }
    let s := s.setF (domField (88 + n)) 1
    let s := s.setU fun u => { u with vdrv := { u.vdrv with banks := List.replicate 4 (some st) } }
    let s := ((s.setF (F.VDRV_PROF_SETON n) 0).setF (F.VDRV_CMD_ON n) 0).setF (F.VDRV_PROF_CDEN n) (44021)
    let s := s.setU fun u => { u with vdrv := { u.vdrv with chs := updAt u.vdrv.chs n fun c => { c with phase := 1 + 2, reloadAt := some 6348 } } }
    Live s ∧ Canon s ∧ Unpaired s n ∧ s.powered (88 + n) ∧ s.dev.u.vdrv.banks.getD (n / 8) none = some st ∧ st + n % 8 * 6250 ≤ s.dev.u.elapsed ∧ (∀ r ∈ (s.vch n).reloadAt, r < st + n % 8 * 6250) ∧ s.fld (F.VDRV_FAULT_CODE n) = 0 ∧ s.fld F.VDRV_CTL_EN = 1 ∧ s.fld (F.VDRV_VCOIL_UV (n / 8)) = 0 ∧ s.fld (F.VDRV_VCOIL_OV (n / 8)) = 0 ∧ m.mean < 65536 ∧ s.fld (F.VDRV_PROF_SETON n) = 0 ∧ s.fld (F.VDRV_CMD_ON n) = 0 ∧ 1 ≤ (s.vch n).phase ∧ (s.vch n).phase ≤ 4 ∧ (s.vch n).cycle ≠ some (s.dev.u.elapsed / 10) ∧ (s.vch n).trip = none ∧ (s.vch n).openRun < 63 := by
  decide +kernel

/-- The hypotheses of clause `releasePair` hold together. -/
theorem test_met_releasePair :
    let b := State.reset
    let n := 24
    let m : CoilMeas := ⟨2264, 1183⟩
    let st := 99
    let s := ((((b.setF (F.VDRV_FAULT_CODE n) 0).setF F.VDRV_CTL_EN 1).setF (F.VDRV_VCOIL_UV (n / 8)) 0).setF (F.VDRV_VCOIL_OV (n / 8)) 0).setT 1000000000
    let s := s.setR R.VDRV_PAIR (s.reg R.VDRV_PAIR ||| (1#32 <<< (n / 2)))
    let s := s.setU fun u => { u with vdrv := { u.vdrv with chs := (u.vdrv.chs ++ List.replicate 32 ({} : ValveCh)).take 32, banks := (u.vdrv.banks ++ List.replicate 4 none).take 4 } }
    let s := s.setF (domField (88 + n)) 1
    let s := s.setU fun u => { u with vdrv := { u.vdrv with banks := List.replicate 4 (some st) } }
    let s := ((s.setF (F.VDRV_PROF_SETON n) 0).setF (F.VDRV_CMD_ON n) 0).setF (F.VDRV_PROF_CDEN n) (44021)
    let s := s.setU fun u => { u with vdrv := { u.vdrv with chs := updAt u.vdrv.chs n fun c => { c with phase := 1 + 2, reloadAt := some 98 } } }
    Live s ∧ Canon s ∧ PairHead s n ∧ s.powered (88 + n) ∧ s.dev.u.vdrv.banks.getD (n / 8) none = some st ∧ st + n % 8 * 6250 ≤ s.dev.u.elapsed ∧ (∀ r ∈ (s.vch n).reloadAt, r < st + n % 8 * 6250) ∧ s.fld (F.VDRV_FAULT_CODE n) = 0 ∧ s.fld F.VDRV_CTL_EN = 1 ∧ s.fld (F.VDRV_VCOIL_UV (n / 8)) = 0 ∧ s.fld (F.VDRV_VCOIL_OV (n / 8)) = 0 ∧ m.mean < 65536 ∧ s.fld (F.VDRV_PROF_SETON n) = 0 ∧ s.fld (F.VDRV_CMD_ON n) = 0 ∧ 1 ≤ (s.vch n).phase ∧ (s.vch n).phase ≤ 4 ∧ (s.vch n).cycle ≠ some (s.dev.u.elapsed / 10) ∧ (s.vch n).trip = none ∧ (s.vch n).openRun < 63 := by
  decide +kernel

/-- The hypotheses of clause `reloadTail` hold together. -/
theorem test_met_reloadTail :
    let b := State.reset
    let n := 25
    let m : CoilMeas := ⟨2264, 1183⟩
    let st := 99
    let s := ((((b.setF (F.VDRV_FAULT_CODE n) 0).setF F.VDRV_CTL_EN 1).setF (F.VDRV_VCOIL_UV (n / 8)) 0).setF (F.VDRV_VCOIL_OV (n / 8)) 0).setT 1000000000
    let s := s.setR R.VDRV_PAIR (s.reg R.VDRV_PAIR ||| (1#32 <<< (n / 2)))
    let s := s.setU fun u => { u with vdrv := { u.vdrv with chs := (u.vdrv.chs ++ List.replicate 32 ({} : ValveCh)).take 32, banks := (u.vdrv.banks ++ List.replicate 4 none).take 4 } }
    let s := s.setF (domField (88 + n)) 1
    let s := s.setU fun u => { u with vdrv := { u.vdrv with banks := List.replicate 4 (some st) } }
    let s := ((((s.setF (F.VDRV_PROF_TYPE n) 1).setF (F.VDRV_PROF_SETON n) 0).setF (F.VDRV_CMD_ON n) 1).setF (F.VDRV_CSTAT_THLIM n) 0).setF (F.VDRV_BOOSTT_T n) (1 + 36102)
    let s := s.setU fun u => { u with vdrv := { u.vdrv with chs := updAt u.vdrv.chs n fun c => { c with demand := false, reloadAt := some 98 } } }
    Live s ∧ Canon s ∧ PairTail s n ∧ s.powered (88 + n) ∧ s.dev.u.vdrv.banks.getD (n / 8) none = some st ∧ st + (n - 1) % 8 * 6250 ≤ s.dev.u.elapsed ∧ (∀ r ∈ (s.vch n).reloadAt, r < st + (n - 1) % 8 * 6250) ∧ m.mean < 65536 := by
  decide +kernel

/-- The hypotheses of clause `reloadLate` hold together. -/
theorem test_met_reloadLate :
    let b := State.reset
    let n := 25
    let m : CoilMeas := ⟨2264, 1183⟩
    let st := 99
    let s := ((((b.setF (F.VDRV_FAULT_CODE n) 0).setF F.VDRV_CTL_EN 1).setF (F.VDRV_VCOIL_UV (n / 8)) 0).setF (F.VDRV_VCOIL_OV (n / 8)) 0).setT 1000000000
    let s := s.setR R.VDRV_PAIR (s.reg R.VDRV_PAIR &&& ~~~(1#32 <<< (n / 2)))
    let s := s.setU fun u => { u with vdrv := { u.vdrv with chs := (u.vdrv.chs ++ List.replicate 32 ({} : ValveCh)).take 32, banks := (u.vdrv.banks ++ List.replicate 4 none).take 4 } }
    let s := s.setF (domField (88 + n)) 1
    let s := s.setU fun u => { u with vdrv := { u.vdrv with banks := List.replicate 4 (some st) } }
    let s := ((((s.setF (F.VDRV_PROF_TYPE n) 1).setF (F.VDRV_PROF_SETON n) 0).setF (F.VDRV_CMD_ON n) 1).setF (F.VDRV_CSTAT_THLIM n) 0).setF (F.VDRV_BOOSTT_T n) (1 + 36102)
    let s := s.setU fun u => { u with vdrv := { u.vdrv with chs := updAt u.vdrv.chs n fun c => { c with reloadAt := some 6348, cycle := some 100000000, wasSet := 731, writes := 2, cmdNew := true } } }
    Live s ∧ Canon s ∧ Unpaired s n ∧ s.powered (88 + n) ∧ s.dev.u.vdrv.banks.getD (n / 8) none = some st ∧ st + n % 8 * 6250 ≤ s.dev.u.elapsed ∧ (∀ r ∈ (s.vch n).reloadAt, r < st + n % 8 * 6250) ∧ s.fld (F.VDRV_FAULT_CODE n) = 0 ∧ (s.vch n).trip = none ∧ (s.vch n).openRun < 63 ∧ (s.vch n).cycle = some (s.dev.u.elapsed / 10) ∧ 0 < (s.vch n).writes := by
  decide +kernel

/-- The hypotheses of clause `boostEnd` hold together. -/
theorem test_met_boostEnd :
    let b := State.reset
    let n := 25
    let cur := 264
    let rl := 5
    let s := (b.setT 1000000000).setF (F.VDRV_PROF_OLEN n) (59859)
    let s := s.setR R.VDRV_PAIR (s.reg R.VDRV_PAIR &&& ~~~(1#32 <<< (n / 2)))
    let s := s.setU fun u => { u with vdrv := { u.vdrv with chs := (u.vdrv.chs ++ List.replicate 32 ({} : ValveCh)).take 32, banks := (u.vdrv.banks ++ List.replicate 4 none).take 4 } }
    let s := s.setF (domField (88 + n)) 1
    let s := s.setU fun u => { u with vdrv := { u.vdrv with chs := updAt u.vdrv.chs n fun c => { c with phase := 1, reloadAt := some rl, left := 33, boost := cur } } }
    let s := s.setF (F.VDRV_PROF_TYPE n) (1 + 0)
    Live s ∧ Canon s ∧ Unpaired s n ∧ (s.vch n).phase = 1 ∧ (s.vch n).reloadAt = some rl ∧ rl + (s.vch n).left * 50000 ≤ s.dev.u.elapsed ∧ (s.fld (F.VDRV_PROF_OLEN n) = 0 ∨ (s.vch n).boost ≤ 2 * max (s.vch n).peak cur) := by
  decide +kernel

/-- The hypotheses of clause `boostPair` hold together. -/
theorem test_met_boostPair :
    let b := State.reset
    let n := 24
    let cur := 264
    let rl := 5
    let s := (b.setT 1000000000).setF (F.VDRV_PROF_OLEN n) (59859)
    let s := s.setR R.VDRV_PAIR (s.reg R.VDRV_PAIR ||| (1#32 <<< (n / 2)))
    let s := s.setU fun u => { u with vdrv := { u.vdrv with chs := (u.vdrv.chs ++ List.replicate 32 ({} : ValveCh)).take 32, banks := (u.vdrv.banks ++ List.replicate 4 none).take 4 } }
    let s := s.setF (domField (88 + n)) 1
    let s := s.setU fun u => { u with vdrv := { u.vdrv with chs := updAt u.vdrv.chs n fun c => { c with phase := 1, reloadAt := some rl, left := 33, boost := cur } } }
    let s := s.setF (F.VDRV_PROF_TYPE n) (1 + 0)
    Live s ∧ Canon s ∧ PairHead s n ∧ (s.vch n).phase = 1 ∧ (s.vch n).reloadAt = some rl ∧ rl + (s.vch n).left * 50000 ≤ s.dev.u.elapsed ∧ (s.fld (F.VDRV_PROF_OLEN n) = 0 ∨ (s.vch n).boost ≤ 2 * max (s.vch n).peak cur) := by
  decide +kernel

/-- The hypotheses of clause `boostOpen` hold together. -/
theorem test_met_boostOpen :
    let b := State.reset
    let n := 25
    let cur := 264
    let rl := 5
    let s := ((b.setT 1000000000).setF (F.VDRV_PROF_OLEN n) 1).setF (F.VDRV_FAULT_CODE n) 0
    let s := s.setR R.VDRV_PAIR (s.reg R.VDRV_PAIR &&& ~~~(1#32 <<< (n / 2)))
    let s := s.setU fun u => { u with vdrv := { u.vdrv with chs := (u.vdrv.chs ++ List.replicate 32 ({} : ValveCh)).take 32, banks := (u.vdrv.banks ++ List.replicate 4 none).take 4 } }
    let s := s.setF (domField (88 + n)) 1
    let s := s.setU fun u => { u with vdrv := { u.vdrv with chs := updAt u.vdrv.chs n fun c => { c with phase := 1, reloadAt := some rl, left := 33, boost := 1001, peak := 3 } } }
    Live s ∧ Canon s ∧ Unpaired s n ∧ (s.vch n).phase = 1 ∧ (s.vch n).reloadAt = some rl ∧ rl + (s.vch n).left * 50000 ≤ s.dev.u.elapsed ∧ s.fld (F.VDRV_PROF_OLEN n) = 1 ∧ 2 * max (s.vch n).peak cur < (s.vch n).boost ∧ s.fld (F.VDRV_FAULT_CODE n) = 0 := by
  decide +kernel

/-- The hypotheses of clause `boostOpenPair` hold together. -/
theorem test_met_boostOpenPair :
    let b := State.reset
    let n := 24
    let cur := 264
    let rl := 5
    let s := ((b.setT 1000000000).setF (F.VDRV_PROF_OLEN n) 1).setF (F.VDRV_FAULT_CODE n) 0
    let s := s.setR R.VDRV_PAIR (s.reg R.VDRV_PAIR ||| (1#32 <<< (n / 2)))
    let s := s.setU fun u => { u with vdrv := { u.vdrv with chs := (u.vdrv.chs ++ List.replicate 32 ({} : ValveCh)).take 32, banks := (u.vdrv.banks ++ List.replicate 4 none).take 4 } }
    let s := s.setF (domField (88 + n)) 1
    let s := s.setU fun u => { u with vdrv := { u.vdrv with chs := updAt u.vdrv.chs n fun c => { c with phase := 1, reloadAt := some rl, left := 33, boost := 1001, peak := 3 } } }
    Live s ∧ Canon s ∧ PairHead s n ∧ (s.vch n).phase = 1 ∧ (s.vch n).reloadAt = some rl ∧ rl + (s.vch n).left * 50000 ≤ s.dev.u.elapsed ∧ s.fld (F.VDRV_PROF_OLEN n) = 1 ∧ 2 * max (s.vch n).peak cur < (s.vch n).boost ∧ s.fld (F.VDRV_FAULT_CODE n) = 0 := by
  decide +kernel

/-- The hypotheses of clause `boostTail` hold together. -/
theorem test_met_boostTail :
    let b := State.reset
    let n := 25
    let cur := 264
    let s := b
    let s := s.setU fun u => { u with vdrv := { u.vdrv with chs := (u.vdrv.chs ++ List.replicate 32 ({} : ValveCh)).take 32 } }
    let s := s.setR R.VDRV_PAIR (s.reg R.VDRV_PAIR ||| (1#32 <<< (n / 2)))
    Live s ∧ PairTail s n := by
  decide +kernel

/-- The hypotheses of clause `cmdOn` hold together. -/
theorem test_met_cmdOn :
    let b := State.reset
    let n := 25
    let s := ((b.setF (F.VDRV_PROF_SETON n) 0).setF (F.VDRV_PROF_TYPE n) (1 + 0)).setF (F.VDRV_FAULT_CODE n) 0
    let s := s.setR R.VDRV_PAIR (s.reg R.VDRV_PAIR &&& ~~~(1#32 <<< (n / 2)))
    let s := s.setU fun u => { u with vdrv := { u.vdrv with chs := (u.vdrv.chs ++ List.replicate 32 ({} : ValveCh)).take 32, banks := (u.vdrv.banks ++ List.replicate 4 none).take 4 } }
    let s := s.setF (domField (88 + n)) 1
    Live s ∧ Canon s ∧ Unpaired s n ∧ s.powered (88 + n) ∧ s.fld (F.VDRV_PROF_SETON n) = 0 ∧ (s.fld (F.VDRV_PROF_TYPE n) = 1 ∨ s.fld (F.VDRV_PROF_TYPE n) = 2) ∧ s.fld (F.VDRV_FAULT_CODE n) = 0 := by
  decide +kernel

/-- The hypotheses of clause `cmdTail` hold together. -/
theorem test_met_cmdTail :
    let b := State.reset
    let n := 25
    let s := ((b.setF (F.VDRV_PROF_SETON n) 0).setF (F.VDRV_PROF_TYPE n) (1 + 0)).setF (F.VDRV_FAULT_CODE n) 0
    let s := s.setR R.VDRV_PAIR (s.reg R.VDRV_PAIR ||| (1#32 <<< (n / 2)))
    let s := s.setU fun u => { u with vdrv := { u.vdrv with chs := (u.vdrv.chs ++ List.replicate 32 ({} : ValveCh)).take 32, banks := (u.vdrv.banks ++ List.replicate 4 none).take 4 } }
    let s := s.setF (domField (88 + n)) 1
    Live s ∧ Canon s ∧ PairTail s n ∧ s.powered (88 + n) := by
  decide +kernel

/-- The hypotheses of clause `closingFound` hold together. -/
theorem test_met_closingFound :
    let b := State.reset
    let n := 25
    let x : Closing := { since := 4, k := 12 + 4, avg := 500, slope := 3 }
    let v : Nat := 60000
    let s := ((b.setT 1000000000).setF (F.VDRV_CDCFG_WIN n) 40).setF (F.VDRV_CDCFG_THR n) 5
    let s := s.setR R.VDRV_PAIR (s.reg R.VDRV_PAIR &&& ~~~(1#32 <<< (n / 2)))
    let s := s.setU fun u => { u with vdrv := { u.vdrv with chs := (u.vdrv.chs ++ List.replicate 32 ({} : ValveCh)).take 32, banks := (u.vdrv.banks ++ List.replicate 4 none).take 4 } }
    let s := s.setF (domField (88 + n)) 1
    let s := s.setU fun u => { u with vdrv := { u.vdrv with chs := updAt u.vdrv.chs n fun c => { c with search := some x } } }
    Live s ∧ Canon s ∧ Unpaired s n ∧ (s.vch n).search = some x ∧ x.since + (x.k + 1) * 20000 ≤ s.dev.u.elapsed ∧ (x.k + 1) * 20000 ≤ max 1 (s.fld (F.VDRV_CDCFG_WIN n)) * 500000 ∧ 12 ≤ x.k ∧ (max 1 (s.fld (F.VDRV_CDCFG_THR n)) * 100 : Nat) < |(v : Int) - x.avg - x.slope| ∧ (x.k + 1) * 20 < 65536 ∧ v ≤ 70000 := by
  decide +kernel

/-- The hypotheses of clause `closingPair` hold together. -/
theorem test_met_closingPair :
    let b := State.reset
    let n := 24
    let x : Closing := { since := 4, k := 12 + 4, avg := 500, slope := 3 }
    let v : Nat := 60000
    let s := ((b.setT 1000000000).setF (F.VDRV_CDCFG_WIN n) 40).setF (F.VDRV_CDCFG_THR n) 5
    let s := s.setR R.VDRV_PAIR (s.reg R.VDRV_PAIR ||| (1#32 <<< (n / 2)))
    let s := s.setU fun u => { u with vdrv := { u.vdrv with chs := (u.vdrv.chs ++ List.replicate 32 ({} : ValveCh)).take 32, banks := (u.vdrv.banks ++ List.replicate 4 none).take 4 } }
    let s := s.setF (domField (88 + n)) 1
    let s := s.setU fun u => { u with vdrv := { u.vdrv with chs := updAt u.vdrv.chs n fun c => { c with search := some x } } }
    Live s ∧ Canon s ∧ PairHead s n ∧ (s.vch n).search = some x ∧ x.since + (x.k + 1) * 20000 ≤ s.dev.u.elapsed ∧ (x.k + 1) * 20000 ≤ max 1 (s.fld (F.VDRV_CDCFG_WIN n)) * 500000 ∧ 12 ≤ x.k ∧ (max 1 (s.fld (F.VDRV_CDCFG_THR n)) * 100 : Nat) < |(v : Int) - x.avg - x.slope| ∧ (x.k + 1) * 20 < 65536 ∧ v ≤ 70000 := by
  decide +kernel

/-- The hypotheses of clause `coilOverRating` hold together. -/
theorem test_met_coilOverRating :
    let v := 7001
    let s := State.reset
    Live s ∧ 7000 < v := by
  decide +kernel

/-- The hypotheses of clause `closingNext` hold together. -/
theorem test_met_closingNext :
    let b := State.reset
    let n := 25
    let x : Closing := { since := 4, k := 8, avg := 500, slope := 3 }
    let s := (b.setT 1000000000).setF (F.VDRV_CDCFG_WIN n) 40
    let s := s.setR R.VDRV_PAIR (s.reg R.VDRV_PAIR &&& ~~~(1#32 <<< (n / 2)))
    let s := s.setU fun u => { u with vdrv := { u.vdrv with chs := (u.vdrv.chs ++ List.replicate 32 ({} : ValveCh)).take 32, banks := (u.vdrv.banks ++ List.replicate 4 none).take 4 } }
    let s := s.setF (domField (88 + n)) 1
    let s := s.setU fun u => { u with vdrv := { u.vdrv with chs := updAt u.vdrv.chs n fun c => { c with search := some x } } }
    let v : Nat := 500
    Live s ∧ Canon s ∧ Unpaired s n ∧ (s.vch n).search = some x ∧ x.since + (x.k + 1) * 20000 ≤ s.dev.u.elapsed ∧ (x.k + 1) * 20000 ≤ max 1 (s.fld (F.VDRV_CDCFG_WIN n)) * 500000 ∧ x.k < 12 ∧ v ≤ 70000 := by
  decide +kernel

/-- The hypotheses of clause `closingMissed` hold together. -/
theorem test_met_closingMissed :
    let b := State.reset
    let n := 25
    let x : Closing := { since := 4, k := 8, avg := 500, slope := 3 }
    let s := b.setT 1000000000
    let s := s.setR R.VDRV_PAIR (s.reg R.VDRV_PAIR &&& ~~~(1#32 <<< (n / 2)))
    let s := s.setU fun u => { u with vdrv := { u.vdrv with chs := (u.vdrv.chs ++ List.replicate 32 ({} : ValveCh)).take 32, banks := (u.vdrv.banks ++ List.replicate 4 none).take 4 } }
    let s := s.setF (domField (88 + n)) 1
    let s := s.setU fun u => { u with vdrv := { u.vdrv with chs := updAt u.vdrv.chs n fun c => { c with search := some x } } }
    Live s ∧ Canon s ∧ Unpaired s n ∧ (s.vch n).search = some x ∧ x.since + max 1 (s.fld (F.VDRV_CDCFG_WIN n)) * 500000 ≤ s.dev.u.elapsed := by
  decide +kernel

/-- The hypotheses of clause `coilTick` hold together. -/
theorem test_met_coilTick :
    let b := State.reset
    let n := 25
    let ta : Int := 250 - (264 : Nat)
    let s := (((b.setT 1000000000).setF F.VDRV_TAMB_SRC 0).setF (F.THM_TEMP_T 4) (ofSigned 16 (ta * 10))).setF (F.VDRV_RCOLD_RC n) (1 + 3183)
    let s := s.setR R.VDRV_PAIR (s.reg R.VDRV_PAIR &&& ~~~(1#32 <<< (n / 2)))
    let s := s.setU fun u => { u with vdrv := { u.vdrv with chs := (u.vdrv.chs ++ List.replicate 32 ({} : ValveCh)).take 32, banks := (u.vdrv.banks ++ List.replicate 4 none).take 4 } }
    let s := s.setF (domField (88 + n)) 1
    let s := if 0 = 0 then s.setF (domField (88 + n)) 0 else s
    let s := s.setU fun u => { u with vdrv := { u.vdrv with chs := updAt u.vdrv.chs n fun c => { c with tw := 30, tb := 25 } } }
    let s := s.setU fun u => { u with vdrv := { u.vdrv with tickAt := 8 } }
    let c := s.vch n
    let i : ℚ := (if s.powered (88 + n) then (s.fld (F.VDRV_MEAS_I n) : ℚ) / 1000 else 0)
    let p := i * i * ((s.fld (F.VDRV_RCOLD_RC n) : ℚ) / 100 * (1 + 393 / 100000 * (c.tw - 20)))
    Live s ∧ Canon s ∧ Unpaired s n ∧ s.dev.u.vdrv.tickAt + 1000000 ≤ s.dev.u.elapsed ∧ s.fld F.VDRV_TAMB_SRC = 0 ∧ s.fld (F.THM_TEMP_T 4) ≠ 0x8000 ∧ toSigned 16 (s.fld (F.THM_TEMP_T 4)) = ta * 10 ∧ s.fld (F.VDRV_RCOLD_RC n) ≠ 0 ∧ c = s.vch n ∧ i = (if s.powered (88 + n) then (s.fld (F.VDRV_MEAS_I n) : ℚ) / 1000 else 0) ∧ p = i * i * ((s.fld (F.VDRV_RCOLD_RC n) : ℚ) / 100 * (1 + 393 / 100000 * (c.tw - 20))) := by
  decide +kernel

/-- The hypotheses of clause `coilPair` hold together. -/
theorem test_met_coilPair :
    let b := State.reset
    let n := 24
    let ta : Int := 250 - (264 : Nat)
    let s := (((b.setT 1000000000).setF F.VDRV_TAMB_SRC 0).setF (F.THM_TEMP_T 4) (ofSigned 16 (ta * 10))).setF (F.VDRV_RCOLD_RC n) (1 + 3183)
    let s := s.setR R.VDRV_PAIR (s.reg R.VDRV_PAIR ||| (1#32 <<< (n / 2)))
    let s := s.setU fun u => { u with vdrv := { u.vdrv with chs := (u.vdrv.chs ++ List.replicate 32 ({} : ValveCh)).take 32, banks := (u.vdrv.banks ++ List.replicate 4 none).take 4 } }
    let s := s.setF (domField (88 + n)) 1
    let s := if 0 = 0 then s.setF (domField (88 + n)) 0 else s
    let s := s.setU fun u => { u with vdrv := { u.vdrv with chs := updAt u.vdrv.chs n fun c => { c with tw := 30, tb := 25 } } }
    let s := s.setU fun u => { u with vdrv := { u.vdrv with tickAt := 8 } }
    let c := s.vch n
    let i : ℚ := (if s.powered (88 + n) then (s.fld (F.VDRV_MEAS_I n) : ℚ) / 1000 else 0)
    let p := i * i * ((s.fld (F.VDRV_RCOLD_RC n) : ℚ) / 100 * (1 + 393 / 100000 * (c.tw - 20)))
    Live s ∧ Canon s ∧ PairHead s n ∧ s.dev.u.vdrv.tickAt + 1000000 ≤ s.dev.u.elapsed ∧ s.fld F.VDRV_TAMB_SRC = 0 ∧ s.fld (F.THM_TEMP_T 4) ≠ 0x8000 ∧ toSigned 16 (s.fld (F.THM_TEMP_T 4)) = ta * 10 ∧ s.fld (F.VDRV_RCOLD_RC n) ≠ 0 ∧ c = s.vch n ∧ i = (if s.powered (88 + n) then (s.fld (F.VDRV_MEAS_I n) : ℚ) / 1000 else 0) ∧ p = i * i * ((s.fld (F.VDRV_RCOLD_RC n) : ℚ) / 100 * (1 + 393 / 100000 * (c.tw - 20))) := by
  decide +kernel

/-- The hypotheses of clause `coilRes` hold together. -/
theorem test_met_coilRes :
    let b := State.reset
    let n := 25
    let i := 100 * (1 + 14)
    let q := 28183
    let v := q * (1 + 14)
    let s := b.setF (F.VDRV_RCOLD_RC n) (1 + 102)
    let s := s.setR R.VDRV_PAIR (s.reg R.VDRV_PAIR &&& ~~~(1#32 <<< (n / 2)))
    let s := s.setU fun u => { u with vdrv := { u.vdrv with chs := (u.vdrv.chs ++ List.replicate 32 ({} : ValveCh)).take 32, banks := (u.vdrv.banks ++ List.replicate 4 none).take 4 } }
    let s := s.setF (domField (88 + n)) 1
    let s := s.setU fun u => { u with vdrv := { u.vdrv with chs := updAt u.vdrv.chs n fun c => { c with phase := 2 + 1, steady := 64 } } }
    Live s ∧ Canon s ∧ Unpaired s n ∧ ((s.vch n).phase = 2 ∨ (s.vch n).phase = 3) ∧ 64 ≤ (s.vch n).steady ∧ 0 < i ∧ v * 100 = q * i ∧ q < 65536 ∧ s.fld (F.VDRV_RCOLD_RC n) ≠ 0 := by
  decide +kernel

/-- The hypotheses of clause `coilResPair` hold together. -/
theorem test_met_coilResPair :
    let b := State.reset
    let n := 24
    let i := 100 * (1 + 14)
    let q := 28183
    let v := q * (1 + 14)
    let s := b.setF (F.VDRV_RCOLD_RC n) (1 + 102)
    let s := s.setR R.VDRV_PAIR (s.reg R.VDRV_PAIR ||| (1#32 <<< (n / 2)))
    let s := s.setU fun u => { u with vdrv := { u.vdrv with chs := (u.vdrv.chs ++ List.replicate 32 ({} : ValveCh)).take 32, banks := (u.vdrv.banks ++ List.replicate 4 none).take 4 } }
    let s := s.setF (domField (88 + n)) 1
    let s := s.setU fun u => { u with vdrv := { u.vdrv with chs := updAt u.vdrv.chs n fun c => { c with phase := 2 + 1, steady := 64 } } }
    Live s ∧ Canon s ∧ PairHead s n ∧ ((s.vch n).phase = 2 ∨ (s.vch n).phase = 3) ∧ 64 ≤ (s.vch n).steady ∧ 0 < i ∧ v * 100 = q * i ∧ q < 65536 ∧ s.fld (F.VDRV_RCOLD_RC n) ≠ 0 := by
  decide +kernel

/-- The hypotheses of clause `shortTrip` hold together. -/
theorem test_met_shortTrip :
    let b := State.reset
    let n := 25
    let i := 6000
    let code := 1
    let rl := 1000000
    let leg := 0
    let s := (b.setF (F.VDRV_FAULT_CODE n) 0).setT 1002001
    let s := s.setR R.VDRV_PAIR (s.reg R.VDRV_PAIR &&& ~~~(1#32 <<< (n / 2)))
    let s := s.setU fun u => { u with vdrv := { u.vdrv with chs := (u.vdrv.chs ++ List.replicate 32 ({} : ValveCh)).take 32, banks := (u.vdrv.banks ++ List.replicate 4 none).take 4 } }
    let s := s.setF (domField (88 + n)) 1
    let s := s.setU fun u => { u with vdrv := { u.vdrv with chs := updAt u.vdrv.chs n fun c => { c with phase := 1 + 2, duty := 500, reloadAt := some rl } } }
    Live s ∧ Canon s ∧ Unpaired s n ∧ s.powered (88 + n) ∧ 1 ≤ (s.vch n).phase ∧ (s.vch n).phase ≤ 4 ∧ (s.vch n).reloadAt = some rl ∧ s.dev.u.elapsed - rl < (s.vch n).duty * 5 ∧ ((12000 ≤ i ∧ code = 2) ∨ (6000 ≤ i ∧ i < 12000 ∧ rl + 2000 ≤ s.dev.u.elapsed ∧ code = 1)) ∧ (s.vch n).trip = none ∧ s.fld (F.VDRV_FAULT_CODE n) = 0 := by
  decide +kernel

/-- The hypotheses of clause `shortBlank` hold together. -/
theorem test_met_shortBlank :
    let b := State.reset
    let n := 24
    let i := 11999
    let rl := 1000000
    let s := b.setT 1001999
    let s := s.setU fun u => { u with vdrv := { u.vdrv with chs := (u.vdrv.chs ++ List.replicate 32 ({} : ValveCh)).take 32, banks := (u.vdrv.banks ++ List.replicate 4 none).take 4 } }
    let s := s.setR R.VDRV_PAIR (s.reg R.VDRV_PAIR &&& ~~~(1#32 <<< (n / 2)))
    let s := s.setU fun u => { u with vdrv := { u.vdrv with chs := updAt u.vdrv.chs n fun c => { c with phase := 2, duty := 500, reloadAt := some rl } } }
    Live s ∧ Canon s ∧ i < 12000 ∧ (s.vch n).reloadAt = some rl ∧ s.dev.u.elapsed < rl + 2000 ∧ bitAt (s.reg R.VDRV_PAIR).toNat (n / 2) = false := by
  decide +kernel

/-- The hypotheses of clause `pairTrip` hold together. -/
theorem test_met_pairTrip :
    let b := State.reset
    let n := 24
    let i := 12000
    let leg := 1
    let rl := 1000000
    let s := b.setT 1000999
    let s := s.setU fun u => { u with vdrv := { u.vdrv with chs := (u.vdrv.chs ++ List.replicate 32 ({} : ValveCh)).take 32, banks := (u.vdrv.banks ++ List.replicate 4 none).take 4 } }
    let s := s.setR R.VDRV_PAIR (s.reg R.VDRV_PAIR ||| (1#32 <<< (n / 2)))
    let s := s.setF (domField (88 + n)) 1
    let s := s.setU fun u => { u with vdrv := { u.vdrv with chs := updAt u.vdrv.chs n fun c => { c with phase := 2, duty := 500, reloadAt := some rl } } }
    Live s ∧ Canon s ∧ n < 32 ∧ n % 2 = 0 ∧ bitAt (s.reg R.VDRV_PAIR).toNat (n / 2) = true ∧ s.dev.u.vdrv.chs.length = 32 ∧ s.powered (88 + n) ∧ 1 ≤ (s.vch n).phase ∧ (s.vch n).phase ≤ 4 ∧ (s.vch n).reloadAt = some rl ∧ s.dev.u.elapsed - rl < (s.vch n).duty * 5 ∧ 12000 ≤ i ∧ leg < 2 ∧ (s.vch n).trip = none := by
  decide +kernel

/-- The hypotheses of clause `pairShort` hold together. -/
theorem test_met_pairShort :
    let b := State.reset
    let n := 24
    let i := 12000
    let leg := 1
    let l := 0
    let k := 2
    let st := 1000000
    let s := (b.setT 1001000).setF (F.VDRV_FAULT_CODE n) 0
    let s := s.setU fun u => { u with vdrv := { u.vdrv with chs := (u.vdrv.chs ++ List.replicate 32 ({} : ValveCh)).take 32, banks := (u.vdrv.banks ++ List.replicate 4 none).take 4 } }
    let s := s.setR R.VDRV_PAIR (s.reg R.VDRV_PAIR ||| (1#32 <<< (n / 2)))
    let s := s.setF (domField (88 + n)) 1
    let s := s.setU fun u => { u with vdrv := { u.vdrv with chs := updAt u.vdrv.chs n fun c => { c with phase := 5, trip := some (l, k, st) } } }
    Live s ∧ Canon s ∧ n < 32 ∧ n % 2 = 0 ∧ bitAt (s.reg R.VDRV_PAIR).toNat (n / 2) = true ∧ s.dev.u.vdrv.chs.length = 32 ∧ s.powered (88 + n) ∧ (s.vch n).trip = some (l, k, st) ∧ l ≠ leg ∧ leg < 2 ∧ s.dev.u.elapsed ≤ st + 1000 ∧ 12000 ≤ i ∧ s.fld (F.VDRV_FAULT_CODE n) = 0 := by
  decide +kernel

/-- The hypotheses of clause `clearFault` hold together. -/
theorem test_met_clearFault :
    let b := State.reset
    let n := 25
    let s := (b.setF (F.VDRV_FAULT_CODE n) (1 + 4)).setF (F.VDRV_MEAS_I n) (1)
    let s := s.setR R.VDRV_PAIR (s.reg R.VDRV_PAIR &&& ~~~(1#32 <<< (n / 2)))
    let s := s.setU fun u => { u with vdrv := { u.vdrv with chs := (u.vdrv.chs ++ List.replicate 32 ({} : ValveCh)).take 32, banks := (u.vdrv.banks ++ List.replicate 4 none).take 4 } }
    let s := s.setF (domField (88 + n)) 1
    Live s ∧ Canon s ∧ Unpaired s n ∧ s.powered (88 + n) ∧ s.fld (F.VDRV_FAULT_CODE n) ≠ 0 := by
  decide +kernel

/-- The hypotheses of clause `clearPair` hold together. -/
theorem test_met_clearPair :
    let b := State.reset
    let n := 24
    let s := (b.setF (F.VDRV_FAULT_CODE n) (1 + 4)).setF (F.VDRV_MEAS_I n) (1)
    let s := s.setR R.VDRV_PAIR (s.reg R.VDRV_PAIR ||| (1#32 <<< (n / 2)))
    let s := s.setU fun u => { u with vdrv := { u.vdrv with chs := (u.vdrv.chs ++ List.replicate 32 ({} : ValveCh)).take 32, banks := (u.vdrv.banks ++ List.replicate 4 none).take 4 } }
    let s := s.setF (domField (88 + n)) 1
    Live s ∧ Canon s ∧ PairHead s n ∧ s.powered (88 + n) ∧ s.fld (F.VDRV_FAULT_CODE n) ≠ 0 := by
  decide +kernel

/-- The hypotheses of clause `supplyLost` hold together. -/
theorem test_met_supplyLost :
    let b := State.reset
    let k := 1
    let v := 464
    let n := 8 * k
    let s := b
    let s := s.setR R.VDRV_PAIR (s.reg R.VDRV_PAIR &&& ~~~(1#32 <<< (n / 2)))
    let s := s.setU fun u => { u with vdrv := { u.vdrv with chs := (u.vdrv.chs ++ List.replicate 32 ({} : ValveCh)).take 32, banks := (u.vdrv.banks ++ List.replicate 4 none).take 4 } }
    let s := s.setF (domField (88 + n)) 1
    let s := s.setU fun u => { u with vdrv := { u.vdrv with chs := updAt u.vdrv.chs n fun c => { c with phase := 2, duty := 444 } } }
    Live s ∧ Canon s ∧ k < 4 ∧ v < 600 ∧ s.dev.u.vdrv.chs.length = 32 := by
  decide +kernel

/-- The hypotheses of clause `supplyBack` hold together. -/
theorem test_met_supplyBack :
    let b := State.reset
    let k := 1
    let v := 650 + 2711
    let n := 8 * k
    let s := b.setF (F.VDRV_VCOIL_UV k) 1
    let s := s.setR R.VDRV_PAIR (s.reg R.VDRV_PAIR &&& ~~~(1#32 <<< (n / 2)))
    let s := s.setU fun u => { u with vdrv := { u.vdrv with chs := (u.vdrv.chs ++ List.replicate 32 ({} : ValveCh)).take 32, banks := (u.vdrv.banks ++ List.replicate 4 none).take 4 } }
    let s := s.setF (domField (88 + n)) 1
    Live s ∧ Canon s ∧ k < 4 ∧ 650 ≤ v ∧ v ≤ 6500 ∧ s.dev.u.vdrv.chs.length = 32 ∧ (s.fld (F.VDRV_VCOIL_UV k) = 1 ∨ s.fld (F.VDRV_VCOIL_OV k) = 1) := by
  decide +kernel

/-- The hypotheses of clause `enableClear` hold together. -/
theorem test_met_enableClear :
    let b := State.reset
    let n := 25
    let s := b.setF F.VDRV_CTL_EN 1
    let s := s.setR R.VDRV_PAIR (s.reg R.VDRV_PAIR &&& ~~~(1#32 <<< (n / 2)))
    let s := s.setU fun u => { u with vdrv := { u.vdrv with chs := (u.vdrv.chs ++ List.replicate 32 ({} : ValveCh)).take 32, banks := (u.vdrv.banks ++ List.replicate 4 none).take 4 } }
    let s := s.setF (domField (88 + n)) 1
    let s := s.setU fun u => { u with vdrv := { u.vdrv with chs := updAt u.vdrv.chs n fun c => { c with phase := 1 + 0, duty := 444 } } }
    Live s ∧ Canon s ∧ s.fld F.VDRV_CTL_EN = 1 ∧ s.dev.u.vdrv.chs.length = 32 := by
  decide +kernel

/-- The hypotheses of clause `enableSet` hold together. -/
theorem test_met_enableSet :
    let b := State.reset
    let n := 25
    let s := b.setF F.VDRV_CTL_EN 0
    let s := s.setR R.VDRV_PAIR (s.reg R.VDRV_PAIR &&& ~~~(1#32 <<< (n / 2)))
    let s := s.setU fun u => { u with vdrv := { u.vdrv with chs := (u.vdrv.chs ++ List.replicate 32 ({} : ValveCh)).take 32, banks := (u.vdrv.banks ++ List.replicate 4 none).take 4 } }
    let s := s.setF (domField (88 + n)) 1
    Live s ∧ Canon s ∧ s.fld F.VDRV_CTL_EN = 0 ∧ s.dev.u.vdrv.chs.length = 32 := by
  decide +kernel

/-- The hypotheses of clause `fanFreq` hold together. -/
theorem test_met_fanFreq :
    let b := State.reset
    let f := 57
    let s := b
    Live s ∧ Canon s ∧ f < 64 := by
  decide +kernel

/-- The hypotheses of clause `fanZero` hold together. -/
theorem test_met_fanZero :
    let b := State.reset
    let n := 0
    let k := 1 + 3
    let s := b
    let s := s.setU fun u => { u with fan := { u.fan with chs := (u.fan.chs ++ List.replicate 8 ({} : FanCh)).take 8 } }
    let s := s.setF (domField (120 + n)) 1
    let s := s.setU fun u => { u with fan := { u.fan with chs := updAt u.fan.chs n fun c => { c with nextAt := some 777 } } }
    let s := s.setT 780
    let st := 777
    let p := 100000000 / max 20 (min 60 (s.fld F.FAN_FREQ_F))
    Live s ∧ Canon s ∧ s.dev.u.fan.chs.length = 8 ∧ st = (s.fch 0).nextAt.getD s.dev.u.elapsed ∧ st ≤ s.dev.u.elapsed ∧ p = 100000000 / max 20 (min 60 (s.fld F.FAN_FREQ_F)) ∧ 1 ≤ k ∧ k < 8 := by
  decide +kernel

/-- The hypotheses of clause `fanRamp` hold together. -/
theorem test_met_fanRamp :
    let b := State.reset
    let n := 5
    let m : FanMeas := ⟨264, 183⟩
    let b := b.setT 9000
    let s := (((b.setF F.FAN_CTL_EN 1).setF (F.FAN_FAULT_CODE n) 0).setF (F.FAN_CHCTL_OLEN n) 0).setF F.FAN_COOL_EN 0
    let s := (((s.setF (F.FAN_SKIPHI_HI n 0) 0).setF (F.FAN_SKIPHI_HI n 1) 0).setF (F.FAN_SKIPHI_HI n 2) 0).setF (F.FAN_SKIPHI_HI n 3) 0
    let s := (s.setF (F.FAN_APPLIED_DUTY n) (4017)).setF (F.FAN_RAMP_RATE n) (40)
    let s := s.setU fun u => { u with fan := { u.fan with chs := (u.fan.chs ++ List.replicate 8 ({} : FanCh)).take 8 } }
    let s := s.setF (domField (120 + n)) 1
    let s := s.setU fun u => { u with fan := { u.fan with chs := updAt u.fan.chs n fun c => { c with nextAt := some 70, reloadAt := some 20, onStart := 20, measuring := true, pairSeen := true, means := [(3300, 40), (12, 90)] } } }
    Live s ∧ Canon s ∧ s.dev.u.fan.chs.length = 8 ∧ n < 8 ∧ s.powered (120 + n) ∧ (n = 0 ∨ (s.fch n).nextAt ≠ none) ∧ (∀ x ∈ (s.fch n).nextAt, x ≤ s.dev.u.elapsed) ∧ s.fld F.FAN_CTL_EN = 1 ∧ s.fld (F.FAN_FAULT_CODE n) = 0 ∧ ((s.fch n).measuring = false ∨ (s.fch n).pairSeen = true) ∧ (∀ x ∈ (s.fch n).means, x.1 ≤ 3300) ∧ m.mean ≤ 3300 ∧ (s.fch n).cycle ≠ some (s.dev.u.elapsed / 10) ∧ s.fld (F.FAN_CHCTL_OLEN n) = 0 ∧ s.fld F.FAN_COOL_EN = 0 ∧ (∀ j ∈ List.range 4, s.fld (F.FAN_SKIPHI_HI n j) ≤ s.fld (F.FAN_SKIPLO_LO n j)) ∧ m.peak < 65536 := by
  decide +kernel

/-- The hypotheses of clause `fanRampLate` hold together. -/
theorem test_met_fanRampLate :
    let b := State.reset
    let n := 5
    let m : FanMeas := ⟨264, 183⟩
    let b := b.setT 9000
    let s := (((b.setF F.FAN_CTL_EN 1).setF (F.FAN_FAULT_CODE n) 0).setF (F.FAN_CHCTL_OLEN n) 0).setF F.FAN_COOL_EN 0
    let s := (((s.setF (F.FAN_SKIPHI_HI n 0) 0).setF (F.FAN_SKIPHI_HI n 1) 0).setF (F.FAN_SKIPHI_HI n 2) 0).setF (F.FAN_SKIPHI_HI n 3) 0
    let s := (s.setF (F.FAN_APPLIED_DUTY n) (4017)).setF (F.FAN_RAMP_RATE n) (40)
    let s := s.setU fun u => { u with fan := { u.fan with chs := (u.fan.chs ++ List.replicate 8 ({} : FanCh)).take 8 } }
    let s := s.setF (domField (120 + n)) 1
    let s := s.setU fun u => { u with fan := { u.fan with chs := updAt u.fan.chs n fun c => { c with nextAt := some 70, reloadAt := some 20, onStart := 20, measuring := true, pairSeen := true, means := [(3300, 40), (12, 90)], cycle := some (u.elapsed / 10), wasSet := 3100, writes := 2 } } }
    Live s ∧ Canon s ∧ s.dev.u.fan.chs.length = 8 ∧ n < 8 ∧ s.powered (120 + n) ∧ (n = 0 ∨ (s.fch n).nextAt ≠ none) ∧ (∀ x ∈ (s.fch n).nextAt, x ≤ s.dev.u.elapsed) ∧ s.fld F.FAN_CTL_EN = 1 ∧ s.fld (F.FAN_FAULT_CODE n) = 0 ∧ ((s.fch n).measuring = false ∨ (s.fch n).pairSeen = true) ∧ (∀ x ∈ (s.fch n).means, x.1 ≤ 3300) ∧ m.mean ≤ 3300 ∧ (s.fch n).cycle = some (s.dev.u.elapsed / 10) ∧ 0 < (s.fch n).writes ∧ s.fld (F.FAN_CHCTL_OLEN n) = 0 ∧ s.fld F.FAN_COOL_EN = 0 ∧ (∀ j ∈ List.range 4, s.fld (F.FAN_SKIPHI_HI n j) ≤ s.fld (F.FAN_SKIPLO_LO n j)) ∧ m.peak < 65536 := by
  decide +kernel

/-- The hypotheses of clause `tachFirst` hold together. -/
theorem test_met_tachFirst :
    let b := State.reset
    let n := 1
    let s := (b.setT 5000000000).setF (F.FAN_APPLIED_DUTY n) (1 + 264)
    let s := s.setU fun u => { u with fan := { u.fan with chs := (u.fan.chs ++ List.replicate 8 ({} : FanCh)).take 8 } }
    let s := s.setF (domField (120 + n)) 1
    let s := s.setU fun u => { u with fan := { u.fan with chs := updAt u.fan.chs n fun c => { c with onStart := 4990000000, onLen := 20000000, lastEdge := some 17, pairEdge := none } } }
    Live s ∧ Canon s ∧ s.dev.u.fan.chs.length = 8 ∧ n < 8 ∧ s.powered (120 + n) ∧ s.fld (F.FAN_APPLIED_DUTY n) ≠ 0 ∧ s.dev.u.elapsed ≤ (s.fch n).onStart + (s.fch n).onLen ∧ (s.fch n).onStart + 2000000 ≤ s.dev.u.elapsed ∧ (∀ x ∈ (s.fch n).lastEdge, x + s.fld (F.FAN_TACH_FILT n) * 10000 ≤ s.dev.u.elapsed) ∧ (s.fch n).pairEdge = none := by
  decide +kernel

/-- The hypotheses of clause `tachPair` hold together. -/
theorem test_met_tachPair :
    let b := State.reset
    let n := 1
    let s := (b.setT 5000000000).setF (F.FAN_APPLIED_DUTY n) (1 + 264)
    let s := s.setU fun u => { u with fan := { u.fan with chs := (u.fan.chs ++ List.replicate 8 ({} : FanCh)).take 8 } }
    let s := s.setF (domField (120 + n)) 1
    let s := s.setF (F.FAN_CHCTL_PPR n) (1)
    let e := 5000000000 - 10000000
    let s := s.setF (F.FAN_TACH_FILT n) 1
    let q := if s.fld (F.FAN_CHCTL_PPR n) = 0 then 6000 else 3000
    let s := s.setU fun u => { u with fan := { u.fan with chs := updAt u.fan.chs n fun c => { c with onStart := 4980000000, onLen := 25000000, lastEdge := some e, pairEdge := some e } } }
    let d := (s.fld (F.FAN_CHCTL_PPR n) + 1) * (s.dev.u.elapsed - e)
    Live s ∧ Canon s ∧ s.dev.u.fan.chs.length = 8 ∧ n < 8 ∧ s.powered (120 + n) ∧ s.fld (F.FAN_APPLIED_DUTY n) ≠ 0 ∧ s.dev.u.elapsed ≤ (s.fch n).onStart + (s.fch n).onLen ∧ (s.fch n).onStart + 2000000 ≤ s.dev.u.elapsed ∧ (∀ x ∈ (s.fch n).lastEdge, x + s.fld (F.FAN_TACH_FILT n) * 10000 ≤ s.dev.u.elapsed) ∧ (s.fch n).pairEdge = some e ∧ d = (s.fld (F.FAN_CHCTL_PPR n) + 1) * (s.dev.u.elapsed - e) ∧ 2 * q * d < 120000000000 + d ∧ 120000000000 < (2 * q + 1) * d ∧ q < 65536 := by
  decide +kernel

/-- The hypotheses of clause `stretchEnd` hold together. -/
theorem test_met_stretchEnd :
    let b := State.reset
    let n := 1
    let lim := 1 + 49
    let s := ((b.setT 5000000000).setF (F.FAN_APPLIED_DUTY n) 5).setF (F.FAN_TACH_STRMAX n) lim
    let s := s.setU fun u => { u with fan := { u.fan with chs := (u.fan.chs ++ List.replicate 8 ({} : FanCh)).take 8 } }
    let s := s.setF (domField (120 + n)) 1
    let s := s.setU fun u => { u with fan := { u.fan with chs := updAt u.fan.chs n fun c => { c with pairSeen := false, measuring := true, stretchDone := false, onStart := 4900000000, onLen := 6000000 } } }
    Live s ∧ Canon s ∧ s.dev.u.fan.chs.length = 8 ∧ n < 8 ∧ (s.fch n).pairSeen = false ∧ (s.fch n).measuring = true ∧ (s.fch n).stretchDone = false ∧ s.fld (F.FAN_APPLIED_DUTY n) ≠ 0 ∧ lim = s.fld (F.FAN_TACH_STRMAX n) ∧ 1 ≤ lim ∧ lim ≤ 65 ∧ (s.fch n).onStart + (s.fch n).onLen + lim * 1000000 ≤ s.dev.u.elapsed := by
  decide +kernel

/-- The hypotheses of clause `fanShort` hold together. -/
theorem test_met_fanShort :
    let b := State.reset
    let n := 1
    let i := 12000 + 5
    let s := (b.setF (F.FAN_FAULT_CODE n) 0).setF (F.FAN_APPLIED_DUTY n) 77
    let s := s.setU fun u => { u with fan := { u.fan with chs := (u.fan.chs ++ List.replicate 8 ({} : FanCh)).take 8 } }
    let s := s.setF (domField (120 + n)) 1
    Live s ∧ Canon s ∧ s.dev.u.fan.chs.length = 8 ∧ n < 8 ∧ s.powered (120 + n) ∧ s.fld (F.FAN_FAULT_CODE n) = 0 ∧ 12000 ≤ i := by
  decide +kernel

/-- The hypotheses of clause `fanOvercur` hold together. -/
theorem test_met_fanOvercur :
    let b := State.reset
    let n := 1
    let i := 6000 + 5
    let s := ((b.setF (F.FAN_FAULT_CODE n) 0).setF (F.FAN_APPLIED_DUTY n) 77).setT 5000000000
    let s := s.setU fun u => { u with fan := { u.fan with chs := (u.fan.chs ++ List.replicate 8 ({} : FanCh)).take 8 } }
    let s := s.setF (domField (120 + n)) 1
    let s := s.setU fun u => { u with fan := { u.fan with chs := updAt u.fan.chs n fun c => { c with onStart := 4970000000, onLen := 30000000 } } }
    Live s ∧ Canon s ∧ s.dev.u.fan.chs.length = 8 ∧ n < 8 ∧ s.powered (120 + n) ∧ s.fld (F.FAN_FAULT_CODE n) = 0 ∧ 6000 ≤ i ∧ s.fld (F.FAN_APPLIED_DUTY n) ≠ 0 ∧ (s.fch n).onStart + 20000000 < s.dev.u.elapsed ∧ s.dev.u.elapsed ≤ (s.fch n).onStart + (s.fch n).onLen := by
  decide +kernel

/-- The hypotheses of clause `fanClear` hold together. -/
theorem test_met_fanClear :
    let b := State.reset
    let n := 1
    let s := b.setF (F.FAN_FAULT_CODE n) (1 + 4)
    let s := s.setU fun u => { u with fan := { u.fan with chs := (u.fan.chs ++ List.replicate 8 ({} : FanCh)).take 8 } }
    let s := s.setF (domField (120 + n)) 1
    Live s ∧ Canon s ∧ s.dev.u.fan.chs.length = 8 ∧ n < 8 ∧ s.powered (120 + n) ∧ s.fld (F.FAN_FAULT_CODE n) ≠ 0 := by
  decide +kernel

/-- The hypotheses of clause `polarity` hold together. -/
theorem test_met_polarity :
    let b := State.reset
    let k := 1
    let p := 20000
    let l : FieldLatch := ⟨0, 0, 0, false, none, 0, 0, 0, 10, 60000, 0, 2⟩
    let j : FieldJob := { kind := 0, input := 104, since := 9, latch := some l, p1 := some p }
    let s := b.setT 100000000
    let s := s.setU fun u => { u with aff := { u.aff with convs := (u.aff.convs ++ List.replicate 8 ({} : FieldConv)).take 8 } }
    let s := s.setU fun u => { u with aff := { u.aff with convs := updAt u.aff.convs k fun c => { c with job := some j } } }
    Live s ∧ Canon s ∧ s.dev.u.aff.convs.length = 8 ∧ k < 8 ∧ (s.conv k).job = some j ∧ j.kind = 0 ∧ j.latch = some l ∧ j.p1 = some p ∧ j.reversed = none ∧ j.since + 50000 + (l.settle + 1) * 500000 + p * 1000 ≤ s.dev.u.elapsed := by
  decide +kernel

/-- The hypotheses of clause `dcEnd` hold together. -/
theorem test_met_dcEnd :
    let b := State.reset
    let k := 1
    let i := 104
    let p1 := 20000
    let p2 := 20000
    let rv := 30000000
    let lead := 183
    let q := 10 + 36102
    let l : FieldLatch := ⟨1, 0, 0, false, none, 0, lead, 0, 10, 60000, 0, 2⟩
    let j : FieldJob := { kind := 0, input := i, since := 9, latch := some l, p1 := some p1, reversed := some rv, p2 := some p2 }
    let m : FieldMeas := ⟨((q * 100 + lead : Nat) : Int) * 200, ((q * 100 + lead : Nat) : Int) * (-200), 1000000, 0, 3, 800000000, false⟩
    let amp := 200000 * 1000000
    let s := (b.setT 100000000).setF (F.AFF_ICFG_EN i) 1
    let s := s.setU fun u => { u with aff := { u.aff with convs := (u.aff.convs ++ List.replicate 8 ({} : FieldConv)).take 8 } }
    let s := s.setU fun u => { u with aff := { u.aff with convs := updAt u.aff.convs k fun c => { c with job := some j, rest := [140, 216] } } }
    Live s ∧ Canon s ∧ s.dev.u.aff.convs.length = 8 ∧ k < 8 ∧ i < 192 ∧ (s.conv k).job = some j ∧ j.kind = 0 ∧ j.input = i ∧ j.latch = some l ∧ j.p1 = some p1 ∧ j.reversed = some rv ∧ j.p2 = some p2 ∧ p2 ≠ 0 ∧ rv + (l.settle + 1) * 500000 + p2 * 1000 ≤ s.dev.u.elapsed ∧ l.wire ≠ 2 ∧ l.lin = false ∧ l.lead = lead ∧ s.fld (F.AFF_ICFG_EN i) = 1 ∧ 0 < m.cur ∧ j.void = false ∧ amp = [10000, 50000, 200000, 1000000].getD l.exc 10000 * m.cur ∧ m.force < 3000000000 ∧ m.pos ≤ 2500000000 ∧ -2500000000 ≤ m.pos ∧ m.neg ≤ 2500000000 ∧ -2500000000 ≤ m.neg ∧ (m.pos - m.neg) * 1000000000 = ((q * 100 + lead : Nat) : Int) * (2 * amp) ∧ l.shortR * 100 ≤ q * 100 + lead ∧ m.leak * 1000000000 ≤ l.leakThr * amp ∧ q ≤ 0xFFFE ∧ l.exc < 4 := by
  decide +kernel

/-- The hypotheses of clause `dcOpen` hold together. -/
theorem test_met_dcOpen :
    let b := State.reset
    let k := 1
    let i := 104
    let p1 := 20000
    let p2 := 20000
    let rv := 30000000
    let l : FieldLatch := ⟨1, 0, 0, false, none, 0, 7, 0, 10, 60000, 0, 2⟩
    let j : FieldJob := { kind := 0, input := i, since := 9, latch := some l, p1 := some p1, reversed := some rv, p2 := some p2 }
    let m : FieldMeas := ⟨5, -7, 1000000, 0, 3, 3000000000, false⟩
    let s := (b.setT 100000000).setF (F.AFF_ICFG_EN i) 1
    let s := s.setU fun u => { u with aff := { u.aff with convs := (u.aff.convs ++ List.replicate 8 ({} : FieldConv)).take 8 } }
    let s := s.setU fun u => { u with aff := { u.aff with convs := updAt u.aff.convs k fun c => { c with job := some j, rest := [140, 216] } } }
    Live s ∧ Canon s ∧ s.dev.u.aff.convs.length = 8 ∧ k < 8 ∧ i < 192 ∧ (s.conv k).job = some j ∧ j.kind = 0 ∧ j.input = i ∧ j.latch = some l ∧ j.p1 = some p1 ∧ j.reversed = some rv ∧ j.p2 = some p2 ∧ p2 ≠ 0 ∧ rv + (l.settle + 1) * 500000 + p2 * 1000 ≤ s.dev.u.elapsed ∧ s.fld (F.AFF_ICFG_EN i) = 1 ∧ 0 < m.cur ∧ j.void = false ∧ 3000000000 ≤ m.force := by
  decide +kernel

/-- The hypotheses of clause `voltEnd` hold together. -/
theorem test_met_voltEnd :
    let b := State.reset
    let k := 1
    let i := 216 + 0
    let p := 20000
    let q : Int := 10500 - (15101 : Nat)
    let lead := 0
    let l : FieldLatch := ⟨0, 0, 0, false, none, 0, lead, 0, 10, 60000, 0, 2⟩
    let j : FieldJob := { kind := 5, input := i, since := 9, latch := some l, p1 := some p }
    let m : FieldMeas := ⟨q * 1000, 0, 1000, 0, 3, 0, false⟩
    let s := (b.setT 100000000).setF (F.AFF_ICFG_EN i) 1
    let s := s.setU fun u => { u with aff := { u.aff with convs := (u.aff.convs ++ List.replicate 8 ({} : FieldConv)).take 8 } }
    let s := s.setU fun u => { u with aff := { u.aff with convs := updAt u.aff.convs k fun c => { c with job := some j, rest := [140] } } }
    Live s ∧ Canon s ∧ s.dev.u.aff.convs.length = 8 ∧ k < 8 ∧ 216 ≤ i ∧ i < 224 ∧ (s.conv k).job = some j ∧ j.kind = 5 ∧ j.input = i ∧ j.latch = some l ∧ j.p1 = some p ∧ p ≠ 0 ∧ j.p2 = none ∧ j.since + 50000 + (l.settle + 1) * 500000 + p * 1000 ≤ s.dev.u.elapsed ∧ l.lin = false ∧ s.fld (F.AFF_ICFG_EN i) = 1 ∧ j.void = false ∧ m.fullScale = false ∧ m.pos = q * 1000 ∧ -10500 ≤ q ∧ q ≤ 10500 := by
  decide +kernel

/-- The hypotheses of clause `overcurrent` hold together. -/
theorem test_met_overcurrent :
    let b := State.reset
    let i := 192 + 8
    let s := ((b.setF (domField (32 + groupOf i)) 1).setF (F.AFF_IRES_FAULT i) (3)).setF (F.AFF_ILIN_LEN i) 0
    Live s ∧ Canon s ∧ 192 ≤ i ∧ i < 216 ∧ s.powered (32 + groupOf i) ∧ s.fld (F.AFF_IRES_FAULT i) ≠ 0xA ∧ s.fld (F.AFF_ILIN_LEN i) = 0 := by
  decide +kernel

/-- The hypotheses of clause `scanStart` hold together. -/
theorem test_met_scanStart :
    let b := State.reset
    let s := ((((b.setT 10000000000000).setF F.AFF_CTL_RUN 1).setF F.SYS_MODE_CUR (2 + 4)).setF (F.AFF_ICFG_EN 216) 1).setF (domField 54) 1
    let s := s.setU fun u => { u with aff := { u.aff with convs := (u.aff.convs ++ List.replicate 8 ({} : FieldConv)).take 8 } }
    let s := s.setU fun u => { u with aff := { u.aff with cycle := none, lastStart := none } }
    Live s ∧ Canon s ∧ s.dev.u.aff.convs.length = 8 ∧ s.dev.u.aff.cycle = none ∧ s.dev.u.aff.lastStart = none ∧ s.fld F.AFF_CTL_RUN = 1 ∧ 2 ≤ s.base ∧ s.fld (F.AFF_ICFG_EN 216) = 1 ∧ s.powered 54 ∧ ((s.dev.u.pwr.domAt.find? fun x => x.1 = 54).map (·.2)).getD 0 + 10000000 ≤ s.dev.u.elapsed := by
  decide +kernel

/-- The hypotheses of clause `scanNext` hold together. -/
theorem test_met_scanNext :
    let b := State.reset
    let s := ((((b.setT 10000000000000).setF F.AFF_CTL_RUN 1).setF F.SYS_MODE_CUR (2 + 4)).setF (F.AFF_ICFG_EN 216) 1).setF (domField 54) 1
    let s := s.setU fun u => { u with aff := { u.aff with convs := (u.aff.convs ++ List.replicate 8 ({} : FieldConv)).take 8 } }
    let s := s.setU fun u => { u with aff := { u.aff with cycle := none, lastStart := none } }
    let k := 77
    let s := (s.setF F.AFF_SCANPER_PER 3).setU fun u => { u with elapsed := 77 + 300000000, aff := { u.aff with lastStart := some k } }
    Live s ∧ Canon s ∧ s.dev.u.aff.convs.length = 8 ∧ s.dev.u.aff.cycle = none ∧ s.dev.u.aff.lastStart = some k ∧ s.fld F.AFF_CTL_RUN = 1 ∧ 2 ≤ s.base ∧ s.fld (F.AFF_ICFG_EN 216) = 1 ∧ s.powered 54 ∧ ((s.dev.u.pwr.domAt.find? fun x => x.1 = 54).map (·.2)).getD 0 + 10000000 ≤ s.dev.u.elapsed ∧ k + s.fld F.AFF_SCANPER_PER * 100000000 ≤ s.dev.u.elapsed := by
  decide +kernel

/-- The hypotheses of clause `scanEarly` hold together. -/
theorem test_met_scanEarly :
    let b := State.reset
    let s := ((((b.setT 10000000000000).setF F.AFF_CTL_RUN 1).setF F.SYS_MODE_CUR (2 + 4)).setF (F.AFF_ICFG_EN 216) 1).setF (domField 54) 1
    let s := s.setU fun u => { u with aff := { u.aff with convs := (u.aff.convs ++ List.replicate 8 ({} : FieldConv)).take 8 } }
    let s := s.setU fun u => { u with aff := { u.aff with cycle := none, lastStart := none } }
    let k := 77
    let s := (s.setF F.AFF_SCANPER_PER 3).setU fun u => { u with elapsed := 76 + 300000000, aff := { u.aff with lastStart := some k } }
    Live s ∧ s.fld F.AFF_CTL_RUN = 1 ∧ s.dev.u.aff.lastStart = some k ∧ s.dev.u.elapsed < k + s.fld F.AFF_SCANPER_PER * 100000000 := by
  decide +kernel

/-- The hypotheses of clause `sineRequest` hold together. -/
theorem test_met_sineRequest :
    let b := State.reset
    let s := b.setF F.SYS_MODE_CUR 6
    let s := s.setU fun u => { u with aff := { u.aff with sine := false } }
    Live s ∧ Canon s ∧ s.mode = 6 ∧ s.dev.u.aff.sine = false := by
  decide +kernel

/-- The hypotheses of clause `affRunClear` hold together. -/
theorem test_met_affRunClear :
    let b := State.reset
    let s := b
    Live s ∧ Canon s := by
  decide +kernel

/-- The hypotheses of clause `recoveryDue` hold together. -/
theorem test_met_recoveryDue :
    let b := State.reset
    let i := 57
    let s := ((b.setT 10000000000000).setF F.AFF_RETRY_T (464)).setU fun u => { u with aff := { u.aff with recov := [⟨i, some 5, false, false⟩, ⟨i + 1, none, false, false⟩] } }
    Live s ∧ Canon s ∧ (∀ x ∈ s.dev.u.aff.recov, x.input = i → (x.since.getD 0) + max 1 (s.fld F.AFF_RETRY_T) * 1000000000 ≤ s.dev.u.elapsed) := by
  decide +kernel

/-- The hypotheses of clause `modeAccepted` hold together. -/
theorem test_met_modeAccepted :
    let b := State.reset
    let c := 2 + 0
    let m := if c = 2 then [1, 5, 6].getD (2) 1 else if c = 6 then 1 + 0 else 2
    let s := (b.setF F.SYS_MODE_CUR c).setF F.SYS_MODE_BUSY 0
    let s := s.setU fun u => { u with rng := { u.rng with ring := false, joined := false, orders := 0 } }
    let src : Src := .host 1
    let s := s.setU fun u => { u with cmd := { u.cmd with sessions := [{}, { st := .opened }, {}, {}] } }
    let s := s.setR R.SYS_CORESTAT (0x3F : Word)
    Live s ∧ Canon s ∧ ModeFree s ∧ ((s.mode ∈ [3, 4, 5, 6] ∧ m = 2) ∨ (s.mode = 2 ∧ m ∈ [1, 5, 6]) ∨ (s.mode = 6 ∧ m = 1)) ∧ (s.mode = 2 → m = 6 → ∃ i ∈ List.range 4, src = .host i ∧ (s.sess i).st = .opened ∧ (s.sess i).observer = false) ∧ CoreUp s 5 := by
  decide +kernel

/-- The hypotheses of clause `modeService` hold together. -/
theorem test_met_modeService :
    let b := State.reset
    let src : Src := .service
    let s := (b.setF F.SYS_MODE_CUR 2).setU fun u => { u with rng := { u.rng with ring := false, joined := false, orders := 0 } }
    let s := s.setR R.SYS_CORESTAT (0x3F : Word)
    Live s ∧ Canon s ∧ ModeFree s ∧ s.mode = 2 ∧ (src = .core ∨ src = .service ∨ src = .engine ∨ src = .supervisor) ∧ CoreUp s 5 := by
  decide +kernel

/-- The hypotheses of clause `modeWaits` hold together. -/
theorem test_met_modeWaits :
    let src : Src := .host 1
    let m := 7
    let s := State.reset.setR R.SYS_CORESTAT (0x1F : Word)
    Live s ∧ Canon s ∧ m < 8 ∧ ¬ CoreUp s 5 := by
  decide +kernel

/-- The hypotheses of clause `modeDenied` hold together. -/
theorem test_met_modeDenied :
    let b := State.reset
    let c := [3, 4, 5, 0].getD (1) 3
    let m := if c = 0 then 1 + 2 else [0, 1, 3, 4, 5, 6].getD (2) 1
    let s := (b.setF F.SYS_MODE_CUR c).setF F.SYS_MODE_BUSY 0
    let s := s.setU fun u => { u with rng := { u.rng with ring := false, joined := false, orders := 0 } }
    let s := s.setR R.SYS_CORESTAT (0x3F : Word)
    Live s ∧ Canon s ∧ ModeFree s ∧ ((s.mode ∈ [3, 4, 5] ∧ m ∈ [0, 1, 3, 4, 5, 6]) ∨ (s.mode = 0 ∧ m ∈ [1, 2, 3])) ∧ CoreUp s 5 := by
  decide +kernel

/-- The hypotheses of clause `holdAsked` hold together. -/
theorem test_met_holdAsked :
    let b := State.reset
    let s := b.setF F.SYS_MODE_CUR (4)
    let s := s.setU fun u => { u with rng := { u.rng with ring := false } }
    let s := s.setR R.SYS_CORESTAT (0x3F : Word)
    Live s ∧ Canon s ∧ s.dev.u.rng.ring = false ∧ s.mode ≠ 7 ∧ CoreUp s 5 := by
  decide +kernel

/-- The hypotheses of clause `modeToIdle` hold together. -/
theorem test_met_modeToIdle :
    let b := State.reset
    let j : ModeJob := ⟨2, false, none, 1⟩
    let s := (b.setF F.SYS_MODE_CUR (3 + 1)).setR R.SYS_CORESTAT (0x3F : Word)
    let s := s.setU fun u => { u with sys := { u.sys with job := some j } }
    Live s ∧ Canon s ∧ CoreUp s 5 ∧ s.dev.u.sys.job = some j ∧ j.target = 2 ∧ s.mode ∈ [3, 4, 5, 6] := by
  decide +kernel

/-- The hypotheses of clause `modeEnters` hold together. -/
theorem test_met_modeEnters :
    let b := State.reset
    let j : ModeJob := ⟨3, false, none, 1⟩
    let m := 3
    let s := ((b.setF F.SYS_MODE_CUR 2).setR R.SYS_CORESTAT (0x3F : Word)).setF F.ENC_MSTAT_FREERUN 0
    let s := s.setU fun u => { u with sys := { u.sys with job := some j } }
    let s := (s.setF F.TOMO_BANKENL_EN 9).setF (F.AFF_ICFG_EN 20) 1
    Live s ∧ Canon s ∧ NoLoss s ∧ CoreUp s 5 ∧ s.dev.u.sys.job = some j ∧ j.target = m ∧ ((s.mode = 2 ∧ m ∈ [3, 5, 6]) ∨ (s.mode ∈ [3, 4, 5, 6] ∧ m = 2)) ∧ (m = 3 → s.fld F.ENC_MSTAT_FREERUN = 0) := by
  decide +kernel

/-- The hypotheses of clause `modeFlow` hold together. -/
theorem test_met_modeFlow :
    let b := State.reset
    let j : ModeJob := ⟨4, false, none, 1⟩
    let m := 4
    let s := ((b.setF F.SYS_MODE_CUR 2).setR R.SYS_CORESTAT (0x3F : Word)).setF F.ENC_MSTAT_FREERUN 0
    let s := s.setU fun u => { u with sys := { u.sys with job := some j } }
    let s := (s.setF F.TOMO_BANKENL_EN 9).setF (F.AFF_ICFG_EN 20) 1
    let n := 15
    let s := (((((s.setF F.TOMO_STAT_GEOMOK 1).setF F.REC_STAT_REFOK 1).setF F.REC_STAT_MATOK 1).setF (F.ENC_CALI_CALI n) 7).setF (F.PCL_LLEN_LLEN n) 3000).setF F.THM_STAT_LEVEL 2
    Live s ∧ Canon s ∧ NoLoss s ∧ CoreUp s 5 ∧ s.dev.u.sys.job = some j ∧ j.target = m ∧ s.mode = 2 ∧ m = 4 ∧ planValid s.planFreq s.planAmp = true ∧ s.fld F.TOMO_STAT_GEOMOK = 1 ∧ s.fld F.REC_STAT_REFOK = 1 ∧ s.fld F.REC_STAT_MATOK = 1 ∧ s.fld F.SYS_FLOWCHK_CLUSTER = 0 ∧ s.fld F.THM_STAT_LEVEL ≠ 3 ∧ n < 16 ∧ s.factor n ≠ 0 ∧ s.fld (F.PCL_LLEN_LLEN n) ≠ 0 := by
  decide +kernel

/-- The hypotheses of clause `modeCalibrate` hold together. -/
theorem test_met_modeCalibrate :
    let b := State.reset
    let j : ModeJob := ⟨1, false, none, 1⟩
    let m := 1
    let s := ((b.setF F.SYS_MODE_CUR 2).setR R.SYS_CORESTAT (0x3F : Word)).setF F.ENC_MSTAT_FREERUN 0
    let s := s.setU fun u => { u with sys := { u.sys with job := some j } }
    let s := (s.setF F.TOMO_BANKENL_EN 9).setF (F.AFF_ICFG_EN 20) 1
    Live s ∧ Canon s ∧ NoLoss s ∧ CoreUp s 5 ∧ s.dev.u.sys.job = some j ∧ j.target = m ∧ m = 1 ∧ s.mode ∈ [0, 2, 6] ∧ s.dev.u.nv.saved.affRegs = [] := by
  decide +kernel

/-- The hypotheses of clause `modeRelease` hold together. -/
theorem test_met_modeRelease :
    let b := State.reset
    let j : ModeJob := ⟨5, false, none, 1⟩
    let m := 5
    let s := ((b.setF F.SYS_MODE_CUR 2).setR R.SYS_CORESTAT (0x3F : Word)).setF F.ENC_MSTAT_FREERUN 0
    let s := s.setU fun u => { u with sys := { u.sys with job := some j } }
    let s := (s.setF F.TOMO_BANKENL_EN 9).setF (F.AFF_ICFG_EN 20) 1
    let s := (s.setF F.SYS_MODE_CUR 7).setF F.SYS_MODE_HFROM 5
    Live s ∧ Canon s ∧ NoLoss s ∧ CoreUp s 5 ∧ s.dev.u.sys.job = some j ∧ j.target = m ∧ s.mode = 7 ∧ (m = 2 ∨ m = 6 ∨ (m = s.fld F.SYS_MODE_HFROM ∧ m ∈ [3, 5])) ∧ (m = 3 → s.fld F.ENC_MSTAT_FREERUN = 0) ∧ s.fld F.THM_STAT_LEVEL ≠ 3 ∧ s.dev.u.rng.holds = false ∧ s.fld F.SAFE_STATE_SUPER = 0 := by
  decide +kernel

/-- The hypotheses of clause `holdEnter` hold together. -/
theorem test_met_holdEnter :
    let b := State.reset
    let c := 6
    let s := b.setR R.SYS_CORESTAT (0x3F : Word)
    let s := s.setU fun u => { u with sys := { u.sys with causes := [c, 4], job := none }, rng := { u.rng with orders := 0 } }
    let s := s.setF F.SYS_MODE_CUR (6)
    Live s ∧ Canon s ∧ CoreUp s 5 ∧ c < 9 ∧ c ∈ s.dev.u.sys.causes ∧ s.mode ≠ 7 ∧ s.dev.u.sys.job = none ∧ bitAt s.dev.u.rng.orders 1 = false := by
  decide +kernel

/-- The hypotheses of clause `holdAgain` hold together. -/
theorem test_met_holdAgain :
    let b := State.reset
    let c := 6
    let s := b.setR R.SYS_CORESTAT (0x3F : Word)
    let s := s.setU fun u => { u with sys := { u.sys with causes := [c, 4], job := none }, rng := { u.rng with orders := 0 } }
    let s := s.setF F.SYS_MODE_CUR 7
    let s := s.setU fun u => { u with sys := { u.sys with holdServes := [] } }
    Live s ∧ Canon s ∧ CoreUp s 5 ∧ c < 9 ∧ c ∈ s.dev.u.sys.causes ∧ s.mode = 7 ∧ s.dev.u.sys.job = none ∧ bitAt s.dev.u.rng.orders 1 = false ∧ s.dev.u.sys.holdServes = [] := by
  decide +kernel

/-- The hypotheses of clause `calEnd` hold together. -/
theorem test_met_calEnd :
    let b := State.reset
    let j : CalJob := ⟨77, 0 == 0, false, false, false, 23, 0⟩
    let s := (b.setT 77000000000).setF F.SYS_MODE_CUR 1
    let s := s.setU fun u => { u with aff := { u.aff with sine := false, sineReq := false }, sys := { u.sys with cal := some j }, rng := { u.rng with joined := false } }
    let s := s.setF F.SYS_CALCTL_STAY 1
    Live s ∧ Canon s ∧ s.mode = 1 ∧ s.dev.u.sys.cal = some j ∧ s.dev.u.aff.sine = false ∧ s.dev.u.aff.sineReq = false ∧ j.sweep = false ∧ j.matrix = false ∧ j.stat < 0x400 ∧ s.fld F.SYS_CALCTL_STAY = 1 := by
  decide +kernel

/-- The hypotheses of clause `calIdle` hold together. -/
theorem test_met_calIdle :
    let b := State.reset
    let j : CalJob := ⟨77, 0 == 0, false, false, false, 23, 0⟩
    let s := (b.setT 77000000000).setF F.SYS_MODE_CUR 1
    let s := s.setU fun u => { u with aff := { u.aff with sine := false, sineReq := false }, sys := { u.sys with cal := some j }, rng := { u.rng with joined := false } }
    let s := s.setF F.SYS_CALCTL_STAY 0
    Live s ∧ Canon s ∧ s.mode = 1 ∧ s.dev.u.sys.cal = some j ∧ s.dev.u.aff.sine = false ∧ s.dev.u.aff.sineReq = false ∧ j.sweep = false ∧ j.matrix = false ∧ j.stat < 0x400 ∧ s.fld F.SYS_CALCTL_STAY = 0 ∧ s.dev.u.rng.joined = false := by
  decide +kernel

/-- The hypotheses of clause `calTimeout` hold together. -/
theorem test_met_calTimeout :
    let b := State.reset
    let j : CalJob := ⟨77, 0 == 0, true, false, false, 23, 0⟩
    let s := (b.setT 77000000000).setF F.SYS_MODE_CUR 1
    let s := s.setU fun u => { u with aff := { u.aff with sine := false, sineReq := false }, sys := { u.sys with cal := some j }, rng := { u.rng with joined := false } }
    let s := s.setF F.SYS_CALCTL_STAY 1
    Live s ∧ Canon s ∧ s.mode = 1 ∧ s.dev.u.sys.cal = some j ∧ s.dev.u.aff.sine = false ∧ s.dev.u.aff.sineReq = false ∧ j.sweep = true ∧ j.matrix = false ∧ j.stat < 0x400 ∧ s.fld F.SYS_CALCTL_STAY = 1 ∧ j.since + 30000000000 ≤ s.dev.u.elapsed := by
  decide +kernel

/-- The hypotheses of clause `demand` hold together. -/
theorem test_met_demand :
    let b := State.reset
    let s := b
    let s := s.setR R.SYS_CORESTAT (0x3F : Word)
    Live s ∧ Canon s ∧ CoreUp s 5 := by
  decide +kernel

/-- The hypotheses of clause `demandOwed` hold together. -/
theorem test_met_demandOwed :
    let b := State.reset
    let s := b.setR R.SYS_CORESTAT (0x1F : Word)
    Live s ∧ Canon s ∧ ¬ CoreUp s 5 := by
  decide +kernel

/-- The hypotheses of clause `watchdogDemand` hold together. -/
theorem test_met_watchdogDemand :
    let b := State.reset
    let s := ((b.setT 77000000000000000).setR R.SYS_CORESTAT (0x3F : Word)).setU fun u => { u with thm := { u.thm with lastDemand := 4 } }
    Live s ∧ Canon s ∧ CoreUp s 5 ∧ s.dev.u.thm.lastDemand + max 1 (s.fld F.THM_WDPER_PER) * 100000000 ≤ s.dev.u.elapsed := by
  decide +kernel

/-- The hypotheses of clause `eventDemand` hold together. -/
theorem test_met_eventDemand :
    let l : List Nat := [9]
    let b := State.reset
    let d := 6
    let s := ((b.setT 77000000000000000).setR R.SYS_CORESTAT (0x3F : Word)).setU fun u => { u with thm := { u.thm with eventDue := [d, 9] } }
    Live s ∧ Canon s ∧ CoreUp s 5 ∧ s.dev.u.thm.eventDue = d :: l ∧ d ≤ s.dev.u.elapsed := by
  decide +kernel

/-- The hypotheses of clause `conversion` hold together. -/
theorem test_met_conversion :
    let b := State.reset
    let k := 8
    let temps : List TempSense := (List.range 16).map fun k => ⟨9000 - (someNum k % 9000 : Nat), if k = 8 then 199999 else someNum k * 100000⟩
    let x : TempSense := temps.getD k ⟨0, 0⟩
    let good := decide (k < 8 ∨ (k < 12 ∧ 200000 ≤ x.level ∧ x.level ≤ 900000) ∨ (12 ≤ k ∧ 50000 ≤ x.level ∧ x.level ≤ 2000000000))
    let s := b.setU fun u => { u with thm := { u.thm with conv := some 7 } }
    Live s ∧ Canon s ∧ s.dev.u.thm.conv.isSome = true ∧ k < 16 ∧ temps[k]? = some x ∧ -32767 ≤ x.reading ∧ x.reading ≤ 32767 ∧ good = decide (k < 8 ∨ (k < 12 ∧ 200000 ≤ x.level ∧ x.level ≤ 900000) ∨ (12 ≤ k ∧ 50000 ≤ x.level ∧ x.level ≤ 2000000000)) := by
  decide +kernel

/-- The hypotheses of clause `critical` hold together. -/
theorem test_met_critical :
    let b := State.reset
    let k := 0
    let x : TempSense := ⟨12500, 0⟩
    let temps : List TempSense := (List.range 16).map fun k => ⟨5000 - (someNum k % 9000 : Nat), someNum k * 100000⟩
    let s := b.setU fun u => { u with thm := { u.thm with conv := some 7 } }
    let temps := setAt temps k x
    let s := (s.setF F.THM_SENSEN_EN 0xFFFF).setF F.THM_STAT_LEVEL (1)
    Live s ∧ Canon s ∧ s.dev.u.thm.conv.isSome = true ∧ k < 8 ∧ bitAt (s.fld F.THM_SENSEN_EN) k = true ∧ temps[k]? = some x ∧ 12500 ≤ x.reading ∧ s.fld F.THM_STAT_LEVEL ≠ 3 := by
  decide +kernel

/-- The hypotheses of clause `grace` hold together. -/
theorem test_met_grace :
    let b := State.reset
    let a : ThmAsk := ⟨1 + 1, 2, 0, 5⟩
    let s := (((b.setT 77000000000000).setF F.REC_CTL_NITER (9 + 7)).setF F.THM_GRACE_T (42)).setU fun u => { u with thm := { u.thm with ask := some a } }
    Live s ∧ Canon s ∧ s.dev.u.thm.ask = some a ∧ a.kind = 2 ∧ a.since + s.fld F.THM_GRACE_T * 1000000000 ≤ s.dev.u.elapsed ∧ a.value < s.fld F.REC_CTL_NITER := by
  decide +kernel

/-- The hypotheses of clause `askFollows` hold together. -/
theorem test_met_askFollows :
    let a : ThmAsk := ⟨2, 1, 3000, 5⟩
    let v := 4
    let s := (((((State.reset.setF F.THM_SENSEN_EN 0).setF F.THM_STAT_LEVEL 2).setF (F.THM_RED_KIND 1) 2).setF (F.THM_RED_VALUE 1) v).setF F.REC_CTL_NITER 9).setU fun u => { u with thm := { u.thm with conv := some 7, ask := some a, falls := 1 } }
    Live s ∧ Canon s ∧ s.dev.u.thm.conv.isSome = true ∧ s.dev.u.thm.ask = some a ∧ (a.level = 1 ∨ a.level = 2) ∧ s.fld F.THM_SENSEN_EN = 0 ∧ s.fld F.THM_STAT_LEVEL = a.level ∧ s.dev.u.thm.falls + s.dev.u.thm.joined < 2 ∧ s.fld (F.THM_RED_KIND (a.level - 1)) = 2 ∧ s.fld (F.THM_RED_VALUE (a.level - 1)) = v ∧ v < s.fld F.REC_CTL_NITER := by
  decide +kernel

/-- The hypotheses of clause `busyCredit` hold together. -/
theorem test_met_busyCredit :
    let b := State.reset
    let i := 1
    let h : Hdr := someHdr 0
    let s := hostState b { sid := 77, st := .opened }
    let k := 3
    let h := { h with tagw := [1, 0, 1, 1, 2, 1, 2].getD k 0 * 8192 + h.tagw % 512 }
    let p : List Byte := [zeros 0, zeros 4, zeros 8, zeros 4, zeros 0, zeros 4, zeros 516].getD k []
    let op := [0x0001, 0x0201, 0x0302, 0x0603, 0x0901, 0x0F02, 0x0503].getD k 0
    let c : Instr := [Instr.getInfo h p, .read h p, .timeSet h p, .lotRead h p, .driveStatus h p, .throttleAck h p, .modelLoad h p].getD k .alarmService
    let s := s.setU fun u => { u with cmd := { u.cmd with sessions := updAt u.cmd.sessions i fun z => { z with grant := 0 } } }
    packetOf c = some (op, h, p) ∧ Live s ∧ Canon s ∧ HostLinkUp s ∧ Named s i h ∧ TagFree s i h ∧ HostBufs s p.length (match opInfo op with | none => 0 | some f => f.reply) ∧ (s.sess i).grant ≤ (s.sess i).tags.length := by
  decide +kernel

/-- The hypotheses of clause `busyTag` hold together. -/
theorem test_met_busyTag :
    let b := State.reset
    let i := 1
    let h : Hdr := someHdr 0
    let s := hostState b { sid := 77, st := .opened }
    let k := 3
    let h := { h with tagw := [1, 0, 1, 1, 2, 1, 2].getD k 0 * 8192 + h.tagw % 512 }
    let p : List Byte := [zeros 0, zeros 4, zeros 8, zeros 4, zeros 0, zeros 4, zeros 516].getD k []
    let op := [0x0001, 0x0201, 0x0302, 0x0603, 0x0901, 0x0F02, 0x0503].getD k 0
    let c : Instr := [Instr.getInfo h p, .read h p, .timeSet h p, .lotRead h p, .driveStatus h p, .throttleAck h p, .modelLoad h p].getD k .alarmService
    let x : OutTag := ⟨h.tagw, 0x0201, true, true, [], 0, none, none, 0, false, 0⟩
    let s := s.setU fun u => { u with cmd := { u.cmd with sessions := updAt u.cmd.sessions i fun z => { z with tags := [x] } } }
    packetOf c = some (op, h, p) ∧ Live s ∧ Canon s ∧ HostLinkUp s ∧ Named s i h ∧ HostBufs s p.length (match opInfo op with | none => 0 | some f => f.reply) ∧ tagIn (s.sess i) (tagWord h) = some x ∧ h.retry = false := by
  decide +kernel

/-- The hypotheses of clause `busyBulk` hold together. -/
theorem test_met_busyBulk :
    let b := State.reset
    let i := 1
    let h : Hdr := someHdr 24576
    let s := hostState b { sid := 77, st := .opened }
    let p : List Byte := zeros 8
    let op := 0x0404
    let c : Instr := .calLoad h p
    let x : OutTag := ⟨3 * 8192 + (h.tagw + 1) % 512, 0x1001, true, true, [], 0, none, none, 0, false, 0⟩
    let s := s.setU fun u => { u with cmd := { u.cmd with sessions := updAt u.cmd.sessions i fun z => { z with tags := [x] } } }
    packetOf c = some (op, h, p) ∧ Live s ∧ Canon s ∧ HostLinkUp s ∧ Named s i h ∧ TagFree s i h ∧ HostBufs s p.length (match opInfo op with | none => 0 | some f => f.reply) ∧ (s.sess i).tags.length < (s.sess i).grant ∧ op ∈ [0x0401, 0x0404, 0x0501, 0x0505, 0x1001] ∧ x ∈ (s.sess i).tags ∧ x.opcode ∈ [0x0401, 0x0404, 0x0501, 0x0505, 0x1001] ∧ x.done = false := by
  decide +kernel

/-- The hypotheses of clause `retryHeld` hold together. -/
theorem test_met_retryHeld :
    let b := State.reset
    let i := 1
    let h : Hdr := someHdr 0
    let s := hostState b { sid := 77, st := .opened }
    let k := 3
    let h := { h with tagw := [1, 0, 1, 1, 2, 1, 2].getD k 0 * 8192 + h.tagw % 512 }
    let h := { h with retry := true }
    let p : List Byte := [zeros 0, zeros 4, zeros 8, zeros 4, zeros 0, zeros 4, zeros 516].getD k []
    let op := [0x0001, 0x0201, 0x0302, 0x0603, 0x0901, 0x0F02, 0x0503].getD k 0
    let c : Instr := [Instr.getInfo h p, .read h p, .timeSet h p, .lotRead h p, .driveStatus h p, .throttleAck h p, .modelLoad h p].getD k .alarmService
    let x : Held := ⟨tagOf h.tagw, ⟨h.ip, h.port, none, 3, 77, 5, tagWord h, op, 0x30, [1, 2], 0⟩, 4, none⟩
    let s := s.setU fun u => { u with cmd := { u.cmd with sessions := updAt u.cmd.sessions i fun z => { z with held := [x] } } }
    packetOf c = some (op, h, p) ∧ Live s ∧ Canon s ∧ HostLinkUp s ∧ Named s i h ∧ HostBufs s p.length (match opInfo op with | none => 0 | some f => f.reply) ∧ tagIn (s.sess i) (tagWord h) = none ∧ (s.sess i).held.find? (fun x => x.tag == tagOf (tagWord h)) = some x ∧ h.retry = true ∧ x.pkt.tagw = tagWord h ∧ x.pkt.opcode = op := by
  decide +kernel

/-- The hypotheses of clause `badClass` hold together. -/
theorem test_met_badClass :
    let b := State.reset
    let i := 1
    let h : Hdr := someHdr 0
    let s := hostState b { sid := 77, st := .opened }
    let k := 3
    let h := { h with tagw := 4 * 8192 + h.tagw % 512 }
    let p : List Byte := [zeros 0, zeros 4, zeros 8, zeros 4, zeros 0, zeros 4, zeros 516].getD k []
    let op := [0x0001, 0x0201, 0x0302, 0x0603, 0x0901, 0x0F02, 0x0503].getD k 0
    let c : Instr := [Instr.getInfo h p, .read h p, .timeSet h p, .lotRead h p, .driveStatus h p, .throttleAck h p, .modelLoad h p].getD k .alarmService
    let f := (opInfo op).getD ⟨0, .yes, 0, 0⟩
    packetOf c = some (op, h, p) ∧ Heard s i op h p ∧ opInfo op = some f ∧ classOf h.tagw ≠ f.cls := by
  decide +kernel

/-- The hypotheses of clause `badLength` hold together. -/
theorem test_met_badLength :
    let b := State.reset
    let i := 1
    let h : Hdr := someHdr 0
    let s := hostState b { sid := 77, st := .opened }
    let k := 3
    let h := { h with tagw := [1, 0, 1, 1, 2, 1, 2].getD k 0 * 8192 + h.tagw % 512 }
    let p : List Byte := zeros 11
    let op := [0x0001, 0x0201, 0x0302, 0x0603, 0x0901, 0x0F02, 0x0503].getD k 0
    let c : Instr := [Instr.getInfo h p, .read h p, .timeSet h p, .lotRead h p, .driveStatus h p, .throttleAck h p, .modelLoad h p].getD k .alarmService
    let f := (opInfo op).getD ⟨0, .yes, 0, 0⟩
    packetOf c = some (op, h, p) ∧ Heard s i op h p ∧ opInfo op = some f ∧ classOf h.tagw = f.cls ∧ lengthOk op p = false := by
  decide +kernel

/-- The hypotheses of clause `deniedObserver` hold together. -/
theorem test_met_deniedObserver :
    let b := State.reset
    let i := 1
    let h : Hdr := someHdr 0
    let s := hostState b { sid := 77, st := .opened, observer := true }
    let k := [2, 5, 6].getD (1) 2
    let h := { h with tagw := [1, 0, 1, 1, 2, 1, 2].getD k 0 * 8192 + h.tagw % 512 }
    let p : List Byte := [zeros 0, zeros 4, zeros 8, zeros 4, zeros 0, zeros 4, zeros 516].getD k []
    let op := [0x0001, 0x0201, 0x0302, 0x0603, 0x0901, 0x0F02, 0x0503].getD k 0
    let c : Instr := [Instr.getInfo h p, .read h p, .timeSet h p, .lotRead h p, .driveStatus h p, .throttleAck h p, .modelLoad h p].getD k .alarmService
    let f := (opInfo op).getD ⟨0, .yes, 0, 0⟩
    packetOf c = some (op, h, p) ∧ Heard s i op h p ∧ opInfo op = some f ∧ classOf h.tagw = f.cls ∧ lengthOk op p = true ∧ (s.sess i).observer = true ∧ f.obs = .no := by
  decide +kernel

/-- The hypotheses of clause `badOpcode` hold together. -/
theorem test_met_badOpcode :
    let b := State.reset
    let i := 1
    let h : Hdr := someHdr 8192
    let s := hostState b { sid := 77, st := .opened }
    let p : List Byte := zeros (5)
    let op := 0x0009 + 256 * (67)
    Heard s i op h p ∧ opInfo op = none := by
  decide +kernel

/-- The hypotheses of clause `queued` hold together. -/
theorem test_met_queued :
    let b := State.reset
    let i := 1
    let h : Hdr := someHdr 0
    let s := hostState b { sid := 77, st := .opened }
    let k := 3
    let h := { h with tagw := [1, 0, 1, 1, 2, 1, 2].getD k 0 * 8192 + h.tagw % 512 }
    let p : List Byte := [zeros 0, zeros 4, zeros 8, zeros 4, zeros 0, zeros 4, zeros 516].getD k []
    let op := [0x0001, 0x0201, 0x0302, 0x0603, 0x0901, 0x0F02, 0x0503].getD k 0
    let c : Instr := [Instr.getInfo h p, .read h p, .timeSet h p, .lotRead h p, .driveStatus h p, .throttleAck h p, .modelLoad h p].getD k .alarmService
    let s := s.setR R.SYS_CORESTAT (0x30 : Word)
    packetOf c = some (op, h, p) ∧ Heard s i op h p ∧ ¬ CoreUp s (coreOf (op / 256)) ∧ preCheck (s.sess i) (tagWord h) op p = none := by
  decide +kernel

/-- The hypotheses of clause `noSession` hold together. -/
theorem test_met_noSession :
    let b := State.reset
    let h : Hdr := someHdr 0
    let s := hostState b { sid := 77, st := .opened }
    let k := 3
    let h := { h with session := 78 }
    let p : List Byte := [zeros 0, zeros 4, zeros 8, zeros 4, zeros 0, zeros 4, zeros 516].getD k []
    let op := [0x0001, 0x0201, 0x0302, 0x0603, 0x0901, 0x0F02, 0x0503].getD k 0
    let c : Instr := [Instr.getInfo h p, .read h p, .timeSet h p, .lotRead h p, .driveStatus h p, .throttleAck h p, .modelLoad h p].getD k .alarmService
    packetOf c = some (op, h, p) ∧ Live s ∧ Canon s ∧ HostLinkUp s ∧ HostBufs s p.length (match opInfo op with | none => 0 | some f => f.reply) ∧ h.session ≠ 0 ∧ findSess s.dev.u.cmd.sessions h.session = none := by
  decide +kernel

/-- The hypotheses of clause `oldSequence` hold together. -/
theorem test_met_oldSequence :
    let b := State.reset
    let i := 1
    let h : Hdr := someHdr 0
    let s := hostState b { sid := 77, st := .opened }
    let k := 3
    let h := { h with seq := (s.sess i).h }
    let p : List Byte := [zeros 0, zeros 4, zeros 8, zeros 4, zeros 0, zeros 4, zeros 516].getD k []
    let op := [0x0001, 0x0201, 0x0302, 0x0603, 0x0901, 0x0F02, 0x0503].getD k 0
    let c : Instr := [Instr.getInfo h p, .read h p, .timeSet h p, .lotRead h p, .driveStatus h p, .throttleAck h p, .modelLoad h p].getD k .alarmService
    packetOf c = some (op, h, p) ∧ Live s ∧ Canon s ∧ HostLinkUp s ∧ HostBufs s p.length (match opInfo op with | none => 0 | some f => f.reply) ∧ h.session ≠ 0 ∧ findSess s.dev.u.cmd.sessions h.session = some i ∧ (s.sess i).st = .opened ∧ (s.sess i).ip = h.ip ∧ (s.sess i).port = h.port ∧ laterThan h.seq (s.sess i).h = false := by
  decide +kernel

/-- The hypotheses of clause `otherSource` hold together. -/
theorem test_met_otherSource :
    let b := State.reset
    let i := 1
    let port := 5001
    let h : Hdr := someHdr 0
    let s := hostState b { sid := 77, st := .opened }
    let k := 3
    let h := { h with port := 4 }
    let p : List Byte := [zeros 0, zeros 4, zeros 8, zeros 4, zeros 0, zeros 4, zeros 516].getD k []
    let op := [0x0001, 0x0201, 0x0302, 0x0603, 0x0901, 0x0F02, 0x0503].getD k 0
    let c : Instr := [Instr.getInfo h p, .read h p, .timeSet h p, .lotRead h p, .driveStatus h p, .throttleAck h p, .modelLoad h p].getD k .alarmService
    packetOf c = some (op, h, p) ∧ Live s ∧ Canon s ∧ HostLinkUp s ∧ HostBufs s p.length (match opInfo op with | none => 0 | some f => f.reply) ∧ h.session ≠ 0 ∧ findSess s.dev.u.cmd.sessions h.session = some i ∧ (s.sess i).st ≠ .free ∧ ((s.sess i).ip ≠ h.ip ∨ (s.sess i).port ≠ h.port) := by
  decide +kernel

/-- The hypotheses of clause `getInfo` hold together. -/
theorem test_met_getInfo :
    let b := State.reset
    let i := 1
    let h : Hdr := someHdr 8192
    let s := hostState b { sid := 77, st := .opened }
    let p : List Byte := []
    Ready s i 0x0001 h p := by
  decide +kernel

/-- The hypotheses of clause `modeReqTaken` hold together. -/
theorem test_met_modeReqTaken :
    let b := State.reset
    let i := 1
    let h : Hdr := someHdr 8192
    let s := hostState b { sid := 77, st := .opened }
    let c := 2 + 0
    let m := if c = 2 then [1, 5, 6].getD (2) 1 else if c = 6 then 1 + 0 else 2
    let s := (s.setF F.SYS_MODE_CUR c).setF F.SYS_MODE_BUSY 0
    let p : List Byte := [BitVec.ofNat 8 m, 0, 0, 0]
    let s := s.setU fun u => { u with rng := { u.rng with ring := false, joined := false, orders := 0 } }
    Ready s i 0x0002 h p ∧ ModeFree s ∧ p = [BitVec.ofNat 8 m, 0, 0, 0] ∧ ((s.mode ∈ [3, 4, 5, 6] ∧ m = 2) ∨ (s.mode = 2 ∧ m ∈ [1, 5, 6]) ∨ (s.mode = 6 ∧ m = 1)) := by
  decide +kernel

/-- The hypotheses of clause `modeReqDenied` hold together. -/
theorem test_met_modeReqDenied :
    let b := State.reset
    let i := 1
    let h : Hdr := someHdr 8192
    let s := hostState b { sid := 77, st := .opened }
    let c := 3 + 0
    let m := [0, 1, 3, 4, 5, 6].getD (2) 1
    let s := (s.setF F.SYS_MODE_CUR c).setF F.SYS_MODE_BUSY 0
    let p : List Byte := [BitVec.ofNat 8 m, 0, 0, 0]
    let s := s.setU fun u => { u with rng := { u.rng with ring := false, joined := false, orders := 0 } }
    Ready s i 0x0002 h p ∧ ModeFree s ∧ p = [BitVec.ofNat 8 m, 0, 0, 0] ∧ s.mode ∈ [3, 4, 5] ∧ m ∈ [0, 1, 3, 4, 5, 6] := by
  decide +kernel

/-- The hypotheses of clause `modeReqBad` hold together. -/
theorem test_met_modeReqBad :
    let b := State.reset
    let i := 1
    let h : Hdr := someHdr 8192
    let s := hostState b { sid := 77, st := .opened }
    let p : List Byte := [8, 0, 0, 0]
    Ready s i 0x0002 h p ∧ 8 ≤ leAt p 0 1 := by
  decide +kernel

/-- The hypotheses of clause `resetAsked` hold together. -/
theorem test_met_resetAsked :
    let b := State.reset
    let i := 1
    let h : Hdr := someHdr 8192
    let s := hostState b { sid := 77, st := .opened }
    let p : List Byte := leBytes 4 0x7256
    let s := s.setU fun u => { u with rng := { u.rng with joined := false } }
    Ready s i 0x0003 h p ∧ leAt p 0 4 = 0x7256 ∧ s.dev.u.rng.joined = false := by
  decide +kernel

/-- The hypotheses of clause `resetNoKey` hold together. -/
theorem test_met_resetNoKey :
    let b := State.reset
    let i := 1
    let h : Hdr := someHdr 8192
    let s := hostState b { sid := 77, st := .opened }
    let p : List Byte := leBytes 4 0x7255
    Ready s i 0x0003 h p ∧ leAt p 0 4 ≠ 0x7256 := by
  decide +kernel

/-- The hypotheses of clause `openControl` hold together. -/
theorem test_met_openControl :
    let b := State.reset
    let s := b
    let s := linked s
    let i := 3
    let ip := 0xC0A80002 + 5
    let port := 5000 + 93
    let h : Hdr := ⟨ip, port, 0, 36731, 8192 + 234, false⟩
    let s := s.setU fun u => { u with cmd := { u.cmd with sessions := (List.range 4).map fun j => if j < i then { st := .opened, sid := 90 + j, ip := 3, port := 4, grant := 5 } else {} } }
    let k := 0
    let p : List Byte := [BitVec.ofNat 8 k, 0, 0, 0]
    let s := (s.setF (F.SEC_SLOT_CONTROL k) 1).setF F.SEC_STAT_BLANK 0
    let s := s.setU fun u => { u with cmd := { u.cmd with slots := updAt (List.replicate 8 {}) k fun _ => { key := some (zeros 32) } } }
    Live s ∧ Canon s ∧ HostLinkUp s ∧ HasHop s h.ip ∧ h.session = 0 ∧ classOf h.tagw = Cls.b ∧ p.length = 4 ∧ CoreUp s 0 ∧ intakeFull s.dev.u 1 = false ∧ s.dev.u.cmd.outq = [] ∧ i < 4 ∧ s.dev.u.cmd.sessions.length = 4 ∧ (s.sess i).st = .free ∧ (∀ j ∈ List.range i, (s.sess j).st ≠ .free) ∧ ((s.dev.u.cmd.sessions.filter fun x => x.st ≠ .free).map (·.grant)).sum < 512 ∧ HostBufs s 4 20 ∧ p = [BitVec.ofNat 8 k, 0, 0, 0] ∧ k < 8 ∧ (s.dev.u.cmd.slots.getD k {}).key.isSome = true ∧ (s.dev.u.cmd.slots.getD k {}).lockedUntil = none ∧ s.fld (F.SEC_SLOT_CONTROL k) = 1 ∧ s.fld F.SEC_STAT_BLANK = 0 := by
  decide +kernel

/-- The hypotheses of clause `openKeyEmpty` hold together. -/
theorem test_met_openKeyEmpty :
    let b := State.reset
    let s := b
    let s := linked s
    let i := 3
    let ip := 0xC0A80002 + 5
    let port := 5000 + 93
    let h : Hdr := ⟨ip, port, 0, 36731, 8192 + 234, false⟩
    let s := s.setU fun u => { u with cmd := { u.cmd with sessions := (List.range 4).map fun j => if j < i then { st := .opened, sid := 90 + j, ip := 3, port := 4, grant := 5 } else {} } }
    let k := 0
    let p : List Byte := [BitVec.ofNat 8 k, 0, 0, 0]
    let s := s.setF F.SEC_STAT_BLANK 0
    let s := s.setU fun u => { u with cmd := { u.cmd with slots := List.replicate 8 {} } }
    Live s ∧ Canon s ∧ HostLinkUp s ∧ HasHop s h.ip ∧ h.session = 0 ∧ classOf h.tagw = Cls.b ∧ p.length = 4 ∧ CoreUp s 0 ∧ intakeFull s.dev.u 1 = false ∧ s.dev.u.cmd.outq = [] ∧ HostBufs s 4 20 ∧ p = [BitVec.ofNat 8 k, 0, 0, 0] ∧ k < 8 ∧ (s.dev.u.cmd.slots.getD k {}).key = none ∧ s.fld F.SEC_STAT_BLANK = 0 := by
  decide +kernel

/-- The hypotheses of clause `openObserver` hold together. -/
theorem test_met_openObserver :
    let b := State.reset
    let s := b
    let s := linked s
    let i := 3
    let ip := 0xC0A80002 + 5
    let port := 5000 + 93
    let h : Hdr := ⟨ip, port, 0, 36731, 8192 + 234, false⟩
    let s := s.setU fun u => { u with cmd := { u.cmd with sessions := (List.range 4).map fun j => if j < i then { st := .opened, sid := 90 + j, ip := 3, port := 4, grant := 5 } else {} } }
    let p : List Byte := leBytes 4 (20264)
    Live s ∧ Canon s ∧ HostLinkUp s ∧ HasHop s h.ip ∧ h.session = 0 ∧ classOf h.tagw = Cls.b ∧ p.length = 4 ∧ CoreUp s 0 ∧ intakeFull s.dev.u 1 = false ∧ s.dev.u.cmd.outq = [] ∧ i < 4 ∧ s.dev.u.cmd.sessions.length = 4 ∧ (s.sess i).st = .free ∧ (∀ j ∈ List.range i, (s.sess j).st ≠ .free) ∧ ((s.dev.u.cmd.sessions.filter fun x => x.st ≠ .free).map (·.grant)).sum < 512 ∧ HostBufs s 4 6 := by
  decide +kernel

/-- The hypotheses of clause `openFull` hold together. -/
theorem test_met_openFull :
    let b := State.reset
    let s := b
    let s := linked s
    let i := 3
    let ip := 0xC0A80002 + 5
    let port := 5000 + 93
    let h : Hdr := ⟨ip, port, 0, 36731, 8192 + 234, false⟩
    let s := s.setU fun u => { u with cmd := { u.cmd with sessions := (List.range 4).map fun j => if j < i then { st := .opened, sid := 90 + j, ip := 3, port := 4, grant := 5 } else {} } }
    let p : List Byte := leBytes 4 (20264)
    let s := s.setU fun u => { u with cmd := { u.cmd with sessions := (List.range 4).map fun j => { st := .opened, sid := 90 + j, ip := 3, port := 4, grant := 5 } } }
    Live s ∧ Canon s ∧ HostLinkUp s ∧ HasHop s h.ip ∧ h.session = 0 ∧ classOf h.tagw = Cls.b ∧ p.length = 4 ∧ CoreUp s 0 ∧ intakeFull s.dev.u 1 = false ∧ s.dev.u.cmd.outq = [] ∧ HostBufs s 4 6 ∧ (∀ j ∈ List.range 4, (s.sess j).st ≠ .free) := by
  decide +kernel

/-- The hypotheses of clause `proved` hold together. -/
theorem test_met_proved :
    let b := State.reset
    let i := 1
    let h : Hdr := someHdr 8192
    let s := hostState b { sid := 77, st := .pending, slot := 0, challenge := zeros 16 }
    let key := zeros 32
    let s := s.setU fun u => { u with cmd := { u.cmd with slots := List.replicate 8 { key := some key } } }
    let p := proofOf key (s.sess i).challenge (s.sess i).sid (s.sess i).slot (s.sess i).ip (s.sess i).port
    Live s ∧ Canon s ∧ HostLinkUp s ∧ h.session ≠ 0 ∧ findSess s.dev.u.cmd.sessions h.session = some i ∧ (s.sess i).st = .pending ∧ (s.sess i).ip = h.ip ∧ (s.sess i).port = h.port ∧ (s.sess i).queue = [] ∧ HasHop s h.ip ∧ TagFree s i h ∧ HostBufs s p.length 4 ∧ busyCause s.dev.u (s.sess i) 0x0102 = none ∧ CoreUp s 0 ∧ preCheck (s.sess i) (tagWord h) 0x0102 p = none ∧ (s.dev.u.cmd.slots.getD (s.sess i).slot {}).key = some key ∧ p = proofOf key (s.sess i).challenge (s.sess i).sid (s.sess i).slot (s.sess i).ip (s.sess i).port := by
  decide +kernel

/-- The hypotheses of clause `notProved` hold together. -/
theorem test_met_notProved :
    let b := State.reset
    let i := 1
    let h : Hdr := someHdr 8192
    let s := hostState b { sid := 77, st := .pending, slot := 0, challenge := zeros 16 }
    let key := zeros 32
    let s := s.setU fun u => { u with cmd := { u.cmd with slots := List.replicate 8 { key := some key } } }
    let s := s.setU fun u => { u with nv := { u.nv with commit := none }, cmd := { u.cmd with keyBufBy := none } }
    let p := zeros 16
    Live s ∧ Canon s ∧ HostLinkUp s ∧ h.session ≠ 0 ∧ findSess s.dev.u.cmd.sessions h.session = some i ∧ (s.sess i).st = .pending ∧ (s.sess i).ip = h.ip ∧ (s.sess i).port = h.port ∧ (s.sess i).queue = [] ∧ HasHop s h.ip ∧ TagFree s i h ∧ HostBufs s p.length 4 ∧ busyCause s.dev.u (s.sess i) 0x0102 = none ∧ CoreUp s 0 ∧ preCheck (s.sess i) (tagWord h) 0x0102 p = none ∧ (s.dev.u.cmd.slots.getD (s.sess i).slot {}).key = some key ∧ p ≠ proofOf key (s.sess i).challenge (s.sess i).sid (s.sess i).slot (s.sess i).ip (s.sess i).port ∧ s.dev.u.cmd.keyBufBy ≠ some i ∧ (failsOf s.dev.u.elapsed (s.dev.u.cmd.slots.getD (s.sess i).slot {})).length < 7 ∧ s.dev.u.nv.commit = none := by
  decide +kernel

/-- The hypotheses of clause `lockedOut` hold together. -/
theorem test_met_lockedOut :
    let b := State.reset
    let i := 1
    let h : Hdr := someHdr 8192
    let s := hostState b { sid := 77, st := .pending, slot := 0, challenge := zeros 16 }
    let key := zeros 32
    let s := s.setU fun u => { u with cmd := { u.cmd with slots := List.replicate 8 { key := some key } } }
    let s := s.setU fun u => { u with cmd := { u.cmd with slots := List.replicate 8 { key := some key, fails := List.replicate 7 u.elapsed } } }
    let p := zeros 16
    Live s ∧ Canon s ∧ HostLinkUp s ∧ h.session ≠ 0 ∧ findSess s.dev.u.cmd.sessions h.session = some i ∧ (s.sess i).st = .pending ∧ (s.sess i).ip = h.ip ∧ (s.sess i).port = h.port ∧ (s.sess i).queue = [] ∧ HasHop s h.ip ∧ TagFree s i h ∧ HostBufs s p.length 4 ∧ busyCause s.dev.u (s.sess i) 0x0102 = none ∧ CoreUp s 0 ∧ preCheck (s.sess i) (tagWord h) 0x0102 p = none ∧ (s.dev.u.cmd.slots.getD (s.sess i).slot {}).key = some key ∧ p ≠ proofOf key (s.sess i).challenge (s.sess i).sid (s.sess i).slot (s.sess i).ip (s.sess i).port ∧ s.dev.u.cmd.slots.length = 8 ∧ (s.sess i).slot < 8 ∧ 7 ≤ (failsOf s.dev.u.elapsed (s.dev.u.cmd.slots.getD (s.sess i).slot {})).length := by
  decide +kernel

/-- The hypotheses of clause `closed` hold together. -/
theorem test_met_closed :
    let b := State.reset
    let i := 1
    let h : Hdr := someHdr 8192
    let s := hostState b { sid := 77, st := .opened }
    let p : List Byte := []
    let s := s.setU fun u => { u with nv := { u.nv with commit := none }, cmd := { u.cmd with keyBufBy := none }, pcl := { u.pcl with locks := [⟨true, 5, i, 99⟩, ⟨false, 6, 7, 99⟩] } }
    Ready s i 0x0104 h p ∧ s.dev.u.cmd.keyBufBy ≠ some i ∧ s.dev.u.nv.commit = none := by
  decide +kernel

/-- The hypotheses of clause `ping` hold together. -/
theorem test_met_ping :
    let b := State.reset
    let i := 1
    let h : Hdr := someHdr 0
    let s := hostState b { sid := 77, st := .opened }
    let p : List Byte := []
    Ready s i 0x0105 h p := by
  decide +kernel

/-- The hypotheses of clause `evmask` hold together. -/
theorem test_met_evmask :
    let b := State.reset
    let i := 1
    let h : Hdr := someHdr 0
    let s := hostState b { sid := 77, st := .opened }
    let p : List Byte := leBytes 8 (20264)
    Ready s i 0x0107 h p := by
  decide +kernel

/-- The hypotheses of clause `revoked` hold together. -/
theorem test_met_revoked :
    let b := State.reset
    let i := 1
    let h : Hdr := someHdr 0
    let s := hostState b { sid := 77, st := .opened }
    let v := (h.tagw + 1 + 264) % 512
    let p : List Byte := leBytes 2 v
    let x : OutTag := ⟨8192 + v, 0x0603, true, false, [], 0, none, none, 0, false, 0⟩
    let s := s.setU fun u => { u with cmd := { u.cmd with sessions := updAt u.cmd.sessions i fun z => { z with tags := [x] } } }
    Ready s i 0x0106 h p ∧ tagIn (s.sess i) (leAt p 0 2) = some x ∧ leAt p 0 2 < 512 ∧ tagOf h.tagw ≠ leAt p 0 2 ∧ x.started = false ∧ x.done = false := by
  decide +kernel

/-- The hypotheses of clause `revokeDone` hold together. -/
theorem test_met_revokeDone :
    let b := State.reset
    let i := 1
    let h : Hdr := someHdr 0
    let s := hostState b { sid := 77, st := .opened }
    let v := (h.tagw + 1 + 264) % 512
    let p : List Byte := leBytes 2 v
    let x : OutTag := { (⟨8192 + v, 0x0603, true, false, [], 0, none, none, 0, false, 0⟩ : OutTag) with done := true, started := true }
    let s := s.setU fun u => { u with cmd := { u.cmd with sessions := updAt u.cmd.sessions i fun z => { z with tags := [x] } } }
    Ready s i 0x0106 h p ∧ tagIn (s.sess i) (leAt p 0 2) = some x ∧ leAt p 0 2 < 512 ∧ tagOf h.tagw ≠ leAt p 0 2 ∧ x.done = true := by
  decide +kernel

/-- The hypotheses of clause `revokeLate` hold together. -/
theorem test_met_revokeLate :
    let b := State.reset
    let i := 1
    let h : Hdr := someHdr 0
    let s := hostState b { sid := 77, st := .opened }
    let v := (h.tagw + 1 + 264) % 512
    let p : List Byte := leBytes 2 v
    let x : Held := ⟨v, ⟨h.ip, h.port, none, 3, 77, 5, 8192 + v, 1, 0, [], 0⟩, 4, none⟩
    let s := s.setU fun u => { u with cmd := { u.cmd with sessions := updAt u.cmd.sessions i fun z => { z with held := [x] } } }
    Ready s i 0x0106 h p ∧ tagIn (s.sess i) (leAt p 0 2) = none ∧ leAt p 0 2 < 512 ∧ tagOf h.tagw ≠ leAt p 0 2 ∧ x ∈ (s.sess i).held ∧ x.tag = leAt p 0 2 := by
  decide +kernel

/-- The hypotheses of clause `revokeNotag` hold together. -/
theorem test_met_revokeNotag :
    let b := State.reset
    let i := 1
    let h : Hdr := someHdr 0
    let s := hostState b { sid := 77, st := .opened }
    let v := (h.tagw + 1 + 264) % 512
    let p : List Byte := leBytes 2 v
    Ready s i 0x0106 h p ∧ tagIn (s.sess i) (leAt p 0 2) = none ∧ leAt p 0 2 < 512 ∧ tagOf h.tagw ≠ leAt p 0 2 ∧ (∀ x ∈ (s.sess i).held, x.tag ≠ leAt p 0 2) := by
  decide +kernel

/-- The hypotheses of clause `pendingExpired` hold together. -/
theorem test_met_pendingExpired :
    let b := State.reset
    let i := 1
    let s := hostState b { sid := 77, st := .pending, pendingSince := 5 }
    let s := (s.setT 70000000000000).setU fun u => { u with nv := { u.nv with commit := none }, cmd := { u.cmd with keyBufBy := none }, pcl := { u.pcl with locks := [⟨true, 5, i, 99⟩, ⟨false, 6, 7, 99⟩] } }
    Live s ∧ Canon s ∧ i < 4 ∧ s.dev.u.cmd.sessions.length = 4 ∧ s.dev.u.cmd.keyBufBy ≠ some i ∧ s.dev.u.nv.commit = none ∧ (s.sess i).st = .pending ∧ (s.sess i).pendingSince + 1000000000 ≤ s.dev.u.elapsed := by
  decide +kernel

/-- The hypotheses of clause `idleExpired` hold together. -/
theorem test_met_idleExpired :
    let b := State.reset
    let i := 1
    let s := hostState b { sid := 77, st := .opened, lastTaken := 5 }
    let s := (s.setT 70000000000000).setU fun u => { u with nv := { u.nv with commit := none }, cmd := { u.cmd with keyBufBy := none }, pcl := { u.pcl with locks := [⟨true, 5, i, 99⟩, ⟨false, 6, 7, 99⟩] } }
    let s := s.setF F.CMD_IDLET_T (2264)
    Live s ∧ Canon s ∧ i < 4 ∧ s.dev.u.cmd.sessions.length = 4 ∧ s.dev.u.cmd.keyBufBy ≠ some i ∧ s.dev.u.nv.commit = none ∧ (s.sess i).st = .opened ∧ (s.sess i).lastTaken + max 1 (s.fld F.CMD_IDLET_T) * 1000000000 ≤ s.dev.u.elapsed := by
  decide +kernel

/-- The hypotheses of clause `heldReleased` hold together. -/
theorem test_met_heldReleased :
    let b := State.reset
    let i := 1
    let s := hostState b { sid := 77, st := .opened }
    let s := s.setT 70000000000000
    let s := s.setU fun u => { u with cmd := { u.cmd with sessions := updAt u.cmd.sessions i fun z => { z with held := (List.range 5).map fun j => ⟨j % 3, ⟨1, 2, none, 3, 77, 5, j, 1, 0, [], 0⟩, if j = 3 then 70000000000000 else 0, if j = 1 then none else some ⟨3, 0, 0⟩⟩ } } }
    Live s ∧ Canon s ∧ i < 4 ∧ s.dev.u.cmd.sessions.length = 4 := by
  decide +kernel

/-- The hypotheses of clause `replyAged` hold together. -/
theorem test_met_replyAged :
    let b := State.reset
    let i := 1
    let s := hostState b { sid := 77, st := .opened }
    let s := s.setT 70000000000000
    let s := s.setU fun u => { u with cmd := { u.cmd with sessions := updAt u.cmd.sessions i fun z => { z with queue := (List.range 5).map fun j => ⟨⟨1, 2, none, 3, 77, 5, j, 1, 0, [], 0⟩, if j % 2 = 1 then 70000000000000 else 0, if j = 1 then none else some ⟨3, 0, 0⟩, j == 3, none, none⟩ } } }
    Live s ∧ Canon s ∧ i < 4 ∧ s.dev.u.cmd.sessions.length = 4 ∧ (∃ q ∈ (s.sess i).queue, q.since + 100000000 ≤ s.dev.u.elapsed) := by
  decide +kernel

/-- The hypotheses of clause `readPlain` hold together. -/
theorem test_met_readPlain :
    let b := State.reset
    let i := 1
    let h : Hdr := someHdr 0
    let s := hostState b { sid := 77, st := .opened }
    let p : List Byte := leBytes 4 ([R.PCL_CTL, R.PCL_LEASE, R.REC_REFAVG, R.FLD_OKCNT 1, R.RNG_CTL, R.PCL_LLEN 3, R.THM_GRACE].getD (6) 0)
    Ready s i 0x0201 h p ∧ Plain (leAt p 0 4) := by
  decide +kernel

/-- The hypotheses of clause `readClears` hold together. -/
theorem test_met_readClears :
    let b := State.reset
    let i := 1
    let h : Hdr := someHdr 0
    let s := hostState b { sid := 77, st := .opened }
    let a := [R.FLD_STAT, R.THM_STAT, R.REC_STAT, R.PCL_STAT, R.RNG_STAT].getD (4) 0
    let xk := (rowOf a).getD (⟨"", 0, [], 0, 0, 0, 0, 0, [], false, [], 0, 0⟩, 0)
    let x := xk.1
    let k := xk.2
    let p : List Byte := leBytes 4 a
    Ready s i 0x0201 h p ∧ leAt p 0 4 = a ∧ rowOf a = some (x, k) ∧ a / 0x10000 ∈ [3, 6, 7, 0xB, 0xC] := by
  decide +kernel

/-- The hypotheses of clause `readUnmapped` hold together. -/
theorem test_met_readUnmapped :
    let b := State.reset
    let i := 1
    let h : Hdr := someHdr 0
    let s := hostState b { sid := 77, st := .opened }
    let p : List Byte := leBytes 4 (0x160000 + 4 * (68))
    Ready s i 0x0201 h p ∧ leAt p 0 4 % 4 = 0 ∧ leAt p 0 4 / 0x10000 ≠ 0x14 ∧ leAt p 0 4 / 0x10000 ≠ 0x15 ∧ rowOf (leAt p 0 4) = none := by
  decide +kernel

/-- The hypotheses of clause `readUnaligned` hold together. -/
theorem test_met_readUnaligned :
    let b := State.reset
    let i := 1
    let h : Hdr := someHdr 0
    let s := hostState b { sid := 77, st := .opened }
    let p : List Byte := leBytes 4 (4 * (68) + 1 + 1)
    Ready s i 0x0201 h p ∧ leAt p 0 4 % 4 ≠ 0 := by
  decide +kernel

/-- The hypotheses of clause `writePlain` hold together. -/
theorem test_met_writePlain :
    let b := State.reset
    let i := 1
    let h : Hdr := someHdr 0
    let s := hostState b { sid := 77, st := .opened }
    let a := [R.PCL_LLEN 3, R.PCL_CTL, R.PCL_LEASE].getD (2) 0
    let xk := (rowOf a).getD (⟨"", 0, [], 0, 0, 0, 0, 0, [], false, [], 0, 0⟩, 0)
    let x := xk.1
    let k := xk.2
    let w := BitVec.ofNat 32 (28183 * 7 + 65536 * (1 + 36102))
    let p : List Byte := leBytes 4 a ++ leBytes 4 w.toNat
    Ready s i 0x0202 h p ∧ p = leBytes 4 a ++ leBytes 4 w.toNat ∧ rowOf a = some (x, k) ∧ x.mask = true ∧ x.kp = 0 ∧ x.noThree = [] ∧ a / 0x10000 = 0xC ∧ w.toNat / 65536 ≠ 0 := by
  decide +kernel

/-- The hypotheses of clause `writeStores` hold together. -/
theorem test_met_writeStores :
    let b := State.reset
    let i := 1
    let h : Hdr := someHdr 0
    let s := hostState b { sid := 77, st := .opened }
    let a := [R.RNG_CTL, R.REC_CTL, R.THM_SENSEN, R.PCL_CTL, R.REC_ANCHGAIN].getD (68 % 5) 0
    let w := (((28183 * 7) % 65536) &&& (0xFFFF ^^^ (((rowOf a).map (·.1.kp)).getD 0))) ||| ((s.reg a).toNat &&& (((rowOf a).map (·.1.kp)).getD 0)) ||| 65536 * 0xFFFF
    let p : List Byte := leBytes 4 a ++ leBytes 4 w
    Ready s i 0x0202 h p ∧ s.stores (leAt p 0 4) (leAt p 4 4) = true := by
  decide +kernel

/-- The hypotheses of clause `writeHostKept` hold together. -/
theorem test_met_writeHostKept :
    let b := State.reset
    let i := 1
    let h : Hdr := someHdr 0
    let s := hostState b { sid := 77, st := .opened }
    let a := [R.RNG_CTL, R.REC_CTL, R.PCL_CTL, R.REC_ANCHGAIN].getD (68 % 4) 0
    let xk := (rowOf a).getD (⟨"", 0, [], 0, 0, 0, 0, 0, [], false, [], 0, 0⟩, 0)
    let x := xk.1
    let k := xk.2
    let w := ((s.reg a).toNat ^^^ x.kp) % 65536 + 65536 * 0xFFFF
    let p : List Byte := leBytes 4 a ++ leBytes 4 w
    Ready s i 0x0202 h p ∧ rowOf (leAt p 0 4) = some (x, k) ∧ x.mask = true ∧ leAt p 0 4 / 0x10000 ∈ [3, 7, 0xB, 0xC] ∧ (leAt p 4 4 ^^^ (s.reg (leAt p 0 4)).toNat) &&& (leAt p 4 4 / 65536) &&& x.kp ≠ 0 := by
  decide +kernel

/-- The hypotheses of clause `writeUnmapped` hold together. -/
theorem test_met_writeUnmapped :
    let b := State.reset
    let i := 1
    let h : Hdr := someHdr 0
    let s := hostState b { sid := 77, st := .opened }
    let p : List Byte := leBytes 4 (0x160000 + 4 * (68)) ++ zeros 4
    Ready s i 0x0202 h p ∧ leAt p 0 4 % 4 = 0 ∧ leAt p 0 4 / 0x10000 ≠ 0x14 ∧ leAt p 0 4 / 0x10000 ≠ 0x15 ∧ rowOf (leAt p 0 4) = none := by
  decide +kernel

/-- The hypotheses of clause `writePrivileged` hold together. -/
theorem test_met_writePrivileged :
    let b := State.reset
    let i := 1
    let h : Hdr := someHdr 0
    let s := hostState b { sid := 77, st := .opened }
    let p : List Byte := leBytes 4 (0x140000 + 4 * (68)) ++ zeros 4
    Ready s i 0x0202 h p ∧ leAt p 0 4 % 4 = 0 ∧ (leAt p 0 4 / 0x10000 = 0x14 ∨ leAt p 0 4 / 0x10000 = 0x15) := by
  decide +kernel

/-- The hypotheses of clause `readBlock` hold together. -/
theorem test_met_readBlock :
    let b := State.reset
    let i := 1
    let h : Hdr := someHdr 0
    let s := hostState b { sid := 77, st := .opened }
    let n := 1 + 0
    let p : List Byte := leBytes 4 (R.PCL_LLEN 0) ++ leBytes 2 n ++ zeros 2
    Ready s i 0x0203 h p ∧ leAt p 4 2 = n ∧ 1 ≤ n ∧ n ≤ 64 ∧ leAt p 6 2 = 0 ∧ (∀ j ∈ List.range n, Plain (leAt p 0 4 + 4 * j)) := by
  decide +kernel

/-- The hypotheses of clause `readBlockBad` hold together. -/
theorem test_met_readBlockBad :
    let b := State.reset
    let i := 1
    let h : Hdr := someHdr 0
    let s := hostState b { sid := 77, st := .opened }
    let p : List Byte := leBytes 4 (R.PCL_LLEN 0) ++ leBytes 2 (if 0 = 0 then 0 else 65) ++ zeros 2
    Ready s i 0x0203 h p ∧ (leAt p 4 2 = 0 ∨ 64 < leAt p 4 2) := by
  decide +kernel

/-- The hypotheses of clause `readList` hold together. -/
theorem test_met_readList :
    let b := State.reset
    let i := 1
    let h : Hdr := someHdr 0
    let s := hostState b { sid := 77, st := .opened }
    let n := 1 + 5
    let p : List Byte := leBytes 2 n ++ zeros 2 ++ (List.range n).flatMap (fun j => leBytes 4 ([R.PCL_CTL, R.PCL_LEASE, R.REC_REFAVG, R.FLD_OKCNT 1, R.RNG_CTL, R.PCL_LLEN 3, R.THM_GRACE].getD ((28183 + j) % 7) 0))
    Ready s i 0x0205 h p ∧ leAt p 0 2 = n ∧ 1 ≤ n ∧ n ≤ 64 ∧ leAt p 2 2 = 0 ∧ (∀ j ∈ List.range n, Plain (leAt p (4 + 4 * j) 4)) := by
  decide +kernel

/-- The hypotheses of clause `writeBlock` hold together. -/
theorem test_met_writeBlock :
    let b := State.reset
    let i := 1
    let h : Hdr := someHdr 0
    let s := hostState b { sid := 77, st := .opened }
    let v := (List.range 16).map someNum
    let p : List Byte := leBytes 4 (R.RNG_BOUND 0) ++ leBytes 2 16 ++ zeros 2 ++ (List.range 16).flatMap (fun j => leBytes 4 (0xFFFF0000 + (v.getD j 0) % 65536))
    Ready s i 0x0204 h p ∧ p = leBytes 4 (R.RNG_BOUND 0) ++ leBytes 2 16 ++ zeros 2 ++ (List.range 16).flatMap (fun j => leBytes 4 (0xFFFF0000 + (v.getD j 0) % 65536)) := by
  decide +kernel

/-- The hypotheses of clause `blockStores` hold together. -/
theorem test_met_blockStores :
    let b := State.reset
    let i := 1
    let h : Hdr := someHdr 0
    let s := hostState b { sid := 77, st := .opened }
    let n := 6
    let a := R.PCL_INTERVAL
    let p : List Byte := leBytes 4 a ++ leBytes 2 n ++ zeros 2 ++ (List.range n).flatMap (fun j => leBytes 4 (0xFFFF0000 + (someNum j) % 256))
    Ready s i 0x0204 h p ∧ leAt p 4 2 = n ∧ 1 ≤ n ∧ n ≤ 64 ∧ leAt p 6 2 = 0 ∧ leAt p 0 4 % 4 = 0 ∧ (∀ j ∈ List.range n, s.stores (leAt p 0 4 + 4 * j) (leAt p (8 + 4 * j) 4) = true) := by
  decide +kernel

/-- The hypotheses of clause `blockStops` hold together. -/
theorem test_met_blockStops :
    let b := State.reset
    let i := 1
    let h : Hdr := someHdr 0
    let s := hostState b { sid := 77, st := .opened }
    let m := 3
    let n := m + 3
    let a := R.RNG_BOUND 13
    let p : List Byte := leBytes 4 a ++ leBytes 2 n ++ zeros 2 ++ (List.range n).flatMap (fun j => leBytes 4 (0xFFFF0000 + (someNum j) % 256))
    Ready s i 0x0204 h p ∧ leAt p 4 2 = n ∧ m < n ∧ n ≤ 64 ∧ leAt p 6 2 = 0 ∧ leAt p 0 4 % 4 = 0 ∧ (∀ j ∈ List.range m, s.stores (leAt p 0 4 + 4 * j) (leAt p (8 + 4 * j) 4) = true) ∧ rowOf (leAt p 0 4 + 4 * m) = none ∧ (leAt p 0 4 + 4 * m) / 0x10000 ≠ 0x14 ∧ (leAt p 0 4 + 4 * m) / 0x10000 ≠ 0x15 := by
  decide +kernel

/-- The hypotheses of clause `writeBlockStops` hold together. -/
theorem test_met_writeBlockStops :
    let b := State.reset
    let i := 1
    let h : Hdr := someHdr 0
    let s := hostState b { sid := 77, st := .opened }
    let p : List Byte := leBytes 4 0x160000 ++ leBytes 2 2 ++ zeros 2 ++ zeros 8
    Ready s i 0x0204 h p ∧ p = leBytes 4 0x160000 ++ leBytes 2 2 ++ zeros 2 ++ zeros 8 := by
  decide +kernel

/-- The hypotheses of clause `snapshotTold` hold together. -/
theorem test_met_snapshotTold :
    let b := State.reset
    let i := 1
    let h : Hdr := someHdr 8192
    let s := hostState b { sid := 77, st := .opened }
    let p : List Byte := []
    Ready s i 0x0301 h p := by
  decide +kernel

/-- The hypotheses of clause `timeStep` hold together. -/
theorem test_met_timeStep :
    let b := State.reset
    let i := 1
    let h : Hdr := someHdr 8192
    let s := hostState b { sid := 77, st := .opened }
    let p : List Byte := leBytes 8 (20264 * 999)
    let s := s.setF F.SYS_MODE_CUR ([0, 2, 6].getD (1) 0)
    let s := s.setU fun u => { u with rng := { u.rng with ring := false, joined := false } }
    Ready s i 0x0302 h p ∧ s.dev.u.rng.ring = false ∧ s.dev.u.rng.joined = false ∧ s.mode ∈ [0, 2, 6] := by
  decide +kernel

/-- The hypotheses of clause `timeSlew` hold together. -/
theorem test_met_timeSlew :
    let b := State.reset
    let i := 1
    let h : Hdr := someHdr 8192
    let s := hostState b { sid := 77, st := .opened }
    let p : List Byte := leBytes 8 (20264 * 999)
    let s := s.setF F.SYS_MODE_CUR ([1, 3, 4, 5, 7].getD (3) 1)
    let s := s.setU fun u => { u with rng := { u.rng with ring := false, joined := false } }
    Ready s i 0x0302 h p ∧ s.dev.u.rng.ring = false ∧ s.dev.u.rng.joined = false ∧ s.mode ∉ [0, 2, 6] := by
  decide +kernel

/-- The hypotheses of clause `alarmSet` hold together. -/
theorem test_met_alarmSet :
    let b := State.reset
    let i := 1
    let h : Hdr := someHdr 8192
    let s := hostState b { sid := 77, st := .opened }
    let n := 64 + 104
    let src := 14
    let fb := 6
    let v : Int := 2 ^ 47 - 1 - (2 : Nat)
    let p : List Byte := leBytes 2 n ++ leBytes 1 src ++ leBytes 1 fb ++ leBytes 8 (ofSigned 64 v)
    Ready s i 0x0303 h p ∧ p = leBytes 2 n ++ leBytes 1 src ++ leBytes 1 fb ++ leBytes 8 (ofSigned 64 v) ∧ 64 ≤ n ∧ n < 512 ∧ s.fld (F.ENC_ACTL_SRC n) ≤ 16 ∧ fb < 256 ∧ -(2 ^ 47) ≤ v ∧ v < 2 ^ 47 ∧ ((src < 16 ∧ s.lead src < v) ∨ (src = 16 ∧ (s.mains : Int) < v)) := by
  decide +kernel

/-- The hypotheses of clause `alarmLow` hold together. -/
theorem test_met_alarmLow :
    let b := State.reset
    let i := 1
    let h : Hdr := someHdr 8192
    let s := hostState b { sid := 77, st := .opened }
    let p : List Byte := leBytes 2 (40) ++ zeros 10
    Ready s i 0x0303 h p ∧ leAt p 0 2 < 64 := by
  decide +kernel

/-- The hypotheses of clause `alarmCleared` hold together. -/
theorem test_met_alarmCleared :
    let b := State.reset
    let i := 1
    let h : Hdr := someHdr 8192
    let s := hostState b { sid := 77, st := .opened }
    let n := 64 + 104
    let p : List Byte := leBytes 2 n ++ zeros 2
    Ready s i 0x0304 h p ∧ p = leBytes 2 n ++ zeros 2 ∧ 64 ≤ n ∧ n < 512 ∧ s.fld (F.ENC_ACTL_SRC n) ≤ 16 := by
  decide +kernel

/-- The hypotheses of clause `geomLoad` hold together. -/
theorem test_met_geomLoad :
    let b := State.reset
    let i := 1
    let h : Hdr := someHdr 24576
    let s := hostState b { sid := 77, st := .opened }
    let p : List Byte := zeros 4 ++ leBytes 4 4240
    let s := s.setU fun u => { u with nv := { u.nv with commit := none } }
    let s := (s.setF F.TOMO_CTL_RUN 0).setU fun u => { u with tomo := { u.tomo with frame := none } }
    Ready s i 0x0401 h p ∧ p = zeros 4 ++ leBytes 4 4240 ∧ s.dev.u.nv.commit = none ∧ s.fld F.TOMO_CTL_RUN = 0 ∧ s.dev.u.tomo.frame = none := by
  decide +kernel

/-- The hypotheses of clause `geomLoadRuns` hold together. -/
theorem test_met_geomLoadRuns :
    let b := State.reset
    let i := 1
    let h : Hdr := someHdr 24576
    let s := hostState b { sid := 77, st := .opened }
    let p : List Byte := zeros 4 ++ leBytes 4 4240
    let s := s.setU fun u => { u with nv := { u.nv with commit := none } }
    let s := s.setF F.TOMO_CTL_RUN 1
    Ready s i 0x0401 h p ∧ p = zeros 4 ++ leBytes 4 4240 ∧ s.dev.u.nv.commit = none ∧ s.fld F.TOMO_CTL_RUN = 1 := by
  decide +kernel

/-- The hypotheses of clause `calLoad` hold together. -/
theorem test_met_calLoad :
    let b := State.reset
    let i := 1
    let h : Hdr := someHdr 24576
    let s := hostState b { sid := 77, st := .opened }
    let p : List Byte := zeros 4 ++ leBytes 4 65600
    let s := s.setU fun u => { u with nv := { u.nv with commit := none } }
    Ready s i 0x0404 h p ∧ p = zeros 4 ++ leBytes 4 65600 ∧ s.dev.u.nv.commit = none := by
  decide +kernel

/-- The hypotheses of clause `calLoadBusy` hold together. -/
theorem test_met_calLoadBusy :
    let b := State.reset
    let i := 1
    let h : Hdr := someHdr 24576
    let s := hostState b { sid := 77, st := .opened }
    let p : List Byte := zeros 4 ++ leBytes 4 65600
    let s := s.setU fun u => { u with nv := { u.nv with commit := some { obj := .geometry, bank := 0, data := [], step := 4, serves := none, reply := [] } } }
    Ready s i 0x0404 h p ∧ p = zeros 4 ++ leBytes 4 65600 ∧ s.dev.u.nv.commit.isSome = true := by
  decide +kernel

/-- The hypotheses of clause `geomRead` hold together. -/
theorem test_met_geomRead :
    let b := State.reset
    let i := 1
    let h : Hdr := someHdr 24576
    let s := hostState b { sid := 77, st := .opened }
    let d : List Byte := List.replicate 4240 (BitVec.ofNat 8 (20264))
    let p : List Byte := [1, 0, 0, 0] ++ leBytes 4 4240
    let s := s.setU fun u => { u with tomo := { u.tomo with geom := some d } }
    Ready s i 0x0402 h p ∧ p = [1, 0, 0, 0] ++ leBytes 4 4240 ∧ s.dev.u.tomo.geom = some d ∧ d.length = 4240 := by
  refine ⟨by decide +kernel, rfl, rfl, List.length_replicate⟩

/-- The hypotheses of clause `geomReadNone` hold together. -/
theorem test_met_geomReadNone :
    let b := State.reset
    let i := 1
    let h : Hdr := someHdr 24576
    let s := hostState b { sid := 77, st := .opened }
    let p : List Byte := [1, 0, 0, 0] ++ leBytes 4 4240
    let s := s.setU fun u => { u with tomo := { u.tomo with geom := none } }
    Ready s i 0x0402 h p ∧ p = [1, 0, 0, 0] ++ leBytes 4 4240 ∧ s.dev.u.tomo.geom = none := by
  decide +kernel

/-- The hypotheses of clause `calRead` hold together. -/
theorem test_met_calRead :
    let b := State.reset
    let i := 1
    let h : Hdr := someHdr 24576
    let s := hostState b { sid := 77, st := .opened }
    let d : List Byte := List.replicate 65600 (BitVec.ofNat 8 (20264))
    let p : List Byte := [1, 0, 0, 0] ++ leBytes 4 65600
    let s := s.setU fun u => { u with tomo := { u.tomo with cal := some d } }
    Ready s i 0x0405 h p ∧ p = [1, 0, 0, 0] ++ leBytes 4 65600 ∧ s.dev.u.tomo.cal = some d ∧ d.length = 65600 := by
  refine ⟨by decide +kernel, rfl, rfl, List.length_replicate⟩

/-- The hypotheses of clause `calReadNone` hold together. -/
theorem test_met_calReadNone :
    let b := State.reset
    let i := 1
    let h : Hdr := someHdr 24576
    let s := hostState b { sid := 77, st := .opened }
    let p : List Byte := [1, 0, 0, 0] ++ leBytes 4 65600
    let s := s.setU fun u => { u with tomo := { u.tomo with cal := none } }
    Ready s i 0x0405 h p ∧ p = [1, 0, 0, 0] ++ leBytes 4 65600 ∧ s.dev.u.tomo.cal = none := by
  decide +kernel

/-- The hypotheses of clause `calSweep` hold together. -/
theorem test_met_calSweep :
    let b := State.reset
    let i := 1
    let h : Hdr := someHdr 8192
    let s := hostState b { sid := 77, st := .opened }
    let p : List Byte := []
    let s := (s.setF F.SYS_MODE_CUR ([1, 6].getD (1) 1)).setU fun u => { u with tomo := { u.tomo with frame := none, sweep := none } }
    Ready s i 0x0403 h p ∧ s.mode ∈ [1, 6] ∧ s.dev.u.tomo.frame = none ∧ s.dev.u.tomo.sweep = none := by
  decide +kernel

/-- The hypotheses of clause `calSweepMode` hold together. -/
theorem test_met_calSweepMode :
    let b := State.reset
    let i := 1
    let h : Hdr := someHdr 8192
    let s := hostState b { sid := 77, st := .opened }
    let p : List Byte := []
    let s := s.setF F.SYS_MODE_CUR ([2, 3, 4, 5, 7].getD (3) 2)
    Ready s i 0x0403 h p ∧ s.mode ∉ [1, 6] := by
  decide +kernel

/-- The hypotheses of clause `rangeSave` hold together. -/
theorem test_met_rangeSave :
    let b := State.reset
    let i := 1
    let h : Hdr := someHdr 16384
    let s := hostState b { sid := 77, st := .opened }
    let p : List Byte := []
    let s := s.setU fun u => { u with nv := { u.nv with commit := none } }
    let s := s.setU fun u => { u with tomo := { u.tomo with ranges := [(3, 20264), (700, 4)] } }
    Ready s i 0x0406 h p ∧ s.dev.u.nv.commit = none := by
  decide +kernel

/-- The hypotheses of clause `rangeRead` hold together. -/
theorem test_met_rangeRead :
    let b := State.reset
    let i := 1
    let h : Hdr := someHdr 24576
    let s := hostState b { sid := 77, st := .opened }
    let p : List Byte := [1, 0, 0, 0] ++ leBytes 4 16384
    Ready s i 0x0407 h p ∧ p = [1, 0, 0, 0] ++ leBytes 4 16384 := by
  decide +kernel

/-- The hypotheses of clause `frameRead` hold together. -/
theorem test_met_frameRead :
    let b := State.reset
    let i := 1
    let h : Hdr := someHdr 24576
    let s := hostState b { sid := 77, st := .opened }
    let q := 7
    let x : Nat × FrameRec := (3, { fseq := 7, fflags := 1, stamp := {}, plan := {}, geomId := 7, pairs := [], nmiss := 0, nrecip := 0, novl := 0, temp0 := 0, temp1 := 0, wtClose := 9 })
    let p : List Byte := [1, 0, 0, 0] ++ leBytes 4 402824 ++ leBytes 8 q
    let s := s.setU fun u => { u with tomo := { u.tomo with ring := [x] } }
    Ready s i 0x0408 h p ∧ p = [1, 0, 0, 0] ++ leBytes 4 402824 ++ leBytes 8 q ∧ x ∈ s.dev.u.tomo.ring ∧ q ≠ 0 ∧ q < 2 ^ 64 ∧ x.2.fseq = q ∧ (∀ y ∈ s.dev.u.tomo.ring, y.2.fseq = q → y = x) := by
  decide +kernel

/-- The hypotheses of clause `frameReadNone` hold together. -/
theorem test_met_frameReadNone :
    let b := State.reset
    let i := 1
    let h : Hdr := someHdr 24576
    let s := hostState b { sid := 77, st := .opened }
    let q := 1 + 68
    let p : List Byte := [1, 0, 0, 0] ++ leBytes 4 402824 ++ leBytes 8 q
    let s := s.setU fun u => { u with tomo := { u.tomo with ring := [] } }
    Ready s i 0x0408 h p ∧ p = [1, 0, 0, 0] ++ leBytes 4 402824 ++ leBytes 8 q ∧ q ≠ 0 ∧ q < 2 ^ 64 ∧ (∀ y ∈ s.dev.u.tomo.ring, y.2.fseq ≠ q) := by
  decide +kernel

/-- The hypotheses of clause `matLoad` hold together. -/
theorem test_met_matLoad :
    let b := State.reset
    let i := 1
    let h : Hdr := someHdr 24576
    let s := hostState b { sid := 77, st := .opened }
    let len := 1 + 20264
    let p : List Byte := zeros 4 ++ leBytes 4 len
    let s := s.setU fun u => { u with nv := { u.nv with commit := none } }
    Ready s i 0x0501 h p ∧ p = zeros 4 ++ leBytes 4 len ∧ 1 ≤ len ∧ len < 2 ^ 32 ∧ s.dev.u.nv.commit = none := by
  decide +kernel

/-- The hypotheses of clause `matInfo` hold together. -/
theorem test_met_matInfo :
    let b := State.reset
    let i := 1
    let h : Hdr := someHdr 8192
    let s := hostState b { sid := 77, st := .opened }
    let p : List Byte := []
    Ready s i 0x0502 h p := by
  decide +kernel

/-- The hypotheses of clause `modelLoad` hold together. -/
theorem test_met_modelLoad :
    let b := State.reset
    let i := 1
    let h : Hdr := someHdr 16384
    let s := hostState b { sid := 77, st := .opened }
    let k := 40
    let d : List Byte := [0, 0, 0, 0, 0xE3, 0x20, 0xBB, 0xDE] ++ zeros 500 ++ [0xFF, 0xFF, 0xFF, 0xFF]
    let p : List Byte := [BitVec.ofNat 8 k, 0, 0, 0] ++ d
    let s := s.setU fun u => { u with nv := { u.nv with commit := none } }
    Ready s i 0x0503 h p ∧ p = [BitVec.ofNat 8 k, 0, 0, 0] ++ d ∧ k < 64 ∧ d.length = 512 ∧ s.dev.u.nv.commit = none ∧ Model.check d = St.ok := by
  exact ⟨by decide +kernel, rfl, by decide, by decide +kernel, rfl, model_check_met⟩

/-- The hypotheses of clause `modelRefused` hold together. -/
theorem test_met_modelRefused :
    let b := State.reset
    let i := 1
    let h : Hdr := someHdr 16384
    let s := hostState b { sid := 77, st := .opened }
    let k := 40
    let d : List Byte := BitVec.ofNat 8 (2) :: zeros 511
    let p : List Byte := [BitVec.ofNat 8 k, 0, 0, 0] ++ d
    let s := s.setU fun u => { u with nv := { u.nv with commit := none } }
    Ready s i 0x0503 h p ∧ p = [BitVec.ofNat 8 k, 0, 0, 0] ++ d ∧ k < 64 ∧ d.length = 512 ∧ s.dev.u.nv.commit = none ∧ Model.check d ≠ St.ok := by
  decide +kernel

/-- The hypotheses of clause `modelRead` hold together. -/
theorem test_met_modelRead :
    let b := State.reset
    let i := 1
    let h : Hdr := someHdr 8192
    let s := hostState b { sid := 77, st := .opened }
    let k := 40
    let d : List Byte := List.replicate 512 7
    let p : List Byte := [BitVec.ofNat 8 k, 0, 0, 0]
    let s := s.setU fun u => { u with reco := { u.reco with models := [(k, d)] } }
    Ready s i 0x0504 h p ∧ p = [BitVec.ofNat 8 k, 0, 0, 0] ∧ k < 64 ∧ modelAt s.dev.u.reco k = some d := by
  decide +kernel

/-- The hypotheses of clause `refLoad` hold together. -/
theorem test_met_refLoad :
    let b := State.reset
    let i := 1
    let h : Hdr := someHdr 24576
    let s := hostState b { sid := 77, st := .opened }
    let p : List Byte := zeros 4 ++ leBytes 4 779776
    let s := s.setU fun u => { u with nv := { u.nv with commit := none } }
    Ready s i 0x0505 h p ∧ p = zeros 4 ++ leBytes 4 779776 ∧ s.dev.u.nv.commit = none := by
  decide +kernel

/-- The hypotheses of clause `refRead` hold together. -/
theorem test_met_refRead :
    let b := State.reset
    let i := 1
    let h : Hdr := someHdr 24576
    let s := hostState b { sid := 77, st := .opened }
    let d : List Byte := List.replicate 779776 (BitVec.ofNat 8 (20264))
    let p : List Byte := [1, 0, 0, 0] ++ leBytes 4 779776
    let s := s.setU fun u => { u with reco := { u.reco with ref := some d } }
    Ready s i 0x0506 h p ∧ p = [1, 0, 0, 0] ++ leBytes 4 779776 ∧ s.dev.u.reco.ref = some d ∧ d.length = 779776 := by
  refine ⟨by decide +kernel, rfl, rfl, List.length_replicate⟩

/-- The hypotheses of clause `refReadNone` hold together. -/
theorem test_met_refReadNone :
    let b := State.reset
    let i := 1
    let h : Hdr := someHdr 24576
    let s := hostState b { sid := 77, st := .opened }
    let p : List Byte := [1, 0, 0, 0] ++ leBytes 4 779776
    let s := s.setU fun u => { u with reco := { u.reco with ref := none } }
    Ready s i 0x0506 h p ∧ p = [1, 0, 0, 0] ++ leBytes 4 779776 ∧ s.dev.u.reco.ref = none := by
  decide +kernel

/-- The hypotheses of clause `captureStart` hold together. -/
theorem test_met_captureStart :
    let b := State.reset
    let i := 1
    let h : Hdr := someHdr 8192
    let s := hostState b { sid := 77, st := .opened }
    let k := 0
    let id := 1 + 6105
    let mr := if k = 0 then 0 else 4025
    let tr := if k = 0 then 0 else 1945
    let eps : List Byte := if k = 0 then zeros 8 else List.replicate 8 5
    let p : List Byte := BitVec.ofNat 8 k :: zeros 3 ++ leBytes 4 id ++ eps ++ leBytes 2 mr ++ leBytes 2 tr
    let s := s.setF F.SYS_MODE_CUR ([1, 6].getD (1) 1)
    let s := s.setU fun u => { u with reco := { u.reco with capture := none } }
    Ready s i 0x0507 h p ∧ p = BitVec.ofNat 8 k :: zeros 3 ++ leBytes 4 id ++ eps ++ leBytes 2 mr ++ leBytes 2 tr ∧ k ≤ 1 ∧ 1 ≤ id ∧ id < 2 ^ 32 ∧ mr < 65536 ∧ tr < 65536 ∧ eps.length = 8 ∧ (k = 0 → eps = zeros 8 ∧ mr = 0 ∧ tr = 0) ∧ s.mode ∈ [1, 6] ∧ (s.dev.u.reco.capture.map (·.done)).getD true = true := by
  decide +kernel

/-- The hypotheses of clause `captureMode` hold together. -/
theorem test_met_captureMode :
    let b := State.reset
    let i := 1
    let h : Hdr := someHdr 8192
    let s := hostState b { sid := 77, st := .opened }
    let k := 1
    let id := 1 + 6105
    let mr := 4025
    let tr := 1945
    let eps : List Byte := List.replicate 8 5
    let p : List Byte := BitVec.ofNat 8 k :: zeros 3 ++ leBytes 4 id ++ eps ++ leBytes 2 mr ++ leBytes 2 tr
    let s := s.setF F.SYS_MODE_CUR ([2, 3, 4, 5, 7].getD (3) 2)
    Ready s i 0x0507 h p ∧ p = BitVec.ofNat 8 k :: zeros 3 ++ leBytes 4 id ++ eps ++ leBytes 2 mr ++ leBytes 2 tr ∧ k = 1 ∧ 1 ≤ id ∧ id < 2 ^ 32 ∧ mr < 65536 ∧ tr < 65536 ∧ eps.length = 8 ∧ s.mode ∉ [1, 6] := by
  decide +kernel

/-- The hypotheses of clause `captureEnd` hold together. -/
theorem test_met_captureEnd :
    let b := State.reset
    let i := 1
    let h : Hdr := someHdr 16384
    let s := hostState b { sid := 77, st := .opened }
    let c : Capture := { full := 0 == 0, refId := 7, done := true, taken := 3 }
    let p : List Byte := []
    let s := s.setU fun u => { u with nv := { u.nv with commit := none } }
    let s := s.setU fun u => { u with reco := { u.reco with capture := some c } }
    Ready s i 0x0508 h p ∧ s.dev.u.nv.commit = none ∧ s.dev.u.reco.capture = some c ∧ c.done = true := by
  decide +kernel

/-- The hypotheses of clause `captureNone` hold together. -/
theorem test_met_captureNone :
    let b := State.reset
    let i := 1
    let h : Hdr := someHdr 16384
    let s := hostState b { sid := 77, st := .opened }
    let p : List Byte := []
    let s := s.setU fun u => { u with nv := { u.nv with commit := none } }
    let s := s.setU fun u => { u with reco := { u.reco with capture := none } }
    Ready s i 0x0508 h p ∧ s.dev.u.nv.commit = none ∧ s.dev.u.reco.capture = none := by
  decide +kernel

/-- The hypotheses of clause `capturePending` hold together. -/
theorem test_met_capturePending :
    let b := State.reset
    let i := 1
    let h : Hdr := someHdr 16384
    let s := hostState b { sid := 77, st := .opened }
    let p : List Byte := []
    let s := s.setU fun u => { u with nv := { u.nv with commit := none } }
    let s := s.setU fun u => { u with reco := { u.reco with capture := some { done := false } } }
    Ready s i 0x0508 h p ∧ s.dev.u.nv.commit = none ∧ s.dev.u.reco.capture.map (·.done) = some false := by
  decide +kernel

/-- The hypotheses of clause `anchorTaken` hold together. -/
theorem test_met_anchorTaken :
    let b := State.reset
    let i := 1
    let h : Hdr := someHdr 16384
    let s := hostState b { sid := 77, st := .opened }
    let n := 8
    let lab := 1400 + 32 * (3)
    let pos : Int := 100000
    let old := 36102
    let x : List Byte := Pf.mlast.put (Pf.state.put (parcelNew 70001 n (pos - 70000) 1 0xFFFF 0) 1) (1400 + 32 * (1))
    let p : List Byte := BitVec.ofNat 8 n :: zeros 7 ++ leBytes 8 (ofSigned 64 pos) ++ leBytes 2 lab ++ zeros 6
    let s := ((((s.setF (F.ENC_CALI_CALI n) 50).setF (F.ENC_CALF_CALF n) 0).setF (F.PCL_LLEN_LLEN n) 3000).setF (F.REC_LOFFS_OFFS n) old).setF (F.REC_ANCHMAX_MAX) 60000
    let s := (s.setF F.REC_ANCHGAIN_GAIN (235)).setF (F.REC_LCROP_TABLE n) 3
    let s := s.setF F.REC_ANCHGAIN_GAIN ([0, 128, 256, 64].getD (3) 0)
    let s := s.setF (F.REC_LOFFS_OFFS n) (16102)
    let old := s.fld (F.REC_LOFFS_OFFS n)
    let s := s.setU fun u => { u with pcl := { u.pcl with parcels := [x] } }
    let s := s.setU fun u => { u with reco := { u.reco with models := [(3, zeros 512)], anchors := List.replicate 16 none } }
    let d := ((s.fld F.REC_ANCHGAIN_GAIN : Int) * ((lab : Int) - Pf.mlast.of x) * 10) / 256
    let new := ofSigned 16 (toSigned 16 old + d)
    Ready s i 0x0509 h p ∧ p = BitVec.ofNat 8 n :: zeros 7 ++ leBytes 8 (ofSigned 64 pos) ++ leBytes 2 lab ++ zeros 6 ∧ n < 16 ∧ lab < 65536 ∧ -(2 ^ 63) ≤ pos ∧ pos < 2 ^ 63 ∧ anchorParcel s.dev.u n pos (s.factor n) ((s.fld (F.PCL_LLEN_LLEN n) : Int) * 65536000) = some x ∧ Pf.mlast.of x ≠ 0xFFFF ∧ Pf.flags.of x &&& (pfGap ||| pfDisplaced) = 0 ∧ (modelAt s.dev.u.reco (s.fld (F.REC_LCROP_TABLE n))).isSome = true ∧ ((lab : Int) - Pf.mlast.of x).natAbs * 10 ≤ s.fld F.REC_ANCHMAX_MAX ∧ old = s.fld (F.REC_LOFFS_OFFS n) ∧ (s.fld F.REC_ANCHGAIN_GAIN : Int) * ((lab : Int) - Pf.mlast.of x) * 10 = 256 * d ∧ -32768 ≤ toSigned 16 old + d ∧ toSigned 16 old + d ≤ 32767 ∧ new = ofSigned 16 (toSigned 16 old + d) ∧ s.dev.u.reco.anchors.length = 16 := by
  decide +kernel

/-- The hypotheses of clause `anchorNone` hold together. -/
theorem test_met_anchorNone :
    let b := State.reset
    let i := 1
    let h : Hdr := someHdr 16384
    let s := hostState b { sid := 77, st := .opened }
    let n := 8
    let lab := 1400 + 33
    let pos : Int := 100000
    let old := 36102
    let p : List Byte := BitVec.ofNat 8 n :: zeros 7 ++ leBytes 8 (ofSigned 64 pos) ++ leBytes 2 lab ++ zeros 6
    let s := ((((s.setF (F.ENC_CALI_CALI n) 50).setF (F.ENC_CALF_CALF n) 0).setF (F.PCL_LLEN_LLEN n) 3000).setF (F.REC_LOFFS_OFFS n) old).setF (F.REC_ANCHMAX_MAX) 60000
    let s := (s.setF F.REC_ANCHGAIN_GAIN (235)).setF (F.REC_LCROP_TABLE n) 3
    let s := s.setU fun u => { u with pcl := { u.pcl with parcels := [] } }
    let s := s.setU fun u => { u with nv := { u.nv with archive := [] } }
    Ready s i 0x0509 h p ∧ p = BitVec.ofNat 8 n :: zeros 7 ++ leBytes 8 (ofSigned 64 pos) ++ leBytes 2 lab ++ zeros 6 ∧ n < 16 ∧ lab < 65536 ∧ -(2 ^ 63) ≤ pos ∧ pos < 2 ^ 63 ∧ anchorParcel s.dev.u n pos (s.factor n) ((s.fld (F.PCL_LLEN_LLEN n) : Int) * 65536000) = none := by
  decide +kernel

/-- The hypotheses of clause `anchorOutlier` hold together. -/
theorem test_met_anchorOutlier :
    let b := State.reset
    let i := 1
    let h : Hdr := someHdr 16384
    let s := hostState b { sid := 77, st := .opened }
    let n := 8
    let lab := 1500
    let pos : Int := 100000
    let old := 36102
    let x : List Byte := Pf.mlast.put (Pf.state.put (parcelNew 70001 n (pos - 70000) 1 0xFFFF 0) 1) (1400 + 21)
    let p : List Byte := BitVec.ofNat 8 n :: zeros 7 ++ leBytes 8 (ofSigned 64 pos) ++ leBytes 2 lab ++ zeros 6
    let s := ((((s.setF (F.ENC_CALI_CALI n) 50).setF (F.ENC_CALF_CALF n) 0).setF (F.PCL_LLEN_LLEN n) 3000).setF (F.REC_LOFFS_OFFS n) old).setF (F.REC_ANCHMAX_MAX) 60000
    let s := (s.setF F.REC_ANCHGAIN_GAIN (235)).setF (F.REC_LCROP_TABLE n) 3
    let s := s.setF F.REC_ANCHMAX_MAX 0
    let s := s.setU fun u => { u with pcl := { u.pcl with parcels := [x] } }
    let s := s.setU fun u => { u with reco := { u.reco with models := [(3, zeros 512)] } }
    Ready s i 0x0509 h p ∧ p = BitVec.ofNat 8 n :: zeros 7 ++ leBytes 8 (ofSigned 64 pos) ++ leBytes 2 lab ++ zeros 6 ∧ n < 16 ∧ lab < 65536 ∧ -(2 ^ 63) ≤ pos ∧ pos < 2 ^ 63 ∧ anchorParcel s.dev.u n pos (s.factor n) ((s.fld (F.PCL_LLEN_LLEN n) : Int) * 65536000) = some x ∧ Pf.mlast.of x ≠ 0xFFFF ∧ Pf.flags.of x &&& (pfGap ||| pfDisplaced) = 0 ∧ (modelAt s.dev.u.reco (s.fld (F.REC_LCROP_TABLE n))).isSome = true ∧ s.fld F.REC_ANCHMAX_MAX < ((lab : Int) - Pf.mlast.of x).natAbs * 10 := by
  decide +kernel

/-- The hypotheses of clause `mapSummary` hold together. -/
theorem test_met_mapSummary :
    let b := State.reset
    let i := 1
    let h : Hdr := someHdr 16384
    let s := hostState b { sid := 77, st := .opened }
    let k := 2
    let q := 7
    let m : MapRec := { mseq := 7, vox := List.replicate 9 {}, lanes := List.replicate 16 {} }
    let p : List Byte := leBytes 8 q
    let s := s.setU fun u => { u with reco := { u.reco with ring := [(k, m)] } }
    Ready s i 0x050A h p ∧ p = leBytes 8 q ∧ q < 2 ^ 64 ∧ q ≠ 0 ∧ s.dev.u.reco.ring.find? (fun x => x.2.mseq == q) = some (k, m) := by
  decide +kernel

/-- The hypotheses of clause `mapSummaryNone` hold together. -/
theorem test_met_mapSummaryNone :
    let b := State.reset
    let i := 1
    let h : Hdr := someHdr 16384
    let s := hostState b { sid := 77, st := .opened }
    let q := 5
    let p : List Byte := leBytes 8 q
    let s := s.setU fun u => { u with reco := { u.reco with ring := [] } }
    Ready s i 0x050A h p ∧ p = leBytes 8 q ∧ q < 2 ^ 64 ∧ q ≠ 0 ∧ (∀ x ∈ s.dev.u.reco.ring, x.2.mseq ≠ q) := by
  decide +kernel

/-- The hypotheses of clause `mapRead` hold together. -/
theorem test_met_mapRead :
    let b := State.reset
    let i := 1
    let h : Hdr := someHdr 24576
    let s := hostState b { sid := 77, st := .opened }
    let k := 2
    let q := 7
    let m : MapRec := { mseq := 7, vox := List.replicate 9 {}, lanes := List.replicate 16 {} }
    let f := 0
    let c := 1 + 3
    let mask := 1 + 3342
    let p : List Byte := [1, 0, 0, 0] ++ leBytes 4 (1024 + c * 2 * maskBits mask) ++ leBytes 8 q ++ leBytes 2 mask ++ zeros 2 ++ leBytes 4 f ++ leBytes 4 c
    let s := s.setU fun u => { u with reco := { u.reco with ring := [(k, m)] } }
    Ready s i 0x050B h p ∧ p = [1, 0, 0, 0] ++ leBytes 4 (1024 + c * 2 * maskBits mask) ++ leBytes 8 q ++ leBytes 2 mask ++ zeros 2 ++ leBytes 4 f ++ leBytes 4 c ∧ q < 2 ^ 64 ∧ q ≠ 0 ∧ 1 ≤ mask ∧ mask < 4096 ∧ 1 ≤ c ∧ f + c ≤ m.vox.length ∧ m.vox.length ≤ 8192 ∧ s.dev.u.reco.ring.find? (fun x => x.2.mseq == q) = some (k, m) := by
  decide +kernel

/-- The hypotheses of clause `lotOpen` hold together. -/
theorem test_met_lotOpen :
    let b := State.reset
    let i := 1
    let h : Hdr := someHdr 8192
    let s := hostState b { sid := 77, st := .opened }
    let id := 20264
    let tab := 23
    let crop := 36102
    let id := id % 2 ^ 32
    let x : List Byte := (List.range 96).map (BitVec.ofNat 8 ·)
    let k := 1
    let p : List Byte := leBytes 4 id ++ [BitVec.ofNat 8 tab, 0] ++ leBytes 2 crop ++ x
    let s := s.setU fun u => { u with pcl := { u.pcl with lots := (List.range k).map fun j => (j, zeros 256) } }
    Ready s i 0x0601 h p ∧ p = leBytes 4 id ++ [BitVec.ofNat 8 tab, 0] ++ leBytes 2 crop ++ x ∧ tab < 64 ∧ id < 2 ^ 32 ∧ crop < 65536 ∧ x.length = 96 ∧ k < 4096 ∧ (∀ y ∈ s.dev.u.pcl.lots, y.1 ≠ k) ∧ (∀ j ∈ List.range k, ∃ y ∈ s.dev.u.pcl.lots, y.1 = j) := by
  decide +kernel

/-- The hypotheses of clause `lotClose` hold together. -/
theorem test_met_lotClose :
    let b := State.reset
    let i := 1
    let h : Hdr := someHdr 8192
    let s := hostState b { sid := 77, st := .opened }
    let k := 3880
    let lr : List Byte := Lf.nlive.put (Lf.state.put (BitVec.ofNat 8 (75697) :: (List.range 255).map fun j => BitVec.ofNat 8 (j * 83616)) 1) 3
    let p : List Byte := leBytes 2 k ++ zeros 2
    let s := s.setU fun u => { u with pcl := { u.pcl with lots := [(k, lr), ((k + 1) % 4096, zeros 256)], locks := [], fieldLocks := [] } }
    Ready s i 0x0602 h p ∧ p = leBytes 2 k ++ zeros 2 ∧ k < 4096 ∧ s.dev.u.pcl.fieldLocks = [] ∧ (s.dev.u.pcl.lots.find? fun x => x.1 = k) = some (k, lr) ∧ (∀ l ∈ lockHeld s.dev.u false k, l.holder = i) ∧ Lf.state.of lr = 1 ∧ Lf.nlive.of lr ≠ 0 ∧ lr.length = 256 := by
  decide +kernel

/-- The hypotheses of clause `lotCloseNone` hold together. -/
theorem test_met_lotCloseNone :
    let b := State.reset
    let i := 1
    let h : Hdr := someHdr 8192
    let s := hostState b { sid := 77, st := .opened }
    let k := 3880
    let lr : List Byte := Lf.nlive.put (Lf.state.put (BitVec.ofNat 8 (75697) :: (List.range 255).map fun j => BitVec.ofNat 8 (j * 83616)) 1) 3
    let lr := Lf.state.put lr 2
    let p : List Byte := leBytes 2 k ++ zeros 2
    let s := s.setU fun u => { u with pcl := { u.pcl with lots := [(k, lr), ((k + 1) % 4096, zeros 256)], locks := [], fieldLocks := [] } }
    Ready s i 0x0602 h p ∧ p = leBytes 2 k ++ zeros 2 ∧ k < 4096 ∧ s.dev.u.pcl.fieldLocks = [] ∧ (s.dev.u.pcl.lots.find? fun x => x.1 = k) = some (k, lr) ∧ Lf.state.of lr ≠ 1 := by
  decide +kernel

/-- The hypotheses of clause `lotRead` hold together. -/
theorem test_met_lotRead :
    let b := State.reset
    let i := 1
    let h : Hdr := someHdr 8192
    let s := hostState b { sid := 77, st := .opened }
    let k := 3880
    let lr : List Byte := Lf.nlive.put (Lf.state.put (BitVec.ofNat 8 (75697) :: (List.range 255).map fun j => BitVec.ofNat 8 (j * 83616)) 1) 3
    let p : List Byte := leBytes 2 k ++ zeros 2
    let s := s.setU fun u => { u with pcl := { u.pcl with lots := [(k, lr), ((k + 1) % 4096, zeros 256)], locks := [], fieldLocks := [] } }
    Ready s i 0x0603 h p ∧ p = leBytes 2 k ++ zeros 2 ∧ k < 4096 ∧ s.dev.u.pcl.fieldLocks = [] ∧ (s.dev.u.pcl.lots.find? fun x => x.1 = k) = some (k, lr) ∧ (∀ l ∈ lockHeld s.dev.u false k, l.holder = i) := by
  decide +kernel

/-- The hypotheses of clause `lotLocked` hold together. -/
theorem test_met_lotLocked :
    let b := State.reset
    let i := 1
    let h : Hdr := someHdr 8192
    let s := hostState b { sid := 77, st := .opened }
    let k := 3880
    let lr : List Byte := Lf.nlive.put (Lf.state.put (BitVec.ofNat 8 (75697) :: (List.range 255).map fun j => BitVec.ofNat 8 (j * 83616)) 1) 3
    let p : List Byte := leBytes 2 k ++ zeros 2
    let s := s.setU fun u => { u with pcl := { u.pcl with lots := [(k, lr), ((k + 1) % 4096, zeros 256)], locks := [], fieldLocks := [] } }
    let s := s.setU fun u => { u with pcl := { u.pcl with locks := [⟨false, k, (i + 1) % 4, 99⟩] } }
    Ready s i 0x0603 h p ∧ p = leBytes 2 k ++ zeros 2 ∧ k < 4096 ∧ s.dev.u.pcl.fieldLocks = [] ∧ (s.dev.u.pcl.lots.find? fun x => x.1 = k) = some (k, lr) ∧ (∃ l ∈ lockHeld s.dev.u false k, l.holder ≠ i) := by
  decide +kernel

/-- The hypotheses of clause `lotNone` hold together. -/
theorem test_met_lotNone :
    let b := State.reset
    let i := 1
    let h : Hdr := someHdr 8192
    let s := hostState b { sid := 77, st := .opened }
    let k := 3880
    let p : List Byte := leBytes 2 k ++ zeros 2
    let s := s.setU fun u => { u with pcl := { u.pcl with lots := [] } }
    Ready s i 0x0603 h p ∧ p = leBytes 2 k ++ zeros 2 ∧ k < 4096 ∧ (s.dev.u.pcl.lots.find? fun x => x.1 = k) = none := by
  decide +kernel

/-- The hypotheses of clause `lotWrite` hold together. -/
theorem test_met_lotWrite :
    let b := State.reset
    let i := 1
    let h : Hdr := someHdr 8192
    let s := hostState b { sid := 77, st := .opened }
    let k := 3880
    let lr : List Byte := Lf.nlive.put (Lf.state.put (BitVec.ofNat 8 (75697) :: (List.range 255).map fun j => BitVec.ofNat 8 (j * 83616)) 1) 3
    let o := 0x98 + 43
    let n := 1 + 22
    let d : List Byte := List.replicate n (BitVec.ofNat 8 (51940))
    let p : List Byte := leBytes 2 k ++ leBytes 2 o ++ leBytes 2 n ++ zeros 2 ++ d
    let s := s.setU fun u => { u with pcl := { u.pcl with lots := [(k, lr), ((k + 1) % 4096, zeros 256)], locks := [], fieldLocks := [] } }
    Ready s i 0x0604 h p ∧ p = leBytes 2 k ++ leBytes 2 o ++ leBytes 2 n ++ zeros 2 ++ d ∧ k < 4096 ∧ s.dev.u.pcl.fieldLocks = [] ∧ (s.dev.u.pcl.lots.find? fun x => x.1 = k) = some (k, lr) ∧ 1 ≤ n ∧ n ≤ 256 ∧ d.length = n ∧ o < 256 ∧ lr.length = 256 ∧ (∀ l ∈ lockHeld s.dev.u false k, l.holder = i) ∧ (∀ j ∈ List.range n, o + j < 4 ∨ (5 ≤ o + j ∧ o + j < 8) ∨ (0x18 ≤ o + j ∧ o + j < 0x78) ∨ (0x98 ≤ o + j ∧ o + j < 0x100)) := by
  decide +kernel

/-- The hypotheses of clause `lotWriteBad` hold together. -/
theorem test_met_lotWriteBad :
    let b := State.reset
    let i := 1
    let h : Hdr := someHdr 8192
    let s := hostState b { sid := 77, st := .opened }
    let k := 3880
    let lr : List Byte := Lf.nlive.put (Lf.state.put (BitVec.ofNat 8 (75697) :: (List.range 255).map fun j => BitVec.ofNat 8 (j * 83616)) 1) 3
    let o := [3, 0x70, 0xF0, 8].getD (3) 4
    let n := 20
    let d : List Byte := List.replicate n (BitVec.ofNat 8 (51940))
    let p : List Byte := leBytes 2 k ++ leBytes 2 o ++ leBytes 2 n ++ zeros 2 ++ d
    let s := s.setU fun u => { u with pcl := { u.pcl with lots := [(k, lr), ((k + 1) % 4096, zeros 256)], locks := [], fieldLocks := [] } }
    Ready s i 0x0604 h p ∧ p = leBytes 2 k ++ leBytes 2 o ++ leBytes 2 n ++ zeros 2 ++ d ∧ k < 4096 ∧ s.dev.u.pcl.fieldLocks = [] ∧ (s.dev.u.pcl.lots.find? fun x => x.1 = k) = some (k, lr) ∧ 1 ≤ n ∧ n ≤ 256 ∧ d.length = n ∧ o < 65536 ∧ (∃ j ∈ List.range n, o + j = 4 ∨ (8 ≤ o + j ∧ o + j < 0x18) ∨ (0x78 ≤ o + j ∧ o + j < 0x98) ∨ 0x100 ≤ o + j) := by
  decide +kernel

/-- The hypotheses of clause `parcelRead` hold together. -/
theorem test_met_parcelRead :
    let b := State.reset
    let i := 1
    let h : Hdr := someHdr 8192
    let s := hostState b { sid := 77, st := .opened }
    let pid := 70000 + 5
    let x : List Byte := Pf.lot.put (Pf.state.put (parcelNew pid (7) 5 1 0xFFFF 0) 2) 7
    let p : List Byte := leBytes 4 pid
    let s := s.setU fun u => { u with pcl := { u.pcl with parcels := [x], locks := [], fieldLocks := [], lots := [] } }
    Ready s i 0x0605 h p ∧ p = leBytes 4 pid ∧ pid < 2 ^ 32 ∧ s.dev.u.pcl.fieldLocks = [] ∧ parcelAt s.dev.u pid = some x ∧ (∀ l ∈ lockHeld s.dev.u true pid, l.holder = i) := by
  decide +kernel

/-- The hypotheses of clause `parcelNone` hold together. -/
theorem test_met_parcelNone :
    let b := State.reset
    let i := 1
    let h : Hdr := someHdr 8192
    let s := hostState b { sid := 77, st := .opened }
    let pid := 70000 + 5
    let p : List Byte := leBytes 4 pid
    let s := s.setU fun u => { u with pcl := { u.pcl with parcels := [] } }
    Ready s i 0x0605 h p ∧ p = leBytes 4 pid ∧ pid < 2 ^ 32 ∧ parcelAt s.dev.u pid = none := by
  decide +kernel

/-- The hypotheses of clause `parcelWrite` hold together. -/
theorem test_met_parcelWrite :
    let b := State.reset
    let i := 1
    let h : Hdr := someHdr 8192
    let s := hostState b { sid := 77, st := .opened }
    let pid := 70000 + 5
    let x : List Byte := Pf.lot.put (Pf.state.put (parcelNew pid (7) 5 1 0xFFFF 0) 2) 7
    let v := 36102
    let p : List Byte := leBytes 4 pid ++ [2, 0] ++ zeros 2 ++ leBytes 2 v ++ zeros 2
    let s := s.setU fun u => { u with pcl := { u.pcl with parcels := [x], locks := [], fieldLocks := [], lots := [] } }
    Ready s i 0x0606 h p ∧ p = leBytes 4 pid ++ [2, 0] ++ zeros 2 ++ leBytes 2 v ++ zeros 2 ∧ v < 65536 ∧ pid < 2 ^ 32 ∧ s.dev.u.pcl.fieldLocks = [] ∧ parcelAt s.dev.u pid = some x ∧ (∀ l ∈ lockHeld s.dev.u true pid, l.holder = i) := by
  decide +kernel

/-- The hypotheses of clause `parcelToLot` hold together. -/
theorem test_met_parcelToLot :
    let b := State.reset
    let i := 1
    let h : Hdr := someHdr 8192
    let s := hostState b { sid := 77, st := .opened }
    let pid := 70000 + 5
    let x : List Byte := Pf.lot.put (Pf.state.put (parcelNew pid (7) 5 1 0xFFFF 0) 2) 7
    let v := 7
    let p : List Byte := leBytes 4 pid ++ [1, 0] ++ leBytes 2 v ++ zeros 4
    let s := s.setU fun u => { u with pcl := { u.pcl with parcels := [x], locks := [], fieldLocks := [], lots := [] } }
    Ready s i 0x0606 h p ∧ p = leBytes 4 pid ++ [1, 0] ++ leBytes 2 v ++ zeros 4 ∧ v < 4096 ∧ Pf.lot.of x = v ∧ pid < 2 ^ 32 ∧ s.dev.u.pcl.fieldLocks = [] ∧ parcelAt s.dev.u pid = some x ∧ (∀ l ∈ lockHeld s.dev.u true pid, l.holder = i) := by
  decide +kernel

/-- The hypotheses of clause `lockTaken` hold together. -/
theorem test_met_lockTaken :
    let b := State.reset
    let i := 1
    let h : Hdr := someHdr 8192
    let s := hostState b { sid := 77, st := .opened }
    let pid := 70000 + 5
    let x : List Byte := Pf.lot.put (Pf.state.put (parcelNew pid (7) 5 1 0xFFFF 0) 2) 7
    let p : List Byte := [1] ++ zeros 3 ++ leBytes 4 pid
    let s := s.setU fun u => { u with pcl := { u.pcl with parcels := [x], locks := [], fieldLocks := [], lots := [] } }
    let s := s.setF F.PCL_LEASE_LEASE (2778)
    let s := s.setU fun u => { u with pcl := { u.pcl with locks := if 1 = 0 then [] else [⟨true, pid, i, 4⟩] } }
    Ready s i 0x0607 h p ∧ p = [1] ++ zeros 3 ++ leBytes 4 pid ∧ pid < 2 ^ 32 ∧ s.dev.u.pcl.fieldLocks = [] ∧ parcelAt s.dev.u pid = some x ∧ (∀ l ∈ lockHeld s.dev.u true pid, l.holder = i) := by
  decide +kernel

/-- The hypotheses of clause `lockLocked` hold together. -/
theorem test_met_lockLocked :
    let b := State.reset
    let i := 1
    let h : Hdr := someHdr 8192
    let s := hostState b { sid := 77, st := .opened }
    let pid := 70000 + 5
    let x : List Byte := Pf.lot.put (Pf.state.put (parcelNew pid (7) 5 1 0xFFFF 0) 2) 7
    let p : List Byte := [1] ++ zeros 3 ++ leBytes 4 pid
    let s := s.setU fun u => { u with pcl := { u.pcl with parcels := [x], locks := [], fieldLocks := [], lots := [] } }
    let s := s.setU fun u => { u with pcl := { u.pcl with locks := [⟨true, pid, (i + 1) % 4, 4⟩] } }
    Ready s i 0x0607 h p ∧ p = [1] ++ zeros 3 ++ leBytes 4 pid ∧ pid < 2 ^ 32 ∧ s.dev.u.pcl.fieldLocks = [] ∧ parcelAt s.dev.u pid = some x ∧ (∃ l ∈ lockHeld s.dev.u true pid, l.holder ≠ i) := by
  decide +kernel

/-- The hypotheses of clause `unlocked` hold together. -/
theorem test_met_unlocked :
    let b := State.reset
    let i := 1
    let h : Hdr := someHdr 8192
    let s := hostState b { sid := 77, st := .opened }
    let pid := 70000 + 5
    let x : List Byte := Pf.lot.put (Pf.state.put (parcelNew pid (7) 5 1 0xFFFF 0) 2) 7
    let p : List Byte := [1] ++ zeros 3 ++ leBytes 4 pid
    let s := s.setU fun u => { u with pcl := { u.pcl with parcels := [x], locks := [], fieldLocks := [], lots := [] } }
    let s := s.setU fun u => { u with pcl := { u.pcl with locks := [⟨true, pid, i, 4⟩] } }
    Ready s i 0x0608 h p ∧ p = [1] ++ zeros 3 ++ leBytes 4 pid ∧ pid < 2 ^ 32 ∧ s.dev.u.pcl.fieldLocks = [] ∧ parcelAt s.dev.u pid = some x ∧ (∃ l ∈ lockHeld s.dev.u true pid, l.holder = i) := by
  decide +kernel

/-- The hypotheses of clause `notHolder` hold together. -/
theorem test_met_notHolder :
    let b := State.reset
    let i := 1
    let h : Hdr := someHdr 8192
    let s := hostState b { sid := 77, st := .opened }
    let pid := 70000 + 5
    let p : List Byte := [1] ++ zeros 3 ++ leBytes 4 pid
    let s := s.setU fun u => { u with pcl := { u.pcl with locks := [] } }
    Ready s i 0x0608 h p ∧ p = [1] ++ zeros 3 ++ leBytes 4 pid ∧ pid < 2 ^ 32 ∧ (∀ l ∈ lockHeld s.dev.u true pid, l.holder ≠ i) := by
  decide +kernel

/-- The hypotheses of clause `parcelDump` hold together. -/
theorem test_met_parcelDump :
    let b := State.reset
    let i := 1
    let h : Hdr := someHdr 24576
    let s := hostState b { sid := 77, st := .opened }
    let n := 8
    let c := 1 + 43
    let p : List Byte := [1, 0, 0, 0] ++ leBytes 4 (128 * c) ++ [BitVec.ofNat 8 n, 0, 0, 0] ++ leBytes 4 c
    Ready s i 0x0609 h p ∧ p = [1, 0, 0, 0] ++ leBytes 4 (128 * c) ++ [BitVec.ofNat 8 n, 0, 0, 0] ++ leBytes 4 c ∧ n < 16 ∧ 1 ≤ c ∧ c ≤ 65536 := by
  decide +kernel

/-- The hypotheses of clause `archRead` hold together. -/
theorem test_met_archRead :
    let b := State.reset
    let i := 1
    let h : Hdr := someHdr 24576
    let s := hostState b { sid := 77, st := .opened }
    let a := if 0 = 0 then 15625000 - 1 - 2 else 5
    let c := 1 + 4
    let p : List Byte := [1, 0, 0, 0] ++ leBytes 4 (128 * c) ++ leBytes 4 a ++ leBytes 4 c
    Ready s i 0x060A h p ∧ p = [1, 0, 0, 0] ++ leBytes 4 (128 * c) ++ leBytes 4 a ++ leBytes 4 c ∧ a < 15625000 ∧ 1 ≤ c ∧ c ≤ 15625000 := by
  decide +kernel

/-- The hypotheses of clause `planStatus` hold together. -/
theorem test_met_planStatus :
    let b := State.reset
    let i := 1
    let h : Hdr := someHdr 16384
    let s := hostState b { sid := 77, st := .opened }
    let p : List Byte := []
    Ready s i 0x0701 h p := by
  decide +kernel

/-- The hypotheses of clause `traceInfo` hold together. -/
theorem test_met_traceInfo :
    let b := State.reset
    let i := 1
    let h : Hdr := someHdr 8192
    let s := hostState b { sid := 77, st := .opened }
    let p : List Byte := []
    Ready s i 0x0801 h p := by
  decide +kernel

/-- The hypotheses of clause `traceRead` hold together. -/
theorem test_met_traceRead :
    let b := State.reset
    let i := 1
    let h : Hdr := someHdr 24576
    let s := hostState b { sid := 77, st := .opened }
    let c := 0
    let e := if 0 = 0 then 65530 else 28183
    let n := 1 + 2
    let p : List Byte := [1, 0, 0, 0] ++ leBytes 4 (4 * n) ++ [BitVec.ofNat 8 c, 0] ++ leBytes 2 e ++ leBytes 4 n
    let s := s.setU fun u => { u with loop := { u.loop with rings := (List.range 20).map fun j => (c * 65536 + (e + j) % 65536, BitVec.ofNat 32 (someNum j)) } }
    Ready s i 0x0802 h p ∧ p = [1, 0, 0, 0] ++ leBytes 4 (4 * n) ++ [BitVec.ofNat 8 c, 0] ++ leBytes 2 e ++ leBytes 4 n ∧ c < 8 ∧ e < 65536 ∧ 1 ≤ n ∧ n ≤ 65536 := by
  decide +kernel

/-- The hypotheses of clause `ftableLoad` hold together. -/
theorem test_met_ftableLoad :
    let b := State.reset
    let i := 1
    let h : Hdr := someHdr 8192
    let s := hostState b { sid := 77, st := .opened }
    let k := 8
    let hf := 1
    let e := 262
    let d : List Byte := (List.range 1024).map fun j => BitVec.ofNat 8 (j * 44021)
    let p : List Byte := [BitVec.ofNat 8 k, BitVec.ofNat 8 hf, 0, 0] ++ d
    Ready s i 0x0803 h p ∧ p = [BitVec.ofNat 8 k, BitVec.ofNat 8 hf, 0, 0] ++ d ∧ k < 16 ∧ hf < 2 ∧ d.length = 1024 ∧ e < 512 := by
  decide +kernel

/-- The hypotheses of clause `ftableBad` hold together. -/
theorem test_met_ftableBad :
    let b := State.reset
    let i := 1
    let h : Hdr := someHdr 8192
    let s := hostState b { sid := 77, st := .opened }
    let p : List Byte := [BitVec.ofNat 8 (16 * (0)), 2, 0, 0] ++ zeros 1024
    Ready s i 0x0803 h p ∧ (16 ≤ leAt p 0 1 ∨ 2 ≤ leAt p 1 1) := by
  decide +kernel

/-- The hypotheses of clause `ftableRead` hold together. -/
theorem test_met_ftableRead :
    let b := State.reset
    let i := 1
    let h : Hdr := someHdr 8192
    let s := hostState b { sid := 77, st := .opened }
    let k := 8
    let hf := 1
    let p : List Byte := [BitVec.ofNat 8 k, BitVec.ofNat 8 hf, 0, 0]
    Ready s i 0x0804 h p ∧ p = [BitVec.ofNat 8 k, BitVec.ofNat 8 hf, 0, 0] ∧ k < 16 ∧ hf < 2 := by
  decide +kernel

/-- The hypotheses of clause `driveStatus` hold together. -/
theorem test_met_driveStatus :
    let b := State.reset
    let i := 1
    let h : Hdr := someHdr 16384
    let s := hostState b { sid := 77, st := .opened }
    let p : List Byte := []
    Ready s i 0x0901 h p := by
  decide +kernel

/-- The hypotheses of clause `faultClear` hold together. -/
theorem test_met_faultClear :
    let b := State.reset
    let i := 1
    let h : Hdr := someHdr 8192
    let s := hostState b { sid := 77, st := .opened }
    let n := 8
    let k := 7
    let vm := 36102 ||| 2 ^ n
    let fm := 245 ||| 2 ^ k
    let p : List Byte := leBytes 4 vm ++ leBytes 1 fm ++ zeros 3
    let s := (((s.setF (domField (88 + n)) 1).setF (domField (120 + k)) 1).setF (F.VDRV_FAULT_CODE n) 3).setF (F.FAN_FAULT_CODE k) 2
    let s := s.setR R.VDRV_PAIR (0 : Word)
    let s := s.setU fun u => { u with vdrv := { u.vdrv with chs := (u.vdrv.chs ++ List.replicate 32 ({} : ValveCh)).take 32 } }
    Ready s i 0x0902 h p ∧ p = leBytes 4 vm ++ leBytes 1 fm ++ zeros 3 ∧ vm < 2 ^ 32 ∧ fm < 256 ∧ n < 32 ∧ k < 8 ∧ bitAt vm n = true ∧ s.powered (88 + n) ∧ Unpaired s n ∧ bitAt fm k = true ∧ s.powered (120 + k) := by
  decide +kernel

/-- The hypotheses of clause `inputRead` hold together. -/
theorem test_met_inputRead :
    let b := State.reset
    let i := 1
    let h : Hdr := someHdr 16384
    let s := hostState b { sid := 77, st := .opened }
    let n := 1 + 3
    let a := if 0 = 0 then 224 - n else 64
    let p : List Byte := [BitVec.ofNat 8 a, BitVec.ofNat 8 n, 0, 0]
    Ready s i 0x0A01 h p ∧ p = [BitVec.ofNat 8 a, BitVec.ofNat 8 n, 0, 0] ∧ 1 ≤ n ∧ n ≤ 112 ∧ a + n ≤ 224 := by
  decide +kernel

/-- The hypotheses of clause `inputReadBad` hold together. -/
theorem test_met_inputReadBad :
    let b := State.reset
    let i := 1
    let h : Hdr := someHdr 16384
    let s := hostState b { sid := 77, st := .opened }
    let n := 3
    let a := 222 + 4
    let a := if n = 0 then a else 224 + a % 20
    let p : List Byte := [BitVec.ofNat 8 a, BitVec.ofNat 8 n, 0, 0]
    Ready s i 0x0A01 h p ∧ p = [BitVec.ofNat 8 a, BitVec.ofNat 8 n, 0, 0] ∧ a < 256 ∧ n < 256 ∧ (n = 0 ∨ 112 < n ∨ 224 < a + n) := by
  decide +kernel

/-- The hypotheses of clause `linLoad` hold together. -/
theorem test_met_linLoad :
    let b := State.reset
    let i := 1
    let h : Hdr := someHdr 16384
    let s := hostState b { sid := 77, st := .opened }
    let k := 40
    let d : List Byte := patch (zeros 128) 0x7C (leBytes 4 (crc32 (zeros 128)))
    let p : List Byte := [BitVec.ofNat 8 k, 0, 0, 0] ++ d
    let s := s.setU fun u => { u with nv := { u.nv with commit := none } }
    Ready s i 0x0A02 h p ∧ p = [BitVec.ofNat 8 k, 0, 0, 0] ++ d ∧ k < 64 ∧ d.length = 128 ∧ s.dev.u.nv.commit = none ∧ linCheck d = St.ok := by
  decide +kernel

/-- The hypotheses of clause `linRefused` hold together. -/
theorem test_met_linRefused :
    let b := State.reset
    let i := 1
    let h : Hdr := someHdr 16384
    let s := hostState b { sid := 77, st := .opened }
    let k := 40
    let d : List Byte := BitVec.ofNat 8 (1) :: zeros 127
    let p : List Byte := [BitVec.ofNat 8 k, 0, 0, 0] ++ d
    let s := s.setU fun u => { u with nv := { u.nv with commit := none } }
    Ready s i 0x0A02 h p ∧ p = [BitVec.ofNat 8 k, 0, 0, 0] ++ d ∧ k < 64 ∧ d.length = 128 ∧ s.dev.u.nv.commit = none ∧ linCheck d ≠ St.ok := by
  decide +kernel

/-- The hypotheses of clause `linRead` hold together. -/
theorem test_met_linRead :
    let b := State.reset
    let i := 1
    let h : Hdr := someHdr 8192
    let s := hostState b { sid := 77, st := .opened }
    let k := 40
    let d : List Byte := List.replicate 128 7
    let p : List Byte := [BitVec.ofNat 8 k, 0, 0, 0]
    let s := s.setU fun u => { u with aff := { u.aff with lins := [(k, d)] } }
    Ready s i 0x0A03 h p ∧ p = [BitVec.ofNat 8 k, 0, 0, 0] ∧ k < 64 ∧ linAt s.dev.u.aff k = some d := by
  decide +kernel

/-- The hypotheses of clause `sinePass` hold together. -/
theorem test_met_sinePass :
    let b := State.reset
    let i := 1
    let h : Hdr := someHdr 8192
    let s := hostState b { sid := 77, st := .opened }
    let p : List Byte := []
    let s := s.setF F.SYS_MODE_CUR 6
    let s := s.setU fun u => { u with aff := { u.aff with sine := false, sineReq := false } }
    Ready s i 0x0A04 h p ∧ s.mode = 6 ∧ s.dev.u.aff.sine = false ∧ s.dev.u.aff.sineReq = false := by
  decide +kernel

/-- The hypotheses of clause `sinePassBusy` hold together. -/
theorem test_met_sinePassBusy :
    let b := State.reset
    let i := 1
    let h : Hdr := someHdr 8192
    let s := hostState b { sid := 77, st := .opened }
    let p : List Byte := []
    let s := s.setF F.SYS_MODE_CUR 6
    let s := s.setU fun u => { u with aff := { u.aff with sine := true } }
    Ready s i 0x0A04 h p ∧ s.mode = 6 ∧ (s.dev.u.aff.sine = true ∨ s.dev.u.aff.sineReq = true) := by
  decide +kernel

/-- The hypotheses of clause `sinePassMode` hold together. -/
theorem test_met_sinePassMode :
    let b := State.reset
    let i := 1
    let h : Hdr := someHdr 8192
    let s := hostState b { sid := 77, st := .opened }
    let p : List Byte := []
    let s := s.setF F.SYS_MODE_CUR (2)
    Ready s i 0x0A04 h p ∧ s.mode ≠ 6 := by
  decide +kernel

/-- The hypotheses of clause `aerBin` hold together. -/
theorem test_met_aerBin :
    let b := State.reset
    let i := 1
    let h : Hdr := someHdr 8192
    let s := hostState b { sid := 77, st := .opened }
    let n := 8
    let en := 1
    let f := 102
    let c := 1 + 21
    let am := 196
    let o := 211
    let v := 2242
    let m := 10161
    let on : Int := 300
    let off : Int := -(216 : Nat)
    let p : List Byte := [BitVec.ofNat 8 n, BitVec.ofNat 8 en, BitVec.ofNat 8 f, BitVec.ofNat 8 c, BitVec.ofNat 8 am, 0] ++ leBytes 2 o ++ leBytes 2 (ofSigned 16 on) ++ leBytes 2 (ofSigned 16 off) ++ leBytes 2 v ++ leBytes 2 m
    let s := s.setF (F.FLD_TXCFG_DLC o) (2 + 3)
    Ready s i 0x0B01 h p ∧ p = [BitVec.ofNat 8 n, BitVec.ofNat 8 en, BitVec.ofNat 8 f, BitVec.ofNat 8 c, BitVec.ofNat 8 am, 0] ++ leBytes 2 o ++ leBytes 2 (ofSigned 16 on) ++ leBytes 2 (ofSigned 16 off) ++ leBytes 2 v ++ leBytes 2 m ∧ n < 16 ∧ en ≤ 1 ∧ 1 ≤ c ∧ c ≤ 32 ∧ f + c ≤ 192 ∧ am < 224 ∧ v < 65536 ∧ m < 65536 ∧ -32768 ≤ off ∧ off < on ∧ on < 32768 ∧ o < 256 ∧ 2 ≤ dlcLen (s.fld (F.FLD_TXCFG_FDF o) = 1) (s.fld (F.FLD_TXCFG_DLC o)) ∧ s.dev.u.aer.length = 16 := by
  decide +kernel

/-- The hypotheses of clause `aerBinObj` hold together. -/
theorem test_met_aerBinObj :
    let b := State.reset
    let i := 1
    let h : Hdr := someHdr 8192
    let s := hostState b { sid := 77, st := .opened }
    let n := 8
    let en := 1
    let f := 102
    let c := 1 + 21
    let am := 196
    let o := 256 + 59859
    let v := 2242
    let m := 10161
    let on : Int := 300
    let off : Int := -(216 : Nat)
    let p : List Byte := [BitVec.ofNat 8 n, BitVec.ofNat 8 en, BitVec.ofNat 8 f, BitVec.ofNat 8 c, BitVec.ofNat 8 am, 0] ++ leBytes 2 o ++ leBytes 2 (ofSigned 16 on) ++ leBytes 2 (ofSigned 16 off) ++ leBytes 2 v ++ leBytes 2 m
    Ready s i 0x0B01 h p ∧ p = [BitVec.ofNat 8 n, BitVec.ofNat 8 en, BitVec.ofNat 8 f, BitVec.ofNat 8 c, BitVec.ofNat 8 am, 0] ++ leBytes 2 o ++ leBytes 2 (ofSigned 16 on) ++ leBytes 2 (ofSigned 16 off) ++ leBytes 2 v ++ leBytes 2 m ∧ n < 16 ∧ en ≤ 1 ∧ 1 ≤ c ∧ c ≤ 32 ∧ f + c ≤ 192 ∧ am < 224 ∧ v < 65536 ∧ m < 65536 ∧ -32768 ≤ off ∧ off < on ∧ on < 32768 ∧ 256 ≤ o ∧ o < 65536 := by
  decide +kernel

/-- The hypotheses of clause `aerBinBad` hold together. -/
theorem test_met_aerBinBad :
    let b := State.reset
    let i := 1
    let h : Hdr := someHdr 8192
    let s := hostState b { sid := 77, st := .opened }
    let p : List Byte := [16, 0, 0, 1] ++ zeros 12
    Ready s i 0x0B01 h p ∧ (leAt p 0 1 ≥ 16 ∨ 192 < leAt p 2 1 + leAt p 3 1 ∨ toSigned 16 (leAt p 8 2) ≤ toSigned 16 (leAt p 10 2)) := by
  decide +kernel

/-- The hypotheses of clause `aerStatus` hold together. -/
theorem test_met_aerStatus :
    let b := State.reset
    let i := 1
    let h : Hdr := someHdr 16384
    let s := hostState b { sid := 77, st := .opened }
    let p : List Byte := []
    let s := s.setU fun u => { u with aer := (u.aer.zipIdx.map fun z => { z.1 with valid := 1 + z.2 % 3, state := z.2 % 4, ran := someNum z.2 }) }
    Ready s i 0x0B02 h p ∧ s.dev.u.aer.length = 16 ∧ (∀ z ∈ s.dev.u.aer, z.valid ≠ 0) := by
  decide +kernel

/-- The hypotheses of clause `busStatus` hold together. -/
theorem test_met_busStatus :
    let b := State.reset
    let i := 1
    let h : Hdr := someHdr 16384
    let s := hostState b { sid := 77, st := .opened }
    let p : List Byte := []
    Ready s i 0x0C01 h p := by
  decide +kernel

/-- The hypotheses of clause `busRecover` hold together. -/
theorem test_met_busRecover :
    let b := State.reset
    let i := 1
    let h : Hdr := someHdr 8192
    let s := hostState b { sid := 77, st := .opened }
    let n := 0
    let p : List Byte := [BitVec.ofNat 8 n, 0, 0, 0]
    let s := s.setF (F.FLD_BSTAT_STATE n) 2
    let s := s.setU fun u => { u with fld := { u.fld with buses := List.replicate 4 {} } }
    Ready s i 0x0C02 h p ∧ p = [BitVec.ofNat 8 n, 0, 0, 0] ∧ n < 4 ∧ s.fld (F.FLD_BSTAT_STATE n) = 2 ∧ (s.bus n).recover = none ∧ s.dev.u.fld.buses.length = 4 := by
  decide +kernel

/-- The hypotheses of clause `busNotOff` hold together. -/
theorem test_met_busNotOff :
    let b := State.reset
    let i := 1
    let h : Hdr := someHdr 8192
    let s := hostState b { sid := 77, st := .opened }
    let n := 0
    let p : List Byte := [BitVec.ofNat 8 n, 0, 0, 0]
    let s := s.setF (F.FLD_BSTAT_STATE n) ([0, 1, 3].getD (1) 0)
    Ready s i 0x0C02 h p ∧ p = [BitVec.ofNat 8 n, 0, 0, 0] ∧ n < 4 ∧ s.fld (F.FLD_BSTAT_STATE n) ≠ 2 := by
  decide +kernel

/-- The hypotheses of clause `objWrite` hold together. -/
theorem test_met_objWrite :
    let b := State.reset
    let i := 1
    let h : Hdr := someHdr 8192
    let s := hostState b { sid := 77, st := .opened }
    let o := 40
    let n := 4
    let d : List Byte := (List.range n).map fun j => BitVec.ofNat 8 ((0) * someNum (4 + j))
    let p : List Byte := leBytes 2 o ++ [BitVec.ofNat 8 n, 0] ++ d
    let s := s.setF (F.FLD_TXCFG_DLC o) 8
    Ready s i 0x0C03 h p ∧ p = leBytes 2 o ++ [BitVec.ofNat 8 n, 0] ++ d ∧ o < 256 ∧ n ≤ 64 ∧ d.length = n ∧ n ≤ dlcLen (s.fld (F.FLD_TXCFG_FDF o) = 1) (s.fld (F.FLD_TXCFG_DLC o)) := by
  decide +kernel

/-- The hypotheses of clause `objWriteLong` hold together. -/
theorem test_met_objWriteLong :
    let b := State.reset
    let i := 1
    let h : Hdr := someHdr 8192
    let s := hostState b { sid := 77, st := .opened }
    let o := 40
    let n := 4 + 4
    let d : List Byte := zeros n
    let p : List Byte := leBytes 2 o ++ [BitVec.ofNat 8 n, 0] ++ d
    let s := s.setF (F.FLD_TXCFG_DLC o) 3
    Ready s i 0x0C03 h p ∧ p = leBytes 2 o ++ [BitVec.ofNat 8 n, 0] ++ d ∧ o < 256 ∧ n ≤ 64 ∧ d.length = n ∧ dlcLen (s.fld (F.FLD_TXCFG_FDF o) = 1) (s.fld (F.FLD_TXCFG_DLC o)) < n := by
  decide +kernel

/-- The hypotheses of clause `objWriteNone` hold together. -/
theorem test_met_objWriteNone :
    let b := State.reset
    let i := 1
    let h : Hdr := someHdr 8192
    let s := hostState b { sid := 77, st := .opened }
    let o := 256 + 266
    let n := 4 + 4
    let d : List Byte := zeros n
    let p : List Byte := leBytes 2 o ++ [BitVec.ofNat 8 n, 0] ++ d
    Ready s i 0x0C03 h p ∧ p = leBytes 2 o ++ [BitVec.ofNat 8 n, 0] ++ d ∧ 256 ≤ o ∧ o < 65536 ∧ n ≤ 64 ∧ d.length = n := by
  decide +kernel

/-- The hypotheses of clause `verdictFails` hold together. -/
theorem test_met_verdictFails :
    let b := State.reset
    let i := 1
    let h : Hdr := someHdr 8192
    let s := hostState b { sid := 77, st := .opened }
    let l := 4
    let a := 1
    let f := 0
    let n := 44021
    let f := 1
    let a := s.fld (F.NET_LSTAT_ACTIVE l)
    let p : List Byte := [BitVec.ofNat 8 l, BitVec.ofNat 8 a, BitVec.ofNat 8 f, 0] ++ leBytes 4 n
    let s := (((s.setF F.NET_DEALER_KIND 1).setF F.NET_DEALER_SLOT 0).setF (F.NET_LSTAT_SWITCHING l) 0).setR (R.NET_VNUM l) (BitVec.ofNat 32 (n + 2 ^ 32 - 1 - 51940))
    let s := s.setU fun u => { u with net := { u.net with links := (u.net.links ++ List.replicate 6 ({} : NetLink)).take 6 } }
    let s := s.setU fun u => { u with net := { u.net with links := updAt u.net.links l fun k => { k with want := false } } }
    let s := if s.fld (F.NET_LSTAT_ACTIVE l) = 0 then s.setF (F.NET_LSTAT_VB l) (1) else s.setF (F.NET_LSTAT_VA l) (1)
    Ready s i 0x0D01 h p ∧ p = [BitVec.ofNat 8 l, BitVec.ofNat 8 a, BitVec.ofNat 8 f, 0] ++ leBytes 4 n ∧ l < 5 ∧ a ≤ 1 ∧ f ≤ 1 ∧ n < 2 ^ 32 ∧ s.fld F.NET_DEALER_KIND = 1 ∧ s.fld F.NET_DEALER_SLOT = (s.sess i).slot ∧ (s.sess i).observer = false ∧ s.dev.u.net.links.length = 6 ∧ s.fld (F.NET_LSTAT_SWITCHING l) = 0 ∧ (s.dev.u.net.links.getD l {}).want = false ∧ laterThan n (s.reg (R.NET_VNUM l)).toNat = true ∧ f = 1 ∧ a = s.fld (F.NET_LSTAT_ACTIVE l) ∧ (if s.fld (F.NET_LSTAT_ACTIVE l) = 0 then s.fld (F.NET_LSTAT_VB l) else s.fld (F.NET_LSTAT_VA l)) ≠ 2 ∧ CoreUp s 5 := by
  decide +kernel

/-- The hypotheses of clause `verdictNoPath` hold together. -/
theorem test_met_verdictNoPath :
    let b := State.reset
    let i := 1
    let h : Hdr := someHdr 8192
    let s := hostState b { sid := 77, st := .opened }
    let l := 4
    let a := 1
    let f := 0
    let n := 44021
    let f := 1
    let a := s.fld (F.NET_LSTAT_ACTIVE l)
    let p : List Byte := [BitVec.ofNat 8 l, BitVec.ofNat 8 a, BitVec.ofNat 8 f, 0] ++ leBytes 4 n
    let s := (((s.setF F.NET_DEALER_KIND 1).setF F.NET_DEALER_SLOT 0).setF (F.NET_LSTAT_SWITCHING l) 0).setR (R.NET_VNUM l) (BitVec.ofNat 32 (n + 2 ^ 32 - 1 - 51940))
    let s := s.setU fun u => { u with net := { u.net with links := (u.net.links ++ List.replicate 6 ({} : NetLink)).take 6 } }
    let s := s.setU fun u => { u with net := { u.net with links := updAt u.net.links l fun k => { k with want := false } } }
    let s := if s.fld (F.NET_LSTAT_ACTIVE l) = 0 then s.setF (F.NET_LSTAT_VB l) 2 else s.setF (F.NET_LSTAT_VA l) 2
    Ready s i 0x0D01 h p ∧ p = [BitVec.ofNat 8 l, BitVec.ofNat 8 a, BitVec.ofNat 8 f, 0] ++ leBytes 4 n ∧ l < 5 ∧ a ≤ 1 ∧ f ≤ 1 ∧ n < 2 ^ 32 ∧ s.fld F.NET_DEALER_KIND = 1 ∧ s.fld F.NET_DEALER_SLOT = (s.sess i).slot ∧ (s.sess i).observer = false ∧ s.dev.u.net.links.length = 6 ∧ s.fld (F.NET_LSTAT_SWITCHING l) = 0 ∧ (s.dev.u.net.links.getD l {}).want = false ∧ laterThan n (s.reg (R.NET_VNUM l)).toNat = true ∧ f = 1 ∧ a = s.fld (F.NET_LSTAT_ACTIVE l) ∧ (if s.fld (F.NET_LSTAT_ACTIVE l) = 0 then s.fld (F.NET_LSTAT_VB l) else s.fld (F.NET_LSTAT_VA l)) = 2 ∧ CoreUp s 5 := by
  decide +kernel

/-- The hypotheses of clause `verdictHealthy` hold together. -/
theorem test_met_verdictHealthy :
    let b := State.reset
    let i := 1
    let h : Hdr := someHdr 8192
    let s := hostState b { sid := 77, st := .opened }
    let l := 4
    let a := 1
    let f := 0
    let n := 44021
    let f := 0
    let p : List Byte := [BitVec.ofNat 8 l, BitVec.ofNat 8 a, BitVec.ofNat 8 f, 0] ++ leBytes 4 n
    let s := (((s.setF F.NET_DEALER_KIND 1).setF F.NET_DEALER_SLOT 0).setF (F.NET_LSTAT_SWITCHING l) 0).setR (R.NET_VNUM l) (BitVec.ofNat 32 (n + 2 ^ 32 - 1 - 51940))
    let s := s.setU fun u => { u with net := { u.net with links := (u.net.links ++ List.replicate 6 ({} : NetLink)).take 6 } }
    let s := s.setU fun u => { u with net := { u.net with links := updAt u.net.links l fun k => { k with want := false } } }
    Ready s i 0x0D01 h p ∧ p = [BitVec.ofNat 8 l, BitVec.ofNat 8 a, BitVec.ofNat 8 f, 0] ++ leBytes 4 n ∧ l < 5 ∧ a ≤ 1 ∧ f ≤ 1 ∧ n < 2 ^ 32 ∧ s.fld F.NET_DEALER_KIND = 1 ∧ s.fld F.NET_DEALER_SLOT = (s.sess i).slot ∧ (s.sess i).observer = false ∧ s.dev.u.net.links.length = 6 ∧ s.fld (F.NET_LSTAT_SWITCHING l) = 0 ∧ (s.dev.u.net.links.getD l {}).want = false ∧ laterThan n (s.reg (R.NET_VNUM l)).toNat = true ∧ f = 0 ∧ CoreUp s 5 := by
  decide +kernel

/-- The hypotheses of clause `verdictHeld` hold together. -/
theorem test_met_verdictHeld :
    let b := State.reset
    let i := 1
    let h : Hdr := someHdr 8192
    let s := hostState b { sid := 77, st := .opened }
    let l := 4
    let a := 1
    let f := 0
    let n := 44021
    let l := 1 + 0
    let p : List Byte := [BitVec.ofNat 8 l, BitVec.ofNat 8 a, BitVec.ofNat 8 f, 0] ++ leBytes 4 n
    let s := (((s.setF F.NET_DEALER_KIND 1).setF F.NET_DEALER_SLOT 0).setF (F.NET_LSTAT_SWITCHING l) 0).setR (R.NET_VNUM l) (BitVec.ofNat 32 (n + 2 ^ 32 - 1 - 51940))
    let s := s.setU fun u => { u with net := { u.net with links := (u.net.links ++ List.replicate 6 ({} : NetLink)).take 6 } }
    let s := s.setU fun u => { u with net := { u.net with links := updAt u.net.links l fun k => { k with want := false } } }
    let s := s.setF (F.NET_LSTAT_SWITCHING l) 1
    Ready s i 0x0D01 h p ∧ p = [BitVec.ofNat 8 l, BitVec.ofNat 8 a, BitVec.ofNat 8 f, 0] ++ leBytes 4 n ∧ l < 5 ∧ a ≤ 1 ∧ f ≤ 1 ∧ n < 2 ^ 32 ∧ s.fld F.NET_DEALER_KIND = 1 ∧ s.fld F.NET_DEALER_SLOT = (s.sess i).slot ∧ (s.sess i).observer = false ∧ s.dev.u.net.links.length = 6 ∧ laterThan n (s.reg (R.NET_VNUM l)).toNat = true ∧ l ≠ 0 ∧ s.fld (F.NET_LSTAT_SWITCHING l) = 1 ∧ CoreUp s 5 := by
  decide +kernel

/-- The hypotheses of clause `verdictOwed` hold together. -/
theorem test_met_verdictOwed :
    let b := State.reset
    let i := 1
    let h : Hdr := someHdr 8192
    let s := hostState b { sid := 77, st := .opened }
    let l := 4
    let a := 1
    let f := 0
    let n := 44021
    let l := 1 + 0
    let p : List Byte := [BitVec.ofNat 8 l, BitVec.ofNat 8 a, BitVec.ofNat 8 f, 0] ++ leBytes 4 n
    let s := (((s.setF F.NET_DEALER_KIND 1).setF F.NET_DEALER_SLOT 0).setF (F.NET_LSTAT_SWITCHING l) 0).setR (R.NET_VNUM l) (BitVec.ofNat 32 (n + 2 ^ 32 - 1 - 51940))
    let s := s.setU fun u => { u with net := { u.net with links := (u.net.links ++ List.replicate 6 ({} : NetLink)).take 6 } }
    let s := s.setU fun u => { u with net := { u.net with links := updAt u.net.links l fun k => { k with want := false } } }
    let s := s.setR R.SYS_CORESTAT (0x0F : Word)
    Ready s i 0x0D01 h p ∧ p = [BitVec.ofNat 8 l, BitVec.ofNat 8 a, BitVec.ofNat 8 f, 0] ++ leBytes 4 n ∧ l < 5 ∧ a ≤ 1 ∧ f ≤ 1 ∧ n < 2 ^ 32 ∧ s.fld F.NET_DEALER_KIND = 1 ∧ s.fld F.NET_DEALER_SLOT = (s.sess i).slot ∧ (s.sess i).observer = false ∧ s.dev.u.net.links.length = 6 ∧ laterThan n (s.reg (R.NET_VNUM l)).toNat = true ∧ ¬ CoreUp s 5 := by
  decide +kernel

/-- The hypotheses of clause `verdictStale` hold together. -/
theorem test_met_verdictStale :
    let b := State.reset
    let i := 1
    let h : Hdr := someHdr 8192
    let s := hostState b { sid := 77, st := .opened }
    let l := 4
    let a := 1
    let f := 0
    let n := 44021
    let p : List Byte := [BitVec.ofNat 8 l, BitVec.ofNat 8 a, BitVec.ofNat 8 f, 0] ++ leBytes 4 n
    let s := (((s.setF F.NET_DEALER_KIND 1).setF F.NET_DEALER_SLOT 0).setF (F.NET_LSTAT_SWITCHING l) 0).setR (R.NET_VNUM l) (BitVec.ofNat 32 (n + 2 ^ 32 - 1 - 51940))
    let s := s.setU fun u => { u with net := { u.net with links := (u.net.links ++ List.replicate 6 ({} : NetLink)).take 6 } }
    let s := s.setU fun u => { u with net := { u.net with links := updAt u.net.links l fun k => { k with want := false } } }
    let s := s.setR (R.NET_VNUM l) (BitVec.ofNat 32 n)
    Ready s i 0x0D01 h p ∧ p = [BitVec.ofNat 8 l, BitVec.ofNat 8 a, BitVec.ofNat 8 f, 0] ++ leBytes 4 n ∧ l < 5 ∧ a ≤ 1 ∧ f ≤ 1 ∧ n < 2 ^ 32 ∧ s.fld F.NET_DEALER_KIND = 1 ∧ s.fld F.NET_DEALER_SLOT = (s.sess i).slot ∧ (s.sess i).observer = false ∧ s.dev.u.net.links.length = 6 ∧ laterThan n (s.reg (R.NET_VNUM l)).toNat = false := by
  decide +kernel

/-- The hypotheses of clause `notDealer` hold together. -/
theorem test_met_notDealer :
    let b := State.reset
    let i := 1
    let h : Hdr := someHdr 8192
    let s := hostState b { sid := 77, st := .opened }
    let l := 4
    let a := 1
    let f := 0
    let n := 44021
    let p : List Byte := [BitVec.ofNat 8 l, BitVec.ofNat 8 a, BitVec.ofNat 8 f, 0] ++ leBytes 4 n
    let s := if 1 = 0 then (s.setF F.NET_DEALER_KIND 1).setF F.NET_DEALER_SLOT 3 else s.setF F.NET_DEALER_KIND 2
    Ready s i 0x0D01 h p ∧ p = [BitVec.ofNat 8 l, BitVec.ofNat 8 a, BitVec.ofNat 8 f, 0] ++ leBytes 4 n ∧ l < 6 ∧ a ≤ 1 ∧ f ≤ 1 ∧ n < 2 ^ 32 ∧ (s.fld F.NET_DEALER_KIND ≠ 1 ∨ s.fld F.NET_DEALER_SLOT ≠ (s.sess i).slot) := by
  decide +kernel

/-- The hypotheses of clause `shuffleNow` hold together. -/
theorem test_met_shuffleNow :
    let b := State.reset
    let i := 1
    let h : Hdr := someHdr 8192
    let s := hostState b { sid := 77, st := .opened }
    let l := 4
    let n := 44021
    let p : List Byte := [BitVec.ofNat 8 l, 0, 0, 0]
    let s := (((s.setF F.NET_DEALER_KIND 1).setF F.NET_DEALER_SLOT 0).setF (F.NET_LSTAT_SWITCHING l) 0).setR (R.NET_VNUM l) (BitVec.ofNat 32 (n + 2 ^ 32 - 1 - 51940))
    let s := s.setU fun u => { u with net := { u.net with links := (u.net.links ++ List.replicate 6 ({} : NetLink)).take 6 } }
    let s := s.setU fun u => { u with net := { u.net with links := updAt u.net.links l fun k => { k with want := false } } }
    let s := if s.fld (F.NET_LSTAT_ACTIVE l) = 0 then s.setF (F.NET_LSTAT_VB l) (1) else s.setF (F.NET_LSTAT_VA l) (1)
    Ready s i 0x0D02 h p ∧ p = [BitVec.ofNat 8 l, 0, 0, 0] ∧ l < 5 ∧ s.dev.u.net.links.length = 6 ∧ s.fld (F.NET_LSTAT_SWITCHING l) = 0 ∧ (s.dev.u.net.links.getD l {}).want = false ∧ (if s.fld (F.NET_LSTAT_ACTIVE l) = 0 then s.fld (F.NET_LSTAT_VB l) else s.fld (F.NET_LSTAT_VA l)) ≠ 2 := by
  decide +kernel

/-- The hypotheses of clause `shuffleSkipped` hold together. -/
theorem test_met_shuffleSkipped :
    let b := State.reset
    let i := 1
    let h : Hdr := someHdr 8192
    let s := hostState b { sid := 77, st := .opened }
    let l := 4
    let n := 44021
    let p : List Byte := [BitVec.ofNat 8 l, 0, 0, 0]
    let s := (((s.setF F.NET_DEALER_KIND 1).setF F.NET_DEALER_SLOT 0).setF (F.NET_LSTAT_SWITCHING l) 0).setR (R.NET_VNUM l) (BitVec.ofNat 32 (n + 2 ^ 32 - 1 - 51940))
    let s := s.setU fun u => { u with net := { u.net with links := (u.net.links ++ List.replicate 6 ({} : NetLink)).take 6 } }
    let s := s.setU fun u => { u with net := { u.net with links := updAt u.net.links l fun k => { k with want := false } } }
    let s := if s.fld (F.NET_LSTAT_ACTIVE l) = 0 then s.setF (F.NET_LSTAT_VB l) 2 else s.setF (F.NET_LSTAT_VA l) 2
    Ready s i 0x0D02 h p ∧ p = [BitVec.ofNat 8 l, 0, 0, 0] ∧ l < 5 ∧ s.dev.u.net.links.length = 6 ∧ s.fld (F.NET_LSTAT_SWITCHING l) = 0 ∧ (s.dev.u.net.links.getD l {}).want = false ∧ (if s.fld (F.NET_LSTAT_ACTIVE l) = 0 then s.fld (F.NET_LSTAT_VB l) else s.fld (F.NET_LSTAT_VA l)) = 2 := by
  decide +kernel

/-- The hypotheses of clause `shuffleBusy` hold together. -/
theorem test_met_shuffleBusy :
    let b := State.reset
    let i := 1
    let h : Hdr := someHdr 8192
    let s := hostState b { sid := 77, st := .opened }
    let l := 4
    let p : List Byte := [BitVec.ofNat 8 l, 0, 0, 0]
    let s := s.setF (F.NET_LSTAT_SWITCHING l) 1
    Ready s i 0x0D02 h p ∧ p = [BitVec.ofNat 8 l, 0, 0, 0] ∧ l < 6 ∧ s.fld (F.NET_LSTAT_SWITCHING l) = 1 := by
  decide +kernel

/-- The hypotheses of clause `pathStatus` hold together. -/
theorem test_met_pathStatus :
    let b := State.reset
    let i := 1
    let h : Hdr := someHdr 16384
    let s := hostState b { sid := 77, st := .opened }
    let p : List Byte := []
    Ready s i 0x0D03 h p := by
  decide +kernel

/-- The hypotheses of clause `clusterStatus` hold together. -/
theorem test_met_clusterStatus :
    let b := State.reset
    let i := 1
    let h : Hdr := someHdr 16384
    let s := hostState b { sid := 77, st := .opened }
    let p : List Byte := []
    let sl : List Byte := patch (zeros 512) 1 [3, 2, 0, 0, 0, 0, 0, 9, 8, 7, 6, 5, 4, 3, 2]
    let s := (s.setF F.RNG_STAT_ADDR 1).setU fun u => { u with rng := { u.rng with ring := true, joined := true, n := 8, states := [1, 2, 1, 0, 1, 1, 1, 1], peers := List.replicate 8 { slot := sl, fresh := true } } }
    let s := s.setF (F.RNG_MSTAT_DISAGREE 2) 5
    Ready s i 0x0E01 h p ∧ s.fld F.RNG_STAT_ADDR = 1 := by
  decide +kernel

/-- The hypotheses of clause `clusterStatusMember` hold together. -/
theorem test_met_clusterStatusMember :
    let b := State.reset
    let i := 1
    let h : Hdr := someHdr 16384
    let s := hostState b { sid := 77, st := .opened }
    let p : List Byte := []
    let sl : List Byte := patch (zeros 512) 1 [3, 8, 0, 0, 0, 0, 0, 9, 8, 7, 6, 5, 4, 3, 2]
    let s := (s.setF F.RNG_STAT_ADDR 3).setU fun u => { u with rng := { u.rng with ring := true, joined := true, n := 8, states := [1, 2, 1, 0, 1, 1, 1, 1], peers := List.replicate 8 { slot := sl, fresh := true } } }
    let s := s.setF (F.RNG_MSTAT_DISAGREE 2) 5
    Ready s i 0x0E01 h p ∧ s.fld F.RNG_STAT_ADDR ≠ 1 := by
  decide +kernel

/-- The hypotheses of clause `rejoinMember` hold together. -/
theorem test_met_rejoinMember :
    let b := State.reset
    let i := 1
    let h : Hdr := someHdr 8192
    let s := hostState b { sid := 77, st := .opened }
    let a := 2 + 6
    let p : List Byte := [BitVec.ofNat 8 a, 0, 0, 0]
    let s := s.setF F.RNG_STAT_ADDR 3
    let s := s.setU fun u => { u with rng := { u.rng with ring := true } }
    Ready s i 0x0E02 h p ∧ p = [BitVec.ofNat 8 a, 0, 0, 0] ∧ 2 ≤ a ∧ a ≤ 8 ∧ s.dev.u.rng.ring = true ∧ s.fld F.RNG_STAT_ADDR ≠ 1 := by
  decide +kernel

/-- The hypotheses of clause `rejoinAbsent` hold together. -/
theorem test_met_rejoinAbsent :
    let b := State.reset
    let i := 1
    let h : Hdr := someHdr 8192
    let s := hostState b { sid := 77, st := .opened }
    let a := 2 + 6
    let p : List Byte := [BitVec.ofNat 8 a, 0, 0, 0]
    let s := s.setU fun u => { u with rng := { u.rng with ring := false, joined := false } }
    Ready s i 0x0E02 h p ∧ p = [BitVec.ofNat 8 a, 0, 0, 0] ∧ 2 ≤ a ∧ a ≤ 8 ∧ (s.dev.u.rng.ring = false ∨ s.fld F.RNG_STAT_ADDR = 1) ∧ (s.dev.u.rng.joined = false ∨ (s.dev.u.rng.peers.getD (a - 1) {}).fresh = false) := by
  decide +kernel

/-- The hypotheses of clause `rejoinTaken` hold together. -/
theorem test_met_rejoinTaken :
    let b := State.reset
    let i := 1
    let h : Hdr := someHdr 8192
    let s := hostState b { sid := 77, st := .opened }
    let a := 2 + 6
    let p : List Byte := [BitVec.ofNat 8 a, 0, 0, 0]
    let s := (s.setF F.RNG_STAT_ADDR 1).setF F.SYS_MODE_CUR (2 + 1)
    let sl : List Byte := patch (patch (zeros 64) 8 (leBytes 4 (s.reg R.RNG_CHASH).toNat)) 12 (leBytes 4 ((s.reg R.SYS_FWVER).toNat % 2 ^ 24))
    let s := s.setU fun u => { u with rng := { u.rng with ring := true, joined := true, n := 8, rejoin := none, states := List.replicate 8 2, peers := List.replicate 8 { slot := sl, fresh := true } } }
    Ready s i 0x0E02 h p ∧ p = [BitVec.ofNat 8 a, 0, 0, 0] ∧ 2 ≤ a ∧ a ≤ 8 ∧ a ≤ s.dev.u.rng.n ∧ s.fld F.RNG_STAT_ADDR = 1 ∧ s.dev.u.rng.joined = true ∧ (s.dev.u.rng.peers.getD (a - 1) {}).fresh = true ∧ leAt (s.dev.u.rng.peers.getD (a - 1) {}).slot 8 4 = (s.reg R.RNG_CHASH).toNat ∧ leAt (s.dev.u.rng.peers.getD (a - 1) {}).slot 12 4 = (s.reg R.SYS_FWVER).toNat % 2 ^ 24 ∧ (toSigned 32 (leAt (s.dev.u.rng.peers.getD (a - 1) {}).slot 16 4)).natAbs ≤ 2000 ∧ s.mode ≠ 0 ∧ s.mode ≠ 1 ∧ s.dev.u.rng.rejoin = none ∧ (s.dev.u.rng.states.getD (a - 1) 0 ≠ 1 ∨ bitAt (leAt (s.dev.u.rng.peers.getD (a - 1) {}).slot 2 1) 2 = true) := by
  decide +kernel

/-- The hypotheses of clause `tempRead` hold together. -/
theorem test_met_tempRead :
    let b := State.reset
    let i := 1
    let h : Hdr := someHdr 16384
    let s := hostState b { sid := 77, st := .opened }
    let p : List Byte := []
    Ready s i 0x0F01 h p := by
  decide +kernel

/-- The hypotheses of clause `throttleAck` hold together. -/
theorem test_met_throttleAck :
    let b := State.reset
    let i := 1
    let h : Hdr := someHdr 8192
    let s := hostState b { sid := 77, st := .opened }
    let k := 1 + 0
    let a : ThmAsk := ⟨k, 2, 7, 4⟩
    let p : List Byte := [BitVec.ofNat 8 k, 0, 0, 0]
    let s := s.setU fun u => { u with thm := { u.thm with ask := some a } }
    Ready s i 0x0F02 h p ∧ p = [BitVec.ofNat 8 k, 0, 0, 0] ∧ s.dev.u.thm.ask = some a ∧ a.level = k ∧ 1 ≤ k ∧ k ≤ 2 ∧ a.kind = 2 := by
  decide +kernel

/-- The hypotheses of clause `throttleNoask` hold together. -/
theorem test_met_throttleNoask :
    let b := State.reset
    let i := 1
    let h : Hdr := someHdr 8192
    let s := hostState b { sid := 77, st := .opened }
    let k := 1 + 2
    let p : List Byte := [BitVec.ofNat 8 k, 0, 0, 0]
    let s := s.setU fun u => { u with thm := { u.thm with ask := if 1 = 0 then none else some ⟨4, 2, 1, 4⟩ } }
    Ready s i 0x0F02 h p ∧ p = [BitVec.ofNat 8 k, 0, 0, 0] ∧ 1 ≤ k ∧ k ≤ 3 ∧ (∀ a ∈ s.dev.u.thm.ask, a.level ≠ k) := by
  decide +kernel

/-- The hypotheses of clause `fwLoad` hold together. -/
theorem test_met_fwLoad :
    let b := State.reset
    let i := 1
    let h : Hdr := someHdr 24576
    let s := hostState b { sid := 77, st := .opened }
    let len := 4096 * (256 + 4135)
    let p : List Byte := zeros 4 ++ leBytes 4 len
    let s := s.setU fun u => { u with nv := { u.nv with commit := none } }
    Ready s i 0x1001 h p ∧ p = zeros 4 ++ leBytes 4 len ∧ len % 4096 = 0 ∧ 1048576 ≤ len ∧ len ≤ 67108864 ∧ s.dev.u.nv.commit = none := by
  decide +kernel

/-- The hypotheses of clause `fwLoadBad` hold together. -/
theorem test_met_fwLoadBad :
    let b := State.reset
    let i := 1
    let h : Hdr := someHdr 24576
    let s := hostState b { sid := 77, st := .opened }
    let len := [4096, 67112960, 1048577].getD (2) 5
    let p : List Byte := zeros 4 ++ leBytes 4 len
    Ready s i 0x1001 h p ∧ p = zeros 4 ++ leBytes 4 len ∧ len < 2 ^ 32 ∧ (len % 4096 ≠ 0 ∨ len < 1048576 ∨ 67108864 < len) := by
  decide +kernel

/-- The hypotheses of clause `bankState` hold together. -/
theorem test_met_bankState :
    let b := State.reset
    let i := 1
    let h : Hdr := someHdr 8192
    let s := hostState b { sid := 77, st := .opened }
    let p : List Byte := []
    Ready s i 0x1002 h p ∧ s.dev.u.nv.commit = none := by
  decide +kernel

/-- The hypotheses of clause `bankStateRuns` hold together. -/
theorem test_met_bankStateRuns :
    let b := State.reset
    let i := 1
    let h : Hdr := someHdr 8192
    let c : Commit := { obj := .matrix, bank := 1, data := [], step := 3, serves := none, reply := [], openedAt := 1000, dataAt := 1000 }
    let s := ((hostState b { sid := 77, st := .opened }).setT 900000000).setU fun u => { u with nv := { u.nv with commit := some c } }
    let p : List Byte := []
    let lo := max c.shown (journalSpan c s.dev.u.elapsed).1
    let hi := max lo (journalSpan c s.dev.u.elapsed).2
    Ready s i 0x1002 h p ∧ s.dev.u.nv.commit = some c ∧ c.shown ≤ 6 ∧ c.step ≤ 4 ∧ lo = max c.shown (journalSpan c s.dev.u.elapsed).1 ∧ hi = max lo (journalSpan c s.dev.u.elapsed).2 := by
  decide +kernel

/-- The hypotheses of clause `bankSelectMatrix` hold together. -/
theorem test_met_bankSelectMatrix :
    let b := State.reset
    let i := 1
    let h : Hdr := someHdr 8192
    let s := hostState b { sid := 77, st := .opened }
    let p : List Byte := [2, 0, 0, 0]
    let s := s.setU fun u => { u with nv := { u.nv with commit := none } }
    let s := s.setU fun u => { u with nv := { u.nv with queued := [], mat := [{ state := 1 }, { state := 1 }], matSel := 0 } }
    Ready s i 0x1003 h p ∧ p = [2, 0, 0, 0] ∧ s.dev.u.nv.commit = none ∧ s.dev.u.nv.queued = [] ∧ (s.dev.u.nv.mat.getD (1 - s.dev.u.nv.matSel) {}).state = 1 := by
  decide +kernel

/-- The hypotheses of clause `bankSelectFirmware` hold together. -/
theorem test_met_bankSelectFirmware :
    let b := State.reset
    let i := 1
    let h : Hdr := someHdr 8192
    let s := hostState b { sid := 77, st := .opened }
    let p : List Byte := [1, 0, 0, 0]
    let s := s.setU fun u => { u with nv := { u.nv with commit := none } }
    let s := s.setU fun u => { u with nv := { u.nv with queued := [], fw := [{ state := 1 }, { state := 1 }], fwSel := 0 } }
    Ready s i 0x1003 h p ∧ p = [1, 0, 0, 0] ∧ s.dev.u.nv.commit = none ∧ s.dev.u.nv.queued = [] ∧ (s.dev.u.nv.fw.getD (1 - s.dev.u.nv.fwSel) {}).state = 1 := by
  decide +kernel

/-- The hypotheses of clause `bankEmpty` hold together. -/
theorem test_met_bankEmpty :
    let b := State.reset
    let i := 1
    let h : Hdr := someHdr 8192
    let s := hostState b { sid := 77, st := .opened }
    let p : List Byte := [2, 0, 0, 0]
    let s := s.setU fun u => { u with nv := { u.nv with commit := none } }
    let s := s.setU fun u => { u with nv := { u.nv with mat := [{}, {}] } }
    Ready s i 0x1003 h p ∧ p = [2, 0, 0, 0] ∧ s.dev.u.nv.commit = none ∧ (s.dev.u.nv.mat.getD (1 - s.dev.u.nv.matSel) {}).state ≠ 1 := by
  decide +kernel

/-- The hypotheses of clause `poolStatus` hold together. -/
theorem test_met_poolStatus :
    let b := State.reset
    let i := 1
    let h : Hdr := someHdr 16384
    let s := hostState b { sid := 77, st := .opened }
    let p : List Byte := []
    Ready s i 0x1004 h p := by
  decide +kernel

/-- The hypotheses of clause `safeStatus` hold together. -/
theorem test_met_safeStatus :
    let b := State.reset
    let i := 1
    let h : Hdr := someHdr 16384
    let s := hostState b { sid := 77, st := .opened }
    let p : List Byte := []
    Ready s i 0x1101 h p := by
  decide +kernel

/-- The hypotheses of clause `arpAnswered` hold together. -/
theorem test_met_arpAnswered :
    let b := State.reset
    let s := b
    let s := linked s
    let ip := 0xC0A80064
    Live s ∧ Canon s ∧ HostLinkUp s ∧ (s.reg R.CMD_IP).toNat = ip := by
  decide +kernel

/-- The hypotheses of clause `arpOther` hold together. -/
theorem test_met_arpOther :
    let b := State.reset
    let s := b
    let s := linked s
    let ip := 0xC0A80065
    Live s ∧ Canon s ∧ HostLinkUp s ∧ (s.reg R.CMD_IP).toNat ≠ ip := by
  decide +kernel

/-- The hypotheses of clause `echoAnswered` hold together. -/
theorem test_met_echoAnswered :
    let b := State.reset
    let s := b
    let s := linked s
    let s := s.setF F.CMD_CTL_ECHO 1
    let ip := 0xC0A80002
    let d : List Byte := zeros (68)
    Live s ∧ Canon s ∧ HostLinkUp s ∧ HasHop s ip ∧ s.fld F.CMD_CTL_ECHO = 1 ∧ d.length ≤ 1472 := by
  decide +kernel

/-- The hypotheses of clause `echoOff` hold together. -/
theorem test_met_echoOff :
    let b := State.reset
    let s := b
    let s := linked s
    let s := s.setF F.CMD_CTL_ECHO 0
    let d : List Byte := zeros (68)
    Live s ∧ Canon s ∧ HostLinkUp s ∧ s.fld F.CMD_CTL_ECHO = 0 ∧ d.length ≤ 1472 := by
  decide +kernel

/-- The hypotheses of clause `discarded` hold together. -/
theorem test_met_discarded :
    let b := State.reset
    let s := b
    let s := linked s
    let d : List Byte := zeros 40
    let x : Discard := .checksum d
    Live s ∧ Canon s ∧ HostLinkUp s ∧ (x = .transport ∨ (x = .checksum d ∧ checksumsOk d = false) ∨ (x = .form d ∧ hostHead d = none)) := by
  decide +kernel

/-- The hypotheses of clause `discardedForm` hold together. -/
theorem test_met_discardedForm :
    let b := State.reset
    let s := b
    let s := linked s
    let d : List Byte := [1, 2] ++ zeros 14
    let x : Discard := .form d
    Live s ∧ Canon s ∧ HostLinkUp s ∧ (x = .transport ∨ (x = .checksum d ∧ checksumsOk d = false) ∨ (x = .form d ∧ hostHead d = none)) := by
  decide +kernel

/-- The hypotheses of clause `discardedFrame` hold together. -/
theorem test_met_discardedFrame :
    let b := State.reset
    let s := b
    let s := linked s
    let d : List Byte := []
    let x : Discard := .transport
    Live s ∧ Canon s ∧ HostLinkUp s ∧ (x = .transport ∨ (x = .checksum d ∧ checksumsOk d = false) ∨ (x = .form d ∧ hostHead d = none)) := by
  decide +kernel

/-- The hypotheses of clause `discardedPacket` hold together. -/
theorem test_met_discardedPacket :
    let b := State.reset
    let s := b
    let s := linked s
    let sid := 70
    Live s ∧ Canon s ∧ HostLinkUp s ∧ findSess s.dev.u.cmd.sessions sid = none := by
  decide +kernel

/-- The hypotheses of clause `headerBack` hold together. -/
theorem test_met_headerBack :
    let k := 5
    let sid := 65535
    let seq := 0xFFFFFFFF
    let tagw := 65535
    let op := 65535
    let p : List Byte := zeros 1456
    (k = 1 ∨ k = 4 ∨ k = 5) ∧ sid < 2 ^ 16 ∧ seq < 2 ^ 32 ∧ tagw < 2 ^ 16 ∧ op < 2 ^ 16 ∧ p.length ≤ 1456 := by
  decide +kernel

/-- The hypotheses of clause `headerNone` hold together. -/
theorem test_met_headerNone :
    let d : List Byte := [2] ++ zeros 15
    (d.length < 16 ∨ leAt d 0 1 ≠ 1 ∨ leAt d 1 1 % 16 ∉ [1, 4, 5] ∨ leAt d 12 2 + 16 ≠ d.length) := by
  decide +kernel

/-- The hypothesis of clause `datagram` holds of a longest packet. -/
theorem test_met_datagram :
    let p : Pkt := ⟨1, 2, none, 3, 4, 5, 6, 7, 0, zeros 1456, 0⟩
    let own := 9
    p.payload.length ≤ 1456 ∧ own = 9 := by
  decide +kernel

/-- The header of R359, written out byte by byte. -/
theorem test_header_words :
    let p : Pkt := ⟨1, 2, none, 3, 0x1234, 0x89ABCDEF, 0x2101, 0x0203, 0x0005, [0xAA, 0xBB], 0⟩
    p.data = [0x01, 0x03, 0x34, 0x12, 0xEF, 0xCD, 0xAB, 0x89, 0x01, 0x21, 0x03, 0x02, 0x02, 0x00, 0x05, 0x00, 0xAA, 0xBB] := by
  decide +kernel

/-- The hypotheses of clause `arpRefreshed` hold together. -/
theorem test_met_arpRefreshed :
    let b := State.reset
    let s := hostState b { sid := 77, st := .opened }
    let s := (s.setT 70000000000000).setU fun u => { u with cmd := { u.cmd with arpAt := 5 } }
    Live s ∧ Canon s ∧ HostLinkUp s ∧ s.dev.u.cmd.arpAt + 60000000000 ≤ s.dev.u.elapsed := by
  decide +kernel

/-- The hypotheses of clause `arpKept` hold together. -/
theorem test_met_arpKept :
    let b := State.reset
    let ip := 0xC0A80003
    let s := hostState b { sid := 77, st := .opened }
    Live s ∧ Canon s ∧ HostLinkUp s ∧ ip ∈ hopsOf s.dev.u.cmd.sessions := by
  decide +kernel

/-- The hypotheses of clause `ipApplied` hold together. -/
theorem test_met_ipApplied :
    let b := State.reset
    let s := b
    let s := linked s
    let s := (s.setF F.CMD_STGIPL_IP (20264)).setF F.CMD_STGPFX_PFX (23)
    Live s ∧ Canon s ∧ HostLinkUp s := by
  decide +kernel

/-- The hypotheses of clause `ipSaved` hold together. -/
theorem test_met_ipSaved :
    let b := State.reset
    let s := b
    let s := s.setU fun u => { u with nv := { u.nv with commit := none } }
    Live s ∧ Canon s ∧ s.dev.u.nv.commit = none := by
  decide +kernel

/-- The hypotheses of clause `keyWord` hold together. -/
theorem test_met_keyWord :
    let b := State.reset
    let i := 1
    let s := hostState b { sid := 77, st := .opened, keyAdmin := true }
    let s := s.setF F.SYS_MODE_CUR 6
    let v := 20264
    let s := (s.setF F.SEC_KEYIDX_AINC 0).setF F.SEC_KEYIDX_WORD (7)
    let w := s.fld F.SEC_KEYIDX_WORD
    Live s ∧ Canon s ∧ s.mode = 6 ∧ (s.sess i).st = .opened ∧ (s.sess i).keyAdmin = true ∧ v < 65536 ∧ w = s.fld F.SEC_KEYIDX_WORD ∧ s.fld F.SEC_KEYIDX_AINC = 0 := by
  decide +kernel

/-- The hypotheses of clause `keyWordNext` hold together. -/
theorem test_met_keyWordNext :
    let b := State.reset
    let i := 1
    let s := hostState b { sid := 77, st := .opened, keyAdmin := true }
    let s := s.setF F.SYS_MODE_CUR 6
    let v := 20264
    let s := (s.setF F.SEC_KEYIDX_AINC 1).setF F.SEC_KEYIDX_WORD (13)
    let w := s.fld F.SEC_KEYIDX_WORD
    Live s ∧ Canon s ∧ s.mode = 6 ∧ (s.sess i).st = .opened ∧ (s.sess i).keyAdmin = true ∧ v < 65536 ∧ w = s.fld F.SEC_KEYIDX_WORD ∧ s.fld F.SEC_KEYIDX_AINC = 1 ∧ w < 15 := by
  decide +kernel

/-- The hypotheses of clause `keyDenied` hold together. -/
theorem test_met_keyDenied :
    let b := State.reset
    let i := 1
    let s := hostState b { sid := 77, st := .opened, keyAdmin := true }
    let s := s.setF F.SYS_MODE_CUR 6
    let src : Src := if 1 = 0 then .core else .host i
    let s := s.setF F.SYS_MODE_CUR (0)
    Live s ∧ Canon s ∧ (s.mode ≠ 6 ∨ s.keyAdmin src = false) := by
  decide +kernel

/-- The hypotheses of clause `keyLoadDenied` hold together. -/
theorem test_met_keyLoadDenied :
    let b := State.reset
    let i := 1
    let s := hostState b { sid := 77, st := .opened, keyAdmin := true }
    let s := s.setF F.SYS_MODE_CUR 6
    let src : Src := .service
    Live s ∧ Canon s ∧ (s.mode ≠ 6 ∨ s.keyAdmin src = false) := by
  decide +kernel

/-- The hypotheses of clause `keyEraseDenied` hold together. -/
theorem test_met_keyEraseDenied :
    let b := State.reset
    let i := 1
    let s := hostState b { sid := 77, st := .opened, keyAdmin := false }
    let s := s.setF F.SYS_MODE_CUR 6
    let src : Src := .host i
    Live s ∧ Canon s ∧ (s.mode ≠ 6 ∨ s.keyAdmin src = false) := by
  decide +kernel

/-- The hypotheses of clause `keyWriteDenied` hold together. -/
theorem test_met_keyWriteDenied :
    let b := State.reset
    let i := 1
    let h : Hdr := someHdr 0
    let s := hostState b { sid := 77, st := .opened, keyAdmin := false }
    let s := s.setF F.SYS_MODE_CUR 6
    let k := 7
    let p : List Byte := leBytes 4 (R.SEC_SLOT 7) ++ leBytes 4 0xC000C000
    Ready s i 0x0202 h p ∧ k < 8 ∧ leAt p 0 4 ∈ [R.SEC_KEYIDX, R.SEC_KEYDATA, R.SEC_KEYCMD, R.SEC_SLOT k] ∧ (s.mode ≠ 6 ∨ (s.sess i).keyAdmin = false) := by
  decide +kernel

/-- The hypotheses of clause `keyLoaded` hold together. -/
theorem test_met_keyLoaded :
    let b := State.reset
    let i := 1
    let s := hostState b { sid := 77, st := .opened, keyAdmin := true }
    let s := s.setF F.SYS_MODE_CUR 6
    let s := s.setU fun u => { u with nv := { u.nv with commit := none } }
    let s := s.setF F.SEC_KEYIDX_SLOT (0)
    let k := s.fld F.SEC_KEYIDX_SLOT
    let s := s.setU fun u => { u with cmd := { u.cmd with slots := List.replicate 8 {}, keyBuf := [(3, 77), (0, 28183)], keyBufBy := some i } }
    Live s ∧ Canon s ∧ s.mode = 6 ∧ (s.sess i).st = .opened ∧ (s.sess i).keyAdmin = true ∧ k = s.fld F.SEC_KEYIDX_SLOT ∧ k < 8 ∧ s.dev.u.cmd.slots.length = 8 ∧ s.dev.u.nv.commit = none := by
  decide +kernel

/-- The hypotheses of clause `keyErased` hold together. -/
theorem test_met_keyErased :
    let b := State.reset
    let i := 1
    let s := hostState b { sid := 77, st := .opened, keyAdmin := true }
    let s := s.setF F.SYS_MODE_CUR 6
    let s := s.setU fun u => { u with nv := { u.nv with commit := none } }
    let s := s.setF F.SEC_KEYIDX_SLOT (0)
    let k := s.fld F.SEC_KEYIDX_SLOT
    let s := s.setU fun u => { u with cmd := { u.cmd with slots := List.replicate 8 { key := some (zeros 32) } } }
    Live s ∧ Canon s ∧ s.mode = 6 ∧ (s.sess i).st = .opened ∧ (s.sess i).keyAdmin = true ∧ k = s.fld F.SEC_KEYIDX_SLOT ∧ k < 8 ∧ s.dev.u.cmd.slots.length = 8 ∧ s.dev.u.nv.commit = none := by
  decide +kernel

/-- The hypotheses of clause `keyBufferCleared` hold together. -/
theorem test_met_keyBufferCleared :
    let b := State.reset
    let s := ((b.setF F.SEC_STAT_KEYBUF 1).setT 70000000000000).setU fun u => { u with cmd := { u.cmd with keyBufAt := 5, keyBuf := [(1, 2)] } }
    Live s ∧ Canon s ∧ s.fld F.SEC_STAT_KEYBUF = 1 ∧ s.dev.u.cmd.keyBufAt + 10000000000 ≤ s.dev.u.elapsed := by
  decide +kernel

/-- The hypotheses of clause `lockoutEnds` hold together. -/
theorem test_met_lockoutEnds :
    let b := State.reset
    let k := 0
    let e := 7
    let s := ((b.setF (F.SEC_SLOTSTAT_LOCKED k) 1).setT 70000000000000).setU fun u => { u with cmd := { u.cmd with slots := List.replicate 8 { lockedUntil := some e } } }
    Live s ∧ Canon s ∧ k < 8 ∧ (s.dev.u.cmd.slots.getD k {}).lockedUntil = some e ∧ e ≤ s.dev.u.elapsed := by
  decide +kernel

/-- The hypotheses of clause `bulkInOrder` hold together. -/
theorem test_met_bulkInOrder :
    let b := State.reset
    let i := 1
    let h : Hdr := someHdr 24576
    let s := hostState b { sid := 77, st := .opened }
    let x : Bulk := { tagw := h.tagw, opcode := 0x0404, out := false, len := 65600, data := [], acked := 0, limit := 92672, next := 0, run := 0, waitSince := none, limitSince := none, ringSeq := 0 }
    let x := { x with run := 14, acked := 1448 * (23) }
    let s := s.setU fun u => { u with cmd := { u.cmd with sessions := updAt u.cmd.sessions i fun z => { z with bulk := [x], tags := [⟨x.tagw, x.opcode, true, true, [], 0, none, none, 0, false, 0⟩] } } }
    let d : List Byte := zeros 1448
    Live s ∧ Canon s ∧ HostLinkUp s ∧ Named s i h ∧ bulkOf (s.sess i) h.tagw = some x ∧ x.out = false ∧ x.opcode ≠ 0x0501 ∧ d.length = 1448 ∧ x.acked % 1448 = 0 ∧ x.acked + 1448 < x.len ∧ x.acked < x.limit ∧ x.run < 15 ∧ x.ahead = [] := by
  decide +kernel

/-- The hypotheses of clause `bulkWindowSent` hold together. -/
theorem test_met_bulkWindowSent :
    let b := State.reset
    let i := 1
    let h : Hdr := someHdr 24576
    let s := hostState b { sid := 77, st := .opened }
    let x : Bulk := { tagw := h.tagw, opcode := 0x0404, out := false, len := 65600, data := [], acked := 0, limit := 92672, next := 0, run := 0, waitSince := none, limitSince := none, ringSeq := 0 }
    let x := { x with run := 15, acked := 1448 * (23) }
    let s := s.setU fun u => { u with cmd := { u.cmd with sessions := updAt u.cmd.sessions i fun z => { z with bulk := [x], tags := [⟨x.tagw, x.opcode, true, true, [], 0, none, none, 0, false, 0⟩] } } }
    let d : List Byte := zeros 1448
    Live s ∧ Canon s ∧ HostLinkUp s ∧ Named s i h ∧ bulkOf (s.sess i) h.tagw = some x ∧ x.out = false ∧ x.opcode ≠ 0x0501 ∧ d.length = 1448 ∧ x.acked % 1448 = 0 ∧ x.acked + 1448 < x.len ∧ x.acked < x.limit ∧ 15 ≤ x.run ∧ x.ahead = [] := by
  decide +kernel

/-- The hypotheses of clause `bulkBefore` hold together. -/
theorem test_met_bulkBefore :
    let b := State.reset
    let i := 1
    let h : Hdr := someHdr 24576
    let s := hostState b { sid := 77, st := .opened }
    let x : Bulk := { tagw := h.tagw, opcode := 0x0404, out := false, len := 65600, data := [], acked := 0, limit := 92672, next := 0, run := 0, waitSince := none, limitSince := none, ringSeq := 0 }
    let x := { x with acked := 1448 * (1 + 23) }
    let s := s.setU fun u => { u with cmd := { u.cmd with sessions := updAt u.cmd.sessions i fun z => { z with bulk := [x], tags := [⟨x.tagw, x.opcode, true, true, [], 0, none, none, 0, false, 0⟩] } } }
    let o := 0
    Live s ∧ Canon s ∧ HostLinkUp s ∧ Named s i h ∧ bulkOf (s.sess i) h.tagw = some x ∧ x.out = false ∧ o < x.acked := by
  decide +kernel

/-- The hypotheses of clause `bulkPast` hold together. -/
theorem test_met_bulkPast :
    let b := State.reset
    let i := 1
    let h : Hdr := someHdr 24576
    let s := hostState b { sid := 77, st := .opened }
    let x : Bulk := { tagw := h.tagw, opcode := 0x0404, out := false, len := 65600, data := [], acked := 0, limit := 92672, next := 0, run := 0, waitSince := none, limitSince := none, ringSeq := 0 }
    let x := { x with acked := 1448 * (1 + 13) }
    let s := s.setU fun u => { u with cmd := { u.cmd with sessions := updAt u.cmd.sessions i fun z => { z with bulk := [x], tags := [⟨x.tagw, x.opcode, true, true, [], 0, none, none, 0, false, 0⟩] } } }
    let o := x.acked + 1448 * (1 + 0)
    let d : List Byte := zeros 1448
    Live s ∧ Canon s ∧ HostLinkUp s ∧ Named s i h ∧ bulkOf (s.sess i) h.tagw = some x ∧ x.out = false ∧ x.acked < o ∧ o < x.limit ∧ o % 1448 = 0 ∧ o + 1448 < x.len ∧ d.length = 1448 := by
  decide +kernel

/-- The hypotheses of clause `bulkGapCloses` hold together. -/
theorem test_met_bulkGapCloses :
    let b := State.reset
    let i := 1
    let h : Hdr := someHdr 24576
    let s := hostState b { sid := 77, st := .opened }
    let x : Bulk := { tagw := h.tagw, opcode := 0x0404, out := false, len := 65600, data := [], acked := 0, limit := 92672, next := 0, run := 0, waitSince := none, limitSince := none, ringSeq := 0 }
    let x := { x with acked := 1448 * (1 + 13) }
    let d : List Byte := zeros 1448
    let e : List Byte := List.replicate 1448 7
    let x := { x with ahead := [(x.acked + 1448, e)] }
    let s := s.setU fun u => { u with cmd := { u.cmd with sessions := updAt u.cmd.sessions i fun z => { z with bulk := [x], tags := [⟨x.tagw, x.opcode, true, true, [], 0, none, none, 0, false, 0⟩] } } }
    Live s ∧ Canon s ∧ HostLinkUp s ∧ Named s i h ∧ bulkOf (s.sess i) h.tagw = some x ∧ x.out = false ∧ x.opcode ≠ 0x0501 ∧ d.length = 1448 ∧ e.length = 1448 ∧ x.acked % 1448 = 0 ∧ x.acked + 2896 < x.len ∧ x.acked < x.limit ∧ x.run < 14 ∧ x.ahead = [(x.acked + 1448, e)] := by
  decide +kernel

/-- The hypotheses of clause `bulkChecked` hold together. -/
theorem test_met_bulkChecked :
    let b := State.reset
    let i := 1
    let h : Hdr := someHdr 24576
    let s := hostState b { sid := 77, st := .opened }
    let x : Bulk := { tagw := h.tagw, opcode := 0x0404, out := false, len := 65600, data := [], acked := 0, limit := 92672, next := 0, run := 0, waitSince := none, limitSince := none, ringSeq := 0 }
    let x := { x with acked := 1448, data := zeros 1448, len := 1448 + 1000 }
    let s := s.setU fun u => { u with cmd := { u.cmd with sessions := updAt u.cmd.sessions i fun z => { z with bulk := [x], tags := [⟨x.tagw, x.opcode, true, true, [], 0, none, none, 0, false, 0⟩] } } }
    let d : List Byte := zeros 1000
    let c : Commit := { obj := .calibration, bank := 0, data := [], step := 3, serves := some (i, h.tagw), reply := [] }
    let s := s.setU fun u => { u with nv := { u.nv with commit := some c } }
    Live s ∧ Canon s ∧ HostLinkUp s ∧ Named s i h ∧ bulkOf (s.sess i) h.tagw = some x ∧ x.out = false ∧ x.opcode = 0x0404 ∧ x.acked % 1448 = 0 ∧ x.len ≤ x.acked + 1448 ∧ d.length + x.acked = x.len ∧ x.acked < x.limit ∧ calCheck (x.data ++ d) ≠ St.ok ∧ s.dev.u.nv.commit = some c ∧ c.serves = some (i, h.tagw) ∧ c.obj = .calibration ∧ (∃ z ∈ (s.sess i).tags, tagOf z.tagw = tagOf h.tagw ∧ z.done = false) ∧ x.ahead = [] := by
  decide +kernel

/-- The hypotheses of clause `bulkPassed` hold together. -/
theorem test_met_bulkPassed :
    let b := State.reset
    let i := 1
    let h : Hdr := someHdr 24576
    let s := hostState b { sid := 77, st := .opened }
    let x : Bulk := { tagw := h.tagw, opcode := 0x0404, out := false, len := 65600, data := [], acked := 0, limit := 92672, next := 0, run := 0, waitSince := none, limitSince := none, ringSeq := 0 }
    let x := { x with acked := 1448 * 45, data := [1, 0, 0, 0, 0x86, 0x47, 0x07, 0x66] ++ zeros 16 ++ [0xFF, 0xFF, 0xFF, 0xFF] ++ zeros 65132 }
    let s := s.setU fun u => { u with cmd := { u.cmd with sessions := updAt u.cmd.sessions i fun z => { z with bulk := [x], tags := [⟨x.tagw, x.opcode, true, true, [], 0, none, none, 0, false, 0⟩] } } }
    let d : List Byte := zeros 440
    let c : Commit := { obj := .calibration, bank := 0, data := [], step := 3, serves := some (i, h.tagw), reply := [] }
    let s := s.setU fun u => { u with nv := { u.nv with commit := some c } }
    Live s ∧ Canon s ∧ HostLinkUp s ∧ Named s i h ∧ bulkOf (s.sess i) h.tagw = some x ∧ x.out = false ∧ x.opcode = 0x0404 ∧ x.acked % 1448 = 0 ∧ x.len ≤ x.acked + 1448 ∧ d.length + x.acked = x.len ∧ x.acked < x.limit ∧ calCheck (x.data ++ d) = St.ok ∧ s.dev.u.nv.commit = some c ∧ x.ahead = [] := by
  refine ⟨by decide, by decide +kernel, by decide +kernel, by decide +kernel, rfl, rfl, rfl, ?_, ?_, ?_, ?_, ?_, rfl, rfl⟩
  on_goal 5 => exact cal_check_met
  all_goals decide +kernel

/-- The hypotheses of clause `bulkWinMoves` hold together. -/
theorem test_met_bulkWinMoves :
    let b := State.reset
    let i := 1
    let h : Hdr := someHdr 24576
    let s := hostState b { sid := 77, st := .opened }
    let x : Bulk := { tagw := h.tagw, opcode := 0x0404, out := false, len := 65600, data := [], acked := 0, limit := 92672, next := 0, run := 0, waitSince := none, limitSince := none, ringSeq := 0 }
    let x := { x with out := true, opcode := 0x0405, data := [], len := 9000, next := 8688 + 1448, acked := 0 }
    let s := s.setU fun u => { u with cmd := { u.cmd with sessions := updAt u.cmd.sessions i fun z => { z with bulk := [x], tags := [⟨x.tagw, x.opcode, true, true, [], 0, none, none, 0, false, 0⟩] } } }
    let a := 2264
    Live s ∧ Canon s ∧ HostLinkUp s ∧ Named s i h ∧ bulkOf (s.sess i) h.tagw = some x ∧ x.out = true ∧ x.opcode = 0x0405 ∧ x.acked ≤ a ∧ a < x.len ∧ x.len ≤ x.next := by
  decide +kernel

/-- The hypotheses of clause `bulkDone` hold together. -/
theorem test_met_bulkDone :
    let b := State.reset
    let i := 1
    let h : Hdr := someHdr 24576
    let s := hostState b { sid := 77, st := .opened }
    let x : Bulk := { tagw := h.tagw, opcode := 0x0404, out := false, len := 65600, data := [], acked := 0, limit := 92672, next := 0, run := 0, waitSince := none, limitSince := none, ringSeq := 0 }
    let x := { x with out := true, opcode := 0x0405, data := [], len := 9000, next := 8688 + 1448, acked := 0 }
    let s := s.setU fun u => { u with cmd := { u.cmd with sessions := updAt u.cmd.sessions i fun z => { z with bulk := [x], tags := [⟨x.tagw, x.opcode, true, true, [], 0, none, none, 0, false, 0⟩] } } }
    let a := 9000 + 2
    let z : OutTag := ⟨x.tagw, x.opcode, true, true, [], 0, none, none, 0, false, 0⟩
    let s := s.setU fun u => { u with nv := { u.nv with commit := none } }
    Live s ∧ Canon s ∧ HostLinkUp s ∧ Named s i h ∧ bulkOf (s.sess i) h.tagw = some x ∧ x.out = true ∧ x.len ≤ a ∧ s.dev.u.nv.commit = none ∧ z ∈ (s.sess i).tags ∧ tagOf z.tagw = tagOf h.tagw ∧ z.done = false := by
  decide +kernel

/-- The hypotheses of clause `bulkResent` hold together. -/
theorem test_met_bulkResent :
    let b := State.reset
    let i := 1
    let h : Hdr := someHdr 24576
    let s := hostState b { sid := 77, st := .opened }
    let since := 9
    let x : Bulk := { tagw := h.tagw, opcode := 0x0404, out := false, len := 65600, data := [], acked := 0, limit := 92672, next := 0, run := 0, waitSince := none, limitSince := none, ringSeq := 0 }
    let x := { x with out := true, opcode := 0x0405, data := [], len := 9000, next := 8688 + 1448, limitSince := some since, acked := 2264 }
    let s := s.setU fun u => { u with cmd := { u.cmd with sessions := updAt u.cmd.sessions i fun z => { z with bulk := [x], tags := [⟨x.tagw, x.opcode, true, true, [], 0, none, none, 0, false, 0⟩] } } }
    let s := s.setT 70000000000000
    let tag := h.tagw
    Live s ∧ Canon s ∧ HostLinkUp s ∧ i < 4 ∧ bulkOf (s.sess i) tag = some x ∧ x.out = true ∧ x.opcode = 0x0405 ∧ x.limitSince = some since ∧ since + 2000000 ≤ s.dev.u.elapsed ∧ x.acked < x.len ∧ x.len ≤ x.limit := by
  decide +kernel

/-- The hypotheses of clause `bulkResentToLimit` hold together. -/
theorem test_met_bulkResentToLimit :
    let b := State.reset
    let i := 1
    let h : Hdr := someHdr 24576
    let s := hostState b { sid := 77, st := .opened }
    let since := 9
    let x : Bulk := { tagw := h.tagw, opcode := 0x0404, out := false, len := 65600, data := [], acked := 0, limit := 92672, next := 0, run := 0, waitSince := none, limitSince := none, ringSeq := 0 }
    let x := { x with out := true, opcode := 0x0405, data := [], len := 990000, next := 8688 + 1448, limitSince := some since, acked := 8688 }
    let s := s.setU fun u => { u with cmd := { u.cmd with sessions := updAt u.cmd.sessions i fun z => { z with bulk := [x], tags := [⟨x.tagw, x.opcode, true, true, [], 0, none, none, 0, false, 0⟩] } } }
    let s := s.setT 70000000000000
    let tag := h.tagw
    Live s ∧ Canon s ∧ HostLinkUp s ∧ i < 4 ∧ bulkOf (s.sess i) tag = some x ∧ x.out = true ∧ x.opcode = 0x0405 ∧ x.limitSince = some since ∧ since + 2000000 ≤ s.dev.u.elapsed ∧ x.acked % 1448 = 0 ∧ x.limit % 1448 = 0 ∧ x.acked < x.limit ∧ x.limit < x.len := by
  decide +kernel

/-- The hypotheses of clause `bulkTimedOut` hold together. -/
theorem test_met_bulkTimedOut :
    let b := State.reset
    let i := 1
    let h : Hdr := someHdr 24576
    let s := hostState b { sid := 77, st := .opened }
    let since := 9
    let x : Bulk := { tagw := h.tagw, opcode := 0x0404, out := false, len := 65600, data := [], acked := 0, limit := 92672, next := 0, run := 0, waitSince := none, limitSince := none, ringSeq := 0 }
    let x := { x with out := true, opcode := 0x0405, data := [], len := 9000, next := 8688 + 1448, acked := 0, waitSince := some since }
    let s := s.setU fun u => { u with cmd := { u.cmd with sessions := updAt u.cmd.sessions i fun z => { z with bulk := [x], tags := [⟨x.tagw, x.opcode, true, true, [], 0, none, none, 0, false, 0⟩] } } }
    let s := s.setT 70000000000000
    let tag := h.tagw
    let z : OutTag := ⟨x.tagw, x.opcode, true, true, [], 0, none, none, 0, false, 0⟩
    let s := s.setU fun u => { u with nv := { u.nv with commit := none } }
    Live s ∧ Canon s ∧ i < 4 ∧ bulkOf (s.sess i) tag = some x ∧ x.waitSince = some since ∧ since + max 1 (s.fld F.CMD_BULKTO_T) * 1000000 ≤ s.dev.u.elapsed ∧ s.dev.u.nv.commit = none ∧ z ∈ (s.sess i).tags ∧ tagOf z.tagw = tagOf tag ∧ z.done = false ∧ HostLinkUp s ∧ (s.sess i).queue = [] ∧ HasHop s (s.sess i).ip := by
  decide +kernel

/-- The hypotheses of clause `busEnabled` hold together. -/
theorem test_met_busEnabled :
    let b := State.reset
    let n := 1
    let s := b.setU fun u => { u with fld := { u.fld with buses := List.replicate 4 {} }, net := { u.net with links := List.replicate 6 {} }, pool := {} }
    let s := ((((((((s.setF (F.FLD_NBT0_BRP n) 0).setF (F.FLD_NBT0_TSEG1 n) 61).setF (F.FLD_NBT1_TSEG2 n) 16).setF (F.FLD_NBT1_SJW n) 4).setF (F.FLD_DBT0_BRP n) 0).setF (F.FLD_DBT0_TSEG1 n) 9).setF (F.FLD_DBT1_TSEG2 n) 4).setF (F.FLD_DBT1_SJW n) 2)
    let s := s.setF (F.FLD_BSTAT_STATE n) 3
    let s := s.setF (F.FLD_BCTL_EN n) 0
    Live s ∧ Canon s ∧ s.dev.u.fld.buses.length = 4 ∧ n < 4 ∧ TimingValid s n ∧ s.fld (F.FLD_BCTL_EN n) = 0 ∧ NoLoss s := by
  decide +kernel

/-- The hypotheses of clause `busRejected` hold together. -/
theorem test_met_busRejected :
    let b := State.reset
    let n := 1
    let s := b.setU fun u => { u with fld := { u.fld with buses := List.replicate 4 {} }, net := { u.net with links := List.replicate 6 {} }, pool := {} }
    let s := ((((((((s.setF (F.FLD_NBT0_BRP n) 0).setF (F.FLD_NBT0_TSEG1 n) 61).setF (F.FLD_NBT1_TSEG2 n) 16).setF (F.FLD_NBT1_SJW n) 4).setF (F.FLD_DBT0_BRP n) 0).setF (F.FLD_DBT0_TSEG1 n) 9).setF (F.FLD_DBT1_TSEG2 n) 4).setF (F.FLD_DBT1_SJW n) 2)
    let s := s.setF (F.FLD_BSTAT_STATE n) 3
    let s := (s.setF (F.FLD_BCTL_EN n) 0).setF (F.FLD_NBT0_TSEG1 n) 20
    Live s ∧ Canon s ∧ n < 4 ∧ ¬ TimingValid s n ∧ s.fld (F.FLD_BCTL_EN n) = 0 := by
  decide +kernel

/-- The hypotheses of clause `busDisabled` hold together. -/
theorem test_met_busDisabled :
    let b := State.reset
    let n := 1
    let s := b.setU fun u => { u with fld := { u.fld with buses := List.replicate 4 {} }, net := { u.net with links := List.replicate 6 {} }, pool := {} }
    let s := ((((((((s.setF (F.FLD_NBT0_BRP n) 0).setF (F.FLD_NBT0_TSEG1 n) 61).setF (F.FLD_NBT1_TSEG2 n) 16).setF (F.FLD_NBT1_SJW n) 4).setF (F.FLD_DBT0_BRP n) 0).setF (F.FLD_DBT0_TSEG1 n) 9).setF (F.FLD_DBT1_TSEG2 n) 4).setF (F.FLD_DBT1_SJW n) 2)
    let s := s.setF (F.FLD_BSTAT_STATE n) 1
    let s := s.setF (F.FLD_BCTL_EN n) 1
    let s := s.setU fun u => { u with fld := { u.fld with buses := updAt u.fld.buses n fun c => { c with queue := [⟨5, ⟨false, true, false, true, false, 7, 3, []⟩, 0, 9, 4⟩, ⟨6, ⟨false, true, false, true, false, 9, 3, []⟩, 0, 9, 4⟩] } } }
    Live s ∧ Canon s ∧ s.dev.u.fld.buses.length = 4 ∧ n < 4 ∧ s.fld (F.FLD_BCTL_EN n) = 1 ∧ (s.bus n).sending = none ∧ (s.bus n).replySending = none := by
  decide +kernel

/-- The hypotheses of clause `integrated` hold together. -/
theorem test_met_integrated :
    let b := State.reset
    let since := 7
    let n := 1
    let s := b.setU fun u => { u with fld := { u.fld with buses := List.replicate 4 {} }, net := { u.net with links := List.replicate 6 {} }, pool := {} }
    let s := ((((((((s.setF (F.FLD_NBT0_BRP n) 0).setF (F.FLD_NBT0_TSEG1 n) 61).setF (F.FLD_NBT1_TSEG2 n) 16).setF (F.FLD_NBT1_SJW n) 4).setF (F.FLD_DBT0_BRP n) 0).setF (F.FLD_DBT0_TSEG1 n) 9).setF (F.FLD_DBT1_TSEG2 n) 4).setF (F.FLD_DBT1_SJW n) 2)
    let s := s.setF (F.FLD_BSTAT_STATE n) 3
    let s := s.setU fun u => { u with fld := { u.fld with buses := updAt u.fld.buses n fun c => { c with waiting := some since } } }
    let s := s.setT 77000000000
    Live s ∧ Canon s ∧ s.dev.u.fld.buses.length = 4 ∧ n < 4 ∧ (s.bus n).waiting = some since ∧ since + 11 * s.nomBit n * 25 / 2 ≤ s.dev.u.elapsed ∧ (s.dev.u.net.links.getD (n + 1) {}).gap = false := by
  decide +kernel

/-- The hypotheses of clause `integratedInGap` hold together. -/
theorem test_met_integratedInGap :
    let b := State.reset
    let since := 7
    let n := 1
    let s := b.setU fun u => { u with fld := { u.fld with buses := List.replicate 4 {} }, net := { u.net with links := List.replicate 6 {} }, pool := {} }
    let s := ((((((((s.setF (F.FLD_NBT0_BRP n) 0).setF (F.FLD_NBT0_TSEG1 n) 61).setF (F.FLD_NBT1_TSEG2 n) 16).setF (F.FLD_NBT1_SJW n) 4).setF (F.FLD_DBT0_BRP n) 0).setF (F.FLD_DBT0_TSEG1 n) 9).setF (F.FLD_DBT1_TSEG2 n) 4).setF (F.FLD_DBT1_SJW n) 2)
    let s := s.setF (F.FLD_BSTAT_STATE n) 3
    let s := s.setU fun u => { u with fld := { u.fld with buses := updAt u.fld.buses n fun c => { c with waiting := some since } } }
    let s := s.setT 77000000000
    let s := s.setU fun u => { u with net := { u.net with links := updAt (List.replicate 6 {}) (n + 1) fun k => { k with gap := true } } }
    Live s ∧ (s.dev.u.net.links.getD (n + 1) {}).gap = true := by
  decide +kernel

/-- The hypotheses of clause `recovered` hold together. -/
theorem test_met_recovered :
    let b := State.reset
    let since := 7
    let n := 1
    let s := b.setU fun u => { u with fld := { u.fld with buses := List.replicate 4 {} }, net := { u.net with links := List.replicate 6 {} }, pool := {} }
    let s := ((((((((s.setF (F.FLD_NBT0_BRP n) 0).setF (F.FLD_NBT0_TSEG1 n) 61).setF (F.FLD_NBT1_TSEG2 n) 16).setF (F.FLD_NBT1_SJW n) 4).setF (F.FLD_DBT0_BRP n) 0).setF (F.FLD_DBT0_TSEG1 n) 9).setF (F.FLD_DBT1_TSEG2 n) 4).setF (F.FLD_DBT1_SJW n) 2)
    let s := s.setF (F.FLD_BSTAT_STATE n) 2
    let s := s.setU fun u => { u with fld := { u.fld with buses := updAt u.fld.buses n fun c => { c with recover := some since } } }
    let s := s.setT 77000000000
    Live s ∧ Canon s ∧ s.dev.u.fld.buses.length = 4 ∧ n < 4 ∧ (s.bus n).recover = some since ∧ since + 128 * 11 * s.nomBit n * 25 / 2 ≤ s.dev.u.elapsed ∧ (s.dev.u.net.links.getD (n + 1) {}).gap = false := by
  decide +kernel

/-- The hypotheses of clause `recoveredInGap` hold together. -/
theorem test_met_recoveredInGap :
    let b := State.reset
    let since := 7
    let n := 1
    let s := b.setU fun u => { u with fld := { u.fld with buses := List.replicate 4 {} }, net := { u.net with links := List.replicate 6 {} }, pool := {} }
    let s := ((((((((s.setF (F.FLD_NBT0_BRP n) 0).setF (F.FLD_NBT0_TSEG1 n) 61).setF (F.FLD_NBT1_TSEG2 n) 16).setF (F.FLD_NBT1_SJW n) 4).setF (F.FLD_DBT0_BRP n) 0).setF (F.FLD_DBT0_TSEG1 n) 9).setF (F.FLD_DBT1_TSEG2 n) 4).setF (F.FLD_DBT1_SJW n) 2)
    let s := s.setF (F.FLD_BSTAT_STATE n) 2
    let s := s.setU fun u => { u with fld := { u.fld with buses := updAt u.fld.buses n fun c => { c with recover := some since } } }
    let s := s.setT 77000000000
    let s := s.setU fun u => { u with net := { u.net with links := updAt (List.replicate 6 {}) (n + 1) fun k => { k with gap := true } } }
    Live s ∧ (s.dev.u.net.links.getD (n + 1) {}).gap = true := by
  decide +kernel

/-- The hypotheses of clause `recoverAsked` hold together. -/
theorem test_met_recoverAsked :
    let b := State.reset
    let n := 1
    let s := b.setU fun u => { u with fld := { u.fld with buses := List.replicate 4 {} }, net := { u.net with links := List.replicate 6 {} }, pool := {} }
    let s := ((((((((s.setF (F.FLD_NBT0_BRP n) 0).setF (F.FLD_NBT0_TSEG1 n) 61).setF (F.FLD_NBT1_TSEG2 n) 16).setF (F.FLD_NBT1_SJW n) 4).setF (F.FLD_DBT0_BRP n) 0).setF (F.FLD_DBT0_TSEG1 n) 9).setF (F.FLD_DBT1_TSEG2 n) 4).setF (F.FLD_DBT1_SJW n) 2)
    let s := s.setF (F.FLD_BSTAT_STATE n) 2
    Live s ∧ Canon s ∧ s.dev.u.fld.buses.length = 4 ∧ n < 4 ∧ s.fld (F.FLD_BSTAT_STATE n) = 2 ∧ (s.bus n).recover = none := by
  decide +kernel

/-- The hypotheses of clause `cycleStarts` hold together. -/
theorem test_met_cycleStarts :
    let b := State.reset
    let n := 1
    let s := b.setU fun u => { u with fld := { u.fld with buses := List.replicate 4 {} }, net := { u.net with links := List.replicate 6 {} }, pool := {} }
    let s := ((((((((s.setF (F.FLD_NBT0_BRP n) 0).setF (F.FLD_NBT0_TSEG1 n) 61).setF (F.FLD_NBT1_TSEG2 n) 16).setF (F.FLD_NBT1_SJW n) 4).setF (F.FLD_DBT0_BRP n) 0).setF (F.FLD_DBT0_TSEG1 n) 9).setF (F.FLD_DBT1_TSEG2 n) 4).setF (F.FLD_DBT1_SJW n) 2)
    let s := s.setF (F.FLD_BSTAT_STATE n) 0
    let s := (s.setF (F.FLD_CYC_CYC n) (264)).setF (F.FLD_CPH_PH n) (43)
    let s := s.setU fun u => { u with wall := (max 100 (s.fld (F.FLD_CYC_CYC n)) * (5 + 66) + s.fld (F.FLD_CPH_PH n) % max 100 (s.fld (F.FLD_CYC_CYC n))) * 10000 + 1 }
    let k := s.dev.u.wall / 10000
    Live s ∧ Canon s ∧ s.dev.u.fld.buses.length = 4 ∧ n < 4 ∧ k = s.dev.u.wall / 10000 ∧ s.dev.u.wall % 10000 < 4 ∧ k % max 100 (s.fld (F.FLD_CYC_CYC n)) = s.fld (F.FLD_CPH_PH n) % max 100 (s.fld (F.FLD_CYC_CYC n)) ∧ (s.bus n).cycleW = none := by
  decide +kernel

/-- The hypotheses of clause `cycleFollows` hold together. -/
theorem test_met_cycleFollows :
    let b := State.reset
    let n := 1
    let s := b.setU fun u => { u with fld := { u.fld with buses := List.replicate 4 {} }, net := { u.net with links := List.replicate 6 {} }, pool := {} }
    let s := ((((((((s.setF (F.FLD_NBT0_BRP n) 0).setF (F.FLD_NBT0_TSEG1 n) 61).setF (F.FLD_NBT1_TSEG2 n) 16).setF (F.FLD_NBT1_SJW n) 4).setF (F.FLD_DBT0_BRP n) 0).setF (F.FLD_DBT0_TSEG1 n) 9).setF (F.FLD_DBT1_TSEG2 n) 4).setF (F.FLD_DBT1_SJW n) 2)
    let s := s.setF (F.FLD_BSTAT_STATE n) 0
    let s := (s.setF (F.FLD_CYC_CYC n) (264)).setF (F.FLD_CPH_PH n) (43)
    let s := s.setU fun u => { u with wall := (max 100 (s.fld (F.FLD_CYC_CYC n)) * (5 + 66) + s.fld (F.FLD_CPH_PH n) % max 100 (s.fld (F.FLD_CYC_CYC n))) * 10000 + 1 }
    let k := s.dev.u.wall / 10000
    let k0 := k - 500
    let s := s.setU fun u => { u with fld := { u.fld with buses := updAt u.fld.buses n fun c => { c with cycleW := some k0, cyc := 500, cph := k % 500 } } }
    Live s ∧ Canon s ∧ s.dev.u.fld.buses.length = 4 ∧ n < 4 ∧ k = s.dev.u.wall / 10000 ∧ s.dev.u.wall % 10000 < 4 ∧ (s.bus n).cycleW = some k0 ∧ k ≠ k0 ∧ k % (s.bus n).cyc = (s.bus n).cph % (s.bus n).cyc := by
  decide +kernel

/-- The hypotheses of clause `windowOpens` hold together. -/
theorem test_met_windowOpens :
    let b := State.reset
    let n := 1
    let s := b.setU fun u => { u with fld := { u.fld with buses := List.replicate 4 {} }, net := { u.net with links := List.replicate 6 {} }, pool := {} }
    let s := ((((((((s.setF (F.FLD_NBT0_BRP n) 0).setF (F.FLD_NBT0_TSEG1 n) 61).setF (F.FLD_NBT1_TSEG2 n) 16).setF (F.FLD_NBT1_SJW n) 4).setF (F.FLD_DBT0_BRP n) 0).setF (F.FLD_DBT0_TSEG1 n) 9).setF (F.FLD_DBT1_TSEG2 n) 4).setF (F.FLD_DBT1_SJW n) 2)
    let s := s.setF (F.FLD_BSTAT_STATE n) 1
    let s := s.setT 77000000000
    let w := 8
    let o := 23
    let s := (List.range 256).foldl (fun s q => if s.fld (F.FLD_TXCFG_MODE q) = 0 then s else s.setF (F.FLD_TXCFG_MODE q) 0) s
    let s := (((((((s.setF (F.FLD_TXCFG_MODE o) 1).setF (F.FLD_TXCFG_BUS o) n).setF (F.FLD_TXCFG_WIN o) w).setF (F.FLD_TXOPT_DIV o) 0).setF (F.FLD_TXCFG_FDF o) 0).setF (F.FLD_TXCFG_XID o) 0).setF (F.FLD_TXCFG_DLC o) 8).setF (F.FLD_TXIDL_ID o) (1286)
    let s := s.setU fun u => { u with fld := { u.fld with buses := updAt u.fld.buses n fun c => { c with cycleW := some 5, cycleAt := 76990000000, cycleLen := 2000, wins := (List.range 32).map fun j => (j * 10, 20) } } }
    let s := s.setT 76990900000
    Live s ∧ Canon s ∧ s.dev.u.fld.buses.length = 4 ∧ n < 4 ∧ w < 32 ∧ w ∉ (s.bus n).opened ∧ (s.bus n).cycleW ≠ none ∧ ((s.bus n).wins.getD w (0, 0)).2 ≠ 0 ∧ ((s.bus n).wins.getD w (0, 0)).1 < (s.bus n).cycleLen ∧ (s.bus n).cycleAt + ((s.bus n).wins.getD w (0, 0)).1 * 10000 ≤ s.dev.u.elapsed ∧ s.dev.u.elapsed < (s.bus n).cycleAt + min (((s.bus n).wins.getD w (0, 0)).1 + ((s.bus n).wins.getD w (0, 0)).2) (s.bus n).cycleLen * 10000 ∧ o < 256 ∧ (∀ q ∈ List.range 256, q ≠ o → s.fld (F.FLD_TXCFG_MODE q) = 0) ∧ s.fld (F.FLD_TXCFG_MODE o) = 1 ∧ s.fld (F.FLD_TXCFG_BUS o) = n ∧ s.fld (F.FLD_TXCFG_WIN o) = w ∧ s.fld (F.FLD_TXOPT_DIV o) = 0 ∧ s.fld (F.FLD_BSTAT_STATE n) ≤ 1 ∧ s.fld (F.FLD_TXCFG_FDF o) = 0 ∧ s.fld (F.FLD_TXCFG_XID o) = 0 ∧ s.fld (F.FLD_TXCFG_DLC o) = 8 ∧ (s.bus n).queue = [] := by
  decide +kernel

/-- The hypotheses of clause `attemptStarts` hold together. -/
theorem test_met_attemptStarts :
    let b := State.reset
    let n := 1
    let s := b.setU fun u => { u with fld := { u.fld with buses := List.replicate 4 {} }, net := { u.net with links := List.replicate 6 {} }, pool := {} }
    let s := ((((((((s.setF (F.FLD_NBT0_BRP n) 0).setF (F.FLD_NBT0_TSEG1 n) 61).setF (F.FLD_NBT1_TSEG2 n) 16).setF (F.FLD_NBT1_SJW n) 4).setF (F.FLD_DBT0_BRP n) 0).setF (F.FLD_DBT0_TSEG1 n) 9).setF (F.FLD_DBT1_TSEG2 n) 4).setF (F.FLD_DBT1_SJW n) 2)
    let s := s.setF (F.FLD_BSTAT_STATE n) 1
    let s := s.setF (F.FLD_BSTAT_STATE n) (0)
    let m : TxMsg := ⟨5 + 178, ⟨false, true, false, true, false, 7 + 772, 3, [1, 2, 3]⟩, 0, 77000000000 + 99999999, 900⟩
    let l : List TxMsg := []
    let s := s.setT 77000000000
    let s := s.setU fun u => { u with fld := { u.fld with buses := updAt u.fld.buses n fun c => { c with queue := m :: l } } }
    Live s ∧ Canon s ∧ BusIdle s n ∧ (s.bus n).replies = [] ∧ (s.bus n).queue = m :: l ∧ s.dev.u.elapsed + m.twc * 100 ≤ m.ends ∧ (∀ y ∈ l, s.dev.u.elapsed + y.twc * 100 ≤ y.ends) := by
  decide +kernel

/-- The hypotheses of clause `noRoom` hold together. -/
theorem test_met_noRoom :
    let b := State.reset
    let n := 1
    let s := b.setU fun u => { u with fld := { u.fld with buses := List.replicate 4 {} }, net := { u.net with links := List.replicate 6 {} }, pool := {} }
    let s := ((((((((s.setF (F.FLD_NBT0_BRP n) 0).setF (F.FLD_NBT0_TSEG1 n) 61).setF (F.FLD_NBT1_TSEG2 n) 16).setF (F.FLD_NBT1_SJW n) 4).setF (F.FLD_DBT0_BRP n) 0).setF (F.FLD_DBT0_TSEG1 n) 9).setF (F.FLD_DBT1_TSEG2 n) 4).setF (F.FLD_DBT1_SJW n) 2)
    let s := s.setF (F.FLD_BSTAT_STATE n) 1
    let m : TxMsg := ⟨5 + 178, ⟨false, true, false, true, false, 7 + 772, 3, [1, 2, 3]⟩, 0, 77000000000 + 99999999, 900⟩
    let s := s.setT 78000000000
    let s := s.setU fun u => { u with fld := { u.fld with buses := updAt u.fld.buses n fun c => { c with queue := [m] } } }
    Live s ∧ Canon s ∧ BusIdle s n ∧ (s.bus n).replies = [] ∧ (s.bus n).queue = [m] ∧ m.ends < s.dev.u.elapsed + m.twc * 100 ∧ m.obj < 256 := by
  decide +kernel

/-- The hypotheses of clause `noRoomOther` hold together. -/
theorem test_met_noRoomOther :
    let b := State.reset
    let n := 1
    let s := b.setU fun u => { u with fld := { u.fld with buses := List.replicate 4 {} }, net := { u.net with links := List.replicate 6 {} }, pool := {} }
    let s := ((((((((s.setF (F.FLD_NBT0_BRP n) 0).setF (F.FLD_NBT0_TSEG1 n) 61).setF (F.FLD_NBT1_TSEG2 n) 16).setF (F.FLD_NBT1_SJW n) 4).setF (F.FLD_DBT0_BRP n) 0).setF (F.FLD_DBT0_TSEG1 n) 9).setF (F.FLD_DBT1_TSEG2 n) 4).setF (F.FLD_DBT1_SJW n) 2)
    let s := s.setF (F.FLD_BSTAT_STATE n) 1
    let m : TxMsg := ⟨5 + 178, ⟨false, true, false, true, false, 7 + 772, 3, [1, 2, 3]⟩, 0, 77000000000 + 99999999, 900⟩
    let s := s.setT 78000000000
    let q : TxMsg := { m with obj := 9, win := 4, ends := 79000000000 }
    let s := s.setU fun u => { u with fld := { u.fld with buses := updAt u.fld.buses n fun c => { c with queue := [m, q] } } }
    Live s ∧ Canon s ∧ BusIdle s n ∧ (s.bus n).replies = [] ∧ (s.bus n).queue = [m, q] ∧ m.ends < s.dev.u.elapsed + m.twc * 100 ∧ m.obj < 256 ∧ q.win ≠ m.win ∧ q.obj ≠ m.obj ∧ s.dev.u.elapsed + q.twc * 100 ≤ q.ends := by
  decide +kernel

/-- The hypotheses of clause `attemptDone` hold together. -/
theorem test_met_attemptDone :
    let b := State.reset
    let n := 1
    let s := b.setU fun u => { u with fld := { u.fld with buses := List.replicate 4 {} }, net := { u.net with links := List.replicate 6 {} }, pool := {} }
    let s := ((((((((s.setF (F.FLD_NBT0_BRP n) 0).setF (F.FLD_NBT0_TSEG1 n) 61).setF (F.FLD_NBT1_TSEG2 n) 16).setF (F.FLD_NBT1_SJW n) 4).setF (F.FLD_DBT0_BRP n) 0).setF (F.FLD_DBT0_TSEG1 n) 9).setF (F.FLD_DBT1_TSEG2 n) 4).setF (F.FLD_DBT1_SJW n) 2)
    let s := s.setF (F.FLD_BSTAT_STATE n) 0
    let s := s.setF (F.FLD_BSTAT_STATE n) (0)
    let m : TxMsg := ⟨5 + 178, ⟨false, true, false, true, false, 7 + 772, 3, [1, 2, 3]⟩, 0, 77000000000 + 99999999, 900⟩
    let s := s.setU fun u => { u with fld := { u.fld with buses := updAt u.fld.buses n fun c => { c with sending := some m } } }
    let s := (s.setF (F.FLD_BECNT_TEC n) (82)).setF (F.FLD_TDC_EN n) 0
    let s := s.setF (F.FLD_BECNT_REC n) (83)
    Live s ∧ Canon s ∧ n < 4 ∧ s.dev.u.fld.buses.length = 4 ∧ s.fld (F.FLD_BSTAT_STATE n) ≤ 1 ∧ (s.bus n).replySending = none ∧ (s.bus n).sending = some m ∧ m.obj < 256 ∧ s.fld (F.FLD_TDC_EN n) = 0 ∧ s.fld (F.FLD_BECNT_TEC n) ≤ 128 ∧ s.fld (F.FLD_BECNT_REC n) ≤ 127 := by
  decide +kernel

/-- The hypotheses of clause `attemptLost` hold together. -/
theorem test_met_attemptLost :
    let b := State.reset
    let n := 1
    let s := b.setU fun u => { u with fld := { u.fld with buses := List.replicate 4 {} }, net := { u.net with links := List.replicate 6 {} }, pool := {} }
    let s := ((((((((s.setF (F.FLD_NBT0_BRP n) 0).setF (F.FLD_NBT0_TSEG1 n) 61).setF (F.FLD_NBT1_TSEG2 n) 16).setF (F.FLD_NBT1_SJW n) 4).setF (F.FLD_DBT0_BRP n) 0).setF (F.FLD_DBT0_TSEG1 n) 9).setF (F.FLD_DBT1_TSEG2 n) 4).setF (F.FLD_DBT1_SJW n) 2)
    let s := s.setF (F.FLD_BSTAT_STATE n) 0
    let s := s.setF (F.FLD_BSTAT_STATE n) (0)
    let m : TxMsg := ⟨5 + 178, ⟨false, true, false, true, false, 7 + 772, 3, [1, 2, 3]⟩, 0, 77000000000 + 99999999, 900⟩
    let s := s.setU fun u => { u with fld := { u.fld with buses := updAt u.fld.buses n fun c => { c with sending := some m } } }
    let p := 32
    let s := s.setF (F.FLD_TDC_EN n) 0
    Live s ∧ Canon s ∧ n < 4 ∧ s.dev.u.fld.buses.length = 4 ∧ s.fld (F.FLD_BSTAT_STATE n) ≤ 1 ∧ (s.bus n).replySending = none ∧ (s.bus n).sending = some m ∧ m.obj < 256 ∧ s.fld (F.FLD_TDC_EN n) = 0 ∧ p < 33 := by
  decide +kernel

/-- The hypotheses of clause `attemptFailed` hold together. -/
theorem test_met_attemptFailed :
    let b := State.reset
    let n := 1
    let s := b.setU fun u => { u with fld := { u.fld with buses := List.replicate 4 {} }, net := { u.net with links := List.replicate 6 {} }, pool := {} }
    let s := ((((((((s.setF (F.FLD_NBT0_BRP n) 0).setF (F.FLD_NBT0_TSEG1 n) 61).setF (F.FLD_NBT1_TSEG2 n) 16).setF (F.FLD_NBT1_SJW n) 4).setF (F.FLD_DBT0_BRP n) 0).setF (F.FLD_DBT0_TSEG1 n) 9).setF (F.FLD_DBT1_TSEG2 n) 4).setF (F.FLD_DBT1_SJW n) 2)
    let s := s.setF (F.FLD_BSTAT_STATE n) 0
    let s := s.setF (F.FLD_BSTAT_STATE n) (0)
    let m : TxMsg := ⟨5 + 178, ⟨false, true, false, true, false, 7 + 772, 3, [1, 2, 3]⟩, 0, 77000000000 + 99999999, 900⟩
    let s := s.setU fun u => { u with fld := { u.fld with buses := updAt u.fld.buses n fun c => { c with sending := some m } } }
    let c := [3, 4, 5].getD (0) 3
    let f := 2
    let p := 194
    let s := s.setF (F.FLD_TDC_EN n) 0
    let s := s.setF (F.FLD_BECNT_REC n) (49)
    let s := s.setF (F.FLD_BECNT_TEC n) (23)
    Live s ∧ Canon s ∧ n < 4 ∧ s.dev.u.fld.buses.length = 4 ∧ s.fld (F.FLD_BSTAT_STATE n) ≤ 1 ∧ (s.bus n).replySending = none ∧ (s.bus n).sending = some m ∧ m.obj < 256 ∧ s.fld (F.FLD_TDC_EN n) = 0 ∧ txErrorPlace c f p = true ∧ (c = 4 → f = 0 → (if m.frame.ext then 32 else 12) < p) ∧ (c = 6 → s.fld (F.FLD_BSTAT_STATE n) = 0) ∧ s.fld (F.FLD_BECNT_TEC n) ≤ 247 := by
  decide +kernel

/-- The hypotheses of clause `busGoesOff` hold together. -/
theorem test_met_busGoesOff :
    let b := State.reset
    let n := 1
    let s := b.setU fun u => { u with fld := { u.fld with buses := List.replicate 4 {} }, net := { u.net with links := List.replicate 6 {} }, pool := {} }
    let s := ((((((((s.setF (F.FLD_NBT0_BRP n) 0).setF (F.FLD_NBT0_TSEG1 n) 61).setF (F.FLD_NBT1_TSEG2 n) 16).setF (F.FLD_NBT1_SJW n) 4).setF (F.FLD_DBT0_BRP n) 0).setF (F.FLD_DBT0_TSEG1 n) 9).setF (F.FLD_DBT1_TSEG2 n) 4).setF (F.FLD_DBT1_SJW n) 2)
    let s := s.setF (F.FLD_BSTAT_STATE n) 0
    let s := s.setF (F.FLD_BSTAT_STATE n) (0)
    let m : TxMsg := ⟨5 + 178, ⟨false, true, false, true, false, 7 + 772, 3, [1, 2, 3]⟩, 0, 77000000000 + 99999999, 900⟩
    let s := s.setU fun u => { u with fld := { u.fld with buses := updAt u.fld.buses n fun c => { c with sending := some m } } }
    let c := [3, 4, 5].getD (0) 3
    let f := 2
    let p := 194
    let s := s.setF (F.FLD_TDC_EN n) 0
    let s := s.setF (F.FLD_BECNT_REC n) (49)
    let s := s.setF (F.FLD_BECNT_TEC n) (248 + 35)
    Live s ∧ Canon s ∧ n < 4 ∧ s.dev.u.fld.buses.length = 4 ∧ s.fld (F.FLD_BSTAT_STATE n) ≤ 1 ∧ (s.bus n).replySending = none ∧ (s.bus n).sending = some m ∧ m.obj < 256 ∧ s.fld (F.FLD_TDC_EN n) = 0 ∧ txErrorPlace c f p = true ∧ (c = 4 → f = 0 → (if m.frame.ext then 32 else 12) < p) ∧ (c = 6 → s.fld (F.FLD_BSTAT_STATE n) = 0) ∧ 248 ≤ s.fld (F.FLD_BECNT_TEC n) := by
  decide +kernel

/-- The hypotheses of clause `attemptExcepted` hold together. -/
theorem test_met_attemptExcepted :
    let b := State.reset
    let n := 1
    let s := b.setU fun u => { u with fld := { u.fld with buses := List.replicate 4 {} }, net := { u.net with links := List.replicate 6 {} }, pool := {} }
    let s := ((((((((s.setF (F.FLD_NBT0_BRP n) 0).setF (F.FLD_NBT0_TSEG1 n) 61).setF (F.FLD_NBT1_TSEG2 n) 16).setF (F.FLD_NBT1_SJW n) 4).setF (F.FLD_DBT0_BRP n) 0).setF (F.FLD_DBT0_TSEG1 n) 9).setF (F.FLD_DBT1_TSEG2 n) 4).setF (F.FLD_DBT1_SJW n) 2)
    let s := s.setF (F.FLD_BSTAT_STATE n) 0
    let s := s.setF (F.FLD_BSTAT_STATE n) (0)
    let m : TxMsg := ⟨5 + 178, ⟨false, true, false, true, false, 7 + 772, 3, [1, 2, 3]⟩, 0, 77000000000 + 99999999, 900⟩
    let s := s.setU fun u => { u with fld := { u.fld with buses := updAt u.fld.buses n fun c => { c with sending := some m } } }
    let c := 4
    let f := 0
    let p := 12
    let s := s.setF (F.FLD_TDC_EN n) 0
    let s := s.setF (F.FLD_BECNT_REC n) (49)
    let s := s.setF (F.FLD_BECNT_TEC n) (23)
    Live s ∧ Canon s ∧ n < 4 ∧ s.dev.u.fld.buses.length = 4 ∧ s.fld (F.FLD_BSTAT_STATE n) ≤ 1 ∧ (s.bus n).replySending = none ∧ (s.bus n).sending = some m ∧ m.obj < 256 ∧ s.fld (F.FLD_TDC_EN n) = 0 ∧ txErrorPlace c f p = true ∧ ((c = 4 ∧ f = 0 ∧ p ≤ 12) ∨ (c = 6 ∧ s.fld (F.FLD_BSTAT_STATE n) = 1)) ∧ s.fld (F.FLD_BECNT_TEC n) ≤ 255 := by
  decide +kernel

/-- The hypotheses of clause `attemptErrorFrame` hold together. -/
theorem test_met_attemptErrorFrame :
    let b := State.reset
    let n := 1
    let s := b.setU fun u => { u with fld := { u.fld with buses := List.replicate 4 {} }, net := { u.net with links := List.replicate 6 {} }, pool := {} }
    let s := ((((((((s.setF (F.FLD_NBT0_BRP n) 0).setF (F.FLD_NBT0_TSEG1 n) 61).setF (F.FLD_NBT1_TSEG2 n) 16).setF (F.FLD_NBT1_SJW n) 4).setF (F.FLD_DBT0_BRP n) 0).setF (F.FLD_DBT0_TSEG1 n) 9).setF (F.FLD_DBT1_TSEG2 n) 4).setF (F.FLD_DBT1_SJW n) 2)
    let s := s.setF (F.FLD_BSTAT_STATE n) 0
    let s := s.setF (F.FLD_BSTAT_STATE n) (0)
    let m : TxMsg := ⟨5 + 178, ⟨false, true, false, true, false, 7 + 772, 3, [1, 2, 3]⟩, 0, 77000000000 + 99999999, 900⟩
    let s := s.setU fun u => { u with fld := { u.fld with buses := updAt u.fld.buses n fun c => { c with sending := some m } } }
    let c := 3
    let f := 2
    let p := 194
    let s := s.setF (F.FLD_TDC_EN n) 0
    let s := s.setF (F.FLD_BECNT_REC n) (49)
    let s := s.setF (F.FLD_BECNT_TEC n) (23)
    let c2 := 5
    let p2 := 8
    Live s ∧ Canon s ∧ n < 4 ∧ s.dev.u.fld.buses.length = 4 ∧ s.fld (F.FLD_BSTAT_STATE n) ≤ 1 ∧ (s.bus n).replySending = none ∧ (s.bus n).sending = some m ∧ m.obj < 256 ∧ s.fld (F.FLD_TDC_EN n) = 0 ∧ txErrorPlace c f p = true ∧ c ≠ 4 ∧ c ≠ 6 ∧ (c2 = 3 ∨ c2 = 5) ∧ p2 < 512 := by
  decide +kernel

/-- The hypotheses of clause `frameTaken` hold together. -/
theorem test_met_frameTaken :
    let b := State.reset
    let n := 1
    let s := b.setU fun u => { u with fld := { u.fld with buses := List.replicate 4 {} }, net := { u.net with links := List.replicate 6 {} }, pool := {} }
    let s := ((((((((s.setF (F.FLD_NBT0_BRP n) 0).setF (F.FLD_NBT0_TSEG1 n) 61).setF (F.FLD_NBT1_TSEG2 n) 16).setF (F.FLD_NBT1_SJW n) 4).setF (F.FLD_DBT0_BRP n) 0).setF (F.FLD_DBT0_TSEG1 n) 9).setF (F.FLD_DBT1_TSEG2 n) 4).setF (F.FLD_DBT1_SJW n) 2)
    let s := s.setF (F.FLD_BSTAT_STATE n) 0
    let s := (s.setF (F.FLD_BSTAT_STATE n) (0)).setF (F.FLD_LEDG_EN n) 0
    let s := s.setF (F.FLD_BECNT_TEC n) (109)
    let s := s.setF (F.FLD_BECNT_REC n) (92)
    let f : CanFrame := ⟨false, true, false, true, 1 == 0, 100 + 640, 3, (List.range (48)).map fun j => BitVec.ofNat 8 (someNum (20 + j))⟩
    let o := 6
    let s := ((((((s.setF (F.FLD_RXCFG_EN o) 1).setF (F.FLD_RXCFG_BUS o) n).setF (F.FLD_RXCFG_XID o) 0).setF (F.FLD_RXCFG_FDOK o) 1).setF (F.FLD_RXIDL_ID o) f.id).setF (F.FLD_RXMSKL_M o) 0x7FF)
    let s := (List.range o).foldl (fun s q => s.setF (F.FLD_RXCFG_EN q) 0) s
    Live s ∧ Canon s ∧ n < 4 ∧ s.dev.u.fld.buses.length = 4 ∧ s.fld (F.FLD_BSTAT_STATE n) ≤ 1 ∧ (s.dev.u.net.links.getD (n + 1) {}).gap = false ∧ f.remote = false ∧ (s.fld (F.FLD_LEDG_EN n) = 0 ∨ f.ext = true) ∧ s.fld (F.FLD_BECNT_TEC n) ≤ 255 ∧ o < 256 ∧ Takes s n f o ∧ (∀ q ∈ List.range o, ¬ Takes s n f q) ∧ f.id < 2 ^ 29 ∧ f.dlc < 16 ∧ f.data.length ≤ 64 := by
  decide +kernel

/-- The hypotheses of clause `frameDropped` hold together. -/
theorem test_met_frameDropped :
    let b := State.reset
    let n := 1
    let s := b.setU fun u => { u with fld := { u.fld with buses := List.replicate 4 {} }, net := { u.net with links := List.replicate 6 {} }, pool := {} }
    let s := ((((((((s.setF (F.FLD_NBT0_BRP n) 0).setF (F.FLD_NBT0_TSEG1 n) 61).setF (F.FLD_NBT1_TSEG2 n) 16).setF (F.FLD_NBT1_SJW n) 4).setF (F.FLD_DBT0_BRP n) 0).setF (F.FLD_DBT0_TSEG1 n) 9).setF (F.FLD_DBT1_TSEG2 n) 4).setF (F.FLD_DBT1_SJW n) 2)
    let s := s.setF (F.FLD_BSTAT_STATE n) 0
    let s := (s.setF (F.FLD_BSTAT_STATE n) (0)).setF (F.FLD_LEDG_EN n) 0
    let s := s.setF (F.FLD_BECNT_TEC n) (109)
    let s := s.setF (F.FLD_BECNT_REC n) (92)
    let f : CanFrame := ⟨false, true, false, true, 1 == 0, 100 + 640, 3, (List.range (48)).map fun j => BitVec.ofNat 8 (someNum (20 + j))⟩
    let s := (List.range 256).foldl (fun s q => if s.fld (F.FLD_RXCFG_EN q) = 0 then s else s.setF (F.FLD_RXCFG_EN q) 0) s
    Live s ∧ Canon s ∧ n < 4 ∧ s.dev.u.fld.buses.length = 4 ∧ s.fld (F.FLD_BSTAT_STATE n) ≤ 1 ∧ (s.dev.u.net.links.getD (n + 1) {}).gap = false ∧ f.remote = false ∧ (s.fld (F.FLD_LEDG_EN n) = 0 ∨ f.ext = true) ∧ s.fld (F.FLD_BECNT_TEC n) ≤ 255 ∧ (∀ q ∈ List.range 256, ¬ Takes s n f q) := by
  decide +kernel

/-- The hypotheses of clause `requestTaken` hold together. -/
theorem test_met_requestTaken :
    let b := State.reset
    let n := 1
    let s := b.setU fun u => { u with fld := { u.fld with buses := List.replicate 4 {} }, net := { u.net with links := List.replicate 6 {} }, pool := {} }
    let s := ((((((((s.setF (F.FLD_NBT0_BRP n) 0).setF (F.FLD_NBT0_TSEG1 n) 61).setF (F.FLD_NBT1_TSEG2 n) 16).setF (F.FLD_NBT1_SJW n) 4).setF (F.FLD_DBT0_BRP n) 0).setF (F.FLD_DBT0_TSEG1 n) 9).setF (F.FLD_DBT1_TSEG2 n) 4).setF (F.FLD_DBT1_SJW n) 2)
    let s := s.setF (F.FLD_BSTAT_STATE n) 0
    let s := (s.setF (F.FLD_BSTAT_STATE n) (0)).setF (F.FLD_LEDG_EN n) 0
    let s := s.setF (F.FLD_BECNT_TEC n) (109)
    let s := s.setF (F.FLD_BECNT_REC n) (92)
    let s := (s.setF (F.FLD_LEDG_EN n) 1).setF (F.FLD_LEDG_BASE n) (8)
    let k := 1 + 35
    let f : CanFrame := ⟨false, true, false, true, false, s.fld (F.FLD_LEDG_BASE n) * 128 + k, 10, BitVec.ofNat 8 (5) :: 0 :: zeros 14⟩
    Live s ∧ Canon s ∧ n < 4 ∧ s.dev.u.fld.buses.length = 4 ∧ s.fld (F.FLD_BSTAT_STATE n) ≤ 1 ∧ (s.dev.u.net.links.getD (n + 1) {}).gap = false ∧ s.fld (F.FLD_LEDG_EN n) = 1 ∧ f.remote = false ∧ f.ext = false ∧ f.fd = true ∧ f.data.length = 16 ∧ 1 ≤ k ∧ k ≤ 62 ∧ f.id = s.fld (F.FLD_LEDG_BASE n) * 128 + k ∧ s.fld (F.FLD_BECNT_TEC n) ≤ 255 ∧ leAt f.data 1 1 ≠ k := by
  decide +kernel

/-- The hypotheses of clause `goesStale` hold together. -/
theorem test_met_goesStale :
    let b := State.reset
    let o := 40
    let last := 9
    let s := ((b.setT 770000000000000).setF (F.FLD_RXCFG_STALE o) (1 + 43)).setF (F.FLD_RXSTAT_STALE o) 0
    let s := s.setU fun u => { u with fld := { u.fld with rxLast := [(o, last)] } }
    Live s ∧ Canon s ∧ o < 256 ∧ s.dev.u.fld.rxLast.find? (fun x => x.1 = o) = some (o, last) ∧ s.fld (F.FLD_RXCFG_STALE o) ≠ 0 ∧ last + s.fld (F.FLD_RXCFG_STALE o) * 10000000 ≤ s.dev.u.elapsed ∧ s.fld (F.FLD_RXSTAT_STALE o) = 0 := by
  decide +kernel

/-- The hypotheses of clause `responseSent` hold together. -/
theorem test_met_responseSent :
    let b := State.reset
    let n := 1
    let s := b.setU fun u => { u with fld := { u.fld with buses := List.replicate 4 {} }, net := { u.net with links := List.replicate 6 {} }, pool := {} }
    let s := ((((((((s.setF (F.FLD_NBT0_BRP n) 0).setF (F.FLD_NBT0_TSEG1 n) 61).setF (F.FLD_NBT1_TSEG2 n) 16).setF (F.FLD_NBT1_SJW n) 4).setF (F.FLD_DBT0_BRP n) 0).setF (F.FLD_DBT0_TSEG1 n) 9).setF (F.FLD_DBT1_TSEG2 n) 4).setF (F.FLD_DBT1_SJW n) 2)
    let s := s.setF (F.FLD_BSTAT_STATE n) 1
    let s := s.setF (F.FLD_BSTAT_STATE n) (0)
    let x : Reply := ⟨4, ⟨false, true, false, true, false, 70, 10, zeros 16⟩, 77000000000, none⟩
    let l : List Reply := []
    let s := s.setU fun u => { u with fld := { u.fld with buses := updAt u.fld.buses n fun c => { c with replies := x :: l } } }
    let s := s.setT 76999999999
    Live s ∧ Canon s ∧ BusIdle s n ∧ (s.bus n).replies = x :: l ∧ s.dev.u.elapsed < x.ends := by
  decide +kernel

/-- The hypotheses of clause `responseFirst` hold together. -/
theorem test_met_responseFirst :
    let b := State.reset
    let n := 1
    let s := b.setU fun u => { u with fld := { u.fld with buses := List.replicate 4 {} }, net := { u.net with links := List.replicate 6 {} }, pool := {} }
    let s := ((((((((s.setF (F.FLD_NBT0_BRP n) 0).setF (F.FLD_NBT0_TSEG1 n) 61).setF (F.FLD_NBT1_TSEG2 n) 16).setF (F.FLD_NBT1_SJW n) 4).setF (F.FLD_DBT0_BRP n) 0).setF (F.FLD_DBT0_TSEG1 n) 9).setF (F.FLD_DBT1_TSEG2 n) 4).setF (F.FLD_DBT1_SJW n) 2)
    let s := s.setF (F.FLD_BSTAT_STATE n) 1
    let x : Reply := ⟨4, ⟨false, true, false, true, false, 70, 10, zeros 16⟩, 77000000000, none⟩
    let l : List Reply := []
    let s := s.setU fun u => { u with fld := { u.fld with buses := updAt u.fld.buses n fun c => { c with replies := x :: l } } }
    Live s ∧ Canon s ∧ BusIdle s n ∧ (s.bus n).replies ≠ [] := by
  decide +kernel

/-- The hypotheses of clause `responseLost` hold together. -/
theorem test_met_responseLost :
    let b := State.reset
    let n := 1
    let s := b.setU fun u => { u with fld := { u.fld with buses := List.replicate 4 {} }, net := { u.net with links := List.replicate 6 {} }, pool := {} }
    let s := ((((((((s.setF (F.FLD_NBT0_BRP n) 0).setF (F.FLD_NBT0_TSEG1 n) 61).setF (F.FLD_NBT1_TSEG2 n) 16).setF (F.FLD_NBT1_SJW n) 4).setF (F.FLD_DBT0_BRP n) 0).setF (F.FLD_DBT0_TSEG1 n) 9).setF (F.FLD_DBT1_TSEG2 n) 4).setF (F.FLD_DBT1_SJW n) 2)
    let s := s.setF (F.FLD_BSTAT_STATE n) 1
    let x : Reply := ⟨4, ⟨false, true, false, true, false, 70, 10, zeros 16⟩, 77000000000, none⟩
    let s := s.setU fun u => { u with fld := { u.fld with buses := updAt u.fld.buses n fun c => { c with replies := [x] } } }
    let s := s.setT 77000000000
    Live s ∧ Canon s ∧ n < 4 ∧ s.dev.u.fld.buses.length = 4 ∧ (s.bus n).replies = [x] ∧ x.ends ≤ s.dev.u.elapsed := by
  decide +kernel

/-- The hypotheses of clause `receiverErr` hold together. -/
theorem test_met_receiverErr :
    let b := State.reset
    let n := 1
    let s := b.setU fun u => { u with fld := { u.fld with buses := List.replicate 4 {} }, net := { u.net with links := List.replicate 6 {} }, pool := {} }
    let s := ((((((((s.setF (F.FLD_NBT0_BRP n) 0).setF (F.FLD_NBT0_TSEG1 n) 61).setF (F.FLD_NBT1_TSEG2 n) 16).setF (F.FLD_NBT1_SJW n) 4).setF (F.FLD_DBT0_BRP n) 0).setF (F.FLD_DBT0_TSEG1 n) 9).setF (F.FLD_DBT1_TSEG2 n) 4).setF (F.FLD_DBT1_SJW n) 2)
    let s := s.setF (F.FLD_BSTAT_STATE n) 0
    let s := (s.setF (F.FLD_BSTAT_STATE n) (0)).setF (F.FLD_LEDG_EN n) 0
    let s := s.setF (F.FLD_BECNT_TEC n) (109)
    let s := s.setF (F.FLD_BECNT_REC n) (92)
    let c := 7
    let f := 4
    let p := 1
    let k := 2
    Live s ∧ Canon s ∧ n < 4 ∧ s.fld (F.FLD_BSTAT_STATE n) ≤ 1 ∧ rxErrorPlace c f p = true ∧ s.fld (F.FLD_BECNT_TEC n) ≤ 255 ∧ (s.dev.u.net.links.getD (n + 1) {}).gap = false ∧ c ≠ 0 := by
  decide +kernel

/-- The hypotheses of clause `overloadRuns` hold together. -/
theorem test_met_overloadRuns :
    let b := State.reset
    let n := 1
    let s := b.setU fun u => { u with fld := { u.fld with buses := List.replicate 4 {} }, net := { u.net with links := List.replicate 6 {} }, pool := {} }
    let s := ((((((((s.setF (F.FLD_NBT0_BRP n) 0).setF (F.FLD_NBT0_TSEG1 n) 61).setF (F.FLD_NBT1_TSEG2 n) 16).setF (F.FLD_NBT1_SJW n) 4).setF (F.FLD_DBT0_BRP n) 0).setF (F.FLD_DBT0_TSEG1 n) 9).setF (F.FLD_DBT1_TSEG2 n) 4).setF (F.FLD_DBT1_SJW n) 2)
    let s := s.setF (F.FLD_BSTAT_STATE n) 0
    let s := (s.setF (F.FLD_BSTAT_STATE n) (0)).setF (F.FLD_LEDG_EN n) 0
    let s := s.setF (F.FLD_BECNT_TEC n) (109)
    let s := s.setF (F.FLD_BECNT_REC n) (92)
    let c := 7
    let f := 4
    let p := 1
    let k := 2
    Live s ∧ Canon s ∧ n < 4 ∧ s.fld (F.FLD_BSTAT_STATE n) ≤ 1 ∧ s.fld (F.FLD_BECNT_TEC n) ≤ 255 ∧ (s.dev.u.net.links.getD (n + 1) {}).gap = false := by
  decide +kernel

/-- The hypotheses of clause `receiverErrInGap` hold together. -/
theorem test_met_receiverErrInGap :
    let b := State.reset
    let n := 1
    let s := b.setU fun u => { u with fld := { u.fld with buses := List.replicate 4 {} }, net := { u.net with links := List.replicate 6 {} }, pool := {} }
    let s := ((((((((s.setF (F.FLD_NBT0_BRP n) 0).setF (F.FLD_NBT0_TSEG1 n) 61).setF (F.FLD_NBT1_TSEG2 n) 16).setF (F.FLD_NBT1_SJW n) 4).setF (F.FLD_DBT0_BRP n) 0).setF (F.FLD_DBT0_TSEG1 n) 9).setF (F.FLD_DBT1_TSEG2 n) 4).setF (F.FLD_DBT1_SJW n) 2)
    let s := s.setF (F.FLD_BSTAT_STATE n) 0
    let s := (s.setF (F.FLD_BSTAT_STATE n) (0)).setF (F.FLD_LEDG_EN n) 0
    let s := s.setF (F.FLD_BECNT_TEC n) (109)
    let s := s.setF (F.FLD_BECNT_REC n) (92)
    let c := 7
    let f := 4
    let p := 1
    let k := 2
    let s := s.setU fun u => { u with net := { u.net with links := updAt (List.replicate 6 {}) (n + 1) fun k => { k with gap := true } } }
    let e : ErrorBit := ⟨p, k⟩
    Live s ∧ (s.dev.u.net.links.getD (n + 1) {}).gap = true := by
  decide +kernel

/-- The hypotheses of clause `switchStarts` hold together. -/
theorem test_met_switchStarts :
    let b := State.reset
    let l := 3
    let s := (b.setU fun u => { u with net := { u.net with links := List.replicate 6 {} }, rng := { u.rng with joined := false, orders := 0 }, pool := {}, fld := { u.fld with buses := List.replicate 4 {} } }).setT 7700000000000000
    let l := 0
    let s := s.setF (F.NET_LSTAT_SWITCHING l) 0
    let p := 1 - s.fld (F.NET_LSTAT_ACTIVE l)
    let s := s.setU fun u => { u with net := { u.net with links := updAt u.net.links l fun k => { k with want := true } } }
    Live s ∧ Canon s ∧ l < 6 ∧ l < 5 ∧ s.dev.u.net.links.length = 6 ∧ (s.dev.u.net.links.getD l {}).want = true ∧ s.fld (F.NET_LSTAT_SWITCHING l) = 0 ∧ p = 1 - s.fld (F.NET_LSTAT_ACTIVE l) ∧ NoLoss s := by
  decide +kernel

/-- The hypotheses of clause `switchRestores` hold together. -/
theorem test_met_switchRestores :
    let b := State.reset
    let l := 3
    let s := (b.setU fun u => { u with net := { u.net with links := List.replicate 6 {} }, rng := { u.rng with joined := false, orders := 0 }, pool := {}, fld := { u.fld with buses := List.replicate 4 {} } }).setT 7700000000000000
    let l := 0
    let s := s.setF (F.NET_LSTAT_SWITCHING l) 0
    let s := s.setU fun u => { u with net := { u.net with links := updAt u.net.links l fun k => { k with want := true, images := [none, some [(.schedule, 7), (.filter 8, 9)]], saveSlot := 1, saveAt := some 5, log := [(.schedule, 8)], saving := some ⟨7700000000000009, [], 1, false⟩ } } }
    let i : Copies := [(.schedule, 7), (.filter 8, 9)]
    Live s ∧ Canon s ∧ l < 5 ∧ s.dev.u.net.links.length = 6 ∧ (s.dev.u.net.links.getD l {}).want = true ∧ s.fld (F.NET_LSTAT_SWITCHING l) = 0 ∧ (∀ x ∈ (s.dev.u.net.links.getD l {}).saving, s.dev.u.elapsed < x.doneAt) ∧ (s.dev.u.net.links.getD l {}).images.getD (s.dev.u.net.links.getD l {}).saveSlot none = some i ∧ (s.dev.u.net.links.getD l {}).lost = false ∧ (s.dev.u.net.links.getD l {}).saveAt ≠ none := by
  decide +kernel

/-- The hypotheses of clause `switchNoImage` hold together. -/
theorem test_met_switchNoImage :
    let b := State.reset
    let l := 0
    let i := 2
    let x := 77
    let s := (b.setU fun u => { u with net := { u.net with links := List.replicate 6 {} } }).setF (F.NET_LSTAT_SWITCHING l) 0
    let s := s.setU fun u => { u with net := { u.net with links := updAt u.net.links l fun k => { k with want := true, images := [none, some [(.txSeq 2, 70)]], saveSlot := 1, work := [(.txSeq i, x)] } } }
    Live s ∧ Canon s ∧ l < 5 ∧ s.dev.u.net.links.length = 6 ∧ (s.dev.u.net.links.getD l {}).want = true ∧ s.fld (F.NET_LSTAT_SWITCHING l) = 0 ∧ l = 0 ∧ (s.dev.u.net.links.getD l {}).saving = none ∧ (s.dev.u.net.links.getD l {}).saveAt = none ∧ (s.dev.u.net.links.getD l {}).work = [(.txSeq i, x)] := by
  decide +kernel

/-- The hypotheses of clause `switchCopies` hold together. -/
theorem test_met_switchCopies :
    let b := State.reset
    let l := 3
    let s := (b.setU fun u => { u with net := { u.net with links := List.replicate 6 {} }, rng := { u.rng with joined := false, orders := 0 }, pool := {}, fld := { u.fld with buses := List.replicate 4 {} } }).setT 7700000000000000
    let l := 0
    let s := s.setF (F.NET_LSTAT_SWITCHING l) 0
    let i := 1
    let x := 5
    let s := s.setU fun u => { u with net := { u.net with links := updAt u.net.links l fun k => { k with want := true, lost := true, work := [(.txSeq i, x)] } } }
    let s := s.setU fun u => { u with cmd := { u.cmd with sessions := [{}, { txSeq := 77 }, {}, {}] } }
    Live s ∧ Canon s ∧ l < 5 ∧ s.dev.u.net.links.length = 6 ∧ (s.dev.u.net.links.getD l {}).want = true ∧ s.fld (F.NET_LSTAT_SWITCHING l) = 0 ∧ l = 0 ∧ (s.dev.u.net.links.getD l {}).saving = none ∧ (s.dev.u.net.links.getD l {}).lost = true ∧ (s.dev.u.net.links.getD l {}).work = [(.txSeq i, x)] := by
  decide +kernel

/-- The hypotheses of clause `switchPhy` hold together. -/
theorem test_met_switchPhy :
    let b := State.reset
    let l := 3
    let s := (b.setU fun u => { u with net := { u.net with links := List.replicate 6 {} }, rng := { u.rng with joined := false, orders := 0 }, pool := {}, fld := { u.fld with buses := List.replicate 4 {} } }).setT 7700000000000000
    let l := 0
    let s := s.setF (F.NET_LSTAT_SWITCHING l) 0
    let s := s.setU fun u => { u with net := { u.net with links := updAt u.net.links l fun k => { k with want := true } } }
    let p := 1 - s.fld (F.NET_LSTAT_ACTIVE l)
    let s := (s.setF (domField 128) 0).setF (domField 129) 0
    Live s ∧ Canon s ∧ l < 5 ∧ s.dev.u.net.links.length = 6 ∧ (s.dev.u.net.links.getD l {}).want = true ∧ s.fld (F.NET_LSTAT_SWITCHING l) = 0 ∧ NoLoss s ∧ l = 0 ∧ p = 1 - s.fld (F.NET_LSTAT_ACTIVE l) ∧ ¬ s.powered (128 + p) ∧ s.dev.u.net.ports.length = 2 := by
  decide +kernel

/-- The hypotheses of clause `switchCutsAttempt` hold together. -/
theorem test_met_switchCutsAttempt :
    let b := State.reset
    let l := 3
    let s := (b.setU fun u => { u with net := { u.net with links := List.replicate 6 {} }, rng := { u.rng with joined := false, orders := 0 }, pool := {}, fld := { u.fld with buses := List.replicate 4 {} } }).setT 7700000000000000
    let n := 0
    let l := n + 1
    let s := s.setF (F.NET_LSTAT_SWITCHING l) 0
    let m : TxMsg := ⟨5 + 178, ⟨false, true, false, true, false, 7, 3, [1, 2, 3]⟩, 0, 77, 900⟩
    let s := s.setU fun u => { u with net := { u.net with links := updAt u.net.links l fun k => { k with want := true } } }
    let s := s.setU fun u => { u with fld := { u.fld with buses := updAt u.fld.buses n fun c => { c with sending := some m } } }
    Live s ∧ Canon s ∧ l = n + 1 ∧ n < 4 ∧ s.dev.u.fld.buses.length = 4 ∧ s.dev.u.net.links.length = 6 ∧ (s.dev.u.net.links.getD l {}).want = true ∧ s.fld (F.NET_LSTAT_SWITCHING l) = 0 ∧ (s.bus n).sending = some m ∧ m.obj < 256 := by
  decide +kernel

/-- The hypotheses of clause `gapEnds` hold together. -/
theorem test_met_gapEnds :
    let b := State.reset
    let l := 3
    let s := (b.setU fun u => { u with net := { u.net with links := List.replicate 6 {} }, rng := { u.rng with joined := false, orders := 0 }, pool := {}, fld := { u.fld with buses := List.replicate 4 {} } }).setT 7700000000000000
    let s := s.setU fun u => { u with net := { u.net with links := updAt u.net.links l fun k => { k with gap := true, since := u.elapsed - 28183 } } }
    let g := min (s.dev.u.elapsed - (s.dev.u.net.links.getD l {}).since) (if l = 0 then 768000 else if l ≤ 4 then 2 * s.nomBit (l - 1) * 25 / 2 + 400000 else 500000) / 8
    Live s ∧ Canon s ∧ l < 6 ∧ s.dev.u.net.links.length = 6 ∧ (s.dev.u.net.links.getD l {}).gap = true ∧ g = min (s.dev.u.elapsed - (s.dev.u.net.links.getD l {}).since) (if l = 0 then 768000 else if l ≤ 4 then 2 * s.nomBit (l - 1) * 25 / 2 + 400000 else 500000) / 8 ∧ g < 2 ^ 32 := by
  decide +kernel

/-- The hypotheses of clause `gapEndsUnused` hold together. -/
theorem test_met_gapEndsUnused :
    let b := State.reset
    let l := 3
    let s := (b.setU fun u => { u with net := { u.net with links := List.replicate 6 {} }, rng := { u.rng with joined := false, orders := 0 }, pool := {}, fld := { u.fld with buses := List.replicate 4 {} } }).setT 7700000000000000
    let s := s.setU fun u => { u with net := { u.net with links := updAt u.net.links l fun k => { k with gap := true, since := u.elapsed - 28183 } } }
    let s := s.setF (F.FLD_BCTL_EN (l - 1)) 0
    Live s ∧ Canon s ∧ 1 ≤ l ∧ l ≤ 4 ∧ s.dev.u.net.links.length = 6 ∧ (s.dev.u.net.links.getD l {}).gap = true ∧ s.fld (F.FLD_BCTL_EN (l - 1)) = 0 := by
  decide +kernel

/-- The hypotheses of clause `ringSwitch` hold together. -/
theorem test_met_ringSwitch :
    let b := State.reset
    let s := b.setU fun u => { u with elapsed := 5000, wall := 1500001, net := { u.net with links := (List.replicate 5 {}) ++ [{ want := true, since := 3000 }] }, rng := { u.rng with queue := [(zeros 8, ⟨4, 0, 1⟩)] } }
    let s := s.setF (F.NET_LSTAT_SWITCHING 5) 0
    Live s ∧ Canon s ∧ s.dev.u.net.links.length = 6 ∧ (s.dev.u.net.links.getD 5 {}).want = true ∧ s.fld (F.NET_LSTAT_SWITCHING 5) = 0 ∧ s.dev.u.wall % 500000 < 4 ∧ (s.dev.u.net.links.getD 5 {}).since + 1000 ≤ s.dev.u.elapsed := by
  decide +kernel

/-- The hypotheses of clause `ringFrozen` hold together. -/
theorem test_met_ringFrozen :
    let b := State.reset
    let s := b.setU fun u => { u with net := { u.net with links := (List.replicate 5 {}) ++ [{ flush := true }] }, rng := { u.rng with frozen := 2 } }
    Live s ∧ Canon s ∧ (s.dev.u.net.links.getD 5 {}).flush = true ∧ s.dev.u.rng.frozen ≠ 0 := by
  decide +kernel

/-- The hypotheses of clause `switchDone` hold together. -/
theorem test_met_switchDone :
    let b := State.reset
    let l := 3
    let s := (b.setU fun u => { u with net := { u.net with links := List.replicate 6 {} }, rng := { u.rng with joined := false, orders := 0 }, pool := {}, fld := { u.fld with buses := List.replicate 4 {} } }).setT 7700000000000000
    let l := 1 + 0
    let s := s.setF (F.FLD_BCTL_EN (l - 1)) 1
    let s := s.setU fun u => { u with net := { u.net with links := updAt u.net.links l fun k => { k with flush := true } } }
    Live s ∧ Canon s ∧ l < 6 ∧ 1 ≤ l ∧ l ≤ 4 ∧ s.dev.u.net.links.length = 6 ∧ (s.dev.u.net.links.getD l {}).flush = true ∧ (s.dev.u.net.links.getD l {}).heldA = none ∧ (s.dev.u.net.links.getD l {}).heldB = none ∧ s.fld (F.FLD_BCTL_EN (l - 1)) = 1 := by
  decide +kernel

/-- The hypotheses of clause `switchDoneHost` hold together. -/
theorem test_met_switchDoneHost :
    let b := State.reset
    let l := 3
    let s := (b.setU fun u => { u with net := { u.net with links := List.replicate 6 {} }, rng := { u.rng with joined := false, orders := 0 }, pool := {}, fld := { u.fld with buses := List.replicate 4 {} } }).setT 7700000000000000
    let l := 0
    let p := 1 - s.fld (F.NET_LSTAT_ACTIVE l)
    let s := (s.setF (domField 128) 1).setF (domField 129) 1
    let s := s.setU fun u => { u with sys := { u.sys with started := true }, net := { u.net with ports := [⟨true, true, some 3300⟩, ⟨true, true, some 3300⟩], links := updAt u.net.links l fun k => { k with flush := true } } }
    Live s ∧ Canon s ∧ l = 0 ∧ s.dev.u.net.links.length = 6 ∧ (s.dev.u.net.links.getD l {}).flush = true ∧ (s.dev.u.net.links.getD l {}).heldA = none ∧ (s.dev.u.net.links.getD l {}).heldB = none ∧ s.dev.u.sys.started = true ∧ p = 1 - s.fld (F.NET_LSTAT_ACTIVE l) ∧ s.powered (128 + p) ∧ s.dev.u.net.ports.length = 2 := by
  decide +kernel

/-- The hypotheses of clause `heldActs` hold together. -/
theorem test_met_heldActs :
    let b := State.reset
    let l := 3
    let s := (b.setU fun u => { u with net := { u.net with links := List.replicate 6 {} }, rng := { u.rng with joined := false, orders := 0 }, pool := {}, fld := { u.fld with buses := List.replicate 4 {} } }).setT 7700000000000000
    let l := 1 + 0
    let s := (s.setF (F.NET_LSTAT_ACTIVE l) 0).setF (F.NET_LSTAT_VB l) 1
    let s := s.setU fun u => { u with net := { u.net with links := updAt u.net.links l fun k => { k with flush := true, heldA := some true } } }
    let s := s.setR R.SYS_CORESTAT (0x3F : Word)
    Live s ∧ Canon s ∧ l < 6 ∧ 1 ≤ l ∧ l ≤ 4 ∧ s.dev.u.net.links.length = 6 ∧ (s.dev.u.net.links.getD l {}).flush = true ∧ (s.dev.u.net.links.getD l {}).heldA = some true ∧ (s.dev.u.net.links.getD l {}).heldB = none ∧ (s.dev.u.net.links.getD l {}).want = false ∧ s.fld (F.NET_LSTAT_ACTIVE l) = 0 ∧ s.fld (F.NET_LSTAT_VB l) ≠ 2 ∧ CoreUp s 5 := by
  decide +kernel

/-- The hypotheses of clause `shuffleMade` hold together. -/
theorem test_met_shuffleMade :
    let b := State.reset
    let l := 3
    let s := (b.setU fun u => { u with net := { u.net with links := List.replicate 6 {} }, rng := { u.rng with joined := false, orders := 0 }, pool := {}, fld := { u.fld with buses := List.replicate 4 {} } }).setT 7700000000000000
    let l := 0
    let s := ((s.setF (F.NET_LSTAT_SWITCHING l) 0).setF (F.NET_LCTL_SHEN l) 1).setF (F.NET_SHPER_H l) (283)
    let s := (s.setF (F.NET_LSTAT_VA l) 0).setF (F.NET_LSTAT_VB l) 1
    Live s ∧ Canon s ∧ l < 6 ∧ l < 5 ∧ s.dev.u.net.links.length = 6 ∧ s.fld (F.NET_LSTAT_SWITCHING l) = 0 ∧ (s.dev.u.net.links.getD l {}).want = false ∧ s.fld (F.NET_LCTL_SHEN l) = 1 ∧ (s.dev.u.net.links.getD l {}).shufRetry = none ∧ (s.dev.u.net.links.getD l {}).shufAt + max 1 (s.fld (F.NET_SHPER_H l)) * 3600000000000 ≤ s.dev.u.elapsed + (s.dev.u.net.links.getD l {}).shufFrom ∧ (if s.fld (F.NET_LSTAT_ACTIVE l) = 0 then s.fld (F.NET_LSTAT_VB l) else s.fld (F.NET_LSTAT_VA l)) ≠ 2 := by
  decide +kernel

/-- The hypotheses of clause `shuffleSkip` hold together. -/
theorem test_met_shuffleSkip :
    let b := State.reset
    let l := 3
    let s := (b.setU fun u => { u with net := { u.net with links := List.replicate 6 {} }, rng := { u.rng with joined := false, orders := 0 }, pool := {}, fld := { u.fld with buses := List.replicate 4 {} } }).setT 7700000000000000
    let l := 0
    let s := ((s.setF (F.NET_LSTAT_SWITCHING l) 0).setF (F.NET_LCTL_SHEN l) 1).setF (F.NET_SHPER_H l) (283)
    let s := (s.setF (F.NET_LSTAT_VA l) 2).setF (F.NET_LSTAT_VB l) 2
    Live s ∧ Canon s ∧ l < 6 ∧ l < 5 ∧ s.dev.u.net.links.length = 6 ∧ s.fld (F.NET_LSTAT_SWITCHING l) = 0 ∧ (s.dev.u.net.links.getD l {}).want = false ∧ s.fld (F.NET_LCTL_SHEN l) = 1 ∧ (s.dev.u.net.links.getD l {}).shufRetry = none ∧ (s.dev.u.net.links.getD l {}).shufAt + max 1 (s.fld (F.NET_SHPER_H l)) * 3600000000000 ≤ s.dev.u.elapsed + (s.dev.u.net.links.getD l {}).shufFrom ∧ (if s.fld (F.NET_LSTAT_ACTIVE l) = 0 then s.fld (F.NET_LSTAT_VB l) else s.fld (F.NET_LSTAT_VA l)) = 2 := by
  decide +kernel

/-- The hypotheses of clause `takenBack` hold together. -/
theorem test_met_takenBack :
    let b := State.reset
    let l := 3
    let s := (b.setU fun u => { u with net := { u.net with links := List.replicate 6 {} }, rng := { u.rng with joined := false, orders := 0 }, pool := {}, fld := { u.fld with buses := List.replicate 4 {} } }).setT 7700000000000000
    let l := 0
    let e := 5
    let s := ((s.setF (F.NET_LSTAT_SWITCHING l) 0).setF (F.NET_LCTL_TBEN l) 1).setF (F.NET_LCTL_PREF l) (0)
    let s := s.setF (F.NET_LSTAT_ACTIVE l) (1 - 0)
    let s := s.setU fun u => { u with net := { u.net with links := updAt u.net.links l fun k => { k with healthyA := some e, healthyB := some e } } }
    Live s ∧ Canon s ∧ l < 6 ∧ l < 5 ∧ s.dev.u.net.links.length = 6 ∧ s.fld (F.NET_LSTAT_SWITCHING l) = 0 ∧ (s.dev.u.net.links.getD l {}).want = false ∧ s.fld (F.NET_LCTL_TBEN l) = 1 ∧ s.fld (F.NET_LCTL_PREF l) ≠ s.fld (F.NET_LSTAT_ACTIVE l) ∧ (if s.fld (F.NET_LCTL_PREF l) = 0 then (s.dev.u.net.links.getD l {}).healthyA else (s.dev.u.net.links.getD l {}).healthyB) = some e ∧ (s.dev.u.net.links.getD l {}).heldA = none ∧ (s.dev.u.net.links.getD l {}).heldB = none ∧ max e ((s.dev.u.net.links.getD l {}).lastSwitch.getD 0) + max 1 (s.fld (F.NET_TBK_T l)) * 1000000000 ≤ s.dev.u.elapsed := by
  decide +kernel

/-- The hypotheses of clause `imageSaved` hold together. -/
theorem test_met_imageSaved :
    let b := State.reset
    let l := 3
    let s := (b.setU fun u => { u with net := { u.net with links := List.replicate 6 {} }, rng := { u.rng with joined := false, orders := 0 }, pool := {}, fld := { u.fld with buses := List.replicate 4 {} } }).setT 7700000000000000
    let l := 1 + 0
    let s := (s.setF (F.FLD_BCTL_EN (l - 1)) 1).setU fun u => { u with wall := 7000000000 + l * 100000000 }
    let x := (s.dev.u.wall + 1000000000 - l * 100000000) / 1000000000
    Live s ∧ Canon s ∧ l < 6 ∧ 1 ≤ l ∧ l ≤ 4 ∧ s.dev.u.net.links.length = 6 ∧ s.fld (F.FLD_BCTL_EN (l - 1)) = 1 ∧ (s.dev.u.net.links.getD l {}).gap = false ∧ l * 100000000 ≤ s.dev.u.wall ∧ x = (s.dev.u.wall + 1000000000 - l * 100000000) / 1000000000 ∧ (s.dev.u.net.links.getD l {}).saveSec ≠ some x ∧ (s.dev.u.net.links.getD l {}).saving = none := by
  decide +kernel

/-- The hypotheses of clause `imageDone` hold together. -/
theorem test_met_imageDone :
    let b := State.reset
    let l := 3
    let s := (b.setU fun u => { u with net := { u.net with links := List.replicate 6 {} }, rng := { u.rng with joined := false, orders := 0 }, pool := {}, fld := { u.fld with buses := List.replicate 4 {} } }).setT 7700000000000000
    let l := 1 + 0
    let s := (s.setF (F.FLD_BCTL_EN (l - 1)) 1).setU fun u => { u with wall := 7000000000 + l * 100000000 }
    let y : PathSave := ⟨7699999999990000, [(.schedule, 4)], 1, false⟩
    let s := s.setU fun u => { u with net := { u.net with links := updAt u.net.links l fun k => { k with saving := some y, log := [(.schedule, 3), (.schedule, 4)], saveSlot := 1 } } }
    let x := (s.dev.u.wall + 1000000000 - l * 100000000) / 1000000000
    Live s ∧ Canon s ∧ l < 6 ∧ 1 ≤ l ∧ l ≤ 4 ∧ s.dev.u.net.links.length = 6 ∧ s.fld (F.FLD_BCTL_EN (l - 1)) = 1 ∧ (s.dev.u.net.links.getD l {}).gap = false ∧ l * 100000000 ≤ s.dev.u.wall ∧ x = (s.dev.u.wall + 1000000000 - l * 100000000) / 1000000000 ∧ (s.dev.u.net.links.getD l {}).saveSec ≠ some x ∧ (s.dev.u.net.links.getD l {}).saving = some y ∧ y.doneAt ≤ s.dev.u.elapsed ∧ (s.dev.u.net.links.getD l {}).images.length = 2 ∧ (s.dev.u.net.links.getD l {}).saveSlot ≤ 1 := by
  decide +kernel

/-- The hypotheses of clause `enumSent` hold together. -/
theorem test_met_enumSent :
    let b := State.reset
    let s := (b.setT 7700000000000000).setU fun u => { u with net := { u.net with links := List.replicate 6 {} }, pool := {}, rng := { u.rng with peers := List.replicate 8 {}, states := List.replicate 8 0, forming := none, joined := false, orders := 0, rejoin := none, holds := false, out := false } }
    let s := s.setU fun u => { u with pwr := { u.pwr with headLow := true }, rng := { u.rng with ring := true } }
    let s := s.setF F.SYS_MODE_CUR 0
    let s := s.setU fun u => { u with rng := { u.rng with forming := some 5, enumAt := none } }
    let s := s.setU fun u => { u with rng := { u.rng with enumAt := if 0 = 0 then none else some 7 } }
    Live s ∧ Canon s ∧ s.mode = 0 ∧ s.dev.u.rng.forming.isSome = true ∧ RingHead s ∧ (s.dev.u.net.links.getD 5 {}).gap = false ∧ (∀ x ∈ s.dev.u.rng.enumAt, x + 500000 ≤ s.dev.u.elapsed) := by
  decide +kernel

/-- The hypotheses of clause `enumNotYet` hold together. -/
theorem test_met_enumNotYet :
    let b := State.reset
    let s := (b.setT 7700000000000000).setU fun u => { u with net := { u.net with links := List.replicate 6 {} }, pool := {}, rng := { u.rng with peers := List.replicate 8 {}, states := List.replicate 8 0, forming := none, joined := false, orders := 0, rejoin := none, holds := false, out := false } }
    let s := s.setU fun u => { u with pwr := { u.pwr with headLow := true }, rng := { u.rng with ring := true } }
    let s := s.setF F.SYS_MODE_CUR 0
    let s := s.setU fun u => { u with rng := { u.rng with forming := some 5, enumAt := none } }
    let x := s.dev.u.elapsed - 7
    let s := s.setU fun u => { u with rng := { u.rng with enumAt := some x } }
    Live s ∧ Canon s ∧ RingHead s ∧ s.dev.u.rng.enumAt = some x ∧ s.dev.u.elapsed < x + 500000 := by
  decide +kernel

/-- The hypotheses of clause `addressTaken` hold together. -/
theorem test_met_addressTaken :
    let b := State.reset
    let s := (b.setT 7700000000000000).setU fun u => { u with net := { u.net with links := List.replicate 6 {} }, pool := {}, rng := { u.rng with peers := List.replicate 8 {}, states := List.replicate 8 0, forming := none, joined := false, orders := 0, rejoin := none, holds := false, out := false } }
    let s := s.setU fun u => { u with pwr := { u.pwr with headLow := false }, rng := { u.rng with ring := true } }
    let s := s.setF F.SYS_MODE_CUR 0
    let s := s.setU fun u => { u with rng := { u.rng with forming := some 5, enumAt := none } }
    let f : EnumFrame := { next := 2 + 6, wall := 5000000 + 28183, entries := [false, false], formed := false, bytes := frameSeal [1, 2, 3] }
    Live s ∧ Canon s ∧ s.mode = 0 ∧ s.dev.u.rng.forming.isSome = true ∧ RingMember s ∧ f.crcOk = true ∧ f.formed = false ∧ f.next ≤ 8 ∧ (s.dev.u.net.links.getD 5 {}).gap = false ∧ (f.onDown = false ∨ f.formed = true) ∧ (∀ x ∈ f.entries, x = false) := by
  decide +kernel

/-- The hypotheses of clause `lateAddressTaken` hold together. -/
theorem test_met_lateAddressTaken :
    let b := State.reset
    let s := (b.setT 7700000000000000).setU fun u => { u with net := { u.net with links := List.replicate 6 {} }, pool := {}, rng := { u.rng with peers := List.replicate 8 {}, states := List.replicate 8 0, forming := none, joined := false, orders := 0, rejoin := none, holds := false, out := false } }
    let s := s.setU fun u => { u with pwr := { u.pwr with headLow := false }, rng := { u.rng with ring := true } }
    let s := s.setF F.SYS_MODE_CUR 0
    let s := s.setU fun u => { u with rng := { u.rng with forming := some 5, enumAt := none } }
    let f : EnumFrame := { next := 2 + 6, wall := 5000000 + 28183, entries := [false, false], formed := true, bytes := frameSeal [1, 2, 3] }
    Live s ∧ Canon s ∧ s.mode = 0 ∧ s.dev.u.rng.forming.isSome = true ∧ RingMember s ∧ f.crcOk = true ∧ f.formed = true ∧ f.next ≤ 8 ∧ (s.dev.u.net.links.getD 5 {}).gap = false ∧ (f.onDown = false ∨ f.formed = true) ∧ (∀ x ∈ f.entries, x = false) := by
  decide +kernel

/-- The hypotheses of clause `enumBad` hold together. -/
theorem test_met_enumBad :
    let b := State.reset
    let s := (b.setT 7700000000000000).setU fun u => { u with net := { u.net with links := List.replicate 6 {} }, pool := {}, rng := { u.rng with peers := List.replicate 8 {}, states := List.replicate 8 0, forming := none, joined := false, orders := 0, rejoin := none, holds := false, out := false } }
    let s := s.setU fun u => { u with pwr := { u.pwr with headLow := false }, rng := { u.rng with ring := true } }
    let s := s.setF F.SYS_MODE_CUR 0
    let s := s.setU fun u => { u with rng := { u.rng with forming := some 5, enumAt := none } }
    let f : EnumFrame := { next := 2 + 6, wall := 5000000 + 28183, entries := [], formed := false, bytes := zeros 7 }
    Live s ∧ Canon s ∧ ((s.mode = 0 ∧ s.dev.u.rng.forming.isSome = true) ∨ s.dev.u.rng.joined = true) ∧ f.crcOk = false ∧ (s.dev.u.net.links.getD 5 {}).gap = false ∧ RingMember s := by
  decide +kernel

/-- The hypotheses of clause `enumBadHead` hold together. -/
theorem test_met_enumBadHead :
    let b := State.reset
    let s := (b.setT 7700000000000000).setU fun u => { u with net := { u.net with links := List.replicate 6 {} }, pool := {}, rng := { u.rng with peers := List.replicate 8 {}, states := List.replicate 8 0, forming := none, joined := false, orders := 0, rejoin := none, holds := false, out := false } }
    let s := s.setU fun u => { u with pwr := { u.pwr with headLow := false }, rng := { u.rng with ring := true } }
    let s := s.setF F.SYS_MODE_CUR 0
    let s := s.setU fun u => { u with rng := { u.rng with forming := some 5, enumAt := none } }
    let f : EnumFrame := { next := 2 + 6, wall := 5000000 + 28183, entries := [], formed := false, bytes := zeros 7 }
    let s := s.setU fun u => { u with pwr := { u.pwr with headLow := true } }
    Live s ∧ Canon s ∧ ((s.mode = 0 ∧ s.dev.u.rng.forming.isSome = true) ∨ s.dev.u.rng.joined = true) ∧ f.crcOk = false ∧ (s.dev.u.net.links.getD 5 {}).gap = false ∧ RingHead s := by
  decide +kernel

/-- The hypotheses of clause `enumInGap` hold together. -/
theorem test_met_enumInGap :
    let b := State.reset
    let s := (b.setT 7700000000000000).setU fun u => { u with net := { u.net with links := List.replicate 6 {} }, pool := {}, rng := { u.rng with peers := List.replicate 8 {}, states := List.replicate 8 0, forming := none, joined := false, orders := 0, rejoin := none, holds := false, out := false } }
    let s := s.setU fun u => { u with pwr := { u.pwr with headLow := false }, rng := { u.rng with ring := true } }
    let s := s.setF F.SYS_MODE_CUR 0
    let s := s.setU fun u => { u with rng := { u.rng with forming := some 5, enumAt := none } }
    let f : EnumFrame := { next := 2 + 6, wall := 5000000 + 28183, entries := [], formed := false, bytes := zeros 7 }
    let s := s.setU fun u => { u with net := { u.net with links := updAt u.net.links 5 fun k => { k with gap := true } } }
    Live s ∧ Canon s ∧ ((s.mode = 0 ∧ s.dev.u.rng.forming.isSome = true) ∨ s.dev.u.rng.joined = true) ∧ (s.dev.u.net.links.getD 5 {}).gap = true := by
  decide +kernel

/-- The hypotheses of clause `twoHeadsMember` hold together. -/
theorem test_met_twoHeadsMember :
    let b := State.reset
    let s := (b.setT 7700000000000000).setU fun u => { u with net := { u.net with links := List.replicate 6 {} }, pool := {}, rng := { u.rng with peers := List.replicate 8 {}, states := List.replicate 8 0, forming := none, joined := false, orders := 0, rejoin := none, holds := false, out := false } }
    let s := s.setU fun u => { u with pwr := { u.pwr with headLow := false }, rng := { u.rng with ring := true } }
    let s := s.setF F.SYS_MODE_CUR 0
    let s := s.setU fun u => { u with rng := { u.rng with forming := some 5, enumAt := none } }
    let f : EnumFrame := { next := 2 + 6, wall := 5000000 + 28183, entries := [], formed := false, bytes := zeros 7 }
    let f : EnumFrame := { next := 3, wall := 7, entries := [false, true], formed := false, bytes := frameSeal [1, 2, 3] }
    Live s ∧ Canon s ∧ ((s.mode = 0 ∧ s.dev.u.rng.forming.isSome = true) ∨ s.dev.u.rng.joined = true) ∧ f.crcOk = true ∧ (s.dev.u.net.links.getD 5 {}).gap = false ∧ RingMember s ∧ (f.onDown = false ∨ f.formed = true) ∧ (∃ x ∈ f.entries, x = true) := by
  decide +kernel

/-- The hypotheses of clause `miscabled` hold together. -/
theorem test_met_miscabled :
    let b := State.reset
    let s := (b.setT 7700000000000000).setU fun u => { u with net := { u.net with links := List.replicate 6 {} }, pool := {}, rng := { u.rng with peers := List.replicate 8 {}, states := List.replicate 8 0, forming := none, joined := false, orders := 0, rejoin := none, holds := false, out := false } }
    let s := s.setU fun u => { u with pwr := { u.pwr with headLow := false }, rng := { u.rng with ring := true } }
    let s := s.setF F.SYS_MODE_CUR 0
    let s := s.setU fun u => { u with rng := { u.rng with forming := some 5, enumAt := none } }
    let f : EnumFrame := { next := 2 + 6, wall := 5000000 + 28183, entries := [], formed := false, bytes := zeros 7 }
    let f : EnumFrame := { next := 3, wall := 7, entries := [], formed := false, bytes := frameSeal [1, 2, 3], onDown := true }
    Live s ∧ Canon s ∧ ((s.mode = 0 ∧ s.dev.u.rng.forming.isSome = true) ∨ s.dev.u.rng.joined = true) ∧ f.crcOk = true ∧ (s.dev.u.net.links.getD 5 {}).gap = false ∧ f.onDown = true ∧ f.formed = false := by
  decide +kernel

/-- The hypotheses of clause `enumBack` hold together. -/
theorem test_met_enumBack :
    let b := State.reset
    let s := (b.setT 7700000000000000).setU fun u => { u with net := { u.net with links := List.replicate 6 {} }, pool := {}, rng := { u.rng with peers := List.replicate 8 {}, states := List.replicate 8 0, forming := none, joined := false, orders := 0, rejoin := none, holds := false, out := false } }
    let s := s.setU fun u => { u with pwr := { u.pwr with headLow := true }, rng := { u.rng with ring := true } }
    let s := s.setF F.SYS_MODE_CUR 0
    let s := s.setU fun u => { u with rng := { u.rng with forming := some 5, enumAt := none } }
    let f : EnumFrame := { next := 2, wall := 5000000 + 28183, entries := List.replicate (6) false, formed := false, bytes := frameSeal [1, 2, 3] }
    Live s ∧ Canon s ∧ s.mode = 0 ∧ s.dev.u.rng.forming.isSome = true ∧ RingHead s ∧ f.crcOk = true ∧ (∀ x ∈ f.entries, x = false) ∧ f.entries.length ≤ 7 ∧ (s.dev.u.net.links.getD 5 {}).gap = false ∧ (f.onDown = false ∨ f.formed = true) := by
  decide +kernel

/-- The hypotheses of clause `twoHeadsStop` hold together. -/
theorem test_met_twoHeadsStop :
    let b := State.reset
    let s := (b.setT 7700000000000000).setU fun u => { u with net := { u.net with links := List.replicate 6 {} }, pool := {}, rng := { u.rng with peers := List.replicate 8 {}, states := List.replicate 8 0, forming := none, joined := false, orders := 0, rejoin := none, holds := false, out := false } }
    let s := s.setU fun u => { u with pwr := { u.pwr with headLow := true }, rng := { u.rng with ring := true } }
    let s := s.setF F.SYS_MODE_CUR 0
    let s := s.setU fun u => { u with rng := { u.rng with forming := some 5, enumAt := none } }
    let f : EnumFrame := { next := 2, wall := 5000000 + 28183, entries := [false, true, false], formed := false, bytes := frameSeal [1, 2, 3] }
    Live s ∧ Canon s ∧ s.mode = 0 ∧ s.dev.u.rng.forming.isSome = true ∧ RingHead s ∧ f.crcOk = true ∧ (∃ x ∈ f.entries, x = true) ∧ (s.dev.u.net.links.getD 5 {}).gap = false ∧ (f.onDown = false ∨ f.formed = true) := by
  decide +kernel

/-- The hypotheses of clause `tooLongStop` hold together. -/
theorem test_met_tooLongStop :
    let b := State.reset
    let s := (b.setT 7700000000000000).setU fun u => { u with net := { u.net with links := List.replicate 6 {} }, pool := {}, rng := { u.rng with peers := List.replicate 8 {}, states := List.replicate 8 0, forming := none, joined := false, orders := 0, rejoin := none, holds := false, out := false } }
    let s := s.setU fun u => { u with pwr := { u.pwr with headLow := true }, rng := { u.rng with ring := true } }
    let s := s.setF F.SYS_MODE_CUR 0
    let s := s.setU fun u => { u with rng := { u.rng with forming := some 5, enumAt := none } }
    let f : EnumFrame := { next := 2, wall := 5000000 + 28183, entries := List.replicate (8 + 0) false, formed := false, bytes := frameSeal [1, 2, 3] }
    Live s ∧ Canon s ∧ s.mode = 0 ∧ s.dev.u.rng.forming.isSome = true ∧ RingHead s ∧ f.crcOk = true ∧ (∀ x ∈ f.entries, x = false) ∧ 8 ≤ f.entries.length ∧ (s.dev.u.net.links.getD 5 {}).gap = false ∧ (f.onDown = false ∨ f.formed = true) := by
  decide +kernel

/-- The hypotheses of clause `formedRing` hold together. -/
theorem test_met_formedRing :
    let b := State.reset
    let s := (b.setT 7700000000000000).setU fun u => { u with net := { u.net with links := List.replicate 6 {} }, pool := {}, rng := { u.rng with peers := List.replicate 8 {}, states := List.replicate 8 0, forming := none, joined := false, orders := 0, rejoin := none, holds := false, out := false } }
    let s := s.setU fun u => { u with pwr := { u.pwr with headLow := true }, rng := { u.rng with ring := true } }
    let s := s.setF F.SYS_MODE_CUR 0
    let s := s.setU fun u => { u with rng := { u.rng with forming := some 5, enumAt := none } }
    let s := s.setU fun u => { u with rng := { u.rng with forming := some 5, complete := true, n := 2 + 6 } }
    let x := 5
    Live s ∧ Canon s ∧ s.mode = 0 ∧ s.dev.u.rng.forming = some x ∧ RingHead s ∧ s.dev.u.rng.complete = true ∧ 2 ≤ s.dev.u.rng.n ∧ s.dev.u.rng.n ≤ 8 := by
  decide +kernel

/-- The hypotheses of clause `formedAlone` hold together. -/
theorem test_met_formedAlone :
    let b := State.reset
    let s := (b.setT 7700000000000000).setU fun u => { u with net := { u.net with links := List.replicate 6 {} }, pool := {}, rng := { u.rng with peers := List.replicate 8 {}, states := List.replicate 8 0, forming := none, joined := false, orders := 0, rejoin := none, holds := false, out := false } }
    let s := s.setU fun u => { u with pwr := { u.pwr with headLow := true }, rng := { u.rng with ring := true } }
    let s := s.setF F.SYS_MODE_CUR 0
    let s := s.setU fun u => { u with rng := { u.rng with forming := some 5, enumAt := none } }
    let s := s.setU fun u => { u with rng := { u.rng with forming := some 5, n := 1 } }
    let x := 5
    Live s ∧ Canon s ∧ s.mode = 0 ∧ s.dev.u.rng.forming = some x ∧ RingHead s ∧ s.dev.u.rng.n = 1 ∧ x + max 1 (s.fld F.RNG_ENUMT_T) * 100000000 ≤ s.dev.u.elapsed := by
  decide +kernel

/-- The hypotheses of clause `cycleAlone` hold together. -/
theorem test_met_cycleAlone :
    let b := State.reset
    let s := (b.setT 7700000000000000).setU fun u => { u with net := { u.net with links := List.replicate 6 {} }, pool := {}, rng := { u.rng with peers := List.replicate 8 {}, states := List.replicate 8 0, forming := none, joined := false, orders := 0, rejoin := none, holds := false, out := false } }
    let n := 900 + 66
    let s := s.setU fun u => { u with wall := n * 500000 + 1, rng := { u.rng with cycle := some (n - 1) } }
    let s := s.setF F.RNG_STAT_FORMED 1
    let s := s.setR R.SYS_CORESTAT (0x3F : Word)
    Live s ∧ Canon s ∧ s.dev.u.wall % 500000 < 4 ∧ n = s.dev.u.wall / 500000 ∧ n < 2 ^ 32 ∧ s.dev.u.rng.cycle ≠ some n ∧ s.dev.u.rng.joined = false ∧ s.fld F.RNG_STAT_FORMED = 1 ∧ s.dev.u.rng.peers.length = 8 ∧ CoreUp s 5 := by
  decide +kernel

/-- The hypotheses of clause `cycleHead` hold together. -/
theorem test_met_cycleHead :
    let b := State.reset
    let s := (b.setT 7700000000000000).setU fun u => { u with net := { u.net with links := List.replicate 6 {} }, pool := {}, rng := { u.rng with peers := List.replicate 8 {}, states := List.replicate 8 0, forming := none, joined := false, orders := 0, rejoin := none, holds := false, out := false } }
    let s := s.setU fun u => { u with pwr := { u.pwr with headLow := true }, rng := { u.rng with ring := true } }
    let n := 900 + 66
    let s := s.setU fun u => { u with wall := n * 500000 + 1, rng := { u.rng with cycle := some (n - 1) } }
    let s := s.setU fun u => { u with rng := { u.rng with joined := true, n := 2 + 0, orders := 1 + 0 * 4 } }
    let p := s.fld (F.NET_LSTAT_ACTIVE 5)
    let s := s.setR R.SYS_CORESTAT (0x3F : Word)
    let s := s.setU fun u => { u with rng := { u.rng with relay := some (zeros 8), queue := [] } }
    Live s ∧ Canon s ∧ s.dev.u.wall % 500000 < 4 ∧ n = s.dev.u.wall / 500000 ∧ n < 2 ^ 32 ∧ s.dev.u.rng.cycle ≠ some n ∧ s.dev.u.rng.joined = true ∧ RingHead s ∧ RingUp s ∧ s.dev.u.rng.out = false ∧ s.dev.u.rng.states.length = 8 ∧ s.dev.u.rng.peers.length = 8 ∧ 2 ≤ s.dev.u.rng.n ∧ s.dev.u.rng.n ≤ 8 ∧ bitAt s.dev.u.rng.orders 1 = false ∧ bitAt s.dev.u.rng.orders 3 = false ∧ s.fld (F.NET_LSTAT_ACTIVE 5) = p ∧ CoreUp s 5 ∧ (∀ r ∈ s.dev.u.rng.relay, r.length = 8) ∧ (∀ x ∈ s.dev.u.rng.queue, x.1.length = 8) := by
  decide +kernel

/-- The hypotheses of clause `enumLaterSend` hold together. -/
theorem test_met_enumLaterSend :
    let b := State.reset
    let s := (b.setF F.SYS_MODE_CUR 2).setU fun u => { u with elapsed := 900000, pwr := { u.pwr with headLow := true }, rng := { u.rng with ring := true, joined := true, n := 2, enumAt := some 400000, states := [1, 1, 0, 0, 0, 0, 0, 0], peers := List.replicate 8 {} } }
    let x := 400000
    Live s ∧ Canon s ∧ RingHead s ∧ s.dev.u.rng.joined = true ∧ s.dev.u.rng.enumAt = some x ∧ x + 500000 ≤ s.dev.u.elapsed ∧ (s.dev.u.net.links.getD 5 {}).gap = false := by
  decide +kernel

/-- The hypotheses of clause `enumLater` hold together. -/
theorem test_met_enumLater :
    let b := State.reset
    let s := (b.setF F.SYS_MODE_CUR 2).setU fun u => { u with elapsed := 900000, pwr := { u.pwr with headLow := true }, rng := { u.rng with ring := true, joined := true, n := 2, enumAt := some 400000, states := [1, 1, 0, 0, 0, 0, 0, 0], peers := List.replicate 8 {} } }
    let f : EnumFrame := { next := 5, wall := 77, entries := [false, false, false], formed := true, bytes := frameSeal [1, 2, 3] }
    let a := 4
    Live s ∧ Canon s ∧ s.mode ≠ 0 ∧ s.dev.u.rng.joined = true ∧ RingHead s ∧ f.crcOk = true ∧ (∀ x ∈ f.entries, x = false) ∧ f.entries.length ≤ 7 ∧ s.dev.u.rng.states.length = 8 ∧ s.dev.u.rng.n < a ∧ a ≤ f.entries.length + 1 ∧ (s.dev.u.net.links.getD 5 {}).gap = false ∧ (f.onDown = false ∨ f.formed = true) := by
  decide +kernel

/-- The hypotheses of clause `enumPass` hold together. -/
theorem test_met_enumPass :
    let b := State.reset
    let s := (b.setF F.SYS_MODE_CUR 2).setU fun u => { u with elapsed := 900000, pwr := { u.pwr with headLow := false }, rng := { u.rng with ring := true, joined := true, n := 2, enumAt := some 400000, states := [1, 1, 0, 0, 0, 0, 0, 0], peers := List.replicate 8 {} } }
    let f : EnumFrame := { next := 3, wall := 77, entries := [false], formed := true, bytes := frameSeal [1, 2, 3] }
    Live s ∧ Canon s ∧ s.mode ≠ 0 ∧ s.dev.u.rng.joined = true ∧ RingMember s ∧ f.crcOk = true ∧ f.next ≤ 8 ∧ (s.dev.u.net.links.getD 5 {}).gap = false ∧ (f.onDown = false ∨ f.formed = true) ∧ (∀ x ∈ f.entries, x = false) := by
  decide +kernel

/-- The hypotheses of clause `returnInGap` hold together. -/
theorem test_met_returnInGap :
    let b := State.reset
    let s := b.setU fun u => { u with net := { u.net with links := (List.replicate 5 {}) ++ [{ gap := true }] }, pwr := { u.pwr with headLow := true }, rng := { u.rng with ring := true, joined := true, out := false } }
    let s := s.setR R.SYS_CORESTAT (0x1F : Word)
    let f : RingFrame := ⟨[1, 2], [1]⟩
    Live s ∧ Canon s ∧ RingHead s ∧ s.dev.u.rng.joined = true ∧ (s.dev.u.net.links.getD 5 {}).gap = true := by
  decide +kernel

/-- The hypotheses of clause `receiveInGap` hold together. -/
theorem test_met_receiveInGap :
    let b := State.reset
    let s := b.setU fun u => { u with net := { u.net with links := (List.replicate 5 {}) ++ [{ gap := true }] }, pwr := { u.pwr with headLow := false }, rng := { u.rng with ring := true, joined := true, out := true } }
    let s := s.setF F.RNG_STAT_ADDR 3
    let f : RingFrame := ⟨[1, 2], [1]⟩
    Live s ∧ Canon s ∧ RingMember s ∧ (s.dev.u.net.links.getD 5 {}).gap = true ∧ 2 ≤ s.fld F.RNG_STAT_ADDR := by
  decide +kernel

/-- The hypotheses of clause `cycleCarries` hold together. -/
theorem test_met_cycleCarries :
    let b := State.reset
    let s := (b.setT 7700000000000000).setU fun u => { u with net := { u.net with links := List.replicate 6 {} }, pool := {}, rng := { u.rng with peers := List.replicate 8 {}, states := List.replicate 8 0, forming := none, joined := false, orders := 0, rejoin := none, holds := false, out := false } }
    let s := s.setU fun u => { u with pwr := { u.pwr with headLow := true }, rng := { u.rng with ring := true } }
    let n := 900 + 66
    let s := s.setU fun u => { u with wall := n * 500000 + 1, rng := { u.rng with cycle := some (n - 1) } }
    let s := s.setU fun u => { u with rng := { u.rng with joined := true, n := 2 + 0, orders := 1 + 2, target := 2, serves := some (1, 75697) } }
    let s := s.setR R.SYS_CORESTAT (0x3F : Word)
    Live s ∧ Canon s ∧ s.dev.u.wall % 500000 < 4 ∧ n = s.dev.u.wall / 500000 ∧ n < 2 ^ 32 ∧ s.dev.u.rng.cycle ≠ some n ∧ s.dev.u.rng.joined = true ∧ RingHead s ∧ RingUp s ∧ s.dev.u.rng.out = false ∧ s.dev.u.rng.states.length = 8 ∧ s.dev.u.rng.peers.length = 8 ∧ 2 ≤ s.dev.u.rng.n ∧ s.dev.u.rng.n ≤ 8 ∧ bitAt s.dev.u.rng.orders 1 = true ∧ bitAt s.dev.u.rng.orders 3 = false ∧ s.dev.u.rng.target < 8 ∧ CoreUp s 5 := by
  decide +kernel

/-- The hypotheses of clause `cycleMissed` hold together. -/
theorem test_met_cycleMissed :
    let b := State.reset
    let s := (b.setT 7700000000000000).setU fun u => { u with net := { u.net with links := List.replicate 6 {} }, pool := {}, rng := { u.rng with peers := List.replicate 8 {}, states := List.replicate 8 0, forming := none, joined := false, orders := 0, rejoin := none, holds := false, out := false } }
    let s := s.setU fun u => { u with pwr := { u.pwr with headLow := false }, rng := { u.rng with ring := true } }
    let n := 900 + 66
    let s := s.setU fun u => { u with wall := n * 500000 + 1, rng := { u.rng with cycle := some (n - 1) } }
    let s := s.setU fun u => { u with rng := { u.rng with joined := true, taken := false } }
    let s := s.setR R.SYS_CORESTAT (0x3F : Word)
    Live s ∧ Canon s ∧ s.dev.u.wall % 500000 < 4 ∧ n = s.dev.u.wall / 500000 ∧ n < 2 ^ 32 ∧ s.dev.u.rng.cycle ≠ some n ∧ s.dev.u.rng.joined = true ∧ RingMember s ∧ RingUp s ∧ s.dev.u.rng.taken = false ∧ CoreUp s 5 := by
  decide +kernel

/-- The hypotheses of clause `frameForwarded` hold together. -/
theorem test_met_frameForwarded :
    let b := State.reset
    let s := (b.setT 7700000000000000).setU fun u => { u with net := { u.net with links := List.replicate 6 {} }, pool := {}, rng := { u.rng with peers := List.replicate 8 {}, states := List.replicate 8 0, forming := none, joined := false, orders := 0, rejoin := none, holds := false, out := false } }
    let s := s.setU fun u => { u with pwr := { u.pwr with headLow := false }, rng := { u.rng with ring := true } }
    let s := s.setF F.RNG_STAT_ADDR (2 + 6)
    let f : RingFrame := ⟨zeros (43), []⟩
    let s := s.setR R.SYS_CORESTAT (0x3F : Word)
    Live s ∧ Canon s ∧ RingMember s ∧ RingUp s ∧ 2 ≤ s.fld F.RNG_STAT_ADDR ∧ f.crcOk = false ∧ CoreUp s 5 := by
  decide +kernel

/-- The hypotheses of clause `framePasses` hold together. -/
theorem test_met_framePasses :
    let b := State.reset
    let s := (b.setT 7700000000000000).setU fun u => { u with net := { u.net with links := List.replicate 6 {} }, pool := {}, rng := { u.rng with peers := List.replicate 8 {}, states := List.replicate 8 0, forming := none, joined := false, orders := 0, rejoin := none, holds := false, out := false } }
    let s := s.setU fun u => { u with pwr := { u.pwr with headLow := false }, rng := { u.rng with ring := true } }
    let s := s.setF F.RNG_STAT_ADDR (2 + 6)
    let f : RingFrame := ⟨zeros (43), []⟩
    let s := s.setR R.SYS_CORESTAT (0x1F : Word)
    Live s ∧ Canon s ∧ RingMember s ∧ RingUp s ∧ 2 ≤ s.fld F.RNG_STAT_ADDR ∧ ¬ CoreUp s 5 := by
  decide +kernel

/-- The hypotheses of clause `ringFrameTaken` hold together. -/
theorem test_met_ringFrameTaken :
    let b := State.reset
    let s := (b.setT 7700000000000000).setU fun u => { u with net := { u.net with links := List.replicate 6 {} }, pool := {}, rng := { u.rng with peers := List.replicate 8 {}, states := List.replicate 8 0, forming := none, joined := false, orders := 0, rejoin := none, holds := false, out := false } }
    let s := s.setU fun u => { u with pwr := { u.pwr with headLow := false }, rng := { u.rng with ring := true } }
    let s := (s.setF F.SYS_MODE_CUR (1 + 6)).setF F.RNG_STAT_SELFLOST 0
    let s := s.setU fun u => { u with rng := { u.rng with late := false } }
    let s := s.setF F.RNG_STAT_ADDR 2
    let f : RingFrame := ⟨frameSeal (leBytes 2 1 ++ leBytes 1 2 ++ leBytes 1 0 ++ leBytes 4 (6105) ++ leBytes 8 (s.dev.u.wall + 65) ++ leBytes 4 (991) ++ leBytes 2 9 ++ leBytes 1 2 ++ leBytes 1 4 ++ leBytes 4 (59859) ++ leBytes 4 7 ++ leBytes 2 5 ++ leBytes 2 (7778) ++ zeros 28 ++ zeros 1024), [1]⟩
    let o : Int := (s.dev.u.wall : Int) - (leAt f.bytes 8 8 + leAt f.bytes 0x10 4 : Nat)
    let s := s.setR R.SYS_CORESTAT (0x3F : Word)
    Live s ∧ Canon s ∧ RingMember s ∧ RingUp s ∧ 2 ≤ s.fld F.RNG_STAT_ADDR ∧ f.crcOk = true ∧ s.fld F.RNG_STAT_ADDR ≤ leAt f.bytes 2 1 ∧ leAt f.bytes 2 1 ≤ 8 ∧ f.bytes.length = 68 + 512 * leAt f.bytes 2 1 ∧ stateIn f.bytes (s.fld F.RNG_STAT_ADDR) = 1 ∧ s.dev.u.rng.late = false ∧ s.fld F.RNG_STAT_SELFLOST = 0 ∧ s.dev.u.rng.forming = none ∧ bitAt (leAt f.bytes 3 1) 3 = false ∧ leAt f.bytes 3 1 = 0 ∧ s.mode ≠ 0 ∧ o = (s.dev.u.wall : Int) - (leAt f.bytes 8 8 + leAt f.bytes 0x10 4 : Nat) ∧ o.natAbs < 2 ^ 31 ∧ CoreUp s 5 := by
  and_intros <;> first | exact frameGood_seal _ | decide +kernel

/-- The hypotheses of clause `frameSteps` hold together. -/
theorem test_met_frameSteps :
    let b := State.reset
    let s := (b.setT 7700000000000000).setU fun u => { u with net := { u.net with links := List.replicate 6 {} }, pool := {}, rng := { u.rng with peers := List.replicate 8 {}, states := List.replicate 8 0, forming := none, joined := false, orders := 0, rejoin := none, holds := false, out := false } }
    let s := s.setU fun u => { u with pwr := { u.pwr with headLow := false }, rng := { u.rng with ring := true } }
    let s := (s.setF F.SYS_MODE_CUR 0).setF F.RNG_STAT_SELFLOST 0
    let s := s.setU fun u => { u with rng := { u.rng with late := false } }
    let s := s.setF F.RNG_STAT_ADDR 2
    let f : RingFrame := ⟨frameSeal (leBytes 2 1 ++ leBytes 1 2 ++ leBytes 1 0 ++ leBytes 4 (6105) ++ leBytes 8 (s.dev.u.wall + 65) ++ leBytes 4 (991) ++ leBytes 2 9 ++ leBytes 1 2 ++ leBytes 1 4 ++ leBytes 4 (59859) ++ leBytes 4 7 ++ leBytes 2 5 ++ leBytes 2 (7778) ++ zeros 28 ++ zeros 1024), [1]⟩
    let s := s.setR R.SYS_CORESTAT (0x3F : Word)
    Live s ∧ Canon s ∧ RingMember s ∧ RingUp s ∧ 2 ≤ s.fld F.RNG_STAT_ADDR ∧ f.crcOk = true ∧ s.fld F.RNG_STAT_ADDR ≤ leAt f.bytes 2 1 ∧ leAt f.bytes 2 1 ≤ 8 ∧ f.bytes.length = 68 + 512 * leAt f.bytes 2 1 ∧ stateIn f.bytes (s.fld F.RNG_STAT_ADDR) = 1 ∧ s.dev.u.rng.late = false ∧ s.fld F.RNG_STAT_SELFLOST = 0 ∧ s.dev.u.rng.forming = none ∧ bitAt (leAt f.bytes 3 1) 3 = false ∧ s.mode = 0 ∧ CoreUp s 5 := by
  and_intros <;> first | exact frameGood_seal _ | decide +kernel

/-- The hypotheses of clause `frameHolds` hold together. -/
theorem test_met_frameHolds :
    let b := State.reset
    let s := (b.setT 7700000000000000).setU fun u => { u with net := { u.net with links := List.replicate 6 {} }, pool := {}, rng := { u.rng with peers := List.replicate 8 {}, states := List.replicate 8 0, forming := none, joined := false, orders := 0, rejoin := none, holds := false, out := false } }
    let s := s.setU fun u => { u with pwr := { u.pwr with headLow := false }, rng := { u.rng with ring := true } }
    let s := s.setF F.RNG_STAT_SELFLOST 0
    let s := s.setU fun u => { u with rng := { u.rng with late := false } }
    let s := s.setF F.RNG_STAT_ADDR 2
    let f : RingFrame := ⟨frameSeal (leBytes 2 1 ++ leBytes 1 2 ++ leBytes 1 1 ++ leBytes 4 (6105) ++ leBytes 8 (s.dev.u.wall + 65) ++ leBytes 4 (991) ++ leBytes 2 9 ++ leBytes 1 2 ++ leBytes 1 4 ++ leBytes 4 (59859) ++ leBytes 4 7 ++ leBytes 2 5 ++ leBytes 2 (7778) ++ zeros 28 ++ zeros 1024), [1]⟩
    let s := s.setR R.SYS_CORESTAT (0x3F : Word)
    Live s ∧ Canon s ∧ RingMember s ∧ RingUp s ∧ 2 ≤ s.fld F.RNG_STAT_ADDR ∧ f.crcOk = true ∧ s.fld F.RNG_STAT_ADDR ≤ leAt f.bytes 2 1 ∧ leAt f.bytes 2 1 ≤ 8 ∧ f.bytes.length = 68 + 512 * leAt f.bytes 2 1 ∧ stateIn f.bytes (s.fld F.RNG_STAT_ADDR) = 1 ∧ s.dev.u.rng.late = false ∧ s.fld F.RNG_STAT_SELFLOST = 0 ∧ s.dev.u.rng.forming = none ∧ bitAt (leAt f.bytes 3 1) 3 = false ∧ leAt f.bytes 3 1 = 1 ∧ CoreUp s 5 := by
  and_intros <;> first | exact frameGood_seal _ | decide +kernel

/-- The hypotheses of clause `frameTransition` hold together. -/
theorem test_met_frameTransition :
    let b := State.reset
    let s := (b.setT 7700000000000000).setU fun u => { u with net := { u.net with links := List.replicate 6 {} }, pool := {}, rng := { u.rng with peers := List.replicate 8 {}, states := List.replicate 8 0, forming := none, joined := false, orders := 0, rejoin := none, holds := false, out := false } }
    let s := s.setU fun u => { u with pwr := { u.pwr with headLow := false }, rng := { u.rng with ring := true } }
    let s := s.setF F.RNG_STAT_SELFLOST 0
    let s := s.setU fun u => { u with rng := { u.rng with late := false } }
    let s := s.setF F.RNG_STAT_ADDR 2
    let f : RingFrame := ⟨frameSeal (leBytes 2 1 ++ leBytes 1 2 ++ leBytes 1 2 ++ leBytes 4 (6105) ++ leBytes 8 (s.dev.u.wall + 65) ++ leBytes 4 (991) ++ leBytes 2 (s.fld F.RNG_TSEQ_TSEQ + 1) ++ leBytes 1 2 ++ leBytes 1 4 ++ leBytes 4 (59859) ++ leBytes 4 7 ++ leBytes 2 5 ++ leBytes 2 (7778) ++ zeros 28 ++ zeros 1024), [1]⟩
    let s := s.setR R.SYS_CORESTAT (0x3F : Word)
    Live s ∧ Canon s ∧ RingMember s ∧ RingUp s ∧ 2 ≤ s.fld F.RNG_STAT_ADDR ∧ f.crcOk = true ∧ s.fld F.RNG_STAT_ADDR ≤ leAt f.bytes 2 1 ∧ leAt f.bytes 2 1 ≤ 8 ∧ f.bytes.length = 68 + 512 * leAt f.bytes 2 1 ∧ stateIn f.bytes (s.fld F.RNG_STAT_ADDR) = 1 ∧ s.dev.u.rng.late = false ∧ s.fld F.RNG_STAT_SELFLOST = 0 ∧ s.dev.u.rng.forming = none ∧ bitAt (leAt f.bytes 3 1) 3 = false ∧ leAt f.bytes 3 1 = 2 ∧ leAt f.bytes 0x14 2 ≠ s.fld F.RNG_TSEQ_TSEQ ∧ leAt f.bytes 0x16 1 < 8 ∧ CoreUp s 5 := by
  and_intros <;> first | exact frameGood_seal _ | decide +kernel

/-- The hypotheses of clause `frameResets` hold together. -/
theorem test_met_frameResets :
    let b := State.reset
    let s := (b.setT 7700000000000000).setU fun u => { u with net := { u.net with links := List.replicate 6 {} }, pool := {}, rng := { u.rng with peers := List.replicate 8 {}, states := List.replicate 8 0, forming := none, joined := false, orders := 0, rejoin := none, holds := false, out := false } }
    let s := s.setU fun u => { u with pwr := { u.pwr with headLow := false }, rng := { u.rng with ring := true } }
    let s := s.setF F.RNG_STAT_SELFLOST 0
    let s := s.setU fun u => { u with rng := { u.rng with late := false } }
    let s := s.setF F.RNG_STAT_ADDR 2
    let f : RingFrame := ⟨frameSeal (leBytes 2 1 ++ leBytes 1 2 ++ leBytes 1 4 ++ leBytes 4 (6105) ++ leBytes 8 (s.dev.u.wall + 65) ++ leBytes 4 (991) ++ leBytes 2 9 ++ leBytes 1 2 ++ leBytes 1 4 ++ leBytes 4 (59859) ++ leBytes 4 7 ++ leBytes 2 5 ++ leBytes 2 (7778) ++ zeros 28 ++ zeros 1024), [1]⟩
    let s := s.setR R.SYS_CORESTAT (0x3F : Word)
    Live s ∧ Canon s ∧ RingMember s ∧ RingUp s ∧ 2 ≤ s.fld F.RNG_STAT_ADDR ∧ f.crcOk = true ∧ s.fld F.RNG_STAT_ADDR ≤ leAt f.bytes 2 1 ∧ leAt f.bytes 2 1 ≤ 8 ∧ f.bytes.length = 68 + 512 * leAt f.bytes 2 1 ∧ stateIn f.bytes (s.fld F.RNG_STAT_ADDR) = 1 ∧ s.dev.u.rng.late = false ∧ s.fld F.RNG_STAT_SELFLOST = 0 ∧ s.dev.u.rng.forming = none ∧ bitAt (leAt f.bytes 3 1) 3 = false ∧ leAt f.bytes 3 1 = 4 ∧ CoreUp s 5 := by
  and_intros <;> first | exact frameGood_seal _ | decide +kernel

/-- The hypotheses of clause `returnBad` hold together. -/
theorem test_met_returnBad :
    let b := State.reset
    let s := (b.setT 7700000000000000).setU fun u => { u with net := { u.net with links := List.replicate 6 {} }, pool := {}, rng := { u.rng with peers := List.replicate 8 {}, states := List.replicate 8 0, forming := none, joined := false, orders := 0, rejoin := none, holds := false, out := false } }
    let s := s.setU fun u => { u with pwr := { u.pwr with headLow := true }, rng := { u.rng with ring := true } }
    let s := s.setU fun u => { u with rng := { u.rng with joined := true, out := true } }
    let f : RingFrame := ⟨zeros (43), []⟩
    let s := s.setR R.SYS_CORESTAT (0x3F : Word)
    Live s ∧ Canon s ∧ RingHead s ∧ s.dev.u.rng.joined = true ∧ s.dev.u.rng.out = true ∧ f.crcOk = false ∧ CoreUp s 5 ∧ (s.dev.u.net.links.getD 5 {}).gap = false := by
  decide +kernel

/-- The hypotheses of clause `returnSeen` hold together. -/
theorem test_met_returnSeen :
    let b := State.reset
    let s := (b.setT 7700000000000000).setU fun u => { u with net := { u.net with links := List.replicate 6 {} }, pool := {}, rng := { u.rng with peers := List.replicate 8 {}, states := List.replicate 8 0, forming := none, joined := false, orders := 0, rejoin := none, holds := false, out := false } }
    let s := s.setU fun u => { u with pwr := { u.pwr with headLow := true }, rng := { u.rng with ring := true } }
    let s := s.setU fun u => { u with rng := { u.rng with joined := true, out := true, n := 3, states := [1, 1, 1, 0, 0, 0, 0, 0] } }
    let a := 1 + 1
    let f : RingFrame := ⟨frameSeal (zeros 1600), [[2], [3], [2, 3], []].getD (2) []⟩
    let s := s.setR R.SYS_CORESTAT (0x3F : Word)
    Live s ∧ Canon s ∧ RingHead s ∧ s.dev.u.rng.joined = true ∧ s.dev.u.rng.out = true ∧ f.crcOk = true ∧ s.dev.u.rng.peers.length = 8 ∧ s.dev.u.rng.states.length = 8 ∧ s.dev.u.rng.n ≤ 8 ∧ 1 ≤ a ∧ a ≤ s.dev.u.rng.n ∧ CoreUp s 5 ∧ (s.dev.u.net.links.getD 5 {}).gap = false := by
  and_intros <;> first | exact frameGood_seal _ | decide +kernel

/-- The hypotheses of clause `memberLost` hold together. -/
theorem test_met_memberLost :
    let b := State.reset
    let s := (b.setT 7700000000000000).setU fun u => { u with net := { u.net with links := List.replicate 6 {} }, pool := {}, rng := { u.rng with peers := List.replicate 8 {}, states := List.replicate 8 0, forming := none, joined := false, orders := 0, rejoin := none, holds := false, out := false } }
    let s := s.setU fun u => { u with pwr := { u.pwr with headLow := true }, rng := { u.rng with ring := true } }
    let a := 2 + 6
    let s := s.setU fun u => { u with rng := { u.rng with joined := true, n := 8, states := List.replicate 8 1, lostHold := false, peers := List.replicate 8 { missed := 300 } } }
    let s := s.setR R.SYS_CORESTAT (0x3F : Word)
    Live s ∧ Canon s ∧ RingHead s ∧ s.dev.u.rng.joined = true ∧ s.dev.u.rng.states.length = 8 ∧ s.dev.u.rng.peers.length = 8 ∧ 2 ≤ a ∧ a ≤ 8 ∧ s.dev.u.rng.states.getD (a - 1) 0 = 1 ∧ max 2 (s.fld F.RNG_LOSTN_N) ≤ (s.dev.u.rng.peers.getD (a - 1) {}).missed ∧ s.dev.u.rng.lostHold = false ∧ CoreUp s 5 := by
  decide +kernel

/-- The hypotheses of clause `memberLostHolds` hold together. -/
theorem test_met_memberLostHolds :
    let b := State.reset
    let s := (b.setT 7700000000000000).setU fun u => { u with net := { u.net with links := List.replicate 6 {} }, pool := {}, rng := { u.rng with peers := List.replicate 8 {}, states := List.replicate 8 0, forming := none, joined := false, orders := 0, rejoin := none, holds := false, out := false } }
    let s := s.setU fun u => { u with pwr := { u.pwr with headLow := true }, rng := { u.rng with ring := true } }
    let a := 2 + 6
    let s := s.setU fun u => { u with rng := { u.rng with joined := true, n := 8, states := List.replicate 8 1, lostHold := true, peers := List.replicate 8 { missed := 300 } } }
    let s := s.setR R.SYS_CORESTAT (0x3F : Word)
    Live s ∧ Canon s ∧ RingHead s ∧ s.dev.u.rng.joined = true ∧ s.dev.u.rng.states.length = 8 ∧ s.dev.u.rng.peers.length = 8 ∧ 2 ≤ a ∧ a ≤ 8 ∧ s.dev.u.rng.states.getD (a - 1) 0 = 1 ∧ max 2 (s.fld F.RNG_LOSTN_N) ≤ (s.dev.u.rng.peers.getD (a - 1) {}).missed ∧ s.dev.u.rng.lostHold = true ∧ CoreUp s 5 := by
  decide +kernel

/-- The hypotheses of clause `memberLostWaits` hold together. -/
theorem test_met_memberLostWaits :
    let a := 2
    let s := State.reset.setR R.SYS_CORESTAT (0x1F : Word)
    Live s ∧ ¬ CoreUp s 5 := by
  decide +kernel

/-- The hypotheses of clause `selfLost` hold together. -/
theorem test_met_selfLost :
    let b := State.reset
    let s := (b.setT 7700000000000000).setU fun u => { u with net := { u.net with links := List.replicate 6 {} }, pool := {}, rng := { u.rng with peers := List.replicate 8 {}, states := List.replicate 8 0, forming := none, joined := false, orders := 0, rejoin := none, holds := false, out := false } }
    let s := s.setU fun u => { u with pwr := { u.pwr with headLow := false }, rng := { u.rng with ring := true } }
    let s := s.setU fun u => { u with rng := { u.rng with joined := true, late := false, missed := 300 } }
    let s := s.setF F.RNG_STAT_SELFLOST 0
    let s := s.setR R.SYS_CORESTAT (0x3F : Word)
    Live s ∧ Canon s ∧ RingMember s ∧ s.dev.u.rng.joined = true ∧ s.dev.u.rng.late = false ∧ s.fld F.RNG_STAT_SELFLOST = 0 ∧ max 2 (s.fld F.RNG_LOSTN_N) ≤ s.dev.u.rng.missed ∧ CoreUp s 5 := by
  decide +kernel

/-- The hypotheses of clause `selfLostWaits` hold together. -/
theorem test_met_selfLostWaits :
    let s := State.reset.setR R.SYS_CORESTAT (0x1F : Word)
    Live s ∧ ¬ CoreUp s 5 := by
  decide +kernel

/-- The hypotheses of clause `relayPublished` hold together. -/
theorem test_met_relayPublished :
    let b := State.reset
    let v := 40
    let s := b
    let s := s.setU fun u => { u with rng := { u.rng with relay := none } }
    let s := s.setR R.RNG_RVCTL (0 : Word)
    Live s ∧ Canon s ∧ v < 256 ∧ s.dev.u.rng.relay = none := by
  decide +kernel

/-- The hypotheses of clause `relayReplaced` hold together. -/
theorem test_met_relayReplaced :
    let b := State.reset
    let v := 40
    let s := b
    let x : List Byte := zeros 8
    let s := s.setU fun u => { u with rng := { u.rng with relay := some x } }
    let s := s.setR R.RNG_RVCTL (0 : Word)
    Live s ∧ Canon s ∧ v < 256 ∧ s.dev.u.rng.relay = some x := by
  decide +kernel

/-- The hypotheses of clause `powerOn` hold together. -/
theorem test_met_powerOn :
    let b := State.reset
    let s := b.setU fun u => { u with elapsed := 900, wall := 7, pwr := { u.pwr with q := 5, stopped := true } }
    let mv := 7801
    Canon s ∧ (s.dev.u.pwr.stopped = true ∨ NoLoss s) ∧ 7800 < mv ∧ mv ≤ 70000 := by
  decide +kernel

/-- The hypotheses of clause `powerOnAfterSave` hold together. -/
theorem test_met_powerOnAfterSave :
    let b := State.reset
    let s := b.setU fun u => { u with elapsed := 900, pwr := { u.pwr with q := 5, saveOut := 255, saveMs := 65535 } }
    let l : PowerLoss := ⟨5, true, 1, true⟩
    let s := s.setU fun u => { u with pwr := { u.pwr with loss := some l } }
    let s := s.setU fun u => { u with pwr := { u.pwr with stopped := false } }
    let mv := 8100
    Supplied s ∧ Canon s ∧ s.dev.u.pwr.loss = some l ∧ l.confirmed = true ∧ l.done = true ∧ s.inForce F.PWR_PFTHR_THR * 10 + 500 ≤ mv ∧ s.dev.u.pwr.saveOut < 256 ∧ s.dev.u.pwr.saveMs < 65536 ∧ mv ≤ 70000 := by
  decide +kernel

/-- The hypotheses of clause `powerOnNoSave` hold together. -/
theorem test_met_powerOnNoSave :
    let b := State.reset
    let l : PowerLoss := ⟨5, true, 1, true⟩
    let s := b.setU fun u => { u with pwr := { u.pwr with stopped := false, loss := some l } }
    let mv := 8099
    Supplied s ∧ s.dev.u.pwr.loss = some l ∧ l.confirmed = true ∧ (l.done = false ∨ mv < s.inForce F.PWR_PFTHR_THR * 10 + 500) ∧ mv ≤ 70000 := by
  decide +kernel

/-- The hypotheses of clause `powerOnLow` hold together. -/
theorem test_met_powerOnLow :
    let b := State.reset
    let s := b.setU fun u => { u with pwr := { u.pwr with stopped := true } }
    let mv := 7800
    (s.dev.u.pwr.stopped = true ∨ NoLoss s) ∧ mv ≤ 7800 := by
  decide +kernel

/-- The hypotheses of clause `railFault` hold together. -/
theorem test_met_railFault :
    let b := State.reset
    let s := b.setU fun u => { u with pwr := { u.pwr with stopped := false, resetNLow := true } }
    let rail := 7
    let s := s.setU fun u => { u with elapsed := 900, pwr := { u.pwr with q := 5 } }
    Supplied s ∧ Canon s ∧ rail < 8 := by
  decide +kernel

/-- The hypotheses of clause `heldWrite` hold together. -/
theorem test_met_heldWrite :
    let s := State.reset.setU fun u => { u with pwr := { u.pwr with resetNLow := true } }
    Supplied s ∧ s.dev.u.pwr.resetNLow = true := by
  decide +kernel

/-- The hypotheses of clause `pllUnlock` hold together. -/
theorem test_met_pllUnlock :
    let b := State.reset
    let s := b.setU fun u => { u with pwr := { u.pwr with stopped := false, resetNLow := true } }
    let pll := 5
    let s := s.setU fun u => { u with elapsed := 900, pwr := { u.pwr with q := 5 } }
    Supplied s ∧ Canon s ∧ pll < 6 := by
  decide +kernel

/-- The hypotheses of clause `resetNAssert` hold together. -/
theorem test_met_resetNAssert :
    let b := State.reset
    let s := b
    let s := s.setU fun u => { u with elapsed := 900, jtag := { u.jtag with ir := 3 } }
    Supplied s ∧ Canon s := by
  decide +kernel

/-- The hypotheses of clause `resetNRelease` hold together. -/
theorem test_met_resetNRelease :
    let b := State.reset
    let s := b.setU fun u => { u with pwr := { u.pwr with stopped := false, resetNLow := true } }
    let s := s.setT 100000000000
    Supplied s := by
  decide +kernel

/-- The hypotheses of clause `moduleWatchdog` hold together. -/
theorem test_met_moduleWatchdog :
    let b := State.reset
    let s := b
    let s := s.setU fun u => { u with elapsed := 1000000005, wall := 6, sys := { u.sys with started := true }, pwr := { u.pwr with aliveAt := 5 }, nv := { u.nv with tab := [⟨1, { regs := [] }⟩, ⟨0, {}⟩] } }
    Live s ∧ Canon s ∧ s.dev.u.sys.started = true ∧ s.dev.u.pwr.aliveAt + max 200 (s.inForce F.PWR_MWDT_T) * 1000000 ≤ s.dev.u.elapsed := by
  decide +kernel

/-- The hypotheses of clause `moduleWatchdogAlive` hold together. -/
theorem test_met_moduleWatchdogAlive :
    let b := State.reset
    let s := b
    let s := s.setU fun u => { u with elapsed := 1000000004, sys := { u.sys with started := true }, pwr := { u.pwr with aliveAt := 5 }, nv := { u.nv with tab := [⟨1, { regs := [] }⟩, ⟨0, {}⟩] } }
    Live s ∧ (s.dev.u.sys.started = false ∨ s.dev.u.elapsed < s.dev.u.pwr.aliveAt + max 200 (s.inForce F.PWR_MWDT_T) * 1000000) := by
  decide +kernel

/-- The hypotheses of clause `commandReset` hold together. -/
theorem test_met_commandReset :
    let b := State.reset
    let s := b
    let d := 100
    let s := s.setU fun u => { u with elapsed := 100, cmd := { u.cmd with resetAt := some d } }
    Live s ∧ Canon s ∧ s.dev.u.cmd.resetAt = some d ∧ d ≤ s.dev.u.elapsed := by
  decide +kernel

/-- The hypotheses of clause `clusterReset` hold together. -/
theorem test_met_clusterReset :
    let b := State.reset
    let s := b
    let d := 100
    let s := s.setU fun u => { u with elapsed := 100, rng := { u.rng with resetAt := some d } }
    Live s ∧ Canon s ∧ s.dev.u.rng.resetAt = some d ∧ d ≤ s.dev.u.elapsed := by
  decide +kernel

/-- The hypotheses of clause `pllUnlockShort` hold together. -/
theorem test_met_pllUnlockShort :
    let b := State.reset
    let s := b.setU fun u => { u with pwr := { u.pwr with stopped := false, resetNLow := true } }
    let pll := 5
    Supplied s ∧ Canon s ∧ pll < 6 := by
  decide +kernel

/-- The hypotheses of clause `coresStart` hold together. -/
theorem test_met_coresStart :
    let b := State.reset
    let s := b
    let s := s.setU fun u => { u with cmd := { u.cmd with early := [], sessions := [{}, {}, {}, {}] } }
    let s := s.setU fun u => { u with pwr := { u.pwr with loss := none }, sys := { u.sys with started := false }, nv := { u.nv with fwSel := 0, fw := [{ state := 1, data := zeros 64 }, { state := 1, data := [1, 2, 3] }], tab := [⟨1, { regs := [(R.ENC_SUBSTMAX 3, (7 : Word))] }⟩, ⟨0, {}⟩] } }
    Live s ∧ Canon s ∧ NoLoss s ∧ s.dev.u.sys.started = false ∧ s.dev.u.nv.fwSel ≤ 1 ∧ (s.dev.u.nv.fw.getD s.dev.u.nv.fwSel {}).state = 1 ∧ (∀ x ∈ s.dev.u.nv.tables.regs, x.1 / 0x10000 ≠ 0 ∧ x.1 / 0x10000 ≠ 0x15) ∧ (∀ x ∈ s.dev.u.cmd.sessions, x.tags = []) ∧ s.dev.u.cmd.early = [] ∧ s.dev.u.nv.fwSel ∉ s.dev.u.nv.fwBad ∧ s.dev.u.net.ports = [{}, {}] ∧ ¬ s.powered 128 ∧ ¬ s.powered 129 := by
  decide +kernel

/-- The hypotheses of clause `ccWatchdog` hold together. -/
theorem test_met_ccWatchdog :
    let b := State.reset
    let s := b
    let k := 3
    let s := s.setR R.SYS_CORESTAT (0x3F : Word)
    let s := s.setF F.SYS_CORESTAT_RESTARTS 65535
    let s := s.setU fun u => { u with cmd := { u.cmd with sessions := [{}, {}, {}, {}] } }
    Live s ∧ Canon s ∧ k < 4 ∧ CoreUp s k ∧ (∀ x ∈ s.dev.u.cmd.sessions, ∀ y ∈ x.tags, coreOf (y.opcode / 256) ≠ k) := by
  decide +kernel

/-- The hypotheses of clause `ccWatchdogCommand` hold together. -/
theorem test_met_ccWatchdogCommand :
    let b := State.reset
    let i := 3
    let k := 2
    let x : OutTag := ⟨5, 0x0601, true, true, [], 0, none, none, 0, false, 0⟩
    let s := (linked b).setU fun u => { u with pwr := { u.pwr with stopped := false, resetNLow := false }, cmd := { u.cmd with sessions := [{}, {}, {}, { sid := 77, st := .opened, ip := 0xC0A80003, port := 5001, hop := some 0xC0A80003, tags := [x] }] } }
    Live s ∧ Canon s ∧ k < 4 ∧ CoreUp s k ∧ s.dev.u.cmd.sessions.length = 4 ∧ i < 4 ∧ (s.sess i).tags = [x] ∧ x.done = false ∧ coreOf (x.opcode / 256) = k ∧ bulkOf (s.sess i) x.tagw = none ∧ (∀ j ∈ List.range 4, j ≠ i → ∀ y ∈ (s.sess j).tags, coreOf (y.opcode / 256) ≠ k) ∧ HostLinkUp s ∧ (s.sess i).queue = [] ∧ HasHop s (s.sess i).ip := by
  decide +kernel

/-- The hypotheses of clause `rt0Watchdog` hold together. -/
theorem test_met_rt0Watchdog :
    let b := State.reset
    let s := b
    let s := s.setR R.SYS_CORESTAT (0x3F : Word)
    Live s ∧ Canon s ∧ CoreUp s 4 := by
  decide +kernel

/-- The hypotheses of clause `rt1Watchdog` hold together. -/
theorem test_met_rt1Watchdog :
    let b := State.reset
    let s := b
    let s := s.setR R.SYS_CORESTAT (0x3F : Word)
    let s := s.setF F.SYS_MODE_CUR (4)
    Live s ∧ Canon s ∧ CoreUp s 5 := by
  decide +kernel

/-- The hypotheses of clause `rtRestart` hold together. -/
theorem test_met_rtRestart :
    let b := State.reset
    let s := b
    let k := 5
    let s := (s.setR R.SYS_CORESTAT (0xF : Word)).setU fun u => { u with sys := { u.sys with started := true, holdEventOwed := false } }
    Live s ∧ Canon s ∧ 4 ≤ k ∧ k ≤ 5 ∧ ¬ CoreUp s k ∧ s.dev.u.sys.started = true ∧ s.dev.u.sys.holdEventOwed = false ∧ (∀ x ∈ s.dev.u.net.links, x.owed = []) ∧ s.dev.u.thm.owed = 0 ∧ (∀ h ∈ s.dev.u.reco.hand, h.poisoned = false) := by
  decide +kernel

/-- The hypotheses of clause `rtOwed` hold together. -/
theorem test_met_rtOwed :
    let b := State.reset
    let l := 2
    let a := 0
    let s := b.setR R.SYS_CORESTAT (0x1F : Word)
    let s := s.setU fun u => { u with sys := { u.sys with started := true, holdEventOwed := false }, net := { u.net with links := updAt (List.replicate 6 {}) l fun k => { k with owed := [(a, true)] } } }
    let s := ((s.setF (F.NET_LSTAT_ACTIVE l) 0).setF (F.NET_LSTAT_VB l) 1).setF (F.NET_LSTAT_SWITCHING l) 0
    Live s ∧ Canon s ∧ ¬ CoreUp s 5 ∧ s.dev.u.sys.started = true ∧ s.dev.u.sys.holdEventOwed = false ∧ s.dev.u.net.links.length = 6 ∧ l < 5 ∧ (s.dev.u.net.links.getD l {}).owed = [(a, true)] ∧ a = s.fld (F.NET_LSTAT_ACTIVE l) ∧ a ≤ 1 ∧ s.fld (F.NET_LSTAT_SWITCHING l) = 0 ∧ (s.dev.u.net.links.getD l {}).want = false ∧ (if a = 0 then s.fld (F.NET_LSTAT_VB l) else s.fld (F.NET_LSTAT_VA l)) ≠ 2 := by
  decide +kernel

/-- The hypotheses of clause `ccRestart` hold together. -/
theorem test_met_ccRestart :
    let b := State.reset
    let s := b
    let s := s.setU fun u => { u with cmd := { u.cmd with early := [], sessions := [{}, {}, {}, {}] } }
    let k := 3
    let s := (s.setR R.SYS_CORESTAT (0x30 : Word)).setU fun u => { u with sys := { u.sys with started := true } }
    Live s ∧ Canon s ∧ k < 4 ∧ ¬ CoreUp s k ∧ s.dev.u.sys.started = true ∧ (∀ x ∈ s.dev.u.cmd.sessions, x.tags = []) ∧ s.dev.u.cmd.early = [] := by
  decide +kernel

/-- The hypotheses of clause `wordCorrected` hold together. -/
theorem test_met_wordCorrected :
    let b := State.reset
    let s := b
    let s := s.setF F.SYS_MEMERR_CORR 65535
    let n := 40
    let c : MemUser := .coreCode 5
    let e : MemErr := .matrix n
    Live s ∧ Canon s ∧ (e = .word 1 c ∨ (1 ≤ n ∧ n ≤ 40 ∧ (e = .matrix n ∨ e = .firmware n 0 ∨ e = .firmware n 1))) := by
  decide +kernel

/-- The hypotheses of clause `lotPoisoned` hold together. -/
theorem test_met_lotPoisoned :
    let b := State.reset
    let s := b
    let i := 8191
    let s := s.setF F.SYS_MEMERR_UNCORR 255
    Live s ∧ Canon s := by
  decide +kernel

/-- The hypotheses of clause `parcelPoisoned` hold together. -/
theorem test_met_parcelPoisoned :
    let b := State.reset
    let s := b
    let pid := 7
    let r : List Byte := Pf.pid.put (zeros 128) 7
    let s := s.setU fun u => { u with pcl := { u.pcl with parcels := [r, zeros 128] } }
    Live s ∧ Canon s := by
  decide +kernel

/-- The hypotheses of clause `parityNone` hold together. -/
theorem test_met_parityNone :
    let b := State.reset
    let s := b
    Live s ∧ s.dev.upset = [] := by
  decide +kernel

/-- The hypotheses of clause `parityUpset` hold together. -/
theorem test_met_parityUpset :
    let b := State.reset
    let s := b
    let l := [R.PCL_LEASE, R.SYS_ID]
    Live s ∧ s.dev.upset = [] := by
  decide +kernel

/-- The hypotheses of clause `demandAfterRestart` hold together. -/
theorem test_met_demandAfterRestart :
    let k := 2
    let b := State.reset
    let s := b.setU fun u => { u with sys := { u.sys with started := true }, thm := { u.thm with owed := k + 1 }, net := { u.net with links := List.replicate 6 {} } }
    let s := s.setR R.SYS_CORESTAT (0x1F : Word)
    Live s ∧ Canon s ∧ ¬ CoreUp s 5 ∧ s.dev.u.sys.started = true ∧ s.dev.u.sys.holdEventOwed = false ∧ (∀ x ∈ s.dev.u.net.links, x.owed = []) ∧ s.dev.u.thm.owed = k + 1 := by
  decide +kernel

/-- The hypotheses of clause `dropAfterRestart` hold together. -/
theorem test_met_dropAfterRestart :
    let b := State.reset
    let h : Hand := { poisoned := true }
    let s := b.setU fun u => { u with sys := { u.sys with started := true }, reco := { u.reco with hand := some h, waiting := none } }
    let s := s.setR R.SYS_CORESTAT (0x2F : Word)
    Live s ∧ Canon s ∧ ¬ CoreUp s 4 ∧ s.dev.u.sys.started = true ∧ s.dev.u.reco.hand = some h ∧ h.poisoned = true ∧ s.dev.u.reco.waiting = none := by
  decide +kernel

/-- The hypotheses of clause `parityRepair` hold together. -/
theorem test_met_parityRepair :
    let b := State.reset
    let s := b
    let a := R.PCL_LEASE
    let xk := (rowOf a).getD (⟨"", 0, [], 0, 0, 0, 0, 0, [], false, [], 0, 0⟩, 0)
    let x := xk.1
    let k := xk.2
    let s := s.setR a (0x0003 : Word)
    let s := { s with dev := { s.dev with upset := [a] } }
    Live s ∧ Canon s ∧ rowOf a = some (x, k) ∧ x.mask = true ∧ x.restored = 0 ∧ (a / 0x10000 = 3 ∨ a / 0x10000 = 0xC) ∧ s.dev.upset = [a] := by
  decide +kernel

/-- The hypotheses of clause `writeMasked` hold together. -/
theorem test_met_writeMasked :
    let b := State.reset
    let s := b
    let src : Src := Src.service
    let a := R.PCL_CTL
    let xk := (rowOf a).getD (⟨"", 0, [], 0, 0, 0, 0, 0, [], false, [], 0, 0⟩, 0)
    let x := xk.1
    let k := xk.2
    let w : Word := BitVec.ofNat 32 ((4097 &&& (0xFFFF ^^^ x.kp)) ||| ((s.reg a).toNat &&& x.kp) ||| 65536 * ((0x8F01) % 65536))
    Live s ∧ Canon s ∧ rowOf a = some (x, k) ∧ x.mask = true ∧ x.noThree = [] ∧ (a / 0x10000 = 0xC ∨ a / 0x10000 = 0x13) ∧ (w.toNat ^^^ (s.reg a).toNat) &&& (w.toNat / 65536) &&& x.kp = 0 := by
  decide +kernel

/-- The hypotheses of clause `writeKept` hold together. -/
theorem test_met_writeKept :
    let b := State.reset
    let s := b
    let src : Src := Src.service
    let a := R.PCL_CTL
    let xk := (rowOf a).getD (⟨"", 0, [], 0, 0, 0, 0, 0, [], false, [], 0, 0⟩, 0)
    let x := xk.1
    let k := xk.2
    let w : Word := BitVec.ofNat 32 (((s.reg a).toNat ^^^ x.kp) + 65536 * (x.kp &&& 0xFFFF))
    Live s ∧ Canon s ∧ rowOf a = some (x, k) ∧ x.mask = true ∧ (a / 0x10000 = 0xC ∨ a / 0x10000 = 0x13) ∧ (w.toNat ^^^ (s.reg a).toNat) &&& (w.toNat / 65536) &&& x.kp ≠ 0 := by
  decide +kernel

/-- The hypotheses of clause `writeNoMask` hold together. -/
theorem test_met_writeNoMask :
    let b := State.reset
    let s := b
    let src : Src := Src.service
    let a := R.PCL_LIVE
    let xk := (rowOf a).getD (⟨"", 0, [], 0, 0, 0, 0, 0, [], false, [], 0, 0⟩, 0)
    let x := xk.1
    let k := xk.2
    let w : Word := 0xFFFF1234
    Live s ∧ rowOf a = some (x, k) ∧ x.mask = false ∧ a / 0x10000 ≠ 0x14 ∧ a / 0x10000 ≠ 0x15 := by
  decide +kernel

/-- The hypotheses of clause `writeNowhere` hold together. -/
theorem test_met_writeNowhere :
    let b := State.reset
    let s := b
    let src : Src := Src.service
    let a := 0x160000
    let w : Word := 0xFFFF1234
    Live s ∧ rowOf a = none ∧ a / 0x10000 ≠ 0x14 ∧ a / 0x10000 ≠ 0x15 := by
  decide +kernel

/-- The hypotheses of clause `writeNotSupervisor` hold together. -/
theorem test_met_writeNotSupervisor :
    let b := State.reset
    let s := b
    let src : Src := Src.service
    let a := R.SAFE_CTL
    let w : Word := 0xFFFF1234
    Live s ∧ src ≠ .supervisor ∧ (a / 0x10000 = 0x14 ∨ a / 0x10000 = 0x15) := by
  decide +kernel

/-- The hypotheses of clause `hostSlotOwned` hold together. -/
theorem test_met_hostSlotOwned :
    let b := State.reset
    let s := b
    let i := 0
    let a := 63
    let w : Word := BitVec.ofNat 32 (0x90001000 + ((s.reg (R.ENC_ACTL a)).toNat &&& 0x6000))
    Live s ∧ Canon s ∧ a < 64 ∧ w.toNat / 65536 ≠ 0 ∧ (w.toNat ^^^ (s.reg (R.ENC_ACTL a)).toNat) &&& (w.toNat / 65536) &&& 0x6000 = 0 := by
  decide +kernel

/-- The hypotheses of clause `poolNotQuiet` hold together. -/
theorem test_met_poolNotQuiet :
    let b := State.reset
    let s := b
    let src : Src := Src.service
    let k := 4
    let bb := 3
    let s := s.setF (F.FLD_BCTL_EN bb) 1
    let w : Word := BitVec.ofNat 32 (0x0FFF0040 + ((s.reg (R.POOL_PRIV k)).toNat &&& 0xF000))
    Live s ∧ Canon s ∧ k < 5 ∧ bb < 4 ∧ s.fld (F.FLD_BCTL_EN bb) = 1 ∧ w.toNat / 65536 ≠ 0 ∧ (w.toNat ^^^ (s.reg (R.POOL_PRIV k)).toNat) &&& (w.toNat / 65536) &&& 0xF000 = 0 := by
  decide +kernel

/-- The hypotheses of clause `spiWritten` hold together. -/
theorem test_met_spiWritten :
    let b := State.reset
    let s := b
    let gap := 200
    let w : Word := BitVec.ofNat 32 (0xF0F01234)
    let mosi : List Byte := [0x88] ++ beBytes 4 w.toNat ++ [BitVec.ofNat 8 (crc8 ([0x88] ++ beBytes 4 w.toNat)), 0]
    Live s ∧ Canon s ∧ 200 ≤ gap ∧ mosi = [0x88] ++ beBytes 4 w.toNat ++ [BitVec.ofNat 8 (crc8 ([0x88] ++ beBytes 4 w.toNat)), 0] := by
  decide +kernel

/-- The hypotheses of clause `spiWriteCut` hold together. -/
theorem test_met_spiWriteCut :
    let b := State.reset
    let s := b
    let gap := 200
    let mosi : List Byte := ([0x88, 1, 2, 3, 4, 5] : List Byte).take 6
    let s := s.setF F.SAFE_SPIERRCNT_CNT 65535
    Live s ∧ Canon s ∧ 200 ≤ gap ∧ 128 ≤ (mosi.getD 0 0).toNat ∧ mosi.length ≤ 6 := by
  decide +kernel

/-- The hypotheses of clause `spiReadState` hold together. -/
theorem test_met_spiReadState :
    let b := State.reset
    let s := b
    let gap := 200
    let mosi : List Byte := [0x18, 1, 2, 3, 4, 5, 6]
    Live s ∧ Canon s ∧ 200 ≤ gap ∧ mosi.length = 7 ∧ mosi.getD 0 0 = 0x18 := by
  decide +kernel

/-- The hypotheses of clause `spiTooSoon` hold together. -/
theorem test_met_spiTooSoon :
    let b := State.reset
    let s := b
    let mosi : List Byte := [0x88, 1]
    let cut := true
    let gap := 199
    Live s ∧ gap < 200 := by
  decide +kernel

/-- The hypotheses of clause `heartbeat` hold together. -/
theorem test_met_heartbeat :
    let b := State.reset
    let s := b
    let s := s.setT 100000000000
    let w : Word := BitVec.ofNat 32 (0x80001234)
    let s := ((s.setF F.SAFE_HBCNT_CNT (0xFFFFFFFF)).setF F.SAFE_STATE_SUPER 1).setF F.SAFE_CTL_HOLDREQ 0
    let s := s.setU fun u => { u with sys := { u.sys with causes := [5, 2] } }
    Live s ∧ Canon s ∧ w.toNat / 65536 ≠ 0 := by
  decide +kernel

/-- The hypotheses of clause `holdRequested` hold together. -/
theorem test_met_holdRequested :
    let b := State.reset
    let s := b
    let s := s.setF F.SAFE_STATE_SUPER 0
    let s := s.setU fun u => { u with sys := { u.sys with causes := [2] } }
    Live s ∧ Canon s := by
  decide +kernel

/-- The hypotheses of clause `holdReleased` hold together. -/
theorem test_met_holdReleased :
    let b := State.reset
    let s := b
    let s := (s.setF F.SAFE_STATE_LAPSED 0).setF F.SAFE_STATE_SUPER 1
    let s := s.setU fun u => { u with sys := { u.sys with causes := [5, 2] } }
    Live s ∧ Canon s ∧ s.fld F.SAFE_STATE_LAPSED = 0 := by
  decide +kernel

/-- The hypotheses of clause `heartbeatLapses` hold together. -/
theorem test_met_heartbeatLapses :
    let b := State.reset
    let s := b
    let s := ((((s.setF F.SAFE_CTL_HBEN 1).setF F.SAFE_STATE_LAPSED 0).setF F.SAFE_HBPER_PER 0).setF F.SAFE_STATE_SUPER 0).setU fun u => { u with elapsed := 1000004, safe := { u.safe with hbAt := 4 }, sys := { u.sys with causes := [] } }
    Live s ∧ Canon s ∧ s.fld F.SAFE_CTL_HBEN = 1 ∧ s.fld F.SAFE_STATE_LAPSED = 0 ∧ s.dev.u.safe.hbAt + max 1 (s.fld F.SAFE_HBPER_PER) * 1000000 ≤ s.dev.u.elapsed := by
  decide +kernel

/-- The hypotheses of clause `aliveCounts` hold together. -/
theorem test_met_aliveCounts :
    let b := State.reset
    let s := b
    let s := s.setR R.SYS_CORESTAT (0x3F : Word)
    let s := (s.setF F.SAFE_ALIVE_ALIVE 65535).setU fun u => { u with elapsed := 10000004, pwr := { u.pwr with aliveAt := 4 } }
    Live s ∧ Canon s ∧ CoreUp s 5 ∧ s.dev.u.pwr.aliveAt + 10000000 ≤ s.dev.u.elapsed := by
  decide +kernel

/-- The hypotheses of clause `serviceRead` hold together. -/
theorem test_met_serviceRead :
    let i := 20
    let b := State.reset
    let s := b
    let s := s.setT 100000000000
    let s := (s.setF F.SVC_CTL_EN 1).setU fun u => { u with svc := { answering := some 99999000000, rx := { idle := i } } }
    let a := R.PCL_CTL
    Live s ∧ Canon s ∧ SvcReady s i ∧ Plain a ∧ a % 4 = 0 := by
  decide +kernel

/-- The hypotheses of clause `serviceWriteDenied` hold together. -/
theorem test_met_serviceWriteDenied :
    let i := 16
    let b := State.reset
    let s := b
    let s := s.setT 100000000000
    let s := (s.setF F.SVC_CTL_EN 1).setU fun u => { u with svc := { answering := some 99999000000, rx := { idle := i } } }
    let s := s.setF F.SYS_MODE_CUR 0
    let a := 0xFFFFFFFC
    let w : Word := 0xFFFF0001
    Live s ∧ Canon s ∧ SvcReady s i ∧ a < 2 ^ 32 ∧ a % 4 = 0 ∧ s.mode ≠ 6 := by
  decide +kernel

/-- The hypotheses of clause `serviceWrite` hold together. -/
theorem test_met_serviceWrite :
    let i := 16
    let b := State.reset
    let s := b
    let s := s.setT 100000000000
    let s := (s.setF F.SVC_CTL_EN 1).setU fun u => { u with svc := { answering := some 99999000000, rx := { idle := i } } }
    let s := s.setF F.SYS_MODE_CUR 6
    let a := R.PCL_LEASE
    let xk := (rowOf a).getD (⟨"", 0, [], 0, 0, 0, 0, 0, [], false, [], 0, 0⟩, 0)
    let x := xk.1
    let k := xk.2
    let w : Word := BitVec.ofNat 32 (0xF0F01234)
    Live s ∧ Canon s ∧ SvcReady s i ∧ s.mode = 6 ∧ rowOf a = some (x, k) ∧ x.mask = true ∧ x.noThree = [] ∧ x.kp = 0 ∧ a / 0x10000 = 0xC ∧ a % 4 = 0 := by
  decide +kernel

/-- The hypotheses of clause `serviceBadCheck` hold together. -/
theorem test_met_serviceBadCheck :
    let i := 16
    let b := State.reset
    let s := b
    let s := s.setT 100000000000
    let s := (s.setF F.SVC_CTL_EN 1).setU fun u => { u with svc := { answering := some 99999000000, rx := { idle := i } } }
    let a := R.PCL_LEASE
    let c : Byte := BitVec.ofNat 8 (crc8 ([1] ++ leBytes 4 a) + 1)
    Live s ∧ Canon s ∧ SvcReady s i ∧ c.toNat ≠ crc8 ([1] ++ leBytes 4 a) := by
  decide +kernel

/-- The hypotheses of clause `serviceTimeout` hold together. -/
theorem test_met_serviceTimeout :
    let b := State.reset
    let s := b
    let s := s.setT 100000000000
    let s := (s.setF F.SVC_CTL_EN 1).setU fun u => { u with svc := { answering := some 99999000000, rx := { idle := 16 } } }
    let s := s.setU fun u => { u with svc := { u.svc with req := [0x5A, 1], lastAt := 99998999999 } }
    Live s ∧ Canon s ∧ s.fld F.SVC_CTL_EN = 1 ∧ s.dev.u.svc.req ≠ [] ∧ s.dev.u.svc.lastAt + 1000000 < s.dev.u.elapsed := by
  decide +kernel

/-- The hypotheses of clause `serviceNoTimeout` hold together. -/
theorem test_met_serviceNoTimeout :
    let b := State.reset
    let s := b.setT 100000000000
    let s := (s.setF F.SVC_CTL_EN 1).setU fun u => { u with svc := { req := [0x5A], lastAt := 99999000000 } }
    Live s ∧ (s.fld F.SVC_CTL_EN = 0 ∨ s.dev.u.svc.req = [] ∨ s.dev.u.elapsed ≤ s.dev.u.svc.lastAt + 1000000) := by
  decide +kernel

/-- The hypotheses of clause `serviceLate` hold together. -/
theorem test_met_serviceLate :
    let b := State.reset
    let s := b.setT 100000000000
    let i := 5
    let x : Byte := 1
    let s := (s.setF F.SVC_CTL_EN 1).setU fun u => { u with svc := { rx := { idle := 5 }, req := [0x5A, 2], lastAt := 99998000000, div := 900 } }
    Live s ∧ Canon s ∧ s.fld F.SVC_CTL_EN = 1 ∧ s.dev.u.svc.rx = { idle := i } ∧ s.dev.u.svc.req ≠ [] ∧ x ≠ 0x5A ∧ s.dev.u.svc.lastAt + 1000000 < s.svcByteAt i := by
  decide +kernel

/-- The hypotheses of clause `serviceOverlap` hold together. -/
theorem test_met_serviceOverlap :
    let b := State.reset
    let s := b.setT 100000000000
    let i := 40
    let a := 0x30004
    let s := (s.setF F.SVC_CTL_EN 1).setU fun u => { u with svc := { rx := { idle := 40 }, answering := some 100000000001 } }
    Live s ∧ Canon s ∧ s.fld F.SVC_CTL_EN = 1 ∧ SvcIdle s i ∧ s.svcRate i ≤ 9600 ∧ s.svcByteAt i < s.dev.u.svc.answering.getD 0 := by
  decide +kernel

/-- The hypotheses of clause `serviceOff` hold together. -/
theorem test_met_serviceOff :
    let b := State.reset
    let s := b.setT 100000000000
    let s := s.setF F.SVC_CTL_EN 0
    Live s ∧ s.fld F.SVC_CTL_EN = 0 := by
  decide +kernel

/-- The hypotheses of clause `serviceEnClear` hold together. -/
theorem test_met_serviceEnClear :
    let b := State.reset
    let s := b.setT 100000000000
    let s := (s.setF F.SVC_CTL_EN 1).setU fun u => { u with svc := { answering := some 100000000500, req := [0x5A], div := 77 } }
    Live s ∧ Canon s := by
  decide +kernel

/-- The hypotheses of clause `serviceFraming` hold together. -/
theorem test_met_serviceFraming :
    let b := State.reset
    let s := b
    let s := s.setT 100000000000
    let s := (s.setF F.SVC_CTL_EN 1).setU fun u => { u with svc := { answering := some 99999000000, rx := { idle := 16 } } }
    let s := s.setU fun u => { u with svc := { u.svc with rx := { n := some 151, bits := [true, false, true, true, false, false, false, true] } } }
    Live s ∧ Canon s ∧ s.fld F.SVC_CTL_EN = 1 ∧ s.dev.u.svc.rx.n = some 151 := by
  decide +kernel

/-- The hypotheses of clause `serviceNoFraming` hold together. -/
theorem test_met_serviceNoFraming :
    let b := State.reset
    let s := b.setT 100000000000
    let s := (s.setF F.SVC_CTL_EN 1).setU fun u => { u with svc := { rx := { n := some 150 } } }
    Live s ∧ (s.fld F.SVC_CTL_EN = 0 ∨ s.dev.u.svc.rx.n ≠ some 151) := by
  decide +kernel

/-- The hypotheses of clause `bypass` hold together. -/
theorem test_met_bypass :
    let b := State.reset
    let s := b
    let s := s.setU fun u => { u with jtag := { u.jtag with held := false, drives := true } }
    let s := s.setU fun u => { u with pwr := { u.pwr with resetNLow := true } }
    Supplied s ∧ s.dev.u.jtag.held = false := by
  decide +kernel

/-- The hypotheses of clause `idcode` hold together. -/
theorem test_met_idcode :
    let b := State.reset
    let s := b
    let s := s.setU fun u => { u with jtag := { u.jtag with held := false, drives := true } }
    let s := s.setU fun u => { u with pwr := { u.pwr with resetNLow := true } }
    Supplied s ∧ s.dev.u.jtag.held = false := by
  decide +kernel

/-- The hypotheses of clause `samplePreload` hold together. -/
theorem test_met_samplePreload :
    let b := State.reset
    let s := b
    let s := s.setU fun u => { u with jtag := { u.jtag with held := false, drives := true } }
    let cells : List (Ball × Nat) := [(.encoder 15, 2), (.svcTx, 0)]
    Supplied s ∧ s.dev.u.jtag.held = false := by
  decide +kernel

/-- The hypotheses of clause `extest` hold together. -/
theorem test_met_extest :
    let b := State.reset
    let s := b.setU fun u => { u with pwr := { u.pwr with stopped := false, resetNLow := true } }
    let s := s.setU fun u => { u with jtag := { u.jtag with held := false, drives := true } }
    let s := s.setU fun u => { u with pwr := { u.pwr with resetNLow := true } }
    Supplied s ∧ s.dev.u.jtag.held = false := by
  decide +kernel

/-- The hypotheses of clause `clamp` hold together. -/
theorem test_met_clamp :
    let b := State.reset
    let s := b.setU fun u => { u with pwr := { u.pwr with stopped := false, resetNLow := true } }
    let s := s.setU fun u => { u with jtag := { u.jtag with held := false, drives := true } }
    let s := s.setU fun u => { u with pwr := { u.pwr with resetNLow := true } }
    Supplied s ∧ s.dev.u.jtag.held = false := by
  decide +kernel

/-- The hypotheses of clause `jtagTestReset` hold together. -/
theorem test_met_jtagTestReset :
    let b := State.reset
    let s := b
    let low := true
    let s := s.setU fun u => { u with jtag := { u.jtag with held := false, drives := true } }
    Supplied s := by
  decide +kernel

/-- The hypotheses of clause `referenceLost` hold together. -/
theorem test_met_referenceLost :
    let b := State.reset
    let s := b.setU fun u => { u with pwr := { u.pwr with stopped := false, resetNLow := true } }
    let s := (s.setF F.CLK_STAT_REFLOST 0).setF F.CLK_LOSSCNT_CNT (0xFFFFFFFF)
    Supplied s ∧ Canon s ∧ s.fld F.CLK_STAT_REFLOST = 0 := by
  decide +kernel

/-- The hypotheses of clause `clockMeasure` hold together. -/
theorem test_met_clockMeasure :
    let b := State.reset
    let s := b
    let s := s.setT 100000000000
    let src : Src := Src.service
    let d := 63
    Live s ∧ Canon s ∧ d < 64 := by
  decide +kernel

/-- The hypotheses of clause `clockMeasured` hold together. -/
theorem test_met_clockMeasured :
    let b := State.reset
    let s := (b.setF F.CLK_STAT_REFLOST 0).setF F.CLK_STAT_LOCK 63
    let x := 4
    let f := 95998
    let d := 62
    let n := 96000
    let s := (s.setF F.CLK_MEASSEL_DOM d).setU fun u => { u with elapsed := 1000004, pwr := { u.pwr with measuring := some x } }
    Live s ∧ Canon s ∧ s.dev.u.pwr.measuring = some x ∧ x + 1000000 ≤ s.dev.u.elapsed ∧ s.fld F.CLK_MEASSEL_DOM = d ∧ (d, n) ∈ [(0, 25000), (1, 1500000), (6, 1500000), (23, 400000), (24, 200000), (25, 200000), (26, 100000), (27, 250000), (28, 100000), (29, 3200000), (30, 3200000), (31, 800000), (32, 800000), (33, 400000), (34, 400000), (35, 1000000), (38, 1000000), (51, 100000), (52, 100000), (53, 125000), (62, 96000), (63, 500)] ∧ s.fld F.CLK_STAT_REFLOST = 0 ∧ s.fld F.CLK_STAT_LOCK = 63 := by
  decide +kernel

/-- The hypotheses of clause `clockStopped` hold together. -/
theorem test_met_clockStopped :
    let b := State.reset
    let s := b
    let x := 4
    let f := 16777215
    let d := 3
    let s := ((s.setF F.CLK_MEASSEL_DOM (56 + d)).setF (F.FLD_BCTL_EN d) 0).setU fun u => { u with elapsed := 1000004, pwr := { u.pwr with measuring := some x } }
    Live s ∧ Canon s ∧ s.dev.u.pwr.measuring = some x ∧ x + 1000000 ≤ s.dev.u.elapsed ∧ s.fld F.CLK_MEASSEL_DOM = 56 + d ∧ d < 4 ∧ s.fld (F.FLD_BCTL_EN d) = 0 := by
  decide +kernel

/-- The hypotheses of clause `registersCommitted` hold together. -/
theorem test_met_registersCommitted :
    let b := State.reset
    let s := b
    let a := R.PWR_PFTHR
    let w : Word := 700
    let c : Commit := { obj := .registers [(a, w)], bank := 1, data := [1, 2, 3], step := 4, serves := none, reply := [] }
    let s := s.setU fun u => { u with nv := { u.nv with commit := some c, queued := [], fw := [{ state := 1 }, {}] } }
    Live s ∧ Canon s ∧ s.dev.u.nv.commit = some c ∧ c.step = 4 ∧ c.obj = .registers [(a, w)] ∧ s.dev.u.nv.queued = [] ∧ NvWhole s ∧ c.bank ≤ 1 ∧ c.shown < 5 := by
  decide +kernel

/-- The hypotheses of clause `firmwareCommitted` hold together. -/
theorem test_met_firmwareCommitted :
    let b := State.reset
    let s := b
    let c : Commit := { obj := .firmware, bank := 1, data := [1, 2, 3], step := 4, serves := none, reply := [] }
    let s := s.setU fun u => { u with nv := { u.nv with commit := some c, queued := [], fw := [{ state := 1 }, {}] } }
    Live s ∧ Canon s ∧ s.dev.u.nv.commit = some c ∧ c.step = 4 ∧ c.obj = .firmware ∧ s.dev.u.nv.queued = [] ∧ s.dev.u.nv.fw.length = 2 ∧ c.bank < 2 := by
  decide +kernel

/-- The hypotheses of clause `commitFailed` hold together. -/
theorem test_met_commitFailed :
    let b := State.reset
    let s := b
    let c : Commit := { obj := .firmware, bank := 1, data := [1, 2, 3], step := 4, serves := none, reply := [] }
    let s := s.setU fun u => { u with nv := { u.nv with commit := some c, queued := [], fw := [{ state := 1 }, {}] } }
    Live s ∧ Canon s ∧ s.dev.u.nv.commit = some c ∧ c.step = 4 ∧ s.dev.u.nv.queued = [] ∧ c.shown < 5 := by
  decide +kernel

/-- The hypotheses of clause `commitSealed` hold together. -/
theorem test_met_commitSealed :
    let ok := false
    let c : Commit := { obj := .firmware, bank := 1, data := [1, 2, 3], step := 4, serves := none, reply := [], shown := 5 }
    let s := State.reset.setU fun u => { u with nv := { u.nv with commit := some c } }
    Live s ∧ s.dev.u.nv.commit = some c ∧ (c.step ≠ 4 ∨ (5 ≤ c.shown ∧ ok = false)) := by
  decide +kernel

/-- The hypotheses of clause `storeOverRating` hold together. -/
theorem test_met_storeOverRating :
    let s := State.reset.setU fun u => { u with pwr := { u.pwr with stopped := false } }
    let mv := 40001
    Supplied s ∧ 40000 < mv := by
  decide +kernel

/-- The hypotheses of clause `lossStarts` hold together. -/
theorem test_met_lossStarts :
    let b := State.reset
    let s := b.setU fun u => { u with pwr := { u.pwr with stopped := false, resetNLow := true } }
    let mv := 0x2F8 * 10 - 1
    let s := s.setU fun u => { u with nv := { u.nv with tab := [⟨1, { regs := [] }⟩, ⟨0, {}⟩] }, pwr := { u.pwr with loss := none } }
    Supplied s ∧ NoLoss s ∧ mv < s.inForce F.PWR_PFTHR_THR * 10 := by
  decide +kernel

/-- The hypotheses of clause `lossDip` hold together. -/
theorem test_met_lossDip :
    let b := State.reset
    let s := b.setU fun u => { u with pwr := { u.pwr with stopped := false, resetNLow := true } }
    let mv := 0x2F8 * 10
    let s := s.setU fun u => { u with elapsed := 20007, nv := { u.nv with tab := [⟨1, { regs := [] }⟩, ⟨0, {}⟩] } }
    let l : PowerLoss := ⟨7, false, 0, false⟩
    let s := s.setU fun u => { u with pwr := { u.pwr with loss := some l } }
    Supplied s ∧ Canon s ∧ s.dev.u.pwr.loss = some l ∧ l.confirmed = false ∧ l.since + 20000 ≤ s.dev.u.elapsed ∧ s.inForce F.PWR_PFTHR_THR * 10 ≤ mv := by
  decide +kernel

/-- The hypotheses of clause `lossConfirmed` hold together. -/
theorem test_met_lossConfirmed :
    let b := State.reset
    let s := b.setU fun u => { u with pwr := { u.pwr with stopped := false, resetNLow := true } }
    let mv := 0x2F8 * 10 - 1
    let s := (s.setF F.PWR_STAT_HUREADY 0).setU fun u => { u with elapsed := 20007, nv := { u.nv with tab := [⟨1, { regs := [] }⟩, ⟨0, {}⟩] }, sys := { u.sys with started := true } }
    let l : PowerLoss := ⟨7, false, 0, false⟩
    let s := s.setU fun u => { u with pwr := { u.pwr with loss := some l } }
    Supplied s ∧ Canon s ∧ s.dev.u.pwr.loss = some l ∧ l.confirmed = false ∧ l.since + 20000 ≤ s.dev.u.elapsed ∧ mv < s.inForce F.PWR_PFTHR_THR * 10 ∧ s.inForce F.PWR_HUCTL_EN = 1 ∧ s.dev.u.sys.started = true ∧ TargetIdle s.dev.u.nv := by
  decide +kernel

/-- The hypotheses of clause `saveSealed` hold together. -/
theorem test_met_saveSealed :
    let b := State.reset
    let s := b
    let s := s.setT 100000000000
    let s := s.setU fun u => { u with sys := { u.sys with coldStart := false, restored := true }, pcl := { u.pcl with parcels := [zeros 128], lots := [(3, zeros 256)] } }
    let l : PowerLoss := ⟨7, true, 1, false⟩
    let s := s.setU fun u => { u with pwr := { u.pwr with loss := some l } }
    Live s ∧ Canon s ∧ NvWhole s ∧ s.dev.u.pwr.loss = some l ∧ l.confirmed = true ∧ l.done = false ∧ (l.set = 1 ∨ l.set = 2) := by
  decide +kernel

/-- The hypotheses of clause `storeEmpty` hold together. -/
theorem test_met_storeEmpty :
    let b := State.reset
    let s := b.setU fun u => { u with pwr := { u.pwr with stopped := false, resetNLow := true } }
    let s := s.setT 100000000000
    let l : PowerLoss := ⟨7, true, 1, true⟩
    let s := s.setU fun u => { u with pwr := { u.pwr with loss := some l } }
    Supplied s ∧ Canon s ∧ s.dev.u.pwr.loss = some l ∧ l.confirmed = true := by
  decide +kernel

/-- The hypotheses of clause `vinStops` hold together. -/
theorem test_met_vinStops :
    let b := State.reset
    let s := b.setU fun u => { u with pwr := { u.pwr with stopped := false, resetNLow := true } }
    let s := s.setU fun u => { u with nv := { u.nv with tab := [⟨1, { regs := [(R.PWR_HUCTL, (0xC8 : Word))] }⟩, ⟨0, {}⟩] } }
    let mv := 6999
    Supplied s ∧ Canon s ∧ s.inForce F.PWR_HUCTL_EN = 0 ∧ mv < 7000 := by
  decide +kernel

/-- The hypotheses of clause `vinHolds` hold together. -/
theorem test_met_vinHolds :
    let b := State.reset
    let s := b.setU fun u => { u with pwr := { u.pwr with stopped := false, resetNLow := true } }
    let s := s.setU fun u => { u with nv := { u.nv with tab := [⟨1, { regs := [(R.PWR_HUCTL, (0xC8 : Word))] }⟩, ⟨0, {}⟩] } }
    let mv := 7000
    Supplied s ∧ (s.inForce F.PWR_HUCTL_EN = 1 ∨ 7000 ≤ mv) := by
  decide +kernel

/-- The hypotheses of clause `chargeEnds` hold together. -/
theorem test_met_chargeEnds :
    let b := State.reset
    let s := b.setU fun u => { u with pwr := { u.pwr with stopped := false, resetNLow := false } }
    let mv := 36200
    let s := ((s.setF F.PWR_STAT_HUSTATE 0).setF F.PWR_STAT_QBASED 0).setU fun u => { u with nv := { u.nv with tab := [⟨1, { regs := [] }⟩, ⟨0, {}⟩] }, pwr := { u.pwr with rebasePending := false, chargeFromMv := 31201, q := 77 } }
    Supplied s ∧ Canon s ∧ s.fld F.PWR_STAT_HUSTATE = 0 ∧ s.inForce F.PWR_HUCTL_EN = 1 ∧ s.dev.u.pwr.rebasePending = false ∧ mv < s.dev.u.pwr.chargeFromMv + 5000 ∧ s.dev.u.pwr.resetNLow = false ∧ 35800 ≤ mv ∧ mv ≤ 36200 := by
  decide +kernel

/-- The hypotheses of clause `chargeRebases` hold together. -/
theorem test_met_chargeRebases :
    let b := State.reset
    let s := b.setU fun u => { u with pwr := { u.pwr with stopped := false, resetNLow := false } }
    let mv := 35800
    let s := (s.setF F.PWR_STAT_HUSTATE 0).setU fun u => { u with nv := { u.nv with tab := [⟨1, { regs := [] }⟩, ⟨0, {}⟩] }, pwr := { u.pwr with rebasePending := true, chargeFromMv := 31201 } }
    Supplied s ∧ Canon s ∧ s.fld F.PWR_STAT_HUSTATE = 0 ∧ s.inForce F.PWR_HUCTL_EN = 1 ∧ s.dev.u.pwr.rebasePending = true ∧ s.dev.u.pwr.resetNLow = false ∧ 35800 ≤ mv ∧ mv ≤ 36200 := by
  decide +kernel

/-- The hypotheses of clause `chargeGoesOn` hold together. -/
theorem test_met_chargeGoesOn :
    let b := State.reset
    let s := b.setU fun u => { u with pwr := { u.pwr with stopped := false } }
    let mv := 35799
    Supplied s ∧ (s.dev.u.pwr.resetNLow = true ∨ mv < 35800 ∨ 36200 < mv ∨ s.fld F.PWR_STAT_HUSTATE ≠ 0) := by
  decide +kernel

/-- The hypotheses of clause `estimated` hold together. -/
theorem test_met_estimated :
    let b := State.reset
    let s := b.setU fun u => { u with pwr := { u.pwr with stopped := false, resetNLow := false } }
    let v := 3999
    let ua := 1234567
    let s := ((s.setF F.PWR_STAT_QBASED 1).setF F.PWR_STAT_HUSTATE 0).setU fun u => { u with elapsed := 1000004, pwr := { u.pwr with estAt := 4, q := 0 } }
    Supplied s ∧ Canon s ∧ s.dev.u.pwr.resetNLow = false ∧ s.fld F.PWR_STAT_QBASED = 1 ∧ s.dev.u.pwr.estAt + 1000000 ≤ s.dev.u.elapsed ∧ v ≤ 4000 := by
  decide +kernel

/-- The hypotheses of clause `estimatedUnknown` hold together. -/
theorem test_met_estimatedUnknown :
    let b := State.reset
    let s := b.setU fun u => { u with pwr := { u.pwr with stopped := false, resetNLow := false } }
    let v := 3999
    let ua := 1234567
    let s := ((s.setF F.PWR_STAT_QBASED 1).setF F.PWR_STAT_HUSTATE 0).setU fun u => { u with elapsed := 1000004, pwr := { u.pwr with estAt := 4, q := 0 } }
    let s := (s.setF F.PWR_STAT_QBASED 0).setU fun u => { u with pwr := { u.pwr with q := 0 } }
    Supplied s ∧ Canon s ∧ s.dev.u.pwr.estAt + 1000000 ≤ s.dev.u.elapsed ∧ v ≤ 4000 ∧ (s.dev.u.pwr.resetNLow = true ∨ s.fld F.PWR_STAT_QBASED = 0) := by
  decide +kernel

/-- The hypotheses of clause `estimatesDiffer` hold together. -/
theorem test_met_estimatesDiffer :
    let b := State.reset
    let s := b.setU fun u => { u with pwr := { u.pwr with stopped := false, resetNLow := true } }
    let s := (((s.setF F.PWR_STAT_QBASED 1).setF F.PWR_HUE_EV 1000).setF F.PWR_HUE_EQ 849).setU fun u => { u with elapsed := 100000004, pwr := { u.pwr with loss := none, cmpDue := 100000004, rebasePending := false } }
    Supplied s ∧ Canon s ∧ s.fld F.PWR_STAT_QBASED = 1 ∧ NoLoss s ∧ s.dev.u.pwr.cmpDue ≤ s.dev.u.elapsed ∧ s.dev.u.elapsed < s.dev.u.pwr.cmpDue + 100000000 ∧ 15 * max (s.fld F.PWR_HUE_EV) (s.fld F.PWR_HUE_EQ) < 100 * (max (s.fld F.PWR_HUE_EV) (s.fld F.PWR_HUE_EQ) - min (s.fld F.PWR_HUE_EV) (s.fld F.PWR_HUE_EQ)) := by
  decide +kernel

/-- The hypotheses of clause `estimatesAgree` hold together. -/
theorem test_met_estimatesAgree :
    let b := State.reset
    let s := b.setU fun u => { u with pwr := { u.pwr with stopped := false, resetNLow := true } }
    let s := (((s.setF F.PWR_STAT_QBASED 1).setF F.PWR_HUE_EV 1000).setF F.PWR_HUE_EQ 850).setU fun u => { u with elapsed := 100000004, pwr := { u.pwr with loss := none, cmpDue := 100000004, rebasePending := false } }
    Supplied s ∧ s.fld F.PWR_STAT_QBASED = 1 ∧ NoLoss s ∧ s.dev.u.pwr.cmpDue ≤ s.dev.u.elapsed ∧ s.dev.u.elapsed < s.dev.u.pwr.cmpDue + 100000000 ∧ 100 * (max (s.fld F.PWR_HUE_EV) (s.fld F.PWR_HUE_EQ) - min (s.fld F.PWR_HUE_EV) (s.fld F.PWR_HUE_EQ)) ≤ 15 * max (s.fld F.PWR_HUE_EV) (s.fld F.PWR_HUE_EQ) := by
  decide +kernel

/-- The hypotheses of clause `alarmSourceWrite` hold together. -/
theorem test_met_alarmSourceWrite :
    let b := State.reset
    let s := b
    let src : Src := .host 1
    let a := 64
    let s := s.setF (F.ENC_ACTL_SRC a) 3
    let w : Word := BitVec.ofNat 32 ((17 <<< 8) ||| ((s.reg (R.ENC_ACTL a)).toNat &&& 0x6000) ||| 65536 * 0xFFFF)
    Live s ∧ Canon s ∧ a < 512 ∧ (64 ≤ a ∨ srcHost src = false) ∧ (w.toNat ^^^ (s.reg (R.ENC_ACTL a)).toNat) &&& (w.toNat / 65536) &&& 0x6000 = 0 ∧ 17 ≤ bits ((w.toNat &&& (w.toNat / 65536)) ||| ((s.reg (R.ENC_ACTL a)).toNat &&& (0xFFFF ^^^ (w.toNat / 65536)))) 12 8 := by
  decide +kernel

/-- The hypotheses of clause `alarmSourceArm` hold together. -/
theorem test_met_alarmSourceArm :
    let b := State.reset
    let s := b
    let src : Src := .host 1
    let a := 64
    let s := s.setF (F.ENC_ACTL_SRC a) 3
    let w : Word := BitVec.ofNat 32 ((17 <<< 8) ||| ((s.reg (R.ENC_ACTL a)).toNat &&& 0x6000) ||| 65536 * 0xFFFF)
    Live s ∧ Canon s ∧ a < 512 ∧ (64 ≤ a ∨ srcHost src = false) ∧ (w.toNat ^^^ (s.reg (R.ENC_ACTL a)).toNat) &&& (w.toNat / 65536) &&& 0x6000 = 0 ∧ 17 ≤ bits ((w.toNat &&& (w.toNat / 65536)) ||| ((s.reg (R.ENC_ACTL a)).toNat &&& (0xFFFF ^^^ (w.toNat / 65536)))) 12 8 := by
  decide +kernel

/-- The hypotheses of clause `offWrite` hold together. -/
theorem test_met_offWrite :
    let b := State.reset
    let s := b
    let src : Src := Src.service
    let d := 119
    let s := s.setF (domField d) 0
    let a := R.VDRV_HOLDV 31
    let xk := (rowOf a).getD (⟨"", 0, [], 0, 0, 0, 0, 0, [], false, [], 0, 0⟩, 0)
    let x := xk.1
    let k := xk.2
    let w : Word := 0xFFFF1234
    Live s ∧ rowOf a = some (x, k) ∧ regDomain x a = some d ∧ ¬ s.powered d := by
  decide +kernel

/-- The hypotheses of clause `offRead` hold together. -/
theorem test_met_offRead :
    let b := State.reset
    let i := 1
    let h : Hdr := someHdr 0
    let s := hostState b { sid := 77, st := .opened }
    let d := 119
    let s := s.setF (domField d) 0
    let a := R.VDRV_HOLDV 31
    let xk := (rowOf a).getD (⟨"", 0, [], 0, 0, 0, 0, 0, [], false, [], 0, 0⟩, 0)
    let x := xk.1
    let k := xk.2
    let p : List Byte := leBytes 4 a
    Ready s i 0x0201 h p ∧ leAt p 0 4 % 4 = 0 ∧ rowOf (leAt p 0 4) = some (x, k) ∧ regDomain x (leAt p 0 4) = some d ∧ ¬ s.powered d := by
  decide +kernel

/-- The hypotheses of clause `offReadBlock` hold together. -/
theorem test_met_offReadBlock :
    let b := State.reset
    let i := 1
    let h : Hdr := someHdr 0
    let s := hostState b { sid := 77, st := .opened }
    let d := 119
    let s := s.setF (domField d) 0
    let a := R.VDRV_HOLDV 31
    let xk := (rowOf a).getD (⟨"", 0, [], 0, 0, 0, 0, 0, [], false, [], 0, 0⟩, 0)
    let x := xk.1
    let k := xk.2
    let p : List Byte := leBytes 4 a ++ leBytes 2 1 ++ zeros 2
    Ready s i 0x0203 h p ∧ leAt p 4 2 = 1 ∧ leAt p 6 2 = 0 ∧ leAt p 0 4 % 4 = 0 ∧ rowOf (leAt p 0 4) = some (x, k) ∧ regDomain x (leAt p 0 4) = some d ∧ ¬ s.powered d := by
  decide +kernel

/-- The hypotheses of clause `offWriteCommand` hold together. -/
theorem test_met_offWriteCommand :
    let b := State.reset
    let i := 1
    let h : Hdr := someHdr 0
    let s := hostState b { sid := 77, st := .opened }
    let d := 119
    let s := s.setF (domField d) 0
    let a := R.VDRV_HOLDV 31
    let xk := (rowOf a).getD (⟨"", 0, [], 0, 0, 0, 0, 0, [], false, [], 0, 0⟩, 0)
    let x := xk.1
    let k := xk.2
    let p : List Byte := leBytes 4 a ++ leBytes 4 0xFFFF1234
    Ready s i 0x0202 h p ∧ leAt p 0 4 % 4 = 0 ∧ rowOf (leAt p 0 4) = some (x, k) ∧ regDomain x (leAt p 0 4) = some d ∧ ¬ s.powered d := by
  decide +kernel

/-- The hypotheses of clause `offServiceRead` hold together. -/
theorem test_met_offServiceRead :
    let b := State.reset
    let s := b
    let i := 17
    let s := s.setT 100000000000
    let s := (s.setF F.SVC_CTL_EN 1).setU fun u => { u with svc := { answering := some 99999000000, rx := { idle := i } } }
    let d := 119
    let s := s.setF (domField d) 0
    let a := R.VDRV_HOLDV 31
    let xk := (rowOf a).getD (⟨"", 0, [], 0, 0, 0, 0, 0, [], false, [], 0, 0⟩, 0)
    let x := xk.1
    let k := xk.2
    Live s ∧ Canon s ∧ SvcReady s i ∧ a % 4 = 0 ∧ rowOf a = some (x, k) ∧ regDomain x a = some d ∧ ¬ s.powered d := by
  decide +kernel

/-- The hypotheses of clause `pairRefused` hold together. -/
theorem test_met_pairRefused :
    let b := State.reset
    let src : Src := .host 1
    let p := 15
    let w : Word := 0x80008000
    let s := b.setF (F.VDRV_PROF_TYPE (2 * p + 1)) 2
    Live s ∧ Canon s ∧ p < 16 ∧ bitAt (w.toNat / 65536) p = true ∧ bitAt w.toNat p ≠ bitAt (s.reg R.VDRV_PAIR).toNat p ∧ (s.fld (F.VDRV_PROF_TYPE (2 * p)) ≠ 0 ∨ s.fld (F.VDRV_PROF_TYPE (2 * p + 1)) ≠ 0) := by
  decide +kernel

/-- The hypotheses of clause `powerOverRating` hold together. -/
theorem test_met_powerOverRating :
    let mv := 70001
    70000 < mv := by
  decide +kernel

end Sys2Proof.Machine
end

section
/-!
PROOF. Proofs/Canonical.lean: the register file keeps its canonical form. It changes by `Upd.apply` alone (wf_set), so a program
keeps it by induction on the program, and every command runs one program on the block.
-/
namespace Sys2Proof.Machine

/-- An update keeps the register file canonical. -/
theorem apply_wf (x : Upd) (b : Block) (h : b.regs.wf = true) : (x.apply b).regs.wf = true := by
  cases x with
  | reg a w => exact wf_set b.regs a w h
  | units f => exact h
  | parity f => exact h

/-- A program that ends leaves the register file canonical. -/
theorem run_wf (p : Prog) {b b' : Block} (h : b.regs.wf = true) (hr : p.run b = .ok b') : b'.regs.wf = true := by
  induction p generalizing b with
  | done => cases hr; exact h
  | stop f => cases hr
  | upd x k ih => exact ih (apply_wf x b h) hr
  | read k ih => exact ih b h hr

/-- What an operation gives from a canonical register file is canonical. -/
theorem gives_wf {α : Type} {m : Op α} {b b' : Block} {a : α} (h : b.regs.wf = true) (hm : Gives m b a b') :
    b'.regs.wf = true := run_wf (m fun _ => Prog.done) h (hm fun _ => Prog.done)

/-- The ways in which a command reaches the block: at any time, with supply, or with supply and out of reset. -/
inductive RunsOn (s : State) : Host.Outcome State Fault Refusal → Prop where
  | live (m : Op Unit) : RunsOn s (onLive m s)
  | dev (m : Op Unit) : RunsOn s (onDev m s)
  | board (m : Op Unit) : RunsOn s (onBoard m s)

/-- Every command runs one operation on the block. -/
theorem exec_runsOn (c : Instr) (s : State) : RunsOn s (exec c s) := by
  cases c <;> constructor

theorem onBoard_canon {m : Op Unit} {s t : State} (hs : Canon s) (h : onBoard m s = .next t) : Canon t := by
  unfold onBoard at h
  split at h
  next b hb => cases h; exact run_wf _ hs hb
  next => cases h

theorem onDev_canon {m : Op Unit} {s t : State} (hs : Canon s) (h : onDev m s = .next t) : Canon t := by
  unfold onDev at h
  split at h
  · cases h; exact hs
  · exact onBoard_canon hs h

theorem onLive_canon {m : Op Unit} {s t : State} (hs : Canon s) (h : onLive m s = .next t) : Canon t := by
  unfold onLive at h
  split at h
  · cases h; exact hs
  · exact onDev_canon hs h

/-- A command that answers a next state leaves its register file canonical. -/
theorem exec_canon {c : Instr} {s t : State} (hs : Canon s) (h : exec c s = .next t) : Canon t := by
  have hr : ∀ o, RunsOn s o → o = .next t → Canon t := fun o hr ho => by
    cases hr with
    | live m => exact onLive_canon hs ho
    | dev m => exact onDev_canon hs ho
    | board m => exact onBoard_canon hs ho
  exact hr _ (exec_runsOn c s) h

/-- Settles O5: a tick and a command each run one program on the block, and a program changes registers by stores alone. -/
theorem registersStayCanonical : Obligations.RegistersStayCanonical := by
  unfold Obligations.RegistersStayCanonical
  intro s t hs h
  unfold step at h
  split at h
  next c l _ => exact exec_canon (s := { s with pending := l }) hs h
  next => exact onBoard_canon hs h

end Sys2Proof.Machine
end

section
/-!
PROOF. Proofs/Refuted.lean: five statements that fail, each by one state on which the model's own answer contradicts a clause.
-/
namespace Sys2Proof.Machine

/-! ### States -/

/-- A state with a register stored. -/
def State.storing (s : State) (a : Nat) (w : Word) : State := { s with dev := s.dev.setReg a w }

/-- A state with a register field stored. -/
def State.storingField (s : State) (f : RF) (v : Nat) : State := s.storing f.reg (f.put (s.reg f.reg) v)

/-- A state with its units' data changed. -/
def State.mapUnits (s : State) (f : Units → Units) : State := { s with dev := { s.dev with u := f s.dev.u } }

/-- After a reset, with every core up. -/
def coresUpState : State := State.reset.storing R.SYS_CORESTAT 0x3F

/-- As `coresUpState`, with the active host port on, and session 77 opened in record 1 by a host on the module's own network. -/
def openHostState : State :=
  let s := (coresUpState.storing R.CMD_IP 0xC0A80064).storingField F.CMD_PFX_PFX 24
  let s := s.storingField (domField (128 + s.fld (F.NET_LSTAT_ACTIVE 0))) 1
  s.mapUnits fun u => { u with
    net := { u.net with links := setAt u.net.links 0 {} },
    cmd := { u.cmd with sessions := [{}, { sid := 77, st := .opened, ip := 0xC0A80003, port := 5001, hop := some 0xC0A80003, grant := 8, h := 900, txSeq := 7 }, {}, {}] } }

/-- The header of that host's next packet, of class `c`, with tag 9. -/
def openHostHdr (c : Nat) : Hdr := ⟨0xC0A80003, 5001, 77, 905, c * 8192 + 9, false⟩

/-- What `f` shows of the next state that command `c` answers from `s`. -/
def shownAfter {α : Type} (f : State → α) (c : Instr) (s : State) : Option α :=
  match exec c s with
  | .next t => some (f t)
  | _ => none

/-- A command that completes does so in a state that shows what is shown after it. -/
theorem does_shown {α : Type} {f : State → α} {c : Instr} {s : State} {Q : State → Prop} {x : α} (hd : Does c s Q)
    (h : shownAfter f c s = some x) : ∃ t, Q t ∧ f t = x := by
  obtain ⟨t, he, -, hq⟩ := hd
  exact ⟨t, hq, by simpa [shownAfter, he] using h⟩

/-! ### Modes: an enabled sense lead -/

/-- IDLE with a transition to STORE accepted, where the one enabled input of field group 0 is the sense lead of a four-wire input. -/
def senseLeadState : State :=
  (((coresUpState.storingField F.SYS_MODE_CUR 2).storingField (F.AFF_ICFG_WIRE 0) 2).storingField (F.AFF_ICFG_EN 1) 1).mapUnits
    fun u => { u with sys := { u.sys with job := some ⟨5, false, none, 1⟩ } }

theorem senseLead_meets : Live senseLeadState ∧ Canon senseLeadState ∧ NoLoss senseLeadState ∧ CoreUp senseLeadState 5 ∧
    senseLeadState.mode = 2 := by decide +kernel

theorem senseLead_wanted : senseLeadState.modePowers 5 32 = true := by decide +kernel

theorem senseLead_off : shownAfter (fun t => t.fld (domField 32)) .modeTransition senseLeadState = some 0 := by decide +kernel

/-- Refutes O26: a field group whose only enabled input is a sense lead stays off when STORE is entered, and the clause of the
entries from IDLE wants every group with an enabled input on. -/
theorem not_modeRequests : ¬ Obligations.ModeRequests := by
  intro h
  unfold Obligations.ModeRequests at h
  obtain ⟨-, -, -, -, -, enters, -⟩ := h
  obtain ⟨hlive, hcanon, hloss, hup, hmode⟩ := senseLead_meets
  obtain ⟨t, ⟨-, -, -, -, -, -, hpow⟩, hoff⟩ := does_shown
    (enters senseLeadState ⟨5, false, none, 1⟩ 5 hlive hcanon hloss hup rfl rfl (.inl ⟨hmode, by decide⟩) (by decide)) senseLead_off
  have hon : t.fld (domField 32) = 1 := (hpow 32 (by decide)).2 senseLead_wanted
  omega

/-! ### Register access: a write that opens a commit -/

/-- WRITE of 1 to the one bit of RNG_BOUND 0 that the mask selects. -/
def boundWrite : List Byte := leBytes 4 (R.RNG_BOUND 0) ++ leBytes 4 0xFFFF0001

theorem boundWrite_meets : Ready openHostState 1 0x0202 (openHostHdr 0) boundWrite ∧
    openHostState.stores (leAt boundWrite 0 4) (leAt boundWrite 4 4) = true := by decide +kernel

theorem boundWrite_window : ¬ inWindows [leAt boundWrite 0 4 / 0x10000, 4, 5, 0x11] R.BOOT_JOURNAL := by
  unfold inWindows
  decide

theorem boundWrite_journal : shownAfter (fun t => t.reg R.BOOT_JOURNAL) (.write (openHostHdr 0) boundWrite) openHostState = some 0x1E0 := by
  decide +kernel

theorem openHost_journal : openHostState.reg R.BOOT_JOURNAL = 0 := by decide +kernel

/-- Refutes O33: a stored write of RNG_BOUND is committed to NV, which BOOT_JOURNAL shows, and the clause of a stored write wants
every register outside the unit's window and those of CMD, NET and POOL kept. -/
theorem not_registerCommands : ¬ Obligations.RegisterCommands := by
  intro h
  unfold Obligations.RegisterCommands at h
  obtain ⟨-, -, -, -, -, -, -, -, -, -, -, -, -, -, -, -, stored, -⟩ := h
  obtain ⟨hready, hstores⟩ := boundWrite_meets
  obtain ⟨t, ⟨-, -, hkept⟩, hjournal⟩ :=
    does_shown (stored openHostState 1 (openHostHdr 0) boundWrite hready hstores) boundWrite_journal
  have := hkept R.BOOT_JOURNAL boundWrite_window
  simp [hjournal, openHost_journal] at this

/-! ### Paths: a switch-over of the host's own link -/

/-- SHUFFLE_NOW of link 0, the host's. -/
def hostShuffle : List Byte := [BitVec.ofNat 8 0, 0, 0, 0]

theorem hostShuffle_meets : Ready openHostState 1 0x0D02 (openHostHdr 1) hostShuffle ∧ openHostState.dev.u.net.links.length = 6 ∧
    openHostState.fld (F.NET_LSTAT_SWITCHING 0) = 0 ∧ (openHostState.dev.u.net.links.getD 0 {}).want = false ∧
    (if openHostState.fld (F.NET_LSTAT_ACTIVE 0) = 0 then openHostState.fld (F.NET_LSTAT_VB 0) else openHostState.fld (F.NET_LSTAT_VA 0)) ≠ 2 := by
  decide +kernel

theorem hostShuffle_waits : shownAfter (fun t => (t.sess 1).held) (.shuffleNow (openHostHdr 1) hostShuffle) openHostState = some [] := by
  decide +kernel

/-- Refutes O41: a SHUFFLE_NOW of the host link asks for the switch-over that holds up its own completion, which waits in the
session's queue, and the clause of an accepted SHUFFLE_NOW wants it sent and held. -/
theorem not_pathCommands : ¬ Obligations.PathCommands := by
  intro h
  unfold Obligations.PathCommands at h
  obtain ⟨-, -, -, -, -, -, -, shuffle, -⟩ := h
  obtain ⟨hready, hlinks, hswitching, hwant, hstandby⟩ := hostShuffle_meets
  obtain ⟨t, ⟨-, ⟨x, hx, -⟩, -⟩, hheld⟩ := does_shown
    (shuffle openHostState 1 (openHostHdr 1) hostShuffle 0 hready rfl (by decide) hlinks hswitching hwant hstandby) hostShuffle_waits
  simp [hheld] at hx

/-! ### Field inputs: no room for the acknowledgement -/

/-- An ACK that waits for the port. -/
def waitingAck : QFrame := ⟨⟨0, 0, none, 2, 0, 0, 0, 0, 0, [], 0⟩, 0, none, false, none, none⟩

/-- `openHostState` with the 64 buffers of the ACK staging taken by refusals of openings that wait for a way to their hosts. -/
def acksWaitState : State :=
  openHostState.mapUnits fun u => { u with cmd := { u.cmd with outq := List.replicate 64 waitingAck } }

/-- An empty linearisation table with its CRC. -/
def emptyTable : List Byte := patch (zeros 128) 0x7C (leBytes 4 (crc32 (zeros 128)))

/-- LIN_LOAD of the empty table 40. -/
def emptyTableLoad : List Byte := [BitVec.ofNat 8 40, 0, 0, 0] ++ emptyTable

theorem emptyTableLoad_meets : Ready acksWaitState 1 0x0A02 (openHostHdr 2) emptyTableLoad ∧ emptyTable.length = 128 ∧
    acksWaitState.dev.u.nv.commit = none ∧ linCheck emptyTable = St.ok := by decide +kernel

theorem emptyTableLoad_silent : shownAfter (fun t => t.dev.u.out) (.linLoad (openHostHdr 2) emptyTableLoad) acksWaitState = some [] := by
  decide +kernel

/-- Refutes O39: with the ACK staging full the module sends no ACK, and the clause of an accepted LIN_LOAD wants one. -/
theorem not_driveAndInputCommands : ¬ Obligations.DriveAndInputCommands := by
  intro h
  unfold Obligations.DriveAndInputCommands at h
  obtain ⟨-, -, -, -, load, -⟩ := h
  obtain ⟨hready, hlen, hcommit, hcheck⟩ := emptyTableLoad_meets
  obtain ⟨t, ⟨⟨-, hsent, -⟩, -⟩, hout⟩ := does_shown
    (load acksWaitState 1 (openHostHdr 2) emptyTableLoad 40 emptyTable hready rfl (by decide) hlen hcommit hcheck) emptyTableLoad_silent
  simp [Sent, hout] at hsent

/-! ### Cores: a mode request that waits -/

/-- RT1 is down, and a request for CALIBRATE waits for it. -/
def askWaitsState : State :=
  (coresUpState.storing R.SYS_CORESTAT 0x1F).mapUnits fun u => { u with sys := { u.sys with started := true, asks := [⟨1, true, none⟩] } }

theorem askWaits_meets : Live askWaitsState ∧ Canon askWaitsState ∧ ¬ CoreUp askWaitsState 5 ∧ askWaitsState.dev.u.sys.started = true ∧
    askWaitsState.dev.u.sys.holdEventOwed = false ∧ (∀ x ∈ askWaitsState.dev.u.net.links, x.owed = []) ∧
    askWaitsState.dev.u.thm.owed = 0 ∧ (∀ h ∈ askWaitsState.dev.u.reco.hand, h.poisoned = false) := by decide +kernel

theorem askWaits_taken : shownAfter (fun t => t.dev.u.sys.asks.length) (.coreRestartComplete 5) askWaitsState = some 0 := by decide +kernel

/-- Refutes O55: RT1, when it runs again, takes the mode requests that waited for it, and the clause of a restart with nothing
owed wants the units' data unchanged without excluding them. -/
theorem not_coresAndMemory : ¬ Obligations.CoresAndMemory := by
  intro h
  unfold Obligations.CoresAndMemory at h
  obtain ⟨-, -, -, -, -, restart, -⟩ := h
  obtain ⟨hlive, hcanon, hdown, hstarted, hevent, hlinks, hdemands, hhand⟩ := askWaits_meets
  obtain ⟨t, ⟨-, -, hu, -⟩, hasks⟩ := does_shown
    (restart askWaitsState 5 hlive hcanon (by decide) (by decide) hdown hstarted hevent hlinks hdemands hhand) askWaits_taken
  rw [hu] at hasks
  exact absurd hasks (by decide)

end Sys2Proof.Machine
end

section
/-!
PROOF. Proofs/Fields.lean: what fields and bits of registers read after a store, and how an operation's block becomes the state in
which a command completes.
-/
namespace Sys2Proof.Machine

/-! ### Fields of a word -/

theorem of_testBit (f : RF) (w : Word) (i : Nat) :
    (f.of w).testBit i = (decide (i < f.hi + 1 - f.lo) && w.toNat.testBit (f.lo + i)) := by
  simp [RF.of, bits, Nat.testBit_mod_two_pow, Nat.testBit_shiftRight]

theorem put_testBit (f : RF) (w : Word) (v i : Nat) (h : f.hi < 32) (hlo : f.lo ≤ f.hi) :
    (f.put w v).toNat.testBit i = if f.lo ≤ i ∧ i ≤ f.hi then v.testBit (i - f.lo) else w.toNat.testBit i := by
  have hw : 32 ≤ i → w.toNat.testBit i = false := fun hi =>
    Nat.testBit_lt_two_pow (lt_of_lt_of_le w.isLt (Nat.pow_le_pow_right (by decide) hi))
  have hones : (0xFFFFFFFF : Nat).testBit i = decide (i < 32) := Nat.testBit_two_pow_sub_one (n := 32) (i := i)
  have hmask : ((2 ^ (f.hi + 1 - f.lo) - 1) <<< f.lo).testBit i = decide (f.lo ≤ i ∧ i ≤ f.hi) := by
    rw [Nat.testBit_shiftLeft, Nat.testBit_two_pow_sub_one, ← Bool.decide_and]
    exact decide_eq_decide.2 (by omega)
  simp only [RF.put, BitVec.toNat_ofNat, Nat.testBit_mod_two_pow, Nat.testBit_or, Nat.testBit_and, Nat.testBit_xor, hmask, hones,
    Nat.testBit_shiftLeft]
  by_cases hin : f.lo ≤ i ∧ i ≤ f.hi
  · have : i < 32 := by omega
    simp [hin, this]
  · by_cases h32 : i < 32
    · simp [hin, h32]
    · simp [hin, h32, hw (by omega)]

theorem of_put_same (f : RF) (w : Word) (v : Nat) (h : f.hi < 32) (hlo : f.lo ≤ f.hi) : f.of (f.put w v) = v % 2 ^ (f.hi + 1 - f.lo) := by
  refine Nat.eq_of_testBit_eq fun i => ?_
  rw [of_testBit, put_testBit f w v _ h hlo, Nat.testBit_mod_two_pow]
  by_cases hi : i < f.hi + 1 - f.lo
  · have : f.lo + i ≤ f.hi := by omega
    simp [hi, this]
  · simp [hi]

/-- A field of one bit is that bit. -/
theorem of_bit_ne_zero (a i : Nat) (w : Word) : ((RF.mk a i i).of w != 0) = bitAt w.toNat i := by
  have h : i + 1 - i = 1 := by omega
  simp only [RF.of, bits, h, bitAt, Nat.testBit, Nat.pow_one, Nat.and_comm 1, Nat.and_one_is_mod]

/-! ### Registers after a store -/

theorem regFit_bit (a : Nat) (w : Word) (j : Nat) :
    bitAt (regFit a w).toNat j = if bitAt (regImpl a).toNat j then bitAt w.toNat j else bitAt (regReset a).toNat j := by
  simp only [bitAt, BitVec.testBit_toNat, regFit, BitVec.getLsbD_or, BitVec.getLsbD_and, BitVec.getLsbD_not]
  by_cases hj : j < 32
  · by_cases hi : (regImpl a)[j] = true <;> simp [hj, hi]
  · simp [hj, BitVec.getLsbD_of_ge _ _ (Nat.le_of_not_lt hj)]

/-- What a canonical file lists for an address is a register's, and fits it. -/
theorem find_fits {l : Regs} (h : l.wf = true) {a : Nat} {w : Word} (hw : l.find? a = some w) :
    (rowOf a).isSome = true ∧ regFit a w = w := by
  simp only [Regs.wf, Bool.and_eq_true, List.all_eq_true] at h
  obtain ⟨-, h⟩ := h
  induction l with
  | nil => simp [Regs.find?] at hw
  | cons x l ih =>
    obtain ⟨c, v⟩ := x
    simp only [Regs.find?] at hw
    split at hw
    next e =>
      subst e
      cases hw
      have := h (a, w) (by simp)
      simp only [decide_eq_true_eq] at this
      exact this.1
    next => exact ih hw fun y hy => h y (List.mem_cons_of_mem _ hy)

/-- A register of a canonical file holds its reset value in the bits that hold nothing. -/
theorem regFit_get {l : Regs} (h : l.wf = true) (a : Nat) : regFit a (l.get a) = l.get a := by
  unfold Regs.get
  cases hw : l.find? a with
  | none =>
    refine BitVec.eq_of_getLsbD_eq fun j _ => ?_
    have hfit := (regFit_bit a (regReset a) j).trans (ite_self _)
    simpa only [bitAt, BitVec.testBit_toNat, Option.getD_none] using hfit
  | some w => exact (find_fits h hw).2

/-- A bit of a register after a store in it: the bit stored, or its reset value where it holds nothing. -/
theorem bit_get_set {l : Regs} (h : l.wf = true) (a : Nat) (w : Word) (j : Nat) :
    bitAt ((l.set a w).get a).toNat j = if bitAt (regImpl a).toNat j then bitAt w.toNat j else bitAt (regReset a).toNat j := by
  cases hr : rowOf a with
  | none =>
    have hfind : l.find? a = none := by
      cases hw : l.find? a with
      | none => rfl
      | some v => simpa [hr] using (find_fits h hw).1
    simp [Regs.set, hr, Regs.get, hfind, regImpl, bitAt]
  | some x => rw [get_set_same l w h (by simp [hr]), regFit_bit]

/-- A field whose every bit holds something. -/
abbrev RF.Held (f : RF) : Prop :=
  f.lo ≤ f.hi ∧ f.hi < 32 ∧ f.of (regImpl f.reg) = 2 ^ (f.hi + 1 - f.lo) - 1

theorem held_bit {f : RF} (h : f.Held) {i : Nat} (hi : i < f.hi + 1 - f.lo) : bitAt (regImpl f.reg).toNat (f.lo + i) = true := by
  obtain ⟨-, -, himpl⟩ := h
  have := congrArg (fun n => n.testBit i) himpl
  simp only [of_testBit, Nat.testBit_two_pow_sub_one, hi, decide_true, Bool.true_and] at this
  exact this

/-- A field reads as its bits of the word stored. -/
theorem of_get_set {l : Regs} (h : l.wf = true) {f : RF} (hf : f.Held) (w : Word) : f.of ((l.set f.reg w).get f.reg) = f.of w := by
  refine Nat.eq_of_testBit_eq fun i => ?_
  simp only [of_testBit]
  by_cases hi : i < f.hi + 1 - f.lo
  · have := bit_get_set h f.reg w (f.lo + i)
    rw [held_bit hf hi] at this
    simpa [bitAt, hi] using this
  · simp [hi]

/-- A field reads as what was stored in it. -/
theorem of_get_put {l : Regs} (h : l.wf = true) {f : RF} (hf : f.Held) (w : Word) (v : Nat) :
    f.of ((l.set f.reg (f.put w v)).get f.reg) = v % 2 ^ (f.hi + 1 - f.lo) := by
  obtain ⟨hlo, hhi, -⟩ := id hf
  rw [of_get_set h hf, of_put_same f w v hhi hlo]

/-- A store in a field leaves another field of its register alone. -/
theorem of_get_put_apart {l : Regs} (h : l.wf = true) {f g : RF} (hf : f.Held) (hr : g.reg = f.reg) (hg : g.hi < f.lo ∨ f.hi < g.lo) (v : Nat) :
    g.of ((l.set f.reg (f.put (l.get f.reg) v)).get g.reg) = g.of (l.get g.reg) := by
  obtain ⟨hlo, hhi, -⟩ := hf
  rw [hr]
  refine Nat.eq_of_testBit_eq fun i => ?_
  simp only [of_testBit]
  by_cases hi : i < g.hi + 1 - g.lo
  · have hset := bit_get_set h f.reg (f.put (l.get f.reg) v) (g.lo + i)
    have hold := regFit_bit f.reg (l.get f.reg) (g.lo + i)
    rw [regFit_get h] at hold
    have hput : bitAt (f.put (l.get f.reg) v).toNat (g.lo + i) = bitAt (l.get f.reg).toNat (g.lo + i) := by
      simp only [bitAt, put_testBit f _ v _ hhi hlo]
      rw [if_neg (by omega)]
    rw [hput, ← hold] at hset
    simpa [bitAt, hi] using hset
  · simp [hi]

/-! ### A field stored in the block -/

/-- The block with `v` stored in field `f`. -/
def Block.setField (b : Block) (f : RF) (v : Nat) : Block := b.setReg f.reg (f.put (b.regs.get f.reg) v)

theorem setField_wf {b : Block} (h : b.regs.wf = true) (f : RF) (v : Nat) : (b.setField f v).regs.wf = true := wf_set b.regs _ _ h

theorem setField_get_ne (b : Block) (f : RF) (v : Nat) {a : Nat} (h : a ≠ f.reg) : (b.setField f v).regs.get a = b.regs.get a :=
  get_set_ne b.regs _ h

theorem setField_of_same {b : Block} (h : b.regs.wf = true) {f : RF} (hf : f.Held) (v : Nat) :
    f.of ((b.setField f v).regs.get f.reg) = v % 2 ^ (f.hi + 1 - f.lo) := of_get_put h hf _ v

theorem setField_of_apart {b : Block} (h : b.regs.wf = true) {f g : RF} (hf : f.Held) (hr : g.reg = f.reg) (hg : g.hi < f.lo ∨ f.hi < g.lo)
    (v : Nat) : g.of ((b.setField f v).regs.get g.reg) = g.of (b.regs.get g.reg) := of_get_put_apart h hf hr hg v

/-! ### Operations on fields -/

theorem gives_setField (f : RF) (v : Nat) (b : Block) : Gives (sf f v) b () (b.setField f v) := gives_sf f v b

theorem gives_sb (f : RF) (v : Bool) (b : Block) : Gives (sb f v) b () (b.setField f (bit v)) := gives_sf f (bit v) b

theorem gives_cntSat (f : RF) (n : Nat) (b : Block) :
    Gives (cntSat f n) b () (b.setField f (satAdd (2 ^ (f.hi + 1 - f.lo) - 1) (f.of (b.regs.get f.reg)) n)) :=
  gives_bind (gives_gf f b) (gives_sf f _ b)

theorem gives_cntWrap (f : RF) (n : Nat) (b : Block) : Gives (cntWrap f n) b () (b.setField f (f.of (b.regs.get f.reg) + n)) :=
  gives_bind (gives_gf f b) (gives_sf f _ b)

theorem gives_gbit (a i : Nat) (b : Block) : Gives (gbit a i) b (bitAt (b.regs.get a).toNat i) b := by
  have h := gives_bf ⟨a, i, i⟩ b
  rwa [of_bit_ne_zero] at h

theorem gives_onCore_up {k : Nat} {m : Op Unit} {b b' : Block} (hk : bitAt (b.regs.get R.SYS_CORESTAT).toNat k = true)
    (hm : Gives m b () b') : Gives (onCore k m) b () b' :=
  gives_bind (gives_gbit _ k b) (gives_onlyIf_true hk hm)

theorem gives_onCore_down {k : Nat} {m : Op Unit} {b : Block} (hk : ¬ bitAt (b.regs.get R.SYS_CORESTAT).toNat k = true) :
    Gives (onCore k m) b () b :=
  gives_bind (gives_gbit _ k b) (gives_onlyIf_false (by simpa using hk))

/-- An operation that never stops goes on from a block with what it keeps. -/
theorem keeps_gives_some {α : Type} {P : Block → Prop} {m : Op α} (h : Keeps False P m) {b : Block} (hb : P b) :
    ∃ a b', P b' ∧ Gives m b a b' := (h b hb).resolve_right fun x => x.1

/-! ### From an operation to a completed command -/

theorem does_of_onLive {c : Instr} {s : State} {m : Op Unit} {b : Block} {Q : State → Prop} (he : exec c s = onLive m s) (hs : Live s)
    (hm : Gives m s.dev () b) (hq : Q { s with dev := b }) : Does c s Q := by
  obtain ⟨hstop, hreset⟩ := hs
  exact ⟨_, he.trans (onLive_gives hstop hreset hm), rfl, hq⟩

theorem does_of_onDev {c : Instr} {s : State} {m : Op Unit} {b : Block} {Q : State → Prop} (he : exec c s = onDev m s) (hs : Supplied s)
    (hm : Gives m s.dev () b) (hq : Q { s with dev := b }) : Does c s Q :=
  ⟨_, he.trans (onDev_gives hs hm), rfl, hq⟩

end Sys2Proof.Machine
end

section
/-!
PROOF. Proofs/FabricRules.lean: what one access through the register fabric gives (R35, R36, R448 to R455), for a register outside SAFE
and BOOT.
-/
namespace Sys2Proof.Machine

theorem aliasOf_plain {a : Nat} (h : privileged a = false) : aliasOf a = a := by simp [aliasOf, h]

theorem privileged_of_window {a n : Nat} (h : a / 0x10000 = n) (hn : n < 0x14) : privileged a = false := by
  simp only [privileged, decide_eq_false_iff_not]
  omega

theorem gives_regPowered_always {r : RegRow} {a : Nat} (h : regDomain r a = none) (b : Block) : Gives (regPowered r a) b true b := by
  unfold regPowered
  rw [h]
  exact gives_pure true b

/-- A register whose domain is off answers that it is. -/
theorem gives_regPowered_off {r : RegRow} {a d : Nat} (h : regDomain r a = some d) {b : Block}
    (hd : (domField d).of (b.regs.get (domField d).reg) = 0) : Gives (regPowered r a) b false b := by
  unfold regPowered
  rw [h]
  have := gives_bf (domField d) b
  rw [hd] at this
  exact this

/-- A register of the thermal, field-bus, ring, reconstruction or ledger unit shows what it holds. -/
theorem gives_regView_held {r : RegRow} {i a : Nat} (h : a / 0x10000 ∈ [3, 6, 7, 0xB, 0xC]) (b : Block) :
    Gives (regView r i a) b (b.regs.get a) b := by
  unfold regView
  refine gives_bind (gives_rd a b) (gives_bind (gives_now b) (gives_bind (gives_units b) ?_))
  simp only [List.mem_cons, List.not_mem_nil, or_false] at h
  rcases h with h | h | h | h | h <;> (rw [h]; exact gives_pure _ b)

/-- A read that clears nothing, of a register that is always on. -/
theorem gives_fabricRead {a i : Nat} {r : RegRow} {w : Word} {b b' : Block} (hp : privileged a = false) (hr : rowOf a = some (r, i))
    (hd : regDomain r a = none) (hv : Gives (regView r i a) b w b') : Gives (fabricRead false a) b (St.ok, w) b' := by
  unfold fabricRead
  simp only [aliasOf_plain hp, hr]
  exact gives_bind (gives_regPowered_always hd b) (gives_bind hv (gives_bind (gives_onlyIf_false rfl) (gives_pure _ b')))

/-- A read of a register whose domain is off. -/
theorem gives_fabricRead_off {a i d : Nat} {r : RegRow} {b : Block} (clears : Bool) (hp : privileged a = false) (hr : rowOf a = some (r, i))
    (hd : regDomain r a = some d) (hoff : (domField d).of (b.regs.get (domField d).reg) = 0) :
    Gives (fabricRead clears a) b (St.domainOff, 0) b := by
  unfold fabricRead
  simp only [aliasOf_plain hp, hr]
  exact gives_bind (gives_regPowered_off hd hoff) (gives_pure _ b)

/-- A masked write that selects nothing. -/
theorem gives_maskedWrite_none {src : Src} {r : RegRow} {i a : Nat} {w old : Word} {b : Block} (hv : Gives (regView r i a) b old b)
    (hm : w.toNat / 65536 = 0) : Gives (maskedWrite src r i a w) b () b := by
  unfold maskedWrite
  exact gives_bind hv (gives_ite_pos hm (gives_pure () b))

/-- A masked write that keeps the KP bits reaches its unit, and mends the register's parity. -/
theorem gives_maskedWrite {src : Src} {r : RegRow} {i a : Nat} {w old : Word} {b b' : Block} (hv : Gives (regView r i a) b old b)
    (hm : w.toNat / 65536 ≠ 0) (hk : (w.toNat ^^^ old.toNat) &&& (w.toNat / 65536) &&& r.kp = 0)
    (hu : Gives (unitWrite src r.base i a (mergeWord r old w) (BitVec.ofNat 32 (w.toNat &&& (w.toNat / 65536) &&& r.wo)) w)
      { b with upset := b.upset.filter (· ≠ a) } () b') : Gives (maskedWrite src r i a w) b () b' := by
  unfold maskedWrite
  exact gives_bind hv (gives_ite_neg hm (gives_ite_neg (fun h => h hk) (gives_bind (gives_modUpset _ b) hu)))

/-- A write to a control register that is always on and holds no key. -/
theorem gives_fabricWrite {src : Src} {a i : Nat} {r : RegRow} {w : Word} {b b' : Block} (hp : privileged a = false)
    (hr : rowOf a = some (r, i)) (hd : regDomain r a = none) (hk : keyGuarded r.base = false) (hmask : r.mask = true)
    (hw : Gives (maskedWrite src r i a w) b () b') : Gives (fabricWrite src a w) b St.ok b' := by
  have hmay : ∃ may, Gives (keyAllowed src) b may b := ⟨_, fun _ => rfl⟩
  obtain ⟨may, hmay⟩ := hmay
  unfold fabricWrite
  simp only [aliasOf_plain hp, hp, hr, Bool.false_and, Bool.false_eq_true, if_false]
  refine gives_bind (gives_regPowered_always hd b) (gives_bind hmay ?_)
  simp only [hk, Bool.not_true, Bool.false_and, Bool.false_eq_true, if_false]
  exact gives_bind (gives_onlyIf_true hmask hw) (gives_pure St.ok b')

theorem gives_opWrite {src : Src} {a st : Nat} {w : Word} {b b' : Block} (h : Gives (fabricWrite src a w) b st b') :
    Gives (opWrite src a w) b () b' := gives_bind h (gives_pure () b')

theorem bitAt_or (x y : Word) (j : Nat) : bitAt (x ||| y).toNat j = (bitAt x.toNat j || bitAt y.toNat j) := by simp [bitAt]

theorem bitAt_and (x y : Word) (j : Nat) : bitAt (x &&& y).toNat j = (bitAt x.toNat j && bitAt y.toNat j) := by simp [bitAt]

theorem bitAt_not (x : Word) (j : Nat) : bitAt (~~~x).toNat j = (decide (j < 32) && !bitAt x.toNat j) := by
  simp only [bitAt, BitVec.testBit_toNat, BitVec.getLsbD_not]

/-- A bit of a register's word after a masked write, where no field refuses a value (R449). -/
theorem mergeWord_bit {r : RegRow} (h : r.noThree = []) (old w : Word) (j : Nat) :
    bitAt (mergeWord r old w).toNat j =
      if bitAt (w.toNat / 65536) j = true ∧ bitAt r.rw j = true then bitAt w.toNat j else bitAt old.toNat j := by
  have hsel : bitAt (BitVec.ofNat 32 (w.toNat / 65536 &&& r.rw)).toNat j = (bitAt (w.toNat / 65536) j && bitAt r.rw j) := by
    have hlt : w.toNat / 65536 &&& r.rw < 2 ^ 32 := lt_of_le_of_lt Nat.and_le_left (by have := w.isLt; omega)
    rw [bitAt, BitVec.toNat_ofNat, Nat.mod_eq_of_lt hlt, Nat.testBit_and]
    rfl
  have hold : 32 ≤ j → bitAt old.toNat j = false := fun hj =>
    Nat.testBit_lt_two_pow (lt_of_lt_of_le old.isLt (Nat.pow_le_pow_right (by decide) hj))
  simp only [mergeWord, h, List.foldl_nil, bitAt_or, bitAt_and, bitAt_not, hsel]
  by_cases hs : bitAt (w.toNat / 65536) j = true ∧ bitAt r.rw j = true
  · simp [hs]
  · have hsf : (bitAt (w.toNat / 65536) j && bitAt r.rw j) = false := Bool.eq_false_iff.2 fun e => hs (by simpa using e)
    rw [if_neg hs, hsf]
    by_cases hj : j < 32
    · simp [hj]
    · simp [hold (Nat.le_of_not_lt hj)]

end Sys2Proof.Machine
end

section
/-!
PROOF. Proofs/RingLoss.lean: lost members, the lost module and the relayed verdict (R548, R549, R553).
-/
namespace Sys2Proof.Machine

/-! ### Sums of flags -/

/-- The number whose bit `k` is `p k`, for `k` below `n`. -/
def flagSum (p : Nat → Prop) [DecidablePred p] (n : Nat) : Nat := ((List.range n).map fun i => if p i then 2 ^ i else 0).sum

variable (p : Nat → Prop) [DecidablePred p]

theorem flagSum_succ (n : Nat) : flagSum p (n + 1) = flagSum p n + if p n then 2 ^ n else 0 := by
  simp [flagSum, List.range_succ]

theorem flagSum_lt (n : Nat) : flagSum p n < 2 ^ n := by
  induction n with
  | zero => exact Nat.one_pos
  | succ n ih =>
    rw [flagSum_succ, Nat.pow_succ]
    split <;> omega

theorem flagSum_testBit {n k : Nat} (h : k < n) : (flagSum p n).testBit k = decide (p k) := by
  induction n with
  | zero => omega
  | succ n ih =>
    have hlt := flagSum_lt p n
    have hsum : flagSum p (n + 1) = 2 ^ n * (if p n then 1 else 0) + flagSum p n := by
      rw [flagSum_succ]
      split <;> omega
    rw [hsum, Nat.testBit_two_pow_mul_add _ hlt]
    by_cases hk : k < n
    · simp [hk, ih hk]
    · have : k = n := by omega
      subst this
      by_cases hp : p k <;> simp [hp]

/-! ### Bits that a list of operations clears -/

/-- A bit that is 0, and is 0 after reset, stays so when bit `i` of any register is cleared. -/
theorem bit_clear_stays {l : Regs} (h : l.wf = true) {a c i : Nat} (hr : bitAt (regReset c).toNat i = false)
    (hc : a = c ∨ bitAt (l.get c).toNat i = false) (hi : i < 32) :
    bitAt ((l.set a ((RF.mk a i i).put (l.get a) 0)).get c).toNat i = false := by
  by_cases e : c = a
  · subst e
    have hput : bitAt ((RF.mk c i i).put (l.get c) 0).toNat i = false := by
      rw [bitAt, put_testBit _ _ _ _ hi (Nat.le_refl i)]
      simp
    rw [bit_get_set h, hput, hr, ite_self]
  · rw [get_set_ne l _ e]
    exact hc.resolve_left fun x => e x.symm

/-- Clearing bit `i` of a list of registers clears it there, and changes nothing else. -/
theorem gives_clearBits (f : Nat → Nat) {i : Nat} (hi : i < 32) (l : List Nat) (hr : ∀ k ∈ l, bitAt (regReset (f k)).toNat i = false)
    (b : Block) (hb : b.regs.wf = true) :
    ∃ b', Gives (each (fun k => sbit (f k) i false) l) b () b' ∧ b'.u = b.u ∧ (∀ c, (∀ k ∈ l, c ≠ f k) → b'.regs.get c = b.regs.get c) ∧
      ∀ c, bitAt (regReset c).toNat i = false → (c ∈ l.map f ∨ bitAt (b.regs.get c).toNat i = false) → bitAt (b'.regs.get c).toNat i = false := by
  induction l generalizing b with
  | nil => exact ⟨b, gives_each_nil _ b, rfl, fun _ _ => rfl, fun c _ hc => hc.resolve_left (by simp)⟩
  | cons k l ih =>
    have hstep := gives_sb ⟨f k, i, i⟩ false b
    obtain ⟨b', hg, hu, hkept, hclear⟩ := ih (fun k hk => hr k (List.mem_cons_of_mem _ hk)) (b.setReg (f k) _) (gives_wf hb hstep)
    refine ⟨b', gives_each_cons hstep hg, hu, fun c hc => ?_, fun c hrc hc => hclear c hrc ?_⟩
    · rw [hkept c fun k hk => hc k (List.mem_cons_of_mem _ hk)]
      exact get_set_ne b.regs _ (hc k (by simp))
    · rw [List.map_cons, List.mem_cons] at hc
      by_cases hl : c ∈ l.map f
      · exact .inl hl
      · exact .inr (bit_clear_stays hb hrc (by tauto) hi)

/-! ### A lost member (R548) -/

theorem held_mstat : ∀ n < 8, (F.RNG_MSTAT_STATE n).Held ∧ (F.RNG_MSTAT_DISAGREE n).Held := by decide

theorem leadFlag_reset : ∀ n < 8, ∀ k ∈ List.range 16, bitAt (regReset (R.RNG_CLEADH (16 * n + k))).toNat 21 = false := by decide

/-- What block `b'` shows of member `a`, marked lost in block `b`. -/
structure LossShown (b b' : Block) (a : Nat) : Prop where
  state : (F.RNG_MSTAT_STATE (a - 1)).of (b'.regs.get (R.RNG_MSTAT (a - 1))) = 2
  disagree : (F.RNG_MSTAT_DISAGREE (a - 1)).of (b'.regs.get (R.RNG_MSTAT (a - 1))) = 0
  joined : bitAt (F.RNG_PRESENT_JOINED.of (b'.regs.get R.RNG_PRESENT)) (a - 1) = false
  memLost : F.RNG_STAT_MEMLOST.of (b'.regs.get R.RNG_STAT) = 1
  rng : b'.u.rng = { b.u.rng with states := setAt b.u.rng.states (a - 1) 2 }
  sys : b'.u.sys = b.u.sys

/-- The block after the ring's data and registers show member `a` lost. -/
def lossMarked (b : Block) (a : Nat) : Block :=
  let g : RngS := { b.u.rng with states := setAt b.u.rng.states (a - 1) rsLost }
  ((((b.withU { b.u with rng := g }).setField (F.RNG_MSTAT_STATE (a - 1)) rsLost).setField (F.RNG_MSTAT_DISAGREE (a - 1)) 0).setField
    F.RNG_PRESENT_JOINED (flagSum (fun i => g.states.getD i 0 = rsMember) 8)).setField F.RNG_STAT_MEMLOST 1

theorem setAt_getD_same {α : Type} (l : List α) (i : Nat) (x d : α) (h : i < l.length) : (setAt l i x).getD i d = x := by
  induction l generalizing i with
  | nil => simp at h
  | cons y l ih =>
    cases i with
    | zero => rfl
    | succ i => simpa [setAt] using ih i (by simpa using h)

theorem lossMarked_wf {b : Block} (hb : b.regs.wf = true) (a : Nat) : (lossMarked b a).regs.wf = true :=
  setField_wf (setField_wf (setField_wf (setField_wf hb _ _) _ _) _ _) _ _

theorem lossMarked_shown {b : Block} (hb : b.regs.wf = true) {a : Nat} (h2 : 2 ≤ a) (h8 : a ≤ 8) (hlen : b.u.rng.states.length = 8) :
    LossShown b (lossMarked b a) a := by
  obtain ⟨hstate, hdis⟩ := held_mstat (a - 1) (by omega)
  have hjoined : F.RNG_PRESENT_JOINED.Held := by decide
  have hmem : F.RNG_STAT_MEMLOST.Held := by decide
  have hw : ∀ u, (b.withU u).regs.wf = true := fun _ => hb
  have n1 : R.RNG_MSTAT (a - 1) ≠ R.RNG_STAT := by simp only [R.RNG_MSTAT, R.RNG_STAT]; omega
  have n2 : R.RNG_MSTAT (a - 1) ≠ R.RNG_PRESENT := by simp only [R.RNG_MSTAT, R.RNG_PRESENT]; omega
  constructor
  case state =>
    rw [lossMarked, setField_get_ne _ _ _ n1, setField_get_ne _ _ _ n2]
    exact (setField_of_apart (setField_wf (hw _) _ _) hdis (g := F.RNG_MSTAT_STATE (a - 1)) rfl (.inr (by simp only [F.RNG_MSTAT_STATE, F.RNG_MSTAT_DISAGREE]; omega)) 0).trans (setField_of_same (hw _) hstate _)
  case disagree =>
    rw [lossMarked, setField_get_ne _ _ _ n1, setField_get_ne _ _ _ n2]
    exact setField_of_same (setField_wf (hw _) _ _) hdis _
  case joined =>
    rw [lossMarked, setField_get_ne _ _ _ (by decide)]
    refine (congrArg (fun n => bitAt n (a - 1)) (setField_of_same (setField_wf (setField_wf (hw _) _ _) _ _) hjoined _)).trans ?_
    change bitAt (flagSum (fun i => (setAt b.u.rng.states (a - 1) rsLost).getD i 0 = rsMember) 8 % 2 ^ 8) (a - 1) = false
    rw [Nat.mod_eq_of_lt (flagSum_lt _ 8), bitAt, flagSum_testBit _ (by omega), setAt_getD_same _ _ _ _ (by omega)]
    decide
  case memLost => exact setField_of_same (setField_wf (setField_wf (setField_wf (hw _) _ _) _ _) _ _) hmem _
  case rng => rfl
  case sys => rfl

/-- What is shown of a lost member stays shown where the ring's registers, but for the leads, and the units' data stay. -/
theorem LossShown.kept {b b1 b2 : Block} {a : Nat} (h : LossShown b b1 a) (h8 : a ≤ 8) (hr : b2.u.rng = b1.u.rng) (hs : b2.u.sys = b1.u.sys)
    (hregs : ∀ c, 0x70000 ≤ c → c < 0x71000 → b2.regs.get c = b1.regs.get c) : LossShown b b2 a := by
  have hm : b2.regs.get (R.RNG_MSTAT (a - 1)) = b1.regs.get (R.RNG_MSTAT (a - 1)) :=
    hregs _ (by simp only [R.RNG_MSTAT]; omega) (by simp only [R.RNG_MSTAT]; omega)
  exact ⟨hm ▸ h.state, hm ▸ h.disagree, hregs R.RNG_PRESENT (by decide) (by decide) ▸ h.joined,
    hregs R.RNG_STAT (by decide) (by decide) ▸ h.memLost, hr.trans h.rng, hs.trans h.sys⟩

theorem gives_ringS (b : Block) : Gives ringS b b.u.rng b := fun _ => rfl

theorem gives_isHead (b : Block) : Gives isHead b (!b.u.rng.ring || b.u.pwr.headLow) b := fun _ => rfl

/-- Sending leaves the ring's data. -/
theorem linkKeep_rng {u v : Units} (h : linkKeep u = linkKeep v) : u.rng = v.rng := by
  have hr : (linkKeep u).rng = (linkKeep v).rng := congrArg Units.rng h
  exact hr

/-- Sending leaves the data of the modes. -/
theorem linkKeep_sys {u v : Units} (h : linkKeep u = linkKeep v) : u.sys = v.sys := by
  have hs : (linkKeep u).sys = (linkKeep v).sys := congrArg Units.sys h
  exact hs

/-- What LOSTHOLD asks when a member is lost. -/
def lossHold : Op Unit := do
  clusterHold
  modRng fun g => { g with orders := g.orders ||| 1 }

/-- MEMBER_LOST of a member that has been silent long enough: it is shown lost, its leads are no longer valid, and what LOSTHOLD asks
follows. -/
theorem gives_memberLost {b : Block} {a : Nat} (hb : b.regs.wf = true) (hup : bitAt (b.regs.get R.SYS_CORESTAT).toNat 5 = true)
    (hring : b.u.rng.ring = true) (hhead : b.u.pwr.headLow = true) (hjoined : b.u.rng.joined = true)
    (hlen : b.u.rng.states.length = 8) (h2 : 2 ≤ a) (h8 : a ≤ 8) (hstate : b.u.rng.states.getD (a - 1) 0 = 1)
    (hmissed : max 2 (F.RNG_LOSTN_N.of (b.regs.get R.RNG_LOSTN)) ≤ (b.u.rng.peers.getD (a - 1) {}).missed) :
    ∃ b', LossShown b b' a ∧ (∀ k ∈ List.range 16, bitAt (b'.regs.get (R.RNG_CLEADH (16 * (a - 1) + k))).toNat 21 = false) ∧
      ∀ b'', Gives (onlyIf b.u.rng.lostHold lossHold) b' () b'' → Gives (opMemberLost a) b () b'' := by
  have hw := lossMarked_wf hb a
  obtain ⟨_, b1, ⟨hregs1, hkeep1⟩, hraise⟩ := keeps_gives_some
    (link_raiseFrom (b0 := lossMarked b a) Client.ring Ev.memberLost [BitVec.ofNat 8 a, 0, 0, 0]) (frame_refl _)
  have hreset := leadFlag_reset (a - 1) (by omega)
  obtain ⟨b2, hclear, hu2, hregs2, hbits⟩ := gives_clearBits (fun k => R.RNG_CLEADH (16 * (a - 1) + k)) (i := 21) (by decide)
    (List.range 16) hreset b1 (gives_wf hw hraise)
  obtain ⟨v, hflow⟩ : ∃ v, Gives clusterFlow b2 () (b2.setField F.SYS_FLOWCHK_CLUSTER v) := ⟨_, gives_bind (gives_ringS b2) (gives_sb _ _ b2)⟩
  have hlost : (!b.u.rng.ring || b.u.pwr.headLow) && b.u.rng.joined && decide (2 ≤ a ∧ a ≤ 8 ∧ b.u.rng.states.getD (a - 1) 0 = rsMember ∧
      max 2 (F.RNG_LOSTN_N.of (b.regs.get R.RNG_LOSTN)) ≤ (b.u.rng.peers.getD (a - 1) {}).missed) := by
    simp only [hring, hhead, hjoined, Bool.not_true, Bool.false_or, Bool.true_and, decide_eq_true_eq]
    exact ⟨h2, h8, hstate, hmissed⟩
  refine ⟨b2.setField F.SYS_FLOWCHK_CLUSTER v, (lossMarked_shown hb h2 h8 hlen).kept h8 ?rng ?sys ?regs, ?leads, fun b'' htail => ?gives⟩
  case gives =>
    exact gives_onCore_up hup (gives_bind (gives_ringS b) (gives_bind (gives_isHead b) (gives_bind (gives_gf _ b) (gives_onlyIf_true hlost
      (gives_bind (gives_modRng b _) (gives_bind (gives_setField _ _ _) (gives_bind (gives_setField _ _ _)
        (gives_bind (gives_bind (gives_ringS _) (gives_setField _ _ _)) (gives_bind (gives_sb _ _ _)
          (gives_bind hraise (gives_bind hclear (gives_bind hflow htail))))))))))))
  case rng => exact (congrArg Units.rng hu2).trans (linkKeep_rng hkeep1)
  case sys => exact (congrArg Units.sys hu2).trans (linkKeep_sys hkeep1)
  case regs =>
    intro c h0 h1
    have hwin : window c ∉ linkWindows := by
      have : window c = 7 := by simp only [window]; omega
      rw [this]
      decide
    refine (setField_get_ne b2 _ _ ?_).trans ((hregs2 c fun k _ => ?_).trans (hregs1 c hwin))
    · simp only [F.SYS_FLOWCHK_CLUSTER, R.SYS_FLOWCHK]; omega
    · simp only [R.RNG_CLEADH]; omega
  case leads =>
    intro k hk
    rw [setField_get_ne b2 _ _ (by simp only [F.SYS_FLOWCHK_CLUSTER, R.SYS_FLOWCHK, R.RNG_CLEADH]; omega)]
    exact hbits _ (hreset k hk) (.inl (List.mem_map_of_mem hk))

theorem memberLost_shows {s : State} {a : Nat} (hl : Live s) (hb : Canon s) (hhead : RingHead s) (hjoined : s.dev.u.rng.joined = true)
    (hlen : s.dev.u.rng.states.length = 8) (h2 : 2 ≤ a) (h8 : a ≤ 8) (hstate : s.dev.u.rng.states.getD (a - 1) 0 = 1)
    (hmissed : max 2 (s.fld F.RNG_LOSTN_N) ≤ (s.dev.u.rng.peers.getD (a - 1) {}).missed) (hhold : s.dev.u.rng.lostHold = false)
    (hup : CoreUp s 5) :
    Does (.memberLost a) s fun t => LossShown s.dev t.dev a ∧
      ∀ k ∈ List.range 16, bitAt (t.reg (R.RNG_CLEADH (16 * (a - 1) + k))).toNat 21 = false := by
  obtain ⟨hring, hlow⟩ := hhead
  obtain ⟨b, hshown, hleads, hgives⟩ := gives_memberLost hb hup hring hlow hjoined hlen h2 h8 hstate hmissed
  exact does_of_onLive rfl hl (hgives b (gives_onlyIf_false hhold)) ⟨hshown, hleads⟩

/-- The causes of HOLD with `c` among them. -/
def withCause (c : Nat) (l : List Nat) : List Nat := if c ∈ l then l else l ++ [c]

theorem mem_withCause (c : Nat) (l : List Nat) : c ∈ withCause c l := by
  unfold withCause
  split <;> simp [*]

theorem gives_clusterHold (b : Block) : Gives clusterHold b ()
    (b.withU { b.u with rng := { b.u.rng with holds := true }, sys := { b.u.sys with causes := withCause 4 b.u.sys.causes } }) :=
  gives_bind (gives_modRng b _) (gives_modU _ _)

theorem memberLost_holds {s : State} {a : Nat} (hl : Live s) (hb : Canon s) (hhead : RingHead s) (hjoined : s.dev.u.rng.joined = true)
    (hlen : s.dev.u.rng.states.length = 8) (h2 : 2 ≤ a) (h8 : a ≤ 8) (hstate : s.dev.u.rng.states.getD (a - 1) 0 = 1)
    (hmissed : max 2 (s.fld F.RNG_LOSTN_N) ≤ (s.dev.u.rng.peers.getD (a - 1) {}).missed) (hhold : s.dev.u.rng.lostHold = true)
    (hup : CoreUp s 5) :
    Does (.memberLost a) s fun t => t.fld (F.RNG_MSTAT_STATE (a - 1)) = 2 ∧ 4 ∈ t.dev.u.sys.causes ∧ t.dev.u.rng.holds = true ∧
      bitAt t.dev.u.rng.orders 0 = true := by
  obtain ⟨hring, hlow⟩ := hhead
  obtain ⟨b, hshown, -, hgives⟩ := gives_memberLost hb hup hring hlow hjoined hlen h2 h8 hstate hmissed
  refine does_of_onLive rfl hl (hgives _ (gives_onlyIf_true hhold (gives_bind (gives_clusterHold b) (gives_modRng _ _))))
    ⟨hshown.state, mem_withCause 4 _, rfl, ?_⟩
  simp [bitAt]

/-! ### The module itself is lost (R549) -/

theorem gives_selfLose (b : Block) : Gives selfLose b ()
    ((b.setField F.RNG_STAT_SELFLOST 1).withU { b.u with
      rng := { b.u.rng with holds := true, rejoining := false }, sys := { b.u.sys with causes := withCause 4 b.u.sys.causes }, slew := 0 }) :=
  gives_bind (gives_sb _ _ b) (gives_bind (gives_clusterHold _) (gives_bind (gives_modRng _ _) (gives_modU _ _)))

theorem selfLost_shows {s : State} (hl : Live s) (hb : Canon s) (hmember : RingMember s) (hjoined : s.dev.u.rng.joined = true)
    (hlate : s.dev.u.rng.late = false) (hself : s.fld F.RNG_STAT_SELFLOST = 0) (hmissed : max 2 (s.fld F.RNG_LOSTN_N) ≤ s.dev.u.rng.missed)
    (hup : CoreUp s 5) :
    Does .selfLost s fun t => t.fld F.RNG_STAT_SELFLOST = 1 ∧ 4 ∈ t.dev.u.sys.causes ∧
      t.dev.u.rng = { s.dev.u.rng with holds := true, rejoining := false } ∧ t.dev.u.slew = 0 ∧ OnlyRegs [R.RNG_STAT] s t := by
  obtain ⟨hring, hlow⟩ := hmember
  have hlost : s.dev.u.rng.ring && s.dev.u.rng.joined && !(!s.dev.u.rng.ring || s.dev.u.pwr.headLow) && !s.dev.u.rng.late &&
      !(s.fld F.RNG_STAT_SELFLOST != 0) && decide (max 2 (s.fld F.RNG_LOSTN_N) ≤ s.dev.u.rng.missed) := by
    simp [hring, hlow, hjoined, hlate, hself, hmissed]
  refine does_of_onLive rfl hl (gives_onCore_up hup (gives_bind (gives_ringS _) (gives_bind (gives_isHead _)
    (gives_bind (gives_gf _ _) (gives_bind (gives_bf _ _) (gives_onlyIf_true hlost (gives_selfLose _)))))))
    ⟨setField_of_same hb (by decide) 1, mem_withCause 4 _, rfl, rfl, fun a ha =>
      setField_get_ne s.dev F.RNG_STAT_SELFLOST 1 fun e => ha (List.mem_singleton.2 e)⟩

/-! ### A relayed verdict (R553) -/

/-- The word that publishes a relay with its upper eight bits `v`. -/
abbrev relayWord (v : Nat) : Word := BitVec.ofNat 32 (0xFF808000 + 128 * v)

theorem relayWord_toNat {v : Nat} (h : v < 256) : (relayWord v).toNat = 0xFF808000 + 128 * v := by
  rw [BitVec.toNat_ofNat]
  omega

theorem relayWord_go : ∀ v < 256, (F.RNG_RVCTL_GO).of (BitVec.ofNat 32 ((relayWord v).toNat &&& (relayWord v).toNat / 65536 &&& 0x8000)) = 1 := by
  decide +kernel

/-- RNG_RVCTL: ADDR, LINK, PATH and FAILED are held, GO acts, and the bits below are to be kept. -/
theorem rvctl_row : ∃ r, rowOf R.RNG_RVCTL = some (r, 0) ∧ r.base = R.RNG_RVCTL ∧ r.rw = 0x7F80 ∧ r.wo = 0x8000 ∧ r.kp = 0x7F ∧
    r.noThree = [] ∧ r.mask = true ∧ regDomain r R.RNG_RVCTL = none :=
  ⟨_, rfl, rfl, rfl, rfl, rfl, rfl, rfl, rfl⟩

/-- The block after a relay is published from RNG_RVCTL and RNG_RVNUM as they stand. -/
def relayed (b : Block) : Block :=
  b.withU { b.u with rng := { b.u.rng with relay := some (leBytes 2 (32768 + (b.regs.get R.RNG_RVCTL).toNat % 32768) ++ zeros 2 ++
    leBytes 4 (F.RNG_RVNUML_NUM.of (b.regs.get R.RNG_RVNUML) + 65536 * F.RNG_RVNUMH_NUM.of (b.regs.get R.RNG_RVNUMH))) } }

theorem gives_relayPublish_new {b : Block} (h : b.u.rng.relay = none) : Gives relayPublish b () (relayed b) :=
  gives_bind (gives_ringS b) (gives_bind (gives_rd _ b) (gives_bind (gives_gf _ b) (gives_bind (gives_gf _ b)
    (gives_bind (gives_onlyIf_false (by rw [h]; rfl)) (gives_modRng b _)))))

theorem gives_relayPublish_again {b : Block} {x : List Byte} (h : b.u.rng.relay = some x) :
    Gives relayPublish b () ((relayed b).setField F.RNG_STAT_RELAYREJ 1) :=
  gives_bind (gives_ringS b) (gives_bind (gives_rd _ b) (gives_bind (gives_gf _ b) (gives_bind (gives_gf _ b)
    (gives_bind (gives_onlyIf_true (by rw [h]; rfl) (gives_sb _ _ b)) (gives_modRng _ _)))))

theorem rvctl_impl : (regImpl R.RNG_RVCTL).toNat = 2 ^ 7 * (2 ^ 8 - 1) := by decide

theorem bitAt_ones_shifted (k n j : Nat) : bitAt (2 ^ k * (2 ^ n - 1)) j = decide (k ≤ j ∧ j < k + n) := by
  rw [bitAt, Nat.testBit_two_pow_mul, Nat.testBit_two_pow_sub_one, ← Bool.decide_and]
  exact decide_eq_decide.2 (by omega)

/-- Bits 14 to 7 of the word are those of `v`, and the write mask selects them. -/
theorem relayWord_bit {v j : Nat} (hv : v < 256) (h7 : 7 ≤ j) (h15 : j < 15) :
    bitAt (relayWord v).toNat j = v.testBit (j - 7) ∧ bitAt ((relayWord v).toNat / 65536) j = true ∧ bitAt 0x7F80 j = true := by
  rw [relayWord_toNat hv]
  refine ⟨?_, ?_, ?_⟩
  · have hword : 0xFF808000 + 128 * v = 2 ^ 7 * (2 ^ 8 * 0x1FF01 + v) := by omega
    rw [bitAt, hword, Nat.testBit_two_pow_mul, Nat.testBit_two_pow_mul_add _ hv]
    simp [h7, show j - 7 < 8 by omega]
  · have hsel : (0xFF808000 + 128 * v) / 65536 = 2 ^ 7 * (2 ^ 9 - 1) := by omega
    rw [hsel, bitAt_ones_shifted]
    exact decide_eq_true (by omega)
  · exact (bitAt_ones_shifted 7 8 j).trans (decide_eq_true (by omega))

/-- The lower half of RNG_RVCTL after a write that publishes a relay: the bits above the kept ones are the word's. -/
theorem relayWord_stored {l : Regs} (hl : l.wf = true) {r : RegRow} (hthree : r.noThree = []) (hrw : r.rw = 0x7F80)
    {v : Nat} (hv : v < 256) :
    ((l.set R.RNG_RVCTL (mergeWord r (l.get R.RNG_RVCTL) (relayWord v))).get R.RNG_RVCTL).toNat % 2 ^ 15 =
      2 ^ 7 * v + (l.get R.RNG_RVCTL).toNat % 2 ^ 7 := by
  refine Nat.eq_of_testBit_eq fun j => ?_
  have hnew := bit_get_set hl R.RNG_RVCTL (mergeWord r (l.get R.RNG_RVCTL) (relayWord v)) j
  have hold := regFit_bit R.RNG_RVCTL (l.get R.RNG_RVCTL) j
  rw [regFit_get hl, rvctl_impl, bitAt_ones_shifted] at hold
  rw [mergeWord_bit hthree, hrw, rvctl_impl, bitAt_ones_shifted] at hnew
  rw [Nat.testBit_two_pow_mul_add v (Nat.mod_lt _ (by decide)), Nat.testBit_mod_two_pow, Nat.testBit_mod_two_pow]
  by_cases h7 : j < 7
  · have hout : ¬ (7 ≤ j ∧ j < 7 + 8) := by omega
    simp only [hout, decide_false, Bool.false_eq_true, if_false] at hnew hold
    rw [if_pos h7, decide_eq_true h7, decide_eq_true (show j < 15 by omega), Bool.true_and, Bool.true_and]
    exact hnew.trans hold.symm
  · rw [if_neg h7]
    by_cases h15 : j < 15
    · obtain ⟨hword, hsel, hrwj⟩ := relayWord_bit hv (Nat.le_of_not_lt h7) h15
      rw [hword, if_pos (decide_eq_true (by omega)), if_pos ⟨hsel, hrwj⟩] at hnew
      rw [decide_eq_true h15, Bool.true_and]
      exact hnew
    · rw [decide_eq_false h15, Bool.false_and]
      exact (Nat.testBit_lt_two_pow (lt_of_lt_of_le (show v < 2 ^ 8 from hv) (Nat.pow_le_pow_right (by decide) (by omega)))).symm

/-- A write that publishes a relay stores the bits above the kept ones, and goes on to publish it. -/
theorem gives_relayWrite {b : Block} (hb : b.regs.wf = true) (src : Src) {v : Nat} (hv : v < 256) :
    ∃ b2, b2.u = b.u ∧ (∀ a, a ≠ R.RNG_RVCTL → b2.regs.get a = b.regs.get a) ∧ b2.regs.wf = true ∧
      (b2.regs.get R.RNG_RVCTL).toNat % 32768 = 128 * v + (b.regs.get R.RNG_RVCTL).toNat % 128 ∧
      ∀ b', Gives relayPublish b2 () b' → Gives (opWrite src R.RNG_RVCTL (relayWord v)) b () b' := by
  obtain ⟨r, hrow, hbase, hrw, hwo, hkp, hthree, hmask, hdom⟩ := rvctl_row
  have hword := relayWord_toNat hv
  have hsel : (relayWord v).toNat / 65536 = 0xFF80 := by rw [hword]; omega
  let b1 : Block := { b with upset := b.upset.filter (· ≠ R.RNG_RVCTL) }
  let new := mergeWord r (b.regs.get R.RNG_RVCTL) (relayWord v)
  refine ⟨b1.setReg R.RNG_RVCTL new, rfl, fun a ha => get_set_ne b.regs _ ha, wf_set b.regs R.RNG_RVCTL new hb, ?value, fun b' hpub => ?gives⟩
  case value => exact relayWord_stored hb hthree hrw hv
  case gives =>
    refine gives_opWrite (gives_fabricWrite (by decide) hrow hdom (by rw [hbase]; decide) hmask
      (gives_maskedWrite (gives_regView_held (by decide) b) (by rw [hsel]; decide) ?_ ?_))
    · rw [hsel, hkp, Nat.and_assoc]
      exact Nat.and_zero _
    · rw [hbase, hwo]
      refine gives_bind (gives_wr _ _ b1) (gives_ite_neg (by decide) (gives_ite_pos rfl (gives_onlyIf_true ?_ hpub)))
      simp only [relayWord_go v hv]
      decide

/-- What RNG_RVCTL and RNG_RVNUM give a relay, from block `b` on, with `v` written above the kept bits. -/
def relayBytes (b : Block) (v : Nat) : List Byte :=
  leBytes 2 (32768 + 128 * v + (b.regs.get R.RNG_RVCTL).toNat % 128) ++ zeros 2 ++
    leBytes 4 (F.RNG_RVNUML_NUM.of (b.regs.get R.RNG_RVNUML) + 65536 * F.RNG_RVNUMH_NUM.of (b.regs.get R.RNG_RVNUMH))

theorem relayed_rng {b b2 : Block} {v : Nat} (hu : b2.u = b.u) (hkept : ∀ a, a ≠ R.RNG_RVCTL → b2.regs.get a = b.regs.get a)
    (hctl : (b2.regs.get R.RNG_RVCTL).toNat % 32768 = 128 * v + (b.regs.get R.RNG_RVCTL).toNat % 128) :
    (relayed b2).u.rng = { b.u.rng with relay := some (relayBytes b v) } := by
  simp only [relayed, relayBytes, withU_u, hu, hctl, hkept R.RNG_RVNUML (by decide), hkept R.RNG_RVNUMH (by decide), Nat.add_assoc]

theorem relay_new {s : State} (hl : Live s) (hb : Canon s) (src : Src) {v : Nat} (hv : v < 256) (hnone : s.dev.u.rng.relay = none) :
    Does (.relayVerdictGo src (relayWord v)) s fun t => t.dev.u.rng = { s.dev.u.rng with relay := some (relayBytes s.dev v) } ∧
      t.fld F.RNG_STAT_RELAYREJ = s.fld F.RNG_STAT_RELAYREJ ∧ OnlyRegs [R.RNG_RVCTL] s t := by
  obtain ⟨b2, hu, hkept, -, hctl, hgives⟩ := gives_relayWrite hb src hv
  refine does_of_onLive rfl hl (hgives _ (gives_relayPublish_new (by rw [hu]; exact hnone))) ⟨relayed_rng hu hkept hctl, ?_, ?_⟩
  · exact congrArg F.RNG_STAT_RELAYREJ.of (hkept R.RNG_STAT (by decide))
  · exact fun a ha => hkept a fun e => ha (List.mem_singleton.2 e)

theorem relay_again {s : State} (hl : Live s) (hb : Canon s) (src : Src) {v : Nat} (hv : v < 256) {x : List Byte}
    (hsome : s.dev.u.rng.relay = some x) :
    Does (.relayVerdictGo src (relayWord v)) s fun t => t.dev.u.rng.relay = some (relayBytes s.dev v) ∧ t.fld F.RNG_STAT_RELAYREJ = 1 := by
  obtain ⟨b2, hu, hkept, hw, hctl, hgives⟩ := gives_relayWrite hb src hv
  refine does_of_onLive rfl hl (hgives _ (gives_relayPublish_again (by rw [hu]; exact hsome))) ⟨?_, ?_⟩
  · exact congrArg RngS.relay (relayed_rng hu hkept hctl)
  · exact setField_of_same (b := relayed b2) hw (by decide) 1

/-- Settles O53: a lost member and the module's own loss are shown by the registers that R548 and R549 name, in the order in which RT1
writes them, and a write of GO stores its bits before it publishes them. -/
theorem ringLosses : Obligations.RingLosses := by
  unfold Obligations.RingLosses
  refine ⟨?shown, ?holds, ?self, ?new, ?again, ?waits, ?selfWaits⟩
  case shown =>
    intro s a hl hb hhead hjoined hlen _ h2 h8 hstate hmissed hhold hup
    obtain ⟨t, he, hpend, hshown, hleads⟩ := memberLost_shows hl hb hhead hjoined hlen h2 h8 hstate hmissed hhold hup
    exact ⟨t, he, hpend, hshown.state, hshown.disagree, hshown.rng, hshown.joined, hshown.memLost, hleads, hshown.sys⟩
  case holds =>
    intro s a hl hb hhead hjoined hlen _ h2 h8 hstate hmissed hhold hup
    exact memberLost_holds hl hb hhead hjoined hlen h2 h8 hstate hmissed hhold hup
  case self => exact fun s hl hb hmember hjoined hlate hself hmissed hup => selfLost_shows hl hb hmember hjoined hlate hself hmissed hup
  case new => exact fun s src v hl hb hv hnone => relay_new hl hb src hv hnone
  case again => exact fun s src v x hl hb hv hsome => relay_again hl hb src hv hsome
  case waits => exact fun s a hl hdown => does_of_onLive rfl hl (gives_onCore_down hdown) rfl
  case selfWaits => exact fun s hl hdown => does_of_onLive rfl hl (gives_onCore_down hdown) rfl

end Sys2Proof.Machine
end

section
/-!
PROOF. Proofs/ServiceLine.lean: how the service port receives a request (R590 to R594): the bytes of a line reach it one after another, at
the bit time in force, and the last one makes the request whole.
-/
namespace Sys2Proof.Machine

/-! ### The port's data in the block -/

/-- The block with the service port's data replaced. -/
def Block.withSvc (b : Block) (v : SvcS) : Block := b.withU { b.u with svc := v }

@[simp] theorem withSvc_regs (b : Block) (v : SvcS) : (b.withSvc v).regs = b.regs := rfl
@[simp] theorem withSvc_svc (b : Block) (v : SvcS) : (b.withSvc v).u.svc = v := rfl
@[simp] theorem withSvc_withSvc (b : Block) (v w : SvcS) : (b.withSvc v).withSvc w = b.withSvc w := rfl

theorem gives_modSvc (f : SvcS → SvcS) (b : Block) : Gives (modSvc f) b () (b.withSvc (f b.u.svc)) := fun _ => rfl

/-- The port is enabled. -/
abbrev SvcOn (b : Block) : Prop := F.SVC_CTL_EN.of (b.regs.get R.SVC_CTL) = 1

theorem gives_svcOn {b : Block} (h : SvcOn b) : Gives (bf F.SVC_CTL_EN) b true b := by
  have hg := gives_bf F.SVC_CTL_EN b
  rwa [show F.SVC_CTL_EN.of (b.regs.get F.SVC_CTL_EN.reg) = 1 from h] at hg

theorem gives_svcOff {b : Block} (h : F.SVC_CTL_EN.of (b.regs.get R.SVC_CTL) = 0) : Gives (bf F.SVC_CTL_EN) b false b := by
  have hg := gives_bf F.SVC_CTL_EN b
  rwa [show F.SVC_CTL_EN.of (b.regs.get F.SVC_CTL_EN.reg) = 0 from h] at hg

/-! ### Lines and their lengths -/

theorem uartLine_length (l : List Byte) : (uartLine l).length = 160 * l.length := by
  induction l with
  | nil => rfl
  | cons x l ih =>
    have hcons : uartLine (x :: l) = uartLine [x] ++ uartLine l := by
      simp only [uartLine, List.flatMap_cons, List.flatMap_nil, List.append_nil]
    have hone : (uartLine [x]).length = 160 := rfl
    rw [hcons, List.length_append, hone, ih, List.length_cons]
    omega

/-- After whole bytes the receiver waits for a start bit. -/
theorem rxRun_idle (x : Byte) (l : List Byte) (k : Nat) : (rxRun { idle := k } (uartLine (x :: l))).1 = { idle := 0 } := by
  induction l generalizing x k with
  | nil => rw [rxRun_byte]
  | cons y l ih => rw [rxRun_cons, ih]

/-! ### Events -/

/-- When the sample came that `n` samples have followed, at the bit time in force. -/
def svcTime (b : Block) (n : Nat) : Nat := b.u.elapsed - n * max 32 b.u.svc.div * 1000 / 1536

/-- What the receiver does with one event of a line that ends at `t`. -/
def svcTake (t : Nat) (x : RxEvent × Nat) : Op Unit := do
  let v ← units
  let on ← bf F.SVC_CTL_EN
  onlyIf on (svcEvent (t - x.2 * max 32 v.svc.div * 1000 / 1536) x.1)

theorem gives_svcTake {b b' : Block} {x : RxEvent × Nat} {t : Nat} (hon : SvcOn b) (ht : b.u.elapsed = t)
    (h : Gives (svcEvent (svcTime b x.2) x.1) b () b') : Gives (svcTake t x) b () b' := by
  subst ht
  exact gives_bind (gives_units b) (gives_bind (gives_svcOn hon) (gives_onlyIf_true rfl h))

/-- A line reaches an enabled receiver. -/
theorem gives_svcLine {b b' : Block} {line : List Bool} (hon : SvcOn b)
    (h : Gives (each (svcTake b.u.elapsed) (rxRun b.u.svc.rx line).2) (b.withSvc { b.u.svc with rx := (rxRun b.u.svc.rx line).1 }) () b') :
    Gives (opSvcLine line) b () b' :=
  gives_bind (gives_now b) (gives_bind (gives_units b) (gives_bind (gives_svcOn hon) (gives_onlyIf_true rfl
    (gives_bind (gives_modSvc _ b) h))))

/-- The divisor in force from a start bit on that ends `k` idle samples (R592). -/
def svcDiv (b : Block) (k : Nat) : Nat := if 16 ≤ k then F.SVC_BAUD_DIV.of (b.regs.get R.SVC_BAUD) else b.u.svc.div

theorem gives_svcStart (b : Block) (t k : Nat) :
    Gives (svcEvent t (.start (decide (16 ≤ k)))) b () (b.withSvc { b.u.svc with div := svcDiv b k }) := by
  unfold svcDiv
  by_cases h : 16 ≤ k
  · simp only [h, decide_true, if_true]
    exact gives_onlyIf_true rfl (gives_bind (gives_gf _ b) (gives_modSvc _ b))
  · simp only [h, decide_false, if_false]
    exact gives_onlyIf_false rfl

/-! ### Bytes -/

theorem gives_svcLate_none {b : Block} {t : Nat} (h : b.u.svc.req = [] ∨ t ≤ b.u.svc.lastAt + 1000000) : Gives (svcLate t) b () b := by
  refine gives_bind (gives_units b) (gives_onlyIf_false ?_)
  rcases h with h | h
  · simp [h]
  · simp [Nat.not_lt.2 h]

/-- Whether the bytes of a request are all there, or show an OP that is none. -/
def requestEnds (req : List Byte) : Bool :=
  decide (req.length = requestLen (req.getD 1 0).toNat) ||
    (decide (req.length = 2) && (req.getD 1 0).toNat != 1 && (req.getD 1 0).toNat != 2)

/-- The block after a byte at `t` that makes the bytes of the request `req`. -/
def svcTaken (b : Block) (t : Nat) (req : List Byte) : Block := b.withSvc { b.u.svc with req := req, lastAt := t }

theorem gives_svcByte_more {b : Block} {t : Nat} {r : List Byte} {x : Byte} (hreq : b.u.svc.req = r)
    (hlate : r = [] ∨ t ≤ b.u.svc.lastAt + 1000000) (hhead : (r ++ [x]).getD 0 0 = 0x5A) (hends : requestEnds (r ++ [x]) = false) :
    Gives (svcByte t x) b () (svcTaken b t (r ++ [x])) := by
  subst hreq
  exact gives_bind (gives_svcLate_none hlate) (gives_bind (gives_units b) (gives_onlyIf_true (by rw [hhead]; rfl)
    (gives_bind (gives_modSvc _ b) (gives_onlyIf_false hends))))

theorem gives_svcByte_last {b b' : Block} {t : Nat} {r : List Byte} {x : Byte} (hreq : b.u.svc.req = r)
    (hlate : r = [] ∨ t ≤ b.u.svc.lastAt + 1000000) (hhead : (r ++ [x]).getD 0 0 = 0x5A) (hends : requestEnds (r ++ [x]) = true)
    (hwhole : Gives (svcWhole t (r ++ [x])) (svcTaken b t (r ++ [x])) () b') : Gives (svcByte t x) b () b' := by
  subst hreq
  exact gives_bind (gives_svcLate_none hlate) (gives_bind (gives_units b) (gives_onlyIf_true (by rw [hhead]; rfl)
    (gives_bind (gives_modSvc _ b) (gives_onlyIf_true hends hwhole))))

/-- Bytes that follow each other at a bit time of at most 9,600 cycles of 96 MHz are no more than 1 ms apart. -/
theorem svcTime_next {b : Block} (h : max 32 b.u.svc.div ≤ 9600) (n : Nat) : svcTime b n ≤ svcTime b (n + 160) + 1000000 := by
  unfold svcTime
  rw [Nat.add_mul]
  generalize n * max 32 b.u.svc.div = x
  omega

/-- The bytes `l` that follow those of a request that has begun, at the bit time in force. -/
theorem gives_svcRest {b' : Block} (l : List Byte) : ∀ (b : Block) (r : List Byte), SvcOn b → b.u.svc.req = r → max 32 b.u.svc.div ≤ 9600 →
    b.u.svc.lastAt = svcTime b (7 + 160 * l.length) → l ≠ [] → 2 ≤ r.length → r.getD 0 0 = 0x5A →
    (r.getD 1 0).toNat = 1 ∨ (r.getD 1 0).toNat = 2 → r.length + l.length = requestLen (r.getD 1 0).toNat →
    Gives (svcWhole (svcTime b 7) (r ++ l)) (svcTaken b (svcTime b 7) (r ++ l)) () b' →
    Gives (each (svcTake b.u.elapsed) (rxRun { idle := 0 } (uartLine l)).2) b () b' := by
  induction l with
  | nil => exact fun _ _ _ _ _ _ h => absurd rfl h
  | cons x l ih =>
    intro b r hon hreq hrate hlast _ h2 hhead hop hlen hwhole
    rw [rxRun_cons, uartLine_length]
    have hlate : svcTime b (7 + 160 * l.length) ≤ b.u.svc.lastAt + 1000000 := by
      rw [hlast, List.length_cons, Nat.mul_add, ← Nat.add_assoc]
      exact svcTime_next hrate _
    have hget0 : (r ++ [x]).getD 0 0 = 0x5A := by rw [List.getD_append _ _ _ _ (by omega), hhead]
    have hget1 : (r ++ [x]).getD 1 0 = r.getD 1 0 := List.getD_append _ _ _ _ (by omega)
    have hthree : (r ++ [x]).length = r.length + 1 := by simp
    refine gives_each_cons (gives_svcTake hon rfl (gives_svcStart b _ 0)) ?_
    change Gives _ b () b'
    cases l with
    | nil =>
      have hends : requestEnds (r ++ [x]) = true := by
        rw [requestEnds, hget1, hthree, show r.length + 1 = _ from hlen]
        simp
      exact gives_each_cons (gives_svcTake hon rfl (gives_svcByte_last hreq (.inr hlate) hget0 hends hwhole)) (gives_each_nil _ b')
    | cons y l =>
      have hends : requestEnds (r ++ [x]) = false := by
        simp only [List.length_cons] at hlen
        rw [requestEnds, hget1, hthree, decide_eq_false (by omega), decide_eq_false (by omega)]
        rfl
      refine gives_each_cons (gives_svcTake hon rfl (gives_svcByte_more hreq (.inr hlate) hget0 hends)) ?_
      refine ih (svcTaken b _ _) (r ++ [x]) hon rfl hrate rfl (by simp) (by omega) hget0 (hget1 ▸ hop) ?_ ?_
      · rw [hget1, hthree, ← hlen]
        simp only [List.length_cons]
        omega
      · rw [List.append_assoc]
        exact hwhole

/-! ### Requests -/

/-- The port's data when the last byte of request `req` has come, on a line idle for `k` samples before it. -/
def svcRequest (b : Block) (k : Nat) (req : List Byte) : SvcS :=
  { b.u.svc with rx := { idle := 0 }, div := svcDiv b k, req := req, lastAt := b.u.elapsed - 7 * max 32 (svcDiv b k) * 1000 / 1536 }

/-- A whole request reaches an enabled port that waits for one. -/
theorem gives_svcRequest {b b' : Block} {k : Nat} {op : Byte} {l : List Byte} (hon : SvcOn b) (hrx : b.u.svc.rx = { idle := k })
    (hreq : b.u.svc.req = []) (hrate : max 32 (svcDiv b k) ≤ 9600) (hop : op.toNat = 1 ∨ op.toNat = 2) (hlen : 2 + l.length = requestLen op.toNat)
    (hwhole : Gives (svcWhole (svcRequest b k (0x5A :: op :: l)).lastAt (0x5A :: op :: l)) (b.withSvc (svcRequest b k (0x5A :: op :: l))) () b') :
    Gives (opSvcLine (uartLine (0x5A :: op :: l))) b () b' := by
  have hl : l ≠ [] := by
    rintro rfl
    rcases hop with h | h <;> simp [h, requestLen] at hlen
  refine gives_svcLine hon ?_
  rw [hrx, rxRun_idle, rxRun_cons, rxRun_cons, uartLine_length, uartLine_length]
  let b1 : Block := b.withSvc { b.u.svc with rx := { idle := 0 }, div := svcDiv b k }
  let b2 : Block := svcTaken b1 (svcTime b1 (7 + 160 * (l.length + 1))) [0x5A]
  let b3 : Block := svcTaken b2 (svcTime b2 (7 + 160 * l.length)) [0x5A, op]
  have hsecond : requestEnds ([0x5A] ++ [op]) = false := by
    rcases hop with h | h <;> simp [requestEnds, requestLen, h]
  have hlate : svcTime b2 (7 + 160 * l.length) ≤ b2.u.svc.lastAt + 1000000 := by
    have := svcTime_next (b := b2) hrate (7 + 160 * l.length)
    rwa [Nat.add_assoc, ← Nat.mul_succ] at this
  refine gives_each_cons (gives_svcTake hon rfl (gives_svcStart _ _ k)) ?_
  change Gives _ b1 () b'
  refine gives_each_cons (b' := b2) (gives_svcTake (b := b1) hon rfl (gives_svcByte_more (r := []) hreq (.inl rfl) rfl rfl)) ?_
  refine gives_each_cons (gives_svcTake hon rfl (gives_svcStart _ _ 0)) ?_
  change Gives _ b2 () b'
  refine gives_each_cons (b' := b3) (gives_svcTake (b := b2) hon rfl (gives_svcByte_more rfl (.inr hlate) rfl hsecond)) ?_
  have htime : svcTime b3 7 = (svcRequest b k (0x5A :: op :: l)).lastAt := by
    simp only [svcTime, svcRequest]
    rfl
  have hdiv : max 32 b3.u.svc.div ≤ 9600 := hrate
  have hlast : b3.u.svc.lastAt = svcTime b3 (7 + 160 * l.length) := rfl
  refine gives_svcRest l b3 [0x5A, op] hon rfl hdiv hlast hl (by simp) rfl hop hlen ?_
  have hblock : svcTaken b3 (svcRequest b k (0x5A :: op :: l)).lastAt (0x5A :: op :: l) = b.withSvc (svcRequest b k (0x5A :: op :: l)) := by
    simp only [b3, b2, b1, svcTaken, withSvc_withSvc, withSvc_svc]
    rfl
  rw [htime, show [0x5A, op] ++ l = 0x5A :: op :: l from rfl, hblock]
  exact hwhole

end Sys2Proof.Machine
end

section
/-!
PROOF. Proofs/ServiceRequests.lean: what the service port makes of a whole request (R593 to R595): it is discarded, or served and answered.
-/
namespace Sys2Proof.Machine

/-! ### Check bytes -/

theorem crc8Bit_lt (c : Nat) (h : c < 256) : crc8Bit c < 256 := by
  unfold crc8Bit
  split
  · exact Nat.xor_lt_two_pow (n := 8) (by omega) (by omega)
  · omega

theorem crc8_lt (l : List Byte) : crc8 l < 256 := by
  refine List.foldlRecOn (motive := fun c => c < 256) l _ (by decide) fun c hc x _ => ?_
  have hx : c ^^^ x.toNat < 256 := Nat.xor_lt_two_pow (n := 8) hc x.isLt
  exact crc8Bit_lt _ (crc8Bit_lt _ (crc8Bit_lt _ (crc8Bit_lt _ (crc8Bit_lt _ (crc8Bit_lt _ (crc8Bit_lt _ (crc8Bit_lt _ hx)))))))

theorem crc8_byte (l : List Byte) : (BitVec.ofNat 8 (crc8 l)).toNat = crc8 l := by
  rw [BitVec.toNat_ofNat]
  exact Nat.mod_eq_of_lt (crc8_lt l)

/-! ### Discarded requests (R594) -/

/-- The block with a request discarded for the cause that field `f` shows. -/
def svcDiscarded (b : Block) (f : RF) : Block :=
  (b.setField f 1).setField F.SVC_ERRCNT_CNT
    (satAdd (2 ^ 32 - 1) (F.SVC_ERRCNT_CNT.of ((b.setField f 1).regs.get R.SVC_ERRCNT)) 1)

theorem gives_svcDiscard (f : RF) (b : Block) : Gives (svcDiscard f) b () (svcDiscarded b f) :=
  gives_bind (gives_sb f true b) (gives_cntSat _ 1 _)

/-- What a discarded request shows: its cause, the count, and nothing else. -/
theorem svcDiscarded_shows {b : Block} (hb : b.regs.wf = true) {f : RF} (hf : f.Held) (hr : f.reg = R.SVC_STAT) (h1 : f.hi = f.lo) :
    f.of ((svcDiscarded b f).regs.get f.reg) = 1 ∧
      F.SVC_ERRCNT_CNT.of ((svcDiscarded b f).regs.get R.SVC_ERRCNT) = min (F.SVC_ERRCNT_CNT.of (b.regs.get R.SVC_ERRCNT) + 1) 0xFFFFFFFF ∧
      ∀ a, a ∉ [R.SVC_STAT, R.SVC_ERRCNT] → (svcDiscarded b f).regs.get a = b.regs.get a := by
  have hne : f.reg ≠ F.SVC_ERRCNT_CNT.reg := by rw [hr]; decide
  have hcount : (b.setField f 1).regs.get R.SVC_ERRCNT = b.regs.get R.SVC_ERRCNT :=
    setField_get_ne b f 1 (by rw [hr]; decide)
  refine ⟨?_, ?_, fun a ha => ?_⟩
  · rw [svcDiscarded, setField_get_ne _ _ _ hne, setField_of_same hb hf, h1, Nat.add_sub_cancel_left]
    rfl
  · refine (setField_of_same (setField_wf hb f 1) (by decide) _).trans ?_
    rw [hcount]
    change satAdd (2 ^ 32 - 1) _ 1 % 2 ^ 32 = _
    unfold satAdd
    omega
  · simp only [List.mem_cons, List.not_mem_nil, or_false, not_or] at ha
    rw [svcDiscarded, setField_get_ne _ _ _ (show a ≠ R.SVC_ERRCNT from ha.2), setField_get_ne _ _ _ (by rw [hr]; exact ha.1)]

/-! ### Answers (R592, R593) -/

/-- The bytes of an answer. -/
abbrev svcAnswerBytes (status v : Nat) : List Byte :=
  [0xA5] ++ (leBytes 2 status ++ leBytes 4 v) ++ [BitVec.ofNat 8 (crc8 (leBytes 2 status ++ leBytes 4 v))]

/-- The block with an answer on its way, at the bit time in force. -/
def svcAnswered (b : Block) (status : Nat) (w : Word) : Block :=
  ((b.setField F.SVC_RXCNT_CNT (F.SVC_RXCNT_CNT.of (b.regs.get R.SVC_RXCNT) + 1)).withU { b.u with
    out := b.u.out ++ [.uart (svcAnswerBytes status w.toNat)] }).withSvc
    { b.u.svc with answering := some (b.u.elapsed + 80 * max 32 b.u.svc.div * 1000 / 96) }

theorem gives_svcAnswer {b : Block} (hon : SvcOn b) (status : Nat) (w : Word) : Gives (svcAnswer status w) b () (svcAnswered b status w) :=
  gives_bind (gives_now b) (gives_bind (gives_units b) (gives_bind (gives_svcOn hon) (gives_onlyIf_true rfl
    (gives_bind (gives_emit _ b) (gives_bind (gives_cntWrap _ 1 _) (gives_modU _ _))))))

/-- What an answer shows: its bytes, the count, how long it takes, and nothing else. -/
theorem svcAnswered_shows {b : Block} (hb : b.regs.wf = true) (status : Nat) (w : Word) :
    (svcAnswered b status w).u.out = b.u.out ++ [.uart (svcAnswerBytes status w.toNat)] ∧
      F.SVC_RXCNT_CNT.of ((svcAnswered b status w).regs.get R.SVC_RXCNT) = (F.SVC_RXCNT_CNT.of (b.regs.get R.SVC_RXCNT) + 1) % 2 ^ 32 ∧
      ∀ a, a ≠ R.SVC_RXCNT → (svcAnswered b status w).regs.get a = b.regs.get a :=
  ⟨rfl, setField_of_same hb (by decide) _, fun _ ha => setField_get_ne b F.SVC_RXCNT_CNT _ ha⟩

/-! ### Whole requests (R593 to R595) -/

/-- The bytes of a request with OP `op`, address `a`, further bytes `d`, and check byte `c`. -/
abbrev svcBytes (op : Byte) (a : Nat) (d : List Byte) (c : Byte) : List Byte := 0x5A :: op :: (leBytes 4 a ++ d ++ [c])

/-- A request has the length of its OP. -/
abbrev OpLength (op : Byte) (d : List Byte) : Prop := op.toNat = 1 ∧ d.length = 0 ∨ op.toNat = 2 ∧ d.length = 4

theorem opLength_requestLen {op : Byte} {d : List Byte} (h : OpLength op d) : requestLen op.toNat = 7 + d.length := by
  rcases h with ⟨ho, hd⟩ | ⟨ho, hd⟩ <;> simp [requestLen, ho, hd]

/-- The check byte of a request, and what it covers. -/
theorem svcBytes_check {op : Byte} {d : List Byte} (h : OpLength op d) (a : Nat) (c : Byte) :
    slice (svcBytes op a d c) 1 (requestLen op.toNat - 2) = op :: (leBytes 4 a ++ d) ∧
      (svcBytes op a d c).getD (requestLen op.toNat - 1) 0 = c := by
  rw [opLength_requestLen h]
  have hlen : (leBytes 4 a ++ d).length = 4 + d.length := by simp
  refine ⟨?_, ?_⟩
  · rw [slice, show 7 + d.length - 2 = (4 + d.length) + 1 by omega, List.drop_succ_cons, List.drop_zero, List.take_succ_cons, ← hlen,
      List.take_left]
  · rw [show 7 + d.length - 1 = (4 + d.length) + 1 + 1 by omega, List.getD_cons_succ, List.getD_cons_succ, List.getD_append_right _ _ _ _ (by omega),
      hlen, Nat.sub_self]
    rfl

theorem svcBytes_addr (op : Byte) (a : Nat) (d : List Byte) (c : Byte) : leAt (svcBytes op a d c) 2 4 = a % 2 ^ 32 := by
  have := leAt_append [0x5A, op] (d ++ [c]) 2 4 a rfl
  rw [← List.append_assoc] at this
  exact this

variable {b b' : Block} {t : Nat} {op : Byte} {a : Nat} {d : List Byte} {c : Byte}

/-- A request that comes before the last answer has left is discarded. -/
theorem gives_svcWhole_overlap (req : List Byte) (h : t < b.u.svc.answering.getD 0) :
    Gives (svcWhole t req) b () (svcDiscarded (b.withSvc { b.u.svc with req := [] }) F.SVC_STAT_OVERLAP) :=
  gives_bind (gives_units b) (gives_bind (gives_modSvc _ b) (gives_ite_pos h (gives_svcDiscard _ _)))

/-- A request with a wrong check byte is discarded. -/
theorem gives_svcWhole_crc (h : ¬ t < b.u.svc.answering.getD 0) (hop : OpLength op d) (hc : c.toNat ≠ crc8 (op :: (leBytes 4 a ++ d))) :
    Gives (svcWhole t (svcBytes op a d c)) b () (svcDiscarded (b.withSvc { b.u.svc with req := [] }) F.SVC_STAT_CRCERR) := by
  obtain ⟨hslice, hget⟩ := svcBytes_check hop a c
  refine gives_bind (gives_units b) (gives_bind (gives_modSvc _ b) (gives_ite_neg h (gives_ite_pos ?_ (gives_svcDiscard _ _))))
  change ((op.toNat == 1 || op.toNat == 2) && crc8 (slice (svcBytes op a d c) 1 (requestLen op.toNat - 2)) ==
    ((svcBytes op a d c).getD (requestLen op.toNat - 1) 0).toNat) = false
  rw [hslice, hget]
  simp [Ne.symm hc]

/-- A request in time with its check byte is served by its OP. -/
theorem gives_svcWhole_good (h : ¬ t < b.u.svc.answering.getD 0) (hop : OpLength op d) (hc : c.toNat = crc8 (op :: (leBytes 4 a ++ d)))
    (hserve : Gives (if op.toNat = 1 then svcLoad (a % 2 ^ 32) else svcStore (a % 2 ^ 32) (BitVec.ofNat 32 (leAt (svcBytes op a d c) 6 4)))
      (b.withSvc { b.u.svc with req := [] }) () b') : Gives (svcWhole t (svcBytes op a d c)) b () b' := by
  obtain ⟨hslice, hget⟩ := svcBytes_check hop a c
  rw [← svcBytes_addr op a d c] at hserve
  refine gives_bind (gives_units b) (gives_bind (gives_modSvc _ b) (gives_ite_neg h (gives_ite_neg ?_ hserve)))
  change ¬ ((op.toNat == 1 || op.toNat == 2) && crc8 (slice (svcBytes op a d c) 1 (requestLen op.toNat - 2)) ==
    ((svcBytes op a d c).getD (requestLen op.toNat - 1) 0).toNat) = false
  rw [hslice, hget, hc]
  rcases hop with ⟨ho, -⟩ | ⟨ho, -⟩ <;> simp [ho]

/-! ### What a request does -/

theorem gives_svcLoad {st : Nat} {w : Word} (hon : SvcOn b) (ha : a % 4 = 0) (hr : Gives (fabricRead false a) b (st, w) b) :
    Gives (svcLoad a) b () (svcAnswered b st w) :=
  gives_ite_neg (by simp [ha]) (gives_bind hr (gives_svcAnswer hon st w))

theorem gives_svcStore_denied (hon : SvcOn b) (ha : a % 4 = 0) (w : Word) (hm : F.SYS_MODE_CUR.of (b.regs.get R.SYS_MODE) ≠ modeService) :
    Gives (svcStore a w) b () (svcAnswered b St.denied 0) :=
  gives_bind (gives_gf _ b) (gives_ite_neg (by simp [ha]) (gives_ite_pos hm (gives_svcAnswer hon _ _)))

theorem gives_svcStore_service {st : Nat} {w : Word} (hon : SvcOn b') (ha : a % 4 = 0)
    (hm : F.SYS_MODE_CUR.of (b.regs.get R.SYS_MODE) = modeService) (hw : Gives (fabricWrite .service a w) b st b') :
    Gives (svcStore a w) b () (svcAnswered b' st 0) :=
  gives_bind (gives_gf _ b) (gives_ite_neg (by simp [ha]) (gives_ite_neg (fun h => h hm) (gives_bind hw (gives_svcAnswer hon _ _))))

/-! ### A request on the line of a state -/

variable {s : State} {k : Nat}

/-- The block in which a request that came on a line idle for `k` samples is served. -/
def svcServing (s : State) (k : Nat) : Block :=
  s.dev.withSvc { s.dev.u.svc with rx := { idle := 0 }, div := svcDiv s.dev k, req := [], lastAt := s.svcByteAt k }

theorem gives_svcReceived (hon : s.fld F.SVC_CTL_EN = 1) (hidle : SvcIdle s k) (hrate : s.svcRate k ≤ 9600) (hop : OpLength op d)
    (hwhole : Gives (svcWhole (s.svcByteAt k) (svcBytes op a d c)) (s.dev.withSvc (svcRequest s.dev k (svcBytes op a d c))) () b') :
    Gives (opSvcLine (uartLine (svcBytes op a d c))) s.dev () b' := by
  obtain ⟨hrx, hreq⟩ := hidle
  have hlen : 2 + (leBytes 4 a ++ d ++ [c]).length = requestLen op.toNat := by
    rw [opLength_requestLen hop]
    simp only [List.length_append, leBytes_length, List.length_singleton]
    omega
  exact gives_svcRequest hon hrx hreq hrate (hop.imp (fun h => h.1) fun h => h.1) hlen hwhole

/-- A request in time with its check byte, on an idle line. -/
theorem gives_svcServed (hready : SvcReady s k) (hop : OpLength op d)
    (hserve : Gives (if op.toNat = 1 then svcLoad (a % 2 ^ 32)
      else svcStore (a % 2 ^ 32) (BitVec.ofNat 32 (leAt (svcBytes op a d (BitVec.ofNat 8 (crc8 (op :: (leBytes 4 a ++ d))))) 6 4)))
      (svcServing s k) () b') :
    Gives (opSvcLine (uartLine (svcBytes op a d (BitVec.ofNat 8 (crc8 (op :: (leBytes 4 a ++ d))))))) s.dev () b' := by
  obtain ⟨hon, hidle, hans, hrate⟩ := hready
  exact gives_svcReceived hon hidle hrate hop (gives_svcWhole_good (Nat.not_lt.2 hans) hop (crc8_byte _) hserve)

/-- A read request of the address `a`. -/
theorem svcBytes_read (a : Nat) (c : Byte) : [0x5A, 1] ++ leBytes 4 a ++ [c] = svcBytes 1 a [] c := by simp [svcBytes]

/-- A write request of the word `w` to the address `a`. -/
theorem svcBytes_write (a : Nat) (w : Word) (c : Byte) : [0x5A, 2] ++ leBytes 4 a ++ leBytes 4 w.toNat ++ [c] = svcBytes 2 a (leBytes 4 w.toNat) c := by
  simp [svcBytes]

theorem svcBytes_word (a : Nat) (w : Word) (c : Byte) : BitVec.ofNat 32 (leAt (svcBytes 2 a (leBytes 4 w.toNat) c) 6 4) = w := by
  have := leAt_append (0x5A :: 2 :: leBytes 4 a) [c] 6 4 w.toNat (by simp)
  rw [show (0x5A :: 2 :: leBytes 4 a) ++ (leBytes 4 w.toNat ++ [c]) = svcBytes 2 a (leBytes 4 w.toNat) c by simp [svcBytes]] at this
  rw [this]
  exact BitVec.eq_of_toNat_eq (by rw [BitVec.toNat_ofNat]; omega)

/-- A read request of an address within 32 bits answers what the fabric shows there. -/
theorem svcRead_answers {st : Nat} {w : Word} (hready : SvcReady s k) (ha : a % 4 = 0) (h32 : a < 2 ^ 32)
    (hr : Gives (fabricRead false a) (svcServing s k) (st, w) (svcServing s k)) :
    Gives (opSvcLine (uartLine ([0x5A, 1] ++ leBytes 4 a ++ [BitVec.ofNat 8 (crc8 ([1] ++ leBytes 4 a))]))) s.dev ()
      (svcAnswered (svcServing s k) st w) := by
  have hcrc : [1] ++ leBytes 4 a = (1 : Byte) :: (leBytes 4 a ++ []) := by simp
  rw [svcBytes_read, hcrc]
  refine gives_svcServed hready (.inl ⟨rfl, rfl⟩) (gives_ite_pos rfl ?_)
  rw [Nat.mod_eq_of_lt h32]
  exact gives_svcLoad hready.1 ha hr

/-- A write request of an address within 32 bits stores its word. -/
theorem svcWrite_stores {w : Word} (hready : SvcReady s k) (h32 : a < 2 ^ 32) (hw : Gives (svcStore a w) (svcServing s k) () b') :
    Gives (opSvcLine (uartLine ([0x5A, 2] ++ leBytes 4 a ++ leBytes 4 w.toNat ++
      [BitVec.ofNat 8 (crc8 ([2] ++ leBytes 4 a ++ leBytes 4 w.toNat))]))) s.dev () b' := by
  have hcrc : [2] ++ leBytes 4 a ++ leBytes 4 w.toNat = (2 : Byte) :: (leBytes 4 a ++ leBytes 4 w.toNat) := by simp
  rw [svcBytes_write, hcrc]
  refine gives_svcServed hready (.inr ⟨rfl, leBytes_length 4 _⟩) (gives_ite_neg (by decide) ?_)
  rw [svcBytes_word, Nat.mod_eq_of_lt h32]
  exact hw

end Sys2Proof.Machine
end

section
/-!
PROOF. Proofs/ServicePorts.lean: the commands of the service port and of the test port, and the statement about them.
-/
namespace Sys2Proof.Machine

variable {s : State} {k a : Nat}

/-- What a state shows once the service port has answered: the bytes, the count, and nothing else. -/
abbrev SvcAnswers (s t : State) (status v : Nat) : Prop :=
  t.dev.u.out = s.dev.u.out ++ [.uart (svcAnswerBytes status v)] ∧ t.fld F.SVC_RXCNT_CNT = (s.fld F.SVC_RXCNT_CNT + 1) % 2 ^ 32

/-! ### Reads (R595) -/

/-- A register outside the windows of the valves and of the blowers is always on. -/
theorem regDomain_none {r : RegRow} (he : a / 0x10000 ≠ 0xE) (hf : a / 0x10000 ≠ 0xF) : regDomain r a = none := by
  unfold regDomain
  split
  · exact absurd ‹_› he
  · exact absurd ‹_› hf
  · rfl

theorem plain_row (h : Plain a) : ∃ r i, rowOf a = some (r, i) ∧ privileged a = false ∧ regDomain r a = none ∧ a < 2 ^ 32 := by
  obtain ⟨hrow, hwin⟩ := h
  have hsmall : a / 0x10000 ≤ 0xC := by
    simp only [List.mem_cons, List.not_mem_nil, or_false] at hwin
    omega
  cases hr : rowOf a with
  | none => simp [hr] at hrow
  | some x =>
    refine ⟨x.1, x.2, rfl, ?_, regDomain_none (by omega) (by omega), by omega⟩
    simp only [privileged, decide_eq_false_iff_not]
    omega

theorem svcRead_plain (hl : Live s) (hb : Canon s) (hready : SvcReady s k) (hp : Plain a) (ha : a % 4 = 0) :
    Does (.svcRead (uartLine ([0x5A, 1] ++ leBytes 4 a ++ [BitVec.ofNat 8 (crc8 ([1] ++ leBytes 4 a))]))) s fun t =>
      SvcAnswers s t St.ok (s.reg a).toNat ∧ t.dev.u.svc.answering = some (s.dev.u.elapsed + 80 * s.svcRate k * 1000 / 96) ∧
        OnlyRegs [R.SVC_RXCNT] s t := by
  obtain ⟨r, i, hrow, hpriv, hdom, h32⟩ := plain_row hp
  obtain ⟨hout, hcnt, hregs⟩ := svcAnswered_shows (b := svcServing s k) hb St.ok (s.reg a)
  exact does_of_onLive rfl hl (svcRead_answers hready ha h32 (gives_fabricRead hpriv hrow hdom (gives_regView_held hp.2 _)))
    ⟨⟨hout, hcnt⟩, rfl, fun c hc => hregs c fun e => hc (List.mem_singleton.2 e)⟩

/-- A register with a domain of its own stands in the window of the valves or of the blowers. -/
theorem regDomain_window {r : RegRow} {d : Nat} (h : regDomain r a = some d) : a / 0x10000 = 0xE ∨ a / 0x10000 = 0xF := by
  unfold regDomain at h
  split at h
  · exact .inl ‹_›
  · exact .inr ‹_›
  · cases h

/-- A domain that is not on reads 0. -/
theorem off_of_not_powered {d : Nat} (h : ¬ s.powered d) : (domField d).of (s.reg (domField d).reg) = 0 := by
  have hlt : (domField d).of (s.reg (domField d).reg) < 2 := by
    have hone : d % 32 + 1 - d % 32 = 1 := by omega
    simp only [RF.of, bits, domField, hone]
    exact Nat.mod_lt _ (by decide)
  have hne : (domField d).of (s.reg (domField d).reg) ≠ 1 := h
  omega

theorem svcRead_off (hl : Live s) (hb : Canon s) (hready : SvcReady s k) (ha : a % 4 = 0) {r : RegRow} {i d : Nat}
    (hrow : rowOf a = some (r, i)) (hdom : regDomain r a = some d) (hoff : ¬ s.powered d) :
    Does (.svcRead (uartLine ([0x5A, 1] ++ leBytes 4 a ++ [BitVec.ofNat 8 (crc8 ([1] ++ leBytes 4 a))]))) s fun t =>
      SvcAnswers s t St.domainOff 0 ∧ OnlyRegs [R.SVC_RXCNT] s t := by
  have hwin := regDomain_window hdom
  have hpriv : privileged a = false := hwin.elim (fun h => privileged_of_window h (by decide)) fun h => privileged_of_window h (by decide)
  obtain ⟨hout, hcnt, hregs⟩ := svcAnswered_shows (b := svcServing s k) hb St.domainOff 0
  exact does_of_onLive rfl hl (svcRead_answers hready ha (by omega) (gives_fabricRead_off false hpriv hrow hdom (off_of_not_powered hoff)))
    ⟨⟨hout, hcnt⟩, fun c hc => hregs c fun e => hc (List.mem_singleton.2 e)⟩

/-! ### Writes (R595) -/

theorem svcWrite_denied {w : Word} (hl : Live s) (hb : Canon s) (hready : SvcReady s k) (h32 : a < 2 ^ 32) (ha : a % 4 = 0) (hm : s.mode ≠ 6) :
    Does (.svcWrite (uartLine ([0x5A, 2] ++ leBytes 4 a ++ leBytes 4 w.toNat ++
      [BitVec.ofNat 8 (crc8 ([2] ++ leBytes 4 a ++ leBytes 4 w.toNat))]))) s fun t =>
      SvcAnswers s t St.denied 0 ∧ OnlyRegs [R.SVC_RXCNT] s t := by
  obtain ⟨hout, hcnt, hregs⟩ := svcAnswered_shows (b := svcServing s k) hb St.denied 0
  exact does_of_onLive rfl hl (svcWrite_stores hready h32 (gives_svcStore_denied (b := svcServing s k) hready.1 ha w hm))
    ⟨⟨hout, hcnt⟩, fun c hc => hregs c fun e => hc (List.mem_singleton.2 e)⟩

theorem findRow_mem {l : List RegRow} {r : RegRow} {i : Nat} (h : findRow l a = some (r, i)) : r ∈ l := by
  induction l with
  | nil => cases h
  | cons x l ih =>
    simp only [findRow] at h
    split at h
    · cases h
      exact List.mem_cons_self
    · exact List.mem_cons_of_mem _ (ih h)

/-- The rows of the ledger unit stand in its window. -/
theorem rowsPCL_window : ∀ r ∈ rowsPCL, r.base / 0x10000 = 0xC := by decide

/-- A write in the window of the ledger unit stores its word, and starts nothing. -/
theorem gives_unitWrite_ledger {src : Src} {base i : Nat} {new acts raw : Word} (ha : a / 0x10000 = 0xC) (hbase : base / 0x10000 = 0xC) (b : Block) :
    Gives (unitWrite src base i a new acts raw) b () (b.setReg a new) := by
  have hne : ∀ c, c / 0x10000 ≠ 0xC → (base == c) = false := fun c hc => beq_false_of_ne fun e => hc (e ▸ hbase)
  unfold unitWrite
  rw [ha]
  refine gives_bind (gives_wr a new b) (gives_bind (gives_onlyIf_false (hne _ (by decide))) (gives_bind (gives_onlyIf_false ?_)
    (gives_bind (gives_onlyIf_false ?_) (gives_bind (gives_onlyIf_false (hne _ (by decide))) (gives_bind (gives_onlyIf_false (hne _ (by decide)))
      (gives_onlyIf_false ?_))))))
  · rw [hne _ (by decide), Bool.false_and]
  · rw [hne _ (by decide), Bool.false_and]
  · rw [hne _ (by decide), Bool.false_and]

/-- An RW bit holds what is stored in it. -/
theorem impl_of_rw {r : RegRow} {i j : Nat} (hrow : rowOf a = some (r, i)) (hj : j < 32) (h : bitAt r.rw j = true) :
    bitAt (regImpl a).toNat j = true := by
  have himpl : regImpl a = BitVec.ofNat 32 r.impl := by simp [regImpl, hrow]
  have hrw : r.rw.testBit j = true := h
  rw [himpl, bitAt, BitVec.toNat_ofNat, Nat.testBit_mod_two_pow, RegRow.impl, Nat.testBit_or, Nat.testBit_or, hrw]
  simp [hj]

/-- A masked write to a control register of the ledger unit, in the block: the bits that the mask selects are the word's. -/
theorem gives_ledgerWrite {src : Src} {r : RegRow} {i : Nat} {w : Word} {b : Block} (hb : b.regs.wf = true) (hrow : rowOf a = some (r, i))
    (hmask : r.mask = true) (hthree : r.noThree = []) (hkp : r.kp = 0) (hwin : a / 0x10000 = 0xC) :
    ∃ b', Gives (fabricWrite src a w) b St.ok b' ∧ b'.u = b.u ∧ b'.regs.wf = true ∧ (∀ c, c ≠ a → b'.regs.get c = b.regs.get c) ∧
      ∀ j < 32, bitAt (b'.regs.get a).toNat j =
        if bitAt (w.toNat / 65536) j = true ∧ bitAt r.rw j = true then bitAt w.toNat j else bitAt (b.regs.get a).toNat j := by
  have hbase : r.base / 0x10000 = 0xC := by
    refine rowsPCL_window r (findRow_mem (a := a) (i := i) ?_)
    rw [rowOf, hwin] at hrow
    exact hrow
  have hdom : regDomain r a = none := regDomain_none (by omega) (by omega)
  have hkey : keyGuarded r.base = false := by
    simp only [keyGuarded, Bool.or_eq_false_iff, beq_eq_false_iff_ne]
    refine ⟨⟨⟨?_, ?_⟩, ?_⟩, ?_⟩ <;> (intro e; rw [e] at hbase; revert hbase; decide)
  have hpriv := privileged_of_window hwin (by decide)
  have hview : Gives (regView r i a) b (b.regs.get a) b := gives_regView_held (by rw [hwin]; decide) b
  by_cases hm : w.toNat / 65536 = 0
  · exact ⟨b, gives_fabricWrite hpriv hrow hdom hkey hmask (gives_maskedWrite_none hview hm), rfl, hb, fun _ _ => rfl,
      fun j _ => by simp [hm, bitAt]⟩
  · refine ⟨Block.setReg { b with upset := b.upset.filter (· ≠ a) } a (mergeWord r (b.regs.get a) w),
      gives_fabricWrite hpriv hrow hdom hkey hmask (gives_maskedWrite hview hm (by rw [hkp, Nat.and_zero]) (gives_unitWrite_ledger hwin hbase _)),
      rfl, wf_set b.regs a _ hb, fun c hc => get_set_ne b.regs _ hc, fun j hj => ?_⟩
    have hset := bit_get_set hb a (mergeWord r (b.regs.get a) w) j
    have hold := regFit_bit a (b.regs.get a) j
    rw [regFit_get hb] at hold
    rw [mergeWord_bit hthree] at hset
    refine hset.trans ?_
    by_cases hs : bitAt (w.toNat / 65536) j = true ∧ bitAt r.rw j = true
    · rw [if_pos (impl_of_rw hrow hj hs.2)]
    · rw [if_neg hs]
      exact hold.symm

theorem svcWrite_stored {w : Word} {r : RegRow} {i : Nat} (hl : Live s) (hb : Canon s) (hready : SvcReady s k) (hm : s.mode = 6)
    (hrow : rowOf a = some (r, i)) (hmask : r.mask = true) (hthree : r.noThree = []) (hkp : r.kp = 0) (hwin : a / 0x10000 = 0xC) (ha : a % 4 = 0) :
    Does (.svcWrite (uartLine ([0x5A, 2] ++ leBytes 4 a ++ leBytes 4 w.toNat ++
      [BitVec.ofNat 8 (crc8 ([2] ++ leBytes 4 a ++ leBytes 4 w.toNat))]))) s fun t =>
      (∀ j ∈ List.range 32, bitAt (t.reg a).toNat j =
        (if bitAt (w.toNat / 65536) j ∧ bitAt r.rw j then bitAt w.toNat j else bitAt (s.reg a).toNat j)) ∧
      SvcAnswers s t St.ok 0 ∧ OnlyRegs [a, R.SVC_RXCNT] s t := by
  obtain ⟨b, hwrite, hu, hw, hkept, hbits⟩ := gives_ledgerWrite (src := .service) (w := w) (b := svcServing s k) hb hrow hmask hthree hkp hwin
  obtain ⟨hout, hcnt, hregs⟩ := svcAnswered_shows hw St.ok 0
  have hctl : R.SVC_CTL ≠ a := by simp only [R.SVC_CTL]; omega
  have hrx : R.SVC_RXCNT ≠ a := by simp only [R.SVC_RXCNT]; omega
  have hon : SvcOn b := by
    rw [SvcOn, hkept _ hctl]
    exact hready.1
  refine does_of_onLive rfl hl (svcWrite_stores hready (by omega) (gives_svcStore_service hon ha hm hwrite)) ⟨fun j hj => ?_, ⟨?_, ?_⟩, fun c hc => ?_⟩
  · refine Eq.trans ?_ (hbits j (List.mem_range.1 hj))
    exact congrArg (fun x : Word => bitAt x.toNat j) (hregs a hrx.symm)
  · rw [hu] at hout
    exact hout
  · rw [hkept _ hrx] at hcnt
    exact hcnt
  · simp only [List.mem_cons, List.not_mem_nil, or_false, not_or] at hc
    exact (hregs c hc.2).trans (hkept c hc.1)

/-! ### Requests that are discarded (R594) -/

/-- What a state shows once a request has been discarded for the cause that field `f` shows. -/
abbrev SvcDiscards (s t : State) (f : RF) : Prop :=
  t.fld f = 1 ∧ t.fld F.SVC_ERRCNT_CNT = min (s.fld F.SVC_ERRCNT_CNT + 1) 0xFFFFFFFF ∧ OnlyRegs [R.SVC_STAT, R.SVC_ERRCNT] s t

theorem svcDiscards {b : Block} (hb : Canon s) (hregs : b.regs = s.dev.regs) {f : RF} (hf : f.Held) (hr : f.reg = R.SVC_STAT) (h1 : f.hi = f.lo) :
    SvcDiscards s { s with dev := svcDiscarded b f } f := by
  obtain ⟨hcause, hcnt, hkept⟩ := svcDiscarded_shows (b := b) (by rw [hregs]; exact hb) hf hr h1
  rw [hregs] at hcnt hkept
  exact ⟨hcause, hcnt, hkept⟩

theorem svcRead_crc {c : Byte} (hl : Live s) (hb : Canon s) (hready : SvcReady s k) (hc : c.toNat ≠ crc8 ([1] ++ leBytes 4 a)) :
    Does (.svcRead (uartLine ([0x5A, 1] ++ leBytes 4 a ++ [c]))) s fun t => SvcDiscards s t F.SVC_STAT_CRCERR ∧
      t.dev.u = { s.dev.u with svc := t.dev.u.svc } ∧ t.dev.u.svc.req = [] ∧ t.dev.u.svc.answering = s.dev.u.svc.answering := by
  obtain ⟨hon, hidle, hans, hrate⟩ := hready
  have hcrc : c.toNat ≠ crc8 ((1 : Byte) :: (leBytes 4 a ++ [])) := by simpa using hc
  rw [svcBytes_read]
  exact does_of_onLive rfl hl
    (gives_svcReceived hon hidle hrate (.inl ⟨rfl, rfl⟩) (gives_svcWhole_crc (Nat.not_lt.2 hans) (.inl ⟨rfl, rfl⟩) hcrc))
    ⟨svcDiscards hb rfl (by decide) rfl rfl, rfl, rfl, rfl⟩

theorem svcRead_overlap {c : Byte} (hl : Live s) (hb : Canon s) (hon : s.fld F.SVC_CTL_EN = 1) (hidle : SvcIdle s k) (hrate : s.svcRate k ≤ 9600)
    (hans : s.svcByteAt k < s.dev.u.svc.answering.getD 0) :
    Does (.svcRead (uartLine ([0x5A, 1] ++ leBytes 4 a ++ [c]))) s fun t => SvcDiscards s t F.SVC_STAT_OVERLAP ∧ t.dev.u.out = s.dev.u.out ∧
      t.dev.u.svc.answering = s.dev.u.svc.answering := by
  rw [svcBytes_read]
  exact does_of_onLive rfl hl (gives_svcReceived hon hidle hrate (.inl ⟨rfl, rfl⟩) (gives_svcWhole_overlap _ hans))
    ⟨svcDiscards hb rfl (by decide) rfl rfl, rfl, rfl⟩

/-- A request whose next byte is late is discarded. -/
theorem gives_svcLate {b : Block} {t : Nat} (hreq : b.u.svc.req ≠ []) (hlate : b.u.svc.lastAt + 1000000 < t) :
    Gives (svcLate t) b () (svcDiscarded (b.withSvc { b.u.svc with req := [] }) F.SVC_STAT_TIMEOUT) :=
  gives_bind (gives_units b) (gives_onlyIf_true (by simp [hreq, hlate]) (gives_bind (gives_modSvc _ b) (gives_svcDiscard _ _)))

theorem svcTimeout_discards (hl : Live s) (hb : Canon s) (hon : s.fld F.SVC_CTL_EN = 1) (hreq : s.dev.u.svc.req ≠ [])
    (hlate : s.dev.u.svc.lastAt + 1000000 < s.dev.u.elapsed) :
    Does .svcTimeout s fun t => SvcDiscards s t F.SVC_STAT_TIMEOUT ∧ t.dev.u = { s.dev.u with svc := { s.dev.u.svc with req := [] } } :=
  does_of_onLive rfl hl (gives_bind (gives_now _) (gives_bind (gives_svcOn hon) (gives_onlyIf_true rfl (gives_svcLate hreq hlate))))
    ⟨svcDiscards hb rfl (by decide) rfl rfl, rfl⟩

theorem svcTimeout_nothing (hl : Live s)
    (h : s.fld F.SVC_CTL_EN = 0 ∨ s.dev.u.svc.req = [] ∨ s.dev.u.elapsed ≤ s.dev.u.svc.lastAt + 1000000) : Does .svcTimeout s fun t => t = s := by
  by_cases hoff : s.fld F.SVC_CTL_EN = 0
  · exact does_of_onLive rfl hl (gives_bind (gives_now _) (gives_bind (gives_svcOff hoff) (gives_onlyIf_false rfl))) rfl
  · have hon : Gives (bf F.SVC_CTL_EN) s.dev (s.fld F.SVC_CTL_EN != 0) s.dev := gives_bf F.SVC_CTL_EN s.dev
    exact does_of_onLive rfl hl (gives_bind (gives_now _) (gives_bind hon (gives_onlyIf_true (by simp [hoff])
      (gives_svcLate_none (h.resolve_left hoff))))) rfl

/-- A byte that comes late discards the request under way, and begins none unless it is 0x5A. -/
theorem svcRead_late {x : Byte} (hl : Live s) (hb : Canon s) (hon : s.fld F.SVC_CTL_EN = 1) (hrx : s.dev.u.svc.rx = { idle := k })
    (hreq : s.dev.u.svc.req ≠ []) (hx : x ≠ 0x5A) (hlate : s.dev.u.svc.lastAt + 1000000 < s.svcByteAt k) :
    Does (.svcRead (uartLine [x])) s fun t => SvcDiscards s t F.SVC_STAT_TIMEOUT ∧ t.dev.u = { s.dev.u with svc :=
      { s.dev.u.svc with rx := { idle := 0 }, req := [], div := if 16 ≤ k then s.fld F.SVC_BAUD_DIV else s.dev.u.svc.div } } := by
  let v : SvcS := { s.dev.u.svc with rx := { idle := 0 }, div := svcDiv s.dev k }
  let b := svcDiscarded ((s.dev.withSvc v).withSvc { v with req := [] }) F.SVC_STAT_TIMEOUT
  have hbyte : Gives (svcByte (s.svcByteAt k) x) (s.dev.withSvc v) () b :=
    gives_bind (gives_svcLate (b := s.dev.withSvc v) hreq hlate) (gives_bind (gives_units _) (gives_onlyIf_false (beq_false_of_ne hx)))
  have hline : Gives (opSvcLine (uartLine [x])) s.dev () b := by
    refine gives_svcLine hon ?_
    rw [hrx, rxRun_byte]
    exact gives_each_cons (gives_svcTake hon rfl (gives_svcStart _ _ k))
      (gives_each_cons (gives_svcTake (b := s.dev.withSvc v) hon rfl hbyte) (gives_each_nil _ b))
  exact does_of_onLive rfl hl hline ⟨svcDiscards hb rfl (by decide) rfl rfl, rfl⟩

/-! ### The port switched off, and a stop bit sampled low (R591, R599) -/

theorem svcRead_disabled (hl : Live s) (line : List Bool) (hoff : s.fld F.SVC_CTL_EN = 0) : Does (.svcRead line) s fun t => t = s :=
  does_of_onLive rfl hl (gives_bind (gives_now _) (gives_bind (gives_units _) (gives_bind (gives_svcOff hoff) (gives_onlyIf_false rfl)))) rfl

/-- SVC_CTL: EN is held, and the bits below are to be kept. -/
theorem svcCtl_row : ∃ r, rowOf R.SVC_CTL = some (r, 0) ∧ r.base = R.SVC_CTL ∧ r.kp = 0x7FFF ∧ r.rw = 0x8000 ∧ r.noThree = [] ∧ r.mask = true ∧
    regDomain r R.SVC_CTL = none :=
  ⟨_, rfl, rfl, rfl, rfl, rfl, rfl, rfl⟩

/-- The block after the receiver has ended, and the answer under way has been cut. -/
def svcEnded (b : Block) : Block :=
  b.withU { b.u with svc := { div := b.u.svc.div }, out := b.u.out ++ if b.u.elapsed < b.u.svc.answering.getD 0 then [.uartCut] else [] }

theorem gives_svcEnds (b : Block) : Gives svcOff b () (svcEnded b) := by
  refine gives_bind (gives_now b) (gives_bind (gives_units b) ?_)
  by_cases h : b.u.elapsed < b.u.svc.answering.getD 0
  · rw [svcEnded, if_pos h]
    exact gives_bind (gives_onlyIf_true (decide_eq_true h) (gives_emit _ b)) (gives_modU _ _)
  · rw [svcEnded, if_neg h, List.append_nil]
    exact gives_bind (gives_onlyIf_false (decide_eq_false h)) (gives_modU _ b)

theorem svcCtl_off (hl : Live s) (hb : Canon s) (src : Src) :
    Does (.registerWrite src R.SVC_CTL 0x80000000) s fun t => t.fld F.SVC_CTL_EN = 0 ∧ t.dev.u.svc = { div := s.dev.u.svc.div } ∧
      t.dev.u.out = s.dev.u.out ++ (if s.dev.u.elapsed < s.dev.u.svc.answering.getD 0 then [.uartCut] else []) ∧ OnlyRegs [R.SVC_CTL] s t := by
  obtain ⟨r, hrow, hbase, hkp, hrw, hthree, hmask, hdom⟩ := svcCtl_row
  let new := mergeWord r (s.reg R.SVC_CTL) 0x80000000
  have hoff : F.SVC_CTL_EN.of new = 0 := by
    have hbit := mergeWord_bit hthree (s.reg R.SVC_CTL) 0x80000000 15
    rw [hrw, if_pos (by decide)] at hbit
    have hne := of_bit_ne_zero R.SVC_CTL 15 new
    rw [hbit] at hne
    exact bne_eq_false_iff_eq.1 (hne.trans (by decide))
  let b : Block := Block.setReg { s.dev with upset := s.dev.upset.filter (· ≠ R.SVC_CTL) } R.SVC_CTL new
  have hview : Gives (regView r 0 R.SVC_CTL) s.dev (s.reg R.SVC_CTL) s.dev := by
    refine gives_bind (gives_rd _ _) (gives_bind (gives_now _) (gives_bind (gives_units _) ?_))
    change Gives (pure (if r.base = R.SVC_STAT then _ else s.reg R.SVC_CTL)) s.dev _ s.dev
    rw [if_neg (by rw [hbase]; decide)]
    exact gives_pure _ _
  have hunit : Gives (unitWrite src r.base 0 R.SVC_CTL new
      (BitVec.ofNat 32 ((0x80000000 : Word).toNat &&& ((0x80000000 : Word).toNat / 65536) &&& r.wo)) 0x80000000)
      { s.dev with upset := s.dev.upset.filter (· ≠ R.SVC_CTL) } () (svcEnded b) := by
    rw [hbase]
    refine gives_bind (gives_wr _ _ _) (gives_bind (gives_onlyIf_false rfl) (gives_bind (gives_onlyIf_false rfl) (gives_bind (gives_onlyIf_false rfl)
      (gives_bind (gives_onlyIf_false rfl) (gives_bind (gives_onlyIf_false rfl) (gives_onlyIf_true ?_ (gives_svcEnds b)))))))
    rw [hoff]
    rfl
  refine does_of_onLive rfl hl (gives_opWrite (gives_fabricWrite (by decide) hrow hdom (by rw [hbase]; decide) hmask
    (gives_maskedWrite hview (by decide) ?_ hunit))) ⟨?_, rfl, rfl, fun a ha => ?_⟩
  · rw [hkp, Nat.and_assoc]
    exact Nat.and_zero _
  · exact (of_get_set hb (f := F.SVC_CTL_EN) (by decide) new).trans hoff
  · exact get_set_ne s.dev.regs _ fun e => ha (List.mem_singleton.2 e)

/-- The sample of a stop bit that is low. -/
theorem rxRun_framing {r : UartRx} (h : r.n = some 151) : rxRun r [false] = ({ armed := false, idle := 0 }, [(.framing, 0)]) := by
  simp [rxRun, rxStep, h]

theorem svcFraming (hl : Live s) (hb : Canon s) (hon : s.fld F.SVC_CTL_EN = 1) (hn : s.dev.u.svc.rx.n = some 151) :
    Does .svcFramingError s fun t => t.fld F.SVC_STAT_FRAMERR = 1 ∧
      t.dev.u = { s.dev.u with svc := { s.dev.u.svc with rx := { armed := false, idle := 0 } } } ∧ OnlyRegs [R.SVC_STAT] s t := by
  have hline : Gives (opSvcLine [false]) s.dev ()
      ((s.dev.withSvc { s.dev.u.svc with rx := { armed := false, idle := 0 } }).setField F.SVC_STAT_FRAMERR 1) := by
    refine gives_svcLine hon ?_
    rw [rxRun_framing hn]
    exact gives_each_cons (gives_svcTake hon rfl (gives_sb _ true _)) (gives_each_nil _ _)
  exact does_of_onLive rfl hl (gives_bind (gives_units _) (gives_onlyIf_true (decide_eq_true hn) hline))
    ⟨setField_of_same (b := s.dev.withSvc _) hb (by decide) 1, rfl,
      fun a ha => setField_get_ne (s.dev.withSvc _) F.SVC_STAT_FRAMERR 1 fun e => ha (List.mem_singleton.2 e)⟩

theorem svcFraming_nothing (hl : Live s) (h : s.fld F.SVC_CTL_EN = 0 ∨ s.dev.u.svc.rx.n ≠ some 151) : Does .svcFramingError s fun t => t = s := by
  by_cases hn : s.dev.u.svc.rx.n = some 151
  · have hoff := h.resolve_right fun x => x hn
    exact does_of_onLive rfl hl (gives_bind (gives_units _) (gives_onlyIf_true (decide_eq_true hn)
      (gives_bind (gives_now _) (gives_bind (gives_units _) (gives_bind (gives_svcOff hoff) (gives_onlyIf_false rfl)))))) rfl
  · exact does_of_onLive rfl hl (gives_bind (gives_units _) (gives_onlyIf_false (decide_eq_false hn))) rfl

/-! ### The test port (R596, R597) -/

/-- The block after an instruction of the test port is selected. -/
def jtagLoaded (b : Block) (ir out : Nat) : Block :=
  b.withU { b.u with
    jtag := { b.u.jtag with ir := ir, drives := b.u.pwr.resetNLow && (ir == 3 || ir == 4) }
    out := b.u.out ++ [.jtag (if b.u.pwr.resetNLow || decide (ir ≤ 2) then ir else 0) out] }

theorem gives_jtagLoad {b : Block} (h : b.u.jtag.held = false) (ir out : Nat) : Gives (jtagLoad ir out) b () (jtagLoaded b ir out) :=
  gives_bind (gives_units b) (gives_onlyIf_true (by rw [h]; rfl) (gives_bind (gives_modJtag b _) (gives_emit _ _)))

theorem bypass_loads (hs : Supplied s) (hheld : s.dev.u.jtag.held = false) :
    Does .bypass s fun t => t.dev.regs = s.dev.regs ∧ t.dev.u = { s.dev.u with
      jtag := { s.dev.u.jtag with ir := 0, drives := false }, out := s.dev.u.out ++ [.jtag 0 0] } := by
  refine does_of_onDev rfl hs (gives_jtagLoad hheld 0 0) ⟨rfl, ?_⟩
  cases h : s.dev.u.pwr.resetNLow <;> simp [jtagLoaded, h]

theorem idcode_loads (hs : Supplied s) (hheld : s.dev.u.jtag.held = false) :
    Does .idcode s fun t => t.dev.regs = s.dev.regs ∧ t.dev.u = { s.dev.u with
      jtag := { s.dev.u.jtag with ir := 1, drives := false }, out := s.dev.u.out ++ [.jtag 1 0x17256A4D] } := by
  refine does_of_onDev rfl hs (gives_jtagLoad hheld 1 0x17256A4D) ⟨rfl, ?_⟩
  cases h : s.dev.u.pwr.resetNLow <;> simp [jtagLoaded, h]

theorem samplePreload_loads (hs : Supplied s) (cells : List (Ball × Nat)) (hheld : s.dev.u.jtag.held = false) :
    Does (.samplePreload cells) s fun t => t.dev.regs = s.dev.regs ∧
      t.dev.u.jtag = { s.dev.u.jtag with ir := 2, drives := false, cells := cells } ∧ ∃ f, t.dev.u.out = s.dev.u.out ++ [.jtag 2 f] := by
  refine does_of_onDev rfl hs (gives_bind (gives_units _) (gives_bind (gives_free _) (gives_bind (gives_jtagLoad (by exact hheld) 2 _)
    (gives_onlyIf_true (by rw [hheld]; rfl) (gives_modJtag _ _))))) ⟨rfl, ?_, Config.freeValue s.dev.u.free, ?_⟩ <;>
  cases h : s.dev.u.pwr.resetNLow <;> simp [jtagLoaded, h]

/-- EXTEST is selected, and the boundary register may change only while RESET_N is low. -/
theorem gives_extest {b : Block} (hheld : b.u.jtag.held = false) : ∃ f cells, (b.u.pwr.resetNLow = false → cells = b.u.jtag.cells) ∧
    Gives opExtest b () ((jtagLoaded b 3 f).withU { (jtagLoaded b 3 f).u with
      free := b.u.free + 1 + 1, jtag := { (jtagLoaded b 3 f).u.jtag with cells := cells } }) := by
  let f := if b.u.pwr.resetNLow then Config.freeValue b.u.free else 0
  let g := Config.freeValue (b.u.free + 1)
  let b2 := b.withU { b.u with free := b.u.free + 1 + 1 }
  have hload : Gives (jtagLoad 3 f) b2 () (jtagLoaded b2 3 f) := gives_jtagLoad (b := b2) hheld 3 f
  cases hc : !b.u.jtag.held && b.u.pwr.resetNLow && g % 2 == 1 with
  | false =>
    exact ⟨f, b.u.jtag.cells, fun _ => rfl, gives_bind (gives_units b) (gives_bind (gives_free b) (gives_bind (gives_free _)
      (gives_bind hload (gives_onlyIf_false hc))))⟩
  | true =>
    have hlow : b.u.pwr.resetNLow = true := by
      simp only [Bool.and_eq_true] at hc
      exact hc.1.2
    exact ⟨f, _, fun h => absurd (h.symm.trans hlow) (by decide), gives_bind (gives_units b) (gives_bind (gives_free b) (gives_bind (gives_free _)
      (gives_bind hload (gives_onlyIf_true hc (gives_modJtag _ _)))))⟩

theorem extest_loads (hs : Supplied s) (hheld : s.dev.u.jtag.held = false) :
    Does .extest s fun t => t.dev.regs = s.dev.regs ∧
      t.dev.u.jtag = { s.dev.u.jtag with ir := 3, drives := s.dev.u.pwr.resetNLow, cells := t.dev.u.jtag.cells } ∧
      (s.dev.u.pwr.resetNLow = false → t.dev.u.jtag.cells = s.dev.u.jtag.cells) ∧
      ∃ f, t.dev.u.out = s.dev.u.out ++ [.jtag (if s.dev.u.pwr.resetNLow then 3 else 0) f] := by
  obtain ⟨f, cells, hcells, hgives⟩ := gives_extest hheld
  refine does_of_onDev rfl hs hgives ⟨rfl, ?_, hcells, f, ?_⟩ <;>
  cases h : s.dev.u.pwr.resetNLow <;> simp [jtagLoaded, h]

theorem clamp_loads (hs : Supplied s) (hheld : s.dev.u.jtag.held = false) :
    Does .clamp s fun t => t.dev.regs = s.dev.regs ∧ t.dev.u = { s.dev.u with
      jtag := { s.dev.u.jtag with ir := 4, drives := s.dev.u.pwr.resetNLow }
      out := s.dev.u.out ++ [.jtag (if s.dev.u.pwr.resetNLow then 4 else 0) 0] } := by
  refine does_of_onDev rfl hs (gives_jtagLoad hheld 4 0) ⟨rfl, ?_⟩
  cases h : s.dev.u.pwr.resetNLow <;> simp [jtagLoaded, h]

/-- Settles O57: a request reaches the port byte by byte, each no more than 1 ms after the last, and is then answered, stored or
discarded as R593 to R595 say; an instruction of the test port is selected while TRST_N is high. -/
theorem serviceAndTestPorts : Obligations.ServiceAndTestPorts := by
  unfold Obligations.ServiceAndTestPorts
  refine ⟨?read, ?denied, ?stored, ?crc, ?timeout, ?noTimeout, ?late, ?overlap, ?disabled, ?off, ?framing, ?noFraming, ?bypass, ?idcode,
    ?sample, ?extest, ?clamp, ?testReset, ?domainOff⟩
  case read =>
    intro s k a hl hb hready hp ha
    obtain ⟨t, he, hpend, ⟨hout, hcnt⟩, hrest⟩ := svcRead_plain hl hb hready hp ha
    exact ⟨t, he, hpend, hout, hcnt, hrest⟩
  case denied =>
    intro s k a w hl hb hready h32 ha hm
    obtain ⟨t, he, hpend, ⟨hout, hcnt⟩, hregs⟩ := svcWrite_denied hl hb hready h32 ha hm
    exact ⟨t, he, hpend, hout, hcnt, hregs⟩
  case stored =>
    intro s k a i r w hl hb hready hm hrow hmask hthree hkp hwin ha
    obtain ⟨t, he, hpend, hbits, ⟨hout, hcnt⟩, hregs⟩ := svcWrite_stored hl hb hready hm hrow hmask hthree hkp hwin ha
    exact ⟨t, he, hpend, hbits, hout, hcnt, hregs⟩
  case crc =>
    intro s k a c hl hb hready hc
    obtain ⟨t, he, hpend, ⟨hcause, hcnt, hregs⟩, hu, hreq, hans⟩ := svcRead_crc hl hb hready hc
    exact ⟨t, he, hpend, hcause, hcnt, hu, hreq, hans, hregs⟩
  case timeout =>
    intro s hl hb hon hreq hlate
    obtain ⟨t, he, hpend, ⟨hcause, hcnt, hregs⟩, hu⟩ := svcTimeout_discards hl hb hon hreq hlate
    exact ⟨t, he, hpend, hcause, hcnt, hu, hregs⟩
  case noTimeout => exact fun s hl h => svcTimeout_nothing hl h
  case late =>
    intro s k x hl hb hon hrx hreq hx hlate
    obtain ⟨t, he, hpend, ⟨hcause, hcnt, hregs⟩, hu⟩ := svcRead_late hl hb hon hrx hreq hx hlate
    exact ⟨t, he, hpend, hcause, hcnt, hu, hregs⟩
  case overlap =>
    intro s k a hl hb hon hidle hrate hans
    obtain ⟨t, he, hpend, ⟨hcause, hcnt, hregs⟩, hout, hkept⟩ := svcRead_overlap hl hb hon hidle hrate hans
    exact ⟨t, he, hpend, hcause, hcnt, hout, hkept, hregs⟩
  case disabled => exact fun s line hl hoff => svcRead_disabled hl line hoff
  case off => exact fun s src hl hb => svcCtl_off hl hb src
  case framing => exact fun s hl hb hon hn => svcFraming hl hb hon hn
  case noFraming => exact fun s hl h => svcFraming_nothing hl h
  case bypass => exact fun s hs hheld => bypass_loads hs hheld
  case idcode => exact fun s hs hheld => idcode_loads hs hheld
  case sample => exact fun s cells hs hheld => samplePreload_loads hs cells hheld
  case extest => exact fun s hs hheld => extest_loads hs hheld
  case clamp => exact fun s hs hheld => clamp_loads hs hheld
  case testReset => exact fun s low hs => does_of_onDev rfl hs (gives_modJtag _ _) ⟨rfl, rfl⟩
  case domainOff =>
    intro s k a i d r hl hb hready ha hrow hdom hoff
    obtain ⟨t, he, hpend, ⟨hout, hcnt⟩, hregs⟩ := svcRead_off hl hb hready ha hrow hdom hoff
    exact ⟨t, he, hpend, hout, hcnt, hregs⟩

end Sys2Proof.Machine
end

section
/-!
PROOF. Proofs/RefutedColumn.lean: two statements of the column's time base and Ledger that fail, each by one state on which the model's
own answer contradicts a clause.
-/
namespace Sys2Proof.Machine

/-! ### Alarms: a refused source on a register whose parity does not match -/

/-- A state in which a bit of ENC_ACTL of slot 64 has changed since its parity was checked (R460). -/
def upsetSlotState : State := { State.reset with dev := { State.reset.dev with upset := [R.ENC_ACTL 64] } }

/-- A write that selects SRC and gives it 17. -/
def sourceWrite : Word := 0x1F001100

theorem upsetSlot_meets : Live upsetSlotState ∧ Canon upsetSlotState ∧
    (sourceWrite.toNat ^^^ (upsetSlotState.reg (R.ENC_ACTL 64)).toNat) &&& (sourceWrite.toNat / 65536) &&& 0x6000 = 0 ∧
    17 ≤ bits ((sourceWrite.toNat &&& (sourceWrite.toNat / 65536)) |||
      ((upsetSlotState.reg (R.ENC_ACTL 64)).toNat &&& (0xFFFF ^^^ (sourceWrite.toNat / 65536)))) 12 8 := by decide +kernel

theorem upsetSlot_mended : shownAfter (fun t => t.dev.upset) (.alarmArm .core 64 sourceWrite) upsetSlotState = some [] := by decide +kernel

/-- Refutes O59: a write that reaches its unit computes the register's parity anew (R460), also where the unit refuses its SRC, so a
register whose parity did not match is mended, and the clauses want the state unchanged. -/
theorem not_alarmSourceOutOfRange : ¬ Obligations.AlarmSourceOutOfRange := by
  intro h
  unfold Obligations.AlarmSourceOutOfRange at h
  obtain ⟨-, arm⟩ := h
  obtain ⟨hlive, hcanon, hkept, hsrc⟩ := upsetSlot_meets
  obtain ⟨t, ht, hmended⟩ := does_shown
    (arm upsetSlotState .core 64 sourceWrite hlive hcanon (by decide) (.inl (by decide)) hkept hsrc) upsetSlot_mended
  rw [ht] at hmended
  exact absurd hmended (by decide)

/-! ### Planner: a Ledger that holds no lane -/

/-- A live parcel of lane 0 with PID 1, 12 % w.b. -/
def dryParcel : List Byte := Pf.mlast.put (Pf.state.put (parcelNew 1 0 0 0 0xFFFF 0) 2) 1200

/-- FLOW with PLAN, where lane 0 alone is planned, its lead parcel stands in the latest map, and the Ledger's list of lanes is empty. -/
def noLanesState : State :=
  ((((((State.reset.storingField F.SYS_MODE_CUR 4).storingField F.PCL_CTL_PLAN 1).storingField (F.ENC_CALI_CALI 0) 1).storingField
    (F.PCL_LLEN_LLEN 0) 1000).storingField (F.PCL_LSLOT_PLANE 0) 1).storingField (F.REC_LSTAT_UNANCH 0) 0).mapUnits
      fun u => { u with pcl := { u.pcl with parcels := [dryParcel], mapsSince := 255, planMap := some (0, [1]), lanes := [] } }

/-- The speed that lane 0 is given there. -/
def noLanesSpeed : Word :=
  F32.clamp (F32.ofRat (noLanesState.fld (F.PCL_VMIN_VMIN 0)) 100) (F32.ofRat (noLanesState.fld (F.PCL_VMAX_VMAX 0)) 100)
    (F32.clamp (F32.sub (noLanesState.dev.u.pcl.lanes.getD 0 {}).speed (F32.ofRat (noLanesState.fld F.PCL_VSLEW_SLEW) 100))
      (F32.add (noLanesState.dev.u.pcl.lanes.getD 0 {}).speed (F32.ofRat (noLanesState.fld F.PCL_VSLEW_SLEW) 100))
      (F32.div (F32.mul (F32.ofRat (noLanesState.fld (F.PCL_VMAX_VMAX 0)) 100) (F32.ofInt 3600)) (F32.ofInt 3600)))

theorem noLanes_speed : noLanesSpeed ≠ 0 := by decide +kernel

theorem noLanes_holds_none : shownAfter (fun t => (t.dev.u.pcl.lanes.getD 0 {}).speed) .plannerRun noLanesState = some 0 := by decide +kernel

/-- What the clause of the planned lane asks of the settings. -/
theorem noLanes_settings : Live noLanesState ∧ Canon noLanesState ∧
    max 1 (noLanesState.fld F.PCL_CTL_PCYC) ≤ noLanesState.dev.u.pcl.mapsSince ∧ noLanesState.mode = modeFlow ∧
    noLanesState.fld F.PCL_CTL_PLAN = 1 ∧ noLanesState.fld F.PCL_VMEAN_VMEAN = 0 ∧
    noLanesState.dev.u.elapsed ≤ 0 + noLanesState.fld F.PCL_MAPAGE_AGE * 1000000 := by decide +kernel

/-- What it asks of the lane. -/
theorem noLanes_lane : noLanesState.fld (F.PCL_LSLOT_PLANE 0) = 1 ∧
    (∀ j ∈ List.range 16, j ≠ 0 → noLanesState.fld (F.PCL_LSLOT_PLANE j) = 0) ∧ noLanesState.factor 0 ≠ 0 ∧
    noLanesState.fld (F.PCL_LLEN_LLEN 0) ≠ 0 ∧ noLanesState.fld (F.ENC_LSTAT_STALLED 0) = 0 ∧ noLanesState.fld (F.ENC_LSTAT_LOST 0) = 0 ∧
    noLanesState.fld (F.REC_LSTAT_UNANCH 0) = 0 ∧ noLanesState.fld (F.REC_LSTAT_DRIFT 0) = 0 ∧ noLanesState.fld (F.PCL_KDRY_K 0) ≠ 0 ∧
    noLanesState.fld (F.PCL_MEQ_MEQ 0) < noLanesState.fld (F.PCL_TARGET_TGT 0) := by decide +kernel

/-- What it asks of the parcel. -/
theorem dryParcel_meets : dryParcel.length = 128 ∧ parcelActive dryParcel = true ∧ Pf.lane.of dryParcel = 0 ∧
    bitAt (Pf.flags.of dryParcel) 6 = false ∧ Pf.pid.of dryParcel ∈ [1] ∧
    Pf.mlast.of dryParcel ≤ noLanesState.fld (F.PCL_TARGET_TGT 0) := by decide +kernel

/-- Refutes O15: a planned lane's speed is kept in the Ledger's list of lanes, of which no clause says that it holds the lane; with an
empty list the speed read back is 0 and not the one that was written to PCL_VSET. -/
theorem not_ledgerCuts : ¬ Obligations.LedgerCuts := by
  intro h
  unfold Obligations.LedgerCuts at h
  obtain ⟨-, -, -, -, -, -, planned⟩ := h
  obtain ⟨hlive, hcanon, hdue, hmode, hplan, hmean, hfresh⟩ := noLanes_settings
  obtain ⟨hplane, hothers, hfactor, hlen, hstalled, hlost, hunanch, hdrift, hdry, hmeq⟩ := noLanes_lane
  obtain ⟨hlong, hactive, hlane, hflags, hsighted, hdryEnough⟩ := dryParcel_meets
  obtain ⟨t, ⟨-, -, -, hspeed, -⟩, hshown⟩ := does_shown
    (planned noLanesState 0 0 _ [1] dryParcel noLanesSpeed hlive hcanon hdue hmode hplan hmean rfl hfresh (by decide) hplane hothers rfl
      hlong hactive hlane hflags hsighted hfactor hlen hstalled hlost hunanch hdrift hdry hmeq hdryEnough rfl rfl) noLanes_holds_none
  exact noLanes_speed (hspeed.symm.trans hshown)

end Sys2Proof.Machine
end
section
/-!
PROOF. Proofs/Ends.lean: operations that end with something shown of the answer and the block, and frames by bits. `Ends` runs an operation
forward: through its parts in order, by what each gives (`Gives`) or keeps (`Keeps`). `Within` says which bits of which registers and which
unit data two blocks may differ in.
-/
namespace Sys2Proof.Machine

/-- From `b` the operation goes on with an answer and a block of which `Q` holds. -/
def Ends {α : Type} (m : Op α) (b : Block) (Q : α → Block → Prop) : Prop := ∃ a b', Gives m b a b' ∧ Q a b'

section
variable {α γ : Type} {m : Op α} {f : α → Op γ} {b b' : Block} {a : α} {P : α → Block → Prop} {Q : γ → Block → Prop}

theorem ends_of_gives (h : Gives m b a b') (hp : P a b') : Ends m b P := ⟨a, b', h, hp⟩

theorem ends_mono {R : α → Block → Prop} (h : Ends m b P) (hr : ∀ a b', P a b' → R a b') : Ends m b R := by
  obtain ⟨a, b', hg, hp⟩ := h
  exact ⟨a, b', hg, hr a b' hp⟩

theorem ends_bind (h : Ends m b P) (g : ∀ a b', P a b' → Ends (f a) b' Q) : Ends (m >>= f) b Q := by
  obtain ⟨a, b', hg, hp⟩ := h
  obtain ⟨c, b'', hf, hq⟩ := g a b' hp
  exact ⟨c, b'', gives_bind hg hf, hq⟩

/-- A first part of which it is known what it gives. -/
theorem ends_then (h : Gives m b a b') (g : Ends (f a) b' Q) : Ends (m >>= f) b Q :=
  ends_bind (P := fun x c => x = a ∧ c = b') (ends_of_gives h ⟨rfl, rfl⟩) fun _ _ ⟨hx, hc⟩ => hx ▸ hc ▸ g

theorem ends_of_keeps {R : Block → Prop} (h : Keeps False R m) (hb : R b) : Ends m b fun _ b' => R b' := by
  obtain ⟨a, b', hr, hg⟩ := keeps_gives_some h hb
  exact ⟨a, b', hg, hr⟩

/-- A first part of which it is known what it keeps. -/
theorem ends_keeps {R : Block → Prop} (h : Keeps False R m) (hb : R b) (g : ∀ a b', R b' → Ends (f a) b' Q) : Ends (m >>= f) b Q :=
  ends_bind (ends_of_keeps h hb) g

end

theorem ends_onlyIf {c : Bool} {m : Op Unit} {b : Block} {Q : Unit → Block → Prop} (ht : c = true → Ends m b Q)
    (hf : c = false → Q () b) : Ends (onlyIf c m) b Q := by
  cases c
  · exact ends_of_gives (gives_pure () b) (hf rfl)
  · exact ht rfl

theorem ends_onlyIf_true {c : Bool} {m : Op Unit} {b : Block} {Q : Unit → Block → Prop} (hc : c = true) (h : Ends m b Q) :
    Ends (onlyIf c m) b Q := by
  subst hc
  exact h

theorem ends_ite_neg {α : Type} {c : Prop} [Decidable c] {m n : Op α} {b : Block} {Q : α → Block → Prop} (hc : ¬c) (h : Ends n b Q) :
    Ends (if c then m else n) b Q := by
  rw [if_neg hc]
  exact h

theorem ends_ite_pos {α : Type} {c : Prop} [Decidable c] {m n : Op α} {b : Block} {Q : α → Block → Prop} (hc : c) (h : Ends m b Q) :
    Ends (if c then m else n) b Q := by
  rw [if_pos hc]
  exact h

/-- A property that every run of a list's steps keeps. -/
theorem ends_each {α : Type} {f : α → Op Unit} {R : Block → Prop} {l : List α} (h : ∀ x ∈ l, ∀ b, R b → Ends (f x) b fun _ b' => R b')
    {b : Block} (hb : R b) : Ends (each f l) b fun _ b' => R b' := by
  induction l generalizing b with
  | nil => exact ends_of_gives (gives_each_nil f b) hb
  | cons x l ih => exact ends_bind (h x (by simp) b hb) fun _ b' hb' => ih (fun y hy => h y (by simp [hy])) hb'

/-- What a one-bit field reads. -/
theorem gives_bf_eq {f : RF} {b : Block} {v : Bool} (h : (f.of (b.regs.get f.reg) != 0) = v) : Gives (bf f) b v b := h ▸ gives_bf f b

theorem gives_bf_clear {f : RF} {b : Block} (h : f.of (b.regs.get f.reg) = 0) : Gives (bf f) b false b := gives_bf_eq (by rw [h]; rfl)

theorem gives_bf_set {f : RF} {b : Block} (h : f.of (b.regs.get f.reg) = 1) : Gives (bf f) b true b := gives_bf_eq (by rw [h]; rfl)

theorem does_mono {c : Instr} {s : State} {Q R : State → Prop} (h : Does c s Q) (hr : ∀ t, Q t → R t) : Does c s R := by
  obtain ⟨t, ht, hp, hq⟩ := h
  exact ⟨t, ht, hp, hr t hq⟩

theorem does_of_ends {c : Instr} {s : State} {m : Op Unit} {Q : State → Prop} (he : exec c s = onLive m s) (hs : Live s)
    (h : Ends m s.dev fun _ b => Q { s with dev := b }) : Does c s Q := by
  obtain ⟨_, b, hg, hq⟩ := h
  exact does_of_onLive he hs hg hq

/-! ### Frames by bits -/

/-- `b'` is canonical, and agrees with `b` on every bit of every register but those that `T` names, and on what `keep` shows of the units'
data. -/
structure Within {β : Type} (T : Nat → Nat → Prop) (keep : Units → β) (b b' : Block) : Prop where
  wf : b'.regs.wf = true
  bit : ∀ a j, ¬ T a j → bitAt (b'.regs.get a).toNat j = bitAt (b.regs.get a).toNat j
  units : keep b'.u = keep b.u

section
variable {β : Type} {T : Nat → Nat → Prop} {keep : Units → β} {b b' b'' : Block}

theorem within_refl (h : b.regs.wf = true) : Within T keep b b := ⟨h, fun _ _ _ => rfl, rfl⟩

theorem Within.trans (h : Within T keep b b') (g : Within T keep b' b'') : Within T keep b b'' :=
  ⟨g.wf, fun a j hn => (g.bit a j hn).trans (h.bit a j hn), g.units.trans h.units⟩

/-- A frame with fewer bits, in which more is kept, is one of the larger too. -/
theorem Within.mono {γ : Type} {V : Nat → Nat → Prop} {hold : Units → γ} (h : Within T keep b b') (hT : ∀ a j, T a j → V a j)
    (hk : ∀ u v, keep u = keep v → hold u = hold v) : Within V hold b b' :=
  ⟨h.wf, fun a j hn => h.bit a j fun x => hn (hT a j x), hk _ _ h.units⟩

theorem get_eq_of_bits {l l' : Regs} {a : Nat} (h : ∀ j, bitAt (l'.get a).toNat j = bitAt (l.get a).toNat j) : l'.get a = l.get a :=
  BitVec.eq_of_toNat_eq (Nat.eq_of_testBit_eq h)

/-- A register none of whose bits the frame names. -/
theorem Within.reg (h : Within T keep b b') {a : Nat} (ha : ∀ j, ¬ T a j) : b'.regs.get a = b.regs.get a :=
  get_eq_of_bits fun j => h.bit a j (ha j)

/-- A field none of whose bits the frame names. -/
theorem Within.fld (h : Within T keep b b') (f : RF) (hf : ∀ j, f.lo ≤ j → j ≤ f.hi → ¬ T f.reg j) :
    f.of (b'.regs.get f.reg) = f.of (b.regs.get f.reg) := by
  refine Nat.eq_of_testBit_eq fun i => ?_
  rw [of_testBit, of_testBit]
  by_cases hi : i < f.hi + 1 - f.lo
  · have := h.bit f.reg (f.lo + i) (hf _ (by omega) (by omega))
    simp only [bitAt] at this
    rw [this]
  · simp [hi]

/-- A store in a field changes no other bit. -/
theorem setField_bit {b : Block} (h : b.regs.wf = true) {f : RF} (hlo : f.lo ≤ f.hi) (hhi : f.hi < 32) (v : Nat) {a j : Nat}
    (hn : ¬ (a = f.reg ∧ f.lo ≤ j ∧ j ≤ f.hi)) : bitAt ((b.setField f v).regs.get a).toNat j = bitAt (b.regs.get a).toNat j := by
  by_cases e : a = f.reg
  · subst e
    have hset := bit_get_set h f.reg (f.put (b.regs.get f.reg) v) j
    have hput : bitAt (f.put (b.regs.get f.reg) v).toNat j = bitAt (b.regs.get f.reg).toNat j := by
      simp only [bitAt, put_testBit f _ v _ hhi hlo]
      rw [if_neg fun x => hn ⟨rfl, x⟩]
    have hold := regFit_bit f.reg (b.regs.get f.reg) j
    rw [regFit_get h] at hold
    rw [hput, ← hold] at hset
    exact hset
  · rw [setField_get_ne b f v e]

theorem within_setField (h : b.regs.wf = true) {f : RF} (hlo : f.lo ≤ f.hi) (hhi : f.hi < 32) (v : Nat)
    (hT : ∀ j, f.lo ≤ j → j ≤ f.hi → T f.reg j) : Within T keep b (b.setField f v) :=
  ⟨setField_wf h f v, fun _ j hn => setField_bit h hlo hhi v fun ⟨ha, h1, h2⟩ => hn (ha ▸ hT j h1 h2), rfl⟩

theorem within_setReg (h : b.regs.wf = true) {a : Nat} (w : Word) (hT : ∀ j, T a j) : Within T keep b (b.setReg a w) :=
  ⟨wf_set _ _ _ h, fun c j hn => by rw [setReg_regs, get_set_ne b.regs w fun e : c = a => hn (by rw [e]; exact hT j)], rfl⟩

theorem within_withU (h : b.regs.wf = true) {u : Units} (hk : keep u = keep b.u) : Within T keep b (b.withU u) := ⟨h, fun _ _ _ => rfl, hk⟩

/-! ### Operations that keep a frame by bits -/

variable {S : Prop} {b0 : Block}

theorem within_sf {f : RF} {v : Nat} (hlo : f.lo ≤ f.hi) (hhi : f.hi < 32) (hT : ∀ j, f.lo ≤ j → j ≤ f.hi → T f.reg j) :
    Keeps S (Within T keep b0) (sf f v) :=
  keeps_gives fun b hb => ⟨(), _, hb.trans (within_setField hb.wf hlo hhi v hT), gives_setField f v b⟩

theorem within_sb {f : RF} {v : Bool} (hlo : f.lo ≤ f.hi) (hhi : f.hi < 32) (hT : ∀ j, f.lo ≤ j → j ≤ f.hi → T f.reg j) :
    Keeps S (Within T keep b0) (sb f v) := within_sf hlo hhi hT

theorem within_cntSat {f : RF} {n : Nat} (hlo : f.lo ≤ f.hi) (hhi : f.hi < 32) (hT : ∀ j, f.lo ≤ j → j ≤ f.hi → T f.reg j) :
    Keeps S (Within T keep b0) (cntSat f n) := keeps_bind (keeps_gf f) fun _ => within_sf hlo hhi hT

theorem within_wr {a : Nat} {w : Word} (hT : ∀ j, T a j) : Keeps S (Within T keep b0) (wr a w) :=
  keeps_gives fun b hb => ⟨(), _, hb.trans (within_setReg hb.wf w hT), gives_wr a w b⟩

theorem within_wrN {a v : Nat} (hT : ∀ j, T a j) : Keeps S (Within T keep b0) (wrN a v) := within_wr hT

theorem within_modU {f : Units → Units} (h : ∀ u, keep (f u) = keep u) : Keeps S (Within T keep b0) (modU f) :=
  keeps_gives fun b hb => ⟨(), _, hb.trans (within_withU hb.wf (h b.u)), gives_modU f b⟩

/-- What sends keeps every frame that names the bits of the CMD, NET and POOL windows and shows nothing of what sending changes. -/
theorem within_link {α : Type} {m : Op α} (h : ∀ b, Keeps False (LinkFrame b) m) (hT : ∀ a j, window a ∈ linkWindows → T a j)
    (hk : ∀ u v, linkKeep u = linkKeep v → keep u = keep v) : Keeps False (Within T keep b0) m :=
  keeps_gives fun b hb => by
    obtain ⟨x, b', ⟨hregs, hu⟩, hg⟩ := keeps_gives_some (h b) (frame_refl b)
    refine ⟨x, b', hb.trans ⟨gives_wf hb.wf hg, fun a j hn => ?_, hk _ _ hu⟩, hg⟩
    rw [hregs a fun hw => hn (hT a j hw)]

end

/-- The bits of the windows that sending changes. -/
abbrev linkBits (a _j : Nat) : Prop := window a ∈ linkWindows

theorem ends_link {α : Type} {m : Op α} (h : ∀ b, Keeps False (LinkFrame b) m) {b : Block} (hb : b.regs.wf = true) :
    Ends m b fun _ c => Within linkBits linkKeep b c :=
  ends_of_keeps (within_link h (fun _ _ => id) fun _ _ => id) (within_refl hb)

end Sys2Proof.Machine
end
section
/-!
PROOF. Proofs/EncRegs.lean: the registers of the ENC unit (R77): where the alarm slots stand, which of their bits are held, and what the
counters that two registers hold read after a store.
-/
namespace Sys2Proof.Machine

/-! ### The rows of the alarm slots -/

/-- Whether every register of a row lies below address `lo`; a row of two dimensions is not judged. -/
def RegRow.below (r : RegRow) (lo : Nat) : Bool :=
  match r.dims with
  | [] => decide (r.base < lo)
  | [(n, s)] => decide (r.base + (n - 1) * s < lo)
  | _ => false

theorem index_none_of_below {r : RegRow} {lo a : Nat} (h : r.below lo = true) (ha : lo ≤ a) : r.index? a = none := by
  unfold RegRow.below at h
  unfold RegRow.index?
  split
  · rfl
  · split at h
    next hd =>
      rw [hd]
      have := of_decide_eq_true h
      exact if_neg (by omega)
    next n s hd =>
      rw [hd]
      have hlast := of_decide_eq_true h
      refine if_neg fun ⟨hmod, hdiv⟩ => ?_
      have hle : (a - r.base) / s * s ≤ (n - 1) * s := Nat.mul_le_mul_right s (by omega)
      have heq : (a - r.base) / s * s = a - r.base := Nat.div_mul_cancel (Nat.dvd_of_mod_eq_zero hmod)
      omega
    next => cases h

theorem findRow_append_below {l m : List RegRow} {lo a : Nat} (h : l.all (·.below lo) = true) (ha : lo ≤ a) :
    findRow (l ++ m) a = findRow m a := by
  induction l with
  | nil => rfl
  | cons r l ih =>
    simp only [List.all_cons, Bool.and_eq_true] at h
    simp [findRow, index_none_of_below h.1 ha, ih h.2]

/-- No register lies above 0x155000. -/
theorem rowOf_high {a : Nat} (h : 0x155000 ≤ a) : rowOf a = none := by
  unfold rowOf
  by_cases h15 : a / 0x10000 = 21
  · rw [h15]
    have := findRow_append_below (m := []) (show (unitRows 21).all (·.below 0x155000) = true by decide) h
    rwa [List.append_nil] at this
  · obtain ⟨k, hk⟩ : ∃ k, a / 0x10000 = k + 22 := ⟨a / 0x10000 - 22, by omega⟩
    rw [hk]
    rfl

theorem index_at {r : RegRow} {n s i : Nat} (hd : r.dims = [(n, s)]) (hi : i < n) (hs : 0 < s) : r.index? (r.base + i * s) = some i := by
  simp [RegRow.index?, hd, hi, hs]


theorem index_none_off {r : RegRow} {a n s : Nat} (hd : r.dims = [(n, s)]) (h : (a - r.base) % s ≠ 0) : r.index? a = none := by
  simp [RegRow.index?, hd, h]

theorem findRow_miss {r : RegRow} {l : List RegRow} {a : Nat} (h : r.index? a = none) : findRow (r :: l) a = findRow l a := by
  simp [findRow, h]

theorem findRow_hit {r : RegRow} {l : List RegRow} {a i : Nat} (h : r.index? a = some i) : findRow (r :: l) a = some (r, i) := by
  simp [findRow, h]

/-- The rows of the compare values, the control and the status of the alarm slots (R77). -/
def cmp0Row : RegRow := ⟨"ENC_ACMP0", 0x101000, [(512, 0x10)], 0x0, 0xFFFF, 0x0, 0x0, 0x0, [], true, [(512, 0x0)], 0x0, 0x0⟩
def cmp1Row : RegRow := ⟨"ENC_ACMP1", 0x101004, [(512, 0x10)], 0x0, 0xFFFF, 0x0, 0x0, 0x0, [], true, [(512, 0x0)], 0x0, 0x0⟩
def cmp2Row : RegRow := ⟨"ENC_ACMP2", 0x101008, [(512, 0x10)], 0x0, 0xFFFF, 0x0, 0x0, 0x0, [], true, [(512, 0x0)], 0x0, 0x0⟩
def actlRow : RegRow := ⟨"ENC_ACTL", 0x10100C, [(512, 0x10)], 0x0, 0x9FFF, 0x0, 0x0, 0x6000, [], true, [(512, 0x0)], 0x0, 0x0⟩
def astatRow : RegRow := ⟨"ENC_ASTAT", 0x103000, [(512, 0x4)], 0x0, 0x0, 0x7, 0x0, 0x0, [], false, [(512, 0x0)], 0x0, 0x0⟩

/-- Above 0x101000 the ENC window holds the rows of the alarm slots alone. -/
theorem rowOf_slots {a : Nat} (h0 : 0x101000 ≤ a) (h1 : a < 0x110000) :
    rowOf a = findRow [cmp0Row, cmp1Row, cmp2Row, actlRow, astatRow] a := by
  unfold rowOf
  rw [show a / 0x10000 = 16 by omega]
  exact findRow_append_below (l := rowsENC_0 ++ rowsENC_1 ++ rowsENC_2.take 10) (lo := 0x101000) (by decide) h0

theorem rowOf_cmp0 {a : Nat} (h : a < 512) : rowOf (R.ENC_ACMP0 a) = some (cmp0Row, a) := by
  rw [rowOf_slots (by simp only [R.ENC_ACMP0]; omega) (by simp only [R.ENC_ACMP0]; omega)]
  exact findRow_hit (index_at rfl h (by decide))

theorem rowOf_cmp1 {a : Nat} (h : a < 512) : rowOf (R.ENC_ACMP1 a) = some (cmp1Row, a) := by
  rw [rowOf_slots (by simp only [R.ENC_ACMP1]; omega) (by simp only [R.ENC_ACMP1]; omega),
    findRow_miss (index_none_off rfl (by simp only [R.ENC_ACMP1, cmp0Row]; omega))]
  exact findRow_hit (index_at rfl h (by decide))

theorem rowOf_cmp2 {a : Nat} (h : a < 512) : rowOf (R.ENC_ACMP2 a) = some (cmp2Row, a) := by
  rw [rowOf_slots (by simp only [R.ENC_ACMP2]; omega) (by simp only [R.ENC_ACMP2]; omega),
    findRow_miss (index_none_off rfl (by simp only [R.ENC_ACMP2, cmp0Row]; omega)),
    findRow_miss (index_none_off rfl (by simp only [R.ENC_ACMP2, cmp1Row]; omega))]
  exact findRow_hit (index_at rfl h (by decide))

theorem rowOf_actl {a : Nat} (h : a < 512) : rowOf (R.ENC_ACTL a) = some (actlRow, a) := by
  rw [rowOf_slots (by simp only [R.ENC_ACTL]; omega) (by simp only [R.ENC_ACTL]; omega),
    findRow_miss (index_none_off rfl (by simp only [R.ENC_ACTL, cmp0Row]; omega)),
    findRow_miss (index_none_off rfl (by simp only [R.ENC_ACTL, cmp1Row]; omega)),
    findRow_miss (index_none_off rfl (by simp only [R.ENC_ACTL, cmp2Row]; omega))]
  exact findRow_hit (index_at rfl h (by decide))

theorem rowOf_astat {a : Nat} (h : a < 512) : rowOf (R.ENC_ASTAT a) = some (astatRow, a) := by
  have hbelow : [cmp0Row, cmp1Row, cmp2Row, actlRow].all (·.below 0x103000) = true := by decide
  rw [rowOf_slots (by simp only [R.ENC_ASTAT]; omega) (by simp only [R.ENC_ASTAT]; omega)]
  exact (findRow_append_below (m := [astatRow]) hbelow (by simp only [R.ENC_ASTAT]; omega)).trans (findRow_hit (index_at rfl h (by decide)))

theorem regImpl_of_row {a i : Nat} {r : RegRow} (h : rowOf a = some (r, i)) : regImpl a = BitVec.ofNat 32 r.impl := by simp [regImpl, h]

/-- Bits `hi` to `lo` of a register are held where its row's are. -/
theorem held_of_row {a hi lo i : Nat} {r : RegRow} (h : rowOf a = some (r, i))
    (hr : lo ≤ hi ∧ hi < 32 ∧ bits (BitVec.ofNat 32 r.impl).toNat hi lo = 2 ^ (hi + 1 - lo) - 1) : (RF.mk a hi lo).Held := by
  rw [← regImpl_of_row h] at hr
  exact hr

theorem held_arm {a : Nat} (h : a < 512) : (F.ENC_ACTL_ARM a).Held := held_of_row (rowOf_actl h) (by decide)
theorem held_src {a : Nat} (h : a < 512) : (F.ENC_ACTL_SRC a).Held := held_of_row (rowOf_actl h) (by decide)
theorem held_fb {a : Nat} (h : a < 512) : (F.ENC_ACTL_FB a).Held := held_of_row (rowOf_actl h) (by decide)
theorem held_cmp0 {a : Nat} (h : a < 512) : (F.ENC_ACMP0_CMP a).Held := held_of_row (rowOf_cmp0 h) (by decide)
theorem held_cmp1 {a : Nat} (h : a < 512) : (F.ENC_ACMP1_CMP a).Held := held_of_row (rowOf_cmp1 h) (by decide)
theorem held_cmp2 {a : Nat} (h : a < 512) : (F.ENC_ACMP2_CMP a).Held := held_of_row (rowOf_cmp2 h) (by decide)
theorem held_fired {a : Nat} (h : a < 512) : (F.ENC_ASTAT_FIRED a).Held := held_of_row (rowOf_astat h) (by decide)
theorem held_late {a : Nat} (h : a < 512) : (F.ENC_ASTAT_LATE a).Held := held_of_row (rowOf_astat h) (by decide)
theorem held_fellBack {a : Nat} (h : a < 512) : (F.ENC_ASTAT_FB a).Held := held_of_row (rowOf_astat h) (by decide)

/-- An address without a register reads 0. -/
theorem get_none {l : Regs} (h : l.wf = true) {a : Nat} (ha : rowOf a = none) : l.get a = 0 := by
  have hfind : l.find? a = none := by
    cases hw : l.find? a with
    | none => rfl
    | some w => simpa [ha] using (find_fits h hw).1
  simp [Regs.get, hfind, regReset, ha]

/-- ARM reads 1 in no place that lies beyond the registers. -/
theorem armed_lt {l : Regs} (h : l.wf = true) {x : Nat} (hx : (F.ENC_ACTL_ARM x).of (l.get (R.ENC_ACTL x)) ≠ 0) : x < 21504 := by
  by_contra hge
  refine hx ?_
  rw [get_none h (rowOf_high (by simp only [R.ENC_ACTL]; omega))]
  rfl

/-! ### Counters held in two registers -/

theorem ofSigned_lt (w : Nat) (i : Int) : ofSigned w i < 2 ^ w := by
  unfold ofSigned
  have h2 : (0 : Int) < ((2 ^ w : Nat) : Int) := by exact_mod_cast Nat.two_pow_pos w
  have hlt := Int.emod_lt_of_pos i h2
  omega

theorem ofSigned_toSigned {w : Nat} (v : Nat) : ofSigned w (toSigned w v) = v % 2 ^ w := by
  have h2 : (0 : Int) < ((2 ^ w : Nat) : Int) := by exact_mod_cast Nat.two_pow_pos w
  have hlt := Nat.mod_lt v (Nat.two_pow_pos w)
  unfold ofSigned toSigned
  dsimp only
  split
  · rw [Int.emod_eq_of_lt (by omega) (by exact_mod_cast hlt)]
    rfl
  · rw [Int.sub_emod_right, Int.emod_eq_of_lt (by omega) (by exact_mod_cast hlt)]
    rfl

theorem toSigned_mod (w v : Nat) : toSigned w (v % 2 ^ w) = toSigned w v := by simp [toSigned]

theorem ofSigned_wrapSigned (w : Nat) (i : Int) : ofSigned w (wrapSigned w i) = ofSigned w i := by
  rw [wrapSigned, ofSigned_toSigned, Nat.mod_eq_of_lt (ofSigned_lt w i)]

/-- A value of `w` signed bits wraps to itself. -/
theorem wrapSigned_of_range {w : Nat} (hw : 0 < w) {i : Int} (h0 : -((2 ^ (w - 1) : Nat) : Int) ≤ i) (h1 : i < ((2 ^ (w - 1) : Nat) : Int)) :
    wrapSigned w i = i := by
  have hp := Nat.two_pow_pred_mul_two hw
  unfold wrapSigned toSigned ofSigned
  rw [← hp]
  generalize 2 ^ (w - 1) = p at *
  by_cases hi : 0 ≤ i
  · rw [Int.emod_eq_of_lt hi (by omega), Nat.mod_eq_of_lt (by omega), if_pos (by omega)]
    omega
  · rw [← Int.add_emod_right, Int.emod_eq_of_lt (by omega) (by omega), Nat.mod_eq_of_lt (by omega), if_neg (by omega)]
    omega

theorem toSigned_range {w : Nat} (hw : 0 < w) (v : Nat) :
    -((2 ^ (w - 1) : Nat) : Int) ≤ toSigned w v ∧ toSigned w v < ((2 ^ (w - 1) : Nat) : Int) := by
  have hp := Nat.two_pow_pred_mul_two hw
  have hlt := Nat.mod_lt v (Nat.two_pow_pos w)
  unfold toSigned
  rw [← hp] at hlt ⊢
  generalize 2 ^ (w - 1) = p at *
  dsimp only
  split <;> constructor <;> omega

theorem toSigned_of_lt {w v : Nat} (h : v < 2 ^ (w - 1)) (hw : 0 < w) : toSigned w v = v := by
  have hp := Nat.two_pow_pred_mul_two hw
  unfold toSigned
  rw [Nat.mod_eq_of_lt (by omega), if_pos h]

/-- The number that two registers hold. -/
def Block.n64 (b : Block) (lo hi : Nat) : Nat := (b.regs.get hi).toNat * 2 ^ 32 + (b.regs.get lo).toNat

/-- The signed 48-bit counter that two registers hold. -/
def Block.s48 (b : Block) (lo hi : Nat) : Int := toSigned 48 (b.n64 lo hi)

/-- The block with a number stored in two registers. -/
def Block.put64 (b : Block) (lo hi v : Nat) : Block := (b.setReg lo (BitVec.ofNat 32 v)).setReg hi (BitVec.ofNat 32 (v / 2 ^ 32))

theorem gives_rd64 (lo hi : Nat) (b : Block) : Gives (rd64 lo hi) b (b.n64 lo hi) b := fun _ => rfl
theorem gives_wr64 (lo hi v : Nat) (b : Block) : Gives (wr64 lo hi v) b () (b.put64 lo hi v) := fun _ => rfl
theorem gives_wr48 (lo hi : Nat) (p : Int) (b : Block) : Gives (wr48 lo hi p) b () (b.put64 lo hi (ofSigned 48 p)) := fun _ => rfl

theorem get_set_held {l : Regs} (h : l.wf = true) {a : Nat} (ha : regImpl a ≠ 0#32) (w : Word) : (l.set a w).get a = regFit a w := by
  refine get_set_same l w h ?_
  cases hr : rowOf a with
  | none => exact absurd (by simp [regImpl, hr]) ha
  | some x => rfl

/-- A register that holds all its bits reads as the word stored. -/
theorem get_set_full {l : Regs} (h : l.wf = true) {a : Nat} (ha : regImpl a = 0xFFFFFFFF#32) (w : Word) : (l.set a w).get a = w := by
  have hall : w &&& 0xFFFFFFFF#32 = w := BitVec.and_allOnes
  have hnone : regReset a &&& ~~~0xFFFFFFFF#32 = 0#32 := BitVec.and_zero
  rw [get_set_held h (by rw [ha]; decide), regFit, ha, hall, hnone, BitVec.or_zero]

/-- A register that holds its lower half, which is 0 elsewhere. -/
abbrev LowerHalf (a : Nat) : Prop := regImpl a = 0xFFFF#32 ∧ regReset a = 0#32

theorem regFit_lowerHalf {a : Nat} (ha : LowerHalf a) (w : Word) : (regFit a w).toNat = w.toNat % 2 ^ 16 := by
  obtain ⟨himpl, hreset⟩ := ha
  rw [regFit, himpl, hreset, BitVec.zero_and, BitVec.or_zero, BitVec.toNat_and]
  exact Nat.and_two_pow_sub_one_eq_mod w.toNat 16

theorem get_set_lowerHalf {l : Regs} (h : l.wf = true) {a : Nat} (ha : LowerHalf a) (w : Word) :
    ((l.set a w).get a).toNat = w.toNat % 2 ^ 16 := by
  rw [get_set_held h (by rw [ha.1]; decide), regFit_lowerHalf ha]

theorem get_lt_lowerHalf {l : Regs} (h : l.wf = true) {a : Nat} (ha : LowerHalf a) : (l.get a).toNat < 2 ^ 16 := by
  rw [← regFit_get h a, regFit_lowerHalf ha]
  exact Nat.mod_lt _ (by decide)

/-- Two registers that hold a counter of 48 bits. -/
abbrev Counter48 (lo hi : Nat) : Prop := lo ≠ hi ∧ regImpl lo = 0xFFFFFFFF#32 ∧ LowerHalf hi

/-- Two registers that hold a number of 64 bits. -/
abbrev Counter64 (lo hi : Nat) : Prop := lo ≠ hi ∧ regImpl lo = 0xFFFFFFFF#32 ∧ regImpl hi = 0xFFFFFFFF#32

section
variable {b : Block} {lo hi : Nat} (h : b.regs.wf = true)
include h

theorem put64_wf (v : Nat) : (b.put64 lo hi v).regs.wf = true := wf_set _ _ _ (wf_set _ _ _ h)

theorem put64_lo (hne : lo ≠ hi) (hlo : regImpl lo = 0xFFFFFFFF#32) (v : Nat) :
    ((b.put64 lo hi v).regs.get lo).toNat = v % 2 ^ 32 := by
  simp only [Block.put64, setReg_regs]
  rw [get_set_ne _ _ hne, get_set_full h hlo, BitVec.toNat_ofNat]

theorem put64_n48 (hc : Counter48 lo hi) (v : Nat) : (b.put64 lo hi v).n64 lo hi = v % 2 ^ 48 := by
  obtain ⟨hne, hlo, hhi⟩ := hc
  have hset := get_set_lowerHalf (wf_set b.regs lo (BitVec.ofNat 32 v) h) hhi (BitVec.ofNat 32 (v / 2 ^ 32))
  have hstore := put64_lo (hi := hi) h hne hlo v
  unfold Block.n64
  rw [hstore, show ((b.put64 lo hi v).regs.get hi).toNat = _ from hset, BitVec.toNat_ofNat]
  omega

theorem put64_n64 (hc : Counter64 lo hi) (v : Nat) : (b.put64 lo hi v).n64 lo hi = v % 2 ^ 64 := by
  obtain ⟨hne, hlo, hhi⟩ := hc
  have hset := congrArg BitVec.toNat (get_set_full (wf_set b.regs lo (BitVec.ofNat 32 v) h) hhi (BitVec.ofNat 32 (v / 2 ^ 32)))
  have hstore := put64_lo (hi := hi) h hne hlo v
  unfold Block.n64
  rw [hstore, show ((b.put64 lo hi v).regs.get hi).toNat = _ from hset, BitVec.toNat_ofNat]
  omega

theorem put64_s48 (hc : Counter48 lo hi) (p : Int) : (b.put64 lo hi (ofSigned 48 p)).s48 lo hi = wrapSigned 48 p := by
  rw [Block.s48, put64_n48 h hc, toSigned_mod]
  rfl

theorem n64_lt (hc : LowerHalf hi) : b.n64 lo hi < 2 ^ 48 := by
  have := get_lt_lowerHalf h hc
  have hlo := (b.regs.get lo).isLt
  unfold Block.n64
  omega

end

theorem put64_get_ne (b : Block) {lo hi a : Nat} (v : Nat) (hlo : a ≠ lo) (hhi : a ≠ hi) :
    (b.put64 lo hi v).regs.get a = b.regs.get a := by
  simp only [Block.put64, setReg_regs]
  rw [get_set_ne _ _ hhi, get_set_ne _ _ hlo]

@[simp] theorem put64_u (b : Block) (lo hi v : Nat) : (b.put64 lo hi v).u = b.u := rfl

theorem within_put64 {β : Type} {T : Nat → Nat → Prop} {keep : Units → β} {b : Block} (h : b.regs.wf = true) {lo hi : Nat} (v : Nat)
    (hlo : ∀ j, T lo j) (hhi : ∀ j, T hi j) : Within T keep b (b.put64 lo hi v) :=
  (within_setReg h _ hlo).trans (within_setReg (wf_set _ _ _ h) _ hhi)

theorem Within.n64 {β : Type} {T : Nat → Nat → Prop} {keep : Units → β} {b b' : Block} (h : Within T keep b b') {lo hi : Nat}
    (hlo : ∀ j, ¬ T lo j) (hhi : ∀ j, ¬ T hi j) : b'.n64 lo hi = b.n64 lo hi := by
  rw [Block.n64, Block.n64, h.reg hlo, h.reg hhi]

theorem Within.s48 {β : Type} {T : Nat → Nat → Prop} {keep : Units → β} {b b' : Block} (h : Within T keep b b') {lo hi : Nat}
    (hlo : ∀ j, ¬ T lo j) (hhi : ∀ j, ¬ T hi j) : b'.s48 lo hi = b.s48 lo hi := by
  rw [Block.s48, Block.s48, h.n64 hlo hhi]

/-- The counters of a lane, and its registers that hold what a field of 32 bits takes. -/
theorem lane_counters : ∀ n < 16, Counter48 (R.ENC_POSL n) (R.ENC_POSH n) ∧ Counter48 (R.ENC_LEADL n) (R.ENC_LEADH n) ∧
    Counter48 (R.ENC_SNAPL n) (R.ENC_SNAPH n) ∧ Counter48 (R.ENC_SNAPLDL n) (R.ENC_SNAPLDH n) := by decide

theorem mains_counters : Counter48 R.ENC_MCNTL R.ENC_MCNTH ∧ Counter48 R.ENC_SNAPML R.ENC_SNAPMH ∧
    Counter64 R.ENC_SNAPWTL R.ENC_SNAPWTH := by decide

end Sys2Proof.Machine
end
section
/-!
PROOF. Proofs/Alarms.lean: the position alarms (R53 to R59): what a firing leaves, when a slot is compared and fires, and the comparison of
every armed slot of a source.
-/
namespace Sys2Proof.Machine

/-! ### What a slot compares -/

/-- The value that source `src` shows (R53). -/
def Block.source (b : Block) (src : Nat) : Int :=
  if src < 16 then b.s48 (R.ENC_LEADL src) (R.ENC_LEADH src) else toSigned 48 (b.n64 R.ENC_MCNTL R.ENC_MCNTH)

/-- The value that slot `a` compares with its source. -/
def Block.compareAt (b : Block) (a : Nat) : Int :=
  toSigned 48 ((F.ENC_ACMP0_CMP a).of (b.regs.get (R.ENC_ACMP0 a)) + (F.ENC_ACMP1_CMP a).of (b.regs.get (R.ENC_ACMP1 a)) * 2 ^ 16 +
    (F.ENC_ACMP2_CMP a).of (b.regs.get (R.ENC_ACMP2 a)) * 2 ^ 32)

/-- Whether slot `a` is armed. -/
def Block.arm (b : Block) (a : Nat) : Bool := (F.ENC_ACTL_ARM a).of (b.regs.get (R.ENC_ACTL a)) != 0

/-- The source of slot `a`. -/
def Block.src (b : Block) (a : Nat) : Nat := (F.ENC_ACTL_SRC a).of (b.regs.get (R.ENC_ACTL a))

theorem gives_posOf (n : Nat) (b : Block) : Gives (posOf n) b (b.s48 (R.ENC_POSL n) (R.ENC_POSH n)) b := fun _ => rfl
theorem gives_leadOf (n : Nat) (b : Block) : Gives (leadOf n) b (b.s48 (R.ENC_LEADL n) (R.ENC_LEADH n)) b := fun _ => rfl
theorem gives_mainsOf (b : Block) : Gives mainsOf b (b.n64 R.ENC_MCNTL R.ENC_MCNTH) b := gives_rd64 _ _ b

theorem gives_alarmSource (src : Nat) (b : Block) : Gives (alarmSource src) b (b.source src) b := by
  unfold alarmSource Block.source
  split
  · exact gives_leadOf src b
  · exact gives_bind (gives_mainsOf b) (gives_pure _ b)

theorem gives_alarmCompare (a : Nat) (b : Block) : Gives (alarmCompare a) b (b.compareAt a) b := fun _ => rfl

/-! ### A slot that fires -/

/-- The block with a flag set where `c` holds. -/
def Block.flagIf (b : Block) (c : Bool) (f : RF) : Block := if c then b.setField f 1 else b

/-- The block after slot `a` has fired. -/
def Block.fire (b : Block) (a : Nat) (late fb : Bool) : Block :=
  let b1 := ((b.setField (F.ENC_ASTAT_FIRED a) 1).flagIf late (F.ENC_ASTAT_LATE a)).flagIf fb (F.ENC_ASTAT_FB a)
  let b2 := (b1.setField ⟨R.ENC_AFIRED (a / 32), a % 32, a % 32⟩ 1).setField (F.ENC_ACTL_ARM a) 0
  b2.withU { b2.u with enc := { b2.u.enc with
    armed := b2.u.enc.armed.filter (fun x => x.1 ≠ a), fired := firedPut b2.u.enc.fired (a, b.u.elapsed / 10 + bit late) } }

theorem gives_flagIf (c : Bool) (f : RF) (b : Block) : Gives (onlyIf c (sb f true)) b () (b.flagIf c f) := by
  cases c
  · exact gives_pure () b
  · exact gives_sb f true b

theorem gives_alarmFire (a : Nat) (late fb : Bool) (b : Block) : Gives (alarmFire a late fb) b () (b.fire a late fb) :=
  gives_bind (gives_now b) (gives_bind (gives_sb _ _ b) (gives_bind (gives_flagIf late _ _) (gives_bind (gives_flagIf fb _ _)
    (gives_bind (gives_sb _ true _) (gives_bind (gives_sb _ false _) (gives_modEnc _ _))))))

section
variable {b : Block} (hb : b.regs.wf = true) (c : Bool)
include hb

theorem flagIf_wf (f : RF) : (b.flagIf c f).regs.wf = true := by
  cases c
  · exact hb
  · exact setField_wf hb f 1

theorem flagIf_of_same {a i : Nat} (hf : (RF.mk a i i).Held) :
    (RF.mk a i i).of ((b.flagIf c ⟨a, i, i⟩).regs.get a) = if c then 1 else (RF.mk a i i).of (b.regs.get a) := by
  cases c
  · rfl
  · exact (setField_of_same hb hf 1).trans (by rw [show (RF.mk a i i).hi + 1 - (RF.mk a i i).lo = 1 by show i + 1 - i = 1; omega]; rfl)

theorem flagIf_of_apart {f g : RF} (hf : f.Held) (hr : g.reg = f.reg) (hg : g.hi < f.lo ∨ f.hi < g.lo) :
    g.of ((b.flagIf c f).regs.get g.reg) = g.of (b.regs.get g.reg) := by
  cases c
  · rfl
  · exact setField_of_apart hb hf hr hg 1

end

theorem flagIf_get_ne (b : Block) (c : Bool) (f : RF) {a : Nat} (h : a ≠ f.reg) : (b.flagIf c f).regs.get a = b.regs.get a := by
  cases c
  · rfl
  · exact setField_get_ne b f 1 h

@[simp] theorem flagIf_u (b : Block) (c : Bool) (f : RF) : (b.flagIf c f).u = b.u := by cases c <;> rfl

theorem mem_firedPut (l : List (Nat × Nat)) (x : Nat × Nat) : x ∈ firedPut l x := by
  induction l with
  | nil => simp [firedPut]
  | cons y l ih =>
    rw [firedPut]
    split
    · simp
    · exact List.mem_cons_of_mem y ih

theorem mem_firedPut_of_mem {l : List (Nat × Nat)} {y : Nat × Nat} (x : Nat × Nat) (h : y ∈ l) : y ∈ firedPut l x := by
  induction l with
  | nil => cases h
  | cons z l ih =>
    rw [firedPut]
    split
    · exact List.mem_cons_of_mem x h
    · rcases List.mem_cons.1 h with rfl | h
      · simp
      · exact List.mem_cons_of_mem z (ih h)

/-- What block `b` shows of slot `a`, which fired in sample `k` of 100 MHz. -/
structure SlotFired (a k : Nat) (b : Block) : Prop where
  arm : (F.ENC_ACTL_ARM a).of (b.regs.get (R.ENC_ACTL a)) = 0
  flag : (F.ENC_ASTAT_FIRED a).of (b.regs.get (R.ENC_ASTAT a)) = 1
  listed : bitAt (b.regs.get (R.ENC_AFIRED (a / 32))).toNat (a % 32) = true
  waits : (a, k) ∈ b.u.enc.fired

theorem afired_impl : ∀ i < 16, regImpl (R.ENC_AFIRED i) = 0xFFFFFFFF#32 := by decide

theorem held_listed {a : Nat} (h : a < 512) : (RF.mk (R.ENC_AFIRED (a / 32)) (a % 32) (a % 32)).Held := by
  have hone : ∀ i < 32, bits (0xFFFFFFFF#32).toNat i i = 2 ^ (i + 1 - i) - 1 := by decide
  refine ⟨Nat.le_refl _, Nat.mod_lt _ (by decide), ?_⟩
  show bits (regImpl (R.ENC_AFIRED (a / 32))).toNat (a % 32) (a % 32) = 2 ^ (a % 32 + 1 - a % 32) - 1
  rw [afired_impl (a / 32) (by omega), hone _ (Nat.mod_lt _ (by decide))]

/-- A field of a slot's ENC_ASTAT after the slot has fired. -/
theorem fire_status {b : Block} {a : Nat} (late fb : Bool) (ha : a < 512) : (b.fire a late fb).regs.get (R.ENC_ASTAT a) =
    (((b.setField (F.ENC_ASTAT_FIRED a) 1).flagIf late (F.ENC_ASTAT_LATE a)).flagIf fb (F.ENC_ASTAT_FB a)).regs.get (R.ENC_ASTAT a) :=
  (setField_get_ne _ (F.ENC_ACTL_ARM a) 0 (by simp only [F.ENC_ACTL_ARM, R.ENC_ACTL, R.ENC_ASTAT]; omega)).trans
    (setField_get_ne _ ⟨R.ENC_AFIRED (a / 32), a % 32, a % 32⟩ 1 (by simp only [R.ENC_AFIRED, R.ENC_ASTAT]; omega))

section
variable {b : Block} (hb : b.regs.wf = true) {a : Nat} (ha : a < 512) (late fb : Bool)
include hb ha

theorem fire_shows : SlotFired a (b.u.elapsed / 10 + bit late) (b.fire a late fb) ∧
    (F.ENC_ASTAT_LATE a).of ((b.fire a late fb).regs.get (R.ENC_ASTAT a)) =
      (if late then 1 else (F.ENC_ASTAT_LATE a).of (b.regs.get (R.ENC_ASTAT a))) ∧
    (F.ENC_ASTAT_FB a).of ((b.fire a late fb).regs.get (R.ENC_ASTAT a)) =
      (if fb then 1 else (F.ENC_ASTAT_FB a).of (b.regs.get (R.ENC_ASTAT a))) := by
  have h1 := setField_wf hb (F.ENC_ASTAT_FIRED a) 1
  have h2 := flagIf_wf h1 late (F.ENC_ASTAT_LATE a)
  have h3 := flagIf_wf h2 fb (F.ENC_ASTAT_FB a)
  have h4 := setField_wf h3 ⟨R.ENC_AFIRED (a / 32), a % 32, a % 32⟩ 1
  rw [fire_status late fb ha]
  refine ⟨⟨setField_of_same h4 (held_arm ha) 0, ?flag, ?listed, mem_firedPut _ _⟩, ?late, ?fb⟩
  case flag =>
    rw [fire_status late fb ha]
    exact (flagIf_of_apart h2 fb (held_fellBack ha) (g := F.ENC_ASTAT_FIRED a) rfl (.inl (show 0 < 2 by decide))).trans
      ((flagIf_of_apart h1 late (held_late ha) (g := F.ENC_ASTAT_FIRED a) rfl (.inl (show 0 < 1 by decide))).trans
        (setField_of_same hb (held_fired ha) 1))
  case listed =>
    have hne : R.ENC_AFIRED (a / 32) ≠ R.ENC_ACTL a := by simp only [R.ENC_AFIRED, R.ENC_ACTL]; omega
    have hset := setField_of_same h3 (held_listed ha) 1
    rw [show (b.fire a late fb).regs.get (R.ENC_AFIRED (a / 32)) = _ from setField_get_ne _ (F.ENC_ACTL_ARM a) 0 hne, ← of_bit_ne_zero, hset]
    have hw : a % 32 + 1 - a % 32 = 1 := by omega
    simp only [hw]
    rfl
  case late =>
    exact (flagIf_of_apart h2 fb (held_fellBack ha) (g := F.ENC_ASTAT_LATE a) rfl (.inl (show 1 < 2 by decide))).trans
      ((flagIf_of_same h1 late (held_late ha)).trans
        (congrArg (ite (late = true) 1) (setField_of_apart hb (held_fired ha) (g := F.ENC_ASTAT_LATE a) rfl (.inr (show 0 < 1 by decide)) 1)))
  case fb =>
    exact (flagIf_of_same h2 fb (held_fellBack ha)).trans (congrArg (ite (fb = true) 1)
      ((flagIf_of_apart h1 late (held_late ha) (g := F.ENC_ASTAT_FB a) rfl (.inr (show 1 < 2 by decide))).trans
        (setField_of_apart hb (held_fired ha) (g := F.ENC_ASTAT_FB a) rfl (.inr (show 0 < 2 by decide)) 1)))

end

theorem fire_wf {b : Block} (hb : b.regs.wf = true) (a : Nat) (late fb : Bool) : (b.fire a late fb).regs.wf = true :=
  setField_wf (setField_wf (flagIf_wf (flagIf_wf (setField_wf hb _ _) _ _) _ _) _ _) _ _

/-! ### A firing seen from other slots -/

/-- The bits that the firing of slot `x` at its compare value may change: its bit of ENC_AFIRED, its ARM and its
FIRED. -/
abbrev fireBits (x a j : Nat) : Prop :=
  (a = R.ENC_AFIRED (x / 32) ∧ j = x % 32) ∨ (a = R.ENC_ACTL x ∧ j = 15) ∨ (a = R.ENC_ASTAT x ∧ j = 0)

/-- The units' data without what a firing changes. -/
def alarmKeep (u : Units) : Units := { u with enc := { u.enc with armed := [], fired := [] } }

theorem fire_within {b : Block} (hb : b.regs.wf = true) (x : Nat) : Within (fireBits x) alarmKeep b (b.fire x false false) := by
  have h1 : Within (fireBits x) alarmKeep b (b.setField (F.ENC_ASTAT_FIRED x) 1) :=
    within_setField hb (Nat.le_refl 0) (show 0 < 32 by decide) 1 fun j _ hj => .inr (.inr ⟨rfl, Nat.le_zero.1 hj⟩)
  have h2 := h1.trans (within_setField h1.wf (f := ⟨R.ENC_AFIRED (x / 32), x % 32, x % 32⟩) (Nat.le_refl _) (Nat.mod_lt _ (by decide)) 1
    fun j h0 h1 => .inl ⟨rfl, Nat.le_antisymm h1 h0⟩)
  have h3 := h2.trans (within_setField h2.wf (f := F.ENC_ACTL_ARM x) (Nat.le_refl 15) (show 15 < 32 by decide) 0 fun j h0 h1 =>
    .inr (.inl ⟨rfl, Nat.le_antisymm h1 h0⟩))
  exact h3.trans (within_withU h3.wf rfl)

/-- The firing of another slot leaves slot `a`'s control and FIRED alone. -/
theorem fire_other {b : Block} (hb : b.regs.wf = true) {a x : Nat} (ha : a < 512) (hx : x < 21504) (h : x ≠ a) :
    (b.fire x false false).regs.get (R.ENC_ACTL a) = b.regs.get (R.ENC_ACTL a) ∧
      (F.ENC_ASTAT_FIRED a).of ((b.fire x false false).regs.get (R.ENC_ASTAT a)) = (F.ENC_ASTAT_FIRED a).of (b.regs.get (R.ENC_ASTAT a)) := by
  have hw := fire_within hb x
  refine ⟨hw.reg fun j => ?_, hw.fld (F.ENC_ASTAT_FIRED a) fun j _ hj => ?_⟩
  · simp only [fireBits, R.ENC_AFIRED, R.ENC_ACTL, R.ENC_ASTAT]
    omega
  · simp only [fireBits, F.ENC_ASTAT_FIRED, R.ENC_AFIRED, R.ENC_ACTL, R.ENC_ASTAT] at hj ⊢
    omega

/-- The bits that firings of slots at their compare values may change. -/
abbrev alarmBits (a j : Nat) : Prop :=
  (0x100580 ≤ a ∧ a < 0x101000) ∨ (0x10100C ≤ a ∧ a % 16 = 12 ∧ j = 15) ∨ (0x103000 ≤ a ∧ j = 0)

theorem fireBits_alarmBits {x : Nat} (hx : x < 21504) (a j : Nat) (h : fireBits x a j) : alarmBits a j := by
  simp only [fireBits, R.ENC_AFIRED, R.ENC_ACTL, R.ENC_ASTAT] at h
  simp only [alarmBits]
  omega

/-! ### Comparing slots -/

theorem gives_alarmCheck_fires {b : Block} {a : Nat} (late : Bool) (harm : b.arm a = true) (hc : b.compareAt a ≤ b.source (b.src a)) :
    Gives (alarmCheck a late) b () (b.fire a late false) :=
  gives_bind (gives_bf _ b) (gives_bind (gives_gf _ b) (gives_bind (gives_alarmSource _ b) (gives_bind (gives_alarmCompare a b)
    (gives_onlyIf_true (Bool.and_eq_true_iff.2 ⟨harm, decide_eq_true hc⟩) (gives_alarmFire a late false b)))))

theorem gives_alarmCheck_waits {b : Block} {a : Nat} (late : Bool) (h : ¬ (b.arm a = true ∧ b.compareAt a ≤ b.source (b.src a))) :
    Gives (alarmCheck a late) b () b := by
  refine gives_bind (gives_bf _ b) (gives_bind (gives_gf _ b) (gives_bind (gives_alarmSource _ b) (gives_bind (gives_alarmCompare a b)
    (gives_onlyIf_false ?_))))
  exact Bool.eq_false_iff.2 fun e => h ((Bool.and_eq_true_iff.1 e).imp id of_decide_eq_true)

/-- A slot of a source is compared. -/
def slotCheck (src : Nat) (x : Nat × Nat × Nat) : Op Unit := do
  let s ← gf (F.ENC_ACTL_SRC x.1)
  onlyIf (s == src) (alarmCheck x.1 false)

theorem alarmChecks_eq (src : Nat) : alarmChecks src = (do let u ← units; each (slotCheck src) u.enc.armed) := rfl

/-- A comparison fires its slot, or leaves everything. -/
theorem slotCheck_cases {b : Block} (hb : b.regs.wf = true) (src : Nat) (x : Nat × Nat × Nat) :
    (Gives (slotCheck src x) b () (b.fire x.1 false false) ∧ x.1 < 21504 ∧ b.arm x.1 = true ∧ b.src x.1 = src ∧
      b.compareAt x.1 ≤ b.source src) ∨
    (Gives (slotCheck src x) b () b ∧ ¬ (b.arm x.1 = true ∧ b.src x.1 = src ∧ b.compareAt x.1 ≤ b.source src)) := by
  by_cases hs : b.src x.1 = src
  · have hq : (b.src x.1 == src) = true := beq_iff_eq.2 hs
    by_cases hf : b.arm x.1 = true ∧ b.compareAt x.1 ≤ b.source (b.src x.1)
    · exact .inl ⟨gives_bind (gives_gf _ b) (gives_onlyIf_true hq (gives_alarmCheck_fires false hf.1 hf.2)),
        armed_lt hb (bne_iff_ne.1 hf.1), hf.1, hs, hs ▸ hf.2⟩
    · refine .inr ⟨gives_bind (gives_gf _ b) (gives_onlyIf_true hq (gives_alarmCheck_waits false hf)), fun h => hf ⟨h.1, ?_⟩⟩
      rw [hs]
      exact h.2.2
  · exact .inr ⟨gives_bind (gives_gf _ b) (gives_onlyIf_false (beq_eq_false_iff_ne.2 hs)), fun h => hs h.2.1⟩

/-- Comparing the armed slots of a source changes what firings change, and nothing else. -/
theorem ends_alarmChecks {b : Block} (hb : b.regs.wf = true) (src : Nat) :
    Ends (alarmChecks src) b fun _ b' => Within alarmBits alarmKeep b b' := by
  rw [alarmChecks_eq]
  refine ends_then (gives_units b) (ends_each (R := Within alarmBits alarmKeep b) (fun x _ c hc => ?_) (within_refl hb))
  rcases slotCheck_cases hc.wf src x with ⟨hg, hx, -⟩ | ⟨hg, -⟩
  · exact ends_of_gives hg (hc.trans ((fire_within hc.wf x.1).mono (fireBits_alarmBits hx) fun _ _ => id))
  · exact ends_of_gives hg hc

theorem Within.source {b c : Block} {src : Nat} (h : Within alarmBits alarmKeep b c) (hs : src ≤ 16) : c.source src = b.source src := by
  unfold Block.source
  split
  · exact h.s48 (fun j => by simp only [alarmBits, R.ENC_LEADL]; omega) fun j => by simp only [alarmBits, R.ENC_LEADH]; omega
  · rw [h.n64 (fun j => by simp only [alarmBits, R.ENC_MCNTL]; omega) fun j => by simp only [alarmBits, R.ENC_MCNTH]; omega]

theorem Within.compareAt {b c : Block} {a : Nat} (h : Within alarmBits alarmKeep b c) (ha : a < 512) : c.compareAt a = b.compareAt a := by
  unfold Block.compareAt
  rw [h.reg (a := R.ENC_ACMP0 a) fun j => by simp only [alarmBits, R.ENC_ACMP0]; omega,
    h.reg (a := R.ENC_ACMP1 a) fun j => by simp only [alarmBits, R.ENC_ACMP1]; omega,
    h.reg (a := R.ENC_ACMP2 a) fun j => by simp only [alarmBits, R.ENC_ACMP2]; omega]

theorem Within.src {b c : Block} {a : Nat} (h : Within alarmBits alarmKeep b c) (ha : a < 512) : c.src a = b.src a :=
  h.fld (F.ENC_ACTL_SRC a) fun j h0 h1 => by simp only [alarmBits, F.ENC_ACTL_SRC, R.ENC_ACTL] at h0 h1 ⊢; omega

/-- What stands of slot `a` as long as it has not fired. -/
def Unfired (a : Nat) (b c : Block) : Prop :=
  Within alarmBits alarmKeep b c ∧ c.arm a = b.arm a ∧
    (F.ENC_ASTAT_FIRED a).of (c.regs.get (R.ENC_ASTAT a)) = (F.ENC_ASTAT_FIRED a).of (b.regs.get (R.ENC_ASTAT a))

theorem unfired_fire {b c : Block} {a x : Nat} (h : Unfired a b c) (ha : a < 512) (hx : x < 21504) (hne : x ≠ a) :
    Unfired a b (c.fire x false false) := by
  obtain ⟨hw, harm, hflag⟩ := h
  obtain ⟨hctl, hfired⟩ := fire_other hw.wf ha hx hne
  refine ⟨hw.trans ((fire_within hw.wf x).mono (fireBits_alarmBits hx) fun _ _ => id), ?_, hfired.trans hflag⟩
  rw [Block.arm, hctl]
  exact harm

/-- A slot that its source has not reached stays armed while the others are compared. -/
theorem ends_alarmChecks_waits {b : Block} (hb : b.regs.wf = true) {src a : Nat} (hs : src ≤ 16) (ha : a < 512)
    (hc : b.source src < b.compareAt a) : Ends (alarmChecks src) b fun _ b' => Unfired a b b' := by
  rw [alarmChecks_eq]
  refine ends_then (gives_units b) (ends_each (R := Unfired a b) (fun x _ c hu => ?_) ⟨within_refl hb, rfl, rfl⟩)
  obtain ⟨hw, -, -⟩ := id hu
  rcases slotCheck_cases hw.wf src x with ⟨hg, hx, -, -, hreached⟩ | ⟨hg, -⟩
  · refine ends_of_gives hg (unfired_fire hu ha hx fun e => ?_)
    rw [e, hw.compareAt ha, hw.source hs] at hreached
    omega
  · exact ends_of_gives hg hu

/-- What is shown of a slot that has fired stays shown when another fires. -/
theorem slotFired_fire {c : Block} (hw : c.regs.wf = true) {a x k : Nat} (h : SlotFired a k c) (ha : a < 512) (hx : x < 21504) (hne : x ≠ a) :
    SlotFired a k (c.fire x false false) := by
  obtain ⟨hctl, hfired⟩ := fire_other hw ha hx hne
  refine ⟨hctl ▸ h.arm, hfired.trans h.flag, ?_, mem_firedPut_of_mem _ h.waits⟩
  rw [(fire_within hw x).bit]
  · exact h.listed
  · simp only [fireBits, R.ENC_AFIRED, R.ENC_ACTL, R.ENC_ASTAT]
    omega

/-- What stands of slot `a`, which has fired since block `b`. -/
def FiredSince (a : Nat) (b c : Block) : Prop := Within alarmBits alarmKeep b c ∧ SlotFired a (b.u.elapsed / 10) c

theorem alarmKeep_elapsed {u v : Units} (h : alarmKeep u = alarmKeep v) : u.elapsed = v.elapsed := by
  have he : (alarmKeep u).elapsed = (alarmKeep v).elapsed := congrArg Units.elapsed h
  exact he

/-- A slot that has fired is left alone by each comparison that follows. -/
theorem firedSince_slotCheck {b c : Block} {src a : Nat} (ha : a < 512) (h : FiredSince a b c) (x : Nat × Nat × Nat) :
    Ends (slotCheck src x) c fun _ c' => FiredSince a b c' := by
  obtain ⟨hw, hfired⟩ := h
  rcases slotCheck_cases hw.wf src x with ⟨hg, hx, harm, -⟩ | ⟨hg, -⟩
  · refine ends_of_gives hg ⟨hw.trans ((fire_within hw.wf x.1).mono (fireBits_alarmBits hx) fun _ _ => id),
      slotFired_fire hw.wf hfired ha hx fun e => ?_⟩
    rw [e, Block.arm, hfired.arm] at harm
    cases harm
  · exact ends_of_gives hg ⟨hw, hfired⟩

/-- An armed slot that its source has reached fires, whatever else is armed. -/
theorem ends_slotChecks_fires {b : Block} {src a : Nat} (hs : src ≤ 16) (ha : a < 512) (harm : b.arm a = true) (hsrc : b.src a = src)
    (hc : b.compareAt a ≤ b.source src) {l : List (Nat × Nat × Nat)} (hl : ∃ x ∈ l, x.1 = a) {c : Block} (hu : Unfired a b c) :
    Ends (each (slotCheck src) l) c fun _ c' => FiredSince a b c' := by
  induction l generalizing c with
  | nil => simp at hl
  | cons x l ih =>
    obtain ⟨hw, harmc, -⟩ := id hu
    by_cases hx : x.1 = a
    · have hreached : c.arm x.1 = true ∧ c.src x.1 = src ∧ c.compareAt x.1 ≤ c.source src := by
        rw [hx, harmc, hw.src ha, hw.compareAt ha, hw.source hs]
        exact ⟨harm, hsrc, hc⟩
      rcases slotCheck_cases hw.wf src x with ⟨hg, hlt, -⟩ | ⟨-, hn⟩
      · have hfired := (fire_shows hw.wf ha false false).1
        rw [alarmKeep_elapsed hw.units] at hfired
        rw [hx] at hg hlt
        exact ends_then hg (ends_each (R := FiredSince a b) (fun y _ d hd => firedSince_slotCheck ha hd y)
          ⟨hw.trans ((fire_within hw.wf a).mono (fireBits_alarmBits hlt) fun _ _ => id), hfired⟩)
      · exact absurd hreached hn
    · have hl' : ∃ y ∈ l, y.1 = a := by
        obtain ⟨y, hy, rfl⟩ := hl
        exact ⟨y, (List.mem_cons.1 hy).resolve_left fun e => hx (by rw [e]), rfl⟩
      rcases slotCheck_cases hw.wf src x with ⟨hg, hlt, -⟩ | ⟨hg, -⟩
      · exact ends_then hg (ih hl' (unfired_fire hu ha hlt hx))
      · exact ends_then hg (ih hl' hu)

theorem ends_alarmChecks_fires {b : Block} (hb : b.regs.wf = true) {src a : Nat} (hs : src ≤ 16) (ha : a < 512) (harm : b.arm a = true)
    (hsrc : b.src a = src) (hc : b.compareAt a ≤ b.source src) (hl : ∃ x ∈ b.u.enc.armed, x.1 = a) :
    Ends (alarmChecks src) b fun _ b' => FiredSince a b b' := by
  rw [alarmChecks_eq]
  exact ends_then (gives_units b) (ends_slotChecks_fires hs ha harm hsrc hc hl ⟨within_refl hb, rfl, rfl⟩)

/-- The settings of a slot, as far as no register of a slot differs. -/
theorem slot_same {b c : Block} (h : ∀ x, 0x101000 ≤ x → c.regs.get x = b.regs.get x) (a : Nat) :
    c.arm a = b.arm a ∧ c.src a = b.src a ∧ c.compareAt a = b.compareAt a := by
  have hctl : c.regs.get (R.ENC_ACTL a) = b.regs.get (R.ENC_ACTL a) := h _ (by simp only [R.ENC_ACTL]; omega)
  refine ⟨?_, ?_, ?_⟩
  · exact congrArg (fun w => (F.ENC_ACTL_ARM a).of w != 0) hctl
  · exact congrArg (F.ENC_ACTL_SRC a).of hctl
  · rw [Block.compareAt, Block.compareAt, h (R.ENC_ACMP0 a) (by simp only [R.ENC_ACMP0]; omega), h (R.ENC_ACMP1 a) (by simp only [R.ENC_ACMP1]; omega),
      h (R.ENC_ACMP2 a) (by simp only [R.ENC_ACMP2]; omega)]

end Sys2Proof.Machine
end
section
/-!
PROOF. Proofs/EncWrites.lean: writes of the ENC unit's control registers (R48, R56 to R58, R70, R448 to R454), and what they start.
-/
namespace Sys2Proof.Machine

/-! ### Fields of a word after a masked write -/

theorem bits_testBit (v hi lo i : Nat) : (bits v hi lo).testBit i = (decide (i < hi + 1 - lo) && v.testBit (lo + i)) := by
  simp [bits, Nat.testBit_mod_two_pow, Nat.testBit_shiftRight]

/-- A field that the mask does not select. -/
theorem merge_kept {r : RegRow} (h3 : r.noThree = []) {old w : Word} (f : RF) (hm : bits (w.toNat / 65536) f.hi f.lo = 0) :
    f.of (mergeWord r old w) = f.of old := by
  refine Nat.eq_of_testBit_eq fun i => ?_
  have hsel := congrArg (fun n => n.testBit i) hm
  simp only [bits_testBit, Nat.zero_testBit] at hsel
  rw [of_testBit, of_testBit]
  by_cases hi : i < f.hi + 1 - f.lo
  · rw [decide_eq_true hi, Bool.true_and] at hsel
    have := mergeWord_bit h3 old w (f.lo + i)
    rw [if_neg fun h => by rw [bitAt, hsel] at h; exact absurd h.1 (by decide)] at this
    simp only [bitAt] at this
    rw [this]
  · rw [decide_eq_false hi, Bool.false_and, Bool.false_and]

/-- A field that the mask selects whole. -/
theorem merge_set {r : RegRow} (h3 : r.noThree = []) {old w : Word} (f : RF)
    (hm : bits (w.toNat / 65536) f.hi f.lo = 2 ^ (f.hi + 1 - f.lo) - 1) (hr : bits r.rw f.hi f.lo = 2 ^ (f.hi + 1 - f.lo) - 1) :
    f.of (mergeWord r old w) = f.of w := by
  refine Nat.eq_of_testBit_eq fun i => ?_
  have hsel := congrArg (fun n => n.testBit i) hm
  have hrw := congrArg (fun n => n.testBit i) hr
  simp only [bits_testBit, Nat.testBit_two_pow_sub_one] at hsel hrw
  rw [of_testBit, of_testBit]
  by_cases hi : i < f.hi + 1 - f.lo
  · rw [decide_eq_true hi, Bool.true_and] at hsel hrw
    have := mergeWord_bit h3 old w (f.lo + i)
    rw [if_pos ⟨hsel, hrw⟩] at this
    simp only [bitAt] at this
    rw [this]
  · rw [decide_eq_false hi, Bool.false_and, Bool.false_and]

/-! ### A write reaches the unit -/

/-- The block in which register `a`'s parity matches again. -/
def Block.mended (b : Block) (a : Nat) : Block := { b with upset := b.upset.filter (· ≠ a) }

@[simp] theorem mended_regs (b : Block) (a : Nat) : (b.mended a).regs = b.regs := rfl
@[simp] theorem mended_u (b : Block) (a : Nat) : (b.mended a).u = b.u := rfl

/-- The registers of the ENC window that show a running value. -/
def encShown : List Nat := [R.ENC_WTL, R.ENC_WTH, R.ENC_ANGLE 0]

theorem gives_regView_enc {r : RegRow} {i a : Nat} (h : a / 0x10000 = 16) (hr : r.base ∉ encShown) (b : Block) :
    Gives (regView r i a) b (b.regs.get a) b := by
  simp only [encShown, List.mem_cons, List.not_mem_nil, or_false, not_or] at hr
  obtain ⟨hwl, hwh, hangle⟩ := hr
  unfold regView
  refine gives_bind (gives_rd a b) (gives_bind (gives_now b) (gives_bind (gives_units b) ?_))
  rw [h]
  simp only [encRead, hwl, hwh, hangle, if_false]
  exact gives_rd a b

theorem unitWrite_enc {a : Nat} (h : a / 0x10000 = 16) (src : Src) (base i : Nat) (new acts raw : Word) :
    unitWrite src base i a new acts raw = encWrite src base i a new acts := by
  unfold unitWrite
  rw [h]
  rfl

theorem regDomain_enc {a : Nat} (h : a / 0x10000 = 16) (r : RegRow) : regDomain r a = none := by
  unfold regDomain
  rw [h]
  rfl

/-- A write to a control register of the ENC unit that keeps the KP bits does what the unit makes of it. -/
theorem gives_encWrite {src : Src} {r : RegRow} {i a : Nat} {w : Word} {b b' : Block} (hrow : rowOf a = some (r, i)) (ha : a / 0x10000 = 16)
    (hr : r.base ∉ encShown) (hmask : r.mask = true) (hkey : keyGuarded r.base = false) (hm : w.toNat / 65536 ≠ 0)
    (hk : (w.toNat ^^^ (b.regs.get a).toNat) &&& (w.toNat / 65536) &&& r.kp = 0)
    (hu : Gives (encWrite src r.base i a (mergeWord r (b.regs.get a) w) (BitVec.ofNat 32 (w.toNat &&& (w.toNat / 65536) &&& r.wo)))
      (b.mended a) () b') : Gives (opWrite src a w) b () b' := by
  refine gives_opWrite (gives_fabricWrite (privileged_of_window ha (by decide)) hrow (regDomain_enc ha r) hkey hmask
    (gives_maskedWrite (gives_regView_enc ha hr b) hm hk ?_))
  rw [unitWrite_enc ha]
  exact hu

/-! ### ENC_ACTL -/

theorem actl_window {a : Nat} (h : a < 512) : R.ENC_ACTL a / 0x10000 = 16 := by simp only [R.ENC_ACTL]; omega

theorem encWrite_actl {src : Src} {i : Nat} (h : 64 ≤ i ∨ srcHost src = false) (a : Nat) (new acts : Word) :
    encWrite src (R.ENC_ACTL 0) i a new acts = alarmControl i new := by
  have hown : (srcHost src && decide (i < 64)) = false := by
    rcases h with h | h
    · rw [decide_eq_false (by omega), Bool.and_false]
    · rw [h, Bool.false_and]
  simp only [encWrite, hown]
  rfl

/-- A write to ENC_ACTL of a slot that the source may write, by what the unit makes of the word. -/
theorem gives_slotWrite {src : Src} {a : Nat} {w : Word} {b b' : Block} (ha : a < 512) (hsrc : 64 ≤ a ∨ srcHost src = false)
    (hm : w.toNat / 65536 ≠ 0) (hk : (w.toNat / 65536) &&& 0x6000 = 0)
    (hu : Gives (alarmControl a (mergeWord actlRow (b.regs.get (R.ENC_ACTL a)) w)) (b.mended (R.ENC_ACTL a)) () b') :
    Gives (opWrite src (R.ENC_ACTL a) w) b () b' := by
  refine gives_encWrite (rowOf_actl ha) (actl_window ha) (by decide) rfl (by decide) hm ?_ ?_
  · rw [Nat.and_assoc, show actlRow.kp = 0x6000 from rfl, hk, Nat.and_zero]
  · rw [show actlRow.base = R.ENC_ACTL 0 from rfl, encWrite_actl hsrc]
    exact hu

/-- The block with slot `a` among the armed ones, as the word `new` in its ENC_ACTL says. -/
def Block.armSlot (b : Block) (a : Nat) (new : Word) : Block :=
  (b.setReg (R.ENC_ACTL a) new).withU { b.u with enc := { b.u.enc with
    armed := armedPut b.u.enc.armed (a, b.u.elapsed, (F.ENC_ACTL_FB a).of new) } }

/-- The block with slot `a` disarmed, and `new` in its ENC_ACTL. -/
def Block.disarmSlot (b : Block) (a : Nat) (new : Word) : Block :=
  (b.setReg (R.ENC_ACTL a) new).withU { b.u with enc := { b.u.enc with armed := b.u.enc.armed.filter (fun x => x.1 ≠ a) } }

theorem gives_alarmControl_arm {b b' : Block} {a : Nat} {new : Word} (hs : (F.ENC_ACTL_SRC a).of new ≤ 16)
    (hnew : (F.ENC_ACTL_ARM a).of new = 1) (hold : b.arm a = false) (hc : Gives (alarmCheck a true) (b.armSlot a new) () b') :
    Gives (alarmControl a new) b () b' := by
  refine gives_bind (gives_bf _ b) (gives_bind (gives_now b) (gives_ite_neg (by omega) (gives_bind (gives_wr _ _ b) ?_)))
  rw [show ((F.ENC_ACTL_ARM a).of (b.regs.get (F.ENC_ACTL_ARM a).reg) != 0) = false from hold, hnew]
  exact gives_bind (gives_modEnc _ _) hc

theorem gives_alarmControl_disarm {b : Block} {a : Nat} {new : Word} (hs : (F.ENC_ACTL_SRC a).of new ≤ 16)
    (hnew : (F.ENC_ACTL_ARM a).of new = 0) : Gives (alarmControl a new) b () (b.disarmSlot a new) := by
  refine gives_bind (gives_bf _ b) (gives_bind (gives_now b) (gives_ite_neg (by omega) (gives_bind (gives_wr _ _ b) ?_)))
  rw [hnew]
  exact gives_ite_neg (by simp) (gives_ite_neg (by simp) (gives_modEnc _ _))

theorem mem_armedPut (l : List (Nat × Nat × Nat)) (x : Nat × Nat × Nat) : x ∈ armedPut l x := by
  induction l with
  | nil => simp [armedPut]
  | cons y l ih =>
    rw [armedPut]
    split
    · simp
    · split
      · simp
      · exact List.mem_cons_of_mem y ih

section
variable {b : Block} (hb : b.regs.wf = true) {a : Nat} (ha : a < 512) (new : Word)
include hb ha

/-- What ENC_ACTL of a slot holds after the word `new` was stored in it. -/
theorem armSlot_shows : (b.armSlot a new).arm a = ((F.ENC_ACTL_ARM a).of new != 0) ∧ (b.armSlot a new).src a = (F.ENC_ACTL_SRC a).of new ∧
    (F.ENC_ACTL_FB a).of ((b.armSlot a new).regs.get (R.ENC_ACTL a)) = (F.ENC_ACTL_FB a).of new :=
  ⟨congrArg (· != 0) (of_get_set hb (held_arm ha) new), of_get_set hb (held_src ha) new, of_get_set hb (held_fb ha) new⟩

end

/-- The bits of slot `a`'s ENC_ACTL. -/
abbrev actlBits (a : Nat) (c _j : Nat) : Prop := c = R.ENC_ACTL a

theorem armSlot_within {b : Block} (hb : b.regs.wf = true) (a : Nat) (new : Word) : Within (actlBits a) alarmKeep b (b.armSlot a new) :=
  (within_setReg hb new fun _ => rfl).trans (within_withU (wf_set _ _ _ hb) rfl)

theorem disarmSlot_within {b : Block} (hb : b.regs.wf = true) (a : Nat) (new : Word) : Within (actlBits a) alarmKeep b (b.disarmSlot a new) :=
  (within_setReg hb new fun _ => rfl).trans (within_withU (wf_set _ _ _ hb) rfl)

theorem actlBits_source {b c : Block} {a src : Nat} (h : Within (actlBits a) alarmKeep b c) (hs : src ≤ 16) : c.source src = b.source src := by
  unfold Block.source
  split
  · exact h.s48 (fun j => by simp only [actlBits, R.ENC_LEADL, R.ENC_ACTL]; omega) fun j => by simp only [actlBits, R.ENC_LEADH, R.ENC_ACTL]; omega
  · rw [h.n64 (fun j => by simp only [actlBits, R.ENC_MCNTL, R.ENC_ACTL]; omega) fun j => by simp only [actlBits, R.ENC_MCNTH, R.ENC_ACTL]; omega]

theorem actlBits_compareAt {b c : Block} {a x : Nat} (h : Within (actlBits a) alarmKeep b c) : c.compareAt x = b.compareAt x := by
  unfold Block.compareAt
  rw [h.reg (a := R.ENC_ACMP0 x) fun j => by simp only [actlBits, R.ENC_ACMP0, R.ENC_ACTL]; omega,
    h.reg (a := R.ENC_ACMP1 x) fun j => by simp only [actlBits, R.ENC_ACMP1, R.ENC_ACTL]; omega,
    h.reg (a := R.ENC_ACMP2 x) fun j => by simp only [actlBits, R.ENC_ACMP2, R.ENC_ACTL]; omega]

end Sys2Proof.Machine
end

section
/-!
PROOF. Proofs/TimebaseWrites.lean: arming a slot (R56), selecting the mains edge (R70) and taking a snapshot (R48), each by one masked write.
-/
namespace Sys2Proof.Machine

/-! ### Arming -/

/-- The write that arms a slot and changes nothing else of its control. -/
abbrev armWord : Word := 0x80008000

/-- What ENC_ACTL of slot `a` takes from `armWord`. -/
def Block.armedWord (b : Block) (a : Nat) : Word := mergeWord actlRow (b.regs.get (R.ENC_ACTL a)) armWord

/-- The block with slot `a` armed by `armWord`. -/
def Block.armed (b : Block) (a : Nat) : Block := (b.mended (R.ENC_ACTL a)).armSlot a (b.armedWord a)

theorem armedWord_fields (b : Block) (a : Nat) : (F.ENC_ACTL_ARM a).of (b.armedWord a) = 1 ∧ (F.ENC_ACTL_SRC a).of (b.armedWord a) = b.src a ∧
    (F.ENC_ACTL_FB a).of (b.armedWord a) = (F.ENC_ACTL_FB a).of (b.regs.get (R.ENC_ACTL a)) := by
  have hset : bits (armWord.toNat / 65536) 15 15 = 2 ^ (15 + 1 - 15) - 1 ∧ bits actlRow.rw 15 15 = 2 ^ (15 + 1 - 15) - 1 := by decide
  have hone : bits armWord.toNat 15 15 = 1 := by decide
  have hkept : bits (armWord.toNat / 65536) 12 8 = 0 ∧ bits (armWord.toNat / 65536) 7 0 = 0 := by decide
  unfold Block.armedWord
  exact ⟨(merge_set rfl ⟨R.ENC_ACTL a, 15, 15⟩ hset.1 hset.2).trans hone, merge_kept rfl ⟨R.ENC_ACTL a, 12, 8⟩ hkept.1,
    merge_kept rfl ⟨R.ENC_ACTL a, 7, 0⟩ hkept.2⟩

/-- An arming comes down to the comparison of the slot just armed. -/
theorem gives_armWrite {b c : Block} {a : Nat} (ha : a < 512) {src : Src} (hsrc : 64 ≤ a ∨ srcHost src = false) (hs : b.src a ≤ 16) (hold : b.arm a = false)
    (hc : Gives (alarmCheck a true) (b.armed a) () c) : Gives (opWrite src (R.ENC_ACTL a) armWord) b () c := by
  obtain ⟨harmed, hkept, -⟩ := armedWord_fields b a
  exact gives_slotWrite ha hsrc (by decide) (by decide) (gives_alarmControl_arm (hkept.trans_le hs) harmed hold hc)

section
variable {b : Block} (hb : b.regs.wf = true) {a : Nat} (ha : a < 512)
include hb ha

theorem armed_shows : (b.armed a).arm a = true ∧ (b.armed a).src a = b.src a ∧ (b.armed a).compareAt a = b.compareAt a ∧
    (b.src a ≤ 16 → (b.armed a).source (b.src a) = b.source (b.src a)) := by
  obtain ⟨harm, hsrc, -⟩ := armSlot_shows (b := b.mended (R.ENC_ACTL a)) hb ha (b.armedWord a)
  obtain ⟨harmed, hkept, -⟩ := armedWord_fields b a
  have hw := armSlot_within (b := b.mended (R.ENC_ACTL a)) hb a (b.armedWord a)
  have hcompare := actlBits_compareAt (x := a) hw
  refine ⟨harm.trans ?_, hsrc.trans hkept, hcompare, fun h => ?_⟩
  · rw [harmed]
    rfl
  · have hsource := actlBits_source hw h
    exact hsource

/-- A slot that its source has reached fires when it is armed. -/
theorem arming_fires {src : Src} (hsrc : 64 ≤ a ∨ srcHost src = false) (hs : b.src a ≤ 16) (hold : b.arm a = false)
    (hc : b.compareAt a ≤ b.source (b.src a)) : Ends (opWrite src (R.ENC_ACTL a) armWord) b fun _ c =>
      SlotFired a (b.u.elapsed / 10 + 1) c ∧ (F.ENC_ASTAT_LATE a).of (c.regs.get (R.ENC_ASTAT a)) = 1 := by
  obtain ⟨harm, hkept, hcompare, hsource⟩ := armed_shows hb ha
  have hwf : (b.armed a).regs.wf = true := wf_set _ _ _ hb
  obtain ⟨hfired, hlate, -⟩ := fire_shows hwf ha true false
  refine ends_of_gives (gives_armWrite ha hsrc hs hold (gives_alarmCheck_fires true harm ?_)) ⟨hfired, hlate⟩
  rw [hcompare, hkept, hsource hs]
  exact hc

/-- A slot that its source has not reached stays armed. -/
theorem arming_waits {src : Src} (hsrc : 64 ≤ a ∨ srcHost src = false) (hs : b.src a ≤ 16) (hold : b.arm a = false)
    (hc : b.source (b.src a) < b.compareAt a) : Gives (opWrite src (R.ENC_ACTL a) armWord) b () (b.armed a) := by
  obtain ⟨-, hkept, hcompare, hsource⟩ := armed_shows hb ha
  refine gives_armWrite ha hsrc hs hold (gives_alarmCheck_waits true fun ⟨_, h⟩ => ?_)
  rw [hcompare, hkept, hsource hs] at h
  omega

end

theorem armed_get_ne (b : Block) {a c : Nat} (h : c ≠ R.ENC_ACTL a) : (b.armed a).regs.get c = b.regs.get c :=
  get_set_ne b.regs (b.armedWord a) h

theorem mem_armed (b : Block) (a : Nat) :
    (a, b.u.elapsed, (F.ENC_ACTL_FB a).of (b.regs.get (R.ENC_ACTL a))) ∈ (b.armed a).u.enc.armed := by
  rw [← (armedWord_fields b a).2.2]
  exact mem_armedPut _ _

/-! ### The mains edge -/

/-- The row of ENC_MCTL. -/
def mctlRow : RegRow := ⟨"ENC_MCTL", 0x10040C, [], 0x0, 0x80FF, 0x0, 0x0, 0x7F00, [], true, [(1, 0x14)], 0x0, 0x0⟩

theorem rowOf_mctl : rowOf R.ENC_MCTL = some (mctlRow, 0) := by rfl

/-- The block with the word `new` in ENC_MCTL, where a change of EDGE restarts the measurement of the period. -/
def Block.mainsSelect (b : Block) (new : Word) : Block :=
  let b1 := (b.mended R.ENC_MCTL).setReg R.ENC_MCTL new
  if (F.ENC_MCTL_EDGE.of (b.regs.get R.ENC_MCTL) != 0) != (F.ENC_MCTL_EDGE.of new != 0) then
    b1.withU { b1.u with enc := { b1.u.enc with mainsRestart := true } } else b1

theorem mainsSelect_regs (b : Block) (new : Word) : (b.mainsSelect new).regs = b.regs.set R.ENC_MCTL new := by
  unfold Block.mainsSelect
  split <;> rfl

theorem eq_of_bit {f g : RF} (hf : f.hi = f.lo) (hg : g.hi = g.lo) {v w : Word} (h : (f.of v != 0) = (g.of w != 0)) : f.of v = g.of w := by
  have hv : f.of v < 2 := by rw [RF.of, bits, hf, Nat.add_sub_cancel_left]; exact Nat.mod_lt _ (by decide)
  have hw : g.of w < 2 := by rw [RF.of, bits, hg, Nat.add_sub_cancel_left]; exact Nat.mod_lt _ (by decide)
  by_cases hz : f.of v = 0
  · have : g.of w = 0 := by simpa [hz] using h
    omega
  · have : g.of w ≠ 0 := bne_iff_ne.1 (h ▸ bne_iff_ne.2 hz)
    omega

theorem mainsSelect_shows {b : Block} (hb : b.regs.wf = true) (new : Word) :
    F.ENC_MCTL_EDGE.of ((b.mainsSelect new).regs.get R.ENC_MCTL) = F.ENC_MCTL_EDGE.of new ∧
    F.ENC_MCTL_FILT.of ((b.mainsSelect new).regs.get R.ENC_MCTL) = F.ENC_MCTL_FILT.of new ∧
    (F.ENC_MCTL_EDGE.of (b.regs.get R.ENC_MCTL) ≠ F.ENC_MCTL_EDGE.of new → (b.mainsSelect new).u.enc.mainsRestart = true) ∧
    ∀ c, c ≠ R.ENC_MCTL → (b.mainsSelect new).regs.get c = b.regs.get c := by
  have hheld : F.ENC_MCTL_EDGE.Held ∧ F.ENC_MCTL_FILT.Held := by decide
  rw [mainsSelect_regs]
  refine ⟨of_get_set hb hheld.1 new, of_get_set hb hheld.2 new, fun h => ?_, fun c hc => get_set_ne b.regs new hc⟩
  unfold Block.mainsSelect
  rw [if_pos (bne_iff_ne.2 fun e => h (eq_of_bit rfl rfl e))]
  rfl

/-- A masked write that selects EDGE alone. -/
theorem gives_mainsSelect {src : Src} {w : Word} {b : Block} (hm : w.toNat / 65536 = 0x8000) :
    Gives (opWrite src R.ENC_MCTL w) b () (b.mainsSelect (mergeWord mctlRow (b.regs.get R.ENC_MCTL) w)) := by
  refine gives_encWrite rowOf_mctl rfl (by decide) rfl (by decide) (by omega) ?_ (gives_bind (gives_bf _ _) (gives_bind (gives_wr _ _ _) ?_))
  · rw [Nat.and_assoc, hm]
    exact Nat.and_zero _
  · unfold Block.mainsSelect
    split
    next h => exact gives_onlyIf_true h (gives_modEnc _ _)
    next h => exact gives_onlyIf_false (Bool.eq_false_iff.2 h)

/-! ### Snapshots -/

/-- The row of ENC_SNAPCTL. -/
def snapctlRow : RegRow := ⟨"ENC_SNAPCTL", 0x100430, [], 0x0, 0x0, 0x0, 0x1, 0xFFFE, [], true, [(1, 0x0)], 0x0, 0x0⟩

/-- The write that takes a snapshot. -/
abbrev snapWord : Word := 0x00010001

theorem gives_snapWrite {src : Src} {b c : Block} (h : Gives encSnapshot (b.mended R.ENC_SNAPCTL) () c) :
    Gives (opWrite src R.ENC_SNAPCTL snapWord) b () c := by
  refine gives_encWrite (r := snapctlRow) rfl rfl (by decide) rfl (by decide) (by decide) ?_ ?_
  · rw [Nat.and_assoc]
    exact Nat.and_zero _
  · exact gives_onlyIf_true (c := (BitVec.ofNat 32 (snapWord.toNat &&& snapWord.toNat / 65536 &&& 1)).toNat.testBit 0) (by decide) h

/-- The registers that show the lanes of a snapshot. -/
abbrev laneSnapBits (a _j : Nat) : Prop := 0x100440 ≤ a ∧ a < 0x100540

/-- The registers that show a snapshot. -/
abbrev snapBits (a _j : Nat) : Prop := 0x100434 ≤ a ∧ a < 0x100548

/-- Lane `n` in block `c` shows the counters that block `b` holds. -/
def LaneSnapped (b c : Block) (n : Nat) : Prop :=
  c.s48 (R.ENC_SNAPL n) (R.ENC_SNAPH n) = b.s48 (R.ENC_POSL n) (R.ENC_POSH n) ∧
    c.s48 (R.ENC_SNAPLDL n) (R.ENC_SNAPLDH n) = b.s48 (R.ENC_LEADL n) (R.ENC_LEADH n)

/-- The lanes of `p` are latched. -/
def Snapped (b : Block) (p : Nat → Prop) (c : Block) : Prop := Within laneSnapBits id b c ∧ ∀ n < 16, p n → LaneSnapped b c n

theorem n64_put64_ne (b : Block) {lo hi l h : Nat} (v : Nat) (h1 : l ≠ lo) (h2 : l ≠ hi) (h3 : h ≠ lo) (h4 : h ≠ hi) :
    (b.put64 lo hi v).n64 l h = b.n64 l h := by
  rw [Block.n64, Block.n64, put64_get_ne b v h1 h2, put64_get_ne b v h3 h4]

theorem s48_put64_ne (b : Block) {lo hi l h : Nat} (v : Nat) (h1 : l ≠ lo) (h2 : l ≠ hi) (h3 : h ≠ lo) (h4 : h ≠ hi) :
    (b.put64 lo hi v).s48 l h = b.s48 l h := congrArg (toSigned 48) (n64_put64_ne b v h1 h2 h3 h4)

theorem n64_setField_ne (b : Block) {f : RF} {l h : Nat} (v : Nat) (h1 : l ≠ f.reg) (h2 : h ≠ f.reg) : (b.setField f v).n64 l h = b.n64 l h := by
  rw [Block.n64, Block.n64, setField_get_ne b f v h1, setField_get_ne b f v h2]

theorem wrapSigned_s48 (b : Block) (lo hi : Nat) : wrapSigned 48 (b.s48 lo hi) = b.s48 lo hi :=
  wrapSigned_of_range (by decide) (toSigned_range (by decide) _).1 (toSigned_range (by decide) _).2

/-- The block with lane `x`'s counters latched. -/
def Block.snapLane (c : Block) (x : Nat) : Block :=
  (c.put64 (R.ENC_SNAPL x) (R.ENC_SNAPH x) (ofSigned 48 (c.s48 (R.ENC_POSL x) (R.ENC_POSH x)))).put64 (R.ENC_SNAPLDL x) (R.ENC_SNAPLDH x)
    (ofSigned 48 (c.s48 (R.ENC_LEADL x) (R.ENC_LEADH x)))

theorem gives_snapLane (x : Nat) (c : Block) : Gives (snapLane x) c () (c.snapLane x) :=
  gives_bind (gives_posOf x c) (gives_bind (gives_leadOf x c) (gives_bind (gives_wr48 _ _ _ c) (gives_wr48 _ _ _ _)))

theorem snapLane_within {c : Block} (hc : c.regs.wf = true) {x : Nat} (hx : x < 16) : Within laneSnapBits id c (c.snapLane x) := by
  refine (within_put64 hc _ ?_ ?_).trans (within_put64 (put64_wf hc _) _ ?_ ?_) <;>
  · intro j
    simp only [laneSnapBits, R.ENC_SNAPL, R.ENC_SNAPH, R.ENC_SNAPLDL, R.ENC_SNAPLDH]
    omega

theorem snapLane_same {c : Block} (hc : c.regs.wf = true) {x : Nat} (hx : x < 16) : LaneSnapped c (c.snapLane x) x := by
  obtain ⟨-, -, hpos, hlead⟩ := lane_counters x hx
  constructor
  · refine (s48_put64_ne _ _ ?_ ?_ ?_ ?_).trans ((put64_s48 hc hpos _).trans (wrapSigned_s48 c _ _)) <;>
    · simp only [R.ENC_SNAPL, R.ENC_SNAPH, R.ENC_SNAPLDL, R.ENC_SNAPLDH]
      omega
  · exact (put64_s48 (put64_wf hc _) hlead _).trans (wrapSigned_s48 c _ _)

theorem snapLane_other (c : Block) {x n : Nat} (h : n ≠ x) :
    (c.snapLane x).s48 (R.ENC_SNAPL n) (R.ENC_SNAPH n) = c.s48 (R.ENC_SNAPL n) (R.ENC_SNAPH n) ∧
    (c.snapLane x).s48 (R.ENC_SNAPLDL n) (R.ENC_SNAPLDH n) = c.s48 (R.ENC_SNAPLDL n) (R.ENC_SNAPLDH n) := by
  constructor <;>
  · refine (s48_put64_ne _ _ ?_ ?_ ?_ ?_).trans (s48_put64_ne _ _ ?_ ?_ ?_ ?_) <;>
    · simp only [R.ENC_SNAPL, R.ENC_SNAPH, R.ENC_SNAPLDL, R.ENC_SNAPLDH]
      omega

theorem laneSnapBits_pos {b c : Block} (h : Within laneSnapBits id b c) {n : Nat} (hn : n < 16) :
    c.s48 (R.ENC_POSL n) (R.ENC_POSH n) = b.s48 (R.ENC_POSL n) (R.ENC_POSH n) ∧
    c.s48 (R.ENC_LEADL n) (R.ENC_LEADH n) = b.s48 (R.ENC_LEADL n) (R.ENC_LEADH n) := by
  constructor <;>
  · refine h.s48 ?_ ?_ <;>
    · intro j
      simp only [laneSnapBits, R.ENC_POSL, R.ENC_POSH, R.ENC_LEADL, R.ENC_LEADH]
      omega

theorem snapped_snapLane {b c : Block} {p : Nat → Prop} (h : Snapped b p c) {x : Nat} (hx : x < 16) :
    Snapped b (fun n => n = x ∨ p n) (c.snapLane x) := by
  obtain ⟨hw, hdone⟩ := h
  refine ⟨hw.trans (snapLane_within hw.wf hx), fun n hn hp => ?_⟩
  by_cases e : n = x
  · obtain ⟨hpos, hlead⟩ := snapLane_same hw.wf hn
    obtain ⟨hp0, hl0⟩ := laneSnapBits_pos hw hn
    rw [← e]
    exact ⟨hpos.trans hp0, hlead.trans hl0⟩
  · obtain ⟨hpos, hlead⟩ := snapLane_other c e
    obtain ⟨hp0, hl0⟩ := hdone n hn (hp.resolve_left e)
    exact ⟨hpos.trans hp0, hlead.trans hl0⟩

theorem ends_snapLanes {b : Block} {l : List Nat} (hl : ∀ x ∈ l, x < 16) {p : Nat → Prop} {c : Block} (h : Snapped b p c) :
    Ends (each snapLane l) c fun _ d => Snapped b (fun n => n ∈ l ∨ p n) d := by
  induction l generalizing p c with
  | nil => exact ends_of_gives (gives_each_nil _ c) ⟨h.1, fun n hn hp => h.2 n hn (hp.resolve_left (by simp))⟩
  | cons x l ih =>
    refine ends_then (gives_snapLane x c) (ends_mono (ih (fun y hy => hl y (by simp [hy])) (snapped_snapLane h (hl x (by simp)))) ?_)
    intro _ d ⟨hw, hd⟩
    refine ⟨hw, fun n hn hp => hd n hn ?_⟩
    rcases hp with hp | hp
    · exact (List.mem_cons.1 hp).elim (fun e => .inr (.inl e)) .inl
    · exact .inr (.inr hp)

/-- What block `c` shows of a snapshot taken in block `b`. -/
structure SnapTaken (b c : Block) : Prop where
  within : Within snapBits id b c
  lanes : ∀ n < 16, LaneSnapped b c n
  mains : c.n64 R.ENC_SNAPML R.ENC_SNAPMH = b.n64 R.ENC_MCNTL R.ENC_MCNTH
  wall : c.n64 R.ENC_SNAPWTL R.ENC_SNAPWTH = b.u.wall % 2 ^ 64
  seq : F.ENC_SNAPSEQ_SEQ.of (c.regs.get R.ENC_SNAPSEQ) = (F.ENC_SNAPSEQ_SEQ.of (b.regs.get R.ENC_SNAPSEQ) + 1) % 2 ^ 32

theorem held_snapseq : F.ENC_SNAPSEQ_SEQ.Held := by decide

/-- The registers of a snapshot that are not a lane's. -/
abbrev snapTail (a _j : Nat) : Prop := a ∈ [R.ENC_SNAPML, R.ENC_SNAPMH, R.ENC_SNAPWTL, R.ENC_SNAPWTH, R.ENC_SNAPSEQ]

/-- The block with a snapshot's mains count and wall time latched and its sequence number advanced. -/
def Block.snapRest (c : Block) (m w : Nat) : Block :=
  let d := (c.put64 R.ENC_SNAPML R.ENC_SNAPMH m).put64 R.ENC_SNAPWTL R.ENC_SNAPWTH w
  d.setField F.ENC_SNAPSEQ_SEQ (F.ENC_SNAPSEQ_SEQ.of (d.regs.get R.ENC_SNAPSEQ) + 1)

section
variable {c : Block} (hc : c.regs.wf = true) (m w : Nat)
include hc

theorem snapRest_within : Within snapTail id c (c.snapRest m w) := by
  have h1 := within_put64 (T := snapTail) (keep := id) hc (lo := R.ENC_SNAPML) (hi := R.ENC_SNAPMH) m (by simp) (by simp)
  have h2 := h1.trans (within_put64 h1.wf (lo := R.ENC_SNAPWTL) (hi := R.ENC_SNAPWTH) w (by simp) (by simp))
  exact h2.trans (within_setField h2.wf (f := F.ENC_SNAPSEQ_SEQ) (by decide) (by decide) _ (fun _ _ _ => by simp [F.ENC_SNAPSEQ_SEQ]))

theorem snapRest_shows : (c.snapRest m w).n64 R.ENC_SNAPML R.ENC_SNAPMH = m % 2 ^ 48 ∧ (c.snapRest m w).n64 R.ENC_SNAPWTL R.ENC_SNAPWTH = w % 2 ^ 64 ∧
    F.ENC_SNAPSEQ_SEQ.of ((c.snapRest m w).regs.get R.ENC_SNAPSEQ) = (F.ENC_SNAPSEQ_SEQ.of (c.regs.get R.ENC_SNAPSEQ) + 1) % 2 ^ 32 := by
  obtain ⟨-, hsnapm, hsnapwt⟩ := mains_counters
  have h1 := put64_wf hc (lo := R.ENC_SNAPML) (hi := R.ENC_SNAPMH) m
  have h2 := put64_wf h1 (lo := R.ENC_SNAPWTL) (hi := R.ENC_SNAPWTH) w
  refine ⟨?_, ?_, (setField_of_same h2 held_snapseq _).trans ?_⟩
  · exact (n64_setField_ne _ _ (by decide) (by decide)).trans ((n64_put64_ne _ _ (by decide) (by decide) (by decide) (by decide)).trans
      (put64_n48 hc hsnapm m))
  · exact (n64_setField_ne _ _ (by decide) (by decide)).trans (put64_n64 h1 hsnapwt w)
  · rw [put64_get_ne _ _ (by decide) (by decide), put64_get_ne _ _ (by decide) (by decide)]
    rfl

end

theorem snapTail_lane {c d : Block} (h : Within snapTail id c d) {n : Nat} (hn : n < 16) :
    d.s48 (R.ENC_SNAPL n) (R.ENC_SNAPH n) = c.s48 (R.ENC_SNAPL n) (R.ENC_SNAPH n) ∧
    d.s48 (R.ENC_SNAPLDL n) (R.ENC_SNAPLDH n) = c.s48 (R.ENC_SNAPLDL n) (R.ENC_SNAPLDH n) := by
  constructor <;>
  · refine h.s48 ?_ ?_ <;>
    · intro j
      simp only [snapTail, List.mem_cons, List.not_mem_nil, or_false, R.ENC_SNAPL, R.ENC_SNAPH, R.ENC_SNAPLDL, R.ENC_SNAPLDH, R.ENC_SNAPML,
        R.ENC_SNAPMH, R.ENC_SNAPWTL, R.ENC_SNAPWTH, R.ENC_SNAPSEQ]
      omega

theorem snapTail_snapBits (a j : Nat) (h : snapTail a j) : snapBits a j := by
  have hall : ∀ a ∈ [R.ENC_SNAPML, R.ENC_SNAPMH, R.ENC_SNAPWTL, R.ENC_SNAPWTH, R.ENC_SNAPSEQ], snapBits a 0 := by decide
  exact hall a h

theorem laneSnapBits_snapBits (a j : Nat) (h : laneSnapBits a j) : snapBits a j := by
  obtain ⟨hlo, hhi⟩ := h
  exact ⟨by omega, by omega⟩

theorem snapshot_taken {b : Block} (hb : b.regs.wf = true) : Ends encSnapshot b fun _ c => SnapTaken b c := by
  obtain ⟨hmcnt, -, -⟩ := mains_counters
  refine ends_then (gives_mainsOf b) (ends_then (gives_wall b) (ends_bind (ends_snapLanes (p := fun _ => False) (c := b) (by simp)
    ⟨within_refl hb, fun _ _ h => h.elim⟩) fun _ c ⟨hw, hlanes⟩ => ?_))
  obtain ⟨hm, hwall, hseq⟩ := snapRest_shows hw.wf (b.n64 R.ENC_MCNTL R.ENC_MCNTH) b.u.wall
  have htail := snapRest_within hw.wf (b.n64 R.ENC_MCNTL R.ENC_MCNTH) b.u.wall
  refine ends_of_gives (b' := c.snapRest (b.n64 R.ENC_MCNTL R.ENC_MCNTH) b.u.wall)
    (gives_bind (gives_wr64 _ _ _ c) (gives_bind (gives_wr64 _ _ _ _) (gives_cntWrap _ _ _)))
    ⟨(hw.mono laneSnapBits_snapBits fun _ _ => id).trans (htail.mono snapTail_snapBits fun _ _ => id), fun n hn => ?_, hm.trans (Nat.mod_eq_of_lt (n64_lt hb hmcnt.2.2)), hwall, ?_⟩
  · obtain ⟨hpos, hlead⟩ := snapTail_lane htail hn
    obtain ⟨hp, hl⟩ := hlanes n hn (.inl (by simpa using hn))
    exact ⟨hpos.trans hp, hlead.trans hl⟩
  · rw [hseq, hw.reg (a := R.ENC_SNAPSEQ) fun _ => show ¬(0x100440 ≤ R.ENC_SNAPSEQ ∧ R.ENC_SNAPSEQ < 0x100540) by decide]

end Sys2Proof.Machine
end

section
/-!
PROOF. Proofs/AlarmsAndSnapshot.lean: the statement about position alarms and snapshots (R48, R53 to R59, R70).
-/
namespace Sys2Proof.Machine

section
variable {s : State} (hl : Live s) (hb : Canon s)
include hl hb

/-- Arming a slot that its source has reached (R56). -/
theorem alarmArm_fires (src : Src) {a : Nat} (hhost : 64 ≤ a) (ha : a < 512) (harm : s.fld (F.ENC_ACTL_ARM a) = 0) (hs : s.dev.src a ≤ 16)
    (hc : s.dev.compareAt a ≤ s.dev.source (s.dev.src a)) : Does (.alarmArm src a armWord) s fun t =>
      SlotFired a (s.dev.u.elapsed / 10 + 1) t.dev ∧ t.fld (F.ENC_ASTAT_LATE a) = 1 :=
  does_of_ends rfl hl (ends_onlyIf (fun _ => arming_fires hb ha (.inl hhost) hs (bne_eq_false_iff_eq.2 harm) hc)
    fun h => absurd ha (of_decide_eq_false h))

/-- Arming a slot that its source has not reached. -/
theorem alarmArm_waits (src : Src) {a : Nat} (hhost : 64 ≤ a) (ha : a < 512) (harm : s.fld (F.ENC_ACTL_ARM a) = 0) (hs : s.dev.src a ≤ 16)
    (hc : s.dev.source (s.dev.src a) < s.dev.compareAt a) : Does (.alarmArm src a armWord) s fun t => t.fld (F.ENC_ACTL_ARM a) = 1 ∧
      t.fld (F.ENC_ASTAT_FIRED a) = s.fld (F.ENC_ASTAT_FIRED a) ∧ (a, s.dev.u.elapsed, s.fld (F.ENC_ACTL_FB a)) ∈ t.dev.u.enc.armed ∧
      OnlyRegs [R.ENC_ACTL a] s t := by
  refine does_of_onLive rfl hl (gives_onlyIf_true (decide_eq_true ha) (arming_waits hb ha (.inl hhost) hs (bne_eq_false_iff_eq.2 harm) hc))
    ⟨?arm, ?flag, mem_armed s.dev a, fun c hc => armed_get_ne s.dev fun e => hc (by simp [e])⟩
  case arm => exact (of_get_set hb (held_arm ha) (s.dev.armedWord a)).trans (armedWord_fields s.dev a).1
  case flag =>
    refine congrArg (F.ENC_ASTAT_FIRED a).of (armed_get_ne s.dev ?_)
    simp only [F.ENC_ASTAT_FIRED, R.ENC_ASTAT, R.ENC_ACTL]
    omega

/-- A slot whose fallback has come fires (R59). -/
theorem alarmFallback_fires {a since fb : Nat} (ha : a < 512) (hfind : s.dev.u.enc.armed.find? (fun x => x.1 = a) = some (a, since, fb))
    (hfb : fb ≠ 0) (hdue : since + fb * 100000000 ≤ s.dev.u.elapsed) : Does (.alarmFallback a) s fun t =>
      SlotFired a (s.dev.u.elapsed / 10) t.dev ∧ t.fld (F.ENC_ASTAT_FB a) = 1 ∧ t.fld (F.ENC_ASTAT_LATE a) = s.fld (F.ENC_ASTAT_LATE a) := by
  obtain ⟨hfired, hlate, hfell⟩ := fire_shows (b := s.dev) hb ha false true
  refine does_of_onLive rfl hl (gives_bind (gives_units _) (gives_bind (gives_now _) ?_)) ⟨hfired, hfell, hlate⟩
  rw [hfind]
  exact gives_onlyIf_true (by simp [hfb, hdue]) (gives_alarmFire a false true s.dev)

end

/-- Fired slots of no lane are serviced without a cut (R55). -/
theorem alarmService_plain {s : State} (hl : Live s) (hnone : ∀ a ∈ s.dev.u.enc.fired, 16 ≤ a.1) (hcore : CoreUp s 5) :
    Does .alarmService s fun t => t.dev.u.enc.fired = [] ∧ OnlyRegs [] s t := by
  let done := s.dev.withU { s.dev.u with enc := { s.dev.u.enc with fired := [] } }
  have hcuts : Ends (each (fun (x : Nat × Nat) => onlyIf (decide (x.1 < 16)) (alarmCut x.1)) s.dev.u.enc.fired) done fun _ c => c = done :=
    ends_each (R := fun c => c = done) (fun x hx c hc =>
      ends_onlyIf (fun h => absurd (hnone x hx) (Nat.not_le.2 (of_decide_eq_true h))) fun _ => hc) rfl
  obtain ⟨_, c, hg, hc⟩ := hcuts
  rw [hc] at hg
  exact does_of_onLive rfl hl (gives_onCore_up hcore (gives_bind (gives_units _) (gives_bind (gives_modEnc _ _) hg)))
    ⟨rfl, fun _ _ => rfl⟩

/-- A snapshot taken through the fabric (R48). -/
theorem encSnap_latches {s : State} (hl : Live s) (hb : Canon s) (src : Src) :
    Does (.encSnap src snapWord) s fun t => SnapTaken s.dev t.dev := by
  obtain ⟨_, c, hg, hc⟩ := snapshot_taken (b := s.dev.mended R.ENC_SNAPCTL) hb
  refine does_of_onLive rfl hl (gives_snapWrite hg) ?_
  exact ⟨⟨hc.within.wf, hc.within.bit, hc.within.units⟩, hc.lanes, hc.mains, hc.wall, hc.seq⟩

/-- A write that selects EDGE alone (R70). -/
theorem mainsEdgeSelect_sets {s : State} (hl : Live s) (hb : Canon s) (src : Src) {w : Word} {e : Nat} (hm : w.toNat / 65536 = 0x8000)
    (he : F.ENC_MCTL_EDGE.of w = e) : Does (.mainsEdgeSelect src w) s fun t => t.fld F.ENC_MCTL_EDGE = e ∧
      t.fld F.ENC_MCTL_FILT = s.fld F.ENC_MCTL_FILT ∧ (s.fld F.ENC_MCTL_EDGE ≠ t.fld F.ENC_MCTL_EDGE → t.dev.u.enc.mainsRestart = true) ∧
      OnlyRegs [R.ENC_MCTL] s t := by
  have hsel : bits (w.toNat / 65536) 15 15 = 1 ∧ bits (w.toNat / 65536) 7 0 = 0 := by rw [hm]; decide
  have hedge : F.ENC_MCTL_EDGE.of (mergeWord mctlRow (s.dev.regs.get R.ENC_MCTL) w) = e :=
    (merge_set rfl F.ENC_MCTL_EDGE hsel.1 (by decide)).trans he
  obtain ⟨hset, hfilt, hrestart, hother⟩ := mainsSelect_shows (b := s.dev) hb (mergeWord mctlRow (s.dev.regs.get R.ENC_MCTL) w)
  refine does_of_onLive rfl hl (gives_mainsSelect hm) ⟨hset.trans hedge, hfilt.trans (merge_kept rfl F.ENC_MCTL_FILT hsel.2),
    fun h => hrestart fun e => h (e.trans hset.symm), fun c hc => hother c fun e => hc (by simp [e])⟩

/-- Settles O8: an arming compares its slot at once, and a firing shows itself in the slot's control, its status, ENC_AFIRED and the list of
slots to serve; a snapshot copies each counter to its own registers. -/
theorem alarmsAndSnapshot : Obligations.AlarmsAndSnapshot := by
  unfold Obligations.AlarmsAndSnapshot
  refine ⟨?late, ?waits, ?fallback, ?service, ?snap, ?edge, ?mainsLate, ?mainsWaits⟩
  case late =>
    intro s src a hl hb hhost ha harm hs hc
    have hsource : s.dev.source (s.dev.src a) = s.lead (s.fld (F.ENC_ACTL_SRC a)) := if_pos hs
    exact does_mono (alarmArm_fires hl hb src hhost ha harm (Nat.le_of_lt hs) (hsource ▸ hc)) fun t ⟨hf, hlate⟩ =>
      ⟨hf.arm, hf.flag, hlate, hf.listed, hf.waits⟩
  case waits =>
    intro s src a hl hb hhost ha harm hs hc
    have hsource : s.dev.source (s.dev.src a) = s.lead (s.fld (F.ENC_ACTL_SRC a)) := if_pos hs
    exact alarmArm_waits hl hb src hhost ha harm (Nat.le_of_lt hs) (hsource ▸ hc)
  case fallback =>
    intro s a since fb hl hb ha hfind hfb hdue
    exact does_mono (alarmFallback_fires hl hb ha hfind hfb hdue) fun t ⟨hf, hfell, hlate⟩ => ⟨hf.arm, hf.flag, hfell, hlate, hf.waits⟩
  case service => exact fun s hl hnone hcore => alarmService_plain hl hnone hcore
  case snap =>
    intro s src n hl hb hn
    exact does_mono (encSnap_latches hl hb src) fun t ht =>
      ⟨(ht.lanes n hn).1, (ht.lanes n hn).2, ht.mains, ht.wall, ht.seq, ht.within.units⟩
  case edge =>
    rintro s src w hl hb (rfl | rfl)
    · exact mainsEdgeSelect_sets hl hb src (by decide) (by decide)
    · exact mainsEdgeSelect_sets hl hb src (by decide) (by decide)
  case mainsLate =>
    intro s src a hl hb hhost ha harm hs hc
    have hsource : s.dev.source (s.dev.src a) = toSigned 48 s.mains := if_neg (by rw [show s.dev.src a = 16 from hs]; decide)
    exact does_mono (alarmArm_fires hl hb src hhost ha harm (Nat.le_of_eq hs) (hsource ▸ hc)) fun t ⟨hf, hlate⟩ =>
      ⟨hf.arm, hf.flag, hlate, hf.waits⟩
  case mainsWaits =>
    intro s src a hl hb hhost ha harm hs hc
    have hsource : s.dev.source (s.dev.src a) = toSigned 48 s.mains := if_neg (by rw [show s.dev.src a = 16 from hs]; decide)
    exact alarmArm_waits hl hb src hhost ha harm (Nat.le_of_eq hs) (hsource ▸ hc)

end Sys2Proof.Machine
end

section
/-!
PROOF. Proofs/MainsCounting.lean: the mains-cycle counter (R70 to R72) and the statement about it.
-/
namespace Sys2Proof.Machine

/-! ### What comes before a change of MSTAT or MPER -/

/-- The block with other data of the field front end. -/
def Block.withAff (b : Block) (v : AffS) : Block := b.withU { b.u with aff := v }

/-- Nothing but the field front end's data differs from block `b`. -/
def AffOnly (b c : Block) : Prop := ∃ v, c = b.withAff v

section
variable {S : Prop} {b : Block}

theorem keeps_modAff (f : AffS → AffS) : Keeps S (AffOnly b) (modAff f) :=
  keeps_modU fun c ⟨v, hc⟩ => ⟨f v, by rw [hc]; rfl⟩

theorem keeps_affS : Keeps S (AffOnly b) affS := keeps_bind keeps_units fun _ => keeps_pure _

theorem keeps_getConv (k : Nat) : Keeps S (AffOnly b) (getConv k) := keeps_bind keeps_affS fun _ => keeps_pure _

theorem keeps_fieldWindows (j : FieldJob) (l : FieldLatch) : Keeps S (AffOnly b) (fieldWindows j l) :=
  keeps_bind keeps_now fun _ => keeps_bind (keeps_bind (keeps_rd _) fun _ => keeps_pure _) fun _ => keeps_bind (keeps_bf _) fun _ => keeps_pure _

theorem keeps_fieldLatch (i : Nat) : Keeps S (AffOnly b) (fieldLatch i) := by
  unfold fieldLatch
  refine keeps_bind keeps_affS fun _ => ?_
  refine keeps_bind (keeps_gf _) fun _ => keeps_bind (keeps_bf _) fun _ => keeps_bind (keeps_gf _) fun _ => keeps_bind (keeps_gf _) fun _ => ?_
  refine keeps_bind (keeps_bf _) fun _ => keeps_bind (keeps_gf _) fun _ => keeps_bind (keeps_gf _) fun _ => keeps_bind (keeps_gf _) fun _ => ?_
  exact keeps_bind (keeps_gf _) fun _ => keeps_bind (keeps_gf _) fun _ => keeps_bind (keeps_gf _) fun _ => keeps_bind (keeps_gf _) fun _ =>
    keeps_pure _

theorem keeps_fieldLatchOne (k : Nat) : Keeps S (AffOnly b) (fieldLatchOne k) := by
  refine keeps_bind keeps_now fun t => keeps_bind (keeps_getConv k) fun c => ?_
  split
  · exact keeps_pure ()
  next j _ =>
    refine keeps_ite (fun _ => keeps_pure ()) fun _ => keeps_bind (keeps_onlyIf fun _ => keeps_modAff _) fun _ => ?_
    split
    · exact keeps_bind (keeps_pure _) fun l => keeps_bind (keeps_fieldWindows _ l) fun _ => keeps_modAff _
    · exact keeps_bind (keeps_fieldLatch _) fun l => keeps_bind (keeps_fieldWindows _ l) fun _ => keeps_modAff _

end

/-- Measurements of the field front end that take their settings now change nothing outside it. -/
theorem ends_fieldLatchDue (b : Block) : Ends fieldLatchDue b fun _ c => AffOnly b c :=
  ends_of_keeps (keeps_each fun k _ => keeps_fieldLatchOne k) ⟨b.u.aff, rfl⟩

/-! ### The counter takes a value -/

/-- The registers of the mains-cycle counter. -/
abbrev mcntBits (a _j : Nat) : Prop := a = R.ENC_MCNTL ∨ a = R.ENC_MCNTH

/-- What a new value of the counter may change: the counter and what firings change. -/
abbrev putBits (a j : Nat) : Prop := mcntBits a j ∨ alarmBits a j

/-- The mains-cycle counter of a block. -/
def Block.mains (b : Block) : Nat := b.n64 R.ENC_MCNTL R.ENC_MCNTH

section
variable {b : Block} (hb : b.regs.wf = true)
include hb

theorem put_mains (m : Nat) : (b.put64 R.ENC_MCNTL R.ENC_MCNTH m).mains = m % 2 ^ 48 := put64_n48 hb mains_counters.1 m

theorem put_within (m : Nat) : Within mcntBits alarmKeep b (b.put64 R.ENC_MCNTL R.ENC_MCNTH m) :=
  within_put64 hb m (fun _ => .inl rfl) fun _ => .inr rfl

theorem ends_mainsPut (m : Nat) : Ends (mainsPut m) b fun _ c => c.mains = m % 2 ^ 48 ∧ Within putBits alarmKeep b c := by
  have hput := put_within hb (m % 2 ^ 48)
  refine ends_then (gives_wr64 _ _ _ b) (ends_mono (ends_alarmChecks hput.wf 16) fun _ c hc => ⟨?_, ?_⟩)
  · refine (hc.n64 (lo := R.ENC_MCNTL) (hi := R.ENC_MCNTH) ?_ ?_).trans ((put_mains hb _).trans (Nat.mod_mod _ _)) <;>
    · intro j
      simp only [alarmBits, R.ENC_MCNTL, R.ENC_MCNTH]
      omega
  · exact (hput.mono (fun _ _ => .inl) fun _ _ => id).trans (hc.mono (fun _ _ => .inr) fun _ _ => id)

/-- An armed slot of SRC 16 that the new value reaches fires. -/
theorem ends_mainsPut_fires {m a : Nat} (hm : m < 2 ^ 47) (ha : a < 512) (harm : b.arm a = true) (hsrc : b.src a = 16)
    (hc : b.compareAt a ≤ m) (hl : ∃ x ∈ b.u.enc.armed, x.1 = a) : Ends (mainsPut m) b fun _ c => SlotFired a (b.u.elapsed / 10) c := by
  have hput := put_within hb (m % 2 ^ 48)
  obtain ⟨hsame, hsrcSame, hcmp⟩ := slot_same (b := b) (c := b.put64 R.ENC_MCNTL R.ENC_MCNTH (m % 2 ^ 48)) (fun x hx =>
    put64_get_ne b _ (by simp only [R.ENC_MCNTL]; omega) (by simp only [R.ENC_MCNTH]; omega)) a
  have hsource : (b.put64 R.ENC_MCNTL R.ENC_MCNTH (m % 2 ^ 48)).source 16 = (m : Int) := by
    rw [Block.source, if_neg (by decide), show Block.n64 _ _ _ = _ from put_mains hb (m % 2 ^ 48), Nat.mod_mod, Nat.mod_eq_of_lt (by omega),
      toSigned_of_lt hm (by decide)]
  exact ends_then (gives_wr64 _ _ _ b) (ends_mono (ends_alarmChecks_fires hput.wf (le_refl 16) ha (hsame.trans harm) (hsrcSame.trans hsrc)
    (by rw [hcmp, hsource]; exact hc) hl) fun _ c hc => hc.2)

end

/-! ### An edge of MAINS_SYNC -/

theorem held_mains : F.ENC_MSTAT_FREERUN.Held ∧ F.ENC_MSTAT_MLOST.Held ∧ F.ENC_MPER_MPER.Held ∧ regImpl R.ENC_MPER = 0xFFFFFFFF#32 := by decide

/-- The registers that an edge changes beside the counter. -/
abbrev edgeBits (a _j : Nat) : Prop := a = R.ENC_MPER ∨ a = R.ENC_MSTAT

theorem ends_mainsPeriod {b : Block} (hb : b.regs.wf = true) (ns : Nat) : Ends (mainsPeriod ns) b fun _ c =>
    Within edgeBits id b c ∧ F.ENC_MPER_MPER.of (c.regs.get R.ENC_MPER) = min (ns / 10) 0xFFFFFFFF := by
  have hw := within_setReg (T := edgeBits) (keep := id) hb (a := R.ENC_MPER) (BitVec.ofNat 32 (min (ns / 10) 0xFFFFFFFF)) fun _ => .inl rfl
  have hset : F.ENC_MPER_MPER.of ((b.setReg R.ENC_MPER (BitVec.ofNat 32 (min (ns / 10) 0xFFFFFFFF))).regs.get R.ENC_MPER) = min (ns / 10) 0xFFFFFFFF := by
    refine (of_get_set hb held_mains.2.2.1 _).trans ?_
    show ((BitVec.ofNat 32 (min (ns / 10) 0xFFFFFFFF)).toNat >>> 0) % 2 ^ 32 = _
    rw [Nat.shiftRight_zero, BitVec.toNat_ofNat, Nat.mod_mod, Nat.mod_eq_of_lt (by omega)]
  refine ends_then (gives_wr _ _ b) (ends_onlyIf (fun _ => ends_of_gives (gives_sb _ _ _) ⟨hw.trans ?_, ?_⟩) fun _ => ⟨hw, hset⟩)
  · exact within_setField hw.wf (by decide) (by decide) _ fun _ _ _ => .inr rfl
  · exact (congrArg F.ENC_MPER_MPER.of (setField_get_ne _ F.ENC_MSTAT_RANGE 1 (by decide))).trans hset

/-- What block `d` shows of an edge that is counted from block `b` on, before the counter changes. -/
structure EdgeTaken (b d : Block) : Prop where
  within : Within edgeBits Units.elapsed b d
  freerun : F.ENC_MSTAT_FREERUN.of (d.regs.get R.ENC_MSTAT) = 0
  enc : d.u.enc = { b.u.enc with mainsLast := b.u.elapsed, mainsAny := true, mainsRealPrev := true, mainsRestart := false }
  period : F.ENC_MPER_MPER.of (d.regs.get R.ENC_MPER) =
    if F.ENC_MSTAT_FREERUN.of (b.regs.get R.ENC_MSTAT) = 0 ∧ b.u.enc.mainsRestart = false ∧ b.u.enc.mainsRealPrev = true then
      min ((b.u.elapsed - b.u.enc.mainsLast) / 10) 0xFFFFFFFF else F.ENC_MPER_MPER.of (b.regs.get R.ENC_MPER)

/-- Whether an edge takes the place of the last increment of the free run (R72). -/
def Block.edgeReplaces (b : Block) : Bool :=
  (F.ENC_MSTAT_FREERUN.of (b.regs.get R.ENC_MSTAT) != 0) &&
    decide (b.u.elapsed < b.u.enc.freeLast + F.ENC_MPER_MPER.of (b.regs.get R.ENC_MPER) * 5)

/-- The period is measured where the edge before was real and counted. -/
theorem ends_edgePeriod {b : Block} (hb : b.regs.wf = true) : Ends (onlyIf (!(F.ENC_MSTAT_FREERUN.of (b.regs.get R.ENC_MSTAT) != 0) &&
    !b.u.enc.mainsRestart && b.u.enc.mainsRealPrev) (mainsPeriod (b.u.elapsed - b.u.enc.mainsLast))) b fun _ c => Within edgeBits id b c ∧
      F.ENC_MPER_MPER.of (c.regs.get R.ENC_MPER) = if F.ENC_MSTAT_FREERUN.of (b.regs.get R.ENC_MSTAT) = 0 ∧ b.u.enc.mainsRestart = false ∧
        b.u.enc.mainsRealPrev = true then min ((b.u.elapsed - b.u.enc.mainsLast) / 10) 0xFFFFFFFF else F.ENC_MPER_MPER.of (b.regs.get R.ENC_MPER) := by
  refine ends_onlyIf (fun h => ends_mono (ends_mainsPeriod hb _) fun _ c ⟨hw, hset⟩ => ⟨hw, ?_⟩) fun h => ⟨within_refl hb, ?_⟩
  · rw [hset, if_pos (by simpa [and_assoc] using h)]
  · rw [if_neg fun hall => by simp [hall] at h]

theorem ends_edgeTaken {b : Block} (hb : b.regs.wf = true) {n : Op Unit} {Q : Unit → Block → Prop} (hn : ∀ d, EdgeTaken b d → Ends n d Q) :
    Ends (do
      onlyIf (!(F.ENC_MSTAT_FREERUN.of (b.regs.get R.ENC_MSTAT) != 0) && !b.u.enc.mainsRestart && b.u.enc.mainsRealPrev)
        (mainsPeriod (b.u.elapsed - b.u.enc.mainsLast))
      sb F.ENC_MSTAT_FREERUN false
      modEnc fun e => { e with mainsLast := b.u.elapsed, mainsAny := true, mainsRealPrev := true, mainsRestart := false }
      n) b Q := by
  refine ends_bind (ends_edgePeriod hb) fun _ c ⟨hw, hper⟩ => ends_then (gives_sb _ _ _) (ends_then (gives_modEnc _ _) (hn _ ⟨?_, ?_, ?_, ?_⟩))
  · have hset := hw.trans (within_setField hw.wf (f := F.ENC_MSTAT_FREERUN) (by decide) (by decide) 0 fun _ _ _ => .inr rfl)
    exact ⟨hset.wf, hset.bit, show c.u.elapsed = b.u.elapsed by rw [show c.u = b.u from hw.units]⟩
  · exact setField_of_same hw.wf held_mains.1 0
  · rw [show b.u = c.u from hw.units.symm]
    rfl
  · exact (congrArg F.ENC_MPER_MPER.of (setField_get_ne _ F.ENC_MSTAT_FREERUN 0 (by decide))).trans hper

/-- An edge that is far enough from the last counted one is taken, and then counts, or takes the place of the last increment. -/
theorem ends_mainsEdge {b : Block} (hb : b.regs.wf = true) {falling : Bool} {m : Nat} {Q : Unit → Block → Prop}
    (hpol : falling = (F.ENC_MCTL_EDGE.of (b.regs.get R.ENC_MCTL) != 0)) (hdue : b.u.enc.mainsLast + 13850000 ≤ b.u.elapsed)
    (hfilt : F.ENC_MCTL_FILT.of (b.regs.get R.ENC_MCTL) * 10000 ≤ m)
    (hput : ∀ d, EdgeTaken b d → Ends (onlyIf (!b.edgeReplaces) (mainsPut (b.mains + 1))) d Q) : Ends (opMainsEdge falling m) b Q := by
  refine ends_bind (ends_fieldLatchDue b) fun _ c ⟨v, hc⟩ => ?_
  subst hc
  refine ends_then (gives_gf _ _) (ends_then (gives_bf _ _) (ends_then (gives_bf _ _) (ends_then (gives_gf _ _) (ends_then (gives_mainsOf _)
    (ends_then (gives_units _) (ends_then (gives_now _) ?_))))))
  refine ends_ite_neg (fun h => h.elim (fun h => h hpol) (Nat.not_lt.2 hfilt)) (ends_ite_neg (fun h => Nat.not_lt.2 hdue h.2.2) ?_)
  refine ends_edgeTaken (b := b.withAff v) hb fun d hd => hput d ⟨⟨hd.within.wf, hd.within.bit, hd.within.units⟩, hd.freerun, hd.enc, hd.period⟩

/-! ### The commands -/

/-- A one-bit field that reads 1, and one that reads 0. -/
theorem bit_set {v : Nat} (h : v = 1) : (v != 0) = true := by rw [h]; rfl

theorem bit_clear {v : Nat} (h : v = 0) : (v != 0) = false := by rw [h]; rfl

theorem edgeTaken_mains {b d : Block} (h : EdgeTaken b d) : d.mains = b.mains :=
  h.within.n64 (fun _ => by simp [edgeBits, R.ENC_MCNTL, R.ENC_MPER, R.ENC_MSTAT]) fun _ => by
    simp [edgeBits, R.ENC_MCNTH, R.ENC_MPER, R.ENC_MSTAT]

/-- What an edge and the counter's new value leave of the two status fields. -/
theorem putBits_status {b c : Block} (h : Within putBits alarmKeep b c) :
    F.ENC_MSTAT_FREERUN.of (c.regs.get R.ENC_MSTAT) = F.ENC_MSTAT_FREERUN.of (b.regs.get R.ENC_MSTAT) ∧
    F.ENC_MSTAT_MLOST.of (c.regs.get R.ENC_MSTAT) = F.ENC_MSTAT_MLOST.of (b.regs.get R.ENC_MSTAT) ∧
    F.ENC_MPER_MPER.of (c.regs.get R.ENC_MPER) = F.ENC_MPER_MPER.of (b.regs.get R.ENC_MPER) ∧
    c.u.enc.mainsLast = b.u.enc.mainsLast ∧ c.u.enc.freeNext = b.u.enc.freeNext := by
  have hm : c.regs.get R.ENC_MSTAT = b.regs.get R.ENC_MSTAT := h.reg fun j => by simp only [putBits, mcntBits, alarmBits, R.ENC_MSTAT, R.ENC_MCNTL, R.ENC_MCNTH]; omega
  have hp : c.regs.get R.ENC_MPER = b.regs.get R.ENC_MPER := h.reg fun j => by simp only [putBits, mcntBits, alarmBits, R.ENC_MPER, R.ENC_MCNTL, R.ENC_MCNTH]; omega
  have henc : (alarmKeep c.u).enc = (alarmKeep b.u).enc := congrArg Units.enc h.units
  have hlast : (alarmKeep c.u).enc.mainsLast = (alarmKeep b.u).enc.mainsLast := congrArg EncS.mainsLast henc
  have hnext : (alarmKeep c.u).enc.freeNext = (alarmKeep b.u).enc.freeNext := congrArg EncS.freeNext henc
  rw [hm, hp]
  exact ⟨rfl, rfl, rfl, hlast, hnext⟩

/-- The block at the loss of the edges, before the counter changes. -/
def Block.mainsLoss (b : Block) (per : Nat) : Block :=
  let d := (b.setField F.ENC_MSTAT_MLOST 1).setField F.ENC_MSTAT_FREERUN 1
  d.withU { d.u with enc := { d.u.enc with freeLast := d.u.elapsed, freeNext := d.u.enc.mainsLast + per * 20, mainsRealPrev := false } }

theorem mainsLoss_status {b : Block} (hb : b.regs.wf = true) (per : Nat) :
    F.ENC_MSTAT_MLOST.of ((b.mainsLoss per).regs.get R.ENC_MSTAT) = 1 ∧ F.ENC_MSTAT_FREERUN.of ((b.mainsLoss per).regs.get R.ENC_MSTAT) = 1 ∧
    F.ENC_MPER_MPER.of ((b.mainsLoss per).regs.get R.ENC_MPER) = F.ENC_MPER_MPER.of (b.regs.get R.ENC_MPER) ∧
    (b.mainsLoss per).regs.wf = true := by
  have h1 := setField_wf hb F.ENC_MSTAT_MLOST 1
  refine ⟨?_, setField_of_same h1 held_mains.1 1, ?_, setField_wf h1 F.ENC_MSTAT_FREERUN 1⟩
  · exact (setField_of_apart h1 held_mains.1 (g := F.ENC_MSTAT_MLOST) rfl (by decide) 1).trans (setField_of_same hb held_mains.2.1 1)
  · exact congrArg F.ENC_MPER_MPER.of ((setField_get_ne _ F.ENC_MSTAT_FREERUN 1 (by decide)).trans (setField_get_ne _ F.ENC_MSTAT_MLOST 1 (by decide)))

theorem edgeReplaces_of_idle {s : State} (h : s.fld F.ENC_MSTAT_FREERUN = 0) : s.dev.edgeReplaces = false :=
  Bool.and_eq_false_iff.2 (.inl (bit_clear h))

section
variable {s : State} (hl : Live s) (hb : Canon s)
include hl hb

section
variable {falling : Bool} {m : Nat} (hpol : falling = true ↔ s.fld F.ENC_MCTL_EDGE = 1) (hdue : s.dev.u.enc.mainsLast + 13850000 ≤ s.dev.u.elapsed)
  (hfilt : s.fld F.ENC_MCTL_FILT * 10000 ≤ m)
include hpol hdue hfilt

theorem does_mainsEdge {Q : State → Prop} (hput : ∀ d, EdgeTaken s.dev d → Ends (onlyIf (!s.dev.edgeReplaces) (mainsPut (s.dev.mains + 1))) d
    fun _ c => Q { s with dev := c }) : Does (.mainsEdge ⟨falling, m⟩) s Q := by
  have hbit : s.fld F.ENC_MCTL_EDGE < 2 := Nat.mod_lt _ (by decide)
  refine does_of_ends rfl hl (ends_mainsEdge hb ?_ hdue hfilt hput)
  refine Bool.eq_iff_iff.2 (hpol.trans ?_)
  rw [bne_iff_ne]
  show s.fld F.ENC_MCTL_EDGE = 1 ↔ s.fld F.ENC_MCTL_EDGE ≠ 0
  omega

/-- An edge that replaces no increment advances the counter. -/
theorem mainsEdge_counts (hreplaces : s.dev.edgeReplaces = false) : Does (.mainsEdge ⟨falling, m⟩) s fun t =>
    t.mains = (s.mains + 1) % 2 ^ 48 ∧ t.dev.u.enc.mainsLast = s.dev.u.elapsed ∧ t.fld F.ENC_MSTAT_FREERUN = 0 ∧
    t.fld F.ENC_MPER_MPER = if s.fld F.ENC_MSTAT_FREERUN = 0 ∧ s.dev.u.enc.mainsRestart = false ∧ s.dev.u.enc.mainsRealPrev = true then
      min ((s.dev.u.elapsed - s.dev.u.enc.mainsLast) / 10) 0xFFFFFFFF else s.fld F.ENC_MPER_MPER := by
  refine does_mainsEdge hl hb hpol hdue hfilt fun d hd => ?_
  rw [hreplaces]
  refine ends_mono (ends_mainsPut hd.within.wf _) fun _ c ⟨hm, hw⟩ => ?_
  obtain ⟨hfree, -, hper, hlast, -⟩ := putBits_status hw
  exact ⟨hm, hlast.trans (by rw [hd.enc]), hfree.trans hd.freerun, hper.trans hd.period⟩

/-- An edge within half a period of the free run's last increment takes its place. -/
theorem mainsEdge_replaces (hfree : s.fld F.ENC_MSTAT_FREERUN ≠ 0) (hreplaces : s.dev.edgeReplaces = true) :
    Does (.mainsEdge ⟨falling, m⟩) s fun t => t.mains = s.mains ∧ t.fld F.ENC_MSTAT_FREERUN = 0 ∧
      t.dev.u.enc.mainsLast = s.dev.u.elapsed ∧ t.fld F.ENC_MPER_MPER = s.fld F.ENC_MPER_MPER := by
  refine does_mainsEdge hl hb hpol hdue hfilt fun d hd => ?_
  rw [hreplaces]
  exact ends_of_gives (gives_pure () d) ⟨edgeTaken_mains hd, hd.freerun, by rw [hd.enc], hd.period.trans (if_neg fun h => hfree h.1)⟩

/-- An armed slot of SRC 16 fires on the counted edge that reaches its compare value. -/
theorem mainsEdge_fires (hreplaces : s.dev.edgeReplaces = false) {a : Nat} (ha : a < 512) (hl : ∃ x ∈ s.dev.u.enc.armed, x.1 = a)
    (harm : s.fld (F.ENC_ACTL_ARM a) = 1) (hsrc : s.fld (F.ENC_ACTL_SRC a) = 16) (hm : s.mains + 1 < 2 ^ 47) (hc : s.compareAt a = s.mains + 1) :
    Does (.mainsEdge ⟨falling, m⟩) s fun t => SlotFired a (s.dev.u.elapsed / 10) t.dev := by
  refine does_mainsEdge ‹_› hb hpol hdue hfilt fun d hd => ?_
  obtain ⟨hsame, hsrcSame, hcmp⟩ := slot_same (b := s.dev) (c := d) (fun x hx => hd.within.reg fun j => by
    simp only [edgeBits, R.ENC_MPER, R.ENC_MSTAT]; omega) a
  rw [hreplaces]
  have harmed : s.dev.arm a = true := bne_iff_ne.2 fun h => absurd (harm.symm.trans h) (by decide)
  have hfires := ends_mainsPut_fires hd.within.wf (m := s.dev.mains + 1) hm ha (hsame.trans harmed) (hsrcSame.trans hsrc)
    (by rw [hcmp]; exact hc.le) (by rw [hd.enc]; exact hl)
  rwa [show d.u.elapsed = s.dev.u.elapsed from hd.within.units] at hfires

end

/-- The free run advances the counter by one each period. -/
theorem freerun_counts (hfree : s.fld F.ENC_MSTAT_FREERUN = 1) (hdue : s.dev.u.enc.freeNext ≤ s.dev.u.elapsed) :
    Does .mainsFreerunTick s fun t => t.mains = (s.mains + 1) % 2 ^ 48 ∧ t.fld F.ENC_MSTAT_FREERUN = 1 ∧
      t.dev.u.enc.freeNext = s.dev.u.enc.freeNext + s.fld F.ENC_MPER_MPER * 10 := by
  refine does_of_ends (m := opMainsFreerunTick) rfl hl ?_
  refine ends_bind (ends_fieldLatchDue s.dev) fun _ c ⟨v, hc⟩ => ?_
  subst hc
  refine ends_then (gives_bf _ _) (ends_then (gives_gf _ _) (ends_then (gives_mainsOf _) (ends_then (gives_units _) (ends_then (gives_now _) ?_))))
  refine ends_onlyIf_true (Bool.and_eq_true_iff.2 ⟨bit_set hfree, decide_eq_true hdue⟩) (ends_then (gives_modEnc _ _) ?_)
  refine ends_mono (ends_mainsPut (by exact hb) _) fun _ c ⟨hm, hw⟩ => ?_
  obtain ⟨hstat, -, -, -, hnext⟩ := putBits_status hw
  exact ⟨hm, hstat.trans hfree, hnext⟩

/-- The loss of the edges starts the free run with its first increment. -/
theorem mainsLost_counts (hfree : s.fld F.ENC_MSTAT_FREERUN = 0)
    (hdue : s.dev.u.enc.mainsLast + s.fld F.ENC_MPER_MPER * 15 ≤ s.dev.u.elapsed) : Does .mainsLost s fun t =>
      t.mains = (s.mains + 1) % 2 ^ 48 ∧ t.fld F.ENC_MSTAT_MLOST = 1 ∧ t.fld F.ENC_MSTAT_FREERUN = 1 ∧
      t.fld F.ENC_MPER_MPER = s.fld F.ENC_MPER_MPER := by
  refine does_of_ends (m := opMainsLost) rfl hl (ends_bind (ends_fieldLatchDue s.dev) fun _ c ⟨v, hc⟩ => ?_)
  subst hc
  refine ends_then (gives_bf _ _) (ends_then (gives_gf _ _) (ends_then (gives_bf _ _) (ends_then (gives_gf _ _) (ends_then (gives_mainsOf _)
    (ends_then (gives_units _) (ends_then (gives_now _) ?_))))))
  refine ends_onlyIf_true (Bool.and_eq_true_iff.2 ⟨congrArg (!·) (bit_clear hfree), decide_eq_true hdue⟩) (ends_then (gives_sb _ _ _)
    (ends_then (gives_sb _ _ _) (ends_then (gives_modEnc _ _) ?_)))
  obtain ⟨hmlost, hfreerun, hper, hwf⟩ := mainsLoss_status (b := s.dev) hb (s.fld F.ENC_MPER_MPER)
  refine ends_bind (ends_mainsPut (by exact hwf) _) fun _ c ⟨hm, hw⟩ => ?_
  obtain ⟨hstat, hlost, hperiod, -, -⟩ := putBits_status hw
  refine ends_bind (ends_link (fun b => link_raise _ _) hw.wf) fun _ d hd => ?_
  have hmcnt : d.mains = c.mains := hd.n64 (fun _ => by simp only [linkBits]; decide) fun _ => by simp only [linkBits]; decide
  have hmstat : d.regs.get R.ENC_MSTAT = c.regs.get R.ENC_MSTAT := hd.reg fun _ => by simp only [linkBits]; decide
  have hmper : d.regs.get R.ENC_MPER = c.regs.get R.ENC_MPER := hd.reg fun _ => by simp only [linkBits]; decide
  have hshown : d.mains = (s.mains + 1) % 2 ^ 48 ∧ F.ENC_MSTAT_MLOST.of (d.regs.get R.ENC_MSTAT) = 1 ∧
      F.ENC_MSTAT_FREERUN.of (d.regs.get R.ENC_MSTAT) = 1 ∧ F.ENC_MPER_MPER.of (d.regs.get R.ENC_MPER) = s.fld F.ENC_MPER_MPER := by
    rw [hmstat, hmper]
    exact ⟨hmcnt.trans hm, hlost.trans hmlost, hstat.trans hfreerun, hperiod.trans hper⟩
  exact ends_onlyIf (fun _ => ends_of_gives (gives_modU _ d) hshown) fun _ => hshown

end

/-- Settles O9: an edge, the loss of the edges and the free run give the counter its values, and each new value is compared with the armed
slots of SRC 16. -/
theorem mainsCounting : Obligations.MainsCounting := by
  unfold Obligations.MainsCounting
  refine ⟨?edge, ?lost, ?freerun, ?replaces, ?returns, ?alarm⟩
  case edge =>
    intro s falling m hl hb hpol hfree hdue hfilt
    refine does_mono (mainsEdge_counts hl hb hpol hdue hfilt (edgeReplaces_of_idle hfree)) fun t ⟨hm, hlast, hrun, hper⟩ =>
      ⟨hm, hlast, hrun, fun hrestart hreal => hper.trans (if_pos ⟨hfree, hrestart, hreal⟩), fun h => hper.trans (if_neg fun ⟨_, hr, hp⟩ => ?_)⟩
    rcases h with h | h
    · exact absurd (hr.symm.trans h) (by decide)
    · exact absurd (hp.symm.trans h) (by decide)
  case lost => exact fun s hl hb hfree hdue => mainsLost_counts hl hb hfree hdue
  case freerun => exact fun s hl hb hfree hdue => freerun_counts hl hb hfree hdue
  case replaces =>
    intro s falling m hl hb hpol hfree hdue hfilt hsoon
    exact mainsEdge_replaces hl hb hpol hdue hfilt (by rw [hfree]; decide) (Bool.and_eq_true_iff.2 ⟨bit_set hfree, decide_eq_true hsoon⟩)
  case returns =>
    intro s falling m hl hb hpol hfree hdue hfilt hlate
    have hreplaces : s.dev.edgeReplaces = false := Bool.and_eq_false_iff.2 (.inr (decide_eq_false (Nat.not_lt.2 hlate)))
    refine does_mono (mainsEdge_counts hl hb hpol hdue hfilt hreplaces) fun t ⟨hm, hlast, hrun, hper⟩ =>
      ⟨hm, hrun, hlast, hper.trans (if_neg fun h => absurd (hfree.symm.trans h.1) (by decide))⟩
  case alarm =>
    intro s falling m a hl hb hpol hfree hdue hfilt ha hlist harm hsrc hm hc
    exact does_mono (mainsEdge_fires hl hb hpol hdue hfilt (edgeReplaces_of_idle hfree) ha hlist harm hsrc hm hc) fun t hf =>
      ⟨hf.arm, hf.flag, hf.waits⟩

end Sys2Proof.Machine
end

section
/-!
PROOF. Proofs/Lanes.lean: a lane's counters and status as it moves, loses its encoder and sees an index pulse (R40 to R46, R62 to R69).
-/
namespace Sys2Proof.Machine

/-- The position counter and the lead position of lane `n`. -/
def Block.pos (b : Block) (n : Nat) : Int := b.s48 (R.ENC_POSL n) (R.ENC_POSH n)
def Block.lead (b : Block) (n : Nat) : Int := b.s48 (R.ENC_LEADL n) (R.ENC_LEADH n)

/-- Flag `i` of lane `n`'s status. -/
abbrev laneFlag (n i : Nat) : RF := ⟨R.ENC_LSTAT n, i, i⟩

/-- What flag `i` of lane `n`'s status reads. -/
def Block.flag (b : Block) (n i : Nat) : Nat := (laneFlag n i).of (b.regs.get (R.ENC_LSTAT n))

/-- The unit data by which alarms are told: the time, the armed and the fired slots. -/
def alarmsShown (u : Units) : Nat × List (Nat × Nat × Nat) × List (Nat × Nat) := (u.elapsed, u.enc.armed, u.enc.fired)

theorem alarmsShown_link (u v : Units) (h : linkKeep u = linkKeep v) : alarmsShown u = alarmsShown v := by
  have hk : alarmsShown (linkKeep u) = alarmsShown (linkKeep v) := congrArg alarmsShown h
  exact hk

theorem held_flags : ∀ n < 16, ∀ i ∈ [3, 4, 12, 13, 14, 15], (laneFlag n i).Held := by decide

/-! ### Frames of a lane's operations -/

/-- What an event of lane `n` may change of the registers: flags `l` of its status, the windows of sending and the Ledger's status. -/
abbrev laneBits (n : Nat) (l : List Nat) (a j : Nat) : Prop := linkBits a j ∨ a = R.PCL_STAT ∨ (a = R.ENC_LSTAT n ∧ j ∈ l)

/-- A frame of lane `n`'s operations in which the alarms are kept. -/
abbrev LaneFrame (n : Nat) (l : List Nat) : Block → Block → Prop := Within (laneBits n l) alarmsShown

theorem laneBits_enc {n a j : Nat} {l : List Nat} (hw : window a = 16) (ha : a ≠ R.ENC_LSTAT n) : ¬laneBits n l a j := by
  rintro (h | h | h)
  · rw [linkBits, hw] at h
    exact absurd h (by decide)
  · rw [h] at hw
    exact absurd hw (by decide)
  · exact ha h.1

theorem laneBits_flag {n j : Nat} {l : List Nat} (hn : n < 16) (hj : j ∉ l) : ¬laneBits n l (R.ENC_LSTAT n) j := by
  have hw : window (R.ENC_LSTAT n) = 16 := by simp only [window, R.ENC_LSTAT]; omega
  rintro (h | h | h)
  · rw [linkBits, hw] at h
    exact absurd h (by decide)
  · rw [h] at hw
    exact absurd hw (by decide)
  · exact hj h.2

section
variable {n : Nat} {l : List Nat} {b c : Block} (h : LaneFrame n l b c)
include h

theorem lane_reg {a : Nat} (hw : window a = 16) (ha : a ≠ R.ENC_LSTAT n) : c.regs.get a = b.regs.get a := h.reg fun _ => laneBits_enc hw ha

theorem lane_counts (hn : n < 16) : c.pos n = b.pos n ∧ c.lead n = b.lead n := by
  constructor <;>
  · refine h.s48 (fun _ => laneBits_enc ?_ ?_) fun _ => laneBits_enc ?_ ?_ <;>
    · simp only [window, R.ENC_POSL, R.ENC_POSH, R.ENC_LEADL, R.ENC_LEADH, R.ENC_LSTAT]
      omega

theorem lane_flag (hn : n < 16) {i : Nat} (hi : i ∉ l) : c.flag n i = b.flag n i :=
  h.fld (laneFlag n i) fun j h0 h1 => laneBits_flag hn (by rwa [Nat.le_antisymm h1 h0])

end

section
variable {n : Nat} {l : List Nat} {b : Block}

theorem keeps_laneFlag {i : Nat} (hi : i ∈ l) (h32 : i < 32) (v : Bool) : Keeps False (LaneFrame n l b) (sb (laneFlag n i) v) :=
  within_sb (Nat.le_refl i) h32 fun j h0 h1 => .inr (.inr ⟨rfl, by rwa [Nat.le_antisymm h1 h0]⟩)

theorem keeps_modLane (k : Nat) (f : EncLane → EncLane) : Keeps False (LaneFrame n l b) (modLane k f) := within_modU fun _ => rfl

theorem keeps_laneEvent (code k : Nat) : Keeps False (LaneFrame n l b) (laneEvent code k) :=
  within_link (fun _ => link_raise _ _) (fun _ _ h => .inl h) alarmsShown_link

theorem keeps_markLane (k m : Nat) : Keeps False (LaneFrame n l b) (markLane k m) := within_modU fun _ => rfl

/-- An operation that only reads. -/
theorem keeps_read {α : Type} {S : Prop} {P : Block → Prop} {m : Op α} {f : Block → α} (h : ∀ b, Gives m b (f b) b) : Keeps S P m :=
  keeps_gives fun b hb => ⟨f b, b, hb, h b⟩

end

theorem laneFrame_set {b : Block} (hb : b.regs.wf = true) {n i : Nat} {l : List Nat} (hi : i ∈ l) (h32 : i < 32) (v : Nat) :
    LaneFrame n l b (b.setField (laneFlag n i) v) :=
  within_setField hb (Nat.le_refl i) h32 v fun j h0 h1 => .inr (.inr ⟨rfl, by rwa [Nat.le_antisymm h1 h0]⟩)

theorem LaneFrame.widen {b c : Block} {n : Nat} {l m : List Nat} (h : LaneFrame n l b c) (hl : l ⊆ m) : LaneFrame n m b c :=
  h.mono (fun _ _ hx => hx.imp id fun hy => hy.imp id fun hz => ⟨hz.1, hl hz.2⟩) fun _ _ => id

/-! ### The reverse limit and the position -/

theorem gives_pos (n : Nat) (b : Block) : Gives (posOf n) b (b.pos n) b := gives_posOf n b
theorem gives_lead (n : Nat) (b : Block) : Gives (leadOf n) b (b.lead n) b := gives_leadOf n b

theorem keeps_revCheck {n : Nat} {b : Block} : Keeps False (LaneFrame n [6] b) (revCheck n) := by
  refine keeps_bind (keeps_read (gives_pos n)) fun p => keeps_bind (keeps_read (gives_lead n)) fun lead => keeps_bind (keeps_gf _) fun lim => ?_
  refine keeps_bind (keeps_read (fun b => gives_getLane (b := b) n)) fun lane => keeps_bind (keeps_onlyIf fun _ => keeps_modLane _ _) fun _ => ?_
  refine keeps_onlyIf fun _ => keeps_bind (keeps_laneFlag (by simp) (by decide) true) fun _ => ?_
  exact keeps_bind (keeps_laneEvent _ n) fun _ => keeps_bind (keeps_markLane _ _) fun _ =>
    within_sb (by decide) (by decide) fun _ _ _ => .inr (.inl rfl)

theorem ends_revCheck {b : Block} (hb : b.regs.wf = true) (n : Nat) : Ends (revCheck n) b fun _ c => LaneFrame n [6] b c :=
  ends_of_keeps keeps_revCheck (within_refl hb)

/-- The block in which lane `n` stands at `p`, where that is not above its lead. -/
def Block.placed (b : Block) (n : Nat) (p : Int) : Block :=
  (b.put64 (R.ENC_POSL n) (R.ENC_POSH n) (ofSigned 48 p)).setField (laneFlag n 12) (bit (decide (p < b.lead n)))

/-- The block in which lane `n` and its lead stand at `p`. -/
def Block.advanced (b : Block) (n : Nat) (p : Int) : Block :=
  ((b.put64 (R.ENC_POSL n) (R.ENC_POSH n) (ofSigned 48 p)).put64 (R.ENC_LEADL n) (R.ENC_LEADH n) (ofSigned 48 p)).setField (laneFlag n 12) 0

theorem ends_lanePlace {b : Block} {n : Nat} {p : Int} {Q : Unit → Block → Prop}
    (hup : b.lead n < wrapSigned 48 p → Ends (do alarmChecks n; revCheck n) (b.advanced n (wrapSigned 48 p)) Q)
    (hdown : wrapSigned 48 p ≤ b.lead n → Ends (revCheck n) (b.placed n (wrapSigned 48 p)) Q) : Ends (lanePlace n p) b Q := by
  refine ends_then (gives_lead n b) (ends_then (gives_wr48 _ _ _ b) ?_)
  split
  next h => exact ends_then (gives_wr48 _ _ _ _) (ends_then (gives_sb _ _ _) (hup h))
  next h => exact ends_then (gives_sb _ _ _) (hdown (not_lt.1 h))

theorem flag_setField {b : Block} (hb : b.regs.wf = true) {n i : Nat} (h : (laneFlag n i).Held) {v : Nat} (hv : v < 2) :
    (b.setField (laneFlag n i) v).flag n i = v := by
  refine (setField_of_same hb h v).trans ?_
  rw [show (laneFlag n i).hi + 1 - (laneFlag n i).lo = 1 from Nat.add_sub_cancel_left i 1]
  exact Nat.mod_eq_of_lt hv

theorem flag_setField_ne {b : Block} (hb : b.regs.wf = true) {n i k : Nat} (h : (laneFlag n i).Held) (hk : k ≠ i) (v : Nat) :
    (b.setField (laneFlag n i) v).flag n k = b.flag n k :=
  setField_of_apart hb h (g := laneFlag n k) rfl (by show k < i ∨ i < k; omega) v

theorem counts_setField (b : Block) {n : Nat} (k i v : Nat) :
    (b.setField (laneFlag k i) v).pos n = b.pos n ∧ (b.setField (laneFlag k i) v).lead n = b.lead n := by
  constructor <;>
  · refine congrArg (toSigned 48) (n64_setField_ne b v ?_ ?_) <;>
    · simp only [R.ENC_POSL, R.ENC_POSH, R.ENC_LEADL, R.ENC_LEADH, R.ENC_LSTAT]
      omega

/-- What block `c` shows of lane `n`, which stands at `q` since block `b`. -/
structure LanePlaced (n : Nat) (q : Int) (b c : Block) : Prop where
  pos : c.pos n = q
  lead : c.lead n = if b.lead n < q then q else b.lead n
  reverse : c.flag n 12 = if q < c.lead n then 1 else 0
  flags : ∀ i ∉ [6, 12], c.flag n i = b.flag n i

theorem put_flag (b : Block) (n i v : Nat) : (b.put64 (R.ENC_POSL n) (R.ENC_POSH n) v).flag n i = b.flag n i ∧
    (b.put64 (R.ENC_LEADL n) (R.ENC_LEADH n) v).flag n i = b.flag n i := by
  constructor <;>
  · refine congrArg (laneFlag n i).of (put64_get_ne b _ ?_ ?_) <;>
    · simp only [R.ENC_POSL, R.ENC_POSH, R.ENC_LEADL, R.ENC_LEADH, R.ENC_LSTAT]
      omega

section
variable {b : Block} (hb : b.regs.wf = true) {n : Nat} (hn : n < 16)
include hb hn

theorem put_pos (q : Int) : (b.put64 (R.ENC_POSL n) (R.ENC_POSH n) (ofSigned 48 q)).pos n = wrapSigned 48 q ∧
    (b.put64 (R.ENC_POSL n) (R.ENC_POSH n) (ofSigned 48 q)).lead n = b.lead n := by
  refine ⟨put64_s48 hb (lane_counters n hn).1 q, s48_put64_ne b _ ?_ ?_ ?_ ?_⟩ <;>
  · simp only [R.ENC_POSL, R.ENC_POSH, R.ENC_LEADL, R.ENC_LEADH]
    omega

theorem put_lead (q : Int) : (b.put64 (R.ENC_LEADL n) (R.ENC_LEADH n) (ofSigned 48 q)).lead n = wrapSigned 48 q ∧
    (b.put64 (R.ENC_LEADL n) (R.ENC_LEADH n) (ofSigned 48 q)).pos n = b.pos n := by
  refine ⟨put64_s48 hb (lane_counters n hn).2.1 q, s48_put64_ne b _ ?_ ?_ ?_ ?_⟩ <;>
  · simp only [R.ENC_POSL, R.ENC_POSH, R.ENC_LEADL, R.ENC_LEADH]
    omega

theorem placed_shows {q : Int} (hq : wrapSigned 48 q = q) (hle : q ≤ b.lead n) : LanePlaced n q b (b.placed n q) := by
  have hwf := put64_wf (lo := R.ENC_POSL n) (hi := R.ENC_POSH n) hb (ofSigned 48 q)
  obtain ⟨hpos, hlead⟩ := put_pos hb hn q
  obtain ⟨hpos', hlead'⟩ := counts_setField (b.put64 (R.ENC_POSL n) (R.ENC_POSH n) (ofSigned 48 q)) n 12 (bit (decide (q < b.lead n)))
  have hheld := held_flags n hn 12 (by simp)
  have hlead2 : (b.placed n q).lead n = b.lead n := hlead'.trans hlead
  refine ⟨hpos'.trans (hpos.trans hq), ?_, ?_, fun i hi => ?_⟩
  · rw [hlead2, if_neg (not_lt.2 hle)]
  · rw [hlead2]
    refine (flag_setField hwf hheld ?_).trans ?_ <;> by_cases h : q < b.lead n <;> simp [bit, h]
  · exact (flag_setField_ne hwf hheld (fun e => hi (by simp [e])) _).trans (put_flag _ n i _).1

theorem advanced_shows {q : Int} (hq : wrapSigned 48 q = q) (hlt : b.lead n < q) : LanePlaced n q b (b.advanced n q) := by
  have hwf1 := put64_wf (lo := R.ENC_POSL n) (hi := R.ENC_POSH n) hb (ofSigned 48 q)
  have hwf2 := put64_wf (lo := R.ENC_LEADL n) (hi := R.ENC_LEADH n) hwf1 (ofSigned 48 q)
  obtain ⟨hpos, -⟩ := put_pos hb hn q
  obtain ⟨hlead, hkept⟩ := put_lead hwf1 hn q
  obtain ⟨hpos', hlead'⟩ := counts_setField ((b.put64 (R.ENC_POSL n) (R.ENC_POSH n) (ofSigned 48 q)).put64 (R.ENC_LEADL n) (R.ENC_LEADH n)
    (ofSigned 48 q)) n 12 0
  have hheld := held_flags n hn 12 (by simp)
  have hlead2 : (b.advanced n q).lead n = q := hlead'.trans (hlead.trans hq)
  refine ⟨hpos'.trans (hkept.trans (hpos.trans hq)), ?_, ?_, fun i hi => ?_⟩
  · rw [hlead2, if_pos hlt]
  · rw [hlead2, if_neg (lt_irrefl q)]
    exact flag_setField hwf2 hheld (by decide)
  · exact (flag_setField_ne hwf2 hheld (fun e => hi (by simp [e])) _).trans ((put_flag _ n i _).2.trans (put_flag _ n i _).1)

end

theorem advanced_wf {b : Block} (hb : b.regs.wf = true) (n : Nat) (q : Int) : (b.advanced n q).regs.wf = true :=
  setField_wf (put64_wf (put64_wf hb _) _) _ _

theorem placed_wf {b : Block} (hb : b.regs.wf = true) (n : Nat) (q : Int) : (b.placed n q).regs.wf = true :=
  setField_wf (put64_wf hb _) _ _

/-- Firings change no register of a lane. -/
theorem alarm_lane {b c : Block} (h : Within alarmBits alarmKeep b c) {n : Nat} (hn : n < 16) :
    c.pos n = b.pos n ∧ c.lead n = b.lead n ∧ ∀ i, c.flag n i = b.flag n i := by
  refine ⟨h.s48 ?_ ?_, h.s48 ?_ ?_, fun i => congrArg (laneFlag n i).of (h.reg ?_)⟩ <;>
  · intro j
    simp only [alarmBits, R.ENC_POSL, R.ENC_POSH, R.ENC_LEADL, R.ENC_LEADH, R.ENC_LSTAT]
    omega

/-- What is shown of a lane's place stays shown where its registers are kept. -/
theorem LanePlaced.kept {n : Nat} {q : Int} {b c d : Block} (h : LanePlaced n q b c) (hpos : d.pos n = c.pos n) (hlead : d.lead n = c.lead n)
    (hflags : ∀ i, i ≠ 6 → d.flag n i = c.flag n i) : LanePlaced n q b d := by
  refine ⟨hpos.trans h.pos, hlead.trans h.lead, ?_, fun i hi => ?_⟩
  · rw [hflags 12 (by decide), hlead]
    exact h.reverse
  · exact (hflags i fun e => hi (by simp [e])).trans (h.flags i hi)

theorem LanePlaced.revChecked {n : Nat} {q : Int} {b c d : Block} (h : LanePlaced n q b c) (hn : n < 16) (hw : LaneFrame n [6] c d) :
    LanePlaced n q b d := by
  obtain ⟨hpos, hlead⟩ := lane_counts hw hn
  exact h.kept hpos hlead fun i hi => lane_flag hw hn (by simpa using hi)

theorem wrapSigned_wrapSigned (p : Int) : wrapSigned 48 (wrapSigned 48 p) = wrapSigned 48 p := congrArg (toSigned 48) (ofSigned_wrapSigned 48 p)

theorem lanePlace_shows {b : Block} (hb : b.regs.wf = true) {n : Nat} (hn : n < 16) (p : Int) :
    Ends (lanePlace n p) b fun _ c => LanePlaced n (wrapSigned 48 p) b c := by
  have hq := wrapSigned_wrapSigned p
  refine ends_lanePlace (fun hlt => ?_) fun hle => ?_
  · refine ends_bind (ends_alarmChecks (advanced_wf hb n _) n) fun _ c hc => ends_mono (ends_revCheck hc.wf n) fun _ d hd => ?_
    obtain ⟨hpos, hlead, hflags⟩ := alarm_lane hc hn
    exact ((advanced_shows hb hn hq hlt).kept hpos hlead fun i _ => hflags i).revChecked hn hd
  · exact ends_mono (ends_revCheck (placed_wf hb n _) n) fun _ d hd => (placed_shows hb hn hq hle).revChecked hn hd

/-! ### A stroke that meets an armed slot -/

theorem advanced_slots (b : Block) {n : Nat} (hn : n < 16) (q : Int) (x : Nat) (hx : 0x101000 ≤ x) :
    (b.advanced n q).regs.get x = b.regs.get x := by
  refine (setField_get_ne _ _ _ ?_).trans ((put64_get_ne _ _ ?_ ?_).trans (put64_get_ne b _ ?_ ?_)) <;>
  · simp only [R.ENC_POSL, R.ENC_POSH, R.ENC_LEADL, R.ENC_LEADH, R.ENC_LSTAT]
    omega

theorem slotFired_kept {c d : Block} {a k : Nat} (h : SlotFired a k c) (ha : a < 512)
    (hr : ∀ x, 0x100580 ≤ x → x < 0x110000 → d.regs.get x = c.regs.get x) (hf : d.u.enc.fired = c.u.enc.fired) : SlotFired a k d := by
  refine ⟨?_, ?_, ?_, hf ▸ h.waits⟩
  · rw [hr _ (by simp only [R.ENC_ACTL]; omega) (by simp only [R.ENC_ACTL]; omega)]
    exact h.arm
  · rw [hr _ (by simp only [R.ENC_ASTAT]; omega) (by simp only [R.ENC_ASTAT]; omega)]
    exact h.flag
  · rw [hr _ (by simp only [R.ENC_AFIRED]; omega) (by simp only [R.ENC_AFIRED]; omega)]
    exact h.listed

/-- The reverse limit's check keeps the registers of the slots. -/
theorem lane_slotRegs {n : Nat} {l : List Nat} {c d : Block} (h : LaneFrame n l c d) (hn : n < 16) (x : Nat) (h0 : 0x100580 ≤ x)
    (h1 : x < 0x110000) : d.regs.get x = c.regs.get x :=
  lane_reg h (by simp only [window]; omega) (by simp only [R.ENC_LSTAT]; omega)

/-- What an armed slot is that watches lane `n`, listed among the armed. -/
structure Watches (a n : Nat) (b : Block) : Prop where
  slot : a < 512
  armed : b.arm a = true
  source : b.src a = n
  listed : ∃ x ∈ b.u.enc.armed, x.1 = a

section
variable {b : Block} (hb : b.regs.wf = true) {n : Nat} (hn : n < 16) {a : Nat} (ha : Watches a n b) {p : Int} (hlt : b.lead n < wrapSigned 48 p)
include hb hn ha hlt

/-- A slot that watches a lane fires when the lead comes to its compare value. -/
theorem lanePlace_fires (hc : b.compareAt a ≤ wrapSigned 48 p) : Ends (lanePlace n p) b fun _ c => LanePlaced n (wrapSigned 48 p) b c ∧
    SlotFired a (b.u.elapsed / 10) c ∧ ∀ i ∈ [1, 2], (RF.mk (R.ENC_ASTAT a) i i).of (c.regs.get (R.ENC_ASTAT a)) =
      (RF.mk (R.ENC_ASTAT a) i i).of (b.regs.get (R.ENC_ASTAT a)) := by
  have hq := wrapSigned_wrapSigned p
  have hadv := advanced_shows hb hn hq hlt
  have hwf := advanced_wf hb n (wrapSigned 48 p)
  have hslots := advanced_slots b hn (wrapSigned 48 p)
  obtain ⟨harm, hsrc, hcmp⟩ := slot_same hslots a
  have hsource : (b.advanced n (wrapSigned 48 p)).source n = wrapSigned 48 p := (if_pos hn).trans (hadv.lead.trans (if_pos hlt))
  refine ends_lanePlace (fun _ => ?_) fun hle => absurd hlt (not_lt.2 hle)
  refine ends_bind (ends_alarmChecks_fires hwf (Nat.le_of_lt hn) ha.slot (harm.trans ha.armed) (hsrc.trans ha.source)
    (by rw [hcmp, hsource]; exact hc) ha.listed) fun _ c ⟨hw, hfired⟩ => ends_mono (ends_revCheck hw.wf n) fun _ d hd => ?_
  obtain ⟨hpos, hlead, hflags⟩ := alarm_lane hw hn
  have hkept := lane_slotRegs hd hn
  refine ⟨(hadv.kept hpos hlead fun i _ => hflags i).revChecked hn hd, slotFired_kept hfired ha.slot hkept (congrArg (·.2.2) hd.units),
    fun i hi => ?_⟩
  have hslot := ha.slot
  rw [hkept _ (by simp only [R.ENC_ASTAT]; omega) (by simp only [R.ENC_ASTAT]; omega)]
  refine (hw.fld ⟨R.ENC_ASTAT a, i, i⟩ fun j h0 h1 => ?_).trans (congrArg _ (hslots _ (by simp only [R.ENC_ASTAT]; omega)))
  simp only [List.mem_cons, List.not_mem_nil, or_false] at hi
  simp only [alarmBits, R.ENC_ASTAT] at h0 h1 ⊢
  omega

/-- A slot whose compare value lies above the new lead waits. -/
theorem lanePlace_waits (hc : wrapSigned 48 p < b.compareAt a) : Ends (lanePlace n p) b fun _ c => LanePlaced n (wrapSigned 48 p) b c ∧
    c.arm a = true ∧ (F.ENC_ASTAT_FIRED a).of (c.regs.get (R.ENC_ASTAT a)) = (F.ENC_ASTAT_FIRED a).of (b.regs.get (R.ENC_ASTAT a)) := by
  have hq := wrapSigned_wrapSigned p
  have hadv := advanced_shows hb hn hq hlt
  have hwf := advanced_wf hb n (wrapSigned 48 p)
  have hslots := advanced_slots b hn (wrapSigned 48 p)
  obtain ⟨harm, -, hcmp⟩ := slot_same hslots a
  have hsource : (b.advanced n (wrapSigned 48 p)).source n = wrapSigned 48 p := (if_pos hn).trans (hadv.lead.trans (if_pos hlt))
  refine ends_lanePlace (fun _ => ?_) fun hle => absurd hlt (not_lt.2 hle)
  refine ends_bind (ends_alarmChecks_waits hwf (Nat.le_of_lt hn) ha.slot (by rw [hcmp, hsource]; exact hc)) fun _ c ⟨hw, harmc, hfired⟩ =>
    ends_mono (ends_revCheck hw.wf n) fun _ d hd => ?_
  obtain ⟨hpos, hlead, hflags⟩ := alarm_lane hw hn
  have hkept := lane_slotRegs hd hn
  have hslot := ha.slot
  refine ⟨(hadv.kept hpos hlead fun i _ => hflags i).revChecked hn hd, ?_, ?_⟩
  · rw [Block.arm, hkept _ (by simp only [R.ENC_ACTL]; omega) (by simp only [R.ENC_ACTL]; omega)]
    exact harmc.trans (harm.trans ha.armed)
  · rw [hkept _ (by simp only [R.ENC_ASTAT]; omega) (by simp only [R.ENC_ASTAT]; omega)]
    exact hfired.trans (congrArg _ (hslots _ (by simp only [R.ENC_ASTAT]; omega)))

end

end Sys2Proof.Machine
end

section
/-!
PROOF. Proofs/EncoderCounting.lean: edges, open lines, index pulses and substituted strokes, and the statement about them (R40 to R46, R53,
R62, R65, R66, R69, R640).
-/
namespace Sys2Proof.Machine

/-- The block with lane `n`'s data changed. -/
def Block.onLane (b : Block) (n : Nat) (f : EncLane → EncLane) : Block :=
  b.withU { b.u with enc := { b.u.enc with lanes := updAt b.u.enc.lanes n f } }

theorem gives_onLane (n : Nat) (f : EncLane → EncLane) (b : Block) : Gives (modLane n f) b () (b.onLane n f) := fun _ => rfl

/-- Lane `n` of a block. -/
def Block.lane (b : Block) (n : Nat) : EncLane := b.u.enc.lanes.getD n {}

theorem updAt_beyond {α : Type} (l : List α) (i : Nat) (f : α → α) (h : l.length ≤ i) : updAt l i f = l := by
  induction l generalizing i with
  | nil => rfl
  | cons x l ih =>
    cases i with
    | zero => simp at h
    | succ i => rw [updAt, ih i (by simpa using h)]

/-- What holds of lane `n` after a change, where it also holds of a lane that the list does not have. -/
theorem onLane_lane {P : EncLane → Prop} {b : Block} {n : Nat} {f : EncLane → EncLane} (hd : P {}) (hf : P (f (b.lane n))) :
    P ((b.onLane n f).lane n) := by
  show P ((updAt b.u.enc.lanes n f).getD n {})
  by_cases h : n < b.u.enc.lanes.length
  · rwa [updAt_getD_same _ _ _ _ h]
  · rwa [updAt_beyond _ _ _ (Nat.le_of_not_lt h), List.getD_eq_default _ _ (Nat.le_of_not_lt h)]

/-! ### Strokes -/

/-- The bits that a stroke changes before the lane is placed. -/
abbrev strokeBits (n a j : Nat) : Prop := (a = R.ENC_LSTAT n ∧ j = 13) ∨ a = R.ENC_REVCNT n

/-- What block `c` shows of a stroke of lane `n` that counts from block `b` on, before the lane is placed. -/
structure StrokeTaken (n : Nat) (b c : Block) : Prop where
  within : Within (strokeBits n) alarmsShown b c
  stalled : c.flag n 13 = 0

/-- A change of unit data that keeps the alarms takes nothing from a stroke. -/
theorem strokeTaken_withU {n : Nat} {b c : Block} {u : Units} (h : StrokeTaken n (b.withU u) c) (hu : alarmsShown u = alarmsShown b.u) :
    StrokeTaken n b c := ⟨⟨h.within.wf, h.within.bit, h.within.units.trans hu⟩, h.stalled⟩

theorem strokeTaken_flag {b : Block} (hb : b.regs.wf = true) {n : Nat} (hn : n < 16) : StrokeTaken n b (b.setField (laneFlag n 13) 0) :=
  ⟨within_setField hb (Nat.le_refl 13) (show 13 < 32 by decide) 0 fun _ h0 h1 => .inl ⟨rfl, Nat.le_antisymm h1 h0⟩,
    flag_setField hb (held_flags n hn 13 (by simp)) (by decide)⟩

theorem strokeTaken_revcnt {n : Nat} {b c : Block} (h : StrokeTaken n b c) (v : Nat) :
    StrokeTaken n b (c.setField (F.ENC_REVCNT_REVCNT n) v) := by
  refine ⟨h.within.trans (within_setField h.within.wf (Nat.zero_le 31) (show 31 < 32 by decide) _ fun j _ _ => .inr rfl), ?_⟩
  refine (congrArg (laneFlag n 13).of (setField_get_ne _ (F.ENC_REVCNT_REVCNT n) _ ?_)).trans h.stalled
  simp only [F.ENC_REVCNT_REVCNT, R.ENC_REVCNT, R.ENC_LSTAT]
  omega

/-- A stroke of a lane that is not lost comes down to placing it. -/
theorem ends_laneStroke {b : Block} (hb : b.regs.wf = true) {n : Nat} (hn : n < 16) (hlost : b.flag n 15 = 0) {fwd : Bool} {Q : Unit → Block → Prop}
    (hplace : ∀ c, StrokeTaken n b c → Ends (lanePlace n (b.pos n + if fwd then 1 else -1)) c Q) : Ends (laneStroke n fwd) b Q := by
  have htaken : ∀ f g, StrokeTaken n b (((b.onLane n f).onLane n g).setField (laneFlag n 13) 0) := fun f g =>
    strokeTaken_withU (strokeTaken_withU (strokeTaken_flag (b := (b.onLane n f).onLane n g) (by exact hb) hn) rfl) rfl
  refine ends_then (gives_bf_clear hlost) (ends_then (gives_now b) (ends_then (gives_onLane _ _ b) (ends_ite_neg (by decide) ?_)))
  refine ends_then (gives_pos n _) (ends_then (gives_onLane _ _ _) (ends_then (gives_sb _ _ _) ?_))
  exact ends_bind (ends_onlyIf (fun _ => ends_of_gives (gives_cntSat _ _ _) (P := fun _ c => StrokeTaken n b c) (strokeTaken_revcnt (htaken _ _) _))
    fun _ => htaken _ _) fun _ c hc => hplace c hc

/-- What a stroke leaves before the lane is placed. -/
theorem strokeTaken_kept {n : Nat} {b c : Block} (h : StrokeTaken n b c) : c.pos n = b.pos n ∧ c.lead n = b.lead n ∧
    (∀ x, 0x100580 ≤ x → n < 16 → c.regs.get x = b.regs.get x) ∧ c.u.elapsed = b.u.elapsed ∧ c.u.enc.armed = b.u.enc.armed := by
  refine ⟨h.within.s48 ?_ ?_, h.within.s48 ?_ ?_, fun x hx hn => h.within.reg ?_, congrArg (·.1) h.within.units, congrArg (·.2.1) h.within.units⟩ <;>
  · intro j
    simp only [strokeBits, R.ENC_POSL, R.ENC_POSH, R.ENC_LEADL, R.ENC_LEADH, R.ENC_LSTAT, R.ENC_REVCNT]
    omega

theorem strokeTaken_watches {n : Nat} {b c : Block} (h : StrokeTaken n b c) (hn : n < 16) {a : Nat} (ha : Watches a n b) :
    Watches a n c ∧ c.compareAt a = b.compareAt a := by
  obtain ⟨-, -, hr, -, harmed⟩ := strokeTaken_kept h
  obtain ⟨harm, hsrc, hcmp⟩ := slot_same (fun x hx => hr x (by omega) hn) a
  exact ⟨⟨ha.slot, harm.trans ha.armed, hsrc.trans ha.source, harmed ▸ ha.listed⟩, hcmp⟩

/-! ### Edges -/

/-- An edge that is valid, and far enough from the last one of the other channel, is counted (R42). -/
theorem gives_edgeCounted {b : Block} {n filt : Nat} {chB : Bool}
    (h : ∀ x ∈ (if chB then (b.lane n).edgeA else (b.lane n).edgeB), x + filt * 10 + 20 ≤ b.u.elapsed) :
    Gives (edgeCounted n chB filt) b true (b.onLane n fun l => l.edge chB b.u.elapsed) := by
  refine gives_bind (gives_getLane b n) (gives_bind (gives_now b) (gives_bind (gives_onLane _ _ b) (gives_ite_neg (fun hany => ?_) (gives_pure _ _))))
  obtain ⟨x, hx, hlt⟩ := (Option.any_eq_true _ _).1 hany
  exact absurd (h x hx) (by simpa using hlt)

/-- The balls of lane `n` bring edges. -/
abbrev Block.Wired (b : Block) (n : Nat) : Prop := n < 16 ∧ n ∉ b.u.pwr.encTied

theorem gives_laneWired (n : Nat) (b : Block) : Gives (laneWired n) b (decide (b.Wired n)) b := fun _ => rfl

/-- An edge that the balls do not bring, or that was not stable long enough. -/
theorem gives_edge_ignored {b : Block} {n m : Nat} {e : Edge} {chB : Bool}
    (h : ¬b.Wired n ∨ m < (F.ENC_LCTL_FILT n).of (b.regs.get (R.ENC_LCTL n))) : Gives (opEncoderEdge n e chB m) b () b :=
  gives_bind (gives_bf _ b) (gives_bind (gives_gf _ b) (gives_bind (gives_laneWired n b) (gives_ite_pos (h.imp decide_eq_false id) (gives_pure () b))))

/-- An edge of one line comes down to its stroke. -/
theorem ends_encoderEdge {b : Block} {n m : Nat} {e : Edge} {chB fwd : Bool} {Q : Unit → Block → Prop} (hw : b.Wired n) (he : e ≠ .both)
    (hfwd : fwd = true ↔ (e = .aLeads ↔ (F.ENC_LCTL_DIR n).of (b.regs.get (R.ENC_LCTL n)) = 0))
    (hm : (F.ENC_LCTL_FILT n).of (b.regs.get (R.ENC_LCTL n)) ≤ m)
    (hedge : ∀ x ∈ (if chB then (b.lane n).edgeA else (b.lane n).edgeB), x + (F.ENC_LCTL_FILT n).of (b.regs.get (R.ENC_LCTL n)) * 10 + 20 ≤ b.u.elapsed)
    (h : Ends (laneStroke n fwd) (b.onLane n fun l => l.edge chB b.u.elapsed) Q) : Ends (opEncoderEdge n e chB m) b Q := by
  have hno : ¬(decide (b.Wired n) = false ∨ m < (F.ENC_LCTL_FILT n).of (b.regs.get (R.ENC_LCTL n))) := by
    rw [decide_eq_true hw]
    exact fun h => h.elim (fun e => nomatch e) (Nat.not_lt.2 hm)
  cases e with
  | both => exact absurd rfl he
  | aLeads =>
    have hdir : ((F.ENC_LCTL_DIR n).of (b.regs.get (R.ENC_LCTL n)) != 0) = !fwd := by
      rw [Bool.eq_iff_iff, Bool.not_eq_true', ← Bool.not_eq_true, hfwd]
      simp
    refine ends_then (gives_bf_eq hdir) (ends_then (gives_gf _ b) (ends_then (gives_laneWired n b) (ends_ite_neg hno ?_)))
    exact ends_then (gives_edgeCounted hedge) (ends_onlyIf_true rfl (by rwa [Bool.not_not]))
  | bLeads =>
    have hdir : ((F.ENC_LCTL_DIR n).of (b.regs.get (R.ENC_LCTL n)) != 0) = fwd := by
      rw [Bool.eq_iff_iff, hfwd]
      simp
    refine ends_then (gives_bf_eq hdir) (ends_then (gives_gf _ b) (ends_then (gives_laneWired n b) (ends_ite_neg hno ?_)))
    exact ends_then (gives_edgeCounted hedge) (ends_onlyIf_true rfl h)

/-! ### A lost encoder -/

/-- What a lost lane shows. -/
structure LaneLost (n : Nat) (b c : Block) : Prop where
  frame : LaneFrame n [14, 15] b c
  lost : c.flag n 15 = 1
  estim : b.flag n 15 = 0 → (F.ENC_LCTL_SUBST n).of (b.regs.get (R.ENC_LCTL n)) = 1 → c.flag n 14 = 1

theorem flag_lt (b : Block) (n i : Nat) : b.flag n i < 2 := by
  rw [Block.flag, RF.of, bits, Nat.add_sub_cancel_left]
  exact Nat.mod_lt _ (by decide)

theorem ends_laneTold {n : Nat} {b : Block} (hb : b.regs.wf = true) (code m : Nat) :
    Ends (do laneEvent code n; markLane n m) b fun _ c => LaneFrame n [] b c :=
  ends_of_keeps (keeps_bind (keeps_laneEvent code n) fun _ => keeps_markLane n m) (within_refl hb)

/-- LOST is set, and ESTIM where SUBST is 1. -/
theorem ends_lostFlags {b : Block} (hb : b.regs.wf = true) {n : Nat} (hn : n < 16) (f : EncLane → EncLane) {subst : Bool} :
    Ends (onlyIf subst (substSet n true)) ((b.setField (laneFlag n 15) 1).onLane n f) fun _ c =>
      LaneFrame n [14, 15] b c ∧ c.flag n 15 = 1 ∧ (subst = true → c.flag n 14 = 1) := by
  have hframe := (laneFrame_set hb (n := n) (l := [14, 15]) (i := 15) (by simp) (by decide) 1).trans
    (within_withU (setField_wf hb _ _) (u := ((b.setField (laneFlag n 15) 1).onLane n f).u) rfl)
  have hlost : ((b.setField (laneFlag n 15) 1).onLane n f).flag n 15 = 1 := flag_setField hb (held_flags n hn 15 (by simp)) (by decide)
  have h14 := held_flags n hn 14 (by simp)
  refine ends_onlyIf (fun _ => ends_then (gives_now _) (ends_then (gives_sb _ _ _) (ends_onlyIf_true rfl
    (ends_of_gives (gives_onLane _ _ _) ⟨?_, ?_, fun _ => ?_⟩)))) fun h => ⟨hframe, hlost, fun ht => absurd (ht.symm.trans h) (by decide)⟩
  · exact (hframe.trans (laneFrame_set hframe.wf (i := 14) (by simp) (by decide) 1)).trans (within_withU (setField_wf hframe.wf _ _) rfl)
  · exact (flag_setField_ne hframe.wf h14 (by decide) 1).trans hlost
  · exact flag_setField hframe.wf h14 (by decide)

/-- A lane loses its encoder, or has already lost it (R65, R66). -/
theorem laneLose_shows {b : Block} (hb : b.regs.wf = true) {n : Nat} (hn : n < 16) : Ends (laneLose n) b fun _ c => LaneLost n b c := by
  by_cases hlost : b.flag n 15 = 0
  · refine ends_then (gives_bf_clear hlost) (ends_then (gives_bf _ b) (ends_then (gives_now b) (ends_ite_neg (by decide) ?_)))
    refine ends_then (gives_sb _ _ b) (ends_then (gives_onLane _ _ _) (ends_bind (ends_lostFlags hb hn _) fun _ c ⟨hw, hone, hest⟩ => ?_))
    refine ends_mono (ends_laneTold hw.wf _ _) fun _ d hd => ⟨hw.trans (hd.widen (by simp)), ?_, fun _ hs => ?_⟩
    · exact (lane_flag hd hn (by simp)).trans hone
    · exact (lane_flag hd hn (by simp)).trans (hest (bit_set hs))
  · have hone : b.flag n 15 = 1 := by have := flag_lt b n 15; omega
    exact ends_then (gives_bf_set hone) (ends_then (gives_bf _ b) (ends_then (gives_now b) (ends_ite_pos rfl (ends_of_gives (gives_pure () b)
      ⟨within_refl hb, hone, fun h => absurd h hlost⟩))))

/-- A lane may lose its encoder. -/
theorem ends_mayLose {b : Block} (hb : b.regs.wf = true) {n : Nat} (hn : n < 16) (c : Bool) :
    Ends (onlyIf c (laneLose n)) b fun _ d => LaneFrame n [14, 15] b d :=
  ends_onlyIf (fun _ => ends_mono (laneLose_shows hb hn) fun _ _ h => h.frame) fun _ => within_refl hb

/-- An edge of both lines is a quadrature error and no stroke (R43). -/
theorem ends_laneQerr {b : Block} (hb : b.regs.wf = true) {n : Nat} (hn : n < 16) : Ends (laneQerr n) b fun _ c =>
    c.flag n 4 = 1 ∧ c.pos n = b.pos n ∧ c.lead n = b.lead n := by
  have hset := laneFrame_set hb (n := n) (l := [4]) (i := 4) (by simp) (by decide) 1
  obtain ⟨hpos, hlead⟩ := lane_counts hset hn
  refine ends_then (gives_sb _ _ b) (ends_then (gives_onLane _ _ _) (ends_then (gives_getLane _ _) ?_))
  refine ends_mono (ends_mayLose (by exact hset.wf) hn _) fun _ c hc => ?_
  obtain ⟨hp, hl⟩ := lane_counts hc hn
  exact ⟨(lane_flag hc hn (by decide)).trans (flag_setField hb (held_flags n hn 4 (by simp)) (by decide)), hp.trans hpos, hl.trans hlead⟩

/-- A stroke of a lost lane, before the 64th of the test, moves nothing (R68). -/
theorem ends_lostStroke {b : Block} {n : Nat} (hlost : b.flag n 15 = 1) (hrun : (b.lane n).resyncRun < 63) (fwd : Bool) :
    Ends (laneStroke n fwd) b fun _ c => c.regs = b.regs := by
  refine ends_then (gives_bf_set hlost) (ends_then (gives_now b) (ends_then (gives_onLane _ _ b) (ends_ite_pos rfl ?_)))
  refine ends_then (gives_onLane _ _ _) (ends_then (gives_getLane _ _) (ends_onlyIf (fun h => absurd (of_decide_eq_true h) ?_) fun _ => rfl))
  refine Nat.not_le.2 (onLane_lane (P := fun l => l.resyncRun < 64) (by decide) ?_)
  exact Nat.succ_lt_succ (onLane_lane (P := fun l => l.resyncRun < 63) (by decide) (by exact hrun))

theorem lane_zpos : ∀ n < 16, regImpl (R.ENC_ZPOSL n) = 0xFFFFFFFF#32 := by decide

/-- An index pulse latches the position (R69). -/
theorem ends_laneIndex {b : Block} (hb : b.regs.wf = true) {n : Nat} (hn : n < 16) : Ends (laneIndex n) b fun _ c =>
    (c.regs.get (R.ENC_ZPOSL n)).toNat = ofSigned 32 (b.pos n) ∧ c.pos n = b.pos n := by
  have hwf : (b.setReg (R.ENC_ZPOSL n) (BitVec.ofNat 32 (ofSigned 32 (b.pos n)))).regs.wf = true := wf_set _ _ _ hb
  have hz : ((b.setReg (R.ENC_ZPOSL n) (BitVec.ofNat 32 (ofSigned 32 (b.pos n)))).regs.get (R.ENC_ZPOSL n)).toNat = ofSigned 32 (b.pos n) := by
    rw [setReg_regs, get_set_full hb (lane_zpos n hn), BitVec.toNat_ofNat, Nat.mod_eq_of_lt (ofSigned_lt 32 _)]
  have hpos : (b.setReg (R.ENC_ZPOSL n) (BitVec.ofNat 32 (ofSigned 32 (b.pos n)))).pos n = b.pos n := by
    rw [Block.pos, Block.pos, Block.s48, Block.s48, Block.n64, Block.n64, setReg_regs,
      get_set_ne _ _ (by simp only [R.ENC_POSH, R.ENC_ZPOSL]; omega), get_set_ne _ _ (by simp only [R.ENC_POSL, R.ENC_ZPOSL]; omega)]
  refine ends_then (gives_bf _ b) (ends_then (gives_gf _ b) (ends_then (gives_gf _ b) (ends_then (gives_pos n b) (ends_then (gives_getLane _ _)
    (ends_then (gives_onLane _ _ b) (ends_then (gives_wr _ _ _) ?_))))))
  refine ends_bind (P := fun _ c => LaneFrame n [5] (b.setReg (R.ENC_ZPOSL n) (BitVec.ofNat 32 (ofSigned 32 (b.pos n)))) c)
    (ends_onlyIf (fun _ => ends_of_gives (gives_sb _ _ _) ?_) fun _ => within_withU hwf rfl) fun _ c hc =>
      ends_then (gives_getLane _ _) (ends_mono (ends_mayLose hc.wf hn _) fun _ d hd => ?_)
  · exact (within_withU hwf (u := (b.onLane n _).u) rfl).trans (laneFrame_set (by exact hwf) (by simp) (by decide) 1)
  · have hframe := (hc.widen (m := [5, 14, 15]) (by simp)).trans (hd.widen (by simp))
    rw [lane_reg hframe (by simp only [window, R.ENC_ZPOSL]; omega) (by simp only [R.ENC_ZPOSL, R.ENC_LSTAT]; omega)]
    exact ⟨hz, (lane_counts hframe hn).1.trans hpos⟩

/-- An index pulse that the balls do not bring. -/
theorem gives_index_ignored {b : Block} {n m : Nat} (h : ¬b.Wired n) : Gives (opEncoderIndex n m) b () b :=
  gives_bind (gives_gf _ b) (gives_bind (gives_laneWired n b) (gives_onlyIf_false (by rw [decide_eq_false h]; rfl)))

/-- An open line that is not reported. -/
theorem gives_openLine_ignored {b : Block} {n : Nat} (h : ¬b.Wired n ∨ (F.ENC_LCTL_RUN n).of (b.regs.get (R.ENC_LCTL n)) = 0 ∨
    b.u.elapsed < (b.lane n).runSince + 1000000) : Gives (opEncoderOpenLine n) b () b := by
  refine gives_bind (gives_laneWired n b) (gives_bind (gives_bf _ b) (gives_bind (gives_getLane b n) (gives_bind (gives_now b) (gives_onlyIf_false ?_))))
  rcases h with h | h | h
  · rw [decide_eq_false h]
    rfl
  · exact Bool.and_eq_false_iff.2 (.inl (Bool.and_eq_false_iff.2 (.inr (bit_clear h))))
  · exact Bool.and_eq_false_iff.2 (.inr (decide_eq_false (Nat.not_le.2 h)))

/-! ### The commands -/

theorem fld_of_regs {s t : State} (h : t.dev.regs = s.dev.regs) (f : RF) : t.fld f = s.fld f := by rw [State.fld, State.fld, State.reg, State.reg, h]

theorem s48_of_regs {s t : State} (h : t.dev.regs = s.dev.regs) (lo hi : Nat) : t.s48 lo hi = s.s48 lo hi := by
  simp only [State.s48, State.reg, h]

theorem fld_of_armed {s : State} {a : Nat} (h : s.dev.arm a = true) : s.fld (F.ENC_ACTL_ARM a) = 1 := by
  have hlt : s.fld (F.ENC_ACTL_ARM a) < 2 := by
    rw [State.fld, RF.of, bits, show (F.ENC_ACTL_ARM a).hi + 1 - (F.ENC_ACTL_ARM a).lo = 1 from rfl]
    exact Nat.mod_lt _ (by decide)
  have hne : s.fld (F.ENC_ACTL_ARM a) ≠ 0 := bne_iff_ne.1 h
  omega

section
variable {s : State} (hl : Live s) (hb : Canon s) {n : Nat} (hn : n < 16)
include hl

/-- A command that comes to nothing. -/
theorem does_nothing {c : Instr} {m : Op Unit} (he : exec c s = onLive m s) (h : Gives m s.dev () s.dev) : Does c s fun t => t = s :=
  does_of_onLive he hl h rfl

include hb hn

/-- A stroke of a lane that is not lost places it. -/
theorem encoderEdge_places {e : Edge} {chB fwd : Bool} {m : Nat} {Q : State → Prop} (hlost : s.fld (F.ENC_LSTAT_LOST n) = 0) (he : e ≠ .both)
    (hfwd : fwd = true ↔ (e = .aLeads ↔ s.fld (F.ENC_LCTL_DIR n) = 0)) (hcounts : EdgeCounts s n chB m) (hwired : n ∉ s.dev.u.pwr.encTied)
    (h : ∀ c, StrokeTaken n s.dev c → Ends (lanePlace n (s.pos n + if fwd then 1 else -1)) c fun _ d => Q { s with dev := d }) :
    Does (.encoderEdge n ⟨e, chB, m⟩) s Q := by
  obtain ⟨hm, hfar⟩ := hcounts
  refine does_of_ends (m := opEncoderEdge n e chB m) rfl hl (ends_encoderEdge ⟨hn, hwired⟩ he hfwd hm hfar ?_)
  exact ends_laneStroke (b := s.dev.onLane n _) (by exact hb) hn hlost fun c hc => h c (strokeTaken_withU hc rfl)

theorem encoderEdge_counts {e : Edge} {chB fwd : Bool} {m : Nat} (hlost : s.fld (F.ENC_LSTAT_LOST n) = 0) (he : e ≠ .both)
    (hfwd : fwd = true ↔ (e = .aLeads ↔ s.fld (F.ENC_LCTL_DIR n) = 0)) (hcounts : EdgeCounts s n chB m) (hwired : n ∉ s.dev.u.pwr.encTied) :
    Does (.encoderEdge n ⟨e, chB, m⟩) s fun t => t.pos n = wrapSigned 48 (s.pos n + if fwd then 1 else -1) ∧
      t.lead n = (if s.lead n < t.pos n then t.pos n else s.lead n) ∧ t.fld (F.ENC_LSTAT_STALLED n) = 0 ∧
      t.fld (F.ENC_LSTAT_REVERSE n) = if t.pos n < t.lead n then 1 else 0 := by
  refine encoderEdge_places hl hb hn hlost he hfwd hcounts hwired fun c hc => ends_mono (lanePlace_shows hc.within.wf hn _) fun _ d hd => ?_
  obtain ⟨-, hlead, -⟩ := strokeTaken_kept hc
  have hpos : State.pos { s with dev := d } n = wrapSigned 48 (s.pos n + if fwd then 1 else -1) := hd.pos
  rw [hpos]
  exact ⟨rfl, hd.lead.trans (by rw [hlead]; rfl), (hd.flags 13 (by decide)).trans hc.stalled, hd.reverse⟩

section
variable {e : Edge} {chB : Bool} {m a : Nat} (hlost : s.fld (F.ENC_LSTAT_LOST n) = 0) (he : e ≠ .both)
  (hfwd : e = .aLeads ↔ s.fld (F.ENC_LCTL_DIR n) = 0) (hcounts : EdgeCounts s n chB m) (hwired : n ∉ s.dev.u.pwr.encTied)
  (hlead : s.lead n = s.pos n) (hroom : s.pos n + 1 < 2 ^ 47) (ha : Watches a n s.dev)
include hlost he hfwd hcounts hwired hlead hroom ha

omit hl hb hlost he hfwd hcounts hwired in
/-- A forward stroke from the lead position takes the lead along. -/
theorem forward_advances {c : Block} (hs : StrokeTaken n s.dev c) : wrapSigned 48 (s.pos n + 1) = s.pos n + 1 ∧ c.lead n = s.pos n ∧
    c.lead n < wrapSigned 48 (s.pos n + 1) ∧ Watches a n c ∧ c.compareAt a = s.compareAt a ∧ c.u.elapsed = s.dev.u.elapsed := by
  have hwrap : wrapSigned 48 (s.pos n + 1) = s.pos n + 1 := by
    have hrange := toSigned_range (w := 48) (by decide) (s.n64 (R.ENC_POSL n) (R.ENC_POSH n))
    exact wrapSigned_of_range (by decide) (le_trans hrange.1 (show s.pos n ≤ s.pos n + 1 by omega)) hroom
  obtain ⟨-, hkept, -, helapsed, -⟩ := strokeTaken_kept hs
  obtain ⟨hwatch, hcmp⟩ := strokeTaken_watches hs hn ha
  have hat : c.lead n = s.pos n := hkept.trans hlead
  exact ⟨hwrap, hat, by rw [hwrap, hat]; omega, hwatch, hcmp, helapsed⟩

/-- A forward stroke to the compare value of an armed slot. -/
theorem encoderEdge_fires (hc : s.compareAt a = s.pos n + 1) : Does (.encoderEdge n ⟨e, chB, m⟩) s fun t => t.lead n = s.compareAt a ∧
    SlotFired a (s.dev.u.elapsed / 10) t.dev ∧ t.fld (F.ENC_ASTAT_LATE a) = s.fld (F.ENC_ASTAT_LATE a) ∧
    t.fld (F.ENC_ASTAT_FB a) = s.fld (F.ENC_ASTAT_FB a) := by
  refine encoderEdge_places (fwd := true) hl hb hn hlost he (by simp [hfwd]) hcounts hwired fun c hs => ?_
  obtain ⟨hwrap, hat, hlt, hwatch, hcmp, helapsed⟩ := forward_advances hn hlead hroom ha hs
  obtain ⟨-, -, hregs, -⟩ := strokeTaken_kept hs
  refine ends_mono (lanePlace_fires (p := s.pos n + 1) hs.within.wf hn hwatch hlt (by rw [hcmp, hwrap, hc])) fun _ d ⟨hd, hfired, hflags⟩ => ?_
  have hstatus : c.regs.get (R.ENC_ASTAT a) = s.reg (R.ENC_ASTAT a) := hregs _ (by simp only [R.ENC_ASTAT]; omega) hn
  rw [hstatus] at hflags
  refine ⟨?_, helapsed ▸ hfired, hflags 1 (by simp), hflags 2 (by simp)⟩
  exact hd.lead.trans ((if_pos hlt).trans (hwrap.trans hc.symm))

/-- A forward stroke below the compare value of an armed slot. -/
theorem encoderEdge_waits (hc : s.pos n + 1 < s.compareAt a) : Does (.encoderEdge n ⟨e, chB, m⟩) s fun t => t.lead n = s.pos n + 1 ∧
    t.dev.arm a = true ∧ t.fld (F.ENC_ASTAT_FIRED a) = s.fld (F.ENC_ASTAT_FIRED a) := by
  refine encoderEdge_places (fwd := true) hl hb hn hlost he (by simp [hfwd]) hcounts hwired fun c hs => ?_
  obtain ⟨hwrap, hat, hlt, hwatch, hcmp, -⟩ := forward_advances hn hlead hroom ha hs
  obtain ⟨-, -, hregs, -⟩ := strokeTaken_kept hs
  refine ends_mono (lanePlace_waits (p := s.pos n + 1) hs.within.wf hn hwatch hlt (by rw [hcmp, hwrap]; exact hc)) fun _ d ⟨hd, harm, hfired⟩ => ?_
  have hstatus : c.regs.get (R.ENC_ASTAT a) = s.reg (R.ENC_ASTAT a) := hregs _ (by simp only [R.ENC_ASTAT]; omega) hn
  exact ⟨hd.lead.trans ((if_pos hlt).trans hwrap), harm, hfired.trans (congrArg _ hstatus)⟩

end

/-- An edge of both lines. -/
theorem encoderEdge_both {m : Nat} (chB : Bool) (hm : s.fld (F.ENC_LCTL_FILT n) ≤ m) (hwired : n ∉ s.dev.u.pwr.encTied) :
    Does (.encoderEdge n ⟨.both, chB, m⟩) s fun t => t.fld (F.ENC_LSTAT_QERR n) = 1 ∧ t.pos n = s.pos n ∧ t.lead n = s.lead n := by
  refine does_of_ends (m := opEncoderEdge n .both chB m) rfl hl ?_
  refine ends_then (gives_bf _ _) (ends_then (gives_gf _ _) (ends_then (gives_laneWired n _) (ends_ite_neg (fun h => ?_) ?_)))
  · exact h.elim (fun h => of_decide_eq_false h ⟨hn, hwired⟩) (Nat.not_lt.2 hm)
  · exact ends_then (gives_now _) (ends_then (gives_onLane _ _ _) (ends_laneQerr (b := s.dev.onLane n _) (by exact hb) hn))

omit hb in
/-- An edge of a lost lane, before the 64th stroke of the test. -/
theorem encoderEdge_lost {e : Edge} {chB : Bool} {m : Nat} (hlost : s.fld (F.ENC_LSTAT_LOST n) = 1) (he : e ≠ .both)
    (hrun : (s.lane n).resyncRun < 63) (hcounts : EdgeCounts s n chB m) : Does (.encoderEdge n ⟨e, chB, m⟩) s fun t => t.dev.regs = s.dev.regs := by
  obtain ⟨hm, hfar⟩ := hcounts
  by_cases hwired : n ∈ s.dev.u.pwr.encTied
  · exact does_mono (does_nothing (m := opEncoderEdge n e chB m) hl rfl (gives_edge_ignored (.inl fun h => h.2 hwired))) fun t ht => by rw [ht]
  · refine does_of_ends (m := opEncoderEdge n e chB m) rfl hl (ends_encoderEdge (fwd := decide (e = .aLeads ↔ s.fld (F.ENC_LCTL_DIR n) = 0))
      ⟨hn, hwired⟩ he decide_eq_true_iff hm hfar ?_)
    exact ends_lostStroke (b := s.dev.onLane n _) hlost (onLane_lane (P := fun l => l.resyncRun < 63) (by decide) (by cases chB <;> exact hrun)) _

/-- An open line of a lane with RUN = 1 (R65, R648). -/
theorem encoderOpenLine_loses (hwired : n ∉ s.dev.u.pwr.encTied) (hrun : s.fld (F.ENC_LCTL_RUN n) = 1)
    (hdue : (s.lane n).runSince + 1000000 ≤ s.dev.u.elapsed) : Does (.encoderOpenLine n) s fun t => t.fld (F.ENC_LSTAT_OPEN n) = 1 ∧
      t.fld (F.ENC_LSTAT_LOST n) = 1 ∧ t.pos n = s.pos n ∧ t.lead n = s.lead n ∧
      (s.fld (F.ENC_LSTAT_LOST n) = 0 → s.fld (F.ENC_LCTL_SUBST n) = 1 → t.fld (F.ENC_LSTAT_ESTIM n) = 1) := by
  have h3 := held_flags n hn 3 (by simp)
  have hset := laneFrame_set hb (n := n) (l := [3]) (i := 3) (by simp) (by decide) 1
  obtain ⟨hpos, hlead⟩ := lane_counts hset hn
  have hctl : (s.dev.setField (laneFlag n 3) 1).regs.get (R.ENC_LCTL n) = s.reg (R.ENC_LCTL n) :=
    setField_get_ne _ _ _ (by simp only [R.ENC_LCTL, R.ENC_LSTAT]; omega)
  refine does_of_ends (m := opEncoderOpenLine n) rfl hl (ends_then (gives_laneWired n _) (ends_then (gives_bf_set hrun) (ends_then (gives_getLane _ _)
    (ends_then (gives_now _) (ends_onlyIf_true (Bool.and_eq_true_iff.2 ⟨Bool.and_eq_true_iff.2 ⟨decide_eq_true ⟨hn, hwired⟩, rfl⟩,
      decide_eq_true hdue⟩) (ends_then (gives_sb _ _ _) (ends_then (gives_onLane _ _ _) ?_)))))))
  refine ends_mono (laneLose_shows (by exact hset.wf) hn) fun _ d hd => ?_
  obtain ⟨hp, hl⟩ := lane_counts hd.frame hn
  refine ⟨(lane_flag hd.frame hn (by decide)).trans (flag_setField hb h3 (by decide)), hd.lost, hp.trans hpos, hl.trans hlead, fun h0 hs => hd.estim ?_ ?_⟩
  · exact (flag_setField_ne hb h3 (by decide) 1).trans h0
  · exact (congrArg (F.ENC_LCTL_SUBST n).of hctl).trans hs

/-- A forward index pulse (R69). -/
theorem encoderIndex_latches {m : Nat} (hm : s.fld (F.ENC_LCTL_FILT n) ≤ m) (hwired : n ∉ s.dev.u.pwr.encTied) :
    Does (.encoderIndex ⟨n, m⟩) s fun t => (t.reg (R.ENC_ZPOSL n)).toNat = ofSigned 32 (s.pos n) ∧ t.pos n = s.pos n := by
  refine does_of_ends (m := opEncoderIndex n m) rfl hl (ends_then (gives_gf _ _) (ends_then (gives_laneWired n _) (ends_onlyIf_true
    (Bool.and_eq_true_iff.2 ⟨decide_eq_true ⟨hn, hwired⟩, decide_eq_true hm⟩) ?_)))
  exact ends_laneIndex hb hn

/-- A substituted stroke (R66). -/
theorem substStroke_places (hest : s.fld (F.ENC_LSTAT_ESTIM n) = 1) (hlost : s.fld (F.ENC_LSTAT_LOST n) = 1)
    (hdue : ((s.lane n).substN + 1) * 16000000000 ≤ (s.dev.u.elapsed - (s.lane n).substAt) * s.fld (F.ENC_RATE_RATE n)) :
    Does (.substStroke n) s fun t => t.pos n = wrapSigned 48 (s.pos n + 1) ∧ t.lead n = (if s.lead n < t.pos n then t.pos n else s.lead n) := by
  refine does_of_ends (m := opSubstStroke n) rfl hl (ends_then (gives_bf_set hest) (ends_then (gives_bf_set hlost) (ends_then (gives_gf _ _)
    (ends_then (gives_getLane _ _) (ends_then (gives_now _) (ends_then (gives_pos n _) (ends_onlyIf_true (Bool.and_eq_true_iff.2
      ⟨Bool.and_eq_true_iff.2 ⟨Bool.and_eq_true_iff.2 ⟨decide_eq_true hn, rfl⟩, rfl⟩, decide_eq_true hdue⟩)
      (ends_then (gives_onLane _ _ _) ?_))))))))
  refine ends_mono (lanePlace_shows (by exact hb) hn _) fun _ d hd => ?_
  have hpos : State.pos { s with dev := d } n = wrapSigned 48 (s.pos n + 1) := hd.pos
  rw [hpos]
  exact ⟨rfl, hd.lead⟩

end

/-- Settles O6: a valid edge comes down to one stroke, a stroke to one placing of the lane, and a placing upwards to one comparison of the
armed slots of that lane. -/
theorem encoderCounting : Obligations.EncoderCounting := by
  unfold Obligations.EncoderCounting
  refine ⟨?counts, ?fires, ?waits, ?both, ?lost, ?opened, ?index, ?subst, ?short, ?tied, ?tiedOpen, ?tiedIndex, ?idle, ?soon⟩
  case counts =>
    exact fun s n e fwd c m hl hb hn hlost he hfwd hcounts hwired => encoderEdge_counts hl hb hn hlost he hfwd hcounts hwired
  case fires =>
    intro s n a m e c hl hb hn hlost he hfwd hcounts hwired hlead hroom ha hlist harm hsrc hc
    exact does_mono (encoderEdge_fires hl hb hn hlost he hfwd hcounts hwired hlead hroom ⟨ha, bit_set harm, hsrc, hlist⟩ hc)
      fun t ⟨hat, hf, hlate, hfell⟩ => ⟨hat, hf.arm, hf.flag, hlate, hfell, hf.listed, hf.waits⟩
  case waits =>
    intro s n a m e c hl hb hn hlost he hfwd hcounts hwired hlead hroom ha hlist harm hsrc hc
    exact does_mono (encoderEdge_waits hl hb hn hlost he hfwd hcounts hwired hlead hroom ⟨ha, bit_set harm, hsrc, hlist⟩ hc)
      fun t ⟨hat, ht, hfired⟩ => ⟨hat, fld_of_armed ht, hfired⟩
  case both => exact fun s n c m hl hb hn hm hwired => encoderEdge_both hl hb hn c hm hwired
  case lost =>
    intro s n e c m hl hb hn hlost he hrun hcounts
    exact does_mono (encoderEdge_lost hl hn hlost he hrun hcounts) fun t ht => ⟨s48_of_regs ht _ _, s48_of_regs ht _ _, (fld_of_regs ht _).trans hlost⟩
  case opened => exact fun s n hl hb hn hwired hrun hdue => encoderOpenLine_loses hl hb hn hwired hrun hdue
  case index => exact fun s n m hl hb hn hm hwired => encoderIndex_latches hl hb hn hm hwired
  case subst => exact fun s n hl hb hn hest hlost hdue => substStroke_places hl hb hn hest hlost hdue
  case short => exact fun s n e c m hl hm => does_nothing (m := opEncoderEdge n e c m) hl rfl (gives_edge_ignored (.inr hm))
  case tied => exact fun s n m e c hl ht => does_nothing (m := opEncoderEdge n e c m) hl rfl (gives_edge_ignored (.inl fun h => h.2 ht))
  case tiedOpen => exact fun s n hl ht => does_nothing (m := opEncoderOpenLine n) hl rfl (gives_openLine_ignored (.inl fun h => h.2 ht))
  case tiedIndex => exact fun s n m hl ht => does_nothing (m := opEncoderIndex n m) hl rfl (gives_index_ignored fun h => h.2 ht)
  case idle => exact fun s n hl hrun => does_nothing (m := opEncoderOpenLine n) hl rfl (gives_openLine_ignored (.inr (.inl hrun)))
  case soon => exact fun s n hl hsoon => does_nothing (m := opEncoderOpenLine n) hl rfl (gives_openLine_ignored (.inr (.inr hsoon)))

end Sys2Proof.Machine
end

section
/-!
PROOF. Proofs/EventCounts.lean: what an event does to the counts of the sessions (R394, R566). Taking buffers and sending a frame keep each
record's state, mask and count; raising an event advances the count of each open record whose mask takes it, sent or not.
-/
namespace Sys2Proof.Machine

/-- The state of a session record, its event mask and its event count. -/
def eventView (z : Session) : SessState × Nat × Nat := (z.st, z.evMask, z.evCount)

/-- What the units' data show of session record `i`'s events. -/
def eventsOf (u : Units) (i : Nat) : SessState × Nat × Nat := eventView (u.cmd.sessions.getD i {})

/-- Block `c` shows every record's events as block `b` does. -/
def EventsKept (b c : Block) : Prop := ∀ i, eventsOf c.u i = eventsOf b.u i

theorem updAt_view {α β : Type} {view : α → β} {l : List α} {i : Nat} {f : α → α} {d : α} (hf : ∀ z, view (f z) = view z) (j : Nat) :
    view ((updAt l i f).getD j d) = view (l.getD j d) := by
  by_cases hj : j = i
  · subst hj
    by_cases hi : j < l.length
    · rw [updAt_getD_same _ _ _ _ hi, hf]
    · rw [updAt_beyond _ _ _ (Nat.le_of_not_lt hi)]
  · rw [updAt_getD_ne _ _ _ hj]

theorem map_view {α β : Type} {view : α → β} {l : List α} {f : α → α} {d : α} (hf : ∀ z, view (f z) = view z) (j : Nat) :
    view ((l.map f).getD j d) = view (l.getD j d) := by
  by_cases hj : j < l.length
  · rw [List.getD_eq_getElem _ _ (by simpa using hj), List.getD_eq_getElem _ _ hj, List.getElem_map, hf]
  · rw [List.getD_eq_default _ _ (by simpa using hj), List.getD_eq_default _ _ (Nat.le_of_not_lt hj)]

section
variable {S : Prop} {b : Block}

/-! ### Registers and data that show no events -/

theorem events_sf {f : RF} {v : Nat} : Keeps S (EventsKept b) (sf f v) := keeps_sf fun _ _ h => h
theorem events_sb {f : RF} {v : Bool} : Keeps S (EventsKept b) (sb f v) := events_sf
theorem events_sbit {a i : Nat} {v : Bool} : Keeps S (EventsKept b) (sbit a i v) := events_sf
theorem events_wrN {a v : Nat} : Keeps S (EventsKept b) (wrN a v) := keeps_wr fun _ h => h
theorem events_cntSat {f : RF} {n : Nat} : Keeps S (EventsKept b) (cntSat f n) := keeps_bind (keeps_gf f) fun _ => events_sf
theorem events_cntWrap {f : RF} {n : Nat} : Keeps S (EventsKept b) (cntWrap f n) := keeps_bind (keeps_gf f) fun _ => events_sf

theorem events_modU {f : Units → Units} (h : ∀ u i, eventsOf (f u) i = eventsOf u i) : Keeps S (EventsKept b) (modU f) :=
  keeps_modU fun c hc i => (h c.u i).trans (hc i)

theorem events_modSess {i : Nat} {f : Session → Session} (hf : ∀ z, eventView (f z) = eventView z) : Keeps S (EventsKept b) (modSess i f) :=
  events_modU fun _ j => updAt_view hf j

theorem events_getSess (i : Nat) : Keeps S (EventsKept b) (getSess i) := keeps_read fun c => gives_getSess (b := c) i

/-! ### Buffers -/

theorem events_poolUse (c : Nat) : Keeps S (EventsKept b) (poolUse c) :=
  keeps_bind keeps_units fun _ => keeps_bind (keeps_gf _) fun _ => keeps_onlyIf fun _ =>
    keeps_bind events_sf fun _ => keeps_bind events_sf fun _ => events_sf

theorem events_kittyFree (n : Nat) : Keeps S (EventsKept b) (kittyFree n) :=
  keeps_bind (keeps_gf _) fun _ => keeps_bind events_sf fun _ => keeps_bind events_sf fun _ => events_modU fun _ _ => rfl

theorem events_talonFree (n : Nat) : Keeps S (EventsKept b) (talonFree n) :=
  keeps_bind (keeps_gf _) fun _ => keeps_bind events_sf fun _ => keeps_bind events_sf fun _ => events_modU fun _ _ => rfl

theorem events_takePriv (c k : Nat) : Keeps S (EventsKept b) (takePriv c k) :=
  keeps_bind (events_modU fun _ _ => rfl) fun _ => keeps_bind (events_poolUse c) fun _ => keeps_pure _

theorem events_takeKitty (c k : Nat) : Keeps S (EventsKept b) (takeKitty c k) :=
  keeps_bind (keeps_gf _) fun _ => keeps_bind (events_kittyFree _) fun _ => keeps_bind (events_modU fun _ _ => rfl) fun _ =>
    keeps_bind (events_poolUse c) fun _ => keeps_pure _

theorem events_takeTalon (c k : Nat) : Keeps S (EventsKept b) (takeTalon c k) :=
  keeps_bind (keeps_gf _) fun _ => keeps_bind (events_talonFree _) fun _ => keeps_bind (events_modU fun _ _ => rfl) fun _ =>
    keeps_bind (events_poolUse c) fun _ => keeps_bind events_sb fun _ => keeps_pure _

theorem events_poolRefuse : Keeps S (EventsKept b) poolRefuse :=
  keeps_bind events_cntWrap fun _ => keeps_bind events_sb fun _ => keeps_pure _

theorem events_kittySettled (c how : Nat) : Keeps S (EventsKept b) (kittySettled c how) :=
  keeps_bind keeps_units fun _ => keeps_bind (events_modU fun _ _ => rfl) fun _ => keeps_bind (keeps_onlyIf fun _ => events_wrN) fun _ =>
    keeps_onlyIf fun _ => events_cntSat

theorem events_poolSettle (many : Bool) (c k : Nat) : Keeps S (EventsKept b) (poolSettle many c k) :=
  keeps_bind keeps_units fun _ => keeps_ite (fun _ => events_takePriv c k) fun _ => keeps_bind (keeps_gf _) fun _ => keeps_bind (keeps_gf _) fun _ =>
    keeps_ite (fun _ => keeps_bind (events_kittySettled c 0) fun _ => events_takeKitty c k) fun _ =>
      keeps_ite (fun _ => keeps_bind (events_kittySettled c 8) fun _ => events_takeTalon c k) fun _ =>
        keeps_bind (events_kittySettled c 16) fun _ => events_poolRefuse

theorem events_recoverySet (l n : Nat) : Keeps S (EventsKept b) (recoverySet l n) :=
  keeps_bind (keeps_gf _) fun _ => keeps_bind (events_modU fun _ _ => rfl) fun _ => keeps_bind events_sf fun _ => events_sf

theorem events_poolRecover (many : Bool) (l c k : Nat) : Keeps S (EventsKept b) (poolRecover many l c k) :=
  keeps_bind keeps_units fun _ => keeps_bind (keeps_gf _) fun _ => keeps_ite
    (fun _ => keeps_bind (events_talonFree _) fun _ => keeps_bind (events_recoverySet l _) fun _ => keeps_bind (events_poolUse c) fun _ => keeps_pure _)
    fun _ => keeps_bind events_sb fun _ => events_poolSettle many c k

theorem events_poolTake (c k : Nat) : Keeps S (EventsKept b) (poolTake c k) := by
  refine keeps_bind keeps_units fun u => ?_
  split
  · exact events_poolSettle false c k
  next l _ => exact keeps_ite (fun _ => events_poolRecover false l c k) fun _ => events_poolSettle false c k

theorem events_poolGive (r : Option BufRef) : Keeps S (EventsKept b) (poolGive r) := by
  cases r with
  | none => exact keeps_pure ()
  | some r =>
    refine keeps_ite (fun _ => keeps_bind (events_modU fun _ _ => rfl) fun _ => events_poolUse _) fun _ => ?_
    refine keeps_ite (fun _ => keeps_bind (keeps_gf _) fun _ => keeps_bind (events_kittyFree _) fun _ => keeps_bind (events_modU fun _ _ => rfl) fun _ => events_poolUse _)
      fun _ => ?_
    refine keeps_ite (fun _ => keeps_bind (keeps_gf _) fun _ => keeps_bind keeps_units fun _ => keeps_bind (events_talonFree _) fun _ =>
      keeps_bind (events_recoverySet _ _) fun _ => events_poolUse _) fun _ => ?_
    exact keeps_bind (keeps_gf _) fun _ => keeps_bind (events_talonFree _) fun _ => keeps_bind (events_modU fun _ _ => rfl) fun _ => events_poolUse _

/-! ### Sending an event -/

theorem events_nextHop (ip : Nat) : Keeps S (EventsKept b) (nextHop ip) :=
  keeps_bind (keeps_rd _) fun _ => keeps_bind (keeps_rd _) fun _ => keeps_bind (keeps_gf _) fun _ => keeps_ite (fun _ => keeps_pure _) fun _ =>
    keeps_ite (fun _ => keeps_pure _) fun _ => keeps_pure _

theorem events_canSend (ip : Nat) : Keeps S (EventsKept b) (canSend ip) :=
  keeps_bind (events_nextHop ip) fun _ => keeps_bind (keeps_bind keeps_units fun _ => keeps_bind (keeps_gf _) fun _ => keeps_bind (keeps_bf _) fun _ =>
    keeps_pure _) fun _ => keeps_pure _

theorem events_seqNext (i : Nat) : Keeps S (EventsKept b) (seqNext i) :=
  keeps_bind (events_getSess i) fun _ => keeps_bind (events_modSess fun _ => rfl) fun _ => events_modU fun _ _ => rfl

theorem eventView_sent (p : Pkt) (z : Session) : eventView (if z.st ≠ .free ∧ z.sid = p.session then { z with sent := p.seq } else z) = eventView z := by
  split <;> rfl

theorem events_emitPkt (p : Pkt) : Keeps S (EventsKept b) (emitPkt p) :=
  keeps_bind (keeps_rd _) fun _ => keeps_bind (events_modU fun _ j => map_view (eventView_sent p) j) fun _ => events_modU fun _ _ => rfl

/-- A frame that answers no command. -/
theorem events_sendSess (i kind tagw opcode status : Nat) (p : List Byte) (r : Option BufRef) (e : Bool) :
    Keeps S (EventsKept b) (sendSess i kind tagw opcode status p r e none none) :=
  keeps_bind keeps_wall fun _ => keeps_bind (events_seqNext i) fun _ => keeps_bind (events_getSess i) fun _ => keeps_bind (events_canSend _) fun _ =>
    keeps_ite (fun _ => keeps_bind (events_emitPkt _) fun _ => keeps_bind (keeps_bind keeps_now fun _ => keeps_pure _) fun _ =>
      keeps_bind (events_poolGive r) fun _ => keeps_pure _) fun _ => keeps_bind keeps_now fun _ => events_modSess fun _ => rfl

theorem events_levelFull (n : Nat) : Keeps S (EventsKept b) (levelFull n) :=
  keeps_bind events_sbit fun _ => keeps_bind events_sbit fun _ => events_sb

theorem events_eventSend (i code : Nat) (p : List Byte) (r : BufRef) : Keeps S (EventsKept b) (eventSend i code p r) :=
  keeps_bind (events_sendSess i 6 0 code 0 p (some r) true) fun _ => keeps_bind (events_getSess i) fun _ => keeps_onlyIf fun _ => events_levelFull 3

theorem events_ringLevelShow : Keeps S (EventsKept b) ringLevelShow :=
  keeps_bind keeps_units fun _ => keeps_bind (keeps_gbit _ _) fun _ => keeps_bind (keeps_onlyIf fun _ => events_levelFull 4) fun _ =>
    keeps_onlyIf fun _ => events_sbit

theorem events_eventDrop : Keeps S (EventsKept b) eventDrop := keeps_bind events_cntSat fun _ => events_sb

end

/-! ### Raising an event -/

/-- A record's events after one whose code is `code`. -/
def eventCounted (code : Nat) (x : SessState × Nat × Nat) : SessState × Nat × Nat :=
  if x.1 = .opened ∧ bitAt x.2.1 code = true then (x.1, x.2.1, (x.2.2 + 1) % 2 ^ 32) else x

/-- The block with one more event counted in record `i`. -/
def Block.counted (b : Block) (i : Nat) : Block :=
  b.withU { b.u with cmd := { b.u.cmd with sessions := updAt b.u.cmd.sessions i fun s => { s with evCount := (s.evCount + 1) % 2 ^ 32 } } }

theorem counted_events {b : Block} {i code : Nat} (hw : (eventsOf b.u i).1 = .opened ∧ bitAt (eventsOf b.u i).2.1 code = true) (j : Nat) :
    eventsOf (b.counted i).u j = if j = i then eventCounted code (eventsOf b.u j) else eventsOf b.u j := by
  by_cases e : j = i
  · subst e
    have hin : j < b.u.cmd.sessions.length := by
      by_contra hout
      rw [eventsOf, List.getD_eq_default _ _ (Nat.le_of_not_lt hout)] at hw
      exact absurd hw.1 (by decide)
    rw [if_pos rfl, eventCounted, if_pos hw]
    exact congrArg eventView (updAt_getD_same _ _ _ _ hin)
  · rw [if_neg e]
    exact congrArg eventView (updAt_getD_ne _ _ _ e)

/-- Raising an event for a record advances its count where the event is wanted, and keeps the other records'. -/
theorem ends_raiseTo {ask : Op (Option BufRef)} (hask : ∀ b, Keeps False (EventsKept b) ask) (client code : Nat) (data : List Byte) (i : Nat) (b : Block) :
    Ends (raiseTo ask client code data i) b fun _ c => ∀ j, eventsOf c.u j = if j = i then eventCounted code (eventsOf b.u j) else eventsOf b.u j := by
  refine ends_then (gives_getSess b i) ?_
  by_cases hw : (b.u.cmd.sessions.getD i {}).st = .opened ∧ bitAt (b.u.cmd.sessions.getD i {}).evMask code = true
  · refine ends_ite_pos (by simpa using hw) (ends_then (b' := b.counted i) (gives_modSess b i _) (ends_mono (P := fun _ c => EventsKept (b.counted i) c)
      (ends_of_keeps ?_ fun _ => rfl) fun _ c hc j => (hc j).trans (counted_events hw j)))
    refine keeps_bind keeps_units fun u => keeps_bind (events_getSess i) fun s => keeps_ite (fun _ => keeps_pure _) fun _ =>
      keeps_bind (hask _) fun r => ?_
    cases r with
    | none => exact keeps_pure _
    | some r =>
      refine keeps_ite (fun _ => ?_) fun _ => ?_
      · exact keeps_bind (events_modU fun _ _ => rfl) fun _ => keeps_bind events_ringLevelShow fun _ => keeps_pure _
      · exact keeps_bind (events_eventSend i code _ r) fun _ => keeps_pure _
  · refine ends_ite_neg (by simpa using hw) (ends_of_gives (gives_pure _ b) fun j => ?_)
    split
    next e => rw [eventCounted, if_neg (by rw [e]; exact hw)]
    · rfl

/-- An event counts once in each of the four records that want it. -/
theorem raise_counts (code : Nat) (data : List Byte) (b : Block) :
    Ends (raise code data) b fun _ c => ∀ i < 4, eventsOf c.u i = eventCounted code (eventsOf b.u i) := by
  have hto := ends_raiseTo (ask := poolTake Client.firmware 1) (fun _ => events_poolTake _ _) Client.firmware code data
  refine ends_bind (hto 0 b) fun _ b0 h0 => ends_bind (hto 1 b0) fun _ b1 h1 => ends_bind (hto 2 b1) fun _ b2 h2 => ends_bind (hto 3 b2) fun _ b3 h3 => ?_
  have hall : ∀ i < 4, eventsOf b3.u i = eventCounted code (eventsOf b.u i) := by
    intro i hi
    rw [h3, h2, h1, h0]
    interval_cases i <;> rfl
  split
  · exact ends_of_gives (gives_pure _ _) hall
  · exact ends_mono (ends_of_keeps events_eventDrop fun _ => rfl) fun _ c hc i hi => (hc i).trans (hall i hi)

end Sys2Proof.Machine
end

section
/-!
PROOF. Proofs/EncoderWatch.lean: the statement about stalls, rates and the lost timeout (R64, R66, R67).
-/
namespace Sys2Proof.Machine

theorem gives_unique {m : Op Unit} {b c d : Block} (h : Gives m b () c) (g : Gives m b () d) : c = d := by
  have hrun := (runOp_gives h).symm.trans (runOp_gives g)
  injection hrun

/-- Two accounts of how one operation ends. -/
theorem ends_and {m : Op Unit} {b : Block} {P Q : Unit → Block → Prop} (h : Ends m b P) (g : Ends m b Q) : Ends m b fun x c => P x c ∧ Q x c := by
  obtain ⟨_, c, hc, hp⟩ := h
  obtain ⟨_, d, hd, hq⟩ := g
  exact ⟨(), c, hc, hp, gives_unique hd hc ▸ hq⟩

/-! ### Rates -/

theorem held_rate : ∀ n < 16, (F.ENC_RATE_RATE n).Held := by decide

/-- ENC_RATE of lane `n`. -/
def Block.rate (b : Block) (n : Nat) : Nat := (F.ENC_RATE_RATE n).of (b.regs.get (R.ENC_RATE n))

/-- The rate that the second that ends gives lane `n`. -/
def Block.newRate (b : Block) (n : Nat) : Nat := if b.flag n 15 = 0 then min (16 * (b.lane n).fwdSecond) 0xFFFFFFFF else b.rate n

/-- What a lane's rate does not change of another lane `n`. -/
structure RateApart (n : Nat) (b c : Block) : Prop where
  wf : c.regs.wf = true
  rate : c.rate n = b.rate n
  lost : c.flag n 15 = b.flag n 15
  lane : c.lane n = b.lane n
  at_ : c.u.enc.rateAt = b.u.enc.rateAt

theorem ends_laneRate {b : Block} (hb : b.regs.wf = true) {n : Nat} (hn : n < 16) (x : Nat) : Ends (laneRate x) b fun _ c =>
    c.regs.wf = true ∧ c.u.enc.rateAt = b.u.enc.rateAt ∧ (x ≠ n → RateApart n b c) ∧ (x = n → c.rate n = b.newRate n) := by
  have hother : x ≠ n → ∀ v, ((b.setField (F.ENC_RATE_RATE x) v).rate n = b.rate n) := fun hx v =>
    congrArg (F.ENC_RATE_RATE n).of (setField_get_ne b (F.ENC_RATE_RATE x) v (by simp only [F.ENC_RATE_RATE, R.ENC_RATE]; omega))
  have hflag : ∀ v, (b.setField (F.ENC_RATE_RATE x) v).flag n 15 = b.flag n 15 := fun v =>
    congrArg (laneFlag n 15).of (setField_get_ne b (F.ENC_RATE_RATE x) v (by simp only [F.ENC_RATE_RATE, R.ENC_RATE, R.ENC_LSTAT]; omega))
  have hlane : x ≠ n → ∀ c : Block, (c.onLane x fun l => { l with fwdSecond := 0 }).lane n = c.lane n := fun hx c => updAt_getD_ne _ _ _ hx.symm
  by_cases hlost : b.flag x 15 = 0
  · refine ends_then (gives_bf_clear hlost) (ends_then (gives_getLane b x) (ends_then (gives_onlyIf_true rfl (gives_setField _ _ b))
      (ends_of_gives (gives_onLane x _ _) ⟨setField_wf hb _ _, rfl, fun hx => ?_, fun hx => ?_⟩)))
    · exact ⟨setField_wf hb _ _, hother hx _, hflag _, hlane hx _, rfl⟩
    · subst hx
      rw [Block.newRate, if_pos hlost]
      exact (setField_of_same hb (held_rate x hn) _).trans (Nat.mod_eq_of_lt (Nat.lt_of_le_of_lt (Nat.min_le_right _ _) (show 0xFFFFFFFF < 2 ^ 32 by decide)))
  · have hset : b.flag x 15 = 1 := by have := flag_lt b x 15; omega
    refine ends_then (gives_bf_set hset) (ends_then (gives_getLane b x) (ends_then (gives_onlyIf_false rfl)
      (ends_of_gives (gives_onLane x _ _) ⟨hb, rfl, fun hx => ⟨hb, rfl, rfl, hlane hx _, rfl⟩, fun hx => ?_⟩)))
    subst hx
    rw [Block.newRate, if_neg hlost]
    rfl

theorem RateApart.trans {n : Nat} {b c d : Block} (h : RateApart n b c) (g : RateApart n c d) : RateApart n b d :=
  ⟨g.wf, g.rate.trans h.rate, g.lost.trans h.lost, g.lane.trans h.lane, g.at_.trans h.at_⟩

theorem ends_laneRates_apart {n : Nat} (hn : n < 16) {l : List Nat} (hl : n ∉ l) {b : Block} (hb : b.regs.wf = true) :
    Ends (each laneRate l) b fun _ c => RateApart n b c :=
  ends_each (R := RateApart n b) (fun x hx _ hc => ends_mono (ends_laneRate hc.wf hn x) fun _ _ ⟨_, _, hother, _⟩ =>
    hc.trans (hother fun e => hl (e ▸ hx))) ⟨hb, rfl, rfl, rfl, rfl⟩

/-- Each lane of a list without repetition takes its rate. -/
theorem ends_laneRates {n : Nat} (hn : n < 16) {l : List Nat} (hnodup : l.Nodup) (hl : n ∈ l) {b : Block} (hb : b.regs.wf = true) :
    Ends (each laneRate l) b fun _ c => c.rate n = b.newRate n ∧ c.u.enc.rateAt = b.u.enc.rateAt := by
  induction l generalizing b with
  | nil => cases hl
  | cons x l ih =>
    obtain ⟨hx, hrest⟩ := List.nodup_cons.1 hnodup
    refine ends_bind (ends_laneRate hb hn x) fun _ c ⟨hwf, hat, hother, hsame⟩ => ?_
    by_cases e : x = n
    · refine ends_mono (ends_laneRates_apart hn (e ▸ hx) hwf) fun _ d hd => ⟨hd.rate.trans (hsame e), hd.at_.trans hat⟩
    · have hc := hother e
      refine ends_mono (ih hrest ((List.mem_cons.1 hl).resolve_left (Ne.symm e)) hwf) fun _ d ⟨hrate, hd⟩ => ⟨hrate.trans ?_, hd.trans hat⟩
      rw [Block.newRate, Block.newRate, hc.lost, hc.lane, hc.rate]

/-! ### The commands -/

section
variable {s : State} (hl : Live s) (hb : Canon s) {n : Nat} (hn : n < 16)
include hl hb hn

/-- A lane without strokes stalls (R64). -/
theorem laneStall_shows (hrun : s.fld (F.ENC_LCTL_RUN n) = 1) (hstalled : s.fld (F.ENC_LSTAT_STALLED n) = 0) (hms : s.fld (F.ENC_STALLT_STALLT n) ≠ 0)
    (hdue : max (s.lane n).lastStroke (s.lane n).runSince + s.fld (F.ENC_STALLT_STALLT n) * 1000000 ≤ s.dev.u.elapsed) :
    Does (.laneStall n) s fun t => t.fld (F.ENC_LSTAT_STALLED n) = 1 ∧ t.pos n = s.pos n ∧ t.lead n = s.lead n := by
  have hset := laneFrame_set hb (n := n) (l := [13]) (i := 13) (by simp) (by decide) 1
  obtain ⟨hpos, hlead⟩ := lane_counts hset hn
  have hcond : (decide (n < 16) && true && !false && decide (s.fld (F.ENC_STALLT_STALLT n) ≠ 0) &&
      decide (max (s.lane n).lastStroke (s.lane n).runSince + s.fld (F.ENC_STALLT_STALLT n) * 1000000 ≤ s.dev.u.elapsed)) = true := by
    simp [hn, hms, hdue]
  refine does_of_ends (m := opLaneStall n) rfl hl (ends_then (gives_bf_set hrun) (ends_then (gives_bf_clear hstalled) (ends_then (gives_gf _ _)
    (ends_then (gives_getLane _ _) (ends_then (gives_now _) (ends_onlyIf_true hcond (ends_then (gives_sb _ _ _) ?_)))))))
  refine ends_mono (ends_of_keeps (keeps_laneEvent (l := []) (n := n) Ev.encStall n) (within_refl (by exact hset.wf))) fun _ d hd => ?_
  obtain ⟨hp, hl⟩ := lane_counts hd hn
  exact ⟨(lane_flag hd hn (by simp)).trans (flag_setField hb (held_flags n hn 13 (by simp)) (by decide)), hp.trans hpos, hl.trans hlead⟩

/-- A second has passed (R66). -/
theorem encRateUpdate_shows (hdue : s.dev.u.enc.rateAt + 1000000000 ≤ s.dev.u.elapsed) : Does .encRateUpdate s fun t =>
    t.fld (F.ENC_RATE_RATE n) = s.dev.newRate n ∧ t.dev.u.enc.rateAt = s.dev.u.elapsed := by
  refine does_of_ends (m := opEncRateUpdate) rfl hl (ends_then (gives_units _) (ends_then (gives_now _) (ends_onlyIf_true (decide_eq_true hdue)
    (ends_then (gives_modEnc _ _) ?_))))
  exact ends_laneRates hn List.nodup_range (List.mem_range.2 hn) (by exact hb)

/-- A lane has stayed lost for too long (R67). -/
theorem encLostTimeout_shows {since : Nat} (hmode : s.mode = modeFlow) (hlost : (s.lane n).lostAt = some since) (hraised : (s.lane n).lostRaised = false)
    (hdue : max since s.dev.u.sys.flowSince + s.fld (F.ENC_SUBSTMAX_SUBSTMAX n) * 1000000000 ≤ s.dev.u.elapsed) :
    Does (.encLostTimeout n) s fun t => (t.lane n).lostRaised = true ∧ (s.fld F.SYS_HOLDCFG_ENCLOST = 1 → 2 ∈ t.dev.u.sys.causes) ∧
      t.pos n = s.pos n ∧ ∀ i < 4, eventsOf t.dev.u i = eventCounted Ev.encLostTimeout (eventsOf s.dev.u i) := by
  let raised := s.dev.onLane n fun l => { l with lostRaised := true }
  have hin : n < s.dev.u.enc.lanes.length := by
    by_contra hout
    rw [State.lane, List.getD_eq_default _ _ (Nat.le_of_not_lt hout)] at hlost
    cases hlost
  have hmark : (raised.lane n).lostRaised = true := congrArg EncLane.lostRaised (updAt_getD_same _ _ _ _ hin)
  have hcond : (decide (n < 16) && s.mode == modeFlow && !(s.lane n).lostRaised &&
      decide (max since s.dev.u.sys.flowSince + s.fld (F.ENC_SUBSTMAX_SUBSTMAX n) * 1000000000 ≤ s.dev.u.elapsed)) = true := by
    simp [hn, hmode, hraised, hdue]
  refine does_of_ends (m := opEncLostTimeout n) rfl hl (ends_then (gives_gf _ _) (ends_then (gives_gf _ _) (ends_then (gives_bf _ _)
    (ends_then (gives_getLane _ _) (ends_then (gives_units _) (ends_then (gives_now _) ?_))))))
  rw [show (s.dev.u.enc.lanes.getD n {}).lostAt = some since from hlost]
  refine ends_onlyIf_true hcond (ends_then (gives_onLane _ _ _) (ends_bind (ends_and (ends_link (m := laneEvent Ev.encLostTimeout n)
    (fun _ => link_raise _ _) (b := raised) hb) (raise_counts Ev.encLostTimeout _ raised)) fun _ c ⟨hw, hev⟩ => ?_))
  have hpos : c.pos n = s.pos n := by
    refine hw.s48 (fun _ => ?_) fun _ => ?_ <;>
    · simp only [linkBits, linkWindows, window, R.ENC_POSL, R.ENC_POSH, List.mem_cons, List.not_mem_nil, or_false]
      omega
  have henc : (linkKeep c.u).enc = (linkKeep raised.u).enc := congrArg Units.enc hw.units
  have hlane : (c.lane n).lostRaised = true := (congrArg (fun e : EncS => (e.lanes.getD n {}).lostRaised) henc).trans hmark
  by_cases hcfg : s.fld F.SYS_HOLDCFG_ENCLOST = 1
  · exact ends_onlyIf_true (bit_set hcfg) (ends_of_gives (gives_modU _ c) ⟨hlane, fun _ => mem_withCause 2 _, hpos, hev⟩)
  · exact ends_onlyIf (fun _ => ends_of_gives (gives_modU _ c) ⟨hlane, fun h => absurd h hcfg, hpos, hev⟩) fun _ =>
      ⟨hlane, fun h => absurd h hcfg, hpos, hev⟩

end

/-- A second expiry of one loss. -/
theorem gives_timeout_again {b : Block} {n : Nat} (h : (b.lane n).lostRaised = true) : Gives (opEncLostTimeout n) b () b := by
  refine gives_bind (gives_gf _ b) (gives_bind (gives_gf _ b) (gives_bind (gives_bf _ b) (gives_bind (gives_getLane b n) (gives_bind (gives_units b)
    (gives_bind (gives_now b) ?_)))))
  split
  · exact gives_pure () b
  · refine gives_onlyIf_false ?_
    rw [show (b.u.enc.lanes.getD n {}).lostRaised = true from h, Bool.not_true, Bool.and_false, Bool.false_and]

/-- Settles O7: a lane's rate is set by the one run of the second's work that takes it; an expiry marks its lane, counts in each session
that wants its event, and asserts its cause. -/
theorem encoderWatch : Obligations.EncoderWatch := by
  unfold Obligations.EncoderWatch
  refine ⟨?stall, ?rate, ?timeout, ?again⟩
  case stall => exact fun s n hl hb hn hrun hstalled hms hdue => laneStall_shows hl hb hn hrun hstalled hms hdue
  case rate => exact fun s n hl hb hn hdue => encRateUpdate_shows hl hb hn hdue
  case timeout =>
    intro s n since hl hb hn hmode hlost hraised hdue
    refine does_mono (encLostTimeout_shows hl hb hn hmode hlost hraised hdue) fun t ⟨hr, hc, hp, hev⟩ => ⟨hr, hc, hp, fun i hi hst hmask => ?_⟩
    have := hev i (List.mem_range.1 hi)
    rw [eventCounted, if_pos ⟨hst, hmask⟩] at this
    exact congrArg (fun x => x.2.2) this
  case again =>
    intro s n hl hraised
    exact does_nothing (m := opEncLostTimeout n) hl rfl (gives_timeout_again hraised)

end Sys2Proof.Machine
end

section
/-!
PROOF. Proofs/FramesStart.lean: how bursts and frames start, and the statement about it (R76, R89, R91, R99, R101, R110, R546).
-/
namespace Sys2Proof.Machine

/-! ### The plan latch -/

/-- The registers that the plan latch changes: the domains of the banks and TOMO_STAT.CALSTALE. -/
abbrev planBits (a j : Nat) : Prop := window a = 1 ∨ (a = R.TOMO_STAT ∧ 8 ≤ j ∧ j ≤ 11)

/-- The unit data that the plan latch keeps, as far as a start needs them: the times, and the front end's but for the latched plan. -/
def planKeep (u : Units) : Nat × Nat × TomoS := (u.elapsed, u.wall, { u.tomo with latched := none })

/-- A frame of the plan latch. -/
abbrev PlanFrame : Block → Block → Prop := Within planBits planKeep

section
variable {S : Prop} {b : Block}

/-- A bank's domain is switched (R604). -/
theorem keeps_domainSwitch {d : Nat} (hd : d < 32) (want : Bool) : Keeps S (PlanFrame b) (domainSwitch d want) := by
  have hw : window (domField d).reg = 1 := by simp only [window, domField, R.PWR_DOMSTAT]; omega
  refine keeps_bind keeps_units fun u => keeps_bind (keeps_bf _) fun was => keeps_bind (within_sb (Nat.le_refl _)
    (show d % 32 < 32 from Nat.mod_lt _ (by decide)) fun _ _ _ => .inl hw) fun _ => ?_
  refine keeps_bind (keeps_onlyIf fun _ => within_modU fun _ => rfl) fun _ => keeps_onlyIf fun h => ?_
  obtain ⟨-, hphy⟩ := Bool.and_eq_true_iff.1 h
  simp only [Bool.or_eq_true, beq_iff_eq] at hphy
  omega

end

/-- The frequencies and amplitudes of the plan registers. -/
def Block.planFreq (b : Block) : List Nat := (List.range 4).map fun t => (F.TOMO_TFREQ_FREQ t).of (b.regs.get (R.TOMO_TFREQ t))
def Block.planAmp (b : Block) : List Nat := (List.range 4).map fun t => (F.TOMO_TAMP_AMP t).of (b.regs.get (R.TOMO_TAMP t))

theorem gives_planRegs (b : Block) : Gives planRegs b (b.planFreq, b.planAmp) b := fun _ => rfl

theorem gives_bankEnable (b : Block) : Gives bankEnable b
    (F.TOMO_BANKENL_EN.of (b.regs.get R.TOMO_BANKENL) + F.TOMO_BANKENH_EN.of (b.regs.get R.TOMO_BANKENH) * 65536) b := fun _ => rfl

theorem gives_tomoS (b : Block) : Gives tomoS b b.u.tomo b := fun _ => rfl

/-- The plan latch takes the plan registers (R89). -/
theorem ends_planLatch {b : Block} (hb : b.regs.wf = true) (burst : Bool) : Ends (planLatch burst) b fun p c =>
    p.freq = b.planFreq ∧ p.amp = b.planAmp ∧ PlanFrame b c := by
  refine ends_then (gives_planRegs b) (ends_then (gives_bankEnable b) (ends_then (gives_gf _ b) (ends_then (gives_gf _ b) (ends_then (gives_now b) ?_))))
  refine ends_keeps (R := PlanFrame b) (keeps_each fun d hd => keeps_domainSwitch (List.mem_range.1 hd) _) (within_refl hb) fun _ c hc => ?_
  refine ends_then (gives_block c) (ends_then (gives_tomoS c) (ends_then (gives_setField _ _ c) (ends_then (gives_modTomo _ _)
    (ends_of_gives (gives_pure _ _) ⟨rfl, rfl, ?_⟩))))
  exact hc.trans ((within_setField hc.wf (f := F.TOMO_STAT_CALSTALE) (by decide) (by decide) _ fun j h0 h1 => .inr ⟨rfl, h0, h1⟩).trans
    (within_withU (setField_wf hc.wf _ _) rfl))

theorem planFrame_reg {b c : Block} (h : PlanFrame b c) {a : Nat} (hw : window a ≠ 1) (ha : a ≠ R.TOMO_STAT) : c.regs.get a = b.regs.get a :=
  h.reg fun _ hx => hx.elim hw fun hx => ha hx.1

/-! ### Whether a start is wanted and granted -/

theorem gives_pure_eq {α : Type} {x y : α} (h : x = y) (b : Block) : Gives (pure x) b y b := h ▸ gives_pure x b

theorem gives_baseMode (s : State) : Gives baseMode s.dev s.base s.dev := by
  refine gives_bind (gives_gf _ _) ?_
  by_cases h : s.mode = modeHold
  · rw [State.base, if_pos h]
    exact gives_ite_pos h (gives_gf _ _)
  · rw [State.base, if_neg h]
    exact gives_ite_neg h (gives_pure _ _)

/-- The answer reads registers and data alone. -/
theorem gives_tomoAllowed (s : State) : ∃ v, Gives tomoAllowed s.dev v s.dev ∧ (s.base ∈ [2, 3, 4, 6] → v = true) := by
  refine ⟨_, gives_bind (gives_baseMode s) (gives_bind (gives_units _) (gives_bind (gives_bf _ _) (gives_bind (gives_gf _ _) (gives_pure _ _)))), ?_⟩
  intro h
  simp only [List.mem_cons, List.not_mem_nil, or_false] at h
  rcases h with h | h | h | h <;> simp [h]

theorem gives_startWanted (s : State) : ∃ v, Gives startWanted s.dev v s.dev ∧ (FramesWanted s → v = true) := by
  obtain ⟨v, hv, hyes⟩ := gives_tomoAllowed s
  refine ⟨_, gives_bind (gives_bf _ _) (gives_bind hv (gives_bind (gives_tomoS _) (gives_pure _ _))), fun ⟨hrun, hmode⟩ => ?_⟩
  rw [hyes hmode, Bool.and_true, Bool.or_eq_true]
  exact hrun.imp bit_set id

theorem gives_startGranted (p : Plan) (b : Block) : Gives (startGranted p) b
    (planValid p.freq p.amp && (F.TOMO_STAT_GEOMOK.of (b.regs.get R.TOMO_STAT) != 0) && b.u.tomo.sweep.isNone) b :=
  gives_bind (gives_bf _ b) (gives_bind (gives_tomoS b) (gives_pure _ b))

theorem gives_aligned {s : State} {w : Nat} {blen : Bool} (h : Aligned s (if blen then 1152 else 1024) w) : Gives (alignedInstant w blen) s.dev true s.dev := by
  obtain ⟨hjoined, htick, hphase⟩ := h
  have hperiod : Gives framePeriod s.dev (s.fld F.TOMO_FPER_FPER) s.dev := by
    refine gives_bind (gives_gf _ _) (gives_bind (gives_gf _ _) (gives_bind (gives_units _) (gives_bind (gives_gf _ _) ?_)))
    rw [hjoined]
    exact gives_pure _ _
  exact gives_bind hperiod (gives_bind (gives_gf _ _) (gives_pure_eq (decide_eq_true ⟨htick, hphase⟩) _))

/-! ### Starts -/

theorem held_tomo : F.TOMO_STAT_RUNNING.Held ∧ F.TOMO_STAT_BURST.Held ∧ F.TOMO_STAT_STARTERR.Held ∧ F.TOMO_STARTERRCNT_CNT.Held ∧
    Counter64 R.TOMO_FSEQL R.TOMO_FSEQH := by decide

/-- The stamp of block `b`, but for its flags. -/
theorem gives_encStamp (b : Block) : ∃ st, Gives encStamp b st b ∧ st.mains = b.mains ∧ st.pos = (List.range 16).map b.pos ∧
    st.lead = (List.range 16).map b.lead :=
  ⟨_, gives_bind (gives_block b) (gives_bind (gives_mainsOf b) (gives_pure _ b)), rfl, rfl, rfl⟩

/-- The block in which frame `f` runs under its sequence number. -/
def Block.started (b : Block) (f : Frame) (single : Bool) : Block :=
  (((b.put64 R.TOMO_FSEQL R.TOMO_FSEQH f.fseq).setField F.TOMO_STAT_RUNNING 1).setField F.TOMO_STAT_BURST 0).withU
    { b.u with tomo := { b.u.tomo with single := b.u.tomo.single && !single, frame := some f } }

theorem withU_n64 (b : Block) (u : Units) (lo hi : Nat) : (b.withU u).n64 lo hi = b.n64 lo hi := rfl

theorem started_shows {b : Block} (hb : b.regs.wf = true) (f : Frame) (single : Bool) : (b.started f single).n64 R.TOMO_FSEQL R.TOMO_FSEQH = f.fseq % 2 ^ 64 ∧
    F.TOMO_STAT_RUNNING.of ((b.started f single).regs.get R.TOMO_STAT) = 1 ∧ F.TOMO_STAT_BURST.of ((b.started f single).regs.get R.TOMO_STAT) = 0 := by
  obtain ⟨hrun, hburst, -, -, hseq⟩ := held_tomo
  have h1 := put64_wf (lo := R.TOMO_FSEQL) (hi := R.TOMO_FSEQH) hb f.fseq
  have h2 := setField_wf h1 F.TOMO_STAT_RUNNING 1
  refine ⟨?_, ?_, setField_of_same h2 hburst 0⟩
  · rw [Block.started, withU_n64, n64_setField_ne _ _ (by decide) (by decide), n64_setField_ne _ _ (by decide) (by decide),
      put64_n64 hb hseq]
  · exact (setField_of_apart h2 hburst (g := F.TOMO_STAT_RUNNING) rfl (by decide) 0).trans (setField_of_same h1 hrun 1)

/-- The frame that starts at `instant` in block `b` with sequence number `q` and stamp `st`. -/
def Block.newFrame (b : Block) (instant : Nat) (p : Plan) (runs : List StepResult) (fs : List Nat) (single : Bool) (st : Stamp) (q : Nat) : Frame :=
  { plan := p, burst := false, step := 0, began := b.u.elapsed, burstRuns := runs, stamp := { st with wall := instant }, fseq := q,
    single := single, faulted := fs }

theorem gives_frameStarted (b : Block) (instant : Nat) (p : Plan) (runs : List StepResult) (fs : List Nat) (single : Bool) (st : Stamp) (q : Nat) :
    Gives (do
      wr64 R.TOMO_FSEQL R.TOMO_FSEQH q
      sb F.TOMO_STAT_RUNNING true
      sb F.TOMO_STAT_BURST false
      modTomo fun s => { s with single := s.single && !single, frame := some (b.newFrame instant p runs fs single st q) }) b ()
      (b.started (b.newFrame instant p runs fs single st q) single) :=
  gives_bind (gives_wr64 _ _ _ b) (gives_bind (gives_sb _ true _) (gives_bind (gives_sb _ false _) (gives_modTomo _ _)))

/-- A frame starts (R76, R99). -/
theorem gives_frameBegin (b : Block) (instant : Nat) (p : Plan) (runs : List StepResult) (fs : List Nat) (single : Bool) :
    ∃ st, Gives (frameBegin instant p runs fs single) b ()
      (b.started (b.newFrame instant p runs fs single st ((b.n64 R.TOMO_FSEQL R.TOMO_FSEQH + 1) % 2 ^ 64)) single) ∧ st.mains = b.mains ∧
      st.pos = (List.range 16).map b.pos ∧ st.lead = (List.range 16).map b.lead := by
  obtain ⟨st, hst, hshown⟩ := gives_encStamp b
  refine ⟨st, gives_bind hst (gives_bind (gives_now b) (gives_bind (gives_rd64 _ _ b) ?_)), hshown⟩
  exact gives_frameStarted b instant p runs fs single st _

/-- What block `c` shows of a start refused in block `b`. -/
structure StartRefused (b c : Block) : Prop where
  units : c.u = b.u
  fseq : c.n64 R.TOMO_FSEQL R.TOMO_FSEQH = b.n64 R.TOMO_FSEQL R.TOMO_FSEQH
  err : F.TOMO_STAT_STARTERR.of (c.regs.get R.TOMO_STAT) = 1
  count : F.TOMO_STARTERRCNT_CNT.of (c.regs.get R.TOMO_STARTERRCNT) = min (F.TOMO_STARTERRCNT_CNT.of (b.regs.get R.TOMO_STARTERRCNT) + 1) 0xFFFFFFFF

/-- A counter of 32 bits that stops at its top. -/
theorem sat32 (x : Nat) : satAdd (2 ^ 32 - 1) x 1 % 2 ^ 32 = min (x + 1) 0xFFFFFFFF := by
  unfold satAdd
  omega

theorem startRefuse_shows {b : Block} (hb : b.regs.wf = true) : Ends startRefuse b fun _ c => StartRefused b c := by
  obtain ⟨-, -, herr, hcnt, -⟩ := held_tomo
  have h1 := setField_wf hb F.TOMO_STAT_STARTERR 1
  refine ends_then (gives_sb _ true b) (ends_of_gives (gives_cntSat _ _ _) ⟨rfl, ?_, ?_, ?_⟩)
  · exact (n64_setField_ne _ _ (by decide) (by decide)).trans (n64_setField_ne _ _ (by decide) (by decide))
  · exact (congrArg F.TOMO_STAT_STARTERR.of (setField_get_ne _ F.TOMO_STARTERRCNT_CNT _ (by decide))).trans (setField_of_same hb herr 1)
  · have hkept : F.TOMO_STARTERRCNT_CNT.of ((b.setField F.TOMO_STAT_STARTERR 1).regs.get R.TOMO_STARTERRCNT) =
        F.TOMO_STARTERRCNT_CNT.of (b.regs.get R.TOMO_STARTERRCNT) := congrArg F.TOMO_STARTERRCNT_CNT.of (setField_get_ne b F.TOMO_STAT_STARTERR 1 (by decide))
    rw [← hkept]
    refine (setField_of_same h1 hcnt _).trans ?_
    exact sat32 _

/-- The plan latch keeps what a start shows of the column. -/
theorem planFrame_column {b c : Block} (h : PlanFrame b c) : c.n64 R.TOMO_FSEQL R.TOMO_FSEQH = b.n64 R.TOMO_FSEQL R.TOMO_FSEQH ∧ c.mains = b.mains ∧
    (List.range 16).map c.pos = (List.range 16).map b.pos ∧ (List.range 16).map c.lead = (List.range 16).map b.lead := by
  have hreg : ∀ a, window a ≠ 1 → a ≠ R.TOMO_STAT → c.regs.get a = b.regs.get a := fun a => planFrame_reg h
  have hn64 : ∀ lo hi, window lo ≠ 1 → lo ≠ R.TOMO_STAT → window hi ≠ 1 → hi ≠ R.TOMO_STAT → c.n64 lo hi = b.n64 lo hi := fun lo hi h1 h2 h3 h4 => by
    rw [Block.n64, Block.n64, hreg lo h1 h2, hreg hi h3 h4]
  refine ⟨hn64 _ _ (by decide) (by decide) (by decide) (by decide), hn64 _ _ (by decide) (by decide) (by decide) (by decide),
    List.map_congr_left fun n hn => congrArg (toSigned 48) (hn64 _ _ ?_ ?_ ?_ ?_), List.map_congr_left fun n hn => congrArg (toSigned 48) (hn64 _ _ ?_ ?_ ?_ ?_)⟩ <;>
  · rw [List.mem_range] at hn
    simp only [window, R.ENC_POSL, R.ENC_POSH, R.ENC_LEADL, R.ENC_LEADH, R.TOMO_STAT]
    omega

/-! ### The commands -/

/-- What state `t` shows of a frame that started in state `s`. -/
structure FrameShown (instant : Nat) (s t : State) (f : Frame) : Prop where
  frame : t.dev.u.tomo.frame = some f
  first : f.burst = false ∧ f.step = 0 ∧ f.fseq = (s.n64 R.TOMO_FSEQL R.TOMO_FSEQH + 1) % 2 ^ 64
  stamp : f.stamp.wall = instant ∧ f.stamp.mains = s.mains ∧ f.stamp.pos = (List.range 16).map s.pos ∧ f.stamp.lead = (List.range 16).map s.lead
  fseq : t.n64 R.TOMO_FSEQL R.TOMO_FSEQH = (s.n64 R.TOMO_FSEQL R.TOMO_FSEQH + 1) % 2 ^ 64
  running : t.fld F.TOMO_STAT_RUNNING = 1
  burst : t.fld F.TOMO_STAT_BURST = 0

/-- A frame that begins after the plan latch of state `s`. -/
theorem ends_frameBegin {s : State} {b : Block} (h : PlanFrame s.dev b) (instant : Nat) (p : Plan) (runs : List StepResult) (fs : List Nat)
    (single : Bool) : Ends (frameBegin instant p runs fs single) b fun _ c =>
      ∃ f, FrameShown instant s { s with dev := c } f ∧ f.plan = p ∧ f.burstRuns = runs := by
  obtain ⟨st, hgives, hmains, hpos, hlead⟩ := gives_frameBegin b instant p runs fs single
  obtain ⟨hseq, hmcnt, hposs, hleads⟩ := planFrame_column h
  obtain ⟨hshown, hrun, hburst⟩ := started_shows h.wf (b.newFrame instant p runs fs single st ((b.n64 R.TOMO_FSEQL R.TOMO_FSEQH + 1) % 2 ^ 64)) single
  rw [hseq] at hgives hshown hrun hburst
  refine ends_of_gives hgives ⟨_, ⟨rfl, ⟨rfl, rfl, rfl⟩, ⟨rfl, hmains.trans hmcnt, hpos.trans hposs, hlead.trans hleads⟩, ?_, hrun, hburst⟩, rfl, rfl⟩
  exact hshown.trans (Nat.mod_mod _ _)

theorem ends_onCore {k : Nat} {m : Op Unit} {b : Block} {Q : Unit → Block → Prop} (hk : bitAt (b.regs.get R.SYS_CORESTAT).toNat k = true)
    (h : Ends m b Q) : Ends (onCore k m) b Q := ends_then (gives_gbit _ k b) (ends_onlyIf_true hk h)

theorem gives_faulted (b : Block) : ∃ fs, Gives faultedElectrodes b fs b := ⟨_, gives_bind (gives_block b) (gives_pure _ b)⟩

/-- What the plan latch keeps of what a start asks for. -/
theorem planFrame_asked {b c : Block} (h : PlanFrame b c) :
    F.TOMO_STAT_GEOMOK.of (c.regs.get R.TOMO_STAT) = F.TOMO_STAT_GEOMOK.of (b.regs.get R.TOMO_STAT) ∧ c.u.tomo.sweep = b.u.tomo.sweep ∧
    c.u.tomo.frame = b.u.tomo.frame ∧
    F.TOMO_STARTERRCNT_CNT.of (c.regs.get R.TOMO_STARTERRCNT) = F.TOMO_STARTERRCNT_CNT.of (b.regs.get R.TOMO_STARTERRCNT) := by
  refine ⟨h.fld F.TOMO_STAT_GEOMOK fun j h0 h1 hx => ?_, congrArg (fun k => k.2.2.sweep) h.units, congrArg (fun k => k.2.2.frame) h.units,
    congrArg F.TOMO_STARTERRCNT_CNT.of (planFrame_reg h (by decide) (by decide))⟩
  rcases hx with hx | ⟨-, -, hx⟩
  · exact absurd hx (by decide)
  · exact absurd (Nat.le_trans h0 hx) (by decide)

/-- What grants a start that is asked for in state `s`. -/
abbrev Granted (s : State) : Prop := planValid s.planFreq s.planAmp = true ∧ s.fld F.TOMO_STAT_GEOMOK = 1 ∧ s.dev.u.tomo.sweep = none

/-- The plan latch, and then the start or its refusal. -/
theorem ends_latched {s : State} (hb : Canon s) (burst : Bool) {go : Plan → Op Unit} {Q : Unit → Block → Prop}
    (hgo : Granted s → ∀ p c, p.freq = s.planFreq → p.amp = s.planAmp → PlanFrame s.dev c → Ends (go p) c Q)
    (hno : ¬Granted s → ∀ c, PlanFrame s.dev c → Ends startRefuse c Q) :
    Ends (do let p ← planLatch burst; let g ← startGranted p; if g then go p else startRefuse) s.dev Q := by
  refine ends_bind (ends_planLatch hb burst) fun p c ⟨hf, ha, hw⟩ => ends_then (gives_startGranted p c) ?_
  obtain ⟨hgeom, hsweep, -, -⟩ := planFrame_asked hw
  have hiff : (planValid p.freq p.amp && (F.TOMO_STAT_GEOMOK.of (c.regs.get R.TOMO_STAT) != 0) && c.u.tomo.sweep.isNone) = true ↔ Granted s := by
    have hbit : s.fld F.TOMO_STAT_GEOMOK < 2 := Nat.mod_lt _ (by decide)
    rw [Bool.and_eq_true, Bool.and_eq_true, hf, ha, hgeom, hsweep, bne_iff_ne, Option.isNone_iff_eq_none, and_assoc]
    refine and_congr Iff.rfl (and_congr ?_ Iff.rfl)
    show s.fld F.TOMO_STAT_GEOMOK ≠ 0 ↔ _
    omega
  by_cases hg : Granted s
  · exact ends_ite_pos (hiff.2 hg) (hgo hg p c hf ha hw)
  · exact ends_ite_neg (fun h => hg (hiff.1 h)) (hno hg c hw)

section
variable {s : State} (hl : Live s) (hb : Canon s) (hcore : CoreUp s 4)
include hl hb hcore

/-- FRAME_START at an aligned instant without a burst comes down to the plan latch and what follows it. -/
theorem does_frameStart (hwant : FramesWanted s) (hblen : s.fld F.TOMO_CTL_BLEN = 0) (hal : Aligned s 1024 s.dev.u.wall) (hframe : s.dev.u.tomo.frame = none)
    {Q : State → Prop}
    (hgo : Granted s → ∀ (p : Plan) fs single c, p.freq = s.planFreq → p.amp = s.planAmp → PlanFrame s.dev c →
      Ends (frameBegin (s.dev.u.wall / 10000 * 10000) p [] fs single) c fun _ d => Q { s with dev := d })
    (hno : ¬Granted s → ∀ c, PlanFrame s.dev c → Ends startRefuse c fun _ d => Q { s with dev := d }) : Does .frameStart s Q := by
  obtain ⟨v, hv, hyes⟩ := gives_startWanted s
  obtain ⟨fs, hfs⟩ := gives_faulted s.dev
  rw [hyes hwant] at hv
  refine does_of_ends (m := opFrameStart) rfl hl (ends_onCore hcore (ends_then (gives_wall _) (ends_then (gives_bf_clear hblen) (ends_then hv
    (ends_then hfs (ends_then (gives_tomoS _) ?_))))))
  rw [hframe]
  exact ends_then (gives_aligned (blen := false) hal) (ends_onlyIf_true rfl (ends_latched hb false (fun hg p c hf ha hw => hgo hg p fs _ c hf ha hw) hno))

theorem frameStart_starts (hwant : FramesWanted s) (hblen : s.fld F.TOMO_CTL_BLEN = 0) (hal : Aligned s 1024 s.dev.u.wall)
    (hframe : s.dev.u.tomo.frame = none) (hgrant : Granted s) : Does .frameStart s fun t => ∃ f,
      FrameShown (s.dev.u.wall / 10000 * 10000) s t f ∧ f.plan.freq = s.planFreq ∧ f.plan.amp = s.planAmp := by
  refine does_frameStart hl hb hcore hwant hblen hal hframe (fun _ p fs single c hf ha hw => ?_) fun h => absurd hgrant h
  exact ends_mono (ends_frameBegin hw _ p [] fs single) fun _ d ⟨f, hshown, hp, _⟩ => ⟨f, hshown, hp ▸ hf, hp ▸ ha⟩

theorem frameStart_refuses (hwant : FramesWanted s) (hblen : s.fld F.TOMO_CTL_BLEN = 0) (hal : Aligned s 1024 s.dev.u.wall)
    (hframe : s.dev.u.tomo.frame = none) (hrefuse : ¬Granted s) : Does .frameStart s fun t => t.dev.u.tomo.frame = none ∧
      t.fld F.TOMO_STAT_STARTERR = 1 ∧ t.fld F.TOMO_STARTERRCNT_CNT = min (s.fld F.TOMO_STARTERRCNT_CNT + 1) 0xFFFFFFFF ∧
      t.n64 R.TOMO_FSEQL R.TOMO_FSEQH = s.n64 R.TOMO_FSEQL R.TOMO_FSEQH := by
  refine does_frameStart hl hb hcore hwant hblen hal hframe (fun h => absurd h hrefuse) fun _ c hw => ?_
  obtain ⟨hseq, -⟩ := planFrame_column hw
  obtain ⟨-, -, hf, hcnt⟩ := planFrame_asked hw
  exact ends_mono (startRefuse_shows hw.wf) fun _ d hd => ⟨(congrArg (·.tomo.frame) hd.units).trans (hf.trans hframe), hd.err,
    hd.count.trans (congrArg (fun x => min (x + 1) 0xFFFFFFFF) hcnt), hd.fseq.trans hseq⟩

/-- The frame that follows a burst (R99). -/
theorem frameStart_follows {f : Frame} (hframe : s.dev.u.tomo.frame = some f) (hburst : f.burst = true) (hstep : f.step = 32)
    (hwall : f.wallAt ≤ s.dev.u.wall) (hdue : f.began + f.step * 40000 ≤ s.dev.u.elapsed) : Does .frameStart s fun t => ∃ instant g,
      FrameShown instant s t g ∧ g.plan = f.plan ∧ g.burstRuns = f.burstRuns := by
  obtain ⟨v, hv, -⟩ := gives_startWanted s
  obtain ⟨fs, hfs⟩ := gives_faulted s.dev
  refine does_of_ends (m := opFrameStart) rfl hl (ends_onCore hcore (ends_then (gives_wall _) (ends_then (gives_bf _ _) (ends_then hv
    (ends_then hfs (ends_then (gives_tomoS _) ?_))))))
  rw [hframe]
  have hcond : (f.burst && decide (f.step = 32 ∧ f.wallAt ≤ s.dev.u.wall) && decide (f.began + f.step * 40000 ≤ s.dev.u.elapsed)) = true := by
    rw [hburst, decide_eq_true hdue, decide_eq_true ⟨hstep, hwall⟩]
    rfl
  refine ends_then (gives_bind (gives_now _) (gives_pure _ _)) (ends_onlyIf_true hcond ?_)
  exact ends_mono (ends_frameBegin (within_refl hb) _ _ _ _ _) fun _ d ⟨g, hg⟩ => ⟨_, g, hg⟩

/-- A burst that starts 1.28 ms before an aligned instant (R89, R99). -/
theorem burstStart_starts (hwant : FramesWanted s) (hblen : s.fld F.TOMO_CTL_BLEN = 1) (hal : Aligned s 1152 (s.dev.u.wall + 1280000))
    (hframe : s.dev.u.tomo.frame = none) (hgrant : Granted s) : Does .burstStart s fun t => ∃ f, t.dev.u.tomo.frame = some f ∧ f.burst = true ∧
      f.step = 0 ∧ f.plan.freq = s.planFreq ∧ f.plan.amp = s.planAmp ∧ f.began = s.dev.u.elapsed ∧
      f.wallAt = (s.dev.u.wall + 1280000) / 10000 * 10000 ∧ t.fld F.TOMO_STAT_RUNNING = 1 ∧ t.fld F.TOMO_STAT_BURST = 1 ∧
      t.n64 R.TOMO_FSEQL R.TOMO_FSEQH = s.n64 R.TOMO_FSEQL R.TOMO_FSEQH := by
  obtain ⟨v, hv, hyes⟩ := gives_startWanted s
  obtain ⟨fs, hfs⟩ := gives_faulted s.dev
  obtain ⟨hrun, hburst, -⟩ := held_tomo
  rw [hyes hwant] at hv
  refine does_of_ends (m := opBurstStart) rfl hl (ends_onCore hcore (ends_then (gives_wall _) (ends_then (gives_bf_set hblen)
    (ends_then (gives_aligned (blen := true) hal) (ends_then hv (ends_then (gives_tomoS _) (ends_then hfs (ends_then (gives_now _)
      (ends_onlyIf_true (by rw [hframe]; rfl) ?_)))))))))
  refine ends_latched hb true (fun _ p c hf ha hw => ?_) fun h => absurd hgrant h
  obtain ⟨hseq, -⟩ := planFrame_column hw
  have h1 := setField_wf hw.wf F.TOMO_STAT_RUNNING 1
  refine ends_then (gives_modTomo c _) (ends_then (gives_sb _ true _) (ends_of_gives (gives_sb _ true _)
    ⟨_, rfl, rfl, rfl, hf, ha, rfl, rfl, ?_, setField_of_same h1 hburst 1, ?_⟩))
  · exact (setField_of_apart h1 hburst (g := F.TOMO_STAT_RUNNING) rfl (by decide) 1).trans (setField_of_same hw.wf hrun 1)
  · exact (n64_setField_ne _ _ (by decide) (by decide)).trans ((n64_setField_ne _ _ (by decide) (by decide)).trans hseq)

end

/-- Settles O10: a start is the plan latch followed by a grant or a refusal, and the plan latch keeps what the stamp takes. -/
theorem framesStart : Obligations.FramesStart := by
  unfold Obligations.FramesStart
  refine ⟨?start, ?refuse, ?follow, ?burst⟩
  case start =>
    intro s hl hb hwant hblen hal hframe hvalid hgeom hsweep hcore
    refine does_mono (frameStart_starts hl hb hcore hwant hblen hal hframe ⟨hvalid, hgeom, hsweep⟩) fun t ⟨f, hshown, hf, ha⟩ => ?_
    obtain ⟨hfst, hstep, hseq⟩ := hshown.first
    obtain ⟨hwall, hmains, hpos, hlead⟩ := hshown.stamp
    rw [hshown.frame, Option.map_some, Option.map_some, hfst, hstep, hseq, hf, ha, hwall, hmains, hpos, hlead]
    exact ⟨rfl, rfl, hshown.fseq, hshown.running, hshown.burst⟩
  case refuse =>
    intro s hl hb hwant hblen hal hframe hrefuse hcore
    refine frameStart_refuses hl hb hcore hwant hblen hal hframe fun ⟨hvalid, hgeom, hsweep⟩ => ?_
    rcases hrefuse with h | h | h
    · exact absurd (hvalid.symm.trans h) (by decide)
    · exact absurd (hgeom.symm.trans h) (by decide)
    · exact h hsweep
  case follow =>
    intro s f hl hb hframe hburst hstep hwall hdue hcore
    refine does_mono (frameStart_follows hl hb hcore hframe hburst hstep hwall hdue) fun t ⟨_, g, hshown, hplan, hruns⟩ => ?_
    obtain ⟨hfst, hzero, hseq⟩ := hshown.first
    rw [hshown.frame, Option.map_some, hfst, hzero, hseq, hplan, hruns]
    exact ⟨rfl, hshown.running, hshown.burst⟩
  case burst =>
    intro s hl hb hwant hblen hal hframe hvalid hgeom hsweep hcore
    refine does_mono (burstStart_starts hl hb hcore hwant hblen hal hframe ⟨hvalid, hgeom, hsweep⟩)
      fun t ⟨f, hf, hburst, hstep, hfreq, hamp, hbegan, hwall, hrun, hbit, hseq⟩ => ?_
    rw [hf, Option.map_some, hburst, hstep, hfreq, hamp, hbegan, hwall]
    exact ⟨rfl, hrun, hbit, hseq⟩

end Sys2Proof.Machine
end

section
/-!
PROOF. Proofs/Packets.lean: what a host packet does on its way (R357, R362, R379 to R383): buffers of the host's own pool are taken and
given back, session records change, and a completion leaves. `Telling` says what each step keeps, and what the record, the link and the
count of packets hold.
-/
namespace Sys2Proof.Machine

/-- The bits of the pools' registers, and of the count of late completions. -/
abbrev lateBits (a _j : Nat) : Prop := a = R.CMD_LATECNT ∨ a = R.CMD_STAT ∨ window a = 0x11

/-- Those, and the bits of the count of packets. -/
abbrev tellBits (a j : Nat) : Prop := a = R.CMD_RXCNT ∨ lateBits a j

/-- The units' data without what a command that only tells may change. -/
def tellKeep (u : Units) : Units × List NetLink := (linkKeep u, u.net.links.map linkBare)

/-- From `b0` to `b` only what telling changes has changed; record `i` is `z`, `o` has left, and `n` packets have been counted. -/
structure Telling (b0 : Block) (i : Nat) (z : Session) (o : List Out) (n : Nat) (b : Block) : Prop where
  frame : Within tellBits tellKeep b0 b
  len : i < b.u.cmd.sessions.length
  sess : b.u.cmd.sessions.getD i {} = z
  out : b.u.out = o
  count : F.CMD_RXCNT_CNT.of (b.regs.get R.CMD_RXCNT) = n

/-! ### Links and their working copies -/

theorem linkBare_settle (t : Nat) (k : NetLink) : linkBare (linkSettle t k) = linkBare k := by
  unfold linkSettle
  split
  · rfl
  · split <;> rfl

theorem linkBare_copyPut (x : CopyKey × Nat) (k : NetLink) : linkBare (copyPut x k) = linkBare k := by
  unfold copyPut
  dsimp only
  split
  · rfl
  · split <;> rfl

theorem map_updAt {α β : Type} {g : α → β} {f : α → α} (hf : ∀ x, g (f x) = g x) (l : List α) (i : Nat) : (updAt l i f).map g = l.map g := by
  induction l generalizing i with
  | nil => rfl
  | cons x l ih => cases i <;> simp [updAt, hf, ih]

theorem getD_of_map {α β : Type} {g : α → β} {l m : List α} (h : m.map g = l.map g) (i : Nat) (d : α) : g (m.getD i d) = g (l.getD i d) := by
  have hi := congrArg (fun k => k.getD i (g d)) h
  simpa only [List.getD_map] using hi

section
variable {b0 b c : Block} {i n : Nat} {z : Session} {o : List Out}

/-- Buffers and the count of late completions change no unit's data. -/
theorem Telling.regs (h : Telling b0 i z o n b) (hw : Within lateBits id b c) : Telling b0 i z o n c := by
  have hu : c.u = b.u := hw.units
  refine ⟨h.frame.trans (hw.mono (fun a j => Or.inr) fun u v e => congrArg tellKeep e), by rw [hu]; exact h.len, by rw [hu]; exact h.sess,
    by rw [hu]; exact h.out, ?_⟩
  exact (hw.fld F.CMD_RXCNT_CNT fun _ _ _ => show ¬ lateBits R.CMD_RXCNT 0 by decide).trans h.count

theorem Telling.pool (h : Telling b0 i z o n b) (q : PoolS) : Telling b0 i z o n (b.withU { b.u with pool := q }) :=
  ⟨h.frame.trans (within_withU h.frame.wf rfl), h.len, h.sess, h.out, h.count⟩

theorem Telling.cmd (h : Telling b0 i z o n b) (q : CmdS) (hs : q.sessions = b.u.cmd.sessions) : Telling b0 i z o n (b.withU { b.u with cmd := q }) :=
  ⟨h.frame.trans (within_withU h.frame.wf rfl), hs ▸ h.len, hs ▸ h.sess, h.out, h.count⟩

theorem Telling.links (h : Telling b0 i z o n b) {l : List NetLink} (hl : l.map linkBare = b.u.net.links.map linkBare) :
    Telling b0 i z o n (b.withU { b.u with net := { b.u.net with links := l } }) :=
  ⟨h.frame.trans (within_withU h.frame.wf (Prod.ext rfl hl)), h.len, h.sess, h.out, h.count⟩

theorem Telling.mod (h : Telling b0 i z o n b) (f : Session → Session) :
    Telling b0 i (f z) o n (b.withU { b.u with cmd := { b.u.cmd with sessions := updAt b.u.cmd.sessions i f } }) := by
  refine ⟨h.frame.trans (within_withU h.frame.wf rfl), ?_, ?_, h.out, h.count⟩
  · exact (updAt_length _ _ _).symm ▸ h.len
  · exact (updAt_getD_same _ _ _ _ h.len).trans (congrArg f h.sess)

theorem tells_modSess (h : Telling b0 i z o n b) (f : Session → Session) : Ends (modSess i f) b fun _ => Telling b0 i (f z) o n :=
  ends_of_gives (gives_modSess b i f) (h.mod f)

theorem gives_record (h : Telling b0 i z o n b) : Gives (getSess i) b z b := h.sess ▸ gives_getSess b i

/-! ### Buffers -/

theorem late_poolUse (k : Nat) : Keeps False (Within lateBits id b) (poolUse k) := by
  refine keeps_bind keeps_units fun u => keeps_bind (keeps_gf _) fun peak => keeps_onlyIf fun hk => ?_
  have hk : k < 5 := of_decide_eq_true hk
  have huse : window (R.POOL_USE k) = 0x11 := by simp only [window, R.POOL_USE]; omega
  have htalon : window (R.POOL_TUSE k) = 0x11 := by simp only [window, R.POOL_TUSE]; omega
  have store : ∀ {f : RF} {v : Nat}, f.lo ≤ f.hi → f.hi < 32 → window f.reg = 0x11 → Keeps False (Within lateBits id b) (sf f v) :=
    fun hlo hhi hw => within_sf hlo hhi fun _ _ _ => .inr (.inr hw)
  exact keeps_bind (store (Nat.zero_le _) (show 15 < 32 by decide) huse) fun _ => keeps_bind (store (show 16 ≤ 31 by decide) (show 31 < 32 by decide) huse) fun _ =>
    store (Nat.zero_le _) (show 7 < 32 by decide) htalon

/-- The data with `k` more buffers of the host's own pool taken. -/
def Units.lent (u : Units) (k : Nat) : Units := { u with pool := { u.pool with privUsed := updAt u.pool.privUsed Client.host (· + k) } }

/-- The host's own pool serves a request that it can (R562). -/
theorem ends_poolAsk (hb : b.regs.wf = true) (hflush : (b.u.net.links.getD 0 {}).flush = false) (many : Bool) {k : Nat}
    (hpriv : privHolds b.u Client.host k = true) :
    Ends (poolBeside many Client.host k) b fun r c => r = some ⟨Client.host, 0, k⟩ ∧ Within lateBits id (b.withU (b.u.lent k)) c := by
  have htake : Ends (takePriv Client.host k) b fun r c => r = some ⟨Client.host, 0, k⟩ ∧ Within lateBits id (b.withU (b.u.lent k)) c :=
    ends_then (gives_modU _ b) (ends_keeps (late_poolUse _) (within_refl hb) fun _ c hc => ends_of_gives (gives_pure _ c) ⟨rfl, hc⟩)
  have hsettle : Ends (poolSettle many Client.host k) b fun r c => r = some ⟨Client.host, 0, k⟩ ∧ Within lateBits id (b.withU (b.u.lent k)) c :=
    ends_then (gives_units b) (ends_ite_pos hpriv htake)
  exact ends_then (gives_units b) (ends_ite_neg (by rw [hflush]; exact Bool.false_ne_true) hsettle)

theorem tells_give (h : Telling b0 i z o n b) (k : Nat) : Ends (poolGive (some ⟨Client.host, 0, k⟩)) b fun _ => Telling b0 i z o n := by
  simp only [poolGive, ↓reduceIte]
  refine ends_then (gives_modU _ b) ?_
  exact ends_mono (ends_of_keeps (late_poolUse _) (within_refl h.frame.wf)) fun _ c hc => (h.pool _).regs hc

/-- Buffers that no recovery lent stay with their holder. -/
theorem gives_recoveryBack (k : Nat) (b : Block) : Gives (recoveryBack (some ⟨Client.host, 0, k⟩)) b (some ⟨Client.host, 0, k⟩) b := fun _ => rfl

/-! ### What can leave -/

/-- A frame to `ip` can leave on the active host port (R357, R513). -/
structure Sends (b : Block) (ip : Nat) : Prop where
  on : (domField (128 + (F.NET_LSTAT_ACTIVE 0).of (b.regs.get (R.NET_LSTAT 0)))).of
    (b.regs.get (domField (128 + (F.NET_LSTAT_ACTIVE 0).of (b.regs.get (R.NET_LSTAT 0)))).reg) = 1
  want : (b.u.net.links.getD 0 {}).want = false
  gap : (b.u.net.links.getD 0 {}).gap = false
  flush : (b.u.net.links.getD 0 {}).flush = false
  loss : b.u.pwr.loss = none
  hop : (b.regs.get R.CMD_IP).toNat / 2 ^ (32 - F.CMD_PFX_PFX.of (b.regs.get R.CMD_PFX)) = ip / 2 ^ (32 - F.CMD_PFX_PFX.of (b.regs.get R.CMD_PFX)) ∨
    b.regs.get R.CMD_GW ≠ 0

theorem of_one_lt {f : RF} (hf : f.hi = f.lo) (w : Word) : f.of w < 2 := by
  rw [RF.of, bits, hf, Nat.add_sub_cancel_left]
  exact Nat.mod_lt _ (by decide)

theorem gives_portOn {ip : Nat} (h : Sends b ip) : Gives (domainOn (128 + (F.NET_LSTAT_ACTIVE 0).of (b.regs.get (R.NET_LSTAT 0)))) b true b :=
  gives_bf_set h.on

theorem gives_canSend {ip : Nat} (h : Sends b ip) : Gives (canSend ip) b true b := by
  have hup : Gives portUp b true b := by
    refine gives_bind (gives_units b) (gives_bind (gives_gf _ b) (gives_bind (gives_portOn h) (gives_pure_eq ?_ b)))
    simp only [h.want, h.gap, h.flush, h.loss, Bool.not_false, Bool.and_self]
  have hhop : ∃ x, Gives (nextHop ip) b (some x) b := by
    by_cases hown : (b.regs.get R.CMD_IP).toNat / 2 ^ (32 - F.CMD_PFX_PFX.of (b.regs.get R.CMD_PFX)) = ip / 2 ^ (32 - F.CMD_PFX_PFX.of (b.regs.get R.CMD_PFX))
    · exact ⟨_, gives_bind (gives_rd _ b) (gives_bind (gives_rd _ b) (gives_bind (gives_gf _ b) (gives_ite_pos hown (gives_pure _ b))))⟩
    · exact ⟨_, gives_bind (gives_rd _ b) (gives_bind (gives_rd _ b) (gives_bind (gives_gf _ b) (gives_ite_neg hown
        (gives_ite_neg (h.hop.resolve_left hown) (gives_pure _ b)))))⟩
  obtain ⟨x, hx⟩ := hhop
  exact gives_bind hx (gives_bind hup (gives_pure _ b))

/-- What telling changes does not bar the port. -/
theorem Sends.told {ip : Nat} (h : Sends b ip) (hw : Within tellBits tellKeep b c) : Sends c ip := by
  have hk : linkKeep c.u = linkKeep b.u := congrArg Prod.fst hw.units
  have hl : linkBare (c.u.net.links.getD 0 {}) = linkBare (b.u.net.links.getD 0 {}) := getD_of_map (congrArg Prod.snd hw.units) 0 {}
  have hreg : ∀ a, a ≠ R.CMD_RXCNT → a ≠ R.CMD_LATECNT → a ≠ R.CMD_STAT → window a ≠ 0x11 → c.regs.get a = b.regs.get a :=
    fun a h1 h2 h3 h4 => hw.reg fun _ x => x.elim h1 fun y => y.elim h2 fun w => w.elim h3 h4
  have hact : c.regs.get (R.NET_LSTAT 0) = b.regs.get (R.NET_LSTAT 0) := hreg _ (by decide) (by decide) (by decide) (by decide)
  have hdom : ∀ d < 130, c.regs.get (domField d).reg = b.regs.get (domField d).reg := by
    intro d hd
    have hr : (domField d).reg = 0x10040 + d / 32 * 4 := rfl
    refine hreg _ ?_ ?_ ?_ ?_ <;> simp only [hr, R.CMD_RXCNT, R.CMD_LATECNT, R.CMD_STAT, window] <;> omega
  refine ⟨?_, (congrArg NetLink.want hl).trans h.want, (congrArg NetLink.gap hl).trans h.gap, (congrArg NetLink.flush hl).trans h.flush, ?_, ?_⟩
  · rw [hact, hdom _ (Nat.add_lt_add_left (of_one_lt rfl _) 128)]
    exact h.on
  · exact (congrArg (fun u : Units => u.pwr.loss) hk).trans h.loss
  · rw [hreg R.CMD_IP (by decide) (by decide) (by decide) (by decide), hreg R.CMD_PFX (by decide) (by decide) (by decide) (by decide),
      hreg R.CMD_GW (by decide) (by decide) (by decide) (by decide)]
    exact h.hop

/-! ### A completion leaves -/

theorem tells_seqNext (h : Telling b0 i z o n b) : Ends (seqNext i) b fun _ => Telling b0 i { z with txSeq := (z.txSeq + 1) % 2 ^ 32 } o n := by
  refine ends_then (gives_record h) (ends_bind (tells_modSess h _) fun _ c hc => ?_)
  refine ends_of_gives (gives_modLink c 0 _) (hc.links (map_updAt (fun k => ?_) _ _))
  rw [linkBare_copyPut, linkBare_settle]

/-- What a packet that leaves writes in a record: its own takes the packet's sequence number. -/
abbrev sentBy (p : Pkt) (s : Session) : Session := if s.st ≠ .free ∧ s.sid = p.session then { s with sent := p.seq } else s

theorem sentBy_eq (p : Pkt) (z : Session) : sentBy p z = { z with sent := if z.st ≠ .free ∧ z.sid = p.session then p.seq else z.sent } := by
  unfold sentBy
  split <;> rfl

theorem Telling.map (h : Telling b0 i z o n b) {g : Session → Session} {z' : Session} (hz : g z = z') :
    Telling b0 i z' o n (b.withU { b.u with cmd := { b.u.cmd with sessions := b.u.cmd.sessions.map g } }) := by
  have hlen := h.len
  have hsess := h.sess
  rw [List.getD_eq_getElem _ _ hlen] at hsess
  refine ⟨h.frame.trans (within_withU h.frame.wf rfl), by simpa using hlen, ?_, h.out, h.count⟩
  show (b.u.cmd.sessions.map g).getD i {} = z'
  rw [List.getD_eq_getElem _ _ (by simpa using hlen), List.getElem_map, hsess, hz]

theorem Telling.emitted (h : Telling b0 i z o n b) (x : Out) : Telling b0 i z (o ++ [x]) n (b.withU { b.u with out := b.u.out ++ [x] }) :=
  ⟨h.frame.trans (within_withU h.frame.wf rfl), h.len, h.sess, congrArg (· ++ [x]) h.out, h.count⟩

theorem tells_emitPkt (h : Telling b0 i z o n b) (p : Pkt) :
    Ends (emitPkt p) b fun _ c => ∃ v d, Telling b0 i { z with sent := v } (o ++ [.packet p d]) n c := by
  have hsent := (h.map (sentBy_eq p z)).emitted (.packet p (p.datagram (b.regs.get R.CMD_IP).toNat))
  exact ends_then (gives_rd _ b) (ends_then (gives_modU _ b) (ends_of_gives (gives_emit _ _) ⟨_, _, hsent⟩))

theorem tells_lateCheck (h : Telling b0 i z o n b) (d : Option Nat) : Ends (lateCheck d) b fun _ => Telling b0 i z o n := by
  have hkeep : Keeps False (Within lateBits id b) (lateCheck d) := by
    refine keeps_bind keeps_now fun t => ?_
    cases d with
    | none => exact keeps_pure ()
    | some d => exact keeps_onlyIf fun _ => keeps_bind (within_cntSat (by decide) (by decide) fun _ _ _ => .inl rfl) fun _ =>
        within_sb (by decide) (by decide) fun _ _ _ => .inr (.inl rfl)
  exact ends_mono (ends_of_keeps hkeep (within_refl h.frame.wf)) fun _ c hc => h.regs hc

/-- The packet that completes the command of tag word `tagw` (R359, R383). -/
def Session.completion (z : Session) (tagw op status : Nat) (payload : List Byte) (w : Nat) : Pkt :=
  ⟨z.ip, z.port, z.hop, 3, z.sid, (z.txSeq + 1) % 2 ^ 32, tagw, op, status, payload, w⟩

theorem tagIn_none {z : Session} {tagw : Nat} (h : ∀ x ∈ z.tags, tagOf x.tagw ≠ tagOf tagw) : tagIn z tagw = none :=
  List.find?_eq_none.mpr fun x hx => by simpa using h x hx

/-- The completion `p` of the command of tag word `tagw` has left and is held, and the tag is free (R379, R382): record `z` has become `z'`. -/
structure Finished (tagw : Nat) (p : Pkt) (z z' : Session) : Prop where
  h : z'.h = z.h
  taken : z'.lastTaken = z.lastTaken
  free : tagIn z' tagw = none
  held : ∃ x ∈ z'.held, x.tag = tagOf tagw ∧ x.pkt = p

theorem tells_completionSent (h : Telling b0 i z o n b) {tagw k : Nat} {t : OutTag} (ht : z.tags.find? (fun x => tagOf x.tagw = tagOf tagw) = some t)
    (hres : t.reserve = some ⟨Client.host, 0, k⟩) (p : Pkt) :
    Ends (completionSent i tagw p) b fun _ c => ∃ z', Finished tagw p z z' ∧ Telling b0 i z' o n c := by
  refine ends_then (gives_record h) ?_
  simp only [ht]
  refine ends_then (gives_now b) (ends_then (hres ▸ gives_recoveryBack k b) ?_)
  exact ends_mono (tells_modSess h _) fun _ c hc => ⟨{ z with tags := z.tags.filter fun x => tagOf x.tagw ≠ tagOf tagw, held := z.held ++ [⟨tagOf tagw, p, b.u.elapsed, t.reserve⟩] },
    ⟨rfl, rfl, tagIn_none fun x hx => of_decide_eq_true (List.mem_filter.mp hx).2, _, List.mem_append_right _ (List.mem_singleton_self _), rfl, rfl⟩, hres ▸ hc⟩

theorem tells_sendStamped (h : Telling b0 i z o n b) (hs : Sends b0 z.ip) (hq : z.queue = []) {tagw op k : Nat} {t : OutTag}
    (ht : z.tags.find? (fun x => tagOf x.tagw = tagOf tagw) = some t) (hres : t.reserve = some ⟨Client.host, 0, k⟩) (hop : op ≠ 3) (w status : Nat)
    (payload : List Byte) (d : Option Nat) :
    Ends (sendStamped w i 3 tagw op status payload none false d (some tagw)) b fun _ c =>
      ∃ z' d, Finished tagw (z.completion tagw op status payload w) z z' ∧ Telling b0 i z' (o ++ [.packet (z.completion tagw op status payload w) d]) n c := by
  refine ends_bind (tells_seqNext h) fun _ b1 h1 => ends_then (gives_record h1) (ends_then (gives_canSend (hs.told h1.frame)) ?_)
  refine ends_ite_pos (by simp [hq]) (ends_bind (tells_emitPkt h1 _) fun _ b2 ⟨v, dg, h2⟩ => ?_)
  refine ends_bind (tells_lateCheck h2 d) fun _ b3 h3 => ends_then (gives_pure () b3) ?_
  refine ends_bind (tells_completionSent h3 ht hres _) fun _ b4 ⟨z', hz, h4⟩ => ?_
  refine ends_then (gives_now b4) (ends_onlyIf (fun hx => absurd hx (by simp [hop])) fun _ => ?_)
  exact ⟨z', dg, ⟨hz.h, hz.taken, hz.free, hz.held⟩, h4⟩

end

end Sys2Proof.Machine
end

section
/-!
PROOF. Proofs/Commands.lean: a command that its session may send and whose core runs (R360, R380 to R384): its packet is taken, its function
runs, and its completion leaves. `does_command` leaves of a statement about such a command what its function does.
-/
namespace Sys2Proof.Machine

/-- What a function leaves alone that its completion rests on: the registers of PWR, CMD, NET and POOL, and the data of the sessions, the
pools, the links and the supply. -/
structure RunKept (b c : Block) : Prop where
  wf : c.regs.wf = true
  regs : ∀ a, window a ∈ [1, 4, 5, 0x11] → c.regs.get a = b.regs.get a
  cmd : c.u.cmd = b.u.cmd
  out : c.u.out = b.u.out
  net : c.u.net = b.u.net
  pwr : c.u.pwr = b.u.pwr

section
variable {b0 b c : Block} {i n : Nat} {z : Session} {o : List Out}

theorem Sends.ran {ip : Nat} (h : Sends b ip) (hr : RunKept b c) : Sends c ip := by
  have hdom : ∀ d < 130, window (domField d).reg = 1 := by
    intro d hd
    have hreg : (domField d).reg = 0x10040 + d / 32 * 4 := rfl
    simp only [window, hreg]
    omega
  refine ⟨?_, by rw [hr.net]; exact h.want, by rw [hr.net]; exact h.gap, by rw [hr.net]; exact h.flush, by rw [hr.pwr]; exact h.loss, ?_⟩
  · rw [hr.regs (R.NET_LSTAT 0) (by decide), hr.regs _ (by rw [hdom _ (Nat.add_lt_add_left (of_one_lt rfl _) 128)]; decide)]
    exact h.on
  · rw [hr.regs R.CMD_IP (by decide), hr.regs R.CMD_PFX (by decide), hr.regs R.CMD_GW (by decide)]
    exact h.hop

/-- A function that has run: what follows is told from its block on. -/
theorem Telling.ran (h : Telling b0 i z o n b) (hr : RunKept b c) : Telling c i z o n c :=
  ⟨within_refl hr.wf, hr.cmd ▸ h.len, hr.cmd ▸ h.sess, hr.out ▸ h.out, by rw [hr.regs _ (by decide)]; exact h.count⟩

/-! ### The tags of a record -/

theorem find_last {α : Type} {q : α → Bool} {l : List α} {t : α} (hl : ∀ x ∈ l, q x = false) (ht : q t = true) : (l ++ [t]).find? q = some t := by
  have hnone : l.find? q = none := List.find?_eq_none.mpr fun x hx => by simp [hl x hx]
  simp [hnone, ht]

theorem map_last {l : List OutTag} {t : OutTag} (hl : ∀ x ∈ l, tagOf x.tagw ≠ tagOf t.tagw) (f : OutTag → OutTag) :
    ((l ++ [t]).map fun x => if tagOf x.tagw = tagOf t.tagw then f x else x) = l ++ [f t] := by
  have hold : (l.map fun x => if tagOf x.tagw = tagOf t.tagw then f x else x) = l :=
    (List.map_congr_left fun x hx => if_neg (hl x hx)).trans (List.map_id' l)
  rw [List.map_append, hold]
  simp

/-- The last tag of record `z` is the command `t`, with buffers of the host's own pool, and the only one with its tag; what is sent to
the session leaves at once. -/
structure Newest (z : Session) (l : List OutTag) (t : OutTag) : Prop where
  tags : z.tags = l ++ [t]
  alone : ∀ x ∈ l, tagOf x.tagw ≠ tagOf t.tagw
  intake : ∃ k, t.intake = some ⟨Client.host, 0, k⟩
  reserve : ∃ k, t.reserve = some ⟨Client.host, 0, k⟩
  undone : t.done = false
  queue : z.queue = []

theorem ends_completeTag (h : Telling b0 i z o n b) (hs : Sends b0 z.ip) {l : List OutTag} {t : OutTag} (ht : Newest z l t) (hi : i ≠ orphanRec)
    (hop : t.opcode ≠ 3) (status : Nat) (payload : List Byte) :
    Ends (completeTag i t.tagw status payload) b fun _ c => ∃ z' w d, Finished t.tagw (z.completion t.tagw t.opcode status payload w) z z' ∧
      Telling b0 i z' (o ++ [.packet (z.completion t.tagw t.opcode status payload w) d]) n c := by
  obtain ⟨htags, halone, ⟨k, hintake⟩, ⟨k', hreserve⟩, hundone, hqueue⟩ := ht
  have horphan : Gives (orphanEnd i t.tagw) b () b := gives_bind (gives_units b) (gives_onlyIf_false (by simpa using hi))
  have hfind : z.tags.find? (fun x => decide (tagOf x.tagw = tagOf t.tagw ∧ x.done = false)) = some t :=
    htags ▸ find_last (fun x hx => by simp [halone x hx]) (by simp [hundone])
  refine ends_then horphan (ends_then (gives_record h) ?_)
  simp only [hfind]
  refine ends_bind (tells_modSess h _) fun _ b1 h1 => ends_bind (hintake ▸ tells_give h1 k) fun _ b2 h2 => ends_then (gives_wall b2) ?_
  rw [htags, map_last halone] at h2
  refine ends_mono (tells_sendStamped (k := k') h2 hs hqueue (find_last (fun x hx => by simp [halone x hx]) (by simp)) hreserve hop _ status payload _) ?_
  rintro _ c ⟨z', d, hz, hc⟩
  exact ⟨z', _, d, ⟨hz.h, hz.taken, hz.free, hz.held⟩, hc⟩

/-- The command of the newest tag starts, its function answers, and its completion leaves (R30, R383). -/
theorem ends_startTag (h : Telling b0 i z o n b) (hs : Sends b0 z.ip) {l : List OutTag} {t : OutTag} (ht : Newest z l t) (hi : i ≠ orphanRec)
    (hop : t.opcode ≠ 3) (hstart : t.started = false) {status : Nat} {payload : List Byte} {P : Block → Prop}
    (run : ∀ c, Within tellBits tellKeep b0 c → Ends (runCommand i t.tagw t.opcode t.body) c fun r d => r = some (status, payload) ∧ RunKept c d ∧ P d) :
    Ends (startTag i t.tagw) b fun _ c => ∃ d z' w g, P d ∧ Finished t.tagw (z.completion t.tagw t.opcode status payload w) z z' ∧
      Telling d i z' (o ++ [.packet (z.completion t.tagw t.opcode status payload w) g]) n c := by
  obtain ⟨k, hintake⟩ := ht.intake
  have hfind : tagIn z t.tagw = some t := by
    rw [tagIn, ht.tags]
    exact find_last (fun x hx => by simpa using ht.alone x hx) (by simp)
  refine ends_then (gives_record h) ?_
  simp only [hfind]
  refine ends_onlyIf_true (by simp [hstart, ht.undone]) (ends_then (hintake ▸ gives_recoveryBack k b) (ends_bind (tells_modSess h _) fun _ b1 h1 => ?_))
  rw [ht.tags, map_last ht.alone] at h1
  refine ends_bind (run b1 h1.frame) fun r d ⟨hr, hkept, hp⟩ => ?_
  subst hr
  have hnew : Newest { z with tags := l ++ [{ t with started := true }] } l { t with started := true } :=
    ⟨rfl, ht.alone, ht.intake, ht.reserve, ht.undone, ht.queue⟩
  refine ends_mono (ends_completeTag (h1.ran hkept) ((hs.told h1.frame).ran hkept) hnew hi hop status payload) ?_
  rintro _ c ⟨z', w, g, hz, hc⟩
  exact ⟨d, z', w, g, hp, ⟨hz.h, hz.taken, hz.free, hz.held⟩, hc⟩

/-! ### The packet is taken -/

/-- Whether a command is BUSY rests on the session's grant and on the tags and the early commands (R381). -/
theorem busyCause_congr {u v : Units} {y z : Session} (hs : v.cmd.sessions.map (·.tags) = u.cmd.sessions.map (·.tags)) (he : v.cmd.early = u.cmd.early)
    (hg : z.grant = y.grant) (ht : z.tags = y.tags) (op : Nat) : busyCause v z op = busyCause u y op := by
  have hcount (f : Nat) : intakeCount v f = intakeCount u f := by
    have hsum := congrArg (fun l => (l.map fun x : List OutTag => (x.filter fun t => !t.started && !t.done && t.opcode / 256 == f).length).sum) hs
    simp only [List.map_map, Function.comp_def] at hsum
    rw [intakeCount, intakeCount, hsum, he]
  rw [busyCause, busyCause, intakeFull, intakeFull, hcount, hg, ht]

/-- The buffers of a reservation with nothing beside it in its cycle (R562). -/
theorem ends_reserve (hb : b.regs.wf = true) (hflush : (b.u.net.links.getD 0 {}).flush = false) {k : Nat} (hpriv : privHolds b.u Client.host k = true) :
    Ends (reserveWith k []) b fun r c => r = some ⟨Client.host, 0, k⟩ ∧ Within lateBits id (b.withU (b.u.lent k)) c := by
  refine ends_then (gives_block b) (ends_then (gives_gf _ b) (ends_then (gives_each_nil _ b) ?_))
  refine ends_bind (ends_poolAsk hb hflush _ hpriv) fun r c hc => ends_then (gives_each_nil _ c) (ends_of_gives (gives_pure r c) hc)

/-- The buffers of a command's completion (R562). -/
abbrev replyBufs (op : Nat) : Nat := frameBufs (match opInfo op with | none => 0 | some f => f.reply)

/-- What a command packet of record `z` finds, from which its function runs at once (R380 to R384). -/
structure Welcome (b : Block) (z : Session) (tagw op : Nat) (p : List Byte) : Prop where
  sends : Sends b z.ip
  queue : z.queue = []
  core : bitAt (b.regs.get R.SYS_CORESTAT).toNat (coreOf (op / 256)) = true
  check : preCheck z tagw op p = none
  tag : ∀ x ∈ z.tags, tagOf x.tagw ≠ tagOf tagw
  noReset : op ≠ 3

theorem ends_commandNew (h : Telling b0 i z o n b) (hi : i ≠ orphanRec) {tagw op k : Nat} {p : List Byte} (hw : Welcome b0 z tagw op p)
    (hbusy : busyCause b.u z op = none) (hpriv : privHolds b.u Client.host (replyBufs op) = true) {status : Nat} {payload : List Byte} {P : Block → Prop}
    (run : ∀ c, Within tellBits tellKeep b0 c → Ends (runCommand i tagw op p) c fun r d => r = some (status, payload) ∧ RunKept c d ∧ P d) :
    Ends (commandNew i tagw op p ⟨Client.host, 0, k⟩ []) b fun _ c => ∃ d z' w g, P d ∧ Finished tagw (z.completion tagw op status payload w) z z' ∧
      Telling d i z' (o ++ [.packet (z.completion tagw op status payload w) g]) n c := by
  refine ends_then (gives_units b) (ends_then (gives_record h) (ends_then (gives_now b) ?_))
  simp only [hbusy]
  refine ends_bind (ends_reserve h.frame.wf (hw.sends.told h.frame).flush hpriv) fun r b1 ⟨hr, hb1⟩ => ?_
  subst hr
  have h1 : Telling b0 i z o n b1 := (h.pool _).regs hb1
  refine ends_then (gives_bind (gives_units b1) (gives_bind (gives_modCmd b1 _) (gives_pure _ _))) ?_
  refine ends_bind (tells_modSess (h1.cmd { b1.u.cmd with accepted := b1.u.cmd.accepted + 1 } rfl) _) fun _ b2 h2 => ends_then (gives_gbit _ _ b2) ?_
  have hcore : bitAt (b2.regs.get R.SYS_CORESTAT).toNat (coreOf (op / 256)) = true := by
    rw [h2.frame.reg fun j => show ¬ tellBits R.SYS_CORESTAT 0 by decide]
    exact hw.core
  simp only [hw.check]
  refine ends_ite_pos hcore ?_
  refine ends_mono (ends_startTag h2 hw.sends (l := z.tags) ⟨rfl, hw.tag, ⟨k, rfl⟩, ⟨_, rfl⟩, rfl, hw.queue⟩ hi hw.noReset rfl run) ?_
  rintro _ c ⟨d, z', w, g, hp, hz, hc⟩
  exact ⟨d, z', w, g, hp, ⟨hz.h, hz.taken, hz.free, hz.held⟩, hc⟩

/-- A packet of a command whose tag is in no use is taken as new (R382). -/
theorem commandTaken_new (h : Telling b0 i z o n b) {hd : Hdr} (htag : tagIn z (tagWord hd) = none) (hheld : ∀ x ∈ z.held, x.tag ≠ tagOf hd.tagw)
    {op : Nat} {p : List Byte} {r : BufRef} {Q : Unit → Block → Prop} (hn : Ends (commandNew i (tagWord hd) op p r []) b Q) :
    Ends (commandTaken i op hd p r []) b Q := by
  have hword : tagOf (tagWord hd) = tagOf hd.tagw := by
    simp only [tagOf, tagWord]
    omega
  have hnone : z.held.find? (fun x => x.tag == tagOf (tagWord hd)) = none :=
    List.find?_eq_none.mpr fun x hx => by simpa [hword] using hheld x hx
  refine ends_then (gives_record h) ?_
  show Ends (match tagIn z (tagWord hd), z.held.find? fun x => x.tag == tagOf (tagWord hd) with
    | some t, _ => _
    | none, some x => _
    | none, none => _) b Q
  simp only [htag, hnone]
  exact hn

theorem tells_count (h : Telling b0 i z o n b) : Ends (cntWrap F.CMD_RXCNT_CNT 1) b fun _ c => Telling b0 i z o ((n + 1) % 2 ^ 32) c ∧ c.u = b.u := by
  have hheld : F.CMD_RXCNT_CNT.Held := by decide
  have hframe : Within tellBits tellKeep b (b.setField F.CMD_RXCNT_CNT (F.CMD_RXCNT_CNT.of (b.regs.get F.CMD_RXCNT_CNT.reg) + 1)) :=
    within_setField h.frame.wf (by decide) (by decide) _ fun _ _ _ => .inl rfl
  refine ends_of_gives (gives_cntWrap _ 1 b) ⟨⟨h.frame.trans hframe, h.len, h.sess, h.out, ?_⟩, rfl⟩
  rw [← h.count]
  exact setField_of_same h.frame.wf hheld _

/-- Record `z` with packet `hd` taken at time `t` (R361, R372). -/
def Session.heard (z : Session) (hd : Hdr) (t : Nat) : Session := { z with h := hd.seq % 2 ^ 32, lastTaken := t }

/-- A packet of an open session, from its address and with a later sequence number, is taken (R360, R361). -/
theorem ends_packetTaken (h : Telling b0 i z o n b) {hd : Hdr} (hst : z.st = .opened) (hip : z.ip = hd.ip) (hport : z.port = hd.port)
    (hseq : laterThan hd.seq z.h = true) :
    Ends (packetTaken i hd.ip hd.port hd.seq) b fun r c => r = true ∧
      Telling b0 i (z.heard hd b.u.elapsed) o n c ∧
      c.u = { b.u with cmd := { b.u.cmd with sessions := updAt b.u.cmd.sessions i fun x => x.heard hd b.u.elapsed } } := by
  refine ends_then (gives_record h) (ends_then (gives_now b) ?_)
  refine ends_ite_neg (by simp [hip, hport]) (ends_ite_neg (by simp [hst]) (ends_ite_pos hseq ?_))
  exact ends_then (gives_modSess b i _) (ends_of_gives (gives_pure true _) ⟨rfl, h.mod fun x => x.heard hd b.u.elapsed, rfl⟩)

end

section
variable {s : State} {i op : Nat} {h : Hdr} {p : List Byte}

theorem findSess_lt {l : List Session} {sid i : Nat} (h : findSess l sid = some i) : i < 4 ∧ (l.getD i {}).sid = sid := by
  have hmem : i < 4 := by
    have hidx := List.mem_of_find?_eq_some h
    simp only [sessIdx, List.mem_cons, List.not_mem_nil, or_false] at hidx
    omega
  have hq := List.find?_some h
  exact ⟨hmem, (of_decide_eq_true hq).2⟩

theorem sends_of_hostLinkUp {ip : Nat} (hup : HostLinkUp s) (hhop : HasHop s ip) : Sends s.dev ip := by
  obtain ⟨hon, hwant, hgap, hflush, hloss⟩ := hup
  exact ⟨hon, hwant, hgap, hflush, hloss, hhop⟩

/-- A record that is not free stands in the list. -/
theorem sess_lt (hst : (s.sess i).st = .opened) : i < s.dev.u.cmd.sessions.length := by
  by_contra hge
  rw [State.sess, List.getD_eq_default _ _ (Nat.le_of_not_lt hge)] at hst
  exact absurd hst (by decide)

/-- The record of session `i` with packet `h` taken now. -/
abbrev State.heard (s : State) (i : Nat) (h : Hdr) : Session := (s.sess i).heard h s.dev.u.elapsed

/-- A command that is ready: its packet is taken, its function runs at once, and its completion leaves (R360 to R362, R380 to R384). -/
theorem ends_hostCommand (hr : Ready s i op h p) (hop : op ≠ 3) {status : Nat} {payload : List Byte} {P : Block → Prop}
    (run : ∀ c, Within tellBits tellKeep s.dev c → Ends (runCommand i (tagWord h) op p) c fun r d => r = some (status, payload) ∧ RunKept c d ∧ P d) :
    Ends (hostCommand h op p) s.dev fun _ c => ∃ d z' w g, P d ∧ Finished (tagWord h) ((s.heard i h).completion (tagWord h) op status payload w) (s.heard i h) z' ∧
      Telling d i z' (s.dev.u.out ++ [.packet ((s.heard i h).completion (tagWord h) op status payload w) g]) ((s.fld F.CMD_RXCNT_CNT + 1) % 2 ^ 32) c := by
  obtain ⟨⟨hlive, hwf, hup, ⟨hsid, hfind, hst, hip, hport, hseq, hqueue, hhop⟩, ⟨htag, -, hheld⟩, ⟨hlen, hbufs⟩, hbusy⟩, hcore, hcheck⟩ := hr
  obtain ⟨hi, -⟩ := findSess_lt hfind
  have hsends : Sends s.dev h.ip := sends_of_hostLinkUp hup hhop
  have hpriv : s.dev.u.pool.privUsed.getD Client.host 0 + frameBufs p.length + replyBufs op ≤ s.dev.u.pool.priv.getD Client.host 0 := hbufs
  have h0 : Telling s.dev i (s.sess i) s.dev.u.out (s.fld F.CMD_RXCNT_CNT) s.dev := ⟨within_refl hwf, sess_lt hst, rfl, rfl, rfl⟩
  have hgap : (linkSettle s.dev.u.elapsed (s.dev.u.net.links.getD 0 {})).gap = false :=
    (congrArg NetLink.gap (linkBare_settle s.dev.u.elapsed (s.dev.u.net.links.getD 0 {}))).trans hsends.gap
  refine ends_then (gives_bind (gives_gf _ _) (gives_portOn hsends)) (ends_then (gives_getLink s.dev 0) ?_)
  refine ends_ite_neg (by rw [hgap]; exact Bool.false_ne_true) (ends_onlyIf_true rfl ?_)
  refine ends_bind (ends_poolAsk hwf hsends.flush false (decide_eq_true (by omega))) fun r b1 ⟨hb, hw1⟩ => ends_then (gives_units b1) ?_
  subst hb
  have hu1 : b1.u = s.dev.u.lent (frameBufs p.length) := hw1.units
  have h1 := (h0.pool _).regs hw1
  have hfind1 : findSess b1.u.cmd.sessions h.session = some i := by rw [hu1]; exact hfind
  have hpending : ((b1.u.cmd.sessions.getD i {}).st == .pending) = false := by rw [h1.sess, hst]; rfl
  refine ends_ite_neg hsid ?_
  simp only [hfind1, hpending]
  refine ends_bind (ends_packetTaken h1 hst hip hport hseq) fun ok b2 ⟨hok, h2, hu2⟩ => ?_
  subst hok
  refine ends_ite_neg (by decide) (ends_ite_neg Bool.false_ne_true (ends_then (gives_onlyIf_false rfl) ?_))
  have helapsed : b1.u.elapsed = s.dev.u.elapsed := by rw [hu1]; rfl
  rw [helapsed] at h2 hu2
  refine ends_bind (tells_count h2) fun _ b3 ⟨h3, hu3⟩ => commandTaken_new h3 htag hheld ?_
  have hu : b3.u = { b1.u with cmd := { b1.u.cmd with sessions := updAt b1.u.cmd.sessions i fun x => x.heard h s.dev.u.elapsed } } := hu3.trans hu2
  refine ends_commandNew h3 (by simp only [orphanRec]; omega) ⟨hip ▸ hsends, hqueue, hcore, hcheck, ?_, hop⟩ ?_ ?_ run
  · exact fun x hx => by simpa using List.find?_eq_none.mp htag x hx
  · refine (busyCause_congr (u := s.dev.u) (y := s.sess i) ?_ ?_ rfl rfl op).trans hbusy
    · rw [hu, hu1]
      exact map_updAt (g := Session.tags) (f := fun x => x.heard h s.dev.u.elapsed) (fun _ => rfl) s.dev.u.cmd.sessions i
    · rw [hu, hu1]
      rfl
  · rw [hu, hu1]
    refine decide_eq_true ?_
    show (updAt s.dev.u.pool.privUsed Client.host (· + frameBufs p.length)).getD Client.host 0 + _ ≤ _
    rw [updAt_getD_same _ _ _ _ (by rw [hlen]; decide)]
    exact hpriv

/-- The completion of a command that is ready is the answer to it (R383). -/
theorem answered_of_finished (hr : Ready s i op h p) {status w n : Nat} {payload g : List Byte} {z' : Session} {d c : Block}
    (hn : n = (s.fld F.CMD_RXCNT_CNT + 1) % 2 ^ 32)
    (hz : Finished (tagWord h) ((s.heard i h).completion (tagWord h) op status payload w) (s.heard i h) z')
    (hc : Telling d i z' (s.dev.u.out ++ [.packet ((s.heard i h).completion (tagWord h) op status payload w) g]) n c) :
    Answered s { s with dev := c } i op h status payload := by
  obtain ⟨⟨-, -, -, ⟨-, hfind, -, hip, hport, -, -, -⟩, -, -, -⟩, -, -⟩ := hr
  obtain ⟨-, hsid⟩ := findSess_lt hfind
  have hsess : State.sess { s with dev := c } i = z' := hc.sess
  have htag : tagOf (tagWord h) = tagOf h.tagw := by
    simp only [tagOf, tagWord]
    omega
  refine ⟨⟨?_, ?_, hc.count.trans hn⟩, ?_, ?_, ?_⟩
  · rw [hsess]
    exact hz.h
  · rw [hsess]
    exact hz.taken
  · show ((c.u.out.drop s.dev.u.out.length).any _) = true
    rw [hc.out, List.drop_left]
    refine List.any_eq_true.mpr ⟨_, List.mem_singleton_self _, decide_eq_true ?_⟩
    exact ⟨hip, hport, rfl, hsid, rfl, rfl, rfl, rfl⟩
  · rw [hsess]
    exact hz.free
  · obtain ⟨x, hx, htagx, hpkt⟩ := hz.held
    rw [hsess]
    exact ⟨x, hx, htagx.trans htag, by rw [hpkt]; exact ⟨rfl, rfl, rfl⟩⟩

/-- A command that is ready does what its function does, and is answered. -/
theorem does_command {c : Instr} {status : Nat} {payload : List Byte} {P : Block → Prop} {Q : State → Prop} (hexec : exec c s = onLive (hostCommand h op p) s)
    (hr : Ready s i op h p) (hop : op ≠ 3)
    (run : ∀ c, Within tellBits tellKeep s.dev c → Ends (runCommand i (tagWord h) op p) c fun r d => r = some (status, payload) ∧ RunKept c d ∧ P d)
    (fin : ∀ d e, P d → Within tellBits tellKeep d e → Q { s with dev := e }) :
    Does c s fun t => Answered s t i op h status payload ∧ Q t := by
  refine does_of_ends hexec hr.1.1 (ends_mono (ends_hostCommand hr hop run) ?_)
  rintro _ e ⟨d, z', w, g, hp, hz, he⟩
  exact ⟨answered_of_finished hr rfl hz he, fin d e hp he.frame⟩

theorem units_of_linkKeep {u v : Units} (h : linkKeep u = linkKeep v) :
    u = { v with cmd := u.cmd, pool := u.pool, out := u.out, free := u.free, net := { v.net with links := u.net.links } } :=
  calc u = { linkKeep u with cmd := u.cmd, pool := u.pool, out := u.out, free := u.free, net := { (linkKeep u).net with links := u.net.links } } := rfl
    _ = { linkKeep v with cmd := u.cmd, pool := u.pool, out := u.out, free := u.free, net := { (linkKeep v).net with links := u.net.links } } := by rw [h]
    _ = _ := rfl

/-- What telling keeps. -/
theorem tellsOnly_of_within {c : Block} (hw : Within tellBits tellKeep s.dev c) : TellsOnly s { s with dev := c } := by
  have hlinks : c.u.net.links.map linkBare = s.dev.u.net.links.map linkBare := congrArg Prod.snd hw.units
  have hk : linkKeep c.u = linkKeep s.dev.u := congrArg Prod.fst hw.units
  refine ⟨fun a ha => hw.reg fun _ hx => ha ?_, hlinks, ?_⟩
  · rcases hx with rfl | rfl | rfl | hx
    · exact (by decide : R.CMD_RXCNT / 0x10000 ∈ [4, 5, 0x11])
    · exact (by decide : R.CMD_LATECNT / 0x10000 ∈ [4, 5, 0x11])
    · exact (by decide : R.CMD_STAT / 0x10000 ∈ [4, 5, 0x11])
    · show window a ∈ [4, 5, 0x11]
      rw [hx]
      decide
  · exact units_of_linkKeep hk

end

end Sys2Proof.Machine
end

section
/-!
PROOF. Proofs/SlotCommands.lean: what the functions of ALARM_SET and ALARM_CLEAR write of a slot (R58, R413).
-/
namespace Sys2Proof.Machine

/-! ### Masked writes of a slot -/

theorem maskWord_toNat {m : Nat} (hm : m < 65536) (d : Nat) : (maskWord m d).toNat / 65536 = m ∧ (maskWord m d).toNat % 65536 = d % 65536 := by
  have hlt : m * 65536 + d % 65536 < 2 ^ 32 := by omega
  rw [maskWord, BitVec.toNat_ofNat, Nat.mod_eq_of_lt hlt]
  omega

/-- The bits of register `a`. -/
abbrev regBits (a c _j : Nat) : Prop := c = a

theorem within_mended {β : Type} {T : Nat → Nat → Prop} {keep : Units → β} {b c : Block} {a : Nat} (h : Within T keep (b.mended a) c) : Within T keep b c :=
  ⟨h.wf, h.bit, h.units⟩

/-- What a write of a compare register rests on. -/
structure CompareField (a : Nat) (f : RF) (r : RegRow) : Prop where
  row : rowOf f.reg = some (r, a)
  held : f.Held
  lo : f.lo = 0
  hi : f.hi = 15
  window : f.reg / 0x10000 = 16
  ne : R.ENC_ACTL a ≠ f.reg
  base : r.base = R.ENC_ACMP0 0 ∨ r.base = R.ENC_ACMP1 0 ∨ r.base = R.ENC_ACMP2 0
  rw : r.rw = 0xFFFF
  mask : r.mask = true
  kp : r.kp = 0
  noThree : r.noThree = []

theorem compareField {a : Nat} (ha : a < 512) : CompareField a (F.ENC_ACMP0_CMP a) cmp0Row ∧ CompareField a (F.ENC_ACMP1_CMP a) cmp1Row ∧
    CompareField a (F.ENC_ACMP2_CMP a) cmp2Row := by
  refine ⟨⟨rowOf_cmp0 ha, held_cmp0 ha, rfl, rfl, ?_, ?_, .inl rfl, rfl, rfl, rfl, rfl⟩, ⟨rowOf_cmp1 ha, held_cmp1 ha, rfl, rfl, ?_, ?_, .inr (.inl rfl), rfl, rfl, rfl, rfl⟩,
    ⟨rowOf_cmp2 ha, held_cmp2 ha, rfl, rfl, ?_, ?_, .inr (.inr rfl), rfl, rfl, rfl, rfl⟩⟩ <;>
  · simp only [F.ENC_ACMP0_CMP, F.ENC_ACMP1_CMP, F.ENC_ACMP2_CMP, R.ENC_ACMP0, R.ENC_ACMP1, R.ENC_ACMP2, R.ENC_ACTL]
    omega

section
variable {a : Nat} {b : Block}

/-- A word written to a compare register of a slot that is not armed is stored, and nothing fires. -/
theorem ends_compareWrite {f : RF} {r : RegRow} (hf : CompareField a f r) (ha : 64 ≤ a) (hb : b.regs.wf = true) (harm : b.arm a = false) (src : Src) (c : Nat) :
    Ends (opWrite src f.reg (maskWord 0xFFFF c)) b fun _ d => Within (regBits f.reg) alarmKeep b d ∧ f.of (d.regs.get f.reg) = c % 2 ^ 16 := by
  obtain ⟨hmask, hdata⟩ := maskWord_toNat (show 0xFFFF < 65536 by decide) c
  have hmem : r.base ∈ [R.ENC_ACMP0 0, R.ENC_ACMP1 0, R.ENC_ACMP2 0] := by simpa using hf.base
  have hshown : r.base ∉ encShown ∧ keyGuarded r.base = false := by
    have hall : ∀ x ∈ [R.ENC_ACMP0 0, R.ENC_ACMP1 0, R.ENC_ACMP2 0], x ∉ encShown ∧ keyGuarded x = false := by decide
    exact hall _ hmem
  have hwrite (new acts : Word) : encWrite src r.base a f.reg new acts = (do wr f.reg new; alarmCheck a false) := by
    have hown : (srcHost src && decide (a < 64)) = false := by rw [decide_eq_false (by omega), Bool.and_false]
    rcases hf.base with e | e | e <;> simp only [encWrite, e, hown] <;> rfl
  have hwf : (b.mended f.reg).regs.wf = true := hb
  refine ends_of_gives (gives_encWrite hf.row hf.window hshown.1 hf.mask hshown.2 (by omega) (by rw [hf.kp, Nat.and_zero]) ?_)
    (b' := (b.mended f.reg).setReg f.reg (mergeWord r (b.regs.get f.reg) (maskWord 0xFFFF c))) ⟨within_mended (within_setReg hwf _ fun _ => rfl), ?_⟩
  · rw [hwrite]
    refine gives_bind (gives_wr _ _ _) (gives_alarmCheck_waits false fun ⟨hx, _⟩ => ?_)
    rw [Block.arm, setReg_regs, get_set_ne _ _ hf.ne] at hx
    exact absurd (harm.symm.trans hx) (by decide)
  · refine (of_get_set hb hf.held _).trans ((merge_set hf.noThree f ?_ ?_).trans ?_)
    · rw [hmask, hf.lo, hf.hi]
      decide
    · rw [hf.rw, hf.lo, hf.hi]
      decide
    · rw [RF.of, bits, hf.lo, hf.hi, Nat.shiftRight_zero]
      exact hdata

/-- A write that clears ARM of a slot disarms it, and leaves its source. -/
theorem ends_disarmWrite (ha : 64 ≤ a) (hlt : a < 512) (hb : b.regs.wf = true) (hs : b.src a ≤ 16) (src : Src) :
    Ends (opWrite src (R.ENC_ACTL a) (maskWord 0x8000 0)) b fun _ d => Within (regBits (R.ENC_ACTL a)) alarmKeep b d ∧ d.arm a = false ∧ d.src a = b.src a ∧
      ∀ x ∈ d.u.enc.armed, x.1 ≠ a := by
  have hset : bits ((maskWord 0x8000 0).toNat / 65536) 15 15 = 2 ^ (15 + 1 - 15) - 1 ∧ bits actlRow.rw 15 15 = 2 ^ (15 + 1 - 15) - 1 := by decide
  have hzero : bits (maskWord 0x8000 0).toNat 15 15 = 0 := by decide
  have hkept : bits ((maskWord 0x8000 0).toNat / 65536) 12 8 = 0 := by decide
  have harm : (F.ENC_ACTL_ARM a).of (mergeWord actlRow (b.regs.get (R.ENC_ACTL a)) (maskWord 0x8000 0)) = 0 := (merge_set rfl ⟨R.ENC_ACTL a, 15, 15⟩ hset.1 hset.2).trans hzero
  have hsrc : (F.ENC_ACTL_SRC a).of (mergeWord actlRow (b.regs.get (R.ENC_ACTL a)) (maskWord 0x8000 0)) = b.src a := merge_kept rfl ⟨R.ENC_ACTL a, 12, 8⟩ hkept
  refine ends_of_gives (gives_slotWrite hlt (.inl ha) (by decide) (by decide) (gives_alarmControl_disarm (hsrc.trans_le hs) harm)) ?_
  refine ⟨within_mended (disarmSlot_within (b := b.mended (R.ENC_ACTL a)) hb a _), ?_, (of_get_set hb (held_src hlt) _).trans hsrc, fun x hx => ?_⟩
  · exact congrArg (· != 0) ((of_get_set hb (held_arm hlt) _).trans harm)
  · exact of_decide_eq_true (List.mem_filter.mp hx).2

/-- A write of SRC and FB of a slot that is not armed. -/
theorem ends_controlWrite (ha : 64 ≤ a) (hlt : a < 512) (hb : b.regs.wf = true) (hidle : b.arm a = false) {src fb : Nat} (hs : src ≤ 16) (hfb : fb < 256) (who : Src) :
    Ends (opWrite who (R.ENC_ACTL a) (maskWord 0x1FFF (src * 256 + fb))) b fun _ d => Within (regBits (R.ENC_ACTL a)) alarmKeep b d ∧ d.arm a = false ∧ d.src a = src ∧
      (F.ENC_ACTL_FB a).of (d.regs.get (R.ENC_ACTL a)) = fb := by
  obtain ⟨hmask, hdata⟩ := maskWord_toNat (show 0x1FFF < 65536 by decide) (src * 256 + fb)
  have hsel : bits 0x1FFF 15 15 = 0 ∧ bits 0x1FFF 12 8 = 2 ^ (12 + 1 - 8) - 1 ∧ bits 0x1FFF 7 0 = 2 ^ (7 + 1 - 0) - 1 := by decide
  have hrow : bits actlRow.rw 12 8 = 2 ^ (12 + 1 - 8) - 1 ∧ bits actlRow.rw 7 0 = 2 ^ (7 + 1 - 0) - 1 := by decide
  have hzero : (F.ENC_ACTL_ARM a).of (b.regs.get (R.ENC_ACTL a)) = 0 := by simpa [Block.arm] using hidle
  rw [← hmask] at hsel
  have harm : (F.ENC_ACTL_ARM a).of (mergeWord actlRow (b.regs.get (R.ENC_ACTL a)) (maskWord 0x1FFF (src * 256 + fb))) = 0 :=
    (merge_kept rfl ⟨R.ENC_ACTL a, 15, 15⟩ hsel.1).trans hzero
  have hsrc : (F.ENC_ACTL_SRC a).of (mergeWord actlRow (b.regs.get (R.ENC_ACTL a)) (maskWord 0x1FFF (src * 256 + fb))) = src := by
    refine (merge_set rfl ⟨R.ENC_ACTL a, 12, 8⟩ hsel.2.1 hrow.1).trans ?_
    simp only [RF.of, bits, Nat.shiftRight_eq_div_pow]
    omega
  have hfall : (F.ENC_ACTL_FB a).of (mergeWord actlRow (b.regs.get (R.ENC_ACTL a)) (maskWord 0x1FFF (src * 256 + fb))) = fb := by
    refine (merge_set rfl ⟨R.ENC_ACTL a, 7, 0⟩ hsel.2.2 hrow.2).trans ?_
    simp only [RF.of, bits, Nat.shiftRight_zero]
    omega
  refine ends_of_gives (gives_slotWrite hlt (.inl ha) (by omega) (by rw [hmask]; decide) (gives_alarmControl_disarm (hsrc.trans_le hs) harm)) ?_
  refine ⟨within_mended (disarmSlot_within (b := b.mended (R.ENC_ACTL a)) hb a _), ?_, (of_get_set hb (held_src hlt) _).trans hsrc, (of_get_set hb (held_fb hlt) _).trans hfall⟩
  exact congrArg (· != 0) ((of_get_set hb (held_arm hlt) _).trans harm)

end

/-! ### A slot is set -/

/-- The bits of the registers in which slot `a` is set. -/
abbrev slotBits (a c _j : Nat) : Prop := c = R.ENC_ACTL a ∨ c = R.ENC_ACMP0 a ∨ c = R.ENC_ACMP1 a ∨ c = R.ENC_ACMP2 a

/-- Slot `a` is set and not armed: since block `b` nothing but its registers has changed, and it has the compare value `v`, source `src` and
fallback `fb`. -/
structure SlotSet (a : Nat) (v : Int) (src fb : Nat) (b d : Block) : Prop where
  within : Within (slotBits a) alarmKeep b d
  arm : d.arm a = false
  src : d.src a = src
  fb : (F.ENC_ACTL_FB a).of (d.regs.get (R.ENC_ACTL a)) = fb
  compare : d.compareAt a = v

/-- The five writes that set a slot without arming it (R58). -/
def slotWrites (a c src fb : Nat) : Op Unit := do
  opWrite .core (R.ENC_ACTL a) (maskWord 0x8000 0)
  opWrite .core (R.ENC_ACMP0 a) (maskWord 0xFFFF c)
  opWrite .core (R.ENC_ACMP1 a) (maskWord 0xFFFF (c / 2 ^ 16))
  opWrite .core (R.ENC_ACMP2 a) (maskWord 0xFFFF (c / 2 ^ 32))
  opWrite .core (R.ENC_ACTL a) (maskWord 0x1FFF (src * 256 + fb))

theorem ends_slotWrites {a : Nat} {b : Block} (ha : 64 ≤ a) (hlt : a < 512) (hb : b.regs.wf = true) (hold : b.src a ≤ 16) (c : Nat) {src fb : Nat} (hs : src ≤ 16)
    (hfb : fb < 256) : Ends (slotWrites a c src fb) b fun _ d => SlotSet a (toSigned 48 c) src fb b d := by
  obtain ⟨h0, h1, h2⟩ := compareField hlt
  have hne : R.ENC_ACMP0 a ≠ R.ENC_ACMP1 a ∧ R.ENC_ACMP0 a ≠ R.ENC_ACMP2 a ∧ R.ENC_ACMP1 a ≠ R.ENC_ACMP2 a := by
    simp only [R.ENC_ACMP0, R.ENC_ACMP1, R.ENC_ACMP2]
    omega
  obtain ⟨h01, h02, h12⟩ := hne
  refine ends_bind (ends_disarmWrite ha hlt hb hold .core) fun _ b1 ⟨w1, harm1, _, _⟩ => ?_
  refine ends_bind (ends_compareWrite h0 ha w1.wf harm1 .core c) fun _ b2 ⟨w2, hc0⟩ => ?_
  have harm2 : b2.arm a = false := by rw [Block.arm, w2.reg (a := R.ENC_ACTL a) fun _ => h0.ne]; exact harm1
  refine ends_bind (ends_compareWrite h1 ha w2.wf harm2 .core (c / 2 ^ 16)) fun _ b3 ⟨w3, hc1⟩ => ?_
  have harm3 : b3.arm a = false := by rw [Block.arm, w3.reg (a := R.ENC_ACTL a) fun _ => h1.ne]; exact harm2
  refine ends_bind (ends_compareWrite h2 ha w3.wf harm3 .core (c / 2 ^ 32)) fun _ b4 ⟨w4, hc2⟩ => ?_
  have harm4 : b4.arm a = false := by rw [Block.arm, w4.reg (a := R.ENC_ACTL a) fun _ => h2.ne]; exact harm3
  refine ends_mono (ends_controlWrite ha hlt w4.wf harm4 hs hfb .core) fun _ d ⟨w5, harm, hsrc, hfall⟩ => ?_
  refine ⟨?_, harm, hsrc, hfall, ?_⟩
  · have hk : ∀ u v : Units, alarmKeep u = alarmKeep v → alarmKeep u = alarmKeep v := fun _ _ => id
    exact (w1.mono (fun _ _ => .inl) hk).trans ((w2.mono (fun _ _ e => .inr (.inl e)) hk).trans ((w3.mono (fun _ _ e => .inr (.inr (.inl e))) hk).trans
      ((w4.mono (fun _ _ e => .inr (.inr (.inr e))) hk).trans (w5.mono (fun _ _ => .inl) hk))))
  · have e0 : d.regs.get (R.ENC_ACMP0 a) = b2.regs.get (R.ENC_ACMP0 a) :=
      (w5.reg fun _ => h0.ne.symm).trans ((w4.reg fun _ => h02).trans (w3.reg fun _ => h01))
    have e1 : d.regs.get (R.ENC_ACMP1 a) = b3.regs.get (R.ENC_ACMP1 a) := (w5.reg fun _ => h1.ne.symm).trans (w4.reg fun _ => h12)
    have e2 : d.regs.get (R.ENC_ACMP2 a) = b4.regs.get (R.ENC_ACMP2 a) := w5.reg fun _ => h2.ne.symm
    have hsum : c % 2 ^ 16 + c / 2 ^ 16 % 2 ^ 16 * 2 ^ 16 + c / 2 ^ 32 % 2 ^ 16 * 2 ^ 32 = c % 2 ^ 48 := by omega
    rw [Block.compareAt, e0, e1, e2]
    have f0 : (F.ENC_ACMP0_CMP a).of (b2.regs.get (R.ENC_ACMP0 a)) = c % 2 ^ 16 := hc0
    have f1 : (F.ENC_ACMP1_CMP a).of (b3.regs.get (R.ENC_ACMP1 a)) = c / 2 ^ 16 % 2 ^ 16 := hc1
    have f2 : (F.ENC_ACMP2_CMP a).of (b4.regs.get (R.ENC_ACMP2 a)) = c / 2 ^ 32 % 2 ^ 16 := hc2
    rw [f0, f1, f2, hsum, toSigned_mod]

/-- What the sources show rests on the registers of lanes and mains. -/
theorem source_same {b c : Block} (h : ∀ x, 0x100000 ≤ x → x < 0x101000 → c.regs.get x = b.regs.get x) {src : Nat} (hs : src ≤ 16) : c.source src = b.source src := by
  unfold Block.source
  split
  · rw [Block.s48, Block.s48, Block.n64, Block.n64, h (R.ENC_LEADL src) (by simp only [R.ENC_LEADL]; omega) (by simp only [R.ENC_LEADL]; omega),
      h (R.ENC_LEADH src) (by simp only [R.ENC_LEADH]; omega) (by simp only [R.ENC_LEADH]; omega)]
  · rw [Block.n64, Block.n64, h R.ENC_MCNTL (by decide) (by decide), h R.ENC_MCNTH (by decide) (by decide)]

/-- A slot that is set is armed, and waits where its source has not reached its compare value (R58, R413). -/
theorem ends_slotArmed {a c src fb : Nat} {b : Block} (ha : 64 ≤ a) (hlt : a < 512) (hb : b.regs.wf = true) (hold : b.src a ≤ 16) (hs : src ≤ 16) (hfb : fb < 256)
    (hwait : b.source src < toSigned 48 c) : Ends (do slotWrites a c src fb; opWrite .core (R.ENC_ACTL a) (maskWord 0x8000 0x8000)) b fun _ d =>
      Within (slotBits a) alarmKeep b d ∧ d.compareAt a = toSigned 48 c ∧ d.arm a = true ∧ d.src a = src ∧ (F.ENC_ACTL_FB a).of (d.regs.get (R.ENC_ACTL a)) = fb ∧
        (a, b.u.elapsed, fb) ∈ d.u.enc.armed := by
  refine ends_bind (ends_slotWrites ha hlt hb hold c hs hfb) fun _ d hd => ?_
  have hsource : d.source src = b.source src := source_same (fun x _ hx => hd.within.reg fun _ => by
    simp only [slotBits, R.ENC_ACTL, R.ENC_ACMP0, R.ENC_ACMP1, R.ENC_ACMP2]
    omega) hs
  have hword : maskWord 0x8000 0x8000 = armWord := by decide
  rw [hword]
  refine ends_of_gives (arming_waits hd.within.wf hlt (.inl ha) (hd.src.trans_le hs) hd.arm (by rw [hd.src, hsource, hd.compare]; exact hwait)) ?_
  obtain ⟨harm, hsrc, hcompare, -⟩ := armed_shows hd.within.wf hlt
  have hfield := (armSlot_shows (b := d.mended (R.ENC_ACTL a)) hd.within.wf hlt (d.armedWord a)).2.2
  have hfall := hfield.trans ((armedWord_fields d a).2.2.trans hd.fb)
  have hmem := mem_armed d a
  rw [hd.fb, alarmKeep_elapsed hd.within.units] at hmem
  exact ⟨hd.within.trans ((within_mended (armSlot_within (b := d.mended (R.ENC_ACTL a)) hd.within.wf a (d.armedWord a))).mono (fun _ _ => .inl) fun _ _ => id),
    hcompare.trans hd.compare, harm, hsrc.trans hd.src, hfall, hmem⟩

/-- A slot's settings leave alone what a completion rests on. -/
theorem slotBits_runKept {a : Nat} {b d : Block} (ha : a < 512) (h : Within (slotBits a) alarmKeep b d) : RunKept b d := by
  have hk : alarmKeep d.u = alarmKeep b.u := h.units
  refine ⟨h.wf, fun x hx => h.reg fun _ e => ?_, congrArg (·.cmd) hk, congrArg (·.out) hk, congrArg (·.net) hk, congrArg (·.pwr) hk⟩
  simp only [window, List.mem_cons, List.not_mem_nil, or_false] at hx
  simp only [slotBits, R.ENC_ACTL, R.ENC_ACMP0, R.ENC_ACMP1, R.ENC_ACMP2] at e
  omega

end Sys2Proof.Machine
end

section
/-!
PROOF. Proofs/TimebaseCommands.lean: the functions of SNAPSHOT, TIME_SET, ALARM_SET and ALARM_CLEAR (R48, R58, R74, R410 to R413), each run on a
block that differs from the state's by what taking its packet told.
-/
namespace Sys2Proof.Machine

section
variable {b c : Block}

/-! ### What telling leaves -/

theorem told_reg (h : Within tellBits tellKeep b c) {a : Nat} (ha : window a ∉ [4, 0x11]) : c.regs.get a = b.regs.get a := by
  refine h.reg fun _ hx => ha ?_
  rcases hx with rfl | rfl | rfl | hx
  · exact (by decide : window R.CMD_RXCNT ∈ [4, 0x11])
  · exact (by decide : window R.CMD_LATECNT ∈ [4, 0x11])
  · exact (by decide : window R.CMD_STAT ∈ [4, 0x11])
  · rw [hx]
    decide

theorem told_column (h : Within tellBits tellKeep b c) {a : Nat} (h0 : 0x100000 ≤ a) (h1 : a < 0x110000) : c.regs.get a = b.regs.get a :=
  told_reg h (by simp only [window, List.mem_cons, List.not_mem_nil, or_false]; omega)

theorem told_units (h : Within tellBits tellKeep b c) : linkKeep c.u = linkKeep b.u := congrArg Prod.fst h.units

theorem told_wall (h : Within tellBits tellKeep b c) : c.u.wall = b.u.wall := (congrArg (fun u : Units => u.wall) (told_units h)).trans rfl

theorem told_n64 (h : Within tellBits tellKeep b c) {lo hi : Nat} (hlo : 0x100000 ≤ lo ∧ lo < 0x110000) (hhi : 0x100000 ≤ hi ∧ hi < 0x110000) :
    c.n64 lo hi = b.n64 lo hi := by
  rw [Block.n64, Block.n64, told_column h hlo.1 hlo.2, told_column h hhi.1 hhi.2]

theorem told_s48 (h : Within tellBits tellKeep b c) {lo hi : Nat} (hlo : 0x100000 ≤ lo ∧ lo < 0x110000) (hhi : 0x100000 ≤ hi ∧ hi < 0x110000) :
    c.s48 lo hi = b.s48 lo hi := congrArg (toSigned 48) (told_n64 h hlo hhi)

theorem told_source (h : Within tellBits tellKeep b c) {src : Nat} (hs : src ≤ 16) : c.source src = b.source src :=
  source_same (fun _ h0 h1 => told_column h h0 (by omega)) hs

theorem told_slot (h : Within tellBits tellKeep b c) {a : Nat} (ha : a < 512) : c.regs.get (R.ENC_ACTL a) = b.regs.get (R.ENC_ACTL a) ∧ c.compareAt a = b.compareAt a := by
  have hreg (x : Nat) (h0 : 0x101000 ≤ x) (h1 : x < 0x103000) : c.regs.get x = b.regs.get x := told_column h (by omega) (by omega)
  refine ⟨hreg _ (by simp only [R.ENC_ACTL]; omega) (by simp only [R.ENC_ACTL]; omega), ?_⟩
  rw [Block.compareAt, Block.compareAt, hreg (R.ENC_ACMP0 a) (by simp only [R.ENC_ACMP0]; omega) (by simp only [R.ENC_ACMP0]; omega),
    hreg (R.ENC_ACMP1 a) (by simp only [R.ENC_ACMP1]; omega) (by simp only [R.ENC_ACMP1]; omega),
    hreg (R.ENC_ACMP2 a) (by simp only [R.ENC_ACMP2]; omega) (by simp only [R.ENC_ACMP2]; omega)]

theorem runKept_refl (hb : b.regs.wf = true) : RunKept b b := ⟨hb, fun _ _ => rfl, rfl, rfl, rfl, rfl⟩

/-! ### Payloads -/

theorem leBytes_mod (n v : Nat) : leBytes n (v % 256 ^ n) = leBytes n v := by
  induction n generalizing v with
  | zero => rfl
  | succ n ih =>
    have hhead : BitVec.ofNat 8 (v % 256 ^ (n + 1)) = BitVec.ofNat 8 v := by
      refine BitVec.eq_of_toNat_eq ?_
      rw [BitVec.toNat_ofNat, BitVec.toNat_ofNat, Nat.pow_succ']
      exact Nat.mod_mul_right_mod v 256 (256 ^ n)
    have htail : v % 256 ^ (n + 1) / 256 = v / 256 % 256 ^ n := by
      rw [Nat.pow_succ']
      exact Nat.mod_mul_right_div_self v 256 (256 ^ n)
    rw [leBytes, leBytes, hhead, htail, ih]

/-- The first bytes of a number's bytes. -/
theorem leBytes_take (n k v : Nat) : (leBytes (n + k) v).take n = leBytes n v := by
  induction n generalizing v with
  | zero => rfl
  | succ n ih => rw [Nat.add_right_comm, leBytes, leBytes, List.take_succ_cons, ih]

theorem gives_signed48 (lo hi : Nat) (b : Block) : Gives (signed48 lo hi) b (leBytes 8 (ofSigned 64 (b.s48 lo hi))) b := fun _ => rfl

theorem gives_snapLanes (l : List Nat) (b : Block) : Gives (snapLanes l) b (l.flatMap fun n =>
    leBytes 8 (ofSigned 64 (b.s48 (R.ENC_SNAPL n) (R.ENC_SNAPH n))) ++ leBytes 8 (ofSigned 64 (b.s48 (R.ENC_SNAPLDL n) (R.ENC_SNAPLDH n)))) b := by
  induction l with
  | nil => exact gives_pure _ b
  | cons n l ih => exact gives_bind (gives_signed48 _ _ b) (gives_bind (gives_signed48 _ _ b) (gives_bind ih (gives_pure _ b)))

end

section
variable {s : State} {i : Nat} {h : Hdr} {p : List Byte}

/-! ### SNAPSHOT -/

/-- What SNAPSHOT answers (R411). -/
def State.snapshotBytes (s : State) : List Byte :=
  leBytes 4 ((s.fld F.ENC_SNAPSEQ_SEQ + 1) % 2 ^ 32) ++ zeros 4 ++ leBytes 8 s.dev.u.wall ++ leBytes 8 s.mains ++
    (List.range 16).flatMap fun n => leBytes 8 (ofSigned 64 (s.pos n)) ++ leBytes 8 (ofSigned 64 (s.lead n))

theorem laneRegs : ∀ n < 16, ∀ a ∈ [R.ENC_POSL n, R.ENC_POSH n, R.ENC_LEADL n, R.ENC_LEADH n, R.ENC_SNAPL n, R.ENC_SNAPH n], 0x100000 ≤ a ∧ a < 0x110000 := by
  decide

theorem snapTaken_bytes {c d : Block} (hc : Within tellBits tellKeep s.dev c) (hd : SnapTaken c d) :
    leBytes 4 (d.regs.get R.ENC_SNAPSEQ).toNat ++ zeros 4 ++ leBytes 8 (d.n64 R.ENC_SNAPWTL R.ENC_SNAPWTH) ++ leBytes 8 (d.n64 R.ENC_SNAPML R.ENC_SNAPMH) ++
      ((List.range 16).flatMap fun n => leBytes 8 (ofSigned 64 (d.s48 (R.ENC_SNAPL n) (R.ENC_SNAPH n))) ++
        leBytes 8 (ofSigned 64 (d.s48 (R.ENC_SNAPLDL n) (R.ENC_SNAPLDH n)))) = s.snapshotBytes ∧
    ∀ n < 16, d.s48 (R.ENC_SNAPL n) (R.ENC_SNAPH n) = s.pos n := by
  have hpos : ∀ n < 16, d.s48 (R.ENC_SNAPL n) (R.ENC_SNAPH n) = s.pos n := fun n hn =>
    (hd.lanes n hn).1.trans (told_s48 hc (laneRegs n hn _ (by simp)) (laneRegs n hn _ (by simp)))
  have hlead : ∀ n < 16, d.s48 (R.ENC_SNAPLDL n) (R.ENC_SNAPLDH n) = s.lead n := fun n hn =>
    (hd.lanes n hn).2.trans (told_s48 hc (laneRegs n hn _ (by simp)) (laneRegs n hn _ (by simp)))
  have hseq : (d.regs.get R.ENC_SNAPSEQ).toNat = (s.fld F.ENC_SNAPSEQ_SEQ + 1) % 2 ^ 32 := by
    have hwhole : F.ENC_SNAPSEQ_SEQ.of (d.regs.get R.ENC_SNAPSEQ) = (d.regs.get R.ENC_SNAPSEQ).toNat := Nat.mod_eq_of_lt (d.regs.get R.ENC_SNAPSEQ).isLt
    rw [← hwhole, hd.seq, told_column hc (by decide) (by decide)]
    rfl
  have hwall : c.u.wall = s.dev.u.wall := told_wall hc
  have hmains : c.n64 R.ENC_MCNTL R.ENC_MCNTH = s.mains := told_n64 hc (by decide) (by decide)
  have hbytes : leBytes 8 (s.dev.u.wall % 2 ^ 64) = leBytes 8 s.dev.u.wall := leBytes_mod 8 _
  refine ⟨?_, hpos⟩
  rw [hseq, hd.wall, hwall, hd.mains, hmains, hbytes, State.snapshotBytes]
  refine congrArg _ (List.flatMap_congr fun n hn => ?_)
  rw [hpos n (List.mem_range.mp hn), hlead n (List.mem_range.mp hn)]

theorem ends_runSnapshot {c : Block} (hc : Within tellBits tellKeep s.dev c) : Ends runSnapshot c fun r d => r = some (St.ok, s.snapshotBytes) ∧ RunKept c d ∧
    ∀ n < 16, d.s48 (R.ENC_SNAPL n) (R.ENC_SNAPH n) = s.pos n := by
  obtain ⟨_, d, hg, ht⟩ := snapshot_taken (b := c.mended R.ENC_SNAPCTL) hc.wf
  have hd : SnapTaken c d := ⟨within_mended ht.within, ht.lanes, ht.mains, ht.wall, ht.seq⟩
  obtain ⟨hbytes, hlanes⟩ := snapTaken_bytes hc hd
  have hkept : RunKept c d := by
    have hu : d.u = c.u := hd.within.units
    refine ⟨hd.within.wf, fun a ha => hd.within.reg fun _ e => ?_, by rw [hu], by rw [hu], by rw [hu], by rw [hu]⟩
    simp only [window, List.mem_cons, List.not_mem_nil, or_false] at ha
    omega
  refine ends_then (gives_snapWrite hg) (ends_then (gives_rd _ d) (ends_then (gives_rd64 _ _ d) (ends_then (gives_rd64 _ _ d) (ends_then (gives_snapLanes _ d)
    (ends_then (gives_rd _ d) (ends_ite_pos rfl (ends_of_gives (gives_pure _ d) ⟨?_, hkept, hlanes⟩)))))))
  rw [hbytes]

theorem does_snapshot (hr : Ready s i 0x0301 h p) : Does (.snapshot h p) s fun t => Answered s t i 0x0301 h St.ok s.snapshotBytes ∧
    ∀ n ∈ List.range 16, t.s48 (R.ENC_SNAPL n) (R.ENC_SNAPH n) = s.pos n := by
  refine does_command rfl hr (by decide) (fun c hc => ends_runSnapshot hc) fun d e hp he n hn => ?_
  have hlt : n < 16 := List.mem_range.mp hn
  exact (told_s48 he (laneRegs n hlt _ (by simp)) (laneRegs n hlt _ (by simp))).trans (hp n hlt)

/-! ### TIME_SET -/

/-- What a setting of wall time leaves: wall time and the slew (R74), and every register. -/
structure TimeLeft (b d : Block) (wall : Nat) (slew : Int) : Prop where
  regs : d.regs = b.regs
  wall : d.u.wall = wall
  slew : d.u.slew = slew

theorem timeStep_of_mem {s : State} (hm : s.mode ∈ [0, 2, 6]) : (s.mode == modeEnumerate || s.mode == modeIdle || s.mode == modeService) = true := by
  simp only [List.mem_cons, List.not_mem_nil, or_false] at hm
  rcases hm with e | e | e <;> rw [e] <;> decide

theorem timeSlew_of_notMem {s : State} (hm : s.mode ∉ [0, 2, 6]) : (s.mode == modeEnumerate || s.mode == modeIdle || s.mode == modeService) = false := by
  simp only [List.mem_cons, List.not_mem_nil, or_false, not_or] at hm
  obtain ⟨h0, h2, h6⟩ := hm
  simp [modeEnumerate, modeIdle, modeService, h0, h2, h6]

/-- The function of TIME_SET on a module in no ring: it steps wall time where `step` holds, and slews it elsewhere. -/
theorem ends_runTimeSet {c : Block} (hc : Within tellBits tellKeep s.dev c) (hring : s.dev.u.rng.ring = false) {step : Bool}
    (hstep : (s.mode == modeEnumerate || s.mode == modeIdle || s.mode == modeService) = step) :
    Ends (runTimeSet p) c fun r d =>
      r = some (St.ok, leBytes 1 (bit (!step)) ++ zeros 7 ++ leBytes 8 (ofSigned 64 ((leAt p 0 8 : Int) - s.dev.u.wall))) ∧ RunKept c d ∧
        TimeLeft c d (if step then leAt p 0 8 else s.dev.u.wall) (if step then 0 else (leAt p 0 8 : Int) - s.dev.u.wall) := by
  have hring' : c.u.rng.ring = false := (congrArg (fun u : Units => u.rng.ring) (told_units hc)).trans hring
  have hmember : Gives Sys2Proof.Machine.clusterMember c false c :=
    gives_bind (gives_units c) (gives_bind (gives_gf _ c) (gives_pure_eq (by rw [hring', Bool.false_and]) c))
  have hmode : Gives curMode c s.mode c := by
    have hreg : c.regs.get R.SYS_MODE = s.dev.regs.get R.SYS_MODE := told_reg hc (by decide)
    have hcur : F.SYS_MODE_CUR.of (c.regs.get R.SYS_MODE) = s.mode := congrArg F.SYS_MODE_CUR.of hreg
    exact hcur ▸ gives_gf F.SYS_MODE_CUR c
  refine ends_then (gives_units c) (ends_then hmember (ends_then hmode ?_))
  rw [hstep, told_wall hc]
  refine ends_ite_neg Bool.false_ne_true ?_
  cases step with
  | true => exact ends_ite_pos rfl (ends_then (gives_bind (gives_modU _ c) (gives_modLoop _ _)) (ends_of_gives (gives_pure _ _)
      ⟨rfl, ⟨hc.wf, fun _ _ => rfl, rfl, rfl, rfl, rfl⟩, rfl, rfl, rfl⟩))
  | false => exact ends_ite_neg Bool.false_ne_true (ends_then (gives_modU _ c) (ends_of_gives (gives_pure _ _)
      ⟨rfl, ⟨hc.wf, fun _ _ => rfl, rfl, rfl, rfl, rfl⟩, rfl, (told_wall hc : c.u.wall = s.dev.u.wall), rfl⟩))

/-- What TIME_SET answers and leaves (R412). -/
theorem does_timeSet (hr : Ready s i 0x0302 h p) (hring : s.dev.u.rng.ring = false) {step : Bool}
    (hstep : (s.mode == modeEnumerate || s.mode == modeIdle || s.mode == modeService) = step) :
    Does (.timeSet h p) s fun t => Answered s t i 0x0302 h St.ok (leBytes 1 (bit (!step)) ++ zeros 7 ++ leBytes 8 (ofSigned 64 ((leAt p 0 8 : Int) - s.dev.u.wall))) ∧
      t.dev.u.wall = (if step then leAt p 0 8 else s.dev.u.wall) ∧ t.dev.u.slew = (if step then 0 else (leAt p 0 8 : Int) - s.dev.u.wall) ∧
      RegsKept [4, 5, 0x11] s t := by
  refine does_command (P := fun d => ∃ c, Within tellBits tellKeep s.dev c ∧ TimeLeft c d _ _) rfl hr (by decide) (fun c hc =>
    ends_mono (ends_runTimeSet hc hring hstep) fun r d ⟨hd, hkept, hleft⟩ => ⟨hd, hkept, c, hc, hleft⟩) fun d e ⟨c, hc, hleft⟩ he => ?_
  have hslew : e.u.slew = d.u.slew := (congrArg (fun u : Units => u.slew) (told_units he)).trans rfl
  refine ⟨(told_wall he).trans hleft.wall, hslew.trans hleft.slew, fun a ha => ?_⟩
  have hwin : window a ∉ [4, 0x11] := fun hx => ha (by
    simp only [window, List.mem_cons, List.not_mem_nil, or_false] at hx
    simp only [inWindows, List.mem_cons, List.not_mem_nil, or_false]
    omega)
  exact (told_reg he hwin).trans ((congrArg (·.get a) hleft.regs).trans (told_reg hc hwin))

/-! ### ALARM_SET and ALARM_CLEAR -/

/-- The payload of ALARM_SET as its fields (R413). -/
theorem alarmSet_fields {n src fb : Nat} {v : Int} (hp : p = leBytes 2 n ++ leBytes 1 src ++ leBytes 1 fb ++ leBytes 8 (ofSigned 64 v)) (hn : n < 65536) (hs : src < 256) (hfb : fb < 256) :
    leAt p 0 2 = n ∧ leAt p 2 1 = src ∧ leAt p 3 1 = fb ∧ leAt p 4 6 = ofSigned 64 v % 2 ^ 48 := by
  subst hp
  simp only [List.append_assoc]
  refine ⟨?_, ?_, ?_, ?_⟩
  · exact (leAt_append [] _ 0 2 n rfl).trans (Nat.mod_eq_of_lt hn)
  · exact (leAt_append (leBytes 2 n) _ 2 1 src (leBytes_length 2 n)).trans (Nat.mod_eq_of_lt hs)
  · rw [← List.append_assoc]
    exact (leAt_append (leBytes 2 n ++ leBytes 1 src) _ 3 1 fb rfl).trans (Nat.mod_eq_of_lt hfb)
  · rw [← List.append_assoc, ← List.append_assoc, leAt, slice_append _ _ 4 6 rfl, leBytes_take 6 2, leNat_leBytes]
    rfl

/-- The low 48 bits of a value of 48 signed bits are the value. -/
theorem toSigned_payload {v : Int} (h0 : -(2 ^ 47) ≤ v) (h1 : v < 2 ^ 47) : toSigned 48 (ofSigned 64 v % 2 ^ 48) = v := by
  have hmod : ofSigned 64 v % 2 ^ 48 = ofSigned 48 v := by
    unfold ofSigned
    omega
  rw [hmod]
  exact wrapSigned_of_range (by decide) h0 h1

/-- Slot `n` waits for source `src` to reach `v`, armed at time `since` with fallback `fb`. -/
structure SlotArmed (n src fb since : Nat) (v : Int) (d : Block) : Prop where
  compare : d.compareAt n = v
  arm : (F.ENC_ACTL_ARM n).of (d.regs.get (R.ENC_ACTL n)) = 1
  src : (F.ENC_ACTL_SRC n).of (d.regs.get (R.ENC_ACTL n)) = src
  fallback : (F.ENC_ACTL_FB n).of (d.regs.get (R.ENC_ACTL n)) = fb
  listed : (n, since, fb) ∈ d.u.enc.armed

theorem ends_runAlarmSet {c : Block} (hc : Within tellBits tellKeep s.dev c) {n src fb : Nat} {v : Int} (hp : p = leBytes 2 n ++ leBytes 1 src ++ leBytes 1 fb ++ leBytes 8 (ofSigned 64 v))
    (h64 : 64 ≤ n) (hn : n < 512) (hold : s.fld (F.ENC_ACTL_SRC n) ≤ 16) (hs : src ≤ 16) (hfb : fb < 256) (h0 : -(2 ^ 47) ≤ v) (h1 : v < 2 ^ 47)
    (hwait : s.dev.source src < v) : Ends (runAlarmSet p) c fun r d => r = some (St.ok, []) ∧ RunKept c d ∧ SlotArmed n src fb s.dev.u.elapsed v d := by
  obtain ⟨fn, fs, ff, fc⟩ := alarmSet_fields hp (by omega) (by omega) hfb
  have hv := toSigned_payload h0 h1
  have hsrc : c.src n ≤ 16 := by
    rw [Block.src, (told_slot hc hn).1]
    exact hold
  have helapsed : c.u.elapsed = s.dev.u.elapsed := (congrArg (fun u : Units => u.elapsed) (told_units hc)).trans rfl
  have hset := ends_slotArmed (c := ofSigned 64 v % 2 ^ 48) h64 hn hc.wf hsrc hs hfb (by rw [told_source hc hs, hv]; exact hwait)
  simp only [runAlarmSet, fn, fs, ff, fc]
  refine ends_ite_neg (by omega) ?_
  show Ends ((do slotWrites n (ofSigned 64 v % 2 ^ 48) src fb; opWrite .core (R.ENC_ACTL n) (maskWord 0x8000 0x8000)) >>= fun _ => answer St.ok []) c _
  refine ends_bind hset fun _ d ⟨hw, hcompare, harm, hsrc', hfall, hlisted⟩ => ends_of_gives (gives_pure _ d) ⟨rfl, slotBits_runKept hn hw, ?_⟩
  have hone := of_one_lt (f := F.ENC_ACTL_ARM n) rfl (d.regs.get (R.ENC_ACTL n))
  have hset1 : (F.ENC_ACTL_ARM n).of (d.regs.get (R.ENC_ACTL n)) ≠ 0 := bne_iff_ne.mp harm
  exact ⟨hcompare.trans hv, by omega, hsrc', hfall, helapsed ▸ hlisted⟩

/-- ALARM_SET of a slot whose source has not reached the compare value (R413). -/
theorem does_alarmSet (hr : Ready s i 0x0303 h p) {n src fb : Nat} {v : Int} (hp : p = leBytes 2 n ++ leBytes 1 src ++ leBytes 1 fb ++ leBytes 8 (ofSigned 64 v))
    (h64 : 64 ≤ n) (hn : n < 512) (hold : s.fld (F.ENC_ACTL_SRC n) ≤ 16) (hs : src ≤ 16) (hfb : fb < 256) (h0 : -(2 ^ 47) ≤ v) (h1 : v < 2 ^ 47)
    (hwait : s.dev.source src < v) : Does (.alarmSet h p) s fun t => Answered s t i 0x0303 h St.ok [] ∧ t.compareAt n = v ∧ t.fld (F.ENC_ACTL_ARM n) = 1 ∧
      t.fld (F.ENC_ACTL_SRC n) = src ∧ t.fld (F.ENC_ACTL_FB n) = fb ∧ (n, s.dev.u.elapsed, fb) ∈ t.dev.u.enc.armed := by
  refine does_command rfl hr (by decide) (fun c hc => ends_runAlarmSet hc hp h64 hn hold hs hfb h0 h1 hwait) fun d e hd he => ?_
  obtain ⟨hctl, hcompare⟩ := told_slot he hn
  have henc : e.u.enc = d.u.enc := (congrArg (fun u : Units => u.enc) (told_units he)).trans rfl
  refine ⟨hcompare.trans hd.compare, (congrArg _ hctl).trans hd.arm, (congrArg _ hctl).trans hd.src, (congrArg _ hctl).trans hd.fallback, ?_⟩
  show _ ∈ e.u.enc.armed
  rw [henc]
  exact hd.listed

/-- A slot below 64 is no host's: the function refuses it, and nothing else happens (R58, R413). -/
theorem does_alarmSet_low (hr : Ready s i 0x0303 h p) (hlow : leAt p 0 2 < 64) :
    Does (.alarmSet h p) s fun t => Answered s t i 0x0303 h St.badParam [] ∧ TellsOnly s t := by
  refine does_command (P := Within tellBits tellKeep s.dev) rfl hr (by decide) (fun c hc => ?_) fun d e hd he => tellsOnly_of_within (hd.trans he)
  exact ends_ite_pos (.inl hlow) (ends_of_gives (gives_pure _ c) ⟨rfl, runKept_refl hc.wf, hc⟩)

/-- ALARM_CLEAR disarms its slot (R413). -/
theorem does_alarmClear (hr : Ready s i 0x0304 h p) {n : Nat} (hp : p = leBytes 2 n ++ zeros 2) (h64 : 64 ≤ n) (hn : n < 512) (hold : s.fld (F.ENC_ACTL_SRC n) ≤ 16) :
    Does (.alarmClear h p) s fun t => Answered s t i 0x0304 h St.ok [] ∧ t.fld (F.ENC_ACTL_ARM n) = 0 ∧ t.compareAt n = s.compareAt n ∧
      ∀ x ∈ t.dev.u.enc.armed, x.1 ≠ n := by
  have hslot : leAt p 0 2 = n := hp ▸ (leAt_append [] _ 0 2 n rfl).trans (Nat.mod_eq_of_lt (by omega))
  have hzero : zeroAt p 2 2 = true := by
    rw [zeroAt, hp, slice_append _ _ 2 2 rfl]
    decide
  refine does_command (P := fun d => d.arm n = false ∧ d.compareAt n = s.compareAt n ∧ ∀ x ∈ d.u.enc.armed, x.1 ≠ n) rfl hr (by decide) (fun c hc => ?_)
    fun d e ⟨harm, hcompare, hout⟩ he => ?_
  · have hsrc : c.src n ≤ 16 := by
      rw [Block.src, (told_slot hc hn).1]
      exact hold
    show Ends (runAlarmClear p) c _
    simp only [runAlarmClear, hslot, hzero]
    refine ends_ite_neg (by simp; omega) (ends_bind (ends_disarmWrite h64 hn hc.wf hsrc .core) fun _ d ⟨hw, harm, _, hout⟩ =>
      ends_of_gives (gives_pure _ d) ⟨rfl, slotBits_runKept hn (hw.mono (fun _ _ => .inl) fun _ _ => id), harm, ?_, hout⟩)
    exact (actlBits_compareAt hw).trans (told_slot hc hn).2
  · obtain ⟨hctl, hsame⟩ := told_slot he hn
    have henc : e.u.enc = d.u.enc := (congrArg (fun u : Units => u.enc) (told_units he)).trans rfl
    refine ⟨(congrArg _ hctl).trans (by simpa [Block.arm] using harm), hsame.trans hcompare, ?_⟩
    show ∀ x ∈ e.u.enc.armed, _
    rw [henc]
    exact hout

end

/-- Settles O34: each function runs on a block that differs from the state's by what taking its packet told, and what sending its completion
tells changes neither clocks nor slots. -/
theorem timebaseCommands : Obligations.TimebaseCommands := by
  unfold Obligations.TimebaseCommands
  refine ⟨?snapshot, ?step, ?slew, ?set, ?low, ?clear⟩
  case snapshot => exact fun s i h p hr => does_snapshot hr
  case step => exact fun s i h p hr hring _ hm => does_timeSet hr hring (timeStep_of_mem hm)
  case slew => exact fun s i h p hr hring _ hm => does_timeSet hr hring (timeSlew_of_notMem hm)
  case set =>
    intro s i h p n src fb v hr hp h64 hn hold hfb h0 h1 hwait
    rcases hwait with ⟨hs, hlead⟩ | ⟨rfl, hmains⟩
    · exact does_alarmSet hr hp h64 hn hold (by omega) hfb h0 h1 (by rw [Block.source, if_pos hs]; exact hlead)
    · refine does_alarmSet hr hp h64 hn hold (by decide) hfb h0 h1 ?_
      have hsource : s.dev.source 16 = (s.mains : Int) := (if_neg (by decide)).trans (toSigned_of_lt (show s.mains < 2 ^ 47 by omega) (by decide))
      rw [hsource]
      exact hmains
  case low => exact fun s i h p hr hlow => does_alarmSet_low hr hlow
  case clear => exact fun s i h p n hr hp h64 hn hold => does_alarmClear hr hp h64 hn hold

end Sys2Proof.Machine
end

section
/-!
PROOF. Proofs/RefutedTomography.lean: the statement about the Tomography function fails, by one state on which the model's own answer
contradicts a clause.
-/
namespace Sys2Proof.Machine

/-! ### The Tomography function: no room for the acknowledgement -/

/-- CAL_LOAD of a calibration table. -/
def calTableLoad : List Byte := zeros 4 ++ leBytes 4 65600

theorem calTableLoad_meets : Ready acksWaitState 1 0x0404 (openHostHdr 3) calTableLoad ∧ acksWaitState.dev.u.nv.commit = none := by
  decide +kernel

theorem calTableLoad_silent : shownAfter (fun t => t.dev.u.out) (.calLoad (openHostHdr 3) calTableLoad) acksWaitState = some [] := by
  decide +kernel

/-- Refutes O35: with the 64 buffers of the ACK staging taken (R556) the module sends no ACK, and the clause of an accepted CAL_LOAD wants
one. -/
theorem not_tomographyCommands : ¬ Obligations.TomographyCommands := by
  intro h
  unfold Obligations.TomographyCommands at h
  obtain ⟨-, -, load, -⟩ := h
  obtain ⟨hready, hcommit⟩ := calTableLoad_meets
  obtain ⟨t, ⟨⟨⟨-, hsent, -⟩, -⟩, -⟩, hout⟩ := does_shown
    (load acksWaitState 1 (openHostHdr 3) calTableLoad hready rfl hcommit) calTableLoad_silent
  simp [Sent, hout] at hsent

end Sys2Proof.Machine
end

section
/-!
PROOF. Proofs/FrontEndFacts.lean: fields of the block by name, and what the link to the dies and an electrode's fault tell (R86, R120).
-/
namespace Sys2Proof.Machine

/-! ### Fields of the block -/

/-- What a register field of the block holds. -/
def Block.fld (b : Block) (f : RF) : Nat := f.of (b.regs.get f.reg)

theorem fld_lt (b : Block) (f : RF) : b.fld f < 2 ^ (f.hi + 1 - f.lo) := Nat.mod_lt _ (by positivity)

theorem fld_setField {b : Block} (h : b.regs.wf = true) {f : RF} (hf : f.Held) (v : Nat) : (b.setField f v).fld f = v % 2 ^ (f.hi + 1 - f.lo) :=
  setField_of_same h hf v

theorem fld_setField_ne (b : Block) {f g : RF} (h : g.reg ≠ f.reg) (v : Nat) : (b.setField f v).fld g = b.fld g :=
  congrArg g.of (setField_get_ne b f v h)

theorem fld_setField_apart {b : Block} (h : b.regs.wf = true) {f g : RF} (hf : f.Held) (hr : g.reg = f.reg) (hg : g.hi < f.lo ∨ f.hi < g.lo) (v : Nat) :
    (b.setField f v).fld g = b.fld g := setField_of_apart h hf hr hg v

/-- A sum in a counter of 32 bits that stops at its top. -/
theorem satAdd_word (x n : Nat) : satAdd (2 ^ 32 - 1) x n % 2 ^ 32 = min (x + n) 0xFFFFFFFF := by
  unfold satAdd
  omega

/-! ### The link to the dies (R120) -/

/-- What repeated transfers of the link to die `d` show: LINKERR, and the count. -/
abbrev linkNoteBits (d a j : Nat) : Prop := (a = R.AFT_STAT d ∧ j = 14) ∨ a = R.AFT_LINKCNT d

section
variable {β : Type} {T : Nat → Nat → Prop} {keep : Units → β} {S : Prop} {b0 : Block}

theorem keeps_linkNote {d : Nat} (hT : ∀ a j, linkNoteBits d a j → T a j) (n : Nat) : Keeps S (Within T keep b0) (linkNote d n) :=
  keeps_onlyIf fun _ => keeps_bind (within_sb (Nat.le_refl 14) (show 14 < 32 by decide) fun j h0 h1 => hT _ j (.inl ⟨rfl, Nat.le_antisymm h1 h0⟩)) fun _ =>
    within_cntSat (Nat.zero_le 31) (show 31 < 32 by decide) fun j _ _ => hT _ j (.inr rfl)

theorem keeps_free (hk : ∀ u : Units, keep { u with free := u.free + 1 } = keep u) : Keeps S (Within T keep b0) free :=
  keeps_gives fun b hb => ⟨_, _, hb.trans (within_withU hb.wf (hk b.u)), gives_free b⟩

/-- The link carries an access: what it repeats is a free value (assumption log 109). -/
theorem keeps_linkCarries {d : Nat} (hT : ∀ a j, linkNoteBits d a j → T a j) (hk : ∀ u : Units, keep { u with free := u.free + 1 } = keep u) :
    Keeps S (Within T keep b0) (linkCarries d) :=
  keeps_bind (keeps_free hk) fun n => keeps_linkNote hT n

end

/-! ### Electrode faults (R86) -/

/-- The bit of AFT_EFAULT for electrode `e`. -/
abbrev faultField (e : Nat) : RF := ⟨R.AFT_EFAULT (e / 128) (e % 128 / 16), e % 16, e % 16⟩

/-- What a fault of some electrode shows. -/
abbrev faultBits (a j : Nat) : Prop := (∃ e, a = (faultField e).reg) ∨ (a = R.TOMO_STAT ∧ j = 3)

theorem keeps_electrodeFault {β : Type} {T : Nat → Nat → Prop} {keep : Units → β} {S : Prop} {b0 : Block} (hT : ∀ a j, faultBits a j → T a j) (e : Nat) :
    Keeps S (Within T keep b0) (electrodeFault e) :=
  keeps_bind (within_sb (Nat.le_refl _) (show e % 16 < 32 by omega) fun j _ _ => hT _ j (.inl ⟨e, rfl⟩)) fun _ =>
    within_sb (Nat.le_refl 3) (show 3 < 32 by decide) fun j h0 h1 => hT _ j (.inr ⟨rfl, Nat.le_antisymm h1 h0⟩)

end Sys2Proof.Machine
end

section
/-!
PROOF. Proofs/FramesRun.lean: the steps of bursts and frames, the frame close and the record's way to the ring, and the statement about them
(R81, R83, R86, R95 to R97, R104, R112, R115, R116, R119).
-/
namespace Sys2Proof.Machine

/-! ### What a step tells -/

/-- The registers of the front-end dies. -/
abbrev dieBits (a _j : Nat) : Prop := window a = 9

theorem keeps_stepFlags {S : Prop} {b0 : Block} (r : StepResult) : Keeps S (Within dieBits id b0) (stepFlags r) := by
  have hguard : ∀ g < 32, window (R.AFT_GSTAT (g / 16)) = 9 := fun g hg => by simp only [window, R.AFT_GSTAT]; omega
  have hstat : ∀ d < 2, window (R.AFT_STAT d) = 9 := fun d hd => by simp only [window, R.AFT_STAT]; omega
  have hcount : ∀ d < 2, window (R.AFT_LINKCNT d) = 9 := fun d hd => by simp only [window, R.AFT_LINKCNT]; omega
  refine keeps_bind (keeps_each fun g _ => keeps_onlyIf fun hg => ?guard) fun _ => keeps_bind (keeps_each fun d _ => keeps_onlyIf fun hd => ?sync)
    fun _ => keeps_each fun d _ => keeps_onlyIf fun hd => keeps_linkNote ?link 1
  case guard => exact within_sb (Nat.le_refl _) (show g % 16 < 32 by omega) fun _ _ _ => hguard g (of_decide_eq_true hg)
  case sync => exact within_sb (Nat.le_refl 15) (show 15 < 32 by decide) fun _ _ _ => hstat d (of_decide_eq_true hd)
  case link =>
    rintro a j (⟨rfl, -⟩ | rfl)
    · exact hstat d (of_decide_eq_true hd)
    · exact hcount d (of_decide_eq_true hd)

/-- What block `c` shows of the results `r` of a step that drove its electrode or not, counted in block `b`. -/
structure StepCounted (driven : Bool) (r : StepResult) (b c : Block) : Prop where
  units : c.u = b.u
  count : c.fld F.TOMO_OVLCNT_CNT = min (b.fld F.TOMO_OVLCNT_CNT + (r.results.filter (·.ovl)).length) 0xFFFFFFFF
  limited : driven = true → r.driveOvl = true → c.fld F.TOMO_STAT_DRVOVL = 1
  idle : driven = false → c.fld F.TOMO_DRVOVLCNT_CNT = b.fld F.TOMO_DRVOVLCNT_CNT ∧ c.fld F.TOMO_STAT_DRVOVL = b.fld F.TOMO_STAT_DRVOVL

theorem held_step : F.TOMO_OVLCNT_CNT.Held ∧ F.TOMO_STAT_OVL.Held ∧ F.TOMO_STAT_DRVOVL.Held := by decide

/-- The channel results overloaded under R83 are counted. -/
theorem ends_overloads {b : Block} (hb : b.regs.wf = true) (n : Nat) :
    Ends (onlyIf (decide (0 < n)) do
      cntSat F.TOMO_OVLCNT_CNT n
      sb F.TOMO_STAT_OVL true) b fun _ c => c.regs.wf = true ∧ c.u = b.u ∧
        c.fld F.TOMO_OVLCNT_CNT = min (b.fld F.TOMO_OVLCNT_CNT + n) 0xFFFFFFFF ∧ c.fld F.TOMO_DRVOVLCNT_CNT = b.fld F.TOMO_DRVOVLCNT_CNT ∧
        c.fld F.TOMO_STAT_DRVOVL = b.fld F.TOMO_STAT_DRVOVL := by
  obtain ⟨hcnt, hovl, -⟩ := held_step
  refine ends_onlyIf (fun _ => ?some) fun hn => ?none
  case some =>
    have h1 := setField_wf hb F.TOMO_OVLCNT_CNT (satAdd (2 ^ 32 - 1) (b.fld F.TOMO_OVLCNT_CNT) n)
    refine ends_then (gives_cntSat _ n b) (ends_of_gives (gives_sb _ true _) ⟨setField_wf h1 _ _, rfl, ?_, ?_, ?_⟩)
    · exact (fld_setField_ne _ (by decide) _).trans ((fld_setField hb hcnt _).trans (satAdd_word _ n))
    · exact (fld_setField_ne _ (by decide) _).trans (fld_setField_ne _ (by decide) _)
    · exact (fld_setField_apart (g := F.TOMO_STAT_DRVOVL) h1 hovl rfl (by decide) _).trans (fld_setField_ne _ (by decide) _)
  case none =>
    have hzero : n = 0 := Nat.eq_zero_of_not_pos (of_decide_eq_false hn)
    have hlt := fld_lt b F.TOMO_OVLCNT_CNT
    refine ⟨hb, rfl, ?_, rfl, rfl⟩
    rw [hzero, Nat.add_zero]
    exact (Nat.min_eq_left (Nat.le_of_lt_succ hlt)).symm

theorem ends_stepCounts {b : Block} (hb : b.regs.wf = true) (driven : Bool) (r : StepResult) :
    Ends (stepCounts driven r) b fun _ c => StepCounted driven r b c := by
  obtain ⟨-, -, hdrv⟩ := held_step
  refine ends_bind (ends_overloads hb _) fun _ c ⟨hc, hu, hcnt, hdcnt, hdstat⟩ => ends_onlyIf (fun h => ?limited) fun h => ?within
  case limited =>
    obtain ⟨hd, hr⟩ := Bool.and_eq_true_iff.1 h
    have h1 := setField_wf hc F.TOMO_DRVOVLCNT_CNT (satAdd (2 ^ 32 - 1) (c.fld F.TOMO_DRVOVLCNT_CNT) 1)
    refine ends_then (gives_cntSat _ 1 c) (ends_of_gives (gives_sb _ true _) ⟨hu, ?_, fun _ _ => fld_setField h1 hdrv 1, fun hn => ?_⟩)
    · exact (fld_setField_ne _ (by decide) _).trans ((fld_setField_ne _ (by decide) _).trans hcnt)
    · exact absurd (hd.symm.trans hn) (by decide)
  case within => exact ⟨hu, hcnt, fun hd hr => by simp [hd, hr] at h, fun _ => ⟨hdcnt, hdstat⟩⟩

/-- A step's results are told and counted, and then the frame goes on. -/
theorem ends_stepTold {b : Block} (hb : b.regs.wf = true) (driven : Bool) (r : StepResult) {m : Op Unit} {Q : Unit → Block → Prop}
    (hm : ∀ c, StepCounted driven r b c → Ends m c Q) : Ends (do stepFlags r; stepCounts driven r; m) b Q := by
  refine ends_keeps (keeps_stepFlags r) (within_refl hb) fun _ c hw => ends_bind (ends_stepCounts hw.wf driven r) fun _ d hd => hm d ?_
  have hkept : ∀ f : RF, window f.reg ≠ 9 → c.fld f = b.fld f := fun f hf => hw.fld f fun _ _ _ => hf
  exact ⟨hd.units.trans hw.units, hd.count.trans (by rw [hkept _ (by decide)]), hd.limited, fun h => by
    rw [← hkept F.TOMO_DRVOVLCNT_CNT (by decide), ← hkept F.TOMO_STAT_DRVOVL (by decide)]
    exact hd.idle h⟩

/-! ### Steps -/

theorem gives_stepDue (f : Frame) (b : Block) : Gives (stepDue f) b (decide (f.began + f.step * 40000 ≤ b.u.elapsed)) b :=
  gives_bind (gives_now b) (gives_pure _ b)

/-- The electrode that step `f.step` of a frame drives (R81, R86, R97). -/
def State.drives (s : State) (f : Frame) : Option Nat :=
  let e := s.fld (F.TOMO_STEP_DRV f.step)
  if s.fld (F.TOMO_STEP_DRVEN f.step) = 1 ∧ e / 8 ∈ f.plan.producing ∧ e ∉ f.faulted then some e else none

section
variable {s : State} {f : Frame} (hl : Live s) (hb : Canon s) (hframe : s.dev.u.tomo.frame = some f)
  (hdue : f.began + f.step * 40000 ≤ s.dev.u.elapsed)

include hl hb hframe hdue

/-- A step of the burst (R95, R99). -/
theorem burstStep_advances (x : StepSense) (hburst : f.burst = true) (hstep : f.step < 32) : Does (.burstStep x) s fun t =>
    t.dev.u.tomo.frame = some { f with step := f.step + 1, burstRuns := f.burstRuns ++ [burstResult f x] } ∧
      ∃ c, StepCounted (decide (f.step ∈ f.plan.producing)) (burstResult f x) s.dev c ∧ t.dev.regs = c.regs := by
  refine does_of_ends (m := opBurstStep x) rfl hl (ends_then (gives_tomoS _) ?_)
  rw [hframe]
  refine ends_then (gives_stepDue f _) (ends_onlyIf_true (by simp [hburst, hstep, hdue]) (ends_stepTold hb _ _ fun c hc => ?_))
  exact ends_of_gives (gives_modTomo c _) ⟨rfl, c, hc, rfl⟩

/-- A step of the frame (R95 to R98). -/
theorem excitationStep_advances (x : StepSense) (hburst : f.burst = false) (hstep : f.step < 256) : Does (.excitationStep x) s fun t =>
    (∃ gmode codes, t.dev.u.tomo.frame = some { f with
      step := f.step + 1, runs := f.runs ++ [⟨f.step, s.drives f, gmode, codes, frameResult f (s.drives f) x⟩] }) ∧
      ∃ c, StepCounted (s.drives f).isSome (frameResult f (s.drives f) x) s.dev c ∧ t.dev.regs = c.regs := by
  refine does_of_ends (m := opExcitationStep x) rfl hl (ends_then (gives_tomoS _) ?_)
  rw [hframe]
  refine ends_then (gives_stepDue f _) (ends_onlyIf_true (by simp [hburst, hstep, hdue]) (ends_then (gives_bf _ _) (ends_then (gives_bf _ _)
    (ends_then (gives_gf _ _) ?_))))
  have hdrives : (if (F.TOMO_STEP_DRVEN f.step).of (s.dev.regs.get (F.TOMO_STEP_DRVEN f.step).reg) != 0 &&
        decide ((F.TOMO_STEP_DRV f.step).of (s.dev.regs.get (F.TOMO_STEP_DRV f.step).reg) / 8 ∈ f.plan.producing) &&
        decide ((F.TOMO_STEP_DRV f.step).of (s.dev.regs.get (F.TOMO_STEP_DRV f.step).reg) ∉ f.faulted)
      then some ((F.TOMO_STEP_DRV f.step).of (s.dev.regs.get (F.TOMO_STEP_DRV f.step).reg)) else none) = s.drives f := by
    have hbit : s.fld (F.TOMO_STEP_DRVEN f.step) < 2 ^ 1 := fld_lt s.dev (F.TOMO_STEP_DRVEN f.step)
    refine if_congr ?_ rfl rfl
    rw [Bool.and_eq_true, Bool.and_eq_true, bne_iff_ne, decide_eq_true_eq, decide_eq_true_eq, and_assoc]
    refine and_congr_left fun _ => ?_
    show s.fld (F.TOMO_STEP_DRVEN f.step) ≠ 0 ↔ s.fld (F.TOMO_STEP_DRVEN f.step) = 1
    omega
  simp only [hdrives]
  exact ends_stepTold hb _ _ fun c hc => ends_of_gives (gives_modTomo c _) ⟨⟨_, _, rfl⟩, c, hc, rfl⟩

end

/-! ### The frame close -/

/-- Every register but the die temperatures. -/
abbrev notTemps (a _j : Nat) : Prop := a ≠ R.AFT_TEMP 0 ∧ a ≠ R.AFT_TEMP 1

theorem linkNote_notTemps (d a j : Nat) (h : linkNoteBits d a j) : notTemps a j := by
  rcases h with ⟨rfl, -⟩ | rfl <;>
  · simp only [notTemps, R.AFT_STAT, R.AFT_LINKCNT, R.AFT_TEMP]
    omega

theorem fault_notTemps (a j : Nat) (h : faultBits a j) : notTemps a j := by
  rcases h with ⟨e, rfl⟩ | ⟨rfl, -⟩
  · simp only [notTemps, R.AFT_EFAULT, R.AFT_TEMP]
    omega
  · exact ⟨by decide, by decide⟩

theorem held_temps : (F.AFT_TEMP_TEMP 0).Held ∧ (F.AFT_TEMP_TEMP 1).Held := by decide

/-- The block with the die temperatures shown (R116). -/
def Block.temps (b : Block) (t0 t1 : Int) : Block := (b.setField (F.AFT_TEMP_TEMP 0) (ofSigned 16 t0)).setField (F.AFT_TEMP_TEMP 1) (ofSigned 16 t1)

theorem temps_shows {b : Block} (hb : b.regs.wf = true) (t0 t1 : Int) : (b.temps t0 t1).regs.wf = true ∧
    (b.temps t0 t1).fld (F.AFT_TEMP_TEMP 0) = ofSigned 16 t0 ∧ (b.temps t0 t1).fld (F.AFT_TEMP_TEMP 1) = ofSigned 16 t1 := by
  obtain ⟨h0, h1⟩ := held_temps
  have hwf := setField_wf hb (F.AFT_TEMP_TEMP 0) (ofSigned 16 t0)
  refine ⟨setField_wf hwf _ _, (fld_setField_ne _ (by decide) _).trans ((fld_setField hb h0 _).trans ?_), (fld_setField hwf h1 _).trans ?_⟩ <;>
  · exact Nat.mod_eq_of_lt (ofSigned_lt 16 _)

theorem closed_fld (c : Block) (v : Nat) {g : RF} (hg : g.reg ≠ R.TOMO_STAT) :
    ((c.setField F.TOMO_STAT_CALSTALE v).setField F.TOMO_STAT_RUNNING 0).fld g = c.fld g :=
  (fld_setField_ne (f := F.TOMO_STAT_RUNNING) _ hg 0).trans (fld_setField_ne (f := F.TOMO_STAT_CALSTALE) _ hg v)

theorem closed_running {c : Block} (hc : c.regs.wf = true) (v : Nat) :
    ((c.setField F.TOMO_STAT_CALSTALE v).setField F.TOMO_STAT_RUNNING 0).fld F.TOMO_STAT_RUNNING = 0 :=
  fld_setField (setField_wf hc _ v) held_tomo.1 0

section
variable {s : State} {f : Frame} (hl : Live s) (hb : Canon s) (hcore : CoreUp s 4)
include hl hb hcore

/-- The frame close (R112 to R116). -/
theorem frameClose_closes {t0 t1 : Int} (hframe : s.dev.u.tomo.frame = some f) (hburst : f.burst = false) (hstep : f.step = 256)
    (hdue : f.began + f.step * 40000 ≤ s.dev.u.elapsed) : Does (.frameClose t0 t1) s fun t => t.dev.u.tomo.frame = none ∧
      (t.dev.u.tomo.closed.map fun c => (c.fseq, c.stamp, c.plan, c.temp0, c.temp1, c.wtClose)) = some (f.fseq, f.stamp, f.plan, t0, t1, s.dev.u.wall) ∧
      t.fld F.TOMO_STAT_RUNNING = 0 ∧ t.fld (F.AFT_TEMP_TEMP 0) = ofSigned 16 t0 ∧ t.fld (F.AFT_TEMP_TEMP 1) = ofSigned 16 t1 ∧
      t.dev.u.tomo.calNext = none ∧ ∀ d, s.dev.u.tomo.calNext = some d → t.dev.u.tomo.cal = some d := by
  obtain ⟨hwf, htemp0, htemp1⟩ := temps_shows hb t0 t1
  have hkeep := within_refl (T := notTemps) (keep := Units.tomo) hwf
  refine does_of_ends (m := opFrameClose t0 t1) rfl hl (ends_onCore hcore (ends_then (gives_tomoS _) (ends_then (gives_wall _) (ends_then (gives_now _)
    (ends_then (gives_bf _ _) ?_)))))
  rw [hframe]
  refine ends_then (gives_stepDue f _) (ends_onlyIf_true (by rw [hburst, decide_eq_true hstep, decide_eq_true hdue]; rfl) ?_)
  refine ends_then (gives_setField _ _ _) (ends_then (gives_setField _ _ _) ?_)
  refine ends_keeps (keeps_onlyIf fun _ => keeps_bind (within_cntSat (by decide) (by decide) fun _ _ _ => ⟨by decide, by decide⟩) fun _ =>
    within_sb (by decide) (by decide) fun _ _ _ => ⟨by decide, by decide⟩) hkeep fun _ c1 h1 => ?_
  refine ends_keeps (keeps_onlyIf fun _ => within_sb (by decide) (by decide) fun _ _ _ => ⟨by decide, by decide⟩) h1 fun _ c2 h2 => ?_
  refine ends_keeps (keeps_each fun e _ => keeps_electrodeFault fault_notTemps e) h2 fun _ c3 h3 => ?_
  refine ends_keeps (keeps_onlyIf fun _ => keeps_each fun d _ => keeps_linkCarries (linkNote_notTemps d) fun _ => rfl) h3 fun _ c4 h4 => ?_
  refine ends_then (gives_setField _ _ c4) (ends_then (gives_sb _ false _) (ends_of_gives (gives_modTomo _ _)
    ⟨rfl, rfl, closed_running h4.wf _, ?_, ?_, rfl, fun d hd => by simp only [withU_u, hd]⟩))
  · exact (closed_fld c4 _ (g := F.AFT_TEMP_TEMP 0) (by decide)).trans ((h4.fld (F.AFT_TEMP_TEMP 0) fun _ _ _ hx => hx.1 rfl).trans htemp0)
  · exact (closed_fld c4 _ (g := F.AFT_TEMP_TEMP 1) (by decide)).trans ((h4.fld (F.AFT_TEMP_TEMP 1) fun _ _ _ hx => hx.2 rfl).trans htemp1)

end

/-! ### The record's way to the ring -/

/-- The registers outside the front end's window. -/
abbrev notFront (a _j : Nat) : Prop := window a ≠ 8

/-- What of the units' data a capture leaves, as far as the record's way needs it. -/
def captureKeep (u : Units) : TomoS × Option FrameRec := (u.tomo, u.reco.waiting)

section
variable {S : Prop} {b0 : Block}

theorem keeps_stagingFull {β : Type} {keep : Units → β} : Keeps S (Within notFront keep b0) stagingFull := by
  have hlevel : ∀ i < 32, ∀ v, Keeps S (Within notFront keep b0) (sbit R.POOL_QSTAT i v) := fun i hi v =>
    within_sb (Nat.le_refl i) hi fun _ _ _ => show window R.POOL_QSTAT ≠ 8 by decide
  exact keeps_bind (keeps_bind (hlevel 0 (by decide) _) fun _ => keeps_bind (hlevel 16 (by decide) _) fun _ =>
    within_sb (by decide) (by decide) fun _ _ _ => show window R.POOL_STAT ≠ 8 by decide) fun _ => hlevel 0 (by decide) _

theorem keeps_recLatch {P : Block → Prop} : Keeps S P recLatch :=
  keeps_bind keeps_block fun _ => keeps_bind (keeps_bind (keeps_gf _) fun _ => keeps_bind (keeps_gf _) fun _ => keeps_pure _) fun _ => keeps_pure _

/-- A capture takes the frame's values, and no more of what the record's way needs (R153). -/
theorem keeps_captureFrame (fr : FrameRec) : Keeps S (Within notFront captureKeep b0) (captureFrame fr) := by
  refine keeps_bind (keeps_bind keeps_units fun _ => keeps_pure _) fun q => keeps_bind (keeps_gf _) fun m => ?_
  split
  · exact keeps_pure ()
  · exact keeps_onlyIf fun _ => keeps_bind keeps_recLatch fun _ => keeps_bind (within_modU fun _ => rfl) fun _ => keeps_onlyIf fun _ =>
      keeps_bind (keeps_free fun _ => rfl) fun _ => keeps_onlyIf fun _ => keeps_stagingFull

end

/-- The record of the frame that closed, in its slot of the ring (R104, R115). -/
def State.placed (s : State) (fr : FrameRec) : FrameRec := { fr with place := s.fld F.TOMO_RINGBASE_BASE * 4096 + s.dev.u.tomo.nextSlot * 524288 }

theorem gives_recS (b : Block) : Gives recS b b.u.reco b := fun _ => rfl

theorem held_lastrec : F.TOMO_LASTREC_SLOT.Held := by decide

/-- FRAME_RECORD_PUBLISH with nothing waiting for reconstruction (R115, R142). -/
theorem frameRecordPublish_stores {s : State} {fr : FrameRec} (hl : Live s) (hb : Canon s) (hclosed : s.dev.u.tomo.closed = some fr)
    (hwait : s.dev.u.reco.waiting = none) (hslot : s.dev.u.tomo.nextSlot < 64) (hcore : CoreUp s 4) : Does .frameRecordPublish s fun t =>
      t.dev.u.tomo = { s.dev.u.tomo with
        closed := none, nextSlot := (s.dev.u.tomo.nextSlot + 1) % 64,
        ring := (s.dev.u.tomo.nextSlot, s.placed fr) :: s.dev.u.tomo.ring.filter (fun x => x.1 ≠ s.dev.u.tomo.nextSlot) } ∧
      t.fld F.TOMO_LASTREC_SLOT = s.dev.u.tomo.nextSlot ∧ t.dev.u.reco.waiting = some (s.placed fr) := by
  refine does_of_ends (m := opFrameRecordPublish) rfl hl (ends_onCore hcore (ends_then (gives_tomoS _) ?_))
  rw [hclosed]
  have hset := setField_wf hb F.TOMO_LASTREC_SLOT s.dev.u.tomo.nextSlot
  refine ends_then (gives_gf _ _) (ends_then (gives_setField _ _ _) (ends_then (gives_modTomo _ _)
    (ends_keeps (keeps_captureFrame (s.placed fr)) (within_refl (by exact hset)) fun _ c hc => ends_then (gives_recS c) ?_)))
  have htomo : c.u.tomo = _ := congrArg Prod.fst hc.units
  have hnone : c.u.reco.waiting = none := (congrArg Prod.snd hc.units).trans hwait
  rw [hnone]
  refine ends_of_gives (gives_modRec c _) ⟨htomo, ?_, rfl⟩
  exact (hc.fld F.TOMO_LASTREC_SLOT fun _ _ _ h => h rfl).trans ((fld_setField hb held_lastrec _).trans (Nat.mod_eq_of_lt hslot))

/-- Settles O11: a step is told, counted and kept in its frame; the close shows the temperatures and makes the record, and the record takes the
next slot of the ring. -/
theorem framesRun : Obligations.FramesRun := by
  unfold Obligations.FramesRun
  refine ⟨?burst, ?clamped, ?step, ?close, ?publish⟩
  case burst =>
    intro s x f hl hb hframe hburst hstep hdue
    refine does_mono (burstStep_advances hl hb hframe hdue x hburst hstep) fun t ⟨hkept, c, hc, hregs⟩ => ?_
    refine ⟨hkept, ?_, fun hdriven hover => ?_⟩ <;> rw [State.fld, State.reg, hregs]
    · exact hc.count
    · exact hc.limited (decide_eq_true hdriven) hover
  case clamped =>
    intro s x f hl hb hframe hburst hstep hdue hclamped
    refine does_mono (burstStep_advances hl hb hframe hdue x hburst hstep) fun t ⟨hkept, c, hc, hregs⟩ => ⟨hkept, ?_⟩
    simp only [State.fld, State.reg, hregs]
    exact hc.idle (decide_eq_false hclamped)
  case step =>
    rintro s x f e drv hl hb hframe hburst hstep rfl rfl hdue
    refine does_mono (excitationStep_advances hl hb hframe hdue x hburst hstep) fun t ⟨⟨gmode, codes, hkept⟩, c, hc, hregs⟩ => ?_
    refine ⟨?_, ?_, ?_⟩
    · rw [hkept, Option.map_some, List.length_append]
      rfl
    · rw [hkept, Option.bind_some, List.getLast?_append]
      rfl
    · rw [State.fld, State.reg, hregs]
      exact hc.count
  case close =>
    intro s f t0 t1 hl hb hframe hburst hstep hdue hcore
    refine does_mono (frameClose_closes hl hb hcore hframe hburst hstep hdue) fun t ⟨hgone, hrec, hrun, htemp0, htemp1, hnext, hcal⟩ => ?_
    refine ⟨hgone, hrec, hrun, htemp0, htemp1, fun hsome => ⟨?_, hnext⟩⟩
    obtain ⟨d, hd⟩ := Option.isSome_iff_exists.1 hsome
    rw [hcal d hd, hd]
  case publish =>
    intro s fr hl hb hclosed hwait hslot hcore
    refine does_mono (frameRecordPublish_stores hl hb hclosed hwait hslot hcore) fun t ⟨htomo, hlast, hwaits⟩ => ?_
    rw [htomo]
    exact ⟨List.find?_cons_of_pos (decide_eq_true rfl), hlast, rfl, rfl, hwaits⟩

end Sys2Proof.Machine
end

section
/-!
PROOF. Proofs/FrontEndWrites.lean: writes of TOMO_CTL and of the range tables, the end of a calibration sweep, and the statement about them
(R87, R88, R101, R102, R110, R111, R120).
-/
namespace Sys2Proof.Machine

/-! ### Words and fields kept -/

/-- A word whose bits outside a field are kept, with the field cleared. -/
theorem Within.cleared {β : Type} {T : Nat → Nat → Prop} {keep : Units → β} {b c : Block} (h : Within T keep b c) (f : RF) (hlo : f.lo ≤ f.hi)
    (hhi : f.hi < 32) (hf : ∀ j, ¬(f.lo ≤ j ∧ j ≤ f.hi) → ¬T f.reg j) : f.put (c.regs.get f.reg) 0 = f.put (b.regs.get f.reg) 0 := by
  refine BitVec.eq_of_toNat_eq (Nat.eq_of_testBit_eq fun j => ?_)
  rw [put_testBit f _ 0 j hhi hlo, put_testBit f _ 0 j hhi hlo]
  split
  · rfl
  next hj => exact h.bit f.reg j (hf j hj)

theorem setReg_wf {b : Block} (h : b.regs.wf = true) (a : Nat) (w : Word) : (b.setReg a w).regs.wf = true := wf_set b.regs a w h

/-- A register in which its own word is stored. -/
theorem get_set_self {l : Regs} (h : l.wf = true) (a c : Nat) : (l.set a (l.get a)).get c = l.get c := by
  by_cases e : c = a
  · subst e
    refine get_eq_of_bits fun j => (bit_get_set h c _ j).trans ?_
    rw [← regFit_bit, regFit_get h]
  · exact get_set_ne l _ e

/-! ### The frame budget and the sweep's latch -/

/-- What the frame budget shows: REC_NITEREFF, and REC_STAT.BUDGETX (R139 to R141). -/
abbrev budgetBits (a j : Nat) : Prop := a = R.REC_NITEREFF ∨ (a = R.REC_STAT ∧ j = 12)

theorem budgetBits_mem {a j : Nat} (h : budgetBits a j) : a ∈ [R.REC_NITEREFF, R.REC_STAT] := by
  rcases h with rfl | ⟨rfl, -⟩ <;> simp

/-- Of REC_STAT the frame budget changes BUDGETX alone. -/
theorem budget_cleared (j : Nat) (h : ¬(F.REC_STAT_BUDGETX.lo ≤ j ∧ j ≤ F.REC_STAT_BUDGETX.hi)) : ¬budgetBits F.REC_STAT_BUDGETX.reg j := by
  rintro (hreg | ⟨-, rfl⟩)
  · exact absurd hreg (by decide)
  · exact h (by decide)

theorem keeps_recBudget {S : Prop} {b0 : Block} : Keeps S (Within budgetBits id b0) recBudget := by
  have hover : ∀ v, Keeps S (Within budgetBits id b0) (sb F.REC_STAT_BUDGETX v) := fun v =>
    within_sb (by decide) (by decide) fun j h0 h1 => .inr ⟨rfl, Nat.le_antisymm h1 h0⟩
  refine keeps_bind (keeps_bind (keeps_gf _) fun _ => keeps_bind (keeps_gf _) fun _ => keeps_pure _) fun n =>
    keeps_bind (keeps_bind keeps_units fun _ => keeps_pure _) fun q => keeps_bind (keeps_bind (keeps_gf _) fun _ => keeps_bind (keeps_bf _) fun _ =>
      keeps_pure _) fun p => keeps_bind (within_sf (by decide) (by decide) fun _ _ _ => .inl rfl) fun _ => ?_
  split
  · exact hover _
  · exact hover _

/-- A sweep whose tones are latched has nothing to latch. -/
theorem gives_sweepLatchDue {b : Block} (h : ∀ w ∈ b.u.tomo.sweep, w.freq.isSome = true) : Gives sweepLatchDue b () b := by
  refine gives_bind (gives_now b) (gives_bind (gives_tomoS b) (gives_bind (gives_planRegs b) ?_))
  split
  · exact gives_pure () b
  next w hw =>
    have hlatched : w.freq.isNone = false := Option.isNone_eq_false_iff.2 (h w hw)
    exact gives_onlyIf_false (by rw [hlatched, Bool.and_false])

/-- Latching a sweep's tones leaves the frame. -/
theorem keeps_sweepLatchDue {S : Prop} {b0 : Block} : Keeps S (Within (fun _ _ => False) (fun u => u.tomo.frame) b0) sweepLatchDue := by
  refine keeps_bind keeps_now fun _ => keeps_bind (keeps_bind keeps_units fun _ => keeps_pure _) fun _ =>
    keeps_bind (keeps_bind keeps_block fun _ => keeps_pure _) fun _ => ?_
  split
  · exact keeps_pure ()
  · exact keeps_onlyIf fun _ => within_modU fun _ => rfl

/-! ### Writes of TOMO_CTL -/

/-- The row of TOMO_CTL. -/
def tctlRow : RegRow := ⟨"TOMO_CTL", 0x80000, [], 0x0, 0xEF00, 0x0, 0x1000, 0xFF, [], true, [(1, 0x6300)], 0x0, 0x0⟩

theorem gives_regView_tctl (b : Block) : Gives (regView tctlRow 0 R.TOMO_CTL) b (b.regs.get R.TOMO_CTL) b :=
  gives_bind (gives_rd _ b) (gives_bind (gives_now b) (gives_bind (gives_units b) (gives_rd _ b)))

/-- A write to TOMO_CTL that selects some of bits 15 to 8 alone does what the unit makes of it. -/
theorem ends_tctlWrite {src : Src} {w : Word} {b : Block} {Q : Block → Prop} (hm : w.toNat / 65536 ≠ 0) (hk : (w.toNat / 65536) &&& 0xFF = 0)
    (h : Ends (tomoWrite R.TOMO_CTL R.TOMO_CTL (mergeWord tctlRow (b.regs.get R.TOMO_CTL) w) (BitVec.ofNat 32 (w.toNat &&& (w.toNat / 65536) &&& 0x1000)))
      (b.mended R.TOMO_CTL) fun _ c => c.regs.wf = true ∧ ∀ d, Within budgetBits id c d → Q d) : Ends (opWrite src R.TOMO_CTL w) b fun _ d => Q d := by
  have hfront : Ends (unitWrite src tctlRow.base 0 R.TOMO_CTL (mergeWord tctlRow (b.regs.get R.TOMO_CTL) w)
      (BitVec.ofNat 32 (w.toNat &&& (w.toNat / 65536) &&& tctlRow.wo)) w) (b.mended R.TOMO_CTL) fun _ d => Q d :=
    ends_bind h fun _ c ⟨hc, hq⟩ => ends_onlyIf_true rfl (ends_mono (ends_of_keeps keeps_recBudget (within_refl hc)) fun _ d hd => hq d hd)
  obtain ⟨_, d, hgives, hq⟩ := hfront
  refine ends_of_gives (gives_opWrite (gives_fabricWrite (r := tctlRow) (i := 0) (privileged_of_window (n := 8) rfl (by decide)) rfl rfl (by decide) rfl
    (gives_maskedWrite (gives_regView_tctl b) hm ?_ hgives))) hq
  rw [Nat.and_assoc, show tctlRow.kp = 0xFF from rfl, hk, Nat.and_zero]

/-- SINGLE alone changes no bit of TOMO_CTL. -/
theorem single_merges (old : Word) : mergeWord tctlRow old 0x10001000 = old := by
  refine BitVec.eq_of_toNat_eq (Nat.eq_of_testBit_eq fun j => (mergeWord_bit rfl old _ j).trans (if_neg fun ⟨hsel, hrw⟩ => ?_))
  have hboth : (((0x10001000 : Word).toNat / 65536) &&& tctlRow.rw).testBit j = true := by
    rw [Nat.testBit_and, Bool.and_eq_true]
    exact ⟨hsel, hrw⟩
  rw [show ((0x10001000 : Word).toNat / 65536) &&& tctlRow.rw = 0 by decide, Nat.zero_testBit] at hboth
  exact absurd hboth (by decide)

/-- SINGLE with RUN = 0 asks for one frame (R101). -/
theorem ends_single {b : Block} (hb : b.regs.wf = true) (hrun : b.fld F.TOMO_CTL_RUN = 0) (hsweep : ∀ w ∈ b.u.tomo.sweep, w.freq.isSome = true) (src : Src) :
    Ends (opWrite src R.TOMO_CTL 0x10001000) b fun _ d =>
      Within budgetBits id (b.withU { b.u with tomo := { b.u.tomo with single := true } }) d := by
  refine ends_tctlWrite (by decide) (by decide) ?_
  rw [single_merges]
  have hset := setReg_wf hb R.TOMO_CTL (b.regs.get R.TOMO_CTL)
  refine ends_then (gives_sweepLatchDue hsweep) (ends_then (gives_bf_clear hrun) (ends_then (gives_tomoS _) (ends_then (gives_wr _ _ _)
    (ends_then (gives_onlyIf_true (by decide) (gives_modTomo _ _)) (ends_of_gives (gives_onlyIf_false (by rw [Bool.false_and, Bool.false_and]))
      ⟨hset, fun d hd => ⟨hd.wf, fun a j hn => (hd.bit a j hn).trans ?_, hd.units⟩⟩)))))
  exact congrArg (fun w : Word => bitAt w.toNat j) (get_set_self hb R.TOMO_CTL a)

/-- A burst runs, and its frame has not started. -/
abbrev Bursting (b : Block) : Prop := (b.u.tomo.frame.map (·.burst)) = some true

/-- The registers that a write of RUN alone changes. -/
abbrev runRegs : List Nat := [R.TOMO_CTL, R.TOMO_STAT]

/-- Block `c` shows RUN written 0 in block `b`, and differs from it in the registers of a write of RUN alone (R102). -/
structure RunStored (b c : Block) : Prop where
  wf : c.regs.wf = true
  run : c.fld F.TOMO_CTL_RUN = 0
  blen : c.fld F.TOMO_CTL_BLEN = b.fld F.TOMO_CTL_BLEN
  regs : ∀ a, a ∉ runRegs → c.regs.get a = b.regs.get a

/-- TOMO_STAT may show more after it. -/
theorem RunStored.status {b c : Block} (h : RunStored b c) {f : RF} (hf : f.reg = R.TOMO_STAT) (v : Nat) : RunStored b (c.setField f v) := by
  have hne : R.TOMO_CTL ≠ f.reg := by rw [hf]; decide
  refine ⟨setField_wf h.wf f v, (fld_setField_ne c (g := F.TOMO_CTL_RUN) hne v).trans h.run, (fld_setField_ne c (g := F.TOMO_CTL_BLEN) hne v).trans h.blen,
    fun a ha => (setField_get_ne c f v fun e => ha ?_).trans (h.regs a ha)⟩
  rw [e, hf]
  decide

theorem RunStored.withU {b c : Block} (h : RunStored b c) (u : Units) : RunStored b (c.withU u) := ⟨h.wf, h.run, h.blen, h.regs⟩

theorem held_tctl : F.TOMO_CTL_RUN.Held ∧ F.TOMO_CTL_BLEN.Held := by decide

/-- The word that clears RUN. -/
abbrev runClearWord : Word := 0x80000000

theorem runClear_acts : (BitVec.ofNat 32 (runClearWord.toNat &&& (runClearWord.toNat / 65536) &&& 0x1000)).toNat.testBit 12 = false := by decide

theorem runClear_stored {b c : Block} (hc : c.regs.wf = true) (hregs : ∀ a, c.regs.get a = b.regs.get a) :
    RunStored b (c.setReg R.TOMO_CTL (mergeWord tctlRow (b.regs.get R.TOMO_CTL) runClearWord)) := by
  obtain ⟨hrun, hblen⟩ := held_tctl
  refine ⟨setReg_wf hc _ _, (of_get_set hc hrun _).trans ?_, (of_get_set hc hblen _).trans ?_, fun a ha => ?_⟩
  · exact merge_set rfl F.TOMO_CTL_RUN (by decide) (by decide)
  · exact merge_kept rfl F.TOMO_CTL_BLEN (by decide)
  · have hne : a ≠ R.TOMO_CTL := fun e => ha (by simp [e])
    exact (get_set_ne c.regs _ hne).trans (hregs a)

/-- What the write of RUN = 0 leaves of a frame or burst (R102). -/
def Block.frameAfterRun (b : Block) : Option Frame := if b.fld F.TOMO_CTL_RUN = 1 ∧ Bursting b then none else b.u.tomo.frame

/-- RUN written 0 leaves the other settings, and stops a burst before its frame starts (R102). -/
theorem ends_runClear {b : Block} (hb : b.regs.wf = true) (src : Src) : Ends (opWrite src R.TOMO_CTL runClearWord) b fun _ d =>
    ∃ c, RunStored b c ∧ c.u.tomo.frame = b.frameAfterRun ∧ Within budgetBits id c d := by
  refine ends_tctlWrite (by decide) (by decide) (ends_keeps keeps_sweepLatchDue (within_refl (by exact hb)) fun _ c hc => ?_)
  have hregs : ∀ a, c.regs.get a = b.regs.get a := fun a => hc.reg fun _ => id
  have hframe : c.u.tomo.frame = b.u.tomo.frame := hc.units
  have hstored := runClear_stored hc.wf hregs
  have hold : (F.TOMO_CTL_RUN.of (c.regs.get F.TOMO_CTL_RUN.reg) != 0) = (b.fld F.TOMO_CTL_RUN != 0) := by rw [hregs, Block.fld]
  have hnew : F.TOMO_CTL_RUN.of (mergeWord tctlRow (b.regs.get R.TOMO_CTL) runClearWord) = 0 := merge_set rfl F.TOMO_CTL_RUN (by decide) (by decide)
  refine ends_then (gives_bf _ c) (ends_then (gives_tomoS c) (ends_then (gives_wr _ _ c) (ends_then
    (gives_onlyIf_false (by rw [runClear_acts, Bool.and_false])) ?_)))
  rw [hold, hnew, hframe]
  by_cases hstop : b.fld F.TOMO_CTL_RUN = 1 ∧ Bursting b
  · obtain ⟨f, hf, hburst⟩ := Option.map_eq_some_iff.1 hstop.2
    rw [hf]
    refine ends_onlyIf_true (by simp [hstop.1, hburst]) (ends_then (gives_modTomo _ _) (ends_then (gives_sb _ false _) (ends_of_gives (gives_sb _ false _) ?_)))
    have hcut := ((hstored.withU { c.u with tomo := { c.u.tomo with frame := none } }).status (f := F.TOMO_STAT_RUNNING) rfl 0).status
      (f := F.TOMO_STAT_BURST) rfl 0
    exact ⟨hcut.wf, fun d hd => ⟨_, hcut, (if_pos hstop).symm, hd⟩⟩
  · refine ends_of_gives (gives_onlyIf_false ?_) ⟨hstored.wf, fun d hd => ⟨_, hstored, hframe.trans (if_neg hstop).symm, hd⟩⟩
    cases hf : b.u.tomo.frame with
    | none => exact Bool.and_false _
    | some f =>
      have hbit : b.fld F.TOMO_CTL_RUN < 2 ^ 1 := fld_lt b F.TOMO_CTL_RUN
      by_cases hrun : b.fld F.TOMO_CTL_RUN = 1
      · have hburst : f.burst = false := Bool.eq_false_iff.2 fun h => hstop ⟨hrun, by rw [Bursting, hf, Option.map_some, h]⟩
        simp [hburst]
      · have hzero : b.fld F.TOMO_CTL_RUN = 0 := by omega
        simp [hzero]

/-! ### The range tables -/

/-- The row of AFT_RTDATA. -/
def rtdataRow : RegRow := ⟨"AFT_RTDATA", 0x90014, [(2, 0x8000)], 0x0, 0xFFFF, 0x0, 0x0, 0x0, [], true, [(2, 0x0)], 0x0, 0x0⟩

theorem rowOf_rtdata : ∀ die < 2, rowOf (R.AFT_RTDATA die) = some (rtdataRow, die) := by decide

theorem held_dies : ∀ die < 2, (F.AFT_RTIDX_STEP die).Held ∧ (F.AFT_RTIDX_GROUP die).Held ∧ (F.AFT_STAT_LINKERR die).Held ∧
    (F.AFT_LINKCNT_CNT die).Held := by decide

/-- A word of a range table after a store (R88). -/
theorem rangeWord_put (l : List (Nat × Nat)) (key w : Nat) : rangeWord (rangePut l key w) key = w := by
  have hnone : ∀ m : List (Nat × Nat), (∀ x ∈ m, x.1 ≠ key) → m.find? (fun x => x.1 = key) = none := fun m hm =>
    List.find?_eq_none.2 fun x hx => by simpa using hm x hx
  unfold rangeWord rangePut
  by_cases hw : w = 0
  · rw [if_pos hw, hnone _ fun x hx => by simpa using (List.mem_filter.1 hx).2, hw]
    rfl
  · rw [if_neg hw, List.append_assoc, List.find?_append, hnone _ fun x hx => ?_]
    · simp
    · simpa using (List.mem_filter.1 (List.mem_filter.1 hx).1).2

/-- What block `c` shows of transfers of the link to die `d`, some of them repeated (R120). -/
structure LinkTold (d : Nat) (b c : Block) : Prop where
  within : Within (linkNoteBits d) Units.tomo b c
  count : b.fld (F.AFT_LINKCNT_CNT d) ≤ c.fld (F.AFT_LINKCNT_CNT d)
  error : b.fld (F.AFT_LINKCNT_CNT d) < c.fld (F.AFT_LINKCNT_CNT d) → c.fld (F.AFT_STAT_LINKERR d) = 1

theorem ends_linkNote {b : Block} (hb : b.regs.wf = true) {d : Nat} (hd : d < 2) (n : Nat) : Ends (linkNote d n) b fun _ c => LinkTold d b c := by
  obtain ⟨-, -, herr, hcnt⟩ := held_dies d hd
  have hw : Ends (linkNote d n) b fun _ c => Within (linkNoteBits d) Units.tomo b c := ends_of_keeps (keeps_linkNote (fun _ _ h => h) n) (within_refl hb)
  refine ends_mono (ends_and hw (Q := fun _ c => b.fld (F.AFT_LINKCNT_CNT d) ≤ c.fld (F.AFT_LINKCNT_CNT d) ∧
    (b.fld (F.AFT_LINKCNT_CNT d) < c.fld (F.AFT_LINKCNT_CNT d) → c.fld (F.AFT_STAT_LINKERR d) = 1)) ?_) fun _ c ⟨hc, hle, hlt⟩ => ⟨hc, hle, hlt⟩
  refine ends_onlyIf (fun _ => ?_) fun _ => ⟨Nat.le_refl _, fun h => absurd h (Nat.lt_irrefl _)⟩
  have hne : (F.AFT_STAT_LINKERR d).reg ≠ (F.AFT_LINKCNT_CNT d).reg := by
    simp only [F.AFT_STAT_LINKERR, F.AFT_LINKCNT_CNT, R.AFT_STAT, R.AFT_LINKCNT]
    omega
  have h1 := setField_wf hb (F.AFT_STAT_LINKERR d) 1
  have hold : (b.setField (F.AFT_STAT_LINKERR d) 1).fld (F.AFT_LINKCNT_CNT d) = b.fld (F.AFT_LINKCNT_CNT d) := fld_setField_ne b hne.symm 1
  refine ends_then (gives_sb _ true b) (ends_of_gives (gives_cntSat _ n _) ⟨?_, fun _ => (fld_setField_ne _ hne _).trans (fld_setField hb herr 1)⟩)
  have hlt : b.fld (F.AFT_LINKCNT_CNT d) < 2 ^ 32 := fld_lt b (F.AFT_LINKCNT_CNT d)
  refine le_of_le_of_eq ?_ ((fld_setField h1 hcnt _).trans ((satAdd_word _ n).trans (congrArg (fun x => min (x + n) 0xFFFFFFFF) hold))).symm
  omega

theorem ends_linkCarries {b : Block} (hb : b.regs.wf = true) {d : Nat} (hd : d < 2) : Ends (linkCarries d) b fun _ c => LinkTold d b c :=
  ends_then (gives_free b) (ends_mono (ends_linkNote (by exact hb) hd _) fun _ _ h => ⟨⟨h.within.wf, h.within.bit, h.within.units⟩, h.count, h.error⟩)

/-- The link's registers and the range index of a die stand apart (R120). -/
theorem die_apart (die : Nat) : R.AFT_LINKCNT die ≠ R.AFT_RTIDX die ∧ R.AFT_STAT die ≠ R.AFT_RTIDX die ∧
    ∀ j, ¬linkNoteBits die (R.AFT_RTIDX die) j := by
  have hcnt : R.AFT_LINKCNT die ≠ R.AFT_RTIDX die := by
    simp only [R.AFT_LINKCNT, R.AFT_RTIDX]
    omega
  have hstat : R.AFT_STAT die ≠ R.AFT_RTIDX die := by
    simp only [R.AFT_STAT, R.AFT_RTIDX]
    omega
  exact ⟨hcnt, hstat, fun j h => h.elim (fun h => hstat h.1.symm) fun h => hcnt h.symm⟩

/-- Of AFT_STAT the link changes LINKERR alone. -/
theorem linkNote_cleared (die j : Nat) (h : ¬((F.AFT_STAT_LINKERR die).lo ≤ j ∧ j ≤ (F.AFT_STAT_LINKERR die).hi)) :
    ¬linkNoteBits die (F.AFT_STAT_LINKERR die).reg j := by
  rintro (⟨-, rfl⟩ | hreg)
  · exact h ⟨Nat.le_refl 14, Nat.le_refl 14⟩
  · simp only [F.AFT_STAT_LINKERR, R.AFT_STAT, R.AFT_LINKCNT] at hreg
    omega

/-- Where AFT_RTIDX of die `die` points, by 16 × step + group. -/
def Block.rangeIndex (b : Block) (die : Nat) : Nat := b.fld (F.AFT_RTIDX_STEP die) * 16 + b.fld (F.AFT_RTIDX_GROUP die)

/-- The block with `v` stored in the word `key` of the range tables. -/
def Block.ranged (b : Block) (key v : Nat) : Block := b.withU { b.u with tomo := { b.u.tomo with ranges := rangePut b.u.tomo.ranges key v } }

/-- What block `c` shows of the word `v` stored in the range table in block `b` (R88). -/
structure RangeStored (die v : Nat) (b c : Block) : Prop where
  within : Within (regBits (R.AFT_RTIDX die)) (fun _ => ()) b c
  word : rangeWord c.u.tomo.ranges (die * 4096 + b.fld (F.AFT_RTIDX_STEP die) * 16 + b.fld (F.AFT_RTIDX_GROUP die)) = v
  index : c.rangeIndex die = if b.fld (F.AFT_RTIDX_AINC die) = 1 then (b.rangeIndex die + 1) % 4096 else b.rangeIndex die

section
variable {b : Block} (hb : b.regs.wf = true) {die : Nat} (hd : die < 2)
include hb hd

/-- The index steps on (R88). -/
theorem ends_indexSteps : Ends (do
      sf (F.AFT_RTIDX_GROUP die) (b.fld (F.AFT_RTIDX_GROUP die) + 1)
      onlyIf (b.fld (F.AFT_RTIDX_GROUP die) == 15) (sf (F.AFT_RTIDX_STEP die) (b.fld (F.AFT_RTIDX_STEP die) + 1))) b fun _ c =>
    Within (regBits (R.AFT_RTIDX die)) id b c ∧ c.rangeIndex die = (b.rangeIndex die + 1) % 4096 := by
  obtain ⟨hstep, hgroup, -⟩ := held_dies die hd
  have hs : b.fld (F.AFT_RTIDX_STEP die) < 2 ^ 8 := fld_lt b _
  have hg : b.fld (F.AFT_RTIDX_GROUP die) < 2 ^ 4 := fld_lt b _
  let c := b.setField (F.AFT_RTIDX_GROUP die) (b.fld (F.AFT_RTIDX_GROUP die) + 1)
  have hc : Within (regBits (R.AFT_RTIDX die)) id b c := within_setField hb hgroup.1 hgroup.2.1 _ fun _ _ _ => rfl
  have hcg : c.fld (F.AFT_RTIDX_GROUP die) = (b.fld (F.AFT_RTIDX_GROUP die) + 1) % 2 ^ 4 := fld_setField hb hgroup _
  have hcs : c.fld (F.AFT_RTIDX_STEP die) = b.fld (F.AFT_RTIDX_STEP die) :=
    fld_setField_apart (g := F.AFT_RTIDX_STEP die) hb hgroup rfl (.inr (show 3 < 8 by decide)) _
  refine ends_then (gives_setField _ _ b) (ends_onlyIf (fun hlast => ends_of_gives (gives_setField _ _ c)
    ⟨hc.trans (within_setField hc.wf hstep.1 hstep.2.1 _ fun _ _ _ => rfl), ?last⟩) fun hmore => ⟨hc, ?more⟩)
  case last =>
    have hds := fld_setField hc.wf hstep (b.fld (F.AFT_RTIDX_STEP die) + 1)
    have hdg : (c.setField (F.AFT_RTIDX_STEP die) (b.fld (F.AFT_RTIDX_STEP die) + 1)).fld (F.AFT_RTIDX_GROUP die) = c.fld (F.AFT_RTIDX_GROUP die) :=
      fld_setField_apart (g := F.AFT_RTIDX_GROUP die) hc.wf hstep rfl (.inl (show 3 < 8 by decide)) _
    have hfifteen := beq_iff_eq.1 hlast
    rw [Block.rangeIndex, Block.rangeIndex, hds, hdg, hcg, show (F.AFT_RTIDX_STEP die).hi + 1 - (F.AFT_RTIDX_STEP die).lo = 8 from rfl]
    omega
  case more =>
    have hbelow : b.fld (F.AFT_RTIDX_GROUP die) ≠ 15 := bne_iff_ne.1 (by simpa using hmore)
    show c.rangeIndex die = _
    rw [Block.rangeIndex, Block.rangeIndex, hcs, hcg]
    omega

/-- AFT_RTDATA takes the word that AFT_RTIDX names (R88). -/
theorem ends_rtdataStored (new : Word) : Ends (aftWrite (R.AFT_RTDATA 0) die (R.AFT_RTDATA die) new) b fun _ c =>
    RangeStored die (new.toNat % 65536) b c := by
  let c := b.ranged (die * 4096 + b.fld (F.AFT_RTIDX_STEP die) * 16 + b.fld (F.AFT_RTIDX_GROUP die)) (new.toNat % 65536)
  have hc : Within (regBits (R.AFT_RTIDX die)) (fun _ => ()) b c := within_withU hb rfl
  have hword : rangeWord c.u.tomo.ranges (die * 4096 + b.fld (F.AFT_RTIDX_STEP die) * 16 + b.fld (F.AFT_RTIDX_GROUP die)) = new.toNat % 65536 :=
    rangeWord_put _ _ _
  have hbit : b.fld (F.AFT_RTIDX_AINC die) < 2 ^ 1 := fld_lt b _
  refine ends_ite_pos rfl (ends_then (gives_bind (gives_gf _ b) (gives_bind (gives_gf _ b) (gives_pure _ b))) (ends_then (gives_bf _ b) (ends_then (gives_gf _ b)
    (ends_then (gives_gf _ b) (ends_then (gives_modTomo b _) (ends_onlyIf (fun hinc => ?on) fun hinc => ⟨hc, hword, ?off⟩))))))
  case on =>
    have hone : b.fld (F.AFT_RTIDX_AINC die) = 1 := by
      have : b.fld (F.AFT_RTIDX_AINC die) ≠ 0 := bne_iff_ne.1 hinc
      omega
    refine ends_mono (ends_indexSteps (b := c) hb hd) fun _ d ⟨hd, hindex⟩ => ⟨hc.trans (hd.mono (fun _ _ h => h) fun _ _ _ => rfl), ?_, ?_⟩
    · rw [show d.u = c.u from hd.units]
      exact hword
    · rw [if_pos hone]
      exact hindex
  case off =>
    have hzero : b.fld (F.AFT_RTIDX_AINC die) = 0 := by simpa [Block.fld] using hinc
    rw [if_neg (by omega)]
    rfl

/-- A write of AFT_RTDATA reads the register first, whose transfers the link may repeat (R120). -/
theorem ends_rtdataRead : Ends (regView rtdataRow die (R.AFT_RTDATA die)) b fun _ c => LinkTold die b c := by
  have hwin : R.AFT_RTDATA die / 0x10000 = 9 := by simp only [R.AFT_RTDATA]; omega
  have hdie : R.AFT_RTDATA die % 0x10000 / 0x8000 = die := by simp only [R.AFT_RTDATA]; omega
  unfold regView
  refine ends_then (gives_rd _ b) (ends_then (gives_now b) (ends_then (gives_units b) ?_))
  rw [hwin]
  show Ends (aftRead (R.AFT_RTDATA 0) die (R.AFT_RTDATA die)) b _
  unfold aftRead
  rw [hdie]
  exact ends_bind (ends_linkCarries hb hd) fun _ c hc => ends_ite_pos rfl (ends_of_gives
    (gives_bind (gives_bind (gives_gf _ c) (gives_bind (gives_gf _ c) (gives_pure _ c))) (gives_bind (gives_tomoS c) (gives_pure _ c))) hc)

/-- A write of the whole of AFT_RTDATA. -/
theorem ends_rtdataWrite {w : Word} (hw : w.toNat / 65536 = 0xFFFF) (src : Src) : Ends (opWrite src (R.AFT_RTDATA die) w) b fun _ d =>
    ∃ c, LinkTold die b c ∧ RangeStored die (w.toNat % 65536) c d := by
  have hwin : R.AFT_RTDATA die / 0x10000 = 9 := by simp only [R.AFT_RTDATA]; omega
  have hmasked : Ends (maskedWrite src rtdataRow die (R.AFT_RTDATA die) w) b fun _ d => ∃ c, LinkTold die b c ∧ RangeStored die (w.toNat % 65536) c d := by
    refine ends_bind (ends_rtdataRead hb hd) fun old c hc => ends_ite_neg (by omega) (ends_ite_neg (fun h => h (Nat.and_zero _))
      (ends_then (gives_modUpset _ c) ?_))
    have hnew : (mergeWord rtdataRow old w).toNat % 65536 = w.toNat % 65536 := merge_set (r := rtdataRow) rfl ⟨0, 15, 0⟩ (by rw [hw]; decide) (by decide)
    unfold unitWrite
    rw [hwin]
    refine ends_mono (ends_rtdataStored (b := c.mended (R.AFT_RTDATA die)) hc.within.wf hd (mergeWord rtdataRow old w)) fun _ d hstored => ?_
    rw [hnew] at hstored
    exact ⟨c, hc, within_mended hstored.within, hstored.word, hstored.index⟩
  obtain ⟨_, d, hgives, hq⟩ := hmasked
  exact ends_of_gives (gives_opWrite (gives_fabricWrite (privileged_of_window hwin (by decide)) (rowOf_rtdata die hd) (by unfold regDomain; rw [hwin]; rfl)
    (by decide) rfl hgives)) hq

end

/-! ### The end of a calibration sweep -/

/-- Electrode `e` shows as faulted (R86). -/
def Block.faulted (b : Block) (e : Nat) : Prop := bitAt (b.regs.get (faultField e).reg).toNat (e % 16) = true

theorem held_faults : ∀ die < 2, ∀ k < 8, ∀ j < 16, (RF.mk (R.AFT_EFAULT die k) j j).Held := by decide

theorem held_faultField {e : Nat} (h : e < 256) : (faultField e).Held := held_faults (e / 128) (by omega) (e % 128 / 16) (by omega) (e % 16) (by omega)

theorem held_efault : F.TOMO_STAT_EFAULT.Held := by decide

/-- What block `c` shows of faults of the electrodes `l` in block `b`. -/
structure FaultsShown (l : List Nat) (b c : Block) : Prop where
  wf : c.regs.wf = true
  units : c.u = b.u
  shown : ∀ e, e ∈ l ∨ b.faulted e → c.faulted e
  flag : l ≠ [] ∨ b.fld F.TOMO_STAT_EFAULT = 1 → c.fld F.TOMO_STAT_EFAULT = 1

/-- A set bit of a fault register stays set where another field of one bit is set. -/
theorem faulted_setField {b : Block} (hb : b.regs.wf = true) {e x : Nat} (he : e < 256) (h : x = e ∨ b.faulted x) : (b.setField (faultField e) 1).faulted x := by
  by_cases hsame : (faultField x).reg = (faultField e).reg ∧ x % 16 = e % 16
  · have hset := fld_setField hb (held_faultField he) 1
    have hbit : bitAt ((b.setField (faultField e) 1).regs.get (faultField e).reg).toNat (e % 16) = true := by
      rw [← of_bit_ne_zero (faultField e).reg]
      exact bne_iff_ne.2 fun h0 => absurd (hset.symm.trans h0) (by simp)
    rw [Block.faulted, hsame.1, hsame.2]
    exact hbit
  · have hold : b.faulted x := h.resolve_left fun hx => hsame (by rw [hx]; exact ⟨rfl, rfl⟩)
    rw [Block.faulted, setField_bit hb (Nat.le_refl _) (show e % 16 < 32 by omega) 1 fun ⟨hr, h0, h1⟩ => hsame ⟨hr, Nat.le_antisymm h1 h0⟩]
    exact hold

theorem ends_electrodeFault {b : Block} (hb : b.regs.wf = true) {e : Nat} (he : e < 256) : Ends (electrodeFault e) b fun _ c => FaultsShown [e] b c := by
  have h1 := setField_wf hb (faultField e) 1
  refine ends_then (gives_sb (faultField e) true b) (ends_of_gives (gives_sb F.TOMO_STAT_EFAULT true _)
    ⟨setField_wf h1 _ _, rfl, fun x hx => ?_, fun _ => fld_setField h1 held_efault 1⟩)
  have hne : (faultField x).reg ≠ F.TOMO_STAT_EFAULT.reg := by
    simp only [F.TOMO_STAT_EFAULT, R.AFT_EFAULT, R.TOMO_STAT]
    omega
  rw [Block.faulted, setField_get_ne _ _ _ hne]
  exact faulted_setField hb he (hx.imp List.mem_singleton.1 id)

theorem ends_electrodeFaults {l : List Nat} (hl : ∀ e ∈ l, e < 256) {b : Block} (hb : b.regs.wf = true) :
    Ends (each electrodeFault l) b fun _ c => FaultsShown l b c := by
  induction l generalizing b with
  | nil => exact ends_of_gives (gives_each_nil _ b) ⟨hb, rfl, fun e h => h.resolve_left (by simp), fun h => h.resolve_left (by simp)⟩
  | cons x l ih =>
    refine ends_bind (ends_electrodeFault hb (hl x (by simp))) fun _ c hc => ends_mono (ih (fun e he => hl e (by simp [he])) hc.wf) fun _ d hd => ?_
    refine ⟨hd.wf, hd.units.trans hc.units, fun e he => hd.shown e ?_, fun _ => hd.flag (.inr (hc.flag (.inl (by simp))))⟩
    rcases he with he | he
    · rcases List.mem_cons.1 he with rfl | he
      · exact .inr (hc.shown e (.inl (by simp)))
      · exact .inl he
    · exact .inr (hc.shown e (.inr he))

/-- The registers that show no faults. -/
abbrev faultless (a _j : Nat) : Prop := (∀ e < 256, a ≠ (faultField e).reg) ∧ a ≠ R.TOMO_STAT

theorem Within.faults {β : Type} {keep : Units → β} {b c : Block} (h : Within faultless keep b c) :
    (∀ e < 256, b.faulted e → c.faulted e) ∧ c.fld F.TOMO_STAT_EFAULT = b.fld F.TOMO_STAT_EFAULT :=
  ⟨fun e he hf => (h.bit _ _ fun hx => hx.1 e he rfl).trans hf, h.fld F.TOMO_STAT_EFAULT fun _ _ _ hx => hx.2 rfl⟩

theorem keeps_sweepLink {S : Prop} {b0 : Block} (meas : List CalStep) (d : Nat) : Keeps S (Within faultless id b0) (sweepLink meas d) := by
  have hstat : ∀ j, faultless (R.AFT_STAT d) j := fun j => ⟨fun e _ => by simp only [R.AFT_STAT, R.AFT_EFAULT]; omega, by
    simp only [R.AFT_STAT, R.TOMO_STAT]; omega⟩
  have hcount : ∀ j, faultless (R.AFT_LINKCNT d) j := fun j => ⟨fun e _ => by simp only [R.AFT_LINKCNT, R.AFT_EFAULT]; omega, by
    simp only [R.AFT_LINKCNT, R.TOMO_STAT]; omega⟩
  refine keeps_bind (keeps_onlyIf fun _ => within_sb (Nat.le_refl 15) (show 15 < 32 by decide) fun j _ _ => hstat j) fun _ => keeps_linkNote ?_ _
  rintro a j (⟨rfl, -⟩ | rfl)
  · exact hstat j
  · exact hcount j

theorem linkBits_faultless (a j : Nat) (h : linkBits a j) : faultless a j := by
  simp only [linkBits, linkWindows, window, List.mem_cons, List.not_mem_nil, or_false] at h
  refine ⟨fun e he => ?_, ?_⟩
  · simp only [R.AFT_EFAULT]
    omega
  · simp only [R.TOMO_STAT]
    omega

theorem sweepFaults_lt {freq : List Nat} {powered : Nat → Bool} {raws : List CalRaw} : ∀ e ∈ sweepFaults freq powered raws, e < 256 := fun _ he =>
  List.mem_range.1 (List.mem_filter.1 he).1

/-- The electrodes that a sweep finds outside their limits (R111). -/
def State.sweepFaulted (s : State) (freq : List Nat) (meas : List CalStep) : List Nat :=
  sweepFaults freq (fun b => bitAt (s.reg (R.PWR_DOMSTAT 0)).toNat b) (sweepRaw freq meas)

/-- What block `c` shows of a sweep that ended in state `s` (R110, R111). -/
structure SweepEnded (s : State) (freq : List Nat) (meas : List CalStep) (c : Block) : Prop where
  tomo : ∃ d, c.u.tomo = { s.dev.u.tomo with sweep := none, calNext := some d }
  shown : ∀ e ∈ s.sweepFaulted freq meas, c.faulted e
  flag : s.sweepFaulted freq meas ≠ [] → c.fld F.TOMO_STAT_EFAULT = 1
  events : ∀ i < 4, eventsOf c.u i = eventCounted Ev.sweepDone (eventsOf s.dev.u i)

/-- The end of a sweep 491.52 ms after its start (R110, R111). -/
theorem sweepEnd_shows {s : State} (hl : Live s) (hb : Canon s) {since : Nat} {freq : List Nat} (hsweep : s.dev.u.tomo.sweep = some ⟨since, some freq⟩)
    (hdue : since + 491520000 ≤ s.dev.u.elapsed) (meas : List CalStep) (t0 t1 : Int) :
    Does (.calibrationSweepEnd meas (t0, t1)) s fun t => SweepEnded s freq meas t.dev := by
  refine does_of_ends (m := opCalibrationSweepEnd meas t0 t1) rfl hl (ends_then (gives_sweepLatchDue fun w hw => ?latched) (ends_then (gives_tomoS _)
    (ends_then (gives_now _) (ends_then (gives_wall _) (ends_then (gives_rd _ _) ?_)))))
  case latched =>
    rw [hsweep] at hw
    cases hw
    rfl
  rw [hsweep]
  refine ends_onlyIf_true (decide_eq_true hdue) (ends_then (gives_modTomo _ _) (ends_bind (ends_electrodeFaults sweepFaults_lt (by exact hb))
    fun _ c hc => ?_))
  refine ends_keeps (keeps_each fun d _ => keeps_sweepLink meas d) (within_refl hc.wf) fun _ d hd => ?_
  refine ends_bind (ends_and (ends_link (fun _ => link_raise _ _) hd.wf) (raise_counts Ev.sweepDone _ d)) fun _ e ⟨he, hev⟩ => ?_
  have hunits : d.u = c.u := hd.units
  obtain ⟨hshown, hflag⟩ := (he.mono (V := faultless) (hold := fun _ => ()) linkBits_faultless fun _ _ _ => rfl).faults
  obtain ⟨hshown', hflag'⟩ := hd.faults
  have hlink : (linkKeep e.u).tomo = (linkKeep d.u).tomo := congrArg Units.tomo he.units
  have htomo : e.u.tomo = d.u.tomo := hlink
  have hall : SweepEnded s freq meas e := by
    refine ⟨⟨_, htomo.trans (by rw [hunits, hc.units]; rfl)⟩, fun x hx => ?_, fun hne => ?_, fun i hi => (hev i hi).trans ?_⟩
    · have hx256 := sweepFaults_lt x hx
      exact hshown x hx256 (hshown' x hx256 (hc.shown x (.inl hx)))
    · exact hflag.trans (hflag'.trans (hc.flag (.inl hne)))
    · rw [hunits, hc.units]
      rfl
  refine ends_then (gives_units e) ?_
  split
  · exact ends_of_gives (gives_pure _ e) hall
  · exact ends_of_gives (gives_modU _ e) ⟨hall.tomo, hall.shown, hall.flag, hall.events⟩

/-- Settles O12: a write of TOMO_CTL is what the unit makes of its word and the frame budget after it; AFT_RTDATA reads its register over the link
and stores; the end of a sweep shows its faults and raises its event. -/
theorem frontEndWrites : Obligations.FrontEndWrites := by
  unfold Obligations.FrontEndWrites
  refine ⟨?single, ?runClear, ?rtdata, ?sweepEnd⟩
  case single =>
    intro s src hl hb hrun hsweep
    refine does_of_ends rfl hl (ends_mono (ends_single hb hrun hsweep src) fun _ d hd => ⟨hd.units, ?_, fun a ha => hd.reg fun j hj => ha ?_⟩)
    · exact hd.cleared F.REC_STAT_BUDGETX (by decide) (by decide) budget_cleared
    · exact budgetBits_mem hj
  case runClear =>
    intro s src hl hb
    refine does_of_ends rfl hl (ends_mono (ends_runClear hb src) fun _ d ⟨c, hc, hframe, hd⟩ => ?_)
    have hsame : ∀ a, a ∉ [R.REC_NITEREFF, R.REC_STAT] → d.regs.get a = c.regs.get a := fun a ha => hd.reg fun j hj => ha (budgetBits_mem hj)
    have hctl := hsame R.TOMO_CTL (by decide)
    refine ⟨(congrArg F.TOMO_CTL_RUN.of hctl).trans hc.run, (congrArg F.TOMO_CTL_BLEN.of hctl).trans hc.blen, ?_, ?_, fun a ha => ?_⟩
    · exact (congrArg (fun u : Units => u.tomo.frame) hd.units).trans hframe
    · refine (hd.cleared F.REC_STAT_BUDGETX (by decide) (by decide) budget_cleared).trans ?_
      rw [hc.regs _ (by decide)]
      rfl
    · have hrun : a ∉ runRegs := fun h => ha (List.mem_append_left [R.REC_NITEREFF, R.REC_STAT] h)
      exact (hsame a fun h => ha (List.mem_append_right runRegs h)).trans (hc.regs a hrun)
  case rtdata =>
    intro s src die w hl hb hdie hw
    refine does_of_ends (m := onlyIf (decide (die < 2)) (opWrite src (R.AFT_RTDATA die) w)) rfl hl (ends_onlyIf_true (decide_eq_true hdie)
      (ends_mono (ends_rtdataWrite hb hdie hw src) fun _ d ⟨c, hc, hd⟩ => ?_))
    obtain ⟨hcnt, herr, hidx⟩ := die_apart die
    have hsame : ∀ a, a ≠ R.AFT_RTIDX die → d.regs.get a = c.regs.get a := fun a ha => hd.within.reg fun _ => ha
    have hindex : ∀ f : RF, f.reg = R.AFT_RTIDX die → c.fld f = s.fld f := fun f hf => hc.within.fld f fun j _ _ hj => hidx j (hf ▸ hj)
    have hcount : d.fld (F.AFT_LINKCNT_CNT die) = c.fld (F.AFT_LINKCNT_CNT die) := congrArg (F.AFT_LINKCNT_CNT die).of (hsame _ hcnt)
    have herror : d.fld (F.AFT_STAT_LINKERR die) = c.fld (F.AFT_STAT_LINKERR die) := congrArg (F.AFT_STAT_LINKERR die).of (hsame _ herr)
    have hword := hd.word
    have hnext := hd.index
    simp only [Block.rangeIndex, hindex (F.AFT_RTIDX_STEP die) rfl, hindex (F.AFT_RTIDX_GROUP die) rfl, hindex (F.AFT_RTIDX_AINC die) rfl] at hword hnext
    refine ⟨hword, hnext, le_of_le_of_eq hc.count hcount.symm, fun hlt => herror.trans (hc.error (lt_of_lt_of_eq hlt hcount)), ?_, fun a ha => ?_⟩
    · exact (congrArg ((F.AFT_STAT_LINKERR die).put · 0) (hsame _ herr)).trans (hc.within.cleared (F.AFT_STAT_LINKERR die) (Nat.le_refl 14)
        (show 14 < 32 by decide) (linkNote_cleared die))
    · simp only [List.mem_cons, List.not_mem_nil, or_false, not_or] at ha
      obtain ⟨hridx, hstat, hlink⟩ := ha
      exact (hsame a hridx).trans (hc.within.reg fun j hj => hj.elim (fun h => hstat h.1) hlink)
  case sweepEnd =>
    rintro s meas t0 t1 w freq _ hl hb hsweep hfreq hdue rfl
    obtain ⟨since, _⟩ := w
    cases hfreq
    refine does_mono (sweepEnd_shows hl hb hsweep hdue meas t0 t1) fun t ht => ?_
    obtain ⟨d, htomo⟩ := ht.tomo
    rw [htomo]
    refine ⟨rfl, rfl, rfl, ht.shown, ht.flag, fun _ i hi hopen hmask => ?_⟩
    have hcount := congrArg (fun x => x.2.2) (ht.events i (List.mem_range.1 hi))
    rw [eventCounted, if_pos ⟨hopen, hmask⟩] at hcount
    exact hcount

end Sys2Proof.Machine
end

section
/-!
PROOF. Proofs/RefutedReconstruction.lean: the statement about the Reconstruction function fails, by one state on which the model's own answer
contradicts a clause.
-/
namespace Sys2Proof.Machine

/-! ### The Reconstruction function: no room for the acknowledgement -/

/-- MAT_LOAD of a matrix file of 8,192 bytes. -/
def matrixFileLoad : List Byte := zeros 4 ++ leBytes 4 8192

theorem matrixFileLoad_meets : Ready acksWaitState 1 0x0501 (openHostHdr 3) matrixFileLoad ∧ acksWaitState.dev.u.nv.commit = none := by
  decide +kernel

theorem matrixFileLoad_silent : shownAfter (fun t => t.dev.u.out) (.matLoad (openHostHdr 3) matrixFileLoad) acksWaitState = some [] := by
  decide +kernel

/-- Refutes O36: with the 64 buffers of the ACK staging taken (R556) the module sends no ACK, and the clause of an accepted MAT_LOAD wants
one. -/
theorem not_reconstructionCommands : ¬ Obligations.ReconstructionCommands := by
  intro h
  unfold Obligations.ReconstructionCommands at h
  obtain ⟨load, -⟩ := h
  obtain ⟨hready, hcommit⟩ := matrixFileLoad_meets
  obtain ⟨t, ⟨⟨-, hsent, -⟩, -⟩, hout⟩ := does_shown
    (load acksWaitState 1 (openHostHdr 3) matrixFileLoad 8192 hready rfl (by decide) (by decide) hcommit) matrixFileLoad_silent
  simp [Sent, hout] at hsent

end Sys2Proof.Machine
end

section
/-!
PROOF. Proofs/ReconFacts.lean: what the shared operations of the reconstruction engine leave as they are: the frame budget's neighbours, the
fit of the reference, and the Ledger's part in a frame's fate (R139 to R142, R154, R182 to R185).
-/
namespace Sys2Proof.Machine

/-! ### Registers that a frame leaves out -/

/-- Every register but those of `l`. -/
abbrev notOf (l : List Nat) (a _j : Nat) : Prop := a ∉ l

theorem linkBits_notOf {l : List Nat} (hl : ∀ x ∈ l, window x ∉ linkWindows) (a j : Nat) (h : linkBits a j) : notOf l a j := fun hm => hl a hm h

/-- A register of `l` in a frame that leaves `l` out. -/
theorem Within.out {β : Type} {l : List Nat} {keep : Units → β} {b c : Block} (h : Within (notOf l) keep b c) {f : RF} (hf : f.reg ∈ l) :
    c.fld f = b.fld f := h.fld f fun _ _ _ hn => hn hf

theorem Within.n64Out {β : Type} {l : List Nat} {keep : Units → β} {b c : Block} (h : Within (notOf l) keep b c) {lo hi : Nat} (hlo : lo ∈ l) (hhi : hi ∈ l) :
    c.n64 lo hi = b.n64 lo hi := h.n64 (fun _ hn => hn hlo) fun _ hn => hn hhi

theorem fld_setReg_ne (b : Block) {a : Nat} (w : Word) {f : RF} (h : f.reg ≠ a) : (b.setReg a w).fld f = b.fld f :=
  congrArg f.of (get_set_ne b.regs w h)

section
variable {β : Type} {keep : Units → β} {S : Prop} {b0 : Block} {l : List Nat} {f : RF} (hlo : f.lo ≤ f.hi) (hhi : f.hi < 32) (hf : f.reg ∉ l)
include hlo hhi hf

/-- Stores in a field that the frame does not leave out. -/
theorem keeps_fieldOut (v : Nat) : Keeps S (Within (notOf l) keep b0) (sf f v) := within_sf hlo hhi fun _ _ _ => hf

theorem keeps_flagOut (v : Bool) : Keeps S (Within (notOf l) keep b0) (sb f v) := keeps_fieldOut hlo hhi hf _

theorem keeps_countOut (n : Nat) : Keeps S (Within (notOf l) keep b0) (cntSat f n) := keeps_bind (keeps_gf f) fun _ => keeps_fieldOut hlo hhi hf _

end

/-- Sending leaves the engine's data. -/
theorem linkKeep_reco {u v : Units} (h : linkKeep u = linkKeep v) : u.reco = v.reco := by
  have hr : (linkKeep u).reco = (linkKeep v).reco := congrArg Units.reco h
  exact hr

/-! ### The reference's fit (R154) -/

/-- Of the registers the reference's fit shows in REFOK alone. -/
abbrev fitBits (a j : Nat) : Prop := a = R.REC_STAT ∧ j = 13

theorem keeps_refFits {S : Prop} {b0 : Block} : Keeps S (Within fitBits id b0) refFits :=
  keeps_bind (keeps_bind keeps_units fun _ => keeps_pure _) fun _ => keeps_bind (keeps_bf _) fun _ =>
    within_sb (by decide) (by decide) fun _ h0 h1 => ⟨rfl, Nat.le_antisymm h1 h0⟩

/-- Without a matrix no reference fits. -/
theorem gives_refFits_none {b : Block} (h : b.u.reco.mat = none) : Gives refFits b () (b.setField F.REC_STAT_REFOK 0) := by
  refine gives_bind (gives_recS b) (gives_bind (gives_bf _ b) ?_)
  rw [h]
  exact gives_sb _ false b

/-! ### The Ledger's part in a frame's fate -/

/-- The registers from the Ledger's window on. -/
abbrev ledgerBits (a _j : Nat) : Prop := 0xC0000 ≤ a

/-- A frame of what the Ledger does with a map or a lost frame: the engine's data and registers stay. -/
abbrev LedgerFrame : Block → Block → Prop := Within ledgerBits Units.reco

section
variable {S : Prop} {b0 : Block}

theorem keeps_modPcl (f : PclS → PclS) : Keeps S (LedgerFrame b0) (modPcl f) := within_modU fun _ => rfl

theorem keeps_modParcels (sel : List Byte → Bool) (f : List Byte → List Byte) : Keeps S (LedgerFrame b0) (modParcels sel f) := keeps_modPcl _

theorem keeps_modLot (i : Nat) (f : List Byte → List Byte) : Keeps S (LedgerFrame b0) (modLot i f) := keeps_modPcl _

theorem keeps_parcels {P : Block → Prop} : Keeps S P parcels := keeps_bind keeps_units fun _ => keeps_pure _

theorem keeps_lotAt {P : Block → Prop} (i : Nat) : Keeps S P (lotAt i) := keeps_bind keeps_units fun _ => keeps_pure _

theorem keeps_factorOf {P : Block → Prop} (n : Nat) : Keeps S P (factorOf n) :=
  keeps_bind (keeps_gf _) fun _ => keeps_bind (keeps_gf _) fun _ => keeps_pure _

theorem keeps_laneLen {P : Block → Prop} (n : Nat) : Keeps S P (laneLen n) := keeps_bind (keeps_gf _) fun _ => keeps_pure _

/-- A field of a Ledger register. -/
theorem keeps_ledgerField {f : RF} {v : Nat} (hlo : f.lo ≤ f.hi) (hhi : f.hi < 32) (hf : 0xC0000 ≤ f.reg) : Keeps S (LedgerFrame b0) (sf f v) :=
  within_sf hlo hhi fun _ _ _ => hf

theorem keeps_archivePut (e : List Byte) : Keeps S (LedgerFrame b0) (archivePut e) :=
  keeps_bind keeps_units fun _ => keeps_bind (keeps_rd _) fun _ => keeps_bind (keeps_free fun _ => rfl) fun _ => keeps_bind (within_modU fun _ => rfl) fun _ =>
    keeps_bind (within_wrN fun _ => show 0xC0000 ≤ R.PCL_ARCHHEAD by decide) fun _ =>
      keeps_bind (within_cntSat (Nat.zero_le 31) (show 31 < 32 by decide) fun _ _ _ => show 0xC0000 ≤ R.PCL_ARCHCNT by decide) fun _ =>
        keeps_ite (fun _ => keeps_ledgerField (by decide) (by decide) (by decide)) fun _ => keeps_pure _

theorem keeps_parcelArchive (r : List Byte) : Keeps S (LedgerFrame b0) (parcelArchive r) :=
  keeps_bind (keeps_archivePut r) fun _ => keeps_modPcl _

theorem keeps_lotSettle (i : Nat) : Keeps S (LedgerFrame b0) (lotSettle i) := by
  refine keeps_bind (keeps_lotAt i) fun l => ?_
  cases l with
  | none => exact keeps_pure ()
  | some r =>
    exact keeps_ite (fun _ => keeps_bind (keeps_archivePut _) fun _ => keeps_bind (keeps_archivePut _) fun _ => keeps_modPcl _) fun _ => keeps_pure _

theorem keeps_kdryLearn (r : List Byte) : Keeps S (LedgerFrame b0) (kdryLearn r) := by
  refine keeps_bind (keeps_bf _) fun _ => keeps_bind (keeps_gf _) fun _ => keeps_bind (keeps_gf _) fun _ => keeps_bind (keeps_gf _) fun _ =>
    keeps_bind (keeps_gf _) fun _ => keeps_bind (keeps_gf _) fun _ => keeps_ite (fun _ => keeps_ledgerField ?_ ?_ ?_) fun _ => keeps_pure _
  · exact Nat.zero_le _
  · exact show 15 < 32 by decide
  · exact Nat.le_trans (by decide) (Nat.le_add_right 0xC0114 _)

theorem keeps_parcelRetire (r : List Byte) : Keeps S (LedgerFrame b0) (parcelRetire r) :=
  keeps_bind keeps_wall fun _ => keeps_bind (keeps_kdryLearn _) fun _ => keeps_bind (keeps_modParcels _ _) fun _ => keeps_bind keeps_units fun _ =>
    keeps_bind (keeps_modPcl _) fun _ => keeps_bind (keeps_modLot _ _) fun _ => keeps_bind (keeps_onlyIf fun _ => keeps_parcelArchive _) fun _ =>
      keeps_lotSettle _

theorem keeps_retireLane (n : Nat) : Keeps S (LedgerFrame b0) (retireLane n) :=
  keeps_bind (keeps_bf _) fun _ => keeps_bind (keeps_bind (keeps_rd _) fun _ => keeps_bind (keeps_rd _) fun _ => keeps_pure _) fun _ =>
    keeps_bind (keeps_factorOf n) fun _ => keeps_bind (keeps_laneLen n) fun _ => keeps_bind keeps_parcels fun _ =>
      keeps_ite (fun _ => keeps_each fun r _ => keeps_parcelRetire r) fun _ => keeps_pure _

theorem keeps_ledgerCounts : Keeps S (LedgerFrame b0) ledgerCounts :=
  keeps_bind keeps_units fun _ => keeps_bind (keeps_ledgerField (by decide) (by decide) (by decide)) fun _ =>
    keeps_bind (keeps_ledgerField (by decide) (by decide) (by decide)) fun _ => keeps_bind (keeps_ledgerField (by decide) (by decide) (by decide)) fun _ =>
      keeps_each fun n _ => keeps_ledgerField (Nat.zero_le _) (show 15 < 32 by decide) (Nat.le_trans (by decide) (Nat.le_add_right 0xC0130 _))

theorem keeps_retireAll : Keeps S (LedgerFrame b0) retireAll :=
  keeps_bind (keeps_each fun n _ => keeps_retireLane n) fun _ => keeps_ledgerCounts

theorem keeps_sightOne (mp : MapRec) (hold : Bool) (r : List Byte) : Keeps S (LedgerFrame b0) (sightOne mp hold r) :=
  keeps_bind (keeps_read gives_recS) fun _ => keeps_bind (keeps_factorOf _) fun _ => keeps_bind (keeps_laneLen _) fun _ =>
    keeps_bind (keeps_bind (keeps_lotAt _) fun _ => keeps_pure _) fun _ => keeps_onlyIf fun _ => keeps_bind (keeps_modParcels _ _) fun _ => keeps_modPcl _

/-- A published map reaches the Ledger (R182). -/
theorem keeps_ledgerMap (mp : MapRec) : Keeps S (LedgerFrame b0) (ledgerMap mp) :=
  keeps_bind (keeps_bf _) fun _ => keeps_bind keeps_now fun _ => keeps_bind (keeps_modPcl _) fun _ =>
    keeps_bind (keeps_bind keeps_units fun _ => keeps_pure _) fun _ => keeps_bind keeps_parcels fun _ =>
      keeps_bind (keeps_onlyIf fun _ => keeps_each fun r _ => keeps_sightOne mp _ r) fun _ =>
        keeps_bind (keeps_onlyIf fun _ => keeps_modPcl _) fun _ => keeps_retireAll

theorem keeps_gapOne (x : LostFrame) (r : List Byte) : Keeps S (LedgerFrame b0) (gapOne x r) :=
  keeps_bind (keeps_read gives_recS) fun _ => keeps_bind (keeps_factorOf _) fun _ => keeps_bind (keeps_laneLen _) fun _ =>
    keeps_bind (keeps_onlyIf fun _ => keeps_modParcels _ _) fun _ => keeps_pure _

theorem keeps_gapEach (x : LostFrame) (l : List (List Byte)) : Keeps S (LedgerFrame b0) (gapEach x l) := by
  induction l with
  | nil => exact keeps_pure _
  | cons r l ih => exact keeps_bind (keeps_gapOne x r) fun _ => keeps_bind ih fun _ => keeps_pure _

/-- A frame that reached no map reaches the Ledger (R144, R185). -/
theorem keeps_ledgerGap (x : LostFrame) : Keeps S (LedgerFrame b0) (ledgerGap x) :=
  keeps_bind (keeps_bf _) fun _ => keeps_bind keeps_parcels fun _ => keeps_onlyIf fun _ => keeps_bind (keeps_gapEach x _) fun _ => keeps_onlyIf fun _ =>
    keeps_bind (within_cntSat (by decide) (by decide) fun _ _ _ => show 0xC0000 ≤ R.PCL_GAPCNT by decide) fun _ =>
      keeps_ledgerField (by decide) (by decide) (by decide)

end

/-- A register of the engine after what the Ledger does. -/
theorem LedgerFrame.fld {b c : Block} (h : LedgerFrame b c) {f : RF} (hf : f.reg < 0xC0000) : c.fld f = b.fld f :=
  Within.fld h f fun _ _ _ hn => absurd hf (Nat.not_lt.2 hn)

theorem LedgerFrame.n64 {b c : Block} (h : LedgerFrame b c) {lo hi : Nat} (hlo : lo < 0xC0000) (hhi : hi < 0xC0000) : c.n64 lo hi = b.n64 lo hi :=
  Within.n64 h (fun _ hn => absurd hlo (Nat.not_lt.2 hn)) fun _ hn => absurd hhi (Nat.not_lt.2 hn)

end Sys2Proof.Machine
end

section
/-!
PROOF. Proofs/ReconKeeps.lean: RUN, the matrix copy, captures and the rolling state, and the statement about them (R128, R129, R153, R154, R164,
R168, R169).
-/
namespace Sys2Proof.Machine

/-! ### A write of REC_CTL -/

/-- The row of REC_CTL. -/
def rctlRow : RegRow := ⟨"REC_CTL", 0xB0000, [], 0x0, 0xC0FF, 0x0, 0x0, 0x3F00, [], true, [(1, 0x40A8)], 0x0, 0x0⟩

/-- A write to REC_CTL that selects no bit to be kept stores its word, and the frame budget follows (R139). -/
theorem ends_rctlWrite {src : Src} {w : Word} {b : Block} (hb : b.regs.wf = true) (hm : w.toNat / 65536 ≠ 0) (hk : (w.toNat / 65536) &&& 0x3F00 = 0) :
    Ends (opWrite src R.REC_CTL w) b fun _ d => Within budgetBits id (b.setReg R.REC_CTL (mergeWord rctlRow (b.regs.get R.REC_CTL) w)) d := by
  have hunit : Ends (unitWrite src rctlRow.base 0 R.REC_CTL (mergeWord rctlRow (b.regs.get R.REC_CTL) w)
      (BitVec.ofNat 32 (w.toNat &&& (w.toNat / 65536) &&& rctlRow.wo)) w) (b.mended R.REC_CTL) fun _ d =>
        Within budgetBits id (b.setReg R.REC_CTL (mergeWord rctlRow (b.regs.get R.REC_CTL) w)) d := by
    refine ends_then (gives_wr _ _ _) (ends_onlyIf_true rfl (ends_mono (ends_of_keeps keeps_recBudget (within_refl (setReg_wf hb _ _))) fun _ d hd => ?_))
    exact ⟨hd.wf, hd.bit, hd.units⟩
  obtain ⟨_, d, hgives, hd⟩ := hunit
  refine ends_of_gives (gives_opWrite (gives_fabricWrite (r := rctlRow) (i := 0) (privileged_of_window (n := 11) rfl (by decide)) rfl rfl (by decide) rfl
    (gives_maskedWrite (gives_regView_held (by decide) b) hm ?_ hgives))) hd
  rw [Nat.and_assoc, show rctlRow.kp = 0x3F00 from rfl, hk, Nat.and_zero]

theorem held_rctl : F.REC_CTL_RUN.Held ∧ F.REC_CTL_WARM.Held ∧ F.REC_CTL_OVRLIM.Held ∧ F.REC_CTL_NITER.Held := by decide

/-- RUN written 0 leaves the other settings (R168). -/
theorem recRunClear_keeps {s : State} (src : Src) (hl : Live s) (hb : Canon s) : Does (.recRunClear src runClearWord) s fun t =>
    t.fld F.REC_CTL_RUN = 0 ∧ t.fld F.REC_CTL_WARM = s.fld F.REC_CTL_WARM ∧ t.fld F.REC_CTL_OVRLIM = s.fld F.REC_CTL_OVRLIM ∧
      t.fld F.REC_CTL_NITER = s.fld F.REC_CTL_NITER ∧ t.dev.u = s.dev.u ∧ OnlyRegs [R.REC_CTL, R.REC_STAT, R.REC_NITEREFF] s t := by
  obtain ⟨hrun, hwarm, hlim, hiter⟩ := held_rctl
  refine does_of_ends (m := opWrite src R.REC_CTL runClearWord) rfl hl (ends_mono (ends_rctlWrite hb (by decide) (by decide)) fun _ d hd => ?_)
  have hfld : ∀ f : RF, f.reg = R.REC_CTL → f.Held → d.fld f = f.of (mergeWord rctlRow (s.dev.regs.get R.REC_CTL) runClearWord) := by
    intro f hf hheld
    rw [← hf] at hd ⊢
    exact (hd.fld f fun _ _ _ hx => by rcases hx with hx | ⟨hx, -⟩ <;> exact absurd (hf.symm.trans hx) (by decide)).trans (of_get_set hb hheld _)
  refine ⟨(hfld _ rfl hrun).trans (merge_set rfl F.REC_CTL_RUN (by decide) (by decide)), (hfld _ rfl hwarm).trans (merge_kept rfl F.REC_CTL_WARM (by decide)),
    (hfld _ rfl hlim).trans (merge_kept rfl F.REC_CTL_OVRLIM (by decide)), (hfld _ rfl hiter).trans (merge_kept rfl F.REC_CTL_NITER (by decide)), hd.units,
    fun a ha => ?_⟩
  simp only [List.mem_cons, List.not_mem_nil, or_false, not_or] at ha
  obtain ⟨hctl, hstat, heff⟩ := ha
  exact (hd.reg fun _ hx => hx.elim heff fun hx => hstat hx.1).trans (get_set_ne s.dev.regs _ hctl)

/-! ### The matrix copy -/

theorem leNat_lt (l : List Byte) : leNat l < 256 ^ l.length := by
  induction l with
  | nil => exact Nat.one_pos
  | cons x l ih =>
    have hx := x.isLt
    rw [leNat, List.length_cons, Nat.pow_succ]
    omega

theorem leAt_lt (l : List Byte) (o n : Nat) : leAt l o n < 256 ^ n :=
  Nat.lt_of_lt_of_le (leNat_lt _) (Nat.pow_le_pow_right (by decide) (by rw [slice]; exact List.length_take_le _ _))

theorem held_matrix : F.REC_STAT_MATOK.Held ∧ F.REC_STAT_REFOK.Held ∧ F.REC_MATERR_CAUSE.Held ∧ regImpl R.REC_MATID = 0xFFFFFFFF#32 := by decide

/-- The engine's data with `m` as the matrix in DRAM. -/
def Block.withMat (b : Block) (m : Option (List Byte)) : Block := b.withU { b.u with reco := { b.u.reco with mat := m, reload := [] } }

/-- The registers that show the matrix: MATOK, REC_MATID and REC_NVOX (R169). -/
def Block.matShown (b : Block) (ok : Bool) (i v : Nat) : Block :=
  ((b.setField F.REC_STAT_MATOK (bit ok)).setReg R.REC_MATID (BitVec.ofNat 32 i)).setField F.REC_NVOX_N v

theorem matShown_wf {b : Block} (hb : b.regs.wf = true) (ok : Bool) (i v : Nat) : (b.matShown ok i v).regs.wf = true :=
  setField_wf (setReg_wf (setField_wf hb _ _) _ _) _ _

theorem matShown_ok {b : Block} (hb : b.regs.wf = true) (ok : Bool) (i v : Nat) : (b.matShown ok i v).fld F.REC_STAT_MATOK = bit ok := by
  refine (fld_setField_ne (f := F.REC_NVOX_N) _ (by decide) _).trans ((fld_setReg_ne _ _ (by decide)).trans ((fld_setField hb held_matrix.1 _).trans ?_))
  cases ok <;> rfl

theorem matShown_id {b : Block} (hb : b.regs.wf = true) (ok : Bool) {i : Nat} (hi : i < 2 ^ 32) (v : Nat) :
    ((b.matShown ok i v).regs.get R.REC_MATID).toNat = i := by
  obtain ⟨-, -, -, himpl⟩ := held_matrix
  have hset := get_set_full (setField_wf hb F.REC_STAT_MATOK (bit ok)) himpl (BitVec.ofNat 32 i)
  have hkept : (b.matShown ok i v).regs.get R.REC_MATID = BitVec.ofNat 32 i := (setField_get_ne _ F.REC_NVOX_N v (by decide)).trans hset
  rw [hkept, BitVec.toNat_ofNat, Nat.mod_eq_of_lt hi]

theorem matShown_fld (b : Block) (ok : Bool) (i v : Nat) {f : RF} (hf : f.reg ∉ [R.REC_STAT, R.REC_MATID, R.REC_NVOX]) : (b.matShown ok i v).fld f = b.fld f := by
  simp only [List.mem_cons, List.not_mem_nil, or_false, not_or] at hf
  obtain ⟨hstat, hid, hvox⟩ := hf
  exact (fld_setField_ne (f := F.REC_NVOX_N) _ hvox _).trans ((fld_setReg_ne _ _ hid).trans (fld_setField_ne (f := F.REC_STAT_MATOK) _ hstat _))

/-- No matrix is in DRAM (R129, R169). -/
structure NoMatrix (b c : Block) : Prop where
  units : c.u = (b.withMat none).u
  matok : c.fld F.REC_STAT_MATOK = 0
  refok : c.fld F.REC_STAT_REFOK = 0
  matid : (c.regs.get R.REC_MATID).toNat = 0
  cause : c.fld F.REC_MATERR_CAUSE = b.fld F.REC_MATERR_CAUSE

theorem ends_matNone {b : Block} (hb : b.regs.wf = true) : Ends matNone b fun _ c => NoMatrix b c := by
  have hwf := matShown_wf (b := b.withMat none) hb false 0 0
  have hfit := setField_wf hwf F.REC_STAT_REFOK 0
  refine ends_then (b' := b.withMat none) (gives_modRec b _) (ends_then (gives_sb _ false _) (ends_then (gives_wr _ _ _) (ends_then (gives_setField _ _ _)
    (ends_then (gives_refFits_none (b := (b.withMat none).matShown false 0 0) rfl) (ends_mono (ends_of_keeps keeps_recBudget (within_refl hfit)) fun _ c hc => ?_)))))
  have hflag : ∀ j, j ≠ 12 → ¬budgetBits R.REC_STAT j := fun j hj hx => hx.elim (fun h => absurd h (by decide)) fun h => hj h.2
  have hreg : ∀ a, a ≠ R.REC_NITEREFF → a ≠ R.REC_STAT → c.regs.get a = ((b.withMat none).matShown false 0 0).regs.get a := fun a h1 h2 =>
    (hc.reg fun _ hx => hx.elim h1 fun h => h2 h.1).trans (setField_get_ne _ F.REC_STAT_REFOK 0 h2)
  refine ⟨hc.units, ?_, ?_, ?_, ?_⟩
  · refine (hc.fld F.REC_STAT_MATOK fun j h0 h1 => hflag j ?_).trans ((fld_setField_apart (g := F.REC_STAT_MATOK) hwf held_matrix.2.1 rfl (by decide) 0).trans
      (matShown_ok (b := b.withMat none) hb false 0 0))
    have h14 : (14 : Nat) ≤ j := h0
    omega
  · refine (hc.fld F.REC_STAT_REFOK fun j h0 h1 => hflag j ?_).trans (fld_setField hwf held_matrix.2.1 0)
    have h13 : (13 : Nat) ≤ j := h0
    omega
  · exact (congrArg BitVec.toNat (hreg R.REC_MATID (by decide) (by decide))).trans (matShown_id (b := b.withMat none) hb false (by decide) 0)
  · exact (congrArg F.REC_MATERR_CAUSE.of (hreg R.REC_MATERR (by decide) (by decide))).trans (matShown_fld _ false 0 0 (by decide))

/-- Matrix `m` is in DRAM (R128). -/
structure MatrixHeld (m : List Byte) (b c : Block) : Prop where
  units : c.u = (b.withMat (some m)).u
  matok : c.fld F.REC_STAT_MATOK = 1
  matid : (c.regs.get R.REC_MATID).toNat = Mat.id m

/-- The copy of a bank that is complete and fits the geometry (R128). -/
theorem ends_matCopy_fits {b : Block} (hb : b.regs.wf = true) {k : Nat} {m : List Byte} (hbank : b.u.nv.mat.getD k {} = { state := 1, data := m })
    (hgeom : Mat.geom m = (b.regs.get R.TOMO_GEOMID).toNat) (hpairs : Mat.pairs m = b.fld F.TOMO_NPAIR_NPAIR) (hdata : Mat.dataOk m = true) :
    Ends (matCopy k) b fun _ c => MatrixHeld m b c := by
  let shown := (b.withMat (some m)).matShown true (Mat.id m) (Mat.vox m)
  have hwf : shown.regs.wf = true := matShown_wf (b := b.withMat (some m)) hb true _ _
  refine ends_then (gives_units b) (ends_then (gives_rd _ b) (ends_then (gives_gf _ b) ?_))
  rw [hbank]
  have hnone : (if (1 : Nat) ≠ 1 then 4 else if Mat.geom m ≠ (b.regs.get R.TOMO_GEOMID).toNat then 1 else if Mat.pairs m ≠ b.fld F.TOMO_NPAIR_NPAIR then 2
      else if (!Mat.dataOk m) = true then 3 else 0) = 0 := by
    simp [hgeom, hpairs, hdata]
  refine ends_ite_pos hnone (ends_then (b' := b.withMat (some m)) (gives_modRec b _) (ends_then (gives_sb _ true _) (ends_then (gives_wr _ _ _)
    (ends_then (gives_setField _ _ _) (ends_keeps keeps_refFits (within_refl (b := shown) hwf) fun _ c hc => ends_keeps keeps_recBudget (within_refl hc.wf) fun _ d hd =>
      ends_of_gives (gives_pure true d) ⟨?_, ?_, ?_⟩)))))
  · exact Eq.trans (b := c.u) hd.units hc.units
  · have hok : ∀ j, F.REC_STAT_MATOK.lo ≤ j → j = 12 ∨ j = 13 → False := fun j h0 hj => by
      have h14 : (14 : Nat) ≤ j := h0
      omega
    refine (hd.fld F.REC_STAT_MATOK fun j h0 _ hx => ?_).trans ((hc.fld F.REC_STAT_MATOK fun j h0 _ hx => hok j h0 (.inr hx.2)).trans
      (matShown_ok (b := b.withMat (some m)) hb true _ _))
    exact hx.elim (fun h => absurd h (by decide)) fun h => hok j h0 (.inl h.2)
  · have hkept : d.regs.get R.REC_MATID = shown.regs.get R.REC_MATID := by
      refine (hd.reg fun _ hx => ?_).trans (hc.reg fun _ hx => absurd hx.1 (by decide))
      exact hx.elim (fun h => absurd h (by decide)) fun h => absurd h.1 (by decide)
    exact (congrArg BitVec.toNat hkept).trans (matShown_id (b := b.withMat (some m)) hb true (leAt_lt m 4 4) _)

/-- The copy of a bank that is not complete is refused with cause 4 (R129). -/
theorem ends_matCopy_unreadable {b : Block} (hb : b.regs.wf = true) {k : Nat} (hbank : (b.u.nv.mat.getD k {}).state ≠ 1) :
    Ends (matCopy k) b fun _ c => NoMatrix (b.setField F.REC_MATERR_CAUSE 4) c := by
  refine ends_then (gives_units b) (ends_then (gives_rd _ b) (ends_then (gives_gf _ b) ?_))
  have hbanked : ∀ n : Nat, (if (b.u.nv.mat.getD k {}).state ≠ 1 then 4 else n) = 4 := fun n => if_pos hbank
  refine ends_ite_neg (fun h => absurd ((hbanked _).symm.trans h) (by decide)) ?_
  rw [if_pos hbank]
  exact ends_then (gives_setField _ _ b) (ends_bind (ends_matNone (setField_wf hb _ _)) fun _ c hc => ends_of_gives (gives_pure false c) hc)

section
variable {s : State} {j : CalJob} (hl : Live s) (hb : Canon s) (hcal : s.dev.u.sys.cal = some j) (hmat : j.matrix = true)
include hl hcal hmat

/-- MATRIX_COPY_DONE is the copy of the bank of the job, whose matrix then needs no copy any more. -/
theorem matrixCopyDone_copies {P Q : Block → Prop} (hcopy : Ends (matCopy j.bank) s.dev fun _ c => P c) (hq : ∀ c sys, P c →
    (sys.cal.map (·.matrix)) = some false → Q (c.withU { c.u with sys := sys })) : Does .matrixCopyDone s fun t => Q t.dev := by
  refine does_of_ends (m := opMatrixCopyDone) rfl hl (ends_then (gives_units _) ?_)
  rw [hcal]
  refine ends_onlyIf_true hmat (ends_bind hcopy fun ok c hc => ends_then (gives_bf _ c) (ends_of_gives (gives_modU _ c) ?_))
  exact hq c _ hc rfl

include hb

theorem matrixCopyDone_holds {m : List Byte} (hbank : s.dev.u.nv.mat.getD j.bank {} = { state := 1, data := m })
    (hgeom : Mat.geom m = (s.reg R.TOMO_GEOMID).toNat) (hpairs : Mat.pairs m = s.fld F.TOMO_NPAIR_NPAIR) (hdata : Mat.dataOk m = true) :
    Does .matrixCopyDone s fun t => t.dev.u.reco.mat = some m ∧ t.dev.u.reco.reload = [] ∧ t.fld F.REC_STAT_MATOK = 1 ∧
      (t.reg R.REC_MATID).toNat = Mat.id m ∧ (t.dev.u.sys.cal.map (·.matrix)) = some false :=
  matrixCopyDone_copies hl hcal hmat (Q := fun d => d.u.reco.mat = some m ∧ d.u.reco.reload = [] ∧ d.fld F.REC_STAT_MATOK = 1 ∧
    (d.regs.get R.REC_MATID).toNat = Mat.id m ∧ (d.u.sys.cal.map (·.matrix)) = some false)
    (ends_matCopy_fits hb hbank hgeom hpairs hdata) fun c sys hc hsys => by
    have hreco : c.u.reco = (s.dev.withMat (some m)).u.reco := congrArg Units.reco hc.units
    exact ⟨congrArg RecS.mat hreco, congrArg RecS.reload hreco, hc.matok, hc.matid, hsys⟩

theorem matrixCopyDone_refuses (hbank : (s.dev.u.nv.mat.getD j.bank {}).state ≠ 1) :
    Does .matrixCopyDone s fun t => t.dev.u.reco.mat = none ∧ t.fld F.REC_STAT_MATOK = 0 ∧ t.fld F.REC_STAT_REFOK = 0 ∧ t.fld F.REC_MATERR_CAUSE = 4 ∧
      (t.reg R.REC_MATID).toNat = 0 ∧ (t.dev.u.sys.cal.map (·.matrix)) = some false :=
  matrixCopyDone_copies hl hcal hmat (Q := fun d => d.u.reco.mat = none ∧ d.fld F.REC_STAT_MATOK = 0 ∧ d.fld F.REC_STAT_REFOK = 0 ∧
    d.fld F.REC_MATERR_CAUSE = 4 ∧ (d.regs.get R.REC_MATID).toNat = 0 ∧ (d.u.sys.cal.map (·.matrix)) = some false)
    (ends_matCopy_unreadable hb hbank) fun _ _ hc hsys =>
    ⟨congrArg (fun u : Units => u.reco.mat) hc.units, hc.matok, hc.refok, hc.cause.trans (fld_setField hb held_matrix.2.2.1 4), hc.matid, hsys⟩

end

/-! ### Captures and the rolling state -/

/-- The frames of a complete capture are averaged, and the reference in force stays (R153). -/
theorem captureAveraged_ends {s : State} {c : Capture} (hl : Live s) (hb : Canon s) (hcap : s.dev.u.reco.capture = some c) (hleft : c.left = 0)
    (hdone : c.done = false) : Does .captureAveraged s fun t => t.dev.u.reco.capture = some { c with done := true } ∧ t.dev.u.reco.ref = s.dev.u.reco.ref ∧
      RegsKept [4, 5, 0x11] s t := by
  refine does_of_ends (m := opCaptureAveraged) rfl hl (ends_then (gives_recS _) ?_)
  rw [hcap]
  refine ends_onlyIf_true (by rw [hleft, hdone]; rfl) (ends_then (gives_modRec _ _) (ends_mono (ends_link (fun _ => link_raise _ _) (by exact hb)) fun _ d hd => ?_))
  have hreco := linkKeep_reco hd.units
  exact ⟨congrArg RecS.capture hreco, (congrArg RecS.ref hreco).trans rfl, fun a ha => hd.reg fun _ => ha⟩

/-- The rolling state of a state (R164). -/
def State.rolling (s : State) : RollState :=
  ⟨s.dev.u.reco.refNo, s.dev.u.reco.base, (List.range 16).map (fun n => s.fld (F.REC_LOFFS_OFFS n)), s.dev.u.reco.anchors,
    (List.range 16).map (fun n => s.fld (F.REC_LBOUND_BOUND n))⟩

theorem gives_rollNow (s : State) : Gives rollNow s.dev s.rolling s.dev := gives_bind (gives_recS _) (gives_bind (gives_block _) (gives_pure _ _))

/-- A save leaves its set in the bank that comes into force (R616). -/
theorem save_saved {n : NvS} (hlen : n.state.length = 2) (hsel : n.stateSel ≤ 1) (f : StateSet → StateSet) : (n.save f).saved = f n.saved := by
  have hset := updAt_getD_same n.state (1 - n.stateSel) (fun _ => ⟨1, f n.saved⟩) ⟨0, {}⟩ (by omega)
  exact congrArg _ hset

/-- The rolling state goes to NV 10 min after its last save (R164). -/
theorem rollingStateSave_saves {s : State} (hl : Live s) (hnv : NvWhole s) (hrest : s.dev.u.sys.restored = true)
    (hdue : s.dev.u.reco.rollAt + 600000000000 ≤ s.dev.u.elapsed) (hloss : NoLoss s) : Does .rollingStateSave s fun t =>
      t.dev.u.nv.saved = { s.dev.u.nv.saved with roll := some s.rolling } ∧ t.dev.u.nv.stateSel = 1 - s.dev.u.nv.stateSel ∧
        t.dev.u.reco.rollAt = s.dev.u.elapsed ∧ OnlyRegs [] s t := by
  obtain ⟨-, -, hlen, -, -, hsel⟩ := hnv
  have hsave : Gives rollSave s.dev () (s.dev.withU { s.dev.u with
      nv := s.dev.u.nv.save fun x => { x with roll := some s.rolling }, reco := { s.dev.u.reco with rollAt := s.dev.u.elapsed } }) :=
    gives_bind (gives_rollNow s) (gives_bind (gives_now _) (gives_bind (gives_bind (gives_units _) (gives_onlyIf_true (by rw [hloss]; rfl) (gives_modNv _ _)))
      (gives_modRec _ _)))
  exact does_of_onLive (m := opRollingStateSave) rfl hl (gives_bind (gives_recS _) (gives_bind (gives_now _) (gives_bind (gives_units _)
    (gives_onlyIf_true (by rw [hrest, decide_eq_true hdue]; rfl) hsave)))) ⟨save_saved hlen hsel _, rfl, rfl, fun _ _ => rfl⟩

/-- Settles O14: a write of REC_CTL stores its word; the matrix copy shows what the bank holds; a capture is marked, and the rolling state is
the set that the save leaves. -/
theorem reconstructionKeeps : Obligations.ReconstructionKeeps := by
  unfold Obligations.ReconstructionKeeps
  refine ⟨?run, ?fits, ?unreadable, ?averaged, ?rolling⟩
  case run => exact fun s src hl hb => recRunClear_keeps src hl hb
  case fits => exact fun s j m hl hb hcal hmat hbank hgeom hpairs hdata => matrixCopyDone_holds hl hb hcal hmat hbank hgeom hpairs hdata
  case unreadable => exact fun s j hl hb hcal hmat hbank => matrixCopyDone_refuses hl hb hcal hmat hbank
  case averaged => exact fun s c hl hb hcap hleft hdone => captureAveraged_ends hl hb hcap hleft hdone
  case rolling =>
    intro s hl _ hnv hrest hdue hloss
    refine does_mono (rollingStateSave_saves hl hnv hrest hdue hloss) fun t ⟨hsaved, hsel, hat, hregs⟩ => ?_
    rw [hsaved]
    exact ⟨rfl, hsel, rfl, hat, hregs⟩

end Sys2Proof.Machine
end

section
/-!
PROOF. Proofs/ReconRuns.lean: a frame is taken, skipped, published or dropped at its deadline, and the statement about it (R137, R138, R140,
R142, R143, R166).
-/
namespace Sys2Proof.Machine

/-! ### The dispatch -/

/-- The settings that a dispatch latches, as far as the statements show them (R138). -/
theorem gives_recLatch (b : Block) : ∃ l, Gives recLatch b l b ∧ l.alpha = b.fld F.REC_ALPHA_ALPHA ∧ l.lambda = b.fld F.REC_LAMBDA_LAMBDA ∧
    l.missMax = b.fld F.REC_MISSMAX_MAX :=
  ⟨_, gives_bind (gives_block b) (gives_bind (gives_bind (gives_gf _ b) (gives_bind (gives_gf _ b) (gives_pure _ b))) (gives_pure _ b)), rfl, rfl, rfl⟩

/-- A frame that fits the matrix and the reference, with no more pairs than may miss, is not skipped (R142). -/
theorem skipCause_fits {b : Block} {l : RecLatch} {f : FrameRec} {m r : List Byte} (hrun : b.fld F.REC_CTL_RUN = 1) (hmatok : b.fld F.REC_STAT_MATOK = 1)
    (hrefok : b.fld F.REC_STAT_REFOK = 1) (hmat : b.u.reco.mat = some m) (href : b.u.reco.ref = some r) (hgeom : f.geomId = Mat.geom m)
    (hfreq : ∀ k ∈ List.range 4, f.plan.freq.getD k 0 = Ref.freq r k) (hmiss : f.pairs.length ≤ l.missMax) : skipCause true b l f = 0 := by
  have hclose : ((List.range 4).any fun t => decide (Ref.freq r t < gap (f.plan.freq.getD t 0) (Ref.freq r t) * 1000)) = false := by
    refine List.any_eq_false.2 fun t ht => ?_
    rw [hfreq t ht, gap, Nat.max_self, Nat.min_self, Nat.sub_self, Nat.zero_mul]
    simp
  have hfew : ¬l.missMax < ((List.range f.pairs.length).filter fun p => decide (pairWeight l (some r) f p = 0)).length :=
    Nat.not_lt.2 (le_trans (List.length_filter_le _ _) (by rwa [List.length_range]))
  have hon : ∀ x : RF, b.fld x = 1 → (x.of (b.regs.get x.reg) != 0) = true := fun _ h => bit_set h
  simp only [skipCause, hon _ hrun, hon _ hmatok, hon _ hrefok, hmat, href, hclose, if_neg hfew, hgeom]
  simp

/-- With RUN 0, or in a mode that does not dispatch, a frame is skipped as with RUN 0 (R142, assumption log 96). -/
theorem skipCause_stopped {b : Block} {l : RecLatch} {f : FrameRec} {may : Bool} (h : b.fld F.REC_CTL_RUN = 0 ∨ may = false) : skipCause may b l f = 0x10 := by
  have hor : (!may || !(F.REC_CTL_RUN.of (b.regs.get F.REC_CTL_RUN.reg) != 0)) = true := by
    rcases h with h | rfl
    · rw [show F.REC_CTL_RUN.of (b.regs.get F.REC_CTL_RUN.reg) = 0 from h]
      exact Bool.or_true _
    · rfl
  exact if_pos hor

theorem held_recon : F.REC_STAT_BUSY.Held ∧ F.REC_STAT_PUB.Held ∧ F.REC_STAT_OVERRUN.Held ∧ F.REC_SKIPCNT_CNT.Held ∧ F.REC_OVRCNT_CNT.Held ∧
    F.REC_LASTMAP_SLOT.Held ∧ Counter64 R.REC_MSEQL R.REC_MSEQH := by decide

/-- What block `c` shows of frame `f` taken with the settings `l` in block `b` (R137, R138). -/
structure FrameTaken (f : FrameRec) (l : RecLatch) (b c : Block) : Prop where
  hand : ∃ h, c.u.reco.hand = some h ∧ h.frame = f ∧ h.latch = l ∧ h.mode = b.fld F.SYS_MODE_CUR ∧ h.closedAt = f.closedAt ∧ h.dispatchedAt = b.u.elapsed
  waiting : c.u.reco.waiting = b.u.reco.waiting
  busy : c.fld F.REC_STAT_BUSY = 1
  skips : c.fld F.REC_SKIPCNT_CNT = b.fld F.REC_SKIPCNT_CNT

theorem ends_recTake {b : Block} (hb : b.regs.wf = true) (f : FrameRec) (l : RecLatch) : Ends (recTake f l) b fun _ c => FrameTaken f l b c := by
  refine ends_then (gives_recS b) (ends_then (gives_now b) (ends_then (gives_gf _ b) (ends_then (gives_gf _ b) (ends_then (gives_tomoS b)
    (ends_then (gives_gf _ b) (ends_then (gives_gf _ b) (ends_then (gives_setField _ _ b) (ends_then (gives_sb _ true _) (ends_of_gives (gives_modRec _ _)
      ⟨⟨_, rfl, rfl, rfl, rfl, rfl, rfl⟩, rfl, ?_, ?_⟩)))))))))
  · exact fld_setField (setField_wf hb _ _) held_recon.1 1
  · exact (fld_setField_ne (f := F.REC_STAT_BUSY) _ (by decide) _).trans (fld_setField_ne (f := F.REC_BASERES_RES) _ (by decide) _)

/-- With nothing to copy again and no reference committed, a dispatch finds both as they are (R131, R154). -/
theorem gives_matReload_none {b : Block} (h : b.u.reco.reload = []) : Gives matReload b () b :=
  gives_bind (gives_units b) (gives_ite_pos h (gives_pure () b))

theorem gives_refActivate_none {b : Block} (h : b.u.reco.refNext = none) : Gives refActivate b () b := by
  refine gives_bind (gives_recS b) (gives_bind (gives_units b) ?_)
  rw [h]
  exact gives_pure () b

/-- The answer of the modes that do not dispatch (R101, R341). -/
theorem gives_tomoAllowed_no {s : State} (h : s.base ∈ [0, 1, 5]) (hstay : s.fld F.SYS_CALCTL_STAY = 0) : Gives tomoAllowed s.dev false s.dev := by
  refine gives_bind (gives_baseMode s) (gives_bind (gives_units _) (gives_bind (gives_bf_clear hstay) (gives_bind (gives_gf _ _) (gives_pure_eq ?_ _))))
  simp only [List.mem_cons, List.not_mem_nil, or_false] at h
  rcases h with h | h | h <;> simp [h]

/-- The block in which no frame waits. -/
def Block.noneWaits (b : Block) : Block := b.withU { b.u with reco := { b.u.reco with waiting := none } }

/-- What block `c` shows of a frame skipped as with RUN 0 in block `b` (R142). -/
structure FrameSkipped (b c : Block) : Prop where
  reco : c.u.reco = b.noneWaits.u.reco
  skips : c.fld F.REC_SKIPCNT_CNT = min (b.fld F.REC_SKIPCNT_CNT + 1) 0xFFFFFFFF
  skip : c.fld F.REC_STAT_SKIP = b.fld F.REC_STAT_SKIP
  busy : c.fld F.REC_STAT_BUSY = b.fld F.REC_STAT_BUSY

section
variable {s : State} {fr : FrameRec} (hl : Live s) (hwait : s.dev.u.reco.waiting = some fr) (hhand : s.dev.u.reco.hand = none) (hcore : CoreUp s 4)
include hl hwait hhand hcore

/-- RECON_DISPATCH with a frame waiting and none in hand is that frame's dispatch (R140). -/
theorem reconDispatch_dispatches {Q : State → Prop} (h : Ends (dispatchFrame fr) s.dev fun _ c => Q { s with dev := c }) : Does .reconDispatch s Q := by
  refine does_of_ends (m := opReconDispatch) rfl hl (ends_onCore hcore (ends_then (gives_recS _) ?_))
  rw [hwait, hhand]
  exact h

variable (hb : Canon s)
include hb

/-- A frame that fits is taken (R137, R138, R140). -/
theorem reconDispatch_takes {m rf : List Byte} (hreload : s.dev.u.reco.reload = []) (hnext : s.dev.u.reco.refNext = none) (hrun : s.fld F.REC_CTL_RUN = 1)
    (hmatok : s.fld F.REC_STAT_MATOK = 1) (hrefok : s.fld F.REC_STAT_REFOK = 1) (hmat : s.dev.u.reco.mat = some m) (href : s.dev.u.reco.ref = some rf)
    (hgeom : fr.geomId = Mat.geom m) (hfreq : ∀ k ∈ List.range 4, fr.plan.freq.getD k 0 = Ref.freq rf k)
    (hmiss : fr.pairs.length ≤ s.fld F.REC_MISSMAX_MAX) (hmode : s.base ∈ [2, 3, 4, 6]) : Does .reconDispatch s fun t =>
      ∃ l, l.alpha = s.fld F.REC_ALPHA_ALPHA ∧ l.lambda = s.fld F.REC_LAMBDA_LAMBDA ∧ l.missMax = s.fld F.REC_MISSMAX_MAX ∧
        FrameTaken fr l s.dev.noneWaits t.dev := by
  obtain ⟨may, hmay, hyes⟩ := gives_tomoAllowed s
  obtain ⟨l, hlatch, halpha, hlambda, hmax⟩ := gives_recLatch s.dev
  cases hyes hmode
  refine reconDispatch_dispatches hl hwait hhand hcore (ends_then (gives_bf_set hrun) (ends_then hmay (ends_then (gives_onlyIf_true rfl
    (gives_bind (gives_matReload_none hreload) (gives_refActivate_none hnext))) (ends_then hlatch (ends_then (gives_block _) (ends_then (gives_modRec _ _)
      (ends_ite_pos (skipCause_fits hrun hmatok hrefok hmat href hgeom hfreq (hmiss.trans hmax.ge)) (ends_mono (ends_recTake (b := s.dev.noneWaits) hb fr l)
        fun _ c hc => ⟨l, halpha, hlambda, hmax, hc⟩))))))))

/-- With RUN 0, or in a mode that does not dispatch, the frame is skipped (R142, R341). -/
theorem reconDispatch_skips {may : Bool} (hmay : Gives tomoAllowed s.dev may s.dev) (hstop : s.fld F.REC_CTL_RUN = 0 ∨ may = false) :
    Does .reconDispatch s fun t => FrameSkipped s.dev t.dev := by
  obtain ⟨l, hlatch, -⟩ := gives_recLatch s.dev
  have hcond : ((F.REC_CTL_RUN.of (s.dev.regs.get F.REC_CTL_RUN.reg) != 0) && may) = false := by
    rcases hstop with h | rfl
    · rw [show F.REC_CTL_RUN.of (s.dev.regs.get F.REC_CTL_RUN.reg) = 0 from h]
      rfl
    · exact Bool.and_false _
  have hset := setField_wf (b := s.dev.noneWaits) hb F.REC_SKIPCNT_CNT (satAdd (2 ^ 32 - 1) (s.fld F.REC_SKIPCNT_CNT) 1)
  have hcause := skipCause_stopped (l := l) (f := fr) (b := s.dev) hstop
  refine reconDispatch_dispatches hl hwait hhand hcore (ends_then (gives_bf _ _) (ends_then hmay (ends_then (gives_onlyIf_false hcond)
    (ends_then hlatch (ends_then (gives_block _) (ends_then (gives_modRec _ _) (ends_ite_neg (by rw [hcause]; decide) ?_)))))))
  rw [hcause]
  refine ends_then (gives_bind (gives_cntSat _ 1 s.dev.noneWaits) (gives_onlyIf_false rfl)) (ends_keeps (R := LedgerFrame _)
    (keeps_bind keeps_recLatch fun _ => keeps_bind (keeps_gf _) fun _ => keeps_bind (keeps_gf _) fun _ => keeps_pure _) (within_refl hset) fun _ c hc =>
      ends_mono (ends_of_keeps (keeps_ledgerGap _) hc) fun _ d hd => ⟨hd.units, ?_, ?_, ?_⟩)
  · exact (hd.fld (f := F.REC_SKIPCNT_CNT) (by decide)).trans ((fld_setField hb held_recon.2.2.2.1 _).trans (satAdd_word _ 1))
  · exact (hd.fld (f := F.REC_STAT_SKIP) (by decide)).trans (fld_setField_ne _ (by decide) _)
  · exact (hd.fld (f := F.REC_STAT_BUSY) (by decide)).trans (fld_setField_ne _ (by decide) _)

end

/-! ### The deadline -/

/-- The deadline of the frame in hand has come (R100, R143). -/
def State.late (s : State) (h : Hand) : Bool :=
  decide (h.closedAt + s.framePeriod * 10000 ≤ s.dev.u.elapsed) || s.dev.u.reco.waiting.isSome || s.dev.u.tomo.closed.isSome

theorem gives_deadlineCome (s : State) (h : Hand) : Gives (deadlineCome h) s.dev (s.late h) s.dev := by
  have hbit : s.fld F.TOMO_CTL_BLEN < 2 ^ 1 := fld_lt s.dev F.TOMO_CTL_BLEN
  have hlen : (if (F.TOMO_CTL_BLEN.of (s.dev.regs.get F.TOMO_CTL_BLEN.reg) != 0) = true then 1152 else 1024) =
      if s.fld F.TOMO_CTL_BLEN = 1 then 1152 else 1024 := by
    refine if_congr (bne_iff_ne.trans ?_) rfl rfl
    show s.fld F.TOMO_CTL_BLEN ≠ 0 ↔ s.fld F.TOMO_CTL_BLEN = 1
    omega
  have hperiod : Gives ownPeriod s.dev s.framePeriod s.dev :=
    gives_bind (gives_gf _ _) (gives_bind (gives_bf _ _) (gives_pure_eq (congrArg (max (s.fld F.TOMO_FPER_FPER)) hlen) _))
  exact gives_bind (gives_units _) (gives_bind hperiod (gives_pure _ _))

/-- A frame's end leaves every register but REC_FTIME. -/
theorem keeps_frameTime {β : Type} {keep : Units → β} {l : List Nat} {S : Prop} {b0 : Block} (hl : R.REC_FTIME ∉ l) (closedAt : Nat) :
    Keeps S (Within (notOf l) keep b0) (frameTime closedAt) :=
  keeps_bind keeps_now fun _ => keeps_bind (keeps_gf _) fun _ => keeps_bind (keeps_fieldOut (by decide) (by decide) hl _) fun _ =>
    keeps_fieldOut (by decide) (by decide) hl _

/-- The registers of the engine that tell a drop and the maps before it. -/
abbrev dropRegs : List Nat := [R.REC_OVRCNT, R.REC_STAT, R.REC_MSEQL, R.REC_MSEQH]

/-- What a drop leaves of the engine's data once nothing is in hand. -/
def dropKeep (u : Units) : Option Hand × Option MapRec := (u.reco.hand, u.reco.last)

/-- A frame of what follows a drop. -/
abbrev DropFrame : Block → Block → Prop := Within (notOf dropRegs) dropKeep

section
variable {b0 : Block}

theorem keeps_dropRaise (code : Nat) (data : List Byte) : Keeps False (DropFrame b0) (raise code data) :=
  within_link (fun _ => link_raise _ _) (linkBits_notOf (by decide)) fun _ _ h => congrArg (fun q : RecS => (q.hand, q.last)) (linkKeep_reco h)

theorem keeps_thermalDemand : Keeps False (DropFrame b0) thermalDemand :=
  keeps_bind keeps_now fun _ => keeps_bind (keeps_gbit _ _) fun _ => keeps_ite (fun _ => within_modU fun _ => rfl) fun _ => within_modU fun _ => rfl

theorem keeps_overrunCause : Keeps False (DropFrame b0) overrunCause :=
  keeps_bind (keeps_gf _) fun _ => keeps_bind (keeps_bf _) fun _ => keeps_onlyIf fun _ => within_modU fun _ => rfl

end

/-- What block `c` shows of the frame in hand dropped in block `b` (R142, R143). -/
structure FrameDropped (b c : Block) : Prop where
  wf : c.regs.wf = true
  hand : c.u.reco.hand = none
  last : c.u.reco.last = b.u.reco.last
  count : c.fld F.REC_OVRCNT_CNT = min (b.fld F.REC_OVRCNT_CNT + 1) 0xFFFFFFFF
  overrun : c.fld F.REC_STAT_OVERRUN = 1
  busy : c.fld F.REC_STAT_BUSY = 0
  mseq : c.n64 R.REC_MSEQL R.REC_MSEQH = b.n64 R.REC_MSEQL R.REC_MSEQH

/-- A drop is told by what its registers show and by nothing in hand. -/
theorem FrameDropped.kept {b c d : Block} (h : FrameDropped b c) (hd : DropFrame c d) : FrameDropped b d :=
  ⟨hd.wf, (congrArg Prod.fst hd.units).trans h.hand, (congrArg Prod.snd hd.units).trans h.last, (hd.out (f := F.REC_OVRCNT_CNT) (by decide)).trans h.count,
    (hd.out (f := F.REC_STAT_OVERRUN) (by decide)).trans h.overrun, (hd.out (f := F.REC_STAT_BUSY) (by decide)).trans h.busy,
    (hd.n64Out (by decide) (by decide)).trans h.mseq⟩

theorem LedgerFrame.dropped {c d : Block} (h : LedgerFrame c d) : DropFrame c d :=
  h.mono (fun a _ ha hm => absurd ha (Nat.not_le.2 ((show ∀ x ∈ dropRegs, x < 0xC0000 by decide) a hm))) fun _ _ hu =>
    congrArg (fun q : RecS => (q.hand, q.last)) hu

/-- A frame is dropped at its deadline (R142, R145). -/
theorem ends_recDrop {b : Block} (hb : b.regs.wf = true) (f : FrameRec) (lim : Nat) : Ends (recDrop f false lim) b fun _ c => FrameDropped b c := by
  obtain ⟨hbusy, -, hover, -, hcnt, -, -⟩ := held_recon
  let counted := b.setField F.REC_OVRCNT_CNT (satAdd (2 ^ 32 - 1) (b.fld F.REC_OVRCNT_CNT) 1)
  let told := counted.setField F.THM_DROPCNT_CNT (satAdd (2 ^ 32 - 1) (counted.fld F.THM_DROPCNT_CNT) 1)
  have hcounted : counted.regs.wf = true := setField_wf hb _ _
  have htold : told.regs.wf = true := setField_wf hcounted _ _
  have hover1 := setField_wf htold F.REC_STAT_OVERRUN 1
  have hbusy1 := setField_wf hover1 F.REC_STAT_BUSY 0
  refine ends_then (gives_cntSat _ 1 b) (ends_then (b' := told) (gives_cntSat _ 1 counted) (ends_then (gives_sb _ true told) (ends_then (gives_sb _ false _)
    (ends_keeps (R := DropFrame _) (keeps_frameTime (by decide) _) (within_refl hbusy1) fun _ c hc => ends_keeps (keeps_onlyIf fun _ => keeps_dropRaise _ _) hc
      fun _ d hd => ends_then (gives_modRec d _) (ends_then (gives_recS _) ?_)))))
  refine ends_mono (ends_of_keeps (keeps_onlyIf fun _ => keeps_bind (within_modU fun _ => rfl) fun _ => keeps_bind (keeps_dropRaise _ _) fun _ =>
    keeps_bind keeps_thermalDemand fun _ => keeps_overrunCause) (within_refl (by exact hd.wf))) fun _ e he => FrameDropped.kept ?_ he
  refine ⟨hd.wf, rfl, congrArg Prod.snd hd.units, (hd.out (f := F.REC_OVRCNT_CNT) (by decide)).trans ?_, (hd.out (f := F.REC_STAT_OVERRUN) (by decide)).trans ?_,
    (hd.out (f := F.REC_STAT_BUSY) (by decide)).trans ?_, (hd.n64Out (by decide) (by decide)).trans ?_⟩
  · refine (fld_setField_ne (f := F.REC_STAT_BUSY) _ (by decide) _).trans ((fld_setField_ne (f := F.REC_STAT_OVERRUN) _ (by decide) _).trans
      ((fld_setField_ne (f := F.THM_DROPCNT_CNT) _ (by decide) _).trans ((fld_setField hb hcnt _).trans (satAdd_word _ 1))))
  · exact (fld_setField_apart (g := F.REC_STAT_OVERRUN) hover1 hbusy rfl (by decide) 0).trans (fld_setField htold hover 1)
  · exact fld_setField hover1 hbusy 0
  · exact (n64_setField_ne _ _ (by decide) (by decide)).trans ((n64_setField_ne _ _ (by decide) (by decide)).trans
      ((n64_setField_ne _ _ (by decide) (by decide)).trans (n64_setField_ne _ _ (by decide) (by decide))))

/-- RECON_DEADLINE drops the frame in hand (R143). -/
theorem reconDeadline_drops {s : State} {h : Hand} (hl : Live s) (hb : Canon s) (hhand : s.dev.u.reco.hand = some h) (hwait : s.dev.u.reco.waiting = none)
    (hdue : h.closedAt + s.framePeriod * 10000 ≤ s.dev.u.elapsed) (hcore : CoreUp s 4) : Does .reconDeadline s fun t => FrameDropped s.dev t.dev := by
  have hlate : s.late h = true := by rw [State.late, decide_eq_true hdue]; rfl
  refine does_of_ends (m := opReconDeadline) rfl hl (ends_onCore hcore (ends_then (gives_units _) ?_))
  rw [hhand]
  refine ends_then (gives_deadlineCome s h) (ends_onlyIf_true hlate (ends_then (gives_recS _) ?_))
  rw [hhand, hwait]
  exact ends_bind (ends_recDrop hb h.frame h.latch.ovrLim) fun _ c hc => ends_keeps (keeps_ledgerGap _) (within_refl hc.wf) fun _ d hd =>
    ends_of_gives (gives_pure () d) (hc.kept (LedgerFrame.dropped hd))

/-! ### The publication -/

/-- The registers of the engine that a publication reads after the bounds. -/
abbrev boundsKept : List Nat := [R.REC_MSEQL, R.REC_MSEQH, R.REC_MAPBASE]

/-- What the bounds of a publication leave of the units' data: the times, and the engine's but for the anchors. -/
def boundsKeep (u : Units) : Nat × Nat × RecS := (u.elapsed, u.wall, { u.reco with anchors := [] })

/-- A frame of the bounds of a publication (R161 to R163). -/
abbrev BoundsFrame : Block → Block → Prop := Within (notOf boundsKept) boundsKeep

theorem boundsKeep_link {u v : Units} (h : linkKeep u = linkKeep v) : boundsKeep u = boundsKeep v := by
  have hk : boundsKeep (linkKeep u) = boundsKeep (linkKeep v) := congrArg boundsKeep h
  exact hk

theorem laneRegs_notBounds (n : Nat) : R.REC_LBOUND n ∉ boundsKept ∧ R.REC_LSTAT n ∉ boundsKept := by
  simp only [R.REC_LBOUND, R.REC_LSTAT, R.REC_MSEQL, R.REC_MSEQH, R.REC_MAPBASE, List.mem_cons, List.not_mem_nil, or_false]
  omega

section
variable {S : Prop} {b0 : Block}

theorem keeps_laneBit {i n : Nat} (hi : i < 32) (v : Bool) : Keeps S (BoundsFrame b0) (sb ⟨R.REC_LSTAT n, i, i⟩ v) :=
  within_sb (Nat.le_refl i) hi fun _ _ _ => (laneRegs_notBounds n).2

theorem keeps_laneShown (n v : Nat) : Keeps S (BoundsFrame b0) (sf (F.REC_LBOUND_BOUND n) v) :=
  within_sf (Nat.zero_le _) (show 15 < 32 by decide) fun _ _ _ => (laneRegs_notBounds n).1

theorem keeps_laneUnanchor (n : Nat) : Keeps S (BoundsFrame b0) (laneUnanchor n) :=
  keeps_bind (within_modU fun _ => rfl) fun _ => keeps_bind (keeps_laneShown n _) fun _ => keeps_bind (keeps_laneBit (by decide) _) fun _ => keeps_laneBit (by decide) _

/-- A lane's bound at a publication (R161 to R163). -/
theorem keeps_laneBound (t0 t1 : Int) (n : Nat) : Keeps False (BoundsFrame b0) (laneBound t0 t1 n) := by
  refine keeps_bind (keeps_bind (keeps_read gives_recS) fun _ => keeps_pure _) fun a => ?_
  cases a with
  | none => exact keeps_laneUnanchor n
  | some a =>
    refine keeps_bind (keeps_bind (keeps_gf _) fun _ => keeps_bind (keeps_gf _) fun _ => keeps_bind (keeps_gf _) fun _ => keeps_bind (keeps_gf _) fun _ =>
      keeps_bind (keeps_gf _) fun _ => keeps_bind keeps_now fun _ => keeps_pure _) fun _ => keeps_bind (keeps_gf _) fun _ => keeps_bind (keeps_bf _) fun _ => ?_
    refine keeps_bind (keeps_laneShown n _) fun _ => keeps_bind (keeps_laneBit (by decide) _) fun _ => keeps_onlyIf fun _ => ?_
    exact keeps_bind (keeps_laneBit (by decide) _) fun _ => keeps_bind (keeps_flagOut (by decide) (by decide) (by decide) _) fun _ => within_link (fun _ => link_raise _ _) (linkBits_notOf (by decide)) fun _ _ => boundsKeep_link

end

/-- What a block shows of map `mp` stored in slot `slot` (R142, R166). -/
structure MapStored (slot : Nat) (mp : MapRec) (b : Block) : Prop where
  wf : b.regs.wf = true
  hand : b.u.reco.hand = none
  last : b.u.reco.last = some mp
  next : b.u.reco.nextSlot = (slot + 1) % 16
  ring : b.u.reco.ring.find? (fun x => x.1 = slot) = some (slot, mp)
  shown : b.fld F.REC_LASTMAP_SLOT = slot
  pub : b.fld F.REC_STAT_PUB = 1
  busy : b.fld F.REC_STAT_BUSY = 0

/-- The Ledger leaves what tells a stored map. -/
theorem MapStored.kept {slot : Nat} {mp : MapRec} {b c : Block} (hb : MapStored slot mp b) (hc : LedgerFrame b c) : MapStored slot mp c := by
  have hreco : c.u.reco = b.u.reco := hc.units
  have hfld : ∀ f : RF, f.reg < 0xC0000 → c.fld f = b.fld f := fun _ => LedgerFrame.fld hc
  exact ⟨hc.wf, (congrArg RecS.hand hreco).trans hb.hand, (congrArg RecS.last hreco).trans hb.last, (congrArg RecS.nextSlot hreco).trans hb.next,
    (congrArg (fun q : RecS => q.ring.find? fun x => x.1 = slot) hreco).trans hb.ring, (hfld _ (by decide)).trans hb.shown, (hfld _ (by decide)).trans hb.pub,
    (hfld _ (by decide)).trans hb.busy⟩

/-- The head of a map (R166, R167). -/
theorem mapOf_head (b : Block) (h : Hand) (q k : Nat) : ((mapOf b h q k).mseq, (mapOf b h q k).mseqEnd, (mapOf b h q k).place, (mapOf b h q k).fseq,
    (mapOf b h q k).wt, (mapOf b h q k).wtpub) = (q, q, mapPlace (b.fld F.REC_MAPBASE_BASE) k, h.frame.fseq, h.frame.stamp.wall, b.u.wall) := rfl

/-- The registers that tell a publication. -/
abbrev mapRegs : List Nat := [R.REC_LASTMAP, R.REC_STAT, R.REC_MSEQL, R.REC_MSEQH]

/-- Map `mp` of hand `h` goes to slot `slot` of the ring, and the engine is free (R142, R166). -/
theorem ends_mapStored {b : Block} (hb : b.regs.wf = true) (h : Hand) {slot : Nat} (hslot : slot < 16) (mp : MapRec) : Ends (do
      onlyIf h.basex (sb F.REC_STAT_BASEX true)
      onlyIf (bitAt mp.mflags 3) do
        sb F.REC_STAT_SAT true
        cntSat F.REC_SATCNT_CNT 1
      sf F.REC_LASTMAP_SLOT slot
      sb F.REC_STAT_PUB true
      sb F.REC_STAT_BUSY false
      frameTime h.closedAt
      let it ← free
      sf F.REC_ITIME_LAST it
      modRec fun s =>
        { s with hand := none, last := some mp, nextSlot := (slot + 1) % 16, ring := (slot, mp) :: s.ring.filter (fun x => x.1 ≠ slot), coldLeft := s.coldLeft - 1, drops := 0 }
      pure (some mp)) b fun r c => r = some mp ∧ MapStored slot mp c ∧
        c.n64 R.REC_MSEQL R.REC_MSEQH = b.n64 R.REC_MSEQL R.REC_MSEQH := by
  obtain ⟨hbusy, hpub, -, -, -, hlast, -⟩ := held_recon
  refine ends_keeps (R := Within (notOf [R.REC_MSEQL, R.REC_MSEQH]) id b) (keeps_onlyIf fun _ => keeps_flagOut (by decide) (by decide) (by decide) _)
    (within_refl hb) fun _ c hc => ends_keeps (keeps_onlyIf fun _ => keeps_bind (keeps_flagOut (by decide) (by decide) (by decide) _) fun _ =>
      keeps_countOut (by decide) (by decide) (by decide) _) hc fun _ d hd => ?_
  have hslotted := setField_wf hd.wf F.REC_LASTMAP_SLOT slot
  have hshown := setField_wf hslotted F.REC_STAT_PUB 1
  refine ends_then (gives_setField _ _ d) (ends_then (gives_sb _ true _) (ends_then (gives_sb _ false _) ?_))
  refine ends_keeps (R := Within (notOf mapRegs) (fun _ => ()) _) (keeps_frameTime (by decide) _) (within_refl (setField_wf hshown F.REC_STAT_BUSY 0)) fun _ _ he =>
    ends_keeps (keeps_free fun _ => rfl) he fun _ _ he => ends_keeps (keeps_fieldOut (by decide) (by decide) (by decide) _) he fun _ e he =>
      ends_then (gives_modRec e _) (ends_of_gives (gives_pure _ _)
        ⟨rfl, ⟨he.wf, rfl, rfl, rfl, List.find?_cons_of_pos (decide_eq_true rfl), ?_, ?_, ?_⟩, ?_⟩)
  · exact (he.out (f := F.REC_LASTMAP_SLOT) (by decide)).trans ((fld_setField_ne _ (by decide) _).trans ((fld_setField_ne _ (by decide) _).trans
      ((fld_setField hd.wf hlast _).trans (Nat.mod_eq_of_lt hslot))))
  · exact (he.out (f := F.REC_STAT_PUB) (by decide)).trans ((fld_setField_apart (g := F.REC_STAT_PUB) hshown hbusy rfl (by decide) 0).trans
      (fld_setField hslotted hpub 1))
  · exact (he.out (f := F.REC_STAT_BUSY) (by decide)).trans (fld_setField hshown hbusy 0)
  · exact (he.n64Out (by decide) (by decide)).trans ((n64_setField_ne _ _ (by decide) (by decide)).trans ((n64_setField_ne _ _ (by decide) (by decide)).trans
      ((n64_setField_ne _ _ (by decide) (by decide)).trans (hd.n64Out (by decide) (by decide)))))

/-- The head of map `mp` is that of the frame of hand `h` in block `b`, under the next number (R166, R167). -/
def MapRec.follows (mp : MapRec) (h : Hand) (b : Block) : Prop :=
  (mp.mseq, mp.mseqEnd, mp.place, mp.fseq, mp.wt, mp.wtpub) = ((b.n64 R.REC_MSEQL R.REC_MSEQH + 1) % 2 ^ 64, (b.n64 R.REC_MSEQL R.REC_MSEQH + 1) % 2 ^ 64,
    mapPlace (b.fld F.REC_MAPBASE_BASE) b.u.reco.nextSlot, h.frame.fseq, h.frame.stamp.wall, b.u.wall)

/-- What block `c` shows of map `mp`, published of hand `h` in block `b` (R142, R166). -/
structure MapPublished (h : Hand) (mp : MapRec) (b c : Block) : Prop where
  head : mp.follows h b
  stored : MapStored b.u.reco.nextSlot mp c
  mseq : c.n64 R.REC_MSEQL R.REC_MSEQH = (b.n64 R.REC_MSEQL R.REC_MSEQH + 1) % 2 ^ 64

/-- The block with REC_MSEQ advanced (R166). -/
def Block.numbered (b : Block) : Block := b.put64 R.REC_MSEQL R.REC_MSEQH ((b.n64 R.REC_MSEQL R.REC_MSEQH + 1) % 2 ^ 64)

theorem mapOf_follows {b c : Block} (h : Hand) (hc : BoundsFrame b c) :
    (mapOf c.numbered h ((c.n64 R.REC_MSEQL R.REC_MSEQH + 1) % 2 ^ 64) b.u.reco.nextSlot).follows h b := by
  have hbase : c.numbered.fld F.REC_MAPBASE_BASE = b.fld F.REC_MAPBASE_BASE :=
    (congrArg F.REC_MAPBASE_BASE.of (put64_get_ne c _ (by decide) (by decide))).trans (hc.out (f := F.REC_MAPBASE_BASE) (by decide))
  have hwall : c.numbered.u.wall = b.u.wall := congrArg (fun x => x.2.1) hc.units
  rw [MapRec.follows, mapOf_head, hbase, hwall, hc.n64Out (by decide) (by decide)]

/-- The map of the frame in hand is published (R142, R161 to R163, R166). -/
theorem ends_recPublish {b : Block} (hb : b.regs.wf = true) {h : Hand} (hhand : b.u.reco.hand = some h) (hslot : b.u.reco.nextSlot < 16) :
    Ends recPublish b fun r c => ∃ mp, r = some mp ∧ MapPublished h mp b c := by
  refine ends_then (gives_recS b) ?_
  rw [hhand]
  refine ends_keeps (keeps_each fun n _ => keeps_laneBound _ _ n) (within_refl hb) fun _ c hc => ends_then (gives_rd64 _ _ c) (ends_then (gives_wr64 _ _ _ c)
    (ends_then (gives_block _) (ends_mono (ends_mapStored (b := c.numbered) (put64_wf hc.wf _) h hslot _) fun r d hd => ?_)))
  obtain ⟨hr, hstored, hseq⟩ := hd
  refine ⟨_, hr, mapOf_follows h hc, hstored, hseq.trans ((put64_n64 hc.wf held_recon.2.2.2.2.2.2 _).trans ?_)⟩
  rw [Nat.mod_mod, hc.n64Out (by decide) (by decide)]

/-- RECON_PUBLISH before the deadline publishes the map of the frame in hand (R142, R166). -/
theorem reconPublish_publishes {s : State} {h : Hand} (hl : Live s) (hb : Canon s) (hhand : s.dev.u.reco.hand = some h) (hwait : s.dev.u.reco.waiting = none)
    (hslot : s.dev.u.reco.nextSlot < 16) (hearly : s.dev.u.elapsed < h.closedAt + s.framePeriod * 10000) (hclosed : s.dev.u.tomo.closed = none)
    (hpoison : h.poisoned = false) (hstop : h.stopped = false) : Does .reconPublish s fun t => ∃ mp, MapPublished h mp s.dev t.dev := by
  have hlate : s.late h = false := by
    rw [State.late, decide_eq_false (Nat.not_le.2 hearly), hwait, hclosed]
    rfl
  refine does_of_ends (m := opReconPublish) rfl hl (ends_then (gives_recS _) ?_)
  rw [hhand]
  refine ends_then (gives_deadlineCome s h) (ends_onlyIf_true (by rw [hlate, hpoison, hstop]; rfl) (ends_bind (ends_recPublish hb hhand hslot) fun r c hc => ?_))
  obtain ⟨mp, rfl, hpub⟩ := hc
  exact ends_mono (ends_of_keeps (keeps_ledgerMap mp) (within_refl hpub.stored.wf)) fun _ d hd =>
    ⟨mp, hpub.head, hpub.stored.kept hd, (LedgerFrame.n64 hd (by decide) (by decide)).trans hpub.mseq⟩

/-- Settles O13: a dispatch latches the settings and takes the frame, or skips it; a publication and a deadline end the frame in hand, and the
Ledger, which hears of each, changes nothing of the engine. -/
theorem reconstructionRuns : Obligations.ReconstructionRuns := by
  unfold Obligations.ReconstructionRuns
  refine ⟨?takes, ?stopped, ?modes, ?publishes, ?drops⟩
  case takes =>
    intro s fr m rf hl hb hwait hhand hreload hnext hrun hmatok hrefok hmat href hgeom hfreq hmiss hcore hmode
    refine does_mono (reconDispatch_takes hl hwait hhand hcore hb hreload hnext hrun hmatok hrefok hmat href hgeom hfreq hmiss hmode) fun t ht => ?_
    obtain ⟨l, halpha, hlambda, hmax, htaken⟩ := ht
    obtain ⟨h, hh, hframe, hlatch, hmode, hclosed, hat⟩ := htaken.hand
    rw [hh, Option.map_some, Option.map_some, hframe, hlatch, hmode, hclosed, hat, halpha, hlambda, hmax]
    exact ⟨rfl, rfl, htaken.waiting, htaken.busy, htaken.skips⟩
  case stopped =>
    intro s fr hl hb hwait hhand hrun hcore
    obtain ⟨may, hmay, -⟩ := gives_tomoAllowed s
    refine does_mono (reconDispatch_skips hl hwait hhand hcore hb hmay (.inl hrun)) fun t ht => ?_
    exact ⟨(congrArg RecS.hand ht.reco).trans hhand, congrArg RecS.waiting ht.reco, ht.skips, ht.skip, ht.busy⟩
  case modes =>
    intro s fr hl hb hwait hhand hmode hstay hcore
    refine does_mono (reconDispatch_skips hl hwait hhand hcore hb (gives_tomoAllowed_no hmode hstay) (.inr rfl)) fun t ht => ?_
    exact ⟨(congrArg RecS.hand ht.reco).trans hhand, congrArg RecS.waiting ht.reco, ht.skips, ht.busy⟩
  case publishes =>
    intro s h hl hb hhand hwait hslot hearly hclosed hpoison hstop
    refine does_mono (reconPublish_publishes hl hb hhand hwait hslot hearly hclosed hpoison hstop) fun t ht => ?_
    obtain ⟨mp, hhead, hd, hseq⟩ := ht
    refine ⟨hd.hand, hd.shown, hd.next, hd.pub, hd.busy, hseq, ?_, ?_⟩
    · rw [hd.last]
      exact congrArg some hhead
    · rw [hd.last, hd.ring]
      rfl
  case drops =>
    intro s h hl hb hhand hwait hdue hcore
    refine does_mono (reconDeadline_drops hl hb hhand hwait hdue hcore) fun t ht => ?_
    exact ⟨ht.hand, ht.count, ht.overrun, ht.busy, ht.last, ht.mseq⟩

end Sys2Proof.Machine
end

section
/-!
PROOF. Proofs/RefutedLedger.lean: the statement about the Ledger function fails, by one state on which the model's own answer contradicts a
clause.
-/
namespace Sys2Proof.Machine

/-! ### The Ledger function: no room for the acknowledgement -/

/-- The kind of a packet that left. -/
def outKind (o : Out) : Option Nat :=
  match o with
  | .packet x _ => some x.kind
  | _ => none

theorem kind_of_sent {s t : State} {op kind status : Nat} {h : Hdr} {payload : List Byte} (hs : Sent s t op h kind status payload) :
    some kind ∈ t.dev.u.out.map outKind := by
  obtain ⟨o, ho, hpacket⟩ := List.any_eq_true.mp hs
  refine List.mem_map.mpr ⟨o, List.mem_of_mem_drop ho, ?_⟩
  cases o with
  | packet x _ =>
    obtain ⟨-, -, hkind, -⟩ := of_decide_eq_true hpacket
    exact congrArg some hkind
  | _ => cases hpacket

/-- PARCEL_DUMP of one record of lane 3. -/
def oneParcelDump : List Byte := [1, 0, 0, 0] ++ leBytes 4 (128 * 1) ++ [BitVec.ofNat 8 3, 0, 0, 0] ++ leBytes 4 1

theorem oneParcelDump_meets : Ready acksWaitState 1 0x0609 (openHostHdr 3) oneParcelDump := by decide +kernel

/-- The one packet that leaves is the last of the data: kind 4 with its bit 5. -/
theorem oneParcelDump_sends : shownAfter (fun t => t.dev.u.out.map outKind) (.parcelDump (openHostHdr 3) oneParcelDump) acksWaitState = some [some 36] := by
  decide +kernel

/-- Refutes O37: with the 64 buffers of the ACK staging taken (R556) the module sends no ACK, and the clause of an accepted PARCEL_DUMP
wants one. -/
theorem not_ledgerCommands : ¬ Obligations.LedgerCommands := by
  intro h
  unfold Obligations.LedgerCommands at h
  obtain ⟨-, -, -, -, -, -, -, -, -, -, -, -, -, -, -, -, dump, -⟩ := h
  obtain ⟨t, ⟨⟨-, hsent, -⟩, -⟩, hkinds⟩ := does_shown
    (dump acksWaitState 1 (openHostHdr 3) oneParcelDump 3 1 oneParcelDump_meets rfl (by decide) (by decide) (by decide)) oneParcelDump_sends
  have hack := kind_of_sent hsent
  rw [hkinds] at hack
  exact absurd hack (by decide)

end Sys2Proof.Machine
end

section
/-!
PROOF. Proofs/RecordBytes.lean: what the fields of a record read after one of them was written, and a record as a field node's write leaves it
(R179, R181, R192, R194).
-/
namespace Sys2Proof.Machine

/-! ### Bytes written into a list -/

section
variable {l d : List Byte} {o p n : Nat}

theorem patch_length (h : o + d.length ≤ l.length) : (patch l o d).length = l.length := by
  rw [patch, List.length_append, List.length_append, List.length_take, List.length_drop]
  omega

theorem slice_patch_same (h : o + d.length ≤ l.length) : slice (patch l o d) o d.length = d := by
  rw [patch, List.append_assoc, slice_append _ _ o _ (List.length_take_of_le (by omega)), List.take_left]

theorem patch_getElem_apart {i : Nat} (h : o + d.length ≤ l.length) (hi : i < o ∨ o + d.length ≤ i) : (patch l o d)[i]? = l[i]? := by
  have hfront : (l.take o).length = o := List.length_take_of_le (by omega)
  rw [patch, List.append_assoc]
  rcases hi with hi | hi
  · rw [List.getElem?_append_left (by omega), List.getElem?_take_of_lt hi]
  · rw [List.getElem?_append_right (by omega), List.getElem?_append_right (by omega), List.getElem?_drop]
    congr 1
    omega

theorem slice_patch_apart (h : o + d.length ≤ l.length) (hp : p + n ≤ o ∨ o + d.length ≤ p) : slice (patch l o d) p n = slice l p n := by
  refine List.ext_getElem? fun i => ?_
  simp only [slice, List.getElem?_take, List.getElem?_drop]
  split
  · exact patch_getElem_apart h (by omega)
  · rfl

end

/-! ### Fields of a record -/

section
variable {f g : BF} {r : List Byte} (hf : f.o + f.n ≤ r.length)
include hf

theorem BF.put_length (v : Nat) : (f.put r v).length = r.length := patch_length (by rwa [leBytes_length])

theorem BF.of_put_same (v : Nat) : f.of (f.put r v) = v % 256 ^ f.n := by
  have hslice := slice_patch_same (l := r) (d := leBytes f.n v) (o := f.o) (by rwa [leBytes_length])
  rw [leBytes_length] at hslice
  rw [BF.of, BF.put, leAt, hslice, leNat_leBytes]

theorem BF.of_put_apart (hg : g.o + g.n ≤ f.o ∨ f.o + f.n ≤ g.o) (v : Nat) : g.of (f.put r v) = g.of r := by
  rw [BF.of, BF.of, BF.put, leAt, leAt, slice_patch_apart (by rwa [leBytes_length]) (by rwa [leBytes_length])]

end

/-! ### Records that a field node writes -/

/-- Lot record `r` as the write of a node leaves it (R192, R194): with the node, and WSEQ advanced. -/
def nodeLot (snode : Nat) (r : List Byte) : List Byte := lotTouch (Lf.snode.put r snode)

/-- Parcel record `r` as a node's sample leaves it (R192, R194): with the sample and the node, and WSEQ advanced. -/
def nodeParcel (v snode : Nat) (r : List Byte) : List Byte := parcelTouch (Pf.snode.put (Pf.sample.put r v) snode)

section
variable {r : List Byte} (hr : r.length = 256)
include hr

/-- The node's byte and WSEQ lie inside a lot record. -/
theorem nodeLot_room (snode : Nat) : Lf.snode.o + Lf.snode.n ≤ r.length ∧ Lf.wseq.o + Lf.wseq.n ≤ (Lf.snode.put r snode).length := by
  have hnode : Lf.snode.o + Lf.snode.n ≤ r.length := by rw [hr]; decide
  refine ⟨hnode, ?_⟩
  rw [BF.put_length hnode, hr]
  decide

theorem nodeLot_apart {g : BF} (hg : g.o + g.n ≤ 0x90 ∨ 0x98 ≤ g.o) (snode : Nat) : g.of (nodeLot snode r) = g.of r := by
  obtain ⟨hnode, hseq⟩ := nodeLot_room hr snode
  rw [nodeLot, lotTouch, BF.of_put_apart hseq (by simp only [Lf.wseq]; omega), BF.of_put_apart hnode (by simp only [Lf.snode]; omega)]

theorem nodeLot_snode {snode : Nat} (hs : snode < 256) : Lf.snode.of (nodeLot snode r) = snode := by
  obtain ⟨hnode, hseq⟩ := nodeLot_room hr snode
  rw [nodeLot, lotTouch, BF.of_put_apart hseq (by decide), BF.of_put_same hnode]
  exact Nat.mod_eq_of_lt hs

theorem nodeLot_wseq (snode : Nat) : Lf.wseq.of (nodeLot snode r) = (Lf.wseq.of r + 1) % 2 ^ 32 := by
  obtain ⟨hnode, hseq⟩ := nodeLot_room hr snode
  rw [nodeLot, lotTouch, BF.of_put_same hseq, BF.of_put_apart hnode (by decide)]
  rfl

end

/-! ### What each write leaves -/

theorem fitU_of_lt {k v : Nat} (h : v < 2 ^ k) : fitU k (v : Int) = v := by
  rw [fitU, if_pos ⟨Int.natCast_nonneg v, Int.ofNat_lt.mpr h⟩]
  rfl

/-- Lot record `r` with a sample more in its mean and count (R194). -/
def lotSampled (v : Nat) (r : List Byte) : List Byte :=
  Lf.scount.put (Lf.smean.put r (fitU 16 (runningMean (Lf.smean.of r) (Lf.scount.of r) (v % 65536 : Nat)))) (satAdd 0xFFFF (Lf.scount.of r) 1)

section
variable {r : List Byte} (hr : r.length = 256) {snode : Nat} (hs : snode < 256) {v : Nat}
include hr hs

theorem wordWritten_fields {fi : Nat} (hfi : fi < 26) (hv : v < 2 ^ 32) (x : List Byte) (hx : x = nodeLot snode ((BF.mk (0x98 + 4 * fi) 4).put r v)) :
    leAt x (0x98 + 4 * fi) 4 = v ∧ Lf.snode.of x = snode ∧ Lf.wseq.of x = (Lf.wseq.of r + 1) % 2 ^ 32 := by
  subst hx
  have hroom : (BF.mk (0x98 + 4 * fi) 4).o + (BF.mk (0x98 + 4 * fi) 4).n ≤ r.length := by simp only; omega
  have hlen := (BF.put_length hroom v).trans hr
  refine ⟨?_, nodeLot_snode hlen hs, ?_⟩
  · exact (nodeLot_apart hlen (g := BF.mk (0x98 + 4 * fi) 4) (.inr (Nat.le_add_right _ _)) snode).trans ((BF.of_put_same hroom v).trans (Nat.mod_eq_of_lt hv))
  · rw [nodeLot_wseq hlen, BF.of_put_apart hroom (.inl (by simp only [Lf.wseq]; omega))]

theorem massAdded_fields (hv : Lf.massin.of r + v < 2 ^ 32) (x : List Byte) (hx : x = nodeLot snode (Lf.massin.put r (fitU 32 ((Lf.massin.of r : Int) + v)))) :
    Lf.massin.of x = Lf.massin.of r + v ∧ Lf.massout.of x = Lf.massout.of r ∧ Lf.snode.of x = snode := by
  subst hx
  have hroom : Lf.massin.o + Lf.massin.n ≤ r.length := by rw [hr]; decide
  have hlen := (BF.put_length hroom (fitU 32 ((Lf.massin.of r : Int) + v))).trans hr
  rw [nodeLot_apart hlen (.inl (by decide)), nodeLot_apart hlen (.inl (by decide)), nodeLot_snode hlen hs, BF.of_put_same hroom,
    BF.of_put_apart hroom (by decide), ← Nat.cast_add, fitU_of_lt hv]
  exact ⟨Nat.mod_eq_of_lt hv, rfl, rfl⟩

theorem lotSampled_fields (x : List Byte) (hx : x = nodeLot snode (lotSampled v r)) :
    Lf.scount.of x = min 0xFFFF (Lf.scount.of r + 1) ∧ Lf.massin.of x = Lf.massin.of r ∧ Lf.snode.of x = snode := by
  subst hx
  have hmean : Lf.smean.o + Lf.smean.n ≤ r.length := by rw [hr]; decide
  have hcount (w : Nat) : Lf.scount.o + Lf.scount.n ≤ (Lf.smean.put r w).length := by rw [BF.put_length hmean, hr]; decide
  have hlen : (lotSampled v r).length = 256 := by rw [lotSampled, BF.put_length (hcount _), BF.put_length hmean, hr]
  rw [nodeLot_apart hlen (.inl (by decide)), nodeLot_apart hlen (.inl (by decide)), nodeLot_snode hlen hs, lotSampled, BF.of_put_same (hcount _),
    BF.of_put_apart (g := Lf.massin) (hcount _) (by decide), BF.of_put_apart (g := Lf.massin) hmean (by decide)]
  exact ⟨Nat.mod_eq_of_lt (Nat.lt_of_le_of_lt (Nat.min_le_left _ _) (by decide)), rfl, rfl⟩

end

/-- The parcel's PID stays, its SAMPLE is the value's low half, and its SNODE the node. -/
theorem nodeParcel_fields {r : List Byte} (hr : r.length = 128) (v : Nat) {snode : Nat} (hs : snode < 256) :
    Pf.pid.of (nodeParcel v snode r) = Pf.pid.of r ∧ Pf.sample.of (nodeParcel v snode r) = v % 65536 ∧ Pf.snode.of (nodeParcel v snode r) = snode := by
  have hsample : Pf.sample.o + Pf.sample.n ≤ r.length := by rw [hr]; decide
  have hnode : Pf.snode.o + Pf.snode.n ≤ (Pf.sample.put r v).length := by rw [BF.put_length hsample, hr]; decide
  have hseq : Pf.wseq.o + Pf.wseq.n ≤ (Pf.snode.put (Pf.sample.put r v) snode).length := by rw [BF.put_length hnode, BF.put_length hsample, hr]; decide
  rw [nodeParcel, parcelTouch, BF.of_put_apart (g := Pf.pid) hseq (by decide), BF.of_put_apart (g := Pf.sample) hseq (by decide),
    BF.of_put_apart (g := Pf.snode) hseq (by decide), BF.of_put_apart (g := Pf.pid) hnode (by decide), BF.of_put_apart (g := Pf.sample) hnode (by decide),
    BF.of_put_apart (g := Pf.pid) hsample (by decide), BF.of_put_same hsample, BF.of_put_same hnode]
  exact ⟨rfl, rfl, Nat.mod_eq_of_lt hs⟩

end Sys2Proof.Machine
end

section
/-!
PROOF. Proofs/LedgerRequests.lean: the six operations of a field node on the Ledger's tables (R189, R190, R193, R194), where the record is free:
what each answers, and what it leaves of the tables.
-/
namespace Sys2Proof.Machine

/-- The lot records with `f` done to record `i`. -/
def lotsWith (i : Nat) (f : List Byte → List Byte) (l : List (Nat × List Byte)) : List (Nat × List Byte) :=
  l.map fun x => if x.1 = i then (x.1, f x.2) else x

theorem lotsWith_find (i : Nat) (f : List Byte → List Byte) (l : List (Nat × List Byte)) :
    ((lotsWith i f l).find? fun x => x.1 = i).map (·.2) = ((l.find? fun x => x.1 = i).map (·.2)).map f := by
  induction l with
  | nil => rfl
  | cons x l ih =>
    by_cases h : x.1 = i
    · simp [lotsWith, h]
    · simpa [lotsWith, h] using ih

/-- The parcel records with `r` in place of those of PID `pid`. -/
def parcelsWith (pid : Nat) (r : List Byte) (l : List (List Byte)) : List (List Byte) :=
  l.map fun x => if Pf.pid.of x == pid then r else x

theorem parcelsWith_pids {pid : Nat} {r : List Byte} (hr : Pf.pid.of r = pid) (l : List (List Byte)) :
    (parcelsWith pid r l).map Pf.pid.of = l.map Pf.pid.of := by
  rw [parcelsWith, List.map_map]
  refine List.map_congr_left fun x _ => ?_
  by_cases h : Pf.pid.of x = pid
  · simp [h, hr]
  · simp [h]

theorem eq_of_mem_parcelsWith {pid : Nat} {r : List Byte} {l : List (List Byte)} {x : List Byte} (hx : x ∈ parcelsWith pid r l) (hpid : Pf.pid.of x = pid) :
    x = r := by
  obtain ⟨y, -, rfl⟩ := List.mem_map.mp hx
  by_cases h : Pf.pid.of y = pid
  · simp [h]
  · simp [h] at hpid

/-- From `b` to `c` no register and no bus changed, and the tables became `lots` and `parcels`. -/
structure LedgerLeft (lots : List (Nat × List Byte)) (parcels : List (List Byte)) (b c : Block) : Prop where
  regs : c.regs = b.regs
  fld : c.u.fld = b.u.fld
  lots : c.u.pcl.lots = lots
  parcels : c.u.pcl.parcels = parcels

section
variable {b : Block} {bus idx fi v snode : Nat}

/-! ### A record's lock -/

theorem fieldHeld_none {u : Units} {parcel : Bool} {key : Nat} (h : recordBusy u parcel key = false) : fieldHeld u parcel key = none := by
  simp only [recordBusy, recordHeld, Bool.or_eq_false_iff] at h
  obtain ⟨⟨-, hfield⟩, -⟩ := h
  exact Option.isNone_iff_eq_none.mp (Option.isSome_eq_false_iff.mp hfield)

theorem gives_fieldMay {parcel : Bool} {key : Nat} (h : recordBusy b.u parcel key = false) : Gives (fieldMay bus parcel key) b true b := by
  refine gives_bind (gives_units b) ?_
  rw [fieldHeld_none h]
  exact gives_bind (gives_units b) (gives_pure_eq (congrArg (!·) h) b)

theorem ends_fieldTake (parcel : Bool) (key : Nat) (before after : List Byte) : Ends (fieldTake snode parcel key before after) b fun _ c =>
    LedgerLeft b.u.pcl.lots b.u.pcl.parcels b c :=
  ends_of_gives (gives_bind (gives_units b) (gives_bind (gives_free b) (gives_modPcl _ _))) ⟨rfl, rfl, rfl, rfl⟩

theorem gives_lotAt (i : Nat) (b : Block) : Gives (lotAt i) b ((b.u.pcl.lots.find? fun x => x.1 = i).map (·.2)) b := fun _ => rfl

/-! ### Operations on a lot -/

/-- A write to an open lot. -/
theorem ends_fieldLot {r : List Byte} {f : List Byte → List Byte} (hfree : recordBusy b.u false idx = false)
    (hlot : (b.u.pcl.lots.find? fun x => x.1 = idx).map (·.2) = some r) (hopen : Lf.state.of r = 1) :
    Ends (fieldLot idx v snode f) b fun a c =>
      a = (Fs.done, v) ∧ LedgerLeft (lotsWith idx (fun _ => nodeLot snode (f r)) b.u.pcl.lots) b.u.pcl.parcels b c := by
  refine ends_then (gives_fieldMay hfree) (ends_then (gives_lotAt idx b) ?_)
  rw [hlot]
  refine ends_ite_neg (by decide) (ends_ite_pos hopen (ends_bind (ends_fieldTake false idx r _) fun _ c hc => ?_))
  refine ends_then (gives_modPcl c _) (ends_of_gives (gives_pure _ _) ⟨rfl, hc.regs, hc.fld, ?_, hc.parcels⟩)
  exact congrArg (lotsWith idx fun _ => nodeLot snode (f r)) hc.lots

section
variable {node pid : Nat} {r : List Byte} (hfree : recordBusy b.u false idx = false) (hlot : (b.u.pcl.lots.find? fun x => x.1 = idx).map (·.2) = some r)
  (hidx : idx < 4096)
include hfree hlot hidx

/-- READ: a word of the lot. -/
theorem ends_readWord (hfi : fi < 64) : Ends (fieldOp bus 1 node idx pid fi v) b fun a c =>
    a = (Fs.done, leAt r (4 * fi) 4) ∧ LedgerLeft b.u.pcl.lots b.u.pcl.parcels b c := by
  refine ends_then (gives_units b) (ends_ite_pos rfl (ends_ite_neg (by omega) (ends_then (gives_fieldMay hfree) (ends_then (gives_lotAt idx b) ?_))))
  rw [hlot]
  exact ends_ite_neg (by decide) (ends_bind (ends_fieldTake false idx r r) fun _ c hc => ends_of_gives (gives_pure _ c) ⟨rfl, hc⟩)

variable (hopen : Lf.state.of r = 1)
include hopen

/-- WRITE: a user word of an open lot. -/
theorem ends_writeWord (hfi : fi < 26) : Ends (fieldOp bus 2 node idx pid fi v) b fun a c => a = (Fs.done, v) ∧
    LedgerLeft (lotsWith idx (fun _ => nodeLot (bus * 64 + node % 64) ((BF.mk (0x98 + 4 * fi) 4).put r v)) b.u.pcl.lots) b.u.pcl.parcels b c :=
  ends_then (gives_units b) (ends_ite_neg (by decide) (ends_ite_pos rfl (ends_ite_neg (by omega) (ends_fieldLot hfree hlot hopen))))

/-- ADD MASS: the mass into an open lot. -/
theorem ends_addMass : Ends (fieldOp bus 3 node idx pid 0 v) b fun a c => a = (Fs.done, v) ∧
    LedgerLeft (lotsWith idx (fun _ => nodeLot (bus * 64 + node % 64) (Lf.massin.put r (fitU 32 ((Lf.massin.of r : Int) + v)))) b.u.pcl.lots)
      b.u.pcl.parcels b c :=
  ends_then (gives_units b) (ends_ite_neg (by decide) (ends_ite_neg (by decide) (ends_ite_pos rfl (ends_ite_neg (by omega) (ends_fieldLot hfree hlot hopen)))))

/-- ADD SAMPLE: a sample of an open lot. -/
theorem ends_addSample : Ends (fieldOp bus 4 node idx pid 0 v) b fun a c => a = (Fs.done, v) ∧
    LedgerLeft (lotsWith idx (fun _ => nodeLot (bus * 64 + node % 64) (lotSampled v r)) b.u.pcl.lots) b.u.pcl.parcels b c :=
  ends_then (gives_units b) (ends_ite_neg (by decide) (ends_ite_neg (by decide) (ends_ite_neg (by decide) (ends_ite_pos rfl (ends_ite_neg (by omega)
    (ends_fieldLot (f := lotSampled v) hfree hlot hopen))))))

end

/-! ### Operations on a parcel -/

theorem gives_factorOf (n : Nat) (b : Block) : Gives (factorOf n) b (b.fld (F.ENC_CALI_CALI n) * 65536 + b.fld (F.ENC_CALF_CALF n)) b := fun _ => rfl

theorem gives_laneLen (n : Nat) (b : Block) : Gives (laneLen n) b ((b.fld (F.PCL_LLEN_LLEN n) : Int) * 1000 * 65536) b := fun _ => rfl

/-- The first record of a PID that is in the table. -/
theorem recordNow_of_mem {u : Units} {r : List Byte} (hr : r ∈ u.pcl.parcels) :
    ∃ q ∈ u.pcl.parcels, recordNow u true (Pf.pid.of r) = some q ∧ Pf.pid.of q = Pf.pid.of r := by
  cases hq : u.pcl.parcels.find? fun x => Pf.pid.of x == Pf.pid.of r with
  | none => exact absurd (List.find?_eq_none.mp hq r hr) (by simp)
  | some q => exact ⟨q, List.mem_of_find?_eq_some hq, hq, by simpa using List.find?_some hq⟩

section
variable {node pid : Nat} {r q : List Byte} (hfree : recordBusy b.u true (Pf.pid.of r) = false) (hnow : recordNow b.u true (Pf.pid.of r) = some q)
include hfree hnow

/-- A sample of the parcel of a PID. -/
theorem ends_fieldSample : Ends (fieldSample r v snode) b fun a c =>
    a = (Fs.done, v) ∧ LedgerLeft b.u.pcl.lots (parcelsWith (Pf.pid.of q) (nodeParcel v snode q) b.u.pcl.parcels) b c := by
  refine ends_then (gives_fieldMay hfree) (ends_then (gives_units b) (ends_ite_neg (by decide) ?_))
  rw [hnow]
  refine ends_bind (ends_fieldTake true _ q (nodeParcel v snode q)) fun _ c hc => ends_then (gives_modPcl c _) (ends_of_gives (gives_pure _ _)
    ⟨rfl, hc.regs, hc.fld, hc.lots, ?_⟩)
  exact congrArg (parcelsWith (Pf.pid.of q) (nodeParcel v snode q)) hc.parcels

/-- SET SAMPLE of the parcel at the discharge of a lane. -/
theorem ends_setSampleLane (hidx : idx < 16)
    (hat : atDischarge (b.u.pcl.parcels.filter fun x => Pf.state.of x == 2) idx (b.s48 (R.ENC_LEADL idx) (R.ENC_LEADH idx))
      (b.fld (F.ENC_CALI_CALI idx) * 65536 + b.fld (F.ENC_CALF_CALF idx)) ((b.fld (F.PCL_LLEN_LLEN idx) : Int) * 1000 * 65536) = some r) :
    Ends (fieldOp bus 5 node idx pid 0 v) b fun a c => a = (Fs.done, v) ∧
      LedgerLeft b.u.pcl.lots (parcelsWith (Pf.pid.of q) (nodeParcel v (bus * 64 + node % 64) q) b.u.pcl.parcels) b c := by
  refine ends_then (gives_units b) (ends_ite_neg (by decide) (ends_ite_neg (by decide) (ends_ite_neg (by decide) (ends_ite_neg (by decide) (ends_ite_pos rfl
    (ends_ite_neg (by omega) ?_))))))
  refine ends_then (gives_leadOf idx b) (ends_then (gives_factorOf idx b) (ends_then (gives_laneLen idx b) ?_))
  rw [hat]
  exact ends_fieldSample hfree hnow

/-- SET SAMPLE of a filling or live parcel by its PID. -/
theorem ends_setSamplePid (hfind : parcelAt b.u pid = some r) : Ends (fieldOp bus 6 node idx pid 0 v) b fun a c => a = (Fs.done, v) ∧
    LedgerLeft b.u.pcl.lots (parcelsWith (Pf.pid.of q) (nodeParcel v (bus * 64 + node % 64) q) b.u.pcl.parcels) b c := by
  refine ends_then (gives_units b) (ends_ite_neg (by decide) (ends_ite_neg (by decide) (ends_ite_neg (by decide) (ends_ite_neg (by decide)
    (ends_ite_neg (by decide) (ends_ite_pos rfl (ends_ite_neg (by decide) ?_)))))))
  rw [show (b.u.pcl.parcels.find? fun x => parcelActive x && Pf.pid.of x == pid) = some r from hfind]
  exact ends_fieldSample hfree hnow

end

end

end Sys2Proof.Machine
end

section
/-!
PROOF. Proofs/FieldRequests.lean: a field bus takes a Ledger request (R490, R494, R497, R498, R558, R567): what its reception shows, the buffer
that its response keeps, and the response that waits; and the statement about the six operations.
-/
namespace Sys2Proof.Machine

/-! ### What a reception changes -/

/-- The registers that a reception changes before it is counted: the error counters and states of bus `n`. -/
abbrev receiveBits (n a _j : Nat) : Prop := a ∈ [R.FLD_STAT, R.FLD_BSTAT n, R.FLD_BECNT n]

/-- The registers of the pools. -/
abbrev poolBits (a _j : Nat) : Prop := window a = 0x11

/-- What a reception keeps of the units' data up to the request's answer. -/
def requestKeep (u : Units) : PclS × FldS × Nat := (u.pcl, u.fld, u.elapsed)

theorem requestKeep_parts {u v : Units} (h : requestKeep u = requestKeep v) : u.pcl = v.pcl ∧ u.fld = v.fld ∧ u.elapsed = v.elapsed := by
  simpa only [requestKeep, Prod.mk.injEq] using h

section
variable {S : Prop} {b0 : Block} {β : Type} {keep : Units → β} {n : Nat}

theorem keeps_busSettle (hn : n < 4) {tec : Nat} (htec : tec ≤ 255) (r : Nat) : Keeps S (Within (receiveBits n) keep b0) (busSettle n tec r) := by
  have hstate (v : Nat) : Keeps S (Within (receiveBits n) keep b0) (sf (F.FLD_BSTAT_STATE n) v) :=
    within_sf (show 14 ≤ 15 by decide) (show 15 < 32 by decide) fun _ _ _ => by simp [F.FLD_BSTAT_STATE]
  refine keeps_bind (keeps_gf _) fun st => keeps_bind (within_sf (show 16 ≤ 24 by decide) (show 24 < 32 by decide) fun _ _ _ => by simp [F.FLD_BECNT_TEC])
    fun _ => keeps_bind (within_sf (Nat.zero_le 7) (show 7 < 32 by decide) fun _ _ _ => by simp [F.FLD_BECNT_REC]) fun _ => ?_
  refine keeps_ite (fun _ => keeps_pure ()) fun _ => keeps_ite (fun h => absurd h (by omega)) fun _ => keeps_ite (fun _ => ?_) fun _ => hstate busActive
  exact keeps_bind (hstate busPassive) fun _ => keeps_onlyIf fun _ => within_sb (Nat.le_refl _) (show 8 + n < 32 by omega) fun _ _ _ => by simp

theorem keeps_recAfter (hk : ∀ u : Units, keep { u with free := u.free + 1 } = keep u) (r : Nat) :
    Keeps S (Within (receiveBits n) keep b0) (recAfter r) :=
  keeps_ite (fun _ => keeps_bind (keeps_free hk) fun _ => keeps_pure _) fun _ => keeps_pure _

/-- A store in a field of the pools. -/
theorem keeps_poolField {f : RF} {v : Nat} (hlo : f.lo ≤ f.hi) (hhi : f.hi < 32) (hf : window f.reg = 0x11) :
    Keeps S (Within poolBits keep b0) (sf f v) := within_sf hlo hhi fun _ _ _ => hf

theorem poolUse_window {c : Nat} (hc : c < 5) : window (R.POOL_USE c) = 0x11 ∧ window (R.POOL_TUSE c) = 0x11 := by
  simp only [window, R.POOL_USE, R.POOL_TUSE]
  omega

theorem keeps_poolUse (c : Nat) : Keeps S (Within poolBits keep b0) (poolUse c) := by
  refine keeps_bind keeps_units fun u => keeps_bind (keeps_gf _) fun peak => keeps_onlyIf fun hc => ?_
  obtain ⟨huse, htuse⟩ := poolUse_window (of_decide_eq_true hc)
  exact keeps_bind (keeps_poolField (Nat.zero_le 15) (show 15 < 32 by decide) huse) fun _ =>
    keeps_bind (keeps_poolField (show 16 ≤ 31 by decide) (show 31 < 32 by decide) huse) fun _ =>
      keeps_poolField (Nat.zero_le 7) (show 7 < 32 by decide) htuse

theorem keeps_poolFlag {i : Nat} (hi : i < 32) (v : Bool) : Keeps S (Within poolBits keep b0) (sbit R.POOL_QSTAT i v) :=
  keeps_poolField (Nat.le_refl i) hi (show window R.POOL_QSTAT = 0x11 by decide)

/-- POOL_QSTAT follows the queues of the buses (R567). -/
theorem keeps_busLevelShow : Keeps S (Within poolBits keep b0) busLevelShow :=
  keeps_bind keeps_block fun _ => keeps_bind (keeps_gbit _ _) fun _ => keeps_onlyIf fun _ => keeps_bind
    (keeps_onlyIf fun _ => keeps_bind (keeps_poolFlag (by decide) true) fun _ => keeps_bind (keeps_poolFlag (by decide) true) fun _ =>
      keeps_poolField (by decide) (by decide) (by decide))
    fun _ => keeps_onlyIf fun _ => keeps_poolFlag (by decide) false

end

/-- Where the buses' own pool has a buffer free, the request takes it (R558). -/
theorem ends_requestBuffer {b : Block} (hb : b.regs.wf = true) (hpriv : privHolds b.u Client.fieldBus 1 = true) :
    Ends (poolTake Client.fieldBus 1) b fun x c => x = some ⟨Client.fieldBus, 0, 1⟩ ∧ Within poolBits requestKeep b c := by
  refine ends_then (gives_units b) (ends_then (gives_units b) (ends_ite_pos hpriv ?_))
  exact ends_keeps (within_modU fun _ => rfl) (within_refl hb) fun _ c hc => ends_keeps (keeps_poolUse Client.fieldBus) hc fun _ e he =>
    ends_of_gives (gives_pure _ e) ⟨rfl, he⟩

theorem gives_busGap (n : Nat) (b : Block) : Gives (busGap n) b (b.u.net.links.getD (n + 1) {}).gap b := fun _ => rfl

/-! ### The response -/

/-- The response of R193 to the request with bytes `d` of `node`, done with VALUE `w`, and its reply window on bus `n` (R498). -/
def Block.response (b : Block) (n node w : Nat) (d : List Byte) : Reply :=
  ⟨node, ⟨false, true, false, true, false, b.fld (F.FLD_LEDG_BASE n) * 128 + 64 + node, 10, d.take 10 ++ leBytes 4 w ++ leBytes 1 Fs.done ++ zeros 1⟩,
    b.u.elapsed + max 1 (b.fld F.FLD_LRWIN_WIN) * 10000, some ⟨Client.fieldBus, 0, 1⟩⟩

/-- The bus with one response more. -/
def FldBus.replied (x : Reply) (c : FldBus) : FldBus := { c with replies := c.replies ++ [x] }

/-- The Ledger's answer has the request's first ten bytes, the VALUE and the status (R193). -/
theorem ends_fieldRequest {b : Block} {n : Nat} {d : List Byte} (hd : d.length = 16) {status w : Nat} {lots : List (Nat × List Byte)} {parcels : List (List Byte)}
    (hop : Ends (fieldOp n (leAt d 0 1) (leAt d 1 1) (leAt d 2 2) (leAt d 4 4) (leAt d 8 1) (leAt d 10 4)) b fun a c =>
      a = (status, w) ∧ LedgerLeft lots parcels b c) :
    Ends (fieldRequest n d) b fun x c => x = d.take 10 ++ leBytes 4 w ++ leBytes 1 status ++ zeros 1 ∧ LedgerLeft lots parcels b c := by
  have hten : padTo 10 (d.take 10) = d.take 10 := by simp [padTo, hd, zeros]
  refine ends_bind hop fun a c ⟨ha, hc⟩ => ends_then (gives_modPcl c _) (ends_of_gives (gives_pure _ _) ⟨?_, hc.regs, hc.fld, hc.lots, hc.parcels⟩)
  rw [hten, ha]

/-- What a bus that takes a request leaves: registers outside the pools as they were, the response with its window, and the tables. -/
structure RequestTaken (n node w : Nat) (d : List Byte) (lots : List (Nat × List Byte)) (parcels : List (List Byte)) (b c : Block) : Prop where
  regs : ∀ a, window a ≠ 0x11 → c.regs.get a = b.regs.get a
  buses : c.u.fld.buses = updAt b.u.fld.buses n (FldBus.replied (b.response n node w d))
  lots : c.u.pcl.lots = lots
  parcels : c.u.pcl.parcels = parcels

theorem ends_busRequest {b : Block} (hb : b.regs.wf = true) {n node w : Nat} {d : List Byte} (hn : n < 4) (hd : d.length = 16) (hnode : leAt d 1 1 = node)
    (hwaits : replyWaits (b.u.fld.buses.getD n {}) node = false) (hpriv : privHolds b.u Client.fieldBus 1 = true)
    {lots : List (Nat × List Byte)} {parcels : List (List Byte)}
    (hop : ∀ c, Within poolBits requestKeep b c →
      Ends (fieldOp n (leAt d 0 1) (leAt d 1 1) (leAt d 2 2) (leAt d 4 4) (leAt d 8 1) (leAt d 10 4)) c fun a e =>
        a = (Fs.done, w) ∧ LedgerLeft lots parcels c e) :
    Ends (busRequest (poolTake Client.fieldBus 1) n node d) b fun _ c => RequestTaken n node w d lots parcels b c := by
  refine ends_then (gives_getBus b n) ?_
  rw [hwaits]
  refine ends_bind (ends_ite_neg (by decide) (ends_requestBuffer hb hpriv)) fun buf c ⟨hbuf, hc⟩ => ?_
  subst hbuf
  have hbase : c.fld (F.FLD_LEDG_BASE n) = b.fld (F.FLD_LEDG_BASE n) := hc.fld _ fun _ _ _ => by
    simp only [poolBits, window, F.FLD_LEDG_BASE, R.FLD_LEDG]
    omega
  have hwin : c.fld F.FLD_LRWIN_WIN = b.fld F.FLD_LRWIN_WIN := hc.fld _ fun _ _ _ => show ¬ window R.FLD_LRWIN = 0x11 by decide
  obtain ⟨-, hfld, helapsed⟩ := requestKeep_parts hc.units
  refine ends_ite_neg (by decide) (ends_then (gives_now c) (ends_then (gives_gf _ c) (ends_then (gives_gf _ c) ?_)))
  refine ends_ite_pos hnode (ends_bind (ends_fieldRequest hd (hop c hc)) fun resp e ⟨hresp, he⟩ => ends_then (gives_modBus e _ _) ?_)
  subst hresp
  refine ends_mono (ends_of_keeps (R := Within poolBits (fun u => (u.fld, u.pcl)) _) keeps_busLevelShow (within_refl ?_)) fun _ g hg => ?_
  · show e.regs.wf = true
    rw [he.regs]
    exact hc.wf
  · obtain ⟨hgfld, hgpcl⟩ := Prod.mk.inj hg.units
    refine ⟨fun a ha => ?_, ?_, ?_, ?_⟩
    · rw [hg.reg fun _ => ha, withU_regs, he.regs, hc.reg fun _ => ha]
    · rw [hgfld]
      show updAt e.u.fld.buses n _ = _
      rw [he.fld, hfld, Block.response, ← hbase, ← hwin, ← helapsed]
      rfl
    · rw [hgpcl]
      exact he.lots
    · rw [hgpcl]
      exact he.parcels

/-! ### A request taken -/

/-- Registers of bus `n` that its reception leaves. -/
theorem receive_apart : ∀ n < 4, ∀ a ∈ [R.FLD_LEDG n, R.FLD_LRWIN], a ∉ [R.FLD_STAT, R.FLD_BSTAT n, R.FLD_BECNT n] ∧ a ≠ R.FLD_RXCNT n := by decide

/-- Registers that a reception on bus `n` changes, and the window they stand in. -/
theorem receive_window : ∀ n < 4, window (R.FLD_RXCNT n) = 6 ∧ (∀ a ∈ [R.FLD_STAT, R.FLD_BSTAT n, R.FLD_BECNT n], window a = 6 ∧ a ≠ R.FLD_RXCNT n) ∧
    (F.FLD_RXCNT_CNT n).Held := by decide

/-- A reception on bus `n` that is counted (R494): from `b` to `c` the counters and states of the bus follow it. -/
structure Received (n : Nat) (b c : Block) : Prop where
  wf : c.regs.wf = true
  count : c.fld (F.FLD_RXCNT_CNT n) = (b.fld (F.FLD_RXCNT_CNT n) + 1) % 2 ^ 32
  regs : ∀ a, a ∉ [R.FLD_STAT, R.FLD_BSTAT n, R.FLD_BECNT n] → a ≠ R.FLD_RXCNT n → c.regs.get a = b.regs.get a
  units : requestKeep c.u = requestKeep b.u
  pool : c.u.pool = b.u.pool

theorem received_count {n : Nat} (hn : n < 4) {b c : Block} (h : Within (receiveBits n) (fun u => (requestKeep u, u.pool)) b c) :
    Received n b (c.setField (F.FLD_RXCNT_CNT n) (c.fld (F.FLD_RXCNT_CNT n) + 1)) := by
  obtain ⟨-, hapart, hheld⟩ := receive_window n hn
  have hsame : c.fld (F.FLD_RXCNT_CNT n) = b.fld (F.FLD_RXCNT_CNT n) := h.fld _ fun _ _ _ ha => (hapart _ ha).2 rfl
  obtain ⟨hunits, hpool⟩ := Prod.mk.inj h.units
  refine ⟨setField_wf h.wf _ _, ?_, fun a ha hcnt => (setField_get_ne c _ _ hcnt).trans (h.reg fun _ => ha), hunits, hpool⟩
  rw [fld_setField h.wf hheld, hsame]
  rfl

/-- What a reception brings before the Ledger: its tables, the time and every register outside the windows of the buses and the pools. -/
structure Asked (b c : Block) : Prop where
  pcl : c.u.pcl = b.u.pcl
  elapsed : c.u.elapsed = b.u.elapsed
  regs : ∀ a, window a ∉ [5, 6, 0x11] → c.regs.get a = b.regs.get a

theorem Asked.fld {b c : Block} (h : Asked b c) {f : RF} (hf : window f.reg ∉ [5, 6, 0x11]) : c.fld f = b.fld f := congrArg f.of (h.regs _ hf)

theorem Received.outside {n : Nat} (hn : n < 4) {b c : Block} (h : Received n b c) {a : Nat} (ha : window a ∉ [5, 6, 0x11]) : c.regs.get a = b.regs.get a := by
  obtain ⟨hcnt, hbus, -⟩ := receive_window n hn
  have hsix : window a ≠ 6 := fun e => ha (by rw [e]; decide)
  exact h.regs a (fun hm => hsix (hbus a hm).1) fun e => hsix (e ▸ hcnt)

section
variable {s : State} {c : Instr} {op n node w : Nat} {d : List Byte} {lots : List (Nat × List Byte)} {parcels : List (List Byte)}

/-- The response waits on its bus (R498). -/
theorem responds_of_taken (hn : n < 4) (hbuses : s.dev.u.fld.buses.length = 4) {b e : Block} (hb : Received n s.dev b)
    (he : RequestTaken n node w d lots parcels b e) : Responds s { s with dev := e } n node d Fs.done w := by
  have hbase : b.fld (F.FLD_LEDG_BASE n) = s.fld (F.FLD_LEDG_BASE n) := by
    obtain ⟨hlist, hcnt⟩ := receive_apart n hn (R.FLD_LEDG n) (by simp)
    exact congrArg _ (hb.regs _ hlist hcnt)
  have hwin : b.fld F.FLD_LRWIN_WIN = s.fld F.FLD_LRWIN_WIN := by
    obtain ⟨hlist, hcnt⟩ := receive_apart n hn R.FLD_LRWIN (by simp)
    exact congrArg _ (hb.regs _ hlist hcnt)
  obtain ⟨-, hfld, helapsed⟩ := requestKeep_parts hb.units
  have hbus : e.u.fld.buses.getD n {} = FldBus.replied (b.response n node w d) (s.dev.u.fld.buses.getD n {}) := by
    rw [he.buses, hfld]
    exact updAt_getD_same _ _ _ _ (by omega)
  rw [Block.response, hbase, hwin, helapsed] at hbus
  unfold Responds State.bus
  rw [hbus]
  simp [FldBus.replied]

variable (hheard : RequestHeard s n op node d) (hop : ∀ b, Asked s.dev b →
  Ends (fieldOp n op node (leAt d 2 2) (leAt d 4 4) (leAt d 8 1) (leAt d 10 4)) b fun a e => a = (Fs.done, w) ∧ LedgerLeft lots parcels b e)
include hheard hop

/-- The request of a counted reception is taken. -/
theorem ends_requestReceived {b : Block} (hb : Received n s.dev b) :
    Ends (busRequest (poolTake Client.fieldBus 1) n node d) b fun _ e => RequestTaken n node w d lots parcels b e := by
  obtain ⟨-, hn, -, -, -, hd, hopcode, hnode, -, hpriv, hwaits, -⟩ := hheard
  obtain ⟨-, hfld, -⟩ := requestKeep_parts hb.units
  refine ends_busRequest hb.wf hn hd hnode (by rw [hfld]; exact hwaits) (by rw [privHolds, hb.pool]; exact hpriv) fun c hc => ?_
  obtain ⟨hpcl, -, helapsed⟩ := requestKeep_parts (hc.units.trans hb.units)
  rw [hopcode, hnode]
  refine hop c ⟨hpcl, helapsed, fun a ha => (hc.reg fun _ hw => ha ?_).trans (hb.outside hn ha)⟩
  rw [show window a = 0x11 from hw]
  decide

/-- A request that its bus hears is counted, served by the Ledger and answered with status and VALUE (R193, R497, R498). -/
theorem does_fieldRequest (hexec : exec c s = onLive (opFieldRequest op n node d) s) (hl : Live s) (hb : Canon s)
    (hbuses : s.dev.u.fld.buses.length = 4) (htec : s.fld (F.FLD_BECNT_TEC n) ≤ 255) :
    Does c s fun t => t.fld (F.FLD_RXCNT_CNT n) = (s.fld (F.FLD_RXCNT_CNT n) + 1) % 2 ^ 32 ∧ RegsKept [5, 6, 0x11] s t ∧ Responds s t n node d Fs.done w ∧
      t.dev.u.pcl.lots = lots ∧ t.dev.u.pcl.parcels = parcels := by
  have htaken := fun b => ends_requestReceived (b := b) hheard hop
  obtain ⟨hen, hn, hstate, hfirst, hlast, hd, hopcode, -, hgap, -⟩ := hheard
  refine does_of_ends hexec hl (ends_onlyIf_true (decide_eq_true hopcode) (ends_then (gives_bf_set hen) (ends_then (gives_gf _ _)
    (ends_onlyIf_true (by simp [hfirst, hlast, hd]) ?_))))
  refine ends_then (gives_gf _ _) (ends_then (gives_gf _ _) (ends_then (gives_gf _ _) (ends_then (gives_bf_set hen) (ends_then (gives_gf _ _)
    (ends_then (gives_busGap n _) ?_)))))
  rw [hgap]
  refine ends_then (gives_onlyIf_false (Bool.and_false _)) (ends_onlyIf_true (by rw [Bool.not_false, Bool.and_true]; exact decide_eq_true ⟨hn, hstate⟩) ?_)
  refine ends_keeps (keeps_recAfter (keep := fun u => (requestKeep u, u.pool)) (fun _ => rfl) _) (within_refl hb) fun r b1 hb1 =>
    ends_keeps (keeps_busSettle hn htec r) hb1 fun _ b2 hb2 => ends_then (gives_cntWrap _ 1 b2) ?_
  have hreceived := received_count hn hb2
  refine ends_ite_neg Bool.false_ne_true (ends_ite_pos ⟨rfl, rfl, Nat.lt_add_of_pos_right hfirst, Nat.add_le_add_left hlast _⟩ (ends_ite_pos ⟨rfl, hd⟩ ?_))
  rw [Nat.add_sub_cancel_left]
  refine ends_mono (htaken _ hreceived) fun _ e he => ?_
  obtain ⟨hwindow, -, -⟩ := receive_window n hn
  refine ⟨?_, fun a ha => ?_, responds_of_taken hn hbuses hreceived he, he.lots, he.parcels⟩
  · exact (congrArg (F.FLD_RXCNT_CNT n).of (he.regs _ (show window (R.FLD_RXCNT n) ≠ 0x11 by rw [hwindow]; decide))).trans hreceived.count
  · exact (he.regs a fun hw => ha (by rw [inWindows, show a / 0x10000 = 0x11 from hw]; decide)).trans (hreceived.outside hn ha)

end

/-! ### Requests on a lot and on a parcel -/

theorem Asked.notBusy {b c : Block} (h : Asked b c) {parcel : Bool} {key : Nat} (hfree : recordBusy b.u parcel key = false) : recordBusy c.u parcel key = false := by
  simpa only [recordBusy, recordHeld, lockHeld, fieldHeld, h.pcl, h.elapsed] using hfree

theorem Asked.lot {s : State} {c : Block} (h : Asked s.dev c) {idx : Nat} {r : List Byte} (hlot : s.lot idx = some r) :
    (c.u.pcl.lots.find? fun x => x.1 = idx).map (·.2) = some r := by
  rw [h.pcl]
  exact hlot

/-- Registers of lane `n` that place its discharge. -/
theorem laneRegs_outside : ∀ n < 16, ∀ a ∈ [R.ENC_LEADL n, R.ENC_LEADH n, R.ENC_CALI n, R.ENC_CALF n, R.PCL_LLEN n], window a ∉ [5, 6, 0x11] := by decide

theorem Asked.discharge {s : State} {c : Block} (h : Asked s.dev c) {n : Nat} (hn : n < 16) :
    atDischarge (c.u.pcl.parcels.filter fun x => Pf.state.of x == 2) n (c.s48 (R.ENC_LEADL n) (R.ENC_LEADH n))
        (c.fld (F.ENC_CALI_CALI n) * 65536 + c.fld (F.ENC_CALF_CALF n)) ((c.fld (F.PCL_LLEN_LLEN n) : Int) * 1000 * 65536) =
      atDischarge (s.dev.u.pcl.parcels.filter fun x => Pf.state.of x == 2) n (s.lead n) (s.factor n) ((s.fld (F.PCL_LLEN_LLEN n) : Int) * 1000 * 65536) := by
  have hreg := fun a ha => h.regs a (laneRegs_outside n hn a ha)
  have hlead : c.s48 (R.ENC_LEADL n) (R.ENC_LEADH n) = s.lead n := by
    rw [Block.s48, Block.n64, hreg _ (by simp), hreg _ (by simp)]
    rfl
  have hfactor : c.fld (F.ENC_CALI_CALI n) * 65536 + c.fld (F.ENC_CALF_CALF n) = s.factor n := by
    rw [h.fld (laneRegs_outside n hn (R.ENC_CALI n) (by simp)), h.fld (laneRegs_outside n hn (R.ENC_CALF n) (by simp))]
    rfl
  have hlen : c.fld (F.PCL_LLEN_LLEN n) = s.fld (F.PCL_LLEN_LLEN n) := h.fld (laneRegs_outside n hn (R.PCL_LLEN n) (by simp))
  rw [h.pcl, hlead, hfactor, hlen]

/-- The number of a node on a bus is one byte (R192). -/
theorem RequestHeard.snode_byte {s : State} {n op node : Nat} {d : List Byte} (h : RequestHeard s n op node d) :
    n * 64 + node % 64 < 256 ∧ n * 64 + node % 64 = n * 64 + node := by
  obtain ⟨-, hn, -, -, hlast, -⟩ := h
  omega

theorem parcelsWith_sampled {q : List Byte} (hq : q.length = 128) {v snode : Nat} (hs : snode < 256) (l : List (List Byte)) :
    (parcelsWith (Pf.pid.of q) (nodeParcel v snode q) l).map Pf.pid.of = l.map Pf.pid.of ∧
      ∀ x ∈ parcelsWith (Pf.pid.of q) (nodeParcel v snode q) l, Pf.pid.of x = Pf.pid.of q → Pf.sample.of x = v % 65536 ∧ Pf.snode.of x = snode := by
  obtain ⟨hpid, hsample, hsnode⟩ := nodeParcel_fields hq v hs
  refine ⟨parcelsWith_pids hpid l, fun x hx hxq => ?_⟩
  rw [eq_of_mem_parcelsWith hx hxq]
  exact ⟨hsample, hsnode⟩

section
variable {s : State} {c : Instr} {op n node v : Nat} {d : List Byte} (hexec : exec c s = onLive (opFieldRequest op n node d) s) (hl : Live s) (hb : Canon s)
  (hheard : RequestHeard s n op node d) (hbuses : s.dev.u.fld.buses.length = 4) (htec : s.fld (F.FLD_BECNT_TEC n) ≤ 255)
include hexec hl hb hheard hbuses htec

/-- A request that leaves `y` in the place of a lot's record. -/
theorem does_lotRequest {idx : Nat} {r y : List Byte} (hlot : s.lot idx = some r) (hop : ∀ b, Asked s.dev b →
    Ends (fieldOp n op node (leAt d 2 2) (leAt d 4 4) (leAt d 8 1) (leAt d 10 4)) b fun a e =>
      a = (Fs.done, v) ∧ LedgerLeft (lotsWith idx (fun _ => y) b.u.pcl.lots) b.u.pcl.parcels b e) :
    Does c s fun t => t.fld (F.FLD_RXCNT_CNT n) = (s.fld (F.FLD_RXCNT_CNT n) + 1) % 2 ^ 32 ∧ RegsKept [5, 6, 0x11] s t ∧ Responds s t n node d Fs.done v ∧
      t.lot idx = some y := by
  refine does_mono (does_fieldRequest hheard (fun b hasked => hasked.pcl ▸ hop b hasked) hexec hl hb hbuses htec) fun t ⟨hcnt, hkept, hresp, hlots, _⟩ =>
    ⟨hcnt, hkept, hresp, ?_⟩
  rw [State.lot, hlots, lotsWith_find, show (s.dev.u.pcl.lots.find? fun x => x.1 = idx).map (·.2) = some r from hlot]
  rfl

/-- A request that samples the parcel of a PID. -/
theorem does_parcelRequest {r : List Byte} (hlen : ∀ x ∈ s.dev.u.pcl.parcels, x.length = 128) (hr : r ∈ s.dev.u.pcl.parcels)
    (hop : ∀ b q, Asked s.dev b → recordNow b.u true (Pf.pid.of r) = some q →
      Ends (fieldOp n op node (leAt d 2 2) (leAt d 4 4) (leAt d 8 1) (leAt d 10 4)) b fun a e => a = (Fs.done, v) ∧
        LedgerLeft b.u.pcl.lots (parcelsWith (Pf.pid.of q) (nodeParcel v (n * 64 + node % 64) q) b.u.pcl.parcels) b e) :
    Does c s fun t => t.fld (F.FLD_RXCNT_CNT n) = (s.fld (F.FLD_RXCNT_CNT n) + 1) % 2 ^ 32 ∧ RegsKept [5, 6, 0x11] s t ∧ Responds s t n node d Fs.done v ∧
      t.dev.u.pcl.parcels.map Pf.pid.of = s.dev.u.pcl.parcels.map Pf.pid.of ∧
      ∀ x ∈ t.dev.u.pcl.parcels, Pf.pid.of x = Pf.pid.of r → Pf.sample.of x = v % 65536 ∧ Pf.snode.of x = n * 64 + node := by
  obtain ⟨q, hq, hnow, hpid⟩ := recordNow_of_mem hr
  obtain ⟨hbyte, hsnode⟩ := RequestHeard.snode_byte hheard
  have hnow' : ∀ b, Asked s.dev b → recordNow b.u true (Pf.pid.of r) = some q := fun b h => by rw [recordNow, h.pcl]; exact hnow
  refine does_mono (does_fieldRequest hheard (fun b hasked => hasked.pcl ▸ hop b q hasked (hnow' b hasked)) hexec hl hb hbuses htec)
    fun t ⟨hcnt, hkept, hresp, _, hparcels⟩ => ⟨hcnt, hkept, hresp, ?_⟩
  rw [hparcels, ← hpid, ← hsnode]
  exact parcelsWith_sampled (hlen q hq) hbyte _

end

/-! ### The statement -/

/-- Settles O16: the bus counts the request and takes a buffer, the Ledger applies the operation to its record, which no one holds, and the
response waits with the request's bytes. -/
theorem fieldRequests : Obligations.FieldRequests := by
  unfold Obligations.FieldRequests
  refine ⟨?read, ?write, ?mass, ?sample, ?lane, ?pid⟩
  case read =>
    rintro s bus node _ _ _ d lr hl hb hheard hbuses htec rfl rfl rfl hlot - hfree hidx hfi
    exact does_mono (does_fieldRequest hheard (fun b hasked => hasked.pcl ▸ ends_readWord (hasked.notBusy hfree) (hasked.lot hlot) hidx hfi) rfl hl hb hbuses htec)
      fun t ⟨hcnt, hkept, hresp, hlots, _⟩ => ⟨hcnt, hkept, hresp, hlots⟩
  case write =>
    rintro s bus node _ _ _ d lr hl hb hheard hbuses htec rfl rfl rfl hlot hlen hfree hidx hfi hopen
    obtain ⟨hbyte, hsnode⟩ := RequestHeard.snode_byte hheard
    refine does_mono (does_lotRequest rfl hl hb hheard hbuses htec hlot fun b hasked =>
      ends_writeWord (hasked.notBusy hfree) (hasked.lot hlot) hidx hopen hfi) fun t ⟨hcnt, hkept, hresp, ht⟩ => ⟨hcnt, hkept, hresp, ?_⟩
    obtain ⟨hword, hby, hseq⟩ := wordWritten_fields hlen hbyte hfi (leAt_lt d 10 4) _ rfl
    rw [ht, Option.map_some, hword, hby, hseq, hsnode]
  case mass =>
    rintro s bus node _ _ _ d lr hl hb hheard hbuses htec rfl hfi rfl hlot hlen hfree hidx rfl hopen hsum
    obtain ⟨hbyte, hsnode⟩ := RequestHeard.snode_byte hheard
    refine does_mono (does_lotRequest rfl hl hb hheard hbuses htec hlot fun b hasked =>
      hfi ▸ ends_addMass (hasked.notBusy hfree) (hasked.lot hlot) hidx hopen) fun t ⟨hcnt, hkept, hresp, ht⟩ => ⟨hcnt, hkept, hresp, ?_⟩
    obtain ⟨hin, hout, hby⟩ := massAdded_fields hlen hbyte hsum _ rfl
    rw [ht, Option.map_some, hin, hout, hby, hsnode]
  case sample =>
    rintro s bus node _ _ _ d lr hl hb hheard hbuses htec rfl hfi rfl hlot hlen hfree hidx rfl hopen
    obtain ⟨hbyte, hsnode⟩ := RequestHeard.snode_byte hheard
    refine does_mono (does_lotRequest rfl hl hb hheard hbuses htec hlot fun b hasked =>
      hfi ▸ ends_addSample (hasked.notBusy hfree) (hasked.lot hlot) hidx hopen) fun t ⟨hcnt, hkept, hresp, ht⟩ => ⟨hcnt, hkept, hresp, ?_⟩
    obtain ⟨hcount, hin, hby⟩ := lotSampled_fields hlen hbyte (v := leAt d 10 4) _ rfl
    rw [ht, Option.map_some, hcount, hin, hby, hsnode]
  case lane =>
    rintro s bus node _ _ _ _ d pr hl hb hheard hbuses htec rfl hfi rfl hidx rfl hlen hat hfree
    refine does_parcelRequest rfl hl hb hheard hbuses htec hlen (List.mem_of_mem_filter (List.mem_of_find?_eq_some hat)) fun b q hasked hnow =>
      hfi ▸ ends_setSampleLane (hasked.notBusy hfree) hnow hidx ?_
    rw [hasked.discharge hidx]
    exact hat
  case pid =>
    rintro s bus node _ _ _ _ d pr hl hb hheard hbuses htec rfl hfi rfl rfl rfl hlen hfind hfree
    have hfound := List.find?_some hfind
    simp only [Bool.and_eq_true, beq_iff_eq] at hfound
    obtain ⟨-, hpid⟩ := hfound
    refine does_parcelRequest rfl hl hb hheard hbuses htec hlen (List.mem_of_find?_eq_some hfind) fun b q hasked hnow =>
      hfi ▸ ends_setSamplePid (hasked.notBusy (hpid ▸ hfree)) hnow ?_
    rw [parcelAt, hasked.pcl]
    exact hfind

end Sys2Proof.Machine
end

section
/-!
PROOF. Proofs/RefutedControl.lean: two statements about the control engine that fail, each by one state on which the model's own answer
contradicts a clause.
-/
namespace Sys2Proof.Machine

/-! ### The Control functions: no room for the acknowledgement -/

/-- TRACE_READ of the first sample of channel 0. -/
def oneSampleRead : List Byte := [1, 0, 0, 0] ++ leBytes 4 (4 * 1) ++ [BitVec.ofNat 8 0, 0] ++ leBytes 2 0 ++ leBytes 4 1

theorem oneSampleRead_meets : Ready acksWaitState 1 0x0802 (openHostHdr 3) oneSampleRead := by decide +kernel

/-- The one packet that leaves is the last of the data: kind 4 with its bit 5. -/
theorem oneSampleRead_sends : shownAfter (fun t => t.dev.u.out.map outKind) (.traceRead (openHostHdr 3) oneSampleRead) acksWaitState = some [some 36] := by
  decide +kernel

/-- Refutes O38: with the 64 buffers of the ACK staging taken (R556) the module sends no ACK, and the clause of an accepted TRACE_READ
wants one. -/
theorem not_plannerAndControlCommands : ¬ Obligations.PlannerAndControlCommands := by
  intro h
  unfold Obligations.PlannerAndControlCommands at h
  obtain ⟨-, -, read, -⟩ := h
  obtain ⟨t, ⟨⟨-, hsent, -⟩, -⟩, hkinds⟩ := does_shown
    (read acksWaitState 1 (openHostHdr 3) oneSampleRead 0 0 1 oneSampleRead_meets rfl (by decide) (by decide) (by decide) (by decide)) oneSampleRead_sends
  have hack := kind_of_sent hsent
  rw [hkinds] at hack
  exact absurd hack (by decide)

/-! ### Loop periods: a slot that leaves automatic at the latch -/

/-- Slot 0 belongs to group 0, runs in automatic with an output of 7, and its host has written MODE manual and LOOP_MAN 0; the group is
enabled, and its phase 0 is now. -/
def leavesAutoState : State :=
  ((((State.reset.storingField F.LOOP_ECTL_RUN 1).storingField (F.LOOP_PGCTL_EN 0) 1).storingField (F.LOOP_CTL_MODE 0) slotManual).storingField
    (F.LOOP_STAT_MODEIN 0) slotAuto).storingField (F.LOOP_OUT_OUT 0) 7

/-- What the clause of the first latch asks of the group. -/
theorem leavesAuto_group : Live leavesAutoState ∧ Canon leavesAutoState ∧ LoopWhole leavesAutoState ∧ leavesAutoState.fld (F.LOOP_PGCTL_EN 0) = 1 ∧
    leavesAutoState.fld F.LOOP_ECTL_RUN = 1 ∧ leavesAutoState.fld (F.LOOP_PGCTL_TRIG 0) = 0 ∧ leavesAutoState.dev.u.wall % 10000 < 4 ∧
    leavesAutoState.dev.u.wall / 10000 % leavesAutoState.groupPer 0 = leavesAutoState.fld (F.LOOP_PGPH_PHASE 0) % leavesAutoState.groupPer 0 := by
  decide +kernel

/-- What it asks of the slot. -/
theorem leavesAuto_slot : leavesAutoState.fld (F.LOOP_CTL_GROUP 0) = 0 ∧ leavesAutoState.fld (F.LOOP_CTL_MODE 0) = 1 := by decide +kernel

theorem leavesAuto_man : leavesAutoState.fld (F.LOOP_MAN_MAN 0) = 0 := by decide +kernel

theorem leavesAuto_takes : shownAfter (fun t => (t.slot 0).man) (.groupLatch 0) leavesAutoState = some 7 := by decide +kernel

/-- Refutes O17: at a latch that takes a slot from automatic to manual LOOP_OUT is copied into LOOP_MAN (R224), so the slot samples the copy,
and the clause of the first latch wants the LOOP_MAN of before. -/
theorem not_loopPeriods : ¬ Obligations.LoopPeriods := by
  intro h
  unfold Obligations.LoopPeriods at h
  obtain ⟨latch, -⟩ := h
  obtain ⟨hlive, hcanon, hwhole, hen, hrun, htrig, hwall, hphase⟩ := leavesAuto_group
  obtain ⟨hgroup, hmode⟩ := leavesAuto_slot
  obtain ⟨t, ⟨-, -, -, -, -, -, -, -, -, -, hman, -⟩, htakes⟩ := does_shown
    (latch leavesAutoState 0 0 hlive hcanon hwhole (by decide) hen hrun htrig rfl rfl hwall hphase (fun h => nomatch h) (by decide) hgroup hmode rfl rfl)
    leavesAuto_takes
  exact absurd (htakes.symm.trans (hman.trans leavesAuto_man)) (by decide)

end Sys2Proof.Machine
end

section
/-!
PROOF. Proofs/LoopControls.lean: injection, traces, the friction table and the load of the control engine, and the statement about them (R236,
R237, R239 to R242, R246).
-/
namespace Sys2Proof.Machine

/-! ### Writes of the control engine's registers -/

/-- A masked write after which no field that refuses the value 3 holds it is one of a row without such fields. -/
theorem mergeWord_accepted {r : RegRow} {old w : Word} (h : ∀ lo ∈ r.noThree, bits (mergeWord { r with noThree := [] } old w).toNat (lo + 1) lo ≠ 3) :
    mergeWord r old w = mergeWord { r with noThree := [] } old w := by
  have hfold : ∀ (l : List Nat) (n : Word), (∀ lo ∈ l, bits n.toNat (lo + 1) lo ≠ 3) →
      l.foldl (fun n lo => if bits n.toNat (lo + 1) lo = 3 then (RF.mk 0 (lo + 1) lo).put n (bits old.toNat (lo + 1) lo) else n) n = n := by
    intro l n hn
    induction l with
    | nil => rfl
    | cons x l ih =>
      rw [List.foldl_cons, if_neg (hn x (by simp))]
      exact ih fun lo hlo => hn lo (by simp [hlo])
  exact hfold r.noThree _ h

/-- A masked write that selects no field of the register leaves its word. -/
theorem mergeWord_unselected {r : RegRow} (h3 : r.noThree = []) (old : Word) {w : Word} (h : (w.toNat / 65536) &&& r.rw = 0) : mergeWord r old w = old := by
  refine BitVec.eq_of_toNat_eq (Nat.eq_of_testBit_eq fun j => (mergeWord_bit h3 old w j).trans (if_neg fun ⟨hsel, hrw⟩ => ?_))
  have hboth : ((w.toNat / 65536) &&& r.rw).testBit j = true := by
    rw [Nat.testBit_and, Bool.and_eq_true]
    exact ⟨hsel, hrw⟩
  rw [h, Nat.zero_testBit] at hboth
  exact absurd hboth (by decide)

/-- A register of the control engine whose row shows what it holds. -/
theorem gives_regView_loop {r : RegRow} {i a : Nat} (hwin : window a = 13) (hr : r.base ∉ [R.LOOP_ESTAT, R.LOOP_PGSTAT 0, R.LOOP_FTDATA]) (b : Block) :
    Gives (regView r i a) b (b.regs.get a) b := by
  simp only [List.mem_cons, List.not_mem_nil, or_false, not_or] at hr
  obtain ⟨hestat, hpgstat, hft⟩ := hr
  refine gives_bind (gives_rd a b) (gives_bind (gives_now b) (gives_bind (gives_units b) ?_))
  rw [show a / 0x10000 = 13 from hwin]
  refine gives_bind (gives_rd a b) (gives_bind (gives_now b) (gives_bind (gives_bind (gives_units b) (gives_pure _ b)) (gives_bind (gives_block b) ?_)))
  exact gives_ite_neg hestat (gives_ite_neg hpgstat (gives_ite_neg hft (gives_pure _ b)))

/-- A write that selects bits of a control register of the engine, and none to be kept, does what the engine makes of it (R449). -/
theorem ends_engineWrite {src : Src} {r : RegRow} {i a : Nat} {w old : Word} {b : Block} {Q : Block → Prop} (hwin : window a = 13)
    (hrow : rowOf a = some (r, i)) (hguard : keyGuarded r.base = false) (hmask : r.mask = true) (hview : Gives (regView r i a) b old b)
    (hm : w.toNat / 65536 ≠ 0) (hk : (w.toNat / 65536) &&& r.kp = 0)
    (h : Ends (loopWrite r.base i a (mergeWord r old w) (BitVec.ofNat 32 (w.toNat &&& (w.toNat / 65536) &&& r.wo)) w) (b.mended a) fun _ d => Q d) :
    Ends (opWrite src a w) b fun _ d => Q d := by
  obtain ⟨_, d, hgives, hq⟩ := h
  have hunit : Gives (unitWrite src r.base i a (mergeWord r old w) (BitVec.ofNat 32 (w.toNat &&& (w.toNat / 65536) &&& r.wo)) w) (b.mended a) () d := by
    unfold unitWrite
    rw [show a / 0x10000 = 13 from hwin]
    exact hgives
  refine ends_of_gives (gives_opWrite (gives_fabricWrite (privileged_of_window hwin (by decide)) hrow ?_ hguard hmask (gives_maskedWrite hview hm ?_ hunit))) hq
  · unfold regDomain
    rw [show a / 0x10000 = 13 from hwin]
    rfl
  · rw [Nat.and_assoc, hk, Nat.and_zero]

/-- The word that sets bit 15 of a control register alone. -/
abbrev topSetWord : Word := 0x80008000

/-! ### Injection (R237, R239) -/

/-- The row of LOOP_INJCTL. -/
def injRow : RegRow := ⟨"LOOP_INJCTL", 0xD0200, [(4, 0x10)], 0x0, 0xFFFF, 0x0, 0x0, 0x0, [13, 11], true, [(4, 0x380)], 0x0, 0x0⟩

theorem rowOf_injctl : ∀ i < 4, rowOf (R.LOOP_INJCTL i) = some (injRow, i) ∧ window (R.LOOP_INJCTL i) = 13 ∧ (F.LOOP_INJCTL_EN i).Held ∧
    (F.LOOP_INJCTL_SLOT i).Held := by decide

/-- The generator that a word of LOOP_INJCTL starts. -/
def genOf (i : Nat) (w : Word) : LoopGen :=
  let n := max 7 (min 15 ((F.LOOP_INJCTL_PRBSN i).of w))
  { typ := (F.LOOP_INJCTL_TYPE i).of w, node := (F.LOOP_INJCTL_NODE i).of w, n := n, slot := (F.LOOP_INJCTL_SLOT i).of w, sr := 2 ^ n - 1 }

/-- The block with `w` in LOOP_INJCTL of generator `i`, which is `g` from now on. -/
def Block.injected (b : Block) (i : Nat) (w : Word) (g : Option LoopGen) : Block :=
  (b.setReg (R.LOOP_INJCTL i) w).withU { b.u with loop := { b.u.loop with gens := setAt b.u.loop.gens i g } }

/-- What block `d` shows of a change of EN to `en` in block `b`, by which generator `i` becomes `g`. -/
structure EnWritten (i en : Nat) (b d : Block) : Prop where
  en : d.fld (F.LOOP_INJCTL_EN i) = en
  slot : d.fld (F.LOOP_INJCTL_SLOT i) = b.fld (F.LOOP_INJCTL_SLOT i)
  slots : d.u.loop.slots = b.u.loop.slots
  regs : ∀ a, a ∉ [R.LOOP_INJCTL i] → d.regs.get a = b.regs.get a

section
variable {b : Block} {i : Nat} {w : Word}

/-- What a mask of bit 15 alone selects of LOOP_INJCTL. -/
theorem topMask_selects : bits 0x8000 15 15 = 1 ∧ bits 0x8000 14 13 = 0 ∧ bits 0x8000 12 11 = 0 ∧ bits 0x8000 6 0 = 0 := by decide

/-- A write that selects bit 15 alone, where TYPE and NODE are not 3, is one that no field refuses. -/
theorem injctl_merged (hmask : w.toNat / 65536 = 0x8000) {old : Word} (ht : (F.LOOP_INJCTL_TYPE i).of old ≠ 3) (hn : (F.LOOP_INJCTL_NODE i).of old ≠ 3) :
    mergeWord injRow old w = mergeWord { injRow with noThree := [] } old w := by
  obtain ⟨-, htyp, hnode, -⟩ := topMask_selects
  refine mergeWord_accepted fun lo hlo h => ?_
  simp only [injRow, List.mem_cons, List.not_mem_nil, or_false] at hlo
  rcases hlo with rfl | rfl
  · exact ht ((merge_kept rfl (F.LOOP_INJCTL_TYPE i) (by rw [hmask]; exact htyp)).symm.trans h)
  · exact hn ((merge_kept rfl (F.LOOP_INJCTL_NODE i) (by rw [hmask]; exact hnode)).symm.trans h)

/-- The fields of LOOP_INJCTL after such a write: EN alone changes. -/
theorem injctl_fields (hmask : w.toNat / 65536 = 0x8000) {old : Word} (ht : (F.LOOP_INJCTL_TYPE i).of old ≠ 3) (hn : (F.LOOP_INJCTL_NODE i).of old ≠ 3) :
    (F.LOOP_INJCTL_EN i).of (mergeWord injRow old w) = (F.LOOP_INJCTL_EN i).of w ∧
      ∀ f ∈ [F.LOOP_INJCTL_TYPE i, F.LOOP_INJCTL_NODE i, F.LOOP_INJCTL_SLOT i], f.of (mergeWord injRow old w) = f.of old := by
  obtain ⟨hen, htyp, hnode, hslot⟩ := topMask_selects
  rw [injctl_merged hmask ht hn]
  refine ⟨merge_set rfl (F.LOOP_INJCTL_EN i) ?_ (show bits 0xFFFF 15 15 = 1 by decide), fun f hf => merge_kept rfl f ?_⟩
  · rw [hmask]
    exact hen
  · simp only [List.mem_cons, List.not_mem_nil, or_false] at hf
    rw [hmask]
    rcases hf with rfl | rfl | rfl
    · exact htyp
    · exact hnode
    · exact hslot

/-- A write of LOOP_INJCTL that starts its generator. -/
theorem gives_injControl_start {new : Word} (ht : (F.LOOP_INJCTL_TYPE i).of new ≠ 3) (hn : (F.LOOP_INJCTL_NODE i).of new ≠ 3)
    (hwas : b.fld (F.LOOP_INJCTL_EN i) = 0) (hon : (F.LOOP_INJCTL_EN i).of new = 1) :
    Gives (injControl i (R.LOOP_INJCTL i) new) b () (b.injected i new (some (genOf i new))) := by
  have hold : (F.LOOP_INJCTL_EN i).of (b.regs.get (R.LOOP_INJCTL i)) = 0 := hwas
  refine gives_bind (gives_rd _ b) ?_
  simp only [if_neg ht, if_neg hn, hold, hon]
  exact gives_bind (gives_wr _ _ b) (gives_bind (gives_onlyIf_true rfl (gives_modLoop _ _)) (gives_onlyIf_false rfl))

/-- A write of LOOP_INJCTL that stops its generator. -/
theorem gives_injControl_stop {new : Word} (ht : (F.LOOP_INJCTL_TYPE i).of new ≠ 3) (hn : (F.LOOP_INJCTL_NODE i).of new ≠ 3)
    (hwas : b.fld (F.LOOP_INJCTL_EN i) = 1) (hoff : (F.LOOP_INJCTL_EN i).of new = 0) :
    Gives (injControl i (R.LOOP_INJCTL i) new) b () (b.injected i new none) := by
  have hold : (F.LOOP_INJCTL_EN i).of (b.regs.get (R.LOOP_INJCTL i)) = 1 := hwas
  refine gives_bind (gives_rd _ b) ?_
  simp only [if_neg ht, if_neg hn, hold, hoff]
  exact gives_bind (gives_wr _ _ b) (gives_bind (gives_onlyIf_false rfl) (gives_onlyIf_true rfl (gives_modLoop _ _)))

variable (hb : b.regs.wf = true) (hi : i < 4) (ht : b.fld (F.LOOP_INJCTL_TYPE i) ≠ 3) (hn : b.fld (F.LOOP_INJCTL_NODE i) ≠ 3)
include hb hi ht hn

/-- A write of EN that makes `g` of the generator. -/
theorem ends_enWrite {src : Src} {en : Nat} {g : Option LoopGen} (hmask : w.toNat / 65536 = 0x8000) (hen : (F.LOOP_INJCTL_EN i).of w = en)
    (h : Gives (injControl i (R.LOOP_INJCTL i) (mergeWord injRow (b.regs.get (R.LOOP_INJCTL i)) w)) (b.mended (R.LOOP_INJCTL i)) ()
      ((b.mended (R.LOOP_INJCTL i)).injected i (mergeWord injRow (b.regs.get (R.LOOP_INJCTL i)) w) g)) :
    Ends (opWrite src (R.LOOP_INJCTL i) w) b fun _ d => EnWritten i en b d ∧ d.u.loop.gens = setAt b.u.loop.gens i g := by
  obtain ⟨hrow, hwin, henHeld, hslotHeld⟩ := rowOf_injctl i hi
  obtain ⟨hset, hkept⟩ := injctl_fields (old := b.regs.get (R.LOOP_INJCTL i)) hmask ht hn
  refine ends_engineWrite hwin hrow (by decide) rfl (gives_regView_loop hwin (by decide) b) (by rw [hmask]; decide) (by rw [hmask]; rfl) (ends_of_gives h ⟨?_, rfl⟩)
  exact ⟨(of_get_set hb henHeld _).trans (hset.trans hen), (of_get_set hb hslotHeld _).trans (hkept _ (by simp)), rfl,
    fun a ha => get_set_ne b.regs _ (by simpa using ha)⟩

/-- EN written 1 starts the generator from its registers (R237). -/
theorem ends_injectionStart (src : Src) (hwas : b.fld (F.LOOP_INJCTL_EN i) = 0) : Ends (opWrite src (R.LOOP_INJCTL i) topSetWord) b fun _ d =>
    EnWritten i 1 b d ∧ ∃ g, d.u.loop.gens = setAt b.u.loop.gens i (some g) ∧
      (g.typ, g.node, g.slot, g.k) = (b.fld (F.LOOP_INJCTL_TYPE i), b.fld (F.LOOP_INJCTL_NODE i), b.fld (F.LOOP_INJCTL_SLOT i), 0) := by
  have hon : (F.LOOP_INJCTL_EN i).of topSetWord = 1 := show bits 0x80008000 15 15 = 1 by decide
  obtain ⟨hset, hkept⟩ := injctl_fields (i := i) (w := topSetWord) (old := b.regs.get (R.LOOP_INJCTL i)) (by decide) ht hn
  have htyp := hkept (F.LOOP_INJCTL_TYPE i) (by simp)
  have hnode := hkept (F.LOOP_INJCTL_NODE i) (by simp)
  have hslot := hkept (F.LOOP_INJCTL_SLOT i) (by simp)
  refine ends_mono (ends_enWrite hb hi ht hn (by decide) hon
    (gives_injControl_start (fun h => ht (htyp.symm.trans h)) (fun h => hn (hnode.symm.trans h)) hwas (hset.trans hon)))
    fun _ d ⟨hd, hgens⟩ => ⟨hd, _, hgens, ?_⟩
  simp only [genOf, htyp, hnode, hslot]
  rfl

/-- EN written 0 stops the generator (R239). -/
theorem ends_injectionStop (src : Src) (hwas : b.fld (F.LOOP_INJCTL_EN i) = 1) : Ends (opWrite src (R.LOOP_INJCTL i) runClearWord) b fun _ d =>
    EnWritten i 0 b d ∧ d.u.loop.gens = setAt b.u.loop.gens i none := by
  have hoff : (F.LOOP_INJCTL_EN i).of runClearWord = 0 := show bits 0x80000000 15 15 = 0 by decide
  obtain ⟨hset, hkept⟩ := injctl_fields (i := i) (w := runClearWord) (old := b.regs.get (R.LOOP_INJCTL i)) (by decide) ht hn
  exact ends_enWrite hb hi ht hn (by decide) hoff (gives_injControl_stop (fun h => ht ((hkept _ (by simp)).symm.trans h))
    (fun h => hn ((hkept _ (by simp)).symm.trans h)) hwas (hset.trans hoff))

end

/-! ### Traces (R240 to R242) -/

/-- The row of LOOP_TRCCTL. -/
def trcRow : RegRow := ⟨"LOOP_TRCCTL", 0xD0300, [], 0x0, 0xBF80, 0x0, 0x4000, 0x7F, [], true, [(1, 0x0)], 0x0, 0x0⟩

theorem held_trc : F.LOOP_TRCCTL_ARM.Held ∧ F.LOOP_TRCSTAT_ARMED.Held ∧ F.LOOP_TRCSTAT_TRIGGERED.Held ∧ F.LOOP_TRCSTAT_DONE.Held ∧
    ∀ c < 8, (F.LOOP_TRCTRIG_ENTRY c).Held := by decide

/-- A write to LOOP_TRCCTL that selects some of bits 15 to 7 alone. -/
theorem ends_trcWrite {src : Src} {w : Word} {b : Block} {Q : Block → Prop} (hm : w.toNat / 65536 ≠ 0) (hk : (w.toNat / 65536) &&& 0x7F = 0)
    (h : Ends (trcControl R.LOOP_TRCCTL (mergeWord trcRow (b.regs.get R.LOOP_TRCCTL) w) (BitVec.ofNat 32 (w.toNat &&& (w.toNat / 65536) &&& 0x4000)))
      (b.mended R.LOOP_TRCCTL) fun _ d => Q d) : Ends (opWrite src R.LOOP_TRCCTL w) b fun _ d => Q d :=
  ends_engineWrite (r := trcRow) (i := 0) rfl rfl (by decide) rfl (gives_regView_loop rfl (by decide) b) hm hk h

/-- The block with `v` in LOOP_TRCCTL, whose parity matches. -/
abbrev Block.trcStored (b : Block) (v : Word) : Block := (b.mended R.LOOP_TRCCTL).setReg R.LOOP_TRCCTL v

theorem trcStored_reg (b : Block) (v : Word) {a : Nat} (ha : a ≠ R.LOOP_TRCCTL) : (b.trcStored v).regs.get a = b.regs.get a := get_set_ne b.regs v ha

/-- The block with the three flags of LOOP_TRCSTAT stored. -/
def Block.trcFlags (b : Block) (armed seen done : Nat) : Block :=
  ((b.setField F.LOOP_TRCSTAT_ARMED armed).setField F.LOOP_TRCSTAT_TRIGGERED seen).setField F.LOOP_TRCSTAT_DONE done

theorem trcFlags_fld {b : Block} (hb : b.regs.wf = true) (armed seen done : Nat) : (b.trcFlags armed seen done).fld F.LOOP_TRCSTAT_ARMED = armed % 2 ∧
    (b.trcFlags armed seen done).fld F.LOOP_TRCSTAT_TRIGGERED = seen % 2 ∧ (b.trcFlags armed seen done).fld F.LOOP_TRCSTAT_DONE = done % 2 := by
  obtain ⟨-, harmed, hseen, hdone, -⟩ := held_trc
  have h2 := setField_wf hb F.LOOP_TRCSTAT_ARMED armed
  have h3 := setField_wf h2 F.LOOP_TRCSTAT_TRIGGERED seen
  refine ⟨?_, (fld_setField_apart (g := F.LOOP_TRCSTAT_TRIGGERED) h3 hdone rfl (by decide) _).trans (fld_setField h2 hseen _), fld_setField h3 hdone _⟩
  exact (fld_setField_apart (g := F.LOOP_TRCSTAT_ARMED) h3 hdone rfl (by decide) _).trans
    ((fld_setField_apart (g := F.LOOP_TRCSTAT_ARMED) h2 hseen rfl (by decide) _).trans (fld_setField hb harmed _))

theorem trcFlags_reg (b : Block) (armed seen done : Nat) {a : Nat} (ha : a ≠ R.LOOP_TRCSTAT) : (b.trcFlags armed seen done).regs.get a = b.regs.get a :=
  (setField_get_ne _ F.LOOP_TRCSTAT_DONE done ha).trans ((setField_get_ne _ F.LOOP_TRCSTAT_TRIGGERED seen ha).trans (setField_get_ne b F.LOOP_TRCSTAT_ARMED armed ha))

theorem gives_trcArm (b : Block) : Gives trcArm b ()
    ((b.trcFlags 1 0 0).withU { b.u with loop := { b.u.loop with trc := List.replicate 8 {}, trgPrev := none } }) :=
  gives_bind (gives_sb F.LOOP_TRCSTAT_ARMED true b) (gives_bind (gives_sb F.LOOP_TRCSTAT_TRIGGERED false _)
    (gives_bind (gives_sb F.LOOP_TRCSTAT_DONE false _) (gives_modLoop _ _)))

/-- ARM written 1 makes the channels record afresh (R242). -/
theorem ends_traceArm {b : Block} (hb : b.regs.wf = true) (src : Src) (hwas : b.fld F.LOOP_TRCCTL_ARM = 0) :
    Ends (opWrite src R.LOOP_TRCCTL topSetWord) b fun _ d => d.fld F.LOOP_TRCSTAT_ARMED = 1 ∧ d.fld F.LOOP_TRCSTAT_TRIGGERED = 0 ∧
      d.fld F.LOOP_TRCSTAT_DONE = 0 ∧ d.fld F.LOOP_TRCCTL_ARM = 1 ∧ d.u.loop.trc.length = 8 ∧
        ∀ a, a ∉ [R.LOOP_TRCCTL, R.LOOP_TRCSTAT] → d.regs.get a = b.regs.get a := by
  obtain ⟨hctl, -⟩ := held_trc
  have hon : F.LOOP_TRCCTL_ARM.of (mergeWord trcRow (b.regs.get R.LOOP_TRCCTL) topSetWord) = 1 := merge_set rfl F.LOOP_TRCCTL_ARM (by decide) (by decide)
  let c := b.trcStored (mergeWord trcRow (b.regs.get R.LOOP_TRCCTL) topSetWord)
  have hc : c.regs.wf = true := setReg_wf (b := b.mended R.LOOP_TRCCTL) hb _ _
  obtain ⟨harmed, hseen, hdone⟩ := trcFlags_fld hc 1 0 0
  have harm : c.fld F.LOOP_TRCCTL_ARM = 1 := (of_get_set hb hctl _).trans hon
  refine ends_trcWrite (by decide) (by decide) (ends_then (gives_bf_clear hwas) (ends_then (gives_wr _ _ _) (ends_then (gives_onlyIf_true (by rw [hon]; rfl) (gives_trcArm c))
    (ends_then (gives_onlyIf_false (by rw [hon]; rfl)) (ends_of_gives (gives_onlyIf_false rfl) ⟨harmed, hseen, hdone, ?_, rfl, fun a ha => ?_⟩)))))
  · exact (congrArg F.LOOP_TRCCTL_ARM.of (trcFlags_reg c 1 0 0 (by decide))).trans harm
  · simp only [List.mem_cons, List.not_mem_nil, or_false, not_or] at ha
    exact (trcFlags_reg c 1 0 0 ha.2).trans (trcStored_reg b _ ha.1)

/-- ARM written 0 ends the recording (R242). -/
theorem ends_traceStop {b : Block} (hb : b.regs.wf = true) (src : Src) : Ends (opWrite src R.LOOP_TRCCTL runClearWord) b fun _ d =>
    d.fld F.LOOP_TRCCTL_ARM = 0 ∧ d.fld F.LOOP_TRCSTAT_ARMED = 0 ∧ d.fld F.LOOP_TRCSTAT_TRIGGERED = b.fld F.LOOP_TRCSTAT_TRIGGERED ∧ d.u = b.u ∧
      ∀ a, a ∉ [R.LOOP_TRCCTL, R.LOOP_TRCSTAT] → d.regs.get a = b.regs.get a := by
  obtain ⟨hctl, harmed, -⟩ := held_trc
  have hoff : F.LOOP_TRCCTL_ARM.of (mergeWord trcRow (b.regs.get R.LOOP_TRCCTL) runClearWord) = 0 := merge_set rfl F.LOOP_TRCCTL_ARM (by decide) (by decide)
  let c := b.trcStored (mergeWord trcRow (b.regs.get R.LOOP_TRCCTL) runClearWord)
  have hc : c.regs.wf = true := setReg_wf (b := b.mended R.LOOP_TRCCTL) hb _ _
  have harm : c.fld F.LOOP_TRCCTL_ARM = 0 := (of_get_set hb hctl _).trans hoff
  refine ends_trcWrite (by decide) (by decide) (ends_then (gives_bf _ _) (ends_then (gives_wr _ _ _) (ends_then (gives_onlyIf_false (by rw [hoff]; rfl))
    (ends_then (gives_onlyIf_true (by rw [hoff]; rfl) (gives_sb F.LOOP_TRCSTAT_ARMED false c)) (ends_of_gives (gives_onlyIf_false rfl)
      ⟨?_, fld_setField hc harmed 0, ?_, rfl, fun a ha => ?_⟩)))))
  · exact (fld_setField_ne c (f := F.LOOP_TRCSTAT_ARMED) (g := F.LOOP_TRCCTL_ARM) (by decide) _).trans harm
  · refine (fld_setField_apart (g := F.LOOP_TRCSTAT_TRIGGERED) hc harmed rfl (by decide) 0).trans ?_
    exact congrArg F.LOOP_TRCSTAT_TRIGGERED.of (trcStored_reg b _ (a := R.LOOP_TRCSTAT) (by decide))
  · simp only [List.mem_cons, List.not_mem_nil, or_false, not_or] at ha
    exact (setField_get_ne c F.LOOP_TRCSTAT_ARMED _ ha.2).trans (trcStored_reg b _ ha.1)

/-- Channel `c` marks where it stands. -/
def trcMark (c : Nat) : Op Unit := do
  let w ← gf (F.LOOP_TRCWR_ENTRY c)
  sf (F.LOOP_TRCTRIG_ENTRY c) w

theorem gives_trcMark (c : Nat) (b : Block) : Gives (trcMark c) b () (b.setField (F.LOOP_TRCTRIG_ENTRY c) (b.fld (F.LOOP_TRCWR_ENTRY c))) :=
  gives_bind (gives_gf _ b) (gives_setField _ _ b)

/-- The registers that hold the channels' marks. -/
abbrev markBits (a _j : Nat) : Prop := ∃ c, a = R.LOOP_TRCTRIG c ∧ c < 8

theorem trcwr_ne_trctrig (c : Nat) {x : Nat} (hx : x < 8) : R.LOOP_TRCWR c ≠ R.LOOP_TRCTRIG x := by
  simp only [R.LOOP_TRCWR, R.LOOP_TRCTRIG]
  omega

/-- Each channel of a list marks where it stands. -/
theorem ends_trcMarks {l : List Nat} (hl : ∀ x ∈ l, x < 8) {b : Block} (hb : b.regs.wf = true) : Ends (each trcMark l) b fun _ d =>
    Within markBits id b d ∧ ∀ c < 8, d.fld (F.LOOP_TRCTRIG_ENTRY c) = if c ∈ l then b.fld (F.LOOP_TRCWR_ENTRY c) else b.fld (F.LOOP_TRCTRIG_ENTRY c) := by
  obtain ⟨-, -, -, -, hheld⟩ := held_trc
  induction l generalizing b with
  | nil => exact ends_of_gives (gives_each_nil _ b) ⟨within_refl hb, fun c _ => by simp⟩
  | cons x l ih =>
    have hx := hl x (by simp)
    have hmarked : Within markBits id b (b.setField (F.LOOP_TRCTRIG_ENTRY x) (b.fld (F.LOOP_TRCWR_ENTRY x))) :=
      within_setField hb (hheld x hx).1 (hheld x hx).2.1 _ fun _ _ _ => ⟨x, rfl, hx⟩
    refine ends_then (gives_trcMark x b) (ends_mono (ih (fun y hy => hl y (by simp [hy])) hmarked.wf) fun _ d ⟨hd, hmarks⟩ =>
      ⟨hmarked.trans hd, fun c hc => (hmarks c hc).trans ?_⟩)
    have hstands : (b.setField (F.LOOP_TRCTRIG_ENTRY x) (b.fld (F.LOOP_TRCWR_ENTRY x))).fld (F.LOOP_TRCWR_ENTRY c) = b.fld (F.LOOP_TRCWR_ENTRY c) :=
      fld_setField_ne b (f := F.LOOP_TRCTRIG_ENTRY x) (g := F.LOOP_TRCWR_ENTRY c) (trcwr_ne_trctrig c hx) _
    rw [hstands]
    by_cases hin : c ∈ l
    · simp [hin]
    · by_cases he : c = x
      · subst he
        rw [if_neg hin, if_pos (by simp)]
        exact (fld_setField hb (hheld c hc) _).trans (Nat.mod_eq_of_lt (fld_lt b (F.LOOP_TRCWR_ENTRY c)))
      · rw [if_neg hin, if_neg (by simp [he, hin])]
        exact fld_setField_ne b (g := F.LOOP_TRCTRIG_ENTRY c) (by simp only [F.LOOP_TRCTRIG_ENTRY, R.LOOP_TRCTRIG]; omega) _

/-- What the end of a capture shows: TRCDONE, and DONE and ARMED of LOOP_TRCSTAT. -/
abbrev doneBits (a j : Nat) : Prop := a = R.LOOP_ESTAT ∨ (a = R.LOOP_TRCSTAT ∧ j ≠ 14)

theorem keeps_trcDone {S : Prop} {b0 : Block} : Keeps S (Within doneBits id b0) trcDone := by
  have hflag : ∀ {f : RF} {v : Bool}, f = F.LOOP_TRCSTAT_DONE ∨ f = F.LOOP_TRCSTAT_ARMED → Keeps S (Within doneBits id b0) (sb f v) := fun hf => by
    rcases hf with rfl | rfl <;>
      exact within_sb (by decide) (by decide) fun j h0 h1 => .inr ⟨rfl, by simp only [F.LOOP_TRCSTAT_DONE, F.LOOP_TRCSTAT_ARMED] at h0 h1; omega⟩
  exact keeps_bind (keeps_bind keeps_units fun _ => keeps_pure _) fun _ => keeps_bind keeps_block fun _ => keeps_bind (keeps_bf _) fun _ =>
    keeps_bind (keeps_bf _) fun _ => keeps_onlyIf fun _ => keeps_bind (within_sb (by decide) (by decide) fun _ _ _ => .inl rfl) fun _ =>
      keeps_bind (hflag (.inl rfl)) fun _ => hflag (.inr rfl)

/-- What block `d` shows of a trigger in block `b`. -/
structure Triggered (b d : Block) : Prop where
  flag : d.fld F.LOOP_TRCSTAT_TRIGGERED = 1
  marks : ∀ c < 8, d.fld (F.LOOP_TRCTRIG_ENTRY c) = b.fld (F.LOOP_TRCWR_ENTRY c)
  left : ∀ x ∈ d.u.loop.trc, x.left = some (65536 - min (b.fld F.LOOP_TRCCTL_PRE) 14 * 4096)
  rings : d.u.loop.rings = b.u.loop.rings

/-- An armed trace triggers once (R242). -/
theorem ends_trcTrigger {b : Block} (hb : b.regs.wf = true) (harmed : b.fld F.LOOP_TRCSTAT_ARMED = 1) (hseen : b.fld F.LOOP_TRCSTAT_TRIGGERED = 0) :
    Ends trcTrigger b fun _ d => Triggered b d := by
  obtain ⟨-, -, htrig, -⟩ := held_trc
  let c := b.setField F.LOOP_TRCSTAT_TRIGGERED 1
  have hc : c.regs.wf = true := setField_wf hb _ _
  have hmark : ∀ x < 8, (F.LOOP_TRCTRIG_ENTRY x).reg ∉ [R.LOOP_TRCSTAT, R.LOOP_ESTAT] ∧ (F.LOOP_TRCWR_ENTRY x).reg ≠ R.LOOP_TRCSTAT := by decide
  refine ends_then (gives_bf_set harmed) (ends_then (gives_bf_clear hseen) (ends_then (gives_gf _ b) (ends_onlyIf_true rfl (ends_then (gives_sb _ true b)
    (ends_bind (ends_trcMarks (l := List.range 8) (fun x hx => List.mem_range.1 hx) hc) fun _ d ⟨hd, hmarks⟩ => ends_then (gives_modLoop d _)
      (ends_mono (ends_of_keeps keeps_trcDone (within_refl (by exact hd.wf))) fun _ e he => ?_))))))
  have hdone : e.u = _ := he.units
  have hunits : d.u = b.u := hd.units
  refine ⟨?_, fun x hx => ?_, fun x hx => ?_, ?_⟩
  · refine (he.fld F.LOOP_TRCSTAT_TRIGGERED fun j h0 h1 hj => ?_).trans ((hd.fld F.LOOP_TRCSTAT_TRIGGERED fun _ _ _ ⟨y, hy, hy8⟩ => ?_).trans (fld_setField hb htrig 1))
    · exact hj.elim (fun h => absurd h (by decide)) fun h => h.2 (Nat.le_antisymm h1 h0)
    · exact (hmark y hy8).1 (by rw [show (F.LOOP_TRCTRIG_ENTRY y).reg = R.LOOP_TRCTRIG y from rfl, ← hy]; decide)
  · obtain ⟨hapart, hwr⟩ := hmark x hx
    refine (he.fld (F.LOOP_TRCTRIG_ENTRY x) fun _ _ _ hj => hapart ?_).trans ((hmarks x hx).trans ?_)
    · rcases hj with hj | ⟨hj, -⟩ <;> simp [hj]
    · rw [if_pos (List.mem_range.2 hx)]
      exact fld_setField_ne b hwr _
  · rw [hdone] at hx
    obtain ⟨y, -, rfl⟩ := List.mem_map.1 hx
    rfl
  · rw [hdone]
    show d.u.loop.rings = b.u.loop.rings
    exact congrArg (fun u : Units => u.loop.rings) hunits

/-- FORCE with START = 0 triggers an armed trace (R242). -/
theorem ends_traceForce {b : Block} (hb : b.regs.wf = true) (src : Src) (harm : b.fld F.LOOP_TRCCTL_ARM = 1) (hstart : b.fld F.LOOP_TRCCTL_START = 0)
    (harmed : b.fld F.LOOP_TRCSTAT_ARMED = 1) (hseen : b.fld F.LOOP_TRCSTAT_TRIGGERED = 0) :
    Ends (opWrite src R.LOOP_TRCCTL 0x40004000) b fun _ d => Triggered b d := by
  refine ends_trcWrite (by decide) (by decide) ?_
  rw [mergeWord_unselected rfl _ (by decide)]
  have hctl : F.LOOP_TRCCTL_ARM.of (b.regs.get R.LOOP_TRCCTL) = 1 := harm
  have hzero : F.LOOP_TRCCTL_START.of (b.regs.get R.LOOP_TRCCTL) = 0 := hstart
  have hsame : ∀ f : RF, (b.trcStored (b.regs.get R.LOOP_TRCCTL)).fld f = b.fld f := fun f => congrArg f.of (get_set_self hb R.LOOP_TRCCTL f.reg)
  refine ends_then (gives_bf_set harm) (ends_then (gives_wr _ _ _) (ends_then (gives_onlyIf_false (Bool.and_false _))
    (ends_then (gives_onlyIf_false (by rw [hctl]; rfl)) (ends_onlyIf_true (by rw [hzero]; rfl) ?_))))
  refine ends_mono (ends_trcTrigger (b := b.trcStored (b.regs.get R.LOOP_TRCCTL)) (setReg_wf hb _ _) ((hsame _).trans harmed) ((hsame _).trans hseen))
    fun _ d hd => ⟨hd.flag, fun c hc => (hd.marks c hc).trans (hsame _), fun x hx => ?_, hd.rings⟩
  rw [← hsame]
  exact hd.left x hx

/-! ### The friction and cogging tables (R236) -/

/-- The row of LOOP_FTDATA. -/
def ftdataRow : RegRow := ⟨"LOOP_FTDATA", 0xD0014, [], 0x0, 0xFFFF, 0x0, 0x0, 0x0, [], true, [(1, 0x0)], 0x0, 0x0⟩

theorem held_ftidx : F.LOOP_FTIDX_TABLE.Held ∧ F.LOOP_FTIDX_ENTRY.Held ∧ F.LOOP_FTIDX_AINC.Held := by decide

/-- The entry that LOOP_FTIDX names, by 1,024 × table + entry. -/
def Block.ftIndex (b : Block) : Nat := b.fld F.LOOP_FTIDX_TABLE * 1024 + b.fld F.LOOP_FTIDX_ENTRY

/-- The entries with `v` in entry `k`: an entry of 0 is not listed. -/
def ftStored (k v : Nat) (l : List (Nat × Nat)) : List (Nat × Nat) := (if v = 0 then [] else [(k, v)]) ++ l.filter (fun x => x.1 ≠ k)

theorem ftStored_find (k v : Nat) (l : List (Nat × Nat)) : (((ftStored k v l).find? fun x => x.1 = k).map (·.2)).getD 0 = v := by
  have hrest : (l.filter fun x => x.1 ≠ k).find? (fun x => x.1 = k) = none :=
    List.find?_eq_none.2 fun x hx => by simpa using (List.mem_filter.1 hx).2
  unfold ftStored
  by_cases hv : v = 0
  · rw [if_pos hv, List.nil_append, hrest, hv]
    rfl
  · rw [if_neg hv]
    simp

theorem mem_ftStored {k v : Nat} {l : List (Nat × Nat)} {x : Nat × Nat} (hx : x ∈ l) (hk : x.1 ≠ k) : x ∈ ftStored k v l :=
  List.mem_append_right _ (List.mem_filter.2 ⟨hx, by simpa using hk⟩)

theorem gives_ftPut (k v : Nat) (b : Block) :
    Gives (ftPut k v) b () (b.withU { b.u with loop := { b.u.loop with ft := ftStored k v b.u.loop.ft } }) := fun _ => rfl

/-- The index steps on (R236). -/
theorem ends_ftSteps {b : Block} (hb : b.regs.wf = true) : Ends (do
      sf F.LOOP_FTIDX_ENTRY (b.fld F.LOOP_FTIDX_ENTRY + 1)
      onlyIf (b.fld F.LOOP_FTIDX_ENTRY == 1023) (sf F.LOOP_FTIDX_TABLE (b.fld F.LOOP_FTIDX_TABLE + 1))) b fun _ c =>
    Within (regBits R.LOOP_FTIDX) id b c ∧ c.ftIndex = (b.ftIndex + 1) % 16384 := by
  obtain ⟨htable, hentry, -⟩ := held_ftidx
  have ht : b.fld F.LOOP_FTIDX_TABLE < 2 ^ 4 := fld_lt b _
  have he : b.fld F.LOOP_FTIDX_ENTRY < 2 ^ 10 := fld_lt b _
  let c := b.setField F.LOOP_FTIDX_ENTRY (b.fld F.LOOP_FTIDX_ENTRY + 1)
  have hc : Within (regBits R.LOOP_FTIDX) id b c := within_setField hb (by decide) (by decide) _ fun _ _ _ => rfl
  have hce : c.fld F.LOOP_FTIDX_ENTRY = (b.fld F.LOOP_FTIDX_ENTRY + 1) % 2 ^ 10 := fld_setField hb hentry _
  have hct : c.fld F.LOOP_FTIDX_TABLE = b.fld F.LOOP_FTIDX_TABLE := fld_setField_apart (g := F.LOOP_FTIDX_TABLE) hb hentry rfl (by decide) _
  refine ends_then (gives_setField _ _ b) (ends_onlyIf (fun hlast => ends_of_gives (gives_setField _ _ c)
    ⟨hc.trans (within_setField hc.wf (by decide) (by decide) _ fun _ _ _ => rfl), ?last⟩) fun hmore => ⟨hc, ?more⟩)
  case last =>
    have hdt : (c.setField F.LOOP_FTIDX_TABLE (b.fld F.LOOP_FTIDX_TABLE + 1)).fld F.LOOP_FTIDX_TABLE = (b.fld F.LOOP_FTIDX_TABLE + 1) % 2 ^ 4 :=
      fld_setField hc.wf htable _
    have hde : (c.setField F.LOOP_FTIDX_TABLE (b.fld F.LOOP_FTIDX_TABLE + 1)).fld F.LOOP_FTIDX_ENTRY = c.fld F.LOOP_FTIDX_ENTRY :=
      fld_setField_apart (g := F.LOOP_FTIDX_ENTRY) hc.wf htable rfl (by decide) _
    have hfull := beq_iff_eq.1 hlast
    rw [Block.ftIndex, Block.ftIndex, hdt, hde, hce]
    omega
  case more =>
    have hbelow : b.fld F.LOOP_FTIDX_ENTRY ≠ 1023 := bne_iff_ne.1 (by simpa using hmore)
    show c.ftIndex = _
    rw [Block.ftIndex, Block.ftIndex, hct, hce]
    omega

/-- What block `d` shows of `v` written to LOOP_FTDATA in block `b`. -/
structure EntryStored (v : Nat) (b d : Block) : Prop where
  table : d.u.loop.ft = ftStored b.ftIndex v b.u.loop.ft
  index : d.ftIndex = if b.fld F.LOOP_FTIDX_AINC = 1 then (b.ftIndex + 1) % 16384 else b.ftIndex
  regs : ∀ a, a ∉ [R.LOOP_FTIDX] → d.regs.get a = b.regs.get a

theorem ends_ftWrite {b : Block} (hb : b.regs.wf = true) (new : Word) : Ends (ftWrite new) b fun _ d => EntryStored (new.toNat % 65536) b d := by
  let c := b.withU { b.u with loop := { b.u.loop with ft := ftStored b.ftIndex (new.toNat % 65536) b.u.loop.ft } }
  have hbit : b.fld F.LOOP_FTIDX_AINC < 2 ^ 1 := fld_lt b _
  refine ends_then (gives_gf _ b) (ends_then (gives_gf _ b) (ends_then (gives_bf _ b) (ends_then (gives_ftPut b.ftIndex _ b)
    (ends_onlyIf (fun hinc => ?on) fun hinc => ⟨rfl, ?off, fun _ _ => rfl⟩))))
  case on =>
    have hone : b.fld F.LOOP_FTIDX_AINC = 1 := by
      have hset : b.fld F.LOOP_FTIDX_AINC ≠ 0 := bne_iff_ne.1 hinc
      omega
    refine ends_mono (ends_ftSteps (b := c) hb) fun _ d ⟨hd, hindex⟩ => ⟨?_, ?_, fun a ha => hd.reg fun _ e => ha (by simp [e])⟩
    · exact congrArg (fun u : Units => u.loop.ft) hd.units
    · rw [if_pos hone]
      exact hindex
  case off =>
    have hzero : b.fld F.LOOP_FTIDX_AINC = 0 := by simpa [Block.fld] using hinc
    rw [if_neg (by omega)]
    rfl

/-- A write of the whole of LOOP_FTDATA stores the entry that LOOP_FTIDX names (R236). -/
theorem ends_ftdataWrite {b : Block} (hb : b.regs.wf = true) (src : Src) {w : Word} (hw : w.toNat / 65536 = 0xFFFF) :
    Ends (opWrite src R.LOOP_FTDATA w) b fun _ d => EntryStored (w.toNat % 65536) b d := by
  have hview : ∃ old, Gives (regView ftdataRow 0 R.LOOP_FTDATA) b old b := ⟨_, fun _ => rfl⟩
  obtain ⟨old, hview⟩ := hview
  have hnew : (mergeWord ftdataRow old w).toNat % 65536 = w.toNat % 65536 := merge_set (r := ftdataRow) rfl ⟨0, 15, 0⟩ (by rw [hw]; decide) (by decide)
  refine ends_engineWrite (r := ftdataRow) (i := 0) rfl rfl (by decide) rfl hview (by omega) (Nat.and_zero _)
    (ends_mono (ends_ftWrite (b := b.mended R.LOOP_FTDATA) hb (mergeWord ftdataRow old w)) fun _ d hd => ?_)
  rw [hnew] at hd
  exact ⟨hd.table, hd.index, hd.regs⟩

/-! ### The engine's load (R246) -/

theorem held_load : F.LOOP_LOAD_LAST.Held ∧ F.LOOP_LOAD_PEAK.Held := by decide

/-- A whole number of 0.01 % is shown as it is, up to the register's top. -/
theorem loadShare_whole {ns : Nat} (h : ns % 100000 = 0) : loadShare ns = min (ns / 100000) 0xFFFF := by
  have hquot : quot (ns : Int) 100000 = ((ns / 100000 : Nat) : Int) := by
    rw [quot, if_neg (by decide), if_pos (by omega)]
    rfl
  rw [loadShare, hquot, Int.toNat_natCast]

/-- A property of every busy time, and of 0, is one of each second's. -/
theorem busyIn_of_all {l : LoopS} {p : Nat → Prop} (h0 : p 0) (h : ∀ x ∈ l.busy, p x.2) (k : Nat) : p (l.busyIn k) := by
  unfold LoopS.busyIn
  cases hf : l.busy.find? fun x => x.1 = k with
  | none => exact h0
  | some x => exact h x (List.mem_of_find?_eq_some hf)

/-- The data of the engine once the seconds before `k` are shown. -/
def LoopS.shownTo (l : LoopS) (k : Nat) : LoopS := { l with loadN := k, busy := l.busy.filter fun x => k ≤ x.1 }

/-- The busy times of the seconds not yet shown stay. -/
theorem busyIn_shownTo (l : LoopS) {k j : Nat} (h : k ≤ j) : (l.shownTo k).busyIn j = l.busyIn j := by
  have hfind : (l.busy.filter fun x => k ≤ x.1).find? (fun x => x.1 = j) = l.busy.find? fun x => x.1 = j := by
    rw [List.find?_filter]
    refine congrArg (fun q => l.busy.find? q) (funext fun x => ?_)
    by_cases hx : x.1 = j
    · simp [hx, h]
    · simp [hx]
  exact congrArg (fun o : Option (Nat × Nat) => (o.map (·.2)).getD 0) hfind

/-- The largest share among the seconds before `k`, and no less than `peak`. -/
def LoopS.peakTo (l : LoopS) (k peak : Nat) : Nat := (l.busy.filter fun x => x.1 < k).foldl (fun a x => max a (loadShare x.2)) peak

/-- The block once second `k` has ended and is shown. -/
def Block.loadShown (b : Block) (k : Nat) : Block :=
  ((b.withU { b.u with loop := b.u.loop.shownTo (k + 1) }).setField F.LOOP_LOAD_LAST (loadShare (b.u.loop.busyIn k))).setField F.LOOP_LOAD_PEAK
    (b.u.loop.peakTo (k + 1) (b.fld F.LOOP_LOAD_PEAK))

/-- Second `k` has ended, is the first that is not shown, and no later one has ended. -/
abbrev LoadDue (b : Block) (k : Nat) : Prop :=
  b.u.loop.loadN = k ∧ b.u.loop.loadAt + (k + 1) * 1000000000 ≤ b.u.elapsed ∧ b.u.elapsed < b.u.loop.loadAt + (k + 2) * 1000000000

/-- The load of a second that ends is shown. -/
theorem gives_loadUpdate_due {b : Block} {k : Nat} (h : LoadDue b k) : Gives opLoopLoadUpdate b () (b.loadShown k) := by
  obtain ⟨hn, hended, hlast⟩ := h
  have hk : (b.u.elapsed - b.u.loop.loadAt) / 1000000000 = k + 1 := by omega
  refine gives_bind (gives_now b) (gives_bind (gives_bind (gives_units b) (gives_pure _ b)) (gives_bind (gives_gf _ b) ?_))
  rw [hk]
  exact gives_onlyIf_true (decide_eq_true (by omega)) (gives_bind (gives_modLoop b _) (gives_bind (gives_setField _ _ _) (gives_setField _ _ _)))

/-- Before the end of the second nothing is shown. -/
theorem gives_loadUpdate_early {b : Block} (h : b.u.elapsed < b.u.loop.loadAt + (b.u.loop.loadN + 1) * 1000000000) : Gives opLoopLoadUpdate b () b :=
  gives_bind (gives_now b) (gives_bind (gives_bind (gives_units b) (gives_pure _ b)) (gives_bind (gives_gf _ b)
    (gives_onlyIf_false (decide_eq_false (by omega)))))

theorem loadShown_regs (b : Block) (k : Nat) {a : Nat} (ha : a ∉ [R.LOOP_LOAD]) : (b.loadShown k).regs.get a = b.regs.get a := by
  have hne : a ≠ R.LOOP_LOAD := by simpa using ha
  exact (setField_get_ne _ F.LOOP_LOAD_PEAK _ hne).trans (setField_get_ne _ F.LOOP_LOAD_LAST _ hne)

section
variable {b : Block} (hb : b.regs.wf = true) (k : Nat)
include hb

theorem loadShown_last : (b.loadShown k).fld F.LOOP_LOAD_LAST = loadShare (b.u.loop.busyIn k) := by
  obtain ⟨hlast, hpeak⟩ := held_load
  let c := b.withU { b.u with loop := b.u.loop.shownTo (k + 1) }
  have hc : c.regs.wf = true := hb
  refine (fld_setField_apart (g := F.LOOP_LOAD_LAST) (setField_wf hc _ _) hpeak rfl (by decide) _).trans ((fld_setField hc hlast _).trans ?_)
  exact Nat.mod_eq_of_lt (Nat.lt_of_le_of_lt (Nat.min_le_right _ _) (show 0xFFFF < 2 ^ 16 by decide))

theorem loadShown_peak {p : Nat} (hp : b.u.loop.peakTo (k + 1) (b.fld F.LOOP_LOAD_PEAK) = p) (hlt : p < 2 ^ 16) :
    (b.loadShown k).fld F.LOOP_LOAD_PEAK = p := by
  rw [← hp] at hlt ⊢
  exact (fld_setField (setField_wf (by exact hb) _ _) held_load.2 _).trans (Nat.mod_eq_of_lt hlt)

end

/-! ### The statement -/

/-- Settles O18: a write of a control register stores its word and starts or stops what it names; the load of a second is shown once it has ended. -/
theorem loopControls : Obligations.LoopControls := by
  unfold Obligations.LoopControls
  refine ⟨?start, ?stop, ?arm, ?force, ?traceStop, ?ftdata, ?last, ?peak, ?early⟩
  case start =>
    rintro s src i hl hb ⟨-, -, hgens⟩ hi hwas ht hn
    refine does_of_ends (m := onlyIf (decide (i < 4)) (opWrite src (R.LOOP_INJCTL i) topSetWord)) rfl hl (ends_onlyIf_true (decide_eq_true hi)
      (ends_mono (ends_injectionStart hb hi ht hn src hwas) fun _ d ⟨hd, g, hgen, hg⟩ => ⟨?_, hd.en, hd.slots, hd.regs⟩))
    rw [hgen, setAt_getD_same _ _ _ _ (by omega), Option.map_some, hg]
    rfl
  case stop =>
    rintro s src i hl hb ⟨-, -, hgens⟩ hi hwas ht hn
    refine does_of_ends (m := onlyIf (decide (i < 4)) (opWrite src (R.LOOP_INJCTL i) runClearWord)) rfl hl (ends_onlyIf_true (decide_eq_true hi)
      (ends_mono (ends_injectionStop hb hi ht hn src hwas) fun _ d ⟨hd, hgen⟩ => ⟨?_, hd.en, hd.slot, hd.regs⟩))
    rw [hgen, setAt_getD_same _ _ _ _ (by omega)]
  case arm => exact fun s src hl hb hwas => does_of_ends (m := opWrite src R.LOOP_TRCCTL topSetWord) rfl hl (ends_traceArm hb src hwas)
  case force =>
    intro s src c hl hb hc harm hstart harmed hseen
    refine does_of_ends (m := opWrite src R.LOOP_TRCCTL 0x40004000) rfl hl (ends_mono (ends_traceForce hb src harm hstart harmed hseen) fun _ d hd =>
      ⟨hd.flag, hd.marks c hc, ?_, hd.rings⟩)
    exact List.all_eq_true.2 fun x hx => beq_iff_eq.2 (hd.left x hx)
  case traceStop => exact fun s src hl hb => does_of_ends (m := opWrite src R.LOOP_TRCCTL runClearWord) rfl hl (ends_traceStop hb src)
  case ftdata =>
    intro s src w hl hb hw
    refine does_of_ends (m := opWrite src R.LOOP_FTDATA w) rfl hl (ends_mono (ends_ftdataWrite hb src hw) fun _ d hd => ⟨?_, fun x hx hk => ?_, hd.index, hd.regs⟩)
    · rw [hd.table]
      exact ftStored_find _ _ _
    · rw [hd.table]
      exact mem_ftStored hx hk
  case last =>
    intro s k hl hb hn hended hbefore hbusy
    refine does_of_onLive (m := opLoopLoadUpdate) rfl hl (gives_loadUpdate_due ⟨hn, hended, hbefore⟩)
      ⟨(loadShown_last hb k).trans (loadShare_whole ?_), rfl, rfl, fun j hj => busyIn_shownTo _ hj, fun _ ha => loadShown_regs _ k ha⟩
    exact busyIn_of_all (p := fun n => n % 100000 = 0) rfl (fun x hx => (hbusy x hx).2) k
  case peak =>
    intro s k d hl hb hn hended hbefore hbusy
    have hshare : loadShare (d * 100000) = min d 0xFFFF := by
      rw [loadShare_whole (Nat.mul_mod_left _ _), Nat.mul_div_cancel _ (by decide)]
    have hpeak : s.dev.u.loop.peakTo (k + 1) (s.dev.fld F.LOOP_LOAD_PEAK) = max (s.fld F.LOOP_LOAD_PEAK) (min d 0xFFFF) := by
      simp only [LoopS.peakTo, hbusy, List.filter_cons, Nat.lt_succ_self, decide_true, if_true, List.filter_nil, List.foldl_cons, List.foldl_nil, hshare]
      rfl
    have hlt : s.dev.fld F.LOOP_LOAD_PEAK < 2 ^ 16 := fld_lt s.dev F.LOOP_LOAD_PEAK
    refine does_of_onLive (m := opLoopLoadUpdate) rfl hl (gives_loadUpdate_due ⟨hn, hended, hbefore⟩) ⟨loadShown_peak hb k hpeak ?_, ?_⟩
    · exact max_lt hlt (by omega)
    · show s.dev.u.loop.busy.filter (fun x => k + 1 ≤ x.1) = []
      rw [hbusy]
      simp
  case early => exact fun s hl hearly => does_of_onLive (m := opLoopLoadUpdate) rfl hl (gives_loadUpdate_early hearly) rfl

end Sys2Proof.Machine
end

section
/-!
PROOF. Proofs/RefutedPairs.lean: the statement about refused changes of VDRV_PAIR fails, by one write that is refused for one pair and forms
another whose odd channel's current still decays.
-/
namespace Sys2Proof.Machine

/-- After a reset, with channel 31 proportional, and the current of channel 1, whose TYPE is off, still decaying. -/
def legDecaysState : State :=
  ((State.reset.storingField (F.VDRV_PROF_TYPE 31) 2).storingField (F.VDRV_CSTAT_PHASE 1) 5).mapUnits
    fun u => { u with vdrv := { u.vdrv with chs := updAt u.vdrv.chs 1 fun c => { c with phase := 5 } } }

/-- The write that sets bits 15 and 0 of VDRV_PAIR, and selects no other. -/
def twoPairsWord : Word := 0x80018001

theorem legDecays_meets : Live legDecaysState ∧ Canon legDecaysState ∧ bitAt (twoPairsWord.toNat / 65536) 15 = true ∧
    bitAt twoPairsWord.toNat 15 ≠ bitAt (legDecaysState.reg R.VDRV_PAIR).toNat 15 ∧
    legDecaysState.fld (F.VDRV_PROF_TYPE (2 * 15 + 1)) ≠ 0 := by decide +kernel

theorem legDecays_phase : (legDecaysState.vch 1).phase = 5 := by decide +kernel

theorem legDecays_taken : shownAfter (fun t => (t.vch 1).phase) (.registerWrite .core R.VDRV_PAIR twoPairsWord) legDecaysState = some 0 := by
  decide +kernel

/-- Refutes O60: the write that is refused for pair 15 forms pair 0, whose even channel takes over the decaying current of the odd one
(R256, R661), and the clause wants the units' data unchanged whatever the write does to other pairs. -/
theorem not_pairChangeRefused : ¬ Obligations.PairChangeRefused := by
  intro h
  unfold Obligations.PairChangeRefused at h
  obtain ⟨hlive, hcanon, hmask, hchange, htype⟩ := legDecays_meets
  obtain ⟨t, ⟨-, -, -, hu, -⟩, hphase⟩ := does_shown
    (h legDecaysState .core twoPairsWord 15 hlive hcanon (by decide) hmask hchange (.inr htype)) legDecays_taken
  rw [State.vch, hu] at hphase
  exact absurd (legDecays_phase.symm.trans hphase) (by decide)

end Sys2Proof.Machine
end

section
/-!
PROOF. Proofs/ValveFacts.lean: what the shared operations of the valve drive do to a channel and to its registers (R249, R265, R271 to R274,
R661): a channel's data, phases, the opening of a switch, and a fault.
-/
namespace Sys2Proof.Machine

/-! ### A channel in the block -/

/-- Valve channel `n` beside its registers. -/
def Block.vch (b : Block) (n : Nat) : ValveCh := b.u.vdrv.chs.getD n {}

/-- The block with valve channel `n` changed. -/
def Block.modVch (b : Block) (n : Nat) (f : ValveCh → ValveCh) : Block :=
  b.withU { b.u with vdrv := { b.u.vdrv with chs := updAt b.u.vdrv.chs n f } }

/-- Channel `n` belongs to a formed pair (R249). -/
def Block.paired (b : Block) (n : Nat) : Bool := bitAt (b.regs.get R.VDRV_PAIR).toNat (n / 2)

/-- The channel whose registers govern channel `n`. -/
def Block.governs (b : Block) (n : Nat) : Nat := if b.paired n then n - n % 2 else n

/-- The register file is canonical, and the drive holds its 32 channels. -/
structure Block.Drive (b : Block) : Prop where
  wf : b.regs.wf = true
  whole : b.u.vdrv.chs.length = 32

theorem gives_vch (n : Nat) (b : Block) : Gives (getVch n) b (b.vch n) b := gives_getVch b n
theorem gives_vchMod (n : Nat) (f : ValveCh → ValveCh) (b : Block) : Gives (modVch n f) b () (b.modVch n f) := gives_modVch b n f
theorem gives_paired (n : Nat) (b : Block) : Gives (paired n) b (b.paired n) b := gives_gbit _ _ b
theorem gives_governs (n : Nat) (b : Block) : Gives (governs n) b (b.governs n) b := gives_bind (gives_paired n b) (gives_pure _ b)

@[simp] theorem modVch_regs (b : Block) (n : Nat) (f : ValveCh → ValveCh) : (b.modVch n f).regs = b.regs := rfl
@[simp] theorem setField_vch (b : Block) (f : RF) (v n : Nat) : (b.setField f v).vch n = b.vch n := rfl
@[simp] theorem setReg_vch (b : Block) (a : Nat) (w : Word) (n : Nat) : (b.setReg a w).vch n = b.vch n := rfl
@[simp] theorem modVch_fld (b : Block) (n : Nat) (f : ValveCh → ValveCh) (g : RF) : (b.modVch n f).fld g = b.fld g := rfl

theorem modVch_same {b : Block} (hb : b.Drive) {n : Nat} (hn : n < 32) (f : ValveCh → ValveCh) : (b.modVch n f).vch n = f (b.vch n) :=
  updAt_getD_same b.u.vdrv.chs n f {} (by rw [hb.whole]; exact hn)

theorem modVch_ne (b : Block) {n k : Nat} (h : k ≠ n) (f : ValveCh → ValveCh) : (b.modVch n f).vch k = b.vch k :=
  updAt_getD_ne b.u.vdrv.chs f {} h

theorem modVch_drive {b : Block} (hb : b.Drive) (n : Nat) (f : ValveCh → ValveCh) : (b.modVch n f).Drive :=
  ⟨hb.wf, (updAt_length _ _ _).trans hb.whole⟩

theorem setField_drive {b : Block} (hb : b.Drive) (f : RF) (v : Nat) : (b.setField f v).Drive := ⟨setField_wf hb.wf f v, hb.whole⟩

theorem setReg_drive {b : Block} (hb : b.Drive) (a : Nat) (w : Word) : (b.setReg a w).Drive := ⟨setReg_wf hb.wf a w, hb.whole⟩

theorem governs_self {b : Block} {n : Nat} (h : b.paired n = false ∨ n % 2 = 0) : b.governs n = n := by
  unfold Block.governs
  rcases h with h | h
  · rw [h]
    rfl
  · rw [h, Nat.sub_zero, ite_self]

theorem governs_odd {b : Block} {n : Nat} (h : b.paired n = true) (hn : n % 2 = 1) : b.governs n = n - 1 := by
  rw [Block.governs, h, hn]
  rfl

/-! ### Frames of the valve drive -/

/-- The units' data but for what sending changes, with what `view` shows of each valve channel. -/
def valveKeep {β : Type} (view : Nat → ValveCh → β) (u : Units) : Units × Nat × (Nat → β) :=
  ({ linkKeep u with free := 0, vdrv := { u.vdrv with chs := [] } }, u.vdrv.chs.length, fun k => view k (u.vdrv.chs.getD k {}))

/-- Every channel but channel `n`. -/
def othersView (n k : Nat) (c : ValveCh) : Option ValveCh := if k = n then none else some c

theorem othersView_same (n : Nat) (c d : ValveCh) : othersView n n c = othersView n n d := by simp [othersView]

section
variable {β : Type} {T : Nat → Nat → Prop} {view : Nat → ValveCh → β} {b c : Block} (h : Within T (valveKeep view) b c)
include h

theorem Within.vch (n : Nat) : view n (c.vch n) = view n (b.vch n) := congrFun (congrArg (fun x => x.2.2) h.units) n

theorem Within.drive (hb : b.Drive) : c.Drive := ⟨h.wf, (congrArg (fun x => x.2.1) h.units).trans hb.whole⟩

theorem Within.elapsed : c.u.elapsed = b.u.elapsed := congrArg (fun x => x.1.elapsed) h.units

theorem Within.tickAt : c.u.vdrv.tickAt = b.u.vdrv.tickAt := congrArg (fun x => x.1.vdrv.tickAt) h.units

end

theorem Within.other {n k : Nat} {T : Nat → Nat → Prop} {b c : Block} (h : Within T (valveKeep (othersView n)) b c) (hk : k ≠ n) : c.vch k = b.vch k := by
  have := h.vch k
  simpa [othersView, hk] using this

theorem Within.frameFld {β : Type} {T : Nat → Nat → Prop} {keep : Units → β} {b c : Block} (h : Within T keep b c) {f : RF}
    (hf : ∀ j, f.lo ≤ j → j ≤ f.hi → ¬ T f.reg j) : c.fld f = b.fld f := h.fld f hf

theorem valveKeep_link {β : Type} {view : Nat → ValveCh → β} {u v : Units} (h : linkKeep u = linkKeep v) : valveKeep view u = valveKeep view v := by
  have hv : (linkKeep u).vdrv = (linkKeep v).vdrv := congrArg Units.vdrv h
  have hv : u.vdrv = v.vdrv := hv
  simp only [valveKeep, h, hv]

/-! ### Registers of the drive -/

/-- The status fields of each channel are held whole. -/
theorem held_channel : ∀ n < 32, (F.VDRV_CSTAT_PHASE n).Held ∧ (F.VDRV_CSTAT_THLIM n).Held ∧ (F.VDRV_CSTAT_SUPPLY n).Held ∧ (F.VDRV_CSTAT_CDMISS n).Held ∧
    (F.VDRV_CSTAT_CLOSED n).Held ∧ (F.VDRV_CSTAT_DEFER n).Held ∧ (F.VDRV_FAULT_CODE n).Held ∧ (F.VDRV_FAULT_LEG n).Held ∧ (RF.mk R.VDRV_FLTMAP n n).Held := by
  decide

theorem held_measured : ∀ n < 32, (F.VDRV_MEAS_I n).Held ∧ (F.VDRV_MEAS_DUTY n).Held ∧ (F.VDRV_CLOSET_T n).Held ∧ (F.VDRV_RMEAS_R n).Held ∧
    (F.VDRV_CMD_ON n).Held := by decide

theorem held_drive : F.VDRV_STAT_DEFER.Held ∧ F.VDRV_STAT_SUPPLY.Held ∧ F.VDRV_STAT_CDMISS.Held ∧ F.VDRV_STAT_OPEN.Held ∧ F.VDRV_STAT_SHORT.Held ∧
    F.VDRV_STAT_COILHOT.Held ∧ F.VDRV_DEFERCNT_CNT.Held ∧ F.VDRV_TAMBV_TA.Held ∧ F.VDRV_CTL_EN.Held := by decide

theorem held_vcoil : ∀ k < 4, (F.VDRV_VCOIL_V k).Held ∧ (F.VDRV_VCOIL_UV k).Held ∧ (F.VDRV_VCOIL_OV k).Held := by decide

theorem held_phase {n : Nat} (hn : n < 32) : (F.VDRV_CSTAT_PHASE n).Held := (held_channel n hn).1

/-- Where a channel's phase shows: the odd channel of a pair shows the even one's. -/
abbrev phaseBits (n a j : Nat) : Prop := (a = R.VDRV_CSTAT n ∨ a = R.VDRV_CSTAT (n + 1)) ∧ 13 ≤ j ∧ j ≤ 15

/-- Where a fault of channel `n` shows, and what tells of it. -/
abbrev faultShown (n a j : Nat) : Prop :=
  phaseBits n a j ∨ a = R.VDRV_FAULT n ∨ (a = R.VDRV_FLTMAP ∧ j = n) ∨ (a = R.VDRV_STAT ∧ j ≤ 2) ∨ linkBits a j

/-- What is left of a channel whose switch opened (R265). -/
def ValveCh.off (c : ValveCh) : ValveCh :=
  { c with duty := 0, target := 0, waitFall := false, openRun := 0, steady := 0, left := 0, ran := {} }

/-- A channel in phase `ph`. -/
def ValveCh.inPhase (c : ValveCh) (ph : Nat) : ValveCh := { c with phase := ph }

/-! ### What phases, openings and faults keep -/

section
variable {β : Type} {T : Nat → Nat → Prop} {view : Nat → ValveCh → β} {S : Prop} {b0 : Block} {n : Nat}

theorem keeps_vchMod {f : ValveCh → ValveCh} (hv : ∀ c, view n (f c) = view n c) : Keeps S (Within T (valveKeep view) b0) (modVch n f) := by
  refine within_modU fun u => ?_
  have hch : ∀ k, view k ((updAt u.vdrv.chs n f).getD k {}) = view k (u.vdrv.chs.getD k {}) := fun k => by
    by_cases hk : k = n
    · subst hk
      exact updAt_view hv k
    · rw [updAt_getD_ne _ _ _ hk]
  simp only [valveKeep, updAt_length, hch]
  rfl

theorem keeps_getVch {P : Block → Prop} (n : Nat) : Keeps S P (getVch n) := keeps_bind keeps_units fun _ => keeps_pure _

theorem keeps_paired {P : Block → Prop} (n : Nat) : Keeps S P (paired n) := keeps_gbit _ _

theorem keeps_governs {P : Block → Prop} (n : Nat) : Keeps S P (governs n) := keeps_bind (keeps_paired n) fun _ => keeps_pure _

theorem keeps_valveFree : Keeps S (Within T (valveKeep view) b0) free := keeps_free fun _ => rfl

variable (hphase : ∀ (c : ValveCh) x, view n (c.inPhase x) = view n c)
include hphase

theorem keeps_valvePhase (hT : ∀ a j, phaseBits n a j → T a j) (ph : Nat) : Keeps S (Within T (valveKeep view) b0) (valvePhase n ph) :=
  keeps_bind (keeps_paired n) fun _ => keeps_bind (keeps_vchMod fun c => hphase c ph) fun _ =>
    keeps_bind (within_sf (show 13 ≤ 15 by decide) (show 15 < 32 by decide) fun j h0 h1 => hT _ j ⟨.inl rfl, h0, h1⟩) fun _ =>
      keeps_onlyIf fun _ => within_sf (show 13 ≤ 15 by decide) (show 15 < 32 by decide) fun j h0 h1 => hT _ j ⟨.inr rfl, h0, h1⟩

variable (hoff : ∀ c : ValveCh, view n c.off = view n c)
include hoff

theorem keeps_valveOpen (hT : ∀ a j, phaseBits n a j → T a j) : Keeps S (Within T (valveKeep view) b0) (valveOpen n) :=
  keeps_bind (keeps_getVch n) fun _ => keeps_bind (keeps_onlyIf fun _ => keeps_valvePhase hphase hT 5) fun _ => keeps_vchMod hoff

theorem keeps_valveFault (hn : n < 32) (hT : ∀ a j, faultShown n a j → T a j) (code leg : Nat) :
    Keeps False (Within T (valveKeep view) b0) (valveFault n code leg) := by
  have hopen : ∀ a j, phaseBits n a j → T a j := fun a j h => hT a j (.inl h)
  have hfault : ∀ (f : RF) (v : Nat), f.reg = R.VDRV_FAULT n → f.lo ≤ f.hi → f.hi < 32 → Keeps False (Within T (valveKeep view) b0) (sf f v) :=
    fun f v hreg hlo hhi => within_sf hlo hhi fun j _ _ => hT _ j (.inr (.inl hreg))
  have hmap : Keeps False (Within T (valveKeep view) b0) (sbit R.VDRV_FLTMAP n true) :=
    within_sb (Nat.le_refl n) hn fun j h0 h1 => hT _ j (.inr (.inr (.inl ⟨rfl, Nat.le_antisymm h1 h0⟩)))
  have hstat : ∀ i ≤ 2, Keeps False (Within T (valveKeep view) b0) (sb ⟨R.VDRV_STAT, i, i⟩ true) := fun i hi =>
    within_sb (Nat.le_refl i) (Nat.lt_of_le_of_lt hi (by decide)) fun j _ h1 => hT _ j (.inr (.inr (.inr (.inl ⟨rfl, Nat.le_trans h1 hi⟩))))
  have hraise : Keeps False (Within T (valveKeep view) b0) (raise Ev.vdrvFault [BitVec.ofNat 8 n, BitVec.ofNat 8 code]) :=
    within_link (fun _ => link_raise _ _) (fun a j h => hT a j (.inr (.inr (.inr (.inr h))))) fun _ _ => valveKeep_link
  have hrest := keeps_bind (keeps_valveOpen (b0 := b0) hphase hoff hopen) fun _ => keeps_bind (keeps_valvePhase hphase hopen 6) fun _ => hraise
  have hstat : ∀ i ≤ 2, Keeps False (Within T (valveKeep view) b0) (sb ⟨R.VDRV_STAT, i, i⟩ true >>= fun _ => do
      valveOpen n
      valvePhase n 6
      raise Ev.vdrvFault [BitVec.ofNat 8 n, BitVec.ofNat 8 code]) := fun i hi => keeps_bind (hstat i hi) fun _ => hrest
  refine keeps_bind (keeps_gf _) fun held => keeps_ite (fun _ => keeps_pure ()) fun _ => ?_
  refine keeps_bind (hfault (F.VDRV_FAULT_CODE n) code rfl (Nat.zero_le 7) (show 7 < 32 by decide)) fun _ =>
    keeps_bind (hfault (F.VDRV_FAULT_LEG n) leg rfl (Nat.le_refl 8) (show 8 < 32 by decide)) fun _ => keeps_bind hmap fun _ => ?_
  exact keeps_ite (fun _ => hstat 1 (by decide)) fun _ => keeps_ite (fun _ => hstat 2 (by decide)) fun _ => hstat 0 (by decide)

end

/-! ### Phases (R661) -/

/-- What block `c` shows of channel `n` brought to phase `ph` in block `b`. -/
structure Phased (n ph : Nat) (b c : Block) : Prop where
  ch : c.vch n = (b.vch n).inPhase ph
  shown : c.fld (F.VDRV_CSTAT_PHASE n) = ph % 8
  pair : b.paired n = true → n % 2 = 0 → c.fld (F.VDRV_CSTAT_PHASE (n + 1)) = ph % 8
  kept : Within (phaseBits n) (valveKeep (othersView n)) b c

theorem cstat_ne_next (n : Nat) : R.VDRV_CSTAT n ≠ R.VDRV_CSTAT (n + 1) := by
  simp only [R.VDRV_CSTAT]
  omega

theorem ends_valvePhase {b : Block} (hb : b.Drive) {n : Nat} (hn : n < 32) (ph : Nat) : Ends (valvePhase n ph) b fun _ c => Phased n ph b c := by
  have hkept : Ends (valvePhase n ph) b fun _ c => Within (phaseBits n) (valveKeep (othersView n)) b c :=
    ends_of_keeps (keeps_valvePhase (fun _ _ => othersView_same n _ _) (fun _ _ => id) ph) (within_refl hb.wf)
  refine ends_mono (ends_and (P := fun _ c => c.vch n = (b.vch n).inPhase ph ∧ c.fld (F.VDRV_CSTAT_PHASE n) = ph % 8 ∧
    (b.paired n = true → n % 2 = 0 → c.fld (F.VDRV_CSTAT_PHASE (n + 1)) = ph % 8)) ?_ hkept) fun _ c ⟨⟨hch, hshown, hpair⟩, hk⟩ => ⟨hch, hshown, hpair, hk⟩
  have hch := modVch_same hb hn fun c => c.inPhase ph
  have hwf : ((b.modVch n fun c => c.inPhase ph).setField (F.VDRV_CSTAT_PHASE n) ph).regs.wf = true := setField_wf hb.wf _ _
  refine ends_then (gives_paired n b) (ends_then (gives_vchMod n _ b) (ends_then (gives_setField _ ph _) (ends_onlyIf (fun hp => ?_) fun hp => ?_)))
  · simp only [Bool.and_eq_true, beq_iff_eq] at hp
    obtain ⟨-, heven⟩ := hp
    refine ends_of_gives (gives_setField _ ph _) ⟨hch, ?_, fun _ _ => fld_setField hwf (held_phase (by omega)) ph⟩
    rw [fld_setField_ne _ (cstat_ne_next n)]
    exact fld_setField hb.wf (held_phase hn) ph
  · refine ⟨hch, fld_setField hb.wf (held_phase hn) ph, fun h1 h2 => ?_⟩
    rw [h1, h2] at hp
    exact absurd hp (by decide)

/-! ### A switch opens (R265) -/

/-- A channel whose profile ran decays. -/
def ValveCh.decays (c : ValveCh) : Nat := if 1 ≤ c.phase ∧ c.phase ≤ 4 then 5 else c.phase

/-- What block `c` shows of the switch of channel `n` opened in block `b`. -/
structure Opened (n : Nat) (b c : Block) : Prop where
  ch : c.vch n = (b.vch n).off.inPhase (b.vch n).decays
  shown : 1 ≤ (b.vch n).phase → (b.vch n).phase ≤ 4 → c.fld (F.VDRV_CSTAT_PHASE n) = 5
  pair : 1 ≤ (b.vch n).phase → (b.vch n).phase ≤ 4 → b.paired n = true → n % 2 = 0 → c.fld (F.VDRV_CSTAT_PHASE (n + 1)) = 5
  kept : Within (phaseBits n) (valveKeep (othersView n)) b c

theorem within_modVch {T : Nat → Nat → Prop} {b : Block} (hb : b.Drive) (n : Nat) (f : ValveCh → ValveCh) :
    Within T (valveKeep (othersView n)) b (b.modVch n f) := by
  obtain ⟨_, c, hc, hg⟩ := keeps_gives_some (keeps_vchMod (S := False) (T := T) (b0 := b) (n := n) (f := f) fun _ => othersView_same n _ _) (within_refl hb.wf)
  rw [gives_unique (gives_vchMod n f b) hg]
  exact hc

theorem ends_valveOpen {b : Block} (hb : b.Drive) {n : Nat} (hn : n < 32) : Ends (valveOpen n) b fun _ c => Opened n b c := by
  refine ends_then (gives_vch n b) (ends_bind (P := fun _ c => c.vch n = (b.vch n).inPhase (b.vch n).decays ∧
    (1 ≤ (b.vch n).phase → (b.vch n).phase ≤ 4 → Phased n 5 b c) ∧ Within (phaseBits n) (valveKeep (othersView n)) b c) ?_ fun _ c ⟨hch, hphase, hk⟩ => ?_)
  · refine ends_onlyIf (fun hp => ?_) fun hp => ?_
    · simp only [Bool.and_eq_true, decide_eq_true_eq] at hp
      refine ends_mono (ends_valvePhase hb hn 5) fun _ c hc => ⟨?_, fun _ _ => hc, hc.kept⟩
      rw [hc.ch, ValveCh.decays, if_pos hp]
    · have hp' : ¬(1 ≤ (b.vch n).phase ∧ (b.vch n).phase ≤ 4) := by simpa [Bool.and_eq_true] using hp
      refine ⟨?_, fun h1 h2 => absurd ⟨h1, h2⟩ hp', within_refl hb.wf⟩
      rw [ValveCh.decays, if_neg hp']
      rfl
  · have hc := hk.drive hb
    refine ends_of_gives (gives_vchMod n _ c) ⟨?_, fun h1 h2 => (hphase h1 h2).shown, fun h1 h2 => (hphase h1 h2).pair,
      hk.trans (within_modVch hc n _)⟩
    rw [modVch_same hc hn, hch]
    rfl

/-! ### A fault latches (R271 to R274) -/

/-- A bit stored in a register. -/
theorem bit_setField {b : Block} (h : b.regs.wf = true) {a i : Nat} (hf : (RF.mk a i i).Held) (v : Bool) :
    bitAt ((b.setField ⟨a, i, i⟩ (bit v)).regs.get a).toNat i = v := by
  have hset : (RF.mk a i i).of ((b.setField ⟨a, i, i⟩ (bit v)).regs.get a) = bit v % 2 ^ (i + 1 - i) := setField_of_same h hf (bit v)
  rw [← of_bit_ne_zero, hset, Nat.add_sub_cancel_left]
  cases v <;> rfl

/-- The registers show fault `kind` of leg `leg` latched by channel `n`. -/
structure FaultRead (n kind leg : Nat) (c : Block) : Prop where
  code : c.fld (F.VDRV_FAULT_CODE n) = kind % 256
  leg : c.fld (F.VDRV_FAULT_LEG n) = leg % 2
  map : bitAt (c.regs.get R.VDRV_FLTMAP).toNat n = true
  short : kind ≤ 3 → c.fld F.VDRV_STAT_SHORT = 1
  opened : kind = 4 → c.fld F.VDRV_STAT_OPEN = 1

/-- What opens a switch and sends leaves a latched fault as it shows. -/
theorem FaultRead.kept {n kind leg : Nat} {c d : Block} (h : FaultRead n kind leg c) (hn : n < 32) {T : Nat → Nat → Prop} {β : Type}
    {keep : Units → β} (hk : Within T keep c d) (hT : ∀ a j, T a j → phaseBits n a j ∨ linkBits a j) : FaultRead n kind leg d := by
  have hout : ∀ a ∈ [R.VDRV_FAULT n, R.VDRV_FLTMAP, R.VDRV_STAT], ∀ j, ¬ T a j := fun a ha j hbit => by
    have := hT a j hbit
    simp only [List.mem_cons, List.not_mem_nil, or_false] at ha
    rcases ha with rfl | rfl | rfl <;>
      (simp only [phaseBits, linkBits, window, linkWindows, R.VDRV_FAULT, R.VDRV_FLTMAP, R.VDRV_STAT, R.VDRV_CSTAT, List.mem_cons, List.not_mem_nil, or_false] at this; omega)
  have hfld : ∀ f : RF, f.reg ∈ [R.VDRV_FAULT n, R.VDRV_FLTMAP, R.VDRV_STAT] → d.fld f = c.fld f := fun f hf => hk.frameFld fun j _ _ => hout _ hf j
  refine ⟨(hfld (F.VDRV_FAULT_CODE n) ?_).trans h.code, (hfld (F.VDRV_FAULT_LEG n) ?_).trans h.leg, ?_, fun hs => (hfld F.VDRV_STAT_SHORT ?_).trans (h.short hs),
    fun ho => (hfld F.VDRV_STAT_OPEN ?_).trans (h.opened ho)⟩
  · exact List.mem_cons_self
  · exact List.mem_cons_self
  · rw [hk.bit _ _ (hout _ (by simp) n)]
    exact h.map
  · simp [F.VDRV_STAT_SHORT]
  · simp [F.VDRV_STAT_OPEN]

/-- The block with a fault's code, leg and map bit stored. -/
def Block.faultStored (b : Block) (n kind leg : Nat) : Block :=
  ((b.setField (F.VDRV_FAULT_CODE n) kind).setField (F.VDRV_FAULT_LEG n) leg).setField ⟨R.VDRV_FLTMAP, n, n⟩ (bit true)

theorem faultStored_read {b : Block} (hb : b.Drive) {n kind leg : Nat} (hn : n < 32) {i : Nat} (hi : i ≤ 2) (hs : kind ≤ 3 → i = 1) (ho : kind = 4 → i = 2) :
    FaultRead n kind leg ((b.faultStored n kind leg).setField ⟨R.VDRV_STAT, i, i⟩ (bit true)) := by
  obtain ⟨-, -, -, -, -, -, hcode, hleg, hmap⟩ := held_channel n hn
  have hwf1 := setField_wf hb.wf (F.VDRV_FAULT_CODE n) kind
  have hwf2 := setField_wf hwf1 (F.VDRV_FAULT_LEG n) leg
  have hwf3 : (b.faultStored n kind leg).regs.wf = true := setField_wf hwf2 _ _
  have hflt : R.VDRV_FAULT n ≠ R.VDRV_FLTMAP := by simp only [R.VDRV_FAULT, R.VDRV_FLTMAP]; omega
  have hstat : R.VDRV_FAULT n ≠ R.VDRV_STAT := by simp only [R.VDRV_FAULT, R.VDRV_STAT]; omega
  have hflag : ∀ i < 3, (RF.mk R.VDRV_STAT i i).Held := by decide
  refine ⟨?_, ?_, ?_, fun hk => ?_, fun hk => ?_⟩
  · rw [fld_setField_ne _ hstat, Block.faultStored, fld_setField_ne _ hflt, fld_setField_apart hwf1 hleg (g := F.VDRV_FAULT_CODE n) rfl (.inl (show 7 < 8 by decide))]
    exact fld_setField hb.wf hcode kind
  · rw [fld_setField_ne _ hstat, Block.faultStored, fld_setField_ne _ hflt]
    exact fld_setField hwf1 hleg leg
  · rw [setField_get_ne _ _ _ (show R.VDRV_FLTMAP ≠ R.VDRV_STAT by decide)]
    exact bit_setField hwf2 hmap true
  · obtain rfl := hs hk
    exact fld_setField hwf3 (hflag 1 (by decide)) 1
  · obtain rfl := ho hk
    exact fld_setField hwf3 (hflag 2 (by decide)) 1

/-- What block `c` shows of fault `kind` latched by channel `n` in block `b`. -/
structure Faulted (n kind leg : Nat) (b c : Block) : Prop where
  read : FaultRead n kind leg c
  shown : c.fld (F.VDRV_CSTAT_PHASE n) = 6
  pair : b.paired n = true → n % 2 = 0 → c.fld (F.VDRV_CSTAT_PHASE (n + 1)) = 6
  ch : c.vch n = (b.vch n).off.inPhase 6
  kept : Within (faultShown n) (valveKeep (othersView n)) b c

/-- A switch opens for a fault that is latched, and the event is told. -/
theorem ends_faultOpens {b : Block} (hb : b.Drive) {n kind leg : Nat} (hn : n < 32) (hread : FaultRead n kind leg b) (data : List Byte) :
    Ends (do valveOpen n; valvePhase n 6; raise Ev.vdrvFault data) b fun _ c => FaultRead n kind leg c ∧ c.fld (F.VDRV_CSTAT_PHASE n) = 6 ∧
      (b.paired n = true → n % 2 = 0 → c.fld (F.VDRV_CSTAT_PHASE (n + 1)) = 6) ∧ c.vch n = (b.vch n).off.inPhase 6 := by
  refine ends_bind (ends_valveOpen hb hn) fun _ c hc => ends_bind (ends_valvePhase (hc.kept.drive hb) hn 6) fun _ d hd => ?_
  have hpaired : c.paired n = b.paired n := by
    rw [Block.paired, Block.paired, hc.kept.reg fun j => by simp only [phaseBits, R.VDRV_PAIR, R.VDRV_CSTAT]; omega]
  refine ends_mono (ends_link (fun _ => link_raise _ _) hd.kept.wf) fun _ e he => ?_
  have hlink : Within (T := linkBits) (keep := valveKeep fun _ c => c) d e := he.mono (fun _ _ => id) fun _ _ => valveKeep_link
  have hphase : ∀ k < 33, e.fld (F.VDRV_CSTAT_PHASE k) = d.fld (F.VDRV_CSTAT_PHASE k) := fun k hk => he.frameFld fun j _ _ => by
    simp only [linkBits, window, linkWindows, F.VDRV_CSTAT_PHASE, R.VDRV_CSTAT, List.mem_cons, List.not_mem_nil, or_false]
    omega
  refine ⟨((hread.kept hn hc.kept fun _ _ => .inl).kept hn hd.kept fun _ _ => .inl).kept hn he fun _ _ => .inr,
    (hphase n (by omega)).trans hd.shown, fun hp he => (hphase (n + 1) (by omega)).trans (hd.pair (hpaired.trans hp) he), ?_⟩
  rw [hlink.vch n, hd.ch, hc.ch]
  rfl

theorem ends_valveFault {b : Block} (hb : b.Drive) {n : Nat} (hn : n < 32) (hnone : b.fld (F.VDRV_FAULT_CODE n) = 0) (kind leg : Nat) :
    Ends (valveFault n kind leg) b fun _ c => Faulted n kind leg b c := by
  have hkept : Ends (valveFault n kind leg) b fun _ c => Within (faultShown n) (valveKeep (othersView n)) b c :=
    ends_of_keeps (keeps_valveFault (fun _ _ => othersView_same n _ _) (fun _ => othersView_same n _ _) hn (fun _ _ => id) kind leg) (within_refl hb.wf)
  have hopens : ∀ i ≤ 2, (kind ≤ 3 → i = 1) → (kind = 4 → i = 2) →
      Ends (do sb ⟨R.VDRV_STAT, i, i⟩ true; valveOpen n; valvePhase n 6; raise Ev.vdrvFault [BitVec.ofNat 8 n, BitVec.ofNat 8 kind]) (b.faultStored n kind leg)
        fun _ c => FaultRead n kind leg c ∧ c.fld (F.VDRV_CSTAT_PHASE n) = 6 ∧
          (b.paired n = true → n % 2 = 0 → c.fld (F.VDRV_CSTAT_PHASE (n + 1)) = 6) ∧ c.vch n = (b.vch n).off.inPhase 6 := fun i hi hs ho => by
    have hd := setField_drive (setField_drive (setField_drive (setField_drive hb (F.VDRV_FAULT_CODE n) kind) (F.VDRV_FAULT_LEG n) leg)
      ⟨R.VDRV_FLTMAP, n, n⟩ (bit true)) ⟨R.VDRV_STAT, i, i⟩ (bit true)
    have hpaired : ((b.faultStored n kind leg).setField ⟨R.VDRV_STAT, i, i⟩ (bit true)).paired n = b.paired n := by
      have hne : R.VDRV_PAIR ≠ R.VDRV_FAULT n := by simp only [R.VDRV_PAIR, R.VDRV_FAULT]; omega
      rw [Block.paired, Block.paired, setField_get_ne _ _ _ (show R.VDRV_PAIR ≠ R.VDRV_STAT by decide), Block.faultStored,
        setField_get_ne _ _ _ (show R.VDRV_PAIR ≠ R.VDRV_FLTMAP by decide), setField_get_ne _ _ _ hne,
        setField_get_ne _ _ _ hne]
    refine ends_then (gives_sb _ true _) (ends_mono (ends_faultOpens hd hn (faultStored_read hb hn hi hs ho) _) fun _ c ⟨hr, h6, hp, hch⟩ =>
      ⟨hr, h6, fun h => hp (hpaired.trans h), hch⟩)
  refine ends_mono (ends_and (P := fun _ c => FaultRead n kind leg c ∧ c.fld (F.VDRV_CSTAT_PHASE n) = 6 ∧
    (b.paired n = true → n % 2 = 0 → c.fld (F.VDRV_CSTAT_PHASE (n + 1)) = 6) ∧ c.vch n = (b.vch n).off.inPhase 6) ?_ hkept)
    fun _ c ⟨⟨hr, h6, hp, hch⟩, hk⟩ => ⟨hr, h6, hp, hch, hk⟩
  refine ends_then (gives_gf _ b) (ends_ite_neg (not_not.2 hnone) (ends_then (gives_setField _ kind b) (ends_then (gives_setField _ leg _)
    (ends_then (gives_sb _ true _) ?_))))
  change Ends (if kind ≤ 3 then _ else if kind = 4 then _ else _) (b.faultStored n kind leg) _
  split_ifs with h3 h4
  · exact hopens 1 (by decide) (fun _ => rfl) (fun h => by omega)
  · exact hopens 2 (by decide) (fun h => by omega) (fun _ => rfl)
  · exact hopens 0 (by decide) (fun h => by omega) (fun h => by omega)

end Sys2Proof.Machine
end

section
/-!
PROOF. Proofs/ValveFaults.lean: shorts, supplies, the enable and the clearing of faults, and the statement about them (R249, R265, R271, R272,
R274 to R276, R643, R661).
-/
namespace Sys2Proof.Machine

theorem gives_domainOn {b : Block} {d : Nat} (h : b.fld (domField d) = 1) : Gives (domainOn d) b true b := gives_bf_set h

/-! ### Short trips (R271, R272) -/

/-- The fault code of a current `i` in channel `n`: 2 for the fast comparator, 1 for the normal one past its blanking, 0 for none. -/
def Block.tripCode (b : Block) (n i : Nat) : Nat :=
  if 12000 ≤ i then 2 else if 6000 ≤ i ∧ 2000 ≤ b.u.elapsed - (b.vch n).reloadAt.getD b.u.elapsed then 1 else 0

/-- The switch of channel `n` conducts: its profile runs, and its period is within the duty. -/
abbrev Block.conducts (b : Block) (n : Nat) : Prop :=
  1 ≤ (b.vch n).phase ∧ (b.vch n).phase ≤ 4 ∧ b.u.elapsed - (b.vch n).reloadAt.getD b.u.elapsed < (b.vch n).duty * 5

section
variable {b : Block} {n leg i : Nat} {Q : Unit → Block → Prop}

theorem gives_noTrip (hg : b.governs n = n) (hcode : b.tripCode n i = 0) : Gives (opValveShortTrip n leg i) b () b := by
  refine gives_bind (gives_now b) (gives_bind (gives_governs n b) (gives_bind (gives_paired n b) ?_))
  rw [hg]
  refine gives_bind (gives_bf _ b) (gives_bind (gives_vch n b) (gives_onlyIf_false ?_))
  rw [show (if 12000 ≤ i then 2 else if 6000 ≤ i ∧ 2000 ≤ b.u.elapsed - (b.vch n).reloadAt.getD b.u.elapsed then 1 else 0) = 0 from hcode]
  simp

variable (hn : n < 32) (hg : b.governs n = n) (hon : b.fld (domField (vgate n)) = 1) (hcode : b.tripCode n i ≠ 0)
include hn hg hon hcode

/-- The first trip of a conducting channel. -/
theorem ends_firstTrip (htrip : (b.vch n).trip = none) (hrun : b.conducts n)
    (h : Ends (if b.paired n then (do
      valveOpen n
      modVch n fun c => { c with trip := some (leg % 2, b.tripCode n i, b.u.elapsed) }) else valveFault n (b.tripCode n i) 0) b Q) :
    Ends (opValveShortTrip n leg i) b Q := by
  refine ends_then (gives_now b) (ends_then (gives_governs n b) (ends_then (gives_paired n b) ?_))
  rw [hg]
  refine ends_then (gives_domainOn hon) (ends_then (gives_vch n b) (ends_onlyIf_true ?_ ?_))
  · simpa [hn, Block.tripCode] using hcode
  · simp only [htrip]
    exact ends_onlyIf_true (decide_eq_true hrun) h

/-- The trip of a pair's other leg. -/
theorem ends_secondTrip {l k st : Nat} (htrip : (b.vch n).trip = some (l, k, st)) (hp : b.paired n = true) (hl : l ≠ leg % 2)
    (ht : b.u.elapsed ≤ st + 1000) (h : Ends (valveFault n 3 0) (b.modVch n fun c => { c with trip := none }) Q) :
    Ends (opValveShortTrip n leg i) b Q := by
  refine ends_then (gives_now b) (ends_then (gives_governs n b) (ends_then (gives_paired n b) ?_))
  rw [hg]
  refine ends_then (gives_domainOn hon) (ends_then (gives_vch n b) (ends_onlyIf_true ?_ ?_))
  · simpa [hn, Block.tripCode] using hcode
  · simp only [htrip]
    exact ends_onlyIf_true (by simp [hp, hl, ht]) (ends_then (gives_vchMod n _ b) h)

end

/-! ### Writes of the drive's registers (R449) -/

/-- A write that selects bits of a control register of the drive, in a domain that is on, and none to be kept, does what the drive makes of it. -/
theorem ends_valveWrite {src : Src} {r : RegRow} {i a : Nat} {w : Word} {b : Block} {Q : Block → Prop} (hwin : window a = 14)
    (hrow : rowOf a = some (r, i)) (hmask : r.mask = true) (hguard : keyGuarded r.base = false) (hshown : r.base ≠ R.VDRV_VCOIL 0)
    (hon : Gives (regPowered r a) b true b) (hm : w.toNat / 65536 ≠ 0) (hk : (w.toNat / 65536) &&& r.kp = 0)
    (h : Ends (vdrvWrite r.base i a (mergeWord r (b.regs.get a) w) (BitVec.ofNat 32 (w.toNat &&& (w.toNat / 65536) &&& r.wo)) w) (b.mended a) fun _ d => Q d) :
    Ends (opWrite src a w) b fun _ d => Q d := by
  obtain ⟨_, d, hgives, hq⟩ := h
  have hpriv : privileged a = false := privileged_of_window hwin (by decide)
  have hview : Gives (regView r i a) b (b.regs.get a) b := by
    refine gives_bind (gives_rd a b) (gives_bind (gives_now b) (gives_bind (gives_units b) ?_))
    rw [show a / 0x10000 = 14 from hwin]
    exact gives_ite_neg hshown (gives_pure _ b)
  have hunit : Gives (unitWrite src r.base i a (mergeWord r (b.regs.get a) w) (BitVec.ofNat 32 (w.toNat &&& (w.toNat / 65536) &&& r.wo)) w) (b.mended a) () d := by
    unfold unitWrite
    rw [show a / 0x10000 = 14 from hwin]
    exact hgives
  have hmasked : Gives (maskedWrite src r i a w) b () d := gives_maskedWrite hview hm (by rw [Nat.and_assoc, hk, Nat.and_zero]) hunit
  obtain ⟨may, hmay⟩ : ∃ may, Gives (keyAllowed src) b may b := ⟨_, fun _ => rfl⟩
  refine ends_of_gives (gives_opWrite (st := St.ok) ?_) hq
  unfold fabricWrite
  simp only [aliasOf_plain hpriv, hpriv, hrow, Bool.false_and, Bool.false_eq_true, if_false]
  refine gives_bind hon (gives_bind hmay ?_)
  simp only [hguard, Bool.not_true, Bool.false_and, Bool.false_eq_true, if_false]
  exact gives_bind (gives_onlyIf_true hmask hmasked) (gives_pure St.ok d)

/-- The rows of VDRV_CTL and VDRV_CMD. -/
def vctlRow : RegRow := ⟨"VDRV_CTL", 0xE0000, [], 0x0, 0x8000, 0x0, 0x0, 0x7FFF, [], true, [(1, 0x0)], 0x0, 0x0⟩
def vcmdRow : RegRow := ⟨"VDRV_CMD", 0xE0114, [(32, 0x80)], 0x0, 0x8000, 0x0, 0x4000, 0x3FFF, [], true, [(32, 0x0)], 0x0, 0x0⟩

theorem rowOf_vcmd : ∀ n < 32, rowOf (R.VDRV_CMD n) = some (vcmdRow, n) ∧ regDomain vcmdRow (R.VDRV_CMD n) = some (vgate n) ∧
    window (R.VDRV_CMD n) = 14 := by decide

/-- A write to VDRV_CTL that selects EN alone. -/
theorem ends_vctlWrite {src : Src} {w : Word} {b : Block} {Q : Block → Prop} (hm : w.toNat / 65536 = 0x8000)
    (h : Ends (valveEnable (b.fld F.VDRV_CTL_EN != 0) (F.VDRV_CTL_EN.of w != 0))
      ((b.mended R.VDRV_CTL).setReg R.VDRV_CTL (mergeWord vctlRow (b.regs.get R.VDRV_CTL) w)) fun _ d => Q d) :
    Ends (opWrite src R.VDRV_CTL w) b fun _ d => Q d := by
  refine ends_valveWrite (r := vctlRow) (i := 0) rfl rfl rfl (by decide) (by decide) (gives_pure true b) (by omega) (by rw [hm]; decide) ?_
  have hen : F.VDRV_CTL_EN.of (mergeWord vctlRow (b.regs.get R.VDRV_CTL) w) = F.VDRV_CTL_EN.of w :=
    merge_set rfl F.VDRV_CTL_EN (by rw [hm]; decide) (by decide)
  refine ends_ite_pos rfl (ends_then (gives_bf _ _) (ends_then (gives_wr _ _ _) ?_))
  rw [hen]
  exact h

/-- A write to VDRV_CMD of a channel whose domain is on. -/
theorem ends_vcmdWrite {src : Src} {w : Word} {b : Block} {n : Nat} {Q : Block → Prop} (hn : n < 32) (hon : b.fld (domField (vgate n)) = 1)
    (hm : w.toNat / 65536 ≠ 0) (hk : (w.toNat / 65536) &&& 0x3FFF = 0)
    (h : Ends (do
      onlyIf ((BitVec.ofNat 32 (w.toNat &&& (w.toNat / 65536) &&& 0x4000)).toNat.testBit 14 && b.governs n == n) (valveClear n)
      if w.toNat.testBit 31 then valveCommand n (R.VDRV_CMD n) (mergeWord vcmdRow (b.regs.get (R.VDRV_CMD n)) w)
      else wr (R.VDRV_CMD n) (mergeWord vcmdRow (b.regs.get (R.VDRV_CMD n)) w)) (b.mended (R.VDRV_CMD n)) fun _ d => Q d) :
    Ends (onlyIf (decide (n < 32)) (opWrite src (R.VDRV_CMD n) w)) b fun _ d => Q d := by
  obtain ⟨hrow, hdom, hwin⟩ := rowOf_vcmd n hn
  have hpow : Gives (regPowered vcmdRow (R.VDRV_CMD n)) b true b := by
    unfold regPowered
    rw [hdom]
    exact gives_domainOn hon
  refine ends_onlyIf_true (decide_eq_true hn) (ends_valveWrite hwin hrow rfl (by decide) (by decide) hpow hm hk ?_)
  exact ends_ite_neg (by decide) (ends_ite_neg (by decide) (ends_ite_neg (by decide) (ends_ite_neg (by decide) (ends_ite_pos rfl
    (ends_then (gives_governs n _) h)))))

/-! ### Clearing a fault (R274) -/

/-- What block `d` shows of the fault of channel `n` cleared in block `b`. -/
structure FaultCleared (n : Nat) (b d : Block) : Prop where
  code : d.fld (F.VDRV_FAULT_CODE n) = 0
  map : bitAt (d.regs.get R.VDRV_FLTMAP).toNat n = false
  restart : (d.vch n).restart = true
  shown : d.fld (F.VDRV_CSTAT_PHASE n) = if b.fld (F.VDRV_MEAS_I n) = 0 then 0 else 5
  pair : b.paired n = true → n % 2 = 0 → d.fld (F.VDRV_CSTAT_PHASE (n + 1)) = d.fld (F.VDRV_CSTAT_PHASE n)
  cmd : d.regs.get (R.VDRV_CMD n) = b.regs.get (R.VDRV_CMD n)
  wf : d.regs.wf = true

theorem ends_valveClear {b : Block} (hb : b.Drive) {n : Nat} (hn : n < 32) (hheld : b.fld (F.VDRV_FAULT_CODE n) ≠ 0) :
    Ends (valveClear n) b fun _ d => FaultCleared n b d := by
  obtain ⟨-, -, -, -, -, -, hcode, hleg, hmap⟩ := held_channel n hn
  let c := ((b.setField (F.VDRV_FAULT_CODE n) 0).setField (F.VDRV_FAULT_LEG n) 0).setField ⟨R.VDRV_FLTMAP, n, n⟩ (bit false)
  have hc : c.Drive := setField_drive (setField_drive (setField_drive hb _ _) _ _) _ _
  have hother : ∀ a, a ≠ R.VDRV_FAULT n → a ≠ R.VDRV_FLTMAP → c.regs.get a = b.regs.get a := fun a h1 h2 =>
    (setField_get_ne _ _ _ h2).trans ((setField_get_ne _ _ _ h1).trans (setField_get_ne _ _ _ h1))
  have hmeas : c.fld (F.VDRV_MEAS_I n) = b.fld (F.VDRV_MEAS_I n) := congrArg (F.VDRV_MEAS_I n).of
    (hother _ (by simp only [F.VDRV_MEAS_I, R.VDRV_MEAS, R.VDRV_FAULT]; omega) (by simp only [F.VDRV_MEAS_I, R.VDRV_MEAS, R.VDRV_FLTMAP]; omega))
  have hpaired : c.paired n = b.paired n := by
    rw [Block.paired, Block.paired, hother _ (by simp only [R.VDRV_PAIR, R.VDRV_FAULT]; omega) (by decide)]
  refine ends_then (gives_gf _ b) (ends_onlyIf_true (bne_iff_ne.2 hheld) (ends_then (gives_setField _ 0 b) (ends_then (gives_setField _ 0 _)
    (ends_then (gives_sb _ false _) (ends_then (gives_gf _ c) (ends_bind (ends_valvePhase hc hn _) fun _ d hd => ?_))))))
  rw [show (F.VDRV_MEAS_I n).of (c.regs.get (F.VDRV_MEAS_I n).reg) = b.fld (F.VDRV_MEAS_I n) from hmeas] at hd
  have hout : ∀ a ∈ [R.VDRV_FAULT n, R.VDRV_FLTMAP, R.VDRV_CMD n], ∀ j, ¬phaseBits n a j := fun a ha j hbit => by
    simp only [List.mem_cons, List.not_mem_nil, or_false] at ha
    rcases ha with rfl | rfl | rfl <;>
      (simp only [phaseBits, R.VDRV_FAULT, R.VDRV_FLTMAP, R.VDRV_CMD, R.VDRV_CSTAT] at hbit; omega)
  have hphase : (if b.fld (F.VDRV_MEAS_I n) = 0 then 0 else 5) % 8 = if b.fld (F.VDRV_MEAS_I n) = 0 then 0 else 5 := by split <;> rfl
  refine ends_of_gives (gives_vchMod n _ d) ⟨?_, ?_, ?_, hd.shown.trans hphase, fun hp he => (hd.pair (hpaired.trans hp) he).trans hd.shown.symm, ?_, hd.kept.wf⟩
  · rw [modVch_fld, hd.kept.frameFld fun j _ _ => hout _ (by simp [F.VDRV_FAULT_CODE]) j]
    rw [fld_setField_ne _ (show (F.VDRV_FAULT_CODE n).reg ≠ R.VDRV_FLTMAP by simp only [F.VDRV_FAULT_CODE, R.VDRV_FAULT, R.VDRV_FLTMAP]; omega),
      fld_setField_apart (setField_wf hb.wf _ _) hleg (g := F.VDRV_FAULT_CODE n) rfl (.inl (show 7 < 8 by decide))]
    exact fld_setField hb.wf hcode 0
  · rw [modVch_regs, hd.kept.bit _ _ (hout _ (by simp) n)]
    exact bit_setField (setField_wf (setField_wf hb.wf _ _) _ _) hmap false
  · rw [modVch_same (hd.kept.drive hc) hn]
  · rw [modVch_regs, hd.kept.reg (hout _ (by simp))]
    exact hother _ (by simp only [R.VDRV_CMD, R.VDRV_FAULT]; omega) (by simp only [R.VDRV_CMD, R.VDRV_FLTMAP]; omega)

/-- CLRF written 1 clears the fault, and leaves ON (R274). -/
theorem ends_clearWrite {src : Src} {b : Block} (hb : b.Drive) {n : Nat} (hn : n < 32) (hg : b.governs n = n) (hon : b.fld (domField (vgate n)) = 1)
    (hheld : b.fld (F.VDRV_FAULT_CODE n) ≠ 0) : Ends (onlyIf (decide (n < 32)) (opWrite src (R.VDRV_CMD n) 0x40004000)) b fun _ d =>
      d.fld (F.VDRV_FAULT_CODE n) = 0 ∧ bitAt (d.regs.get R.VDRV_FLTMAP).toNat n = false ∧ (d.vch n).restart = true ∧
        d.fld (F.VDRV_CSTAT_PHASE n) = (if b.fld (F.VDRV_MEAS_I n) = 0 then 0 else 5) ∧
        (b.paired n = true → n % 2 = 0 → d.fld (F.VDRV_CSTAT_PHASE (n + 1)) = d.fld (F.VDRV_CSTAT_PHASE n)) ∧
        d.fld (F.VDRV_CMD_ON n) = b.fld (F.VDRV_CMD_ON n) := by
  obtain ⟨-, -, -, -, hcmd⟩ := held_measured n hn
  refine ends_vcmdWrite hn hon (by decide) (by decide) ?_
  refine ends_bind (ends_onlyIf_true (by rw [hg, beq_self_eq_true]; decide) (ends_valveClear (b := b.mended (R.VDRV_CMD n)) ⟨hb.wf, hb.whole⟩ hn hheld))
    fun _ c hc => ends_ite_neg (by decide) (ends_of_gives (gives_wr _ _ c) ?_)
  have hkept : ∀ f : RF, f.reg ≠ R.VDRV_CMD n → (c.setReg (R.VDRV_CMD n) (mergeWord vcmdRow (b.regs.get (R.VDRV_CMD n)) 0x40004000)).fld f = c.fld f :=
    fun f hf => fld_setReg_ne c _ hf
  have hne : ∀ k, R.VDRV_CSTAT k ≠ R.VDRV_CMD n := fun k => by simp only [R.VDRV_CSTAT, R.VDRV_CMD]; omega
  refine ⟨?_, ?_, hc.restart, ?_, fun hp he => ?_, ?_⟩
  · rw [hkept _ (by simp only [F.VDRV_FAULT_CODE, R.VDRV_FAULT, R.VDRV_CMD]; omega)]
    exact hc.code
  · rw [setReg_regs, get_set_ne _ _ (by simp only [R.VDRV_FLTMAP, R.VDRV_CMD]; omega)]
    exact hc.map
  · rw [hkept _ (hne n)]
    exact hc.shown
  · rw [hkept (F.VDRV_CSTAT_PHASE n) (hne n), hkept (F.VDRV_CSTAT_PHASE (n + 1)) (hne (n + 1))]
    exact hc.pair hp he
  · exact (of_get_set hc.wf hcmd _).trans (merge_kept rfl (F.VDRV_CMD_ON n) (show bits ((0x40004000 : Word).toNat / 65536) 15 15 = 0 by decide))

/-! ### All channels of a list -/

/-- A list's steps, each of which shows something of its own and leaves what the others have shown. -/
theorem ends_each_all {α : Type} {f : α → Op Unit} {R : Block → Prop} {P : α → Block → Prop} {l : List α}
    (h : ∀ x ∈ l, ∀ b, R b → Ends (f x) b fun _ c => R c ∧ P x c ∧ ∀ y ∈ l, P y b → P y c) {b : Block} (hb : R b) :
    Ends (each f l) b fun _ c => R c ∧ ∀ x ∈ l, P x c := by
  suffices H : ∀ k : List α, (∀ x ∈ k, x ∈ l) → ∀ b, R b → Ends (each f k) b fun _ c => R c ∧ (∀ x ∈ k, P x c) ∧ ∀ y ∈ l, P y b → P y c from
    ends_mono (H l (fun _ => id) b hb) fun _ c ⟨hr, hall, _⟩ => ⟨hr, hall⟩
  intro k hk
  induction k with
  | nil => exact fun b hb => ends_of_gives (gives_each_nil f b) ⟨hb, by simp, fun _ _ hy => hy⟩
  | cons x k ih =>
    refine fun b hb => ends_bind (h x (hk x (by simp)) b hb) fun _ c ⟨hrc, hx, hkeep⟩ =>
      ends_mono (ih (fun y hy => hk y (by simp [hy])) c hrc) fun _ d ⟨hrd, hall, hlater⟩ => ⟨hrd, fun y hy => ?_, fun y hy hyb => hlater y hy (hkeep y hy hyb)⟩
    rcases List.mem_cons.1 hy with rfl | hy
    · exact hlater y (hk y (by simp)) hx
    · exact hall y hy

/-- The bits of some channel's phase. -/
abbrev anyPhase (a j : Nat) : Prop := (∃ n, a = R.VDRV_CSTAT n) ∧ 13 ≤ j ∧ j ≤ 15

theorem phaseBits_any {n a j : Nat} (h : phaseBits n a j) : anyPhase a j := by
  obtain ⟨h | h, h0, h1⟩ := h
  · exact ⟨⟨n, h⟩, h0, h1⟩
  · exact ⟨⟨n + 1, h⟩, h0, h1⟩

/-- A channel whose switch has opened, where it stood as `c` before. -/
abbrev openedFrom (c d : ValveCh) : Prop := d.duty = 0 ∧ d.target = 0 ∧ d.phase = c.decays

theorem decays_decays (c d : ValveCh) (h : d.phase = c.decays) : d.decays = c.decays := by
  unfold ValveCh.decays at *
  split_ifs at h ⊢ <;> omega

/-- Every channel of a list switches off at once (R275, R276). -/
theorem ends_valvesOff {b : Block} (hb : b.Drive) {l : List Nat} (hl : ∀ x ∈ l, x < 32) : Ends (valvesOff l) b fun _ c =>
    Within anyPhase (valveKeep fun _ _ => ()) b c ∧ ∀ x ∈ l, openedFrom (b.vch x) (c.vch x) := by
  refine ends_mono (ends_each_all (R := fun c => Within anyPhase (valveKeep fun _ _ => ()) b c ∧ ∀ x, (c.vch x).decays = (b.vch x).decays)
    (P := fun x c => openedFrom (b.vch x) (c.vch x)) (fun x hx c ⟨hk, hd⟩ => ?_) ⟨within_refl hb.wf, fun _ => rfl⟩) fun _ c ⟨⟨hk, _⟩, hall⟩ => ⟨hk, hall⟩
  refine ends_mono (ends_valveOpen (hk.drive hb) (hl x hx)) fun _ d hd' => ?_
  have hx' : openedFrom (b.vch x) (d.vch x) := by
    rw [hd'.ch]
    exact ⟨rfl, rfl, hd x⟩
  refine ⟨⟨hk.trans (hd'.kept.mono (fun _ _ => phaseBits_any) fun u v h => ?_), fun y => ?_⟩, hx', fun y _ hy => ?_⟩
  · simp only [valveKeep, Prod.mk.injEq] at h ⊢
    exact ⟨h.1, h.2.1, trivial⟩
  · by_cases hxy : y = x
    · subst hxy
      exact decays_decays _ _ hx'.2.2
    · rw [hd'.kept.other hxy]
      exact hd y
  · by_cases hxy : y = x
    · subst hxy
      exact hx'
    · rw [hd'.kept.other hxy]
      exact hy

/-- Every channel of a list starts from boost at its next reload. -/
theorem ends_rearm {b : Block} (hb : b.Drive) {l : List Nat} (hl : ∀ x ∈ l, x < 32) : Ends (each valveRearm l) b fun _ c =>
    c.regs = b.regs ∧ ∀ x ∈ l, (c.vch x).restart = true := by
  refine ends_mono (ends_each_all (R := fun c => c.regs = b.regs ∧ c.Drive) (P := fun x c => (c.vch x).restart = true)
    (fun x hx c ⟨hregs, hd⟩ => ends_of_gives (gives_vchMod x _ c) ?_) ⟨rfl, hb⟩) fun _ c ⟨⟨hregs, _⟩, hall⟩ => ⟨hregs, hall⟩
  have hx' : ((c.modVch x fun y => { y with restart := true }).vch x).restart = true := by rw [modVch_same hd (hl x hx)]
  refine ⟨⟨hregs, modVch_drive hd x _⟩, hx', fun y _ hy => ?_⟩
  by_cases hxy : y = x
  · subst hxy
    exact hx'
  · rw [modVch_ne _ hxy]
    exact hy

/-! ### Supplies (R275) -/

theorem mem_bankChans {k x : Nat} : x ∈ bankChans k ↔ ∃ j < 8, x = 8 * k + j := by
  simp only [bankChans, List.mem_map, List.mem_range]
  exact ⟨fun ⟨j, hj, e⟩ => ⟨j, hj, by omega⟩, fun ⟨j, hj, e⟩ => ⟨j, hj, by omega⟩⟩

theorem bankChans_lt {k : Nat} (hk : k < 4) : ∀ x ∈ bankChans k, x < 32 := fun x hx => by
  obtain ⟨j, hj, rfl⟩ := mem_bankChans.1 hx
  omega

/-- SUPPLY of some channel. -/
abbrev anySupply (a j : Nat) : Prop := (∃ n, a = R.VDRV_CSTAT n) ∧ j = 6

/-- The channels of a list whose D is 1 show SUPPLY. -/
theorem ends_supplyMarks {b : Block} (hb : b.Drive) {l : List Nat} (hl : ∀ x ∈ l, x < 32) :
    Ends (each (fun n => do
      let g ← governs n
      let d ← liveDemand n
      onlyIf (g == n && d) (sb (F.VDRV_CSTAT_SUPPLY n) true)) l) b fun _ c => Within anySupply id b c ∧ ∀ x ∈ l, b.paired x = false →
        b.fld (F.VDRV_PROF_SETON x) = 0 → b.fld (F.VDRV_CMD_ON x) = 1 → c.fld (F.VDRV_CSTAT_SUPPLY x) = 1 := by
  refine ends_each_all (fun x hx c hk => ?_) (within_refl hb.wf)
  obtain ⟨-, -, hsupply, -⟩ := held_channel x (hl x hx)
  have hother : ∀ f : RF, (∀ n, f.reg ≠ R.VDRV_CSTAT n) → c.fld f = b.fld f := fun f hf => hk.frameFld fun j _ _ h => by
    obtain ⟨⟨n, hn⟩, -⟩ := h
    exact hf n hn
  have hpaired : c.paired x = b.paired x := by
    rw [Block.paired, Block.paired, hk.reg fun j h => by
      obtain ⟨⟨n, hn⟩, -⟩ := h
      simp only [R.VDRV_PAIR, R.VDRV_CSTAT] at hn
      omega]
  have hseton := hother (F.VDRV_PROF_SETON x) fun n => by simp only [F.VDRV_PROF_SETON, R.VDRV_PROF, R.VDRV_CSTAT]; omega
  have hcmd := hother (F.VDRV_CMD_ON x) fun n => by simp only [F.VDRV_CMD_ON, R.VDRV_CMD, R.VDRV_CSTAT]; omega
  refine ends_then (gives_governs x c) (ends_then (gives_bind (gives_bf (F.VDRV_PROF_SETON x) c) (gives_bind (gives_bf (F.VDRV_CMD_ON x) c) (gives_bind (gives_vch x c)
    (gives_pure _ c)))) (ends_onlyIf (fun _ => ?_) fun hno => ?_))
  · have hset : (c.setField (F.VDRV_CSTAT_SUPPLY x) 1).fld (F.VDRV_CSTAT_SUPPLY x) = 1 := fld_setField hk.wf hsupply 1
    refine ends_of_gives (gives_sb _ true c) ⟨hk.trans (within_setField hk.wf (Nat.le_refl 6) (show 6 < 32 by decide) _ fun j h0 h1 => ⟨⟨x, rfl⟩, Nat.le_antisymm h1 h0⟩),
      fun _ _ _ => hset, fun y _ hy h1 h2 h3 => ?_⟩
    by_cases hxy : y = x
    · subst hxy
      exact hset
    · rw [bit, if_pos rfl, fld_setField_ne _ (by simp only [F.VDRV_CSTAT_SUPPLY, R.VDRV_CSTAT]; omega)]
      exact hy h1 h2 h3
  · refine ⟨hk, fun h1 h2 h3 => absurd hno ?_, fun y _ hy => hy⟩
    rw [governs_self (.inl (hpaired.trans h1))]
    have hs : (F.VDRV_PROF_SETON x).of (c.regs.get (F.VDRV_PROF_SETON x).reg) = 0 := hseton.trans h2
    have ho : (F.VDRV_CMD_ON x).of (c.regs.get (F.VDRV_CMD_ON x).reg) = 1 := hcmd.trans h3
    rw [hs, ho]
    simp

/-- The registers that show the supply of bank `k`, and that some supply failed. -/
structure SupplyShown (k v uv ov : Nat) (b : Block) : Prop where
  volts : b.fld (F.VDRV_VCOIL_V k) = v
  below : b.fld (F.VDRV_VCOIL_UV k) = uv
  above : b.fld (F.VDRV_VCOIL_OV k) = ov

/-- The block with the supply of bank `k` stored. -/
def Block.supply (b : Block) (k v uv ov : Nat) : Block :=
  ((b.setField (F.VDRV_VCOIL_V k) v).setField (F.VDRV_VCOIL_UV k) uv).setField (F.VDRV_VCOIL_OV k) ov

theorem supply_shows {b : Block} (hb : b.regs.wf = true) {k v uv ov : Nat} (hk : k < 4) (hv : v < 65536) (huv : uv < 2) (hov : ov < 2) :
    SupplyShown k v uv ov (b.supply k v uv ov) := by
  obtain ⟨hvolts, hunder, hover⟩ := held_vcoil k hk
  have hwf1 := setField_wf hb (F.VDRV_VCOIL_V k) v
  have hwf2 := setField_wf hwf1 (F.VDRV_VCOIL_UV k) uv
  refine ⟨?_, ?_, (fld_setField hwf2 hover ov).trans (Nat.mod_eq_of_lt hov)⟩
  · rw [Block.supply, fld_setField_apart hwf2 hover (g := F.VDRV_VCOIL_V k) rfl (.inl (show 15 < 17 by decide)),
      fld_setField_apart hwf1 hunder (g := F.VDRV_VCOIL_V k) rfl (.inl (show 15 < 16 by decide))]
    exact (fld_setField hb hvolts v).trans (Nat.mod_eq_of_lt hv)
  · rw [Block.supply, fld_setField_apart hwf2 hover (g := F.VDRV_VCOIL_UV k) rfl (.inl (show 16 < 17 by decide))]
    exact (fld_setField hwf1 hunder uv).trans (Nat.mod_eq_of_lt huv)

theorem supply_other (b : Block) (k v uv ov : Nat) {a : Nat} (h : a ≠ R.VDRV_VCOIL k) : (b.supply k v uv ov).regs.get a = b.regs.get a :=
  (setField_get_ne _ _ _ h).trans ((setField_get_ne _ _ _ h).trans (setField_get_ne _ _ _ h))

theorem SupplyShown.kept {k v uv ov : Nat} {b c : Block} (h : SupplyShown k v uv ov b) (hregs : c.regs.get (R.VDRV_VCOIL k) = b.regs.get (R.VDRV_VCOIL k)) :
    SupplyShown k v uv ov c :=
  ⟨(congrArg (F.VDRV_VCOIL_V k).of hregs).trans h.volts, (congrArg (F.VDRV_VCOIL_UV k).of hregs).trans h.below,
    (congrArg (F.VDRV_VCOIL_OV k).of hregs).trans h.above⟩

/-- A supply that falls out of its range below switches its whole bank off. -/
theorem ends_vcoilFault {b : Block} (hb : b.Drive) {k v : Nat} (hk : k < 4) (hv : v < 600) : Ends (opVcoilFault k v) b fun _ d =>
    SupplyShown k v 1 0 d ∧ d.fld F.VDRV_STAT_SUPPLY = 1 ∧ ∀ x ∈ bankChans k, openedFrom (b.vch x) (d.vch x) ∧ (b.paired x = false →
      b.fld (F.VDRV_PROF_SETON x) = 0 → b.fld (F.VDRV_CMD_ON x) = 1 → d.fld (F.VDRV_CSTAT_SUPPLY x) = 1) := by
  obtain ⟨-, hsupply, -⟩ := held_drive
  have hbank := bankChans_lt hk
  have hfit : fitU 16 v = v := if_pos (by omega)
  have hshown := supply_shows hb.wf (v := v) (uv := 1) (ov := 0) hk (by omega) (by decide) (by decide)
  have hc1 : (b.supply k v 1 0).Drive := setField_drive (setField_drive (setField_drive hb _ _) _ _) _ _
  have hc : ((b.supply k v 1 0).setField F.VDRV_STAT_SUPPLY 1).Drive := setField_drive hc1 _ _
  have hother : ∀ a, a ≠ R.VDRV_VCOIL k → a ≠ R.VDRV_STAT → ((b.supply k v 1 0).setField F.VDRV_STAT_SUPPLY 1).regs.get a = b.regs.get a :=
    fun a h1 h2 => (setField_get_ne _ _ _ h2).trans (supply_other b k v 1 0 h1)
  have hstat : ((b.supply k v 1 0).setField F.VDRV_STAT_SUPPLY 1).fld F.VDRV_STAT_SUPPLY = 1 := fld_setField hc1.wf hsupply 1
  unfold opVcoilFault
  rw [rated_within (by omega), hfit, decide_eq_true hv, decide_eq_false (show ¬6600 < v by omega)]
  refine ends_onlyIf_true (by simp [hk, hv]) (ends_then (gives_setField _ v b) (ends_then (gives_sb _ true _) (ends_then (gives_sb _ false _)
    (ends_then (gives_sb _ true _) ?_))))
  refine ends_bind (ends_supplyMarks hc hbank) fun _ c ⟨hmarks, hsup⟩ => ?_
  have hcd : c.Drive := (hmarks.mono (hold := valveKeep fun _ _ => ()) (fun _ _ => id) fun _ _ h => congrArg _ h).drive hc
  refine ends_mono (ends_valvesOff hcd hbank) fun _ d ⟨hoff, hopened⟩ => ?_
  have hnot : ∀ a, (∀ n, a ≠ R.VDRV_CSTAT n) → d.regs.get a = ((b.supply k v 1 0).setField F.VDRV_STAT_SUPPLY 1).regs.get a := fun a ha =>
    (hoff.reg fun _ ⟨⟨n, hn⟩, _⟩ => ha n hn).trans (hmarks.reg fun _ ⟨⟨n, hn⟩, _⟩ => ha n hn)
  refine ⟨hshown.kept ?_, ?_, fun x hx => ⟨?_, fun h1 h2 h3 => ?_⟩⟩
  · rw [hnot _ fun n => by simp only [R.VDRV_VCOIL, R.VDRV_CSTAT]; omega]
    exact setField_get_ne _ _ _ (by simp only [F.VDRV_STAT_SUPPLY, R.VDRV_VCOIL, R.VDRV_STAT]; omega)
  · rw [Block.fld, hnot _ fun n => by simp only [F.VDRV_STAT_SUPPLY, R.VDRV_STAT, R.VDRV_CSTAT]; omega]
    exact hstat
  · have hsame : c.vch x = b.vch x := congrArg (fun u : Units => u.vdrv.chs.getD x {}) hmarks.units
    rw [← hsame]
    exact hopened x hx
  · rw [hoff.frameFld fun j h0 h1 => by simp only [anyPhase, F.VDRV_CSTAT_SUPPLY] at h0 h1 ⊢; omega]
    have hreg : ∀ a, a = R.VDRV_PAIR ∨ a = R.VDRV_PROF x ∨ a = R.VDRV_CMD x → ((b.supply k v 1 0).setField F.VDRV_STAT_SUPPLY 1).regs.get a = b.regs.get a :=
      fun a ha => hother a (by simp only [R.VDRV_PAIR, R.VDRV_PROF, R.VDRV_CMD, R.VDRV_VCOIL] at ha ⊢; omega)
        (by simp only [R.VDRV_PAIR, R.VDRV_PROF, R.VDRV_CMD, R.VDRV_STAT] at ha ⊢; omega)
    refine hsup x hx ?_ ?_ ?_
    · rw [Block.paired, hreg _ (.inl rfl)]
      exact h1
    · exact (congrArg (F.VDRV_PROF_SETON x).of (hreg _ (.inr (.inl rfl)))).trans h2
    · exact (congrArg (F.VDRV_CMD_ON x).of (hreg _ (.inr (.inr rfl)))).trans h3

/-- A supply that is back in its range has its bank's channels start from boost. -/
theorem ends_vcoilReturn {b : Block} (hb : b.Drive) {k v : Nat} (hk : k < 4) (hlo : 650 ≤ v) (hhi : v ≤ 6500)
    (hout : b.fld (F.VDRV_VCOIL_UV k) = 1 ∨ b.fld (F.VDRV_VCOIL_OV k) = 1) : Ends (opVcoilReturn k v) b fun _ d =>
      SupplyShown k v 0 0 d ∧ (∀ x ∈ bankChans k, (d.vch x).restart = true) ∧ ∀ a, a ≠ R.VDRV_VCOIL k → d.regs.get a = b.regs.get a := by
  have hshown := supply_shows hb.wf (v := v) (uv := 0) (ov := 0) hk (by omega) (by decide) (by decide)
  have hc : (b.supply k v 0 0).Drive := setField_drive (setField_drive (setField_drive hb _ _) _ _) _ _
  unfold opVcoilReturn
  rw [rated_within (by omega)]
  refine ends_then (gives_bf _ b) (ends_then (gives_bf _ b) (ends_onlyIf_true ?_ ?_))
  · have hany : ((F.VDRV_VCOIL_UV k).of (b.regs.get (F.VDRV_VCOIL_UV k).reg) != 0 || (F.VDRV_VCOIL_OV k).of (b.regs.get (F.VDRV_VCOIL_OV k).reg) != 0) = true := by
      rcases hout with h | h
      · rw [show (F.VDRV_VCOIL_UV k).of (b.regs.get (F.VDRV_VCOIL_UV k).reg) = 1 from h]
        rfl
      · rw [show (F.VDRV_VCOIL_OV k).of (b.regs.get (F.VDRV_VCOIL_OV k).reg) = 1 from h]
        exact Bool.or_true _
    simp [hk, hlo, hhi, hany]
  · refine ends_then (gives_setField _ v b) (ends_then (gives_sb _ false _) (ends_then (gives_sb _ false _)
      (ends_mono (ends_rearm hc (bankChans_lt hk)) fun _ d ⟨hregs, hall⟩ => ?_)))
    exact ⟨hshown.kept (by rw [hregs]), hall, fun a ha => (congrArg (Regs.get · a) hregs).trans (supply_other b k v 0 0 ha)⟩

/-! ### The enable (R276) -/

theorem range_lt (n : Nat) : ∀ x ∈ List.range n, x < n := fun _ => List.mem_range.1

theorem stored_drive {b : Block} (hb : b.Drive) (a : Nat) (w : Word) : ((b.mended a).setReg a w).Drive := ⟨wf_set _ _ _ hb.wf, hb.whole⟩

/-- EN written 0 switches every channel off. -/
theorem ends_enableClear {src : Src} {b : Block} (hb : b.Drive) (hen : b.fld F.VDRV_CTL_EN = 1) : Ends (opWrite src R.VDRV_CTL 0x80000000) b fun _ d =>
    d.fld F.VDRV_CTL_EN = 0 ∧ ∀ x ∈ List.range 32, openedFrom (b.vch x) (d.vch x) := by
  obtain ⟨-, -, -, -, -, -, -, -, hheld⟩ := held_drive
  refine ends_vctlWrite (by decide) ?_
  rw [hen, show F.VDRV_CTL_EN.of 0x80000000 = 0 by decide]
  refine ends_bind (ends_onlyIf_true rfl (ends_valvesOff (stored_drive hb _ _) (range_lt 32))) fun _ c ⟨hoff, hall⟩ =>
    ends_of_gives (gives_onlyIf_false rfl) ⟨?_, hall⟩
  rw [hoff.frameFld fun j _ _ ⟨⟨n, hn⟩, _⟩ => by simp only [F.VDRV_CTL_EN, R.VDRV_CTL, R.VDRV_CSTAT] at hn; omega]
  exact (of_get_set hb.wf hheld _).trans ((merge_set rfl F.VDRV_CTL_EN (by decide) (by decide)).trans (by decide))

/-- EN written 1 has every channel start from boost. -/
theorem ends_enableSet {src : Src} {b : Block} (hb : b.Drive) (hen : b.fld F.VDRV_CTL_EN = 0) : Ends (opWrite src R.VDRV_CTL 0x80008000) b fun _ d =>
    d.fld F.VDRV_CTL_EN = 1 ∧ (∀ x ∈ List.range 32, (d.vch x).restart = true) ∧ ∀ a, a ≠ R.VDRV_CTL → d.regs.get a = b.regs.get a := by
  obtain ⟨-, -, -, -, -, -, -, -, hheld⟩ := held_drive
  refine ends_vctlWrite (by decide) ?_
  rw [hen, show F.VDRV_CTL_EN.of 0x80008000 = 1 by decide]
  refine ends_then (gives_onlyIf_false rfl) (ends_onlyIf_true rfl (ends_mono (ends_rearm (stored_drive hb _ _) (range_lt 32)) fun _ d ⟨hregs, hall⟩ => ?_))
  refine ⟨?_, hall, fun a ha => (congrArg (Regs.get · a) hregs).trans (get_set_ne _ _ ha)⟩
  rw [Block.fld, hregs]
  exact (of_get_set hb.wf hheld _).trans ((merge_set rfl F.VDRV_CTL_EN (by decide) (by decide)).trans (by decide))

/-! ### The statement -/

section
variable {s : State} (hl : Live s) (hb : Canon s)
include hl

theorem vcoilFault_overRating {k v : Nat} (hv : 7000 < v) : Stops (.vcoilFault k v) s .ratingExceeded := by
  obtain ⟨hstop, hreset⟩ := hl
  change onLive (opVcoilFault k v) s = _
  simp [onLive, onDev, onBoard, runOp, opVcoilFault, rated_beyond hv, stopOp, hstop, hreset]

/-- A current below the fast comparator's, within the blanking of the normal one, trips nothing. -/
theorem shortTrip_blanked {n leg i rl : Nat} (hi : i < 12000) (hreload : (s.vch n).reloadAt = some rl) (hblank : s.dev.u.elapsed < rl + 2000)
    (hpair : bitAt (s.reg R.VDRV_PAIR).toNat (n / 2) = false) : Does (.valveShortTrip n leg i) s fun t => OnlyRegs [] s t ∧ t.dev.u = s.dev.u := by
  have hpair : s.dev.paired n = false := hpair
  have hat : (s.dev.vch n).reloadAt.getD s.dev.u.elapsed = rl := congrArg (Option.getD · _) hreload
  have hcode : s.dev.tripCode n i = 0 := by
    rw [Block.tripCode, hat, if_neg (by omega), if_neg (by omega)]
  exact does_of_onLive rfl hl (gives_noTrip (governs_self (.inl hpair)) hcode) ⟨fun _ _ => rfl, rfl⟩

include hb

/-- A trip of a channel in no pair latches its fault at once. -/
theorem shortTrip_latches {n leg i code rl : Nat} (hu : Unpaired s n) (hon : s.powered (88 + n)) (h1 : 1 ≤ (s.vch n).phase) (h4 : (s.vch n).phase ≤ 4)
    (hreload : (s.vch n).reloadAt = some rl) (hduty : s.dev.u.elapsed - rl < (s.vch n).duty * 5)
    (hcode : (12000 ≤ i ∧ code = 2) ∨ (6000 ≤ i ∧ i < 12000 ∧ rl + 2000 ≤ s.dev.u.elapsed ∧ code = 1)) (htrip : (s.vch n).trip = none)
    (hnone : s.fld (F.VDRV_FAULT_CODE n) = 0) : Does (.valveShortTrip n leg i) s fun t =>
      t.fld (F.VDRV_FAULT_CODE n) = code ∧ t.fld (F.VDRV_FAULT_LEG n) = 0 ∧ bitAt (t.reg R.VDRV_FLTMAP).toNat n = true ∧ t.fld F.VDRV_STAT_SHORT = 1 ∧
        t.fld (F.VDRV_CSTAT_PHASE n) = 6 ∧ (t.vch n).duty = 0 := by
  obtain ⟨hn, hpair, hwhole⟩ := hu
  have hpair : s.dev.paired n = false := hpair
  have hat : (s.dev.vch n).reloadAt.getD s.dev.u.elapsed = rl := congrArg (Option.getD · _) hreload
  have htripped : s.dev.tripCode n i = code := by
    rw [Block.tripCode, hat]
    rcases hcode with ⟨hi, rfl⟩ | ⟨h6, h12, hblank, rfl⟩
    · exact if_pos hi
    · rw [if_neg (by omega), if_pos ⟨h6, by omega⟩]
  have hle : 1 ≤ code ∧ code ≤ 2 := by omega
  refine does_of_ends rfl hl (ends_firstTrip hn (governs_self (.inl hpair)) hon (by rw [htripped]; omega) htrip ⟨h1, h4, by rw [hat]; exact hduty⟩ ?_)
  rw [hpair, htripped]
  refine ends_mono (ends_valveFault ⟨hb, hwhole⟩ hn hnone code 0) fun _ c hc => ?_
  refine ⟨hc.read.code.trans (Nat.mod_eq_of_lt (by omega)), hc.read.leg, hc.read.map, hc.read.short (by omega), hc.shown, ?_⟩
  exact (congrArg ValveCh.duty hc.ch).trans rfl

/-- The first trip of a pair opens both legs, and its fault waits for the other leg's. -/
theorem shortTrip_opensPair {n leg i rl : Nat} (hp : PairHead s n) (hon : s.powered (88 + n)) (h1 : 1 ≤ (s.vch n).phase) (h4 : (s.vch n).phase ≤ 4)
    (hreload : (s.vch n).reloadAt = some rl) (hduty : s.dev.u.elapsed - rl < (s.vch n).duty * 5) (hi : 12000 ≤ i) (hleg : leg < 2)
    (htrip : (s.vch n).trip = none) : Does (.valveShortTrip n leg i) s fun t =>
      (t.vch n).trip = some (leg, 2, s.dev.u.elapsed) ∧ (t.vch n).duty = 0 ∧ t.fld (F.VDRV_CSTAT_PHASE n) = 5 ∧ t.fld (F.VDRV_CSTAT_PHASE (n + 1)) = 5 ∧
        t.fld (F.VDRV_FAULT_CODE n) = s.fld (F.VDRV_FAULT_CODE n) := by
  obtain ⟨hn, heven, hpair, hwhole⟩ := hp
  have hpair : s.dev.paired n = true := hpair
  have hat : (s.dev.vch n).reloadAt.getD s.dev.u.elapsed = rl := congrArg (Option.getD · _) hreload
  have htripped : s.dev.tripCode n i = 2 := if_pos hi
  refine does_of_ends rfl hl (ends_firstTrip hn (governs_self (.inr heven)) hon (by rw [htripped]; decide) htrip ⟨h1, h4, by rw [hat]; exact hduty⟩ ?_)
  rw [hpair, htripped, Nat.mod_eq_of_lt hleg]
  refine ends_bind (ends_valveOpen ⟨hb, hwhole⟩ hn) fun _ c hc => ends_of_gives (gives_vchMod n _ c) ?_
  have hch : (c.modVch n fun x => { x with trip := some (leg, 2, s.dev.u.elapsed) }).vch n = { c.vch n with trip := some (leg, 2, s.dev.u.elapsed) } :=
    modVch_same (hc.kept.drive ⟨hb, hwhole⟩) hn _
  refine ⟨congrArg ValveCh.trip hch, ?_, hc.shown h1 h4, hc.pair h1 h4 hpair heven, ?_⟩
  · refine (congrArg ValveCh.duty hch).trans ?_
    rw [hc.ch]
    rfl
  · exact hc.kept.frameFld fun j _ _ => by simp only [phaseBits, F.VDRV_FAULT_CODE, R.VDRV_FAULT, R.VDRV_CSTAT]; omega

/-- The trip of a pair's other leg within 1 µs is one fault of the even channel. -/
theorem shortTrip_joins {n leg i l k st : Nat} (hp : PairHead s n) (hon : s.powered (88 + n)) (htrip : (s.vch n).trip = some (l, k, st)) (hne : l ≠ leg)
    (hleg : leg < 2) (ht : s.dev.u.elapsed ≤ st + 1000) (hi : 12000 ≤ i) (hnone : s.fld (F.VDRV_FAULT_CODE n) = 0) :
    Does (.valveShortTrip n leg i) s fun t => t.fld (F.VDRV_FAULT_CODE n) = 3 ∧ t.fld (F.VDRV_FAULT_LEG n) = 0 ∧
      bitAt (t.reg R.VDRV_FLTMAP).toNat n = true ∧ t.fld F.VDRV_STAT_SHORT = 1 ∧ t.fld (F.VDRV_FAULT_CODE (n + 1)) = s.fld (F.VDRV_FAULT_CODE (n + 1)) ∧
        (t.vch n).trip = none := by
  obtain ⟨hn, heven, hpair, hwhole⟩ := hp
  have hd : s.dev.Drive := ⟨hb, hwhole⟩
  have htripped : s.dev.tripCode n i = 2 := if_pos hi
  refine does_of_ends rfl hl (ends_secondTrip hn (governs_self (.inr heven)) hon (by rw [htripped]; decide) htrip hpair
    (by rw [Nat.mod_eq_of_lt hleg]; exact hne) ht ?_)
  refine ends_mono (ends_valveFault (modVch_drive hd n _) hn hnone 3 0) fun _ c hc => ⟨hc.read.code, hc.read.leg, hc.read.map, hc.read.short (by decide), ?_, ?_⟩
  · refine (hc.kept.frameFld fun j _ _ => ?_).trans (modVch_fld s.dev n _ _)
    simp only [faultShown, phaseBits, linkBits, window, linkWindows, F.VDRV_FAULT_CODE, R.VDRV_FAULT, R.VDRV_CSTAT, R.VDRV_FLTMAP, R.VDRV_STAT, List.mem_cons,
      List.not_mem_nil, or_false]
    omega
  · refine (congrArg ValveCh.trip hc.ch).trans ?_
    rw [modVch_same hd hn]
    rfl

end

/-- Settles O21: every switch-off is the opening of a switch, and every fault is latched by one operation of the drive. -/
theorem valveFaults : Obligations.ValveFaults := by
  unfold Obligations.ValveFaults
  refine ⟨?single, ?blanked, ?first, ?second, ?clear, ?supplyOut, ?supplyBack, ?disable, ?enable, ?overRating, ?clearPair⟩
  case single => exact fun s n leg i code rl hl hb => shortTrip_latches hl hb
  case blanked => exact fun s n leg i rl hl _ => shortTrip_blanked hl
  case first => exact fun s n leg i rl hl hb hn heven hpair hwhole => shortTrip_opensPair hl hb ⟨hn, heven, hpair, hwhole⟩
  case second =>
    exact fun s n leg i l k st hl hb hn heven hpair hwhole hon htrip hne hleg ht hi => shortTrip_joins hl hb ⟨hn, heven, hpair, hwhole⟩ hon htrip hne hleg ht hi
  case clear =>
    intro s src n hl hb ⟨hn, hpair, hwhole⟩ hon hheld
    exact does_of_ends rfl hl (ends_mono (ends_clearWrite ⟨hb, hwhole⟩ hn (governs_self (.inl hpair)) hon hheld)
      fun _ d ⟨hcode, hmap, hrestart, hphase, _, hcmd⟩ => ⟨hcode, hmap, hrestart, hphase, hcmd⟩)
  case supplyOut =>
    intro s k v hl hb hk hv hwhole
    refine does_of_ends rfl hl (ends_mono (ends_vcoilFault ⟨hb, hwhole⟩ hk hv) fun _ d ⟨hshown, hstat, hall⟩ =>
      ⟨hshown.volts, hshown.below, hshown.above, hstat, fun j hj => ?_⟩)
    obtain ⟨⟨hduty, htarget, _⟩, hsup⟩ := hall (8 * k + j) (mem_bankChans.2 ⟨j, List.mem_range.1 hj, rfl⟩)
    exact ⟨hduty, htarget, hsup⟩
  case supplyBack =>
    intro s k v hl hb hk hlo hhi hwhole hout
    exact does_of_ends rfl hl (ends_mono (ends_vcoilReturn ⟨hb, hwhole⟩ hk hlo hhi hout) fun _ d ⟨hshown, hall, hregs⟩ =>
      ⟨hshown.volts, hshown.below, hshown.above, fun j hj => hall _ (mem_bankChans.2 ⟨j, List.mem_range.1 hj, rfl⟩), fun a ha => hregs a (by simpa using ha)⟩)
  case disable =>
    intro s src hl hb hen hwhole
    refine does_of_ends rfl hl (ends_mono (ends_enableClear ⟨hb, hwhole⟩ hen) fun _ d ⟨hoff, hall⟩ => ⟨hoff, fun n hn => ?_⟩)
    obtain ⟨hduty, htarget, hphase⟩ := hall n hn
    exact ⟨hduty, htarget, fun h1 h4 => hphase.trans (if_pos ⟨h1, h4⟩)⟩
  case enable =>
    intro s src hl hb hen hwhole
    exact does_of_ends rfl hl (ends_mono (ends_enableSet ⟨hb, hwhole⟩ hen) fun _ d ⟨hon, hall, hregs⟩ => ⟨hon, hall, fun a ha => hregs a (by simpa using ha)⟩)
  case overRating => exact fun s k v hl => vcoilFault_overRating hl
  case clearPair =>
    intro s src n hl hb ⟨hn, heven, hpair, hwhole⟩ hon hheld
    exact does_of_ends rfl hl (ends_mono (ends_clearWrite ⟨hb, hwhole⟩ hn (governs_self (.inr heven)) hon hheld)
      fun _ d ⟨hcode, hmap, hrestart, hphase, hother, hcmd⟩ => ⟨hcode, hmap, hrestart, hphase, hother hpair heven, hcmd⟩)

end Sys2Proof.Machine
end

section
/-!
PROOF. Proofs/ValveDetection.lean: closing detection, the coil model and the measured resistance, and the statement about them (R266 to R269,
R643, R661).
-/
namespace Sys2Proof.Machine

/-! ### Closing detection (R266, R267) -/

theorem gives_closingWindow (n : Nat) (b : Block) : Gives (closingWindow n) b (max 1 (b.fld (F.VDRV_CDCFG_WIN n)) * 500000) b :=
  gives_bind (gives_gf _ b) (gives_pure _ b)

/-- An average within the window, of the search `x` of channel `n`, ends. -/
abbrev Block.averageDue (b : Block) (n : Nat) (x : Closing) : Prop :=
  (b.vch n).search = some x ∧ x.since + (x.k + 1) * 20000 ≤ b.u.elapsed ∧ (x.k + 1) * 20000 ≤ max 1 (b.fld (F.VDRV_CDCFG_WIN n)) * 500000

section
variable {b : Block} (hb : b.Drive) {n v : Nat} (hn : n < 32) {x : Closing}
include hb hn

/-- The first average from the 13th on whose slope changed beyond the threshold is the closing. -/
theorem ends_closingFound (hdue : b.averageDue n x) (hv : v ≤ 70000) (hk : 12 ≤ x.k)
    (hslope : (max 1 (b.fld (F.VDRV_CDCFG_THR n)) * 100 : Nat) < |(v : Int) - x.avg - x.slope|) (hlow : (x.k + 1) * 20 < 65536) :
    Ends (opClosingAverageEnd n v) b fun _ d => d.fld (F.VDRV_CLOSET_T n) = (x.k + 1) * 20 ∧ d.fld (F.VDRV_CSTAT_CLOSED n) = 1 ∧
      (d.vch n).search = none ∧ ∀ a, a ∉ [R.VDRV_CLOSET n, R.VDRV_CSTAT n] → d.regs.get a = b.regs.get a := by
  obtain ⟨hsearch, htime, hwin⟩ := hdue
  obtain ⟨-, -, -, -, hclosed, -⟩ := held_channel n hn
  obtain ⟨-, -, hcloset, -⟩ := held_measured n hn
  have hfound : decide (13 ≤ x.k + 1 ∧ ((max 1 (b.fld (F.VDRV_CDCFG_THR n)) * 100 : Nat) : Int) < |(v : Int) - x.avg - x.slope|) = true :=
    decide_eq_true ⟨by omega, hslope⟩
  unfold opClosingAverageEnd
  rw [rated_within hv]
  refine ends_then (gives_now b) (ends_then (gives_vch n b) (ends_then (gives_closingWindow n b) (ends_then (gives_gf _ b) ?_)))
  simp only [hsearch]
  refine ends_ite_neg (by omega) (ends_ite_pos hfound ?_)
  rw [if_pos hlow]
  refine ends_then (gives_setField _ _ b) (ends_then (gives_sb _ true _) (ends_of_gives (gives_vchMod n _ _) ⟨?_, ?_, ?_, fun a ha => ?_⟩))
  · rw [modVch_fld, fld_setField_ne _ (show R.VDRV_CLOSET n ≠ R.VDRV_CSTAT n by simp only [R.VDRV_CLOSET, R.VDRV_CSTAT]; omega)]
    exact (fld_setField hb.wf hcloset _).trans (Nat.mod_eq_of_lt hlow)
  · exact fld_setField (setField_wf hb.wf _ _) hclosed 1
  · rw [modVch_same (setField_drive (setField_drive hb _ _) _ _) hn]
  · simp only [List.mem_cons, List.not_mem_nil, or_false, not_or] at ha
    exact (setField_get_ne _ _ _ ha.2).trans (setField_get_ne _ _ _ ha.1)

/-- An average before the 13th is kept for the next. -/
theorem ends_closingEarly (hdue : b.averageDue n x) (hv : v ≤ 70000) (hk : x.k < 12) : Ends (opClosingAverageEnd n v) b fun _ d =>
    (d.vch n).search = some ⟨x.since, x.k + 1, v, (v : Int) - x.avg⟩ ∧ d.regs = b.regs := by
  obtain ⟨hsearch, htime, hwin⟩ := hdue
  unfold opClosingAverageEnd
  rw [rated_within hv]
  refine ends_then (gives_now b) (ends_then (gives_vch n b) (ends_then (gives_closingWindow n b) (ends_then (gives_gf _ b) ?_)))
  simp only [hsearch]
  refine ends_ite_neg (by omega) (ends_ite_neg (fun h => ?_) (ends_of_gives (gives_vchMod n _ b) ⟨?_, rfl⟩))
  · have h := of_decide_eq_true h
    omega
  · rw [modVch_same hb hn]

/-- The window ends without a closing. -/
theorem ends_closingMissed (hsearch : (b.vch n).search = some x) (htime : x.since + max 1 (b.fld (F.VDRV_CDCFG_WIN n)) * 500000 ≤ b.u.elapsed) :
    Ends (opClosingWindowEnd n) b fun _ d => d.fld (F.VDRV_CLOSET_T n) = 0xFFFF ∧ d.fld (F.VDRV_CSTAT_CDMISS n) = 1 ∧ d.fld F.VDRV_STAT_CDMISS = 1 ∧
      (d.vch n).search = none := by
  obtain ⟨-, -, -, hmiss, -⟩ := held_channel n hn
  obtain ⟨-, -, hcloset, -⟩ := held_measured n hn
  obtain ⟨-, -, hstat, -⟩ := held_drive
  have hwf1 := setField_wf hb.wf (F.VDRV_CLOSET_T n) 0xFFFF
  have hwf2 := setField_wf hwf1 (F.VDRV_CSTAT_CDMISS n) 1
  refine ends_then (gives_now b) (ends_then (gives_vch n b) (ends_then (gives_closingWindow n b) ?_))
  simp only [hsearch]
  refine ends_onlyIf_true (decide_eq_true htime) (ends_then (gives_setField _ _ b) (ends_then (gives_sb _ true _) (ends_then (gives_sb _ true _)
    (ends_of_gives (gives_vchMod n _ _) ⟨?_, ?_, fld_setField hwf2 hstat 1, ?_⟩))))
  · rw [modVch_fld, fld_setField_ne _ (show R.VDRV_CLOSET n ≠ R.VDRV_STAT by simp only [R.VDRV_CLOSET, R.VDRV_STAT]; omega),
      fld_setField_ne _ (show R.VDRV_CLOSET n ≠ R.VDRV_CSTAT n by simp only [R.VDRV_CLOSET, R.VDRV_CSTAT]; omega)]
    exact (fld_setField hb.wf hcloset _).trans (show 0xFFFF % 2 ^ 16 = 0xFFFF by norm_num)
  · rw [modVch_fld, fld_setField_ne _ (show R.VDRV_CSTAT n ≠ R.VDRV_STAT by simp only [R.VDRV_CSTAT, R.VDRV_STAT]; omega)]
    exact fld_setField hwf1 hmiss 1
  · rw [modVch_same (setField_drive (setField_drive (setField_drive hb _ _) _ _) _ _) hn]

end

/-! ### Thermal limits (R270) -/

/-- Where the limits of channel `n` show: thermal limiting, and a fault. -/
abbrev limitBits (n a j : Nat) : Prop := (a = R.VDRV_CSTAT n ∧ j = 12) ∨ (a = R.VDRV_STAT ∧ j = 4) ∨ faultShown n a j

/-- A channel after its limits: as it was, or opened by a fault. -/
abbrev limitedFrom (c d : ValveCh) : Prop := d = c ∨ d = c.off.inPhase 6

section
variable {b : Block} {n : Nat}

theorem ends_valveFault_ch (hb : b.Drive) (hn : n < 32) (kind leg : Nat) :
    Ends (valveFault n kind leg) b fun _ c => limitedFrom (b.vch n) (c.vch n) := by
  by_cases hheld : b.fld (F.VDRV_FAULT_CODE n) = 0
  · exact ends_mono (ends_valveFault hb hn hheld kind leg) fun _ c hc => .inr hc.ch
  · exact ends_then (gives_gf _ b) (ends_ite_pos hheld (ends_of_gives (gives_pure () b) (.inl rfl)))

/-- The limits of a channel leave its model, and the other channels. -/
theorem ends_coilLimits (hb : b.Drive) (hn : n < 32) : Ends (coilLimits n) b fun _ c =>
    limitedFrom (b.vch n) (c.vch n) ∧ Within (limitBits n) (valveKeep (othersView n)) b c := by
  have hkeep : ∀ (f : RF) (v : Bool), f = F.VDRV_CSTAT_THLIM n ∨ f = F.VDRV_STAT_THLIM →
      Keeps False (Within (limitBits n) (valveKeep (othersView n)) b) (sb f v) := fun f v hf => by
    rcases hf with rfl | rfl
    · exact within_sb (Nat.le_refl 12) (show 12 < 32 by decide) fun j h0 h1 => .inl ⟨rfl, Nat.le_antisymm h1 h0⟩
    · exact within_sb (Nat.le_refl 4) (show 4 < 32 by decide) fun j h0 h1 => .inr (.inl ⟨rfl, Nat.le_antisymm h1 h0⟩)
  have hfault : Keeps False (Within (limitBits n) (valveKeep (othersView n)) b) (valveFault n 5 0) :=
    keeps_valveFault (fun _ _ => othersView_same n _ _) (fun _ => othersView_same n _ _) hn (fun _ _ h => .inr (.inr h)) 5 0
  refine ends_and ?_ (ends_of_keeps (keeps_bind (keeps_bf _) fun on => keeps_bind (keeps_getVch n) fun c => keeps_bind (keeps_gf _) fun lim =>
    keeps_bind (keeps_bf _) fun hot => keeps_ite (fun _ => keeps_pure ()) fun _ => keeps_ite (fun _ => keeps_bind (hkeep _ true (.inl rfl)) fun _ =>
      keeps_bind (keeps_onlyIf fun _ => hkeep _ true (.inr rfl)) fun _ => keeps_onlyIf fun _ => hfault) fun _ => keeps_onlyIf fun _ => hkeep _ false (.inl rfl))
    (within_refl hb.wf))
  refine ends_then (gives_bf _ b) (ends_then (gives_vch n b) (ends_then (gives_gf _ b) (ends_then (gives_bf _ b) ?_)))
  dsimp only
  split_ifs
  · exact ends_of_gives (gives_pure () b) (.inl rfl)
  · refine ends_then (gives_sb _ true b) (ends_bind (P := fun _ c => c.Drive ∧ c.vch n = b.vch n) (ends_onlyIf (fun _ => ?_) fun _ => ?_) fun _ c ⟨hc, hch⟩ =>
      ends_onlyIf (fun _ => hch ▸ ends_valveFault_ch hc hn 5 0) fun _ => .inl hch)
    · exact ends_of_gives (gives_sb _ true _) ⟨setField_drive (setField_drive hb _ _) _ _, rfl⟩
    · exact ⟨setField_drive hb _ _, rfl⟩
  · exact ends_onlyIf (fun _ => ends_of_gives (gives_sb _ false b) (.inl rfl)) fun _ => .inl rfl

end

/-! ### The measured resistance (R269) -/

theorem nearest_mul (q : Int) {d : Nat} (hd : 0 < d) : nearest (q * d) d = q := by
  have hd' : (d : Int) ≠ 0 := by omega
  simp only [nearest, Int.mul_ediv_cancel q hd', Int.mul_emod_left]
  exact if_pos (by omega)

theorem within_coilShow {T : Nat → Nat → Prop} {b : Block} (hb : b.Drive) {n : Nat} (hT : ∀ j, T (R.VDRV_TW n) j) :
    ∃ w, Gives (coilShow n) b () (b.setReg (R.VDRV_TW n) w) ∧ Within T (valveKeep fun _ c => c) b (b.setReg (R.VDRV_TW n) w) :=
  ⟨_, gives_bind (gives_vch n b) (gives_wr _ _ b), within_setReg hb.wf _ hT⟩

theorem limitedFrom_model {c d : ValveCh} (h : limitedFrom c d) : d.tw = c.tw ∧ d.tb = c.tb ∧ (c.steady = 0 → d.steady = 0) := by
  rcases h with rfl | rfl
  · exact ⟨rfl, rfl, id⟩
  · exact ⟨rfl, rfl, fun _ => rfl⟩

/-- A steady channel's mean voltage and current give its resistance, and the winding's temperature. -/
theorem ends_coilResMeasure {b : Block} (hb : b.Drive) {n v i q : Nat} (hn : n < 32) (hphase : (b.vch n).phase = 2 ∨ (b.vch n).phase = 3)
    (hsteady : 64 ≤ (b.vch n).steady) (hi : 0 < i) (hvq : v * 100 = q * i) (hq : q < 65536) (hrc : b.fld (F.VDRV_RCOLD_RC n) ≠ 0) :
    Ends (opCoilResMeasure n v i) b fun _ d => d.fld (F.VDRV_RMEAS_R n) = q ∧ (d.vch n).steady = 0 ∧
      (d.vch n).tw = 20 + ((v : ℚ) / i / ((b.fld (F.VDRV_RCOLD_RC n) : ℚ) / 100) - 1) / (393 / 100000) ∧ (d.vch n).tb = (b.vch n).tb ∧
      (∀ k, k ≠ n → d.vch k = b.vch k) ∧ ∀ k < 33, k ≠ n → d.fld (F.VDRV_RMEAS_R k) = b.fld (F.VDRV_RMEAS_R k) := by
  obtain ⟨-, -, -, hheld, -⟩ := held_measured n hn
  have hfit : fitU 16 (nearest ((v : Int) * 100) i) = q := by
    rw [show ((v : Int) * 100) = (q : Int) * i by exact_mod_cast hvq, nearest_mul _ hi]
    exact if_pos (by omega)
  have hrun : ((b.vch n).phase == 2 || (b.vch n).phase == 3) = true := by
    rcases hphase with h | h <;> rw [h] <;> rfl
  let c := b.setField (F.VDRV_RMEAS_R n) q
  have hc : c.Drive := setField_drive hb _ _
  refine ends_then (gives_vch n b) (ends_then (gives_gf _ b) (ends_onlyIf_true (by simp [hrun, hsteady, hi]) ?_))
  rw [hfit]
  refine ends_then (gives_setField _ q b) (ends_then (gives_vchMod n _ c) (ends_onlyIf_true (bne_iff_ne.2 hrc) (ends_then (gives_vchMod n _ _) ?_)))
  have hd1 := modVch_drive hc n fun c => { c with steady := 0 }
  have hd2 := modVch_drive hd1 n fun c => { c with tw := 20 + ((v : ℚ) / i / ((b.fld (F.VDRV_RCOLD_RC n) : ℚ) / 100) - 1) / (393 / 100000) }
  obtain ⟨w, hshow, hw⟩ := within_coilShow (T := fun a _ => a = R.VDRV_TW n) hd2 (n := n) fun _ => rfl
  refine ends_then hshow (ends_mono (ends_coilLimits (hw.drive hd2) hn) fun _ d ⟨hch, hk⟩ => ?_)
  obtain ⟨htw, htb, hst⟩ := limitedFrom_model hch
  have hrmeas : ∀ k < 33, d.fld (F.VDRV_RMEAS_R k) = c.fld (F.VDRV_RMEAS_R k) := fun k hk33 => by
    rw [hk.frameFld fun j _ _ => ?_, hw.frameFld fun j _ _ => ?_]
    · rfl
    · simp only [F.VDRV_RMEAS_R, R.VDRV_RMEAS, R.VDRV_TW]
      omega
    · simp only [limitBits, faultShown, phaseBits, linkBits, window, linkWindows, F.VDRV_RMEAS_R, R.VDRV_RMEAS, R.VDRV_CSTAT, R.VDRV_STAT, R.VDRV_FAULT, R.VDRV_FLTMAP,
        List.mem_cons, List.not_mem_nil, or_false]
      omega
  rw [setReg_vch, modVch_same hd1 hn, modVch_same hc hn] at htw htb hst
  refine ⟨?_, hst rfl, htw, htb, fun k hk' => ?_, fun k hk33 hk' => (hrmeas k hk33).trans (fld_setField_ne b ?_ q)⟩
  · exact (hrmeas n (by omega)).trans ((fld_setField hb.wf hheld q).trans (Nat.mod_eq_of_lt hq))
  · rw [hk.other hk', setReg_vch, modVch_ne _ hk', modVch_ne _ hk']
    rfl
  · simp only [F.VDRV_RMEAS_R, R.VDRV_RMEAS]
    omega

/-! ### The coil model (R268) -/

/-- The steps of a list of which one matters: those before it keep `R`, it brings about `Q`, and those after it keep `Q`. -/
theorem ends_each_once {α : Type} {f : α → Op Unit} {R Q : Block → Prop} {x : α} {l : List α} (hnodup : l.Nodup) (hx : x ∈ l)
    (hbefore : ∀ y ∈ l, y ≠ x → ∀ b, R b → Ends (f y) b fun _ c => R c) (hat : ∀ b, R b → Ends (f x) b fun _ c => Q c)
    (hafter : ∀ y ∈ l, y ≠ x → ∀ b, Q b → Ends (f y) b fun _ c => Q c) {b : Block} (hb : R b) : Ends (each f l) b fun _ c => Q c := by
  induction l generalizing b with
  | nil => cases hx
  | cons y l ih =>
    obtain ⟨hy, hnodup⟩ := List.nodup_cons.1 hnodup
    by_cases hyx : y = x
    · subst hyx
      exact ends_bind (hat b hb) fun _ c hc => ends_each (fun z hz => hafter z (by simp [hz]) fun e => hy (e ▸ hz)) hc
    · exact ends_bind (hbefore y (by simp) hyx b hb) fun _ c hc => ih hnodup ((List.mem_cons.1 hx).resolve_left (Ne.symm hyx))
        (fun z hz => hbefore z (by simp [hz])) (fun z hz => hafter z (by simp [hz])) hc

/-- What the steps of the channels' models change: the shown nodes of channels that govern themselves, and what limits show. -/
abbrev coilBits (b0 : Block) (a _j : Nat) : Prop :=
  (∃ y, (a = R.VDRV_TW y ∧ b0.governs y = y) ∨ a = R.VDRV_CSTAT y ∨ a = R.VDRV_FAULT y) ∨ a = R.VDRV_STAT ∨ a = R.VDRV_FLTMAP ∨ window a ∈ linkWindows

theorem limitBits_coil (b0 : Block) {n a j : Nat} (h : limitBits n a j) : coilBits b0 a j := by
  rcases h with ⟨h, -⟩ | ⟨h, -⟩ | ⟨h | h, -⟩ | h | ⟨h, -⟩ | ⟨h, -⟩ | h
  · exact .inl ⟨n, .inr (.inl h)⟩
  · exact .inr (.inl h)
  · exact .inl ⟨n, .inr (.inl h)⟩
  · exact .inl ⟨n + 1, .inr (.inl h)⟩
  · exact .inl ⟨n, .inr (.inr h)⟩
  · exact .inr (.inr (.inl h))
  · exact .inr (.inl h)
  · exact .inr (.inr (.inr h))

/-- What the steps leave of channel `k`: all of it, where another channel governs it, and the two nodes of channel `n`. -/
def nodesView (b0 : Block) (n k : Nat) (c : ValveCh) : Option ValveCh × Option (ℚ × ℚ) :=
  (if b0.governs k = k then none else some c, if k = n then some (c.tw, c.tb) else none)

/-- What every other channel's step keeps of the model of channel `n`. -/
abbrev CoilFrame (b0 : Block) (n : Nat) : Block → Block → Prop := Within (coilBits b0) (valveKeep (nodesView b0 n))

/-- The two nodes after a step of 1 ms from `tw` and `tb`, at current `im` in A and ambient `ta` in °C, by the coil's registers in block `b`. -/
def Block.stepTw (b : Block) (n : Nat) (im tw tb : ℚ) : ℚ :=
  tw + 1 / 1000 / ((max 1 (b.fld (F.VDRV_THC_CW n)) : Nat) / 10) *
    (im * im * ((b.fld (F.VDRV_RCOLD_RC n) : ℚ) / 100 * (1 + 393 / 100000 * (tw - 20))) - (tw - tb) / ((max 1 (b.fld (F.VDRV_THR_RWB n)) : Nat) / 10))

def Block.stepTb (b : Block) (n : Nat) (ta tw tb : ℚ) : ℚ :=
  tb + 1 / 1000 / (max 1 (b.fld (F.VDRV_THC_CB n)) : Nat) * ((tw - tb) / ((max 1 (b.fld (F.VDRV_THR_RWB n)) : Nat) / 10) -
    (tb - ta) / ((max 1 (b.fld (F.VDRV_THR_RBA n)) : Nat) / 2))

/-- The coil current in A that the model takes for channel `n`: none while its domain is off. -/
def Block.coilCurrent (b : Block) (n : Nat) : ℚ := if b.fld (domField (vgate n)) != 0 then (b.fld (F.VDRV_MEAS_I n) : ℚ) / 1000 else 0

/-- Channel `n` after a step of its model. -/
def Block.coilStepped (b : Block) (n : Nat) (ta : ℚ) (c : ValveCh) : ValveCh :=
  { c with tw := b.stepTw n (b.coilCurrent n) c.tw c.tb, tb := b.stepTb n ta (b.stepTw n (b.coilCurrent n) c.tw c.tb) c.tb }

section
variable {b : Block} (hb : b.Drive) {n : Nat} (hn : n < 32) (ta : ℚ)

/-- A channel that another governs, or without a cold resistance, has no model. -/
theorem gives_coilStep_idle (h : (b.governs n == n && b.fld (F.VDRV_RCOLD_RC n) != 0) = false) : Gives (coilStep ta n) b () b :=
  gives_bind (gives_governs n b) (gives_bind (gives_gf _ b) (gives_bind (gives_gf _ b) (gives_bind (gives_bf _ b) (gives_bind (gives_gf _ b) (gives_bind (gives_gf _ b)
    (gives_bind (gives_gf _ b) (gives_bind (gives_gf _ b) (gives_onlyIf_false h))))))))

include hb hn

/-- A step that runs: the nodes move, and the limits follow. -/
theorem ends_coilStep_runs (hg : b.governs n = n) (hrc : b.fld (F.VDRV_RCOLD_RC n) ≠ 0) : Ends (coilStep ta n) b fun _ d =>
    limitedFrom (b.coilStepped n ta (b.vch n)) (d.vch n) ∧ Within (fun a j => a = R.VDRV_TW n ∨ limitBits n a j) (valveKeep (othersView n)) b d := by
  have hc := modVch_drive hb n (b.coilStepped n ta)
  obtain ⟨w, hshow, hw⟩ := within_coilShow (T := fun a _ => a = R.VDRV_TW n) hc (n := n) fun _ => rfl
  refine ends_then (gives_governs n b) (ends_then (gives_gf _ b) (ends_then (gives_gf _ b) (ends_then (gives_bf _ b) (ends_then (gives_gf _ b) (ends_then (gives_gf _ b)
    (ends_then (gives_gf _ b) (ends_then (gives_gf _ b) (ends_onlyIf_true ?_ (ends_then (gives_vchMod n (b.coilStepped n ta) b) (ends_then hshow
      (ends_mono (ends_coilLimits (hw.drive hc) hn) fun _ d ⟨hch, hk⟩ => ⟨?_, ?_⟩)))))))))))
  · rw [hg, beq_self_eq_true, Bool.true_and]
    exact bne_iff_ne.2 hrc
  · rw [setReg_vch, modVch_same hb hn] at hch
    exact hch
  · have h1 : Within (fun a j => a = R.VDRV_TW n ∨ limitBits n a j) (valveKeep (othersView n)) b (b.modVch n (b.coilStepped n ta)) := within_modVch hb n _
    have h2 := hw.mono (V := fun a j => a = R.VDRV_TW n ∨ limitBits n a j) (hold := valveKeep (othersView n)) (fun _ _ => .inl) fun u v h => by
      simp only [valveKeep, Prod.mk.injEq] at h ⊢
      exact ⟨h.1, h.2.1, funext fun k => congrArg (othersView n k) (congrFun h.2.2 k)⟩
    exact (h1.trans h2).trans (hk.mono (fun _ _ => .inr) fun _ _ => id)

end

/-- A frame of one channel's doings, in what they leave of it. -/
theorem Within.ofOthers {β : Type} {T : Nat → Nat → Prop} {view : Nat → ValveCh → β} {b c : Block} {n : Nat} (h : Within T (valveKeep (othersView n)) b c)
    (hv : view n (c.vch n) = view n (b.vch n)) : Within T (valveKeep view) b c := by
  refine ⟨h.wf, h.bit, ?_⟩
  have hu := h.units
  simp only [valveKeep, Prod.mk.injEq] at hu ⊢
  refine ⟨hu.1, hu.2.1, funext fun k => ?_⟩
  by_cases hk : k = n
  · subst hk
    exact hv
  · exact congrArg (view k) (h.other hk)

section
variable {b c : Block} {n : Nat} (ta : ℚ)

theorem coilFrame_governs {β : Type} {keep : Units → β} (h : Within (coilBits b) keep b c) (y : Nat) : c.governs y = b.governs y := by
  have hpair : c.regs.get R.VDRV_PAIR = b.regs.get R.VDRV_PAIR := h.reg fun j hbit => by
    simp only [coilBits, window, linkWindows, R.VDRV_TW, R.VDRV_CSTAT, R.VDRV_FAULT, R.VDRV_STAT, R.VDRV_FLTMAP, R.VDRV_PAIR, List.mem_cons, List.not_mem_nil,
      or_false] at hbit
    rcases hbit with ⟨y, h⟩ | h <;> omega
  rw [Block.governs, Block.governs, Block.paired, Block.paired, hpair]

/-- The registers that the model of channel `n` reads. -/
theorem coilFrame_reads {β : Type} {keep : Units → β} (h : Within (coilBits b) keep b c) (hn : n < 32) {f : RF}
    (hf : f.reg ∈ [R.VDRV_RCOLD n, R.VDRV_THR n, R.VDRV_THC n, R.VDRV_MEAS n, (domField (vgate n)).reg]) : c.fld f = b.fld f := by
  refine congrArg f.of (h.reg fun j hbit => ?_)
  simp only [coilBits, window, linkWindows, R.VDRV_TW, R.VDRV_CSTAT, R.VDRV_FAULT, R.VDRV_STAT, R.VDRV_FLTMAP, List.mem_cons, List.not_mem_nil, or_false] at hbit
  simp only [List.mem_cons, List.not_mem_nil, or_false, domField, vgate, R.PWR_DOMSTAT, R.VDRV_RCOLD, R.VDRV_THR, R.VDRV_THC, R.VDRV_MEAS] at hf
  rcases hbit with ⟨y, h⟩ | h <;> omega

theorem coilFrame_stepped {β : Type} {keep : Units → β} (h : Within (coilBits b) keep b c) (hn : n < 32) (x : ValveCh) :
    c.coilStepped n ta x = b.coilStepped n ta x := by
  have hfld : ∀ f : RF, f.reg ∈ [R.VDRV_RCOLD n, R.VDRV_THR n, R.VDRV_THC n, R.VDRV_MEAS n, (domField (vgate n)).reg] → c.fld f = b.fld f :=
    fun f => coilFrame_reads h hn
  simp only [Block.coilStepped, Block.stepTw, Block.stepTb, Block.coilCurrent, hfld (F.VDRV_THC_CW n) (by simp [F.VDRV_THC_CW]),
    hfld (F.VDRV_THC_CB n) (by simp [F.VDRV_THC_CB]), hfld (F.VDRV_RCOLD_RC n) (by simp [F.VDRV_RCOLD_RC]), hfld (F.VDRV_THR_RWB n) (by simp [F.VDRV_THR_RWB]),
    hfld (F.VDRV_THR_RBA n) (by simp [F.VDRV_THR_RBA]), hfld (F.VDRV_MEAS_I n) (by simp [F.VDRV_MEAS_I]), hfld (domField (vgate n)) (by simp)]

/-- The step of another channel. -/
theorem ends_coilStep_other (hc : c.Drive) {y : Nat} (hy : y < 32) (hyn : y ≠ n) (hgov : c.governs y = b.governs y) :
    Ends (coilStep ta y) c fun _ d => CoilFrame b n c d := by
  by_cases hrun : (c.governs y == y && c.fld (F.VDRV_RCOLD_RC y) != 0) = true
  · obtain ⟨hg, hrc⟩ := Bool.and_eq_true_iff.1 hrun
    have hself : b.governs y = y := hgov.symm.trans (eq_of_beq hg)
    refine ends_mono (ends_coilStep_runs hc hy ta (eq_of_beq hg) (bne_iff_ne.1 hrc)) fun _ d ⟨_, hk⟩ => Within.ofOthers (n := y) (hk.mono (fun a j h => ?_) fun _ _ => id) ?_
    · rcases h with h | h
      · exact .inl ⟨y, .inl ⟨h, hself⟩⟩
      · exact limitBits_coil b h
    · simp [nodesView, hself, hyn]
  · exact ends_of_gives (gives_coilStep_idle ta (Bool.eq_false_iff.2 hrun)) (within_refl hc.wf)

/-- A step of all channels' models moves the nodes of channel `n` by its own step, and nothing of a channel that another governs. -/
theorem ends_coilSteps (hb : b.Drive) (hn : n < 32) (hg : b.governs n = n) (hrc : b.fld (F.VDRV_RCOLD_RC n) ≠ 0) :
    Ends (each (coilStep ta) (List.range 32)) b fun _ d => (d.vch n).tw = (b.coilStepped n ta (b.vch n)).tw ∧
      (d.vch n).tb = (b.coilStepped n ta (b.vch n)).tb ∧ Within (coilBits b) (valveKeep fun k c => (nodesView b n k c).1) b d := by
  have hless : ∀ {c d : Block}, CoilFrame b n c d → Within (coilBits b) (valveKeep fun k c => (nodesView b n k c).1) c d := fun h =>
    h.mono (fun _ _ => id) fun u v hu => by
      simp only [valveKeep, Prod.mk.injEq] at hu ⊢
      exact ⟨hu.1, hu.2.1, funext fun k => congrArg Prod.fst (congrFun hu.2.2 k)⟩
  have hnodes : ∀ {c d : Block}, CoilFrame b n c d → (d.vch n).tw = (c.vch n).tw ∧ (d.vch n).tb = (c.vch n).tb := fun h => by
    simpa [nodesView] using congrArg Prod.snd (h.vch n)
  refine ends_each_once (R := CoilFrame b n b) List.nodup_range (List.mem_range.2 hn) (fun y hy hyn c hc => ?_) (fun c hc => ?_) (fun y hy hyn c ⟨htw, htb, hc⟩ => ?_)
    (within_refl hb.wf)
  · exact ends_mono (ends_coilStep_other ta (hc.drive hb) (List.mem_range.1 hy) hyn (coilFrame_governs hc y)) fun _ d hd => hc.trans hd
  · have hgc : c.governs n = n := (coilFrame_governs hc n).trans hg
    have hrcc : c.fld (F.VDRV_RCOLD_RC n) ≠ 0 := by rwa [coilFrame_reads hc hn (by simp [F.VDRV_RCOLD_RC])]
    refine ends_mono (ends_coilStep_runs (hc.drive hb) hn ta hgc hrcc) fun _ d ⟨hch, hk⟩ => ?_
    obtain ⟨htw, htb, -⟩ := limitedFrom_model hch
    obtain ⟨hctw, hctb⟩ := hnodes hc
    rw [coilFrame_stepped ta hc hn] at htw htb
    have hk' : Within (coilBits b) (valveKeep fun k c => (nodesView b n k c).1) c d := Within.ofOthers (n := n) (hk.mono (fun a j h => ?_) fun _ _ => id) (by simp [nodesView, hg])
    · refine ⟨?_, ?_, (hless hc).trans hk'⟩
      · rw [htw, Block.coilStepped, Block.coilStepped, hctw, hctb]
      · rw [htb, Block.coilStepped, Block.coilStepped, hctw, hctb]
    · rcases h with h | h
      · exact .inl ⟨n, .inl ⟨h, hg⟩⟩
      · exact limitBits_coil b h
  · refine ends_mono (ends_coilStep_other ta (hc.drive hb) (List.mem_range.1 hy) hyn (coilFrame_governs hc y)) fun _ d hd => ?_
    obtain ⟨hdtw, hdtb⟩ := hnodes hd
    exact ⟨hdtw.trans htw, hdtb.trans htb, hc.trans (hless hd)⟩

end

/-! ### The tick -/

/-- The ambient is the die's temperature, where that is known and in whole tenths of a degree. -/
theorem gives_coilAmbient {b : Block} {ta : Int} (hsrc : b.fld F.VDRV_TAMB_SRC = 0) (hdie : b.fld (F.THM_TEMP_T 4) ≠ 0x8000)
    (hta : toSigned 16 (b.fld (F.THM_TEMP_T 4)) = ta * 10) : Gives coilAmbient b ta b := by
  have hn : nearest (toSigned 16 (b.fld (F.THM_TEMP_T 4))) 10 = ta := by
    rw [hta]
    exact nearest_mul ta (d := 10) (by decide)
  refine gives_bind (gives_bf_clear hsrc) (gives_bind (gives_gf _ b) (gives_bind (gives_gf _ b) (gives_bind (gives_gf _ b) (gives_bind (gives_gf _ b) ?_))))
  exact gives_ite_neg (by simp) (gives_ite_neg hdie (gives_pure_eq hn b))

/-- What block `d` shows of a tick at ambient `ta` of the models, for channel `n`. -/
structure CoilTicked (n : Nat) (ta : Int) (b d : Block) : Prop where
  tick : d.u.vdrv.tickAt = b.u.elapsed
  ambient : d.fld F.VDRV_TAMBV_TA = ofSigned 16 ta
  tw : (d.vch n).tw = b.stepTw n (b.coilCurrent n) (b.vch n).tw (b.vch n).tb
  tb : (d.vch n).tb = b.stepTb n ((ta : ℚ) / 10) (d.vch n).tw (b.vch n).tb
  governed : ∀ k < 32, b.governs k ≠ k → d.vch k = b.vch k ∧ d.regs.get (R.VDRV_TW k) = b.regs.get (R.VDRV_TW k)

/-- The ambient stored leaves everything else that the models read. -/
theorem coilStepped_ambient (b : Block) (u : Units) (v : Nat) {n : Nat} (hn : n < 32) (ta : ℚ) (c : ValveCh) :
    ((b.withU u).setField F.VDRV_TAMBV_TA v).coilStepped n ta c = b.coilStepped n ta c := by
  have hfld : ∀ f : RF, f.reg ≠ R.VDRV_TAMBV → ((b.withU u).setField F.VDRV_TAMBV_TA v).fld f = b.fld f := fun f hf => fld_setField_ne (b.withU u) hf v
  have hchan : ∀ f : RF, f.reg ∈ [R.VDRV_RCOLD n, R.VDRV_THR n, R.VDRV_THC n, R.VDRV_MEAS n, R.PWR_DOMSTAT ((88 + n) / 32)] →
      ((b.withU u).setField F.VDRV_TAMBV_TA v).fld f = b.fld f := fun f hf => hfld f fun e => by
    simp only [e, List.mem_cons, List.not_mem_nil, or_false, R.PWR_DOMSTAT, R.VDRV_RCOLD, R.VDRV_THR, R.VDRV_THC, R.VDRV_MEAS, R.VDRV_TAMBV] at hf
    omega
  simp only [Block.coilStepped, Block.stepTw, Block.stepTb, Block.coilCurrent, hchan (F.VDRV_THC_CW n) (by simp [F.VDRV_THC_CW]),
    hchan (F.VDRV_THC_CB n) (by simp [F.VDRV_THC_CB]), hchan (F.VDRV_RCOLD_RC n) (by simp [F.VDRV_RCOLD_RC]), hchan (F.VDRV_THR_RWB n) (by simp [F.VDRV_THR_RWB]),
    hchan (F.VDRV_THR_RBA n) (by simp [F.VDRV_THR_RBA]), hchan (F.VDRV_MEAS_I n) (by simp [F.VDRV_MEAS_I]), hchan (domField (vgate n)) (by simp [domField, vgate])]

/-- Every 1 ms the models of all channels take a step at the ambient, which shows. -/
theorem ends_coilTick {b : Block} (hb : b.Drive) {n : Nat} {ta : Int} (hn : n < 32) (hg : b.governs n = n) (hdue : b.u.vdrv.tickAt + 1000000 ≤ b.u.elapsed)
    (hta : Gives coilAmbient b ta b) (hrc : b.fld (F.VDRV_RCOLD_RC n) ≠ 0) : Ends opCoilModelTick b fun _ d => CoilTicked n ta b d := by
  obtain ⟨-, -, -, -, -, -, -, hamb, -⟩ := held_drive
  let u : Units := { b.u with vdrv := { b.u.vdrv with tickAt := b.u.elapsed } }
  let c := (b.withU u).setField F.VDRV_TAMBV_TA (ofSigned 16 ta)
  have hc : c.Drive := ⟨setField_wf hb.wf _ _, hb.whole⟩
  have hcb : ∀ a, a ≠ R.VDRV_TAMBV → c.regs.get a = b.regs.get a := fun a ha => setField_get_ne _ _ _ ha
  have hgov : ∀ k, c.governs k = b.governs k := fun k => by rw [Block.governs, Block.governs, Block.paired, Block.paired, hcb _ (by decide)]
  have hrcc : c.fld (F.VDRV_RCOLD_RC n) ≠ 0 := by
    rwa [Block.fld, hcb _ (by simp only [F.VDRV_RCOLD_RC, R.VDRV_RCOLD, R.VDRV_TAMBV]; omega)]
  refine ends_then (gives_now b) (ends_then (gives_units b) (ends_onlyIf_true (decide_eq_true hdue) (ends_then hta (ends_then (gives_modVdrv b _)
    (ends_then (gives_setField _ _ _) (ends_mono (ends_coilSteps ((ta : ℚ) / 10) hc hn ((hgov n).trans hg) hrcc) fun _ d ⟨htw, htb, hk⟩ => ?_))))))
  rw [coilStepped_ambient _ _ _ hn] at htw htb
  have hk : Within (coilBits c) (valveKeep fun k x => (nodesView c n k x).1) c d := hk
  refine ⟨hk.tickAt, ?_, htw, htb.trans ?_, fun k hk32 hgk => ⟨?_, ?_⟩⟩
  · refine (hk.frameFld fun j _ _ => ?_).trans ((fld_setField (b := b.withU u) hb.wf hamb _).trans (Nat.mod_eq_of_lt (ofSigned_lt 16 ta)))
    simp only [coilBits, window, linkWindows, F.VDRV_TAMBV_TA, R.VDRV_TAMBV, R.VDRV_TW, R.VDRV_CSTAT, R.VDRV_FAULT, R.VDRV_STAT, R.VDRV_FLTMAP, List.mem_cons,
      List.not_mem_nil, or_false]
    rintro (⟨y, h⟩ | h) <;> omega
  · rw [htw]
    rfl
  · have hview := hk.vch k
    simp only [nodesView, hgov, hgk, if_false, Option.some.injEq] at hview
    exact hview
  · refine (hk.reg fun j hbit => ?_).trans (hcb _ (by simp only [R.VDRV_TW, R.VDRV_TAMBV]; omega))
    simp only [coilBits, hgov, window, linkWindows, R.VDRV_TW, R.VDRV_CSTAT, R.VDRV_FAULT, R.VDRV_STAT, R.VDRV_FLTMAP, List.mem_cons, List.not_mem_nil, or_false] at hbit
    rcases hbit with ⟨y, ⟨hy, hself⟩ | hy⟩ | hy
    · exact hgk (by rwa [show k = y by omega])
    · omega
    · omega

/-! ### The statement -/

/-- The current that a statement names is the one of the model. -/
theorem coilCurrent_eq (s : State) (n : Nat) : s.dev.coilCurrent n = if s.powered (88 + n) then (s.fld (F.VDRV_MEAS_I n) : ℚ) / 1000 else 0 := by
  have hlt : s.dev.fld (domField (vgate n)) < 2 := by
    have := fld_lt s.dev (domField (vgate n))
    rwa [show (domField (vgate n)).hi + 1 - (domField (vgate n)).lo = 1 by simp [domField]] at this
  have hon : (s.dev.fld (domField (vgate n)) != 0) = decide (s.powered (88 + n)) := by
    rw [Bool.eq_iff_iff, bne_iff_ne, decide_eq_true_iff]
    change s.dev.fld (domField (vgate n)) ≠ 0 ↔ s.dev.fld (domField (vgate n)) = 1
    omega
  rw [Block.coilCurrent, hon]
  simp only [decide_eq_true_eq]
  rfl

/-- Settles O20: a channel that stands for itself and the even channel of a pair have the detection and the model of their coil by the same lemmas;
what the ticks leave of a governed channel is all of it. -/
theorem valveDetection : Obligations.ValveDetection := by
  unfold Obligations.ValveDetection
  refine ⟨?found, ?early, ?missed, ?tick, ?measure, ?foundPair, ?tickPair, ?measurePair⟩
  case found =>
    intro s n v x hl hb ⟨hn, _, hwhole⟩ hsearch htime hwin hk hslope hlow hv
    exact does_of_ends rfl hl (ends_mono (ends_closingFound ⟨hb, hwhole⟩ hn ⟨hsearch, htime, hwin⟩ hv hk hslope hlow) fun _ d ⟨ht, hc, hs, ho⟩ => ⟨ht, hc, hs, ho⟩)
  case early =>
    intro s n v x hl hb ⟨hn, _, hwhole⟩ hsearch htime hwin hk hv
    exact does_of_ends rfl hl (ends_mono (ends_closingEarly ⟨hb, hwhole⟩ hn ⟨hsearch, htime, hwin⟩ hv hk) fun _ d ⟨hs, ho⟩ =>
      ⟨hs, fun a _ => congrArg (Regs.get · a) ho⟩)
  case missed =>
    intro s n x hl hb ⟨hn, _, hwhole⟩ hsearch htime
    exact does_of_ends rfl hl (ends_closingMissed ⟨hb, hwhole⟩ hn hsearch htime)
  case tick =>
    rintro s n ta c p i hl hb ⟨hn, hpair, hwhole⟩ hdue hsrc hdie hta hrc rfl rfl rfl
    refine does_of_ends rfl hl (ends_mono (ends_coilTick ⟨hb, hwhole⟩ hn (governs_self (.inl hpair)) hdue (gives_coilAmbient hsrc hdie hta) hrc) fun _ d hd => ?_)
    have htw := hd.tw
    rw [coilCurrent_eq] at htw
    exact ⟨hd.tick, hd.ambient, htw, hd.tb⟩
  case measure =>
    intro s n v i q hl hb ⟨hn, _, hwhole⟩ hphase hsteady hi hvq hq hrc
    exact does_of_ends rfl hl (ends_mono (ends_coilResMeasure ⟨hb, hwhole⟩ hn hphase hsteady hi hvq hq hrc) fun _ d ⟨hr, hs, htw, htb, _, _⟩ => ⟨hr, hs, htw, htb⟩)
  case foundPair =>
    intro s n v x hl hb ⟨hn, _, _, hwhole⟩ hsearch htime hwin hk hslope hlow hv
    exact does_of_ends rfl hl (ends_mono (ends_closingFound ⟨hb, hwhole⟩ hn ⟨hsearch, htime, hwin⟩ hv hk hslope hlow) fun _ d ⟨ht, hc, hs, ho⟩ => ⟨ht, hc, hs, ho⟩)
  case tickPair =>
    rintro s n ta c p i hl hb ⟨hn, heven, hpair, hwhole⟩ hdue hsrc hdie hta hrc rfl rfl rfl
    refine does_of_ends rfl hl (ends_mono (ends_coilTick ⟨hb, hwhole⟩ hn (governs_self (.inr heven)) hdue (gives_coilAmbient hsrc hdie hta) hrc) fun _ d hd => ?_)
    have htw := hd.tw
    rw [coilCurrent_eq] at htw
    have hodd : s.dev.governs (n + 1) ≠ n + 1 := by
      rw [governs_odd (by rw [Block.paired, show (n + 1) / 2 = n / 2 by omega]; exact hpair) (by omega)]
      omega
    obtain ⟨hch, hreg⟩ := hd.governed (n + 1) (by omega) hodd
    exact ⟨htw, hd.tb, hch, hreg⟩
  case measurePair =>
    intro s n v i q hl hb ⟨hn, _, _, hwhole⟩ hphase hsteady hi hvq hq hrc
    exact does_of_ends rfl hl (ends_mono (ends_coilResMeasure ⟨hb, hwhole⟩ hn hphase hsteady hi hvq hq hrc) fun _ d ⟨hr, hs, htw, htb, hch, hmeas⟩ =>
      ⟨hr, hs, htw, htb, hch (n + 1) (by omega), hmeas (n + 1) (by omega) (by omega)⟩)

end Sys2Proof.Machine
end

section
/-!
PROOF. Proofs/ValveProfiles.lean: the bank periods, the end of a boost, and the commands of a channel (R248, R249, R253, R257, R259, R260, R273).
-/
namespace Sys2Proof.Machine

/-! ### Bank periods (R248) -/

/-- A period of bank `k` starts, in the grid of the first one's start. -/
theorem ends_bankPeriod {b : Block} (hb : b.regs.wf = true) {k a st : Nat} (hk : k < 4) (hwhole : b.u.vdrv.banks.length = 4)
    (ha : b.u.vdrv.anchor = some a ∨ (b.u.vdrv.anchor = none ∧ b.u.wall % 50000 < 4 ∧ a = b.u.elapsed))
    (hst : st = b.u.elapsed - (b.u.elapsed - a) % 50000) (hdue : (b.u.vdrv.banks.getD k none).all (fun x => decide (x < st)) = true) :
    Ends (opValveBankPeriod k) b fun _ d => d.u.vdrv.anchor = some a ∧ d.u.vdrv.banks.getD k none = some st ∧
      (d.regs.get R.VDRV_PSTART).toNat = (b.u.wall - (b.u.elapsed - a) % 50000) % 2 ^ 32 ∧ d.u.vdrv.chs = b.u.vdrv.chs ∧
      ∀ x, x ≠ R.VDRV_PSTART → d.regs.get x = b.regs.get x := by
  have hgrid : (b.u.vdrv.anchor.or (if b.u.wall % 50000 < 4 then some b.u.elapsed else none)) = some a := by
    rcases ha with h | ⟨h, hwall, rfl⟩
    · rw [h]
      rfl
    · rw [h, if_pos hwall]
      rfl
  have hstarts : ((match b.u.vdrv.banks.getD k none with | none => true | some s => decide (s < st)) && decide (k < 4)) = true := by
    rw [decide_eq_true hk, Bool.and_true]
    revert hdue
    cases b.u.vdrv.banks.getD k none with
    | none => exact fun _ => rfl
    | some x => exact id
  refine ends_then (gives_now b) (ends_then (gives_wall b) (ends_then (gives_units b) ?_))
  simp only [hgrid]
  rw [← hst]
  refine ends_onlyIf_true hstarts (ends_then (gives_modVdrv b _) (ends_of_gives (gives_wr _ _ _) ⟨rfl, ?_, ?_, rfl, fun x hx => get_set_ne _ _ hx⟩))
  · exact setAt_getD_same _ _ _ _ (by omega)
  · exact (congrArg BitVec.toNat (get_set_full hb (show regImpl R.VDRV_PSTART = 0xFFFFFFFF#32 by decide) _)).trans (BitVec.toNat_ofNat _ _)

/-! ### The end of a boost (R259, R260, R273) -/

section
variable {b : Block} {n : Nat}

/-- The target of a channel's phase is read: the boost or the hold current, but for the proportional phase and the thermal limit. -/
theorem gives_phaseTarget (b : Block) (n : Nat) : ∃ v, Gives (phaseTarget n) b v b ∧ ((b.vch n).phase ≠ 3 → b.fld (F.VDRV_CSTAT_THLIM n) = 0 →
    v = if (b.vch n).phase = 1 then (b.vch n).boost else min (b.vch n).holdI (contLimit (b.paired n))) := by
  have hprop : ∀ set ph lim, ∃ t, Gives (propTarget n set ph lim) b t b := fun set ph lim =>
    ⟨_, gives_bind (gives_gf _ b) (gives_bind (gives_bf _ b) (gives_pure _ b))⟩
  by_cases h3 : (b.vch n).phase = 3
  · obtain ⟨t, ht⟩ := hprop (min (b.vch n).active (contLimit (b.paired n))) (b.vch n).dither (contLimit (b.paired n))
    exact ⟨_, gives_bind (gives_paired n b) (gives_bind (gives_vch n b) (gives_bind (gives_bf _ b) (gives_bind (gives_gf _ b)
      (gives_ite_pos h3 (gives_bind ht (gives_pure _ b)))))), fun h => absurd h3 h⟩
  · refine ⟨_, gives_bind (gives_paired n b) (gives_bind (gives_vch n b) (gives_bind (gives_bf _ b) (gives_bind (gives_gf _ b)
      (gives_ite_neg h3 (gives_bind (gives_pure _ b) (gives_pure _ b)))))), fun _ hcold => ?_⟩
    rw [show (F.VDRV_CSTAT_THLIM n).of (b.regs.get (F.VDRV_CSTAT_THLIM n).reg) = 0 from hcold]
    rfl

/-- What block `d` shows of a boost of channel `n` that ended in block `b` at `cur` mA, in hold or the proportional phase. -/
structure BoostEnded (n cur : Nat) (b d : Block) : Prop where
  shown : d.fld (F.VDRV_CSTAT_PHASE n) = if b.fld (F.VDRV_PROF_TYPE n) = 2 then 3 else 2
  pair : b.paired n = true → n % 2 = 0 → d.fld (F.VDRV_CSTAT_PHASE (n + 1)) = d.fld (F.VDRV_CSTAT_PHASE n)
  left : (d.vch n).left = 0
  duty : (d.vch n).duty = 0
  since : (d.vch n).since = b.u.elapsed
  target : b.fld (F.VDRV_PROF_TYPE n) = 1 → b.fld (F.VDRV_CSTAT_THLIM n) = 0 → (d.vch n).target = min (b.vch n).holdI (contLimit (b.paired n))
  wait : (d.vch n).waitFall = true ↔ (d.vch n).target < cur
  kept : Within (phaseBits n) (valveKeep (othersView n)) b d

variable (hb : b.Drive) (hn : n < 32) {cur : Nat}
include hb hn

theorem ends_boostOver_goesOn (hreached : b.fld (F.VDRV_PROF_OLEN n) = 0 ∨ (b.vch n).boost ≤ 2 * max (b.vch n).peak cur) :
    Ends (boostOver n cur) b fun _ d => BoostEnded n cur b d := by
  have hgoes : ¬((b.fld (F.VDRV_PROF_OLEN n) != 0) = true ∧ 2 * max (b.vch n).peak cur < (b.vch n).boost) := by
    rintro ⟨holen, hlow⟩
    rcases hreached with h | h
    · rw [h] at holen
      exact absurd holen (by decide)
    · omega
  let ph := if b.fld (F.VDRV_PROF_TYPE n) = 2 then 3 else 2
  have hph : ph % 8 = ph := by
    simp only [ph]
    split <;> rfl
  refine ends_then (gives_now b) (ends_then (gives_vch n b) (ends_then (gives_gf _ b) (ends_then (gives_bf _ b) (ends_ite_neg hgoes
    (ends_bind (ends_valvePhase hb hn ph) fun _ c hc => ?_)))))
  have hcd := hc.kept.drive hb
  let d := c.modVch n fun x => { x with left := 0, since := b.u.elapsed }
  have hdd : d.Drive := modVch_drive hcd n _
  have hdch : d.vch n = { (b.vch n).inPhase ph with left := 0, since := b.u.elapsed } := (modVch_same hcd hn _).trans (by rw [hc.ch])
  obtain ⟨tg, hgives, htg⟩ := gives_phaseTarget d n
  refine ends_then (gives_vchMod n _ c) (ends_then hgives (ends_of_gives (gives_vchMod n _ d) ?_))
  have hech := modVch_same hdd hn fun x => { x with target := tg, duty := 0, waitFall := decide (tg < cur) }
  have hpaired : d.paired n = b.paired n := by
    rw [Block.paired, Block.paired, modVch_regs, hc.kept.reg fun j => by simp only [phaseBits, R.VDRV_PAIR, R.VDRV_CSTAT]; omega]
  have hlim : d.fld (F.VDRV_CSTAT_THLIM n) = b.fld (F.VDRV_CSTAT_THLIM n) := hc.kept.frameFld fun j _ h1 h => by
    have h1 : j ≤ 12 := h1
    have := h.2.1
    omega
  refine ⟨hc.shown.trans hph, fun hp he => (hc.pair hp he).trans hc.shown.symm, ?_, ?_, ?_, fun htyp hcold => ?_, ?_,
    (hc.kept.trans (within_modVch hcd n _)).trans (within_modVch hdd n _)⟩
  · rw [hech, hdch]
  · rw [hech]
  · rw [hech, hdch]
  · have h2 : ph = 2 := if_neg (by omega)
    have hd2 : (d.vch n).phase = 2 := by rw [hdch]; exact h2
    have hheld : (d.vch n).holdI = (b.vch n).holdI := by rw [hdch]; rfl
    rw [hech]
    simpa [hd2, hheld, hpaired] using htg (by omega) (hlim.trans hcold)
  · rw [hech]
    exact decide_eq_true_iff

/-- The current of a boost that never reached half its target has the channel latch OPEN. -/
theorem ends_boostOver_open (holen : b.fld (F.VDRV_PROF_OLEN n) = 1) (hlow : 2 * max (b.vch n).peak cur < (b.vch n).boost)
    (hnone : b.fld (F.VDRV_FAULT_CODE n) = 0) : Ends (boostOver n cur) b fun _ d => Faulted n 4 0 b d := by
  refine ends_then (gives_now b) (ends_then (gives_vch n b) (ends_then (gives_gf _ b) (ends_then (gives_bf_set holen) (ends_ite_pos ⟨rfl, hlow⟩
    (ends_valveFault hb hn hnone 4 0)))))

omit hb hn in
/-- The command at the end of a boost phase. -/
theorem ends_boostEnd {rl : Nat} {Q : Unit → Block → Prop} (hg : b.governs n = n) (hphase : (b.vch n).phase = 1) (hreload : (b.vch n).reloadAt = some rl)
    (hdue : rl + (b.vch n).left * 50000 ≤ b.u.elapsed) (h : Ends (boostOver n cur) b Q) : Ends (opBoostEnd n cur) b Q := by
  refine ends_then (gives_now b) (ends_then (gives_vch n b) (ends_then (gives_governs n b) ?_))
  simp only [hreload]
  exact ends_onlyIf_true (by simp [hg, hphase, hdue]) h

omit hb hn in
/-- A governed leg has no boost of its own. -/
theorem gives_boostEnd_governed (hg : b.governs n ≠ n) : Gives (opBoostEnd n cur) b () b := by
  refine gives_bind (gives_now b) (gives_bind (gives_vch n b) (gives_bind (gives_governs n b) ?_))
  cases (b.vch n).reloadAt with
  | none => exact gives_pure () b
  | some r => exact gives_onlyIf_false (by simp [hg])

end

/-! ### Commands (R253, R257) -/

/-- Where the deferral of channel `n` shows. -/
abbrev deferBits (n a _j : Nat) : Prop := a = R.VDRV_DEFERCNT ∨ a = R.VDRV_STAT ∨ a = R.VDRV_CSTAT n

section
variable {b : Block} {n : Nat}

/-- What a note of a write keeps of a channel. -/
def phaseView (_ : Nat) (c : ValveCh) : Nat := c.phase

theorem ends_valveNote (hb : b.Drive) (k : Nat) (cmd : Bool) :
    Ends (valveNote n k cmd) b fun _ c => Within (deferBits n) (valveKeep phaseView) b c := by
  have hdefer : Keeps False (Within (deferBits n) (valveKeep phaseView) b) (valveDefer n k) := keeps_onlyIf fun _ =>
    keeps_bind (within_cntSat (show 0 ≤ 31 by decide) (show 31 < 32 by decide) fun _ _ _ => .inl rfl) fun _ =>
      keeps_bind (within_sb (Nat.le_refl 7) (show 7 < 32 by decide) fun _ _ _ => .inr (.inl rfl)) fun _ =>
        within_sb (Nat.le_refl 1) (show 1 < 32 by decide) fun _ _ _ => .inr (.inr rfl)
  refine ends_of_keeps (keeps_bind keeps_now fun t => keeps_bind (keeps_governs n) fun g => keeps_bind (keeps_getVch n) fun c => keeps_bind (keeps_gf _) fun set =>
    keeps_bind (keeps_bf _) fun on => keeps_bind (keeps_bf _) fun seton => keeps_onlyIf fun _ => keeps_ite (fun _ => hdefer) fun _ =>
      keeps_ite (fun _ => keeps_vchMod fun _ => rfl) fun _ => keeps_vchMod fun _ => rfl) (within_refl hb.wf)

/-- The writes of a governed leg are not noted. -/
theorem gives_valveNote_governed (hg : b.governs n ≠ n) (k : Nat) (cmd : Bool) : Gives (valveNote n k cmd) b () b :=
  gives_bind (gives_now b) (gives_bind (gives_governs n b) (gives_bind (gives_vch n b) (gives_bind (gives_gf _ b) (gives_bind (gives_bf _ b)
    (gives_bind (gives_bf _ b) (gives_onlyIf_false (beq_eq_false_iff_ne.2 hg)))))))

/-- The word that VDRV_CMD takes of a write of ON = 1. -/
theorem on_of_merge (old : Word) : (F.VDRV_CMD_ON n).of (mergeWord vcmdRow old 0x80008000) = 1 :=
  (merge_set rfl (F.VDRV_CMD_ON n) (show bits ((0x80008000 : Word).toNat / 65536) 15 15 = 2 ^ (15 + 1 - 15) - 1 by decide)
    (show bits vcmdRow.rw 15 15 = 2 ^ (15 + 1 - 15) - 1 by decide)).trans (show bits (0x80008000 : Word).toNat 15 15 = 1 by decide)

variable (hb : b.Drive) (hn : n < 32) (hon : b.fld (domField (vgate n)) = 1)
include hb hn hon

/-- ON written 1 commands a switching profile of a channel without a fault. -/
theorem ends_cmdOn {src : Src} (hg : b.governs n = n) (hseton : b.fld (F.VDRV_PROF_SETON n) = 0)
    (htyp : b.fld (F.VDRV_PROF_TYPE n) = 1 ∨ b.fld (F.VDRV_PROF_TYPE n) = 2) (hnone : b.fld (F.VDRV_FAULT_CODE n) = 0) :
    Ends (onlyIf (decide (n < 32)) (opWrite src (R.VDRV_CMD n) 0x80008000)) b fun _ d => d.fld (F.VDRV_CMD_ON n) = 1 ∧ (d.vch n).cmd = true ∧
      (d.vch n).phase = (b.vch n).phase ∧ ∀ a, a ∉ [R.VDRV_CMD n, R.VDRV_DEFERCNT, R.VDRV_STAT, R.VDRV_CSTAT n] → d.regs.get a = b.regs.get a := by
  obtain ⟨-, -, -, -, hheld⟩ := held_measured n hn
  let w := mergeWord vcmdRow (b.regs.get (R.VDRV_CMD n)) 0x80008000
  refine ends_vcmdWrite hn hon (by decide) (by decide) (ends_then (gives_onlyIf_false (by rfl)) (ends_ite_pos (by decide) ?_))
  let c := b.mended (R.VDRV_CMD n)
  have hc : c.Drive := ⟨hb.wf, hb.whole⟩
  have hcmd : (((F.VDRV_CMD_ON n).of w != 0) && !(c.fld (F.VDRV_PROF_SETON n) != 0) && (c.fld (F.VDRV_PROF_TYPE n) == 1 || c.fld (F.VDRV_PROF_TYPE n) == 2) &&
      c.fld (F.VDRV_FAULT_CODE n) == 0 && c.governs n == n) = true := by
    have htyp : (c.fld (F.VDRV_PROF_TYPE n) == 1 || c.fld (F.VDRV_PROF_TYPE n) == 2) = true := by
      rcases htyp with h | h <;> rw [show c.fld (F.VDRV_PROF_TYPE n) = b.fld (F.VDRV_PROF_TYPE n) from rfl, h] <;> rfl
    rw [htyp, on_of_merge, show c.fld (F.VDRV_PROF_SETON n) = 0 from hseton, show c.fld (F.VDRV_FAULT_CODE n) = 0 from hnone,
      show c.governs n = n from hg]
    simp
  refine ends_then (gives_bf _ c) (ends_then (gives_gf _ c) (ends_then (gives_gf _ c) (ends_then (gives_bf _ c) (ends_then (gives_governs n c)
    (ends_bind (ends_valveNote hc _ _) fun _ d hd => ends_then (gives_wr _ w d) (ends_onlyIf_true hcmd (ends_of_gives (gives_vchMod n _ _) ?_)))))))
  have hdd := setReg_drive (hd.drive hc) (R.VDRV_CMD n) w
  have hch := modVch_same hdd hn fun x => { x with cmd := true }
  refine ⟨?_, ?_, ?_, fun a ha => ?_⟩
  · rw [modVch_fld]
    exact (of_get_set hd.wf hheld w).trans (on_of_merge _)
  · rw [hch]
  · rw [hch]
    exact hd.vch n
  · simp only [List.mem_cons, List.not_mem_nil, or_false, not_or] at ha
    obtain ⟨h1, h2, h3, h4⟩ := ha
    refine (get_set_ne _ _ h1).trans (hd.reg fun j hbit => ?_)
    rcases hbit with h | h | h
    · exact h2 h
    · exact h3 h
    · exact h4 h

/-- ON written for a governed leg is stored and has no effect. -/
theorem ends_cmdOn_governed {src : Src} (hg : b.governs n ≠ n) : Ends (onlyIf (decide (n < 32)) (opWrite src (R.VDRV_CMD n) 0x80008000)) b fun _ d =>
    d.fld (F.VDRV_CMD_ON n) = 1 ∧ d.u = b.u ∧ ∀ a, a ≠ R.VDRV_CMD n → d.regs.get a = b.regs.get a := by
  obtain ⟨-, -, -, -, hheld⟩ := held_measured n hn
  let w := mergeWord vcmdRow (b.regs.get (R.VDRV_CMD n)) 0x80008000
  let c := b.mended (R.VDRV_CMD n)
  have hgc : (c.governs n == n) = false := beq_eq_false_iff_ne.2 hg
  refine ends_vcmdWrite hn hon (by decide) (by decide) (ends_then (gives_onlyIf_false (by rfl)) (ends_ite_pos (by decide) ?_))
  refine ends_then (gives_bf _ c) (ends_then (gives_gf _ c) (ends_then (gives_gf _ c) (ends_then (gives_bf _ c) (ends_then (gives_governs n c)
    (ends_then (gives_valveNote_governed (b := c) hg _ _) (ends_then (gives_wr _ w c) (ends_of_gives (gives_onlyIf_false ?_) ⟨?_, rfl, fun a ha => get_set_ne _ _ ha⟩)))))))
  · rw [hgc, Bool.and_false]
  · exact (of_get_set hb.wf hheld w).trans (on_of_merge _)

end

end Sys2Proof.Machine
end

section
/-!
PROOF. Proofs/ValveReloads.lean: the reload of a channel, and the statement about bank periods, profiles and reloads (R248, R249, R252, R253, R256,
R257, R259, R260, R273, R661).
-/
namespace Sys2Proof.Machine

/-! ### What a reload takes and shows (R252, R257, R661) -/

/-- The block with the period that ended shown: its duty `du` and mean current, and the duty at the odd channel of a pair too. -/
def Block.measured (b : Block) (n du mean : Nat) : Block :=
  let c := (b.setField (F.VDRV_MEAS_DUTY n) du).setField (F.VDRV_MEAS_I n) mean
  if b.paired n then c.setField (F.VDRV_MEAS_DUTY (n + 1)) du else c

theorem meas_ne_next (n : Nat) : R.VDRV_MEAS n ≠ R.VDRV_MEAS (n + 1) := by
  simp only [R.VDRV_MEAS]
  omega

section
variable {b : Block} {n : Nat} (du mean : Nat)

theorem measured_vch (k : Nat) : (b.measured n du mean).vch k = b.vch k := by
  unfold Block.measured
  split <;> rfl

theorem measured_u : (b.measured n du mean).u = b.u := by
  unfold Block.measured
  split <;> rfl

theorem measured_other {a : Nat} (h : a ≠ R.VDRV_MEAS n) (h' : a ≠ R.VDRV_MEAS (n + 1)) : (b.measured n du mean).regs.get a = b.regs.get a := by
  have hc : ((b.setField (F.VDRV_MEAS_DUTY n) du).setField (F.VDRV_MEAS_I n) mean).regs.get a = b.regs.get a :=
    (setField_get_ne _ _ _ h).trans (setField_get_ne _ _ _ h)
  unfold Block.measured
  split
  · exact (setField_get_ne _ _ _ h').trans hc
  · exact hc

theorem measured_drive (hb : b.Drive) : (b.measured n du mean).Drive := by
  have hc := setField_drive (setField_drive hb (F.VDRV_MEAS_DUTY n) du) (F.VDRV_MEAS_I n) mean
  unfold Block.measured
  split
  · exact setField_drive hc _ _
  · exact hc

theorem measured_fld (hb : b.Drive) (hn : n < 32) (hmean : mean < 65536) :
    (b.measured n du mean).fld (F.VDRV_MEAS_I n) = mean ∧ (b.measured n du mean).fld (F.VDRV_MEAS_DUTY n) = du % 65536 := by
  obtain ⟨hi, hduty, -⟩ := held_measured n hn
  have hwf := setField_wf hb.wf (F.VDRV_MEAS_DUTY n) du
  have hc : ((b.setField (F.VDRV_MEAS_DUTY n) du).setField (F.VDRV_MEAS_I n) mean).fld (F.VDRV_MEAS_I n) = mean ∧
      ((b.setField (F.VDRV_MEAS_DUTY n) du).setField (F.VDRV_MEAS_I n) mean).fld (F.VDRV_MEAS_DUTY n) = du % 65536 :=
    ⟨(fld_setField hwf hi mean).trans (Nat.mod_eq_of_lt hmean),
      (fld_setField_apart hwf hi (g := F.VDRV_MEAS_DUTY n) rfl (.inr (show 15 < 16 by decide)) mean).trans (fld_setField hb.wf hduty du)⟩
  unfold Block.measured
  split
  · exact ⟨(fld_setField_ne _ (f := F.VDRV_MEAS_DUTY (n + 1)) (g := F.VDRV_MEAS_I n) (meas_ne_next n) du).trans hc.1,
      (fld_setField_ne _ (f := F.VDRV_MEAS_DUTY (n + 1)) (g := F.VDRV_MEAS_DUTY n) (meas_ne_next n) du).trans hc.2⟩
  · exact hc

theorem measured_pair (hb : b.Drive) (hn : n < 32) (hp : b.paired n = true) (heven : n % 2 = 0) :
    (b.measured n du mean).fld (F.VDRV_MEAS_DUTY (n + 1)) = du % 65536 ∧
      (b.measured n du mean).fld (F.VDRV_MEAS_I (n + 1)) = b.fld (F.VDRV_MEAS_I (n + 1)) := by
  obtain ⟨-, hduty, -⟩ := held_measured (n + 1) (by omega)
  have hwf := setField_wf (setField_wf hb.wf (F.VDRV_MEAS_DUTY n) du) (F.VDRV_MEAS_I n) mean
  unfold Block.measured
  rw [if_pos hp]
  refine ⟨fld_setField hwf hduty du, (fld_setField_apart hwf hduty (g := F.VDRV_MEAS_I (n + 1)) rfl (.inl (show 15 < 16 by decide)) du).trans ?_⟩
  rw [fld_setField_ne _ (meas_ne_next n).symm, fld_setField_ne _ (meas_ne_next n).symm]

end

/-- What a frame's view leaves of a channel. -/
theorem Within.of_view {γ : Type} {T : Nat → Nat → Prop} {view : Nat → ValveCh → ValveCh} {b c : Block} (h : Within T (valveKeep view) b c) (n : Nat)
    (f : ValveCh → γ) (hf : ∀ x, f (view n x) = f x) : f (c.vch n) = f (b.vch n) := by
  rw [← hf, h.vch, hf]

/-- A channel but for what its periods count towards OPEN and the resistance measurement. -/
def uncounted (_ : Nat) (c : ValveCh) : ValveCh := { c with openRun := 0, steady := 0 }

/-- A period that ends with fewer than 63 before it at full duty and low current latches no OPEN. -/
theorem ends_valveCount {b : Block} (hb : b.Drive) {n : Nat} (m : CoilMeas) (hrun : (b.vch n).openRun < 63) :
    Ends (valveCount n m) b fun _ c => Within (fun _ _ => False) (valveKeep uncounted) b c := by
  have hlow : ¬ 64 ≤ if decide (1 ≤ (b.vch n).ran.phase ∧ (b.vch n).ran.phase ≤ 3 ∧ (b.vch n).ran.duty = 9700 ∧ 2 * m.mean < (b.vch n).ran.target) = true
      then (b.vch n).openRun + 1 else 0 := by
    split <;> omega
  refine ends_then (gives_vch n b) (ends_then (gives_gf _ b) (ends_then (gives_bf _ b)
    (ends_bind (ends_of_keeps (keeps_vchMod fun _ => rfl) (within_refl hb.wf)) fun _ c hc => ends_of_gives (gives_onlyIf_false ?_) hc)))
  rw [decide_eq_false hlow, Bool.and_false]

/-- A channel at whose reload the setpoint, the demand and a command are taken, at `cur` mA. -/
def ValveCh.taken (c : ValveCh) (t set : Nat) (d cm : Bool) (cur : Nat) : ValveCh :=
  { c with reloadAt := some t, active := set, demand := d, cmd := cm, restart := false, peak := max c.peak cur }

/-- What block `c` shows once the reload of channel `n` in block `b` has taken setpoint `set`, demand `d` and the waiting command `cm`. -/
structure Taken (n : Nat) (m : CoilMeas) (set : Nat) (d cm : Bool) (b c : Block) : Prop where
  drive : c.Drive
  elapsed : c.u.elapsed = b.u.elapsed
  meas : m.mean < 65536 → n < 32 → c.fld (F.VDRV_MEAS_I n) = m.mean ∧ c.fld (F.VDRV_MEAS_DUTY n) = (b.vch n).ran.duty % 65536
  pair : n < 32 → b.paired n = true → n % 2 = 0 → c.fld (F.VDRV_MEAS_DUTY (n + 1)) = (b.vch n).ran.duty % 65536 ∧
    c.fld (F.VDRV_MEAS_I (n + 1)) = b.fld (F.VDRV_MEAS_I (n + 1))
  other : ∀ a, a ≠ R.VDRV_MEAS n → a ≠ R.VDRV_MEAS (n + 1) → c.regs.get a = b.regs.get a
  active : (c.vch n).active = set
  demand : (c.vch n).demand = d
  cmd : (c.vch n).cmd = cm
  reloadAt : (c.vch n).reloadAt = some b.u.elapsed
  phase : (c.vch n).phase = (b.vch n).phase

theorem ends_reloadTakes {b : Block} (hb : b.Drive) {n set : Nat} (hn : n < 32) {m : CoilMeas} {d : Bool} {cm : ValveCh → Bool} (hrun : (b.vch n).openRun < 63) {k : Op Unit}
    {Q : Unit → Block → Prop} (h : ∀ c, Taken n m set d (cm (b.vch n)) b c → Ends k c Q) : Ends (do
      sf (F.VDRV_MEAS_DUTY n) (b.vch n).ran.duty
      sf (F.VDRV_MEAS_I n) (fitU 16 m.mean)
      onlyIf (b.paired n) (sf (F.VDRV_MEAS_DUTY (n + 1)) (b.vch n).ran.duty)
      modVch n fun c => { c with reloadAt := some b.u.elapsed, active := set, demand := d, cmd := cm c, restart := false, peak := max c.peak m.current }
      valveCount n m
      k) b Q := by
  let c := b.measured n (b.vch n).ran.duty (fitU 16 m.mean)
  have hshown : Gives (onlyIf (b.paired n) (sf (F.VDRV_MEAS_DUTY (n + 1)) (b.vch n).ran.duty))
      ((b.setField (F.VDRV_MEAS_DUTY n) (b.vch n).ran.duty).setField (F.VDRV_MEAS_I n) (fitU 16 m.mean)) () c := by
    by_cases hp : b.paired n = true
    · rw [show c = _ from if_pos hp]
      exact gives_onlyIf_true hp (gives_setField _ _ _)
    · rw [show c = _ from if_neg hp]
      exact gives_onlyIf_false (Bool.eq_false_iff.2 hp)
  have hc : c.Drive := measured_drive _ _ hb
  let e := c.modVch n fun x => x.taken b.u.elapsed set d (cm x) m.current
  have he : e.Drive := modVch_drive hc n _
  have hech : e.vch n = (b.vch n).taken b.u.elapsed set d (cm (b.vch n)) m.current := (modVch_same hc hn _).trans (by rw [measured_vch])
  refine ends_then (gives_setField _ _ b) (ends_then (gives_setField _ _ _) (ends_then hshown (ends_then (gives_vchMod n _ c)
    (ends_bind (ends_valveCount he m (n := n) (by rw [hech]; exact hrun)) fun _ f hf => h f ?_))))
  have hreg : ∀ a, f.regs.get a = c.regs.get a := fun a => hf.reg fun _ => id
  have hch : ∀ {γ : Type} (g : ValveCh → γ), (∀ x, g (uncounted n x) = g x) → g (f.vch n) = g ((b.vch n).taken b.u.elapsed set d (cm (b.vch n)) m.current) :=
    fun g hg => (hf.of_view n g hg).trans (by rw [hech])
  have hfld : ∀ g : RF, f.fld g = c.fld g := fun g => congrArg g.of (hreg g.reg)
  refine ⟨hf.drive he, hf.elapsed.trans (show c.u.elapsed = b.u.elapsed by rw [measured_u]), fun hmean hn => ?_, fun hn hp heven => ?_,
    fun a h1 h2 => (hreg a).trans (measured_other _ _ h1 h2), hch ValveCh.active fun _ => rfl, hch ValveCh.demand fun _ => rfl,
    hch ValveCh.cmd fun _ => rfl, hch ValveCh.reloadAt fun _ => rfl, hch ValveCh.phase fun _ => rfl⟩
  · have hshows := measured_fld (b.vch n).ran.duty (fitU 16 m.mean) hb hn (by rw [fitU_of_lt hmean]; exact hmean)
    rw [hfld, hfld]
    exact hshows.imp_left fun hi => hi.trans (fitU_of_lt hmean)
  · rw [hfld, hfld]
    exact measured_pair _ _ hb hn hp heven

/-! ### A profile starts (R254, R259) -/

/-- What a command leaves of a channel whose closing search it may end. -/
def unsearched (_ : Nat) (c : ValveCh) : ValveCh := { c with search := none }

theorem keeps_closingAbort {β : Type} {T : Nat → Nat → Prop} {view : Nat → ValveCh → β} {b0 : Block} {n : Nat} (hT : T (R.VDRV_CSTAT n) 5)
    (hv : ∀ c, view n { c with search := none } = view n c) : Keeps False (Within T (valveKeep view) b0) (closingAbort n) := by
  refine keeps_bind keeps_now fun t => keeps_bind (keeps_getVch n) fun c => keeps_bind (keeps_bind (keeps_gf _) fun _ => keeps_pure _) fun w => ?_
  cases c.search with
  | none => exact keeps_pure ()
  | some x => exact keeps_bind (keeps_onlyIf fun _ => within_sb (Nat.le_refl 5) (show 5 < 32 by decide) fun j h0 h1 => Nat.le_antisymm h0 h1 ▸ hT) fun _ =>
      keeps_onlyIf fun _ => keeps_vchMod hv

/-- Where the start of channel `n`'s profile shows. -/
abbrev startBits (n a j : Nat) : Prop := phaseBits n a j ∨ (a = R.VDRV_CSTAT n ∧ j = 2) ∨ a = R.VDRV_RESTCNT n

section
variable {b : Block} (hb : b.Drive) {n : Nat} (hn : n < 32)
include hb hn

/-- A channel that starts its boost at `t` ns, up to `boost` mA for `periods` and then to hold at `hold` mA. -/
def ValveCh.boosting (c : ValveCh) (boost hold periods t : Nat) : ValveCh :=
  { c with boost := boost, holdI := hold, left := periods, peak := 0, dither := 0, waitFall := false, since := t }

omit hb hn in
/-- What block `d` shows of channel `n` that starts its boost in block `b`. -/
structure Boosts (n : Nat) (b d : Block) : Prop where
  shown : d.fld (F.VDRV_CSTAT_PHASE n) = 1
  pair : b.paired n = true → n % 2 = 0 → d.fld (F.VDRV_CSTAT_PHASE (n + 1)) = 1
  ch : d.vch n = ((b.vch n).boosting (min (b.fld (F.VDRV_BOOST_I n)) (boostLimit (b.paired n))) (b.fld (F.VDRV_HOLDI_I n))
    (2 * min 10000 (b.fld (F.VDRV_BOOSTT_T n))) b.u.elapsed).inPhase 1
  kept : Within (startBits n) (valveKeep (othersView n)) b d

theorem ends_valveStart_boosts (htyp : b.fld (F.VDRV_PROF_TYPE n) = 1) (hcold : b.fld (F.VDRV_CSTAT_THLIM n) = 0) (hlong : 0 < b.fld (F.VDRV_BOOSTT_T n))
    (command : Bool) : Ends (valveStart n command) b fun _ d => Boosts n b d := by
  have hrestart : Keeps False (Within (startBits n) (valveKeep fun _ x => x) b)
      (onlyIf (command && decide (1 ≤ (b.vch n).phase) && decide ((b.vch n).phase ≤ 3)) (do sb (F.VDRV_CSTAT_RESTART n) true; cntSat (F.VDRV_RESTCNT_CNT n) 1)) :=
    keeps_onlyIf fun _ => keeps_bind (within_sb (Nat.le_refl 2) (show 2 < 32 by decide) fun j h0 h1 => .inr (.inl ⟨rfl, Nat.le_antisymm h1 h0⟩)) fun _ =>
      within_cntSat (show 0 ≤ 31 by decide) (show 31 < 32 by decide) fun _ _ _ => .inr (.inr rfl)
  have htyp2 : ¬ b.fld (F.VDRV_PROF_TYPE n) = 2 := by omega
  have htyp3 : ¬ b.fld (F.VDRV_PROF_TYPE n) = 3 := by omega
  have hperiods : (if (false || decide (b.fld (F.VDRV_PROF_TYPE n) = 2) && !(b.fld (F.VDRV_PROF_PBOOST n) != 0)) = true then 0
      else 2 * min 10000 (b.fld (F.VDRV_BOOSTT_T n))) = 2 * min 10000 (b.fld (F.VDRV_BOOSTT_T n)) := by
    rw [decide_eq_false htyp2]
    rfl
  refine ends_then (gives_now b) (ends_then (gives_paired n b) (ends_then (gives_vch n b) (ends_then (gives_gf _ b) (ends_then (gives_bf _ b)
    (ends_then (gives_bf_clear hcold) (ends_then (gives_gf _ b) (ends_then (gives_gf _ b) (ends_then (gives_gf _ b)
      (ends_bind (ends_of_keeps hrestart (within_refl hb.wf)) fun _ c hc => ends_ite_neg htyp3 (ends_then (gives_vchMod n _ c) ?_))))))))))
  have hcd := hc.drive hb
  have hpaired : c.paired n = b.paired n := by
    rw [Block.paired, Block.paired, hc.reg fun j => by simp only [startBits, phaseBits, R.VDRV_PAIR, R.VDRV_CSTAT, R.VDRV_RESTCNT]; omega]
  rw [show (if (false || decide ((F.VDRV_PROF_TYPE n).of (b.regs.get (F.VDRV_PROF_TYPE n).reg) = 2) &&
      !((F.VDRV_PROF_PBOOST n).of (b.regs.get (F.VDRV_PROF_PBOOST n).reg) != 0)) = true then 0
      else 2 * min 10000 ((F.VDRV_BOOSTT_T n).of (b.regs.get (F.VDRV_BOOSTT_T n).reg))) = _ from hperiods,
    if_pos (show 0 < 2 * min 10000 (b.fld (F.VDRV_BOOSTT_T n)) by omega)]
  refine ends_mono (ends_valvePhase (modVch_drive hcd n _) hn 1) fun _ d hd => ⟨hd.shown, fun hp he => hd.pair (hpaired.trans hp) he, ?_, ?_⟩
  · rw [hd.ch, modVch_same hcd hn, show c.vch n = b.vch n from hc.vch n]
    rfl
  · exact ((hc.mono (hold := valveKeep (othersView n)) (fun _ _ => id) fun u v h => by
      simp only [valveKeep, Prod.mk.injEq] at h ⊢
      exact ⟨h.1, h.2.1, funext fun k => congrArg (othersView n k) (congrFun h.2.2 k)⟩).trans (within_modVch hcd n _)).trans
        (hd.kept.mono (fun _ _ => .inl) fun _ _ => id)

/-- A channel but for what a period drives it by. -/
def undriven (_ : Nat) (c : ValveCh) : ValveCh := { c with target := 0, duty := 0, waitFall := false }

/-- A period of the boost phase regulates to the boost current, with a free duty (assumption log 1). -/
theorem ends_valvePeriod_boosts (hphase : (b.vch n).phase = 1) (hcold : b.fld (F.VDRV_CSTAT_THLIM n) = 0) (m : CoilMeas) : Ends (valvePeriod n m) b fun _ d =>
    Within (fun _ _ => False) (valveKeep undriven) b d ∧ (d.vch n).target = (b.vch n).boost := by
  obtain ⟨tg, hgives, htg⟩ := gives_phaseTarget b n
  have htg : tg = (b.vch n).boost := by rw [htg (by omega) hcold, if_pos hphase]
  have hdrives : ∀ (wait : Bool) (k : Nat) (c : Block), Within (fun _ _ => False) (valveKeep fun _ x => x) b c → Ends (do
      modVch n fun x => { x with target := tg, duty := k, waitFall := wait }
      onlyIf ((b.vch n).phase == 3 && !wait) (ditherAdvance n)) c fun _ d =>
        Within (fun _ _ => False) (valveKeep undriven) b d ∧ (d.vch n).target = (b.vch n).boost := fun wait k c hc => by
    have hcd := hc.drive hb
    have hview : Within (fun _ _ => False) (valveKeep undriven) b c := hc.mono (fun _ _ => id) fun u v h => by
      simp only [valveKeep, Prod.mk.injEq] at h ⊢
      exact ⟨h.1, h.2.1, funext fun k => congrArg (undriven k) (congrFun h.2.2 k)⟩
    obtain ⟨_, d, hd, hgd⟩ := keeps_gives_some (keeps_vchMod (S := False) (T := fun _ _ => False) (view := undriven) (b0 := b) (n := n)
      (f := fun x => { x with target := tg, duty := k, waitFall := wait }) fun _ => rfl) hview
    obtain rfl := gives_unique (gives_vchMod n _ c) hgd
    refine ends_then hgd (ends_of_gives (gives_onlyIf_false (by rw [hphase]; rfl)) ⟨hd, ?_⟩)
    rw [modVch_same hcd hn]
    exact htg
  refine ends_then (gives_vch n b) (ends_ite_neg (by omega) (ends_then hgives ?_))
  have hfree : Keeps False (Within (fun _ _ => False) (valveKeep fun _ x => x) b) regulatedDuty := keeps_bind keeps_valveFree fun _ => keeps_pure _
  dsimp only
  split
  · exact ends_then (gives_pure 0 b) (hdrives _ 0 b (within_refl hb.wf))
  · obtain ⟨k, c, hc, hg⟩ := keeps_gives_some hfree (within_refl hb.wf)
    exact ends_then hg (hdrives _ k c hc)

/-- Where a profile that starts at a command shows. -/
abbrev boostBits (n a j : Nat) : Prop := startBits n a j ∨ (a = R.VDRV_CSTAT n ∧ j = 5)

omit hb hn in
/-- What block `d` shows of channel `n` that runs the first period of a boost, where its reload left block `b`. -/
structure BoostRuns (n : Nat) (b d : Block) : Prop where
  shown : d.fld (F.VDRV_CSTAT_PHASE n) = 1
  pair : b.paired n = true → n % 2 = 0 → d.fld (F.VDRV_CSTAT_PHASE (n + 1)) = 1
  active : (d.vch n).active = (b.vch n).active
  demand : (d.vch n).demand = (b.vch n).demand
  reloadAt : (d.vch n).reloadAt = (b.vch n).reloadAt
  left : (d.vch n).left = 2 * min 10000 (b.fld (F.VDRV_BOOSTT_T n))
  boost : (d.vch n).boost = min (b.fld (F.VDRV_BOOST_I n)) (boostLimit (b.paired n))
  target : (d.vch n).target = min (b.fld (F.VDRV_BOOST_I n)) (boostLimit (b.paired n))
  kept : Within (boostBits n) (fun _ => ()) b d

/-- A command ends a closing search, the profile starts from boost, and its first period runs. -/
theorem ends_boostRuns (htyp : b.fld (F.VDRV_PROF_TYPE n) = 1) (hcold : b.fld (F.VDRV_CSTAT_THLIM n) = 0) (hlong : 0 < b.fld (F.VDRV_BOOSTT_T n))
    (command : Bool) (m : CoilMeas) : Ends (do closingAbort n; valveStart n command; valvePeriod n m; valveRecord n) b fun _ d => BoostRuns n b d := by
  refine ends_bind (ends_of_keeps (keeps_closingAbort (T := fun a j => a = R.VDRV_CSTAT n ∧ j = 5) (view := unsearched) ⟨rfl, rfl⟩ fun _ => rfl)
    (within_refl hb.wf)) fun _ c hc => ?_
  have hcd := hc.drive hb
  have hreg : ∀ a, a ≠ R.VDRV_CSTAT n → c.regs.get a = b.regs.get a := fun a ha => hc.reg fun j h => ha h.1
  have hset : ∀ f : RF, f.reg ∈ [R.VDRV_PROF n, R.VDRV_BOOST n, R.VDRV_BOOSTT n, R.VDRV_HOLDI n] → c.fld f = b.fld f := fun f hf =>
    congrArg f.of (hreg _ fun e => by
      simp only [e, List.mem_cons, List.not_mem_nil, or_false, R.VDRV_PROF, R.VDRV_BOOST, R.VDRV_BOOSTT, R.VDRV_HOLDI, R.VDRV_CSTAT] at hf
      omega)
  have hboost := hset (F.VDRV_BOOST_I n) (by simp [F.VDRV_BOOST_I])
  have htime := hset (F.VDRV_BOOSTT_T n) (by simp [F.VDRV_BOOSTT_T])
  have hlim : c.fld (F.VDRV_CSTAT_THLIM n) = 0 := (hc.frameFld fun j h0 _ h => by
    have h0 : 12 ≤ j := h0
    omega).trans hcold
  have hpaired : c.paired n = b.paired n := by
    rw [Block.paired, Block.paired, hreg _ (by simp only [R.VDRV_PAIR, R.VDRV_CSTAT]; omega)]
  refine ends_bind (ends_valveStart_boosts hcd hn ((hset (F.VDRV_PROF_TYPE n) (by simp [F.VDRV_PROF_TYPE])).trans htyp) hlim (by rw [htime]; exact hlong) command)
    fun _ d hd => ?_
  have hdd := hd.kept.drive hcd
  have hdlim : d.fld (F.VDRV_CSTAT_THLIM n) = 0 := (hd.kept.frameFld fun j h0 h1 => by
    have h0 : 12 ≤ j := h0
    have h1 : j ≤ 12 := h1
    simp only [startBits, phaseBits, F.VDRV_CSTAT_THLIM, R.VDRV_CSTAT, R.VDRV_RESTCNT]
    omega).trans hlim
  refine ends_bind (ends_valvePeriod_boosts hdd hn (by rw [hd.ch]; rfl) hdlim m) fun _ e ⟨he, htarget⟩ => ?_
  have hed := he.drive hdd
  have hefld : ∀ f : RF, e.fld f = d.fld f := fun f => congrArg f.of (he.reg fun _ => id)
  have hgoes : ∀ {γ : Type} (f : ValveCh → γ), (∀ x, f (undriven n x) = f x) → f (e.vch n) = f (d.vch n) := he.of_view n
  have hstands : ∀ {γ : Type} (f : ValveCh → γ), (∀ x, f (undriven n x) = f x) → (∀ x, f (unsearched n x) = f x) →
      (∀ (x : ValveCh) v h p t, f ((x.boosting v h p t).inPhase 1) = f x) → f (e.vch n) = f (b.vch n) := fun f h1 h2 h3 => by
    rw [hgoes f h1, hd.ch, h3, hc.of_view n f h2]
  have hkept : Within (boostBits n) (fun _ => ()) b e := (hc.mono (fun _ _ => .inr) fun _ _ _ => rfl).trans
    ((hd.kept.mono (fun _ _ => .inl) fun _ _ _ => rfl).trans (he.mono (fun _ _ => False.elim) fun _ _ _ => rfl))
  refine ends_then (gives_gf _ e) (ends_of_gives (gives_vchMod n _ e) ?_)
  refine ⟨(hefld _).trans hd.shown, fun hp h2 => (hefld _).trans (hd.pair (hpaired.trans hp) h2), ?_, ?_, ?_, ?_, ?_, ?_,
    ⟨hkept.wf, hkept.bit, rfl⟩⟩
  all_goals rw [modVch_same hed hn]
  · exact hstands ValveCh.active (fun _ => rfl) (fun _ => rfl) fun _ _ _ _ _ => rfl
  · exact hstands ValveCh.demand (fun _ => rfl) (fun _ => rfl) fun _ _ _ _ _ => rfl
  · exact hstands ValveCh.reloadAt (fun _ => rfl) (fun _ => rfl) fun _ _ _ _ _ => rfl
  · refine (hgoes ValveCh.left fun _ => rfl).trans ?_
    rw [hd.ch, ← htime]
    rfl
  · refine (hgoes ValveCh.boost fun _ => rfl).trans ?_
    rw [hd.ch, ← hboost, ← hpaired]
    rfl
  · refine htarget.trans ?_
    rw [hd.ch, ← hboost, ← hpaired]
    rfl

/-! ### A profile ends (R256, R265) -/

omit hb hn in
/-- What block `d` shows of channel `n` that a reload, which left block `b`, switched off. -/
structure Released (n : Nat) (b d : Block) : Prop where
  shown : d.fld (F.VDRV_CSTAT_PHASE n) = 5
  pair : b.paired n = true → n % 2 = 0 → d.fld (F.VDRV_CSTAT_PHASE (n + 1)) = 5
  demand : (d.vch n).demand = (b.vch n).demand
  duty : (d.vch n).duty = 0
  target : (d.vch n).target = 0
  kept : Within (phaseBits n) (fun _ => ()) b d

/-- A running profile switches off: the current decays. -/
theorem ends_released (h1 : 1 ≤ (b.vch n).phase) (h4 : (b.vch n).phase ≤ 4) (cur : Nat) : Ends (do
    valveRelease n
    onlyIf (cur == 0 && (b.vch n).phase == 5) (valvePhase n 0)
    valveRecord n) b fun _ d => Released n b d := by
  have hrelease : Ends (valveRelease n) b fun _ d => Released n b d ∧ d.Drive := by
    refine ends_then (gives_now b) (ends_then (gives_vch n b) (ends_then (gives_bf _ b) (ends_then (gives_gf _ b) (ends_onlyIf_true (by simp [h1, h4])
      (ends_bind (ends_valveOpen hb hn) fun _ c hc => ?_)))))
    have hcd := hc.kept.drive hb
    refine ends_mono (ends_of_keeps (keeps_onlyIf fun _ => keeps_vchMod (T := fun _ _ => False) (view := unsearched) fun _ => rfl) (within_refl hcd.wf)) fun _ d hd =>
      ⟨?_, hd.drive hcd⟩
    have hfld : ∀ f : RF, d.fld f = c.fld f := fun f => congrArg f.of (hd.reg fun _ => id)
    have hkept : Within (phaseBits n) (fun _ => ()) b d :=
      (hc.kept.mono (fun _ _ => id) fun _ _ _ => rfl).trans (hd.mono (fun _ _ => False.elim) fun _ _ _ => rfl)
    refine ⟨(hfld _).trans (hc.shown h1 h4), fun hp h2 => (hfld _).trans (hc.pair h1 h4 hp h2), ?_, ?_, ?_, hkept⟩
    · exact (hd.of_view n ValveCh.demand fun _ => rfl).trans (by rw [hc.ch]; rfl)
    · exact (hd.of_view n ValveCh.duty fun _ => rfl).trans (by rw [hc.ch]; rfl)
    · exact (hd.of_view n ValveCh.target fun _ => rfl).trans (by rw [hc.ch]; rfl)
  refine ends_bind hrelease fun _ d ⟨hd, hdd⟩ => ends_then (gives_onlyIf_false ?_) (ends_then (gives_gf _ d) (ends_of_gives (gives_vchMod n _ d) ?_))
  · rw [show ((b.vch n).phase == 5) = false from beq_eq_false_iff_ne.2 (by omega), Bool.and_false]
  · refine ⟨hd.shown, hd.pair, ?_, ?_, ?_, ⟨hd.kept.wf, hd.kept.bit, rfl⟩⟩
    all_goals rw [modVch_same hdd hn]
    · exact hd.demand
    · exact hd.duty
    · exact hd.target

/-! ### The reload in time (R252, R253, R256, R257) -/

omit hb hn in
/-- A reload of channel `n` past the cycle of the last write, of an enabled drive with its supply in range and no fault, whose D is ON. -/
structure InTime (n : Nat) (b : Block) : Prop where
  past : (b.vch n).cycle ≠ some (b.u.elapsed / 10)
  run : (b.vch n).openRun < 63
  trip : (b.vch n).trip = none
  fault : b.fld (F.VDRV_FAULT_CODE n) = 0
  enabled : b.fld F.VDRV_CTL_EN = 1
  notLow : b.fld (F.VDRV_VCOIL_UV (n / 8)) = 0
  notHigh : b.fld (F.VDRV_VCOIL_OV (n / 8)) = 0
  byOn : b.fld (F.VDRV_PROF_SETON n) = 0

omit hb hn in
theorem Taken.faultless {m : CoilMeas} {set : Nat} {d cm : Bool} {c : Block} (h : Taken n m set d cm b c) (hfault : b.fld (F.VDRV_FAULT_CODE n) = 0)
    (htrip : (b.vch n).trip = none) : ¬(c.fld (F.VDRV_FAULT_CODE n) ≠ 0 ∨ (b.vch n).trip.isSome = true) := by
  have hc : c.fld (F.VDRV_FAULT_CODE n) = b.fld (F.VDRV_FAULT_CODE n) := congrArg (F.VDRV_FAULT_CODE n).of
    (h.other _ (by simp only [F.VDRV_FAULT_CODE, R.VDRV_FAULT, R.VDRV_MEAS]; omega) (by simp only [F.VDRV_FAULT_CODE, R.VDRV_FAULT, R.VDRV_MEAS]; omega))
  rw [hc, hfault, htrip]
  simp

/-- D rises: the profile starts from boost. -/
theorem ends_reload_rises (h : InTime n b) (hon : b.fld (F.VDRV_CMD_ON n) = 1) (htyp : b.fld (F.VDRV_PROF_TYPE n) = 1) (hlow : (b.vch n).demand = false)
    (hcold : b.fld (F.VDRV_CSTAT_THLIM n) = 0) (hlong : 0 < b.fld (F.VDRV_BOOSTT_T n)) (m : CoilMeas) : Ends (valveReload n m) b fun _ d =>
      ∃ c, Taken n m (b.fld (F.VDRV_SET_SET n)) true false b c ∧ BoostRuns n c d := by
  have hlate : ((b.vch n).cycle == some (b.u.elapsed / 10)) = false := beq_eq_false_iff_ne.2 h.past
  refine ends_then (gives_now b) (ends_then (gives_vch n b) (ends_then (gives_paired n b) (ends_then (gives_gf _ b) (ends_then (gives_bf_clear h.byOn)
    (ends_then (gives_bf_set hon) (ends_then (gives_gf _ b) (ends_then (gives_bf_set h.enabled) (ends_then (gives_bf_clear h.notLow)
      (ends_then (gives_bf_clear h.notHigh) (ends_then (gives_bf _ b) ?_))))))))))
  simp only [hlate]
  refine ends_then (gives_onlyIf_false rfl) (ends_reloadTakes (set := b.fld (F.VDRV_SET_SET n)) (d := true) (cm := fun _ => false) hb hn h.run fun c hc =>
    ends_then (gives_gf _ c) (ends_ite_neg (hc.faultless h.fault h.trip) (ends_ite_neg (by decide) (ends_ite_neg ?_ (ends_ite_pos ?_ ?_)))))
  · simp [show (F.VDRV_PROF_TYPE n).of (b.regs.get (F.VDRV_PROF_TYPE n).reg) = 1 from htyp]
  · simp [hlow]
  have hfld : ∀ f : RF, f.reg ∈ [R.VDRV_PROF n, R.VDRV_CSTAT n, R.VDRV_BOOSTT n] → c.fld f = b.fld f := fun f hf => congrArg f.of (hc.other _
    (fun e => by simp only [e, List.mem_cons, List.not_mem_nil, or_false, R.VDRV_PROF, R.VDRV_CSTAT, R.VDRV_BOOSTT, R.VDRV_MEAS] at hf; omega)
    (fun e => by simp only [e, List.mem_cons, List.not_mem_nil, or_false, R.VDRV_PROF, R.VDRV_CSTAT, R.VDRV_BOOSTT, R.VDRV_MEAS] at hf; omega))
  refine ends_mono (ends_boostRuns hc.drive hn ((hfld (F.VDRV_PROF_TYPE n) (by simp [F.VDRV_PROF_TYPE])).trans htyp)
    ((hfld (F.VDRV_CSTAT_THLIM n) (by simp [F.VDRV_CSTAT_THLIM])).trans hcold) ?_ _ m) fun _ d hd => ⟨c, hc, hd⟩
  rw [hfld (F.VDRV_BOOSTT_T n) (by simp [F.VDRV_BOOSTT_T])]
  exact hlong

/-- D falls: a running profile switches off. -/
theorem ends_reload_falls (h : InTime n b) (hon : b.fld (F.VDRV_CMD_ON n) = 0) (h1 : 1 ≤ (b.vch n).phase) (h4 : (b.vch n).phase ≤ 4) (m : CoilMeas) :
    Ends (valveReload n m) b fun _ d => ∃ c, Taken n m (b.fld (F.VDRV_SET_SET n)) false false b c ∧ Released n c d := by
  have hlate : ((b.vch n).cycle == some (b.u.elapsed / 10)) = false := beq_eq_false_iff_ne.2 h.past
  refine ends_then (gives_now b) (ends_then (gives_vch n b) (ends_then (gives_paired n b) (ends_then (gives_gf _ b) (ends_then (gives_bf_clear h.byOn)
    (ends_then (gives_bf_clear hon) (ends_then (gives_gf _ b) (ends_then (gives_bf_set h.enabled) (ends_then (gives_bf_clear h.notLow)
      (ends_then (gives_bf_clear h.notHigh) (ends_then (gives_bf _ b) ?_))))))))))
  simp only [hlate]
  refine ends_then (gives_onlyIf_false rfl) (ends_reloadTakes (set := b.fld (F.VDRV_SET_SET n)) (d := false) (cm := fun _ => false) hb hn h.run fun c hc =>
    ends_then (gives_gf _ c) (ends_ite_neg (hc.faultless h.fault h.trip) (ends_ite_neg (by decide) (ends_ite_pos (by simp) ?_))))
  rw [← hc.phase]
  exact ends_mono (ends_released hc.drive hn (by rw [hc.phase]; exact h1) (by rw [hc.phase]; exact h4) m.current) fun _ d hd => ⟨c, hc, hd⟩

end

/-! ### The reload in the cycle of a write (R257) -/

/-- What a reload leaves once it has taken the setpoint and deferred: the count of deferrals and what tells of them, and SET. -/
abbrev tailBits (n a j : Nat) : Prop :=
  a ≠ R.VDRV_DEFERCNT ∧ a ≠ R.VDRV_SET n ∧ ¬(a = R.VDRV_STAT ∧ j = 7) ∧ ¬(a = R.VDRV_CSTAT n ∧ j = 1)

/-- What it leaves of a channel. -/
def takenView (_ : Nat) (c : ValveCh) : Nat × Bool := (c.active, c.cmd)

section
variable {b0 : Block} {n : Nat}

theorem tailBits_cstat {j : Nat} (hj : j ≠ 1) : tailBits n (R.VDRV_CSTAT n) j := by
  simp only [tailBits, R.VDRV_CSTAT, R.VDRV_DEFERCNT, R.VDRV_SET, R.VDRV_STAT]
  omega

theorem faultShown_tail (hn : n < 32) {a j : Nat} (h : faultShown n a j) : tailBits n a j := by
  simp only [faultShown, phaseBits, linkBits, window, linkWindows, R.VDRV_CSTAT, R.VDRV_FAULT, R.VDRV_FLTMAP, R.VDRV_STAT, List.mem_cons, List.not_mem_nil,
    or_false] at h
  simp only [tailBits, R.VDRV_CSTAT, R.VDRV_DEFERCNT, R.VDRV_SET, R.VDRV_STAT]
  omega

/-- The frame of what follows. -/
abbrev TailKept (n : Nat) : Block → Block → Prop := Within (tailBits n) (valveKeep takenView)

theorem tail_valvePhase (hn : n < 32) (ph : Nat) : Keeps False (TailKept n b0) (valvePhase n ph) :=
  keeps_valvePhase (fun _ _ => rfl) (fun _ _ h => faultShown_tail hn (.inl h)) ph

theorem tail_valveOpen (hn : n < 32) : Keeps False (TailKept n b0) (valveOpen n) :=
  keeps_valveOpen (fun _ _ => rfl) (fun _ => rfl) fun _ _ h => faultShown_tail hn (.inl h)

theorem tail_closingAbort : Keeps False (TailKept n b0) (closingAbort n) := keeps_closingAbort (tailBits_cstat (by decide)) fun _ => rfl

theorem tail_phaseTarget : Keeps False (TailKept n b0) (phaseTarget n) := keeps_gives fun b hb => by
  obtain ⟨v, hv, -⟩ := gives_phaseTarget b n
  exact ⟨v, b, hb, hv⟩

theorem tail_valveStart (hn : n < 32) (command : Bool) : Keeps False (TailKept n b0) (valveStart n command) :=
  keeps_bind keeps_now fun _ => keeps_bind (keeps_paired n) fun _ => keeps_bind (keeps_getVch n) fun _ => keeps_bind (keeps_gf _) fun _ => keeps_bind (keeps_bf _) fun _ =>
    keeps_bind (keeps_bf _) fun _ => keeps_bind (keeps_gf _) fun _ => keeps_bind (keeps_gf _) fun _ => keeps_bind (keeps_gf _) fun _ =>
      keeps_bind (keeps_onlyIf fun _ => keeps_bind (within_sb (Nat.le_refl 2) (show 2 < 32 by decide) fun j h0 _ => tailBits_cstat (by
          have h0 : 2 ≤ j := h0
          omega)) fun _ =>
        within_cntSat (show 0 ≤ 31 by decide) (show 31 < 32 by decide) fun j _ _ => by
          simp only [tailBits, F.VDRV_RESTCNT_CNT, R.VDRV_RESTCNT, R.VDRV_CSTAT, R.VDRV_DEFERCNT, R.VDRV_SET, R.VDRV_STAT]
          omega) fun _ =>
        keeps_ite (fun _ => tail_valvePhase hn 4) fun _ => keeps_bind (keeps_vchMod fun _ => rfl) fun _ => tail_valvePhase hn _

theorem tail_valveRelease (hn : n < 32) : Keeps False (TailKept n b0) (valveRelease n) :=
  keeps_bind keeps_now fun _ => keeps_bind (keeps_getVch n) fun _ => keeps_bind (keeps_bf _) fun _ => keeps_bind (keeps_gf _) fun _ => keeps_onlyIf fun _ =>
    keeps_bind (tail_valveOpen hn) fun _ => keeps_onlyIf fun _ => keeps_vchMod fun _ => rfl

theorem tail_valvePeriod (m : CoilMeas) : Keeps False (TailKept n b0) (valvePeriod n m) := by
  have hdrives : ∀ (c : ValveCh) (tg k : Nat) (wait : Bool), Keeps False (TailKept n b0) (do
      modVch n fun x => { x with target := tg, duty := k, waitFall := wait }
      onlyIf (c.phase == 3 && !wait) (ditherAdvance n)) := fun c tg k wait =>
    keeps_bind (keeps_vchMod fun _ => rfl) fun _ => keeps_onlyIf fun _ => keeps_bind (keeps_gf _) fun _ => keeps_vchMod fun _ => rfl
  exact keeps_bind (keeps_getVch n) fun c => keeps_ite (fun _ => keeps_vchMod fun _ => rfl) fun _ => keeps_bind tail_phaseTarget fun tg =>
    keeps_ite (fun _ => keeps_bind (keeps_pure 0) fun k => hdrives c tg k _) fun _ =>
      keeps_bind (keeps_bind keeps_valveFree fun _ => keeps_pure _) fun k => hdrives c tg k _

theorem tail_boostOver (hn : n < 32) (cur : Nat) : Keeps False (TailKept n b0) (boostOver n cur) :=
  keeps_bind keeps_now fun _ => keeps_bind (keeps_getVch n) fun _ => keeps_bind (keeps_gf _) fun _ => keeps_bind (keeps_bf _) fun _ =>
    keeps_ite (fun _ => keeps_valveFault (fun _ _ => rfl) (fun _ => rfl) hn (fun _ _ => faultShown_tail hn) 4 0) fun _ =>
      keeps_bind (tail_valvePhase hn _) fun _ => keeps_bind (keeps_vchMod fun _ => rfl) fun _ => keeps_bind tail_phaseTarget fun _ => keeps_vchMod fun _ => rfl

theorem tail_valveRecord : Keeps False (TailKept n b0) (valveRecord n) := keeps_bind (keeps_gf _) fun _ => keeps_vchMod fun _ => rfl

end

/-- The block with `k` writes of channel `n` deferred. -/
def Block.deferred (b : Block) (n k : Nat) : Block :=
  ((b.setField F.VDRV_DEFERCNT_CNT (satAdd (2 ^ 32 - 1) (b.fld F.VDRV_DEFERCNT_CNT) k)).setField F.VDRV_STAT_DEFER 1).setField (F.VDRV_CSTAT_DEFER n) 1

section
variable {b : Block} (hb : b.Drive) {n : Nat} (hn : n < 32)
include hb hn

omit hb hn in
theorem gives_valveDefer {k : Nat} (hk : 0 < k) : Gives (valveDefer n k) b () (b.deferred n k) :=
  gives_onlyIf_true (decide_eq_true hk) (gives_bind (gives_cntSat _ k b) (gives_bind (gives_sb _ true _) (gives_sb _ true _)))

omit hn in
theorem deferred_drive (k : Nat) : (b.deferred n k).Drive := setField_drive (setField_drive (setField_drive hb _ _) _ _) _ _

theorem deferred_fld (k : Nat) : (b.deferred n k).fld F.VDRV_DEFERCNT_CNT = min (b.fld F.VDRV_DEFERCNT_CNT + k) 0xFFFFFFFF ∧
    (b.deferred n k).fld F.VDRV_STAT_DEFER = 1 ∧ (b.deferred n k).fld (F.VDRV_CSTAT_DEFER n) = 1 := by
  obtain ⟨-, -, -, -, -, hchan, -⟩ := held_channel n hn
  obtain ⟨hstat, -, -, -, -, -, hcnt, -⟩ := held_drive
  have hwf := setField_wf hb.wf F.VDRV_DEFERCNT_CNT (satAdd (2 ^ 32 - 1) (b.fld F.VDRV_DEFERCNT_CNT) k)
  have h1 : R.VDRV_DEFERCNT ≠ R.VDRV_CSTAT n := by simp only [R.VDRV_DEFERCNT, R.VDRV_CSTAT]; omega
  have h2 : R.VDRV_STAT ≠ R.VDRV_CSTAT n := by simp only [R.VDRV_STAT, R.VDRV_CSTAT]; omega
  refine ⟨?_, ?_, fld_setField (setField_wf hwf _ _) hchan 1⟩
  · rw [Block.deferred, fld_setField_ne _ (g := F.VDRV_DEFERCNT_CNT) (f := F.VDRV_CSTAT_DEFER n) h1,
      fld_setField_ne _ (g := F.VDRV_DEFERCNT_CNT) (f := F.VDRV_STAT_DEFER) (by decide)]
    exact (fld_setField hb.wf hcnt _).trans (satAdd_word _ k)
  · rw [Block.deferred, fld_setField_ne _ (g := F.VDRV_STAT_DEFER) (f := F.VDRV_CSTAT_DEFER n) h2]
    exact fld_setField hwf hstat 1

/-- A reload in the cycle of a write takes what stood before it, and the write waits. -/
theorem ends_reload_late (hcycle : (b.vch n).cycle = some (b.u.elapsed / 10)) (hwrites : 0 < (b.vch n).writes) (hrun : (b.vch n).openRun < 63) (m : CoilMeas) :
    Ends (valveReload n m) b fun _ d => (d.vch n).active = (b.vch n).wasSet ∧ (d.vch n).cmd = (b.vch n).cmdNew ∧
      d.fld F.VDRV_DEFERCNT_CNT = min (b.fld F.VDRV_DEFERCNT_CNT + (b.vch n).writes) 0xFFFFFFFF ∧ d.fld F.VDRV_STAT_DEFER = 1 ∧
      d.fld (F.VDRV_CSTAT_DEFER n) = 1 ∧ d.fld (F.VDRV_SET_SET n) = b.fld (F.VDRV_SET_SET n) := by
  have hlate : ((b.vch n).cycle == some (b.u.elapsed / 10)) = true := beq_iff_eq.2 hcycle
  let e := b.deferred n (b.vch n).writes
  have he : e.Drive := deferred_drive hb _
  have hpaired : b.paired n = e.paired n := by
    have h : e.regs.get R.VDRV_PAIR = b.regs.get R.VDRV_PAIR := (setField_get_ne _ _ _ (by simp only [R.VDRV_PAIR, F.VDRV_CSTAT_DEFER, R.VDRV_CSTAT]; omega)).trans
      ((setField_get_ne _ _ _ (by decide)).trans (setField_get_ne _ _ _ (by decide)))
    rw [Block.paired, Block.paired, h]
  refine ends_then (gives_now b) (ends_then (gives_vch n b) (ends_then (gives_paired n b) (ends_then (gives_gf _ b) (ends_then (gives_bf _ b)
    (ends_then (gives_bf _ b) (ends_then (gives_gf _ b) (ends_then (gives_bf _ b) (ends_then (gives_bf _ b)
      (ends_then (gives_bf _ b) (ends_then (gives_bf _ b) ?_))))))))))
  simp only [hlate, Bool.true_and]
  rw [hpaired]
  refine ends_then (gives_onlyIf_true rfl (gives_valveDefer hwrites)) (ends_reloadTakes (b := e) (set := (b.vch n).wasSet) (cm := ValveCh.cmdNew) he hn hrun
    fun c hc => ?_)
  have hperiod := fun b0 : Block => keeps_bind (tail_valvePeriod (n := n) (b0 := b0) m) fun _ => tail_valveRecord
  have hgone := fun b0 : Block =>
    keeps_bind (keeps_onlyIf (c := m.current == 0 && (b.vch n).phase == 5) fun _ => tail_valvePhase (n := n) (b0 := b0) hn 0) fun _ => tail_valveRecord
  refine ends_mono (ends_of_keeps (R := TailKept n c) ?_ (within_refl hc.drive.wf)) fun _ d hd => ?_
  · refine keeps_bind (keeps_gf _) fun fault => keeps_ite (fun _ => tail_valveRecord) fun _ => ?_
    refine keeps_ite (fun _ => keeps_bind (tail_valveOpen hn) fun _ => hgone c) fun _ => ?_
    refine keeps_ite (fun _ => keeps_bind (tail_valveRelease hn) fun _ => hgone c) fun _ => ?_
    refine keeps_ite (fun _ => keeps_bind tail_closingAbort fun _ => keeps_bind (tail_valveStart hn _) fun _ => hperiod c) fun _ => ?_
    refine keeps_ite (fun _ => keeps_bind (keeps_vchMod fun _ => rfl) fun _ => ?_) fun _ => ?_
    · refine keeps_ite (fun _ => keeps_bind (tail_boostOver hn _) fun _ => keeps_bind (keeps_getVch n) fun _ => ?_) fun _ => hperiod c
      exact keeps_bind (keeps_onlyIf fun _ => tail_valvePeriod m) fun _ => tail_valveRecord
    · exact keeps_ite (fun _ => hperiod c) fun _ => keeps_bind tail_closingAbort fun _ => keeps_bind (tail_valveStart hn _) fun _ => hperiod c
  have hview := hd.vch n
  obtain ⟨hcnt, hstat, hchan⟩ := deferred_fld hb hn (b.vch n).writes
  have hreg : ∀ a ∈ [R.VDRV_DEFERCNT, R.VDRV_STAT, R.VDRV_CSTAT n, R.VDRV_SET n], a ≠ R.VDRV_MEAS n ∧ a ≠ R.VDRV_MEAS (n + 1) := fun a ha => by
    simp only [List.mem_cons, List.not_mem_nil, or_false, R.VDRV_DEFERCNT, R.VDRV_STAT, R.VDRV_CSTAT, R.VDRV_SET, R.VDRV_MEAS] at ha ⊢
    omega
  have hfld : ∀ f : RF, f.reg ∈ [R.VDRV_DEFERCNT, R.VDRV_STAT, R.VDRV_CSTAT n, R.VDRV_SET n] →
      (∀ j, f.lo ≤ j → j ≤ f.hi → ¬ tailBits n f.reg j) → d.fld f = e.fld f :=
    fun f hf hbit => (hd.frameFld hbit).trans (congrArg f.of (hc.other _ (hreg _ hf).1 (hreg _ hf).2))
  have hset : e.fld (F.VDRV_SET_SET n) = b.fld (F.VDRV_SET_SET n) := congrArg (F.VDRV_SET_SET n).of
    ((setField_get_ne _ _ _ (by simp only [F.VDRV_SET_SET, F.VDRV_CSTAT_DEFER, R.VDRV_SET, R.VDRV_CSTAT]; omega)).trans
      ((setField_get_ne _ _ _ (by simp only [F.VDRV_SET_SET, F.VDRV_STAT_DEFER, R.VDRV_SET, R.VDRV_STAT]; omega)).trans
        (setField_get_ne _ _ _ (by simp only [F.VDRV_SET_SET, F.VDRV_DEFERCNT_CNT, R.VDRV_SET, R.VDRV_DEFERCNT]; omega))))
  refine ⟨(congrArg Prod.fst hview).trans hc.active, (congrArg Prod.snd hview).trans hc.cmd, (hfld F.VDRV_DEFERCNT_CNT ?_ fun _ _ _ h => h.1 rfl).trans hcnt,
    (hfld F.VDRV_STAT_DEFER ?_ fun _ h0 h1 h => h.2.2.1 ⟨rfl, Nat.le_antisymm h1 h0⟩).trans hstat,
    (hfld (F.VDRV_CSTAT_DEFER n) ?_ fun _ h0 h1 h => h.2.2.2 ⟨rfl, Nat.le_antisymm h1 h0⟩).trans hchan,
    (hfld (F.VDRV_SET_SET n) ?_ fun _ _ _ h => h.2.1 rfl).trans hset⟩
  · simp [F.VDRV_DEFERCNT_CNT]
  · simp [F.VDRV_STAT_DEFER]
  · simp [F.VDRV_CSTAT_DEFER]
  · simp [F.VDRV_SET_SET]

end

/-! ### The command (R248, R661) -/

section
variable {b : Block} {n st : Nat} {m : CoilMeas} {Q : Unit → Block → Prop}

/-- A reload that is due in the bank's period, and has not been in it. -/
theorem ends_reload_due (hn : n < 32) (hon : b.fld (domField (vgate n)) = 1) (hbank : b.u.vdrv.banks.getD (n / 8) none = some st)
    (hdue : st + b.governs n % 8 * 6250 ≤ b.u.elapsed) (hfresh : ∀ r ∈ (b.vch n).reloadAt, r < st + b.governs n % 8 * 6250)
    (h : Ends (if b.governs n = n then valveReload n m else oddReload n m) b Q) : Ends (opValveReload n m) b Q := by
  have hgoes : (decide (n < 32) && true && decide (st + b.governs n % 8 * 6250 ≤ b.u.elapsed) &&
      (match (b.vch n).reloadAt with | none => true | some r => decide (r < st + b.governs n % 8 * 6250))) = true := by
    rw [decide_eq_true hn, decide_eq_true hdue]
    revert hfresh
    cases (b.vch n).reloadAt with
    | none => exact fun _ => rfl
    | some r => exact fun hr => decide_eq_true (hr r rfl)
  refine ends_then (gives_now b) (ends_then (gives_units b) (ends_then (gives_vch n b) (ends_then (gives_governs n b) (ends_then (gives_domainOn hon) ?_))))
  simp only [hbank]
  exact ends_onlyIf_true hgoes h

/-- The odd leg of a pair shows the current of its own (R661). -/
theorem ends_oddReload (hb : b.Drive) (hn : n < 32) (hmean : m.mean < 65536) : Ends (oddReload n m) b fun _ d => d.fld (F.VDRV_MEAS_I n) = m.mean ∧
    d.fld (F.VDRV_MEAS_DUTY n) = b.fld (F.VDRV_MEAS_DUTY n) ∧ d.vch n = { b.vch n with reloadAt := some b.u.elapsed } ∧ (∀ j, j ≠ n → d.vch j = b.vch j) ∧
    ∀ a, a ≠ R.VDRV_MEAS n → d.regs.get a = b.regs.get a := by
  obtain ⟨hi, -⟩ := held_measured n hn
  refine ends_then (gives_setField _ _ b) (ends_then (gives_now _) (ends_of_gives (gives_vchMod n _ _) ⟨?_, ?_, modVch_same (setField_drive hb _ _) hn _,
    fun j hj => modVch_ne _ hj _, fun a ha => setField_get_ne _ _ _ ha⟩))
  · rw [fitU_of_lt hmean]
    exact (fld_setField hb.wf hi m.mean).trans (Nat.mod_eq_of_lt hmean)
  · exact fld_setField_apart hb.wf hi (g := F.VDRV_MEAS_DUTY n) rfl (.inr (show 15 < 16 by decide)) _

end

/-! ### The statement -/

section
variable {b : Block} (hb : b.Drive) {n st : Nat} (hn : n < 32) {m : CoilMeas} (hg : b.governs n = n) (hon : b.fld (domField (vgate n)) = 1)
  (hbank : b.u.vdrv.banks.getD (n / 8) none = some st) (hdue : st + n % 8 * 6250 ≤ b.u.elapsed) (hfresh : ∀ r ∈ (b.vch n).reloadAt, r < st + n % 8 * 6250)
include hn hg hon hbank hdue hfresh

theorem ends_reload_self {Q : Unit → Block → Prop} (h : Ends (valveReload n m) b Q) : Ends (opValveReload n m) b Q :=
  ends_reload_due hn hon hbank (by rwa [hg]) (by rwa [hg]) (by rwa [if_pos hg])

include hb

/-- The reload at which D rises, as the registers and the channel show it: of a pair, at both channels. -/
theorem ends_reloadCommand_boosts (h : InTime n b) (hmean : m.mean < 65536) (hcmd : b.fld (F.VDRV_CMD_ON n) = 1) (htyp : b.fld (F.VDRV_PROF_TYPE n) = 1)
    (hlow : (b.vch n).demand = false) (hcold : b.fld (F.VDRV_CSTAT_THLIM n) = 0) (hlong : 0 < b.fld (F.VDRV_BOOSTT_T n)) : Ends (opValveReload n m) b fun _ d =>
      (d.fld (F.VDRV_CSTAT_PHASE n) = 1 ∧ d.fld (F.VDRV_MEAS_I n) = m.mean ∧ (d.vch n).demand = true ∧ (d.vch n).active = b.fld (F.VDRV_SET_SET n) ∧
        (d.vch n).left = 2 * min 10000 (b.fld (F.VDRV_BOOSTT_T n)) ∧ (d.vch n).boost = min (b.fld (F.VDRV_BOOST_I n)) (boostLimit (b.paired n)) ∧
        (d.vch n).target = min (b.fld (F.VDRV_BOOST_I n)) (boostLimit (b.paired n)) ∧ (d.vch n).reloadAt = some b.u.elapsed ∧
        d.fld (F.VDRV_MEAS_DUTY n) = (b.vch n).ran.duty % 65536) ∧
      (b.paired n = true → n % 2 = 0 → d.fld (F.VDRV_CSTAT_PHASE (n + 1)) = 1 ∧ d.fld (F.VDRV_MEAS_I (n + 1)) = b.fld (F.VDRV_MEAS_I (n + 1)) ∧
        d.fld (F.VDRV_MEAS_DUTY (n + 1)) = (b.vch n).ran.duty % 65536) := by
  refine ends_mono (ends_reload_self hn hg hon hbank hdue hfresh (ends_reload_rises hb hn h hcmd htyp hlow hcold hlong m)) fun _ d ⟨c, hc, hd⟩ => ?_
  obtain ⟨hi, hduty⟩ := hc.meas hmean hn
  have hmeas : ∀ f : RF, f.reg = R.VDRV_MEAS n ∨ f.reg = R.VDRV_MEAS (n + 1) → d.fld f = c.fld f := fun f hf => hd.kept.frameFld fun j _ _ => by
    simp only [boostBits, startBits, phaseBits, R.VDRV_MEAS, R.VDRV_CSTAT, R.VDRV_RESTCNT] at hf ⊢
    omega
  have hset : ∀ f : RF, f.reg ∈ [R.VDRV_PAIR, R.VDRV_BOOST n, R.VDRV_BOOSTT n] → c.fld f = b.fld f := fun f hf => congrArg f.of (hc.other _
    (fun e => by simp only [e, List.mem_cons, List.not_mem_nil, or_false, R.VDRV_PAIR, R.VDRV_BOOST, R.VDRV_BOOSTT, R.VDRV_MEAS] at hf; omega)
    (fun e => by simp only [e, List.mem_cons, List.not_mem_nil, or_false, R.VDRV_PAIR, R.VDRV_BOOST, R.VDRV_BOOSTT, R.VDRV_MEAS] at hf; omega))
  have hpaired : c.paired n = b.paired n := by
    rw [Block.paired, Block.paired, hc.other _ (by simp only [R.VDRV_PAIR, R.VDRV_MEAS]; omega) (by simp only [R.VDRV_PAIR, R.VDRV_MEAS]; omega)]
  have hcurrent : min (c.fld (F.VDRV_BOOST_I n)) (boostLimit (c.paired n)) = min (b.fld (F.VDRV_BOOST_I n)) (boostLimit (b.paired n)) := by
    rw [hset (F.VDRV_BOOST_I n) (by simp [F.VDRV_BOOST_I]), hpaired]
  refine ⟨⟨hd.shown, (hmeas _ (.inl rfl)).trans hi, hd.demand.trans hc.demand, hd.active.trans hc.active, ?_, hd.boost.trans hcurrent, hd.target.trans hcurrent,
    hd.reloadAt.trans hc.reloadAt, (hmeas _ (.inl rfl)).trans hduty⟩, fun hp heven => ?_⟩
  · rw [hd.left, hset (F.VDRV_BOOSTT_T n) (by simp [F.VDRV_BOOSTT_T])]
  · obtain ⟨hdutyNext, hiNext⟩ := hc.pair hn hp heven
    exact ⟨hd.pair (hpaired.trans hp) heven, (hmeas _ (.inr rfl)).trans hiNext, (hmeas _ (.inr rfl)).trans hdutyNext⟩

/-- The reload at which D falls, as the registers and the channel show it: of a pair, at both channels. -/
theorem ends_reloadCommand_releases (h : InTime n b) (hmean : m.mean < 65536) (hcmd : b.fld (F.VDRV_CMD_ON n) = 0) (h1 : 1 ≤ (b.vch n).phase)
    (h4 : (b.vch n).phase ≤ 4) : Ends (opValveReload n m) b fun _ d => d.fld (F.VDRV_CSTAT_PHASE n) = 5 ∧ d.fld (F.VDRV_MEAS_I n) = m.mean ∧
      (d.vch n).demand = false ∧ (d.vch n).duty = 0 ∧ (d.vch n).target = 0 ∧ (b.paired n = true → n % 2 = 0 → d.fld (F.VDRV_CSTAT_PHASE (n + 1)) = 5) := by
  refine ends_mono (ends_reload_self hn hg hon hbank hdue hfresh (ends_reload_falls hb hn h hcmd h1 h4 m)) fun _ d ⟨c, hc, hd⟩ => ?_
  obtain ⟨hi, -⟩ := hc.meas hmean hn
  have hpaired : c.paired n = b.paired n := by
    rw [Block.paired, Block.paired, hc.other _ (by simp only [R.VDRV_PAIR, R.VDRV_MEAS]; omega) (by simp only [R.VDRV_PAIR, R.VDRV_MEAS]; omega)]
  refine ⟨hd.shown, (hd.kept.frameFld fun j _ _ => ?_).trans hi, hd.demand.trans hc.demand, hd.duty, hd.target, fun hp => hd.pair (hpaired.trans hp)⟩
  simp only [phaseBits, F.VDRV_MEAS_I, R.VDRV_MEAS, R.VDRV_CSTAT]
  omega

end

/-- Settles O19: the reload of a channel that governs itself is one argument for a single channel and for the even one of a pair, and so is the end of
its boost; a governed leg shows its current alone. -/
theorem valveReloads : Obligations.ValveReloads := by
  unfold Obligations.ValveReloads
  refine ⟨?period, ?rise, ?fall, ?late, ?boostEnd, ?boostOpen, ?command, ?risePair, ?fallPair, ?tail, ?boostEndPair, ?boostOpenPair, ?boostEndTail, ?commandTail⟩
  case period =>
    intro s k a st hl hb hk hwhole ha hst hdue
    exact does_of_ends rfl hl (ends_mono (ends_bankPeriod hb hk hwhole ha hst hdue) fun _ d ⟨h1, h2, h3, h4, h5⟩ => ⟨h1, h2, h3, h4, fun x hx => h5 x (by simpa using hx)⟩)
  case rise =>
    intro s n st m hl hb ⟨hn, hpair, hwhole⟩ hon hbank hdue hfresh hfault hen huv hov hmean htyp hseton hcmd hlow hcold hlong hpast htrip hrun
    refine does_of_ends rfl hl (ends_mono (ends_reloadCommand_boosts ⟨hb, hwhole⟩ hn (governs_self (.inl hpair)) hon hbank hdue hfresh
      ⟨hpast, hrun, htrip, hfault, hen, huv, hov, hseton⟩ hmean hcmd htyp hlow hcold hlong) fun _ d ⟨hshown, _⟩ => ?_)
    rw [show s.dev.paired n = false from hpair] at hshown
    exact hshown
  case fall =>
    intro s n st m hl hb ⟨hn, hpair, hwhole⟩ hon hbank hdue hfresh hfault hen huv hov hmean hseton hcmd h1 h4 hpast htrip hrun
    exact does_of_ends rfl hl (ends_mono (ends_reloadCommand_releases ⟨hb, hwhole⟩ hn (governs_self (.inl hpair)) hon hbank hdue hfresh
      ⟨hpast, hrun, htrip, hfault, hen, huv, hov, hseton⟩ hmean hcmd h1 h4) fun _ d ⟨hphase, hi, hdemand, hduty, htarget, _⟩ => ⟨hphase, hi, hdemand, hduty, htarget⟩)
  case late =>
    intro s n st m hl hb ⟨hn, hpair, hwhole⟩ hon hbank hdue hfresh _ _ hrun hcycle hwrites
    exact does_of_ends rfl hl (ends_reload_self hn (governs_self (.inl hpair)) hon hbank hdue hfresh (ends_reload_late ⟨hb, hwhole⟩ hn hcycle hwrites hrun m))
  case boostEnd =>
    intro s n cur rl hl hb ⟨hn, hpair, hwhole⟩ hphase hreload hdue hreached
    refine does_of_ends rfl hl (ends_boostEnd (governs_self (.inl hpair)) hphase hreload hdue (ends_mono (ends_boostOver_goesOn ⟨hb, hwhole⟩ hn hreached) fun _ d hd =>
      ⟨hd.shown, hd.left, hd.duty, hd.since, hd.wait, hd.kept.frameFld fun j _ _ => ?_⟩))
    simp only [phaseBits, F.VDRV_FAULT_CODE, R.VDRV_FAULT, R.VDRV_CSTAT]
    omega
  case boostOpen =>
    intro s n cur rl hl hb ⟨hn, hpair, hwhole⟩ hphase hreload hdue holen hlow hnone
    refine does_of_ends rfl hl (ends_boostEnd (governs_self (.inl hpair)) hphase hreload hdue (ends_mono (ends_boostOver_open ⟨hb, hwhole⟩ hn holen hlow hnone) fun _ d hd =>
      ⟨hd.read.code, hd.shown, hd.read.map, hd.read.opened rfl, (congrArg ValveCh.duty hd.ch).trans rfl⟩))
  case command =>
    intro s src n hl hb ⟨hn, hpair, hwhole⟩ hon hseton htyp hnone
    exact does_of_ends rfl hl (ends_cmdOn ⟨hb, hwhole⟩ hn hon (governs_self (.inl hpair)) hseton htyp hnone)
  case risePair =>
    intro s n st m hl hb ⟨hn, heven, hpair, hwhole⟩ hon hbank hdue hfresh hfault hen huv hov hmean htyp hseton hcmd hlow hcold hlong hpast htrip hrun
    refine does_of_ends rfl hl (ends_mono (ends_reloadCommand_boosts ⟨hb, hwhole⟩ hn (governs_self (.inr heven)) hon hbank hdue hfresh
      ⟨hpast, hrun, htrip, hfault, hen, huv, hov, hseton⟩ hmean hcmd htyp hlow hcold hlong)
        fun _ d ⟨⟨hphase, hi, hdemand, hactive, hleft, hboost, htarget, hreload, hduty⟩, hnext⟩ => ?_)
    obtain ⟨hphaseNext, hiNext, hdutyNext⟩ := hnext hpair heven
    rw [show s.dev.paired n = true from hpair] at hboost htarget
    exact ⟨hphase, hphaseNext, hi, hiNext, hdemand, hactive, hleft, hboost, htarget, hreload, hduty, hdutyNext⟩
  case fallPair =>
    intro s n st m hl hb ⟨hn, heven, hpair, hwhole⟩ hon hbank hdue hfresh hfault hen huv hov hmean hseton hcmd h1 h4 hpast htrip hrun
    exact does_of_ends rfl hl (ends_mono (ends_reloadCommand_releases ⟨hb, hwhole⟩ hn (governs_self (.inr heven)) hon hbank hdue hfresh
      ⟨hpast, hrun, htrip, hfault, hen, huv, hov, hseton⟩ hmean hcmd h1 h4) fun _ d ⟨hphase, hi, hdemand, hduty, htarget, hnext⟩ =>
        ⟨hphase, hnext hpair heven, hi, hdemand, hduty, htarget⟩)
  case tail =>
    intro s n st m hl hb ⟨hn, hodd, hpair, hwhole⟩ hon hbank hdue hfresh hmean
    have hg : s.dev.governs n = n - 1 := governs_odd hpair hodd
    refine does_of_ends rfl hl (ends_reload_due hn hon hbank (by rwa [hg]) (by rw [hg]; exact hfresh) ?_)
    rw [if_neg (by omega)]
    exact ends_mono (ends_oddReload ⟨hb, hwhole⟩ hn hmean) fun _ d ⟨hi, hduty, hch, hother, hregs⟩ =>
      ⟨hi, hduty, hch, fun j _ hj => hother j hj, fun a ha => hregs a (by simpa using ha)⟩
  case boostEndPair =>
    intro s n cur rl hl hb ⟨hn, heven, hpair, hwhole⟩ hphase hreload hdue hreached
    refine does_of_ends rfl hl (ends_boostEnd (governs_self (.inr heven)) hphase hreload hdue (ends_mono (ends_boostOver_goesOn ⟨hb, hwhole⟩ hn hreached) fun _ d hd =>
      ⟨hd.shown, hd.pair hpair heven, hd.left, hd.duty, hd.since, fun htyp hcold => ?_, hd.wait, fun a ha => hd.kept.reg fun j hbit => ?_⟩))
    · have htarget := hd.target htyp hcold
      rw [show s.dev.paired n = true from hpair] at htarget
      exact htarget
    · exact ha (by simpa using hbit.1)
  case boostOpenPair =>
    intro s n cur rl hl hb ⟨hn, heven, hpair, hwhole⟩ hphase hreload hdue holen hlow hnone
    refine does_of_ends rfl hl (ends_boostEnd (governs_self (.inr heven)) hphase hreload hdue (ends_mono (ends_boostOver_open ⟨hb, hwhole⟩ hn holen hlow hnone) fun _ d hd =>
      ⟨hd.read.code, hd.shown, hd.pair hpair heven, hd.kept.frameFld fun j _ _ => ?_, hd.read.map, hd.read.opened rfl, (congrArg ValveCh.duty hd.ch).trans rfl⟩))
    simp only [faultShown, phaseBits, linkBits, window, linkWindows, F.VDRV_FAULT_CODE, R.VDRV_FAULT, R.VDRV_CSTAT, R.VDRV_FLTMAP, R.VDRV_STAT, List.mem_cons,
      List.not_mem_nil, or_false]
    omega
  case boostEndTail =>
    intro s n cur hl ⟨hn, hodd, hpair, _⟩
    exact does_nothing hl rfl (gives_boostEnd_governed (by rw [governs_odd hpair hodd]; omega))
  case commandTail =>
    intro s src n hl hb ⟨hn, hodd, hpair, hwhole⟩ hon
    exact does_of_ends rfl hl (ends_mono (ends_cmdOn_governed ⟨hb, hwhole⟩ hn hon (by rw [governs_odd hpair hodd]; omega)) fun _ d ⟨hcmd, hu, hregs⟩ =>
      ⟨hcmd, hu, fun a ha => hregs a (by simpa using ha)⟩)

end Sys2Proof.Machine
end
